-- ==== Sys2Proof/Word.lean ====
section
/-!
DEFINITION. The word and byte types of the module (R33: registers are 32-bit words; R28: memory is bytes at 40-bit
physical addresses).
-/

namespace Sys2Proof

/-- A register word (R33). -/
abbrev Word := BitVec 32

/-- A byte of memory or of a frame. -/
abbrev Byte := BitVec 8

end Sys2Proof
end

