-- ==== Sys2Proof/Syntax.lean ====
section
/-!
DEFINITION. The commands of the module: one constructor per row of spec/opcode_table.json. Every constructor's
docstring names the rule that defines the row. Operands carry what the outside supplies: the master and slice of an
access, an instance, a frame's octets, a measured quantity.
-/

namespace Sys2Proof

/-- Who makes an access: the master (twill pair 0–11, debug access port 12; R36), the slice running on it (R211), and the
program counter of the instruction that makes it, which an exception records (R190). -/
structure Who where
  master : Fin 13
  slice  : Fin 256
  pc     : BitVec 64
  deriving DecidableEq, Repr

/-- The rights of a grant (R212). -/
inductive Right where
  | rd | wr | use
  deriving DecidableEq, Repr

/-- What the Weft unit's estimator reports of one source at one grid point (R527: the estimator's design is the
module's own, so its results enter as operands): the source has been measured, its frequency over the last cycle in
Hz × 2^24, its phase less that of the grid (of the loop, in ACQUIRE) in ac. -/
structure SourceMeas where
  measured : Bool
  freq     : Nat
  phase    : Int
  deriving DecidableEq, Repr

/-- An IEC 62351-6 authentication extension as a received frame carries it (R113): key identifier, algorithm
(1 HMAC-SHA-256 with a 16-octet tag, 2 with a 32-octet tag, 3 AES-GMAC), initialisation vector, octets covered, tag. -/
structure AuthExt where
  keyId : BitVec 32
  alg   : Nat
  iv    : List Byte
  data  : List Byte
  tag   : List Byte
  deriving DecidableEq, Repr

/-- A frame at an internal port with what its selvedge reports (R286): octets from the destination address on, FCS left
out; TS32 of the receive timestamp; ingress port; path (0 none, 1 LAN A, 2 LAN B); any of fcs_err, len_err, red_err,
mac_err; `TIME_STEP_CNT` when the timestamp was taken; the authentication extension it carries. -/
structure RxFrame where
  octets  : List Byte
  ts32    : BitVec 32
  port    : Fin 13
  path    : Fin 3
  bad     : Bool
  stepCnt : BitVec 32
  auth    : Option AuthExt
  deriving DecidableEq, Repr

/-- Where a stack message comes from (R342, R343): cascade up, cascade down, the twin's relay over ML; `own`: the module
itself calls for it to be sent. -/
inductive CasIn where
  | up | down | relay | own
  deriving DecidableEq, Repr

/-- A CAN frame as received (R412, R413). -/
structure CanFrame where
  id   : BitVec 29
  ide  : Bool
  rtr  : Bool
  fdf  : Bool
  brs  : Bool
  esi  : Bool
  dlc  : Fin 16
  data : List Byte
  deriving DecidableEq, Repr

/-- The commands (spec/opcode_table.json). -/
inductive Instr where
  /-- REGISTER_WRITE (R32). -/
  | registerWrite (w : Who) (addr size value : Nat)
  /-- PAIR_ACCESS (R212). -/
  | pairAccess (p : Fin 12) (pc : BitVec 64) (virt : Bool) (addr size : Nat) (r : Right) (value : Nat)
  /-- LOW_WORD_READ (R40). -/
  | lowWordRead (w : Who) (addr : Nat)
  /-- HIGH_WORD_READ (R40). -/
  | highWordRead (w : Who) (addr : Nat)
  /-- LOW_WORD_WRITE (R40). -/
  | lowWordWrite (w : Who) (addr : Nat) (value : Word)
  /-- HIGH_WORD_WRITE (R40). -/
  | highWordWrite (w : Who) (addr : Nat) (value : Word)
  /-- SHADOW_WRITE (R48). -/
  | shadowWrite (w : Who) (addr : Nat) (value : Word)
  /-- COMMIT_INSTANCE (R47). -/
  | commitInstance (w : Who) (b : Fin 24) (inst : Fin 65536)
  /-- COMMIT_ALL (R525). -/
  | commitAll (w : Who) (b : Fin 24)
  /-- COMMIT_ACTIVATION (R49). -/
  | commitActivation (b : Fin 24) (inst : Fin 65536)
  /-- BLK_RESET_INSTANCE (R35). -/
  | blkResetInstance (w : Who) (b : Fin 24) (inst : Fin 65536)
  /-- BLK_RESET_ALL (R35). -/
  | blkResetAll (w : Who) (b : Fin 24)
  /-- DOORBELL_FENCE_ENGINE (R42). -/
  | doorbellFenceEngine (w : Who) (n : Fin 13)
  /-- DOORBELL_FENCE_POINT (R42). -/
  | doorbellFencePoint (w : Who) (n : Fin 13)
  /-- DOORBELL_FENCE_NET (R42). -/
  | doorbellFenceNet (w : Who) (n : Fin 13)
  /-- DOORBELL_FENCE_ALL (R42). -/
  | doorbellFenceAll (w : Who) (n : Fin 13)
  /-- FENCE_COMPLETE (R41). -/
  | fenceComplete (m : Fin 13) (doorbell : Bool)
  /-- XCOMMIT_ARM (R526). -/
  | xcommitArm (w : Who) (abort : Bool)
  /-- XCOMMIT_ABORT (R526). -/
  | xcommitAbort (w : Who)
  /-- XCOMMIT_ACTIVATION (R50). -/
  | xcommitActivation
  /-- XCOMMIT_TIMEOUT (R51). -/
  | xcommitTimeout
  /-- INCREMENT_WRITE (R54). -/
  | incrementWrite (w : Who) (hi lo : Word)
  /-- SET (R60). -/
  | set (w : Who)
  /-- STEP (R60). -/
  | step (w : Who)
  /-- SEED (R60). -/
  | seed (w : Who)
  /-- LOCK (R57). -/
  | lock (w : Who)
  /-- UNLOCK (R57). -/
  | unlock (w : Who)
  /-- PTP_SYNC_RECEIVE (R58). -/
  | ptpSyncReceive (port : Fin 9) (domain : Byte) (clockId : BitVec 64) (portNumber seqId : BitVec 16)
  /-- MASTER_LOST (R57). -/
  | masterLost
  /-- HOLD_LIMIT_EXPIRY (R56). -/
  | holdLimitExpiry
  /-- NOW_NS_READ (R66). -/
  | nowNsRead (w : Who)
  /-- PPS_PULSE (R67). -/
  | ppsPulse
  /-- PPS_PULSE_END (R67). -/
  | ppsPulseEnd
  /-- PPS_IN_EDGE (R68). -/
  | ppsInEdge (sub : Fin 8)
  /-- BM_SYNC_SEND (R69). -/
  | bmSyncSend (k : Fin 2)
  /-- BM_ANNOUNCE_SEND (R70). -/
  | bmAnnounceSend (k : Fin 2)
  /-- BM_PDELAY_REQ_RECEIVE (R69). -/
  | bmPdelayReqReceive (k : Fin 2) (domain : Byte) (reqPort : BitVec 80) (seqId : BitVec 16)
  /-- TRIG_CFG_WRITE (R74). -/
  | trigCfgWrite (w : Who) (n : Fin 17) (value : Word)
  /-- TRIG_FIRE (R73). -/
  | trigFire (n : Fin 17)
  /-- GRID_POINT_ISSUE (R81). -/
  | gridPointIssue (r : Fin 16) (p b : SourceMeas) (dual : Bool)
  /-- REF_ACQUIRED (R83). -/
  | refAcquired (r : Fin 16) (backup : Bool) (phase : BitVec 16)
  /-- PRIMARY_LOST (R87). -/
  | primaryLost (r : Fin 16)
  /-- HOLD_TIME_EXPIRY (R87). -/
  | holdTimeExpiry (r : Fin 16)
  /-- BACKUP_LOST (R87). -/
  | backupLost (r : Fin 16)
  /-- PRIMARY_RESTORED (R87). -/
  | primaryRestored (r : Fin 16)
  /-- BACKUP_RESTORED (R87). -/
  | backupRestored (r : Fin 16)
  /-- RETURN_COMPLETE (R87). -/
  | returnComplete (r : Fin 16)
  /-- CENSUS_ARM (R99). -/
  | censusArm (w : Who)
  /-- CENSUS_FIRE_NOW (R99). -/
  | censusFireNow (w : Who)
  /-- CENSUS_ABORT (R102). -/
  | censusAbort (w : Who)
  /-- CENSUS_LATCH (R94). -/
  | censusLatch
  /-- CENSUS_IMAGE_COMPLETE (R97). -/
  | censusImageComplete
  /-- SV_FRAME_INGEST (R110). -/
  | svFrameIngest (n : Fin 96) (f : RxFrame) (dualCheck : Bool) (dual : List (Fin 256))
  /-- SAMPLE_MISSING (R115). -/
  | sampleMissing (n : Fin 96) (dual : List (Fin 256))
  /-- STREAM_VALID (R118). -/
  | streamValid (n : Fin 96)
  /-- STREAM_ABSENT (R118). -/
  | streamAbsent (n : Fin 96)
  /-- STREAM_FAILED (R118). -/
  | streamFailed (n : Fin 96)
  /-- STREAM_FAILED_EXIT (R118). -/
  | streamFailedExit (n : Fin 96) (dual : List (Fin 256))
  /-- GRID_POINT_CLOSE (R135). -/
  | gridPointClose (r : Fin 16)
  /-- CLOSE_DEADLINE (R135). -/
  | closeDeadline (r : Fin 16)
  /-- FDC_GRID_WORK (R142). -/
  | fdcGridWork (r : Fin 16) (residue uncorr : List (Fin 512))
  /-- PSU_GRID_WORK (R142). -/
  | psuGridWork (r : Fin 16) (dual : List (Fin 128))
  /-- DZE_GRID_WORK (R142). -/
  | dzeGridWork (r : Fin 16) (dual : List (Fin 16))
  /-- CONTRIBUTION_MISSING (R169). -/
  | contributionMissing (z : Fin 16)
  /-- ZONE_TO_LOCAL (R170). -/
  | zoneToLocal (z : Fin 16)
  /-- ZONE_TO_SPAN (R170). -/
  | zoneToSpan (z : Fin 16)
  /-- LOCKSTEP_MISMATCH (R176). -/
  | lockstepMismatch (p : Fin 12)
  /-- PAIR_STALL (R176). -/
  | pairStall (p : Fin 12)
  /-- SPARE_TAKEOVER (R181). -/
  | spareTakeover (p : Fin 12)
  /-- PAIR_SELF_TEST_DONE (R178). -/
  | pairSelfTestDone (p : Fin 12) (pass : Bool)
  /-- READMIT (R178). -/
  | readmit (w : Who) (p : Fin 12)
  /-- ACTIVATE (R178). -/
  | activate (w : Who) (p : Fin 12)
  /-- RELEASE (R178). -/
  | release (w : Who) (p : Fin 12)
  /-- RETEST (R178). -/
  | retest (w : Who) (p : Fin 12)
  /-- FREE_PASS_RELEASE (R183). -/
  | freePassRelease (n : Fin 256)
  /-- PASS_DEADLINE_MISS (R188). -/
  | passDeadlineMiss (n : Fin 256)
  /-- SLICE_FAULT (R189). -/
  | sliceFault (n : Fin 256)
  /-- PASS_EXCEPTION (R190). -/
  | passException (n : Fin 256) (cause code pc : Nat)
  /-- BUDGET_OVERRUN (R191). -/
  | budgetOverrun (n : Fin 256)
  /-- BACKGROUND_QUANTUM (R182). -/
  | backgroundQuantum (p : Fin 12)
  /-- OVERLOAD_CALM (R193). -/
  | overloadCalm (p : Fin 12)
  /-- THERMAL_LEVEL_UP (R193). -/
  | thermalLevelUp (tj : Int)
  /-- THERMAL_LEVEL_DOWN (R193). -/
  | thermalLevelDown (tj : Int)
  /-- OVERTEMP (R194). -/
  | overtemp (tj : Int)
  /-- SCHEDULER_FAULT (R202). -/
  | schedulerFault
  /-- BLOCK_FAILURE (R201). -/
  | blockFailure (b : Fin 24) (inst : Fin 65536) (mech : Fin 8)
  /-- LD_ACQ_W (R203). -/
  | ldAcqW (p : Fin 12) (pc : BitVec 64) (addr : Nat)
  /-- LD_ACQ_D (R203). -/
  | ldAcqD (p : Fin 12) (pc : BitVec 64) (addr : Nat)
  /-- ST_REL_W (R203). -/
  | stRelW (p : Fin 12) (pc : BitVec 64) (addr value : Nat)
  /-- ST_REL_D (R203). -/
  | stRelD (p : Fin 12) (pc : BitVec 64) (addr value : Nat)
  /-- FENCE_ENGINE (R41). -/
  | fenceEngine (p : Fin 12)
  /-- FENCE_POINT (R41). -/
  | fencePoint (p : Fin 12)
  /-- FENCE_NET (R41). -/
  | fenceNet (p : Fin 12)
  /-- FENCE_ALL (R41). -/
  | fenceAll (p : Fin 12)
  /-- MARK_WAIT (R203). -/
  | markWait (p : Fin 12) (pc : BitVec 64) (addr : Nat) (value : Word)
  /-- MARK_WAIT_WAKE (R203). -/
  | markWaitWake (p : Fin 12)
  /-- PASS_END (R203). -/
  | passEnd (p : Fin 12) (arch : List Byte)
  /-- IMAGE_CAPTURE_COMPLETE (R180). -/
  | imageCaptureComplete (n : Fin 256)
  /-- PASS_INFO (R203). -/
  | passInfo (p : Fin 12) (imm pc : Nat)
  /-- GRANT_CREATE (R215). -/
  | grantCreate (w : Who) (g : Fin 4096)
  /-- GRANT_REVOKE (R216). -/
  | grantRevoke (w : Who) (g : Fin 4096)
  /-- GRANT_REVOKE_COMPLETE (R216). -/
  | grantRevokeComplete (g : Fin 4096)
  /-- SLICE_BIND_WRITE (R210). -/
  | sliceBindWrite (w : Who) (n : Fin 256) (value : Word)
  /-- QUIESCE (R220). -/
  | quiesce (w : Who) (n : Fin 256)
  /-- QUIESCE_COMPLETE (R220). -/
  | quiesceComplete (n : Fin 256)
  /-- QUIESCE_TIMEOUT (R221). -/
  | quiesceTimeout (n : Fin 256)
  /-- RESUME (R224). -/
  | resume (w : Who) (n : Fin 256) (at_ : Bool)
  /-- ARMED_RESUME (R224). -/
  | armedResume (n : Fin 256)
  /-- MOVE (R231). -/
  | move (w : Who) (n : Fin 256) (pair : Fin 16) (page : Fin 256)
  /-- MOVE_COMPLETE (R231). -/
  | moveComplete (n : Fin 256)
  /-- SAVE (R232). -/
  | save (w : Who) (n : Fin 256) (live delta : Bool)
  /-- SAVE_COMPLETE (R232). -/
  | saveComplete (n : Fin 256)
  /-- RESTORE (R233). -/
  | restore (w : Who) (n : Fin 256)
  /-- RESTORE_COMPLETE (R233). -/
  | restoreComplete (n : Fin 256)
  /-- SLICE_RESET (R225). -/
  | sliceReset (w : Who) (n : Fin 256)
  /-- SLICE_ABORT (R230). -/
  | sliceAbort (w : Who) (n : Fin 256)
  /-- PORT_WRITE (R240). -/
  | portWrite (w : Who) (value : Word)
  /-- GOOSE_FRAME_RECEIVE (R244). -/
  | gooseFrameReceive (n : Fin 1024) (f : RxFrame)
  /-- GOOSE_EXPIRY (R247). -/
  | gooseExpiry (n : Fin 1024)
  /-- SUB_FAILED (R246). -/
  | subFailed (n : Fin 1024)
  /-- SUB_FAILED_EXIT (R246). -/
  | subFailedExit (n : Fin 1024)
  /-- SUB_CFG_WRITE (R246). -/
  | subCfgWrite (w : Who) (n : Fin 1024) (value : Word)
  /-- PUB_REQ_NEW_STATE (R251). -/
  | pubReqNewState (w : Who) (e : Fin 512)
  /-- PUB_REQ_REFRESH (R254). -/
  | pubReqRefresh (w : Who) (e : Fin 512)
  /-- PUB_TRANSMIT (R256). -/
  | pubTransmit (dual : Bool)
  /-- RETRANSMISSION (R255). -/
  | retransmission (e : Fin 256) (dual : Bool)
  /-- SV_PUBLISH (R263). -/
  | svPublish (e : Fin 8) (dual : Bool)
  /-- FRAME_RECEIVE (R293). -/
  | frameReceive (p : Fin 9) (octets : List Byte) (sym : Bool)
  /-- EGRESS_TRANSMIT (R277). -/
  | egressTransmit (p : Fin 12)
  /-- AGE_SWEEP (R279). -/
  | ageSweep
  /-- TBL_WRITE (R292). -/
  | tblWrite (w : Who) (index : Fin 16384)
  /-- TBL_INVALIDATE (R292). -/
  | tblInvalidate (w : Who) (index : Fin 16384)
  /-- TBL_READ (R292). -/
  | tblRead (w : Who) (index : Fin 16384)
  /-- TBL_FENCE (R292). -/
  | tblFence (w : Who)
  /-- TBL_FENCE_DONE (R294). -/
  | tblFenceDone
  /-- SUPERVISION_SEND (R302). -/
  | supervisionSend (k : Fin 2)
  /-- LAN_SILENT (R303). -/
  | lanSilent (k m : Fin 2)
  /-- NODE_AGE_OUT (R301). -/
  | nodeAgeOut (k : Fin 2)
  /-- LINK_DOWN (R304). -/
  | linkDown (p : Fin 9)
  /-- LINK_UP (R304). -/
  | linkUp (p : Fin 9)
  /-- HOLD_EXPIRY (R305). -/
  | holdExpiry (p : Fin 9)
  /-- LPI_ENTRY (R306). -/
  | lpiEntry (p : Fin 9)
  /-- TX_RING_POLL (R308). -/
  | txRingPoll
  /-- TX_RING_KICK (R308). -/
  | txRingKick (w : Who) (r : Fin 16)
  /-- TC_FOLLOW_UP_TIMEOUT (R313). -/
  | tcFollowUpTimeout
  /-- MATE_HB (R327). -/
  | mateHb (m : List Byte)
  /-- ARB_HB (R328). -/
  | arbHb (second : Bool) (m : List Byte)
  /-- ARB_STATUS (R327). -/
  | arbStatus (m : List Byte)
  /-- VERDICT (R329). -/
  | verdict (m : List Byte)
  /-- VERDICT_ACK (R321). -/
  | verdictAck (second : Bool) (m : List Byte)
  /-- CKPT_DATA (R333). -/
  | ckptData (m : List Byte)
  /-- CKPT_END (R333). -/
  | ckptEnd (m : List Byte)
  /-- CKPT_COMMIT_DONE (R333). -/
  | ckptCommitDone
  /-- CKPT_ACK (R321). -/
  | ckptAck (m : List Byte)
  /-- CHECKPOINT_START (R332). -/
  | checkpointStart
  /-- HANDBACK_REQ (R336). -/
  | handbackReq (m : List Byte)
  /-- HANDOVER (R336). -/
  | handover (w : Who)
  /-- ABANDON (R339). -/
  | abandon (w : Who)
  /-- HANDBACK_PLAN (R337). -/
  | handbackPlan (m : List Byte)
  /-- HANDBACK_READY (R337). -/
  | handbackReady (m : List Byte)
  /-- HANDBACK_GRID_POINT (R338). -/
  | handbackGridPoint
  /-- MANDATE_YIELD (R338). -/
  | mandateYield (m : List Byte)
  /-- YIELD_REQ (R328). -/
  | yieldReq (second : Bool) (m : List Byte)
  /-- MAINT (R340). -/
  | maint (m : List Byte)
  /-- CX_HOLD_WRITE (R340). -/
  | cxHoldWrite (w : Who) (v : Bool)
  /-- HEARTBEAT_SEND (R321). -/
  | heartbeatSend (ty arg : Byte)
  /-- MANDATE_LOSS (R327). -/
  | mandateLoss
  /-- MATE_LOST (R348). -/
  | mateLost
  /-- ARB_LOST (R348). -/
  | arbLost (r : Fin 2)
  /-- VERDICT_ISSUE (R328). -/
  | verdictIssue (kind : Fin 4) (target : Fin 2) (planLate : Bool)
  /-- VERDICT_TARGET_TIMEOUT (R328). -/
  | verdictTargetTimeout
  /-- TAKEOVER_MANDATE (R329). -/
  | takeoverMandate
  /-- REVERT_HOLD_COMPLETE (R336). -/
  | revertHoldComplete
  /-- DEALER_HB (R344). -/
  | dealerHb (src : CasIn) (m : List Byte)
  /-- DEALER_LOSS (R344). -/
  | dealerLoss
  /-- ANGLE (R345). -/
  | angle (src : CasIn) (m : List Byte)
  /-- PARTIAL (R345). -/
  | partialSum (src : CasIn) (m : List Byte)
  /-- CENSUS_CALL (R101). -/
  | censusCall (src : CasIn) (m : List Byte)
  /-- CENSUS_DATA (R346). -/
  | censusData (src : CasIn) (m : List Byte)
  /-- TAE_ROW_WRITE (R352). -/
  | taeRowWrite (r : Fin 8) (bad : List (Fin 1296))
  /-- RECORD_COMPLETE (R363). -/
  | recordComplete (r : Fin 8)
  /-- HOLDOFF_EXPIRY (R360). -/
  | holdoffExpiry (r : Fin 8)
  /-- TAE_ARM (R364). -/
  | taeArm (w : Who) (r : Fin 8)
  /-- TAE_DISARM (R364). -/
  | taeDisarm (w : Who) (r : Fin 8)
  /-- TAE_TRIGGER (R357). -/
  | taeTrigger (w : Who) (r : Fin 8)
  /-- TAE_FREE (R363). -/
  | taeFree (w : Who) (r : Fin 8) (slot : Byte)
  /-- REC_ARM (R364). -/
  | recArm (src : CasIn) (m : List Byte)
  /-- REC_FIRE (R365). -/
  | recFire (src : CasIn) (m : List Byte)
  /-- TAE_WATCHDOG (R369). -/
  | taeWatchdog
  /-- LOOP_CYCLE (R372). -/
  | loopCycle (l : Fin 32) (crc ffCrc : Bool)
  /-- FALLBACK_DELAY_EXPIRY (R383). -/
  | fallbackDelayExpiry (l : Fin 32)
  /-- AUTO_RESUME (R383). -/
  | autoResume (l : Fin 32)
  /-- LOOP_OPEN (R383). -/
  | loopOpen (w : Who) (l : Fin 32)
  /-- LOOP_CLOSE (R383). -/
  | loopClose (w : Who) (l : Fin 32)
  /-- STOP_RAMP (R383). -/
  | stopRamp (w : Who) (l : Fin 32)
  /-- RGE_WATCHDOG (R388). -/
  | rgeWatchdog
  /-- PROGRAM_LOAD (R393). -/
  | programLoad (w : Who) (p : Fin 16)
  /-- START_COLD (R401). -/
  | startCold (w : Who) (p : Fin 16)
  /-- START_WARM (R401). -/
  | startWarm (w : Who) (p : Fin 16)
  /-- PROGRAM_STOP (R400). -/
  | programStop (w : Who) (p : Fin 16)
  /-- PROGRAM_HOLD (R400). -/
  | programHold (w : Who) (p : Fin 16)
  /-- PROGRAM_RESUME (R400). -/
  | programResume (w : Who) (p : Fin 16)
  /-- APPLY (R402). -/
  | apply (w : Who) (p : Fin 16) (n : BitVec 5)
  /-- PROGRAM_UNLOAD (R400). -/
  | programUnload (w : Who) (p : Fin 16)
  /-- SCAN (R396). -/
  | scan (p : Fin 16) (dur upto : Nat) (bad : List (Fin 1024))
  /-- SCAN_OVERRUN (R399). -/
  | scanOverrun (p : Fin 16)
  /-- HOLD_TIMEOUT (R400). -/
  | holdTimeout (p : Fin 16)
  /-- FORCE_WRITE (R404). -/
  | forceWrite (w : Who) (p : Fin 16) (f : Fin 64) (isVal : Bool) (value : Word)
  /-- LGE_WATCHDOG (R406). -/
  | lgeWatchdog
  /-- CAN_FRAME_RECEIVE (R412). -/
  | canFrameReceive (o : Fin 2) (x : CanFrame) (sof : Word) (err : Fin 7) (heavy res : Bool)
  /-- FIFO_POP (R415). -/
  | fifoPop (w : Who) (o : Fin 2)
  /-- TRUMP_POP (R416). -/
  | trumpPop (w : Who) (o : Fin 2)
  /-- ENQUEUE (R417). -/
  | enqueue (w : Who) (o : Fin 2)
  /-- WITHDRAW (R419). -/
  | withdraw (w : Who) (o : Fin 2) (inTx : Bool)
  /-- CAN_TX_COMPLETE (R420). -/
  | canTxComplete (o : Fin 2) (isRef : Bool) (sof : Word) (res : Fin 8) (tdcv : Option Nat)
  /-- CAN_REF_INSTANT (R421). -/
  | canRefInstant (o : Fin 2)
  /-- BUS_OFF (R423). -/
  | busOff (o : Fin 2)
  /-- BUS_OFF_RECOVERY (R424). -/
  | busOffRecovery (o : Fin 2)
  /-- RECOVER (R424). -/
  | recover (w : Who) (o : Fin 2)
  /-- GUARD_SAMPLE_SET (R430). -/
  | guardSampleSet (codes : Vector (BitVec 16) 8)
  /-- OUTPUT_OPEN (R434). -/
  | outputOpen (o : Fin 4)
  /-- OUTPUT_MISMATCH (R434). -/
  | outputMismatch (o : Fin 4)
  /-- BINARY_INPUT_CHANGE (R432). -/
  | binaryInputChange (b : Fin 8) (level : Bool)
  /-- GUARD_DISARM (R433). -/
  | guardDisarm
  /-- GUARD_APPLY (R436). -/
  | guardApply (w : Who) (value : Word)
  /-- GUARD_CHECK (R438). -/
  | guardCheck
  /-- GUARD_OSC_DEVIATION (R22). -/
  | guardOscDeviation
  /-- VBAT_MEASURE (R439). -/
  | vbatMeasure (mv : Nat)
  /-- BACKUP_LOSS (R440). -/
  | backupLoss
  /-- RTC_SET (R441). -/
  | rtcSet (w : Who)
  /-- RTC_LO_READ (R441). -/
  | rtcLoRead (w : Who)
  /-- CAL0_READ (R443). -/
  | cal0Read (w : Who)
  /-- RTC_WRAP (R441). -/
  | rtcWrap
  /-- ALARM_CTL_WRITE (R444). -/
  | alarmCtlWrite (w : Who) (a : Fin 2) (value : Word)
  /-- ALARM_MATCH (R445). -/
  | alarmMatch (a : Fin 2)
  /-- PWR_CLEAR (R445). -/
  | pwrClear (w : Who)
  /-- PWR_PULSE_EXPIRY (R445). -/
  | pwrPulseExpiry
  /-- HOUR_METER_COPY (R447). -/
  | hourMeterCopy
  /-- SOFTWARE_RECORD (R450). -/
  | softwareRecord (w : Who) (value : Word)
  /-- LEDGER_FLUSH (R452). -/
  | ledgerFlush
  /-- LEDGER_SCAN (R455). -/
  | ledgerScan
  /-- LOAD_CLEAR (R469). -/
  | loadClear (w : Who) (k : Fin 64)
  /-- LOAD_WRAPPED (R469). -/
  | loadWrapped (w : Who) (k aux : Fin 64)
  /-- LOAD_PUBLIC (R469). -/
  | loadPublic (w : Who) (k : Fin 64)
  /-- DERIVE (R464). -/
  | derive (w : Who) (k : Fin 64)
  /-- ZEROISE (R469). -/
  | zeroise (w : Who) (k : Fin 64)
  /-- GCM_ENC (R469). -/
  | gcmEnc (w : Who) (k : Fin 64)
  /-- GCM_DEC (R469). -/
  | gcmDec (w : Who) (k : Fin 64)
  /-- MAC (R469). -/
  | mac (w : Who) (k : Fin 64) (tag256 : Bool)
  /-- MAC_VER (R469). -/
  | macVer (w : Who) (k : Fin 64) (tag256 : Bool)
  /-- SHA_256 (R469). -/
  | sha256 (w : Who)
  /-- SHA_384 (R469). -/
  | sha384 (w : Who)
  /-- ECDSA_VER (R469). -/
  | ecdsaVer (w : Who) (k : Fin 64)
  /-- MLDSA_VER (R469). -/
  | mldsaVer (w : Who) (k : Fin 64)
  /-- KEY_OP_COMPLETE (R470). -/
  | keyOpComplete (m : Fin 13)
  /-- SLOT_ATTR_WRITE (R467). -/
  | slotAttrWrite (w : Who) (k : Fin 64) (isId : Bool) (value : Word)
  /-- DEBUG_UNLOCK (R463). -/
  | debugUnlock (w : Who)
  /-- TAMPER_DETECT (R477). -/
  | tamperDetect (src : Fin 5)
  /-- LATCH_CLEAR (R479). -/
  | latchClear (w : Who)
  /-- POWER_UP (R510). -/
  | powerUp (role : Fin 4) (pos : Fin 8) (boot : Fin 4)
  /-- RESET_N_PULSE (R491). -/
  | resetNPulse (role : Fin 4) (pos : Fin 8) (boot : Fin 4)
  /-- RESET_N_LONG_HOLD (R490). -/
  | resetNLongHold
  /-- COLD_START (R492). -/
  | coldStart (imgA imgB : Option (List Byte)) (rootOk dbgEn second : Bool) (met : List Bool)
  /-- WARM_START (R494). -/
  | warmStart (imgA imgB : Option (List Byte)) (rootOk dbgEn second : Bool) (met : List Bool)
  /-- START_WATCHDOG (R491). -/
  | startWatchdog
  /-- DONE (R496). -/
  | done (w : Who)
  /-- WARM_RESET (R493). -/
  | warmReset (w : Who)
  /-- COLD_RESET (R491). -/
  | coldReset (w : Who)
  /-- PFAIL_ASSERT (R499). -/
  | pfailAssert
  /-- PF_RETAIN (R499). -/
  | pfRetain
  /-- PFAIL_DEASSERT (R499). -/
  | pfailDeassert
  /-- PATROL_SCRUB (R502). -/
  | patrolScrub (addr : Nat) (found : Fin 3)
  /-- XSPI_READ (R503). -/
  | xspiRead (w : Who) (k : Fin 2)
  /-- XSPI_PROGRAM (R503). -/
  | xspiProgram (w : Who) (k : Fin 2)
  /-- XSPI_ERASE (R503). -/
  | xspiErase (w : Who) (k : Fin 2)
  /-- XSPI_DONE (R503). -/
  | xspiDone (k : Fin 2) (data : List Byte) (err : Bool)
  /-- SLEEP (R512). -/
  | sleep (w : Who)
  /-- CX_POWER_DOWN (R510). -/
  | cxPowerDown
  /-- NX_RAIL_TIMEOUT (R511). -/
  | nxRailTimeout
  /-- CX_RAIL_TIMEOUT (R511). -/
  | cxRailTimeout
  /-- SUPPLY_FAULT (R202). -/
  | supplyFault (rail : Fin 8)
  /-- VDD_GUARD_LOSS (R511). -/
  | vddGuardLoss
  /-- REFERENCE_CLOCK_LOSS (R202). -/
  | referenceClockLoss (pll : Option (Fin 6 × Fin 9))
  /-- TAMPER_SOURCE_INACTIVE (R476). -/
  | tamperSourceInactive (src : Fin 5)
  /-- BUS_INTEGRATION (R409). -/
  | busIntegration (o : Fin 2)
  /-- LPI_RECEIVE (R306). -/
  | lpiReceive (p : Fin 9)
  /-- YEAR_CHANGE (R444). -/
  | yearChange
  /-- NX_EN_RETRY (R511). -/
  | nxEnRetry
  deriving DecidableEq, Repr

end Sys2Proof
end

