-- ==== Sys2Proof/Decode.lean ====
section
/-!
DEFINITION. The command a word spells. The table of this module gives no row any bits: commands are events and bus
accesses, not words, so no word spells one.
-/

namespace Sys2Proof

/-- The command spelled by `nbits` bits of value `w`: none, for the table gives no row bits. -/
def decodeTableWord (_nbits _w : Nat) : Option Instr := none

end Sys2Proof
end

