-- ==== Sys2Proof/Machine/Bits.lean ====
section
/-!
DEFINITION. Bit fields, sign extension, byte order and saturation, written over natural numbers and integers.
-/

namespace Sys2Proof.Machine

/-- Bits `hi` down to `lo` of a number. -/
def bits (v hi lo : Nat) : Nat := v / 2 ^ lo % 2 ^ (hi + 1 - lo)

/-- Bit `i` of a number. -/
def bitAt (v i : Nat) : Bool := v / 2 ^ i % 2 == 1

/-- `v` with bits `hi` down to `lo` replaced by the low bits of `x`. -/
def setBits (v hi lo x : Nat) : Nat :=
  v - bits v hi lo * 2 ^ lo + x % 2 ^ (hi + 1 - lo) * 2 ^ lo

/-- One for true. -/
def b2n (b : Bool) : Nat := if b then 1 else 0

/-- The signed reading of the low `w` bits of `v`. -/
def signed (w v : Nat) : Int :=
  if v % 2 ^ w < 2 ^ (w - 1) then (v % 2 ^ w : Int) else (v % 2 ^ w : Int) - 2 ^ w

/-- The `w`-bit two's complement word of an integer. -/
def unsigned (w : Nat) (x : Int) : Nat := (x % (2 ^ w : Int)).toNat

/-- Limit an integer to `w`-bit two's complement. -/
def satS (w : Nat) (x : Int) : Int :=
  if x < -(2 ^ (w - 1) : Int) then -(2 ^ (w - 1) : Int)
  else if x > 2 ^ (w - 1) - 1 then 2 ^ (w - 1) - 1 else x

/-- Division by a positive number, rounding to nearest, ties to even. -/
def divRne (x : Int) (d : Nat) : Int :=
  let q := x / (d : Int)
  let r := (x % (d : Int)).toNat
  if 2 * r < d then q else if 2 * r > d then q + 1 else if q % 2 = 0 then q else q + 1

/-- Octets of a number, least significant first. -/
def bytesLE : Nat → Nat → List Byte
  | 0, _ => []
  | n + 1, v => BitVec.ofNat 8 v :: bytesLE n (v / 256)

/-- Octets of a number, most significant first. -/
def bytesBE (n v : Nat) : List Byte := (bytesLE n v).reverse

/-- The number octets spell, least significant first. -/
def leNat : List Byte → Nat
  | [] => 0
  | b :: rest => b.toNat + 256 * leNat rest

/-- The number octets spell, most significant first. -/
def beNat (l : List Byte) : Nat := leNat l.reverse

/-- The little-endian 32-bit word at octet `off` of a list, octets past its end reading 0. -/
def wordLE (l : List Byte) (off : Nat) : Nat := leNat ((l.drop off).take 4)

/-- Cut or extend with zero octets to exactly `n` octets. -/
def padTo (n : Nat) (l : List Byte) : List Byte := l.take n ++ List.replicate (n - l.length) 0

/-- Add one, staying at the greatest `w`-bit value. -/
def incSat (w v : Nat) : Nat := if v + 1 < 2 ^ w then v + 1 else 2 ^ w - 1

/-- sin(2π m / 128) × 2^30 for m = 0 to 32, rounded (R157). -/
def quarterSine : List Nat := [0, 52686014, 105245103, 157550647, 209476638, 260897982, 311690799, 361732726,
  410903207, 459083786, 506158392, 552013618, 596538995, 639627258, 681174602, 721080937, 759250125, 795590213,
  830013654, 862437520, 892783698, 920979082, 946955747, 970651112, 992008094, 1010975242, 1027506862, 1041563127,
  1053110176, 1062120190, 1068571464, 1072448455, 1073741824]

/-- sin(2π m / 128) × 2^30. -/
def sin30 (m : Nat) : Int :=
  let m := m % 128
  if m ≤ 32 then quarterSine.getD m 0
  else if m ≤ 64 then quarterSine.getD (64 - m) 0
  else if m ≤ 96 then -(quarterSine.getD (m - 64) 0 : Int)
  else -(quarterSine.getD (128 - m) 0 : Int)

/-- cos(2π m / 128) × 2^30. -/
def cos30 (m : Nat) : Int := sin30 (m + 32)

end Sys2Proof.Machine
end

