-- ==== Sys2Proof/Machine/Ber.lean ====
section
/-!
DEFINITION. The CRC-32 of R524, BER elements of IEC 61850 messages, and the parts of an Ethernet frame (R288, R298, R528).
The element tags of IEC 61850-8-1 and 9-2 are not in the spec: PRESUMED.
-/

namespace Sys2Proof.Machine

/-! ### CRC-32 (R524) -/

/-- One bit of the reflected CRC: polynomial 0xEDB88320. -/
def crcBit (c : Nat) : Nat := if c % 2 = 1 then (c / 2) ^^^ 0xEDB88320 else c / 2

/-- One octet. -/
def crcByte (c : Nat) (b : Byte) : Nat :=
  crcBit (crcBit (crcBit (crcBit (crcBit (crcBit (crcBit (crcBit (c ^^^ b.toNat))))))))

/-- CRC-32 of octets: initial value all ones, final complement. -/
def crc32 (l : List Byte) : Nat := l.foldl crcByte 0xFFFFFFFF ^^^ 0xFFFFFFFF

/-! ### BER -/

/-- The length octets of an element: the length and the rest. -/
def berLen : List Byte → Option (Nat × List Byte)
  | [] => none
  | b :: rest =>
    let v := b.toNat
    if v < 128 then some (v, rest)
    else
      let k := v - 128
      if k = 0 ∨ 4 < k ∨ rest.length < k then none else some (beNat (rest.take k), rest.drop k)

/-- The elements octets consist of, each a one-octet tag and its content; none when not well formed. -/
def berSeq : Nat → List Byte → Option (List (Nat × List Byte))
  | _, [] => some []
  | 0, _ => none
  | fuel + 1, t :: rest =>
    match berLen rest with
    | none => none
    | some (n, body) =>
      if body.length < n then none
      else match berSeq fuel (body.drop n) with
        | none => none
        | some l => some ((t.toNat, body.take n) :: l)

/-- All elements of a list of octets. -/
def ber (l : List Byte) : Option (List (Nat × List Byte)) := berSeq l.length l

/-- The content of the first element with a tag. -/
def berGet (t : Nat) (l : List (Nat × List Byte)) : Option (List Byte) := (l.find? (fun e => e.1 == t)).map (·.2)

/-- Minimal length octets. -/
def berLenOctets (n : Nat) : List Byte :=
  if n < 128 then bytesBE 1 n else if n < 256 then bytesBE 1 0x81 ++ bytesBE 1 n else bytesBE 1 0x82 ++ bytesBE 2 n

/-- An element with minimal length octets. -/
def berPut (t : Nat) (c : List Byte) : List Byte := bytesBE 1 t ++ berLenOctets c.length ++ c

/-- Octets an unsigned number takes, at least one. -/
def octetsOf (v : Nat) : Nat := Nat.log2 v / 8 + 1

/-- A non-negative INTEGER with minimal content. -/
def berUInt (v : Nat) : List Byte :=
  let n := octetsOf v
  let c := bytesBE n v
  if 128 ≤ v / 2 ^ (8 * (n - 1)) then 0 :: c else c

/-- Octets a signed number takes. -/
def sOctets : Nat → Int → Nat
  | 0, _ => 8
  | k + 1, v => if -(2 ^ (8 * (8 - k) - 1) : Int) ≤ v ∧ v < 2 ^ (8 * (8 - k) - 1) then 8 - k else sOctets k v

/-- A signed INTEGER with minimal content. -/
def berInt (v : Int) : List Byte := let n := sOctets 8 v; bytesBE n (unsigned (8 * n) v)

/-! ### Frames -/

/-- The parts of a frame: addresses, 802.1Q control word, HSR path and sequence number, EtherType, octets after it up to
a PRP trailer, and the trailer's LAN identifier and sequence number. -/
structure Parsed where
  dst   : Nat
  src   : Nat
  tci   : Option Nat
  hsr   : Option (Nat × Nat)
  etype : Nat
  body  : List Byte
  rct   : Option (Nat × Nat)
  deriving DecidableEq, Repr, Inhabited

/-- The number of two octets at the head. -/
def head16 (l : List Byte) : Nat := beNat (l.take 2)

/-- A PRP trailer at the end of the octets after the EtherType, whose LSDU size matches (R298). -/
def prpTrailer (body : List Byte) : Option (Nat × Nat) :=
  let n := body.length
  if n < 6 then none else
  let t := body.drop (n - 6)
  let sz := head16 (t.drop 2)
  if head16 (t.drop 4) = 0x88FB ∧ sz % 2 ^ 12 = n then some (sz / 2 ^ 12, head16 t) else none

/-- Split a frame (R528): at most one IEEE 802.1Q tag, at most one HSR tag after the source address or after the
802.1Q tag, a PRP trailer set aside. -/
def parseFrame (f : List Byte) : Parsed :=
  let dst := beNat (f.take 6)
  let src := beNat ((f.drop 6).take 6)
  let r := f.drop 12
  let (hsr1, r) := if head16 r = 0x892F then (some (head16 (r.drop 2) / 2 ^ 12, head16 (r.drop 4)), r.drop 6) else (none, r)
  let (tci, r) := if head16 r = 0x8100 then (some (head16 (r.drop 2)), r.drop 4) else (none, r)
  let (hsr, r) := if hsr1.isNone ∧ head16 r = 0x892F then
      (some (head16 (r.drop 2) / 2 ^ 12, head16 (r.drop 4)), r.drop 6) else (hsr1, r)
  let body := r.drop 2
  let rct := prpTrailer body
  { dst := dst, src := src, tci := tci, hsr := hsr, etype := head16 r
    body := if rct.isSome then body.take (body.length - 6) else body, rct := rct }

/-- The VID of a frame, 0 when untagged. -/
def Parsed.vid (p : Parsed) : Nat := match p.tci with | some t => t % 2 ^ 12 | none => 0

/-- An IEC 61850 message after its EtherType: APPID, length, simulation bit, APDU without padding; none when the length
field exceeds the octets. -/
structure Apdu where
  appid : Nat
  sim   : Bool
  apdu  : List Byte
  deriving DecidableEq, Repr

/-- Read the message header; the length counts the 8 header octets. -/
def readApdu (body : List Byte) : Option Apdu :=
  let len := head16 (body.drop 2)
  if body.length < 8 ∨ len < 8 ∨ body.length < len then none
  else some { appid := head16 body, sim := decide (2 ^ 15 ≤ head16 (body.drop 4)), apdu := (body.take len).drop 8 }

/-! ### Redundancy windows (R112, R244, R301) -/

/-- A window of the last 128 sequence numbers: newest first, each with its LAN. -/
abbrev SeqWin := List (Nat × Nat)

/-- What a sequence number is against a window. -/
inductive DupKind where
  | fresh | dup (sameLan : Bool) | stale
  deriving DecidableEq, Repr

/-- The newest number of a window, compared modulo 2^16. -/
def newestSeq : SeqWin → Nat
  | [] => 0
  | (s, _) :: rest => if rest.isEmpty then s else
    let m := newestSeq rest
    if (s + 2 ^ 16 - m) % 2 ^ 16 < 2 ^ 15 then s else m

/-- Classify a copy. -/
def classify (w : SeqWin) (seq lan : Nat) : DupKind :=
  if w.isEmpty then .fresh else
  match w.find? (fun e => e.1 == seq) with
  | some e => .dup (e.2 == lan)
  | none =>
    let behind := (newestSeq w + 2 ^ 16 - seq) % 2 ^ 16
    if 127 < behind ∧ behind < 2 ^ 15 then .stale else .fresh

/-- Enter a copy; numbers more than 127 behind the newest leave the window. -/
def enter (w : SeqWin) (seq lan : Nat) : SeqWin :=
  let w := (seq, lan) :: w
  let m := newestSeq w
  w.filter (fun e => decide ((m + 2 ^ 16 - e.1) % 2 ^ 16 ≤ 127))

end Sys2Proof.Machine
end

