-- ==== Sys2Proof/Config.lean ====
section
/-!
DEFINITION. What an implementation fixes and the values the spec leaves open. Every constant here has no body: nothing
can be proved of its value.
-/

namespace Sys2Proof.Config

/-- A fresh open value, drawn by the counter `State.free`. -/
opaque freeValue : Nat → Nat

/-- The fused 64-bit serial number (KEY_SERIAL). -/
opaque serial : Nat

/-- The fused trust anchors (SYS_ANCHOR), word by word. -/
opaque anchor : Nat → Nat

/-- ECDSA verification: curve (4 P-256, 5 P-384), public key, digest, r and s. -/
opaque ecdsaVerify : Nat → List Byte → List Byte → List Byte → Bool

/-- ML-DSA-65 verification: public key, message, signature. -/
opaque mldsaVerify : List Byte → List Byte → List Byte → Bool

/-- The root the key store regenerates from its SRAM pattern and helper data (R460). -/
opaque root : List Byte

/-- The ROM constant that keys the test root (R462). -/
opaque romKey : List Byte

end Sys2Proof.Config
end

