-- ==== Sys2Proof/Machine/Crypto.lean ====
section
/-!
DEFINITION. The hash, tag and cipher algorithms the key store names (R466): SHA-256 and SHA-384, HMAC-SHA-256, AES and
AES-GCM. The spec names the algorithms; their definitions are those of FIPS 180-4, FIPS 197, FIPS 198-1 and
SP 800-38D: PRESUMED.
-/

namespace Sys2Proof.Machine

/-! ### SHA-2 -/

/-- The first primes, up to 409. -/
def somePrimes : List Nat := (List.range 410).filter (fun n => decide (2 ≤ n) && (List.range 21).all (fun d => d < 2 || n ≤ d || n % d != 0))

/-- The greatest `r` below 2^`n` over `acc` whose `e`-th power does not pass `x`, found bit by bit. -/
def rootBits (e x : Nat) : Nat → Nat → Nat
  | 0, acc => acc
  | n + 1, acc => rootBits e x n (if (acc + 2 ^ n) ^ e ≤ x then acc + 2 ^ n else acc)

/-- The first `w` fractional bits of the `e`-th root of a prime: where SHA-2 takes its constants from. -/
def rootFrac (w e p : Nat) : Nat := rootBits e (p * 2 ^ (e * w)) (w + 5) 0 % 2 ^ w

/-- A SHA-2 variant: word width, number of rounds, primes left out for the initial value, and the rotations of Σ0, Σ1, σ0
and σ1, the last amount of σ being a shift. -/
structure Sha where
  w      : Nat
  rounds : Nat
  skip   : Nat
  big0   : List Nat
  big1   : List Nat
  small0 : List Nat
  small1 : List Nat

def shaShort : Sha := ⟨32, 64, 0, [2, 13, 22], [6, 11, 25], [7, 18, 3], [17, 19, 10]⟩
def shaLong : Sha := ⟨64, 80, 8, [28, 34, 39], [14, 18, 41], [1, 8, 7], [19, 61, 6]⟩

/-- The constant added in each round: cube roots of the first primes. -/
def Sha.keys (v : Sha) : List Nat := (somePrimes.take v.rounds).map (rootFrac v.w 3)

/-- The initial value: square roots of eight primes. -/
def Sha.init (v : Sha) : List Nat := ((somePrimes.drop v.skip).take 8).map (rootFrac v.w 2)

/-- Rotate a number of `w` bits right by `n`: its two parts change places. -/
def turnR (w x n : Nat) : Nat := x % 2 ^ n * 2 ^ (w - n) + x / 2 ^ n

/-- The sum without carry of the rotations of a word; with `cut` the last one is a shift. -/
def Sha.mix (v : Sha) (l : List Nat) (cut : Bool) (x : Nat) : Nat :=
  let last := l.getD 2 0
  turnR v.w x (l.getD 0 0) ^^^ turnR v.w x (l.getD 1 0) ^^^ (if cut then x / 2 ^ last else turnR v.w x last)

/-- The word that follows sixteen words of the schedule. -/
def Sha.nextWord (v : Sha) (win : List Nat) : Nat :=
  let at_ := fun (i : Nat) => win.getD i 0
  (at_ 0 + at_ 9 + v.mix v.small0 true (at_ 1) + v.mix v.small1 true (at_ 14)) % 2 ^ v.w

/-- A round seen as two sequences of words, each of which keeps its last four, newest first: the next word of each, from the
round's constant and schedule word together. -/
def Sha.step (v : Sha) (kw : Nat) (up low : List Nat) : List Nat × List Nat :=
  let u := fun (i : Nat) => up.getD i 0
  let l := fun (i : Nat) => low.getD i 0
  let pick := (l 0 &&& l 1) ||| ((2 ^ v.w - 1 - l 0) &&& l 2)
  let two := (u 0 &&& (u 1 ||| u 2)) ||| (u 1 &&& u 2)
  let t := kw + l 3 + pick + v.mix v.big1 false (l 0)
  ((t + two + v.mix v.big0 false (u 0)) % 2 ^ v.w :: up.take 3, (t + u 3) % 2 ^ v.w :: low.take 3)

/-- The rounds of a block: `win` holds the schedule's next sixteen words. -/
def Sha.run (v : Sha) : List Nat → List Nat → List Nat → List Nat → List Nat
  | [], _, up, low => up ++ low
  | k :: ks, win, up, low =>
    let x := v.step (k + win.getD 0 0) up low
    Sha.run v ks (win.drop 1 ++ [v.nextWord win]) x.1 x.2

/-- A block of sixteen words enters the hash value. -/
def Sha.block (v : Sha) (keys h : List Nat) (words : List Nat) : List Nat :=
  ((v.run keys words (h.take 4) (h.drop 4)).zip h).map (fun x => (x.1 + x.2) % 2 ^ v.w)

/-- Cut a list into `m` pieces of `n`. -/
def pieces {α : Type} (n : Nat) : Nat → List α → List (List α)
  | 0, _ => []
  | m + 1, l => l.take n :: pieces n m (l.drop n)

/-- Hash octets: a one bit, zeros and the length in bits fill the last block. -/
def Sha.hash (v : Sha) (msg : List Byte) : List Byte :=
  let octets := v.w / 8
  let n := msg.length
  let blocks := n / (16 * octets) + (if n % (16 * octets) < 14 * octets then 1 else 2)
  let full := msg ++ [0x80] ++ List.replicate (16 * octets * blocks - n - 1 - 2 * octets) 0 ++ bytesBE (2 * octets) (8 * n)
  let keys := v.keys
  let final := (pieces (16 * octets) blocks full).foldl (fun h b => v.block keys h ((pieces octets 16 b).map beNat)) v.init
  final.flatMap (bytesBE octets)

def sha256 (msg : List Byte) : List Byte := shaShort.hash msg
def sha384 (msg : List Byte) : List Byte := (shaLong.hash msg).take 48

/-- HMAC-SHA-256 with a key of at most 64 octets. -/
def hmac256 (key msg : List Byte) : List Byte :=
  let k := padTo 64 key
  sha256 (k.map (· ^^^ 0x5C) ++ sha256 (k.map (· ^^^ 0x36) ++ msg))

/-! ### AES -/

/-- Multiply by x in GF(2^8) modulo x^8 + x^4 + x^3 + x + 1. -/
def xtime (a : Nat) : Nat := if 128 ≤ a then (2 * a - 256) ^^^ 0x1B else 2 * a

/-- Product in GF(2^8), over the bits of `b`. -/
def gmulBits : Nat → Nat → Nat → Nat
  | 0, _, _ => 0
  | n + 1, a, b => (if b % 2 = 1 then a else 0) ^^^ gmulBits n (xtime a) (b / 2)

def gmul (a b : Nat) : Nat := gmulBits 8 a b

/-- The multiplicative inverse: a^254. -/
def ginv (a : Nat) : Nat :=
  let a2 := gmul a a
  let a3 := gmul a2 a
  let a6 := gmul a3 a3
  let a12 := gmul a6 a6
  let a15 := gmul a12 a3
  let a30 := gmul a15 a15
  let a60 := gmul a30 a30
  let a120 := gmul a60 a60
  let a126 := gmul a120 a6
  let a127 := gmul a126 a
  gmul a127 a127

/-- Rotate an octet left. -/
def rotl8 (n x : Nat) : Nat := (x * 2 ^ n) % 256 + x / 2 ^ (8 - n)

/-- The S-box. -/
def sbox (a : Nat) : Nat :=
  let b := ginv a
  b ^^^ rotl8 1 b ^^^ rotl8 2 b ^^^ rotl8 3 b ^^^ rotl8 4 b ^^^ 0x63

/-- Xor of two lists of octets. -/
def xorL (a b : List Nat) : List Nat := (a.zip b).map (fun x => x.1 ^^^ x.2)

/-- Key expansion: `l` is the list of four-octet words so far, newest first; `i` the index of the next word. -/
def aesExpand (nk : Nat) : Nat → Nat → Nat → List (List Nat) → List (List Nat)
  | 0, _, _, l => l
  | n + 1, i, rcon, l =>
    let prev := l.getD 0 []
    let back := l.getD (nk - 1) []
    if i % nk = 0 then
      let t := (prev.drop 1 ++ prev.take 1).map sbox
      let t := xorL t [rcon, 0, 0, 0]
      aesExpand nk n (i + 1) (xtime rcon) (xorL back t :: l)
    else if nk = 8 ∧ i % 8 = 4 then aesExpand nk n (i + 1) rcon (xorL back (prev.map sbox) :: l)
    else aesExpand nk n (i + 1) rcon (xorL back prev :: l)

/-- Cut a list into pieces of `n`, `m` of them. -/
def chunks {α : Type} (n : Nat) : Nat → List α → List (List α)
  | 0, _ => []
  | m + 1, l => l.take n :: chunks n m (l.drop n)

/-- Round keys of 16 octets for a 16- or 32-octet key. -/
def aesKeys (key : List Nat) : List (List Nat) :=
  let nk := key.length / 4
  let rounds := nk + 6
  let ws := (aesExpand nk (4 * (rounds + 1) - nk) nk 1 (chunks 4 nk key).reverse).reverse
  (chunks 4 (rounds + 1) ws).map (fun x => x.foldr (fun a b => a ++ b) [])

def shiftRows (s : List Nat) : List Nat := (List.range 16).map (fun i => s.getD ((i + 4 * (i % 4)) % 16) 0)

def mixColumn : List Nat → List Nat
  | [a, b, c, d] => [gmul 2 a ^^^ gmul 3 b ^^^ c ^^^ d, a ^^^ gmul 2 b ^^^ gmul 3 c ^^^ d,
      a ^^^ b ^^^ gmul 2 c ^^^ gmul 3 d, gmul 3 a ^^^ b ^^^ c ^^^ gmul 2 d]
  | l => l

/-- The rounds after the first key addition. -/
def aesRounds : List (List Nat) → List Nat → List Nat
  | [], s => s
  | [k], s => xorL (shiftRows (s.map sbox)) k
  | k :: rest, s =>
    let t := shiftRows (s.map sbox)
    aesRounds rest (xorL ((chunks 4 4 t).foldr (fun c acc => mixColumn c ++ acc) []) k)

/-- Encrypt one block of 16 octets. -/
def aesEnc (key block : List Byte) : List Byte :=
  match aesKeys (key.map (·.toNat)) with
  | [] => block
  | k :: rest => (aesRounds rest (xorL (block.map (·.toNat)) k)).map (BitVec.ofNat 8 ·)

/-! ### GCM -/

/-- Product in GF(2^128) of SP 800-38D, over the bits of `x` from the most significant. -/
def ghashMul : Nat → Nat → Nat → Nat → Nat
  | 0, _, _, z => z
  | n + 1, x, v, z =>
    let z := if bitAt x n then z ^^^ v else z
    ghashMul n x (if v % 2 = 1 then (v / 2) ^^^ (0xE1 * 2 ^ 120) else v / 2) z

/-- GHASH over blocks of 16 octets. -/
def ghash (h : Nat) : List (List Byte) → Nat → Nat
  | [], y => y
  | b :: rest, y => ghash h rest (ghashMul 128 (y ^^^ beNat (padTo 16 b)) h 0)

/-- Blocks of 16 octets, the last one short. -/
def blocks16 (l : List Byte) : List (List Byte) := chunks 16 ((l.length + 15) / 16) l

/-- Counter mode from the counter block `j + 1`. -/
def gctr (key : List Byte) : List (List Byte) → Nat → List Byte
  | [], _ => []
  | b :: rest, j =>
    let j' := j / 2 ^ 32 * 2 ^ 32 + (j + 1) % 2 ^ 32
    (b.zip (aesEnc key (bytesBE 16 j'))).map (fun x => x.1 ^^^ x.2) ++ gctr key rest j'

/-- The tag of AES-GCM for additional data and ciphertext, 12-octet IV. -/
def gcmTag (key iv aad ct : List Byte) : List Byte :=
  let h := beNat (aesEnc key (List.replicate 16 0))
  let y := ghash h (blocks16 aad ++ blocks16 ct ++ [bytesBE 8 (8 * aad.length) ++ bytesBE 8 (8 * ct.length)]) 0
  let e := aesEnc key (padTo 12 iv ++ bytesBE 4 1)
  (bytesBE 16 y).zip e |>.map (fun x => x.1 ^^^ x.2)

/-- AES-GCM encryption or decryption of octets, 12-octet IV. -/
def gcmCrypt (key iv txt : List Byte) : List Byte := gctr key (blocks16 txt) (beNat (padTo 12 iv) * 2 ^ 32 + 1)

/-- AES-GMAC: the tag over additional data alone. -/
def gmac (key iv data : List Byte) : List Byte := gcmTag key iv data []

end Sys2Proof.Machine
end

