-- ==== Sys2Proof/Machine/RegMap.lean ====
section
/-!
DEFINITION. The register map: for each block the rows of its register tables (offset, index strides, access code,
reset value, implemented bits, bits that lock at start-complete), and the lookup of a row by address (R30, R32, R34).
-/

namespace Sys2Proof.Machine

/-- The access codes of R15. -/
inductive Acc where
  | RO | RW | RWC | RWL | W1C | WO
  deriving DecidableEq, Repr

/-- One row of a block's register table: `dims` lists the stride and the count of each index, widest stride first;
`mask` holds the bits software may write, `rwl` those that lock at start-complete, `first` the number of the first
instance the row covers, and `cen` says that the register is a census counter (R94). -/
structure RegRow where
  off   : Nat
  dims  : List (Nat × Nat)
  acc   : Acc
  reset : Nat
  mask  : Nat
  rwl   : Nat
  first : Nat
  cen   : Bool
  deriving DecidableEq, Repr

/-- Rows of SYS. -/
def rowsSYS0 : List RegRow := [
  ⟨0x0, [], .RO, 0x47000100, 0xFFFFFFFF, 0x0, 0, false⟩,
  ⟨0x100, [(0x8, 13)], .WO, 0x0, 0x7, 0x0, 0, false⟩,
  ⟨0x104, [(0x8, 13)], .RO, 0x0, 0x7, 0x0, 0, false⟩,
  ⟨0x200, [], .RW, 0x0, 0xFFF, 0x0, 0, false⟩,
  ⟨0x204, [], .RW, 0x0, 0xFFFFFF, 0x0, 0, false⟩,
  ⟨0x208, [], .WO, 0x0, 0x3, 0x0, 0, false⟩,
  ⟨0x20C, [], .RO, 0x0, 0x1FFFF, 0x0, 0, false⟩,
  ⟨0x300, [], .RO, 0x0, 0xFFFFFFFF, 0x0, 0, false⟩,
  ⟨0x304, [], .RO, 0x0, 0xFF, 0x0, 0, false⟩,
  ⟨0x308, [], .W1C, 0x0, 0xFFFFFFFF, 0x0, 0, false⟩,
  ⟨0x10, [], .RO, 0x0, 0xFFFF0FFF, 0x0, 0, false⟩,
  ⟨0x14, [], .WO, 0x0, 0xFFFF0007, 0x0, 0, false⟩,
  ⟨0x18, [], .W1C, 0x0, 0x1F, 0x0, 0, false⟩,
  ⟨0x1C, [], .RO, 0x0, 0x7F, 0x0, 0, false⟩,
  ⟨0x20, [], .RW, 0x0, 0x3, 0x0, 0, false⟩,
  ⟨0x24, [], .RO, 0xFC000000, 0xFFFFFFFF, 0x0, 0, false⟩,
  ⟨0x28, [], .RO, 0x1, 0xFF, 0x0, 0, false⟩,
  ⟨0x2C, [], .RO, 0x0, 0xFFFFFFFF, 0x0, 0, false⟩,
  ⟨0x30, [], .RW, 0x700, 0xFF01, 0x0, 0, false⟩,
  ⟨0x34, [], .RO, 0x0, 0x3, 0x0, 0, false⟩,
  ⟨0x38, [], .RO, 0x0, 0xFFFFFFFF, 0x0, 0, false⟩,
  ⟨0x80, [], .RO, 0x0, 0xFFFFFFFF, 0x0, 0, true⟩,
  ⟨0x84, [], .RO, 0x0, 0xFFFFFFFF, 0x0, 0, true⟩,
  ⟨0x88, [], .RO, 0x0, 0xFFFFFFFF, 0x0, 0, true⟩,
  ⟨0x400, [(0x20, 2)], .WO, 0x0, 0x3, 0x0, 0, false⟩,
  ⟨0x404, [(0x20, 2)], .RW, 0x0, 0xFFFFFFFF, 0x0, 0, false⟩,
  ⟨0x408, [(0x20, 2)], .RW, 0x0, 0xFFFFFFFF, 0x0, 0, false⟩,
  ⟨0x40C, [(0x20, 2)], .RW, 0x0, 0xFFFFFFFF, 0x0, 0, false⟩,
  ⟨0x410, [(0x20, 2)], .RW, 0x0, 0xFF, 0x0, 0, false⟩,
  ⟨0x414, [(0x20, 2)], .RO, 0x0, 0xF, 0x0, 0, false⟩,
  ⟨0x600, [(0x4, 25)], .RO, 0x0, 0x1, 0x0, 0, false⟩,
  ⟨0x500, [], .WO, 0x0, 0xFFFFFFFF, 0x0, 0, false⟩,
  ⟨0x504, [], .RO, 0x0, 0xF7, 0x0, 0, false⟩]
/-- Register table of SYS. -/
def rowsSYS : List RegRow := rowsSYS0

/-- Rows of TIME. -/
def rowsTIME0 : List RegRow := [
  ⟨0x200, [(0x10, 2)], .RW, 0x0, 0x80FFFFFF, 0x0, 0, false⟩,
  ⟨0x204, [(0x10, 2)], .RO, 0x0, 0xFFFFFFFF, 0x0, 0, true⟩,
  ⟨0x208, [(0x10, 2)], .RO, 0x0, 0xFFFFFFFF, 0x0, 0, true⟩,
  ⟨0x220, [], .RW, 0x0, 0xFFFFFFFF, 0x0, 0, false⟩,
  ⟨0x224, [], .RW, 0x0, 0xFFFFFFFF, 0x0, 0, false⟩,
  ⟨0x228, [], .RW, 0x0, 0xFFFFFFFF, 0x0, 0, false⟩,
  ⟨0x22C, [], .RW, 0x0, 0xFFFFFFFF, 0x0, 0, false⟩,
  ⟨0x230, [], .RW, 0xFFFFFEF8, 0xFFFFFFFF, 0x0, 0, false⟩,
  ⟨0x234, [], .RW, 0xA0008080, 0xFFFFFFFF, 0x0, 0, false⟩,
  ⟨0x238, [], .RW, 0x25, 0x1FFFFF, 0x0, 0, false⟩,
  ⟨0x0, [], .RO, 0x47010100, 0xFFFFFFFF, 0x0, 0, false⟩,
  ⟨0x10, [], .RW, 0x3, 0x3, 0x1, 0, false⟩,
  ⟨0x14, [], .RO, 0x0, 0x737, 0x0, 0, false⟩,
  ⟨0x18, [], .W1C, 0x0, 0x3FF, 0x0, 0, false⟩,
  ⟨0x1C, [], .WO, 0x0, 0x7, 0x0, 0, false⟩,
  ⟨0x20, [], .RW, 0x0, 0xFFFFFFFF, 0x0, 0, false⟩,
  ⟨0x24, [], .RW, 0x8, 0xF, 0x0, 0, false⟩,
  ⟨0x30, [], .RO, 0x0, 0xFFFFFFFF, 0x0, 0, false⟩,
  ⟨0x34, [], .RO, 0x0, 0xFFFFFFFF, 0x0, 0, false⟩,
  ⟨0x38, [], .RO, 0x0, 0xFFFF, 0x0, 0, false⟩,
  ⟨0x3C, [], .RO, 0x0, 0xFFFFFFFF, 0x0, 0, false⟩,
  ⟨0x40, [], .RO, 0x0, 0xFFFFFFFF, 0x0, 0, false⟩,
  ⟨0x44, [], .RO, 0x0, 0xFFFFFFFF, 0x0, 0, false⟩,
  ⟨0x50, [], .RW, 0x0, 0xFFFFFFFF, 0x0, 0, false⟩,
  ⟨0x54, [], .RW, 0x0, 0xFFFFFFFF, 0x0, 0, false⟩,
  ⟨0x58, [], .RW, 0x0, 0xFFFF, 0x0, 0, false⟩,
  ⟨0x60, [], .RW, 0x0, 0xFFFFFFFF, 0x0, 0, false⟩,
  ⟨0x64, [], .RW, 0x0, 0xFFFFFFFF, 0x0, 0, false⟩,
  ⟨0x70, [], .RW, 0x386D43A5, 0xFFFFFFFF, 0x0, 0, false⟩,
  ⟨0x80, [], .RW, 0x0, 0xFFFFFFFF, 0x0, 0, false⟩,
  ⟨0x84, [], .RW, 0x0, 0xFFFFFFFF, 0x0, 0, false⟩,
  ⟨0x88, [], .RW, 0x0, 0x8FFFFFFF, 0x0, 0, false⟩,
  ⟨0x8C, [], .RW, 0x50BB8, 0xFFFFFFFF, 0x0, 0, false⟩,
  ⟨0x90, [], .RO, 0x0, 0xFFFFFFFF, 0x0, 0, false⟩,
  ⟨0xA0, [], .RW, 0x6400, 0x8FFFFF13, 0x0, 0, false⟩,
  ⟨0xA4, [], .RO, 0x0, 0xFFFFFFFF, 0x0, 0, false⟩,
  ⟨0xA8, [], .RO, 0x0, 0xFFFFFFFF, 0x0, 0, false⟩,
  ⟨0xB0, [], .RO, 0x0, 0xFFFFFFFF, 0x0, 0, true⟩,
  ⟨0xB4, [], .RO, 0x0, 0xFFFFFFFF, 0x0, 0, true⟩,
  ⟨0xB8, [], .RO, 0x0, 0xFFFFFFFF, 0x0, 0, true⟩]
/-- Rows of TIME. -/
def rowsTIME1 : List RegRow := [
  ⟨0x400, [(0x20, 17)], .RW, 0x0, 0x1, 0x0, 0, false⟩,
  ⟨0x404, [(0x20, 17)], .RW, 0x0, 0xFFFFFFFF, 0x0, 0, false⟩,
  ⟨0x408, [(0x20, 17)], .RW, 0x0, 0xFFFFFFFF, 0x0, 0, false⟩,
  ⟨0x40C, [(0x20, 17)], .RW, 0x0, 0xFFFFFFFF, 0x0, 0, false⟩,
  ⟨0x410, [(0x20, 17)], .RO, 0x0, 0x7, 0x0, 0, false⟩,
  ⟨0x414, [(0x20, 17)], .RO, 0x0, 0xFFFFFFFF, 0x0, 0, true⟩]
/-- Register table of TIME. -/
def rowsTIME : List RegRow := rowsTIME0 ++ rowsTIME1

/-- Rows of WEFT. -/
def rowsWEFT0 : List RegRow := [
  ⟨0x0, [], .RO, 0x47020100, 0xFFFFFFFF, 0x0, 0, false⟩,
  ⟨0x10, [], .RWL, 0x23E0000, 0xFFFFFFFF, 0xFFFFFFFF, 0, false⟩,
  ⟨0x14, [], .RO, 0x0, 0xFFFFFFFF, 0x0, 0, false⟩,
  ⟨0x18, [], .RW, 0x2710, 0xFFFF, 0x0, 0, false⟩,
  ⟨0x1000, [(0x40, 16)], .RWC, 0x0, 0x7, 0x0, 0, false⟩,
  ⟨0x1004, [(0x40, 16)], .RWC, 0x0, 0x9FFF1FFF, 0x0, 0, false⟩,
  ⟨0x1008, [(0x40, 16)], .RWC, 0x1000020, 0xFFFF00FF, 0x0, 0, false⟩,
  ⟨0x100C, [(0x40, 16)], .RWC, 0x280, 0xFFFF, 0x0, 0, false⟩,
  ⟨0x1010, [(0x40, 16)], .RWC, 0x0, 0xFFFFFFFF, 0x0, 0, false⟩,
  ⟨0x1014, [(0x40, 16)], .RWC, 0x0, 0xFFFFFFFF, 0x0, 0, false⟩,
  ⟨0x1018, [(0x40, 16)], .RO, 0x0, 0x7FF, 0x0, 0, false⟩,
  ⟨0x101C, [(0x40, 16)], .W1C, 0x0, 0x1FF, 0x0, 0, false⟩,
  ⟨0x1020, [(0x40, 16)], .RO, 0x0, 0xFFFFFFFF, 0x0, 0, false⟩,
  ⟨0x1024, [(0x40, 16)], .RO, 0x0, 0xFFFF0000FFFF, 0x0, 0, false⟩,
  ⟨0x1028, [(0x40, 16)], .RO, 0x0, 0xFFFFFFFF, 0x0, 0, false⟩,
  ⟨0x102C, [(0x40, 16)], .RO, 0x0, 0xFFFFFFFF, 0x0, 0, false⟩,
  ⟨0x1030, [(0x40, 16)], .RO, 0x0, 0xFFFFFFFF, 0x0, 0, false⟩,
  ⟨0x1034, [(0x40, 16)], .RO, 0x0, 0xFFFFFFFF, 0x0, 0, false⟩,
  ⟨0x1038, [(0x40, 16)], .RO, 0x0, 0x1FFFF, 0x0, 0, false⟩,
  ⟨0x103C, [(0x40, 16)], .RO, 0x0, 0xFFFFFFFF, 0x0, 0, true⟩]
/-- Register table of WEFT. -/
def rowsWEFT : List RegRow := rowsWEFT0

/-- Rows of SIE. -/
def rowsSIE0 : List RegRow := [
  ⟨0x0, [], .RO, 0x47030100, 0xFFFFFFFF, 0x0, 0, false⟩,
  ⟨0x10, [], .RW, 0x0, 0x1, 0x0, 0, false⟩,
  ⟨0x14, [], .RWL, 0x0, 0xFFFFFFFF, 0xFFFFFFFF, 0, false⟩,
  ⟨0x18, [], .RWL, 0xC00000, 0xFFFFFFFF, 0xFFFFFFFF, 0, false⟩,
  ⟨0x1C, [], .RWL, 0x1000000, 0xFFFFFFFF, 0xFFFFFFFF, 0, false⟩,
  ⟨0x20, [], .RWL, 0x1600000, 0xFFFFFFFF, 0xFFFFFFFF, 0, false⟩,
  ⟨0x24, [], .RO, 0x0, 0x3, 0x0, 0, false⟩,
  ⟨0x28, [], .W1C, 0x0, 0x1, 0x0, 0, false⟩,
  ⟨0x30, [(0x4, 3)], .RO, 0x0, 0xFFFFFFFF, 0x0, 0, false⟩,
  ⟨0x40, [], .RO, 0x0, 0xFFFFFFFF, 0x0, 0, true⟩,
  ⟨0x44, [], .RO, 0x0, 0xFFFFFFFF, 0x0, 0, true⟩,
  ⟨0x48, [], .RO, 0x0, 0xFFFFFFFF, 0x0, 0, true⟩,
  ⟨0x100, [(0x4, 16)], .RW, 0x3E8, 0xFFFF, 0x0, 0, false⟩,
  ⟨0x10000, [(0x80, 96)], .RWC, 0x0, 0xFFFFFE00, 0x0, 0, false⟩,
  ⟨0x10004, [(0x80, 96)], .RWC, 0x0, 0xFFFFFFFF, 0x0, 0, false⟩,
  ⟨0x10008, [(0x80, 96)], .RWC, 0x0, 0xFFFF, 0x0, 0, false⟩,
  ⟨0x1000C, [(0x80, 96)], .RWC, 0x0, 0xFFFFFFFF, 0x0, 0, false⟩,
  ⟨0x10010, [(0x80, 96)], .RWC, 0x0, 0xFFFFFFFF, 0x0, 0, false⟩,
  ⟨0x10014, [(0x80, 96)], .RWC, 0x0, 0x13F3F, 0x0, 0, false⟩,
  ⟨0x10018, [(0x80, 96)], .RWC, 0x1482003, 0xFFFFFFFF, 0x0, 0, false⟩,
  ⟨0x1001C, [(0x80, 96)], .RWC, 0xBB8FFCE, 0xFFFFFFFF, 0x0, 0, false⟩,
  ⟨0x10020, [(0x80, 96)], .RWC, 0xC8, 0xFFFFFFFF, 0x0, 0, false⟩,
  ⟨0x10024, [(0x80, 96)], .RO, 0x0, 0x1FFFFF, 0x0, 0, false⟩,
  ⟨0x10028, [(0x80, 96)], .W1C, 0x0, 0x3FF, 0x0, 0, false⟩,
  ⟨0x1002C, [(0x80, 96)], .RO, 0x0, 0xFFFFFFFF, 0x0, 0, false⟩,
  ⟨0x10030, [(0x80, 96)], .RO, 0x0, 0xFFFFFFFF, 0x0, 0, false⟩,
  ⟨0x10034, [(0x80, 96)], .RO, 0x0, 0xFFFFFFFF, 0x0, 0, false⟩,
  ⟨0x10038, [(0x80, 96)], .RO, 0x0, 0xFFFF, 0x0, 0, false⟩,
  ⟨0x10040, [(0x80, 96)], .RO, 0x0, 0xFFFFFFFF, 0x0, 0, true⟩,
  ⟨0x10044, [(0x80, 96)], .RO, 0x0, 0xFFFFFFFF, 0x0, 0, true⟩,
  ⟨0x10048, [(0x80, 96)], .RO, 0x0, 0xFFFFFFFF, 0x0, 0, true⟩,
  ⟨0x1004C, [(0x80, 96)], .RO, 0x0, 0xFFFFFFFF, 0x0, 0, true⟩,
  ⟨0x10050, [(0x80, 96)], .RO, 0x0, 0xFFFFFFFF, 0x0, 0, true⟩,
  ⟨0x10054, [(0x80, 96)], .RO, 0x0, 0xFFFFFFFF, 0x0, 0, true⟩,
  ⟨0x10058, [(0x80, 96)], .RO, 0x0, 0xFFFFFFFF, 0x0, 0, true⟩,
  ⟨0x1005C, [(0x80, 96)], .RO, 0x0, 0xFFFFFFFF, 0x0, 0, true⟩,
  ⟨0x10060, [(0x80, 96)], .RO, 0x0, 0xFFFFFFFF, 0x0, 0, true⟩,
  ⟨0x10064, [(0x80, 96)], .RO, 0x0, 0xFFFFFFFF, 0x0, 0, true⟩,
  ⟨0x40000, [(0x100, 96), (0x8, 32)], .RWC, 0x0, 0x11F, 0x0, 0, false⟩,
  ⟨0x40004, [(0x100, 96), (0x8, 32)], .RWC, 0x0, 0xFFFFFFFF, 0x0, 0, false⟩]
/-- Register table of SIE. -/
def rowsSIE : List RegRow := rowsSIE0

/-- Rows of FDC. -/
def rowsFDC0 : List RegRow := [
  ⟨0x0, [], .RO, 0x47040100, 0xFFFFFFFF, 0x0, 0, false⟩,
  ⟨0x10, [], .RW, 0x0, 0x1, 0x0, 0, false⟩,
  ⟨0x14, [], .RWL, 0x1700000, 0xFFFFFFFF, 0xFFFFFFFF, 0, false⟩,
  ⟨0x18, [], .RWL, 0x1B00000, 0xFFFFFFFF, 0xFFFFFFFF, 0, false⟩,
  ⟨0x1C, [], .RWL, 0x1B40000, 0xFFFFFFFF, 0xFFFFFFFF, 0, false⟩,
  ⟨0x20, [], .RO, 0x0, 0x1, 0x0, 0, false⟩,
  ⟨0x24, [], .W1C, 0x0, 0x1, 0x0, 0, false⟩,
  ⟨0x30, [(0x4, 16)], .RO, 0x0, 0xFFFFFFFF, 0x0, 0, false⟩,
  ⟨0x80, [], .RO, 0x0, 0xFFFFFFFF, 0x0, 0, true⟩,
  ⟨0x84, [], .RO, 0x0, 0xFFFFFFFF, 0x0, 0, true⟩,
  ⟨0x10000, [(0x80, 512)], .RWC, 0x0, 0xFFFFF000, 0x0, 0, false⟩,
  ⟨0x10004, [(0x80, 512)], .RWC, 0x0, 0xFFFFFFFF, 0x0, 0, false⟩,
  ⟨0x10008, [(0x80, 512)], .RWC, 0x0, 0x7FFFF, 0x0, 0, false⟩,
  ⟨0x1000C, [(0x80, 512)], .RO, 0x0, 0xFFFFFF0F, 0x0, 0, false⟩,
  ⟨0x10010, [(0x80, 512)], .W1C, 0x0, 0xF, 0x0, 0, false⟩,
  ⟨0x10014, [(0x80, 512)], .RO, 0x0, 0xFFFFFFFF, 0x0, 0, true⟩,
  ⟨0x10040, [(0x80, 512), (0x8, 8)], .RWC, 0x0, 0x1F0FFF, 0x0, 0, false⟩,
  ⟨0x10044, [(0x80, 512), (0x8, 8)], .RWC, 0x1, 0xFFFF, 0x0, 0, false⟩]
/-- Register table of FDC. -/
def rowsFDC : List RegRow := rowsFDC0

/-- Rows of PSU. -/
def rowsPSU0 : List RegRow := [
  ⟨0x0, [], .RO, 0x47050100, 0xFFFFFFFF, 0x0, 0, false⟩,
  ⟨0x10, [], .RW, 0x0, 0x1, 0x0, 0, false⟩,
  ⟨0x14, [], .RWL, 0x1B50000, 0xFFFFFFFF, 0xFFFFFFFF, 0, false⟩,
  ⟨0x18, [], .RWL, 0x1B60000, 0xFFFFFFFF, 0xFFFFFFFF, 0, false⟩,
  ⟨0x20, [], .RO, 0x0, 0x1, 0x0, 0, false⟩,
  ⟨0x24, [], .W1C, 0x0, 0x1, 0x0, 0, false⟩,
  ⟨0x30, [(0x4, 4)], .RO, 0x0, 0xFFFFFFFF, 0x0, 0, false⟩,
  ⟨0x80, [], .RO, 0x0, 0xFFFFFFFF, 0x0, 0, true⟩,
  ⟨0x84, [], .RO, 0x0, 0xFFFFFFFF, 0x0, 0, true⟩,
  ⟨0x10000, [(0x40, 128)], .RWC, 0x0, 0xFFFFFFFE, 0x0, 0, false⟩,
  ⟨0x10004, [(0x40, 128)], .RWC, 0x3F800000, 0xFFFFFFFF, 0x0, 0, false⟩,
  ⟨0x10008, [(0x40, 128)], .RWC, 0x3F800000, 0xFFFFFFFF, 0x0, 0, false⟩,
  ⟨0x1000C, [(0x40, 128)], .RWC, 0x0, 0xFFFFFFFF, 0x0, 0, false⟩,
  ⟨0x10010, [(0x40, 128)], .RWC, 0x0, 0xFFFFFFFF, 0x0, 0, false⟩,
  ⟨0x10014, [(0x40, 128)], .RWC, 0x0, 0xFFFFFFFF, 0x0, 0, false⟩,
  ⟨0x10018, [(0x40, 128)], .RO, 0x0, 0xFF07, 0x0, 0, false⟩,
  ⟨0x1001C, [(0x40, 128)], .W1C, 0x0, 0xF, 0x0, 0, false⟩]
/-- Register table of PSU. -/
def rowsPSU : List RegRow := rowsPSU0

/-- Rows of DZE. -/
def rowsDZE0 : List RegRow := [
  ⟨0x0, [], .RO, 0x47060100, 0xFFFFFFFF, 0x0, 0, false⟩,
  ⟨0x10, [], .RW, 0x0, 0x1, 0x0, 0, false⟩,
  ⟨0x14, [], .RWL, 0x1B70000, 0xFFFFFFFF, 0xFFFFFFFF, 0, false⟩,
  ⟨0x18, [], .RWL, 0x1B71000, 0xFFFFFFFF, 0xFFFFFFFF, 0, false⟩,
  ⟨0x20, [], .RO, 0x0, 0x1, 0x0, 0, false⟩,
  ⟨0x24, [], .W1C, 0x0, 0x1, 0x0, 0, false⟩,
  ⟨0x28, [], .RO, 0x0, 0xFFFFFFFF, 0x0, 0, false⟩,
  ⟨0x80, [], .RO, 0x0, 0xFFFFFFFF, 0x0, 0, true⟩,
  ⟨0x84, [], .RO, 0x0, 0xFFFFFFFF, 0x0, 0, true⟩,
  ⟨0x10000, [(0x100, 16)], .RWC, 0x4000000, 0xFFF00000, 0x0, 0, false⟩,
  ⟨0x10004, [(0x100, 16)], .RWC, 0x140300, 0xFFFFFFFF, 0x0, 0, false⟩,
  ⟨0x10008, [(0x100, 16)], .RWC, 0x3F800000, 0xFFFFFFFF, 0x0, 0, false⟩,
  ⟨0x1000C, [(0x100, 16)], .RWC, 0x0, 0xFFFFFFFF, 0x0, 0, false⟩,
  ⟨0x10010, [(0x100, 16)], .RWC, 0x0, 0xFFFFFFFF, 0x0, 0, false⟩,
  ⟨0x10014, [(0x100, 16)], .RWC, 0x0, 0xFFFFFFFF, 0x0, 0, false⟩,
  ⟨0x10018, [(0x100, 16)], .RWC, 0x0, 0xFFFFFFFF, 0x0, 0, false⟩,
  ⟨0x1001C, [(0x100, 16)], .RWC, 0x400408, 0xFFFFFFFF, 0x0, 0, false⟩,
  ⟨0x10020, [(0x100, 16)], .RWC, 0x0, 0xFFFFFFFF, 0x0, 0, false⟩,
  ⟨0x10024, [(0x100, 16)], .RO, 0x0, 0x7FF, 0x0, 0, false⟩,
  ⟨0x10028, [(0x100, 16)], .W1C, 0x0, 0xFF, 0x0, 0, false⟩,
  ⟨0x1002C, [(0x100, 16)], .RO, 0x0, 0xFFFFFFFF, 0x0, 0, true⟩,
  ⟨0x40000, [(0x400, 16), (0x8, 96)], .RWC, 0x0, 0xFFFFE000, 0x0, 0, false⟩,
  ⟨0x40004, [(0x400, 16), (0x8, 96)], .RWC, 0x1000000, 0xFFFFFFFF, 0x0, 0, false⟩]
/-- Register table of DZE. -/
def rowsDZE : List RegRow := rowsDZE0

/-- Rows of XEC. -/
def rowsXEC0 : List RegRow := [
  ⟨0x0, [], .RO, 0x47070100, 0xFFFFFFFF, 0x0, 0, false⟩,
  ⟨0x10, [], .RW, 0x37, 0x3F, 0x30, 0, false⟩,
  ⟨0x14, [], .RO, 0x0, 0x1FF, 0x0, 0, false⟩,
  ⟨0x18, [], .W1C, 0x0, 0xFF, 0x0, 0, false⟩,
  ⟨0x1C, [], .RWL, 0xB, 0xF, 0xF, 0, false⟩,
  ⟨0x20, [], .RW, 0x4644655, 0xFFFFFFF, 0x0, 0, false⟩,
  ⟨0x24, [], .RW, 0x5F64, 0xFFFF, 0x0, 0, false⟩,
  ⟨0x28, [], .RO, 0x0, 0xFFFF, 0x0, 0, false⟩,
  ⟨0x2C, [], .RWL, 0x0, 0xFFFFFFFF, 0xFFFFFFFF, 0, false⟩,
  ⟨0x30, [], .RWL, 0x0, 0xFF, 0xFF, 0, false⟩,
  ⟨0x80, [], .RO, 0x0, 0xFFFFFFFF, 0x0, 0, true⟩,
  ⟨0x84, [], .RO, 0x0, 0xFFFFFFFF, 0x0, 0, true⟩,
  ⟨0x88, [], .RO, 0x0, 0xFFFFFFFF, 0x0, 0, true⟩,
  ⟨0x1000, [(0x40, 11)], .RO, 0x1, 0x3FFF7, 0x0, 0, false⟩,
  ⟨0x12C0, [], .RO, 0x2, 0x3FFF7, 0x0, 11, false⟩,
  ⟨0x1004, [(0x40, 12)], .WO, 0x0, 0x7, 0x0, 0, false⟩,
  ⟨0x1008, [(0x40, 12)], .W1C, 0x0, 0xFF, 0x0, 0, false⟩,
  ⟨0x100C, [(0x40, 12)], .RO, 0x0, 0xFF, 0x0, 0, false⟩,
  ⟨0x1010, [(0x40, 12)], .RO, 0x0, 0xFFFFFFFF, 0x0, 0, true⟩,
  ⟨0x1014, [(0x40, 12)], .RO, 0x0, 0xFFFFFFFF, 0x0, 0, true⟩,
  ⟨0x10000, [], .RWC, 0x82000000, 0xFFFFE000, 0x0, 0, false⟩,
  ⟨0x10040, [(0x40, 255)], .RWC, 0x0, 0xFFFFE000, 0x0, 1, false⟩,
  ⟨0x10004, [(0x40, 256)], .RWC, 0x0, 0xFFFFFFFF, 0x0, 0, false⟩,
  ⟨0x10008, [(0x40, 256)], .RWC, 0x0, 0xFF, 0x0, 0, false⟩,
  ⟨0x1000C, [(0x40, 256)], .RWC, 0x0, 0xFFFFF, 0x0, 0, false⟩,
  ⟨0x10010, [(0x40, 256)], .RO, 0x0, 0xFF7, 0x0, 0, false⟩,
  ⟨0x10014, [(0x40, 256)], .W1C, 0x0, 0x7F, 0x0, 0, false⟩,
  ⟨0x10018, [(0x40, 256)], .RO, 0x0, 0xFFFFFFFF, 0x0, 0, false⟩,
  ⟨0x1001C, [(0x40, 256)], .RO, 0x0, 0xFFFFFFFF, 0x0, 0, false⟩,
  ⟨0x10020, [(0x40, 256)], .RO, 0x0, 0xFFFFFFFF, 0x0, 0, false⟩,
  ⟨0x10024, [(0x40, 256)], .RO, 0x0, 0xFFFFFFFF, 0x0, 0, true⟩,
  ⟨0x10028, [(0x40, 256)], .RO, 0x0, 0xFFFFFFFF, 0x0, 0, true⟩,
  ⟨0x1002C, [(0x40, 256)], .RO, 0x0, 0xFFFFFFFF, 0x0, 0, true⟩,
  ⟨0x20000, [], .RWL, 0xFFFFF1, 0xFFFFF7, 0xFFFFF7, 0, false⟩,
  ⟨0x20100, [(0x100, 15)], .RWL, 0x0, 0xFFFFF7, 0xFFFFF7, 1, false⟩,
  ⟨0x20004, [(0x100, 16)], .RWL, 0x0, 0xFFFF, 0xFFFF, 0, false⟩,
  ⟨0x20008, [(0x100, 16)], .RO, 0x0, 0xFFFF, 0x0, 0, false⟩,
  ⟨0x2000C, [(0x100, 16)], .RO, 0x0, 0xFFFFFFFF, 0x0, 0, true⟩,
  ⟨0x20044, [(0x4, 15)], .RWL, 0xFFFFFF, 0xFFFFFF, 0xFFFFFF, 0, false⟩,
  ⟨0x20144, [(0x100, 15), (0x4, 15)], .RWL, 0x0, 0xFFFFFF, 0xFFFFFF, 1, false⟩]
/-- Rows of XEC. -/
def rowsXEC1 : List RegRow := [
  ⟨0x20084, [(0x100, 16), (0x4, 15)], .RO, 0x0, 0xFFFFFF, 0x0, 0, false⟩,
  ⟨0x21000, [], .RW, 0x0, 0xFEFF000F, 0x0, 0, false⟩,
  ⟨0x21004, [], .RW, 0x0, 0xFFFFFF, 0x0, 0, false⟩,
  ⟨0x21008, [], .RW, 0x0, 0xFFFFFF, 0x0, 0, false⟩,
  ⟨0x2100C, [], .RW, 0x0, 0xFFFFFFFF, 0x0, 0, false⟩,
  ⟨0x21010, [], .WO, 0x0, 0x7FFF, 0x0, 0, false⟩,
  ⟨0x21014, [], .RO, 0x0, 0xFFFF, 0x0, 0, false⟩,
  ⟨0x21018, [], .RO, 0x1000, 0x1FFF, 0x0, 0, false⟩,
  ⟨0x22000, [], .W1C, 0x0, 0xC0FFFF3F, 0x0, 0, false⟩,
  ⟨0x22004, [], .RO, 0x0, 0xFFFFFFFF, 0x0, 0, false⟩,
  ⟨0x22008, [], .RO, 0x0, 0xFF, 0x0, 0, false⟩,
  ⟨0x2200C, [], .RO, 0x0, 0xFFFFFFFF, 0x0, 0, true⟩,
  ⟨0x23000, [], .RWL, 0x0, 0xFFFFFFFF, 0xFFFFFFFF, 0, false⟩,
  ⟨0x23004, [], .RWL, 0x0, 0xFF, 0xFF, 0, false⟩,
  ⟨0x23008, [], .RO, 0x0, 0xFF0F, 0x0, 0, false⟩,
  ⟨0x2300C, [], .RO, 0x0, 0xFFFFFFFF, 0x0, 0, true⟩,
  ⟨0x30000, [(0x20, 256)], .RW, 0x0, 0xFFFF000F, 0x0, 0, false⟩,
  ⟨0x30004, [(0x20, 256)], .RW, 0x2710, 0x1FFFF, 0x0, 0, false⟩,
  ⟨0x30008, [(0x20, 256)], .WO, 0x0, 0xFF07F7, 0x0, 0, false⟩,
  ⟨0x3000C, [(0x20, 256)], .RW, 0x0, 0xFFFFFFFF, 0x0, 0, false⟩,
  ⟨0x30010, [(0x20, 256)], .RO, 0x0, 0x7FF7, 0x0, 0, false⟩,
  ⟨0x30014, [(0x20, 256)], .RO, 0x0, 0xFFFFFFFF, 0x0, 0, true⟩,
  ⟨0x30018, [(0x20, 256)], .W1C, 0x0, 0x3FF, 0x0, 0, false⟩,
  ⟨0x40000, [(0x10, 4096), (0x4, 4)], .RO, 0x0, 0xFEFF000F, 0x0, 0, false⟩]
/-- Register table of XEC. -/
def rowsXEC : List RegRow := rowsXEC0 ++ rowsXEC1

/-- Rows of PTS. -/
def rowsPTS0 : List RegRow := [
  ⟨0x0, [], .RO, 0x47080100, 0xFFFFFFFF, 0x0, 0, false⟩,
  ⟨0x10, [], .RW, 0x0, 0x3, 0x0, 0, false⟩,
  ⟨0x14, [], .RWL, 0x0, 0xFFFFFFFF, 0xFFFFFFFF, 0, false⟩,
  ⟨0x18, [], .RWL, 0x0, 0xFF, 0xFF, 0, false⟩,
  ⟨0x1C, [], .RWL, 0x10000000, 0xFFFFFFFF, 0xFFFFFFFF, 0, false⟩,
  ⟨0x20, [], .RWL, 0x0, 0xFF, 0xFF, 0, false⟩,
  ⟨0x24, [], .RO, 0x0, 0x3, 0x0, 0, false⟩,
  ⟨0x80, [], .RO, 0x0, 0xFFFFFFFF, 0x0, 0, true⟩,
  ⟨0x84, [], .RO, 0x0, 0xFFFFFFFF, 0x0, 0, true⟩,
  ⟨0x88, [], .RO, 0x0, 0xFFFFFFFF, 0x0, 0, true⟩,
  ⟨0x1000, [], .RW, 0x0, 0xFFFFFFFF, 0x0, 0, false⟩,
  ⟨0x1004, [], .RW, 0x0, 0xFFFFFFFF, 0x0, 0, false⟩,
  ⟨0x1008, [], .RW, 0x0, 0xFF, 0x0, 0, false⟩,
  ⟨0x100C, [], .RW, 0x0, 0xFFFFFFFF, 0x0, 0, false⟩,
  ⟨0x1010, [], .RW, 0x0, 0xFFFFFFFF, 0x0, 0, false⟩,
  ⟨0x1014, [], .WO, 0x0, 0xFFFFFFF, 0x0, 0, false⟩,
  ⟨0x1018, [], .RO, 0x0, 0x3, 0x0, 0, false⟩,
  ⟨0x10000, [(0x10, 4096)], .RW, 0x0, 0xF00000FF, 0x0, 0, false⟩,
  ⟨0x10004, [(0x10, 4096)], .RW, 0x0, 0x7FFFFF, 0x0, 0, false⟩,
  ⟨0x10008, [(0x10, 4096)], .RW, 0x0, 0xFFFFFFFF, 0x0, 0, false⟩,
  ⟨0x1000C, [(0x10, 4096)], .RO, 0x0, 0xFFFFFFFF, 0x0, 0, true⟩,
  ⟨0x20000, [(0x40, 1024)], .RW, 0x0, 0xFE00003F, 0x0, 0, false⟩,
  ⟨0x20004, [(0x40, 1024)], .RW, 0x0, 0xFFFFFFFF, 0x0, 0, false⟩,
  ⟨0x20008, [(0x40, 1024)], .RW, 0x0, 0xFFFFFFFF, 0x0, 0, false⟩,
  ⟨0x2000C, [(0x40, 1024)], .RW, 0x0, 0xFFFF, 0x0, 0, false⟩,
  ⟨0x20010, [(0x40, 1024)], .RW, 0x0, 0xFFFFFFFF, 0x0, 0, false⟩,
  ⟨0x20014, [(0x40, 1024)], .RW, 0x0, 0xFFFFFFFF, 0x0, 0, false⟩,
  ⟨0x20018, [(0x40, 1024)], .RW, 0x0, 0xFFFFFFFF, 0x0, 0, false⟩,
  ⟨0x2001C, [(0x40, 1024)], .RW, 0x0, 0xFFFFFFFF, 0x0, 0, false⟩,
  ⟨0x20020, [(0x40, 1024)], .RW, 0x0, 0x13F3F, 0x0, 0, false⟩,
  ⟨0x20024, [(0x40, 1024)], .RO, 0x0, 0xFFFFFFFF, 0x0, 0, false⟩,
  ⟨0x20028, [(0x40, 1024)], .W1C, 0x0, 0xFF, 0x0, 0, false⟩,
  ⟨0x2002C, [(0x40, 1024)], .RO, 0x0, 0xFFFFFFFF, 0x0, 0, true⟩,
  ⟨0x20030, [(0x40, 1024)], .RO, 0x0, 0xFFFFFFFF, 0x0, 0, true⟩,
  ⟨0x20034, [(0x40, 1024)], .RO, 0x0, 0xFFFFFFFF, 0x0, 0, true⟩,
  ⟨0x20038, [(0x40, 1024)], .RO, 0x0, 0xFFFFFFFF, 0x0, 0, true⟩,
  ⟨0x2003C, [(0x40, 1024)], .RO, 0x0, 0xFFFFFFFF, 0x0, 0, false⟩,
  ⟨0x30, [(0x4, 32)], .RO, 0x0, 0xFFFFFFFF, 0x0, 0, false⟩]
/-- Register table of PTS. -/
def rowsPTS : List RegRow := rowsPTS0

/-- Rows of PUB. -/
def rowsPUB0 : List RegRow := [
  ⟨0x0, [], .RO, 0x47090100, 0xFFFFFFFF, 0x0, 0, false⟩,
  ⟨0x10, [], .RW, 0x0, 0x3, 0x0, 0, false⟩,
  ⟨0x14, [], .RO, 0x0, 0x1FF, 0x0, 0, false⟩,
  ⟨0x18, [], .RO, 0x0, 0xFFFFFFFF, 0x0, 0, false⟩,
  ⟨0x1C, [], .W1C, 0x0, 0x1, 0x0, 0, false⟩,
  ⟨0x20, [], .WO, 0x0, 0x3FF, 0x0, 0, false⟩,
  ⟨0x24, [], .RO, 0x0, 0x7, 0x0, 0, false⟩,
  ⟨0x30, [(0x4, 9)], .RO, 0x0, 0xFFFFFFFF, 0x0, 0, false⟩,
  ⟨0x80, [], .RO, 0x0, 0xFFFFFFFF, 0x0, 0, true⟩,
  ⟨0x84, [], .RO, 0x0, 0xFFFFFFFF, 0x0, 0, true⟩,
  ⟨0x88, [], .RO, 0x0, 0xFFFFFFFF, 0x0, 0, true⟩,
  ⟨0x8C, [], .RO, 0x0, 0xFFFFFFFF, 0x0, 0, true⟩,
  ⟨0x90, [], .RO, 0x0, 0xFFFFFFFF, 0x0, 0, true⟩,
  ⟨0x10000, [(0x40, 264)], .RWC, 0x0, 0xFFF80000, 0x0, 0, false⟩,
  ⟨0x10004, [(0x40, 264)], .RWC, 0x0, 0xFFFFFFFF, 0x0, 0, false⟩,
  ⟨0x10008, [(0x40, 264)], .RWC, 0x0, 0xFF, 0x0, 0, false⟩,
  ⟨0x1000C, [(0x40, 264)], .RWC, 0x3E803E8, 0xFFFFFFFF, 0x0, 0, false⟩,
  ⟨0x10010, [(0x40, 264)], .RWC, 0x0, 0x3F, 0x0, 0, false⟩,
  ⟨0x14014, [(0x40, 8)], .RWC, 0x0, 0x3F, 0x0, 256, false⟩,
  ⟨0x10018, [(0x40, 264)], .RO, 0x0, 0xF, 0x0, 0, false⟩,
  ⟨0x1001C, [(0x40, 264)], .W1C, 0x0, 0x7F, 0x0, 0, false⟩,
  ⟨0x10020, [(0x40, 264)], .RO, 0x0, 0xFFFFFFFF, 0x0, 0, false⟩,
  ⟨0x10024, [(0x40, 264)], .RO, 0x0, 0xFFFFFFFF, 0x0, 0, false⟩,
  ⟨0x10028, [(0x40, 264)], .RO, 0x0, 0xFFFFFFFF, 0x0, 0, true⟩,
  ⟨0x1002C, [(0x40, 264)], .RO, 0x0, 0xFFFFFFFF, 0x0, 0, false⟩,
  ⟨0x10030, [(0x40, 264)], .RO, 0x0, 0xFFFFFFFF, 0x0, 0, false⟩]
/-- Register table of PUB. -/
def rowsPUB : List RegRow := rowsPUB0

/-- Rows of SWC. -/
def rowsSWC0 : List RegRow := [
  ⟨0x0, [], .RO, 0x470A0100, 0xFFFFFFFF, 0x0, 0, false⟩,
  ⟨0x10, [], .RW, 0x3, 0x3, 0x0, 0, false⟩,
  ⟨0x14, [], .RO, 0x0, 0x3, 0x0, 0, false⟩,
  ⟨0x18, [], .W1C, 0x0, 0x3, 0x0, 0, false⟩,
  ⟨0x1C, [], .RO, 0x7A00, 0x7FFF, 0x0, 0, false⟩,
  ⟨0x20, [], .RO, 0x0, 0xFFFFFFFF, 0x0, 0, false⟩,
  ⟨0x30, [(0x4, 8)], .RW, 0x0, 0xFFFFFFFF, 0x0, 0, false⟩,
  ⟨0x50, [], .WO, 0x0, 0x1FFFF, 0x0, 0, false⟩,
  ⟨0x54, [], .RO, 0x0, 0xF, 0x0, 0, false⟩,
  ⟨0x58, [], .RO, 0x0, 0xFFFFFFFF, 0x0, 0, false⟩,
  ⟨0x60, [(0x4, 8)], .RO, 0x0, 0xFFFFFFFF, 0x0, 0, false⟩,
  ⟨0x80, [], .RO, 0x0, 0xFFFFFFFF, 0x0, 0, true⟩,
  ⟨0x84, [], .RO, 0x0, 0xFFFFFFFF, 0x0, 0, true⟩,
  ⟨0x88, [], .RO, 0x0, 0xFFFFFFFF, 0x0, 0, true⟩,
  ⟨0x90, [], .RW, 0x640001, 0xFFFF0001, 0x0, 0, false⟩,
  ⟨0x94, [], .RO, 0x0, 0xFFFFFFFF, 0x0, 0, true⟩,
  ⟨0x98, [], .RO, 0x0, 0xFFFFFFFF, 0x0, 0, true⟩,
  ⟨0x10000, [(0x40, 9)], .RW, 0x10000, 0xFFFFFFFF, 0x0, 0, false⟩,
  ⟨0x10240, [(0x40, 3)], .RW, 0x80010000, 0xFFFFFFFF, 0x0, 9, false⟩,
  ⟨0x10300, [], .RW, 0x10000, 0xFFFFFFFF, 0x0, 12, false⟩,
  ⟨0x10004, [(0x40, 13)], .RW, 0x0, 0x3FFF, 0x0, 0, false⟩,
  ⟨0x10008, [(0x40, 13)], .RW, 0x1, 0xF800FFFF, 0x0, 0, false⟩,
  ⟨0x1000C, [(0x40, 13)], .RO, 0x0, 0x3, 0x0, 0, false⟩,
  ⟨0x10010, [(0x40, 13)], .RO, 0x0, 0xFFFFFFFF, 0x0, 0, true⟩,
  ⟨0x10014, [(0x40, 13)], .RO, 0x0, 0xFFFFFFFF, 0x0, 0, true⟩,
  ⟨0x10018, [(0x40, 13)], .RO, 0x0, 0xFFFFFFFF, 0x0, 0, true⟩,
  ⟨0x1001C, [(0x40, 13)], .RO, 0x0, 0xFFFFFFFF, 0x0, 0, true⟩,
  ⟨0x20000, [(0x100, 12), (0x20, 5)], .RW, 0x27101000, 0xFFFFFFFF, 0x0, 0, false⟩,
  ⟨0x200A0, [(0x100, 12), (0x20, 3)], .RW, 0x640100, 0xFFFFFFFF, 0x0, 0, false⟩,
  ⟨0x20004, [(0x100, 12), (0x20, 8)], .RO, 0x0, 0xFFFFFFFF, 0x0, 0, false⟩,
  ⟨0x20008, [(0x100, 12), (0x20, 8)], .RO, 0x0, 0xFFFFFFFF, 0x0, 0, true⟩,
  ⟨0x2000C, [(0x100, 12), (0x20, 8)], .RO, 0x0, 0xFFFFFFFF, 0x0, 0, true⟩,
  ⟨0x20010, [(0x100, 12), (0x20, 8)], .RO, 0x0, 0xFFFFFFFF, 0x0, 0, true⟩,
  ⟨0x20014, [(0x100, 12), (0x20, 8)], .RO, 0x0, 0xFFFFFFFF, 0x0, 0, true⟩,
  ⟨0x30000, [(0x40, 2)], .RWL, 0x7D00000, 0xFFFFFF0F, 0xFFFFFF0F, 0, false⟩,
  ⟨0x30004, [(0x40, 2)], .RW, 0x3C000A, 0xFFFFFFFF, 0x0, 0, false⟩,
  ⟨0x30008, [(0x40, 2)], .RO, 0x0, 0x1FFF, 0x0, 0, false⟩,
  ⟨0x3000C, [(0x40, 2)], .W1C, 0x0, 0x1F, 0x0, 0, false⟩,
  ⟨0x30010, [(0x40, 2)], .RO, 0x0, 0xFFFFFFFF, 0x0, 0, true⟩,
  ⟨0x30014, [(0x40, 2)], .RO, 0x0, 0xFFFFFFFF, 0x0, 0, true⟩]
/-- Rows of SWC. -/
def rowsSWC1 : List RegRow := [
  ⟨0x30018, [(0x40, 2)], .RO, 0x0, 0xFFFFFFFF, 0x0, 0, true⟩,
  ⟨0x3001C, [(0x40, 2)], .RO, 0x0, 0xFFFFFFFF, 0x0, 0, true⟩,
  ⟨0x40000, [(0x20, 4)], .RW, 0x0, 0xC0000000, 0x0, 0, false⟩,
  ⟨0x40004, [(0x20, 4)], .RW, 0x0, 0xFFFFFFFF, 0x0, 0, false⟩,
  ⟨0x40008, [(0x20, 4)], .RW, 0x0, 0xFF, 0x0, 0, false⟩,
  ⟨0x4000C, [(0x20, 4)], .RO, 0x0, 0x1FFF, 0x0, 0, false⟩,
  ⟨0x40010, [(0x20, 4)], .RW, 0x0, 0x1FFF, 0x0, 0, false⟩,
  ⟨0x40014, [(0x20, 4)], .RO, 0x0, 0xFFFFFFFF, 0x0, 0, true⟩,
  ⟨0x40018, [(0x20, 4)], .RO, 0x0, 0xFFFFFFFF, 0x0, 0, true⟩,
  ⟨0x50000, [(0x20, 16)], .RW, 0x0, 0x8000000F, 0x0, 0, false⟩,
  ⟨0x50004, [(0x20, 16)], .RW, 0x0, 0xFFFFFFFF, 0x0, 0, false⟩,
  ⟨0x50008, [(0x20, 16)], .RW, 0x0, 0xFF, 0x0, 0, false⟩,
  ⟨0x5000C, [(0x20, 16)], .RO, 0x0, 0xFFF, 0x0, 0, false⟩,
  ⟨0x50010, [(0x20, 16)], .RO, 0x0, 0xFFFFFFFF, 0x0, 0, true⟩,
  ⟨0x50014, [(0x20, 16)], .RO, 0x0, 0xFFFFFFFF, 0x0, 0, true⟩,
  ⟨0x51000, [(0x20, 16)], .RW, 0x0, 0x8000000F, 0x0, 0, false⟩,
  ⟨0x51004, [(0x20, 16)], .RW, 0x0, 0xFFFFFFFF, 0x0, 0, false⟩,
  ⟨0x51008, [(0x20, 16)], .RW, 0x0, 0xFF, 0x0, 0, false⟩,
  ⟨0x5100C, [(0x20, 16)], .RO, 0x0, 0xFFF, 0x0, 0, false⟩,
  ⟨0x51010, [(0x20, 16)], .WO, 0x0, 0xFFFFFFFF, 0x0, 0, false⟩,
  ⟨0x51014, [(0x20, 16)], .RO, 0x0, 0xFFFFFFFF, 0x0, 0, true⟩]
/-- Register table of SWC. -/
def rowsSWC : List RegRow := rowsSWC0 ++ rowsSWC1

/-- Rows of MAC. -/
def rowsMAC0 : List RegRow := [
  ⟨0x0, [(0x10000, 9)], .RO, 0x470B0100, 0xFFFFFFFF, 0x0, 0, false⟩,
  ⟨0x10, [(0x10000, 2)], .RW, 0xA04, 0xFF3F, 0x0, 0, false⟩,
  ⟨0x20010, [(0x10000, 2)], .RW, 0xA02, 0xFF3F, 0x0, 2, false⟩,
  ⟨0x40010, [(0x10000, 1)], .RW, 0xA04, 0xFF3F, 0x0, 4, false⟩,
  ⟨0x50010, [(0x10000, 1)], .RW, 0xA00, 0xFF3F, 0x0, 5, false⟩,
  ⟨0x60010, [(0x10000, 2)], .RW, 0xA04, 0xFF3F, 0x0, 6, false⟩,
  ⟨0x80010, [(0x10000, 1)], .RW, 0xA00, 0xFF3F, 0x0, 8, false⟩,
  ⟨0x14, [(0x10000, 9)], .RO, 0x0, 0x1F, 0x0, 0, false⟩,
  ⟨0x18, [(0x10000, 9)], .W1C, 0x0, 0x1F, 0x0, 0, false⟩,
  ⟨0x1C, [(0x10000, 9)], .RWL, 0x0, 0xFFFFFFFF, 0xFFFFFFFF, 0, false⟩,
  ⟨0x20, [(0x10000, 9)], .RWL, 0x0, 0xFFFF, 0xFFFF, 0, false⟩,
  ⟨0x24, [(0x10000, 9)], .RW, 0x0, 0xFFFFFFFF, 0x0, 0, false⟩,
  ⟨0x28, [(0x10000, 9)], .RW, 0x100640, 0xFFFFFFF1, 0x0, 0, false⟩,
  ⟨0x40, [(0x10000, 9)], .RO, 0x0, 0xFFFFFFFF, 0x0, 0, true⟩,
  ⟨0x44, [(0x10000, 9)], .RO, 0x0, 0xFFFFFFFF, 0x0, 0, true⟩,
  ⟨0x48, [(0x10000, 9)], .RO, 0x0, 0xFFFFFFFF, 0x0, 0, true⟩,
  ⟨0x4C, [(0x10000, 9)], .RO, 0x0, 0xFFFFFFFF, 0x0, 0, true⟩,
  ⟨0x50, [(0x10000, 9)], .RO, 0x0, 0xFFFFFFFF, 0x0, 0, true⟩,
  ⟨0x54, [(0x10000, 9)], .RO, 0x0, 0xFFFFFFFF, 0x0, 0, true⟩,
  ⟨0x58, [(0x10000, 9)], .RO, 0x0, 0xFFFFFFFF, 0x0, 0, true⟩,
  ⟨0x5C, [(0x10000, 9)], .RO, 0x0, 0xFFFFFFFF, 0x0, 0, true⟩,
  ⟨0x60, [(0x10000, 9)], .RO, 0x0, 0xFFFFFFFF, 0x0, 0, true⟩,
  ⟨0x64, [(0x10000, 9)], .RO, 0x0, 0xFFFFFFFF, 0x0, 0, true⟩,
  ⟨0x68, [(0x10000, 9)], .RO, 0x0, 0xFFFFFFFF, 0x0, 0, true⟩,
  ⟨0x6C, [(0x10000, 9)], .RO, 0x0, 0xFFFFFFFF, 0x0, 0, true⟩,
  ⟨0x70, [(0x10000, 9)], .RO, 0x0, 0xFFFFFFFF, 0x0, 0, true⟩,
  ⟨0x74, [(0x10000, 9)], .RO, 0x0, 0xFFFFFFFF, 0x0, 0, true⟩]
/-- Register table of MAC. -/
def rowsMAC : List RegRow := rowsMAC0

/-- Rows of RED. -/
def rowsRED0 : List RegRow := [
  ⟨0x0, [], .RO, 0x470C0100, 0xFFFFFFFF, 0x0, 0, false⟩,
  ⟨0x10, [], .RW, 0x1, 0x7, 0x2, 0, false⟩,
  ⟨0x14, [], .RO, 0x0, 0x1F, 0x0, 0, false⟩,
  ⟨0x18, [], .RO, 0x0, 0xFFF, 0x0, 0, false⟩,
  ⟨0x1C, [], .W1C, 0x0, 0xFFF, 0x0, 0, false⟩,
  ⟨0x20, [], .RO, 0x0, 0xFFFFFFFF, 0x0, 0, false⟩,
  ⟨0x24, [], .RWL, 0x0, 0xFFFFFFFF, 0xFFFFFFFF, 0, false⟩,
  ⟨0x28, [], .RW, 0x112C, 0x1FFF, 0x0, 0, false⟩,
  ⟨0x2C, [], .RW, 0x3, 0x3, 0x0, 0, false⟩,
  ⟨0x30, [], .WO, 0x0, 0x7, 0x0, 0, false⟩,
  ⟨0x34, [], .RW, 0x4000, 0xFF0F, 0x0, 0, false⟩,
  ⟨0x38, [], .RO, 0x0, 0xFFFFFFFF, 0x0, 0, false⟩,
  ⟨0x3C, [], .RO, 0x0, 0xFFFFFFFF, 0x0, 0, false⟩,
  ⟨0x40, [], .RW, 0x64, 0x1FFFF, 0x0, 0, false⟩,
  ⟨0x44, [], .RWL, 0x0, 0xFFFFFFFF, 0xFFFFFFFF, 0, false⟩,
  ⟨0x48, [], .RWL, 0x0, 0xFF, 0xFF, 0, false⟩,
  ⟨0x4C, [], .RWL, 0x0, 0xFFFFFFFF, 0xFFFFFFFF, 0, false⟩,
  ⟨0x50, [], .RWL, 0x0, 0xFF, 0xFF, 0, false⟩,
  ⟨0x54, [], .RO, 0x0, 0xFFFFFFFF, 0x0, 0, false⟩,
  ⟨0x58, [], .RO, 0xFFFFFFFF, 0xFFFFFFFF, 0x0, 0, false⟩,
  ⟨0x5C, [], .RW, 0x400, 0xFFFF, 0x0, 0, false⟩,
  ⟨0x60, [], .RO, 0x3, 0xFF, 0x0, 0, false⟩,
  ⟨0x80, [], .RO, 0x0, 0xFFFFFFFF, 0x0, 0, true⟩,
  ⟨0x84, [], .RO, 0x0, 0xFFFFFFFF, 0x0, 0, true⟩,
  ⟨0x88, [], .RO, 0x0, 0xFFFFFFFF, 0x0, 0, true⟩,
  ⟨0x8C, [], .RO, 0x0, 0xFFFFFFFF, 0x0, 0, true⟩,
  ⟨0x90, [], .RO, 0x0, 0xFFFFFFFF, 0x0, 0, true⟩,
  ⟨0x94, [], .RO, 0x0, 0xFFFFFFFF, 0x0, 0, true⟩,
  ⟨0x98, [], .RO, 0x0, 0xFFFFFFFF, 0x0, 0, true⟩,
  ⟨0x9C, [], .RO, 0x0, 0xFFFFFFFF, 0x0, 0, true⟩]
/-- Register table of RED. -/
def rowsRED : List RegRow := rowsRED0

/-- Rows of CAS. -/
def rowsCAS0 : List RegRow := [
  ⟨0x0, [], .RO, 0x470D0100, 0xFFFFFFFF, 0x0, 0, false⟩,
  ⟨0x10, [], .RW, 0x0, 0x3, 0x0, 0, false⟩,
  ⟨0x14, [], .RO, 0x0, 0x7F, 0x0, 0, false⟩,
  ⟨0x18, [], .W1C, 0x0, 0xFF, 0x0, 0, false⟩,
  ⟨0x1C, [], .RW, 0x0, 0xFFFF, 0x0, 0, false⟩,
  ⟨0x20, [], .RW, 0xB6, 0xFFFF, 0x0, 0, false⟩,
  ⟨0x24, [], .RWL, 0x0, 0xFFFFFFFF, 0xFFFFFFFF, 0, false⟩,
  ⟨0x28, [], .RWL, 0x0, 0xFF, 0xFF, 0, false⟩,
  ⟨0x2C, [], .RO, 0x0, 0xFFFF00FF, 0x0, 0, false⟩,
  ⟨0x80, [], .RO, 0x0, 0xFFFFFFFF, 0x0, 0, true⟩,
  ⟨0x84, [], .RO, 0x0, 0xFFFFFFFF, 0x0, 0, true⟩,
  ⟨0x88, [], .RO, 0x0, 0xFFFFFFFF, 0x0, 0, true⟩,
  ⟨0x8C, [], .RO, 0x0, 0xFFFFFFFF, 0x0, 0, true⟩,
  ⟨0x90, [], .RO, 0x0, 0xFFFFFFFF, 0x0, 0, true⟩,
  ⟨0x94, [], .RO, 0x0, 0xFFFFFFFF, 0x0, 0, true⟩,
  ⟨0x10000, [(0x40, 16)], .RWC, 0x0, 0x8000000F, 0x0, 0, false⟩,
  ⟨0x10004, [(0x40, 16)], .RO, 0x0, 0xFFFFFFFF, 0x0, 0, false⟩,
  ⟨0x10008, [(0x40, 16)], .RO, 0x0, 0x1F, 0x0, 0, false⟩]
/-- Register table of CAS. -/
def rowsCAS : List RegRow := rowsCAS0

/-- Rows of TAE. -/
def rowsTAE0 : List RegRow := [
  ⟨0x0, [], .RO, 0x470E0100, 0xFFFFFFFF, 0x0, 0, false⟩,
  ⟨0x10, [], .RW, 0x0, 0x3, 0x0, 0, false⟩,
  ⟨0x14, [], .RO, 0x0, 0x3, 0x0, 0, false⟩,
  ⟨0x18, [], .RO, 0x0, 0xFFFFFFFF, 0x0, 0, false⟩,
  ⟨0x1C, [], .W1C, 0x0, 0x3, 0x0, 0, false⟩,
  ⟨0x80, [], .RO, 0x0, 0xFFFFFFFF, 0x0, 0, true⟩,
  ⟨0x84, [], .RO, 0x0, 0xFFFFFFFF, 0x0, 0, true⟩,
  ⟨0x10000, [(0x2000, 8)], .RWC, 0x0, 0xFFFC0000, 0x0, 0, false⟩,
  ⟨0x10004, [(0x2000, 8)], .RWC, 0x10000, 0xFFFFFFFF, 0x0, 0, false⟩,
  ⟨0x10008, [(0x2000, 8)], .RWC, 0x0, 0xFFFFFFFF, 0x0, 0, false⟩,
  ⟨0x1000C, [(0x2000, 8)], .RWC, 0x0, 0xFF, 0x0, 0, false⟩,
  ⟨0x10010, [(0x2000, 8)], .RWC, 0x2, 0xFF, 0x0, 0, false⟩,
  ⟨0x10014, [(0x2000, 8)], .RWC, 0x1F4, 0x1FFFF, 0x0, 0, false⟩,
  ⟨0x10018, [(0x2000, 8)], .RWC, 0x0, 0xFFFFFFFF, 0x0, 0, false⟩,
  ⟨0x1001C, [(0x2000, 8)], .RWC, 0x0, 0xFFFF, 0x0, 0, false⟩,
  ⟨0x10020, [(0x2000, 8)], .RWC, 0x20, 0xFF, 0x0, 0, false⟩,
  ⟨0x10024, [(0x2000, 8)], .WO, 0x0, 0xFF07, 0x0, 0, false⟩,
  ⟨0x10028, [(0x2000, 8)], .RO, 0x0, 0xFFFFFF07, 0x0, 0, false⟩,
  ⟨0x1002C, [(0x2000, 8)], .W1C, 0x0, 0x3FF, 0x0, 0, false⟩,
  ⟨0x10030, [(0x2000, 8)], .RO, 0x0, 0xFFFFFFFF, 0x0, 0, false⟩,
  ⟨0x10040, [(0x2000, 8)], .RO, 0x0, 0xFFFFFFFF, 0x0, 0, true⟩,
  ⟨0x10044, [(0x2000, 8)], .RO, 0x0, 0xFFFFFFFF, 0x0, 0, true⟩,
  ⟨0x10048, [(0x2000, 8)], .RO, 0x0, 0xFFFFFFFF, 0x0, 0, true⟩,
  ⟨0x1004C, [(0x2000, 8)], .RO, 0x0, 0xFFFFFFFF, 0x0, 0, true⟩,
  ⟨0x10050, [(0x2000, 8)], .RO, 0x0, 0xFFFFFFFF, 0x0, 0, true⟩,
  ⟨0x10100, [(0x2000, 8), (0x10, 16)], .RWC, 0x0, 0xFEFFFFFF, 0x0, 0, false⟩,
  ⟨0x10104, [(0x2000, 8), (0x10, 16)], .RWC, 0x0, 0xFFFFFFFF, 0x0, 0, false⟩,
  ⟨0x10108, [(0x2000, 8), (0x10, 16)], .RWC, 0x1, 0xFF, 0x0, 0, false⟩,
  ⟨0x10200, [(0x2000, 8), (0x8, 256)], .RWC, 0x0, 0xE07FFFFF, 0x0, 0, false⟩,
  ⟨0x10204, [(0x2000, 8), (0x8, 256)], .RWC, 0x3F800000, 0xFFFFFFFF, 0x0, 0, false⟩,
  ⟨0x11000, [(0x2000, 8), (0x4, 1024)], .RWC, 0x0, 0xFF7FFFFF, 0x0, 0, false⟩]
/-- Register table of TAE. -/
def rowsTAE : List RegRow := rowsTAE0

/-- Rows of RGE. -/
def rowsRGE0 : List RegRow := [
  ⟨0x0, [], .RO, 0x470F0100, 0xFFFFFFFF, 0x0, 0, false⟩,
  ⟨0x10, [], .RW, 0x0, 0x1, 0x0, 0, false⟩,
  ⟨0x14, [], .RO, 0x0, 0x1, 0x0, 0, false⟩,
  ⟨0x18, [], .RO, 0x0, 0xFFFFFFFF, 0x0, 0, false⟩,
  ⟨0x1C, [], .W1C, 0x0, 0x3, 0x0, 0, false⟩,
  ⟨0x80, [], .RO, 0x0, 0xFFFFFFFF, 0x0, 0, true⟩,
  ⟨0x84, [], .RO, 0x0, 0xFFFFFFFF, 0x0, 0, true⟩,
  ⟨0x10000, [(0x100, 32)], .RWC, 0x0, 0xFFFFFBFE, 0x0, 0, false⟩,
  ⟨0x10004, [(0x100, 32)], .RWC, 0x0, 0x7FFFFF, 0x0, 0, false⟩,
  ⟨0x10008, [(0x100, 32)], .RWC, 0x0, 0x7FFFFF, 0x0, 0, false⟩,
  ⟨0x1000C, [(0x100, 32)], .RWC, 0x0, 0xFF7FFFFF, 0x0, 0, false⟩,
  ⟨0x10010, [(0x100, 32)], .RWC, 0x0, 0xFFFFFFFF, 0x0, 0, false⟩,
  ⟨0x10014, [(0x100, 32)], .RWC, 0x0, 0xFFFFFFFF, 0x0, 0, false⟩,
  ⟨0x10018, [(0x100, 32)], .RWC, 0x0, 0xFFFFFFFF, 0x0, 0, false⟩,
  ⟨0x1001C, [(0x100, 32)], .RWC, 0x0, 0xFFFFFFFF, 0x0, 0, false⟩,
  ⟨0x10020, [(0x100, 32)], .RWC, 0x0, 0xFFFFFFFF, 0x0, 0, false⟩,
  ⟨0x10024, [(0x100, 32)], .RWC, 0x0, 0xFFFFFFFF, 0x0, 0, false⟩,
  ⟨0x10028, [(0x100, 32)], .RWC, 0x0, 0xFFFFFFFF, 0x0, 0, false⟩,
  ⟨0x1002C, [(0x100, 32)], .RWC, 0x0, 0xFFFFFFFF, 0x0, 0, false⟩,
  ⟨0x10030, [(0x100, 32)], .RWC, 0x0, 0xFFFFFFFF, 0x0, 0, false⟩,
  ⟨0x10034, [(0x100, 32)], .RWC, 0x0, 0xFFFFFFFF, 0x0, 0, false⟩,
  ⟨0x10038, [(0x100, 32)], .RWC, 0x0, 0xFFFFFFFF, 0x0, 0, false⟩,
  ⟨0x1003C, [(0x100, 32)], .RWC, 0x0, 0xFFFFFFFF, 0x0, 0, false⟩,
  ⟨0x10040, [(0x100, 32)], .RWC, 0x100000, 0xFFFFFFFF, 0x0, 0, false⟩,
  ⟨0x10044, [(0x100, 32)], .RWC, 0x0, 0xFFFFFFFF, 0x0, 0, false⟩,
  ⟨0x10048, [(0x100, 32)], .RWC, 0x0, 0xFFFFFFFF, 0x0, 0, false⟩,
  ⟨0x1004C, [(0x100, 32)], .RWC, 0x0, 0xFFFFFFFF, 0x0, 0, false⟩,
  ⟨0x10050, [(0x100, 32)], .RWC, 0x0, 0xFFFFFFFF, 0x0, 0, false⟩,
  ⟨0x10054, [(0x100, 32)], .RWC, 0x0, 0xFF, 0x0, 0, false⟩,
  ⟨0x10058, [(0x100, 32)], .RWC, 0x0, 0xFFFFFFFF, 0x0, 0, false⟩,
  ⟨0x10060, [(0x100, 32)], .RW, 0x0, 0xFFFFFFFF, 0x0, 0, false⟩,
  ⟨0x10064, [(0x100, 32)], .RW, 0x0, 0xFFFFFFFF, 0x0, 0, false⟩,
  ⟨0x10068, [(0x100, 32)], .WO, 0x0, 0x3, 0x0, 0, false⟩,
  ⟨0x1006C, [(0x100, 32)], .RO, 0x0, 0x3FF, 0x0, 0, false⟩,
  ⟨0x10070, [(0x100, 32)], .W1C, 0x0, 0x3FF, 0x0, 0, false⟩,
  ⟨0x10074, [(0x100, 32)], .RO, 0x0, 0xFFFFFFFF, 0x0, 0, false⟩,
  ⟨0x10078, [(0x100, 32)], .RO, 0x0, 0xFFFFFFFF, 0x0, 0, false⟩,
  ⟨0x1007C, [(0x100, 32)], .RO, 0x0, 0xFFFFFFFF, 0x0, 0, false⟩,
  ⟨0x10080, [(0x100, 32)], .RO, 0x0, 0xFFFFFFFF, 0x0, 0, false⟩,
  ⟨0x10084, [(0x100, 32)], .RO, 0x0, 0xFFFFFFFF, 0x0, 0, false⟩]
/-- Rows of RGE. -/
def rowsRGE1 : List RegRow := [
  ⟨0x10088, [(0x100, 32)], .RO, 0x0, 0xFFFFFFFF, 0x0, 0, false⟩,
  ⟨0x1008C, [(0x100, 32)], .RO, 0x0, 0xFFFFFFFF, 0x0, 0, true⟩,
  ⟨0x10090, [(0x100, 32)], .RO, 0x0, 0xFFFFFFFF, 0x0, 0, true⟩,
  ⟨0x10094, [(0x100, 32)], .RO, 0x0, 0xFFFFFFFF, 0x0, 0, true⟩,
  ⟨0x10098, [(0x100, 32)], .RO, 0x0, 0xFFFFFFFF, 0x0, 0, true⟩]
/-- Register table of RGE. -/
def rowsRGE : List RegRow := rowsRGE0 ++ rowsRGE1

/-- Rows of LGE. -/
def rowsLGE0 : List RegRow := [
  ⟨0x0, [], .RO, 0x47100100, 0xFFFFFFFF, 0x0, 0, false⟩,
  ⟨0x10, [], .RW, 0x0, 0x1, 0x0, 0, false⟩,
  ⟨0x14, [], .RO, 0x0, 0x3F, 0x0, 0, false⟩,
  ⟨0x18, [], .RO, 0x0, 0xFFFFFFFF, 0x0, 0, false⟩,
  ⟨0x1C, [], .W1C, 0x0, 0x3, 0x0, 0, false⟩,
  ⟨0x20, [], .RWL, 0x0, 0xFFFFFFFF, 0xFFFFFFFF, 0, false⟩,
  ⟨0x24, [], .RWL, 0x0, 0xFF, 0xFF, 0, false⟩,
  ⟨0x28, [], .RWL, 0x0, 0xFFFFFFFF, 0xFFFFFFFF, 0, false⟩,
  ⟨0x2C, [], .RWL, 0x0, 0xFF, 0xFF, 0, false⟩,
  ⟨0x80, [], .RO, 0x0, 0xFFFFFFFF, 0x0, 0, true⟩,
  ⟨0x84, [], .RO, 0x0, 0xFFFFFFFF, 0x0, 0, true⟩,
  ⟨0x10000, [(0x100, 16)], .RWL, 0x0, 0x8000FF1F, 0x8000FF1F, 0, false⟩,
  ⟨0x10004, [(0x100, 16)], .RW, 0x0, 0xFFFFFFFF, 0x0, 0, false⟩,
  ⟨0x10008, [(0x100, 16)], .RW, 0x0, 0xFF, 0x0, 0, false⟩,
  ⟨0x1000C, [(0x100, 16)], .RW, 0x96, 0x1FF, 0x0, 0, false⟩,
  ⟨0x10010, [(0x100, 16)], .WO, 0x0, 0x1F0F, 0x0, 0, false⟩,
  ⟨0x10014, [(0x100, 16)], .RO, 0x0, 0xFFF1F, 0x0, 0, false⟩,
  ⟨0x10018, [(0x100, 16)], .W1C, 0x0, 0x1FFF, 0x0, 0, false⟩,
  ⟨0x1001C, [(0x100, 16)], .RO, 0x0, 0xFFFFFFFF, 0x0, 0, false⟩,
  ⟨0x10020, [(0x100, 16)], .RO, 0x0, 0xFFFFFFFF, 0x0, 0, false⟩,
  ⟨0x10024, [(0x100, 16)], .RO, 0x0, 0xFFFFFFFF, 0x0, 0, false⟩,
  ⟨0x10028, [(0x100, 16)], .RO, 0x0, 0xFFFFFFFF, 0x0, 0, true⟩,
  ⟨0x1002C, [(0x100, 16)], .RO, 0x0, 0xFFFFFFFF, 0x0, 0, true⟩,
  ⟨0x10030, [(0x100, 16)], .RO, 0x0, 0xFFFFFFFF, 0x0, 0, true⟩,
  ⟨0x10034, [(0x100, 16)], .RO, 0x0, 0xFFFFFFFF, 0x0, 0, true⟩,
  ⟨0x10040, [(0x100, 16), (0x8, 16)], .RW, 0x0, 0x3FFF, 0x0, 0, false⟩,
  ⟨0x10044, [(0x100, 16), (0x8, 16)], .RW, 0x0, 0xFFFFFFFF, 0x0, 0, false⟩,
  ⟨0x20000, [(0x400, 16), (0x8, 64)], .RW, 0x0, 0x80003FFF, 0x0, 0, false⟩,
  ⟨0x20004, [(0x400, 16), (0x8, 64)], .RW, 0x0, 0xFFFFFFFF, 0x0, 0, false⟩]
/-- Register table of LGE. -/
def rowsLGE : List RegRow := rowsLGE0

/-- Rows of CAN. -/
def rowsCAN0 : List RegRow := [
  ⟨0x0, [(0x10000, 2)], .RO, 0x47110100, 0xFFFFFFFF, 0x0, 0, false⟩,
  ⟨0x10, [(0x10000, 2)], .RW, 0x62, 0x1FB, 0x0, 0, false⟩,
  ⟨0x14, [(0x10000, 2)], .RO, 0x0, 0x7F, 0x0, 0, false⟩,
  ⟨0x18, [(0x10000, 2)], .W1C, 0x0, 0x3FF, 0x0, 0, false⟩,
  ⟨0x1C, [(0x10000, 2)], .RW, 0x1F3EFC00, 0x7FFFFFFF, 0x0, 0, false⟩,
  ⟨0x20, [(0x10000, 2)], .RW, 0x7071E00, 0xF0F1F1F, 0x0, 0, false⟩,
  ⟨0x24, [(0x10000, 2)], .RW, 0x0, 0xFF7F, 0x0, 0, false⟩,
  ⟨0x28, [(0x10000, 2)], .RO, 0x0, 0x1FFFF, 0x0, 0, false⟩,
  ⟨0x2C, [(0x10000, 2)], .RW, 0x40000064, 0xC000FFFF, 0x0, 0, false⟩,
  ⟨0x30, [(0x10000, 2)], .RW, 0x0, 0x3FFFFFFF, 0x0, 0, false⟩,
  ⟨0x34, [(0x10000, 2)], .RW, 0x0, 0xF, 0x0, 0, false⟩,
  ⟨0x38, [(0x10000, 2)], .WO, 0x0, 0x3, 0x0, 0, false⟩,
  ⟨0x3C, [(0x10000, 2)], .RO, 0x0, 0x37F, 0x0, 0, false⟩,
  ⟨0x40, [(0x10000, 2)], .RW, 0x0, 0x3FFFFFFF, 0x0, 0, false⟩,
  ⟨0x44, [(0x10000, 2)], .RW, 0x0, 0xFFFF7F, 0x0, 0, false⟩,
  ⟨0x48, [(0x10000, 2)], .RO, 0x0, 0x1F3F, 0x0, 0, false⟩,
  ⟨0x4C, [(0x10000, 2)], .WO, 0x0, 0xFFFFFFFF, 0x0, 0, false⟩,
  ⟨0x50, [(0x10000, 2)], .RO, 0x0, 0x307, 0x0, 0, false⟩,
  ⟨0x54, [(0x10000, 2)], .WO, 0x0, 0xFFFFFFFF, 0x0, 0, false⟩,
  ⟨0x58, [(0x10000, 2)], .RO, 0x0, 0xFFFFFFF8, 0x0, 0, false⟩,
  ⟨0x5C, [(0x10000, 2)], .RO, 0x0, 0x1F, 0x0, 0, false⟩,
  ⟨0x80, [(0x10000, 2)], .RO, 0x0, 0xFFFFFFFF, 0x0, 0, true⟩,
  ⟨0x84, [(0x10000, 2)], .RO, 0x0, 0xFFFFFFFF, 0x0, 0, true⟩,
  ⟨0x88, [(0x10000, 2)], .RO, 0x0, 0xFFFFFFFF, 0x0, 0, true⟩,
  ⟨0x8C, [(0x10000, 2)], .RO, 0x0, 0xFFFFFFFF, 0x0, 0, true⟩,
  ⟨0x90, [(0x10000, 2)], .RO, 0x0, 0xFFFFFFFF, 0x0, 0, true⟩,
  ⟨0x94, [(0x10000, 2)], .RO, 0x0, 0xFFFFFFFF, 0x0, 0, true⟩,
  ⟨0x98, [(0x10000, 2)], .RO, 0x0, 0xFFFFFFFF, 0x0, 0, true⟩,
  ⟨0x100, [(0x10000, 2), (0x4, 16)], .RW, 0x0, 0xFFFFFFFF, 0x0, 0, false⟩,
  ⟨0x200, [(0x10000, 2), (0x10, 32), (0x4, 4)], .RO, 0x0, 0xFFFFFFFF, 0x0, 0, false⟩,
  ⟨0x400, [(0x10000, 2), (0x4, 64)], .RW, 0x0, 0x1, 0x0, 0, false⟩,
  ⟨0x1000, [(0x10000, 2), (0x10, 128)], .RW, 0x0, 0xFFFFFFFF, 0x0, 0, false⟩,
  ⟨0x1004, [(0x10000, 2), (0x10, 128)], .RW, 0x0, 0x1FFFFFFF, 0x0, 0, false⟩,
  ⟨0x1008, [(0x10000, 2), (0x10, 128)], .RW, 0x0, 0x3FF, 0x0, 0, false⟩,
  ⟨0x2000, [(0x10000, 2), (0x60, 64), (0x4, 20)], .RO, 0x0, 0xFFFFFFFF, 0x0, 0, false⟩,
  ⟨0x3800, [(0x10000, 2), (0x60, 4), (0x4, 20)], .RO, 0x0, 0xFFFFFFFF, 0x0, 0, false⟩,
  ⟨0x4000, [(0x10000, 2), (0x60, 32), (0x4, 20)], .RO, 0x0, 0xFFFFFFFF, 0x0, 0, false⟩]
/-- Register table of CAN. -/
def rowsCAN : List RegRow := rowsCAN0

/-- Rows of KEY. -/
def rowsKEY0 : List RegRow := [
  ⟨0x0, [], .RO, 0x47120100, 0xFFFFFFFF, 0x0, 0, false⟩,
  ⟨0x10, [], .RW, 0x1, 0x1, 0x0, 0, false⟩,
  ⟨0x14, [], .RO, 0x0, 0x3F, 0x0, 0, false⟩,
  ⟨0x18, [], .W1C, 0x0, 0x3F, 0x0, 0, false⟩,
  ⟨0x1C, [], .RO, 0x0, 0xFFFFFFFF, 0x0, 0, false⟩,
  ⟨0x20, [], .RO, 0x0, 0xFFFFFFFF, 0x0, 0, false⟩,
  ⟨0x24, [], .WO, 0x0, 0x1, 0x0, 0, false⟩,
  ⟨0x80, [], .RO, 0x0, 0xFFFFFFFF, 0x0, 0, true⟩,
  ⟨0x84, [], .RO, 0x0, 0xFFFFFFFF, 0x0, 0, true⟩,
  ⟨0x88, [], .RO, 0x0, 0xFFFFFFFF, 0x0, 0, true⟩,
  ⟨0x1000, [], .WO, 0x0, 0x3FBF0F, 0x0, 0, false⟩,
  ⟨0x1004, [], .RW, 0x0, 0xFFFFFFFF, 0x0, 0, false⟩,
  ⟨0x1008, [(0x8, 3)], .RW, 0x0, 0xFFFFFFFF, 0x0, 0, false⟩,
  ⟨0x100C, [(0x8, 3)], .RW, 0x0, 0xFF, 0x0, 0, false⟩,
  ⟨0x1020, [], .RO, 0x0, 0x1F, 0x0, 0, false⟩,
  ⟨0x10000, [(0x20, 64)], .RW, 0x0, 0xFF003FFF, 0x0, 0, false⟩,
  ⟨0x10004, [(0x20, 64)], .RW, 0x0, 0xFFFFFFFF, 0x0, 0, false⟩,
  ⟨0x10008, [(0x20, 64)], .RO, 0x0, 0xFF1F, 0x0, 0, false⟩,
  ⟨0x1000C, [(0x20, 64)], .RO, 0x0, 0xFFFFFFFF, 0x0, 0, false⟩,
  ⟨0x10010, [(0x20, 64)], .RO, 0x0, 0xFFFFFFFF, 0x0, 0, true⟩]
/-- Register table of KEY. -/
def rowsKEY : List RegRow := rowsKEY0

/-- Rows of TMP. -/
def rowsTMP0 : List RegRow := [
  ⟨0x0, [], .RO, 0x47130100, 0xFFFFFFFF, 0x0, 0, false⟩,
  ⟨0x10, [], .RWL, 0x5AF, 0xFFF, 0xFFF, 0, false⟩,
  ⟨0x14, [], .RO, 0x5AF, 0xFFFFFFFF, 0x0, 0, false⟩,
  ⟨0x18, [], .RWL, 0xA0A00, 0xFFFF03, 0xFFFF03, 0, false⟩,
  ⟨0x1C, [], .RO, 0x0, 0x31F, 0x0, 0, false⟩,
  ⟨0x20, [], .W1C, 0x0, 0x11F, 0x0, 0, false⟩,
  ⟨0x24, [], .WO, 0x0, 0x1, 0x0, 0, false⟩,
  ⟨0x80, [], .RO, 0x0, 0xFFFFFFFF, 0x0, 0, true⟩]
/-- Register table of TMP. -/
def rowsTMP : List RegRow := rowsTMP0

/-- Rows of LED. -/
def rowsLED0 : List RegRow := [
  ⟨0x0, [], .RO, 0x47140100, 0xFFFFFFFF, 0x0, 0, false⟩,
  ⟨0x10, [], .RW, 0x640040, 0xFFFF07FF, 0x0, 0, false⟩,
  ⟨0x14, [], .RO, 0x0, 0x3FFF, 0x0, 0, false⟩,
  ⟨0x18, [], .W1C, 0x0, 0xF, 0x0, 0, false⟩,
  ⟨0x1C, [], .RO, 0x0, 0xFFFFFFFF, 0x0, 0, false⟩,
  ⟨0x20, [], .WO, 0x0, 0xFFFF0007, 0x0, 0, false⟩,
  ⟨0x24, [], .RO, 0x0, 0x3, 0x0, 0, false⟩,
  ⟨0x40, [(0x4, 8)], .RW, 0x0, 0xFFFFFFFF, 0x0, 0, false⟩,
  ⟨0x80, [], .RO, 0x0, 0xFFFFFFFF, 0x0, 0, true⟩,
  ⟨0x84, [], .RO, 0x0, 0xFFFFFFFF, 0x0, 0, true⟩,
  ⟨0x88, [], .RO, 0x0, 0xFFFFFFFF, 0x0, 0, true⟩,
  ⟨0xC0, [(0x4, 8)], .RO, 0x0, 0xFFFFFFFF, 0x0, 0, false⟩]
/-- Register table of LED. -/
def rowsLED : List RegRow := rowsLED0

/-- Rows of BKD. -/
def rowsBKD0 : List RegRow := [
  ⟨0x0, [], .RO, 0x47150100, 0xFFFFFFFF, 0x0, 0, false⟩,
  ⟨0x10, [], .RO, 0x0, 0x1F, 0x0, 0, false⟩,
  ⟨0x14, [], .W1C, 0x1, 0x1FF, 0x0, 0, false⟩,
  ⟨0x18, [], .RO, 0x0, 0xFFFFFFFF, 0x0, 0, false⟩,
  ⟨0x1C, [], .RO, 0x0, 0x3FFFF0003FFFF, 0x0, 0, false⟩,
  ⟨0x20, [], .RW, 0x0, 0xFFFFFFFF, 0x0, 0, false⟩,
  ⟨0x24, [], .RW, 0x0, 0x3FFFF, 0x0, 0, false⟩,
  ⟨0x28, [], .WO, 0x0, 0x3, 0x0, 0, false⟩,
  ⟨0x2C, [], .RW, 0x0, 0x3FF, 0x0, 0, false⟩,
  ⟨0x30, [], .RO, 0x0, 0x71F3F3F, 0x0, 0, false⟩,
  ⟨0x34, [], .RO, 0x0, 0xFFF0F1F, 0x0, 0, false⟩,
  ⟨0x40, [(0x10, 2)], .RW, 0x0, 0x71F3F3F, 0x0, 0, false⟩,
  ⟨0x44, [(0x10, 2)], .RW, 0x0, 0xFFF0F1F, 0x0, 0, false⟩,
  ⟨0x48, [(0x10, 2)], .RW, 0x0, 0x1FF, 0x0, 0, false⟩,
  ⟨0x60, [], .RW, 0x0, 0xFFFF, 0x0, 0, false⟩,
  ⟨0x70, [], .RO, 0x0, 0xFFFFFFFF, 0x0, 0, true⟩,
  ⟨0x74, [], .RO, 0x0, 0xFFFFFFFF, 0x0, 0, true⟩,
  ⟨0x78, [], .RW, 0x0, 0xF, 0x0, 0, false⟩,
  ⟨0x7C, [], .RO, 0x100, 0x1FF, 0x0, 0, false⟩,
  ⟨0x80, [(0x4, 4)], .RW, 0x0, 0xFFFFFFFF, 0x0, 0, false⟩,
  ⟨0x100, [(0x4, 32)], .RW, 0x0, 0xFFFFFFFF, 0x0, 0, false⟩,
  ⟨0x200, [(0x4, 64)], .RW, 0x0, 0xFFFFFFFF, 0x0, 0, false⟩]
/-- Register table of BKD. -/
def rowsBKD : List RegRow := rowsBKD0

/-- Rows of GRD. -/
def rowsGRD0 : List RegRow := [
  ⟨0x0, [], .RO, 0x47160100, 0xFFFFFFFF, 0x0, 0, false⟩,
  ⟨0x10, [], .RWL, 0x320000, 0xFFFF0007, 0xFFFF0007, 0, false⟩,
  ⟨0x14, [], .RO, 0x0, 0xFFFFF1F, 0x0, 0, false⟩,
  ⟨0x18, [], .W1C, 0x0, 0xFF, 0x0, 0, false⟩,
  ⟨0x1C, [], .WO, 0x0, 0x1, 0x0, 0, false⟩,
  ⟨0x20, [], .RWL, 0x140000, 0xFF00FF, 0xFF00FF, 0, false⟩,
  ⟨0x24, [], .W1C, 0x0, 0xF, 0x0, 0, false⟩,
  ⟨0x80, [], .RO, 0x0, 0xFFFFFFFF, 0x0, 0, true⟩,
  ⟨0x84, [], .RO, 0x0, 0xFFFFFFFF, 0x0, 0, true⟩,
  ⟨0x88, [], .RO, 0x0, 0xFFFFFFFF, 0x0, 0, true⟩,
  ⟨0x10000, [(0x20, 8)], .RWL, 0x50, 0x800001FF, 0x800001FF, 0, false⟩,
  ⟨0x10004, [(0x20, 8)], .RWL, 0x3F800000, 0xFFFFFFFF, 0xFFFFFFFF, 0, false⟩,
  ⟨0x10008, [(0x20, 8)], .RO, 0x0, 0xFFFFFFFF, 0x0, 0, false⟩,
  ⟨0x1000C, [(0x20, 8)], .RO, 0x0, 0x3FFFF, 0x0, 0, false⟩,
  ⟨0x20000, [(0x20, 8)], .RWL, 0x0, 0xFFE0FF00, 0xFFE0FF00, 0, false⟩,
  ⟨0x20004, [(0x20, 8)], .RWL, 0x0, 0xFFFFFFFF, 0xFFFFFFFF, 0, false⟩,
  ⟨0x20008, [(0x20, 8)], .RWL, 0x0, 0xFFFFFFFF, 0xFFFFFFFF, 0, false⟩,
  ⟨0x2000C, [(0x20, 8)], .RWL, 0x3F800000, 0xFFFFFFFF, 0xFFFFFFFF, 0, false⟩,
  ⟨0x20010, [(0x20, 8)], .RWL, 0x0, 0xFFFFFFFF, 0xFFFFFFFF, 0, false⟩,
  ⟨0x20014, [(0x20, 8)], .RWL, 0x0, 0xFFFF, 0xFFFF, 0, false⟩,
  ⟨0x20018, [(0x20, 8)], .RO, 0x0, 0xFFFF0007, 0x0, 0, false⟩,
  ⟨0x30000, [(0x10, 4)], .RWL, 0x640000, 0xFFFF01FF, 0xFFFF01FF, 0, false⟩,
  ⟨0x30004, [(0x10, 4)], .RO, 0x0, 0xFFFFFFFF, 0x0, 0, true⟩]
/-- Register table of GRD. -/
def rowsGRD : List RegRow := rowsGRD0

/-- Rows of CEN. -/
def rowsCEN0 : List RegRow := [
  ⟨0x0, [], .RO, 0x47170100, 0xFFFFFFFF, 0x0, 0, false⟩,
  ⟨0x10, [], .RW, 0x0, 0x3, 0x0, 0, false⟩,
  ⟨0x14, [], .RW, 0x0, 0xFFFFFFFF, 0x0, 0, false⟩,
  ⟨0x18, [], .RW, 0x0, 0xFF, 0x0, 0, false⟩,
  ⟨0x20, [], .RW, 0x0, 0x7FFF7FF1, 0x0, 0, false⟩,
  ⟨0x24, [], .RW, 0x0, 0xFFFFFFFF, 0x0, 0, false⟩,
  ⟨0x28, [], .RW, 0x0, 0xFFFFFFFF, 0x0, 0, false⟩,
  ⟨0x2C, [], .WO, 0x0, 0x7, 0x0, 0, false⟩,
  ⟨0x30, [], .RO, 0x0, 0xFFFF003F, 0x0, 0, false⟩,
  ⟨0x34, [], .W1C, 0x0, 0x1F, 0x0, 0, false⟩,
  ⟨0x38, [], .RO, 0x0, 0xFFFFFFFF, 0x0, 0, false⟩,
  ⟨0x3C, [], .RO, 0x0, 0xFFFFFFFF, 0x0, 0, false⟩,
  ⟨0x40, [], .RO, 0x0, 0xFFFFFFFF, 0x0, 0, false⟩,
  ⟨0x44, [], .RO, 0x0, 0xFFFFFFFF, 0x0, 0, true⟩,
  ⟨0x48, [], .RO, 0x0, 0xFFFFFFFF, 0x0, 0, true⟩]
/-- Register table of CEN. -/
def rowsCEN : List RegRow := rowsCEN0

/-- The staging registers every block with RWC fields carries (R34). -/
def rowsStaging : List RegRow := [
  ⟨0x7F000, [], .WO, 0, 0x1FFFF, 0, 0, false⟩,
  ⟨0x7F004, [], .RO, 0, 0, 0, 0, false⟩,
  ⟨0x7F008, [], .W1C, 0, 0xF, 0, 0, false⟩,
  ⟨0x7F00C, [], .WO, 0, 0x1FFFF, 0, 0, false⟩,
  ⟨0x7F040, [(4, 16)], .RO, 0, 0, 0, 0, false⟩]

/-- The register table of block `b`, in the order of R30. -/
def rowsOf : Nat → List RegRow
  | 0 => rowsSYS
  | 1 => rowsTIME
  | 2 => rowsWEFT
  | 3 => rowsSIE
  | 4 => rowsFDC
  | 5 => rowsPSU
  | 6 => rowsDZE
  | 7 => rowsXEC
  | 8 => rowsPTS
  | 9 => rowsPUB
  | 10 => rowsSWC
  | 11 => rowsMAC
  | 12 => rowsRED
  | 13 => rowsCAS
  | 14 => rowsTAE
  | 15 => rowsRGE
  | 16 => rowsLGE
  | 17 => rowsCAN
  | 18 => rowsKEY
  | 19 => rowsTMP
  | 20 => rowsLED
  | 21 => rowsBKD
  | 22 => rowsGRD
  | 23 => rowsCEN
  | _ => []

/-- Blocks with RWC fields (R30). -/
def hasRwc (b : Nat) : Bool := [2, 3, 4, 5, 6, 7, 9, 13, 14, 15].contains b

/-- `rel` is a sum of one multiple of each stride, each below its count. -/
def dimsMatch : List (Nat × Nat) → Nat → Bool
  | [], rel => rel == 0
  | (st, cnt) :: rest, rel => decide (rel / st < cnt) && dimsMatch rest (rel % st)

/-- The row's register family holds offset `off`. -/
def RegRow.covers (r : RegRow) (off : Nat) : Bool := decide (r.off ≤ off) && dimsMatch r.dims (off - r.off)

/-- The row that covers an offset of block `b` (R32: none where no register stands). In a block without RWC fields
and in XEC (which has no reset register) the staging rows are absent as R34 says. -/
def rowAt (b off : Nat) : Option RegRow :=
  match (rowsOf b).find? (·.covers off) with
  | some r => some r
  | none =>
    if hasRwc b && !(b == 7 && off == 0x7F00C) then rowsStaging.find? (·.covers off) else none

/-- An address of the register region (R28). -/
def isReg (a : Nat) : Bool := decide (0x6000000000 ≤ a ∧ a < 0x6001800000)

/-- Block and offset of a register address: blocks of 1 MiB from 0x60_0000_0000 (R30). -/
def blkOf (a : Nat) : Nat := a / 0x100000 % 0x20000
def offOf (a : Nat) : Nat := a % 0x100000

/-- The reset value of the register at an address (R15: the value after a cold start), 0 where no register stands.
A shadow (R31) has the reset value of its register; a bank of a master stands `2 ^ 44` higher per master. -/
def resetNat (a : Nat) : Nat :=
  let a := a % 2 ^ 44
  if !isReg a then 0 else
  let b := blkOf a
  let off := offOf a
  match rowAt b off with
  | some r => r.reset
  | none =>
    if hasRwc b && decide (0x80000 ≤ off) then
      match rowAt b (off % 0x80000) with
      | some r => r.reset
      | none => 0
    else 0

/-- `resetNat` as a register word. -/
def resetWord (a : Nat) : Word := BitVec.ofNat 32 (resetNat a)


end Sys2Proof.Machine
end

