-- ==== Sys2Proof/Machine/RegNames.lean ====
section
/-!
DEFINITION. The register names of the module: each is the 40-bit physical address of the register (R30: the
block's base, plus the offset the block's register table gives). A register with an index takes it as an argument.
-/

namespace Sys2Proof.Machine

/-- Base of block `b`'s register window, 1 MiB each (R30). -/
def blkBase (b : Nat) : Nat := 0x6000000000 + b * 0x100000

/-- R34 (01). -/
def BLK_COMMIT (b : Nat) : Nat := blkBase b + 0x7F000
/-- R34 (01). -/
def BLK_COMMIT_STAT (b : Nat) : Nat := blkBase b + 0x7F004
/-- R34 (01). -/
def BLK_STAGE_ERR (b : Nat) : Nat := blkBase b + 0x7F008
/-- R34 (01). -/
def BLK_RESET (b : Nat) : Nat := blkBase b + 0x7F00C
/-- R34 (01). -/
def BLK_PENDING (b : Nat) (k : Nat) : Nat := blkBase b + 0x7F040 + 0x4 * k
/-- R36 (01). -/
def SYS_IDENT : Nat := 0x6000000000
/-- R36 (01). -/
def SYS_FENCE_DB (n : Nat) : Nat := 0x6000000100 + 0x8 * n
/-- R36 (01). -/
def SYS_FENCE_STAT (n : Nat) : Nat := 0x6000000104 + 0x8 * n
/-- R36 (01). -/
def SYS_XCOMMIT_CTL : Nat := 0x6000000200
/-- R36 (01). -/
def SYS_XCOMMIT_BLK : Nat := 0x6000000204
/-- R36 (01). -/
def SYS_XCOMMIT_GO : Nat := 0x6000000208
/-- R36 (01). -/
def SYS_XCOMMIT_STAT : Nat := 0x600000020C
/-- R36 (01). -/
def SYS_ACC_ERR_ADDR_LO : Nat := 0x6000000300
/-- R36 (01). -/
def SYS_ACC_ERR_ADDR_HI : Nat := 0x6000000304
/-- R36 (01). -/
def SYS_ACC_ERR_INFO : Nat := 0x6000000308
/-- R72 (02). -/
def TIME_BM_CFG (k : Nat) : Nat := 0x6000100200 + 0x10 * k
/-- R72 (02). -/
def TIME_BM_TX (k : Nat) : Nat := 0x6000100204 + 0x10 * k
/-- R72 (02). -/
def TIME_BM_PDREQ (k : Nat) : Nat := 0x6000100208 + 0x10 * k
/-- R72 (02). -/
def TIME_BM_ID_LO : Nat := 0x6000100220
/-- R72 (02). -/
def TIME_BM_ID_HI : Nat := 0x6000100224
/-- R72 (02). -/
def TIME_BM_GM_LO : Nat := 0x6000100228
/-- R72 (02). -/
def TIME_BM_GM_HI : Nat := 0x600010022C
/-- R72 (02). -/
def TIME_BM_QUAL : Nat := 0x6000100230
/-- R72 (02). -/
def TIME_BM_PRIO : Nat := 0x6000100234
/-- R72 (02). -/
def TIME_BM_UTC : Nat := 0x6000100238
/-- R77 (02). -/
def TIME_IDENT : Nat := 0x6000100000
/-- R77 (02). -/
def TIME_CTL : Nat := 0x6000100010
/-- R77 (02). -/
def TIME_STAT : Nat := 0x6000100014
/-- R77 (02). -/
def TIME_EVT : Nat := 0x6000100018
/-- R77 (02). -/
def TIME_CMD : Nat := 0x600010001C
/-- R77 (02). -/
def TIME_INCR_LO : Nat := 0x6000100020
/-- R77 (02). -/
def TIME_INCR_HI : Nat := 0x6000100024
/-- R77 (02). -/
def TIME_NOW_NS : Nat := 0x6000100030
/-- R77 (02). -/
def TIME_NOW_SEC_LO : Nat := 0x6000100034
/-- R77 (02). -/
def TIME_NOW_SEC_HI : Nat := 0x6000100038
/-- R77 (02). -/
def TIME_NOW_FRAC : Nat := 0x600010003C
/-- R77 (02). -/
def TIME_MONO_LO : Nat := 0x6000100040
/-- R77 (02). -/
def TIME_MONO_HI : Nat := 0x6000100044
/-- R77 (02). -/
def TIME_SET_NS : Nat := 0x6000100050
/-- R77 (02). -/
def TIME_SET_SEC_LO : Nat := 0x6000100054
/-- R77 (02). -/
def TIME_SET_SEC_HI : Nat := 0x6000100058
/-- R77 (02). -/
def TIME_STEP_NS : Nat := 0x6000100060
/-- R77 (02). -/
def TIME_STEP_SEC : Nat := 0x6000100064
/-- R77 (02). -/
def TIME_RTC_OFS : Nat := 0x6000100070
/-- R77 (02). -/
def TIME_MASTER_ID_LO : Nat := 0x6000100080
/-- R77 (02). -/
def TIME_MASTER_ID_HI : Nat := 0x6000100084
/-- R77 (02). -/
def TIME_MASTER_CFG : Nat := 0x6000100088
/-- R77 (02). -/
def TIME_MASTER_TMO : Nat := 0x600010008C
/-- R77 (02). -/
def TIME_HOLD_AGE : Nat := 0x6000100090
/-- R77 (02). -/
def TIME_PPS_CFG : Nat := 0x60001000A0
/-- R77 (02). -/
def TIME_PPSIN_NS : Nat := 0x60001000A4
/-- R77 (02). -/
def TIME_PPSIN_SEC : Nat := 0x60001000A8
/-- R77 (02). -/
def TIME_SYNC_CNT : Nat := 0x60001000B0
/-- R77 (02). -/
def TIME_STEP_CNT : Nat := 0x60001000B4
/-- R77 (02). -/
def TIME_HOLD_CNT : Nat := 0x60001000B8
/-- R77 (02). -/
def TIME_TRIG_CFG (n : Nat) : Nat := 0x6000100400 + 0x20 * n
/-- R77 (02). -/
def TIME_TRIG_START_NS (n : Nat) : Nat := 0x6000100404 + 0x20 * n
/-- R77 (02). -/
def TIME_TRIG_START_SEC (n : Nat) : Nat := 0x6000100408 + 0x20 * n
/-- R77 (02). -/
def TIME_TRIG_PERIOD (n : Nat) : Nat := 0x600010040C + 0x20 * n
/-- R77 (02). -/
def TIME_TRIG_STAT (n : Nat) : Nat := 0x6000100410 + 0x20 * n
/-- R77 (02). -/
def TIME_TRIG_MISS (n : Nat) : Nat := 0x6000100414 + 0x20 * n
/-- R93 (02). -/
def WEFT_IDENT : Nat := 0x6000200000
/-- R93 (02). -/
def WEFT_LOG_BASE : Nat := 0x6000200010
/-- R93 (02). -/
def WEFT_EVT_SUM : Nat := 0x6000200014
/-- R93 (02). -/
def WEFT_SLEW : Nat := 0x6000200018
/-- R93 (02). -/
def WEFT_REF_CFG (r : Nat) : Nat := 0x6000201000 + 0x40 * r
/-- R93 (02). -/
def WEFT_REF_SRC (r : Nat) : Nat := 0x6000201004 + 0x40 * r
/-- R93 (02). -/
def WEFT_REF_TIMES (r : Nat) : Nat := 0x6000201008 + 0x40 * r
/-- R93 (02). -/
def WEFT_REF_RESTORE (r : Nat) : Nat := 0x600020100C + 0x40 * r
/-- R93 (02). -/
def WEFT_REF_MAG (r : Nat) : Nat := 0x6000201010 + 0x40 * r
/-- R93 (02). -/
def WEFT_REF_MAG_BK (r : Nat) : Nat := 0x6000201014 + 0x40 * r
/-- R93 (02). -/
def WEFT_REF_STAT (r : Nat) : Nat := 0x6000201018 + 0x40 * r
/-- R93 (02). -/
def WEFT_REF_EVT (r : Nat) : Nat := 0x600020101C + 0x40 * r
/-- R93 (02). -/
def WEFT_REF_ANGLE_LO (r : Nat) : Nat := 0x6000201020 + 0x40 * r
/-- R93 (02). -/
def WEFT_REF_ANGLE_HI (r : Nat) : Nat := 0x6000201024 + 0x40 * r
/-- R93 (02). -/
def WEFT_REF_NEXT_NS (r : Nat) : Nat := 0x6000201028 + 0x40 * r
/-- R93 (02). -/
def WEFT_REF_NEXT_SEC (r : Nat) : Nat := 0x600020102C + 0x40 * r
/-- R93 (02). -/
def WEFT_REF_FREQ (r : Nat) : Nat := 0x6000201030 + 0x40 * r
/-- R93 (02). -/
def WEFT_REF_ROCOF (r : Nat) : Nat := 0x6000201034 + 0x40 * r
/-- R93 (02). -/
def WEFT_REF_OFS (r : Nat) : Nat := 0x6000201038 + 0x40 * r
/-- R93 (02). -/
def WEFT_REF_CNT (r : Nat) : Nat := 0x600020103C + 0x40 * r
/-- R102 (02). -/
def CEN_IDENT : Nat := 0x6001700000
/-- R102 (02). -/
def CEN_CTL : Nat := 0x6001700010
/-- R102 (02). -/
def CEN_BUF_LO : Nat := 0x6001700014
/-- R102 (02). -/
def CEN_BUF_HI : Nat := 0x6001700018
/-- R102 (02). -/
def CEN_SCHED : Nat := 0x6001700020
/-- R102 (02). -/
def CEN_AT_NS : Nat := 0x6001700024
/-- R102 (02). -/
def CEN_AT_SEC : Nat := 0x6001700028
/-- R102 (02). -/
def CEN_GO : Nat := 0x600170002C
/-- R102 (02). -/
def CEN_STAT : Nat := 0x6001700030
/-- R102 (02). -/
def CEN_ERR : Nat := 0x6001700034
/-- R102 (02). -/
def CEN_LAT_NS : Nat := 0x6001700038
/-- R102 (02). -/
def CEN_LAT_SEC : Nat := 0x600170003C
/-- R102 (02). -/
def CEN_LATE : Nat := 0x6001700040
/-- R102 (02). -/
def CEN_COUNT : Nat := 0x6001700044
/-- R102 (02). -/
def CEN_REFUSED : Nat := 0x6001700048
/-- R140 (03). -/
def SIE_IDENT : Nat := 0x6000300000
/-- R140 (03). -/
def SIE_CTL : Nat := 0x6000300010
/-- R140 (03). -/
def SIE_RING_BASE : Nat := 0x6000300014
/-- R140 (03). -/
def SIE_TRING_BASE : Nat := 0x6000300018
/-- R140 (03). -/
def SIE_GRID_BASE : Nat := 0x600030001C
/-- R140 (03). -/
def SIE_MARK_BASE : Nat := 0x6000300020
/-- R140 (03). -/
def SIE_STAT : Nat := 0x6000300024
/-- R140 (03). -/
def SIE_DUAL_STAT : Nat := 0x6000300028
/-- R140 (03). -/
def SIE_EVT_SUM (k : Nat) : Nat := 0x6000300030 + 0x4 * k
/-- R140 (03). -/
def SIE_RX_FRAMES : Nat := 0x6000300040
/-- R140 (03). -/
def SIE_NO_CHAN : Nat := 0x6000300044
/-- R140 (03). -/
def SIE_DUAL_ERR : Nat := 0x6000300048
/-- R140 (03). -/
def SIE_CLOSE (r : Nat) : Nat := 0x6000300100 + 0x4 * r
/-- R140 (03). -/
def SIE_CH_CFG (n : Nat) : Nat := 0x6000310000 + 0x80 * n
/-- R140 (03). -/
def SIE_CH_SRC_LO (n : Nat) : Nat := 0x6000310004 + 0x80 * n
/-- R140 (03). -/
def SIE_CH_SRC_HI (n : Nat) : Nat := 0x6000310008 + 0x80 * n
/-- R140 (03). -/
def SIE_CH_SVID (n : Nat) : Nat := 0x600031000C + 0x80 * n
/-- R140 (03). -/
def SIE_CH_CONFREV (n : Nat) : Nat := 0x6000310010 + 0x80 * n
/-- R140 (03). -/
def SIE_CH_KEYS (n : Nat) : Nat := 0x6000310014 + 0x80 * n
/-- R140 (03). -/
def SIE_CH_TIMING (n : Nat) : Nat := 0x6000310018 + 0x80 * n
/-- R140 (03). -/
def SIE_CH_AGE_WIN (n : Nat) : Nat := 0x600031001C + 0x80 * n
/-- R140 (03). -/
def SIE_CH_DELAY (n : Nat) : Nat := 0x6000310020 + 0x80 * n
/-- R140 (03). -/
def SIE_CH_STAT (n : Nat) : Nat := 0x6000310024 + 0x80 * n
/-- R140 (03). -/
def SIE_CH_EVT (n : Nat) : Nat := 0x6000310028 + 0x80 * n
/-- R140 (03). -/
def SIE_CH_AGE_MEAN (n : Nat) : Nat := 0x600031002C + 0x80 * n
/-- R140 (03). -/
def SIE_CH_AGE_MAX (n : Nat) : Nat := 0x6000310030 + 0x80 * n
/-- R140 (03). -/
def SIE_CH_INDEX (n : Nat) : Nat := 0x6000310034 + 0x80 * n
/-- R140 (03). -/
def SIE_CH_LAST_SMP (n : Nat) : Nat := 0x6000310038 + 0x80 * n
/-- R140 (03). -/
def SIE_CH_FRAMES (n : Nat) : Nat := 0x6000310040 + 0x80 * n
/-- R140 (03). -/
def SIE_CH_DUP (n : Nat) : Nat := 0x6000310044 + 0x80 * n
/-- R140 (03). -/
def SIE_CH_STALE (n : Nat) : Nat := 0x6000310048 + 0x80 * n
/-- R140 (03). -/
def SIE_CH_BADFRM (n : Nat) : Nat := 0x600031004C + 0x80 * n
/-- R140 (03). -/
def SIE_CH_STRUCT (n : Nat) : Nat := 0x6000310050 + 0x80 * n
/-- R140 (03). -/
def SIE_CH_SIM (n : Nat) : Nat := 0x6000310054 + 0x80 * n
/-- R140 (03). -/
def SIE_CH_AUTH (n : Nat) : Nat := 0x6000310058 + 0x80 * n
/-- R140 (03). -/
def SIE_CH_SUBST (n : Nat) : Nat := 0x600031005C + 0x80 * n
/-- R140 (03). -/
def SIE_CH_LATE (n : Nat) : Nat := 0x6000310060 + 0x80 * n
/-- R140 (03). -/
def SIE_CH_RESYNC (n : Nat) : Nat := 0x6000310064 + 0x80 * n
/-- R140 (03). -/
def SIE_QTY_CFG (n : Nat) (q : Nat) : Nat := 0x6000340000 + 0x100 * n + 0x8 * q
/-- R140 (03). -/
def SIE_QTY_FRZ (n : Nat) (q : Nat) : Nat := 0x6000340004 + 0x100 * n + 0x8 * q
/-- R172 (04). -/
def FDC_IDENT : Nat := 0x6000400000
/-- R172 (04). -/
def FDC_CTL : Nat := 0x6000400010
/-- R172 (04). -/
def FDC_HIST_BASE : Nat := 0x6000400014
/-- R172 (04). -/
def FDC_OUT_BASE : Nat := 0x6000400018
/-- R172 (04). -/
def FDC_MARK_BASE : Nat := 0x600040001C
/-- R172 (04). -/
def FDC_STAT : Nat := 0x6000400020
/-- R172 (04). -/
def FDC_CHK_STAT : Nat := 0x6000400024
/-- R172 (04). -/
def FDC_EVT_SUM (k : Nat) : Nat := 0x6000400030 + 0x4 * k
/-- R172 (04). -/
def FDC_CHK_ERR : Nat := 0x6000400080
/-- R172 (04). -/
def FDC_LATE : Nat := 0x6000400084
/-- R172 (04). -/
def FDC_CH_CFG (c : Nat) : Nat := 0x6000410000 + 0x80 * c
/-- R172 (04). -/
def FDC_CH_PHASE (c : Nat) : Nat := 0x6000410004 + 0x80 * c
/-- R172 (04). -/
def FDC_CH_HIST (c : Nat) : Nat := 0x6000410008 + 0x80 * c
/-- R172 (04). -/
def FDC_CH_STAT (c : Nat) : Nat := 0x600041000C + 0x80 * c
/-- R172 (04). -/
def FDC_CH_EVT (c : Nat) : Nat := 0x6000410010 + 0x80 * c
/-- R172 (04). -/
def FDC_CH_OUTS (c : Nat) : Nat := 0x6000410014 + 0x80 * c
/-- R172 (04). -/
def FDC_ST_LEN (c : Nat) (k : Nat) : Nat := 0x6000410040 + 0x80 * c + 0x8 * k
/-- R172 (04). -/
def FDC_ST_DEC (c : Nat) (k : Nat) : Nat := 0x6000410044 + 0x80 * c + 0x8 * k
/-- R173 (04). -/
def PSU_IDENT : Nat := 0x6000500000
/-- R173 (04). -/
def PSU_CTL : Nat := 0x6000500010
/-- R173 (04). -/
def PSU_OUT_BASE : Nat := 0x6000500014
/-- R173 (04). -/
def PSU_MARK_BASE : Nat := 0x6000500018
/-- R173 (04). -/
def PSU_STAT : Nat := 0x6000500020
/-- R173 (04). -/
def PSU_DUAL_STAT : Nat := 0x6000500024
/-- R173 (04). -/
def PSU_EVT_SUM (k : Nat) : Nat := 0x6000500030 + 0x4 * k
/-- R173 (04). -/
def PSU_DUAL_ERR : Nat := 0x6000500080
/-- R173 (04). -/
def PSU_LATE : Nat := 0x6000500084
/-- R173 (04). -/
def PSU_IN_CFG (i : Nat) : Nat := 0x6000510000 + 0x40 * i
/-- R173 (04). -/
def PSU_SCALE0 (i : Nat) : Nat := 0x6000510004 + 0x40 * i
/-- R173 (04). -/
def PSU_SCALE1 (i : Nat) : Nat := 0x6000510008 + 0x40 * i
/-- R173 (04). -/
def PSU_K0_RE (i : Nat) : Nat := 0x600051000C + 0x40 * i
/-- R173 (04). -/
def PSU_K0_IM (i : Nat) : Nat := 0x6000510010 + 0x40 * i
/-- R173 (04). -/
def PSU_ZMIN (i : Nat) : Nat := 0x6000510014 + 0x40 * i
/-- R173 (04). -/
def PSU_STAT_I (i : Nat) : Nat := 0x6000510018 + 0x40 * i
/-- R173 (04). -/
def PSU_EVT (i : Nat) : Nat := 0x600051001C + 0x40 * i
/-- R174 (04). -/
def DZE_IDENT : Nat := 0x6000600000
/-- R174 (04). -/
def DZE_CTL : Nat := 0x6000600010
/-- R174 (04). -/
def DZE_OUT_BASE : Nat := 0x6000600014
/-- R174 (04). -/
def DZE_MARK_BASE : Nat := 0x6000600018
/-- R174 (04). -/
def DZE_STAT : Nat := 0x6000600020
/-- R174 (04). -/
def DZE_DUAL_STAT : Nat := 0x6000600024
/-- R174 (04). -/
def DZE_EVT_SUM : Nat := 0x6000600028
/-- R174 (04). -/
def DZE_DUAL_ERR : Nat := 0x6000600080
/-- R174 (04). -/
def DZE_LATE : Nat := 0x6000600084
/-- R174 (04). -/
def DZE_Z_CFG (z : Nat) : Nat := 0x6000610000 + 0x100 * z
/-- R174 (04). -/
def DZE_Z_SPAN (z : Nat) : Nat := 0x6000610004 + 0x100 * z
/-- R174 (04). -/
def DZE_Z_SCALE (z : Nat) : Nat := 0x6000610008 + 0x100 * z
/-- R174 (04). -/
def DZE_Z_IMIN (z : Nat) : Nat := 0x600061000C + 0x100 * z
/-- R174 (04). -/
def DZE_Z_SLOPE (z : Nat) : Nat := 0x6000610010 + 0x100 * z
/-- R174 (04). -/
def DZE_Z_IMIN_LOC (z : Nat) : Nat := 0x6000610014 + 0x100 * z
/-- R174 (04). -/
def DZE_Z_SLOPE_LOC (z : Nat) : Nat := 0x6000610018 + 0x100 * z
/-- R174 (04). -/
def DZE_Z_SAT (z : Nat) : Nat := 0x600061001C + 0x100 * z
/-- R174 (04). -/
def DZE_Z_SATMIN (z : Nat) : Nat := 0x6000610020 + 0x100 * z
/-- R174 (04). -/
def DZE_Z_STAT (z : Nat) : Nat := 0x6000610024 + 0x100 * z
/-- R174 (04). -/
def DZE_Z_EVT (z : Nat) : Nat := 0x6000610028 + 0x100 * z
/-- R174 (04). -/
def DZE_Z_XMISS (z : Nat) : Nat := 0x600061002C + 0x100 * z
/-- R174 (04). -/
def DZE_IN_SRC (z : Nat) (m : Nat) : Nat := 0x6000640000 + 0x400 * z + 0x8 * m
/-- R174 (04). -/
def DZE_IN_RATIO (z : Nat) (m : Nat) : Nat := 0x6000640004 + 0x400 * z + 0x8 * m
/-- R205 (05). -/
def XEC_IDENT : Nat := 0x6000700000
/-- R205 (05). -/
def XEC_CTL : Nat := 0x6000700010
/-- R205 (05). -/
def XEC_STAT : Nat := 0x6000700014
/-- R205 (05). -/
def XEC_EVT : Nat := 0x6000700018
/-- R205 (05). -/
def XEC_SPARE : Nat := 0x600070001C
/-- R205 (05). -/
def XEC_OVL_CFG : Nat := 0x6000700020
/-- R205 (05). -/
def XEC_THERM_CFG : Nat := 0x6000700024
/-- R205 (05). -/
def XEC_TJ : Nat := 0x6000700028
/-- R205 (05). -/
def XEC_PBS_BASE_LO : Nat := 0x600070002C
/-- R205 (05). -/
def XEC_PBS_BASE_HI : Nat := 0x6000700030
/-- R205 (05). -/
def XEC_SF_CNT : Nat := 0x6000700080
/-- R205 (05). -/
def XEC_LADDER_CNT : Nat := 0x6000700084
/-- R205 (05). -/
def XEC_THERM_CNT : Nat := 0x6000700088
/-- R205 (05). -/
def XEC_PAIR_STAT (p : Nat) : Nat := 0x6000701000 + 0x40 * p
/-- R205 (05). -/
def XEC_PAIR_CMD (p : Nat) : Nat := 0x6000701004 + 0x40 * p
/-- R205 (05). -/
def XEC_PAIR_EVT (p : Nat) : Nat := 0x6000701008 + 0x40 * p
/-- R205 (05). -/
def XEC_PAIR_UTIL (p : Nat) : Nat := 0x600070100C + 0x40 * p
/-- R205 (05). -/
def XEC_PAIR_MISMATCH (p : Nat) : Nat := 0x6000701010 + 0x40 * p
/-- R205 (05). -/
def XEC_PAIR_MISS (p : Nat) : Nat := 0x6000701014 + 0x40 * p
/-- R205 (05). -/
def XEC_SL_CFG (n : Nat) : Nat := 0x6000710000 + 0x40 * n
/-- R205 (05). -/
def XEC_SL_ENTRY_LO (n : Nat) : Nat := 0x6000710004 + 0x40 * n
/-- R205 (05). -/
def XEC_SL_ENTRY_HI (n : Nat) : Nat := 0x6000710008 + 0x40 * n
/-- R205 (05). -/
def XEC_SL_BUDGET (n : Nat) : Nat := 0x600071000C + 0x40 * n
/-- R205 (05). -/
def XEC_SL_STAT (n : Nat) : Nat := 0x6000710010 + 0x40 * n
/-- R205 (05). -/
def XEC_SL_EVT (n : Nat) : Nat := 0x6000710014 + 0x40 * n
/-- R205 (05). -/
def XEC_SL_EXEC_LAST (n : Nat) : Nat := 0x6000710018 + 0x40 * n
/-- R205 (05). -/
def XEC_SL_EXEC_MAX (n : Nat) : Nat := 0x600071001C + 0x40 * n
/-- R205 (05). -/
def XEC_SL_SEQ (n : Nat) : Nat := 0x6000710020 + 0x40 * n
/-- R205 (05). -/
def XEC_SL_PASSES (n : Nat) : Nat := 0x6000710024 + 0x40 * n
/-- R205 (05). -/
def XEC_SL_MISSES (n : Nat) : Nat := 0x6000710028 + 0x40 * n
/-- R205 (05). -/
def XEC_SL_SHED (n : Nat) : Nat := 0x600071002C + 0x40 * n
/-- R236 (06). -/
def XEC_TEN_CFG (t : Nat) : Nat := 0x6000720000 + 0x100 * t
/-- R236 (06). -/
def XEC_TEN_SHARE (t : Nat) : Nat := 0x6000720004 + 0x100 * t
/-- R236 (06). -/
def XEC_TEN_STAT (t : Nat) : Nat := 0x6000720008 + 0x100 * t
/-- R236 (06). -/
def XEC_TEN_VIOL (t : Nat) : Nat := 0x600072000C + 0x100 * t
/-- R236 (06). -/
def XEC_TEN_QUOTA (t : Nat) (k : Nat) : Nat := 0x6000720040 + 0x100 * t + 0x4 * k
/-- R236 (06). -/
def XEC_TEN_USE (t : Nat) (k : Nat) : Nat := 0x6000720080 + 0x100 * t + 0x4 * k
/-- R236 (06). -/
def XEC_GNT_ST (w : Nat) : Nat := 0x6000721000 + 0x4 * w
/-- R236 (06). -/
def XEC_GNT_CMD : Nat := 0x6000721010
/-- R236 (06). -/
def XEC_GNT_STAT : Nat := 0x6000721014
/-- R236 (06). -/
def XEC_GNT_FREE : Nat := 0x6000721018
/-- R236 (06). -/
def XEC_VIOL_INFO : Nat := 0x6000722000
/-- R236 (06). -/
def XEC_VIOL_ADDR_LO : Nat := 0x6000722004
/-- R236 (06). -/
def XEC_VIOL_ADDR_HI : Nat := 0x6000722008
/-- R236 (06). -/
def XEC_VIOL_CNT : Nat := 0x600072200C
/-- R236 (06). -/
def XEC_XFER_BUF_LO : Nat := 0x6000723000
/-- R236 (06). -/
def XEC_XFER_BUF_HI : Nat := 0x6000723004
/-- R236 (06). -/
def XEC_XFER_STAT : Nat := 0x6000723008
/-- R236 (06). -/
def XEC_XFER_CNT : Nat := 0x600072300C
/-- R236 (06). -/
def XEC_SL_BIND (n : Nat) : Nat := 0x6000730000 + 0x20 * n
/-- R236 (06). -/
def XEC_SL_LIFE (n : Nat) : Nat := 0x6000730004 + 0x20 * n
/-- R236 (06). -/
def XEC_SL_CMD (n : Nat) : Nat := 0x6000730008 + 0x20 * n
/-- R236 (06). -/
def XEC_SL_RESUME_AT (n : Nat) : Nat := 0x600073000C + 0x20 * n
/-- R236 (06). -/
def XEC_SL_XSTAT (n : Nat) : Nat := 0x6000730010 + 0x20 * n
/-- R236 (06). -/
def XEC_SL_SKIP (n : Nat) : Nat := 0x6000730014 + 0x20 * n
/-- R236 (06). -/
def XEC_SL_XEVT (n : Nat) : Nat := 0x6000730018 + 0x20 * n
/-- R236 (06). -/
def XEC_GNT_ENT (g : Nat) : Nat := 0x6000740000 + 0x10 * g
/-- R265 (07). -/
def PTS_IDENT : Nat := 0x6000800000
/-- R265 (07). -/
def PTS_CTL : Nat := 0x6000800010
/-- R265 (07). -/
def PTS_BASE_LO : Nat := 0x6000800014
/-- R265 (07). -/
def PTS_BASE_HI : Nat := 0x6000800018
/-- R265 (07). -/
def PTS_SUB_BASE_LO : Nat := 0x600080001C
/-- R265 (07). -/
def PTS_SUB_BASE_HI : Nat := 0x6000800020
/-- R265 (07). -/
def PTS_STAT : Nat := 0x6000800024
/-- R265 (07). -/
def PTS_EVT_SUM (k : Nat) : Nat := 0x6000800030 + 0x4 * k
/-- R265 (07). -/
def PTS_WRITES : Nat := 0x6000800080
/-- R265 (07). -/
def PTS_CHANGES : Nat := 0x6000800084
/-- R265 (07). -/
def PTS_SUB_RX : Nat := 0x6000800088
/-- R265 (07). -/
def PTS_WP_VAL_LO : Nat := 0x6000801000
/-- R265 (07). -/
def PTS_WP_VAL_HI : Nat := 0x6000801004
/-- R265 (07). -/
def PTS_WP_QUAL : Nat := 0x6000801008
/-- R265 (07). -/
def PTS_WP_TS_NS : Nat := 0x600080100C
/-- R265 (07). -/
def PTS_WP_TS_SEC : Nat := 0x6000801010
/-- R265 (07). -/
def PTS_WP_CMD : Nat := 0x6000801014
/-- R265 (07). -/
def PTS_WP_STAT : Nat := 0x6000801018
/-- R265 (07). -/
def PTS_WATCH_CFG (w : Nat) : Nat := 0x6000810000 + 0x10 * w
/-- R265 (07). -/
def PTS_WATCH_PT (w : Nat) : Nat := 0x6000810004 + 0x10 * w
/-- R265 (07). -/
def PTS_WATCH_DB (w : Nat) : Nat := 0x6000810008 + 0x10 * w
/-- R265 (07). -/
def PTS_WATCH_CNT (w : Nat) : Nat := 0x600081000C + 0x10 * w
/-- R265 (07). -/
def PTS_SUB_CFG (s : Nat) : Nat := 0x6000820000 + 0x40 * s
/-- R265 (07). -/
def PTS_SUB_ID (s : Nat) : Nat := 0x6000820004 + 0x40 * s
/-- R265 (07). -/
def PTS_SUB_SRC_LO (s : Nat) : Nat := 0x6000820008 + 0x40 * s
/-- R265 (07). -/
def PTS_SUB_SRC_HI (s : Nat) : Nat := 0x600082000C + 0x40 * s
/-- R265 (07). -/
def PTS_SUB_GOCB (s : Nat) : Nat := 0x6000820010 + 0x40 * s
/-- R265 (07). -/
def PTS_SUB_DATSET (s : Nat) : Nat := 0x6000820014 + 0x40 * s
/-- R265 (07). -/
def PTS_SUB_CONFREV (s : Nat) : Nat := 0x6000820018 + 0x40 * s
/-- R265 (07). -/
def PTS_SUB_TYPES (s : Nat) : Nat := 0x600082001C + 0x40 * s
/-- R265 (07). -/
def PTS_SUB_KEYS (s : Nat) : Nat := 0x6000820020 + 0x40 * s
/-- R265 (07). -/
def PTS_SUB_STAT (s : Nat) : Nat := 0x6000820024 + 0x40 * s
/-- R265 (07). -/
def PTS_SUB_EVT (s : Nat) : Nat := 0x6000820028 + 0x40 * s
/-- R265 (07). -/
def PTS_SUB_ACC (s : Nat) : Nat := 0x600082002C + 0x40 * s
/-- R265 (07). -/
def PTS_SUB_DISC (s : Nat) : Nat := 0x6000820030 + 0x40 * s
/-- R265 (07). -/
def PTS_SUB_EXP (s : Nat) : Nat := 0x6000820034 + 0x40 * s
/-- R265 (07). -/
def PTS_SUB_STGAP (s : Nat) : Nat := 0x6000820038 + 0x40 * s
/-- R265 (07). -/
def PTS_SUB_SQNUM (s : Nat) : Nat := 0x600082003C + 0x40 * s
/-- R267 (07). -/
def PUB_IDENT : Nat := 0x6000900000
/-- R267 (07). -/
def PUB_CTL : Nat := 0x6000900010
/-- R267 (07). -/
def PUB_STAT : Nat := 0x6000900014
/-- R267 (07). -/
def PUB_EPOCH : Nat := 0x6000900018
/-- R267 (07). -/
def PUB_DUAL_STAT : Nat := 0x600090001C
/-- R267 (07). -/
def PUB_REQ : Nat := 0x6000900020
/-- R267 (07). -/
def PUB_REQ_STAT : Nat := 0x6000900024
/-- R267 (07). -/
def PUB_EVT_SUM (k : Nat) : Nat := 0x6000900030 + 0x4 * k
/-- R267 (07). -/
def PUB_TX : Nat := 0x6000900080
/-- R267 (07). -/
def PUB_NOMANDATE : Nat := 0x6000900084
/-- R267 (07). -/
def PUB_REPEAT : Nat := 0x6000900088
/-- R267 (07). -/
def PUB_REQ_FULL : Nat := 0x600090008C
/-- R267 (07). -/
def PUB_DUAL_ERR : Nat := 0x6000900090
/-- R267 (07). -/
def PUB_ENT_CFG (e : Nat) : Nat := 0x6000910000 + 0x40 * e
/-- R267 (07). -/
def PUB_ENT_TPL_LO (e : Nat) : Nat := 0x6000910004 + 0x40 * e
/-- R267 (07). -/
def PUB_ENT_TPL_HI (e : Nat) : Nat := 0x6000910008 + 0x40 * e
/-- R267 (07). -/
def PUB_ENT_CURVE (e : Nat) : Nat := 0x600091000C + 0x40 * e
/-- R267 (07). -/
def PUB_ENT_KEYS (e : Nat) : Nat := 0x6000910010 + 0x40 * e
/-- R267 (07). -/
def PUB_ENT_SV (e : Nat) : Nat := 0x6000910014 + 0x40 * e
/-- R267 (07). -/
def PUB_ENT_STAT (e : Nat) : Nat := 0x6000910018 + 0x40 * e
/-- R267 (07). -/
def PUB_ENT_EVT (e : Nat) : Nat := 0x600091001C + 0x40 * e
/-- R267 (07). -/
def PUB_ENT_STNUM (e : Nat) : Nat := 0x6000910020 + 0x40 * e
/-- R267 (07). -/
def PUB_ENT_SQNUM (e : Nat) : Nat := 0x6000910024 + 0x40 * e
/-- R267 (07). -/
def PUB_ENT_TX (e : Nat) : Nat := 0x6000910028 + 0x40 * e
/-- R267 (07). -/
def PUB_ENT_T_NS (e : Nat) : Nat := 0x600091002C + 0x40 * e
/-- R267 (07). -/
def PUB_ENT_T_SEC (e : Nat) : Nat := 0x6000910030 + 0x40 * e
/-- R314 (08). -/
def SWC_IDENT : Nat := 0x6000A00000
/-- R314 (08). -/
def SWC_CTL : Nat := 0x6000A00010
/-- R314 (08). -/
def SWC_STAT : Nat := 0x6000A00014
/-- R314 (08). -/
def SWC_EVT : Nat := 0x6000A00018
/-- R314 (08). -/
def SWC_KITTY : Nat := 0x6000A0001C
/-- R314 (08). -/
def SWC_TBL_GEN : Nat := 0x6000A00020
/-- R314 (08). -/
def SWC_TBL_ST (w : Nat) : Nat := 0x6000A00030 + 0x4 * w
/-- R314 (08). -/
def SWC_TBL_CMD : Nat := 0x6000A00050
/-- R314 (08). -/
def SWC_TBL_STAT : Nat := 0x6000A00054
/-- R314 (08). -/
def SWC_TBL_FGEN : Nat := 0x6000A00058
/-- R314 (08). -/
def SWC_TBL_RD (w : Nat) : Nat := 0x6000A00060 + 0x4 * w
/-- R314 (08). -/
def SWC_TBL_LOOKUPS : Nat := 0x6000A00080
/-- R314 (08). -/
def SWC_MIR_DROP : Nat := 0x6000A00084
/-- R314 (08). -/
def SWC_CT_FRAMES : Nat := 0x6000A00088
/-- R314 (08). -/
def SWC_TC_CFG : Nat := 0x6000A00090
/-- R314 (08). -/
def SWC_TC_CORR : Nat := 0x6000A00094
/-- R314 (08). -/
def SWC_TC_NOMATCH : Nat := 0x6000A00098
/-- R314 (08). -/
def SWC_PORT_CFG (p : Nat) : Nat := 0x6000A10000 + 0x40 * p
/-- R314 (08). -/
def SWC_PORT_MISS (p : Nat) : Nat := 0x6000A10004 + 0x40 * p
/-- R314 (08). -/
def SWC_PORT_MIRROR (p : Nat) : Nat := 0x6000A10008 + 0x40 * p
/-- R314 (08). -/
def SWC_PORT_STAT (p : Nat) : Nat := 0x6000A1000C + 0x40 * p
/-- R314 (08). -/
def SWC_PORT_MISS_CNT (p : Nat) : Nat := 0x6000A10010 + 0x40 * p
/-- R314 (08). -/
def SWC_PORT_PERMIT_CNT (p : Nat) : Nat := 0x6000A10014 + 0x40 * p
/-- R314 (08). -/
def SWC_PORT_BAD_CNT (p : Nat) : Nat := 0x6000A10018 + 0x40 * p
/-- R314 (08). -/
def SWC_PORT_DOWN_CNT (p : Nat) : Nat := 0x6000A1001C + 0x40 * p
/-- R314 (08). -/
def SWC_Q_CFG (p : Nat) (q : Nat) : Nat := 0x6000A20000 + 0x100 * p + 0x20 * q
/-- R314 (08). -/
def SWC_Q_STAT (p : Nat) (q : Nat) : Nat := 0x6000A20004 + 0x100 * p + 0x20 * q
/-- R314 (08). -/
def SWC_Q_TX (p : Nat) (q : Nat) : Nat := 0x6000A20008 + 0x100 * p + 0x20 * q
/-- R314 (08). -/
def SWC_Q_ADMIT_DROP (p : Nat) (q : Nat) : Nat := 0x6000A2000C + 0x100 * p + 0x20 * q
/-- R314 (08). -/
def SWC_Q_AGE_DROP (p : Nat) (q : Nat) : Nat := 0x6000A20010 + 0x100 * p + 0x20 * q
/-- R314 (08). -/
def SWC_Q_FLUSH (p : Nat) (q : Nat) : Nat := 0x6000A20014 + 0x100 * p + 0x20 * q
/-- R314 (08). -/
def SWC_RED_CFG (k : Nat) : Nat := 0x6000A30000 + 0x40 * k
/-- R314 (08). -/
def SWC_RED_TIMES (k : Nat) : Nat := 0x6000A30004 + 0x40 * k
/-- R314 (08). -/
def SWC_RED_STAT (k : Nat) : Nat := 0x6000A30008 + 0x40 * k
/-- R314 (08). -/
def SWC_RED_EVT (k : Nat) : Nat := 0x6000A3000C + 0x40 * k
/-- R314 (08). -/
def SWC_RED_WRONGLAN (k : Nat) : Nat := 0x6000A30010 + 0x40 * k
/-- R314 (08). -/
def SWC_RED_DUPDROP (k : Nat) : Nat := 0x6000A30014 + 0x40 * k
/-- R314 (08). -/
def SWC_RED_OWNRM (k : Nat) : Nat := 0x6000A30018 + 0x40 * k
/-- R314 (08). -/
def SWC_RED_NODEFULL (k : Nat) : Nat := 0x6000A3001C + 0x40 * k
/-- R314 (08). -/
def SWC_HC_CFG (c : Nat) : Nat := 0x6000A40000 + 0x20 * c
/-- R314 (08). -/
def SWC_HC_BASE_LO (c : Nat) : Nat := 0x6000A40004 + 0x20 * c
/-- R314 (08). -/
def SWC_HC_BASE_HI (c : Nat) : Nat := 0x6000A40008 + 0x20 * c
/-- R314 (08). -/
def SWC_HC_WR (c : Nat) : Nat := 0x6000A4000C + 0x20 * c
/-- R314 (08). -/
def SWC_HC_RD (c : Nat) : Nat := 0x6000A40010 + 0x20 * c
/-- R314 (08). -/
def SWC_HC_LOST (c : Nat) : Nat := 0x6000A40014 + 0x20 * c
/-- R314 (08). -/
def SWC_HC_CAPT (c : Nat) : Nat := 0x6000A40018 + 0x20 * c
/-- R314 (08). -/
def SWC_RXR_CFG (r : Nat) : Nat := 0x6000A50000 + 0x20 * r
/-- R314 (08). -/
def SWC_RXR_BASE_LO (r : Nat) : Nat := 0x6000A50004 + 0x20 * r
/-- R314 (08). -/
def SWC_RXR_BASE_HI (r : Nat) : Nat := 0x6000A50008 + 0x20 * r
/-- R314 (08). -/
def SWC_RXR_HEAD (r : Nat) : Nat := 0x6000A5000C + 0x20 * r
/-- R314 (08). -/
def SWC_RXR_FRAMES (r : Nat) : Nat := 0x6000A50010 + 0x20 * r
/-- R314 (08). -/
def SWC_RXR_NODESC (r : Nat) : Nat := 0x6000A50014 + 0x20 * r
/-- R314 (08). -/
def SWC_TXR_CFG (r : Nat) : Nat := 0x6000A51000 + 0x20 * r
/-- R314 (08). -/
def SWC_TXR_BASE_LO (r : Nat) : Nat := 0x6000A51004 + 0x20 * r
/-- R314 (08). -/
def SWC_TXR_BASE_HI (r : Nat) : Nat := 0x6000A51008 + 0x20 * r
/-- R314 (08). -/
def SWC_TXR_HEAD (r : Nat) : Nat := 0x6000A5100C + 0x20 * r
/-- R314 (08). -/
def SWC_TXR_KICK (r : Nat) : Nat := 0x6000A51010 + 0x20 * r
/-- R314 (08). -/
def SWC_TXR_FRAMES (r : Nat) : Nat := 0x6000A51014 + 0x20 * r
/-- R315 (08). -/
def MAC_IDENT (w : Nat) : Nat := 0x6000B00000 + 0x10000 * w
/-- R315 (08). -/
def MAC_CFG (w : Nat) : Nat := 0x6000B00010 + 0x10000 * w
/-- R315 (08). -/
def MAC_STAT (w : Nat) : Nat := 0x6000B00014 + 0x10000 * w
/-- R315 (08). -/
def MAC_EVT (w : Nat) : Nat := 0x6000B00018 + 0x10000 * w
/-- R315 (08). -/
def MAC_ADDR_LO (w : Nat) : Nat := 0x6000B0001C + 0x10000 * w
/-- R315 (08). -/
def MAC_ADDR_HI (w : Nat) : Nat := 0x6000B00020 + 0x10000 * w
/-- R315 (08). -/
def MAC_LAT (w : Nat) : Nat := 0x6000B00024 + 0x10000 * w
/-- R315 (08). -/
def MAC_EEE (w : Nat) : Nat := 0x6000B00028 + 0x10000 * w
/-- R315 (08). -/
def MAC_RX_FRAMES (w : Nat) : Nat := 0x6000B00040 + 0x10000 * w
/-- R315 (08). -/
def MAC_RX_OCT_LO (w : Nat) : Nat := 0x6000B00044 + 0x10000 * w
/-- R315 (08). -/
def MAC_RX_OCT_HI (w : Nat) : Nat := 0x6000B00048 + 0x10000 * w
/-- R315 (08). -/
def MAC_RX_FCS (w : Nat) : Nat := 0x6000B0004C + 0x10000 * w
/-- R315 (08). -/
def MAC_RX_LEN (w : Nat) : Nat := 0x6000B00050 + 0x10000 * w
/-- R315 (08). -/
def MAC_RX_SYM (w : Nat) : Nat := 0x6000B00054 + 0x10000 * w
/-- R315 (08). -/
def MAC_RX_PAUSE (w : Nat) : Nat := 0x6000B00058 + 0x10000 * w
/-- R315 (08). -/
def MAC_TX_FRAMES (w : Nat) : Nat := 0x6000B0005C + 0x10000 * w
/-- R315 (08). -/
def MAC_TX_OCT_LO (w : Nat) : Nat := 0x6000B00060 + 0x10000 * w
/-- R315 (08). -/
def MAC_TX_OCT_HI (w : Nat) : Nat := 0x6000B00064 + 0x10000 * w
/-- R315 (08). -/
def MAC_TX_ABORT (w : Nat) : Nat := 0x6000B00068 + 0x10000 * w
/-- R315 (08). -/
def MAC_TX_BADFCS (w : Nat) : Nat := 0x6000B0006C + 0x10000 * w
/-- R315 (08). -/
def MAC_LINK_DOWN (w : Nat) : Nat := 0x6000B00070 + 0x10000 * w
/-- R315 (08). -/
def MAC_LPI_ENTRY (w : Nat) : Nat := 0x6000B00074 + 0x10000 * w
/-- R349 (09). -/
def RED_IDENT : Nat := 0x6000C00000
/-- R349 (09). -/
def RED_CTL : Nat := 0x6000C00010
/-- R349 (09). -/
def RED_STRAP : Nat := 0x6000C00014
/-- R349 (09). -/
def RED_STAT : Nat := 0x6000C00018
/-- R349 (09). -/
def RED_EVT : Nat := 0x6000C0001C
/-- R349 (09). -/
def RED_EPOCH : Nat := 0x6000C00020
/-- R349 (09). -/
def RED_PLAT_ID : Nat := 0x6000C00024
/-- R349 (09). -/
def RED_REVERT : Nat := 0x6000C00028
/-- R349 (09). -/
def RED_HEALTH : Nat := 0x6000C0002C
/-- R349 (09). -/
def RED_CMD : Nat := 0x6000C00030
/-- R349 (09). -/
def RED_HO_CFG : Nat := 0x6000C00034
/-- R349 (09). -/
def RED_HO_STAT : Nat := 0x6000C00038
/-- R349 (09). -/
def RED_HO_OFS : Nat := 0x6000C0003C
/-- R349 (09). -/
def RED_CK_CFG : Nat := 0x6000C00040
/-- R349 (09). -/
def RED_CK_LIST_LO : Nat := 0x6000C00044
/-- R349 (09). -/
def RED_CK_LIST_HI : Nat := 0x6000C00048
/-- R349 (09). -/
def RED_CK_STAGE_LO : Nat := 0x6000C0004C
/-- R349 (09). -/
def RED_CK_STAGE_HI : Nat := 0x6000C00050
/-- R349 (09). -/
def RED_CK_SET : Nat := 0x6000C00054
/-- R349 (09). -/
def RED_CK_AGE : Nat := 0x6000C00058
/-- R349 (09). -/
def RED_ST_SKIP : Nat := 0x6000C0005C
/-- R349 (09). -/
def RED_ARB_VIEW : Nat := 0x6000C00060
/-- R349 (09). -/
def RED_MATE_LOSS : Nat := 0x6000C00080
/-- R349 (09). -/
def RED_ARB_LOSS : Nat := 0x6000C00084
/-- R349 (09). -/
def RED_MANDATE_CHG : Nat := 0x6000C00088
/-- R349 (09). -/
def RED_CK_SETS : Nat := 0x6000C0008C
/-- R349 (09). -/
def RED_CK_LATE : Nat := 0x6000C00090
/-- R349 (09). -/
def RED_CK_REFUSED : Nat := 0x6000C00094
/-- R349 (09). -/
def RED_LZ_BAD : Nat := 0x6000C00098
/-- R349 (09). -/
def RED_VERDICTS : Nat := 0x6000C0009C
/-- R350 (09). -/
def CAS_IDENT : Nat := 0x6000D00000
/-- R350 (09). -/
def CAS_CTL : Nat := 0x6000D00010
/-- R350 (09). -/
def CAS_STAT : Nat := 0x6000D00014
/-- R350 (09). -/
def CAS_EVT : Nat := 0x6000D00018
/-- R350 (09). -/
def CAS_DIST : Nat := 0x6000D0001C
/-- R350 (09). -/
def CAS_AGREE : Nat := 0x6000D00020
/-- R350 (09). -/
def CAS_CEN_BUF_LO : Nat := 0x6000D00024
/-- R350 (09). -/
def CAS_CEN_BUF_HI : Nat := 0x6000D00028
/-- R350 (09). -/
def CAS_CEN_GOT : Nat := 0x6000D0002C
/-- R350 (09). -/
def CAS_RX : Nat := 0x6000D00080
/-- R350 (09). -/
def CAS_TX : Nat := 0x6000D00084
/-- R350 (09). -/
def CAS_FWD : Nat := 0x6000D00088
/-- R350 (09). -/
def CAS_RELAY : Nat := 0x6000D0008C
/-- R350 (09). -/
def CAS_BAD : Nat := 0x6000D00090
/-- R350 (09). -/
def CAS_DEALER_LOSS : Nat := 0x6000D00094
/-- R350 (09). -/
def CAS_FOLLOW (r : Nat) : Nat := 0x6000D10000 + 0x40 * r
/-- R350 (09). -/
def CAS_REF_OFS (r : Nat) : Nat := 0x6000D10004 + 0x40 * r
/-- R350 (09). -/
def CAS_REF_STAT (r : Nat) : Nat := 0x6000D10008 + 0x40 * r
/-- R371 (10). -/
def TAE_IDENT : Nat := 0x6000E00000
/-- R371 (10). -/
def TAE_CTL : Nat := 0x6000E00010
/-- R371 (10). -/
def TAE_STAT : Nat := 0x6000E00014
/-- R371 (10). -/
def TAE_EVT_SUM : Nat := 0x6000E00018
/-- R371 (10). -/
def TAE_CHK_STAT : Nat := 0x6000E0001C
/-- R371 (10). -/
def TAE_CRC_ERR : Nat := 0x6000E00080
/-- R371 (10). -/
def TAE_LATE : Nat := 0x6000E00084
/-- R371 (10). -/
def TAE_REC_CFG (r : Nat) : Nat := 0x6000E10000 + 0x2000 * r
/-- R371 (10). -/
def TAE_REC_DEPTH (r : Nat) : Nat := 0x6000E10004 + 0x2000 * r
/-- R371 (10). -/
def TAE_REC_AREA_LO (r : Nat) : Nat := 0x6000E10008 + 0x2000 * r
/-- R371 (10). -/
def TAE_REC_AREA_HI (r : Nat) : Nat := 0x6000E1000C + 0x2000 * r
/-- R371 (10). -/
def TAE_REC_SLOTS (r : Nat) : Nat := 0x6000E10010 + 0x2000 * r
/-- R371 (10). -/
def TAE_REC_HOLD (r : Nat) : Nat := 0x6000E10014 + 0x2000 * r
/-- R371 (10). -/
def TAE_REC_SDA_LO (r : Nat) : Nat := 0x6000E10018 + 0x2000 * r
/-- R371 (10). -/
def TAE_REC_SDA_HI (r : Nat) : Nat := 0x6000E1001C + 0x2000 * r
/-- R371 (10). -/
def TAE_REC_MEAS (r : Nat) : Nat := 0x6000E10020 + 0x2000 * r
/-- R371 (10). -/
def TAE_REC_CMD (r : Nat) : Nat := 0x6000E10024 + 0x2000 * r
/-- R371 (10). -/
def TAE_REC_STAT (r : Nat) : Nat := 0x6000E10028 + 0x2000 * r
/-- R371 (10). -/
def TAE_REC_EVT (r : Nat) : Nat := 0x6000E1002C + 0x2000 * r
/-- R371 (10). -/
def TAE_REC_LAST (r : Nat) : Nat := 0x6000E10030 + 0x2000 * r
/-- R371 (10). -/
def TAE_REC_RECS (r : Nat) : Nat := 0x6000E10040 + 0x2000 * r
/-- R371 (10). -/
def TAE_REC_TRIGS (r : Nat) : Nat := 0x6000E10044 + 0x2000 * r
/-- R371 (10). -/
def TAE_REC_LOST (r : Nat) : Nat := 0x6000E10048 + 0x2000 * r
/-- R371 (10). -/
def TAE_REC_HOLDOFF (r : Nat) : Nat := 0x6000E1004C + 0x2000 * r
/-- R371 (10). -/
def TAE_REC_SFRAMES (r : Nat) : Nat := 0x6000E10050 + 0x2000 * r
/-- R371 (10). -/
def TAE_TRG_CFG (r : Nat) (u : Nat) : Nat := 0x6000E10100 + 0x2000 * r + 0x10 * u
/-- R371 (10). -/
def TAE_TRG_THR (r : Nat) (u : Nat) : Nat := 0x6000E10104 + 0x2000 * r + 0x10 * u
/-- R371 (10). -/
def TAE_TRG_PERS (r : Nat) (u : Nat) : Nat := 0x6000E10108 + 0x2000 * r + 0x10 * u
/-- R371 (10). -/
def TAE_ACH_SRC (r : Nat) (a : Nat) : Nat := 0x6000E10200 + 0x2000 * r + 0x8 * a
/-- R371 (10). -/
def TAE_ACH_SCALE (r : Nat) (a : Nat) : Nat := 0x6000E10204 + 0x2000 * r + 0x8 * a
/-- R371 (10). -/
def TAE_BCH_SRC (r : Nat) (b : Nat) : Nat := 0x6000E11000 + 0x2000 * r + 0x4 * b
/-- R390 (11). -/
def RGE_IDENT : Nat := 0x6000F00000
/-- R390 (11). -/
def RGE_CTL : Nat := 0x6000F00010
/-- R390 (11). -/
def RGE_STAT : Nat := 0x6000F00014
/-- R390 (11). -/
def RGE_EVT_SUM : Nat := 0x6000F00018
/-- R390 (11). -/
def RGE_CHK_STAT : Nat := 0x6000F0001C
/-- R390 (11). -/
def RGE_CRC_ERR : Nat := 0x6000F00080
/-- R390 (11). -/
def RGE_LATE : Nat := 0x6000F00084
/-- R390 (11). -/
def RGE_LP_CFG (l : Nat) : Nat := 0x6000F10000 + 0x100 * l
/-- R390 (11). -/
def RGE_LP_FB_SRC (l : Nat) : Nat := 0x6000F10004 + 0x100 * l
/-- R390 (11). -/
def RGE_LP_FF_SRC (l : Nat) : Nat := 0x6000F10008 + 0x100 * l
/-- R390 (11). -/
def RGE_LP_OUT (l : Nat) : Nat := 0x6000F1000C + 0x100 * l
/-- R390 (11). -/
def RGE_LP_KP (l : Nat) : Nat := 0x6000F10010 + 0x100 * l
/-- R390 (11). -/
def RGE_LP_KI (l : Nat) : Nat := 0x6000F10014 + 0x100 * l
/-- R390 (11). -/
def RGE_LP_KD (l : Nat) : Nat := 0x6000F10018 + 0x100 * l
/-- R390 (11). -/
def RGE_LP_KFF (l : Nat) : Nat := 0x6000F1001C + 0x100 * l
/-- R390 (11). -/
def RGE_LP_DALPHA (l : Nat) : Nat := 0x6000F10020 + 0x100 * l
/-- R390 (11). -/
def RGE_LP_UMIN (l : Nat) : Nat := 0x6000F10024 + 0x100 * l
/-- R390 (11). -/
def RGE_LP_UMAX (l : Nat) : Nat := 0x6000F10028 + 0x100 * l
/-- R390 (11). -/
def RGE_LP_VMAX (l : Nat) : Nat := 0x6000F1002C + 0x100 * l
/-- R390 (11). -/
def RGE_LP_AMAX (l : Nat) : Nat := 0x6000F10030 + 0x100 * l
/-- R390 (11). -/
def RGE_LP_JMAX (l : Nat) : Nat := 0x6000F10034 + 0x100 * l
/-- R390 (11). -/
def RGE_LP_UFB (l : Nat) : Nat := 0x6000F10038 + 0x100 * l
/-- R390 (11). -/
def RGE_LP_FBRATE (l : Nat) : Nat := 0x6000F1003C + 0x100 * l
/-- R390 (11). -/
def RGE_LP_TIMES (l : Nat) : Nat := 0x6000F10040 + 0x100 * l
/-- R390 (11). -/
def RGE_LP_PL_GAIN (l : Nat) : Nat := 0x6000F10044 + 0x100 * l
/-- R390 (11). -/
def RGE_LP_PL_TAU (l : Nat) : Nat := 0x6000F10048 + 0x100 * l
/-- R390 (11). -/
def RGE_LP_PL_BIAS (l : Nat) : Nat := 0x6000F1004C + 0x100 * l
/-- R390 (11). -/
def RGE_LP_PL_TOL (l : Nat) : Nat := 0x6000F10050 + 0x100 * l
/-- R390 (11). -/
def RGE_LP_PL_N (l : Nat) : Nat := 0x6000F10054 + 0x100 * l
/-- R390 (11). -/
def RGE_LP_PUBDB (l : Nat) : Nat := 0x6000F10058 + 0x100 * l
/-- R390 (11). -/
def RGE_LP_TARGET (l : Nat) : Nat := 0x6000F10060 + 0x100 * l
/-- R390 (11). -/
def RGE_LP_UMAN (l : Nat) : Nat := 0x6000F10064 + 0x100 * l
/-- R390 (11). -/
def RGE_LP_CMD (l : Nat) : Nat := 0x6000F10068 + 0x100 * l
/-- R390 (11). -/
def RGE_LP_STAT (l : Nat) : Nat := 0x6000F1006C + 0x100 * l
/-- R390 (11). -/
def RGE_LP_EVT (l : Nat) : Nat := 0x6000F10070 + 0x100 * l
/-- R390 (11). -/
def RGE_LP_SP (l : Nat) : Nat := 0x6000F10074 + 0x100 * l
/-- R390 (11). -/
def RGE_LP_RATE (l : Nat) : Nat := 0x6000F10078 + 0x100 * l
/-- R390 (11). -/
def RGE_LP_U (l : Nat) : Nat := 0x6000F1007C + 0x100 * l
/-- R390 (11). -/
def RGE_LP_Y (l : Nat) : Nat := 0x6000F10080 + 0x100 * l
/-- R390 (11). -/
def RGE_LP_INTEG (l : Nat) : Nat := 0x6000F10084 + 0x100 * l
/-- R390 (11). -/
def RGE_LP_RESID (l : Nat) : Nat := 0x6000F10088 + 0x100 * l
/-- R390 (11). -/
def RGE_LP_CYCLES (l : Nat) : Nat := 0x6000F1008C + 0x100 * l
/-- R390 (11). -/
def RGE_LP_SATCYC (l : Nat) : Nat := 0x6000F10090 + 0x100 * l
/-- R390 (11). -/
def RGE_LP_HOLDS (l : Nat) : Nat := 0x6000F10094 + 0x100 * l
/-- R390 (11). -/
def RGE_LP_NOPUB (l : Nat) : Nat := 0x6000F10098 + 0x100 * l
/-- R408 (12). -/
def LGE_IDENT : Nat := 0x6001000000
/-- R408 (12). -/
def LGE_CTL : Nat := 0x6001000010
/-- R408 (12). -/
def LGE_STAT : Nat := 0x6001000014
/-- R408 (12). -/
def LGE_EVT_SUM : Nat := 0x6001000018
/-- R408 (12). -/
def LGE_CHK_STAT : Nat := 0x600100001C
/-- R408 (12). -/
def LGE_INST_BASE_LO : Nat := 0x6001000020
/-- R408 (12). -/
def LGE_INST_BASE_HI : Nat := 0x6001000024
/-- R408 (12). -/
def LGE_VAR_BASE_LO : Nat := 0x6001000028
/-- R408 (12). -/
def LGE_VAR_BASE_HI : Nat := 0x600100002C
/-- R408 (12). -/
def LGE_CRC_ERR : Nat := 0x6001000080
/-- R408 (12). -/
def LGE_SCANS : Nat := 0x6001000084
/-- R408 (12). -/
def LGE_PG_CFG (p : Nat) : Nat := 0x6001010000 + 0x100 * p
/-- R408 (12). -/
def LGE_PG_IMG_LO (p : Nat) : Nat := 0x6001010004 + 0x100 * p
/-- R408 (12). -/
def LGE_PG_IMG_HI (p : Nat) : Nat := 0x6001010008 + 0x100 * p
/-- R408 (12). -/
def LGE_PG_OVR (p : Nat) : Nat := 0x600101000C + 0x100 * p
/-- R408 (12). -/
def LGE_PG_CMD (p : Nat) : Nat := 0x6001010010 + 0x100 * p
/-- R408 (12). -/
def LGE_PG_STAT (p : Nat) : Nat := 0x6001010014 + 0x100 * p
/-- R408 (12). -/
def LGE_PG_EVT (p : Nat) : Nat := 0x6001010018 + 0x100 * p
/-- R408 (12). -/
def LGE_PG_SCAN_LAST (p : Nat) : Nat := 0x600101001C + 0x100 * p
/-- R408 (12). -/
def LGE_PG_SCAN_MAX (p : Nat) : Nat := 0x6001010020 + 0x100 * p
/-- R408 (12). -/
def LGE_PG_HOLD_LEFT (p : Nat) : Nat := 0x6001010024 + 0x100 * p
/-- R408 (12). -/
def LGE_PG_SCANS (p : Nat) : Nat := 0x6001010028 + 0x100 * p
/-- R408 (12). -/
def LGE_PG_SKIP (p : Nat) : Nat := 0x600101002C + 0x100 * p
/-- R408 (12). -/
def LGE_PG_OVRUN (p : Nat) : Nat := 0x6001010030 + 0x100 * p
/-- R408 (12). -/
def LGE_PG_OLC (p : Nat) : Nat := 0x6001010034 + 0x100 * p
/-- R408 (12). -/
def LGE_PG_OLC_TGT (p : Nat) (k : Nat) : Nat := 0x6001010040 + 0x100 * p + 0x8 * k
/-- R408 (12). -/
def LGE_PG_OLC_VAL (p : Nat) (k : Nat) : Nat := 0x6001010044 + 0x100 * p + 0x8 * k
/-- R408 (12). -/
def LGE_FRC_VAR (p : Nat) (f : Nat) : Nat := 0x6001020000 + 0x400 * p + 0x8 * f
/-- R408 (12). -/
def LGE_FRC_VAL (p : Nat) (f : Nat) : Nat := 0x6001020004 + 0x400 * p + 0x8 * f
/-- R426 (13). -/
def CAN_IDENT (o : Nat) : Nat := 0x6001100000 + 0x10000 * o
/-- R426 (13). -/
def CAN_CTL (o : Nat) : Nat := 0x6001100010 + 0x10000 * o
/-- R426 (13). -/
def CAN_STAT (o : Nat) : Nat := 0x6001100014 + 0x10000 * o
/-- R426 (13). -/
def CAN_EVT (o : Nat) : Nat := 0x6001100018 + 0x10000 * o
/-- R426 (13). -/
def CAN_NBT (o : Nat) : Nat := 0x600110001C + 0x10000 * o
/-- R426 (13). -/
def CAN_DBT (o : Nat) : Nat := 0x6001100020 + 0x10000 * o
/-- R426 (13). -/
def CAN_TDC (o : Nat) : Nat := 0x6001100024 + 0x10000 * o
/-- R426 (13). -/
def CAN_ECNT (o : Nat) : Nat := 0x6001100028 + 0x10000 * o
/-- R426 (13). -/
def CAN_REF_CFG (o : Nat) : Nat := 0x600110002C + 0x10000 * o
/-- R426 (13). -/
def CAN_REF_ID (o : Nat) : Nat := 0x6001100030 + 0x10000 * o
/-- R426 (13). -/
def CAN_IRQ (o : Nat) : Nat := 0x6001100034 + 0x10000 * o
/-- R426 (13). -/
def CAN_TXQ_CMD (o : Nat) : Nat := 0x6001100038 + 0x10000 * o
/-- R426 (13). -/
def CAN_TXQ_STAT (o : Nat) : Nat := 0x600110003C + 0x10000 * o
/-- R426 (13). -/
def CAN_TX_ID (o : Nat) : Nat := 0x6001100040 + 0x10000 * o
/-- R426 (13). -/
def CAN_TX_CTRL (o : Nat) : Nat := 0x6001100044 + 0x10000 * o
/-- R426 (13). -/
def CAN_FIFO_STAT (o : Nat) : Nat := 0x6001100048 + 0x10000 * o
/-- R426 (13). -/
def CAN_FIFO_POP (o : Nat) : Nat := 0x600110004C + 0x10000 * o
/-- R426 (13). -/
def CAN_TRUMP_STAT (o : Nat) : Nat := 0x6001100050 + 0x10000 * o
/-- R426 (13). -/
def CAN_TRUMP_POP (o : Nat) : Nat := 0x6001100054 + 0x10000 * o
/-- R426 (13). -/
def CAN_TRUMP_MARK (o : Nat) : Nat := 0x6001100058 + 0x10000 * o
/-- R426 (13). -/
def CAN_TXC_WR (o : Nat) : Nat := 0x600110005C + 0x10000 * o
/-- R426 (13). -/
def CAN_RX_FRAMES (o : Nat) : Nat := 0x6001100080 + 0x10000 * o
/-- R426 (13). -/
def CAN_TX_FRAMES (o : Nat) : Nat := 0x6001100084 + 0x10000 * o
/-- R426 (13). -/
def CAN_ERR_FRAMES (o : Nat) : Nat := 0x6001100088 + 0x10000 * o
/-- R426 (13). -/
def CAN_BUSOFF (o : Nat) : Nat := 0x600110008C + 0x10000 * o
/-- R426 (13). -/
def CAN_RX_LOST (o : Nat) : Nat := 0x6001100090 + 0x10000 * o
/-- R426 (13). -/
def CAN_RX_NOMATCH (o : Nat) : Nat := 0x6001100094 + 0x10000 * o
/-- R426 (13). -/
def CAN_REF_LATE (o : Nat) : Nat := 0x6001100098 + 0x10000 * o
/-- R426 (13). -/
def CAN_TX_DATA (o : Nat) (k : Nat) : Nat := 0x6001100100 + 0x10000 * o + 0x4 * k
/-- R426 (13). -/
def CAN_TXC (o : Nat) (c : Nat) : Nat := 0x6001100200 + 0x10000 * o + 0x10 * c
/-- R426 (13). -/
def CAN_RXB_CFG (o : Nat) (b : Nat) : Nat := 0x6001100400 + 0x10000 * o + 0x4 * b
/-- R426 (13). -/
def CAN_FLT_ID (o : Nat) (f : Nat) : Nat := 0x6001101000 + 0x10000 * o + 0x10 * f
/-- R426 (13). -/
def CAN_FLT_MASK (o : Nat) (f : Nat) : Nat := 0x6001101004 + 0x10000 * o + 0x10 * f
/-- R426 (13). -/
def CAN_FLT_ACT (o : Nat) (f : Nat) : Nat := 0x6001101008 + 0x10000 * o + 0x10 * f
/-- R426 (13). -/
def CAN_RXB (o : Nat) (b : Nat) (j : Nat) : Nat := 0x6001102000 + 0x10000 * o + 0x60 * b + 0x4 * j
/-- R426 (13). -/
def CAN_TRUMP (o : Nat) (e : Nat) (j : Nat) : Nat := 0x6001103800 + 0x10000 * o + 0x60 * e + 0x4 * j
/-- R426 (13). -/
def CAN_FIFO (o : Nat) (e : Nat) (j : Nat) : Nat := 0x6001104000 + 0x10000 * o + 0x60 * e + 0x4 * j
/-- R457 (14). -/
def GRD_IDENT : Nat := 0x6001600000
/-- R457 (14). -/
def GRD_CTL : Nat := 0x6001600010
/-- R457 (14). -/
def GRD_STAT : Nat := 0x6001600014
/-- R457 (14). -/
def GRD_EVT : Nat := 0x6001600018
/-- R457 (14). -/
def GRD_APPLY : Nat := 0x600160001C
/-- R457 (14). -/
def GRD_BIN_CFG : Nat := 0x6001600020
/-- R457 (14). -/
def GRD_FAULT : Nat := 0x6001600024
/-- R457 (14). -/
def GRD_OPER : Nat := 0x6001600080
/-- R457 (14). -/
def GRD_TRIPS : Nat := 0x6001600084
/-- R457 (14). -/
def GRD_EV_LOST : Nat := 0x6001600088
/-- R457 (14). -/
def GRD_IN_CFG (i : Nat) : Nat := 0x6001610000 + 0x20 * i
/-- R457 (14). -/
def GRD_IN_SCALE (i : Nat) : Nat := 0x6001610004 + 0x20 * i
/-- R457 (14). -/
def GRD_IN_MAG (i : Nat) : Nat := 0x6001610008 + 0x20 * i
/-- R457 (14). -/
def GRD_IN_RAW (i : Nat) : Nat := 0x600161000C + 0x20 * i
/-- R457 (14). -/
def GRD_EL_CFG (e : Nat) : Nat := 0x6001620000 + 0x20 * e
/-- R457 (14). -/
def GRD_EL_PU (e : Nat) : Nat := 0x6001620004 + 0x20 * e
/-- R457 (14). -/
def GRD_EL_TIME (e : Nat) : Nat := 0x6001620008 + 0x20 * e
/-- R457 (14). -/
def GRD_EL_TMS (e : Nat) : Nat := 0x600162000C + 0x20 * e
/-- R457 (14). -/
def GRD_EL_AUX (e : Nat) : Nat := 0x6001620010 + 0x20 * e
/-- R457 (14). -/
def GRD_EL_INIT (e : Nat) : Nat := 0x6001620014 + 0x20 * e
/-- R457 (14). -/
def GRD_EL_STAT (e : Nat) : Nat := 0x6001620018 + 0x20 * e
/-- R457 (14). -/
def GRD_OUT_CFG (o : Nat) : Nat := 0x6001630000 + 0x10 * o
/-- R457 (14). -/
def GRD_OUT_CNT (o : Nat) : Nat := 0x6001630004 + 0x10 * o
/-- R458 (14). -/
def BKD_IDENT : Nat := 0x6001500000
/-- R458 (14). -/
def BKD_STAT : Nat := 0x6001500010
/-- R458 (14). -/
def BKD_EVT : Nat := 0x6001500014
/-- R458 (14). -/
def BKD_RTC_LO : Nat := 0x6001500018
/-- R458 (14). -/
def BKD_RTC_HI : Nat := 0x600150001C
/-- R458 (14). -/
def BKD_SET_LO : Nat := 0x6001500020
/-- R458 (14). -/
def BKD_SET_HI : Nat := 0x6001500024
/-- R458 (14). -/
def BKD_CMD : Nat := 0x6001500028
/-- R458 (14). -/
def BKD_TRIM : Nat := 0x600150002C
/-- R458 (14). -/
def BKD_CAL0 : Nat := 0x6001500030
/-- R458 (14). -/
def BKD_CAL1 : Nat := 0x6001500034
/-- R458 (14). -/
def BKD_ALM_CAL0 (a : Nat) : Nat := 0x6001500040 + 0x10 * a
/-- R458 (14). -/
def BKD_ALM_CAL1 (a : Nat) : Nat := 0x6001500044 + 0x10 * a
/-- R458 (14). -/
def BKD_ALM_CTL (a : Nat) : Nat := 0x6001500048 + 0x10 * a
/-- R458 (14). -/
def BKD_PWR : Nat := 0x6001500060
/-- R458 (14). -/
def BKD_OPSEC : Nat := 0x6001500070
/-- R458 (14). -/
def BKD_PCYCLE : Nat := 0x6001500074
/-- R458 (14). -/
def BKD_START : Nat := 0x6001500078
/-- R458 (14). -/
def BKD_TAMPER : Nat := 0x600150007C
/-- R458 (14). -/
def BKD_WTOKEN (k : Nat) : Nat := 0x6001500080 + 0x4 * k
/-- R458 (14). -/
def BKD_TRAIN (k : Nat) : Nat := 0x6001500100 + 0x4 * k
/-- R458 (14). -/
def BKD_SCRATCH (k : Nat) : Nat := 0x6001500200 + 0x4 * k
/-- R459 (14). -/
def LED_IDENT : Nat := 0x6001400000
/-- R459 (14). -/
def LED_CTL : Nat := 0x6001400010
/-- R459 (14). -/
def LED_STAT : Nat := 0x6001400014
/-- R459 (14). -/
def LED_EVT : Nat := 0x6001400018
/-- R459 (14). -/
def LED_SEQ_NEXT : Nat := 0x600140001C
/-- R459 (14). -/
def LED_SW_CMD : Nat := 0x6001400020
/-- R459 (14). -/
def LED_SW_STAT : Nat := 0x6001400024
/-- R459 (14). -/
def LED_SW_PAY (k : Nat) : Nat := 0x6001400040 + 0x4 * k
/-- R459 (14). -/
def LED_RECORDS : Nat := 0x6001400080
/-- R459 (14). -/
def LED_STAGE_DROP : Nat := 0x6001400084
/-- R459 (14). -/
def LED_ARRAY_DROP : Nat := 0x6001400088
/-- R459 (14). -/
def LED_SEV_CNT (s : Nat) : Nat := 0x60014000C0 + 0x4 * s
/-- R481 (15). -/
def KEY_IDENT : Nat := 0x6001200000
/-- R481 (15). -/
def KEY_CTL : Nat := 0x6001200010
/-- R481 (15). -/
def KEY_STAT : Nat := 0x6001200014
/-- R481 (15). -/
def KEY_EVT : Nat := 0x6001200018
/-- R481 (15). -/
def KEY_SERIAL_LO : Nat := 0x600120001C
/-- R481 (15). -/
def KEY_SERIAL_HI : Nat := 0x6001200020
/-- R481 (15). -/
def KEY_DBG_CMD : Nat := 0x6001200024
/-- R481 (15). -/
def KEY_OPS : Nat := 0x6001200080
/-- R481 (15). -/
def KEY_REFUSED : Nat := 0x6001200084
/-- R481 (15). -/
def KEY_PUPD : Nat := 0x6001200088
/-- R481 (15). -/
def KEY_OP_CMD : Nat := 0x6001201000
/-- R481 (15). -/
def KEY_OP_LEN : Nat := 0x6001201004
/-- R481 (15). -/
def KEY_OP_ADDR_LO (k : Nat) : Nat := 0x6001201008 + 0x8 * k
/-- R481 (15). -/
def KEY_OP_ADDR_HI (k : Nat) : Nat := 0x600120100C + 0x8 * k
/-- R481 (15). -/
def KEY_OP_STAT : Nat := 0x6001201020
/-- R481 (15). -/
def KEY_SLOT_ATTR (s : Nat) : Nat := 0x6001210000 + 0x20 * s
/-- R481 (15). -/
def KEY_SLOT_ID (s : Nat) : Nat := 0x6001210004 + 0x20 * s
/-- R481 (15). -/
def KEY_SLOT_STAT (s : Nat) : Nat := 0x6001210008 + 0x20 * s
/-- R481 (15). -/
def KEY_SLOT_GEN (s : Nat) : Nat := 0x600121000C + 0x20 * s
/-- R481 (15). -/
def KEY_SLOT_USES (s : Nat) : Nat := 0x6001210010 + 0x20 * s
/-- R482 (15). -/
def TMP_IDENT : Nat := 0x6001300000
/-- R482 (15). -/
def TMP_LVL : Nat := 0x6001300010
/-- R482 (15). -/
def TMP_FUSE : Nat := 0x6001300014
/-- R482 (15). -/
def TMP_IN_CFG : Nat := 0x6001300018
/-- R482 (15). -/
def TMP_STAT : Nat := 0x600130001C
/-- R482 (15). -/
def TMP_EVT : Nat := 0x6001300020
/-- R482 (15). -/
def TMP_CMD : Nat := 0x6001300024
/-- R482 (15). -/
def TMP_DETECT : Nat := 0x6001300080
/-- R503 (16). -/
def SYS_START_STAT : Nat := 0x6000000010
/-- R503 (16). -/
def SYS_START_CMD : Nat := 0x6000000014
/-- R503 (16). -/
def SYS_START_EVT : Nat := 0x6000000018
/-- R503 (16). -/
def SYS_STRAP : Nat := 0x600000001C
/-- R503 (16). -/
def SYS_BOOT : Nat := 0x6000000020
/-- R503 (16). -/
def SYS_BOLT_LO : Nat := 0x6000000024
/-- R503 (16). -/
def SYS_BOLT_HI : Nat := 0x6000000028
/-- R503 (16). -/
def SYS_SECVER : Nat := 0x600000002C
/-- R503 (16). -/
def SYS_PF_CFG : Nat := 0x6000000030
/-- R503 (16). -/
def SYS_PF_STAT : Nat := 0x6000000034
/-- R503 (16). -/
def SYS_START_MS : Nat := 0x6000000038
/-- R503 (16). -/
def SYS_STARTS : Nat := 0x6000000080
/-- R503 (16). -/
def SYS_SCRUB_CE : Nat := 0x6000000084
/-- R503 (16). -/
def SYS_SCRUB_UE : Nat := 0x6000000088
/-- R503 (16). -/
def SYS_XSPI_CMD (k : Nat) : Nat := 0x6000000400 + 0x20 * k
/-- R503 (16). -/
def SYS_XSPI_ADDR (k : Nat) : Nat := 0x6000000404 + 0x20 * k
/-- R503 (16). -/
def SYS_XSPI_LEN (k : Nat) : Nat := 0x6000000408 + 0x20 * k
/-- R503 (16). -/
def SYS_XSPI_BUF_LO (k : Nat) : Nat := 0x600000040C + 0x20 * k
/-- R503 (16). -/
def SYS_XSPI_BUF_HI (k : Nat) : Nat := 0x6000000410 + 0x20 * k
/-- R503 (16). -/
def SYS_XSPI_STAT (k : Nat) : Nat := 0x6000000414 + 0x20 * k
/-- R503 (16). -/
def SYS_ANCHOR (k : Nat) : Nat := 0x6000000600 + 0x4 * k
/-- R512 (17). -/
def SYS_PWR_CMD : Nat := 0x6000000500
/-- R512 (17). -/
def SYS_PWR_STAT : Nat := 0x6000000504

end Sys2Proof.Machine
end

