-- ==== Sys2Proof/Machine/FMap.lean ====
section
/-!
DEFINITION. Sparse tables in one canonical form: pairs of a key and a value, keys strictly rising, and no entry equal
to what an unlisted key reads as. Registers, memory and the working state of instances are such tables.
-/

namespace Sys2Proof.Machine

/-- A sparse table from numbers to `α`. What an unlisted key reads as is given to each operation. -/
abbrev FMap (α : Type) := List (Nat × α)

/-- The value at a key; `d` says what an unlisted key reads as. -/
def FMap.get {α : Type} (d : Nat → α) (k : Nat) : FMap α → α
  | [] => d k
  | (j, v) :: rest => if j = k then v else FMap.get d k rest

/-- Put the entry `(k, v)` in its place, or take key `k` out when `v` is what an unlisted key reads as. -/
def FMap.set {α : Type} [DecidableEq α] (d : Nat → α) (k : Nat) (v : α) : FMap α → FMap α
  | [] => if v = d k then [] else [(k, v)]
  | (j, w) :: rest =>
    if j < k then (j, w) :: FMap.set d k v rest
    else if j = k then (if v = d k then rest else (k, v) :: rest)
    else if v = d k then (j, w) :: rest else (k, v) :: (j, w) :: rest

/-- Replace the value at a key by a function of it. -/
def FMap.upd {α : Type} [DecidableEq α] (d : Nat → α) (k : Nat) (f : α → α) (m : FMap α) : FMap α :=
  FMap.set d k (f (FMap.get d k m)) m

/-- Every key of the table is above `k`. -/
def FMap.above {α : Type} (k : Nat) : FMap α → Bool
  | [] => true
  | (j, _) :: _ => decide (k < j)

/-- The canonical form: keys strictly rising, no entry equal to what an unlisted key reads as. -/
def FMap.wf {α : Type} [DecidableEq α] (d : Nat → α) : FMap α → Bool
  | [] => true
  | (j, v) :: rest => decide (v ≠ d j) && FMap.above j rest && FMap.wf d rest

end Sys2Proof.Machine
end

