-- ==== Sys2Proof/Machine/State.lean ====
section
/-!
DEFINITION. The state of the module as plain data. Every register stands in `regs` under its physical address; the
other fields hold what the spec gives the module and no register shows. The field defaults are the values after reset.
-/

namespace Sys2Proof.Machine

/-- Reasons a step stops with a fault. No command of this module does: every access error, violation and refusal of the
spec is an effect on the state. -/
inductive Fault where
  /-- Raised by no command; kept so that the type has a name to give. Safe. -/
  | unreachable
  deriving DecidableEq, Repr

/-- Reasons a command has no meaning here. -/
inductive Refusal where
  /-- Raised by `exec` for a row of the table that has no meaning yet. Safe: nothing is claimed about it. -/
  | notModelled (mnemonic : String)
  deriving DecidableEq, Repr

/-- The answer to the last access of a master: error response (R32, R33, R26), grant violation (R214), data read. -/
structure Reply where
  err  : Bool := false
  viol : Bool := false
  data : Nat := 0
  deriving DecidableEq, Repr, Inhabited

/-- Pins the module drives (R498, R512) and reads. -/
inductive Pin where
  | healthyN | mandateN | ppsOut | pwrOnReq | nxEn | cxEn | gtrip (o : Nat) | xspiResetN (k : Nat)
  deriving DecidableEq, Repr

/-- What leaves the module. -/
inductive Output where
  /-- A frame's octets, destination address first, given to the MAC of a port. -/
  | frame (port : Nat) (octets : List Byte)
  /-- A frame on an external port's wire, from its queue, destination address to FCS; `bad`: ended with the complement
  of its FCS (R284). -/
  | egress (port queue : Nat) (octets : List Byte) (bad : Bool)
  /-- A pin changed. -/
  | pin (p : Pin) (high : Bool)
  /-- A frame delivered to the block behind internal port `port` (9 SIE, 10 PTS, 11 TAE) with its channel, subscription
  or table index and its selvedge (R286). -/
  | deliver (port target : Nat) (octets : List Byte) (selvedge : Nat)
  /-- A CAN frame given to the bus: controller, identifier word, control word, data. -/
  | can (ctl : Nat) (id ctrl : Nat) (data : List Byte)
  /-- The trump interrupt of a CAN controller raised to a pair (R416). -/
  | irq (pair ctl : Nat)
  /-- A start handed to Baize or the logic engine (R73). -/
  | trigger (channel : Nat)
  /-- A received frame that does not enter the switch, or a copy of one, passed to block `blk` (R270): destination address
  to the last octet before the FCS. -/
  | passed (blk port : Nat) (octets : List Byte)
  /-- Data programmed into the flash of an xSPI interface, and a 64 KiB block erased (R503). -/
  | program (k addr : Nat) (data : List Byte)
  | erase (k addr : Nat)
  deriving DecidableEq, Repr

/-! ### Staging and commits (R47–R52, R525, R526) -/

/-- A local commit that waits on an instance (R47, R525): the tick it was written; whether it found pending shadows that no
activation has taken since; its number among the commits of all instances, 0 when it names the instance; whether it has
taken a shadow of another instance. -/
structure Wait where
  at_   : Nat := 0
  found : Bool := false
  group : Nat := 0
  took  : Bool := false
  deriving DecidableEq, Repr, Inhabited

/-- An instance's share in waiting commits: local ones, oldest first; covered by the coordinated commit; slice that
committed last. -/
structure Staged where
  waits : List Wait := []
  coord : Bool := false
  slice : Nat := 0
  deriving DecidableEq, Repr, Inhabited

/-- The values of an instance before an activation (R50): its active words then; its reference then and the first sequence
number of that reference that works on the new values; its reference since and the first of its sequence numbers that works
at all; it worked before, and its restart waits for the first new grid point. -/
structure Prior where
  words  : List (Nat × Nat) := []
  ref    : Nat := 0
  first  : Nat := 0
  nref   : Nat := 0
  nfirst : Nat := 0
  was    : Bool := false
  deriving DecidableEq, Repr, Inhabited

/-- The coordinated commit (R50, R51). `issued` counts grid points of the reference since the arm. -/
structure XCommit where
  ref      : Nat := 0
  mode     : Nat := 0
  gp       : Nat := 0
  blocks   : Nat := 0
  armedAt  : Nat := 0
  issued   : Nat := 0
  deriving DecidableEq, Repr, Inhabited

/-! ### Wall time (chapter 02) -/

/-- The time unit: seconds, nanoseconds, fraction (R53); increment in effect, ns × 2^32 (R54); local time counted since the
entry to HOLDOVER, ns × 2^32 (R59). -/
structure WallTime where
  sec       : Nat := 0
  ns        : Nat := 0
  frac      : Nat := 0
  incr      : Nat := 8 * 2 ^ 32
  syncs     : List (Nat × Nat) := []
  lastSync  : Option Nat := none
  holdAcc   : Nat := 0
  secTick   : Option Nat := none
  ppsUntil  : Option Nat := none
  deriving DecidableEq, Repr

/-- A trigger channel: next instant and last instant fired, in ns since the epoch; stepped over since the last firing. -/
structure Trig where
  next    : Nat := 0
  last    : Nat := 0
  stepped : Bool := false
  deriving DecidableEq, Repr, Inhabited

/-- A boundary master port (R69). -/
structure BmPort where
  syncSeq : Nat := 0
  annSeq  : Nat := 0
  syncDue : Nat := 0
  annDue  : Nat := 0
  deriving DecidableEq, Repr, Inhabited

/-- An angle reference (R78–R92). Instants and intervals in ns × 2^8; `offset` in ns; `pFreqs`, `bFreqs`: measured
frequencies of the sources at the last grid points while measured, newest first. -/
structure Weft where
  angle     : Nat := 0
  seq       : Nat := 0
  next      : Nat := 0
  interval  : Nat := 0
  offset    : Int := 0
  held      : Nat := 0
  timeStep  : Bool := false
  realign   : Bool := false
  lossRun   : Nat := 0
  phRun     : Nat := 0
  lossFreq  : Nat := 0
  phFreq    : Nat := 0
  bLossRun  : Nat := 0
  bPhRun    : Nat := 0
  pValidRun : Nat := 0
  bValidRun : Nat := 0
  inBand    : Nat := 0
  bInBand   : Nat := 0
  holdRun   : Nat := 0
  slewRun   : Nat := 0
  noPrimary : Nat := 0
  pullDone  : Bool := false
  ofsSum    : Int := 0
  ofsRun    : Nat := 0
  lastIssue : Nat := 0
  pFreqs    : List Nat := []
  bFreqs    : List Nat := []
  deriving DecidableEq, Repr, Inhabited

/-- One latched section of a census: block, and pairs of offset and value (R98). -/
structure CenSection where
  blk     : Nat
  entries : List (Nat × Nat)
  deriving DecidableEq, Repr

/-- What a census latched (R94, R98). -/
structure CenImage where
  number   : Nat
  stack    : Bool
  late     : Bool
  grid     : Bool
  sec      : Nat
  ns       : Nat
  lateness : Nat
  ref      : Nat
  gp       : Nat
  absent   : Nat
  angles   : List (Nat × Nat × Nat × Nat)
  sections : List CenSection
  deriving DecidableEq, Repr

/-- The census unit (R94–R102): the armed census, the number of one to latch at the next tick, the image being written. -/
structure Census where
  grid    : Bool := false
  sec     : Nat := 0
  ns      : Nat := 0
  ref     : Nat := 0
  gp      : Nat := 0
  number  : Nat := 0
  stack   : Bool := false
  now     : Option Nat := none
  armedAt : Nat := 0
  stepped : Bool := false
  skipped : Bool := false
  slot    : Nat := 0
  image   : Option CenImage := none
  deriving DecidableEq, Repr

/-! ### Stream ingest (chapter 03) -/

/-- One ASDU as checked: smpCnt, smpSynch, test mark of a simulated frame, refrTm seconds, values with quality words. -/
structure Asdu where
  cnt    : Nat
  synch  : Nat
  test   : Bool
  refrTm : Option Nat
  vals   : List (Int × Nat)
  deriving DecidableEq, Repr

/-- A frame that passed steps 1 to 16: its ASDUs, receive instant in ns, whether a step fell between, key slot used. -/
structure GoodFrame where
  asdus   : List Asdu
  rxNs    : Nat
  stepped : Bool
  keyNext : Bool
  deriving DecidableEq, Repr

/-- Frozen detection of a quantity (R129): last accepted value, samples in a row with it, frozen. -/
structure Frz where
  val    : Int := 0
  count  : Nat := 0
  frozen : Bool := false
  deriving DecidableEq, Repr, Inhabited

/-- A channel's working state. Instants in ns × 2^16, newest first, for the samples still in the rings; `nextIdx` is the
index the next sample takes. `skew`: steps of the time unit since the last instant taken from its reading; `maxAge`: largest
age since ACQUIRING was entered. -/
structure Sie where
  cfgErr   : Bool := false
  nextIdx  : Nat := 0
  first    : Bool := true
  expected : Nat := 0
  sec      : Nat := 0
  acq      : Nat := 0
  failRun  : Nat := 0
  outRun   : Nat := 0
  exitFrame : Option GoodFrame := none
  win      : List (Nat × Nat) := []
  ages     : List Int := []
  insts    : List Nat := []
  lastAcc  : Nat := 0
  missAt   : Nat := 0
  held     : Option Int := none
  skew     : Int := 0
  maxAge   : Option Int := none
  frz      : FMap Frz := []
  deriving DecidableEq, Repr, Inhabited

/-- A grid point issued and not closed (R135): sequence, instant in ns, tick of its close deadline, channels still to
write it, quantities written invalid by `close_us`. -/
structure OpenPt where
  seq     : Nat
  gp      : Nat
  tg      : Nat
  due     : Nat
  waiting : List Nat
  invalid : Nat
  realign : Bool
  fault   : Bool
  deriving DecidableEq, Repr

/-! ### Signal engines (chapter 04) -/

/-- A closed grid point that an engine has still to work on (R142). -/
structure Close where
  ref : Nat
  seq : Nat
  gp  : Nat
  at_ : Nat
  deriving DecidableEq, Repr

/-- A filter chain (R147–R153): inputs each stage has taken since the start, outputs written since the start. The stages'
histories stand in sample memory (R150). -/
structure Fdc where
  counts : List Nat := []
  outs   : Nat := 0
  deriving DecidableEq, Repr, Inhabited

/-- One grid point in a phasor window (R156): index within the cycle, value and quality byte of each input quantity. -/
structure PsuPt where
  m    : Nat
  vals : List (Int × Nat)
  deriving DecidableEq, Repr

/-- A phasor instance's window, newest first (R157, R158). -/
structure Psu where
  win : List PsuPt := []
  deriving DecidableEq, Repr, Inhabited

/-- One grid point in a zone's window (R163, R164): d and r of the phases in 2^-8 dataset units, quality, held. -/
structure DzePt where
  d    : List Int
  r    : List Int
  q    : Nat
  held : Bool
  deriving DecidableEq, Repr

/-- A zone input's saturation detector (R166): corrected values of the window, newest first; consecutive grid points at
or above `sat_min` for each phase; grid points the flag is still held. -/
structure DzeIn where
  win  : List (List Int) := []
  arm  : List Nat := [0, 0, 0]
  hold : Nat := 0
  deriving DecidableEq, Repr, Inhabited

/-- A contribution received for a spanning zone, its G in the local count (R169, R345). -/
structure Contrib where
  pos : Nat
  gp  : Nat
  d   : List Int
  r   : List Int
  q   : Nat
  deriving DecidableEq, Repr, Inhabited

/-- A zone's own sums at a grid point, before the record is written. `open_`: the record waits for contributions. -/
structure DzeLocal where
  ref     : Nat
  seq     : Nat
  gp      : Nat
  at_     : Nat
  realign : Bool
  d       : List Int
  r       : List Int
  q       : Nat
  bad     : Nat
  nbad    : Nat
  sat     : Nat
  fault   : Bool
  open_   : Bool
  deriving DecidableEq, Repr

/-- A differential zone (R162–R170). -/
structure Dze where
  win   : List DzePt := []
  ins   : FMap DzeIn := []
  waits : List DzeLocal := []
  got   : List Contrib := []
  last  : FMap Contrib := []
  miss  : FMap Nat := []
  clean : Nat := 0
  done  : Option Nat := none
  deriving DecidableEq, Repr, Inhabited

/-- Sequence numbers seen, newest first, each with its LAN. -/
abbrev SeqList := List (Nat × Nat)

/-! ### Points and publishing (chapter 07) -/

/-- A queued publication request (R251–R257): entry, refresh, instant of acceptance, requesting slice and its pass number
(none for a watch or the mandate). -/
structure PubReq where
  entry   : Nat
  refresh : Bool
  sec     : Nat
  ns      : Nat
  tq      : Nat
  owner   : Option (Nat × Nat)
  deriving DecidableEq, Repr

/-- A publisher entry (R254–R263): index of the next transmission, tick at which it falls due, slice and pass number of the
last new state, next transmission to be a new state; time quality octet of t; next SV sample and ASDUs collected. -/
structure PubEnt where
  k       : Nat := 0
  due     : Option Nat := none
  last    : Option (Nat × Nat) := none
  renew   : Bool := false
  tq      : Nat := 0
  svSec   : Nat := 0
  svCnt   : Nat := 0
  svRun   : Bool := false
  svBuf   : List (List Byte) := []
  deriving DecidableEq, Repr, Inhabited

/-- A watch (R243): last reported value and quality. -/
structure Watch where
  armed : Bool := false
  val   : Nat := 0
  qual  : Nat := 0
  deriving DecidableEq, Repr, Inhabited

/-- A frame that passed steps 1 to 15 of R244. Members: tag, length, padding, value. -/
structure GooseMsg where
  st    : Nat
  sq    : Nat
  tSec  : Nat
  tFrac : Nat
  tal   : Nat
  test  : Bool
  lost  : Bool
  rxNs  : Nat
  rxTick : Nat
  vals  : List (Nat × Nat × Nat × Nat)
  deriving DecidableEq, Repr, Inhabited

/-- A subscription (R244–R248). -/
structure Sub where
  win     : SeqList := []
  failRun : Nat := 0
  outRun  : Nat := 0
  st      : Nat := 0
  expiry  : Nat := 0
  set     : Option GooseMsg := none
  exit    : Option GooseMsg := none
  deriving DecidableEq, Repr, Inhabited

/-! ### Switch (chapter 08) -/

/-- A copy of a frame in an egress queue (R293): octets with FCS, generation taken, tick of arrival, ingress port, TS32,
error bits (1 FCS, 2 length, 4 redundancy, 8 PCS), path, selvedge flags, octets received, target behind an internal port,
reserve and kitty cells held (R275), transmit descriptor, corrected by the transparent clock, reading of the time unit at
arrival, cells not yet written (R278), an error that keeps the frame from external ports. -/
structure SwFrame where
  octets : List Byte
  gen    : Nat
  tick   : Nat
  port   : Nat
  ts     : Nat
  err    : Nat
  path   : Nat
  cut    : Bool
  mirror : Bool
  trunc  : Bool
  len    : Nat
  target : Nat
  res    : Nat
  kit    : Nat
  desc   : Option Nat
  tc     : Bool
  inNs   : Nat
  left   : Nat
  bad    : Bool
  deriving DecidableEq, Repr, Inhabited

/-- A frame a block gives to its internal port: octets with FCS, queue, descriptor, the ports of a direct descriptor. -/
structure Ingress where
  octets : List Byte
  queue  : Nat
  desc   : Option Nat
  direct : Option (List Nat)
  deriving DecidableEq, Repr, Inhabited

/-- A transmit descriptor taken and not yet written back (R309): copies still in the switch, external ports that sent it
with their timestamps, copies sent, and the kinds of loss met. -/
structure TxDesc where
  left  : Nat
  sent  : List (Nat × Nat)
  ok    : Nat
  total : Nat
  down  : Bool
  adm   : Bool
  age   : Bool
  deriving DecidableEq, Repr, Inhabited

/-- A node of a redundant pair (R301): tick of its last frame, sequence numbers seen for local delivery, forwarding, and
the ring towards A and towards B, newest first. -/
structure Node where
  tick : Nat
  loc  : List Nat
  fwd  : List Nat
  toA  : List Nat
  toB  : List Nat
  deriving DecidableEq, Repr, Inhabited

/-- A held residence of a two-step Sync (R313): domain and source port identity, sequence number, egress, ns, tick. -/
structure Residence where
  key  : Nat
  seq  : Nat
  port : Nat
  ns   : Int
  tick : Nat
  deriving DecidableEq, Repr

/-- A frame that a MAC sends at a frame boundary, outside the switch (R69, R270, R302): what leaves, its octets with the FCS,
a message of the boundary master, the octets before and after the transmit timestamp in the message that follows it. -/
structure Direct where
  out    : Output
  len    : Nat
  ptp    : Bool := false
  follow : Option (List Byte × List Byte) := none
  deriving DecidableEq, Repr

/-- A header capture ring (R311, R312): next sequence number, captures lost in the present run and the first of them. -/
structure HdrCap where
  seq   : Nat := 0
  lost  : Nat := 0
  first : Nat := 0
  deriving DecidableEq, Repr, Inhabited

/-- The switch. Tables keyed by port, by 8 × port + queue, by pair, or by ring. `good` is the instant of a port's last
error-free frame, `base` the instant its partner was first heard while it had had none (R303). -/
structure Switch where
  table   : FMap (List Nat) := []
  queues  : FMap (List SwFrame) := []
  inTx    : FMap (Option (SwFrame × Nat × Nat)) := []
  /-- Direct frames waiting for a frame boundary of a port, and the one in transmission: octets, tick of its end. -/
  direct  : FMap (List Direct) := []
  dirTx   : FMap (Option (Nat × Nat)) := []
  /-- The tick from which a link has been good (R304). -/
  goodAt  : FMap (Option Nat) := []
  heldAt  : FMap Nat := []
  wakeAt  : FMap Nat := []
  idleAt  : FMap Nat := []
  mirror  : FMap Nat := []
  good    : FMap Nat := []
  base    : FMap Nat := []
  nodes   : FMap (FMap Node) := []
  seq     : FMap Nat := []
  supSeq  : FMap Nat := []
  supAt   : FMap (Option Nat) := []
  resid   : List Residence := []
  cap     : FMap HdrCap := []
  descs   : FMap TxDesc := []
  nextTxr : Nat := 0
  /-- The port after the last winner of each step of R278's order, by four times the output and the step. -/
  nextWin : FMap Nat := []
  /-- Frames of internal ports that are held back (R278). -/
  waitIn  : FMap (List Ingress) := []
  deriving DecidableEq, Repr

/-! ### Twin (chapter 09) -/

/-- The twin as its last MATE_HB shows it (R322). -/
structure Mate where
  at_    : Nat := 0
  st     : Nat := 0
  epoch  : Nat := 0
  health : Nat := 0
  flags  : Nat := 0
  digest : Nat := 0
  ck     : Nat := 0
  deriving DecidableEq, Repr, Inhabited

/-- A member as its last ARB_HB shows it, at the arbiter: consecutive ARB_HB with health at most 1. -/
structure Peer where
  at_    : Option Nat := none
  health : Nat := 0
  flags  : Nat := 0
  epoch  : Nat := 0
  low    : Nat := 0
  deriving DecidableEq, Repr, Inhabited

/-- A verdict (R328, R329): received by a member, or issued by the arbiter and sent until acknowledged. -/
structure Verdict where
  kind   : Nat
  target : Nat
  epoch  : Nat
  plan   : Nat
  at_    : Nat
  sends  : Nat := 0
  acked  : Bool := false
  deriving DecidableEq, Repr, Inhabited

/-- A handback plan (R337, R338): identifier, G_h in the own and in the twin's count, YIELD_REQ to be sent; MANDATE_YIELD
sent and the tick of the first. -/
structure Plan where
  id      : Nat
  own     : Nat := 0
  twin    : Nat := 0
  chosen  : Bool := false
  asking  : Bool := false
  yields  : Nat := 0
  yieldAt : Nat := 0
  deriving DecidableEq, Repr, Inhabited

/-- A staged checkpoint message (R333): object, target, offset in the staging area, length. -/
structure CkMsg where
  obj  : Nat
  addr : Nat
  off  : Nat
  len  : Nat
  deriving DecidableEq, Repr

/-- The set being staged: number, tick of its first message, messages, octets, out of order, past the end. -/
structure CkStage where
  set    : Nat
  began  : Nat
  msgs   : List CkMsg := []
  next   : Nat := 0
  off    : Nat := 0
  broken : Bool := false
  full   : Bool := false
  commit : Bool := false
  deriving DecidableEq, Repr

/-- A persistent copy of the highest known epoch (R326). -/
structure EpochCopy where
  seq   : Nat
  epoch : Nat
  crc   : Nat
  deriving DecidableEq, Repr, Inhabited

/-- RED's working state. `held` is the epoch of the mandate held (R326); `arbOk` and `mateOk` the ticks of the last
message of conditions (a) and (b) (R327). Arbiter side: `peers`, `holder` (3 none) and its epoch. `copies` are the two
persistent copies of the epoch (R326). `revFrom` is the tick since which health is 3, `revAcc` what the revert hold has
counted up to the last committed set at `revAt` (R336). `fresh`: a set of the present holder has been committed (R322). -/
structure Red where
  held      : Nat := 0
  copies    : FMap EpochCopy := []
  arbAt     : Option Nat := none
  arbOk     : Option Nat := none
  arbPlan   : Nat := 0
  mateAt    : Option Nat := none
  mateOk    : Option Nat := none
  mateHeld  : Option Nat := none
  mate      : Mate := {}
  verdict   : Option Verdict := none
  plan      : Option Plan := none
  planNext  : Nat := 1
  revFrom   : Option Nat := none
  revAcc    : Nat := 0
  revAt     : Option Nat := none
  readySent : Nat := 0
  maint     : Option (Nat × Nat) := none
  dirty     : FMap Nat := []
  ckDue     : Nat := 0
  ckLate    : Bool := false
  stage     : Option CkStage := none
  committed : Option Nat := none
  ckBegan   : Nat := 0
  fresh     : Bool := false
  ckSt      : Option (List Nat) := none
  sentAt    : FMap (Option Nat) := []
  peers     : FMap Peer := []
  holder    : Nat := 3
  hEpoch    : Nat := 0
  noHold    : Nat := 0
  issued    : Option Verdict := none
  lastIssue : Option Nat := none
  failed    : Option Nat := none
  yieldReq  : Option (Nat × Nat) := none
  deriving DecidableEq, Repr, Inhabited

/-! ### Stack (chapter 09) -/

/-- CAS's working state: the dealer followed (role, epoch, tick of its last DEALER_HB, bitmap), positions in the ring,
window of messages seen for each origin, consecutive disagreements of each follow, octets received of each position's
census image. -/
structure Cas where
  role    : Nat := 0
  epoch   : Nat := 0
  at_     : Nat := 0
  bitmap  : Nat := 0
  ring    : Nat := 1
  called  : Nat := 0
  seen    : FMap (List Nat) := []
  wrong   : FMap Nat := []
  got     : FMap (List (Nat × Nat)) := []
  sentAt  : Option Nat := none
  deriving DecidableEq, Repr, Inhabited

/-! ### Disturbance recorder (chapter 10) -/

/-- A record of a recorder (R361, R363): its slot and where that lies, rows of a slot, record number, trigger row, rows
held before and from it, rows it is to hold, source, trigger list (G, source and unit, ns, seconds), triggers met. -/
structure RecOpen where
  slot      : Nat := 0
  addr      : Nat := 0
  size      : Nat := 1
  num       : Nat := 0
  gt        : Nat := 0
  ns        : Nat := 0
  sec       : Nat := 0
  first     : Nat := 0
  pre       : Nat := 0
  post      : Nat := 0
  need      : Nat := 0
  src       : Nat := 0
  origin    : Nat := 0
  remote    : Bool := false
  unaligned : Bool := false
  ref       : Nat := 0
  refSt     : Nat := 0
  freq      : Nat := 0
  list      : List (Nat × Nat × Nat × Nat) := []
  met       : Nat := 0
  crcErr    : Bool := false
  ovw       : Bool := false
  short     : Bool := false
  trunc     : Bool := false
  armId     : Nat := 0
  deriving DecidableEq, Repr, Inhabited

/-- A trigger of another position that waits for its row (R365): its G (none: the next row), source, origin, unaligned. -/
structure RecRemote where
  gt        : Option Nat
  src       : Nat
  origin    : Nat
  unaligned : Bool
  deriving DecidableEq, Repr, Inhabited

/-- A recorder (R351–R370): arm state, next row index and rows held in the current and in the next slot, completed
records by slot, open record, records to be written out, trigger units' counts, histories and last binary values, reports
waiting for a row, hold-off, stream counts. -/
structure Recorder where
  armed   : Bool := false
  armId   : Nat := 0
  armSeen : Bool := false
  row     : Nat := 0
  held    : Nat := 0
  nxt     : Option Nat := none
  nrow    : Nat := 0
  done    : FMap Nat := []
  open_   : Option RecOpen := none
  finish  : List RecOpen := []
  runs    : FMap Nat := []
  hist    : FMap (List Nat) := []
  bins    : FMap Nat := []
  grd     : Nat := 0
  manual  : Bool := false
  remote  : Option RecRemote := none
  holdAt  : Nat := 0
  holdN   : Nat := 0
  quiet   : Bool := false
  rows    : Nat := 0
  fseq    : Nat := 0
  deriving DecidableEq, Repr, Inhabited

/-! ### Regulation engine (chapter 11) -/

/-- A loop (R377–R386) beyond its registers: rate of rate, D, y_prev, the model's ŷ, last good feed-forward, last
published output and quality, frozen detection, counts of good cycles, cycles held, implausible cycles; whether there is
a cycle to initialise under R380 (and with sp taking y), sp taken from feedback, the last feedback good, the first cycle
to come, its reference back from OFF; slice of its last commit. -/
structure Loop where
  acc     : Nat := 0
  d       : Nat := 0
  yPrev   : Nat := 0
  yHat    : Nat := 0
  ff      : Nat := 0
  pub     : Option (Nat × Nat) := none
  frzVal  : Nat := 0
  frz     : Nat := 0
  good    : Nat := 0
  heldFor : Nat := 0
  impl    : Nat := 0
  spTaken : Bool := false
  lastOk  : Bool := false
  renew   : Bool := false
  toY     : Bool := false
  owner   : Nat := 0
  back    : Bool := false
  deriving DecidableEq, Repr, Inhabited

/-! ### Logic engine (chapter 12) -/

/-- A block instance of a program (R392). -/
structure LgeInst where
  ty : Nat
  a  : Nat
  b  : Nat
  c  : Nat
  o1 : Nat
  o2 : Nat
  deriving DecidableEq, Repr, Inhabited

/-- A variable of a program (R392). -/
structure LgeVar where
  init : Nat
  ty   : Nat
  cls  : Nat
  ret  : Bool
  chg  : Bool
  map  : Nat
  deriving DecidableEq, Repr, Inhabited

/-- A loaded program (R392–R404): its image, restart due (1 cold, 2 warm), trigger of its last scan in µs, the scan in
progress with the tick of its trigger, the tick it ends and what follows it (1 stop, 2 hold), last state written of each
output (value, quality), batch, slices whose STOP or HOLD and whose APPLY wait for a scan (R217), and forces. -/
structure LgeProg where
  insts   : List LgeInst := []
  vars    : List LgeVar := []
  ins     : List Nat := []
  outs    : List (Nat × Nat) := []
  first   : Nat := 0
  ran     : Bool := false
  restart : Nat := 0
  lastUs  : Option Nat := none
  begun   : Nat := 0
  endAt   : Nat := 0
  after   : Nat := 0
  ovr     : Bool := false
  holdAt  : Nat := 0
  written : FMap (Option (Nat × Nat)) := []
  batch   : Option (List (Nat × Nat)) := none
  afterBy : List Nat := []
  batchBy : List Nat := []
  forces  : List (Nat × Nat) := []
  deriving DecidableEq, Repr, Inhabited

/-! ### CAN (chapter 13) -/

/-- A queued frame (R417): identifier and control words, data, slice that enqueued it, withdrawn or flushed while in
transmission (its status plus one, else 0). -/
structure CanTx where
  id   : Nat
  ctrl : Nat
  data : List Byte
  slice : Nat := 0
  gone : Nat := 0
  deriving DecidableEq, Repr, Inhabited

/-- A controller (R412–R425): its queue, slots of the FIFO and trump buffer in use, a due reference frame, the SOF of the
last one sent (seconds, nanoseconds with class), instant of the last one due in ms, recovery asked for, completions. -/
structure Can where
  queue   : List CanTx := []
  refDue  : Bool := false
  refLast : Option (Nat × Nat) := none
  refMs   : Nat := 0
  recover : Bool := false
  cseq    : Nat := 0
  deriving DecidableEq, Repr, Inhabited

/-! ### Start (chapter 16) -/

/-- A flash command in progress (R503): 1 read, 2 program, 3 erase; address, length, buffer. -/
structure XspiOp where
  cmd  : Nat
  addr : Nat
  len  : Nat
  buf  : Nat
  deriving DecidableEq, Repr

/-- Starts (R489–R497): the start that is due (0 none, 1 cold, 2 after a warm reset), tick of the end of reset, seed due,
recovery; the bolt digest and security version in force, the tokens written, MEM powered since the last of them; tick of
PFAIL_N's assertion and retention done since; flash commands in progress. -/
structure Boot where
  due     : Nat := 1
  resetAt : Nat := 0
  seedDue : Bool := true
  recovery : Bool := false
  digest  : List Byte := []
  secver  : Nat := 0
  token   : Nat := 0
  kept    : Bool := false
  pfailAt : Option Nat := none
  retained : Bool := false
  xspi    : FMap (Option XspiOp) := []
  deriving DecidableEq, Repr

/-! ### Execution complex (chapters 05 and 06) -/

/-- A pass in progress or a held release (R182–R187). `gp` is angle [47:9] of the release, `deadline` a `TIME_MONO`. -/
structure Pass where
  gp        : Nat := 0
  gridSeq   : Nat := 0
  seq       : Nat := 0
  deadline  : Nat := 0
  ref       : Nat := 0
  pclass    : Nat := 0
  crit      : Nat := 0
  restarted : Bool := false
  free      : Bool := false
  started   : Bool := false
  running   : Bool := false
  since     : Nat := 0
  execNs    : Nat := 0
  missed    : Bool := false
  overrun   : Bool := false
  budget    : Nat := 0
  deriving DecidableEq, Repr, Inhabited

/-- One bank of a slice's image (R180, R227). -/
structure ImgBank where
  valid : Bool := false
  gen   : Nat := 0
  seq   : Nat := 0
  gp    : Nat := 0
  deriving DecidableEq, Repr, Inhabited

/-- A slice's working state. `freeAt` is the instant of the next free release (R183), ns × 2^8 of `TIME_MONO`. -/
structure Slice where
  pass      : Option Pass := none
  held      : Option Pass := none
  cmiss     : Nat := 0
  everRun   : Bool := false
  bank      : Nat := 0
  img0      : ImgBank := {}
  img1      : ImgBank := {}
  capture   : Option ImgBank := none
  capArch   : List Byte := []
  capCells  : List Host.Cell := []
  armRel    : Option Pass := none
  waitAt    : Option (Nat × Nat) := none
  quiesceAt : Option Nat := none
  prevLife  : Nat := 0
  moveTo    : Option (Nat × Nat) := none
  saveNo    : Nat := 0
  dirty     : List Nat := []
  fresh     : Bool := false
  timeout   : Bool := false
  arch      : List Byte := []
  freeAt    : Option Nat := none
  lastGp    : Nat := 0
  deriving DecidableEq, Repr, Inhabited

/-- A twill pair's working state: slice running (number plus one, 0 none), isolations since the last start, tick of the
last rise of its level, tick since which it has been calm, busy spans for the utilisation of the last 10 ms, process identifier loaded at
the last dispatch (R211). -/
structure Pair where
  running   : Nat := 0
  isolated  : Nat := 0
  lastRise  : Nat := 0
  calmFrom  : Nat := 0
  isoAt     : Nat := 0
  busy      : List (Nat × Nat) := []
  bgFrom    : Nat := 0
  bgLast    : Nat := 0
  risen     : Bool := false
  pid       : Nat := 0
  deriving DecidableEq, Repr, Inhabited

/-- A grant table entry (R212, R215). -/
structure Grant where
  valid    : Bool := false
  revoking : Bool := false
  carry    : Bool := false
  use      : Bool := false
  wr       : Bool := false
  rd       : Bool := false
  ten      : Bool := false
  holder   : Nat := 0
  kind     : Nat := 0
  first    : Nat := 0
  count    : Nat := 0
  seqNo    : Nat := 0
  deriving DecidableEq, Repr, Inhabited

/-- The transfer unit (R230): slice, command, and its parameters. -/
structure Xfer where
  slice : Nat
  cmd   : Nat
  live  : Bool
  delta : Bool
  pair  : Nat
  page  : Nat
  deriving DecidableEq, Repr

/-! ### Keys (chapter 15) -/

/-- An operation in progress (R469): slice, command word, length, and the addresses of source, destination and parameter
block. -/
structure KeyOp where
  slice : Nat
  cmd   : Nat
  len   : Nat
  src   : Nat
  dst   : Nat
  par   : Nat
  deriving DecidableEq, Repr, Inhabited

/-! ### Ledger (chapter 14) -/

/-- A ledger record before it is in the array (R449, R450). -/
structure LedRec where
  sev    : Nat
  tsrc   : Nat
  guard  : Bool
  blk    : Nat
  code   : Nat
  opsec  : Nat
  pcycle : Nat
  t0     : Nat
  t1     : Nat
  t2     : Nat
  slice  : Nat
  pay    : List Nat
  at_    : Nat
  deriving DecidableEq, Repr

/-- The ledger: staged records, oldest first, and for each array slot in use its sequence number and severity plus one
(the slot's 64 octets stand in `mem`). -/
structure Ledger where
  staged  : List LedRec := []
  slots   : FMap (Nat × Nat) := []
  deriving DecidableEq, Repr

/-! ### Baize and the backup domain (chapter 14) -/

/-- A guard input's filter (R430): previous x and y as binary32 words, the squares of the window, newest first. -/
structure GuardIn where
  x    : Nat := 0
  y    : Nat := 0
  sq   : List Nat := []
  code : Nat := 0
  deriving DecidableEq, Repr, Inhabited

/-- A guard element (R431): sets counted, the bucket as a binary32 word, sets it has been held. -/
structure GuardEl where
  count  : Nat := 0
  bucket : Nat := 0
  hold   : Nat := 0
  deriving DecidableEq, Repr, Inhabited

/-- Baize (R427–R438). `active` is the settings set in force (R436); the registers hold the pending set. Sample sets
taken, their count at the last check, reference conversions since then; binary inputs as last accepted, before
inversion; tick of each output's closing; tick of the last mandate gain or rise of health. -/
structure Guard where
  active   : FMap Word := []
  sets     : Nat := 0
  lastSet  : Nat := 0
  refs     : List Nat := []
  lastTrig : Option Nat := none
  ins      : FMap GuardIn := []
  els      : FMap GuardEl := []
  outAt    : FMap Nat := []
  binRaw   : Nat := 0
  since    : Nat := 0
  events   : List LedRec := []
  lost     : Nat := 0
  deriving DecidableEq, Repr

/-- A copy of the hour meter and power-cycle count in the MRAM secure array (R447). -/
structure MeterCopy where
  seq    : Nat
  opsec  : Nat
  pcycle : Nat
  deriving DecidableEq, Repr

/-- The backup domain (R439–R448). `acc` accumulates 262,144 per 8 ns tick towards 10^9, one RTC tick. Position in the
trim window and the trim in effect; end of a PWR_ON_REQ pulse; ticks of the current metered second; the two copies, the
newer first, and a copy due; alarms that have not been tested in the present second (bit mask); year last checked; a
loss not yet recorded. -/
structure Backup where
  rtc      : Nat := 0
  acc      : Nat := 0
  trimPos  : Nat := 0
  trimN    : Int := 0
  pulseEnd : Option Nat := none
  meterAcc : Nat := 0
  copies   : List MeterCopy := [⟨0, 0, 0⟩]
  copyDue  : Bool := false
  almFresh : Nat := 0
  year     : Nat := 0
  lossRec  : Bool := false
  deriving DecidableEq, Repr

/-! ### Power, pins (chapters 01, 16, 17) -/

/-- Which power domains are on (R24); tick NX was powered (R55); levels of the enables, tick CX_EN rose and tick it is to
fall; NX_EN attempts that failed and tick of the next one (R511); the 25 MHz reference is present and stable (R22). -/
structure Power where
  cx     : Bool := true
  nx     : Bool := true
  mem    : Bool := true
  ao     : Bool := true
  bk     : Bool := true
  nxUpAt : Nat := 0
  cxEn   : Bool := true
  /-- The bolt has configured the compute die since it was powered (R335). -/
  cxConf : Bool := false
  nxEn   : Bool := true
  cxEnAt : Nat := 0
  cxOffAt : Option Nat := none
  tries  : Nat := 0
  retry  : Option Nat := none
  refOk  : Bool := true
  deriving DecidableEq, Repr

/-- A copy of the key store's helper data in the MRAM secure array: the data, the check value of the root, their CRC-32
(R460, R461). -/
structure HelperCopy where
  data  : List Byte
  check : BitVec 64
  crc   : Nat
  deriving DecidableEq, Repr, Inhabited

/-- The module's state. -/
structure State where
  /-- Commands waiting, first in, first out. -/
  pending    : List Instr := []
  /-- 125 MHz ticks since reset. -/
  clk        : Nat := 0
  /-- Counter of free values drawn: the model's own field. -/
  free       : Nat := 0
  regs       : FMap Word := []
  mem        : List Host.Cell := []
  /-- Words of 8 octets that patrol scrub poisoned (R502), by address / 8. -/
  poison     : List Nat := []
  readLatch  : FMap (Option Nat) := []
  writeLatch : FMap (Option Nat) := []
  latched    : FMap Nat := []
  reply      : FMap Reply := []
  out        : List Output := []
  power      : Power := {}
  complete   : Bool := false
  stall      : FMap Nat := []
  door       : FMap Nat := []
  staged     : FMap Staged := []
  xcommit    : XCommit := {}
  /-- Values of instances that grid points issued before an activation still work on, oldest first (R50). -/
  prior      : FMap (List Prior) := []
  time       : WallTime := {}
  trig       : FMap Trig := []
  bm         : FMap BmPort := []
  weft       : FMap Weft := []
  cen        : Census := {}
  pairs      : FMap Pair := []
  slices     : FMap Slice := []
  /-- Grid point closed last (angle [47:9] plus one, 0 none) of each reference, and its sequence. -/
  closedGp   : FMap Nat := []
  closedSeq  : FMap Nat := []
  grants     : FMap Grant := []
  grantSeq   : Nat := 0
  xfer       : Option Xfer := none
  led        : Ledger := {}
  sie        : FMap Sie := []
  openPts    : FMap (List OpenPt) := []
  /-- Octets of the frames in the SIE's input FIFO, oldest first (R107). -/
  sieIn      : List Nat := []
  fdcQ       : List Close := []
  psuQ       : List Close := []
  dzeQ       : List Close := []
  fdc        : FMap Fdc := []
  psu        : FMap Psu := []
  dze        : FMap Dze := []
  pubQ       : List PubReq := []
  pub        : FMap PubEnt := []
  watch      : FMap Watch := []
  subs       : FMap Sub := []
  swc        : Switch := {}
  red        : Red := {}
  cas        : Cas := {}
  boot       : Boot := {}
  tae        : FMap Recorder := []
  /-- Closings a recorder has still to write a row for. -/
  taeQ       : FMap (List Close) := []
  /-- Number of the last record of each recorder since cold start. -/
  recNo      : FMap Nat := []
  rgeQ       : FMap (List Close) := []
  loops      : FMap Loop := []
  lge        : FMap (Option LgeProg) := []
  can        : FMap Can := []
  /-- Next sequence number of each Luazar Link port and type (R319). -/
  lzSeq      : FMap Nat := []
  /-- Key material of the slots (R465). -/
  keys       : FMap (List Byte) := []
  /-- The two records of each persistent slot in the MRAM secure array (R473): records A and B of slot k at 2k, 2k + 1. -/
  secure     : FMap (List Byte) := []
  /-- The two copies of the helper data (R460). -/
  helper     : List HelperCopy := [⟨[], 0, 0x6522DF69⟩, ⟨[], 0, 0x6522DF69⟩]
  /-- The operation in progress for each master. -/
  keyOps     : FMap (Option KeyOp) := []
  guard      : Guard := {}
  bkd        : Backup := {}
  /-- Blocks that failed under R201 and R202, and a module fault (R202). -/
  blockFail  : List Nat := []
  /-- Ticks of the faults detected in the last second, newest first, by block × 8 + mechanism (R201). -/
  faults     : FMap (List Nat) := []
  /-- Ticks since which `XEC_TJ` has read above `t_up` and below `t_down` (R193). -/
  hotFrom    : Option Nat := none
  coolFrom   : Option Nat := none
  moduleFault : Bool := false
  deriving DecidableEq, Repr

/-- The module right after power is applied and its rails are up: a cold start is due (R491, R492). -/
def State.reset : State := {}

end Sys2Proof.Machine
end

