-- ==== Sys2Proof/Machine/Ops.lean ====
section
/-!
DEFINITION. The operations every family uses: registers and their fields, memory, replies, outputs, clocks, ledger
staging, access errors.
-/

namespace Sys2Proof.Machine

/-! ### Sparse tables with the default value of their type -/

/-- The entry at a key, the type's default where nothing is listed. -/
def FMap.at' {α : Type} [Inhabited α] (m : FMap α) (k : Nat) : α := FMap.get (fun _ => default) k m

/-- Put an entry. -/
def FMap.put {α : Type} [Inhabited α] [DecidableEq α] (m : FMap α) (k : Nat) (v : α) : FMap α :=
  FMap.set (fun _ => default) k v m

/-- Change an entry. -/
def FMap.mod {α : Type} [Inhabited α] [DecidableEq α] (m : FMap α) (k : Nat) (f : α → α) : FMap α :=
  m.put k (f (m.at' k))

/-! ### Registers -/

/-- The register word at an address. -/
def State.reg (s : State) (a : Nat) : Word := FMap.get resetWord a s.regs

/-- The register at an address as a number. -/
def State.rd (s : State) (a : Nat) : Nat := (s.reg a).toNat

/-- Put a register word. -/
def State.setReg (a : Nat) (v : Nat) (s : State) : State :=
  { s with regs := FMap.set resetWord a (BitVec.ofNat 32 v) s.regs }

/-- Bits `hi` down to `lo` of the register at an address. -/
def State.fld (s : State) (a hi lo : Nat) : Nat := bits (s.rd a) hi lo

/-- Bit `i` of the register at an address. -/
def State.bit (s : State) (a i : Nat) : Bool := bitAt (s.rd a) i

/-- Put bits `hi` down to `lo` of a register. -/
def State.setFld (a hi lo v : Nat) (s : State) : State := s.setReg a (setBits (s.rd a) hi lo v)

/-- Put bit `i` of a register. -/
def State.setBit (a i : Nat) (v : Bool) (s : State) : State := s.setFld a i i (b2n v)

/-- Set a bit of an event or error register. -/
def State.evt (a i : Nat) (s : State) : State := s.setBit a i true

/-- Advance a 32-bit counter that saturates. -/
def State.inc (a : Nat) (s : State) : State := s.setReg a (incSat 32 (s.rd a))

/-- Advance a 32-bit counter by `n`, saturating. -/
def State.incBy (a n : Nat) (s : State) : State := s.setReg a (min (s.rd a + n) (2 ^ 32 - 1))

/-- Advance a counter in a field that saturates. -/
def State.incFld (a hi lo : Nat) (s : State) : State := s.setFld a hi lo (incSat (hi + 1 - lo) (s.fld a hi lo))

/-- Advance a 32-bit count modulo 2^32. -/
def State.incMod (a : Nat) (s : State) : State := s.setReg a ((s.rd a + 1) % 2 ^ 32)

/-- Apply a change only when a condition holds. -/
def State.when (c : Bool) (f : State → State) (s : State) : State := if c then f s else s

/-- Apply a change for each element of a list, in order. -/
def State.each {α : Type} (l : List α) (f : α → State → State) (s : State) : State := l.foldl (fun t x => f x t) s

/-- The address of register `a` in the bank of master `m`. -/
def bank (m : Nat) (a : Nat) : Nat := a + (m + 1) * 2 ^ 44

/-- The shadow of the RWC register at `a` (R31). -/
def shadow (a : Nat) : Nat := a + 0x80000

/-- A 64-bit value of a low word and the word after it. -/
def State.rd64 (s : State) (lo : Nat) : Nat := s.rd lo + 2 ^ 32 * s.rd (lo + 4)

/-- Put a 64-bit value in a low word and the word after it. -/
def State.setReg64 (lo v : Nat) (s : State) : State := (s.setReg lo (v % 2 ^ 32)).setReg (lo + 4) (v / 2 ^ 32 % 2 ^ 32)

/-- A 40-bit address register pair whose low `z` bits are ignored. -/
def State.base (s : State) (lo z : Nat) : Nat := (s.rd lo + 2 ^ 32 * s.fld (lo + 4) 7 0) / 2 ^ z * 2 ^ z

/-! ### Memory -/

/-- What an unlisted byte reads as. -/
def memDefault (_ : Nat) : BitVec 8 := 0

/-- The byte at an address. -/
def State.rdByte (s : State) (a : Nat) : Byte := FMap.get memDefault a s.mem

/-- Store a byte. -/
def State.wrByte (a : Nat) (v : Byte) (s : State) : State :=
  { s with mem := FMap.set memDefault a v s.mem, poison := s.poison.filter (fun x => x != a / 8) }

/-- The `n` bytes from an address. -/
def State.rdBytes (s : State) (a n : Nat) : List Byte := (List.range n).map (fun i => s.rdByte (a + i))

/-- Store bytes from an address upward. -/
def State.wrBytes : Nat → List Byte → State → State
  | _, [], s => s
  | a, b :: rest, s => State.wrBytes (a + 1) rest (s.wrByte a b)

/-- The little-endian number of `n` bytes at an address (R12). -/
def State.ld (s : State) (a n : Nat) : Nat := leNat (s.rdBytes a n)

/-- Store `n` bytes of a number, little-endian (R12). -/
def State.st (a n v : Nat) (s : State) : State := s.wrBytes a (bytesLE n v)

/-- Store consecutive 32-bit words. -/
def State.stWords : Nat → List Nat → State → State
  | _, [], s => s
  | a, w :: rest, s => State.stWords (a + 4) rest (s.st a 4 w)

/-- The cells listed in `[a, a + n)`, as offsets from `a`. -/
def State.cells (s : State) (a n : Nat) : List Host.Cell :=
  (s.mem.filter (fun c => decide (a ≤ c.1 ∧ c.1 < a + n))).map (fun c => (c.1 - a, c.2))

/-- Make `[a, a + n)` read as unwritten. -/
def State.clearMem (a n : Nat) (s : State) : State :=
  { s with
    mem := s.mem.filter (fun c => !decide (a ≤ c.1 ∧ c.1 < a + n))
    poison := s.poison.filter (fun x => !decide (a ≤ 8 * x ∧ 8 * x < a + n)) }

/-- Store cells given as offsets from `a`. -/
def State.putCells (a : Nat) (l : List Host.Cell) (s : State) : State :=
  s.each l (fun c t => t.wrByte (a + c.1) c.2)

/-- Make `[dst, dst + n)` hold what the cells `l` (offsets below `n`) say. -/
def State.fill (dst n : Nat) (l : List Host.Cell) (s : State) : State := (s.clearMem dst n).putCells dst l

/-- Copy `n` bytes. -/
def State.copyMem (src dst n : Nat) (s : State) : State := s.fill dst n (s.cells src n)

/-- The `n` octets at `a` hold a word with an uncorrectable error (R202). -/
def State.poisoned (s : State) (a n : Nat) : Bool := s.poison.any (fun x => decide (a < 8 * x + 8 ∧ 8 * x < a + n))

/-- Memory's canonical form: addresses strictly rising, no entry equal to what an unlisted address reads as. -/
abbrev Memory.wf (m : List Host.Cell) : Bool := FMap.wf memDefault m

/-! ### Outputs, replies, free values -/

/-- Something leaves the module. -/
def State.emit (o : Output) (s : State) : State := { s with out := s.out ++ [o] }

/-- The answer to a master's access. -/
def State.answer (m : Nat) (r : Reply) (s : State) : State := { s with reply := s.reply.put m r }

/-- The canonical form of the masters' answers. -/
abbrev Replies.wf (m : FMap Reply) : Bool := FMap.wf (fun _ => default) m

/-- The canonical form of a table of working state. -/
abbrev FMap.tidy {α : Type} [Inhabited α] [DecidableEq α] (m : FMap α) : Bool := FMap.wf (fun _ => default) m

/-- The tables of working state are in canonical form. -/
def State.Tables (s : State) : Prop :=
  FMap.tidy s.readLatch = true ∧ FMap.tidy s.writeLatch = true ∧ FMap.tidy s.latched = true ∧
  FMap.tidy s.stall = true ∧ FMap.tidy s.door = true ∧ FMap.tidy s.staged = true ∧
  FMap.tidy s.trig = true ∧ FMap.tidy s.bm = true ∧ FMap.tidy s.weft = true ∧
  FMap.tidy s.pairs = true ∧ FMap.tidy s.slices = true ∧ FMap.tidy s.closedGp = true ∧
  FMap.tidy s.closedSeq = true ∧ FMap.tidy s.grants = true ∧ FMap.tidy s.sie = true ∧
  FMap.tidy s.openPts = true ∧ FMap.tidy s.fdc = true ∧ FMap.tidy s.psu = true ∧
  FMap.tidy s.dze = true ∧ FMap.tidy s.pub = true ∧ FMap.tidy s.watch = true ∧
  FMap.tidy s.subs = true ∧ FMap.tidy s.tae = true ∧ FMap.tidy s.taeQ = true ∧
  FMap.tidy s.recNo = true ∧ FMap.tidy s.rgeQ = true ∧ FMap.tidy s.loops = true ∧
  FMap.tidy s.lge = true ∧ FMap.tidy s.can = true ∧ FMap.tidy s.lzSeq = true ∧
  FMap.tidy s.keys = true ∧ FMap.tidy s.secure = true ∧ FMap.tidy s.keyOps = true ∧
  FMap.tidy s.prior = true ∧ FMap.tidy s.faults = true

/-- The access was accepted. -/
def State.ok (w : Who) (s : State) : State := s.answer w.master {}

/-- The access was accepted and read `v`. -/
def State.okData (w : Who) (v : Nat) (s : State) : State := s.answer w.master { data := v }

/-- One free value has been drawn. -/
def State.drew (s : State) : State := { s with free := s.free + 1 }

/-! ### Clocks -/

/-- 8 ns ticks in a microsecond, a millisecond, a second. -/
abbrev tUs : Nat := 125
abbrev tMs : Nat := 125000
abbrev tSec : Nat := 125000000

/-- `TIME_MONO`: raw ticks since NX was powered (R55). -/
def State.mono (s : State) : Nat := (s.clk - s.power.nxUpAt) % 2 ^ 64

/-- The time unit's reading in ns since the epoch (R53). -/
def State.wallNs (s : State) : Nat := s.time.sec * 1000000000 + s.time.ns

/-- The time unit's values are in range: ns below a second, fraction below one ns, increment within 0.05 % of 8 ns. -/
def TimeOk (t : WallTime) : Prop :=
  t.ns < 1000000000 ∧ t.frac < 2 ^ 32 ∧ 7996 * 2 ^ 32 ≤ t.incr * 1000 ∧ t.incr * 1000 ≤ 8004 * 2 ^ 32

/-- The synchronisation class (R56). -/
def State.syncClass (s : State) : Nat := s.fld TIME_STAT 5 4

/-- TS32 of an instant in ns (R64). -/
def ts32 (ns : Nat) : Nat := ns % 2 ^ 32

/-! ### Ledger staging (R449–R452, R531) -/

/-- The lowest severity present in a staging list. -/
def minSev : List LedRec → Nat
  | [] => 8
  | r :: rest => min r.sev (minSev rest)

/-- Take out the newest record of severity `v` (the list is oldest first). -/
def dropNewest (v : Nat) (l : List LedRec) : List LedRec :=
  let r := l.reverse
  let i := r.findIdx (fun x => x.sev == v)
  (r.eraseIdx i).reverse

/-- Stage a record; a full staging area replaces the newest record of the lowest severity, or drops the new one
(R452). -/
def State.stageRec (r : LedRec) (s : State) : State :=
  if s.led.staged.length < 1024 then { s with led := { s.led with staged := s.led.staged ++ [r] } }
  else
    let s := (s.inc LED_STAGE_DROP).evt LED_EVT 1
    if minSev s.led.staged < r.sev then
      { s with led := { s.led with staged := dropNewest (minSev s.led.staged) s.led.staged ++ [r] } }
    else s

/-- The record of an event at the present time (R450): the time unit's reading while NX runs, RTC ticks otherwise. -/
def State.mkRec (s : State) (sev blk code : Nat) (pay : List Nat) (slice : Nat) : LedRec :=
  let meter := s.bit BKD_STAT 3
  let src := if s.power.nx then (if s.syncClass = 0 then 0 else s.syncClass + 1)
             else if s.bit BKD_STAT 0 then 1 else 0
  { sev := sev, tsrc := src, guard := false, blk := blk, code := code
    opsec := if meter then s.rd BKD_OPSEC else 2 ^ 32 - 1
    pcycle := if meter then s.rd BKD_PCYCLE else 2 ^ 32 - 1
    t0 := if 2 ≤ src then s.time.ns else if src = 1 then s.bkd.rtc % 2 ^ 32 else 0
    t1 := if 2 ≤ src then s.time.sec % 2 ^ 32 else if src = 1 then s.bkd.rtc / 2 ^ 32 else 0
    t2 := if 2 ≤ src then s.time.sec / 2 ^ 32 % 2 ^ 16 else 0
    slice := slice, pay := pay, at_ := s.clk }

/-- A hardware record of an event register's bit (R450): payload word 0 holds the register's offset in the block window
and the bit; `extra` are words 1–7. -/
def State.ledger (sev blk code reg b : Nat) (extra : List Nat) (s : State) : State :=
  s.stageRec (s.mkRec sev blk code ((reg % 0x100000 + b * 2 ^ 24) :: extra) 0)

/-- A hardware record without an event bit (R531). -/
def State.ledgerBare (sev blk code b : Nat) (extra : List Nat) (s : State) : State :=
  s.stageRec (s.mkRec sev blk code ((0xFFFFF + b * 2 ^ 24) :: extra) 0)

/-! ### Access errors (R26, R32, R33, R36, R37) -/

/-- Capture an access error: the first is held until cleared, a later one sets overflow (R36). -/
def State.captureErr (w : Who) (addr : Nat) (write : Bool) (kind : Nat) (s : State) : State :=
  if s.bit SYS_ACC_ERR_INFO 31 then s.evt SYS_ACC_ERR_INFO 30
  else
    ((s.setReg SYS_ACC_ERR_ADDR_LO (addr % 2 ^ 32)).setReg SYS_ACC_ERR_ADDR_HI (addr / 2 ^ 32 % 2 ^ 8)).setReg
      SYS_ACC_ERR_INFO (2 ^ 31 + w.slice * 2 ^ 16 + w.master * 2 ^ 12 + b2n write * 2 ^ 11 + kind)

/-- An access that ends with an error response: captured, answered with the error. -/
def State.errResp (w : Who) (addr : Nat) (write : Bool) (kind : Nat) (s : State) : State :=
  (s.captureErr w addr write kind).answer w.master { err := true }

/-- The domain of a block (R17) is on. -/
def State.blkOn (s : State) (b : Nat) : Bool :=
  if [2, 3, 4, 5, 6, 7, 8, 14, 15, 16].contains b then s.power.cx
  else if b = 22 ∨ b = 19 then s.power.ao
  else if b = 21 then s.power.bk
  else s.power.nx

/-- The domain of a memory address (R17, R28) is on. -/
def State.memOn (s : State) (a : Nat) : Bool :=
  if a < 0x200000000 then s.power.mem
  else if 0x4800000000 ≤ a then s.power.mem
  else s.power.cx

end Sys2Proof.Machine
end

