-- ==== Sys2Proof/Machine/Sched.lean ====
section
/-!
DEFINITION. Slices, passes and pairs: dispatch (R186), release (R187), misses and aborts (R188, R190), images (R180),
the overload ladder (R192, R193), grants (R212) and violations (R214).
-/

namespace Sys2Proof.Machine

/-! ### Slice configuration -/

def State.slEn (s : State) (n : Nat) : Bool := s.bit (XEC_SL_CFG n) 31
def State.slRef (s : State) (n : Nat) : Nat := s.fld (XEC_SL_CFG n) 30 27
def State.slClass (s : State) (n : Nat) : Nat := s.fld (XEC_SL_CFG n) 26 25
def State.slPair (s : State) (n : Nat) : Nat := s.fld (XEC_SL_CFG n) 22 19
def State.slPhase (s : State) (n : Nat) : Nat := s.fld (XEC_SL_CFG n) 18 13

/-- Criticality; slice 0's reads A (R196). -/
def State.slCrit (s : State) (n : Nat) : Nat := if n = 0 then 0 else s.fld (XEC_SL_CFG n) 24 23

/-- Budget in ns (units of 50 ns). -/
def State.slBudget (s : State) (n : Nat) : Nat := s.fld (XEC_SL_BUDGET n) 19 0 * 50

/-- Tenant of a slice (R210). -/
def State.slTenant (s : State) (n : Nat) : Nat := s.fld (XEC_SL_BIND n) 3 0

/-- The settings of a tenant: tenant 0 is always enabled, with ceiling A and every pair (R206). -/
def State.tenCfg (s : State) (t : Nat) : Nat :=
  let v := s.rd (XEC_TEN_CFG t)
  if t = 0 then setBits (setBits v 2 0 1) 15 4 0xFFF else v

/-- Life state (R219). -/
def State.life (s : State) (n : Nat) : Nat := s.fld (XEC_SL_XSTAT n) 2 0

/-- Run state as shown in `XEC_SL_STAT`. -/
def State.run (s : State) (n : Nat) : Nat := s.fld (XEC_SL_STAT n) 2 0

def State.setRun (n v : Nat) (s : State) : State := s.setFld (XEC_SL_STAT n) 2 0 v
def State.setLife (n v : Nat) (s : State) : State := s.setFld (XEC_SL_XSTAT n) 2 0 v

/-- Period of a pass class in grid points (R184); 1 for background, which has none. -/
def period : Nat → Nat
  | 0 => 2
  | 1 => 8
  | 2 => 64
  | _ => 1

def State.sl (s : State) (n : Nat) : Slice := s.slices.at' n
def State.modSl (n : Nat) (f : Slice → Slice) (s : State) : State := { s with slices := s.slices.mod n f }
def State.pr (s : State) (p : Nat) : Pair := s.pairs.at' p
def State.modPr (p : Nat) (f : Pair → Pair) (s : State) : State := { s with pairs := s.pairs.mod p f }

/-- State of a pair (R177). -/
def State.pairState (s : State) (p : Nat) : Nat := s.fld (XEC_PAIR_STAT p) 2 0

/-- Level in effect on a pair: the larger of its overload level and the thermal level (R193). -/
def State.level (s : State) (p : Nat) : Nat := max (s.fld (XEC_PAIR_STAT p) 7 6) (s.fld XEC_STAT 1 0)

/-- Show the level in effect of pair `p`. -/
def State.showLevel (p : Nat) (s : State) : State := s.setFld (XEC_PAIR_STAT p) 5 4 (s.level p)

/-! ### Grants (R212) -/

/-- A valid grant of kind `k` that covers unit `i` with right `r`, held by slice `n` or by its tenant. -/
def Grant.covers (g : Grant) (n ten k i : Nat) (r : Right) : Bool :=
  g.valid && !g.revoking && g.kind == k && decide (g.first ≤ i ∧ i < g.first + g.count)
    && (if g.ten then g.holder == ten else g.holder == n)
    && (match r with | .rd => g.rd | .wr => g.wr | .use => g.use)

/-- Slice 0 and the debug access port pass without grants. -/
def privileged (w : Who) : Bool := w.slice.val == 0 || w.master.val == 12

/-- The access passes R212 on unit `i` of kind `k`. -/
def State.may (s : State) (w : Who) (k i : Nat) (r : Right) : Bool :=
  privileged w || s.grants.any (fun g => g.2.covers w.slice (s.slTenant w.slice) k i r)

/-- The slice holds some grant of kind `k` (R213). -/
def State.holdsKind (s : State) (w : Who) (k : Nat) : Bool :=
  privileged w || s.grants.any (fun g => g.2.valid && !g.2.revoking && g.2.kind == k
    && (if g.2.ten then g.2.holder == s.slTenant w.slice else g.2.holder == w.slice.val))

/-- The kind 3 grant of a slice: its pair-window pages. -/
def State.windowGrant (s : State) (n : Nat) : Option (Nat × Grant) :=
  s.grants.find? (fun g => g.2.valid && g.2.kind == 3 && !g.2.ten && g.2.holder == n)

/-- Address of a pair-window page index (R29, R212). -/
def windowAddr (page : Nat) : Nat := 0x4002400000 + page * 0x1000

/-! ### Life commands (R230) and the transfer unit -/

/-- A command of slice `n` to the program waits for a scan (R217). -/
def LgeProg.waitsFor (g : LgeProg) (n : Nat) : Bool :=
  (g.after != 0 && g.afterBy.contains n) || (g.batch.isSome && g.batchBy.contains n)

def State.lifeResult (n r : Nat) (s : State) : State := s.setFld (XEC_SL_XSTAT n) 11 8 r
def State.lifeBusy (n : Nat) (b : Bool) (s : State) : State := s.setBit (XEC_SL_XSTAT n) 12 b
def State.lifeEvt (n b : Nat) (s : State) : State := s.evt (XEC_SL_XEVT n) b

/-- The transfer unit is free again. -/
def State.xferEnd (n : Nat) (s : State) : State := ({ s with xfer := none }.setBit XEC_XFER_STAT 0 false).lifeBusy n false

/-! ### Images (R180, R227) -/

/-- Address of bank `b` of slice `n`'s image. -/
def State.imageAddr (s : State) (n b : Nat) : Nat := s.base XEC_PBS_BASE_LO 30 + (2 * n + b) * 0x101000

/-- The bank that holds the last complete image. -/
def Slice.curImg (sl : Slice) : ImgBank := if sl.bank = 0 then sl.img0 else sl.img1

/-- Load the last complete image of a slice: its window region and architectural state. -/
def State.loadImage (n : Nat) (s : State) : State :=
  let sl := s.sl n
  if sl.curImg.valid then
    let a := s.imageAddr n sl.bank
    let s := match s.windowGrant n with
      | some g => s.copyMem (a + 0x1000) (windowAddr g.2.first) (g.2.count * 0x1000)
      | none => s
    let arch := s.rdBytes a 0xF00
    s.modSl n (fun sl => { sl with arch := arch })
  else s.modSl n (fun sl => { sl with everRun := false })

/-! ### Tracked writes (R229, R232) -/

/-- Carry regions of a slice in entry order: first 64 KiB unit and count (R229). -/
def State.carries (s : State) (n : Nat) : List (Nat × Nat) :=
  (s.grants.filter (fun g => g.2.valid && g.2.carry && g.2.kind == 1 && !g.2.ten && g.2.holder == n)).map
    (fun g => (g.2.first, g.2.count))

/-- Carry regions laid out in the container: offset from 0x104000, address, octets. -/
def carryLayout : Nat → List (Nat × Nat) → List (Nat × Nat × Nat)
  | _, [] => []
  | off, (f, c) :: rest => (off, f * 2 ^ 16, c * 2 ^ 16) :: carryLayout (off + c * 2 ^ 16) rest

/-- Lines of 64 octets that `k` octets at offset `off` touch. -/
def linesOf (off k : Nat) : List Nat :=
  if k = 0 then [] else (List.range ((off + k - 1) / 64 + 1 - off / 64)).map (off / 64 + ·)

/-- The part of `k` octets at `a` that lies in a region of `n` octets at `b`, as lines from line offset `o`. -/
def linesIn (a k b n o : Nat) : List Nat :=
  let lo := max a b
  let hi := min (a + k) (b + n)
  linesOf (o + lo - b) (hi - lo)

/-- A master writes `k` octets at `a`: lines of tracked slices are marked (R232). -/
def State.trackWrite (a k : Nat) (s : State) : State :=
  s.each (s.slices.map (·.1)) (fun n s =>
    if s.bit (XEC_SL_XSTAT n) 13 = false then s else
    let win := match s.windowGrant n with
      | some (_, g) => linesIn a k (windowAddr g.first) (g.count * 0x1000) 0x1000
      | none => []
    let car := (carryLayout 0 (s.carries n)).flatMap (fun r => linesIn a k r.2.1 r.2.2 (0x101000 + r.1))
    s.modSl n (fun sl => { sl with dirty := (win ++ car).foldl (fun l i => if l.contains i then l else l ++ [i]) sl.dirty }))

/-- RED marks the 1 KiB blocks of the point area that a DRAM write of `k` octets at `a` reaches (R332). -/
def State.markBlocks (a k : Nat) (s : State) : State :=
  let b := s.base PTS_BASE_LO 28
  let lo := max a b
  let hi := min (a + k) (b + 2 ^ 28)
  if s.power.cx && decide (lo < hi) then
    s.each (List.range ((hi - 1 - b) / 1024 + 1 - (lo - b) / 1024)) (fun i s =>
      { s with red := { s.red with dirty := s.red.dirty.put ((lo - b) / 1024 + i) 1 } })
  else s

/-- A master writes `k` octets at `a` in DRAM or in a pair window: who keeps account of that. -/
def State.wrote (a k : Nat) (s : State) : State := (s.trackWrite a k).markBlocks a k

/-- A master stores octets, consecutive 32-bit words, or a copy of `n` octets. -/
def State.dma (a : Nat) (l : List Byte) (s : State) : State := (s.wrote a l.length).wrBytes a l
def State.dmaWords (a : Nat) (l : List Nat) (s : State) : State := (s.wrote a (4 * l.length)).stWords a l
def State.dmaCopy (src dst n : Nat) (s : State) : State := (s.wrote dst n).copyMem src dst n

/-! ### Dispatch (R186) -/

/-- The order of R186: pass class, criticality, earlier deadline, lower slice number. -/
def before (a b : Nat × Pass) : Bool :=
  if a.2.pclass ≠ b.2.pclass then a.2.pclass < b.2.pclass
  else if a.2.crit ≠ b.2.crit then a.2.crit < b.2.crit
  else if a.2.deadline ≠ b.2.deadline then a.2.deadline < b.2.deadline
  else a.1 < b.1

/-- The slices of pair `p` with a pass not ended. -/
def State.contenders (s : State) (p : Nat) : List (Nat × Pass) :=
  s.slices.filterMap (fun e => match e.2.pass with
    | some ps => if e.1 < 256 ∧ s.slPair e.1 = p ∧ s.run e.1 ≠ 6 then some (e.1, ps) else none
    | none => none)

/-- The first of a list in the order of R186. -/
def firstOf : List (Nat × Pass) → Option (Nat × Pass)
  | [] => none
  | x :: rest => match firstOf rest with
    | none => some x
    | some y => if before x y then some x else some y

/-- Execution time of a pass up to now, ns; time preempted is excluded (R185). -/
def Pass.exec (ps : Pass) (now : Nat) : Nat := if ps.running then ps.execNs + 8 * (now - ps.since) else ps.execNs

/-- Busy spans that reach into the last 10 ms. -/
def keepBusy (now : Nat) (l : List (Nat × Nat)) : List (Nat × Nat) := l.filter (fun b => decide (now < b.2 + 10 * tMs))

/-- Take the running slice off the pair. -/
def State.suspend (p : Nat) (s : State) : State :=
  let r := (s.pr p).running
  if r = 0 then s else
  let n := (r - 1) % 256
  let now := s.clk
  let s := s.modPr p (fun q => { q with
    running := 0, bgFrom := 0, busy := keepBusy now (q.busy ++ [((match (s.sl n).pass with | some ps => ps.since | none => q.bgFrom), now)]) })
  match (s.sl n).pass with
  | some ps => (s.modSl n (fun sl => { sl with
      pass := some { ps with execNs := ps.exec now, running := false } })).setRun n 3
  | none => s.setRun n 1

/-- Put slice `n`'s pass on the pair. -/
def State.startPass (p n : Nat) (s : State) : State :=
  match (s.sl n).pass with
  | some ps =>
    ((s.modSl n (fun sl => { sl with
        pass := some { ps with running := true, started := true, since := s.clk, budget := s.slBudget n }, everRun := true })).modPr p
      (fun q => { q with running := n + 1, pid := s.fld (XEC_SL_BIND n) 31 16 })).setRun n 2
  | none => s

/-- The next background slice of a pair after `last`, round-robin (R182). -/
def State.nextBackground (s : State) (p last : Nat) : Option Nat :=
  let ok := fun n => s.slEn n && s.slClass n == 3 && s.slPair n == p && s.life n == 1 && s.run n != 6
  let later := (List.range 256).filter (fun n => decide (last < n))
  match later.find? ok with
  | some n => some n
  | none => (List.range 256).find? ok

/-- Give the pair to the pass that comes first (R186), to a background slice when none is released and the level in
effect is 0 (R182, R193), or to nothing. -/
def State.dispatch (p : Nat) (s : State) : State :=
  if s.pairState p ≠ 1 ∨ s.bit XEC_CTL 0 = false then s else
  let r := (s.pr p).running
  match firstOf (s.contenders p) with
  | some (n, _) => if r = n + 1 then s else (s.suspend p).startPass p n
  | none =>
    if s.level p = 0 then
      if r ≠ 0 then s else
      match s.nextBackground p (s.pr p).bgLast with
      | some n =>
        ((s.modPr p (fun q => { q with running := n + 1, bgFrom := s.clk, bgLast := n, pid := s.fld (XEC_SL_BIND n) 31 16 })).setRun n 2).modSl n
          (fun sl => { sl with everRun := true })
      | none => s
    else s.suspend p

/-! ### Misses, aborts, violations -/

/-- A release of slice `n` counts as a miss (R188). -/
def State.miss (n : Nat) (s : State) : State :=
  let c := (s.sl n).cmiss + 1
  ((((s.modSl n (fun sl => { sl with cmiss := c })).setFld (XEC_SL_STAT n) 7 4 (min c 15)).inc (XEC_SL_MISSES n)).inc
    (XEC_PAIR_MISS (s.slPair n))).evt (XEC_SL_EVT n) 0

/-- Show what a release is (R205). -/
def State.showRelease (n : Nat) (ps : Pass) (s : State) : State :=
  (s.setBit (XEC_SL_STAT n) 8 ps.restarted).setBit (XEC_SL_STAT n) 9 ps.free

/-- The slice's pass is over: a held release takes its place (R187), else the slice waits. -/
def State.passOver (n : Nat) (s : State) : State :=
  let sl := s.sl n
  let s := match sl.held with
    | some h => ((s.modSl n (fun sl => { sl with pass := some h, held := none })).setRun n 1).showRelease n h
    | none => (s.modSl n (fun sl => { sl with pass := none })).setRun n 1
  s

/-- The running pass of the pair leaves it without being preempted. -/
def State.offPair (n : Nat) (s : State) : State :=
  let p := s.slPair n
  if (s.pr p).running = n + 1 then
    let now := s.clk
    s.modPr p (fun q => { q with
      running := 0, busy := keepBusy now (q.busy ++ [((match (s.sl n).pass with | some ps => ps.since | none => q.bgFrom), now)]) })
  else s

/-- A slice's code meets an unrecoverable exception (R190): it leaves its pair and is restored from its last complete image;
`exception` is set and a ledger record with the cause is written. -/
def State.takeException (n cause code pc seq : Nat) (s : State) : State :=
  let s := ((s.offPair n).modSl n (fun sl => { sl with waitAt := none })).loadImage n
  (s.evt (XEC_SL_EVT n) 6).ledger 3 7 n (XEC_SL_EVT n) 6
    [cause, pc % 2 ^ 32, pc / 2 ^ 32 % 2 ^ 32, seq, if cause = 5 then code else 0]

/-- A pass is aborted (R190): its release counts as a miss. A background slice has no release: its run is aborted, with the
sequence number it shows in the record (DEDUCED). -/
def State.abortPass (n cause code pc : Nat) (s : State) : State :=
  match (s.sl n).pass with
  | none =>
    if (s.pr (s.slPair n)).running = n + 1 then
      ((s.takeException n cause code pc (s.rd (XEC_SL_SEQ n))).setRun n 1).dispatch (s.slPair n)
    else s
  | some ps =>
    let s := (if ps.missed then s else s.miss n).takeException n cause code pc ps.seq
    (s.passOver n).dispatch (s.slPair n)

/-- The code of a right in `XEC_VIOL_INFO`. -/
def rightCode : Right → Nat
  | .rd => 0
  | .wr => 1
  | .use => 2

/-- A grant violation (R214): the access has no effect; it is captured, counted, recorded, and the pass aborted. -/
def State.violate (w : Who) (kind index : Nat) (r : Right) (s : State) : State :=
  let n := w.slice.val
  let t := s.slTenant n
  let s := if s.bit XEC_VIOL_INFO 31 then s.evt XEC_VIOL_INFO 30
    else ((s.setReg XEC_VIOL_ADDR_LO (index % 2 ^ 32)).setReg XEC_VIOL_ADDR_HI (index / 2 ^ 32 % 2 ^ 8)).setReg
      XEC_VIOL_INFO (2 ^ 31 + n * 2 ^ 16 + t * 2 ^ 12 + kind * 2 ^ 8 + rightCode r * 2 ^ 4 + w.master.val)
  let s := ((s.inc XEC_VIOL_CNT).inc (XEC_TEN_VIOL t)).evt (XEC_SL_XEVT n) 8
  let s := s.ledger 4 7 n (XEC_SL_XEVT n) 8 []
  (s.answer w.master { viol := true }).abortPass n 3 0 w.pc.toNat

/-- The master is a pair that issues nothing: a fence instruction is not complete (R41), or the pass waits in MARK.WAIT
(R203); or nothing it issues reaches a target, since it is isolated (R176). -/
def State.stalled (s : State) (w : Who) : Bool :=
  decide (w.master.val < 12) && (decide (s.stall.at' w.master ≠ 0) || [3, 4, 5].contains (s.pairState w.master)
    || (match (s.pr w.master).running with
      | 0 => false
      | n + 1 => (s.sl n).waitAt.isSome))

/-- An access that ends with an error response; a pair's read that ends so aborts the pass (R190). -/
def State.accessErr (w : Who) (addr : Nat) (write : Bool) (kind : Nat) (s : State) : State :=
  let t := s.errResp w addr write kind
  if write || w.master.val == 12 then t
  else t.abortPass w.slice 4 0 w.pc.toNat

/-- The way of a register access: nothing from a stalled pair, an error response when the block's domain is off (R26), a violation when the grant
check fails (R212, R213), else the effect. -/
def State.gate (w : Who) (addr : Nat) (write : Bool) (allowed : Bool) (kind index : Nat) (r : Right)
    (f : State → State) (s : State) : State :=
  if s.stalled w then s
  else if !s.blkOn (blkOf addr) then s.accessErr w addr write 3
  else if !allowed then s.violate w kind index r
  else f (s.ok w)

/-- A write reached by slice 0 only (R213). -/
def State.gateSup (w : Who) (addr : Nat) (f : State → State) (s : State) : State :=
  s.gate w addr true (privileged w) 0 addr .wr f

/-- A write checked against a grant of kind `k` on unit `i` (R212). -/
def State.gateGrant (w : Who) (addr k i : Nat) (r : Right) (f : State → State) (s : State) : State :=
  s.gate w addr true (s.may w k i r) k i r f

/-! ### Overload (R192, R193) and release (R187) -/

/-- Utilisation of a pair over the last 10 ms, per cent. -/
def State.util (s : State) (p : Nat) : Nat :=
  let q := s.pr p
  let from_ := s.clk - 10 * tMs
  let open_ : List (Nat × Nat) := if q.running = 0 then [] else
    [((match (s.sl (q.running - 1)).pass with | some ps => ps.since | none => q.bgFrom), s.clk)]
  let busy := ((q.busy ++ open_).map (fun b => b.2 - max b.1 from_)).foldl (· + ·) 0
  busy * 100 / (10 * tMs)

/-- Execution a pass still needs, ns (R192). -/
def State.remaining (s : State) (e : Nat × Pass) : Nat :=
  let b := if e.2.started then e.2.budget else s.slBudget e.1
  (if b = 0 then s.rd (XEC_SL_EXEC_MAX e.1) else b) - e.2.exec s.clk

/-- The pair is at risk (R192). -/
def State.atRisk (s : State) (p : Nat) : Bool :=
  let c := s.contenders p
  c.any (fun e =>
    decide (e.2.crit ≤ 1) && (e.2.overrun ||
      (let ahead := c.filter (fun x => before x e)
       let need := s.remaining e + (ahead.map s.remaining).foldl (· + ·) 0
       decide (e.2.deadline < s.mono + (need + 7) / 8))))

/-- OVERLOAD_RISE at a release on pair `p` (R193). -/
def State.overloadRise (p : Nat) (s : State) : State :=
  let risk := s.atRisk p
  let hi := min (s.fld XEC_OVL_CFG 7 0) 100
  let lo := min (s.fld XEC_OVL_CFG 15 8) 100
  let u := s.util p
  let s := s.setBit (XEC_PAIR_STAT p) 17 risk
  let s := if risk || decide (lo ≤ u) then s.modPr p (fun q => { q with calmFrom := s.clk }) else s
  let q := s.pr p
  if s.bit XEC_CTL 1 && (risk || decide (hi < u)) && decide (s.fld (XEC_PAIR_STAT p) 7 6 < 3)
      && (!q.risen || decide (q.lastRise + 100 * tUs ≤ s.clk)) then
    let s := s.setFld (XEC_PAIR_STAT p) 7 6 (s.fld (XEC_PAIR_STAT p) 7 6 + 1)
    let s := s.modPr p (fun q => { q with lastRise := s.clk, risen := true })
    ((s.inc XEC_LADDER_CNT).evt (XEC_PAIR_EVT p) 5).showLevel p
  else s

/-- The overload ladder withholds a release of slice `n` with sequence number `seq` (R193). -/
def State.sheds (s : State) (n seq : Nat) : Bool :=
  let l := s.level (s.slPair n)
  let thr := max (s.fld XEC_OVL_CFG 27 24) 2
  n != 0 && ((decide (2 ≤ l) && s.slCrit n == 3) || (l == 3 && s.slCrit n == 2 && seq % thr != 0))

/-- Admit a release (R187): it is the slice's pass, or it is held and replaces an older held release, a miss. -/
def State.takeIn (n : Nat) (ps : Pass) (s : State) : State :=
  let sl := s.sl n
  if sl.pass.isSome || s.life n == 4 then
    let s := match sl.held with
      | some h => if h.missed then s else s.miss n
      | none => s
    let s := s.modSl n (fun sl => { sl with held := some ps })
    if s.life n = 4 then s.setRun n 4 else s
  else
    let s := (s.modSl n (fun sl => { sl with pass := some ps })).setRun n 1
    (s.showRelease n ps).dispatch (s.slPair n)

/-- Pass sequence number of the first pass after a RESUME (R234): seq_i + (G_r − G_i) / P, when an image is held. -/
def State.resumeSeq (s : State) (n gp : Nat) : Nat :=
  let i := (s.sl n).curImg
  if i.valid then (i.seq + (gp + 2 ^ 40 - i.gp) % 2 ^ 32 / period (s.slClass n)) % 2 ^ 32 else s.rd (XEC_SL_SEQ n)

/-- The first release after a RESUME takes its number from R234. -/
def State.resumed (n gp : Nat) (s : State) : State :=
  if (s.sl n).fresh then (s.setReg (XEC_SL_SEQ n) (s.resumeSeq n gp)).modSl n (fun sl => { sl with fresh := false }) else s

/-- PASS_RELEASE: one release point of slice `n` (R182, R187, R193, R204, R222). -/
def State.releasePoint (n : Nat) (ps : Pass) (s : State) : State :=
  if s.slEn n = false ∨ s.run n = 6 ∨ s.life n = 0 ∨ s.bit XEC_CTL 0 = false then s else
  let s := (s.incMod (XEC_SL_SEQ n)).modSl n (fun sl => { sl with lastGp := ps.gp })
  let s := if s.life n = 1 then s.resumed n ps.gp else s
  let ps := { ps with seq := s.rd (XEC_SL_SEQ n) }
  let l := s.life n
  if l = 7 then
    let d := (ps.gp + 2 ^ 40 - s.rd (XEC_SL_RESUME_AT n)) % 2 ^ 32
    if d < 2 ^ 31 then s.modSl n (fun sl => { sl with armRel := some ps }) else s.inc (XEC_SL_SKIP n)
  else if l = 2 ∨ l = 3 ∨ l = 5 ∨ l = 6 then s.inc (XEC_SL_SKIP n)
  else if s.sheds n ps.seq then
    let s := (s.inc (XEC_SL_SHED n)).evt (XEC_SL_EVT n) 5
    let s := if (s.sl n).pass.isSome then s else s.setRun n 5
    s.overloadRise (s.slPair n)
  else (s.takeIn n ps).overloadRise (s.slPair n)

end Sys2Proof.Machine
end

