-- ==== Sys2Proof/Machine/Health.lean ====
section
/-!
DEFINITION. Module health (R323, R324), the arming of Baize (R433), the closing of its outputs (R434) and its event
records (R437, R27).
-/

namespace Sys2Proof.Machine

/-! ### Pins -/

/-- The level of a pin the module drives, as last put out: active-low pins rest high. -/
def State.drive (p : Pin) (high : Bool) (s : State) : State := s.emit (.pin p high)

/-! ### Baize events (R437) -/

/-- LED takes records: network die and MRAM on, no scan in progress. -/
def State.ledRunning (s : State) : Bool := s.power.nx && s.power.mem && !s.bit LED_STAT 0

/-- A Baize event: a ledger record while LED is running, else buffered, up to 512, the oldest overwritten (R27). -/
def State.baizeEvent (sev code reg b : Nat) (extra : List Nat) (s : State) : State :=
  let r := s.mkRec sev 22 code ((reg % 0x100000 + b * 2 ^ 24) :: extra) 0
  if s.ledRunning then s.stageRec r
  else
    let g := s.guard
    let r := { r with guard := true }
    if g.events.length < 512 then { s with guard := { g with events := g.events ++ [r] } }
    else ({ s with guard := { g with events := g.events.drop 1 ++ [r], lost := g.lost + 1 } }.inc GRD_EV_LOST).evt GRD_EVT 6

/-- A Baize settings register in the set in force (R436). -/
def State.act (s : State) (a : Nat) : Nat := (FMap.get resetWord a s.guard.active).toNat

/-- Elements operating, as a mask. -/
def State.operating (s : State) : Nat :=
  ((List.range 8).filter (fun e => s.bit (GRD_EL_STAT e) 1)).foldl (fun m e => m + 2 ^ e) 0

/-- The closure of trip output `o` is reported to TAE while CX is on (R437). -/
def State.taeGuard (o : Nat) (s : State) : State :=
  if s.power.cx = false then s else
  s.each ((List.range 8).filter (fun r => decide (s.fld (TAE_REC_STAT r) 2 0 ≠ 0))) (fun r s =>
    { s with tae := s.tae.mod r (fun t => { t with grd := t.grd ||| 2 ^ o }) })

/-- OUTPUT_CLOSE (R434): every open output that is enabled and has an operating element in its mask closes while Baize
is armed; the closure is counted and recorded with severity 6. -/
def State.closeOutputs (s : State) : State :=
  if s.bit GRD_STAT 1 = false then s else
  s.each (List.range 4) (fun o s =>
    let cfg := s.act (GRD_OUT_CFG o)
    if bitAt cfg 8 && !s.bit GRD_STAT (8 + o) && decide (bits cfg 7 0 &&& s.operating ≠ 0) && bitAt (s.act GRD_CTL) 0 then
      let s := (s.setBit GRD_STAT (8 + o) true).drive (.gtrip o) true
      let s := { s with guard := { s.guard with outAt := s.guard.outAt.put o s.clk } }
      let s := s.taeGuard o
      let s := ((s.inc (GRD_OUT_CNT o)).inc GRD_TRIPS).evt GRD_EVT 2
      s.baizeEvent 6 o GRD_EVT 2 []
    else s)

/-- The module holds the mandate (R325). -/
def State.mandate (s : State) : Bool := s.bit RED_STAT 3

/-- Module health as shown. -/
def State.health (s : State) : Nat := s.fld RED_STAT 5 4

/-- Baize is to be armed (R433). -/
def State.armWanted (s : State) : Bool :=
  bitAt (s.act GRD_CTL) 1 || !s.mandate || decide (s.health ≤ 1) || !s.power.nx

/-- GUARD_ARM (R433). -/
def State.guardArm (s : State) : State :=
  if s.power.ao = false then s
  else if s.armWanted then
    if s.bit GRD_STAT 1 then s
    else
      let s := ((s.setBit GRD_STAT 1 true).evt GRD_EVT 0)
      (s.baizeEvent 3 0 GRD_EVT 0 []).closeOutputs
  else s

/-- A mandate gain or a rise of health: the delay of a disarm runs from here (R433). -/
def State.armDelay (s : State) : State := { s with guard := { s.guard with since := s.clk } }

/-- The state of angle reference `r` (R86). -/
def State.refState (s : State) (r : Nat) : Nat := s.fld (WEFT_REF_STAT r) 2 0

/-! ### Health (R323) -/

/-- A port is up. -/
def State.portUp (s : State) (p : Nat) : Bool := s.bit (MAC_STAT p) 0

/-- A member of pair `k` is silent or down; only a pair in PRP or HSR mode is redundant (R296, R303). -/
def State.pairImpaired (s : State) (k : Nat) : Bool :=
  decide (s.fld (SWC_RED_CFG k) 1 0 = 1 ∨ s.fld (SWC_RED_CFG k) 1 0 = 2) &&
    (s.bit (SWC_RED_STAT k) 0 || s.bit (SWC_RED_STAT k) 1 || !s.portUp (2 * k) || !s.portUp (2 * k + 1))

/-- Blocks whose failure lowers health to 1: WEFT, SIE, FDC, PSU, DZE, XEC, PTS, PUB. -/
def criticalBlocks : List Nat := [2, 3, 4, 5, 6, 7, 8, 9]

/-- A block failure that counts: conditions of the compute die are not evaluated while CX is off. -/
def State.blockFailed (s : State) : Bool :=
  s.blockFail.any (fun b => criticalBlocks.contains b && (s.power.cx || b == 9))

/-- The causes of `RED_HEALTH` bits 8 to 14. -/
def State.healthCauses (s : State) : List Bool :=
  [ s.bit GRD_STAT 4,
    s.power.cx && !s.bit XEC_STAT 2,
    s.pairImpaired 0 || s.pairImpaired 1,
    s.power.cx && decide (2 ≤ s.fld XEC_STAT 1 0),
    s.power.cx && s.bit XEC_STAT 8,
    s.blockFailed,
    s.moduleFault ]

/-- Health from the conditions of R323, before the ceiling of software. -/
def State.healthComputed (s : State) : Nat :=
  if s.moduleFault then 0
  else if (s.power.cx && s.bit XEC_STAT 8) || s.blockFailed || (!s.portUp 0 && !s.portUp 1) then 1
  else if s.bit GRD_STAT 4 || (s.power.cx && !s.bit XEC_STAT 2) || s.pairImpaired 0 || s.pairImpaired 1
      || (s.power.cx && decide (2 ≤ s.fld XEC_STAT 1 0)) then 2
  else 3

/-- The number a list of bits spells, first bit lowest. -/
def maskOf : List Bool → Nat
  | [] => 0
  | b :: rest => b2n b + 2 * maskOf rest

/-- HEALTH_CHANGE (R323, R324, R433): health is the lowest level whose condition holds, never above `sw_health`; a
change sets `health_chg`, writes a ledger record, drives HEALTHY_N and reviews the arming of Baize. -/
def State.healthUpdate (s : State) : State :=
  let c := s.healthComputed
  let sw := s.fld RED_HEALTH 1 0
  let h := min c sw
  let old := s.health
  let s := s.setFld RED_HEALTH 15 8 (maskOf (s.healthCauses ++ [decide (sw < c)]))
  let s := (s.setFld RED_HEALTH 5 4 h).setFld RED_STAT 5 4 h
  if h = old then s else
    let s := (s.evt RED_EVT 9).ledger 4 12 0 RED_EVT 9 []
    let s := { s with red := { s.red with revFrom := if h = 3 then some s.clk else none, revAcc := 0, revAt := none } }.setBit RED_STAT 10 false
    let s := if s.complete && (decide (2 ≤ h) != decide (2 ≤ old)) then s.drive .healthyN (decide (h < 2)) else s
    (if 2 ≤ h ∧ old < h then s.armDelay else s).guardArm

/-- The spare pair, if any, is shown in `XEC_STAT` (R179). -/
def State.showSpare (s : State) : State :=
  match (List.range 12).find? (fun p => s.pairState p == 2) with
  | some p => (s.setBit XEC_STAT 2 true).setFld XEC_STAT 6 3 p
  | none => (s.setBit XEC_STAT 2 false).setFld XEC_STAT 6 3 0

/-- `class_a_fault` (R189): an enabled class A slice is in FAULT. -/
def State.showClassA (s : State) : State :=
  s.setBit XEC_STAT 8 ((List.range 256).any (fun n => s.slEn n && s.run n == 6 && s.slCrit n == 0))

/-- A block has failed (R201, R202): recorded with its mechanism and count, and reported to health. -/
def State.blockFailure (b inst mech cnt : Nat) (s : State) : State :=
  let s := { s with blockFail := if s.blockFail.contains b then s.blockFail else s.blockFail ++ [b] }
  let s := if b = 7 ∨ b = 2 then s.setBit XEC_STAT 7 true else s
  (s.ledgerBare 5 b inst 3 [mech, cnt]).healthUpdate

/-- Checking mechanism `mech` of block `b` has detected a fault (R201): the third within 1 s is a block failure. (DESIGN CHOICE:
a block that has failed by then reports no second failure.) -/
def State.blockFault (b mech inst : Nat) (s : State) : State :=
  let l := (s.clk :: (s.faults.at' (8 * b + mech)).filter (fun t => decide (s.clk < t + tSec))).take 3
  let s := { s with faults := s.faults.put (8 * b + mech) l }
  if l.length = 3 ∧ s.blockFail.contains b = false then s.blockFailure b inst mech 3 else s

end Sys2Proof.Machine
end

