-- ==== Sys2Proof/Machine/KeyBase.lean ====
section
/-!
DEFINITION. Uses of key slots at line rate (R468, R472, R113).
-/

namespace Sys2Proof.Machine

/-- State of a slot (R465): 0 EMPTY, 1 LOADED, 2 POISONED, 3 UNUSABLE. -/
def State.slotState (s : State) (k : Nat) : Nat := s.fld (KEY_SLOT_STAT k) 1 0

/-- Algorithm code of a slot (R466). -/
def State.slotAlg (s : State) (k : Nat) : Nat := s.fld (KEY_SLOT_ATTR k) 7 0

/-- A line-rate use of a slot passes R468: `use` is the bit of the use in the attributes. -/
def State.lineUse (s : State) (k use : Nat) : Bool :=
  let pc := s.bit (KEY_SLOT_ATTR k) 25
  (s.slotState k == 1 || (s.slotState k == 2 && pc)) && s.bit (KEY_SLOT_ATTR k) use
    && (!s.bit KEY_STAT 3 || pc) && (!s.bit KEY_STAT 2 || s.bit (KEY_SLOT_ATTR k) 24)

/-- The slot's algorithm admits the algorithm of an extension (R113, R466). -/
def algFits (slotAlg extAlg : Nat) : Bool :=
  if extAlg = 1 ∨ extAlg = 2 then slotAlg == 1 else if extAlg = 3 then slotAlg == 2 || slotAlg == 3 else false

/-- The tag of an algorithm over octets under a key. -/
def tagOf (key : List Byte) (alg : Nat) (iv data : List Byte) : List Byte :=
  if alg = 1 then (hmac256 key data).take 16 else if alg = 2 then hmac256 key data else gmac key iv data

/-- The extension verifies under slot `k`. -/
def State.verifies (s : State) (k : Nat) (x : AuthExt) : Bool :=
  s.lineUse k 9 && algFits (s.slotAlg k) x.alg && tagOf (s.keys.at' k) x.alg x.iv x.data == x.tag

/-- The slot among the current and the next one that an extension names and that verifies (R113): true for the next. -/
def State.authSlot (s : State) (cur next : Nat) (nextEn : Bool) (x : AuthExt) : Option (Nat × Bool) :=
  if s.rd (KEY_SLOT_ID cur) = x.keyId.toNat ∧ s.verifies cur x then some (cur, false)
  else if nextEn ∧ s.rd (KEY_SLOT_ID next) = x.keyId.toNat ∧ s.verifies next x then some (next, true)
  else none

/-- Octets an operation writes to its destination (R469). -/
def KeyOp.outLen (o : KeyOp) : Nat :=
  match o.cmd % 16 with
  | 6 => o.len
  | 7 => o.len
  | 10 => 32
  | 11 => 48
  | _ => 0

/-- An operation ends with a result (R470). -/
def State.keyEnd (m result : Nat) (s : State) : State :=
  { s with keyOps := s.keyOps.put m none }.setReg (bank m KEY_OP_STAT) (result * 2)

/-- An operation is aborted (R471): zeros over its destination, then result 7. -/
def State.keyAbort (m : Nat) (s : State) : State :=
  match s.keyOps.at' m with
  | some o => (s.dma o.dst (List.replicate o.outLen 0)).keyEnd m 7
  | none => s

end Sys2Proof.Machine
end

