-- ==== Sys2Proof/Machine/Prior.lean ====
section
/-!
DEFINITION. Which values of an instance a grid point works on (R49, R50, R52): a point issued before an activation keeps the
values before it, however late it closes; the new values, and the restart they ask for, come with the first grid point of the
instance's reference issued at or after the activation.
-/

namespace Sys2Proof.Machine

/-- Key of an instance among the staged ones. -/
def stagedKey (b i : Nat) : Nat := b * 65536 + i

/-- Sequence number `k` comes before `f`, modulo 2^32. -/
def seqBefore (k f : Nat) : Bool :=
  decide (k % 2 ^ 32 ≠ f % 2 ^ 32 ∧ (f % 2 ^ 32 + 2 ^ 32 - k % 2 ^ 32) % 2 ^ 32 < 2 ^ 31)

/-- The first sequence number of reference `r` issued at or after tick `t`, where at most its last point is that late. -/
def State.firstFrom (s : State) (r t : Nat) : Nat :=
  let w := s.weft.at' r
  if w.seq ≠ 0 ∧ t ≤ w.lastIssue then w.seq else (w.seq + 1) % 2 ^ 32

/-- Reference `r` has points before `f` that wait to close, or closings in `q` that wait for their work. -/
def State.unworked (s : State) (q : List Close) (r f : Nat) : Bool :=
  (s.openPts.at' r).any (fun p => seqBefore p.seq f) || q.any (fun c => c.ref == r && seqBefore c.seq f)

def State.priorsOf (s : State) (b i : Nat) : List Prior := s.prior.at' (stagedKey b i)
def State.setPriors (b i : Nat) (l : List Prior) (s : State) : State := { s with prior := s.prior.put (stagedKey b i) l }

/-- Put register words. -/
def State.setWords (l : List (Nat × Nat)) (s : State) : State := s.each l (fun w s => s.setReg w.1 w.2)

/-- A change made while the registers `l` names hold what it says; they return to their present words. -/
def State.under (l : List (Nat × Nat)) (f : State → State) (s : State) : State :=
  (f (s.setWords l)).setWords (l.map (fun w => (w.1, s.rd w.1)))

/-- The values before an activation that grid point `k` of reference `r` works on. -/
def State.priorAt (s : State) (b i r k : Nat) : Option Prior :=
  (s.priorsOf b i).find? (fun p => p.was && p.ref == r && seqBefore k p.first)

/-- Grid point `k` of reference `r` comes before the first one the instance's values govern. -/
def State.early (s : State) (b i r k : Nat) : Bool := (s.priorsOf b i).any (fun p => p.nref == r && seqBefore k p.nfirst)

/-- Values before an activation that no grid point works on any more are dropped, and the restart that waited for that
takes place: `effect` with the state before the activation. -/
def State.settlePriors (b i : Nat) (done : Prior → Bool) (effect : State → State → State) : List Prior → State → State
  | [], s => s.setPriors b i []
  | p :: rest, s =>
    if done p then
      let go := fun (s : State) => effect (s.setWords p.words) s
      let s := if p.was then (match rest with | q :: _ => s.under q.words go | [] => go s) else s
      State.settlePriors b i done effect rest s
    else s.setPriors b i (p :: rest)

/-- Every restart that waits takes place now. -/
def State.settleInst (b i : Nat) (effect : State → State → State) (s : State) : State :=
  s.settlePriors b i (fun _ => true) effect (s.priorsOf b i)

/-- Restarts that grid point `k` of reference `r` brings take place. -/
def State.settleAt (b i r k : Nat) (effect : State → State → State) (s : State) : State :=
  let l := s.priorsOf b i
  if l.isEmpty then s else s.settlePriors b i (fun p => p.nref == r && !seqBefore k p.nfirst) effect l

/-- The work of an instance at grid point `k` of reference `r`, on the values that govern the point: `works` says whether
those values give it work there, `bad` whether the present values are refused. Answers the work's result, none without
work. -/
def State.onPoint {β : Type} (b i r k : Nat) (effect : State → State → State) (works bad : State → Bool)
    (work : State → State × β) (s : State) : State × Option β :=
  let s := s.settleAt b i r k effect
  match s.priorAt b i r k with
  | some p =>
    let v := s.setWords p.words
    if works v then
      let x := work v
      (x.1.setWords (p.words.map (fun w => (w.1, s.rd w.1))), some x.2)
    else (s, none)
  | none =>
    if s.early b i r k || !works s || bad s then (s, none)
    else
      let x := work s
      (x.1, some x.2)

/-- The state as the instance's work at grid point `k` of reference `r` sees it; none where the point is left without
work. -/
def State.viewAt (s : State) (b i r k : Nat) : Option State :=
  match s.priorAt b i r k with
  | some p => some (s.setWords p.words)
  | none => if s.early b i r k then none else some s

/-- After an activation on an instance that worked before it when `was` says so: with work left for its old values they are
kept, and `effect` waits for the first new grid point; else it takes place now. Points of the reference it is bound to now,
issued before the activation, are left without work. `q` are the closings that wait for the block. -/
def State.turn (b i : Nat) (p : Prior) (q : List Close) (was : Bool) (effect : State → State → State) (s : State) : State :=
  let l := s.priorsOf b i
  if was && (!l.isEmpty || s.unworked q p.ref p.first) then s.setPriors b i (l ++ [{ p with was := true }])
  else
    let old := s.setWords p.words
    let s := effect old (s.settleInst b i effect)
    if s.unworked q p.nref p.nfirst then s.setPriors b i [{ p with was := false }] else s

end Sys2Proof.Machine
end

