-- ==== Sys2Proof/Machine/Quality.lean ====
section
/-!
DEFINITION. The quality byte (R126), sample memory and its rings (R130–R132, R136), ready marks (R43, R44), the grid of a
reference (R86, R92).
-/

namespace Sys2Proof.Machine

/-! ### Quality byte (R126) -/

/-- How bad a validity is: valid, questionable, invalid, never produced. -/
def valRank : Nat → Nat
  | 0 => 0
  | 3 => 1
  | 1 => 2
  | _ => 3

/-- The worse of two validities. -/
def worse (a b : Nat) : Nat := if valRank a < valRank b then b else a

/-- The validity of a quality byte. -/
def validity (q : Nat) : Nat := q % 4

/-- A quality byte with its validity at least `v`. -/
def atLeast (v q : Nat) : Nat := q / 4 * 4 + worse (q % 4) v

/-- A quality byte with a flag bit set. -/
def withFlag (b q : Nat) : Nat := if bitAt q b then q else q + 2 ^ b

/-- Two quality bytes together: worse validity, flags or-ed (R137). -/
def qOr (a b : Nat) : Nat := ((a ||| b) / 4 * 4) + worse (a % 4) (b % 4)

/-- The quality byte of a received quality word (R127). The bit places of IEC 61850-9-2 are PRESUMED: validity in bits
0 and 1 (0 good, 1 invalid, 2 reserved, 3 questionable), overflow 2, outOfRange 3, badReference 4, oscillatory 5,
failure 6, oldData 7, inconsistent 8, inaccurate 9, substituted 10, test 11, operatorBlocked 12, derived 13. -/
def mapQuality (w : Nat) : Nat :=
  let v := match w % 4 with | 0 => 0 | 3 => 3 | _ => 1
  let v := if bitAt w 6 then worse v 1 else v
  let v := if [2, 3, 4, 5, 7, 8, 9, 12].any (bitAt w) then worse v 3 else v
  v + 4 * b2n (bitAt w 11) + 32 * b2n (bitAt w 2) + 64 * b2n (bitAt w 10)

/-! ### Sample memory -/

/-- First address of sample memory (R28). -/
abbrev smBase : Nat := 0x4000000000

/-- A sample-memory area whose low `z` offset bits are ignored. -/
def State.area (s : State) (a z : Nat) : Nat := smBase + s.rd a / 2 ^ z * 2 ^ z

/-- Entry of quantity `q` of channel `n`'s input ring for sample `i` (R130). -/
def State.ringAt (s : State) (n q i : Nat) : Nat := s.area SIE_RING_BASE 20 + (32 * n + q) * 0x1000 + i % 512 * 8

/-- Entry of channel `n`'s time ring (R131). -/
def State.tringAt (s : State) (n i : Nat) : Nat := s.area SIE_TRING_BASE 20 + n * 0x2000 + i % 512 * 16

/-- Entry of a quantity's grid ring for grid sequence `k` (R136). -/
def State.gridAt (s : State) (n q k : Nat) : Nat := s.area SIE_GRID_BASE 20 + (32 * n + q) * 0x800 + k % 256 * 8

/-- A reference's resampler mark (R136). -/
def State.sieMark (s : State) (r : Nat) : Nat := s.area SIE_MARK_BASE 10 + r * 64

/-- Value and quality byte of an input sample. -/
def State.sample (s : State) (n q i : Nat) : Int × Nat :=
  (signed 32 (s.ld (s.ringAt n q i) 4), s.ld (s.ringAt n q i + 4) 1)

/-- Value and quality byte at a grid sequence, as the engines read them. -/
def State.gridVal (s : State) (n q k : Nat) : Int × Nat :=
  (signed 32 (s.ld (s.gridAt n q k) 4), s.ld (s.gridAt n q k + 4) 1)

/-- Write a grid point of a quantity (R136). -/
def State.putGrid (n q k : Nat) (v : Int) (qual : Nat) (s : State) : State :=
  s.stWords (s.gridAt n q k) [unsigned 32 v, qual + k % 2 ^ 24 * 2 ^ 8]

/-! ### Ready marks (R43, R44) -/

/-- The mark that follows `old` for a set in bank `b`: the sequence counts 1 to 0x1FFFFFFF. -/
def nextMark (old : Nat) (late fault : Bool) (b : Nat) : Nat :=
  let q := old / 8
  (if q = 0x1FFFFFFF then 1 else q + 1) * 8 + 4 * b2n late + 2 * b2n fault + b % 2

/-- Publish a set whose mark stands at `a`, in the bank the current mark does not name (R43). -/
def State.publish (a : Nat) (late fault : Bool) (s : State) : State :=
  let m := s.ld a 4
  s.st a 4 (nextMark m late fault (1 - m % 2))

/-- Publish a set in a named bank. -/
def State.publishBank (a : Nat) (late fault : Bool) (b : Nat) (s : State) : State :=
  s.st a 4 (nextMark (s.ld a 4) late fault b)

/-! ### Grid of a reference -/

def State.weftOf (s : State) (r : Nat) : Weft := s.weft.at' r
def State.modWf (r : Nat) (f : Weft → Weft) (s : State) : State := { s with weft := s.weft.mod r f }

/-- Nominal frequency, Hz × 2^24. -/
def State.nominal (s : State) (r : Nat) : Nat := (if s.bit (WEFT_REF_CFG r) 1 then 60 else 50) * 2 ^ 24

/-- Frequency of the reference's current cycle: at the last grid point issued, nominal when OFF (R116). -/
def State.cycleFreq (s : State) (r : Nat) : Nat :=
  if s.refState r = 0 ∨ s.rd (WEFT_REF_FREQ r) = 0 then s.nominal r else s.rd (WEFT_REF_FREQ r)

/-- One cycle in ns × 2^16. -/
def State.cycle16 (s : State) (r : Nat) : Nat := 10 ^ 9 * 2 ^ 40 / s.cycleFreq r

end Sys2Proof.Machine
end

