-- ==== Sys2Proof/Machine/Sie.lean ====
section
/-!
DEFINITION. Stream ingest and the resampler (R103–R140).
-/

namespace Sys2Proof.Machine

/-! ### Channel configuration (R140) -/

def State.ch (s : State) (n : Nat) : Sie := s.sie.at' n
def State.modCh (n : Nat) (f : Sie → Sie) (s : State) : State := { s with sie := s.sie.mod n f }

/-- Sample rate by its code; none for the codes that set `cfg_err` (R104). -/
def rateOf : Nat → Option Nat
  | 0 => some 4000
  | 1 => some 4800
  | 2 => some 12800
  | 3 => some 14400
  | 4 => some 15360
  | _ => none

def State.chRate (s : State) (n : Nat) : Nat := (rateOf (s.fld (SIE_CH_CFG n) 26 24)).getD 4000
def State.chRef (s : State) (n : Nat) : Nat := s.fld (SIE_CH_CFG n) 30 27
def State.chAsdus (s : State) (n : Nat) : Nat := s.fld (SIE_CH_CFG n) 23 21 + 1
def State.chQty (s : State) (n : Nat) : Nat := s.fld (SIE_CH_CFG n) 20 16 + 1
def State.chMode (s : State) (n : Nat) : Nat := s.fld (SIE_CH_CFG n) 13 13
def State.chState (s : State) (n : Nat) : Nat := s.fld (SIE_CH_STAT n) 2 0
def State.chActive (s : State) (n : Nat) : Bool := s.bit (SIE_CH_STAT n) 3
def State.chRun (s : State) (n : Nat) : Nat := s.fld (SIE_CH_STAT n) 15 8
def State.holdMax (s : State) (n : Nat) : Nat := s.fld (SIE_CH_TIMING n) 7 0

/-- The committed configuration breaks R104. -/
def State.chBroken (s : State) (n : Nat) : Bool :=
  match rateOf (s.fld (SIE_CH_CFG n) 26 24) with
  | none => true
  | some r => decide (14400 * s.chAsdus n < r)

/-- One sample period in ns × 2^16, multiplied by `k` (whole periods carry no rounding drift). -/
def State.periods16 (s : State) (n k : Nat) : Nat := k * 10 ^ 9 * 2 ^ 16 / s.chRate n

/-- Late timeout in ns. -/
def State.lateNs (s : State) (n : Nat) : Nat := min (max (s.fld (SIE_CH_DELAY n) 15 0) 10) 10000 * 1000

/-- Fixed delay in ns. -/
def State.fixDelay (s : State) (n : Nat) : Nat := s.fld (SIE_CH_DELAY n) 31 16 * 1000

/-- A dual-rail mismatch (R139, R201). -/
def State.sieDual (s : State) : State := ((s.inc SIE_DUAL_ERR).evt SIE_DUAL_STAT 0).blockFault 3 1 0

/-! ### Grid output -/

/-- The close points of a reference. -/
def State.pts (s : State) (r : Nat) : List OpenPt := s.openPts.at' r
def State.setPts (r : Nat) (l : List OpenPt) (s : State) : State := { s with openPts := s.openPts.put r l }

/-- Write a grid point of every quantity of a channel with value 0 and validity invalid. -/
def State.putInvalid (n k : Nat) (s : State) : State := s.each (List.range (s.chQty n)) (fun q s => s.putGrid n q k 0 1)

/-- The channel no longer holds up grid points: each one it has not written is written invalid at once (R135). -/
def State.dropWaiting (n : Nat) (s : State) : State :=
  let r := s.chRef n
  let l := s.pts r
  let s := s.each l (fun p s => if p.waiting.contains n then s.putInvalid n p.seq else s)
  s.setPts r (l.map (fun p => { p with waiting := p.waiting.filter (· ≠ n) }))

/-- Move a channel to a stream state (R117, R118): a change sets `state_chg`; a state without interpolated output
releases the grid points waiting for it. -/
def State.setStream (n st : Nat) (s : State) : State :=
  let old := s.chState n
  if old = st then s else
  let s := (s.setFld (SIE_CH_STAT n) 2 0 st).evt (SIE_CH_EVT n) 0
  let s := if st = 2 ∨ st = 3 ∨ st = 4 then s else s.setFld (SIE_CH_STAT n) 15 8 0
  if [2, 3, 4].contains old && !([2, 3, 4].contains st) then s.dropWaiting n else s

/-- Round a fraction to nearest, ties away from zero. -/
def roundAway (x : Int) (d : Nat) : Int :=
  if 0 ≤ x then (2 * x + d) / (2 * (d : Int)) else -((2 * (-x) + d) / (2 * (d : Int)))

/-- The interpolation of R133 before saturation: φ has 24 fractional bits, `e` is the scale exponent. -/
def interp (v0 v1 : Int) (phi : Nat) (e : Int) : Int :=
  let x := v0 * 2 ^ 24 + phi * (v1 - v0)
  if 0 ≤ e then roundAway (x * 2 ^ e.toNat) (2 ^ 24) else roundAway x (2 ^ (24 + e.natAbs))

/-- φ to 24 fractional bits, truncated towards zero. -/
def phi24 (t t0 t1 : Nat) : Nat := (t - t0) * 2 ^ 24 / (t1 - t0)

/-- The place in a list of instants, newest first, of the two that bracket `t`: number of steps back from the newest of
the earlier one; none when no pair brackets it. -/
def bracket (t : Nat) : List Nat → Option Nat
  | t1 :: t0 :: rest => if t0 ≤ t ∧ t < t1 then some 1 else (bracket t (t0 :: rest)).map (· + 1)
  | _ => none

/-- A grid point of one quantity from the samples that bracket it (R133, R137). -/
def State.gridQty (n q : Nat) (p : OpenPt) (s : State) : State :=
  let c := s.ch n
  let t := p.tg * 2 ^ 16
  let last := c.nextIdx - 1
  let e := signed 5 (s.fld (SIE_QTY_CFG n q) 4 0)
  let put := fun (v : Int) (qu : Nat) =>
    let sat := satS 32 v
    let qu := if sat = v then qu else withFlag 5 qu
    s.putGrid n q p.seq sat (if p.realign then atLeast 3 qu else qu)
  if c.insts.head? = some t then
    let a := s.sample n q last
    put (interp a.1 a.1 0 e) a.2
  else match bracket t c.insts with
    | some back =>
      let a := s.sample n q (last - back)
      let b := s.sample n q (last - back + 1)
      put (interp a.1 b.1 (phi24 t (c.insts.getD back 0) (c.insts.getD (back - 1) 0)) e) (qOr a.2 b.2)
    | none => s.putGrid n q p.seq 0 1

/-- The newest sample reaches or passes the grid point, so the channel can write it. -/
def Sie.reaches (c : Sie) (p : OpenPt) : Bool :=
  match c.insts.head? with
  | some t => decide (p.tg * 2 ^ 16 ≤ t)
  | none => false

/-- A channel writes a grid point, on the configuration that governs it (R49). -/
def State.gridPoint (n r : Nat) (p : OpenPt) (s : State) : State :=
  (s.onPoint 3 n r p.seq (fun _ s => s) (fun _ => true) (fun _ => false)
    (fun s => (s.each (List.range (s.chQty n)) (fun q s => s.gridQty n q p), ()))).1

/-- RESAMPLE_GRID_POINT: the channel writes every waiting grid point its newest sample closes (R133, R134); `dual`: low octets
of the sequence numbers of the points whose work unit met a dual-rail mismatch (R139). -/
def State.resample (n : Nat) (dual : List (Fin 256)) (s : State) : State :=
  let r := s.chRef n
  let c := s.ch n
  let l := s.pts r
  let hit := fun (p : OpenPt) => p.waiting.contains n && c.reaches p
  let bad := fun (p : OpenPt) => hit p && dual.any (fun k => k.val == p.seq % 256)
  let s := s.each l (fun p s => if hit p then s.gridPoint n r p else s)
  let s := s.each (l.filter bad) (fun _ s => s.sieDual)
  s.setPts r (l.map (fun p => if hit p then
    { p with waiting := p.waiting.filter (· ≠ n), fault := p.fault || bad p } else p))

/-! ### Samples -/

/-- Mean age in ns (R122), or the fixed delay in arrival mode. -/
def State.meanAge (s : State) (n : Nat) : Int :=
  if s.chMode n = 1 then s.fixDelay n
  else match (s.ch n).held with
    | some a => a
    | none => signed 32 (s.rd (SIE_CH_AGE_MEAN n))

/-- The tick at which the next sample, one period after instant `t16`, counts as missing (R115). An instant on the scale
before a step is carried to the present one. -/
def State.missTick (s : State) (n t16 : Nat) : Nat :=
  let due : Int := ((t16 + s.periods16 n 1) / 2 ^ 16 : Nat) + s.meanAge n + s.lateNs n + (s.ch n).skew
  (s.clk + (due - s.wallNs) / 8 + 1).toNat

/-- Write the next sample of a channel: value entries, then the time entry (R130–R132). -/
def State.putSample (n t16 cnt synch : Nat) (subst test : Bool) (vals : List (Int × Nat)) (s : State) : State :=
  let i := (s.ch n).nextIdx
  let s := s.each vals.zipIdx (fun v s =>
    s.stWords (s.ringAt n v.2 i) [unsigned 32 v.1.1, v.1.2 + i % 2 ^ 16 * 2 ^ 16])
  let ns := (t16 + 2 ^ 15) / 2 ^ 16
  let s := s.stWords (s.tringAt n i) [ns % 10 ^ 9, ns / 10 ^ 9 % 2 ^ 32, i % 2 ^ 32,
    cnt + synch * 2 ^ 16 + b2n subst * 2 ^ 24 + b2n test * 2 ^ 25]
  let s := (s.setReg (SIE_CH_INDEX n) (i % 2 ^ 32)).setFld (SIE_CH_LAST_SMP n) 15 0 cnt
  s.modCh n (fun c => { c with
    nextIdx := i + 1, expected := (cnt + 1) % s.chRate n, insts := (t16 :: c.insts).take 512 })

/-- The substitute of a quantity at an instant (R116, R128): the value one cycle earlier. -/
def State.substVal (s : State) (n q t16 : Nat) : Int × Nat :=
  let c := s.ch n
  let cyc := s.cycle16 (s.chRef n)
  let bad : Int × Nat := (0, 1 + 64)
  if t16 < cyc then bad else
  match bracket (t16 - cyc) c.insts with
  | some back =>
    let last := c.nextIdx - 1
    let a := s.sample n q (last - back)
    let b := s.sample n q (last - back + 1)
    let v := satS 32 (interp a.1 b.1 (phi24 (t16 - cyc) (c.insts.getD back 0) (c.insts.getD (back - 1) 0)) 0)
    (v, (if validity a.2 = 1 ∨ validity b.2 = 1 then 1 else 3) + 64)
  | none => bad

/-- Write one substitute (R116, R128) and let it close grid points. -/
def State.substitute (n : Nat) (dual : List (Fin 256)) (s : State) : State :=
  let c := s.ch n
  let t16 := c.insts.headD 0 + s.periods16 n 1
  let mark := fun (q : Nat) (v : Int × Nat) =>
    if s.chState n = 4 ∧ (c.frz.at' q).frozen then (v.1, withFlag 4 (atLeast 1 v.2)) else v
  let vals := (List.range (s.chQty n)).map (fun q => mark q (s.substVal n q t16))
  let s := s.modCh n (fun c => { c with sec := if c.expected = 0 then c.sec + 1 else c.sec })
  let s := s.putSample n t16 c.expected (s.fld (SIE_CH_STAT n) 5 4) true false vals
  let s := (s.inc (SIE_CH_SUBST n)).evt (SIE_CH_EVT n) 3
  let s := s.incFld (SIE_CH_STAT n) 15 8
  let s := if s.chState n = 2 then s.setStream n 3 else s
  let s := s.modCh n (fun c => { c with missAt := s.missTick n t16 })
  s.resample n dual

/-- Samples in one cycle of the reference, rounded up (R129). -/
def State.cycleSamples (s : State) (n : Nat) : Nat :=
  let r := s.chRate n
  (s.cycle16 (s.chRef n) * r + 10 ^ 9 * 2 ^ 16 - 1) / (10 ^ 9 * 2 ^ 16)

/-- Frozen detection of one accepted value (R129). -/
def frzStep (need frzMin : Nat) (chk : Bool) (v : Int) (f : Frz) : Frz :=
  let same := decide (0 < f.count) && v == f.val
  let k := if same then f.count + 1 else 1
  { val := v, count := k, frozen := chk && ((f.frozen && same) || (decide (need + 1 ≤ k) && decide (frzMin ≤ v.natAbs))) }

/-- Enter ACQUIRING by resynchronisation (R114, R115, R118). -/
def State.resync (n : Nat) (s : State) : State :=
  let s := (s.evt (SIE_CH_EVT n) 2).incFld (SIE_CH_RESYNC n) 15 0
  let s := s.modCh n (fun c => { c with
    nextIdx := 0, first := true, acq := 0, insts := [], frz := [], ages := [], maxAge := none })
  let s := (s.setBit (SIE_CH_STAT n) 7 false).setFld (SIE_CH_STAT n) 15 8 0
  let s := s.setReg (SIE_CH_AGE_MAX n) 0
  s.setStream n 1

/-- smpSynch as counted in R123. -/
def synchOf (v : Nat) : Nat := if v = 2 then 2 else if v = 1 ∨ (5 ≤ v ∧ v ≤ 254) then 1 else 0

/-- The instant of a sample in ns × 2^16 and its whole second (R120, R124, R125). -/
def State.instantOf (s : State) (n : Nat) (f : GoodFrame) (cnt : Nat) : Nat × Nat :=
  let c := s.ch n
  let rate := s.chRate n
  let frac := cnt * 10 ^ 9 * 2 ^ 16 / rate
  let sec16 := 10 ^ 9 * 2 ^ 16
  if s.chMode n = 1 then
    match c.insts.head? with
    | none => ((f.rxNs - s.fixDelay n) * 2 ^ 16, 0)
    | some t =>
      let pred := t + s.periods16 n 1
      if f.stepped then (pred, 0)
      else
        let d : Int := ((f.rxNs : Int) - s.fixDelay n) * 2 ^ 16 - pred
        (((pred : Int) + d / 64).toNat, 0)
  else if f.stepped && !c.first then
    let sec := if cnt < (c.expected + rate - 1) % rate then c.sec + 1 else c.sec
    (sec * sec16 + frac, sec)
  else
    let sec := ((f.rxNs * 2 ^ 16 + sec16 / 2 - frac) / sec16)
    (sec * sec16 + frac, sec)

/-- Keep the mean and the largest age (R122). -/
def State.noteAge (n : Nat) (age : Int) (s : State) : State :=
  let l := (age :: (s.ch n).ages).take 64
  let mean := l.foldl (· + ·) 0 / (l.length : Int)
  let s := s.modCh n (fun c => { c with ages := l, held := none })
  let s := s.setReg (SIE_CH_AGE_MEAN n) (unsigned 32 (satS 32 mean))
  let mx := max ((s.ch n).maxAge.getD age) age
  (s.modCh n (fun c => { c with maxAge := some mx })).setReg (SIE_CH_AGE_MAX n) (unsigned 32 (satS 32 mx))

/-- Accept one sample (R114, R118, R120–R129). -/
def State.acceptSample (n : Nat) (f : GoodFrame) (a : Asdu) (good : Bool) (dual : List (Fin 256)) (s : State) : State :=
  let mode1 := s.chMode n == 1
  let (t16, sec) := s.instantOf n f a.cnt
  let age : Int := (f.rxNs : Int) - (t16 / 2 ^ 16 : Nat)
  let skip := mode1 || f.stepped
  let lo := signed 16 (s.fld (SIE_CH_AGE_WIN n) 15 0) * 1000
  let hi := signed 16 (s.fld (SIE_CH_AGE_WIN n) 31 16) * 1000
  let inWin := skip || decide (lo ≤ age ∧ age ≤ hi)
  let refOk := match a.refrTm with
    | some t => mode1 || ((t : Int) + ((s.rd TIME_RTC_OFS : Int) - 946684800) == (sec : Int))
    | none => true
  let syn := synchOf a.synch
  let lost := !mode1 && (!(syn == 2 && s.syncClass == 2) || !inWin || !refOk)
  let s := s.when (!inWin || !refOk) (State.evt (SIE_CH_EVT n) 5)
  let s := if f.stepped then s else s.noteAge n age
  let s := s.modCh n (fun c => { c with skew := if f.stepped then c.skew else if mode1 && !c.first then c.skew - c.skew / 64 else 0 })
  let s := (s.setBit (SIE_CH_STAT n) 6 (inWin && !mode1)).setFld (SIE_CH_STAT n) 5 4 syn
  let st := s.chState n
  let need := s.cycleSamples n
  let vals := a.vals.take (s.chQty n)
  let frz := vals.zipIdx.foldl (fun m v =>
    m.put v.2 (frzStep need (s.rd (SIE_QTY_FRZ n v.2)) (s.bit (SIE_QTY_CFG n v.2) 8) v.1.1 (m.at' v.2)))
    (s.ch n).frz
  let anyF := (List.range (s.chQty n)).any (fun q => (frz.at' q).frozen)
  let st' : Nat := if st = 1 then 1 else if anyF then 4 else if st = 3 ∧ good = false then 3 else 2
  let q := fun (i : Nat) (w : Nat) =>
    let b := mapQuality w
    let b := if a.test then withFlag 2 b else b
    let b := if lost then withFlag 3 b else b
    let b := if st' = 1 then atLeast 1 b else b
    if (frz.at' i).frozen then withFlag 4 (atLeast 1 b) else if st' = 4 then atLeast 3 b else b
  let s := s.modCh n (fun c => { c with
    frz := frz, sec := sec, first := false
    acq := if st = 1 then (if good && inWin then c.acq + 1 else 0) else c.acq })
  let s := (s.setBit (SIE_CH_STAT n) 7 anyF).setFld (SIE_CH_STAT n) 15 8 0
  let s := if st' = 4 ∧ st ≠ 4 then s.evt (SIE_CH_EVT n) 4 else s
  let s := if st' ≠ st then s.setStream n st' else s
  let s := s.putSample n t16 a.cnt a.synch false a.test (vals.zipIdx.map (fun v => (v.1.1, q v.2 v.1.2)))
  let s := s.modCh n (fun c => { c with missAt := s.missTick n t16 })
  s.resample n dual

/-- Handle one ASDU of an accepted frame by its gap (R114). -/
def State.asdu (n : Nat) (f : GoodFrame) (dual : List (Fin 256)) (a : Asdu) (s : State) : State :=
  let rate := s.chRate n
  let c := s.ch n
  let g := (a.cnt + rate - c.expected % rate) % rate
  if c.first then s.acceptSample n f a true dual
  else if rate ≤ 2 * g then (s.inc (SIE_CH_LATE n)).evt (SIE_CH_EVT n) 8
  else if s.chState n = 1 then s.acceptSample n f a (g == 0) dual
  else if g = 0 then s.acceptSample n f a true dual
  else if g + s.chRun n ≤ s.holdMax n then
    (s.each (List.range g) (fun _ s => s.substitute n dual)).acceptSample n f a false dual
  else (s.resync n).acceptSample n f a true dual

/-- A frame that passed steps 1 to 16: samples, counters. It is accepted when not every sample lies behind (R110, R114,
R118, R529). -/
def State.takeFrame (n : Nat) (f : GoodFrame) (dual : List (Fin 256)) (s : State) : State :=
  let s := if s.chState n = 0 then
      (s.modCh n (fun c => { c with nextIdx := 0, first := true, acq := 0, insts := [], frz := [], ages := [], maxAge := none })).setStream n 1
    else s
  let rate := s.chRate n
  let c := s.ch n
  let took := c.first || f.asdus.any (fun a => decide (2 * ((a.cnt + rate - c.expected % rate) % rate) < rate))
  let s := s.when took (fun s =>
    let s := s.modCh n (fun c => { c with failRun := 0, lastAcc := s.clk })
    ((s.setFld (SIE_CH_STAT n) 19 16 0).setBit (SIE_CH_STAT n) 20 f.keyNext).inc (SIE_CH_FRAMES n))
  f.asdus.foldl (fun s a => s.asdu n f dual a) s

/-! ### Frame checks (R110) -/

/-- Outcome of the checks of a message: a failing step's cause, or the ASDUs. -/
inductive SvCheck where
  | bad (cause : Nat)
  | good (l : List Asdu)
  deriving DecidableEq, Repr

/-- Pairs of value and quality word of seqData (R105). -/
def svVals : Nat → List Byte → List (Int × Nat)
  | 0, _ => []
  | n + 1, l => (signed 32 (beNat (l.take 4)), beNat ((l.drop 4).take 4)) :: svVals n (l.drop 8)

/-- smpRate and smpMod of an ASDU as R106 demands. -/
def rateOk (rate nom : Nat) (e : List (Nat × List Byte)) : Bool :=
  let smpMod := (berGet 0x88 e).map beNat
  let smpRate := (berGet 0x86 e).map beNat
  match smpMod with
  | some m => if m = 1 then (match smpRate with | some r => r == rate | none => true)
              else if m = 0 then (match smpRate with | some r => r * nom == rate | none => true)
              else false
  | none => match smpRate with | some r => r * nom == rate | none => true

/-- Consecutive counts, modulo the rate. -/
def consecutive (rate : Nat) : List Nat → Bool
  | a :: b :: rest => (a + 1) % rate == b && consecutive rate (b :: rest)
  | _ => true

/-- Steps 8 to 15 on an APDU: `nom` is the nominal frequency in Hz. -/
def svCheck (asdus rate nom qty svid conf : Nat) (sim : Bool) (apdu : List Byte) : SvCheck :=
  match ber apdu with
  | some [(0x60, pdu)] =>
    match ber pdu with
    | none => .bad 6
    | some top =>
      match berGet 0x80 top, (berGet 0xA2 top).bind ber with
      | some no, some seq =>
        let parts := seq.map (fun e => if e.1 = 0x30 then ber e.2 else none)
        let els := parts.filterMap id
        let full := fun (e : List (Nat × List Byte)) =>
          (berGet 0x80 e).isSome && (berGet 0x82 e).isSome && (berGet 0x83 e).isSome && (berGet 0x85 e).isSome
            && (berGet 0x87 e).isSome
        if els.length ≠ parts.length ∨ parts.length ≠ beNat no ∨ els.all full = false then .bad 6
        else if beNat no ≠ asdus then .bad 7
        else if els.all (fun e => crc32 ((berGet 0x80 e).getD []) == svid) = false then .bad 8
        else if els.all (fun e => beNat ((berGet 0x83 e).getD []) == conf) = false then .bad 9
        else if els.all (fun e => decide (beNat ((berGet 0x82 e).getD []) < rate)) = false then .bad 10
        else if els.all (rateOk rate nom) = false then .bad 11
        else if els.all (fun e => ((berGet 0x87 e).getD []).length == 8 * qty) = false then .bad 12
        else if consecutive rate (els.map (fun e => beNat ((berGet 0x82 e).getD []))) = false then .bad 13
        else .good (els.map (fun e =>
          { cnt := beNat ((berGet 0x82 e).getD []), synch := beNat ((berGet 0x85 e).getD []), test := sim
            refrTm := (berGet 0x84 e).map (fun t => beNat (t.take 4)), vals := svVals qty ((berGet 0x87 e).getD []) }))
      | _, _ => .bad 6
  | _ => .bad 6

/-- A discard with a cause that counts towards FAILED (R118, R529). -/
def State.svReject (n cause reg : Nat) (s : State) : State :=
  let s := (s.inc reg).setFld (SIE_CH_STAT n) 19 16 cause
  s.modCh n (fun c => { c with failRun := c.failRun + 1, outRun := 0, exitFrame := none })

/-- The receive timestamp extended to the time unit's scale (R64): the instant nearest the present, since a negative
`rx_lat` (R273) puts the timestamp after the present. -/
def State.extendTs (s : State) (ts : Nat) : Nat :=
  let now := s.wallNs
  let age := (now + 2 ^ 32 - ts % 2 ^ 32) % 2 ^ 32
  if age < 2 ^ 31 then now - age else now + (2 ^ 32 - age)

/-- Step 7 (R112): `none` when the copy passes, with the window after it; else the register that counts it and the
window kept. -/
def dupStep (mode : Nat) (p : Parsed) (win : SeqWin) (lan : Nat) : DupKind × SeqWin :=
  let seq := if mode = 1 then p.rct.map (·.2) else if mode = 2 then p.hsr.map (·.2) else none
  match seq with
  | none => (.fresh, win)
  | some q => match classify win q lan with
    | .fresh => (.fresh, enter win q lan)
    | k => (k, win)

/-- SV_FRAME_INGEST (R110): the frame leaves the input FIFO; the checks in order; an accepted frame's samples go to the
rings. -/
def State.svIngest (n : Nat) (f : RxFrame) (dualCheck : Bool) (dual : List (Fin 256)) (s : State) : State :=
  let s := { s.inc SIE_RX_FRAMES with sieIn := s.sieIn.drop 1 }
  if s.power.cx = false ∨ s.bit SIE_CTL 0 = false then s
  else if f.bad then s.inc (SIE_CH_BADFRM n)
  else if s.chActive n = false ∨ (s.ch n).cfgErr then s.inc SIE_NO_CHAN
  else
    let p := parseFrame f.octets
    let srcReg := s.rd (SIE_CH_SRC_LO n) + 2 ^ 32 * s.fld (SIE_CH_SRC_HI n) 15 0
    if s.bit (SIE_CH_CFG n) 9 ∧ p.src ≠ srcReg then s.svReject n 1 (SIE_CH_STRUCT n)
    else match (if p.etype = 0x88BA then readApdu p.body else none) with
      | none => s.svReject n 2 (SIE_CH_STRUCT n)
      | some m =>
        if m.sim ∧ s.bit (SIE_CH_CFG n) 10 = false then s.inc (SIE_CH_SIM n)
        else
          let mode := s.fld (SIE_CH_CFG n) 12 11
          let slot := if mode = 0 then none else
            f.auth.map (fun x => s.authSlot (s.fld (SIE_CH_KEYS n) 5 0) (s.fld (SIE_CH_KEYS n) 13 8) (s.bit (SIE_CH_KEYS n) 16) x)
          let cause := if mode = 0 then 0 else match slot with
            | none => if 2 ≤ mode then 4 else 0
            | some none => 5
            | some (some _) => 0
          if cause ≠ 0 then (s.svReject n cause (SIE_CH_AUTH n)).evt (SIE_CH_EVT n) 6
          else
            let used := (slot.getD none)
            let s := match used with | some u => s.inc (KEY_SLOT_USES u.1) | none => s
            let (k, win) := dupStep (s.fld (SIE_CH_CFG n) 15 14) p (s.ch n).win f.path
            match k with
            | .dup same => (s.inc (SIE_CH_DUP n)).when same (State.evt (SIE_CH_EVT n) 9)
            | .stale => s.inc (SIE_CH_STALE n)
            | .fresh =>
              let s := s.modCh n (fun c => { c with win := win })
              let nom := if s.bit (WEFT_REF_CFG (s.chRef n)) 1 then 60 else 50
              match svCheck (s.chAsdus n) (s.chRate n) nom (s.chQty n) (s.rd (SIE_CH_SVID n)) (s.rd (SIE_CH_CONFREV n)) m.sim m.apdu with
              | .bad c => s.svReject n c (SIE_CH_STRUCT n)
              | .good l =>
                let g : GoodFrame := {
                  asdus := l, rxNs := s.extendTs f.ts32.toNat, stepped := f.stepCnt.toNat != s.rd TIME_STEP_CNT
                  keyNext := match used with | some u => u.2 | none => false }
                let failed := s.chState n == 5
                let s := s.modCh n (fun c => { c with outRun := if failed then c.outRun + 1 else 0 })
                if failed ∧ (s.ch n).outRun < 16 then s
                else if dualCheck then s.sieDual
                else if failed then s.modCh n (fun c => { c with exitFrame := some g })
                else s.takeFrame n g dual

def execSvFrameIngest (n : Fin 96) (f : RxFrame) (dualCheck : Bool) (dual : List (Fin 256)) (s : State) :
    Host.Outcome State Fault Refusal := .next (s.svIngest n.val f dualCheck dual)

/-! ### Stream states (R115, R118) -/

/-- A sample counts as missing at its expected arrival plus `late_us` (R115). -/
def State.sampleMissing (n : Nat) (dual : List (Fin 256)) (s : State) : State :=
  let st := s.chState n
  if s.chActive n ∧ (st = 2 ∨ st = 3 ∨ st = 4) ∧ (s.ch n).missAt ≤ s.clk then
    if s.holdMax n ≤ s.chRun n then s.resync n else s.substitute n dual
  else s

def execSampleMissing (n : Fin 96) (dual : List (Fin 256)) (s : State) : Host.Outcome State Fault Refusal :=
  .next (s.sampleMissing n.val dual)

/-- `acq_n` good samples in a row (R118). -/
def execStreamValid (n : Fin 96) (s : State) : Host.Outcome State Fault Refusal :=
  .next (if s.chState n.val = 1 ∧ s.chActive n.val ∧ max (s.fld (SIE_CH_TIMING n.val) 15 8) 1 ≤ (s.ch n.val).acq
    then s.setStream n.val 2 else s)

/-- No frame accepted for `absent_ms` (R118). -/
def execStreamAbsent (n : Fin 96) (s : State) : Host.Outcome State Fault Refusal :=
  .next (let st := s.chState n.val
    if s.chActive n.val ∧ (st = 1 ∨ st = 2 ∨ st = 3 ∨ st = 4)
      ∧ (s.ch n.val).lastAcc + max (s.fld (SIE_CH_TIMING n.val) 31 20) 1 * tMs ≤ s.clk then s.setStream n.val 0 else s)

/-- `fail_n` discards in a row (R118, R529). -/
def execStreamFailed (n : Fin 96) (s : State) : Host.Outcome State Fault Refusal :=
  .next (if s.chActive n.val ∧ s.chState n.val ≠ 5 ∧ max (s.fld (SIE_CH_TIMING n.val) 19 16) 1 ≤ (s.ch n.val).failRun then
    ((s.setStream n.val 5).evt (SIE_CH_EVT n.val) 1).incFld (SIE_CH_RESYNC n.val) 31 16 |>.modCh n.val
      (fun c => { c with outRun := 0 })
  else s)

/-- The 16th frame that passes steps 1 to 15 leaves FAILED and, accepted at step 16, is the first of ACQUIRING. -/
def State.streamExit (n : Nat) (dual : List (Fin 256)) (s : State) : State :=
  let c := s.ch n
  if s.chState n = 5 ∧ 16 ≤ c.outRun then
    let s := s.modCh n (fun c => { c with
      nextIdx := 0, first := true, acq := 0, insts := [], frz := [], ages := [], maxAge := none, outRun := 0, exitFrame := none })
    let s := (s.setStream n 1).setFld (SIE_CH_STAT n) 19 16 0
    match c.exitFrame with
    | some f => s.takeFrame n f dual
    | none => s
  else s

def execStreamFailedExit (n : Fin 96) (dual : List (Fin 256)) (s : State) : Host.Outcome State Fault Refusal :=
  .next (s.streamExit n.val dual)

/-! ### Closing a grid point (R135, R136, R182) -/

/-- PASS_RELEASE at a closing: every enabled slice whose release point this is (R182, R185). -/
def State.releaseAll (r : Nat) (p : OpenPt) (s : State) : State :=
  let g := s.weftOf r
  s.each (List.range 256) (fun n s =>
    (s.onPoint 7 n r p.seq (fun _ s => s)
      (fun s => s.slEn n && s.slRef n == r && decide (s.slClass n < 3)
        && p.gp % period (s.slClass n) == s.slPhase n % period (s.slClass n))
      (fun _ => false)
      (fun s => (s.releasePoint n {
        gp := p.gp, gridSeq := p.seq, deadline := s.mono + period (s.slClass n) * g.interval / 2 ^ 11
        ref := r, pclass := s.slClass n, crit := s.slCrit n }, ()))).1)

/-- Recorders that take a row at a closing (R351, R359), and loops that run a cycle (R372). -/
def State.recordersOf (s : State) (c : Close) : List Nat :=
  if s.bit TAE_CTL 0 = false then [] else
  (List.range 8).filter (fun r => !([0, 7].contains (s.fld (TAE_REC_STAT r) 2 0)) && (match s.viewAt 14 r c.ref c.seq with
    | some v => v.fld (TAE_REC_CFG r) 30 27 == c.ref
    | none => false))

def State.loopsOf (s : State) (c : Close) : List Nat :=
  if s.bit RGE_CTL 0 = false then [] else
  (List.range 32).filter (fun l => match s.viewAt 15 l c.ref c.seq with
    | none => false
    | some x =>
      let v := x.rd (RGE_LP_CFG l)
      let n := bits v 26 21 + 1
      bits v 30 27 == c.ref && c.gp % n == bits v 20 15 % n && bitAt v 31 && s.fld (RGE_LP_STAT l) 2 0 != 5
        && (!s.bit (RGE_LP_STAT l) 9 || (s.priorAt 15 l c.ref c.seq).isSome))

/-- A closing is handed to every enabled engine (R142, R352, R372). -/
def State.pushClose (c : Close) (s : State) : State :=
  { s with
    taeQ := (s.recordersOf c).foldl (fun m r => m.mod r (· ++ [c])) s.taeQ
    rgeQ := (s.loopsOf c).foldl (fun m l => m.mod l (· ++ [c])) s.rgeQ
    fdcQ := if s.bit FDC_CTL 0 then s.fdcQ ++ [c] else s.fdcQ
    psuQ := if s.bit PSU_CTL 0 then s.psuQ ++ [c] else s.psuQ
    dzeQ := if s.bit DZE_CTL 0 then s.dzeQ ++ [c] else s.dzeQ }

/-- Write the mark of the oldest open grid point and release the passes (R136, R182). -/
def State.closeGrid (r : Nat) (p : OpenPt) (rest : List OpenPt) (s : State) : State :=
  let a := s.sieMark r
  let late := decide ((s.weftOf r).seq ≠ p.seq)
  let s := s.stWords (a + 4) [p.seq % 2 ^ 32, p.invalid]
  let s := s.publishBank a late p.fault (p.seq % 2)
  let s := s.setPts r rest
  let s := { s with closedGp := s.closedGp.put r (p.gp + 1), closedSeq := s.closedSeq.put r p.seq }
  let s := s.pushClose { ref := r, seq := p.seq, gp := p.gp, at_ := s.clk }
  s.releaseAll r p

/-- GRID_POINT_CLOSE (R135): the oldest open point, once every waited channel has written it. -/
def State.gridClose (r : Nat) (s : State) : State :=
  match s.pts r with
  | p :: rest => if p.waiting.isEmpty then s.closeGrid r p rest else s
  | [] => s

def execGridPointClose (r : Fin 16) (s : State) : Host.Outcome State Fault Refusal := .next (s.gridClose r.val)

/-- CLOSE_DEADLINE (R135): every outstanding quantity is written invalid and the point closes. -/
def State.closeDeadline (r : Nat) (s : State) : State :=
  match s.pts r with
  | p :: rest =>
    if p.due ≤ s.clk ∧ p.waiting.isEmpty = false then
      let bad := (p.waiting.map (fun n => s.chQty n)).foldl (· + ·) 0
      let s := p.waiting.foldl (fun s n => s.putInvalid n p.seq) s
      s.closeGrid r { p with waiting := [], invalid := p.invalid + bad } rest
    else s
  | [] => s

def execCloseDeadline (r : Fin 16) (s : State) : Host.Outcome State Fault Refusal := .next (s.closeDeadline r.val)

end Sys2Proof.Machine
end

