-- ==== Sys2Proof/Machine/Can.lean ====
section
/-!
DEFINITION. The CAN FD controllers (R409–R426).
-/

namespace Sys2Proof.Machine

def State.canOf (s : State) (o : Nat) : Can := s.can.at' o
def State.modCan (o : Nat) (f : Can → Can) (s : State) : State := { s with can := s.can.mod o f }
/-- State of a controller: 0 off, 1 integrating, 2 error-active, 3 error-passive, 4 bus-off. -/
def State.canState (s : State) (o : Nat) : Nat := s.fld (CAN_STAT o) 2 0
/-- The controller takes part in the bus. -/
def State.canOn (s : State) (o : Nat) : Bool := s.power.nx && (s.canState o == 2 || s.canState o == 3)
/-- Bus monitoring (R424). -/
def State.canListens (s : State) (o : Nat) : Bool := s.bit (CAN_CTL o) 3 || (s.bit (CAN_CTL o) 4 && !s.mandate)
def State.canTec (s : State) (o : Nat) : Nat := s.fld (CAN_ECNT o) 7 0
def State.canRec (s : State) (o : Nat) : Nat := s.fld (CAN_ECNT o) 15 8

/-- Index of buffer `b` of controller `o` among the units of kind 14 (R212). -/
def canUnit (o b : Nat) : Nat := 128 * o + b

/-- Data length of a DLC: a classical frame carries at most 8 octets. -/
def dlcLen (fdf : Bool) (dlc : Nat) : Nat :=
  if dlc ≤ 8 ∨ fdf = false then min dlc 8 else [12, 16, 20, 24, 32, 48, 64].getD (dlc - 9) 64

/-! ### Completions and the queue (R417–R420) -/

/-- Show the entries of the queue. -/
def State.showQueue (o : Nat) (s : State) : State := s.setFld (CAN_TXQ_STAT o) 5 0 (s.canOf o).queue.length

/-- An entry leaves the queue: its completion slot, the count last (R420). -/
def State.canDone (o : Nat) (e : CanTx) (status ts : Nat) (s : State) : State :=
  let c := s.fld (CAN_TXC_WR o) 4 0
  let n := (s.canOf o).cseq + 1
  let a := CAN_TXC o c
  let s := (s.setReg a (bits e.ctrl 23 8 + status * 2 ^ 16)).setReg (a + 4) ts
  let s := (s.setReg (a + 8) e.id).setReg (a + 12) (n % 2 ^ 32)
  (s.setFld (CAN_TXC_WR o) 4 0 ((c + 1) % 32)).modCan o (fun t => { t with cseq := n })

/-- Every entry but one in transmission leaves with a status; that one leaves when its attempt fails. -/
def State.canFlush (o status : Nat) (keepHead : Bool) (s : State) : State :=
  let q := (s.canOf o).queue
  let keep := if keepHead then (q.take 1).map (fun e => { e with gone := status + 1 }) else []
  let s := s.modCan o (fun t => { t with queue := keep })
  ((s.each (if keepHead then q.drop 1 else q) (fun e s => s.canDone o e status 0)).showQueue o).setBit (CAN_TXQ_STAT o) 6
    (keepHead && !q.isEmpty)

/-- ENQUEUE (R417): the staged frame of the master's bank. -/
def State.canEnqueue (w : Who) (o : Nat) (s : State) : State :=
  let m := w.master.val
  let ctrl := s.rd (bank m (CAN_TX_CTRL o))
  let r := CAN_TXQ_STAT o
  if 32 ≤ (s.canOf o).queue.length then s.setFld (bank m r) 9 8 1
  else if (bitAt ctrl 4 && !s.bit (CAN_CTL o) 1) || (bitAt ctrl 5 && !bitAt ctrl 4) then s.setFld (bank m r) 9 8 2
  else
    let data := (List.range 16).flatMap (fun k => bytesLE 4 (s.rd (bank m (CAN_TX_DATA o k))))
    let e : CanTx := {
      id := s.fld (bank m (CAN_TX_ID o)) 29 0, ctrl := ctrl % 2 ^ 24
      data := data.take (dlcLen (bitAt ctrl 4) (bits ctrl 3 0)), slice := w.slice.val }
    ((s.modCan o (fun t => { t with queue := t.queue ++ [e] })).setFld (bank m r) 9 8 0).showQueue o

def execEnqueue (w : Who) (o : Fin 2) (s : State) : Host.Outcome State Fault Refusal :=
  .next (s.gateGrant w (CAN_TXQ_CMD o.val) 14 (canUnit o.val 66) .use (State.canEnqueue w o.val))

/-- WITHDRAW (R419). `inTx`: the head entry is in transmission on the bus. -/
def execWithdraw (w : Who) (o : Fin 2) (inTx : Bool) (s : State) : Host.Outcome State Fault Refusal :=
  .next (s.gateGrant w (CAN_TXQ_CMD o.val) 14 (canUnit o.val 66) .use (fun s =>
    s.canFlush o.val 2 (s.canOn o.val && (inTx || s.bit (CAN_TXQ_STAT o.val) 6))))

/-! ### Reception (R412–R416) -/

/-- The frame matches filter `f` (R412). -/
def State.fltMatch (s : State) (o : Nat) (x : CanFrame) (f : Nat) : Bool :=
  let id := s.rd (CAN_FLT_ID o f)
  let act := s.rd (CAN_FLT_ACT o f)
  bitAt id 31 && (x.id.toNat ^^^ bits id 28 0) &&& s.fld (CAN_FLT_MASK o f) 28 0 == 0 && x.ide == bitAt id 29
    && (!x.rtr || bitAt id 30) && (!bitAt act 8 || x.fdf) && (!bitAt act 9 || !x.fdf)

/-- Write a slot (R413): `a` its first word, `flag` bits 14 and 31 of words 1 and 0. -/
def State.canSlot (a : Nat) (x : CanFrame) (flt ts : Nat) (lost : Bool) (s : State) : State :=
  let len := if x.rtr then 0 else dlcLen x.fdf x.dlc.val
  let data := padTo 64 (x.data.take len)
  let s := s.each (List.range 16) (fun k s => s.setReg (a + 16 + 4 * k) (wordLE data (4 * k)))
  let s := s.setReg a (x.id.toNat + b2n x.ide * 2 ^ 29 + b2n x.rtr * 2 ^ 30 + 2 ^ 31)
  let s := s.setReg (a + 4) (x.dlc.val + len * 2 ^ 4 + b2n x.fdf * 2 ^ 11 + b2n x.brs * 2 ^ 12 + b2n x.esi * 2 ^ 13
    + b2n lost * 2 ^ 14 + flt * 2 ^ 16)
  (s.setReg (a + 8) ts).incMod (a + 12)

/-- A frame for receive buffer `b` (R414). -/
def State.canBuffer (o b : Nat) (x : CanFrame) (flt ts : Nat) (s : State) : State :=
  let a := CAN_RXB o b 0
  if s.bit a 31 then
    let s := s.inc (CAN_RX_LOST o)
    if s.bit (CAN_RXB_CFG o b) 0 then (s.canSlot a x flt ts true).inc (CAN_RX_FRAMES o)
    else s.setBit (a + 4) 14 true
  else (s.canSlot a x flt ts false).inc (CAN_RX_FRAMES o)

/-- A frame for the FIFO (R415). -/
def State.canFifo (o : Nat) (x : CanFrame) (flt ts : Nat) (s : State) : State :=
  let n := s.fld (CAN_FIFO_STAT o) 5 0
  if 32 ≤ n then (s.evt (CAN_EVT o) 6).inc (CAN_RX_LOST o)
  else
    let e := (s.fld (CAN_FIFO_STAT o) 12 8 + n) % 32
    ((s.canSlot (CAN_FIFO o e 0) x flt ts false).setFld (CAN_FIFO_STAT o) 5 0 (n + 1)).inc (CAN_RX_FRAMES o)

/-- A frame for the trump buffer (R416). -/
def State.canTrump (o : Nat) (x : CanFrame) (flt ts : Nat) (s : State) : State :=
  let n := s.fld (CAN_TRUMP_STAT o) 2 0
  if 4 ≤ n then (s.evt (CAN_EVT o) 7).inc (CAN_RX_LOST o)
  else
    let e := (s.fld (CAN_TRUMP_STAT o) 9 8 + n) % 4
    let s := ((s.canSlot (CAN_TRUMP o e 0) x flt ts false).setFld (CAN_TRUMP_STAT o) 2 0 (n + 1)).inc (CAN_RX_FRAMES o)
    let s := (s.setReg (CAN_TRUMP_MARK o) ((s.rd (CAN_TRUMP_MARK o) + 8) % 2 ^ 32)).evt (CAN_EVT o) 5
    s.emit (.irq (s.fld (CAN_IRQ o) 3 0) o)

/-- Filter a good frame to its destination (R412). -/
def State.canFilter (o : Nat) (x : CanFrame) (ts : Nat) (s : State) : State :=
  match (List.range 128).find? (s.fltMatch o x) with
  | some f =>
    let t := s.fld (CAN_FLT_ACT o f) 6 0
    if s.bit (CAN_FLT_ACT o f) 7 then s.canTrump o x f ts
    else if t < 64 then s.canBuffer o t x f ts
    else if t = 64 then s.canFifo o x f ts
    else s.inc (CAN_RX_NOMATCH o)
  | none =>
    if s.bit (CAN_CTL o) 7 ∧ x.rtr = false then s.canFifo o x 0 ts else s.inc (CAN_RX_NOMATCH o)

/-! ### Error counters (R423) -/

/-- BUS_OFF (R423): queue held, or flushed with status 3. -/
def State.canBusOff (o : Nat) (s : State) : State :=
  let s := ((s.setFld (CAN_STAT o) 2 0 4).evt (CAN_EVT o) 4).inc (CAN_BUSOFF o)
  let s := s.ledger 5 17 o (CAN_EVT o) 4 []
  let s := s.modCan o (fun t => { t with refDue := false, refLast := none, recover := false })
  let s := s.setBit (CAN_TXQ_STAT o) 6 false
  if s.bit (CAN_CTL o) 8 then s.canFlush o 3 false else s

/-- Put the error counters; warnings and the passive state follow, bus-off when TEC passes 255. -/
def State.canCount (o tec rec_ : Nat) (s : State) : State :=
  let warn := decide ((96 ≤ tec ∧ s.canTec o < 96) ∨ (96 ≤ rec_ ∧ s.canRec o < 96))
  let s := s.setReg (CAN_ECNT o) (min tec 255 + min rec_ 255 * 2 ^ 8 + b2n (decide (128 ≤ rec_)) * 2 ^ 16)
  let s := s.when warn (State.evt (CAN_EVT o) 2)
  if 255 < tec then s.canBusOff o
  else if 127 < tec ∨ 127 < rec_ then
    if s.canState o = 2 then (s.setFld (CAN_STAT o) 2 0 3).evt (CAN_EVT o) 3 else s
  else if s.canState o = 3 then s.setFld (CAN_STAT o) 2 0 2 else s

/-- An error detected: its code, counted. -/
def State.canError (o code : Nat) (s : State) : State := (s.setFld (CAN_STAT o) 6 4 code).inc (CAN_ERR_FRAMES o)

/-- A protocol exception (R409): bus integration, or a form error. -/
def State.canException (o : Nat) (s : State) : State :=
  if s.bit (CAN_CTL o) 6 then s.setFld (CAN_STAT o) 2 0 1
  else
    let s := s.canError o 2
    if s.canListens o then s else s.canCount o (s.canTec o) (s.canRec o + 1)

/-- REC after a good reception (ISO 11898-1): one less; from above 127, a value from 119 to 127 that the standard leaves
open. -/
def State.recGood (o : Nat) (s : State) : State :=
  let r := s.canRec o
  if s.canListens o then s
  else if 127 < r then s.drew.canCount o (s.canTec o) (119 + Config.freeValue s.free % 9)
  else s.canCount o (s.canTec o) (r - 1)

/-- CAN_FRAME_RECEIVE (R409, R412, R423). `sof`: TS32 of the SOF; `err`: the error that ended the frame, 0 none; `heavy`:
the error adds 8; `res`: the frame carried a recessive res bit. -/
def State.canReceive (o : Nat) (x : CanFrame) (sof err : Nat) (heavy res : Bool) (s : State) : State :=
  if s.canOn o = false then s
  else if res || (x.fdf && !s.bit (CAN_CTL o) 1) then s.canException o
  else if err ≠ 0 then
    let s := s.canError o err
    if s.canListens o then s else s.canCount o (s.canTec o) (s.canRec o + if heavy then 8 else 1)
  else (s.recGood o).canFilter o x sof

def execCanFrameReceive (o : Fin 2) (x : CanFrame) (sof : Word) (err : Fin 7) (heavy res : Bool) (s : State) :
    Host.Outcome State Fault Refusal :=
  .next (s.canReceive o.val x sof.toNat err.val heavy res)

/-- FIFO_POP (R415). -/
def State.fifoPop (o : Nat) (s : State) : State :=
  let n := s.fld (CAN_FIFO_STAT o) 5 0
  if n = 0 then s
  else (s.setFld (CAN_FIFO_STAT o) 5 0 (n - 1)).setFld (CAN_FIFO_STAT o) 12 8 ((s.fld (CAN_FIFO_STAT o) 12 8 + 1) % 32)

def execFifoPop (w : Who) (o : Fin 2) (s : State) : Host.Outcome State Fault Refusal :=
  .next (s.gateGrant w (CAN_FIFO_POP o.val) 14 (canUnit o.val 64) .rd (State.fifoPop o.val))

/-- TRUMP_POP (R416). -/
def State.trumpPop (o : Nat) (s : State) : State :=
  let n := s.fld (CAN_TRUMP_STAT o) 2 0
  if n = 0 then s
  else (s.setFld (CAN_TRUMP_STAT o) 2 0 (n - 1)).setFld (CAN_TRUMP_STAT o) 9 8 ((s.fld (CAN_TRUMP_STAT o) 9 8 + 1) % 4)

def execTrumpPop (w : Who) (o : Fin 2) (s : State) : Host.Outcome State Fault Refusal :=
  .next (s.gateGrant w (CAN_TRUMP_POP o.val) 14 (canUnit o.val 65) .rd (State.trumpPop o.val))

/-- A receive buffer's `new` cleared by its reader: `lost` goes with it (R413). -/
def State.canClearNew (o b : Nat) (s : State) : State :=
  (s.setBit (CAN_RXB o b 0) 31 false).setBit (CAN_RXB o b 1) 14 false

/-! ### Transmission (R411, R417, R420–R422) -/

/-- The head leaves the queue with a status. -/
def State.canPop (o status ts : Nat) (s : State) : State :=
  match (s.canOf o).queue with
  | e :: rest => ((s.modCan o (fun t => { t with queue := rest })).canDone o e status ts).showQueue o
  | [] => s

/-- Octets of the reference frame now due (R421). -/
def State.refData (s : State) (o : Nat) : List Byte :=
  match (s.canOf o).refLast with
  | some (sec, ns) => bytesBE 4 (sec % 2 ^ 32) ++ bytesBE 4 ns
  | none => List.replicate 8 255

/-- The measured loop delay of an FD frame with BRS (R411): true when the attempt ends with a bit error. -/
def State.canTdc (o : Nat) (tdcv : Option Nat) (s : State) : State × Bool :=
  match tdcv with
  | some v =>
    if s.bit (CAN_TDC o) 15 = false then (s, false)
    else if 127 < v then (s.evt (CAN_EVT o) 9, true)
    else (s.setFld (CAN_TDC o) 22 16 v, false)
  | none => (s, false)

/-- An attempt of the head entry that failed: withdrawn, flushed or offered once, it leaves; else it is tried again. -/
def State.canFailed (o : Nat) (s : State) : State :=
  match (s.canOf o).queue with
  | e :: _ =>
    if e.gone ≠ 0 then s.canPop o (e.gone - 1) 0
    else if bitAt e.ctrl 6 then s.canPop o 1 0
    else s
  | [] => s

/-- A frame sent: counted, given to the bus. -/
def State.canSent (o id ctrl : Nat) (data : List Byte) (s : State) : State :=
  ((s.inc (CAN_TX_FRAMES o)).emit (.can o id ctrl data)).canCount o (s.canTec o - 1) (s.canRec o)

/-- CAN_TX_COMPLETE (R417, R420–R423). `isRef`: the attempt was the reference frame's; `sof`: TS32 of its SOF; `res`: 0
sent, 1–6 the error that ended it, 7 arbitration lost; `tdcv`: loop delay measured in it, in clock periods. -/
def State.canTx (o : Nat) (isRef : Bool) (sof res : Nat) (tdcv : Option Nat) (s : State) : State :=
  let have_ := if isRef then (s.canOf o).refDue else !(s.canOf o).queue.isEmpty
  if s.canOn o = false ∨ s.canListens o ∨ have_ = false then s else
  let (s, late) := s.canTdc o (if isRef then none else match (s.canOf o).queue with
    | e :: _ => if bitAt e.ctrl 5 then tdcv else none
    | [] => none)
  let res := if late ∧ res = 0 then 4 else res
  let s := if isRef then s else s.setBit (CAN_TXQ_STAT o) 6 false
  if res = 0 then
    if isRef then
      let t := s.extendTs sof
      let data := s.refData o
      let s := s.modCan o (fun c => { c with refDue := false, refLast := some (t / 10 ^ 9, t % 10 ^ 9 + s.syncClass * 2 ^ 30) })
      s.canSent o (s.fld (CAN_REF_ID o) 29 0) 8 data
    else match (s.canOf o).queue with
      | e :: _ => (s.canPop o 0 sof).canSent o e.id e.ctrl e.data
      | [] => s
  else
    let s := if res = 7 then s else (s.canError o res).canCount o (s.canTec o + 8) (s.canRec o)
    if isRef ∨ s.canState o = 4 then s else s.canFailed o

def execCanTxComplete (o : Fin 2) (isRef : Bool) (sof : Word) (res : Fin 8) (tdcv : Option Nat) (s : State) :
    Host.Outcome State Fault Refusal :=
  .next (s.canTx o.val isRef sof.toNat res.val tdcv)

/-- CAN_REF_INSTANT (R421, R422): the time unit reads a whole multiple of `period_ms`. -/
def State.canRefInstant (o : Nat) (s : State) : State :=
  let cfg := s.rd (CAN_REF_CFG o)
  let per := max (bits cfg 15 0) 1
  let k := s.wallNs / 10 ^ 6 / per * per + 1
  if s.power.nx = false ∨ bitAt cfg 31 = false ∨ s.canState o < 2 ∨ (s.canOf o).refMs = k then s
  else
    let s := s.modCan o (fun c => { c with refMs := k })
    let s := if (s.canOf o).refDue then
        ((s.evt (CAN_EVT o) 8).inc (CAN_REF_LATE o)).modCan o (fun c => { c with refDue := false, refLast := none })
      else s
    if s.canState o = 4 ∨ s.canListens o ∨ (bitAt cfg 30 ∧ s.mandate = false) then s.modCan o (fun c => { c with refLast := none })
    else s.modCan o (fun c => { c with refDue := true })

def execCanRefInstant (o : Fin 2) (s : State) : Host.Outcome State Fault Refusal := .next (s.canRefInstant o.val)

/-- The mandate is lost with a reference frame due: it is not sent (R425). -/
def State.canMandateLost (s : State) : State :=
  s.each (List.range 2) (fun o s =>
    if s.bit (CAN_REF_CFG o) 30 ∧ (s.canOf o).refDue then s.modCan o (fun c => { c with refDue := false, refLast := none }) else s)

/-! ### Bus states (R409, R423–R425) -/

/-- BUS_OFF (R423). -/
def execBusOff (o : Fin 2) (s : State) : Host.Outcome State Fault Refusal :=
  .next (if s.canOn o.val then s.canBusOff o.val else s)

/-- BUS_OFF_RECOVERY (R424): 128 sequences of 11 recessive bits have passed. -/
def State.canRecovered (o : Nat) (s : State) : State :=
  if s.power.nx ∧ s.canState o = 4 ∧ (s.bit (CAN_CTL o) 5 ∨ (s.canOf o).recover) then
    let s := ((s.setReg (CAN_ECNT o) 0).setFld (CAN_STAT o) 2 0 1).evt (CAN_EVT o) 1
    s.modCan o (fun c => { c with recover := false, refLast := none })
  else s

def execBusOffRecovery (o : Fin 2) (s : State) : Host.Outcome State Fault Refusal := .next (s.canRecovered o.val)

/-- `recover` of a controller that is bus-off (R424). -/
def State.canRecover (o : Nat) (s : State) : State :=
  if s.canState o = 4 then s.modCan o (fun c => { c with recover := true }) else s

/-- RECOVER (R424): a write of `recover`. -/
def execRecover (w : Who) (o : Fin 2) (s : State) : Host.Outcome State Fault Refusal :=
  .next (s.gateSup w (CAN_CTL o.val) (State.canRecover o.val))

/-- BUS_INTEGRATION (R409): the bus is idle; the counters say whether the controller is error-active. -/
def State.canIntegrate (o : Nat) (s : State) : State :=
  if s.power.nx ∧ s.canState o = 1 then
    s.setFld (CAN_STAT o) 2 0 (if 127 < s.canTec o ∨ 127 < s.canRec o then 3 else 2)
  else s

def execBusIntegration (o : Fin 2) (s : State) : Host.Outcome State Fault Refusal := .next (s.canIntegrate o.val)

/-! ### Configuration (R410, R425) -/

/-- The limits of R410. -/
def State.canTimingOk (s : State) (o : Nat) : Bool :=
  let n := s.rd (CAN_NBT o)
  let d := s.rd (CAN_DBT o)
  let nb := bits n 8 0 + 1
  let n1 := bits n 16 9 + 1
  let n2 := bits n 23 17 + 1
  let nj := bits n 30 24 + 1
  let db := bits d 4 0 + 1
  let d1 := bits d 12 8 + 1
  let d2 := bits d 19 16 + 1
  let dj := bits d 27 24 + 1
  let nq := 1 + n1 + n2
  let dq := 1 + d1 + d2
  decide (2 ≤ n1 ∧ 2 ≤ n2 ∧ nj ≤ n2 ∧ 8 ≤ nq ∧ 80 ≤ nb * nq ∧ db ≤ nb ∧ dj ≤ d2 ∧ 5 ≤ dq ∧ 10 ≤ db * dq ∧ db * dq ≤ nb * nq)

/-- A write of `CAN_CTL`. -/
def State.canCtl (o v : Nat) (s : State) : State :=
  let old := s.rd (CAN_CTL o)
  let on := bitAt old 0
  let v := setBits v 9 9 0
  let s := if on && bitAt v 1 != bitAt old 1 then s.evt (CAN_EVT o) 0 else s
  let v := if on then setBits v 1 1 (bits old 1 1) else v
  if on = false ∧ bitAt v 0 then
    if s.canTimingOk o then
      let s := (s.setReg (CAN_CTL o) v).setReg (CAN_ECNT o) 0
      (s.setFld (CAN_STAT o) 2 0 1).modCan o (fun c => { c with refLast := none, refDue := false })
    else (s.setReg (CAN_CTL o) (setBits v 0 0 0)).evt (CAN_EVT o) 0
  else if on ∧ bitAt v 0 = false then
    let s := (s.setReg (CAN_CTL o) v).canFlush o 3 (s.bit (CAN_TXQ_STAT o) 6)
    (s.setFld (CAN_STAT o) 2 0 0).modCan o (fun c => { c with refLast := none, refDue := false, recover := false })
  else s.setReg (CAN_CTL o) v

/-- A write of a timing register: no effect while enabled (R425). -/
def State.canTiming (o a v : Nat) (s : State) : State := if s.bit (CAN_CTL o) 0 then s.evt (CAN_EVT o) 0 else s.setReg a v

end Sys2Proof.Machine
end

