-- ==== Sys2Proof/Machine/Float.lean ====
section
/-!
DEFINITION. IEEE 754 binary32 on its 32-bit words (R157): round to nearest, ties to even, subnormal results flushed to
zero. Every operation computes exactly in integers and rounds once.
-/

namespace Sys2Proof.Machine

/-- A binary32 word. -/
abbrev F32 := Nat

abbrev fNaN : F32 := 0x7FC00000
abbrev fInf : F32 := 0x7F800000
abbrev fOne : F32 := 0x3F800000

/-- The sign bit. -/
def fSign (x : F32) : Bool := bitAt x 31
/-- A NaN. -/
def fIsNaN (x : F32) : Bool := decide (0x7F800000 < x % 2 ^ 31)
/-- An infinity of either sign. -/
def fIsInf (x : F32) : Bool := x % 2 ^ 31 == 0x7F800000
/-- Neither a NaN nor an infinity. -/
def fFinite (x : F32) : Bool := decide (x % 2 ^ 31 < 0x7F800000)
def fIsZero (x : F32) : Bool := x % 2 ^ 31 == 0
def fNeg (x : F32) : F32 := if fSign x then x - 2 ^ 31 else x + 2 ^ 31
def fAbs (x : F32) : F32 := x % 2 ^ 31

/-- A finite value in units of 2^-149, exactly. -/
def fInt (x : F32) : Int :=
  let e := bits x 30 23
  let m := bits x 22 0
  let v : Nat := if e = 0 then m else (m + 2 ^ 23) * 2 ^ (e - 1)
  if fSign x then -(v : Int) else v

/-- The word with a sign. -/
def fWithSign (neg : Bool) (x : F32) : F32 := x % 2 ^ 31 + (if neg then 2 ^ 31 else 0)

/-- Exponent `e` and 24-bit significand of `a / d`, both positive, rounded to nearest even: the value is
`m × 2^(e - 23)`. -/
def fScale (a d : Nat) : Int × Nat :=
  let e0 : Int := (Nat.log2 a : Int) - Nat.log2 d
  let low : Bool := if 0 ≤ e0 then decide (a < d * 2 ^ e0.toNat) else decide (a * 2 ^ e0.natAbs < d)
  let e := if low then e0 - 1 else e0
  let sh := 23 - e
  let m := (if 0 ≤ sh then divRne ((a * 2 ^ sh.toNat : Nat) : Int) d else divRne (a : Int) (d * 2 ^ sh.natAbs)).toNat
  if m = 2 ^ 24 then (e + 1, 2 ^ 23) else (e, m)

/-- The binary32 word of the quotient of an integer by a positive number; a result below the normal range is zero, one
beyond it an infinity of its sign. -/
def fOfRat (n : Int) (d : Nat) : F32 :=
  if n = 0 ∨ d = 0 then 0 else
  let neg := decide (n < 0)
  let (e, m) := fScale n.natAbs d
  if e < -126 then fWithSign neg 0
  else if 127 < e then fWithSign neg fInf
  else fWithSign neg ((e + 127).toNat * 2 ^ 23 + (m - 2 ^ 23))

def fOfInt (n : Int) : F32 := fOfRat n 1

/-- The word of `n × 2^k`. -/
def fOfScaled (n k : Int) : F32 := if 0 ≤ k then fOfRat (n * 2 ^ k.toNat) 1 else fOfRat n (2 ^ k.natAbs)

def fAdd (x y : F32) : F32 :=
  if fIsNaN x || fIsNaN y then fNaN
  else if fIsInf x then (if fIsInf y && fSign x != fSign y then fNaN else x)
  else if fIsInf y then y
  else if fIsZero x && fIsZero y then (if fSign x && fSign y then 2 ^ 31 else 0)
  else fOfRat (fInt x + fInt y) (2 ^ 149)

def fSub (x y : F32) : F32 := if fIsNaN y then fNaN else fAdd x (fNeg y)

def fMul (x y : F32) : F32 :=
  let s := fSign x != fSign y
  if fIsNaN x || fIsNaN y then fNaN
  else if fIsInf x || fIsInf y then (if fIsZero x || fIsZero y then fNaN else fWithSign s fInf)
  else if fIsZero x || fIsZero y then fWithSign s 0
  else fOfRat (fInt x * fInt y) (2 ^ 298)

def fDiv (x y : F32) : F32 :=
  let s := fSign x != fSign y
  if fIsNaN x || fIsNaN y then fNaN
  else if fIsInf x then (if fIsInf y then fNaN else fWithSign s fInf)
  else if fIsInf y then fWithSign s 0
  else if fIsZero y then (if fIsZero x then fNaN else fWithSign s fInf)
  else if fIsZero x then fWithSign s 0
  else
    let q := fOfRat ((fInt x).natAbs : Int) (fInt y).natAbs
    fWithSign s q

/-- The whole part of a square root, one bit at a time from bit `k` down. -/
def isqrtBits : Nat → Nat → Nat → Nat
  | 0, _, r => r
  | k + 1, n, r => let t := r + 2 ^ k; isqrtBits k n (if t * t ≤ n then t else r)

def isqrt (n : Nat) : Nat := isqrtBits (Nat.log2 n / 2 + 1) n 0

def fSqrt (x : F32) : F32 :=
  if fIsNaN x then fNaN
  else if fIsZero x then x
  else if fSign x then fNaN
  else if fIsInf x then x
  else
    let n := (fInt x).natAbs * 2 ^ 149
    let r := isqrt n
    fOfRat ((2 * r + (if r * r = n then 0 else 1) : Nat) : Int) (2 ^ 150)

/-- Less than; false when either is a NaN. -/
def fLt (x y : F32) : Bool :=
  if fIsNaN x || fIsNaN y then false
  else if fIsInf y then !fSign y && !(x == y)
  else if fIsInf x then fSign x
  else decide (fInt x < fInt y)

/-- Equal; false when either is a NaN. -/
def fEq (x y : F32) : Bool := !fIsNaN x && !fIsNaN y && (x == y || (fIsZero x && fIsZero y))

def fLe (x y : F32) : Bool := fLt x y || fEq x y

def fMin (x y : F32) : F32 := if fLt y x then y else x
def fMax (x y : F32) : F32 := if fLt x y then y else x

/-- Limit to a range. -/
def fClamp (lo hi x : F32) : F32 := fMin hi (fMax lo x)

/-! ### Complex numbers in binary32 -/

/-- A complex number: real and imaginary words. -/
structure C32 where
  re : F32
  im : F32
  deriving DecidableEq, Repr, Inhabited

def C32.add (a b : C32) : C32 := ⟨fAdd a.re b.re, fAdd a.im b.im⟩
def C32.sub (a b : C32) : C32 := ⟨fSub a.re b.re, fSub a.im b.im⟩
def C32.mul (a b : C32) : C32 :=
  ⟨fSub (fMul a.re b.re) (fMul a.im b.im), fAdd (fMul a.re b.im) (fMul a.im b.re)⟩
def C32.conj (a : C32) : C32 := ⟨a.re, fNeg a.im⟩
def C32.scale (k : F32) (a : C32) : C32 := ⟨fMul a.re k, fMul a.im k⟩
def C32.mag (a : C32) : F32 := fSqrt (fAdd (fMul a.re a.re) (fMul a.im a.im))
def C32.div (a b : C32) : C32 :=
  let d := fAdd (fMul b.re b.re) (fMul b.im b.im)
  let n := a.mul b.conj
  ⟨fDiv n.re d, fDiv n.im d⟩

end Sys2Proof.Machine
end

