-- ==== Sys2Proof/Machine/Guard.lean ====
section
/-!
DEFINITION. Baize: inputs, elements, outputs, settings and checks (R427–R438).
-/

namespace Sys2Proof.Machine

/-- Change Baize's working state. -/
def State.modGuard (f : Guard → Guard) (s : State) : State := { s with guard := f s.guard }

/-! ### Inputs (R428–R430) -/

/-- `win` of an input, limited to 1–400. -/
def State.grdWin (s : State) (i : Nat) : Nat := min (max (bits (s.act (GRD_IN_CFG i)) 8 0) 1) 400

/-- The input is enabled. -/
def State.grdInEn (s : State) (i : Nat) : Bool := bitAt (s.act (GRD_IN_CFG i)) 31

/-- The high-pass coefficient 0.99843 and the constants 0.95, 1.05, 40 and 0.00025 as binary32 words. -/
abbrev f099843 : F32 := 0x3F7F991C
abbrev f095 : F32 := 0x3F733333
abbrev f105 : F32 := 0x3F866666
abbrev f40 : F32 := 0x42200000
abbrev f00025 : F32 := 0x3983126F

/-- One set through the filter of an input (R430): the squares of the window, newest first. -/
def GuardIn.step (g : GuardIn) (win : Nat) (scale : F32) (code : Nat) : GuardIn :=
  let x := fMul (fOfInt (signed 16 code)) scale
  let y := fAdd (fSub x g.x) (fMul f099843 g.y)
  { x := x, y := y, sq := (fMul y y :: g.sq).take win, code := code }

/-- M of the last `win` sets. -/
def GuardIn.mag (g : GuardIn) (win : Nat) : F32 :=
  fSqrt (fDiv (g.sq.reverse.foldl fAdd 0) (fOfInt win))

/-- A converter at either end of its range (R428). -/
def clipped (code : Nat) : Bool := code == 0x7FFF || code == 0x8000

/-- One input at a sample set. At a reference conversion the filter takes the previous sample (R438). -/
def State.guardInput (ref : Bool) (i code : Nat) (s : State) : State :=
  let g := s.guard.ins.at' i
  let code := if ref then g.code else code
  let s := (s.setFld (GRD_IN_RAW i) 15 0 code).setBit (GRD_IN_RAW i) 16 (clipped code)
  if s.grdInEn i then
    let win := s.grdWin i
    let g := g.step win (s.act (GRD_IN_SCALE i)) code
    let s := s.modGuard (fun t => { t with ins := t.ins.put i g })
    (s.setReg (GRD_IN_MAG i) (g.mag win)).setBit (GRD_IN_RAW i) 17 (decide (win ≤ g.sq.length))
  else s.modGuard (fun t => { t with ins := t.ins.put i { g with code := code } })

/-! ### Elements (R431) -/

def State.elType (s : State) (e : Nat) : Nat := bits (s.act (GRD_EL_CFG e)) 30 28
def State.elInputs (s : State) (e : Nat) : List Nat := (List.range 8).filter (fun i => bitAt (s.act (GRD_EL_CFG e)) (8 + i))

/-- The settings of an enabled element are refused with `cfg_err`. -/
def State.elBad (s : State) (e : Nat) : Bool :=
  let t := s.elType e
  t == 0 || decide (5 ≤ t) || (t == 2 && bits (s.act (GRD_EL_CFG e)) 27 26 == 3)

/-- The element is evaluated: in service, and the windows of every input in its mask full (R430). -/
def State.elReady (s : State) (e : Nat) : Bool :=
  bitAt (s.act GRD_CTL) 0 && bitAt (s.act (GRD_EL_CFG e)) 31 && !s.elBad e
    && (s.elInputs e).all (fun i => s.bit (GRD_IN_RAW i) 17)

/-- The largest and the smallest M of an input mask; with no input in the mask both are open. -/
def State.elMags (s : State) (e : Nat) : F32 × F32 :=
  match (s.elInputs e).map (fun i => s.rd (GRD_IN_MAG i)) with
  | [] => (Config.freeValue s.free % 2 ^ 32, Config.freeValue (s.free + 1) % 2 ^ 32)
  | m :: rest => (rest.foldl fMax m, rest.foldl fMin m)

/-- The 50th root of `g`, rounded to nearest: G^0.02. `k` bits of the significand are still to be found below `m`, in
units of 2^-25. -/
def root50Bits (n : Nat) : Nat → Nat → Nat
  | 0, m => m
  | k + 1, m => let t := m + 2 ^ k; root50Bits n k (if t ^ 50 ≤ n then t else m)

def root50 (g : F32) : F32 :=
  let m := root50Bits ((fInt g).natAbs * 2 ^ (25 * 50 - 149)) 27 0
  fOfRat (2 * m + 1 : Nat) (2 ^ 26)

/-- G^α − 1 and k of a curve (R431). -/
def curveOf (curve : Nat) (g : F32) : F32 × F32 :=
  if curve = 0 then (fSub (root50 g) fOne, 0x3E0F5C29)
  else if curve = 1 then (fSub g fOne, 0x41580000)
  else (fSub (fMul g g) fOne, 0x42A00000)

/-- What the bucket gains at a set: 0.25 ms / t. -/
def bucketGain (curve : Nat) (tms mx pu : F32) : F32 :=
  let g := fMin (fDiv mx pu) f40
  let (d, k) := curveOf curve g
  fDiv f00025 (fDiv (fMul tms k) d)

/-- The bucket as `GRD_EL_STAT` shows it, × 2^16. -/
def bucketShown (b : F32) : Nat :=
  if fIsNaN b || fSign b then 0
  else if fIsInf b then 0xFFFF
  else min ((fInt b).natAbs * 2 ^ 16 / 2 ^ 149) 0xFFFF

/-- Condition and counts of an element after a set: picked up, operating, initiated. -/
structure ElOut where
  up   : Bool
  op   : Bool
  init : Bool
  st   : GuardEl

/-- Definite-time overcurrent and undervoltage: picked up for `d` sets. -/
def elTimed (up0 start hold : Bool) (d : Nat) (st : GuardEl) : ElOut :=
  let up := if up0 then hold else start
  let cnt := if up then (if up0 then st.count + 1 else 0) else 0
  { up := up, op := up && decide (d ≤ cnt), init := false, st := { st with count := cnt } }

/-- Inverse-time overcurrent. A dropped element holds its bucket for `r` sets. -/
def elInverse (up0 start hold : Bool) (gain : F32) (r : Nat) (st : GuardEl) : ElOut :=
  let up := if up0 then hold else start
  if up then
    let b := fAdd st.bucket gain
    { up := true, op := fLe fOne b, init := false, st := { st with bucket := b, hold := 0 } }
  else
    let h := if up0 then 0 else st.hold + 1
    let b := if r ≤ h then 0 else st.bucket
    { up := false, op := false, init := false, st := { st with bucket := b, hold := h } }

/-- Breaker-failure backstop: `cb` is the breaker's input active with `cb_en`. -/
def elBreaker (up0 init0 start low cb : Bool) (d : Nat) (st : GuardEl) : ElOut :=
  if low && !cb then { up := false, op := false, init := false, st := { st with count := 0 } }
  else
    let up := init0 && (start || cb || up0)
    let cnt := if up then (if up0 then st.count + 1 else 0) else 0
    { up := up, op := up && decide (d ≤ cnt), init := init0, st := { st with count := cnt } }

/-- Binary input `b` as accepted (R432). -/
def State.grdBin (s : State) (b : Nat) : Bool := s.bit GRD_STAT (12 + b)

/-- An element that is evaluated, at a set. -/
def State.elEval (e : Nat) (s : State) : ElOut :=
  let cfg := s.act (GRD_EL_CFG e)
  let pu := s.act (GRD_EL_PU e)
  let aux := s.act (GRD_EL_AUX e)
  let tm := s.act (GRD_EL_TIME e)
  let d := bits tm 15 0 * 4
  let (mx, mn) := s.elMags e
  let st := s.guard.els.at' e
  let up0 := s.bit (GRD_EL_STAT e) 0
  let start := fLt pu mx
  let low := fLt mx (fMul f095 pu)
  let t := bits cfg 30 28
  if t = 1 then elTimed up0 start (!low) d st
  else if t = 2 then
    elInverse up0 start (!low) (bucketGain (bits cfg 27 26) (s.act (GRD_EL_TMS e)) mx pu) (bits tm 31 16 * 4) st
  else if t = 3 then
    let m := if bitAt cfg 25 then mx else mn
    let live := !fLt 0 aux || fLe aux mx
    elTimed up0 (fLt m pu && live) (fLt m (fMul f105 pu) && live) d st
  else
    let ini := s.act (GRD_EL_INIT e)
    let init0 := s.bit (GRD_EL_STAT e) 2 || decide (bits ini 7 0 &&& s.operating ≠ 0)
      || decide (bits ini 15 8 &&& s.fld GRD_STAT 19 12 ≠ 0)
    elBreaker up0 init0 start low (bitAt cfg 24 && s.grdBin (bits cfg 23 21)) d st

/-- An element's operation or drop: recorded, and an operation counted (R437). -/
def State.elChanged (e : Nat) (op : Bool) (s : State) : State :=
  let s := s.setBit GRD_STAT (20 + e) op
  let s := if op then (s.inc GRD_OPER).evt GRD_EVT 1 else s
  s.baizeEvent 3 e GRD_EVT 1 []

/-- Put an element's outcome. -/
def State.elPut (e : Nat) (o : ElOut) (s : State) : State :=
  let was := s.bit (GRD_EL_STAT e) 1
  let s := s.modGuard (fun t => { t with els := t.els.put e o.st })
  let s := s.setReg (GRD_EL_STAT e) (b2n o.up + 2 * b2n o.op + 4 * b2n o.init + bucketShown o.st.bucket * 2 ^ 16)
  if was = o.op then s else s.elChanged e o.op

/-- One element at a set; one that is not evaluated neither picks up nor operates. -/
def State.guardElement (e : Nat) (s : State) : State :=
  if s.elReady e then
    let s' := s.elPut e (s.elEval e)
    if (s.elInputs e).isEmpty then s'.drew.drew else s'
  else
    let st := s.guard.els.at' e
    s.elPut e { up := false, op := false, init := s.bit (GRD_EL_STAT e) 2, st := { st with count := 0 } }

/-! ### A sample set (R429, R438) -/

/-- GUARD_SAMPLE_SET: the eight converters' codes, filters, elements, outputs; the sign-of-life count advances, and every
64th set converts the reference. -/
def State.sampleSet (codes : List Nat) (s : State) : State :=
  if s.power.ao = false then s else
  let s := (s.guardArm).modGuard (fun g => { g with sets := g.sets + 1 })
  let ref := s.guard.sets % 64 == 0
  let s := if ref then s.modGuard (fun g => { g with refs := g.refs ++ codes }) else s
  let s := s.setBit GRD_STAT 0 true
  let s := s.each (List.range 8) (fun i => State.guardInput ref i (codes.getD i 0))
  (s.each (List.range 8) State.guardElement).closeOutputs

def execGuardSampleSet (codes : Vector (BitVec 16) 8) (s : State) : Host.Outcome State Fault Refusal :=
  .next (s.sampleSet (codes.toList.map BitVec.toNat))

/-! ### Outputs (R434) -/

/-- An output opens: closed for `min_ms`, and no element in its mask operating. -/
def execOutputOpen (o : Fin 4) (s : State) : Host.Outcome State Fault Refusal :=
  let cfg := s.act (GRD_OUT_CFG o.val)
  .next (if s.power.ao ∧ s.bit GRD_STAT (8 + o.val) ∧ bits cfg 7 0 &&& s.operating = 0
      ∧ s.guard.outAt.at' o.val + bits cfg 31 16 * tMs ≤ s.clk then
    ((s.setBit GRD_STAT (8 + o.val) false).drive (.gtrip o.val) false).baizeEvent 3 o.val GRD_EVT 2 []
  else s)

/-- A guard fault of a cause (R438): recorded, shown, and seen by health (R323). -/
def State.guardFault (cause code : Nat) (s : State) : State :=
  let s := ((s.evt GRD_FAULT cause).setBit GRD_STAT 4 true).evt GRD_EVT 4
  (s.baizeEvent 5 code GRD_EVT 4 []).healthUpdate

/-- An output reads back its opposite for 2 ms. -/
def execOutputMismatch (o : Fin 4) (s : State) : Host.Outcome State Fault Refusal :=
  .next (if s.power.ao then (s.evt GRD_EVT 3).guardFault 2 o.val else s)

/-- The fault status follows `GRD_FAULT`, which software clears. -/
def State.guardFaultShown (s : State) : State := (s.setBit GRD_STAT 4 (decide (s.rd GRD_FAULT ≠ 0))).healthUpdate

/-! ### Binary inputs (R432) -/

/-- Show binary input `b`; a change is recorded. -/
def State.binShow (b : Nat) (s : State) : State :=
  let v := bitAt s.guard.binRaw b != bitAt (s.act GRD_BIN_CFG) b
  if s.grdBin b = v then s
  else ((s.setBit GRD_STAT (12 + b) v).evt GRD_EVT 7).baizeEvent 3 b GRD_EVT 7 []

/-- An input has been stable at `level` for `deb_ms`. -/
def execBinaryInputChange (b : Fin 8) (level : Bool) (s : State) : Host.Outcome State Fault Refusal :=
  .next (if s.power.ao then
    (s.modGuard (fun g => { g with binRaw := setBits g.binRaw b.val b.val (b2n level) })).binShow b.val else s)

/-! ### Disarm (R433) -/

/-- Baize disarms `disarm_ms` after the mandate gain or the rise of health, whichever is later. -/
def execGuardDisarm (s : State) : Host.Outcome State Fault Refusal :=
  .next (if s.power.ao ∧ s.bit GRD_STAT 1 ∧ s.armWanted = false ∧ s.guard.since + bits (s.act GRD_CTL) 31 16 * tMs ≤ s.clk then
    ((s.setBit GRD_STAT 1 false).evt GRD_EVT 0).baizeEvent 3 0 GRD_EVT 0 []
  else s)

/-! ### Settings (R436) -/

/-- Addresses of Baize's settings. -/
def guardSettings : List Nat :=
  [GRD_CTL, GRD_BIN_CFG]
    ++ (List.range 8).flatMap (fun i => [GRD_IN_CFG i, GRD_IN_SCALE i])
    ++ (List.range 8).flatMap (fun e => [GRD_EL_CFG e, GRD_EL_PU e, GRD_EL_TIME e, GRD_EL_TMS e, GRD_EL_AUX e, GRD_EL_INIT e])
    ++ (List.range 4).map GRD_OUT_CFG

/-- A setting differs between the pending and the active set. -/
def State.grdDiffers (s : State) (a : Nat) : Bool := decide (s.rd a ≠ s.act a)

/-- Copy the pending set to the active one. -/
def State.loadActive (s : State) : State :=
  s.each guardSettings (fun a s => s.modGuard (fun g => { g with active := FMap.set resetWord a (s.reg a) g.active }))

/-- The instance's window restarts: at an enable with its filter too. -/
def GuardIn.restart (all : Bool) (g : GuardIn) : GuardIn := if all then { code := g.code } else { g with sq := [] }

/-- GUARD_APPLY: elements and inputs whose settings changed restart, all others continue. -/
def State.guardApply (s : State) : State :=
  let els := (List.range 8).filter (fun e =>
    [GRD_EL_CFG e, GRD_EL_PU e, GRD_EL_TIME e, GRD_EL_TMS e, GRD_EL_AUX e, GRD_EL_INIT e].any s.grdDiffers)
  let wins := (List.range 8).filter (fun i => s.grdDiffers (GRD_IN_SCALE i) || decide (s.fld (GRD_IN_CFG i) 8 0 ≠ bits (s.act (GRD_IN_CFG i)) 8 0))
  let ens := (List.range 8).filter (fun i => s.bit (GRD_IN_CFG i) 31 != s.grdInEn i)
  let s := (s.loadActive).setBit GRD_STAT 3 true
  let s := s.each els (fun e => State.elPut e { up := false, op := false, init := false, st := {} })
  let s := s.each (wins ++ ens) (fun i s =>
    (s.modGuard (fun g => { g with ins := g.ins.mod i (GuardIn.restart (ens.contains i)) })).setBit (GRD_IN_RAW i) 17 false)
  let bad := (List.range 8).any (fun e => bitAt (s.act (GRD_EL_CFG e)) 31 && s.elBad e)
  let s := s.when bad (State.evt GRD_EVT 5)
  (s.each (List.range 8) State.binShow).guardArm

def execGuardApply (w : Who) (value : Word) (s : State) : Host.Outcome State Fault Refusal :=
  .next (s.gateSup w GRD_APPLY (State.when (bitAt value.toNat 0) State.guardApply))

/-! ### Checks by the network die (R202, R438) -/

/-- A reference conversion lies within ±0.5 % of 1.000 V: a code of 1.2 V / 2^15. -/
def refOk (code : Nat) : Bool := decide (((signed 16 code) * 120 - 3276800).natAbs ≤ 16384)

/-- GUARD_CHECK: Baize's count must have advanced, and every reference conversion lie in its band. -/
def State.guardCheck (s : State) : State :=
  if s.power.nx = false then s else
  let g := s.guard
  let s := s.modGuard (fun t => { t with lastSet := t.sets, refs := [] })
  let s := if g.sets = g.lastSet then s.guardFault 0 0 else s
  if g.refs.all refOk then s else s.guardFault 1 0

def execGuardCheck (s : State) : Host.Outcome State Fault Refusal := .next s.guardCheck

/-- GUARD_OSC_DEVIATION (R22): beyond ±2 % over 1 ms, measured while the 25 MHz reference is present and stable. -/
def execGuardOscDeviation (s : State) : Host.Outcome State Fault Refusal :=
  .next (if s.power.nx && s.power.refOk then s.guardFault 3 0 else s)

end Sys2Proof.Machine
end

