-- ==== Sys2Proof/Machine/Port.lean ====
section
/-!
DEFINITION. The transmit side of an external port's MAC: rates, low-power idle, timestamps, and the frames that pass the
switch by at frame boundaries (R62, R69, R270, R273, R302, R306).
-/

namespace Sys2Proof.Machine

/-- The 48-bit station address of a MAC. -/
def State.macAddr (s : State) (p : Nat) : Nat := s.rd (MAC_ADDR_LO p) + 2 ^ 32 * s.fld (MAC_ADDR_HI p) 15 0

/-- Role of the module (R316): 0 PRIMARY, 1 SECONDARY, 2 ARBITER, 3 invalid. -/
def State.role (s : State) : Nat := s.fld RED_STRAP 1 0

/-- Rate code of a port: 0 1000BASE-X, 1 10GBASE-R, 2 25GBASE-R; an internal port is 3. -/
def State.rateCode (s : State) (p : Nat) : Nat := if p ≤ 8 then s.fld (MAC_CFG p) 2 1 else 3

/-- Octets a port carries in a tick. -/
def State.octetsPerTick (s : State) (p : Nat) : Nat := match s.rateCode p with | 0 => 1 | 1 => 10 | _ => 25

/-- Ticks a frame of `len` octets, preamble and gap takes on an external port. -/
def State.txTicks (s : State) (p len : Nat) : Nat := (len + 20 + s.octetsPerTick p - 1) / s.octetsPerTick p

/-- The transmit timestamp of a frame that begins now on port `p`, in ns (R62, R273). (DESIGN CHOICE: the reading at the
tick; the place of the timestamp point within the tick is left out.) -/
def State.txStampNs (s : State) (p : Nat) : Nat := ((s.wallNs : Int) + signed 16 (s.fld (MAC_LAT p) 31 16)).toNat

/-- The receive timestamp of a frame received now on port `p`, in ns (R62, R273). -/
def State.rxStampNs (s : State) (p : Nat) : Nat := ((s.wallNs : Int) - signed 16 (s.fld (MAC_LAT p) 15 0)).toNat

/-- A PTP timestamp of an instant in ns: 48-bit seconds, 32-bit nanoseconds. -/
def ptpTime (ns : Nat) : List Byte := bytesBE 6 (ns / 1000000000) ++ bytesBE 4 (ns % 1000000000)

/-- A frame of `len` octets has left external port `p` (R314, R315, R306): counted, and the port is not idle. -/
def State.macSent (p len : Nat) (s : State) : State :=
  let s := (s.inc (MAC_TX_FRAMES p)).setReg64 (MAC_TX_OCT_LO p) (min (s.rd64 (MAC_TX_OCT_LO p) + len) (2 ^ 64 - 1))
  { s with swc := { s.swc with idleAt := s.swc.idleAt.put p s.clk } }

/-- A port in low-power idle wakes: the next first bit follows after `tw_us` (R306). -/
def State.wakePort (p : Nat) (s : State) : State :=
  if p ≤ 8 ∧ s.bit (MAC_STAT p) 2 then
    let tw := max (s.fld (MAC_EEE p) 31 16) 1 * tUs
    { s with swc := { s.swc with wakeAt := s.swc.wakeAt.put p (s.clk + tw) } }.setBit (MAC_STAT p) 2 false
  else s

/-- No frame is in transmission on a port. -/
def State.atBoundary (s : State) (p : Nat) : Bool := (s.swc.inTx.at' p).isNone && (s.swc.dirTx.at' p).isNone

/-- The last bit of the direct frame in transmission has left. -/
def State.directEnd (p : Nat) (s : State) : State :=
  match s.swc.dirTx.at' p with
  | some (len, due) =>
    if due ≤ s.clk then { s with swc := { s.swc with dirTx := s.swc.dirTx.put p none } }.macSent p len else s
  | none => s

/-- A direct frame begins; the message that carries its transmit timestamp comes next (R69). -/
def State.directStart (p : Nat) (d : Direct) (rest : List Direct) (s : State) : State :=
  let next := match d.follow with
    | some (a, b) =>
      let f := a ++ ptpTime (s.txStampNs p) ++ b
      [{ out := .frame p f, len := f.length + 4, ptp := d.ptp }]
    | none => []
  let s := (s.emit d.out).when d.ptp (State.inc (TIME_BM_TX (p - 6)))
  { s with swc := { s.swc with
      direct := s.swc.direct.put p (next ++ rest)
      dirTx := s.swc.dirTx.put p (some (d.len, s.clk + s.txTicks p d.len)) } }

/-- At a frame boundary the first direct frame that waits begins (R270). -/
def State.directNext (p : Nat) (s : State) : State :=
  if s.portUp p && s.atBoundary p && decide (s.swc.wakeAt.at' p ≤ s.clk) then
    match s.swc.direct.at' p with
    | d :: rest => s.directStart p d rest
    | [] => s
  else s

/-- Give a frame to a port's MAC, outside the switch; nothing is taken for a port that is down. -/
def State.sendDirect (p : Nat) (d : Direct) (s : State) : State :=
  if s.portUp p then
    ({ s with swc := { s.swc with direct := s.swc.direct.put p (s.swc.direct.at' p ++ [d]) } }.wakePort p).directNext p
  else s

/-- A port goes down: its direct frames are lost, the one in transmission abandoned (R305). -/
def State.directDrop (p : Nat) (s : State) : State :=
  let s := s.when (s.swc.dirTx.at' p).isSome (State.inc (MAC_TX_ABORT p))
  { s with swc := { s.swc with direct := s.swc.direct.put p [], dirTx := s.swc.dirTx.put p none } }

end Sys2Proof.Machine
end

