-- ==== Sys2Proof/Machine/TimeUnit.lean ====
section
/-!
DEFINITION. The time unit: commands, synchronisation, PPS, boundary master, trigger channels (R53–R77).
-/

namespace Sys2Proof.Machine

/-! ### State and class -/

/-- State of the time unit (R56): 0 UNSET, 1 SEEDED, 2 LOCKED, 3 HOLDOVER. -/
def State.timeState (s : State) : Nat := s.fld TIME_STAT 2 0

/-- Put the state and the synchronisation class (R56). -/
def State.setTimeState (st cls : Nat) (s : State) : State := (s.setFld TIME_STAT 2 0 st).setFld TIME_STAT 5 4 cls

/-- `tmo_ms` in ticks; 0 is treated as 1 ms. -/
def State.masterTmo (s : State) : Nat := max (s.fld TIME_MASTER_TMO 15 0) 1 * tMs

/-- The last qualifying Sync is younger than `tmo_ms` (R58). -/
def State.masterSeen (s : State) : Bool :=
  match s.time.lastSync with
  | some t => decide (s.clk - t < s.masterTmo)
  | none => false

/-- Whole seconds of local time since entry to HOLDOVER, 0 in every other state (R59). (DEDUCED: local time is what the
increments add; a set or step of the reading in HOLDOVER does not age it.) -/
def State.holdAge (s : State) : Nat :=
  if s.timeState = 3 then min (s.time.holdAcc / (1000000000 * 2 ^ 32)) (2 ^ 32 - 1) else 0

/-- Enter HOLDOVER (R57, R59). -/
def State.enterHoldover (s : State) : State :=
  let s := { s with time := { s.time with holdAcc := 0 } }
  (s.setTimeState 3 2).inc TIME_HOLD_CNT

/-! ### Steps (R57, R60, R61, R76, R84, R99) -/

/-- A trigger channel sees a step: one forward over its next instant is marked (R76). -/
def trigStep (now : Nat) (t : Trig) : Trig := if t.next ≤ now then { t with stepped := true } else t

/-- An angle reference sees a step of `d` ns (R84): the offset takes it up, at once in ACQUIRE. -/
def weftStep (d : Int) (acquire : Bool) (w : Weft) : Weft :=
  { w with timeStep := true, offset := if acquire then 0 else w.offset + d }

/-- A census instant in ns: the high seconds are those of the current time (R96). -/
def State.cenInstant (s : State) (sec ns : Nat) : Nat := (s.time.sec / 2 ^ 32 * 2 ^ 32 + sec) * 10 ^ 9 + ns

/-- A step from `old` to `now` passes the instant of a census armed in time form (R99); one back behind it undoes that. -/
def State.censusStep (old now : Nat) (s : State) : State :=
  let at_ := s.cenInstant s.cen.sec s.cen.ns
  let passed := !s.cen.grid && decide (at_ ≤ now) && (s.cen.stepped || decide (old < at_))
  { s with cen := { s.cen with stepped := passed } }

/-- The reference of a grid census goes OFF: the census is aborted (R99). -/
def State.cenRefOff (s : State) : State :=
  if s.bit CEN_STAT 0 ∧ s.cen.grid then (s.setBit CEN_STAT 0 false).evt CEN_ERR 3 else s

/-- The time unit's reading changes by a step to `ns` nanoseconds and fraction `frac`; every consumer of wall time sees
it (R61). (DESIGN CHOICE: seconds beyond 48 bits, of which the spec says nothing, wrap modulo 2^48.) -/
def State.stepTime (ns frac : Nat) (s : State) : State :=
  let old := s.wallNs
  let d : Int := (ns : Int) - (old : Int)
  let sec' := ns / 1000000000 % 2 ^ 48
  let changed := sec' != s.time.sec
  let s := { s with time := { s.time with
      sec := sec', ns := ns % 1000000000, frac := frac
      secTick := if changed then some s.clk else s.time.secTick } }
  let s := s.inc TIME_STEP_CNT
  let s := s.each (List.range 17) (fun n s =>
    if s.bit (TIME_TRIG_STAT n) 0 then { s with trig := s.trig.mod n (trigStep ns) } else s)
  let s := s.each (List.range 16) (fun r s =>
    if s.refState r = 0 then s
    else
      let s := { s with weft := s.weft.mod r (weftStep d (s.refState r == 1)) }
      s.setBit (WEFT_REF_STAT r) 6 (decide ((s.weft.at' r).offset ≠ 0)))
  let s := s.each (s.sie.map (·.1)) (fun n s => { s with sie := s.sie.mod n (fun c => { c with
      held := some (c.held.getD (signed 32 (s.rd (SIE_CH_AGE_MEAN n)))), ages := [], skew := c.skew + d }) })
  let s := s.censusStep old ns
  s.each (List.range 2) (fun k s => { s with bm := s.bm.mod k (fun b => { b with syncDue := s.clk }) })

/-- SET (R57, R60). -/
def State.timeSet (s : State) : State :=
  let ns := s.rd TIME_SET_NS
  if 1000000000 ≤ ns then s.evt TIME_EVT 6
  else
    let sec := s.rd TIME_SET_SEC_LO + 2 ^ 32 * s.fld TIME_SET_SEC_HI 15 0
    let s := s.stepTime (sec * 1000000000 + ns) 0
    let s := if s.timeState = 0 then s.setTimeState 1 1 else s
    (s.setBit TIME_STAT 9 false).evt TIME_EVT 4

/-- STEP (R57, R60): the fraction is unchanged. -/
def State.timeAdd (s : State) : State :=
  let dn := signed 32 (s.rd TIME_STEP_NS)
  let t : Int := (s.wallNs : Int) + signed 32 (s.rd TIME_STEP_SEC) * 1000000000 + dn
  if dn < -999999999 ∨ 999999999 < dn ∨ t < 0 then s.evt TIME_EVT 6
  else (s.stepTime t.toNat s.time.frac).evt TIME_EVT 3

/-- RTC time is valid. -/
def State.rtcValid (s : State) : Bool := s.bit BKD_STAT 0

/-- SEED, and the seed at NX power-up (R57, R60, R61). -/
def State.timeSeed (s : State) : State :=
  if s.rtcValid = false then s.evt TIME_EVT 6
  else
    let s := s.stepTime (s.bkd.rtc * 1000000000 / 32768 + s.rd TIME_RTC_OFS * 1000000000) 0
    let s := if s.timeState = 0 then s.setTimeState 1 1 else s
    (s.setBit TIME_STAT 9 true).evt TIME_EVT 5

/-- LOCK (R57). (DESIGN CHOICE: in LOCKED, which the table leaves out, it does nothing and sets no `lock_rej`.) -/
def State.timeLock (s : State) : State :=
  let st := s.timeState
  if st = 2 then s
  else if (st = 1 ∨ st = 3) ∧ s.masterSeen then s.setTimeState 2 2
  else s.evt TIME_EVT 1

/-- UNLOCK (R57). (DESIGN CHOICE: outside LOCKED, which the table leaves out, it does nothing and sets no `lock_rej`.) -/
def State.timeUnlock (s : State) : State := if s.timeState = 2 then s.enterHoldover else s

/-- A write of the increment (R54, R59). -/
def State.writeIncr (hi lo : Nat) (s : State) : State :=
  let v := bits hi 3 0 * 2 ^ 32 + lo
  if (s.timeState = 3 ∧ s.bit TIME_CTL 1) ∨ v * 1000 < 7996 * 2 ^ 32 ∨ 8004 * 2 ^ 32 < v * 1000 then s.evt TIME_EVT 2
  else
    let s := (s.setReg TIME_INCR_LO lo).setReg TIME_INCR_HI (bits hi 3 0)
    { s with time := { s.time with incr := v } }

/-- A command written to `TIME_CMD` (R60, R77): ignored with `cmd_rej` while an earlier one is in progress. (DESIGN CHOICE:
the effect stands at once, and `busy` until the next tick ends.) -/
def State.timeCmd (f : State → State) (s : State) : State :=
  if s.bit TIME_STAT 8 then s.evt TIME_EVT 6 else (f s).setBit TIME_STAT 8 true

def execIncrementWrite (w : Who) (hi lo : Word) (s : State) : Host.Outcome State Fault Refusal :=
  .next (s.gateSup w TIME_INCR_HI (State.writeIncr hi.toNat lo.toNat))

def execSet (w : Who) (s : State) : Host.Outcome State Fault Refusal :=
  .next (s.gateSup w TIME_CMD (State.timeCmd State.timeSet))
def execStep (w : Who) (s : State) : Host.Outcome State Fault Refusal :=
  .next (s.gateSup w TIME_CMD (State.timeCmd State.timeAdd))
def execSeed (w : Who) (s : State) : Host.Outcome State Fault Refusal :=
  .next (s.gateSup w TIME_CMD (State.timeCmd State.timeSeed))
def execLock (w : Who) (s : State) : Host.Outcome State Fault Refusal :=
  .next (s.gateSup w TIME_CMD (State.timeCmd State.timeLock))
def execUnlock (w : Who) (s : State) : Host.Outcome State Fault Refusal :=
  .next (s.gateSup w TIME_CMD (State.timeCmd State.timeUnlock))

/-! ### The master watch (R58, R71) -/

/-- The watch bit of a port in `TIME_MASTER_CFG`. -/
def watchBit : Nat → Option Nat
  | 0 => some 24
  | 1 => some 25
  | 6 => some 26
  | 7 => some 27
  | _ => none

/-- The module is boundary master on the port (R69). -/
def State.bmOn (s : State) (port : Nat) : Bool :=
  (port == 6 && s.bit (TIME_BM_CFG 0) 31) || (port == 7 && s.bit (TIME_BM_CFG 1) 31)

/-- A PTP Sync is received on a port (R58, R71). (DESIGN CHOICE: a Sync exactly 1 s old still lies within the preceding
1 s.) -/
def State.ptpSync (port domain clockId portNumber seqId : Nat) (s : State) : State :=
  match watchBit port with
  | none => s
  | some b =>
    if s.bmOn port then s.when (s.bit TIME_MASTER_CFG b) (State.evt TIME_EVT 9)
    else if s.bit TIME_MASTER_CFG 31 ∧ s.bit TIME_MASTER_CFG b ∧ s.fld TIME_MASTER_CFG 23 16 = domain
        ∧ s.fld TIME_MASTER_CFG 15 0 = portNumber ∧ s.rd64 TIME_MASTER_ID_LO = clockId then
      let recent := s.time.syncs.filter (fun e => decide (s.clk - e.2 ≤ tSec))
      let dup := recent.any (fun e => e.1 == seqId)
      let s := { s with time := { s.time with lastSync := some s.clk, syncs := (seqId, s.clk) :: recent } }
      s.when (!dup) (State.inc TIME_SYNC_CNT)
    else s

def execPtpSyncReceive (port : Fin 9) (domain : Byte) (clockId : BitVec 64) (portNumber seqId : BitVec 16) (s : State) :
    Host.Outcome State Fault Refusal :=
  .next (s.ptpSync port.val domain.toNat clockId.toNat portNumber.toNat seqId.toNat)

/-- No qualifying Sync for `tmo_ms` (R57). -/
def execMasterLost (s : State) : Host.Outcome State Fault Refusal :=
  .next (if s.timeState = 2 ∧ s.masterSeen = false then s.enterHoldover.evt TIME_EVT 0 else s)

/-- Holdover age past `hold_lim` (R56). (DESIGN CHOICE: class 1 then stays until HOLDOVER is left or a new entry, also when
`hold_lim` is raised above the age.) -/
def execHoldLimitExpiry (s : State) : Host.Outcome State Fault Refusal :=
  .next (if s.timeState = 3 ∧ s.fld TIME_MASTER_TMO 31 16 < s.holdAge then s.setTimeState 3 1 else s)

/-! ### Reading the time (R66) -/

/-- A read of `TIME_NOW_NS` latches seconds and fraction at the same tick. -/
def State.readNow (w : Who) (s : State) : State :=
  let t := s.time
  let l := ((s.latched.put TIME_NOW_SEC_LO (t.sec % 2 ^ 32)).put TIME_NOW_SEC_HI (t.sec / 2 ^ 32)).put TIME_NOW_FRAC t.frac
  { s with latched := l }.okData w t.ns

/-- Every slice may read the TIME block (R213). -/
def execNowNsRead (w : Who) (s : State) : Host.Outcome State Fault Refusal :=
  .next (s.gate w TIME_NOW_NS false true 0 TIME_NOW_NS .rd (State.readNow w))

/-! ### PPS (R67, R68) -/

/-- PPS_OUT is driven: enabled, `out_min` not 3, class high enough. -/
def State.ppsDriven (s : State) : Bool :=
  s.bit TIME_PPS_CFG 31 && decide (s.fld TIME_PPS_CFG 1 0 ≠ 3 ∧ s.fld TIME_PPS_CFG 1 0 ≤ s.syncClass)

/-- `width_us` in ticks, limited to 1–500,000 µs. -/
def State.ppsWidth (s : State) : Nat := min (max (s.fld TIME_PPS_CFG 27 8) 1) 500000 * tUs

/-- Hold PPS_OUT low. -/
def State.ppsLow (s : State) : State :=
  if s.time.ppsUntil.isSome then { s with time := { s.time with ppsUntil := none } }.drive .ppsOut false else s

/-- PPS_OUT rises at the tick on which the seconds count changed; when already high it stays high and its width
restarts. -/
def execPpsPulse (s : State) : Host.Outcome State Fault Refusal :=
  .next (if s.time.secTick = some s.clk then
    if s.ppsDriven then
      let high := s.time.ppsUntil.isSome
      let s := { s with time := { s.time with ppsUntil := some (s.clk + s.ppsWidth), secTick := none } }
      if high then s else s.drive .ppsOut true
    else { s with time := { s.time with secTick := none } }.ppsLow
  else s)

/-- PPS_OUT falls `width_us` after it rose, or as soon as it is no longer driven. -/
def execPpsPulseEnd (s : State) : Host.Outcome State Fault Refusal :=
  .next (match s.time.ppsUntil with
    | some t => if t ≤ s.clk ∨ s.ppsDriven = false then s.ppsLow else s
    | none => s)

/-- A rising edge on PPS_IN, `sub` ns after the present tick (R68): the time unit's reading at the edge. -/
def State.ppsIn (sub : Nat) (s : State) : State :=
  let t := s.wallNs + sub
  if s.bit TIME_PPS_CFG 4 then
    ((s.setReg TIME_PPSIN_NS (t % 1000000000)).setReg TIME_PPSIN_SEC (t / 1000000000 % 2 ^ 32)).evt TIME_EVT 7
  else s

def execPpsInEdge (sub : Fin 8) (s : State) : Host.Outcome State Fault Refusal := .next (s.ppsIn sub.val)

/-! ### Boundary master (R69, R70) -/

/-- A PTP header (IEEE 1588-2019): message type, length, domain, flags, source port, sequenceId, log interval. (PRESUMED,
from IEEE 1588-2019: minorVersionPTP 1, minorSdoId 0, messageTypeSpecific 0; controlField 0; correctionField 0 in every
message; logMessageInterval 0x7F in the Pdelay messages.) -/
def ptpHeader (mt len domain flags clockId portNo seq logInt : Nat) : List Byte :=
  bytesBE 1 mt ++ bytesBE 1 0x12 ++ bytesBE 2 len ++ bytesBE 1 domain ++ bytesBE 1 0 ++ bytesBE 2 flags
    ++ bytesBE 8 0 ++ bytesBE 4 0 ++ bytesBE 8 clockId ++ bytesBE 2 portNo ++ bytesBE 2 seq ++ bytesBE 1 0
    ++ bytesBE 1 logInt

/-- `log_sync`, signed −4 to 1, other values treated as 0. -/
def State.logSync (s : State) (k : Nat) : Int :=
  let v := signed 4 (s.fld (TIME_BM_CFG k) 3 0)
  if -4 ≤ v ∧ v ≤ 1 then v else 0

/-- The Sync interval in ticks. -/
def State.syncInterval (s : State) (k : Nat) : Nat :=
  let v := s.logSync k
  if v < 0 then tSec / 2 ^ v.natAbs else tSec * 2 ^ v.natAbs

/-- The octets of a PTP message of boundary port `k` from its destination on. -/
def State.bmFrame (s : State) (k dst : Nat) (msg : List Byte) : List Byte :=
  bytesBE 6 dst ++ bytesBE 6 (s.macAddr (6 + k)) ++ bytesBE 2 0x88F7 ++ msg

/-- Send a PTP message from boundary port `k` through the port's MAC, outside the switch (R69), and after it the message
whose head and tail `follow` gives, with the first one's transmit timestamp between them. -/
def State.bmSend (k dst : Nat) (msg : List Byte) (follow : Option (List Byte × List Byte)) (s : State) : State :=
  let f := s.bmFrame k dst msg
  s.sendDirect (6 + k)
    { out := .frame (6 + k) f, len := f.length + 4, ptp := true, follow := follow.map (fun x => (s.bmFrame k dst x.1, x.2)) }

/-- Sync, Follow_Up and Announce are sent on the port (R69). -/
def State.bmMaySend (s : State) (k : Nat) : Bool :=
  s.bit (TIME_BM_CFG k) 31 && s.portUp (6 + k)
    && decide (s.fld (TIME_BM_CFG k) 7 6 ≠ 3 ∧ s.fld (TIME_BM_CFG k) 7 6 ≤ s.syncClass)

/-- A two-step Sync and its Follow_Up, which carries the Sync's transmit timestamp. -/
def State.bmSync (k : Nat) (s : State) : State :=
  let b := s.bm.at' k
  if s.bmMaySend k ∧ b.syncDue ≤ s.clk then
    let dom := s.fld (TIME_BM_CFG k) 23 16
    let id := s.rd64 TIME_BM_ID_LO
    let li := unsigned 8 (s.logSync k)
    let s := s.bmSend k 0x011B19000000 (ptpHeader 0 44 dom 0x0200 id (k + 1) b.syncSeq li ++ ptpTime 0)
      (some (ptpHeader 8 44 dom 0 id (k + 1) b.syncSeq li, []))
    { s with bm := s.bm.put k { b with syncSeq := (b.syncSeq + 1) % 2 ^ 16, syncDue := s.clk + s.syncInterval k } }
  else s

def execBmSyncSend (k : Fin 2) (s : State) : Host.Outcome State Fault Refusal := .next (s.bmSync k.val)

/-- The flags of an Announce (R70): leap and validity flags as written, traceable flags only in class 2, ptpTimescale
always. -/
def State.annFlags (s : State) : Nat :=
  let u := s.rd TIME_BM_UTC
  let g := decide (s.syncClass = 2)
  b2n (bitAt u 17) + 2 * b2n (bitAt u 18) + 4 * b2n (bitAt u 16) + 8 + 16 * b2n (bitAt u 19 && g) + 32 * b2n (bitAt u 20 && g)

/-- clockClass of an Announce: `hold_class` in HOLDOVER when not 0 (R70). -/
def State.annClass (s : State) (k : Nat) : Nat :=
  let h := s.fld (TIME_BM_CFG k) 15 8
  if s.timeState = 3 ∧ h ≠ 0 then h else s.fld TIME_BM_QUAL 7 0

/-- An Announce (R70). -/
def State.bmAnnounce (k : Nat) (s : State) : State :=
  let b := s.bm.at' k
  if s.bmMaySend k ∧ b.annDue ≤ s.clk then
    let la := s.fld (TIME_BM_CFG k) 5 4
    let msg := ptpHeader 0xB 64 (s.fld (TIME_BM_CFG k) 23 16) s.annFlags (s.rd64 TIME_BM_ID_LO) (k + 1) b.annSeq la
      ++ ptpTime 0 ++ bytesBE 2 (s.fld TIME_BM_UTC 15 0) ++ bytesBE 1 0 ++ bytesBE 1 (s.fld TIME_BM_PRIO 7 0)
      ++ bytesBE 1 (s.annClass k) ++ bytesBE 1 (s.fld TIME_BM_QUAL 15 8) ++ bytesBE 2 (s.fld TIME_BM_QUAL 31 16)
      ++ bytesBE 1 (s.fld TIME_BM_PRIO 15 8) ++ bytesBE 8 (s.rd64 TIME_BM_GM_LO)
      ++ bytesBE 2 (s.fld TIME_BM_PRIO 23 16 + 1) ++ bytesBE 1 (s.fld TIME_BM_PRIO 31 24)
    let s := s.bmSend k 0x011B19000000 msg none
    { s with bm := s.bm.put k { b with annSeq := (b.annSeq + 1) % 2 ^ 16, annDue := s.clk + tSec * 2 ^ la } }
  else s

def execBmAnnounceSend (k : Fin 2) (s : State) : Host.Outcome State Fault Refusal := .next (s.bmAnnounce k.val)

/-- A Pdelay_Req of the port's domain is answered with Pdelay_Resp, which carries its receive timestamp, and
Pdelay_Resp_Follow_Up, which carries the answer's transmit timestamp (R69). -/
def State.bmPdelay (k domain reqPort seqId : Nat) (s : State) : State :=
  if s.bit (TIME_BM_CFG k) 31 ∧ s.portUp (6 + k) ∧ s.fld (TIME_BM_CFG k) 23 16 = domain then
    let id := s.rd64 TIME_BM_ID_LO
    let req := bytesBE 10 reqPort
    let rx := s.rxStampNs (6 + k)
    let s := s.bmSend k 0x0180C200000E (ptpHeader 3 54 domain 0x0200 id (k + 1) seqId 0x7F ++ ptpTime rx ++ req)
      (some (ptpHeader 0xA 54 domain 0 id (k + 1) seqId 0x7F, req))
    s.inc (TIME_BM_PDREQ k)
  else s

def execBmPdelayReqReceive (k : Fin 2) (domain : Byte) (reqPort : BitVec 80) (seqId : BitVec 16)
    (s : State) : Host.Outcome State Fault Refusal :=
  .next (s.bmPdelay k.val domain.toNat reqPort.toNat seqId.toNat)

/-! ### Trigger channels (R73–R76) -/

/-- The period is one the channel accepts (R74). -/
def trigPeriodOk (n p : Nat) : Bool :=
  if n = 16 then decide (p % 250000 = 0 ∧ 250000 ≤ p ∧ p ≤ 1000000000)
  else [1, 2, 5, 10, 20, 50, 100, 200, 500, 1000].any (fun m => p == m * 1000000)

/-- The channel's start in ns since the epoch: the high seconds are those of the current time (R73). -/
def State.trigStart (s : State) (n : Nat) : Nat :=
  (s.time.sec / 2 ^ 32 * 2 ^ 32 + s.rd (TIME_TRIG_START_SEC n)) * 1000000000 + s.rd (TIME_TRIG_START_NS n)

/-- The first instant of the channel not in the past (R75). -/
def firstInstant (start per now : Nat) : Nat := if now ≤ start then start else start + ((now - start) / per + 1) * per

/-- A write of `TIME_TRIG_CFG[n]` (R74, R75). -/
def State.trigCfg (n v : Nat) (s : State) : State :=
  if bitAt v 0 then
    if s.bit (TIME_TRIG_CFG n) 0 then s
    else if trigPeriodOk n (s.rd (TIME_TRIG_PERIOD n)) then
      let first := firstInstant (s.trigStart n) (s.rd (TIME_TRIG_PERIOD n)) s.wallNs
      let s := { s with trig := s.trig.put n { next := first } }
      ((s.setReg (TIME_TRIG_CFG n) 1).setBit (TIME_TRIG_STAT n) 2 false).setBit (TIME_TRIG_STAT n) 0 true
    else s.setBit (TIME_TRIG_STAT n) 2 true
  else (s.setReg (TIME_TRIG_CFG n) 0).setBit (TIME_TRIG_STAT n) 0 false

def execTrigCfgWrite (w : Who) (n : Fin 17) (value : Word) (s : State) : Host.Outcome State Fault Refusal :=
  .next (s.gateSup w (TIME_TRIG_CFG n.val) (State.trigCfg n.val value.toNat))

/-- An enabled channel fires (R73, R76): after a step forward one firing stands for every instant passed. -/
def State.trigFire (n : Nat) (s : State) : State :=
  let t := s.trig.at' n
  let per := s.rd (TIME_TRIG_PERIOD n)
  if s.bit (TIME_TRIG_STAT n) 0 ∧ s.power.nx ∧ t.next ≤ s.wallNs then
    let passed := if t.stepped then (s.wallNs - t.next) / per + 1 else 1
    let inst := t.next + (passed - 1) * per
    let s := { s with trig := s.trig.put n { next := inst + per, last := inst, stepped := false } }
    let s := (s.setBit (TIME_TRIG_STAT n) 1 t.stepped).incBy (TIME_TRIG_MISS n) (passed - 1)
    let s := s.when t.stepped (State.evt TIME_EVT 8)
    let s := if n = 16 then { s with guard := { s.guard with lastTrig := some s.clk } } else s
    s.emit (.trigger n)
  else s

def execTrigFire (n : Fin 17) (s : State) : Host.Outcome State Fault Refusal := .next (s.trigFire n.val)

end Sys2Proof.Machine
end

