-- ==== Sys2Proof/Machine/Luazar.lean ====
section
/-!
DEFINITION. Luazar Link messages (R319–R322): building, sending on ML and AL, on the cascade ports (R342), and reading.
-/

namespace Sys2Proof.Machine

/-- Stack position. -/
def State.position (s : State) : Nat := s.fld RED_STRAP 4 2
/-- Member state (R325). -/
def State.member (s : State) : Nat := s.fld RED_STAT 2 0

/-- The dealer: position 0 holding the mandate (R344). -/
def State.isDealer (s : State) : Bool := s.position == 0 && s.mandate

/-- Ports of the twin, the arbiter, the cascade and the arbiter's second member. -/
abbrev portML : Nat := 4
abbrev portAL : Nat := 5
abbrev portCU : Nat := 6
abbrev portCD : Nat := 7
abbrev portMP : Nat := 8

/-- Destination address of the messages on a port. -/
def lzDst (port : Nat) : Nat := if port = portCU ∨ port = portCD then 0x03474C5A0001 else 0x03474C5A0000

/-- The header of R319 before the payload. -/
def lzHeader (ty role pos st plat epoch seq len : Nat) : List Byte :=
  bytesBE 1 1 ++ bytesBE 1 ty ++ bytesBE 1 (role % 4 * 64 + pos % 8 * 8) ++ bytesBE 1 st ++ bytesBE 4 plat
    ++ bytesBE 4 epoch ++ bytesBE 2 seq ++ bytesBE 2 len

/-- A message with its CRC-32 (R319, R524). -/
def lzSeal (m : List Byte) : List Byte := m ++ bytesBE 4 (crc32 m)

/-- An untagged frame of EtherType 0x88B5, padded to the least frame length of 64 octets with its FCS. -/
def lzFrame (dst src : Nat) (m : List Byte) : List Byte :=
  let f := bytesBE 6 dst ++ bytesBE 6 src ++ bytesBE 2 0x88B5 ++ m
  f ++ List.replicate (60 - f.length) 0

/-- The message of a type and payload with a sequence number, in the sender's present state. -/
def State.lzMessage (s : State) (ty seq : Nat) (payload : List Byte) : List Byte :=
  lzSeal (lzHeader ty s.role s.position (if s.role = 2 then 7 else s.member) (s.rd RED_PLAT_ID) (s.rd RED_EPOCH) seq
    payload.length ++ payload)

/-- Give a sealed message to the MAC of a port (R270); nothing leaves a port that is down. -/
def State.lzEmit (port : Nat) (m : List Byte) (s : State) : State :=
  let f := lzFrame (lzDst port) (s.macAddr port) m
  s.sendDirect port { out := .frame port f, len := f.length + 4 }

/-- Send a message on a port with the next sequence number of the port and type. -/
def State.lzSend (port ty : Nat) (payload : List Byte) (s : State) : State :=
  let k := port * 256 + ty
  let q := s.lzSeq.at' k
  { s with lzSeq := s.lzSeq.put k ((q + 1) % 2 ^ 16) }.lzEmit port (s.lzMessage ty q payload)

/-- Originate a stack message: on both cascade ports (R342). The payload begins with destination and hop count 0. -/
def State.casSend (ty dest : Nat) (body : List Byte) (s : State) : State :=
  if s.bit CAS_CTL 0 = false ∨ s.power.nx = false then s else
  let p := bytesBE 1 dest ++ bytesBE 1 0 ++ bytesBE 2 0 ++ body
  ((s.lzSend portCU ty p).lzSend portCD ty p).inc CAS_TX

/-- A message as read. -/
structure LzMsg where
  ty      : Nat
  role    : Nat
  pos     : Nat
  st      : Nat
  epoch   : Nat
  seq     : Nat
  payload : List Byte
  deriving DecidableEq, Repr

/-- Read a message's octets: none when a check of R320 fails. The port's list of types is checked by the receiver. -/
def State.lzRead (s : State) (m : List Byte) : Option LzMsg :=
  let len := beNat ((m.drop 14).take 2)
  let body := m.take (16 + len)
  if m.length < 20 + len ∨ 2010 < len ∨ (60 - 14 < m.length ∧ m.length ≠ 20 + len) then none
  else if beNat (m.take 1) ≠ 1 ∨ beNat ((m.drop 4).take 4) ≠ s.rd RED_PLAT_ID then none
  else if beNat ((m.drop (16 + len)).take 4) ≠ crc32 body then none
  else
    let b2 := beNat ((m.drop 2).take 1)
    some { ty := beNat ((m.drop 1).take 1), role := b2 / 64, pos := b2 / 8 % 8, st := beNat ((m.drop 3).take 1)
           epoch := beNat ((m.drop 8).take 4), seq := beNat ((m.drop 12).take 2), payload := body.drop 16 }

/-- A big-endian field of a payload. -/
def LzMsg.at' (m : LzMsg) (off n : Nat) : Nat := beNat ((m.payload.drop off).take n)

/-- The offset O of a followed reference (R345), 0 on the dealer. -/
def State.casOffset (s : State) (r : Nat) : Nat := if s.isDealer then 0 else s.rd (CAS_REF_OFS r)

/-- The distributed reference behind local reference `r` is in order: this module deals, or the follow is aligned and the
dealer is heard (R170, R345). -/
def State.spanOk (s : State) (r : Nat) : Bool :=
  s.isDealer || (s.bit CAS_STAT 4 && s.bit (CAS_FOLLOW r) 31 && s.bit (CAS_REF_STAT r) 0)

end Sys2Proof.Machine
end

