-- ==== Sys2Proof/Machine/WeftUnit.lean ====
section
/-!
DEFINITION. The Weft unit: grid points, validity of sources, reference states (R78–R93, R527).
-/

namespace Sys2Proof.Machine

/-! ### Sources (R79, R80) -/

/-- Channel, quantity and three-phase form of the primary or the backup source. -/
def State.srcOf (s : State) (r : Nat) (backup : Bool) : Nat × Nat × Bool :=
  let w := s.rd (WEFT_REF_SRC r)
  if backup then (bits w 22 16, bits w 28 24, bitAt w 23) else (bits w 6 0, bits w 12 8, bitAt w 7)

/-- A source's configuration can be valid (R79): else it sets `src_cfg_err`. -/
def srcCfgOk (x : Nat × Nat × Bool) : Bool := decide (x.1 ≤ 95) && !(x.2.2 && decide (29 < x.2.1))

/-- A backup source is configured. -/
def State.bEn (s : State) (r : Nat) : Bool := s.bit (WEFT_REF_SRC r) 31

/-- A measured frequency limited to 40–70 Hz. -/
def clampFreq (f : Nat) : Nat := min (max f (40 * 2 ^ 24)) (70 * 2 ^ 24)

/-- Quality bytes of the last `k` samples of quantities `q` to `q + m - 1` of a channel. -/
def State.lastQuals (s : State) (n q m k : Nat) : List Nat :=
  let last := (s.ch n).nextIdx
  (List.range (min k last)).flatMap (fun i => (List.range m).map (fun j => (s.sample n (q + j) (last - 1 - i)).2))

/-- Whole samples of one period of a measured frequency, clamped to 40–70 Hz (R80). -/
def State.cycleLen (s : State) (n f : Nat) : Nat := (s.chRate n * 2 ^ 24 + clampFreq f - 1) / clampFreq f

/-- Values of the last `k` samples of a quantity, oldest first. -/
def State.lastVals (s : State) (n q k : Nat) : List Int :=
  let m := min k (s.ch n).nextIdx
  (List.range m).map (fun i => (s.sample n q ((s.ch n).nextIdx - m + i)).1)

/-- One-cycle correlation of samples with cosine and sine × 2^30. -/
def fundamental (l : List Int) : Int × Int :=
  let n := l.length
  (l.zipIdx).foldl (fun (a : Int × Int) x =>
    (a.1 + x.1 * cos30 (128 * x.2 / n), a.2 - x.1 * sin30 (128 * x.2 / n))) (0, 0)

/-- The one-cycle RMS magnitude of a source reaches `m` (R79, R80): of the quantity's samples, or of the positive sequence.
(DESIGN CHOICE, R527: the positive sequence is formed of one-cycle correlations with 128 steps of the cycle; √3 / 2 × 2^31
is 1859775393.) -/
def State.magOk (s : State) (n q k m : Nat) (three : Bool) : Bool :=
  if three then
    let a := fundamental (s.lastVals n q k)
    let b := fundamental (s.lastVals n (q + 1) k)
    let c := fundamental (s.lastVals n (q + 2) k)
    let re := 2 ^ 31 * a.1 - 2 ^ 30 * (b.1 + c.1) - 1859775393 * (b.2 - c.2)
    let im := 2 ^ 31 * a.2 - 2 ^ 30 * (b.2 + c.2) + 1859775393 * (b.1 - c.1)
    decide (9 * (k : Int) ^ 2 * (m : Int) ^ 2 * 2 ^ 122 ≤ 2 * (re ^ 2 + im ^ 2))
  else decide ((k : Int) * (m : Int) ^ 2 ≤ ((s.lastVals n q k).map (fun x => x ^ 2)).foldl (· + ·) 0)

/-- A source is valid (R80). -/
def State.srcValid (s : State) (r : Nat) (backup : Bool) (m : SourceMeas) : Bool :=
  let x := s.srcOf r backup
  let n := x.1
  let st := s.chState n
  let k := s.cycleLen n m.freq
  let qs := s.lastQuals n x.2.1 (if x.2.2 then 3 else 1) k
  srcCfgOk x && (!backup || s.bEn r) && m.measured && decide (st = 2 ∨ st = 3)
    && !qs.any (fun q => decide (validity q = 1 ∨ validity q = 2))
    && (s.bit (WEFT_REF_CFG r) 2 || !qs.any (bitAt · 2))
    && s.magOk n x.2.1 k (s.rd (if backup then WEFT_REF_MAG_BK r else WEFT_REF_MAG r)) x.2.2
    && decide (40 * 2 ^ 24 ≤ m.freq ∧ m.freq ≤ 70 * 2 ^ 24)

/-! ### Grid points (R78, R81, R84, R89–R92) -/

/-- Put a reference's state and source code (R86). -/
def State.setRef (r st src : Nat) (s : State) : State :=
  (s.setFld (WEFT_REF_STAT r) 2 0 st).setFld (WEFT_REF_STAT r) 4 3 src

/-- The next grid point is due: the time unit reads its instant or later, adjusted by the issue offset (R81, R84). -/
def State.gridDue (s : State) (r : Nat) : Bool :=
  let w := s.weftOf r
  decide ((w.next : Int) ≤ ((s.wallNs : Int) - w.offset) * 2 ^ 8)

/-- Predicted interval to the next grid instant, ns × 2^8 (R81): `f` in Hz × 2^24, `roc` in Hz/s × 2^16, `prev` the
previous interval. -/
def gridInterval (f : Nat) (roc : Int) (prev : Nat) : Nat :=
  let mid := (f : Int) + roc * prev / (2 * 10 ^ 9)
  10 ^ 9 * 2 ^ 25 / (max mid 1).toNat

/-- A measured frequency is outside 40–70 Hz (R91). -/
def farSource (m : SourceMeas) : Bool := m.measured && decide (m.freq < 40 * 2 ^ 24 ∨ 70 * 2 ^ 24 < m.freq)

/-- The frequencies measured at the last grid points, this one's first. -/
def ontoFreqs (m : SourceMeas) (l : List Nat) : List Nat := if m.measured then (m.freq :: l).take 129 else []

/-- Rate of change of a source's frequency, Hz/s × 2^16: its change over the last cycle of 128 grid points (R527).
(DESIGN CHOICE: zero until it has been measured for a cycle.) -/
def rocofOf (l : List Nat) : Int :=
  let f := l.headD 0
  match l.drop 128 |>.head? with
  | some g => ((f : Int) - g) * f / 2 ^ 32
  | none => 0

/-- Frequency the reference's grid follows, and its rate of change, in its state (R86, R87); `p`, `b`: frequencies measured
of the sources, newest first. -/
def followed (st : Nat) (nom held : Nat) (p b : List Nat) : Nat × Int :=
  if st = 2 ∨ st = 6 then (p.headD held, rocofOf p)
  else if st = 4 then (b.headD held, rocofOf b)
  else if st = 3 then (held, 0)
  else (nom, 0)

/-- Phase error to the source the state follows, ac: to the backup less the measured offset when it is valid (R90). -/
def State.phaseErr (s : State) (r st : Nat) (p b : SourceMeas) : Int :=
  if st = 4 then b.phase - (if s.bit (WEFT_REF_OFS r) 16 then signed 16 (s.fld (WEFT_REF_OFS r) 15 0) else 0)
  else p.phase

/-- Limit an integer to ±`m`. -/
def clampI (m : Int) (x : Int) : Int := max (-m) (min m x)

/-- The run of a condition at consecutive grid points. -/
def runOf (c : Bool) (k : Nat) : Nat := if c then k + 1 else 0

/-- Keep the counts of loss, restore and lock of a reference at a grid point (R83, R87, R89–R91). (DESIGN CHOICE: the
average of R90 is taken over 2,048 grid points that follow on each other, rounded down, and a difference of phases is not
brought within ±32,768 ac.) -/
def State.weftCounts (r : Nat) (p b : SourceMeas) (s : State) : State :=
  let st := s.refState r
  let pv := s.srcValid r false p
  let bv := s.srcValid r true b
  let w := s.weftOf r
  let e := s.phaseErr r st p b
  let inBand := decide (-91 ≤ e ∧ e ≤ 91)
  let far := decide (e < -1024 ∨ 1024 < e)
  let pullDone := w.pullDone || (inBand && decide (st = 2 ∨ st = 4 ∨ st = 6))
  let lossRun := runOf (!pv && decide (st = 2 ∨ st = 6)) w.lossRun
  let phRun := runOf (far && st == 2 && w.pullDone) w.phRun
  let s := ((s.setBit (WEFT_REF_STAT r) 8 pv).setBit (WEFT_REF_STAT r) 9 bv).when (farSource p || (s.bEn r && farSource b))
    (State.evt (WEFT_REF_EVT r) 5)
  let s := s.setBit (WEFT_REF_STAT r) 5 ((st == 2 || st == 4 || st == 6) && !pullDone)
  let meas := st == 2 && bv
  let sum := if meas then w.ofsSum + (b.phase - p.phase) else 0
  let run := if meas then w.ofsRun + 1 else 0
  let full := decide (2048 ≤ run)
  let s := if !bv then s.setBit (WEFT_REF_OFS r) 16 false
    else if full then s.setReg (WEFT_REF_OFS r) (unsigned 16 (sum / 2048) + 2 ^ 16) else s
  let s := s.setBit (WEFT_REF_STAT r) 10 (s.bit (WEFT_REF_OFS r) 16)
  s.modWf r (fun w => { w with
    lossRun := lossRun, phRun := phRun
    lossFreq := if lossRun = 1 then (ontoFreqs p w.pFreqs).headD (w.pFreqs.headD w.held) else w.lossFreq
    phFreq := if phRun = 1 then p.freq else w.phFreq
    bLossRun := runOf (!bv && st == 4) w.bLossRun, bPhRun := runOf (far && st == 4 && w.pullDone) w.bPhRun
    pValidRun := runOf pv w.pValidRun, bValidRun := runOf bv w.bValidRun
    inBand := runOf (inBand && (st != 1 || pv)) w.inBand
    bInBand := runOf (st == 1 && bv && decide (-91 ≤ b.phase ∧ b.phase ≤ 91)) w.bInBand, holdRun := if st = 3 then w.holdRun + 1 else 0
    noPrimary := if st = 1 then runOf (!pv) w.noPrimary else 0
    pullDone := pullDone, ofsSum := if full then 0 else sum, ofsRun := if full then 0 else run
    pFreqs := ontoFreqs p w.pFreqs, bFreqs := ontoFreqs b w.bFreqs })

/-- The eight words of a grid record (R92). -/
def State.gridRecord (s : State) (r : Nat) (w : Weft) (tg : Nat) : List Nat :=
  let st := s.rd (WEFT_REF_STAT r)
  [ w.angle % 2 ^ 32,
    w.angle / 2 ^ 32 % 2 ^ 16 + bits st 2 0 * 2 ^ 16 + bits st 4 3 * 2 ^ 19 + b2n w.realign * 2 ^ 21
      + b2n (decide (w.offset ≠ 0)) * 2 ^ 22 + b2n (bitAt st 5) * 2 ^ 23 + s.syncClass * 2 ^ 24
      + b2n w.timeStep * 2 ^ 26 + b2n (bitAt st 7) * 2 ^ 27,
    tg % 10 ^ 9, tg / 10 ^ 9 % 2 ^ 32, s.rd (WEFT_REF_FREQ r), s.rd (WEFT_REF_ROCOF r), w.interval % 2 ^ 32, w.seq % 2 ^ 32 ]

/-- Address of a grid record (R92). -/
def State.recAt (s : State) (r k : Nat) : Nat := s.area WEFT_LOG_BASE 17 + r * 0x2000 + k % 256 * 32

/-- The slew of R84: the part of the offset taken up at one grid point. -/
def slewOf (slew : Nat) (off : Int) : Int := off - clampI slew off

/-- Open the grid point at the resampler (R135, R138): channels with interpolated output are waited for, the other
enabled channels write it invalid at once; `dual`: a mismatch in its work unit (R139). -/
def State.openPoint (r : Nat) (seq gp tg : Nat) (realign dual : Bool) (s : State) : State :=
  let chans := (List.range 96).filter (fun n => s.chActive n && s.chRef n == r)
  let wait := chans.filter (fun n => [2, 3, 4].contains (s.chState n))
  let s := (chans.filter (fun n => !([2, 3, 4].contains (s.chState n)))).foldl (fun s n => s.putInvalid n seq) s
  let close := min (max (s.fld (SIE_CLOSE r) 15 0) 100) 10000 * 1000
  let due := (s.clk : Int) + ((tg : Int) + close - s.wallNs) / 8
  let s := s.setPts r (s.pts r ++ [{
    seq := seq, gp := gp, tg := tg, due := due.toNat, waiting := wait, invalid := 0, realign := realign, fault := false }])
  wait.foldl (fun s n => s.resample n (if dual then [Fin.ofNat 256 seq] else [])) s

/-- GRID_POINT_ISSUE (R81): the reference issues its next grid point, writes its record and predicts the next one. The
interval takes up the phase error to the source followed by at most 4 ac, which is 512 ac per cycle (R82, R89; DEDUCED: the
loop that holds the grid to the source's phase moves it no faster than pull-in); the frequency shown leaves it out. -/
def State.gridIssue (r : Nat) (p b : SourceMeas) (dual : Bool) (s : State) : State :=
  let st := s.refState r
  if s.power.cx = false ∨ st = 0 ∨ s.gridDue r = false then s else
  let s := s.weftCounts r p b
  let w := s.weftOf r
  let (f0, roc0) := followed st (s.nominal r) w.held w.pFreqs w.bFreqs
  let fast := decide (20 * 2 ^ 16 < roc0 ∨ roc0 < -(20 * 2 ^ 16 : Int))
  let slewRun := if st = 2 ∨ st = 4 then runOf fast w.slewRun else 0
  let lim := decide (128 ≤ slewRun)
  let roc := if lim then clampI (20 * 2 ^ 16) roc0 else roc0
  let f1 := if lim then
      ((s.rd (WEFT_REF_FREQ r) : Int) + roc * w.interval / 10 ^ 9).toNat
    else f0
  let s := s.setBit (WEFT_REF_STAT r) 7 lim
  let s := if lim ∧ w.slewRun < 128 then s.evt (WEFT_REF_EVT r) 6 else s
  let f := if st = 2 ∨ st = 4 ∨ st = 6 then ((f1 : Int) + f1 * clampI 4 (s.phaseErr r st p b) / 512).toNat else f1
  let s := (s.setReg (WEFT_REF_FREQ r) (f1 % 2 ^ 32)).setReg (WEFT_REF_ROCOF r) (unsigned 32 roc)
  let iv := gridInterval f roc w.interval
  let tg := (w.next + 2 ^ 7) / 2 ^ 8
  let w := { w with seq := (w.seq + 1) % 2 ^ 32, interval := iv, slewRun := slewRun, lastIssue := s.clk }
  let s := s.stWords (s.recAt r w.seq) (s.gridRecord r w tg)
  let s := (s.setReg (WEFT_REF_ANGLE_LO r) (w.angle % 2 ^ 32)).setReg (WEFT_REF_ANGLE_HI r) (w.angle / 2 ^ 32 % 2 ^ 16)
  let next := w.next + iv
  let nx := (next + 2 ^ 7) / 2 ^ 8
  let s := (s.setReg (WEFT_REF_NEXT_NS r) (nx % 10 ^ 9)).setReg (WEFT_REF_NEXT_SEC r) (nx / 10 ^ 9 % 2 ^ 32)
  let slew := min (max (s.fld WEFT_SLEW 15 0) 100) 20000
  let off := slewOf slew w.offset
  let s := s.setBit (WEFT_REF_STAT r) 6 (decide (off ≠ 0))
  let s := s.modWf r (fun _ => { w with
    angle := (w.angle + 512) % 2 ^ 48, next := next, offset := off, timeStep := false, realign := false })
  let s := if s.bit SYS_XCOMMIT_STAT 0 ∧ s.xcommit.ref = r then
      { s with xcommit := { s.xcommit with issued := s.xcommit.issued + 1 } } else s
  s.openPoint r w.seq (w.angle / 512) tg w.realign dual

/-! ### Reference states (R87, R88) -/

/-- The census sees its grid point skipped by a realign that passes `k` grid points from index `a` on (R99). -/
def censusSkip (r a k : Nat) (c : Census) : Census :=
  if c.grid ∧ c.ref = r ∧ (c.gp + 128 - a) % 128 < k then { c with skipped := true } else c

/-- REF_ACQUIRED: leave ACQUIRE on the primary, or on the backup after three cycles without the primary, once the loop's
phase error has stayed within ±91 ac for a cycle; realign to the measured source phase (R83, R87, R88). -/
def State.refAcquired (r : Nat) (backup : Bool) (phase : Nat) (s : State) : State :=
  let w := s.weftOf r
  let ok := if backup then s.bEn r && s.bit (WEFT_REF_STAT r) 9 && decide (384 ≤ w.noPrimary ∧ 128 ≤ w.bInBand)
    else s.bit (WEFT_REF_STAT r) 8 && decide (128 ≤ w.inBand)
  if s.refState r ≠ 1 ∨ ok = false then s else
  let d := signed 16 (phase + 2 ^ 16 - w.angle % 2 ^ 16)
  let a := unsigned 48 ((w.angle : Int) + d)
  let nextA := (a / 512 + 1) * 512
  let f := (if backup then w.bFreqs else w.pFreqs).headD (s.nominal r)
  let now := ((s.wallNs : Int) - w.offset).toNat * 2 ^ 8
  let next := now + (nextA - a) * 10 ^ 9 * 2 ^ 16 / (max f 1)
  let passed := ((w.angle : Int) + d).toNat / 512 + 1 - w.angle / 512
  let s := { s with cen := censusSkip r (w.angle / 512 % 128) passed s.cen }
  let s := s.modWf r (fun w => { w with
    angle := nextA % 2 ^ 48, next := next, realign := true, pullDone := true, inBand := 0, lossRun := 0, phRun := 0
    bLossRun := 0, bPhRun := 0 })
  let s := (s.evt (WEFT_REF_EVT r) 0).evt (WEFT_REF_EVT r) 7
  if backup then (s.setRef r 4 2).incFld (WEFT_REF_CNT r) 31 16 else s.setRef r 2 1

def execRefAcquired (r : Fin 16) (backup : Bool) (phase : BitVec 16) (s : State) : Host.Outcome State Fault Refusal :=
  .next (s.refAcquired r.val backup phase.toNat)

def State.lossTime (s : State) (r : Nat) : Nat := max (s.fld (WEFT_REF_TIMES r) 7 0) 1
def State.holdTime (s : State) (r : Nat) : Nat := s.fld (WEFT_REF_TIMES r) 31 16
def State.restoreTime (s : State) (r : Nat) : Nat := max (s.fld (WEFT_REF_RESTORE r) 15 0) 1

/-- TRACK or RETURN to HOLD (R87). -/
def State.primaryLost (r : Nat) (s : State) : State :=
  let w := s.weftOf r
  let st := s.refState r
  if (st = 2 ∨ st = 6) ∧ (s.lossTime r ≤ w.lossRun ∨ s.lossTime r ≤ w.phRun) then
    let s := s.modWf r (fun w => { w with
      held := clampFreq (if s.lossTime r ≤ w.lossRun then w.lossFreq else w.phFreq), holdRun := 0, pValidRun := 0, lossRun := 0, phRun := 0, pullDone := true })
    ((s.setRef r 3 0).setBit (WEFT_REF_STAT r) 5 false).evt (WEFT_REF_EVT r) 1 |>.incFld (WEFT_REF_CNT r) 15 0
  else s

def execPrimaryLost (r : Fin 16) (s : State) : Host.Outcome State Fault Refusal := .next (s.primaryLost r.val)

/-- Enter BACKUP with pull-in. -/
def State.toBackup (r : Nat) (s : State) : State :=
  let s := s.modWf r (fun w => { w with pullDone := false, bLossRun := 0, bPhRun := 0 })
  (((s.setRef r 4 2).setBit (WEFT_REF_STAT r) 5 true).evt (WEFT_REF_EVT r) 2).incFld (WEFT_REF_CNT r) 31 16

/-- Enter NOMINAL. -/
def State.toNominal (r : Nat) (s : State) : State :=
  (((s.setRef r 5 3).setBit (WEFT_REF_STAT r) 5 false).evt (WEFT_REF_EVT r) 3).incFld (WEFT_REF_CNT r) 31 16

/-- HOLD to BACKUP or NOMINAL (R87). -/
def State.holdExpiry (r : Nat) (s : State) : State :=
  if s.refState r = 3 ∧ s.holdTime r ≤ (s.weftOf r).holdRun then
    if s.bEn r ∧ s.bit (WEFT_REF_STAT r) 9 then s.toBackup r else s.toNominal r
  else s

def execHoldTimeExpiry (r : Fin 16) (s : State) : Host.Outcome State Fault Refusal := .next (s.holdExpiry r.val)

/-- BACKUP to NOMINAL (R87). -/
def State.backupLost (r : Nat) (s : State) : State :=
  let w := s.weftOf r
  if s.refState r = 4 ∧ (s.lossTime r ≤ w.bLossRun ∨ s.lossTime r ≤ w.bPhRun) then
    (s.modWf r (fun w => { w with bValidRun := 0, bLossRun := 0, bPhRun := 0 })).toNominal r
  else s

def execBackupLost (r : Fin 16) (s : State) : Host.Outcome State Fault Refusal := .next (s.backupLost r.val)

/-- HOLD, BACKUP or NOMINAL to RETURN (R87). -/
def State.primaryRestored (r : Nat) (s : State) : State :=
  let st := s.refState r
  if (st = 3 ∨ st = 4 ∨ st = 5) ∧ s.restoreTime r ≤ (s.weftOf r).pValidRun then
    ((s.modWf r (fun w => { w with pullDone := false, inBand := 0, lossRun := 0, phRun := 0 })).setRef r 6 1).setBit
      (WEFT_REF_STAT r) 5 true
  else s

def execPrimaryRestored (r : Fin 16) (s : State) : Host.Outcome State Fault Refusal := .next (s.primaryRestored r.val)

/-- NOMINAL to BACKUP while the primary is not restored (R87). -/
def State.backupRestored (r : Nat) (s : State) : State :=
  let w := s.weftOf r
  if s.refState r = 5 ∧ s.bEn r ∧ s.restoreTime r ≤ w.bValidRun ∧ w.pValidRun < s.restoreTime r then s.toBackup r else s

def execBackupRestored (r : Fin 16) (s : State) : Host.Outcome State Fault Refusal := .next (s.backupRestored r.val)

/-- RETURN to TRACK after one cycle within ±91 ac (R87, R89). -/
def State.returnComplete (r : Nat) (s : State) : State :=
  if s.refState r = 6 ∧ 128 ≤ (s.weftOf r).inBand then
    ((s.setRef r 2 1).setBit (WEFT_REF_STAT r) 5 false).evt (WEFT_REF_EVT r) 4
  else s

def execReturnComplete (r : Fin 16) (s : State) : Host.Outcome State Fault Refusal := .next (s.returnComplete r.val)

/-! ### Enable and disable (R87, R84) -/

/-- A reference begins as at enable: ACQUIRE at nominal frequency, angle 0, sequence restarting at 1. -/
def State.refStart (r : Nat) (s : State) : State :=
  let s := s.modWf r (fun _ => { next := s.wallNs * 2 ^ 8, held := s.nominal r, interval := gridInterval (s.nominal r) 0 0 })
  let s := (s.setReg (WEFT_REF_STAT r) 1).setReg (WEFT_REF_FREQ r) (s.nominal r % 2 ^ 32)
  let s := ((s.setReg (WEFT_REF_ROCOF r) 0).setReg (WEFT_REF_OFS r) 0).setPts r []
  s

/-- A reference goes OFF: no further grid points; a census armed on it is aborted (R99), slices and SIE see R183, R138. -/
def State.refOff (r : Nat) (s : State) : State :=
  let s := ((s.modWf r (fun _ => {})).setReg (WEFT_REF_STAT r) 0).setPts r []
  if s.cen.ref = r then s.cenRefOff else s

/-- `src_cfg_err` of a committed source pair (R79). -/
def State.srcCheck (r : Nat) (s : State) : State :=
  s.when (!srcCfgOk (s.srcOf r false) || (s.bEn r && !srcCfgOk (s.srcOf r true))) (State.evt (WEFT_REF_EVT r) 8)

/-- A commit of reference `r` takes effect (R87): `oldCfg` and `oldSrc` are the active words before it. -/
def State.weftActivated (r oldCfg oldSrc : Nat) (s : State) : State :=
  let en := s.bit (WEFT_REF_CFG r) 0
  let s := if en then s.srcCheck r else s
  if bitAt oldCfg 0 = false ∧ en then s.refStart r
  else if bitAt oldCfg 0 ∧ en = false then s.refOff r
  else if en ∧ s.rd (WEFT_REF_SRC r) ≠ oldSrc then
    let st := s.refState r
    let s := s.modWf r (fun w => { w with pullDone := false, lossRun := 0, phRun := 0, pValidRun := 0, bValidRun := 0 })
    let s := s.modWf r (fun w => { w with pFreqs := [], bFreqs := [] })
    if st = 2 ∨ st = 4 ∨ st = 6 then s.setBit (WEFT_REF_STAT r) 5 true else s
  else s

end Sys2Proof.Machine
end

