-- ==== Sys2Proof/Machine/Engine.lean ====
section
/-!
DEFINITION. What the signal engines share (R141–R146): reading grid values, combining quality, marks, lateness, and the
octets of a binary32 record.
-/

namespace Sys2Proof.Machine

/-- A grid value as an engine reads it: a slot that does not hold grid point `k` gives value 0, never produced (R145). -/
def State.engineIn (s : State) (n q k : Nat) : Int × Nat :=
  if s.ld (s.gridAt n q k + 4) 4 / 2 ^ 8 = k % 2 ^ 24 then s.gridVal n q k else (0, 2)

/-- The slot of grid point `k` of a quantity holds an uncorrectable error: the set is published with `fault` (R202). -/
def State.gridPoison (s : State) (n q k : Nat) : Bool := s.poisoned (s.gridAt n q k) 8

/-- Combine quality bytes (R145). -/
def combineQ (l : List Nat) : Nat := l.foldl qOr 0

/-- A combined quality whose worst validity is never produced carries invalid (R145). -/
def closeQ (q : Nat) : Nat := if q % 4 = 2 then q / 4 * 4 + 1 else q

/-- Quantity `q` and the `m - 1` after it exist on channel `n`, which is bound to `r` (R141). -/
def State.inputOk (s : State) (n q m r : Nat) : Bool :=
  decide (n ≤ 95) && decide (q + m ≤ s.chQty n) && s.chRef n == r

/-- Word `i` of the grid record of grid point `k` of reference `r` (R92). -/
def State.recWord (s : State) (r k i : Nat) : Nat := s.ld (s.recAt r k + 4 * i) 4

/-- The grid record carries `realign`. -/
def State.recRealign (s : State) (r k : Nat) : Bool := bitAt (s.recWord r k 1) 21

/-- Grid point index within its cycle, angle [15:9]. -/
def State.recIndex (s : State) (r k : Nat) : Nat := bits (s.recWord r k 0) 15 9

/-- The set is late: grid point `k + 1` of the reference had been issued (R144). -/
def State.lateSet (s : State) (r k : Nat) : Bool := decide ((s.weftOf r).seq ≠ k)

/-- Publish a result set: words 1 and 2 of the mark block, then the mark, whose bank is bit 0 of `k` (R143, R144). -/
def State.engineMark (a lateReg r k cnt : Nat) (fault : Bool) (s : State) : State :=
  let late := s.lateSet r k
  let s := (s.stWords (a + 4) [k % 2 ^ 32, cnt]).publishBank a late fault (k % 2)
  s.when late (State.inc lateReg)

end Sys2Proof.Machine
end

