-- ==== Sys2Proof/Machine/LgeBlock.lean ====
section
/-!
DEFINITION. The function blocks of the logic engine (R395): one evaluation of a block from its operands and its state.
-/

namespace Sys2Proof.Machine

/-- An operand or result: value word and quality byte. -/
abbrev LgeVal := Nat × Nat

/-- An instance's state (R394): elapsed µs, counter value, Q, previous input, previous second input, set/reset memory. -/
structure LgeState where
  el   : Nat
  cv   : Int
  q    : Bool
  prev : Bool
  prv2 : Bool
  mem  : Bool
  deriving DecidableEq, Repr, Inhabited

/-- What an evaluation gives: out1, out2, the new state, `arith`. -/
structure LgeOut where
  o1    : LgeVal
  o2    : LgeVal := (0, 0)
  st    : LgeState
  arith : Bool := false
  deriving DecidableEq, Repr

/-- The combined quality of operands (R145, R395). -/
def lgeQ (l : List LgeVal) : Nat := closeQ (combineQ (l.map (·.2)))

/-- The value of a BOOL operand. -/
def LgeVal.on (v : LgeVal) : Bool := bitAt v.1 0
/-- The value of an INT32 operand. -/
def LgeVal.int (v : LgeVal) : Int := signed 32 v.1

/-- An INT32 result: saturated, overflow in its quality. -/
def intResult (x : Int) (q : Nat) : LgeVal :=
  let v := satS 32 x
  (unsigned 32 v, if v = x then q else withFlag 5 q)

/-- ADD, SUB, MUL, DIV (codes 18–21) of one numeric type; true when a division by zero marks the result invalid. -/
def lgeArith (ty : Nat) (float : Bool) (a b : LgeVal) : LgeVal × Bool :=
  let q := lgeQ [a, b]
  if float then
    let zero := ty == 21 && fIsZero b.1
    let v := match ty with
      | 18 => fAdd a.1 b.1
      | 19 => fSub a.1 b.1
      | 20 => fMul a.1 b.1
      | _ => fDiv a.1 b.1
    ((v, if zero then atLeast 1 q else q), zero)
  else
    let zero := ty == 21 && b.int == 0
    let v : Int := match ty with
      | 18 => a.int + b.int
      | 19 => a.int - b.int
      | 20 => a.int * b.int
      | _ => if b.int = 0 then 0 else Int.tdiv a.int b.int
    let r := intResult v q
    ((r.1, if zero then atLeast 1 r.2 else r.2), zero)

/-- GT, GE, EQ, NE (codes 14–17). -/
def lgeCompare (ty : Nat) (float : Bool) (a b : LgeVal) : Bool :=
  let lt := if float then fLt b.1 a.1 else decide (b.int < a.int)
  let eq := if float then fEq a.1 b.1 else a.int == b.int
  match ty with
  | 14 => lt
  | 15 => lt || eq
  | 16 => eq
  | _ => !eq

/-- LIMIT (code 22). -/
def lgeLimit (float : Bool) (x lo hi : LgeVal) : Nat :=
  if float then fMin (fMax x.1 lo.1) hi.1 else unsigned 32 (min (max x.int lo.int) hi.int)

/-- The elapsed time after `delta` µs more, saturating (R394). -/
def elapse (el delta : Nat) : Nat := min (el + delta) (2 ^ 63 - 1)

/-- TON, TOF, TP (codes 9–11): the new state; `pt` in µs. -/
def lgeTimer (ty : Nat) (on : Bool) (pt delta : Nat) (st : LgeState) : LgeState :=
  let rise := on && !st.prev
  let fall := !on && st.prev
  match ty with
  | 9 =>
    let el := if on then (if rise then 0 else elapse st.el delta) else 0
    { st with el := el, q := on && decide (pt ≤ el), prev := on }
  | 10 =>
    let el := if on || fall then 0 else if st.q then elapse st.el delta else st.el
    { st with el := el, q := on || ((fall || st.q) && decide (el < pt)), prev := on }
  | _ =>
    let start := rise && !st.q
    let el := if start then 0 else if st.q then elapse st.el delta else st.el
    { st with el := el, q := (start || st.q) && decide (el < pt), prev := on }

/-- CTU, CTD (codes 12 and 13). -/
def lgeCounter (ty : Nat) (edge load : Bool) (pv : Int) (st : LgeState) : LgeState :=
  let rise := edge && !st.prev
  let cv := if ty = 12 then (if load then 0 else if rise then satS 32 (st.cv + 1) else st.cv)
    else (if load then pv else if rise then satS 32 (st.cv - 1) else st.cv)
  { st with cv := cv, q := if ty = 12 then decide (pv ≤ cv) else decide (cv ≤ 0), prev := edge, prv2 := load }

/-- One evaluation of a block. `float`: its numeric operands are FLOAT32. -/
def lgeEval (ty : Nat) (float : Bool) (a b c : LgeVal) (delta : Nat) (st : LgeState) : LgeOut :=
  let bool := fun (v : Bool) (l : List LgeVal) => ((b2n v, lgeQ l) : LgeVal)
  if ty = 1 then { o1 := bool (a.on && b.on) [a, b], st := st }
  else if ty = 2 then { o1 := bool (a.on || b.on) [a, b], st := st }
  else if ty = 3 then { o1 := bool (a.on != b.on) [a, b], st := st }
  else if ty = 4 then { o1 := bool (!a.on) [a], st := st }
  else if ty = 5 ∨ ty = 6 then
    let v := if ty = 5 then a.on || (st.mem && !b.on) else !b.on && (a.on || st.mem)
    { o1 := bool v [a, b], st := { st with mem := v } }
  else if ty = 7 then { o1 := bool (a.on && !st.prev) [a], st := { st with prev := a.on } }
  else if ty = 8 then { o1 := bool (!a.on && st.prev) [a], st := { st with prev := a.on } }
  else if ty ≤ 11 then
    let neg := decide (b.int < 0)
    let st := lgeTimer ty a.on (b.int.toNat * 1000) delta st
    let q := if neg then atLeast 1 (lgeQ [a, b]) else lgeQ [a, b]
    { o1 := (b2n st.q, q), o2 := (min (st.el / 1000) (2 ^ 31 - 1), q), st := st, arith := neg }
  else if ty ≤ 13 then
    let st := lgeCounter ty a.on b.on c.int st
    { o1 := bool st.q [a, b, c], o2 := (unsigned 32 st.cv, lgeQ [a, b, c]), st := st }
  else if ty ≤ 17 then { o1 := bool (lgeCompare ty float a b) [a, b], st := st }
  else if ty ≤ 21 then
    let (v, z) := lgeArith ty float a b
    { o1 := v, st := st, arith := z }
  else if ty = 22 then { o1 := (lgeLimit float a b c, lgeQ [a, b, c]), st := st }
  else if ty = 23 then { o1 := ((if a.on then c else b).1, lgeQ [a, b, c]), st := st }
  else { o1 := (a.1, lgeQ [a]), st := st }

/-! ### Types of operands (R393, code 4) -/

/-- Operand types a block takes: number of inputs, and whether types `t` of in1, in2, in3, out1, out2 fit (0 BOOL,
1 INT32, 2 FLOAT32). -/
def lgeInputs (ty : Nat) : Nat :=
  if [4, 7, 8, 24].contains ty then 1 else if [12, 13, 22, 23].contains ty then 3 else 2

def lgeTypesOk (ty a b c o1 : Nat) (o2 : Option Nat) : Bool :=
  let num := fun (t : Nat) => t == 1 || t == 2
  let o2int := match o2 with | some t => t == 1 | none => true
  if ty = 0 ∨ 24 < ty then false
  else if ty ≤ 8 then a == 0 && (lgeInputs ty == 1 || b == 0) && o1 == 0
  else if ty ≤ 11 then a == 0 && b == 1 && o1 == 0 && o2int
  else if ty ≤ 13 then a == 0 && b == 0 && c == 1 && o1 == 0 && o2int
  else if ty ≤ 17 then num a && a == b && o1 == 0
  else if ty ≤ 21 then num a && a == b && o1 == a
  else if ty = 22 then num a && a == b && a == c && o1 == a
  else if ty = 23 then a == 0 && b == c && o1 == b
  else o1 == a

end Sys2Proof.Machine
end

