-- ==== Sys2Proof/Machine/Swc.lean ====
section
/-!
DEFINITION. The switch core and the MACs: stream table, queues, redundant pairs, links, rings, capture and transparent
clock (R268–R315).
-/

namespace Sys2Proof.Machine

/-! ### Ports -/

/-- Change the switch's working state. -/
def State.modSwc (f : Switch → Switch) (s : State) : State := { s with swc := f s.swc }

/-- A port takes frames: an external port with its link up, an internal one with its block's domain on (R305). -/
def State.swUp (s : State) (p : Nat) : Bool := if p ≤ 8 then s.portUp p else if p ≤ 11 then s.power.cx else true

/-- The redundant pair an external port belongs to (R268). -/
def pairOf (p : Nat) : Option Nat := if p ≤ 3 then some (p / 2) else none

/-- Mode of a redundant pair (R296): 0 none, 1 PRP, 2 HSR. -/
def State.redMode (s : State) (k : Nat) : Nat := let m := s.fld (SWC_RED_CFG k) 1 0; if m = 3 then 0 else m

/-- The pair of a port when it runs PRP or HSR. -/
def State.redPair (s : State) (p : Nat) : Option Nat := (pairOf p).filter (fun k => s.redMode k ≠ 0)

/-- The address a port sends from: both members of a pair in PRP or HSR use the A member's (R296). -/
def State.portAddr (s : State) (p : Nat) : Nat :=
  match s.redPair p with
  | some k => s.macAddr (2 * k)
  | none => s.macAddr p

/-- A rate or FEC setting the port supports (R268, R315). -/
def macCfgOk (p v : Nat) : Bool :=
  let rate := bits v 2 1
  let fec := bits v 4 3
  let rateOk := if p ≤ 1 then rate == 1 || rate == 2
    else if p ≤ 3 then rate == 0 || rate == 1
    else if p = 4 ∨ p = 6 ∨ p = 7 then rate == 2
    else rate == 0
  rateOk && fec != 3 && (fec == 0 || rate == 2)

def State.swq (s : State) (p q : Nat) : List SwFrame := s.swc.queues.at' (8 * p + q)

/-- The frame in transmission on a port, with its queue and the tick of its end. -/
def State.txNow (s : State) (p : Nat) : Option (SwFrame × Nat × Nat) := s.swc.inTx.at' p

/-- Frames that hold cells for a queue: those queued and the one in transmission. -/
def State.cellHolders (s : State) (p q : Nat) : List SwFrame :=
  s.swq p q ++ (match s.txNow p with | some (f, q', _) => if q' = q then [f] else [] | none => [])

/-- Show a queue's cells and frames. -/
def State.showQ (p q : Nat) (s : State) : State :=
  let l := s.cellHolders p q
  s.setReg (SWC_Q_STAT p q) (l.foldl (fun a f => a + f.res + f.kit) 0 % 2 ^ 16 + (s.swq p q).length % 2 ^ 16 * 2 ^ 16)

def State.setQ (p q : Nat) (l : List SwFrame) (s : State) : State :=
  (s.modSwc (fun c => { c with queues := s.swc.queues.put (8 * p + q) l })).showQ p q

/-- Cells of a frame go back to where they came from (R275). -/
def State.freeCells (f : SwFrame) (s : State) : State := s.setReg SWC_KITTY (s.rd SWC_KITTY + f.kit)

/-- No frame of the switch is queued for a port. -/
def State.noneQueued (s : State) (p : Nat) : Bool := (List.range 8).all (fun q => (s.swq p q).isEmpty)

/-- Nothing is queued or in transmission on a port, frames outside the switch included (R270). -/
def State.swIdle (s : State) (p : Nat) : Bool := s.noneQueued p && s.atBoundary p && (s.swc.direct.at' p).isEmpty

/-! ### The input FIFO of SIE (R107) -/

/-- Octets in the input FIFO. -/
def State.sieFill (s : State) : Nat := s.sieIn.foldl (· + ·) 0

/-- A frame of `len` octets finds room in the 16 KiB FIFO. -/
def State.sieRoom (s : State) (len : Nat) : Bool := decide (s.sieFill + len ≤ 16384)

/-! ### Transmit descriptors (R308, R309) -/

def State.txrBase (s : State) (r : Nat) : Nat := s.base (SWC_TXR_BASE_LO r) 6
def ringSize (v : Nat) : Nat := bits v 3 0
def ringOn (v : Nat) : Bool := bitAt v 31 && decide (6 ≤ ringSize v ∧ ringSize v ≤ 12)

/-- Write back a descriptor: words 2 and 3, then word 1 with `own` = 0 (R309). -/
def State.writeBack (id status port ts : Nat) (s : State) : State :=
  let a := s.txrBase (id / 4096) + id % 4096 * 16
  let w2 := s.ld (a + 8) 4
  let s := s.dmaWords (a + 8) [setBits (setBits w2 18 16 status) 22 19 port, ts]
  s.dmaWords (a + 4) [s.ld (a + 4) 4 % 2 ^ 31]

/-- Status of a descriptor none or all of whose copies have left (R308). -/
def TxDesc.status (d : TxDesc) : Nat :=
  if d.ok = d.total then 0 else if 0 < d.ok then 2 else if d.adm then 4 else if d.age then 5 else 1

/-- The lowest-numbered port that sent the frame, with its timestamp. -/
def lowestPort : List (Nat × Nat) → Nat × Nat
  | [] => (0, 0)
  | [x] => x
  | x :: rest => let y := lowestPort rest; if x.1 ≤ y.1 then x else y

/-- The last copy of a descriptor's frame has left or been lost. A frame that the lookup gives no egress has a status
the spec does not state. -/
def State.descDone (id : Nat) (s : State) : State :=
  let d := s.swc.descs.at' id
  if d.left ≠ 0 then s else
  let a := s.txrBase (id / 4096) + id % 4096 * 16
  let (p, ts) := lowestPort d.sent
  let st := if d.total = 0 then Config.freeValue s.free % 8 else d.status
  let s := if d.total = 0 then s.drew else s
  let ts := if bitAt (s.ld (a + 4) 4) 23 then ts else 0
  (s.modSwc (fun c => { c with descs := s.swc.descs.put id default })).writeBack id st p ts

/-- One copy of a descriptor's frame has met its end. -/
def State.descNote (f : SwFrame) (note : TxDesc → TxDesc) (s : State) : State :=
  match f.desc with
  | none => s
  | some id =>
    let d := note (s.swc.descs.at' id)
    (s.modSwc (fun c => { c with descs := s.swc.descs.put id { d with left := d.left - 1 } })).descDone id

/-! ### Admission and loss (R275, R279, R305) -/

/-- Cells of a frame: 256 octets each. -/
def cellsOf (n : Nat) : Nat := (n + 255) / 256

/-- Take eight cells for a frame from its queue's reserve, or from the kitty; those past its length go back. -/
def State.takeCells (s : State) (p q : Nat) (f : SwFrame) : Option SwFrame :=
  let l := s.cellHolders p q
  let n := cellsOf f.octets.length
  let f := { f with left := n }
  let kit := l.foldl (fun a f => a + f.kit) 0
  if l.foldl (fun a f => a + f.res) 0 + 8 ≤ 16 then some { f with res := n, kit := 0 }
  else if 8 ≤ s.rd SWC_KITTY ∧ kit + 8 ≤ min (s.fld (SWC_Q_CFG p q) 15 0) 31232 then some { f with res := 0, kit := n }
  else none

/-- Age limit of a queue in ticks. -/
def State.maxAge (s : State) (p q : Nat) : Nat := max (s.fld (SWC_Q_CFG p q) 31 16) 1 * 10 * tUs

/-- Drop the frames of a queue that `c` selects, counting them in `reg`. -/
def State.dropFrames (p q : Nat) (c : SwFrame → Bool) (reg : Nat) (note : TxDesc → TxDesc) (s : State) : State :=
  let lost := (s.swq p q).filter c
  if lost.isEmpty then s else
  let s := s.setQ p q ((s.swq p q).filter (fun f => !c f))
  let s := if s.swIdle p then s.modSwc (fun c => { c with idleAt := c.idleAt.put p s.clk }) else s
  s.each lost (fun f s => ((s.freeCells f).inc reg).descNote f note)

/-- Drop the frames of a queue that are too old (R279). -/
def State.dropOld (p q : Nat) (s : State) : State :=
  let m := s.maxAge p q
  s.dropFrames p q (fun f => decide (f.tick + m < s.clk)) (SWC_Q_AGE_DROP p q) (fun d => { d with age := true })

/-- Flush the frames of a queue that `c` selects (R305). -/
def State.flushQ (p q : Nat) (c : SwFrame → Bool) (s : State) : State :=
  s.dropFrames p q c (SWC_Q_FLUSH p q) (fun d => { d with down := true })

/-- Admit a copy to an egress queue: dropped for a port that is down, or when no cells are free; a port in low-power idle
wakes (R275, R305, R306). The flag says that it was admitted. -/
def State.swAdmit (p q : Nat) (f : SwFrame) (s : State) : State × Bool :=
  if s.swUp p = false then ((s.inc (SWC_PORT_DOWN_CNT p)).descNote f (fun d => { d with down := true }), false)
  else match s.takeCells p q f with
    | none => ((s.inc (SWC_Q_ADMIT_DROP p q)).descNote f (fun d => { d with adm := true }), false)
    | some f =>
      let s := s.setReg SWC_KITTY (s.rd SWC_KITTY - f.kit)
      ((s.setQ p q (s.swq p q ++ [f])).wakePort p, true)

/-! ### Frames -/

/-- A frame's octets with its FCS, sent least significant octet first. -/
def withFcs (l : List Byte) : List Byte := l ++ bytesLE 4 (crc32 l)

/-- A frame's octets without its FCS. -/
def noFcs (l : List Byte) : List Byte := l.take (l.length - 4)

/-- The FCS does not fit. -/
def fcsBad (l : List Byte) : Bool := decide (l.length < 4) || decide (leNat (l.drop (l.length - 4)) ≠ crc32 (noFcs l))

/-- Octets before the payload: addresses, tags and EtherType. -/
def Parsed.headLen (p : Parsed) : Nat := 14 + (if p.tci.isSome then 4 else 0) + (if p.hsr.isSome then 6 else 0)

/-- Kind of R288. -/
def Parsed.kind (p : Parsed) : Nat :=
  if p.etype = 0x88BA then 1 else if p.etype = 0x88B8 then 2 else if p.etype = 0x88F7 then 3 else 0

/-- The offset of a frame's HSR tag. -/
def hsrAt (l : List Byte) : Nat := if head16 (l.drop 12) = 0x8100 then 16 else 12

/-- A frame without its trailer or tag (R300). -/
def stripRed (l : List Byte) : List Byte :=
  let p := parseFrame l
  if p.hsr.isSome then
    let i := if head16 (l.drop 12) = 0x892F then 12 else 16
    l.take i ++ l.drop (i + 6)
  else if p.rct.isSome then l.take (l.length - 6)
  else l

/-- A frame as a pair sends it (R297): a trailer in PRP, a tag in HSR. `m` is the member, 0 for A. -/
def redForm (mode m seq : Nat) (l : List Byte) : List Byte :=
  let lsdu := l.length - hsrAt l - 2 + 6
  if mode = 1 then l ++ bytesBE 2 seq ++ bytesBE 2 ((0xA + m) * 2 ^ 12 + lsdu % 2 ^ 12) ++ bytesBE 2 0x88FB
  else
    let i := hsrAt l
    l.take i ++ bytesBE 2 0x892F ++ bytesBE 2 (m * 2 ^ 12 + lsdu % 2 ^ 12) ++ bytesBE 2 seq ++ l.drop i

/-- The source address of a frame that leaves it to the egress port (R258). -/
def fillSrc (a : Nat) (l : List Byte) : List Byte :=
  if beNat ((l.drop 6).take 6) = 0 then l.take 6 ++ bytesBE 6 a ++ l.drop 12 else l

/-- The selvedge of a copy delivered from queue `q` (R286). -/
def SwFrame.selvedge (f : SwFrame) (q : Nat) : Nat :=
  f.ts + f.port * 2 ^ 32 + f.err * 2 ^ 36 + f.path * 2 ^ 40 + b2n f.cut * 2 ^ 42 + b2n f.mirror * 2 ^ 43
    + b2n f.trunc * 2 ^ 44 + q * 2 ^ 45 + f.len % 2 ^ 12 * 2 ^ 48 + b2n (decide (f.port ≤ 8)) * 2 ^ 63

/-! ### Receive rings (R307) -/

/-- A frame for receive ring `r`. -/
def State.rxRing (r : Nat) (octets : List Byte) (selv : Nat) (s : State) : State :=
  let cfg := s.rd (SWC_RXR_CFG r)
  let h := s.rd (SWC_RXR_HEAD r)
  let a := s.base (SWC_RXR_BASE_LO r) 6 + h * 16
  let w1 := s.ld (a + 4) 4
  if ringOn cfg = false ∨ s.memOn a = false ∨ bitAt w1 31 = false then s.inc (SWC_RXR_NODESC r)
  else
    let buf := s.ld a 4 / 64 * 64 + bits w1 7 0 * 2 ^ 32
    let s := (s.dma buf octets).dmaWords (a + 8) [selv % 2 ^ 32, selv / 2 ^ 32]
    let s := s.dmaWords (a + 4) [w1 % 2 ^ 31]
    (s.setReg (SWC_RXR_HEAD r) ((h + 1) % 2 ^ ringSize cfg)).inc (SWC_RXR_FRAMES r)

/-! ### Transparent clock (R313) -/

/-- Table life of a residence in ticks. -/
def State.fuTmo (s : State) : Nat := max (s.fld SWC_TC_CFG 31 16) 1 * tMs

/-- Add `ns` to the correction field of the PTP message at offset `o`. -/
def addCorr (o : Nat) (ns : Int) (l : List Byte) : List Byte :=
  let c := beNat ((l.drop (o + 8)).take 8)
  l.take (o + 8) ++ bytesBE 8 (unsigned 64 (c + ns * 2 ^ 16)) ++ l.drop (o + 16)

/-- A PTP message leaves external port `p`: corrected octets, without FCS. The residence is the time unit's reading now less
that at arrival, without the corrections of `MAC_LAT` (R273). -/
def State.tcCorrect (p : Nat) (f : SwFrame) (s : State) : State × List Byte :=
  let l := noFcs f.octets
  if f.tc = false then (s, l) else
  let o := (parseFrame l).headLen
  let b := fun (i n : Nat) => beNat ((l.drop (o + i)).take n)
  let mt := b 0 1 % 16
  let two := bitAt (b 6 1) 1
  let res : Int := (s.wallNs : Int) - f.inNs
  let key := b 4 1 * 2 ^ 80 + b 20 10
  let seq := b 30 2
  if mt = 1 ∨ (mt = 0 ∧ !two) then (s.inc SWC_TC_CORR, addCorr o res l)
  else if mt = 0 then
    if s.swc.resid.length < 256 then
      let r : Residence := { key := key, seq := seq, port := p, ns := res, tick := s.clk }
      ((s.modSwc (fun c => { c with resid := s.swc.resid ++ [r] })), l)
    else (s, l)
  else if mt = 8 then
    let is := fun (r : Residence) => r.key == key && r.seq == seq && r.port == p && decide (s.clk < r.tick + s.fuTmo)
    match s.swc.resid.find? is with
    | some r => ((s.modSwc (fun c => { c with resid := s.swc.resid.erase r })).inc SWC_TC_CORR, addCorr o r.ns l)
    | none => (s.inc SWC_TC_NOMATCH, l)
  else (s, l)

/-- TC_FOLLOW_UP_TIMEOUT (R313): residences older than `fu_tmo_ms` leave the table. -/
def execTcFollowUpTimeout (s : State) : Host.Outcome State Fault Refusal :=
  .next (s.modSwc (fun c => { c with resid := s.swc.resid.filter (fun r => decide (s.clk < r.tick + s.fuTmo)) }))

/-! ### Transmission (R277, R279, R284) -/

/-- TS32 of a frame's first bit at an external port's medium (R273). -/
def State.txStamp (s : State) (p : Nat) : Nat :=
  unsigned 32 ((s.wallNs : Int) + signed 16 (s.fld (MAC_LAT p) 31 16))

/-- The last bit of the frame in transmission on port `p` has left. -/
def State.txEnd (p : Nat) (s : State) : State :=
  match s.txNow p with
  | some (f, q, due) =>
    if due ≤ s.clk then
      let s := (s.modSwc (fun c => { c with inTx := s.swc.inTx.put p none }))
      let s := ((s.freeCells f).showQ p q).macSent p f.octets.length
      let s := (s.inc (SWC_Q_TX p q)).when (f.bad) (State.inc (MAC_TX_BADFCS p))
      s.descNote f (fun d => { d with ok := d.ok + 1 })
    else s
  | none => s

/-- Cells of the frame in transmission whose octets have left are free (R275). -/
def State.txFree (p : Nat) (s : State) : State :=
  match s.txNow p with
  | some (f, q, due) =>
    let n := cellsOf (min ((due - s.clk) * s.octetsPerTick p) f.octets.length)
    if n < f.res + f.kit then
      let g := { f with res := min f.res n, kit := min f.kit n }
      let s := s.modSwc (fun c => { c with inTx := c.inTx.put p (some (g, q, due)) })
      (s.setReg SWC_KITTY (s.rd SWC_KITTY + (f.kit - g.kit))).showQ p q
    else s
  | none => s

/-- A frame begins on external port `p`. -/
def State.txStart (p q : Nat) (f : SwFrame) (s : State) : State :=
  let ts := s.txStamp p
  let (s, l) := s.tcCorrect p f
  let o := withFcs l
  let s := s.emit (.egress p q (if f.bad then l ++ bytesLE 4 (crc32 l ^^^ 0xFFFFFFFF) else o) (f.bad))
  let s := match f.desc with
    | some id =>
      let d := s.swc.descs.at' id
      (s.modSwc (fun c => { c with descs := s.swc.descs.put id { d with sent := d.sent ++ [(p, ts)] } }))
    | none => s
  let rest := s.swc.inTx.put p (some ({ f with octets := o }, q, s.clk + s.txTicks p o.length))
  (s.modSwc (fun c => { c with inTx := rest })).showQ p q

/-- A frame is delivered to the block behind an internal port. -/
def State.deliver (p q : Nat) (f : SwFrame) (s : State) : State :=
  let s := ((s.freeCells f).showQ p q).inc (SWC_Q_TX p q)
  let sv := f.selvedge q
  let s := if p = 9 then { s with sieIn := s.sieIn ++ [f.octets.length] } else s
  let s := if p = 10 ∧ f.target < 16 then s.rxRing f.target f.octets sv
    else s.emit (.deliver p (if p = 10 then f.target - 16 else f.target) f.octets sv)
  s.descNote f (fun d => { d with ok := d.ok + 1 })

/-- The head frame of a queue may leave: it is cut through, or written whole (R278, R282), and port 9 has room for it
(R107). (DESIGN CHOICE: a queue whose head is not yet written whole counts as empty.) -/
def State.headReady (s : State) (p q : Nat) : Bool :=
  match s.swq p q with
  | [] => false
  | f :: _ => (f.cut || f.left == 0) && (p != 9 || s.sieRoom f.octets.length)

/-- The head frame of the highest queue that has one ready leaves. -/
def State.sendHead (p : Nat) (s : State) : State :=
  match (List.range 8).reverse.find? (fun q => s.headReady p q) with
  | none => s
  | some q =>
    match s.swq p q with
    | [] => s
    | f :: rest =>
      let s := s.setQ p q rest
      if p ≤ 8 then s.txStart p q f else s.deliver p q f

/-- EGRESS_TRANSMIT (R277): at a frame boundary frames outside the switch go first (R270); then frames too old are dropped
and the head of the highest queue that is not empty starts. -/
def State.egress (p : Nat) (s : State) : State :=
  if s.power.nx = false ∨ s.swUp p = false ∨ s.clk < s.swc.wakeAt.at' p then s else
  let s := ((s.txEnd p).directEnd p).directNext p
  if s.atBoundary p = false then s else
  (s.each (List.range 8) (fun q s => s.dropOld p q)).sendHead p

def execEgressTransmit (p : Fin 12) (s : State) : Host.Outcome State Fault Refusal := .next (s.egress p.val)

/-- AGE_SWEEP (R279). -/
def execAgeSweep (s : State) : Host.Outcome State Fault Refusal :=
  .next (s.each (List.range 96) (fun i s => s.dropOld (i / 8) (i % 8)))

/-! ### The stream table (R288–R295) -/

/-- Words of an entry. -/
def State.entry (s : State) (i : Nat) : List Nat := s.swc.table.at' i
def ew (e : List Nat) (w : Nat) : Nat := e.getD w 0

def entryValid (e : List Nat) : Bool := bitAt (ew e 1) 31

/-- Destination, VID, kind and APPID of an entry. -/
def entryKey (e : List Nat) : Nat × Nat × Nat × Nat :=
  let k := bits (ew e 1) 29 28
  (ew e 0 + bits (ew e 1) 15 0 * 2 ^ 32, bits (ew e 1) 27 16, k, if k = 1 ∨ k = 2 then bits (ew e 2) 15 0 else 0)

/-- Bucket of a key (R288). -/
def bucket (k : Nat × Nat × Nat × Nat) : Nat :=
  crc32 (bytesBE 6 k.1 ++ bytesBE 2 (k.2.1 + k.2.2.1 * 2 ^ 12) ++ bytesBE 2 k.2.2.2) % 2 ^ 12

/-- The entry of a bucket with exactly this key. -/
def State.probe (s : State) (k : Nat × Nat × Nat × Nat) : Option Nat :=
  ((List.range 4).map (fun i => 4 * bucket k + i)).find? (fun i => entryValid (s.entry i) && entryKey (s.entry i) == k)

/-- The entry a frame matches: the exact VID before any VID. -/
def State.lookup (s : State) (da vid kind appid : Nat) : Option Nat :=
  (s.probe (da, vid, kind, appid)).or (s.probe (da, 4095, kind, appid))

/-- The staged entry has a reserved bit set, or a channel above 95. -/
def stagedBad (e : List Nat) : Bool :=
  bitAt (ew e 1) 30 || bits (ew e 2) 31 16 != 0 || bitAt (ew e 3) 12 || bits (ew e 3) 31 30 != 0 || bitAt (ew e 4) 7
    || bits (ew e 4) 31 23 != 0 || bits (ew e 5) 31 3 != 0 || ew e 7 != 0 || decide (95 < bits (ew e 4) 6 0)

def toIngest (e : List Nat) : Option Nat := if bitAt (ew e 3) 9 then some (bits (ew e 4) 6 0) else none
def toPts (e : List Nat) : Option Nat := if bitAt (ew e 4) 18 then some (bits (ew e 4) 17 8) else none

/-- Result of a write command at index `i` (R292). -/
def State.tblRefusal (s : State) (i : Nat) (e : List Nat) : Nat :=
  let others := s.swc.table.filter (fun x => x.1 != i && entryValid x.2)
  if i / 4 ≠ bucket (entryKey e) then 1
  else if others.any (fun x => x.1 / 4 == i / 4 && entryKey x.2 == entryKey e) then 2
  else if (toIngest e).isSome && others.any (fun x => toIngest x.2 == toIngest e) then 3
  else if (toPts e).isSome && others.any (fun x => toPts x.2 == toPts e) then 4
  else if stagedBad e then 5
  else 0

def State.tblResult (v : Nat) (s : State) : State := s.setFld SWC_TBL_STAT 3 1 v

/-- A table command: one at a time; it is busy until the tick ends, and a command meanwhile is ignored (R292). (DESIGN
CHOICE: it acts at once; the spec's bound is 100 ns.) -/
def State.tblCmd (f : State → State) (s : State) : State :=
  if s.bit SWC_TBL_STAT 0 then s.tblResult 6 else (f s).setBit SWC_TBL_STAT 0 true

/-- TBL_WRITE (R292). -/
def State.tblWrite (i : Nat) (s : State) : State :=
  let st := (List.range 8).map (fun w => s.rd (SWC_TBL_ST w))
  let r := s.tblRefusal i st
  if r ≠ 0 then s.tblResult r else
  let s := s.incMod SWC_TBL_GEN
  let e := [ew st 0, setBits (ew st 1) 31 31 1, ew st 2, ew st 3, ew st 4, ew st 5, s.rd SWC_TBL_GEN, ew st 7]
  (s.modSwc (fun c => { c with table := s.swc.table.put i e })).tblResult 0

/-- TBL_INVALIDATE (R292). -/
def State.tblInvalidate (i : Nat) (s : State) : State :=
  let e := s.entry i
  let s := s.incMod SWC_TBL_GEN
  let e := if e.isEmpty then e else e.set 1 (setBits (ew e 1) 31 31 0)
  (s.modSwc (fun c => { c with table := s.swc.table.put i e })).tblResult 0

/-- TBL_READ (R292). -/
def State.tblRead (i : Nat) (s : State) : State :=
  let e := s.entry i
  (s.each (List.range 8) (fun w s => s.setReg (SWC_TBL_RD w) (ew e w))).tblResult 0

/-- TBL_FENCE (R292, R295). -/
def State.tblFence (s : State) : State :=
  if s.bit SWC_STAT 1 then s.tblResult 6
  else ((s.setReg SWC_TBL_FGEN (s.rd SWC_TBL_GEN)).setBit SWC_STAT 1 true).tblResult 0

def execTblWrite (w : Who) (index : Fin 16384) (s : State) : Host.Outcome State Fault Refusal :=
  .next (s.gateSup w SWC_TBL_CMD (State.tblCmd (State.tblWrite index.val)))
def execTblInvalidate (w : Who) (index : Fin 16384) (s : State) : Host.Outcome State Fault Refusal :=
  .next (s.gateSup w SWC_TBL_CMD (State.tblCmd (State.tblInvalidate index.val)))
def execTblRead (w : Who) (index : Fin 16384) (s : State) : Host.Outcome State Fault Refusal :=
  .next (s.gateSup w SWC_TBL_CMD (State.tblCmd (State.tblRead index.val)))
def execTblFence (w : Who) (s : State) : Host.Outcome State Fault Refusal :=
  .next (s.gateSup w SWC_TBL_CMD (State.tblCmd State.tblFence))

/-- Every copy in the switch. -/
def State.swFrames (s : State) : List SwFrame :=
  s.swc.queues.flatMap (·.2) ++ s.swc.inTx.filterMap (fun x => x.2.map (·.1))

/-- TBL_FENCE_DONE (R294): no frame that took an older generation remains. -/
def State.fenceDone (s : State) : State :=
  let g := s.rd SWC_TBL_FGEN
  let old := fun (f : SwFrame) => let d := (g + 2 ^ 32 - f.gen) % 2 ^ 32; decide (0 < d ∧ d < 2 ^ 31)
  if s.bit SWC_STAT 1 && !s.swFrames.any old then (s.setBit SWC_STAT 1 false).evt SWC_EVT 0 else s

def execTblFenceDone (s : State) : Host.Outcome State Fault Refusal := .next s.fenceDone

/-! ### Header capture (R311, R312) -/

/-- The place of entry `i` of a capture ring. -/
def State.hcAt (s : State) (c i : Nat) : Nat := s.base (SWC_HC_BASE_LO c) 19 + i % 4096 * 128

/-- Words of a capture entry; a gap marker is not counted as a capture written. -/
def State.hcWrite (c : Nat) (head : List Byte) (selv idx gap lost seq : Nat) (s : State) : State :=
  let wr := s.rd (SWC_HC_WR c)
  let a := s.hcAt c wr
  let s := s.dma a (padTo 64 head)
  let s := s.dmaWords (a + 0x40) ([selv % 2 ^ 32, selv / 2 ^ 32, idx, gap, lost] ++ List.replicate 10 0 ++ [seq])
  (s.setReg (SWC_HC_WR c) ((wr + 1) % 8192)).when (decide (gap = 0)) (State.inc (SWC_HC_CAPT c))

def State.hcFull (s : State) (c : Nat) : Bool := (s.rd (SWC_HC_WR c) + 8192 - s.rd (SWC_HC_RD c)) % 8192 == 4096

/-- A loss in the present run, of the capture numbered `n`. -/
def State.hcLose (c n : Nat) (s : State) : State :=
  let h := s.swc.cap.at' c
  let h := if h.lost = 0 then { h with lost := 1, first := n } else { h with lost := h.lost + 1 }
  (s.modSwc (fun x => { x with cap := s.swc.cap.put c h })).inc (SWC_HC_LOST c)

/-- The oldest unread entry gives way: a capture is lost; a gap marker's losses join those of the run after it. -/
def State.hcDrop (c : Nat) (s : State) : State :=
  let a := s.hcAt c (s.rd (SWC_HC_RD c))
  let s := if bitAt (s.ld (a + 0x4C) 4) 0 then
      let n := s.ld (a + 0x50) 4
      let m := s.ld (a + 0x7C) 4
      s.modSwc (fun x => { x with cap := x.cap.mod c (fun h => { h with lost := h.lost + n, first := m }) })
    else s.hcLose c (s.ld (a + 0x7C) 4)
  s.setReg (SWC_HC_RD c) ((s.rd (SWC_HC_RD c) + 1) % 8192)

/-- Capture a header; a full ring loses it or its oldest unread entry; the first that finds a free slot after losses is
preceded by a gap marker. -/
def State.hcCapture (c : Nat) (head : List Byte) (selv idx : Nat) (s : State) : State :=
  let cfg := s.rd (SWC_HC_CFG c)
  if bitAt cfg 31 = false ∨ s.power.mem = false then s else
  let h := s.swc.cap.at' c
  let n := h.seq
  let s := (s.modSwc (fun x => { x with cap := s.swc.cap.put c { h with seq := (n + 1) % 2 ^ 32 } }))
  let s := if !s.hcFull c && decide (h.lost ≠ 0) then
      let s := s.hcWrite c [] 0 0 1 h.lost h.first
      (s.modSwc (fun x => { x with cap := s.swc.cap.mod c (fun h => { h with lost := 0 }) }))
    else s
  if !s.hcFull c then s.hcWrite c head selv idx 0 0 n
  else if bitAt cfg 30 then (s.hcDrop c).hcWrite c head selv idx 0 0 n
  else s.hcLose c n

/-! ### Nodes of a redundant pair (R301) -/

def State.nodeOf (s : State) (k src : Nat) : Option Node := (s.swc.nodes.at' k).lookup src

/-- Put a pair's node table. -/
def State.setNodes (k : Nat) (t : FMap Node) (s : State) : State :=
  (s.modSwc (fun c => { c with nodes := s.swc.nodes.put k t })).setFld (SWC_RED_STAT k) 12 2 t.length

/-- Enter a sequence number in a window of 128. -/
def seen (q : Nat) (w : List Nat) : List Nat := (q :: w).take 128

/-- A frame of `src` with a trailer or tag: its node is refreshed or created; a full table leaves it out. -/
def State.nodeTouch (k src : Nat) (s : State) : State :=
  let t := s.swc.nodes.at' k
  match t.lookup src with
  | some n => s.setNodes k (t.put src { n with tick := s.clk })
  | none =>
    if t.length < 1024 then s.setNodes k (t.put src { tick := s.clk, loc := [], fwd := [], toA := [], toB := [] })
    else (s.inc (SWC_RED_NODEFULL k)).evt (SWC_RED_EVT k) 3

/-- Change a node that is entered. -/
def State.nodeSee (k src : Nat) (f : Node → Node) (s : State) : State :=
  match s.nodeOf k src with
  | some n => s.setNodes k ((s.swc.nodes.at' k).put src (f n))
  | none => s

/-- NODE_AGE_OUT (R301). -/
def State.nodeAge (k : Nat) (s : State) : State :=
  let m := max (s.fld (SWC_RED_TIMES k) 31 16) 1 * tSec
  s.setNodes k ((s.swc.nodes.at' k).filter (fun e => decide (s.clk < e.2.tick + m)))

def execNodeAgeOut (k : Fin 2) (s : State) : Host.Outcome State Fault Refusal := .next (s.nodeAge k.val)

/-! ### Egresses of a frame (R276, R290, R291, R297–R300) -/

/-- What a lookup gives a frame: external ports, internal targets (port, target), queue override, never cut through,
capture ring, entry. -/
structure Decision where
  ports : List Nat := []
  ints  : List (Nat × Nat) := []
  queue : Option Nat := none
  noCut : Bool := false
  hcap  : Option Nat := none
  idx   : Nat := 0
  deriving DecidableEq, Repr

/-- Ports of a mask. -/
def portsOf (m : Nat) : List Nat := (List.range 9).filter (bitAt m)

/-- The decision of entry `i`. -/
def entryDecision (i : Nat) (e : List Nat) : Decision :=
  let w3 := ew e 3
  let w4 := ew e 4
  { ports := portsOf (bits w3 8 0)
    ints := (if bitAt w3 9 then [(9, bits w4 6 0)] else [])
      ++ (if bitAt w3 10 then [(10, if bitAt w4 18 then 16 + bits w4 17 8 else bits w4 22 19)] else [])
      ++ (if bitAt w3 11 then [(11, i)] else [])
    queue := if bitAt w3 28 then some (bits w3 27 25) else none
    noCut := bitAt w3 29
    hcap := if bitAt (ew e 5) 2 then some (bits (ew e 5) 1 0) else none
    idx := i }

/-- The entry admits frames from ingress port `p` (R289). -/
def permits (e : List Nat) (p : Nat) : Bool :=
  let m := bits (ew e 3) 21 13
  let n := bits (ew e 3) 24 22
  (m == 0 && n == 0) || (if p ≤ 8 then bitAt m p else decide (10 ≤ p) && bitAt n (p - 10))

/-- Lookup of a frame from port `p`: counts, and the decision. A frame from a port that is not permitted is dropped; the
entry's header capture takes every matching frame, that one too (R289, R290). -/
def State.decide' (p : Nat) (f : Parsed) (s : State) : State × Decision :=
  let s := s.inc SWC_TBL_LOOKUPS
  let vid := match f.tci with | some t => t % 2 ^ 12 | none => s.fld (SWC_PORT_CFG p) 27 16
  let k := f.kind
  match s.lookup f.dst vid k (if k = 1 ∨ k = 2 then head16 f.body else 0) with
  | some i =>
    let d := entryDecision i (s.entry i)
    if permits (s.entry i) p then (s, d) else (s.inc (SWC_PORT_PERMIT_CNT p), { d with ports := [], ints := [] })
  | none =>
    let m := s.rd (SWC_PORT_MISS p)
    (s.inc (SWC_PORT_MISS_CNT p),
      { ports := portsOf (bits m 8 0), ints := if bitAt m 9 then [(10, bits m 13 10)] else [] })

/-- Place copies: each is dropped with an error, admitted, and cut through where it may (R275, R282, R284, R285). The
flag says that one was cut through. -/
def State.place (p q : Nat) (cut : Bool) (f : SwFrame) (s : State) : State × Bool :=
  let (s, ok) := s.swAdmit p q { f with cut := cut }
  if ok && cut then (s.sendHead p, true) else (s, false)

/-- Conditions of R282 on the egress port, apart from the frame's own. -/
def State.mayCut (s : State) (inPort p : Nat) : Bool :=
  s.bit SWC_CTL 1 && s.swUp p && s.swIdle p && decide (s.swc.wakeAt.at' p ≤ s.clk)
    && (if p ≤ 8 then !s.bit (MAC_STAT p) 2 && decide (s.rateCode p ≤ s.rateCode inPort)
        else s.bit (SWC_PORT_CFG p) 31)

/-- Transmissions of a port that have come to their end are over. -/
def State.portSettle (p : Nat) (s : State) : State := (s.txEnd p).directEnd p

/-- A copy for an external port: `cross` when it leaves a redundant pair. A stored copy with an error is never sent; the
flag says so. -/
def State.toExternal (q : Nat) (noCut cross : Bool) (x : Nat × SwFrame) (s : State) : State × Bool × Bool :=
  let (p, f) := x
  let s := s.portSettle p
  let cut := !noCut && !cross && s.mayCut f.port p
  if f.bad ∧ cut = false then (s.descNote f (fun d => d), false, true)
  else if 2048 < f.octets.length then ((s.inc (SWC_Q_ADMIT_DROP p q)).descNote f (fun d => { d with adm := true }), false, false)
  else
    let (s, c) := s.place p q cut f
    (s, c, false)

/-- A copy for an internal port. -/
def State.toInternal (q : Nat) (noCut : Bool) (x : Nat × SwFrame) (s : State) : State × Bool × Bool :=
  let (p, f) := x
  let cut := !noCut && s.mayCut f.port p && (p != 9 || s.sieRoom f.octets.length)
  if f.bad ∧ s.bit (SWC_PORT_CFG p) 31 = false ∧ f.mirror = false then (s.descNote f (fun d => d), false, true)
  else
    let (s, c) := s.place p q cut f
    (s, c, false)

/-- Put each copy in its place; flags gathered. -/
def State.placeAll (g : Nat × SwFrame → State → State × Bool × Bool) (l : List (Nat × SwFrame)) (s : State) : State × Bool × Bool :=
  l.foldl (fun (a : State × Bool × Bool) x => let (s, c, b) := g x a.1; (s, a.2.1 || c, a.2.2 || b)) (s, false, false)

/-- The external copies of a frame: unchanged to single ports and, within its own pair, to the other member; as the pair's
own to both members of another pair, for a frame of the module or from another pair (R297, R300). -/
def State.externals (ports : List Nat) (own : Bool) (inPair : Option Nat) (f : SwFrame) (s : State) : State × List (Nat × SwFrame) :=
  let plain := ports.filter (fun p => match s.redPair p with
    | none => true
    | some k => inPair == some k || !(own || inPair.isSome))
  let base := noFcs f.octets
  let clean := if inPair.isSome then stripRed base else base
  let copy := fun (p : Nat) =>
    let b := if (s.redPair p).isSome && inPair == s.redPair p then base else clean
    (p, { f with octets := withFcs (fillSrc (s.portAddr p) b) })
  let pairs := (List.range 2).filter (fun k => s.redMode k != 0 && inPair != some k && (own || inPair.isSome)
    && ports.any (fun p => pairOf p == some k))
  let sent := pairs.flatMap (fun k => (List.range 2).map (fun m =>
    (2 * k + m, { f with octets := withFcs (redForm (s.redMode k) m (s.swc.seq.at' k) (fillSrc (s.macAddr (2 * k)) clean)) })))
  let s := s.each (if f.bad then [] else pairs) (fun k s => (s.modSwc (fun c => { c with seq := s.swc.seq.put k ((s.swc.seq.at' k + 1) % 2 ^ 16) })))
  (s, plain.map copy ++ sent)

/-- A frame of the switch from port `p` with its lookup done. `f.octets` hold the FCS; `own`: from the module itself;
`dupLoc`, `dupFwd`: a later copy by the node table; `ring`: the HSR ring member it is passed to. The flag says that the
delivery to an internal port began before the frame ended. -/
def State.forward (d : Decision) (q : Nat) (p : Parsed) (f : SwFrame) (dupLoc dupFwd : Bool) (ring : Option Nat) (s : State) :
    State × Bool :=
  let inPair := s.redPair f.port
  let own := decide (10 ≤ f.port)
  let reserved := decide (0x0180C2000000 ≤ p.dst ∧ p.dst ≤ 0x0180C200000F)
  let hsr := match inPair with | some k => s.redMode k == 2 | none => false
  let ports := d.ports.filter (fun x => x != f.port && !reserved
    && !(hsr && pairOf x == pairOf f.port) && !(dupFwd && (inPair.isSome && s.redPair x != inPair)))
  let f := { f with tc := s.bit SWC_TC_CFG 0 && p.kind == 3 && decide (f.port ≤ 8) }
  let (s, ext) := s.externals ports own inPair f
  let ext := ext ++ (match ring with | some r => if reserved then [] else [(r, f)] | none => [])
  let ddDrop := fun (x : Nat × Nat) => match inPair with
    | some k => dupLoc && s.bit (SWC_RED_CFG k) 2 && ((x.1 == 10 && decide (x.2 < 16)) || x.1 == 11)
    | none => false
  let s := s.each (d.ints.filter ddDrop) (fun _ s => match inPair with | some k => s.inc (SWC_RED_DUPDROP k) | none => s)
  let ints := (d.ints.filter (fun x => !ddDrop x)).map (fun x => (x.1, { f with target := x.2, tc := false }))
  let s := match f.desc with
    | some id =>
      let n := ext.length + ints.length
      let e : TxDesc := { left := n, sent := [], ok := 0, total := n, down := false, adm := false, age := false }
      (s.modSwc (fun c => { c with descs := s.swc.descs.put id e }))
    | none => s
  let s := match f.desc with | some id => if ext.length + ints.length = 0 then s.descDone id else s | none => s
  let (s, c1, b1) := s.placeAll (fun x s =>
    s.toExternal q d.noCut (inPair.isSome && s.redPair x.1 != inPair) x) ext
  let (s, c2, b2) := s.placeAll (State.toInternal q d.noCut) ints
  let s := s.when (c1 || c2) (State.inc SWC_CT_FRAMES)
  (s.when ((b1 || b2) && decide (f.port ≤ 12)) (State.inc (SWC_PORT_BAD_CNT f.port)), c2)

/-- The queue of a frame (R276). -/
def State.queueOf (s : State) (p : Nat) (given : Option Nat) (d : Decision) (f : Parsed) : Nat :=
  match given with
  | some q => q
  | none => match d.queue with
    | some q => q
    | none => if f.kind = 3 then 5 else match f.tci with | some t => t / 2 ^ 13 | none => s.fld (SWC_PORT_CFG p) 30 28

/-- A sampled mirror copy (R310). -/
def State.mirrorCopy (f : SwFrame) (s : State) : State :=
  let p := f.port
  let cfg := s.rd (SWC_PORT_MIRROR p)
  if !([2, 3, 8].contains p) || !bitAt cfg 31 then s else
  let n := s.swc.mirror.at' p + 1
  if n < max (bits cfg 15 0) 1 then (s.modSwc (fun c => { c with mirror := s.swc.mirror.put p n }))
  else
    let s := (s.modSwc (fun c => { c with mirror := s.swc.mirror.put p 0 }))
    let c := { f with
      octets := f.octets.take 128
      mirror := true
      trunc := decide (128 < f.octets.length)
      target := bits cfg 30 27
      desc := none
      tc := false }
    if s.swUp 10 = false then s.inc SWC_MIR_DROP
    else match s.takeCells 10 0 c with
      | none => s.inc SWC_MIR_DROP
      | some _ => (s.swAdmit 10 0 c).1

/-- A frame as it comes to its lookup. -/
def State.newFrame (s : State) (p : Nat) (octets : List Byte) (err path : Nat) (bad : Bool) (desc : Option Nat) : SwFrame :=
  { octets := octets, gen := s.rd SWC_TBL_GEN, tick := s.clk, port := p
    ts := if p ≤ 8 then unsigned 32 ((s.wallNs : Int) - signed 16 (s.fld (MAC_LAT p) 15 0)) else ts32 s.wallNs
    err := err, path := path, cut := false, mirror := false, trunc := false, len := octets.length, target := 0, res := 0
    kit := 0, desc := desc, tc := false, inNs := s.wallNs, left := 0, bad := bad }

/-- Lookup and forwarding of a frame with its FCS from port `p` (R290–R300). -/
def State.switchIn (p : Nat) (octets : List Byte) (err path : Nat) (bad : Bool) (given : Option Nat) (desc : Option Nat)
    (dupLoc dupFwd : Bool) (ring : Option Nat) (s : State) : State :=
  let pf := parseFrame (noFcs octets)
  let f := s.newFrame p octets err path bad desc
  let (s, d) := s.decide' p pf
  let q := s.queueOf p given d pf
  let (s, cut) := s.forward d q pf f dupLoc dupFwd ring
  let s := s.mirrorCopy f
  match d.hcap with
  | some c => s.hcCapture c (octets.take 64) ({ f with cut := cut }.selvedge q) d.idx
  | none => s

/-! ### Frames of the blocks behind internal ports (R271, R278, R297, R308) -/

/-- Cells of a frame from port `i` are still to be written to some output. -/
def State.portBusy (s : State) (i : Nat) : Bool :=
  let open_ := fun (f : SwFrame) => f.port == i && f.left != 0
  s.swc.queues.any (fun x => x.2.any open_) || s.swc.inTx.any (fun x => x.2.any (fun y => open_ y.1))

/-- A frame of an internal port enters the switch: a direct descriptor's goes unchanged to the ports it names, any other is
looked up. -/
def State.feed (p : Nat) (x : Ingress) (s : State) : State :=
  match x.direct with
  | none => s.switchIn p x.octets 0 0 false (some x.queue) x.desc false false none
  | some ports =>
    let f := s.newFrame p x.octets 0 0 false x.desc
    let e : TxDesc := { left := ports.length, sent := [], ok := 0, total := ports.length, down := false, adm := false, age := false }
    let s := match x.desc with
      | some id =>
        let s := s.modSwc (fun c => { c with descs := c.descs.put id e })
        if ports.isEmpty then s.descDone id else s
      | none => s
    let (s, cut, _) := s.placeAll (fun y s => s.toExternal x.queue false false y) (ports.map (fun p => (p, f)))
    s.when cut (State.inc SWC_CT_FRAMES)

/-- A block gives a frame to its internal port. While cells of an earlier one are unwritten the port is held back and the
frame waits (R278). -/
def State.enter (p : Nat) (x : Ingress) (s : State) : State :=
  if s.bit SWC_CTL 0 = false then s
  else if s.portBusy p ∨ s.swc.waitIn.at' p ≠ [] then
    s.modSwc (fun c => { c with waitIn := c.waitIn.put p (c.waitIn.at' p ++ [x]) })
  else s.feed p x

/-- The first frame that waits at an internal port enters once the port is free. -/
def State.admitNext (p : Nat) (s : State) : State :=
  if s.portBusy p then s else
  match s.swc.waitIn.at' p with
  | [] => s
  | x :: rest => (s.modSwc (fun c => { c with waitIn := c.waitIn.put p rest })).feed p x

/-! ### Write ports (R278) -/

/-- The rank of a frame's cell: 0 cut through, 1 to 3 queues 7 to 5, 4 from an external port, 5 from an internal one. -/
def cellRank (q : Nat) (f : SwFrame) : Nat :=
  if f.cut then 0 else if 5 ≤ q then 8 - q else if f.port ≤ 8 then 4 else 5

/-- The step of R278 a rank belongs to. -/
def rankStep (r : Nat) : Nat := if r = 0 then 0 else if r ≤ 3 then 1 else r - 2

/-- The frames of an output with cells to be written, each with its queue. -/
def State.unwritten (s : State) (p : Nat) : List (Nat × SwFrame) :=
  let l := (List.range 8).flatMap (fun q => (s.swq p q).map (fun f => (q, f)))
  let l := match s.txNow p with | some (f, q, _) => (q, f) :: l | none => l
  l.filter (fun x => x.2.left != 0)

/-- The frame ingress port `i` writes next to an output: its first come. -/
def State.nextCell (s : State) (p i : Nat) : Option (Nat × SwFrame) :=
  ((s.unwritten p).filter (fun x => x.2.port == i)).foldl (fun (b : Option (Nat × SwFrame)) x =>
    match b with
    | none => some x
    | some y => if x.2.tick < y.2.tick then some x else b) none

/-- Ports in round-robin order from port `n`. -/
def fromPort (n : Nat) (l : List Nat) : List Nat := l.filter (fun i => decide (n ≤ i)) ++ l.filter (fun i => decide (i < n))

/-- The first frame of a list that is ingress port `i`'s, arrived at tick `t`, has one cell more written. -/
def cellDown (i t : Nat) : List SwFrame → List SwFrame
  | [] => []
  | f :: rest => if f.port = i ∧ f.tick = t ∧ f.left ≠ 0 then { f with left := f.left - 1 } :: rest else f :: cellDown i t rest

/-- Ingress port `i` writes a cell to output `p`. -/
def State.writeCell (p i : Nat) (s : State) : State :=
  match s.nextCell p i with
  | none => s
  | some (q, f) =>
    match s.txNow p with
    | some (g, q', due) =>
      if g = f then s.modSwc (fun c => { c with inTx := c.inTx.put p (some ({ g with left := g.left - 1 }, q', due)) })
      else s.setQ p q (cellDown i f.tick (s.swq p q))
    | none => s.setQ p q (cellDown i f.tick (s.swq p q))

/-- The slot of one rank at an output: winners within what is left of the four write ports. -/
def State.slotRank (p r : Nat) (ready : List (Nat × Nat)) (a : State × Nat) : State × Nat :=
  let (s, room) := a
  let k := 4 * p + rankStep r
  let won := (fromPort (s.swc.nextWin.at' k) ((ready.filter (fun x => x.2 == r)).map (·.1))).take room
  let s := s.each won (State.writeCell p)
  let s := match won.getLast? with
    | some i => s.modSwc (fun c => { c with nextWin := c.nextWin.put k (i + 1) })
    | none => s
  (s, room - won.length)

/-- A slot of 32 ns at an output: of the ingress ports with a cell for it, four write one each. -/
def State.cellSlot (p : Nat) (s : State) : State :=
  let ready := (List.range 13).filterMap (fun i => (s.nextCell p i).map (fun x => (i, cellRank x.1 x.2)))
  if ready.isEmpty then s else
  ((List.range 6).foldl (fun a r => State.slotRank p r ready a) (s, 4)).1

/-- Every fourth tick is a slot; then held-back internal ports go on. -/
def State.slot (s : State) : State :=
  if s.clk % 4 ≠ 0 then s
  else (s.each (List.range 12) State.cellSlot).each [10, 11, 12] State.admitNext

/-! ### Frames from outside (R269, R270, R298, R299) -/

/-- A port of a pair receives a frame without error: its silence ends (R303). -/
def State.heard (p : Nat) (s : State) : State :=
  let o := p / 2 * 2 + 1 - p % 2
  let first := s.swc.good.at' o = 0 ∧ s.swc.base.at' o = 0
  let s := s.modSwc (fun c => { c with
    good := c.good.put p s.clk
    base := if first then c.base.put o s.clk else c.base })
  match s.redPair p with
  | some k =>
    if s.bit (SWC_RED_STAT k) (p % 2) then
      ((s.setBit (SWC_RED_STAT k) (p % 2) false).evt (SWC_RED_EVT k) 4).healthUpdate
    else s
  | none => s

/-- A frame's length field does not fit its octets (R286). -/
def lengthBad (p : Parsed) : Bool :=
  decide (p.etype ≤ 1500) && decide (p.body.length ≠ max p.etype (if p.tci.isSome then 42 else 46))

/-- A frame of an entered source without trailer or tag renews its age (R301). -/
def State.nodeRenew (k src : Nat) (s : State) : State := s.nodeSee k src (fun n => { n with tick := s.clk })

/-- A frame with a trailer or tag and sequence number `q` of an error-free frame: the node's windows before and after. The
flags: a later copy for local delivery, for forwarding, and passed already in the ring's direction of port `p`. -/
def State.nodePass (k p src q : Nat) (ok ring : Bool) (s : State) : State × Bool × Bool × Bool :=
  let s := s.when ok (State.nodeTouch k src)
  let n := s.nodeOf k src
  let dupL := ok && n.any (fun n => n.loc.contains q)
  let dupF := ok && n.any (fun n => n.fwd.contains q)
  let passed := n.any (fun n => (if p % 2 = 0 then n.toB else n.toA).contains q)
  let s := s.when ok (State.nodeSee k src (fun n => { n with
    loc := if dupL then n.loc else seen q n.loc
    fwd := if dupF then n.fwd else seen q n.fwd
    toA := if ring && p % 2 == 1 && !n.toA.contains q then seen q n.toA else n.toA
    toB := if ring && p % 2 == 0 && !n.toB.contains q then seen q n.toB else n.toB }))
  (s, dupL, dupF, passed)

/-- A frame from a PRP member (R298). -/
def State.fromPrp (k p : Nat) (octets : List Byte) (err : Nat) (pf : Parsed) (s : State) : State :=
  let path := p % 2 + 1
  match pf.rct with
  | none =>
    let s := (s.when (err == 0) (State.heard p)).when (err == 0) (State.nodeRenew k pf.src)
    s.switchIn p octets err path (err != 0) none none false false none
  | some (lan, q) =>
    let wrong := decide (lan ≠ 0xA + p % 2)
    let s := if wrong then (s.inc (SWC_RED_WRONGLAN k)).evt (SWC_RED_EVT k) 2 else s
    let err := err + (if wrong then 4 else 0)
    let (s, dupL, dupF, _) := (s.when (err == 0) (State.heard p)).nodePass k p pf.src q (err == 0) false
    s.switchIn p octets err path (err != 0) none none dupL dupF none

/-- A frame from an HSR member (R299). One without a tag sets `red_err`, and crosses unchanged (R300). -/
def State.fromHsr (k p : Nat) (octets : List Byte) (err : Nat) (pf : Parsed) (s : State) : State :=
  let path := p % 2 + 1
  let other := 4 * k + 1 - p
  let mine := decide (pf.dst = s.macAddr (2 * k))
  if pf.src = s.macAddr (2 * k) then (s.when (err == 0 && pf.hsr.isSome) (State.heard p)).inc (SWC_RED_OWNRM k)
  else match pf.hsr with
    | none =>
      let s := s.when (err == 0) (State.nodeRenew k pf.src)
      s.switchIn p octets (err + 4) path (err != 0) none none false false (if mine then none else some other)
    | some (_, q) =>
      let (s, dupL, dupF, passed) := (s.when (err == 0) (State.heard p)).nodePass k p pf.src q (err == 0) true
      s.switchIn p octets err path (err != 0) none none dupL dupF (if mine || passed then none else some other)

/-- A frame from an external member of pair `k`: what the redundancy protocol does before the lookup. -/
def State.fromPair (k p : Nat) (octets : List Byte) (err : Nat) (pf : Parsed) (s : State) : State :=
  if s.redMode k = 1 then s.fromPrp k p octets err pf else s.fromHsr k p octets err pf

/-- The receiver counts a frame and its errors; the link partner has left low-power idle (R306, R315). -/
def State.macRx (p len : Nat) (fcs short sym : Bool) (s : State) : State :=
  let s := (s.inc (MAC_RX_FRAMES p)).setReg64 (MAC_RX_OCT_LO p) (min (s.rd64 (MAC_RX_OCT_LO p) + len) (2 ^ 64 - 1))
  let s := (s.when fcs (State.inc (MAC_RX_FCS p))).when short (State.inc (MAC_RX_LEN p))
  (s.when sym (State.inc (MAC_RX_SYM p))).setBit (MAC_STAT p) 3 false

/-- Ports whose frames of EtherType 0x88B5 go to RED or CAS: ML, AL, CU and CD, and MP of an arbiter (R270, R317). -/
def State.lzPort (s : State) (p : Nat) : Bool := decide (4 ≤ p ∧ p ≤ 7) || (p == 8 && s.role == 2)

/-- A Pdelay_Req on a port with `bm_en` = 1 is copied to TIME (R69, R270). -/
def State.toTime (p : Nat) (pf : Parsed) (octets : List Byte) (s : State) : State :=
  if (p = 6 ∨ p = 7) ∧ s.bit (TIME_BM_CFG (p - 6)) 0 ∧ pf.kind = 3 ∧ leNat (pf.body.take 1) % 16 = 2 then
    s.emit (.passed 1 p (noFcs octets))
  else s

/-- A frame at external port `p`, destination address to FCS; `sym`: a PCS error within it. -/
def State.rxExternal (p : Nat) (octets : List Byte) (sym : Bool) (s : State) : State :=
  if s.power.nx = false ∨ s.portUp p = false then s else
  let long := decide (2048 < octets.length)
  let octets := octets.take 2048
  let pf := parseFrame (noFcs octets)
  let fcs := fcsBad octets
  let len := long || decide (octets.length < 64) || lengthBad pf
  let s := s.macRx p octets.length fcs len sym
  let err := b2n fcs + 2 * b2n len + 8 * b2n sym
  if pf.etype = 0x8808 then ((s.when (err == 0) (State.heard p)).inc (MAC_RX_PAUSE p)).evt (MAC_EVT p) 4
  else if pf.etype = 0x88B5 ∧ s.lzPort p then s.emit (.passed (if p = 6 ∨ p = 7 then 13 else 12) p (noFcs octets))
  else
    let s := s.toTime p pf octets
    if s.bit SWC_CTL 0 = false then s
    else match s.redPair p with
      | some k => s.fromPair k p octets err pf
      | none => (s.when (err == 0) (State.heard p)).switchIn p octets err 0 (err != 0) none none false false none

/-- FRAME_RECEIVE (R269, R270, R281–R293): a frame at an external port, with its FCS. -/
def execFrameReceive (p : Fin 9) (octets : List Byte) (sym : Bool) (s : State) : Host.Outcome State Fault Refusal :=
  .next (s.rxExternal p.val octets sym)

/-! ### Supervision and silence (R302, R303) -/

/-- A supervision frame of pair `k` (IEC 62439-3), without trailer or tag. -/
def State.supFrame (s : State) (k : Nat) : List Byte :=
  let hsr := s.redMode k == 2
  let f := bytesBE 6 (0x01154E000100 + s.fld (SWC_RED_CFG k) 15 8) ++ bytesBE 6 (s.macAddr (2 * k)) ++ bytesBE 2 0x88FB
    ++ bytesBE 2 1 ++ bytesBE 2 (s.swc.supSeq.at' k) ++ bytesBE 1 (if hsr then 23 else 20) ++ bytesBE 1 6
    ++ bytesBE 6 (s.macAddr (2 * k)) ++ bytesBE 2 0
  f ++ List.replicate (60 - f.length) 0

/-- SUPERVISION_SEND (R302). -/
def State.supervise (k : Nat) (s : State) : State :=
  let due := match s.swc.supAt.at' k with
    | none => true
    | some t => decide (t + max (s.fld (SWC_RED_CFG k) 31 16) 1 * tMs ≤ s.clk)
  if s.power.nx = false ∨ s.redMode k = 0 ∨ s.bit (SWC_RED_CFG k) 3 = false ∨ due = false then s else
  let f := s.supFrame k
  let q := s.swc.seq.at' k
  let s := s.each [0, 1] (fun m s =>
    let o := withFcs (redForm (s.redMode k) m q f)
    s.sendDirect (2 * k + m) { out := .egress (2 * k + m) 0 o false, len := o.length })
  s.modSwc (fun c => { c with
    seq := c.seq.put k ((q + 1) % 2 ^ 16)
    supSeq := c.supSeq.put k ((c.supSeq.at' k + 1) % 2 ^ 16)
    supAt := c.supAt.put k (some s.clk) })

def execSupervisionSend (k : Fin 2) (s : State) : Host.Outcome State Fault Refusal := .next (s.supervise k.val)

/-- LAN_SILENT (R303): no error-free frame for `silent_ms` while the other member has received one. A member that never
received counts from its partner's first frame. -/
def State.lanSilent (k m : Nat) (s : State) : State :=
  let lim := max (s.fld (SWC_RED_TIMES k) 15 0) 1 * tMs
  let own := s.swc.good.at' (2 * k + m)
  let mine := if own = 0 then s.swc.base.at' (2 * k + m) else own
  let other := s.swc.good.at' (2 * k + 1 - m)
  if s.power.nx ∧ s.redMode k ≠ 0 ∧ s.bit (SWC_RED_STAT k) m = false ∧ mine + lim ≤ s.clk ∧ 0 < other ∧ mine ≤ other then
    (((s.setBit (SWC_RED_STAT k) m true).evt (SWC_RED_EVT k) m).ledger 3 10 k (SWC_RED_EVT k) m []).healthUpdate
  else s

def execLanSilent (k m : Fin 2) (s : State) : Host.Outcome State Fault Refusal := .next (s.lanSilent k.val m.val)

/-! ### Links (R304–R306) -/

/-- A frame of a protection EtherType, flushed at once with the link (R305). -/
def urgentFrame (f : SwFrame) : Bool := (parseFrame (noFcs f.octets)).kind != 0

/-- The frame in transmission on a port that goes down is abandoned (R305). -/
def State.txAbort (p : Nat) (s : State) : State :=
  match s.txNow p with
    | some (f, q, _) =>
      let s := (s.modSwc (fun c => { c with inTx := s.swc.inTx.put p none }))
      (((s.freeCells f).showQ p q).inc (MAC_TX_ABORT p)).descNote f (fun d =>
        { d with down := true, sent := d.sent.filter (fun x => x.1 != p) })
    | none => s

/-- The queues of a port that goes down: flushed, or queues 0 to 4 held (R305). -/
def State.downQueues (p : Nat) (s : State) : State :=
  let s := s.each [5, 6, 7] (fun q s => s.flushQ p q (fun _ => true))
  let hold := s.fld (SWC_PORT_CFG p) 15 0
  let s := s.each (List.range 5) (fun q s => s.flushQ p q (if hold = 0 then fun _ => true else urgentFrame))
  if hold = 0 then s else
    (s.modSwc (fun c => { c with heldAt := c.heldAt.put p s.clk })).setBit (SWC_PORT_STAT p) 1 true

/-- A port goes down (R304, R305). -/
def State.linkDown (p : Nat) (s : State) : State :=
  let s := s.modSwc (fun c => { c with goodAt := c.goodAt.put p none })
  if s.portUp p = false then s.setFld (MAC_STAT p) 4 0 0 else
  let s := ((s.portSettle p).txAbort p).directDrop p
  let s := ((s.setFld (MAC_STAT p) 4 0 0).evt (MAC_EVT p) 0).inc (MAC_LINK_DOWN p)
  ((s.setBit (SWC_PORT_STAT p) 0 false).downQueues p).healthUpdate

/-- LINK_DOWN (R304): the signal, block lock or synchronisation is lost. -/
def execLinkDown (p : Fin 9) (s : State) : Host.Outcome State Fault Refusal := .next (s.linkDown p.val)

/-- A port comes up: frames held within their age stay (R304, R305). -/
def State.portRises (p : Nat) (s : State) : State :=
  let an := s.bit (MAC_CFG p) 5 && decide (s.rateCode p = 0)
  let s := (s.setFld (MAC_STAT p) 4 0 (3 + 16 * b2n an)).evt (MAC_EVT p) 1
  let s := s.each (List.range 8) (fun q s => s.dropOld p q)
  let s := s.setFld (SWC_PORT_STAT p) 1 0 1
  (s.modSwc (fun c => { c with idleAt := c.idleAt.put p s.clk })).healthUpdate

/-- LINK_UP (R304): the link is good; the port comes up once it has been so for `up_ms`. (DESIGN CHOICE: the first LINK_UP
says that the link has become good, the first one `up_ms` later brings the port up.) -/
def State.linkUp (p : Nat) (s : State) : State :=
  if s.power.nx = false ∨ s.portUp p ∨ s.bit (MAC_CFG p) 0 = false ∨ macCfgOk p (s.rd (MAC_CFG p)) = false then s else
  let since := (s.swc.goodAt.at' p).getD s.clk
  let s := (s.modSwc (fun c => { c with goodAt := c.goodAt.put p (some since) })).setBit (MAC_STAT p) 1 true
  if since + s.fld (MAC_CFG p) 15 8 * tMs ≤ s.clk then s.portRises p else s

def execLinkUp (p : Fin 9) (s : State) : Host.Outcome State Fault Refusal := .next (s.linkUp p.val)

/-- HOLD_EXPIRY (R305). -/
def State.holdExpire (p : Nat) (s : State) : State :=
  if s.bit (SWC_PORT_STAT p) 1 ∧ s.portUp p = false ∧ s.swc.heldAt.at' p + s.fld (SWC_PORT_CFG p) 15 0 * tMs ≤ s.clk then
    (s.each (List.range 5) (fun q s => s.flushQ p q (fun _ => true))).setBit (SWC_PORT_STAT p) 1 false
  else s

def execHoldExpiry (p : Fin 9) (s : State) : Host.Outcome State Fault Refusal := .next (s.holdExpire p.val)

/-- EEE is available on SA, SB, AL and MP (R306). -/
def eeePort (p : Nat) : Bool := [2, 3, 5, 8].contains p

/-- LPI_ENTRY (R306): the port has been idle for `lpi_idle_us`. -/
def State.lpiEntry (p : Nat) (s : State) : State :=
  let idle := max (s.fld (MAC_EEE p) 15 4) 1 * tUs
  let s := s.txEnd p
  if s.portUp p && eeePort p && s.bit (MAC_EEE p) 0 && s.swIdle p && !s.bit (MAC_STAT p) 2
      && decide (s.swc.idleAt.at' p + idle ≤ s.clk) then
    (s.setBit (MAC_STAT p) 2 true).inc (MAC_LPI_ENTRY p)
  else s

def execLpiEntry (p : Fin 9) (s : State) : Host.Outcome State Fault Refusal := .next (s.lpiEntry p.val)

/-- LPI_RECEIVE (R306): the link partner signals low-power idle. -/
def State.lpiReceive (p : Nat) (s : State) : State :=
  if s.portUp p = false then s
  else if eeePort p then s.setBit (MAC_STAT p) 3 true
  else s.evt (MAC_EVT p) 3

def execLpiReceive (p : Fin 9) (s : State) : Host.Outcome State Fault Refusal := .next (s.lpiReceive p.val)

/-! ### Transmit rings (R308) -/

/-- Take the descriptor at the head of ring `r` when the module owns it. The flag says that one was taken. -/
def State.txTake (r : Nat) (s : State) : State × Bool :=
  let cfg := s.rd (SWC_TXR_CFG r)
  let h := s.rd (SWC_TXR_HEAD r)
  let id := r * 4096 + h
  let a := s.txrBase r + h * 16
  let w1 := s.ld (a + 4) 4
  if s.power.nx = false ∨ s.bit SWC_CTL 0 = false ∨ ringOn cfg = false ∨ s.memOn a = false ∨ bitAt w1 31 = false
      ∨ (s.swc.descs.at' id).left ≠ 0 ∨ (s.swc.waitIn.at' 10).any (fun x => x.desc == some id) then (s, false)
  else
    let s := (s.setReg (SWC_TXR_HEAD r) ((h + 1) % 2 ^ ringSize cfg)).inc (SWC_TXR_FRAMES r)
    let n := bits w1 19 8
    if n < 60 ∨ 2044 < n then (s.writeBack id 3 0 0, true)
    else
      let o := withFcs (s.rdBytes (s.ld a 4 + bits w1 7 0 * 2 ^ 32) n)
      let direct := if bitAt w1 24 then some (portsOf (s.ld (a + 8) 4)) else none
      (s.enter 10 { octets := o, queue := bits w1 22 20, desc := some id, direct := direct }, true)

/-- TX_RING_POLL (R308): each enabled ring's head is read, round-robin, one frame each. -/
def State.txPoll (s : State) : State :=
  let n := s.swc.nextTxr
  let s := s.each ((List.range 16).map (fun i => (n + i) % 16)) (fun r s => (s.txTake r).1)
  (s.modSwc (fun c => { c with nextTxr := (n + 1) % 16 }))

def execTxRingPoll (s : State) : Host.Outcome State Fault Refusal := .next s.txPoll

/-- TX_RING_KICK (R308). -/
def execTxRingKick (w : Who) (r : Fin 16) (s : State) : Host.Outcome State Fault Refusal :=
  .next (s.gateSup w (SWC_TXR_KICK r.val) (fun s => (s.txTake r.val).1))

/-! ### Configuration writes (R268, R306, R310, R314) -/

/-- A write of `MAC_CFG`: an unsupported setting takes the port down with `cfg_err`; a change of rate or FEC, or
`enable` 0, takes the link down. -/
def State.macCfg (p v : Nat) (s : State) : State :=
  let old := s.rd (MAC_CFG p)
  let v := v % 2 ^ 16 - bits v 7 6 * 2 ^ 6
  let v := if s.boot.recovery ∧ p ≠ 8 then v / 2 * 2 else v
  let s := s.setReg (MAC_CFG p) v
  let s := s.when (!macCfgOk p v) (State.evt (MAC_EVT p) 2)
  if bitAt v 0 && macCfgOk p v && bits v 4 1 == bits old 4 1 then s else s.linkDown p

/-- A write of `MAC_EEE`. -/
def State.macEee (p v : Nat) (s : State) : State :=
  let v := v - bits v 3 1 * 2
  if eeePort p then s.setReg (MAC_EEE p) v
  else (s.setReg (MAC_EEE p) (v / 2 * 2)).when (bitAt v 0) (State.evt (MAC_EVT p) 2)

/-- A write of `SWC_PORT_MIRROR`. -/
def State.mirrorCfg (p v : Nat) (s : State) : State :=
  if [2, 3, 8].contains p then s.setReg (SWC_PORT_MIRROR p) (v - bits v 26 16 * 2 ^ 16)
  else (s.setReg (SWC_PORT_MIRROR p) (bits v 30 27 * 2 ^ 27 + bits v 15 0)).when (bitAt v 31) (State.evt SWC_EVT 1)

/-- A write of a ring's configuration or base (R314): no effect while the ring is enabled, whatever is written. -/
def State.ringWrite (cfg a v : Nat) (s : State) : State :=
  if s.bit cfg 31 then s.evt SWC_EVT 1
  else if a ≠ cfg then s.setReg a v
  else if bitAt v 31 ∧ ringOn v = false then (s.setReg a (bits v 3 0)).evt SWC_EVT 1
  else s.setReg a (b2n (bitAt v 31) * 2 ^ 31 + bits v 3 0)

/-- The same of a header capture ring. -/
def State.hcRingWrite (cfg a v : Nat) (s : State) : State :=
  if s.bit cfg 31 then s.evt SWC_EVT 1 else s.setReg a (if a = cfg then bits v 31 30 * 2 ^ 30 else v)

/-! ### The compute die off (R305) -/

/-- Ports 9 to 11 count as down with `hold_ms` 0: their queues are flushed, and frames their blocks hold back are gone. -/
def State.innerFlush (s : State) : State :=
  let s := s.each (List.range 24) (fun i s => s.flushQ (9 + i / 8) (i % 8) (fun _ => true))
  s.modSwc (fun c => { c with waitIn := (c.waitIn.put 10 []).put 11 [] })

end Sys2Proof.Machine
end

