-- ==== Sys2Proof/Machine/Pub.lean ====
section
/-!
DEFINITION. The publisher (R249–R263). The element tags of IEC 61850-8-1 and 9-2 and the octets of the IEC 62351-6 extension
are not in the spec: PRESUMED.
-/

namespace Sys2Proof.Machine

def State.pubOf (s : State) (e : Nat) : PubEnt := s.pub.at' e
def State.modPub (e : Nat) (f : PubEnt → PubEnt) (s : State) : State := { s with pub := s.pub.mod e f }
def State.pubProt (s : State) (e : Nat) : Bool := s.bit (PUB_ENT_CFG e) 26

/-! ### Templates (R249) -/

def State.tplAt (s : State) (e : Nat) : Nat := s.base (PUB_ENT_TPL_LO e) 11
def State.tplCount (s : State) (e : Nat) : Nat := s.ld (s.tplAt e + 0x20) 4 % 64
def State.tplMember (s : State) (e m : Nat) : Nat := s.ld (s.tplAt e + 0x400 + 4 * m) 4
/-- Part of a member: 0 value, 1 quality, 2 timestamp, 3 mandate epoch. -/
def partOf (d : Nat) : Nat := bits d 24 23

/-- A counted string of the template. -/
def State.tplStr (s : State) (e len off : Nat) : List Byte :=
  s.rdBytes (s.tplAt e + off) (min (s.ld (s.tplAt e + len) 1) 129)

/-- Address of a point (R237). -/
def State.pointAt (s : State) (p : Nat) : Nat := s.base PTS_BASE_LO 28 + 32 * p

/-- Word `i` of a point's record. -/
def State.pointWord (s : State) (p i : Nat) : Nat := s.ld (s.pointAt p + 4 * i) 4

def State.pointType (s : State) (p : Nat) : Nat := bits (s.pointWord p 2) 11 8
def State.pointVal (s : State) (p : Nat) : Nat := s.pointWord p 0 + 2 ^ 32 * s.pointWord p 1

/-- The entry's configuration is refused (R249, R251, R263). -/
def State.pubBad (s : State) (e : Nat) : Bool :=
  let n := s.tplCount e
  decide (n = 0 ∨ (if e < 256 then 60 else 32) < n) || (s.pubProt e && decide (partOf (s.tplMember e (n - 1)) ≠ 3))
    || (decide (256 ≤ e) && (decide (4 < s.fld (PUB_ENT_SV e) 2 0) || (List.range n).any (fun m =>
      let d := s.tplMember e m
      decide (partOf d ≠ 3 ∧ s.pointType (bits d 22 0) ≠ 3))))

/-- Set or clear `cfg_err` by a check. -/
def State.pubCheck (e : Nat) (s : State) : State :=
  let bad := s.pubBad e
  (s.setBit (PUB_ENT_STAT e) 1 bad).when bad (State.evt (PUB_ENT_EVT e) 0)

/-! ### Encoding (R241, R249, R250, R258) -/

/-- The octets of a bit-string's content: padding, then the bits, the first in the most significant place. -/
def bitString (n : Nat) (f : Nat → Bool) : List Byte :=
  let octets := (n + 7) / 8
  bytesBE 1 (octets * 8 - n) ++ (List.range octets).map (fun o =>
    BitVec.ofNat 8 ((List.range 8).foldl (fun v i => 2 * v + b2n (decide (8 * o + i < n) && f (8 * o + i))) 0))

/-- IEC 61850-7-3 quality bits, first bit lowest: validity in the first two (01 invalid, 11 questionable) (R250). -/
def quality13 (q : Nat) : Nat :=
  let v := match q % 4 with | 0 => 0 | 3 => 3 | _ => 2
  v + 4 * b2n (bitAt q 5) + 2 ^ 7 * b2n (bitAt q 4) + 2 ^ 9 * b2n (bitAt q 3) + 2 ^ 10 * b2n (bitAt q 6)
    + 2 ^ 11 * b2n (bitAt q 2)

/-- utc-time: seconds, fraction of 24 bits truncated, time quality. -/
def utcTime (sec ns tq : Nat) : List Byte := bytesBE 4 sec ++ bytesBE 3 (ns * 2 ^ 24 / 10 ^ 9) ++ bytesBE 1 tq

/-- The time quality octet of a synchronisation class (R240). -/
def timeQuality (cls : Nat) : Nat := if cls = 2 then 0x94 else if cls = 1 then 0xB4 else 0x7F

/-- The element of a point's value by its type (R241); none for a type that is a structure error. `n` is the member's bit
count. -/
def valueElem (ty v n : Nat) : Option (List Byte) :=
  match ty with
  | 1 => some (berPut 0x83 [if v % 2 = 1 then 0xFF else 0])
  | 2 => some (berPut 0x84 (bitString 2 (bitAt v)))
  | 3 => some (berPut 0x85 (berInt (signed 32 v)))
  | 4 => some (berPut 0x86 (berUInt (v % 2 ^ 32)))
  | 5 => some (berPut 0x85 (berInt (signed 64 v)))
  | 6 => some (berPut 0x87 (bytesBE 1 0x08 ++ bytesBE 4 v))
  | 7 => some (berPut 0x87 (bytesBE 1 0x0B ++ bytesBE 8 v))
  | 8 => some (berPut 0x84 (bitString n (bitAt v)))
  | _ => none

/-- The element of a member descriptor (R249). -/
def State.memberElem (s : State) (d : Nat) : Option (List Byte) :=
  let p := bits d 22 0
  match partOf d with
  | 0 => valueElem (s.pointType p) (s.pointVal p) (bits d 30 25)
  | 1 => some (berPut 0x84 (bitString 13 (bitAt (quality13 (bits (s.pointWord p 2) 7 0)))))
  | 2 => some (berPut 0x91 (utcTime (s.pointWord p 4) (s.pointWord p 3) (bits (s.pointWord p 5) 23 16)))
  | _ => some (berPut 0x86 (berUInt s.red.held))

/-- All elements, or none. -/
def allSome : List (Option (List Byte)) → Option (List Byte)
  | [] => some []
  | some x :: rest => (allSome rest).map (x ++ ·)
  | none :: _ => none

/-- A boolean element. -/
def berBool (t : Nat) (b : Bool) : List Byte := berPut t [if b then 0xFF else 0]

/-- The goosePdu of an entry: `st`, `sq`, t with the quality octet its reading had (R254) and timeAllowedtoLive in ms; none when a member cannot be encoded. -/
def State.goosePdu (s : State) (e st sq sec ns tal : Nat) : Option (List Byte) :=
  let a := s.tplAt e
  let n := s.tplCount e
  let flags := s.ld (a + 0x20) 4
  let goid := s.tplStr e 0x18 0x180
  match allSome ((List.range n).map (fun m => s.memberElem (s.tplMember e m))) with
  | none => none
  | some data => some (berPut 0x61
      (berPut 0x80 (s.tplStr e 0x10 0x40) ++ berPut 0x81 (berUInt tal) ++ berPut 0x82 (s.tplStr e 0x14 0xE0)
        ++ (if goid.isEmpty then [] else berPut 0x83 goid)
        ++ berPut 0x84 (utcTime sec ns (s.pubOf e).tq) ++ berPut 0x85 (berUInt st) ++ berPut 0x86 (berUInt sq)
        ++ berBool 0x87 (bitAt flags 9) ++ berPut 0x88 (berUInt (s.ld (a + 0x1C) 4)) ++ berBool 0x89 (bitAt flags 8)
        ++ berPut 0x8A (berUInt n) ++ berPut 0xAB data))

/-- Addresses, tag, EtherType and message header of an entry; the source address is filled in at the egress port. -/
def State.pubHeader (s : State) (e etype apduLen : Nat) (sim : Bool) : List Byte :=
  let a := s.tplAt e
  let vlan := s.ld (a + 8) 4
  s.rdBytes a 6 ++ bytesBE 6 0 ++ (if bitAt vlan 16 then bytesBE 2 0x8100 ++ bytesBE 2 vlan else [])
    ++ bytesBE 2 etype ++ bytesBE 2 (s.ld (a + 0xC) 2) ++ bytesBE 2 (apduLen + 8) ++ bytesBE 2 (if sim then 0x8000 else 0)
    ++ bytesBE 2 0

/-- The authentication of an outgoing frame (R258): the octets to append, or none when the frame is withheld. -/
def State.pubSign (s : State) (e : Nat) (frame : List Byte) : Option (List Byte) :=
  let auth := s.fld (PUB_ENT_CFG e) 22 21
  let k := s.fld (PUB_ENT_KEYS e) 5 0
  if auth = 0 then some []
  else if s.lineUse k 8 && [1, 2, 3].contains (s.slotAlg k) then
    let alg := if s.slotAlg k = 1 then 2 else 3
    let iv := bytesBE 12 (Config.freeValue s.free)
    some (bytesBE 4 (s.rd (KEY_SLOT_ID k)) ++ (if alg = 3 then iv else []) ++ tagOf (s.keys.at' k) alg iv frame)
  else if auth = 1 then some [] else none

/-- An entry's frame enters the switch at port 12 on the entry's queue (R258, R276). -/
def State.toPort12 (e : Nat) (frame : List Byte) (s : State) : State :=
  s.enter 12 { octets := withFcs frame, queue := s.fld (PUB_ENT_CFG e) 25 23, desc := none, direct := none }

/-- A frame of an entry is ready: authenticate it and hand it to port 12, or withhold it (R258, R261). -/
def State.pubSend (e : Nat) (frame : Option (List Byte)) (dual : Bool) (s : State) : State :=
  let s := s.drew
  match frame with
  | none => (s.evt (PUB_ENT_EVT e) 6).evt (PUB_ENT_EVT e) 3
  | some f =>
    if dual then ((((s.inc PUB_DUAL_ERR).evt PUB_DUAL_STAT 0).evt (PUB_ENT_EVT e) 4).evt (PUB_ENT_EVT e) 3).blockFault 9 1 e
    else match s.pubSign e f with
      | none => (s.evt (PUB_ENT_EVT e) 5).evt (PUB_ENT_EVT e) 3
      | some ext =>
        let k := s.fld (PUB_ENT_KEYS e) 5 0
        let s := s.when (!ext.isEmpty) (State.inc (KEY_SLOT_USES k))
        ((s.toPort12 e (f ++ ext)).inc PUB_TX).inc (PUB_ENT_TX e)

/-! ### Requests (R251–R257, R260) -/

/-- Requests queued for an entry. -/
def State.pubQueued (s : State) (e : Nat) : Bool := s.pubQ.any (fun r => r.entry == e)

/-- Put a request in the queue: by the entry's switch queue, 7 first, then by acceptance. -/
def State.pubPush (r : PubReq) (s : State) : State :=
  let q := fun (e : Nat) => s.fld (PUB_ENT_CFG e) 25 23
  let first := s.pubQ.takeWhile (fun x => decide (q r.entry ≤ q x.entry))
  let rest := s.pubQ.dropWhile (fun x => decide (q r.entry ≤ q x.entry))
  { s with pubQ := first ++ [r] ++ rest }.setBit (PUB_ENT_STAT r.entry) 2 true

/-- The slice and pass that requested the entry's last new state: the one that waits, else the last one sent (R260). -/
def State.lastOwner (s : State) (e : Nat) : Option (Nat × Nat) :=
  match s.pubQ.find? (fun r => r.entry == e && !r.refresh) with
  | some r => r.owner
  | none => (s.pubOf e).last

/-- A request of an entry by a slice, a watch (`owner` none, not counted for repetition) or a refresh: the result code of
R251 and the state. -/
def State.pubRequest (e : Nat) (refresh restarted : Bool) (owner : Option (Nat × Nat)) (s : State) : State × Nat :=
  let s := if s.bit (PUB_ENT_CFG e) 31 ∧ e < 256 then s.pubCheck e else s
  if 256 ≤ e ∨ s.bit PUB_CTL 0 = false ∨ s.bit (PUB_ENT_CFG e) 31 = false ∨ s.bit (PUB_ENT_STAT e) 1 then (s, 1)
  else if !refresh && restarted && owner.isSome && s.lastOwner e == owner then
    ((s.inc PUB_REPEAT).evt (PUB_ENT_EVT e) 2, 3)
  else if s.pubProt e && !s.mandate then (s.inc PUB_NOMANDATE, 4)
  else if !refresh && s.pubQ.any (fun r => r.entry == e && !r.refresh) then
    (if owner.isSome then
      { s with pubQ := s.pubQ.map (fun r => if r.entry = e ∧ r.refresh = false then { r with owner := owner } else r) }
    else s, 0)
  else if 64 ≤ s.pubQ.length then (s.inc PUB_REQ_FULL, 2)
  else
    (s.pubPush { entry := e, refresh := refresh, sec := s.time.sec, ns := s.time.ns, tq := timeQuality s.syncClass, owner := owner }, 0)

/-- The number of the pass a slice is in, and whether that pass was restarted. -/
def State.passNo (s : State) (n : Nat) : Nat × Bool :=
  match (s.sl n).pass with
  | some ps => (ps.seq, ps.restarted)
  | none => (0, false)

/-- A write of `PUB_REQ`: checked as kind 12 use on its entry, the result in the master's bank. -/
def State.pubReqWrite (w : Who) (e : Nat) (refresh : Bool) (s : State) : State :=
  s.gateGrant w PUB_REQ 12 e .use (fun s =>
    let (no, again) := s.passNo w.slice
    let (s, r) := s.pubRequest e refresh again (some (w.slice.val, no))
    s.setReg (bank w.master PUB_REQ_STAT) r)

def execPubReqNewState (w : Who) (e : Fin 512) (s : State) : Host.Outcome State Fault Refusal :=
  .next (s.pubReqWrite w e.val false)
def execPubReqRefresh (w : Who) (e : Fin 512) (s : State) : Host.Outcome State Fault Refusal :=
  .next (s.pubReqWrite w e.val true)

/-! ### Transmission (R253–R256, R261) -/

/-- The interval after transmission `k`, in ticks and in µs (R255). -/
def State.pubInterval (s : State) (e k : Nat) : Nat :=
  let first := max (s.fld (PUB_ENT_CURVE e) 15 0) 1
  let last := max (s.fld (PUB_ENT_CURVE e) 31 16) 1 * 1000
  if 32 ≤ k then last else min (first * 2 ^ k) last

/-- timeAllowedtoLive in ms of transmission `k`. -/
def State.pubTal (s : State) (e k : Nat) : Nat :=
  max (((s.fld (PUB_ENT_CFG e) 20 19 + 2) * s.pubInterval e k + 999) / 1000) 1

/-- Encode and send the frame of transmission `k` with the entry's stNum, sqNum and t. -/
def State.pubFrame (e k : Nat) (dual : Bool) (s : State) : State :=
  let pdu := s.goosePdu e (s.rd (PUB_ENT_STNUM e)) (s.rd (PUB_ENT_SQNUM e)) (s.rd (PUB_ENT_T_SEC e)) (s.rd (PUB_ENT_T_NS e))
    (s.pubTal e k)
  let f := pdu.map (fun x => s.pubHeader e 0x88B8 x.length (s.bit PUB_CTL 1) ++ x)
  s.pubSend e f dual

/-- The count that follows, 1 after 2^32 − 1 (R254). -/
def nextNum (v : Nat) : Nat := if v = 2 ^ 32 - 1 then 1 else v + 1

/-- Transmission 0 of a new state: stNum advances, sqNum 0, t as given; the curve is anchored here. `owner`: the slice and
pass that requested it, none for the module's own (R260). -/
def State.pubNew (e sec ns tq : Nat) (owner : Option (Nat × Nat)) (dual : Bool) (s : State) : State :=
  let s := (s.setReg (PUB_ENT_STNUM e) (nextNum (s.rd (PUB_ENT_STNUM e)))).setReg (PUB_ENT_SQNUM e) 0
  let s := (s.setReg (PUB_ENT_T_NS e) ns).setReg (PUB_ENT_T_SEC e) (sec % 2 ^ 32)
  let s := ((s.evt (PUB_ENT_EVT e) 1).modPub e (fun p => { p with tq := tq, last := owner })).pubFrame e 0 dual
  (s.modPub e (fun p => { p with k := 1, due := some (s.clk + s.pubInterval e 0 * tUs), renew := false })).setBit
    (PUB_ENT_STAT e) 3 true

/-- The next retransmission, at scheduled instant `at_`: sqNum advances. -/
def State.pubAgain (e at_ : Nat) (dual : Bool) (s : State) : State :=
  let k := (s.pubOf e).k
  let s := (s.setReg (PUB_ENT_SQNUM e) (nextNum (s.rd (PUB_ENT_SQNUM e)))).pubFrame e k dual
  s.modPub e (fun p => { p with k := k + 1, due := some (at_ + s.pubInterval e k * tUs) })

/-- The mandate lets the entry transmit (R253). -/
def State.pubMay (s : State) (e : Nat) : Bool := !s.pubProt e || s.mandate

/-- PUB_TRANSMIT: the request at the head of the queue. -/
def State.pubTransmit (dual : Bool) (s : State) : State :=
  match s.pubQ with
  | [] => s
  | r :: rest =>
    if s.power.nx = false ∨ s.bit PUB_CTL 0 = false then s else
    let e := r.entry
    let s := { s with pubQ := rest }.setBit (PUB_ENT_STAT e) 2 (rest.any (fun x => x.entry == e))
    if s.bit (PUB_ENT_CFG e) 31 = false then s
    else if !s.pubMay e then s.inc PUB_NOMANDATE
    else
      let s := s.pubCheck e
      if s.bit (PUB_ENT_STAT e) 1 then s
      else if r.refresh = false then s.pubNew e r.sec r.ns r.tq r.owner dual
      else if (s.pubOf e).renew then s.pubNew e s.time.sec s.time.ns (timeQuality s.syncClass) none dual
      else if s.rd (PUB_ENT_STNUM e) = 0 then s
      else s.pubAgain e s.clk dual

def execPubTransmit (dual : Bool) (s : State) : Host.Outcome State Fault Refusal := .next (s.pubTransmit dual)

/-- RETRANSMISSION: the entry's next transmission falls due; without the mandate a gated entry's curve ends (R253). -/
def State.retransmit (e : Nat) (dual : Bool) (s : State) : State :=
  match (s.pubOf e).due with
  | none => s
  | some t =>
    if s.power.nx = false ∨ s.clk < t ∨ s.bit PUB_CTL 0 = false then s
    else if s.bit (PUB_ENT_CFG e) 31 = false ∨ s.pubMay e = false then
      ((s.modPub e (fun p => { p with due := none })).setBit (PUB_ENT_STAT e) 3 false).evt (PUB_ENT_EVT e) 3
    else
      let s := s.pubCheck e
      if s.bit (PUB_ENT_STAT e) 1 then s.modPub e (fun p => { p with due := some (t + s.pubInterval e p.k * tUs) })
      else if (s.pubOf e).renew then s.pubNew e s.time.sec s.time.ns (timeQuality s.syncClass) none dual
      else s.pubAgain e t dual

def execRetransmission (e : Fin 256) (dual : Bool) (s : State) : Host.Outcome State Fault Refusal :=
  .next (s.retransmit e.val dual)

/-- A mandate gain (R253): every enabled gated GOOSE entry transmits a new state. -/
def State.pubGained (s : State) : State :=
  s.each ((List.range 256).filter (fun e => s.bit (PUB_ENT_CFG e) 31 && s.pubProt e)) (fun e s =>
    let s := { s with pubQ := s.pubQ.filter (fun r => !(r.entry == e && !r.refresh)) }
    s.pubPush { entry := e, refresh := false, sec := s.time.sec, ns := s.time.ns, tq := timeQuality s.syncClass, owner := none })

/-! ### Commits (R262, R263) -/

/-- Frame rate of an SV entry, frames/s × 8 to stay whole; 0 when disabled. -/
def State.svRate8 (s : State) (e : Nat) : Nat :=
  if s.bit (PUB_ENT_CFG e) 31 then
    (match rateOf' (s.fld (PUB_ENT_SV e) 2 0) with | some r => 840 * r / (s.fld (PUB_ENT_SV e) 5 3 + 1) | none => 0)
  else 0
where
  /-- The rate codes of `SIE_CH_CFG.rate` (R104). -/
  rateOf' : Nat → Option Nat
    | 0 => some 4000
    | 1 => some 4800
    | 2 => some 12800
    | 3 => some 14400
    | 4 => some 15360
    | _ => none

/-- The samples per second of an SV entry. -/
def State.svRate (s : State) (e : Nat) : Nat := (State.svRate8.rateOf' (s.fld (PUB_ENT_SV e) 2 0)).getD 4000

/-- The SV entries together exceed 19,200 frames/s (R263). -/
def State.svTooMany (s : State) : Bool :=
  decide (840 * 19200 < ((List.range 8).map (fun i => s.svRate8 (256 + i))).foldl (· + ·) 0)

/-- The first sample after the present instant (R263). -/
def State.svStart (e : Nat) (s : State) : State :=
  let r := s.svRate e
  let c := s.time.ns * r / 10 ^ 9 + 1
  s.modPub e (fun p => { p with
    svSec := if c < r then s.time.sec else s.time.sec + 1
    svCnt := if c < r then c else 0
    svRun := true
    svBuf := [] })

/-- A commit on entry `e` has been activated. -/
def State.pubActivated (e : Nat) (s : State) : State :=
  if s.bit (PUB_ENT_CFG e) 31 then
    let s := s.pubCheck e
    if e < 256 then s.modPub e (fun p => { p with renew := true }) else s.svStart e
  else
    let s := { s with pubQ := s.pubQ.filter (fun r => r.entry != e) }
    (s.modPub e (fun p => { p with due := none, svRun := false, svBuf := [] })).setReg (PUB_ENT_STAT e) 0

/-! ### Sampled values (R263) -/

/-- The 9-2 quality word of a quality byte (R250). -/
def quality92 (q : Nat) : Nat :=
  let v := match q % 4 with | 0 => 0 | 3 => 3 | _ => 1
  quality13 q / 4 * 4 + v

/-- A member of a sample: the value of its point and the quality word. (DESIGN CHOICE: the mandate epoch, which names no
point, is sent as a good value.) -/
def State.svMember (s : State) (d : Nat) : List Byte :=
  if partOf d = 3 then bytesBE 4 s.red.held ++ bytesBE 4 (quality92 0)
  else
    let p := bits d 22 0
    bytesBE 4 (s.pointWord p 0) ++ bytesBE 4 (quality92 (bits (s.pointWord p 2) 7 0))

/-- One ASDU: svID, datSet when there is one, smpCnt, confRev, smpSynch, smpRate, the members, smpMod 1. -/
def State.svAsdu (s : State) (e cnt : Nat) : List Byte :=
  let a := s.tplAt e
  let ds := s.tplStr e 0x14 0xE0
  let data := (List.range (s.tplCount e)).flatMap (fun m => s.svMember (s.tplMember e m))
  berPut 0x30 (berPut 0x80 (s.tplStr e 0x10 0x40) ++ (if ds.isEmpty then [] else berPut 0x81 ds)
    ++ berPut 0x82 (bytesBE 2 cnt) ++ berPut 0x83 (bytesBE 4 (s.ld (a + 0x1C) 4)) ++ berPut 0x85 (bytesBE 1 s.syncClass)
    ++ berPut 0x86 (bytesBE 2 (s.svRate e)) ++ berPut 0x87 data ++ berPut 0x88 (bytesBE 2 1))

/-- The frame of collected ASDUs. -/
def State.svFrame (s : State) (e : Nat) (l : List (List Byte)) : List Byte :=
  let pdu := berPut 0x60 (berPut 0x80 (berUInt l.length) ++ berPut 0xA2 l.flatten)
  s.pubHeader e 0x88BA pdu.length false ++ pdu

/-- SV_PUBLISH: the next sample instant of entry `e` has come. -/
def State.svPublish (e : Nat) (dual : Bool) (s : State) : State :=
  let p := s.pubOf e
  let r := s.svRate e
  if s.power.nx = false ∨ s.bit PUB_CTL 0 = false ∨ s.bit (PUB_ENT_CFG e) 31 = false ∨ p.svRun = false
      ∨ s.wallNs * r < (p.svSec * r + p.svCnt) * 10 ^ 9 then s else
  let s := s.pubCheck e
  let cnt := p.svCnt
  let late := decide ((p.svSec * r + cnt + 1) * 10 ^ 9 < s.wallNs * r)
  let s := if late then s.svStart e else s.modPub e (fun p => { p with
    svSec := if cnt + 1 < r then p.svSec else p.svSec + 1
    svCnt := if cnt + 1 < r then cnt + 1 else 0 })
  if s.bit (PUB_ENT_STAT e) 1 then s.modPub e (fun p => { p with svBuf := [] })
  else
    let l := (s.pubOf e).svBuf ++ [s.svAsdu e cnt]
    if l.length < s.fld (PUB_ENT_SV e) 5 3 + 1 then s.modPub e (fun p => { p with svBuf := l })
    else
      let s := s.modPub e (fun p => { p with svBuf := [] })
      if !s.pubMay e then s.evt (PUB_ENT_EVT e) 3 else s.pubSend e (some (s.svFrame e l)) dual

def execSvPublish (e : Fin 8) (dual : Bool) (s : State) : Host.Outcome State Fault Refusal :=
  .next (s.svPublish (256 + e.val) dual)

end Sys2Proof.Machine
end

