-- ==== Sys2Proof/Machine/Pts.lean ====
section
/-!
DEFINITION. The point store: port writes, watches, GOOSE subscriptions (R237–R248, R266, R532).
-/

namespace Sys2Proof.Machine

/-! ### Watches (R243) -/

/-- A binary64 value in units of 2^-1074, exactly; none when it is a NaN or an infinity. -/
def dInt (x : Nat) : Option Int :=
  let e := bits x 62 52
  let m := bits x 51 0
  if e = 2047 then none
  else
    let v : Nat := if e = 0 then m else (m + 2 ^ 52) * 2 ^ (e - 1)
    some (if bitAt x 63 then -(v : Int) else v)

def dIsNaN (x : Nat) : Bool := bits x 62 52 == 2047 && bits x 51 0 != 0

/-- The part of a value that its type holds. -/
def typed (ty v : Nat) : Nat :=
  match ty with
  | 1 => v % 2
  | 2 => v % 4
  | 3 => v % 2 ^ 32
  | 4 => v % 2 ^ 32
  | 6 => v % 2 ^ 32
  | _ => v

/-- A deadband an infinite distance exceeds. -/
def deadbandOpen (db : F32) : Bool := !(fIsNaN db || (fIsInf db && !fSign db))

/-- |a − b| exceeds a binary32 deadband, for values in units of 2^-`k`. -/
def pastDeadband (a b : Int) (k : Nat) (db : F32) : Bool :=
  if !deadbandOpen db then false
  else if fIsInf db then true
  else decide (fInt db * 2 ^ k < ((a - b).natAbs : Int) * 2 ^ 149)

/-- The value condition of a watch: mode, type, deadband word, new and last values. -/
def watchValue (mode ty db new last : Nat) : Bool :=
  let a := typed ty new
  let b := typed ty last
  if mode = 0 ∨ mode = 3 ∨ ty = 0 ∨ 9 ≤ ty then false
  else if mode = 1 ∨ ty = 1 ∨ ty = 2 ∨ ty = 8 then a != b
  else match ty with
    | 4 => decide (db < (a - b) + (b - a))
    | 3 => decide (db < (signed 32 a - signed 32 b).natAbs)
    | 5 => decide (db < (signed 64 a - signed 64 b).natAbs)
    | 6 => if fIsNaN a || fIsNaN b then true
           else if fFinite a && fFinite b then pastDeadband (fInt a) (fInt b) 149 db
           else a != b && deadbandOpen db
    | _ => if dIsNaN a || dIsNaN b then true
           else match dInt a, dInt b with
             | some x, some y => pastDeadband x y 1074 db
             | _, _ => a != b && deadbandOpen db

/-- WATCH_TRIGGER: watch `k` sees a port write of its point; a watch of mode 0 is off. -/
def State.watchEval (ty v q k : Nat) (s : State) : State :=
  let cfg := s.rd (PTS_WATCH_CFG k)
  let w := s.watch.at' k
  let hit := bits cfg 30 29 != 0 && (!w.armed || watchValue (bits cfg 30 29) ty (s.rd (PTS_WATCH_DB k)) v w.val || (bitAt cfg 28 && q != w.qual))
  if hit then
    let s := { s with watch := s.watch.put k { armed := true, val := v, qual := q } }
    let s := (s.inc (PTS_WATCH_CNT k)).inc PTS_CHANGES
    (s.pubRequest (bits cfg 7 0) false false none).1
  else s

/-- Watches enabled on point `p`. -/
def State.watchesOf (s : State) (p : Nat) : List Nat :=
  (List.range 4096).filter (fun k => s.bit (PTS_WATCH_CFG k) 31 && s.fld (PTS_WATCH_PT k) 22 0 == p)

/-! ### Port writes (R239, R240) -/

/-- The timestamp of a port write: seconds, nanoseconds. -/
def State.pointTime (s : State) (w : Who) (tsSrc : Bool) : Nat × Nat :=
  let m := w.master.val
  let hi := s.time.sec / 2 ^ 32 * 2 ^ 32
  if tsSrc then (hi + s.rd (bank m PTS_WP_TS_SEC), s.rd (bank m PTS_WP_TS_NS) % 2 ^ 30)
  else match (s.sl w.slice).pass with
    | some ps =>
      if ps.free then (s.time.sec, s.time.ns)
      else
        let a := s.recAt ps.ref ps.gridSeq
        (hi + s.ld (a + 12) 4, s.ld (a + 8) 4 % 2 ^ 30)
    | none => (s.time.sec, s.time.ns)

/-- Write a point's record, word 7 last. -/
def State.putPoint (p v q ty slice sec ns passNo : Nat) (s : State) : State :=
  let cnt := (s.pointWord p 7 + 1) % 2 ^ 31 + 2 ^ 31
  s.dmaWords (s.pointAt p) [v % 2 ^ 32, v / 2 ^ 32 % 2 ^ 32, q % 2 ^ 8 + ty % 16 * 2 ^ 8 + slice * 2 ^ 16, ns, sec % 2 ^ 32,
    sec / 2 ^ 32 % 2 ^ 16 + timeQuality s.syncClass * 2 ^ 16, passNo, cnt]

/-- A port write an engine makes for a slice (R385, R396): the point, its watches. -/
def State.enginePoint (p v q ty slice sec ns passNo : Nat) (s : State) : State :=
  if s.bit PTS_CTL 0 = false ∨ s.memOn (s.pointAt p) = false then s else
  let s := (s.putPoint p v q ty slice sec ns passNo).inc PTS_WRITES
  s.each (s.watchesOf p) (State.watchEval ty v q)

/-- PORT_WRITE: the command `v` of the write port with the values of the master's bank. -/
def State.portWrite (w : Who) (v : Nat) (s : State) : State :=
  let p := bits v 22 0
  s.gateGrant w PTS_WP_CMD 4 p .wr (fun s =>
    let m := w.master.val
    if s.bit PTS_CTL 0 = false ∨ s.memOn (s.pointAt p) = false then s.setReg (bank m PTS_WP_STAT) 2
    else
      let val := s.rd (bank m PTS_WP_VAL_LO) + 2 ^ 32 * s.rd (bank m PTS_WP_VAL_HI)
      let q := s.fld (bank m PTS_WP_QUAL) 7 0
      let ty := bits v 26 23
      let (sec, ns) := s.pointTime w (bitAt v 27)
      let s := s.putPoint p val q ty w.slice.val sec ns (s.passNo w.slice).1
      let s := (s.setReg (bank m PTS_WP_STAT) 0).inc PTS_WRITES
      s.each (s.watchesOf p) (State.watchEval ty val q))

def execPortWrite (w : Who) (value : Word) (s : State) : Host.Outcome State Fault Refusal :=
  .next (s.portWrite w value.toNat)

/-- A write of a watch's configuration: the first port write after it is enabled triggers. -/
def State.watchCfg (k v : Nat) (s : State) : State :=
  let was := s.bit (PTS_WATCH_CFG k) 31
  let s := s.setReg (PTS_WATCH_CFG k) v
  if was then s else { s with watch := s.watch.put k {} }

/-! ### GOOSE messages (R244, R532) -/

/-- A received member: tag, content length, padding, value (R532). -/
def dsMember (e : Nat × List Byte) : Nat × Nat × Nat × Nat :=
  let c := e.2
  let len := min c.length 255
  let fit := fun (x : Int) => unsigned 64 x
  match e.1 with
  | 0x83 => (e.1, len, 0, b2n (decide (leNat c ≠ 0)))
  | 0x84 =>
    let n := 8 * (c.length - 1) - beNat (c.take 1)
    let bit := fun (i : Nat) => bitAt ((c.drop 1).getD (i / 8) 0).toNat (7 - i % 8)
    (e.1, len, beNat (c.take 1) % 8, maskOf ((List.range (min n 64)).map bit))
  | 0x85 => (e.1, len, 0, fit (signed (8 * max c.length 1) (beNat c)))
  | 0x86 => (e.1, len, 0, beNat c % 2 ^ 64)
  | 0x87 => (e.1, len, 0, beNat (c.drop 1) % 2 ^ 64)
  | _ => (e.1, len, 0, leNat (c.take 8))

/-- Outcome of steps 9 to 15 of R244. -/
inductive GooseCheck where
  | bad (cause : Nat)
  | good (m : GooseMsg)
  deriving DecidableEq, Repr

/-- A one-octet boolean element, false when absent. -/
def berFlag (t : Nat) (l : List (Nat × List Byte)) : Bool :=
  match berGet t l with
  | some c => decide (leNat c ≠ 0)
  | none => false

/-- Tag and length octets of each member in turn, for the CRC of step 15. -/
def memberTypes (l : List (Nat × List Byte)) : List Byte := l.flatMap (fun e => bytesBE 1 e.1 ++ berLenOctets e.2.length)

/-- Steps 9 to 15 on an APDU. -/
def State.gooseCheck (s : State) (n : Nat) (sim : Bool) (apdu : List Byte) : GooseCheck :=
  let nm := s.fld (PTS_SUB_CFG n) 5 0 + 1
  match ber apdu with
  | some [(0x61, pdu)] =>
    match ber pdu with
    | none => .bad 8
    | some top =>
      match berGet 0x80 top, berGet 0x81 top, berGet 0x82 top, berGet 0x84 top, berGet 0x85 top, berGet 0x86 top,
          berGet 0x88 top, berGet 0x8A top, (berGet 0xAB top).bind ber with
      | some gocb, some tal, some ds, some t, some st, some sq, some conf, some num, some data =>
        if data.length ≠ beNat num ∨ data.any (fun e => e.1 == 0xA1 || e.1 == 0xA2) ∨ beNat tal = 0 ∨ 65535 < beNat tal then .bad 8
        else if crc32 gocb ≠ s.rd (PTS_SUB_GOCB n) then .bad 9
        else if crc32 ds ≠ s.rd (PTS_SUB_DATSET n) then .bad 10
        else if beNat conf ≠ s.rd (PTS_SUB_CONFREV n) then .bad 11
        else if berFlag 0x89 top then .bad 12
        else if beNat num ≠ nm ∨ 60 < beNat num then .bad 13
        else if crc32 (memberTypes data) ≠ s.rd (PTS_SUB_TYPES n) then .bad 14
        else .good {
          st := beNat st % 2 ^ 32, sq := beNat sq % 2 ^ 32, tSec := beNat (t.take 4), tFrac := beNat ((t.drop 4).take 4)
          tal := beNat tal, test := sim || berFlag 0x87 top, lost := decide (s.syncClass < 2), rxNs := 0, rxTick := 0
          vals := data.map dsMember }
      | _, _, _, _, _, _, _, _, _ => .bad 8
  | _ => .bad 8

def State.subOf (s : State) (n : Nat) : Sub := s.subs.at' n
def State.modSub (n : Nat) (f : Sub → Sub) (s : State) : State := { s with subs := s.subs.mod n f }
def State.subState (s : State) (n : Nat) : Nat := s.fld (PTS_SUB_STAT n) 2 0

/-- Put a subscription's state; a change sets `state_chg`. -/
def State.setSub (n st : Nat) (s : State) : State :=
  if s.subState n = st then s else (s.setFld (PTS_SUB_STAT n) 2 0 st).evt (PTS_SUB_EVT n) 0

/-- Publish a set (R248). (DEDUCED: an uncorrectable error strikes it in the mark that is read, or at expiry in the held set.) -/
def State.publishSet (n : Nat) (m : GooseMsg) (expired : Bool) (s : State) : State :=
  let root := s.base PTS_SUB_BASE_LO 22
  let mark := root + 0x200000 + 16 * n
  let b := 1 - s.ld mark 4 % 2
  let fault := s.poisoned mark 16 || (expired && s.poisoned (root + n * 0x800 + (1 - b) * 0x400) 0x400)
  let a := root + n * 0x800 + b * 0x400
  let head := [m.st, m.sq, m.tSec, m.tFrac, m.rxNs % 10 ^ 9, m.rxNs / 10 ^ 9 % 2 ^ 32, m.tal,
    b2n expired + 2 * b2n m.test + 4 * b2n m.lost + m.vals.length * 2 ^ 8] ++ List.replicate 8 0
  let body := m.vals.flatMap (fun v => [v.2.2.2 % 2 ^ 32, v.2.2.2 / 2 ^ 32, v.1 + v.2.1 * 2 ^ 8 + v.2.2.1 * 2 ^ 16, 0])
  (s.dmaWords a (head ++ body)).publish mark false fault

/-- A frame accepted: expiry renewed from the receive instant (R247), sqNum kept. -/
def State.subRenew (n : Nat) (m : GooseMsg) (s : State) : State :=
  let exp := m.rxTick + (m.tal * 1000000 + s.fld (PTS_SUB_ID n) 31 16 * 1000) / 8
  let s := (s.setReg (PTS_SUB_SQNUM n) m.sq).inc (PTS_SUB_ACC n)
  s.modSub n (fun c => { c with expiry := exp, failRun := 0 })

/-- A new state is accepted (R245). -/
def State.subNew (n : Nat) (m : GooseMsg) (s : State) : State :=
  let s := ((s.subRenew n m).setSub n 2).setFld (PTS_SUB_STAT n) 31 16 m.st
  (s.modSub n (fun c => { c with st := m.st, set := some m, outRun := 0, exit := none })).publishSet n m false

/-- A frame discarded: counted, with its cause; a cause that counts advances the run towards FAILED (R529). -/
def State.subReject (n cause : Nat) (counts : Bool) (s : State) : State :=
  let s := (s.inc (PTS_SUB_DISC n)).setFld (PTS_SUB_STAT n) 11 8 cause
  if counts then s.modSub n (fun c => { c with failRun := c.failRun + 1, outRun := 0, exit := none }) else s

/-- Step 16 (R245) of a subscription in VALID. -/
def State.subStep16 (n : Nat) (m : GooseMsg) (s : State) : State :=
  let c := s.subOf n
  let d := (m.st + 2 ^ 32 - c.st) % 2 ^ 32
  if d = 0 then
    let later := (m.sq + 2 ^ 32 - s.rd (PTS_SUB_SQNUM n)) % 2 ^ 32
    if later ≠ 0 ∧ later < 2 ^ 31 then
      let differ := match c.set with | some o => o.vals != m.vals | none => false
      (s.subRenew n m).when differ (State.evt (PTS_SUB_EVT n) 5)
    else s.subReject n 15 false
  else if m.st = 1 ∧ c.st ≠ 0 then (s.evt (PTS_SUB_EVT n) 4).subNew n m
  else if d = 1 then s.subNew n m
  else if d < 2 ^ 31 then ((s.evt (PTS_SUB_EVT n) 3).incBy (PTS_SUB_STGAP n) (d - 1)).subNew n m
  else s.subReject n 15 false

/-- GOOSE_FRAME_RECEIVE (R244). -/
def State.gooseReceive (n : Nat) (f : RxFrame) (s : State) : State :=
  if s.power.cx = false ∨ s.bit PTS_CTL 1 = false then s else
  let s := s.inc PTS_SUB_RX
  if f.bad then s
  else if s.bit (PTS_SUB_CFG n) 31 = false then s.inc (PTS_SUB_DISC n)
  else
    let p := parseFrame f.octets
    let src := s.rd (PTS_SUB_SRC_LO n) + 2 ^ 32 * s.fld (PTS_SUB_SRC_HI n) 15 0
    if s.bit (PTS_SUB_CFG n) 25 ∧ p.src ≠ src then s.subReject n 1 false
    else match (if p.etype = 0x88B8 then readApdu p.body else none) with
      | none => s.subReject n 2 false
      | some a =>
        if a.appid ≠ s.fld (PTS_SUB_ID n) 15 0 then s.subReject n 3 false
        else if a.sim ∧ s.bit (PTS_SUB_CFG n) 26 = false then s.subReject n 4 false
        else
          let mode := s.fld (PTS_SUB_CFG n) 30 29
          let slot := if mode = 0 then none else f.auth.map (fun x =>
            s.authSlot (s.fld (PTS_SUB_KEYS n) 5 0) (s.fld (PTS_SUB_KEYS n) 13 8) (s.bit (PTS_SUB_KEYS n) 16) x)
          let cause := if mode = 0 then 0 else match slot with
            | none => if 2 ≤ mode then 5 else 0
            | some none => 6
            | some (some _) => 0
          if cause ≠ 0 then (s.subReject n cause false).evt (PTS_SUB_EVT n) 6
          else
            let s := match slot.getD none with | some u => s.inc (KEY_SLOT_USES u.1) | none => s
            let (k, win) := dupStep (s.fld (PTS_SUB_CFG n) 28 27) p (s.subOf n).win f.path
            if k ≠ .fresh then s.subReject n 7 false
            else
              let s := s.modSub n (fun c => { c with win := win })
              match s.gooseCheck n a.sim a.apdu with
              | .bad c => s.subReject n c true
              | .good m =>
                let rx := s.extendTs f.ts32.toNat
                let age := if f.stepCnt.toNat = s.rd TIME_STEP_CNT then s.wallNs - rx else 0
                let m := { m with rxNs := rx, rxTick := s.clk - age / 8 }
                let st := s.subState n
                if st = 4 then s.modSub n (fun c => { c with outRun := c.outRun + 1, exit := some m })
                else if st = 2 then s.subStep16 n m
                else s.subNew n m

def execGooseFrameReceive (n : Fin 1024) (f : RxFrame) (s : State) : Host.Outcome State Fault Refusal :=
  .next (s.gooseReceive n.val f)

/-- GOOSE_EXPIRY (R246, R247). -/
def State.gooseExpiry (n : Nat) (s : State) : State :=
  let c := s.subOf n
  if s.power.cx ∧ s.subState n = 2 ∧ c.expiry ≤ s.clk then
    let s := ((s.setSub n 3).evt (PTS_SUB_EVT n) 2).inc (PTS_SUB_EXP n)
    match c.set with
    | some m => s.publishSet n { m with sq := m.sq } true
    | none => s
  else s

def execGooseExpiry (n : Fin 1024) (s : State) : Host.Outcome State Fault Refusal := .next (s.gooseExpiry n.val)

/-- SUB_FAILED (R246): four counted discards in a row. -/
def execSubFailed (n : Fin 1024) (s : State) : Host.Outcome State Fault Refusal :=
  .next (if [1, 2, 3].contains (s.subState n.val) ∧ 4 ≤ (s.subOf n.val).failRun then
    ((s.setSub n.val 4).evt (PTS_SUB_EVT n.val) 1).modSub n.val (fun c => { c with outRun := 0, exit := none })
  else s)

/-- SUB_FAILED_EXIT (R246): the second frame in a row that passes steps 1 to 15 is taken as a first frame. -/
def execSubFailedExit (n : Fin 1024) (s : State) : Host.Outcome State Fault Refusal :=
  .next (let c := s.subOf n.val
    if s.subState n.val = 4 ∧ 2 ≤ c.outRun then
      match c.exit with | some m => s.subNew n.val m | none => s
    else s)

/-- SUB_CFG_WRITE (R246, R265). -/
def State.subCfg (n v : Nat) (s : State) : State :=
  let was := s.bit (PTS_SUB_CFG n) 31
  let s := s.setReg (PTS_SUB_CFG n) (v - v % 2 ^ 25 / 2 ^ 6 * 2 ^ 6)
  let s := s.when (decide (59 < bits v 5 0)) (State.evt (PTS_SUB_EVT n) 7)
  if bitAt v 31 = was then s
  else if was then s.setSub n 0
  else ({ s with subs := s.subs.put n {} }).setSub n 1

def execSubCfgWrite (w : Who) (n : Fin 1024) (value : Word) (s : State) : Host.Outcome State Fault Refusal :=
  .next (s.gateSup w (PTS_SUB_CFG n.val) (State.subCfg n.val value.toNat))

end Sys2Proof.Machine
end

