-- ==== Sys2Proof/Machine/Lge.lean ====
section
/-!
DEFINITION. The logic engine (R391–R408): programs, scans, modes, on-line changes, forces.
-/

namespace Sys2Proof.Machine

def State.prog (s : State) (p : Nat) : Option LgeProg := s.lge.at' p
def State.modProg (p : Nat) (f : LgeProg → LgeProg) (s : State) : State := { s with lge := s.lge.mod p (fun o => o.map f) }
/-- State of a program (R400). -/
def State.pgState (s : State) (p : Nat) : Nat := s.fld (LGE_PG_STAT p) 2 0
def State.pgOwner (s : State) (p : Nat) : Nat := s.fld (LGE_PG_CFG p) 15 8
/-- A scan of the program is in progress. -/
def State.scanning (s : State) (p : Nat) : Bool := s.bit (LGE_PG_STAT p) 4

/-- A change of state (R400). -/
def State.setPg (p st : Nat) (s : State) : State :=
  if s.pgState p = st then s else (s.setFld (LGE_PG_STAT p) 2 0 st).evt (LGE_PG_EVT p) 0

def State.pgRej (p : Nat) (s : State) : State := s.evt (LGE_PG_EVT p) 2

/-- A slice passes R212 on unit `i` of kind `k`. -/
def State.maySlice (s : State) (n k i : Nat) (r : Right) : Bool :=
  n == 0 || s.grants.any (fun g => g.2.covers n (s.slTenant n) k i r)

/-- Address of variable `v`'s working slot, and of pool instance `i`'s state record (R394). -/
def State.varAt (s : State) (p v : Nat) : Nat := s.base LGE_VAR_BASE_LO 21 + p * 0x20000 + 8 * v
def State.instAt (s : State) (i : Nat) : Nat := s.base LGE_INST_BASE_LO 20 + 16 * i

def State.varVal (s : State) (p v : Nat) : LgeVal := (s.ld (s.varAt p v) 4, s.ld (s.varAt p v + 4) 1)

/-- Write a variable's slot; the forced bit shows the forces in effect. -/
def State.setVar (p v : Nat) (x : LgeVal) (s : State) : State :=
  let f := match s.prog p with | some g => g.forces.any (fun e => e.1 == v) | none => false
  s.dmaWords (s.varAt p v) [x.1 % 2 ^ 32, x.2 % 2 ^ 8 + b2n f * 2 ^ 8]

/-! ### Images (R392, R393) -/

/-- A word of an image. -/
def State.imgWord (s : State) (a i : Nat) : Nat := s.ld (a + 4 * i) 4

/-- Read an image: its tables. -/
def State.readImage (s : State) (a : Nat) : LgeProg :=
  let ni := bits (s.imgWord a 2) 15 0
  let ni := if ni = 0 then 65536 else ni
  let nv := bits (s.imgWord a 4) 15 0
  let nIn := bits (s.imgWord a 5) 10 0
  let nOut := bits (s.imgWord a 5) 26 16
  let code := a + s.imgWord a 6
  let vt := a + s.imgWord a 7
  let im := a + s.imgWord a 8
  let om := a + s.imgWord a 9
  { insts := (List.range ni).map (fun k =>
      let w := fun (j : Nat) => s.ld (code + 16 * k + 4 * j) 4
      { ty := bits (w 0) 7 0, a := bits (w 1) 15 0, b := bits (w 1) 31 16, c := bits (w 2) 15 0, o1 := bits (w 2) 31 16
        o2 := bits (w 3) 15 0 })
    vars := (List.range nv).map (fun v =>
      let w := s.ld (vt + 8 * v + 4) 4
      { init := s.ld (vt + 8 * v) 4, ty := bits w 1 0, cls := bits w 3 2, ret := bitAt w 4, chg := bitAt w 5, map := bits w 31 16 })
    ins := (List.range nIn).map (fun i => s.ld (im + 8 * i) 4)
    outs := (List.range nOut).map (fun i => (s.ld (om + 16 * i) 4, s.ld (om + 16 * i + 4) 4))
    first := s.imgWord a 3 }

/-- Type of a variable of the image, none past its table. -/
def LgeProg.varTy (g : LgeProg) (v : Nat) : Option Nat := (g.vars[v]?).map (·.ty)

/-- An instance's operands are variables of types its block accepts. -/
def LgeProg.instOk (g : LgeProg) (i : LgeInst) : Bool :=
  let n := lgeInputs i.ty
  match g.varTy i.a, g.varTy i.o1 with
  | some ta, some t1 =>
    let tb := g.varTy i.b
    let tc := g.varTy i.c
    let t2 := g.varTy i.o2
    let two := decide (9 ≤ i.ty ∧ i.ty ≤ 13)
    (decide (n < 2) || tb.isSome) && (decide (n < 3) || tc.isSome) && (!two || i.o2 == 0xFFFF || t2.isSome)
      && lgeTypesOk i.ty ta (tb.getD 0) (tc.getD 0) t1 (if two then t2 else none)
  | _, _ => false

/-- No number appears twice. -/
def noTwice : List Nat → Bool
  | [] => true
  | x :: rest => !rest.contains x && noTwice rest

/-- The cause that refuses an image, 0 for none (R393). -/
def State.imageCause (s : State) (p a : Nat) : Nat :=
  let len := s.imgWord a 10
  let nv := bits (s.imgWord a 4) 15 0
  let nIn := bits (s.imgWord a 5) 10 0
  let nOut := bits (s.imgWord a 5) 26 16
  let ni := if bits (s.imgWord a 2) 15 0 = 0 then 65536 else bits (s.imgWord a 2) 15 0
  let first := s.imgWord a 3
  let fits := s.imgWord a 6 + 16 * ni ≤ len ∧ s.imgWord a 7 + 8 * nv ≤ len ∧ s.imgWord a 8 + 8 * nIn ≤ len ∧ s.imgWord a 9 + 16 * nOut ≤ len
  let cfg := s.rd (LGE_PG_CFG p)
  let owner := bits cfg 15 8
  let others := (List.range 16).filter (fun j => j != p && (s.prog j).isSome)
  if s.imgWord a 0 ≠ 0x4C474350 ∨ bits (s.imgWord a 1) 15 0 ≠ 1 ∨ len < 0x40 ∨ crc32 (s.rdBytes (a + 0x40) (len - 0x40)) ≠ s.imgWord a 11 then 1
  else if nv = 0 ∨ 16384 < nv ∨ 1024 < nIn ∨ 1024 < nOut ∨ 65536 < first + ni then 2
  else if ¬fits then 1
  else if others.any (fun j => match s.prog j with
      | some g => decide (first < g.first + g.insts.length ∧ g.first < first + ni)
      | none => false) then 3
  else
    let g := s.readImage a
    let maps := fun (cls : Nat) => (g.vars.filter (fun v => v.cls == cls)).map (·.map)
    if !g.insts.all g.instOk then 4
    else if bitAt cfg 31 = false ∨ s.slTenant owner ≠ bits cfg 3 0
        ∨ others.any (fun j => s.fld (LGE_PG_CFG j) 3 0 == bits cfg 3 0) then 5
    else if !(g.ins.all (fun w => if bitAt w 23 then s.maySlice owner 13 (bits w 22 0) .rd else s.maySlice owner 4 (bits w 22 0) .rd)
        && g.outs.all (fun e => s.maySlice owner 4 (bits e.1 22 0) .wr)) then 6
    else if !((maps 2).all (fun m => decide (m < nIn)) && (maps 3).all (fun m => decide (m < nOut)) && noTwice (maps 2) && noTwice (maps 3)) then 7
    else 0

/-! ### Writing outputs (R396, R400) -/

/-- The point type of a variable's type (R241). -/
def pointTypeOf (ty : Nat) : Nat := match ty with | 0 => 1 | 1 => 3 | _ => 6

/-- A port write of an output for the owner slice; false when its grant check fails (R407). -/
def State.outWrite (p pt ty : Nat) (x : LgeVal) (sec ns : Nat) (s : State) : State × Bool :=
  if s.maySlice (s.pgOwner p) 4 pt .wr then
    (s.enginePoint pt x.1 x.2 (pointTypeOf ty) (s.pgOwner p) sec (ns % 2 ^ 30) (s.rd (LGE_PG_SCANS p) + 1), true)
  else (s, false)

/-- Write the safe values of a program's outputs; those set to hold are left out unless `all`. -/
def State.safeOutputs (p : Nat) (all : Bool) (s : State) : State :=
  match s.prog p with
  | none => s
  | some g =>
    s.each (g.vars.filter (fun v => v.cls == 3)) (fun v s =>
      let e := g.outs.getD v.map (0, 0)
      if bitAt e.1 23 && !all then s
      else (s.outWrite p (bits e.1 22 0) v.ty (if v.ty = 0 then e.2 % 2 else e.2, 67) s.time.sec s.time.ns).1)

/-- STOP by `stop_act`. -/
def State.pgStop (p : Nat) (s : State) : State := (s.safeOutputs p false).setPg p 1

def State.pgHold (p : Nat) (s : State) : State := (s.modProg p (fun g => { g with holdAt := s.clk })).setPg p 3

/-- A scan whose time is over ends: duration, counts, and the stop or hold waiting for it (R396, R400). -/
def State.settle (p : Nat) (s : State) : State :=
  match s.prog p with
  | none => s
  | some g =>
    if s.scanning p = false ∨ g.ovr ∨ s.clk < g.endAt then s else
    let ns := 8 * (g.endAt - g.begun)
    let s := (s.setBit (LGE_PG_STAT p) 4 false).setReg (LGE_PG_SCAN_LAST p) (min ns (2 ^ 32 - 1))
    let s := s.setReg (LGE_PG_SCAN_MAX p) (max (s.rd (LGE_PG_SCAN_MAX p)) (min ns (2 ^ 32 - 1)))
    let s := ((s.inc (LGE_PG_SCANS p)).inc LGE_SCANS).modProg p (fun g => { g with after := 0, afterBy := [] })
    if s.pgState p ≠ 2 then s else if g.after = 1 then s.pgStop p else if g.after = 2 then s.pgHold p else s

/-! ### On-line changes and forces (R402, R404) -/

/-- Apply a batch: values only. -/
def State.applyBatch (p : Nat) (l : List (Nat × Nat)) (s : State) : State :=
  let ty := fun (v : Nat) => match s.prog p with | some g => (g.varTy v).getD 1 | none => 1
  let s := s.each l (fun e s => s.dmaWords (s.varAt p e.1) [if ty e.1 = 0 then e.2 % 2 else e.2])
  (s.evt (LGE_PG_EVT p) 6).inc (LGE_PG_OLC p)

/-- Enabled force entries: variable and value. -/
def State.forceEntries (s : State) (p : Nat) : List (Nat × Nat) :=
  ((List.range 64).filter (fun f => s.bit (LGE_FRC_VAR p f) 31)).map (fun f =>
    (s.fld (LGE_FRC_VAR p f) 13 0, s.rd (LGE_FRC_VAL p f)))

/-- At a scan boundary the enabled entries take effect and the others stop. -/
def State.applyForces (p : Nat) (s : State) : State :=
  match s.prog p with
  | none => s
  | some g =>
    let new := s.forceEntries p
    let s := s.modProg p (fun g => { g with forces := new })
    s.each ((g.forces ++ new).map (·.1)) (fun v s => s.setVar p v (s.varVal p v))

/-! ### The scan (R396) -/

/-- Restart of variables and instance states (R401). -/
def State.pgRestart (p : Nat) (warm : Bool) (s : State) : State :=
  match s.prog p with
  | none => s
  | some g =>
    let s := s.each (g.vars.zipIdx) (fun e s =>
      if warm && (e.1.ret || e.1.cls == 1) then s else s.setVar p e.2 (if e.1.ty = 0 then e.1.init % 2 else e.1.init, 0))
    let s := s.each (g.insts.zipIdx) (fun e s =>
      let ret := (g.vars[e.1.o1]?).any (·.ret)
      if warm && ret then s else s.dmaWords (s.instAt (g.first + e.2)) [0, 0, b2n ret * 16, 0])
    (s.modProg p (fun g => { g with restart := 0, ran := true, written := [], lastUs := none })).setBit (LGE_PG_STAT p) 15 warm

/-- The value a point gives a variable of type `ty` (R396). -/
def State.lgePoint (s : State) (w ty : Nat) : LgeVal :=
  let pt := bits w 22 0
  let q := bits (s.pointWord pt 2) 7 0
  let t := s.pointType pt
  match ty with
  | 0 => if [1, 2, 8].contains t then (b2n (bitAt (s.pointVal pt) (bits w 29 24)), q) else (0, 1)
  | 1 => if t = 3 then (s.pointWord pt 0, q) else (0, 1)
  | _ => if t = 6 then (s.pointWord pt 0, q) else (0, 1)

/-- The value a subscription's member gives (R248, R396). -/
def State.lgeMember (s : State) (w ty : Nat) : LgeVal :=
  let n := bits w 22 0
  let m := bits w 29 24
  let root := s.base PTS_SUB_BASE_LO 22
  let mark := s.ld (root + 0x200000 + 16 * n) 4
  let a := root + n * 0x800 + mark % 2 * 0x400
  let fl := s.ld (a + 0x1C) 4
  let e := a + 0x40 + 16 * m
  let tag := s.ld (e + 8) 1
  let fit := match ty with
    | 0 => [0x83, 0x84].contains tag
    | 1 => [0x85, 0x86].contains tag
    | _ => tag == 0x87
  if mark = 0 ∨ 1024 ≤ n ∨ bits fl 15 8 ≤ m ∨ fit = false then (0, 1)
  else
    let q := (if bitAt fl 0 then 1 else 0) + 4 * b2n (bitAt fl 1)
    (if ty = 0 then s.ld e 4 % 2 else s.ld e 4, q)

/-- Copy the inputs (R396, R404, R405); `bad`: input map entries whose transfer failed its CRC. -/
def State.lgeInputsIn (p : Nat) (g : LgeProg) (bad : List Nat) (s : State) : State :=
  let s := s.each (g.vars.zipIdx.filter (fun e => e.1.cls == 2)) (fun e s =>
    let w := g.ins.getD e.1.map 0
    let x := if bitAt w 23 then s.lgeMember w e.1.ty else s.lgePoint w e.1.ty
    let x := if bad.contains e.1.map then (x.1, atLeast 1 x.2) else x
    match (s.prog p).bind (fun g => g.forces.find? (fun f => f.1 == e.2)) with
    | some f => s.setVar p e.2 (if e.1.ty = 0 then f.2 % 2 else f.2, 64)
    | none => s.setVar p e.2 x)
  if bad.isEmpty then s
  else (((s.incBy LGE_CRC_ERR bad.length).evt LGE_CHK_STAT 0).evt (LGE_PG_EVT p) 9).blockFault 16 4 p

/-- An instance's state record (R394). -/
def State.instState (s : State) (i : Nat) : LgeState :=
  let a := s.instAt i
  let f := s.ld (a + 8) 4
  { el := s.ld a 4 + s.ld (a + 12) 4 * 2 ^ 32, cv := signed 32 (s.ld (a + 4) 4), q := bitAt f 0, prev := bitAt f 1
    prv2 := bitAt f 2, mem := bitAt f 3 }

def State.putInst (i : Nat) (ret : Bool) (x : LgeState) (s : State) : State :=
  s.dmaWords (s.instAt i) [x.el % 2 ^ 32, unsigned 32 x.cv,
    b2n x.q + 2 * b2n x.prev + 4 * b2n x.prv2 + 8 * b2n x.mem + 16 * b2n ret, x.el / 2 ^ 32]

/-- Execute one instance. `restart`: 1 cold, 2 warm, at the first scan after a restart: edge memories that are not
retained take the input. -/
def State.runInst (p : Nat) (g : LgeProg) (delta restart : Nat) (e : LgeInst × Nat) (s : State) : State :=
  let i := e.1
  let a := s.varVal p i.a
  let b := s.varVal p i.b
  let c := s.varVal p i.c
  let ret := (g.vars[i.o1]?).any (·.ret)
  let st := s.instState (g.first + e.2)
  let st := if restart = 1 ∨ (restart = 2 ∧ ret = false) then { st with prev := a.on } else st
  let float := g.varTy i.a == some 2
  let r := lgeEval i.ty float a b c delta st
  let s := s.putInst (g.first + e.2) ret r.st
  let s := s.setVar p i.o1 r.o1
  let s := if 9 ≤ i.ty ∧ i.ty ≤ 13 ∧ i.o2 ≠ 0xFFFF then s.setVar p i.o2 r.o2 else s
  s.when r.arith (State.evt (LGE_PG_EVT p) 11)

/-- Write the outputs that changed; a failed grant check stops the program (R396, R407). -/
def State.lgeOutputs (p : Nat) (g : LgeProg) (sec ns : Nat) (s : State) : State :=
  s.each (g.vars.zipIdx.filter (fun e => e.1.cls == 3)) (fun e s =>
    let x := s.varVal p e.2
    let x := match (s.prog p).bind (fun g => g.forces.find? (fun f => f.1 == e.2)) with
      | some f => (if e.1.ty = 0 then f.2 % 2 else f.2, 64)
      | none => x
    if s.pgState p ≠ 2 ∨ (match s.prog p with | some g => g.written.at' e.2 | none => none) = some x then s
    else
      let (s, ok) := s.outWrite p (bits (g.outs.getD e.1.map (0, 0)).1 22 0) e.1.ty x sec ns
      if ok then s.modProg p (fun g => { g with written := g.written.put e.2 (some x) })
      else (s.evt (LGE_PG_EVT p) 12).setPg p 1)

/-- The overrun limit of a program in ns (R399). -/
def State.ovrLimit (s : State) (p : Nat) : Nat :=
  s.rd (TIME_TRIG_PERIOD p) * min (max (s.fld (LGE_PG_OVR p) 8 0) 110) 300 / 100

/-- A scan from its boundary to the instances (R396): Δ of R398, restart, batch, forces, inputs, the first `n` instances. -/
def State.scanBody (p n : Nat) (bad : List Nat) (s : State) : State :=
  match s.prog p with
  | none => s
  | some g0 =>
    let us := s.mono / 125
    let s := if g0.restart = 0 then s else s.pgRestart p (g0.restart == 2)
    let delta := match (s.prog p).bind (·.lastUs) with
      | some t => us - t
      | none => s.rd (TIME_TRIG_PERIOD p) / 1000
    let s := match g0.batch with | some l => s.applyBatch p l | none => s
    let s := (s.modProg p (fun g => { g with batch := none, batchBy := [], lastUs := some us })).applyForces p
    let s := s.lgeInputsIn p g0 bad
    s.each (g0.insts.zipIdx.take n) (State.runInst p g0 delta g0.restart)

/-- SCAN (R396–R399): a trigger start of program `p`. `dur` is the time in ns from the trigger to the scan's end; past the
overrun limit only the first `upto` instances have run by then. -/
def State.scan (p dur upto : Nat) (bad : List Nat) (s : State) : State :=
  let s := s.settle p
  if s.power.cx = false ∨ s.power.mem = false ∨ s.bit LGE_CTL 0 = false ∨ s.bit (TIME_TRIG_STAT p) 0 = false ∨ s.pgState p ≠ 2 then s
  else if s.scanning p then (s.inc (LGE_PG_SKIP p)).evt (LGE_PG_EVT p) 5
  else
    let long := decide (s.ovrLimit p < dur)
    match s.prog p with
    | none => s
    | some g =>
      let s := s.scanBody p (if long then upto else g.insts.length) bad
      let at_ := (s.trig.at' p).last
      let s := if long then s else s.lgeOutputs p g (at_ / 10 ^ 9) (at_ % 10 ^ 9)
      (s.setBit (LGE_PG_STAT p) 4 true).modProg p (fun g => { g with begun := s.clk, endAt := s.clk + (dur + 7) / 8, ovr := long })

def execScan (p : Fin 16) (dur upto : Nat) (bad : List (Fin 1024)) (s : State) : Host.Outcome State Fault Refusal :=
  .next (s.scan p.val dur upto (bad.map (·.val)))

/-- SCAN_OVERRUN (R399). -/
def State.scanOverrun (p : Nat) (s : State) : State :=
  match s.prog p with
  | none => s
  | some g =>
    if s.scanning p && g.ovr && decide (g.begun + s.ovrLimit p / 8 ≤ s.clk) && s.pgState p == 2 then
      let s := (s.setBit (LGE_PG_STAT p) 4 false).modProg p (fun g => { g with ovr := false, after := 0, afterBy := [] })
      let s := (s.safeOutputs p true).setPg p 1
      ((s.evt (LGE_PG_EVT p) 3).inc (LGE_PG_OVRUN p)).ledger 3 16 p (LGE_PG_EVT p) 3 []
    else s

def execScanOverrun (p : Fin 16) (s : State) : Host.Outcome State Fault Refusal := .next (s.scanOverrun p.val)

/-! ### Commands (R393, R400–R402, R404) -/

/-- A command of `LGE_PG_CMD`: kind 11 use. -/
def State.pgCmd (w : Who) (p : Nat) (f : State → State) (s : State) : State :=
  s.gateGrant w (LGE_PG_CMD p) 11 p .use (fun s => f (s.settle p))

/-- PROGRAM_LOAD (R393). -/
def State.pgLoad (p : Nat) (s : State) : State :=
  if s.pgState p ≠ 0 then s.pgRej p else
  let a := s.base (LGE_PG_IMG_LO p) 16
  let c := s.imageCause p a
  if c ≠ 0 then (s.setFld (LGE_PG_STAT p) 19 16 c).evt (LGE_PG_EVT p) 1
  else
    let s := { s with lge := s.lge.put p (some (s.readImage a)) }
    let s := ((s.setFld (LGE_PG_STAT p) 19 16 0).setBit (LGE_PG_STAT p) 3 (s.bit (LGE_PG_CFG p) 4)).setReg (LGE_PG_SCAN_MAX p) 0
    s.setPg p 1

def execProgramLoad (w : Who) (p : Fin 16) (s : State) : Host.Outcome State Fault Refusal := .next (s.pgCmd w p.val (State.pgLoad p.val))

/-- START_COLD and START_WARM (R400, R401). -/
def State.pgStart (p : Nat) (warm : Bool) (s : State) : State :=
  if s.pgState p ≠ 1 then s.pgRej p else
  let ran := match s.prog p with | some g => g.ran | none => false
  let s := s.when (warm && !ran) (State.evt (LGE_PG_EVT p) 10)
  (s.modProg p (fun g => { g with restart := if warm && ran then 2 else 1, after := 0, afterBy := [], ovr := false })).setPg p 2

def execStartCold (w : Who) (p : Fin 16) (s : State) : Host.Outcome State Fault Refusal :=
  .next (s.pgCmd w p.val (State.pgStart p.val false))
def execStartWarm (w : Who) (p : Fin 16) (s : State) : Host.Outcome State Fault Refusal :=
  .next (s.pgCmd w p.val (State.pgStart p.val true))

/-- PROGRAM_STOP (R400). -/
def State.pgStopCmd (p by_ : Nat) (s : State) : State :=
  if s.pgState p = 2 then
    if s.scanning p then s.modProg p (fun g => { g with after := 1, afterBy := by_ :: g.afterBy }) else s.pgStop p
  else if s.pgState p = 3 then s.pgStop p
  else s.pgRej p

def execProgramStop (w : Who) (p : Fin 16) (s : State) : Host.Outcome State Fault Refusal :=
  .next (s.pgCmd w p.val (State.pgStopCmd p.val w.slice.val))

/-- PROGRAM_HOLD (R400). -/
def State.pgHoldCmd (p by_ : Nat) (s : State) : State :=
  if s.pgState p ≠ 2 ∨ s.bit (LGE_PG_CFG p) 4 then s.pgRej p
  else if s.scanning p then s.modProg p (fun g => { g with after := if g.after = 1 then 1 else 2, afterBy := by_ :: g.afterBy })
  else s.pgHold p

def execProgramHold (w : Who) (p : Fin 16) (s : State) : Host.Outcome State Fault Refusal :=
  .next (s.pgCmd w p.val (State.pgHoldCmd p.val w.slice.val))

/-- PROGRAM_RESUME (R398, R400). -/
def State.pgResume (p : Nat) (s : State) : State :=
  if s.pgState p ≠ 3 then s.pgRej p else (s.modProg p (fun g => { g with lastUs := none })).setPg p 2

def execProgramResume (w : Who) (p : Fin 16) (s : State) : Host.Outcome State Fault Refusal :=
  .next (s.pgCmd w p.val (State.pgResume p.val))

/-- The staged batch of `n` changes. -/
def State.batchOf (s : State) (p n : Nat) : List (Nat × Nat) :=
  (List.range n).map (fun k => (s.fld (LGE_PG_OLC_TGT p k) 13 0, s.rd (LGE_PG_OLC_VAL p k)))

/-- APPLY (R402). -/
def State.pgApply (p n by_ : Nat) (s : State) : State :=
  match s.prog p with
  | none => s.pgRej p
  | some g =>
    if s.pgState p = 4 then s.pgRej p else
    let l := s.batchOf p n
    let ok := decide (1 ≤ n ∧ n ≤ 16) && noTwice (l.map (·.1)) && l.all (fun e => match g.vars[e.1]? with
      | some v => decide (v.cls ≤ 1) && v.chg
      | none => false)
    if ok = false then s.evt (LGE_PG_EVT p) 7
    else if s.pgState p = 2 then s.modProg p (fun g => { g with batch := some (g.batch.getD [] ++ l), batchBy := by_ :: g.batchBy })
    else s.applyBatch p l

def execApply (w : Who) (p : Fin 16) (n : BitVec 5) (s : State) : Host.Outcome State Fault Refusal :=
  .next (s.pgCmd w p.val (State.pgApply p.val n.toNat w.slice.val))

/-- PROGRAM_UNLOAD (R400). -/
def State.pgUnload (p : Nat) (s : State) : State :=
  if s.pgState p = 1 ∨ s.pgState p = 4 then
    { s with lge := s.lge.put p none }.setBit (LGE_PG_STAT p) 4 false |>.setPg p 0
  else s.pgRej p

def execProgramUnload (w : Who) (p : Fin 16) (s : State) : Host.Outcome State Fault Refusal :=
  .next (s.pgCmd w p.val (State.pgUnload p.val))

/-- HOLD_TIMEOUT (R400). -/
def State.holdTimeout (p : Nat) (s : State) : State :=
  match s.prog p with
  | some g =>
    if s.pgState p = 3 ∧ g.holdAt + 60 * tSec ≤ s.clk then ((s.safeOutputs p true).setPg p 1).evt (LGE_PG_EVT p) 4 else s
  | none => s

def execHoldTimeout (p : Fin 16) (s : State) : Host.Outcome State Fault Refusal := .next (s.holdTimeout p.val)

/-- Show the enabled force entries. -/
def State.showForced (p : Nat) (s : State) : State := s.setFld (LGE_PG_STAT p) 14 8 (s.forceEntries p).length

/-- A write of a force entry's variable (R404). -/
def State.forceVar (p f v : Nat) (s : State) : State :=
  let var := bits v 13 0
  let was := s.bit (LGE_FRC_VAR p f) 31
  if bitAt v 31 then
    let ok := match s.prog p with
      | some g => match g.vars[var]? with | some x => x.cls == 2 || x.cls == 3 | none => false
      | none => false
    let twice := (List.range 64).any (fun j => j != f && s.bit (LGE_FRC_VAR p j) 31 && s.fld (LGE_FRC_VAR p j) 13 0 == var)
    if ok = false ∨ twice then s.evt (LGE_PG_EVT p) 8
    else ((s.setReg (LGE_FRC_VAR p f) (var + 2 ^ 31)).showForced p).ledger 3 16 p (LGE_FRC_VAR p f) 31 []
  else
    let s := (s.setReg (LGE_FRC_VAR p f) var).showForced p
    if was then s.ledger 3 16 p (LGE_FRC_VAR p f) 31 [] else s

/-- FORCE_WRITE (R404): of the value register, or of the variable register. -/
def execForceWrite (w : Who) (p : Fin 16) (f : Fin 64) (isVal : Bool) (value : Word) (s : State) : Host.Outcome State Fault Refusal :=
  .next (if isVal then s.gateGrant w (LGE_FRC_VAL p.val f.val) 11 p.val .use (State.setReg (LGE_FRC_VAL p.val f.val) value.toNat)
    else s.gateGrant w (LGE_FRC_VAR p.val f.val) 11 p.val .use (State.forceVar p.val f.val value.toNat))

/-- The program's safe-value list is with PTS: it has entered RUN since its load (R406). -/
def State.deposited (s : State) (p : Nat) : Bool := (s.prog p).any (fun g => g.ran || g.restart != 0)

/-- LGE_WATCHDOG (R400, R406): programs in RUN, HOLD and STOP enter FAULT (DEDUCED: R400's table lists STOP, which R406's
sentence leaves out), and the safe values deposited are written. -/
def State.lgeWatchdog (s : State) : State :=
  if s.power.cx = false then s else
  let s := s.each ((List.range 16).filter (fun p => [1, 2, 3].contains (s.pgState p))) (fun p s =>
    (((s.when (s.deposited p) (State.safeOutputs p true)).setBit (LGE_PG_STAT p) 4 false).setPg p 4))
  ((s.evt LGE_CHK_STAT 1).ledger 3 16 0 LGE_CHK_STAT 1 []).blockFault 16 5 0

def execLgeWatchdog (s : State) : Host.Outcome State Fault Refusal := .next s.lgeWatchdog

/-- Milliseconds of HOLD left, as read. -/
def State.holdLeft (s : State) (p : Nat) : Nat :=
  match s.prog p with
  | some g => if s.pgState p = 3 then 60000 - (s.clk - g.holdAt) / tMs else 0
  | none => 0

/-- A write of an image address (R408). -/
def State.imgWrite (p a v : Nat) (s : State) : State := if s.pgState p = 0 then s.setReg a v else s.pgRej p

end Sys2Proof.Machine
end

