-- ==== Sys2Proof/Machine/Dze.lean ====
section
/-!
DEFINITION. Differential zones (R162–R171, R530). Currents are integers in 2^-8 dataset units.
-/

namespace Sys2Proof.Machine

def State.dzeOf (s : State) (z : Nat) : Dze := s.dze.at' z
def State.modDze (z : Nat) (f : Dze → Dze) (s : State) : State := { s with dze := s.dze.mod z f }
def State.zRef (s : State) (z : Nat) : Nat := s.fld (DZE_Z_CFG z) 30 27
def State.zSpan (s : State) (z : Nat) : Bool := s.bit (DZE_Z_CFG z) 23
def State.zHome (s : State) (z : Nat) : Bool := s.fld (DZE_Z_CFG z) 22 20 == s.position
/-- LOCAL mode (R170). -/
def State.zLocal (s : State) (z : Nat) : Bool := s.bit (DZE_Z_STAT z) 2

/-- Enabled inputs of a zone. -/
def State.zInputs (s : State) (z : Nat) : List Nat := (List.range 96).filter (fun m => s.bit (DZE_IN_SRC z m) 31)

/-- Positions other than this one that contribute (R169). -/
def State.zPeers (s : State) (z : Nat) : List Nat :=
  (List.range 8).filter (fun p => s.bit (DZE_Z_SPAN z) p && p != s.position)

/-- The configuration of a zone is refused (R141, R162, R170, R174). -/
def State.zBad (s : State) (z : Nat) : Bool :=
  (s.zInputs z).any (fun m =>
    let w := s.rd (DZE_IN_SRC z m)
    !s.inputOk (bits w 30 24) (bits w 23 19) 3 (s.zRef z) || decide (11 < bits w 18 15) || s.rd (DZE_IN_RATIO z m) == 0)
  || (s.zSpan z && !s.bit (DZE_Z_SPAN z) s.position)

/-- Windows and detectors restart as at enable (R530). -/
def State.zRestart (z : Nat) (s : State) : State := s.modDze z (fun d => { d with win := [], ins := [] })

/-- The detectors alone restart (R530). -/
def State.zRestartDet (z : Nat) (s : State) : State := s.modDze z (fun d => { d with ins := [] })

/-- A commit changed what restarts a zone's windows and detectors (R530). -/
def zFull (old s : State) (z : Nat) : Bool :=
  let d := fun (hi lo : Nat) => old.fld (DZE_Z_CFG z) hi lo != s.fld (DZE_Z_CFG z) hi lo
  d 31 27 || d 23 20 || old.rd (DZE_Z_SCALE z) != s.rd (DZE_Z_SCALE z)
    || old.fld (DZE_Z_SPAN z) 7 0 != s.fld (DZE_Z_SPAN z) 7 0
    || (List.range 96).any (fun m => old.rd (DZE_IN_SRC z m) != s.rd (DZE_IN_SRC z m)
        || old.rd (DZE_IN_RATIO z m) != s.rd (DZE_IN_RATIO z m))

/-- A commit changed what restarts a zone's detectors (R530). -/
def zDet (old s : State) (z : Nat) : Bool :=
  old.rd (DZE_Z_SAT z) != s.rd (DZE_Z_SAT z) || old.rd (DZE_Z_SATMIN z) != s.rd (DZE_Z_SATMIN z)

/-- What an activation does to the zone's detectors (R530); `old` holds the values before it. -/
def State.zTurnDet (z : Nat) (old s : State) : State := if zFull old s z || zDet old s z then s.zRestartDet z else s

/-- What an activation does to the zone's windows and contributions (R530); `old` holds the values before it. -/
def State.zTurnWin (z : Nat) (old s : State) : State :=
  let s := if zFull old s z then
      s.modDze z (fun d => { d with win := [], last := [], miss := [], clean := 0, done := none })
    else s
  if !s.bit (DZE_Z_CFG z) 31 || !s.zSpan z then (s.modDze z (fun d => { d with got := [] })).setBit (DZE_Z_STAT z) 2 false
  else s

/-- A zone's records change to new values apart from its sums: at a home they wait for contributions. The key under which
the values before an activation stand for the records. -/
abbrev zRecKey : Nat := 30

/-! ### Correction to the zone base (R162) -/

/-- ⌊2^96 / √3⌋. -/
abbrev invRoot3 : Int := 45742400955009932534161870629

/-- Entry M_k[p][j] times 3 for even `k`, times √3 for odd `k` (R162): `a` is k + 4 (p − j) in steps of 30°. -/
def mEntry (a : Nat) : Int :=
  match a % 12 with
  | 0 => 2 | 1 => 1 | 2 => 1 | 3 => 0 | 4 => -1 | 5 => -1 | 6 => -2 | 7 => -1 | 8 => -1 | 9 => 0 | 10 => 1 | _ => 1

/-- The corrected value of phase `p` in 2^-8 dataset units, to nearest: `x` are the three values in 2^-16 dataset units,
`ratio` in Q8.24. -/
def corrected (clock : Nat) (zsr invert : Bool) (ratio p : Nat) (x : List Int) : Int :=
  let g : Int := if invert then -(ratio : Int) else ratio
  if clock = 0 ∧ zsr = false then divRne (g * x.getD p 0) (2 ^ 32)
  else
    let n := (List.range 3).foldl (fun t j => t + mEntry (clock + 12 + 4 * p - 4 * j) * x.getD j 0) 0
    if clock % 2 = 0 then divRne (g * n) (3 * 2 ^ 32) else divRne (g * n * invRoot3) (2 ^ 128)

/-- The three corrected values of input `m` and its combined quality at a grid point. -/
def State.zValue (s : State) (z m seq : Nat) : List Int × Nat :=
  let w := s.rd (DZE_IN_SRC z m)
  let n := bits w 30 24
  let qs := (List.range 3).map (bits w 23 19 + ·)
  let v := qs.map (fun q => s.engineIn n q seq)
  let x := (qs.zip v).map (fun e => e.2.1 * 2 ^ (16 - signed 5 (s.fld (SIE_QTY_CFG n e.1) 4 0)).toNat)
  ((List.range 3).map (fun p => corrected (bits w 18 15) (bitAt w 13) (bitAt w 14) (s.rd (DZE_IN_RATIO z m)) p x),
   combineQ (v.map (·.2)))

/-! ### Saturation detectors (R166) -/

/-- π² × 10^24, for the threshold (2π / 128)² = π² / 4096. -/
abbrev piSq24 : Int := 9869604401089358618834491

/-- Greatest magnitude of phase `p` in a detector's window. -/
def peakOf (p : Nat) (win : List (List Int)) : Nat := win.foldl (fun t v => max t (v.getD p 0).natAbs) 0

/-- One grid point of a detector: `k` is k_sat, `sc` the zone's scale, `smin` sat_min. Answers the detector, the flag, and
whether an armed exceedance occurred. -/
def detStep (k armN holdN : Nat) (sc smin : F32) (v : List Int) (d : DzeIn) : DzeIn × Bool × Bool :=
  let win := (v :: d.win).take 128
  let per := (List.range 3).map (fun p =>
    let a := peakOf p win
    let dd : Int := match win with
      | x :: y :: w :: _ => x.getD p 0 - 2 * y.getD p 0 + w.getD p 0
      | _ => 0
    let exceed := decide (3 ≤ win.length) && fFinite sc
      && decide ((k * a : Nat) * piSq24 * fInt sc < (dd.natAbs : Int) * 4096 * 10 ^ 24 * fInt sc)
    let run := d.arm.getD p 0
    let above := fLe smin (fMul (fOfScaled a (-8)) sc)
    (exceed && decide (armN ≤ run), if above then run + 1 else 0))
  let armed := per.any (·.1)
  ({ win := win, arm := per.map (·.2), hold := if armed then holdN else d.hold - 1 },
   armed || decide (0 < d.hold), armed)

/-! ### Records (R163–R168) -/

/-- π / (2√2) as a binary32 word. -/
abbrev fRest : F32 := 0x3F8E2C19

/-- Add lists of three. -/
def add3 (a b : List Int) : List Int := (List.range 3).map (fun p => a.getD p 0 + b.getD p 0)

/-- Bits of three phases, A lowest. -/
def bits3 (f : Nat → Bool) : Nat := maskOf ((List.range 3).map f)

/-- Contributions that arrived for a grid point. -/
def State.zGot (s : State) (z gp : Nat) : List Contrib := (s.dzeOf z).got.filter (fun c => c.gp == gp % 2 ^ 32)

/-- Every peer's contribution for the grid point is in. -/
def State.zComplete (s : State) (z gp : Nat) : Bool :=
  (s.zPeers z).all (fun p => (s.zGot z gp).any (fun c => c.pos == p))

/-- Write the record of a zone (R163–R168, R170) on the values in force: `parts` are the contributions added, `held` says
that one of them is held. -/
def State.zWrite (z : Nat) (l : DzeLocal) (parts : List Contrib) (held : Bool) (s : State) : State :=
  let s := if l.realign then s.modDze z (fun d => { d with win := [] }) else s
  let d := parts.foldl (fun t c => add3 t c.d) l.d
  let r := parts.foldl (fun t c => add3 t c.r) l.r
  let q0 := combineQ (l.q :: parts.map (·.q))
  let win := ({ d := d, r := r, q := q0, held := held : DzePt } :: (s.dzeOf z).win).take 128
  let s := s.modDze z (fun e => { e with win := win })
  let cfg := s.rd (DZE_Z_CFG z)
  let lcl := s.zLocal z
  let contrib := s.zSpan z && !s.zHome z && !lcl
  let sc := s.rd (DZE_Z_SCALE z)
  let out := fun (v : Int) (k : Int) => fMul (fOfScaled v k) sc
  let sq := fun (p : Nat) => (win.map (fun w => w.d.getD p 0 * w.d.getD p 0)).foldl (· + ·) 0
  let rs := fun (p : Nat) => (win.map (fun w => w.r.getD p 0)).foldl (· + ·) 0
  let dI := (List.range 3).map (fun p => out (d.getD p 0) (-8))
  let rI := (List.range 3).map (fun p => out (r.getD p 0) (-8))
  let dR := (List.range 3).map (fun p => fMul (fSqrt (fOfScaled (sq p) (-23))) sc)
  let rR := (List.range 3).map (fun p => fMul (fMul (fOfScaled (rs p) (-15)) fRest) sc)
  let ws := dI ++ rI ++ dR ++ rR
  let ovf := ws.any fIsInf
  let q := closeQ (combineQ (win.map (·.q)))
  let q := if win.length < 128 then atLeast 1 q else q
  let q := if validity q0 = 1 ∨ validity q0 = 2 then atLeast 1 q else q
  let q := if bitAt cfg 26 && bitAt q0 3 then atLeast 1 q else q
  let q := if held then atLeast 1 q else if win.any (·.held) then atLeast 3 q else q
  let q := if lcl then atLeast (if bitAt cfg 24 then 3 else 1) q else q
  let q := if ovf then withFlag 5 q else q
  let imin := s.rd (if lcl then DZE_Z_IMIN_LOC z else DZE_Z_IMIN z)
  let slope := s.rd (if lcl then DZE_Z_SLOPE_LOC z else DZE_Z_SLOPE z)
  let may := decide (validity q ≠ 1) && !contrib
  let pick := bits3 (fun p => may && fLt imin (dR.getD p 0) && fLt (fMul slope (rR.getD p 0)) (dR.getD p 0))
  let anySat := decide (l.sat ≠ 0)
  let blk := if bitAt cfg 25 && anySat then pick else 0
  let a := s.area DZE_OUT_BASE 12 + z * 0x100 + l.seq % 2 * 0x80
  let mask := fun (v : Nat) => [v % 2 ^ 32, v / 2 ^ 32 % 2 ^ 32, v / 2 ^ 64 % 2 ^ 32]
  let s := s.stWords a ([l.seq % 2 ^ 32, q + pick * 2 ^ 8 + blk * 2 ^ 11 + b2n anySat * 2 ^ 14 + b2n lcl * 2 ^ 15
    + b2n contrib * 2 ^ 16 + b2n held * 2 ^ 17] ++ ws ++ mask l.sat ++ mask l.bad ++ List.replicate 12 0)
  let s := (((s.setFld (DZE_Z_STAT z) 6 4 pick).setFld (DZE_Z_STAT z) 9 7 blk).setBit (DZE_Z_STAT z) 10 anySat).setBit
    (DZE_Z_STAT z) 3 contrib
  let s := (s.when (decide (pick ≠ 0)) (State.evt (DZE_Z_EVT z) 1)).when ovf (State.evt (DZE_Z_EVT z) 6)
  s.engineMark (s.area DZE_MARK_BASE 10 + z * 64) DZE_LATE l.ref l.seq l.nbad l.fault

/-- Write the record of a zone for a grid point, on the values that govern the point. -/
def State.zRecord (z : Nat) (l : DzeLocal) (parts : List Contrib) (held : Bool) (s : State) : State :=
  (s.onPoint zRecKey z l.ref l.seq (State.zTurnWin z) (fun _ => true) (fun _ => false)
    (fun s => (s.zWrite z l parts held, ()))).1

/-- The contribution of a peer for a grid point: the one received, else the one used last (R169). -/
def State.zPart (s : State) (z gp p : Nat) : Contrib :=
  match (s.zGot z gp).find? (fun c => c.pos == p) with
  | some c => c
  | none => (s.dzeOf z).last.at' p

/-- The oldest waiting grid point of a home is over, complete or missing a contribution (R169, R170). -/
def State.zSettle (z : Nat) (s : State) : State :=
  match (s.dzeOf z).waits with
  | [] => s
  | l :: rest =>
    let view := (s.viewAt zRecKey z l.ref l.seq).getD s
    let peers := view.zPeers z
    let parts := peers.map (s.zPart z l.gp)
    let arrived := fun (p : Nat) => (s.zGot z l.gp).any (fun c => c.pos == p)
    let missing := !peers.all arrived
    let s := s.when missing (State.inc (DZE_Z_XMISS z))
    let s := if l.open_ then s.zRecord z l parts missing else s
    let ok := !missing && s.spanOk l.ref
    s.modDze z (fun d => { d with
      waits := rest
      got := d.got.filter (fun c => c.gp != l.gp % 2 ^ 32)
      last := (peers.zip parts).foldl (fun m e => m.put e.1 e.2) d.last
      miss := peers.foldl (fun m p => m.put p (if arrived p then 0 else d.miss.at' p + 1)) d.miss
      clean := if ok then d.clean + 1 else 0
      done := some l.gp })

/-- Settle every waiting grid point at the head whose contributions are all in. -/
def State.zSettleAll (z : Nat) : Nat → State → State
  | 0, s => s
  | n + 1, s =>
    match (s.dzeOf z).waits with
    | [] => s
    | l :: _ =>
      if ((s.viewAt zRecKey z l.ref l.seq).getD s).zComplete z l.gp then State.zSettleAll z n (s.zSettle z) else s

/-- The payload of a PARTIAL after its first four octets (R322). -/
def partialBody (z q gp : Nat) (d r : List Int) : List Byte :=
  bytesBE 1 z ++ bytesBE 1 q ++ bytesBE 2 0 ++ bytesBE 4 gp
    ++ (List.range 3).flatMap (fun p => bytesBE 8 (unsigned 64 (d.getD p 0)))
    ++ (List.range 3).flatMap (fun p => bytesBE 8 (unsigned 64 (r.getD p 0))) ++ bytesBE 4 0

/-- PARTIAL_SEND (R169, R345): a contributor in SPAN sends its sums while its follow is aligned. -/
def State.zSend (z : Nat) (l : DzeLocal) (s : State) : State :=
  if s.spanOk (s.zRef z) then
    s.casSend 0x22 (s.fld (DZE_Z_CFG z) 22 20)
      (partialBody z (closeQ l.q) ((l.gp + s.casOffset (s.zRef z)) % 2 ^ 32) l.d l.r)
  else s

/-- The zone is enabled and bound to reference `r`. -/
def State.zBound (s : State) (r z : Nat) : Bool := s.bit (DZE_Z_CFG z) 31 && s.zRef z == r

/-- An input of a zone at grid point `k`, or the point's grid record, holds an uncorrectable error. -/
def State.zPoison (s : State) (z r k : Nat) : Bool :=
  (s.zInputs z).any (fun m => let w := s.rd (DZE_IN_SRC z m)
    (List.range 3).any (fun j => s.gridPoison (bits w 30 24) (bits w 23 19 + j) k)) || s.poisoned (s.recAt r k) 32

/-- The work unit of a zone at a closing: corrections, sums, detectors (R162, R163, R166), then the record, or the wait
for contributions at the home of a spanning zone. -/
def State.zUnit (cl : Close) (dual : List Nat) (z : Nat) (s : State) : State :=
  let realign := s.recRealign cl.ref cl.seq
  let s := if realign then s.zRestartDet z else s
  let ins := s.zInputs z
  let vals := ins.map (fun m => (m, s.zValue z m cl.seq))
  let sat := s.rd (DZE_Z_SAT z)
  let step := fun (m : Nat) (v : List Int) => detStep (max (bits sat 7 0) 1) (bits sat 15 8) (bits sat 31 16)
    (s.rd (DZE_Z_SCALE z)) (s.rd (DZE_Z_SATMIN z)) v ((s.dzeOf z).ins.at' m)
  let det := vals.map (fun e => (e.1, step e.1 e.2.1))
  let mask := fun (l : List Nat) => l.foldl (fun t m => t + 2 ^ m) 0
  let badIns := (vals.filter (fun e => decide (validity e.2.2 = 1 ∨ validity e.2.2 = 2))).map (·.1)
  let dl := dual.contains z
  let lcl := s.zLocal z
  let atHome := s.zSpan z && s.zHome z
  let l : DzeLocal := {
    ref := cl.ref, seq := cl.seq, gp := cl.gp, at_ := cl.at_, realign := realign
    d := vals.foldl (fun t e => add3 t e.2.1) [0, 0, 0]
    r := (vals.foldl (fun t e => add3 t (e.2.1.map (fun (x : Int) => (x.natAbs : Int)))) [0, 0, 0]).map (divRne · 2)
    q := combineQ (vals.map (·.2.2)), bad := mask badIns, nbad := badIns.length
    sat := mask ((det.filter (·.2.2.1)).map (·.1)), fault := dl || s.zPoison z cl.ref cl.seq, open_ := atHome && !lcl }
  let s := s.modDze z (fun d => { d with ins := det.foldl (fun m e => m.put e.1 e.2.1) d.ins })
  let s := s.when (det.any (·.2.2.2)) (State.evt (DZE_Z_EVT z) 2)
  let s := s.when dl (fun s => (((s.inc DZE_DUAL_ERR).evt DZE_DUAL_STAT 0).evt (DZE_Z_EVT z) 7).blockFault 6 1 z)
  let s := if l.open_ then s else s.zRecord z l [] false
  if atHome then
    (s.modDze z (fun d => { d with waits := d.waits ++ [l] })).zSettleAll z 256
  else if s.zSpan z then
    let s := if lcl then s else s.zSend z l
    s.modDze z (fun d => { d with clean := if s.spanOk (s.zRef z) then d.clean + 1 else 0 })
  else s

/-- DZE_GRID_WORK (R142): the work units of the oldest closing. -/
def State.dzeWork (r : Nat) (dual : List Nat) (s : State) : State :=
  match s.dzeQ with
  | [] => s
  | cl :: rest =>
    if cl.ref ≠ r ∨ s.power.cx = false then s else
    let s := { s with dzeQ := rest }
    if s.bit DZE_CTL 0 = false ∨ s.refState r = 0 then s else
    s.each (List.range 16) (fun z s =>
      let s := if (s.dzeOf z).waits.isEmpty then s.settleAt zRecKey z r cl.seq (State.zTurnWin z) else s
      (s.onPoint 6 z r cl.seq (State.zTurnDet z) (fun s => s.zBound r z) (fun s => s.bit (DZE_Z_STAT z) 1)
        (fun s => (s.zUnit cl dual z, ()))).1)

def execDzeGridWork (r : Fin 16) (dual : List (Fin 16)) (s : State) : Host.Outcome State Fault Refusal :=
  .next (s.dzeWork r.val (dual.map (·.val)))

/-- `xwait_us` of a zone in ticks, for a waiting grid point (R174, R530). -/
def State.zWait (s : State) (z : Nat) (l : DzeLocal) : Nat :=
  min (max (((s.viewAt zRecKey z l.ref l.seq).getD s).fld (DZE_Z_SPAN z) 31 16) 5) 200 * tUs

/-- CONTRIBUTION_MISSING (R169): `xwait_us` after the closing of the oldest waiting grid point. -/
def State.zMissing (z : Nat) (s : State) : State :=
  match (s.dzeOf z).waits with
  | [] => s
  | l :: _ => if l.at_ + s.zWait z l ≤ s.clk then (s.zSettle z).zSettleAll z 256 else s

def execContributionMissing (z : Fin 16) (s : State) : Host.Outcome State Fault Refusal := .next (s.zMissing z.val)

/-- A contribution handed over by CAS, its G already in the local count (R169, R170, R345): late ones are discarded. -/
def State.zContribution (z : Nat) (c : Contrib) (s : State) : State :=
  if !(s.bit (DZE_Z_CFG z) 31 && s.zSpan z && s.zHome z && (s.zPeers z).contains c.pos) then s else
  let d := s.dzeOf z
  let past := match d.done with
    | some g => decide ((g + 2 ^ 32 - c.gp % 2 ^ 32) % 2 ^ 32 < 2 ^ 31)
    | none => false
  let w := d.waits.find? (fun l => l.gp % 2 ^ 32 == c.gp % 2 ^ 32)
  let expired := match w with | some l => decide (l.at_ + s.zWait z l ≤ s.clk) | none => false
  if past || expired then s.evt (DZE_Z_EVT z) 5
  else
    let gp := c.gp % 2 ^ 32
    let got := (d.got.filter (fun e => !(e.pos == c.pos && e.gp == gp))) ++ [{ c with gp := gp }]
    (s.modDze z (fun d => { d with got := got })).zSettleAll z 256

/-- Change mode (R170): windows and detectors restart; what still waits is settled first. -/
def State.zMode (z : Nat) (lcl : Bool) (s : State) : State :=
  let s := s.each (s.dzeOf z).waits (fun _ s => s.zSettle z)
  let s := (s.setBit (DZE_Z_STAT z) 2 lcl).evt (DZE_Z_EVT z) (if lcl then 3 else 4)
  (s.modDze z (fun d => { d with clean := 0, miss := [] })).zRestart z

/-- `xmiss_n` of a zone. -/
def State.zMissN (s : State) (z : Nat) : Nat := max (s.fld (DZE_Z_SPAN z) 15 8) 1

/-- ZONE_TO_LOCAL (R170): a contribution missing `xmiss_n` times in a row at the home, or loss of the dealer or of the
follow. -/
def State.zToLocal (z : Nat) (s : State) : State :=
  if s.bit (DZE_Z_CFG z) 31 ∧ s.zSpan z ∧ s.bit (DZE_Z_STAT z) 1 = false ∧ s.zLocal z = false ∧
      ((s.zHome z ∧ (s.zPeers z).any (fun p => decide (s.zMissN z ≤ (s.dzeOf z).miss.at' p)))
        ∨ s.spanOk (s.zRef z) = false) then s.zMode z true else s

def execZoneToLocal (z : Fin 16) (s : State) : Host.Outcome State Fault Refusal := .next (s.zToLocal z.val)

/-- ZONE_TO_SPAN (R170): 128 clean grid points. -/
def State.zToSpan (z : Nat) (s : State) : State :=
  if s.bit (DZE_Z_CFG z) 31 ∧ s.zSpan z ∧ s.bit (DZE_Z_STAT z) 1 = false ∧ s.zLocal z ∧ 128 ≤ (s.dzeOf z).clean
      ∧ s.spanOk (s.zRef z) then s.zMode z false else s

def execZoneToSpan (z : Fin 16) (s : State) : Host.Outcome State Fault Refusal := .next (s.zToSpan z.val)

/-! ### Configuration (R141, R146, R530) -/

def State.zCheck (z : Nat) (s : State) : State :=
  let bad := s.bit (DZE_Z_CFG z) 31 && s.zBad z
  let s := s.setBit (DZE_Z_STAT z) 1 bad
  s.when bad (State.evt (DZE_Z_EVT z) 0)

/-- A commit on zone `z` has been activated (R530); `x` holds the values before it. -/
def State.zActivated (x : Prior) (z : Nat) (s : State) : State :=
  let was := (s.setWords x.words).bit (DZE_Z_CFG z) 31 && !s.bit (DZE_Z_STAT z) 1
  let waits : List Close := (s.dzeOf z).waits.map (fun l => { ref := l.ref, seq := l.seq, gp := l.gp, at_ := l.at_ })
  ((s.zCheck z).turn 6 z x s.dzeQ was (State.zTurnDet z)).turn zRecKey z x (s.dzeQ ++ waits) was (State.zTurnWin z)

/-- A commit on channel `n` has been activated: zones on it are checked again (R141). -/
def State.zChannel (n : Nat) (s : State) : State :=
  s.each ((List.range 16).filter (fun z => s.bit (DZE_Z_CFG z) 31
    && (s.zInputs z).any (fun m => s.fld (DZE_IN_SRC z m) 30 24 == n))) State.zCheck

/-- A reset of the zone (R35, R146). -/
def State.zReset (z : Nat) (s : State) : State :=
  let s := ({ s with dze := s.dze.put z {} }.setPriors 6 z []).setPriors zRecKey z []
  if s.zSpan z ∧ s.zLocal z = false then (s.setBit (DZE_Z_STAT z) 2 true).evt (DZE_Z_EVT z) 3 else s

end Sys2Proof.Machine
end

