-- ==== Sys2Proof/Machine/Fdc.lean ====
section
/-!
DEFINITION. Filter-and-decimation chains (R147–R154).
-/

namespace Sys2Proof.Machine

def State.fdcOf (s : State) (c : Nat) : Fdc := s.fdc.at' c
def State.modFdc (c : Nat) (f : Fdc → Fdc) (s : State) : State := { s with fdc := s.fdc.mod c f }
def State.fdcStages (s : State) (c : Nat) : Nat := s.fld (FDC_CH_CFG c) 26 24 + 1
def State.fdcLen (s : State) (c k : Nat) : Nat := s.fld (FDC_ST_LEN c k) 11 0 + 1
def State.fdcShift (s : State) (c k : Nat) : Nat := s.fld (FDC_ST_LEN c k) 20 16
def State.fdcDec (s : State) (c k : Nat) : Nat := max (s.fld (FDC_ST_DEC c k) 15 0) 1

/-- Q of stage `k`: the product of the decimations up to it (R149). -/
def State.fdcQuot (s : State) (c k : Nat) : Nat := ((List.range (k + 1)).map (s.fdcDec c)).foldl (· * ·) 1

/-- First history entry of stage `k` (R150): `hist_ofs` + Σ L_j − k for j < k. -/
def State.fdcHist (s : State) (c k : Nat) : Nat :=
  s.fld (FDC_CH_HIST c) 18 0 + ((List.range k).map (fun j => s.fdcLen c j - 1)).foldl (· + ·) 0

/-- Address of entry `i` of the history pool. -/
def State.fdcPool (s : State) (i : Nat) : Nat := s.area FDC_HIST_BASE 20 + 8 * i

/-- The configuration of a chain is refused (R141, R149, R150). -/
def State.fdcBad (s : State) (c : Nat) : Bool :=
  let cfg := s.rd (FDC_CH_CFG c)
  let n := s.fdcStages c
  !s.inputOk (bits cfg 23 17) (bits cfg 16 12) 1 (bits cfg 30 27)
    || decide (2 ^ 32 ≤ s.fdcQuot c (n - 1)) || decide (524288 < s.fdcHist c n)

/-- A chain starts (R152): history of value 0, never produced; counts from 0. -/
def State.fdcStart (c : Nat) (s : State) : State :=
  let from_ := s.fdcHist c 0
  let to_ := min (s.fdcHist c (s.fdcStages c)) 524288
  let s := s.each (List.range (to_ - from_)) (fun i s => s.stWords (s.fdcPool (from_ + i)) [0, 2])
  ((s.modFdc c (fun _ => {})).setBit (FDC_CH_STAT c) 2 true).evt (FDC_CH_EVT c) 2

/-- One stage takes an input (R148, R151, R152): output value and quality, whether it was clamped. -/
def State.fdcStage (s : State) (c k : Nat) (x : Int × Nat) : Int × Nat × Bool :=
  let len := s.fdcLen c k
  let base := s.fdcHist c k
  let hist := (List.range (len - 1)).map (fun i =>
    let a := s.fdcPool (base + i)
    (signed 32 (s.ld a 4), s.ld (a + 4) 1))
  let y := hist.foldl (fun t h => t + h.1) x.1
  let v := roundAway y (2 ^ s.fdcShift c k)
  let v' := satS 32 v
  let q := closeQ (combineQ (x.2 :: hist.map (·.2)))
  let q := if (s.fdcOf c).counts.getD k 0 + 1 < len then atLeast 1 q else q
  (v', if v = v' then q else withFlag 5 q, decide (v ≠ v'))

/-- Enter an input in a stage's history, in place of the oldest (R150). -/
def State.fdcEnter (c k : Nat) (x : Int × Nat) (s : State) : State :=
  let len := s.fdcLen c k
  let n := (s.fdcOf c).counts.getD k 0
  let s := if len = 1 then s else
    s.stWords (s.fdcPool (s.fdcHist c k + n % (len - 1))) [unsigned 32 x.1, x.2]
  s.modFdc c (fun f => { f with counts := (f.counts ++ List.replicate (8 - f.counts.length) 0).set k (n + 1) })

/-- Stages `k` onward of a chain at grid number `g` (R147–R149): `n` stages are left. Answers whether an output was
written. -/
def State.fdcRun (c g seq : Nat) : Nat → Nat → Int × Nat → State → State × Bool
  | 0, _, x, s =>
    let u := (s.fdcOf c).outs
    let s := s.stWords (s.area FDC_OUT_BASE 20 + c * 0x200 + u % 64 * 8) [unsigned 32 x.1, x.2 + seq % 2 ^ 24 * 2 ^ 8]
    let s := (s.modFdc c (fun f => { f with outs := u + 1 })).inc (FDC_CH_OUTS c)
    (s.setFld (FDC_CH_STAT c) 31 8 u, true)
  | n + 1, k, x, s =>
    let (v, q, clamp) := s.fdcStage c k x
    let s := s.fdcEnter c k x
    let s := s.when clamp (State.evt (FDC_CH_EVT c) 1)
    if g % s.fdcQuot c k = s.rd (FDC_CH_PHASE c) % s.fdcQuot c k then
      let s := if n = 0 then s.setBit (FDC_CH_STAT c) 3 clamp else s
      State.fdcRun c g seq n (k + 1) (v, q) s
    else (s, false)

/-- A stage window is not yet full. -/
def State.fdcWarm (s : State) (c : Nat) : Bool :=
  (List.range (s.fdcStages c)).any (fun k => decide ((s.fdcOf c).counts.getD k 0 < s.fdcLen c k))

/-- The chain is enabled and bound to reference `r`. -/
def State.fdcBound (s : State) (r c : Nat) : Bool := s.bit (FDC_CH_CFG c) 31 && s.fld (FDC_CH_CFG c) 30 27 == r

/-- The registers of chain `c` other than the shifts differ between two states. -/
def fdcChanged (a b : State) (c : Nat) : Bool :=
  a.rd (FDC_CH_CFG c) != b.rd (FDC_CH_CFG c) || a.rd (FDC_CH_PHASE c) != b.rd (FDC_CH_PHASE c)
    || a.rd (FDC_CH_HIST c) != b.rd (FDC_CH_HIST c)
    || (List.range 8).any (fun k => a.fdcLen c k != b.fdcLen c k || a.rd (FDC_ST_DEC c k) != b.rd (FDC_ST_DEC c k))

/-- Discard a chain's history. -/
def State.fdcDiscard (c : Nat) (s : State) : State :=
  ((s.modFdc c (fun _ => {})).setBit (FDC_CH_STAT c) 2 false)

/-- What an activation does to the chain's history (R146, R152); `old` holds the values before it. -/
def State.fdcTurn (c : Nat) (old s : State) : State :=
  if !s.bit (FDC_CH_CFG c) 31 then s.fdcDiscard c
  else if !s.bit (FDC_CH_STAT c) 1 && fdcChanged old s c then s.fdcStart c else s

/-- The work unit of a chain at a closing; a residue mismatch or an uncorrectable history word is in `chk` or `unc`
(R154). -/
def State.fdcChain (cl : Close) (chk unc : Bool) (c : Nat) (s : State) : State × Bool :=
  let x := s.engineIn (s.fld (FDC_CH_CFG c) 23 17) (s.fld (FDC_CH_CFG c) 16 12) cl.seq
  let (s, wrote) := s.fdcRun c cl.gp cl.seq (s.fdcStages c) 0 x
  let s := s.setBit (FDC_CH_STAT c) 2 (s.fdcWarm c)
  let s := if chk || unc then ((s.inc FDC_CHK_ERR).evt FDC_CHK_STAT 0).evt (FDC_CH_EVT c) 3 else s
  let s := (s.when chk (State.blockFault 4 2 c)).when unc (State.blockFault 4 3 c)
  (if unc then s.fdcStart c else s, wrote)

/-- The input of a chain at grid point `k` holds an uncorrectable error. -/
def State.fdcPoison (s : State) (c k : Nat) : Bool :=
  s.gridPoison (s.fld (FDC_CH_CFG c) 23 17) (s.fld (FDC_CH_CFG c) 16 12) k

/-- FDC_GRID_WORK (R142–R144, R147–R154): the work units of the oldest closing, and the reference's mark. -/
def State.fdcWork (r : Nat) (chk unc : List Nat) (s : State) : State :=
  match s.fdcQ with
  | [] => s
  | cl :: rest =>
    if cl.ref ≠ r ∨ s.power.cx = false then s else
    let s := { s with fdcQ := rest }
    if s.bit FDC_CTL 0 = false ∨ s.refState r = 0 then s else
    let x := (List.range 512).foldl (fun (a : State × Nat × Bool) c =>
      let y := a.1.onPoint 4 c r cl.seq (State.fdcTurn c) (fun s => s.fdcBound r c) (fun s => s.bit (FDC_CH_STAT c) 1)
        (fun s => let p := s.fdcPoison c cl.seq; let z := s.fdcChain cl (chk.contains c) (unc.contains c) c; (z.1, z.2, p))
      let bad := match y.2 with | some w => w.2 || chk.contains c || unc.contains c | none => false
      (y.1, a.2.1 + b2n (y.2.any (·.1)), a.2.2 || bad)) (s, 0, false)
    x.1.engineMark (x.1.area FDC_MARK_BASE 10 + r * 64) FDC_LATE r cl.seq x.2.1 x.2.2

def execFdcGridWork (r : Fin 16) (residue uncorr : List (Fin 512)) (s : State) : Host.Outcome State Fault Refusal :=
  .next (s.fdcWork r.val (residue.map (·.val)) (uncorr.map (·.val)))

/-! ### Configuration (R141, R146, R152) -/

/-- Check a chain's configuration. -/
def State.fdcCheck (c : Nat) (s : State) : State :=
  let bad := s.bit (FDC_CH_CFG c) 31 && s.fdcBad c
  let s := s.setBit (FDC_CH_STAT c) 1 bad
  s.when bad (State.evt (FDC_CH_EVT c) 0)

/-- A commit on chain `c` has been activated; `x` holds the values before it. -/
def State.fdcActivated (x : Prior) (c : Nat) (s : State) : State :=
  let was := (s.setWords x.words).bit (FDC_CH_CFG c) 31 && !s.bit (FDC_CH_STAT c) 1
  (s.fdcCheck c).turn 4 c x s.fdcQ was (State.fdcTurn c)

/-- A commit on channel `n` has been activated: chains on it are checked again (R141), and start again when its rings
did (R152). -/
def State.fdcChannel (n : Nat) (rings : Bool) (s : State) : State :=
  s.each ((List.range 512).filter (fun c => s.bit (FDC_CH_CFG c) 31 && s.fld (FDC_CH_CFG c) 23 17 == n)) (fun c s =>
    let was := s.bit (FDC_CH_STAT c) 1
    let s := s.fdcCheck c
    if !s.bit (FDC_CH_STAT c) 1 && (rings || was) then s.fdcStart c else s)

/-- A reset of the instance (R35, R146): its work goes on, on its present values, with the next grid point worked on. -/
def State.fdcReset (c : Nat) (s : State) : State :=
  let s := s.setPriors 4 c []
  if s.bit (FDC_CH_CFG c) 31 then s.fdcStart c else s.fdcDiscard c

end Sys2Proof.Machine
end

