-- ==== Sys2Proof/Machine/Psu.lean ====
section
/-!
DEFINITION. Phasors and sequences (R155–R161, R171).
-/

namespace Sys2Proof.Machine

/-- √2 / 128 and √3 / 2 as binary32 words. -/
abbrev fRms : F32 := 0x3C3504F3
abbrev fHalfRoot3 : F32 := 0x3F5DB3D7

/-- a = 1∠120° and a² (R159). -/
def cA : C32 := ⟨0xBF000000, fHalfRoot3⟩
def cA2 : C32 := ⟨0xBF000000, fNeg fHalfRoot3⟩

def State.psuOf (s : State) (i : Nat) : Psu := s.psu.at' i
def State.psuMode (s : State) (i : Nat) : Nat := s.fld (PSU_IN_CFG i) 26 25
def State.psuRef (s : State) (i : Nat) : Nat := s.fld (PSU_IN_CFG i) 30 27

/-- Input quantities of an instance: channel and quantity (R155). -/
def State.psuInputs (s : State) (i : Nat) : List (Nat × Nat) :=
  let c := s.rd (PSU_IN_CFG i)
  let g0 := bits c 17 13
  let g1 := bits c 5 1
  let three := fun (n q : Nat) => [(n, q), (n, q + 1), (n, q + 2)]
  match s.psuMode i with
  | 0 => []
  | 1 => [(bits c 24 18, g0)]
  | 2 => three (bits c 24 18) g0
  | _ => three (bits c 24 18) g0 ++ three (bits c 12 6) g1

/-- The configuration of an instance is refused (R141, R155, R173). -/
def State.psuBad (s : State) (i : Nat) : Bool := (s.psuInputs i).any (fun x => !s.inputOk x.1 x.2 1 (s.psuRef i))

/-- The phasor of input `k` at harmonic `h` (R156, R157): exact sums, converted, then scaled in binary32. -/
def State.phasor (s : State) (i k h : Nat) (scale : F32) : C32 :=
  let win := (s.psuOf i).win
  let term := fun (f : Nat → Int) => (win.map (fun p => (p.vals.getD k (0, 0)).1 * f (h * p.m))).foldl (· + ·) 0
  let x := (s.psuInputs i).getD k (0, 0)
  let e := signed 5 (s.fld (SIE_QTY_CFG x.1 x.2) 4 0)
  let conv := fun (v : Int) => fMul (fMul (fOfScaled v (-30 - e)) fRms) scale
  ⟨conv (term sin30), conv (term cos30)⟩

/-- Sequence components 0, 1, 2 (R159). -/
def sequences (a b c : C32) : List C32 :=
  let third := fun (x : C32) => (⟨fDiv x.re 0x40400000, fDiv x.im 0x40400000⟩ : C32)
  [ third ((a.add b).add c), third ((a.add (cA.mul b)).add (cA2.mul c)), third ((a.add (cA2.mul b)).add (cA.mul c)) ]

/-- An impedance (R159): its two words, and whether it is blocked. -/
def impedance (zmin : F32) (n d : C32) : C32 × Bool := if fLt d.mag zmin then (⟨fInf, 0⟩, true) else (n.div d, false)

/-- The words of complex numbers, or quiet NaN where the mode does not compute them. -/
def cWords (on : Bool) (l : List C32) : List F32 := l.flatMap (fun c => if on then [c.re, c.im] else [fNaN, fNaN])

/-- Words 2 to 53 of a record and the z_blk bits (R160). -/
def State.psuWords (s : State) (i : Nat) (freq : F32) : List F32 × Nat :=
  let mode := s.psuMode i
  let s0 := s.rd (PSU_SCALE0 i)
  let s1 := s.rd (PSU_SCALE1 i)
  let ph0 := (List.range 3).map (fun k => s.phasor i k 1 s0)
  let ph1 := (List.range 3).map (fun k => s.phasor i (3 + k) 1 s1)
  let g := fun (l : List C32) (k : Nat) => l.getD k default
  let sq0 := sequences (g ph0 0) (g ph0 1) (g ph0 2)
  let sq1 := sequences (g ph1 0) (g ph1 1) (g ph1 2)
  let three := decide (2 ≤ mode)
  let full := mode == 3
  let harm := fun (first : Nat) (sc : F32) (h k : Nat) => (s.phasor i (first + k) h sc).mag
  let h0 := (List.range 6).map (fun j =>
    if three || j % 3 == 0 then harm 0 s0 (if j < 3 then 2 else 5) (j % 3) else fNaN)
  let h1 := (List.range 6).map (fun j => if full then harm 3 s1 (if j < 3 then 2 else 5) (j % 3) else fNaN)
  let p3 := (List.range 3).map (fun k => (g ph0 k).mul (g ph1 k).conj)
  let pq := ((g p3 0).add (g p3 1)).add (g p3 2)
  let k0 : C32 := ⟨s.rd (PSU_K0_RE i), s.rd (PSU_K0_IM i)⟩
  let sum := ((g ph1 0).add (g ph1 1)).add (g ph1 2)
  let zmin := s.rd (PSU_ZMIN i)
  let loop := fun (a b : Nat) => impedance zmin ((g ph0 a).sub (g ph0 b)) ((g ph1 a).sub (g ph1 b))
  let earth := fun (a : Nat) => impedance zmin (g ph0 a) ((g ph1 a).add (k0.mul sum))
  let z := [loop 0 1, loop 1 2, loop 2 0, earth 0, earth 1, earth 2]
  let phw := if three then cWords true ph0 else cWords true (ph0.take 1) ++ List.replicate 4 fNaN
  (phw ++ cWords full ph1 ++ cWords three sq0 ++ cWords full sq1 ++ h0 ++ h1 ++ cWords full [pq] ++ [freq, 0]
      ++ cWords full (z.map (·.1)),
   if full then maskOf (z.map (·.2)) else 0)

/-- Restart an instance's window (R158). -/
def State.psuRestart (i : Nat) (s : State) : State :=
  ({ s with psu := s.psu.put i {} }.setBit (PSU_STAT_I i) 2 false).evt (PSU_EVT i) 1

/-- The instance is enabled in a mode and bound to reference `r`. -/
def State.psuBound (s : State) (r i : Nat) : Bool :=
  s.bit (PSU_IN_CFG i) 31 && s.psuRef i == r && decide (s.psuMode i ≠ 0)

/-- What an activation does to the instance's window (R158). -/
def State.psuTurn (i : Nat) (_ s : State) : State := s.psuRestart i

/-- The work unit of an instance at a closing (R156–R161, R171). -/
def State.psuUnit (cl : Close) (dual : List Nat) (i : Nat) (s : State) : State :=
  let s := if s.recRealign cl.ref cl.seq then s.psuRestart i else s
  let pt : PsuPt := { m := s.recIndex cl.ref cl.seq, vals := (s.psuInputs i).map (fun x => s.engineIn x.1 x.2 cl.seq) }
  let win := (pt :: (s.psuOf i).win).take 128
  let s := { s with psu := s.psu.put i { win := win } }
  let full := win.length == 128
  let q := closeQ (combineQ (win.flatMap (fun p => p.vals.map (·.2))))
  let q := if full then q else atLeast 1 q
  let (w, blk) := s.psuWords i (fOfScaled (s.recWord cl.ref cl.seq 4) (-24))
  let a := s.area PSU_OUT_BASE 16 + i * 0x200 + cl.seq % 2 * 0x100
  let s := s.stWords a ([cl.seq % 2 ^ 32, q + blk * 2 ^ 8 + b2n full * 2 ^ 14] ++ w ++ List.replicate 10 0)
  let s := (s.setFld (PSU_STAT_I i) 15 8 q).setBit (PSU_STAT_I i) 2 full
  let s := s.when (decide (blk ≠ 0)) (State.evt (PSU_EVT i) 3)
  s.when (dual.contains i) (fun s => (((s.inc PSU_DUAL_ERR).evt PSU_DUAL_STAT 0).evt (PSU_EVT i) 2).blockFault 5 1 i)

/-- An input of an instance at grid point `k`, or the point's grid record, holds an uncorrectable error. -/
def State.psuPoison (s : State) (i r k : Nat) : Bool :=
  (s.psuInputs i).any (fun x => s.gridPoison x.1 x.2 k) || s.poisoned (s.recAt r k) 32

/-- PSU_GRID_WORK (R142–R144): the work units of the oldest closing, and the reference's mark. -/
def State.psuWork (r : Nat) (dual : List Nat) (s : State) : State :=
  match s.psuQ with
  | [] => s
  | cl :: rest =>
    if cl.ref ≠ r ∨ s.power.cx = false then s else
    let s := { s with psuQ := rest }
    if s.bit PSU_CTL 0 = false ∨ s.refState r = 0 then s else
    let x := (List.range 128).foldl (fun (a : State × Nat × Bool) i =>
      let y := a.1.onPoint 5 i r cl.seq (State.psuTurn i) (fun s => s.psuBound r i) (fun s => s.bit (PSU_STAT_I i) 1)
        (fun s => (s.psuUnit cl dual i, s.psuPoison i r cl.seq))
      (y.1, a.2.1 + b2n y.2.isSome, a.2.2 || y.2.any (fun bad => bad || dual.contains i))) (s, 0, false)
    x.1.engineMark (x.1.area PSU_MARK_BASE 10 + r * 64) PSU_LATE r cl.seq x.2.1 x.2.2

def execPsuGridWork (r : Fin 16) (dual : List (Fin 128)) (s : State) : Host.Outcome State Fault Refusal :=
  .next (s.psuWork r.val (dual.map (·.val)))

/-! ### Configuration (R141, R146, R158) -/

def State.psuCheck (i : Nat) (s : State) : State :=
  let bad := s.bit (PSU_IN_CFG i) 31 && s.psuBad i
  let s := s.setBit (PSU_STAT_I i) 1 bad
  s.when bad (State.evt (PSU_EVT i) 0)

/-- A commit on instance `i` has been activated; `x` holds the values before it. -/
def State.psuActivated (x : Prior) (i : Nat) (s : State) : State :=
  let was := (s.setWords x.words).psuBound x.ref i && !s.bit (PSU_STAT_I i) 1
  (s.psuCheck i).turn 5 i x s.psuQ was (State.psuTurn i)

/-- A commit on channel `n` has been activated. -/
def State.psuChannel (n : Nat) (rings : Bool) (s : State) : State :=
  s.each ((List.range 128).filter (fun i => s.bit (PSU_IN_CFG i) 31 && (s.psuInputs i).any (fun x => x.1 == n)))
    (fun i s => (s.psuCheck i).when rings (State.psuRestart i))

/-- A reset of the instance (R35, R146). -/
def State.psuReset (i : Nat) (s : State) : State := (s.setPriors 5 i []).psuRestart i

end Sys2Proof.Machine
end

