-- ==== Sys2Proof/Machine/Rge.lean ====
section
/-!
DEFINITION. The regulation engine (R372–R390). Values are binary32 words.
-/

namespace Sys2Proof.Machine

def State.loopOf (s : State) (l : Nat) : Loop := s.loops.at' l
def State.modLoop (l : Nat) (f : Loop → Loop) (s : State) : State := { s with loops := s.loops.mod l f }
/-- State of a loop (R382). -/
def State.loopState (s : State) (l : Nat) : Nat := s.fld (RGE_LP_STAT l) 2 0
def State.loopRef (s : State) (l : Nat) : Nat := s.fld (RGE_LP_CFG l) 30 27

/-- A change of state (R383). -/
def State.setLoop (l st : Nat) (s : State) : State :=
  if s.loopState l = st then s else (s.setFld (RGE_LP_STAT l) 2 0 st).evt (RGE_LP_EVT l) 0

/-- The cycle period in seconds (R374). -/
def State.loopT (s : State) (l k : Nat) : F32 :=
  fOfRat (((s.fld (RGE_LP_CFG l) 26 21 + 1) * 2 ^ 24 : Nat) : Int) (128 * s.recWord (s.loopRef l) k 4)

/-! ### Sources (R373, R375, R376) -/

/-- The PSU result set of reference `ref` for grid sequence `k` is published. -/
def State.psuReady (s : State) (ref k : Nat) : Bool := s.ld (s.area PSU_MARK_BASE 10 + ref * 64 + 4) 4 == k % 2 ^ 32

/-- The mark of that set carries `fault`. -/
def State.psuFault (s : State) (ref : Nat) : Bool := bitAt (s.ld (s.area PSU_MARK_BASE 10 + ref * 64) 4) 1

/-- What a source gives in a cycle: value, quality byte, whether a set or point was there to read. -/
structure Sensed where
  val : F32
  qual : Nat
  got : Bool
  deriving DecidableEq, Repr

/-- Read a source of `kind` from its source register. -/
def State.sense (s : State) (kind src ref k : Nat) : Sensed :=
  if kind = 2 then
    let p := bits src 22 0
    { val := s.pointWord p 0, qual := bits (s.pointWord p 2) 7 0, got := s.pointType p == 6 }
  else
    let a := s.area PSU_OUT_BASE 16 + bits src 6 0 * 0x200 + k % 2 * 0x100
    let w := bits src 13 8
    let ok := s.psuReady ref k && !s.psuFault ref && s.ld a 4 == k % 2 ^ 32
    let v := s.ld (a + 4 * w) 4
    { val := if kind = 1 then C32.mag ⟨v, s.ld (a + 4 * w + 4) 4⟩ else v, qual := s.ld (a + 4) 1, got := ok }

/-- A value that cannot be used whatever froze: invalid, never produced, NaN, infinite, not there. -/
def Sensed.bad (x : Sensed) : Bool := !x.got || x.qual % 4 == 1 || x.qual % 4 == 2 || !fFinite x.val

/-- The source register is refused for its kind (R375). -/
def State.srcBad (s : State) (kind src ref : Nat) : Bool :=
  let w := bits src 13 8
  match kind with
  | 0 => s.psuRef (bits src 6 0) != ref || decide (w < 2)
  | 1 => s.psuRef (bits src 6 0) != ref || decide (w < 2) || w % 2 == 1
  | 2 => bitAt (s.pointWord (bits src 22 0) 7) 31 && s.pointType (bits src 22 0) != 6
  | _ => true

/-! ### Profile (R377) -/

/-- Set-point, rate, rate of rate. -/
structure Prof where
  sp : F32
  v  : F32
  a  : F32
  deriving DecidableEq, Repr

/-- The sign of a value as ±1 or 0. -/
def fSgn (x : F32) : F32 := if fIsZero x then 0 else if fSign x then fNeg fOne else fOne

/-- One cycle of the profile generator. -/
def profile (target vmax amax jmax t : F32) (p : Prof) : Prof :=
  let d := fSub target p.sp
  if fIsZero vmax then ⟨target, 0, 0⟩
  else
    let vlim := if fLt 0 amax then fMin vmax (fSqrt (fMul (fMul 0x40000000 amax) (fAbs d))) else vmax
    let des := fDiv (fSub (fMul (fSgn d) vlim) p.v) t
    let des := if fLt 0 amax then fClamp (fNeg amax) amax des else des
    let jt := fMul jmax t
    let a := if fLt 0 jmax then fAdd p.a (fClamp (fNeg jt) jt (fSub des p.a)) else des
    let v := fClamp (fNeg vmax) vmax (fAdd p.v (fMul a t))
    let sp := fAdd p.sp (fMul v t)
    if fLe (fMul (fSub target sp) d) 0 then ⟨target, 0, 0⟩ else ⟨sp, v, a⟩

/-- Run the profile of a loop. -/
def State.runProfile (l : Nat) (t : F32) (s : State) : State :=
  let p := profile (s.rd (RGE_LP_TARGET l)) (s.rd (RGE_LP_VMAX l)) (s.rd (RGE_LP_AMAX l)) (s.rd (RGE_LP_JMAX l)) t
    ⟨s.rd (RGE_LP_SP l), s.rd (RGE_LP_RATE l), (s.loopOf l).acc⟩
  ((s.setReg (RGE_LP_SP l) p.sp).setReg (RGE_LP_RATE l) p.v).modLoop l (fun x => { x with acc := p.a })

/-- sp takes a value, v and a fall to 0. -/
def State.spTo (l : Nat) (y : F32) (s : State) : State :=
  ((s.setReg (RGE_LP_SP l) y).setReg (RGE_LP_RATE l) 0).modLoop l (fun x => { x with acc := 0 })

/-! ### Control law (R378, R380, R381) -/

/-- The feed-forward input of a cycle. -/
def State.ffIn (s : State) (l : Nat) : F32 :=
  match s.fld (RGE_LP_CFG l) 12 11 with
  | 1 => (s.loopOf l).ff
  | 2 => s.rd (RGE_LP_RATE l)
  | _ => 0

/-- D = 0, y_prev = y and I = u − Kp × e − Kff × ff (R380). -/
def State.loopInit (l : Nat) (y : F32) (s : State) : State :=
  let e := fSub (s.rd (RGE_LP_SP l)) y
  let i := fSub (fSub (s.rd (RGE_LP_U l)) (fMul (s.rd (RGE_LP_KP l)) e)) (fMul (s.rd (RGE_LP_KFF l)) (s.ffIn l))
  (s.setReg (RGE_LP_INTEG l) i).modLoop l (fun x => { x with d := 0, yPrev := y })

/-- Limit an output to [umin, umax]: the value and whether it was limited. -/
def State.limitU (s : State) (l : Nat) (u : F32) : F32 × Bool :=
  let hi := s.rd (RGE_LP_UMAX l)
  let lo := s.rd (RGE_LP_UMIN l)
  if fLt hi u then (hi, true) else if fLt u lo then (lo, true) else (u, false)

/-- Show whether the output was saturated. -/
def State.showSat (l : Nat) (sat : Bool) (s : State) : State :=
  let s := s.setBit (RGE_LP_STAT l) 3 sat
  if sat then (s.inc (RGE_LP_SATCYC l)).evt (RGE_LP_EVT l) 5 else s

/-- One cycle of R378. -/
def State.control (l : Nat) (y t : F32) (s : State) : State :=
  let x := s.loopOf l
  let e := fSub (s.rd (RGE_LP_SP l)) y
  let al := s.rd (RGE_LP_DALPHA l)
  let der := fDiv (fMul (fNeg (s.rd (RGE_LP_KD l))) (fSub y x.yPrev)) t
  let dt := fAdd (fMul al x.d) (fMul (fSub fOne al) der)
  let ffv := fMul (s.rd (RGE_LP_KFF l)) (s.ffIn l)
  let ic := fAdd (s.rd (RGE_LP_INTEG l)) (fMul (fMul (s.rd (RGE_LP_KI l)) t) e)
  let ur := fAdd (fAdd (fAdd (fMul (s.rd (RGE_LP_KP l)) e) ic) dt) ffv
  let (u, sat) := s.limitU l ur
  let s := s.setReg (RGE_LP_U l) u
  let s := if sat then s else s.setReg (RGE_LP_INTEG l) ic
  (s.modLoop l (fun x => { x with d := dt, yPrev := y })).showSat l sat

/-- The plant model of R381 in a CLOSED cycle; true when the feedback is implausible. -/
def State.plausible (l : Nat) (y t : F32) (s : State) : State × Bool :=
  let n := s.fld (RGE_LP_PL_N l) 7 0
  if n = 0 then (s.setBit (RGE_LP_STAT l) 7 false, false) else
  let x := s.loopOf l
  let k := fDiv t (fAdd (s.rd (RGE_LP_PL_TAU l)) t)
  let aim := fSub (fAdd (fMul (s.rd (RGE_LP_PL_GAIN l)) (s.rd (RGE_LP_U l))) (s.rd (RGE_LP_PL_BIAS l))) x.yHat
  let yh := fAdd x.yHat (fMul k aim)
  let rho := fSub y yh
  let run := if fLt (s.rd (RGE_LP_PL_TOL l)) (fAbs rho) then x.impl + 1 else 0
  let s := (s.setReg (RGE_LP_RESID l) rho).modLoop l (fun x => { x with yHat := yh, impl := run })
  let s := (s.setBit (RGE_LP_STAT l) 7 (decide (n ≤ run))).when (run == n) (State.evt (RGE_LP_EVT l) 3)
  (s, decide (n ≤ run))

/-! ### States (R382–R384) -/

/-- Entry into CLOSED: the next cycle initialises (R380). -/
def State.enterClosed (l : Nat) (toY : Bool) (s : State) : State :=
  (s.setLoop l 2).modLoop l (fun x => { x with renew := true, toY := toY, impl := 0, good := 0 })

/-- Entry into HELD. -/
def State.enterHeld (l ev : Nat) (s : State) : State :=
  (((s.evt (RGE_LP_EVT l) ev).inc (RGE_LP_HOLDS l)).setLoop l 3).modLoop l (fun x => { x with heldFor := 0, good := 0 })

/-- HELD to FALLBACK after `fb_delay` cycles. -/
def State.fallbackDue (s : State) (l : Nat) : Bool :=
  s.loopState l == 3 && s.bit (RGE_LP_CFG l) 8 && decide (max (s.fld (RGE_LP_TIMES l) 15 0) 1 ≤ (s.loopOf l).heldFor)

def State.fallback (l : Nat) (s : State) : State := if s.fallbackDue l then s.setLoop l 4 else s

/-- FALLBACK_DELAY_EXPIRY (R383). -/
def execFallbackDelayExpiry (l : Fin 32) (s : State) : Host.Outcome State Fault Refusal := .next (s.fallback l.val)

/-- HELD or FALLBACK back to CLOSED after `restore_n` good cycles. -/
def State.autoResume (l : Nat) (s : State) : State :=
  if (s.loopState l = 3 ∨ s.loopState l = 4) ∧ s.bit (RGE_LP_CFG l) 9 ∧ max (s.fld (RGE_LP_TIMES l) 23 16) 1 ≤ (s.loopOf l).good then
    (s.evt (RGE_LP_EVT l) 4).enterClosed l true
  else s

/-- AUTO_RESUME (R383). -/
def execAutoResume (l : Fin 32) (s : State) : Host.Outcome State Fault Refusal := .next (s.autoResume l.val)

/-- A command of `RGE_LP_CMD`: kind 10 use. -/
def State.loopCmd (w : Who) (l : Nat) (f : State → State) (s : State) : State := s.gateGrant w (RGE_LP_CMD l) 10 l .use f

/-- LOOP_OPEN (R383). -/
def State.loopOpen (l : Nat) (s : State) : State :=
  if [2, 3, 4].contains (s.loopState l) then (s.setReg (RGE_LP_UMAN l) (s.rd (RGE_LP_U l))).setLoop l 1
  else s.evt (RGE_LP_EVT l) 6

def execLoopOpen (w : Who) (l : Fin 32) (s : State) : Host.Outcome State Fault Refusal := .next (s.loopCmd w l.val (State.loopOpen l.val))

/-- LOOP_CLOSE (R383). -/
def State.loopClose (l : Nat) (s : State) : State :=
  let st := s.loopState l
  if [1, 3, 4].contains st && (s.loopOf l).lastOk then
    let s := if st = 1 then s else s.evt (RGE_LP_EVT l) 4
    s.enterClosed l (decide (st ≠ 1) || s.bit (RGE_LP_CFG l) 3)
  else s.evt (RGE_LP_EVT l) 6

def execLoopClose (w : Who) (l : Fin 32) (s : State) : Host.Outcome State Fault Refusal := .next (s.loopCmd w l.val (State.loopClose l.val))

/-- STOP_RAMP (R383): the target takes the current set-point. -/
def State.stopRamp (l : Nat) (s : State) : State :=
  if [1, 2, 3, 4].contains (s.loopState l) then s.setReg (RGE_LP_TARGET l) (s.rd (RGE_LP_SP l))
  else s.evt (RGE_LP_EVT l) 6

def execStopRamp (w : Who) (l : Fin 32) (s : State) : Host.Outcome State Fault Refusal := .next (s.loopCmd w l.val (State.stopRamp l.val))

/-! ### The cycle (R372–R389) -/

/-- A transfer of a loop's inputs failed its CRC (R201, R388). -/
def State.rgeCrc (l : Nat) (s : State) : State :=
  (((s.inc RGE_CRC_ERR).evt RGE_CHK_STAT 0).evt (RGE_LP_EVT l) 8).blockFault 15 4 l

/-- Take the feedback (R376): y, bad, frozen. -/
def State.takeFeedback (l k : Nat) (crc : Bool) (s : State) : State × F32 × Bool × Bool :=
  let x := s.sense (s.fld (RGE_LP_CFG l) 14 13) (s.rd (RGE_LP_FB_SRC l)) (s.loopRef l) k
  let c := s.loopOf l
  let n := s.fld (RGE_LP_TIMES l) 31 24
  let frz := if x.got && x.val == c.frzVal then c.frz + 1 else 1
  let frozen := x.got && (bitAt x.qual 4 || (decide (0 < n) && decide (n ≤ frz)))
  let bad := x.bad || crc
  let s := if x.got then s.setReg (RGE_LP_Y l) x.val else s
  let s := s.when crc (State.rgeCrc l)
  let lost := bad || frozen
  let s := s.modLoop l (fun c => { c with
    frzVal := if x.got then x.val else c.frzVal, frz := if x.got then frz else c.frz
    lastOk := !lost, good := if lost then 0 else c.good + 1 })
  let s := (s.setBit (RGE_LP_STAT l) 4 lost).setBit (RGE_LP_STAT l) 5 (!lost && x.qual % 4 == 3)
  (s, x.val, lost, frozen && !bad)

/-- Take the feed-forward source of `ff_kind` 1 (R378). -/
def State.takeFf (l k : Nat) (crc : Bool) (s : State) : State :=
  if s.fld (RGE_LP_CFG l) 12 11 ≠ 1 then s.setBit (RGE_LP_STAT l) 6 false else
  let x := s.sense (s.fld (RGE_LP_CFG l) 2 1) (s.rd (RGE_LP_FF_SRC l)) (s.loopRef l) k
  let bad := x.bad || crc || bitAt x.qual 4
  let s := s.when crc (State.rgeCrc l)
  let s := s.setBit (RGE_LP_STAT l) 6 bad
  if bad then s else s.modLoop l (fun c => { c with ff := x.val })

/-- The state a cycle runs in (R383). -/
def State.loopMove (l : Nat) (lost frozen : Bool) (s : State) : State :=
  match s.loopState l with
  | 0 =>
    let s := if lost then (s.spTo l (s.rd (RGE_LP_U l))) else s
    if !lost && s.bit (RGE_LP_CFG l) 5 then s.enterClosed l true else s.setLoop l 1
  | 2 => if lost then s.enterHeld l (if frozen then 2 else 1) else s
  | 3 => (s.autoResume l).fallback l
  | 4 => s.autoResume l
  | _ => s

/-- The first good feedback gives sp and the target (R384). -/
def State.firstFeedback (l : Nat) (y : F32) (lost : Bool) (s : State) : State :=
  if lost || (s.loopOf l).spTaken then s
  else ((s.spTo l y).setReg (RGE_LP_TARGET l) y).modLoop l (fun x => { x with spTaken := true })

/-- Move the output towards `u_fb` (R382). -/
def State.rampFb (l : Nat) (t : F32) (s : State) : State :=
  let u := s.rd (RGE_LP_U l)
  let to_ := s.rd (RGE_LP_UFB l)
  let step := fMul (s.rd (RGE_LP_FBRATE l)) t
  let d := fSub to_ u
  let u := if fIsZero (s.rd (RGE_LP_FBRATE l)) || fLe (fAbs d) step then to_ else fAdd u (if fSign d then fNeg step else step)
  (s.setReg (RGE_LP_U l) u).setBit (RGE_LP_STAT l) 3 false

/-- The CLOSED cycle: initialisation (R380), or the model of R381, the profile and the control law. -/
def State.closedCycle (l : Nat) (y t : F32) (s : State) : State :=
  let x := s.loopOf l
  if x.renew then
    let s := if x.toY then s.spTo l y else s.runProfile l t
    let s := (s.loopInit l y).modLoop l (fun c => { c with renew := false, yHat := y, impl := 0 })
    ((s.setReg (RGE_LP_RESID l) 0).setBit (RGE_LP_STAT l) 7 false).setBit (RGE_LP_STAT l) 3 false
  else
    let (s, imp) := s.plausible l y t
    if imp && s.bit (RGE_LP_CFG l) 7 then (s.enterHeld l 3).setBit (RGE_LP_STAT l) 3 false
    else (s.runProfile l t).control l y t

/-- The output of a cycle by its state. -/
def State.loopOutput (l : Nat) (y t : F32) (lost : Bool) (s : State) : State :=
  match s.loopState l with
  | 1 =>
    let s := if s.bit (RGE_LP_CFG l) 3 then (if lost then s else s.spTo l y) else s.runProfile l t
    let (u, sat) := s.limitU l (s.rd (RGE_LP_UMAN l))
    let s := (s.setReg (RGE_LP_U l) u).showSat l sat
    if lost then s else s.loopInit l y
  | 2 => s.closedCycle l y t
  | 4 => s.rampFb l t
  | _ => s.setBit (RGE_LP_STAT l) 3 false

/-- The quality byte of the output point (R385). -/
def State.loopQual (s : State) (l fbq : Nat) : Nat :=
  let test := b2n (bitAt fbq 2) * 4
  test + match s.loopState l with
  | 2 => if s.bit (RGE_LP_STAT l) 5 || (s.bit (RGE_LP_STAT l) 7 && !s.bit (RGE_LP_CFG l) 7) then 3 else 0
  | 3 => 3
  | 4 => 3 + 64
  | _ => 0

/-- Write the output point and request its publication (R385, R386). -/
def State.loopWrite (l k fbq : Nat) (s : State) : State :=
  let u := s.rd (RGE_LP_U l)
  let q := s.loopQual l fbq
  let out := s.rd (RGE_LP_OUT l)
  let ref := s.loopRef l
  let sec := s.time.sec / 2 ^ 32 * 2 ^ 32 + s.recWord ref k 3
  let s := s.enginePoint (bits out 22 0) u q 6 (s.loopOf l).owner sec (s.recWord ref k 2 % 2 ^ 30) 0
  let want := match (s.loopOf l).pub with
    | none => true
    | some (up, uq) => fLt (s.rd (RGE_LP_PUBDB l)) (fAbs (fSub u up)) || q != uq
  if s.bit (RGE_LP_CFG l) 6 && want then
    let (s, res) := s.pubRequest (bits out 31 24) false false none
    if res = 0 then s.modLoop l (fun x => { x with pub := some (u, q) })
    else (s.inc (RGE_LP_NOPUB l)).evt (RGE_LP_EVT l) 9
  else s

/-- One cycle of loop `l` at grid sequence `k`; `crc` and `ffCrc`: the transfers failed their CRC (R388). -/
def State.runLoop (l k : Nat) (crc ffCrc : Bool) (s : State) : State :=
  let t := s.loopT l k
  let fbq := (s.sense (s.fld (RGE_LP_CFG l) 14 13) (s.rd (RGE_LP_FB_SRC l)) (s.loopRef l) k).qual
  let (s, y, lost, frozen) := s.takeFeedback l k crc
  let s := s.takeFf l k ffCrc
  let s := if (s.loopOf l).back ∧ lost = false then
      s.modLoop l (fun x => { x with back := false, d := 0, yPrev := y }) else s
  let s := s.firstFeedback l y lost
  let s := s.loopMove l lost frozen
  let s := s.loopOutput l y t lost
  let s := if s.loopState l = 3 then s.modLoop l (fun x => { x with heldFor := x.heldFor + 1 }) else s
  let s := s.setBit (RGE_LP_STAT l) 8 (decide (s.rd (RGE_LP_SP l) ≠ s.rd (RGE_LP_TARGET l)))
  (s.loopWrite l k fbq).inc (RGE_LP_CYCLES l)

/-- The loop reads a PSU source. -/
def State.loopPsu (s : State) (l : Nat) : Bool :=
  decide (s.fld (RGE_LP_CFG l) 14 13 ≤ 1) || (s.fld (RGE_LP_CFG l) 12 11 == 1 && decide (s.fld (RGE_LP_CFG l) 2 1 ≤ 1))

/-- Enable (R384): u from the output point or 0; `u_man` takes u. -/
def State.loopStart (l : Nat) (s : State) : State :=
  let p := s.fld (RGE_LP_OUT l) 22 0
  let u := if s.bit (RGE_LP_CFG l) 4 && bitAt (s.pointWord p 7) 31 && s.pointType p == 6 then s.pointWord p 0
    else (s.limitU l 0).1
  let owner := (s.loopOf l).owner
  let s := { s with loops := s.loops.put l { owner := owner }, rgeQ := s.rgeQ.put l [] }
  ((s.setReg (RGE_LP_U l) u).setReg (RGE_LP_UMAN l) u).setReg (RGE_LP_INTEG l) 0

/-- What a change of initialises a CLOSED loop (R380). -/
def State.loopGains (s : State) (l : Nat) : List Nat :=
  let cfg := s.rd (RGE_LP_CFG l)
  [s.rd (RGE_LP_KP l), s.rd (RGE_LP_KD l), s.rd (RGE_LP_KFF l), bits cfg 12 11, bits cfg 14 13, bits cfg 2 1,
    s.rd (RGE_LP_FB_SRC l), s.rd (RGE_LP_FF_SRC l)]

/-- What an activation does to the loop (R380, R383); `old` holds the values before it. -/
def State.rgeTurn (l : Nat) (old s : State) : State :=
  if s.bit (RGE_LP_CFG l) 31 = false then s
  else if old.bit (RGE_LP_CFG l) 31 = false then s.loopStart l
  else if s.loopState l = 2 ∧ old.loopGains l ≠ s.loopGains l then s.modLoop l (fun x => { x with renew := true, toY := false })
  else s

/-- The work of a cycle: a point source of another type refuses the configuration (R375). -/
def State.loopWork (l : Nat) (c : Close) (crc ffCrc : Bool) (s : State) : State :=
  if s.fld (RGE_LP_CFG l) 14 13 = 2 ∧ s.srcBad 2 (s.rd (RGE_LP_FB_SRC l)) c.ref then
    (s.setBit (RGE_LP_STAT l) 9 true).evt (RGE_LP_EVT l) 7
  else
    let s := s.runLoop l c.seq crc ffCrc
    s.when (decide (c.at_ + 25 * tUs < s.clk)) (State.inc RGE_LATE)

/-- LOOP_CYCLE (R372, R373): the oldest closing, once the PSU set it needs is in or 15 µs have gone. -/
def State.loopCycle (l : Nat) (crc ffCrc : Bool) (s : State) : State :=
  match s.rgeQ.at' l with
  | [] => s
  | c :: rest =>
    if s.power.cx = false then s
    else if ((s.viewAt 15 l c.ref c.seq).getD s).loopPsu l && !s.psuReady c.ref c.seq && decide (s.clk < c.at_ + 15 * tUs) then s
    else
      let s := { s with rgeQ := s.rgeQ.put l rest }
      if s.bit RGE_CTL 0 = false ∨ s.loopState l = 5 ∨ s.refState c.ref = 0 then s
      else (s.onPoint 15 l c.ref c.seq (State.rgeTurn l) (fun s => s.bit (RGE_LP_CFG l) 31)
        (fun s => s.bit (RGE_LP_STAT l) 9) (fun s => (s.loopWork l c crc ffCrc, ()))).1

def execLoopCycle (l : Fin 32) (crc ffCrc : Bool) (s : State) : Host.Outcome State Fault Refusal :=
  .next (s.loopCycle l.val crc ffCrc)

/-! ### Watchdog, configuration, reset -/

/-- RGE_WATCHDOG (R383, R388). -/
def State.rgeWatchdog (s : State) : State :=
  if s.power.cx = false then s else
  let s := s.each ((List.range 32).filter (fun l => s.bit (RGE_LP_CFG l) 31 && s.loopState l != 0)) (fun l s => s.setLoop l 5)
  ((s.evt RGE_CHK_STAT 1).ledger 3 15 0 RGE_CHK_STAT 1 []).blockFault 15 5 0

def execRgeWatchdog (s : State) : Host.Outcome State Fault Refusal := .next s.rgeWatchdog

/-- A gain or limit that must be a finite number, and not negative unless `neg`. -/
def numBad (neg : Bool) (x : F32) : Bool := !fFinite x || (!neg && fSign x && !fIsZero x)

/-- The configuration of a loop is refused (R375, R379, R387). -/
def State.loopBad (s : State) (l : Nat) : Bool :=
  let cfg := s.rd (RGE_LP_CFG l)
  let ref := bits cfg 30 27
  s.srcBad (bits cfg 14 13) (s.rd (RGE_LP_FB_SRC l)) ref
    || bits cfg 12 11 == 3 || bits cfg 2 1 == 3
    || (bits cfg 12 11 == 1 && s.srcBad (bits cfg 2 1) (s.rd (RGE_LP_FF_SRC l)) ref)
    || numBad false (s.rd (RGE_LP_DALPHA l)) || !fLt (s.rd (RGE_LP_DALPHA l)) fOne
    || [RGE_LP_KP l, RGE_LP_KI l, RGE_LP_KD l, RGE_LP_KFF l, RGE_LP_UMIN l, RGE_LP_UMAX l].any (fun a => numBad true (s.rd a))
    || [RGE_LP_VMAX l, RGE_LP_AMAX l, RGE_LP_JMAX l].any (fun a => numBad false (s.rd a))
    || fLt (s.rd (RGE_LP_UMAX l)) (s.rd (RGE_LP_UMIN l))
    || (List.range 32).any (fun j => j != l && s.bit (RGE_LP_CFG j) 31 && s.fld (RGE_LP_OUT j) 22 0 == s.fld (RGE_LP_OUT l) 22 0)

/-- A commit on loop `l` by `slice` has been activated; `x` holds the values before it. -/
def State.rgeActivated (x : Prior) (l slice : Nat) (s : State) : State :=
  let on := s.bit (RGE_LP_CFG l) 31
  let was := (s.setWords x.words).bit (RGE_LP_CFG l) 31 && !s.bit (RGE_LP_STAT l) 9
  let bad := on && s.loopBad l
  let s := (s.setBit (RGE_LP_STAT l) 9 bad).when bad (State.evt (RGE_LP_EVT l) 7)
  let s := s.modLoop l (fun x => { x with owner := slice })
  if on = false then ({ s with rgeQ := s.rgeQ.put l [] }.setPriors 15 l []).setLoop l 0
  else s.turn 15 l x (s.rgeQ.at' l) was (State.rgeTurn l)

/-- A reset of the instance (R35): as at enable. -/
def State.rgeReset (l : Nat) (s : State) : State :=
  if s.bit (RGE_LP_CFG l) 31 then (((s.setPriors 15 l []).setLoop l 0).setFld (RGE_LP_STAT l) 8 3 0).loopStart l else s

/-- Reference `ref` has gone OFF: its loops restart D and y_prev when it returns (R389). -/
def State.rgeRefOff (ref : Nat) (s : State) : State :=
  s.each ((List.range 32).filter (fun l => s.loopRef l == ref)) (fun l s => s.modLoop l (fun x => { x with back := true }))

end Sys2Proof.Machine
end

