-- ==== Sys2Proof/Machine/Shadow.lean ====
section
/-!
DEFINITION. Instances and their shadows (R31, R34, R47–R52): which registers an instance has, which are pending, and the
discarding of a waiting commit.
-/

namespace Sys2Proof.Machine

/-- Base of a block's window (R30). -/
def blockBase (b : Nat) : Nat := 0x6000000000 + b * 0x100000

/-- Instances of a block with RWC fields. -/
def instCount : Nat → Nat
  | 2 => 16
  | 3 => 96
  | 4 => 512
  | 5 => 128
  | 6 => 16
  | 7 => 256
  | 9 => 264
  | 13 => 16
  | 14 => 8
  | 15 => 32
  | _ => 0

/-- Every offset of an index family. -/
def dimOffs : List (Nat × Nat) → List Nat
  | [] => [0]
  | (st, cnt) :: rest => (List.range cnt).flatMap (fun i => (dimOffs rest).map (fun o => i * st + o))

/-- Offsets of the RWC registers of instance `i` of a block: the first index of an RWC row is its instance. -/
def rwcOffs (b i : Nat) : List Nat :=
  ((rowsOf b).filter (fun r => r.acc == .RWC)).flatMap (fun r => match r.dims with
    | [] => if i = r.first then [r.off] else []
    | (st, cnt) :: rest =>
      if r.first ≤ i ∧ i < r.first + cnt then (dimOffs rest).map (fun o => r.off + (i - r.first) * st + o) else [])

/-- Addresses of the RWC registers of an instance. -/
def rwcAddrs (b i : Nat) : List Nat := (rwcOffs b i).map (blockBase b + ·)

/-- The instance an RWC register at an offset belongs to. -/
def instOf (b off : Nat) : Nat :=
  match ((rowsOf b).filter (fun r => r.acc == .RWC)).find? (·.covers off) with
  | some r => match r.dims with
    | [] => r.first
    | (st, _) :: _ => r.first + (off - r.off) / st
  | none => 0

/-- `<BLK>_COMMIT_STAT`, `<BLK>_STAGE_ERR` and `<BLK>_PENDING` of a block (R34). -/
def commitStat (b : Nat) : Nat := blockBase b + 0x7F004
def stageErr (b : Nat) : Nat := blockBase b + 0x7F008
def pendingReg (b i : Nat) : Nat := blockBase b + 0x7F040 + 4 * (i / 32)

def State.isPending (s : State) (b i : Nat) : Bool := s.bit (pendingReg b i) (i % 32)
def State.setPending (b i : Nat) (v : Bool) (s : State) : State := s.setBit (pendingReg b i) (i % 32) v

def State.stagedOf (s : State) (b i : Nat) : Staged := s.staged.at' (stagedKey b i)
def State.setStaged (b i : Nat) (x : Staged) (s : State) : State := { s with staged := s.staged.put (stagedKey b i) x }

/-- A commit covers the instance (R48). -/
def Staged.locked (x : Staged) : Bool := x.waits.any (·.found) || x.coord
def State.locked (s : State) (b i : Nat) : Bool := (s.stagedOf b i).locked

/-- Show whether a commit of the block waits (R34). -/
def State.showBusy (b : Nat) (s : State) : State :=
  let w := s.staged.any (fun e => e.1 / 65536 == b && !e.2.waits.isEmpty)
  let x := s.bit SYS_XCOMMIT_STAT 0 && bitAt s.xcommit.blocks b
  s.setBit (commitStat b) 0 (w || x)

/-- A coordinated commit ends without activating: locked instances are released, their shadows stay pending (R51, R52). -/
def State.xcommitRelease (s : State) : State :=
  let s := s.each (s.staged.map (·.1)) (fun k s => { s with staged := s.staged.mod k (fun x => { x with coord := false }) })
  let s := s.setBit SYS_XCOMMIT_STAT 0 false
  s.each ((List.range 24).filter hasRwc) State.showBusy

/-- A coordinated commit whose reference is disabled is aborted (R52). -/
def State.xcommitAbort (s : State) : State :=
  if s.bit SYS_XCOMMIT_STAT 0 then (s.xcommitRelease).setBit SYS_XCOMMIT_STAT 2 true else s

/-! ### Bindings (R47) -/

/-- The configuration word that holds an instance's enable and reference. -/
def cfgWord (b i : Nat) : Nat :=
  match b with
  | 2 => WEFT_REF_CFG i
  | 3 => SIE_CH_CFG i
  | 4 => FDC_CH_CFG i
  | 5 => PSU_IN_CFG i
  | 6 => DZE_Z_CFG i
  | 7 => XEC_SL_CFG i
  | 9 => PUB_ENT_CFG i
  | 13 => CAS_FOLLOW i
  | 14 => TAE_REC_CFG i
  | _ => RGE_LP_CFG i

/-- The reference an instance is bound to. -/
def State.refBind (s : State) (b i : Nat) : Nat := if b = 2 ∨ b = 13 then i else s.fld (cfgWord b i) 30 27

/-- The instance is enabled. -/
def State.instOn (s : State) (b i : Nat) : Bool := s.bit (cfgWord b i) (if b = 2 then 0 else 31)

/-- A grid point of `r` is issued: commits it comes too early for are moved to a later one (R47, R50). -/
def State.stagingIssue (r : Nat) (s : State) : State :=
  let early := fun (t : Nat) => decide (s.clk < t + tUs)
  let idx := s.fld (WEFT_REF_ANGLE_LO r) 15 9
  let x := s.xcommit
  let moved : Bool := s.bit SYS_XCOMMIT_STAT 0 && x.ref == r && early x.armedAt && (x.mode == 0 || idx == x.gp)
  let s := s.each s.staged (fun e s =>
    let b := e.1 / 65536
    let hit := e.2.waits.any (fun w => early w.at_) && s.refBind b (e.1 % 65536) == r
    s.when (hit || (moved && e.2.locked && bitAt x.blocks b)) (State.evt (stageErr b) 2))
  s.when moved (fun s => s.setBit SYS_XCOMMIT_STAT 16 true)

/-- An entry that covers nothing any more returns to its default. -/
def State.tidyStaged (b i : Nat) (s : State) : State :=
  let x := s.stagedOf b i
  if !x.waits.isEmpty ∨ x.coord then s else s.setStaged b i {}

/-- Shadows of an instance return to the active values, and every commit waiting on it is discarded (R35, R52, R216,
R223), also one that found nothing pending. A commit of all instances goes on with its others; one whose last waiting
instance is discarded after others have activated never completes (DESIGN CHOICE: R525 completes it at the last
activation, and says that a discarded commit does not complete). -/
def State.shadowReset (b i : Nat) (s : State) : State :=
  let s := s.each (rwcAddrs b i) (fun a s => s.setReg (shadow a) (s.rd a))
  ((s.setPending b i false).setStaged b i {}).showBusy b

/-- Discard the commits waiting on an instance with its shadows; an instance without one keeps its pending shadows. -/
def State.discardCommit (b i : Nat) (s : State) : State :=
  if s.locked b i || !(s.stagedOf b i).waits.isEmpty then s.shadowReset b i else s

end Sys2Proof.Machine
end

