-- ==== Sys2Proof/Machine/CensusUnit.lean ====
section
/-!
DEFINITION. The census (R94–R102).
-/

namespace Sys2Proof.Machine

/-! ### What a census holds (R94, R98) -/

/-- The offsets of a register family, from the counts of its indices. -/
def dimOffsets : List (Nat × Nat) → List Nat
  | [] => [0]
  | (st, cnt) :: rest =>
    let inner := dimOffsets rest
    (List.range cnt).flatMap (fun i => inner.map (fun o => i * st + o))

/-- Offsets of a block's census counters, ascending. -/
def censusOffsets (b : Nat) : List Nat :=
  ((rowsOf b).filter (·.cen)).flatMap (fun r => (dimOffsets r.dims).map (r.off + ·)) |>.mergeSort (· ≤ ·)

/-- The latched section of a block. -/
def State.cenSection (s : State) (b : Nat) : CenSection :=
  { blk := b, entries := (censusOffsets b).map (fun o => (o, s.rd (blkBase b + o))) }

/-- Blocks of R30 that have census counters. -/
def censusBlocks : List Nat := (List.range 24).filter (fun b => (rowsOf b).any (·.cen))

/-- The absent-block bitmap: blocks whose domain is off (R98). -/
def State.absentBlocks (s : State) : Nat := maskOf ((List.range 24).map (fun b => !s.blkOn b))

/-- A reference's angle at this instant: that of its last grid point plus the part of the interval run since. -/
def State.angleNow (s : State) (r : Nat) : Nat :=
  let a := s.rd (WEFT_REF_ANGLE_LO r) + 2 ^ 32 * s.fld (WEFT_REF_ANGLE_HI r) 15 0
  let w := s.weftOf r
  let last : Int := (w.next : Int) - w.interval
  let run := (((s.wallNs : Int) - w.offset) * 2 ^ 8 - last).toNat
  (a + min 511 (512 * run / max w.interval 1)) % 2 ^ 48

/-- The reference section: angle, state, frequency and sequence of each reference; an OFF reference reads zero. -/
def State.cenAngles (s : State) : List (Nat × Nat × Nat × Nat) :=
  (List.range 16).map (fun r => if s.refState r = 0 then (0, 0, 0, 0)
    else (s.angleNow r, s.refState r, s.rd (WEFT_REF_FREQ r), (s.weftOf r).seq))

/-- Latch: every powered block's counters at this instant (R94), or refuse while an image is being written (R99). -/
def State.cenLatch (number : Nat) (stack grid late : Bool) (lateness : Nat) (s : State) : State :=
  if s.bit CEN_STAT 1 then (s.evt CEN_ERR 2).inc CEN_REFUSED
  else
    let img : CenImage := {
      number := number, stack := stack, late := late, grid := grid, sec := s.time.sec, ns := s.time.ns
      lateness := min lateness (2 ^ 32 - 1), ref := s.cen.ref, gp := s.cen.gp, absent := s.absentBlocks
      angles := s.cenAngles, sections := (censusBlocks.filter s.blkOn).map s.cenSection }
    let s := { s with cen := { s.cen with image := some img } }
    let s := (s.setReg CEN_LAT_NS img.ns).setReg CEN_LAT_SEC (img.sec % 2 ^ 32)
    let s := (s.setReg CEN_LATE img.lateness).setBit CEN_STAT 1 true
    ((s.setBit CEN_STAT 2 false).setBit CEN_STAT 3 late).setBit CEN_STAT 4 stack

/-! ### Commands (R99, R102) -/

/-- Arm a census. -/
def State.cenSet (c : Census) (s : State) : State :=
  { s with cen := { c with slot := s.cen.slot, image := s.cen.image, now := s.cen.now, armedAt := s.clk } }.setBit CEN_STAT 0 true

/-- An arm of `CEN_GO` (R99). -/
def State.censusArm (s : State) : State :=
  if s.bit CEN_CTL 0 = false then s
  else if s.bit CEN_STAT 0 then s.evt CEN_ERR 4
  else
    let number := s.fld CEN_SCHED 30 16
    let ref := s.fld CEN_SCHED 7 4
    let gp := s.fld CEN_SCHED 14 8
    if s.bit CEN_SCHED 0 then
      if s.refState ref = 0 then s.evt CEN_ERR 1
      else s.cenSet { grid := true, ref := ref, gp := gp, number := number }
    else
      let at_ := s.cenInstant (s.rd CEN_AT_SEC) (s.rd CEN_AT_NS)
      if at_ < s.wallNs then s.evt CEN_ERR 0
      else s.cenSet { sec := s.rd CEN_AT_SEC, ns := s.rd CEN_AT_NS, number := number }

def execCensusArm (w : Who) (s : State) : Host.Outcome State Fault Refusal := .next (s.gateSup w CEN_GO State.censusArm)

/-- `fire_now`: a census latches at the next tick (R99); a census that is armed stays armed. (DESIGN CHOICE: with `enable` = 0
it is ignored, as an arm is.) -/
def State.censusFireNow (s : State) : State :=
  if s.bit CEN_CTL 0 = false then s else { s with cen := { s.cen with now := some (s.fld CEN_SCHED 30 16) } }

/-- The tick after a write of `fire_now`: latch in time form, not late (R99). -/
def State.censusTick (s : State) : State :=
  match s.cen.now with
  | some n => { s with cen := { s.cen with now := none } }.cenLatch n false false false 0
  | none => s

def execCensusFireNow (w : Who) (s : State) : Host.Outcome State Fault Refusal :=
  .next (s.gateSup w CEN_GO State.censusFireNow)

/-- An abort cancels the armed census (R102). -/
def State.censusAbort (s : State) : State :=
  if s.bit CEN_STAT 0 then (s.setBit CEN_STAT 0 false).evt CEN_ERR 3 else s

def execCensusAbort (w : Who) (s : State) : Host.Outcome State Fault Refusal :=
  .next (s.gateSup w CEN_GO State.censusAbort)

/-- The armed instant has come (R96, R99): the lateness in ns when it has. -/
def State.cenDue (s : State) : Option (Bool × Nat) :=
  let c := s.cen
  if c.grid then
    let w := s.weftOf c.ref
    let idx := s.fld (WEFT_REF_ANGLE_LO c.ref) 15 9
    if c.armedAt + tUs ≤ w.lastIssue ∧ (idx = c.gp ∨ c.skipped) then some (decide (idx ≠ c.gp), 0) else none
  else
    let at_ := s.cenInstant c.sec c.ns
    if at_ ≤ s.wallNs then some (c.stepped, if c.stepped then s.wallNs - at_ else 0) else none

/-- CENSUS_LATCH: at the instant of the armed census every powered block latches (R94, R99). -/
def State.censusLatch (s : State) : State :=
  if s.bit CEN_STAT 0 = false ∨ s.power.nx = false then s else
  match s.cenDue with
  | none => s
  | some (late, by_) => (s.setBit CEN_STAT 0 false).cenLatch s.cen.number s.cen.stack s.cen.grid late by_

def execCensusLatch (s : State) : Host.Outcome State Fault Refusal := .next s.censusLatch

/-! ### The image (R97, R98) -/

/-- Octets of consecutive little-endian words. -/
def words (l : List Nat) : List Byte := l.flatMap (bytesLE 4)

/-- The image from offset 0x40 on: reference section and block sections. -/
def CenImage.body (c : CenImage) : List Byte :=
  words (c.angles.flatMap (fun a => [a.1 % 2 ^ 32, a.1 / 2 ^ 32 % 2 ^ 16 + a.2.1 * 2 ^ 16, a.2.2.1, a.2.2.2]))
    ++ words (c.sections.flatMap (fun x =>
      [x.blk + 2 ^ 8, x.entries.length] ++ x.entries.flatMap (fun e => [e.1, e.2])))

/-- The 16 header words; the last is the completion word. -/
def CenImage.header (c : CenImage) : List Nat :=
  let b := c.body
  [ 0x43454E53,
    c.number + b2n c.stack * 2 ^ 16 + b2n c.late * 2 ^ 17 + b2n c.grid * 2 ^ 18,
    c.ns, c.sec % 2 ^ 32, c.sec / 2 ^ 32, c.lateness, if c.grid then c.ref + c.gp * 2 ^ 4 else 0,
    0x40 + b.length, c.sections.length, c.absent, crc32 b, 0, 0, 0, 0, c.number + 2 ^ 31 ]

/-- CEN completes the image in its slot, the completion word last (R97). -/
def State.censusComplete (s : State) : State :=
  match s.cen.image with
  | none => s
  | some c =>
    if s.power.nx = false ∨ s.power.mem = false then s else
    let a := s.base CEN_BUF_LO 23 + s.cen.slot * 0x400000
    let h := c.header
    let s := s.dmaWords (a + 0x3C) [0]
    let s := (s.dmaWords a (h.take 15)).dma (a + 0x40) c.body
    let s := s.dmaWords (a + 0x3C) (h.drop 15)
    let slot := s.cen.slot
    let s := { s with cen := { s.cen with image := none, slot := 1 - slot } }
    let s := ((s.setBit CEN_STAT 1 false).setBit CEN_STAT 2 true).setFld CEN_STAT 5 5 slot
    (s.setFld CEN_STAT 31 16 c.number).inc CEN_COUNT

end Sys2Proof.Machine
end

