-- ==== Sys2Proof/Machine/Cx.lean ====
section
/-!
DEFINITION. The compute die's power (R17, R24, R26, R340, R510): what is lost with it, and its enable output.
-/

namespace Sys2Proof.Machine

/-- Blocks on the compute die (R17). -/
def cxBlocks : List Nat := [2, 3, 4, 5, 6, 7, 8, 14, 15, 16]

/-- A register of one of the blocks, its shadows and banks included. -/
def regOf (bs : List Nat) (a : Nat) : Bool :=
  let a := a % 2 ^ 44
  isReg a && bs.contains (blkOf a)

/-- A memory address on the compute die. -/
def onDie (a : Nat) : Bool := decide (0x200000000 ≤ a ∧ a < 0x4800000000)

/-- A counter, which only a cold start clears (R93, R140, R172, R205, R236, R265, R371, R390, R408 and others). -/
def isCounter (a : Nat) : Bool :=
  let a := a % 2 ^ 44
  isReg a && (match rowAt (blkOf a) (offOf a) with
    | some r => r.cen
    | none => false)

/-- The registers of some blocks return to their reset values. -/
def State.resetBlocks (bs : List Nat) (s : State) : State := { s with regs := s.regs.filter (fun e => !regOf bs e.1) }

/-- The compute die is as at power-up: registers, on-die memory and working state of its blocks. Counters stay: only a cold
start clears them (DESIGN CHOICE: how they outlast the loss of CX the spec does not say). -/
def State.cxLost (s : State) : State :=
  { s with
    regs := s.regs.filter (fun e => !regOf cxBlocks e.1 || isCounter e.1)
    prior := []
    mem := s.mem.filter (fun c => !onDie c.1)
    poison := s.poison.filter (fun x => !onDie (8 * x))
    power := { s.power with cxConf := false }
    staged := s.staged.filter (fun e => !cxBlocks.contains (e.1 / 65536))
    weft := []
    pairs := []
    slices := []
    closedGp := []
    closedSeq := []
    grants := []
    xfer := none
    sieIn := []
    hotFrom := none
    coolFrom := none
    sie := []
    openPts := []
    fdcQ := []
    psuQ := []
    dzeQ := []
    fdc := []
    psu := []
    dze := []
    watch := []
    subs := []
    tae := []
    taeQ := []
    rgeQ := []
    loops := []
    lge := [] }

/-- XEC releases slice 0 alone, as a standard pass on pair 0 at its entry (R340, R492). -/
def State.slice0Start (s : State) : State := (s.setLife 0 1).setRun 0 1

/-- CX_EN rises and VDD_CX comes up (R510): the pairs pass their self-tests, slice 0 is released. -/
def State.cxRaise (s : State) : State :=
  let s := { s with power := { s.power with cxOffAt := none } }
  if s.power.cxEn then s else
  let s := { s with power := { s.power with cx := true, cxEn := true, cxEnAt := s.clk } }.drive .cxEn true
  (((s.cxLost.setBit SYS_PWR_STAT 1 true).slice0Start).showSpare).healthUpdate

/-- CX_EN falls (R510). -/
def State.cxFall (s : State) : State :=
  let s := { s with power := { s.power with cx := false, cxEn := false, cxOffAt := none } }.drive .cxEn false
  ((((s.cxLost.innerFlush).cenRefOff).setBit SYS_PWR_STAT 1 false).xcommitAbort).healthUpdate

/-- CX_EN is to fall 100 ms from now (R510). -/
def State.cxOffSoon (s : State) : State := { s with power := { s.power with cxOffAt := some (s.clk + 100 * tMs) } }

end Sys2Proof.Machine
end

