-- ==== Sys2Proof/Machine/Xec.lean ====
section
/-!
DEFINITION. Pairs (R175–R181), passes (R182–R191), the ladder (R192–R194), the instructions PASS.END, PASS.INFO and MARK.WAIT
(R203, R204).
-/

namespace Sys2Proof.Machine

/-! ### Slice faults (R189) -/

/-- Stop a slice in FAULT. -/
def State.stopSlice (n : Nat) (s : State) : State :=
  let s := (s.offPair n).modSl n (fun sl => { sl with pass := none, held := none, waitAt := none })
  (s.setRun n 6).showClassA

/-- A slice fault: FAULT, `slice_fault`, a ledger record, and health for class A. -/
def State.sliceFault (n : Nat) (s : State) : State :=
  let s := ((s.stopSlice n).evt (XEC_SL_EVT n) 2).evt XEC_EVT 3
  let s := (s.inc XEC_SF_CNT).ledger (if s.slCrit n = 0 then 6 else 3) 7 n (XEC_SL_EVT n) 2 []
  s.healthUpdate

/-- A slice fault is due (R189): two consecutive misses of a class A slice, 16 of another, and not in FAULT yet. -/
def State.faultDue (s : State) (n : Nat) : Bool :=
  s.slEn n && s.run n != 6 && decide ((if s.slCrit n = 0 then 2 else 16) ≤ (s.sl n).cmiss)

/-- SLICE_FAULT: of a slice that is released and dispatched, or drains. -/
def execSliceFault (n : Fin 256) (s : State) : Host.Outcome State Fault Refusal :=
  .next (if s.faultDue n.val ∧ (s.life n.val = 1 ∨ s.life n.val = 2 ∨ s.life n.val = 4) then
      (s.sliceFault n.val).dispatch (s.slPair n.val) else s)

/-! ### Pairs (R175–R179, R181) -/

/-- Enabled slices hosted by a pair. -/
def State.hosted (s : State) (p : Nat) : List Nat := (List.range 256).filter (fun n => s.slEn n && s.slPair n == p)

/-- Put a pair's state and show the spare. -/
def State.setPair (p st : Nat) (s : State) : State := (s.setFld (XEC_PAIR_STAT p) 2 0 st).showSpare

/-- Some pair is SPARE. -/
def State.spareValid (s : State) : Bool := s.bit XEC_STAT 2

/-- A slice of a pair that no spare replaces goes to FAULT (R179, R235): its transfer or arming is abandoned, and its life is
RUNNABLE, in which a slice in FAULT is quiesced (R220; DEDUCED); a quiesce in progress goes on. -/
def State.strandSlice (n : Nat) (s : State) : State :=
  let l := s.life n
  let busy := (4 ≤ l ∧ l ≤ 6) ∨ (s.sl n).moveTo.isSome
  let s := if busy then (s.xferEnd n).lifeEvt n 6 else if l = 7 then s.lifeBusy n false else s
  let s := s.modSl n (fun sl => { sl with moveTo := none, armRel := none })
  let s := if l = 2 then s else s.setLife n 1
  if s.slCrit n = 0 then s.sliceFault n else s.stopSlice n

/-- The slices of an isolated pair go to FAULT, and the pair to its self-test. -/
def State.strandPair (p : Nat) (s : State) : State :=
  (s.each (s.hosted p) State.strandSlice).setPair p 4

/-- While no spare is valid, isolated pairs whose slices wait for one get none (R179). -/
def State.strand (s : State) : State :=
  if s.spareValid then s
  else s.each ((List.range 12).filter (fun p => s.pairState p == 3)) (fun p s => (s.strandPair p).evt XEC_EVT 2)

/-- Isolation of a pair by a mismatch (`stall` false) or a stall (R176, R178, R179): without a valid spare its slices go
to FAULT. A pair with no slices to restart starts its self-test at once. -/
def State.isolate (p : Nat) (stall : Bool) (s : State) : State :=
  let s := s.suspend p
  let s := ((s.setPair p 3).evt (XEC_PAIR_EVT p) (if stall then 1 else 0)).inc (XEC_PAIR_MISMATCH p)
  let s := s.modPr p (fun q => { q with isolated := q.isolated + 1, isoAt := s.clk })
  let s := if stall then s else s.evt XEC_EVT 0
  let s := s.ledger (if stall then 3 else 6) 7 p (XEC_PAIR_EVT p) (if stall then 1 else 0) []
  let l := s.hosted p
  let s := s.each l (fun n s => s.modSl n (fun sl => { sl with capture := none }))
  let s := if l.isEmpty then s.setPair p 4 else s
  (s.strand).healthUpdate

/-- LOCKSTEP_MISMATCH: only with `lockstep` = 1, on an ACTIVE pair or the SPARE. -/
def State.mismatch (p : Nat) (s : State) : State :=
  if s.power.cx ∧ s.bit XEC_CTL 4 ∧ (s.pairState p = 1 ∨ s.pairState p = 2) then s.isolate p false else s

/-- PAIR_STALL: no instruction retired for 10 µs in a running pass, MARK.WAIT excepted. -/
def State.pairStall (p : Nat) (s : State) : State :=
  let r := (s.pr p).running
  if s.power.cx ∧ s.pairState p = 1 ∧ r ≠ 0 ∧ (s.sl (r - 1)).waitAt = none then s.isolate p true else s

/-- Rewrite the `pair` field of a slice, active and shadow. -/
def State.hostOn (n p : Nat) (s : State) : State :=
  (s.setFld (XEC_SL_CFG n) 22 19 p).setFld (shadow (XEC_SL_CFG n)) 22 19 p

/-- The kind 3 grant of a slice moves to page index `i`. -/
def State.moveWindow (n i : Nat) (s : State) : State :=
  match s.windowGrant n with
  | some (k, g) => { s with grants := s.grants.put k { g with first := i } }
  | none => s

/-- A slice of an isolated pair comes to the spare (R181, R235): its image is loaded, an interrupted pass is released
again with the same number and deadline. -/
def State.takeSlice (sp n : Nat) (s : State) : State :=
  let l := s.life n
  let s := if (s.sl n).moveTo.isSome then
      (((if l = 4 then s.setLife n (s.sl n).prevLife else s).xferEnd n).lifeEvt n 6).modSl n (fun sl => { sl with moveTo := none })
    else s
  let s := if l = 4 then s.passOver n else s
  let s := s.hostOn n sp
  let s := match s.windowGrant n with
    | some (_, g) => s.moveWindow n (256 * sp + g.first % 256)
    | none => s
  let s := (s.loadImage n).modSl n (fun sl => { sl with waitAt := none })
  let s := (s.evt (XEC_SL_EVT n) 3)
  if l = 2 then
    let s := s.modSl n (fun sl => { sl with pass := none, held := none, quiesceAt := none, capture := none })
    ((s.setLife n 3).setRun n 7).evt (XEC_SL_XEVT n) 0 |>.setBit (XEC_SL_XSTAT n) 12 false
  else match (s.sl n).pass with
    | some ps =>
      let s := s.modSl n (fun sl => { sl with
        pass := some { ps with restarted := true, started := false, running := false, execNs := 0, overrun := false } })
      (s.setRun n 1).setBit (XEC_SL_STAT n) 8 true
    | none => s

/-- SPARE_TAKEOVER: the spare becomes ACTIVE with the slices of isolated pair `p`, which starts its self-test. -/
def State.takeover (p : Nat) (s : State) : State :=
  if s.power.cx = false ∨ s.pairState p ≠ 3 ∨ s.spareValid = false then s else
  let sp := s.fld XEC_STAT 6 3
  let s := s.each (s.hosted p) (State.takeSlice sp)
  let s := ((s.setPair sp 1).setPair p 4).evt XEC_EVT 1
  ((s.strand).healthUpdate).dispatch sp

def execSpareTakeover (p : Fin 12) (s : State) : Host.Outcome State Fault Refusal := .next (s.takeover p.val)

/-- PAIR_SELF_TEST_DONE (R178): a pair isolated twice since the last start is taken as failed. -/
def State.selfTest (p : Nat) (pass : Bool) (s : State) : State :=
  if s.pairState p ≠ 4 then s
  else if pass ∧ (s.pr p).isolated ≤ 1 then
    let st := if s.bit XEC_CTL 3 ∧ s.spareValid = false then 2 else 0
    (((s.setPair p st).setBit (XEC_PAIR_STAT p) 16 true).evt (XEC_PAIR_EVT p) 2).healthUpdate
  else (((s.setPair p 5).setBit (XEC_PAIR_STAT p) 16 pass).evt (XEC_PAIR_EVT p) 3).healthUpdate

def execPairSelfTestDone (p : Fin 12) (pass : Bool) (s : State) : Host.Outcome State Fault Refusal :=
  .next (s.selfTest p.val pass)

/-- A pair command: its effect when the condition holds, else `cmd_rej` (R178). -/
def State.pairCmd (w : Who) (p : Nat) (ok : State → Bool) (st : Nat) (s : State) : State :=
  s.gateSup w (XEC_PAIR_CMD p) (fun s =>
    if ok s then (((s.setPair p st).strand).healthUpdate).dispatch p else s.evt (XEC_PAIR_EVT p) 4)

def execReadmit (w : Who) (p : Fin 12) (s : State) : Host.Outcome State Fault Refusal :=
  .next (s.pairCmd w p.val (fun s => s.pairState p.val == 0 && !s.spareValid) 2)
def execActivate (w : Who) (p : Fin 12) (s : State) : Host.Outcome State Fault Refusal :=
  .next (s.pairCmd w p.val (fun s => s.pairState p.val == 0) 1)
def execRelease (w : Who) (p : Fin 12) (s : State) : Host.Outcome State Fault Refusal :=
  .next (s.pairCmd w p.val (fun s => (s.pairState p.val == 1 && (s.hosted p.val).isEmpty) || s.pairState p.val == 2) 0)
def execRetest (w : Who) (p : Fin 12) (s : State) : Host.Outcome State Fault Refusal :=
  .next (s.pairCmd w p.val (fun s => s.pairState p.val == 0) 4)

/-! ### Releases and deadlines (R183, R185, R188) -/

/-- `TIME_MONO` in ns × 2^8. -/
def State.mono8 (s : State) : Nat := s.mono * 8 * 2 ^ 8

/-- Spacing of the free releases of a slice, ns × 2^8: P grid intervals at nominal frequency (R183). -/
def State.freeSpacing (s : State) (n : Nat) : Nat :=
  period (s.slClass n) * (10 ^ 9 * 2 ^ 25 / s.nominal (s.slRef n))

/-- FREE_PASS_RELEASE (R183): while the reference is OFF; the grid number runs on by P. -/
def State.freeRelease (n : Nat) (s : State) : State :=
  let sl := s.sl n
  let due := sl.freeAt.getD s.mono8
  if s.power.cx = false ∨ s.slEn n = false ∨ 3 ≤ s.slClass n ∨ s.refState (s.slRef n) ≠ 0 ∨ s.mono8 < due then s else
  let per := period (s.slClass n)
  let next := due + s.freeSpacing n
  let s := s.modSl n (fun sl => { sl with freeAt := some next })
  s.releasePoint n { gp := (sl.lastGp + per) % 2 ^ 39, gridSeq := s.closedSeq.at' (s.slRef n)
                     deadline := next / 2 ^ 11, ref := s.slRef n, pclass := s.slClass n, crit := s.slCrit n, free := true }

def execFreePassRelease (n : Fin 256) (s : State) : Host.Outcome State Fault Refusal := .next (s.freeRelease n.val)

/-- The deadline of a pass has come (R185): grid point G + P has closed, or its instant is over for a free pass and for
one whose reference is OFF. -/
def State.passDue (s : State) (ps : Pass) : Bool :=
  if ps.free || s.refState ps.ref == 0 then decide (ps.deadline ≤ s.mono)
  else
    let c := s.closedGp.at' ps.ref
    c != 0 && decide ((c - 1 + 2 ^ 39 - (ps.gp + period ps.pclass) % 2 ^ 39) % 2 ^ 39 < 2 ^ 38)

/-- PASS_DEADLINE_MISS (R188): the pass goes on to PASS.END. -/
def State.deadlineMiss (n : Nat) (s : State) : State :=
  match (s.sl n).pass with
  | some ps =>
    if !ps.missed && s.passDue ps then (s.miss n).modSl n (fun sl => { sl with pass := some { ps with missed := true } })
    else match (s.sl n).held with
      | some h => if !h.missed && s.passDue h then
          (s.miss n).modSl n (fun sl => { sl with held := some { h with missed := true } }) else s
      | none => s
  | none => s

def execPassDeadlineMiss (n : Fin 256) (s : State) : Host.Outcome State Fault Refusal := .next (s.deadlineMiss n.val)

/-- PASS_EXCEPTION (R190): an unrecoverable exception of the running pass; cause 1 undefined instruction, 2 uncorrectable
error, 4 error response, 5 another with its code. -/
def execPassException (n : Fin 256) (cause code pc : Nat) (s : State) : Host.Outcome State Fault Refusal :=
  .next (if [1, 2, 4, 5].contains cause then s.abortPass n.val cause code pc else s)

/-- BUDGET_OVERRUN (R191, R192). -/
def State.overrun (n : Nat) (s : State) : State :=
  match (s.sl n).pass with
  | some ps =>
    if ps.running && !ps.overrun && decide (ps.budget ≠ 0) && decide (ps.budget < ps.exec s.clk) then
      let s := s.modSl n (fun sl => { sl with pass := some { ps with overrun := true } })
      let s := (s.evt (XEC_SL_EVT n) 1).setBit (XEC_SL_STAT n) 11 true
      if ps.crit ≤ 1 then
        (s.setBit (XEC_PAIR_STAT (s.slPair n)) 17 true).modPr (s.slPair n) (fun q => { q with calmFrom := s.clk })
      else s
    else s
  | none => s

def execBudgetOverrun (n : Fin 256) (s : State) : Host.Outcome State Fault Refusal := .next (s.overrun n.val)

/-- The pair runs a background slice. -/
def State.onBackground (s : State) (p : Nat) : Bool :=
  let r := (s.pr p).running
  r != 0 && s.slClass (r - 1) == 3 && (s.sl (r - 1)).pass.isNone

/-- BACKGROUND_QUANTUM (R182): after 100 µs the next background slice runs. -/
def State.quantum (p : Nat) (s : State) : State :=
  if s.onBackground p ∧ (s.pr p).bgFrom + 100 * tUs ≤ s.clk then (s.suspend p).dispatch p else s

def execBackgroundQuantum (p : Fin 12) (s : State) : Host.Outcome State Fault Refusal := .next (s.quantum p.val)

/-! ### The ladder (R193, R194) -/

/-- While a pair's level is above 0, a tick at which it is at risk or its utilisation is not below `ovl_lo` ends its calm
(R193). -/
def State.calmWatch (p : Nat) (s : State) : State :=
  if s.fld (XEC_PAIR_STAT p) 7 6 ≠ 0 ∧ (s.atRisk p ∨ min (s.fld XEC_OVL_CFG 15 8) 100 ≤ s.util p) then
    s.modPr p (fun q => { q with calmFrom := s.clk })
  else s

/-- OVERLOAD_CALM: `calm` ms without risk and below `ovl_lo`. -/
def State.calm (p : Nat) (s : State) : State :=
  let lo := min (s.fld XEC_OVL_CFG 15 8) 100
  let calm := max (s.fld XEC_OVL_CFG 23 16) 1
  let l := s.fld (XEC_PAIR_STAT p) 7 6
  if s.bit XEC_CTL 1 ∧ l ≠ 0 ∧ (s.pr p).calmFrom + calm * tMs ≤ s.clk ∧ s.util p < lo ∧ s.atRisk p = false then
    let s := (s.setFld (XEC_PAIR_STAT p) 7 6 (l - 1)).modPr p (fun q => { q with calmFrom := s.clk })
    ((s.evt (XEC_PAIR_EVT p) 6).showLevel p).dispatch p
  else s

def execOverloadCalm (p : Fin 12) (s : State) : Host.Outcome State Fault Refusal := .next (s.calm p.val)

/-- `t_up` and `t_down` as they act (R205). -/
def State.tUp (s : State) : Nat := min (s.fld XEC_THERM_CFG 7 0) 100
def State.tDown (s : State) : Nat := let d := s.fld XEC_THERM_CFG 15 8; if s.tUp ≤ d then s.tUp - 5 else d

/-- Take a junction temperature, °C × 16, and keep since when it reads above `t_up` and below `t_down` (R193). -/
def State.setTj (tj : Int) (s : State) : State :=
  { s with
    hotFrom := if (s.tUp : Int) * 16 < tj then some (s.hotFrom.getD s.clk) else none
    coolFrom := if tj < (s.tDown : Int) * 16 then some (s.coolFrom.getD s.clk) else none }.setReg XEC_TJ (unsigned 16 tj)

/-- A span that began at a tick has lasted `k` seconds. -/
def State.lasted (s : State) (from_ : Option Nat) (k : Nat) : Bool :=
  match from_ with
  | some t => decide (t + k * tSec ≤ s.clk)
  | none => false

/-- Put the thermal level and act on every pair. -/
def State.setThermal (l : Nat) (s : State) : State :=
  let s := s.setFld XEC_STAT 1 0 l
  (s.each (List.range 12) (fun p s => (s.showLevel p).dispatch p)).healthUpdate

/-- THERMAL_LEVEL_UP: a full second above `t_up`. -/
def execThermalLevelUp (tj : Int) (s : State) : Host.Outcome State Fault Refusal :=
  .next (if s.power.cx = false then s else
    let s := s.setTj tj
    let l := s.fld XEC_STAT 1 0
    if s.bit XEC_CTL 2 ∧ l < 3 ∧ s.lasted s.hotFrom 1 then
      ((({ s with hotFrom := some s.clk }).evt XEC_EVT 4).inc XEC_THERM_CNT).setThermal (l + 1)
    else s)

/-- THERMAL_LEVEL_DOWN: 10 s below `t_down`. -/
def execThermalLevelDown (tj : Int) (s : State) : Host.Outcome State Fault Refusal :=
  .next (if s.power.cx = false then s else
    let s := s.setTj tj
    let l := s.fld XEC_STAT 1 0
    if s.bit XEC_CTL 2 ∧ l ≠ 0 ∧ s.lasted s.coolFrom 10 then
      (({ s with coolFrom := some s.clk }).evt XEC_EVT 5).setThermal (l - 1)
    else s)

/-- OVERTEMP (R194): above 110 °C. -/
def execOvertemp (tj : Int) (s : State) : Host.Outcome State Fault Refusal :=
  .next (if s.power.cx = false then s else
    let s := s.setTj tj
    if 110 * 16 < tj then (s.evt XEC_EVT 7).ledger 5 7 0 XEC_EVT 7 [] else s)

/-! ### Block failures (R201, R202, R531) -/

/-- SCHEDULER_FAULT: a block failure of XEC at once. -/
def execSchedulerFault (s : State) : Host.Outcome State Fault Refusal :=
  .next (if s.power.cx then (s.evt XEC_EVT 6).blockFailure 7 0 1 1 else s)

/-- BLOCK_FAILURE (R201, R202): mechanism `mech` of a block detects a fault; the third within 1 s, counted with those that
other commands carry, is a block failure, and so is a single one of WEFT's loop and issue counters. -/
def execBlockFailure (b : Fin 24) (inst : Fin 65536) (mech : Fin 8) (s : State) : Host.Outcome State Fault Refusal :=
  .next (if s.blkOn b.val then
      if b.val = 2 ∧ mech.val = 7 then s.blockFailure b.val inst.val mech.val 1 else s.blockFault b.val mech.val inst.val
    else s)

/-! ### MARK.WAIT, PASS.END and PASS.INFO (R203, R204) -/

/-- The slice running on a pair. -/
def State.runningOn (s : State) (p : Nat) : Option Nat :=
  let r := (s.pr p).running
  if s.power.cx && s.pairState p == 1 && r != 0 then some ((r - 1) % 256) else none

/-- Start the image capture of R180 with the state at PASS.END. -/
def State.startCapture (n seq gp : Nat) (arch : List Byte) (s : State) : State :=
  let win := match s.windowGrant n with
    | some (_, g) => s.cells (windowAddr g.first) (g.count * 0x1000)
    | none => []
  let gen := ((s.sl n).curImg.gen + 1) % 2 ^ 31
  s.modSl n (fun sl => { sl with
    capture := some { valid := true, gen := gen, seq := seq, gp := gp % 2 ^ 32 }
    capArch := padTo 0xF00 arch
    capCells := win
    arch := padTo 0xF00 arch })

/-- A move that waits starts at PASS.END (R231). -/
def State.startMove (n : Nat) (s : State) : State :=
  if (s.sl n).moveTo.isSome ∧ s.life n = 1 then (s.modSl n (fun sl => { sl with prevLife := 1 })).setLife n 4 else s

/-- Slice 0 of a standby stops at PASS.END once `cx_hold` is 0 (R340). -/
def State.standbyStop (s : State) (n : Nat) : Bool := n == 0 && s.complete && s.fld RED_STAT 2 0 == 1 && !s.bit RED_CTL 2

/-- PASS.END by the slice running on pair `p`; `arch` is its architectural state (R180, R185, R204, R227). -/
def State.passEnd (p n : Nat) (arch : List Byte) (s : State) : State :=
  match (s.sl n).pass with
  | some ps =>
    let t := ps.exec s.clk
    let s := ((s.setReg (XEC_SL_EXEC_LAST n) (min t (2 ^ 32 - 1))).setReg (XEC_SL_EXEC_MAX n)
      (max (s.rd (XEC_SL_EXEC_MAX n)) (min t (2 ^ 32 - 1)))).inc (XEC_SL_PASSES n)
    let s := s.setBit (XEC_SL_STAT n) 11 ps.overrun
    let s := if ps.missed then s else (s.modSl n (fun sl => { sl with cmiss := 0 })).setFld (XEC_SL_STAT n) 7 4 0
    let s := (s.offPair n).startCapture n ps.seq ps.gp arch
    let s := s.startMove n
    let s := if s.life n = 4 then (s.modSl n (fun sl => { sl with pass := none })).setRun n 1
      else if s.standbyStop n then (s.modSl n (fun sl => { sl with pass := none, held := none })).setRun n 0
      else s.passOver n
    s.dispatch p
  | none =>
    let s := ((s.suspend p).startCapture n (s.rd (XEC_SL_SEQ n)) (s.sl n).lastGp arch).startMove n
    s.dispatch p

def execPassEnd (p : Fin 12) (arch : List Byte) (s : State) : Host.Outcome State Fault Refusal :=
  .next (match s.runningOn p.val with | some n => s.passEnd p.val n arch | none => s)

/-- The octets of an image before its window region (R227). -/
def imageHead (i : ImgBank) (arch : List Byte) (pages : Nat) : List Byte :=
  padTo 0xF00 arch ++ bytesLE 4 i.seq ++ bytesLE 4 i.gp ++ bytesLE 4 pages ++ List.replicate 16 0
    ++ bytesLE 4 (i.gen + 2 ^ 31) ++ List.replicate 0xE0 0

/-- IMAGE_CAPTURE_COMPLETE (R180, R227): the image is written to the other bank and the bank flips. -/
def State.captureDone (n : Nat) (s : State) : State :=
  let sl := s.sl n
  match sl.capture with
  | none => s
  | some i =>
    if s.power.cx = false ∨ s.power.mem = false then s else
    let b := 1 - sl.bank
    let a := s.imageAddr n b
    let pages := match s.windowGrant n with | some (_, g) => g.count | none => 0
    let s := s.dma a (imageHead i sl.capArch pages)
    let s := (s.wrote (a + 0x1000) (pages * 0x1000)).fill (a + 0x1000) (pages * 0x1000) sl.capCells
    let s := s.modSl n (fun sl => { sl with
      bank := b
      capture := none
      capArch := []
      capCells := []
      img0 := if b = 0 then i else sl.img0
      img1 := if b = 1 then i else sl.img1 })
    s.setBit (XEC_SL_XSTAT n) 14 true

def execImageCaptureComplete (n : Fin 256) (s : State) : Host.Outcome State Fault Refusal := .next (s.captureDone n.val)

/-- PASS.INFO (R203) of the running pass; of a background slice, which has none, the slice's present values. Another `imm` is an undefined instruction, at program counter `pc`. -/
def State.passInfo (p n imm pc : Nat) (s : State) : State :=
  let ps := ((s.sl n).pass).getD { ref := s.slRef n, pclass := s.slClass n, seq := s.rd (XEC_SL_SEQ n) }
  if imm = 0 then
    let v := n + s.slTenant n * 2 ^ 8 + ps.ref * 2 ^ 12 + ps.pclass * 2 ^ 16 + b2n ps.restarted * 2 ^ 18
      + b2n ps.free * 2 ^ 19 + s.level p * 2 ^ 20 + p * 2 ^ 22 + ps.gridSeq % 2 ^ 32 * 2 ^ 32
    s.answer p { data := v }
  else if imm = 1 then s.answer p { data := ps.seq + ps.deadline % 2 ^ 32 * 2 ^ 32 }
  else if imm = 2 then s.answer p { data := ps.gp * 512 % 2 ^ 48 }
  else s.abortPass n 1 0 pc

def execPassInfo (p : Fin 12) (imm pc : Nat) (s : State) : Host.Outcome State Fault Refusal :=
  .next (match s.runningOn p.val with | some n => s.passInfo p.val n imm pc | none => s)

end Sys2Proof.Machine
end

