-- ==== Sys2Proof/Machine/Tenants.lean ====
section
/-!
DEFINITION. Life commands of slices: quiesce, resume, move, save, restore, reset, abort (R210, R219–R235).
-/

namespace Sys2Proof.Machine

/-! ### Life command results -/

/-- Refusal of QUIESCE, RESUME and RESET (R230): not accepted in the slice's state, or the transfer unit is busy. -/
def State.lifeRefusal (ok : Bool) (s : State) : Nat := if !ok then 1 else if s.xfer.isSome then 2 else 0

/-- A life command of slice `n` (R230): refused with a result, or accepted. -/
def State.lifeCmd (w : Who) (n cmd : Nat) (refusal : State → Nat) (f : State → State) (s : State) : State :=
  s.gateSup w (XEC_SL_CMD n) (fun s =>
    let s := s.setFld (XEC_SL_XSTAT n) 7 4 cmd
    let r := refusal s
    if r ≠ 0 then s.lifeResult n r else f (s.lifeResult n 0))

/-- `XEC_SL_BIND` (R210): writable while the slice's active `enable` is 0; process identifier 0 is slice 0's. -/
def State.sliceBind (n v : Nat) (s : State) : State :=
  let v := v - bits v 15 4 * 2 ^ 4
  if s.slEn n ∨ (n ≠ 0 ∧ bits v 31 16 = 0) then s.lifeEvt n 9 else s.setReg (XEC_SL_BIND n) v

def execSliceBindWrite (w : Who) (n : Fin 256) (value : Word) (s : State) : Host.Outcome State Fault Refusal :=
  .next (s.gateSup w (XEC_SL_BIND n.val) (State.sliceBind n.val value.toNat))

/-! ### Quiesce (R220–R223) -/

/-- Requests of a slice outstanding (R217, R220): publications not transmitted, key operations, waiting commits, commands of
the logic engine that wait for a scan. -/
def State.outstanding (s : State) (n : Nat) : Bool :=
  s.pubQ.any (fun r => match r.owner with | some (k, _) => k == n | none => false)
    || s.keyOps.any (fun e => match e.2 with | some o => o.slice == n | none => false)
    || s.staged.any (fun e => e.2.locked && e.2.slice == n)
    || s.lge.any (fun e => match e.2 with | some g => g.waitsFor n | none => false)

/-- Start QUIESCING: a held release, or a released pass that has not been dispatched, is dropped (R220). -/
def State.quiesce (n : Nat) (s : State) : State :=
  let s := s.discardCommit 7 n
  let s := s.modSl n (fun sl => { sl with
    held := none
    pass := match sl.pass with
      | some ps => if ps.started then some ps else none
      | none => none
    quiesceAt := some s.clk })
  (s.setLife n 2).lifeBusy n true

def execQuiesce (w : Who) (n : Fin 256) (s : State) : Host.Outcome State Fault Refusal :=
  .next (s.lifeCmd w n.val 1 (fun s => s.lifeRefusal (n.val != 0 && s.life n.val == 1)) (State.quiesce n.val))

/-- The slice becomes QUIESCED. -/
def State.quiesced (n : Nat) (s : State) : State :=
  let s := s.modSl n (fun sl => { sl with quiesceAt := none, pass := none, held := none, waitAt := none })
  (((s.setLife n 3).setRun n 7).lifeBusy n false).lifeEvt n 0 |>.showClassA

/-- QUIESCE_COMPLETE (R220). -/
def State.quiesceDone (n : Nat) (s : State) : State :=
  let sl := s.sl n
  if s.life n = 2 ∧ sl.pass = none ∧ sl.capture = none ∧ (s.pr (s.slPair n)).running ≠ n + 1 ∧ s.outstanding n = false then
    s.quiesced n
  else s

def execQuiesceComplete (n : Fin 256) (s : State) : Host.Outcome State Fault Refusal := .next (s.quiesceDone n.val)

/-- `q_tmo` in ticks. -/
def State.qTmo (s : State) (n : Nat) : Nat := max (s.fld (XEC_SL_LIFE n) 15 0) 1 * tUs

/-- Withdraw the requests of a slice that can be withdrawn (R221). -/
def State.withdraw (n : Nat) (s : State) : State :=
  let s := { s with pubQ := s.pubQ.filter (fun r => match r.owner with | some (k, _) => k != n | none => true) }
  s.each (List.range 13) (fun m s => match s.keyOps.at' m with
    | some o => if o.slice = n then s.keyAbort m else s
    | none => s)

/-- QUIESCE_TIMEOUT (R221): the slice is forced. The exception code and program counter of the aborted pass are not
stated. -/
def State.quiesceForce (n : Nat) (s : State) : State :=
  match (s.sl n).quiesceAt with
  | none => s
  | some t =>
    if s.life n = 2 ∧ t + s.qTmo n ≤ s.clk then
      let s := match (s.sl n).pass with
        | some _ => (s.drew.drew).abortPass n 5 (Config.freeValue s.free % 2 ^ 32) (Config.freeValue (s.free + 1) % 2 ^ 64)
        | none => if (s.pr (s.slPair n)).running = n + 1 then (s.offPair n).loadImage n |>.dispatch (s.slPair n) else s
      let s := s.when (s.faultDue n) (State.sliceFault n)
      let s := (s.withdraw n).modSl n (fun sl => { sl with capture := none })
      (s.quiesced n).lifeEvt n 2
    else s

def execQuiesceTimeout (n : Fin 256) (s : State) : Host.Outcome State Fault Refusal := .next (s.quiesceForce n.val)

/-! ### Resume and reset (R224, R225, R234) -/

/-- The slice runs again (R224). -/
def State.resume (n : Nat) (s : State) : State :=
  let s := (s.modSl n (fun sl => { sl with cmiss := 0, fresh := true, armRel := none })).setFld (XEC_SL_STAT n) 7 4 0
  ((((s.setLife n 1).setRun n 1).lifeBusy n false).lifeEvt n 1).dispatch (s.slPair n)

/-- RESUME: with `at`, the slice is armed, unless its grid point has already closed. -/
def State.resumeCmd (n : Nat) (at_ : Bool) (s : State) : State :=
  if at_ then
    let c := s.closedGp.at' (s.slRef n)
    let d := (c - 1 + 2 ^ 40 - s.rd (XEC_SL_RESUME_AT n)) % 2 ^ 32
    if c ≠ 0 ∧ d < 2 ^ 31 then (s.resume n).lifeEvt n 7
    else
      let s := s.modSl n (fun sl => { sl with prevLife := 3, armRel := none, cmiss := 0, fresh := true })
      ((s.setFld (XEC_SL_STAT n) 7 4 0).setLife n 7).lifeBusy n true
  else s.resume n

def execResume (w : Who) (n : Fin 256) (at_ : Bool) (s : State) : Host.Outcome State Fault Refusal :=
  .next (s.lifeCmd w n.val 2 (fun s => s.lifeRefusal (s.life n.val == 3)) (State.resumeCmd n.val at_))

/-- ARMED_RESUME (R224, R235): the release point of the armed slice has come. -/
def State.armedResume (n : Nat) (s : State) : State :=
  match (s.sl n).armRel with
  | none => s
  | some ps =>
    if s.life n ≠ 7 then s else
    let d := (ps.gp + 2 ^ 40 - s.rd (XEC_SL_RESUME_AT n)) % 2 ^ 32
    let s := (s.resume n).when (decide (period (s.slClass n) ≤ d)) (State.lifeEvt n 7)
    let s := s.resumed n ps.gp
    s.takeIn n { ps with seq := s.rd (XEC_SL_SEQ n) }

def execArmedResume (n : Fin 256) (s : State) : Host.Outcome State Fault Refusal := .next (s.armedResume n.val)

/-- SLICE_RESET (R225): both banks become invalid. -/
def State.sliceReset (n : Nat) (s : State) : State :=
  (s.modSl n (fun sl => { sl with
    img0 := { sl.img0 with valid := false }
    img1 := { sl.img1 with valid := false }
    everRun := false })).setBit (XEC_SL_XSTAT n) 14 false

def execSliceReset (w : Who) (n : Fin 256) (s : State) : Host.Outcome State Fault Refusal :=
  .next (s.lifeCmd w n.val 6 (fun s => s.lifeRefusal (s.life n.val == 3)) (State.sliceReset n.val))

/-! ### The transfer unit (R229–R233) -/

/-- The transfer unit takes a command. -/
def State.xferStart (x : Xfer) (s : State) : State :=
  ({ s with xfer := some x }.setReg XEC_XFER_STAT (1 + x.cmd * 2 + x.slice * 2 ^ 8)).lifeBusy x.slice true

/-- The transfer in progress is slice `n`'s command `cmd`. -/
def State.xferIs (s : State) (n cmd : Nat) : Option Xfer := s.xfer.filter (fun x => x.slice == n && x.cmd == cmd)

def sumOf (l : List Nat) : Nat := l.foldl (· + ·) 0

/-- Target pages of a move are free of grants (R231). -/
def State.pagesFree (s : State) (first count : Nat) : Bool :=
  !s.grants.any (fun g => g.2.valid && g.2.kind == 3 && decide (g.2.first < first + count ∧ first < g.2.first + g.2.count))

/-- Refusal of MOVE (R230, R231). -/
def State.moveRefusal (n pair page : Nat) (s : State) : Nat :=
  let l := s.life n
  if !(l == 1 || l == 3) then 1
  else if s.xfer.isSome then 2
  else
    let count := match s.windowGrant n with | some (_, g) => g.count | none => 0
    if 11 < pair ∨ s.pairState pair ≠ 1 ∨ !bitAt (bits (s.tenCfg (s.slTenant n)) 15 4) pair
        ∨ 256 < page + count ∨ s.pagesFree (256 * pair + page) count = false then 3
    else 0

/-- MOVE: at once on a QUIESCED slice, else at its next PASS.END. -/
def State.moveCmd (n pair page : Nat) (s : State) : State :=
  let s := s.xferStart { slice := n, cmd := 3, live := false, delta := false, pair := pair, page := page }
  let s := s.modSl n (fun sl => { sl with moveTo := some (pair, page) })
  if s.life n = 3 then (s.modSl n (fun sl => { sl with prevLife := 3 })).setLife n 4 else s

def execMove (w : Who) (n : Fin 256) (pair : Fin 16) (page : Fin 256) (s : State) : Host.Outcome State Fault Refusal :=
  .next (s.lifeCmd w n.val 3 (State.moveRefusal n.val pair.val page.val) (State.moveCmd n.val pair.val page.val))

/-- A move is over on its new pair: a release held meanwhile is dispatched there. -/
def State.moveOn (n pair : Nat) (go : Bool) (s : State) : State :=
  if go && s.run n != 6 then (s.passOver n).dispatch pair else s

/-- The image of a moved slice is copied into its new window. -/
def State.moveImage (n page : Nat) (s : State) : State :=
  match s.windowGrant n with
  | some (_, g) =>
    if (s.sl n).curImg.valid then
      s.dmaCopy (s.imageAddr n (s.sl n).bank + 0x1000) (windowAddr page) (g.count * 0x1000)
    else s
  | none => s

/-- MOVE_COMPLETE (R231). A release held meanwhile is dispatched on the target pair, also of a slice that was QUIESCED before
(DEDUCED: R222 and R231 except no slice). -/
def State.moveDone (n : Nat) (s : State) : State :=
  match (s.sl n).moveTo with
  | none => s
  | some (pair, page) =>
    if s.life n ≠ 4 ∨ (s.sl n).capture.isSome then s else
    let sl := s.sl n
    let s := ((s.moveImage n (256 * pair + page)).moveWindow n (256 * pair + page)).hostOn n pair
    let s := (s.modSl n (fun sl => { sl with moveTo := none })).setLife n sl.prevLife
    let s := ((s.xferEnd n).inc XEC_XFER_CNT).lifeEvt n 3
    s.moveOn n pair (sl.prevLife == 1 || sl.held.isSome)

def execMoveComplete (n : Fin 256) (s : State) : Host.Outcome State Fault Refusal := .next (s.moveDone n.val)

/-- ABORT, or a mismatch of the target pair of a move (R230, R235): the slice returns to its previous state. -/
def State.xferAbort (n : Nat) (s : State) : State :=
  let l := s.life n
  let prev := (s.sl n).prevLife
  let s := s.modSl n (fun sl => { sl with moveTo := none, armRel := none })
  let s := if l = 7 then s.lifeBusy n false else s.xferEnd n
  let s := (s.setLife n prev).lifeEvt n 6
  let s := s.lifeResult n 8
  s.moveOn n (s.slPair n) (l == 4 && (prev == 1 || (s.sl n).held.isSome))

def execSliceAbort (w : Who) (n : Fin 256) (s : State) : Host.Outcome State Fault Refusal :=
  .next (s.lifeCmd w n.val 7 (fun s => if 4 ≤ s.life n.val then 0 else 1) (State.xferAbort n.val))

/-- A mismatch of the pair a slice is moving to: the move is abandoned (R235). -/
def State.moveTargetLost (p : Nat) (s : State) : State :=
  match s.xfer with
  | some x => if x.cmd = 3 ∧ x.pair = p ∧ (s.sl x.slice).moveTo.isSome then
      if s.life x.slice = 4 then s.xferAbort x.slice
      else ((s.modSl x.slice (fun sl => { sl with moveTo := none })).xferEnd x.slice).lifeEvt x.slice 6
    else s
  | none => s

/-! ### Saving (R228, R232) -/

def State.xferBuf (s : State) : Nat := s.base XEC_XFER_BUF_LO 22
def State.pagesOf (s : State) (n : Nat) : Nat := match s.windowGrant n with | some (_, g) => g.count | none => 0

/-- Refusal of SAVE. -/
def State.saveRefusal (n : Nat) (live : Bool) (s : State) : Nat :=
  let l := s.life n
  if !(l == 3 || (l == 1 && live)) then 1
  else if s.xfer.isSome then 2
  else
    let c := s.carries n
    if 16 < c.length ∨ 47 < sumOf (c.map (·.2)) then 7 else 0

def State.saveCmd (n : Nat) (live delta : Bool) (s : State) : State :=
  let run := decide (s.life n = 1)
  let s := s.xferStart { slice := n, cmd := 4, live := live && run, delta := delta, pair := s.slPair n, page := 0 }
  if run then s.setBit (XEC_SL_XSTAT n) 13 true else (s.modSl n (fun sl => { sl with prevLife := 3 })).setLife n 5

def execSave (w : Who) (n : Fin 256) (live delta : Bool) (s : State) : Host.Outcome State Fault Refusal :=
  .next (s.lifeCmd w n.val 4 (State.saveRefusal n.val live) (State.saveCmd n.val live delta))

/-- Lines of the area from 0x3000 that a full save writes. -/
def fullLines (pages carryBytes : Nat) : List (Nat × Nat) :=
  [(0, 64 + pages * 64), (0x101000 / 64, carryBytes / 64)]

/-- Line `i` lies in one of the runs. -/
def inRuns (l : List (Nat × Nat)) (i : Nat) : Bool := l.any (fun r => decide (r.1 ≤ i ∧ i < r.1 + r.2))

/-- A 64-octet line of the slice's image or carry regions as it stands now: source address. -/
def lineSource (img : Nat) (lay : List (Nat × Nat × Nat)) (i : Nat) : Option Nat :=
  let off := i * 64
  if off < 0x101000 then some (img + off)
  else (lay.find? (fun r => decide (r.1 + 0x101000 ≤ off ∧ off < r.1 + 0x101000 + r.2.2))).map
    (fun r => r.2.1 + (off - 0x101000 - r.1))

/-- SAVE_COMPLETE: the container is written, its completion word last (R228, R232). -/
def State.saveDone (n : Nat) (s : State) : State :=
  match s.xferIs n 4 with
  | none => s
  | some x =>
    if s.power.mem = false then s else
    let sl := s.sl n
    let img := s.imageAddr n sl.bank
    let buf := s.xferBuf
    let c := s.carries n
    let pages := s.pagesOf n
    let lay := carryLayout 0 c
    let cb := sumOf (c.map (fun r => r.2 * 2 ^ 16))
    let no := if x.delta then sl.saveNo + 1 else 0
    let final := !x.live
    let runs := if x.delta then (0, 64) :: sl.dirty.map (fun i => (i, 1)) else fullLines pages cb
    let s := s.dmaWords (buf + 0x3C) [0]
    let s := if x.delta then
        s.each sl.dirty (fun i s => match lineSource img lay i with
          | some a => s.dmaCopy a (buf + 0x3000 + i * 64) 64
          | none => s) |>.dmaCopy img (buf + 0x3000) 0x1000
      else
        let s := s.dmaCopy img (buf + 0x3000) (0x1000 + pages * 0x1000)
        s.each lay (fun r s => s.dmaCopy r.2.1 (buf + 0x104000 + r.1) r.2.2)
    let map := (List.range 0x2000).map (fun b => BitVec.ofNat 8 (maskOf ((List.range 8).map (fun k => inRuns runs (8 * b + k)))))
    let s := s.dma (buf + 0x1000) map
    let list := padTo 128 (c.flatMap (fun r => bytesLE 4 r.1 ++ bytesLE 4 r.2))
    let s := s.dma (buf + 0x40) (padTo 0xFC0 list)
    let len := 0x104000 + cb
    let crc := crc32 (s.rdBytes (buf + 0x40) (len - 0x40))
    let s := s.dmaWords buf [0x534C4353, 1,
      n + s.slTenant n * 2 ^ 8 + s.slRef n * 2 ^ 12 + s.slClass n * 2 ^ 16 + s.slCrit n * 2 ^ 18 + s.slPhase n * 2 ^ 20,
      s.fld (XEC_SL_BIND n) 31 16 + pages * 2 ^ 16, sl.curImg.seq, sl.curImg.gp, no,
      b2n final + 2 * b2n x.delta + 4 * b2n x.live + s.slPair n * 8, c.length, cb, len, crc, 0, 0, 0]
    let s := s.dmaWords (buf + 0x3C) [no % 2 ^ 31 + 2 ^ 31]
    let s := s.modSl n (fun sl => { sl with saveNo := no, dirty := [] })
    let s := s.setBit (XEC_SL_XSTAT n) 13 x.live
    let s := if x.live then s else s.setLife n 3
    ((s.xferEnd n).inc XEC_XFER_CNT).lifeEvt n 4

def execSaveComplete (n : Fin 256) (s : State) : Host.Outcome State Fault Refusal := .next (s.saveDone n.val)

/-! ### Restoring (R233) -/

/-- Refusal of RESTORE. -/
def State.restoreRefusal (n : Nat) (s : State) : Nat :=
  if s.life n ≠ 3 then 1
  else if s.xfer.isSome then 2
  else
    let b := s.xferBuf
    let w := fun i => s.ld (b + 4 * i) 4
    let id := w 2
    let want := s.slTenant n * 2 ^ 8 + s.slRef n * 2 ^ 12 + s.slClass n * 2 ^ 16 + s.slCrit n * 2 ^ 18 + s.slPhase n * 2 ^ 20
    if bits id 25 8 * 2 ^ 8 ≠ want ∨ w 3 % 2 ^ 16 ≠ s.fld (XEC_SL_BIND n) 31 16 then 4
    else
      let k := min (w 8) 16
      let regions := (List.range k).map (fun i => (s.ld (b + 0x40 + 8 * i) 4 % 2 ^ 24, s.ld (b + 0x44 + 8 * i) 4 % 2 ^ 8))
      let ten := s.slTenant n
      let held := fun (u : Nat) => s.grants.any (fun g => g.2.valid && !g.2.revoking && g.2.kind == 1
        && decide (g.2.first ≤ u ∧ u < g.2.first + g.2.count) && (if g.2.ten then g.2.holder == ten else g.2.holder == n))
      if s.pagesOf n < w 3 / 2 ^ 16 ∨ !regions.all (fun r => (List.range r.2).all (fun i => held (r.1 + i))) then 5
      else if w 0 ≠ 0x534C4353 ∨ w 15 ≠ w 6 % 2 ^ 31 + 2 ^ 31 ∨ bitAt (w 7) 0 = false
          ∨ 0x3F4000 < w 10 ∨ w 11 ≠ crc32 (s.rdBytes (b + 0x40) (w 10 - 0x40)) then 6
      else 0

def State.restoreCmd (n : Nat) (s : State) : State :=
  let s := s.xferStart { slice := n, cmd := 5, live := false, delta := false, pair := s.slPair n, page := 0 }
  (s.modSl n (fun sl => { sl with prevLife := 3 })).setLife n 6

def execRestore (w : Who) (n : Fin 256) (s : State) : Host.Outcome State Fault Refusal :=
  .next (s.lifeCmd w n.val 5 (State.restoreRefusal n.val) (State.restoreCmd n.val))

/-- RESTORE_COMPLETE: the image is in the current bank, the carry regions in DRAM. -/
def State.restoreDone (n : Nat) (s : State) : State :=
  match s.xferIs n 5 with
  | none => s
  | some _ =>
    if s.power.mem = false then s else
    let b := s.xferBuf
    let w := fun i => s.ld (b + 4 * i) 4
    let sl := s.sl n
    let k := min (w 8) 16
    let lay := carryLayout 0 ((List.range k).map (fun i => (s.ld (b + 0x40 + 8 * i) 4 % 2 ^ 24, s.ld (b + 0x44 + 8 * i) 4 % 2 ^ 8)))
    let img : ImgBank := { valid := true, gen := s.ld (b + 0x3000 + 0xF1C) 4 % 2 ^ 31, seq := w 4, gp := w 5 }
    let s := s.dmaCopy (b + 0x3000) (s.imageAddr n sl.bank) (0x1000 + w 3 / 2 ^ 16 * 0x1000)
    let s := s.each lay (fun r s => s.dmaCopy (b + 0x104000 + r.1) r.2.1 r.2.2)
    let s := s.modSl n (fun sl => { sl with
      img0 := if sl.bank = 0 then img else sl.img0
      img1 := if sl.bank = 0 then sl.img1 else img
      everRun := true })
    let s := (s.loadImage n).setBit (XEC_SL_XSTAT n) 14 true
    (((s.setLife n 3).xferEnd n).inc XEC_XFER_CNT).lifeEvt n 5

def execRestoreComplete (n : Fin 256) (s : State) : Host.Outcome State Fault Refusal := .next (s.restoreDone n.val)

end Sys2Proof.Machine
end

