-- ==== Sys2Proof/Machine/Twin.lean ====
section
/-!
DEFINITION. The twin and the arbiter (R316–R341): heartbeats, verdicts, the mandate, checkpoints, takeover, handback,
maintenance.
-/

namespace Sys2Proof.Machine

/-! ### Epochs and the mandate (R325, R326) -/

/-- Change RED's working state. -/
def State.modRed (f : Red → Red) (s : State) : State := { s with red := f s.red }

/-- The CRC-32 of a copy of the epoch: over its sequence number and epoch. (PRESUMED layout.) -/
def epochCrc (seq epoch : Nat) : Nat := crc32 (bytesLE 4 seq ++ bytesLE 4 epoch)

/-- The copy of the epoch with a valid CRC and the higher sequence number (R326). -/
def State.newestEpoch (s : State) : Option EpochCopy :=
  let a := s.red.copies.at' 0
  let b := s.red.copies.at' 1
  let ok := fun (c : EpochCopy) => c.crc == epochCrc c.seq c.epoch
  if ok a && (!ok b || decide (b.seq ≤ a.seq)) then some a else if ok b then some b else none

/-- Write the highest known epoch to the copy not written last (R326). -/
def State.epochCopy (s : State) : State :=
  if s.power.mem = false then s else
  let q := match s.newestEpoch with | some c => c.seq + 1 | none => 1
  let e := s.rd RED_EPOCH
  s.modRed (fun r => { r with copies := r.copies.put (q % 2) { seq := q, epoch := e, crc := epochCrc q e } })

/-- Raise the highest known epoch. -/
def State.raiseEpoch (e : Nat) (s : State) : State :=
  if s.rd RED_EPOCH < e then (s.setReg RED_EPOCH e).epochCopy else s

def State.setMember (st : Nat) (s : State) : State := s.setFld RED_STAT 2 0 st

/-- Enter STANDBY; the compute die goes off 100 ms later unless `cx_hold` = 1 (R510). -/
def State.enterStandby (s : State) : State :=
  let s := (s.setMember 1).modRed (fun r => { r with
    verdict := none, plan := none, readySent := 0, revFrom := if s.health = 3 then some s.clk else none, revAcc := 0, revAt := none })
  let s := s.setBit RED_STAT 10 false
  if s.bit RED_CTL 2 then s else s.cxOffSoon

/-- The mandate is gained with epoch `e` (R325, R326): state `st`, record, copy, pin, publications, Baize. -/
def State.gainMandate (st e : Nat) (s : State) : State :=
  let s := if s.rd RED_EPOCH < e then s.setReg RED_EPOCH e else s
  let s := ((s.epochCopy.setMember st).setBit RED_STAT 3 true).modRed (fun r => { r with
    held := e
    verdict := none
    plan := none
    arbOk := some s.clk
    mateOk := none
    fresh := false
    ckDue := s.clk
    ckLate := false })
  let s := ((s.evt RED_EVT 0).inc RED_MANDATE_CHG).ledger 6 12 0 RED_EVT 0 [e]
  ((s.drive .mandateN false).pubGained).armDelay.guardArm

/-- The mandate is released; the member enters `st` (R325–R327). -/
def State.releaseMandate (st : Nat) (s : State) : State :=
  let e := s.red.held
  let s := (s.setMember st).setBit RED_STAT 3 false
  let s := (s.modRed (fun r => { r with held := 0, arbOk := none, mateOk := none })).epochCopy
  let s := ((s.evt RED_EVT 1).inc RED_MANDATE_CHG).ledger 6 12 0 RED_EVT 1 [e]
  ((s.setBit RED_STAT 11 false).drive .mandateN true).guardArm.canMandateLost

/-- The member holds the mandate under the twin rules: ACTIVE or YIELDING. -/
def State.holdsTwin (s : State) : Bool := s.member == 3 || s.member == 4

/-! ### Receiving (R320) -/

/-- Message types of the ports of the twin and the arbiter (R321). -/
def listedOn (s : State) (port ty : Nat) : Bool :=
  if s.role = 2 then (port == portAL || port == portMP) && [0x02, 0x05, 0x0D].contains ty
  else if port = portML then [0x01, 0x06, 0x07, 0x08, 0x09, 0x0A, 0x0B, 0x0C, 0x0E, 0x20, 0x21, 0x22, 0x23, 0x24, 0x25, 0x26].contains ty
  else port == portAL && [0x03, 0x04].contains ty

/-- A Luazar Link message on ML, AL or MP of the type a command stands for. -/
def State.lzIn (port ty : Nat) (m : List Byte) (f : LzMsg → State → State) (s : State) : State :=
  if s.power.nx = false ∨ s.portUp port = false ∨ s.bit RED_CTL 0 = false ∨ s.member = 6 ∨ s.complete = false then s
  else match s.lzRead m with
    | none => (s.inc RED_LZ_BAD).evt RED_EVT 8
    | some x =>
      if listedOn s port x.ty = false then (s.inc RED_LZ_BAD).evt RED_EVT 8
      else if x.ty ≠ ty then s
      else f x (s.raiseEpoch x.epoch)

/-! ### Grid records (R92, R337, R345) -/

/-- Grid points in the log of reference `r`: G and instant in ns with the seconds modulo 2^32. -/
def State.gridLog (s : State) (r : Nat) : List (Nat × Nat) :=
  if s.power.cx = false then [] else
  (List.range 256).filterMap (fun k =>
    let a := s.recAt r k
    if s.ld (a + 28) 4 = 0 then none
    else some ((s.ld a 4 + s.ld (a + 4) 2 * 2 ^ 32) / 512, s.ld (a + 12) 4 * 10 ^ 9 + s.ld (a + 8) 4))

/-- Distance of two numbers. -/
def dist (a b : Nat) : Nat := (a - b) + (b - a)

/-- The log entry nearest an instant. -/
def nearest (t : Nat) : List (Nat × Nat) → Option (Nat × Nat)
  | [] => none
  | x :: rest => match nearest t rest with
    | none => some x
    | some y => if dist x.2 t ≤ dist y.2 t then some x else some y

/-- The last grid point of a reference. -/
def State.lastGrid (s : State) (r : Nat) : Nat × Nat :=
  let a := s.recAt r (s.weftOf r).seq
  if s.power.cx ∧ (s.weftOf r).seq ≠ 0 then
    ((s.ld a 4 + s.ld (a + 4) 2 * 2 ^ 32) / 512, s.ld (a + 12) 4 * 10 ^ 9 + s.ld (a + 8) 4)
  else (0, 0)

def State.hoRef (s : State) : Nat := s.fld RED_HO_CFG 3 0

/-! ### Heartbeats of a member (R322) -/

/-- First 32 bits of the bolt digest. -/
def State.digest32 (s : State) : Nat := beNat (s.boot.digest.take 4)

/-- The member is ready (R322). A set counts while the twin that sent it goes on holding the mandate. -/
def State.ready (s : State) : Bool :=
  s.power.nx && s.power.mem && decide (s.digest32 = s.red.mate.digest)
    && (s.mandate || s.red.fresh)

/-- Interval of checkpoint sets in ticks. -/
def State.ckInterval (s : State) : Nat := min (max (s.fld RED_CK_CFG 15 0) 10) 10000 * tMs

/-- The revert hold in seconds. -/
def State.revertHold (s : State) : Nat := min (max (s.fld RED_REVERT 11 0) 60) 3600

/-- Ticks the revert hold has counted: health 3 while sets are committed (R336). (DESIGN CHOICE: the count goes on for two
intervals after a set and stands still until the next one.) -/
def State.revertTicks (s : State) : Nat :=
  s.red.revAcc + (match s.red.revAt with | some t => min (s.clk - t) (2 * s.ckInterval) | none => 0)

/-- Seconds left of the revert hold (R336). -/
def State.revertLeft (s : State) : Nat := s.revertHold - s.revertTicks / tSec

/-- Seconds of continuous health 3. -/
def State.healthSecs (s : State) : Nat := match s.red.revFrom with | some t => (s.clk - t) / tSec | none => 0

def State.mateHb (s : State) : List Byte :=
  let (g, t) := s.lastGrid s.hoRef
  let fl := maskOf [s.mandate, s.member == 1, s.ready, s.power.cx, s.bit RED_STAT 7, s.bit RED_STAT 10]
  bytesBE 1 s.health ++ bytesBE 1 fl ++ bytesBE 2 0 ++ bytesBE 4 s.digest32 ++ bytesBE 4 (s.rd RED_CK_SET)
    ++ bytesBE 4 (g % 2 ^ 32) ++ bytesBE 4 (t % 10 ^ 9) ++ bytesBE 4 (t / 10 ^ 9 % 2 ^ 32)
    ++ bytesBE 4 (if s.member = 1 then s.revertLeft else 0) ++ bytesBE 4 0

/-- ms since the last committed set began (R349). -/
def State.ckAge (s : State) : Nat :=
  if s.red.committed.isSome then min ((s.clk - s.red.ckBegan) / tMs) (2 ^ 32 - 1) else 2 ^ 32 - 1

def State.arbHb (s : State) : List Byte :=
  let fl := maskOf [s.mandate, s.bit RED_STAT 6, s.ready, s.power.cx]
  bytesBE 1 s.health ++ bytesBE 1 fl ++ bytesBE 2 0 ++ bytesBE 4 s.red.held ++ bytesBE 4 s.ckAge ++ bytesBE 4 0

/-- G of the twin minus the own G for `ho_ref` (R337). -/
def State.hoOffset (g t : Nat) (s : State) : State :=
  match nearest t (s.gridLog s.hoRef) with
  | some (own, at_) =>
    if dist at_ t ≤ 50000 then (s.setReg RED_HO_OFS ((g + 2 ^ 40 - own) % 2 ^ 32)).setBit RED_STAT 9 true else s
  | none => s

/-! ### The plan of a handback (R337) -/

def State.hoPhase (s : State) : Nat := s.fld RED_HO_STAT 2 0
def State.setPhase (p : Nat) (s : State) : State := s.setFld RED_HO_STAT 2 0 p

/-- A periodic message is due: `us` since the last one. -/
def State.sendDue (s : State) (ty us : Nat) : Bool :=
  match s.red.sentAt.at' ty with | some t => decide (t + us * tUs ≤ s.clk) | none => true

def State.sent (ty : Nat) (s : State) : State := s.modRed (fun r => { r with sentAt := r.sentAt.put ty (some s.clk) })

/-- Grid point `g` of the handback reference has closed. -/
def State.gridPast (s : State) (g : Nat) : Bool :=
  let c := s.closedGp.at' s.hoRef
  c != 0 && decide ((c - 1 + 2 ^ 40 - g) % 2 ^ 32 < 2 ^ 31)

/-- A plan received is under way: neither yielded nor past its G_h. -/
def State.planPending (s : State) : Bool := s.red.plan.any (fun p => p.yields == 0 && !s.gridPast p.own)

/-- YIELD_REQ of a plan to the arbiter. -/
def State.askYield (id : Nat) (s : State) : State :=
  (s.sent 0x0D).lzSend portAL 0x0D (bytesBE 4 id ++ bytesBE 1 (1 - s.role) ++ bytesBE 3 0)

/-- After phase 1 G_h is chosen as soon as `RED_HO_OFS` is valid: the plan goes to the target, YIELD_REQ to the arbiter
(R337). -/
def State.planChoose (s : State) : State :=
  match s.red.plan with
  | some p =>
    if s.holdsTwin = false ∨ s.hoPhase ≠ 2 ∨ p.chosen ∨ s.bit RED_STAT 9 = false then s else
    let lead := max (s.fld RED_HO_CFG 15 8) 16
    let own := ((s.lastGrid s.hoRef).1 + lead) % 2 ^ 32
    let twin := (own + s.rd RED_HO_OFS) % 2 ^ 32
    let s := s.modRed (fun r => { r with plan := some { p with own := own, twin := twin, chosen := true, asking := true } })
    (s.lzSend portML 0x0A (bytesBE 4 p.id ++ bytesBE 4 twin ++ bytesBE 1 s.hoRef ++ bytesBE 3 0 ++ bytesBE 4 own)).askYield p.id
  | none => s

/-- A member without the mandate learns of a holder (R325); a module with the invalid role code stays UNASSIGNED (R316). -/
def State.learnHolder (s : State) : State :=
  if s.role < 2 ∧ (s.member = 0 ∨ s.member = 5) then s.enterStandby else s

/-- MATE_HB (R327): the view of the twin, and condition (b). -/
def State.mateHbIn (x : LzMsg) (s : State) : State :=
  let fl := x.at' 1 1
  let held := bitAt fl 0
  let confirm := bitAt fl 1
  let s := s.modRed (fun r => { r with
    mateAt := some s.clk
    fresh := r.fresh && held
    mateHeld := if held then some s.clk else r.mateHeld
    mate := { at_ := s.clk, st := x.st, epoch := x.epoch, health := x.at' 0 1, flags := fl, digest := x.at' 4 4, ck := x.at' 8 4 } })
  let s := (s.setBit RED_STAT 6 true).setBit RED_STAT 8 confirm
  let s := s.hoOffset (x.at' 12 4) (x.at' 20 4 * 10 ^ 9 + x.at' 16 4)
  if s.holdsTwin then
    let lim := s.red.held + (if s.member = 4 then 1 else 0)
    let s := s.when held (State.evt RED_EVT 10)
    if x.st = 2 ∨ x.st = 3 then s.modRed (fun r => { r with arbOk := none, mateOk := none })
    else if confirm then (s.modRed (fun r => { r with mateOk := if x.epoch ≤ lim then some s.clk else none })).planChoose
    else s.planChoose
  else s.when held State.learnHolder

def execMateHb (m : List Byte) (s : State) : Host.Outcome State Fault Refusal := .next (s.lzIn portML 0x01 m State.mateHbIn)

/-- ARB_STATUS at a member (R327, R337). -/
def State.arbStatusIn (x : LzMsg) (s : State) : State :=
  let holder := x.at' 0 1
  let epoch := x.at' 4 4
  let plan := x.at' 8 4
  let s := (s.raiseEpoch epoch).modRed (fun r => { r with arbAt := some s.clk, arbPlan := plan })
  let s := s.setBit RED_STAT 7 true
  let mine := decide (holder = s.role)
  let own := match s.red.plan with | some p => p.chosen && p.id == plan | none => false
  if s.holdsTwin then
    let s := if own then s.modRed (fun r => { r with plan := r.plan.map (fun p => { p with asking := false }) }) else s
    let s := if own && s.member == 3 then s.setMember 4 else s
    if mine && epoch == s.red.held then
      if bitAt (x.at' 1 1) 0 then s.modRed (fun r => { r with arbOk := some s.clk }) else s
    else if (decide (holder < 2) && !mine) || decide (s.red.held < epoch) then
      s.modRed (fun r => { r with arbOk := none, mateOk := none })
    else s
  else s.when (decide (holder < 2) && !mine) State.learnHolder

def execArbStatus (m : List Byte) (s : State) : Host.Outcome State Fault Refusal :=
  .next (s.lzIn portAL 0x03 m State.arbStatusIn)

/-! ### The arbiter (R328, R341) -/

def State.peer (s : State) (r : Nat) : Peer := s.red.peers.at' r

/-- The port of a member at the arbiter (R317). -/
def peerPort (r : Nat) : Nat := if r = 0 then portAL else portMP

/-- A member has been heard within `ms`. -/
def State.heardPeer (s : State) (r ms : Nat) : Bool :=
  match (s.peer r).at_ with | some t => decide (s.clk ≤ t + ms * tMs) | none => false

/-- Show the arbiter's view. -/
def State.showArb (s : State) : State :=
  let s := (s.setFld RED_ARB_VIEW 1 0 s.red.holder).setFld RED_ARB_VIEW 5 4 (s.peer 0).health
  s.setFld RED_ARB_VIEW 7 6 (s.peer 1).health

/-- ARB_HB at the arbiter: the member's view; a member that reports the mandate at a higher epoch is named (R328, R331). -/
def State.arbHbIn (x : LzMsg) (s : State) : State :=
  let r := x.role % 2
  let fl := x.at' 1 1
  let e := x.at' 4 4
  let h := x.at' 0 1
  let p : Peer := { at_ := some s.clk, health := h % 4, flags := fl, epoch := e, low := if h ≤ 1 then (s.peer r).low + 1 else 0 }
  let held := bitAt fl 0
  let s := s.modRed (fun q => { q with
    peers := q.peers.put r p
    noHold := if held then s.clk else q.noHold })
  let s := s.setBit RED_ARB_VIEW (2 + r) true
  let s := s.when (held && bitAt (s.peer (1 - r)).flags 0 && s.heardPeer (1 - r) 3) (State.evt RED_EVT 10)
  let s := if held && decide (s.red.hEpoch < e ∨ s.red.holder = 3) then
      s.modRed (fun q => { q with holder := r, hEpoch := max e q.hEpoch })
    else s
  let s := if held && (match s.red.issued with | some v => v.target == r && v.epoch == e | none => false) then
      s.modRed (fun q => { q with issued := none, failed := none, yieldReq := none })
    else s
  s.showArb

def execArbHb (second : Bool) (m : List Byte) (s : State) : Host.Outcome State Fault Refusal :=
  .next (s.lzIn (peerPort (if second then 1 else 0)) 0x02 m (fun x s => if s.role = 2 then s.arbHbIn x else s))

/-- ARB_STATUS to member `r`: confirm only when the named holder was heard within 3 ms holding at the named epoch. -/
def State.arbStatus (s : State) (r : Nat) : List Byte :=
  let h := s.red.holder
  let p := s.peer h
  let conf := decide (h = r) && s.heardPeer h 3 && bitAt p.flags 0 && p.epoch == s.red.hEpoch
  let plan := match s.red.issued with | some v => if v.kind = 3 then v.plan else 0 | none => 0
  bytesBE 1 h ++ bytesBE 1 (maskOf [conf, s.bit RED_ARB_VIEW 2, s.bit RED_ARB_VIEW 3]) ++ bytesBE 2 0
    ++ bytesBE 4 s.red.hEpoch ++ bytesBE 4 plan ++ bytesBE 4 0

/-- The arbiter sends its verdict in force. -/
def State.sendVerdict (s : State) : State :=
  match s.red.issued with
  | some v =>
    let p := bytesBE 1 v.kind ++ bytesBE 1 v.target ++ bytesBE 2 0 ++ bytesBE 4 v.epoch ++ bytesBE 4 v.plan ++ bytesBE 4 0
    (s.lzSend (peerPort v.target) 0x04 p).modRed (fun r => { r with issued := some { v with sends := v.sends + 1 } })
  | none => s

/-- A member qualifies as a target: heard, ready, health at least 2. -/
def State.qualifies (s : State) (r : Nat) : Bool :=
  s.heardPeer r 6 && bitAt (s.peer r).flags 2 && decide (2 ≤ (s.peer r).health)

/-- The conditions of a verdict (R328). A planned verdict in force leaves room for an initial one, and for the one another
plan asks for. -/
def State.verdictDue (s : State) (kind target : Nat) (planLate : Bool) : Bool :=
  let h := s.red.holder
  let other := 1 - target
  let alone := !bitAt (s.peer target).flags 1
  let spaced := match s.red.lastIssue with | some t => decide (t + 100 * tMs ≤ s.clk) | none => true
  let open_ := match s.red.issued with | some v => v.kind == 3 && (kind == 2 || s.red.yieldReq.any (fun y => y.1 != v.plan)) | none => true
  let planned := match s.red.issued with | some v => v.kind == 3 | none => false
  match kind with
  | 2 => spaced && open_ && decide (s.red.noHold + 12 * tMs ≤ s.clk) && s.qualifies target
      && (target == 0 || !s.qualifies 0) && s.red.failed != some target
  | 1 =>
    (planned && planLate && h == target && s.qualifies target && alone)
      || (spaced && (open_ || planned) && h == other && s.qualifies target
          && ((!s.heardPeer other 6 && alone) || decide (3 ≤ (s.peer other).low) || s.red.failed == some other))
  | 3 => spaced && open_ && h == other && s.qualifies target
      && (match s.red.yieldReq with | some (_, t) => t == target | none => false)
  | _ => false

/-- VERDICT_ISSUE (R326, R328, R341). `planLate`: the planned verdict has not been taken 10 ms after the expected instant
of G_h. -/
def State.verdictIssue (kind target : Nat) (planLate : Bool) (s : State) : State :=
  if s.role ≠ 2 ∨ s.power.nx = false ∨ s.complete = false ∨ s.bit RED_CTL 0 = false ∨ s.verdictDue kind target planLate = false then s
  else
    let e := (s.rd RED_EPOCH + 1) % 2 ^ 32
    let plan := match s.red.yieldReq with | some (i, _) => if kind = 3 then i else 0 | none => 0
    let s := (s.setReg RED_EPOCH e).epochCopy
    let s := s.modRed (fun r => { r with
      issued := some { kind := kind, target := target, epoch := e, plan := plan, at_ := s.clk }
      lastIssue := some s.clk
      holder := if kind = 3 then r.holder else target
      hEpoch := if kind = 3 then r.hEpoch else e })
    let s := ((s.inc RED_VERDICTS).evt RED_EVT 4).ledger 3 12 0 RED_EVT 4 [e, plan]
    (s.showArb.sent 4).sendVerdict

def execVerdictIssue (kind : Fin 4) (target : Fin 2) (planLate : Bool) (s : State) : Host.Outcome State Fault Refusal :=
  .next (s.verdictIssue kind.val target.val planLate)

/-- VERDICT_TARGET_TIMEOUT (R328). (DESIGN CHOICE: a planned verdict that nobody has taken in that time is no longer in
force; its target has not failed.) -/
def State.verdictTimeout (s : State) : State :=
  match s.red.issued with
  | some v =>
    if s.role ≠ 2 ∨ s.clk < v.at_ + 500 * tMs then s
    else if v.kind = 3 then s.modRed (fun r => { r with issued := none, yieldReq := none })
    else s.modRed (fun r => { r with issued := none, failed := some v.target })
  | none => s

def execVerdictTargetTimeout (s : State) : Host.Outcome State Fault Refusal := .next s.verdictTimeout

/-- VERDICT_ACK at the arbiter. -/
def State.verdictAckIn (x : LzMsg) (s : State) : State :=
  s.modRed (fun r => { r with issued := r.issued.map (fun v =>
    if v.epoch = x.at' 0 4 ∧ v.plan = x.at' 4 4 then { v with acked := true } else v) })

def execVerdictAck (second : Bool) (m : List Byte) (s : State) : Host.Outcome State Fault Refusal :=
  .next (s.lzIn (peerPort (if second then 1 else 0)) 0x05 m (fun x s => if s.role = 2 then s.verdictAckIn x else s))

/-- YIELD_REQ at the arbiter: from the holder, for the other member; recorded (R328, R341). -/
def State.yieldReqIn (x : LzMsg) (s : State) : State :=
  let plan := x.at' 0 4
  let t := x.at' 4 1
  if x.role = s.red.holder ∧ t = 1 - s.red.holder ∧ plan ≠ 0 then
    let known := s.red.yieldReq == some (plan, t) || (match s.red.issued with | some v => v.plan == plan | none => false)
    if known then s else
    (s.modRed (fun r => { r with yieldReq := some (plan, t) })).ledger 3 12 0 RED_EVT 4 [s.rd RED_EPOCH, plan]
  else s

def execYieldReq (second : Bool) (m : List Byte) (s : State) : Host.Outcome State Fault Refusal :=
  .next (s.lzIn (peerPort (if second then 1 else 0)) 0x0D m (fun x s => if s.role = 2 then s.yieldReqIn x else s))

/-! ### Verdicts at a member (R329, R335) -/

/-- VERDICT: its epoch is kept in a copy (R326); naming the member, it is acknowledged; kinds 1 and 2 lead to TAKING, kind 3 to a planned handback. -/
def State.verdictIn (x : LzMsg) (s : State) : State :=
  let kind := x.at' 0 1
  let e := x.at' 4 4
  let plan := x.at' 8 4
  let s := (s.setReg RED_EPOCH (max (s.rd RED_EPOCH) e)).epochCopy
  if x.at' 1 1 ≠ s.role ∨ 1 < s.role then s else
  let known := match s.red.verdict with | some v => v.epoch == e && v.kind == kind | none => decide (s.red.held = e)
  let s := if known then s else
    let s := (s.inc RED_VERDICTS).evt RED_EVT 4
    let v : Verdict := { kind := kind, target := s.role, epoch := e, plan := plan, at_ := s.clk }
    if (kind = 1 ∨ kind = 2) ∧ (s.member = 0 ∨ s.member = 1 ∨ s.member = 5) then
      ((s.setMember 2).modRed (fun r => { r with verdict := some v })).cxRaise
    else if kind = 3 ∧ s.member = 1 then s.modRed (fun r => { r with verdict := some v })
    else s
  s.lzSend portAL 0x05 (bytesBE 4 e ++ bytesBE 4 plan)

/-- Class A slices have come to their first release (R329). -/
def State.classAReleased (s : State) : Bool :=
  (List.range 256).all (fun n => !(s.slEn n && s.slCrit n == 0) || (s.life n == 1 && ((s.sl n).pass.isSome || (s.sl n).everRun)))

/-- Raise every publisher entry's stNum at a takeover (R334). -/
def State.raiseStNums (s : State) : State :=
  let skip := s.fld RED_ST_SKIP 15 0
  s.each (List.range 264) (fun e s =>
    let v := match s.red.ckSt with | some l => l.getD e 0 | none => s.rd (PUB_ENT_STNUM e)
    s.setReg (PUB_ENT_STNUM e) ((v + skip) % 2 ^ 32))

/-- TAKEOVER_MANDATE (R329, R334, R335). -/
def State.takeMandate (s : State) : State :=
  match s.red.verdict with
  | some v =>
    let quiet : Bool := match s.red.mateHeld with | some t => decide (t + 2 * tMs ≤ s.clk) | none => true
    if s.member = 2 ∧ v.at_ + 8 * tMs ≤ s.clk ∧ quiet ∧ s.power.cx ∧ s.classAReleased then
      s.raiseStNums.gainMandate 3 v.epoch
    else s
  | none => s

def execTakeoverMandate (s : State) : Host.Outcome State Fault Refusal := .next s.takeMandate

/-! ### Losses (R327, R348) -/

/-- One of the holding conditions is in force (R327). -/
def State.holding (s : State) : Bool :=
  (match s.red.arbOk with | some t => decide (s.clk ≤ t + 6 * tMs) | none => false)
    || (match s.red.mateOk with | some t => decide (s.clk ≤ t + 5 * tMs) | none => false)

/-- MANDATE_LOSS (R324, R327, R330): no condition holds, or health is 0. -/
def State.mandateLoss (s : State) : State :=
  if s.mandate ∧ (s.health = 0 ∨ (s.holdsTwin ∧ s.holding = false)) then s.releaseMandate 5 else s

def execMandateLoss (s : State) : Host.Outcome State Fault Refusal := .next s.mandateLoss

/-- MATE_LOST (R348). -/
def execMateLost (s : State) : Host.Outcome State Fault Refusal :=
  .next (match s.red.mateAt with
    | some t =>
      if s.bit RED_STAT 6 ∧ t + 5 * tMs ≤ s.clk then
        let s := ((s.setBit RED_STAT 6 false).setBit RED_STAT 8 false).setBit RED_STAT 9 false
        ((s.setBit RED_STAT 11 false).inc RED_MATE_LOSS).evt RED_EVT 2
      else s
    | none => s)

/-- ARB_LOST (R341, R348): at a member the arbiter, at the arbiter member `r`. -/
def State.arbLost (r : Nat) (s : State) : State :=
  if s.role = 2 then
    if s.bit RED_ARB_VIEW (2 + r) ∧ s.heardPeer r 6 = false then
      (((s.setBit RED_ARB_VIEW (2 + r) false).inc RED_ARB_LOSS).evt RED_EVT 3).ledger 3 12 r RED_EVT 3 []
    else s
  else match s.red.arbAt with
    | some t =>
      if s.bit RED_STAT 7 ∧ t + 6 * tMs ≤ s.clk then ((s.setBit RED_STAT 7 false).inc RED_ARB_LOSS).evt RED_EVT 3 else s
    | none => s

def execArbLost (r : Fin 2) (s : State) : Host.Outcome State Fault Refusal := .next (s.arbLost r.val)

/-! ### Checkpoints (R332–R334) -/

/-- Cut `n` octets from an address into messages of at most 1,984: address and length. -/
def ckChunks : Nat → Nat → Nat → List (Nat × Nat)
  | 0, _, _ => []
  | k + 1, a, n => if n = 0 then [] else if n ≤ 1984 then [(a, n)] else (a, 1984) :: ckChunks k (a + 1984) (n - 1984)

/-- The valid regions of the checkpoint list: address and length. -/
def State.ckList (s : State) : List (Nat × Nat) :=
  let b := s.base RED_CK_LIST_LO 10
  (List.range 64).filterMap (fun i =>
    let a := b + 16 * i
    let w1 := s.ld (a + 4) 4
    if bitAt w1 31 then some (s.ld a 4 / 64 * 64 + bits w1 7 0 * 2 ^ 32, min (s.ld (a + 8) 4 / 64 * 64) (2 ^ 22)) else none)

/-- The objects of a set in order (R332): object, target, octets. -/
def State.ckObjects (s : State) : List (Nat × Nat × List Byte) :=
  let pb := s.base PTS_BASE_LO 28
  let blocks := s.red.dirty.map (fun e => (0, pb + e.1 * 1024, s.rdBytes (pb + e.1 * 1024) 1024))
  let regions := s.ckList.flatMap (fun r => (ckChunks 3000 r.1 r.2).map (fun c => (1, c.1, s.rdBytes c.1 c.2)))
  blocks ++ regions ++ [(2, 0, (List.range 264).flatMap (fun e => bytesLE 4 (s.rd (PUB_ENT_STNUM e))))]

/-- CHECKPOINT_START (R332): the holder ships a set; one still in flight delays the next. -/
def State.checkpoint (s : State) : State :=
  if s.mandate = false ∨ s.member = 6 ∨ s.bit RED_CK_CFG 16 = false ∨ s.power.nx = false ∨ s.power.mem = false
      ∨ s.clk < s.red.ckDue then s
  else if s.bit RED_STAT 11 then
    if s.red.ckLate then s else ((s.modRed (fun r => { r with ckLate := true })).inc RED_CK_LATE).evt RED_EVT 5
  else
    let set := (s.rd RED_CK_SET + 1) % 2 ^ 32
    let objs := s.ckObjects
    let s := s.modRed (fun r => { r with dirty := [], ckDue := s.clk + s.ckInterval, ckLate := false })
    let s := s.each (objs.zipIdx) (fun o s =>
      let (obj, addr, data) := o.1
      s.lzSend portML 0x06 (bytesBE 4 set ++ bytesBE 1 obj ++ bytesBE 5 addr ++ bytesBE 2 data.length ++ bytesBE 4 o.2 ++ data))
    let crc := crc32 (objs.flatMap (fun o => o.2.2))
    let s := s.lzSend portML 0x07 (bytesBE 4 set ++ bytesBE 4 objs.length ++ bytesBE 4 crc ++ bytesBE 4 0)
    ((s.setReg RED_CK_SET set).inc RED_CK_SETS).setBit RED_STAT 11 (s.bit RED_STAT 6)

def execCheckpointStart (s : State) : Host.Outcome State Fault Refusal := .next s.checkpoint

/-- Base of the staging area. -/
def State.stageBase (s : State) : Nat := s.base RED_CK_STAGE_LO 29

/-- CKPT_DATA at the standby (R333). -/
def State.ckptDataIn (x : LzMsg) (s : State) : State :=
  if s.member ≠ 1 ∨ s.power.mem = false then s else
  let set := x.at' 0 4
  let st := match s.red.stage with
    | some g => if g.set = set ∧ g.commit = false then g else { set := set, began := s.clk }
    | none => { set := set, began := s.clk }
  let n := x.at' 10 2
  let data := x.payload.drop 16
  let g :=
    if x.at' 12 4 ≠ st.next ∨ data.length ≠ n ∨ n < 32 ∨ 1984 < n ∨ n % 32 ≠ 0 then { st with broken := true }
    else if 2 ^ 29 < st.off + n then { st with full := true, next := st.next + 1 }
    else { st with
      msgs := st.msgs ++ [{ obj := x.at' 4 1, addr := x.at' 5 5, off := st.off, len := n }]
      next := st.next + 1
      off := st.off + n }
  let s := if st.off < g.off then s.dma (s.stageBase + st.off) data else s
  s.modRed (fun r => { r with stage := some g })

def execCkptData (m : List Byte) (s : State) : Host.Outcome State Fault Refusal := .next (s.lzIn portML 0x06 m State.ckptDataIn)

/-- Acknowledge a set. -/
def State.ckAck (set result : Nat) (s : State) : State :=
  s.lzSend portML 0x08 (bytesBE 4 set ++ bytesBE 1 result ++ bytesBE 3 0)

/-- Discard a set with its result (R333). -/
def State.ckRefuse (set result : Nat) (s : State) : State :=
  (((s.modRed (fun r => { r with stage := none })).inc RED_CK_REFUSED).evt RED_EVT 6).ckAck set result

/-- CKPT_END at the standby (R333). -/
def State.ckptEndIn (x : LzMsg) (s : State) : State :=
  if s.member ≠ 1 ∨ s.power.mem = false then s else
  let set := x.at' 0 4
  let g : CkStage := match s.red.stage with
    | some g => if g.set = set ∧ g.commit = false then g else { set := set, began := s.clk }
    | none => { set := set, began := s.clk }
  if g.full then s.ckRefuse set 3
  else if g.broken ∨ g.msgs.length ≠ x.at' 4 4 then s.ckRefuse set 1
  else if crc32 (s.rdBytes s.stageBase g.off) ≠ x.at' 8 4 then s.ckRefuse set 2
  else (s.modRed (fun r => { r with stage := some { g with commit := true } })).setBit RED_STAT 11 true

def execCkptEnd (m : List Byte) (s : State) : Host.Outcome State Fault Refusal := .next (s.lzIn portML 0x07 m State.ckptEndIn)

/-- CKPT_COMMIT_DONE (R333): staged messages are copied in order; the publisher record is kept. -/
def State.ckCommit (s : State) : State :=
  match s.red.stage with
  | some g =>
    if g.commit = false ∨ s.power.mem = false then s else
    let b := s.stageBase
    let s := s.each g.msgs (fun m s =>
      if m.obj = 2 then
        let l := (List.range 264).map (fun e => s.ld (b + m.off + 4 * e) 4)
        s.modRed (fun r => { r with ckSt := some l })
      else s.dmaCopy (b + m.off) m.addr m.len)
    let s := s.modRed (fun r => { r with
      stage := none
      committed := some (s.rd RED_EPOCH)
      fresh := true
      ckBegan := g.began
      revAcc := s.revertTicks
      revAt := if s.health = 3 then some s.clk else none })
    (((s.setReg RED_CK_SET g.set).inc RED_CK_SETS).setBit RED_STAT 11 false).ckAck g.set 0
  | none => s

def execCkptCommitDone (s : State) : Host.Outcome State Fault Refusal := .next s.ckCommit

/-- CKPT_ACK at the holder: the set is no longer in flight; a committed set is the last one committed. -/
def State.ckptAckIn (x : LzMsg) (s : State) : State :=
  if s.mandate = false then s else
  let s := s.setBit RED_STAT 11 false
  if x.at' 4 1 = 0 then s else s.evt RED_EVT 6

def execCkptAck (m : List Byte) (s : State) : Host.Outcome State Fault Refusal := .next (s.lzIn portML 0x08 m State.ckptAckIn)

/-! ### Handback (R336–R339) -/

/-- MAINT of a holder, requested by `req`, at most 10 times (R321, R340). -/
def State.sendMaint (req : Nat) (s : State) : State :=
  let n := match s.red.maint with | some (q, k) => if q = req then k else 0 | none => 0
  if s.mandate && decide (n < 10) && (bitAt s.red.mate.flags 3 != decide (req = 1)) && s.sendDue 0x0E 100000 then
    ((s.sent 0x0E).modRed (fun r => { r with maint := some (req, n + 1) })).lzSend portML 0x0E (bytesBE 1 req ++ bytesBE 7 0)
  else s

/-- The holder starts a plan: ACTIVE, health 3, no plan in progress. (DESIGN CHOICE: a target whose compute die is off is
asked to power it by MAINT; the spec names no message that tells it of a handback before G_h is chosen.) -/
def State.planStart (s : State) : State :=
  if s.member ≠ 3 ∨ s.health ≠ 3 ∨ s.red.plan.isSome then s else
  let id := s.red.planNext
  let s := s.modRed (fun r => { r with
    plan := some { id := id }
    planNext := if id = 2 ^ 32 - 1 then 1 else id + 1 })
  ((s.setPhase 1).setFld RED_HO_STAT 31 16 (id % 2 ^ 16)).sendMaint 1

def execHandbackReq (m : List Byte) (s : State) : Host.Outcome State Fault Refusal :=
  .next (s.lzIn portML 0x09 m (fun _ => State.planStart))
def execHandover (w : Who) (s : State) : Host.Outcome State Fault Refusal := .next (s.gateSup w RED_CMD State.planStart)

/-- The holder abandons its plan (R339): slices resume, it stays ACTIVE, no yield. -/
def State.planAbandon (s : State) : State :=
  match s.red.plan with
  | some p =>
    if s.holdsTwin = false ∨ p.yields ≠ 0 then s else
    let s := s.each ((List.range 256).filter (fun n => s.slEn n && s.life n == 3)) State.resume
    let s := (s.modRed (fun r => { r with plan := none })).setMember 3
    (s.setPhase 0).evt RED_EVT 7
  | none => s

def execAbandon (w : Who) (s : State) : Host.Outcome State Fault Refusal := .next (s.gateSup w RED_CMD State.planAbandon)

/-- HANDBACK_READY at the holder. -/
def State.readyIn (x : LzMsg) (s : State) : State :=
  match s.red.plan with
  | some p =>
    if s.holdsTwin = false ∨ p.yields ≠ 0 then s
    else if x.at' 5 1 ≠ 0 then s.planAbandon
    else if x.at' 4 1 = 1 ∧ s.hoPhase = 1 then (s.setPhase 2).planChoose
    else if x.at' 4 1 = 2 ∧ x.at' 0 4 = p.id ∧ p.chosen ∧ s.hoPhase = 2 then s.setPhase 3
    else s
  | none => s

def execHandbackReady (m : List Byte) (s : State) : Host.Outcome State Fault Refusal :=
  .next (s.lzIn portML 0x0B m State.readyIn)

/-- HANDBACK_PLAN at the target: its slices are armed for G_h in its own count (R337). -/
def State.handbackPlanIn (x : LzMsg) (s : State) : State :=
  if s.member ≠ 1 ∨ x.at' 0 4 = 0 then s else
  let g := x.at' 4 4
  let s := s.modRed (fun r => { r with plan := some { id := x.at' 0 4, own := g, twin := x.at' 12 4, chosen := true } })
  let s := s.cxRaise
  s.each ((List.range 256).filter (fun n => s.slEn n && s.life n == 3))
    (fun n s => (s.setReg (XEC_SL_RESUME_AT n) g).resumeCmd n true)

/-- MANDATE_YIELD with the stNum of every entry (R322, R338). -/
def State.yieldPayload (s : State) (id epoch : Nat) : List Byte :=
  bytesBE 4 id ++ bytesBE 4 epoch ++ bytesBE 8 0 ++ (List.range 264).flatMap (fun e => bytesBE 4 (s.rd (PUB_ENT_STNUM e)))

/-- HANDBACK_GRID_POINT (R338, R339): phase 2 missing at the closing of G_h − 1, the plan is abandoned; with it, the mandate
goes at the closing of G_h. -/
def State.handbackPoint (s : State) : State :=
  match s.red.plan with
  | some p =>
    if s.holdsTwin = false ∨ p.chosen = false then s else
    if s.hoPhase ≠ 3 then if s.gridPast ((p.own + 2 ^ 32 - 1) % 2 ^ 32) then s.planAbandon else s
    else if s.gridPast p.own then
      let e := s.red.held
      let s := (s.releaseMandate 1).enterStandby
      let s := (s.modRed (fun r => { r with plan := some { p with yields := 1, yieldAt := s.clk, twin := e } })).setPhase 4
      s.lzSend portML 0x0C (s.yieldPayload p.id e)
    else s
  | none => s

def execHandbackGridPoint (s : State) : Host.Outcome State Fault Refusal := .next s.handbackPoint

/-- MANDATE_YIELD at the target (R338). -/
def State.yieldIn (x : LzMsg) (s : State) : State :=
  match s.red.verdict with
  | some v =>
    if s.member = 1 ∧ v.kind = 3 ∧ v.plan = x.at' 0 4 then
      let s := s.each (List.range 264) (fun e s => s.setReg (PUB_ENT_STNUM e) (x.at' (16 + 4 * e) 4))
      { s.gainMandate 3 v.epoch with power := { s.power with cxOffAt := none } }
    else s
  | none => s

def execMandateYield (m : List Byte) (s : State) : Host.Outcome State Fault Refusal := .next (s.lzIn portML 0x0C m State.yieldIn)

/-- REVERT_HOLD_COMPLETE (R336): the hold is counted out, HANDBACK_REQ is sent and the compute die powered (R337). -/
def State.revertDone (s : State) : State :=
  if s.member = 1 ∧ s.role = 0 ∧ s.bit RED_REVERT 12 ∧ s.health = 3 ∧ s.bit RED_STAT 10 = false
      ∧ s.revertHold * tSec ≤ s.revertTicks then
    let s := ((s.setBit RED_STAT 10 true).cxRaise).sent 0x09
    s.lzSend portML 0x09 (bytesBE 4 s.healthSecs ++ bytesBE 4 0)
  else s

/-- A pair mismatch; a move to the pair is abandoned (R235). During a handback the plan is abandoned when its phase 2
comes late (R339). -/
def execLockstepMismatch (p : Fin 12) (s : State) : Host.Outcome State Fault Refusal :=
  .next (let t := s.mismatch p.val
    if t.pairState p.val = s.pairState p.val then t else t.moveTargetLost p.val)

/-- A stall isolates as a mismatch does (R176); DEDUCED, a move to the pair is abandoned as R235 says of a mismatch. -/
def execPairStall (p : Fin 12) (s : State) : Host.Outcome State Fault Refusal :=
  .next (let t := s.pairStall p.val
    if t.pairState p.val = s.pairState p.val then t else t.moveTargetLost p.val)

/-! ### Maintenance of a standby (R340) -/

/-- `cx_hold` of a STANDBY takes a value. -/
def State.cxHold (v : Bool) (s : State) : State :=
  let was := s.bit RED_CTL 2
  let s := s.setBit RED_CTL 2 v
  if s.member ≠ 1 ∨ was = v then s
  else if v then s.cxRaise
  else s.cxOffSoon

/-- MAINT at the standby. -/
def State.maintIn (x : LzMsg) (s : State) : State := if s.member = 1 then s.cxHold (decide (x.at' 0 1 = 1)) else s

def execMaint (m : List Byte) (s : State) : Host.Outcome State Fault Refusal := .next (s.lzIn portML 0x0E m State.maintIn)

/-- CX_HOLD_WRITE by slice 0; it sets the bit only while the compute die is on. -/
def execCxHoldWrite (w : Who) (v : Bool) (s : State) : Host.Outcome State Fault Refusal :=
  .next (s.gateSup w RED_CTL (fun s => if v && !s.power.cx then s else s.cxHold v))

/-! ### Periodic sends (R321) -/

/-- Engines and slices are up (R335, R337): every enabled reference tracks a source, every enabled channel is VALID, windows
are full, and no enabled slice is held up in FAULT or OFF. -/
def State.enginesUp (s : State) : Bool :=
  (List.range 16).all (fun r => !s.bit (WEFT_REF_CFG r) 0 || [2, 4].contains (s.refState r))
    && (List.range 96).all (fun n => !s.bit (SIE_CH_CFG n) 31 || s.fld (SIE_CH_STAT n) 2 0 == 2)
    && (List.range 128).all (fun i => !s.bit (PSU_IN_CFG i) 31 || s.bit (PSU_STAT_I i) 2)
    && (List.range 256).all (fun n => !s.slEn n || (s.life n != 0 && s.run n != 6))

/-- HANDBACK_READY of a target: phase 1 once it is brought up, phase 2 once its slices are armed (R337). -/
def State.sendReady (s : State) : State :=
  let slices := (List.range 256).filter (fun n => n != 0 && s.slEn n)
  match s.red.readySent, s.red.plan with
  | 0, _ =>
    if s.power.cx && s.ready && s.enginesUp then
      (s.modRed (fun r => { r with readySent := 1 })).lzSend portML 0x0B (bytesBE 4 0 ++ bytesBE 1 1 ++ bytesBE 3 0)
    else s
  | 1, some p =>
    if slices.all (fun n => s.life n == 7) then
      (s.modRed (fun r => { r with readySent := 2 })).lzSend portML 0x0B (bytesBE 4 p.id ++ bytesBE 1 2 ++ bytesBE 3 0)
    else s
  | _, _ => s

/-- MANDATE_YIELD again: twice 5 µs apart, then every 100 µs until the twin reports ACTIVE, for at most 10 ms (R338). -/
def State.sendYield (s : State) : State :=
  match s.red.plan with
  | some p =>
    let due := if p.yields < 3 then p.yieldAt + p.yields * 5 * tUs else p.yieldAt + (10 + (p.yields - 2) * 100) * tUs
    if p.yields ≠ 0 ∧ s.red.mate.st ≠ 3 ∧ due ≤ s.clk ∧ s.clk < p.yieldAt + 10 * tMs then
      (s.modRed (fun r => { r with plan := some { p with yields := p.yields + 1 } })).lzSend portML 0x0C (s.yieldPayload p.id p.twin)
    else s
  | none => s

/-- The dealer's heartbeat (R344). -/
def State.sendDealer (s : State) : State :=
  let due := match s.cas.sentAt with | some t => decide (t + tMs ≤ s.clk) | none => true
  if s.isDealer && due then
    { s with cas := { s.cas with sentAt := some s.clk } }.casSend 0x20 0xFF
      (bytesBE 2 (s.fld CAS_DIST 15 0) ++ bytesBE 1 s.health ++ bytesBE 1 0 ++ bytesBE 4 s.cas.called)
  else s

/-- HEARTBEAT_SEND (R321): the periodic message of type `ty` falls due. `arg` is the request of a MAINT. (DESIGN CHOICE:
a target asks for a handback again once G_h of the plan it had has closed.) -/
def State.heartbeat (ty arg : Nat) (s : State) : State :=
  if s.power.nx = false ∨ s.complete = false ∨ s.health = 0 then s
  else if ty = 0x20 then s.sendDealer
  else if s.bit RED_CTL 0 = false ∨ s.member = 6 then s
  else if s.role = 2 then
    if ty = 0x03 ∧ s.sendDue 3 2000 then ((s.sent 3).lzSend portAL 3 (s.arbStatus 0)).lzSend portMP 3 (s.arbStatus 1)
    else if ty = 0x04 ∧ s.sendDue 4 2000 then
      match s.red.issued with
      | some v => if !v.acked && decide (v.sends < 5) then (s.sent 4).sendVerdict else s
      | none => s
    else s
  else if s.role = 3 then s
  else match ty with
    | 0x01 => if s.sendDue 1 1000 then (s.sent 1).lzSend portML 1 s.mateHb else s
    | 0x02 => if s.sendDue 2 2000 then (s.sent 2).lzSend portAL 2 s.arbHb else s
    | 0x09 =>
      if s.member = 1 ∧ s.bit RED_STAT 10 ∧ s.planPending = false ∧ s.sendDue 9 100000 then
        ((s.sent 9).modRed (fun r => { r with plan := none, readySent := 0 })).lzSend portML 9 (bytesBE 4 s.healthSecs ++ bytesBE 4 0)
      else s
    | 0x0B => if s.member = 1 then s.sendReady else s
    | 0x0C => s.sendYield
    | 0x0D =>
      match s.red.plan with
      | some p =>
        if p.asking && s.holdsTwin && s.sendDue 0x0D 2000 then s.askYield p.id else s
      | none => s
    | 0x0E => s.sendMaint arg
    | _ => s

def execHeartbeatSend (ty arg : Byte) (s : State) : Host.Outcome State Fault Refusal := .next (s.heartbeat ty.toNat arg.toNat)

end Sys2Proof.Machine
end

