-- ==== Sys2Proof/Machine/Stack.lean ====
section
/-!
DEFINITION. The stack (R342–R347): receiving, forwarding and relaying cascade messages, the dealer, the follows, the
stack census.
-/

namespace Sys2Proof.Machine

/-- Change CAS's working state. -/
def State.modCas (f : Cas → Cas) (s : State) : State := { s with cas := f s.cas }

/-! ### Receiving (R320, R342, R343) -/

/-- The port a stack message arrives on; `own`: the module originates it. -/
def casPort : CasIn → Nat
  | .up => portCU
  | .down => portCD
  | .relay => portML
  | .own => portCU

/-- The message one hop further, with a new CRC. -/
def hopOn (m : List Byte) (x : LzMsg) : List Byte :=
  lzSeal (m.take 17 ++ bytesBE 1 (x.at' 1 1 + 1) ++ (m.take (16 + x.payload.length)).drop 18)

/-- Forward on a cascade port (R342). -/
def State.casForward (port : Nat) (m : List Byte) (x : LzMsg) (s : State) : State :=
  (s.lzEmit port (hopOn m x)).inc CAS_FWD

/-- Key of an origin, and of a message among those of its origin. -/
def originKey (x : LzMsg) : Nat := x.role * 8 + x.pos
def seenKey (x : LzMsg) : Nat := x.ty * 65536 + x.seq

/-- The message counts: the types only the dealer sends count from position 0 (R344). -/
def fromDealer (x : LzMsg) : Bool := !([0x20, 0x21, 0x23, 0x25].contains x.ty) || x.pos == 0

/-- A message not seen before is forwarded and relayed (R342, R343), and consumed when it is for this module. -/
def State.casFresh (src : CasIn) (m : List Byte) (x : LzMsg) (consume : LzMsg → State → State) (s : State) : State :=
  let dest := x.at' 0 1
  let all := dest == 0xFF
  let mine := dest == s.position
  let go := decide (x.at' 1 1 < 15)
  let relay := x.role == s.role && (all || (mine && !s.mandate)) && s.portUp portML && s.bit RED_CTL 0 && s.member != 6
  let s := match src with
    | .up => s.when (go && !(mine && s.mandate)) (State.casForward portCD m x)
    | .down => s.when (go && !(mine && s.mandate)) (State.casForward portCU m x)
    | .relay => s.when (go && all) (fun s => (s.casForward portCU m x).casForward portCD m x)
    | .own => s
  let s := if src ≠ .relay ∧ relay then (s.lzEmit portML (hopOn m x)).inc CAS_RELAY else s
  if (all || (mine && (s.mandate || decide (src = .relay)))) && fromDealer x then consume x s else s

/-- A stack message of type `ty` on a port. An own DEALER_HB that has gone round tells the positions in the ring. -/
def State.casIn (src : CasIn) (ty : Nat) (m : List Byte) (consume : LzMsg → State → State) (s : State) : State :=
  if s.bit CAS_CTL 0 = false ∨ s.power.nx = false ∨ s.complete = false ∨ src = .own ∨ s.portUp (casPort src) = false
      ∨ (src = .relay ∧ (s.bit RED_CTL 0 = false ∨ s.member = 6)) then s
  else match s.lzRead m with
    | none => if src = .relay then (s.inc RED_LZ_BAD).evt RED_EVT 8 else (s.inc CAS_BAD).evt CAS_EVT 4
    | some x =>
      if src ≠ .relay ∧ (x.ty < 0x20 ∨ 0x26 < x.ty) then (s.inc CAS_BAD).evt CAS_EVT 4
      else if x.ty ≠ ty then s
      else
        let s := (s.raiseEpoch x.epoch).inc CAS_RX
        if x.role = s.role ∧ x.pos = s.position then
          if ty = 0x20 then s.modCas (fun c => { c with ring := min 8 (x.at' 1 1 + 1) }) else s
        else if (s.cas.seen.at' (originKey x)).contains (seenKey x) then s
        else
          let s := s.modCas (fun c => { c with seen := c.seen.mod (originKey x) (fun l => (seenKey x :: l).take 256) })
          s.casFresh src m x consume

/-! ### The dealer and the follows (R344, R345) -/

def State.followEn (s : State) (r : Nat) : Bool := s.bit (CAS_FOLLOW r) 31
def State.followOf (s : State) (r : Nat) : Nat := s.fld (CAS_FOLLOW r) 3 0

/-- A follow is lost. -/
def State.followLost (r : Nat) (s : State) : State :=
  let s := s.when (s.bit (CAS_REF_STAT r) 0) (State.evt CAS_EVT 2)
  ((s.setBit (CAS_REF_STAT r) 0 false).setBit (CAS_REF_STAT r) 1 true).setFld (CAS_REF_STAT r) 4 2 0
    |>.modCas (fun c => { c with wrong := c.wrong.put r 0 })

/-- The follows in use. -/
def State.follows (s : State) : List Nat := (List.range 16).filter s.followEn

/-- DEALER_HB (R344): renews the dealer; of two claimants the one with the higher epoch is taken. -/
def State.dealerHbIn (x : LzMsg) (s : State) : State :=
  let known := s.bit CAS_STAT 4
  let other := known && decide (x.role ≠ s.cas.role)
  let s := s.when (other || s.isDealer) (State.evt CAS_EVT 6)
  if other && decide (x.epoch ≤ s.cas.epoch) then s
  else
    let fresh := !known || other
    let s := s.modCas (fun c => { c with role := x.role, epoch := x.epoch, at_ := s.clk, bitmap := x.at' 4 2, called := x.at' 8 4 })
    let s := s.setBit CAS_STAT 4 true
    let s := if fresh then (s.evt CAS_EVT 1).each s.follows State.followLost else s
    s.each (s.follows.filter (fun r => !bitAt (x.at' 4 2) (s.followOf r))) (fun r s => (s.followLost r).evt CAS_EVT 7)

def execDealerHb (src : CasIn) (m : List Byte) (s : State) : Host.Outcome State Fault Refusal :=
  .next (s.casIn src 0x20 m State.dealerHbIn)

/-- DEALER_LOSS (R344, R347): no DEALER_HB for 5 ms. -/
def State.dealerLoss (s : State) : State :=
  if s.bit CAS_STAT 4 ∧ s.cas.at_ + 5 * tMs ≤ s.clk then
    (((s.setBit CAS_STAT 4 false).evt CAS_EVT 0).inc CAS_DEALER_LOSS).each s.follows State.followLost
  else s

def execDealerLoss (s : State) : Host.Outcome State Fault Refusal := .next s.dealerLoss

/-- One ANGLE compared with the grid of follow `r` (R345): agreement with the same offset four times aligns it, four
consecutive disagreements lose it. -/
def State.followAngle (gd t : Nat) (r : Nat) (s : State) : State :=
  let agree := min (max (s.fld CAS_AGREE 15 0) 1) 4096
  match nearest t (s.gridLog r) with
  | none => s
  | some (gr, _) =>
    let d := (gd % 128 * 512 + 65536 - gr % 128 * 512) % 65536
    let ok := decide (min d (65536 - d) ≤ agree)
    let o := (gd + 2 ^ 40 - gr) % 2 ^ 32
    let run := s.fld (CAS_REF_STAT r) 4 2
    let aligned := s.bit (CAS_REF_STAT r) 0
    let same := decide (run ≠ 0 ∧ s.rd (CAS_REF_OFS r) = o)
    if ok && (same || !aligned) then
      let n := if same then min 7 (run + 1) else 1
      let s := ((s.setReg (CAS_REF_OFS r) o).setFld (CAS_REF_STAT r) 4 2 n).modCas (fun c => { c with wrong := c.wrong.put r 0 })
      if decide (4 ≤ n) && !aligned then
        ((s.setBit (CAS_REF_STAT r) 0 true).setBit (CAS_REF_STAT r) 1 false).evt CAS_EVT 3
      else s
    else
      let n := s.cas.wrong.at' r + 1
      let s := s.modCas (fun c => { c with wrong := c.wrong.put r n })
      if 4 ≤ n then s.followLost r else if aligned then s else s.setFld (CAS_REF_STAT r) 4 2 0

/-- ANGLE (R345). -/
def State.angleIn (x : LzMsg) (s : State) : State :=
  let d := x.at' 4 1
  let t := x.at' 16 4 * 10 ^ 9 + x.at' 12 4
  if s.bit CAS_STAT 4 = false ∨ x.role ≠ s.cas.role ∨ bitAt s.cas.bitmap d = false then s
  else s.each (s.follows.filter (fun r => s.followOf r == d)) (State.followAngle (x.at' 8 4) t)

def execAngle (src : CasIn) (m : List Byte) (s : State) : Host.Outcome State Fault Refusal :=
  .next (s.casIn src 0x21 m State.angleIn)

/-- The payload of ANGLE after its first four octets (R322). -/
def angleBody (d st g ns sec f : Nat) : List Byte :=
  bytesBE 1 d ++ bytesBE 1 st ++ bytesBE 2 0 ++ bytesBE 4 (g % 2 ^ 32) ++ bytesBE 4 ns ++ bytesBE 4 (sec % 2 ^ 32) ++ bytesBE 4 f

/-- The dealer sends ANGLE at each grid point with G mod 8 = 0 of a distributed reference (R344). -/
def State.angleSend (r gp tg : Nat) (s : State) : State :=
  if s.isDealer && s.bit CAS_DIST r && decide (gp % 8 = 0) then
    s.casSend 0x21 0xFF (angleBody r (s.refState r) gp (tg % 10 ^ 9) (tg / 10 ^ 9) (s.rd (WEFT_REF_FREQ r)))
  else s

/-- PARTIAL (R169, R345): handed to the zone with its G in the local count of the zone's reference. -/
def State.partialIn (x : LzMsg) (s : State) : State :=
  let z := x.at' 4 1
  if s.power.cx = false ∨ 16 ≤ z then s else
  let v := fun i => signed 64 (x.at' (12 + 8 * i) 8)
  s.zContribution z {
    pos := x.pos, gp := (x.at' 8 4 + 2 ^ 32 - s.casOffset (s.zRef z)) % 2 ^ 32
    d := [v 0, v 1, v 2], r := [v 3, v 4, v 5], q := x.at' 5 1 }

def execPartialSum (src : CasIn) (m : List Byte) (s : State) : Host.Outcome State Fault Refusal :=
  .next (s.casIn src 0x22 m State.partialIn)

/-! ### The stack census (R100, R101, R346) -/

/-- The local reference that follows dealer reference `d`; on the dealer `d` itself. -/
def State.followerOf (s : State) (d : Nat) : Option Nat :=
  if s.isDealer then some d else s.follows.find? (fun r => s.followOf r == d && s.bit (CAS_REF_STAT r) 0)

/-- An accepted call arms CEN with its number and instant, over an armed local census; an instant already past latches
at once and late (R101). -/
def State.censusAccept (number : Nat) (grid : Bool) (d gp sec ns : Nat) (s : State) : State :=
  if s.bit CEN_CTL 0 = false ∨ s.bit CEN_CTL 1 = false then s else
  let s := s.censusAbort
  if grid then
    match s.followerOf d with
    | none => s.evt CEN_ERR 1
    | some r =>
      if s.refState r = 0 then s.evt CEN_ERR 1
      else s.cenSet { grid := true, ref := r, gp := (gp + 128 - s.casOffset r % 128) % 128, number := number, stack := true }
  else
    let at_ := s.cenInstant sec ns
    if at_ < s.wallNs then s.cenLatch number true false true (s.wallNs - at_)
    else s.cenSet { sec := sec, ns := ns, number := number, stack := true }

/-- A call with a new number clears the collection (R346). -/
def State.censusCalled (number : Nat) (s : State) : State :=
  if s.fld CAS_CEN_GOT 31 16 = number then s
  else (s.setReg CAS_CEN_GOT (number % 2 ^ 16 * 2 ^ 16)).modCas (fun c => { c with got := [] })

def State.censusCallIn (x : LzMsg) (s : State) : State :=
  let n := x.at' 4 2
  (s.censusCalled n).censusAccept n (x.at' 6 1 == 1) (x.at' 7 1 % 16) (x.at' 8 1 % 128) (x.at' 16 4) (x.at' 12 4)

/-- The dealer calls a stack census (R100): `m` is the payload after its first four octets. A time-form instant lies at
least 100 µs ahead, a grid point belongs to a distributed reference and lies at least 2 grid points ahead. -/
def State.censusCallOwn (m : List Byte) (s : State) : State :=
  let at2 := fun off n => beNat ((m.drop off).take n)
  let n := at2 0 2
  let grid := at2 2 1 == 1
  let d := at2 3 1 % 16
  let gp := at2 4 1 % 128
  let idx := s.fld (WEFT_REF_ANGLE_LO d) 15 9
  let ok := if grid then s.bit CAS_DIST d && decide (gp ≠ (idx + 1) % 128)
    else decide (s.wallNs + 100000 ≤ s.cenInstant (at2 12 4) (at2 8 4))
  if !(s.isDealer && s.bit CAS_CTL 0 && s.power.nx && s.complete && m.length == 16 && bitAt n 15 && ok) then s
  else
    let s := ((s.modCas (fun c => { c with called := n })).censusCalled n).casSend 0x23 0xFF m
    s.censusAccept n grid d gp (at2 12 4) (at2 8 4)

def execCensusCall (src : CasIn) (m : List Byte) (s : State) : Host.Outcome State Fault Refusal :=
  .next (if src = .own then s.censusCallOwn m else s.casIn src 0x23 m State.censusCallIn)

/-- How far the received pieces cover the image from octet `x` on. -/
def coverFrom (l : List (Nat × Nat)) : Nat → Nat → Nat
  | 0, x => x
  | n + 1, x => match l.find? (fun c => decide (c.1 ≤ x ∧ x < c.1 + c.2)) with
    | some c => coverFrom l n (c.1 + c.2)
    | none => x

/-- Address of position `p`'s image (R346). -/
def State.cenSlot (s : State) (p : Nat) : Nat := s.base CAS_CEN_BUF_LO 25 + p * 0x400000

/-- Position `p`'s image is in: its bit, and `cen_got` when all known positions are. -/
def State.cenGot (p : Nat) (s : State) : State :=
  let had := bits (s.rd CAS_CEN_GOT) 7 0
  let s := s.setBit CAS_CEN_GOT p true
  let want := 2 ^ s.cas.ring - 1
  let now := bits (s.rd CAS_CEN_GOT) 7 0
  s.when (decide (now &&& want = want ∧ had &&& want ≠ want)) (State.evt CAS_EVT 5)

/-- CENSUS_DATA at the dealer (R346). -/
def State.censusDataIn (x : LzMsg) (s : State) : State :=
  let off := x.at' 8 4
  let len := x.at' 12 4
  let data := x.payload.drop 16
  if s.isDealer = false ∨ s.power.mem = false ∨ x.at' 4 2 ≠ s.fld CAS_CEN_GOT 31 16 ∨ data.length = 0 ∨ 1984 < data.length
      ∨ 0x400000 < off + data.length then s
  else
    let a := s.cenSlot x.pos
    let s := s.dma (a + off) data
    let got := s.cas.got.at' x.pos ++ [(off, data.length)]
    let s := s.modCas (fun c => { c with got := c.got.put x.pos got })
    if len ≤ coverFrom got got.length 0 ∧ 0x40 ≤ len ∧ crc32 (s.rdBytes (a + 0x40) (len - 0x40)) = s.ld (a + 0x28) 4 then s.cenGot x.pos
    else s

def execCensusData (src : CasIn) (m : List Byte) (s : State) : Host.Outcome State Fault Refusal :=
  .next (s.casIn src 0x24 m State.censusDataIn)

/-- A completed stack census image goes to the dealer; the dealer copies its own (R346). -/
def State.censusShip (a len number : Nat) (s : State) : State :=
  if s.bit CAS_CTL 1 = false ∨ s.mandate = false then s
  else if s.isDealer then
    if s.bit CAS_CTL 0 ∧ s.fld CAS_CEN_GOT 31 16 = number then (s.dma (s.cenSlot 0) (s.rdBytes a len)).cenGot 0 else s
  else
    s.each (ckChunks 3000 0 len) (fun c s =>
      s.casSend 0x24 0 (bytesBE 2 number ++ bytesBE 2 0 ++ bytesBE 4 c.1 ++ bytesBE 4 len ++ s.rdBytes (a + c.1) c.2))

/-- CENSUS_IMAGE_COMPLETE (R97, R346). -/
def State.censusImageComplete (s : State) : State :=
  match s.cen.image with
  | none => s
  | some c =>
    let t := s.censusComplete
    if t.cen.image.isSome ∨ c.stack = false then t
    else t.censusShip (s.base CEN_BUF_LO 23 + s.cen.slot * 0x400000) (0x40 + c.body.length) c.number

def execCensusImageComplete (s : State) : Host.Outcome State Fault Refusal := .next s.censusImageComplete

/-! ### Grid points issued (R81, R344) -/

/-- GRID_POINT_ISSUE (R81): the reference issues its next grid point; the dealer sends ANGLE. -/
def State.gridPointIssue (r : Nat) (p b : SourceMeas) (dual : Bool) (s : State) : State :=
  let w := s.weftOf r
  let t := s.gridIssue r p b dual
  if (t.weftOf r).seq = w.seq then t
  else (t.stagingIssue r).angleSend r (w.angle / 512) ((w.next + 2 ^ 7) / 2 ^ 8)

def execGridPointIssue (r : Fin 16) (p b : SourceMeas) (dual : Bool) (s : State) : Host.Outcome State Fault Refusal :=
  .next (s.gridPointIssue r.val p b dual)

end Sys2Proof.Machine
end

