-- ==== Sys2Proof/Machine/Tae.lean ====
section
/-!
DEFINITION. The disturbance recorder (R351–R371).
-/

namespace Sys2Proof.Machine

def State.recOf (s : State) (r : Nat) : Recorder := s.tae.at' r
def State.modRec (r : Nat) (f : Recorder → Recorder) (s : State) : State := { s with tae := s.tae.mod r f }
/-- State of a recorder (R359). -/
def State.recState (s : State) (r : Nat) : Nat := s.fld (TAE_REC_STAT r) 2 0
def State.recRef (s : State) (r : Nat) : Nat := s.fld (TAE_REC_CFG r) 30 27
def State.recEn (s : State) (r : Nat) : Bool := s.bit (TAE_REC_CFG r) 31
def State.recStack (s : State) (r : Nat) : Bool := s.bit (TAE_REC_CFG r) 26
def State.recPre (s : State) (r : Nat) : Nat := min (s.fld (TAE_REC_DEPTH r) 15 0) 20480
def State.recPost (s : State) (r : Nat) : Nat := max (s.fld (TAE_REC_DEPTH r) 31 16) 1
def State.recSize (s : State) (r : Nat) : Nat := s.recPre r + s.recPost r
def State.recSlots (s : State) (r : Nat) : Nat := max (s.fld (TAE_REC_SLOTS r) 7 0) 2
def State.recCur (s : State) (r : Nat) : Nat := s.fld (TAE_REC_STAT r) 23 16

/-- Octets of a row (R353). -/
abbrev rowLen : Nat := 2432

/-- Distance of slots (R358). -/
def slotStride (size : Nat) : Nat := (0x3000 + size * rowLen + 65535) / 65536 * 65536

/-- Address of slot `k`. -/
def State.slotAt (s : State) (r k : Nat) : Nat := s.base (TAE_REC_AREA_LO r) 16 + k * slotStride (s.recSize r)

/-- Address of row `i` of a slot. -/
def recRowAt (slot i : Nat) : Nat := slot + 0x3000 + i * rowLen

/-- A change of state (R360). -/
def State.setRec (r st : Nat) (s : State) : State :=
  if s.recState r = st then s else (s.setFld (TAE_REC_STAT r) 2 0 st).evt (TAE_REC_EVT r) 0

/-! ### Channels (R354, R355) -/

/-- Grid value of an analogue channel of kind 0 exists on the recorder's reference. -/
def State.achOk (s : State) (r a : Nat) : Bool :=
  let w := s.rd (TAE_ACH_SRC r a)
  s.inputOk (bits w 13 7) (bits w 4 0) 1 (s.recRef r)

/-- Value word and quality byte of an analogue channel at grid sequence `k`. -/
def State.achValue (s : State) (r a k : Nat) : Nat × Nat :=
  let w := s.rd (TAE_ACH_SRC r a)
  if bitAt w 31 = false then (0, 0)
  else if bits w 30 29 = 0 then
    if s.achOk r a then
      let (v, q) := s.engineIn (bits w 13 7) (bits w 4 0) k
      (unsigned 32 v, q)
    else (0, 2)
  else if bits w 30 29 = 3 then (0, 2)
  else (s.pointWord (bits w 22 0) 0, bits (s.pointWord (bits w 22 0) 2) 7 0)

/-- Value and invalid bit of a binary channel. -/
def State.bchValue (s : State) (r b : Nat) : Bool × Bool :=
  let w := s.rd (TAE_BCH_SRC r b)
  if bitAt w 31 = false then (false, false)
  else
    let p := bits w 22 0
    let q := bits (s.pointWord p 2) 1 0
    if [1, 2, 8].contains (s.pointType p) then
      (bitAt (s.pointVal p) (bits w 29 24) != bitAt w 30, q == 1 || q == 2)
    else (false, true)

/-- The value of an analogue channel as binary32, from its value word: an integer for kinds 0 and 1. -/
def State.achFloat (s : State) (r a v : Nat) : F32 :=
  if s.fld (TAE_ACH_SRC r a) 30 29 = 2 then v else fOfInt (signed 32 v)

/-- A row's channels: value word and quality of the analogue ones, value and invalid bit of the binary ones. `bad`: the
channels whose transfer failed its CRC (R369). -/
structure RowVals where
  ana : List (Nat × Nat)
  bin : List (Bool × Bool)
  deriving DecidableEq, Repr

def State.rowVals (s : State) (r k : Nat) (bad : List Nat) : RowVals :=
  { ana := (List.range 256).map (fun a =>
      let (v, q) := s.achValue r a k
      if bad.contains a then (v, atLeast 1 q) else (v, q))
    bin := (List.range 1024).map (fun b =>
      let (v, i) := s.bchValue r b
      (v, i || bad.contains (256 + b))) }

/-! ### Triggers (R357) -/

def State.trgEn (s : State) (r u : Nat) : Bool := s.bit (TAE_TRG_CFG r u) 31
def State.trgKind (s : State) (r u : Nat) : Nat := s.fld (TAE_TRG_CFG r u) 30 27

/-- A threshold test. -/
def dirTest (dir : Nat) (v thr : F32) : Bool :=
  match dir with
  | 0 => fLt thr v
  | 1 => fLt v thr
  | 2 => fLt thr (fAbs v)
  | _ => false

/-- Validity invalid or never produced. -/
def invalidQ (q : Nat) : Bool := q % 4 == 1 || q % 4 == 2

/-- The operand of a unit of kinds 3 and 4 is bound to the recorder's reference. -/
def State.trgBound (s : State) (r u : Nat) : Bool :=
  let o := s.rd (TAE_TRG_CFG r u)
  match s.trgKind r u with
  | 3 => s.psuRef (bits o 6 0) == s.recRef r
  | 4 => s.zRef (bits o 3 0) == s.recRef r
  | _ => true

/-- The unit's engine result for grid sequence `k` has been published (R352). -/
def State.trgReady (s : State) (r u k : Nat) : Bool :=
  match s.trgKind r u with
  | 3 => s.ld (s.area PSU_MARK_BASE 10 + s.recRef r * 64 + 4) 4 == k % 2 ^ 32
  | 4 => s.ld (s.area DZE_MARK_BASE 10 + s.fld (TAE_TRG_CFG r u) 3 0 * 64 + 4) 4 == k % 2 ^ 32
  | _ => true

/-- The test of a phasor unit on the record of `k`. -/
def State.phasorTest (s : State) (r u k : Nat) : Bool :=
  let o := s.rd (TAE_TRG_CFG r u)
  let w := bits o 13 8
  let a := s.area PSU_OUT_BASE 16 + bits o 6 0 * 0x200 + k % 2 * 0x100
  let thr := s.rd (TAE_TRG_THR r u)
  if s.ld a 4 ≠ k % 2 ^ 32 ∨ w < 2 ∨ invalidQ (s.ld (a + 4) 1) then false
  else if bits o 26 25 = 2 then w % 2 == 0 && fLt thr (C32.mag ⟨s.ld (a + 4 * w) 4, s.ld (a + 4 * w + 4) 4⟩)
  else dirTest (bits o 26 25) (s.ld (a + 4 * w) 4) thr

/-- The test of a differential unit on the record of `k`. -/
def State.diffTest (s : State) (r u k : Nat) : Bool :=
  let o := s.rd (TAE_TRG_CFG r u)
  let a := s.area DZE_OUT_BASE 12 + bits o 3 0 * 0x100 + k % 2 * 0x80
  let w := s.ld (a + 4) 4
  if s.ld a 4 ≠ k % 2 ^ 32 ∨ invalidQ w then false
  else match bits o 9 8 with
    | 0 => bits w 10 8 != 0
    | 1 => bits w 10 8 &&& (7 - bits w 13 11) != 0
    | 2 => bitAt w 14
    | _ => false

/-- A unit's test at a row: whether it holds, the history of a rate unit and the last value of a binary unit after it.
`late`: the unit's engine result did not arrive in time. -/
def State.trgTest (s : State) (r u k : Nat) (vals : RowVals) (late : Bool) : Bool × List Nat × Nat :=
  let o := s.rd (TAE_TRG_CFG r u)
  let t := s.recOf r
  let hist := t.hist.at' u
  let last := t.bins.at' u
  let thr := s.rd (TAE_TRG_THR r u)
  let ch := bits o 7 0
  let (v, q) := vals.ana.getD ch (0, 2)
  let x := fMul (s.achFloat r ch v) (s.rd (TAE_ACH_SCALE r ch))
  match s.trgKind r u with
  | 1 => (!invalidQ q && dirTest (bits o 26 25) x thr, hist, last)
  | 2 =>
    let span := max (bits o 23 16) 1
    let x := if invalidQ q then fNaN else x
    let old := hist.getD (span - 1) fNaN
    (fLt thr (fAbs (fSub x old)), (x :: hist).take 255, last)
  | 3 => (!late && s.trgBound r u && s.phasorTest r u k, hist, last)
  | 4 => (!late && s.trgBound r u && s.diffTest r u k, hist, last)
  | 5 =>
    let (b, i) := vals.bin.getD (bits o 9 0) (false, true)
    let now := if i then 0 else if b then 2 else 1
    let rise := last == 1 && now == 2
    let fall := last == 2 && now == 1
    ((match bits o 26 25 with | 0 => rise | 1 => fall | 2 => rise || fall | _ => false), hist, now)
  | 6 => (false, hist, last)
  | 7 => (t.manual, hist, last)
  | 8 => (t.grd &&& bits o 3 0 != 0, hist, last)
  | _ => (false, hist, last)

/-- Evaluate the units of a recorder at a row: those that reach their condition, lowest first. `bad`: engine results
whose transfer failed its CRC; `fired`: a remote trigger falls on this row. -/
def State.trgEval (r k : Nat) (vals : RowVals) (bad : List Nat) (fired : Bool) (s : State) : State × List Nat :=
  let units := (List.range 16).filter (s.trgEn r)
  let res := units.map (fun u =>
    let (ok, hist, last) := s.trgTest r u k vals (bad.contains (1280 + u) || !s.trgReady r u k)
    let pers := if 5 ≤ s.trgKind r u then 1 else max (s.fld (TAE_TRG_PERS r u) 7 0) 1
    let run := if ok then (s.recOf r).runs.at' u + 1 else 0
    (u, run, hist, last, if s.trgKind r u = 6 then fired && s.recStack r else ok && (decide (5 ≤ s.trgKind r u) || run == pers)))
  let s := s.modRec r (fun t => { t with
    runs := res.foldl (fun m e => m.put e.1 e.2.1) t.runs
    hist := res.foldl (fun m e => m.put e.1 e.2.2.1) t.hist
    bins := res.foldl (fun m e => m.put e.1 e.2.2.2.1) t.bins
    manual := false
    grd := 0 })
  (s, (res.filter (·.2.2.2.2)).map (·.1))

/-! ### Rows (R353) -/

/-- Octets of the bits of a list, first bit lowest. -/
def packBits (l : List Bool) : List Byte :=
  (List.range (l.length / 8)).map (fun i => BitVec.ofNat 8 (maskOf ((l.drop (8 * i)).take 8)))

/-- A row's octets but for its CRC, split at 0x07C. -/
def State.rowParts (s : State) (r k : Nat) (vals : RowVals) (late crc : Bool) (units : List Nat) (fire : Bool) : List Byte × List Byte :=
  let w := fun (i : Nat) => s.recWord (s.recRef r) k i
  let trig := !units.isEmpty
  let src := match units with | u :: _ => s.trgKind r u | [] => 0
  let flags := bits (w 1) 18 0 + b2n (bitAt (w 1) 21) * 2 ^ 19 + b2n late * 2 ^ 20 + b2n trig * 2 ^ 21 + b2n fire * 2 ^ 22
    + b2n crc * 2 ^ 23 + src * 2 ^ 24
  let head := words [k % 2 ^ 32, w 0, flags, w 2, w 3, w 4, units.foldl (fun m u => m + 2 ^ u) 0] ++ List.replicate 96 0
  let body := words (vals.ana.flatMap (fun e => [e.1, e.2])) ++ packBits (vals.bin.map (·.1)) ++ packBits (vals.bin.map (·.2))
  (head, body)

/-- The row with its CRC. -/
def sealRow (p : List Byte × List Byte) : List Byte := p.1 ++ bytesLE 4 (crc32 (p.1 ++ p.2)) ++ p.2

/-- Set `fire` in a row already written. -/
def State.markFire (a : Nat) (s : State) : State :=
  let w := s.ld (a + 8) 4
  let s := s.dmaWords (a + 8) [setBits w 22 22 1]
  s.dmaWords (a + 0x7C) [crc32 (s.rdBytes a 0x7C ++ s.rdBytes (a + 0x80) 0x900)]

/-- Enter a row in the current slot. -/
def State.rowIntoCur (r : Nat) (row : List Byte) (s : State) : State :=
  let t := s.recOf r
  let n := s.recSize r
  (s.dma (recRowAt (s.slotAt r (s.recCur r)) (t.row % n)) row).modRec r (fun t => { t with
    row := (t.row + 1) % n
    held := min n (t.held + 1) })

/-- Enter a row in the next slot. -/
def State.rowIntoNext (r : Nat) (row : List Byte) (s : State) : State :=
  let t := s.recOf r
  match t.nxt with
  | some k => (s.dma (recRowAt (s.slotAt r k) (t.nrow % s.recSize r)) row).modRec r (fun t => { t with nrow := t.nrow + 1 })
  | none => s

/-! ### Slots (R361, R363) -/

/-- A slot holds no record: not current, not next, not completed, not waiting to be written out. -/
def State.slotFree (s : State) (r k : Nat) : Bool :=
  let t := s.recOf r
  k != s.recCur r && t.nxt != some k && !t.done.any (fun e => e.1 == k) && !t.finish.any (fun e => e.slot == k)

/-- The slot of the oldest completed record. -/
def oldestSlot : FMap Nat → Option (Nat × Nat)
  | [] => none
  | e :: rest => match oldestSlot rest with
    | none => some e
    | some f => if e.2 ≤ f.2 then some e else some f

/-- The next slot (R361) and whether it overwrites a completed record. -/
def State.chooseSlot (s : State) (r : Nat) : Option (Nat × Bool) :=
  match (List.range (s.recSlots r)).find? (s.slotFree r) with
  | some k => some (k, false)
  | none =>
    if s.bit (TAE_REC_CFG r) 24 then (oldestSlot (s.recOf r).done).map (fun e => (e.1, true)) else none

/-- Show the completed records held. -/
def State.showHeld (r : Nat) (s : State) : State := s.setFld (TAE_REC_STAT r) 31 24 (s.recOf r).done.length

/-- Slot `k` becomes current with `row` rows in it. -/
def State.makeCurrent (r k rows : Nat) (s : State) : State :=
  let n := s.recSize r
  (s.setFld (TAE_REC_STAT r) 23 16 k).modRec r (fun t => { t with
    row := rows % n
    held := min n rows
    nxt := none
    nrow := 0 })

/-- The state outside a record: ARMED or IDLE as the arm state gives. -/
def State.restState (s : State) (r : Nat) : Nat := if (s.recOf r).armed then 2 else 1

/-- The recorder begins with every slot empty, as at enable (R360, R370). -/
def State.slotsEmpty (r : Nat) (s : State) : State :=
  ((s.modRec r (fun t => { t with done := [], nxt := none, nrow := 0 })).makeCurrent r 0 0).showHeld r

/-! ### Records (R361–R363, R366) -/

/-- The record's rows are over: it waits to be written out, the next slot becomes current, the recorder goes to HOLDOFF,
IDLE or FULL (R360, R361). -/
def State.endRecord (r : Nat) (s : State) : State :=
  let t := s.recOf r
  match t.open_ with
  | none => s
  | some o =>
    let s := s.modRec r (fun t => { t with open_ := none, finish := t.finish ++ [o], holdAt := s.clk, holdN := 0 })
    match t.nxt with
    | some k => (s.makeCurrent r k t.nrow).setRec r (if t.armed then 4 else 1)
    | none => s.setRec r 5

/-- A measured window of a record: value and quality of a channel in each of 128 rows from row `i` of the record. -/
def State.window (s : State) (o : RecOpen) (a i : Nat) : List (Nat × Nat × Nat) :=
  (List.range 128).map (fun j =>
    let b := recRowAt o.addr ((o.first + i + j) % o.size)
    (s.ld (b + 0x80 + 8 * a) 4, s.ld (b + 0x84 + 8 * a) 1, bits (s.ld (b + 4) 4) 15 9))

/-- Value × 2^−exp × scale of a channel of kind 0, else value × scale. -/
def State.measured (s : State) (r a v : Nat) : F32 :=
  let w := s.rd (TAE_ACH_SRC r a)
  let x := if bits w 30 29 = 0 then fOfScaled (signed 32 v) (-(signed 5 (s.fld (SIE_QTY_CFG (bits w 13 7) (bits w 4 0)) 4 0)))
    else s.achFloat r a v
  fMul x (s.rd (TAE_ACH_SCALE r a))

/-- RMS over the valid rows of a window. -/
def rmsOf (l : List F32) : F32 := fSqrt (fDiv (l.foldl (fun t x => fAdd t (fMul x x)) 0) (fOfInt l.length))

/-- The phasor of a window (R156, R366). -/
def State.winPhasor (s : State) (r a : Nat) (win : List (Nat × Nat × Nat)) : C32 :=
  if win.any (fun e => invalidQ e.2.1) then ⟨fNaN, fNaN⟩ else
  let w := s.rd (TAE_ACH_SRC r a)
  let e := signed 5 (s.fld (SIE_QTY_CFG (bits w 13 7) (bits w 4 0)) 4 0)
  let term := fun (f : Nat → Int) => (win.map (fun p => signed 32 p.1 * f p.2.2)).foldl (· + ·) 0
  let conv := fun (v : Int) => fMul (fMul (fOfScaled v (-30 - e)) fRms) (s.rd (TAE_ACH_SCALE r a))
  ⟨conv (term sin30), conv (term cos30)⟩

/-- Peak magnitude of a channel over the record and its row relative to G_t; free words where no row is valid. -/
def State.peakRow (s : State) (r a : Nat) (o : RecOpen) : List Nat :=
  let rows := (List.range (o.pre + o.post)).filterMap (fun i =>
    let b := recRowAt o.addr ((o.first + i) % o.size)
    if invalidQ (s.ld (b + 0x84 + 8 * a) 1) then none else some (i, fAbs (s.measured r a (s.ld (b + 0x80 + 8 * a) 4))))
  match rows with
  | [] => [Config.freeValue s.free % 2 ^ 32, Config.freeValue (s.free + 1) % 2 ^ 32]
  | e :: rest =>
    let (i, p) := rest.foldl (fun (t : Nat × Nat) x => if fLt t.2 x.2 then x else t) e
    [p, unsigned 32 ((i : Int) - o.pre)]

/-- The eight measurement words of a channel (R366). -/
def State.measure (s : State) (r a : Nat) (o : RecOpen) : List Nat :=
  if s.bit (TAE_ACH_SRC r a) 31 = false then List.replicate 8 0 else
  let pk := s.peakRow r a o
  if s.fld (TAE_ACH_SRC r a) 30 29 ≠ 0 then [fNaN, fNaN] ++ pk ++ List.replicate 4 fNaN
  else
    let ofs := s.fld (TAE_REC_MEAS r) 7 0
    let one := fun (ok : Bool) (i : Nat) =>
      if ok then
        let win := s.window o a i
        let p := s.winPhasor r a win
        (rmsOf ((win.filter (fun e => !invalidQ e.2.1)).map (fun e => s.measured r a e.1)), p)
      else (fNaN, (⟨fNaN, fNaN⟩ : C32))
    let (r0, p0) := one (decide (130 ≤ o.pre)) (o.pre - 130)
    let (r1, p1) := one (decide (ofs + 128 ≤ o.post)) (o.pre + ofs)
    [r0, r1] ++ pk ++ [p0.re, p0.im, p1.re, p1.im]

/-- Words 0x00 to 0x3C of a record header (R363). -/
def State.recHeader (s : State) (r : Nat) (o : RecOpen) : List Nat :=
  let ana := ((List.range 256).filter (fun a => s.bit (TAE_ACH_SRC r a) 31)).length
  let bin := ((List.range 1024).filter (fun b => s.bit (TAE_BCH_SRC r b) 31)).length
  [ 0x52454344,
    r + 2 ^ 8 + b2n (s.recStack r) * 2 ^ 16 + b2n o.short * 2 ^ 17 + b2n o.trunc * 2 ^ 18 + b2n o.unaligned * 2 ^ 19
      + b2n o.crcErr * 2 ^ 20 + b2n o.ovw * 2 ^ 21,
    o.num, o.armId, o.src + o.origin * 2 ^ 8 + b2n o.remote * 2 ^ 11, o.gt % 2 ^ 32, o.ns, o.sec, o.first, o.pre, o.post,
    o.ref + o.refSt * 2 ^ 4, fOfScaled o.freq (-24), (divRne (10 ^ 9 * 2 ^ 24) (max o.freq 1)).toNat % 2 ^ 32,
    ana + bin * 2 ^ 16, min o.met (2 ^ 32 - 1) ]

/-- Write a record out: trigger list, measurements, header, completion word last (R363). -/
def State.writeRecord (r : Nat) (o : RecOpen) (s : State) : State :=
  let list := (o.list.take 16).flatMap (fun e => [e.1 % 2 ^ 32, e.2.1, e.2.2.1, e.2.2.2 % 2 ^ 32])
  let meas := (List.range 256).flatMap (fun a => s.measure r a o)
  let s := { s with free := s.free + 2 }
  let s := s.dmaWords (o.addr + 0x100) (list ++ List.replicate (64 - list.length) 0)
  let s := s.dmaWords (o.addr + 0x1000) meas
  let s := s.dmaWords o.addr (s.recHeader r o ++ [crc32 (s.rdBytes (o.addr + 0x100) (0x2F00 + o.size * rowLen))])
  let s := s.dmaWords (o.addr + 0xFC) [o.num % 2 ^ 31 + 2 ^ 31]
  let s := s.modRec r (fun t => { t with done := t.done.put o.slot o.num })
  let s := ((s.setFld (TAE_REC_STAT r) 15 8 o.slot).setReg (TAE_REC_LAST r) o.num).inc (TAE_REC_RECS r)
  let s := (s.when o.short (State.evt (TAE_REC_EVT r) 3)).when o.trunc (State.evt (TAE_REC_EVT r) 4)
  (s.evt (TAE_REC_EVT r) 1).showHeld r

/-- RECORD_COMPLETE (R363): the oldest record whose rows are over is written out. -/
def State.recordComplete (r : Nat) (s : State) : State :=
  if s.power.cx = false ∨ s.power.mem = false ∨ s.recState r = 7 then s else
  match (s.recOf r).finish with
  | o :: rest => (s.modRec r (fun t => { t with finish := rest })).writeRecord r o
  | [] => s

def execRecordComplete (r : Fin 8) (s : State) : Host.Outcome State Fault Refusal := .next (s.recordComplete r.val)

/-- An open record closes with `truncated` (R360, R370) and is written out. -/
def State.truncate (r : Nat) (s : State) : State :=
  match (s.recOf r).open_ with
  | some o =>
    let s := s.modRec r (fun t => { t with open_ := none })
    (s.recordComplete r).writeRecord r { o with trunc := true }
  | none => s

/-! ### Triggering (R361, R362, R365) -/

/-- How many rows ago a row with G = `g` was written into the current slot, 0 for the last one. -/
def State.rowsSince (s : State) (r g : Nat) : Option Nat :=
  let t := s.recOf r
  let n := s.recSize r
  let a := s.slotAt r (s.recCur r)
  (List.range (min t.held (s.recPost r))).find? (fun j =>
    let b := recRowAt a ((t.row + n - 1 - j) % n)
    (s.ld (b + 4) 4 + bits (s.ld (b + 8) 4) 15 0 * 2 ^ 32) / 512 % 2 ^ 32 == g % 2 ^ 32)

/-- The row nearest an instant: rows ago and its distance in ns. -/
def State.rowNear (s : State) (r ns sec : Nat) : Option (Nat × Nat) :=
  let t := s.recOf r
  let n := s.recSize r
  let a := s.slotAt r (s.recCur r)
  let ats := (List.range t.held).map (fun j =>
    let b := recRowAt a ((t.row + n - 1 - j) % n)
    (j, dist (s.ld (b + 0x10) 4 * 10 ^ 9 + s.ld (b + 0xC) 4) (sec * 10 ^ 9 + ns)))
  match ats with
  | [] => none
  | e :: rest => some (rest.foldl (fun (m : Nat × Nat) x => if x.2 < m.2 then x else m) e)

/-- A trigger in ARMED on the row written `ago` rows before the last (R361, R362): POST, the record's window, the next
slot with the rows since. -/
def State.startRecord (r ago src unit origin : Nat) (remote unaligned : Bool) (s : State) : State :=
  let t := s.recOf r
  let n := s.recSize r
  let cur := s.recCur r
  let a := s.slotAt r cur
  let idx := (t.row + n - 1 - ago) % n
  let b := recRowAt a idx
  let pre := min (s.recPre r) (t.held - (ago + 1))
  let num := s.recNo.at' r + 1
  let g := (s.ld (b + 4) 4 + bits (s.ld (b + 8) 4) 15 0 * 2 ^ 32) / 512
  let pick := s.chooseSlot r
  let o : RecOpen := {
    slot := cur, addr := a, size := n, num := num, gt := g, ns := s.ld (b + 0xC) 4, sec := s.ld (b + 0x10) 4
    first := (idx + n - pre) % n, pre := pre, post := ago + 1, need := s.recPost r, src := src, origin := origin
    remote := remote, unaligned := unaligned, ref := s.recRef r, refSt := bits (s.ld (b + 8) 4) 18 16, freq := s.ld (b + 0x14) 4
    list := [(g, src + unit * 2 ^ 8, s.ld (b + 0xC) 4, s.ld (b + 0x10) 4)], met := 1
    ovw := (match pick with | some (_, true) => true | _ => false), short := decide (pre < s.recPre r), armId := t.armId }
  let s := { s with recNo := s.recNo.put r num }
  let s := (s.markFire b).inc (TAE_REC_TRIGS r)
  let s := s.when o.ovw (State.evt (TAE_REC_EVT r) 8)
  let s := s.modRec r (fun t => { t with
    open_ := some o
    nxt := pick.map (·.1)
    nrow := 0
    done := match pick with | some (k, true) => t.done.filter (fun e => e.1 != k) | _ => t.done })
  let s := (s.showHeld r).setRec r 3
  let s := s.each ((List.range (ago + 1)).reverse) (fun j s =>
    s.rowIntoNext r (s.rdBytes (recRowAt a ((t.row + n - 1 - j) % n)) rowLen))
  if s.recPost r ≤ ago + 1 then s.endRecord r else s

/-- The payload of REC_FIRE after its first four octets (R322). -/
def fireBody (r src g ns sec : Nat) : List Byte :=
  bytesBE 1 r ++ bytesBE 1 src ++ bytesBE 2 0 ++ bytesBE 4 g ++ bytesBE 4 ns ++ bytesBE 4 sec

/-- REC_FIRE for a unit of kinds other than 6 of a stack recorder (R365). -/
def State.sendFire (r k : Nat) (units : List Nat) (s : State) : State :=
  match units.find? (fun u => s.trgKind r u != 6) with
  | some u =>
    if s.recStack r then
      let ref := s.recRef r
      let g := (s.recWord ref k 0 + bits (s.recWord ref k 1) 15 0 * 2 ^ 32) / 512
      let gf := if s.spanOk ref then (g + s.casOffset ref) % 2 ^ 32 else 0xFFFFFFFF
      s.casSend 0x26 0xFF (fireBody r (s.trgKind r u) gf (s.recWord ref k 2) (s.recWord ref k 3))
    else s
  | none => s

/-- Triggers in HOLDOFF (R360): ignored and counted; in event mode the `hold_n`-th ends the hold-off. -/
def State.holdTrigger (r n : Nat) (s : State) : State :=
  let s := (s.incBy (TAE_REC_HOLDOFF r) n).modRec r (fun t => { t with holdN := t.holdN + n })
  let lim := s.fld (TAE_REC_HOLD r) 15 0
  if s.bit (TAE_REC_HOLD r) 16 ∧ 1 ≤ lim ∧ lim ≤ (s.recOf r).holdN then s.setRec r (s.restState r) else s

/-- Triggers in STREAM (R367): marked, then the hold-off suppresses further marks. -/
def State.streamQuiet (s : State) (r : Nat) : Bool :=
  let t := s.recOf r
  let lim := s.fld (TAE_REC_HOLD r) 15 0
  t.quiet && (if s.bit (TAE_REC_HOLD r) 16 then lim == 0 || decide (t.holdN < lim) else decide (s.clk < t.holdAt + lim * tMs))

/-- What the triggers of a row do, by the recorder's state (R359, R370). -/
def State.actTriggers (r k : Nat) (units : List Nat) (rem : Option RecRemote) (s : State) : State :=
  match units with
  | [] => s
  | u :: _ =>
    let ref := s.recRef r
    match s.recState r with
    | 2 =>
      let remote := s.trgKind r u == 6
      let q := rem.getD default
      let s := s.when (remote && q.unaligned) (State.evt (TAE_REC_EVT r) 7)
      s.startRecord r 0 (if remote then q.src else s.trgKind r u) u (if remote then q.origin else s.position) remote
        (remote && q.unaligned)
    | 3 =>
      let g := (s.recWord ref k 0 + bits (s.recWord ref k 1) 15 0 * 2 ^ 32) / 512
      let new := units.map (fun u => (g, s.trgKind r u + u * 2 ^ 8, s.recWord ref k 2, s.recWord ref k 3))
      s.modRec r (fun t => { t with open_ := t.open_.map (fun o => { o with
        list := (o.list ++ new).take 16
        met := o.met + new.length }) })
    | 4 => s.holdTrigger r 1
    | 5 => (s.inc (TAE_REC_LOST r)).evt (TAE_REC_EVT r) 2
    | 6 =>
      if s.streamQuiet r then (s.inc (TAE_REC_HOLDOFF r)).modRec r (fun t => { t with holdN := t.holdN + 1 })
      else (s.inc (TAE_REC_TRIGS r)).modRec r (fun t => { t with quiet := true, holdAt := s.clk, holdN := 0 })
    | _ => s

/-! ### The row (R351, R352, R367, R369) -/

/-- The frame of one part of a streamed row (R367), without FCS. -/
def State.streamFrame (s : State) (r part : Nat) (mark : Bool) (seq : Nat) (row : List Byte) : List Byte :=
  bytesBE 2 (s.fld (TAE_REC_SDA_HI r) 15 0) ++ bytesBE 4 (s.rd (TAE_REC_SDA_LO r)) ++ bytesBE 6 0
    ++ bytesBE 2 0x88B6 ++ bytesBE 1 1 ++ bytesBE 1 r ++ bytesBE 1 part ++ bytesBE 1 (b2n mark) ++ bytesBE 4 seq
    ++ bytesBE 4 (part * 1216) ++ bytesBE 4 0 ++ (row.drop (part * 1216)).take 1216

/-- A stream frame enters the switch at port 11 on the recorder's queue (R271, R367). -/
def State.toPort11 (r : Nat) (frame : List Byte) (s : State) : State :=
  s.enter 11 { octets := withFcs frame, queue := s.fld (TAE_REC_CFG r) 22 20, desc := none, direct := none }

/-- Send each `sdiv`-th row as two frames. -/
def State.stream (r : Nat) (mark : Bool) (row : List Byte) (s : State) : State :=
  let t := s.recOf r
  let s := s.modRec r (fun t => { t with rows := t.rows + 1 })
  if t.rows % 2 ^ s.fld (TAE_REC_CFG r) 19 18 ≠ 0 then s else
  let q := t.fseq
  let s := (s.toPort11 r (s.streamFrame r 0 mark q row)).toPort11 r (s.streamFrame r 1 mark ((q + 1) % 2 ^ 32) row)
  (s.incBy (TAE_REC_SFRAMES r) 2).modRec r (fun t => { t with fseq := (q + 2) % 2 ^ 32 })

/-- The row of a grid point as its state has it written (R359). -/
def State.placeRow (r : Nat) (parts : List Byte × List Byte) (crc : Bool) (s : State) : State :=
  match s.recState r with
  | 1 => s.rowIntoCur r (sealRow parts)
  | 2 => s.rowIntoCur r (sealRow parts)
  | 3 =>
    let row := sealRow parts
    ((s.rowIntoCur r row).rowIntoNext r row).modRec r (fun t => { t with open_ := t.open_.map (fun o => { o with
      post := o.post + 1
      crcErr := o.crcErr || crc }) })
  | 4 => s.rowIntoCur r (sealRow parts)
  | _ => s

/-- A remote trigger that falls on grid sequence `k`: its G is this one's, has been passed, or is any. -/
def State.remoteDue (s : State) (r k : Nat) : Bool :=
  match (s.recOf r).remote with
  | some q => match q.gt with
    | none => true
    | some g =>
      let now := (s.recWord (s.recRef r) k 0 + bits (s.recWord (s.recRef r) k 1) 15 0 * 2 ^ 32) / 512 % 2 ^ 32
      decide ((now + 2 ^ 32 - g) % 2 ^ 32 < 2 ^ 31)
  | none => false

/-- Write the row of grid sequence `k`. `bad`: channels 0–255 analogue, 256–1279 binary, 1280–1295 engine results of the
trigger units, whose transfer failed its CRC (R369). -/
def State.writeRow (r k : Nat) (late : Bool) (bad : List Nat) (s : State) : State :=
  let crc := !bad.isEmpty
  let s := s.when crc (fun s => (((s.incBy TAE_CRC_ERR bad.length).evt TAE_CHK_STAT 0).evt (TAE_REC_EVT r) 6).blockFault 14 4 r)
  let s := s.when late (State.inc TAE_LATE)
  let vals := s.rowVals r k bad
  let due := s.remoteDue r k
  let rem := (s.recOf r).remote
  let (s, units) := s.trgEval r k vals bad due
  let s := if due then s.modRec r (fun t => { t with remote := none }) else s
  let st := s.recState r
  let trig := if st = 6 ∧ s.streamQuiet r then [] else units
  let parts := s.rowParts r k vals late crc trig false
  let s := s.placeRow r parts crc
  let s := if st = 6 then s.stream r (!trig.isEmpty) (sealRow parts) else s
  let s := (s.actTriggers r k units rem).sendFire r k units
  match (s.recOf r).open_ with
  | some o => if o.need ≤ o.post ∧ s.recState r = 3 then s.endRecord r else s
  | none => s

/-- TAE_ROW_WRITE (R352): the row of the oldest closing, once the engine marks its units use are in or 20 µs have gone. -/
def State.taeRow (r : Nat) (bad : List Nat) (s : State) : State :=
  match s.taeQ.at' r with
  | [] => s
  | c :: rest =>
    let v := (s.viewAt 14 r c.ref c.seq).getD s
    let waits := (List.range 16).any (fun u => v.trgEn r u && v.trgBound r u && !v.trgReady r u c.seq)
    let limit := decide (c.at_ + 20 * tUs ≤ s.clk)
    if s.power.cx = false ∨ s.power.mem = false then s
    else if waits && !limit then s
    else
      let s := { s with taeQ := s.taeQ.put r rest }
      if s.bit TAE_CTL 0 = false ∨ s.recState r = 0 ∨ s.recState r = 7 ∨ s.refState c.ref = 0 then s
      else (s.onPoint 14 r c.ref c.seq (fun _ s => s) (fun _ => true) (fun _ => false)
        (fun s => (s.writeRow r c.seq waits bad, ()))).1

def execTaeRowWrite (r : Fin 8) (bad : List (Fin 1296)) (s : State) : Host.Outcome State Fault Refusal :=
  .next (s.taeRow r.val (bad.map (·.val)))

/-- HOLDOFF_EXPIRY (R360): `hold_ms` after the last post row. -/
def State.recHoldExpire (r : Nat) (s : State) : State :=
  if s.recState r = 4 ∧ s.bit (TAE_REC_HOLD r) 16 = false ∧ (s.recOf r).holdAt + s.fld (TAE_REC_HOLD r) 15 0 * tMs ≤ s.clk then
    s.setRec r (s.restState r)
  else s

def execHoldoffExpiry (r : Fin 8) (s : State) : Host.Outcome State Fault Refusal := .next (s.recHoldExpire r.val)

/-! ### Arming (R364) -/

/-- The recorder is armed. -/
def State.recArm (r id : Nat) (s : State) : State :=
  let s := s.modRec r (fun t => { t with armed := true, armId := id })
  let h := s.rd (TAE_REC_HOLD r)
  if s.recState r = 1 ∨ (s.recState r = 4 ∧ bitAt h 16 ∧ bits h 15 0 = 0) then s.setRec r 2 else s

/-- The recorder is disarmed. -/
def State.recDisarm (r : Nat) (s : State) : State :=
  let s := s.modRec r (fun t => { t with armed := false })
  if s.recState r = 2 then s.setRec r 1 else s

/-- The recorder's registers may be written (R356). -/
def State.mayRec (s : State) (w : Who) (r : Nat) : Bool :=
  privileged w || (List.range 1280).all (fun i => s.may w 9 (1280 * r + i) .wr)

/-- A command of `TAE_REC_CMD`. -/
def State.recCmd (w : Who) (r : Nat) (f : State → State) (s : State) : State :=
  s.gate w (TAE_REC_CMD r) true (s.mayRec w r) 9 (1280 * r) .wr f

/-- The payload of REC_ARM after its first four octets (R322). -/
def armBody (r : Nat) (arm : Bool) (id : Nat) : List Byte :=
  bytesBE 1 r ++ bytesBE 1 (if arm then 1 else 2) ++ bytesBE 2 0 ++ bytesBE 4 id ++ bytesBE 4 0

/-- The arm or disarm command (R364): a stack recorder is armed from the dealer, which sends REC_ARM. -/
def State.armCmd (r : Nat) (arm : Bool) (s : State) : State :=
  let s := if s.recStack r then (if s.isDealer then s else s.evt (TAE_REC_EVT r) 9) else s
  if s.recStack r ∧ s.isDealer = false then s
  else if s.recStack r then
    let id := Config.freeValue s.free % 2 ^ 32
    let s := s.drew.casSend 0x25 0xFF (armBody r arm id)
    let s := s.modRec r (fun t => { t with armSeen := true })
    if arm then s.recArm r id else s.recDisarm r
  else if arm then s.recArm r 0 else s.recDisarm r

def execTaeArm (w : Who) (r : Fin 8) (s : State) : Host.Outcome State Fault Refusal :=
  .next (s.recCmd w r.val (State.armCmd r.val true))

def execTaeDisarm (w : Who) (r : Fin 8) (s : State) : Host.Outcome State Fault Refusal :=
  .next (s.recCmd w r.val (State.armCmd r.val false))

/-- TAE_TRIGGER (R357): kind 9 use on any channel of the recorder; taken at the next row. -/
def execTaeTrigger (w : Who) (r : Fin 8) (s : State) : Host.Outcome State Fault Refusal :=
  .next (s.gate w (TAE_REC_CMD r.val) true (privileged w || (List.range 1280).any (fun i => s.may w 9 (1280 * r.val + i) .use))
    9 (1280 * r.val) .use (State.modRec r.val (fun t => { t with manual := true })))

/-- TAE_FREE (R360, R363): releases a slot that holds a completed record. -/
def State.recFree (r k : Nat) (s : State) : State :=
  let t := s.recOf r
  let cur := k == s.recCur r && s.recState r != 5
  if cur || !t.done.any (fun e => e.1 == k) then s.evt (TAE_REC_EVT r) 9
  else
    let s := (s.modRec r (fun t => { t with done := t.done.filter (fun e => e.1 != k) })).showHeld r
    if s.recState r = 5 then (s.makeCurrent r k 0).setRec r (s.restState r) else s

def execTaeFree (w : Who) (r : Fin 8) (slot : Byte) (s : State) : Host.Outcome State Fault Refusal :=
  .next (s.recCmd w r.val (State.recFree r.val slot.toNat))

/-- REC_ARM from the dealer (R364). -/
def State.recArmIn (x : LzMsg) (s : State) : State :=
  let r := x.at' 4 1
  let f := x.at' 5 1
  if s.power.cx = false ∨ 8 ≤ r ∨ s.recStack r = false ∨ s.recState r = 0 then s
  else
    let s := s.modRec r (fun t => { t with armSeen := true })
    let s := if bitAt f 0 then s.recArm r (x.at' 8 4) else s
    if bitAt f 1 then s.recDisarm r else s

def execRecArm (src : CasIn) (m : List Byte) (s : State) : Host.Outcome State Fault Refusal :=
  .next (s.casIn src 0x25 m State.recArmIn)

/-- A remote trigger placed on the row nearest an instant (R365): unaligned. -/
def State.fireNear (r src origin ns sec : Nat) (s : State) : State :=
  let next := s.modRec r (fun t => { t with remote := some { gt := none, src := src, origin := origin, unaligned := true } })
  match s.rowNear r ns sec with
  | some (j, d) =>
    let half := (s.weftOf (s.recRef r)).interval / 2 ^ 9
    if j < s.recPost r ∧ !(j = 0 ∧ half < d) then
      (s.evt (TAE_REC_EVT r) 7).startRecord r j src ((List.range 16).find? (fun u => s.trgEn r u && s.trgKind r u == 6) |>.getD 0)
        origin true true
    else next
  | none => next

/-- REC_FIRE at a stack recorder (R357, R365). -/
def State.recFireIn (x : LzMsg) (s : State) : State :=
  let r := x.at' 4 1
  let src := x.at' 5 1
  if s.power.cx = false ∨ 8 ≤ r ∨ s.recStack r = false ∨ s.recState r = 0 ∨ s.recState r = 7 then s else
  let unit := (List.range 16).find? (fun u => s.trgEn r u && s.trgKind r u == 6)
  let ownRec := match (s.recOf r).open_ with | some o => !o.remote | none => false
  let ref := s.recRef r
  let aligned := s.spanOk ref && decide (x.at' 8 4 ≠ 0xFFFFFFFF)
  match unit with
  | none => s
  | some u =>
    if ownRec then s
    else if s.recState r ≠ 2 then
      s.modRec r (fun t => { t with remote := some { gt := none, src := src, origin := x.pos, unaligned := !aligned } })
    else if aligned then
      let g := (x.at' 8 4 + 2 ^ 32 - s.casOffset ref) % 2 ^ 32
      match s.rowsSince r g with
      | some j => s.startRecord r j src u x.pos true false
      | none =>
        let last := s.closedGp.at' ref - 1
        let ahead := decide ((g + 2 ^ 32 - last % 2 ^ 32) % 2 ^ 32 - 1 < 2 ^ 31 - 1)
        s.modRec r (fun t => { t with remote := some {
          gt := if ahead then some g else none, src := src, origin := x.pos, unaligned := !ahead } })
    else s.fireNear r src x.pos (x.at' 12 4) (x.at' 16 4)

def execRecFire (src : CasIn) (m : List Byte) (s : State) : Host.Outcome State Fault Refusal :=
  .next (s.casIn src 0x26 m State.recFireIn)

/-! ### Watchdog, configuration, reset (R202, R360, R368–R370) -/

/-- TAE_WATCHDOG (R369): every recorder enters FAULT, open records are left without a completion word. -/
def State.taeWatchdog (s : State) : State :=
  if s.power.cx = false then s else
  let s := s.each ((List.range 8).filter (fun r => s.recState r != 0)) (fun r s =>
    (s.modRec r (fun t => { t with open_ := none, finish := [], nxt := none })).setRec r 7)
  ((s.evt TAE_CHK_STAT 1).ledger 3 14 0 TAE_CHK_STAT 1 []).blockFault 14 5 0

def execTaeWatchdog (s : State) : Host.Outcome State Fault Refusal := .next s.taeWatchdog

/-- The recorder streams (R360, R368). -/
def State.recStreams (s : State) (r : Nat) : Bool := s.bit (TAE_REC_CFG r) 25 || s.bit TAE_CTL 1

/-- The recorder starts, as at enable (R360, R364). -/
def State.recStart (r : Nat) (s : State) : State :=
  let on := s.bit (TAE_REC_CFG r) 23
  let s := s.modRec r (fun t => { t with armed := t.armed || on, armSeen := false, runs := [], hist := [], bins := [], rows := 0 })
  if s.recStreams r then s.setRec r 6
  else
    match s.chooseSlot r with
    | some (k, _) => (((s.modRec r (fun t => { t with done := t.done.filter (fun e => e.1 != k) })).makeCurrent r k 0).showHeld r).setRec r
        (s.restState r)
    | none => s.setRec r 5

/-- Configuration errors of a recorder (R354, R357, R371). -/
def State.recBad (s : State) (r : Nat) : Bool :=
  (List.range 256).any (fun a =>
    let w := s.rd (TAE_ACH_SRC r a)
    bitAt w 31 && ((bits w 30 29 == 0 && !s.achOk r a) || bits w 30 29 == 3))
  || (List.range 16).any (fun u =>
    let w := s.rd (TAE_TRG_CFG r u)
    bitAt w 31 && (bits w 30 27 == 0 || decide (8 < bits w 30 27) || bits w 26 25 == 3 || !s.trgBound r u))

/-- A register whose change restarts the slots (R370): reference, depth, area, slots, channel sources. -/
def State.recSources (s : State) (r : Nat) : List Nat :=
  [s.recRef r, s.rd (TAE_REC_DEPTH r), s.rd (TAE_REC_AREA_LO r), s.rd (TAE_REC_AREA_HI r), s.rd (TAE_REC_SLOTS r)]
    ++ (List.range 256).map (fun a => s.rd (TAE_ACH_SRC r a)) ++ (List.range 1024).map (fun b => s.rd (TAE_BCH_SRC r b))

/-- The recorder's slots and state after an activation (R360, R370): `restart` says that they restart. -/
def State.recTurn (r : Nat) (restart : Bool) (s : State) : State :=
  let s := if restart then (s.truncate r).slotsEmpty r else s
  if s.recState r = 0 then s.recStart r
  else if s.recState r = 7 then s
  else if s.recStreams r ∧ s.recState r ≠ 6 then (s.truncate r).setRec r 6
  else if restart ∨ (s.recState r = 6 ∧ s.recStreams r = false) then
    if s.recStreams r then s else (s.makeCurrent r (s.recCur r) 0).setRec r (s.restState r)
  else s

/-- A recorder that a commit disables: an open record closes with `truncated`; slots, rows and arm state are given up. -/
def State.recOff (r : Nat) (s : State) : State :=
  let s := match (s.recOf r).open_ with
    | some o => (s.modRec r (fun t => { t with open_ := none })).writeRecord r { o with trunc := true }
    | none => s
  (({ s with taeQ := s.taeQ.put r [] }.setPriors 14 r []).modRec r (fun t => { t with armed := false })).setRec r 0

/-- A commit on recorder `r` has been activated (R360, R370); `x` holds the values before it. Grid points issued before the
activation write no row into slots that restart, and else write theirs on the values before it. -/
def State.taeActivated (x : Prior) (r : Nat) (s : State) : State :=
  let s := if s.recBad r then s.evt (TAE_REC_EVT r) 5 else s
  let restart := decide ((s.setWords x.words).recSources r ≠ s.recSources r)
  if s.recEn r = false then s.recOff r
  else
    let keep := decide (s.recState r ≠ 0) && !restart
    (s.recTurn r restart).turn 14 r x (s.taeQ.at' r) keep (fun _ s => s)

/-- A reset of the instance (R35): slots restart empty, IDLE or ARMED as the arm state gives, or STREAM. -/
def State.taeReset (r : Nat) (s : State) : State :=
  if s.recState r = 0 then s else
  let s := ((s.setPriors 14 r []).truncate r).slotsEmpty r
  let s := s.modRec r (fun t => { t with runs := [], hist := [], bins := [], grd := 0, manual := false, remote := none, rows := 0 })
  s.setRec r (if s.recStreams r then 6 else s.restState r)

/-- A write of `TAE_CTL`: `force_stream` moves every enabled recorder (R368). -/
def State.taeCtl (v : Nat) (s : State) : State :=
  let was := s.bit TAE_CTL 1
  let s := s.setReg TAE_CTL v
  let now := bitAt v 1
  if was = now then s else
  s.each ((List.range 8).filter (fun r => !([0, 7].contains (s.recState r)))) (fun r s =>
    if now then (s.truncate r).setRec r 6
    else if s.recStreams r then s
    else match s.chooseSlot r with
      | some (k, _) => (s.makeCurrent r k 0).setRec r (s.restState r)
      | none => s.setRec r 5)

/-- A reference has gone OFF (R370): no rows; an open record closes with `truncated`. -/
def State.taeRefOff (ref : Nat) (s : State) : State :=
  s.each ((List.range 8).filter (fun r => s.recRef r == ref && (s.recOf r).open_.isSome)) (fun r s =>
    let nxt := (s.recOf r).nxt
    let rows := (s.recOf r).nrow
    let s := s.truncate r
    match nxt with
    | some k => (s.makeCurrent r k rows).setRec r (s.restState r)
    | none => s.setRec r 5)

end Sys2Proof.Machine
end

