-- ==== Sys2Proof/Machine/Staging.lean ====
section
/-!
DEFINITION. Staged configuration: shadow writes, commits, activation, coordinated commits, instance resets (R35,
R47–R52, R525, R526).
-/

namespace Sys2Proof.Machine

/-! ### What an activation does, block by block -/

/-- The commit of channel `n` restarts its rings (R118). -/
def State.sieRestarts (s : State) (n : Nat) : Bool :=
  let d := fun (a : Nat) => s.rd a != s.rd (shadow a)
  let f := fun (hi lo : Nat) => s.fld (SIE_CH_CFG n) hi lo != s.fld (shadow (SIE_CH_CFG n)) hi lo
  f 26 24 || f 23 21 || f 20 16 || f 15 14 || d (SIE_CH_SRC_LO n) || d (SIE_CH_SRC_HI n) || d (SIE_CH_SVID n)
    || d (SIE_CH_CONFREV n)

/-- Before the shadows of channel `n` are taken: grid points that wait for it are written at once when it is disabled,
restarted or bound elsewhere (R135). -/
def State.sieBefore (n : Nat) (s : State) : State :=
  let new := s.rd (shadow (SIE_CH_CFG n))
  s.when (s.sieRestarts n || !bitAt new 31 || decide (bits new 30 27 ≠ s.chRef n)) (State.dropWaiting n)

/-- A channel begins in ABSENT: rings restarted, duplicate window cleared. -/
def State.sieStart (n : Nat) (s : State) : State :=
  let bad := s.chBroken n
  let s := { s with sie := s.sie.put n { cfgErr := bad } }
  let s := (s.setReg (SIE_CH_STAT n) 8).setReg (SIE_CH_AGE_MAX n) 0
  s.when bad (State.evt (SIE_CH_EVT n) 7)

/-- The shadows of channel `n` have been taken (R118, R119); `restart`: they restart its rings. Else the grid points
issued before are written on the values before the activation, which `x` holds (R50). -/
def State.sieActivated (old : State) (x : Prior) (restart : Bool) (n : Nat) (s : State) : State :=
  let was := old.bit (SIE_CH_CFG n) 31
  let on := s.bit (SIE_CH_CFG n) 31
  let begins : Bool := on && (!was || restart)
  let s := if begins then
      ((s.setPriors 3 n []).sieStart n).when (!was || decide (old.chState n ≠ 0)) (State.evt (SIE_CH_EVT n) 0)
    else if was && !on then
      (({ s with sie := s.sie.put n {} }.setPriors 3 n []).setReg (SIE_CH_STAT n) 0).evt (SIE_CH_EVT n) 0
    else s.turn 3 n x [] on (fun _ s => s)
  ((s.fdcChannel n begins).psuChannel n begins).zChannel n

/-- A reset of the channel (R35): as at a commit of R118. -/
def State.sieReset (n : Nat) (s : State) : State :=
  let st := s.chState n
  ((s.dropWaiting n).sieStart n).when (decide (st ≠ 0)) (State.evt (SIE_CH_EVT n) 0)

/-- The restart of a block's instance that waits for the first grid point on new values. -/
def restartOf (b i : Nat) : State → State → State :=
  if b = 4 then State.fdcTurn i
  else if b = 5 then State.psuTurn i
  else if b = 6 then State.zTurnDet i
  else if b = zRecKey then State.zTurnWin i
  else if b = 15 then State.rgeTurn i
  else fun _ s => s

/-- Reference `r` issues from sequence number 1 again, or not at all: no point issued before is left, and every restart that
waits for a point of it takes place. -/
def State.refRestarted (r : Nat) (s : State) : State :=
  s.each ((s.prior.filter (fun e => e.2.any (fun p => p.ref == r || p.nref == r))).map (·.1)) (fun k s =>
    s.settleInst (k / 65536) (k % 65536) (restartOf (k / 65536) (k % 65536)))

/-- A reference has gone OFF: coordinated commit (R52), recorders (R370), loops (R389), free passes (R183). -/
def State.refWentOff (r : Nat) (s : State) : State :=
  let s := if s.xcommit.ref = r then s.xcommitAbort else s
  let s := (s.taeRefOff r).rgeRefOff r
  s.each ((List.range 256).filter (fun n => s.slEn n && s.slRef n == r)) (fun n s => s.modSl n (fun sl => { sl with freeAt := none }))

/-- The shadows of reference `r` have been taken. -/
def State.refActivated (old : State) (r : Nat) (s : State) : State :=
  let s := s.weftActivated r (old.rd (WEFT_REF_CFG r)) (old.rd (WEFT_REF_SRC r))
  let s := if old.bit (WEFT_REF_CFG r) 0 = s.bit (WEFT_REF_CFG r) 0 then s else s.refRestarted r
  if old.refState r ≠ 0 ∧ s.refState r = 0 then s.refWentOff r else s

/-- The committed values of slice `n` are refused (R184, R195, R196, R207, R208). An arbiter hosts no slices (R317; DESIGN
CHOICE: but for the platform supervisor, slice 0). -/
def State.sliceRefused (s : State) (n : Nat) : Bool :=
  let cur := s.rd (XEC_SL_CFG n)
  let new := s.rd (shadow (XEC_SL_CFG n))
  let on := bitAt cur 31
  let crit := if n = 0 then 0 else bits new 24 23
  let pair := bits new 22 19
  let t := s.slTenant n
  let ten := s.tenCfg t
  let others := (List.range 256).filter (fun k => decide (k ≠ n) && s.slEn k)
  let begins := bitAt new 31 && !on
  (on && (decide (bits cur 22 19 ≠ pair) || (decide (n ≠ 0) && decide (bits cur 24 23 ≠ crit))))
    || (bits new 26 25 == 0 && decide (2 ≤ crit)) || decide (11 < pair) || (n == 0 && !bitAt new 31)
    || decide (crit < bits ten 2 1)
    || (begins && ((decide (t ≠ 0) && !bitAt ten 0) || !bitAt ten (4 + pair)
        || decide (bits ten 23 16 ≤ (others.filter (fun k => s.slTenant k == t)).length)
        || others.any (fun k => s.fld (XEC_SL_BIND k) 31 16 == s.fld (XEC_SL_BIND n) 31 16)))
    || (on && !bitAt new 31 && decide (s.life n ≠ 3))
    || (begins && s.role == 2 && decide (n ≠ 0))

/-- A slice holds no image and tracks no lines (R226, R232). -/
def State.sliceEmpty (n : Nat) (s : State) : State :=
  { s with slices := s.slices.put n {} }.setFld (XEC_SL_XSTAT n) 14 13 0

/-- The shadows of slice `n` have been taken: enabled, it is RUNNABLE, or QUIESCED with `start_q` (R226). -/
def State.sliceActivated (old : State) (x : Prior) (n : Nat) (s : State) : State :=
  let s := if n = 0 then s.setFld (XEC_SL_CFG 0) 24 23 0 else s
  let was := old.slEn n
  let s := s.turn 7 n x [] was (fun _ s => s)
  if s.slEn n then
    if was then s
    else
      let s := (s.sliceEmpty n).setReg (XEC_SL_EXEC_MAX n) 0
      if s.bit (XEC_SL_LIFE n) 16 then (s.setLife n 3).setRun n 7
      else ((s.setLife n 1).setRun n 1).dispatch (s.slPair n)
  else if was then ((s.sliceEmpty n).setLife n 0).setRun n 0
  else s

/-- The shadow of follow `r` has been taken, or the follow is reset (R35, R345). -/
def State.followActivated (r : Nat) (s : State) : State :=
  if s.followEn r then s.followLost r else s.setReg (CAS_REF_STAT r) 0

/-- After the shadows of instance `i` of a block have been taken. -/
def State.afterCommit (old : State) (x : Prior) (restart : Bool) (b i slice : Nat) (s : State) : State :=
  match b with
  | 2 => State.refActivated old i s
  | 3 => State.sieActivated old x restart i s
  | 4 => State.fdcActivated x i s
  | 5 => State.psuActivated x i s
  | 6 => State.zActivated x i s
  | 7 => State.sliceActivated old x i s
  | 9 => s.pubActivated i
  | 13 => s.followActivated i
  | 14 => State.taeActivated x i s
  | 15 => State.rgeActivated x i slice s
  | _ => s

/-- The values of an instance before an activation at tick `t`, and the first grid points they no longer govern: `s` is the
state before it, `new` has taken the shadows. -/
def State.priorOf (s new : State) (b i t : Nat) : Prior :=
  let r := s.refBind b i
  let nr := new.refBind b i
  { words := (rwcAddrs b i).map (fun a => (a, s.rd a)), ref := r, first := s.firstFrom r t, nref := nr, nfirst := s.firstFrom nr t }

/-! ### Activation (R49) -/

/-- Copy the shadows of an instance to its active registers. -/
def State.takeShadows (b i : Nat) (s : State) : State :=
  (s.each (rwcAddrs b i) (fun a s => s.setReg a (s.rd (shadow a)))).setPending b i false

/-- Put back the shadows of an instance. -/
def State.dropShadows (b i : Nat) (s : State) : State :=
  (s.each (rwcAddrs b i) (fun a s => s.setReg (shadow a) (s.rd a))).setPending b i false

/-- XEC refuses a slice's values that break its rules (R195), PUB those of an entry with which the SV entries together exceed
their frame rate (R263). -/
def State.commitRefused (s : State) (b i : Nat) : Bool :=
  (b == 7 && s.sliceRefused i) || (b == 9 && decide (256 ≤ i) && (s.takeShadows b i).svTooMany)

/-- A commit is refused: the shadows return, `cfg_err` shows it. -/
def State.refuseCommit (b i : Nat) (s : State) : State :=
  let s := s.dropShadows b i
  if b = 7 then (s.setBit (XEC_SL_STAT i) 10 true).evt (XEC_SL_EVT i) 4
  else (s.setBit (PUB_ENT_STAT i) 1 true).evt (PUB_ENT_EVT i) 0

/-- Activate a pending instance at the instant of tick `t`, unless its values are refused. -/
def State.activate (b i slice t : Nat) (s : State) : State :=
  if s.isPending b i = false then s
  else if s.commitRefused b i then s.refuseCommit b i
  else
    let old := s
    let restart := b == 3 && s.sieRestarts i
    let s := if b = 3 then s.sieBefore i else s
    let new := s.takeShadows b i
    let s := State.afterCommit old (s.priorOf new b i t) restart b i slice new
    if b = 7 then s.setBit (XEC_SL_STAT i) 10 false else s

/-- A commit completes in a block (R525). -/
def State.commitDone (b ref gp : Nat) (empty atOnce : Bool) (s : State) : State :=
  let a := commitStat b
  let n := (s.fld a 31 24 + 1) % 256
  (s.setReg a (s.rd a % 2 + n * 2 ^ 24 + ref * 2 ^ 16 + gp * 2 ^ 9 + b2n atOnce * 4 + b2n empty * 2)).showBusy b

/-- Index within the cycle of the reference's last grid point. -/
def State.lastIdx (s : State) (r : Nat) : Nat := s.fld (WEFT_REF_ANGLE_LO r) 15 9

/-- A commit written at tick `t` on a reference has its grid point: one issued at least 1 µs later (R47). -/
def State.commitPoint (s : State) (r t : Nat) : Bool :=
  decide ((s.weft.at' r).seq ≠ 0 ∧ t + tUs ≤ (s.weft.at' r).lastIssue)

/-- The instance is disabled, or its reference is: its commit takes effect at once (R52). -/
def State.atOnce (s : State) (b i : Nat) : Bool := !s.instOn b i || s.refState (s.refBind b i) == 0

/-- An activation leaves nothing to other commits that cover the instance, local or coordinated (R48, R52). -/
def State.emptied (b i : Nat) (s : State) : State :=
  let x := s.stagedOf b i
  s.setStaged b i { x with waits := x.waits.map (fun w => { w with found := false }), coord := false }

/-- A commit of all instances has taken a shadow. -/
def State.groupTook (b g : Nat) (s : State) : State :=
  { s with staged := s.staged.map (fun e => if e.1 / 65536 = b then
      (e.1, { e.2 with waits := e.2.waits.map (fun w => if w.group = g then { w with took := true } else w) }) else e) }

/-- A local commit's wait `w` on an instance is over; a commit of all instances completes with its last one (R525).
`last_ref` of a commit that changes the binding is the binding before the activation (DESIGN CHOICE: R525 names the
binding of the instance, not which). -/
def State.completeWait (b i slice : Nat) (w : Wait) (s : State) : State :=
  let r := s.refBind b i
  let imm := s.atOnce b i
  let gp := if imm then 0 else s.lastIdx r
  let found := w.found && s.isPending b i
  let s := s.when imm (State.evt (stageErr b) 3)
  let s := if found then (s.emptied b i).activate b i slice (if imm then s.clk else (s.weft.at' r).lastIssue) else s
  if w.group = 0 then s.commitDone b r gp (!found) imm
  else
    let s := s.when found (State.groupTook b w.group)
    if s.staged.any (fun e => e.1 / 65536 == b && e.2.waits.any (fun x => x.group == w.group)) then s
    else s.commitDone b (if imm then 0 else r) gp (!(found || w.took)) imm

/-- The waits of an instance for which `ready` holds are over, oldest first. -/
def State.completeReady (b i : Nat) (ready : Nat → Bool) (s : State) : State :=
  let x := s.stagedOf b i
  let s := s.setStaged b i { x with waits := x.waits.filter (fun w => !ready w.at_) }
  let s := s.each (x.waits.filter (fun w => ready w.at_)) (State.completeWait b i x.slice)
  (s.tidyStaged b i).showBusy b

/-- COMMIT_ACTIVATION: waiting local commits at their grid point, or at once where R52 says so. -/
def State.commitActivation (b i : Nat) (s : State) : State :=
  if (s.stagedOf b i).waits.isEmpty then s
  else s.completeReady b i (fun t => s.atOnce b i || s.commitPoint (s.refBind b i) t)

def execCommitActivation (b : Fin 24) (i : Fin 65536) (s : State) : Host.Outcome State Fault Refusal :=
  .next (s.commitActivation b.val i.val)

/-! ### Who may commit (R213, R356, R387, R472) -/

/-- The kind of an engine block's instances (R212). -/
def blockKind : Nat → Option Nat
  | 3 => some 5
  | 4 => some 6
  | 5 => some 7
  | 6 => some 8
  | 9 => some 12
  | 15 => some 10
  | _ => none

/-- The kind of resource an instance of a block is; 0: reached by slice 0 alone (R213). -/
def instKind (b : Nat) : Nat := (blockKind b).getD (if b = 14 then 9 else 0)

/-- What a violation on instance `i` records: the first resource of the kind, or the address `a` of the register. -/
def instIndex (b i a : Nat) : Nat := if instKind b = 0 then a else if b = 14 then 1280 * i else i

/-- A slice may commit or reset instance `i` of a block. -/
def State.mayInst (s : State) (w : Who) (b i : Nat) : Bool :=
  match blockKind b with
  | some k => s.may w k i .wr
  | none => if b = 14 then s.mayRec w i else privileged w

/-- 4 KiB units of sample memory. -/
def sampleUnits (a n : Nat) : List Nat :=
  let u := (a - 0x4000000000) / 4096
  (List.range ((a - 0x4000000000 + n - 1) / 4096 + 1 - u)).map (u + ·)

/-- What a PSU or point source of a loop must be readable under. -/
def State.srcNeeds (s : State) (kind v : Nat) : List (Nat × Nat × Right) :=
  if kind = 2 then [(4, bits v 22 0, .rd)]
  else (sampleUnits (s.area PSU_OUT_BASE 16 + bits v 6 0 * 0x200) 0x200).map (fun u => (2, u, .rd))

/-- Grants the committing slice needs for what the shadows of an instance name. -/
def State.commitNeeds (s : State) (b i : Nat) : List (Nat × Nat × Right) :=
  let sh := fun (a : Nat) => s.rd (shadow a)
  match b with
  | 3 =>
    let k := sh (SIE_CH_KEYS i)
    if bits (sh (SIE_CH_CFG i)) 12 11 = 0 then []
    else (15, bits k 5 0, .use) :: (if bitAt k 16 then [(15, bits k 13 8, .use)] else [])
  | 9 => if bits (sh (PUB_ENT_CFG i)) 22 21 = 0 then [] else [(15, bits (sh (PUB_ENT_KEYS i)) 5 0, .use)]
  | 14 =>
    (List.range 256).flatMap (fun c =>
      let v := sh (TAE_ACH_SRC i c)
      if bitAt v 31 = false then []
      else if bits v 30 29 = 0 then (sampleUnits (s.gridAt (bits v 13 7) (bits v 4 0) 0) 0x800).map (fun u => (2, u, .rd))
      else [(4, bits v 22 0, .rd)])
    ++ (List.range 1024).flatMap (fun c =>
      let v := sh (TAE_BCH_SRC i c)
      if bitAt v 31 then [(4, bits v 22 0, .rd)] else [])
  | 15 =>
    let cfg := sh (RGE_LP_CFG i)
    let out := sh (RGE_LP_OUT i)
    s.srcNeeds (bits cfg 14 13) (sh (RGE_LP_FB_SRC i))
      ++ (if bits cfg 12 11 = 1 then s.srcNeeds (bits cfg 2 1) (sh (RGE_LP_FF_SRC i)) else [])
      ++ [(4, bits out 22 0, .wr)] ++ (if bitAt cfg 6 then [(12, bits out 31 24, .use)] else [])
  | _ => []

/-! ### Commit commands (R47, R525) -/

/-- A write of `<BLK>_COMMIT` that names an instance, accepted. -/
def State.commitOne (w : Who) (b i : Nat) (s : State) : State :=
  if instCount b ≤ i then s.evt (stageErr b) 1
  else
    let x := s.stagedOf b i
    let s := s.setStaged b i { x with waits := x.waits ++ [{ at_ := s.clk, found := s.isPending b i }], slice := w.slice }
    let s := s.showBusy b
    if s.atOnce b i then s.completeReady b i (fun _ => true) else s

/-- COMMIT_INSTANCE. -/
def State.commitInstance (w : Who) (b i : Nat) (s : State) : State :=
  let a := blockBase b + 0x7F000
  s.gate w a true (s.mayInst w b i) (instKind b) (instIndex b i a) .wr (fun s =>
    if hasRwc b = false then s
    else match (if i < instCount b then s.commitNeeds b i else []).find? (fun n => !s.may w n.1 n.2.1 n.2.2) with
      | some n => s.violate w n.1 (if n.1 = 2 then 0x4000000000 + n.2.1 * 4096 else n.2.1) n.2.2
      | none => s.commitOne w b i)

def execCommitInstance (w : Who) (b : Fin 24) (i : Fin 65536) (s : State) : Host.Outcome State Fault Refusal :=
  .next (s.commitInstance w b.val i.val)

/-- Instances of a block with pending shadows. -/
def State.pendingOf (s : State) (b : Nat) : List Nat := (List.range (instCount b)).filter (s.isPending b)

/-- A number for a commit of all instances that none waiting in the block has. -/
def State.nextGroup (s : State) (b : Nat) : Nat :=
  (s.staged.filter (fun e => e.1 / 65536 == b)).foldl (fun m e => e.2.waits.foldl (fun m w => max m w.group) m) 0 + 1

/-- COMMIT_ALL: every instance with pending shadows is covered; without one the commit completes at once. -/
def State.commitAll (w : Who) (b : Nat) (s : State) : State :=
  let l := s.pendingOf b
  if l.isEmpty then s.commitDone b 0 0 true true
  else
    let g := s.nextGroup b
    let s := s.each l (fun i s =>
      let x := s.stagedOf b i
      s.setStaged b i { x with waits := x.waits ++ [{ at_ := s.clk, found := true, group := g }], slice := w.slice })
    let s := s.showBusy b
    s.each l (fun i s => if s.atOnce b i then s.completeReady b i (fun _ => true) else s)

def execCommitAll (w : Who) (b : Fin 24) (s : State) : Host.Outcome State Fault Refusal :=
  .next (s.gateSup w (blockBase b.val + 0x7F000) (State.when (hasRwc b.val) (State.commitAll w b.val)))

/-! ### Shadow writes (R31, R48) -/

/-- A word lands in the shadow of the RWC register at offset `off`, whose implemented bits are `mask`. -/
def State.toShadow (b off mask v : Nat) (s : State) : State :=
  let i := instOf b off
  if s.locked b i then s.evt (stageErr b) 0
  else (s.setReg (shadow (blockBase b + off)) (v &&& mask)).setPending b i true

/-- Grants needed to write a register of an instance, as kind, index and right; none: slice 0 only. -/
def State.mayShadow (s : State) (w : Who) (b off : Nat) : Bool × Nat × Nat :=
  let i := instOf b off
  match blockKind b with
  | some k => (s.may w k i .wr, k, i)
  | none =>
    if b = 14 then
      let c := off - 0x10000 - i * 0x2000
      if 0x200 ≤ c ∧ c < 0xA00 then (s.may w 9 (1280 * i + (c - 0x200) / 8) .wr, 9, 1280 * i + (c - 0x200) / 8)
      else if 0x1000 ≤ c ∧ c < 0x2000 then (s.may w 9 (1280 * i + 256 + (c - 0x1000) / 4) .wr, 9, 1280 * i + 256 + (c - 0x1000) / 4)
      else (s.mayRec w i, 9, 1280 * i)
    else (privileged w, 0, blockBase b + off)

/-! ### Coordinated commit (R50–R52, R526) -/

/-- Participating blocks. -/
def State.xBlocks (s : State) : List Nat := (List.range 24).filter (fun b => hasRwc b && bitAt s.xcommit.blocks b)

/-- An accepted arm. It locks the instances of the participating blocks that are pending then; one that becomes pending
after it is neither locked by it nor taken (DESIGN CHOICE: R48 locks a pending instance from the arm on, and does not say
whether a later one joins). -/
def State.xcommitArm (w : Who) (s : State) : State :=
  if s.bit SYS_XCOMMIT_STAT 0 then s.setBit SYS_XCOMMIT_STAT 4 true
  else
    let c := s.rd SYS_XCOMMIT_CTL
    let st := s.rd SYS_XCOMMIT_STAT
    let s := s.setReg SYS_XCOMMIT_STAT (bits st 15 5 * 2 ^ 5)
    let s := { s with xcommit := {
        ref := bits c 3 0, mode := bits c 4 4, gp := bits c 11 5, blocks := s.rd SYS_XCOMMIT_BLK, armedAt := s.clk } }
    if s.refState (bits c 3 0) = 0 then s.setBit SYS_XCOMMIT_STAT 2 true
    else
      let s := s.setBit SYS_XCOMMIT_STAT 0 true
      s.each s.xBlocks (fun b s =>
        (s.each (s.pendingOf b) (fun i s => s.setStaged b i { s.stagedOf b i with coord := true, slice := w.slice })).showBusy b)

/-- XCOMMIT_ARM: with `abort` too, an abort followed by an arm. -/
def State.xcommitGo (w : Who) (abort : Bool) (s : State) : State :=
  let was := s.bit SYS_XCOMMIT_STAT 0
  let s := if abort then s.xcommitAbort else s
  (s.xcommitArm w).when (abort && was) (fun s => s.setBit SYS_XCOMMIT_STAT 2 true)

def execXcommitArm (w : Who) (abort : Bool) (s : State) : Host.Outcome State Fault Refusal :=
  .next (s.gateSup w SYS_XCOMMIT_GO (State.xcommitGo w abort))

def execXcommitAbort (w : Who) (s : State) : Host.Outcome State Fault Refusal :=
  .next (s.gateSup w SYS_XCOMMIT_GO State.xcommitAbort)

/-- The coordinated commit takes effect in a block: every locked instance, also one a local commit covers, then the block's
completion (R50, R525). -/
def State.xcommitBlock (b : Nat) (s : State) : State :=
  let r := s.xcommit.ref
  let l := (List.range (instCount b)).filter (s.locked b)
  let found := l.any (s.isPending b)
  let t := (s.weft.at' r).lastIssue
  let s := s.each l (fun i s => ((s.emptied b i).activate b i (s.stagedOf b i).slice t).tidyStaged b i)
  s.commitDone b r (s.lastIdx r) (!found) false

/-- The last grid point of the reference is the target of the armed coordinated commit: issued at least 1 µs after the arm
and, in mode 1, grid point `gp` among the first 256 issued since the arm (R50, R51). -/
def State.xcommitMeets (s : State) : Bool :=
  let x := s.xcommit
  s.bit SYS_XCOMMIT_STAT 0 && s.commitPoint x.ref x.armedAt
    && (x.mode == 0 || (s.lastIdx x.ref == x.gp && decide (x.issued ≤ 256)))

/-- XCOMMIT_ACTIVATION: at the target grid point. -/
def State.xcommitActivation (s : State) : State :=
  let x := s.xcommit
  if s.xcommitMeets then
    let gp := s.lastIdx x.ref
    let l := s.xBlocks
    let s := s.setBit SYS_XCOMMIT_STAT 0 false
    let s := ((s.setBit SYS_XCOMMIT_STAT 1 true).setFld SYS_XCOMMIT_STAT 15 12 x.ref).setFld SYS_XCOMMIT_STAT 11 5 gp
    s.each l State.xcommitBlock
  else s

def execXcommitActivation (s : State) : Host.Outcome State Fault Refusal := .next s.xcommitActivation

/-- XCOMMIT_TIMEOUT (R51): the 256th grid point since the arm has been issued and is not the target. -/
def execXcommitTimeout (s : State) : Host.Outcome State Fault Refusal :=
  .next (if s.bit SYS_XCOMMIT_STAT 0 ∧ s.xcommit.mode = 1 ∧ 256 ≤ s.xcommit.issued ∧ s.xcommitMeets = false then
    (s.xcommitRelease).setBit SYS_XCOMMIT_STAT 3 true else s)

/-! ### Instance resets (R35) -/

/-- The working state of an enabled instance is reset. -/
def State.instReset (b i : Nat) (s : State) : State :=
  if s.instOn b i = false then s
  else
    let s := s.discardCommit b i
    match b with
    | 2 => (s.refStart i).refRestarted i
    | 3 => s.sieReset i
    | 4 => s.fdcReset i
    | 5 => s.psuReset i
    | 6 => s.zReset i
    | 9 => (s.modPub i (fun p => { p with due := none, renew := true })).setBit (PUB_ENT_STAT i) 3 false
    | 13 => s.followLost i
    | 14 => s.taeReset i
    | 15 => s.rgeReset i
    | _ => s

/-- The block has a reset register (R34, R35). -/
def hasReset (b : Nat) : Bool := hasRwc b && b != 7

/-- BLK_RESET_INSTANCE. -/
def State.blkResetInstance (w : Who) (b i : Nat) (s : State) : State :=
  let a := blockBase b + 0x7F00C
  s.gate w a true (s.mayInst w b i) (instKind b) (instIndex b i a) .wr (fun s =>
      if hasReset b = false then s
      else if instCount b ≤ i then s.evt (stageErr b) 1 else s.instReset b i)

def execBlkResetInstance (w : Who) (b : Fin 24) (i : Fin 65536) (s : State) : Host.Outcome State Fault Refusal :=
  .next (s.blkResetInstance w b.val i.val)

/-- BLK_RESET_ALL. -/
def State.blkResetAll (w : Who) (b : Nat) (s : State) : State :=
  s.gateSup w (blockBase b + 0x7F00C)
    (State.when (hasReset b) (fun s => s.each (List.range (instCount b)) (State.instReset b)))

def execBlkResetAll (w : Who) (b : Fin 24) (s : State) : Host.Outcome State Fault Refusal := .next (s.blkResetAll w b.val)

end Sys2Proof.Machine
end

