-- ==== Sys2Proof/Machine/LedgerUnit.lean ====
section
/-!
DEFINITION. The ledger: software records, the flush into the array, the scan (R449–R456, R27).
-/

namespace Sys2Proof.Machine

/-- Slots of the array and its address (R28, R449). -/
abbrev ledSlots : Nat := 262144
abbrev ledBase : Nat := 0x4800000000

/-- The octets of a record with its sequence number and CRC (R449). -/
def LedRec.octets (r : LedRec) (seq : Nat) : List Byte :=
  let w := [seq % 2 ^ 32, r.sev % 8 + r.tsrc % 4 * 8 + b2n r.guard * 32 + r.blk % 256 * 2 ^ 8 + r.code % 65536 * 2 ^ 16,
    r.opsec % 2 ^ 32, r.pcycle % 2 ^ 32, r.t0 % 2 ^ 32, r.t1 % 2 ^ 32, r.t2 % 2 ^ 16 + r.slice % 256 * 2 ^ 16]
    ++ (List.range 8).map (fun i => r.pay.getD i 0 % 2 ^ 32)
  let b := w.flatMap (bytesLE 4)
  b ++ bytesLE 4 (crc32 b)

/-- The first free slot number from `n` on. -/
def firstFree : Nat → FMap (Nat × Nat) → Nat
  | n, [] => n
  | n, (k, _) :: rest => if k = n then firstFree (n + 1) rest else n

/-- The slot of the oldest record whose severity is at most `sev`, by its age before sequence number `next`. -/
def oldestRec (next sev : Nat) : FMap (Nat × Nat) → Option (Nat × Nat)
  | [] => none
  | (k, q, v) :: rest =>
    let age := (next + 2 ^ 32 - q) % 2 ^ 32
    match oldestRec next sev rest with
    | some (k', a') => if v ≤ sev + 1 ∧ a' < age then some (k, age) else some (k', a')
    | none => if v ≤ sev + 1 then some (k, age) else none

/-- Write a record into slot `k`. -/
def State.ledPut (k : Nat) (r : LedRec) (s : State) : State :=
  let q := s.rd LED_SEQ_NEXT
  let old := (s.led.slots.at' k).2
  let s := if old = 0 then s else s.setReg (LED_SEV_CNT (old - 1)) (s.rd (LED_SEV_CNT (old - 1)) - 1)
  let s := s.wrBytes (ledBase + 64 * k) (r.octets q)
  let s := { s with led := { s.led with slots := s.led.slots.put k (q, r.sev % 8 + 1) } }
  ((s.setReg LED_SEQ_NEXT ((q + 1) % 2 ^ 32)).inc (LED_SEV_CNT (r.sev % 8))).inc LED_RECORDS

/-- One staged record enters the array (R454). -/
def State.ledWrite (r : LedRec) (s : State) : State :=
  let k := firstFree 0 s.led.slots
  if k < ledSlots then s.ledPut k r
  else
    let s := (s.setBit LED_STAT 2 true).evt LED_EVT 0
    match oldestRec (s.rd LED_SEQ_NEXT) (r.sev % 8) s.led.slots with
    | some (k, _) => s.ledPut k r
    | none => (s.inc LED_ARRAY_DROP).evt LED_EVT 2

/-- LED can write. -/
def State.ledReady (s : State) : Bool := s.power.nx && s.power.mem && !s.bit LED_STAT 0

/-- Every staged record is written, oldest first (R452). -/
def State.ledFlush (s : State) : State :=
  if s.ledReady = false then s else
  let l := s.led.staged
  let s := { s with led := { s.led with staged := [] } }
  (s.each l State.ledWrite).evt LED_EVT 3

/-- A flush begins (R452): a record of severity 5 or more, a power failure, `flush_lvl` records, or one `flush_ms` old. -/
def State.flushDue (s : State) : Bool :=
  let l := s.led.staged
  let lvl := min (max (s.fld LED_CTL 10 0) 1) 1024
  let ms := max (s.fld LED_CTL 31 16) 1
  l.any (fun r => decide (5 ≤ r.sev ∨ r.at_ + ms * tMs ≤ s.clk)) || decide (lvl ≤ l.length)
    || (s.bit SYS_PF_STAT 0 && !l.isEmpty)

/-- LEDGER_FLUSH. -/
def execLedgerFlush (s : State) : Host.Outcome State Fault Refusal := .next (if s.flushDue then s.ledFlush else s)

/-- A write of `LED_SW_CMD` (R450, R456): a software record, refused while busy. -/
def State.softRecord (w : Who) (v : Nat) (s : State) : State :=
  if s.bit LED_SW_STAT 0 then s.setBit LED_SW_STAT 1 true
  else
    let pay := (List.range 8).map (fun k => s.rd (LED_SW_PAY k))
    (s.stageRec (s.mkRec (bits v 2 0) 0xFF (bits v 31 16) pay w.slice)).setReg LED_SW_STAT 1

def execSoftwareRecord (w : Who) (value : Word) (s : State) : Host.Outcome State Fault Refusal :=
  .next (s.gateSup w LED_SW_CMD (State.softRecord w value.toNat))

/-- The highest of the sequence numbers held, compared modulo 2^32, plus one. -/
def nextSeq : FMap (Nat × Nat) → Option Nat
  | [] => none
  | (_, q, _) :: rest => match nextSeq rest with
    | some m => some (if (q + 1 + 2 ^ 32 - m) % 2 ^ 32 < 2 ^ 31 then (q + 1) % 2 ^ 32 else m)
    | none => some ((q + 1) % 2 ^ 32)

/-- The record of a backup-domain loss not recorded yet (R440, R531). -/
def State.lossRecord (s : State) : State :=
  if s.bkd.lossRec ∧ s.ledReady then { s with bkd := { s.bkd with lossRec := false } }.ledgerBare 5 20 0 2 [] else s

/-- Baize's buffered events, before any other (R27): the first one carries the number lost. -/
def State.takeBaize (s : State) : State :=
  let g := s.guard
  let first := if g.lost = 0 then [] else [s.mkRec 5 20 0 [0xFFFFF + 2 ^ 24, g.lost] 0]
  { s with
    guard := { g with events := [], lost := 0 }
    led := { s.led with staged := first ++ g.events ++ s.led.staged } }

/-- LEDGER_SCAN (R455): records counted, next sequence number taken; LED then runs. -/
def State.ledScan (s : State) : State :=
  if s.bit LED_STAT 0 = false ∨ s.power.nx = false ∨ s.power.mem = false then s else
  let l := s.led.slots
  let s := s.each (List.range 8) (fun v s => s.setReg (LED_SEV_CNT v) (l.filter (fun e => e.2.2 == v + 1)).length)
  let s := s.setReg LED_SEQ_NEXT ((nextSeq l).getD 0)
  let s := (s.setBit LED_STAT 0 false).setBit LED_STAT 2 (decide (ledSlots ≤ l.length))
  s.takeBaize.lossRecord

def execLedgerScan (s : State) : Host.Outcome State Fault Refusal := .next s.ledScan

end Sys2Proof.Machine
end

