-- ==== Sys2Proof/Machine/Power.lean ====
section
/-!
DEFINITION. The power domains beside the compute die (R17, R24, R55, R510, R511) and the resets of the network die's
blocks that precede a start (R491, R493).
-/

namespace Sys2Proof.Machine

/-- Blocks on the network die (R17). -/
def nxBlocks : List Nat := [0, 1, 9, 10, 11, 12, 13, 17, 18, 20, 23]

/-- Registers of the network die that keep their value through every reset: the boot choice in the backup section and
the security floor in the MRAM secure array (R487, R503), the straps as last sampled (R316, R507). -/
def keptRegs : List Nat := [SYS_BOOT, SYS_SECVER, SYS_STRAP, RED_STRAP]

/-- A register that the reset of every block but TIME, BKD, GRD and TMP leaves: `cold` says that counters go too. -/
def survives (cold : Bool) (a : Nat) : Bool :=
  keptRegs.contains a || (!cold && (isCounter a || regOf [1] a)) || regOf [19, 21, 22] a

/-- The ledger as it is after a reset: the array stands in MRAM, what was staged is lost. -/
def Ledger.afterReset (l : Ledger) : Ledger := { slots := l.slots }

/-- The working state of the network die's blocks but TIME returns to its reset state; RED's copies of the epoch stand in
the MRAM secure array (R19). -/
def State.nxFields (s : State) : State :=
  { s with
    readLatch := []
    writeLatch := []
    latched := []
    reply := []
    complete := false
    stall := []
    door := []
    staged := []
    xcommit := {}
    cen := {}
    led := s.led.afterReset
    pubQ := []
    pub := []
    swc := {}
    red := { copies := s.red.copies }
    cas := {}
    can := []
    lzSeq := []
    keys := []
    keyOps := []
    faults := []
    blockFail := []
    moduleFault := false }

/-- The registers of all blocks but BKD, GRD and TMP, TIME and counters only with `cold`, return to reset. -/
def State.resetRegs (cold : Bool) (s : State) : State :=
  let keep := s.regs.filter (fun e => survives cold e.1)
  { (s.cxLost).nxFields with regs := keep }

/-- What a cold reset takes beside: the time unit and the record numbers. -/
def State.coldFields (s : State) : State := { s with time := {}, trig := [], bm := [], recNo := [] }

/-- The next start is due: cold (1) or after a warm reset (2). -/
def State.startDue (due : Nat) (s : State) : State :=
  { s with power := { s.power with refOk := true }, boot := { s.boot with
      due := due
      resetAt := s.clk
      recovery := false
      digest := []
      xspi := [] } }

/-- HEALTHY_N and MANDATE_N are released from reset to start-complete (R498), and Baize is armed. -/
def State.released (s : State) : State := ((s.drive .healthyN true).drive .mandateN true).guardArm

/-- A reset that gives a cold start (R491): every block but BKD, GRD and TMP is reset; CX_EN rises (R510). -/
def State.coldReset (s : State) : State :=
  let cxOn := s.power.cxEn
  let s := (s.resetRegs true).coldFields
  let s := { s with power := { s.power with
      cx := true
      cxEn := true
      cxEnAt := s.clk
      cxOffAt := none } }
  let s := if cxOn then s else s.drive .cxEn true
  let s := (s.setBit SYS_PWR_STAT 1 true).startDue 1
  (if s.power.mem then s.setBit LED_STAT 0 true else s).released

/-- DRAM loses its contents. -/
def State.dramLost (s : State) : State :=
  { s with
    mem := s.mem.filter (fun c => decide (0x200000000 ≤ c.1))
    poison := s.poison.filter (fun x => decide (0x40000000 ≤ x))
    boot := { s.boot with kept := false } }

/-- CX, NX and MEM go off: their registers, memories and working state are lost, the outputs fall as R498 says. -/
def State.nxFall (s : State) : State :=
  let s := (s.drive .cxEn false).drive .nxEn false
  let s := { s with power := { s.power with
      cx := false
      cxEn := false
      cxOffAt := none
      nx := false
      nxEn := false
      mem := false } }
  let s := ((s.resetRegs true).coldFields).dramLost
  ({ s with boot := { s.boot with due := 0 } }.drive .ppsOut false).released

/-- NX_EN and CX_EN rise and their rails come up (R510): a cold start is due, with the wake cause of R512; the tick NX was
powered is kept for `TIME_MONO` (R55). Attempts on the rails are counted anew but for a supply retry (R511). -/
def State.nxRise (cause : Nat) (s : State) : State :=
  let s := s.drive .nxEn true
  let s := { s with power := { s.power with
      nx := true
      nxEn := true
      mem := true
      nxUpAt := s.clk
      tries := if cause = 3 then s.power.tries else 0
      retry := none } }
  let s := s.coldReset.setFld SYS_PWR_STAT 7 4 cause
  { s with boot := { s.boot with seedDue := true } }

/-- Straps are sampled (R316, R507): role, position, boot. -/
def State.straps (role pos boot : Nat) (s : State) : State :=
  (s.setReg SYS_STRAP (role + 4 * pos + 32 * boot)).setReg RED_STRAP (role + 4 * pos)

end Sys2Proof.Machine
end

