-- ==== Sys2Proof/Machine/Keys.lean ====
section
/-!
DEFINITION. The key store's slots and operations (R460–R475).
-/

namespace Sys2Proof.Machine

/-! ### Root and derivation (R460–R464) -/

/-- The test root of R462. (DEDUCED: the serial number's octets are taken most significant first, as in R464.) -/
def testRoot : List Byte := hmac256 Config.romKey (bytesBE 8 Config.serial)

/-- The root in use: the test root while `test_root` is set (R462). -/
def State.rootKey (s : State) : List Byte := if s.bit KEY_STAT 2 then testRoot else Config.root

/-- K of R464 for a slot, a label of 16 octets and the generation the slot will hold. -/
def State.deriveKey (s : State) (k gen : Nat) (label : List Byte) : List Byte :=
  hmac256 s.rootKey (bytesBE 4 1 ++ padTo 16 label ++ bytesBE 1 0 ++ bytesBE 8 Config.serial ++ bytesBE 1 k
    ++ bytesBE 4 gen ++ bytesBE 4 256)

/-- The label "GSK96-PKEK". -/
def pkekLabel : List Byte := [0x47, 0x53, 0x4B, 0x39, 0x36, 0x2D, 0x50, 0x4B, 0x45, 0x4B].map (BitVec.ofNat 8)

/-! ### Slots (R465–R467) -/

/-- Octets of material an algorithm code holds (R466). -/
def materialLen : Nat → Nat
  | 1 => 32
  | 2 => 16
  | 3 => 32
  | 4 => 65
  | 5 => 97
  | 6 => 48
  | _ => 0

/-- Use bits an algorithm code allows, as a mask of the attribute word. -/
def allowedUses : Nat → Nat
  | 1 => 0x0300
  | 2 => 0x0F00
  | 3 => 0x2F00
  | 4 => 0x1000
  | 5 => 0x1000
  | 6 => 0x1000
  | _ => 0

/-- Attributes a load accepts. -/
def attrOk (a : Nat) : Bool :=
  let alg := bits a 7 0
  decide (1 ≤ alg ∧ alg ≤ 6) && decide (bits a 13 8 * 2 ^ 8 &&& allowedUses alg = bits a 13 8 * 2 ^ 8)

def State.slotAttr (s : State) (k : Nat) : Nat := s.rd (KEY_SLOT_ATTR k)
def State.setSlotState (k v : Nat) (s : State) : State := s.setFld (KEY_SLOT_STAT k) 1 0 v

/-- A slot becomes EMPTY: material, attributes and identifier go. -/
def State.slotEmpty (k : Nat) (s : State) : State :=
  let s := { s with keys := s.keys.put k [] }
  ((s.setReg (KEY_SLOT_ATTR k) 0).setReg (KEY_SLOT_ID k) 0).setReg (KEY_SLOT_STAT k) (s.fld (KEY_SLOT_STAT k) 3 2 * 4)

/-- A slot is LOADED with material. -/
def State.slotLoad (k gen : Nat) (mat : List Byte) (s : State) : State :=
  let s := { s with keys := s.keys.put k mat }
  ((s.setReg (KEY_SLOT_GEN k) gen).setFld (KEY_SLOT_STAT k) 15 8 mat.length).setFld (KEY_SLOT_STAT k) 4 0
    (s.fld (KEY_SLOT_STAT k) 3 2 * 4 + 1)

/-- SLOT_ATTR_WRITE (R467): free while EMPTY; afterwards use bits may only be cleared and `zot` only be set. -/
def State.slotAttrWrite (k : Nat) (isId : Bool) (v : Nat) (s : State) : State :=
  let a := if isId then KEY_SLOT_ID k else KEY_SLOT_ATTR k
  let cur := s.rd a
  if s.slotState k = 0 then s.setReg a (if isId then v else v % 2 ^ 14 + bits v 31 24 * 2 ^ 24)
  else if isId then s.when (decide (v ≠ cur)) (State.evt KEY_EVT 5)
  else
    let v := v % 2 ^ 14 + bits v 31 24 * 2 ^ 24
    let uses := bits cur 13 8 &&& bits v 13 8
    let new := setBits (setBits cur 13 8 uses) 26 26 (b2n (bitAt cur 26 || bitAt v 26))
    let new := if s.slotState k = 3 then cur else new
    (s.setReg a new).when (decide (v ≠ new)) (State.evt KEY_EVT 5)

def execSlotAttrWrite (w : Who) (k : Fin 64) (isId : Bool) (value : Word) (s : State) :
    Host.Outcome State Fault Refusal :=
  .next (s.gateGrant w (if isId then KEY_SLOT_ID k.val else KEY_SLOT_ATTR k.val) 15 k.val .wr
    (State.slotAttrWrite k.val isId value.toNat))

/-! ### Persistent records (R473, R474) -/

/-- The body of a record: octets 0–191. -/
def State.recBody (s : State) (k gen : Nat) (iv mat : List Byte) : List Byte :=
  let aad := bytesLE 4 (s.slotAttr k) ++ bytesLE 4 (s.rd (KEY_SLOT_ID k))
  let key := s.deriveKey k gen pkekLabel
  let ct := gcmCrypt key iv (padTo 128 mat)
  aad ++ iv ++ ct ++ gcmTag key iv aad ct ++ List.replicate 28 0

/-- A record: body and header. -/
def recWith (body : List Byte) (gen : Nat) : List Byte :=
  body ++ bytesLE 4 gen ++ bytesLE 4 (crc32 (body ++ bytesLE 4 gen))

/-- Generation of a record, and whether its CRC is good. -/
def recGen (r : List Byte) : Nat := wordLE r 192
def recValid (r : List Byte) : Bool := r.length == 200 && crc32 (r.take 196) == wordLE r 196 && recGen r != 0

/-- The record in use of slot `k` (R473): 0 A, 1 B. -/
def State.recInUse (s : State) (k : Nat) : Option Nat :=
  let a := s.secure.at' (2 * k)
  let b := s.secure.at' (2 * k + 1)
  if recValid a then
    (if recValid b && decide ((recGen b + 2 ^ 32 - recGen a) % 2 ^ 32 < 2 ^ 31) then some 1 else some 0)
  else if recValid b then some 1 else none

/-- The two phases of an update: the record not in use is written, then it is the one in use. -/
def State.persistSlot (k gen : Nat) (mat : List Byte) (s : State) : State :=
  let r := match s.recInUse k with
    | some 0 => 1
    | _ => 0
  let iv := bytesBE 12 (Config.freeValue s.free % 2 ^ 96)
  let body := s.recBody k gen iv mat
  let s := { s with secure := s.secure.put (2 * k + r) (recWith body gen) }.drew
  (s.setFld (KEY_SLOT_STAT k) 3 2 (1 + 2 * r)).inc KEY_PUPD

/-- Both records of a slot are zeroised. -/
def State.zeroRecords (k : Nat) (s : State) : State :=
  { s with secure := (s.secure.put (2 * k) []).put (2 * k + 1) [] }.setFld (KEY_SLOT_STAT k) 3 2 0

/-- A persistent slot takes its record at a start (R474). -/
def State.loadRecord (k : Nat) (s : State) : State :=
  match s.recInUse k with
  | none => s
  | some r =>
    let x := s.secure.at' (2 * k + r)
    let gen := recGen x
    let s := (s.setReg (KEY_SLOT_ATTR k) (wordLE x 0)).setReg (KEY_SLOT_ID k) (wordLE x 4)
    let s := (s.setReg (KEY_SLOT_GEN k) gen).setFld (KEY_SLOT_STAT k) 3 2 (1 + 2 * r)
    if s.bit KEY_STAT 0 = false ∨ s.bit KEY_STAT 2 then s.setSlotState k 3
    else
      let iv := (x.drop 8).take 12
      let ct := (x.drop 20).take 128
      let key := s.deriveKey k gen pkekLabel
      if gcmTag key iv (x.take 8) ct = (x.drop 148).take 16 then
        s.slotLoad k gen ((gcmCrypt key iv ct).take (materialLen (bits (wordLE x 0) 7 0)))
      else ((s.setSlotState k 3).evt KEY_EVT 4).ledger 3 18 k KEY_EVT 4 []

/-! ### Commands (R468–R471) -/

/-- Address `k` of a master's operation: 0 source, 1 destination, 2 parameter block. -/
def State.opAddr (s : State) (m k : Nat) : Nat :=
  s.rd (bank m (KEY_OP_ADDR_LO k)) + 2 ^ 32 * s.fld (bank m (KEY_OP_ADDR_HI k)) 7 0

/-- The parameter block of codes 6 to 9: IV at 0, AAD address at 12 (8 octets), AAD length at 20, tag at 24. -/
def State.blockIv (s : State) (par : Nat) : List Byte := s.rdBytes par 12
def State.blockAad (s : State) (par : Nat) : Nat × Nat := (s.ld (par + 12) 8 % 2 ^ 40, s.ld (par + 20) 4)
def State.blockAadBytes (s : State) (par : Nat) : List Byte := s.rdBytes (s.blockAad par).1 (s.blockAad par).2

/-- Every 64 KiB unit of a memory operand is granted (R212), and it lies in DRAM. -/
def State.mayDram (s : State) (w : Who) (a n : Nat) (r : Right) : Bool :=
  n == 0 || (List.range ((a + n - 1) / 65536 + 1 - a / 65536)).all (fun i => s.may w 1 (a / 65536 + i) r)

/-- Octets of the parameter block. -/
def parLen (s : State) (k op : Nat) (tag256 : Bool) : Nat :=
  match op with
  | 2 => 28
  | 4 => 16
  | 6 => 40
  | 7 => 40
  | 8 => if tag256 then 56 else 40
  | 9 => if tag256 then 56 else 40
  | 12 => if s.slotAlg k = 5 then 144 else 96
  | 13 => 5261
  | _ => 0

/-- Memory operands of an operation: address, length, right. -/
def State.opMemory (s : State) (o : KeyOp) (k op : Nat) (tag256 : Bool) : List (Nat × Nat × Right) :=
  let par := [(o.par, parLen s k op tag256, Right.rd)]
  let src := [(o.src, o.len, Right.rd)]
  let dst := fun n => [(o.dst, n, Right.wr)]
  let aad := let x := s.blockAad o.par; [(x.1, x.2, Right.rd)]
  match op with
  | 1 => src
  | 2 => par ++ src
  | 3 => src
  | 4 => par
  | 6 => par ++ [(o.par + 24, 16, .wr)] ++ src ++ dst o.len ++ aad
  | 7 => par ++ src ++ dst o.len ++ aad
  | 8 => par ++ [(o.par + 24, if tag256 then 32 else 16, .wr)] ++ src
  | 9 => par ++ src
  | 10 => src ++ dst 32
  | 11 => src ++ dst 48
  | 12 => par
  | 13 => par ++ src
  | _ => []

/-- The use bit an operation needs: its place in the attribute word. -/
def useBit : Nat → Nat
  | 6 => 10
  | 7 => 11
  | 8 => 8
  | 9 => 9
  | 2 => 13
  | _ => 12

/-- R468 for a command on slot `k` with a use bit: 0, or the result of the first condition that fails. -/
def State.useRefusal (s : State) (w : Who) (k use : Nat) : Nat :=
  let a := s.slotAttr k
  if s.slotState k ≠ 1 then 1
  else if bitAt a use = false ∨ (w.slice.val ≠ 0 ∧ bits a 31 28 ≠ s.slTenant w.slice) then 2
  else if s.bit KEY_STAT 3 then 3
  else if s.bit KEY_STAT 2 ∧ bitAt a 24 = false then 4
  else 0

/-- The algorithm an operation works with. -/
def algServes (op alg : Nat) : Bool :=
  match op with
  | 6 => alg == 2 || alg == 3
  | 7 => alg == 2 || alg == 3
  | 8 => decide (1 ≤ alg ∧ alg ≤ 3)
  | 9 => decide (1 ≤ alg ∧ alg ≤ 3)
  | 12 => alg == 4 || alg == 5
  | 13 => alg == 6
  | 3 => decide (4 ≤ alg)
  | 4 => decide (alg ≤ 3)
  | _ => true

/-- Refusal of a load, derivation or zeroise of slot `k` (R461, R462, R466, R477, R499). -/
def State.loadRefusal (s : State) (w : Who) (op k aux : Nat) : Nat :=
  let a := s.slotAttr k
  let per := bitAt a 27
  let rootless := s.bit KEY_STAT 0 = false ∧ s.bit KEY_STAT 2 = false
  if s.bit KEY_STAT 3 then 3
  else if op ≠ 5 ∧ (attrOk a = false ∨ algServes op (bits a 7 0) = false) then 2
  else if (rootless ∧ (op = 4 ∨ (per ∧ op ≠ 5))) ∨ (s.bit KEY_STAT 2 ∧ (per ∨ (op ≠ 5 ∧ bitAt a 24 = false))) then 4
  else if per ∧ s.bit SYS_PF_STAT 0 then 7
  else if op = 2 then (if s.slotAlg aux = 3 then s.useRefusal w aux 13 else 2)
  else 0

/-- The refusal of a command: 0 when it is taken up. -/
def State.opRefusal (s : State) (w : Who) (op k aux : Nat) : Nat :=
  if 1 ≤ op ∧ op ≤ 5 then s.loadRefusal w op k aux
  else if op = 10 ∨ op = 11 then (if s.bit KEY_STAT 3 then 3 else 0)
  else
    let r := s.useRefusal w k (useBit op)
    if r ≠ 0 then r else if algServes op (s.slotAlg k) then 0 else 2

/-- A command that is refused. -/
def State.keyRefuse (m result : Nat) (s : State) : State :=
  (s.setFld (bank m KEY_OP_STAT) 4 1 result).inc KEY_REFUSED

/-- The right of R469 on slot `k`. -/
def State.opMay (s : State) (w : Who) (op k : Nat) : Bool :=
  if op = 1 then privileged w
  else if 2 ≤ op ∧ op ≤ 5 then s.may w 15 k .wr
  else if op = 10 ∨ op = 11 then true
  else s.may w 15 k .use

/-- A write of `KEY_OP_CMD` (R469, R470). -/
def State.keyCommand (w : Who) (v : Nat) (s : State) : State :=
  let op := bits v 3 0
  let k := bits v 13 8
  let aux := bits v 21 16
  let m := w.master.val
  let right := if op ≤ 5 then Right.wr else Right.use
  let o : KeyOp := { slice := w.slice, cmd := v, len := s.rd (bank m KEY_OP_LEN)
                     src := s.opAddr m 0, dst := s.opAddr m 1, par := s.opAddr m 2 }
  let memory := s.opMemory o k op (bitAt v 15)
  if s.stalled w then s
  else if !s.blkOn 18 then s.errResp w KEY_OP_CMD true 3
  else if op = 0 ∨ op = 14 ∨ op = 15 ∨ s.bit KEY_CTL 0 = false then s.ok w
  else if s.opMay w op k = false then s.violate w 15 k right
  else if op = 2 ∧ s.may w 15 aux .use = false then s.violate w 15 aux .use
  else match memory.find? (fun x => !s.mayDram w x.1 x.2.1 x.2.2) with
    | some x => s.violate w 1 x.1 x.2.2
    | none =>
      let s := s.ok w
      if (s.keyOps.at' m).isSome then s.keyRefuse m 8
      else
        let r := s.opRefusal w op k aux
        if r ≠ 0 then s.keyRefuse m r
        else { s with keyOps := s.keyOps.put m (some o) }.setReg (bank m KEY_OP_STAT) 1

/-- The command word of an operation. -/
def keyWord (op k aux : Nat) (tag256 : Bool) : Nat := op + k * 2 ^ 8 + b2n tag256 * 2 ^ 15 + aux * 2 ^ 16

def execLoadClear (w : Who) (k : Fin 64) (s : State) : Host.Outcome State Fault Refusal :=
  .next (s.keyCommand w (keyWord 1 k 0 false))
def execLoadWrapped (w : Who) (k aux : Fin 64) (s : State) : Host.Outcome State Fault Refusal :=
  .next (s.keyCommand w (keyWord 2 k aux false))
def execLoadPublic (w : Who) (k : Fin 64) (s : State) : Host.Outcome State Fault Refusal :=
  .next (s.keyCommand w (keyWord 3 k 0 false))
def execDerive (w : Who) (k : Fin 64) (s : State) : Host.Outcome State Fault Refusal :=
  .next (s.keyCommand w (keyWord 4 k 0 false))
def execZeroise (w : Who) (k : Fin 64) (s : State) : Host.Outcome State Fault Refusal :=
  .next (s.keyCommand w (keyWord 5 k 0 false))
def execGcmEnc (w : Who) (k : Fin 64) (s : State) : Host.Outcome State Fault Refusal :=
  .next (s.keyCommand w (keyWord 6 k 0 false))
def execGcmDec (w : Who) (k : Fin 64) (s : State) : Host.Outcome State Fault Refusal :=
  .next (s.keyCommand w (keyWord 7 k 0 false))
def execMac (w : Who) (k : Fin 64) (tag256 : Bool) (s : State) : Host.Outcome State Fault Refusal :=
  .next (s.keyCommand w (keyWord 8 k 0 tag256))
def execMacVer (w : Who) (k : Fin 64) (tag256 : Bool) (s : State) : Host.Outcome State Fault Refusal :=
  .next (s.keyCommand w (keyWord 9 k 0 tag256))
def execSha256 (w : Who) (s : State) : Host.Outcome State Fault Refusal :=
  .next (s.keyCommand w (keyWord 10 0 0 false))
def execSha384 (w : Who) (s : State) : Host.Outcome State Fault Refusal :=
  .next (s.keyCommand w (keyWord 11 0 0 false))
def execEcdsaVer (w : Who) (k : Fin 64) (s : State) : Host.Outcome State Fault Refusal :=
  .next (s.keyCommand w (keyWord 12 k 0 false))
def execMldsaVer (w : Who) (k : Fin 64) (s : State) : Host.Outcome State Fault Refusal :=
  .next (s.keyCommand w (keyWord 13 k 0 false))

/-! ### Completion (R470) -/

/-- KEY stores octets in memory. -/
def State.keyStore (a : Nat) (l : List Byte) (s : State) : State :=
  s.dma a l

/-- The operation reports its result, and counts. -/
def State.opDone (m k result : Nat) (uses : Bool) (s : State) : State :=
  let s := (s.keyEnd m result).inc KEY_OPS
  if uses ∧ result = 0 then s.inc (KEY_SLOT_USES k) else s

/-- Material enters a slot; with `persist` its record is committed first. -/
def State.opLoad (m k : Nat) (mat : List Byte) (s : State) : State :=
  if mat.length ≠ materialLen (s.slotAlg k) then s.opDone m k 6 false
  else
    let gen := (s.rd (KEY_SLOT_GEN k) + 1) % 2 ^ 32
    let s := if bitAt (s.slotAttr k) 27 then s.persistSlot k gen mat else s
    (s.slotLoad k gen mat).opDone m k 0 false

/-- The operation of a master ends: its result is written and reported. -/
def State.keyComplete (m : Nat) (s : State) : State :=
  match s.keyOps.at' m with
  | none => s
  | some o =>
    let op := bits o.cmd 3 0
    let k := bits o.cmd 13 8
    let aux := bits o.cmd 21 16
    let tagLen := if bitAt o.cmd 15 ∧ s.slotAlg k = 1 then 32 else 16
    let key := s.keys.at' k
    let src := s.rdBytes o.src o.len
    let iv := s.blockIv o.par
    match op with
    | 2 =>
      let wkey := s.keys.at' aux
      let wiv := s.rdBytes o.par 12
      let wad := bytesLE 4 (s.slotAttr k) ++ bytesLE 4 (s.rd (KEY_SLOT_ID k))
      if o.len ≠ materialLen (s.slotAlg k) then s.opDone m k 6 false
      else if gcmTag wkey wiv wad src ≠ s.rdBytes (o.par + 12) 16 then s.opDone m k 5 false
      else (s.inc (KEY_SLOT_USES aux)).opLoad m k (gcmCrypt wkey wiv src)
    | 4 => s.opLoad m k ((s.deriveKey k ((s.rd (KEY_SLOT_GEN k) + 1) % 2 ^ 32) (s.rdBytes o.par 16)).take
        (materialLen (s.slotAlg k)))
    | 5 =>
      let s := if bitAt (s.slotAttr k) 27 ∨ (s.recInUse k).isSome then (s.zeroRecords k).inc KEY_PUPD else s
      (s.slotEmpty k).opDone m k 0 false
    | 6 =>
      let aad := s.blockAadBytes o.par
      let ct := gcmCrypt key iv src
      ((s.keyStore o.dst ct).keyStore (o.par + 24) (gcmTag key iv aad ct)).opDone m k 0 true
    | 7 =>
      if gcmTag key iv (s.blockAadBytes o.par) src ≠ s.rdBytes (o.par + 24) 16 then s.opDone m k 5 true
      else (s.keyStore o.dst (gcmCrypt key iv src)).opDone m k 0 true
    | 8 =>
      let tag := if s.slotAlg k = 1 then (hmac256 key src).take tagLen else gmac key iv src
      (s.keyStore (o.par + 24) tag).opDone m k 0 true
    | 9 =>
      let tag := if s.slotAlg k = 1 then (hmac256 key src).take tagLen else gmac key iv src
      s.opDone m k (if tag = s.rdBytes (o.par + 24) tag.length then 0 else 5) true
    | 10 => (s.keyStore o.dst (sha256 src)).opDone m k 0 false
    | 11 => (s.keyStore o.dst (sha384 src)).opDone m k 0 false
    | 12 =>
      let n := if s.slotAlg k = 5 then 48 else 32
      s.opDone m k (if Config.ecdsaVerify (s.slotAlg k) key (s.rdBytes o.par n) (s.rdBytes (o.par + n) (2 * n)) then 0 else 5) true
    | 13 =>
      let pk := s.rdBytes o.par 1952
      s.opDone m k (if sha384 pk = key ∧ Config.mldsaVerify pk src (s.rdBytes (o.par + 1952) 3309) then 0 else 5) true
    | _ => s.opLoad m k src

def execKeyOpComplete (m : Fin 13) (s : State) : Host.Outcome State Fault Refusal := .next (s.keyComplete m.val)

/-! ### Debug unlock (R463) -/

/-- The test root is in use: loaded slots with `dbg` = 0 are EMPTY, persistent slots UNUSABLE (R462, R463). -/
def State.testRootOn (s : State) : State :=
  let s := s.setBit KEY_STAT 2 true
  s.each (List.range 64) (fun k s =>
    if s.slotState k = 0 then s
    else if bitAt (s.slotAttr k) 24 = false then s.slotEmpty k
    else if bitAt (s.slotAttr k) 27 then s.setSlotState k 3
    else s)

/-- A debug unlock. -/
def State.debugUnlock (s : State) : State :=
  if s.mandate ∨ s.bit KEY_STAT 3 then (s.evt KEY_EVT 1).ledger 3 18 0 KEY_EVT 1 []
  else ((s.testRootOn).evt KEY_EVT 2).ledger 3 18 0 KEY_EVT 2 []

def execDebugUnlock (w : Who) (s : State) : Host.Outcome State Fault Refusal :=
  .next (s.gateSup w KEY_DBG_CMD (State.when (w.master.val == 12) State.debugUnlock))

/-! ### Start (R460–R462, R474) -/

/-- A copy of the helper data fits its CRC-32. (PRESUMED: the data, then the check value, least significant octet first.) -/
def HelperCopy.fits (c : HelperCopy) : Bool := c.crc == crc32 (c.data ++ bytesLE 8 c.check.toNat)

/-- The root is regenerated from a helper copy that fits its CRC, or the test root comes into use (R462); persistent slots
take their records. `ok0`, `ok1`: within three attempts a power-up pattern gives, with that copy, a root that fits its
check value. -/
def State.keyStart (ok0 ok1 dbgEn : Bool) (s : State) : State :=
  let use0 := ok0 && (s.helper.getD 0 default).fits
  let use1 := ok1 && (s.helper.getD 1 default).fits
  let s := s.setReg KEY_STAT (s.rd KEY_STAT % 64 / 8 % 4 * 8)
  let s := if dbgEn then s.setBit KEY_STAT 2 true
    else if use0 || use1 then (s.setBit KEY_STAT 0 true).setBit KEY_STAT 5 (!use0)
    else ((s.setBit KEY_STAT 1 true).evt KEY_EVT 0).ledger 3 18 0 KEY_EVT 0 []
  if s.power.mem then s.each (List.range 64) State.loadRecord else s

end Sys2Proof.Machine
end

