-- ==== Sys2Proof/Machine/Tamper.lean ====
section
/-!
DEFINITION. The tamper monitor and the key store's response (R476–R480).
-/

namespace Sys2Proof.Machine

/-- Level of a source (0–4) or of a lost latch (5), R477, R478. -/
def State.tamperLevel (s : State) (src : Nat) : Nat := s.fld TMP_LVL (2 * src + 1) (2 * src)

/-- A write of `TMP_LVL`: no level falls below its fused floor (R478). -/
def tamperFloor (v floor : Nat) : Nat :=
  (List.range 6).foldl (fun acc i => acc + max (bits v (2 * i + 1) (2 * i)) (bits floor (2 * i + 1) (2 * i)) * 2 ^ (2 * i)) 0

/-- Operations in progress are aborted and their slots POISONED (R471, R475, R480). -/
def State.tamperAbort (s : State) : State :=
  s.each (List.range 13) (fun m s => match s.keyOps.at' m with
    | some o =>
      let op := bits o.cmd 3 0
      let k := bits o.cmd 13 8
      let s := s.keyAbort m
      if op = 10 ∨ op = 11 then s else (s.setSlotState k 2).evt KEY_EVT 3
    | none => s)

/-- SEAL: the store is sealed. -/
def State.tamperSeal (s : State) : State := ((s.tamperAbort).setBit KEY_STAT 3 true).setBit TMP_STAT 9 true

/-- The record in use of slot `k` is marked for zeroising. -/
def State.recMarked (s : State) (k : Nat) : Bool :=
  match s.recInUse k with
  | some r => bitAt (wordLE (s.secure.at' (2 * k + r)) 0) 26
  | none => false

/-- ZERO on a slot: EMPTY without `pc`, for line-rate use only with it; its records go when it is persistent, those left
behind by a slot now EMPTY too. -/
def State.zeroSlot (k : Nat) (s : State) : State :=
  let a := s.slotAttr k
  let full := bitAt a 26 && decide (s.slotState k ≠ 0)
  let s := if s.power.mem && ((full && bitAt a 27) || s.recMarked k) then s.zeroRecords k else s
  if !full then s else if bitAt a 25 then s.setBit (KEY_SLOT_STAT k) 4 true else s.slotEmpty k

/-- ZERO: the root goes, every `zot` slot is treated. -/
def State.tamperZero (s : State) : State :=
  let s := ((s.setBit KEY_STAT 0 false).setBit KEY_STAT 2 false).setBit KEY_STAT 4 true
  s.each (List.range 64) State.zeroSlot

/-- What the network die does at a level: each level includes those below it. -/
def State.tamperAct (lvl : Nat) (s : State) : State :=
  if s.power.nx = false then s else
  let s := if 2 ≤ lvl then s.tamperSeal else s
  if lvl = 3 then s.tamperZero else s

/-- Baize records a change of a tamper input (R437). The event names no bit of `GRD_EVT`: its place is open. -/
def State.tamperInput (src : Nat) (s : State) : State :=
  if 2 ≤ src then s else (s.baizeEvent 3 src 0xFFFFF (Config.freeValue s.free % 32) []).drew

/-- TAMPER_DETECT (R476, R477): the bit latches, the source acts at its level. -/
def State.tamperDetect (src : Nat) (s : State) : State :=
  if s.power.ao = false then s else
  let lvl := s.tamperLevel src
  let was := s.bit TMP_STAT src
  let s := ((s.setBit TMP_STAT src true).evt TMP_EVT src).setBit BKD_TAMPER src true
  let s := if was then s else s.tamperInput src
  if lvl = 0 then s
  else
    let s := s.inc TMP_DETECT
    let s := if s.power.nx then s.ledger (if lvl = 3 then 7 else 3) 19 src TMP_EVT src [] else s
    s.tamperAct lvl

def execTamperDetect (src : Fin 5) (s : State) : Host.Outcome State Fault Refusal := .next (s.tamperDetect src.val)

/-- TAMPER_SOURCE_INACTIVE. -/
def execTamperSourceInactive (src : Fin 5) (s : State) : Host.Outcome State Fault Refusal :=
  .next (if s.power.ao ∧ s.bit TMP_STAT src.val then (s.setBit TMP_STAT src.val false).tamperInput src.val else s)

/-- LATCH_CLEAR (R479): refused while a source is active. -/
def State.latchClear (s : State) : State :=
  if s.fld TMP_STAT 4 0 ≠ 0 then s
  else ((s.setReg BKD_TAMPER 0).evt TMP_EVT 8).ledger 3 19 0 TMP_EVT 8 []

def execLatchClear (w : Who) (s : State) : Host.Outcome State Fault Refusal :=
  .next (s.gateSup w TMP_CMD State.latchClear)

/-- A lost latch acts as a latched source at `lost_lvl` (R440, R479). -/
def State.latchLost (s : State) : State :=
  let lvl := s.tamperLevel 5
  let s := s.setReg BKD_TAMPER 0x100
  if lvl = 0 then s
  else
    let s := s.inc TMP_DETECT
    let s := if s.power.nx then (s.ledgerBare (if lvl = 3 then 7 else 3) 19 5 (Config.freeValue s.free % 32) []).drew else s
    s.tamperAct lvl

/-! ### At a start (R479, R480) -/

/-- The highest level of the latched sources and of a lost latch. -/
def State.latchedLevel (s : State) : Nat :=
  ((List.range 6).map (fun i =>
    let l : Bool := if i = 5 then s.bit BKD_TAMPER 8 else s.bit BKD_TAMPER i
    if l then s.tamperLevel i else 0)).foldl max 0

/-- A source at SEAL or ZERO is active. -/
def State.activeLevel (s : State) : Nat :=
  ((List.range 5).map (fun i => if s.bit TMP_STAT i then s.tamperLevel i else 0)).foldl max 0

/-- The start stops in tamper hold: a source at SEAL or ZERO is active, or is latched and no hold has been kept. -/
def State.tamperHolds (s : State) : Bool :=
  decide (2 ≤ s.activeLevel) || (decide (2 ≤ s.latchedLevel) && !s.bit TMP_STAT 8)

/-- A start beyond tamper hold: sealed while a latch at SEAL or above stands, ZERO erases the persistent `zot` slots. -/
def State.tamperAtStart (s : State) : State :=
  let l := s.latchedLevel
  let s := (s.setBit TMP_STAT 8 false).setBit TMP_STAT 9 (decide (2 ≤ l))
  let s := (s.setBit KEY_STAT 3 (decide (2 ≤ l))).setBit KEY_STAT 4 (l == 3)
  if l = 3 ∧ s.power.mem then
    s.each (List.range 64) (fun k s => if s.recMarked k then s.zeroRecords k else s)
  else s

end Sys2Proof.Machine
end

