-- ==== Sys2Proof/Machine/Backup.lean ====
section
/-!
DEFINITION. The backup domain: counter, calendar, alarms, PWR_ON_REQ, hour meter (R439–R448).
-/

namespace Sys2Proof.Machine

/-- Change the backup domain's working state. -/
def State.modBkd (f : Backup → Backup) (s : State) : State := { s with bkd := f s.bkd }

/-! ### Calendar (R443) -/

/-- Leap years of the 400-year cycle that begins in 2000. -/
def leap (y : Nat) : Bool := y % 4 == 0 && (y % 100 != 0 || y % 400 == 0)

/-- Days of the cycle before year `y`. -/
def daysBefore (y : Nat) : Nat := 365 * y + (y + 3) / 4 - (y + 99) / 100 + (y + 399) / 400

/-- Days of a month. -/
def monthDays (y m : Nat) : Nat :=
  if m = 2 then (if leap y then 29 else 28) else if m = 4 ∨ m = 6 ∨ m = 9 ∨ m = 11 then 30 else 31

/-- Days of the year before a month. -/
def daysToMonth (y m : Nat) : Nat := ((List.range (m - 1)).map (fun i => monthDays y (i + 1))).foldl (· + ·) 0

/-- Year of the cycle of a day of the cycle. -/
def yearOf (d : Nat) : Nat :=
  let y := d * 400 / 146097
  if d < daysBefore y then y - 1 else if daysBefore (y + 1) ≤ d then y + 1 else y

/-- Month of a day of the year, from month `m` on; `n` months are left. -/
def monthOf (y : Nat) : Nat → Nat → Nat → Nat × Nat
  | 0, m, d => (m, d)
  | n + 1, m, d => if d < monthDays y m then (m, d) else monthOf y n (m + 1) (d - monthDays y m)

/-- ISO weekday of a day counted from Saturday 2000-01-01. -/
def weekday (d : Nat) : Nat := (d + 5) % 7 + 1

/-- The calendar fields: second, minute, hour, weekday, day, month, year since 2000, era. -/
structure Cal where
  sec   : Nat
  min   : Nat
  hour  : Nat
  wday  : Nat
  day   : Nat
  month : Nat
  year  : Nat
  era   : Nat
  deriving DecidableEq, Repr

def calOf (secs : Nat) : Cal :=
  let days := secs / 86400
  let t := secs % 86400
  let d := days % 146097
  let y := yearOf d
  let (m, dm) := monthOf y 12 1 (d - daysBefore y)
  { sec := t % 60, min := t / 60 % 60, hour := t / 3600, wday := weekday d, day := dm + 1, month := m, year := y
    era := days / 146097 }

/-- The RTC's 50-bit count and its seconds. -/
def State.rtcTicks (s : State) : Nat := s.bkd.rtc % 2 ^ 50
def State.rtcSecs (s : State) : Nat := s.rtcTicks / 32768

/-- `BKD_CAL0` and `BKD_CAL1` of a time. -/
def Cal.word0 (c : Cal) : Nat := c.sec + c.min * 2 ^ 8 + c.hour * 2 ^ 16 + c.wday * 2 ^ 24
def Cal.word1 (c : Cal) : Nat := c.day + c.month * 2 ^ 8 + c.year * 2 ^ 16 + c.era % 8 * 2 ^ 25

/-- A read of `BKD_CAL0` latches `BKD_CAL1`. -/
def execCal0Read (w : Who) (s : State) : Host.Outcome State Fault Refusal :=
  .next (s.gate w BKD_CAL0 false (privileged w) 0 BKD_CAL0 .rd (fun s =>
    let c := calOf s.rtcSecs
    { s with latched := s.latched.put BKD_CAL1 c.word1 }.okData w c.word0))

/-- A read of `BKD_RTC_LO` latches `BKD_RTC_HI` for its master (R40, R441). -/
def execRtcLoRead (w : Who) (s : State) : Host.Outcome State Fault Refusal :=
  .next (s.gate w BKD_RTC_LO false (privileged w) 0 BKD_RTC_LO .rd (fun s =>
    { s with readLatch := s.readLatch.put (bank w.master BKD_RTC_LO) (some (s.rtcTicks / 2 ^ 32)) }.okData w
      (s.rtcTicks % 2 ^ 32)))

/-! ### Alarms (R444–R446) -/

/-- Fields of an alarm. -/
def State.almCal (s : State) (a : Nat) : Cal :=
  let x := s.rd (BKD_ALM_CAL0 a)
  let y := s.rd (BKD_ALM_CAL1 a)
  { sec := bits x 5 0, min := bits x 13 8, hour := bits x 20 16, wday := bits x 26 24
    day := bits y 4 0, month := bits y 11 8, year := bits y 24 16, era := 0 }

/-- Field `i` (second, minute, hour, weekday, day, month, year) is compared. -/
def almCmp (ctl i : Nat) : Bool := bitAt ctl (2 + i)

/-- Every compared field lies in its range. -/
def almInRange (ctl : Nat) (c : Cal) : Bool :=
  (!almCmp ctl 0 || decide (c.sec < 60)) && (!almCmp ctl 1 || decide (c.min < 60)) && (!almCmp ctl 2 || decide (c.hour < 24))
    && (!almCmp ctl 3 || decide (1 ≤ c.wday ∧ c.wday ≤ 7)) && (!almCmp ctl 4 || decide (1 ≤ c.day ∧ c.day ≤ 31))
    && (!almCmp ctl 5 || decide (1 ≤ c.month ∧ c.month ≤ 12)) && (!almCmp ctl 6 || decide (c.year < 400))

/-- The compared fields equal those of an instant. -/
def almMatches (ctl : Nat) (c n : Cal) : Bool :=
  (!almCmp ctl 0 || c.sec == n.sec) && (!almCmp ctl 1 || c.min == n.min) && (!almCmp ctl 2 || c.hour == n.hour)
    && (!almCmp ctl 3 || c.wday == n.wday) && (!almCmp ctl 4 || c.day == n.day) && (!almCmp ctl 5 || c.month == n.month)
    && (!almCmp ctl 6 || c.year == n.year)

/-- Days of year `y` of the cycle, from day `from_` of the cycle on, that match weekday, day and month. -/
def almDay (ctl : Nat) (c : Cal) (from_ y : Nat) : Bool :=
  (List.range 12).any (fun i => (!almCmp ctl 5 || c.month == i + 1) &&
    (List.range (monthDays y (i + 1))).any (fun j =>
      let d := daysBefore y + daysToMonth y (i + 1) + j
      decide (from_ ≤ d) && (!almCmp ctl 4 || c.day == j + 1) && (!almCmp ctl 3 || c.wday == weekday d)))

/-- The latest time of day that matches. -/
def almLatest (ctl : Nat) (c : Cal) : Nat :=
  (if almCmp ctl 2 then c.hour else 23) * 3600 + (if almCmp ctl 1 then c.min else 59) * 60 + (if almCmp ctl 0 then c.sec else 59)

/-- An alarm has a matching instant at or after `secs` in the current era; with the year masked, in the whole cycle. -/
def almReachable (ctl : Nat) (c : Cal) (secs : Nat) : Bool :=
  if almCmp ctl 6 then
    let d := secs / 86400 % 146097
    almDay ctl c (if secs % 86400 ≤ almLatest ctl c then d else d + 1) c.year
  else (List.range 400).any (almDay ctl c 0)

/-- The check of R444: `unreachable` shown, and raised when it holds. -/
def State.almCheck (a : Nat) (s : State) : State :=
  if s.bit (BKD_ALM_CTL a) 0 then
    let u := !almReachable (s.rd (BKD_ALM_CTL a)) (s.almCal a) s.rtcSecs
    (s.setBit (BKD_ALM_CTL a) 10 u).when u (State.evt BKD_EVT (4 + a))
  else s

/-- Both alarms are checked again, and the year noted. -/
def State.almCheckAll (s : State) : State :=
  ((s.almCheck 0).almCheck 1).modBkd (fun b => { b with year := (calOf s.rtcSecs).year })

/-- ALARM_CTL_WRITE (R444). -/
def State.alarmCtl (a v : Nat) (s : State) : State :=
  let r := BKD_ALM_CTL a
  let s := s.setFld r 8 1 (bits v 8 1)
  let s := s.modBkd (fun b => { b with almFresh := setBits b.almFresh a a 0 })
  if bitAt v 0 = false then s.setBit r 0 false
  else if almInRange v (s.almCal a) then ((s.setBit r 0 true).setBit r 9 false).almCheck a
  else ((s.setBit r 0 false).setBit r 9 true).evt BKD_EVT 3

def execAlarmCtlWrite (w : Who) (a : Fin 2) (value : Word) (s : State) : Host.Outcome State Fault Refusal :=
  .next (s.gateSup w (BKD_ALM_CTL a.val) (State.alarmCtl a.val value.toNat))

/-- PWR_ON_REQ is asserted, for `pwr_pulse_s` seconds when that is not 0 (R445). -/
def State.pwrOn (s : State) : State :=
  let n := s.fld BKD_PWR 15 0
  let s := s.modBkd (fun b => { b with pulseEnd := if n = 0 then none else some (s.clk + n * tSec) })
  if s.bit BKD_STAT 4 then s else (s.setBit BKD_STAT 4 true).drive .pwrOnReq true

/-- PWR_ON_REQ is deasserted. -/
def State.pwrOff (s : State) : State :=
  let s := s.modBkd (fun b => { b with pulseEnd := none })
  if s.bit BKD_STAT 4 then (s.setBit BKD_STAT 4 false).drive .pwrOnReq false else s

/-- ALARM_MATCH (R445): in a second the count changed to, or was set to. With `wake` PWR_ON_REQ is asserted, and guard-only
mode is left (R512). -/
def State.alarmMatch (a : Nat) (s : State) : State :=
  if s.power.bk = false ∨ s.bit BKD_STAT 0 = false ∨ s.bit (BKD_ALM_CTL a) 0 = false ∨ bitAt s.bkd.almFresh a = false
      ∨ almMatches (s.rd (BKD_ALM_CTL a)) (s.almCal a) (calOf s.rtcSecs) = false then s
  else
    let s := (s.modBkd (fun b => { b with almFresh := setBits b.almFresh a a 0 })).evt BKD_EVT (1 + a)
    if s.bit (BKD_ALM_CTL a) 1 = false then s
    else
      let s := s.pwrOn
      if s.power.ao ∧ s.power.nx = false ∧ s.power.nxEn = false then s.nxRise 2 else s

def execAlarmMatch (a : Fin 2) (s : State) : Host.Outcome State Fault Refusal := .next (s.alarmMatch a.val)

/-- YEAR_CHANGE (R444). -/
def execYearChange (s : State) : Host.Outcome State Fault Refusal :=
  .next (if (calOf s.rtcSecs).year ≠ s.bkd.year then s.almCheckAll else s)

/-! ### Commands (R441, R445) -/

/-- `set`: the count is loaded, its time valid, the trim window restarts; a time that matches fires at once. -/
def State.rtcSet (s : State) : State :=
  let t := s.rd BKD_SET_LO + 2 ^ 32 * s.fld BKD_SET_HI 17 0
  let n := signed 10 (s.fld BKD_TRIM 9 0)
  let s := s.modBkd (fun b => { b with
    rtc := t
    acc := 0
    trimPos := 0
    trimN := max (-256) (min 256 n)
    almFresh := 3 })
  (((s.setBit BKD_STAT 0 true).almCheckAll).alarmMatch 0).alarmMatch 1

def execRtcSet (w : Who) (s : State) : Host.Outcome State Fault Refusal := .next (s.gateSup w BKD_CMD State.rtcSet)
def execPwrClear (w : Who) (s : State) : Host.Outcome State Fault Refusal := .next (s.gateSup w BKD_CMD State.pwrOff)

/-- PWR_PULSE_EXPIRY. -/
def execPwrPulseExpiry (s : State) : Host.Outcome State Fault Refusal :=
  .next (match s.bkd.pulseEnd with
    | some t => if t ≤ s.clk then s.pwrOff else s
    | none => s)

/-- RTC_WRAP: after 2^50 ticks. -/
def execRtcWrap (s : State) : Host.Outcome State Fault Refusal :=
  .next (if 2 ^ 50 ≤ s.bkd.rtc then
    ((s.modBkd (fun b => { b with rtc := b.rtc - 2 ^ 50 })).setBit BKD_STAT 0 false).evt BKD_EVT 7
  else s)

/-! ### Supply (R439, R440) -/

/-- VBAT_MEASURE: the reading in mV. -/
def execVbatMeasure (mv : Nat) (s : State) : Host.Outcome State Fault Refusal :=
  .next (if s.power.ao then
    let low : Bool := decide (mv < 2400)
    (s.setBit BKD_STAT 2 low).when low (State.evt BKD_EVT 6)
  else s)

/-- BACKUP_LOSS (R440): everything retained is gone; BKD's registers stand at their reset column. -/
def State.backupLoss (s : State) : State :=
  let s := s.pwrOff
  let s := { s with regs := s.regs.filter (fun e => !regOf [21] e.1 && !(e.1 == SYS_BOOT)) }
  let s := { s with bkd := { copies := s.bkd.copies, lossRec := true } }
  (s.latchLost).lossRecord

def execBackupLoss (s : State) : Host.Outcome State Fault Refusal := .next s.backupLoss

/-! ### Hour meter (R447) -/

/-- The newer copy is restored when MEM is powered and the meter is not valid. -/
def State.meterRestore (s : State) : State :=
  if s.power.mem ∧ s.power.ao ∧ s.bit BKD_STAT 3 = false then
    match s.bkd.copies with
    | c :: _ =>
      ((s.setReg BKD_OPSEC c.opsec).setReg BKD_PCYCLE (min (c.pcycle + s.rd BKD_PCYCLE) (2 ^ 32 - 1))).setBit BKD_STAT 3 true
        |>.evt BKD_EVT 8
    | [] => s
  else s

/-- The meters are copied into the older of the two locations. -/
def State.meterCopy (s : State) : State :=
  if s.power.mem ∧ s.power.ao ∧ s.bit BKD_STAT 3 then
    let q := match s.bkd.copies with
      | c :: _ => c.seq + 1
      | [] => 0
    s.modBkd (fun b => { b with copies := (⟨q, s.rd BKD_OPSEC, s.rd BKD_PCYCLE⟩ :: b.copies).take 2, copyDue := false })
  else s

/-- HOUR_METER_COPY: at a whole hour, after an advance of the power-cycle count, or at the first chance after MEM was
off. -/
def execHourMeterCopy (s : State) : Host.Outcome State Fault Refusal := .next (if s.bkd.copyDue then s.meterCopy else s)

/-! ### Time passing -/

/-- Position `p` of the trim window is one whose tick is counted twice or not at all (R442). -/
def trimAt (n : Int) (p : Nat) : Bool :=
  let k := n.natAbs
  k != 0 && decide (p % (2 ^ 20 / k) = 0 ∧ p / (2 ^ 20 / k) < k)

/-- One crystal tick. -/
def State.rtcTick (s : State) : State :=
  let b := s.bkd
  let d := if trimAt b.trimN b.trimPos then (if 0 < b.trimN then 2 else 0) else 1
  let p := (b.trimPos + 1) % 2 ^ 20
  let n := if p = 0 then max (-256) (min 256 (signed 10 (s.fld BKD_TRIM 9 0))) else b.trimN
  let r := b.rtc + d
  { s with bkd := { b with
      rtc := r
      trimPos := p
      trimN := n
      almFresh := if r / 32768 = b.rtc / 32768 then b.almFresh else 3 } }

/-- 8 ns of the backup domain: 32,768 crystal ticks and, with VDD_GUARD, one metered second each second. -/
def State.bkdTick (s : State) : State :=
  if s.power.bk = false then s else
  let acc := s.bkd.acc + 262144
  let s := if acc < 1000000000 then s.modBkd (fun b => { b with acc := acc })
    else (s.modBkd (fun b => { b with acc := acc - 1000000000 })).rtcTick
  if s.power.ao = false then s
  else if s.bkd.meterAcc + 1 < tSec then s.modBkd (fun b => { b with meterAcc := b.meterAcc + 1 })
  else
    let s := (s.modBkd (fun b => { b with meterAcc := 0 })).inc BKD_OPSEC
    if s.rd BKD_OPSEC % 3600 = 0 then s.modBkd (fun b => { b with copyDue := true }) else s

end Sys2Proof.Machine
end

