-- ==== Sys2Proof/Machine/Supply.lean ====
section
/-!
DEFINITION. Supplies, resets, start-complete, power failure, patrol scrub and the flash interfaces (R202, R490–R503, R510–R512).
-/

namespace Sys2Proof.Machine

/-- Change the start state. -/
def State.modBoot (f : Boot → Boot) (s : State) : State := { s with boot := f s.boot }

/-- Change the power state. -/
def State.modPower (f : Power → Power) (s : State) : State := { s with power := f s.power }

/-- Address of the bolt copy in DRAM (R488). -/
abbrev boltBase : Nat := 0x1FC000000

/-- The start stopped in tamper hold (R480). -/
def State.tamperHold (s : State) : Bool := s.bit SYS_START_STAT 6

/-! ### Power-up and RESET_N (R490, R491, R510, R511) -/

/-- POWER_UP: AO comes out of its power-on reset with Baize unloaded, the rails rise, a cold start is due. -/
def State.powerUp (role pos boot : Nat) (s : State) : State :=
  if s.power.ao then s else
  let s := { s.resetBlocks [19, 22] with guard := {} }
  let s := s.modPower (fun p => { p with ao := true, bk := true })
  let s := ((s.setBit BKD_STAT 1 false).inc BKD_PCYCLE).modBkd (fun b => { b with copyDue := true })
  (s.nxRise 0).straps role pos boot

def execPowerUp (role : Fin 4) (pos : Fin 8) (boot : Fin 4) (s : State) : Host.Outcome State Fault Refusal :=
  .next (s.powerUp role.val pos.val boot.val)

/-- RESET_N_PULSE: a cold start; guard-only mode is left. Steps of a power failure not done yet are skipped (R511). -/
def State.resetPulse (role pos boot : Nat) (s : State) : State :=
  if s.power.ao = false then s else
  let s := if s.power.nx then (s.coldReset.setFld SYS_PWR_STAT 7 4 1).modPower (fun p => { p with tries := 0, retry := none })
    else s.nxRise 1
  (s.straps role pos boot).modBoot (fun b => { b with pfailAt := none, retained := false })

def execResetNPulse (role : Fin 4) (pos : Fin 8) (boot : Fin 4) (s : State) : Host.Outcome State Fault Refusal :=
  .next (s.resetPulse role.val pos.val boot.val)

/-- RESET_N_LONG_HOLD: the start-attempt count clears, and recovery is left by a cold start. -/
def State.resetLong (s : State) : State :=
  if s.power.ao = false then s else
  let s := s.setFld BKD_START 3 0 0
  if s.power.nx ∧ s.boot.recovery then s.coldReset.setFld SYS_PWR_STAT 7 4 1 else s

def execResetNLongHold (s : State) : Host.Outcome State Fault Refusal := .next s.resetLong

/-- START_WATCHDOG (R491): 30 s from the end of reset without start-complete; a recovery start is left in no such way
(R495). -/
def State.startWatchdog (s : State) : State :=
  if s.power.nx ∧ s.complete = false ∧ s.boot.recovery = false ∧ s.boot.resetAt + 30 * tSec ≤ s.clk then s.coldReset else s

def execStartWatchdog (s : State) : Host.Outcome State Fault Refusal := .next s.startWatchdog

/-! ### Start-complete (R496) -/

/-- RED leaves the start: UNASSIGNED, or SOLO under R330. -/
def State.redComplete (s : State) : State :=
  let s := s.setMember 0
  if s.bit RED_CTL 1 then
    if s.fld RED_STRAP 1 0 = 0 then
      (if 2 ≤ s.health then s.gainMandate 6 ((s.rd RED_EPOCH + 1) % 2 ^ 32) else s)
    else s.evt RED_EVT 11
  else s

/-- Pairs at start-complete (R178): the one named by `start_spare` is SPARE, every other ACTIVE. -/
def State.pairsComplete (s : State) : State :=
  if s.power.cx = false then s else
  let sp := s.fld XEC_SPARE 3 0
  (s.each (List.range 12) (fun p s => s.setFld (XEC_PAIR_STAT p) 2 0 (if p = sp then 2 else 1))).showSpare

/-- A `done` may be written: the last section phase is applied, and the start is neither complete, nor held, nor a
recovery start (R495, R496). -/
def State.doneOk (s : State) : Bool :=
  decide (s.boot.due = 0) && !s.complete && !s.boot.recovery && !s.tamperHold

/-- DONE. -/
def State.done (s : State) : State :=
  if s.doneOk = false then s.evt SYS_START_EVT 1 else
  let s := { s.healthUpdate with complete := true }
  let s := (((s.setBit SYS_START_STAT 5 true).evt SYS_START_EVT 0).setFld BKD_START 3 0 0).setBit SYS_BOOT 0 false
  let s := s.setReg SYS_SECVER (max (s.rd SYS_SECVER) s.boot.secver)
  let s := s.setReg SYS_START_MS ((s.clk - s.boot.resetAt) / tMs)
  let s := if s.power.cx then s.taeCtl (setBits (s.rd TAE_CTL) 1 1 0) else s
  let s := if 2 ≤ s.health then s.drive .healthyN false else s
  let s := (s.pairsComplete).healthUpdate.redComplete
  s.ledger 3 0 0 SYS_START_EVT 0 [s.rd SYS_START_STAT, s.rd SYS_START_MS]

def execDone (w : Who) (s : State) : Host.Outcome State Fault Refusal := .next (s.gateSup w SYS_START_CMD State.done)

/-! ### Commanded resets (R491, R493) -/

/-- The token of R493 for a generation: magic, image hash [31:0], generation, CRC. -/
def State.tokenWords (s : State) (gen : Nat) : List Nat :=
  let l := [0x574D5354, s.ld (boltBase + 0x20) 4, gen % 65536]
  l ++ [crc32 (l.flatMap (bytesLE 4))]

/-- Put the token. -/
def State.putToken (l : List Nat) (s : State) : State := s.each (List.range 4) (fun k s => s.setReg (BKD_WTOKEN k) (l.getD k 0))

/-- Steps 1 to 4 of R493. -/
def State.warmReset (s : State) : State :=
  let s := s.ledFlush
  let s := s.putToken (s.tokenWords (s.boot.token + 1))
  let pf := s.rd SYS_PF_STAT % 2
  let cxOn := s.power.cxEn
  let s := (s.resetRegs false).modPower (fun p => { p with cx := true, cxEn := true, cxEnAt := s.clk, cxOffAt := none })
  let s := s.modBoot (fun b => { b with token := b.token + 1, kept := true })
  let s := if cxOn then s else s.drive .cxEn true
  let s := ((s.setBit SYS_PWR_STAT 1 true).setReg SYS_PF_STAT pf).startDue 2
  (s.setBit LED_STAT 0 true).released

/-- XEC holds no RUNNABLE slice other than slice 0. -/
def State.warmOk (s : State) : Bool := (List.range 255).all (fun k => s.life (k + 1) != 1)

def execWarmReset (w : Who) (s : State) : Host.Outcome State Fault Refusal :=
  .next (s.gateSup w SYS_START_CMD (fun s => if s.warmOk then s.warmReset else s.evt SYS_START_EVT 1))

def execColdReset (w : Who) (s : State) : Host.Outcome State Fault Refusal :=
  .next (s.gateSup w SYS_START_CMD State.coldReset)

/-! ### Power failure (R499) -/

/-- The power-failure handling at 2 µs and 1 ms: event, power-fail record, flush, hour meter. -/
def State.powerFail (s : State) : State :=
  let s := (s.setBit SYS_PF_STAT 0 true).evt SYS_START_EVT 2
  ((s.ledgerBare 7 20 0 0 []).ledFlush).meterCopy

/-- PFAIL_ASSERT. -/
def State.pfailAssert (s : State) : State :=
  if s.power.nx = false ∨ s.boot.pfailAt.isSome then s else
  (s.modBoot (fun b => { b with pfailAt := some s.clk, retained := false })).powerFail

def execPfailAssert (s : State) : Host.Outcome State Fault Refusal := .next s.pfailAssert

/-- `pf_retain_ms` in ticks; 0 is treated as 1. -/
def State.pfRetain (s : State) : Nat := max (s.fld SYS_PF_CFG 15 8) 1 * tMs

/-- PF_RETAIN: the warm reset without its acceptance condition. -/
def State.retain (s : State) : State :=
  match s.boot.pfailAt with
  | some t =>
    if s.power.nx ∧ s.bit SYS_PF_CFG 0 ∧ s.boot.retained = false ∧ t + s.pfRetain ≤ s.clk then
      s.warmReset.modBoot (fun b => { b with retained := true })
    else s
  | none => s

def execPfRetain (s : State) : Host.Outcome State Fault Refusal := .next s.retain

/-- PFAIL_DEASSERT: before the retention step the module continues with `pf_clear`. -/
def State.pfailEnd (s : State) : State :=
  if s.power.nx = false ∨ s.boot.pfailAt = none then s else
  let kept := s.boot.retained
  ((s.setBit SYS_PF_STAT 0 false).when (!kept) (State.evt SYS_START_EVT 3)).modBoot
    (fun b => { b with pfailAt := none, retained := false })

def execPfailDeassert (s : State) : Host.Outcome State Fault Refusal := .next s.pfailEnd

/-! ### Patrol scrub (R502) -/

/-- PATROL_SCRUB of the word at an address of DRAM or of the ledger array: 0 clean, 1 corrected, 2 uncorrectable. -/
def State.patrol (a found : Nat) (s : State) : State :=
  if s.power.nx = false ∨ s.power.mem = false ∨ s.bit XEC_CTL 5 = false then s
  else if found = 1 then s.inc SYS_SCRUB_CE
  else if found = 2 then
    let s := if s.poison.contains (a / 8) then s else { s with poison := s.poison ++ [a / 8] }
    ((s.inc SYS_SCRUB_UE).evt SYS_START_EVT 4).ledger 3 0 0 SYS_START_EVT 4 []
  else s

def execPatrolScrub (addr : Nat) (found : Fin 3) (s : State) : Host.Outcome State Fault Refusal :=
  .next (s.patrol addr found.val)

/-! ### Flash (R503) -/

/-- A flash command is refused: the interface is released or busy, its length is out of range, or it would change the
copy in use. -/
def State.xspiBad (s : State) (k cmd : Nat) : Bool :=
  s.bit (SYS_XSPI_STAT k) 2 || s.bit (SYS_XSPI_STAT k) 0
    || (cmd != 1 && s.fld SYS_START_STAT 3 3 == k)
    || (cmd != 3 && !decide (1 ≤ s.rd (SYS_XSPI_LEN k) ∧ s.rd (SYS_XSPI_LEN k) ≤ 2 ^ 26))

/-- A flash command starts. -/
def State.xspiStart (k cmd : Nat) (s : State) : State :=
  if s.xspiBad k cmd then s.setBit (SYS_XSPI_STAT k) 3 true else
  let a := s.rd (SYS_XSPI_ADDR k)
  let op : XspiOp := { cmd := cmd, addr := if cmd = 3 then a / 2 ^ 16 * 2 ^ 16 else a
                       len := s.rd (SYS_XSPI_LEN k), buf := s.base (SYS_XSPI_BUF_LO k) 6 }
  (s.setReg (SYS_XSPI_STAT k) 1).modBoot (fun b => { b with xspi := b.xspi.put k (some op) })

def execXspiRead (w : Who) (k : Fin 2) (s : State) : Host.Outcome State Fault Refusal :=
  .next (s.gateSup w (SYS_XSPI_CMD k.val) (State.xspiStart k.val 1))
def execXspiProgram (w : Who) (k : Fin 2) (s : State) : Host.Outcome State Fault Refusal :=
  .next (s.gateSup w (SYS_XSPI_CMD k.val) (State.xspiStart k.val 2))
def execXspiErase (w : Who) (k : Fin 2) (s : State) : Host.Outcome State Fault Refusal :=
  .next (s.gateSup w (SYS_XSPI_CMD k.val) (State.xspiStart k.val 3))

/-- The buffer of a flash command lies in DRAM. -/
def XspiOp.inDram (o : XspiOp) : Bool := o.cmd == 3 || decide (o.buf + o.len ≤ 0x200000000)

/-- What a flash command did: `data` is what a read delivered. -/
def State.xspiEffect (k : Nat) (o : XspiOp) (data : List Byte) (s : State) : State :=
  if o.cmd = 1 then s.keyStore o.buf (padTo o.len data)
  else if o.cmd = 2 then s.emit (.program k o.addr (s.rdBytes o.buf o.len))
  else s.emit (.erase k o.addr)

/-- XSPI_DONE: `err` says that the flash reported an error. -/
def State.xspiDone (k : Nat) (data : List Byte) (err : Bool) (s : State) : State :=
  match s.boot.xspi.at' k with
  | none => s
  | some o =>
    let bad := err || !o.inDram
    let s := s.modBoot (fun b => { b with xspi := b.xspi.put k none })
    let s := s.setReg (SYS_XSPI_STAT k) (b2n bad * 2)
    if bad then s else s.xspiEffect k o data

def execXspiDone (k : Fin 2) (data : List Byte) (err : Bool) (s : State) : Host.Outcome State Fault Refusal :=
  .next (s.xspiDone k.val data err)

/-! ### Guard-only mode and rails (R510–R512) -/

/-- SLEEP: refused in ACTIVE, YIELDING or SOLO. -/
def State.sleep (s : State) : State :=
  if s.member = 3 ∨ s.member = 4 ∨ s.member = 6 then s.setBit SYS_PWR_STAT 0 true
  else ((s.ledFlush).meterCopy).nxFall

def execSleep (w : Who) (s : State) : Host.Outcome State Fault Refusal := .next (s.gateSup w SYS_PWR_CMD State.sleep)

/-- CX_POWER_DOWN: the 100 ms of R510 have passed. -/
def execCxPowerDown (s : State) : Host.Outcome State Fault Refusal :=
  .next (match s.power.cxOffAt with
    | some t => if t ≤ s.clk then s.cxFall else s
    | none => s)

/-- NX_RAIL_TIMEOUT: an NX rail is not up within 20 ms of NX_EN. -/
def State.nxTimeout (s : State) : State :=
  if s.power.ao ∧ s.power.nxEn ∧ s.power.nxUpAt + 20 * tMs ≤ s.clk then
    let n := s.power.tries + 1
    s.nxFall.modPower (fun p => { p with tries := n, retry := if n < 3 then some (s.clk + tSec) else none })
  else s

def execNxRailTimeout (s : State) : Host.Outcome State Fault Refusal := .next s.nxTimeout

/-- NX_EN_RETRY: 1 s after NX_EN fell on a time-out. -/
def State.nxRetry (s : State) : State :=
  match s.power.retry with
  | some t => if s.power.ao ∧ s.power.nx = false ∧ t ≤ s.clk then s.nxRise 3 else s
  | none => s

def execNxEnRetry (s : State) : Host.Outcome State Fault Refusal := .next s.nxRetry

/-- A module fault (R202, R323, R531): recorded, health 0, the mandate released. -/
def State.moduleFaulted (code : Nat) (extra : List Nat) (s : State) : State :=
  (({ s with moduleFault := true }.ledgerBare 7 0 code 4 extra).healthUpdate).mandateLoss

/-- CX_RAIL_TIMEOUT: VDD_CX is not up within 10 ms of CX_EN. -/
def State.cxTimeout (s : State) : State :=
  if s.power.nx ∧ s.power.cxEn ∧ s.power.cxEnAt + 10 * tMs ≤ s.clk then (s.moduleFaulted 4 []).cxFall else s

def execCxRailTimeout (s : State) : Host.Outcome State Fault Refusal := .next s.cxTimeout

/-- SUPPLY_FAULT: a rail, numbered in the order of R509, is outside ±8 %. -/
def execSupplyFault (rail : Fin 8) (s : State) : Host.Outcome State Fault Refusal :=
  .next (if s.power.nx then (s.moduleFaulted 3 [rail.val]).powerFail else s)

/-- REFERENCE_CLOCK_LOSS: loss of the 25 MHz reference, or a PLL unlock of a domain (R21 order) and, for the SerDes
domain, a port. The reference counts as absent until the next reset of the network die (DEDUCED: no command brings it back,
and a start runs on its PLLs). -/
def execReferenceClockLoss (pll : Option (Fin 6 × Fin 9)) (s : State) : Host.Outcome State Fault Refusal :=
  .next (if s.power.nx = false then s else
    match pll with
    | none => (s.modPower (fun p => { p with refOk := false })).moduleFaulted 1 []
    | some (d, p) => s.moduleFaulted 2 [d.val, if d.val = 5 then p.val else 0])

/-- Baize stops without its supply: its outputs open. -/
def State.tripsOpen (s : State) : State :=
  s.each ((List.range 4).filter (fun o => s.bit GRD_STAT (8 + o))) (fun o s => s.drive (.gtrip o) false)

/-- VDD_GUARD_LOSS: AO goes off and with it every other domain but BK, which goes on from VBAT. -/
def State.guardLost (s : State) : State :=
  if s.power.ao = false then s else
  let s := (if s.power.nx then s.nxFall else s).tripsOpen
  let s := s.modPower (fun p => { p with ao := false, tries := 0, retry := none })
  ({ s.resetBlocks [19, 22] with guard := {} }).setBit BKD_STAT 1 true

def execVddGuardLoss (s : State) : Host.Outcome State Fault Refusal := .next s.guardLost

end Sys2Proof.Machine
end

