-- ==== Sys2Proof/Machine/Access.lean ====
section
/-!
DEFINITION. Register reads (R32, R33, R40, R66, R213, R441, R443): pairs, banks, values computed at the read, rights.
-/

namespace Sys2Proof.Machine

/-! ### Pairs and banks (R33, R40, R213) -/

/-- Low words of the register pairs of a block: offset, and stride and count of each index. -/
def pairLows : Nat → List (Nat × List (Nat × Nat))
  | 0 => [(0x24, []), (0x300, []), (0x40C, [(0x20, 2)])]
  | 1 => [(0x20, []), (0x40, []), (0x54, []), (0x80, []), (0x220, []), (0x228, [])]
  | 2 => [(0x1020, [(0x40, 16)]), (0x1028, [(0x40, 16)])]
  | 3 => [(0x10004, [(0x80, 96)])]
  | 7 => [(0x2C, []), (0x10004, [(0x40, 256)]), (0x22004, []), (0x23000, [])]
  | 8 => [(0x14, []), (0x1C, []), (0x1000, []), (0x20008, [(0x40, 1024)])]
  | 9 => [(0x10004, [(0x40, 264)])]
  | 10 => [(0x40004, [(0x20, 4)]), (0x50004, [(0x20, 16)]), (0x51004, [(0x20, 16)])]
  | 11 => [(0x1C, [(0x10000, 9)]), (0x44, [(0x10000, 9)]), (0x60, [(0x10000, 9)])]
  | 12 => [(0x44, []), (0x4C, [])]
  | 13 => [(0x24, [])]
  | 14 => [(0x10008, [(0x2000, 8)]), (0x10018, [(0x2000, 8)])]
  | 16 => [(0x20, []), (0x28, []), (0x10004, [(0x100, 16)])]
  | 18 => [(0x1C, []), (0x1008, [(0x8, 3)])]
  | 21 => [(0x18, []), (0x20, [])]
  | 23 => [(0x14, [])]
  | _ => []

/-- An offset, taken to the active half when it lies among the shadows (R31). -/
def activeOff (b off : Nat) : Nat := if hasRwc b ∧ 0x80000 ≤ off then off % 0x80000 else off

/-- The word at an offset is the low word of a pair. -/
def isLow (b off : Nat) : Bool :=
  (pairLows b).any (fun r => decide (r.1 ≤ activeOff b off) && dimsMatch r.2 (activeOff b off - r.1))

/-- The word at an offset is the high word of a pair. -/
def isHigh (b off : Nat) : Bool := decide (4 ≤ activeOff b off) && isLow b (off - 4)

/-- Staging and result registers of which every master has its own bank. -/
def banked (b off : Nat) : Bool :=
  match b with
  | 8 => decide (0x1000 ≤ off ∧ off < 0x101C)
  | 9 => off == 0x24
  | 18 => decide (0x1000 ≤ off ∧ off < 0x1024)
  | 17 =>
    let c := off % 0x10000
    decide (off < 0x20000) && (c == 0x3C || c == 0x40 || c == 0x44 || decide (0x100 ≤ c ∧ c < 0x140))
  | _ => false

/-! ### Values computed at a read -/

/-- 32 flags from `k` × 32 on: event registers that are not zero, of `n`. -/
def State.evtSum (s : State) (ev : Nat → Nat) (n k : Nat) : Nat :=
  maskOf ((List.range 32).map (fun i => decide (32 * k + i < n) && decide (s.rd (ev (32 * k + i)) ≠ 0)))

/-- Index of an offset in a run of `n` words from `base`. -/
def wordIn (base n off : Nat) : Option Nat :=
  if base ≤ off ∧ off < base + 4 * n ∧ (off - base) % 4 = 0 then some ((off - base) / 4) else none

/-- Index of an offset in a family of `n` with a stride from `base`. -/
def strideIn (base st n off : Nat) : Option Nat :=
  if base ≤ off ∧ (off - base) % st = 0 ∧ (off - base) / st < n then some ((off - base) / st) else none

/-- The value of a block's `running` bit: its enable. -/
def State.runBit (s : State) (b : Nat) : Nat := s.rd (blockBase b + 0x10) % 2

/-- Enter an interval into a list sorted by its start. -/
def enterIv (x : Nat × Nat) : List (Nat × Nat) → List (Nat × Nat)
  | [] => [x]
  | y :: rest => if x.1 ≤ y.1 then x :: y :: rest else y :: enterIv x rest

/-- Length of the union of intervals (start, end). -/
def unionLen (l : List (Nat × Nat)) : Nat :=
  ((l.foldr enterIv []).foldl (fun (acc : Nat × Nat) x =>
    (max acc.1 x.2, acc.2 + (x.2 - max acc.1 x.1))) (0, 0)).2

/-- The holder of a grant is tenant `t` or one of its slices. -/
def State.ofTenant (s : State) (t : Nat) (g : Grant) : Bool :=
  if g.ten then g.holder == t else s.slTenant g.holder == t

/-- Usage of kind `k` by tenant `t` (R209), with a further grant when one is given. -/
def State.usage (s : State) (t k : Nat) (extra : Option Grant) : Nat :=
  let l := s.grants.map (·.2) ++ extra.toList
  let counts := fun (g : Grant) => g.valid && g.kind == k && s.ofTenant t g
    && (if k = 2 ∨ k = 13 then g.rd else g.wr || g.use)
  unionLen ((l.filter counts).map (fun g => (g.first, g.first + g.count)))

/-- Word `i` of a grant entry. -/
def Grant.word (g : Grant) (i : Nat) : Nat :=
  match i with
  | 0 => b2n g.valid * 2 ^ 31 + b2n g.revoking * 2 ^ 30 + b2n g.carry * 2 ^ 29 + b2n g.use * 2 ^ 28 + b2n g.wr * 2 ^ 27
      + b2n g.rd * 2 ^ 26 + b2n g.ten * 2 ^ 25 + g.holder * 2 ^ 16 + g.kind
  | 1 => g.first
  | 2 => g.count
  | _ => g.seqNo

/-- SYS and TIME. -/
def State.computedTime (s : State) (b off : Nat) : Option Nat :=
  if b = 0 then
    (wordIn 0x600 25 off).map (fun k => if k = 24 then Config.anchor k % 2 else Config.anchor k % 2 ^ 32)
  else match off with
    | 0x14 => some (setBits (s.rd TIME_STAT) 10 10 (b2n s.masterSeen))
    | 0x30 => some s.time.ns
    | 0x34 => some (s.latched.at' TIME_NOW_SEC_LO)
    | 0x38 => some (s.latched.at' TIME_NOW_SEC_HI)
    | 0x3C => some (s.latched.at' TIME_NOW_FRAC)
    | 0x40 => some (s.mono % 2 ^ 32)
    | 0x44 => some (s.mono / 2 ^ 32)
    | 0x90 => some s.holdAge
    | _ => none

/-- The status of an engine's instance with `running` in bit 0: the block and the instance are enabled, the configuration
is not refused, and `on` (R141, R146). -/
def State.working (s : State) (b stat cfg : Nat) (on : Bool) : Nat :=
  setBits (s.rd stat) 0 0 (b2n (s.runBit b == 1 && s.bit cfg 31 && !s.bit stat 1 && on))

/-- WEFT, SIE and the signal engines. -/
def State.computedEngine (s : State) (b off : Nat) : Option Nat :=
  match b with
  | 2 => if off = 0x14 then some (s.evtSum WEFT_REF_EVT 16 0) else none
  | 3 => if off = 0x24 then some (setBits (s.rd SIE_STAT) 1 0 (s.runBit 3 + 2 * b2n (decide (8192 < s.sieFill))))
    else (wordIn 0x30 3 off).map (s.evtSum SIE_CH_EVT 96)
  | 4 => if off = 0x20 then some (s.runBit 4) else match strideIn 0x1000C 0x80 512 off with
    | some c => some (s.working 4 (FDC_CH_STAT c) (FDC_CH_CFG c) true)
    | none => (wordIn 0x30 16 off).map (s.evtSum FDC_CH_EVT 512)
  | 5 => if off = 0x20 then some (s.runBit 5) else match strideIn 0x10018 0x40 128 off with
    | some i => some (s.working 5 (PSU_STAT_I i) (PSU_IN_CFG i) (decide (s.fld (PSU_IN_CFG i) 26 25 ≠ 0)))
    | none => (wordIn 0x30 4 off).map (s.evtSum PSU_EVT 128)
  | _ => if off = 0x20 then some (s.runBit 6) else if off = 0x28 then some (s.evtSum DZE_Z_EVT 16 0)
    else (strideIn 0x10024 0x100 16 off).map (fun z => s.working 6 (DZE_Z_STAT z) (DZE_Z_CFG z) true)

/-- XEC: pairs, tenants and grants. -/
def State.computedXec (s : State) (off : Nat) : Option Nat :=
  if off = 0x21018 then some (4096 - (s.grants.filter (fun g => g.2.valid)).length)
  else if 0x40000 ≤ off then
    if off < 0x50000 then some ((s.grants.at' ((off - 0x40000) / 16)).word (off % 16 / 4)) else none
  else match strideIn 0x1000 0x40 12 off with
    | some p => some (setBits (s.rd (XEC_PAIR_STAT p)) 15 8 (min (s.hosted p).length 255))
    | none => match strideIn 0x100C 0x40 12 off with
      | some p => some (min (s.util p) 255)
      | none => match strideIn 0x10010 0x40 256 off with
      | some n => some (if s.life n = 3 then setBits (s.rd (XEC_SL_STAT n)) 2 0 7 else s.rd (XEC_SL_STAT n))
      | none => match strideIn 0x20008 0x100 16 off with
        | some t =>
          let en := ((List.range 256).filter (fun n => s.slEn n && s.slTenant n == t)).length
          let held := (s.grants.filter (fun g => g.2.valid && s.ofTenant t g.2)).length
          some (min en 255 + min held 255 * 2 ^ 8)
        | none =>
          if 0x20000 ≤ off ∧ off < 0x21000 then
            (wordIn 0x80 16 (off % 0x100)).map (fun k => s.usage ((off - 0x20000) / 0x100) k none)
          else none

/-- PTS and PUB. -/
def State.computedPoint (s : State) (b off : Nat) : Option Nat :=
  if b = 8 then
    if off = 0x24 then some (setBits (s.rd PTS_STAT) 0 0 (s.runBit 8))
    else if 0x80 ≤ off ∧ off ≤ 0x88 then none
    else (wordIn 0x30 32 off).map (s.evtSum PTS_SUB_EVT 1024)
  else match off with
    | 0x14 => some (s.runBit 9 + b2n s.mandate * 2 + min s.pubQ.length 127 * 4)
    | 0x18 => some s.red.held
    | _ => match strideIn 0x10018 0x40 264 off with
      | some e => some (s.working 9 (PUB_ENT_STAT e) (PUB_ENT_CFG e) true)
      | none => (wordIn 0x30 9 off).map (s.evtSum PUB_ENT_EVT 264)

/-- SWC, RED, CAS, CAN, KEY, LED, BKD and GRD. -/
def State.computedNet (s : State) (b off : Nat) : Option Nat :=
  match b with
  | 10 => if off = 0x14 then some (setBits (s.rd SWC_STAT) 0 0 (s.runBit 10))
    else match strideIn 0x1000C 0x40 13 off with
      | some p => if p < 9 then none else some (setBits (s.rd (SWC_PORT_STAT p)) 0 0 (b2n (s.swUp p)))
      | none => none
  | 12 => if off = 0x58 then some s.ckAge else none
  | 13 => if off = 0x14 then
      some (s.fld RED_STRAP 4 2 + b2n s.isDealer * 8 + s.fld CAS_STAT 4 4 * 16 + b2n (s.portUp 6) * 32 + b2n (s.portUp 7) * 64)
    else none
  | 17 => if off % 0x10000 = 0x14 ∧ off < 0x20000 then
      some (setBits (s.rd (CAN_STAT (off / 0x10000))) 3 3 (b2n (s.canListens (off / 0x10000)))) else none
  | 18 => if off = 0x1C then some (Config.serial % 2 ^ 32)
    else if off = 0x20 then some (Config.serial / 2 ^ 32 % 2 ^ 32) else none
  | 20 => if off = 0x14 then some (setBits (s.rd LED_STAT) 13 3 s.led.staged.length) else none
  | 21 => match off with
    | 0x18 => some (s.rtcTicks % 2 ^ 32)
    | 0x1C => some (s.rtcTicks / 2 ^ 32)
    | 0x30 => some (calOf s.rtcSecs).word0
    | 0x34 => some (if s.latched.at' BKD_CAL1 = 0 then (calOf s.rtcSecs).word1 else s.latched.at' BKD_CAL1)
    | _ => none
  | 22 => if off = 0x14 then
      let al : Bool := bitAt (s.act GRD_CTL) 2 && s.power.nx && (match s.guard.lastTrig with
        | some t => decide (s.clk ≤ t + 2 * tSec)
        | none => false)
      some (setBits (s.rd GRD_STAT) 2 2 (b2n al))
    else none
  | _ => none

/-- A loop's source register as read: with a PSU kind bits 22 to 14 and 7 are reserved (R14). `z` is 0, or the offset of
the shadows. -/
def State.loopSrc (s : State) (off : Nat) : Option Nat :=
  let z := if 0x80000 ≤ off then 0x80000 else 0
  let val := fun (l reg hi lo : Nat) =>
    if s.fld (RGE_LP_CFG l + z) hi lo ≤ 1 then s.rd (reg + z) &&& 0x3F7F else s.rd (reg + z)
  match strideIn 0x10004 0x100 32 (off - z) with
  | some l => some (val l (RGE_LP_FB_SRC l) 14 13)
  | none => (strideIn 0x10008 0x100 32 (off - z)).map (fun l => val l (RGE_LP_FF_SRC l) 2 1)

/-- TAE, RGE and LGE. -/
def State.computedRec (s : State) (b off : Nat) : Option Nat :=
  match b with
  | 14 => if off = 0x14 then some (s.fld TAE_CTL 1 0) else if off = 0x18 then some (s.evtSum TAE_REC_EVT 8 0) else none
  | 15 => if off = 0x14 then some (s.runBit 15) else if off = 0x18 then some (s.evtSum RGE_LP_EVT 32 0) else s.loopSrc off
  | _ => if off = 0x14 then
      match (List.range 16).find? s.scanning with
      | some p => some (s.runBit 16 + 2 + p * 4)
      | none => some (s.runBit 16)
    else if off = 0x18 then some (s.evtSum LGE_PG_EVT 16 0)
    else (strideIn 0x10024 0x100 16 off).map s.holdLeft

/-- The value of a register that is computed when it is read. -/
def State.computed (s : State) (b off : Nat) : Option Nat :=
  if b ≤ 1 then s.computedTime b off
  else if b ≤ 6 then s.computedEngine b off
  else if b = 7 then s.computedXec off
  else if b ≤ 9 then s.computedPoint b off
  else if b = 14 ∨ b = 15 ∨ b = 16 then s.computedRec b off
  else s.computedNet b off

/-- What stands at an address of the register region: nothing readable at a write-only register, an offset without one,
or a shadow of a register that has none (R31, R32). -/
def readable (b off : Nat) : Bool :=
  match rowAt b off with
  | some r => r.acc != .WO
  | none => match rowAt b (activeOff b off) with
    | some r => r.acc == .RWC
    | none => false

/-- The value a master reads at a register address. -/
def State.regVal (s : State) (m a : Nat) : Nat :=
  let b := blkOf a
  let off := offOf a
  if readable b off = false then 0
  else match s.computed b off with
    | some v => v
    | none =>
      if banked b off then
        if b = 17 ∧ off % 0x10000 = 0x3C then setBits (s.rd a) 9 8 (s.fld (bank m a) 9 8) else s.rd (bank m a)
      else s.rd a

/-! ### Rights (R212, R213) -/

/-- Kind and unit of the instance a register belongs to; for a recorder's own registers every channel counts. -/
def instUnit (b off : Nat) : Option (Nat × Nat) :=
  let at_ := fun (base st n k : Nat) =>
    if base ≤ off ∧ off < base + st * n then some (k, (off - base) / st) else none
  match b with
  | 3 => (at_ 0x10000 0x80 96 5).or (at_ 0x40000 0x100 96 5)
  | 4 => at_ 0x10000 0x80 512 6
  | 5 => at_ 0x10000 0x40 128 7
  | 6 => (at_ 0x10000 0x100 16 8).or (at_ 0x40000 0x400 16 8)
  | 8 => at_ 0x20000 0x40 1024 13
  | 9 => at_ 0x10000 0x40 264 12
  | 14 =>
    if 0x10000 ≤ off ∧ off < 0x20000 then
      let r := (off - 0x10000) / 0x2000
      let c := (off - 0x10000) % 0x2000
      if 0x200 ≤ c ∧ c < 0xA00 then some (9, 1280 * r + (c - 0x200) / 8)
      else if 0x1000 ≤ c then some (9, 1280 * r + 256 + (c - 0x1000) / 4)
      else none
    else none
  | 15 => at_ 0x10000 0x100 32 10
  | 16 => (at_ 0x10000 0x100 16 11).or (at_ 0x20000 0x400 16 11)
  | 17 =>
    let o := off / 0x10000
    let c := off % 0x10000
    if 2 ≤ o then none
    else if 0x400 ≤ c ∧ c < 0x500 then some (14, 128 * o + (c - 0x400) / 4)
    else if 0x2000 ≤ c ∧ c < 0x3800 then some (14, 128 * o + (c - 0x2000) / 0x60)
    else if c = 0x48 ∨ c = 0x4C ∨ 0x4000 ≤ c then some (14, 128 * o + 64)
    else if c = 0x50 ∨ c = 0x54 ∨ c = 0x58 ∨ (0x3800 ≤ c ∧ c < 0x4000) then some (14, 128 * o + 65)
    else if c = 0x38 ∨ c = 0x5C ∨ (0x200 ≤ c ∧ c < 0x400) then some (14, 128 * o + 66)
    else none
  | 18 => at_ 0x10000 0x20 64 15
  | _ => none

/-- The recorder whose own registers hold an offset of TAE. -/
def recUnit (b off : Nat) : Option Nat :=
  if b = 14 ∧ 0x10000 ≤ off ∧ off < 0x20000 ∧ instUnit b off = none then some ((off - 0x10000) / 0x2000) else none

/-- Grant kinds of a block whose block-level registers a holder may read. -/
def blockKinds : Nat → List Nat
  | 3 => [5]
  | 4 => [6]
  | 5 => [7]
  | 6 => [8]
  | 8 => [4, 13]
  | 9 => [12]
  | 14 => [9]
  | 15 => [10]
  | 16 => [11]
  | 17 => [14]
  | 18 => [15]
  | _ => []

/-- A slice reads its own execution registers. -/
def ownSlice (n b off : Nat) : Bool :=
  let o := activeOff b off
  b == 7 && ((decide (0x10000 ≤ o ∧ o < 0x14000) && (o - 0x10000) / 0x40 == n)
    || (decide (0x30000 ≤ o ∧ o < 0x32000) && (o - 0x30000) / 0x20 == n))

/-- A read passes; else kind and index of the violation. -/
def State.mayRead (s : State) (w : Who) (b off : Nat) : Bool × Nat × Nat :=
  let a := blockBase b + off
  if privileged w ∨ b = 1 ∨ banked b off ∨ ownSlice w.slice b off then (true, 0, a)
  else match instUnit b (activeOff b off) with
    | some (k, i) => (s.may w k i .rd, k, i)
    | none => match recUnit b (activeOff b off) with
      | some r => ((List.range 1280).all (fun c => s.may w 9 (1280 * r + c) .rd), 9, 1280 * r)
      | none => ((blockKinds b).any (s.holdsKind w), 0, a)

/-! ### The read -/

/-- The 32-bit word a read delivers: the low word of a pair latches the high word, the high word spends the latch (R40). -/
def State.readWord (w : Who) (a : Nat) (s : State) : State :=
  let m := w.master.val
  let b := blkOf a
  let off := offOf a
  if isLow b off then
    { s with readLatch := s.readLatch.put (bank m a) (some (s.regVal m (a + 4))) }.okData w (s.regVal m a)
  else if isHigh b off then
    match s.readLatch.at' (bank m (a - 4)) with
    | some v => { s with readLatch := s.readLatch.put (bank m (a - 4)) none }.okData w v
    | none => s.okData w (s.regVal m a)
  else s.okData w (s.regVal m a)

/-- The state after a meaning that always goes on. -/
def after (s : State) : Host.Outcome State Fault Refusal → State
  | .next t => t
  | _ => s

/-- A 32-bit read of a register. -/
def State.read32 (w : Who) (a : Nat) (s : State) : State :=
  if a = TIME_NOW_NS then after s (execNowNsRead w s)
  else if a = BKD_RTC_LO then after s (execRtcLoRead w s)
  else if a = BKD_CAL0 then after s (execCal0Read w s)
  else
    let ok := s.mayRead w (blkOf a) (offOf a)
    s.gate w a false ok.1 ok.2.1 ok.2.2 .rd (State.readWord w a)

/-- A 64-bit read of a pair: both words of one moment. -/
def State.read64 (w : Who) (a : Nat) (s : State) : State :=
  let ok := s.mayRead w (blkOf a) (offOf a)
  s.gate w a false ok.1 ok.2.1 ok.2.2 .rd (fun s =>
    s.okData w (s.regVal w.master a + 2 ^ 32 * s.regVal w.master (a + 4)))

/-- Size and alignment of a register access (R33). -/
def sizeOk (a size : Nat) : Bool :=
  (size == 4 && a % 4 == 0) || (size == 8 && a % 8 == 0 && isLow (blkOf a) (offOf a))

/-- A read of a register. -/
def State.busRead (w : Who) (a size : Nat) (s : State) : State :=
  if s.stalled w then s
  else if !isReg a then s.accessErr w a false 1
  else if !sizeOk a size then s.accessErr w a false 2
  else if size = 8 then s.read64 w a else s.read32 w a

def execLowWordRead (w : Who) (addr : Nat) (s : State) : Host.Outcome State Fault Refusal := .next (s.busRead w addr 4)
def execHighWordRead (w : Who) (addr : Nat) (s : State) : Host.Outcome State Fault Refusal := .next (s.busRead w addr 4)

end Sys2Proof.Machine
end

