-- ==== Sys2Proof/Machine/Grants.lean ====
section
/-!
DEFINITION. Creating and revoking grants (R209, R212, R215–R218, R235).
-/

namespace Sys2Proof.Machine

/-- Units of a kind (R212). -/
def kindRange : Nat → Nat
  | 1 => 131072
  | 2 => 9216
  | 3 => 3072
  | 4 => 8388608
  | 5 => 96
  | 6 => 512
  | 7 => 128
  | 8 => 16
  | 9 => 10240
  | 10 => 32
  | 11 => 16
  | 12 => 264
  | 13 => 1024
  | 14 => 256
  | 15 => 64
  | _ => 0

/-- Rights of a kind: wr, use. Every kind has rd. -/
def kindRights (k : Nat) : Bool × Bool := (!(k == 2 || k == 13), [1, 3, 9, 10, 11, 12, 14, 15].contains k)

/-- The staged grant. -/
def State.stagedGrant (s : State) : Grant :=
  let w := s.rd (XEC_GNT_ST 0)
  let ten := bitAt w 25
  { valid := true, carry := bitAt w 29, use := bitAt w 28, wr := bitAt w 27, rd := bitAt w 26, ten := ten
    holder := if ten then bits w 19 16 else bits w 23 16
    kind := bits w 3 0, first := s.fld (XEC_GNT_ST 1) 23 0, count := s.fld (XEC_GNT_ST 2) 23 0 }

/-- Two grants touch a common unit. -/
def Grant.overlaps (g h : Grant) : Bool :=
  g.kind == h.kind && decide (g.first < h.first + h.count ∧ h.first < g.first + g.count)

/-- The tenant a grant belongs to. -/
def State.grantTenant (s : State) (g : Grant) : Nat := if g.ten then g.holder else s.slTenant g.holder

/-- `read_from` of tenant `t` lets it read what tenant `u` writes. -/
def State.readFrom (s : State) (t u : Nat) : Bool := s.bit (XEC_TEN_SHARE t) u

/-- Condition 1 of R215. -/
def Grant.bad (g : Grant) : Bool :=
  g.kind == 0 || g.count == 0 || decide (kindRange g.kind < g.first + g.count)
    || (g.wr && !(kindRights g.kind).1) || (g.use && !(kindRights g.kind).2)
    || g.holder == 0 || (g.carry && !(g.kind == 1 && !g.ten))

/-- Condition 6 of R215. -/
def State.unshared (s : State) (g : Grant) : Bool :=
  let t := s.grantTenant g
  s.grants.any (fun e =>
    let u := s.grantTenant e.2
    e.2.valid && e.2.overlaps g && u != t
      && ((g.rd && (e.2.wr || e.2.use) && !s.readFrom t u) || ((g.wr || g.use) && e.2.rd && !s.readFrom u t)))

/-- Condition 7 of R215. -/
def State.badWindow (s : State) (g : Grant) : Bool :=
  g.kind == 3 && (g.ten || g.first / 256 != s.slPair g.holder || (g.first + g.count - 1) / 256 != s.slPair g.holder
    || s.grants.any (fun e => e.2.valid && e.2.kind == 3 && !e.2.ten && e.2.holder == g.holder))

/-- The result of a create command (R215): the first condition that holds. -/
def State.createResult (s : State) (i : Nat) (g : Grant) : Nat :=
  let t := s.grantTenant g
  let new := s.usage t g.kind (some g)
  if g.bad then 1
  else if (g.wr || g.use) && s.grants.any (fun e => e.2.valid && e.2.overlaps g && (e.2.wr || e.2.use)
      && !(e.2.ten == g.ten && e.2.holder == g.holder)) then 2
  else if t ≠ 0 ∧ s.fld (XEC_TEN_QUOTA t g.kind) 23 0 < new ∧ s.usage t g.kind none < new then 3
  else if (s.grants.at' i).valid then 5
  else if s.unshared g then 6
  else if s.badWindow g then 7
  else 0

/-- Show a grant command's result. -/
def State.grantStat (i result : Nat) (busy : Bool) (s : State) : State :=
  s.setReg XEC_GNT_STAT (i * 16 + result * 2 + b2n busy)

/-- A grant command: ignored while one is in progress (R218). -/
def State.grantCmd (w : Who) (f : State → State) (s : State) : State :=
  s.gateSup w XEC_GNT_CMD (fun s => if s.bit XEC_GNT_STAT 0 then s.evt (XEC_SL_XEVT 0) 9 else f s)

/-- GRANT_CREATE. -/
def State.grantCreate (i : Nat) (s : State) : State :=
  let g := s.stagedGrant
  let r := s.createResult i g
  if r ≠ 0 then s.grantStat i r false
  else
    let n := (s.grantSeq + 1) % 2 ^ 32
    { s with grants := s.grants.put i { g with seqNo := n }, grantSeq := n }.grantStat i 0 false

def execGrantCreate (w : Who) (g : Fin 4096) (s : State) : Host.Outcome State Fault Refusal :=
  .next (s.grantCmd w (State.grantCreate g.val))

/-- The block whose instances a kind names. -/
def kindBlock : Nat → Option Nat
  | 5 => some 3
  | 6 => some 4
  | 7 => some 5
  | 8 => some 6
  | 9 => some 14
  | 10 => some 15
  | 12 => some 9
  | _ => none

/-- A grant covers some unit of instance `i` of the block its kind names. -/
def Grant.onInst (g : Grant) (i : Nat) : Bool :=
  if g.kind = 9 then decide (g.first < 1280 * i + 1280 ∧ 1280 * i < g.first + g.count)
  else decide (g.first ≤ i ∧ i < g.first + g.count)

/-- Slice `n` holds the grant, itself or through its tenant. -/
def State.heldBy (s : State) (g : Grant) (n : Nat) : Bool := if g.ten then s.slTenant n == g.holder else n == g.holder

/-- A key operation uses a resource the grant covers. -/
def State.keyUses (s : State) (g : Grant) (o : KeyOp) : Bool :=
  let op := bits o.cmd 3 0
  let k := bits o.cmd 13 8
  if g.kind = 15 then g.onInst k || (op == 2 && g.onInst (bits o.cmd 21 16))
  else if g.kind = 1 then (s.opMemory o k op (bitAt o.cmd 15)).any (fun m =>
    m.2.1 != 0 && decide (m.1 / 65536 < g.first + g.count ∧ g.first ≤ (m.1 + m.2.1 - 1) / 65536))
  else false

/-- Slice `n` has a request outstanding on a resource the grant covers (R217, R235). -/
def State.inflightOf (s : State) (g : Grant) (n : Nat) : Bool :=
  (g.kind == 12 && s.pubQ.any (fun r => g.onInst r.entry && (match r.owner with | some (k, _) => k == n | none => false)))
    || s.keyOps.any (fun e => match e.2 with | some o => o.slice == n && s.keyUses g o | none => false)
    || (g.kind == 11 && s.lge.any (fun e => g.onInst e.1 && (match e.2 with | some x => x.waitsFor n | none => false)))
    || (match kindBlock g.kind with
        | some b => s.staged.any (fun e => e.2.locked && e.2.slice == n && e.1 / 65536 == b && g.onInst (e.1 % 65536))
        | none => false)
    || (match s.xfer with
        | some x => x.slice == n && (g.kind == 3 || (g.kind == 1 && g.carry))
        | none => false)

/-- A revoke is refused with `inflight`. -/
def State.inflight (s : State) (g : Grant) : Bool :=
  (List.range 256).any (fun n => s.heldBy g n &&
    ((s.life n != 3 && s.inflightOf g n)
      || (g.kind == 14 && (List.range 2).any (fun o => g.onInst (128 * o + 66) && (s.canOf o).queue.any (fun e => e.slice == n)))))

/-- The instances whose shadows a revoke resets. -/
def Grant.instances (g : Grant) : List (Nat × Nat) :=
  match kindBlock g.kind with
  | some b => if g.wr then ((List.range (instCount b)).filter g.onInst).map (fun i => (b, i)) else []
  | none => []

/-- GRANT_REVOKE (R216): the entry is revoking until its accesses have been accepted. -/
def State.grantRevoke (i : Nat) (s : State) : State :=
  let g := s.grants.at' i
  if g.valid = false then s.grantStat i 5 false
  else if s.inflight g then s.grantStat i 4 false
  else
    let s := { s with grants := s.grants.put i { g with revoking := true } }.grantStat i 0 true
    s.each g.instances (fun x => State.shadowReset x.1 x.2)

def execGrantRevoke (w : Who) (g : Fin 4096) (s : State) : Host.Outcome State Fault Refusal :=
  .next (s.grantCmd w (State.grantRevoke g.val))

/-- GRANT_REVOKE_COMPLETE. -/
def State.revokeDone (i : Nat) (s : State) : State :=
  if (s.grants.at' i).revoking then { s with grants := s.grants.put i {} }.grantStat i 0 false else s

def execGrantRevokeComplete (g : Fin 4096) (s : State) : Host.Outcome State Fault Refusal := .next (s.revokeDone g.val)

end Sys2Proof.Machine
end

