-- ==== Sys2Proof/Machine/Bus.lean ====
section
/-!
DEFINITION. Register writes (R31–R33, R37, R40, R48, R213), memory accesses of a pair (R28, R29, R212, R214, R238), the
instructions that access memory (R203) and fences (R41, R42).
-/

namespace Sys2Proof.Machine

/-! ### Command registers: a write is the command its value spells -/

/-- The state after a command, in the form a table of commands needs. -/
def ran (s : State) (o : Host.Outcome State Fault Refusal) : Option State := some (after s o)

/-- An accepted doorbell (R42): one at a time for each master; another master's doorbell is captured with kind 5. -/
def State.doorbell (w : Who) (n kind : Nat) (s : State) : State :=
  s.gateSup w (SYS_FENCE_DB n) (fun s =>
    if w.master.val ≠ n then s.captureErr w (SYS_FENCE_DB n) true 5
    else if s.bit (SYS_FENCE_STAT n) 0 then s.setBit (SYS_FENCE_STAT n) 2 true
    else { s with door := s.door.put n kind }.setReg (SYS_FENCE_STAT n) 1)

def execDoorbellFenceEngine (w : Who) (n : Fin 13) (s : State) : Host.Outcome State Fault Refusal :=
  .next (s.doorbell w n.val 1)
def execDoorbellFencePoint (w : Who) (n : Fin 13) (s : State) : Host.Outcome State Fault Refusal :=
  .next (s.doorbell w n.val 2)
def execDoorbellFenceNet (w : Who) (n : Fin 13) (s : State) : Host.Outcome State Fault Refusal :=
  .next (s.doorbell w n.val 3)
def execDoorbellFenceAll (w : Who) (n : Fin 13) (s : State) : Host.Outcome State Fault Refusal :=
  .next (s.doorbell w n.val 7)

/-- A value that spells no command: checked, then ignored. -/
def State.ignored (w : Who) (a : Nat) (s : State) : State := s.gateSup w a id

/-- Commands of SYS. -/
def State.cmdSys (w : Who) (off v : Nat) (s : State) : Option State :=
  let a := 0x6000000000 + off
  let guarded := bits v 31 16 == 0xC0DE
  match off with
  | 0x208 =>
    if bitAt v 0 then ran s (execXcommitArm w (bitAt v 1) s)
    else if bitAt v 1 then ran s (execXcommitAbort w s) else some (s.ignored w a)
  | 0x14 =>
    if guarded && v % 8 == 1 then ran s (execDone w s)
    else if guarded && v % 8 == 2 then ran s (execWarmReset w s)
    else if guarded && v % 8 == 3 then ran s (execColdReset w s) else some (s.ignored w a)
  | 0x500 => if guarded && v % 8 == 1 then ran s (execSleep w s) else some (s.ignored w a)
  | _ =>
    match strideIn 0x100 8 13 off with
    | some n => some (if [1, 2, 3, 7].contains (v % 8) then s.doorbell w n (v % 8)
        else s.gateSup w a (fun s => if w.master.val ≠ n then s.captureErr w a true 5 else s))
    | none => match strideIn 0x400 0x20 2 off with
      | some k => some (if v % 4 = 0 then s.ignored w a else s.gateSup w a (State.xspiStart k (v % 4)))
      | none => none

/-- Commands of TIME and CEN. -/
def State.cmdTime (w : Who) (b off v : Nat) (s : State) : Option State :=
  if b = 1 then
    if off = 0x1C then
      match v % 8 with
      | 1 => ran s (execSet w s)
      | 2 => ran s (execStep w s)
      | 3 => ran s (execSeed w s)
      | 4 => ran s (execLock w s)
      | 5 => ran s (execUnlock w s)
      | _ => some (s.ignored w TIME_CMD)
    else (strideIn 0x400 0x20 17 off).map (fun n => s.gateSup w (TIME_TRIG_CFG n) (State.trigCfg n v))
  else if off = 0x2C then
    some (s.gateSup w CEN_GO (fun s =>
      let s := if bitAt v 2 then s.censusAbort else s
      let s := if bitAt v 0 then s.censusArm else s
      if bitAt v 1 then s.censusFireNow else s))
  else none

/-- Commands of XEC. -/
def State.cmdXec (w : Who) (off v : Nat) (s : State) : Option State :=
  let a := 0x6000700000 + off
  if off = 0x21010 then
    match bits v 14 12 with
    | 1 => some (s.grantCmd w (State.grantCreate (v % 4096)))
    | 2 => some (s.grantCmd w (State.grantRevoke (v % 4096)))
    | _ => some (s.ignored w a)
  else match strideIn 0x1004 0x40 12 off with
    | some p => match v % 8 with
      | 1 => ran s (execReadmit w (Fin.ofNat 12 p) s)
      | 2 => ran s (execActivate w (Fin.ofNat 12 p) s)
      | 3 => ran s (execRelease w (Fin.ofNat 12 p) s)
      | 4 => ran s (execRetest w (Fin.ofNat 12 p) s)
      | _ => some (s.ignored w a)
    | none => match strideIn 0x30000 0x20 256 off with
      | some n => some (s.gateSup w a (State.sliceBind n v))
      | none => match strideIn 0x30008 0x20 256 off with
        | some n =>
          let n := Fin.ofNat 256 n
          match v % 8 with
          | 1 => ran s (execQuiesce w n s)
          | 2 => ran s (execResume w n (bitAt v 10) s)
          | 3 => ran s (execMove w n (Fin.ofNat 16 (bits v 7 4)) (Fin.ofNat 256 (bits v 23 16)) s)
          | 4 => ran s (execSave w n (bitAt v 8) (bitAt v 9) s)
          | 5 => ran s (execRestore w n s)
          | 6 => ran s (execSliceReset w n s)
          | 7 => ran s (execSliceAbort w n s)
          | _ => some (s.ignored w a)
        | none => none

/-- Commands of PTS and PUB. -/
def State.cmdPoint (w : Who) (b off v : Nat) (s : State) : Option State :=
  if b = 8 then
    if off = 0x1014 then ran s (execPortWrite w (BitVec.ofNat 32 v) s)
    else (strideIn 0x20000 0x40 1024 off).map (fun n => s.gateSup w (PTS_SUB_CFG n) (State.subCfg n v))
  else if off = 0x20 then
    if bitAt v 9 then ran s (execPubReqRefresh w (Fin.ofNat 512 v) s) else ran s (execPubReqNewState w (Fin.ofNat 512 v) s)
  else none

/-- Commands of SWC and RED. -/
def State.cmdNet (w : Who) (b off v : Nat) (s : State) : Option State :=
  if b = 12 then
    if off = 0x30 then
      if v % 8 = 1 then ran s (execHandover w s) else if v % 8 = 2 then ran s (execAbandon w s) else some (s.ignored w RED_CMD)
    else none
  else if off = 0x50 then
    let i := Fin.ofNat 16384 v
    match bits v 16 14 with
    | 1 => ran s (execTblWrite w i s)
    | 2 => ran s (execTblInvalidate w i s)
    | 3 => ran s (execTblRead w i s)
    | 4 => ran s (execTblFence w s)
    | _ => some (s.ignored w SWC_TBL_CMD)
  else match strideIn 0x51010 0x20 16 off with
    | some r => ran s (execTxRingKick w (Fin.ofNat 16 r) s)
    | none => none

/-- Commands of TAE and RGE. -/
def State.cmdRec (w : Who) (b off v : Nat) (s : State) : Option State :=
  if b = 14 then
    (strideIn 0x10024 0x2000 8 off).map (fun r =>
      let r := Fin.ofNat 8 r
      match v % 8 with
      | 1 => after s (execTaeArm w r s)
      | 2 => after s (execTaeDisarm w r s)
      | 3 => after s (execTaeTrigger w r s)
      | 4 => after s (execTaeFree w r (BitVec.ofNat 8 (bits v 15 8)) s)
      | _ => s.gate w (TAE_REC_CMD r) true (s.mayRec w r) 9 (1280 * r.val) .wr id)
  else
    (strideIn 0x10068 0x100 32 off).map (fun l =>
      let l := Fin.ofNat 32 l
      match v % 4 with
      | 1 => after s (execLoopOpen w l s)
      | 2 => after s (execLoopClose w l s)
      | 3 => after s (execStopRamp w l s)
      | _ => s.gateGrant w (RGE_LP_CMD l) 10 l .use id)

/-- Commands of LGE. -/
def State.cmdLge (w : Who) (off v : Nat) (s : State) : Option State :=
  match strideIn 0x10010 0x100 16 off with
  | some p =>
    let p := Fin.ofNat 16 p
    match v % 16 with
    | 1 => ran s (execProgramLoad w p s)
    | 2 => ran s (execStartCold w p s)
    | 3 => ran s (execStartWarm w p s)
    | 4 => ran s (execProgramStop w p s)
    | 5 => ran s (execProgramHold w p s)
    | 6 => ran s (execProgramResume w p s)
    | 7 => ran s (execApply w p (BitVec.ofNat 5 (bits v 12 8)) s)
    | 8 => ran s (execProgramUnload w p s)
    | _ => some (s.gateGrant w (LGE_PG_CMD p) 11 p .use id)
  | none =>
    if 0x20000 ≤ off ∧ off < 0x24000 then
      let p := (off - 0x20000) / 0x400
      let c := (off - 0x20000) % 0x400
      if c < 0x200 then
        ran s (execForceWrite w (Fin.ofNat 16 p) (Fin.ofNat 64 (c / 8)) (c % 8 == 4) (BitVec.ofNat 32 v) s)
      else none
    else none

/-- Commands of CAN. The head is in transmission as `CAN_TXQ_STAT` shows it. -/
def State.cmdCan (w : Who) (off v : Nat) (s : State) : Option State :=
  if 0x20000 ≤ off then none
  else
    let o := off / 0x10000
    let f := Fin.ofNat 2 o
    match off % 0x10000 with
    | 0x38 =>
      match v % 4 with
      | 1 => ran s (execEnqueue w f s)
      | 2 => ran s (execWithdraw w f (s.bit (CAN_TXQ_STAT o) 6) s)
      | _ => some (s.gateGrant w (CAN_TXQ_CMD o) 14 (128 * o + 66) .use id)
    | 0x4C => ran s (execFifoPop w f s)
    | 0x54 => ran s (execTrumpPop w f s)
    | _ => none

/-- Commands of KEY, TMP, LED, BKD and GRD. -/
def State.cmdSafe (w : Who) (b off v : Nat) (s : State) : Option State :=
  match b with
  | 18 =>
    if off = 0x1000 then some (s.keyCommand w v)
    else if off = 0x24 then if bitAt v 0 then ran s (execDebugUnlock w s) else some (s.ignored w KEY_DBG_CMD)
    else match strideIn 0x10000 0x20 64 off with
      | some k => ran s (execSlotAttrWrite w (Fin.ofNat 64 k) false (BitVec.ofNat 32 v) s)
      | none => match strideIn 0x10004 0x20 64 off with
        | some k => ran s (execSlotAttrWrite w (Fin.ofNat 64 k) true (BitVec.ofNat 32 v) s)
        | none => none
  | 19 => if off = 0x24 then if bitAt v 0 then ran s (execLatchClear w s) else some (s.ignored w TMP_CMD) else none
  | 20 => if off = 0x20 then ran s (execSoftwareRecord w (BitVec.ofNat 32 v) s) else none
  | 21 =>
    if off = 0x28 then some (s.gateSup w BKD_CMD (fun s =>
      let s := if bitAt v 0 then s.rtcSet else s
      if bitAt v 1 then s.pwrOff else s))
    else match strideIn 0x48 0x10 2 off with
      | some i => ran s (execAlarmCtlWrite w (Fin.ofNat 2 i) (BitVec.ofNat 32 v) s)
      | none => none
  | 22 => if off = 0x1C then ran s (execGuardApply w (BitVec.ofNat 32 v) s) else none
  | _ => none

/-- Commits and resets of the staging registers (R34, R35). -/
def State.cmdStage (w : Who) (b off v : Nat) (s : State) : Option State :=
  if hasRwc b = false then none
  else if off = 0x7F000 then
    some (if bitAt v 16 then s.gateSup w (blockBase b + 0x7F000) (State.commitAll w b) else s.commitInstance w b (v % 65536))
  else if off = 0x7F00C ∧ hasReset b then
    some (if bitAt v 16 then s.blkResetAll w b else s.blkResetInstance w b (v % 65536))
  else none

/-- The command a write to a register spells, when the register is a command register. -/
def State.cmdWrite (w : Who) (a v : Nat) (s : State) : Option State :=
  let b := blkOf a
  let off := offOf a
  (s.cmdStage w b off v).or
    (if b = 0 then s.cmdSys w off v
    else if b = 1 ∨ b = 23 then s.cmdTime w b off v
    else if b = 7 then s.cmdXec w off v
    else if b = 8 ∨ b = 9 then s.cmdPoint w b off v
    else if b = 10 ∨ b = 12 then s.cmdNet w b off v
    else if b = 14 ∨ b = 15 then s.cmdRec w b off v
    else if b = 16 then s.cmdLge w off v
    else if b = 17 then s.cmdCan w off v
    else s.cmdSafe w b off v)

/-! ### What a write of a register does besides -/

/-- TIME, XEC and PTS: a trigger channel's start and period are refused while it is enabled (R74), PPS_OUT falls with
`out_en`, tenant 0 stays enabled, watches re-arm, an enabled subscription's settings are refused (R248). -/
def State.putEngine (b off a v : Nat) (s : State) : State :=
  match b with
  | 1 =>
    if off = 0xA0 then (s.setReg a v).when (!bitAt v 31) State.ppsLow
    else match (strideIn 0x404 0x20 17 off).or ((strideIn 0x408 0x20 17 off).or (strideIn 0x40C 0x20 17 off)) with
      | some n => if s.bit (TIME_TRIG_CFG n) 0 then s.setBit (TIME_TRIG_STAT n) 2 true else s.setReg a v
      | none => s.setReg a v
  | 7 =>
    if off = 0x20000 then s.setReg a (setBits v 0 0 1)
    else if off = 0x10 then (s.setReg a v).each (List.range 12) State.dispatch
    else s.setReg a v
  | 8 =>
    match strideIn 0x10000 0x10 4096 off with
    | some k => s.watchCfg k v
    | none =>
      if 0x20000 ≤ off ∧ off < 0x30000 ∧ off % 0x40 ≤ 0x20 then
        let n := (off - 0x20000) / 0x40
        if s.bit (PTS_SUB_CFG n) 31 then s.evt (PTS_SUB_EVT n) 7 else s.setReg a v
      else s.setReg a v
  | _ => s.setReg a v

/-- SWC and MAC. -/
def State.putSwitch (b off a v : Nat) (s : State) : State :=
  if b = 11 then
    if off % 0x10000 = 0x10 then s.macCfg (off / 0x10000) v
    else if off % 0x10000 = 0x28 then s.macEee (off / 0x10000) v
    else s.setReg a v
  else match strideIn 0x10008 0x40 13 off with
    | some p => s.mirrorCfg p v
    | none =>
      if 0x50000 ≤ off ∧ off < 0x50200 ∧ off % 0x20 ≤ 8 then s.ringWrite (SWC_RXR_CFG ((off - 0x50000) / 0x20)) a v
      else if 0x40000 ≤ off ∧ off < 0x40080 ∧ off % 0x20 ≤ 8 then s.hcRingWrite (SWC_HC_CFG ((off - 0x40000) / 0x20)) a v
      else if 0x51000 ≤ off ∧ off < 0x51200 ∧ off % 0x20 ≤ 8 then s.ringWrite (SWC_TXR_CFG ((off - 0x51000) / 0x20)) a v
      else s.setReg a v

/-- RED, TAE, LGE, CAN and TMP. -/
def State.putOther (b off a v : Nat) (s : State) : State :=
  match b with
  | 12 =>
    if off = 0x10 then
      let hold := bitAt v 2
      let s := s.setReg a (setBits v 2 2 (s.fld a 2 2))
      if hold && !s.power.cx then s else s.cxHold hold
    else if off = 0x2C then (s.setReg a v).healthUpdate
    else s.setReg a v
  | 14 => if off = 0x10 then s.taeCtl v else s.setReg a v
  | 16 =>
    match (strideIn 0x10004 0x100 16 off).or (strideIn 0x10008 0x100 16 off) with
    | some p => s.imgWrite p a v
    | none => s.setReg a v
  | 17 =>
    let o := off / 0x10000
    match off % 0x10000 with
    | 0x10 => (if bitAt v 9 then s.canRecover o else s).canCtl o v
    | 0x1C => s.canTiming o a v
    | 0x20 => s.canTiming o a v
    | 0x24 => s.canTiming o a v
    | _ => s.setReg a v
  | 19 => if off = 0x10 then s.setReg a (tamperFloor v (s.rd TMP_FUSE)) else s.setReg a v
  | _ => s.setReg a v

/-- A software-writable register takes the value `v`. -/
def State.putValue (b off a v : Nat) (s : State) : State :=
  if b = 1 ∨ b = 7 ∨ b = 8 then s.putEngine b off a v
  else if b = 10 ∨ b = 11 then s.putSwitch b off a v
  else s.putOther b off a v

/-! ### Field access codes (R15, R31, R37) -/

/-- Ones clear (W1C). The two captures clear as a whole with their `valid` bit (R36). -/
def State.clearOnes (a mask v : Nat) (s : State) : State :=
  if a = SYS_ACC_ERR_INFO then
    if bitAt v 31 then ((s.setReg a 0).setReg SYS_ACC_ERR_ADDR_LO 0).setReg SYS_ACC_ERR_ADDR_HI 0
    else s.when (bitAt v 30) (State.setBit a 30 false)
  else if a = XEC_VIOL_INFO then
    if bitAt v 31 then ((s.setReg a 0).setReg XEC_VIOL_ADDR_LO 0).setReg XEC_VIOL_ADDR_HI 0
    else s.when (bitAt v 30) (State.setBit a 30 false)
  else
    let ones := BitVec.ofNat 32 v &&& BitVec.ofNat 32 mask
    let s := s.setReg a (s.reg a &&& ~~~ones).toNat
    if a = GRD_FAULT then s.guardFaultShown else s

/-- What a write leaves in a register with RW and RWL fields: after start-complete an RWL field keeps its value, and a
write that would change one is captured with kind 4 (R37). -/
def State.writeFields (w : Who) (b off a : Nat) (r : RegRow) (v : Nat) (s : State) : State :=
  let cur := s.reg a
  let new := BitVec.ofNat 32 v
  let lock := if s.complete then BitVec.ofNat 32 (r.rwl) else 0#32
  let wr := BitVec.ofNat 32 r.mask &&& ~~~lock
  let s := if (cur ^^^ new) &&& lock &&& BitVec.ofNat 32 r.mask = 0#32 then s else s.captureErr w a true 4
  s.putValue b off a ((cur &&& ~~~wr) ||| (new &&& wr)).toNat

/-- A receive buffer's word 0 of CAN: controller and buffer. -/
def rxWord (b off : Nat) : Option (Nat × Nat) :=
  let c := off % 0x10000
  if b = 17 ∧ off < 0x20000 ∧ 0x2000 ≤ c ∧ c < 0x3800 ∧ (c - 0x2000) % 0x60 = 0 then some (off / 0x10000, (c - 0x2000) / 0x60)
  else none

/-- A word written to a register that is no command register. -/
def State.putWord (w : Who) (a v : Nat) (s : State) : State :=
  let b := blkOf a
  let off := offOf a
  match rxWord b off with
  | some (o, k) => s.when (bitAt v 31) (State.canClearNew o k)
  | none =>
    match rowAt b off with
    | some r =>
      if banked b off then (if r.acc = .RW then s.setReg (bank w.master a) (v &&& r.mask) else s)
      else match r.acc with
        | .RW => s.writeFields w b off a r v
        | .RWL => s.writeFields w b off a r v
        | .RWC => s.toShadow b off r.mask v
        | .W1C => s.clearOnes a r.mask v
        | _ => s
    | none =>
      if hasRwc b ∧ 0x80000 ≤ off then
        match rowAt b (off % 0x80000) with
        | some r => if r.acc = .RWC then s.toShadow b (off % 0x80000) r.mask v else s
        | none => s
      else s

/-- Both words of a pair. The increment is taken as a whole (R54). -/
def State.putPair (w : Who) (a lo hi : Nat) (s : State) : State :=
  if a = TIME_INCR_LO then s.writeIncr hi lo else (s.putWord w a lo).putWord w (a + 4) hi

/-- A register write passes (R212, R213); else kind, index and right of the violation. -/
def State.mayWrite (s : State) (w : Who) (b off : Nat) : Bool × Nat × Nat × Right :=
  let o := activeOff b off
  let need := fun (k i : Nat) (r : Right) => (s.may w k i r, k, i, r)
  if privileged w ∨ banked b off then (true, 0, 0, .wr)
  else match instUnit b o with
    | some (k, i) =>
      if k = 13 ∨ k = 15 then (false, k, i, .wr)
      else if k = 10 ∧ (o % 0x100 = 0x60 ∨ o % 0x100 = 0x64) then need k i .use
      else if k = 11 ∧ (0x20000 ≤ o ∨ 0x40 ≤ o % 0x100) then need k i .use
      else if (rxWord b o).isSome then need k i .rd
      else need k i .wr
    | none => match recUnit b o with
      | some r => (s.mayRec w r, 9, 1280 * r, .wr)
      | none => (false, 0, blockBase b + off, .wr)

/-- A 32-bit write of a register: a command register's command; the low word of a pair is held for its master, the high
word makes both take effect (R40). -/
def State.write32 (w : Who) (a v : Nat) (s : State) : State :=
  match s.cmdWrite w a v with
  | some t => t
  | none =>
    let b := blkOf a
    let off := offOf a
    let m := w.master.val
    let ok := s.mayWrite w b off
    s.gate w a true ok.1 ok.2.1 ok.2.2.1 ok.2.2.2 (fun s =>
      if isLow b off then { s with writeLatch := s.writeLatch.put (bank m a) (some v) }
      else if isHigh b off then
        let lo := (s.writeLatch.at' (bank m (a - 4))).getD 0
        { s with writeLatch := s.writeLatch.put (bank m (a - 4)) none }.putPair w (a - 4) lo v
      else s.putWord w a v)

/-- A 64-bit write of a pair. A low word its master still holds for the pair is spent; a 64-bit read leaves the master's
read latch (DESIGN CHOICE: R40 states the latches for 32-bit accesses only). -/
def State.write64 (w : Who) (a v : Nat) (s : State) : State :=
  let ok := s.mayWrite w (blkOf a) (offOf a)
  s.gate w a true ok.1 ok.2.1 ok.2.2.1 ok.2.2.2 (fun s =>
    { s with writeLatch := s.writeLatch.put (bank w.master a) none }.putPair w a (v % 2 ^ 32) (v / 2 ^ 32 % 2 ^ 32))

/-- A write of a register. -/
def State.busWrite (w : Who) (a size v : Nat) (s : State) : State :=
  if s.stalled w then s
  else if !isReg a then s.accessErr w a true 1
  else if !sizeOk a size then s.accessErr w a true 2
  else if size = 8 then s.write64 w a v else s.write32 w a (v % 2 ^ 32)

def execLowWordWrite (w : Who) (addr : Nat) (value : Word) (s : State) : Host.Outcome State Fault Refusal :=
  .next (s.busWrite w addr 4 value.toNat)
def execHighWordWrite (w : Who) (addr : Nat) (value : Word) (s : State) : Host.Outcome State Fault Refusal :=
  .next (s.busWrite w addr 4 value.toNat)
def execShadowWrite (w : Who) (addr : Nat) (value : Word) (s : State) : Host.Outcome State Fault Refusal :=
  .next (s.busWrite w addr 4 value.toNat)

/-! ### Memory (R28, R29, R212, R238) -/

/-- Regions of R28 outside the registers: 1 DRAM, 2 sample memory, 3 pair windows, 4 ledger array, 0 reserved. -/
def region (a : Nat) : Nat :=
  if a < 0x200000000 then 1
  else if 0x4000000000 ≤ a ∧ a < 0x4002400000 then 2
  else if 0x4002400000 ≤ a ∧ a < 0x4003000000 then 3
  else if 0x4800000000 ≤ a ∧ a < 0x4801000000 then 4
  else 0

/-- Kind and unit that cover an octet of memory: points and subscriptions under their own kinds (R238). -/
def State.unitAt (s : State) (a : Nat) : Nat × Nat :=
  let pb := s.base PTS_BASE_LO 28
  let sb := s.base PTS_SUB_BASE_LO 22
  match region a with
  | 1 =>
    if pb ≤ a ∧ a < pb + 2 ^ 28 then (4, (a - pb) / 32)
    else if sb ≤ a ∧ a < sb + 0x200000 then (13, (a - sb) / 0x800)
    else if sb + 0x200000 ≤ a ∧ a < sb + 0x204000 then (13, (a - sb - 0x200000) / 16)
    else (1, a / 65536)
  | 2 => (2, (a - 0x4000000000) / 4096)
  | 3 => (3, (a - 0x4002400000) / 4096)
  | _ => (0, a)

/-- The first octet of an access that no grant covers. -/
def State.uncovered (s : State) (w : Who) (a n : Nat) (r : Right) : Option Nat :=
  if privileged w then none
  else ((List.range n).map (a + ·)).find? (fun x => region a == 4 || !s.may w (s.unitAt x).1 (s.unitAt x).2 r)

/-- Where an access ends in an error response (R28, R29): outside one region, or in another pair's window, which is answered
as a reserved region to every slice (DESIGN CHOICE: R29 says that a pair reaches only its own window, not how an access to
another's ends). -/
def badPlace (w : Who) (a n : Nat) : Bool :=
  n == 0 || region a == 0 || region (a + n - 1) != region a
    || (region a == 3 && !((a - 0x4002400000) / 0x100000 == w.master.val && (a + n - 1 - 0x4002400000) / 0x100000 == w.master.val))

/-- A violation of a memory access, with its address or, for points and subscriptions, its index. -/
def State.memViolate (w : Who) (x : Nat) (r : Right) (s : State) : State :=
  let u := s.unitAt x
  s.violate w u.1 (if 4 ≤ u.1 then u.2 else x) r

/-- A read met a poisoned word (R190, R502): a pair's pass is aborted, the debug port gets an open value. -/
def State.poisonRead (w : Who) (s : State) : State :=
  if w.master.val = 12 then (s.okData w (Config.freeValue s.free)).drew
  else s.abortPass w.slice 2 0 w.pc.toNat

/-- A read, write or fetch of `n` octets of memory. The engines alone write sample memory, LED alone the ledger array: a
write by any master is a violation (R28). The debug access port may read the ledger array, as it passes every check without
a grant (DESIGN CHOICE: R28 names slice 0 only). -/
def State.memAccess (w : Who) (a n : Nat) (r : Right) (v : Nat) (s : State) : State :=
  let write := decide (r = .wr)
  if badPlace w a n then s.accessErr w a write 1
  else if s.memOn a = false then s.accessErr w a write 3
  else match s.uncovered w a n r with
    | some x => s.memViolate w x r
    | none =>
      if write then
        if region a = 2 ∨ region a = 4 then s.memViolate w a .wr else (s.keyStore a (bytesLE n v)).ok w
      else if s.poisoned a n then s.poisonRead w
      else s.okData w (s.ld a n)

/-- An access anywhere in the address space. A fetch from a register is a read by slice 0, and a violation of every
other slice. -/
def State.access (w : Who) (a n : Nat) (r : Right) (v : Nat) (s : State) : State :=
  if s.stalled w then s
  else if isReg a then
    match r with
    | .rd => s.busRead w a n
    | .wr => s.busWrite w a n v
    | .use => if privileged w then s.busRead w a n else s.violate w 0 a .use
  else s.memAccess w a n r v

/-- REGISTER_WRITE. -/
def execRegisterWrite (w : Who) (addr size value : Nat) (s : State) : Host.Outcome State Fault Refusal :=
  .next (s.access w addr size .wr value)

/-! ### Instructions of a pass (R203) -/

/-- Pair `p` as a master, for the slice it runs (R211), with an instruction at `pc`. -/
def pairWho (p : Fin 12) (n : Nat) (pc : BitVec 64 := 0) : Who :=
  { master := p.castLE (by decide), slice := Fin.ofNat 256 n, pc := pc }

/-- An instruction of the slice that runs on pair `p`; a pair that runs none issues nothing. -/
def State.issue (p : Fin 12) (pc : BitVec 64) (f : Who → State → State) (s : State) : State :=
  match s.runningOn p with
  | some n => f (pairWho p n pc) s
  | none => s

/-- The physical address of octet `off` of the range at which the translation shows a slice its pair-window grant (R211),
whichever pair hosts it; none outside the grant. -/
def State.windowPhys (s : State) (n off : Nat) : Option Nat :=
  match s.windowGrant n with
  | some (_, g) => if off < g.count * 0x1000 then some (windowAddr g.first + off) else none
  | none => none

/-- PAIR_ACCESS: by pair `p`, for the slice it runs; `virt`: the address is an offset in the slice's window range. Outside
that range the G64 translation raises an exception, whose code is the G64 reference's (R190, cause 5). -/
def State.pairAccess (virt : Bool) (addr size : Nat) (r : Right) (value : Nat) (w : Who) (s : State) : State :=
  if virt then
    if s.stalled w then s
    else match s.windowPhys w.slice addr, s.windowPhys w.slice (addr + size - 1) with
      | some a, some _ => s.access w a size r value
      | _, _ => (s.drew).abortPass w.slice 5 (Config.freeValue s.free % 2 ^ 32) w.pc.toNat
  else s.access w addr size r value

def execPairAccess (p : Fin 12) (pc : BitVec 64) (virt : Bool) (addr size : Nat) (r : Right) (value : Nat) (s : State) :
    Host.Outcome State Fault Refusal :=
  .next (s.issue p pc (State.pairAccess virt addr size r value))

def execLdAcqW (p : Fin 12) (pc : BitVec 64) (addr : Nat) (s : State) : Host.Outcome State Fault Refusal :=
  .next (s.issue p pc (fun w => State.access w addr 4 .rd 0))
def execLdAcqD (p : Fin 12) (pc : BitVec 64) (addr : Nat) (s : State) : Host.Outcome State Fault Refusal :=
  .next (s.issue p pc (fun w => State.access w addr 8 .rd 0))
def execStRelW (p : Fin 12) (pc : BitVec 64) (addr value : Nat) (s : State) : Host.Outcome State Fault Refusal :=
  .next (s.issue p pc (fun w => State.access w addr 4 .wr value))
def execStRelD (p : Fin 12) (pc : BitVec 64) (addr value : Nat) (s : State) : Host.Outcome State Fault Refusal :=
  .next (s.issue p pc (fun w => State.access w addr 8 .wr value))

/-- The instruction form of a fence: the pair issues nothing until it is complete (R41). -/
def State.fence (p : Fin 12) (kind : Nat) (s : State) : State :=
  s.issue p 0 (fun w s => if s.stalled w then s else { s with stall := s.stall.put p.val kind })

def execFenceEngine (p : Fin 12) (s : State) : Host.Outcome State Fault Refusal := .next (s.fence p 1)
def execFencePoint (p : Fin 12) (s : State) : Host.Outcome State Fault Refusal := .next (s.fence p 2)
def execFenceNet (p : Fin 12) (s : State) : Host.Outcome State Fault Refusal := .next (s.fence p 3)
def execFenceAll (p : Fin 12) (s : State) : Host.Outcome State Fault Refusal := .next (s.fence p 7)

/-- FENCE_COMPLETE: every earlier access of the class has been accepted, for commands take effect one by one. -/
def State.fenceComplete (m : Nat) (doorbell : Bool) (s : State) : State :=
  if doorbell then
    if s.door.at' m = 0 then s
    else ({ s with door := s.door.put m 0 }.setBit (SYS_FENCE_STAT m) 0 false).setBit (SYS_FENCE_STAT m) 1 true
  else { s with stall := s.stall.put m 0 }

def execFenceComplete (m : Fin 13) (doorbell : Bool) (s : State) : Host.Outcome State Fault Refusal :=
  .next (s.fenceComplete m.val doorbell)

/-- The word a MARK.WAIT looks at. -/
def State.markWord (s : State) (p a : Nat) : Nat := if isReg a then s.regVal p a else s.ld a 4

/-- A MARK.WAIT wakes: its word differs in bits 31 to 3, or the pass deadline has passed (R203). -/
def State.markWake (p n : Nat) (s : State) : State :=
  match (s.sl n).waitAt with
  | none => s
  | some (a, v) =>
    let x := s.markWord p a
    if x / 8 ≠ v / 8 then
      (s.modSl n (fun sl => { sl with waitAt := none, timeout := false })).answer p { data := x }
    else match (s.sl n).pass with
      | some ps =>
        if s.passDue ps then
          (s.modSl n (fun sl => { sl with waitAt := none, timeout := true })).answer p { data := x }
        else s
      | none => s

def execMarkWaitWake (p : Fin 12) (s : State) : Host.Outcome State Fault Refusal :=
  .next (match s.runningOn p.val with | some n => s.markWake p.val n | none => s)

/-- MARK.WAIT: a load of the word that stands until it differs from `v` in bits 31 to 3 (R203). -/
def State.markWait (p : Fin 12) (pc : BitVec 64) (a v : Nat) (s : State) : State :=
  s.issue p pc (fun w s =>
    if s.stalled w then s
    else
      let n := w.slice.val
      let t := s.access w a 4 .rd 0
      let r := t.reply.at' p.val
      if r.err || r.viol || t.runningOn p ≠ some n then t
      else (t.modSl n (fun sl => { sl with waitAt := some (a, v), timeout := false })).markWake p n)

def execMarkWait (p : Fin 12) (pc : BitVec 64) (addr : Nat) (value : Word) (s : State) : Host.Outcome State Fault Refusal :=
  .next (s.markWait p pc addr value.toNat)

end Sys2Proof.Machine
end

