-- ==== Sys2Proof/Machine/Boot.lean ====
section
/-!
DEFINITION. The bolt and the starts that read it: verification, choice of the copy, sections, cold, warm and recovery
starts, tamper hold (R483–R495, R497).
-/

namespace Sys2Proof.Machine

/-- What a start finds outside the model: the flash contents of copies A and B (none: a read error), whether the first and
the second helper copy regenerate a root that fits its check value (`rootOk`, `second`), DBG_EN, and whether each wait of a REG section whose register does not yet hold the value was met
in time. -/
structure StartIn where
  imgA   : Option (List Byte)
  imgB   : Option (List Byte)
  rootOk : Bool
  dbgEn  : Bool
  second : Bool
  met    : List Bool

/-- Flash contents of a copy. -/
def StartIn.image (i : StartIn) (k : Nat) : Option (List Byte) := if k = 0 then i.imgA else i.imgB

/-! ### The image (R484, R485) -/

/-- A directory entry. -/
structure BoltSec where
  idx  : Nat
  type : Nat
  phase : Nat
  recov : Bool
  off  : Nat
  len  : Nat
  crc  : Nat

def imgLen (img : List Byte) : Nat := wordLE img 8
def imgSecver (img : List Byte) : Nat := wordLE img 0xC
def imgBuild (img : List Byte) : Nat := wordLE img 0x10
def imgSig (img : List Byte) : Nat := wordLE img 0x18
def imgHash (img : List Byte) : List Byte := (img.drop 0x20).take 48
def imgDigest (img : List Byte) : List Byte := (img.drop 0x50).take 48

/-- Octets `[lo, lo + n)` of an image. -/
def slice (img : List Byte) (lo n : Nat) : List Byte := (img.drop lo).take n

/-- The directory. -/
def imgSections (img : List Byte) : List BoltSec :=
  (List.range (wordLE img 0x14 % 256)).map (fun i =>
    let a := 0x100 + 16 * i
    let w := wordLE img a
    { idx := i, type := bits w 7 0, phase := bits w 11 8, recov := bitAt w 13
      off := wordLE img (a + 4), len := wordLE img (a + 8), crc := wordLE img (a + 12) })

/-- Sections in the order in which they are applied: ascending phase, then directory order (R486). -/
def applyOrder (l : List BoltSec) : List BoltSec := (List.range 16).flatMap (fun p => l.filter (fun x => x.phase == p))

/-- The header has the form of R484. -/
def imgForm (img : List Byte) : Bool :=
  wordLE img 0 == 0x544C4F42 && wordLE img 4 % 65536 == 1 && imgLen img % 64 == 0 && decide (imgLen img ≤ 2 ^ 26)
    && wordLE img 0x14 % 256 != 0 && imgSig img % 64 == 0 && decide (0x100 + 16 * (wordLE img 0x14 % 256) ≤ imgSig img)

/-! ### Verification (R487) -/

/-- A fused anchor digest from word `k` on. -/
def anchorAt (k : Nat) : List Byte := (List.range 12).flatMap (fun i => bytesLE 4 (Config.anchor (k + i)))

/-- Fuse `mldsa_req`. -/
def mldsaReq : Bool := Config.anchor 24 % 2 == 1

def ecdsaKey (img : List Byte) : List Byte := slice img (imgSig img) 97
def mldsaKey (img : List Byte) : List Byte := slice img (imgSig img + 0xC8) 1952

/-- Both keys have their anchors. -/
def anchorsOk (img : List Byte) : Bool := sha384 (ecdsaKey img) == anchorAt 0 && sha384 (mldsaKey img) == anchorAt 12

/-- The signatures over the header verify. -/
def signedOk (img : List Byte) : Bool :=
  let hdr := img.take 256
  Config.ecdsaVerify 5 (ecdsaKey img) (sha384 hdr) (slice img (imgSig img + 0x64) 96)
    && ((!bitAt (wordLE img 0x14) 8 && !mldsaReq) || Config.mldsaVerify (mldsaKey img) hdr (slice img (imgSig img + 0x868) 3309))

/-- SHA-384 over octets 0x100 to the signature block. -/
def hashOf (img : List Byte) : List Byte := sha384 (slice img 0x100 (imgSig img - 0x100))

/-- `fail_cause` of the header: form, anchors and signatures (1), security version (4), or 0. -/
def State.headerCause (s : State) (img : List Byte) : Nat :=
  if imgForm img = false ∨ anchorsOk img = false ∨ signedOk img = false then 1
  else if imgSecver img < s.rd SYS_SECVER then 4 else 0

/-- `fail_cause` and `fail_sec` of a copy: (0, 0) when it verifies. -/
def State.verifyCopy (s : State) (c : Option (List Byte)) : Nat × Nat :=
  match c with
  | none => (6, 0)
  | some img =>
    let h := s.headerCause img
    if h ≠ 0 then (h, 0)
    else if img.length < imgLen img then (6, 0)
    else if hashOf img ≠ imgHash img then (2, 0)
    else match (imgSections img).find? (fun x => crc32 (slice img x.off x.len) != x.crc) with
      | some x => (3, x.idx)
      | none => (0, 0)

/-! ### Sections (R485, R486) -/

/-- A start under way: the state, the results of waits not used yet, and whether the present section failed. -/
structure Apply where
  s   : State
  met : List Bool
  bad : Bool := false

/-- Slice 0 as the sender of the sections' writes. -/
def sectionWho : Who := { master := 0, slice := 0, pc := 0 }

/-- A register write of a section; no master waits for its answer. -/
def State.sectionWrite (a v : Nat) (s : State) : State := { s.busWrite sectionWho a 4 v with reply := s.reply }

/-- Change the state of a start. -/
def Apply.on (x : Apply) (f : State → State) : Apply := { x with s := f x.s }

/-- One entry of a REG section, or with `guard` of a GUARD section. -/
def applyReg (guard : Bool) (x : Apply) (e : List Byte) : Apply :=
  let w := wordLE e 4
  let a := wordLE e 0 + 2 ^ 32 * bits w 7 0
  let v := wordLE e 8
  let m := wordLE e 12
  let cur := x.s.regVal 0 a
  if x.bad then x
  else if !isReg a || (guard && blkOf a != 22) then { x with bad := true }
  else match bits w 9 8 with
    | 0 => x.on (State.sectionWrite a v)
    | 1 => x.on (State.sectionWrite a ((cur &&& (2 ^ 32 - 1 - m)) ||| (v &&& m)))
    | 2 =>
      if cur &&& m = v then x
      else match x.met with
        | true :: rest => { x with met := rest }
        | _ :: rest => { x with met := rest, bad := true }
        | [] => { x with bad := true }
    | _ => { x with bad := true }

/-- A retained region covers `[a, a + n)` wholly (R485, R494). -/
def retains (l : List (Nat × Nat)) (a n : Nat) : Bool := l.any (fun r => decide (r.1 ≤ a ∧ a + n ≤ r.1 + r.2))

/-- The regions of the RETAIN sections: address and length in octets. -/
def retained (img : List Byte) : List (Nat × Nat) :=
  ((imgSections img).filter (fun x => x.type == 6)).flatMap (fun x =>
    (chunks 16 (min 64 (x.len / 16)) (slice img x.off x.len)).map (fun e =>
      (wordLE e 0 + 2 ^ 32 * (wordLE e 4 % 256), wordLE e 8 * 65536)))

/-- A LOAD section; `keep` lists the regions a warm start leaves as they are. -/
def applyLoad (keep : List (Nat × Nat)) (d : List Byte) (x : Apply) : Apply :=
  let a := wordLE d 0 + 2 ^ 32 * (wordLE d 4 % 256)
  let d := d.drop 8
  let e := a + d.length
  let inDram := decide (e ≤ boltBase)
  let onSram := decide (0x4000000000 ≤ a ∧ e ≤ 0x4003000000)
  if !inDram && !onSram then { x with bad := true }
  else if retains keep a d.length then x else x.on (State.dma a d)

/-- One entry of a TABLE section. -/
def applyTable (x : Apply) (e : List Byte) : Apply :=
  if x.bad then x else
  let s := x.s.each (List.range 8) (fun i s => s.setReg (SWC_TBL_ST i) (wordLE e (4 + 4 * i)))
  let s := s.tblWrite (wordLE e 0 % 16384)
  { x with s := s, bad := s.fld SWC_TBL_STAT 3 1 != 0 }

/-- The record in use of slot `k` holds the identifier. -/
def State.recHas (s : State) (k id : Nat) : Bool :=
  match s.recInUse k with
  | some r => wordLE (s.secure.at' (2 * k + r)) 4 == id
  | none => false

/-- A KEYS command: attributes and identifier are written, then the operation runs on the octets at `a` in the bolt
copy; the first `p` of its `n` octets are its parameter block. -/
def State.keysCommand (k op aux attr id a n : Nat) (s : State) : State × Bool :=
  let s := (s.slotAttrWrite k true id).slotAttrWrite k false attr
  let p := if op = 2 then 28 else if op = 4 then 16 else 0
  let o : KeyOp := { slice := 0, cmd := keyWord op k aux false, len := n - p, src := a + p, dst := 0, par := a }
  if op < 2 ∨ 4 < op ∨ s.opRefusal sectionWho op k aux ≠ 0 then (s, true)
  else
    let s := { s with keyOps := s.keyOps.put 0 (some o) }.keyComplete 0
    let bad := s.fld (bank 0 KEY_OP_STAT) 4 1 != 0
    (s.setReg (bank 0 KEY_OP_STAT) 0, bad)

/-- The entries of a KEYS section from octet `off` of the bolt copy on; `fuel` bounds their number. -/
def applyKeys : Nat → Nat → List Byte → Apply → Apply
  | 0, _, _, x => x
  | fuel + 1, off, d, x =>
    if x.bad ∨ d.length < 64 then x
    else
      let k := wordLE d 0 % 64
      let w := wordLE d 4
      let n := wordLE d 16
      let x :=
        if bitAt (wordLE d 8) 27 ∧ x.s.recHas k (wordLE d 12) then x
        else
          let r := x.s.keysCommand k (bits w 3 0) (bits w 21 16) (wordLE d 8) (wordLE d 12) (boltBase + off + 64) n
          { x with s := r.1, bad := r.2 }
      applyKeys fuel (off + 64 + n) (d.drop (64 + n)) x

/-- One section. A GUARD section stands in phase 0, every other one in a later phase. -/
def applySection (keep : List (Nat × Nat)) (img : List Byte) (sec : BoltSec) (x : Apply) : Apply :=
  let d := slice img sec.off sec.len
  if (sec.type == 5) != (sec.phase == 0) then { x with bad := true }
  else match sec.type with
    | 1 => (chunks 16 (sec.len / 16) d).foldl (applyReg false) x
    | 2 => applyLoad keep d x
    | 3 => (chunks 48 (sec.len / 48) d).foldl applyTable x
    | 4 => applyKeys (sec.len / 64) sec.off d x
    | 5 =>
      let y := (chunks 16 (sec.len / 16) d).foldl (applyReg true) x
      if y.bad then y else y.on State.guardApply
    | 6 => x
    | _ => { x with bad := true }

/-- Sections in order, up to the first that fails: its index is answered. -/
def applyAll (keep : List (Nat × Nat)) (img : List Byte) : List BoltSec → Apply → Apply × Option Nat
  | [], x => (x, none)
  | sec :: rest, x =>
    let y := applySection keep img sec x
    if y.bad then ({ y with bad := false }, some sec.idx) else applyAll keep img rest y

/-! ### Choosing the copy (R489) -/

/-- The copies to try, in order, for a start-attempt count. -/
def State.copyOrder (s : State) (c : Nat) : List Nat :=
  let strap := s.fld SYS_STRAP 6 5
  if 2 ≤ strap then (if c < 3 then [strap - 2] else [])
  else
    let first := if s.bit SYS_BOOT 0 then s.fld SYS_BOOT 1 1 else strap
    if c < 3 then [first, 1 - first] else if c < 6 then [1 - first, first] else []

/-- A copy failed: its cause and section are shown. -/
def State.copyFailed (cause sec : Nat) (s : State) : State :=
  ((s.setFld SYS_START_STAT 31 28 cause).setFld SYS_START_STAT 27 20 sec).setBit SYS_START_STAT 4 true

/-- What of an accepted header the module keeps (R484, R487): the platform, the digest, the security version and the two
keys in slots 62 and 63. -/
def State.takeHeader (k : Nat) (img : List Byte) (s : State) : State :=
  let s := (s.setFld SYS_START_STAT 3 3 k).setReg RED_PLAT_ID (wordLE img 0x1C)
  let s := s.modBoot (fun b => { b with digest := imgDigest img, secver := imgSecver img })
  let s := (s.setReg (KEY_SLOT_ATTR 62) 0x1005).slotLoad 62 (s.rd (KEY_SLOT_GEN 62) + 1) (ecdsaKey img)
  (s.setReg (KEY_SLOT_ATTR 63) 0x1006).slotLoad 63 (s.rd (KEY_SLOT_GEN 63) + 1) (sha384 (mldsaKey img))

/-- The image is copied to DRAM, and every word outside the copy is zero (R488, R492). -/
def State.takeImage (img : List Byte) (s : State) : State := (s.clearMem 0 0x200000000).wrBytes boltBase (img.take (imgLen img))

/-- The copies of a list are tried in order: true when one verified and all its sections were applied. -/
def tryCopies (i : StartIn) : List Nat → Apply → Apply × Bool
  | [], x => (x, false)
  | k :: rest, x =>
    let img := (i.image k).getD []
    let r := x.s.verifyCopy (i.image k)
    if r.1 ≠ 0 then tryCopies i rest (x.on (State.copyFailed r.1 r.2))
    else match applyAll [] img (applyOrder (imgSections img)) (x.on (fun s => (s.takeHeader k img).takeImage img)) with
      | (y, none) => (y, true)
      | (y, some sec) => tryCopies i rest (y.on (State.copyFailed 5 sec))

/-! ### Steps common to every start -/

/-- Epochs of the ledger's mandate records (R326): gains and releases of RED. -/
def State.ledgerEpoch (s : State) : Nat :=
  (s.led.slots.map (fun e =>
    let a := ledBase + 64 * e.1
    let w := s.ld (a + 28) 4
    if s.ld (a + 5) 1 = 12 ∧ (w = RED_EVT % 0x100000 ∨ w = RED_EVT % 0x100000 + 2 ^ 24) then s.ld (a + 32) 4 else 0)).foldl max 0

/-- Tamper hold (R480): CX off, everything else as the reset left it. -/
def State.startHold (s : State) : State :=
  let s := (s.setBit SYS_START_STAT 6 true).setBit TMP_STAT 8 true
  (s.cxFall).modBoot (fun b => { b with due := 0 })

/-- Steps 1 to 3 of a start that is not held: the count, the type, the time, the epoch and the root. -/
def State.startFirst (i : StartIn) (warm : Bool) (deny : Nat) (s : State) : State :=
  let s := s.each (List.range 2) (fun k s => (s.drive (.xspiResetN k) false).drive (.xspiResetN k) true)
  let s := if deny = 0 then s else
    { s with regs := s.regs.filter (fun e => survives true e.1 || !isCounter e.1) }
  let s := (s.setFld SYS_START_STAT 19 16 (s.fld BKD_START 3 0)).incFld BKD_START 3 0
  let s := (s.setFld SYS_START_STAT 11 8 deny).setBit SYS_START_STAT 7 (deny != 0)
  let s := if warm then ((s.setFld SYS_START_STAT 2 0 1).incFld SYS_STARTS 31 16).setBit SYS_PF_STAT 1 true
    else s.incFld SYS_STARTS 15 0
  let s := if s.boot.seedDue && s.bit TIME_CTL 0 && s.rtcValid then s.timeSeed else s
  let s := s.modBoot (fun b => { b with seedDue := false })
  let s := s.setReg RED_EPOCH (max (match s.newestEpoch with | some c => c.epoch | none => 0) s.ledgerEpoch)
  (s.tamperAtStart).keyStart i.rootOk i.second i.dbgEn

/-- The last step the module performs: `force_stream` set, slice 0 at its entry (R368, R492, R495). -/
def State.startLast (s : State) : State :=
  let s := s.taeCtl (setBits (s.rd TAE_CTL) 1 1 1)
  let s := { s with power := { s.power with cxConf := true } }
  ((s.slice0Start).modBoot (fun b => { b with due := 0 })).healthUpdate

/-! ### Recovery (R495) -/

/-- The newest copy that verifies: the higher build number. -/
def State.newestCopy (i : StartIn) (s : State) : Option (Nat × List Byte) :=
  let ok := (List.range 2).filterMap (fun k =>
    if (s.verifyCopy (i.image k)).1 = 0 then (i.image k).map (fun img => (k, img)) else none)
  match ok with
  | [a, b] => some (if imgBuild a.2 < imgBuild b.2 then b else a)
  | [a] => some a
  | _ => none

/-- A start becomes a recovery start. -/
def State.recoveryStart (i : StartIn) (x : Apply) : State :=
  let s := x.s.each (List.range 2) (fun k s =>
    let r := s.verifyCopy (i.image k)
    if r.1 = 0 then s else s.copyFailed r.1 r.2)
  let s := ((s.setFld SYS_START_STAT 2 0 2).setBit SYS_BOOT 0 false).modBoot (fun b => { b with recovery := true })
  let s := match s.newestCopy i with
    | none => s.clearMem 0 boltBase
    | some (k, img) =>
      let l := (applyOrder (imgSections img)).filter (fun (x : BoltSec) => x.recov || x.type == 5)
      (applyAll [] img l { s := (s.takeHeader k img).takeImage img, met := x.met }).1.s
  let s := s.each (List.range 9) (fun p s => s.macCfg p (setBits (s.rd (MAC_CFG p)) 0 0 (b2n (p == 8))))
  ((s.each (List.range 2) (fun k s => s.setBit (SYS_XSPI_STAT k) 2 true)).setMember 0).startLast

/-! ### Cold and warm starts (R492–R494) -/

/-- The copies of a list, then recovery. -/
def State.startCopies (i : StartIn) (l : List Nat) (met : List Bool) (s : State) : State :=
  match tryCopies i l { s := s, met := met } with
  | (x, true) => x.s.startLast
  | (x, false) => State.recoveryStart i x

/-- The token is valid (reason 1 of R493). -/
def State.tokenOk (s : State) : Bool :=
  let l := (List.range 4).map (fun k => s.rd (BKD_WTOKEN k))
  l.getD 0 0 == 0x574D5354 && crc32 ((l.take 3).flatMap (bytesLE 4)) == l.getD 3 0

/-- The bolt copy in DRAM. -/
def State.dramImage (s : State) (n : Nat) : List Byte := s.rdBytes boltBase n

/-- The first condition of a warm start that fails, 0 when none does (R493). -/
def State.warmDeny (i : StartIn) (s : State) : Nat :=
  let c := s.fld BKD_START 3 0
  if s.tokenOk = false then 1
  else if s.boot.kept = false then 2
  else if 3 ≤ c ∨ s.bit SYS_BOOT 0 then 3
  else match (s.copyOrder c).head?.bind i.image with
    | none => 4
    | some img =>
      if s.headerCause img = 0 ∧ imgHash img = hashOf (s.dramImage (imgLen img))
          ∧ wordLE img 0x20 = s.rd (BKD_WTOKEN 1) then 0
      else 4

/-- A warm start from the bolt copy in DRAM; when a section fails, the other copy is tried as in a cold start. -/
def State.warmSections (i : StartIn) (c : Nat) (s : State) : State :=
  let order := s.copyOrder c
  let k := order.headD 0
  let img := s.dramImage (imgLen ((i.image k).getD []))
  match applyAll (retained img) img (applyOrder (imgSections img)) { s := s.takeHeader k img, met := i.met } with
  | (x, none) => x.s.startLast
  | (x, some sec) =>
    ((x.s.copyFailed 5 sec).setFld SYS_START_STAT 2 0 0).startCopies i (order.drop 1) x.met

/-- A start: the token is cleared, tamper is looked at, then the copies. -/
def State.start (i : StartIn) (due : Nat) (s : State) : State :=
  if s.power.nx = false ∨ s.boot.due ≠ due then s else
  let deny := if due = 2 then s.warmDeny i else 0
  let warm : Bool := due == 2 && deny == 0
  let c := s.fld BKD_START 3 0
  let s := s.putToken []
  if s.tamperHolds then s.startHold
  else
    let order := s.copyOrder c
    let s := s.startFirst i warm deny
    if warm then s.warmSections i c else s.startCopies i order i.met

def execColdStart (imgA imgB : Option (List Byte)) (rootOk dbgEn second : Bool) (met : List Bool) (s : State) :
    Host.Outcome State Fault Refusal :=
  .next (s.start ⟨imgA, imgB, rootOk, dbgEn, second, met⟩ 1)

def execWarmStart (imgA imgB : Option (List Byte)) (rootOk dbgEn second : Bool) (met : List Bool) (s : State) :
    Host.Outcome State Fault Refusal :=
  .next (s.start ⟨imgA, imgB, rootOk, dbgEn, second, met⟩ 2)

end Sys2Proof.Machine
end

