-- ==== Sys2Proof/Machine/Takeover.lean ====
section
/-!
DEFINITION. What brings the compute die into service at a takeover or a handback (R335, R337): its blocks are configured from
the bolt copy in DRAM.
-/

namespace Sys2Proof.Machine

/-- The entries of a REG section that set a register of the compute die. (DESIGN CHOICE: waits are left out; at a start
the bolt's waits stand between steps of the start.) -/
def cxEntries (d : List Byte) : List (List Byte) :=
  (chunks 16 (d.length / 16) d).filter (fun e =>
    let w := wordLE e 4
    regOf cxBlocks (wordLE e 0 + 2 ^ 32 * bits w 7 0) && decide (bits w 9 8 < 2))

/-- What a section of the bolt copy gives the compute die: its registers, and loads into its memory. -/
def cxSection (img : List Byte) (sec : BoltSec) (x : Apply) : Apply :=
  let d := slice img sec.off sec.len
  match sec.type with
  | 1 => (cxEntries d).foldl (applyReg false) x
  | 2 => if onDie (wordLE d 0 + 2 ^ 32 * (wordLE d 4 % 256)) then applyLoad [] d x else x
  | _ => x

/-- What the bolt copy gives the compute die, in the order of a start. -/
def cxApply (img : List Byte) (x : Apply) : Apply :=
  (applyOrder (imgSections img)).foldl (fun x sec => cxSection img sec { x with bad := false }) x

/-- Engines and slices take their configuration from the bolt copy. (DESIGN CHOICE: start-lock registers of the compute die
take the bolt's values here as at a start.) -/
def State.cxConfigure (s : State) : State :=
  let img := s.dramImage (min (s.ld (boltBase + 8) 4) (2 ^ 26))
  if imgForm img = false then s else
  let t := (cxApply img { s := { s with complete := false }, met := [] }).s
  { t with complete := s.complete, power := { t.power with cxConf := true } }

/-- After a command that brings the compute die into service: from off, or for a takeover from maintenance (R340), it is
configured unless the bolt has configured it since it was powered. -/
def State.configured (s t : State) : State :=
  if t.power.cxEn && !t.power.cxConf && (!s.power.cxEn || (t.member == 2 && s.member != 2)) then t.cxConfigure else t

/-- VERDICT at a member; a takeover powers and configures the compute die (R329, R335). -/
def execVerdict (m : List Byte) (s : State) : Host.Outcome State Fault Refusal :=
  .next (s.configured (s.lzIn portAL 0x04 m State.verdictIn))

/-- HANDBACK_PLAN at the target (R337). -/
def execHandbackPlan (m : List Byte) (s : State) : Host.Outcome State Fault Refusal :=
  .next (s.configured (s.lzIn portML 0x0A m State.handbackPlanIn))

/-- REVERT_HOLD_COMPLETE (R336, R337). -/
def execRevertHoldComplete (s : State) : Host.Outcome State Fault Refusal := .next (s.configured s.revertDone)

end Sys2Proof.Machine
end

