-- ==== Sys2Proof/Machine/Dispatch.lean ====
section
/-!
DEFINITION. One arm per command: the direct call of its meaning.
-/

namespace Sys2Proof.Machine

/-- The effect of a command on everything but the queue. -/
def exec (i : Instr) (s : State) : Host.Outcome State Fault Refusal :=
  match i with
  | .registerWrite w addr size value => Sys2Proof.Machine.execRegisterWrite w addr size value s
  | .pairAccess p pc virt addr size r value => Sys2Proof.Machine.execPairAccess p pc virt addr size r value s
  | .lowWordRead w addr => Sys2Proof.Machine.execLowWordRead w addr s
  | .highWordRead w addr => Sys2Proof.Machine.execHighWordRead w addr s
  | .lowWordWrite w addr value => Sys2Proof.Machine.execLowWordWrite w addr value s
  | .highWordWrite w addr value => Sys2Proof.Machine.execHighWordWrite w addr value s
  | .shadowWrite w addr value => Sys2Proof.Machine.execShadowWrite w addr value s
  | .commitInstance w b inst => Sys2Proof.Machine.execCommitInstance w b inst s
  | .commitAll w b => Sys2Proof.Machine.execCommitAll w b s
  | .commitActivation b inst => Sys2Proof.Machine.execCommitActivation b inst s
  | .blkResetInstance w b inst => Sys2Proof.Machine.execBlkResetInstance w b inst s
  | .blkResetAll w b => Sys2Proof.Machine.execBlkResetAll w b s
  | .doorbellFenceEngine w n => Sys2Proof.Machine.execDoorbellFenceEngine w n s
  | .doorbellFencePoint w n => Sys2Proof.Machine.execDoorbellFencePoint w n s
  | .doorbellFenceNet w n => Sys2Proof.Machine.execDoorbellFenceNet w n s
  | .doorbellFenceAll w n => Sys2Proof.Machine.execDoorbellFenceAll w n s
  | .fenceComplete m doorbell => Sys2Proof.Machine.execFenceComplete m doorbell s
  | .xcommitArm w abort => Sys2Proof.Machine.execXcommitArm w abort s
  | .xcommitAbort w => Sys2Proof.Machine.execXcommitAbort w s
  | .xcommitActivation => Sys2Proof.Machine.execXcommitActivation s
  | .xcommitTimeout => Sys2Proof.Machine.execXcommitTimeout s
  | .incrementWrite w hi lo => Sys2Proof.Machine.execIncrementWrite w hi lo s
  | .set w => Sys2Proof.Machine.execSet w s
  | .step w => Sys2Proof.Machine.execStep w s
  | .seed w => Sys2Proof.Machine.execSeed w s
  | .lock w => Sys2Proof.Machine.execLock w s
  | .unlock w => Sys2Proof.Machine.execUnlock w s
  | .ptpSyncReceive port domain clockId portNumber seqId => Sys2Proof.Machine.execPtpSyncReceive port domain clockId portNumber seqId s
  | .masterLost => Sys2Proof.Machine.execMasterLost s
  | .holdLimitExpiry => Sys2Proof.Machine.execHoldLimitExpiry s
  | .nowNsRead w => Sys2Proof.Machine.execNowNsRead w s
  | .ppsPulse => Sys2Proof.Machine.execPpsPulse s
  | .ppsPulseEnd => Sys2Proof.Machine.execPpsPulseEnd s
  | .ppsInEdge sub => Sys2Proof.Machine.execPpsInEdge sub s
  | .bmSyncSend k => Sys2Proof.Machine.execBmSyncSend k s
  | .bmAnnounceSend k => Sys2Proof.Machine.execBmAnnounceSend k s
  | .bmPdelayReqReceive k domain reqPort seqId => Sys2Proof.Machine.execBmPdelayReqReceive k domain reqPort seqId s
  | .trigCfgWrite w n value => Sys2Proof.Machine.execTrigCfgWrite w n value s
  | .trigFire n => Sys2Proof.Machine.execTrigFire n s
  | .gridPointIssue r p b dual => Sys2Proof.Machine.execGridPointIssue r p b dual s
  | .refAcquired r backup phase => Sys2Proof.Machine.execRefAcquired r backup phase s
  | .primaryLost r => Sys2Proof.Machine.execPrimaryLost r s
  | .holdTimeExpiry r => Sys2Proof.Machine.execHoldTimeExpiry r s
  | .backupLost r => Sys2Proof.Machine.execBackupLost r s
  | .primaryRestored r => Sys2Proof.Machine.execPrimaryRestored r s
  | .backupRestored r => Sys2Proof.Machine.execBackupRestored r s
  | .returnComplete r => Sys2Proof.Machine.execReturnComplete r s
  | .censusArm w => Sys2Proof.Machine.execCensusArm w s
  | .censusFireNow w => Sys2Proof.Machine.execCensusFireNow w s
  | .censusAbort w => Sys2Proof.Machine.execCensusAbort w s
  | .censusLatch => Sys2Proof.Machine.execCensusLatch s
  | .censusImageComplete => Sys2Proof.Machine.execCensusImageComplete s
  | .svFrameIngest n f dualCheck dual => Sys2Proof.Machine.execSvFrameIngest n f dualCheck dual s
  | .sampleMissing n dual => Sys2Proof.Machine.execSampleMissing n dual s
  | .streamValid n => Sys2Proof.Machine.execStreamValid n s
  | .streamAbsent n => Sys2Proof.Machine.execStreamAbsent n s
  | .streamFailed n => Sys2Proof.Machine.execStreamFailed n s
  | .streamFailedExit n dual => Sys2Proof.Machine.execStreamFailedExit n dual s
  | .gridPointClose r => Sys2Proof.Machine.execGridPointClose r s
  | .closeDeadline r => Sys2Proof.Machine.execCloseDeadline r s
  | .fdcGridWork r residue uncorr => Sys2Proof.Machine.execFdcGridWork r residue uncorr s
  | .psuGridWork r dual => Sys2Proof.Machine.execPsuGridWork r dual s
  | .dzeGridWork r dual => Sys2Proof.Machine.execDzeGridWork r dual s
  | .contributionMissing z => Sys2Proof.Machine.execContributionMissing z s
  | .zoneToLocal z => Sys2Proof.Machine.execZoneToLocal z s
  | .zoneToSpan z => Sys2Proof.Machine.execZoneToSpan z s
  | .lockstepMismatch p => Sys2Proof.Machine.execLockstepMismatch p s
  | .pairStall p => Sys2Proof.Machine.execPairStall p s
  | .spareTakeover p => Sys2Proof.Machine.execSpareTakeover p s
  | .pairSelfTestDone p pass => Sys2Proof.Machine.execPairSelfTestDone p pass s
  | .readmit w p => Sys2Proof.Machine.execReadmit w p s
  | .activate w p => Sys2Proof.Machine.execActivate w p s
  | .release w p => Sys2Proof.Machine.execRelease w p s
  | .retest w p => Sys2Proof.Machine.execRetest w p s
  | .freePassRelease n => Sys2Proof.Machine.execFreePassRelease n s
  | .passDeadlineMiss n => Sys2Proof.Machine.execPassDeadlineMiss n s
  | .sliceFault n => Sys2Proof.Machine.execSliceFault n s
  | .passException n cause code pc => Sys2Proof.Machine.execPassException n cause code pc s
  | .budgetOverrun n => Sys2Proof.Machine.execBudgetOverrun n s
  | .backgroundQuantum p => Sys2Proof.Machine.execBackgroundQuantum p s
  | .overloadCalm p => Sys2Proof.Machine.execOverloadCalm p s
  | .thermalLevelUp tj => Sys2Proof.Machine.execThermalLevelUp tj s
  | .thermalLevelDown tj => Sys2Proof.Machine.execThermalLevelDown tj s
  | .overtemp tj => Sys2Proof.Machine.execOvertemp tj s
  | .schedulerFault => Sys2Proof.Machine.execSchedulerFault s
  | .blockFailure b inst mech => Sys2Proof.Machine.execBlockFailure b inst mech s
  | .ldAcqW p pc addr => Sys2Proof.Machine.execLdAcqW p pc addr s
  | .ldAcqD p pc addr => Sys2Proof.Machine.execLdAcqD p pc addr s
  | .stRelW p pc addr value => Sys2Proof.Machine.execStRelW p pc addr value s
  | .stRelD p pc addr value => Sys2Proof.Machine.execStRelD p pc addr value s
  | .fenceEngine p => Sys2Proof.Machine.execFenceEngine p s
  | .fencePoint p => Sys2Proof.Machine.execFencePoint p s
  | .fenceNet p => Sys2Proof.Machine.execFenceNet p s
  | .fenceAll p => Sys2Proof.Machine.execFenceAll p s
  | .markWait p pc addr value => Sys2Proof.Machine.execMarkWait p pc addr value s
  | .markWaitWake p => Sys2Proof.Machine.execMarkWaitWake p s
  | .passEnd p arch => Sys2Proof.Machine.execPassEnd p arch s
  | .imageCaptureComplete n => Sys2Proof.Machine.execImageCaptureComplete n s
  | .passInfo p imm pc => Sys2Proof.Machine.execPassInfo p imm pc s
  | .grantCreate w g => Sys2Proof.Machine.execGrantCreate w g s
  | .grantRevoke w g => Sys2Proof.Machine.execGrantRevoke w g s
  | .grantRevokeComplete g => Sys2Proof.Machine.execGrantRevokeComplete g s
  | .sliceBindWrite w n value => Sys2Proof.Machine.execSliceBindWrite w n value s
  | .quiesce w n => Sys2Proof.Machine.execQuiesce w n s
  | .quiesceComplete n => Sys2Proof.Machine.execQuiesceComplete n s
  | .quiesceTimeout n => Sys2Proof.Machine.execQuiesceTimeout n s
  | .resume w n at_ => Sys2Proof.Machine.execResume w n at_ s
  | .armedResume n => Sys2Proof.Machine.execArmedResume n s
  | .move w n pair page => Sys2Proof.Machine.execMove w n pair page s
  | .moveComplete n => Sys2Proof.Machine.execMoveComplete n s
  | .save w n live delta => Sys2Proof.Machine.execSave w n live delta s
  | .saveComplete n => Sys2Proof.Machine.execSaveComplete n s
  | .restore w n => Sys2Proof.Machine.execRestore w n s
  | .restoreComplete n => Sys2Proof.Machine.execRestoreComplete n s
  | .sliceReset w n => Sys2Proof.Machine.execSliceReset w n s
  | .sliceAbort w n => Sys2Proof.Machine.execSliceAbort w n s
  | .portWrite w value => Sys2Proof.Machine.execPortWrite w value s
  | .gooseFrameReceive n f => Sys2Proof.Machine.execGooseFrameReceive n f s
  | .gooseExpiry n => Sys2Proof.Machine.execGooseExpiry n s
  | .subFailed n => Sys2Proof.Machine.execSubFailed n s
  | .subFailedExit n => Sys2Proof.Machine.execSubFailedExit n s
  | .subCfgWrite w n value => Sys2Proof.Machine.execSubCfgWrite w n value s
  | .pubReqNewState w e => Sys2Proof.Machine.execPubReqNewState w e s
  | .pubReqRefresh w e => Sys2Proof.Machine.execPubReqRefresh w e s
  | .pubTransmit dual => Sys2Proof.Machine.execPubTransmit dual s
  | .retransmission e dual => Sys2Proof.Machine.execRetransmission e dual s
  | .svPublish e dual => Sys2Proof.Machine.execSvPublish e dual s
  | .frameReceive p octets sym => Sys2Proof.Machine.execFrameReceive p octets sym s
  | .egressTransmit p => Sys2Proof.Machine.execEgressTransmit p s
  | .ageSweep => Sys2Proof.Machine.execAgeSweep s
  | .tblWrite w index => Sys2Proof.Machine.execTblWrite w index s
  | .tblInvalidate w index => Sys2Proof.Machine.execTblInvalidate w index s
  | .tblRead w index => Sys2Proof.Machine.execTblRead w index s
  | .tblFence w => Sys2Proof.Machine.execTblFence w s
  | .tblFenceDone => Sys2Proof.Machine.execTblFenceDone s
  | .supervisionSend k => Sys2Proof.Machine.execSupervisionSend k s
  | .lanSilent k m => Sys2Proof.Machine.execLanSilent k m s
  | .nodeAgeOut k => Sys2Proof.Machine.execNodeAgeOut k s
  | .linkDown p => Sys2Proof.Machine.execLinkDown p s
  | .linkUp p => Sys2Proof.Machine.execLinkUp p s
  | .holdExpiry p => Sys2Proof.Machine.execHoldExpiry p s
  | .lpiEntry p => Sys2Proof.Machine.execLpiEntry p s
  | .txRingPoll => Sys2Proof.Machine.execTxRingPoll s
  | .txRingKick w r => Sys2Proof.Machine.execTxRingKick w r s
  | .tcFollowUpTimeout => Sys2Proof.Machine.execTcFollowUpTimeout s
  | .mateHb m => Sys2Proof.Machine.execMateHb m s
  | .arbHb second m => Sys2Proof.Machine.execArbHb second m s
  | .arbStatus m => Sys2Proof.Machine.execArbStatus m s
  | .verdict m => Sys2Proof.Machine.execVerdict m s
  | .verdictAck second m => Sys2Proof.Machine.execVerdictAck second m s
  | .ckptData m => Sys2Proof.Machine.execCkptData m s
  | .ckptEnd m => Sys2Proof.Machine.execCkptEnd m s
  | .ckptCommitDone => Sys2Proof.Machine.execCkptCommitDone s
  | .ckptAck m => Sys2Proof.Machine.execCkptAck m s
  | .checkpointStart => Sys2Proof.Machine.execCheckpointStart s
  | .handbackReq m => Sys2Proof.Machine.execHandbackReq m s
  | .handover w => Sys2Proof.Machine.execHandover w s
  | .abandon w => Sys2Proof.Machine.execAbandon w s
  | .handbackPlan m => Sys2Proof.Machine.execHandbackPlan m s
  | .handbackReady m => Sys2Proof.Machine.execHandbackReady m s
  | .handbackGridPoint => Sys2Proof.Machine.execHandbackGridPoint s
  | .mandateYield m => Sys2Proof.Machine.execMandateYield m s
  | .yieldReq second m => Sys2Proof.Machine.execYieldReq second m s
  | .maint m => Sys2Proof.Machine.execMaint m s
  | .cxHoldWrite w v => Sys2Proof.Machine.execCxHoldWrite w v s
  | .heartbeatSend ty arg => Sys2Proof.Machine.execHeartbeatSend ty arg s
  | .mandateLoss => Sys2Proof.Machine.execMandateLoss s
  | .mateLost => Sys2Proof.Machine.execMateLost s
  | .arbLost r => Sys2Proof.Machine.execArbLost r s
  | .verdictIssue kind target planLate => Sys2Proof.Machine.execVerdictIssue kind target planLate s
  | .verdictTargetTimeout => Sys2Proof.Machine.execVerdictTargetTimeout s
  | .takeoverMandate => Sys2Proof.Machine.execTakeoverMandate s
  | .revertHoldComplete => Sys2Proof.Machine.execRevertHoldComplete s
  | .dealerHb src m => Sys2Proof.Machine.execDealerHb src m s
  | .dealerLoss => Sys2Proof.Machine.execDealerLoss s
  | .angle src m => Sys2Proof.Machine.execAngle src m s
  | .partialSum src m => Sys2Proof.Machine.execPartialSum src m s
  | .censusCall src m => Sys2Proof.Machine.execCensusCall src m s
  | .censusData src m => Sys2Proof.Machine.execCensusData src m s
  | .taeRowWrite r bad => Sys2Proof.Machine.execTaeRowWrite r bad s
  | .recordComplete r => Sys2Proof.Machine.execRecordComplete r s
  | .holdoffExpiry r => Sys2Proof.Machine.execHoldoffExpiry r s
  | .taeArm w r => Sys2Proof.Machine.execTaeArm w r s
  | .taeDisarm w r => Sys2Proof.Machine.execTaeDisarm w r s
  | .taeTrigger w r => Sys2Proof.Machine.execTaeTrigger w r s
  | .taeFree w r slot => Sys2Proof.Machine.execTaeFree w r slot s
  | .recArm src m => Sys2Proof.Machine.execRecArm src m s
  | .recFire src m => Sys2Proof.Machine.execRecFire src m s
  | .taeWatchdog => Sys2Proof.Machine.execTaeWatchdog s
  | .loopCycle l crc ffCrc => Sys2Proof.Machine.execLoopCycle l crc ffCrc s
  | .fallbackDelayExpiry l => Sys2Proof.Machine.execFallbackDelayExpiry l s
  | .autoResume l => Sys2Proof.Machine.execAutoResume l s
  | .loopOpen w l => Sys2Proof.Machine.execLoopOpen w l s
  | .loopClose w l => Sys2Proof.Machine.execLoopClose w l s
  | .stopRamp w l => Sys2Proof.Machine.execStopRamp w l s
  | .rgeWatchdog => Sys2Proof.Machine.execRgeWatchdog s
  | .programLoad w p => Sys2Proof.Machine.execProgramLoad w p s
  | .startCold w p => Sys2Proof.Machine.execStartCold w p s
  | .startWarm w p => Sys2Proof.Machine.execStartWarm w p s
  | .programStop w p => Sys2Proof.Machine.execProgramStop w p s
  | .programHold w p => Sys2Proof.Machine.execProgramHold w p s
  | .programResume w p => Sys2Proof.Machine.execProgramResume w p s
  | .apply w p n => Sys2Proof.Machine.execApply w p n s
  | .programUnload w p => Sys2Proof.Machine.execProgramUnload w p s
  | .scan p dur upto bad => Sys2Proof.Machine.execScan p dur upto bad s
  | .scanOverrun p => Sys2Proof.Machine.execScanOverrun p s
  | .holdTimeout p => Sys2Proof.Machine.execHoldTimeout p s
  | .forceWrite w p f isVal value => Sys2Proof.Machine.execForceWrite w p f isVal value s
  | .lgeWatchdog => Sys2Proof.Machine.execLgeWatchdog s
  | .canFrameReceive o x sof err heavy res => Sys2Proof.Machine.execCanFrameReceive o x sof err heavy res s
  | .fifoPop w o => Sys2Proof.Machine.execFifoPop w o s
  | .trumpPop w o => Sys2Proof.Machine.execTrumpPop w o s
  | .enqueue w o => Sys2Proof.Machine.execEnqueue w o s
  | .withdraw w o inTx => Sys2Proof.Machine.execWithdraw w o inTx s
  | .canTxComplete o isRef sof res tdcv => Sys2Proof.Machine.execCanTxComplete o isRef sof res tdcv s
  | .canRefInstant o => Sys2Proof.Machine.execCanRefInstant o s
  | .busOff o => Sys2Proof.Machine.execBusOff o s
  | .busOffRecovery o => Sys2Proof.Machine.execBusOffRecovery o s
  | .recover w o => Sys2Proof.Machine.execRecover w o s
  | .guardSampleSet codes => Sys2Proof.Machine.execGuardSampleSet codes s
  | .outputOpen o => Sys2Proof.Machine.execOutputOpen o s
  | .outputMismatch o => Sys2Proof.Machine.execOutputMismatch o s
  | .binaryInputChange b level => Sys2Proof.Machine.execBinaryInputChange b level s
  | .guardDisarm => Sys2Proof.Machine.execGuardDisarm s
  | .guardApply w value => Sys2Proof.Machine.execGuardApply w value s
  | .guardCheck => Sys2Proof.Machine.execGuardCheck s
  | .guardOscDeviation => Sys2Proof.Machine.execGuardOscDeviation s
  | .vbatMeasure mv => Sys2Proof.Machine.execVbatMeasure mv s
  | .backupLoss => Sys2Proof.Machine.execBackupLoss s
  | .rtcSet w => Sys2Proof.Machine.execRtcSet w s
  | .rtcLoRead w => Sys2Proof.Machine.execRtcLoRead w s
  | .cal0Read w => Sys2Proof.Machine.execCal0Read w s
  | .rtcWrap => Sys2Proof.Machine.execRtcWrap s
  | .alarmCtlWrite w a value => Sys2Proof.Machine.execAlarmCtlWrite w a value s
  | .alarmMatch a => Sys2Proof.Machine.execAlarmMatch a s
  | .pwrClear w => Sys2Proof.Machine.execPwrClear w s
  | .pwrPulseExpiry => Sys2Proof.Machine.execPwrPulseExpiry s
  | .hourMeterCopy => Sys2Proof.Machine.execHourMeterCopy s
  | .softwareRecord w value => Sys2Proof.Machine.execSoftwareRecord w value s
  | .ledgerFlush => Sys2Proof.Machine.execLedgerFlush s
  | .ledgerScan => Sys2Proof.Machine.execLedgerScan s
  | .loadClear w k => Sys2Proof.Machine.execLoadClear w k s
  | .loadWrapped w k aux => Sys2Proof.Machine.execLoadWrapped w k aux s
  | .loadPublic w k => Sys2Proof.Machine.execLoadPublic w k s
  | .derive w k => Sys2Proof.Machine.execDerive w k s
  | .zeroise w k => Sys2Proof.Machine.execZeroise w k s
  | .gcmEnc w k => Sys2Proof.Machine.execGcmEnc w k s
  | .gcmDec w k => Sys2Proof.Machine.execGcmDec w k s
  | .mac w k tag256 => Sys2Proof.Machine.execMac w k tag256 s
  | .macVer w k tag256 => Sys2Proof.Machine.execMacVer w k tag256 s
  | .sha256 w => Sys2Proof.Machine.execSha256 w s
  | .sha384 w => Sys2Proof.Machine.execSha384 w s
  | .ecdsaVer w k => Sys2Proof.Machine.execEcdsaVer w k s
  | .mldsaVer w k => Sys2Proof.Machine.execMldsaVer w k s
  | .keyOpComplete m => Sys2Proof.Machine.execKeyOpComplete m s
  | .slotAttrWrite w k isId value => Sys2Proof.Machine.execSlotAttrWrite w k isId value s
  | .debugUnlock w => Sys2Proof.Machine.execDebugUnlock w s
  | .tamperDetect src => Sys2Proof.Machine.execTamperDetect src s
  | .latchClear w => Sys2Proof.Machine.execLatchClear w s
  | .powerUp role pos boot => Sys2Proof.Machine.execPowerUp role pos boot s
  | .resetNPulse role pos boot => Sys2Proof.Machine.execResetNPulse role pos boot s
  | .resetNLongHold => Sys2Proof.Machine.execResetNLongHold s
  | .coldStart imgA imgB rootOk dbgEn second met => Sys2Proof.Machine.execColdStart imgA imgB rootOk dbgEn second met s
  | .warmStart imgA imgB rootOk dbgEn second met => Sys2Proof.Machine.execWarmStart imgA imgB rootOk dbgEn second met s
  | .startWatchdog => Sys2Proof.Machine.execStartWatchdog s
  | .done w => Sys2Proof.Machine.execDone w s
  | .warmReset w => Sys2Proof.Machine.execWarmReset w s
  | .coldReset w => Sys2Proof.Machine.execColdReset w s
  | .pfailAssert => Sys2Proof.Machine.execPfailAssert s
  | .pfRetain => Sys2Proof.Machine.execPfRetain s
  | .pfailDeassert => Sys2Proof.Machine.execPfailDeassert s
  | .patrolScrub addr found => Sys2Proof.Machine.execPatrolScrub addr found s
  | .xspiRead w k => Sys2Proof.Machine.execXspiRead w k s
  | .xspiProgram w k => Sys2Proof.Machine.execXspiProgram w k s
  | .xspiErase w k => Sys2Proof.Machine.execXspiErase w k s
  | .xspiDone k data err => Sys2Proof.Machine.execXspiDone k data err s
  | .sleep w => Sys2Proof.Machine.execSleep w s
  | .cxPowerDown => Sys2Proof.Machine.execCxPowerDown s
  | .nxRailTimeout => Sys2Proof.Machine.execNxRailTimeout s
  | .cxRailTimeout => Sys2Proof.Machine.execCxRailTimeout s
  | .supplyFault rail => Sys2Proof.Machine.execSupplyFault rail s
  | .vddGuardLoss => Sys2Proof.Machine.execVddGuardLoss s
  | .referenceClockLoss pll => Sys2Proof.Machine.execReferenceClockLoss pll s
  | .tamperSourceInactive src => Sys2Proof.Machine.execTamperSourceInactive src s
  | .busIntegration o => Sys2Proof.Machine.execBusIntegration o s
  | .lpiReceive p => Sys2Proof.Machine.execLpiReceive p s
  | .yearChange => Sys2Proof.Machine.execYearChange s
  | .nxEnRetry => Sys2Proof.Machine.execNxEnRetry s

end Sys2Proof.Machine
end

