-- ==== Sys2Proof/Machine/Tick.lean ====
section
/-!
DEFINITION. What 8 ns of time do while no command waits: the module's tick count, the time unit's count, the backup
domain, and the busy times that end by themselves (R53, R284, R396, R442, R447, R456). What the spec lets happen at an
instant or after an interval is a command of its own, which acts once its time has come.
-/

namespace Sys2Proof.Machine

/-- One tick of the time unit (R53): the increment is added, a full second is carried, and its tick noted for PPS_OUT
(R67). -/
def State.wallTick (s : State) : State :=
  if s.power.nx = false then s else
  let t := s.time
  let f := t.frac + t.incr
  let ns := t.ns + f / 2 ^ 32
  let carry : Bool := decide (1000000000 ≤ ns)
  { s with time := { t with
      frac := f % 2 ^ 32
      holdAcc := if s.timeState = 3 then t.holdAcc + t.incr else t.holdAcc
      ns := if carry then ns - 1000000000 else ns
      sec := if carry then (t.sec + 1) % 2 ^ 48 else t.sec
      secTick := if carry then some s.clk else t.secTick } }

/-- Busy times that end by themselves: a software record (R456), frames in transmission (R284), scans (R396). -/
def State.settleAll (s : State) : State :=
  let s := ((s.setBit LED_SW_STAT 0 false).setBit TIME_STAT 8 false).setBit SWC_TBL_STAT 0 false
  let s := s.each (List.range 9) (fun p s => ((s.txFree p).portSettle p).directNext p)
  let s := s.slot
  let s := s.each (List.range 16) State.settle
  s.each (List.range 12) State.calmWatch

/-- 8 ns pass. -/
def State.tick (s : State) : State :=
  let s := { s with clk := s.clk + 1 }
  (((s.wallTick.bkdTick).meterRestore).settleAll).censusTick

end Sys2Proof.Machine
end

