-- ==== Sys2Proof/WellFormed.lean ====
section
/-!
DEFINITION. Well-formed commands: bounds of operands that their types do not carry. The outside sends no other; the
machine's meanings are total all the same.
-/

namespace Sys2Proof

/-- Octets a CAN data length code stands for (R410). -/
def dlcOctets (fdf : Bool) (dlc : Nat) : Nat :=
  if dlc ≤ 8 then dlc else if !fdf then 8 else [12, 16, 20, 24, 32, 48, 64].getD (dlc - 9) 64

/-- A 40-bit address range (R28). -/
def addrOk (a n : Nat) : Bool := decide (1 ≤ n ∧ n ≤ 64 ∧ a + n ≤ 2 ^ 40)

/-- A CAN frame carries the octets its length code says; an 11-bit identifier unless extended; no remote FD frame. -/
def CanFrame.wf (x : CanFrame) : Bool :=
  (if x.rtr then x.data.isEmpty && !x.fdf else x.data.length == dlcOctets x.fdf x.dlc) && (x.ide || decide (x.id.toNat < 2 ^ 11))

/-- A frame at an internal port has at least its addresses and EtherType. -/
def RxFrame.wf (f : RxFrame) : Bool := decide (14 ≤ f.octets.length ∧ f.octets.length ≤ 9600)

/-- A command the outside can send. -/
def Instr.wf : Instr → Bool
  | .registerWrite _ a n v => addrOk a n && decide (v < 2 ^ (8 * n))
  | .pairAccess _ _ _ a n _ v => addrOk a n && decide (v < 2 ^ (8 * n))
  | .lowWordRead _ a => addrOk a 4 && a % 4 == 0
  | .highWordRead _ a => addrOk a 4 && a % 4 == 0
  | .lowWordWrite _ a _ => addrOk a 4 && a % 4 == 0
  | .highWordWrite _ a _ => addrOk a 4 && a % 4 == 0
  | .shadowWrite _ a _ => addrOk a 4
  | .ldAcqW _ _ a => addrOk a 4 && a % 4 == 0
  | .ldAcqD _ _ a => addrOk a 8 && a % 8 == 0
  | .stRelW _ _ a v => addrOk a 4 && a % 4 == 0 && decide (v < 2 ^ 32)
  | .stRelD _ _ a v => addrOk a 8 && a % 8 == 0 && decide (v < 2 ^ 64)
  | .markWait _ _ a _ => addrOk a 4 && a % 4 == 0
  | .patrolScrub a _ => addrOk a 8 && a % 8 == 0
  | .svFrameIngest _ f _ _ => f.wf
  | .gooseFrameReceive _ f => f.wf
  | .canFrameReceive _ x _ _ _ _ => x.wf
  | .passException _ c _ pc => decide (1 ≤ c ∧ c ≤ 5 ∧ pc < 2 ^ 64)
  | _ => true

end Sys2Proof
end

