-- ==== Sys2Proof/Safety.lean ====
section
/-!
DEFINITION. What a safe state is, in the terms the statements use: memory, registers, answers and tables in canonical form.
-/

namespace Sys2Proof.Machine

/-- The register file's canonical form: addresses strictly rising, no entry equal to its reset word. -/
abbrev Registers.wf (r : FMap Word) : Bool := FMap.wf resetWord r

/-- Memory, registers, the masters' answers and the tables of working state are in canonical form. -/
def State.Canonical (s : State) : Prop :=
  Memory.wf s.mem = true ∧ Registers.wf s.regs = true ∧ Replies.wf s.reply = true ∧ s.Tables

/-- The answer of a step is a next state. -/
def goesOn (o : Host.Outcome State Fault Refusal) : Prop := ∃ t, o = .next t

end Sys2Proof.Machine
end

