-- ==== Sys2Proof/Certificates/Slice0/Obligations.lean ====
section
/-!
DEFINITION. The statements for the provers, each a rule of the spec or a property of the whole machine.
-/

namespace Sys2Proof.Claims

open Sys2Proof Sys2Proof.Machine

/-- The command answers a next state, and of that state `P` holds. -/
def Answers (i : Instr) (s : State) (P : State → Prop) : Prop := ∃ t, exec i s = .next t ∧ P t

/-- The access is neither held back nor answered with an error: the master is not stalled (R41, R203) and the block's
domain is on (R26). -/
def Reaches (w : Who) (b : Nat) (s : State) : Prop := s.stalled w = false ∧ s.blkOn b = true

/-- Slice 0 or the debug access port reaches the block (R213). -/
def Sup (w : Who) (b : Nat) (s : State) : Prop := Reaches w b s ∧ privileged w = true

/-- Every register but those listed reads as before. -/
def RegsBut (rs : List Nat) (s t : State) : Prop := ∀ a, a ∉ rs → t.rd a = s.rd a

/-- Nothing but registers and the master's answer changed; memory in particular is as before. -/
def OnlyRegs (s t : State) : Prop := t = { s with regs := t.regs, reply := t.reply }

end Sys2Proof.Claims

open Sys2Proof Sys2Proof.Machine Sys2Proof.Claims

/-- Of registers only those listed changed, and nothing else but the master's answer; memory in particular is as before. -/
def Sys2Proof.Claims.Wrote (rs : List Nat) (s t : State) : Prop := RegsBut rs s t ∧ OnlyRegs s t

/-- The word with bit `i` set. -/
def Sys2Proof.Claims.raised (v i : Nat) : Nat := setBits v i i 1

/-- The word with bit `i` clear. -/
def Sys2Proof.Claims.lowered (v i : Nat) : Nat := setBits v i i 0

/-- No octet below sample memory changed. -/
def Sys2Proof.Claims.LowMem (s t : State) : Prop := ∀ x, x < smBase → t.rdByte x = s.rdByte x

/-- What is kept of memory writes (R232, R332): the dirty lines of tracked slices and the dirty blocks of the point area;
nothing else of the slices or of the redundancy unit changed. -/
def Sys2Proof.Claims.Noted (s t : State) : Prop :=
  (∀ k, t.sl k = { s.sl k with dirty := (t.sl k).dirty }) ∧ t.red = { s.red with dirty := t.red.dirty }

/-- R56, R57: the lock and unlock commands, the loss of the master, and the end of the holdover limit. A lock that is
refused gives `lock_rej`; a command written while one is in progress gives only `cmd_rej`. That a command takes effect at once
and is in progress until the tick ends is the model's choice (log entry 38). -/
def Obligations.TimeStates : Prop :=
  ∀ (w : Who) (s : State), s.Canonical →
    (Sup w 1 s → s.bit TIME_STAT 8 = true → ∀ i ∈ [Instr.lock w, .unlock w, .set w, .step w, .seed w], Answers i s fun t =>
      t.rd TIME_EVT = raised (s.rd TIME_EVT) 6 ∧ Wrote [TIME_EVT] s t) ∧
    (Sup w 1 s → s.bit TIME_STAT 8 = false → s.timeState = 1 ∨ s.timeState = 3 → s.masterSeen = true →
      Answers (.lock w) s fun t =>
        t.rd TIME_STAT = raised (setBits (setBits (s.rd TIME_STAT) 2 0 2) 5 4 2) 8 ∧ Wrote [TIME_STAT] s t) ∧
    (Sup w 1 s → s.bit TIME_STAT 8 = false → s.timeState = 0 ∨ (s.timeState = 1 ∨ s.timeState = 3) ∧ s.masterSeen = false →
      Answers (.lock w) s fun t => t.rd TIME_EVT = raised (s.rd TIME_EVT) 1 ∧ t.rd TIME_STAT = raised (s.rd TIME_STAT) 8 ∧
        Wrote [TIME_EVT, TIME_STAT] s t) ∧
    (Sup w 1 s → s.bit TIME_STAT 8 = false → s.timeState = 2 → Answers (.unlock w) s fun t =>
      t.rd TIME_STAT = raised (setBits (setBits (s.rd TIME_STAT) 2 0 3) 5 4 2) 8 ∧
      t.rd TIME_HOLD_CNT = incSat 32 (s.rd TIME_HOLD_CNT) ∧ RegsBut [TIME_STAT, TIME_HOLD_CNT] s t ∧
      t = { s with regs := t.regs, reply := t.reply, time := { s.time with holdAcc := 0 } }) ∧
    (s.timeState = 2 → s.masterSeen = false → Answers .masterLost s fun t =>
      t.rd TIME_STAT = setBits (setBits (s.rd TIME_STAT) 2 0 3) 5 4 2 ∧
      t.rd TIME_HOLD_CNT = incSat 32 (s.rd TIME_HOLD_CNT) ∧ t.bit TIME_EVT 0 = true ∧
      RegsBut [TIME_STAT, TIME_HOLD_CNT, TIME_EVT] s t ∧
      t = { s with regs := t.regs, time := { s.time with holdAcc := 0 } }) ∧
    (s.timeState = 3 → s.fld TIME_MASTER_TMO 31 16 < s.holdAge → Answers .holdLimitExpiry s fun t =>
      t.rd TIME_STAT = setBits (setBits (s.rd TIME_STAT) 2 0 3) 5 4 1 ∧ RegsBut [TIME_STAT] s t ∧ OnlyRegs s t)

/-- What a change of wall time leaves alone (R61): every register but the time unit's status, events and step count and
the angle references' status, and all of memory. -/
def Sys2Proof.Claims.StepFrame (s t : State) : Prop :=
  (∀ a, a ∉ [TIME_STAT, TIME_EVT, TIME_STEP_CNT] → (∀ r, r < 16 → a ≠ WEFT_REF_STAT r) → t.rd a = s.rd a) ∧ t.mem = s.mem

/-- R57, R60: set, step and seed put the time, advance the step count and mark their event; set and seed leave UNSET; values out of range give `cmd_rej`. -/
def Obligations.TimeCommands : Prop :=
  ∀ (w : Who) (s : State), s.Canonical → TimeOk s.time → Sup w 1 s → s.bit TIME_STAT 8 = false →
    (s.rd TIME_SET_NS < 1000000000 → Answers (.set w) s fun t =>
      t.wallNs = (s.rd TIME_SET_SEC_LO + 2 ^ 32 * s.fld TIME_SET_SEC_HI 15 0) * 1000000000 + s.rd TIME_SET_NS ∧
      t.time.frac = 0 ∧ t.timeState = (if s.timeState = 0 then 1 else s.timeState) ∧ t.bit TIME_STAT 9 = false ∧
      t.bit TIME_EVT 4 = true ∧ t.rd TIME_STEP_CNT = incSat 32 (s.rd TIME_STEP_CNT) ∧ StepFrame s t) ∧
    (-999999999 ≤ signed 32 (s.rd TIME_STEP_NS) → signed 32 (s.rd TIME_STEP_NS) ≤ 999999999 →
      ∀ n : Nat, (n : Int) = s.wallNs + signed 32 (s.rd TIME_STEP_SEC) * 1000000000 + signed 32 (s.rd TIME_STEP_NS) →
        n < 2 ^ 48 * 1000000000 → Answers (.step w) s fun t =>
          t.wallNs = n ∧ t.time.frac = s.time.frac ∧ t.timeState = s.timeState ∧ t.bit TIME_EVT 3 = true ∧
          t.rd TIME_STEP_CNT = incSat 32 (s.rd TIME_STEP_CNT) ∧ StepFrame s t) ∧
    (s.rtcValid = true →
      let n := s.bkd.rtc * 1000000000 / 32768 + s.rd TIME_RTC_OFS * 1000000000
      n < 2 ^ 48 * 1000000000 → Answers (.seed w) s fun t =>
        t.wallNs = n ∧ t.time.frac = 0 ∧ t.timeState = (if s.timeState = 0 then 1 else s.timeState) ∧
        t.bit TIME_STAT 9 = true ∧ t.bit TIME_EVT 5 = true ∧ t.rd TIME_STEP_CNT = incSat 32 (s.rd TIME_STEP_CNT) ∧
        StepFrame s t) ∧
    let refused := fun (i : Instr) => Answers i s fun t =>
      t.rd TIME_EVT = raised (s.rd TIME_EVT) 6 ∧ t.rd TIME_STAT = raised (s.rd TIME_STAT) 8 ∧ Wrote [TIME_EVT, TIME_STAT] s t
    (1000000000 ≤ s.rd TIME_SET_NS → refused (.set w)) ∧
    (signed 32 (s.rd TIME_STEP_NS) < -999999999 ∨ 999999999 < signed 32 (s.rd TIME_STEP_NS) → refused (.step w)) ∧
    (s.rtcValid = false → refused (.seed w))

/-- R54, R59: a new increment within 0.05 % of 8 ns is taken; another, or any one while HOLDOVER locks it, is refused and
the previous increment stays. -/
def Sys2Proof.Claims.TimeIncrement : Prop :=
  ∀ (w : Who) (hi lo : Word) (s : State), s.Canonical → Sup w 1 s →
    let v := bits hi.toNat 3 0 * 2 ^ 32 + lo.toNat
    (¬(s.timeState = 3 ∧ s.bit TIME_CTL 1 = true) ∧ 7996 * 2 ^ 32 ≤ v * 1000 ∧ v * 1000 ≤ 8004 * 2 ^ 32 →
      Answers (.incrementWrite w hi lo) s fun t =>
        t.time = { s.time with incr := v } ∧ t.rd TIME_INCR_LO = lo.toNat ∧ t.rd TIME_INCR_HI = bits hi.toNat 3 0 ∧
        RegsBut [TIME_INCR_LO, TIME_INCR_HI] s t ∧ t = { s with regs := t.regs, reply := t.reply, time := t.time }) ∧
    ((s.timeState = 3 ∧ s.bit TIME_CTL 1 = true) ∨ v * 1000 < 7996 * 2 ^ 32 ∨ 8004 * 2 ^ 32 < v * 1000 →
      Answers (.incrementWrite w hi lo) s fun t =>
        t.bit TIME_EVT 2 = true ∧ RegsBut [TIME_EVT] s t ∧ OnlyRegs s t)

/-- R58, R66–R68: a qualifying Sync renews the master and is counted unless it is a duplicate; a read of the nanoseconds
latches the rest; the pulse output rises when the seconds count advanced and falls when its width is over; an edge on the
pulse input is captured. -/
def Sys2Proof.Claims.TimeInputs : Prop :=
  ∀ (s : State), s.Canonical →
    (∀ (port : Fin 9) (domain : Byte) (clockId : BitVec 64) (portNumber seqId : BitVec 16) (b : Nat),
      watchBit port.val = some b → s.bmOn port.val = false → s.bit TIME_MASTER_CFG 31 = true →
      s.bit TIME_MASTER_CFG b = true → s.fld TIME_MASTER_CFG 23 16 = domain.toNat →
      s.fld TIME_MASTER_CFG 15 0 = portNumber.toNat → s.rd64 TIME_MASTER_ID_LO = clockId.toNat →
      Answers (.ptpSyncReceive port domain clockId portNumber seqId) s fun t =>
        t.masterSeen = true ∧ t.rd TIME_SYNC_CNT =
          (if ∃ e ∈ s.time.syncs, e.1 = seqId.toNat ∧ s.clk - e.2 ≤ tSec then s.rd TIME_SYNC_CNT
           else incSat 32 (s.rd TIME_SYNC_CNT)) ∧
        RegsBut [TIME_SYNC_CNT] s t ∧ t = { s with regs := t.regs, time := t.time }) ∧
    (∀ w : Who, Reaches w 1 s → Answers (.nowNsRead w) s fun t =>
      t.reply.at' w.master = { data := s.time.ns } ∧
      t.latched = ((s.latched.put TIME_NOW_SEC_LO (s.time.sec % 2 ^ 32)).put TIME_NOW_SEC_HI (s.time.sec / 2 ^ 32)).put
        TIME_NOW_FRAC s.time.frac ∧ t = { s with reply := t.reply, latched := t.latched }) ∧
    (s.time.secTick = some s.clk → s.ppsDriven = true → s.time.ppsUntil = none → Answers .ppsPulse s fun t =>
      t = { s with out := s.out ++ [.pin .ppsOut true], time := { s.time with
        ppsUntil := some (s.clk + s.ppsWidth), secTick := none } }) ∧
    (∀ u, s.time.ppsUntil = some u → u ≤ s.clk → Answers .ppsPulseEnd s fun t =>
      t = { s with out := s.out ++ [.pin .ppsOut false], time := { s.time with ppsUntil := none } }) ∧
    (∀ sub : Fin 8, s.bit TIME_PPS_CFG 4 = true → Answers (.ppsInEdge sub) s fun t =>
      t.rd TIME_PPSIN_NS = (s.wallNs + sub) % 10 ^ 9 ∧ t.rd TIME_PPSIN_SEC = (s.wallNs + sub) / 10 ^ 9 % 2 ^ 32 ∧
      t.rd TIME_EVT = raised (s.rd TIME_EVT) 7 ∧ Wrote [TIME_PPSIN_NS, TIME_PPSIN_SEC, TIME_EVT] s t) ∧
    (∀ sub : Fin 8, s.bit TIME_PPS_CFG 4 = false → Answers (.ppsInEdge sub) s fun t => t = s)

/-- R54, R59: a new increment within 0.05 % of 8 ns is taken; another, or any one while HOLDOVER locks it, is refused and
the previous increment stays.
R58, R66–R68: a qualifying Sync renews the master and is counted unless it is a duplicate; a read of the nanoseconds
latches the rest; the pulse output rises when the seconds count advanced and falls when its width is over; an edge on the
pulse input is captured. -/
def Obligations.TimeInputs : Prop := Sys2Proof.Claims.TimeIncrement ∧ Sys2Proof.Claims.TimeInputs

/-- External port `p` is up and no frame waits for it or is on it, nor does it sleep: a frame given to its MAC begins at
once. -/
def Sys2Proof.Claims.Free (p : Nat) (s : State) : Prop :=
  s.portUp p = true ∧ s.swc.direct.at' p = [] ∧ s.atBoundary p = true ∧ s.swc.wakeAt.at' p ≤ s.clk ∧ s.bit (MAC_STAT p) 2 = false

/-- Frame `f` of port `p` begins, outside the switch; `next` waits behind it. -/
def Sys2Proof.Claims.Begins (p : Nat) (f : List Byte) (next : List Direct) (s t : State) : Prop :=
  t.out = s.out ++ [.frame p f] ∧ t.swc = { s.swc with
    direct := s.swc.direct.put p next, dirTx := s.swc.dirTx.put p (some (f.length + 4, s.clk + s.txTicks p (f.length + 4))) }

/-- R69, R70, R270: a boundary port that may send begins Sync, or an Announce, when due; it answers a peer-delay request of
its domain. A Follow_Up with the transmit timestamp waits behind a Sync, and behind an answer the one with its own. Every
message that begins is counted. The places of the fields in a message are those of IEEE 1588. -/
def Obligations.BoundaryMaster : Prop :=
  ∀ (k : Fin 2) (s : State), s.Canonical → Free (6 + k) s → s.swc.direct.tidy = true →
    let dom := s.fld (TIME_BM_CFG k) 23 16
    let id := s.rd64 TIME_BM_ID_LO
    let mac := fun (dst : Nat) => bytesBE 6 dst ++ bytesBE 6 (s.macAddr (6 + k)) ++ bytesBE 2 0x88F7
    let stamp := ptpTime (s.txStampNs (6 + k))
    let after := fun (f : List Byte) => [({ out := .frame (6 + k) f, len := f.length + 4, ptp := true } : Direct)]
    (s.bmMaySend k = true → (s.bm.at' k).syncDue ≤ s.clk → Answers (.bmSyncSend k) s fun t =>
      let b := s.bm.at' k
      let li := unsigned 8 (s.logSync k)
      Begins (6 + k) (mac 0x011B19000000 ++ ptpHeader 0 44 dom 0x0200 id (k + 1) b.syncSeq li ++ ptpTime 0)
        (after (mac 0x011B19000000 ++ ptpHeader 8 44 dom 0 id (k + 1) b.syncSeq li ++ stamp)) s t ∧
      t.bm = s.bm.put k { b with syncSeq := (b.syncSeq + 1) % 2 ^ 16, syncDue := s.clk + s.syncInterval k } ∧
      t.rd (TIME_BM_TX k) = incSat 32 (s.rd (TIME_BM_TX k)) ∧ RegsBut [TIME_BM_TX k] s t ∧
      t = { s with regs := t.regs, out := t.out, bm := t.bm, swc := t.swc }) ∧
    (s.bmMaySend k = true → (s.bm.at' k).annDue ≤ s.clk → Answers (.bmAnnounceSend k) s fun t =>
      let b := s.bm.at' k
      let la := s.fld (TIME_BM_CFG k) 5 4
      Begins (6 + k) (mac 0x011B19000000 ++ ptpHeader 0xB 64 dom s.annFlags id (k + 1) b.annSeq la ++ ptpTime 0 ++
        bytesBE 2 (s.fld TIME_BM_UTC 15 0) ++ [0] ++ bytesBE 1 (s.fld TIME_BM_PRIO 7 0) ++ bytesBE 1 (s.annClass k) ++
        bytesBE 1 (s.fld TIME_BM_QUAL 15 8) ++ bytesBE 2 (s.fld TIME_BM_QUAL 31 16) ++ bytesBE 1 (s.fld TIME_BM_PRIO 15 8) ++
        bytesBE 8 (s.rd64 TIME_BM_GM_LO) ++ bytesBE 2 (s.fld TIME_BM_PRIO 23 16 + 1) ++ bytesBE 1 (s.fld TIME_BM_PRIO 31 24))
        [] s t ∧
      t.bm = s.bm.put k { b with
        annSeq := (b.annSeq + 1) % 2 ^ 16, annDue := s.clk + tSec * 2 ^ la } ∧
      t.rd (TIME_BM_TX k) = incSat 32 (s.rd (TIME_BM_TX k)) ∧ RegsBut [TIME_BM_TX k] s t ∧
      t = { s with regs := t.regs, out := t.out, bm := t.bm, swc := t.swc }) ∧
    (∀ (domain : Byte) (reqPort : BitVec 80) (seqId : BitVec 16), s.bit (TIME_BM_CFG k) 31 = true → dom = domain.toNat →
      Answers (.bmPdelayReqReceive k domain reqPort seqId) s fun t =>
        Begins (6 + k) (mac 0x0180C200000E ++ ptpHeader 3 54 dom 0x0200 id (k + 1) seqId.toNat 0x7F ++
            ptpTime (s.rxStampNs (6 + k)) ++ bytesBE 10 reqPort.toNat)
          (after (mac 0x0180C200000E ++ ptpHeader 0xA 54 dom 0 id (k + 1) seqId.toNat 0x7F ++ stamp ++
            bytesBE 10 reqPort.toNat)) s t ∧
        t.rd (TIME_BM_TX k) = incSat 32 (s.rd (TIME_BM_TX k)) ∧ t.rd (TIME_BM_PDREQ k) = incSat 32 (s.rd (TIME_BM_PDREQ k)) ∧
        RegsBut [TIME_BM_TX k, TIME_BM_PDREQ k] s t ∧ t = { s with regs := t.regs, out := t.out, swc := t.swc })

/-- R73–R76: enabling a channel whose period it accepts starts it at the first instant not in the past; a channel whose
instant has come fires once, and after a step forward that one firing stands for every instant passed. -/
def Obligations.TriggerChannels : Prop :=
  ∀ (n : Fin 17) (s : State), s.Canonical →
    (∀ (w : Who) (v : Word), Sup w 1 s → bitAt v.toNat 0 = true → s.bit (TIME_TRIG_CFG n) 0 = false →
      trigPeriodOk n (s.rd (TIME_TRIG_PERIOD n)) = true → Answers (.trigCfgWrite w n v) s fun t =>
        t.rd (TIME_TRIG_CFG n) = 1 ∧ t.bit (TIME_TRIG_STAT n) 0 = true ∧ t.bit (TIME_TRIG_STAT n) 2 = false ∧
        t.trig = s.trig.put n { next := firstInstant (s.trigStart n) (s.rd (TIME_TRIG_PERIOD n)) s.wallNs } ∧
        RegsBut [TIME_TRIG_CFG n, TIME_TRIG_STAT n] s t ∧ t = { s with regs := t.regs, reply := t.reply, trig := t.trig }) ∧
    (∀ (w : Who) (v : Word), Sup w 1 s → bitAt v.toNat 0 = true → s.bit (TIME_TRIG_CFG n) 0 = false →
      trigPeriodOk n (s.rd (TIME_TRIG_PERIOD n)) = false → Answers (.trigCfgWrite w n v) s fun t =>
        t.bit (TIME_TRIG_STAT n) 2 = true ∧ RegsBut [TIME_TRIG_STAT n] s t ∧ OnlyRegs s t) ∧
    (s.bit (TIME_TRIG_STAT n) 0 = true → s.power.nx = true → (s.trig.at' n).next ≤ s.wallNs →
      Answers (.trigFire n) s fun t =>
        let old := s.trig.at' n
        let per := s.rd (TIME_TRIG_PERIOD n)
        let passed := if old.stepped then (s.wallNs - old.next) / per + 1 else 1
        t.trig = s.trig.put n
          { next := old.next + (passed - 1) * per + per, last := old.next + (passed - 1) * per, stepped := false } ∧
        t.bit (TIME_TRIG_STAT n) 1 = old.stepped ∧
        t.rd (TIME_TRIG_MISS n) = min (s.rd (TIME_TRIG_MISS n) + (passed - 1)) (2 ^ 32 - 1) ∧
        t.out = s.out ++ [.trigger n] ∧ RegsBut [TIME_TRIG_STAT n, TIME_TRIG_MISS n, TIME_EVT] s t ∧
        t = { s with regs := t.regs, out := t.out, trig := t.trig, guard := t.guard })

/-- Memory octets `[a, a + n)` lie in one region that the master reaches with right `r`, its domain on, no part of it a
register. -/
def Sys2Proof.Claims.Open (w : Who) (a n : Nat) (r : Right) (s : State) : Prop :=
  isReg a = false ∧ badPlace w a n = false ∧ s.memOn a = true ∧ s.uncovered w a n r = none

/-- No word of `[a, a + n)` is poisoned. -/
def Sys2Proof.Claims.Clean (a n : Nat) (s : State) : Prop := s.poison.any (fun x => decide (a < 8 * x + 8 ∧ 8 * x < a + n)) = false

/-- A master may store in the region: DRAM or a pair window. -/
def Sys2Proof.Claims.Writable (a : Nat) : Prop := region a = 1 ∨ region a = 3

/-- The octets of `v` stand at `[a, a + n)`, least significant first, and every other octet and every register is as
before. -/
def Sys2Proof.Claims.Stored (a n v : Nat) (s t : State) : Prop :=
  (∀ i, i < n → t.rdByte (a + i) = BitVec.ofNat 8 (v / 256 ^ i)) ∧
  (∀ x, x < a ∨ a + n ≤ x → t.rdByte x = s.rdByte x) ∧ RegsBut [] s t

/-- R12, R28, R29, R203, R211, R212: the loads of the slice that runs on a pair answer the little-endian word at the address
and change nothing else; its stores put the octets of the value there and leave every other octet and every register alone;
so do its other accesses, whose address may be one in its own window, and a write of memory by any master. Sample memory is
written by the engines only: a write of another master is a violation. -/
def Obligations.LoadsAndStores : Prop :=
  ∀ (s : State), s.Canonical →
    (∀ (p : Fin 12) (pc : BitVec 64) (n a : Nat), s.runningOn p = some n → s.stalled (pairWho p n pc) = false →
      let w := pairWho p n pc
      (Open w a 4 .rd s → Clean a 4 s → Answers (.ldAcqW p pc a) s fun t =>
        t.reply.at' p = { data := s.ld a 4 } ∧ t = { s with reply := t.reply }) ∧
      (Open w a 8 .rd s → Clean a 8 s → Answers (.ldAcqD p pc a) s fun t =>
        t.reply.at' p = { data := s.ld a 8 } ∧ t = { s with reply := t.reply }) ∧
      (∀ v, Open w a 4 .wr s → Writable a → Answers (.stRelW p pc a v) s fun t => Stored a 4 v s t) ∧
      (∀ v, Open w a 8 .wr s → Writable a → Answers (.stRelD p pc a v) s fun t => Stored a 8 v s t) ∧
      (∀ size v, (Open w a size .rd s → Clean a size s → Answers (.pairAccess p pc false a size .rd v) s fun t =>
          t.reply.at' p = { data := s.ld a size } ∧ t = { s with reply := t.reply }) ∧
        (Open w a size .use s → Clean a size s → Answers (.pairAccess p pc false a size .use v) s fun t =>
          t.reply.at' p = { data := s.ld a size } ∧ t = { s with reply := t.reply }) ∧
        (Open w a size .wr s → Writable a → Answers (.pairAccess p pc false a size .wr v) s fun t => Stored a size v s t) ∧
        (∀ k g, s.windowGrant w.slice = some (k, g) → a + size - 1 < g.count * 0x1000 → a < g.count * 0x1000 →
          let b := windowAddr g.first + a
          (Open w b size .rd s → Clean b size s → Answers (.pairAccess p pc true a size .rd v) s fun t =>
            t.reply.at' p = { data := s.ld b size } ∧ t = { s with reply := t.reply }) ∧
          (Open w b size .wr s → Writable b → Answers (.pairAccess p pc true a size .wr v) s fun t =>
            Stored b size v s t)))) ∧
    (∀ (p : Fin 12) (pc : BitVec 64) (a size v : Nat) (virt : Bool) (r : Right), s.runningOn p = none →
      Answers (.pairAccess p pc virt a size r v) s fun t => t = s) ∧
    (∀ (w : Who) (a size v : Nat), s.stalled w = false → Open w a size .wr s → Writable a →
      Answers (.registerWrite w a size v) s fun t => Stored a size v s t) ∧
    (∀ (w : Who) (a size v : Nat), s.stalled w = false → Open w a size .wr s → region a = 2 →
      Answers (.registerWrite w a size v) s fun t => t.mem = s.mem ∧ (t.reply.at' w.master).viol = true)

/-- R31, R33, R40, R48: a write of a plain register puts the value; the low word of a pair read latches the high word for
that master, whose read then answers the latched value; a low word written waits for the high word, and both take effect
together; a word written to a committed register lands in its shadow and marks the instance pending. -/
def Obligations.RegisterWords : Prop :=
  ∀ (w : Who) (a : Nat) (v : Word) (s : State), s.Canonical →
    (a ∈ [TIME_SET_NS, TIME_STEP_NS, TIME_STEP_SEC, TIME_RTC_OFS, TIME_BM_QUAL, TIME_BM_PRIO] → Sup w 1 s →
      Answers (.registerWrite w a 4 v.toNat) s fun t => t.rd a = v.toNat ∧ RegsBut [a] s t ∧ OnlyRegs s t) ∧
    (isReg a = true → a % 4 = 0 → Reaches w (blkOf a) s → a ≠ BKD_RTC_LO → (s.mayRead w (blkOf a) (offOf a)).1 = true →
      (isLow (blkOf a) (offOf a) = true → Answers (.lowWordRead w a) s fun t =>
        t.reply.at' w.master = { data := s.regVal w.master a } ∧
        t.readLatch = s.readLatch.put (bank w.master a) (some (s.regVal w.master (a + 4))) ∧
        t = { s with reply := t.reply, readLatch := t.readLatch }) ∧
      (isLow (blkOf a) (offOf a) = false → isHigh (blkOf a) (offOf a) = true → a ≠ TIME_NOW_NS → a ≠ BKD_CAL0 →
        ∀ x, s.readLatch.at' (bank w.master (a - 4)) = some x → Answers (.highWordRead w a) s fun t =>
          t.reply.at' w.master = { data := x } ∧ t.readLatch = s.readLatch.put (bank w.master (a - 4)) none ∧
          t = { s with reply := t.reply, readLatch := t.readLatch })) ∧
    (a ∈ [TIME_MASTER_ID_LO, TIME_BM_ID_LO, TIME_BM_GM_LO] → Sup w 1 s →
      (Answers (.lowWordWrite w a v) s fun t =>
        t.writeLatch = s.writeLatch.put (bank w.master a) (some v.toNat) ∧
        t = { s with reply := t.reply, writeLatch := t.writeLatch }) ∧
      (∀ lo : Word, s.writeLatch.at' (bank w.master a) = some lo.toNat → Answers (.highWordWrite w (a + 4) v) s fun t =>
        t.rd a = lo.toNat ∧ t.rd (a + 4) = v.toNat ∧ RegsBut [a, a + 4] s t ∧
        t.writeLatch = s.writeLatch.put (bank w.master a) none ∧
        t = { s with regs := t.regs, reply := t.reply, writeLatch := t.writeLatch })) ∧
    (∀ r : RegRow, isReg a = true → a % 4 = 0 → Reaches w (blkOf a) s → rowAt (blkOf a) (offOf a) = some r → r.acc = .RWC →
      banked (blkOf a) (offOf a) = false → rxWord (blkOf a) (offOf a) = none → isLow (blkOf a) (offOf a) = false →
      isHigh (blkOf a) (offOf a) = false → s.cmdWrite w a v.toNat = none →
      (s.mayWrite w (blkOf a) (offOf a)).1 = true → s.locked (blkOf a) (instOf (blkOf a) (offOf a)) = false →
      Answers (.shadowWrite w a v) s fun t =>
        t.rd (shadow (blockBase (blkOf a) + offOf a)) = (v.toNat &&& r.mask) % 2 ^ 32 ∧
        t.isPending (blkOf a) (instOf (blkOf a) (offOf a)) = true ∧
        RegsBut [shadow (blockBase (blkOf a) + offOf a), pendingReg (blkOf a) (instOf (blkOf a) (offOf a))] s t ∧
        OnlyRegs s t)

/-- R41, R42, R203: a doorbell of its own master starts a fence and shows it busy; a fence instruction stalls its pair; the
completion of either ends it; MARK.WAIT waits while its word is unchanged and wakes with the word when it differs. -/
def Obligations.Fences : Prop :=
  ∀ (s : State), s.Canonical →
    (∀ (w : Who) (n : Fin 13), w.master = n → Sup w 0 s → s.bit (SYS_FENCE_STAT n) 0 = false →
      ∀ ck ∈ [(Instr.doorbellFenceEngine w n, 1), (Instr.doorbellFencePoint w n, 2), (Instr.doorbellFenceNet w n, 3),
          (Instr.doorbellFenceAll w n, 7)],
        Answers ck.1 s fun t => t.rd (SYS_FENCE_STAT n) = 1 ∧ t.door = s.door.put n ck.2 ∧
          RegsBut [SYS_FENCE_STAT n] s t ∧ t = { s with regs := t.regs, reply := t.reply, door := t.door }) ∧
    (∀ (p : Fin 12) (n : Nat), s.runningOn p = some n → s.stalled (pairWho p n) = false →
      ∀ ck ∈ [(Instr.fenceEngine p, 1), (Instr.fencePoint p, 2), (Instr.fenceNet p, 3), (Instr.fenceAll p, 7)],
        Answers ck.1 s fun t => t = { s with stall := s.stall.put p ck.2 }) ∧
    (∀ m : Fin 13, (Answers (.fenceComplete m false) s fun t => t = { s with stall := s.stall.put m 0 }) ∧
      (s.door.at' m ≠ 0 → Answers (.fenceComplete m true) s fun t =>
        t.bit (SYS_FENCE_STAT m) 0 = false ∧ t.bit (SYS_FENCE_STAT m) 1 = true ∧ RegsBut [SYS_FENCE_STAT m] s t ∧
        t = { s with regs := t.regs, door := s.door.put m 0 })) ∧
    (∀ (p : Fin 12) (pc : BitVec 64) (n a : Nat) (v : Word), s.runningOn p = some n → s.stalled (pairWho p n) = false →
      Open (pairWho p n) a 4 .rd s → Clean a 4 s → s.ld a 4 / 8 = v.toNat / 8 →
      (∀ ps, (s.sl n).pass = some ps → s.passDue ps = false) → Answers (.markWait p pc a v) s fun t =>
        t.slices = s.slices.mod n (fun sl => { sl with waitAt := some (a, v.toNat), timeout := false }) ∧
        t = { s with reply := t.reply, slices := t.slices }) ∧
    (∀ (p : Fin 12) (n a v : Nat), s.runningOn p = some n → (s.sl n).waitAt = some (a, v) →
      s.markWord p a / 8 ≠ v / 8 → Answers (.markWaitWake p) s fun t =>
        t.slices = s.slices.mod n (fun sl => { sl with waitAt := none, timeout := false }) ∧
        t.reply.at' p = { data := s.markWord p a } ∧ t = { s with reply := t.reply, slices := t.slices })

/-- A commit has completed in a block (R525): one more, at grid point `gp` of reference `ref`. -/
def Sys2Proof.Claims.Completes (b ref gp : Nat) (empty atOnce : Bool) (s t : State) : Prop :=
  t.fld (commitStat b) 31 24 = (s.fld (commitStat b) 31 24 + 1) % 256 ∧ t.fld (commitStat b) 19 16 = ref % 16 ∧
    t.fld (commitStat b) 15 9 = gp % 128 ∧ t.bit (commitStat b) 1 = empty ∧ t.bit (commitStat b) 2 = atOnce

/-- The shadows of an instance have become its values, and none is pending. -/
def Sys2Proof.Claims.Taken (b i : Nat) (s t : State) : Prop :=
  t.isPending b i = false ∧ ∀ a ∈ rwcAddrs b i, t.rd a = s.rd (shadow a)

/-- The working state of instance `i` has been reset (R35): its values are as before, a commit that waited for it is discarded
and its shadows return to the values; no commit completes. -/
def Sys2Proof.Claims.Restarted (b i : Nat) (s t : State) : Prop :=
  (∀ a ∈ rwcAddrs b i, t.rd a = s.rd a) ∧ (t.stagedOf b i).waits = [] ∧ (t.stagedOf b i).coord = false ∧
    ((s.stagedOf b i).waits ≠ [] ∨ s.locked b i = true →
      t.isPending b i = false ∧ ∀ a ∈ rwcAddrs b i, t.rd (shadow a) = s.rd a) ∧
    ((s.stagedOf b i).waits = [] → s.locked b i = false →
      t.isPending b i = s.isPending b i ∧ ∀ a ∈ rwcAddrs b i, t.rd (shadow a) = s.rd (shadow a)) ∧
    t.fld (commitStat b) 31 1 = s.fld (commitStat b) 31 1 ∧
    (b = 2 → t.refState i = 1 ∧ t.rd (WEFT_REF_FREQ i) = s.nominal i % 2 ^ 32 ∧ (t.weftOf i).seq = 0) ∧
    (b = 3 → t.chState i = 0 ∧ (t.ch i).nextIdx = 0 ∧ (t.ch i).win = []) ∧ (b = 5 → (t.psuOf i).win = []) ∧
    (b = 6 → (t.dzeOf i).win = [] ∧ (t.dzeOf i).ins = [] ∧ (t.dzeOf i).waits = [] ∧
      (s.zSpan i = true → t.bit (DZE_Z_STAT i) 2 = true ∨ s.zLocal i = true)) ∧
    (b = 9 → (t.pubOf i).due = none ∧ (t.pubOf i).renew = true) ∧ (b = 13 → t.bit (CAS_REF_STAT i) 0 = false) ∧
    (b = 14 → s.recState i ≠ 0 → (t.recOf i).open_ = none) ∧ (b = 15 → t.loopState i = 0 ∧ (t.loopOf i).d = 0)

/-- R35, R47, R49, R52, R525: a commit of an instance whose reference runs waits for a grid point, and shows its block busy; on
a disabled instance it takes the shadows and completes at once; a commit of all waits for every instance with pending shadows,
and completes at once, empty, where there is none; an activation takes the shadows at the grid point that has come and
completes the commit, as empty where nothing was pending; a reset restarts the enabled instances it names and discards what
waits for them. That a refused value leaves the shadows is stated of no form here. -/
def Obligations.Commits : Prop :=
  ∀ (w : Who) (b : Fin 24) (i : Fin 65536) (s : State), s.Canonical → hasRwc b = true →
    (Reaches w b s → s.mayInst w b i = true → i < instCount b → (s.commitNeeds b i).all (fun n => s.may w n.1 n.2.1 n.2.2) = true →
      (s.atOnce b i = false → Answers (.commitInstance w b i) s fun t =>
        t.staged = s.staged.put (stagedKey b i) { s.stagedOf b i with
          waits := (s.stagedOf b i).waits ++ [{ at_ := s.clk, found := s.isPending b i }], slice := w.slice } ∧
        t.bit (commitStat b) 0 = true ∧ RegsBut [commitStat b] s t ∧
        t = { s with regs := t.regs, reply := t.reply, staged := t.staged }) ∧
      (s.instOn b i = false → (s.stagedOf b i).waits = [] → s.isPending b i = true → s.commitRefused b i = false →
        b.val ≠ 7 → Answers (.commitInstance w b i) s fun t =>
          Taken b i s t ∧ Completes b (s.refBind b i) 0 false true s t ∧ t.bit (stageErr b) 3 = true) ∧
      (s.atOnce b i = true → (s.stagedOf b i).waits = [] → s.isPending b i = false → Answers (.commitInstance w b i) s fun t =>
        Completes b (s.refBind b i) 0 true true s t ∧ t.bit (stageErr b) 3 = true ∧
        RegsBut [commitStat b, stageErr b] s t)) ∧
    (Sup w b s → s.pendingOf b = [] → Answers (.commitAll w b) s fun t =>
      Completes b 0 0 true true s t ∧ Wrote [commitStat b] s t) ∧
    (Sup w b s → s.pendingOf b ≠ [] → (∀ k ∈ s.pendingOf b, s.atOnce b k = false) → Answers (.commitAll w b) s fun t =>
      (∀ k ∈ s.pendingOf b, (t.stagedOf b k).waits =
        (s.stagedOf b k).waits ++ [{ at_ := s.clk, found := true, group := s.nextGroup b }]) ∧
      t.bit (commitStat b) 0 = true ∧ RegsBut [commitStat b] s t ∧
      t = { s with regs := t.regs, reply := t.reply, staged := t.staged }) ∧
    (∀ c, s.atOnce b i = false → s.commitPoint (s.refBind b i) c = true →
      ((s.stagedOf b i).waits = [{ at_ := c, found := false }] → Answers (.commitActivation b i) s fun t =>
        (t.stagedOf b i).waits = [] ∧ Completes b (s.refBind b i) (s.lastIdx (s.refBind b i)) true false s t ∧
        RegsBut [commitStat b] s t ∧ t = { s with regs := t.regs, staged := t.staged }) ∧
      ((s.stagedOf b i).waits = [{ at_ := c, found := true }] → s.isPending b i = true → s.commitRefused b i = false →
        b.val ≠ 7 → Answers (.commitActivation b i) s fun t =>
          (t.stagedOf b i).waits = [] ∧ Taken b i s t ∧
          Completes b (s.refBind b i) (s.lastIdx (s.refBind b i)) false false s t)) ∧
    ((s.stagedOf b i).waits ≠ [] → s.atOnce b i = false → (∀ x ∈ (s.stagedOf b i).waits, s.commitPoint (s.refBind b i) x.at_ = false) →
      Answers (.commitActivation b i) s fun t =>
        (t.stagedOf b i).waits = (s.stagedOf b i).waits ∧ RegsBut [commitStat b] s t) ∧
    (Reaches w b s → s.mayInst w b i = true → hasReset b = true → i < instCount b →
      (s.instOn b i = true → Answers (.blkResetInstance w b i) s fun t => Restarted b i s t ∧ (b.val ≠ 3 → b.val ≠ 14 → t.mem = s.mem)) ∧
      (s.instOn b i = false → Answers (.blkResetInstance w b i) s fun t => t = s.ok w)) ∧
    (Sup w b s → hasReset b = true → Answers (.blkResetAll w b) s fun t =>
      (∀ k, k < instCount b → s.instOn b k = true → Restarted b k s t) ∧
      (∀ k, k < instCount b → s.instOn b k = false → t.stagedOf b k = s.stagedOf b k ∧ t.isPending b k = s.isPending b k ∧
        ∀ a ∈ rwcAddrs b k, t.rd a = s.rd a ∧ t.rd (shadow a) = s.rd (shadow a)))

/-- Only the coordinated commit's status and the blocks' commit status changed among registers. -/
def Sys2Proof.Claims.XcommitRegs (s t : State) : Prop :=
  ∀ a, a ≠ SYS_XCOMMIT_STAT → (∀ b, b < 24 → a ≠ commitStat b) → t.rd a = s.rd a

/-- R48, R50–R52, R525, R526: an arm on a running reference takes what the control registers say, shows armed and locks the
pending instances of the participating blocks; one on a reference that is OFF ends at once; one while a commit is armed is
rejected; an abort and a timeout end it and say which; at its grid point it shows where it took effect, every locked instance
takes its shadow, and every participating block completes. (Blocks XEC and PUB, which may refuse values, are left out of the
clause on shadows.) -/
def Obligations.CoordinatedCommit : Prop :=
  ∀ (w : Who) (s : State), s.Canonical →
    let ref := s.fld SYS_XCOMMIT_CTL 3 0
    let mode := s.fld SYS_XCOMMIT_CTL 4 4
    let armed : XCommit := {
      ref := ref, mode := mode, gp := s.fld SYS_XCOMMIT_CTL 11 5, blocks := s.rd SYS_XCOMMIT_BLK, armedAt := s.clk }
    (Sup w 0 s → s.bit SYS_XCOMMIT_STAT 0 = false → s.refState ref ≠ 0 → Answers (.xcommitArm w false) s fun t =>
      t.bit SYS_XCOMMIT_STAT 0 = true ∧ t.xcommit = armed ∧ XcommitRegs s t ∧
      (∀ b, b < 24 → hasRwc b = true → bitAt armed.blocks b = true → ∀ i, s.isPending b i = true → i < instCount b →
        (t.stagedOf b i).coord = true ∧ (t.stagedOf b i).waits = (s.stagedOf b i).waits) ∧
      t = { s with regs := t.regs, reply := t.reply, staged := t.staged, xcommit := t.xcommit }) ∧
    (Sup w 0 s → s.bit SYS_XCOMMIT_STAT 0 = false → s.refState ref = 0 → Answers (.xcommitArm w false) s fun t =>
      t.bit SYS_XCOMMIT_STAT 0 = false ∧ t.bit SYS_XCOMMIT_STAT 2 = true ∧ t.staged = s.staged ∧ RegsBut [SYS_XCOMMIT_STAT] s t) ∧
    (Sup w 0 s → s.bit SYS_XCOMMIT_STAT 0 = true → Answers (.xcommitArm w false) s fun t =>
      t.rd SYS_XCOMMIT_STAT = raised (s.rd SYS_XCOMMIT_STAT) 4 ∧ Wrote [SYS_XCOMMIT_STAT] s t) ∧
    (Sup w 0 s → s.bit SYS_XCOMMIT_STAT 0 = true → Answers (.xcommitAbort w) s fun t =>
      t.bit SYS_XCOMMIT_STAT 0 = false ∧ t.bit SYS_XCOMMIT_STAT 2 = true ∧ XcommitRegs s t ∧
      (∀ b i, i < 65536 → (t.stagedOf b i).coord = false ∧ (t.stagedOf b i).waits = (s.stagedOf b i).waits) ∧
      t = { s with regs := t.regs, reply := t.reply, staged := t.staged }) ∧
    (s.bit SYS_XCOMMIT_STAT 0 = true → s.xcommit.mode = 1 → 256 ≤ s.xcommit.issued →
      (256 < s.xcommit.issued ∨ s.lastIdx s.xcommit.ref ≠ s.xcommit.gp) → Answers .xcommitTimeout s fun t =>
        t.bit SYS_XCOMMIT_STAT 0 = false ∧ t.bit SYS_XCOMMIT_STAT 3 = true ∧ XcommitRegs s t ∧
        t = { s with regs := t.regs, staged := t.staged }) ∧
    (s.bit SYS_XCOMMIT_STAT 0 = true → s.xcommit.mode = 0 ∨ s.xcommit.issued < 256 → Answers .xcommitTimeout s fun t => t = s) ∧
    (s.bit SYS_XCOMMIT_STAT 0 = true → s.commitPoint s.xcommit.ref s.xcommit.armedAt = true →
      s.xcommit.mode = 0 ∨ s.lastIdx s.xcommit.ref = s.xcommit.gp ∧ s.xcommit.issued ≤ 256 →
      Answers .xcommitActivation s fun t =>
        let gp := s.lastIdx s.xcommit.ref
        t.bit SYS_XCOMMIT_STAT 0 = false ∧ t.bit SYS_XCOMMIT_STAT 1 = true ∧
        t.fld SYS_XCOMMIT_STAT 15 12 = s.xcommit.ref % 16 ∧ t.fld SYS_XCOMMIT_STAT 11 5 = gp ∧
        (∀ b ∈ s.xBlocks, b ≠ 7 → b ≠ 9 →
          Completes b s.xcommit.ref gp (!(List.range (instCount b)).any (fun i => s.locked b i && s.isPending b i)) false s t ∧
          ∀ i, i < instCount b → s.locked b i = true → s.isPending b i = true → Taken b i s t))

/-- R209, R215, R216, R218: a grant that no condition refuses enters the table with the next sequence number; a refused
one changes nothing but the status; a revoked one is revoking and the command busy until its completion clears it. -/
def Obligations.Grants : Prop :=
  ∀ (w : Who) (g : Fin 4096) (s : State), s.Canonical →
    (Sup w 7 s → s.bit XEC_GNT_STAT 0 = false → s.createResult g s.stagedGrant = 0 → Answers (.grantCreate w g) s fun t =>
      t.grants = s.grants.put g { s.stagedGrant with seqNo := (s.grantSeq + 1) % 2 ^ 32 } ∧
      t.grantSeq = (s.grantSeq + 1) % 2 ^ 32 ∧ t.rd XEC_GNT_STAT = g * 16 ∧ RegsBut [XEC_GNT_STAT] s t ∧
      t = { s with regs := t.regs, reply := t.reply, grants := t.grants, grantSeq := t.grantSeq }) ∧
    (Sup w 7 s → s.bit XEC_GNT_STAT 0 = false → s.createResult g s.stagedGrant ≠ 0 → Answers (.grantCreate w g) s fun t =>
      t.rd XEC_GNT_STAT = g * 16 + s.createResult g s.stagedGrant * 2 ∧ RegsBut [XEC_GNT_STAT] s t ∧ OnlyRegs s t) ∧
    (Sup w 7 s → s.bit XEC_GNT_STAT 0 = false → (s.grants.at' g).valid = true → s.inflight (s.grants.at' g) = false →
      Answers (.grantRevoke w g) s fun t =>
        t.grants = s.grants.put g { s.grants.at' g with revoking := true } ∧ t.rd XEC_GNT_STAT = g * 16 + 1 ∧
        t = { s with regs := t.regs, reply := t.reply, grants := t.grants, staged := t.staged }) ∧
    ((s.grants.at' g).revoking = true → Answers (.grantRevokeComplete g) s fun t =>
      t.rd XEC_GNT_STAT = g * 16 ∧ RegsBut [XEC_GNT_STAT] s t ∧ t = { s with regs := t.regs, grants := s.grants.put g {} })

/-- R83, R86–R89: each change of a reference's state that these commands stand for, with its state and source codes, its
event and its count, and nothing else but that reference's working state; without its cause nothing changes. The counts of
grid points that the causes rest on are kept as grid points are issued. -/
def Obligations.WeftTransitions : Prop :=
  ∀ (r : Fin 16) (s : State), s.Canonical →
    let w := s.weftOf r
    let st := s.rd (WEFT_REF_STAT r)
    let ev := s.rd (WEFT_REF_EVT r)
    (∀ phase, s.refState r = 1 → bitAt st 8 = true → 128 ≤ w.inBand → Answers (.refAcquired r false phase) s fun t =>
      t.rd (WEFT_REF_STAT r) = setBits (setBits st 2 0 2) 4 3 1 ∧ t.rd (WEFT_REF_EVT r) = raised (raised ev 0) 7 ∧
      (t.weftOf r).realign = true ∧ (t.weftOf r).angle % 2 ^ 16 = (phase.toNat / 512 + 1) * 512 % 2 ^ 16 ∧
      (∀ k, k ≠ r.val → t.weftOf k = s.weftOf k) ∧ RegsBut [WEFT_REF_STAT r, WEFT_REF_EVT r] s t ∧
      t = { s with regs := t.regs, weft := t.weft, cen := { s.cen with skipped := t.cen.skipped } }) ∧
    (∀ phase, s.refState r = 1 → s.bEn r = true → bitAt st 9 = true → 384 ≤ w.noPrimary → 128 ≤ w.bInBand →
      Answers (.refAcquired r true phase) s fun t =>
      t.rd (WEFT_REF_STAT r) = setBits (setBits st 2 0 4) 4 3 2 ∧ t.rd (WEFT_REF_EVT r) = raised (raised ev 0) 7 ∧
      t.fld (WEFT_REF_CNT r) 31 16 = incSat 16 (s.fld (WEFT_REF_CNT r) 31 16) ∧
      t.fld (WEFT_REF_CNT r) 15 0 = s.fld (WEFT_REF_CNT r) 15 0 ∧ (t.weftOf r).realign = true ∧
      RegsBut [WEFT_REF_STAT r, WEFT_REF_EVT r, WEFT_REF_CNT r] s t ∧
      t = { s with regs := t.regs, weft := t.weft, cen := { s.cen with skipped := t.cen.skipped } }) ∧
    (s.refState r = 2 ∨ s.refState r = 6 → s.lossTime r ≤ w.lossRun ∨ s.lossTime r ≤ w.phRun →
      Answers (.primaryLost r) s fun t =>
      t.rd (WEFT_REF_STAT r) = lowered (setBits (setBits st 2 0 3) 4 3 0) 5 ∧ t.rd (WEFT_REF_EVT r) = raised ev 1 ∧
      t.fld (WEFT_REF_CNT r) 15 0 = incSat 16 (s.fld (WEFT_REF_CNT r) 15 0) ∧
      t.fld (WEFT_REF_CNT r) 31 16 = s.fld (WEFT_REF_CNT r) 31 16 ∧
      RegsBut [WEFT_REF_STAT r, WEFT_REF_EVT r, WEFT_REF_CNT r] s t ∧
      t = { s with regs := t.regs, weft := s.weft.put r { w with
        held := min (max (if s.lossTime r ≤ w.lossRun then w.lossFreq else w.phFreq) (40 * 2 ^ 24)) (70 * 2 ^ 24), holdRun := 0, pValidRun := 0, lossRun := 0, phRun := 0
        pullDone := true } }) ∧
    (s.refState r = 3 → s.holdTime r ≤ w.holdRun → (s.bEn r && bitAt st 9) = false → Answers (.holdTimeExpiry r) s fun t =>
      t.rd (WEFT_REF_STAT r) = lowered (setBits (setBits st 2 0 5) 4 3 3) 5 ∧ t.rd (WEFT_REF_EVT r) = raised ev 3 ∧
      t.fld (WEFT_REF_CNT r) 31 16 = incSat 16 (s.fld (WEFT_REF_CNT r) 31 16) ∧
      Wrote [WEFT_REF_STAT r, WEFT_REF_EVT r, WEFT_REF_CNT r] s t) ∧
    (∀ x ∈ [(Instr.holdTimeExpiry r, decide (s.refState r = 3 ∧ s.holdTime r ≤ w.holdRun) && bitAt st 9),
        (.backupRestored r, decide (s.refState r = 5 ∧ s.restoreTime r ≤ w.bValidRun ∧ w.pValidRun < s.restoreTime r))],
      x.2 = true → s.bEn r = true → Answers x.1 s fun t =>
      t.rd (WEFT_REF_STAT r) = raised (setBits (setBits st 2 0 4) 4 3 2) 5 ∧ t.rd (WEFT_REF_EVT r) = raised ev 2 ∧
      t.fld (WEFT_REF_CNT r) 31 16 = incSat 16 (s.fld (WEFT_REF_CNT r) 31 16) ∧
      RegsBut [WEFT_REF_STAT r, WEFT_REF_EVT r, WEFT_REF_CNT r] s t ∧
      t = { s with regs := t.regs, weft := s.weft.put r { w with pullDone := false, bLossRun := 0, bPhRun := 0 } }) ∧
    (s.refState r = 4 → s.lossTime r ≤ w.bLossRun ∨ s.lossTime r ≤ w.bPhRun → Answers (.backupLost r) s fun t =>
      t.rd (WEFT_REF_STAT r) = lowered (setBits (setBits st 2 0 5) 4 3 3) 5 ∧ t.rd (WEFT_REF_EVT r) = raised ev 3 ∧
      t.fld (WEFT_REF_CNT r) 31 16 = incSat 16 (s.fld (WEFT_REF_CNT r) 31 16) ∧
      RegsBut [WEFT_REF_STAT r, WEFT_REF_EVT r, WEFT_REF_CNT r] s t ∧
      t = { s with regs := t.regs, weft := s.weft.put r { w with bValidRun := 0, bLossRun := 0, bPhRun := 0 } }) ∧
    (s.refState r = 3 ∨ s.refState r = 4 ∨ s.refState r = 5 → s.restoreTime r ≤ w.pValidRun →
      Answers (.primaryRestored r) s fun t =>
      t.rd (WEFT_REF_STAT r) = raised (setBits (setBits st 2 0 6) 4 3 1) 5 ∧ RegsBut [WEFT_REF_STAT r] s t ∧
      t = { s with regs := t.regs, weft := s.weft.put r { w with
        pullDone := false, inBand := 0, lossRun := 0, phRun := 0 } }) ∧
    (s.refState r = 6 → 128 ≤ w.inBand → Answers (.returnComplete r) s fun t =>
      t.rd (WEFT_REF_STAT r) = lowered (setBits (setBits st 2 0 2) 4 3 1) 5 ∧ t.rd (WEFT_REF_EVT r) = raised ev 4 ∧
      Wrote [WEFT_REF_STAT r, WEFT_REF_EVT r] s t) ∧
    (∀ phase, ∀ x ∈ [(Instr.refAcquired r false phase, decide (s.refState r = 1) && bitAt st 8 && decide (128 ≤ w.inBand)),
        (.refAcquired r true phase, decide (s.refState r = 1) && s.bEn r && bitAt st 9 && decide (384 ≤ w.noPrimary ∧ 128 ≤ w.bInBand)),
        (.primaryLost r, decide ((s.refState r = 2 ∨ s.refState r = 6) ∧ (s.lossTime r ≤ w.lossRun ∨ s.lossTime r ≤ w.phRun))),
        (.holdTimeExpiry r, decide (s.refState r = 3 ∧ s.holdTime r ≤ w.holdRun)),
        (.backupLost r, decide (s.refState r = 4 ∧ (s.lossTime r ≤ w.bLossRun ∨ s.lossTime r ≤ w.bPhRun))),
        (.primaryRestored r, decide ((s.refState r = 3 ∨ s.refState r = 4 ∨ s.refState r = 5) ∧ s.restoreTime r ≤ w.pValidRun)),
        (.backupRestored r, decide (s.refState r = 5 ∧ s.restoreTime r ≤ w.bValidRun ∧ w.pValidRun < s.restoreTime r) && s.bEn r),
        (.returnComplete r, decide (s.refState r = 6 ∧ 128 ≤ w.inBand))],
      x.2 = false → Answers x.1 s fun t => t = s)

/-- The registers a grid point writes at its reference. -/
def Sys2Proof.Claims.gridRegs (r : Nat) : List Nat :=
  [WEFT_REF_STAT r, WEFT_REF_EVT r, WEFT_REF_OFS r, WEFT_REF_FREQ r, WEFT_REF_ROCOF r, WEFT_REF_ANGLE_LO r,
   WEFT_REF_ANGLE_HI r, WEFT_REF_NEXT_NS r, WEFT_REF_NEXT_SEC r]

/-- R78, R81, R82, R84, R89, R91, R92: a due grid point takes the next sequence number and the next 512 ac of angle, writes
its record, and shows the frequency its state follows; in TRACK the interval takes up at most 4 ac of the phase error, and a
rate of change past 20 Hz/s for a cycle is limited. The point is then opened at the resampler, counted for the commits that
wait for one, and sent by the dealer to its stack. `u` is the state before those; `v` the reference's working state. What the
estimator measures is an operand; that a point takes up at most 4 ac is the model's reading of R82 (log
entry 52). Without its cause nothing changes. -/
def Obligations.GridPoint : Prop :=
  ∀ (r : Fin 16) (p b : SourceMeas) (dual : Bool) (s : State), s.Canonical →
    (s.power.cx = false ∨ s.refState r = 0 ∨ s.gridDue r = false → Answers (.gridPointIssue r p b dual) s fun t => t = s) ∧
    (s.power.cx = true → s.refState r ≠ 0 → s.gridDue r = true →
    let w := s.weftOf r
    let k := (w.seq + 1) % 2 ^ 32
    let tg := (w.next + 2 ^ 7) / 2 ^ 8
    Answers (.gridPointIssue r p b dual) s fun t => ∃ (u : State) (v : Weft),
      t = (let x := u.openPoint r k (w.angle / 512) tg w.realign dual
           if (x.weftOf r).seq = w.seq then x else (x.stagingIssue r).angleSend r (w.angle / 512) tg) ∧
      (∃ m, u.weft = FMap.put m r v) ∧ v.seq = k ∧ v.angle = (w.angle + 512) % 2 ^ 48 ∧ v.lastIssue = s.clk ∧
      v.next = w.next + v.interval ∧ v.realign = false ∧
      v.offset = w.offset - clampI (min (max (s.fld WEFT_SLEW 15 0) 100) 20000 : Nat) w.offset ∧
      (∀ j, j ≠ r.val → u.weftOf j = s.weftOf j) ∧
      u.rd (WEFT_REF_ANGLE_LO r) = w.angle % 2 ^ 32 ∧ u.rd (WEFT_REF_ANGLE_HI r) = w.angle / 2 ^ 32 % 2 ^ 16 ∧
      u.bit (WEFT_REF_STAT r) 8 = s.srcValid r false p ∧ u.bit (WEFT_REF_STAT r) 9 = s.srcValid r true b ∧
      (s.refState r = 2 → p.measured = true →
        let roc := rocofOf (ontoFreqs p w.pFreqs)
        (-(20 * 2 ^ 16) ≤ roc → roc ≤ 20 * 2 ^ 16 →
          u.rd (WEFT_REF_FREQ r) = p.freq % 2 ^ 32 ∧ u.rd (WEFT_REF_ROCOF r) = unsigned 32 roc ∧
          u.bit (WEFT_REF_STAT r) 7 = false ∧
          v.interval = gridInterval ((p.freq : Int) + p.freq * clampI 4 p.phase / 512).toNat roc w.interval) ∧
        (20 * 2 ^ 16 < roc → 127 ≤ w.slewRun → u.bit (WEFT_REF_STAT r) 7 = true ∧ u.rd (WEFT_REF_ROCOF r) = 20 * 2 ^ 16 ∧
          u.rd (WEFT_REF_FREQ r) = (s.rd (WEFT_REF_FREQ r) + 20 * 2 ^ 16 * w.interval / 10 ^ 9) % 2 ^ 32 ∧
          (w.slewRun = 127 → u.bit (WEFT_REF_EVT r) 6 = true))) ∧
      (s.refState r = 3 → u.rd (WEFT_REF_FREQ r) = w.held % 2 ^ 32 ∧ u.rd (WEFT_REF_ROCOF r) = 0 ∧
        v.interval = gridInterval w.held 0 w.interval) ∧
      (s.refState r = 1 ∨ s.refState r = 5 → u.rd (WEFT_REF_FREQ r) = s.nominal r ∧ u.rd (WEFT_REF_ROCOF r) = 0 ∧
        v.interval = gridInterval (s.nominal r) 0 w.interval) ∧
      (let a := s.recAt r k
       u.ld a 4 = w.angle % 2 ^ 32 ∧ u.ld (a + 8) 4 = tg % 10 ^ 9 ∧ u.ld (a + 12) 4 = tg / 10 ^ 9 % 2 ^ 32 ∧
       u.ld (a + 16) 4 = u.rd (WEFT_REF_FREQ r) ∧ u.ld (a + 20) 4 = u.rd (WEFT_REF_ROCOF r) ∧
       u.ld (a + 28) 4 = k ∧ ∀ x, x < a ∨ a + 32 ≤ x → u.rdByte x = s.rdByte x) ∧
      RegsBut (gridRegs r) s u ∧
      u = { s with regs := u.regs, mem := u.mem, poison := u.poison, weft := u.weft
                   xcommit := { s.xcommit with issued := u.xcommit.issued } })

/-- A census has latched into image `m` (R94, R98): the time, the counters of every powered block and the angles of the
references, and its registers say so. -/
def Sys2Proof.Claims.Latched (number : Nat) (stack grid late : Bool) (m : CenImage) (s t : State) : Prop :=
  m.number = number ∧ m.stack = stack ∧ m.grid = grid ∧ m.late = late ∧ m.sec = s.time.sec ∧ m.ns = s.time.ns ∧
    m.absent = s.absentBlocks ∧ m.sections.map (·.blk) = censusBlocks.filter s.blkOn ∧
    (∀ x ∈ m.sections, ∀ e ∈ x.entries, e.2 = s.rd (blkBase x.blk + e.1)) ∧
    t.bit CEN_STAT 1 = true ∧ t.bit CEN_STAT 2 = false ∧ t.bit CEN_STAT 3 = late ∧ t.bit CEN_STAT 4 = stack ∧
    t.rd CEN_LAT_NS = s.time.ns % 2 ^ 32 ∧ t.rd CEN_LAT_SEC = s.time.sec % 2 ^ 32 ∧
    RegsBut [CEN_STAT, CEN_LAT_NS, CEN_LAT_SEC, CEN_LATE] s t ∧ t = { s with regs := t.regs, cen := t.cen }

/-- R94, R96–R99, R102: an arm in the grid form takes the reference, index and number of the schedule; an abort cancels it
and says so; a fire now is latched by the next tick, and the armed instant when it has come: the counters of every powered
block with the time, or a refusal while an image is being written; the completed image is in its slot, with its completion
word. -/
def Obligations.Census : Prop :=
  ∀ (w : Who) (s : State), s.Canonical →
    (Sup w 23 s → s.bit CEN_CTL 0 = true → s.bit CEN_STAT 0 = false → s.bit CEN_SCHED 0 = true →
      s.refState (s.fld CEN_SCHED 7 4) ≠ 0 → Answers (.censusArm w) s fun t =>
        t.rd CEN_STAT = raised (s.rd CEN_STAT) 0 ∧ RegsBut [CEN_STAT] s t ∧
        t = { s with regs := t.regs, reply := t.reply, cen := {
          grid := true, ref := s.fld CEN_SCHED 7 4, gp := s.fld CEN_SCHED 14 8, number := s.fld CEN_SCHED 30 16
          armedAt := s.clk, slot := s.cen.slot, image := s.cen.image, now := s.cen.now } }) ∧
    (Sup w 23 s → s.bit CEN_CTL 0 = true → s.bit CEN_STAT 0 = false → s.bit CEN_SCHED 0 = false →
      s.wallNs ≤ s.cenInstant (s.rd CEN_AT_SEC) (s.rd CEN_AT_NS) → Answers (.censusArm w) s fun t =>
        t.rd CEN_STAT = raised (s.rd CEN_STAT) 0 ∧ RegsBut [CEN_STAT] s t ∧
        t = { s with regs := t.regs, reply := t.reply, cen := {
          sec := s.rd CEN_AT_SEC, ns := s.rd CEN_AT_NS, number := s.fld CEN_SCHED 30 16, armedAt := s.clk
          slot := s.cen.slot, image := s.cen.image, now := s.cen.now } }) ∧
    (Sup w 23 s → s.bit CEN_STAT 0 = true → Answers (.censusAbort w) s fun t =>
      t.rd CEN_STAT = lowered (s.rd CEN_STAT) 0 ∧ t.rd CEN_ERR = raised (s.rd CEN_ERR) 3 ∧ Wrote [CEN_STAT, CEN_ERR] s t) ∧
    (Sup w 23 s → s.bit CEN_CTL 0 = true → Answers (.censusFireNow w) s fun t =>
      t = { s with reply := t.reply, cen := { s.cen with now := some (s.fld CEN_SCHED 30 16) } }) ∧
    (Sup w 23 s → s.bit CEN_CTL 0 = false → let f := fun i => Answers i s fun t => t = { s with reply := t.reply }
      f (.censusFireNow w) ∧ f (.censusArm w)) ∧
    (Sup w 23 s → s.bit CEN_CTL 0 = true → s.bit CEN_STAT 0 = true → Answers (.censusArm w) s fun t =>
      t.rd CEN_ERR = raised (s.rd CEN_ERR) 4 ∧ Wrote [CEN_ERR] s t) ∧
    (∀ n, s.cen.now = some n → s.bit CEN_STAT 1 = false → ∃ m, Latched n false false false m s s.censusTick ∧
      s.censusTick.cen = { s.cen with image := some m, now := none }) ∧
    (∀ late ns, s.bit CEN_STAT 0 = true → s.power.nx = true → s.cenDue = some (late, ns) →
      (s.bit CEN_STAT 1 = false → Answers .censusLatch s fun t => ∃ m,
        Latched s.cen.number s.cen.stack s.cen.grid late m s t ∧ t.bit CEN_STAT 0 = false ∧
        t.cen = { s.cen with image := some m }) ∧
      (s.bit CEN_STAT 1 = true → Answers .censusLatch s fun t =>
        t.rd CEN_STAT = lowered (s.rd CEN_STAT) 0 ∧ t.rd CEN_ERR = raised (s.rd CEN_ERR) 2 ∧
        t.rd CEN_REFUSED = incSat 32 (s.rd CEN_REFUSED) ∧ Wrote [CEN_STAT, CEN_ERR, CEN_REFUSED] s t)) ∧
    (s.bit CEN_STAT 0 = false ∨ s.power.nx = false ∨ s.cenDue = none → Answers .censusLatch s fun t => t = s) ∧
    (∀ m, s.cen.image = some m → s.power.nx = true → s.power.mem = true → Answers .censusImageComplete s fun t => ∃ u : State,
      let a := s.base CEN_BUF_LO 23 + s.cen.slot * 0x400000
      t = (if m.stack then u.censusShip a (0x40 + m.body.length) m.number else u) ∧
      u.rdByte a = 0x53 ∧ u.ld (a + 0x3C) 4 = (m.number + 2 ^ 31) % 2 ^ 32 ∧
      (∀ i, i < m.body.length → u.rdByte (a + 0x40 + i) = m.body.getD i 0) ∧
      (∀ x, x < a ∨ a + 0x40 + m.body.length ≤ x → u.rdByte x = s.rdByte x) ∧
      u.bit CEN_STAT 1 = false ∧ u.bit CEN_STAT 2 = true ∧ u.fld CEN_STAT 5 5 = s.cen.slot % 2 ∧
      u.fld CEN_STAT 31 16 = m.number % 2 ^ 16 ∧ u.rd CEN_COUNT = incSat 32 (s.rd CEN_COUNT) ∧
      RegsBut [CEN_STAT, CEN_COUNT] s u ∧ Noted s u ∧
      u = { s with regs := u.regs, mem := u.mem, poison := u.poison, slices := u.slices, red := u.red
                   cen := { s.cen with image := none, slot := 1 - s.cen.slot } })

/-- A frame has left the ingest's input FIFO and changed only the registers listed. -/
def Sys2Proof.Claims.Ingested (rs : List Nat) (s t : State) : Prop :=
  t.rd SIE_RX_FRAMES = incSat 32 (s.rd SIE_RX_FRAMES) ∧ RegsBut (SIE_RX_FRAMES :: rs) s t ∧
    t = { s with regs := t.regs, sieIn := s.sieIn.drop 1 }

/-- A frame of channel `n` is discarded with its cause, which counts towards FAILED (R118); `win`: the window of sequence
numbers then. -/
def Sys2Proof.Claims.Rejected (n cause reg : Nat) (win : SeqWin) (s t : State) : Prop :=
  t.rd SIE_RX_FRAMES = incSat 32 (s.rd SIE_RX_FRAMES) ∧ t.rd reg = incSat 32 (s.rd reg) ∧
    t.rd (SIE_CH_STAT n) = setBits (s.rd (SIE_CH_STAT n)) 19 16 cause ∧
    t.rd (SIE_CH_EVT n) = (if cause = 4 ∨ cause = 5 then raised (s.rd (SIE_CH_EVT n)) 6 else s.rd (SIE_CH_EVT n)) ∧
    RegsBut [SIE_RX_FRAMES, reg, SIE_CH_STAT n, SIE_CH_EVT n] s t ∧
    t = { s with regs := t.regs, sieIn := s.sieIn.drop 1, sie := s.sie.put n { s.ch n with
      win := win, failRun := (s.ch n).failRun + 1, outRun := 0, exitFrame := none } }

/-- R103, R110, R112, R114, R118, R130: a frame at a disabled ingest is only counted; a damaged one and one of no channel are
counted as such; one of another source, without a readable APDU, simulated where that is not accepted, without the
authentication demanded, repeated, stale, or failing a check of its APDU is discarded with its cause; one that passes every
check and holds the awaited sample is counted, and its sample takes the next index; one that lies behind is counted late.
(Frames with a verified tag, and those that hold more than one sample, are left out.) -/
def Obligations.SampledValues : Prop :=
  ∀ (n : Fin 96) (f : RxFrame) (dc : Bool) (dg : List (Fin 256)) (s : State), s.Canonical →
    let p := parseFrame f.octets
    let st := s.chState n
    let on := s.power.cx = true ∧ s.bit SIE_CTL 0 = true
    let mode := s.fld (SIE_CH_CFG n) 12 11
    let srcOk := s.bit (SIE_CH_CFG n) 9 = true → p.src = s.rd (SIE_CH_SRC_LO n) + 2 ^ 32 * s.fld (SIE_CH_SRC_HI n) 15 0
    let dup := dupStep (s.fld (SIE_CH_CFG n) 15 14) p (s.ch n).win f.path
    let check := fun (m : Apdu) => svCheck (s.chAsdus n) (s.chRate n)
      (if s.bit (WEFT_REF_CFG (s.chRef n)) 1 then 60 else 50) (s.chQty n) (s.rd (SIE_CH_SVID n)) (s.rd (SIE_CH_CONFREV n))
      m.sim m.apdu
    (¬on → Answers (.svFrameIngest n f dc dg) s (Ingested [] s)) ∧
    (on → f.bad = true → Answers (.svFrameIngest n f dc dg) s fun t =>
      t.rd (SIE_CH_BADFRM n) = incSat 32 (s.rd (SIE_CH_BADFRM n)) ∧ Ingested [SIE_CH_BADFRM n] s t) ∧
    (on → f.bad = false → s.chActive n = false ∨ (s.ch n).cfgErr = true → Answers (.svFrameIngest n f dc dg) s fun t =>
      t.rd SIE_NO_CHAN = incSat 32 (s.rd SIE_NO_CHAN) ∧ Ingested [SIE_NO_CHAN] s t) ∧
    (on → f.bad = false → s.chActive n = true → (s.ch n).cfgErr = false →
      (¬srcOk → Answers (.svFrameIngest n f dc dg) s (Rejected n 1 (SIE_CH_STRUCT n) (s.ch n).win s)) ∧
      (srcOk → p.etype ≠ 0x88BA ∨ readApdu p.body = none →
        Answers (.svFrameIngest n f dc dg) s (Rejected n 2 (SIE_CH_STRUCT n) (s.ch n).win s)) ∧
      (∀ m, srcOk → p.etype = 0x88BA → readApdu p.body = some m →
        (m.sim = true → s.bit (SIE_CH_CFG n) 10 = false → Answers (.svFrameIngest n f dc dg) s fun t =>
          t.rd (SIE_CH_SIM n) = incSat 32 (s.rd (SIE_CH_SIM n)) ∧ Ingested [SIE_CH_SIM n] s t) ∧
        ((m.sim = true → s.bit (SIE_CH_CFG n) 10 = true) → 2 ≤ mode → f.auth = none →
          Answers (.svFrameIngest n f dc dg) s (Rejected n 4 (SIE_CH_AUTH n) (s.ch n).win s)) ∧
        ((m.sim = true → s.bit (SIE_CH_CFG n) 10 = true) → mode = 0 ∨ mode = 1 ∧ f.auth = none →
          (∀ same, dup.1 = .dup same → Answers (.svFrameIngest n f dc dg) s fun t =>
            t.rd (SIE_CH_DUP n) = incSat 32 (s.rd (SIE_CH_DUP n)) ∧
            t.rd (SIE_CH_EVT n) = (if same then raised (s.rd (SIE_CH_EVT n)) 9 else s.rd (SIE_CH_EVT n)) ∧
            Ingested [SIE_CH_DUP n, SIE_CH_EVT n] s t) ∧
          (dup.1 = .stale → Answers (.svFrameIngest n f dc dg) s fun t =>
            t.rd (SIE_CH_STALE n) = incSat 32 (s.rd (SIE_CH_STALE n)) ∧ Ingested [SIE_CH_STALE n] s t) ∧
          (∀ c, dup.1 = .fresh → check m = .bad c →
            Answers (.svFrameIngest n f dc dg) s (Rejected n c (SIE_CH_STRUCT n) dup.2 s)) ∧
          (∀ a, dup.1 = .fresh → check m = .good [a] →
            let g := (a.cnt + s.chRate n - (s.ch n).expected % s.chRate n) % s.chRate n
            (st = 1 ∧ ((s.ch n).first = true ∨ 2 * g < s.chRate n) ∨
                (st = 2 ∨ st = 3 ∨ st = 4) ∧ (s.ch n).first = false ∧ g = 0 →
              Answers (.svFrameIngest n f false []) s fun t =>
                t.rd SIE_RX_FRAMES = incSat 32 (s.rd SIE_RX_FRAMES) ∧
                t.rd (SIE_CH_FRAMES n) = incSat 32 (s.rd (SIE_CH_FRAMES n)) ∧
                t.chState n = (if st = 1 then 1 else if t.bit (SIE_CH_STAT n) 7 then 4 else 2) ∧ t.chRun n = 0 ∧
                t.fld (SIE_CH_LAST_SMP n) 15 0 = a.cnt % 2 ^ 16 ∧ t.rd (SIE_CH_INDEX n) = (s.ch n).nextIdx % 2 ^ 32 ∧
                (t.ch n).nextIdx = (s.ch n).nextIdx + 1 ∧ (t.ch n).expected = (a.cnt + 1) % s.chRate n ∧
                (t.ch n).failRun = 0 ∧ (t.ch n).lastAcc = s.clk ∧ (t.ch n).win = dup.2 ∧ (t.ch n).first = false ∧
                (∀ k, k ≠ n.val → t.ch k = s.ch k) ∧ LowMem s t ∧
                RegsBut [SIE_RX_FRAMES, SIE_CH_FRAMES n, SIE_CH_LAST_SMP n, SIE_CH_INDEX n, SIE_CH_STAT n, SIE_CH_EVT n,
                  SIE_CH_AGE_MEAN n, SIE_CH_AGE_MAX n] s t ∧
                t = { s with regs := t.regs, mem := t.mem, poison := t.poison, sie := t.sie, openPts := t.openPts
                             sieIn := s.sieIn.drop 1 }) ∧
            (st ≠ 0 → st ≠ 5 → (s.ch n).first = false → s.chRate n ≤ 2 * g → Answers (.svFrameIngest n f false []) s fun t =>
                t.rd (SIE_CH_LATE n) = incSat 32 (s.rd (SIE_CH_LATE n)) ∧
                t.rd (SIE_CH_EVT n) = raised (s.rd (SIE_CH_EVT n)) 8 ∧
                t.rd (SIE_CH_FRAMES n) = s.rd (SIE_CH_FRAMES n) ∧
                RegsBut [SIE_RX_FRAMES, SIE_CH_LATE n, SIE_CH_EVT n] s t ∧
                t = { s with regs := t.regs, sieIn := s.sieIn.drop 1
                             sie := s.sie.put n { s.ch n with win := dup.2, outRun := 0 } })))))

/-- R115–R118, R135: each change of a stream's state, with its event and counts; a missing sample is substituted within
hold_max and resynchronises the channel past it; a stream that leaves the states with output holds no grid point up; without
its cause nothing changes. (Work units without a dual-rail mismatch.) -/
def Obligations.StreamStates : Prop :=
  ∀ (n : Fin 96) (s : State), s.Canonical → s.chActive n = true →
    let st := s.chState n
    let w := s.rd (SIE_CH_STAT n)
    let freed := s.openPts.put (s.chRef n) ((s.pts (s.chRef n)).map (fun p => { p with
      waiting := p.waiting.filter (· ≠ n.val) }))
    (st = 1 → max (s.fld (SIE_CH_TIMING n) 15 8) 1 ≤ (s.ch n).acq → Answers (.streamValid n) s fun t =>
      t.rd (SIE_CH_STAT n) = setBits w 2 0 2 ∧ t.rd (SIE_CH_EVT n) = raised (s.rd (SIE_CH_EVT n)) 0 ∧
      Wrote [SIE_CH_STAT n, SIE_CH_EVT n] s t) ∧
    (st = 1 ∨ st = 2 ∨ st = 3 ∨ st = 4 → (s.ch n).lastAcc + max (s.fld (SIE_CH_TIMING n) 31 20) 1 * tMs ≤ s.clk →
      Answers (.streamAbsent n) s fun t =>
      t.rd (SIE_CH_STAT n) = setBits (setBits w 2 0 0) 15 8 0 ∧ t.rd (SIE_CH_EVT n) = raised (s.rd (SIE_CH_EVT n)) 0 ∧
      RegsBut [SIE_CH_STAT n, SIE_CH_EVT n] s t ∧ LowMem s t ∧
      t = { s with regs := t.regs, mem := t.mem, poison := t.poison, openPts := if st = 1 then s.openPts else freed }) ∧
    (st ≠ 5 → max (s.fld (SIE_CH_TIMING n) 19 16) 1 ≤ (s.ch n).failRun → Answers (.streamFailed n) s fun t =>
      t.rd (SIE_CH_STAT n) = setBits (setBits w 2 0 5) 15 8 0 ∧
      t.rd (SIE_CH_EVT n) = raised (raised (s.rd (SIE_CH_EVT n)) 0) 1 ∧
      t.rd (SIE_CH_RESYNC n) = setBits (s.rd (SIE_CH_RESYNC n)) 31 16 (incSat 16 (s.fld (SIE_CH_RESYNC n) 31 16)) ∧
      RegsBut [SIE_CH_STAT n, SIE_CH_EVT n, SIE_CH_RESYNC n] s t ∧ LowMem s t ∧
      t = { s with regs := t.regs, mem := t.mem, poison := t.poison, openPts := t.openPts
                   sie := s.sie.put n { s.ch n with outRun := 0 } }) ∧
    (st = 5 → 16 ≤ (s.ch n).outRun → (s.ch n).exitFrame = none → Answers (.streamFailedExit n []) s fun t =>
      t.rd (SIE_CH_STAT n) = setBits (setBits (setBits w 2 0 1) 15 8 0) 19 16 0 ∧
      t.rd (SIE_CH_EVT n) = raised (s.rd (SIE_CH_EVT n)) 0 ∧ RegsBut [SIE_CH_STAT n, SIE_CH_EVT n] s t ∧
      t = { s with regs := t.regs, sie := s.sie.put n { s.ch n with
        nextIdx := 0, first := true, acq := 0, insts := [], frz := [], ages := [], maxAge := none, outRun := 0, exitFrame := none } }) ∧
    (st = 5 → 16 ≤ (s.ch n).outRun → ∀ f a, (s.ch n).exitFrame = some f → f.asdus = [a] →
      Answers (.streamFailedExit n []) s fun t =>
        t.chState n = 1 ∧ t.rd (SIE_CH_FRAMES n) = incSat 32 (s.rd (SIE_CH_FRAMES n)) ∧
        t.fld (SIE_CH_LAST_SMP n) 15 0 = a.cnt % 2 ^ 16 ∧ (t.ch n).nextIdx = 1 ∧
        (t.ch n).expected = (a.cnt + 1) % s.chRate n ∧ (t.ch n).failRun = 0 ∧ LowMem s t ∧
        RegsBut [SIE_CH_FRAMES n, SIE_CH_LAST_SMP n, SIE_CH_INDEX n, SIE_CH_STAT n, SIE_CH_EVT n, SIE_CH_AGE_MEAN n,
          SIE_CH_AGE_MAX n] s t) ∧
    (st = 2 ∨ st = 3 ∨ st = 4 → (s.ch n).missAt ≤ s.clk → s.chRun n < s.holdMax n → Answers (.sampleMissing n []) s fun t =>
      t.rd (SIE_CH_SUBST n) = incSat 32 (s.rd (SIE_CH_SUBST n)) ∧ t.bit (SIE_CH_EVT n) 3 = true ∧
      t.chState n = (if st = 2 then 3 else st) ∧ t.chRun n = s.chRun n + 1 ∧
      t.rd (SIE_CH_INDEX n) = (s.ch n).nextIdx % 2 ^ 32 ∧ t.fld (SIE_CH_LAST_SMP n) 15 0 = (s.ch n).expected % 2 ^ 16 ∧
      (t.ch n).nextIdx = (s.ch n).nextIdx + 1 ∧ (t.ch n).expected = ((s.ch n).expected + 1) % s.chRate n ∧ LowMem s t ∧
      RegsBut [SIE_CH_SUBST n, SIE_CH_EVT n, SIE_CH_STAT n, SIE_CH_INDEX n, SIE_CH_LAST_SMP n] s t ∧
      t = { s with regs := t.regs, mem := t.mem, poison := t.poison, sie := t.sie, openPts := t.openPts }) ∧
    (st = 2 ∨ st = 3 ∨ st = 4 → (s.ch n).missAt ≤ s.clk → s.holdMax n ≤ s.chRun n → ∀ dual, Answers (.sampleMissing n dual) s fun t =>
      t.rd (SIE_CH_STAT n) = setBits (lowered (setBits w 2 0 1) 7) 15 8 0 ∧
      t.rd (SIE_CH_EVT n) = raised (raised (s.rd (SIE_CH_EVT n)) 2) 0 ∧ t.rd (SIE_CH_AGE_MAX n) = 0 ∧
      t.rd (SIE_CH_RESYNC n) = setBits (s.rd (SIE_CH_RESYNC n)) 15 0 (incSat 16 (s.fld (SIE_CH_RESYNC n) 15 0)) ∧
      RegsBut [SIE_CH_STAT n, SIE_CH_EVT n, SIE_CH_AGE_MAX n, SIE_CH_RESYNC n] s t ∧ LowMem s t ∧
      t = { s with regs := t.regs, mem := t.mem, poison := t.poison, openPts := freed, sie := s.sie.put n { s.ch n with
        nextIdx := 0, first := true, acq := 0, insts := [], frz := [], ages := [], maxAge := none } }) ∧
    (∀ dual, ∀ x ∈ [(Instr.streamValid n, decide (st = 1 ∧ max (s.fld (SIE_CH_TIMING n) 15 8) 1 ≤ (s.ch n).acq)),
        (.streamAbsent n, decide ((st = 1 ∨ st = 2 ∨ st = 3 ∨ st = 4) ∧
          (s.ch n).lastAcc + max (s.fld (SIE_CH_TIMING n) 31 20) 1 * tMs ≤ s.clk)),
        (.streamFailed n, decide (st ≠ 5 ∧ max (s.fld (SIE_CH_TIMING n) 19 16) 1 ≤ (s.ch n).failRun)),
        (.streamFailedExit n dual, decide (st = 5 ∧ 16 ≤ (s.ch n).outRun)),
        (.sampleMissing n dual, decide ((st = 2 ∨ st = 3 ∨ st = 4) ∧ (s.ch n).missAt ≤ s.clk))],
      x.2 = false → Answers x.1 s fun t => t = s)

/-- R43, R135, R136, R142, R182: the oldest open grid point closes when no channel is waited for: its mark is written, the
engines that are enabled get the closing, and the passes bound to it are released; at the deadline what is outstanding is
written invalid first, and counted in the mark. -/
def Obligations.GridCloses : Prop :=
  ∀ (r : Fin 16) (p : OpenPt) (rest : List OpenPt) (s : State), s.Canonical → s.pts r = p :: rest →
    (p.waiting ≠ [] → Answers (.gridPointClose r) s fun t => t = s) ∧
    (p.waiting = [] ∨ s.clk < p.due → Answers (.closeDeadline r) s fun t => t = s) ∧
    (p.waiting = [] → Answers (.gridPointClose r) s fun t => ∃ u : State,
      let a := s.sieMark r
      let c : Close := { ref := r, seq := p.seq, gp := p.gp, at_ := s.clk }
      t = u.releaseAll r p ∧
      u.ld a 4 = nextMark (s.ld a 4) (decide ((s.weftOf r).seq ≠ p.seq)) p.fault (p.seq % 2) % 2 ^ 32 ∧
      u.ld (a + 4) 4 = p.seq % 2 ^ 32 ∧ u.ld (a + 8) 4 = p.invalid % 2 ^ 32 ∧
      (∀ x, x < a ∨ a + 12 ≤ x → u.rdByte x = s.rdByte x) ∧
      u.fdcQ = (if s.bit FDC_CTL 0 then s.fdcQ ++ [c] else s.fdcQ) ∧
      u.psuQ = (if s.bit PSU_CTL 0 then s.psuQ ++ [c] else s.psuQ) ∧
      u.dzeQ = (if s.bit DZE_CTL 0 then s.dzeQ ++ [c] else s.dzeQ) ∧
      (∀ k, u.taeQ.at' k = (if k ∈ s.recordersOf c then s.taeQ.at' k ++ [c] else s.taeQ.at' k)) ∧
      (∀ k, u.rgeQ.at' k = (if k ∈ s.loopsOf c then s.rgeQ.at' k ++ [c] else s.rgeQ.at' k)) ∧
      u = { s with mem := u.mem, poison := u.poison, openPts := s.openPts.put r rest
                   closedGp := s.closedGp.put r (p.gp + 1), closedSeq := s.closedSeq.put r p.seq
                   fdcQ := u.fdcQ, psuQ := u.psuQ, dzeQ := u.dzeQ, taeQ := u.taeQ, rgeQ := u.rgeQ }) ∧
    (p.waiting ≠ [] → p.due ≤ s.clk → (∀ n ∈ p.waiting, n < 96) → Answers (.closeDeadline r) s fun t => ∃ u : State,
      t = u.closeGrid r { p with
        waiting := [], invalid := p.invalid + (p.waiting.map (fun n => s.chQty n)).foldl (· + ·) 0 } rest ∧
      (∀ n ∈ p.waiting, ∀ q, q < s.chQty n → u.gridVal n q p.seq = (0, 1)) ∧ LowMem s u ∧
      u = { s with mem := u.mem, poison := u.poison })

/-- The registers as grid point `k` of reference `r` finds them at instance `i` of block `b` are those of `s` with the words
`l` put: none where no activation stands between the point's issue and its work, else those before the activation (R49, R50). -/
def Sys2Proof.Claims.Governs (b i r k : Nat) (l : List (Nat × Nat)) (s : State) : Prop :=
  (s.priorsOf b i = [] ∧ l = []) ∨
  (∃ p, s.priorsOf b i = [p] ∧ p.was = true ∧ p.ref = r ∧ seqBefore k p.first = true ∧
    (p.nref ≠ r ∨ seqBefore k p.nfirst = true) ∧ (∀ w ∈ p.words, w.1 ∈ rwcAddrs b i) ∧ l = p.words)

/-- Instance `k` of an engine has no work at reference `r`: it is not bound there and no activation is behind it. -/
def Sys2Proof.Claims.Idle (b k : Nat) (bound : Bool) (s : State) : Prop := s.priorsOf b k = [] ∧ bound = false

/-- R49, R50, R142, R148, R150, R156, R160, R162, R163: an enabled engine takes the oldest closing. With one unit bound to the
reference, on the values that govern the grid point, a chain of one stage writes the stage's value and counts it; a
phasor instance takes the grid point into its window and writes its record; a zone that does not span sums its corrected
inputs and writes their sums. `u` is the state before the mark. An engine that is disabled, or whose reference is OFF, drops
the closing; without a closing of the reference nothing changes. (Work units without a mismatch.) -/
def Obligations.SignalWork : Prop :=
  ∀ (r : Fin 16) (s : State), s.Canonical →
    (∀ x y, s.power.cx = false ∨ s.fdcQ.head?.map (·.ref) ≠ some r.val → Answers (.fdcGridWork r x y) s fun t => t = s) ∧
    (∀ x, s.power.cx = false ∨ s.psuQ.head?.map (·.ref) ≠ some r.val → Answers (.psuGridWork r x) s fun t => t = s) ∧
    (∀ x, s.power.cx = false ∨ s.dzeQ.head?.map (·.ref) ≠ some r.val → Answers (.dzeGridWork r x) s fun t => t = s) ∧
    (∀ (cl : Close) (rest : List Close), s.power.cx = true → cl.ref = r →
    (s.fdcQ = cl :: rest →
      (∀ x y, s.bit FDC_CTL 0 = false ∨ s.refState r = 0 → Answers (.fdcGridWork r x y) s fun t => t = { s with fdcQ := rest }) ∧
      (∀ c l, s.bit FDC_CTL 0 = true → s.refState r ≠ 0 → c < 512 → Governs 4 c r cl.seq l s →
        (∀ k, k < 512 → k ≠ c → Idle 4 k (s.fdcBound r k) s) → (l = [] → s.bit (FDC_CH_STAT c) 1 = false) →
        let v := s.setWords l
        v.fdcBound r c = true → v.fdcStages c = 1 →
        cl.gp % v.fdcQuot c 0 = v.rd (FDC_CH_PHASE c) % v.fdcQuot c 0 → Answers (.fdcGridWork r [] []) s fun t =>
          let x := v.fdcStage c 0 (v.engineIn (v.fld (FDC_CH_CFG c) 23 17) (v.fld (FDC_CH_CFG c) 16 12) cl.seq)
          let a := s.area FDC_OUT_BASE 20 + c * 0x200 + (s.fdcOf c).outs % 64 * 8
          t.fdcQ = rest ∧ LowMem s t ∧
          t.rd (FDC_CH_OUTS c) = incSat 32 (s.rd (FDC_CH_OUTS c)) ∧ t.bit (FDC_CH_STAT c) 3 = x.2.2 ∧
          RegsBut [FDC_CH_OUTS c, FDC_CH_STAT c, FDC_CH_EVT c, FDC_LATE] s t ∧
          ∃ u : State, t = u.engineMark (s.area FDC_MARK_BASE 10 + r * 64) FDC_LATE r cl.seq 1 (v.fdcPoison c cl.seq) ∧
            u.ld a 4 = unsigned 32 x.1 ∧ u.ld (a + 4) 4 = (x.2.1 + cl.seq % 2 ^ 24 * 2 ^ 8) % 2 ^ 32)) ∧
    (s.psuQ = cl :: rest →
      (∀ x, s.bit PSU_CTL 0 = false ∨ s.refState r = 0 → Answers (.psuGridWork r x) s fun t => t = { s with psuQ := rest }) ∧
      (∀ i l, s.bit PSU_CTL 0 = true → s.refState r ≠ 0 → i < 128 → Governs 5 i r cl.seq l s →
        (∀ k, k < 128 → k ≠ i → Idle 5 k (s.psuBound r k) s) → (l = [] → s.bit (PSU_STAT_I i) 1 = false) →
        let v := s.setWords l
        v.psuBound r i = true → s.recRealign r cl.seq = false → Answers (.psuGridWork r []) s fun t =>
          let pt : PsuPt := { m := s.recIndex r cl.seq, vals := (v.psuInputs i).map (fun x => v.engineIn x.1 x.2 cl.seq) }
          let win := (pt :: (s.psuOf i).win).take 128
          t.psuQ = rest ∧ LowMem s t ∧
          t.psu = s.psu.put i { win := win } ∧ t.bit (PSU_STAT_I i) 2 = decide (win.length = 128) ∧
          RegsBut [PSU_STAT_I i, PSU_EVT i, PSU_LATE] s t ∧
          ∃ u : State, t = u.engineMark (s.area PSU_MARK_BASE 10 + r * 64) PSU_LATE r cl.seq 1 (v.psuPoison i r cl.seq) ∧
            u.ld (s.area PSU_OUT_BASE 16 + i * 0x200 + cl.seq % 2 * 0x100) 4 = cl.seq % 2 ^ 32)) ∧
    (s.dzeQ = cl :: rest →
      (∀ x, s.bit DZE_CTL 0 = false ∨ s.refState r = 0 → Answers (.dzeGridWork r x) s fun t => t = { s with dzeQ := rest }) ∧
      (∀ z, s.bit DZE_CTL 0 = true → s.refState r ≠ 0 → z < 16 →
        (∀ k, k < 16 → k ≠ z → Idle 6 k (s.zBound r k) s) → (∀ k, k < 16 → s.priorsOf zRecKey k = []) →
        s.priorsOf 6 z = [] → s.zBound r z = true → s.bit (DZE_Z_STAT z) 1 = false → s.zSpan z = false →
        s.recRealign r cl.seq = false → Answers (.dzeGridWork r []) s fun t =>
        let vals := (s.zInputs z).map (fun m => s.zValue z m cl.seq)
        let d := vals.foldl (fun t e => add3 t e.1) [0, 0, 0]
        let a := s.area DZE_OUT_BASE 12 + z * 0x100 + cl.seq % 2 * 0x80
        t.dzeQ = rest ∧ LowMem s t ∧
        (t.dzeOf z).win.length = min 128 ((s.dzeOf z).win.length + 1) ∧
        (t.dzeOf z).win.head?.map (·.d) = some d ∧
        (t.dzeOf z).win.head?.map (·.q) = some (combineQ [combineQ (vals.map (·.2))]) ∧
        RegsBut [DZE_Z_EVT z, DZE_Z_STAT z, DZE_LATE] s t ∧
        ∃ u : State, t = u.engineMark (s.area DZE_MARK_BASE 10 + z * 64) DZE_LATE r cl.seq
            (vals.countP (fun e => decide (validity e.2 = 1 ∨ validity e.2 = 2))) (s.zPoison z r cl.seq) ∧
          u.ld a 4 = cl.seq % 2 ^ 32 ∧ ∀ p, p < 3 →
            u.ld (a + 8 + 4 * p) 4 = fMul (fOfScaled (d.getD p 0) (-8)) (s.rd (DZE_Z_SCALE z)) % 2 ^ 32)))

/-- R169, R170, R530: a contribution missing past its time is counted and the grid point settled; a zone falls back to its
local mode and returns, with its event, and its window and counts begin anew. -/
def Obligations.Zones : Prop :=
  ∀ (z : Fin 16) (s : State), s.Canonical →
    let out := [DZE_Z_XMISS z, DZE_Z_STAT z, DZE_Z_EVT z, DZE_LATE]
    ((s.dzeOf z).waits = [] → Answers (.contributionMissing z) s fun t => t = s) ∧
    (∀ l, (s.dzeOf z).waits = [l] → s.clk < l.at_ + s.zWait z l → Answers (.contributionMissing z) s fun t => t = s) ∧
    (∀ l, (s.dzeOf z).waits = [l] → s.priorsOf zRecKey z = [] → l.at_ + s.zWait z l ≤ s.clk → s.zComplete z l.gp = false →
      Answers (.contributionMissing z) s fun t =>
        t.rd (DZE_Z_XMISS z) = incSat 32 (s.rd (DZE_Z_XMISS z)) ∧ (t.dzeOf z).waits = [] ∧ (t.dzeOf z).done = some l.gp ∧
        (t.dzeOf z).clean = 0 ∧ LowMem s t ∧ RegsBut out s t ∧
        t = { s with regs := t.regs, mem := t.mem, poison := t.poison, dze := t.dze }) ∧
    (s.bit (DZE_Z_CFG z) 31 = true → s.zSpan z = true → s.bit (DZE_Z_STAT z) 1 = false → s.zLocal z = false →
      (s.spanOk (s.zRef z) = false ∨ s.zHome z = true ∧ ∃ p ∈ s.zPeers z, s.zMissN z ≤ (s.dzeOf z).miss.at' p) →
      Answers (.zoneToLocal z) s fun t =>
        t.bit (DZE_Z_STAT z) 2 = true ∧ t.bit (DZE_Z_EVT z) 3 = true ∧ (t.dzeOf z).win = [] ∧ (t.dzeOf z).ins = [] ∧
        (t.dzeOf z).waits = [] ∧ LowMem s t ∧ RegsBut out s t ∧
        t = { s with regs := t.regs, mem := t.mem, poison := t.poison, dze := t.dze }) ∧
    (s.bit (DZE_Z_CFG z) 31 = true → s.zSpan z = true → s.bit (DZE_Z_STAT z) 1 = false → s.zLocal z = true →
      128 ≤ (s.dzeOf z).clean → s.spanOk (s.zRef z) = true → (s.dzeOf z).waits = [] → Answers (.zoneToSpan z) s fun t =>
        t.rd (DZE_Z_STAT z) = lowered (s.rd (DZE_Z_STAT z)) 2 ∧ t.rd (DZE_Z_EVT z) = raised (s.rd (DZE_Z_EVT z)) 4 ∧
        (t.dzeOf z).win = [] ∧ (t.dzeOf z).ins = [] ∧
        RegsBut [DZE_Z_STAT z, DZE_Z_EVT z] s t ∧ t = { s with regs := t.regs, dze := t.dze }) ∧
    (s.bit (DZE_Z_CFG z) 31 = false ∨ s.zSpan z = false ∨ s.bit (DZE_Z_STAT z) 1 = true →
      let f := fun (i : Instr) => Answers i s fun t => t = s
      f (.zoneToLocal z) ∧ f (.zoneToSpan z)) ∧
    (s.zLocal z = true → Answers (.zoneToLocal z) s fun t => t = s) ∧
    (s.zLocal z = false ∨ (s.dzeOf z).clean < 128 ∨ s.spanOk (s.zRef z) = false → Answers (.zoneToSpan z) s fun t => t = s)

/-- The run states of all slices. -/
def Sys2Proof.Claims.slStats : List Nat := (List.range 256).map XEC_SL_STAT

/-- The registers a change of module health may write (R323, R433, R434, R437). -/
def Sys2Proof.Claims.healthRegs : List Nat :=
  [RED_HEALTH, RED_STAT, RED_EVT, GRD_STAT, GRD_EVT, GRD_TRIPS, GRD_EV_LOST, LED_STAGE_DROP, LED_EVT] ++
    (List.range 4).map GRD_OUT_CNT

/-- Health is what the conditions of R323 give, within the limit of software that `s` holds. -/
def Sys2Proof.Claims.HealthShown (s t : State) : Prop := t.health = min t.healthComputed (s.fld RED_HEALTH 1 0)

/-- A slice that no spare takes stops in FAULT (R179). -/
def Sys2Proof.Claims.Stopped (n : Nat) (t : State) : Prop := t.run n = 6 ∧ (t.sl n).pass = none ∧ (t.sl n).held = none

/-- R177–R179, R323: each pair command in the state that admits it puts the pair's state, shows the spare and the health,
and lets the pair dispatch; in another state it changes nothing but `cmd_rej`; one that leaves no spare while an isolated pair
waits for it stops that pair's slices in FAULT; a self-test that passes makes the pair the spare or available, one that fails,
or the second isolation, makes it failed. `u` is the state before the dispatch. -/
def Obligations.PairCommands : Prop :=
  ∀ (w : Who) (p : Fin 12) (s : State), s.Canonical →
    let st := s.pairState p
    let none' := (s.hosted p).isEmpty
    (∀ x ∈ [(Instr.readmit w p, decide (st = 0) && !s.spareValid, 2), (.activate w p, decide (st = 0), 1),
        (.release w p, decide (st = 1) && none' || decide (st = 2), 0), (.retest w p, decide (st = 0), 4)], Sup w 7 s →
      (x.2.1 = true → x.2.2 = 2 ∨ (∃ q, q < 12 ∧ q ≠ p.val ∧ s.pairState q = 2) ∨ (∀ q, q < 12 → s.pairState q ≠ 3) →
        Answers x.1 s fun t => ∃ u : State, t = u.dispatch p ∧ u.pairState p = x.2.2 ∧
        (∀ q, q < 12 → q ≠ p.val → u.pairState q = s.pairState q) ∧
        (u.spareValid = true ↔ ∃ q, q < 12 ∧ u.pairState q = 2) ∧ HealthShown s u ∧
        RegsBut ([XEC_PAIR_STAT p, XEC_STAT] ++ healthRegs) s u ∧ u.mem = s.mem ∧ u.slices = s.slices ∧ u.pairs = s.pairs) ∧
      (x.2.1 = true → x.2.2 ≠ 2 → (¬∃ q, q < 12 ∧ q ≠ p.val ∧ s.pairState q = 2) →
        Answers x.1 s fun t => ∃ u : State, t = u.dispatch p ∧ u.pairState p = x.2.2 ∧ HealthShown s u ∧ u.mem = s.mem ∧
        ∀ q, q < 12 → q ≠ p.val → s.pairState q = 3 →
          u.pairState q = 4 ∧ u.bit XEC_EVT 2 = true ∧ ∀ n ∈ s.hosted q, Stopped n u) ∧
      (x.2.1 = false → Answers x.1 s fun t =>
        t.rd (XEC_PAIR_EVT p) = raised (s.rd (XEC_PAIR_EVT p)) 4 ∧ Wrote [XEC_PAIR_EVT p] s t)) ∧
    (st = 4 → (s.pr p).isolated ≤ 1 → Answers (.pairSelfTestDone p true) s fun t =>
      t.pairState p = (if s.bit XEC_CTL 3 = true ∧ s.spareValid = false then 2 else 0) ∧ t.bit (XEC_PAIR_STAT p) 16 = true ∧
      t.rd (XEC_PAIR_EVT p) = raised (s.rd (XEC_PAIR_EVT p)) 2 ∧ HealthShown s t ∧
      RegsBut ([XEC_PAIR_STAT p, XEC_PAIR_EVT p, XEC_STAT] ++ healthRegs) s t ∧ t.mem = s.mem ∧ t.slices = s.slices) ∧
    (∀ pass, st = 4 → pass = false ∨ 1 < (s.pr p).isolated → Answers (.pairSelfTestDone p pass) s fun t =>
      t.pairState p = 5 ∧ t.bit (XEC_PAIR_STAT p) 16 = pass ∧
      t.rd (XEC_PAIR_EVT p) = raised (s.rd (XEC_PAIR_EVT p)) 3 ∧ HealthShown s t ∧
      RegsBut ([XEC_PAIR_STAT p, XEC_PAIR_EVT p, XEC_STAT] ++ healthRegs) s t ∧ t.mem = s.mem ∧ t.slices = s.slices) ∧
    (∀ pass, st ≠ 4 → Answers (.pairSelfTestDone p pass) s fun t => t = s)

/-- Pair `p` has been isolated in `u` (R176–R179): counted, off its slice; with slices and another spare it waits for the
takeover, else its self-test begins, its slices stopped in FAULT when there is no spare; the counter of its unit is `ev`. -/
def Sys2Proof.Claims.Isolated (p ev : Nat) (s u : State) : Prop :=
  let wait := !(s.hosted p).isEmpty && (List.range 12).any (fun q => q != p && s.pairState q == 2)
  u.pairState p = (if wait then 3 else 4) ∧ u.bit (XEC_PAIR_EVT p) ev = true ∧
    (wait = false → ∀ n ∈ s.hosted p, Stopped n u) ∧
    (s.hosted p ≠ [] → wait = false → u.bit XEC_EVT 2 = true) ∧
    u.rd (XEC_PAIR_MISMATCH p) = incSat 32 (s.rd (XEC_PAIR_MISMATCH p)) ∧ (u.pr p).isolated = (s.pr p).isolated + 1 ∧
    (u.pr p).running = 0 ∧ HealthShown s u ∧ u.mem = s.mem ∧
    ((∀ q, q < 12 → s.pairState q ≠ 3) → RegsBut ([XEC_PAIR_STAT p, XEC_PAIR_EVT p, XEC_PAIR_MISMATCH p, XEC_STAT, XEC_EVT,
        XEC_SF_CNT, XEC_XFER_STAT] ++ healthRegs ++ slStats ++ (List.range 256).map XEC_SL_EVT ++
        (List.range 256).map XEC_SL_XEVT ++ (List.range 256).map XEC_SL_XSTAT) s u)

/-- R176, R178, R179, R181: a mismatch, which is watched for with `lockstep` = 1 on an active pair and on the spare, or a stall
of an active pair that runs a slice isolates the pair, counted and with its event; with slices to take and a spare it waits
for the takeover, else its self-test begins; at the takeover the spare becomes active with every slice of the isolated pair,
an interrupted pass released again. `u` is the state before a move to the pair is given up, or before the dispatch. -/
def Obligations.PairFailures : Prop :=
  ∀ (p : Fin 12) (s : State), s.Canonical → s.power.cx = true →
    (s.bit XEC_CTL 4 = true → s.pairState p = 1 ∨ s.pairState p = 2 → Answers (.lockstepMismatch p) s fun t => ∃ u : State,
      t = u.moveTargetLost p ∧ Isolated p 0 s u ∧ u.bit XEC_EVT 0 = true) ∧
    (s.bit XEC_CTL 4 = false ∨ s.pairState p ≠ 1 ∧ s.pairState p ≠ 2 → Answers (.lockstepMismatch p) s fun t => t = s) ∧
    (∀ n, s.pairState p = 1 → (s.pr p).running = n + 1 → (s.sl n).waitAt = none → Answers (.pairStall p) s fun t => ∃ u : State,
      t = u.moveTargetLost p ∧ Isolated p 1 s u) ∧
    (s.pairState p ≠ 1 ∨ (s.pr p).running = 0 → Answers (.pairStall p) s fun t => t = s) ∧
    (∀ q, s.pairState p = 3 → s.spareValid = true → s.fld XEC_STAT 6 3 = q → q < 12 → s.pairState q = 2 →
      Answers (.spareTakeover p) s fun t => ∃ u : State, t = u.dispatch q ∧ u.pairState q = 1 ∧ u.pairState p = 4 ∧
        u.bit XEC_EVT 1 = true ∧ (∀ n ∈ s.hosted p, u.slPair n = q ∧ u.bit (XEC_SL_EVT n) 3 = true) ∧
        (∀ n ∈ s.hosted p, s.life n ≠ 2 → s.life n ≠ 4 → ∀ ps, (s.sl n).pass = some ps →
          (u.sl n).pass = some { ps with
            restarted := true, started := false, running := false, execNs := 0, overrun := false } ∧ u.run n = 1 ∧
          u.bit (XEC_SL_STAT n) 8 = true) ∧
        (∀ n ∈ s.hosted p, s.life n = 2 → u.life n = 3 ∧ u.run n = 7 ∧ (u.sl n).pass = none) ∧
        HealthShown s u ∧ LowMem s u) ∧
    (s.pairState p ≠ 3 ∨ s.spareValid = false → Answers (.spareTakeover p) s fun t => t = s)

/-- The registers that an exception may write (R190). -/
def Sys2Proof.Claims.excRegs (n q : Nat) : List Nat :=
  [XEC_SL_EVT n, XEC_SL_MISSES n, XEC_PAIR_MISS q, LED_STAGE_DROP, LED_EVT] ++ slStats

/-- R182, R183, R185, R186, R188–R191: the pass that comes first runs on its pair; a free release takes the next sequence number and grid number; a deadline missed is
counted at slice and pair, and the pass goes on; an exception aborts the pass, which counts as a miss, with its cause in
the ledger; an overrun is shown; a slice that missed too often stops in FAULT; a background slice gives way after its
quantum; without its cause nothing changes. -/
def Obligations.Passes : Prop :=
  ∀ (n : Fin 256) (s : State), s.Canonical →
    let q := s.slPair n
    let seq := (s.rd (XEC_SL_SEQ n) + 1) % 2 ^ 32
    let due := (s.sl n).freeAt.getD s.mono8
    (∀ (p : Fin 12) ps, s.pairState p = 1 → s.bit XEC_CTL 0 = true → (n.val, ps) ∈ s.contenders p →
      (∀ e ∈ s.contenders p, e ≠ (n.val, ps) → before (n.val, ps) e = true) → ((s.dispatch p).pr p).running = n + 1) ∧
    (s.power.cx = true → s.slEn n = true → s.slClass n < 3 → s.refState (s.slRef n) = 0 → due ≤ s.mono8 → s.run n ≠ 6 →
      s.life n = 1 → s.bit XEC_CTL 0 = true → (s.sl n).fresh = false → (s.sl n).pass = none → s.sheds n seq = false →
      Answers (.freePassRelease n) s fun t =>
        t.rd (XEC_SL_SEQ n) = seq ∧ (t.sl n).freeAt = some (due + s.freeSpacing n) ∧ t.bit (XEC_SL_STAT n) 9 = true ∧
        t.bit (XEC_SL_STAT n) 8 = false ∧ (∃ ps, (t.sl n).pass = some ps ∧ ps.seq = seq ∧ ps.free = true ∧
          ps.gp = ((s.sl n).lastGp + period (s.slClass n)) % 2 ^ 39 ∧ ps.deadline = (due + s.freeSpacing n) / 2 ^ 11) ∧
        RegsBut ([XEC_SL_SEQ n, XEC_PAIR_STAT q, XEC_PAIR_EVT q, XEC_LADDER_CNT] ++ slStats) s t ∧
        t = { s with regs := t.regs, slices := t.slices, pairs := t.pairs }) ∧
    (∀ ps, (s.sl n).pass = some ps → ps.missed = false → s.passDue ps = true → Answers (.passDeadlineMiss n) s fun t =>
      t.rd (XEC_SL_MISSES n) = incSat 32 (s.rd (XEC_SL_MISSES n)) ∧
      t.rd (XEC_PAIR_MISS q) = incSat 32 (s.rd (XEC_PAIR_MISS q)) ∧ t.bit (XEC_SL_EVT n) 0 = true ∧
      t.fld (XEC_SL_STAT n) 7 4 = min ((s.sl n).cmiss + 1) 15 ∧
      RegsBut [XEC_SL_MISSES n, XEC_PAIR_MISS q, XEC_SL_EVT n, XEC_SL_STAT n] s t ∧
      t = { s with regs := t.regs, slices := s.slices.put n { s.sl n with
        cmiss := (s.sl n).cmiss + 1, pass := some { ps with missed := true } } }) ∧
    (∀ cause code pc, (s.sl n).pass = none → (s.pr q).running ≠ n + 1 ∨ cause ∉ [1, 2, 4, 5] →
      Answers (.passException n cause code pc) s fun t => t = s) ∧
    (∀ cause code pc, (s.sl n).pass = none → (s.pr q).running = n + 1 → cause ∈ [1, 2, 4, 5] →
      Answers (.passException n cause code pc) s fun t =>
        t.bit (XEC_SL_EVT n) 6 = true ∧ (t.sl n).waitAt = none ∧
        (s.led.staged.length < 1024 → ∃ r : LedRec, t.led.staged = s.led.staged ++ [r] ∧ r.sev = 3 ∧ r.blk = 7 ∧ r.code = n ∧
          r.pay.getD 1 0 = cause) ∧ LowMem s t ∧ RegsBut (excRegs n q) s t) ∧
    (∀ ps cause code pc, (s.sl n).pass = some ps → cause ∈ [1, 2, 4, 5] →
      Answers (.passException n cause code pc) s fun t =>
        t.bit (XEC_SL_EVT n) 6 = true ∧
        t.rd (XEC_SL_MISSES n) = (if ps.missed then s.rd (XEC_SL_MISSES n) else incSat 32 (s.rd (XEC_SL_MISSES n))) ∧
        (t.sl n).pass.isSome = (s.sl n).held.isSome ∧ (t.sl n).held = none ∧ (t.sl n).waitAt = none ∧
        (s.led.staged.length < 1024 → ∃ r : LedRec, t.led.staged = s.led.staged ++ [r] ∧ r.sev = 3 ∧ r.blk = 7 ∧ r.code = n ∧
          r.pay.getD 1 0 = cause) ∧ LowMem s t ∧
        RegsBut (excRegs n q) s t ∧ t.red = { s.red with dirty := t.red.dirty } ∧
        t = { s with regs := t.regs, mem := t.mem, poison := t.poison, slices := t.slices, pairs := t.pairs, led := t.led
                     red := t.red }) ∧
    (∀ ps, (s.sl n).pass = some ps → ps.running = true → ps.overrun = false → ps.budget ≠ 0 → ps.budget < ps.exec s.clk →
      Answers (.budgetOverrun n) s fun t =>
        t.bit (XEC_SL_EVT n) 1 = true ∧ t.bit (XEC_SL_STAT n) 11 = true ∧
        (ps.crit ≤ 1 → t.bit (XEC_PAIR_STAT q) 17 = true) ∧
        RegsBut [XEC_SL_EVT n, XEC_SL_STAT n, XEC_PAIR_STAT q] s t ∧
        t = { s with regs := t.regs, slices := s.slices.put n { s.sl n with pass := some { ps with overrun := true } }
                     pairs := if ps.crit ≤ 1 then s.pairs.mod q (fun x => { x with calmFrom := s.clk }) else s.pairs }) ∧
    (s.faultDue n = true → s.life n = 1 ∨ s.life n = 2 ∨ s.life n = 4 → Answers (.sliceFault n) s fun t => ∃ u : State,
      t = u.dispatch q ∧ u.run n = 6 ∧ u.bit (XEC_SL_EVT n) 2 = true ∧ u.bit XEC_EVT 3 = true ∧
      u.rd XEC_SF_CNT = incSat 32 (s.rd XEC_SF_CNT) ∧ (u.sl n).pass = none ∧ (u.sl n).held = none ∧
      (s.slCrit n = 0 → u.bit XEC_STAT 8 = true) ∧ HealthShown s u ∧
      RegsBut ([XEC_SL_STAT n, XEC_SL_EVT n, XEC_EVT, XEC_SF_CNT, XEC_STAT] ++ healthRegs) s u ∧ u.mem = s.mem) ∧
    (∀ (p : Fin 12) m, (s.pr p).running = n + 1 → s.slClass n = 3 → (s.sl n).pass = none →
      (s.pr p).bgFrom + 100 * tUs ≤ s.clk → s.pairState p = 1 → s.bit XEC_CTL 0 = true → s.level p = 0 →
      (s.suspend p).contenders p = [] → (s.suspend p).nextBackground p (s.pr p).bgLast = some m →
      Answers (.backgroundQuantum p) s fun t =>
        (t.pr p).running = m + 1 ∧ (t.pr p).bgFrom = s.clk ∧ (t.pr p).bgLast = m ∧ t.run m = 2 ∧
        (m ≠ n.val → t.run n = 1) ∧ RegsBut slStats s t ∧
        t = { s with regs := t.regs, slices := t.slices, pairs := t.pairs }) ∧
    (s.faultDue n = false ∨ s.life n ∉ [1, 2, 4] → Answers (.sliceFault n) s fun t => t = s) ∧
    ((s.sl n).pass = none → let f := fun (i : Instr) => Answers i s fun t => t = s
      f (.passDeadlineMiss n) ∧ f (.budgetOverrun n)) ∧
    (s.power.cx = false ∨ s.slEn n = false ∨ s.slClass n = 3 ∨ s.refState (s.slRef n) ≠ 0 ∨ s.mono8 < due →
      Answers (.freePassRelease n) s fun t => t = s)

/-- R180, R185, R203, R204, R227: PASS.END counts the pass with its execution time, captures the slice's image and lets a
held release take its place; the completed capture is in the other bank, which becomes current; PASS.INFO answers the
words of the running pass and changes nothing else. -/
def Obligations.PassInstructions : Prop :=
  ∀ (p : Fin 12) (n : Nat) (ps : Pass) (s : State), s.Canonical →
    (∀ arch, s.runningOn p = some n → (s.sl n).pass = some ps → Answers (.passEnd p arch) s fun t =>
      let e := min (ps.exec s.clk) (2 ^ 32 - 1)
      t.rd (XEC_SL_EXEC_LAST n) = e ∧ t.rd (XEC_SL_EXEC_MAX n) = max (s.rd (XEC_SL_EXEC_MAX n)) e ∧
      t.rd (XEC_SL_PASSES n) = incSat 32 (s.rd (XEC_SL_PASSES n)) ∧ t.bit (XEC_SL_STAT n) 11 = ps.overrun ∧
      (t.sl n).cmiss = (if ps.missed then (s.sl n).cmiss else 0) ∧
      (∃ i, (t.sl n).capture = some i ∧ i.valid = true ∧ i.seq = ps.seq ∧ i.gp = ps.gp % 2 ^ 32 ∧
        i.gen = ((s.sl n).curImg.gen + 1) % 2 ^ 31) ∧ (t.sl n).capArch = padTo 0xF00 arch ∧
      (s.life n = 1 → (s.sl n).moveTo = none → s.standbyStop n = false →
        (t.sl n).pass.isSome = (s.sl n).held.isSome ∧ (t.sl n).held = none) ∧
      RegsBut ([XEC_SL_EXEC_LAST n, XEC_SL_EXEC_MAX n, XEC_SL_PASSES n, XEC_SL_XSTAT n] ++ slStats) s t ∧
      t = { s with regs := t.regs, slices := t.slices, pairs := t.pairs }) ∧
    (∀ (k : Fin 256) i, (s.sl k).capture = some i → s.power.cx = true → s.power.mem = true →
      (∀ c ∈ (s.sl k).capCells, c.1 < s.pagesOf k * 0x1000) → Answers (.imageCaptureComplete k) s fun t =>
        let b := 1 - (s.sl k).bank
        let a := s.imageAddr k b
        (∀ j, j < 0x1000 → t.rdByte (a + j) = (imageHead i (s.sl k).capArch (s.pagesOf k)).getD j 0) ∧
        (∀ x, x < a ∨ a + 0x1000 + s.pagesOf k * 0x1000 ≤ x → t.rdByte x = s.rdByte x) ∧
        (t.sl k).bank = b ∧ (t.sl k).capture = none ∧ (t.sl k).curImg = i ∧
        t.rd (XEC_SL_XSTAT k) = raised (s.rd (XEC_SL_XSTAT k)) 14 ∧ RegsBut [XEC_SL_XSTAT k] s t ∧
        t.red = { s.red with dirty := t.red.dirty } ∧
        t = { s with regs := t.regs, mem := t.mem, poison := t.poison, slices := t.slices, red := t.red }) ∧
    (s.runningOn p = none → let f := fun (i : Instr) => Answers i s fun t => t = s
      (∀ arch, f (.passEnd p arch)) ∧ ∀ imm pc, f (.passInfo p imm pc)) ∧
    (∀ k : Fin 256, (s.sl k).capture = none → Answers (.imageCaptureComplete k) s fun t => t = s) ∧
    (∀ pc, s.runningOn p = some n → (s.sl n).pass = some ps →
      (Answers (.passInfo p 0 pc) s fun t => t = { s with reply := t.reply } ∧
        (t.reply.at' p).data = n + s.slTenant n * 2 ^ 8 + ps.ref * 2 ^ 12 + ps.pclass * 2 ^ 16 + b2n ps.restarted * 2 ^ 18 +
          b2n ps.free * 2 ^ 19 + s.level p * 2 ^ 20 + p * 2 ^ 22 + ps.gridSeq % 2 ^ 32 * 2 ^ 32) ∧
      (Answers (.passInfo p 1 pc) s fun t => t = { s with reply := t.reply } ∧
        (t.reply.at' p).data = ps.seq + ps.deadline % 2 ^ 32 * 2 ^ 32) ∧
      (Answers (.passInfo p 2 pc) s fun t => t = { s with reply := t.reply } ∧
        (t.reply.at' p).data = ps.gp * 512 % 2 ^ 48) ∧
      (∀ imm, 2 < imm → Answers (.passInfo p imm pc) s fun t => t.bit (XEC_SL_EVT n) 6 = true ∧
        (t.sl n).pass.isSome = (s.sl n).held.isSome))

/-- R193, R194, R201, R202, R323: calm lowers a pair's level by one; a second above the upper and ten seconds below the
lower temperature limit move the thermal level by one, on every pair, and other readings are only kept; above 110 °C the
overtemperature event is set; a fault of the scheduler, the third fault a block sees within 1 s, and one of the Weft unit's
issue check is a block failure and lowers the health. That a block fails once, and that spans are judged at readings, is the
model's choice (log entries 81 and 87). -/
def Obligations.Ladder : Prop :=
  ∀ (s : State), s.Canonical →
    (∀ (p : Fin 12), s.bit XEC_CTL 1 = true → s.fld (XEC_PAIR_STAT p) 7 6 ≠ 0 →
      (s.pr p).calmFrom + max (s.fld XEC_OVL_CFG 23 16) 1 * tMs ≤ s.clk → s.util p < min (s.fld XEC_OVL_CFG 15 8) 100 →
      s.atRisk p = false → Answers (.overloadCalm p) s fun t => ∃ u : State, t = u.dispatch p ∧
        u.fld (XEC_PAIR_STAT p) 7 6 = s.fld (XEC_PAIR_STAT p) 7 6 - 1 ∧ u.fld (XEC_PAIR_STAT p) 5 4 = u.level p ∧
        u.rd (XEC_PAIR_EVT p) = raised (s.rd (XEC_PAIR_EVT p)) 6 ∧ (u.pr p).calmFrom = s.clk ∧
        RegsBut [XEC_PAIR_STAT p, XEC_PAIR_EVT p] s u ∧ u = { s with regs := u.regs, pairs := u.pairs }) ∧
    (s.power.cx = true →
      let l := s.fld XEC_STAT 1 0
      let regs := [XEC_TJ, XEC_STAT, XEC_EVT, XEC_THERM_CNT] ++ (List.range 12).map XEC_PAIR_STAT ++ healthRegs ++ slStats
      let hot := fun (tj : Int) => if (s.tUp : Int) * 16 < tj then some (s.hotFrom.getD s.clk) else none
      let cool := fun (tj : Int) => if tj < (s.tDown : Int) * 16 then some (s.coolFrom.getD s.clk) else none
      (∀ tj : Int, s.bit XEC_CTL 2 = true → l < 3 → s.lasted (hot tj) 1 = true → Answers (.thermalLevelUp tj) s fun t =>
        t.rd XEC_TJ = unsigned 16 tj ∧ t.fld XEC_STAT 1 0 = l + 1 ∧ t.rd XEC_EVT = raised (s.rd XEC_EVT) 4 ∧
        t.rd XEC_THERM_CNT = incSat 32 (s.rd XEC_THERM_CNT) ∧ t.hotFrom = some s.clk ∧
        (∀ p, p < 12 → t.fld (XEC_PAIR_STAT p) 5 4 = max (s.fld (XEC_PAIR_STAT p) 7 6) (l + 1)) ∧ HealthShown s t ∧
        RegsBut regs s t ∧ t.mem = s.mem) ∧
      (∀ tj : Int, s.bit XEC_CTL 2 = true → l ≠ 0 → s.lasted (cool tj) 10 = true → Answers (.thermalLevelDown tj) s fun t =>
        t.rd XEC_TJ = unsigned 16 tj ∧ t.fld XEC_STAT 1 0 = l - 1 ∧ t.rd XEC_EVT = raised (s.rd XEC_EVT) 5 ∧
        t.coolFrom = some s.clk ∧
        (∀ p, p < 12 → t.fld (XEC_PAIR_STAT p) 5 4 = max (s.fld (XEC_PAIR_STAT p) 7 6) (l - 1)) ∧ HealthShown s t ∧
        RegsBut regs s t ∧ t.mem = s.mem) ∧
      (∀ tj : Int,
        let f := fun (i : Instr) => Answers i s fun t =>
          t.rd XEC_TJ = unsigned 16 tj ∧ RegsBut [XEC_TJ] s t ∧ t = { s with regs := t.regs, hotFrom := hot tj, coolFrom := cool tj }
        (s.bit XEC_CTL 2 = false ∨ l = 3 ∨ s.lasted (hot tj) 1 = false → f (.thermalLevelUp tj)) ∧
        (s.bit XEC_CTL 2 = false ∨ l = 0 ∨ s.lasted (cool tj) 10 = false → f (.thermalLevelDown tj)) ∧
        (tj ≤ 110 * 16 → f (.overtemp tj))) ∧
      (∀ tj : Int, 110 * 16 < tj → Answers (.overtemp tj) s fun t =>
        t.rd XEC_TJ = unsigned 16 tj ∧ t.rd XEC_EVT = raised (s.rd XEC_EVT) 7 ∧
        (s.led.staged.length < 1024 → ∃ r : LedRec, t.led.staged = s.led.staged ++ [r] ∧ r.sev = 5 ∧ r.blk = 7) ∧
        RegsBut [XEC_TJ, XEC_EVT, LED_STAGE_DROP, LED_EVT] s t ∧
        t = { s with regs := t.regs, led := t.led, hotFrom := hot tj, coolFrom := cool tj }) ∧
      (Answers .schedulerFault s fun t =>
        t.rd XEC_EVT = raised (s.rd XEC_EVT) 6 ∧ t.bit XEC_STAT 7 = true ∧ 7 ∈ t.blockFail ∧
        t.health ≤ 1 ∧ HealthShown s t ∧ RegsBut ([XEC_EVT, XEC_STAT] ++ healthRegs) s t ∧
        t.mem = s.mem)) ∧
    (s.power.cx = false → let f := fun (i : Instr) => Answers i s fun t => t = s
      f .schedulerFault ∧ ∀ tj, f (.thermalLevelUp tj) ∧ f (.thermalLevelDown tj) ∧ f (.overtemp tj)) ∧
    (∀ (b : Fin 24) (inst : Fin 65536) (mech : Fin 8),
      let seen := (s.faults.at' (8 * b + mech)).filter (fun t => decide (s.clk < t + tSec))
      (s.blkOn b = false → Answers (.blockFailure b inst mech) s fun t => t = s) ∧
      (s.blkOn b = true → ¬(b = 2 ∧ mech = 7) → seen.length < 2 ∨ b.val ∈ s.blockFail →
        Answers (.blockFailure b inst mech) s fun t =>
          t = { s with faults := s.faults.put (8 * b + mech) ((s.clk :: seen).take 3) }) ∧
      (s.blkOn b = true → b = 2 ∧ mech = 7 ∨ 2 ≤ seen.length ∧ b.val ∉ s.blockFail →
        Answers (.blockFailure b inst mech) s fun t =>
          b.val ∈ t.blockFail ∧ (b = 2 ∨ b = 7 → t.bit XEC_STAT 7 = true) ∧ HealthShown s t ∧
          RegsBut ([XEC_STAT] ++ healthRegs) s t ∧ t.mem = s.mem))

/-- R210, R219–R225, R230: a slice that is not enabled takes its binding; QUIESCE, RESUME, RESET and ABORT in the states that
admit them, each with its code and result 0, result 1 in the others and 2 while a transfer is on; a quiesce completes when nothing is left to wait
for, and is forced at its timeout; an armed slice resumes with its release point; without its cause nothing changes. `u` is
the state before the dispatch. -/
def Obligations.SliceLife : Prop :=
  ∀ (w : Who) (n : Fin 256) (s : State), s.Canonical →
    let x := s.rd (XEC_SL_XSTAT n)
    let q := s.slPair n
    (∀ v : Word, Sup w 7 s → s.slEn n = false → (n.val ≠ 0 → bits v.toNat 31 16 ≠ 0) → Answers (.sliceBindWrite w n v) s fun t =>
      t.rd (XEC_SL_BIND n) = v.toNat - bits v.toNat 15 4 * 2 ^ 4 ∧ Wrote [XEC_SL_BIND n] s t) ∧
    (∀ v : Word, Sup w 7 s → s.slEn n = true → Answers (.sliceBindWrite w n v) s fun t =>
      t.rd (XEC_SL_XEVT n) = raised (s.rd (XEC_SL_XEVT n)) 9 ∧ Wrote [XEC_SL_XEVT n] s t) ∧
    (Sup w 7 s → n.val ≠ 0 → s.life n = 1 → s.xfer = none → s.locked 7 n = false → (s.stagedOf 7 n).waits = [] → Answers (.quiesce w n) s fun t =>
      t.rd (XEC_SL_XSTAT n) = raised (setBits (setBits (setBits x 7 4 1) 11 8 0) 2 0 2) 12 ∧
      (t.sl n).held = none ∧ (t.sl n).quiesceAt = some s.clk ∧
      (∀ ps, (s.sl n).pass = some ps → (t.sl n).pass = if ps.started then some ps else none) ∧
      RegsBut [XEC_SL_XSTAT n] s t ∧ t = { s with regs := t.regs, reply := t.reply, slices := t.slices }) ∧
    (∀ a, ∀ y ∈ [(Instr.quiesce w n, 1, n.val != 0 && decide (s.life n = 1), true), (.resume w n a, 2, decide (s.life n = 3), true),
        (.sliceReset w n, 6, decide (s.life n = 3), true), (.sliceAbort w n, 7, decide (4 ≤ s.life n), false)], Sup w 7 s →
      (y.2.2.1 = false → Answers y.1 s fun t =>
        t.rd (XEC_SL_XSTAT n) = setBits (setBits x 7 4 y.2.1) 11 8 1 ∧ Wrote [XEC_SL_XSTAT n] s t) ∧
      (y.2.2.1 = true → y.2.2.2 = true → s.xfer ≠ none → Answers y.1 s fun t =>
        t.rd (XEC_SL_XSTAT n) = setBits (setBits x 7 4 y.2.1) 11 8 2 ∧ Wrote [XEC_SL_XSTAT n] s t)) ∧
    (s.life n = 2 → (s.sl n).pass = none → (s.sl n).capture = none → (s.pr q).running ≠ n + 1 → s.outstanding n = false →
      Answers (.quiesceComplete n) s fun t =>
        t.rd (XEC_SL_XSTAT n) = lowered (setBits x 2 0 3) 12 ∧ t.run n = 7 ∧
        t.rd (XEC_SL_XEVT n) = raised (s.rd (XEC_SL_XEVT n)) 0 ∧ (t.sl n).quiesceAt = none ∧
        RegsBut [XEC_SL_XSTAT n, XEC_SL_STAT n, XEC_SL_XEVT n, XEC_STAT] s t ∧
        t = { s with regs := t.regs, slices := t.slices }) ∧
    (∀ at0, (s.sl n).quiesceAt = some at0 → s.life n = 2 → at0 + s.qTmo n ≤ s.clk → Answers (.quiesceTimeout n) s fun t =>
        t.life n = 3 ∧ t.run n = 7 ∧ t.bit (XEC_SL_XSTAT n) 12 = false ∧ t.bit (XEC_SL_XEVT n) 0 = true ∧
        t.bit (XEC_SL_XEVT n) 2 = true ∧ (t.sl n).pass = none ∧ (t.sl n).capture = none ∧
        (∀ r ∈ t.pubQ, ∀ o, r.owner = some o → o.1 ≠ n.val) ∧ ((s.sl n).pass = none → t.free = s.free)) ∧
    (Sup w 7 s → s.life n = 3 → s.xfer = none → Answers (.resume w n false) s fun t => ∃ u : State, t = u.dispatch q ∧
      u.rd (XEC_SL_XSTAT n) = lowered (setBits (setBits (setBits x 7 4 2) 11 8 0) 2 0 1) 12 ∧
      u.rd (XEC_SL_STAT n) = setBits (setBits (s.rd (XEC_SL_STAT n)) 7 4 0) 2 0 1 ∧
      u.rd (XEC_SL_XEVT n) = raised (s.rd (XEC_SL_XEVT n)) 1 ∧
      RegsBut [XEC_SL_XSTAT n, XEC_SL_STAT n, XEC_SL_XEVT n] s u ∧
      u = { s with regs := u.regs, reply := u.reply, slices := s.slices.put n { s.sl n with
        cmiss := 0, fresh := true, armRel := none } }) ∧
    (Sup w 7 s → s.life n = 3 → s.xfer = none → s.closedGp.at' (s.slRef n) = 0 → Answers (.resume w n true) s fun t =>
      t.rd (XEC_SL_XSTAT n) = raised (setBits (setBits (setBits x 7 4 2) 11 8 0) 2 0 7) 12 ∧
      RegsBut [XEC_SL_XSTAT n, XEC_SL_STAT n] s t ∧
      t = { s with regs := t.regs, reply := t.reply, slices := s.slices.put n { s.sl n with
        prevLife := 3, cmiss := 0, fresh := true, armRel := none } }) ∧
    (∀ ps, (s.sl n).armRel = some ps → s.life n = 7 → (s.sl n).pass = none → Answers (.armedResume n) s fun t =>
      t.life n = 1 ∧ t.bit (XEC_SL_XEVT n) 1 = true ∧ t.rd (XEC_SL_SEQ n) = s.resumeSeq n ps.gp ∧ (t.sl n).armRel = none ∧
      (∃ ps', (t.sl n).pass = some ps' ∧ ps'.gp = ps.gp ∧ ps'.seq = s.resumeSeq n ps.gp) ∧
      RegsBut ([XEC_SL_XSTAT n, XEC_SL_XEVT n, XEC_SL_SEQ n] ++ slStats) s t ∧
      t = { s with regs := t.regs, slices := t.slices, pairs := t.pairs }) ∧
    (Sup w 7 s → s.life n = 3 → s.xfer = none → Answers (.sliceReset w n) s fun t =>
      t.rd (XEC_SL_XSTAT n) = lowered (setBits (setBits x 7 4 6) 11 8 0) 14 ∧ (t.sl n).curImg.valid = false ∧
      (t.sl n).everRun = false ∧ RegsBut [XEC_SL_XSTAT n] s t ∧
      t = { s with regs := t.regs, reply := t.reply, slices := t.slices }) ∧
    (Sup w 7 s → s.life n = 5 ∨ s.life n = 6 → Answers (.sliceAbort w n) s fun t =>
      t.life n = (s.sl n).prevLife % 8 ∧ t.fld (XEC_SL_XSTAT n) 7 4 = 7 ∧ t.fld (XEC_SL_XSTAT n) 11 8 = 8 ∧
      t.bit (XEC_SL_XSTAT n) 12 = false ∧ t.rd (XEC_SL_XEVT n) = raised (s.rd (XEC_SL_XEVT n)) 6 ∧
      t.bit XEC_XFER_STAT 0 = false ∧ RegsBut [XEC_SL_XSTAT n, XEC_SL_XEVT n, XEC_XFER_STAT] s t ∧
      t = { s with regs := t.regs, reply := t.reply, xfer := none, slices := t.slices }) ∧
    (Sup w 7 s → s.life n = 7 → Answers (.sliceAbort w n) s fun t =>
      t.life n = (s.sl n).prevLife % 8 ∧ t.fld (XEC_SL_XSTAT n) 11 8 = 8 ∧ t.bit (XEC_SL_XSTAT n) 12 = false ∧
      t.rd (XEC_SL_XEVT n) = raised (s.rd (XEC_SL_XEVT n)) 6 ∧ (t.sl n).armRel = none ∧
      RegsBut [XEC_SL_XSTAT n, XEC_SL_XEVT n] s t ∧ t = { s with regs := t.regs, reply := t.reply, slices := t.slices }) ∧
    (Sup w 7 s → s.life n = 4 → Answers (.sliceAbort w n) s fun t =>
      t.life n = (s.sl n).prevLife % 8 ∧ t.fld (XEC_SL_XSTAT n) 11 8 = 8 ∧ t.bit (XEC_SL_XSTAT n) 12 = false ∧
      t.rd (XEC_SL_XEVT n) = raised (s.rd (XEC_SL_XEVT n)) 6 ∧ (t.sl n).moveTo = none ∧ t.bit XEC_XFER_STAT 0 = false ∧
      RegsBut ([XEC_SL_XSTAT n, XEC_SL_XEVT n, XEC_XFER_STAT] ++ slStats) s t ∧
      t = { s with regs := t.regs, reply := t.reply, xfer := none, slices := t.slices, pairs := t.pairs }) ∧
    (s.life n ≠ 2 → let f := fun (i : Instr) => Answers i s fun t => t = s
      f (.quiesceComplete n) ∧ f (.quiesceTimeout n)) ∧
    ((s.sl n).pass ≠ none ∨ (s.sl n).capture ≠ none ∨ (s.pr q).running = n + 1 ∨ s.outstanding n = true →
      Answers (.quiesceComplete n) s fun t => t = s) ∧
    (s.life n ≠ 7 ∨ (s.sl n).armRel = none → Answers (.armedResume n) s fun t => t = s)

/-- R228–R233: each transfer command that nothing refuses occupies the transfer unit; one that something refuses only shows
its result; a completed move puts the slice on its pair with its window and releases what was held, a completed save has
written the container with its completion word, and a completed restore has the image in the current bank; without its
transfer nothing changes. -/
def Obligations.SliceTransfers : Prop :=
  ∀ (w : Who) (n : Fin 256) (s : State), s.Canonical →
    let x := s.rd (XEC_SL_XSTAT n)
    (∀ (pair : Fin 16) (page : Fin 256) (live delta : Bool),
      (∀ y ∈ [(Instr.move w n pair page, 3, s.moveRefusal n pair page), (.save w n live delta, 4, s.saveRefusal n live),
          (.restore w n, 5, s.restoreRefusal n)], y.2.2 ≠ 0 → Sup w 7 s → Answers y.1 s fun t =>
          t.rd (XEC_SL_XSTAT n) = setBits (setBits x 7 4 y.2.1) 11 8 y.2.2 ∧ Wrote [XEC_SL_XSTAT n] s t) ∧
      (Sup w 7 s → s.moveRefusal n pair page = 0 → Answers (.move w n pair page) s fun t =>
        t.xfer = some { slice := n, cmd := 3, live := false, delta := false, pair := pair, page := page } ∧
        t.rd XEC_XFER_STAT = 1 + 3 * 2 + n * 2 ^ 8 ∧ (t.sl n).moveTo = some (pair.val, page.val) ∧
        t.rd (XEC_SL_XSTAT n) = (if s.life n = 3 then setBits (raised (setBits (setBits x 7 4 3) 11 8 0) 12) 2 0 4
          else raised (setBits (setBits x 7 4 3) 11 8 0) 12) ∧
        RegsBut [XEC_SL_XSTAT n, XEC_XFER_STAT] s t ∧
        t = { s with regs := t.regs, reply := t.reply, xfer := t.xfer, slices := t.slices }) ∧
      (Sup w 7 s → s.saveRefusal n live = 0 → Answers (.save w n live delta) s fun t =>
        t.xfer = some { slice := n, cmd := 4, live := live && s.life n == 1, delta := delta, pair := s.slPair n, page := 0 } ∧
        t.rd XEC_XFER_STAT = 1 + 4 * 2 + n * 2 ^ 8 ∧ t.life n = (if s.life n = 1 then 1 else 5) ∧
        RegsBut [XEC_SL_XSTAT n, XEC_XFER_STAT] s t ∧
        t = { s with regs := t.regs, reply := t.reply, xfer := t.xfer, slices := t.slices }) ∧
      (Sup w 7 s → s.restoreRefusal n = 0 → Answers (.restore w n) s fun t =>
        t.xfer = some { slice := n, cmd := 5, live := false, delta := false, pair := s.slPair n, page := 0 } ∧
        t.rd XEC_XFER_STAT = 1 + 5 * 2 + n * 2 ^ 8 ∧ t.life n = 6 ∧ RegsBut [XEC_SL_XSTAT n, XEC_XFER_STAT] s t ∧
        t = { s with regs := t.regs, reply := t.reply, xfer := t.xfer, slices := t.slices })) ∧
    (∀ pair page, (s.sl n).moveTo = some (pair, page) → s.life n = 4 → (s.sl n).capture = none → pair < 12 →
      Answers (.moveComplete n) s fun t =>
        t.slPair n = pair ∧ t.life n = (s.sl n).prevLife % 8 ∧ (t.sl n).moveTo = none ∧ t.xfer = none ∧
        t.bit XEC_XFER_STAT 0 = false ∧
        t.rd XEC_XFER_CNT = incSat 32 (s.rd XEC_XFER_CNT) ∧ t.bit (XEC_SL_XEVT n) 3 = true ∧
        (∀ k g, s.windowGrant n = some (k, g) → t.grants = s.grants.put k { g with first := 256 * pair + page }) ∧
        (∀ h, (s.sl n).held = some h → s.run n ≠ 6 →
          (t.sl n).pass.map (fun ps => (ps.seq, ps.gp)) = some (h.seq, h.gp) ∧ (t.sl n).held = none) ∧
        LowMem s t ∧
        RegsBut ([XEC_SL_CFG n, shadow (XEC_SL_CFG n), XEC_SL_XSTAT n, XEC_SL_XEVT n, XEC_XFER_STAT, XEC_XFER_CNT] ++ slStats)
          s t) ∧
    ((s.sl n).moveTo = none ∨ s.life n ≠ 4 ∨ (s.sl n).capture ≠ none → Answers (.moveComplete n) s fun t => t = s) ∧
    (s.xferIs n 4 = none ∨ s.power.mem = false → Answers (.saveComplete n) s fun t => t = s) ∧
    (s.xferIs n 5 = none ∨ s.power.mem = false → Answers (.restoreComplete n) s fun t => t = s) ∧
    (∀ y, s.xferIs n 4 = some y → s.power.mem = true → Answers (.saveComplete n) s fun t =>
      t.ld s.xferBuf 4 = 0x534C4353 ∧ (∀ a, a < s.xferBuf → t.rdByte a = s.rdByte a) ∧
      (t.rdByte (s.xferBuf + 0x3F)).toNat / 2 ^ 7 = 1 ∧
      (t.sl n).saveNo = (if y.delta then (s.sl n).saveNo + 1 else 0) ∧ (t.sl n).dirty = [] ∧ t.life n = (if y.live then s.life n else 3) ∧
      t.bit (XEC_SL_XSTAT n) 13 = y.live ∧
      t.xfer = none ∧ t.bit XEC_XFER_STAT 0 = false ∧ t.bit (XEC_SL_XSTAT n) 12 = false ∧
      t.rd XEC_XFER_CNT = incSat 32 (s.rd XEC_XFER_CNT) ∧
      t.rd (XEC_SL_XEVT n) = raised (s.rd (XEC_SL_XEVT n)) 4 ∧
      RegsBut [XEC_SL_XSTAT n, XEC_SL_XEVT n, XEC_XFER_STAT, XEC_XFER_CNT] s t ∧
      t.red = { s.red with dirty := t.red.dirty } ∧
      t = { s with regs := t.regs, mem := t.mem, poison := t.poison, xfer := none, slices := t.slices, red := t.red }) ∧
    (∀ y, s.xferIs n 5 = some y → s.power.mem = true → Answers (.restoreComplete n) s fun t =>
      (t.sl n).curImg.valid = true ∧ (t.sl n).curImg.seq = s.ld (s.xferBuf + 16) 4 ∧
      (t.sl n).curImg.gp = s.ld (s.xferBuf + 20) 4 ∧ (t.sl n).everRun = true ∧ t.life n = 3 ∧
      t.bit (XEC_SL_XSTAT n) 14 = true ∧ t.bit (XEC_SL_XSTAT n) 12 = false ∧ t.xfer = none ∧
      t.bit XEC_XFER_STAT 0 = false ∧ t.rd XEC_XFER_CNT = incSat 32 (s.rd XEC_XFER_CNT) ∧
      t.rd (XEC_SL_XEVT n) = raised (s.rd (XEC_SL_XEVT n)) 5 ∧
      RegsBut [XEC_SL_XSTAT n, XEC_SL_XEVT n, XEC_XFER_STAT, XEC_XFER_CNT] s t ∧
      t.red = { s.red with dirty := t.red.dirty } ∧
      t = { s with regs := t.regs, mem := t.mem, poison := t.poison, xfer := none, slices := t.slices, red := t.red })

/-- R237, R239, R240, R243, R332: a port write that is granted writes the point's record with value, quality, type, slice
and count, and nothing else in memory, and is counted; while the store is disabled its result is 2; a watch of the point
triggers on its first write after it was enabled, on a change its mode asks for, and on a change of quality where it says so,
and on no other write. -/
def Obligations.PortWrites : Prop :=
  ∀ (w : Who) (v : Word) (s : State), s.Canonical → Reaches w 8 s →
    let p := bits v.toNat 22 0
    let stat := bank w.master PTS_WP_STAT
    let a := s.pointAt p
    s.may w 4 p .wr = true →
    (s.bit PTS_CTL 0 = false ∨ s.memOn a = false → Answers (.portWrite w v) s fun t =>
      t.rd stat = 2 ∧ Wrote [stat] s t) ∧
    (s.bit PTS_CTL 0 = true → s.memOn a = true →
      (s.watchesOf p = [] → Answers (.portWrite w v) s fun t =>
        t.pointVal p = s.rd (bank w.master PTS_WP_VAL_LO) + 2 ^ 32 * s.rd (bank w.master PTS_WP_VAL_HI) ∧
        t.pointWord p 2 = s.fld (bank w.master PTS_WP_QUAL) 7 0 + bits v.toNat 26 23 * 2 ^ 8 + w.slice * 2 ^ 16 ∧
        t.pointWord p 3 = (s.pointTime w (bitAt v.toNat 27)).2 % 2 ^ 32 ∧
        t.pointWord p 4 = (s.pointTime w (bitAt v.toNat 27)).1 % 2 ^ 32 ∧
        t.pointWord p 7 = (s.pointWord p 7 + 1) % 2 ^ 31 + 2 ^ 31 ∧
        (∀ x, x < a ∨ a + 32 ≤ x → t.rdByte x = s.rdByte x) ∧
        t.rd stat = 0 ∧ t.rd PTS_WRITES = incSat 32 (s.rd PTS_WRITES) ∧ RegsBut [stat, PTS_WRITES] s t ∧ Noted s t ∧
        t = { s with regs := t.regs, reply := t.reply, mem := t.mem, poison := t.poison, slices := t.slices, red := t.red }) ∧
      (∀ k, s.watchesOf p = [k] →
        let cfg := s.rd (PTS_WATCH_CFG k)
        let o := s.watch.at' k
        let new := s.rd (bank w.master PTS_WP_VAL_LO) + 2 ^ 32 * s.rd (bank w.master PTS_WP_VAL_HI)
        let q := s.fld (bank w.master PTS_WP_QUAL) 7 0
        let hit := bits cfg 30 29 ≠ 0 ∧ (o.armed = false ∨
          watchValue (bits cfg 30 29) (bits v.toNat 26 23) (s.rd (PTS_WATCH_DB k)) new o.val = true ∨
          bitAt cfg 28 = true ∧ q ≠ o.qual)
        (hit → Answers (.portWrite w v) s fun t =>
          t.rd PTS_WRITES = incSat 32 (s.rd PTS_WRITES) ∧ t.rd (PTS_WATCH_CNT k) = incSat 32 (s.rd (PTS_WATCH_CNT k)) ∧
          t.rd PTS_CHANGES = incSat 32 (s.rd PTS_CHANGES) ∧
          t.watch = s.watch.put k { armed := true, val := new, qual := q } ∧ t.pointVal p = new) ∧
        (¬hit → Answers (.portWrite w v) s fun t =>
          t.rd PTS_WRITES = incSat 32 (s.rd PTS_WRITES) ∧ t.watch = s.watch ∧ t.pubQ = s.pubQ ∧
          RegsBut [stat, PTS_WRITES] s t ∧ t.pointVal p = new)))

/-- Memory outside the sets and marks of the subscriptions (R248) is as before. -/
def Sys2Proof.Claims.SubMem (s t : State) : Prop :=
  let root := s.base PTS_SUB_BASE_LO 22
  ∀ x, x < root ∨ root + 0x204000 ≤ x → t.rdByte x = s.rdByte x

/-- R244, R245, R247, R248: a damaged frame is only counted, one of a subscription that is off, a repeated one, and one that fails a
check of its message is discarded with its cause; a first frame
that passes every check makes the subscription VALID with its stNum and sqNum and publishes its set; of a VALID one, a
retransmission renews the expiry and publishes nothing, and a jump of stNum counts the states missed. -/
def Obligations.GooseFrames : Prop :=
  ∀ (n : Fin 1024) (f : RxFrame) (s : State), s.Canonical →
    (s.power.cx = false ∨ s.bit PTS_CTL 1 = false → Answers (.gooseFrameReceive n f) s fun t => t = s) ∧
    (s.power.cx = true → s.bit PTS_CTL 1 = true →
    let p := parseFrame f.octets
    let st := s.rd (PTS_SUB_STAT n)
    let rxd := s.rd PTS_SUB_RX
    let regs := [PTS_SUB_RX, PTS_SUB_STAT n, PTS_SUB_EVT n, PTS_SUB_SQNUM n, PTS_SUB_ACC n]
    (f.bad = true → Answers (.gooseFrameReceive n f) s fun t =>
      t.rd PTS_SUB_RX = incSat 32 rxd ∧ Wrote [PTS_SUB_RX] s t) ∧
    (∀ a, f.bad = false → s.bit (PTS_SUB_CFG n) 31 = true → s.bit (PTS_SUB_CFG n) 25 = false → p.etype = 0x88B8 →
      readApdu p.body = some a → a.appid = s.fld (PTS_SUB_ID n) 15 0 → (a.sim = true → s.bit (PTS_SUB_CFG n) 26 = true) →
      s.fld (PTS_SUB_CFG n) 30 29 = 0 →
      let dup := dupStep (s.fld (PTS_SUB_CFG n) 28 27) p (s.subOf n).win f.path
      (dup.1 ≠ .fresh → Answers (.gooseFrameReceive n f) s fun t =>
        t.rd PTS_SUB_RX = incSat 32 rxd ∧ t.rd (PTS_SUB_DISC n) = incSat 32 (s.rd (PTS_SUB_DISC n)) ∧
        t.rd (PTS_SUB_STAT n) = setBits st 11 8 7 ∧ Wrote [PTS_SUB_RX, PTS_SUB_DISC n, PTS_SUB_STAT n] s t) ∧
      (∀ c, dup.1 = .fresh → s.gooseCheck n a.sim a.apdu = .bad c → Answers (.gooseFrameReceive n f) s fun t =>
        t.rd PTS_SUB_RX = incSat 32 rxd ∧ t.rd (PTS_SUB_DISC n) = incSat 32 (s.rd (PTS_SUB_DISC n)) ∧
        t.rd (PTS_SUB_STAT n) = setBits st 11 8 c ∧ RegsBut [PTS_SUB_RX, PTS_SUB_DISC n, PTS_SUB_STAT n] s t ∧
        t = { s with regs := t.regs, subs := s.subs.put n { s.subOf n with
          win := dup.2, failRun := (s.subOf n).failRun + 1, outRun := 0, exit := none } })) ∧
    (f.bad = false → s.bit (PTS_SUB_CFG n) 31 = false → Answers (.gooseFrameReceive n f) s fun t =>
      t.rd PTS_SUB_RX = incSat 32 rxd ∧ t.rd (PTS_SUB_DISC n) = incSat 32 (s.rd (PTS_SUB_DISC n)) ∧
      Wrote [PTS_SUB_RX, PTS_SUB_DISC n] s t) ∧
    (∀ a win m, f.bad = false → s.bit (PTS_SUB_CFG n) 31 = true →
      (s.bit (PTS_SUB_CFG n) 25 = true → p.src = s.rd (PTS_SUB_SRC_LO n) + 2 ^ 32 * s.fld (PTS_SUB_SRC_HI n) 15 0) →
      p.etype = 0x88B8 → readApdu p.body = some a → a.appid = s.fld (PTS_SUB_ID n) 15 0 →
      (a.sim = true → s.bit (PTS_SUB_CFG n) 26 = true) → s.fld (PTS_SUB_CFG n) 30 29 = 0 →
      dupStep (s.fld (PTS_SUB_CFG n) 28 27) p (s.subOf n).win f.path = (.fresh, win) →
      s.gooseCheck n a.sim a.apdu = .good m →
      let rx := s.extendTs f.ts32.toNat
      let m' := { m with
        rxNs := rx, rxTick := s.clk - (if f.stepCnt.toNat = s.rd TIME_STEP_CNT then s.wallNs - rx else 0) / 8 }
      let exp := m'.rxTick + (m.tal * 1000000 + s.fld (PTS_SUB_ID n) 31 16 * 1000) / 8
      let mark := s.base PTS_SUB_BASE_LO 22 + 0x200000 + 16 * n
      let d := (m.st + 2 ^ 32 - (s.subOf n).st) % 2 ^ 32
      (s.subState n = 1 ∨ s.subState n = 3 → Answers (.gooseFrameReceive n f) s fun t =>
        t.rd (PTS_SUB_STAT n) = setBits (setBits st 2 0 2) 31 16 m.st ∧
        t.rd (PTS_SUB_EVT n) = raised (s.rd (PTS_SUB_EVT n)) 0 ∧ t.rd (PTS_SUB_SQNUM n) = m.sq % 2 ^ 32 ∧
        t.rd (PTS_SUB_ACC n) = incSat 32 (s.rd (PTS_SUB_ACC n)) ∧ (t.subOf n).set = some m' ∧ (t.subOf n).st = m.st ∧
        (t.subOf n).expiry = exp ∧ t.ld mark 4 = nextMark (s.ld mark 4) false false (1 - s.ld mark 4 % 2) % 2 ^ 32 ∧
        SubMem s t ∧ RegsBut regs s t ∧ Noted s t ∧
        t = { s with regs := t.regs, mem := t.mem, poison := t.poison, subs := t.subs, slices := t.slices, red := t.red }) ∧
      (s.subState n = 2 → d = 0 → 0 < (m.sq + 2 ^ 32 - s.rd (PTS_SUB_SQNUM n)) % 2 ^ 32 →
        (m.sq + 2 ^ 32 - s.rd (PTS_SUB_SQNUM n)) % 2 ^ 32 < 2 ^ 31 → Answers (.gooseFrameReceive n f) s fun t =>
        t.rd (PTS_SUB_SQNUM n) = m.sq % 2 ^ 32 ∧ t.rd (PTS_SUB_ACC n) = incSat 32 (s.rd (PTS_SUB_ACC n)) ∧
        (t.subOf n).expiry = exp ∧ (t.subOf n).set = (s.subOf n).set ∧ RegsBut regs s t ∧
        t = { s with regs := t.regs, subs := t.subs }) ∧
      (s.subState n = 2 → 1 < d → d < 2 ^ 31 → m.st ≠ 1 → Answers (.gooseFrameReceive n f) s fun t =>
        t.rd (PTS_SUB_STGAP n) = min (s.rd (PTS_SUB_STGAP n) + (d - 1)) (2 ^ 32 - 1) ∧ t.bit (PTS_SUB_EVT n) 3 = true ∧
        (t.subOf n).st = m.st ∧ (t.subOf n).set = some m' ∧ SubMem s t ∧ RegsBut (PTS_SUB_STGAP n :: regs) s t)))

/-- R246–R248, R265, R529: a VALID subscription whose time is over expires and publishes its set as expired; four discards
in a row fail it, and the second good frame in a row makes it VALID again; enabling it starts it waiting, disabling it
ends it; without its cause nothing changes. -/
def Obligations.SubscriptionStates : Prop :=
  ∀ (n : Fin 1024) (s : State), s.Canonical →
    let c := s.subOf n
    let st := s.rd (PTS_SUB_STAT n)
    let ev := s.rd (PTS_SUB_EVT n)
    (s.power.cx = true → s.subState n = 2 → c.expiry ≤ s.clk → (∀ m, c.set = some m → m.vals.length ≤ 60) →
      Answers (.gooseExpiry n) s fun t =>
        t.rd (PTS_SUB_STAT n) = setBits st 2 0 3 ∧ t.rd (PTS_SUB_EVT n) = raised (raised ev 0) 2 ∧
        t.rd (PTS_SUB_EXP n) = incSat 32 (s.rd (PTS_SUB_EXP n)) ∧ SubMem s t ∧ (c.set = none → t.mem = s.mem) ∧
        RegsBut [PTS_SUB_STAT n, PTS_SUB_EVT n, PTS_SUB_EXP n] s t ∧
        Noted s t ∧ t = { s with regs := t.regs, mem := t.mem, poison := t.poison, slices := t.slices, red := t.red }) ∧
    (s.subState n = 1 ∨ s.subState n = 2 ∨ s.subState n = 3 → 4 ≤ c.failRun → Answers (.subFailed n) s fun t =>
      t.rd (PTS_SUB_STAT n) = setBits st 2 0 4 ∧ t.rd (PTS_SUB_EVT n) = raised (raised ev 0) 1 ∧
      RegsBut [PTS_SUB_STAT n, PTS_SUB_EVT n] s t ∧
      t = { s with regs := t.regs, subs := s.subs.put n { c with outRun := 0, exit := none } }) ∧
    (∀ m, s.subState n = 4 → 2 ≤ c.outRun → c.exit = some m → m.vals.length ≤ 60 → Answers (.subFailedExit n) s fun t =>
      t.rd (PTS_SUB_STAT n) = setBits (setBits st 2 0 2) 31 16 m.st ∧ t.rd (PTS_SUB_EVT n) = raised ev 0 ∧
      t.rd (PTS_SUB_SQNUM n) = m.sq % 2 ^ 32 ∧ t.rd (PTS_SUB_ACC n) = incSat 32 (s.rd (PTS_SUB_ACC n)) ∧
      (t.subOf n).set = some m ∧ (t.subOf n).failRun = 0 ∧ (t.subOf n).exit = none ∧ SubMem s t ∧
      RegsBut [PTS_SUB_STAT n, PTS_SUB_EVT n, PTS_SUB_SQNUM n, PTS_SUB_ACC n] s t ∧
      Noted s t ∧
      t = { s with regs := t.regs, mem := t.mem, poison := t.poison, subs := t.subs, slices := t.slices, red := t.red }) ∧
    (s.power.cx = false ∨ s.subState n ≠ 2 ∨ s.clk < c.expiry → Answers (.gooseExpiry n) s fun t => t = s) ∧
    (s.subState n ∉ [1, 2, 3] ∨ c.failRun < 4 → Answers (.subFailed n) s fun t => t = s) ∧
    (s.subState n ≠ 4 ∨ c.outRun < 2 → Answers (.subFailedExit n) s fun t => t = s) ∧
    (∀ (w : Who) (v : Word), Sup w 8 s → bits v.toNat 5 0 < 60 →
      let cfg := v.toNat - v.toNat % 2 ^ 25 / 2 ^ 6 * 2 ^ 6
      (bitAt v.toNat 31 = s.bit (PTS_SUB_CFG n) 31 → Answers (.subCfgWrite w n v) s fun t =>
        t.rd (PTS_SUB_CFG n) = cfg ∧ Wrote [PTS_SUB_CFG n] s t) ∧
      (bitAt v.toNat 31 = true → s.bit (PTS_SUB_CFG n) 31 = false → Answers (.subCfgWrite w n v) s fun t =>
        t.rd (PTS_SUB_CFG n) = cfg ∧ t.subState n = 1 ∧ RegsBut [PTS_SUB_CFG n, PTS_SUB_STAT n, PTS_SUB_EVT n] s t ∧
        t = { s with regs := t.regs, reply := t.reply, subs := s.subs.put n {} }) ∧
      (bitAt v.toNat 31 = false → s.bit (PTS_SUB_CFG n) 31 = true → Answers (.subCfgWrite w n v) s fun t =>
        t.rd (PTS_SUB_CFG n) = cfg ∧ t.subState n = 0 ∧ Wrote [PTS_SUB_CFG n, PTS_SUB_STAT n, PTS_SUB_EVT n] s t))

/-- R251–R253, R257, R260: a request that nothing stops enters the queue behind those of its own or a higher switch queue,
with the time of its acceptance, and its result is 0; each reason to refuse has its result, and its count or event. -/
def Obligations.PublisherRequests : Prop :=
  ∀ (w : Who) (e : Fin 512) (s : State), s.Canonical → Reaches w 9 s → s.may w 12 e .use = true →
    let res := bank w.master PUB_REQ_STAT
    let owner := (w.slice.val, (s.passNo w.slice).1)
    let sw := fun (k : Nat) => s.fld (PUB_ENT_CFG k) 25 23
    let live := e.val < 256 ∧ s.bit PUB_CTL 0 = true ∧ s.bit (PUB_ENT_CFG e) 31 = true ∧ s.pubBad e = false
    (256 ≤ e.val → ∀ i ∈ [Instr.pubReqNewState w e, .pubReqRefresh w e], Answers i s fun t =>
      t.rd res = 1 ∧ Wrote [res] s t) ∧
    (s.bit (PUB_ENT_CFG e) 31 = false → ∀ i ∈ [Instr.pubReqNewState w e, .pubReqRefresh w e], Answers i s fun t =>
      t.rd res = 1 ∧ Wrote [res] s t) ∧
    (live → (s.passNo w.slice).2 = true → s.lastOwner e = some owner → Answers (.pubReqNewState w e) s fun t =>
      t.rd res = 3 ∧ t.rd PUB_REPEAT = incSat 32 (s.rd PUB_REPEAT) ∧ t.bit (PUB_ENT_EVT e) 2 = true ∧
      Wrote [res, PUB_REPEAT, PUB_ENT_EVT e, PUB_ENT_STAT e] s t) ∧
    (live → s.pubProt e = true → s.mandate = false → Answers (.pubReqRefresh w e) s fun t =>
      t.rd res = 4 ∧ t.rd PUB_NOMANDATE = incSat 32 (s.rd PUB_NOMANDATE) ∧ Wrote [res, PUB_NOMANDATE, PUB_ENT_STAT e] s t) ∧
    (live → s.pubMay e = true → 64 ≤ s.pubQ.length → Answers (.pubReqRefresh w e) s fun t =>
      t.rd res = 2 ∧ t.rd PUB_REQ_FULL = incSat 32 (s.rd PUB_REQ_FULL) ∧ Wrote [res, PUB_REQ_FULL, PUB_ENT_STAT e] s t) ∧
    (s.bit PUB_CTL 0 = false → ∀ i ∈ [Instr.pubReqNewState w e, .pubReqRefresh w e], Answers i s fun t =>
      t.rd res = 1 ∧ Wrote [res, PUB_ENT_STAT e, PUB_ENT_EVT e] s t) ∧
    (e.val < 256 → s.bit (PUB_ENT_CFG e) 31 = true → s.pubBad e = true →
      ∀ i ∈ [Instr.pubReqNewState w e, .pubReqRefresh w e], Answers i s fun t =>
      t.rd res = 1 ∧ t.bit (PUB_ENT_STAT e) 1 = true ∧ Wrote [res, PUB_ENT_STAT e, PUB_ENT_EVT e] s t) ∧
    (live → s.pubMay e = true → (s.passNo w.slice).2 = false → s.pubQ.any (fun r => r.entry == e.val && !r.refresh) = true →
      Answers (.pubReqNewState w e) s fun t =>
        t.pubQ = s.pubQ.map (fun r => if r.entry = e.val ∧ r.refresh = false then { r with owner := some owner } else r) ∧
        t.rd res = 0 ∧ RegsBut [res, PUB_ENT_STAT e] s t ∧ t = { s with regs := t.regs, reply := t.reply, pubQ := t.pubQ }) ∧
    (∀ x ∈ [(Instr.pubReqNewState w e, true), (.pubReqRefresh w e, false)],
      (x.2 = true → (s.passNo w.slice).2 = false ∧ s.pubQ.any (fun r => r.entry == e.val && !r.refresh) = false) →
      live → s.pubMay e = true → s.pubQ.length < 64 → Answers x.1 s fun t =>
        (∃ a b, s.pubQ = a ++ b ∧ (∀ y ∈ a, sw e ≤ sw y.entry) ∧ (∀ y, b.head? = some y → sw y.entry < sw e) ∧
          t.pubQ = a ++ [{ entry := e, refresh := !x.2, sec := s.time.sec, ns := s.time.ns
                           tq := timeQuality s.syncClass, owner := some owner }] ++ b) ∧
        t.rd res = 0 ∧ t.bit (PUB_ENT_STAT e) 2 = true ∧ (x.2 = true → t.lastOwner e = some owner) ∧
        RegsBut [res, PUB_ENT_STAT e] s t ∧ t = { s with regs := t.regs, reply := t.reply, pubQ := t.pubQ })

/-- The frame `f` of entry `e` is handed to the switch at port 12 on the entry's queue, and counted. -/
def Sys2Proof.Claims.Sent (e : Nat) (f : List Byte) (u t : State) : Prop :=
  let x := u.enter 12 { octets := withFcs f, queue := u.fld (PUB_ENT_CFG e) 25 23, desc := none, direct := none }
  t.rd PUB_TX = incSat 32 (x.rd PUB_TX) ∧ t.rd (PUB_ENT_TX e) = incSat 32 (x.rd (PUB_ENT_TX e)) ∧
    RegsBut [PUB_TX, PUB_ENT_TX e, PUB_ENT_STAT e] x t ∧ (∀ k, k ≠ e → t.pubOf k = u.pubOf k) ∧
    t = { x with regs := t.regs, pub := t.pub }

/-- The GOOSE frame of transmission `k` with the numbers and instant that the registers of `u` show (R254–R256). -/
def Sys2Proof.Claims.GooseOut (e k : Nat) (u t : State) : Prop := ∃ pdu,
  u.goosePdu e (u.rd (PUB_ENT_STNUM e)) (u.rd (PUB_ENT_SQNUM e)) (u.rd (PUB_ENT_T_SEC e)) (u.rd (PUB_ENT_T_NS e))
    (u.pubTal e k) = some pdu ∧ Sent e (u.pubHeader e 0x88B8 pdu.length (u.bit PUB_CTL 1) ++ pdu) u t

/-- R253–R256, R258, R263, R276: the request at the head, a retransmission that is due and a sampled-value instant each hand
one frame to the switch, with the counts, numbers and instants that follow; a gated entry's request is discarded and its
curve ends without the mandate. The entry needs no authentication here and its members can be encoded. `u` is the state
before the switch takes the frame. -/
def Obligations.PublisherFrames : Prop :=
  ∀ (s : State), s.Canonical →
    (s.pubQ = [] ∨ s.power.nx = false ∨ s.bit PUB_CTL 0 = false → ∀ dual, Answers (.pubTransmit dual) s fun t => t = s) ∧
    (∀ (e : Fin 256) dual, (∀ d, (s.pubOf e).due = some d → s.clk < d) ∨ s.power.nx = false ∨ s.bit PUB_CTL 0 = false →
      Answers (.retransmission e dual) s fun t => t = s) ∧
    (∀ (k : Fin 8) dual, s.power.nx = false ∨ s.bit PUB_CTL 0 = false ∨ s.bit (PUB_ENT_CFG (256 + k.val)) 31 = false ∨
      (s.pubOf (256 + k.val)).svRun = false → Answers (.svPublish k dual) s fun t => t = s) ∧
    (s.power.nx = true → s.bit PUB_CTL 0 = true →
    let good := fun (e : Nat) => s.bit (PUB_ENT_CFG e) 31 = true ∧ s.pubBad e = false ∧ s.fld (PUB_ENT_CFG e) 22 21 = 0
    let fits := fun (e : Nat) =>
      (allSome ((List.range (s.tplCount e)).map (fun m => s.memberElem (s.tplMember e m)))).isSome = true
    (∀ r rest, s.pubQ = r :: rest → r.entry < 256 → r.refresh = false → good r.entry → s.pubMay r.entry = true →
      fits r.entry → Answers (.pubTransmit false) s fun t => ∃ u : State,
        let e := r.entry
        GooseOut e 0 u t ∧ u.rd (PUB_ENT_STNUM e) = nextNum (s.rd (PUB_ENT_STNUM e)) % 2 ^ 32 ∧
        u.rd (PUB_ENT_SQNUM e) = 0 ∧ u.rd (PUB_ENT_T_NS e) = r.ns % 2 ^ 32 ∧ u.rd (PUB_ENT_T_SEC e) = r.sec % 2 ^ 32 ∧
        u.bit (PUB_ENT_EVT e) 1 = true ∧ t.bit (PUB_ENT_STAT e) 3 = true ∧ (u.pubOf e).tq = r.tq ∧
        (t.pubOf e).due = some (s.clk + s.pubInterval e 0 * tUs) ∧ (t.pubOf e).k = 1 ∧ (t.pubOf e).last = r.owner ∧
        RegsBut [PUB_ENT_STAT e, PUB_ENT_STNUM e, PUB_ENT_SQNUM e, PUB_ENT_T_NS e, PUB_ENT_T_SEC e, PUB_ENT_EVT e] s u ∧
        (∀ k, k ≠ e → u.pubOf k = s.pubOf k) ∧
        u = { s with regs := u.regs, free := s.free + 1, pubQ := rest, pub := u.pub }) ∧
    (∀ r rest, s.pubQ = r :: rest → r.entry < 256 → r.refresh = true → good r.entry → s.pubMay r.entry = true →
      fits r.entry → (s.pubOf r.entry).renew = false → s.rd (PUB_ENT_STNUM r.entry) ≠ 0 →
      Answers (.pubTransmit false) s fun t => ∃ u : State,
        let e := r.entry
        GooseOut e (s.pubOf e).k u t ∧ u.rd (PUB_ENT_SQNUM e) = nextNum (s.rd (PUB_ENT_SQNUM e)) % 2 ^ 32 ∧
        (t.pubOf e).k = (s.pubOf e).k + 1 ∧ (t.pubOf e).due = some (s.clk + s.pubInterval e (s.pubOf e).k * tUs) ∧
        RegsBut [PUB_ENT_STAT e, PUB_ENT_SQNUM e] s u ∧
        u = { s with regs := u.regs, free := s.free + 1, pubQ := rest }) ∧
    (∀ r rest dual, s.pubQ = r :: rest → s.bit (PUB_ENT_CFG r.entry) 31 = true → s.pubMay r.entry = false →
      Answers (.pubTransmit dual) s fun t =>
        t.rd PUB_NOMANDATE = incSat 32 (s.rd PUB_NOMANDATE) ∧ RegsBut [PUB_NOMANDATE, PUB_ENT_STAT r.entry] s t ∧
        t = { s with regs := t.regs, pubQ := rest }) ∧
    (∀ (e : Fin 256) d, (s.pubOf e).due = some d → d ≤ s.clk → good e → s.pubMay e = true → (s.pubOf e).renew = false →
      fits e → Answers (.retransmission e false) s fun t => ∃ u : State,
        GooseOut e (s.pubOf e).k u t ∧ u.rd (PUB_ENT_SQNUM e) = nextNum (s.rd (PUB_ENT_SQNUM e)) % 2 ^ 32 ∧
        (t.pubOf e).k = (s.pubOf e).k + 1 ∧ (t.pubOf e).due = some (d + s.pubInterval e (s.pubOf e).k * tUs) ∧
        RegsBut [PUB_ENT_STAT e, PUB_ENT_SQNUM e] s u ∧ u = { s with regs := u.regs, free := s.free + 1 }) ∧
    (∀ (e : Fin 256) dual d, (s.pubOf e).due = some d → d ≤ s.clk → s.pubMay e = false →
      Answers (.retransmission e dual) s fun t =>
        (t.pubOf e).due = none ∧ t.rd (PUB_ENT_STAT e) = lowered (s.rd (PUB_ENT_STAT e)) 3 ∧
        t.rd (PUB_ENT_EVT e) = raised (s.rd (PUB_ENT_EVT e)) 3 ∧ RegsBut [PUB_ENT_STAT e, PUB_ENT_EVT e] s t ∧
        t = { s with regs := t.regs, pub := t.pub }) ∧
    (∀ k : Fin 8,
      let e := 256 + k.val
      let p := s.pubOf e
      let r := s.svRate e
      good e → p.svRun = true → (p.svSec * r + p.svCnt) * 10 ^ 9 ≤ s.wallNs * r →
      s.wallNs * r ≤ (p.svSec * r + p.svCnt + 1) * 10 ^ 9 → s.pubMay e = true → Answers (.svPublish k false) s fun t =>
        (t.pubOf e).svCnt = (if p.svCnt + 1 < r then p.svCnt + 1 else 0) ∧
        (t.pubOf e).svSec = (if p.svCnt + 1 < r then p.svSec else p.svSec + 1) ∧
        (s.fld (PUB_ENT_SV e) 5 3 ≤ p.svBuf.length → (t.pubOf e).svBuf = [] ∧ ∃ u : State,
          Sent e (u.svFrame e (p.svBuf ++ [s.svAsdu e p.svCnt])) u t ∧ RegsBut [PUB_ENT_STAT e] s u ∧
          (∀ j, j ≠ e → u.pubOf j = s.pubOf j) ∧ u = { s with regs := u.regs, free := s.free + 1, pub := u.pub }) ∧
        (p.svBuf.length < s.fld (PUB_ENT_SV e) 5 3 → (t.pubOf e).svBuf = p.svBuf ++ [s.svAsdu e p.svCnt] ∧
          RegsBut [PUB_ENT_STAT e] s t ∧ t = { s with regs := t.regs, pub := t.pub })))

/-- R288, R292, R294, R295: a write's result is the first ground that applies, in the order of the table; with none the staged
words enter, valid, under the next generation; an invalidation clears `valid` under the next generation; a read shows the
entry; a fence notes the generation and is done when no frame of an older one remains; a second fence is refused, and so is
any command while one is in progress. That a command acts at once and is in progress to the end of the tick is the
model's choice (log entry 115). -/
def Obligations.StreamTable : Prop :=
  ∀ (w : Who) (i : Fin 16384) (s : State), s.Canonical →
    let st := (List.range 8).map (fun k => s.rd (SWC_TBL_ST k))
    let gen := (s.rd SWC_TBL_GEN + 1) % 2 ^ 32
    let shown := fun (r : Nat) => setBits (s.rd SWC_TBL_STAT) 3 1 r
    let ended := fun (r : Nat) => raised (shown r) 0
    let e := [s.rd (SWC_TBL_ST 0), raised (s.rd (SWC_TBL_ST 1)) 31, s.rd (SWC_TBL_ST 2), s.rd (SWC_TBL_ST 3),
      s.rd (SWC_TBL_ST 4), s.rd (SWC_TBL_ST 5), gen, s.rd (SWC_TBL_ST 7)]
    let old := fun (f : SwFrame) =>
      let d := (s.rd SWC_TBL_FGEN + 2 ^ 32 - f.gen) % 2 ^ 32
      decide (0 < d) && decide (d < 2 ^ 31)
    let chan := fun (l : List Nat) => if bitAt (ew l 3) 9 then some (bits (ew l 4) 6 0) else none
    let sub := fun (l : List Nat) => if bitAt (ew l 4) 18 then some (bits (ew l 4) 17 8) else none
    let first : Nat := if i.val / 4 ≠ bucket (entryKey st) then 1
      else if ∃ x ∈ s.swc.table, x.1 ≠ i.val ∧ entryValid x.2 = true ∧ x.1 / 4 = i.val / 4 ∧ entryKey x.2 = entryKey st then 2
      else if chan st ≠ none ∧ ∃ x ∈ s.swc.table, x.1 ≠ i.val ∧ entryValid x.2 = true ∧ chan x.2 = chan st then 3
      else if sub st ≠ none ∧ ∃ x ∈ s.swc.table, x.1 ≠ i.val ∧ entryValid x.2 = true ∧ sub x.2 = sub st then 4
      else if stagedBad st = true then 5 else 0
    (Sup w 10 s → s.bit SWC_TBL_STAT 0 = false →
      (first = 0 → Answers (.tblWrite w i) s fun t =>
        t.rd SWC_TBL_GEN = gen ∧ t.rd SWC_TBL_STAT = ended 0 ∧ RegsBut [SWC_TBL_GEN, SWC_TBL_STAT] s t ∧
        t = { s with regs := t.regs, reply := t.reply, swc := { s.swc with table := s.swc.table.put i e } }) ∧
      (first ≠ 0 → Answers (.tblWrite w i) s fun t => t.rd SWC_TBL_STAT = ended first ∧ Wrote [SWC_TBL_STAT] s t) ∧
      Answers (.tblInvalidate w i) s (fun t =>
        t.rd SWC_TBL_GEN = gen ∧ t.rd SWC_TBL_STAT = ended 0 ∧ RegsBut [SWC_TBL_GEN, SWC_TBL_STAT] s t ∧
        entryValid (t.entry i) = false ∧ (∀ k, k ≠ 1 → ew (t.entry i) k = ew (s.entry i) k) ∧
        bits (ew (t.entry i) 1) 30 0 = bits (ew (s.entry i) 1) 30 0 ∧ (∀ j, j ≠ i.val → t.entry j = s.entry j) ∧
        t = { s with regs := t.regs, reply := t.reply, swc := { s.swc with table := t.swc.table } }) ∧
      Answers (.tblRead w i) s (fun t =>
        (∀ k, k < 8 → t.rd (SWC_TBL_RD k) = ew (s.entry i) k % 2 ^ 32) ∧ t.rd SWC_TBL_STAT = ended 0 ∧
        Wrote (SWC_TBL_STAT :: (List.range 8).map SWC_TBL_RD) s t) ∧
      (s.bit SWC_STAT 1 = false → Answers (.tblFence w) s fun t =>
        t.rd SWC_TBL_FGEN = s.rd SWC_TBL_GEN ∧ t.rd SWC_STAT = raised (s.rd SWC_STAT) 1 ∧ t.rd SWC_TBL_STAT = ended 0 ∧
        Wrote [SWC_TBL_FGEN, SWC_STAT, SWC_TBL_STAT] s t) ∧
      (s.bit SWC_STAT 1 = true → Answers (.tblFence w) s fun t =>
        t.rd SWC_TBL_STAT = ended 6 ∧ Wrote [SWC_TBL_STAT] s t)) ∧
    (Sup w 10 s → s.bit SWC_TBL_STAT 0 = true → ∀ c ∈ [Instr.tblWrite w i, .tblInvalidate w i, .tblRead w i, .tblFence w],
      Answers c s fun t => t.rd SWC_TBL_STAT = shown 6 ∧ Wrote [SWC_TBL_STAT] s t) ∧
    (s.bit SWC_STAT 1 = true → s.swFrames.any old = false → Answers .tblFenceDone s fun t =>
      t.rd SWC_STAT = lowered (s.rd SWC_STAT) 1 ∧ t.rd SWC_EVT = raised (s.rd SWC_EVT) 0 ∧
      RegsBut [SWC_STAT, SWC_EVT] s t ∧ t = { s with regs := t.regs }) ∧
    (s.bit SWC_STAT 1 = false ∨ s.swFrames.any old = true → Answers .tblFenceDone s fun t => t = s)

/-- External port `p` is up and awake, and the reserve of its queue `q` has room for eight cells; cut-through is off. -/
def Sys2Proof.Claims.Room (p q : Nat) (s : State) : Prop :=
  4 ≤ p ∧ p ≤ 8 ∧ q < 8 ∧ s.portUp p = true ∧ s.bit (MAC_STAT p) 2 = false ∧ s.bit SWC_CTL 1 = false ∧
    s.atBoundary p = true ∧ (s.cellHolders p q).foldl (fun a f => a + f.res) 0 ≤ 8

/-- A good frame that came from port `i` and is copied to a queue with room in its reserve, none of its cells written. -/
def Sys2Proof.Claims.copyOf (s : State) (i : Nat) (octets : List Byte) (len : Nat) (desc : Option Nat) : SwFrame :=
  let n := (octets.length + 255) / 256
  { octets := octets, gen := s.rd SWC_TBL_GEN, tick := s.clk, port := i
    ts := if i ≤ 8 then unsigned 32 ((s.wallNs : Int) - signed 16 (s.fld (MAC_LAT i) 15 0)) else ts32 s.wallNs
    err := 0, path := 0, cut := false, mirror := false, trunc := false, len := len, target := 0, res := n, kit := 0
    desc := desc, tc := false, inNs := s.wallNs, left := n, bad := false }

/-- A received frame of right length, without error and not for the module itself, from a single port `i` whose frames are not
mirrored and whose PTP messages are not corrected. -/
def Sys2Proof.Claims.Plain (i : Nat) (octets : List Byte) (s : State) : Prop :=
  let pf := parseFrame (noFcs octets)
  4 ≤ i ∧ s.power.nx = true ∧ s.portUp i = true ∧ s.bit SWC_CTL 0 = true ∧ 64 ≤ octets.length ∧ octets.length ≤ 2048 ∧
    fcsBad octets = false ∧ lengthBad pf = false ∧ pf.etype ≠ 0x8808 ∧ pf.etype ≠ 0x88B5 ∧ pf.kind ≠ 3 ∧
    (pf.dst < 0x0180C2000000 ∨ 0x0180C200000F < pf.dst) ∧ s.bit (SWC_PORT_MIRROR i) 31 = false

/-- The first ring's descriptor at the head belongs to the module, the ring is on, and port 10 is not held back. -/
def Sys2Proof.Claims.TxReady (r : Nat) (s : State) : Prop :=
  let h := s.rd (SWC_TXR_HEAD r)
  let a := s.txrBase r + h * 16
  s.power.nx = true ∧ s.bit SWC_CTL 0 = true ∧ ringOn (s.rd (SWC_TXR_CFG r)) = true ∧ s.memOn a = true ∧
    h < 4096 ∧ bitAt (s.ld (a + 4) 4) 31 = true ∧ (s.swc.descs.at' (r * 4096 + h)).left = 0 ∧ s.swc.waitIn.at' 10 = []

/-- The head descriptor of ring `r` names one external port, `p`, and queue `q`. -/
def Sys2Proof.Claims.TxDirect (r p q : Nat) (s : State) : Prop :=
  let a := s.txrBase r + s.rd (SWC_TXR_HEAD r) * 16
  let w1 := s.ld (a + 4) 4
  bitAt w1 24 = true ∧ bits w1 22 20 = q ∧ 60 ≤ bits w1 19 8 ∧ bits w1 19 8 ≤ 2044 ∧ portsOf (s.ld (a + 8) 4) = [p]

/-- The octets the head descriptor of ring `r` names, with their FCS. -/
def Sys2Proof.Claims.txOctets (r : Nat) (s : State) : List Byte :=
  let a := s.txrBase r + s.rd (SWC_TXR_HEAD r) * 16
  let w1 := s.ld (a + 4) 4
  withFcs (s.rdBytes (s.ld a 4 + bits w1 7 0 * 2 ^ 32) (bits w1 19 8))

/-- The head of ring `r` has advanced and the frame is counted. -/
def Sys2Proof.Claims.TxMoved (r : Nat) (s t : State) : Prop :=
  t.rd (SWC_TXR_HEAD r) = (s.rd (SWC_TXR_HEAD r) + 1) % 2 ^ ringSize (s.rd (SWC_TXR_CFG r)) ∧
    t.rd (SWC_TXR_FRAMES r) = incSat 32 (s.rd (SWC_TXR_FRAMES r))

/-- What the frame of `TxDirect` leaves: it stands last in its queue, and its descriptor is not yet written back. -/
def Sys2Proof.Claims.TxTaken (r p q : Nat) (s t : State) (next : Nat) : Prop :=
  let id := r * 4096 + s.rd (SWC_TXR_HEAD r)
  let o := txOctets r s
  let e : TxDesc := { left := 1, sent := [], ok := 0, total := 1, down := false, adm := false, age := false }
  TxMoved r s t ∧ RegsBut [SWC_TXR_HEAD r, SWC_TXR_FRAMES r, SWC_Q_STAT p q] s t ∧
    t = { s with regs := t.regs, reply := t.reply, swc := { s.swc with
      queues := s.swc.queues.put (8 * p + q) (s.swq p q ++ [copyOf s 10 o o.length (some id)])
      descs := s.swc.descs.put id e
      nextTxr := next } }

/-- R269, R270, R275, R276, R290, R291, R303, R315: a port that is down takes nothing; every frame is counted with its errors; one of
EtherType 0x8808 is counted and not acted on; one of 0x88B5 on ML, AL, CU or CD is passed on and never enters the switch; a
good frame of a single port goes to the port its entry names, or, with no entry, to the one its ingress port's miss setting
names, unchanged, in its queue. The frames of this last case come in without error. -/
def Obligations.FramesReceived : Prop :=
  ∀ (p : Fin 9) (octets : List Byte) (sym : Bool) (s : State), s.Canonical →
    let pf := parseFrame (noFcs (octets.take 2048))
    let n := min octets.length 2048
    let bad := fcsBad (octets.take 2048)
    let short := octets.length < 64 ∨ 2048 < octets.length ∨ lengthBad pf = true
    let oct := min (s.rd64 (MAC_RX_OCT_LO p) + n) (2 ^ 64 - 1)
    let counted := fun (t : State) =>
      t.rd (MAC_RX_FRAMES p) = incSat 32 (s.rd (MAC_RX_FRAMES p)) ∧ t.rd64 (MAC_RX_OCT_LO p) = oct ∧
      t.rd (MAC_RX_FCS p) = (if bad = true then incSat 32 (s.rd (MAC_RX_FCS p)) else s.rd (MAC_RX_FCS p)) ∧
      t.rd (MAC_RX_LEN p) = (if short then incSat 32 (s.rd (MAC_RX_LEN p)) else s.rd (MAC_RX_LEN p)) ∧
      t.rd (MAC_RX_SYM p) = (if sym = true then incSat 32 (s.rd (MAC_RX_SYM p)) else s.rd (MAC_RX_SYM p)) ∧
      t.rd (MAC_STAT p) = lowered (s.rd (MAC_STAT p)) 3
    let regs := [MAC_RX_FRAMES p, MAC_RX_OCT_LO p, MAC_RX_OCT_LO p + 4, MAC_RX_FCS p, MAC_RX_LEN p, MAC_RX_SYM p, MAC_STAT p]
    let calm := 3 < p.val ∨ s.bit (SWC_RED_STAT (p.val / 2)) (p.val % 2) = false
    let heard := fun (t : State) => t.swc.good = (if bad = true ∨ short ∨ sym = true then s.swc.good else s.swc.good.put p s.clk)
    let own := if p.val = 4 ∨ p.val = 5 then 12 else 13
    (s.power.nx = false ∨ s.portUp p = false → Answers (.frameReceive p octets sym) s fun t => t = s) ∧
    (s.power.nx = true → s.portUp p = true → pf.etype = 0x8808 → calm → Answers (.frameReceive p octets sym) s fun t =>
      counted t ∧ heard t ∧ t.rd (MAC_RX_PAUSE p) = incSat 32 (s.rd (MAC_RX_PAUSE p)) ∧
      t.rd (MAC_EVT p) = raised (s.rd (MAC_EVT p)) 4 ∧ RegsBut (MAC_RX_PAUSE p :: MAC_EVT p :: regs) s t ∧
      t = { s with regs := t.regs, swc := { s.swc with good := t.swc.good, base := t.swc.base } }) ∧
    (s.power.nx = true → s.portUp p = true → pf.etype = 0x88B5 → 4 ≤ p.val → p.val ≤ 7 →
      Answers (.frameReceive p octets sym) s fun t =>
        counted t ∧ t.out = s.out ++ [.passed own p (noFcs (octets.take 2048))] ∧ RegsBut regs s t ∧
        t = { s with regs := t.regs, out := t.out }) ∧
    (∀ x q, Plain p octets s → Room x q s → x ≠ p.val → sym = false →
      let vid := match pf.tci with | some t => t % 2 ^ 12 | none => s.fld (SWC_PORT_CFG p) 27 16
      let pcp := match pf.tci with | some t => t / 2 ^ 13 | none => s.fld (SWC_PORT_CFG p) 30 28
      let found := s.lookup pf.dst vid pf.kind (if pf.kind = 1 ∨ pf.kind = 2 then head16 pf.body else 0)
      let queued := fun (t : State) => counted t ∧ heard t ∧ t.rd SWC_TBL_LOOKUPS = incSat 32 (s.rd SWC_TBL_LOOKUPS) ∧
        RegsBut (SWC_TBL_LOOKUPS :: SWC_PORT_MISS_CNT p :: SWC_Q_STAT x q :: regs) s t ∧
        t = { s with regs := t.regs, swc := { s.swc with
          good := t.swc.good
          base := t.swc.base
          queues := s.swc.queues.put (8 * x + q) (s.swq x q ++
            [copyOf s p (withFcs (fillSrc (s.macAddr x) (noFcs octets))) octets.length none]) } }
      (found = none → s.rd (SWC_PORT_MISS p) = 2 ^ x → q = pcp → Answers (.frameReceive p octets sym) s fun t =>
        queued t ∧ t.rd (SWC_PORT_MISS_CNT p) = incSat 32 (s.rd (SWC_PORT_MISS_CNT p))) ∧
      (∀ i, found = some i → bits (ew (s.entry i) 3) 11 0 = 2 ^ x → bitAt (ew (s.entry i) 5) 2 = false →
        q = (if bitAt (ew (s.entry i) 3) 28 = true then bits (ew (s.entry i) 3) 27 25 else pcp) →
        (bitAt (ew (s.entry i) 3) (13 + p) = true ∨ bits (ew (s.entry i) 3) 24 13 = 0 → Answers (.frameReceive p octets sym) s fun t =>
          queued t ∧ t.rd (SWC_PORT_MISS_CNT p) = s.rd (SWC_PORT_MISS_CNT p)) ∧
        (bitAt (ew (s.entry i) 3) (13 + p) = false → bits (ew (s.entry i) 3) 24 13 ≠ 0 →
          Answers (.frameReceive p octets sym) s fun t =>
            counted t ∧ heard t ∧ t.rd (SWC_PORT_PERMIT_CNT p) = incSat 32 (s.rd (SWC_PORT_PERMIT_CNT p)) ∧
            t.swc.queues = s.swc.queues ∧ t.out = s.out ∧ RegsBut (SWC_TBL_LOOKUPS :: SWC_PORT_PERMIT_CNT p :: regs) s t)))

/-- R107, R270, R275, R277, R279, R286, R307, R313: at a frame boundary a frame outside the switch goes first, then the head of the
highest queue that is not empty, its FCS made by the switch; a frame in transmission is never interrupted; at its end it is counted and
its cells are free; port 9 waits for room in the FIFO of SIE; a receive ring's frame is written where its descriptor says, then
its selvedge, then `own` = 0, or counted as lost with none; a frame too old is dropped and counted. -/
def Sys2Proof.Claims.FramesSent : Prop :=
  ∀ (s : State), s.Canonical →
    let fresh := fun (p : Nat) => ∀ k, k < 8 → ∀ g ∈ s.swq p k, s.clk ≤ g.tick + s.maxAge p k
    let free := fun (p : Nat) => s.power.nx = true ∧ s.swUp p = true ∧ s.swc.wakeAt.at' p ≤ s.clk ∧ s.atBoundary p = true
    let alone := fun (p : Nat) => s.power.nx = true ∧ s.swUp p = true ∧ s.swc.wakeAt.at' p ≤ s.clk ∧ s.swc.dirTx.at' p = none
    (∀ (p : Fin 12), s.power.nx = false ∨ s.swUp p = false ∨ s.clk < s.swc.wakeAt.at' p → Answers (.egressTransmit p) s fun t => t = s) ∧
    (∀ (p : Fin 12) f q due, alone p → s.txNow p = some (f, q, due) → s.clk < due → Answers (.egressTransmit p) s fun t => t = s) ∧
    (∀ (p : Fin 12) f q due, alone p → p.val ≤ 8 → s.txNow p = some (f, q, due) → due ≤ s.clk → s.noneQueued p = true →
      s.swc.direct.at' p = [] → f.desc = none → q < 8 → s.rd SWC_KITTY + f.kit < 2 ^ 32 → Answers (.egressTransmit p) s fun t =>
        t.rd SWC_KITTY = s.rd SWC_KITTY + f.kit ∧ t.rd (SWC_Q_STAT p q) = 0 ∧ t.rd (SWC_Q_TX p q) = incSat 32 (s.rd (SWC_Q_TX p q)) ∧
        t.rd (MAC_TX_FRAMES p) = incSat 32 (s.rd (MAC_TX_FRAMES p)) ∧
        t.rd64 (MAC_TX_OCT_LO p) = min (s.rd64 (MAC_TX_OCT_LO p) + f.octets.length) (2 ^ 64 - 1) ∧
        t.rd (MAC_TX_BADFCS p) = (if f.bad = true then incSat 32 (s.rd (MAC_TX_BADFCS p)) else s.rd (MAC_TX_BADFCS p)) ∧
        RegsBut [SWC_KITTY, SWC_Q_STAT p q, SWC_Q_TX p q, MAC_TX_FRAMES p, MAC_TX_OCT_LO p, MAC_TX_OCT_LO p + 4, MAC_TX_BADFCS p] s t ∧
        t = { s with regs := t.regs, swc := { s.swc with
          inTx := s.swc.inTx.put p none
          idleAt := s.swc.idleAt.put p s.clk } }) ∧
    (∀ (p : Fin 12) d rest, free p → p.val ≤ 8 → s.swc.direct.at' p = d :: rest → d.follow = none → d.ptp = false →
      Answers (.egressTransmit p) s fun t => t = { s with out := s.out ++ [d.out], swc := { s.swc with
        direct := s.swc.direct.put p rest
        dirTx := s.swc.dirTx.put p (some (d.len, s.clk + s.txTicks p d.len)) } }) ∧
    (∀ (p : Fin 12) q f rest, free p → s.swc.direct.at' p = [] → fresh p → q < 8 → (∀ k, q < k → k < 8 → s.swq p k = []) →
      s.swq p q = f :: rest → f.cut = true ∨ f.left = 0 → f.desc = none →
      let queues := s.swc.queues.put (8 * p + q) rest
      (p.val ≤ 8 → f.tc = false → f.bad = false → Answers (.egressTransmit p) s fun t =>
        let o := withFcs (noFcs f.octets)
        t.out = s.out ++ [.egress p q o false] ∧ RegsBut [SWC_Q_STAT p q] s t ∧
        t = { s with regs := t.regs, out := t.out, swc := { s.swc with
          queues := queues
          inTx := s.swc.inTx.put p (some ({ f with octets := o }, q, s.clk + s.txTicks p o.length)) } }) ∧
      (p.val = 9 → s.sieIn.sum + f.octets.length ≤ 16384 → Answers (.egressTransmit p) s fun t =>
        t.out = s.out ++ [.deliver 9 f.target f.octets (f.selvedge q)] ∧ t.sieIn = s.sieIn ++ [f.octets.length] ∧
        t.rd (SWC_Q_TX p q) = incSat 32 (s.rd (SWC_Q_TX p q)) ∧ t.rd SWC_KITTY = (s.rd SWC_KITTY + f.kit) % 2 ^ 32 ∧
        RegsBut [SWC_Q_STAT p q, SWC_Q_TX p q, SWC_KITTY] s t ∧
        t = { s with regs := t.regs, out := t.out, sieIn := t.sieIn, swc := { s.swc with queues := queues } }) ∧
      (p.val = 9 → 16384 < s.sieIn.sum + f.octets.length → (∀ k, k < q → s.swq p k = []) →
        Answers (.egressTransmit p) s fun t => t = s) ∧
      (p.val = 11 ∨ p.val = 10 ∧ 16 ≤ f.target → Answers (.egressTransmit p) s fun t =>
        t.out = s.out ++ [.deliver p (if p.val = 10 then f.target - 16 else f.target) f.octets (f.selvedge q)] ∧
        t.rd (SWC_Q_TX p q) = incSat 32 (s.rd (SWC_Q_TX p q)) ∧ t.rd SWC_KITTY = (s.rd SWC_KITTY + f.kit) % 2 ^ 32 ∧
        RegsBut [SWC_Q_STAT p q, SWC_Q_TX p q, SWC_KITTY] s t ∧
        t = { s with regs := t.regs, out := t.out, swc := { s.swc with queues := queues } }) ∧
      (p.val = 10 → f.target < 16 →
        let r := f.target
        let h := s.rd (SWC_RXR_HEAD r)
        let a := s.base (SWC_RXR_BASE_LO r) 6 + h * 16
        let buf := s.ld a 4 / 64 * 64 + bits (s.ld (a + 4) 4) 7 0 * 2 ^ 32
        let ready := ringOn (s.rd (SWC_RXR_CFG r)) = true ∧ s.memOn a = true ∧ bitAt (s.ld (a + 4) 4) 31 = true
        let sv := f.selvedge q
        let regs := [SWC_Q_STAT p q, SWC_Q_TX p q, SWC_KITTY]
        (ready → buf + 2048 ≤ a ∨ a + 16 ≤ buf → buf + 2048 ≤ smBase → a + 16 ≤ smBase → f.octets.length ≤ 2048 →
          Answers (.egressTransmit p) s fun t =>
            (∀ k, k < f.octets.length → t.rdByte (buf + k) = f.octets.getD k 0) ∧ t.ld (a + 8) 4 = sv % 2 ^ 32 ∧
            t.ld (a + 12) 4 = sv / 2 ^ 32 % 2 ^ 32 ∧ t.ld (a + 4) 4 = s.ld (a + 4) 4 % 2 ^ 31 ∧
            (∀ x, x < buf ∨ buf + f.octets.length ≤ x → x < a + 4 ∨ a + 16 ≤ x → t.rdByte x = s.rdByte x) ∧
            t.rd (SWC_RXR_HEAD r) = (h + 1) % 2 ^ ringSize (s.rd (SWC_RXR_CFG r)) ∧
            t.rd (SWC_RXR_FRAMES r) = incSat 32 (s.rd (SWC_RXR_FRAMES r)) ∧
            RegsBut (SWC_RXR_HEAD r :: SWC_RXR_FRAMES r :: regs) s t ∧ Noted s t ∧
            t = { s with regs := t.regs, mem := t.mem, poison := t.poison, slices := t.slices, red := t.red, swc := { s.swc with
              queues := queues } }) ∧
        (¬ready → Answers (.egressTransmit p) s fun t =>
          t.rd (SWC_RXR_NODESC r) = incSat 32 (s.rd (SWC_RXR_NODESC r)) ∧ RegsBut (SWC_RXR_NODESC r :: regs) s t ∧
          t = { s with regs := t.regs, swc := { s.swc with queues := queues } }))) ∧
    (∀ p q a g b, p < 12 → q < 8 → s.swq p q = a ++ g :: b → g.desc = none → s.rd SWC_KITTY + g.kit < 2 ^ 32 →
      g.tick + s.maxAge p q < s.clk → (∀ f ∈ a ++ b, s.clk ≤ f.tick + s.maxAge p q) →
      (∀ p' q', p' < 12 → q' < 8 → (p', q') ≠ (p, q) → ∀ f ∈ s.swq p' q', s.clk ≤ f.tick + s.maxAge p' q') →
      Answers .ageSweep s fun t =>
        t.rd (SWC_Q_AGE_DROP p q) = incSat 32 (s.rd (SWC_Q_AGE_DROP p q)) ∧ t.rd SWC_KITTY = s.rd SWC_KITTY + g.kit ∧
        RegsBut [SWC_Q_AGE_DROP p q, SWC_KITTY, SWC_Q_STAT p q] s t ∧ (∀ x, x ≠ p → t.swc.idleAt.at' x = s.swc.idleAt.at' x) ∧
        t = { s with regs := t.regs, swc := { s.swc with
          queues := s.swc.queues.put (8 * p + q) (a ++ b)
          idleAt := t.swc.idleAt } }) ∧
    ((∀ p, p < 12 → fresh p) → Answers .ageSweep s fun t => t = s) ∧
    (Answers .tcFollowUpTimeout s fun t => t = { s with swc := { s.swc with
      resid := s.swc.resid.filter (fun r => s.clk < r.tick + max (s.fld SWC_TC_CFG 31 16) 1 * tMs) } })

/-- R278, R308, R309: a descriptor's frame is taken from memory at a kick or a poll and, with `direct`, queued unchanged at the port
it names; while port 10 is held back it waits; one of a bad length is given back with status 3; a descriptor that is not the
module's, or a ring that is off, gives nothing. -/
def Sys2Proof.Claims.TransmitRings : Prop :=
  ∀ (w : Who) (r : Fin 16) (s : State), s.Canonical →
    let h := s.rd (SWC_TXR_HEAD r)
    let a := s.txrBase r + h * 16
    let w1 := s.ld (a + 4) 4
    let n := bits w1 19 8
    let x : Ingress := { octets := txOctets r s, queue := bits w1 22 20, desc := some (r * 4096 + h)
                         direct := if bitAt w1 24 then some (portsOf (s.ld (a + 8) 4)) else none }
    (∀ p q, Room p q s → TxReady r s → TxDirect r p q s → s.portBusy 10 = false →
      (Sup w 10 s → Answers (.txRingKick w r) s fun t => TxTaken r p q s t s.swc.nextTxr) ∧
      ((∀ k, k < 16 → k ≠ r.val → ringOn (s.rd (SWC_TXR_CFG k)) = false) → Answers .txRingPoll s fun t =>
        TxTaken r p q s t ((s.swc.nextTxr + 1) % 16))) ∧
    (Sup w 10 s → TxReady r s → 60 ≤ n → n ≤ 2044 → s.portBusy 10 = true → Answers (.txRingKick w r) s fun t =>
        TxMoved r s t ∧ RegsBut [SWC_TXR_HEAD r, SWC_TXR_FRAMES r] s t ∧
        t = { s with regs := t.regs, reply := t.reply, swc := { s.swc with waitIn := s.swc.waitIn.put 10 [x] } }) ∧
    (Sup w 10 s → TxReady r s → n < 60 ∨ 2044 < n → a + 16 ≤ smBase → Answers (.txRingKick w r) s fun t =>
      TxMoved r s t ∧ t.ld (a + 8) 4 = setBits (setBits (s.ld (a + 8) 4) 18 16 3) 22 19 0 ∧ t.ld (a + 12) 4 = 0 ∧
      t.ld (a + 4) 4 = w1 % 2 ^ 31 ∧ (∀ x, x < a + 4 ∨ a + 16 ≤ x → t.rdByte x = s.rdByte x) ∧
      RegsBut [SWC_TXR_HEAD r, SWC_TXR_FRAMES r] s t ∧ Noted s t ∧
      t = { s with regs := t.regs, reply := t.reply, mem := t.mem, poison := t.poison, slices := t.slices, red := t.red }) ∧
    (Sup w 10 s → ringOn (s.rd (SWC_TXR_CFG r)) = false ∨ bitAt w1 31 = false → Answers (.txRingKick w r) s fun t => Wrote [] s t) ∧
    ((∀ k, k < 16 → ringOn (s.rd (SWC_TXR_CFG k)) = false) → Answers .txRingPoll s fun t =>
      t = { s with swc := { s.swc with nextTxr := (s.swc.nextTxr + 1) % 16 } })

/-- R107, R270, R275, R277, R279, R286, R307, R313: at a frame boundary a frame outside the switch goes first, then the head of the
highest queue that is not empty, its FCS made by the switch; a frame in transmission is never interrupted; at its end it is counted and
its cells are free; port 9 waits for room in the FIFO of SIE; a receive ring's frame is written where its descriptor says, then
its selvedge, then `own` = 0, or counted as lost with none; a frame too old is dropped and counted.
R278, R308, R309: a descriptor's frame is taken from memory at a kick or a poll and, with `direct`, queued unchanged at the port
it names; while port 10 is held back it waits; one of a bad length is given back with status 3; a descriptor that is not the
module's, or a ring that is off, gives nothing. -/
def Obligations.FramesSent : Prop := Sys2Proof.Claims.FramesSent ∧ Sys2Proof.Claims.TransmitRings

/-- R301–R306: a supervision frame goes out on both members with one sequence number every `sup_ms`; a silent member is
shown, with a ledger record; a node not heard for its time leaves the table; a link good for `up_ms` comes up, a lost one goes
down, its queues held where the port says so and flushed when the hold ends; an idle port enters low-power idle. `u` is
the state before health is reviewed. That LINK_UP is given once when the link becomes good and again when `up_ms` are over
is the model's choice (log entry 119). -/
def Obligations.Links : Prop :=
  ∀ (k m : Fin 2) (p : Fin 9) (s : State), s.Canonical →
    let a := 2 * k.val
    let f := s.supFrame k
    let hold := s.fld (SWC_PORT_CFG p) 15 0
    let empty := fun (l : List Nat) => ∀ q ∈ l, s.swq p q = []
    let clear := fun (x : Nat) => s.portUp x = true ∧ s.atBoundary x = true ∧ s.swc.direct.at' x = [] ∧
      s.bit (MAC_STAT x) 2 = false ∧ s.swc.wakeAt.at' x ≤ s.clk
    let supOn := s.power.nx = true ∧ s.redMode k ≠ 0 ∧ s.bit (SWC_RED_CFG k) 3 = true
    let supDue := s.swc.supAt.at' k = none ∨
      (s.swc.supAt.at' k).getD 0 + max (s.fld (SWC_RED_CFG k) 31 16) 1 * tMs ≤ s.clk
    let mayRest := s.portUp p = true ∧ eeePort p = true ∧ s.bit (MAC_EEE p) 0 = true ∧ s.bit (MAC_STAT p) 2 = false ∧
      s.swc.idleAt.at' p + max (s.fld (MAC_EEE p) 15 4) 1 * tUs ≤ s.clk
    let own := s.swc.good.at' (a + m)
    let other := s.swc.good.at' (a + 1 - m)
    let lim := max (s.fld (SWC_RED_TIMES k) 15 0) 1 * tMs
    let mayRise := s.power.nx = true ∧ s.portUp p = false ∧ s.bit (MAC_CFG p) 0 = true ∧ macCfgOk p (s.rd (MAC_CFG p)) = true
    let since := (s.swc.goodAt.at' p).getD s.clk
    let up := s.fld (MAC_CFG p) 15 8 * tMs
    (supOn → supDue → clear a → clear (a + 1) → Answers (.supervisionSend k) s fun t =>
      let o := fun (m : Nat) => withFcs (redForm (s.redMode k) m (s.swc.seq.at' k) f)
      let sent := fun (m : Nat) => some ((o m).length, s.clk + s.txTicks (a + m) (o m).length)
      t.out = s.out ++ [.egress a 0 (o 0) false, .egress (a + 1) 0 (o 1) false] ∧
      (∀ x, t.swc.direct.at' x = s.swc.direct.at' x) ∧
      t = { s with out := t.out, swc := { s.swc with
        seq := s.swc.seq.put k ((s.swc.seq.at' k + 1) % 2 ^ 16)
        supSeq := s.swc.supSeq.put k ((s.swc.supSeq.at' k + 1) % 2 ^ 16)
        supAt := s.swc.supAt.put k (some s.clk)
        direct := t.swc.direct
        dirTx := (s.swc.dirTx.put a (sent 0)).put (a + 1) (sent 1) } }) ∧
    (¬supOn ∨ ¬supDue → Answers (.supervisionSend k) s fun t => t = s) ∧
    ((s.power.nx = true → s.redMode k ≠ 0 → s.bit (SWC_RED_STAT k) m = false → s.led.staged.length < 1024 →
        own ≠ 0 → own + lim ≤ s.clk → own ≤ other → Answers (.lanSilent k m) s fun t => ∃ u : State, t = u.healthUpdate ∧
          u.rd (SWC_RED_STAT k) = raised (s.rd (SWC_RED_STAT k)) m ∧ u.rd (SWC_RED_EVT k) = raised (s.rd (SWC_RED_EVT k)) m ∧
          RegsBut [SWC_RED_STAT k, SWC_RED_EVT k] s u ∧ (∃ r : LedRec, u.led.staged = s.led.staged ++ [r] ∧ r.sev = 3 ∧
            r.blk = 10 ∧ r.code = k) ∧ u = { s with regs := u.regs, led := u.led }) ∧
      (s.power.nx = false ∨ s.redMode k = 0 ∨ s.bit (SWC_RED_STAT k) m = true ∨ s.clk < own + lim ∨ other = 0 ∨
        other < own → Answers (.lanSilent k m) s fun t => t = s)) ∧
    (Answers (.nodeAgeOut k) s fun t =>
      let l := (s.swc.nodes.at' k).filter (fun e => s.clk < e.2.tick + max (s.fld (SWC_RED_TIMES k) 31 16) 1 * tSec)
      t.rd (SWC_RED_STAT k) = setBits (s.rd (SWC_RED_STAT k)) 12 2 l.length ∧ RegsBut [SWC_RED_STAT k] s t ∧
      t = { s with regs := t.regs, swc := { s.swc with nodes := s.swc.nodes.put k l } }) ∧
    ((¬mayRise → Answers (.linkUp p) s fun t => t = s) ∧
      (mayRise → s.clk < since + up → Answers (.linkUp p) s fun t =>
        t.rd (MAC_STAT p) = raised (s.rd (MAC_STAT p)) 1 ∧ RegsBut [MAC_STAT p] s t ∧
        t = { s with regs := t.regs, swc := { s.swc with goodAt := s.swc.goodAt.put p (some since) } }) ∧
      (mayRise → since + up ≤ s.clk → empty (List.range 8) → Answers (.linkUp p) s fun t => ∃ u : State, t = u.healthUpdate ∧
        u.rd (MAC_STAT p) = setBits (s.rd (MAC_STAT p)) 4 0
          (if s.bit (MAC_CFG p) 5 = true ∧ s.rateCode p = 0 then 19 else 3) ∧
        u.rd (MAC_EVT p) = raised (s.rd (MAC_EVT p)) 1 ∧ u.rd (SWC_PORT_STAT p) = setBits (s.rd (SWC_PORT_STAT p)) 1 0 1 ∧
        RegsBut [MAC_STAT p, MAC_EVT p, SWC_PORT_STAT p] s u ∧
        u = { s with regs := u.regs, swc := { s.swc with
          goodAt := s.swc.goodAt.put p (some since)
          idleAt := s.swc.idleAt.put p s.clk } })) ∧
    (s.portUp p = true → s.atBoundary p = true → empty (List.range 8) →
      Answers (.linkDown p) s fun t => ∃ u : State, t = u.healthUpdate ∧
        u.rd (MAC_STAT p) = setBits (s.rd (MAC_STAT p)) 4 0 0 ∧ u.rd (MAC_EVT p) = raised (s.rd (MAC_EVT p)) 0 ∧
        u.rd (MAC_LINK_DOWN p) = incSat 32 (s.rd (MAC_LINK_DOWN p)) ∧
        u.rd (SWC_PORT_STAT p) = (if hold = 0 then lowered (s.rd (SWC_PORT_STAT p)) 0
          else raised (lowered (s.rd (SWC_PORT_STAT p)) 0) 1) ∧
        RegsBut [MAC_STAT p, MAC_EVT p, MAC_LINK_DOWN p, SWC_PORT_STAT p] s u ∧
        u = { s with regs := u.regs, swc := { s.swc with
          goodAt := s.swc.goodAt.put p none
          direct := s.swc.direct.put p []
          dirTx := s.swc.dirTx.put p none
          heldAt := if hold = 0 then s.swc.heldAt else s.swc.heldAt.put p s.clk } }) ∧
    (s.portUp p = false → Answers (.linkDown p) s fun t =>
      t.rd (MAC_STAT p) = setBits (s.rd (MAC_STAT p)) 4 0 0 ∧ RegsBut [MAC_STAT p] s t ∧
      t = { s with regs := t.regs, swc := { s.swc with goodAt := s.swc.goodAt.put p none } }) ∧
    (∀ q g, q < 5 → s.bit (SWC_PORT_STAT p) 1 = true → s.portUp p = false → s.swc.heldAt.at' p + hold * tMs ≤ s.clk →
      s.swq p q = [g] → g.desc = none → empty ((List.range 5).filter (fun x => x != q)) →
      Answers (.holdExpiry p) s fun t =>
        t.rd (SWC_Q_FLUSH p q) = incSat 32 (s.rd (SWC_Q_FLUSH p q)) ∧
        t.rd (SWC_PORT_STAT p) = lowered (s.rd (SWC_PORT_STAT p)) 1 ∧ t.rd SWC_KITTY = (s.rd SWC_KITTY + g.kit) % 2 ^ 32 ∧
        RegsBut [SWC_Q_FLUSH p q, SWC_PORT_STAT p, SWC_KITTY, SWC_Q_STAT p q] s t ∧
        (∀ x, x ≠ p.val → t.swc.idleAt.at' x = s.swc.idleAt.at' x) ∧
        t = { s with regs := t.regs, swc := { s.swc with
          queues := s.swc.queues.put (8 * p + q) []
          idleAt := t.swc.idleAt } }) ∧
    (s.bit (SWC_PORT_STAT p) 1 = false ∨ s.portUp p = true ∨ s.clk < s.swc.heldAt.at' p + hold * tMs →
      Answers (.holdExpiry p) s fun t => t = s) ∧
    ((s.swIdle p = true → mayRest → Answers (.lpiEntry p) s fun t =>
        t.rd (MAC_STAT p) = raised (s.rd (MAC_STAT p)) 2 ∧ t.rd (MAC_LPI_ENTRY p) = incSat 32 (s.rd (MAC_LPI_ENTRY p)) ∧
        Wrote [MAC_STAT p, MAC_LPI_ENTRY p] s t) ∧
      (s.txNow p = none → s.swIdle p = false ∨ ¬mayRest → Answers (.lpiEntry p) s fun t => t = s)) ∧
    (s.portUp p = false → Answers (.lpiReceive p) s fun t => t = s) ∧
    (s.portUp p = true → eeePort p = true → Answers (.lpiReceive p) s fun t =>
      t.rd (MAC_STAT p) = raised (s.rd (MAC_STAT p)) 3 ∧ Wrote [MAC_STAT p] s t) ∧
    (s.portUp p = true → eeePort p = false → Answers (.lpiReceive p) s fun t =>
      t.rd (MAC_EVT p) = raised (s.rd (MAC_EVT p)) 3 ∧ Wrote [MAC_EVT p] s t)

/-- A Luazar Link message of type `ty` that passes every check arrives on `port`. -/
def Sys2Proof.Claims.Arrives (port ty : Nat) (m : List Byte) (x : LzMsg) (s : State) : Prop :=
  s.power.nx = true ∧ s.portUp port = true ∧ s.bit RED_CTL 0 = true ∧ s.member ≠ 6 ∧ s.complete = true ∧
    s.lzRead m = some x ∧ listedOn s port x.ty = true ∧ x.ty = ty

/-- Such a message whose epoch is not above the one known. -/
def Sys2Proof.Claims.Heard (port ty : Nat) (m : List Byte) (x : LzMsg) (s : State) : Prop :=
  Arrives port ty m x s ∧ x.epoch ≤ s.rd RED_EPOCH

/-- A record of severity `sev` of block `b` was staged, and the ledger holds nothing else new. -/
def Sys2Proof.Claims.Recorded (sev b : Nat) (s t : State) : Prop :=
  ∃ r : LedRec, t.led = { s.led with staged := s.led.staged ++ [r] } ∧ r.sev = sev ∧ r.blk = b ∧ r.guard = false ∧ r.at_ = s.clk

/-- The copy of the epoch not written last now holds `e`, with the next sequence number and its CRC-32 (R326). -/
def Sys2Proof.Claims.Copied (e : Nat) (s t : State) : Prop :=
  let q := match s.newestEpoch with | some c => c.seq + 1 | none => 1
  (s.power.mem = false → t.red.copies = s.red.copies) ∧
    (s.power.mem = true → t.red.copies = s.red.copies.put (q % 2)
      { seq := q, epoch := e, crc := crc32 (bytesLE 4 q ++ bytesLE 4 e) })

/-- The frame that carries a message of a type and payload out of a port, in the present state of the sender. -/
def Sys2Proof.Claims.lzOut (s : State) (port ty : Nat) (payload : List Byte) : List Byte :=
  lzFrame (lzDst port) (s.macAddr port) (s.lzMessage ty (s.lzSeq.at' (port * 256 + ty)) payload)

/-- Frame `f` has been given to the MAC of external port `port` (R270): it begins at once at a frame boundary with nothing
before it, else it waits; nothing leaves a port that is down. Nothing else changed. -/
def Sys2Proof.Claims.Emitted (port : Nat) (f : List Byte) (s t : State) : Prop :=
  (s.portUp port = false → t = s) ∧
    (s.portUp port = true → s.atBoundary port = true → s.swc.direct.at' port = [] → s.bit (MAC_STAT port) 2 = false →
      s.swc.wakeAt.at' port ≤ s.clk → t.out = s.out ++ [.frame port f] ∧ t.swc.direct.at' port = [] ∧
        t.swc.dirTx.at' port = some (f.length + 4, s.clk + s.txTicks port (f.length + 4))) ∧
    (s.portUp port = true → s.atBoundary port = false → t.out = s.out ∧ t.swc.dirTx = s.swc.dirTx ∧
      t.swc.direct.at' port = s.swc.direct.at' port ++ [{ out := .frame port f, len := f.length + 4, ptp := false, follow := none }]) ∧
    (∀ x, x ≠ port → t.swc.direct.at' x = s.swc.direct.at' x ∧ t.swc.dirTx.at' x = s.swc.dirTx.at' x) ∧
    RegsBut [MAC_STAT port] s t ∧ t = { s with regs := t.regs, out := t.out, swc := { s.swc with
      direct := t.swc.direct, dirTx := t.swc.dirTx, wakeAt := t.swc.wakeAt } }

/-- A message of a type and payload has been given to the MAC of a port, under the next sequence number of port and type. -/
def Sys2Proof.Claims.LzSent (port ty : Nat) (payload : List Byte) (s t : State) : Prop :=
  let k := port * 256 + ty
  Emitted port (lzOut s port ty payload) { s with lzSeq := s.lzSeq.put k ((s.lzSeq.at' k + 1) % 2 ^ 16) } t

/-- R319–R321, R325, R327, R337, R341, R348: a message that fails a check is only counted; a heartbeat of the twin is kept with
its instant and confirms a holder, or, from a twin that takes the mandate or has it, ends the holding; its grid point gives
the offset of the handback reference; the arbiter's status confirms the holder it names; a member that hears of a holder elsewhere
becomes STANDBY; a twin or an arbiter not heard in time is shown lost; a heartbeat falls due each 1 or 2 ms. -/
def Obligations.TwinHeartbeats : Prop :=
  ∀ (s : State), s.Canonical →
    (∀ m, ∀ e ∈ [(Instr.mateHb m, portML), (.arbStatus m, portAL), (.verdict m, portAL), (.ckptData m, portML),
        (.ckptEnd m, portML), (.ckptAck m, portML), (.handbackReq m, portML), (.handbackPlan m, portML),
        (.handbackReady m, portML), (.mandateYield m, portML), (.maint m, portML), (.arbHb false m, portAL), (.arbHb true m, portMP),
        (.verdictAck false m, portAL), (.verdictAck true m, portMP), (.yieldReq false m, portAL), (.yieldReq true m, portMP)],
      (s.power.nx = true → s.portUp e.2 = true → s.bit RED_CTL 0 = true → s.member ≠ 6 → s.complete = true →
        s.lzRead m = none → Answers e.1 s fun t =>
          t.rd RED_LZ_BAD = incSat 32 (s.rd RED_LZ_BAD) ∧ t.rd RED_EVT = raised (s.rd RED_EVT) 8 ∧
          RegsBut [RED_LZ_BAD, RED_EVT] s t ∧ t = { s with regs := t.regs }) ∧
      (s.power.nx = false ∨ s.portUp e.2 = false ∨ s.bit RED_CTL 0 = false ∨ s.member = 6 ∨ s.complete = false →
        Answers e.1 s fun t => t = s)) ∧
    (∀ m x, Heard portML 0x01 m x s →
      let fl := x.at' 1 1
      let inst := x.at' 20 4 * 10 ^ 9 + x.at' 16 4
      let far := ∀ e ∈ s.gridLog s.hoRef, 50000 < Machine.dist e.2 inst
      let stat := setBits (raised (s.rd RED_STAT) 6) 8 8 (b2n (bitAt fl 1))
      let red := { s.red with
        mateAt := some s.clk
        fresh := s.red.fresh && bitAt fl 0
        mateHeld := if bitAt fl 0 then some s.clk else s.red.mateHeld
        mate := { at_ := s.clk, st := x.st, epoch := x.epoch, health := x.at' 0 1, flags := fl, digest := x.at' 4 4, ck := x.at' 8 4 } }
      (far → s.member = 1 ∨ bitAt fl 0 = false ∧ s.holdsTwin = false → Answers (.mateHb m) s fun t =>
        t.rd RED_STAT = stat ∧ RegsBut [RED_STAT] s t ∧ t = { s with regs := t.regs, red := red }) ∧
      (∀ e ∈ s.gridLog s.hoRef, s.member = 1 → Machine.dist e.2 inst ≤ 50000 →
        (∀ y ∈ s.gridLog s.hoRef, y = e ∨ Machine.dist e.2 inst < Machine.dist y.2 inst) → Answers (.mateHb m) s fun t =>
          t.rd RED_STAT = raised stat 9 ∧ t.rd RED_HO_OFS = (x.at' 12 4 + 2 ^ 40 - e.1) % 2 ^ 32 ∧
          RegsBut [RED_STAT, RED_HO_OFS] s t ∧ t = { s with regs := t.regs, red := red }) ∧
      (far → s.holdsTwin = true → s.hoPhase ≠ 2 → bitAt fl 0 = false → x.st ≠ 2 → x.st ≠ 3 → Answers (.mateHb m) s fun t =>
        let ok := if x.epoch ≤ s.red.held + b2n (s.member = 4) then some s.clk else none
        t.rd RED_STAT = stat ∧ RegsBut [RED_STAT] s t ∧
        t = { s with regs := t.regs, red := { red with mateOk := if bitAt fl 1 then ok else s.red.mateOk } }) ∧
      (far → s.holdsTwin = true → bitAt fl 0 = true → x.st = 2 ∨ x.st = 3 → Answers (.mateHb m) s fun t =>
        t.rd RED_STAT = stat ∧ t.rd RED_EVT = raised (s.rd RED_EVT) 10 ∧ RegsBut [RED_STAT, RED_EVT] s t ∧
        t = { s with regs := t.regs, red := { red with arbOk := none, mateOk := none } }) ∧
      (far → s.role < 2 → s.member = 0 ∨ s.member = 5 → bitAt fl 0 = true → Answers (.mateHb m) s fun t =>
        t.rd RED_STAT = setBits (lowered stat 10) 2 0 1 ∧ RegsBut [RED_STAT] s t ∧
        t = { s with regs := t.regs
                     red := { red with
                       verdict := none
                       plan := none
                       readySent := 0
                       revFrom := if s.health = 3 then some s.clk else none
                       revAcc := 0
                       revAt := none }
                     power := { s.power with cxOffAt := if s.bit RED_CTL 2 then s.power.cxOffAt else some (s.clk + 100 * tMs) } })) ∧
    (∀ m x, Heard portAL 0x03 m x s → s.red.plan = none → x.at' 4 4 ≤ s.rd RED_EPOCH →
      let stat := raised (s.rd RED_STAT) 7
      let red := { s.red with arbAt := some s.clk, arbPlan := x.at' 8 4 }
      (s.member = 1 → Answers (.arbStatus m) s fun t =>
        t.rd RED_STAT = stat ∧ RegsBut [RED_STAT] s t ∧ t = { s with regs := t.regs, red := red }) ∧
      (s.holdsTwin = true → x.at' 0 1 = s.role → x.at' 4 4 = s.red.held → bitAt (x.at' 1 1) 0 = true →
        Answers (.arbStatus m) s fun t => t.rd RED_STAT = stat ∧ RegsBut [RED_STAT] s t ∧
          t = { s with regs := t.regs, red := { red with arbOk := some s.clk } }) ∧
      (s.holdsTwin = true → s.red.held < x.at' 4 4 ∨ x.at' 0 1 < 2 ∧ x.at' 0 1 ≠ s.role → Answers (.arbStatus m) s fun t =>
        t.rd RED_STAT = stat ∧ RegsBut [RED_STAT] s t ∧
        t = { s with regs := t.regs, red := { red with arbOk := none, mateOk := none } })) ∧
    (∀ (b : Bool) m x, Heard (peerPort (b2n b)) 0x02 m x s → s.role = 2 → bitAt (x.at' 1 1) 0 = false → x.role < 2 →
      let h := x.at' 0 1
      let p : Peer := { at_ := some s.clk, health := h % 4, flags := x.at' 1 1, epoch := x.at' 4 4,
                        low := if h ≤ 1 then (s.red.peers.at' x.role).low + 1 else 0 }
      Answers (.arbHb b m) s fun t =>
        t.bit RED_ARB_VIEW (2 + x.role) = true ∧ t.bit RED_ARB_VIEW (3 - x.role) = s.bit RED_ARB_VIEW (3 - x.role) ∧
        t.fld RED_ARB_VIEW 1 0 = s.red.holder % 4 ∧ RegsBut [RED_ARB_VIEW] s t ∧
        t = { s with regs := t.regs, red := { s.red with peers := s.red.peers.put x.role p } }) ∧
    (∀ a, s.red.mateAt = some a → s.bit RED_STAT 6 = true → a + 5 * tMs ≤ s.clk → Answers .mateLost s fun t =>
      t.rd RED_STAT = lowered (lowered (lowered (lowered (s.rd RED_STAT) 6) 8) 9) 11 ∧
      t.rd RED_MATE_LOSS = incSat 32 (s.rd RED_MATE_LOSS) ∧ t.rd RED_EVT = raised (s.rd RED_EVT) 2 ∧
      RegsBut [RED_STAT, RED_MATE_LOSS, RED_EVT] s t ∧ t = { s with regs := t.regs }) ∧
    (s.red.mateAt = none ∨ s.bit RED_STAT 6 = false ∨ s.clk < (s.red.mateAt).getD 0 + 5 * tMs → Answers .mateLost s fun t => t = s) ∧
    (∀ (r : Fin 2),
      (∀ a, s.red.arbAt = some a → s.role ≠ 2 → s.bit RED_STAT 7 = true → a + 6 * tMs ≤ s.clk → Answers (.arbLost r) s fun t =>
        t.rd RED_STAT = lowered (s.rd RED_STAT) 7 ∧ t.rd RED_ARB_LOSS = incSat 32 (s.rd RED_ARB_LOSS) ∧
        t.rd RED_EVT = raised (s.rd RED_EVT) 3 ∧ RegsBut [RED_STAT, RED_ARB_LOSS, RED_EVT] s t ∧ t = { s with regs := t.regs }) ∧
      (s.role = 2 → s.bit RED_ARB_VIEW (2 + r) = true → ((s.red.peers.at' r).at_.all fun a => decide (a + 6 * tMs < s.clk)) = true →
        s.led.staged.length < 1024 → Answers (.arbLost r) s fun t => t.rd RED_ARB_VIEW = lowered (s.rd RED_ARB_VIEW) (2 + r) ∧
          t.rd RED_ARB_LOSS = incSat 32 (s.rd RED_ARB_LOSS) ∧ t.rd RED_EVT = raised (s.rd RED_EVT) 3 ∧ Recorded 3 12 s t ∧
          RegsBut [RED_ARB_VIEW, RED_ARB_LOSS, RED_EVT] s t ∧ t = { s with regs := t.regs, led := t.led }) ∧
      (s.role ≠ 2 ∧ s.bit RED_STAT 7 = false ∨ s.role = 2 ∧ s.bit RED_ARB_VIEW (2 + r) = false → Answers (.arbLost r) s fun t => t = s)) ∧
    (s.power.nx = true → s.complete = true → s.health ≠ 0 → s.bit RED_CTL 0 = true → s.member ≠ 6 → s.role < 2 →
      ∀ e ∈ [(1, portML, s.mateHb), (2, portAL, s.arbHb)],
        (((s.red.sentAt.at' e.1).all fun a => decide (a + e.1 * 1000 * tUs ≤ s.clk)) = true →
          Answers (.heartbeatSend (BitVec.ofNat 8 e.1) 0) s fun t =>
            LzSent e.2.1 e.1 e.2.2 { s with red := { s.red with sentAt := s.red.sentAt.put e.1 (some s.clk) } } t) ∧
        (∀ a, s.red.sentAt.at' e.1 = some a → s.clk < a + e.1 * 1000 * tUs →
          Answers (.heartbeatSend (BitVec.ofNat 8 e.1) 0) s fun t => t = s))

/-- Member `r` qualifies as a target at the arbiter: heard within 6 ms, ready, health at least 2 (R328). -/
def Sys2Proof.Claims.Fit (r : Nat) (s : State) : Prop :=
  let p := s.red.peers.at' r
  p.at_.any (fun a => decide (s.clk ≤ a + 6 * tMs)) = true ∧ bitAt p.flags 2 = true ∧ 2 ≤ p.health

/-- The mandate has come with epoch `e`: `u` is the state before the pin, the publications and Baize follow. -/
def Sys2Proof.Claims.Gained (e : Nat) (s u : State) : Prop :=
  u.member = 3 ∧ u.mandate = true ∧ u.rd RED_EPOCH = max (s.rd RED_EPOCH) e ∧ u.rd RED_EVT = raised (s.rd RED_EVT) 0 ∧
    u.rd RED_MANDATE_CHG = incSat 32 (s.rd RED_MANDATE_CHG) ∧ Recorded 6 12 s u ∧ Copied (max (s.rd RED_EPOCH) e) s u ∧
    u.red = { s.red with
      copies := u.red.copies
      held := e
      verdict := none
      plan := none
      arbOk := some s.clk
      mateOk := none
      fresh := false
      ckDue := s.clk
      ckLate := false }

/-- R326–R329, R334, R335, R341: a higher epoch of any message is kept, with its copy; a verdict that names the member puts it in TAKING,
powers the compute die and is acknowledged; it takes the mandate after its wait, every stNum raised; with no condition
in force the mandate is lost; the arbiter's verdict takes the next epoch, on the conditions of its kind, is recorded and is
withdrawn when its target does not come; a yield request is recorded. `u` is a state on the way. -/
def Obligations.Mandate : Prop :=
  ∀ (s : State), s.Canonical →
    (∀ m x, Arrives portML 0x08 m x s → s.mandate = false → s.rd RED_EPOCH < x.epoch → x.epoch < 2 ^ 32 → Answers (.ckptAck m) s fun t =>
      t.rd RED_EPOCH = x.epoch ∧ Copied x.epoch s t ∧ RegsBut [RED_EPOCH] s t ∧
      t = { s with regs := t.regs, red := { s.red with copies := t.red.copies } }) ∧
    (∀ m x, Heard portAL 0x04 m x s →
      let v : Verdict := { kind := x.at' 0 1, target := s.role, epoch := x.at' 4 4, plan := x.at' 8 4, at_ := s.clk }
      let ack := bytesBE 4 (x.at' 4 4) ++ bytesBE 4 (x.at' 8 4)
      let e := max (s.rd RED_EPOCH) v.epoch
      let new := x.at' 1 1 = s.role ∧ s.role ≤ 1 ∧ s.red.verdict = none ∧ s.red.held ≠ v.epoch
      let shown := fun (u : State) => u.red.verdict = some v ∧ u.rd RED_EPOCH = e ∧ Copied e s u ∧
        u.rd RED_VERDICTS = incSat 32 (s.rd RED_VERDICTS) ∧ u.rd RED_EVT = raised (s.rd RED_EVT) 4
      (new → v.kind = 1 ∨ v.kind = 2 → s.member = 0 ∨ s.member = 1 ∨ s.member = 5 →
        (s.power.cxEn = true → s.power.cxConf = true → Answers (.verdict m) s fun t => ∃ u : State,
          LzSent portAL 0x05 ack u t ∧ u.member = 2 ∧ shown u ∧ RegsBut [RED_STAT, RED_EPOCH, RED_VERDICTS, RED_EVT] s u ∧
          u = { s with regs := u.regs
                       power := { s.power with cxOffAt := none }
                       red := { s.red with copies := u.red.copies, verdict := some v } }) ∧
        (s.power.cxEn = false → imgForm (s.dramImage (min (s.ld (boltBase + 8) 4) (2 ^ 26))) = false →
          Answers (.verdict m) s fun t => t.member = 2 ∧ t.red.verdict = some v ∧ t.rd RED_EPOCH = e ∧ t.power.cx = true ∧
            t.power.cxEn = true ∧ t.power.cxEnAt = s.clk ∧ t.power.cxOffAt = none ∧ t.bit SYS_PWR_STAT 1 = true ∧ t.mem = s.mem)) ∧
      (new → v.kind = 3 → s.member = 1 → s.power.cxEn = true → Answers (.verdict m) s fun t => ∃ u : State,
        LzSent portAL 0x05 ack u t ∧ shown u ∧ RegsBut [RED_EPOCH, RED_VERDICTS, RED_EVT] s u ∧
        u = { s with regs := u.regs, red := { s.red with copies := u.red.copies, verdict := some v } }) ∧
      (x.at' 1 1 ≠ s.role → Answers (.verdict m) s fun t => t.rd RED_EPOCH = e ∧ Copied e s t ∧ RegsBut [RED_EPOCH] s t ∧
        t = { s with regs := t.regs, red := { s.red with copies := t.red.copies } })) ∧
    (∀ v, s.red.verdict = some v → s.member = 2 → v.at_ + 8 * tMs ≤ s.clk →
      (s.red.mateHeld.all fun a => decide (a + 2 * tMs ≤ s.clk)) = true → s.power.cx = true →
      (∀ n, n < 256 → s.slEn n = true → s.slCrit n = 0 → s.life n = 1 ∧ ((s.sl n).pass.isSome = true ∨ (s.sl n).everRun = true)) →
      s.led.staged.length < 1024 → v.epoch < 2 ^ 32 → Answers .takeoverMandate s fun t => ∃ u : State,
        t = ((u.drive .mandateN false).pubGained).armDelay.guardArm ∧ Gained v.epoch s u ∧
        (∀ e, e < 264 → u.rd (PUB_ENT_STNUM e) = ((match s.red.ckSt with
          | some l => l.getD e 0
          | none => s.rd (PUB_ENT_STNUM e)) + s.fld RED_ST_SKIP 15 0) % 2 ^ 32) ∧
        RegsBut ([RED_STAT, RED_EPOCH, RED_EVT, RED_MANDATE_CHG] ++ (List.range 264).map PUB_ENT_STNUM) s u ∧
        u = { s with regs := u.regs, red := u.red, led := u.led }) ∧
    (s.member ≠ 2 ∨ s.red.verdict = none ∨ s.clk < ((s.red.verdict.map (·.at_)).getD 0) + 8 * tMs ∨
      s.clk < (s.red.mateHeld.map (· + 2 * tMs)).getD 0 ∨ s.power.cx = false → Answers .takeoverMandate s fun t => t = s) ∧
    (s.mandate = true → s.health = 0 ∨ s.holdsTwin = true ∧ (s.red.arbOk.all fun a => decide (a + 6 * tMs < s.clk)) = true ∧
        (s.red.mateOk.all fun a => decide (a + 5 * tMs < s.clk)) = true → s.led.staged.length < 1024 →
      Answers .mandateLoss s fun t => ∃ u : State, t = (u.drive .mandateN true).guardArm.canMandateLost ∧
        u.member = 5 ∧ u.mandate = false ∧ u.bit RED_STAT 11 = false ∧ Copied (s.rd RED_EPOCH) s u ∧
        u.rd RED_EVT = raised (s.rd RED_EVT) 1 ∧ u.rd RED_MANDATE_CHG = incSat 32 (s.rd RED_MANDATE_CHG) ∧ Recorded 6 12 s u ∧
        RegsBut [RED_STAT, RED_EVT, RED_MANDATE_CHG] s u ∧ u = { s with regs := u.regs, led := u.led, red := { s.red with
          copies := u.red.copies, held := 0, arbOk := none, mateOk := none } }) ∧
    (s.mandate = false ∨ s.health ≠ 0 ∧ ((s.red.arbOk.any fun a => decide (s.clk ≤ a + 6 * tMs)) = true ∨
      (s.red.mateOk.any fun a => decide (s.clk ≤ a + 5 * tMs)) = true) → Answers .mandateLoss s fun t => t = s) ∧
    (∀ (target : Fin 2), s.role = 2 → s.power.nx = true → s.complete = true → s.bit RED_CTL 0 = true → s.led.staged.length < 1024 →
      let other := 1 - target.val
      let p := s.red.peers.at' target
      let o := s.red.peers.at' other
      let e := (s.rd RED_EPOCH + 1) % 2 ^ 32
      let spaced := (s.red.lastIssue.all fun a => decide (a + 100 * tMs ≤ s.clk)) = true
      let issued := fun (kind plan : Nat) (t : State) => ∃ u v : State,
        let d : Verdict := { kind := kind, target := target, epoch := e, plan := plan, at_ := s.clk }
        u.rd RED_EPOCH = e ∧ Copied e s u ∧ u.rd RED_VERDICTS = incSat 32 (s.rd RED_VERDICTS) ∧
        u.rd RED_EVT = raised (s.rd RED_EVT) 4 ∧ u.fld RED_ARB_VIEW 1 0 = u.red.holder ∧ Recorded 3 12 s u ∧
        RegsBut [RED_EPOCH, RED_VERDICTS, RED_EVT, RED_ARB_VIEW] s u ∧
        u = { s with regs := u.regs, led := u.led, red := { s.red with
          copies := u.red.copies
          issued := some d
          lastIssue := some s.clk
          holder := if kind = 3 then s.red.holder else target
          hEpoch := if kind = 3 then s.red.hEpoch else e
          sentAt := s.red.sentAt.put 4 (some s.clk) } } ∧
        LzSent (peerPort target) 0x04 (bytesBE 1 kind ++ bytesBE 1 target ++ bytesBE 2 0 ++ bytesBE 4 e ++ bytesBE 4 plan ++ bytesBE 4 0)
          u v ∧ t = { v with red := { v.red with issued := some { d with sends := 1 } } }
      (spaced → s.red.issued = none → Fit target s → s.red.noHold + 12 * tMs ≤ s.clk → target.val = 0 ∨ ¬Fit 0 s →
        s.red.failed ≠ some target.val → Answers (.verdictIssue 2 target false) s (issued 2 0)) ∧
      (spaced → s.red.issued = none → Fit target s → s.red.holder = other →
        (o.at_.all fun a => decide (a + 6 * tMs < s.clk)) = true ∧ bitAt p.flags 1 = false ∨ 3 ≤ o.low ∨ s.red.failed = some other →
        Answers (.verdictIssue 1 target false) s (issued 1 0)) ∧
      (∀ plan, spaced → s.red.issued = none → Fit target s → s.red.holder = other → s.red.yieldReq = some (plan, target.val) →
        Answers (.verdictIssue 3 target false) s (issued 3 plan)) ∧
      (∀ d, s.red.issued = some d → d.kind = 3 → Fit target s → s.red.holder = target → bitAt p.flags 1 = false →
        Answers (.verdictIssue 1 target true) s (issued 1 0)) ∧
      (∀ (kind : Fin 4) late, ¬Fit target s ∨ s.red.holder = 3 ∧ kind.val ≠ 2 → Answers (.verdictIssue kind target late) s fun t => t = s)) ∧
    (∀ v, s.role = 2 → s.red.issued = some v → v.at_ + 500 * tMs ≤ s.clk → Answers .verdictTargetTimeout s fun t =>
      t = { s with red := if v.kind = 3 then { s.red with issued := none, yieldReq := none }
                          else { s.red with issued := none, failed := some v.target } }) ∧
    (s.role ≠ 2 ∨ s.red.issued = none ∨ s.clk < (s.red.issued.map (·.at_)).getD 0 + 500 * tMs → Answers .verdictTargetTimeout s fun t => t = s) ∧
    (∀ (b : Bool) m x v, Heard (peerPort (b2n b)) 0x05 m x s → s.role = 2 → s.red.issued = some v →
      Answers (.verdictAck b m) s fun t => t = { s with red := { s.red with
        issued := some { v with acked := v.acked || decide (v.epoch = x.at' 0 4 ∧ v.plan = x.at' 4 4) } } }) ∧
    (∀ (b : Bool) m x, Heard (peerPort (b2n b)) 0x0D m x s → s.role = 2 →
      let fits := x.role = s.red.holder ∧ s.red.holder ≤ 1 ∧ x.at' 4 1 = 1 - s.red.holder ∧ x.at' 0 4 ≠ 0
      (fits → s.red.yieldReq = none → s.red.issued = none → s.led.staged.length < 1024 →
        Answers (.yieldReq b m) s fun t => Recorded 3 12 s t ∧
          t = { s with led := t.led, red := { s.red with yieldReq := some (x.at' 0 4, x.at' 4 1) } }) ∧
      (x.role ≠ s.red.holder ∨ x.at' 0 4 = 0 → Answers (.yieldReq b m) s fun t => t = s))

/-- R332, R333: a set falls due every interval; one still in flight makes the next late; a set is shipped in messages of its number
and ended with its count and CRC; the standby stages messages that come in order, refuses a set that is not whole or whose
CRC fails, and copies a complete one to where it belongs, acknowledging it with its result. -/
def Obligations.Checkpoints : Prop :=
  ∀ (s : State), s.Canonical →
    let set := (s.rd RED_CK_SET + 1) % 2 ^ 32
    let b := s.base RED_CK_STAGE_LO 29
    let due := s.mandate = true ∧ s.member ≠ 6 ∧ s.bit RED_CK_CFG 16 = true ∧ s.power.nx = true ∧ s.power.mem = true ∧
      s.red.ckDue ≤ s.clk
    let standby := s.member = 1 ∧ s.power.mem = true
    (¬due → Answers .checkpointStart s fun t => t = s) ∧
    (due → s.bit RED_STAT 11 = true → s.red.ckLate = false → Answers .checkpointStart s fun t =>
      t.rd RED_CK_LATE = incSat 32 (s.rd RED_CK_LATE) ∧ t.rd RED_EVT = raised (s.rd RED_EVT) 5 ∧
      RegsBut [RED_CK_LATE, RED_EVT] s t ∧ t = { s with regs := t.regs, red := { s.red with ckLate := true } }) ∧
    (due → s.bit RED_STAT 11 = true → s.red.ckLate = true → Answers .checkpointStart s fun t => t = s) ∧
    (due → s.bit RED_STAT 11 = false → s.red.dirty.length ≤ 1 → s.ckList = [] → Answers .checkpointStart s fun t => ∃ u v w : State,
      let pb := s.base PTS_BASE_LO 28
      let blocks := s.red.dirty.map fun e => (pb + e.1 * 1024, s.rdBytes (pb + e.1 * 1024) 1024)
      let st := (List.range 264).flatMap (fun e => bytesLE 4 (s.rd (PUB_ENT_STNUM e)))
      let n := blocks.length
      let head := fun (obj a len i : Nat) => bytesBE 4 set ++ bytesBE 1 obj ++ bytesBE 5 a ++ bytesBE 2 len ++ bytesBE 4 i
      let r := { s with red := { s.red with dirty := [], ckDue := s.clk + min (max (s.fld RED_CK_CFG 15 0) 10) 10000 * tMs, ckLate := false } }
      (blocks = [] → u = r) ∧ (∀ a d, blocks = [(a, d)] → LzSent portML 0x06 (head 0 a 1024 0 ++ d) r u) ∧
      LzSent portML 0x06 (head 2 0 1056 n ++ st) u v ∧
      LzSent portML 0x07 (bytesBE 4 set ++ bytesBE 4 (n + 1) ++ bytesBE 4 (crc32 (blocks.flatMap (·.2) ++ st)) ++ bytesBE 4 0) v w ∧
      t.rd RED_CK_SET = set ∧ t.rd RED_CK_SETS = incSat 32 (s.rd RED_CK_SETS) ∧
      t.rd RED_STAT = setBits (s.rd RED_STAT) 11 11 (b2n (s.bit RED_STAT 6)) ∧
      RegsBut [RED_CK_SET, RED_CK_SETS, RED_STAT] w t ∧ t = { w with regs := t.regs }) ∧
    (∀ m x, Heard portML 0x06 m x s → standby →
      let n := x.at' 10 2
      let d := x.payload.drop 16
      let good := d.length = n ∧ 32 ≤ n ∧ n ≤ 1984 ∧ n % 32 = 0
      (∀ g, (s.red.stage = some g ∧ g.set = x.at' 0 4 ∧ g.commit = false ∨
          g = { set := x.at' 0 4, began := s.clk } ∧ (s.red.stage.all fun o => o.set != x.at' 0 4 || o.commit) = true) →
        (good → x.at' 12 4 = g.next → g.off + n ≤ 2 ^ 29 → b + g.off + n ≤ smBase → Answers (.ckptData m) s fun t =>
          t.rdBytes (b + g.off) n = d ∧ (∀ a, a < b + g.off ∨ b + g.off + n ≤ a → t.rdByte a = s.rdByte a) ∧ Noted s { t with
            red := { t.red with stage := s.red.stage } } ∧
          t.red.stage = some { g with msgs := g.msgs ++ [{ obj := x.at' 4 1, addr := x.at' 5 5, off := g.off, len := n }]
                                      next := g.next + 1
                                      off := g.off + n } ∧
          t = { s with mem := t.mem, poison := t.poison, slices := t.slices, red := t.red }) ∧
        (good → x.at' 12 4 = g.next → 2 ^ 29 < g.off + n → Answers (.ckptData m) s fun t =>
          t = { s with red := { s.red with stage := some { g with full := true, next := g.next + 1 } } }) ∧
        (¬good ∨ x.at' 12 4 ≠ g.next → Answers (.ckptData m) s fun t =>
          t = { s with red := { s.red with stage := some { g with broken := true } } }))) ∧
    (s.member ≠ 1 ∨ s.power.mem = false → ∀ m x, (Heard portML 0x06 m x s → Answers (.ckptData m) s fun t => t = s) ∧
      (Heard portML 0x07 m x s → Answers (.ckptEnd m) s fun t => t = s)) ∧
    (∀ m x g, Heard portML 0x07 m x s → standby → s.red.stage = some g → g.set = x.at' 0 4 → g.commit = false →
      let bad := fun (r : Nat) (t : State) => ∃ u : State,
        LzSent portML 0x08 (bytesBE 4 g.set ++ bytesBE 1 r ++ bytesBE 3 0) u t ∧
        u.rd RED_CK_REFUSED = incSat 32 (s.rd RED_CK_REFUSED) ∧ u.rd RED_EVT = raised (s.rd RED_EVT) 6 ∧
        RegsBut [RED_CK_REFUSED, RED_EVT] s u ∧ u = { s with regs := u.regs, red := { s.red with stage := none } }
      let whole := g.full = false ∧ g.broken = false ∧ g.msgs.length = x.at' 4 4
      (g.full = true → Answers (.ckptEnd m) s (bad 3)) ∧
      (g.full = false → g.broken = true ∨ g.msgs.length ≠ x.at' 4 4 → Answers (.ckptEnd m) s (bad 1)) ∧
      (whole → crc32 (s.rdBytes b g.off) ≠ x.at' 8 4 → Answers (.ckptEnd m) s (bad 2)) ∧
      (whole → crc32 (s.rdBytes b g.off) = x.at' 8 4 → Answers (.ckptEnd m) s fun t =>
        t.rd RED_STAT = raised (s.rd RED_STAT) 11 ∧ RegsBut [RED_STAT] s t ∧
        t = { s with regs := t.regs, red := { s.red with stage := some { g with commit := true } } })) ∧
    (∀ g c, s.red.stage = some g → g.commit = true → s.power.mem = true → g.set < 2 ^ 32 → g.msgs = [c] → Answers .ckptCommitDone s fun t =>
      ∃ u : State, LzSent portML 0x08 (bytesBE 4 g.set ++ bytesBE 1 0 ++ bytesBE 3 0) u t ∧
        (c.obj = 2 → u.mem = s.mem ∧ u.red.ckSt = some ((List.range 264).map fun e => s.ld (b + c.off + 4 * e) 4)) ∧
        (c.obj ≠ 2 → c.addr + c.len ≤ smBase → (∀ k, k < c.len → u.rdByte (c.addr + k) = s.rdByte (b + c.off + k)) ∧
          (∀ a, a < c.addr ∨ c.addr + c.len ≤ a → u.rdByte a = s.rdByte a) ∧ u.red.ckSt = s.red.ckSt) ∧
        u.rd RED_CK_SET = g.set ∧ u.rd RED_CK_SETS = incSat 32 (s.rd RED_CK_SETS) ∧ u.rd RED_STAT = lowered (s.rd RED_STAT) 11 ∧
        RegsBut [RED_CK_SET, RED_CK_SETS, RED_STAT] s u ∧
        u = { s with regs := u.regs, mem := u.mem, poison := u.poison, slices := u.slices, red := { s.red with
          dirty := u.red.dirty
          ckSt := u.red.ckSt
          stage := none
          committed := some (s.rd RED_EPOCH)
          fresh := true
          ckBegan := g.began
          revAcc := u.red.revAcc
          revAt := if s.health = 3 then some s.clk else none } }) ∧
    ((s.red.stage.all fun g => !g.commit) = true ∨ s.power.mem = false → Answers .ckptCommitDone s fun t => t = s) ∧
    (∀ m x, Heard portML 0x08 m x s → (s.mandate = true → Answers (.ckptAck m) s fun t =>
        t.rd RED_STAT = lowered (s.rd RED_STAT) 11 ∧
        t.rd RED_EVT = (if x.at' 4 1 = 0 then s.rd RED_EVT else raised (s.rd RED_EVT) 6) ∧
        RegsBut [RED_STAT, RED_EVT] s t ∧ t = { s with regs := t.regs }) ∧
      (s.mandate = false → Answers (.ckptAck m) s fun t => t = s))

/-- R321, R336–R340: a request or HANDOVER starts a plan under a new number at a holder of health 3; the target's readiness
moves its phase, the first one when the offset is known choosing the grid point, and a refusal or ABANDON ends it; the plan arms
the target's slices; at its grid point the mandate is yielded with every stNum, or, phase 2 missing, the plan ends before it; the target
gains the mandate; the request is made when the hold is counted out; `cx_hold` keeps the standby's compute die. That a holder
asks a target whose compute die is off to power it, and how the hold is counted, are the model's choices (log entries 133
and 126). -/
def Obligations.Handback : Prop :=
  ∀ (w : Who) (s : State), s.Canonical →
    let quiet := ∀ n, n < 256 → s.slEn n = true → s.life n ≠ 3
    let planned := { s.red with
      plan := some { id := s.red.planNext }
      planNext := if s.red.planNext = 2 ^ 32 - 1 then 1 else s.red.planNext + 1 }
    let shown := fun (t : State) => t.rd RED_HO_STAT = setBits (setBits (s.rd RED_HO_STAT) 2 0 1) 31 16 (s.red.planNext % 2 ^ 16)
    let started := fun (t : State) =>
      shown t ∧ RegsBut [RED_HO_STAT] s t ∧ t = { s with regs := t.regs, reply := t.reply, red := planned }
    let asked := fun (t : State) => ∃ u : State, shown u ∧ RegsBut [RED_HO_STAT] s u ∧
      u = { s with regs := u.regs, reply := t.reply, red := { planned with
        sentAt := s.red.sentAt.put 0x0E (some s.clk), maint := some (1, 1) } } ∧ LzSent portML 0x0E (bytesBE 1 1 ++ bytesBE 7 0) u t
    let ended := fun (t : State) =>
      t.rd RED_STAT = setBits (s.rd RED_STAT) 2 0 3 ∧ t.rd RED_HO_STAT = setBits (s.rd RED_HO_STAT) 2 0 0 ∧
      t.rd RED_EVT = raised (s.rd RED_EVT) 7 ∧ RegsBut [RED_STAT, RED_HO_STAT, RED_EVT] s t ∧
      t = { s with regs := t.regs, reply := t.reply, red := { s.red with plan := none } }
    let mayPlan := s.member = 3 ∧ s.health = 3 ∧ s.red.plan = none
    let past := fun (g : Nat) => s.closedGp.at' s.hoRef ≠ 0 ∧ (s.closedGp.at' s.hoRef - 1 + 2 ^ 40 - g) % 2 ^ 32 < 2 ^ 31
    let maintDue := s.mandate = true ∧ s.red.maint = none ∧ s.red.sentAt.at' 0x0E = none
    let mayRevert := s.member = 1 ∧ s.role = 0 ∧ s.bit RED_REVERT 12 = true ∧ s.health = 3 ∧ s.bit RED_STAT 10 = false
    let counted := s.red.revAcc + ((s.red.revAt.map fun a =>
      min (s.clk - a) (2 * (min (max (s.fld RED_CK_CFG 15 0) 10) 10000 * tMs))).getD 0)
    let hold := min (max (s.fld RED_REVERT 11 0) 60) 3600 * tSec
    (mayPlan → bitAt s.red.mate.flags 3 = true →
      (∀ m x, Heard portML 0x09 m x s → Answers (.handbackReq m) s started) ∧ (Sup w 12 s → Answers (.handover w) s started)) ∧
    (mayPlan → bitAt s.red.mate.flags 3 = false → maintDue →
      (∀ m x, Heard portML 0x09 m x s → Answers (.handbackReq m) s asked) ∧ (Sup w 12 s → Answers (.handover w) s asked)) ∧
    (¬mayPlan → (∀ m x, Heard portML 0x09 m x s → Answers (.handbackReq m) s fun t => t = s) ∧
      (Sup w 12 s → Answers (.handover w) s fun t => Wrote [] s t)) ∧
    (∀ p, s.red.plan = some p → s.holdsTwin = true → p.yields = 0 → quiet → Sup w 12 s → Answers (.abandon w) s ended) ∧
    (s.red.plan = none ∨ s.holdsTwin = false → Sup w 12 s → Answers (.abandon w) s fun t => Wrote [] s t) ∧
    (∀ m x p, Heard portML 0x0B m x s → s.red.plan = some p → s.holdsTwin = true → p.yields = 0 →
      let first := x.at' 5 1 = 0 ∧ x.at' 4 1 = 1 ∧ s.hoPhase = 1 ∧ p.chosen = false
      let phase := fun (n : Nat) (t : State) => t.rd RED_HO_STAT = setBits (s.rd RED_HO_STAT) 2 0 n ∧
        RegsBut [RED_HO_STAT] s t ∧ t = { s with regs := t.regs }
      (x.at' 5 1 ≠ 0 → quiet → Answers (.handbackReady m) s ended) ∧
      (first → s.bit RED_STAT 9 = false → Answers (.handbackReady m) s (phase 2)) ∧
      (first → s.bit RED_STAT 9 = true → Answers (.handbackReady m) s fun t => ∃ u v : State,
        let own := ((s.lastGrid s.hoRef).1 + max (s.fld RED_HO_CFG 15 8) 16) % 2 ^ 32
        let twin := (own + s.rd RED_HO_OFS) % 2 ^ 32
        u.rd RED_HO_STAT = setBits (s.rd RED_HO_STAT) 2 0 2 ∧ RegsBut [RED_HO_STAT] s u ∧
        u = { s with regs := u.regs, red := { s.red with
          plan := some { p with own := own, twin := twin, chosen := true, asking := true } } } ∧
        LzSent portML 0x0A (bytesBE 4 p.id ++ bytesBE 4 twin ++ bytesBE 1 s.hoRef ++ bytesBE 3 0 ++ bytesBE 4 own) u v ∧
        LzSent portAL 0x0D (bytesBE 4 p.id ++ bytesBE 1 (1 - s.role) ++ bytesBE 3 0)
          { v with red := { v.red with sentAt := v.red.sentAt.put 0x0D (some s.clk) } } t) ∧
      (x.at' 5 1 = 0 → x.at' 4 1 = 2 → x.at' 0 4 = p.id → p.chosen = true → s.hoPhase = 2 → Answers (.handbackReady m) s (phase 3))) ∧
    (∀ m x, Heard portML 0x0A m x s → s.member = 1 → x.at' 0 4 ≠ 0 → s.power.cxEn = true →
      let red := { s.red with plan := some { id := x.at' 0 4, own := x.at' 4 4, twin := x.at' 12 4, chosen := true } }
      let power := { s.power with cxOffAt := none }
      (quiet → Answers (.handbackPlan m) s fun t => t = { s with red := red, power := power }) ∧
      (∀ n, n < 256 → s.slEn n = true → s.life n = 3 → (∀ k, k < 256 → k = n ∨ s.slEn k = false ∨ s.life k ≠ 3) →
        (s.closedGp.at' (s.slRef n) = 0 ∨ 2 ^ 31 ≤ (s.closedGp.at' (s.slRef n) - 1 + 2 ^ 40 - x.at' 4 4) % 2 ^ 32) →
        Answers (.handbackPlan m) s fun t => t.rd (XEC_SL_RESUME_AT n) = x.at' 4 4 ∧ t.life n = 7 ∧ t.red = red ∧ t.power = power ∧
          (∀ k, k ≠ n → t.sl k = s.sl k))) ∧
    (∀ p, s.red.plan = some p → s.holdsTwin = true → p.chosen = true →
      (s.hoPhase = 3 → past p.own → s.led.staged.length < 1024 → Answers .handbackGridPoint s fun t => ∃ u v w : State,
        u.member = 1 ∧ u.mandate = false ∧ u.red.held = 0 ∧ Copied (s.rd RED_EPOCH) s u ∧ Recorded 6 12 s u ∧
        u.rd RED_EVT = raised (s.rd RED_EVT) 1 ∧ u.rd RED_MANDATE_CHG = incSat 32 (s.rd RED_MANDATE_CHG) ∧
        RegsBut [RED_STAT, RED_EVT, RED_MANDATE_CHG] s u ∧ v = (u.drive .mandateN true).guardArm.canMandateLost ∧
        w.member = 1 ∧ w.mandate = false ∧ w.hoPhase = 4 ∧ w.clk = s.clk ∧ w.out = v.out ∧ RegsBut [RED_STAT, RED_HO_STAT] v w ∧
        w.red.plan = some { p with yields := 1, yieldAt := s.clk, twin := s.red.held } ∧ w.red.verdict = none ∧
        LzSent portML 0x0C (bytesBE 4 p.id ++ bytesBE 4 s.red.held ++ bytesBE 8 0 ++
          (List.range 264).flatMap (fun e => bytesBE 4 (w.rd (PUB_ENT_STNUM e)))) w t) ∧
      (s.hoPhase ≠ 3 → past ((p.own + 2 ^ 32 - 1) % 2 ^ 32) → p.yields = 0 → quiet → Answers .handbackGridPoint s ended) ∧
      (s.hoPhase = 3 → ¬past p.own → Answers .handbackGridPoint s fun t => t = s)) ∧
    (s.red.plan = none → Answers .handbackGridPoint s fun t => t = s) ∧
    (∀ m x, Heard portML 0x0C m x s →
      (∀ v, s.red.verdict = some v → s.member = 1 → v.kind = 3 → v.plan = x.at' 0 4 → s.led.staged.length < 1024 → v.epoch < 2 ^ 32 →
        Answers (.mandateYield m) s fun t => ∃ u : State, Gained v.epoch s u ∧
          t = { ((u.drive .mandateN false).pubGained).armDelay.guardArm with power := { s.power with cxOffAt := none } } ∧
          (∀ e, e < 264 → u.rd (PUB_ENT_STNUM e) = x.at' (16 + 4 * e) 4) ∧
          RegsBut ([RED_STAT, RED_EPOCH, RED_EVT, RED_MANDATE_CHG] ++ (List.range 264).map PUB_ENT_STNUM) s u ∧
          u = { s with regs := u.regs, red := u.red, led := u.led }) ∧
      (s.red.verdict = none ∨ s.member ≠ 1 → Answers (.mandateYield m) s fun t => t = s)) ∧
    (∀ m x, Heard portML 0x0E m x s →
      (s.member = 1 → s.bit RED_CTL 2 = true → x.at' 0 1 ≠ 1 → Answers (.maint m) s fun t =>
        t.rd RED_CTL = lowered (s.rd RED_CTL) 2 ∧ RegsBut [RED_CTL] s t ∧
        t = { s with regs := t.regs, power := { s.power with cxOffAt := some (s.clk + 100 * tMs) } }) ∧
      (s.member = 1 → s.bit RED_CTL 2 = false → x.at' 0 1 = 1 → s.power.cxEn = true → Answers (.maint m) s fun t =>
        t.rd RED_CTL = raised (s.rd RED_CTL) 2 ∧ RegsBut [RED_CTL] s t ∧
        t = { s with regs := t.regs, power := { s.power with cxOffAt := none } }) ∧
      (s.member = 1 → s.bit RED_CTL 2 = false → x.at' 0 1 = 1 → s.power.cxEn = false → Answers (.maint m) s fun t =>
        t.bit RED_CTL 2 = true ∧ t.power.cxEn = true ∧ t.power.cx = true ∧ t.power.cxEnAt = s.clk ∧ t.member = 1) ∧
      (s.member ≠ 1 → Answers (.maint m) s fun t => t = s)) ∧
    (Sup w 12 s → s.power.cx = true → s.member ≠ 1 → ∀ v : Bool, Answers (.cxHoldWrite w v) s fun t =>
      t.rd RED_CTL = setBits (s.rd RED_CTL) 2 2 (b2n v) ∧ Wrote [RED_CTL] s t) ∧
    (Sup w 12 s → s.power.cx = false → Answers (.cxHoldWrite w true) s fun t => Wrote [] s t) ∧
    ((mayRevert → hold ≤ counted → s.power.cxEn = true → Answers .revertHoldComplete s fun t => ∃ u : State,
        LzSent portML 0x09 (bytesBE 4 ((s.red.revFrom.map fun a => (s.clk - a) / tSec).getD 0) ++ bytesBE 4 0) u t ∧
        u.rd RED_STAT = raised (s.rd RED_STAT) 10 ∧ RegsBut [RED_STAT] s u ∧
        u = { s with regs := u.regs, power := { s.power with cxOffAt := none }, red := { s.red with
          sentAt := s.red.sentAt.put 9 (some s.clk) } }) ∧
     (¬mayRevert ∨ counted < hold → Answers .revertHoldComplete s fun t => t = s))

/-- Stack messages of `src` reach the module in good order. -/
def Sys2Proof.Claims.CasOpen (src : CasIn) (s : State) : Prop :=
  s.bit CAS_CTL 0 = true ∧ s.power.nx = true ∧ s.complete = true ∧ src ≠ .own ∧ src ≠ .relay ∧ s.portUp (casPort src) = true

/-- A stack message of type `ty` that passes every check and was not seen before arrives from `src`. -/
def Sys2Proof.Claims.CasNew (src : CasIn) (ty : Nat) (m : List Byte) (x : LzMsg) (s : State) : Prop :=
  CasOpen src s ∧ s.lzRead m = some x ∧ 0x20 ≤ ty ∧ ty ≤ 0x26 ∧ x.ty = ty ∧ x.epoch ≤ s.rd RED_EPOCH ∧
    (x.role ≠ s.role ∨ x.pos ≠ s.position) ∧ (s.cas.seen.at' (originKey x)).contains (seenKey x) = false

/-- Such a message for this module that goes no further: addressed to its position while it holds the mandate, or to all with
its hops made, and from the other ring. -/
def Sys2Proof.Claims.CasQuiet (src : CasIn) (ty : Nat) (m : List Byte) (x : LzMsg) (s : State) : Prop :=
  CasNew src ty m x s ∧ x.role ≠ s.role ∧ (x.at' 0 1 = s.position ∧ s.mandate = true ∨ x.at' 0 1 = 0xFF ∧ 15 ≤ x.at' 1 1)

/-- What CAS keeps when the message is noted. -/
def Sys2Proof.Claims.casNoted (s : State) (x : LzMsg) : Cas :=
  { s.cas with seen := s.cas.seen.mod (originKey x) (fun l => (seenKey x :: l).take 256) }

/-- R342–R347: a message not in order is counted; one seen before is not taken again; another's is forwarded one hop on and, from the
own ring, relayed to the twin; the dealer's heartbeat names it, the higher epoch of two claimants is taken, and its silence
loses it with every follow; four agreeing ANGLE align a follow and four that disagree lose it; a partial sum goes to its
zone; a census call is accepted under its number or sent, and census data stand in the dealer's buffer. -/
def Obligations.Stack : Prop :=
  ∀ (src : CasIn) (m : List Byte) (s : State), s.Canonical →
    let all := [(Instr.dealerHb src m, 0x20), (.angle src m, 0x21), (.partialSum src m, 0x22), (.censusCall src m, 0x23),
      (.censusData src m, 0x24), (.recArm src m, 0x25), (.recFire src m, 0x26)]
    let rx := incSat 32 (s.rd CAS_RX)
    let lost := fun (t : State) => ∀ r ∈ s.follows, t.bit (CAS_REF_STAT r) 0 = false ∧ t.bit (CAS_REF_STAT r) 1 = true ∧
      t.fld (CAS_REF_STAT r) 4 2 = 0 ∧ (s.bit (CAS_REF_STAT r) 0 = true → t.bit CAS_EVT 2 = true)
    (CasOpen src s → s.lzRead m = none → ∀ e ∈ all, Answers e.1 s fun t =>
      t.rd CAS_BAD = incSat 32 (s.rd CAS_BAD) ∧ t.rd CAS_EVT = raised (s.rd CAS_EVT) 4 ∧
      RegsBut [CAS_BAD, CAS_EVT] s t ∧ t = { s with regs := t.regs }) ∧
    (s.bit CAS_CTL 0 = false → src ≠ .own → ∀ e ∈ all, Answers e.1 s fun t => t = s) ∧
    (∀ x, CasOpen src s → s.lzRead m = some x → x.epoch ≤ s.rd RED_EPOCH → ∀ e ∈ all, x.ty = e.2 →
      (x.role = s.role → x.pos = s.position → Answers e.1 s fun t => t.rd CAS_RX = rx ∧ RegsBut [CAS_RX] s t ∧
        t = { s with regs := t.regs, cas := if e.2 = 0x20 then { s.cas with ring := min 8 (x.at' 1 1 + 1) } else s.cas }) ∧
      (x.role ≠ s.role ∨ x.pos ≠ s.position → (s.cas.seen.at' (originKey x)).contains (seenKey x) = true → Answers e.1 s fun t =>
        t.rd CAS_RX = rx ∧ RegsBut [CAS_RX] s t ∧ t = { s with regs := t.regs })) ∧
    (∀ x, ∀ e ∈ all, CasNew src e.2 m x s → x.at' 0 1 ≠ 0xFF →
      let hop := lzSeal (m.take 17 ++ bytesBE 1 (x.at' 1 1 + 1) ++ (m.take (16 + x.payload.length)).drop 18)
      let out := fun (p : Nat) => lzFrame (lzDst p) (s.macAddr p) hop
      let next := if src = .up then portCD else portCU
      let noted := fun (u : State) => u = { s with regs := u.regs, cas := casNoted s x } ∧ u.rd CAS_RX = rx ∧ RegsBut [CAS_RX] s u
      (x.at' 0 1 ≠ s.position → x.at' 1 1 < 15 → Answers e.1 s fun t => ∃ u v : State, noted u ∧ Emitted next (out next) u v ∧
        t.rd CAS_FWD = incSat 32 (s.rd CAS_FWD) ∧ RegsBut [CAS_FWD] v t ∧ t = { v with regs := t.regs }) ∧
      (x.at' 0 1 ≠ s.position → 15 ≤ x.at' 1 1 → Answers e.1 s noted) ∧
      (x.at' 0 1 = s.position → s.mandate = false → x.role = s.role → 15 ≤ x.at' 1 1 → s.portUp portML = true →
        s.bit RED_CTL 0 = true → s.member ≠ 6 → Answers e.1 s fun t => ∃ u v : State, noted u ∧ Emitted portML (out portML) u v ∧
          t.rd CAS_RELAY = incSat 32 (s.rd CAS_RELAY) ∧ RegsBut [CAS_RELAY] v t ∧ t = { v with regs := t.regs })) ∧
    (∀ x, CasQuiet src 0x20 m x s → x.pos = 0 → s.isDealer = false →
      let known := s.bit CAS_STAT 4 = true
      let cas := { casNoted s x with role := x.role, epoch := x.epoch, at_ := s.clk, bitmap := x.at' 4 2, called := x.at' 8 4 }
      (known → s.cas.role = x.role → (∀ r ∈ s.follows, bitAt (x.at' 4 2) (s.followOf r) = true) → Answers (.dealerHb src m) s fun t =>
        t.rd CAS_RX = rx ∧ RegsBut [CAS_RX] s t ∧ t = { s with regs := t.regs, cas := cas }) ∧
      (¬known → s.follows = [] → Answers (.dealerHb src m) s fun t =>
        t.rd CAS_RX = rx ∧ t.rd CAS_STAT = raised (s.rd CAS_STAT) 4 ∧ t.rd CAS_EVT = raised (s.rd CAS_EVT) 1 ∧
        RegsBut [CAS_RX, CAS_STAT, CAS_EVT] s t ∧ t = { s with regs := t.regs, cas := cas }) ∧
      (known → s.cas.role ≠ x.role → x.epoch ≤ s.cas.epoch → Answers (.dealerHb src m) s fun t =>
        t.rd CAS_RX = rx ∧ t.rd CAS_EVT = raised (s.rd CAS_EVT) 6 ∧ RegsBut [CAS_RX, CAS_EVT] s t ∧
        t = { s with regs := t.regs, cas := casNoted s x }) ∧
      (known → s.cas.role ≠ x.role → s.cas.epoch < x.epoch → (∀ r ∈ s.follows, bitAt (x.at' 4 2) (s.followOf r) = true) →
        Answers (.dealerHb src m) s fun t =>
        t.rd CAS_RX = rx ∧ t.bit CAS_EVT 6 = true ∧ t.bit CAS_EVT 1 = true ∧ lost t ∧
        RegsBut ([CAS_RX, CAS_EVT] ++ s.follows.map CAS_REF_STAT) s t ∧
        t = { s with regs := t.regs, cas := { cas with wrong := t.cas.wrong } })) ∧
    (s.bit CAS_STAT 4 = true → s.cas.at_ + 5 * tMs ≤ s.clk → Answers .dealerLoss s fun t =>
      t.rd CAS_STAT = lowered (s.rd CAS_STAT) 4 ∧ t.bit CAS_EVT 0 = true ∧
      t.rd CAS_DEALER_LOSS = incSat 32 (s.rd CAS_DEALER_LOSS) ∧ lost t ∧
      RegsBut ([CAS_STAT, CAS_EVT, CAS_DEALER_LOSS] ++ s.follows.map CAS_REF_STAT) s t ∧
      t = { s with regs := t.regs, cas := { s.cas with wrong := t.cas.wrong } }) ∧
    (s.bit CAS_STAT 4 = false ∨ s.clk < s.cas.at_ + 5 * tMs → Answers .dealerLoss s fun t => t = s) ∧
    (∀ x, CasQuiet src 0x21 m x s → x.pos = 0 →
      let plain := fun (t : State) => t.rd CAS_RX = rx ∧ RegsBut [CAS_RX] s t ∧ t = { s with regs := t.regs, cas := casNoted s x }
      (s.bit CAS_STAT 4 = false ∨ x.role ≠ s.cas.role ∨ bitAt s.cas.bitmap (x.at' 4 1) = false → Answers (.angle src m) s plain) ∧
      (∀ r ∈ s.follows, ∀ e ∈ s.gridLog r, s.bit CAS_STAT 4 = true → x.role = s.cas.role → bitAt s.cas.bitmap (x.at' 4 1) = true →
        s.followOf r = x.at' 4 1 → (∀ k ∈ s.follows, k = r ∨ s.followOf k ≠ x.at' 4 1) →
        (let inst := x.at' 16 4 * 10 ^ 9 + x.at' 12 4
         ∀ y ∈ s.gridLog r, y = e ∨ Machine.dist e.2 inst < Machine.dist y.2 inst) →
        let o := (x.at' 8 4 + 2 ^ 40 - e.1) % 2 ^ 32
        let d := (x.at' 8 4 % 128 * 512 + 65536 - e.1 % 128 * 512) % 65536
        let agree := min d (65536 - d) ≤ min (max (s.fld CAS_AGREE 15 0) 1) 4096
        let run := s.fld (CAS_REF_STAT r) 4 2
        let same := run ≠ 0 ∧ s.rd (CAS_REF_OFS r) = o
        let aligned := s.bit (CAS_REF_STAT r) 0
        let stat := s.rd (CAS_REF_STAT r)
        let wrong := s.cas.wrong.at' r + 1
        let with' := fun (n : Nat) (t : State) => t = { s with regs := t.regs, cas := { casNoted s x with wrong := s.cas.wrong.put r n } }
        (agree → same → aligned = true ∨ run < 3 → Answers (.angle src m) s fun t =>
          t.rd CAS_RX = rx ∧ t.rd (CAS_REF_OFS r) = o ∧ t.rd (CAS_REF_STAT r) = setBits stat 4 2 (min 7 (run + 1)) ∧
          RegsBut [CAS_RX, CAS_REF_OFS r, CAS_REF_STAT r] s t ∧ with' 0 t) ∧
        (agree → ¬same → aligned = false → Answers (.angle src m) s fun t =>
          t.rd CAS_RX = rx ∧ t.rd (CAS_REF_OFS r) = o ∧ t.rd (CAS_REF_STAT r) = setBits stat 4 2 1 ∧
          RegsBut [CAS_RX, CAS_REF_OFS r, CAS_REF_STAT r] s t ∧ with' 0 t) ∧
        (agree → same → aligned = false → run = 3 → Answers (.angle src m) s fun t =>
          t.rd CAS_RX = rx ∧ t.rd (CAS_REF_STAT r) = lowered (raised (setBits stat 4 2 4) 0) 1 ∧
          t.rd CAS_EVT = raised (s.rd CAS_EVT) 3 ∧ RegsBut [CAS_RX, CAS_REF_OFS r, CAS_REF_STAT r, CAS_EVT] s t ∧ with' 0 t) ∧
        (¬agree ∨ ¬same ∧ aligned = true → wrong < 4 → Answers (.angle src m) s fun t =>
          t.rd CAS_RX = rx ∧ t.rd (CAS_REF_STAT r) = (if aligned then stat else setBits stat 4 2 0) ∧
          RegsBut [CAS_RX, CAS_REF_STAT r] s t ∧ with' wrong t) ∧
        (¬agree ∨ ¬same ∧ aligned = true → 4 ≤ wrong → Answers (.angle src m) s fun t =>
          t.rd CAS_RX = rx ∧ t.rd (CAS_REF_STAT r) = setBits (raised (lowered stat 0) 1) 4 2 0 ∧
          t.rd CAS_EVT = (if aligned then raised (s.rd CAS_EVT) 2 else s.rd CAS_EVT) ∧
          RegsBut [CAS_RX, CAS_REF_STAT r, CAS_EVT] s t ∧ with' 0 t))) ∧
    (∀ x, CasQuiet src 0x22 m x s → s.power.cx = true → x.at' 4 1 < 16 →
      let z := x.at' 4 1
      let v := fun i => signed 64 (x.at' (12 + 8 * i) 8)
      let gp := (x.at' 8 4 + 2 ^ 32 - s.casOffset (s.zRef z)) % 2 ^ 32
      let c : Contrib := { pos := x.pos, gp := gp, d := [v 0, v 1, v 2], r := [v 3, v 4, v 5], q := x.at' 5 1 }
      let home := s.bit (DZE_Z_CFG z) 31 = true ∧ s.zSpan z = true ∧ s.zHome z = true ∧ (s.zPeers z).contains x.pos = true
      let past := ((s.dzeOf z).done.any fun g => decide ((g + 2 ^ 32 - gp) % 2 ^ 32 < 2 ^ 31)) = true
      (home → ¬past → (s.dzeOf z).waits = [] → Answers (.partialSum src m) s fun t =>
        t.rd CAS_RX = rx ∧ RegsBut [CAS_RX] s t ∧ t = { s with regs := t.regs, cas := casNoted s x, dze := s.dze.put z { s.dzeOf z with
          got := (s.dzeOf z).got.filter (fun e => !(e.pos == x.pos && e.gp == gp)) ++ [c] } }) ∧
      (home → past → Answers (.partialSum src m) s fun t =>
        t.rd CAS_RX = rx ∧ t.rd (DZE_Z_EVT z) = raised (s.rd (DZE_Z_EVT z)) 5 ∧ RegsBut [CAS_RX, DZE_Z_EVT z] s t ∧
        t = { s with regs := t.regs, cas := casNoted s x }) ∧
      (¬home → Answers (.partialSum src m) s fun t =>
        t.rd CAS_RX = rx ∧ RegsBut [CAS_RX] s t ∧ t = { s with regs := t.regs, cas := casNoted s x })) ∧
    (∀ x, CasQuiet src 0x23 m x s → x.pos = 0 → s.bit CEN_CTL 0 = false ∨ s.bit CEN_CTL 1 = false →
      Answers (.censusCall src m) s fun t => t.rd CAS_RX = rx ∧
        t.rd CAS_CEN_GOT = (if s.fld CAS_CEN_GOT 31 16 = x.at' 4 2 then s.rd CAS_CEN_GOT else x.at' 4 2 * 2 ^ 16) ∧
        RegsBut [CAS_RX, CAS_CEN_GOT] s t ∧ t = { s with regs := t.regs, cas := { casNoted s x with
          got := if s.fld CAS_CEN_GOT 31 16 = x.at' 4 2 then s.cas.got else [] } }) ∧
    (∀ x, CasQuiet src 0x23 m x s → x.pos = 0 → s.bit CEN_CTL 0 = true → s.bit CEN_CTL 1 = true → s.bit CEN_STAT 0 = false →
      let armed : Machine.Census := {
        slot := s.cen.slot, image := s.cen.image, now := s.cen.now, armedAt := s.clk, sec := x.at' 16 4,
        ns := x.at' 12 4, number := x.at' 4 2, stack := true }
      s.fld CAS_CEN_GOT 31 16 = x.at' 4 2 → x.at' 6 1 ≠ 1 → s.wallNs ≤ s.cenInstant (x.at' 16 4) (x.at' 12 4) →
      Answers (.censusCall src m) s fun t => t.rd CAS_RX = rx ∧ t.rd CEN_STAT = raised (s.rd CEN_STAT) 0 ∧
        RegsBut [CAS_RX, CEN_STAT] s t ∧ t = { s with regs := t.regs, cas := casNoted s x, cen := armed }) ∧
    (src = .own → s.isDealer = false ∨ s.bit CAS_CTL 0 = false ∨ m.length ≠ 16 ∨ bitAt (beNat (m.take 2)) 15 = false →
      Answers (.censusCall src m) s fun t => t = s) ∧
    (src = .own → s.isDealer = true → s.bit CAS_CTL 0 = true → s.power.nx = true → s.complete = true → m.length = 16 →
      s.bit CEN_CTL 1 = false →
      let n := beNat (m.take 2)
      let grid := beNat ((m.drop 2).take 1) = 1
      let d := beNat ((m.drop 3).take 1) % 16
      bitAt n 15 = true → s.fld CAS_CEN_GOT 31 16 ≠ n →
      (grid → s.bit CAS_DIST d = true ∧ beNat ((m.drop 4).take 1) % 128 ≠ (s.fld (WEFT_REF_ANGLE_LO d) 15 9 + 1) % 128) →
      (¬grid → s.wallNs + 100000 ≤ s.cenInstant (beNat ((m.drop 12).take 4)) (beNat ((m.drop 8).take 4))) →
      Answers (.censusCall src m) s fun t => ∃ u v w : State, u.rd CAS_CEN_GOT = n * 2 ^ 16 ∧ RegsBut [CAS_CEN_GOT] s u ∧
        u = { s with regs := u.regs, cas := { s.cas with called := n, got := [] } } ∧
        (let p := bytesBE 1 0xFF ++ bytesBE 3 0 ++ m
         LzSent portCU 0x23 p u v ∧ LzSent portCD 0x23 p v w) ∧
        t.rd CAS_TX = incSat 32 (s.rd CAS_TX) ∧ RegsBut [CAS_TX] w t ∧ t = { w with regs := t.regs }) ∧
    (∀ x, CasQuiet src 0x24 m x s → s.isDealer = true → s.power.mem = true → x.at' 4 2 = s.fld CAS_CEN_GOT 31 16 →
      let off := x.at' 8 4
      let data := x.payload.drop 16
      let a := s.base CAS_CEN_BUF_LO 25 + x.pos * 0x400000 + off
      0 < data.length → data.length ≤ 1984 → off + data.length ≤ 0x400000 → s.cas.got.at' x.pos = [] →
      a + data.length ≤ smBase →
      let whole := off = 0 ∧ x.at' 12 4 ≤ data.length ∧ 0x40 ≤ x.at' 12 4 ∧
        crc32 ((data.take (x.at' 12 4)).drop 0x40) = leNat ((data.drop 0x28).take 4)
      let put := fun (t : State) => t.rdBytes a data.length = data ∧ (∀ y, y < a ∨ a + data.length ≤ y → t.rdByte y = s.rdByte y) ∧
        t.rd CAS_RX = rx ∧ Noted s t ∧ t = { s with regs := t.regs, mem := t.mem, poison := t.poison, slices := t.slices, red := t.red
                                                    cas := { casNoted s x with got := s.cas.got.put x.pos [(off, data.length)] } }
      (¬whole → Answers (.censusData src m) s fun t => put t ∧ RegsBut [CAS_RX] s t) ∧
      (whole → Answers (.censusData src m) s fun t => put t ∧ t.rd CAS_CEN_GOT = raised (s.rd CAS_CEN_GOT) x.pos ∧
        RegsBut [CAS_RX, CAS_CEN_GOT, CAS_EVT] s t)) ∧
    (∀ x, CasQuiet src 0x24 m x s → s.isDealer = false ∨ x.at' 4 2 ≠ s.fld CAS_CEN_GOT 31 16 → Answers (.censusData src m) s fun t =>
      t.rd CAS_RX = rx ∧ RegsBut [CAS_RX] s t ∧ t = { s with regs := t.regs, cas := casNoted s x })

/-- R352, R353, R357, R360, R361, R363–R365, R369: each closing gives a row in the current slot, waiting at most 20 µs for the engine results its
triggers use; a trigger in ARMED starts a record under the next number; a record that is over is written out, its
completion word included; a hold-off ends; arming, disarming, a manual trigger and the release of a slot do what they say; the
dealer arms a stack recorder and a remote trigger waits for its grid point; a watchdog puts every recorder in FAULT. No values
from before an activation wait. -/
def Obligations.Recorder : Prop :=
  ∀ (w : Who) (r : Fin 8) (s : State), s.Canonical →
    let q := s.recOf r
    let n := s.recSize r
    let stat := fun (v : Nat) => setBits (s.rd (TAE_REC_STAT r)) 2 0 v
    let moved := fun (v : Nat) (t : State) =>
      t.rd (TAE_REC_STAT r) = stat v ∧ t.rd (TAE_REC_EVT r) = raised (s.rd (TAE_REC_EVT r)) 0 ∧
      RegsBut [TAE_REC_STAT r, TAE_REC_EVT r] s t
    let refused := fun (t : State) => t.rd (TAE_REC_EVT r) = raised (s.rd (TAE_REC_EVT r)) 9 ∧ Wrote [TAE_REC_EVT r] s t
    let waits := fun (k : Nat) => ∃ u, u < 16 ∧ s.trgEn r u = true ∧ s.trgBound r u = true ∧ s.trgReady r u k = false
    (∀ c rest, s.taeQ.at' r = c :: rest → s.power.cx = true → s.power.mem = true → s.bit TAE_CTL 0 = true → s.recState r ≠ 0 →
      s.refState c.ref ≠ 0 → s.priorsOf 14 r = [] →
      (waits c.seq → s.clk < c.at_ + 20 * tUs → Answers (.taeRowWrite r []) s fun t => t = s) ∧
      (s.recState r = 1 → q.remote = none → q.open_ = none → (∀ u, u < 16 → s.trgEn r u = false) →
        recRowAt (s.slotAt r (s.recCur r)) n ≤ smBase → 0 < n → Answers (.taeRowWrite r []) s fun t =>
        let a := recRowAt (s.slotAt r (s.recCur r)) (q.row % n)
        t.rdBytes a rowLen = sealRow (s.rowParts r c.seq (s.rowVals r c.seq []) false false [] false) ∧
        (∀ y, y < a ∨ a + rowLen ≤ y → t.rdByte y = s.rdByte y) ∧
        t.recOf r = { q with row := (q.row + 1) % n, held := min n (q.held + 1), manual := false, grd := 0 } ∧
        (∀ k, k ≠ r.val → t.recOf k = s.recOf k) ∧ Noted s t ∧ t = { s with
          mem := t.mem, poison := t.poison, taeQ := s.taeQ.put r rest, tae := t.tae, slices := t.slices, red := t.red }) ∧
      (∀ u, u < 16 → s.trgEn r u = true → s.trgKind r u = 7 → (∀ k, k < 16 → k = u ∨ s.trgEn r k = false) → q.manual = true →
        q.remote = none → q.open_ = none → s.recState r = 2 → 2 ≤ s.recPost r → s.recStack r = false →
        Answers (.taeRowWrite r []) s fun t =>
        t.recState r = 3 ∧ t.rd (TAE_REC_TRIGS r) = incSat 32 (s.rd (TAE_REC_TRIGS r)) ∧
        t.recNo.at' r = s.recNo.at' r + 1 ∧ t.bit (TAE_REC_EVT r) 0 = true ∧
        (∃ o, (t.recOf r).open_ = some o ∧ o.num = s.recNo.at' r + 1 ∧ o.src = 7 ∧ o.origin = s.position ∧ o.post = 1 ∧
          o.need = s.recPost r ∧ o.pre = min (s.recPre r) (min n (q.held + 1) - 1) ∧ o.slot = s.recCur r) ∧
        RegsBut [TAE_REC_STAT r, TAE_REC_EVT r, TAE_REC_TRIGS r] s t)) ∧
    (s.taeQ.at' r = [] ∨ s.power.cx = false ∨ s.power.mem = false → Answers (.taeRowWrite r []) s fun t => t = s) ∧
    (∀ o rest, s.power.cx = true → s.power.mem = true → s.recState r ≠ 7 → q.finish = o :: rest → o.addr + 0x3000 ≤ smBase →
      Answers (.recordComplete r) s fun t =>
        t.ld (o.addr + 0xFC) 4 = o.num % 2 ^ 31 + 2 ^ 31 ∧ t.ld o.addr 4 = 0x52454344 ∧
        (∀ y, y < o.addr ∨ o.addr + 0x3000 ≤ y → t.rdByte y = s.rdByte y) ∧
        t.rd (TAE_REC_LAST r) = o.num % 2 ^ 32 ∧ t.rd (TAE_REC_RECS r) = incSat 32 (s.rd (TAE_REC_RECS r)) ∧
        t.bit (TAE_REC_EVT r) 1 = true ∧ t.fld (TAE_REC_STAT r) 15 8 = o.slot % 256 ∧ (t.recOf r).finish = rest ∧
        (t.recOf r).done = q.done.put o.slot o.num ∧ Noted s t ∧
        RegsBut [TAE_REC_STAT r, TAE_REC_EVT r, TAE_REC_LAST r, TAE_REC_RECS r] s t ∧ t = { s with
          regs := t.regs, mem := t.mem, poison := t.poison, free := s.free + 2, tae := t.tae, slices := t.slices, red := t.red }) ∧
    (s.power.cx = false ∨ s.power.mem = false ∨ s.recState r = 7 ∨ q.finish = [] → Answers (.recordComplete r) s fun t => t = s) ∧
    (s.recState r = 4 → s.bit (TAE_REC_HOLD r) 16 = false → q.holdAt + s.fld (TAE_REC_HOLD r) 15 0 * tMs ≤ s.clk →
      Answers (.holdoffExpiry r) s fun t => moved (if q.armed then 2 else 1) t ∧ t = { s with regs := t.regs }) ∧
    (s.recState r ≠ 4 ∨ s.bit (TAE_REC_HOLD r) 16 = true ∨ s.clk < q.holdAt + s.fld (TAE_REC_HOLD r) 15 0 * tMs →
      Answers (.holdoffExpiry r) s fun t => t = s) ∧
    (Sup w 14 s → s.recStack r = false →
      (s.recState r = 1 → Answers (.taeArm w r) s fun t =>
        moved 2 t ∧ t = { s with regs := t.regs, reply := t.reply, tae := s.tae.put r { q with armed := true, armId := 0 } }) ∧
      (s.recState r = 3 → Answers (.taeArm w r) s fun t =>
        t = { s with reply := t.reply, tae := s.tae.put r { q with armed := true, armId := 0 } }) ∧
      (s.recState r = 2 → Answers (.taeDisarm w r) s fun t =>
        moved 1 t ∧ t = { s with regs := t.regs, reply := t.reply, tae := s.tae.put r { q with armed := false } }) ∧
      (s.recState r ≠ 2 → Answers (.taeDisarm w r) s fun t =>
        t = { s with reply := t.reply, tae := s.tae.put r { q with armed := false } })) ∧
    (Sup w 14 s → s.recStack r = true → s.isDealer = false → Answers (.taeArm w r) s refused ∧ Answers (.taeDisarm w r) s refused) ∧
    (Reaches w 14 s → privileged w = true ∨ (∃ i, i < 1280 ∧ s.may w 9 (1280 * r + i) .use = true) → Answers (.taeTrigger w r) s fun t =>
      t = { s with reply := t.reply, tae := s.tae.put r { q with manual := true } }) ∧
    (∀ (k : Byte), Sup w 14 s → s.recState r ≠ 5 →
      (q.done.any (fun e => e.1 == k.toNat) = true → k.toNat ≠ s.recCur r → Answers (.taeFree w r k) s fun t =>
        let l := q.done.filter (fun e => e.1 != k.toNat)
        t.rd (TAE_REC_STAT r) = setBits (s.rd (TAE_REC_STAT r)) 31 24 l.length ∧ RegsBut [TAE_REC_STAT r] s t ∧
        t = { s with regs := t.regs, reply := t.reply, tae := s.tae.put r { q with done := l } }) ∧
      (q.done.any (fun e => e.1 == k.toNat) = false ∨ k.toNat = s.recCur r → Answers (.taeFree w r k) s refused)) ∧
    (s.power.cx = false → Answers .taeWatchdog s fun t => t = s) ∧
    (s.power.cx = true → s.led.staged.length < 1024 → s.faults.at' (8 * 14 + 5) = [] → Answers .taeWatchdog s fun t =>
      (∀ k, k < 8 → s.recState k ≠ 0 → t.recState k = 7 ∧ (t.recOf k).open_ = none ∧ (t.recOf k).finish = []) ∧
      (∀ k, k < 8 → s.recState k = 0 → t.recState k = 0 ∧ t.recOf k = s.recOf k) ∧
      t.rd TAE_CHK_STAT = raised (s.rd TAE_CHK_STAT) 1 ∧ Recorded 3 14 s t ∧
      RegsBut (TAE_CHK_STAT :: ((List.range 8).map TAE_REC_STAT ++ (List.range 8).map TAE_REC_EVT)) s t ∧
      t = { s with regs := t.regs, tae := t.tae, led := t.led, faults := s.faults.put (8 * 14 + 5) [s.clk] }) ∧
    (∀ (src : CasIn) m x, x.at' 4 1 = r.val → s.power.cx = true → s.recStack r = true →
      let rx := incSat 32 (s.rd CAS_RX)
      let cas := casNoted s x
      let fire := fun (q : RecRemote) (t : State) => t.rd CAS_RX = rx ∧ RegsBut [CAS_RX] s t ∧
        t = { s with regs := t.regs, cas := cas, tae := s.tae.put r { s.recOf r with remote := some q } }
      let unit6 := ∃ u, u < 16 ∧ s.trgEn r u = true ∧ s.trgKind r u = 6
      (CasQuiet src 0x25 m x s → x.pos = 0 → s.recState r = 1 → x.at' 5 1 = 1 → Answers (.recArm src m) s fun t =>
        t.rd CAS_RX = rx ∧ t.rd (TAE_REC_STAT r) = stat 2 ∧ t.rd (TAE_REC_EVT r) = raised (s.rd (TAE_REC_EVT r)) 0 ∧
        t.recOf r = { q with armSeen := true, armed := true, armId := x.at' 8 4 } ∧
        RegsBut [CAS_RX, TAE_REC_STAT r, TAE_REC_EVT r] s t ∧
        t = { s with regs := t.regs, cas := cas, tae := t.tae }) ∧
      (CasQuiet src 0x25 m x s → x.pos = 0 → s.recState r = 2 → x.at' 5 1 = 2 → Answers (.recArm src m) s fun t =>
        t.rd CAS_RX = rx ∧ t.rd (TAE_REC_STAT r) = stat 1 ∧ t.rd (TAE_REC_EVT r) = raised (s.rd (TAE_REC_EVT r)) 0 ∧
        t.recOf r = { q with armSeen := true, armed := false } ∧
        RegsBut [CAS_RX, TAE_REC_STAT r, TAE_REC_EVT r] s t ∧ t = { s with regs := t.regs, cas := cas, tae := t.tae }) ∧
      (CasQuiet src 0x26 m x s → s.recState r ≠ 0 → s.recState r ≠ 7 → ¬unit6 ∨ (∃ o, q.open_ = some o ∧ o.remote = false) →
        Answers (.recFire src m) s fun t => t.rd CAS_RX = rx ∧ RegsBut [CAS_RX] s t ∧ t = { s with regs := t.regs, cas := cas }) ∧
      (CasQuiet src 0x26 m x s → s.recState r = 3 → (∃ o, q.open_ = some o ∧ o.remote = true) → unit6 → x.at' 8 4 = 0xFFFFFFFF →
        Answers (.recFire src m) s (fire { gt := none, src := x.at' 5 1, origin := x.pos, unaligned := true })) ∧
      (CasQuiet src 0x26 m x s → s.recState r = 2 → s.spanOk (s.recRef r) = true → x.at' 8 4 ≠ 0xFFFFFFFF → unit6 → q.open_ = none →
        s.rowsSince r ((x.at' 8 4 + 2 ^ 32 - s.casOffset (s.recRef r)) % 2 ^ 32) = none → s.closedGp.at' (s.recRef r) ≠ 0 →
        ((x.at' 8 4 + 2 ^ 32 - s.casOffset (s.recRef r)) % 2 ^ 32 + 2 ^ 32 - (s.closedGp.at' (s.recRef r) - 1) % 2 ^ 32) % 2 ^ 32 = 1 →
        Answers (.recFire src m) s (fire { gt := some ((x.at' 8 4 + 2 ^ 32 - s.casOffset (s.recRef r)) % 2 ^ 32)
                                           src := x.at' 5 1, origin := x.pos, unaligned := false })))

/-- The record of point `p` now holds this value, quality byte, type, writer, instant and pass word under the next count (R237,
R240), the write is counted, and nothing else in memory changed. -/
def Sys2Proof.Claims.PointPut (p v q ty slice sec ns pass : Nat) (s t : State) : Prop :=
  let a := s.pointAt p
  t.pointWord p 0 = v ∧ t.pointWord p 1 = 0 ∧ t.pointWord p 2 = q + ty * 2 ^ 8 + slice * 2 ^ 16 ∧ t.pointWord p 3 = ns ∧
    t.pointWord p 4 = sec % 2 ^ 32 ∧ t.pointWord p 5 = sec / 2 ^ 32 % 2 ^ 16 + timeQuality s.syncClass * 2 ^ 16 ∧
    t.pointWord p 6 = pass ∧ t.pointWord p 7 = (s.pointWord p 7 + 1) % 2 ^ 31 + 2 ^ 31 ∧
    t.rd PTS_WRITES = incSat 32 (s.rd PTS_WRITES) ∧ ∀ x, x < a ∨ a + 32 ≤ x → t.rdByte x = s.rdByte x

/-- The set-point, rate and rate of rate after one cycle of the profile (R377). -/
def Sys2Proof.Claims.profiled (target vmax amax jmax T sp v a : Nat) : Nat × Nat × Nat :=
  let d := fSub target sp
  let sign := if fIsZero d then 0 else if fSign d then fNeg fOne else fOne
  let vlim := if fLt 0 amax then fMin vmax (fSqrt (fMul (fMul (fAdd fOne fOne) amax) (fAbs d))) else vmax
  let want := fDiv (fSub (fMul sign vlim) v) T
  let des := if fLt 0 amax then fClamp (fNeg amax) amax want else want
  let a' := if fLt 0 jmax then fAdd a (fClamp (fNeg (fMul jmax T)) (fMul jmax T) (fSub des a)) else des
  let v' := fClamp (fNeg vmax) vmax (fAdd v (fMul a' T))
  let sp' := fAdd sp (fMul v' T)
  if fIsZero vmax ∨ fLe (fMul (fSub target sp') d) 0 then (target, 0, 0) else (sp', v', a')

/-- R373, R376–R378, R380, R382, R383, R385, R388, for a loop whose feedback is a point and that does not publish: a cycle in CLOSED
runs the profile and the control law, limits the output and keeps the integral when it is limited; the first one after its entry
initialises it; lost feedback holds it; OPEN follows `u_man` and FALLBACK ramps to `u_fb`; each cycle writes the output point.
A loop fed by a PSU set waits for it up to 15 µs. The commands and the delays move the loop's state, an order it does not take
is flagged, and a watchdog puts every loop that runs in FAULT. -/
def Obligations.Regulation : Prop :=
  ∀ (w : Who) (l : Fin 32) (s : State), s.Canonical →
    let st := s.loopState l
    let reg := fun (a : Nat → Nat) => s.rd (a l)
    let may := Reaches w 15 s ∧ s.may w 10 l .use = true
    let moved := fun (v e : Nat) (t : State) =>
      t.rd (RGE_LP_STAT l) = setBits (reg RGE_LP_STAT) 2 0 v ∧ t.rd (RGE_LP_EVT l) = raised e 0
    let q := s.loopOf l
    let same := fun (t : State) => t = s
    (∀ c rest, s.rgeQ.at' l = c :: rest → s.power.cx = true → s.bit RGE_CTL 0 = true → s.bit (RGE_LP_CFG l) 31 = true →
      s.bit (RGE_LP_STAT l) 9 = false → c.ref = s.loopRef l → s.refState c.ref ≠ 0 → s.priorsOf 15 l = [] →
      s.fld (RGE_LP_CFG l) 14 13 = 2 → s.fld (RGE_LP_CFG l) 12 11 = 0 ∨ s.fld (RGE_LP_CFG l) 12 11 = 2 →
      s.bit (RGE_LP_CFG l) 6 = false → s.fld (RGE_LP_TIMES l) 31 24 = 0 → s.clk ≤ c.at_ + 25 * tUs → q.back = false →
      q.spTaken = true → s.bit PTS_CTL 0 = true →
      let out := s.fld (RGE_LP_OUT l) 22 0
      s.memOn (s.pointAt out) = true → s.watchesOf out = [] →
      let fb := s.fld (RGE_LP_FB_SRC l) 22 0
      s.pointType fb = 6 →
      let y := s.pointWord fb 0
      let fq := bits (s.pointWord fb 2) 7 0
      let bad := fq % 4 = 1 ∨ fq % 4 = 2 ∨ fFinite y = false
      let frozen := bitAt fq 4
      let T := fOfRat (((s.fld (RGE_LP_CFG l) 26 21 + 1) * 2 ^ 24 : Nat) : Int) (128 * s.recWord c.ref c.seq 4)
      let ffv := fun (v : Nat) => fMul (reg RGE_LP_KFF) (if s.fld (RGE_LP_CFG l) 12 11 = 2 then v else 0)
      let init := fun (u v : Nat) => fSub (fSub u (fMul (reg RGE_LP_KP) (fSub y y))) (ffv v)
      let test := fq / 4 % 2 * 4
      let good := if fq % 4 = 3 then 3 else 0
      let cyc := fun (u qual : Nat) (rs : List Nat) (t : State) =>
        PointPut out u qual 6 q.owner (s.time.sec / 2 ^ 32 * 2 ^ 32 + s.recWord c.ref c.seq 3)
          (s.recWord c.ref c.seq 2 % 2 ^ 30) 0 s t ∧
        t.rd (RGE_LP_Y l) = y ∧ t.rd (RGE_LP_U l) = u ∧ t.rd (RGE_LP_CYCLES l) = incSat 32 (reg RGE_LP_CYCLES) ∧
        RegsBut ([PTS_WRITES, RGE_LP_Y l, RGE_LP_U l, RGE_LP_CYCLES l, RGE_LP_STAT l] ++ rs) s t ∧ Noted s t ∧
        (∀ k, k ≠ l.val → t.loopOf k = s.loopOf k) ∧
        t = { s with regs := t.regs, mem := t.mem, poison := t.poison, slices := t.slices, red := t.red,
                     rgeQ := s.rgeQ.put l rest, loops := t.loops }
      let p := profiled (reg RGE_LP_TARGET) (reg RGE_LP_VMAX) (reg RGE_LP_AMAX) (reg RGE_LP_JMAX) T
        (reg RGE_LP_SP) (reg RGE_LP_RATE) q.acc
      let e := fSub (p.1 % 2 ^ 32) y
      let al := reg RGE_LP_DALPHA
      let d := fAdd (fMul al q.d) (fMul (fSub fOne al) (fDiv (fMul (fNeg (reg RGE_LP_KD)) (fSub y q.yPrev)) T))
      let i := fAdd (reg RGE_LP_INTEG) (fMul (fMul (reg RGE_LP_KI) T) e)
      let ur := fAdd (fAdd (fAdd (fMul (reg RGE_LP_KP) e) i) d) (ffv (p.2.1 % 2 ^ 32))
      let hi := fLt (reg RGE_LP_UMAX) ur
      let lo := fLt ur (reg RGE_LP_UMIN)
      let man := reg RGE_LP_UMAN
      let lim := if fLt (reg RGE_LP_UMAX) man then reg RGE_LP_UMAX else if fLt man (reg RGE_LP_UMIN) then reg RGE_LP_UMIN else man
      let gap := fSub (reg RGE_LP_UFB) (reg RGE_LP_U)
      let pace := fMul (reg RGE_LP_FBRATE) T
      let down := if fIsZero (reg RGE_LP_FBRATE) || fLe (fAbs gap) pace then reg RGE_LP_UFB
        else fAdd (reg RGE_LP_U) (if fSign gap then fNeg pace else pace) % 2 ^ 32
      (¬bad → frozen = false → st = 2 → q.renew = false → s.fld (RGE_LP_PL_N l) 7 0 = 0 →
        Answers (.loopCycle l false false) s fun t =>
        cyc (if hi then reg RGE_LP_UMAX else if lo then reg RGE_LP_UMIN else ur % 2 ^ 32) (test + good)
          [RGE_LP_SP l, RGE_LP_RATE l, RGE_LP_INTEG l, RGE_LP_SATCYC l, RGE_LP_EVT l] t ∧
        t.rd (RGE_LP_SP l) = p.1 % 2 ^ 32 ∧ t.rd (RGE_LP_RATE l) = p.2.1 % 2 ^ 32 ∧ (t.loopOf l).acc = p.2.2 ∧
        t.rd (RGE_LP_INTEG l) = (if hi || lo then reg RGE_LP_INTEG else i % 2 ^ 32) ∧ t.loopState l = 2 ∧
        t.rd (RGE_LP_SATCYC l) = (if hi || lo then incSat 32 (reg RGE_LP_SATCYC) else reg RGE_LP_SATCYC) ∧
        t.rd (RGE_LP_EVT l) = (if hi || lo then raised (reg RGE_LP_EVT) 5 else reg RGE_LP_EVT) ∧
        t.bit (RGE_LP_STAT l) 3 = (hi || lo) ∧ t.bit (RGE_LP_STAT l) 4 = false ∧ (t.loopOf l).d = d ∧ (t.loopOf l).yPrev = y) ∧
      (¬bad → frozen = false → st = 2 → q.renew = true → q.toY = true → Answers (.loopCycle l false false) s fun t =>
        cyc (reg RGE_LP_U) (test + good) [RGE_LP_SP l, RGE_LP_RATE l, RGE_LP_INTEG l, RGE_LP_RESID l] t ∧
        t.rd (RGE_LP_SP l) = y ∧ t.rd (RGE_LP_RATE l) = 0 ∧ t.rd (RGE_LP_INTEG l) = init (reg RGE_LP_U) 0 % 2 ^ 32 ∧
        t.loopState l = 2 ∧ (t.loopOf l).d = 0 ∧ (t.loopOf l).yPrev = y ∧ (t.loopOf l).yHat = y ∧ (t.loopOf l).renew = false) ∧
      (bad ∨ frozen = true → st = 2 → Answers (.loopCycle l false false) s fun t =>
        cyc (reg RGE_LP_U) (test + 3) [RGE_LP_EVT l, RGE_LP_HOLDS l] t ∧ t.loopState l = 3 ∧ t.bit (RGE_LP_STAT l) 4 = true ∧
        t.rd (RGE_LP_EVT l) = raised (raised (reg RGE_LP_EVT) (if bad then 1 else 2)) 0 ∧
        t.rd (RGE_LP_HOLDS l) = incSat 32 (reg RGE_LP_HOLDS) ∧ (t.loopOf l).heldFor = 1) ∧
      (¬bad → frozen = false → st = 1 → s.bit (RGE_LP_CFG l) 3 = true → Answers (.loopCycle l false false) s fun t =>
        cyc lim test [RGE_LP_SP l, RGE_LP_RATE l, RGE_LP_INTEG l, RGE_LP_SATCYC l, RGE_LP_EVT l] t ∧
        t.rd (RGE_LP_SP l) = y ∧ t.rd (RGE_LP_RATE l) = 0 ∧ t.rd (RGE_LP_INTEG l) = init lim 0 % 2 ^ 32 ∧
        t.loopState l = 1 ∧ (t.loopOf l).yPrev = y) ∧
      (bad → st = 4 → Answers (.loopCycle l false false) s fun t =>
        cyc down (test + 3 + 64) [] t ∧ t.loopState l = 4 ∧ t.bit (RGE_LP_STAT l) 4 = true)) ∧
    (∀ c rest, s.rgeQ.at' l = c :: rest → s.priorsOf 15 l = [] → s.fld (RGE_LP_CFG l) 14 13 = 0 →
      s.ld (s.area PSU_MARK_BASE 10 + c.ref * 64 + 4) 4 ≠ c.seq % 2 ^ 32 → s.clk < c.at_ + 15 * tUs → ∀ crc ff,
      Answers (.loopCycle l crc ff) s same) ∧
    (s.rgeQ.at' l = [] ∨ s.power.cx = false → ∀ crc ff, Answers (.loopCycle l crc ff) s same) ∧
    (st = 3 → s.bit (RGE_LP_CFG l) 8 = true → max (s.fld (RGE_LP_TIMES l) 15 0) 1 ≤ q.heldFor →
      Answers (.fallbackDelayExpiry l) s fun t => moved 4 (reg RGE_LP_EVT) t ∧
        RegsBut [RGE_LP_STAT l, RGE_LP_EVT l] s t ∧ t = { s with regs := t.regs }) ∧
    (st ≠ 3 ∨ s.bit (RGE_LP_CFG l) 8 = false ∨ q.heldFor < max (s.fld (RGE_LP_TIMES l) 15 0) 1 →
      Answers (.fallbackDelayExpiry l) s same) ∧
    (st = 3 ∨ st = 4 → s.bit (RGE_LP_CFG l) 9 = true → max (s.fld (RGE_LP_TIMES l) 23 16) 1 ≤ q.good →
      Answers (.autoResume l) s fun t => moved 2 (raised (reg RGE_LP_EVT) 4) t ∧
        RegsBut [RGE_LP_STAT l, RGE_LP_EVT l] s t ∧
        t = { s with regs := t.regs, loops := s.loops.put l { q with renew := true, toY := true, impl := 0, good := 0 } }) ∧
    (st ≠ 3 ∧ st ≠ 4 ∨ s.bit (RGE_LP_CFG l) 9 = false ∨ q.good < max (s.fld (RGE_LP_TIMES l) 23 16) 1 →
      Answers (.autoResume l) s same) ∧
    (may → st = 2 ∨ st = 3 ∨ st = 4 → Answers (.loopOpen w l) s fun t =>
      moved 1 (reg RGE_LP_EVT) t ∧ t.rd (RGE_LP_UMAN l) = reg RGE_LP_U ∧
      Wrote [RGE_LP_STAT l, RGE_LP_EVT l, RGE_LP_UMAN l] s t) ∧
    (may → st = 1 ∨ st = 3 ∨ st = 4 → q.lastOk = true → Answers (.loopClose w l) s fun t =>
      moved 2 (if st = 1 then reg RGE_LP_EVT else raised (reg RGE_LP_EVT) 4) t ∧ RegsBut [RGE_LP_STAT l, RGE_LP_EVT l] s t ∧
      t = { s with regs := t.regs, reply := t.reply, loops := s.loops.put l { q with
        renew := true, toY := decide (st ≠ 1) || s.bit (RGE_LP_CFG l) 3, impl := 0, good := 0 } }) ∧
    (may → 1 ≤ st → st ≤ 4 → Answers (.stopRamp w l) s fun t =>
      t.rd (RGE_LP_TARGET l) = reg RGE_LP_SP ∧ Wrote [RGE_LP_TARGET l] s t) ∧
    (may → ∀ x ∈ [(Instr.loopOpen w l, st == 0 || st == 1 || st == 5), (.stopRamp w l, st == 0 || st == 5),
        (.loopClose w l, st == 0 || st == 2 || st == 5 || !q.lastOk)], x.2 = true → Answers x.1 s fun t =>
      t.rd (RGE_LP_EVT l) = raised (reg RGE_LP_EVT) 6 ∧ Wrote [RGE_LP_EVT l] s t) ∧
    (s.power.cx = false → Answers .rgeWatchdog s same) ∧
    (s.power.cx = true → s.led.staged.length < 1024 → s.faults.at' (8 * 15 + 5) = [] → Answers .rgeWatchdog s fun t =>
      (∀ k, k < 32 → t.loopState k = if s.bit (RGE_LP_CFG k) 31 = true ∧ s.loopState k ≠ 0 then 5 else s.loopState k) ∧
      t.rd RGE_CHK_STAT = raised (s.rd RGE_CHK_STAT) 1 ∧ Recorded 3 15 s t ∧
      RegsBut (RGE_CHK_STAT :: ((List.range 32).map RGE_LP_STAT ++ (List.range 32).map RGE_LP_EVT)) s t ∧
      t = { s with regs := t.regs, led := t.led, faults := s.faults.put (8 * 15 + 5) [s.clk] })

/-- Two stretches of memory do not overlap. -/
def Sys2Proof.Claims.Apart (a n b m : Nat) : Prop := a + n ≤ b ∨ b + m ≤ a

/-- R393–R397, R399–R402, R404, R406, R407: an image that is in order is loaded; the commands move the program's state and are
flagged in another one; a scan of a program of one instance reads its input, evaluates the block (the BOOL blocks and TON are
stated), keeps its state and writes its output where its owner may; a trigger while a scan runs is dropped; a batch takes effect at
once or at the next scan; an overrun and a HOLD of 60 s stop the program; a force is entered or refused, with a record; a watchdog
puts programs in FAULT (those in STOP too, the model's reading of R400 and R406, log entry 152). Programs that stop have no outputs here. -/
def Obligations.Programs : Prop :=
  ∀ (w : Who) (p : Fin 16) (s : State), s.Canonical →
    let st := s.pgState p
    let sr := s.rd (LGE_PG_STAT p)
    let er := s.rd (LGE_PG_EVT p)
    let may := Reaches w 16 s ∧ s.may w 11 p .use = true
    let regs := [LGE_PG_STAT p, LGE_PG_EVT p]
    let moved := fun (v : Nat) (t : State) =>
      t.rd (LGE_PG_STAT p) = setBits sr 2 0 v ∧ t.rd (LGE_PG_EVT p) = raised er 0 ∧ RegsBut regs s t
    let a := s.base (LGE_PG_IMG_LO p) 16
    let same := fun (t : State) => t = s
    (may → st = 0 → s.prog p = none →
      (s.imageCause p a = 0 → Answers (.programLoad w p) s fun t =>
        t.pgState p = 1 ∧ t.fld (LGE_PG_STAT p) 19 16 = 0 ∧ t.bit (LGE_PG_STAT p) 3 = s.bit (LGE_PG_CFG p) 4 ∧
        t.rd (LGE_PG_EVT p) = raised er 0 ∧ t.rd (LGE_PG_SCAN_MAX p) = 0 ∧
        RegsBut (LGE_PG_SCAN_MAX p :: regs) s t ∧
        t = { s with regs := t.regs, reply := t.reply, lge := s.lge.put p (some (s.readImage a)) }) ∧
      (s.ld a 4 ≠ 0x4C474350 ∨ bits (s.ld (a + 4) 4) 15 0 ≠ 1 → Answers (.programLoad w p) s fun t =>
        t.rd (LGE_PG_STAT p) = setBits sr 19 16 1 ∧ t.rd (LGE_PG_EVT p) = raised er 1 ∧ Wrote regs s t) ∧
      (s.imageCause p a ≠ 0 → Answers (.programLoad w p) s fun t =>
        t.rd (LGE_PG_STAT p) = setBits sr 19 16 (s.imageCause p a) ∧ t.rd (LGE_PG_EVT p) = raised er 1 ∧ Wrote regs s t)) ∧
    (may → s.scanning p = false → ∀ x ∈ [(Instr.startCold w p, st != 1), (.startWarm w p, st != 1), (.programLoad w p, st != 0),
        (.programStop w p, st != 2 && st != 3), (.programHold w p, st != 2 || s.bit (LGE_PG_CFG p) 4),
        (.programResume w p, st != 3), (.programUnload w p, st != 1 && st != 4)], x.2 = true → Answers x.1 s fun t =>
      t.rd (LGE_PG_EVT p) = raised er 2 ∧ Wrote [LGE_PG_EVT p] s t) ∧
    (∀ g, s.prog p = some g →
      (may → s.scanning p = false →
        (st = 1 → Answers (.startCold w p) s fun t => moved 2 t ∧
          t = { s with regs := t.regs, reply := t.reply, lge := s.lge.put p (some { g with restart := 1, after := 0, afterBy := [], ovr := false }) }) ∧
        (st = 1 → g.ran = true → Answers (.startWarm w p) s fun t => moved 2 t ∧
          t = { s with regs := t.regs, reply := t.reply, lge := s.lge.put p (some { g with restart := 2, after := 0, afterBy := [], ovr := false }) }) ∧
        (st = 1 → g.ran = false → Answers (.startWarm w p) s fun t =>
          t.rd (LGE_PG_STAT p) = setBits sr 2 0 2 ∧ t.rd (LGE_PG_EVT p) = raised (raised er 10) 0 ∧ RegsBut regs s t ∧
          t = { s with regs := t.regs, reply := t.reply,
                       lge := s.lge.put p (some { g with restart := 1, after := 0, afterBy := [], ovr := false }) }) ∧
        (st = 2 ∨ st = 3 → (∀ v ∈ g.vars, v.cls ≠ 3) → Answers (.programStop w p) s fun t => moved 1 t ∧
          t = { s with regs := t.regs, reply := t.reply }) ∧
        (st = 2 → s.bit (LGE_PG_CFG p) 4 = false → Answers (.programHold w p) s fun t => moved 3 t ∧
          t = { s with regs := t.regs, reply := t.reply, lge := s.lge.put p (some { g with holdAt := s.clk }) }) ∧
        (st = 3 → Answers (.programResume w p) s fun t => moved 2 t ∧
          t = { s with regs := t.regs, reply := t.reply, lge := s.lge.put p (some { g with lastUs := none }) }) ∧
        (st = 1 ∨ st = 4 → Answers (.programUnload w p) s fun t =>
          t.rd (LGE_PG_STAT p) = setBits (lowered sr 4) 2 0 0 ∧ t.rd (LGE_PG_EVT p) = raised er 0 ∧ RegsBut regs s t ∧
          t = { s with regs := t.regs, reply := t.reply, lge := s.lge.put p none }) ∧
        (let v := s.fld (LGE_PG_OLC_TGT p 0) 13 0
         let x := s.rd (LGE_PG_OLC_VAL p 0)
         (∀ y, g.vars[v]? = some y → y.cls ≤ 1 → y.chg = true → y.ty = 1 → s.power.mem = true → s.varAt p v + 8 ≤ smBase →
          (st = 1 ∨ st = 3 → Answers (.apply w p 1) s fun t =>
            t.ld (s.varAt p v) 4 = x ∧ (∀ b, b < s.varAt p v ∨ s.varAt p v + 4 ≤ b → t.rdByte b = s.rdByte b) ∧
            t.rd (LGE_PG_EVT p) = raised er 6 ∧ t.rd (LGE_PG_OLC p) = incSat 32 (s.rd (LGE_PG_OLC p)) ∧
            RegsBut [LGE_PG_EVT p, LGE_PG_OLC p] s t ∧ Noted s t ∧
            t = { s with regs := t.regs, reply := t.reply, mem := t.mem, poison := t.poison, slices := t.slices, red := t.red }) ∧
          (st = 2 → g.batch = none → g.batchBy = [] → Answers (.apply w p 1) s fun t =>
            t = { s with reply := t.reply, lge := s.lge.put p (some { g with batch := some [(v, x)], batchBy := [w.slice.val] }) })) ∧
         (∀ n : BitVec 5, st ≠ 4 → n = 0 ∨ 16 < n.toNat ∨ 0 < n.toNat ∧ g.vars.length ≤ v ∨
            0 < n.toNat ∧ (∃ y, g.vars[v]? = some y ∧ (2 ≤ y.cls ∨ y.chg = false)) ∨
            1 < n.toNat ∧ s.fld (LGE_PG_OLC_TGT p 1) 13 0 = v → Answers (.apply w p n) s fun t =>
          t.rd (LGE_PG_EVT p) = raised er 7 ∧ Wrote [LGE_PG_EVT p] s t))) ∧
      (may → s.scanning p = true → g.ovr = false → s.clk < g.endAt → st = 2 →
        Answers (.programStop w p) s (fun t =>
          t = { s with reply := t.reply, lge := s.lge.put p (some { g with after := 1, afterBy := w.slice.val :: g.afterBy }) }) ∧
        (s.bit (LGE_PG_CFG p) 4 = false → g.after = 0 → Answers (.programHold w p) s fun t =>
          t = { s with reply := t.reply, lge := s.lge.put p (some { g with after := 2, afterBy := w.slice.val :: g.afterBy }) })) ∧
      (∀ dur upto i t0 va vo, s.power.cx = true → s.power.mem = true → s.bit LGE_CTL 0 = true → s.bit (TIME_TRIG_STAT p) 0 = true →
        st = 2 → s.scanning p = false → dur ≤ s.ovrLimit p → g.insts = [i] → i.o1 ≠ i.a → g.vars[i.a]? = some va →
        g.vars[i.o1]? = some vo → va.ty = 0 → vo.ty = 0 → (∀ e ∈ g.vars.zipIdx, e.1.cls < 2 ∨ e.1.cls = 2 ∧ e.2 = i.a ∨
          e.1.cls = 3 ∧ e.2 = i.o1) → g.restart = 0 → g.lastUs = some t0 → g.batch = none → g.batchBy = [] → g.forces = [] →
        s.forceEntries p = [] → 1 ≤ i.ty → i.ty ≤ 9 → (i.ty = 9 → i.o2 = 0xFFFF) →
        let sa := s.varAt p i.a
        let so := s.varAt p i.o1
        let sx := s.instAt g.first
        let inW := g.ins.getD va.map 0
        let inP := bits inW 22 0
        let out := bits (g.outs.getD vo.map (0, 0)).1 22 0
        let isIn := va.cls = 2
        let isOut := vo.cls = 3
        sa + 8 ≤ smBase → so + 8 ≤ smBase → sx + 16 ≤ smBase → Apart sa 8 so 8 → Apart sa 8 sx 16 → Apart so 8 sx 16 →
        Apart (s.varAt p i.b) 8 sa 8 → Apart (s.varAt p i.b) 8 sx 16 → s.pointAt out + 32 ≤ smBase →
        Apart (s.pointAt out) 32 so 8 → Apart (s.pointAt out) 32 sx 16 → Apart (s.pointAt out) 32 sa 8 → out ≠ inP →
        (isIn → bitAt inW 23 = false ∧ [1, 2, 8].contains (s.pointType inP) = true) →
        (isOut → s.bit PTS_CTL 0 = true ∧ s.watchesOf out = [] ∧ s.maySlice (s.pgOwner p) 4 out .wr = true ∧ g.written = []) →
        let b := s.varVal p i.b
        let x := if isIn then b2n (bitAt (s.pointVal inP) (bits inW 29 24)) else (s.varVal p i.a).1
        let xq := if isIn then bits (s.pointWord inP 2) 7 0 else (s.varVal p i.a).2
        let on := bitAt x 0
        let bon := bitAt b.1 0
        let flags := s.ld (sx + 8) 4
        let prev := bitAt flags 1
        let memo := bitAt flags 3
        let pt := (signed 32 b.1).toNat * 1000
        let el := if on then (if prev then min (s.ld sx 4 + s.ld (sx + 12) 4 * 2 ^ 32 + (s.mono / 125 - t0)) (2 ^ 63 - 1) else 0) else 0
        let r := [on && bon, on || bon, on != bon, !on, on || (memo && !bon), !bon && (on || memo), on && !prev, !on && prev,
          on && decide (pt ≤ el)].getD (i.ty - 1) false
        xq = 0 → ([4, 7, 8].contains i.ty = false → b.2 = 0) → (i.ty = 9 → 0 ≤ signed 32 b.1) →
        Answers (.scan p dur upto []) s fun t =>
          t.varVal p i.o1 = (b2n r, 0) ∧ (isIn → t.varVal p i.a = (x, xq)) ∧
          (i.ty = 5 ∨ i.ty = 6 → bitAt (t.ld (sx + 8) 4) 3 = r) ∧ (7 ≤ i.ty → bitAt (t.ld (sx + 8) 4) 1 = on) ∧
          (i.ty = 9 → t.ld sx 4 + t.ld (sx + 12) 4 * 2 ^ 32 = el ∧ bitAt (t.ld (sx + 8) 4) 0 = r) ∧
          (isOut → t.pointWord out 0 = b2n r ∧ t.pointWord out 2 = 1 * 2 ^ 8 + s.pgOwner p * 2 ^ 16 ∧
            t.pointWord out 3 = (s.trig.at' p).last % 10 ^ 9 ∧ t.pointWord out 4 = (s.trig.at' p).last / 10 ^ 9 % 2 ^ 32 ∧
            t.pointWord out 6 = (s.rd (LGE_PG_SCANS p) + 1) % 2 ^ 32 ∧
            t.pointWord out 7 = (s.pointWord out 7 + 1) % 2 ^ 31 + 2 ^ 31 ∧ t.rd PTS_WRITES = incSat 32 (s.rd PTS_WRITES)) ∧
          (¬isOut → t.rd PTS_WRITES = s.rd PTS_WRITES) ∧
          (∀ y, Apart y 1 so 8 → Apart y 1 sx 16 → isIn ∧ Apart y 1 sa 8 ∨ ¬isIn → isOut ∧ Apart y 1 (s.pointAt out) 32 ∨ ¬isOut →
            t.rdByte y = s.rdByte y) ∧
          t.rd (LGE_PG_STAT p) = raised sr 4 ∧ RegsBut [LGE_PG_STAT p, PTS_WRITES] s t ∧ Noted s t ∧
          t.prog p = some { g with lastUs := some (s.mono / 125), begun := s.clk, endAt := s.clk + (dur + 7) / 8,
                                   written := if isOut then g.written.put i.o1 (some (b2n r, 0)) else g.written, ovr := false } ∧
          t = { s with regs := t.regs, mem := t.mem, poison := t.poison, lge := t.lge, slices := t.slices, red := t.red }) ∧
      (∀ dur upto, s.power.cx = true → s.power.mem = true → s.bit LGE_CTL 0 = true → s.bit (TIME_TRIG_STAT p) 0 = true →
        st = 2 → s.scanning p = true → g.ovr = true ∨ s.clk < g.endAt → Answers (.scan p dur upto []) s fun t =>
          t.rd (LGE_PG_SKIP p) = incSat 32 (s.rd (LGE_PG_SKIP p)) ∧ t.rd (LGE_PG_EVT p) = raised er 5 ∧
          RegsBut [LGE_PG_SKIP p, LGE_PG_EVT p] s t ∧ t = { s with regs := t.regs }) ∧
      (s.scanning p = true → g.ovr = true → g.begun + s.ovrLimit p / 8 ≤ s.clk → st = 2 → (∀ v ∈ g.vars, v.cls ≠ 3) →
        s.led.staged.length < 1024 → Answers (.scanOverrun p) s fun t =>
          t.rd (LGE_PG_STAT p) = setBits (lowered sr 4) 2 0 1 ∧ t.rd (LGE_PG_EVT p) = raised (raised er 0) 3 ∧
          t.rd (LGE_PG_OVRUN p) = incSat 32 (s.rd (LGE_PG_OVRUN p)) ∧ Recorded 3 16 s t ∧ RegsBut (LGE_PG_OVRUN p :: regs) s t ∧
          t = { s with regs := t.regs, led := t.led,
                       lge := s.lge.put p (some { g with ovr := false, after := 0, afterBy := [] }) }) ∧
      (s.scanning p = false ∨ g.ovr = false ∨ s.clk < g.begun + s.ovrLimit p / 8 ∨ st ≠ 2 → Answers (.scanOverrun p) s same) ∧
      (st = 3 → g.holdAt + 60 * tSec ≤ s.clk → (∀ v ∈ g.vars, v.cls ≠ 3) → Answers (.holdTimeout p) s fun t =>
        t.rd (LGE_PG_STAT p) = setBits sr 2 0 1 ∧ t.rd (LGE_PG_EVT p) = raised (raised er 0) 4 ∧ RegsBut regs s t ∧
        t = { s with regs := t.regs }) ∧
      (st ≠ 3 ∨ s.clk < g.holdAt + 60 * tSec → Answers (.holdTimeout p) s same) ∧
      (∀ (f : Fin 64) (v : Word), may →
        let var := bits v.toNat 13 0
        let taken := ∃ j, j < 64 ∧ j ≠ f.val ∧ s.bit (LGE_FRC_VAR p j) 31 = true ∧ s.fld (LGE_FRC_VAR p j) 13 0 = var
        (∀ x, bitAt v.toNat 31 = true → g.vars[var]? = some x → x.cls = 2 ∨ x.cls = 3 → ¬taken → s.led.staged.length < 1024 →
          Answers (.forceWrite w p f false v) s fun t =>
          t.rd (LGE_FRC_VAR p f) = var + 2 ^ 31 ∧ t.fld (LGE_PG_STAT p) 14 8 = (t.forceEntries p).length ∧ Recorded 3 16 s t ∧
          RegsBut [LGE_FRC_VAR p f, LGE_PG_STAT p] s t ∧
          t = { s with regs := t.regs, reply := t.reply, led := t.led }) ∧
        (bitAt v.toNat 31 = true → taken ∨ (∃ x, g.vars[var]? = some x ∧ x.cls < 2) ∨ g.vars.length ≤ var →
          Answers (.forceWrite w p f false v) s fun t => t.rd (LGE_PG_EVT p) = raised er 8 ∧ Wrote [LGE_PG_EVT p] s t) ∧
        (bitAt v.toNat 31 = false → s.bit (LGE_FRC_VAR p f) 31 = true → s.led.staged.length < 1024 →
          Answers (.forceWrite w p f false v) s fun t =>
          t.rd (LGE_FRC_VAR p f) = var ∧ t.fld (LGE_PG_STAT p) 14 8 = (t.forceEntries p).length ∧ Recorded 3 16 s t ∧
          RegsBut [LGE_FRC_VAR p f, LGE_PG_STAT p] s t ∧ t = { s with regs := t.regs, reply := t.reply, led := t.led }))) ∧
    (∀ (f : Fin 64) (v : Word), may → Answers (.forceWrite w p f true v) s fun t =>
      t.rd (LGE_FRC_VAL p f) = v.toNat ∧ Wrote [LGE_FRC_VAL p f] s t) ∧
    (s.power.cx = false → Answers .lgeWatchdog s same) ∧
    (s.power.cx = true → (∀ k, k < 16 → ∀ v ∈ (s.prog k).toList.flatMap (·.vars), v.cls ≠ 3) → s.led.staged.length < 1024 →
      s.faults.at' (8 * 16 + 5) = [] → Answers .lgeWatchdog s fun t =>
        (∀ k, k < 16 → t.pgState k = if s.pgState k = 1 ∨ s.pgState k = 2 ∨ s.pgState k = 3 then 4 else s.pgState k) ∧
        t.rd LGE_CHK_STAT = raised (s.rd LGE_CHK_STAT) 1 ∧ Recorded 3 16 s t ∧
        RegsBut (LGE_CHK_STAT :: ((List.range 16).map LGE_PG_STAT ++ (List.range 16).map LGE_PG_EVT)) s t ∧
        t = { s with regs := t.regs, led := t.led, faults := s.faults.put (8 * 16 + 5) [s.clk] })

/-- A controller takes part in the bus, error-active, not as a listener, its counters far below the warning limit. -/
def Sys2Proof.Claims.CanQuiet (o : Nat) (s : State) : Prop :=
  s.power.nx = true ∧ s.canState o = 2 ∧ s.canListens o = false ∧ s.canTec o < 80 ∧ s.canRec o < 80

/-- The value of `CAN_ECNT` with two counters below 128. -/
def Sys2Proof.Claims.ecnt (tec rec_ : Nat) : Nat := tec + rec_ * 2 ^ 8

/-- The registers of slot `c` of the completions, and their write index. -/
def Sys2Proof.Claims.txcRegs (o c : Nat) : List Nat := CAN_TXC_WR o :: (List.range 4).map (fun k => CAN_TXC o c + 4 * k)

/-- The completion of entry `e` in the next slot (R420). -/
def Sys2Proof.Claims.Completed (o : Nat) (e : CanTx) (status ts : Nat) (s t : State) : Prop :=
  let c := s.fld (CAN_TXC_WR o) 4 0
  let n := (s.canOf o).cseq + 1
  t.rd (CAN_TXC o c) = bits e.ctrl 23 8 + status * 2 ^ 16 ∧ t.rd (CAN_TXC o c + 4) = ts % 2 ^ 32 ∧
    t.rd (CAN_TXC o c + 8) = e.id % 2 ^ 32 ∧ t.rd (CAN_TXC o c + 12) = n % 2 ^ 32 ∧
    t.rd (CAN_TXC_WR o) = setBits (s.rd (CAN_TXC_WR o)) 4 0 ((c + 1) % 32) ∧ (t.canOf o).cseq = n

/-- The slot at `a` holds the frame under filter index `f`, its timestamp and the next number (R413). -/
def Sys2Proof.Claims.Slot (a : Nat) (x : CanFrame) (f sof : Nat) (lost : Bool) (s t : State) : Prop :=
  let len := if x.rtr then 0 else dlcLen x.fdf x.dlc
  t.rd a = x.id.toNat + b2n x.ide * 2 ^ 29 + b2n x.rtr * 2 ^ 30 + 2 ^ 31 ∧
    t.rd (a + 4) = x.dlc + len * 2 ^ 4 + b2n x.fdf * 2 ^ 11 + b2n x.brs * 2 ^ 12 + b2n x.esi * 2 ^ 13 + b2n lost * 2 ^ 14 +
      f * 2 ^ 16 ∧
    t.rd (a + 8) = sof ∧ t.rd (a + 12) = (s.rd (a + 12) + 1) % 2 ^ 32 ∧
    ∀ k, k < 16 → t.rd (a + 16 + 4 * k) = wordLE (padTo 64 (x.data.take len)) (4 * k)

/-- The registers of a slot. -/
def Sys2Proof.Claims.slotRegs (a : Nat) : List Nat := (List.range 20).map (fun k => a + 4 * k)

/-- R409, R412–R417, R419, R420, R423: a good frame goes to the destination its first filter names, or nowhere, and lowers the
receive counter; a buffer not yet read, a full FIFO and a full trump buffer lose it; one with an error raises the counter and
leaves its code; an FD frame while FD is off is a protocol exception; a pop takes the oldest entry; a frame enters the queue when it is
not full and its format is allowed; a frame sent, offered once, or withdrawn leaves the queue with its completion; one that
failed stays. A controller that is off takes and sends nothing. -/
def Obligations.CanFrames : Prop :=
  ∀ (w : Who) (o : Fin 2) (s : State), s.Canonical →
    let q := (s.canOf o).queue
    let fifo := s.rd (CAN_FIFO_STAT o)
    let trump := s.rd (CAN_TRUMP_STAT o)
    let stored := incSat 32 (s.rd (CAN_RX_FRAMES o))
    let lost := incSat 32 (s.rd (CAN_RX_LOST o))
    let none_ := incSat 32 (s.rd (CAN_RX_NOMATCH o))
    let ev := s.rd (CAN_EVT o)
    (∀ (x : CanFrame) (sof : Word), CanQuiet o s →
      let hit := fun (f : Nat) => s.bit (CAN_FLT_ID o f) 31 = true ∧
        (x.id.toNat ^^^ s.fld (CAN_FLT_ID o f) 28 0) &&& s.fld (CAN_FLT_MASK o f) 28 0 = 0 ∧ x.ide = s.bit (CAN_FLT_ID o f) 29 ∧
        (x.rtr = false ∨ s.bit (CAN_FLT_ID o f) 30 = true) ∧ (s.bit (CAN_FLT_ACT o f) 8 = true → x.fdf = true) ∧
        (s.bit (CAN_FLT_ACT o f) 9 = true → x.fdf = false)
      let got := fun (P : State → Prop) => Answers (.canFrameReceive o x sof 0 false false) s fun t =>
        t.rd (CAN_ECNT o) = ecnt (s.canTec o) (s.canRec o - 1) ∧ P t
      let only := fun (rs : List Nat) (t : State) => RegsBut (CAN_ECNT o :: rs) s t ∧ t = { s with regs := t.regs }
      x.fdf = false ∨ s.bit (CAN_CTL o) 1 = true →
      (∀ f, f < 128 → hit f → (∀ j, j < f → ¬hit j) →
        let act := s.rd (CAN_FLT_ACT o f)
        let b := bits act 6 0
        let a := CAN_RXB o b 0
        (bitAt act 7 = false → b < 64 →
          (s.bit a 31 = false → got fun t => Slot a x f sof.toNat false s t ∧ t.rd (CAN_RX_FRAMES o) = stored ∧
            only (CAN_RX_FRAMES o :: slotRegs a) t) ∧
          (s.bit a 31 = true → s.bit (CAN_RXB_CFG o b) 0 = true → got fun t => Slot a x f sof.toNat true s t ∧
            t.rd (CAN_RX_FRAMES o) = stored ∧ t.rd (CAN_RX_LOST o) = lost ∧
            only (CAN_RX_FRAMES o :: CAN_RX_LOST o :: slotRegs a) t) ∧
          (s.bit a 31 = true → s.bit (CAN_RXB_CFG o b) 0 = false → got fun t => t.rd (a + 4) = raised (s.rd (a + 4)) 14 ∧
            t.rd (CAN_RX_LOST o) = lost ∧ only [CAN_RX_LOST o, a + 4] t)) ∧
        (bitAt act 7 = false → b = 64 →
          (bits fifo 5 0 < 32 → got fun t => Slot (CAN_FIFO o ((bits fifo 12 8 + bits fifo 5 0) % 32) 0) x f sof.toNat false s t ∧
            t.rd (CAN_FIFO_STAT o) = setBits fifo 5 0 (bits fifo 5 0 + 1) ∧ t.rd (CAN_RX_FRAMES o) = stored ∧
            only ([CAN_FIFO_STAT o, CAN_RX_FRAMES o] ++ slotRegs (CAN_FIFO o ((bits fifo 12 8 + bits fifo 5 0) % 32) 0)) t) ∧
          (32 ≤ bits fifo 5 0 → got fun t => t.rd (CAN_EVT o) = raised ev 6 ∧ t.rd (CAN_RX_LOST o) = lost ∧
            only [CAN_EVT o, CAN_RX_LOST o] t)) ∧
        (bitAt act 7 = true →
          (bits trump 2 0 < 4 → Answers (.canFrameReceive o x sof 0 false false) s fun t =>
            let e := CAN_TRUMP o ((bits trump 9 8 + bits trump 2 0) % 4) 0
            Slot e x f sof.toNat false s t ∧ t.rd (CAN_ECNT o) = ecnt (s.canTec o) (s.canRec o - 1) ∧
            t.rd (CAN_TRUMP_STAT o) = setBits trump 2 0 (bits trump 2 0 + 1) ∧ t.rd (CAN_EVT o) = raised ev 5 ∧
            t.rd (CAN_TRUMP_MARK o) = (s.rd (CAN_TRUMP_MARK o) + 8) % 2 ^ 32 ∧ t.rd (CAN_RX_FRAMES o) = stored ∧
            t.out = s.out ++ [.irq (s.fld (CAN_IRQ o) 3 0) o] ∧
            RegsBut ([CAN_ECNT o, CAN_TRUMP_STAT o, CAN_EVT o, CAN_TRUMP_MARK o, CAN_RX_FRAMES o] ++ slotRegs e) s t ∧
            t = { s with regs := t.regs, out := t.out }) ∧
          (4 ≤ bits trump 2 0 → got fun t => t.rd (CAN_EVT o) = raised ev 7 ∧ t.rd (CAN_RX_LOST o) = lost ∧
            only [CAN_EVT o, CAN_RX_LOST o] t)) ∧
        (bitAt act 7 = false → b = 127 → got fun t => t.rd (CAN_RX_NOMATCH o) = none_ ∧ only [CAN_RX_NOMATCH o] t)) ∧
      ((∀ f, f < 128 → ¬hit f) → s.bit (CAN_CTL o) 7 = false → got fun t =>
        t.rd (CAN_RX_NOMATCH o) = none_ ∧ only [CAN_RX_NOMATCH o] t) ∧
      (∀ (err : Fin 7) (heavy : Bool), err.val ≠ 0 → Answers (.canFrameReceive o x sof err heavy false) s fun t =>
        t.rd (CAN_ECNT o) = ecnt (s.canTec o) (s.canRec o + if heavy then 8 else 1) ∧
        t.rd (CAN_STAT o) = setBits (s.rd (CAN_STAT o)) 6 4 err ∧
        t.rd (CAN_ERR_FRAMES o) = incSat 32 (s.rd (CAN_ERR_FRAMES o)) ∧
        RegsBut [CAN_ECNT o, CAN_STAT o, CAN_ERR_FRAMES o] s t ∧ t = { s with regs := t.regs })) ∧
    (∀ (x : CanFrame) (sof : Word) (err : Fin 7) (heavy : Bool), s.canOn o = true → s.bit (CAN_CTL o) 6 = true → x.fdf = true →
      s.bit (CAN_CTL o) 1 = false → Answers (.canFrameReceive o x sof err heavy false) s fun t =>
        t.rd (CAN_STAT o) = setBits (s.rd (CAN_STAT o)) 2 0 1 ∧ RegsBut [CAN_STAT o] s t ∧ t = { s with regs := t.regs }) ∧
    (∀ (x : CanFrame) (sof : Word) (err : Fin 7) (heavy res : Bool), s.canOn o = false →
      Answers (.canFrameReceive o x sof err heavy res) s fun t => t = s) ∧
    (∀ (ref : Bool) (sof : Word) (res : Fin 8) tdcv, s.canOn o = false ∨ s.canListens o = true ∨ ref = false ∧ q = [] ∨
      ref = true ∧ (s.canOf o).refDue = false → Answers (.canTxComplete o ref sof res tdcv) s fun t => t = s) ∧
    (Reaches w 17 s → s.may w 14 (canUnit o 64) .rd = true → Answers (.fifoPop w o) s fun t =>
      t.rd (CAN_FIFO_STAT o) = (if bits fifo 5 0 = 0 then fifo
        else setBits (setBits fifo 5 0 (bits fifo 5 0 - 1)) 12 8 ((bits fifo 12 8 + 1) % 32)) ∧ Wrote [CAN_FIFO_STAT o] s t) ∧
    (Reaches w 17 s → s.may w 14 (canUnit o 65) .rd = true → Answers (.trumpPop w o) s fun t =>
      t.rd (CAN_TRUMP_STAT o) = (if bits trump 2 0 = 0 then trump
        else setBits (setBits trump 2 0 (bits trump 2 0 - 1)) 9 8 ((bits trump 9 8 + 1) % 4)) ∧ Wrote [CAN_TRUMP_STAT o] s t) ∧
    (Reaches w 17 s → s.may w 14 (canUnit o 66) .use = true →
      let m := w.master.val
      let ctrl := s.rd (bank m (CAN_TX_CTRL o))
      let st := bank m (CAN_TXQ_STAT o)
      let fd := bitAt ctrl 4
      let bad := fd = true ∧ s.bit (CAN_CTL o) 1 = false ∨ bitAt ctrl 5 = true ∧ fd = false
      (q.length < 32 → ¬bad → Answers (.enqueue w o) s fun t =>
        let data := (List.range 16).flatMap (fun k => bytesLE 4 (s.rd (bank m (CAN_TX_DATA o k))))
        let e : CanTx := { id := s.fld (bank m (CAN_TX_ID o)) 29 0, ctrl := ctrl % 2 ^ 24,
                           data := data.take (dlcLen fd (bits ctrl 3 0)), slice := w.slice }
        t.rd st = setBits (s.rd st) 9 8 0 ∧
        t.rd (CAN_TXQ_STAT o) = setBits (s.rd (CAN_TXQ_STAT o)) 5 0 (q.length + 1) ∧ RegsBut [st, CAN_TXQ_STAT o] s t ∧
        t = { s with regs := t.regs, reply := t.reply, can := s.can.put o { s.canOf o with queue := q ++ [e] } }) ∧
      (32 ≤ q.length → Answers (.enqueue w o) s fun t => t.rd st = setBits (s.rd st) 9 8 1 ∧ Wrote [st] s t) ∧
      (q.length < 32 → bad → Answers (.enqueue w o) s fun t => t.rd st = setBits (s.rd st) 9 8 2 ∧ Wrote [st] s t) ∧
      (∀ e, q = [e] → s.canOn o = false → Answers (.withdraw w o false) s fun t =>
        Completed o e 2 0 s t ∧ (t.canOf o).queue = [] ∧
        t.rd (CAN_TXQ_STAT o) = setBits (setBits (s.rd (CAN_TXQ_STAT o)) 5 0 0) 6 6 0 ∧
        RegsBut (CAN_TXQ_STAT o :: txcRegs o (s.fld (CAN_TXC_WR o) 4 0)) s t ∧
        t = { s with regs := t.regs, reply := t.reply, can := t.can }) ∧
      (∀ e f, q = [e, f] → s.canOn o = true → Answers (.withdraw w o true) s fun t =>
        Completed o f 2 0 s t ∧ (t.canOf o).queue = [{ e with gone := 3 }] ∧
        t.rd (CAN_TXQ_STAT o) = setBits (setBits (s.rd (CAN_TXQ_STAT o)) 5 0 1) 6 6 1 ∧
        RegsBut (CAN_TXQ_STAT o :: txcRegs o (s.fld (CAN_TXC_WR o) 4 0)) s t ∧
        t = { s with regs := t.regs, reply := t.reply, can := t.can })) ∧
    (∀ e rest (sof : Word), CanQuiet o s → q = e :: rest →
      let txc := txcRegs o (s.fld (CAN_TXC_WR o) 4 0)
      (Answers (.canTxComplete o false sof 0 none) s fun t =>
        Completed o e 0 sof.toNat s t ∧ (t.canOf o).queue = rest ∧ t.out = s.out ++ [.can o e.id e.ctrl e.data] ∧
        t.rd (CAN_TX_FRAMES o) = incSat 32 (s.rd (CAN_TX_FRAMES o)) ∧
        t.rd (CAN_ECNT o) = ecnt (s.canTec o - 1) (s.canRec o) ∧ t.fld (CAN_TXQ_STAT o) 5 0 = rest.length % 64 ∧
        t.bit (CAN_TXQ_STAT o) 6 = false ∧ RegsBut ([CAN_TXQ_STAT o, CAN_TX_FRAMES o, CAN_ECNT o] ++ txc) s t ∧
        t = { s with regs := t.regs, out := t.out, can := t.can }) ∧
      (∀ (res : Fin 8), res.val ≠ 0 → res.val ≠ 7 →
        let bad := fun (rs : List Nat) (t : State) =>
          t.rd (CAN_ECNT o) = ecnt (s.canTec o + 8) (s.canRec o) ∧ t.rd (CAN_STAT o) = setBits (s.rd (CAN_STAT o)) 6 4 res ∧
          t.rd (CAN_ERR_FRAMES o) = incSat 32 (s.rd (CAN_ERR_FRAMES o)) ∧ t.bit (CAN_TXQ_STAT o) 6 = false ∧
          RegsBut ([CAN_ECNT o, CAN_STAT o, CAN_ERR_FRAMES o, CAN_TXQ_STAT o] ++ rs) s t
        (e.gone = 0 → bitAt e.ctrl 6 = false → Answers (.canTxComplete o false sof res none) s fun t =>
          bad [] t ∧ t.rd (CAN_TXQ_STAT o) = lowered (s.rd (CAN_TXQ_STAT o)) 6 ∧ t = { s with regs := t.regs }) ∧
        (e.gone = 0 → bitAt e.ctrl 6 = true → Answers (.canTxComplete o false sof res none) s fun t =>
          bad txc t ∧ Completed o e 1 0 s t ∧ (t.canOf o).queue = rest ∧ t = { s with regs := t.regs, can := t.can }) ∧
        (e.gone = 3 → Answers (.canTxComplete o false sof res none) s fun t =>
          bad txc t ∧ Completed o e 2 0 s t ∧ (t.canOf o).queue = rest ∧ t = { s with regs := t.regs, can := t.can })) ∧
      (e.gone = 0 → bitAt e.ctrl 6 = false → Answers (.canTxComplete o false sof 7 none) s fun t =>
        t.rd (CAN_TXQ_STAT o) = lowered (s.rd (CAN_TXQ_STAT o)) 6 ∧ RegsBut [CAN_TXQ_STAT o] s t ∧ t = { s with regs := t.regs }))

/-- R409, R421–R424: a controller that goes bus-off says so, with a record; it recovers, when it may, with its counters at
0, and after integration is error-active or error-passive as its counters say; a reference frame falls due once in each
period where it may be sent, and one that has not left is late; its frame carries the instant of the one before, or all ones,
and its sending notes the instant of its own start. Without its cause nothing changes. -/
def Obligations.CanStates : Prop :=
  ∀ (w : Who) (o : Fin 2) (s : State), s.Canonical →
    let c := s.canOf o
    let st := fun (v : Nat) => setBits (s.rd (CAN_STAT o)) 2 0 v
    let cfg := s.rd (CAN_REF_CFG o)
    let per := max (bits cfg 15 0) 1
    let k := s.wallNs / 10 ^ 6 / per * per + 1
    let same := fun (t : State) => t = s
    (s.canOn o = true → s.bit (CAN_CTL o) 8 = false → s.led.staged.length < 1024 → Answers (.busOff o) s fun t =>
      t.rd (CAN_STAT o) = st 4 ∧ t.rd (CAN_EVT o) = raised (s.rd (CAN_EVT o)) 4 ∧
      t.rd (CAN_BUSOFF o) = incSat 32 (s.rd (CAN_BUSOFF o)) ∧ t.rd (CAN_TXQ_STAT o) = lowered (s.rd (CAN_TXQ_STAT o)) 6 ∧
      Recorded 5 17 s t ∧ RegsBut [CAN_STAT o, CAN_EVT o, CAN_BUSOFF o, CAN_TXQ_STAT o] s t ∧
      t = { s with regs := t.regs, led := t.led, can := s.can.put o { c with
        refDue := false, refLast := none, recover := false } }) ∧
    (∀ e, s.canOn o = true → s.bit (CAN_CTL o) 8 = true → c.queue = [e] → s.led.staged.length < 1024 →
      Answers (.busOff o) s fun t => t.canState o = 4 ∧ Completed o e 3 0 s t ∧ (t.canOf o).queue = [] ∧ Recorded 5 17 s t ∧
        RegsBut ([CAN_STAT o, CAN_EVT o, CAN_BUSOFF o, CAN_TXQ_STAT o] ++ txcRegs o (s.fld (CAN_TXC_WR o) 4 0)) s t ∧
        t = { s with regs := t.regs, led := t.led, can := t.can }) ∧
    (s.canOn o = false → Answers (.busOff o) s same) ∧
    (s.power.nx = true → s.canState o = 4 → s.bit (CAN_CTL o) 5 = true ∨ c.recover = true →
      Answers (.busOffRecovery o) s fun t =>
        t.rd (CAN_ECNT o) = 0 ∧ t.rd (CAN_STAT o) = st 1 ∧ t.rd (CAN_EVT o) = raised (s.rd (CAN_EVT o)) 1 ∧
        RegsBut [CAN_ECNT o, CAN_STAT o, CAN_EVT o] s t ∧
        t = { s with regs := t.regs, can := s.can.put o { c with recover := false, refLast := none } }) ∧
    (s.canState o ≠ 4 ∨ s.bit (CAN_CTL o) 5 = false ∧ c.recover = false → Answers (.busOffRecovery o) s same) ∧
    (Sup w 17 s → s.canState o = 4 → Answers (.recover w o) s fun t =>
      t = { s with reply := t.reply, can := s.can.put o { c with recover := true } }) ∧
    (Sup w 17 s → s.canState o ≠ 4 → Answers (.recover w o) s fun t => t = { s with reply := t.reply }) ∧
    (s.power.nx = true → s.canState o = 1 → Answers (.busIntegration o) s fun t =>
      t.rd (CAN_STAT o) = st (if 127 < s.canTec o ∨ 127 < s.canRec o then 3 else 2) ∧ RegsBut [CAN_STAT o] s t ∧
      t = { s with regs := t.regs }) ∧
    (s.power.nx = false ∨ s.canState o ≠ 1 → Answers (.busIntegration o) s same) ∧
    (s.power.nx = false ∨ bitAt cfg 31 = false ∨ s.canState o < 2 ∨ c.refMs = k → Answers (.canRefInstant o) s same) ∧
    (s.power.nx = true → bitAt cfg 31 = true → s.canState o = 2 ∨ s.canState o = 3 → c.refMs ≠ k →
      let may := s.canListens o = false ∧ (bitAt cfg 30 = false ∨ s.mandate = true)
      (may → c.refDue = false → Answers (.canRefInstant o) s fun t =>
        t = { s with can := s.can.put o { c with refMs := k, refDue := true } }) ∧
      (¬may → c.refDue = false → Answers (.canRefInstant o) s fun t =>
        t = { s with can := s.can.put o { c with refMs := k, refLast := none } }) ∧
      (may → c.refDue = true → Answers (.canRefInstant o) s fun t =>
        t.rd (CAN_EVT o) = raised (s.rd (CAN_EVT o)) 8 ∧ t.rd (CAN_REF_LATE o) = incSat 32 (s.rd (CAN_REF_LATE o)) ∧
        RegsBut [CAN_EVT o, CAN_REF_LATE o] s t ∧
        t = { s with regs := t.regs, can := s.can.put o { c with refMs := k, refDue := true, refLast := none } })) ∧
    (∀ (sof : Word), CanQuiet o s → c.refDue = true → Answers (.canTxComplete o true sof 0 none) s fun t =>
      let x := s.extendTs sof.toNat
      let data := match c.refLast with
        | some e => bytesBE 4 (e.1 % 2 ^ 32) ++ bytesBE 4 e.2
        | none => List.replicate 8 255
      t.out = s.out ++ [.can o (s.fld (CAN_REF_ID o) 29 0) 8 data] ∧
      t.rd (CAN_TX_FRAMES o) = incSat 32 (s.rd (CAN_TX_FRAMES o)) ∧ t.rd (CAN_ECNT o) = ecnt (s.canTec o - 1) (s.canRec o) ∧
      RegsBut [CAN_TX_FRAMES o, CAN_ECNT o] s t ∧
      t = { s with regs := t.regs, out := t.out, can := s.can.put o { c with
        refDue := false, refLast := some (x / 10 ^ 9, x % 10 ^ 9 + s.syncClass * 2 ^ 30) } })

/-- R22, R428, R430–R434, R436, R438: a sample set goes through the filter of every input, its M follows; the elements that are
evaluated pick up, operate and drop (definite time, the inverse curves 1 and 2, undervoltage, the backstop initiated by a binary input),
the others do neither; while Baize is armed the enabled outputs close on their masks; an output
opens when its time is over and nothing in its mask operates; a change of a binary input is shown as configured; Baize disarms
after its delay; the pending settings become active together and what changed restarts; a fault found by a check is shown and
lowers health; a check that finds none changes no more than its counts. The sum of squares starts with the oldest set (the model's
choice, log entry 160). -/
def Obligations.Baize : Prop :=
  ∀ (w : Who) (s : State), s.Canonical → s.led.staged.length + 16 ≤ 1024 →
    let g := s.guard
    let same := fun (t : State) => t = s
    let fault := fun (cause : Nat) (e : Nat) (t : State) =>
      t.rd GRD_FAULT = raised (s.rd GRD_FAULT) cause ∧ t.bit GRD_STAT 4 = true ∧ (∀ b, bitAt e b = true → t.bit GRD_EVT b = true) ∧
      t.bit GRD_EVT 4 = true ∧ t.health ≤ 2 ∧ HealthShown s t ∧ t.mem = s.mem ∧ t.slices = s.slices ∧ t.weft = s.weft ∧
      (∃ r l, t.led = { s.led with staged := s.led.staged ++ r :: l } ∧ r.sev = 5 ∧ r.blk = 22) ∧
      RegsBut (GRD_FAULT :: healthRegs) s t
    (s.power.nx = false → Answers .guardOscDeviation s same ∧ Answers .guardCheck s same) ∧
    (s.ledRunning = true →
    (∀ codes : Vector (BitVec 16) 8, s.power.ao = true → (s.armWanted = true → s.bit GRD_STAT 1 = true) →
      (g.sets + 1) % 64 ≠ 0 → (∀ e, e < 8 → bitAt (s.act (GRD_EL_CFG e)) 31 = true → bits (s.act (GRD_EL_CFG e)) 15 8 ≠ 0) →
      Answers (.guardSampleSet codes) s fun t =>
        t.guard.sets = g.sets + 1 ∧ t.bit GRD_STAT 0 = true ∧
        (∀ i : Fin 8,
          let c := codes[i].toNat
          let o := g.ins.at' i
          let n := min (max (bits (s.act (GRD_IN_CFG i)) 8 0) 1) 400
          let x := fMul (fOfInt (signed 16 c)) (s.act (GRD_IN_SCALE i))
          let y := fAdd (fSub x o.x) (fMul (fOfRat 99843 100000) o.y)
          let sq := (fMul y y :: o.sq).take n
          t.fld (GRD_IN_RAW i) 15 0 = c ∧ t.bit (GRD_IN_RAW i) 16 = (c == 0x7FFF || c == 0x8000) ∧
          (bitAt (s.act (GRD_IN_CFG i)) 31 = true → t.guard.ins.at' i = { x := x, y := y, sq := sq, code := c } ∧
            t.rd (GRD_IN_MAG i) = fSqrt (fDiv (sq.reverse.foldl fAdd 0) (fOfInt n)) % 2 ^ 32 ∧
            t.bit (GRD_IN_RAW i) 17 = decide (n ≤ sq.length)) ∧
          (bitAt (s.act (GRD_IN_CFG i)) 31 = false → t.guard.ins.at' i = { o with code := c } ∧
            t.rd (GRD_IN_MAG i) = s.rd (GRD_IN_MAG i))) ∧
        (∀ e : Fin 8,
          let cfg := s.act (GRD_EL_CFG e)
          let mask := (List.range 8).filter (fun i => bitAt cfg (8 + i))
          let mags := mask.map (fun i => t.rd (GRD_IN_MAG i))
          let mx := mags.foldl fMax (mags.headD 0)
          let mn := mags.foldl fMin (mags.headD 0)
          let pu := s.act (GRD_EL_PU e)
          let aux := s.act (GRD_EL_AUX e)
          let d := bits (s.act (GRD_EL_TIME e)) 15 0 * 4
          let r := bits (s.act (GRD_EL_TIME e)) 31 16 * 4
          let was := s.bit (GRD_EL_STAT e) 0
          let o := g.els.at' e
          let ty := bits cfg 30 28
          let live := bitAt (s.act GRD_CTL) 0 && bitAt cfg 31 && mask.all (fun i => t.bit (GRD_IN_RAW i) 17)
          let low := fLt mx (fMul (fOfRat 95 100) pu)
          let shown := fun (up op : Bool) => t.bit (GRD_EL_STAT e) 0 = up ∧ t.bit (GRD_EL_STAT e) 1 = op
          let timed := fun (up : Bool) => let n := if up then (if was then o.count + 1 else 0) else 0
            shown up (up && decide (d ≤ n)) ∧ (t.guard.els.at' e).count = n
          t.bit GRD_STAT (20 + e) = t.bit (GRD_EL_STAT e) 1 ∧
          (live = false → shown false false) ∧
          (live = true → ty = 1 → timed (if was then !low else fLt pu mx)) ∧
          (live = true → ty = 3 →
            let m := if bitAt cfg 25 then mx else mn
            timed (fLt m (if was then fMul (fOfRat 105 100) pu else pu) && (!fLt 0 aux || fLe aux mx))) ∧
          (live = true → ty = 2 → bits cfg 27 26 = 1 ∨ bits cfg 27 26 = 2 →
            let G := fMin (fDiv mx pu) (fOfInt 40)
            let k := if bits cfg 27 26 = 1 then fOfRat 27 2 else fOfInt 80
            let den := fSub (if bits cfg 27 26 = 1 then G else fMul G G) fOne
            let b := fAdd o.bucket (fDiv (fOfRat 25 100000) (fDiv (fMul (s.act (GRD_EL_TMS e)) k) den))
            let up := if was then !low else fLt pu mx
            let h := if was then 0 else o.hold + 1
            shown up (up && fLe fOne b) ∧
            (t.guard.els.at' e).bucket = if up then b else if r ≤ h then 0 else o.bucket) ∧
          (live = true → ty = 4 → bits (s.act (GRD_EL_INIT e)) 7 0 = 0 →
            let cb := bitAt cfg 24 && s.bit GRD_STAT (12 + bits cfg 23 21)
            let ini := s.bit (GRD_EL_STAT e) 2 || decide (bits (s.act (GRD_EL_INIT e)) 15 8 &&& s.fld GRD_STAT 19 12 ≠ 0)
            if low ∧ cb = false then timed false ∧ t.bit (GRD_EL_STAT e) 2 = false
            else timed (ini && (fLt pu mx || cb || was)) ∧ t.bit (GRD_EL_STAT e) 2 = ini)) ∧
        (∀ o, o < 4 →
          let cfg := s.act (GRD_OUT_CFG o)
          let closes := s.bit GRD_STAT 1 && bitAt cfg 8 && !s.bit GRD_STAT (8 + o) && bitAt (s.act GRD_CTL) 0 &&
            decide (bits cfg 7 0 &&& t.operating ≠ 0)
          t.bit GRD_STAT (8 + o) = (s.bit GRD_STAT (8 + o) || closes) ∧ (Output.pin (.gtrip o) true ∈ t.out.drop s.out.length ↔ closes = true) ∧
          t.rd (GRD_OUT_CNT o) = (if closes then incSat 32 (s.rd (GRD_OUT_CNT o)) else s.rd (GRD_OUT_CNT o)) ∧
          (closes = true → t.guard.outAt.at' o = s.clk ∧ t.bit GRD_EVT 2 = true ∧ ∃ x ∈ t.led.staged.drop s.led.staged.length, x.sev = 6)) ∧
        (∀ x ∈ t.led.staged.drop s.led.staged.length, x.blk = 22 ∧ (x.sev = 3 ∨ x.sev = 6)) ∧
        t.led.staged.take s.led.staged.length = s.led.staged ∧ t.out.take s.out.length = s.out ∧
        RegsBut ([GRD_STAT, GRD_EVT, GRD_OPER, GRD_TRIPS] ++ (List.range 4).map GRD_OUT_CNT ++ (List.range 8).map GRD_EL_STAT ++
          (List.range 8).map GRD_IN_RAW ++ (List.range 8).map GRD_IN_MAG) s t ∧
        t = { s with regs := t.regs, guard := t.guard, led := t.led, out := t.out, tae := t.tae }) ∧
    (s.power.ao = false → ∀ codes, Answers (.guardSampleSet codes) s same) ∧
    (∀ (o : Fin 4),
      let due := s.power.ao = true ∧ s.bit GRD_STAT (8 + o) = true ∧ bits (s.act (GRD_OUT_CFG o)) 7 0 &&& s.operating = 0 ∧
        g.outAt.at' o + bits (s.act (GRD_OUT_CFG o)) 31 16 * tMs ≤ s.clk
      (due → Answers (.outputOpen o) s fun t =>
        t.rd GRD_STAT = lowered (s.rd GRD_STAT) (8 + o) ∧ t.out = s.out ++ [.pin (.gtrip o) false] ∧ Recorded 3 22 s t ∧
        RegsBut [GRD_STAT] s t ∧ t = { s with regs := t.regs, out := t.out, led := t.led }) ∧
      (¬due → Answers (.outputOpen o) s same) ∧
      (s.power.ao = true → Answers (.outputMismatch o) s (fault 2 (raised (s.rd GRD_EVT) 3))) ∧
      (s.power.ao = false → Answers (.outputMismatch o) s same)) ∧
    (s.power.nx = true → s.power.refOk = true → Answers .guardOscDeviation s (fault 3 (s.rd GRD_EVT))) ∧
    (s.power.refOk = false → Answers .guardOscDeviation s same) ∧
    (s.power.nx = true →
      let band := fun (c : Nat) => ((signed 16 c) * 120 - 3276800).natAbs ≤ 16384
      ((∀ c ∈ g.refs, band c) → g.sets = g.lastSet → Answers .guardCheck s fun t => fault 0 (s.rd GRD_EVT) t ∧ t.guard.refs = []) ∧
      ((∃ c ∈ g.refs, ¬band c) → g.sets ≠ g.lastSet → Answers .guardCheck s fun t => fault 1 (s.rd GRD_EVT) t ∧ t.guard.refs = []) ∧
      ((∀ c ∈ g.refs, band c) → g.sets ≠ g.lastSet → Answers .guardCheck s fun t =>
        t = { s with guard := { g with lastSet := g.sets, refs := [] } })) ∧
    (∀ (b : Fin 8) (level : Bool), s.power.ao = true →
      let v := level != bitAt (s.act GRD_BIN_CFG) b
      let raw := setBits g.binRaw b b (b2n level)
      (s.bit GRD_STAT (12 + b) = !v → Answers (.binaryInputChange b level) s fun t =>
        t.rd GRD_STAT = setBits (s.rd GRD_STAT) (12 + b) (12 + b) (b2n v) ∧ t.rd GRD_EVT = raised (s.rd GRD_EVT) 7 ∧
        Recorded 3 22 s t ∧ RegsBut [GRD_STAT, GRD_EVT] s t ∧
        t = { s with regs := t.regs, led := t.led, guard := { g with binRaw := raw } }) ∧
      (s.bit GRD_STAT (12 + b) = v → Answers (.binaryInputChange b level) s fun t => t = { s with guard := { g with binRaw := raw } })) ∧
    (let wanted := bitAt (s.act GRD_CTL) 1 = true ∨ s.mandate = false ∨ s.health ≤ 1 ∨ s.power.nx = false
     let due := s.power.ao = true ∧ s.bit GRD_STAT 1 = true ∧ ¬wanted ∧ g.since + bits (s.act GRD_CTL) 31 16 * tMs ≤ s.clk
     (due → Answers .guardDisarm s fun t =>
        t.rd GRD_STAT = lowered (s.rd GRD_STAT) 1 ∧ t.rd GRD_EVT = raised (s.rd GRD_EVT) 0 ∧ Recorded 3 22 s t ∧
        RegsBut [GRD_STAT, GRD_EVT] s t ∧ t = { s with regs := t.regs, led := t.led }) ∧
     (¬due → Answers .guardDisarm s same)) ∧
    (∀ (v : Word), Sup w 22 s → bitAt v.toNat 0 = true → s.bit GRD_STAT 1 = true → s.rd GRD_BIN_CFG = s.act GRD_BIN_CFG →
      (∀ b, b < 8 → s.bit GRD_STAT (12 + b) = (bitAt g.binRaw b != bitAt (s.act GRD_BIN_CFG) b)) → (∀ o, o < 4 → s.bit GRD_STAT (8 + o) = true) →
      (∀ e, e < 8 → s.bit (GRD_EL_STAT e) 1 = false) → Answers (.guardApply w v) s fun t =>
        (∀ a ∈ guardSettings, t.act a = s.rd a) ∧ (∀ a ∈ [GRD_IDENT, GRD_STAT, GRD_EVT], t.act a = s.act a) ∧
        t.rd GRD_STAT = raised (s.rd GRD_STAT) 3 ∧
        (∀ e, e < 8 →
          let changed := ∃ a ∈ [GRD_EL_CFG e, GRD_EL_PU e, GRD_EL_TIME e, GRD_EL_TMS e, GRD_EL_AUX e, GRD_EL_INIT e], s.rd a ≠ s.act a
          (changed → t.rd (GRD_EL_STAT e) = 0 ∧ t.guard.els.at' e = {}) ∧
          (¬changed → t.rd (GRD_EL_STAT e) = s.rd (GRD_EL_STAT e) ∧ t.guard.els.at' e = g.els.at' e)) ∧
        (∀ i, i < 8 →
          let win := s.rd (GRD_IN_SCALE i) ≠ s.act (GRD_IN_SCALE i) ∨ s.fld (GRD_IN_CFG i) 8 0 ≠ bits (s.act (GRD_IN_CFG i)) 8 0
          let en := s.bit (GRD_IN_CFG i) 31 ≠ bitAt (s.act (GRD_IN_CFG i)) 31
          (en → (t.guard.ins.at' i).sq = [] ∧ (t.guard.ins.at' i).x = 0 ∧ (t.guard.ins.at' i).y = 0 ∧ t.bit (GRD_IN_RAW i) 17 = false) ∧
          (win → ¬en → t.guard.ins.at' i = { g.ins.at' i with sq := [] } ∧ t.bit (GRD_IN_RAW i) 17 = false) ∧
          (¬win → ¬en → t.guard.ins.at' i = g.ins.at' i ∧ t.rd (GRD_IN_RAW i) = s.rd (GRD_IN_RAW i))) ∧
        (t.bit GRD_EVT 5 = true ↔ s.bit GRD_EVT 5 = true ∨ ∃ e, e < 8 ∧ s.bit (GRD_EL_CFG e) 31 = true ∧
          (s.fld (GRD_EL_CFG e) 30 28 = 0 ∨ 5 ≤ s.fld (GRD_EL_CFG e) 30 28 ∨
            s.fld (GRD_EL_CFG e) 30 28 = 2 ∧ s.fld (GRD_EL_CFG e) 27 26 = 3)) ∧
        RegsBut ([GRD_STAT, GRD_EVT] ++ (List.range 8).map GRD_EL_STAT ++ (List.range 8).map GRD_IN_RAW) s t ∧
        t = { s with regs := t.regs, reply := t.reply, guard := { g with active := t.guard.active, els := t.guard.els, ins := t.guard.ins } }))

/-- The days of a month of a year of the cycle from 2000 (R443). -/
def Sys2Proof.Claims.monthLen (y m : Nat) : Nat :=
  if m = 2 then (if y % 4 = 0 ∧ (y % 100 ≠ 0 ∨ y % 400 = 0) then 29 else 28) else if m ∈ [4, 6, 9, 11] then 30 else 31

/-- The days before a date of the cycle: those of the years before, the months before and the month (R443). -/
def Sys2Proof.Claims.dayNumber (y m d : Nat) : Nat :=
  ((List.range y).map (fun k => 337 + monthLen k 2)).sum + ((List.range (m - 1)).map (fun k => monthLen y (k + 1))).sum + (d - 1)

/-- The fields of a calendar register pair with the bits of the mask that compare them (R444). -/
def Sys2Proof.Claims.calFields (x y : Nat) : List (Nat × Nat) :=
  [(2, bits x 5 0), (3, bits x 13 8), (4, bits x 20 16), (5, bits x 26 24), (6, bits y 4 0), (7, bits y 11 8), (8, bits y 24 16)]

/-- R439–R441, R443–R447: a low battery is shown; a loss leaves the domain at reset, with its record and the lost latch; `set`
loads the counter; a read of the low word keeps the other for its master; the calendar's words are the date and time of the count;
the counter that wraps is not valid; an alarm is entered when its fields are in range, rejected otherwise, and shown unreachable where
its date does not exist or its year is past; it fires, once, in a second that matches; PWR_ON_REQ ends with its pulse or by command; the
meters go to the older copy. Without its cause nothing changes. -/
def Obligations.Backup : Prop :=
  ∀ (w : Who) (a : Fin 2) (s : State), s.Canonical →
    let b := s.bkd
    let st := s.rd BKD_STAT
    let ctl := s.rd (BKD_ALM_CTL a)
    let same := fun (t : State) => t = s
    let off := s.bit (BKD_ALM_CTL 0) 0 = false ∧ s.bit (BKD_ALM_CTL 1) 0 = false
    let alm := calFields (s.rd (BKD_ALM_CAL0 a)) (s.rd (BKD_ALM_CAL1 a))
    let now := calFields (calOf s.rtcSecs).word0 (calOf s.rtcSecs).word1
    let ticks := b.rtc % 2 ^ 50
    let fires := s.power.bk = true ∧ s.bit BKD_STAT 0 = true ∧ bitAt ctl 0 = true ∧ bitAt b.almFresh a = true ∧
      ∀ x ∈ alm.zip now, bitAt ctl x.1.1 = true → x.1.2 = x.2.2
    (∀ mv,
      (s.power.ao = true → Answers (.vbatMeasure mv) s fun t =>
        t.rd BKD_STAT = setBits st 2 2 (if mv < 2400 then 1 else 0) ∧
        t.rd BKD_EVT = (if mv < 2400 then raised (s.rd BKD_EVT) 6 else s.rd BKD_EVT) ∧
        RegsBut [BKD_STAT, BKD_EVT] s t ∧ t = { s with regs := t.regs }) ∧
      (s.power.ao = false → Answers (.vbatMeasure mv) s same)) ∧
    (bitAt st 4 = false → s.tamperLevel 5 = 0 → s.ledReady = true → s.led.staged.length < 1024 →
      Answers .backupLoss s fun t =>
        t.rd BKD_TAMPER = 0x100 ∧ Recorded 5 20 s t ∧ t.rd SYS_BOOT = (resetWord SYS_BOOT).toNat ∧
        (∀ x, regOf [21] x = true → x ≠ BKD_TAMPER → t.rd x = (resetWord x).toNat) ∧
        (∀ x, regOf [21] x = false → x ≠ SYS_BOOT → t.rd x = s.rd x) ∧
        t = { s with regs := t.regs, led := t.led, bkd := { copies := b.copies } }) ∧
    (Sup w 21 s → off → Answers (.rtcSet w) s fun t =>
      let n := s.rd BKD_SET_LO + 2 ^ 32 * s.fld BKD_SET_HI 17 0
      t.rd BKD_STAT = raised st 0 ∧ RegsBut [BKD_STAT] s t ∧
      t = { s with regs := t.regs, reply := t.reply, bkd := { b with
        rtc := n, acc := 0, trimPos := 0, trimN := max (-256) (min 256 (signed 10 (s.fld BKD_TRIM 9 0))), almFresh := 3,
        year := (calOf (n / 32768)).year } }) ∧
    (Sup w 21 s → Answers (.rtcLoRead w) s fun t =>
      t.reply.at' w.master = { data := ticks % 2 ^ 32 } ∧
      t = { s with reply := t.reply, readLatch := s.readLatch.put (bank w.master BKD_RTC_LO) (some (ticks / 2 ^ 32)) }) ∧
    (Sup w 21 s → Answers (.cal0Read w) s fun t =>
      let secs := ticks / 32768
      let days := secs / 86400
      let c1 := t.latched.at' BKD_CAL1
      t.reply.at' w.master = { data := secs % 60 + secs / 60 % 60 * 2 ^ 8 + secs / 3600 % 24 * 2 ^ 16 +
        ((days + 5) % 7 + 1) * 2 ^ 24 } ∧
      bits c1 24 16 < 400 ∧ 1 ≤ bits c1 11 8 ∧ bits c1 11 8 ≤ 12 ∧ 1 ≤ bits c1 4 0 ∧
      bits c1 4 0 ≤ monthLen (bits c1 24 16) (bits c1 11 8) ∧ bits c1 27 25 = days / 146097 % 8 ∧
      dayNumber (bits c1 24 16) (bits c1 11 8) (bits c1 4 0) = days % 146097 ∧
      t = { s with reply := t.reply, latched := s.latched.put BKD_CAL1 c1 }) ∧
    (2 ^ 50 ≤ b.rtc → Answers .rtcWrap s fun t =>
      t.rd BKD_STAT = lowered st 0 ∧ t.rd BKD_EVT = raised (s.rd BKD_EVT) 7 ∧ RegsBut [BKD_STAT, BKD_EVT] s t ∧
      t = { s with regs := t.regs, bkd := { b with rtc := b.rtc - 2 ^ 50 } }) ∧
    (b.rtc < 2 ^ 50 → Answers .rtcWrap s same) ∧
    (∀ x : Word, Sup w 21 s →
      let v := x.toNat
      let fresh := { b with almFresh := setBits b.almFresh a a 0 }
      let cmp := fun (i : Nat) => bitAt v (2 + i) = true
      let f := fun (i : Nat) => (alm.getD i (0, 0)).2
      let inRange := (cmp 0 → f 0 < 60) ∧ (cmp 1 → f 1 < 60) ∧ (cmp 2 → f 2 < 24) ∧ (cmp 3 → 1 ≤ f 3 ∧ f 3 ≤ 7) ∧
        (cmp 4 → 1 ≤ f 4 ∧ f 4 ≤ 31) ∧ (cmp 5 → 1 ≤ f 5 ∧ f 5 ≤ 12) ∧ (cmp 6 → f 6 < 400)
      let entered := fun (t : State) => t.fld (BKD_ALM_CTL a) 8 0 = bits v 8 0 ∧ t.bit (BKD_ALM_CTL a) 9 = false ∧
        RegsBut [BKD_ALM_CTL a, BKD_EVT] s t ∧ t = { s with regs := t.regs, reply := t.reply, bkd := fresh }
      (bitAt v 0 = false → Answers (.alarmCtlWrite w a x) s fun t =>
        t.rd (BKD_ALM_CTL a) = setBits (setBits ctl 8 1 (bits v 8 1)) 0 0 0 ∧ RegsBut [BKD_ALM_CTL a] s t ∧
        t = { s with regs := t.regs, reply := t.reply, bkd := fresh }) ∧
      (bitAt v 0 = true → inRange →
        (bits v 8 2 = 0 → Answers (.alarmCtlWrite w a x) s fun t => entered t ∧ t.bit (BKD_ALM_CTL a) 10 = false) ∧
        (cmp 4 ∧ cmp 5 ∧ f 4 = 31 ∧ f 5 ∈ [4, 6, 9, 11] ∨ cmp 6 ∧ f 6 < (calOf s.rtcSecs).year ∨
            cmp 4 ∧ cmp 5 ∧ cmp 6 ∧ f 4 = 29 ∧ f 5 = 2 ∧ (f 6 % 4 ≠ 0 ∨ f 6 % 100 = 0 ∧ f 6 % 400 ≠ 0) →
          Answers (.alarmCtlWrite w a x) s fun t => entered t ∧ t.bit (BKD_ALM_CTL a) 10 = true ∧
            t.rd BKD_EVT = raised (s.rd BKD_EVT) (4 + a)) ∧
        Answers (.alarmCtlWrite w a x) s entered) ∧
      (bitAt v 0 = true → ¬inRange → Answers (.alarmCtlWrite w a x) s fun t =>
        t.bit (BKD_ALM_CTL a) 0 = false ∧ t.bit (BKD_ALM_CTL a) 9 = true ∧ t.rd BKD_EVT = raised (s.rd BKD_EVT) 3 ∧
        RegsBut [BKD_ALM_CTL a, BKD_EVT] s t ∧ t = { s with regs := t.regs, reply := t.reply, bkd := fresh })) ∧
    (fires → bitAt ctl 1 = false → Answers (.alarmMatch a) s fun t =>
      t.rd BKD_EVT = raised (s.rd BKD_EVT) (1 + a) ∧ RegsBut [BKD_EVT] s t ∧
      t = { s with regs := t.regs, bkd := { b with almFresh := setBits b.almFresh a a 0 } }) ∧
    (fires → bitAt ctl 1 = true → s.power.nx = true → bitAt st 4 = false → Answers (.alarmMatch a) s fun t =>
        t.rd BKD_EVT = raised (s.rd BKD_EVT) (1 + a) ∧ t.rd BKD_STAT = raised st 4 ∧
        t.out = s.out ++ [.pin .pwrOnReq true] ∧ RegsBut [BKD_EVT, BKD_STAT] s t ∧
        t = { s with regs := t.regs, out := t.out, bkd := { b with
          almFresh := setBits b.almFresh a a 0,
          pulseEnd := if s.fld BKD_PWR 15 0 = 0 then none else some (s.clk + s.fld BKD_PWR 15 0 * tSec) } }) ∧
    (¬fires → Answers (.alarmMatch a) s same) ∧
    (bitAt st 4 = true →
      let down := fun (t : State) => t.rd BKD_STAT = lowered st 4 ∧ t.out = s.out ++ [.pin .pwrOnReq false] ∧
        RegsBut [BKD_STAT] s t ∧
        t = { s with regs := t.regs, reply := t.reply, out := t.out, bkd := { b with pulseEnd := none } }
      (Sup w 21 s → Answers (.pwrClear w) s down) ∧
      (∀ x, b.pulseEnd = some x → x ≤ s.clk → Answers .pwrPulseExpiry s down)) ∧
    (Sup w 21 s → bitAt st 4 = false → Answers (.pwrClear w) s fun t =>
      t = { s with reply := t.reply, bkd := { b with pulseEnd := none } }) ∧
    (∀ x, b.pulseEnd = some x → s.clk < x → Answers .pwrPulseExpiry s same) ∧
    (b.pulseEnd = none → Answers .pwrPulseExpiry s same) ∧
    (∀ c rest, b.copies = c :: rest → b.copyDue = true → s.power.mem = true → s.power.ao = true → bitAt st 3 = true →
      Answers .hourMeterCopy s fun t => t = { s with bkd := { b with
        copies := ({ seq := c.seq + 1, opsec := s.rd BKD_OPSEC, pcycle := s.rd BKD_PCYCLE } :: b.copies).take 2,
        copyDue := false } }) ∧
    (b.copyDue = false ∨ s.power.mem = false ∨ s.power.ao = false ∨ bitAt st 3 = false → Answers .hourMeterCopy s same) ∧
    (off → (calOf s.rtcSecs).year ≠ b.year → Answers .yearChange s fun t =>
      t = { s with bkd := { b with year := (calOf s.rtcSecs).year } }) ∧
    ((calOf s.rtcSecs).year = b.year → Answers .yearChange s same)

/-- R449, R450, R452, R454–R456: a software record is staged and makes the unit busy, and one written meanwhile is refused; a
flush that is due puts a staged record into the lowest free slot, laid out under the next sequence number, and counts it; the scan at a
start counts what the array holds, takes up its numbers, and puts Baize's events before the records staged. That the free slot is the
lowest is the model's choice (log entry 168). -/
def Obligations.LedgerArray : Prop :=
  ∀ (w : Who) (s : State), s.Canonical →
    let q := s.rd LED_SEQ_NEXT
    let same := fun (t : State) => t = s
    let lvl := min (max (s.fld LED_CTL 10 0) 1) 1024
    let due := (∃ r ∈ s.led.staged, 5 ≤ r.sev ∨ r.at_ + max (s.fld LED_CTL 31 16) 1 * tMs ≤ s.clk) ∨ lvl ≤ s.led.staged.length ∨
      s.bit SYS_PF_STAT 0 = true ∧ s.led.staged ≠ []
    (∀ v : Word, Sup w 20 s → s.bit LED_SW_STAT 0 = false → s.led.staged.length < 1024 → Answers (.softwareRecord w v) s fun t =>
      t.rd LED_SW_STAT = 1 ∧ RegsBut [LED_SW_STAT] s t ∧ (∃ r : LedRec, t.led = { s.led with staged := s.led.staged ++ [r] } ∧
        r.sev = bits v.toNat 2 0 ∧ r.blk = 0xFF ∧ r.code = bits v.toNat 31 16 ∧ r.slice = w.slice ∧ r.at_ = s.clk ∧
        r.guard = false ∧ r.pay = (List.range 8).map (fun i => s.rd (LED_SW_PAY i))) ∧
      t = { s with regs := t.regs, reply := t.reply, led := t.led }) ∧
    (∀ v : Word, Sup w 20 s → s.bit LED_SW_STAT 0 = true → Answers (.softwareRecord w v) s fun t =>
      t.rd LED_SW_STAT = raised (s.rd LED_SW_STAT) 1 ∧ Wrote [LED_SW_STAT] s t) ∧
    (∀ r k, s.led.staged = [r] → due → s.power.nx = true → s.power.mem = true → s.bit LED_STAT 0 = false → k < ledSlots →
      s.led.slots.at' k = (0, 0) → (∀ j, j < k → s.led.slots.at' j ≠ (0, 0)) → Answers .ledgerFlush s fun t =>
        let a := ledBase + 64 * k
        t.ld a 4 = q ∧ t.ld (a + 4) 4 = r.sev % 8 + r.tsrc % 4 * 2 ^ 3 + b2n r.guard * 2 ^ 5 + r.blk % 256 * 2 ^ 8 +
          r.code % 65536 * 2 ^ 16 ∧ t.ld (a + 8) 4 = r.opsec % 2 ^ 32 ∧ t.ld (a + 12) 4 = r.pcycle % 2 ^ 32 ∧
        t.ld (a + 16) 4 = r.t0 % 2 ^ 32 ∧ t.ld (a + 20) 4 = r.t1 % 2 ^ 32 ∧
        t.ld (a + 24) 4 = r.t2 % 2 ^ 16 + r.slice % 256 * 2 ^ 16 ∧
        (∀ i, i < 8 → t.ld (a + 28 + 4 * i) 4 = r.pay.getD i 0 % 2 ^ 32) ∧ t.ld (a + 60) 4 = crc32 (t.rdBytes a 60) ∧
        (∀ x, x < a ∨ a + 64 ≤ x → t.rdByte x = s.rdByte x) ∧
        t.rd LED_SEQ_NEXT = (q + 1) % 2 ^ 32 ∧ t.rd (LED_SEV_CNT (r.sev % 8)) = incSat 32 (s.rd (LED_SEV_CNT (r.sev % 8))) ∧
        t.rd LED_RECORDS = incSat 32 (s.rd LED_RECORDS) ∧ t.rd LED_EVT = raised (s.rd LED_EVT) 3 ∧
        RegsBut [LED_SEQ_NEXT, LED_SEV_CNT (r.sev % 8), LED_RECORDS, LED_EVT] s t ∧
        t = { s with regs := t.regs, mem := t.mem, poison := t.poison, led := {
          staged := [], slots := s.led.slots.put k (q, r.sev % 8 + 1) } }) ∧
    (¬due ∨ s.power.nx = false ∨ s.power.mem = false ∨ s.bit LED_STAT 0 = true → Answers .ledgerFlush s same) ∧
    (s.bit LED_STAT 0 = false ∨ s.power.nx = false ∨ s.power.mem = false → Answers .ledgerScan s same) ∧
    (s.bit LED_STAT 0 = true → s.power.nx = true → s.power.mem = true → s.bkd.lossRec = false → Answers .ledgerScan s fun t =>
        (∀ v, v < 8 → t.rd (LED_SEV_CNT v) = (s.led.slots.filter (fun e => e.2.2 == v + 1)).length % 2 ^ 32) ∧
        (s.led.slots = [] → t.rd LED_SEQ_NEXT = 0) ∧
        (∀ base, (∀ e ∈ s.led.slots, e.2.1 < 2 ^ 32 ∧ (e.2.1 + 2 ^ 32 - base % 2 ^ 32) % 2 ^ 32 < 2 ^ 31) → s.led.slots ≠ [] →
          ∃ e ∈ s.led.slots, t.rd LED_SEQ_NEXT = (e.2.1 + 1) % 2 ^ 32 ∧ ∀ e' ∈ s.led.slots,
            (e'.2.1 + 2 ^ 32 - base % 2 ^ 32) % 2 ^ 32 ≤ (e.2.1 + 2 ^ 32 - base % 2 ^ 32) % 2 ^ 32) ∧
        t.bit LED_STAT 0 = false ∧ t.bit LED_STAT 2 = decide (ledSlots ≤ s.led.slots.length) ∧
        (s.guard.lost = 0 → t.led.staged = s.guard.events ++ s.led.staged) ∧
        (s.guard.lost ≠ 0 → ∃ r : LedRec, t.led.staged = r :: s.guard.events ++ s.led.staged ∧ r.sev = 5 ∧ r.blk = 20 ∧
          r.code = 0 ∧ r.pay = [0xFFFFF + 2 ^ 24, s.guard.lost]) ∧
        RegsBut ([LED_SEQ_NEXT, LED_STAT] ++ (List.range 8).map LED_SEV_CNT) s t ∧
        t = { s with regs := t.regs, led := { s.led with staged := t.led.staged }, guard := { s.guard with events := [], lost := 0 } })

/-- The commands of the key store with their operation code, slot and second slot. -/
def Sys2Proof.Claims.KeyCommand (w : Who) (k aux : Fin 64) (tag : Bool) (x : Instr × Nat × Nat × Nat × Bool) : Prop :=
  x ∈ [(Instr.loadClear w k, 1, k.val, 0, false), (.loadWrapped w k aux, 2, k.val, aux.val, false),
    (.loadPublic w k, 3, k.val, 0, false), (.derive w k, 4, k.val, 0, false), (.zeroise w k, 5, k.val, 0, false),
    (.gcmEnc w k, 6, k.val, 0, false), (.gcmDec w k, 7, k.val, 0, false), (.mac w k tag, 8, k.val, 0, tag),
    (.macVer w k tag, 9, k.val, 0, tag), (.sha256 w, 10, 0, 0, false), (.sha384 w, 11, 0, 0, false),
    (.ecdsaVer w k, 12, k.val, 0, false), (.mldsaVer w k, 13, k.val, 0, false)]

/-- The conditions of R468 on a use of slot `k`, with the result of each, in order. -/
def Sys2Proof.Claims.useRefusals (s : State) (w : Who) (k use : Nat) : List (Bool × Nat) :=
  let a := s.rd (KEY_SLOT_ATTR k)
  [(decide (s.fld (KEY_SLOT_STAT k) 1 0 ≠ 1), 1),
    (!bitAt a use || (decide (w.slice.val ≠ 0) && decide (bits a 31 28 ≠ s.slTenant w.slice)), 2),
    (s.bit KEY_STAT 3, 3), (s.bit KEY_STAT 2 && !bitAt a 24, 4)]

/-- What refuses command `op` on slot `k` with second slot `aux` (R461, R462, R466, R468, R477, R499), in order. -/
def Sys2Proof.Claims.refusals (s : State) (w : Who) (op k aux : Nat) : List (Bool × Nat) :=
  let a := s.rd (KEY_SLOT_ATTR k)
  let alg := bits a 7 0
  let uses := [[], [8, 9], [8, 9, 10, 11], [8, 9, 10, 11, 13], [12], [12], [12]].getD alg []
  let test := s.bit KEY_STAT 2
  let rootless := !s.bit KEY_STAT 0 && !test
  let sealed := (s.bit KEY_STAT 3, 3)
  if op = 5 then [sealed, (test && bitAt a 27, 4), (bitAt a 27 && s.bit SYS_PF_STAT 0, 7)]
  else if op ≤ 4 then
    [sealed, (decide (alg = 0 ∨ 7 ≤ alg) || [8, 9, 10, 11, 12, 13].any (fun u => bitAt a u && !uses.contains u) ||
        (decide (op = 3) && decide (alg ≤ 3)) || (decide (op = 4) && decide (4 ≤ alg)), 2),
      ((rootless && (decide (op = 4) || bitAt a 27)) || (test && (bitAt a 27 || !bitAt a 24)), 4),
      (bitAt a 27 && s.bit SYS_PF_STAT 0, 7)] ++
      (if op = 2 then (decide (s.fld (KEY_SLOT_ATTR aux) 7 0 ≠ 3), 2) :: useRefusals s w aux 13 else [])
  else if op = 10 ∨ op = 11 then [sealed]
  else useRefusals s w k ([10, 11, 8, 9, 0, 0, 12, 12].getD (op - 6) 0) ++
    [(!([[2, 3], [2, 3], [1, 2, 3], [1, 2, 3], [], [], [4, 5], [6]].getD (op - 6) []).contains alg, 2)]

/-- The memory operands of a command: address, length, and whether the operation writes there (R469). -/
def Sys2Proof.Claims.operands (s : State) (k op : Nat) (tag : Bool) (o : KeyOp) : List (Nat × Nat × Bool) :=
  let tagLen := if tag then 32 else 16
  let src := (o.src, o.len, false)
  let aad := (s.ld (o.par + 12) 8 % 2 ^ 40, s.ld (o.par + 20) 4, false)
  [[], [src], [(o.par, 28, false), src], [src], [(o.par, 16, false)], [],
    [(o.par, 40, false), (o.par + 24, 16, true), src, (o.dst, o.len, true), aad],
    [(o.par, 40, false), src, (o.dst, o.len, true), aad],
    [(o.par, 24 + tagLen, false), (o.par + 24, tagLen, true), src], [(o.par, 24 + tagLen, false), src],
    [src, (o.dst, 32, true)], [src, (o.dst, 48, true)],
    [(o.par, if s.fld (KEY_SLOT_ATTR k) 7 0 = 5 then 144 else 96, false)], [(o.par, 5261, false), src]].getD op []

/-- R461, R462, R466, R468–R470, R477: a command whose slots and memory operands the master may use makes its operation busy
with the staged operands; the first condition that fails refuses it with its result, and one that comes while the operation is
busy is refused with result 8; both are counted. LOAD_CLEAR is the supervisor's alone. A master without the right on a slot is
stopped, with no effect on slots or operations. While the store is not enabled a command is ignored. (The layout of the
parameter block of codes 6 to 9, and result 2 for a slot whose algorithm the operation does not work with, are the model's
choices, log entries 169 and 170.) -/
def Sys2Proof.Claims.KeyCommands : Prop :=
  ∀ (w : Who) (k aux : Fin 64) (tag : Bool) (s : State), s.Canonical → Reaches w 18 s →
    let m := w.master.val
    let st := bank m KEY_OP_STAT
    let o : Nat → KeyOp := fun cmd => {
      slice := w.slice, cmd := cmd, len := s.rd (bank m KEY_OP_LEN),
      src := s.rd (bank m (KEY_OP_ADDR_LO 0)) + 2 ^ 32 * s.fld (bank m (KEY_OP_ADDR_HI 0)) 7 0,
      dst := s.rd (bank m (KEY_OP_ADDR_LO 1)) + 2 ^ 32 * s.fld (bank m (KEY_OP_ADDR_HI 1)) 7 0,
      par := s.rd (bank m (KEY_OP_ADDR_LO 2)) + 2 ^ 32 * s.fld (bank m (KEY_OP_ADDR_HI 2)) 7 0 }
    (∀ x, KeyCommand w k aux tag x →
      let i := x.1
      let op := x.2.1
      let kk := x.2.2.1
      let ax := x.2.2.2.1
      let tg := x.2.2.2.2
      let cmd := op + kk * 2 ^ 8 + (if tg then 2 ^ 15 else 0) + ax * 2 ^ 16
      let fits := (op = 1 → privileged w = true) ∧ (2 ≤ op → op ≤ 5 → s.may w 15 kk .wr = true) ∧
        (6 ≤ op → op ≠ 10 → op ≠ 11 → s.may w 15 kk .use = true) ∧ (op = 2 → s.may w 15 ax .use = true)
      (s.bit KEY_CTL 0 = false → Answers i s fun t => t.reply.at' m = {} ∧ t = { s with reply := t.reply }) ∧
      (s.bit KEY_CTL 0 = true → fits →
        (∀ x ∈ operands s kk op tg (o cmd), s.mayDram w x.1 x.2.1 (if x.2.2 then .wr else .rd) = true) →
        (∀ r, r = ((if (s.keyOps.at' m).isSome then [(true, 8)] else refusals s w op kk ax).find? (·.1)).map (·.2) →
          (r = none → Answers i s fun t =>
            t.rd st = 1 ∧ RegsBut [st] s t ∧
            t = { s with regs := t.regs, reply := t.reply, keyOps := s.keyOps.put m (some (o cmd)) }) ∧
          (∀ n, r = some n → Answers i s fun t =>
            t.rd st = setBits (s.rd st) 4 1 n ∧ t.rd KEY_REFUSED = incSat 32 (s.rd KEY_REFUSED) ∧
            Wrote [st, KEY_REFUSED] s t))) ∧
      (s.bit KEY_CTL 0 = true → ¬ fits → Answers i s fun t =>
        (t.reply.at' m).viol = true ∧ t.keyOps = s.keyOps ∧ t.keys = s.keys ∧ t.secure = s.secure ∧
        ∀ x, regOf [18] x = true → t.rd x = s.rd x))

/-- R462, R463, R467, R479: an EMPTY slot takes attributes and identifier; of a LOADED or POISONED one only use bits can be
cleared and `zot` set, any other change is refused. A debug unlock comes from the debug port alone; it is refused to a module
that holds the mandate or is sealed, and else brings the test root into use, empties the slots without `dbg` and leaves the
records. The tamper latches are cleared while no source is active. (An UNUSABLE slot takes no
write: the model's choice, log entry 171.) -/
def Sys2Proof.Claims.SlotCommands : Prop :=
  ∀ (w : Who) (k : Fin 64) (s : State), s.Canonical →
    let slots := (List.range 64).map KEY_SLOT_ATTR ++ (List.range 64).map KEY_SLOT_ID ++ (List.range 64).map KEY_SLOT_STAT
    let state := s.fld (KEY_SLOT_STAT k) 1 0
    let attr := s.rd (KEY_SLOT_ATTR k)
    let nop := fun (t : State) => t.reply.at' w.master = {} ∧ t = { s with reply := t.reply }
    let rej := fun (t : State) => t.rd KEY_EVT = raised (s.rd KEY_EVT) 5
    (∀ v : Word, Reaches w 18 s → s.may w 15 k .wr = true →
      let new := bits v.toNat 13 0 + bits v.toNat 31 24 * 2 ^ 24
      let kept := setBits (setBits attr 13 8 (bits attr 13 8 &&& bits new 13 8)) 26 26 (if bitAt attr 26 || bitAt new 26 then 1 else 0)
      (state = 0 → Answers (.slotAttrWrite w k false v) s fun t =>
        t.rd (KEY_SLOT_ATTR k) = new ∧ Wrote [KEY_SLOT_ATTR k] s t) ∧
      (state = 0 → Answers (.slotAttrWrite w k true v) s fun t =>
        t.rd (KEY_SLOT_ID k) = v.toNat ∧ Wrote [KEY_SLOT_ID k] s t) ∧
      (state = 1 ∨ state = 2 → new = kept → Answers (.slotAttrWrite w k false v) s fun t =>
        t.rd (KEY_SLOT_ATTR k) = kept ∧ Wrote [KEY_SLOT_ATTR k] s t) ∧
      (state = 1 ∨ state = 2 → new ≠ kept → Answers (.slotAttrWrite w k false v) s fun t =>
        t.rd (KEY_SLOT_ATTR k) = kept ∧ rej t ∧ Wrote [KEY_SLOT_ATTR k, KEY_EVT] s t) ∧
      (state = 3 → new ≠ attr → Answers (.slotAttrWrite w k false v) s fun t => rej t ∧ Wrote [KEY_EVT] s t) ∧
      (state = 3 → new = attr → Answers (.slotAttrWrite w k false v) s nop) ∧
      (state ≠ 0 → v.toNat ≠ s.rd (KEY_SLOT_ID k) → Answers (.slotAttrWrite w k true v) s fun t =>
        rej t ∧ Wrote [KEY_EVT] s t) ∧
      (state ≠ 0 → v.toNat = s.rd (KEY_SLOT_ID k) → Answers (.slotAttrWrite w k true v) s nop)) ∧
    (Sup w 18 s → w.master.val ≠ 12 → Answers (.debugUnlock w) s nop) ∧
    (Sup w 18 s → w.master.val = 12 → s.led.staged.length < 1024 →
      (s.mandate = true ∨ s.bit KEY_STAT 3 = true → Answers (.debugUnlock w) s fun t =>
        t.rd KEY_EVT = raised (s.rd KEY_EVT) 1 ∧ Recorded 3 18 s t ∧ RegsBut [KEY_EVT] s t ∧
        t = { s with regs := t.regs, reply := t.reply, led := t.led }) ∧
      (s.mandate = false → s.bit KEY_STAT 3 = false → Answers (.debugUnlock w) s fun t =>
        t.rd KEY_STAT = raised (s.rd KEY_STAT) 2 ∧ t.rd KEY_EVT = raised (s.rd KEY_EVT) 2 ∧ Recorded 3 18 s t ∧
        (∀ j, j < 64 →
          let a := s.rd (KEY_SLOT_ATTR j)
          let st := s.rd (KEY_SLOT_STAT j)
          let gone := bits st 1 0 ≠ 0 ∧ bitAt a 24 = false
          t.rd (KEY_SLOT_ATTR j) = (if gone then 0 else a) ∧
          t.rd (KEY_SLOT_ID j) = (if gone then 0 else s.rd (KEY_SLOT_ID j)) ∧
          t.rd (KEY_SLOT_STAT j) = (if gone then bits st 3 2 * 4
            else if bits st 1 0 ≠ 0 ∧ bitAt a 27 = true then setBits st 1 0 3 else st) ∧
          t.keys.at' j = (if gone then [] else s.keys.at' j)) ∧
        (∀ j, 64 ≤ j → t.keys.at' j = s.keys.at' j) ∧ RegsBut ([KEY_STAT, KEY_EVT] ++ slots) s t ∧
        t = { s with regs := t.regs, reply := t.reply, led := t.led, keys := t.keys })) ∧
    (Sup w 19 s → s.fld TMP_STAT 4 0 = 0 → s.led.staged.length < 1024 → Answers (.latchClear w) s fun t =>
      t.rd BKD_TAMPER = 0 ∧ t.rd TMP_EVT = raised (s.rd TMP_EVT) 8 ∧ Recorded 3 19 s t ∧ RegsBut [BKD_TAMPER, TMP_EVT] s t ∧
      t = { s with regs := t.regs, reply := t.reply, led := t.led }) ∧
    (Sup w 19 s → s.fld TMP_STAT 4 0 ≠ 0 → Answers (.latchClear w) s nop)

/-- R461, R462, R466, R468–R470, R477: a command whose slots and memory operands the master may use makes its operation busy
with the staged operands; the first condition that fails refuses it with its result, and one that comes while the operation is
busy is refused with result 8; both are counted. LOAD_CLEAR is the supervisor's alone. A master without the right on a slot is
stopped, with no effect on slots or operations. While the store is not enabled a command is ignored. (The layout of the
parameter block of codes 6 to 9, and result 2 for a slot whose algorithm the operation does not work with, are the model's
choices, log entries 169 and 170.)
R462, R463, R467, R479: an EMPTY slot takes attributes and identifier; of a LOADED or POISONED one only use bits can be
cleared and `zot` set, any other change is refused. A debug unlock comes from the debug port alone; it is refused to a module
that holds the mandate or is sealed, and else brings the test root into use, empties the slots without `dbg` and leaves the
records. The tamper latches are cleared while no source is active. (An UNUSABLE slot takes no
write: the model's choice, log entry 171.) -/
def Obligations.KeyCommands : Prop := Sys2Proof.Claims.KeyCommands ∧ Sys2Proof.Claims.SlotCommands

/-- The operation of master `m` ended with result `r`; with `use` its slot `k` was used. -/
def Sys2Proof.Claims.KeyEnded (m k r : Nat) (use : Bool) (more : List Nat) (s t : State) : Prop :=
  t.rd (bank m KEY_OP_STAT) = r * 2 ∧ t.rd KEY_OPS = incSat 32 (s.rd KEY_OPS) ∧ t.keyOps = s.keyOps.put m none ∧
    (use = true → t.rd (KEY_SLOT_USES k) = incSat 32 (s.rd (KEY_SLOT_USES k))) ∧
    RegsBut ([bank m KEY_OP_STAT, KEY_OPS] ++ (if use then [KEY_SLOT_USES k] else []) ++ more) s t

/-- Octets stand at an address, and the rest of memory is as before. -/
def Sys2Proof.Claims.StoredAt (a : Nat) (l : List Byte) (s t : State) : Prop :=
  t.rdBytes a l.length = l ∧ (∀ x, x < a ∨ a + l.length ≤ x → t.rdByte x = s.rdByte x)

/-- The key of R464 for a slot, a label and a generation: one step of the KDF over the root in use (R462). -/
def Sys2Proof.Claims.derived (s : State) (k gen : Nat) (label : List Byte) : List Byte :=
  hmac256 (if s.bit KEY_STAT 2 then hmac256 Config.romKey (bytesBE 8 Config.serial) else Config.root)
    (bytesBE 4 1 ++ padTo 16 label ++ [0] ++ bytesBE 8 Config.serial ++ bytesBE 1 k ++ bytesBE 4 gen ++ bytesBE 4 256)

/-- A record of R473: attribute word, identifier, IV, encrypted material, tag, zeros, then generation and CRC-32. -/
def Sys2Proof.Claims.RecordOf (s : State) (k gen : Nat) (mat l : List Byte) : Prop :=
  let aad := bytesLE 4 (s.rd (KEY_SLOT_ATTR k)) ++ bytesLE 4 (s.rd (KEY_SLOT_ID k))
  let key := derived s k gen ([0x47, 0x53, 0x4B, 0x39, 0x36, 0x2D, 0x50, 0x4B, 0x45, 0x4B].map (BitVec.ofNat 8))
  let iv := (l.drop 8).take 12
  let ct := gcmCrypt key iv (padTo 128 mat)
  l = aad ++ iv ++ ct ++ gcmTag key iv aad ct ++ List.replicate 28 0 ++ bytesLE 4 gen ++ bytesLE 4 (crc32 (l.take 196)) ∧
    iv.length = 12

/-- R464, R466, R469, R470, R473: a load puts its material into the slot under the next generation, first into the record not in
use where the slot is persistent; material of another length gives result 6. DERIVE and LOAD_WRAPPED do the same for theirs;
ZEROISE empties slot and records. Encryption, decryption, tags and digests store their result where the command says, and a tag
or signature that does not verify gives result 5 with nothing written. Where no operation is in progress nothing ends. (That ECDSA_VER and MLDSA_VER verify is a function the
model leaves open; the places in the parameter block of codes 6 to 9 are its choice.) -/
def Obligations.KeyOperations : Prop :=
  ∀ (m : Fin 13) (s : State), s.Canonical →
   (s.keyOps.at' m = none → Answers (.keyOpComplete m) s fun t => t = s) ∧
   (∀ o, s.keyOps.at' m = some o →
    let op := bits o.cmd 3 0
    let k := bits o.cmd 13 8
    let aux := bits o.cmd 21 16
    let attr := s.rd (KEY_SLOT_ATTR k)
    let alg := bits attr 7 0
    let need := [0, 32, 16, 32, 65, 97, 48].getD alg 0
    let key := s.keys.at' k
    let src := s.rdBytes o.src o.len
    let iv := s.rdBytes o.par 12
    let aad := s.rdBytes (s.ld (o.par + 12) 8 % 2 ^ 40) (s.ld (o.par + 20) 4)
    let gen := (s.rd (KEY_SLOT_GEN k) + 1) % 2 ^ 32
    let stat := s.rd (KEY_SLOT_STAT k)
    let i := Instr.keyOpComplete m
    let only := fun (t : State) => t = { s with regs := t.regs, keyOps := t.keyOps }
    let stores := fun (t : State) => Noted s t ∧ t = { s with
      regs := t.regs, keyOps := t.keyOps, mem := t.mem, poison := t.poison, red := t.red, slices := t.slices }
    let fails := fun (r : Nat) (t : State) => KeyEnded m k r false [] s t ∧ only t
    let used := fun (t : State) => KeyEnded m k 0 true [] s t ∧ only t
    let loads := fun (mat : List Byte) (more : List Nat) (t : State) =>
      t.rd (KEY_SLOT_GEN k) = gen ∧ t.keys = s.keys.put k mat ∧
      (bitAt attr 27 = false → KeyEnded m k 0 false ([KEY_SLOT_GEN k, KEY_SLOT_STAT k] ++ more) s t ∧
        t.rd (KEY_SLOT_STAT k) = setBits (setBits stat 15 8 mat.length) 4 0 (bits stat 3 2 * 4 + 1) ∧
        t = { s with regs := t.regs, keyOps := t.keyOps, keys := t.keys }) ∧
      (bitAt attr 27 = true →
        let r := if s.recInUse k = some 0 then 1 else 0
        KeyEnded m k 0 false ([KEY_SLOT_GEN k, KEY_SLOT_STAT k, KEY_PUPD] ++ more) s t ∧
        t.rd KEY_PUPD = incSat 32 (s.rd KEY_PUPD) ∧
        t.rd (KEY_SLOT_STAT k) = setBits (setBits stat 15 8 mat.length) 4 0 ((1 + 2 * r) * 4 + 1) ∧
        RecordOf s k gen mat (t.secure.at' (2 * k + r)) ∧ t.secure = s.secure.put (2 * k + r) (t.secure.at' (2 * k + r)) ∧
        t = { s with regs := t.regs, keyOps := t.keyOps, keys := t.keys, secure := t.secure, free := s.free + 1 })
    (op = 1 ∨ op = 3 → src.length = need → Answers i s (loads src [])) ∧
    (op = 1 ∨ op = 3 → src.length ≠ need → Answers i s (fails 6)) ∧
    (op = 2 → o.len ≠ need → Answers i s (fails 6)) ∧
    (op = 2 → o.len = need →
      let wkey := s.keys.at' aux
      let ad := bytesLE 4 attr ++ bytesLE 4 (s.rd (KEY_SLOT_ID k))
      (gcmTag wkey iv ad src = s.rdBytes (o.par + 12) 16 → (gcmCrypt wkey iv src).length = o.len →
        Answers i s fun t => loads (gcmCrypt wkey iv src) [KEY_SLOT_USES aux] t ∧
          t.rd (KEY_SLOT_USES aux) = incSat 32 (s.rd (KEY_SLOT_USES aux))) ∧
      (gcmTag wkey iv ad src ≠ s.rdBytes (o.par + 12) 16 → Answers i s (fails 5))) ∧
    (op = 4 →
      let mat := (derived s k gen (s.rdBytes o.par 16)).take need
      mat.length = need → Answers i s (loads mat [])) ∧
    (op = 5 → Answers i s fun t =>
      let all := bitAt attr 27 = true ∨ s.recInUse k ≠ none
      KeyEnded m k 0 false ([KEY_SLOT_ATTR k, KEY_SLOT_ID k, KEY_SLOT_STAT k] ++ (if all then [KEY_PUPD] else [])) s t ∧
      t.rd (KEY_SLOT_ATTR k) = 0 ∧ t.rd (KEY_SLOT_ID k) = 0 ∧
      t.rd (KEY_SLOT_STAT k) = (if all then 0 else bits stat 3 2 * 4) ∧
      (all → t.rd KEY_PUPD = incSat 32 (s.rd KEY_PUPD)) ∧
      t.secure = (if all then (s.secure.put (2 * k) []).put (2 * k + 1) [] else s.secure) ∧
      t = { s with regs := t.regs, keyOps := t.keyOps, secure := t.secure, keys := s.keys.put k [] }) ∧
    (op = 6 →
      let ct := gcmCrypt key iv src
      let tg := gcmTag key iv aad ct
      o.dst + ct.length ≤ o.par + 24 ∨ o.par + 24 + tg.length ≤ o.dst → Answers i s fun t =>
        KeyEnded m k 0 true [] s t ∧ t.rdBytes o.dst ct.length = ct ∧ t.rdBytes (o.par + 24) tg.length = tg ∧
        (∀ x, (x < o.dst ∨ o.dst + ct.length ≤ x) → (x < o.par + 24 ∨ o.par + 24 + tg.length ≤ x) → t.rdByte x = s.rdByte x) ∧
        stores t) ∧
    (op = 7 → gcmTag key iv aad src = s.rdBytes (o.par + 24) 16 → Answers i s fun t =>
      KeyEnded m k 0 true [] s t ∧ StoredAt o.dst (gcmCrypt key iv src) s t ∧ stores t) ∧
    (op = 7 → gcmTag key iv aad src ≠ s.rdBytes (o.par + 24) 16 → Answers i s (fails 5)) ∧
    (op = 8 ∨ op = 9 → ∀ tg, tg = (if alg = 1 then (hmac256 key src).take (if bitAt o.cmd 15 then 32 else 16)
        else gmac key iv src) →
      (op = 8 → Answers i s fun t => KeyEnded m k 0 true [] s t ∧ StoredAt (o.par + 24) tg s t ∧ stores t) ∧
      (op = 9 → tg = s.rdBytes (o.par + 24) tg.length → Answers i s used) ∧
      (op = 9 → tg ≠ s.rdBytes (o.par + 24) tg.length → Answers i s (fails 5))) ∧
    (op = 10 → Answers i s fun t => KeyEnded m k 0 false [] s t ∧ StoredAt o.dst (Machine.sha256 src) s t ∧ stores t) ∧
    (op = 11 → Answers i s fun t => KeyEnded m k 0 false [] s t ∧ StoredAt o.dst (Machine.sha384 src) s t ∧ stores t) ∧
    (op = 12 →
      let n := if alg = 5 then 48 else 32
      let good := Config.ecdsaVerify alg key (s.rdBytes o.par n) (s.rdBytes (o.par + n) (2 * n))
      (good = true → Answers i s used) ∧ (good = false → Answers i s (fails 5))) ∧
    (op = 13 →
      let pk := s.rdBytes o.par 1952
      let good := Machine.sha384 pk = key ∧ Config.mldsaVerify pk src (s.rdBytes (o.par + 1952) 3309) = true
      (good → Answers i s used) ∧ (¬ good → Answers i s (fails 5))))

/-- R471, R476, R477: a source that acts is latched, with its event and a record by its level, an input that changes
with Baize's record too; at level SEAL the operations in
progress end with result 7, zeros stored at their destination and their slots poisoned, and the store is sealed; at level ZERO the
root goes too, and the slots marked for it are emptied or left for line-rate use only, their records zeroised. A source that ends
is no longer shown, its latch stays; one that is not shown ends with nothing changed. (Which event bit Baize names in its record of
a tamper input is open in the spec, and left free.) -/
def Obligations.Tamper : Prop :=
  ∀ (src : Fin 5) (s : State), s.Canonical →
    let lvl := s.fld TMP_LVL (2 * src + 1) (2 * src)
    let slots := (List.range 64).map KEY_SLOT_ATTR ++ (List.range 64).map KEY_SLOT_ID ++ (List.range 64).map KEY_SLOT_STAT
    let nx := s.power.nx = true
    let fresh := src.val < 2 ∧ s.bit TMP_STAT src = false
    let zero := nx ∧ lvl = 3
    let sealing := nx ∧ 2 ≤ lvl
    let busy := fun (j : Nat) => ∃ m : Fin 13,
      (s.keyOps.at' m).any (fun o => bits o.cmd 3 0 != 10 && bits o.cmd 3 0 != 11 && bits o.cmd 13 8 == j) = true
    (s.power.ao = false → Answers (.tamperDetect src) s (fun t => t = s) ∧ Answers (.tamperSourceInactive src) s (fun t => t = s)) ∧
    (s.power.ao = true → s.led.staged.length < 1023 → (fresh → s.ledReady = true) → Answers (.tamperDetect src) s fun t =>
      t.rd TMP_STAT = (if sealing then raised (raised (s.rd TMP_STAT) src) 9 else raised (s.rd TMP_STAT) src) ∧
      t.rd TMP_EVT = raised (s.rd TMP_EVT) src ∧ t.rd BKD_TAMPER = raised (s.rd BKD_TAMPER) src ∧
      t.rd TMP_DETECT = (if lvl = 0 then s.rd TMP_DETECT else incSat 32 (s.rd TMP_DETECT)) ∧
      (∃ rs, t.led = { s.led with staged := s.led.staged ++ rs } ∧ rs.map (fun r => (r.sev, r.blk, r.at_)) =
        (if fresh then [(3, 22, s.clk)] else []) ++ (if nx ∧ 1 ≤ lvl then [(if lvl = 3 then 7 else 3, 19, s.clk)] else [])) ∧
      t.free = (if fresh then s.free + 1 else s.free) ∧
      t.rd KEY_STAT = (if zero then setBits (lowered (lowered (s.rd KEY_STAT) 0) 2) 4 3 3
        else if sealing then raised (s.rd KEY_STAT) 3 else s.rd KEY_STAT) ∧
      (¬ sealing → RegsBut [TMP_STAT, TMP_EVT, BKD_TAMPER, TMP_DETECT] s t ∧ t = { s with regs := t.regs, led := t.led, free := t.free }) ∧
      (sealing → (∀ m : Fin 13, t.keyOps.at' m = none ∧
          t.rd (bank m KEY_OP_STAT) = (if (s.keyOps.at' m).isSome then 7 * 2 else s.rd (bank m KEY_OP_STAT))) ∧
        (∀ m : Fin 13, ∀ o, s.keyOps.at' m = some o →
          ∀ x, o.dst ≤ x → x < o.dst + o.outLen → t.rdByte x = 0) ∧
        (∀ x, (∀ m : Fin 13, ∀ o, s.keyOps.at' m = some o → x < o.dst ∨ o.dst + o.outLen ≤ x) → t.rdByte x = s.rdByte x) ∧
        (∀ j, j < 64 →
          let a := s.rd (KEY_SLOT_ATTR j)
          let st := if busy j then setBits (s.rd (KEY_SLOT_STAT j)) 1 0 2 else s.rd (KEY_SLOT_STAT j)
          let hit := zero ∧ bitAt a 26 = true ∧ bits st 1 0 ≠ 0
          let gone := zero ∧ s.power.mem = true ∧ (hit ∧ bitAt a 27 = true ∨ s.recMarked j = true)
          let kept := if gone then setBits st 3 2 0 else st
          t.rd (KEY_SLOT_ATTR j) = (if hit ∧ bitAt a 25 = false then 0 else a) ∧
          t.rd (KEY_SLOT_ID j) = (if hit ∧ bitAt a 25 = false then 0 else s.rd (KEY_SLOT_ID j)) ∧
          t.keys.at' j = (if hit ∧ bitAt a 25 = false then [] else s.keys.at' j) ∧
          t.rd (KEY_SLOT_STAT j) = (if hit then (if bitAt a 25 = true then raised kept 4 else bits kept 3 2 * 4) else kept) ∧
          t.secure.at' (2 * j) = (if gone then [] else s.secure.at' (2 * j)) ∧
          t.secure.at' (2 * j + 1) = (if gone then [] else s.secure.at' (2 * j + 1))) ∧
        t.rd KEY_EVT = (if ∃ j : Fin 64, busy j then raised (s.rd KEY_EVT) 3 else s.rd KEY_EVT) ∧ Noted s t ∧
        RegsBut ([TMP_STAT, TMP_EVT, BKD_TAMPER, TMP_DETECT, KEY_STAT, KEY_EVT] ++ slots ++
          (List.range 13).map (fun m => bank m KEY_OP_STAT)) s t ∧
        t = { s with
          regs := t.regs, led := t.led, free := t.free, keys := t.keys, secure := t.secure, keyOps := t.keyOps, mem := t.mem,
          poison := t.poison, red := t.red, slices := t.slices })) ∧
    (s.power.ao = true → s.bit TMP_STAT src = true → 2 ≤ src.val → Answers (.tamperSourceInactive src) s fun t =>
      t.rd TMP_STAT = lowered (s.rd TMP_STAT) src ∧ Wrote [TMP_STAT] s t) ∧
    (s.power.ao = true → s.bit TMP_STAT src = true → src.val < 2 → s.ledReady = true → s.led.staged.length < 1024 →
      Answers (.tamperSourceInactive src) s fun t =>
        t.rd TMP_STAT = lowered (s.rd TMP_STAT) src ∧ Recorded 3 22 s t ∧ RegsBut [TMP_STAT] s t ∧
        t = { s with regs := t.regs, led := t.led, free := s.free + 1 }) ∧
    (s.bit TMP_STAT src = false → Answers (.tamperSourceInactive src) s fun t => t = s)

/-- The module after a reset, but for power, boot state and Baize (R491, R493, R510): every other field is as at reset, the
ledger's array, RED's copies of the epoch, the key records and the backup domain apart; registers read their reset values, but
for those of `more`, those that no reset reaches (R487, R503, R507), those of the always-on and backup domains, of which `ao`
says that the always-on ones are kept, and, without `cold`, the time unit and the counters. On-die memory reads as unwritten.
Baize is armed, and untouched where it was armed before. -/
def Sys2Proof.Claims.Blank (cold ao : Bool) (more : List Nat) (s t : State) : Prop :=
  let stays := fun (a : Nat) => cold = false ∧ (isCounter a = true ∨ regOf [1] a = true)
  t = { State.reset with
    clk := s.clk, pending := s.pending, free := s.free, regs := t.regs, mem := t.mem, poison := t.poison, out := t.out,
    power := t.power, boot := t.boot, led := { slots := s.led.slots }, guard := t.guard, bkd := t.bkd,
    red := { copies := s.red.copies }, secure := s.secure, helper := s.helper, grantSeq := s.grantSeq,
    time := (if cold then {} else s.time), trig := (if cold then [] else s.trig), bm := (if cold then [] else s.bm),
    recNo := (if cold then [] else s.recNo) } ∧
  (∀ a, a ∉ more → regOf [22] a = false →
    t.rd a = if a ∈ [SYS_BOOT, SYS_SECVER, SYS_STRAP, RED_STRAP] ∨ stays a ∨ regOf [21] a = true ∨ (ao = true ∧ regOf [19] a = true)
      then s.rd a else (resetWord a).toNat) ∧
  (t.power.ao = true → t.bit GRD_STAT 1 = true) ∧
  (ao = true → s.power.ao = true → s.bit GRD_STAT 1 = true → t.guard = s.guard ∧ ∀ a, regOf [22] a = true → t.rd a = s.rd a) ∧
  s.out <+: t.out

/-- A reset that gives a cold start leaves (R491, R510), with the power and boot state it began from. -/
def Sys2Proof.Claims.ColdState (p : Power) (b : Boot) (ao : Bool) (more : List Nat) (s t : State) : Prop :=
  Blank true ao ([SYS_PWR_STAT, LED_STAT] ++ more) s t ∧ t.bit SYS_PWR_STAT 1 = true ∧ t.bit LED_STAT 0 = p.mem ∧
  t.power = { p with cx := true, cxEn := true, cxConf := false, cxEnAt := s.clk, cxOffAt := none, refOk := true } ∧
  t.boot = { b with due := 1, resetAt := s.clk, recovery := false, digest := [], xspi := [] } ∧
  (∀ x, t.rdByte x = if onDie x then 0 else s.rdByte x) ∧
  [Output.pin .healthyN true, .pin .mandateN true] ⊆ t.out.drop s.out.length

/-- A warm reset leaves (R493): time and counters kept, a new token over the bolt copy's hash, DRAM as it was. -/
def Sys2Proof.Claims.WarmState (s t : State) : Prop :=
  let token := [0x574D5354, s.ld (0x1FC000000 + 0x20) 4, (s.boot.token + 1) % 65536]
  Blank false true ([SYS_PWR_STAT, SYS_PF_STAT, LED_STAT] ++ (List.range 4).map BKD_WTOKEN) s t ∧
  t.bit SYS_PWR_STAT 1 = true ∧ t.bit LED_STAT 0 = true ∧ t.rd SYS_PF_STAT = s.fld SYS_PF_STAT 0 0 ∧ t.bkd = s.bkd ∧
  t.power = { s.power with cx := true, cxEn := true, cxConf := false, cxEnAt := s.clk, cxOffAt := none, refOk := true } ∧
  (∀ k, k < 4 → t.rd (BKD_WTOKEN k) = (token ++ [crc32 (token.flatMap (bytesLE 4))]).getD k 0) ∧
  (∀ x, t.rdByte x = if onDie x then 0 else s.rdByte x)

/-- CX, NX and MEM are off (R24, R498, R510): all that is not in the MRAM or in the always-on and backup domains is lost. -/
def Sys2Proof.Claims.NxOff (more : List Nat) (s t : State) : Prop :=
  Blank true true more s t ∧ (∀ x, t.rdByte x = if x < 0x4800000000 then 0 else s.rdByte x) ∧
  t.boot = { s.boot with due := 0, kept := false } ∧
  [Output.pin .cxEn false, .pin .nxEn false, .pin .ppsOut false] ⊆ t.out.drop s.out.length

/-- R178, R490, R491, R493, R496, R510–R512: power-up, a reset pulse, the watchdog of a start, leaving recovery and a commanded
cold reset give a cold start with everything the reset reaches at reset; a warm reset keeps time and counters under a new token,
and is refused while slices run; `done` completes a start that may be completed, and is refused else. Where its condition does
not hold a reset has no effect. -/
def Obligations.Resets : Prop :=
  ∀ (w : Who) (s : State), s.Canonical →
    let rej := fun (t : State) => t.rd SYS_START_EVT = raised (s.rd SYS_START_EVT) 1 ∧ Wrote [SYS_START_EVT] s t
    (∀ (role : Fin 4) (pos : Fin 8) (boot : Fin 4),
      let strapped := fun (t : State) => t.rd SYS_STRAP = role + 4 * pos + 32 * boot ∧ t.rd RED_STRAP = role + 4 * pos
      let straps := [SYS_STRAP, RED_STRAP];
      (s.power.ao = false → Answers (.powerUp role pos boot) s fun t =>
        ColdState { s.power with
          nx := true, mem := true, ao := true, bk := true, nxEn := true, nxUpAt := s.clk, tries := 0, retry := none }
          { s.boot with seedDue := true } false (straps ++ [BKD_STAT, BKD_PCYCLE]) s t ∧ strapped t ∧
        t.fld SYS_PWR_STAT 7 4 = 0 ∧ t.rd BKD_PCYCLE = incSat 32 (s.rd BKD_PCYCLE) ∧ t.rd BKD_STAT = lowered (s.rd BKD_STAT) 1 ∧
        t.bkd = { s.bkd with copyDue := true }) ∧
      (s.power.ao = true → Answers (.powerUp role pos boot) s fun t => t = s) ∧
      (s.power.ao = false → Answers (.resetNPulse role pos boot) s fun t => t = s) ∧
      (s.power.ao = true → Answers (.resetNPulse role pos boot) s fun t =>
        ColdState (if s.power.nx then { s.power with tries := 0, retry := none } else { s.power with
            nx := true, mem := true, nxEn := true, nxUpAt := s.clk, tries := 0, retry := none })
          { s.boot with pfailAt := none, retained := false, seedDue := !s.power.nx || s.boot.seedDue } true straps s t ∧ strapped t ∧
        t.fld SYS_PWR_STAT 7 4 = 1 ∧ t.bkd = s.bkd)) ∧
    (s.power.ao = false → Answers .resetNLongHold s fun t => t = s) ∧
    (s.power.ao = true → s.power.nx = false ∨ s.boot.recovery = false → Answers .resetNLongHold s fun t =>
      t.rd BKD_START = setBits (s.rd BKD_START) 3 0 0 ∧ Wrote [BKD_START] s t) ∧
    (s.power.ao = true → s.power.nx = true → s.boot.recovery = true → Answers .resetNLongHold s fun t =>
      t.rd BKD_START = setBits (s.rd BKD_START) 3 0 0 ∧ t.fld SYS_PWR_STAT 7 4 = 1 ∧ t.bkd = s.bkd ∧
      ColdState s.power s.boot true [BKD_START] s t) ∧
    (let due := s.power.nx = true ∧ s.complete = false ∧ s.boot.recovery = false ∧ s.boot.resetAt + 30 * tSec ≤ s.clk;
      (due → Answers .startWatchdog s fun t => ColdState s.power s.boot true [] s t ∧ t.bkd = s.bkd) ∧
      (¬ due → Answers .startWatchdog s fun t => t = s)) ∧
    (Sup w 0 s → Answers (.coldReset w) s fun t => ColdState s.power s.boot true [] s t ∧ t.bkd = s.bkd) ∧
    (let free := ∀ k, 1 ≤ k → k < 256 → s.fld (XEC_SL_XSTAT k) 2 0 ≠ 1;
      (Sup w 0 s → free → s.led.staged = [] → Answers (.warmReset w) s fun t =>
        WarmState s t ∧ t.boot = { s.boot with
          due := 2, resetAt := s.clk, recovery := false, digest := [], xspi := [], token := s.boot.token + 1, kept := true }) ∧
      (Sup w 0 s → ¬ free → Answers (.warmReset w) s rej)) ∧
    (let may := s.boot.due = 0 ∧ s.complete = false ∧ s.boot.recovery = false ∧ s.bit SYS_START_STAT 6 = false
      let ms := (s.clk - s.boot.resetAt) / tMs % 2 ^ 32
      let stat := raised (s.rd SYS_START_STAT) 5
      let sp := s.fld XEC_SPARE 3 0;
      (Sup w 0 s → ¬ may → Answers (.done w) s rej) ∧
      (Sup w 0 s → may → s.led.staged.length < 1000 → s.bit TAE_CTL 1 = false ∨ (∀ r, r < 8 → s.recState r = 0) →
        s.bit RED_CTL 1 = false → Answers (.done w) s fun t =>
        t.complete = true ∧ t.rd SYS_START_STAT = stat ∧ t.rd SYS_START_EVT = raised (s.rd SYS_START_EVT) 0 ∧
        t.rd BKD_START = setBits (s.rd BKD_START) 3 0 0 ∧ t.rd SYS_BOOT = lowered (s.rd SYS_BOOT) 0 ∧
        t.rd SYS_SECVER = max (s.rd SYS_SECVER) s.boot.secver % 2 ^ 32 ∧ t.rd SYS_START_MS = ms ∧
        (s.power.cx = true → t.bit TAE_CTL 1 = false ∧
          ∀ p, p < 12 → t.rd (XEC_PAIR_STAT p) = setBits (s.rd (XEC_PAIR_STAT p)) 2 0 (if p = sp then 2 else 1)) ∧
        t.fld RED_STAT 2 0 = 0 ∧ HealthShown s t ∧
        RegsBut ([SYS_START_STAT, SYS_START_EVT, BKD_START, SYS_BOOT, SYS_SECVER, SYS_START_MS, TAE_CTL, XEC_STAT, RED_STAT] ++
          (List.range 12).map XEC_PAIR_STAT ++ healthRegs) s t ∧
        (∃ l r, t.led = { s.led with staged := s.led.staged ++ l ++ [r] } ∧ r.sev = 3 ∧ r.blk = 0 ∧ r.code = 0 ∧
          r.pay = [SYS_START_EVT % 0x100000, stat, ms]) ∧
        t = { s with
          regs := t.regs, reply := t.reply, complete := true, led := t.led, out := t.out, red := t.red, guard := t.guard,
          tae := t.tae }) ∧
      (Sup w 0 s → may → s.bit RED_CTL 1 = true → s.fld RED_STRAP 1 0 ≠ 0 → Answers (.done w) s fun t =>
        t.fld RED_STAT 2 0 = 0 ∧ t.bit RED_EVT 11 = true)) ∧
    (∀ x, s.power.retry = some x →
      let due := s.power.ao = true ∧ s.power.nx = false ∧ x ≤ s.clk;
      (due → Answers .nxEnRetry s fun t =>
        ColdState { s.power with nx := true, mem := true, nxEn := true, nxUpAt := s.clk, retry := none }
          { s.boot with seedDue := true } true [] s t ∧ t.fld SYS_PWR_STAT 7 4 = 3 ∧ t.bkd = s.bkd) ∧
      (¬ due → Answers .nxEnRetry s fun t => t = s)) ∧
    (s.power.retry = none → Answers .nxEnRetry s fun t => t = s)

/-- The copies that a start tries, in order (R489): by the start-attempt count, the boot strap, and the choice for the next start. -/
def Sys2Proof.Claims.triedCopies (s : State) : List Nat :=
  let c := s.fld BKD_START 3 0
  let strap := s.fld SYS_STRAP 6 5
  let first := if s.bit SYS_BOOT 0 then s.fld SYS_BOOT 1 1 else strap
  if 2 ≤ strap then (if c < 3 then [strap - 2] else [])
  else if c < 3 then [first, 1 - first] else if c < 6 then [1 - first, first] else []

/-- Why a copy does not verify, and the failing section (R487, R503): (0, 0) where it does. -/
def Sys2Proof.Claims.causeOf (s : State) (img : Option (List Byte)) : Nat × Nat :=
  match img with
  | none => (6, 0)
  | some l =>
    match [(!imgForm l || !anchorsOk l || !signedOk l, 1), (decide (imgSecver l < s.rd SYS_SECVER), 4),
        (decide (l.length < imgLen l), 6), (decide (hashOf l ≠ imgHash l), 2)].find? (·.1) with
    | some x => (x.2, 0)
    | none =>
      match (imgSections l).find? (fun x => decide (crc32 (slice l x.off x.len) ≠ x.crc)) with
      | some x => (3, x.idx)
      | none => (0, 0)

/-- Why a warm start is denied (R493): 0 where it is not. -/
def Sys2Proof.Claims.denied (s : State) (imgA imgB : Option (List Byte)) : Nat :=
  let words := (List.range 3).map (fun k => s.rd (BKD_WTOKEN k))
  let img := (if (triedCopies s).headD 0 = 0 then imgA else imgB).getD []
  (([(decide (words.headD 0 ≠ 0x574D5354) || decide (crc32 (words.flatMap (bytesLE 4)) ≠ s.rd (BKD_WTOKEN 3)), 1),
    (!s.boot.kept, 2), (decide (3 ≤ s.fld BKD_START 3 0) || s.bit SYS_BOOT 0, 3),
    (!imgForm img || !anchorsOk img || !signedOk img || decide (imgSecver img < s.rd SYS_SECVER) ||
      decide (imgHash img ≠ hashOf (s.rdBytes 0x1FC000000 (imgLen img))) || decide (wordLE img 0x20 ≠ s.rd (BKD_WTOKEN 1)), 4)].find?
    (·.1)).map (·.2)).getD 0

/-- R480, R487, R489, R490, R493, R495: a start that is not due does nothing. With tamper active it stops in tamper hold, the
compute die off, the count unchanged. Else the token is cleared and the count advanced; the copies are tried in order, and the
first that verifies is in use, its keys in slots 62 and 63, its octets in DRAM and every other word there zero; the cause and
section of one that failed before it are shown. A denied warm start shows its reason and goes on as a cold one; a warm start leaves
DRAM as it is. When no copy verifies the start ends in recovery, the flash released, MP alone enabled. (Images of the second and
third clause carry RETAIN sections only, whose application changes nothing.) -/
def Obligations.Starts : Prop :=
  ∀ (imgA imgB : Option (List Byte)) (rootOk dbgEn second : Bool) (met : List Bool) (s : State), s.Canonical →
    let cold := Instr.coldStart imgA imgB rootOk dbgEn second met
    let warm := Instr.warmStart imgA imgB rootOk dbgEn second met
    let image := fun (k : Nat) => if k = 0 then imgA else imgB
    let c := s.fld BKD_START 3 0
    let order := triedCopies s
    let deny := denied s imgA imgB
    let idle := fun (l : List Byte) => ∀ x ∈ imgSections l, x.type = 6 ∧ x.phase ≠ 0
    let h0 := s.helper.getD 0 default
    let h1 := s.helper.getD 1 default
    let fits := fun (h : HelperCopy) => h.crc = crc32 (h.data ++ bytesLE 8 h.check.toNat)
    let use0 := rootOk = true ∧ fits h0
    let use1 := second = true ∧ fits h1
    let began := fun (t : State) => t.boot.due = 0 ∧ t.fld SYS_START_STAT 19 16 = c ∧ t.fld BKD_START 3 0 = min (c + 1) 15 ∧
      (∀ k, k < 4 → t.rd (BKD_WTOKEN k) = 0) ∧ t.bit KEY_STAT 2 = dbgEn ∧
      (t.bit KEY_STAT 0 = true ↔ dbgEn = false ∧ (use0 ∨ use1)) ∧ (t.bit KEY_STAT 1 = true ↔ dbgEn = false ∧ ¬ (use0 ∨ use1)) ∧
      (t.bit KEY_STAT 5 = true ↔ dbgEn = false ∧ ¬ use0 ∧ use1) ∧
      (∀ e, s.newestEpoch = some e → e.epoch % 2 ^ 32 ≤ t.rd RED_EPOCH) ∧ t.bit TAE_CTL 1 = true ∧
      t.fld (XEC_SL_XSTAT 0) 2 0 = 1 ∧ t.complete = s.complete ∧ t.power = { s.power with cxConf := true } ∧
      t.grants = s.grants ∧ t.slices = s.slices ∧ t.bkd = s.bkd ∧ (s.boot.seedDue = false → t.time = s.time)
    let taken := fun (k : Nat) (l : List Byte) (t : State) => t.boot.recovery = false ∧ t.fld SYS_START_STAT 3 3 = k ∧
      t.rd RED_PLAT_ID = wordLE l 0x1C ∧ t.boot.digest = (l.drop 0x50).take 48 ∧ t.boot.secver = imgSecver l ∧
      t.rd (KEY_SLOT_ATTR 62) = 0x1005 ∧ t.fld (KEY_SLOT_STAT 62) 1 0 = 1 ∧ t.keys.at' 62 = ecdsaKey l ∧
      t.rd (KEY_SLOT_ATTR 63) = 0x1006 ∧ t.fld (KEY_SLOT_STAT 63) 1 0 = 1 ∧ t.keys.at' 63 = Machine.sha384 (mldsaKey l)
    (s.boot.due ≠ 1 ∨ s.power.nx = false → Answers cold s fun t => t = s) ∧
    (s.boot.due ≠ 2 ∨ s.power.nx = false → Answers warm s fun t => t = s) ∧
    (s.power.nx = true → ∀ x ∈ [(cold, 1), (warm, 2)], s.boot.due = x.2 →
      (s.tamperHolds = true → Answers x.1 s fun t =>
        t.bit SYS_START_STAT 6 = true ∧ t.bit TMP_STAT 8 = true ∧ t.power = { s.power with
          cx := false, cxEn := false, cxConf := false, cxOffAt := none } ∧
        t.boot = { s.boot with due := 0 } ∧ t.rd BKD_START = s.rd BKD_START ∧ t.keys = s.keys ∧
        (∀ k, k < 4 → t.rd (BKD_WTOKEN k) = 0) ∧ (∀ y, t.rdByte y = if onDie y then 0 else s.rdByte y)) ∧
      (s.tamperHolds = false → x.2 = 1 ∨ deny ≠ 0 →
        let shown := fun (t : State) => t.fld SYS_START_STAT 11 8 = (if x.2 = 1 then 0 else deny) ∧
          t.bit SYS_START_STAT 7 = decide (x.2 = 2) ∧
          t.fld SYS_STARTS 15 0 = (if x.2 = 1 then min (s.fld SYS_STARTS 15 0 + 1) 65535 else 1)
        (∀ k pre rest, order = pre ++ k :: rest → (∀ j ∈ pre, (causeOf s (image j)).1 ≠ 0) → causeOf s (image k) = (0, 0) →
          ∀ l, image k = some l → idle l → Answers x.1 s fun t =>
            began t ∧ shown t ∧ taken k l t ∧ t.fld SYS_START_STAT 2 0 = s.fld SYS_START_STAT 2 0 ∧
            (∀ j, pre = [j] → t.bit SYS_START_STAT 4 = true ∧ t.fld SYS_START_STAT 31 28 = (causeOf s (image j)).1 ∧
              t.fld SYS_START_STAT 27 20 = (causeOf s (image j)).2 % 256) ∧
            (∀ y, y < 0x200000000 → t.rdByte y =
              if 0x1FC000000 ≤ y then (l.take (imgLen l)).getD (y - 0x1FC000000) 0 else 0)) ∧
        ((causeOf s imgA).1 ≠ 0 → (causeOf s imgB).1 ≠ 0 → Answers x.1 s fun t =>
          began t ∧ shown t ∧ t.boot.recovery = true ∧ t.fld SYS_START_STAT 2 0 = 2 ∧ t.bit SYS_BOOT 0 = false ∧
          t.bit SYS_START_STAT 4 = true ∧ t.fld SYS_START_STAT 31 28 = (causeOf s imgB).1 ∧
          t.bit (SYS_XSPI_STAT 0) 2 = true ∧ t.bit (SYS_XSPI_STAT 1) 2 = true ∧ t.fld RED_STAT 2 0 = 0 ∧
          (∀ p, p < 9 → t.bit (MAC_CFG p) 0 = decide (p = 8)) ∧ (∀ y, y < 0x1FC000000 → t.rdByte y = 0))) ∧
      (s.tamperHolds = false → x.2 = 2 → deny = 0 → ∀ l, image (order.headD 0) = some l →
        let d := s.rdBytes 0x1FC000000 (imgLen l)
        idle d → Answers x.1 s fun t =>
          began t ∧ taken (order.headD 0) d t ∧ t.fld SYS_START_STAT 2 0 = 1 ∧ t.bit SYS_PF_STAT 1 = true ∧
          t.bit SYS_START_STAT 7 = false ∧ t.fld SYS_STARTS 31 16 = min (s.fld SYS_STARTS 31 16 + 1) 65535 ∧
          (∀ y, y < 0x200000000 → t.rdByte y = s.rdByte y)))

/-- R22, R24, R202, R498, R499, R510, R511: a power failure is noted, recorded and flushed; the retention step is a warm reset at its
time, once; the end of a failure before it shows `pf_clear`. A supply or clock fault is a module fault: health 0 and no mandate. SLEEP
is refused to a member in service and else takes the module to guard-only mode; a domain that goes off loses what it holds; an NX
rail that stays away is tried three times. Without its cause nothing changes. -/
def Sys2Proof.Claims.PowerFailures : Prop :=
  ∀ (w : Who) (s : State), s.Canonical →
    let same := fun (t : State) => t = s
    let faulted := fun (t : State) => t.moduleFault = true ∧ t.health = 0 ∧ t.mandate = false ∧
      (∀ x, x < 0x4800000000 → t.rdByte x = s.rdByte x)
    (s.power.nx = false ∨ s.boot.pfailAt ≠ none → Answers .pfailAssert s same) ∧
    (s.power.nx = true → s.boot.pfailAt = none → s.power.ao = false ∨ s.bit BKD_STAT 3 = false →
      (s.ledReady = false → s.led.staged.length < 1024 → Answers .pfailAssert s fun t =>
        t.bit SYS_PF_STAT 0 = true ∧ t.rd SYS_START_EVT = raised (s.rd SYS_START_EVT) 2 ∧ Recorded 7 20 s t ∧
        RegsBut [SYS_PF_STAT, SYS_START_EVT] s t ∧
        t = { s with regs := t.regs, led := t.led, boot := { s.boot with pfailAt := some s.clk, retained := false } }) ∧
      (s.ledReady = true → Answers .pfailAssert s fun t =>
        t.bit SYS_PF_STAT 0 = true ∧ t.rd SYS_START_EVT = raised (s.rd SYS_START_EVT) 2 ∧ t.led.staged = [] ∧
        t.bit LED_EVT 3 = true ∧ t.boot = { s.boot with pfailAt := some s.clk, retained := false } ∧
        ∀ x, x < 0x4800000000 → t.rdByte x = s.rdByte x)) ∧
    (s.boot.pfailAt = none → Answers .pfRetain s same ∧ Answers .pfailDeassert s same) ∧
    (∀ x, s.boot.pfailAt = some x →
      let due := s.power.nx = true ∧ s.bit SYS_PF_CFG 0 = true ∧ s.boot.retained = false ∧
        x + max (s.fld SYS_PF_CFG 15 8) 1 * tMs ≤ s.clk;
      (due → s.led.staged = [] → Answers .pfRetain s fun t => WarmState s t ∧ t.boot = { s.boot with
        due := 2, resetAt := s.clk, recovery := false, digest := [], xspi := [], token := s.boot.token + 1, kept := true,
        retained := true }) ∧
      (¬ due → Answers .pfRetain s same) ∧
      (s.power.nx = false → Answers .pfailDeassert s same) ∧
      (s.power.nx = true → Answers .pfailDeassert s fun t =>
        t.rd SYS_PF_STAT = lowered (s.rd SYS_PF_STAT) 0 ∧
        t.rd SYS_START_EVT = (if s.boot.retained then s.rd SYS_START_EVT else raised (s.rd SYS_START_EVT) 3) ∧
        RegsBut [SYS_PF_STAT, SYS_START_EVT] s t ∧
        t = { s with regs := t.regs, boot := { s.boot with pfailAt := none, retained := false } })) ∧
    (Sup w 0 s → s.member = 3 ∨ s.member = 4 ∨ s.member = 6 → Answers (.sleep w) s fun t =>
      t.rd SYS_PWR_STAT = raised (s.rd SYS_PWR_STAT) 0 ∧ Wrote [SYS_PWR_STAT] s t) ∧
    (Sup w 0 s → s.member ∉ [3, 4, 6] → s.led.staged = [] → Answers (.sleep w) s fun t => NxOff [] s t ∧
      t.power = { s.power with
        cx := false, cxEn := false, cxConf := false, cxOffAt := none, nx := false, nxEn := false, mem := false } ∧
      t.bkd = { s.bkd with copies := t.bkd.copies, copyDue := t.bkd.copyDue }) ∧
    (let due := s.power.ao = true ∧ s.power.nxEn = true ∧ s.power.nxUpAt + 20 * tMs ≤ s.clk;
      (due → Answers .nxRailTimeout s fun t => NxOff [] s t ∧ t.bkd = s.bkd ∧ t.power = { s.power with
        cx := false, cxEn := false, cxConf := false, cxOffAt := none, nx := false, nxEn := false, mem := false,
        tries := s.power.tries + 1, retry := if s.power.tries < 2 then some (s.clk + tSec) else none }) ∧
      (¬ due → Answers .nxRailTimeout s same)) ∧
    ((∀ x, s.power.cxOffAt = some x → s.clk < x) → Answers .cxPowerDown s same) ∧
    (∀ x, s.power.cxOffAt = some x → x ≤ s.clk → Answers .cxPowerDown s fun t =>
      t.power = { s.power with cx := false, cxEn := false, cxConf := false, cxOffAt := none } ∧ t.bit SYS_PWR_STAT 1 = false ∧
      t.slices = [] ∧ t.grants = [] ∧ t.prior = [] ∧ Output.pin .cxEn false ∈ t.out ∧
      (∀ a, regOf [2, 3, 4, 5, 6, 7, 8, 14, 15, 16] a = true → isCounter a = false → t.rd a = (resetWord a).toNat) ∧
      (∀ y, t.rdByte y = if onDie y then 0 else s.rdByte y)) ∧
    (let due := s.power.nx = true ∧ s.power.cxEn = true ∧ s.power.cxEnAt + 10 * tMs ≤ s.clk;
      (due → Answers .cxRailTimeout s fun t => t.moduleFault = true ∧ t.health = 0 ∧ t.mandate = false ∧
        t.power = { s.power with cx := false, cxEn := false, cxConf := false, cxOffAt := none }) ∧
      (¬ due → Answers .cxRailTimeout s same)) ∧
    (∀ rail, (s.power.nx = true → Answers (.supplyFault rail) s fun t => faulted t ∧ t.bit SYS_PF_STAT 0 = true) ∧
      (s.power.nx = false → Answers (.supplyFault rail) s same)) ∧
    (∀ pll, (s.power.nx = true → Answers (.referenceClockLoss pll) s fun t =>
        faulted t ∧ t.power = { s.power with refOk := if pll = none then false else s.power.refOk }) ∧
      (s.power.nx = false → Answers (.referenceClockLoss pll) s same)) ∧
    (s.power.ao = false → Answers .vddGuardLoss s same) ∧
    (s.power.ao = true → Answers .vddGuardLoss s fun t =>
      t.power.ao = false ∧ t.power.nx = false ∧ t.power.mem = (s.power.mem && !s.power.nx) ∧ t.power.retry = none ∧ t.guard = {} ∧
      t.rd BKD_STAT = raised (s.rd BKD_STAT) 1 ∧ t.bkd = s.bkd ∧ (∀ a, regOf [19, 22] a = true → t.rd a = (resetWord a).toNat) ∧
      (∀ a, regOf [21] a = true → a ≠ BKD_STAT → t.rd a = s.rd a) ∧
      (∀ o, o < 4 → s.bit GRD_STAT (8 + o) = true → Output.pin (.gtrip o) false ∈ t.out) ∧
      (s.power.nx = true → ∀ x, t.rdByte x = if x < 0x4800000000 then 0 else s.rdByte x))

/-- R502, R503: the patrol counts a word corrected, and poisons, counts and records one it cannot correct; it runs while it is enabled.
A flash command starts unless its interface is busy or released, its length is out of range, or it would change the copy in use; it
ends with its effect, or with `error`. (An error also for a buffer that does not lie in DRAM: the model's choice, log
entry 189.) -/
def Sys2Proof.Claims.ScrubAndFlash : Prop :=
  ∀ (w : Who) (s : State), s.Canonical →
    let same := fun (t : State) => t = s
    let patrols := s.power.nx = true ∧ s.power.mem = true ∧ s.bit XEC_CTL 5 = true
    (∀ addr (f : Fin 3), ¬ patrols ∨ f = 0 → Answers (.patrolScrub addr f) s same) ∧
    (∀ addr, patrols → Answers (.patrolScrub addr 1) s fun t =>
      t.rd SYS_SCRUB_CE = incSat 32 (s.rd SYS_SCRUB_CE) ∧ Wrote [SYS_SCRUB_CE] s t) ∧
    (∀ addr, patrols → s.led.staged.length < 1024 → Answers (.patrolScrub addr 2) s fun t =>
      t.rd SYS_SCRUB_UE = incSat 32 (s.rd SYS_SCRUB_UE) ∧ t.rd SYS_START_EVT = raised (s.rd SYS_START_EVT) 4 ∧
      t.poison.contains (addr / 8) = true ∧ (∀ y, y ≠ addr / 8 → t.poison.contains y = s.poison.contains y) ∧
      Recorded 3 0 s t ∧ RegsBut [SYS_SCRUB_UE, SYS_START_EVT] s t ∧
      t = { s with regs := t.regs, poison := t.poison, led := t.led }) ∧
    (∀ (k : Fin 2), ∀ x ∈ [(Instr.xspiRead w k, 1), (.xspiProgram w k, 2), (.xspiErase w k, 3)], Sup w 0 s →
      let st := s.rd (SYS_XSPI_STAT k)
      let len := s.rd (SYS_XSPI_LEN k)
      let addr := s.rd (SYS_XSPI_ADDR k)
      let buf := s.rd (SYS_XSPI_BUF_LO k) / 64 * 64 + 2 ^ 32 * s.fld (SYS_XSPI_BUF_HI k) 7 0
      let bad := bitAt st 0 = true ∨ bitAt st 2 = true ∨ (x.2 ≠ 1 ∧ s.fld SYS_START_STAT 3 3 = k) ∨
        (x.2 ≠ 3 ∧ (len = 0 ∨ 2 ^ 26 < len));
      (¬ bad → Answers x.1 s fun t =>
        t.rd (SYS_XSPI_STAT k) = 1 ∧ RegsBut [SYS_XSPI_STAT k] s t ∧ t = { s with
          regs := t.regs, reply := t.reply, boot := { s.boot with
            xspi := s.boot.xspi.put k (some { cmd := x.2, addr := if x.2 = 3 then addr / 2 ^ 16 * 2 ^ 16 else addr,
                                              len := len, buf := buf }) } }) ∧
      (bad → Answers x.1 s fun t => t.rd (SYS_XSPI_STAT k) = raised st 3 ∧ Wrote [SYS_XSPI_STAT k] s t)) ∧
    (∀ (k : Fin 2) data err, s.boot.xspi.at' k = none → Answers (.xspiDone k data err) s same) ∧
    (∀ (k : Fin 2) o data err, s.boot.xspi.at' k = some o →
      let boot := { s.boot with xspi := s.boot.xspi.put k none }
      let fits := o.cmd = 3 ∨ o.buf + o.len ≤ 0x200000000
      let stat := fun (v : Nat) (t : State) => t.rd (SYS_XSPI_STAT k) = v ∧ RegsBut [SYS_XSPI_STAT k] s t;
      (err = false → o.cmd = 1 → fits → Answers (.xspiDone k data err) s fun t =>
        StoredAt o.buf (padTo o.len data) s t ∧ stat 0 t ∧ Noted s t ∧
        t = { s with regs := t.regs, mem := t.mem, poison := t.poison, red := t.red, slices := t.slices, boot := boot }) ∧
      (err = false → o.cmd = 2 → fits → Answers (.xspiDone k data err) s fun t => stat 0 t ∧
        t = { s with regs := t.regs, out := s.out ++ [.program k o.addr (s.rdBytes o.buf o.len)], boot := boot }) ∧
      (err = false → o.cmd = 3 → Answers (.xspiDone k data err) s fun t => stat 0 t ∧
        t = { s with regs := t.regs, out := s.out ++ [.erase k o.addr], boot := boot }) ∧
      (err = true ∨ ¬ fits → Answers (.xspiDone k data err) s fun t => stat 2 t ∧
        t = { s with regs := t.regs, boot := boot }))

/-- R22, R24, R202, R498, R499, R510, R511: a power failure is noted, recorded and flushed; the retention step is a warm reset at its
time, once; the end of a failure before it shows `pf_clear`. A supply or clock fault is a module fault: health 0 and no mandate. SLEEP
is refused to a member in service and else takes the module to guard-only mode; a domain that goes off loses what it holds; an NX
rail that stays away is tried three times. Without its cause nothing changes.
R502, R503: the patrol counts a word corrected, and poisons, counts and records one it cannot correct; it runs while it is enabled.
A flash command starts unless its interface is busy or released, its length is out of range, or it would change the copy in use; it
ends with its effect, or with `error`. (An error also for a buffer that does not lie in DRAM: the model's choice, log
entry 189.) -/
def Obligations.PowerAndFlash : Prop := Sys2Proof.Claims.PowerFailures ∧ Sys2Proof.Claims.ScrubAndFlash

/-- A step takes the command at the front of the queue and runs it on the module with the queue's rest. On an empty queue it
is 8 ns of time: that an idle step is a tick is the model's choice (log entry 2). -/
def Obligations.StepRuns : Prop :=
  ∀ (i : Instr) (rest : List Instr) (s : State),
    step { s with pending := i :: rest } = exec i { s with pending := rest } ∧
    step { s with pending := [] } = .next (State.tick { s with pending := [] })

/-- R53: with a time unit in range (kept by every step, `StepKeeps`), a tick adds the increment to nanoseconds and fraction
and carries a full second into the 48-bit count of seconds; nanoseconds stay below 1,000,000,000, the fraction below 2^32. -/
def Obligations.TimeCounts : Prop :=
  ∀ s : State, s.power.nx = true → TimeOk s.time → s.time.sec < 2 ^ 48 →
    let t := s.tick.time
    let sum := s.time.ns * 2 ^ 32 + s.time.frac + s.time.incr
    let full := 1000000000 * 2 ^ 32
    t.incr = s.time.incr ∧ t.ns < 1000000000 ∧ t.frac < 2 ^ 32 ∧ t.sec < 2 ^ 48 ∧
      (sum < full → t.ns * 2 ^ 32 + t.frac = sum ∧ t.sec = s.time.sec) ∧
      (full ≤ sum → t.ns * 2 ^ 32 + t.frac + full = sum ∧ t.sec = (s.time.sec + 1) % 2 ^ 48)

/-- R442: of the crystal ticks of a window, those at the positions k · ⌊2^20 / |n|⌋, k = 0 to |n| − 1, and so exactly |n| of
them, are counted twice or not at all, every other one once; a value written is clamped to ±256 and taken at the next
window. -/
def Obligations.ClockTrim : Prop :=
  (∀ s : State,
    let n := s.bkd.trimN
    let p := s.bkd.trimPos
    let q := 2 ^ 20 / n.natAbs
    let hit := ∃ k, k < n.natAbs ∧ p = k * q
    let t := s.rtcTick.bkd
    (hit → 0 < n → t.rtc = s.bkd.rtc + 2) ∧ (hit → n < 0 → t.rtc = s.bkd.rtc) ∧ (¬hit → t.rtc = s.bkd.rtc + 1) ∧
      t.trimPos = (p + 1) % 2 ^ 20 ∧
      t.trimN = (if (p + 1) % 2 ^ 20 = 0 then max (-256) (min 256 (signed 10 (s.fld BKD_TRIM 9 0))) else n)) ∧
  (∀ n : Int, -256 ≤ n → n ≤ 256 → ((List.range (2 ^ 20)).filter (trimAt n)).length = n.natAbs)

/-- R54, R492, R510: at reset every domain is on, a cold start is due, no command waits, time stands at 0 with the nominal
increment and every register reads its reset value; memory reads as unwritten (the value 0 is the model's choice, log entry
3, as are the reset values of log entry 4); what `StepKeeps` says every step keeps holds. -/
def Obligations.ResetState : Prop :=
  State.reset.Canonical ∧ TimeOk State.reset.time ∧ State.reset.pending = [] ∧ State.reset.clk = 0 ∧
    State.reset.boot.due = 1 ∧ State.reset.complete = false ∧ State.reset.power.cx = true ∧ State.reset.power.nx = true ∧
    State.reset.power.mem = true ∧ State.reset.power.ao = true ∧ State.reset.power.bk = true ∧
    State.reset.time.sec = 0 ∧ State.reset.time.ns = 0 ∧ State.reset.time.incr = 8 * 2 ^ 32 ∧
    (∀ a, State.reset.rd a = (resetWord a).toNat) ∧ (∀ x, State.reset.rdByte x = 0)

/-- Whatever its operands and the module's state, a command ends in a next state; no time passes in it (R53, R55), the
commands that wait stay, what has left the module stays as it left, and free values are only drawn. -/
def Obligations.EveryCommandGoesOn : Prop :=
  ∀ (i : Instr) (s : State),
    Answers i s fun t => t.clk = s.clk ∧ t.pending = s.pending ∧ s.out <+: t.out ∧ s.free ≤ t.free

/-- R13, R53, R54: every step, a command's or an idle one, from any state keeps memory, registers, answers and tables in
canonical form, nanoseconds below a second, the fraction below one nanosecond and the increment within 0.05 % of 8 ns. -/
def Obligations.StepKeeps : Prop :=
  ∀ s t : State, s.Canonical → TimeOk s.time → step s = .next t → t.Canonical ∧ TimeOk t.time
end

