-- ==== Sys2Proof/Laws/FMap.lean ====
section
/-!
SUPPORT. Sparse tables: a read after a write, what a write leaves alone, and that writes and filters keep the canonical
form.
-/

namespace Sys2Proof.Machine

variable {α : Type} [DecidableEq α] {d : Nat → α}

/-- A write leaves every other key as it was. -/
theorem FMap.get_set_other {k j : Nat} (h : j ≠ k) (v : α) (m : FMap α) : FMap.get d j (FMap.set d k v m) = FMap.get d j m := by
  induction m with
  | nil => by_cases hv : v = d k <;> simp [FMap.set, FMap.get, hv, Ne.symm h]
  | cons e rest ih =>
    obtain ⟨i, w⟩ := e
    simp only [FMap.set]
    split_ifs with h1 h2 h3 h4
    · simp [FMap.get, ih]
    · subst h2; simp [FMap.get, Ne.symm h]
    · subst h2; simp [FMap.get, Ne.symm h]
    · rfl
    · simp [FMap.get, Ne.symm h]

/-- Below every listed key a table reads as unlisted. -/
theorem FMap.get_above {k : Nat} (m : FMap α) (hw : FMap.wf d m = true) (h : FMap.above k m = true) : FMap.get d k m = d k := by
  induction m with
  | nil => rfl
  | cons e rest ih =>
    obtain ⟨i, w⟩ := e
    simp only [FMap.above, decide_eq_true_eq] at h
    simp only [FMap.wf, Bool.and_eq_true] at hw
    have hr : FMap.above k rest = true := by
      cases rest with
      | nil => rfl
      | cons e2 r2 =>
        have := hw.1.2
        simp only [FMap.above, decide_eq_true_eq] at this ⊢
        omega
    simp [FMap.get, Nat.ne_of_gt h, ih hw.2 hr]

/-- A read of the key just written gives the value written. -/
theorem FMap.get_set_same {k : Nat} {v : α} {m : FMap α} (hw : FMap.wf d m = true) : FMap.get d k (FMap.set d k v m) = v := by
  induction m with
  | nil => by_cases hv : v = d k <;> simp [FMap.set, FMap.get, hv]
  | cons e rest ih =>
    obtain ⟨i, w⟩ := e
    have hw' := hw
    simp only [FMap.wf, Bool.and_eq_true] at hw
    simp only [FMap.set]
    split_ifs with h1 h2 h3 h4
    · simp [FMap.get, Nat.ne_of_lt h1, ih hw.2]
    · subst h2; rw [h3]; exact FMap.get_above rest hw.2 hw.1.2
    · simp [FMap.get]
    · rw [h4]
      exact FMap.get_above _ hw' (by simp only [FMap.above, decide_eq_true_eq]; omega)
    · simp [FMap.get]

/-- Every key of a table stays above `j` when a key above `j` is written. -/
theorem FMap.above_set {j k : Nat} {v : α} {m : FMap α} (hw : FMap.wf d m = true) (h : FMap.above j m = true) (hk : j < k) :
    FMap.above j (FMap.set d k v m) = true := by
  cases m with
  | nil => by_cases hv : v = d k <;> simp [FMap.set, FMap.above, hv, hk]
  | cons e rest =>
    obtain ⟨i, w⟩ := e
    simp only [FMap.above, decide_eq_true_eq] at h
    simp only [FMap.wf, Bool.and_eq_true] at hw
    simp only [FMap.set]
    split_ifs with h1 h2 h3 h4
    · simpa [FMap.above] using h
    · cases rest with
      | nil => rfl
      | cons e2 r2 =>
        have := hw.1.2
        simp only [FMap.above, decide_eq_true_eq] at this ⊢
        omega
    · simpa [FMap.above] using hk
    · simpa [FMap.above] using h
    · simpa [FMap.above] using hk

/-- A write keeps the canonical form. -/
theorem FMap.wf_set {k : Nat} {v : α} {m : FMap α} (hw : FMap.wf d m = true) : FMap.wf d (FMap.set d k v m) = true := by
  induction m with
  | nil => by_cases hv : v = d k <;> simp [FMap.set, FMap.wf, FMap.above, hv]
  | cons e rest ih =>
    obtain ⟨i, w⟩ := e
    have hw' := hw
    simp only [FMap.wf, Bool.and_eq_true, decide_eq_true_eq] at hw
    simp only [FMap.set]
    split_ifs with h1 h2 h3 h4
    · simp only [FMap.wf, Bool.and_eq_true, decide_eq_true_eq]
      exact ⟨⟨hw.1.1, FMap.above_set hw.2 hw.1.2 h1⟩, ih hw.2⟩
    · exact hw.2
    · subst h2
      simp only [FMap.wf, Bool.and_eq_true, decide_eq_true_eq]
      exact ⟨⟨h3, hw.1.2⟩, hw.2⟩
    · exact hw'
    · simp only [FMap.wf, Bool.and_eq_true, decide_eq_true_eq]
      refine ⟨⟨h4, ?_⟩, hw.1, hw.2⟩
      simp only [FMap.above, decide_eq_true_eq]; omega

/-- Every key of a table above `j` stays so under a filter. -/
theorem FMap.above_filter {j : Nat} {p : Nat × α → Bool} {m : FMap α} (hw : FMap.wf d m = true) (h : FMap.above j m = true) :
    FMap.above j (m.filter p) = true := by
  induction m with
  | nil => rfl
  | cons e rest ih =>
    obtain ⟨i, w⟩ := e
    simp only [FMap.above, decide_eq_true_eq] at h
    simp only [FMap.wf, Bool.and_eq_true] at hw
    simp only [List.filter_cons]
    split_ifs with hp
    · simpa [FMap.above] using h
    · refine ih hw.2 ?_
      cases rest with
      | nil => rfl
      | cons e2 r2 =>
        have := hw.1.2
        simp only [FMap.above, decide_eq_true_eq] at this ⊢
        omega

/-- A filter keeps the canonical form. -/
theorem FMap.wf_filter {p : Nat × α → Bool} {m : FMap α} (hw : FMap.wf d m = true) : FMap.wf d (m.filter p) = true := by
  induction m with
  | nil => rfl
  | cons e rest ih =>
    obtain ⟨i, w⟩ := e
    simp only [FMap.wf, Bool.and_eq_true, decide_eq_true_eq] at hw
    simp only [List.filter_cons]
    split_ifs with hp
    · simp only [FMap.wf, Bool.and_eq_true, decide_eq_true_eq]
      exact ⟨⟨hw.1.1, FMap.above_filter hw.2 hw.1.2⟩, ih hw.2⟩
    · exact ih hw.2

/-- What is listed at a key of the tail is above the head's key. -/
theorem FMap.get_head {i : Nat} {w : α} {rest : FMap α} (hw : FMap.wf d ((i, w) :: rest) = true) : FMap.get d i rest = d i := by
  simp only [FMap.wf, Bool.and_eq_true] at hw
  exact FMap.get_above rest hw.2 hw.1.2

/-- Canonical tables that read alike are equal. -/
theorem FMap.ext_wf {m n : FMap α} (hm : FMap.wf d m = true) (hn : FMap.wf d n = true)
    (h : ∀ k, FMap.get d k m = FMap.get d k n) : m = n := by
  induction m generalizing n with
  | nil =>
    cases n with
    | nil => rfl
    | cons e r =>
      obtain ⟨i, w⟩ := e
      have := h i
      simp only [FMap.wf, Bool.and_eq_true, decide_eq_true_eq] at hn
      simp [FMap.get] at this
      exact absurd this.symm hn.1.1
  | cons e r ih =>
    obtain ⟨i, w⟩ := e
    cases n with
    | nil =>
      have := h i
      simp only [FMap.wf, Bool.and_eq_true, decide_eq_true_eq] at hm
      simp [FMap.get] at this
      exact absurd this hm.1.1
    | cons e2 r2 =>
      obtain ⟨j, x⟩ := e2
      have hm' := hm
      have hn' := hn
      simp only [FMap.wf, Bool.and_eq_true, decide_eq_true_eq] at hm hn
      rcases Nat.lt_trichotomy i j with hij | hij | hij
      · have := h i
        rw [FMap.get_above ((j, x) :: r2) hn' (by simpa [FMap.above] using hij)] at this
        simp [FMap.get] at this
        exact absurd this hm.1.1
      · subst hij
        have hx := h i
        simp [FMap.get] at hx
        subst hx
        congr 1
        refine ih hm.2 hn.2 fun k => ?_
        by_cases hk : i = k
        · subst hk; rw [FMap.get_head hm', FMap.get_head hn']
        · have := h k
          simpa [FMap.get, hk] using this
      · have := h j
        rw [FMap.get_above ((i, w) :: r) hm' (by simpa [FMap.above] using hij)] at this
        simp [FMap.get] at this
        exact absurd this.symm hn.1.1

end Sys2Proof.Machine
end

