-- ==== Sys2Proof/Laws/Kept.lean ====
section
/-!
SUPPORT. What every operation keeps, said once: the tick count, the queue, the canonical form of memory and registers, the
range of the time unit; free values are only drawn and outputs only added.
-/

namespace Sys2Proof.Machine

/-- What holds of `t` whenever an operation made it from `s`. -/
structure Kept (s t : State) : Prop where
  clk     : t.clk = s.clk
  pending : t.pending = s.pending
  mem     : Memory.wf s.mem = true → Memory.wf t.mem = true
  regs    : FMap.wf resetWord s.regs = true → FMap.wf resetWord t.regs = true
  reply   : Replies.wf s.reply = true → Replies.wf t.reply = true
  time    : TimeOk s.time → TimeOk t.time
  tables  : s.Tables → t.Tables
  free    : s.free ≤ t.free
  out     : s.out <+: t.out

theorem Kept.refl (s : State) : Kept s s := ⟨rfl, rfl, id, id, id, id, id, le_refl _, List.prefix_refl _⟩

theorem Kept.trans {r s t : State} (h : Kept r s) (k : Kept s t) : Kept r t :=
  ⟨k.clk.trans h.clk, k.pending.trans h.pending, k.mem ∘ h.mem, k.regs ∘ h.regs, k.reply ∘ h.reply, k.time ∘ h.time, k.tables ∘ h.tables, h.free.trans k.free,
    h.out.trans k.out⟩

/-- A change that touches none of the fields. -/
theorem Kept.upd {r s t : State} (h : Kept r s) (h1 : t.clk = s.clk) (h2 : t.pending = s.pending) (h3 : t.mem = s.mem)
    (h4 : t.regs = s.regs) (h4' : t.reply = s.reply) (h5 : t.time = s.time) (ht : s.Tables → t.Tables) (h6 : t.free = s.free)
    (h7 : t.out = s.out) : Kept r t :=
  h.trans ⟨h1, h2, by rw [h3]; exact id, by rw [h4]; exact id, by rw [h4']; exact id, by rw [h5]; exact id, ht, by rw [h6],
    by rw [h7]⟩

/-- A change that touches none of the fields and no table, as a record update elaborates. -/
theorem Kept.fields {r s : State} {poison sieIn blockFail : List Nat} {power : Power} {complete moduleFault :
    Bool} {xcommit : XCommit} {cen : Census} {grantSeq : Nat} {xfer : Option Xfer} {led : Ledger} {fdcQ psuQ dzeQ :
    List Close} {pubQ : List PubReq} {swc : Switch} {red : Red} {cas : Cas} {boot : Boot} {helper : List HelperCopy}
    {guard : Guard} {bkd : Backup} {hotFrom coolFrom : Option Nat} (h : Kept r s) :
    Kept r {
      pending := s.pending, clk := s.clk, free := s.free, regs := s.regs, mem := s.mem, poison, readLatch :=
      s.readLatch, writeLatch := s.writeLatch, latched := s.latched, reply := s.reply, out := s.out, power, complete,
      stall := s.stall, door := s.door, staged := s.staged, xcommit, prior := s.prior, time := s.time, trig := s.trig,
      bm := s.bm, weft := s.weft, cen, pairs := s.pairs, slices := s.slices, closedGp := s.closedGp, closedSeq :=
      s.closedSeq, grants := s.grants, grantSeq, xfer, led, sie := s.sie, openPts := s.openPts, sieIn, fdcQ, psuQ,
      dzeQ, fdc := s.fdc, psu := s.psu, dze := s.dze, pubQ, pub := s.pub, watch := s.watch, subs := s.subs, swc, red,
      cas, boot, tae := s.tae, taeQ := s.taeQ, recNo := s.recNo, rgeQ := s.rgeQ, loops := s.loops, lge := s.lge, can
      := s.can, lzSeq := s.lzSeq, keys := s.keys, secure := s.secure, helper, keyOps := s.keyOps, guard, bkd,
      blockFail, faults := s.faults, hotFrom, coolFrom, moduleFault } :=
  h.upd rfl rfl rfl rfl rfl rfl id rfl rfl

/-- A change of tables that keeps their canonical form, as a record update elaborates. -/
theorem Kept.tabs {r s : State} {poison sieIn blockFail : List Nat} {readLatch writeLatch : FMap (Option Nat)}
    {latched stall door closedGp closedSeq recNo lzSeq : FMap Nat} {power : Power} {complete moduleFault : Bool}
    {staged : FMap Staged} {xcommit : XCommit} {prior : FMap (List Prior)} {trig : FMap Trig} {bm : FMap BmPort} {weft
    : FMap Weft} {cen : Census} {pairs : FMap Pair} {slices : FMap Slice} {grants : FMap Grant} {grantSeq : Nat} {xfer
    : Option Xfer} {led : Ledger} {sie : FMap Sie} {openPts : FMap (List OpenPt)} {fdcQ psuQ dzeQ : List Close} {fdc :
    FMap Fdc} {psu : FMap Psu} {dze : FMap Dze} {pubQ : List PubReq} {pub : FMap PubEnt} {watch : FMap Watch} {subs :
    FMap Sub} {swc : Switch} {red : Red} {cas : Cas} {boot : Boot} {tae : FMap Recorder} {taeQ rgeQ : FMap (List
    Close)} {loops : FMap Loop} {lge : FMap (Option LgeProg)} {can : FMap Can} {keys secure : FMap (List Byte)}
    {helper : List HelperCopy} {keyOps : FMap (Option KeyOp)} {guard : Guard} {bkd : Backup} {faults : FMap (List
    Nat)} {hotFrom coolFrom : Option Nat} (h : Kept r s) (h0 : FMap.tidy s.readLatch = true → FMap.tidy readLatch =
    true) (h1 : FMap.tidy s.writeLatch = true → FMap.tidy writeLatch = true) (h2 : FMap.tidy s.latched = true →
    FMap.tidy latched = true) (h3 : FMap.tidy s.stall = true → FMap.tidy stall = true) (h4 : FMap.tidy s.door = true →
    FMap.tidy door = true) (h5 : FMap.tidy s.staged = true → FMap.tidy staged = true) (h6 : FMap.tidy s.trig = true →
    FMap.tidy trig = true) (h7 : FMap.tidy s.bm = true → FMap.tidy bm = true) (h8 : FMap.tidy s.weft = true →
    FMap.tidy weft = true) (h9 : FMap.tidy s.pairs = true → FMap.tidy pairs = true) (h10 : FMap.tidy s.slices = true →
    FMap.tidy slices = true) (h11 : FMap.tidy s.closedGp = true → FMap.tidy closedGp = true) (h12 : FMap.tidy
    s.closedSeq = true → FMap.tidy closedSeq = true) (h13 : FMap.tidy s.grants = true → FMap.tidy grants = true) (h14
    : FMap.tidy s.sie = true → FMap.tidy sie = true) (h15 : FMap.tidy s.openPts = true → FMap.tidy openPts = true)
    (h16 : FMap.tidy s.fdc = true → FMap.tidy fdc = true) (h17 : FMap.tidy s.psu = true → FMap.tidy psu = true) (h18 :
    FMap.tidy s.dze = true → FMap.tidy dze = true) (h19 : FMap.tidy s.pub = true → FMap.tidy pub = true) (h20 :
    FMap.tidy s.watch = true → FMap.tidy watch = true) (h21 : FMap.tidy s.subs = true → FMap.tidy subs = true) (h22 :
    FMap.tidy s.tae = true → FMap.tidy tae = true) (h23 : FMap.tidy s.taeQ = true → FMap.tidy taeQ = true) (h24 :
    FMap.tidy s.recNo = true → FMap.tidy recNo = true) (h25 : FMap.tidy s.rgeQ = true → FMap.tidy rgeQ = true) (h26 :
    FMap.tidy s.loops = true → FMap.tidy loops = true) (h27 : FMap.tidy s.lge = true → FMap.tidy lge = true) (h28 :
    FMap.tidy s.can = true → FMap.tidy can = true) (h29 : FMap.tidy s.lzSeq = true → FMap.tidy lzSeq = true) (h30 :
    FMap.tidy s.keys = true → FMap.tidy keys = true) (h31 : FMap.tidy s.secure = true → FMap.tidy secure = true) (h32
    : FMap.tidy s.keyOps = true → FMap.tidy keyOps = true) (h33 : FMap.tidy s.prior = true → FMap.tidy prior = true)
    (h34 : FMap.tidy s.faults = true → FMap.tidy faults = true) :
    Kept r {
      pending := s.pending, clk := s.clk, free := s.free, regs := s.regs, mem := s.mem, poison, readLatch, writeLatch,
      latched, reply := s.reply, out := s.out, power, complete, stall, door, staged, xcommit, prior, time := s.time,
      trig, bm, weft, cen, pairs, slices, closedGp, closedSeq, grants, grantSeq, xfer, led, sie, openPts, sieIn, fdcQ,
      psuQ, dzeQ, fdc, psu, dze, pubQ, pub, watch, subs, swc, red, cas, boot, tae, taeQ, recNo, rgeQ, loops, lge, can,
      lzSeq, keys, secure, helper, keyOps, guard, bkd, blockFail, faults, hotFrom, coolFrom, moduleFault } :=
  h.upd rfl rfl rfl rfl rfl rfl
    (fun ⟨t0, t1, t2, t3, t4, t5, t6, t7, t8, t9, t10, t11, t12, t13, t14, t15, t16, t17, t18, t19, t20, t21, t22,
    t23, t24, t25, t26, t27, t28, t29, t30, t31, t32, t33, t34⟩ => ⟨h0 t0, h1 t1, h2 t2, h3 t3, h4 t4, h5 t5, h6 t6,
    h7 t7, h8 t8, h9 t9, h10 t10, h11 t11, h12 t12, h13 t13, h14 t14, h15 t15, h16 t16, h17 t17, h18 t18, h19 t19, h20
    t20, h21 t21, h22 t22, h23 t23, h24 t24, h25 t25, h26 t26, h27 t27, h28 t28, h29 t29, h30 t30, h31 t31, h32 t32,
    h33 t33, h34 t34⟩) rfl rfl

/-- A table with one entry changed keeps the canonical form. -/
theorem FMap.tidy_mod {α : Type} [Inhabited α] [DecidableEq α] {m : FMap α} {k : Nat} {f : α → α} (h : FMap.tidy m = true) :
    FMap.tidy (m.mod k f) = true := FMap.wf_set h

/-- A table with one entry put keeps the canonical form. -/
theorem FMap.tidy_put {α : Type} [Inhabited α] [DecidableEq α] {m : FMap α} {k : Nat} {v : α} (h : FMap.tidy m = true) :
    FMap.tidy (m.put k v) = true := FMap.wf_set h

/-- The empty table is in canonical form. -/
theorem FMap.tidy_nil {α : Type} [Inhabited α] [DecidableEq α] : FMap.tidy ([] : FMap α) = true := rfl

/-- Entries changed one after another keep the canonical form. -/
theorem FMap.tidy_foldl {α β : Type} [Inhabited α] [DecidableEq α] {m : FMap α} {f : FMap α → β → FMap α} {l : List β}
    (hf : ∀ x y, FMap.tidy x = true → FMap.tidy (f x y) = true) (h : FMap.tidy m = true) : FMap.tidy (l.foldl f m) = true := by
  induction l generalizing m with
  | nil => exact h
  | cons x l ih => exact ih (hf _ _ h)

/-- A change of values that keeps the keys and makes no entry a default keeps the canonical form. -/
theorem FMap.tidy_map {α : Type} [Inhabited α] [DecidableEq α] {m : FMap α} {f : Nat × α → Nat × α} (hk : ∀ e, (f e).1 = e.1)
    (hv : ∀ e, e.2 ≠ default → (f e).2 ≠ default) (h : FMap.tidy m = true) : FMap.tidy (m.map f) = true := by
  induction m with
  | nil => rfl
  | cons e l ih =>
    obtain ⟨k, v⟩ := e
    simp only [FMap.tidy, FMap.wf, Bool.and_eq_true, decide_eq_true_eq] at h
    have hl := ih h.2
    have h1 := hv (k, v) h.1.1
    have h2 := hk (k, v)
    simp only [List.map_cons]
    rw [show f (k, v) = (k, (f (k, v)).2) from Prod.ext h2 rfl]
    simp only [FMap.tidy, FMap.wf, Bool.and_eq_true, decide_eq_true_eq]
    refine ⟨⟨h1, ?_⟩, hl⟩
    cases l with
    | nil => rfl
    | cons x l =>
      have := h.1.2
      simp only [List.map_cons, FMap.above, decide_eq_true_eq] at this ⊢
      rw [hk x]; exact this

/-- A state on the way. -/
theorem Kept.cut {r s t : State} (h : Kept r s) (f : Kept r s → Kept r t) : Kept r t := f h

/-- A state and a result on the way. -/
theorem Kept.cutPair {β : Type} {r t : State} {p : State × β} (h : Kept r p.1) (f : Kept r p.1 → Kept r t) : Kept r t :=
  f h

theorem Kept.ite {r s t : State} {c : Prop} [Decidable c] (h : Kept r s) (k : Kept r t) : Kept r (if c then s else t) := by
  split <;> assumption

theorem Kept.foldl {α : Type} {r s : State} {f : State → α → State} {l : List α}
    (hf : ∀ x y, Kept r x → Kept r (f x y)) (h : Kept r s) : Kept r (l.foldl f s) := by
  induction l generalizing s with
  | nil => exact h
  | cons x l ih => exact ih (hf _ _ h)

theorem Kept.foldlPair {α β : Type} {r : State} {p : State × β} {f : State × β → α → State × β} {l : List α}
    (hf : ∀ x y, Kept r x.1 → Kept r (f x y).1) (h : Kept r p.1) : Kept r (l.foldl f p).1 := by
  induction l generalizing p with
  | nil => exact h
  | cons x l ih => exact ih (hf _ _ h)

/-- The first part of a pair that is known. -/
theorem Kept.fst {r t : State} {β : Type} {p : State × β} {b : β} (e : p = (t, b)) (h : Kept r p.1) : Kept r t := by
  subst e; exact h

/-- The meaning goes on, and what holds of `Kept` holds of the state it answers. -/
def Goes (r : State) (o : Host.Outcome State Fault Refusal) : Prop := ∃ t, o = .next t ∧ Kept r t

theorem Goes.next {r s : State} (h : Kept r s) : Goes r (.next s) := ⟨s, rfl, h⟩

theorem Goes.ite {r : State} {c : Prop} [Decidable c] {o p : Host.Outcome State Fault Refusal} (h : Goes r o)
    (k : Goes r p) : Goes r (if c then o else p) := by split <;> assumption

/-! ### Primitives -/

theorem Kept.setTime {r s : State} {t : WallTime} (h : Kept r s) (ht : TimeOk s.time → TimeOk t) :
    Kept r { s with time := t } := h.trans ⟨rfl, rfl, id, id, id, ht, id, le_refl _, List.prefix_refl _⟩

theorem Kept.filterRegs {r s : State} {p : Nat × Word → Bool} (h : Kept r s) :
    Kept r { s with regs := s.regs.filter p } :=
  h.trans ⟨rfl, rfl, id, FMap.wf_filter, id, id, id, le_refl _, List.prefix_refl _⟩

theorem Kept.filterMem {r s : State} {p : Host.Cell → Bool} (h : Kept r s) :
    Kept r { s with mem := s.mem.filter p } :=
  h.trans ⟨rfl, rfl, FMap.wf_filter, id, id, id, id, le_refl _, List.prefix_refl _⟩

theorem Kept.drawn {r s : State} {n : Nat} (h : Kept r s) : Kept r { s with free := s.free + n } :=
  h.trans ⟨rfl, rfl, id, id, id, id, id, Nat.le_add_right _ _, List.prefix_refl _⟩

theorem State.setReg_kept {r s : State} {a v} (h : Kept r s) : Kept r (s.setReg a v) :=
  h.trans ⟨rfl, rfl, id, FMap.wf_set, id, id, id, le_refl _, List.prefix_refl _⟩

theorem State.answer_kept {r s : State} {m x} (h : Kept r s) : Kept r (s.answer m x) :=
  h.trans ⟨rfl, rfl, id, id, FMap.wf_set, id, id, le_refl _, List.prefix_refl _⟩

theorem State.wrByte_kept {r s : State} {a v} (h : Kept r s) : Kept r (s.wrByte a v) :=
  h.trans ⟨rfl, rfl, FMap.wf_set, id, id, id, id, le_refl _, List.prefix_refl _⟩

theorem State.clearMem_kept {r s : State} {a n} (h : Kept r s) : Kept r (s.clearMem a n) :=
  h.trans ⟨rfl, rfl, FMap.wf_filter, id, id, id, id, le_refl _, List.prefix_refl _⟩

theorem State.emit_kept {r s : State} {o} (h : Kept r s) : Kept r (s.emit o) :=
  h.trans ⟨rfl, rfl, id, id, id, id, id, le_refl _, List.prefix_append _ _⟩

theorem State.drew_kept {r s : State} (h : Kept r s) : Kept r s.drew :=
  h.trans ⟨rfl, rfl, id, id, id, id, id, Nat.le_succ _, List.prefix_refl _⟩

theorem State.when_kept {r s : State} {c f} (hf : ∀ x, Kept r x → Kept r (f x)) (h : Kept r s) : Kept r (s.when c f) := by
  unfold State.when; split
  · exact hf _ h
  · exact h

theorem State.each_kept {α : Type} {r s : State} {l : List α} {f : α → State → State}
    (hf : ∀ x y, Kept r y → Kept r (f x y)) (h : Kept r s) : Kept r (s.each l f) := by
  unfold State.each
  induction l generalizing s with
  | nil => exact h
  | cons x l ih => exact ih (hf _ _ h)

theorem State.wrBytes_kept {r s : State} {a} {l : List Byte} (h : Kept r s) : Kept r (s.wrBytes a l) := by
  induction l generalizing s a with
  | nil => exact h
  | cons b l ih => exact ih (State.wrByte_kept h)

theorem State.st_kept {r s : State} {a n v} (h : Kept r s) : Kept r (s.st a n v) := State.wrBytes_kept h

theorem State.stWords_kept {r s : State} {a} {l : List Nat} (h : Kept r s) : Kept r (s.stWords a l) := by
  induction l generalizing s a with
  | nil => exact h
  | cons b l ih => exact ih (State.st_kept h)

end Sys2Proof.Machine
end

