-- ==== Sys2Proof/Laws/KeptOps.lean ====
section
/-!
SUPPORT. What the operations of Machine/Ops.lean keep.
-/

set_option linter.all false

namespace Sys2Proof.Machine

theorem State.setFld_kept {r : State} {a} {hi} {lo} {v} {s : State} (hs : Kept r s) :
    Kept r (State.setFld a hi lo v s) := by
  unfold State.setFld
  repeat' (with_reducible first | assumption | apply State.setReg_kept)

theorem State.incBy_kept {r : State} {a} {n} {s : State} (hs : Kept r s) :
    Kept r (State.incBy a n s) := by
  unfold State.incBy
  repeat' (with_reducible first | assumption | apply State.setReg_kept)

theorem State.inc_kept {r : State} {a} {s : State} (hs : Kept r s) :
    Kept r (State.inc a s) := by
  unfold State.inc
  repeat' (with_reducible first | assumption | apply State.setReg_kept)

theorem State.incMod_kept {r : State} {a} {s : State} (hs : Kept r s) :
    Kept r (State.incMod a s) := by
  unfold State.incMod
  repeat' (with_reducible first | assumption | apply State.setReg_kept)

theorem State.setReg64_kept {r : State} {lo} {v} {s : State} (hs : Kept r s) :
    Kept r (State.setReg64 lo v s) := by
  unfold State.setReg64
  repeat' (with_reducible first | assumption | apply State.setReg_kept)

theorem State.incFld_kept {r : State} {a} {hi} {lo} {s : State} (hs : Kept r s) :
    Kept r (State.incFld a hi lo s) := by
  unfold State.incFld
  repeat' (with_reducible first | assumption | apply State.setFld_kept)

theorem State.okData_kept {r : State} {w} {v} {s : State} (hs : Kept r s) :
    Kept r (State.okData w v s) := by
  unfold State.okData
  repeat' (with_reducible first | assumption | apply State.answer_kept)

theorem State.setBit_kept {r : State} {a} {i} {v} {s : State} (hs : Kept r s) :
    Kept r (State.setBit a i v s) := by
  unfold State.setBit
  repeat' (with_reducible first | assumption | apply State.setFld_kept)

theorem State.putCells_kept {r : State} {a} {l} {s : State} (hs : Kept r s) :
    Kept r (State.putCells a l s) := by
  unfold State.putCells
  repeat' (with_reducible first
    | assumption | (intro _; try beta_reduce) | apply State.each_kept | apply State.wrByte_kept)

theorem State.ok_kept {r : State} {w} {s : State} (hs : Kept r s) :
    Kept r (State.ok w s) := by
  unfold State.ok
  repeat' (with_reducible first | assumption | apply State.answer_kept)

theorem State.evt_kept {r : State} {a} {i} {s : State} (hs : Kept r s) :
    Kept r (State.evt a i s) := by
  unfold State.evt
  repeat' (with_reducible first | assumption | apply State.setBit_kept)

theorem State.captureErr_kept {r : State} {w} {addr} {write} {kind} {s : State} (hs : Kept r s) :
    Kept r (State.captureErr w addr write kind s) := by
  unfold State.captureErr
  repeat' (with_reducible first
    | assumption | (intro _; try beta_reduce) | apply State.evt_kept | apply State.setReg_kept | apply Kept.ite)

theorem State.fill_kept {r : State} {dst} {n} {l} {s : State} (hs : Kept r s) :
    Kept r (State.fill dst n l s) := by
  unfold State.fill
  repeat' (with_reducible first | assumption | apply State.putCells_kept | apply State.clearMem_kept)

theorem State.copyMem_kept {r : State} {src} {dst} {n} {s : State} (hs : Kept r s) :
    Kept r (State.copyMem src dst n s) := by
  unfold State.copyMem
  repeat' (with_reducible first | assumption | apply State.fill_kept)

theorem State.errResp_kept {r : State} {w} {addr} {write} {kind} {s : State} (hs : Kept r s) :
    Kept r (State.errResp w addr write kind s) := by
  unfold State.errResp
  repeat' (with_reducible first | assumption | apply State.answer_kept | apply State.captureErr_kept)

theorem State.stageRec_kept {r : State} {r0} {s : State} (hs : Kept r s) :
    Kept r (State.stageRec r0 s) := by
  unfold State.stageRec
  repeat' (with_reducible first
    | assumption | (intro _; try beta_reduce) | apply State.evt_kept | apply State.inc_kept | apply Kept.ite
    | (refine Kept.fst ‹_ = (_, _)› ?_) | split | (dsimp only) | (fail_if_no_progress apply Kept.fields))

theorem State.ledgerBare_kept {r : State} {sev} {blk} {code} {b} {extra} {s : State} (hs : Kept r s) :
    Kept r (State.ledgerBare sev blk code b extra s) := by
  unfold State.ledgerBare
  repeat' (with_reducible first | assumption | apply State.stageRec_kept)

theorem State.ledger_kept {r : State} {sev} {blk} {code} {reg} {b} {extra} {s : State} (hs : Kept r s) :
    Kept r (State.ledger sev blk code reg b extra s) := by
  unfold State.ledger
  repeat' (with_reducible first | assumption | apply State.stageRec_kept)

end Sys2Proof.Machine
end

