-- ==== Sys2Proof/Laws/KeptSched.lean ====
section
/-!
SUPPORT. What the operations of Machine/Sched.lean keep.
-/

set_option linter.all false

namespace Sys2Proof.Machine

theorem State.modPr_kept {r : State} {p} {f} {s : State} (hs : Kept r s) :
    Kept r (State.modPr p f s) := by
  unfold State.modPr
  repeat' (with_reducible first
    | assumption | (intro _; try beta_reduce) | apply Kept.ite | (refine Kept.fst ‹_ = (_, _)› ?_) | split
    | (dsimp only) | (fail_if_no_progress apply Kept.fields) | apply Kept.tabs
    | apply FMap.tidy_put | apply FMap.tidy_mod)

theorem State.modSl_kept {r : State} {n} {f} {s : State} (hs : Kept r s) :
    Kept r (State.modSl n f s) := by
  unfold State.modSl
  repeat' (with_reducible first
    | assumption | (intro _; try beta_reduce) | apply Kept.ite | (refine Kept.fst ‹_ = (_, _)› ?_) | split
    | (dsimp only) | (fail_if_no_progress apply Kept.fields) | apply Kept.tabs
    | apply FMap.tidy_put | apply FMap.tidy_mod)

theorem State.setLife_kept {r : State} {n} {v} {s : State} (hs : Kept r s) :
    Kept r (State.setLife n v s) := by
  unfold State.setLife
  repeat' (with_reducible first | assumption | apply State.setFld_kept)

theorem State.offPair_kept {r : State} {n} {s : State} (hs : Kept r s) :
    Kept r (State.offPair n s) := by
  unfold State.offPair
  repeat' (with_reducible first
    | assumption | (intro _; try beta_reduce) | apply State.modPr_kept | apply Kept.ite)

theorem State.setRun_kept {r : State} {n} {v} {s : State} (hs : Kept r s) :
    Kept r (State.setRun n v s) := by
  unfold State.setRun
  repeat' (with_reducible first | assumption | apply State.setFld_kept)

theorem State.lifeResult_kept {r : State} {n} {r0} {s : State} (hs : Kept r s) :
    Kept r (State.lifeResult n r0 s) := by
  unfold State.lifeResult
  repeat' (with_reducible first | assumption | apply State.setFld_kept)

theorem State.startPass_kept {r : State} {p} {n} {s : State} (hs : Kept r s) :
    Kept r (State.startPass p n s) := by
  unfold State.startPass
  repeat' (with_reducible first
    | assumption | (intro _; try beta_reduce) | apply State.setRun_kept | apply State.modPr_kept
    | apply State.modSl_kept | apply Kept.ite | split)

theorem State.markBlocks_kept {r : State} {a} {k} {s : State} (hs : Kept r s) :
    Kept r (State.markBlocks a k s) := by
  unfold State.markBlocks
  repeat' (with_reducible first
    | assumption
    | (intro x; (refine Kept.cut (s := x) ?_ (fun _ => ?_)); (on_goal 1 => subst x); (on_goal 2 => clear_value x))
    | (intro x; (refine Kept.cutPair (p := x) ?_ (fun _ => ?_)); (on_goal 1 => subst x); (on_goal 2 => clear_value x))
    | (intro x; clear_value x) | (intro _; try beta_reduce) | apply State.each_kept | apply Kept.ite | apply Goes.ite
    | apply Goes.next | apply Goes.after | apply Kept.foldl | apply Kept.foldlPair | (refine Kept.fst ‹_ = (_, _)› ?_)
    | split | lift_lets | (dsimp -zeta only) | (fail_if_no_progress apply Kept.fields) | apply Kept.tabs
    | apply FMap.tidy_put | apply FMap.tidy_mod | apply FMap.tidy_nil | apply FMap.tidy_foldl)

theorem State.trackWrite_kept {r : State} {a} {k} {s : State} (hs : Kept r s) :
    Kept r (State.trackWrite a k s) := by
  unfold State.trackWrite
  repeat' (with_reducible first
    | assumption | (intro _; try beta_reduce) | apply State.each_kept | apply State.modSl_kept | apply Kept.ite)

theorem State.showLevel_kept {r : State} {p} {s : State} (hs : Kept r s) :
    Kept r (State.showLevel p s) := by
  unfold State.showLevel
  repeat' (with_reducible first | assumption | apply State.setFld_kept)

theorem State.resumed_kept {r : State} {n} {gp} {s : State} (hs : Kept r s) :
    Kept r (State.resumed n gp s) := by
  unfold State.resumed
  repeat' (with_reducible first
    | assumption | (intro _; try beta_reduce) | apply State.modSl_kept | apply State.setReg_kept | apply Kept.ite)

theorem State.lifeBusy_kept {r : State} {n} {b} {s : State} (hs : Kept r s) :
    Kept r (State.lifeBusy n b s) := by
  unfold State.lifeBusy
  repeat' (with_reducible first | assumption | apply State.setBit_kept)

theorem State.miss_kept {r : State} {n} {s : State} (hs : Kept r s) :
    Kept r (State.miss n s) := by
  unfold State.miss
  repeat' (with_reducible first
    | assumption | apply State.evt_kept | apply State.inc_kept | apply State.setFld_kept | apply State.modSl_kept)

theorem State.showRelease_kept {r : State} {n} {ps} {s : State} (hs : Kept r s) :
    Kept r (State.showRelease n ps s) := by
  unfold State.showRelease
  repeat' (with_reducible first
    | assumption
    | (intro x; (refine Kept.cut (s := x) ?_ (fun _ => ?_)); (on_goal 1 => subst x); (on_goal 2 => clear_value x))
    | (intro x; (refine Kept.cutPair (p := x) ?_ (fun _ => ?_)); (on_goal 1 => subst x); (on_goal 2 => clear_value x))
    | (intro x; clear_value x) | (intro _; try beta_reduce) | apply State.setBit_kept | apply Kept.ite
    | apply Goes.ite | apply Goes.next | apply Goes.after | apply Kept.foldl | apply Kept.foldlPair
    | (refine Kept.fst ‹_ = (_, _)› ?_) | split | lift_lets | (dsimp -zeta only)
    | (fail_if_no_progress apply Kept.fields) | apply Kept.tabs | apply FMap.tidy_put | apply FMap.tidy_mod
    | apply FMap.tidy_nil | apply FMap.tidy_foldl)

theorem State.suspend_kept {r : State} {p} {s : State} (hs : Kept r s) :
    Kept r (State.suspend p s) := by
  unfold State.suspend
  repeat' (with_reducible first
    | assumption | (intro _; try beta_reduce) | apply State.modPr_kept | apply State.setRun_kept
    | apply State.modSl_kept | apply Kept.ite | (refine Kept.fst ‹_ = (_, _)› ?_) | split | (dsimp only))

theorem State.lifeEvt_kept {r : State} {n} {b} {s : State} (hs : Kept r s) :
    Kept r (State.lifeEvt n b s) := by
  unfold State.lifeEvt
  repeat' (with_reducible first | assumption | apply State.evt_kept)

theorem State.passOver_kept {r : State} {n} {s : State} (hs : Kept r s) :
    Kept r (State.passOver n s) := by
  unfold State.passOver
  repeat' (with_reducible first
    | assumption
    | (intro x; (refine Kept.cut (s := x) ?_ (fun _ => ?_)); (on_goal 1 => subst x); (on_goal 2 => clear_value x))
    | (intro x; (refine Kept.cutPair (p := x) ?_ (fun _ => ?_)); (on_goal 1 => subst x); (on_goal 2 => clear_value x))
    | (intro x; clear_value x) | (intro _; try beta_reduce) | apply State.showRelease_kept | apply State.setRun_kept
    | apply State.modSl_kept | apply Kept.ite | apply Goes.ite | apply Goes.next | apply Goes.after | apply Kept.foldl
    | apply Kept.foldlPair | (refine Kept.fst ‹_ = (_, _)› ?_) | split | lift_lets | (dsimp -zeta only)
    | (fail_if_no_progress apply Kept.fields) | apply Kept.tabs | apply FMap.tidy_put | apply FMap.tidy_mod
    | apply FMap.tidy_nil | apply FMap.tidy_foldl)

theorem State.wrote_kept {r : State} {a} {k} {s : State} (hs : Kept r s) :
    Kept r (State.wrote a k s) := by
  unfold State.wrote
  repeat' (with_reducible first
    | assumption
    | (intro x; (refine Kept.cut (s := x) ?_ (fun _ => ?_)); (on_goal 1 => subst x); (on_goal 2 => clear_value x))
    | (intro x; (refine Kept.cutPair (p := x) ?_ (fun _ => ?_)); (on_goal 1 => subst x); (on_goal 2 => clear_value x))
    | (intro x; clear_value x) | (intro _; try beta_reduce) | apply State.markBlocks_kept
    | apply State.trackWrite_kept | apply Kept.ite | apply Goes.ite | apply Goes.next | apply Goes.after
    | apply Kept.foldl | apply Kept.foldlPair | (refine Kept.fst ‹_ = (_, _)› ?_) | split | lift_lets
    | (dsimp -zeta only) | (fail_if_no_progress apply Kept.fields) | apply Kept.tabs | apply FMap.tidy_put
    | apply FMap.tidy_mod | apply FMap.tidy_nil | apply FMap.tidy_foldl)

theorem State.dma_kept {r : State} {a} {l} {s : State} (hs : Kept r s) :
    Kept r (State.dma a l s) := by
  unfold State.dma
  repeat' (with_reducible first
    | assumption
    | (intro x; (refine Kept.cut (s := x) ?_ (fun _ => ?_)); (on_goal 1 => subst x); (on_goal 2 => clear_value x))
    | (intro x; (refine Kept.cutPair (p := x) ?_ (fun _ => ?_)); (on_goal 1 => subst x); (on_goal 2 => clear_value x))
    | (intro x; clear_value x) | (intro _; try beta_reduce) | apply State.wrBytes_kept | apply State.wrote_kept
    | apply Kept.ite | apply Goes.ite | apply Goes.next | apply Goes.after | apply Kept.foldl | apply Kept.foldlPair
    | (refine Kept.fst ‹_ = (_, _)› ?_) | split | lift_lets | (dsimp -zeta only)
    | (fail_if_no_progress apply Kept.fields) | apply Kept.tabs | apply FMap.tidy_put | apply FMap.tidy_mod
    | apply FMap.tidy_nil | apply FMap.tidy_foldl)

theorem State.dispatch_kept {r : State} {p} {s : State} (hs : Kept r s) :
    Kept r (State.dispatch p s) := by
  unfold State.dispatch
  repeat' (with_reducible first
    | assumption | (intro _; try beta_reduce) | apply State.startPass_kept | apply State.suspend_kept
    | apply State.modSl_kept | apply State.setRun_kept | apply State.modPr_kept | apply Kept.ite | split)

theorem State.xferEnd_kept {r : State} {n} {s : State} (hs : Kept r s) :
    Kept r (State.xferEnd n s) := by
  unfold State.xferEnd
  repeat' (with_reducible first
    | assumption | (intro _; try beta_reduce) | apply State.lifeBusy_kept | apply State.setBit_kept | apply Kept.ite
    | (refine Kept.fst ‹_ = (_, _)› ?_) | split | (dsimp only) | (fail_if_no_progress apply Kept.fields))

theorem State.overloadRise_kept {r : State} {p} {s : State} (hs : Kept r s) :
    Kept r (State.overloadRise p s) := by
  unfold State.overloadRise
  repeat' (with_reducible first
    | assumption | (intro _; try beta_reduce) | apply State.setBit_kept | apply State.modPr_kept
    | apply State.setFld_kept | apply State.showLevel_kept | apply State.evt_kept | apply State.inc_kept
    | apply Kept.ite)

theorem State.dmaWords_kept {r : State} {a} {l} {s : State} (hs : Kept r s) :
    Kept r (State.dmaWords a l s) := by
  unfold State.dmaWords
  repeat' (with_reducible first
    | assumption
    | (intro x; (refine Kept.cut (s := x) ?_ (fun _ => ?_)); (on_goal 1 => subst x); (on_goal 2 => clear_value x))
    | (intro x; (refine Kept.cutPair (p := x) ?_ (fun _ => ?_)); (on_goal 1 => subst x); (on_goal 2 => clear_value x))
    | (intro x; clear_value x) | (intro _; try beta_reduce) | apply State.stWords_kept | apply State.wrote_kept
    | apply Kept.ite | apply Goes.ite | apply Goes.next | apply Goes.after | apply Kept.foldl | apply Kept.foldlPair
    | (refine Kept.fst ‹_ = (_, _)› ?_) | split | lift_lets | (dsimp -zeta only)
    | (fail_if_no_progress apply Kept.fields) | apply Kept.tabs | apply FMap.tidy_put | apply FMap.tidy_mod
    | apply FMap.tidy_nil | apply FMap.tidy_foldl)

theorem State.takeIn_kept {r : State} {n} {ps} {s : State} (hs : Kept r s) :
    Kept r (State.takeIn n ps s) := by
  unfold State.takeIn
  repeat' (with_reducible first
    | assumption
    | (intro x; (refine Kept.cut (s := x) ?_ (fun _ => ?_)); (on_goal 1 => subst x); (on_goal 2 => clear_value x))
    | (intro x; (refine Kept.cutPair (p := x) ?_ (fun _ => ?_)); (on_goal 1 => subst x); (on_goal 2 => clear_value x))
    | (intro x; clear_value x) | (intro _; try beta_reduce) | apply State.miss_kept | apply State.modSl_kept
    | apply State.setRun_kept | apply State.dispatch_kept | apply State.showRelease_kept | apply Kept.ite
    | apply Goes.ite | apply Goes.next | apply Goes.after | apply Kept.foldl | apply Kept.foldlPair
    | (refine Kept.fst ‹_ = (_, _)› ?_) | split | lift_lets | (dsimp -zeta only)
    | (fail_if_no_progress apply Kept.fields) | apply Kept.tabs | apply FMap.tidy_put | apply FMap.tidy_mod
    | apply FMap.tidy_nil | apply FMap.tidy_foldl)

theorem State.dmaCopy_kept {r : State} {src} {dst} {n} {s : State} (hs : Kept r s) :
    Kept r (State.dmaCopy src dst n s) := by
  unfold State.dmaCopy
  repeat' (with_reducible first
    | assumption
    | (intro x; (refine Kept.cut (s := x) ?_ (fun _ => ?_)); (on_goal 1 => subst x); (on_goal 2 => clear_value x))
    | (intro x; (refine Kept.cutPair (p := x) ?_ (fun _ => ?_)); (on_goal 1 => subst x); (on_goal 2 => clear_value x))
    | (intro x; clear_value x) | (intro _; try beta_reduce) | apply State.copyMem_kept | apply State.wrote_kept
    | apply Kept.ite | apply Goes.ite | apply Goes.next | apply Goes.after | apply Kept.foldl | apply Kept.foldlPair
    | (refine Kept.fst ‹_ = (_, _)› ?_) | split | lift_lets | (dsimp -zeta only)
    | (fail_if_no_progress apply Kept.fields) | apply Kept.tabs | apply FMap.tidy_put | apply FMap.tidy_mod
    | apply FMap.tidy_nil | apply FMap.tidy_foldl)

theorem State.loadImage_kept {r : State} {n} {s : State} (hs : Kept r s) :
    Kept r (State.loadImage n s) := by
  unfold State.loadImage
  repeat' (with_reducible first
    | assumption | (intro _; try beta_reduce) | apply State.copyMem_kept | apply State.modSl_kept | apply Kept.ite
    | split)

theorem State.releasePoint_kept {r : State} {n} {ps} {s : State} (hs : Kept r s) :
    Kept r (State.releasePoint n ps s) := by
  unfold State.releasePoint
  repeat' (with_reducible first
    | assumption | (intro _; try beta_reduce) | apply State.modSl_kept | apply State.incMod_kept
    | apply State.resumed_kept | apply State.inc_kept | apply State.evt_kept | apply State.setRun_kept
    | apply State.overloadRise_kept | apply State.takeIn_kept | apply Kept.ite)

theorem State.takeException_kept {r : State} {n} {cause} {code} {pc} {seq} {s : State} (hs : Kept r s) :
    Kept r (State.takeException n cause code pc seq s) := by
  unfold State.takeException
  repeat' (with_reducible first
    | assumption
    | (intro x; (refine Kept.cut (s := x) ?_ (fun _ => ?_)); (on_goal 1 => subst x); (on_goal 2 => clear_value x))
    | (intro x; (refine Kept.cutPair (p := x) ?_ (fun _ => ?_)); (on_goal 1 => subst x); (on_goal 2 => clear_value x))
    | (intro x; clear_value x) | (intro _; try beta_reduce) | apply State.loadImage_kept | apply State.modSl_kept
    | apply State.offPair_kept | apply State.ledger_kept | apply State.evt_kept | apply Kept.ite | apply Goes.ite
    | apply Goes.next | apply Goes.after | apply Kept.foldl | apply Kept.foldlPair | (refine Kept.fst ‹_ = (_, _)› ?_)
    | split | lift_lets | (dsimp -zeta only) | (fail_if_no_progress apply Kept.fields) | apply Kept.tabs
    | apply FMap.tidy_put | apply FMap.tidy_mod | apply FMap.tidy_nil | apply FMap.tidy_foldl)

theorem State.abortPass_kept {r : State} {n} {cause} {code} {pc} {s : State} (hs : Kept r s) :
    Kept r (State.abortPass n cause code pc s) := by
  unfold State.abortPass
  repeat' (with_reducible first
    | assumption
    | (intro x; (refine Kept.cut (s := x) ?_ (fun _ => ?_)); (on_goal 1 => subst x); (on_goal 2 => clear_value x))
    | (intro x; (refine Kept.cutPair (p := x) ?_ (fun _ => ?_)); (on_goal 1 => subst x); (on_goal 2 => clear_value x))
    | (intro x; clear_value x) | (intro _; try beta_reduce) | apply State.dispatch_kept | apply State.setRun_kept
    | apply State.takeException_kept | apply State.miss_kept | apply State.passOver_kept | apply Kept.ite
    | apply Goes.ite | apply Goes.next | apply Goes.after | apply Kept.foldl | apply Kept.foldlPair
    | (refine Kept.fst ‹_ = (_, _)› ?_) | split | lift_lets | (dsimp -zeta only)
    | (fail_if_no_progress apply Kept.fields) | apply Kept.tabs | apply FMap.tidy_put | apply FMap.tidy_mod
    | apply FMap.tidy_nil | apply FMap.tidy_foldl)

theorem State.violate_kept {r : State} {w} {kind} {index} {r0} {s : State} (hs : Kept r s) :
    Kept r (State.violate w kind index r0 s) := by
  unfold State.violate
  repeat' (with_reducible first
    | assumption | (intro _; try beta_reduce) | apply State.evt_kept | apply State.setReg_kept | apply State.inc_kept
    | apply State.ledger_kept | apply State.abortPass_kept | apply State.drew_kept | apply State.answer_kept
    | apply Kept.ite)

theorem State.accessErr_kept {r : State} {w} {addr} {write} {kind} {s : State} (hs : Kept r s) :
    Kept r (State.accessErr w addr write kind s) := by
  unfold State.accessErr
  repeat' (with_reducible first
    | assumption | (intro _; try beta_reduce) | apply State.errResp_kept | apply State.abortPass_kept
    | apply State.drew_kept | apply Kept.ite)

theorem State.gate_kept {r : State} {w} {addr} {write} {allowed} {kind} {index} {r0} {f} {s : State}
    (hf : ∀ y9, Kept r y9 → Kept r (f y9)) (hs : Kept r s) :
    Kept r (State.gate w addr write allowed kind index r0 f s) := by
  unfold State.gate
  repeat' (with_reducible first
    | assumption | (intro _; try beta_reduce) | apply State.accessErr_kept | apply State.violate_kept
    | apply State.ok_kept | apply hf | apply Kept.ite)

theorem State.gateGrant_kept {r : State} {w} {addr} {k} {i} {r0} {f} {s : State}
    (hf : ∀ y7, Kept r y7 → Kept r (f y7)) (hs : Kept r s) :
    Kept r (State.gateGrant w addr k i r0 f s) := by
  unfold State.gateGrant
  repeat' (with_reducible first | assumption | apply State.gate_kept)

theorem State.gateSup_kept {r : State} {w} {addr} {f} {s : State} (hf : ∀ y4, Kept r y4 → Kept r (f y4))
    (hs : Kept r s) :
    Kept r (State.gateSup w addr f s) := by
  unfold State.gateSup
  repeat' (with_reducible first | assumption | apply State.gate_kept)

end Sys2Proof.Machine
end

