-- ==== Sys2Proof/Laws/KeptHealth.lean ====
section
/-!
SUPPORT. What the operations of Machine/Health.lean keep.
-/

set_option linter.all false

namespace Sys2Proof.Machine

theorem State.drive_kept {r : State} {p} {high} {s : State} (hs : Kept r s) :
    Kept r (State.drive p high s) := by
  unfold State.drive
  repeat' (with_reducible first | assumption | apply State.emit_kept)

theorem State.armDelay_kept {r : State} {s : State} (hs : Kept r s) :
    Kept r (State.armDelay s) := by
  unfold State.armDelay
  repeat' (with_reducible first
    | assumption | (intro _; try beta_reduce) | apply Kept.ite | (refine Kept.fst ‹_ = (_, _)› ?_) | split
    | (dsimp only) | (fail_if_no_progress apply Kept.fields))

theorem State.taeGuard_kept {r : State} {o} {s : State} (hs : Kept r s) :
    Kept r (State.taeGuard o s) := by
  unfold State.taeGuard
  repeat' (with_reducible first
    | assumption | (intro _; try beta_reduce) | apply State.each_kept | apply Kept.ite
    | (refine Kept.fst ‹_ = (_, _)› ?_) | split | (dsimp only) | (fail_if_no_progress apply Kept.fields) | apply Kept.tabs
    | apply FMap.tidy_put | apply FMap.tidy_mod)

theorem State.showSpare_kept {r : State} {s : State} (hs : Kept r s) :
    Kept r (State.showSpare s) := by
  unfold State.showSpare
  repeat' (with_reducible first
    | assumption | (intro _; try beta_reduce) | apply State.setFld_kept | apply State.setBit_kept | apply Kept.ite
    | split)

theorem State.showClassA_kept {r : State} {s : State} (hs : Kept r s) :
    Kept r (State.showClassA s) := by
  unfold State.showClassA
  repeat' (with_reducible first | assumption | apply State.setBit_kept)

theorem State.baizeEvent_kept {r : State} {sev} {code} {reg} {b} {extra} {s : State} (hs : Kept r s) :
    Kept r (State.baizeEvent sev code reg b extra s) := by
  unfold State.baizeEvent
  repeat' (with_reducible first
    | assumption | (intro _; try beta_reduce) | apply State.stageRec_kept | apply State.evt_kept
    | apply State.inc_kept | apply Kept.ite | (refine Kept.fst ‹_ = (_, _)› ?_) | split | (dsimp only)
    | (fail_if_no_progress apply Kept.fields))

theorem State.closeOutputs_kept {r : State} {s : State} (hs : Kept r s) :
    Kept r (State.closeOutputs s) := by
  unfold State.closeOutputs
  repeat' (with_reducible first
    | assumption | (intro _; try beta_reduce) | apply State.each_kept | apply State.drive_kept
    | apply State.setBit_kept | apply State.taeGuard_kept | apply State.evt_kept | apply State.inc_kept
    | apply State.baizeEvent_kept | apply Kept.ite | (refine Kept.fst ‹_ = (_, _)› ?_) | split | (dsimp only)
    | (fail_if_no_progress apply Kept.fields))

theorem State.guardArm_kept {r : State} {s : State} (hs : Kept r s) :
    Kept r (State.guardArm s) := by
  unfold State.guardArm
  repeat' (with_reducible first
    | assumption | (intro _; try beta_reduce) | apply State.evt_kept | apply State.setBit_kept
    | apply State.closeOutputs_kept | apply State.baizeEvent_kept | apply Kept.ite)

theorem State.healthUpdate_kept {r : State} {s : State} (hs : Kept r s) :
    Kept r (State.healthUpdate s) := by
  unfold State.healthUpdate
  repeat' (with_reducible first
    | assumption | (intro _; try beta_reduce) | apply State.setFld_kept | apply State.ledger_kept
    | apply State.evt_kept | apply State.setBit_kept | apply State.drive_kept | apply State.guardArm_kept
    | apply State.armDelay_kept | apply Kept.ite | (refine Kept.fst ‹_ = (_, _)› ?_) | split | (dsimp only)
    | (fail_if_no_progress apply Kept.fields))

theorem State.blockFailure_kept {r : State} {b} {inst} {mech} {cnt} {s : State} (hs : Kept r s) :
    Kept r (State.blockFailure b inst mech cnt s) := by
  unfold State.blockFailure
  repeat' (with_reducible first
    | assumption | (intro _; try beta_reduce) | apply State.setBit_kept | apply State.healthUpdate_kept
    | apply State.ledgerBare_kept | apply Kept.ite | (refine Kept.fst ‹_ = (_, _)› ?_) | split | (dsimp only)
    | (fail_if_no_progress apply Kept.fields))

theorem State.blockFault_kept {r : State} {b} {mech} {inst} {s : State} (hs : Kept r s) :
    Kept r (State.blockFault b mech inst s) := by
  unfold State.blockFault
  repeat' (with_reducible first
    | assumption
    | (intro x; (refine Kept.cut (s := x) ?_ (fun _ => ?_)); (on_goal 1 => subst x); (on_goal 2 => clear_value x))
    | (intro x; (refine Kept.cutPair (p := x) ?_ (fun _ => ?_)); (on_goal 1 => subst x); (on_goal 2 => clear_value x))
    | (intro x; clear_value x) | (intro _; try beta_reduce) | apply State.blockFailure_kept | apply Kept.ite
    | apply Goes.ite | apply Goes.next | apply Goes.after | apply Kept.foldl | apply Kept.foldlPair
    | (refine Kept.fst ‹_ = (_, _)› ?_) | split | lift_lets | (dsimp -zeta only)
    | (fail_if_no_progress apply Kept.fields) | apply Kept.tabs | apply FMap.tidy_put | apply FMap.tidy_mod
    | apply FMap.tidy_nil | apply FMap.tidy_foldl)

end Sys2Proof.Machine
end

