-- ==== Sys2Proof/Laws/KeptKeyBase.lean ====
section
/-!
SUPPORT. What the operations of Machine/KeyBase.lean keep.
-/

set_option linter.all false

namespace Sys2Proof.Machine

theorem State.keyEnd_kept {r : State} {m} {result} {s : State} (hs : Kept r s) :
    Kept r (State.keyEnd m result s) := by
  unfold State.keyEnd
  repeat' (with_reducible first
    | assumption | (intro _; try beta_reduce) | apply State.setReg_kept | apply Kept.ite
    | (refine Kept.fst ‹_ = (_, _)› ?_) | split | (dsimp only) | (fail_if_no_progress apply Kept.fields) | apply Kept.tabs
    | apply FMap.tidy_put)

theorem State.keyAbort_kept {r : State} {m} {s : State} (hs : Kept r s) :
    Kept r (State.keyAbort m s) := by
  unfold State.keyAbort
  repeat' (with_reducible first
    | assumption
    | (intro x; (refine Kept.cut (s := x) ?_ (fun _ => ?_)); (on_goal 1 => subst x); (on_goal 2 => clear_value x))
    | (intro x; (refine Kept.cutPair (p := x) ?_ (fun _ => ?_)); (on_goal 1 => subst x); (on_goal 2 => clear_value x))
    | (intro x; clear_value x) | (intro _; try beta_reduce) | apply State.keyEnd_kept | apply State.dma_kept
    | apply Kept.ite | apply Goes.ite | apply Goes.next | apply Goes.after | apply Kept.foldl | apply Kept.foldlPair
    | (refine Kept.fst ‹_ = (_, _)› ?_) | split | lift_lets | (dsimp -zeta only)
    | (fail_if_no_progress apply Kept.fields) | apply Kept.tabs | apply FMap.tidy_put | apply FMap.tidy_mod
    | apply FMap.tidy_nil | apply FMap.tidy_foldl)

end Sys2Proof.Machine
end

