-- ==== Sys2Proof/Laws/KeptPrior.lean ====
section
/-!
SUPPORT. What the operations of Machine/Prior.lean keep.
-/

set_option linter.all false

namespace Sys2Proof.Machine

theorem State.setPriors_kept {r : State} {b} {i} {l} {s : State} (hs : Kept r s) :
    Kept r (State.setPriors b i l s) := by
  unfold State.setPriors
  repeat' (with_reducible first
    | assumption
    | (intro x; (refine Kept.cut (s := x) ?_ (fun _ => ?_)); (on_goal 1 => subst x); (on_goal 2 => clear_value x))
    | (intro x; (refine Kept.cutPair (p := x) ?_ (fun _ => ?_)); (on_goal 1 => subst x); (on_goal 2 => clear_value x))
    | (intro x; clear_value x) | (intro _; try beta_reduce) | apply Kept.ite | apply Goes.ite | apply Goes.next
    | apply Goes.after | apply Kept.foldl | apply Kept.foldlPair | (refine Kept.fst ‹_ = (_, _)› ?_) | split
    | lift_lets | (dsimp -zeta only) | (fail_if_no_progress apply Kept.fields) | apply Kept.tabs | apply FMap.tidy_put
    | apply FMap.tidy_mod | apply FMap.tidy_nil | apply FMap.tidy_foldl)

theorem State.setWords_kept {r : State} {l} {s : State} (hs : Kept r s) :
    Kept r (State.setWords l s) := by
  unfold State.setWords
  repeat' (with_reducible first
    | assumption
    | (intro x; (refine Kept.cut (s := x) ?_ (fun _ => ?_)); (on_goal 1 => subst x); (on_goal 2 => clear_value x))
    | (intro x; (refine Kept.cutPair (p := x) ?_ (fun _ => ?_)); (on_goal 1 => subst x); (on_goal 2 => clear_value x))
    | (intro x; clear_value x) | (intro _; try beta_reduce) | apply State.each_kept | apply State.setReg_kept
    | apply Kept.ite | apply Goes.ite | apply Goes.next | apply Goes.after | apply Kept.foldl | apply Kept.foldlPair
    | (refine Kept.fst ‹_ = (_, _)› ?_) | split | lift_lets | (dsimp -zeta only)
    | (fail_if_no_progress apply Kept.fields) | apply Kept.tabs | apply FMap.tidy_put | apply FMap.tidy_mod
    | apply FMap.tidy_nil | apply FMap.tidy_foldl)

theorem State.under_kept {r : State} {l} {f} {s : State} (hf : ∀ y3, Kept r y3 → Kept r (f y3)) (hs : Kept r s) :
    Kept r (State.under l f s) := by
  unfold State.under
  repeat' (with_reducible first
    | assumption
    | (intro x; (refine Kept.cut (s := x) ?_ (fun _ => ?_)); (on_goal 1 => subst x); (on_goal 2 => clear_value x))
    | (intro x; (refine Kept.cutPair (p := x) ?_ (fun _ => ?_)); (on_goal 1 => subst x); (on_goal 2 => clear_value x))
    | (intro x; clear_value x) | (intro _; try beta_reduce) | apply State.setWords_kept | apply hf | apply Kept.ite
    | apply Goes.ite | apply Goes.next | apply Goes.after | apply Kept.foldl | apply Kept.foldlPair
    | (refine Kept.fst ‹_ = (_, _)› ?_) | split | lift_lets | (dsimp -zeta only)
    | (fail_if_no_progress apply Kept.fields) | apply Kept.tabs | apply FMap.tidy_put | apply FMap.tidy_mod
    | apply FMap.tidy_nil | apply FMap.tidy_foldl)

theorem State.settlePriors_kept {r : State} {b i done effect} {l : List Prior} {s : State}
    (he : ∀ old x, Kept r x → Kept r (effect old x)) (hs : Kept r s) :
    Kept r (State.settlePriors b i done effect l s) := by
  induction l generalizing s with
  | nil => exact State.setPriors_kept hs
  | cons p l ih =>
    unfold State.settlePriors
    refine Kept.ite (ih (Kept.ite ?_ hs)) (State.setPriors_kept hs)
    cases l with
    | nil => exact he _ _ hs
    | cons q l => exact State.under_kept (fun _ h => he _ _ h) hs

theorem State.settleInst_kept {r : State} {b} {i} {effect} {s : State} (heffect : ∀ y4 y5, Kept r y5 → Kept r (effect y4 y5)) (hs : Kept r s) :
    Kept r (State.settleInst b i effect s) := by
  unfold State.settleInst
  repeat' (with_reducible first
    | assumption
    | (intro x; (refine Kept.cut (s := x) ?_ (fun _ => ?_)); (on_goal 1 => subst x); (on_goal 2 => clear_value x))
    | (intro x; (refine Kept.cutPair (p := x) ?_ (fun _ => ?_)); (on_goal 1 => subst x); (on_goal 2 => clear_value x))
    | (intro x; clear_value x) | (intro _; try beta_reduce) | apply State.settlePriors_kept | apply heffect
    | apply Kept.ite | apply Goes.ite | apply Goes.next | apply Goes.after | apply Kept.foldl | apply Kept.foldlPair
    | (refine Kept.fst ‹_ = (_, _)› ?_) | split | lift_lets | (dsimp -zeta only)
    | (fail_if_no_progress apply Kept.fields) | apply Kept.tabs | apply FMap.tidy_put | apply FMap.tidy_mod
    | apply FMap.tidy_nil | apply FMap.tidy_foldl)

theorem State.settleAt_kept {r : State} {b} {i} {r0} {k} {effect} {s : State} (heffect : ∀ y6 y7, Kept r y7 → Kept r (effect y6 y7)) (hs : Kept r s) :
    Kept r (State.settleAt b i r0 k effect s) := by
  unfold State.settleAt
  repeat' (with_reducible first
    | assumption
    | (intro x; (refine Kept.cut (s := x) ?_ (fun _ => ?_)); (on_goal 1 => subst x); (on_goal 2 => clear_value x))
    | (intro x; (refine Kept.cutPair (p := x) ?_ (fun _ => ?_)); (on_goal 1 => subst x); (on_goal 2 => clear_value x))
    | (intro x; clear_value x) | (intro _; try beta_reduce) | apply State.settlePriors_kept | apply heffect
    | apply Kept.ite | apply Goes.ite | apply Goes.next | apply Goes.after | apply Kept.foldl | apply Kept.foldlPair
    | (refine Kept.fst ‹_ = (_, _)› ?_) | split | lift_lets | (dsimp -zeta only)
    | (fail_if_no_progress apply Kept.fields) | apply Kept.tabs | apply FMap.tidy_put | apply FMap.tidy_mod
    | apply FMap.tidy_nil | apply FMap.tidy_foldl)

theorem State.onPoint_kept {β : Type} {r : State} {b i n k effect works bad} {work : State → State × β} {s : State}
    (he : ∀ old x, Kept r x → Kept r (effect old x)) (hw : ∀ x, Kept r x → Kept r (work x).1) (hs : Kept r s) :
    Kept r (State.onPoint b i n k effect works bad work s).1 := by
  have h := State.settleAt_kept (b := b) (i := i) (r0 := n) (k := k) he hs
  unfold State.onPoint
  dsimp only
  split
  · split
    · exact State.setWords_kept (hw _ (State.setWords_kept h))
    · exact h
  · split
    · exact h
    · exact hw _ h

theorem State.viewAt_kept {r t : State} {s : State} {b} {i} {r0} {k} (hs : Kept r s) (he : State.viewAt s b i r0 k = some t) :
    Kept r t := by
  unfold State.viewAt at he
  repeat' (with_reducible first
    | assumption | (cases he) | (split at he) | (obtain ⟨x, -, rfl⟩ := Option.map_eq_some_iff.1 he)
    | (intro x; (refine Kept.cut (s := x) ?_ (fun _ => ?_)); (on_goal 1 => subst x); (on_goal 2 => clear_value x))
    | (intro x; (refine Kept.cutPair (p := x) ?_ (fun _ => ?_)); (on_goal 1 => subst x); (on_goal 2 => clear_value x))
    | (intro x; clear_value x) | (intro _; try beta_reduce) | apply State.setWords_kept | apply Kept.ite
    | apply Goes.ite | apply Goes.next | apply Goes.after | apply Kept.foldl | apply Kept.foldlPair
    | (refine Kept.fst ‹_ = (_, _)› ?_) | split | lift_lets | (dsimp -zeta only) | (dsimp only at he)
    | (fail_if_no_progress apply Kept.fields) | apply Kept.tabs | apply FMap.tidy_put | apply FMap.tidy_mod
    | apply FMap.tidy_nil | apply FMap.tidy_foldl)

theorem State.turn_kept {r : State} {b} {i} {p} {q} {was} {effect} {s : State} (heffect : ∀ y7 y8, Kept r y8 → Kept r (effect y7 y8)) (hs : Kept r s) :
    Kept r (State.turn b i p q was effect s) := by
  unfold State.turn
  repeat' (with_reducible first
    | assumption
    | (intro x; (refine Kept.cut (s := x) ?_ (fun _ => ?_)); (on_goal 1 => subst x); (on_goal 2 => clear_value x))
    | (intro x; (refine Kept.cutPair (p := x) ?_ (fun _ => ?_)); (on_goal 1 => subst x); (on_goal 2 => clear_value x))
    | (intro x; clear_value x) | (intro _; try beta_reduce) | apply State.setPriors_kept | apply State.setWords_kept
    | apply State.settleInst_kept | apply heffect | apply Kept.ite | apply Goes.ite | apply Goes.next
    | apply Goes.after | apply Kept.foldl | apply Kept.foldlPair | (refine Kept.fst ‹_ = (_, _)› ?_) | split
    | lift_lets | (dsimp -zeta only) | (fail_if_no_progress apply Kept.fields) | apply Kept.tabs | apply FMap.tidy_put
    | apply FMap.tidy_mod | apply FMap.tidy_nil | apply FMap.tidy_foldl)

end Sys2Proof.Machine
end

