-- ==== Sys2Proof/Laws/KeptQuality.lean ====
section
/-!
SUPPORT. What the operations of Machine/Quality.lean keep.
-/

set_option linter.all false

namespace Sys2Proof.Machine

theorem State.modWf_kept {r : State} {r0} {f} {s : State} (hs : Kept r s) :
    Kept r (State.modWf r0 f s) := by
  unfold State.modWf
  repeat' (with_reducible first
    | assumption | (intro _; try beta_reduce) | apply Kept.ite | (refine Kept.fst ‹_ = (_, _)› ?_) | split
    | (dsimp only) | (fail_if_no_progress apply Kept.fields) | apply Kept.tabs
    | apply FMap.tidy_put | apply FMap.tidy_mod)

theorem State.putGrid_kept {r : State} {n} {q} {k} {v} {qual} {s : State} (hs : Kept r s) :
    Kept r (State.putGrid n q k v qual s) := by
  unfold State.putGrid
  repeat' (with_reducible first | assumption | apply State.stWords_kept)

theorem State.publishBank_kept {r : State} {a} {late} {fault} {b} {s : State} (hs : Kept r s) :
    Kept r (State.publishBank a late fault b s) := by
  unfold State.publishBank
  repeat' (with_reducible first | assumption | apply State.st_kept)

theorem State.publish_kept {r : State} {a} {late} {fault} {s : State} (hs : Kept r s) :
    Kept r (State.publish a late fault s) := by
  unfold State.publish
  repeat' (with_reducible first | assumption | apply State.st_kept)

end Sys2Proof.Machine
end

