-- ==== Sys2Proof/Laws/KeptSie.lean ====
section
/-!
SUPPORT. What the operations of Machine/Sie.lean keep.
-/

set_option linter.all false

namespace Sys2Proof.Machine

theorem State.modCh_kept {r : State} {n} {f} {s : State} (hs : Kept r s) :
    Kept r (State.modCh n f s) := by
  unfold State.modCh
  repeat' (with_reducible first
    | assumption | (intro _; try beta_reduce) | apply Kept.ite | (refine Kept.fst ‹_ = (_, _)› ?_) | split
    | (dsimp only) | (fail_if_no_progress apply Kept.fields) | apply Kept.tabs
    | apply FMap.tidy_put | apply FMap.tidy_mod | apply FMap.tidy_foldl | apply FMap.tidy_nil)

theorem State.noteAge_kept {r : State} {n} {age} {s : State} (hs : Kept r s) :
    Kept r (State.noteAge n age s) := by
  unfold State.noteAge
  repeat' (with_reducible first
    | assumption | (intro _; try beta_reduce) | apply State.modCh_kept | apply State.setReg_kept | apply Kept.ite
    | split)

theorem State.gridQty_kept {r : State} {n} {q} {p} {s : State} (hs : Kept r s) :
    Kept r (State.gridQty n q p s) := by
  unfold State.gridQty
  repeat' (with_reducible first
    | assumption | (intro _; try beta_reduce) | apply State.putGrid_kept | apply Kept.ite | split)

theorem State.setPts_kept {r : State} {r0} {l} {s : State} (hs : Kept r s) :
    Kept r (State.setPts r0 l s) := by
  unfold State.setPts
  repeat' (with_reducible first
    | assumption | (intro _; try beta_reduce) | apply Kept.ite | (refine Kept.fst ‹_ = (_, _)› ?_) | split
    | (dsimp only) | (fail_if_no_progress apply Kept.fields) | apply Kept.tabs
    | apply FMap.tidy_put | apply FMap.tidy_mod | apply FMap.tidy_foldl | apply FMap.tidy_nil)

theorem State.pushClose_kept {r : State} {c} {s : State} (hs : Kept r s) :
    Kept r (State.pushClose c s) := by
  unfold State.pushClose
  repeat' (with_reducible first
    | assumption | (intro _; try beta_reduce) | apply Kept.ite | (refine Kept.fst ‹_ = (_, _)› ?_) | split
    | (dsimp only) | (fail_if_no_progress apply Kept.fields) | apply Kept.tabs
    | apply FMap.tidy_put | apply FMap.tidy_mod | apply FMap.tidy_foldl | apply FMap.tidy_nil)

theorem State.putSample_kept {r : State} {n} {t16} {cnt} {synch} {subst} {test} {vals} {s : State} (hs : Kept r s) :
    Kept r (State.putSample n t16 cnt synch subst test vals s) := by
  unfold State.putSample
  repeat' (with_reducible first
    | assumption | (intro _; try beta_reduce) | apply State.each_kept | apply State.stWords_kept
    | apply State.setFld_kept | apply State.setReg_kept | apply State.modCh_kept | apply Kept.ite | split)

theorem State.gridPoint_kept {r : State} {n} {r0} {p} {s : State} (hs : Kept r s) :
    Kept r (State.gridPoint n r0 p s) := by
  unfold State.gridPoint
  repeat' (with_reducible first
    | assumption
    | (intro x; (refine Kept.cut (s := x) ?_ (fun _ => ?_)); (on_goal 1 => subst x); (on_goal 2 => clear_value x))
    | (intro x; (refine Kept.cutPair (p := x) ?_ (fun _ => ?_)); (on_goal 1 => subst x); (on_goal 2 => clear_value x))
    | (intro x; clear_value x) | (intro _; try beta_reduce) | apply State.onPoint_kept | apply State.each_kept
    | apply State.gridQty_kept | apply Kept.ite | apply Goes.ite | apply Goes.next | apply Goes.after
    | apply Kept.foldl | apply Kept.foldlPair | (refine Kept.fst ‹_ = (_, _)› ?_) | split | lift_lets
    | (dsimp -zeta only) | (fail_if_no_progress apply Kept.fields) | apply Kept.tabs | apply FMap.tidy_put
    | apply FMap.tidy_mod | apply FMap.tidy_nil | apply FMap.tidy_foldl)

theorem State.putInvalid_kept {r : State} {n} {k} {s : State} (hs : Kept r s) :
    Kept r (State.putInvalid n k s) := by
  unfold State.putInvalid
  repeat' (with_reducible first
    | assumption | (intro _; try beta_reduce) | apply State.each_kept | apply State.putGrid_kept | apply Kept.ite
    | split)

theorem State.svReject_kept {r : State} {n} {cause} {reg} {s : State} (hs : Kept r s) :
    Kept r (State.svReject n cause reg s) := by
  unfold State.svReject
  repeat' (with_reducible first | assumption | apply State.setFld_kept | apply State.inc_kept | apply State.modCh_kept)

theorem State.dropWaiting_kept {r : State} {n} {s : State} (hs : Kept r s) :
    Kept r (State.dropWaiting n s) := by
  unfold State.dropWaiting
  repeat' (with_reducible first
    | assumption | (intro _; try beta_reduce) | apply State.each_kept | apply State.putInvalid_kept
    | apply State.setPts_kept | apply Kept.ite | split)

theorem State.setStream_kept {r : State} {n} {st} {s : State} (hs : Kept r s) :
    Kept r (State.setStream n st s) := by
  unfold State.setStream
  repeat' (with_reducible first
    | assumption | (intro _; try beta_reduce) | apply State.evt_kept | apply State.setFld_kept
    | apply State.dropWaiting_kept | apply Kept.ite | split)

theorem execStreamFailed_goes {r : State} {n} {s : State} (hs : Kept r s) :
    Goes r (execStreamFailed n s) := by
  unfold execStreamFailed
  repeat' (with_reducible first
    | assumption | (intro _; try beta_reduce) | apply Goes.next | apply State.modCh_kept | apply State.incFld_kept
    | apply State.evt_kept | apply State.setStream_kept | apply Kept.ite | split)

theorem State.resync_kept {r : State} {n} {s : State} (hs : Kept r s) :
    Kept r (State.resync n s) := by
  unfold State.resync
  repeat' (with_reducible first
    | assumption | apply State.incFld_kept | apply State.evt_kept | apply State.modCh_kept | apply State.setFld_kept
    | apply State.setBit_kept | apply State.setReg_kept | apply State.setStream_kept)

theorem execStreamAbsent_goes {r : State} {n} {s : State} (hs : Kept r s) :
    Goes r (execStreamAbsent n s) := by
  unfold execStreamAbsent
  repeat' (with_reducible first
    | assumption | (intro _; try beta_reduce) | apply Goes.next | apply State.setStream_kept | apply Kept.ite | split)

theorem execStreamValid_goes {r : State} {n} {s : State} (hs : Kept r s) :
    Goes r (execStreamValid n s) := by
  unfold execStreamValid
  repeat' (with_reducible first
    | assumption | (intro _; try beta_reduce) | apply Goes.next | apply State.setStream_kept | apply Kept.ite | split)

theorem State.releaseAll_kept {r : State} {r0} {p} {s : State} (hs : Kept r s) :
    Kept r (State.releaseAll r0 p s) := by
  unfold State.releaseAll
  repeat' (with_reducible first
    | assumption
    | (intro x; (refine Kept.cut (s := x) ?_ (fun _ => ?_)); (on_goal 1 => subst x); (on_goal 2 => clear_value x))
    | (intro x; (refine Kept.cutPair (p := x) ?_ (fun _ => ?_)); (on_goal 1 => subst x); (on_goal 2 => clear_value x))
    | (intro x; clear_value x) | (intro _; try beta_reduce) | apply State.each_kept | apply State.onPoint_kept
    | apply State.releasePoint_kept | apply Kept.ite | apply Goes.ite | apply Goes.next | apply Goes.after
    | apply Kept.foldl | apply Kept.foldlPair | (refine Kept.fst ‹_ = (_, _)› ?_) | split | lift_lets
    | (dsimp -zeta only) | (fail_if_no_progress apply Kept.fields) | apply Kept.tabs | apply FMap.tidy_put
    | apply FMap.tidy_mod | apply FMap.tidy_nil | apply FMap.tidy_foldl)

theorem State.closeGrid_kept {r : State} {r0} {p} {rest} {s : State} (hs : Kept r s) :
    Kept r (State.closeGrid r0 p rest s) := by
  unfold State.closeGrid
  repeat' (with_reducible first
    | assumption | (intro _; try beta_reduce) | apply State.stWords_kept | apply State.publishBank_kept
    | apply State.setPts_kept | apply State.pushClose_kept | apply State.releaseAll_kept | apply Kept.ite
    | (refine Kept.fst ‹_ = (_, _)› ?_) | split | (dsimp only) | (fail_if_no_progress apply Kept.fields) | apply Kept.tabs
    | apply FMap.tidy_put | apply FMap.tidy_mod | apply FMap.tidy_foldl | apply FMap.tidy_nil)

theorem State.gridClose_kept {r : State} {r0} {s : State} (hs : Kept r s) :
    Kept r (State.gridClose r0 s) := by
  unfold State.gridClose
  repeat' (with_reducible first
    | assumption | (intro _; try beta_reduce) | apply State.closeGrid_kept | apply Kept.ite | split)

theorem State.closeDeadline_kept {r : State} {r0} {s : State} (hs : Kept r s) :
    Kept r (State.closeDeadline r0 s) := by
  unfold State.closeDeadline
  repeat' (with_reducible first
    | assumption
    | (intro x; (refine Kept.cut (s := x) ?_ (fun _ => ?_)); (on_goal 1 => subst x); (on_goal 2 => clear_value x))
    | (intro x; (refine Kept.cutPair (p := x) ?_ (fun _ => ?_)); (on_goal 1 => subst x); (on_goal 2 => clear_value x))
    | (intro x; clear_value x) | (intro _; try beta_reduce) | apply State.putInvalid_kept | apply State.closeGrid_kept
    | apply Kept.ite | apply Goes.ite | apply Goes.next | apply Goes.after | apply Kept.foldl | apply Kept.foldlPair
    | (refine Kept.fst ‹_ = (_, _)› ?_) | split | lift_lets | (dsimp -zeta only)
    | (fail_if_no_progress apply Kept.fields) | apply Kept.tabs
    | apply FMap.tidy_put | apply FMap.tidy_mod | apply FMap.tidy_foldl | apply FMap.tidy_nil)

theorem execGridPointClose_goes {r : State} {r0} {s : State} (hs : Kept r s) :
    Goes r (execGridPointClose r0 s) := by
  unfold execGridPointClose
  repeat' (with_reducible first | assumption | apply Goes.next | apply State.gridClose_kept)

theorem execCloseDeadline_goes {r : State} {r0} {s : State} (hs : Kept r s) :
    Goes r (execCloseDeadline r0 s) := by
  unfold execCloseDeadline
  repeat' (with_reducible first | assumption | apply Goes.next | apply State.closeDeadline_kept)

theorem State.sieDual_kept {r : State} {s : State} (hs : Kept r s) :
    Kept r (State.sieDual s) := by
  unfold State.sieDual
  repeat' (with_reducible first
    | assumption
    | (intro x; (refine Kept.cut (s := x) ?_ (fun _ => ?_)); (on_goal 1 => subst x); (on_goal 2 => clear_value x))
    | (intro x; (refine Kept.cutPair (p := x) ?_ (fun _ => ?_)); (on_goal 1 => subst x); (on_goal 2 => clear_value x))
    | (intro x; clear_value x) | (intro _; try beta_reduce) | apply State.blockFault_kept | apply State.evt_kept
    | apply State.inc_kept | apply Kept.ite | apply Goes.ite | apply Goes.next | apply Goes.after | apply Kept.foldl
    | apply Kept.foldlPair | (refine Kept.fst ‹_ = (_, _)› ?_) | split | lift_lets | (dsimp -zeta only)
    | (fail_if_no_progress apply Kept.fields) | apply Kept.tabs | apply FMap.tidy_put | apply FMap.tidy_mod
    | apply FMap.tidy_nil | apply FMap.tidy_foldl)

theorem State.resample_kept {r : State} {n} {dual} {s : State} (hs : Kept r s) :
    Kept r (State.resample n dual s) := by
  unfold State.resample
  repeat' (with_reducible first
    | assumption
    | (intro x; (refine Kept.cut (s := x) ?_ (fun _ => ?_)); (on_goal 1 => subst x); (on_goal 2 => clear_value x))
    | (intro x; (refine Kept.cutPair (p := x) ?_ (fun _ => ?_)); (on_goal 1 => subst x); (on_goal 2 => clear_value x))
    | (intro x; clear_value x) | (intro _; try beta_reduce) | apply State.each_kept | apply State.gridPoint_kept
    | apply State.sieDual_kept | apply State.setPts_kept | apply Kept.ite | apply Goes.ite | apply Goes.next
    | apply Goes.after | apply Kept.foldl | apply Kept.foldlPair | (refine Kept.fst ‹_ = (_, _)› ?_) | split
    | lift_lets | (dsimp -zeta only) | (fail_if_no_progress apply Kept.fields) | apply Kept.tabs | apply FMap.tidy_put
    | apply FMap.tidy_mod | apply FMap.tidy_nil | apply FMap.tidy_foldl)

theorem State.substitute_kept {r : State} {n} {dual} {s : State} (hs : Kept r s) :
    Kept r (State.substitute n dual s) := by
  unfold State.substitute
  repeat' (with_reducible first
    | assumption
    | (intro x; (refine Kept.cut (s := x) ?_ (fun _ => ?_)); (on_goal 1 => subst x); (on_goal 2 => clear_value x))
    | (intro x; (refine Kept.cutPair (p := x) ?_ (fun _ => ?_)); (on_goal 1 => subst x); (on_goal 2 => clear_value x))
    | (intro x; clear_value x) | (intro _; try beta_reduce) | apply State.modCh_kept | apply State.putSample_kept
    | apply State.evt_kept | apply State.inc_kept | apply State.incFld_kept | apply State.setStream_kept
    | apply State.resample_kept | apply Kept.ite | apply Goes.ite | apply Goes.next | apply Goes.after
    | apply Kept.foldl | apply Kept.foldlPair | (refine Kept.fst ‹_ = (_, _)› ?_) | split | lift_lets
    | (dsimp -zeta only) | (fail_if_no_progress apply Kept.fields) | apply Kept.tabs | apply FMap.tidy_put
    | apply FMap.tidy_mod | apply FMap.tidy_nil | apply FMap.tidy_foldl)

theorem State.sampleMissing_kept {r : State} {n} {dual} {s : State} (hs : Kept r s) :
    Kept r (State.sampleMissing n dual s) := by
  unfold State.sampleMissing
  repeat' (with_reducible first
    | assumption
    | (intro x; (refine Kept.cut (s := x) ?_ (fun _ => ?_)); (on_goal 1 => subst x); (on_goal 2 => clear_value x))
    | (intro x; (refine Kept.cutPair (p := x) ?_ (fun _ => ?_)); (on_goal 1 => subst x); (on_goal 2 => clear_value x))
    | (intro x; clear_value x) | (intro _; try beta_reduce) | apply State.resync_kept | apply State.substitute_kept
    | apply Kept.ite | apply Goes.ite | apply Goes.next | apply Goes.after | apply Kept.foldl | apply Kept.foldlPair
    | (refine Kept.fst ‹_ = (_, _)› ?_) | split | lift_lets | (dsimp -zeta only)
    | (fail_if_no_progress apply Kept.fields) | apply Kept.tabs | apply FMap.tidy_put | apply FMap.tidy_mod
    | apply FMap.tidy_nil | apply FMap.tidy_foldl)

theorem State.acceptSample_kept {r : State} {n} {f} {a} {good} {fault} {s : State} (hs : Kept r s) :
    Kept r (State.acceptSample n f a good fault s) := by
  unfold State.acceptSample
  repeat' (with_reducible first
    | assumption | (intro _; try beta_reduce) | apply State.when_kept | apply State.evt_kept
    | apply State.noteAge_kept | apply State.setFld_kept | apply State.setBit_kept | apply State.modCh_kept
    | apply State.setStream_kept | apply State.putSample_kept | apply State.resample_kept | apply Kept.ite | split)

theorem execSampleMissing_goes {r : State} {n} {dual} {s : State} (hs : Kept r s) :
    Goes r (execSampleMissing n dual s) := by
  unfold execSampleMissing
  repeat' (with_reducible first
    | assumption
    | (intro x; (refine Kept.cut (s := x) ?_ (fun _ => ?_)); (on_goal 1 => subst x); (on_goal 2 => clear_value x))
    | (intro x; (refine Kept.cutPair (p := x) ?_ (fun _ => ?_)); (on_goal 1 => subst x); (on_goal 2 => clear_value x))
    | (intro x; clear_value x) | (intro _; try beta_reduce) | apply State.sampleMissing_kept | apply Kept.ite
    | apply Goes.ite | apply Goes.next | apply Goes.after | apply Kept.foldl | apply Kept.foldlPair
    | (refine Kept.fst ‹_ = (_, _)› ?_) | split | lift_lets | (dsimp -zeta only)
    | (fail_if_no_progress apply Kept.fields) | apply Kept.tabs | apply FMap.tidy_put | apply FMap.tidy_mod
    | apply FMap.tidy_nil | apply FMap.tidy_foldl)

theorem State.asdu_kept {r : State} {n} {f} {dual} {a} {s : State} (hs : Kept r s) :
    Kept r (State.asdu n f dual a s) := by
  unfold State.asdu
  repeat' (with_reducible first
    | assumption
    | (intro x; (refine Kept.cut (s := x) ?_ (fun _ => ?_)); (on_goal 1 => subst x); (on_goal 2 => clear_value x))
    | (intro x; (refine Kept.cutPair (p := x) ?_ (fun _ => ?_)); (on_goal 1 => subst x); (on_goal 2 => clear_value x))
    | (intro x; clear_value x) | (intro _; try beta_reduce) | apply State.acceptSample_kept | apply State.evt_kept
    | apply State.inc_kept | apply State.each_kept | apply State.substitute_kept | apply State.resync_kept
    | apply Kept.ite | apply Goes.ite | apply Goes.next | apply Goes.after | apply Kept.foldl | apply Kept.foldlPair
    | (refine Kept.fst ‹_ = (_, _)› ?_) | split | lift_lets | (dsimp -zeta only)
    | (fail_if_no_progress apply Kept.fields) | apply Kept.tabs | apply FMap.tidy_put | apply FMap.tidy_mod
    | apply FMap.tidy_nil | apply FMap.tidy_foldl)

theorem State.takeFrame_kept {r : State} {n} {f} {fault} {s : State} (hs : Kept r s) :
    Kept r (State.takeFrame n f fault s) := by
  unfold State.takeFrame
  repeat' (with_reducible first
    | assumption
    | (intro x; (refine Kept.cut (s := x) ?_ (fun _ => ?_)); (on_goal 1 => subst x); (on_goal 2 => clear_value x))
    | (intro x; (refine Kept.cutPair (p := x) ?_ (fun _ => ?_)); (on_goal 1 => subst x); (on_goal 2 => clear_value x))
    | (intro x; clear_value x) | (intro _; try beta_reduce) | apply State.setStream_kept | apply State.modCh_kept
    | apply State.when_kept | apply State.inc_kept | apply State.setBit_kept | apply State.setFld_kept
    | apply State.asdu_kept | apply Kept.ite | apply Goes.ite | apply Goes.next | apply Goes.after | apply Kept.foldl
    | apply Kept.foldlPair | (refine Kept.fst ‹_ = (_, _)› ?_) | split | lift_lets | (dsimp -zeta only)
    | (fail_if_no_progress apply Kept.fields) | apply Kept.tabs
    | apply FMap.tidy_put | apply FMap.tidy_mod | apply FMap.tidy_foldl | apply FMap.tidy_nil)

theorem State.streamExit_kept {r : State} {n} {dual} {s : State} (hs : Kept r s) :
    Kept r (State.streamExit n dual s) := by
  unfold State.streamExit
  repeat' (with_reducible first
    | assumption
    | (intro x; (refine Kept.cut (s := x) ?_ (fun _ => ?_)); (on_goal 1 => subst x); (on_goal 2 => clear_value x))
    | (intro x; (refine Kept.cutPair (p := x) ?_ (fun _ => ?_)); (on_goal 1 => subst x); (on_goal 2 => clear_value x))
    | (intro x; clear_value x) | (intro _; try beta_reduce) | apply State.modCh_kept | apply State.setFld_kept
    | apply State.setStream_kept | apply State.takeFrame_kept | apply Kept.ite | apply Goes.ite | apply Goes.next
    | apply Goes.after | apply Kept.foldl | apply Kept.foldlPair | (refine Kept.fst ‹_ = (_, _)› ?_) | split
    | lift_lets | (dsimp -zeta only) | (fail_if_no_progress apply Kept.fields) | apply Kept.tabs | apply FMap.tidy_put
    | apply FMap.tidy_mod | apply FMap.tidy_nil | apply FMap.tidy_foldl)

theorem State.svIngest_kept {r : State} {n f dc dg} {s : State} (hs : Kept r s) : Kept r (State.svIngest n f dc dg s) := by
  unfold State.svIngest
  extract_lets +onlyGivenNames q s0
  have k0 : Kept r s0 := Kept.fields (s := q) (State.inc_kept hs)
  refine Kept.ite k0 (Kept.ite (State.inc_kept k0) (Kept.ite (State.inc_kept k0) ?_))
  extract_lets +onlyGivenNames p srcReg
  refine Kept.ite (State.svReject_kept k0) ?_
  split
  · exact State.svReject_kept k0
  refine Kept.ite (State.inc_kept k0) ?_
  extract_lets +onlyGivenNames mode slot cause
  refine Kept.ite (State.evt_kept (State.svReject_kept k0)) ?_
  extract_lets +onlyGivenNames used s1
  have k1 : Kept r s1 := by
    have h : ∀ o : Option (Nat × Bool), Kept r (match o with | some u => s0.inc (KEY_SLOT_USES u.1) | none => s0) := by
      intro o
      cases o
      · exact k0
      · exact State.inc_kept k0
    exact h used
  split
  split
  · exact State.when_kept (fun _ h => State.evt_kept h) (State.inc_kept k1)
  · exact State.inc_kept k1
  extract_lets +onlyGivenNames s2 nom
  have k2 : Kept r s2 := State.modCh_kept k1
  split
  · exact State.svReject_kept k2
  extract_lets +onlyGivenNames g failed s3
  have k3 : Kept r s3 := State.modCh_kept k2
  exact Kept.ite k3 (Kept.ite (State.sieDual_kept k3) (Kept.ite (State.modCh_kept k3) (State.takeFrame_kept k3)))

theorem execStreamFailedExit_goes {r : State} {n} {dual} {s : State} (hs : Kept r s) :
    Goes r (execStreamFailedExit n dual s) := by
  unfold execStreamFailedExit
  repeat' (with_reducible first
    | assumption
    | (intro x; (refine Kept.cut (s := x) ?_ (fun _ => ?_)); (on_goal 1 => subst x); (on_goal 2 => clear_value x))
    | (intro x; (refine Kept.cutPair (p := x) ?_ (fun _ => ?_)); (on_goal 1 => subst x); (on_goal 2 => clear_value x))
    | (intro x; clear_value x) | (intro _; try beta_reduce) | apply State.streamExit_kept | apply Kept.ite
    | apply Goes.ite | apply Goes.next | apply Goes.after | apply Kept.foldl | apply Kept.foldlPair
    | (refine Kept.fst ‹_ = (_, _)› ?_) | split | lift_lets | (dsimp -zeta only)
    | (fail_if_no_progress apply Kept.fields) | apply Kept.tabs | apply FMap.tidy_put | apply FMap.tidy_mod
    | apply FMap.tidy_nil | apply FMap.tidy_foldl)

theorem execSvFrameIngest_goes {r : State} {n} {f} {dualCheck} {dual} {s : State} (hs : Kept r s) :
    Goes r (execSvFrameIngest n f dualCheck dual s) := by
  unfold execSvFrameIngest
  repeat' (with_reducible first
    | assumption
    | (intro x; (refine Kept.cut (s := x) ?_ (fun _ => ?_)); (on_goal 1 => subst x); (on_goal 2 => clear_value x))
    | (intro x; (refine Kept.cutPair (p := x) ?_ (fun _ => ?_)); (on_goal 1 => subst x); (on_goal 2 => clear_value x))
    | (intro x; clear_value x) | (intro _; try beta_reduce) | apply State.svIngest_kept | apply Kept.ite
    | apply Goes.ite | apply Goes.next | apply Goes.after | apply Kept.foldl | apply Kept.foldlPair
    | (refine Kept.fst ‹_ = (_, _)› ?_) | split | lift_lets | (dsimp -zeta only)
    | (fail_if_no_progress apply Kept.fields) | apply Kept.tabs | apply FMap.tidy_put | apply FMap.tidy_mod
    | apply FMap.tidy_nil | apply FMap.tidy_foldl)

end Sys2Proof.Machine
end

