-- ==== Sys2Proof/Laws/KeptCan.lean ====
section
/-!
SUPPORT. What the operations of Machine/Can.lean keep.
-/

set_option linter.all false

namespace Sys2Proof.Machine

theorem State.modCan_kept {r : State} {o} {f} {s : State} (hs : Kept r s) :
    Kept r (State.modCan o f s) := by
  unfold State.modCan
  repeat' (with_reducible first
    | assumption | (intro _; try beta_reduce) | apply Kept.ite | (refine Kept.fst ‹_ = (_, _)› ?_) | split
    | (dsimp only) | (fail_if_no_progress apply Kept.fields) | apply Kept.tabs
    | apply FMap.tidy_put | apply FMap.tidy_mod)

theorem State.canMandateLost_kept {r : State} {s : State} (hs : Kept r s) :
    Kept r (State.canMandateLost s) := by
  unfold State.canMandateLost
  repeat' (with_reducible first
    | assumption | (intro _; try beta_reduce) | apply State.each_kept | apply State.modCan_kept | apply Kept.ite)

theorem State.showQueue_kept {r : State} {o} {s : State} (hs : Kept r s) :
    Kept r (State.showQueue o s) := by
  unfold State.showQueue
  repeat' (with_reducible first | assumption | apply State.setFld_kept)

theorem State.canIntegrate_kept {r : State} {o} {s : State} (hs : Kept r s) :
    Kept r (State.canIntegrate o s) := by
  unfold State.canIntegrate
  repeat' (with_reducible first
    | assumption | (intro _; try beta_reduce) | apply State.setFld_kept | apply Kept.ite)

theorem State.fifoPop_kept {r : State} {o} {s : State} (hs : Kept r s) :
    Kept r (State.fifoPop o s) := by
  unfold State.fifoPop
  repeat' (with_reducible first
    | assumption | (intro _; try beta_reduce) | apply State.setFld_kept | apply Kept.ite)

theorem State.canRecover_kept {r : State} {o} {s : State} (hs : Kept r s) :
    Kept r (State.canRecover o s) := by
  unfold State.canRecover
  repeat' (with_reducible first
    | assumption | (intro _; try beta_reduce) | apply State.modCan_kept | apply Kept.ite)

theorem State.canError_kept {r : State} {o} {code} {s : State} (hs : Kept r s) :
    Kept r (State.canError o code s) := by
  unfold State.canError
  repeat' (with_reducible first | assumption | apply State.inc_kept | apply State.setFld_kept)

theorem State.trumpPop_kept {r : State} {o} {s : State} (hs : Kept r s) :
    Kept r (State.trumpPop o s) := by
  unfold State.trumpPop
  repeat' (with_reducible first
    | assumption | (intro _; try beta_reduce) | apply State.setFld_kept | apply Kept.ite)

theorem execBusIntegration_goes {r : State} {o} {s : State} (hs : Kept r s) :
    Goes r (execBusIntegration o s) := by
  unfold execBusIntegration
  repeat' (with_reducible first | assumption | apply Goes.next | apply State.canIntegrate_kept)

theorem State.canDone_kept {r : State} {o} {e} {status} {ts} {s : State} (hs : Kept r s) :
    Kept r (State.canDone o e status ts s) := by
  unfold State.canDone
  repeat' (with_reducible first
    | assumption | apply State.setReg_kept | apply State.modCan_kept | apply State.setFld_kept)

theorem State.canFlush_kept {r : State} {o} {status} {keepHead} {s : State} (hs : Kept r s) :
    Kept r (State.canFlush o status keepHead s) := by
  unfold State.canFlush
  repeat' (with_reducible first
    | assumption | (intro _; try beta_reduce) | apply State.modCan_kept | apply State.setBit_kept
    | apply State.showQueue_kept | apply State.each_kept | apply State.canDone_kept)

theorem State.canPop_kept {r : State} {o} {status} {ts} {s : State} (hs : Kept r s) :
    Kept r (State.canPop o status ts s) := by
  unfold State.canPop
  repeat' (with_reducible first
    | assumption | (intro _; try beta_reduce) | apply State.showQueue_kept | apply State.canDone_kept
    | apply State.modCan_kept | apply Kept.ite | split)

theorem State.canSlot_kept {r : State} {a} {x} {flt} {ts} {lost} {s : State} (hs : Kept r s) :
    Kept r (State.canSlot a x flt ts lost s) := by
  unfold State.canSlot
  repeat' (with_reducible first
    | assumption | (intro _; try beta_reduce) | apply State.each_kept | apply State.setReg_kept
    | apply State.incMod_kept)

theorem State.canEnqueue_kept {r : State} {w} {o} {s : State} (hs : Kept r s) :
    Kept r (State.canEnqueue w o s) := by
  unfold State.canEnqueue
  repeat' (with_reducible first
    | assumption | (intro _; try beta_reduce) | apply State.setFld_kept | apply State.showQueue_kept
    | apply State.modCan_kept | apply Kept.ite)

theorem State.canTiming_kept {r : State} {o} {a} {v} {s : State} (hs : Kept r s) :
    Kept r (State.canTiming o a v s) := by
  unfold State.canTiming
  repeat' (with_reducible first
    | assumption | (intro _; try beta_reduce) | apply State.evt_kept | apply State.setReg_kept | apply Kept.ite)

theorem State.canCtl_kept {r : State} {o} {v} {s : State} (hs : Kept r s) :
    Kept r (State.canCtl o v s) := by
  unfold State.canCtl
  repeat' (with_reducible first
    | assumption | (intro _; try beta_reduce) | apply State.evt_kept | apply State.setReg_kept
    | apply State.modCan_kept | apply State.setFld_kept | apply State.canFlush_kept | apply Kept.ite)

theorem State.canTrump_kept {r : State} {o} {x} {flt} {ts} {s : State} (hs : Kept r s) :
    Kept r (State.canTrump o x flt ts s) := by
  unfold State.canTrump
  repeat' (with_reducible first
    | assumption | (intro _; try beta_reduce) | apply State.inc_kept | apply State.evt_kept | apply State.setFld_kept
    | apply State.canSlot_kept | apply State.setReg_kept | apply State.emit_kept | apply Kept.ite)

theorem State.canRefInstant_kept {r : State} {o} {s : State} (hs : Kept r s) :
    Kept r (State.canRefInstant o s) := by
  unfold State.canRefInstant
  repeat' (with_reducible first
    | assumption | (intro _; try beta_reduce) | apply State.modCan_kept | apply State.inc_kept | apply State.evt_kept
    | apply Kept.ite)

theorem State.canTdc_kept {r : State} {o} {tdcv} {s : State} (hs : Kept r s) :
    Kept r (State.canTdc o tdcv s).1 := by
  unfold State.canTdc
  repeat' (with_reducible first
    | assumption | (intro _; try beta_reduce) | apply State.evt_kept | apply State.setFld_kept | apply Kept.ite
    | split)

theorem execCanRefInstant_goes {r : State} {o} {s : State} (hs : Kept r s) :
    Goes r (execCanRefInstant o s) := by
  unfold execCanRefInstant
  repeat' (with_reducible first | assumption | apply Goes.next | apply State.canRefInstant_kept)

theorem State.canFifo_kept {r : State} {o} {x} {flt} {ts} {s : State} (hs : Kept r s) :
    Kept r (State.canFifo o x flt ts s) := by
  unfold State.canFifo
  repeat' (with_reducible first
    | assumption | (intro _; try beta_reduce) | apply State.inc_kept | apply State.evt_kept | apply State.setFld_kept
    | apply State.canSlot_kept | apply Kept.ite)

theorem State.canRecovered_kept {r : State} {o} {s : State} (hs : Kept r s) :
    Kept r (State.canRecovered o s) := by
  unfold State.canRecovered
  repeat' (with_reducible first
    | assumption | (intro _; try beta_reduce) | apply State.evt_kept | apply State.setFld_kept
    | apply State.setReg_kept | apply State.modCan_kept | apply Kept.ite)

theorem State.canBuffer_kept {r : State} {o} {b} {x} {flt} {ts} {s : State} (hs : Kept r s) :
    Kept r (State.canBuffer o b x flt ts s) := by
  unfold State.canBuffer
  repeat' (with_reducible first
    | assumption | (intro _; try beta_reduce) | apply State.inc_kept | apply State.canSlot_kept
    | apply State.setBit_kept | apply Kept.ite)

theorem State.canClearNew_kept {r : State} {o} {b} {s : State} (hs : Kept r s) :
    Kept r (State.canClearNew o b s) := by
  unfold State.canClearNew
  repeat' (with_reducible first | assumption | apply State.setBit_kept)

theorem State.canFailed_kept {r : State} {o} {s : State} (hs : Kept r s) :
    Kept r (State.canFailed o s) := by
  unfold State.canFailed
  repeat' (with_reducible first
    | assumption | (intro _; try beta_reduce) | apply State.canPop_kept | apply Kept.ite | split)

theorem State.canFilter_kept {r : State} {o} {x} {ts} {s : State} (hs : Kept r s) :
    Kept r (State.canFilter o x ts s) := by
  unfold State.canFilter
  repeat' (with_reducible first
    | assumption | (intro _; try beta_reduce) | apply State.canTrump_kept | apply State.canBuffer_kept
    | apply State.canFifo_kept | apply State.inc_kept | apply Kept.ite | split)

theorem execBusOffRecovery_goes {r : State} {o} {s : State} (hs : Kept r s) :
    Goes r (execBusOffRecovery o s) := by
  unfold execBusOffRecovery
  repeat' (with_reducible first | assumption | apply Goes.next | apply State.canRecovered_kept)

theorem State.canBusOff_kept {r : State} {o} {s : State} (hs : Kept r s) :
    Kept r (State.canBusOff o s) := by
  unfold State.canBusOff
  repeat' (with_reducible first
    | assumption | (intro _; try beta_reduce) | apply State.inc_kept | apply State.evt_kept | apply State.setFld_kept
    | apply State.ledger_kept | apply State.modCan_kept | apply State.setBit_kept | apply State.canFlush_kept
    | apply Kept.ite)

theorem execBusOff_goes {r : State} {o} {s : State} (hs : Kept r s) :
    Goes r (execBusOff o s) := by
  unfold execBusOff
  repeat' (with_reducible first
    | assumption | (intro _; try beta_reduce) | apply Goes.next | apply State.canBusOff_kept | apply Kept.ite)

theorem State.canCount_kept {r : State} {o} {tec} {rec_} {s : State} (hs : Kept r s) :
    Kept r (State.canCount o tec rec_ s) := by
  unfold State.canCount
  repeat' (with_reducible first
    | assumption | (intro _; try beta_reduce) | apply State.setReg_kept | apply State.when_kept | apply State.evt_kept
    | apply State.canBusOff_kept | apply State.setFld_kept | apply Kept.ite)

theorem State.canException_kept {r : State} {o} {s : State} (hs : Kept r s) :
    Kept r (State.canException o s) := by
  unfold State.canException
  repeat' (with_reducible first
    | assumption | (intro _; try beta_reduce) | apply State.setFld_kept | apply State.canError_kept
    | apply State.canCount_kept | apply Kept.ite)

theorem State.canSent_kept {r : State} {o} {id} {ctrl} {data} {s : State} (hs : Kept r s) :
    Kept r (State.canSent o id ctrl data s) := by
  unfold State.canSent
  repeat' (with_reducible first | assumption | apply State.canCount_kept | apply State.emit_kept | apply State.inc_kept)

theorem State.recGood_kept {r : State} {o} {s : State} (hs : Kept r s) :
    Kept r (State.recGood o s) := by
  unfold State.recGood
  repeat' (with_reducible first
    | assumption | (intro _; try beta_reduce) | apply State.canCount_kept | apply State.drew_kept | apply Kept.ite)

theorem State.canTx_kept {r : State} {o} {isRef} {sof} {res} {tdcv} {s : State} (hs : Kept r s) :
    Kept r (State.canTx o isRef sof res tdcv s) := by
  unfold State.canTx
  repeat' (with_reducible first
    | assumption | (intro _; try beta_reduce) | apply State.canTdc_kept | apply State.setBit_kept
    | apply State.modCan_kept | apply State.canSent_kept | apply State.canPop_kept | apply State.canCount_kept
    | apply State.canError_kept | apply State.canFailed_kept | apply Kept.ite | split)

theorem State.canReceive_kept {r : State} {o} {x} {sof} {err} {heavy} {res} {s : State} (hs : Kept r s) :
    Kept r (State.canReceive o x sof err heavy res s) := by
  unfold State.canReceive
  repeat' (with_reducible first
    | assumption | (intro _; try beta_reduce) | apply State.canException_kept | apply State.canError_kept
    | apply State.canCount_kept | apply State.canFilter_kept | apply State.recGood_kept | apply Kept.ite)

theorem execCanFrameReceive_goes {r : State} {o} {x} {sof} {err} {heavy} {res} {s : State} (hs : Kept r s) :
    Goes r (execCanFrameReceive o x sof err heavy res s) := by
  unfold execCanFrameReceive
  repeat' (with_reducible first | assumption | apply Goes.next | apply State.canReceive_kept)

theorem execCanTxComplete_goes {r : State} {o} {isRef} {sof} {res} {tdcv} {s : State} (hs : Kept r s) :
    Goes r (execCanTxComplete o isRef sof res tdcv s) := by
  unfold execCanTxComplete
  repeat' (with_reducible first | assumption | apply Goes.next | apply State.canTx_kept)

theorem execWithdraw_goes {r : State} {w} {o} {inTx} {s : State} (hs : Kept r s) :
    Goes r (execWithdraw w o inTx s) := by
  unfold execWithdraw
  repeat' (with_reducible first
    | assumption | (intro _; try beta_reduce) | apply Goes.next | apply State.gateGrant_kept
    | apply State.canFlush_kept)

theorem execTrumpPop_goes {r : State} {w} {o} {s : State} (hs : Kept r s) :
    Goes r (execTrumpPop w o s) := by
  unfold execTrumpPop
  repeat' (with_reducible first | assumption | apply Goes.next | apply State.gateGrant_kept | apply State.trumpPop_kept)

theorem execRecover_goes {r : State} {w} {o} {s : State} (hs : Kept r s) :
    Goes r (execRecover w o s) := by
  unfold execRecover
  repeat' (with_reducible first | assumption | apply Goes.next | apply State.gateSup_kept | apply State.canRecover_kept)

theorem execEnqueue_goes {r : State} {w} {o} {s : State} (hs : Kept r s) :
    Goes r (execEnqueue w o s) := by
  unfold execEnqueue
  repeat' (with_reducible first
    | assumption | apply Goes.next | apply State.gateGrant_kept | apply State.canEnqueue_kept)

theorem execFifoPop_goes {r : State} {w} {o} {s : State} (hs : Kept r s) :
    Goes r (execFifoPop w o s) := by
  unfold execFifoPop
  repeat' (with_reducible first | assumption | apply Goes.next | apply State.gateGrant_kept | apply State.fifoPop_kept)

end Sys2Proof.Machine
end

