-- ==== Sys2Proof/Laws/KeptGuard.lean ====
section
/-!
SUPPORT. What the operations of Machine/Guard.lean keep.
-/

set_option linter.all false

namespace Sys2Proof.Machine

theorem State.modGuard_kept {r : State} {f} {s : State} (hs : Kept r s) :
    Kept r (State.modGuard f s) := by
  unfold State.modGuard
  repeat' (with_reducible first
    | assumption | (intro _; try beta_reduce) | apply Kept.ite | (refine Kept.fst ‹_ = (_, _)› ?_) | split
    | (dsimp only) | (fail_if_no_progress apply Kept.fields))

theorem State.loadActive_kept {r : State} {s : State} (hs : Kept r s) :
    Kept r (State.loadActive s) := by
  unfold State.loadActive
  repeat' (with_reducible first
    | assumption | (intro _; try beta_reduce) | apply State.each_kept | apply State.modGuard_kept)

theorem State.guardInput_kept {r : State} {ref} {i} {code} {s : State} (hs : Kept r s) :
    Kept r (State.guardInput ref i code s) := by
  unfold State.guardInput
  repeat' (with_reducible first
    | assumption | (intro _; try beta_reduce) | apply State.setBit_kept | apply State.setFld_kept
    | apply State.modGuard_kept | apply State.setReg_kept | apply Kept.ite)

theorem State.binShow_kept {r : State} {b} {s : State} (hs : Kept r s) :
    Kept r (State.binShow b s) := by
  unfold State.binShow
  repeat' (with_reducible first
    | assumption | (intro _; try beta_reduce) | apply State.baizeEvent_kept | apply State.evt_kept
    | apply State.setBit_kept | apply Kept.ite)

theorem execGuardDisarm_goes {r : State} {s : State} (hs : Kept r s) :
    Goes r (execGuardDisarm s) := by
  unfold execGuardDisarm
  repeat' (with_reducible first
    | assumption | (intro _; try beta_reduce) | apply Goes.next | apply State.baizeEvent_kept | apply State.evt_kept
    | apply State.setBit_kept | apply Kept.ite)

theorem execOutputOpen_goes {r : State} {o} {s : State} (hs : Kept r s) :
    Goes r (execOutputOpen o s) := by
  unfold execOutputOpen
  repeat' (with_reducible first
    | assumption | (intro _; try beta_reduce) | apply Goes.next | apply State.baizeEvent_kept | apply State.drive_kept
    | apply State.setBit_kept | apply Kept.ite)

theorem State.elChanged_kept {r : State} {e} {op} {s : State} (hs : Kept r s) :
    Kept r (State.elChanged e op s) := by
  unfold State.elChanged
  repeat' (with_reducible first
    | assumption | (intro _; try beta_reduce) | apply State.setBit_kept | apply State.evt_kept | apply State.inc_kept
    | apply State.baizeEvent_kept | apply Kept.ite)

theorem execBinaryInputChange_goes {r : State} {b} {level} {s : State} (hs : Kept r s) :
    Goes r (execBinaryInputChange b level s) := by
  unfold execBinaryInputChange
  repeat' (with_reducible first
    | assumption | (intro _; try beta_reduce) | apply Goes.next | apply State.binShow_kept | apply State.modGuard_kept
    | apply Kept.ite)

theorem State.elPut_kept {r : State} {e} {o} {s : State} (hs : Kept r s) :
    Kept r (State.elPut e o s) := by
  unfold State.elPut
  repeat' (with_reducible first
    | assumption | (intro _; try beta_reduce) | apply State.modGuard_kept | apply State.setReg_kept
    | apply State.elChanged_kept | apply Kept.ite)

theorem State.guardElement_kept {r : State} {e} {s : State} (hs : Kept r s) :
    Kept r (State.guardElement e s) := by
  unfold State.guardElement
  repeat' (with_reducible first
    | assumption | (intro _; try beta_reduce) | apply State.elPut_kept | apply State.drew_kept | apply Kept.ite)

theorem State.guardApply_kept {r : State} {s : State} (hs : Kept r s) :
    Kept r (State.guardApply s) := by
  unfold State.guardApply
  repeat' (with_reducible first
    | assumption | (intro _; try beta_reduce) | apply State.setBit_kept | apply State.loadActive_kept
    | apply State.each_kept | apply State.elPut_kept | apply State.modGuard_kept | apply State.when_kept
    | apply State.evt_kept | apply State.guardArm_kept | apply State.binShow_kept)

theorem State.guardFault_kept {r : State} {cause} {code} {s : State} (hs : Kept r s) :
    Kept r (State.guardFault cause code s) := by
  unfold State.guardFault
  repeat' (with_reducible first
    | assumption | apply State.evt_kept | apply State.setBit_kept | apply State.healthUpdate_kept
    | apply State.baizeEvent_kept)

theorem execOutputMismatch_goes {r : State} {o} {s : State} (hs : Kept r s) :
    Goes r (execOutputMismatch o s) := by
  unfold execOutputMismatch
  repeat' (with_reducible first
    | assumption | (intro _; try beta_reduce) | apply Goes.next | apply State.guardFault_kept | apply State.evt_kept
    | apply Kept.ite)

theorem State.guardCheck_kept {r : State} {s : State} (hs : Kept r s) :
    Kept r (State.guardCheck s) := by
  unfold State.guardCheck
  repeat' (with_reducible first
    | assumption | (intro _; try beta_reduce) | apply State.modGuard_kept | apply State.guardFault_kept
    | apply Kept.ite)

theorem State.sampleSet_kept {r : State} {codes} {s : State} (hs : Kept r s) :
    Kept r (State.sampleSet codes s) := by
  unfold State.sampleSet
  repeat' (with_reducible first
    | assumption | (intro _; try beta_reduce) | apply State.modGuard_kept | apply State.guardArm_kept
    | apply State.setBit_kept | apply State.each_kept | apply State.guardInput_kept | apply State.closeOutputs_kept
    | apply State.guardElement_kept | apply Kept.ite)

theorem execGuardSampleSet_goes {r : State} {codes} {s : State} (hs : Kept r s) :
    Goes r (execGuardSampleSet codes s) := by
  unfold execGuardSampleSet
  repeat' (with_reducible first | assumption | apply Goes.next | apply State.sampleSet_kept)

theorem State.guardFaultShown_kept {r : State} {s : State} (hs : Kept r s) :
    Kept r (State.guardFaultShown s) := by
  unfold State.guardFaultShown
  repeat' (with_reducible first | assumption | apply State.healthUpdate_kept | apply State.setBit_kept)

theorem execGuardOscDeviation_goes {r : State} {s : State} (hs : Kept r s) :
    Goes r (execGuardOscDeviation s) := by
  unfold execGuardOscDeviation
  repeat' (with_reducible first
    | assumption | (intro _; try beta_reduce) | apply Goes.next | apply State.guardFault_kept | apply Kept.ite)

theorem execGuardCheck_goes {r : State} {s : State} (hs : Kept r s) :
    Goes r (execGuardCheck s) := by
  unfold execGuardCheck
  repeat' (with_reducible first | assumption | apply Goes.next | apply State.guardCheck_kept)

theorem execGuardApply_goes {r : State} {w} {value} {s : State} (hs : Kept r s) :
    Goes r (execGuardApply w value s) := by
  unfold execGuardApply
  repeat' (with_reducible first
    | assumption | (intro _; try beta_reduce) | apply Goes.next | apply State.gateSup_kept | apply State.when_kept
    | apply State.guardApply_kept)

end Sys2Proof.Machine
end

