-- ==== Sys2Proof/Laws/KeptTimeUnit.lean ====
section
/-!
SUPPORT. What the operations of Machine/TimeUnit.lean keep.
-/

set_option linter.all false

namespace Sys2Proof.Machine

theorem State.censusStep_kept {r : State} {old} {now} {s : State} (hs : Kept r s) :
    Kept r (State.censusStep old now s) := by
  unfold State.censusStep
  repeat' (with_reducible first
    | assumption
    | (intro x; (refine Kept.cut (s := x) ?_ (fun _ => ?_)); (on_goal 1 => subst x); (on_goal 2 => clear_value x))
    | (intro x; (refine Kept.cutPair (p := x) ?_ (fun _ => ?_)); (on_goal 1 => subst x); (on_goal 2 => clear_value x))
    | (intro x; clear_value x) | (intro _; try beta_reduce) | apply Kept.ite | apply Goes.ite | apply Goes.next
    | apply Goes.after | apply Kept.foldl | apply Kept.foldlPair | (refine Kept.fst ‹_ = (_, _)› ?_) | split
    | lift_lets | (dsimp -zeta only) | (fail_if_no_progress apply Kept.fields) | apply Kept.tabs | apply FMap.tidy_put
    | apply FMap.tidy_mod | apply FMap.tidy_nil | apply FMap.tidy_foldl)

theorem State.setTimeState_kept {r : State} {st} {cls} {s : State} (hs : Kept r s) :
    Kept r (State.setTimeState st cls s) := by
  unfold State.setTimeState
  repeat' (with_reducible first | assumption | apply State.setFld_kept)

theorem State.enterHoldover_kept {r s : State} (hs : Kept r s) : Kept r (State.enterHoldover s) :=
  State.inc_kept (State.setTimeState_kept (Kept.setTime hs id))

theorem execHoldLimitExpiry_goes {r : State} {s : State} (hs : Kept r s) :
    Goes r (execHoldLimitExpiry s) := by
  unfold execHoldLimitExpiry
  repeat' (with_reducible first
    | assumption | (intro _; try beta_reduce) | apply Goes.next | apply State.setTimeState_kept | apply Kept.ite)

theorem State.ppsLow_kept {r s : State} (hs : Kept r s) : Kept r (State.ppsLow s) := by
  unfold State.ppsLow
  split
  · exact State.drive_kept (Kept.setTime hs id)
  · exact hs

theorem State.cenRefOff_kept {r : State} {s : State} (hs : Kept r s) :
    Kept r (State.cenRefOff s) := by
  unfold State.cenRefOff
  repeat' (with_reducible first
    | assumption
    | (intro x; (refine Kept.cut (s := x) ?_ (fun _ => ?_)); (on_goal 1 => subst x); (on_goal 2 => clear_value x))
    | (intro x; (refine Kept.cutPair (p := x) ?_ (fun _ => ?_)); (on_goal 1 => subst x); (on_goal 2 => clear_value x))
    | (intro x; clear_value x) | (intro _; try beta_reduce) | apply State.evt_kept | apply State.setBit_kept
    | apply Kept.ite | apply Goes.ite | apply Goes.next | apply Goes.after | apply Kept.foldl | apply Kept.foldlPair
    | (refine Kept.fst ‹_ = (_, _)› ?_) | split | lift_lets | (dsimp -zeta only)
    | (fail_if_no_progress apply Kept.fields) | apply Kept.tabs | apply FMap.tidy_put | apply FMap.tidy_mod
    | apply FMap.tidy_nil | apply FMap.tidy_foldl)

theorem State.trigCfg_kept {r : State} {n} {v} {s : State} (hs : Kept r s) :
    Kept r (State.trigCfg n v s) := by
  unfold State.trigCfg
  repeat' (with_reducible first
    | assumption | (intro _; try beta_reduce) | apply State.setBit_kept | apply State.setReg_kept | apply Kept.ite
    | (refine Kept.fst ‹_ = (_, _)› ?_) | split | (dsimp only) | (fail_if_no_progress apply Kept.fields) | apply Kept.tabs
    | apply FMap.tidy_put)

theorem State.timeLock_kept {r : State} {s : State} (hs : Kept r s) :
    Kept r (State.timeLock s) := by
  unfold State.timeLock
  repeat' (with_reducible first
    | assumption | (intro _; try beta_reduce) | apply State.setTimeState_kept | apply State.evt_kept | apply Kept.ite)

theorem execMasterLost_goes {r : State} {s : State} (hs : Kept r s) :
    Goes r (execMasterLost s) := by
  unfold execMasterLost
  repeat' (with_reducible first
    | assumption | (intro _; try beta_reduce) | apply Goes.next | apply State.evt_kept
    | apply State.enterHoldover_kept | apply Kept.ite)

theorem State.timeUnlock_kept {r : State} {s : State} (hs : Kept r s) :
    Kept r (State.timeUnlock s) := by
  unfold State.timeUnlock
  repeat' (with_reducible first
    | assumption | (intro _; try beta_reduce) | apply State.enterHoldover_kept | apply Kept.ite)

theorem State.ppsIn_kept {r : State} {sub} {s : State} (hs : Kept r s) :
    Kept r (State.ppsIn sub s) := by
  unfold State.ppsIn
  repeat' (with_reducible first
    | assumption
    | (intro x; (refine Kept.cut (s := x) ?_ (fun _ => ?_)); (on_goal 1 => subst x); (on_goal 2 => clear_value x))
    | (intro x; (refine Kept.cutPair (p := x) ?_ (fun _ => ?_)); (on_goal 1 => subst x); (on_goal 2 => clear_value x))
    | (intro x; clear_value x) | (intro _; try beta_reduce) | apply State.evt_kept | apply State.setReg_kept
    | apply Kept.ite | apply Goes.ite | apply Goes.next | apply Goes.after | apply Kept.foldl | apply Kept.foldlPair
    | (refine Kept.fst ‹_ = (_, _)› ?_) | split | lift_lets | (dsimp -zeta only)
    | (fail_if_no_progress apply Kept.fields) | apply Kept.tabs | apply FMap.tidy_put | apply FMap.tidy_mod
    | apply FMap.tidy_nil | apply FMap.tidy_foldl)

theorem State.stepTime_kept {r : State} {ns frac} {s : State} (hf : TimeOk s.time → frac < 2 ^ 32) (hs : Kept r s) :
    Kept r (State.stepTime ns frac s) := by
  unfold State.stepTime
  extract_lets +onlyGivenNames old d sec' changed src s1 s2 s3 s4 s5 s6
  have k1 : Kept r s1 := Kept.setTime hs (fun h => ⟨Nat.mod_lt _ (by decide), hf h, h.2.2⟩)
  have k2 : Kept r s2 := State.inc_kept k1
  have k3 : Kept r s3 := State.each_kept (fun x y h => Kept.ite (by
    apply Kept.tabs h <;> first | exact id | exact FMap.tidy_mod) h) k2
  have k4 : Kept r s4 := State.each_kept (fun x y h => Kept.ite h (State.setBit_kept (by
    apply Kept.tabs h <;> first | exact id | exact FMap.tidy_mod))) k3
  have k5 : Kept r s5 := State.each_kept (fun x y h => by
    apply Kept.tabs h <;> first | exact id | exact FMap.tidy_mod) k4
  exact State.each_kept (fun x y h => by
    apply Kept.tabs h <;> first | exact id | exact FMap.tidy_mod) (State.censusStep_kept k5)

theorem execPpsPulseEnd_goes {r : State} {s : State} (hs : Kept r s) :
    Goes r (execPpsPulseEnd s) := by
  unfold execPpsPulseEnd
  repeat' (with_reducible first
    | assumption | (intro _; try beta_reduce) | apply Goes.next | apply State.ppsLow_kept | apply Kept.ite | split)

theorem execPpsPulse_goes {r s : State} (hs : Kept r s) : Goes r (execPpsPulse s) := by
  unfold execPpsPulse
  refine Goes.next (Kept.ite (Kept.ite ?_ (State.ppsLow_kept (Kept.setTime hs id))) hs)
  exact Kept.ite (Kept.setTime hs id) (State.drive_kept (Kept.setTime hs id))

theorem State.writeIncr_kept {r : State} {hi lo} {s : State} (hs : Kept r s) : Kept r (State.writeIncr hi lo s) := by
  unfold State.writeIncr
  extract_lets v s1
  split
  · exact State.evt_kept hs
  · next hn =>
    have k : Kept r s1 := State.setReg_kept (State.setReg_kept hs)
    rw [not_or, not_or] at hn
    exact Kept.setTime k (fun h => ⟨h.1, h.2.1, Nat.le_of_not_lt hn.2.1, Nat.le_of_not_lt hn.2.2⟩)

theorem State.trigFire_kept {r : State} {n} {s : State} (hs : Kept r s) :
    Kept r (State.trigFire n s) := by
  unfold State.trigFire
  repeat' (with_reducible first
    | assumption | (intro _; try beta_reduce) | apply State.incBy_kept | apply State.setBit_kept
    | apply State.when_kept | apply State.evt_kept | apply State.emit_kept | apply Kept.ite
    | (refine Kept.fst ‹_ = (_, _)› ?_) | split | (dsimp only) | (fail_if_no_progress apply Kept.fields) | apply Kept.tabs
    | apply FMap.tidy_put)

theorem execPpsInEdge_goes {r : State} {sub} {s : State} (hs : Kept r s) :
    Goes r (execPpsInEdge sub s) := by
  unfold execPpsInEdge
  repeat' (with_reducible first
    | assumption
    | (intro x; (refine Kept.cut (s := x) ?_ (fun _ => ?_)); (on_goal 1 => subst x); (on_goal 2 => clear_value x))
    | (intro x; (refine Kept.cutPair (p := x) ?_ (fun _ => ?_)); (on_goal 1 => subst x); (on_goal 2 => clear_value x))
    | (intro x; clear_value x) | (intro _; try beta_reduce) | apply State.ppsIn_kept | apply Kept.ite | apply Goes.ite
    | apply Goes.next | apply Goes.after | apply Kept.foldl | apply Kept.foldlPair | (refine Kept.fst ‹_ = (_, _)› ?_)
    | split | lift_lets | (dsimp -zeta only) | (fail_if_no_progress apply Kept.fields) | apply Kept.tabs
    | apply FMap.tidy_put | apply FMap.tidy_mod | apply FMap.tidy_nil | apply FMap.tidy_foldl)

theorem State.timeSet_kept {r s : State} (hs : Kept r s) : Kept r s.timeSet := by
  unfold State.timeSet
  refine Kept.ite (State.evt_kept hs) (State.evt_kept (State.setBit_kept ?_))
  have h := State.stepTime_kept (ns := (s.rd TIME_SET_SEC_LO + 2 ^ 32 * s.fld TIME_SET_SEC_HI 15 0) * 1000000000
    + s.rd TIME_SET_NS) (frac := 0) (fun _ => by decide) hs
  exact Kept.ite (State.setTimeState_kept h) h

theorem State.readNow_kept {r : State} {w} {s : State} (hs : Kept r s) :
    Kept r (State.readNow w s) := by
  unfold State.readNow
  repeat' (with_reducible first
    | assumption | (intro _; try beta_reduce) | apply State.okData_kept | apply Kept.ite
    | (refine Kept.fst ‹_ = (_, _)› ?_) | split | (dsimp only) | (fail_if_no_progress apply Kept.fields) | apply Kept.tabs
    | apply FMap.tidy_put)

theorem State.ptpSync_kept {r : State} {port domain clockId portNumber seqId} {s : State} (hs : Kept r s) :
    Kept r (State.ptpSync port domain clockId portNumber seqId s) := by
  unfold State.ptpSync
  split
  · exact hs
  · refine Kept.ite (State.when_kept (fun _ h => State.evt_kept h) hs) (Kept.ite ?_ hs)
    exact State.when_kept (fun _ h => State.inc_kept h) (Kept.setTime hs id)

theorem State.timeCmd_kept {r : State} {f} {s : State} (hf : ∀ y2, Kept r y2 → Kept r (f y2)) (hs : Kept r s) :
    Kept r (State.timeCmd f s) := by
  unfold State.timeCmd
  repeat' (with_reducible first
    | assumption
    | (intro x; (refine Kept.cut (s := x) ?_ (fun _ => ?_)); (on_goal 1 => subst x); (on_goal 2 => clear_value x))
    | (intro x; (refine Kept.cutPair (p := x) ?_ (fun _ => ?_)); (on_goal 1 => subst x); (on_goal 2 => clear_value x))
    | (intro x; clear_value x) | (intro _; try beta_reduce) | apply State.evt_kept | apply State.setBit_kept
    | apply hf | apply Kept.ite | apply Goes.ite | apply Goes.next | apply Goes.after | apply Kept.foldl
    | apply Kept.foldlPair | (refine Kept.fst ‹_ = (_, _)› ?_) | split | lift_lets | (dsimp -zeta only)
    | (fail_if_no_progress apply Kept.fields) | apply Kept.tabs | apply FMap.tidy_put | apply FMap.tidy_mod
    | apply FMap.tidy_nil | apply FMap.tidy_foldl)

theorem execTrigFire_goes {r : State} {n} {s : State} (hs : Kept r s) :
    Goes r (execTrigFire n s) := by
  unfold execTrigFire
  repeat' (with_reducible first | assumption | apply Goes.next | apply State.trigFire_kept)

theorem execPtpSyncReceive_goes {r : State} {port} {domain} {clockId} {portNumber} {seqId} {s : State} (hs : Kept r s) :
    Goes r (execPtpSyncReceive port domain clockId portNumber seqId s) := by
  unfold execPtpSyncReceive
  repeat' (with_reducible first | assumption | apply Goes.next | apply State.ptpSync_kept)

theorem State.timeAdd_kept {r s : State} (hs : Kept r s) : Kept r s.timeAdd := by
  unfold State.timeAdd
  exact Kept.ite (State.evt_kept hs) (State.evt_kept (State.stepTime_kept (fun h => h.2.1) hs))

theorem State.timeSeed_kept {r s : State} (hs : Kept r s) : Kept r s.timeSeed := by
  unfold State.timeSeed
  refine Kept.ite (State.evt_kept hs) (State.evt_kept (State.setBit_kept ?_))
  have h := State.stepTime_kept (ns := s.bkd.rtc * 1000000000 / 32768 + s.rd TIME_RTC_OFS * 1000000000) (frac := 0)
    (fun _ => by decide) hs
  exact Kept.ite (State.setTimeState_kept h) h

theorem State.bmSend_kept {r : State} {k} {dst} {msg} {follow} {s : State} (hs : Kept r s) :
    Kept r (State.bmSend k dst msg follow s) := by
  unfold State.bmSend
  repeat' (with_reducible first
    | assumption
    | (intro x; (refine Kept.cut (s := x) ?_ (fun _ => ?_)); (on_goal 1 => subst x); (on_goal 2 => clear_value x))
    | (intro x; (refine Kept.cutPair (p := x) ?_ (fun _ => ?_)); (on_goal 1 => subst x); (on_goal 2 => clear_value x))
    | (intro x; clear_value x) | (intro _; try beta_reduce) | apply State.sendDirect_kept | apply Kept.ite
    | apply Goes.ite | apply Goes.next | apply Goes.after | apply Kept.foldl | apply Kept.foldlPair
    | (refine Kept.fst ‹_ = (_, _)› ?_) | split | lift_lets | (dsimp -zeta only)
    | (fail_if_no_progress apply Kept.fields) | apply Kept.tabs | apply FMap.tidy_put | apply FMap.tidy_mod
    | apply FMap.tidy_nil | apply FMap.tidy_foldl)

theorem State.bmSync_kept {r : State} {k} {s : State} (hs : Kept r s) :
    Kept r (State.bmSync k s) := by
  unfold State.bmSync
  repeat' (with_reducible first
    | assumption
    | (intro x; (refine Kept.cut (s := x) ?_ (fun _ => ?_)); (on_goal 1 => subst x); (on_goal 2 => clear_value x))
    | (intro x; (refine Kept.cutPair (p := x) ?_ (fun _ => ?_)); (on_goal 1 => subst x); (on_goal 2 => clear_value x))
    | (intro x; clear_value x) | (intro _; try beta_reduce) | apply State.bmSend_kept | apply Kept.ite
    | apply Goes.ite | apply Goes.next | apply Goes.after | apply Kept.foldl | apply Kept.foldlPair
    | (refine Kept.fst ‹_ = (_, _)› ?_) | split | lift_lets | (dsimp -zeta only)
    | (fail_if_no_progress apply Kept.fields) | apply Kept.tabs | apply FMap.tidy_put | apply FMap.tidy_mod
    | apply FMap.tidy_nil | apply FMap.tidy_foldl)

theorem execBmSyncSend_goes {r : State} {k} {s : State} (hs : Kept r s) :
    Goes r (execBmSyncSend k s) := by
  unfold execBmSyncSend
  repeat' (with_reducible first
    | assumption
    | (intro x; (refine Kept.cut (s := x) ?_ (fun _ => ?_)); (on_goal 1 => subst x); (on_goal 2 => clear_value x))
    | (intro x; (refine Kept.cutPair (p := x) ?_ (fun _ => ?_)); (on_goal 1 => subst x); (on_goal 2 => clear_value x))
    | (intro x; clear_value x) | (intro _; try beta_reduce) | apply State.bmSync_kept | apply Kept.ite
    | apply Goes.ite | apply Goes.next | apply Goes.after | apply Kept.foldl | apply Kept.foldlPair
    | (refine Kept.fst ‹_ = (_, _)› ?_) | split | lift_lets | (dsimp -zeta only)
    | (fail_if_no_progress apply Kept.fields) | apply Kept.tabs | apply FMap.tidy_put | apply FMap.tidy_mod
    | apply FMap.tidy_nil | apply FMap.tidy_foldl)

theorem State.bmAnnounce_kept {r : State} {k} {s : State} (hs : Kept r s) :
    Kept r (State.bmAnnounce k s) := by
  unfold State.bmAnnounce
  repeat' (with_reducible first
    | assumption
    | (intro x; (refine Kept.cut (s := x) ?_ (fun _ => ?_)); (on_goal 1 => subst x); (on_goal 2 => clear_value x))
    | (intro x; (refine Kept.cutPair (p := x) ?_ (fun _ => ?_)); (on_goal 1 => subst x); (on_goal 2 => clear_value x))
    | (intro x; clear_value x) | (intro _; try beta_reduce) | apply State.bmSend_kept | apply Kept.ite
    | apply Goes.ite | apply Goes.next | apply Goes.after | apply Kept.foldl | apply Kept.foldlPair
    | (refine Kept.fst ‹_ = (_, _)› ?_) | split | lift_lets | (dsimp -zeta only)
    | (fail_if_no_progress apply Kept.fields) | apply Kept.tabs | apply FMap.tidy_put | apply FMap.tidy_mod
    | apply FMap.tidy_nil | apply FMap.tidy_foldl)

theorem State.bmPdelay_kept {r : State} {k} {domain} {reqPort} {seqId} {s : State} (hs : Kept r s) :
    Kept r (State.bmPdelay k domain reqPort seqId s) := by
  unfold State.bmPdelay
  repeat' (with_reducible first
    | assumption
    | (intro x; (refine Kept.cut (s := x) ?_ (fun _ => ?_)); (on_goal 1 => subst x); (on_goal 2 => clear_value x))
    | (intro x; (refine Kept.cutPair (p := x) ?_ (fun _ => ?_)); (on_goal 1 => subst x); (on_goal 2 => clear_value x))
    | (intro x; clear_value x) | (intro _; try beta_reduce) | apply State.bmSend_kept | apply State.inc_kept
    | apply Kept.ite | apply Goes.ite | apply Goes.next | apply Goes.after | apply Kept.foldl | apply Kept.foldlPair
    | (refine Kept.fst ‹_ = (_, _)› ?_) | split | lift_lets | (dsimp -zeta only)
    | (fail_if_no_progress apply Kept.fields) | apply Kept.tabs | apply FMap.tidy_put | apply FMap.tidy_mod
    | apply FMap.tidy_nil | apply FMap.tidy_foldl)

theorem execBmAnnounceSend_goes {r : State} {k} {s : State} (hs : Kept r s) :
    Goes r (execBmAnnounceSend k s) := by
  unfold execBmAnnounceSend
  repeat' (with_reducible first | assumption | apply Goes.next | apply State.bmAnnounce_kept)

theorem execBmPdelayReqReceive_goes {r : State} {k} {domain} {reqPort} {seqId} {s : State} (hs : Kept r s) :
    Goes r (execBmPdelayReqReceive k domain reqPort seqId s) := by
  unfold execBmPdelayReqReceive
  repeat' (with_reducible first
    | assumption
    | (intro x; (refine Kept.cut (s := x) ?_ (fun _ => ?_)); (on_goal 1 => subst x); (on_goal 2 => clear_value x))
    | (intro x; (refine Kept.cutPair (p := x) ?_ (fun _ => ?_)); (on_goal 1 => subst x); (on_goal 2 => clear_value x))
    | (intro x; clear_value x) | (intro _; try beta_reduce) | apply State.bmPdelay_kept | apply Kept.ite
    | apply Goes.ite | apply Goes.next | apply Goes.after | apply Kept.foldl | apply Kept.foldlPair
    | (refine Kept.fst ‹_ = (_, _)› ?_) | split | lift_lets | (dsimp -zeta only)
    | (fail_if_no_progress apply Kept.fields) | apply Kept.tabs | apply FMap.tidy_put | apply FMap.tidy_mod
    | apply FMap.tidy_nil | apply FMap.tidy_foldl)

theorem execNowNsRead_goes {r : State} {w} {s : State} (hs : Kept r s) :
    Goes r (execNowNsRead w s) := by
  unfold execNowNsRead
  repeat' (with_reducible first | assumption | apply Goes.next | apply State.gate_kept | apply State.readNow_kept)

theorem execLock_goes {r : State} {w} {s : State} (hs : Kept r s) :
    Goes r (execLock w s) := by
  unfold execLock
  repeat' (with_reducible first
    | assumption
    | (intro x; (refine Kept.cut (s := x) ?_ (fun _ => ?_)); (on_goal 1 => subst x); (on_goal 2 => clear_value x))
    | (intro x; (refine Kept.cutPair (p := x) ?_ (fun _ => ?_)); (on_goal 1 => subst x); (on_goal 2 => clear_value x))
    | (intro x; clear_value x) | (intro _; try beta_reduce) | apply State.gateSup_kept | apply State.timeCmd_kept
    | apply State.timeLock_kept | apply Kept.ite | apply Goes.ite | apply Goes.next | apply Goes.after
    | apply Kept.foldl | apply Kept.foldlPair | (refine Kept.fst ‹_ = (_, _)› ?_) | split | lift_lets
    | (dsimp -zeta only) | (fail_if_no_progress apply Kept.fields) | apply Kept.tabs | apply FMap.tidy_put
    | apply FMap.tidy_mod | apply FMap.tidy_nil | apply FMap.tidy_foldl)

theorem execIncrementWrite_goes {r : State} {w} {hi} {lo} {s : State} (hs : Kept r s) :
    Goes r (execIncrementWrite w hi lo s) := by
  unfold execIncrementWrite
  repeat' (with_reducible first | assumption | apply Goes.next | apply State.gateSup_kept | apply State.writeIncr_kept)

theorem execSet_goes {r : State} {w} {s : State} (hs : Kept r s) :
    Goes r (execSet w s) := by
  unfold execSet
  repeat' (with_reducible first
    | assumption
    | (intro x; (refine Kept.cut (s := x) ?_ (fun _ => ?_)); (on_goal 1 => subst x); (on_goal 2 => clear_value x))
    | (intro x; (refine Kept.cutPair (p := x) ?_ (fun _ => ?_)); (on_goal 1 => subst x); (on_goal 2 => clear_value x))
    | (intro x; clear_value x) | (intro _; try beta_reduce) | apply State.gateSup_kept | apply State.timeCmd_kept
    | apply State.timeSet_kept | apply Kept.ite | apply Goes.ite | apply Goes.next | apply Goes.after
    | apply Kept.foldl | apply Kept.foldlPair | (refine Kept.fst ‹_ = (_, _)› ?_) | split | lift_lets
    | (dsimp -zeta only) | (fail_if_no_progress apply Kept.fields) | apply Kept.tabs | apply FMap.tidy_put
    | apply FMap.tidy_mod | apply FMap.tidy_nil | apply FMap.tidy_foldl)

theorem execTrigCfgWrite_goes {r : State} {w} {n} {value} {s : State} (hs : Kept r s) :
    Goes r (execTrigCfgWrite w n value s) := by
  unfold execTrigCfgWrite
  repeat' (with_reducible first | assumption | apply Goes.next | apply State.gateSup_kept | apply State.trigCfg_kept)

theorem execStep_goes {r : State} {w} {s : State} (hs : Kept r s) :
    Goes r (execStep w s) := by
  unfold execStep
  repeat' (with_reducible first
    | assumption
    | (intro x; (refine Kept.cut (s := x) ?_ (fun _ => ?_)); (on_goal 1 => subst x); (on_goal 2 => clear_value x))
    | (intro x; (refine Kept.cutPair (p := x) ?_ (fun _ => ?_)); (on_goal 1 => subst x); (on_goal 2 => clear_value x))
    | (intro x; clear_value x) | (intro _; try beta_reduce) | apply State.gateSup_kept | apply State.timeCmd_kept
    | apply State.timeAdd_kept | apply Kept.ite | apply Goes.ite | apply Goes.next | apply Goes.after
    | apply Kept.foldl | apply Kept.foldlPair | (refine Kept.fst ‹_ = (_, _)› ?_) | split | lift_lets
    | (dsimp -zeta only) | (fail_if_no_progress apply Kept.fields) | apply Kept.tabs | apply FMap.tidy_put
    | apply FMap.tidy_mod | apply FMap.tidy_nil | apply FMap.tidy_foldl)

theorem execUnlock_goes {r : State} {w} {s : State} (hs : Kept r s) :
    Goes r (execUnlock w s) := by
  unfold execUnlock
  repeat' (with_reducible first
    | assumption
    | (intro x; (refine Kept.cut (s := x) ?_ (fun _ => ?_)); (on_goal 1 => subst x); (on_goal 2 => clear_value x))
    | (intro x; (refine Kept.cutPair (p := x) ?_ (fun _ => ?_)); (on_goal 1 => subst x); (on_goal 2 => clear_value x))
    | (intro x; clear_value x) | (intro _; try beta_reduce) | apply State.gateSup_kept | apply State.timeCmd_kept
    | apply State.timeUnlock_kept | apply Kept.ite | apply Goes.ite | apply Goes.next | apply Goes.after
    | apply Kept.foldl | apply Kept.foldlPair | (refine Kept.fst ‹_ = (_, _)› ?_) | split | lift_lets
    | (dsimp -zeta only) | (fail_if_no_progress apply Kept.fields) | apply Kept.tabs | apply FMap.tidy_put
    | apply FMap.tidy_mod | apply FMap.tidy_nil | apply FMap.tidy_foldl)

theorem execSeed_goes {r : State} {w} {s : State} (hs : Kept r s) :
    Goes r (execSeed w s) := by
  unfold execSeed
  repeat' (with_reducible first
    | assumption
    | (intro x; (refine Kept.cut (s := x) ?_ (fun _ => ?_)); (on_goal 1 => subst x); (on_goal 2 => clear_value x))
    | (intro x; (refine Kept.cutPair (p := x) ?_ (fun _ => ?_)); (on_goal 1 => subst x); (on_goal 2 => clear_value x))
    | (intro x; clear_value x) | (intro _; try beta_reduce) | apply State.gateSup_kept | apply State.timeCmd_kept
    | apply State.timeSeed_kept | apply Kept.ite | apply Goes.ite | apply Goes.next | apply Goes.after
    | apply Kept.foldl | apply Kept.foldlPair | (refine Kept.fst ‹_ = (_, _)› ?_) | split | lift_lets
    | (dsimp -zeta only) | (fail_if_no_progress apply Kept.fields) | apply Kept.tabs | apply FMap.tidy_put
    | apply FMap.tidy_mod | apply FMap.tidy_nil | apply FMap.tidy_foldl)

end Sys2Proof.Machine
end

