-- ==== Sys2Proof/Laws/KeptLuazar.lean ====
section
/-!
SUPPORT. What the operations of Machine/Luazar.lean keep.
-/

set_option linter.all false

namespace Sys2Proof.Machine

theorem State.lzEmit_kept {r : State} {port} {m} {s : State} (hs : Kept r s) :
    Kept r (State.lzEmit port m s) := by
  unfold State.lzEmit
  repeat' (with_reducible first
    | assumption
    | (intro x; (refine Kept.cut (s := x) ?_ (fun _ => ?_)); (on_goal 1 => subst x); (on_goal 2 => clear_value x))
    | (intro x; (refine Kept.cutPair (p := x) ?_ (fun _ => ?_)); (on_goal 1 => subst x); (on_goal 2 => clear_value x))
    | (intro x; clear_value x) | (intro _; try beta_reduce) | apply State.sendDirect_kept | apply Kept.ite
    | apply Goes.ite | apply Goes.next | apply Goes.after | apply Kept.foldl | apply Kept.foldlPair
    | (refine Kept.fst ‹_ = (_, _)› ?_) | split | lift_lets | (dsimp -zeta only)
    | (fail_if_no_progress apply Kept.fields) | apply Kept.tabs | apply FMap.tidy_put | apply FMap.tidy_mod
    | apply FMap.tidy_nil | apply FMap.tidy_foldl)

theorem State.lzSend_kept {r : State} {port} {ty} {payload} {s : State} (hs : Kept r s) :
    Kept r (State.lzSend port ty payload s) := by
  unfold State.lzSend
  repeat' (with_reducible first
    | assumption | (intro _; try beta_reduce) | apply State.lzEmit_kept | apply Kept.ite
    | (refine Kept.fst ‹_ = (_, _)› ?_) | split | (dsimp only) | (fail_if_no_progress apply Kept.fields) | apply Kept.tabs
    | apply FMap.tidy_put)

theorem State.casSend_kept {r : State} {ty} {dest} {body} {s : State} (hs : Kept r s) :
    Kept r (State.casSend ty dest body s) := by
  unfold State.casSend
  repeat' (with_reducible first
    | assumption | (intro _; try beta_reduce) | apply State.inc_kept | apply State.lzSend_kept | apply Kept.ite)

end Sys2Proof.Machine
end

