-- ==== Sys2Proof/Laws/KeptWeftUnit.lean ====
section
/-!
SUPPORT. What the operations of Machine/WeftUnit.lean keep.
-/

set_option linter.all false

namespace Sys2Proof.Machine

theorem State.setRef_kept {r : State} {r0} {st} {src} {s : State} (hs : Kept r s) :
    Kept r (State.setRef r0 st src s) := by
  unfold State.setRef
  repeat' (with_reducible first | assumption | apply State.setFld_kept)

theorem State.refStart_kept {r : State} {r0} {s : State} (hs : Kept r s) :
    Kept r (State.refStart r0 s) := by
  unfold State.refStart
  repeat' (with_reducible first
    | assumption | apply State.modWf_kept | apply State.setReg_kept | apply State.setPts_kept)

theorem State.srcCheck_kept {r : State} {r0} {s : State} (hs : Kept r s) :
    Kept r (State.srcCheck r0 s) := by
  unfold State.srcCheck
  repeat' (with_reducible first | assumption | apply State.when_kept | apply State.evt_kept)

theorem State.refAcquired_kept {r : State} {r0} {backup} {phase} {s : State} (hs : Kept r s) :
    Kept r (State.refAcquired r0 backup phase s) := by
  unfold State.refAcquired
  repeat' (with_reducible first
    | assumption | (intro _; try beta_reduce) | apply State.modWf_kept | apply State.evt_kept
    | apply State.incFld_kept | apply State.setRef_kept | apply Kept.ite | (refine Kept.fst ‹_ = (_, _)› ?_) | split
    | (dsimp only) | (fail_if_no_progress apply Kept.fields) | apply Kept.tabs
    | apply FMap.tidy_put | apply FMap.tidy_mod | apply FMap.tidy_foldl | apply FMap.tidy_nil)

theorem State.toNominal_kept {r : State} {r0} {s : State} (hs : Kept r s) :
    Kept r (State.toNominal r0 s) := by
  unfold State.toNominal
  repeat' (with_reducible first
    | assumption | apply State.incFld_kept | apply State.evt_kept | apply State.setBit_kept | apply State.setRef_kept)

theorem State.returnComplete_kept {r : State} {r0} {s : State} (hs : Kept r s) :
    Kept r (State.returnComplete r0 s) := by
  unfold State.returnComplete
  repeat' (with_reducible first
    | assumption | (intro _; try beta_reduce) | apply State.evt_kept | apply State.setBit_kept
    | apply State.setRef_kept | apply Kept.ite | split)

theorem execRefAcquired_goes {r : State} {r0} {backup} {phase} {s : State} (hs : Kept r s) :
    Goes r (execRefAcquired r0 backup phase s) := by
  unfold execRefAcquired
  repeat' (with_reducible first | assumption | apply Goes.next | apply State.refAcquired_kept)

theorem State.primaryRestored_kept {r : State} {r0} {s : State} (hs : Kept r s) :
    Kept r (State.primaryRestored r0 s) := by
  unfold State.primaryRestored
  repeat' (with_reducible first
    | assumption | (intro _; try beta_reduce) | apply State.setBit_kept | apply State.setRef_kept
    | apply State.modWf_kept | apply Kept.ite | split)

theorem State.refOff_kept {r : State} {r0} {s : State} (hs : Kept r s) :
    Kept r (State.refOff r0 s) := by
  unfold State.refOff
  repeat' (with_reducible first
    | assumption
    | (intro x; (refine Kept.cut (s := x) ?_ (fun _ => ?_)); (on_goal 1 => subst x); (on_goal 2 => clear_value x))
    | (intro x; (refine Kept.cutPair (p := x) ?_ (fun _ => ?_)); (on_goal 1 => subst x); (on_goal 2 => clear_value x))
    | (intro x; clear_value x) | (intro _; try beta_reduce) | apply State.setPts_kept | apply State.setReg_kept
    | apply State.modWf_kept | apply State.cenRefOff_kept | apply Kept.ite | apply Goes.ite | apply Goes.next
    | apply Goes.after | apply Kept.foldl | apply Kept.foldlPair | (refine Kept.fst ‹_ = (_, _)› ?_) | split
    | lift_lets | (dsimp -zeta only) | (fail_if_no_progress apply Kept.fields) | apply Kept.tabs | apply FMap.tidy_put
    | apply FMap.tidy_mod | apply FMap.tidy_nil | apply FMap.tidy_foldl)

theorem State.toBackup_kept {r : State} {r0} {s : State} (hs : Kept r s) :
    Kept r (State.toBackup r0 s) := by
  unfold State.toBackup
  repeat' (with_reducible first
    | assumption | apply State.modWf_kept | apply State.incFld_kept | apply State.evt_kept | apply State.setBit_kept
    | apply State.setRef_kept)

theorem execReturnComplete_goes {r : State} {r0} {s : State} (hs : Kept r s) :
    Goes r (execReturnComplete r0 s) := by
  unfold execReturnComplete
  repeat' (with_reducible first | assumption | apply Goes.next | apply State.returnComplete_kept)

theorem State.primaryLost_kept {r : State} {r0} {s : State} (hs : Kept r s) :
    Kept r (State.primaryLost r0 s) := by
  unfold State.primaryLost
  repeat' (with_reducible first
    | assumption | (intro _; try beta_reduce) | apply State.modWf_kept | apply State.incFld_kept
    | apply State.evt_kept | apply State.setBit_kept | apply State.setRef_kept | apply Kept.ite | split)

theorem State.weftCounts_kept {r : State} {r0} {p} {b} {s : State} (hs : Kept r s) :
    Kept r (State.weftCounts r0 p b s) := by
  unfold State.weftCounts
  repeat' (with_reducible first
    | assumption | (intro _; try beta_reduce) | apply State.when_kept | apply State.evt_kept | apply State.setBit_kept
    | apply State.setReg_kept | apply State.modWf_kept | apply Kept.ite | split)

theorem State.backupLost_kept {r : State} {r0} {s : State} (hs : Kept r s) :
    Kept r (State.backupLost r0 s) := by
  unfold State.backupLost
  repeat' (with_reducible first
    | assumption | (intro _; try beta_reduce) | apply State.toNominal_kept | apply State.modWf_kept | apply Kept.ite
    | split)

theorem State.weftActivated_kept {r : State} {r0} {oldCfg} {oldSrc} {s : State} (hs : Kept r s) :
    Kept r (State.weftActivated r0 oldCfg oldSrc s) := by
  unfold State.weftActivated
  repeat' (with_reducible first
    | assumption | (intro _; try beta_reduce) | apply State.srcCheck_kept | apply State.refStart_kept
    | apply State.refOff_kept | apply State.modWf_kept | apply State.setBit_kept | apply Kept.ite | split)

theorem execPrimaryLost_goes {r : State} {r0} {s : State} (hs : Kept r s) :
    Goes r (execPrimaryLost r0 s) := by
  unfold execPrimaryLost
  repeat' (with_reducible first | assumption | apply Goes.next | apply State.primaryLost_kept)

theorem execPrimaryRestored_goes {r : State} {r0} {s : State} (hs : Kept r s) :
    Goes r (execPrimaryRestored r0 s) := by
  unfold execPrimaryRestored
  repeat' (with_reducible first | assumption | apply Goes.next | apply State.primaryRestored_kept)

theorem State.holdExpiry_kept {r : State} {r0} {s : State} (hs : Kept r s) :
    Kept r (State.holdExpiry r0 s) := by
  unfold State.holdExpiry
  repeat' (with_reducible first
    | assumption | (intro _; try beta_reduce) | apply State.toBackup_kept | apply State.toNominal_kept
    | apply Kept.ite | split)

theorem State.backupRestored_kept {r : State} {r0} {s : State} (hs : Kept r s) :
    Kept r (State.backupRestored r0 s) := by
  unfold State.backupRestored
  repeat' (with_reducible first
    | assumption | (intro _; try beta_reduce) | apply State.toBackup_kept | apply Kept.ite | split)

theorem execBackupLost_goes {r : State} {r0} {s : State} (hs : Kept r s) :
    Goes r (execBackupLost r0 s) := by
  unfold execBackupLost
  repeat' (with_reducible first | assumption | apply Goes.next | apply State.backupLost_kept)

theorem execHoldTimeExpiry_goes {r : State} {r0} {s : State} (hs : Kept r s) :
    Goes r (execHoldTimeExpiry r0 s) := by
  unfold execHoldTimeExpiry
  repeat' (with_reducible first | assumption | apply Goes.next | apply State.holdExpiry_kept)

theorem execBackupRestored_goes {r : State} {r0} {s : State} (hs : Kept r s) :
    Goes r (execBackupRestored r0 s) := by
  unfold execBackupRestored
  repeat' (with_reducible first | assumption | apply Goes.next | apply State.backupRestored_kept)

theorem State.openPoint_kept {r : State} {r0} {seq} {gp} {tg} {realign} {dual} {s : State} (hs : Kept r s) :
    Kept r (State.openPoint r0 seq gp tg realign dual s) := by
  unfold State.openPoint
  repeat' (with_reducible first
    | assumption
    | (intro x; (refine Kept.cut (s := x) ?_ (fun _ => ?_)); (on_goal 1 => subst x); (on_goal 2 => clear_value x))
    | (intro x; (refine Kept.cutPair (p := x) ?_ (fun _ => ?_)); (on_goal 1 => subst x); (on_goal 2 => clear_value x))
    | (intro x; clear_value x) | (intro _; try beta_reduce) | apply State.putInvalid_kept | apply State.setPts_kept
    | apply State.resample_kept | apply Kept.ite | apply Goes.ite | apply Goes.next | apply Goes.after
    | apply Kept.foldl | apply Kept.foldlPair | (refine Kept.fst ‹_ = (_, _)› ?_) | split | lift_lets
    | (dsimp -zeta only) | (fail_if_no_progress apply Kept.fields) | apply Kept.tabs | apply FMap.tidy_put
    | apply FMap.tidy_mod | apply FMap.tidy_nil | apply FMap.tidy_foldl)

theorem State.gridIssue_kept {r : State} {r0} {p} {b} {dual} {s : State} (hs : Kept r s) :
    Kept r (State.gridIssue r0 p b dual s) := by
  unfold State.gridIssue
  repeat' (with_reducible first
    | assumption
    | (intro x; (refine Kept.cut (s := x) ?_ (fun _ => ?_)); (on_goal 1 => subst x); (on_goal 2 => clear_value x))
    | (intro x; (refine Kept.cutPair (p := x) ?_ (fun _ => ?_)); (on_goal 1 => subst x); (on_goal 2 => clear_value x))
    | (intro x; clear_value x) | (intro _; try beta_reduce) | apply State.weftCounts_kept | apply State.setBit_kept
    | apply State.evt_kept | apply State.setReg_kept | apply State.stWords_kept | apply State.modWf_kept
    | apply State.openPoint_kept | apply Kept.ite | apply Goes.ite | apply Goes.next | apply Goes.after
    | apply Kept.foldl | apply Kept.foldlPair | (refine Kept.fst ‹_ = (_, _)› ?_) | split | lift_lets
    | (dsimp -zeta only) | (fail_if_no_progress apply Kept.fields) | apply Kept.tabs | apply FMap.tidy_put
    | apply FMap.tidy_mod | apply FMap.tidy_nil | apply FMap.tidy_foldl)

end Sys2Proof.Machine
end

