-- ==== Sys2Proof/Laws/KeptEngine.lean ====
section
/-!
SUPPORT. What the operations of Machine/Engine.lean keep.
-/

set_option linter.all false

namespace Sys2Proof.Machine

theorem State.engineMark_kept {r : State} {a} {lateReg} {r0} {k} {cnt} {fault} {s : State} (hs : Kept r s) :
    Kept r (State.engineMark a lateReg r0 k cnt fault s) := by
  unfold State.engineMark
  repeat' (with_reducible first
    | assumption | apply State.publishBank_kept | apply State.stWords_kept | apply State.when_kept
    | apply State.inc_kept)

end Sys2Proof.Machine
end

