-- ==== Sys2Proof/Laws/KeptSwc.lean ====
section
/-!
SUPPORT. What the operations of Machine/Swc.lean keep.
-/

set_option linter.all false

namespace Sys2Proof.Machine

theorem State.modSwc_kept {r : State} {f} {s : State} (hs : Kept r s) :
    Kept r (State.modSwc f s) := by
  unfold State.modSwc
  repeat' (with_reducible first
    | assumption | (intro _; try beta_reduce) | apply Kept.ite | (refine Kept.fst ‹_ = (_, _)› ?_) | split
    | (dsimp only) | (fail_if_no_progress apply Kept.fields))

theorem State.placeAll_kept {r : State} {g} {l} {s : State}
    (hg : ∀ x y, Kept r y → Kept r (g x y).1) (hs : Kept r s) : Kept r (State.placeAll g l s).1 := by
  unfold State.placeAll
  exact Kept.foldlPair (fun x y h => hg y x.1 h) hs

theorem State.toTime_kept {r : State} {p} {pf} {octets} {s : State} (hs : Kept r s) :
    Kept r (State.toTime p pf octets s) := by
  unfold State.toTime
  repeat' (with_reducible first
    | assumption
    | (intro x; (refine Kept.cut (s := x) ?_ (fun _ => ?_)); (on_goal 1 => subst x); (on_goal 2 => clear_value x))
    | (intro x; (refine Kept.cutPair (p := x) ?_ (fun _ => ?_)); (on_goal 1 => subst x); (on_goal 2 => clear_value x))
    | (intro x; clear_value x) | (intro _; try beta_reduce) | apply State.emit_kept | apply Kept.ite | apply Goes.ite
    | apply Goes.next | apply Goes.after | apply Kept.foldl | apply Kept.foldlPair | (refine Kept.fst ‹_ = (_, _)› ?_)
    | split | lift_lets | (dsimp -zeta only) | (fail_if_no_progress apply Kept.fields) | apply Kept.tabs
    | apply FMap.tidy_put | apply FMap.tidy_mod | apply FMap.tidy_nil | apply FMap.tidy_foldl)

theorem State.tblResult_kept {r : State} {v} {s : State} (hs : Kept r s) :
    Kept r (State.tblResult v s) := by
  unfold State.tblResult
  repeat' (with_reducible first | assumption | apply State.setFld_kept)

theorem State.showQ_kept {r : State} {p} {q} {s : State} (hs : Kept r s) :
    Kept r (State.showQ p q s) := by
  unfold State.showQ
  repeat' (with_reducible first | assumption | apply State.setReg_kept)

theorem State.setQ_kept {r : State} {p} {q} {l} {s : State} (hs : Kept r s) :
    Kept r (State.setQ p q l s) := by
  unfold State.setQ
  repeat' (with_reducible first | assumption | apply State.showQ_kept | apply State.modSwc_kept)

theorem State.writeCell_kept {r : State} {p} {i} {s : State} (hs : Kept r s) :
    Kept r (State.writeCell p i s) := by
  unfold State.writeCell
  repeat' (with_reducible first
    | assumption
    | (intro x; (refine Kept.cut (s := x) ?_ (fun _ => ?_)); (on_goal 1 => subst x); (on_goal 2 => clear_value x))
    | (intro x; (refine Kept.cutPair (p := x) ?_ (fun _ => ?_)); (on_goal 1 => subst x); (on_goal 2 => clear_value x))
    | (intro x; clear_value x) | (intro _; try beta_reduce) | apply State.modSwc_kept | apply State.setQ_kept
    | apply Kept.ite | apply Goes.ite | apply Goes.next | apply Goes.after | apply Kept.foldl | apply Kept.foldlPair
    | (refine Kept.fst ‹_ = (_, _)› ?_) | split | lift_lets | (dsimp -zeta only)
    | (fail_if_no_progress apply Kept.fields) | apply Kept.tabs | apply FMap.tidy_put | apply FMap.tidy_mod
    | apply FMap.tidy_nil | apply FMap.tidy_foldl)

theorem State.slotRank_kept {r : State} {p k ready} {a : State × Nat} (hs : Kept r a.1) :
    Kept r (State.slotRank p k ready a).1 := by
  unfold State.slotRank
  dsimp only
  split
  · exact State.modSwc_kept (State.each_kept (fun _ _ h => State.writeCell_kept h) hs)
  · exact State.each_kept (fun _ _ h => State.writeCell_kept h) hs

theorem State.cellSlot_kept {r : State} {p} {s : State} (hs : Kept r s) :
    Kept r (State.cellSlot p s) := by
  unfold State.cellSlot
  refine Kept.ite hs (Kept.foldlPair (fun x y h => ?_) hs)
  exact State.slotRank_kept h

theorem State.tblRead_kept {r : State} {i} {s : State} (hs : Kept r s) :
    Kept r (State.tblRead i s) := by
  unfold State.tblRead
  repeat' (with_reducible first
    | assumption | (intro _; try beta_reduce) | apply State.tblResult_kept | apply State.each_kept
    | apply State.setReg_kept)

theorem State.externals_kept {r : State} {ports} {own} {inPair} {f} {s : State} (hs : Kept r s) :
    Kept r (State.externals ports own inPair f s).1 := by
  unfold State.externals
  repeat' (with_reducible first
    | assumption | (intro _; try beta_reduce) | apply State.each_kept | apply State.modSwc_kept)

theorem State.freeCells_kept {r : State} {f} {s : State} (hs : Kept r s) :
    Kept r (State.freeCells f s) := by
  unfold State.freeCells
  repeat' (with_reducible first | assumption | apply State.setReg_kept)

theorem State.tblWrite_kept {r : State} {i} {s : State} (hs : Kept r s) :
    Kept r (State.tblWrite i s) := by
  unfold State.tblWrite
  repeat' (with_reducible first
    | assumption | (intro _; try beta_reduce) | apply State.tblResult_kept | apply State.incMod_kept
    | apply State.modSwc_kept | apply Kept.ite)

theorem State.tcCorrect_kept {r : State} {p} {f} {s : State} (hs : Kept r s) :
    Kept r (State.tcCorrect p f s).1 := by
  unfold State.tcCorrect
  repeat' (with_reducible first
    | assumption | (intro _; try beta_reduce) | apply State.inc_kept | apply State.modSwc_kept | apply Kept.ite
    | (refine Kept.fst ‹_ = (_, _)› ?_) | split | (dsimp only))

theorem execTcFollowUpTimeout_goes {r : State} {s : State} (hs : Kept r s) :
    Goes r (execTcFollowUpTimeout s) := by
  unfold execTcFollowUpTimeout
  repeat' (with_reducible first | assumption | apply Goes.next | apply State.modSwc_kept)

theorem State.setNodes_kept {r : State} {k} {t} {s : State} (hs : Kept r s) :
    Kept r (State.setNodes k t s) := by
  unfold State.setNodes
  repeat' (with_reducible first | assumption | apply State.setFld_kept | apply State.modSwc_kept)

theorem State.hcLose_kept {r : State} {c} {n} {s : State} (hs : Kept r s) :
    Kept r (State.hcLose c n s) := by
  unfold State.hcLose
  repeat' (with_reducible first | assumption | apply State.inc_kept | apply State.modSwc_kept)

theorem State.decide'_kept {r : State} {p} {f} {s : State} (hs : Kept r s) :
    Kept r (State.decide' p f s).1 := by
  unfold State.decide'
  repeat' (with_reducible first
    | assumption | (intro _; try beta_reduce) | apply State.inc_kept | apply Kept.ite
    | (refine Kept.fst ‹_ = (_, _)› ?_) | split | (dsimp only))

theorem State.tblInvalidate_kept {r : State} {i} {s : State} (hs : Kept r s) :
    Kept r (State.tblInvalidate i s) := by
  unfold State.tblInvalidate
  repeat' (with_reducible first
    | assumption | apply State.incMod_kept | apply State.tblResult_kept | apply State.modSwc_kept)

theorem State.txStart_kept {r : State} {p} {q} {f} {s : State} (hs : Kept r s) :
    Kept r (State.txStart p q f s) := by
  unfold State.txStart
  repeat' (with_reducible first
    | assumption | (intro _; try beta_reduce) | apply State.tcCorrect_kept | apply State.emit_kept
    | apply State.modSwc_kept | apply State.showQ_kept | apply Kept.ite | split)

theorem State.tblFence_kept {r : State} {s : State} (hs : Kept r s) :
    Kept r (State.tblFence s) := by
  unfold State.tblFence
  repeat' (with_reducible first
    | assumption | (intro _; try beta_reduce) | apply State.tblResult_kept | apply State.setBit_kept
    | apply State.setReg_kept | apply Kept.ite)

theorem State.nodeAge_kept {r : State} {k} {s : State} (hs : Kept r s) :
    Kept r (State.nodeAge k s) := by
  unfold State.nodeAge
  repeat' (with_reducible first | assumption | apply State.setNodes_kept)

theorem State.hcDrop_kept {r : State} {c} {s : State} (hs : Kept r s) :
    Kept r (State.hcDrop c s) := by
  unfold State.hcDrop
  repeat' (with_reducible first
    | assumption
    | (intro x; (refine Kept.cut (s := x) ?_ (fun _ => ?_)); (on_goal 1 => subst x); (on_goal 2 => clear_value x))
    | (intro x; (refine Kept.cutPair (p := x) ?_ (fun _ => ?_)); (on_goal 1 => subst x); (on_goal 2 => clear_value x))
    | (intro x; clear_value x) | (intro _; try beta_reduce) | apply State.modSwc_kept | apply State.hcLose_kept
    | apply State.setReg_kept | apply Kept.ite | apply Goes.ite | apply Goes.next | apply Goes.after
    | apply Kept.foldl | apply Kept.foldlPair | (refine Kept.fst ‹_ = (_, _)› ?_) | split | lift_lets
    | (dsimp -zeta only) | (fail_if_no_progress apply Kept.fields) | apply Kept.tabs | apply FMap.tidy_put
    | apply FMap.tidy_mod | apply FMap.tidy_nil | apply FMap.tidy_foldl)

theorem State.txFree_kept {r : State} {p} {s : State} (hs : Kept r s) :
    Kept r (State.txFree p s) := by
  unfold State.txFree
  repeat' (with_reducible first
    | assumption
    | (intro x; (refine Kept.cut (s := x) ?_ (fun _ => ?_)); (on_goal 1 => subst x); (on_goal 2 => clear_value x))
    | (intro x; (refine Kept.cutPair (p := x) ?_ (fun _ => ?_)); (on_goal 1 => subst x); (on_goal 2 => clear_value x))
    | (intro x; clear_value x) | (intro _; try beta_reduce) | apply State.modSwc_kept | apply State.showQ_kept
    | apply State.setReg_kept | apply Kept.ite | apply Goes.ite | apply Goes.next | apply Goes.after
    | apply Kept.foldl | apply Kept.foldlPair | (refine Kept.fst ‹_ = (_, _)› ?_) | split | lift_lets
    | (dsimp -zeta only) | (fail_if_no_progress apply Kept.fields) | apply Kept.tabs | apply FMap.tidy_put
    | apply FMap.tidy_mod | apply FMap.tidy_nil | apply FMap.tidy_foldl)

theorem State.nodeSee_kept {r : State} {k} {src} {f} {s : State} (hs : Kept r s) :
    Kept r (State.nodeSee k src f s) := by
  unfold State.nodeSee
  repeat' (with_reducible first
    | assumption | (intro _; try beta_reduce) | apply State.setNodes_kept | apply Kept.ite | split)

theorem State.lpiReceive_kept {r : State} {p} {s : State} (hs : Kept r s) :
    Kept r (State.lpiReceive p s) := by
  unfold State.lpiReceive
  repeat' (with_reducible first
    | assumption | (intro _; try beta_reduce) | apply State.setBit_kept | apply State.evt_kept | apply Kept.ite)

theorem State.nodeTouch_kept {r : State} {k} {src} {s : State} (hs : Kept r s) :
    Kept r (State.nodeTouch k src s) := by
  unfold State.nodeTouch
  repeat' (with_reducible first
    | assumption | (intro _; try beta_reduce) | apply State.setNodes_kept | apply State.evt_kept
    | apply State.inc_kept | apply Kept.ite | (refine Kept.fst ‹_ = (_, _)› ?_) | split | (dsimp only))

theorem State.tblCmd_kept {r : State} {f} {s : State} (hf : ∀ y2, Kept r y2 → Kept r (f y2)) (hs : Kept r s) :
    Kept r (State.tblCmd f s) := by
  unfold State.tblCmd
  repeat' (with_reducible first
    | assumption
    | (intro x; (refine Kept.cut (s := x) ?_ (fun _ => ?_)); (on_goal 1 => subst x); (on_goal 2 => clear_value x))
    | (intro x; (refine Kept.cutPair (p := x) ?_ (fun _ => ?_)); (on_goal 1 => subst x); (on_goal 2 => clear_value x))
    | (intro x; clear_value x) | (intro _; try beta_reduce) | apply State.tblResult_kept | apply State.setBit_kept
    | apply hf | apply Kept.ite | apply Goes.ite | apply Goes.next | apply Goes.after | apply Kept.foldl
    | apply Kept.foldlPair | (refine Kept.fst ‹_ = (_, _)› ?_) | split | lift_lets | (dsimp -zeta only)
    | (fail_if_no_progress apply Kept.fields) | apply Kept.tabs | apply FMap.tidy_put | apply FMap.tidy_mod
    | apply FMap.tidy_nil | apply FMap.tidy_foldl)

theorem execLpiReceive_goes {r : State} {p} {s : State} (hs : Kept r s) :
    Goes r (execLpiReceive p s) := by
  unfold execLpiReceive
  repeat' (with_reducible first | assumption | apply Goes.next | apply State.lpiReceive_kept)

theorem State.nodePass_kept {r : State} {k} {p} {src} {q} {ok} {ring} {s : State} (hs : Kept r s) :
    Kept r (State.nodePass k p src q ok ring s).1 := by
  unfold State.nodePass
  repeat' (with_reducible first
    | assumption
    | (intro x; (refine Kept.cut (s := x) ?_ (fun _ => ?_)); (on_goal 1 => subst x); (on_goal 2 => clear_value x))
    | (intro x; (refine Kept.cutPair (p := x) ?_ (fun _ => ?_)); (on_goal 1 => subst x); (on_goal 2 => clear_value x))
    | (intro x; clear_value x) | (intro _; try beta_reduce) | apply State.when_kept | apply State.nodeTouch_kept
    | apply State.nodeSee_kept | apply Kept.ite | apply Goes.ite | apply Goes.next | apply Goes.after
    | apply Kept.foldl | apply Kept.foldlPair | (refine Kept.fst ‹_ = (_, _)› ?_) | split | lift_lets
    | (dsimp -zeta only) | (fail_if_no_progress apply Kept.fields) | apply Kept.tabs | apply FMap.tidy_put
    | apply FMap.tidy_mod | apply FMap.tidy_nil | apply FMap.tidy_foldl)

theorem State.ringWrite_kept {r : State} {cfg} {a} {v} {s : State} (hs : Kept r s) :
    Kept r (State.ringWrite cfg a v s) := by
  unfold State.ringWrite
  repeat' (with_reducible first
    | assumption | (intro _; try beta_reduce) | apply State.evt_kept | apply State.setReg_kept | apply Kept.ite)

theorem State.macRx_kept {r : State} {p} {len} {fcs} {short} {sym} {s : State} (hs : Kept r s) :
    Kept r (State.macRx p len fcs short sym s) := by
  unfold State.macRx
  repeat' (with_reducible first
    | assumption
    | (intro x; (refine Kept.cut (s := x) ?_ (fun _ => ?_)); (on_goal 1 => subst x); (on_goal 2 => clear_value x))
    | (intro x; (refine Kept.cutPair (p := x) ?_ (fun _ => ?_)); (on_goal 1 => subst x); (on_goal 2 => clear_value x))
    | (intro x; clear_value x) | (intro _; try beta_reduce) | apply State.setReg64_kept | apply State.inc_kept
    | apply State.when_kept | apply State.setBit_kept | apply Kept.ite | apply Goes.ite | apply Goes.next
    | apply Goes.after | apply Kept.foldl | apply Kept.foldlPair | (refine Kept.fst ‹_ = (_, _)› ?_) | split
    | lift_lets | (dsimp -zeta only) | (fail_if_no_progress apply Kept.fields) | apply Kept.tabs | apply FMap.tidy_put
    | apply FMap.tidy_mod | apply FMap.tidy_nil | apply FMap.tidy_foldl)

theorem State.fenceDone_kept {r : State} {s : State} (hs : Kept r s) :
    Kept r (State.fenceDone s) := by
  unfold State.fenceDone
  repeat' (with_reducible first
    | assumption | (intro _; try beta_reduce) | apply State.evt_kept | apply State.setBit_kept | apply Kept.ite)

theorem State.mirrorCfg_kept {r : State} {p} {v} {s : State} (hs : Kept r s) :
    Kept r (State.mirrorCfg p v s) := by
  unfold State.mirrorCfg
  repeat' (with_reducible first
    | assumption | (intro _; try beta_reduce) | apply State.setReg_kept | apply State.when_kept | apply State.evt_kept
    | apply Kept.ite)

theorem State.macEee_kept {r : State} {p} {v} {s : State} (hs : Kept r s) :
    Kept r (State.macEee p v s) := by
  unfold State.macEee
  repeat' (with_reducible first
    | assumption | (intro _; try beta_reduce) | apply State.setReg_kept | apply State.when_kept | apply State.evt_kept
    | apply Kept.ite)

theorem State.nodeRenew_kept {r : State} {k} {src} {s : State} (hs : Kept r s) :
    Kept r (State.nodeRenew k src s) := by
  unfold State.nodeRenew
  repeat' (with_reducible first
    | assumption
    | (intro x; (refine Kept.cut (s := x) ?_ (fun _ => ?_)); (on_goal 1 => subst x); (on_goal 2 => clear_value x))
    | (intro x; (refine Kept.cutPair (p := x) ?_ (fun _ => ?_)); (on_goal 1 => subst x); (on_goal 2 => clear_value x))
    | (intro x; clear_value x) | (intro _; try beta_reduce) | apply State.nodeSee_kept | apply Kept.ite
    | apply Goes.ite | apply Goes.next | apply Goes.after | apply Kept.foldl | apply Kept.foldlPair
    | (refine Kept.fst ‹_ = (_, _)› ?_) | split | lift_lets | (dsimp -zeta only)
    | (fail_if_no_progress apply Kept.fields) | apply Kept.tabs | apply FMap.tidy_put | apply FMap.tidy_mod
    | apply FMap.tidy_nil | apply FMap.tidy_foldl)

theorem execNodeAgeOut_goes {r : State} {k} {s : State} (hs : Kept r s) :
    Goes r (execNodeAgeOut k s) := by
  unfold execNodeAgeOut
  repeat' (with_reducible first | assumption | apply Goes.next | apply State.nodeAge_kept)

theorem State.hcRingWrite_kept {r : State} {cfg} {a} {v} {s : State} (hs : Kept r s) :
    Kept r (State.hcRingWrite cfg a v s) := by
  unfold State.hcRingWrite
  repeat' (with_reducible first
    | assumption
    | (intro x; (refine Kept.cut (s := x) ?_ (fun _ => ?_)); (on_goal 1 => subst x); (on_goal 2 => clear_value x))
    | (intro x; (refine Kept.cutPair (p := x) ?_ (fun _ => ?_)); (on_goal 1 => subst x); (on_goal 2 => clear_value x))
    | (intro x; clear_value x) | (intro _; try beta_reduce) | apply State.evt_kept | apply State.setReg_kept
    | apply Kept.ite | apply Goes.ite | apply Goes.next | apply Goes.after | apply Kept.foldl | apply Kept.foldlPair
    | (refine Kept.fst ‹_ = (_, _)› ?_) | split | lift_lets | (dsimp -zeta only)
    | (fail_if_no_progress apply Kept.fields) | apply Kept.tabs | apply FMap.tidy_put | apply FMap.tidy_mod
    | apply FMap.tidy_nil | apply FMap.tidy_foldl)

theorem State.hcWrite_kept {r : State} {c} {head} {selv} {idx} {gap} {lost} {seq} {s : State} (hs : Kept r s) :
    Kept r (State.hcWrite c head selv idx gap lost seq s) := by
  unfold State.hcWrite
  repeat' (with_reducible first
    | assumption
    | (intro x; (refine Kept.cut (s := x) ?_ (fun _ => ?_)); (on_goal 1 => subst x); (on_goal 2 => clear_value x))
    | (intro x; (refine Kept.cutPair (p := x) ?_ (fun _ => ?_)); (on_goal 1 => subst x); (on_goal 2 => clear_value x))
    | (intro x; clear_value x) | (intro _; try beta_reduce) | apply State.dma_kept | apply State.dmaWords_kept
    | apply State.when_kept | apply State.inc_kept | apply State.setReg_kept | apply Kept.ite | apply Goes.ite
    | apply Goes.next | apply Goes.after | apply Kept.foldl | apply Kept.foldlPair | (refine Kept.fst ‹_ = (_, _)› ?_)
    | split | lift_lets | (dsimp -zeta only) | (fail_if_no_progress apply Kept.fields) | apply Kept.tabs
    | apply FMap.tidy_put | apply FMap.tidy_mod | apply FMap.tidy_nil | apply FMap.tidy_foldl)

theorem execTblFenceDone_goes {r : State} {s : State} (hs : Kept r s) :
    Goes r (execTblFenceDone s) := by
  unfold execTblFenceDone
  repeat' (with_reducible first | assumption | apply Goes.next | apply State.fenceDone_kept)

theorem State.rxRing_kept {r : State} {r0} {octets} {selv} {s : State} (hs : Kept r s) :
    Kept r (State.rxRing r0 octets selv s) := by
  unfold State.rxRing
  repeat' (with_reducible first
    | assumption
    | (intro x; (refine Kept.cut (s := x) ?_ (fun _ => ?_)); (on_goal 1 => subst x); (on_goal 2 => clear_value x))
    | (intro x; (refine Kept.cutPair (p := x) ?_ (fun _ => ?_)); (on_goal 1 => subst x); (on_goal 2 => clear_value x))
    | (intro x; clear_value x) | (intro _; try beta_reduce) | apply State.inc_kept | apply State.dmaWords_kept
    | apply State.dma_kept | apply State.setReg_kept | apply Kept.ite | apply Goes.ite | apply Goes.next
    | apply Goes.after | apply Kept.foldl | apply Kept.foldlPair | (refine Kept.fst ‹_ = (_, _)› ?_) | split
    | lift_lets | (dsimp -zeta only) | (fail_if_no_progress apply Kept.fields) | apply Kept.tabs | apply FMap.tidy_put
    | apply FMap.tidy_mod | apply FMap.tidy_nil | apply FMap.tidy_foldl)

theorem State.writeBack_kept {r : State} {id} {status} {port} {ts} {s : State} (hs : Kept r s) :
    Kept r (State.writeBack id status port ts s) := by
  unfold State.writeBack
  repeat' (with_reducible first
    | assumption
    | (intro x; (refine Kept.cut (s := x) ?_ (fun _ => ?_)); (on_goal 1 => subst x); (on_goal 2 => clear_value x))
    | (intro x; (refine Kept.cutPair (p := x) ?_ (fun _ => ?_)); (on_goal 1 => subst x); (on_goal 2 => clear_value x))
    | (intro x; clear_value x) | (intro _; try beta_reduce) | apply State.dmaWords_kept | apply Kept.ite
    | apply Goes.ite | apply Goes.next | apply Goes.after | apply Kept.foldl | apply Kept.foldlPair
    | (refine Kept.fst ‹_ = (_, _)› ?_) | split | lift_lets | (dsimp -zeta only)
    | (fail_if_no_progress apply Kept.fields) | apply Kept.tabs | apply FMap.tidy_put | apply FMap.tidy_mod
    | apply FMap.tidy_nil | apply FMap.tidy_foldl)

theorem State.hcCapture_kept {r : State} {c} {head} {selv} {idx} {s : State} (hs : Kept r s) :
    Kept r (State.hcCapture c head selv idx s) := by
  unfold State.hcCapture
  repeat' (with_reducible first
    | assumption
    | (intro x; (refine Kept.cut (s := x) ?_ (fun _ => ?_)); (on_goal 1 => subst x); (on_goal 2 => clear_value x))
    | (intro x; (refine Kept.cutPair (p := x) ?_ (fun _ => ?_)); (on_goal 1 => subst x); (on_goal 2 => clear_value x))
    | (intro x; clear_value x) | (intro _; try beta_reduce) | apply State.modSwc_kept | apply State.hcWrite_kept
    | apply State.hcDrop_kept | apply State.hcLose_kept | apply Kept.ite | apply Goes.ite | apply Goes.next
    | apply Goes.after | apply Kept.foldl | apply Kept.foldlPair | (refine Kept.fst ‹_ = (_, _)› ?_) | split
    | lift_lets | (dsimp -zeta only) | (fail_if_no_progress apply Kept.fields) | apply Kept.tabs | apply FMap.tidy_put
    | apply FMap.tidy_mod | apply FMap.tidy_nil | apply FMap.tidy_foldl)

theorem State.descDone_kept {r : State} {id} {s : State} (hs : Kept r s) :
    Kept r (State.descDone id s) := by
  unfold State.descDone
  repeat' (with_reducible first
    | assumption | (intro _; try beta_reduce) | apply State.drew_kept | apply State.writeBack_kept
    | apply State.modSwc_kept | apply Kept.ite)

theorem State.supervise_kept {r : State} {k} {s : State} (hs : Kept r s) :
    Kept r (State.supervise k s) := by
  unfold State.supervise
  repeat' (with_reducible first
    | assumption
    | (intro x; (refine Kept.cut (s := x) ?_ (fun _ => ?_)); (on_goal 1 => subst x); (on_goal 2 => clear_value x))
    | (intro x; (refine Kept.cutPair (p := x) ?_ (fun _ => ?_)); (on_goal 1 => subst x); (on_goal 2 => clear_value x))
    | (intro x; clear_value x) | (intro _; try beta_reduce) | apply State.each_kept | apply State.sendDirect_kept
    | apply State.modSwc_kept | apply Kept.ite | apply Goes.ite | apply Goes.next | apply Goes.after
    | apply Kept.foldl | apply Kept.foldlPair | (refine Kept.fst ‹_ = (_, _)› ?_) | split | lift_lets
    | (dsimp -zeta only) | (fail_if_no_progress apply Kept.fields) | apply Kept.tabs | apply FMap.tidy_put
    | apply FMap.tidy_mod | apply FMap.tidy_nil | apply FMap.tidy_foldl)

theorem State.descNote_kept {r : State} {f} {note} {s : State} (hs : Kept r s) :
    Kept r (State.descNote f note s) := by
  unfold State.descNote
  repeat' (with_reducible first
    | assumption | (intro _; try beta_reduce) | apply State.descDone_kept | apply State.modSwc_kept | apply Kept.ite
    | split)

theorem State.swAdmit_kept {r : State} {p} {q} {f} {s : State} (hs : Kept r s) :
    Kept r (State.swAdmit p q f s).1 := by
  unfold State.swAdmit
  repeat' (with_reducible first
    | assumption
    | (intro x; (refine Kept.cut (s := x) ?_ (fun _ => ?_)); (on_goal 1 => subst x); (on_goal 2 => clear_value x))
    | (intro x; (refine Kept.cutPair (p := x) ?_ (fun _ => ?_)); (on_goal 1 => subst x); (on_goal 2 => clear_value x))
    | (intro x; clear_value x) | (intro _; try beta_reduce) | apply State.descNote_kept | apply State.inc_kept
    | apply State.setReg_kept | apply State.wakePort_kept | apply State.setQ_kept | apply Kept.ite | apply Goes.ite
    | apply Goes.next | apply Goes.after | apply Kept.foldl | apply Kept.foldlPair | (refine Kept.fst ‹_ = (_, _)› ?_)
    | split | lift_lets | (dsimp -zeta only) | (fail_if_no_progress apply Kept.fields) | apply Kept.tabs
    | apply FMap.tidy_put | apply FMap.tidy_mod | apply FMap.tidy_nil | apply FMap.tidy_foldl)

theorem State.mirrorCopy_kept {r : State} {f} {s : State} (hs : Kept r s) :
    Kept r (State.mirrorCopy f s) := by
  unfold State.mirrorCopy
  repeat' (with_reducible first
    | assumption | (intro _; try beta_reduce) | apply State.modSwc_kept | apply State.inc_kept
    | apply State.swAdmit_kept | apply Kept.ite | split)

theorem State.txEnd_kept {r : State} {p} {s : State} (hs : Kept r s) :
    Kept r (State.txEnd p s) := by
  unfold State.txEnd
  repeat' (with_reducible first
    | assumption | (intro _; try beta_reduce) | apply State.modSwc_kept | apply State.macSent_kept
    | apply State.showQ_kept | apply State.freeCells_kept | apply State.when_kept | apply State.inc_kept
    | apply State.descNote_kept | apply Kept.ite | split)

theorem State.deliver_kept {r : State} {p} {q} {f} {s : State} (hs : Kept r s) :
    Kept r (State.deliver p q f s) := by
  unfold State.deliver
  repeat' (with_reducible first
    | assumption
    | (intro x; (refine Kept.cut (s := x) ?_ (fun _ => ?_)); (on_goal 1 => subst x); (on_goal 2 => clear_value x))
    | (intro x; (refine Kept.cutPair (p := x) ?_ (fun _ => ?_)); (on_goal 1 => subst x); (on_goal 2 => clear_value x))
    | (intro x; clear_value x) | (intro _; try beta_reduce) | apply State.inc_kept | apply State.showQ_kept
    | apply State.freeCells_kept | apply State.rxRing_kept | apply State.emit_kept | apply State.descNote_kept
    | apply Kept.ite | apply Goes.ite | apply Goes.next | apply Goes.after | apply Kept.foldl | apply Kept.foldlPair
    | (refine Kept.fst ‹_ = (_, _)› ?_) | split | lift_lets | (dsimp -zeta only)
    | (fail_if_no_progress apply Kept.fields) | apply Kept.tabs | apply FMap.tidy_put | apply FMap.tidy_mod
    | apply FMap.tidy_nil | apply FMap.tidy_foldl)

theorem execSupervisionSend_goes {r : State} {k} {s : State} (hs : Kept r s) :
    Goes r (execSupervisionSend k s) := by
  unfold execSupervisionSend
  repeat' (with_reducible first | assumption | apply Goes.next | apply State.supervise_kept)

theorem State.lpiEntry_kept {r : State} {p} {s : State} (hs : Kept r s) :
    Kept r (State.lpiEntry p s) := by
  unfold State.lpiEntry
  repeat' (with_reducible first
    | assumption | (intro _; try beta_reduce) | apply State.txEnd_kept | apply State.inc_kept
    | apply State.setBit_kept | apply Kept.ite)

theorem State.dropFrames_kept {r : State} {p} {q} {c} {reg} {note} {s : State} (hs : Kept r s) :
    Kept r (State.dropFrames p q c reg note s) := by
  unfold State.dropFrames
  repeat' (with_reducible first
    | assumption
    | (intro x; (refine Kept.cut (s := x) ?_ (fun _ => ?_)); (on_goal 1 => subst x); (on_goal 2 => clear_value x))
    | (intro x; (refine Kept.cutPair (p := x) ?_ (fun _ => ?_)); (on_goal 1 => subst x); (on_goal 2 => clear_value x))
    | (intro x; clear_value x) | (intro _; try beta_reduce) | apply State.setQ_kept | apply State.modSwc_kept
    | apply State.each_kept | apply State.descNote_kept | apply State.inc_kept | apply State.freeCells_kept
    | apply Kept.ite | apply Goes.ite | apply Goes.next | apply Goes.after | apply Kept.foldl | apply Kept.foldlPair
    | (refine Kept.fst ‹_ = (_, _)› ?_) | split | lift_lets | (dsimp -zeta only)
    | (fail_if_no_progress apply Kept.fields) | apply Kept.tabs | apply FMap.tidy_put | apply FMap.tidy_mod
    | apply FMap.tidy_nil | apply FMap.tidy_foldl)

theorem State.txAbort_kept {r : State} {p} {s : State} (hs : Kept r s) :
    Kept r (State.txAbort p s) := by
  unfold State.txAbort
  repeat' (with_reducible first
    | assumption | (intro _; try beta_reduce) | apply State.modSwc_kept | apply State.descNote_kept
    | apply State.inc_kept | apply State.showQ_kept | apply State.freeCells_kept | apply Kept.ite | split)

theorem State.flushQ_kept {r : State} {p} {q} {c} {s : State} (hs : Kept r s) :
    Kept r (State.flushQ p q c s) := by
  unfold State.flushQ
  repeat' (with_reducible first | assumption | apply State.dropFrames_kept)

theorem State.dropOld_kept {r : State} {p} {q} {s : State} (hs : Kept r s) :
    Kept r (State.dropOld p q s) := by
  unfold State.dropOld
  repeat' (with_reducible first | assumption | apply State.dropFrames_kept)

theorem State.heard_kept {r : State} {p} {s : State} (hs : Kept r s) :
    Kept r (State.heard p s) := by
  unfold State.heard
  repeat' (with_reducible first
    | assumption | (intro _; try beta_reduce) | apply State.modSwc_kept | apply State.healthUpdate_kept
    | apply State.evt_kept | apply State.setBit_kept | apply Kept.ite | (refine Kept.fst ‹_ = (_, _)› ?_) | split
    | (dsimp only))

theorem execLpiEntry_goes {r : State} {p} {s : State} (hs : Kept r s) :
    Goes r (execLpiEntry p s) := by
  unfold execLpiEntry
  repeat' (with_reducible first | assumption | apply Goes.next | apply State.lpiEntry_kept)

theorem execAgeSweep_goes {r : State} {s : State} (hs : Kept r s) :
    Goes r (execAgeSweep s) := by
  unfold execAgeSweep
  repeat' (with_reducible first
    | assumption | (intro _; try beta_reduce) | apply Goes.next | apply State.each_kept | apply State.dropOld_kept)

theorem State.portRises_kept {r : State} {p} {s : State} (hs : Kept r s) :
    Kept r (State.portRises p s) := by
  unfold State.portRises
  repeat' (with_reducible first
    | assumption
    | (intro x; (refine Kept.cut (s := x) ?_ (fun _ => ?_)); (on_goal 1 => subst x); (on_goal 2 => clear_value x))
    | (intro x; (refine Kept.cutPair (p := x) ?_ (fun _ => ?_)); (on_goal 1 => subst x); (on_goal 2 => clear_value x))
    | (intro x; clear_value x) | (intro _; try beta_reduce) | apply State.evt_kept | apply State.setFld_kept
    | apply State.each_kept | apply State.dropOld_kept | apply State.healthUpdate_kept | apply State.modSwc_kept
    | apply Kept.ite | apply Goes.ite | apply Goes.next | apply Goes.after | apply Kept.foldl | apply Kept.foldlPair
    | (refine Kept.fst ‹_ = (_, _)› ?_) | split | lift_lets | (dsimp -zeta only)
    | (fail_if_no_progress apply Kept.fields) | apply Kept.tabs | apply FMap.tidy_put | apply FMap.tidy_mod
    | apply FMap.tidy_nil | apply FMap.tidy_foldl)

theorem State.portSettle_kept {r : State} {p} {s : State} (hs : Kept r s) :
    Kept r (State.portSettle p s) := by
  unfold State.portSettle
  repeat' (with_reducible first
    | assumption
    | (intro x; (refine Kept.cut (s := x) ?_ (fun _ => ?_)); (on_goal 1 => subst x); (on_goal 2 => clear_value x))
    | (intro x; (refine Kept.cutPair (p := x) ?_ (fun _ => ?_)); (on_goal 1 => subst x); (on_goal 2 => clear_value x))
    | (intro x; clear_value x) | (intro _; try beta_reduce) | apply State.directEnd_kept | apply State.txEnd_kept
    | apply Kept.ite | apply Goes.ite | apply Goes.next | apply Goes.after | apply Kept.foldl | apply Kept.foldlPair
    | (refine Kept.fst ‹_ = (_, _)› ?_) | split | lift_lets | (dsimp -zeta only)
    | (fail_if_no_progress apply Kept.fields) | apply Kept.tabs | apply FMap.tidy_put | apply FMap.tidy_mod
    | apply FMap.tidy_nil | apply FMap.tidy_foldl)

theorem State.sendHead_kept {r : State} {p} {s : State} (hs : Kept r s) :
    Kept r (State.sendHead p s) := by
  unfold State.sendHead
  repeat' (with_reducible first
    | assumption | (intro _; try beta_reduce) | apply State.setQ_kept | apply State.txStart_kept
    | apply State.deliver_kept | apply Kept.ite | split)

theorem State.holdExpire_kept {r : State} {p} {s : State} (hs : Kept r s) :
    Kept r (State.holdExpire p s) := by
  unfold State.holdExpire
  repeat' (with_reducible first
    | assumption | (intro _; try beta_reduce) | apply State.setBit_kept | apply State.each_kept
    | apply State.flushQ_kept | apply Kept.ite)

theorem State.linkUp_kept {r : State} {p} {s : State} (hs : Kept r s) :
    Kept r (State.linkUp p s) := by
  unfold State.linkUp
  repeat' (with_reducible first
    | assumption
    | (intro x; (refine Kept.cut (s := x) ?_ (fun _ => ?_)); (on_goal 1 => subst x); (on_goal 2 => clear_value x))
    | (intro x; (refine Kept.cutPair (p := x) ?_ (fun _ => ?_)); (on_goal 1 => subst x); (on_goal 2 => clear_value x))
    | (intro x; clear_value x) | (intro _; try beta_reduce) | apply State.setBit_kept | apply State.modSwc_kept
    | apply State.portRises_kept | apply Kept.ite | apply Goes.ite | apply Goes.next | apply Goes.after
    | apply Kept.foldl | apply Kept.foldlPair | (refine Kept.fst ‹_ = (_, _)› ?_) | split | lift_lets
    | (dsimp -zeta only) | (fail_if_no_progress apply Kept.fields) | apply Kept.tabs | apply FMap.tidy_put
    | apply FMap.tidy_mod | apply FMap.tidy_nil | apply FMap.tidy_foldl)

theorem execHoldExpiry_goes {r : State} {p} {s : State} (hs : Kept r s) :
    Goes r (execHoldExpiry p s) := by
  unfold execHoldExpiry
  repeat' (with_reducible first | assumption | apply Goes.next | apply State.holdExpire_kept)

theorem State.lanSilent_kept {r : State} {k} {m} {s : State} (hs : Kept r s) :
    Kept r (State.lanSilent k m s) := by
  unfold State.lanSilent
  repeat' (with_reducible first
    | assumption | (intro _; try beta_reduce) | apply State.healthUpdate_kept | apply State.ledger_kept
    | apply State.evt_kept | apply State.setBit_kept | apply Kept.ite)

theorem State.innerFlush_kept {r : State} {s : State} (hs : Kept r s) :
    Kept r (State.innerFlush s) := by
  unfold State.innerFlush
  repeat' (with_reducible first
    | assumption
    | (intro x; (refine Kept.cut (s := x) ?_ (fun _ => ?_)); (on_goal 1 => subst x); (on_goal 2 => clear_value x))
    | (intro x; (refine Kept.cutPair (p := x) ?_ (fun _ => ?_)); (on_goal 1 => subst x); (on_goal 2 => clear_value x))
    | (intro x; clear_value x) | (intro _; try beta_reduce) | apply State.each_kept | apply State.flushQ_kept
    | apply State.modSwc_kept | apply Kept.ite | apply Goes.ite | apply Goes.next | apply Goes.after
    | apply Kept.foldl | apply Kept.foldlPair | (refine Kept.fst ‹_ = (_, _)› ?_) | split | lift_lets
    | (dsimp -zeta only) | (fail_if_no_progress apply Kept.fields) | apply Kept.tabs | apply FMap.tidy_put
    | apply FMap.tidy_mod | apply FMap.tidy_nil | apply FMap.tidy_foldl)

theorem State.downQueues_kept {r : State} {p} {s : State} (hs : Kept r s) :
    Kept r (State.downQueues p s) := by
  unfold State.downQueues
  repeat' (with_reducible first
    | assumption | (intro _; try beta_reduce) | apply State.each_kept | apply State.flushQ_kept
    | apply State.setBit_kept | apply State.modSwc_kept | apply Kept.ite)

theorem State.egress_kept {r : State} {p} {s : State} (hs : Kept r s) :
    Kept r (State.egress p s) := by
  unfold State.egress
  repeat' (with_reducible first
    | assumption
    | (intro x; (refine Kept.cut (s := x) ?_ (fun _ => ?_)); (on_goal 1 => subst x); (on_goal 2 => clear_value x))
    | (intro x; (refine Kept.cutPair (p := x) ?_ (fun _ => ?_)); (on_goal 1 => subst x); (on_goal 2 => clear_value x))
    | (intro x; clear_value x) | (intro _; try beta_reduce) | apply State.directNext_kept | apply State.directEnd_kept
    | apply State.txEnd_kept | apply State.sendHead_kept | apply State.each_kept | apply State.dropOld_kept
    | apply Kept.ite | apply Goes.ite | apply Goes.next | apply Goes.after | apply Kept.foldl | apply Kept.foldlPair
    | (refine Kept.fst ‹_ = (_, _)› ?_) | split | lift_lets | (dsimp -zeta only)
    | (fail_if_no_progress apply Kept.fields) | apply Kept.tabs | apply FMap.tidy_put | apply FMap.tidy_mod
    | apply FMap.tidy_nil | apply FMap.tidy_foldl)

theorem execLinkUp_goes {r : State} {p} {s : State} (hs : Kept r s) :
    Goes r (execLinkUp p s) := by
  unfold execLinkUp
  repeat' (with_reducible first | assumption | apply Goes.next | apply State.linkUp_kept)

theorem State.place_kept {r : State} {p} {q} {cut} {f} {s : State} (hs : Kept r s) :
    Kept r (State.place p q cut f s).1 := by
  unfold State.place
  repeat' (with_reducible first
    | assumption | (intro _; try beta_reduce) | apply State.swAdmit_kept | apply State.sendHead_kept | apply Kept.ite
    | (refine Kept.fst ‹_ = (_, _)› ?_) | split)

theorem execTblRead_goes {r : State} {w} {index} {s : State} (hs : Kept r s) :
    Goes r (execTblRead w index s) := by
  unfold execTblRead
  repeat' (with_reducible first
    | assumption
    | (intro x; (refine Kept.cut (s := x) ?_ (fun _ => ?_)); (on_goal 1 => subst x); (on_goal 2 => clear_value x))
    | (intro x; (refine Kept.cutPair (p := x) ?_ (fun _ => ?_)); (on_goal 1 => subst x); (on_goal 2 => clear_value x))
    | (intro x; clear_value x) | (intro _; try beta_reduce) | apply State.gateSup_kept | apply State.tblCmd_kept
    | apply State.tblRead_kept | apply Kept.ite | apply Goes.ite | apply Goes.next | apply Goes.after
    | apply Kept.foldl | apply Kept.foldlPair | (refine Kept.fst ‹_ = (_, _)› ?_) | split | lift_lets
    | (dsimp -zeta only) | (fail_if_no_progress apply Kept.fields) | apply Kept.tabs | apply FMap.tidy_put
    | apply FMap.tidy_mod | apply FMap.tidy_nil | apply FMap.tidy_foldl)

theorem execTblInvalidate_goes {r : State} {w} {index} {s : State} (hs : Kept r s) :
    Goes r (execTblInvalidate w index s) := by
  unfold execTblInvalidate
  repeat' (with_reducible first
    | assumption
    | (intro x; (refine Kept.cut (s := x) ?_ (fun _ => ?_)); (on_goal 1 => subst x); (on_goal 2 => clear_value x))
    | (intro x; (refine Kept.cutPair (p := x) ?_ (fun _ => ?_)); (on_goal 1 => subst x); (on_goal 2 => clear_value x))
    | (intro x; clear_value x) | (intro _; try beta_reduce) | apply State.gateSup_kept | apply State.tblCmd_kept
    | apply State.tblInvalidate_kept | apply Kept.ite | apply Goes.ite | apply Goes.next | apply Goes.after
    | apply Kept.foldl | apply Kept.foldlPair | (refine Kept.fst ‹_ = (_, _)› ?_) | split | lift_lets
    | (dsimp -zeta only) | (fail_if_no_progress apply Kept.fields) | apply Kept.tabs | apply FMap.tidy_put
    | apply FMap.tidy_mod | apply FMap.tidy_nil | apply FMap.tidy_foldl)

theorem execLanSilent_goes {r : State} {k} {m} {s : State} (hs : Kept r s) :
    Goes r (execLanSilent k m s) := by
  unfold execLanSilent
  repeat' (with_reducible first | assumption | apply Goes.next | apply State.lanSilent_kept)

theorem State.linkDown_kept {r : State} {p} {s : State} (hs : Kept r s) :
    Kept r (State.linkDown p s) := by
  unfold State.linkDown
  repeat' (with_reducible first
    | assumption
    | (intro x; (refine Kept.cut (s := x) ?_ (fun _ => ?_)); (on_goal 1 => subst x); (on_goal 2 => clear_value x))
    | (intro x; (refine Kept.cutPair (p := x) ?_ (fun _ => ?_)); (on_goal 1 => subst x); (on_goal 2 => clear_value x))
    | (intro x; clear_value x) | (intro _; try beta_reduce) | apply State.modSwc_kept | apply State.setFld_kept
    | apply State.directDrop_kept | apply State.txAbort_kept | apply State.portSettle_kept | apply State.inc_kept
    | apply State.evt_kept | apply State.healthUpdate_kept | apply State.downQueues_kept | apply State.setBit_kept
    | apply Kept.ite | apply Goes.ite | apply Goes.next | apply Goes.after | apply Kept.foldl | apply Kept.foldlPair
    | (refine Kept.fst ‹_ = (_, _)› ?_) | split | lift_lets | (dsimp -zeta only)
    | (fail_if_no_progress apply Kept.fields) | apply Kept.tabs | apply FMap.tidy_put | apply FMap.tidy_mod
    | apply FMap.tidy_nil | apply FMap.tidy_foldl)

theorem State.macCfg_kept {r : State} {p} {v} {s : State} (hs : Kept r s) :
    Kept r (State.macCfg p v s) := by
  unfold State.macCfg
  repeat' (with_reducible first
    | assumption | (intro _; try beta_reduce) | apply State.setReg_kept | apply State.when_kept | apply State.evt_kept
    | apply State.linkDown_kept | apply Kept.ite)

theorem execTblFence_goes {r : State} {w} {s : State} (hs : Kept r s) :
    Goes r (execTblFence w s) := by
  unfold execTblFence
  repeat' (with_reducible first
    | assumption
    | (intro x; (refine Kept.cut (s := x) ?_ (fun _ => ?_)); (on_goal 1 => subst x); (on_goal 2 => clear_value x))
    | (intro x; (refine Kept.cutPair (p := x) ?_ (fun _ => ?_)); (on_goal 1 => subst x); (on_goal 2 => clear_value x))
    | (intro x; clear_value x) | (intro _; try beta_reduce) | apply State.gateSup_kept | apply State.tblCmd_kept
    | apply State.tblFence_kept | apply Kept.ite | apply Goes.ite | apply Goes.next | apply Goes.after
    | apply Kept.foldl | apply Kept.foldlPair | (refine Kept.fst ‹_ = (_, _)› ?_) | split | lift_lets
    | (dsimp -zeta only) | (fail_if_no_progress apply Kept.fields) | apply Kept.tabs | apply FMap.tidy_put
    | apply FMap.tidy_mod | apply FMap.tidy_nil | apply FMap.tidy_foldl)

theorem execEgressTransmit_goes {r : State} {p} {s : State} (hs : Kept r s) :
    Goes r (execEgressTransmit p s) := by
  unfold execEgressTransmit
  repeat' (with_reducible first | assumption | apply Goes.next | apply State.egress_kept)

theorem execLinkDown_goes {r : State} {p} {s : State} (hs : Kept r s) :
    Goes r (execLinkDown p s) := by
  unfold execLinkDown
  repeat' (with_reducible first | assumption | apply Goes.next | apply State.linkDown_kept)

theorem execTblWrite_goes {r : State} {w} {index} {s : State} (hs : Kept r s) :
    Goes r (execTblWrite w index s) := by
  unfold execTblWrite
  repeat' (with_reducible first
    | assumption
    | (intro x; (refine Kept.cut (s := x) ?_ (fun _ => ?_)); (on_goal 1 => subst x); (on_goal 2 => clear_value x))
    | (intro x; (refine Kept.cutPair (p := x) ?_ (fun _ => ?_)); (on_goal 1 => subst x); (on_goal 2 => clear_value x))
    | (intro x; clear_value x) | (intro _; try beta_reduce) | apply State.gateSup_kept | apply State.tblCmd_kept
    | apply State.tblWrite_kept | apply Kept.ite | apply Goes.ite | apply Goes.next | apply Goes.after
    | apply Kept.foldl | apply Kept.foldlPair | (refine Kept.fst ‹_ = (_, _)› ?_) | split | lift_lets
    | (dsimp -zeta only) | (fail_if_no_progress apply Kept.fields) | apply Kept.tabs | apply FMap.tidy_put
    | apply FMap.tidy_mod | apply FMap.tidy_nil | apply FMap.tidy_foldl)

theorem State.toInternal_kept {r : State} {q} {noCut} {x} {s : State} (hs : Kept r s) :
    Kept r (State.toInternal q noCut x s).1 := by
  unfold State.toInternal
  repeat' (with_reducible first
    | assumption | (intro _; try beta_reduce) | apply State.descNote_kept | apply State.place_kept | apply Kept.ite
    | split)

theorem State.toExternal_kept {r : State} {q} {noCut} {cross} {x} {s : State} (hs : Kept r s) :
    Kept r (State.toExternal q noCut cross x s).1 := by
  unfold State.toExternal
  repeat' (with_reducible first
    | assumption
    | (intro x; (refine Kept.cut (s := x) ?_ (fun _ => ?_)); (on_goal 1 => subst x); (on_goal 2 => clear_value x))
    | (intro x; (refine Kept.cutPair (p := x) ?_ (fun _ => ?_)); (on_goal 1 => subst x); (on_goal 2 => clear_value x))
    | (intro x; clear_value x) | (intro _; try beta_reduce) | apply State.portSettle_kept | apply State.descNote_kept
    | apply State.inc_kept | apply State.place_kept | apply Kept.ite | apply Goes.ite | apply Goes.next
    | apply Goes.after | apply Kept.foldl | apply Kept.foldlPair | (refine Kept.fst ‹_ = (_, _)› ?_) | split
    | lift_lets | (dsimp -zeta only) | (fail_if_no_progress apply Kept.fields) | apply Kept.tabs | apply FMap.tidy_put
    | apply FMap.tidy_mod | apply FMap.tidy_nil | apply FMap.tidy_foldl)

theorem State.forward_kept {r : State} {d} {q} {p} {f} {dupLoc} {dupFwd} {ring} {s : State} (hs : Kept r s) :
    Kept r (State.forward d q p f dupLoc dupFwd ring s).1 := by
  unfold State.forward
  repeat' (with_reducible first
    | assumption
    | (intro x; (refine Kept.cut (s := x) ?_ (fun _ => ?_)); (on_goal 1 => subst x); (on_goal 2 => clear_value x))
    | (intro x; (refine Kept.cutPair (p := x) ?_ (fun _ => ?_)); (on_goal 1 => subst x); (on_goal 2 => clear_value x))
    | (intro x; clear_value x) | (intro _; try beta_reduce) | apply State.externals_kept | apply State.each_kept
    | apply State.inc_kept | apply State.modSwc_kept | apply State.descDone_kept | apply State.placeAll_kept
    | apply State.toExternal_kept | apply State.toInternal_kept | apply State.when_kept | apply Kept.ite
    | apply Goes.ite | apply Goes.next | apply Goes.after | apply Kept.foldl | apply Kept.foldlPair
    | (refine Kept.fst ‹_ = (_, _)› ?_) | split | lift_lets | (dsimp -zeta only)
    | (fail_if_no_progress apply Kept.fields) | apply Kept.tabs | apply FMap.tidy_put | apply FMap.tidy_mod
    | apply FMap.tidy_nil | apply FMap.tidy_foldl)

theorem State.switchIn_kept {r : State} {p} {octets} {err} {path} {bad} {given} {desc} {dupLoc} {dupFwd} {ring} {s : State} (hs : Kept r s) :
    Kept r (State.switchIn p octets err path bad given desc dupLoc dupFwd ring s) := by
  unfold State.switchIn
  repeat' (with_reducible first
    | assumption
    | (intro x; (refine Kept.cut (s := x) ?_ (fun _ => ?_)); (on_goal 1 => subst x); (on_goal 2 => clear_value x))
    | (intro x; (refine Kept.cutPair (p := x) ?_ (fun _ => ?_)); (on_goal 1 => subst x); (on_goal 2 => clear_value x))
    | (intro x; clear_value x) | (intro _; try beta_reduce) | apply State.decide'_kept | apply State.forward_kept
    | apply State.mirrorCopy_kept | apply State.hcCapture_kept | apply Kept.ite | apply Goes.ite | apply Goes.next
    | apply Goes.after | apply Kept.foldl | apply Kept.foldlPair | (refine Kept.fst ‹_ = (_, _)› ?_) | split
    | lift_lets | (dsimp -zeta only) | (fail_if_no_progress apply Kept.fields) | apply Kept.tabs | apply FMap.tidy_put
    | apply FMap.tidy_mod | apply FMap.tidy_nil | apply FMap.tidy_foldl)

theorem State.fromHsr_kept {r : State} {k} {p} {octets} {err} {pf} {s : State} (hs : Kept r s) :
    Kept r (State.fromHsr k p octets err pf s) := by
  unfold State.fromHsr
  repeat' (with_reducible first
    | assumption
    | (intro x; (refine Kept.cut (s := x) ?_ (fun _ => ?_)); (on_goal 1 => subst x); (on_goal 2 => clear_value x))
    | (intro x; (refine Kept.cutPair (p := x) ?_ (fun _ => ?_)); (on_goal 1 => subst x); (on_goal 2 => clear_value x))
    | (intro x; clear_value x) | (intro _; try beta_reduce) | apply State.inc_kept | apply State.when_kept
    | apply State.heard_kept | apply State.nodeRenew_kept | apply State.switchIn_kept | apply State.nodePass_kept
    | apply Kept.ite | apply Goes.ite | apply Goes.next | apply Goes.after | apply Kept.foldl | apply Kept.foldlPair
    | (refine Kept.fst ‹_ = (_, _)› ?_) | split | lift_lets | (dsimp -zeta only)
    | (fail_if_no_progress apply Kept.fields) | apply Kept.tabs | apply FMap.tidy_put | apply FMap.tidy_mod
    | apply FMap.tidy_nil | apply FMap.tidy_foldl)

theorem State.fromPrp_kept {r : State} {k} {p} {octets} {err} {pf} {s : State} (hs : Kept r s) :
    Kept r (State.fromPrp k p octets err pf s) := by
  unfold State.fromPrp
  repeat' (with_reducible first
    | assumption
    | (intro x; (refine Kept.cut (s := x) ?_ (fun _ => ?_)); (on_goal 1 => subst x); (on_goal 2 => clear_value x))
    | (intro x; (refine Kept.cutPair (p := x) ?_ (fun _ => ?_)); (on_goal 1 => subst x); (on_goal 2 => clear_value x))
    | (intro x; clear_value x) | (intro _; try beta_reduce) | apply State.when_kept | apply State.nodeRenew_kept
    | apply State.heard_kept | apply State.switchIn_kept | apply State.evt_kept | apply State.inc_kept
    | apply State.nodePass_kept | apply Kept.ite | apply Goes.ite | apply Goes.next | apply Goes.after
    | apply Kept.foldl | apply Kept.foldlPair | (refine Kept.fst ‹_ = (_, _)› ?_) | split | lift_lets
    | (dsimp -zeta only) | (fail_if_no_progress apply Kept.fields) | apply Kept.tabs | apply FMap.tidy_put
    | apply FMap.tidy_mod | apply FMap.tidy_nil | apply FMap.tidy_foldl)

theorem State.fromPair_kept {r : State} {k} {p} {octets} {err} {pf} {s : State} (hs : Kept r s) :
    Kept r (State.fromPair k p octets err pf s) := by
  unfold State.fromPair
  repeat' (with_reducible first
    | assumption
    | (intro x; (refine Kept.cut (s := x) ?_ (fun _ => ?_)); (on_goal 1 => subst x); (on_goal 2 => clear_value x))
    | (intro x; (refine Kept.cutPair (p := x) ?_ (fun _ => ?_)); (on_goal 1 => subst x); (on_goal 2 => clear_value x))
    | (intro x; clear_value x) | (intro _; try beta_reduce) | apply State.fromPrp_kept | apply State.fromHsr_kept
    | apply Kept.ite | apply Goes.ite | apply Goes.next | apply Goes.after | apply Kept.foldl | apply Kept.foldlPair
    | (refine Kept.fst ‹_ = (_, _)› ?_) | split | lift_lets | (dsimp -zeta only)
    | (fail_if_no_progress apply Kept.fields) | apply Kept.tabs | apply FMap.tidy_put | apply FMap.tidy_mod
    | apply FMap.tidy_nil | apply FMap.tidy_foldl)

theorem State.feed_kept {r : State} {p} {x} {s : State} (hs : Kept r s) :
    Kept r (State.feed p x s) := by
  unfold State.feed
  repeat' (with_reducible first
    | assumption
    | (intro x; (refine Kept.cut (s := x) ?_ (fun _ => ?_)); (on_goal 1 => subst x); (on_goal 2 => clear_value x))
    | (intro x; (refine Kept.cutPair (p := x) ?_ (fun _ => ?_)); (on_goal 1 => subst x); (on_goal 2 => clear_value x))
    | (intro x; clear_value x) | (intro _; try beta_reduce) | apply State.switchIn_kept | apply State.modSwc_kept
    | apply State.descDone_kept | apply State.placeAll_kept | apply State.toExternal_kept | apply State.when_kept
    | apply State.inc_kept | apply Kept.ite | apply Goes.ite | apply Goes.next | apply Goes.after | apply Kept.foldl
    | apply Kept.foldlPair | (refine Kept.fst ‹_ = (_, _)› ?_) | split | lift_lets | (dsimp -zeta only)
    | (fail_if_no_progress apply Kept.fields) | apply Kept.tabs | apply FMap.tidy_put | apply FMap.tidy_mod
    | apply FMap.tidy_nil | apply FMap.tidy_foldl)

theorem State.enter_kept {r : State} {p} {x} {s : State} (hs : Kept r s) :
    Kept r (State.enter p x s) := by
  unfold State.enter
  repeat' (with_reducible first
    | assumption
    | (intro x; (refine Kept.cut (s := x) ?_ (fun _ => ?_)); (on_goal 1 => subst x); (on_goal 2 => clear_value x))
    | (intro x; (refine Kept.cutPair (p := x) ?_ (fun _ => ?_)); (on_goal 1 => subst x); (on_goal 2 => clear_value x))
    | (intro x; clear_value x) | (intro _; try beta_reduce) | apply State.modSwc_kept | apply State.feed_kept
    | apply Kept.ite | apply Goes.ite | apply Goes.next | apply Goes.after | apply Kept.foldl | apply Kept.foldlPair
    | (refine Kept.fst ‹_ = (_, _)› ?_) | split | lift_lets | (dsimp -zeta only)
    | (fail_if_no_progress apply Kept.fields) | apply Kept.tabs | apply FMap.tidy_put | apply FMap.tidy_mod
    | apply FMap.tidy_nil | apply FMap.tidy_foldl)

theorem State.admitNext_kept {r : State} {p} {s : State} (hs : Kept r s) :
    Kept r (State.admitNext p s) := by
  unfold State.admitNext
  repeat' (with_reducible first
    | assumption
    | (intro x; (refine Kept.cut (s := x) ?_ (fun _ => ?_)); (on_goal 1 => subst x); (on_goal 2 => clear_value x))
    | (intro x; (refine Kept.cutPair (p := x) ?_ (fun _ => ?_)); (on_goal 1 => subst x); (on_goal 2 => clear_value x))
    | (intro x; clear_value x) | (intro _; try beta_reduce) | apply State.feed_kept | apply State.modSwc_kept
    | apply Kept.ite | apply Goes.ite | apply Goes.next | apply Goes.after | apply Kept.foldl | apply Kept.foldlPair
    | (refine Kept.fst ‹_ = (_, _)› ?_) | split | lift_lets | (dsimp -zeta only)
    | (fail_if_no_progress apply Kept.fields) | apply Kept.tabs | apply FMap.tidy_put | apply FMap.tidy_mod
    | apply FMap.tidy_nil | apply FMap.tidy_foldl)

theorem State.rxExternal_kept {r : State} {p} {octets} {sym} {s : State} (hs : Kept r s) :
    Kept r (State.rxExternal p octets sym s) := by
  unfold State.rxExternal
  repeat' (with_reducible first
    | assumption
    | (intro x; (refine Kept.cut (s := x) ?_ (fun _ => ?_)); (on_goal 1 => subst x); (on_goal 2 => clear_value x))
    | (intro x; (refine Kept.cutPair (p := x) ?_ (fun _ => ?_)); (on_goal 1 => subst x); (on_goal 2 => clear_value x))
    | (intro x; clear_value x) | (intro _; try beta_reduce) | apply State.macRx_kept | apply State.evt_kept
    | apply State.inc_kept | apply State.when_kept | apply State.heard_kept | apply State.emit_kept
    | apply State.toTime_kept | apply State.fromPair_kept | apply State.switchIn_kept | apply Kept.ite
    | apply Goes.ite | apply Goes.next | apply Goes.after | apply Kept.foldl | apply Kept.foldlPair
    | (refine Kept.fst ‹_ = (_, _)› ?_) | split | lift_lets | (dsimp -zeta only)
    | (fail_if_no_progress apply Kept.fields) | apply Kept.tabs | apply FMap.tidy_put | apply FMap.tidy_mod
    | apply FMap.tidy_nil | apply FMap.tidy_foldl)

theorem State.txTake_kept {r : State} {r0} {s : State} (hs : Kept r s) :
    Kept r (State.txTake r0 s).1 := by
  unfold State.txTake
  repeat' (with_reducible first
    | assumption
    | (intro x; (refine Kept.cut (s := x) ?_ (fun _ => ?_)); (on_goal 1 => subst x); (on_goal 2 => clear_value x))
    | (intro x; (refine Kept.cutPair (p := x) ?_ (fun _ => ?_)); (on_goal 1 => subst x); (on_goal 2 => clear_value x))
    | (intro x; clear_value x) | (intro _; try beta_reduce) | apply State.inc_kept | apply State.setReg_kept
    | apply State.writeBack_kept | apply State.enter_kept | apply Kept.ite | apply Goes.ite | apply Goes.next
    | apply Goes.after | apply Kept.foldl | apply Kept.foldlPair | (refine Kept.fst ‹_ = (_, _)› ?_) | split
    | lift_lets | (dsimp -zeta only) | (fail_if_no_progress apply Kept.fields) | apply Kept.tabs | apply FMap.tidy_put
    | apply FMap.tidy_mod | apply FMap.tidy_nil | apply FMap.tidy_foldl)

theorem execFrameReceive_goes {r : State} {p} {octets} {sym} {s : State} (hs : Kept r s) :
    Goes r (execFrameReceive p octets sym s) := by
  unfold execFrameReceive
  repeat' (with_reducible first
    | assumption
    | (intro x; (refine Kept.cut (s := x) ?_ (fun _ => ?_)); (on_goal 1 => subst x); (on_goal 2 => clear_value x))
    | (intro x; (refine Kept.cutPair (p := x) ?_ (fun _ => ?_)); (on_goal 1 => subst x); (on_goal 2 => clear_value x))
    | (intro x; clear_value x) | (intro _; try beta_reduce) | apply State.rxExternal_kept | apply Kept.ite
    | apply Goes.ite | apply Goes.next | apply Goes.after | apply Kept.foldl | apply Kept.foldlPair
    | (refine Kept.fst ‹_ = (_, _)› ?_) | split | lift_lets | (dsimp -zeta only)
    | (fail_if_no_progress apply Kept.fields) | apply Kept.tabs | apply FMap.tidy_put | apply FMap.tidy_mod
    | apply FMap.tidy_nil | apply FMap.tidy_foldl)

theorem State.slot_kept {r : State} {s : State} (hs : Kept r s) :
    Kept r (State.slot s) := by
  unfold State.slot
  repeat' (with_reducible first
    | assumption
    | (intro x; (refine Kept.cut (s := x) ?_ (fun _ => ?_)); (on_goal 1 => subst x); (on_goal 2 => clear_value x))
    | (intro x; (refine Kept.cutPair (p := x) ?_ (fun _ => ?_)); (on_goal 1 => subst x); (on_goal 2 => clear_value x))
    | (intro x; clear_value x) | (intro _; try beta_reduce) | apply State.each_kept | apply State.admitNext_kept
    | apply State.cellSlot_kept | apply Kept.ite | apply Goes.ite | apply Goes.next | apply Goes.after
    | apply Kept.foldl | apply Kept.foldlPair | (refine Kept.fst ‹_ = (_, _)› ?_) | split | lift_lets
    | (dsimp -zeta only) | (fail_if_no_progress apply Kept.fields) | apply Kept.tabs | apply FMap.tidy_put
    | apply FMap.tidy_mod | apply FMap.tidy_nil | apply FMap.tidy_foldl)

theorem execTxRingKick_goes {r : State} {w} {r0} {s : State} (hs : Kept r s) :
    Goes r (execTxRingKick w r0 s) := by
  unfold execTxRingKick
  repeat' (with_reducible first | assumption | apply Goes.next | apply State.gateSup_kept | apply State.txTake_kept)

theorem State.txPoll_kept {r : State} {s : State} (hs : Kept r s) :
    Kept r (State.txPoll s) := by
  unfold State.txPoll
  repeat' (with_reducible first
    | assumption | apply State.each_kept | apply State.txTake_kept | apply State.modSwc_kept)

theorem execTxRingPoll_goes {r : State} {s : State} (hs : Kept r s) :
    Goes r (execTxRingPoll s) := by
  unfold execTxRingPoll
  repeat' (with_reducible first | assumption | apply Goes.next | apply State.txPoll_kept)

end Sys2Proof.Machine
end

