-- ==== Sys2Proof/Laws/KeptPub.lean ====
section
/-!
SUPPORT. What the operations of Machine/Pub.lean keep.
-/

set_option linter.all false

namespace Sys2Proof.Machine

theorem State.modPub_kept {r : State} {e} {f} {s : State} (hs : Kept r s) :
    Kept r (State.modPub e f s) := by
  unfold State.modPub
  repeat' (with_reducible first
    | assumption | (intro _; try beta_reduce) | apply Kept.ite | (refine Kept.fst ‹_ = (_, _)› ?_) | split
    | (dsimp only) | (fail_if_no_progress apply Kept.fields) | apply Kept.tabs
    | apply FMap.tidy_put | apply FMap.tidy_mod)

theorem State.svStart_kept {r : State} {e} {s : State} (hs : Kept r s) :
    Kept r (State.svStart e s) := by
  unfold State.svStart
  repeat' (with_reducible first | assumption | apply State.modPub_kept)

theorem State.pubPush_kept {r : State} {r0} {s : State} (hs : Kept r s) :
    Kept r (State.pubPush r0 s) := by
  unfold State.pubPush
  repeat' (with_reducible first
    | assumption | (intro _; try beta_reduce) | apply State.setBit_kept | apply Kept.ite
    | (refine Kept.fst ‹_ = (_, _)› ?_) | split | (dsimp only) | (fail_if_no_progress apply Kept.fields))

theorem State.pubCheck_kept {r : State} {e} {s : State} (hs : Kept r s) :
    Kept r (State.pubCheck e s) := by
  unfold State.pubCheck
  repeat' (with_reducible first | assumption | apply State.when_kept | apply State.evt_kept | apply State.setBit_kept)

theorem State.pubGained_kept {r : State} {s : State} (hs : Kept r s) :
    Kept r (State.pubGained s) := by
  unfold State.pubGained
  repeat' (with_reducible first
    | assumption | (intro _; try beta_reduce) | apply State.each_kept | apply State.pubPush_kept | apply Kept.ite
    | (refine Kept.fst ‹_ = (_, _)› ?_) | split | (dsimp only) | (fail_if_no_progress apply Kept.fields))

theorem State.pubRequest_kept {r : State} {e} {refresh} {restarted} {owner} {s : State} (hs : Kept r s) :
    Kept r (State.pubRequest e refresh restarted owner s).1 := by
  unfold State.pubRequest
  repeat' (with_reducible first
    | assumption
    | (intro x; (refine Kept.cut (s := x) ?_ (fun _ => ?_)); (on_goal 1 => subst x); (on_goal 2 => clear_value x))
    | (intro x; (refine Kept.cutPair (p := x) ?_ (fun _ => ?_)); (on_goal 1 => subst x); (on_goal 2 => clear_value x))
    | (intro x; clear_value x) | (intro _; try beta_reduce) | apply State.pubCheck_kept | apply State.evt_kept
    | apply State.inc_kept | apply State.pubPush_kept | apply Kept.ite | apply Goes.ite | apply Goes.next
    | apply Goes.after | apply Kept.foldl | apply Kept.foldlPair | (refine Kept.fst ‹_ = (_, _)› ?_) | split
    | lift_lets | (dsimp -zeta only) | (fail_if_no_progress apply Kept.fields) | apply Kept.tabs | apply FMap.tidy_put
    | apply FMap.tidy_mod | apply FMap.tidy_nil | apply FMap.tidy_foldl)

theorem State.pubActivated_kept {r : State} {e} {s : State} (hs : Kept r s) :
    Kept r (State.pubActivated e s) := by
  unfold State.pubActivated
  repeat' (with_reducible first
    | assumption | (intro _; try beta_reduce) | apply State.pubCheck_kept | apply State.modPub_kept
    | apply State.svStart_kept | apply State.setReg_kept | apply Kept.ite | (refine Kept.fst ‹_ = (_, _)› ?_) | split
    | (dsimp only) | (fail_if_no_progress apply Kept.fields))

theorem State.pubReqWrite_kept {r : State} {w} {e} {refresh} {s : State} (hs : Kept r s) :
    Kept r (State.pubReqWrite w e refresh s) := by
  unfold State.pubReqWrite
  repeat' (with_reducible first
    | assumption | (intro _; try beta_reduce) | apply State.gateGrant_kept | apply State.pubRequest_kept
    | apply State.setReg_kept)

theorem execPubReqRefresh_goes {r : State} {w} {e} {s : State} (hs : Kept r s) :
    Goes r (execPubReqRefresh w e s) := by
  unfold execPubReqRefresh
  repeat' (with_reducible first | assumption | apply Goes.next | apply State.pubReqWrite_kept)

theorem execPubReqNewState_goes {r : State} {w} {e} {s : State} (hs : Kept r s) :
    Goes r (execPubReqNewState w e s) := by
  unfold execPubReqNewState
  repeat' (with_reducible first | assumption | apply Goes.next | apply State.pubReqWrite_kept)

theorem State.toPort12_kept {r : State} {e} {frame} {s : State} (hs : Kept r s) :
    Kept r (State.toPort12 e frame s) := by
  unfold State.toPort12
  repeat' (with_reducible first
    | assumption
    | (intro x; (refine Kept.cut (s := x) ?_ (fun _ => ?_)); (on_goal 1 => subst x); (on_goal 2 => clear_value x))
    | (intro x; (refine Kept.cutPair (p := x) ?_ (fun _ => ?_)); (on_goal 1 => subst x); (on_goal 2 => clear_value x))
    | (intro x; clear_value x) | (intro _; try beta_reduce) | apply State.enter_kept | apply Kept.ite | apply Goes.ite
    | apply Goes.next | apply Goes.after | apply Kept.foldl | apply Kept.foldlPair | (refine Kept.fst ‹_ = (_, _)› ?_)
    | split | lift_lets | (dsimp -zeta only) | (fail_if_no_progress apply Kept.fields) | apply Kept.tabs
    | apply FMap.tidy_put | apply FMap.tidy_mod | apply FMap.tidy_nil | apply FMap.tidy_foldl)

theorem State.pubSend_kept {r : State} {e} {frame} {dual} {s : State} (hs : Kept r s) :
    Kept r (State.pubSend e frame dual s) := by
  unfold State.pubSend
  repeat' (with_reducible first
    | assumption
    | (intro x; (refine Kept.cut (s := x) ?_ (fun _ => ?_)); (on_goal 1 => subst x); (on_goal 2 => clear_value x))
    | (intro x; (refine Kept.cutPair (p := x) ?_ (fun _ => ?_)); (on_goal 1 => subst x); (on_goal 2 => clear_value x))
    | (intro x; clear_value x) | (intro _; try beta_reduce) | apply State.drew_kept | apply State.evt_kept
    | apply State.blockFault_kept | apply State.inc_kept | apply State.when_kept | apply State.toPort12_kept
    | apply Kept.ite | apply Goes.ite | apply Goes.next | apply Goes.after | apply Kept.foldl | apply Kept.foldlPair
    | (refine Kept.fst ‹_ = (_, _)› ?_) | split | lift_lets | (dsimp -zeta only)
    | (fail_if_no_progress apply Kept.fields) | apply Kept.tabs | apply FMap.tidy_put | apply FMap.tidy_mod
    | apply FMap.tidy_nil | apply FMap.tidy_foldl)

theorem State.svPublish_kept {r : State} {e} {dual} {s : State} (hs : Kept r s) :
    Kept r (State.svPublish e dual s) := by
  unfold State.svPublish
  repeat' (with_reducible first
    | assumption | (intro _; try beta_reduce) | apply State.pubCheck_kept | apply State.svStart_kept
    | apply State.modPub_kept | apply State.evt_kept | apply State.pubSend_kept | apply Kept.ite)

theorem State.pubFrame_kept {r : State} {e} {k} {dual} {s : State} (hs : Kept r s) :
    Kept r (State.pubFrame e k dual s) := by
  unfold State.pubFrame
  repeat' (with_reducible first | assumption | apply State.pubSend_kept)

theorem State.pubAgain_kept {r : State} {e} {at_} {dual} {s : State} (hs : Kept r s) :
    Kept r (State.pubAgain e at_ dual s) := by
  unfold State.pubAgain
  repeat' (with_reducible first
    | assumption | apply State.pubFrame_kept | apply State.setReg_kept | apply State.modPub_kept)

theorem execSvPublish_goes {r : State} {e} {dual} {s : State} (hs : Kept r s) :
    Goes r (execSvPublish e dual s) := by
  unfold execSvPublish
  repeat' (with_reducible first | assumption | apply Goes.next | apply State.svPublish_kept)

theorem State.pubNew_kept {r : State} {e} {sec} {ns} {tq} {owner} {dual} {s : State} (hs : Kept r s) :
    Kept r (State.pubNew e sec ns tq owner dual s) := by
  unfold State.pubNew
  repeat' (with_reducible first
    | assumption
    | (intro x; (refine Kept.cut (s := x) ?_ (fun _ => ?_)); (on_goal 1 => subst x); (on_goal 2 => clear_value x))
    | (intro x; (refine Kept.cutPair (p := x) ?_ (fun _ => ?_)); (on_goal 1 => subst x); (on_goal 2 => clear_value x))
    | (intro x; clear_value x) | (intro _; try beta_reduce) | apply State.setReg_kept | apply State.pubFrame_kept
    | apply State.modPub_kept | apply State.evt_kept | apply State.setBit_kept | apply Kept.ite | apply Goes.ite
    | apply Goes.next | apply Goes.after | apply Kept.foldl | apply Kept.foldlPair | (refine Kept.fst ‹_ = (_, _)› ?_)
    | split | lift_lets | (dsimp -zeta only) | (fail_if_no_progress apply Kept.fields) | apply Kept.tabs
    | apply FMap.tidy_put | apply FMap.tidy_mod | apply FMap.tidy_nil | apply FMap.tidy_foldl)

theorem State.pubTransmit_kept {r : State} {dual} {s : State} (hs : Kept r s) :
    Kept r (State.pubTransmit dual s) := by
  unfold State.pubTransmit
  repeat' (with_reducible first
    | assumption | (intro _; try beta_reduce) | apply State.setBit_kept | apply State.inc_kept
    | apply State.pubCheck_kept | apply State.pubNew_kept | apply State.pubAgain_kept | apply Kept.ite
    | (refine Kept.fst ‹_ = (_, _)› ?_) | split | (dsimp only) | (fail_if_no_progress apply Kept.fields))

theorem State.retransmit_kept {r : State} {e} {dual} {s : State} (hs : Kept r s) :
    Kept r (State.retransmit e dual s) := by
  unfold State.retransmit
  repeat' (with_reducible first
    | assumption | (intro _; try beta_reduce) | apply State.evt_kept | apply State.setBit_kept
    | apply State.modPub_kept | apply State.pubCheck_kept | apply State.pubNew_kept | apply State.pubAgain_kept
    | apply Kept.ite | split)

theorem execRetransmission_goes {r : State} {e} {dual} {s : State} (hs : Kept r s) :
    Goes r (execRetransmission e dual s) := by
  unfold execRetransmission
  repeat' (with_reducible first | assumption | apply Goes.next | apply State.retransmit_kept)

theorem execPubTransmit_goes {r : State} {dual} {s : State} (hs : Kept r s) :
    Goes r (execPubTransmit dual s) := by
  unfold execPubTransmit
  repeat' (with_reducible first | assumption | apply Goes.next | apply State.pubTransmit_kept)

end Sys2Proof.Machine
end

