-- ==== Sys2Proof/Laws/KeptPts.lean ====
section
/-!
SUPPORT. What the operations of Machine/Pts.lean keep.
-/

set_option linter.all false

namespace Sys2Proof.Machine

theorem State.modSub_kept {r : State} {n} {f} {s : State} (hs : Kept r s) :
    Kept r (State.modSub n f s) := by
  unfold State.modSub
  repeat' (with_reducible first
    | assumption | (intro _; try beta_reduce) | apply Kept.ite | (refine Kept.fst ‹_ = (_, _)› ?_) | split
    | (dsimp only) | (fail_if_no_progress apply Kept.fields) | apply Kept.tabs
    | apply FMap.tidy_put | apply FMap.tidy_mod)

theorem State.subReject_kept {r : State} {n} {cause} {counts} {s : State} (hs : Kept r s) :
    Kept r (State.subReject n cause counts s) := by
  unfold State.subReject
  repeat' (with_reducible first
    | assumption | (intro _; try beta_reduce) | apply State.setFld_kept | apply State.inc_kept
    | apply State.modSub_kept | apply Kept.ite)

theorem State.subRenew_kept {r : State} {n} {m} {s : State} (hs : Kept r s) :
    Kept r (State.subRenew n m s) := by
  unfold State.subRenew
  repeat' (with_reducible first | assumption | apply State.inc_kept | apply State.setReg_kept | apply State.modSub_kept)

theorem State.watchCfg_kept {r : State} {k} {v} {s : State} (hs : Kept r s) :
    Kept r (State.watchCfg k v s) := by
  unfold State.watchCfg
  repeat' (with_reducible first
    | assumption | (intro _; try beta_reduce) | apply State.setReg_kept | apply Kept.ite
    | (refine Kept.fst ‹_ = (_, _)› ?_) | split | (dsimp only) | (fail_if_no_progress apply Kept.fields) | apply Kept.tabs
    | apply FMap.tidy_put)

theorem State.setSub_kept {r : State} {n} {st} {s : State} (hs : Kept r s) :
    Kept r (State.setSub n st s) := by
  unfold State.setSub
  repeat' (with_reducible first
    | assumption | (intro _; try beta_reduce) | apply State.evt_kept | apply State.setFld_kept | apply Kept.ite)

theorem State.putPoint_kept {r : State} {p} {v} {q} {ty} {slice} {sec} {ns} {passNo} {s : State} (hs : Kept r s) :
    Kept r (State.putPoint p v q ty slice sec ns passNo s) := by
  unfold State.putPoint
  repeat' (with_reducible first
    | assumption
    | (intro x; (refine Kept.cut (s := x) ?_ (fun _ => ?_)); (on_goal 1 => subst x); (on_goal 2 => clear_value x))
    | (intro x; (refine Kept.cutPair (p := x) ?_ (fun _ => ?_)); (on_goal 1 => subst x); (on_goal 2 => clear_value x))
    | (intro x; clear_value x) | (intro _; try beta_reduce) | apply State.dmaWords_kept | apply Kept.ite
    | apply Goes.ite | apply Goes.next | apply Goes.after | apply Kept.foldl | apply Kept.foldlPair
    | (refine Kept.fst ‹_ = (_, _)› ?_) | split | lift_lets | (dsimp -zeta only)
    | (fail_if_no_progress apply Kept.fields) | apply Kept.tabs | apply FMap.tidy_put | apply FMap.tidy_mod
    | apply FMap.tidy_nil | apply FMap.tidy_foldl)

theorem State.watchEval_kept {r : State} {ty} {v} {q} {k} {s : State} (hs : Kept r s) :
    Kept r (State.watchEval ty v q k s) := by
  unfold State.watchEval
  repeat' (with_reducible first
    | assumption | (intro _; try beta_reduce) | apply State.inc_kept | apply State.pubRequest_kept | apply Kept.ite
    | (refine Kept.fst ‹_ = (_, _)› ?_) | split | (dsimp only) | (fail_if_no_progress apply Kept.fields) | apply Kept.tabs
    | apply FMap.tidy_put)

theorem State.subCfg_kept {r : State} {n} {v} {s : State} (hs : Kept r s) :
    Kept r (State.subCfg n v s) := by
  unfold State.subCfg
  repeat' (with_reducible first
    | assumption | (intro _; try beta_reduce) | apply State.setReg_kept | apply State.when_kept | apply State.evt_kept
    | apply State.setSub_kept | apply Kept.ite | (refine Kept.fst ‹_ = (_, _)› ?_) | split | (dsimp only)
    | (fail_if_no_progress apply Kept.fields) | apply Kept.tabs
    | apply FMap.tidy_put)

theorem State.enginePoint_kept {r : State} {p} {v} {q} {ty} {slice} {sec} {ns} {passNo} {s : State} (hs : Kept r s) :
    Kept r (State.enginePoint p v q ty slice sec ns passNo s) := by
  unfold State.enginePoint
  repeat' (with_reducible first
    | assumption | (intro _; try beta_reduce) | apply State.inc_kept | apply State.putPoint_kept
    | apply State.each_kept | apply State.watchEval_kept | apply Kept.ite)

theorem State.publishSet_kept {r : State} {n} {m} {expired} {s : State} (hs : Kept r s) :
    Kept r (State.publishSet n m expired s) := by
  unfold State.publishSet
  repeat' (with_reducible first
    | assumption
    | (intro x; (refine Kept.cut (s := x) ?_ (fun _ => ?_)); (on_goal 1 => subst x); (on_goal 2 => clear_value x))
    | (intro x; (refine Kept.cutPair (p := x) ?_ (fun _ => ?_)); (on_goal 1 => subst x); (on_goal 2 => clear_value x))
    | (intro x; clear_value x) | (intro _; try beta_reduce) | apply State.publish_kept | apply State.dmaWords_kept
    | apply Kept.ite | apply Goes.ite | apply Goes.next | apply Goes.after | apply Kept.foldl | apply Kept.foldlPair
    | (refine Kept.fst ‹_ = (_, _)› ?_) | split | lift_lets | (dsimp -zeta only)
    | (fail_if_no_progress apply Kept.fields) | apply Kept.tabs | apply FMap.tidy_put | apply FMap.tidy_mod
    | apply FMap.tidy_nil | apply FMap.tidy_foldl)

theorem execSubFailed_goes {r : State} {n} {s : State} (hs : Kept r s) :
    Goes r (execSubFailed n s) := by
  unfold execSubFailed
  repeat' (with_reducible first
    | assumption | (intro _; try beta_reduce) | apply Goes.next | apply State.modSub_kept | apply State.evt_kept
    | apply State.setSub_kept | apply Kept.ite)

theorem State.subNew_kept {r : State} {n} {m} {s : State} (hs : Kept r s) :
    Kept r (State.subNew n m s) := by
  unfold State.subNew
  repeat' (with_reducible first
    | assumption | apply State.setFld_kept | apply State.setSub_kept | apply State.subRenew_kept
    | apply State.publishSet_kept | apply State.modSub_kept)

theorem State.gooseExpiry_kept {r : State} {n} {s : State} (hs : Kept r s) :
    Kept r (State.gooseExpiry n s) := by
  unfold State.gooseExpiry
  repeat' (with_reducible first
    | assumption | (intro _; try beta_reduce) | apply State.inc_kept | apply State.evt_kept | apply State.setSub_kept
    | apply State.publishSet_kept | apply Kept.ite | split)

theorem State.subStep16_kept {r : State} {n} {m} {s : State} (hs : Kept r s) :
    Kept r (State.subStep16 n m s) := by
  unfold State.subStep16
  repeat' (with_reducible first
    | assumption | (intro _; try beta_reduce) | apply State.when_kept | apply State.evt_kept
    | apply State.subRenew_kept | apply State.subReject_kept | apply State.subNew_kept | apply State.incBy_kept
    | apply Kept.ite)

theorem execSubFailedExit_goes {r : State} {n} {s : State} (hs : Kept r s) :
    Goes r (execSubFailedExit n s) := by
  unfold execSubFailedExit
  repeat' (with_reducible first
    | assumption | (intro _; try beta_reduce) | apply Goes.next | apply State.subNew_kept | apply Kept.ite | split)

theorem State.gooseReceive_kept {r : State} {n} {f} {s : State} (hs : Kept r s) :
    Kept r (State.gooseReceive n f s) := by
  unfold State.gooseReceive
  repeat' (with_reducible first
    | assumption | (intro _; try beta_reduce) | apply State.inc_kept | apply State.subReject_kept
    | apply State.evt_kept | apply State.modSub_kept | apply State.subStep16_kept | apply State.subNew_kept
    | apply Kept.ite | (refine Kept.fst ‹_ = (_, _)› ?_) | split | (dsimp only))

theorem execGooseExpiry_goes {r : State} {n} {s : State} (hs : Kept r s) :
    Goes r (execGooseExpiry n s) := by
  unfold execGooseExpiry
  repeat' (with_reducible first | assumption | apply Goes.next | apply State.gooseExpiry_kept)

theorem execGooseFrameReceive_goes {r : State} {n} {f} {s : State} (hs : Kept r s) :
    Goes r (execGooseFrameReceive n f s) := by
  unfold execGooseFrameReceive
  repeat' (with_reducible first | assumption | apply Goes.next | apply State.gooseReceive_kept)

theorem execSubCfgWrite_goes {r : State} {w} {n} {value} {s : State} (hs : Kept r s) :
    Goes r (execSubCfgWrite w n value s) := by
  unfold execSubCfgWrite
  repeat' (with_reducible first | assumption | apply Goes.next | apply State.gateSup_kept | apply State.subCfg_kept)

theorem State.portWrite_kept {r : State} {w} {v} {s : State} (hs : Kept r s) :
    Kept r (State.portWrite w v s) := by
  unfold State.portWrite
  repeat' (with_reducible first
    | assumption | (intro _; try beta_reduce) | apply State.gateGrant_kept | apply State.setReg_kept
    | apply State.putPoint_kept | apply State.inc_kept | apply State.each_kept | apply State.watchEval_kept
    | apply Kept.ite)

theorem execPortWrite_goes {r : State} {w} {value} {s : State} (hs : Kept r s) :
    Goes r (execPortWrite w value s) := by
  unfold execPortWrite
  repeat' (with_reducible first | assumption | apply Goes.next | apply State.portWrite_kept)

end Sys2Proof.Machine
end

