-- ==== Sys2Proof/Laws/KeptLge.lean ====
section
/-!
SUPPORT. What the operations of Machine/Lge.lean keep.
-/

set_option linter.all false

namespace Sys2Proof.Machine

theorem State.modProg_kept {r : State} {p} {f} {s : State} (hs : Kept r s) :
    Kept r (State.modProg p f s) := by
  unfold State.modProg
  repeat' (with_reducible first
    | assumption | (intro _; try beta_reduce) | apply Kept.ite | (refine Kept.fst ‹_ = (_, _)› ?_) | split
    | (dsimp only) | (fail_if_no_progress apply Kept.fields) | apply Kept.tabs
    | apply FMap.tidy_put | apply FMap.tidy_mod)

theorem State.showForced_kept {r : State} {p} {s : State} (hs : Kept r s) :
    Kept r (State.showForced p s) := by
  unfold State.showForced
  repeat' (with_reducible first | assumption | apply State.setFld_kept)

theorem State.pgRej_kept {r : State} {p} {s : State} (hs : Kept r s) :
    Kept r (State.pgRej p s) := by
  unfold State.pgRej
  repeat' (with_reducible first | assumption | apply State.evt_kept)

theorem State.setPg_kept {r : State} {p} {st} {s : State} (hs : Kept r s) :
    Kept r (State.setPg p st s) := by
  unfold State.setPg
  repeat' (with_reducible first
    | assumption | (intro _; try beta_reduce) | apply State.evt_kept | apply State.setFld_kept | apply Kept.ite)

theorem State.pgHold_kept {r : State} {p} {s : State} (hs : Kept r s) :
    Kept r (State.pgHold p s) := by
  unfold State.pgHold
  repeat' (with_reducible first | assumption | apply State.setPg_kept | apply State.modProg_kept)

theorem State.pgResume_kept {r : State} {p} {s : State} (hs : Kept r s) :
    Kept r (State.pgResume p s) := by
  unfold State.pgResume
  repeat' (with_reducible first
    | assumption | (intro _; try beta_reduce) | apply State.pgRej_kept | apply State.setPg_kept
    | apply State.modProg_kept | apply Kept.ite)

theorem State.pgStart_kept {r : State} {p} {warm} {s : State} (hs : Kept r s) :
    Kept r (State.pgStart p warm s) := by
  unfold State.pgStart
  repeat' (with_reducible first
    | assumption | (intro _; try beta_reduce) | apply State.pgRej_kept | apply State.when_kept | apply State.evt_kept
    | apply State.setPg_kept | apply State.modProg_kept | apply Kept.ite)

theorem State.imgWrite_kept {r : State} {p} {a} {v} {s : State} (hs : Kept r s) :
    Kept r (State.imgWrite p a v s) := by
  unfold State.imgWrite
  repeat' (with_reducible first
    | assumption | (intro _; try beta_reduce) | apply State.setReg_kept | apply State.pgRej_kept | apply Kept.ite)

theorem State.pgUnload_kept {r : State} {p} {s : State} (hs : Kept r s) :
    Kept r (State.pgUnload p s) := by
  unfold State.pgUnload
  repeat' (with_reducible first
    | assumption | (intro _; try beta_reduce) | apply State.setPg_kept | apply State.setBit_kept
    | apply State.pgRej_kept | apply Kept.ite | (refine Kept.fst ‹_ = (_, _)› ?_) | split | (dsimp only)
    | (fail_if_no_progress apply Kept.fields) | apply Kept.tabs
    | apply FMap.tidy_put)

theorem State.putInst_kept {r : State} {i} {ret} {x} {s : State} (hs : Kept r s) :
    Kept r (State.putInst i ret x s) := by
  unfold State.putInst
  repeat' (with_reducible first
    | assumption
    | (intro x; (refine Kept.cut (s := x) ?_ (fun _ => ?_)); (on_goal 1 => subst x); (on_goal 2 => clear_value x))
    | (intro x; (refine Kept.cutPair (p := x) ?_ (fun _ => ?_)); (on_goal 1 => subst x); (on_goal 2 => clear_value x))
    | (intro x; clear_value x) | (intro _; try beta_reduce) | apply State.dmaWords_kept | apply Kept.ite
    | apply Goes.ite | apply Goes.next | apply Goes.after | apply Kept.foldl | apply Kept.foldlPair
    | (refine Kept.fst ‹_ = (_, _)› ?_) | split | lift_lets | (dsimp -zeta only)
    | (fail_if_no_progress apply Kept.fields) | apply Kept.tabs | apply FMap.tidy_put | apply FMap.tidy_mod
    | apply FMap.tidy_nil | apply FMap.tidy_foldl)

theorem State.pgLoad_kept {r : State} {p} {s : State} (hs : Kept r s) :
    Kept r (State.pgLoad p s) := by
  unfold State.pgLoad
  repeat' (with_reducible first
    | assumption | (intro _; try beta_reduce) | apply State.pgRej_kept | apply State.evt_kept
    | apply State.setFld_kept | apply State.setReg_kept | apply State.setBit_kept | apply State.setPg_kept
    | apply Kept.ite | (refine Kept.fst ‹_ = (_, _)› ?_) | split | (dsimp only)
    | (fail_if_no_progress apply Kept.fields) | apply Kept.tabs
    | apply FMap.tidy_put)

theorem State.pgHoldCmd_kept {r : State} {p} {by_} {s : State} (hs : Kept r s) :
    Kept r (State.pgHoldCmd p by_ s) := by
  unfold State.pgHoldCmd
  repeat' (with_reducible first
    | assumption
    | (intro x; (refine Kept.cut (s := x) ?_ (fun _ => ?_)); (on_goal 1 => subst x); (on_goal 2 => clear_value x))
    | (intro x; (refine Kept.cutPair (p := x) ?_ (fun _ => ?_)); (on_goal 1 => subst x); (on_goal 2 => clear_value x))
    | (intro x; clear_value x) | (intro _; try beta_reduce) | apply State.pgRej_kept | apply State.modProg_kept
    | apply State.pgHold_kept | apply Kept.ite | apply Goes.ite | apply Goes.next | apply Goes.after
    | apply Kept.foldl | apply Kept.foldlPair | (refine Kept.fst ‹_ = (_, _)› ?_) | split | lift_lets
    | (dsimp -zeta only) | (fail_if_no_progress apply Kept.fields) | apply Kept.tabs | apply FMap.tidy_put
    | apply FMap.tidy_mod | apply FMap.tidy_nil | apply FMap.tidy_foldl)

theorem State.applyBatch_kept {r : State} {p} {l} {s : State} (hs : Kept r s) :
    Kept r (State.applyBatch p l s) := by
  unfold State.applyBatch
  repeat' (with_reducible first
    | assumption
    | (intro x; (refine Kept.cut (s := x) ?_ (fun _ => ?_)); (on_goal 1 => subst x); (on_goal 2 => clear_value x))
    | (intro x; (refine Kept.cutPair (p := x) ?_ (fun _ => ?_)); (on_goal 1 => subst x); (on_goal 2 => clear_value x))
    | (intro x; clear_value x) | (intro _; try beta_reduce) | apply State.each_kept | apply State.dmaWords_kept
    | apply State.inc_kept | apply State.evt_kept | apply Kept.ite | apply Goes.ite | apply Goes.next
    | apply Goes.after | apply Kept.foldl | apply Kept.foldlPair | (refine Kept.fst ‹_ = (_, _)› ?_) | split
    | lift_lets | (dsimp -zeta only) | (fail_if_no_progress apply Kept.fields) | apply Kept.tabs | apply FMap.tidy_put
    | apply FMap.tidy_mod | apply FMap.tidy_nil | apply FMap.tidy_foldl)

theorem State.setVar_kept {r : State} {p} {v} {x} {s : State} (hs : Kept r s) :
    Kept r (State.setVar p v x s) := by
  unfold State.setVar
  repeat' (with_reducible first
    | assumption
    | (intro x; (refine Kept.cut (s := x) ?_ (fun _ => ?_)); (on_goal 1 => subst x); (on_goal 2 => clear_value x))
    | (intro x; (refine Kept.cutPair (p := x) ?_ (fun _ => ?_)); (on_goal 1 => subst x); (on_goal 2 => clear_value x))
    | (intro x; clear_value x) | (intro _; try beta_reduce) | apply State.dmaWords_kept | apply Kept.ite
    | apply Goes.ite | apply Goes.next | apply Goes.after | apply Kept.foldl | apply Kept.foldlPair
    | (refine Kept.fst ‹_ = (_, _)› ?_) | split | lift_lets | (dsimp -zeta only)
    | (fail_if_no_progress apply Kept.fields) | apply Kept.tabs | apply FMap.tidy_put | apply FMap.tidy_mod
    | apply FMap.tidy_nil | apply FMap.tidy_foldl)

theorem State.pgRestart_kept {r : State} {p} {warm} {s : State} (hs : Kept r s) :
    Kept r (State.pgRestart p warm s) := by
  unfold State.pgRestart
  repeat' (with_reducible first
    | assumption
    | (intro x; (refine Kept.cut (s := x) ?_ (fun _ => ?_)); (on_goal 1 => subst x); (on_goal 2 => clear_value x))
    | (intro x; (refine Kept.cutPair (p := x) ?_ (fun _ => ?_)); (on_goal 1 => subst x); (on_goal 2 => clear_value x))
    | (intro x; clear_value x) | (intro _; try beta_reduce) | apply State.each_kept | apply State.setVar_kept
    | apply State.dmaWords_kept | apply State.setBit_kept | apply State.modProg_kept | apply Kept.ite | apply Goes.ite
    | apply Goes.next | apply Goes.after | apply Kept.foldl | apply Kept.foldlPair | (refine Kept.fst ‹_ = (_, _)› ?_)
    | split | lift_lets | (dsimp -zeta only) | (fail_if_no_progress apply Kept.fields) | apply Kept.tabs
    | apply FMap.tidy_put | apply FMap.tidy_mod | apply FMap.tidy_nil | apply FMap.tidy_foldl)

theorem State.forceVar_kept {r : State} {p} {f} {v} {s : State} (hs : Kept r s) :
    Kept r (State.forceVar p f v s) := by
  unfold State.forceVar
  repeat' (with_reducible first
    | assumption | (intro _; try beta_reduce) | apply State.evt_kept | apply State.ledger_kept
    | apply State.showForced_kept | apply State.setReg_kept | apply Kept.ite)

theorem State.applyForces_kept {r : State} {p} {s : State} (hs : Kept r s) :
    Kept r (State.applyForces p s) := by
  unfold State.applyForces
  repeat' (with_reducible first
    | assumption | (intro _; try beta_reduce) | apply State.modProg_kept | apply State.each_kept
    | apply State.setVar_kept | apply Kept.ite | split)

theorem State.pgApply_kept {r : State} {p} {n} {by_} {s : State} (hs : Kept r s) :
    Kept r (State.pgApply p n by_ s) := by
  unfold State.pgApply
  repeat' (with_reducible first
    | assumption
    | (intro x; (refine Kept.cut (s := x) ?_ (fun _ => ?_)); (on_goal 1 => subst x); (on_goal 2 => clear_value x))
    | (intro x; (refine Kept.cutPair (p := x) ?_ (fun _ => ?_)); (on_goal 1 => subst x); (on_goal 2 => clear_value x))
    | (intro x; clear_value x) | (intro _; try beta_reduce) | apply State.pgRej_kept | apply State.evt_kept
    | apply State.modProg_kept | apply State.applyBatch_kept | apply Kept.ite | apply Goes.ite | apply Goes.next
    | apply Goes.after | apply Kept.foldl | apply Kept.foldlPair | (refine Kept.fst ‹_ = (_, _)› ?_) | split
    | lift_lets | (dsimp -zeta only) | (fail_if_no_progress apply Kept.fields) | apply Kept.tabs | apply FMap.tidy_put
    | apply FMap.tidy_mod | apply FMap.tidy_nil | apply FMap.tidy_foldl)

theorem State.runInst_kept {r : State} {p} {g} {delta} {restart} {e} {s : State} (hs : Kept r s) :
    Kept r (State.runInst p g delta restart e s) := by
  unfold State.runInst
  repeat' (with_reducible first
    | assumption | (intro _; try beta_reduce) | apply State.putInst_kept | apply State.setVar_kept
    | apply State.when_kept | apply State.evt_kept | apply Kept.ite)

theorem State.outWrite_kept {r : State} {p} {pt} {ty} {x} {sec} {ns} {s : State} (hs : Kept r s) :
    Kept r (State.outWrite p pt ty x sec ns s).1 := by
  unfold State.outWrite
  repeat' (with_reducible first
    | assumption | (intro _; try beta_reduce) | apply State.enginePoint_kept | apply Kept.ite | split)

theorem State.safeOutputs_kept {r : State} {p} {all} {s : State} (hs : Kept r s) :
    Kept r (State.safeOutputs p all s) := by
  unfold State.safeOutputs
  repeat' (with_reducible first
    | assumption | (intro _; try beta_reduce) | apply State.each_kept | apply State.outWrite_kept | apply Kept.ite
    | split)

theorem State.lgeOutputs_kept {r : State} {p} {g} {sec} {ns} {s : State} (hs : Kept r s) :
    Kept r (State.lgeOutputs p g sec ns s) := by
  unfold State.lgeOutputs
  repeat' (with_reducible first
    | assumption | (intro _; try beta_reduce) | apply State.each_kept | apply State.outWrite_kept
    | apply State.modProg_kept | apply State.setPg_kept | apply State.evt_kept | apply Kept.ite)

theorem State.pgStop_kept {r : State} {p} {s : State} (hs : Kept r s) :
    Kept r (State.pgStop p s) := by
  unfold State.pgStop
  repeat' (with_reducible first | assumption | apply State.setPg_kept | apply State.safeOutputs_kept)

theorem State.scanOverrun_kept {r : State} {p} {s : State} (hs : Kept r s) :
    Kept r (State.scanOverrun p s) := by
  unfold State.scanOverrun
  repeat' (with_reducible first
    | assumption | (intro _; try beta_reduce) | apply State.modProg_kept | apply State.setBit_kept
    | apply State.setPg_kept | apply State.safeOutputs_kept | apply State.ledger_kept | apply State.inc_kept
    | apply State.evt_kept | apply Kept.ite | split)

theorem State.pgStopCmd_kept {r : State} {p} {by_} {s : State} (hs : Kept r s) :
    Kept r (State.pgStopCmd p by_ s) := by
  unfold State.pgStopCmd
  repeat' (with_reducible first
    | assumption
    | (intro x; (refine Kept.cut (s := x) ?_ (fun _ => ?_)); (on_goal 1 => subst x); (on_goal 2 => clear_value x))
    | (intro x; (refine Kept.cutPair (p := x) ?_ (fun _ => ?_)); (on_goal 1 => subst x); (on_goal 2 => clear_value x))
    | (intro x; clear_value x) | (intro _; try beta_reduce) | apply State.modProg_kept | apply State.pgStop_kept
    | apply State.pgRej_kept | apply Kept.ite | apply Goes.ite | apply Goes.next | apply Goes.after | apply Kept.foldl
    | apply Kept.foldlPair | (refine Kept.fst ‹_ = (_, _)› ?_) | split | lift_lets | (dsimp -zeta only)
    | (fail_if_no_progress apply Kept.fields) | apply Kept.tabs | apply FMap.tidy_put | apply FMap.tidy_mod
    | apply FMap.tidy_nil | apply FMap.tidy_foldl)

theorem State.holdTimeout_kept {r : State} {p} {s : State} (hs : Kept r s) :
    Kept r (State.holdTimeout p s) := by
  unfold State.holdTimeout
  repeat' (with_reducible first
    | assumption | (intro _; try beta_reduce) | apply State.evt_kept | apply State.setPg_kept
    | apply State.safeOutputs_kept | apply Kept.ite | split)

theorem State.settle_kept {r : State} {p} {s : State} (hs : Kept r s) :
    Kept r (State.settle p s) := by
  unfold State.settle
  repeat' (with_reducible first
    | assumption | (intro _; try beta_reduce) | apply State.setReg_kept | apply State.setBit_kept
    | apply State.modProg_kept | apply State.inc_kept | apply State.pgStop_kept | apply State.pgHold_kept
    | apply Kept.ite | split)

theorem execScanOverrun_goes {r : State} {p} {s : State} (hs : Kept r s) :
    Goes r (execScanOverrun p s) := by
  unfold execScanOverrun
  repeat' (with_reducible first | assumption | apply Goes.next | apply State.scanOverrun_kept)

theorem execHoldTimeout_goes {r : State} {p} {s : State} (hs : Kept r s) :
    Goes r (execHoldTimeout p s) := by
  unfold execHoldTimeout
  repeat' (with_reducible first | assumption | apply Goes.next | apply State.holdTimeout_kept)

theorem State.lgeWatchdog_kept {r : State} {s : State} (hs : Kept r s) :
    Kept r (State.lgeWatchdog s) := by
  unfold State.lgeWatchdog
  repeat' (with_reducible first
    | assumption
    | (intro x; (refine Kept.cut (s := x) ?_ (fun _ => ?_)); (on_goal 1 => subst x); (on_goal 2 => clear_value x))
    | (intro x; (refine Kept.cutPair (p := x) ?_ (fun _ => ?_)); (on_goal 1 => subst x); (on_goal 2 => clear_value x))
    | (intro x; clear_value x) | (intro _; try beta_reduce) | apply State.each_kept | apply State.setPg_kept
    | apply State.setBit_kept | apply State.when_kept | apply State.safeOutputs_kept | apply State.blockFault_kept
    | apply State.ledger_kept | apply State.evt_kept | apply Kept.ite | apply Goes.ite | apply Goes.next
    | apply Goes.after | apply Kept.foldl | apply Kept.foldlPair | (refine Kept.fst ‹_ = (_, _)› ?_) | split
    | lift_lets | (dsimp -zeta only) | (fail_if_no_progress apply Kept.fields) | apply Kept.tabs | apply FMap.tidy_put
    | apply FMap.tidy_mod | apply FMap.tidy_nil | apply FMap.tidy_foldl)

theorem execLgeWatchdog_goes {r : State} {s : State} (hs : Kept r s) :
    Goes r (execLgeWatchdog s) := by
  unfold execLgeWatchdog
  repeat' (with_reducible first | assumption | apply Goes.next | apply State.lgeWatchdog_kept)

theorem State.lgeInputsIn_kept {r : State} {p} {g} {bad} {s : State} (hs : Kept r s) :
    Kept r (State.lgeInputsIn p g bad s) := by
  unfold State.lgeInputsIn
  repeat' (with_reducible first
    | assumption
    | (intro x; (refine Kept.cut (s := x) ?_ (fun _ => ?_)); (on_goal 1 => subst x); (on_goal 2 => clear_value x))
    | (intro x; (refine Kept.cutPair (p := x) ?_ (fun _ => ?_)); (on_goal 1 => subst x); (on_goal 2 => clear_value x))
    | (intro x; clear_value x) | (intro _; try beta_reduce) | apply State.each_kept | apply State.setVar_kept
    | apply State.blockFault_kept | apply State.evt_kept | apply State.incBy_kept | apply Kept.ite | apply Goes.ite
    | apply Goes.next | apply Goes.after | apply Kept.foldl | apply Kept.foldlPair | (refine Kept.fst ‹_ = (_, _)› ?_)
    | split | lift_lets | (dsimp -zeta only) | (fail_if_no_progress apply Kept.fields) | apply Kept.tabs
    | apply FMap.tidy_put | apply FMap.tidy_mod | apply FMap.tidy_nil | apply FMap.tidy_foldl)

theorem State.pgCmd_kept {r : State} {w} {p} {f} {s : State} (hf : ∀ y4, Kept r y4 → Kept r (f y4)) (hs : Kept r s) :
    Kept r (State.pgCmd w p f s) := by
  unfold State.pgCmd
  repeat' (with_reducible first
    | assumption | (intro _; try beta_reduce) | apply State.gateGrant_kept | apply State.settle_kept | apply hf)

theorem execProgramHold_goes {r : State} {w} {p} {s : State} (hs : Kept r s) :
    Goes r (execProgramHold w p s) := by
  unfold execProgramHold
  repeat' (with_reducible first
    | assumption
    | (intro x; (refine Kept.cut (s := x) ?_ (fun _ => ?_)); (on_goal 1 => subst x); (on_goal 2 => clear_value x))
    | (intro x; (refine Kept.cutPair (p := x) ?_ (fun _ => ?_)); (on_goal 1 => subst x); (on_goal 2 => clear_value x))
    | (intro x; clear_value x) | (intro _; try beta_reduce) | apply State.pgCmd_kept | apply State.pgHoldCmd_kept
    | apply Kept.ite | apply Goes.ite | apply Goes.next | apply Goes.after | apply Kept.foldl | apply Kept.foldlPair
    | (refine Kept.fst ‹_ = (_, _)› ?_) | split | lift_lets | (dsimp -zeta only)
    | (fail_if_no_progress apply Kept.fields) | apply Kept.tabs | apply FMap.tidy_put | apply FMap.tidy_mod
    | apply FMap.tidy_nil | apply FMap.tidy_foldl)

theorem execStartWarm_goes {r : State} {w} {p} {s : State} (hs : Kept r s) :
    Goes r (execStartWarm w p s) := by
  unfold execStartWarm
  repeat' (with_reducible first | assumption | apply Goes.next | apply State.pgCmd_kept | apply State.pgStart_kept)

theorem execProgramStop_goes {r : State} {w} {p} {s : State} (hs : Kept r s) :
    Goes r (execProgramStop w p s) := by
  unfold execProgramStop
  repeat' (with_reducible first
    | assumption
    | (intro x; (refine Kept.cut (s := x) ?_ (fun _ => ?_)); (on_goal 1 => subst x); (on_goal 2 => clear_value x))
    | (intro x; (refine Kept.cutPair (p := x) ?_ (fun _ => ?_)); (on_goal 1 => subst x); (on_goal 2 => clear_value x))
    | (intro x; clear_value x) | (intro _; try beta_reduce) | apply State.pgCmd_kept | apply State.pgStopCmd_kept
    | apply Kept.ite | apply Goes.ite | apply Goes.next | apply Goes.after | apply Kept.foldl | apply Kept.foldlPair
    | (refine Kept.fst ‹_ = (_, _)› ?_) | split | lift_lets | (dsimp -zeta only)
    | (fail_if_no_progress apply Kept.fields) | apply Kept.tabs | apply FMap.tidy_put | apply FMap.tidy_mod
    | apply FMap.tidy_nil | apply FMap.tidy_foldl)

theorem State.scanBody_kept {r : State} {p} {n} {bad} {s : State} (hs : Kept r s) :
    Kept r (State.scanBody p n bad s) := by
  unfold State.scanBody
  repeat' (with_reducible first
    | assumption | (intro _; try beta_reduce) | apply State.pgRestart_kept | apply State.applyBatch_kept
    | apply State.applyForces_kept | apply State.modProg_kept | apply State.lgeInputsIn_kept | apply State.each_kept
    | apply State.runInst_kept | apply Kept.ite | split)

theorem execProgramLoad_goes {r : State} {w} {p} {s : State} (hs : Kept r s) :
    Goes r (execProgramLoad w p s) := by
  unfold execProgramLoad
  repeat' (with_reducible first | assumption | apply Goes.next | apply State.pgCmd_kept | apply State.pgLoad_kept)

theorem execStartCold_goes {r : State} {w} {p} {s : State} (hs : Kept r s) :
    Goes r (execStartCold w p s) := by
  unfold execStartCold
  repeat' (with_reducible first | assumption | apply Goes.next | apply State.pgCmd_kept | apply State.pgStart_kept)

theorem execProgramResume_goes {r : State} {w} {p} {s : State} (hs : Kept r s) :
    Goes r (execProgramResume w p s) := by
  unfold execProgramResume
  repeat' (with_reducible first | assumption | apply Goes.next | apply State.pgCmd_kept | apply State.pgResume_kept)

theorem execApply_goes {r : State} {w} {p} {n} {s : State} (hs : Kept r s) :
    Goes r (execApply w p n s) := by
  unfold execApply
  repeat' (with_reducible first
    | assumption
    | (intro x; (refine Kept.cut (s := x) ?_ (fun _ => ?_)); (on_goal 1 => subst x); (on_goal 2 => clear_value x))
    | (intro x; (refine Kept.cutPair (p := x) ?_ (fun _ => ?_)); (on_goal 1 => subst x); (on_goal 2 => clear_value x))
    | (intro x; clear_value x) | (intro _; try beta_reduce) | apply State.pgCmd_kept | apply State.pgApply_kept
    | apply Kept.ite | apply Goes.ite | apply Goes.next | apply Goes.after | apply Kept.foldl | apply Kept.foldlPair
    | (refine Kept.fst ‹_ = (_, _)› ?_) | split | lift_lets | (dsimp -zeta only)
    | (fail_if_no_progress apply Kept.fields) | apply Kept.tabs | apply FMap.tidy_put | apply FMap.tidy_mod
    | apply FMap.tidy_nil | apply FMap.tidy_foldl)

theorem execForceWrite_goes {r : State} {w} {p} {f} {isVal} {value} {s : State} (hs : Kept r s) :
    Goes r (execForceWrite w p f isVal value s) := by
  unfold execForceWrite
  repeat' (with_reducible first
    | assumption | (intro _; try beta_reduce) | apply Goes.next | apply State.gateGrant_kept | apply State.setReg_kept
    | apply State.forceVar_kept | apply Kept.ite)

theorem execProgramUnload_goes {r : State} {w} {p} {s : State} (hs : Kept r s) :
    Goes r (execProgramUnload w p s) := by
  unfold execProgramUnload
  repeat' (with_reducible first | assumption | apply Goes.next | apply State.pgCmd_kept | apply State.pgUnload_kept)

theorem State.scan_kept {r : State} {p} {dur} {upto} {bad} {s : State} (hs : Kept r s) :
    Kept r (State.scan p dur upto bad s) := by
  unfold State.scan
  repeat' (with_reducible first
    | assumption | (intro _; try beta_reduce) | apply State.settle_kept | apply State.evt_kept | apply State.inc_kept
    | apply State.scanBody_kept | apply State.lgeOutputs_kept | apply State.modProg_kept | apply State.setBit_kept
    | apply Kept.ite | split)

theorem execScan_goes {r : State} {p} {dur} {upto} {bad} {s : State} (hs : Kept r s) :
    Goes r (execScan p dur upto bad s) := by
  unfold execScan
  repeat' (with_reducible first | assumption | apply Goes.next | apply State.scan_kept)

end Sys2Proof.Machine
end

