-- ==== Sys2Proof/Laws/KeptDze.lean ====
section
/-!
SUPPORT. What the operations of Machine/Dze.lean keep.
-/

set_option linter.all false

namespace Sys2Proof.Machine

theorem State.modDze_kept {r : State} {z} {f} {s : State} (hs : Kept r s) :
    Kept r (State.modDze z f s) := by
  unfold State.modDze
  repeat' (with_reducible first
    | assumption | (intro _; try beta_reduce) | apply Kept.ite | (refine Kept.fst ‹_ = (_, _)› ?_) | split
    | (dsimp only) | (fail_if_no_progress apply Kept.fields) | apply Kept.tabs
    | apply FMap.tidy_put | apply FMap.tidy_mod)

theorem State.zTurnWin_kept {r : State} {z} {old : State} {s : State} (hs : Kept r s) :
    Kept r (State.zTurnWin z old s) := by
  unfold State.zTurnWin
  repeat' (with_reducible first
    | assumption
    | (intro x; (refine Kept.cut (s := x) ?_ (fun _ => ?_)); (on_goal 1 => subst x); (on_goal 2 => clear_value x))
    | (intro x; (refine Kept.cutPair (p := x) ?_ (fun _ => ?_)); (on_goal 1 => subst x); (on_goal 2 => clear_value x))
    | (intro x; clear_value x) | (intro _; try beta_reduce) | apply State.modDze_kept | apply State.setBit_kept
    | apply Kept.ite | apply Goes.ite | apply Goes.next | apply Goes.after | apply Kept.foldl | apply Kept.foldlPair
    | (refine Kept.fst ‹_ = (_, _)› ?_) | split | lift_lets | (dsimp -zeta only)
    | (fail_if_no_progress apply Kept.fields) | apply Kept.tabs | apply FMap.tidy_put | apply FMap.tidy_mod
    | apply FMap.tidy_nil | apply FMap.tidy_foldl)

theorem State.zWrite_kept {r : State} {z} {l} {parts} {held} {s : State} (hs : Kept r s) :
    Kept r (State.zWrite z l parts held s) := by
  unfold State.zWrite
  repeat' (with_reducible first
    | assumption
    | (intro x; (refine Kept.cut (s := x) ?_ (fun _ => ?_)); (on_goal 1 => subst x); (on_goal 2 => clear_value x))
    | (intro x; (refine Kept.cutPair (p := x) ?_ (fun _ => ?_)); (on_goal 1 => subst x); (on_goal 2 => clear_value x))
    | (intro x; clear_value x) | (intro _; try beta_reduce) | apply State.modDze_kept | apply State.stWords_kept
    | apply State.setBit_kept | apply State.setFld_kept | apply State.when_kept | apply State.evt_kept
    | apply State.engineMark_kept | apply Kept.ite | apply Goes.ite | apply Goes.next | apply Goes.after
    | apply Kept.foldl | apply Kept.foldlPair | (refine Kept.fst ‹_ = (_, _)› ?_) | split | lift_lets
    | (dsimp -zeta only) | (fail_if_no_progress apply Kept.fields) | apply Kept.tabs | apply FMap.tidy_put
    | apply FMap.tidy_mod | apply FMap.tidy_nil | apply FMap.tidy_foldl)

theorem State.zRecord_kept {r : State} {z} {l} {parts} {held} {s : State} (hs : Kept r s) :
    Kept r (State.zRecord z l parts held s) := by
  unfold State.zRecord
  repeat' (with_reducible first
    | assumption
    | (intro x; (refine Kept.cut (s := x) ?_ (fun _ => ?_)); (on_goal 1 => subst x); (on_goal 2 => clear_value x))
    | (intro x; (refine Kept.cutPair (p := x) ?_ (fun _ => ?_)); (on_goal 1 => subst x); (on_goal 2 => clear_value x))
    | (intro x; clear_value x) | (intro _; try beta_reduce) | apply State.onPoint_kept | apply State.zTurnWin_kept
    | apply State.zWrite_kept | apply Kept.ite | apply Goes.ite | apply Goes.next | apply Goes.after
    | apply Kept.foldl | apply Kept.foldlPair | (refine Kept.fst ‹_ = (_, _)› ?_) | split | lift_lets
    | (dsimp -zeta only) | (fail_if_no_progress apply Kept.fields) | apply Kept.tabs | apply FMap.tidy_put
    | apply FMap.tidy_mod | apply FMap.tidy_nil | apply FMap.tidy_foldl)

theorem State.zSettle_kept {r : State} {z} {s : State} (hs : Kept r s) :
    Kept r (State.zSettle z s) := by
  unfold State.zSettle
  repeat' (with_reducible first
    | assumption | (intro _; try beta_reduce) | apply State.when_kept | apply State.inc_kept
    | apply State.zRecord_kept | apply State.modDze_kept | apply Kept.ite | split)

theorem State.zSettleAll_kept {r : State} {z n} {s : State} (hs : Kept r s) : Kept r (State.zSettleAll z n s) := by
  induction n generalizing s with
  | zero => exact hs
  | succ n ih =>
    unfold State.zSettleAll
    split
    · exact hs
    · exact Kept.ite (ih (State.zSettle_kept hs)) hs

theorem State.zRestartDet_kept {r : State} {z} {s : State} (hs : Kept r s) :
    Kept r (State.zRestartDet z s) := by
  unfold State.zRestartDet
  repeat' (with_reducible first | assumption | apply State.modDze_kept)

theorem State.zRestart_kept {r : State} {z} {s : State} (hs : Kept r s) :
    Kept r (State.zRestart z s) := by
  unfold State.zRestart
  repeat' (with_reducible first | assumption | apply State.modDze_kept)

theorem State.zReset_kept {r : State} {z} {s : State} (hs : Kept r s) :
    Kept r (State.zReset z s) := by
  unfold State.zReset
  repeat' (with_reducible first
    | assumption
    | (intro x; (refine Kept.cut (s := x) ?_ (fun _ => ?_)); (on_goal 1 => subst x); (on_goal 2 => clear_value x))
    | (intro x; (refine Kept.cutPair (p := x) ?_ (fun _ => ?_)); (on_goal 1 => subst x); (on_goal 2 => clear_value x))
    | (intro x; clear_value x) | (intro _; try beta_reduce) | apply State.setPriors_kept | apply State.evt_kept
    | apply State.setBit_kept | apply Kept.ite | apply Goes.ite | apply Goes.next | apply Goes.after
    | apply Kept.foldl | apply Kept.foldlPair | (refine Kept.fst ‹_ = (_, _)› ?_) | split | lift_lets
    | (dsimp -zeta only) | (fail_if_no_progress apply Kept.fields) | apply Kept.tabs | apply FMap.tidy_put
    | apply FMap.tidy_mod | apply FMap.tidy_nil | apply FMap.tidy_foldl)

theorem State.zContribution_kept {r : State} {z} {c} {s : State} (hs : Kept r s) :
    Kept r (State.zContribution z c s) := by
  unfold State.zContribution
  repeat' (with_reducible first
    | assumption | (intro _; try beta_reduce) | apply State.evt_kept | apply State.zSettleAll_kept
    | apply State.modDze_kept | apply Kept.ite)

theorem State.zCheck_kept {r : State} {z} {s : State} (hs : Kept r s) :
    Kept r (State.zCheck z s) := by
  unfold State.zCheck
  repeat' (with_reducible first | assumption | apply State.setBit_kept | apply State.when_kept | apply State.evt_kept)

theorem State.zTurnDet_kept {r : State} {z} {old : State} {s : State} (hs : Kept r s) :
    Kept r (State.zTurnDet z old s) := by
  unfold State.zTurnDet
  repeat' (with_reducible first
    | assumption
    | (intro x; (refine Kept.cut (s := x) ?_ (fun _ => ?_)); (on_goal 1 => subst x); (on_goal 2 => clear_value x))
    | (intro x; (refine Kept.cutPair (p := x) ?_ (fun _ => ?_)); (on_goal 1 => subst x); (on_goal 2 => clear_value x))
    | (intro x; clear_value x) | (intro _; try beta_reduce) | apply State.zRestartDet_kept | apply Kept.ite
    | apply Goes.ite | apply Goes.next | apply Goes.after | apply Kept.foldl | apply Kept.foldlPair
    | (refine Kept.fst ‹_ = (_, _)› ?_) | split | lift_lets | (dsimp -zeta only)
    | (fail_if_no_progress apply Kept.fields) | apply Kept.tabs | apply FMap.tidy_put | apply FMap.tidy_mod
    | apply FMap.tidy_nil | apply FMap.tidy_foldl)

theorem State.zChannel_kept {r : State} {n} {s : State} (hs : Kept r s) :
    Kept r (State.zChannel n s) := by
  unfold State.zChannel
  repeat' (with_reducible first | assumption | apply State.each_kept | apply State.zCheck_kept)

theorem State.zActivated_kept {r : State} {x} {z} {s : State} (hs : Kept r s) :
    Kept r (State.zActivated x z s) := by
  unfold State.zActivated
  repeat' (with_reducible first
    | assumption
    | (intro x; (refine Kept.cut (s := x) ?_ (fun _ => ?_)); (on_goal 1 => subst x); (on_goal 2 => clear_value x))
    | (intro x; (refine Kept.cutPair (p := x) ?_ (fun _ => ?_)); (on_goal 1 => subst x); (on_goal 2 => clear_value x))
    | (intro x; clear_value x) | (intro _; try beta_reduce) | apply State.setWords_kept | apply State.turn_kept
    | apply State.zTurnWin_kept | apply State.zTurnDet_kept | apply State.zCheck_kept | apply Kept.ite
    | apply Goes.ite | apply Goes.next | apply Goes.after | apply Kept.foldl | apply Kept.foldlPair
    | (refine Kept.fst ‹_ = (_, _)› ?_) | split | lift_lets | (dsimp -zeta only)
    | (fail_if_no_progress apply Kept.fields) | apply Kept.tabs | apply FMap.tidy_put | apply FMap.tidy_mod
    | apply FMap.tidy_nil | apply FMap.tidy_foldl)

theorem State.zMissing_kept {r : State} {z} {s : State} (hs : Kept r s) :
    Kept r (State.zMissing z s) := by
  unfold State.zMissing
  repeat' (with_reducible first
    | assumption | (intro _; try beta_reduce) | apply State.zSettleAll_kept | apply State.zSettle_kept
    | apply Kept.ite | split)

theorem execContributionMissing_goes {r : State} {z} {s : State} (hs : Kept r s) :
    Goes r (execContributionMissing z s) := by
  unfold execContributionMissing
  repeat' (with_reducible first | assumption | apply Goes.next | apply State.zMissing_kept)

theorem State.zMode_kept {r : State} {z} {lcl} {s : State} (hs : Kept r s) :
    Kept r (State.zMode z lcl s) := by
  unfold State.zMode
  repeat' (with_reducible first
    | assumption | (intro _; try beta_reduce) | apply State.each_kept | apply State.zSettle_kept
    | apply State.evt_kept | apply State.setBit_kept | apply State.zRestart_kept | apply State.modDze_kept)

theorem State.zToSpan_kept {r : State} {z} {s : State} (hs : Kept r s) :
    Kept r (State.zToSpan z s) := by
  unfold State.zToSpan
  repeat' (with_reducible first
    | assumption | (intro _; try beta_reduce) | apply State.zMode_kept | apply Kept.ite)

theorem State.zToLocal_kept {r : State} {z} {s : State} (hs : Kept r s) :
    Kept r (State.zToLocal z s) := by
  unfold State.zToLocal
  repeat' (with_reducible first
    | assumption | (intro _; try beta_reduce) | apply State.zMode_kept | apply Kept.ite)

theorem execZoneToLocal_goes {r : State} {z} {s : State} (hs : Kept r s) :
    Goes r (execZoneToLocal z s) := by
  unfold execZoneToLocal
  repeat' (with_reducible first | assumption | apply Goes.next | apply State.zToLocal_kept)

theorem execZoneToSpan_goes {r : State} {z} {s : State} (hs : Kept r s) :
    Goes r (execZoneToSpan z s) := by
  unfold execZoneToSpan
  repeat' (with_reducible first | assumption | apply Goes.next | apply State.zToSpan_kept)

theorem State.zSend_kept {r : State} {z} {l} {s : State} (hs : Kept r s) :
    Kept r (State.zSend z l s) := by
  unfold State.zSend
  repeat' (with_reducible first
    | assumption | (intro _; try beta_reduce) | apply State.casSend_kept | apply Kept.ite)

theorem State.zUnit_kept {r : State} {cl} {dual} {z} {s : State} (hs : Kept r s) :
    Kept r (State.zUnit cl dual z s) := by
  unfold State.zUnit
  repeat' (with_reducible first
    | assumption
    | (intro x; (refine Kept.cut (s := x) ?_ (fun _ => ?_)); (on_goal 1 => subst x); (on_goal 2 => clear_value x))
    | (intro x; (refine Kept.cutPair (p := x) ?_ (fun _ => ?_)); (on_goal 1 => subst x); (on_goal 2 => clear_value x))
    | (intro x; clear_value x) | (intro _; try beta_reduce) | apply State.zRestartDet_kept | apply State.modDze_kept
    | apply State.when_kept | apply State.evt_kept | apply State.blockFault_kept | apply State.inc_kept
    | apply State.zRecord_kept | apply State.zSettleAll_kept | apply State.zSend_kept | apply Kept.ite
    | apply Goes.ite | apply Goes.next | apply Goes.after | apply Kept.foldl | apply Kept.foldlPair
    | (refine Kept.fst ‹_ = (_, _)› ?_) | split | lift_lets | (dsimp -zeta only)
    | (fail_if_no_progress apply Kept.fields) | apply Kept.tabs | apply FMap.tidy_put | apply FMap.tidy_mod
    | apply FMap.tidy_nil | apply FMap.tidy_foldl)

theorem State.dzeWork_kept {r : State} {r0} {dual} {s : State} (hs : Kept r s) :
    Kept r (State.dzeWork r0 dual s) := by
  unfold State.dzeWork
  repeat' (with_reducible first
    | assumption
    | (intro x; (refine Kept.cut (s := x) ?_ (fun _ => ?_)); (on_goal 1 => subst x); (on_goal 2 => clear_value x))
    | (intro x; (refine Kept.cutPair (p := x) ?_ (fun _ => ?_)); (on_goal 1 => subst x); (on_goal 2 => clear_value x))
    | (intro x; clear_value x) | (intro _; try beta_reduce) | apply State.each_kept | apply State.settleAt_kept
    | apply State.zTurnWin_kept | apply State.onPoint_kept | apply State.zTurnDet_kept | apply State.zUnit_kept
    | apply Kept.ite | apply Goes.ite | apply Goes.next | apply Goes.after | apply Kept.foldl | apply Kept.foldlPair
    | (refine Kept.fst ‹_ = (_, _)› ?_) | split | lift_lets | (dsimp -zeta only)
    | (fail_if_no_progress apply Kept.fields) | apply Kept.tabs | apply FMap.tidy_put | apply FMap.tidy_mod
    | apply FMap.tidy_nil | apply FMap.tidy_foldl)

theorem execDzeGridWork_goes {r : State} {r0} {dual} {s : State} (hs : Kept r s) :
    Goes r (execDzeGridWork r0 dual s) := by
  unfold execDzeGridWork
  repeat' (with_reducible first | assumption | apply Goes.next | apply State.dzeWork_kept)

end Sys2Proof.Machine
end

