-- ==== Sys2Proof/Laws/KeptFdc.lean ====
section
/-!
SUPPORT. What the operations of Machine/Fdc.lean keep.
-/

set_option linter.all false

namespace Sys2Proof.Machine

theorem State.modFdc_kept {r : State} {c} {f} {s : State} (hs : Kept r s) :
    Kept r (State.modFdc c f s) := by
  unfold State.modFdc
  repeat' (with_reducible first
    | assumption | (intro _; try beta_reduce) | apply Kept.ite | (refine Kept.fst ‹_ = (_, _)› ?_) | split
    | (dsimp only) | (fail_if_no_progress apply Kept.fields) | apply Kept.tabs
    | apply FMap.tidy_put | apply FMap.tidy_mod | apply FMap.tidy_foldl | apply FMap.tidy_nil)

theorem State.fdcEnter_kept {r : State} {c} {k} {x} {s : State} (hs : Kept r s) :
    Kept r (State.fdcEnter c k x s) := by
  unfold State.fdcEnter
  repeat' (with_reducible first
    | assumption | (intro _; try beta_reduce) | apply State.stWords_kept | apply State.modFdc_kept | apply Kept.ite
    | split)

theorem State.fdcRun_kept {r : State} {c g seq n k} {x} {s : State} (hs : Kept r s) :
    Kept r (State.fdcRun c g seq n k x s).1 := by
  induction n generalizing s k x with
  | zero =>
    exact State.setFld_kept (State.inc_kept (State.modFdc_kept (State.stWords_kept hs)))
  | succ n ih =>
    unfold State.fdcRun
    have h1 : Kept r (s.fdcEnter c k x) := State.fdcEnter_kept hs
    have h2 := State.when_kept (c := (s.fdcStage c k x).2.2) (f := State.evt (FDC_CH_EVT c) 1)
      (fun y hy => State.evt_kept hy) h1
    dsimp only
    split
    · apply ih
      split
      · exact State.setBit_kept h2
      · exact h2
    · exact h2

theorem State.fdcDiscard_kept {r : State} {c} {s : State} (hs : Kept r s) :
    Kept r (State.fdcDiscard c s) := by
  unfold State.fdcDiscard
  repeat' (with_reducible first | assumption | apply State.setBit_kept | apply State.modFdc_kept)

theorem State.fdcCheck_kept {r : State} {c} {s : State} (hs : Kept r s) :
    Kept r (State.fdcCheck c s) := by
  unfold State.fdcCheck
  repeat' (with_reducible first | assumption | apply State.setBit_kept | apply State.when_kept | apply State.evt_kept)

theorem State.fdcStart_kept {r : State} {c} {s : State} (hs : Kept r s) :
    Kept r (State.fdcStart c s) := by
  unfold State.fdcStart
  repeat' (with_reducible first
    | assumption | (intro _; try beta_reduce) | apply State.each_kept | apply State.stWords_kept
    | apply State.evt_kept | apply State.setBit_kept | apply State.modFdc_kept | apply Kept.ite | split)

theorem State.fdcReset_kept {r : State} {c} {s : State} (hs : Kept r s) :
    Kept r (State.fdcReset c s) := by
  unfold State.fdcReset
  repeat' (with_reducible first
    | assumption
    | (intro x; (refine Kept.cut (s := x) ?_ (fun _ => ?_)); (on_goal 1 => subst x); (on_goal 2 => clear_value x))
    | (intro x; (refine Kept.cutPair (p := x) ?_ (fun _ => ?_)); (on_goal 1 => subst x); (on_goal 2 => clear_value x))
    | (intro x; clear_value x) | (intro _; try beta_reduce) | apply State.setPriors_kept | apply State.fdcStart_kept
    | apply State.fdcDiscard_kept | apply Kept.ite | apply Goes.ite | apply Goes.next | apply Goes.after
    | apply Kept.foldl | apply Kept.foldlPair | (refine Kept.fst ‹_ = (_, _)› ?_) | split | lift_lets
    | (dsimp -zeta only) | (fail_if_no_progress apply Kept.fields) | apply Kept.tabs | apply FMap.tidy_put
    | apply FMap.tidy_mod | apply FMap.tidy_nil | apply FMap.tidy_foldl)

theorem State.fdcChannel_kept {r : State} {n} {rings} {s : State} (hs : Kept r s) :
    Kept r (State.fdcChannel n rings s) := by
  unfold State.fdcChannel
  repeat' (with_reducible first
    | assumption | (intro _; try beta_reduce) | apply State.each_kept | apply State.fdcCheck_kept
    | apply State.fdcStart_kept | apply Kept.ite | split)

theorem State.fdcTurn_kept {r : State} {c} {old : State} {s : State} (hs : Kept r s) :
    Kept r (State.fdcTurn c old s) := by
  unfold State.fdcTurn
  repeat' (with_reducible first
    | assumption
    | (intro x; (refine Kept.cut (s := x) ?_ (fun _ => ?_)); (on_goal 1 => subst x); (on_goal 2 => clear_value x))
    | (intro x; (refine Kept.cutPair (p := x) ?_ (fun _ => ?_)); (on_goal 1 => subst x); (on_goal 2 => clear_value x))
    | (intro x; clear_value x) | (intro _; try beta_reduce) | apply State.fdcDiscard_kept | apply State.fdcStart_kept
    | apply Kept.ite | apply Goes.ite | apply Goes.next | apply Goes.after | apply Kept.foldl | apply Kept.foldlPair
    | (refine Kept.fst ‹_ = (_, _)› ?_) | split | lift_lets | (dsimp -zeta only)
    | (fail_if_no_progress apply Kept.fields) | apply Kept.tabs | apply FMap.tidy_put | apply FMap.tidy_mod
    | apply FMap.tidy_nil | apply FMap.tidy_foldl)

theorem State.fdcActivated_kept {r : State} {x} {c} {s : State} (hs : Kept r s) :
    Kept r (State.fdcActivated x c s) := by
  unfold State.fdcActivated
  repeat' (with_reducible first
    | assumption
    | (intro x; (refine Kept.cut (s := x) ?_ (fun _ => ?_)); (on_goal 1 => subst x); (on_goal 2 => clear_value x))
    | (intro x; (refine Kept.cutPair (p := x) ?_ (fun _ => ?_)); (on_goal 1 => subst x); (on_goal 2 => clear_value x))
    | (intro x; clear_value x) | (intro _; try beta_reduce) | apply State.setWords_kept | apply State.turn_kept
    | apply State.fdcTurn_kept | apply State.fdcCheck_kept | apply Kept.ite | apply Goes.ite | apply Goes.next
    | apply Goes.after | apply Kept.foldl | apply Kept.foldlPair | (refine Kept.fst ‹_ = (_, _)› ?_) | split
    | lift_lets | (dsimp -zeta only) | (fail_if_no_progress apply Kept.fields) | apply Kept.tabs | apply FMap.tidy_put
    | apply FMap.tidy_mod | apply FMap.tidy_nil | apply FMap.tidy_foldl)

theorem State.fdcChain_kept {r : State} {cl} {chk} {unc} {c} {s : State} (hs : Kept r s) :
    Kept r (State.fdcChain cl chk unc c s).1 := by
  unfold State.fdcChain
  repeat' (with_reducible first
    | assumption
    | (intro x; (refine Kept.cut (s := x) ?_ (fun _ => ?_)); (on_goal 1 => subst x); (on_goal 2 => clear_value x))
    | (intro x; (refine Kept.cutPair (p := x) ?_ (fun _ => ?_)); (on_goal 1 => subst x); (on_goal 2 => clear_value x))
    | (intro x; clear_value x) | (intro _; try beta_reduce) | apply State.fdcRun_kept | apply State.setBit_kept
    | apply State.evt_kept | apply State.inc_kept | apply State.when_kept | apply State.blockFault_kept
    | apply State.fdcStart_kept | apply Kept.ite | apply Goes.ite | apply Goes.next | apply Goes.after
    | apply Kept.foldl | apply Kept.foldlPair | (refine Kept.fst ‹_ = (_, _)› ?_) | split | lift_lets
    | (dsimp -zeta only) | (fail_if_no_progress apply Kept.fields) | apply Kept.tabs | apply FMap.tidy_put
    | apply FMap.tidy_mod | apply FMap.tidy_nil | apply FMap.tidy_foldl)

theorem State.fdcWork_kept {r : State} {r0} {chk} {unc} {s : State} (hs : Kept r s) :
    Kept r (State.fdcWork r0 chk unc s) := by
  unfold State.fdcWork
  repeat' (with_reducible first
    | assumption
    | (intro x; (refine Kept.cut (s := x) ?_ (fun _ => ?_)); (on_goal 1 => subst x); (on_goal 2 => clear_value x))
    | (intro x; (refine Kept.cutPair (p := x) ?_ (fun _ => ?_)); (on_goal 1 => subst x); (on_goal 2 => clear_value x))
    | (intro x; clear_value x) | (intro _; try beta_reduce) | apply State.onPoint_kept | apply State.fdcTurn_kept
    | apply State.fdcChain_kept | apply State.engineMark_kept | apply Kept.ite | apply Goes.ite | apply Goes.next
    | apply Goes.after | apply Kept.foldl | apply Kept.foldlPair | (refine Kept.fst ‹_ = (_, _)› ?_) | split
    | lift_lets | (dsimp -zeta only) | (fail_if_no_progress apply Kept.fields) | apply Kept.tabs | apply FMap.tidy_put
    | apply FMap.tidy_mod | apply FMap.tidy_nil | apply FMap.tidy_foldl)

theorem execFdcGridWork_goes {r : State} {r0} {residue} {uncorr} {s : State} (hs : Kept r s) :
    Goes r (execFdcGridWork r0 residue uncorr s) := by
  unfold execFdcGridWork
  repeat' (with_reducible first | assumption | apply Goes.next | apply State.fdcWork_kept)

end Sys2Proof.Machine
end

