-- ==== Sys2Proof/Laws/KeptPsu.lean ====
section
/-!
SUPPORT. What the operations of Machine/Psu.lean keep.
-/

set_option linter.all false

namespace Sys2Proof.Machine

theorem State.psuRestart_kept {r : State} {i} {s : State} (hs : Kept r s) :
    Kept r (State.psuRestart i s) := by
  unfold State.psuRestart
  repeat' (with_reducible first
    | assumption | (intro _; try beta_reduce) | apply State.evt_kept | apply State.setBit_kept | apply Kept.ite
    | (refine Kept.fst ‹_ = (_, _)› ?_) | split | (dsimp only) | (fail_if_no_progress apply Kept.fields) | apply Kept.tabs
    | apply FMap.tidy_put)

theorem State.psuReset_kept {r : State} {i} {s : State} (hs : Kept r s) :
    Kept r (State.psuReset i s) := by
  unfold State.psuReset
  repeat' (with_reducible first
    | assumption
    | (intro x; (refine Kept.cut (s := x) ?_ (fun _ => ?_)); (on_goal 1 => subst x); (on_goal 2 => clear_value x))
    | (intro x; (refine Kept.cutPair (p := x) ?_ (fun _ => ?_)); (on_goal 1 => subst x); (on_goal 2 => clear_value x))
    | (intro x; clear_value x) | (intro _; try beta_reduce) | apply State.psuRestart_kept | apply State.setPriors_kept
    | apply Kept.ite | apply Goes.ite | apply Goes.next | apply Goes.after | apply Kept.foldl | apply Kept.foldlPair
    | (refine Kept.fst ‹_ = (_, _)› ?_) | split | lift_lets | (dsimp -zeta only)
    | (fail_if_no_progress apply Kept.fields) | apply Kept.tabs | apply FMap.tidy_put | apply FMap.tidy_mod
    | apply FMap.tidy_nil | apply FMap.tidy_foldl)

theorem State.psuCheck_kept {r : State} {i} {s : State} (hs : Kept r s) :
    Kept r (State.psuCheck i s) := by
  unfold State.psuCheck
  repeat' (with_reducible first | assumption | apply State.setBit_kept | apply State.when_kept | apply State.evt_kept)

theorem State.psuTurn_kept {r : State} {i} {z1 : State} {s : State} (hs : Kept r s) :
    Kept r (State.psuTurn i z1 s) := by
  unfold State.psuTurn
  repeat' (with_reducible first
    | assumption
    | (intro x; (refine Kept.cut (s := x) ?_ (fun _ => ?_)); (on_goal 1 => subst x); (on_goal 2 => clear_value x))
    | (intro x; (refine Kept.cutPair (p := x) ?_ (fun _ => ?_)); (on_goal 1 => subst x); (on_goal 2 => clear_value x))
    | (intro x; clear_value x) | (intro _; try beta_reduce) | apply State.psuRestart_kept | apply Kept.ite
    | apply Goes.ite | apply Goes.next | apply Goes.after | apply Kept.foldl | apply Kept.foldlPair
    | (refine Kept.fst ‹_ = (_, _)› ?_) | split | lift_lets | (dsimp -zeta only)
    | (fail_if_no_progress apply Kept.fields) | apply Kept.tabs | apply FMap.tidy_put | apply FMap.tidy_mod
    | apply FMap.tidy_nil | apply FMap.tidy_foldl)

theorem State.psuActivated_kept {r : State} {x} {i} {s : State} (hs : Kept r s) :
    Kept r (State.psuActivated x i s) := by
  unfold State.psuActivated
  repeat' (with_reducible first
    | assumption
    | (intro x; (refine Kept.cut (s := x) ?_ (fun _ => ?_)); (on_goal 1 => subst x); (on_goal 2 => clear_value x))
    | (intro x; (refine Kept.cutPair (p := x) ?_ (fun _ => ?_)); (on_goal 1 => subst x); (on_goal 2 => clear_value x))
    | (intro x; clear_value x) | (intro _; try beta_reduce) | apply State.setWords_kept | apply State.turn_kept
    | apply State.psuTurn_kept | apply State.psuCheck_kept | apply Kept.ite | apply Goes.ite | apply Goes.next
    | apply Goes.after | apply Kept.foldl | apply Kept.foldlPair | (refine Kept.fst ‹_ = (_, _)› ?_) | split
    | lift_lets | (dsimp -zeta only) | (fail_if_no_progress apply Kept.fields) | apply Kept.tabs | apply FMap.tidy_put
    | apply FMap.tidy_mod | apply FMap.tidy_nil | apply FMap.tidy_foldl)

theorem State.psuChannel_kept {r : State} {n} {rings} {s : State} (hs : Kept r s) :
    Kept r (State.psuChannel n rings s) := by
  unfold State.psuChannel
  repeat' (with_reducible first
    | assumption | (intro _; try beta_reduce) | apply State.each_kept | apply State.when_kept
    | apply State.psuRestart_kept | apply State.psuCheck_kept)

theorem State.psuUnit_kept {r : State} {cl} {dual} {i} {s : State} (hs : Kept r s) :
    Kept r (State.psuUnit cl dual i s) := by
  unfold State.psuUnit
  repeat' (with_reducible first
    | assumption
    | (intro x; (refine Kept.cut (s := x) ?_ (fun _ => ?_)); (on_goal 1 => subst x); (on_goal 2 => clear_value x))
    | (intro x; (refine Kept.cutPair (p := x) ?_ (fun _ => ?_)); (on_goal 1 => subst x); (on_goal 2 => clear_value x))
    | (intro x; clear_value x) | (intro _; try beta_reduce) | apply State.psuRestart_kept | apply State.stWords_kept
    | apply State.setBit_kept | apply State.setFld_kept | apply State.when_kept | apply State.evt_kept
    | apply State.blockFault_kept | apply State.inc_kept | apply Kept.ite | apply Goes.ite | apply Goes.next
    | apply Goes.after | apply Kept.foldl | apply Kept.foldlPair | (refine Kept.fst ‹_ = (_, _)› ?_) | split
    | lift_lets | (dsimp -zeta only) | (fail_if_no_progress apply Kept.fields) | apply Kept.tabs | apply FMap.tidy_put
    | apply FMap.tidy_mod | apply FMap.tidy_nil | apply FMap.tidy_foldl)

theorem State.psuWork_kept {r : State} {r0} {dual} {s : State} (hs : Kept r s) :
    Kept r (State.psuWork r0 dual s) := by
  unfold State.psuWork
  repeat' (with_reducible first
    | assumption
    | (intro x; (refine Kept.cut (s := x) ?_ (fun _ => ?_)); (on_goal 1 => subst x); (on_goal 2 => clear_value x))
    | (intro x; (refine Kept.cutPair (p := x) ?_ (fun _ => ?_)); (on_goal 1 => subst x); (on_goal 2 => clear_value x))
    | (intro x; clear_value x) | (intro _; try beta_reduce) | apply State.onPoint_kept | apply State.psuTurn_kept
    | apply State.psuUnit_kept | apply State.engineMark_kept | apply Kept.ite | apply Goes.ite | apply Goes.next
    | apply Goes.after | apply Kept.foldl | apply Kept.foldlPair | (refine Kept.fst ‹_ = (_, _)› ?_) | split
    | lift_lets | (dsimp -zeta only) | (fail_if_no_progress apply Kept.fields) | apply Kept.tabs | apply FMap.tidy_put
    | apply FMap.tidy_mod | apply FMap.tidy_nil | apply FMap.tidy_foldl)

theorem execPsuGridWork_goes {r : State} {r0} {dual} {s : State} (hs : Kept r s) :
    Goes r (execPsuGridWork r0 dual s) := by
  unfold execPsuGridWork
  repeat' (with_reducible first | assumption | apply Goes.next | apply State.psuWork_kept)

end Sys2Proof.Machine
end

