-- ==== Sys2Proof/Laws/KeptRge.lean ====
section
/-!
SUPPORT. What the operations of Machine/Rge.lean keep.
-/

set_option linter.all false

namespace Sys2Proof.Machine

theorem State.modLoop_kept {r : State} {l} {f} {s : State} (hs : Kept r s) :
    Kept r (State.modLoop l f s) := by
  unfold State.modLoop
  repeat' (with_reducible first
    | assumption | (intro _; try beta_reduce) | apply Kept.ite | (refine Kept.fst ‹_ = (_, _)› ?_) | split
    | (dsimp only) | (fail_if_no_progress apply Kept.fields) | apply Kept.tabs
    | apply FMap.tidy_put | apply FMap.tidy_mod)

theorem State.runProfile_kept {r : State} {l} {t} {s : State} (hs : Kept r s) :
    Kept r (State.runProfile l t s) := by
  unfold State.runProfile
  repeat' (with_reducible first | assumption | apply State.modLoop_kept | apply State.setReg_kept)

theorem State.spTo_kept {r : State} {l} {y} {s : State} (hs : Kept r s) :
    Kept r (State.spTo l y s) := by
  unfold State.spTo
  repeat' (with_reducible first | assumption | apply State.modLoop_kept | apply State.setReg_kept)

theorem State.loopInit_kept {r : State} {l} {y} {s : State} (hs : Kept r s) :
    Kept r (State.loopInit l y s) := by
  unfold State.loopInit
  repeat' (with_reducible first | assumption | apply State.modLoop_kept | apply State.setReg_kept)

theorem State.loopStart_kept {r : State} {l} {s : State} (hs : Kept r s) :
    Kept r (State.loopStart l s) := by
  unfold State.loopStart
  repeat' (with_reducible first
    | assumption | (intro _; try beta_reduce) | apply State.setReg_kept | apply Kept.ite
    | (refine Kept.fst ‹_ = (_, _)› ?_) | split | (dsimp only) | (fail_if_no_progress apply Kept.fields) | apply Kept.tabs
    | apply FMap.tidy_put)

theorem State.firstFeedback_kept {r : State} {l} {y} {lost} {s : State} (hs : Kept r s) :
    Kept r (State.firstFeedback l y lost s) := by
  unfold State.firstFeedback
  repeat' (with_reducible first
    | assumption | (intro _; try beta_reduce) | apply State.modLoop_kept | apply State.setReg_kept
    | apply State.spTo_kept | apply Kept.ite)

theorem State.rgeTurn_kept {r : State} {l} {old : State} {s : State} (hs : Kept r s) :
    Kept r (State.rgeTurn l old s) := by
  unfold State.rgeTurn
  repeat' (with_reducible first
    | assumption
    | (intro x; (refine Kept.cut (s := x) ?_ (fun _ => ?_)); (on_goal 1 => subst x); (on_goal 2 => clear_value x))
    | (intro x; (refine Kept.cutPair (p := x) ?_ (fun _ => ?_)); (on_goal 1 => subst x); (on_goal 2 => clear_value x))
    | (intro x; clear_value x) | (intro _; try beta_reduce) | apply State.loopStart_kept | apply State.modLoop_kept
    | apply Kept.ite | apply Goes.ite | apply Goes.next | apply Goes.after | apply Kept.foldl | apply Kept.foldlPair
    | (refine Kept.fst ‹_ = (_, _)› ?_) | split | lift_lets | (dsimp -zeta only)
    | (fail_if_no_progress apply Kept.fields) | apply Kept.tabs | apply FMap.tidy_put | apply FMap.tidy_mod
    | apply FMap.tidy_nil | apply FMap.tidy_foldl)

theorem State.rgeRefOff_kept {r : State} {ref} {s : State} (hs : Kept r s) :
    Kept r (State.rgeRefOff ref s) := by
  unfold State.rgeRefOff
  repeat' (with_reducible first
    | assumption | (intro _; try beta_reduce) | apply State.each_kept | apply State.modLoop_kept)

theorem State.rampFb_kept {r : State} {l} {t} {s : State} (hs : Kept r s) :
    Kept r (State.rampFb l t s) := by
  unfold State.rampFb
  repeat' (with_reducible first | assumption | apply State.setBit_kept | apply State.setReg_kept)

theorem State.stopRamp_kept {r : State} {l} {s : State} (hs : Kept r s) :
    Kept r (State.stopRamp l s) := by
  unfold State.stopRamp
  repeat' (with_reducible first
    | assumption | (intro _; try beta_reduce) | apply State.setReg_kept | apply State.evt_kept | apply Kept.ite)

theorem State.showSat_kept {r : State} {l} {sat} {s : State} (hs : Kept r s) :
    Kept r (State.showSat l sat s) := by
  unfold State.showSat
  repeat' (with_reducible first
    | assumption | (intro _; try beta_reduce) | apply State.setBit_kept | apply State.evt_kept | apply State.inc_kept
    | apply Kept.ite)

theorem State.plausible_kept {r : State} {l} {y} {t} {s : State} (hs : Kept r s) :
    Kept r (State.plausible l y t s).1 := by
  unfold State.plausible
  repeat' (with_reducible first
    | assumption | (intro _; try beta_reduce) | apply State.setBit_kept | apply State.modLoop_kept
    | apply State.setReg_kept | apply State.when_kept | apply State.evt_kept | apply Kept.ite
    | (refine Kept.fst ‹_ = (_, _)› ?_) | split | (dsimp only))

theorem State.setLoop_kept {r : State} {l} {st} {s : State} (hs : Kept r s) :
    Kept r (State.setLoop l st s) := by
  unfold State.setLoop
  repeat' (with_reducible first
    | assumption | (intro _; try beta_reduce) | apply State.evt_kept | apply State.setFld_kept | apply Kept.ite)

theorem State.rgeActivated_kept {r : State} {x} {l} {slice} {s : State} (hs : Kept r s) :
    Kept r (State.rgeActivated x l slice s) := by
  unfold State.rgeActivated
  repeat' (with_reducible first
    | assumption
    | (intro x; (refine Kept.cut (s := x) ?_ (fun _ => ?_)); (on_goal 1 => subst x); (on_goal 2 => clear_value x))
    | (intro x; (refine Kept.cutPair (p := x) ?_ (fun _ => ?_)); (on_goal 1 => subst x); (on_goal 2 => clear_value x))
    | (intro x; clear_value x) | (intro _; try beta_reduce) | apply State.setWords_kept | apply State.when_kept
    | apply State.evt_kept | apply State.setBit_kept | apply State.modLoop_kept | apply State.setLoop_kept
    | apply State.setPriors_kept | apply State.turn_kept | apply State.rgeTurn_kept | apply Kept.ite | apply Goes.ite
    | apply Goes.next | apply Goes.after | apply Kept.foldl | apply Kept.foldlPair | (refine Kept.fst ‹_ = (_, _)› ?_)
    | split | lift_lets | (dsimp -zeta only) | (fail_if_no_progress apply Kept.fields) | apply Kept.tabs
    | apply FMap.tidy_put | apply FMap.tidy_mod | apply FMap.tidy_nil | apply FMap.tidy_foldl)

theorem State.control_kept {r : State} {l} {y} {t} {s : State} (hs : Kept r s) :
    Kept r (State.control l y t s) := by
  unfold State.control
  repeat' (with_reducible first
    | assumption | (intro _; try beta_reduce) | apply State.setReg_kept | apply State.showSat_kept
    | apply State.modLoop_kept | apply Kept.ite)

theorem State.loopOpen_kept {r : State} {l} {s : State} (hs : Kept r s) :
    Kept r (State.loopOpen l s) := by
  unfold State.loopOpen
  repeat' (with_reducible first
    | assumption | (intro _; try beta_reduce) | apply State.setLoop_kept | apply State.setReg_kept
    | apply State.evt_kept | apply Kept.ite)

theorem State.fallback_kept {r : State} {l} {s : State} (hs : Kept r s) :
    Kept r (State.fallback l s) := by
  unfold State.fallback
  repeat' (with_reducible first
    | assumption | (intro _; try beta_reduce) | apply State.setLoop_kept | apply Kept.ite)

theorem State.enterClosed_kept {r : State} {l} {toY} {s : State} (hs : Kept r s) :
    Kept r (State.enterClosed l toY s) := by
  unfold State.enterClosed
  repeat' (with_reducible first | assumption | apply State.modLoop_kept | apply State.setLoop_kept)

theorem State.loopClose_kept {r : State} {l} {s : State} (hs : Kept r s) :
    Kept r (State.loopClose l s) := by
  unfold State.loopClose
  repeat' (with_reducible first
    | assumption | (intro _; try beta_reduce) | apply State.evt_kept | apply State.enterClosed_kept | apply Kept.ite)

theorem State.rgeReset_kept {r : State} {l} {s : State} (hs : Kept r s) :
    Kept r (State.rgeReset l s) := by
  unfold State.rgeReset
  repeat' (with_reducible first
    | assumption
    | (intro x; (refine Kept.cut (s := x) ?_ (fun _ => ?_)); (on_goal 1 => subst x); (on_goal 2 => clear_value x))
    | (intro x; (refine Kept.cutPair (p := x) ?_ (fun _ => ?_)); (on_goal 1 => subst x); (on_goal 2 => clear_value x))
    | (intro x; clear_value x) | (intro _; try beta_reduce) | apply State.loopStart_kept | apply State.setFld_kept
    | apply State.setLoop_kept | apply State.setPriors_kept | apply Kept.ite | apply Goes.ite | apply Goes.next
    | apply Goes.after | apply Kept.foldl | apply Kept.foldlPair | (refine Kept.fst ‹_ = (_, _)› ?_) | split
    | lift_lets | (dsimp -zeta only) | (fail_if_no_progress apply Kept.fields) | apply Kept.tabs | apply FMap.tidy_put
    | apply FMap.tidy_mod | apply FMap.tidy_nil | apply FMap.tidy_foldl)

theorem execFallbackDelayExpiry_goes {r : State} {l} {s : State} (hs : Kept r s) :
    Goes r (execFallbackDelayExpiry l s) := by
  unfold execFallbackDelayExpiry
  repeat' (with_reducible first | assumption | apply Goes.next | apply State.fallback_kept)

theorem State.autoResume_kept {r : State} {l} {s : State} (hs : Kept r s) :
    Kept r (State.autoResume l s) := by
  unfold State.autoResume
  repeat' (with_reducible first
    | assumption | (intro _; try beta_reduce) | apply State.enterClosed_kept | apply State.evt_kept | apply Kept.ite)

theorem State.enterHeld_kept {r : State} {l} {ev} {s : State} (hs : Kept r s) :
    Kept r (State.enterHeld l ev s) := by
  unfold State.enterHeld
  repeat' (with_reducible first
    | assumption | apply State.modLoop_kept | apply State.setLoop_kept | apply State.inc_kept | apply State.evt_kept)

theorem execAutoResume_goes {r : State} {l} {s : State} (hs : Kept r s) :
    Goes r (execAutoResume l s) := by
  unfold execAutoResume
  repeat' (with_reducible first | assumption | apply Goes.next | apply State.autoResume_kept)

theorem State.loopMove_kept {r : State} {l} {lost} {frozen} {s : State} (hs : Kept r s) :
    Kept r (State.loopMove l lost frozen s) := by
  unfold State.loopMove
  repeat' (with_reducible first
    | assumption | (intro _; try beta_reduce) | apply State.spTo_kept | apply State.enterClosed_kept
    | apply State.setLoop_kept | apply State.enterHeld_kept | apply State.fallback_kept | apply State.autoResume_kept
    | apply Kept.ite | split)

theorem State.closedCycle_kept {r : State} {l} {y} {t} {s : State} (hs : Kept r s) :
    Kept r (State.closedCycle l y t s) := by
  unfold State.closedCycle
  repeat' (with_reducible first
    | assumption | (intro _; try beta_reduce) | apply State.spTo_kept | apply State.runProfile_kept
    | apply State.modLoop_kept | apply State.loopInit_kept | apply State.setBit_kept | apply State.setReg_kept
    | apply State.plausible_kept | apply State.enterHeld_kept | apply State.control_kept | apply Kept.ite)

theorem State.loopOutput_kept {r : State} {l} {y} {t} {lost} {s : State} (hs : Kept r s) :
    Kept r (State.loopOutput l y t lost s) := by
  unfold State.loopOutput
  repeat' (with_reducible first
    | assumption | (intro _; try beta_reduce) | apply State.spTo_kept | apply State.runProfile_kept
    | apply State.showSat_kept | apply State.setReg_kept | apply State.loopInit_kept | apply State.closedCycle_kept
    | apply State.rampFb_kept | apply State.setBit_kept | apply Kept.ite | split)

theorem State.loopWrite_kept {r : State} {l} {k} {fbq} {s : State} (hs : Kept r s) :
    Kept r (State.loopWrite l k fbq s) := by
  unfold State.loopWrite
  repeat' (with_reducible first
    | assumption | (intro _; try beta_reduce) | apply State.enginePoint_kept | apply State.pubRequest_kept
    | apply State.modLoop_kept | apply State.evt_kept | apply State.inc_kept | apply Kept.ite)

theorem State.rgeCrc_kept {r : State} {l} {s : State} (hs : Kept r s) :
    Kept r (State.rgeCrc l s) := by
  unfold State.rgeCrc
  repeat' (with_reducible first
    | assumption
    | (intro x; (refine Kept.cut (s := x) ?_ (fun _ => ?_)); (on_goal 1 => subst x); (on_goal 2 => clear_value x))
    | (intro x; (refine Kept.cutPair (p := x) ?_ (fun _ => ?_)); (on_goal 1 => subst x); (on_goal 2 => clear_value x))
    | (intro x; clear_value x) | (intro _; try beta_reduce) | apply State.blockFault_kept | apply State.evt_kept
    | apply State.inc_kept | apply Kept.ite | apply Goes.ite | apply Goes.next | apply Goes.after | apply Kept.foldl
    | apply Kept.foldlPair | (refine Kept.fst ‹_ = (_, _)› ?_) | split | lift_lets | (dsimp -zeta only)
    | (fail_if_no_progress apply Kept.fields) | apply Kept.tabs | apply FMap.tidy_put | apply FMap.tidy_mod
    | apply FMap.tidy_nil | apply FMap.tidy_foldl)

theorem State.rgeWatchdog_kept {r : State} {s : State} (hs : Kept r s) :
    Kept r (State.rgeWatchdog s) := by
  unfold State.rgeWatchdog
  repeat' (with_reducible first
    | assumption
    | (intro x; (refine Kept.cut (s := x) ?_ (fun _ => ?_)); (on_goal 1 => subst x); (on_goal 2 => clear_value x))
    | (intro x; (refine Kept.cutPair (p := x) ?_ (fun _ => ?_)); (on_goal 1 => subst x); (on_goal 2 => clear_value x))
    | (intro x; clear_value x) | (intro _; try beta_reduce) | apply State.each_kept | apply State.setLoop_kept
    | apply State.blockFault_kept | apply State.ledger_kept | apply State.evt_kept | apply Kept.ite | apply Goes.ite
    | apply Goes.next | apply Goes.after | apply Kept.foldl | apply Kept.foldlPair | (refine Kept.fst ‹_ = (_, _)› ?_)
    | split | lift_lets | (dsimp -zeta only) | (fail_if_no_progress apply Kept.fields) | apply Kept.tabs
    | apply FMap.tidy_put | apply FMap.tidy_mod | apply FMap.tidy_nil | apply FMap.tidy_foldl)

theorem State.loopCmd_kept {r : State} {w} {l} {f} {s : State} (hf : ∀ y4, Kept r y4 → Kept r (f y4)) (hs : Kept r s) :
    Kept r (State.loopCmd w l f s) := by
  unfold State.loopCmd
  repeat' (with_reducible first | assumption | apply State.gateGrant_kept)

theorem execLoopOpen_goes {r : State} {w} {l} {s : State} (hs : Kept r s) :
    Goes r (execLoopOpen w l s) := by
  unfold execLoopOpen
  repeat' (with_reducible first | assumption | apply Goes.next | apply State.loopCmd_kept | apply State.loopOpen_kept)

theorem execLoopClose_goes {r : State} {w} {l} {s : State} (hs : Kept r s) :
    Goes r (execLoopClose w l s) := by
  unfold execLoopClose
  repeat' (with_reducible first | assumption | apply Goes.next | apply State.loopCmd_kept | apply State.loopClose_kept)

theorem execRgeWatchdog_goes {r : State} {s : State} (hs : Kept r s) :
    Goes r (execRgeWatchdog s) := by
  unfold execRgeWatchdog
  repeat' (with_reducible first | assumption | apply Goes.next | apply State.rgeWatchdog_kept)

theorem execStopRamp_goes {r : State} {w} {l} {s : State} (hs : Kept r s) :
    Goes r (execStopRamp w l s) := by
  unfold execStopRamp
  repeat' (with_reducible first | assumption | apply Goes.next | apply State.loopCmd_kept | apply State.stopRamp_kept)

theorem State.takeFeedback_kept {r : State} {l} {k} {crc} {s : State} (hs : Kept r s) :
    Kept r (State.takeFeedback l k crc s).1 := by
  unfold State.takeFeedback
  repeat' (with_reducible first
    | assumption
    | (intro x; (refine Kept.cut (s := x) ?_ (fun _ => ?_)); (on_goal 1 => subst x); (on_goal 2 => clear_value x))
    | (intro x; (refine Kept.cutPair (p := x) ?_ (fun _ => ?_)); (on_goal 1 => subst x); (on_goal 2 => clear_value x))
    | (intro x; clear_value x) | (intro _; try beta_reduce) | apply State.setReg_kept | apply State.when_kept
    | apply State.rgeCrc_kept | apply State.modLoop_kept | apply State.setBit_kept | apply Kept.ite | apply Goes.ite
    | apply Goes.next | apply Goes.after | apply Kept.foldl | apply Kept.foldlPair | (refine Kept.fst ‹_ = (_, _)› ?_)
    | split | lift_lets | (dsimp -zeta only) | (fail_if_no_progress apply Kept.fields) | apply Kept.tabs
    | apply FMap.tidy_put | apply FMap.tidy_mod | apply FMap.tidy_nil | apply FMap.tidy_foldl)

theorem State.takeFf_kept {r : State} {l} {k} {crc} {s : State} (hs : Kept r s) :
    Kept r (State.takeFf l k crc s) := by
  unfold State.takeFf
  repeat' (with_reducible first
    | assumption
    | (intro x; (refine Kept.cut (s := x) ?_ (fun _ => ?_)); (on_goal 1 => subst x); (on_goal 2 => clear_value x))
    | (intro x; (refine Kept.cutPair (p := x) ?_ (fun _ => ?_)); (on_goal 1 => subst x); (on_goal 2 => clear_value x))
    | (intro x; clear_value x) | (intro _; try beta_reduce) | apply State.setBit_kept | apply State.when_kept
    | apply State.rgeCrc_kept | apply State.modLoop_kept | apply Kept.ite | apply Goes.ite | apply Goes.next
    | apply Goes.after | apply Kept.foldl | apply Kept.foldlPair | (refine Kept.fst ‹_ = (_, _)› ?_) | split
    | lift_lets | (dsimp -zeta only) | (fail_if_no_progress apply Kept.fields) | apply Kept.tabs | apply FMap.tidy_put
    | apply FMap.tidy_mod | apply FMap.tidy_nil | apply FMap.tidy_foldl)

theorem State.runLoop_kept {r : State} {l} {k} {crc} {ffCrc} {s : State} (hs : Kept r s) :
    Kept r (State.runLoop l k crc ffCrc s) := by
  unfold State.runLoop
  repeat' (with_reducible first
    | assumption | (intro _; try beta_reduce) | apply State.takeFeedback_kept | apply State.takeFf_kept
    | apply State.modLoop_kept | apply State.firstFeedback_kept | apply State.loopMove_kept
    | apply State.loopOutput_kept | apply State.setBit_kept | apply State.inc_kept | apply State.loopWrite_kept
    | apply Kept.ite)

theorem State.loopWork_kept {r : State} {l} {c} {crc} {ffCrc} {s : State} (hs : Kept r s) :
    Kept r (State.loopWork l c crc ffCrc s) := by
  unfold State.loopWork
  repeat' (with_reducible first
    | assumption
    | (intro x; (refine Kept.cut (s := x) ?_ (fun _ => ?_)); (on_goal 1 => subst x); (on_goal 2 => clear_value x))
    | (intro x; (refine Kept.cutPair (p := x) ?_ (fun _ => ?_)); (on_goal 1 => subst x); (on_goal 2 => clear_value x))
    | (intro x; clear_value x) | (intro _; try beta_reduce) | apply State.evt_kept | apply State.setBit_kept
    | apply State.runLoop_kept | apply State.when_kept | apply State.inc_kept | apply Kept.ite | apply Goes.ite
    | apply Goes.next | apply Goes.after | apply Kept.foldl | apply Kept.foldlPair | (refine Kept.fst ‹_ = (_, _)› ?_)
    | split | lift_lets | (dsimp -zeta only) | (fail_if_no_progress apply Kept.fields) | apply Kept.tabs
    | apply FMap.tidy_put | apply FMap.tidy_mod | apply FMap.tidy_nil | apply FMap.tidy_foldl)

theorem State.loopCycle_kept {r : State} {l} {crc} {ffCrc} {s : State} (hs : Kept r s) :
    Kept r (State.loopCycle l crc ffCrc s) := by
  unfold State.loopCycle
  repeat' (with_reducible first
    | assumption
    | (intro x; (refine Kept.cut (s := x) ?_ (fun _ => ?_)); (on_goal 1 => subst x); (on_goal 2 => clear_value x))
    | (intro x; (refine Kept.cutPair (p := x) ?_ (fun _ => ?_)); (on_goal 1 => subst x); (on_goal 2 => clear_value x))
    | (intro x; clear_value x) | (intro _; try beta_reduce) | refine State.viewAt_kept ?_ he
    | apply State.onPoint_kept | apply State.rgeTurn_kept | apply State.loopWork_kept | apply Kept.ite
    | apply Goes.ite | apply Goes.next | apply Goes.after | apply Kept.foldl | apply Kept.foldlPair
    | (refine Kept.fst ‹_ = (_, _)› ?_) | split | lift_lets | (dsimp -zeta only)
    | (fail_if_no_progress apply Kept.fields) | apply Kept.tabs | apply FMap.tidy_put | apply FMap.tidy_mod
    | apply FMap.tidy_nil | apply FMap.tidy_foldl)

theorem execLoopCycle_goes {r : State} {l} {crc} {ffCrc} {s : State} (hs : Kept r s) :
    Goes r (execLoopCycle l crc ffCrc s) := by
  unfold execLoopCycle
  repeat' (with_reducible first | assumption | apply Goes.next | apply State.loopCycle_kept)

end Sys2Proof.Machine
end

