-- ==== Sys2Proof/Laws/KeptShadow.lean ====
section
/-!
SUPPORT. What the operations of Machine/Shadow.lean keep.
-/

set_option linter.all false

namespace Sys2Proof.Machine

theorem State.setStaged_kept {r : State} {b} {i} {x} {s : State} (hs : Kept r s) :
    Kept r (State.setStaged b i x s) := by
  unfold State.setStaged
  repeat' (with_reducible first
    | assumption | (intro _; try beta_reduce) | apply Kept.ite | (refine Kept.fst ‹_ = (_, _)› ?_) | split
    | (dsimp only) | (fail_if_no_progress apply Kept.fields) | apply Kept.tabs
    | apply FMap.tidy_put)

theorem State.tidyStaged_kept {r : State} {b} {i} {s : State} (hs : Kept r s) :
    Kept r (State.tidyStaged b i s) := by
  unfold State.tidyStaged
  repeat' (with_reducible first
    | assumption | (intro _; try beta_reduce) | apply State.setStaged_kept | apply Kept.ite)

theorem State.setPending_kept {r : State} {b} {i} {v} {s : State} (hs : Kept r s) :
    Kept r (State.setPending b i v s) := by
  unfold State.setPending
  repeat' (with_reducible first | assumption | apply State.setBit_kept)

theorem State.showBusy_kept {r : State} {b} {s : State} (hs : Kept r s) :
    Kept r (State.showBusy b s) := by
  unfold State.showBusy
  repeat' (with_reducible first | assumption | apply State.setBit_kept)

theorem State.shadowReset_kept {r : State} {b} {i} {s : State} (hs : Kept r s) :
    Kept r (State.shadowReset b i s) := by
  unfold State.shadowReset
  repeat' (with_reducible first
    | assumption | (intro _; try beta_reduce) | apply State.each_kept | apply State.setReg_kept
    | apply State.setStaged_kept | apply State.setPending_kept | apply State.showBusy_kept
    | apply State.tidyStaged_kept)

theorem State.stagingIssue_kept {r : State} {r0} {s : State} (hs : Kept r s) :
    Kept r (State.stagingIssue r0 s) := by
  unfold State.stagingIssue
  repeat' (with_reducible first
    | assumption | (intro _; try beta_reduce) | apply State.each_kept | apply State.when_kept | apply State.evt_kept
    | apply State.setBit_kept)

theorem State.xcommitRelease_kept {r : State} {s : State} (hs : Kept r s) :
    Kept r (State.xcommitRelease s) := by
  unfold State.xcommitRelease
  repeat' (with_reducible first
    | assumption | (intro _; try beta_reduce) | apply State.each_kept | apply State.setBit_kept
    | apply State.showBusy_kept | apply Kept.ite | (refine Kept.fst ‹_ = (_, _)› ?_) | split | (dsimp only)
    | (fail_if_no_progress apply Kept.fields) | apply Kept.tabs
    | apply FMap.tidy_put | apply FMap.tidy_mod)

theorem State.discardCommit_kept {r : State} {b} {i} {s : State} (hs : Kept r s) :
    Kept r (State.discardCommit b i s) := by
  unfold State.discardCommit
  repeat' (with_reducible first
    | assumption | (intro _; try beta_reduce) | apply State.shadowReset_kept | apply Kept.ite)

theorem State.xcommitAbort_kept {r : State} {s : State} (hs : Kept r s) :
    Kept r (State.xcommitAbort s) := by
  unfold State.xcommitAbort
  repeat' (with_reducible first
    | assumption | (intro _; try beta_reduce) | apply State.setBit_kept | apply State.xcommitRelease_kept
    | apply Kept.ite)

end Sys2Proof.Machine
end

