-- ==== Sys2Proof/Laws/KeptCensusUnit.lean ====
section
/-!
SUPPORT. What the operations of Machine/CensusUnit.lean keep.
-/

set_option linter.all false

namespace Sys2Proof.Machine

theorem State.censusFireNow_kept {r : State} {s : State} (hs : Kept r s) :
    Kept r (State.censusFireNow s) := by
  unfold State.censusFireNow
  repeat' (with_reducible first
    | assumption
    | (intro x; (refine Kept.cut (s := x) ?_ (fun _ => ?_)); (on_goal 1 => subst x); (on_goal 2 => clear_value x))
    | (intro x; (refine Kept.cutPair (p := x) ?_ (fun _ => ?_)); (on_goal 1 => subst x); (on_goal 2 => clear_value x))
    | (intro x; clear_value x) | (intro _; try beta_reduce) | apply Kept.ite | apply Goes.ite | apply Goes.next
    | apply Goes.after | apply Kept.foldl | apply Kept.foldlPair | (refine Kept.fst ‹_ = (_, _)› ?_) | split
    | lift_lets | (dsimp -zeta only) | (fail_if_no_progress apply Kept.fields) | apply Kept.tabs | apply FMap.tidy_put
    | apply FMap.tidy_mod | apply FMap.tidy_nil | apply FMap.tidy_foldl)

theorem State.cenLatch_kept {r : State} {number} {stack} {grid} {late} {lateness} {s : State} (hs : Kept r s) :
    Kept r (State.cenLatch number stack grid late lateness s) := by
  unfold State.cenLatch
  repeat' (with_reducible first
    | assumption | (intro _; try beta_reduce) | apply State.inc_kept | apply State.evt_kept | apply State.setReg_kept
    | apply State.setBit_kept | apply Kept.ite | (refine Kept.fst ‹_ = (_, _)› ?_) | split | (dsimp only)
    | (fail_if_no_progress apply Kept.fields))

theorem State.cenSet_kept {r : State} {c} {s : State} (hs : Kept r s) :
    Kept r (State.cenSet c s) := by
  unfold State.cenSet
  repeat' (with_reducible first
    | assumption | (intro _; try beta_reduce) | apply State.setBit_kept | apply Kept.ite
    | (refine Kept.fst ‹_ = (_, _)› ?_) | split | (dsimp only) | (fail_if_no_progress apply Kept.fields))

theorem State.censusLatch_kept {r : State} {s : State} (hs : Kept r s) :
    Kept r (State.censusLatch s) := by
  unfold State.censusLatch
  repeat' (with_reducible first
    | assumption | (intro _; try beta_reduce) | apply State.cenLatch_kept | apply State.setBit_kept | apply Kept.ite
    | split)

theorem State.censusTick_kept {r : State} {s : State} (hs : Kept r s) :
    Kept r (State.censusTick s) := by
  unfold State.censusTick
  repeat' (with_reducible first
    | assumption
    | (intro x; (refine Kept.cut (s := x) ?_ (fun _ => ?_)); (on_goal 1 => subst x); (on_goal 2 => clear_value x))
    | (intro x; (refine Kept.cutPair (p := x) ?_ (fun _ => ?_)); (on_goal 1 => subst x); (on_goal 2 => clear_value x))
    | (intro x; clear_value x) | (intro _; try beta_reduce) | apply State.cenLatch_kept | apply Kept.ite
    | apply Goes.ite | apply Goes.next | apply Goes.after | apply Kept.foldl | apply Kept.foldlPair
    | (refine Kept.fst ‹_ = (_, _)› ?_) | split | lift_lets | (dsimp -zeta only)
    | (fail_if_no_progress apply Kept.fields) | apply Kept.tabs | apply FMap.tidy_put | apply FMap.tidy_mod
    | apply FMap.tidy_nil | apply FMap.tidy_foldl)

theorem State.censusAbort_kept {r : State} {s : State} (hs : Kept r s) :
    Kept r (State.censusAbort s) := by
  unfold State.censusAbort
  repeat' (with_reducible first
    | assumption | (intro _; try beta_reduce) | apply State.evt_kept | apply State.setBit_kept | apply Kept.ite)

theorem execCensusLatch_goes {r : State} {s : State} (hs : Kept r s) :
    Goes r (execCensusLatch s) := by
  unfold execCensusLatch
  repeat' (with_reducible first | assumption | apply Goes.next | apply State.censusLatch_kept)

theorem State.censusComplete_kept {r : State} {s : State} (hs : Kept r s) :
    Kept r (State.censusComplete s) := by
  unfold State.censusComplete
  repeat' (with_reducible first
    | assumption
    | (intro x; (refine Kept.cut (s := x) ?_ (fun _ => ?_)); (on_goal 1 => subst x); (on_goal 2 => clear_value x))
    | (intro x; (refine Kept.cutPair (p := x) ?_ (fun _ => ?_)); (on_goal 1 => subst x); (on_goal 2 => clear_value x))
    | (intro x; clear_value x) | (intro _; try beta_reduce) | apply State.dmaWords_kept | apply State.dma_kept
    | apply State.setFld_kept | apply State.setBit_kept | apply State.inc_kept | apply Kept.ite | apply Goes.ite
    | apply Goes.next | apply Goes.after | apply Kept.foldl | apply Kept.foldlPair | (refine Kept.fst ‹_ = (_, _)› ?_)
    | split | lift_lets | (dsimp -zeta only) | (fail_if_no_progress apply Kept.fields) | apply Kept.tabs
    | apply FMap.tidy_put | apply FMap.tidy_mod | apply FMap.tidy_nil | apply FMap.tidy_foldl)

theorem State.censusArm_kept {r : State} {s : State} (hs : Kept r s) :
    Kept r (State.censusArm s) := by
  unfold State.censusArm
  repeat' (with_reducible first
    | assumption | (intro _; try beta_reduce) | apply State.evt_kept | apply State.cenSet_kept | apply Kept.ite)

theorem execCensusAbort_goes {r : State} {w} {s : State} (hs : Kept r s) :
    Goes r (execCensusAbort w s) := by
  unfold execCensusAbort
  repeat' (with_reducible first
    | assumption | apply Goes.next | apply State.gateSup_kept | apply State.censusAbort_kept)

theorem execCensusFireNow_goes {r : State} {w} {s : State} (hs : Kept r s) :
    Goes r (execCensusFireNow w s) := by
  unfold execCensusFireNow
  repeat' (with_reducible first
    | assumption | apply Goes.next | apply State.gateSup_kept | apply State.censusFireNow_kept)

theorem execCensusArm_goes {r : State} {w} {s : State} (hs : Kept r s) :
    Goes r (execCensusArm w s) := by
  unfold execCensusArm
  repeat' (with_reducible first | assumption | apply Goes.next | apply State.gateSup_kept | apply State.censusArm_kept)

end Sys2Proof.Machine
end

