-- ==== Sys2Proof/Laws/KeptCx.lean ====
section
/-!
SUPPORT. What the operations of Machine/Cx.lean keep.
-/

set_option linter.all false

namespace Sys2Proof.Machine

theorem State.resetBlocks_kept {r : State} {bs} {s : State} (hs : Kept r s) : Kept r (State.resetBlocks bs s) :=
  Kept.filterRegs hs

theorem State.cxLost_kept {r s : State} (hs : Kept r s) : Kept r (State.cxLost s) := by
  have h := Kept.filterMem (p := fun c => !onDie c.1) (Kept.filterRegs (p := fun e => !regOf cxBlocks e.1 || isCounter e.1) hs)
  unfold State.cxLost
  apply Kept.tabs h <;> first | exact id | exact FMap.wf_filter | exact fun _ => FMap.tidy_nil

theorem State.cxOffSoon_kept {r : State} {s : State} (hs : Kept r s) :
    Kept r (State.cxOffSoon s) := by
  unfold State.cxOffSoon
  repeat' (with_reducible first
    | assumption | (intro _; try beta_reduce) | apply Kept.ite | (refine Kept.fst ‹_ = (_, _)› ?_) | split
    | (dsimp only) | (fail_if_no_progress apply Kept.fields))

theorem State.slice0Start_kept {r : State} {s : State} (hs : Kept r s) :
    Kept r (State.slice0Start s) := by
  unfold State.slice0Start
  repeat' (with_reducible first | assumption | apply State.setRun_kept | apply State.setLife_kept)

theorem State.cxRaise_kept {r : State} {s : State} (hs : Kept r s) :
    Kept r (State.cxRaise s) := by
  unfold State.cxRaise
  repeat' (with_reducible first
    | assumption
    | (intro x; (refine Kept.cut (s := x) ?_ (fun _ => ?_)); (on_goal 1 => subst x); (on_goal 2 => clear_value x))
    | (intro x; (refine Kept.cutPair (p := x) ?_ (fun _ => ?_)); (on_goal 1 => subst x); (on_goal 2 => clear_value x))
    | (intro x; clear_value x) | (intro _; try beta_reduce) | apply State.drive_kept | apply State.healthUpdate_kept
    | apply State.showSpare_kept | apply State.slice0Start_kept | apply State.setBit_kept | apply State.cxLost_kept
    | apply Kept.ite | apply Goes.ite | apply Goes.next | apply Goes.after | apply Kept.foldl | apply Kept.foldlPair
    | (refine Kept.fst ‹_ = (_, _)› ?_) | split | lift_lets | (dsimp -zeta only)
    | (fail_if_no_progress apply Kept.fields) | apply Kept.tabs | apply FMap.tidy_put | apply FMap.tidy_mod
    | apply FMap.tidy_nil | apply FMap.tidy_foldl)

theorem State.cxFall_kept {r : State} {s : State} (hs : Kept r s) :
    Kept r (State.cxFall s) := by
  unfold State.cxFall
  repeat' (with_reducible first
    | assumption
    | (intro x; (refine Kept.cut (s := x) ?_ (fun _ => ?_)); (on_goal 1 => subst x); (on_goal 2 => clear_value x))
    | (intro x; (refine Kept.cutPair (p := x) ?_ (fun _ => ?_)); (on_goal 1 => subst x); (on_goal 2 => clear_value x))
    | (intro x; clear_value x) | (intro _; try beta_reduce) | apply State.drive_kept | apply State.healthUpdate_kept
    | apply State.xcommitAbort_kept | apply State.setBit_kept | apply State.cenRefOff_kept
    | apply State.innerFlush_kept | apply State.cxLost_kept | apply Kept.ite | apply Goes.ite | apply Goes.next
    | apply Goes.after | apply Kept.foldl | apply Kept.foldlPair | (refine Kept.fst ‹_ = (_, _)› ?_) | split
    | lift_lets | (dsimp -zeta only) | (fail_if_no_progress apply Kept.fields) | apply Kept.tabs | apply FMap.tidy_put
    | apply FMap.tidy_mod | apply FMap.tidy_nil | apply FMap.tidy_foldl)

end Sys2Proof.Machine
end

