-- ==== Sys2Proof/Laws/KeptXec.lean ====
section
/-!
SUPPORT. What the operations of Machine/Xec.lean keep.
-/

set_option linter.all false

namespace Sys2Proof.Machine

theorem State.moveWindow_kept {r : State} {n} {i} {s : State} (hs : Kept r s) :
    Kept r (State.moveWindow n i s) := by
  unfold State.moveWindow
  repeat' (with_reducible first
    | assumption | (intro _; try beta_reduce) | apply Kept.ite | (refine Kept.fst ‹_ = (_, _)› ?_) | split
    | (dsimp only) | (fail_if_no_progress apply Kept.fields) | apply Kept.tabs
    | apply FMap.tidy_put)

theorem State.setTj_kept {r : State} {tj} {s : State} (hs : Kept r s) :
    Kept r (State.setTj tj s) := by
  unfold State.setTj
  repeat' (with_reducible first
    | assumption
    | (intro x; (refine Kept.cut (s := x) ?_ (fun _ => ?_)); (on_goal 1 => subst x); (on_goal 2 => clear_value x))
    | (intro x; (refine Kept.cutPair (p := x) ?_ (fun _ => ?_)); (on_goal 1 => subst x); (on_goal 2 => clear_value x))
    | (intro x; clear_value x) | (intro _; try beta_reduce) | apply State.setReg_kept | apply Kept.ite
    | apply Goes.ite | apply Goes.next | apply Goes.after | apply Kept.foldl | apply Kept.foldlPair
    | (refine Kept.fst ‹_ = (_, _)› ?_) | split | lift_lets | (dsimp -zeta only)
    | (fail_if_no_progress apply Kept.fields) | apply Kept.tabs | apply FMap.tidy_put | apply FMap.tidy_mod
    | apply FMap.tidy_nil | apply FMap.tidy_foldl)

theorem State.startMove_kept {r : State} {n} {s : State} (hs : Kept r s) :
    Kept r (State.startMove n s) := by
  unfold State.startMove
  repeat' (with_reducible first
    | assumption | (intro _; try beta_reduce) | apply State.setLife_kept | apply State.modSl_kept | apply Kept.ite)

theorem State.calmWatch_kept {r : State} {p} {s : State} (hs : Kept r s) :
    Kept r (State.calmWatch p s) := by
  unfold State.calmWatch
  repeat' (with_reducible first
    | assumption
    | (intro x; (refine Kept.cut (s := x) ?_ (fun _ => ?_)); (on_goal 1 => subst x); (on_goal 2 => clear_value x))
    | (intro x; (refine Kept.cutPair (p := x) ?_ (fun _ => ?_)); (on_goal 1 => subst x); (on_goal 2 => clear_value x))
    | (intro x; clear_value x) | (intro _; try beta_reduce) | apply State.modPr_kept | apply Kept.ite | apply Goes.ite
    | apply Goes.next | apply Goes.after | apply Kept.foldl | apply Kept.foldlPair | (refine Kept.fst ‹_ = (_, _)› ?_)
    | split | lift_lets | (dsimp -zeta only) | (fail_if_no_progress apply Kept.fields) | apply Kept.tabs
    | apply FMap.tidy_put | apply FMap.tidy_mod | apply FMap.tidy_nil | apply FMap.tidy_foldl)

theorem State.hostOn_kept {r : State} {n} {p} {s : State} (hs : Kept r s) :
    Kept r (State.hostOn n p s) := by
  unfold State.hostOn
  repeat' (with_reducible first | assumption | apply State.setFld_kept)

theorem State.startCapture_kept {r : State} {n} {seq} {gp} {arch} {s : State} (hs : Kept r s) :
    Kept r (State.startCapture n seq gp arch s) := by
  unfold State.startCapture
  repeat' (with_reducible first | assumption | apply State.modSl_kept)

theorem State.deadlineMiss_kept {r : State} {n} {s : State} (hs : Kept r s) :
    Kept r (State.deadlineMiss n s) := by
  unfold State.deadlineMiss
  repeat' (with_reducible first
    | assumption | (intro _; try beta_reduce) | apply State.modSl_kept | apply State.miss_kept | apply Kept.ite
    | split)

theorem execPassDeadlineMiss_goes {r : State} {n} {s : State} (hs : Kept r s) :
    Goes r (execPassDeadlineMiss n s) := by
  unfold execPassDeadlineMiss
  repeat' (with_reducible first | assumption | apply Goes.next | apply State.deadlineMiss_kept)

theorem State.setPair_kept {r : State} {p} {st} {s : State} (hs : Kept r s) :
    Kept r (State.setPair p st s) := by
  unfold State.setPair
  repeat' (with_reducible first | assumption | apply State.showSpare_kept | apply State.setFld_kept)

theorem State.calm_kept {r : State} {p} {s : State} (hs : Kept r s) :
    Kept r (State.calm p s) := by
  unfold State.calm
  repeat' (with_reducible first
    | assumption | (intro _; try beta_reduce) | apply State.modPr_kept | apply State.setFld_kept
    | apply State.dispatch_kept | apply State.showLevel_kept | apply State.evt_kept | apply Kept.ite)

theorem State.quantum_kept {r : State} {p} {s : State} (hs : Kept r s) :
    Kept r (State.quantum p s) := by
  unfold State.quantum
  repeat' (with_reducible first
    | assumption | (intro _; try beta_reduce) | apply State.dispatch_kept | apply State.suspend_kept | apply Kept.ite)

theorem State.overrun_kept {r : State} {n} {s : State} (hs : Kept r s) :
    Kept r (State.overrun n s) := by
  unfold State.overrun
  repeat' (with_reducible first
    | assumption
    | (intro x; (refine Kept.cut (s := x) ?_ (fun _ => ?_)); (on_goal 1 => subst x); (on_goal 2 => clear_value x))
    | (intro x; (refine Kept.cutPair (p := x) ?_ (fun _ => ?_)); (on_goal 1 => subst x); (on_goal 2 => clear_value x))
    | (intro x; clear_value x) | (intro _; try beta_reduce) | apply State.modSl_kept | apply State.setBit_kept
    | apply State.evt_kept | apply State.modPr_kept | apply Kept.ite | apply Goes.ite | apply Goes.next
    | apply Goes.after | apply Kept.foldl | apply Kept.foldlPair | (refine Kept.fst ‹_ = (_, _)› ?_) | split
    | lift_lets | (dsimp -zeta only) | (fail_if_no_progress apply Kept.fields) | apply Kept.tabs | apply FMap.tidy_put
    | apply FMap.tidy_mod | apply FMap.tidy_nil | apply FMap.tidy_foldl)

theorem State.captureDone_kept {r : State} {n} {s : State} (hs : Kept r s) :
    Kept r (State.captureDone n s) := by
  unfold State.captureDone
  repeat' (with_reducible first
    | assumption
    | (intro x; (refine Kept.cut (s := x) ?_ (fun _ => ?_)); (on_goal 1 => subst x); (on_goal 2 => clear_value x))
    | (intro x; (refine Kept.cutPair (p := x) ?_ (fun _ => ?_)); (on_goal 1 => subst x); (on_goal 2 => clear_value x))
    | (intro x; clear_value x) | (intro _; try beta_reduce) | apply State.dma_kept | apply State.fill_kept
    | apply State.wrote_kept | apply State.modSl_kept | apply State.setBit_kept | apply Kept.ite | apply Goes.ite
    | apply Goes.next | apply Goes.after | apply Kept.foldl | apply Kept.foldlPair | (refine Kept.fst ‹_ = (_, _)› ?_)
    | split | lift_lets | (dsimp -zeta only) | (fail_if_no_progress apply Kept.fields) | apply Kept.tabs
    | apply FMap.tidy_put | apply FMap.tidy_mod | apply FMap.tidy_nil | apply FMap.tidy_foldl)

theorem execBackgroundQuantum_goes {r : State} {p} {s : State} (hs : Kept r s) :
    Goes r (execBackgroundQuantum p s) := by
  unfold execBackgroundQuantum
  repeat' (with_reducible first | assumption | apply Goes.next | apply State.quantum_kept)

theorem State.stopSlice_kept {r : State} {n} {s : State} (hs : Kept r s) :
    Kept r (State.stopSlice n s) := by
  unfold State.stopSlice
  repeat' (with_reducible first
    | assumption | apply State.modSl_kept | apply State.offPair_kept | apply State.showClassA_kept
    | apply State.setRun_kept)

theorem execOverloadCalm_goes {r : State} {p} {s : State} (hs : Kept r s) :
    Goes r (execOverloadCalm p s) := by
  unfold execOverloadCalm
  repeat' (with_reducible first | assumption | apply Goes.next | apply State.calm_kept)

theorem State.passEnd_kept {r : State} {p} {n} {arch} {s : State} (hs : Kept r s) :
    Kept r (State.passEnd p n arch s) := by
  unfold State.passEnd
  repeat' (with_reducible first
    | assumption | (intro _; try beta_reduce) | apply State.inc_kept | apply State.setReg_kept
    | apply State.setBit_kept | apply State.setFld_kept | apply State.modSl_kept | apply State.startCapture_kept
    | apply State.offPair_kept | apply State.startMove_kept | apply State.setRun_kept | apply State.passOver_kept
    | apply State.dispatch_kept | apply State.suspend_kept | apply Kept.ite | split)

theorem execBudgetOverrun_goes {r : State} {n} {s : State} (hs : Kept r s) :
    Goes r (execBudgetOverrun n s) := by
  unfold execBudgetOverrun
  repeat' (with_reducible first | assumption | apply Goes.next | apply State.overrun_kept)

theorem execImageCaptureComplete_goes {r : State} {n} {s : State} (hs : Kept r s) :
    Goes r (execImageCaptureComplete n s) := by
  unfold execImageCaptureComplete
  repeat' (with_reducible first | assumption | apply Goes.next | apply State.captureDone_kept)

theorem execPassEnd_goes {r : State} {p} {arch} {s : State} (hs : Kept r s) :
    Goes r (execPassEnd p arch s) := by
  unfold execPassEnd
  repeat' (with_reducible first
    | assumption | (intro _; try beta_reduce) | apply Goes.next | apply State.passEnd_kept | apply Kept.ite | split)

theorem State.freeRelease_kept {r : State} {n} {s : State} (hs : Kept r s) :
    Kept r (State.freeRelease n s) := by
  unfold State.freeRelease
  repeat' (with_reducible first
    | assumption | (intro _; try beta_reduce) | apply State.modSl_kept | apply State.releasePoint_kept
    | apply Kept.ite)

theorem execOvertemp_goes {r : State} {tj} {s : State} (hs : Kept r s) :
    Goes r (execOvertemp tj s) := by
  unfold execOvertemp
  repeat' (with_reducible first
    | assumption | (intro _; try beta_reduce) | apply Goes.next | apply State.setTj_kept | apply State.ledger_kept
    | apply State.evt_kept | apply Kept.ite)

theorem State.takeSlice_kept {r : State} {sp} {n} {s : State} (hs : Kept r s) :
    Kept r (State.takeSlice sp n s) := by
  unfold State.takeSlice
  repeat' (with_reducible first
    | assumption
    | (intro x; (refine Kept.cut (s := x) ?_ (fun _ => ?_)); (on_goal 1 => subst x); (on_goal 2 => clear_value x))
    | (intro x; (refine Kept.cutPair (p := x) ?_ (fun _ => ?_)); (on_goal 1 => subst x); (on_goal 2 => clear_value x))
    | (intro x; clear_value x) | (intro _; try beta_reduce) | apply State.modSl_kept | apply State.lifeEvt_kept
    | apply State.xferEnd_kept | apply State.setLife_kept | apply State.passOver_kept | apply State.hostOn_kept
    | apply State.moveWindow_kept | apply State.loadImage_kept | apply State.evt_kept | apply State.setBit_kept
    | apply State.setRun_kept | apply Kept.ite | apply Goes.ite | apply Goes.next | apply Goes.after
    | apply Kept.foldl | apply Kept.foldlPair | (refine Kept.fst ‹_ = (_, _)› ?_) | split | lift_lets
    | (dsimp -zeta only) | (fail_if_no_progress apply Kept.fields) | apply Kept.tabs | apply FMap.tidy_put
    | apply FMap.tidy_mod | apply FMap.tidy_nil | apply FMap.tidy_foldl)

theorem State.passInfo_kept {r : State} {p} {n} {imm} {pc} {s : State} (hs : Kept r s) :
    Kept r (State.passInfo p n imm pc s) := by
  unfold State.passInfo
  repeat' (with_reducible first
    | assumption | (intro _; try beta_reduce) | apply State.answer_kept | apply State.abortPass_kept | apply Kept.ite)

theorem execFreePassRelease_goes {r : State} {n} {s : State} (hs : Kept r s) :
    Goes r (execFreePassRelease n s) := by
  unfold execFreePassRelease
  repeat' (with_reducible first | assumption | apply Goes.next | apply State.freeRelease_kept)

theorem execPassException_goes {r : State} {n} {cause} {code} {pc} {s : State} (hs : Kept r s) :
    Goes r (execPassException n cause code pc s) := by
  unfold execPassException
  repeat' (with_reducible first
    | assumption | (intro _; try beta_reduce) | apply Goes.next | apply State.abortPass_kept | apply Kept.ite)

theorem execPassInfo_goes {r : State} {p} {imm} {pc} {s : State} (hs : Kept r s) :
    Goes r (execPassInfo p imm pc s) := by
  unfold execPassInfo
  repeat' (with_reducible first
    | assumption | (intro _; try beta_reduce) | apply Goes.next | apply State.passInfo_kept | apply Kept.ite | split)

theorem execSchedulerFault_goes {r : State} {s : State} (hs : Kept r s) :
    Goes r (execSchedulerFault s) := by
  unfold execSchedulerFault
  repeat' (with_reducible first
    | assumption | (intro _; try beta_reduce) | apply Goes.next | apply State.blockFailure_kept | apply State.evt_kept
    | apply Kept.ite)

theorem State.selfTest_kept {r : State} {p} {pass} {s : State} (hs : Kept r s) :
    Kept r (State.selfTest p pass s) := by
  unfold State.selfTest
  repeat' (with_reducible first
    | assumption | (intro _; try beta_reduce) | apply State.healthUpdate_kept | apply State.evt_kept
    | apply State.setBit_kept | apply State.setPair_kept | apply Kept.ite)

theorem State.sliceFault_kept {r : State} {n} {s : State} (hs : Kept r s) :
    Kept r (State.sliceFault n s) := by
  unfold State.sliceFault
  repeat' (with_reducible first
    | assumption | apply State.evt_kept | apply State.stopSlice_kept | apply State.ledger_kept | apply State.inc_kept
    | apply State.healthUpdate_kept)

theorem execBlockFailure_goes {r : State} {b} {inst} {mech} {s : State} (hs : Kept r s) :
    Goes r (execBlockFailure b inst mech s) := by
  unfold execBlockFailure
  repeat' (with_reducible first
    | assumption
    | (intro x; (refine Kept.cut (s := x) ?_ (fun _ => ?_)); (on_goal 1 => subst x); (on_goal 2 => clear_value x))
    | (intro x; (refine Kept.cutPair (p := x) ?_ (fun _ => ?_)); (on_goal 1 => subst x); (on_goal 2 => clear_value x))
    | (intro x; clear_value x) | (intro _; try beta_reduce) | apply State.blockFailure_kept
    | apply State.blockFault_kept | apply Kept.ite | apply Goes.ite | apply Goes.next | apply Goes.after
    | apply Kept.foldl | apply Kept.foldlPair | (refine Kept.fst ‹_ = (_, _)› ?_) | split | lift_lets
    | (dsimp -zeta only) | (fail_if_no_progress apply Kept.fields) | apply Kept.tabs | apply FMap.tidy_put
    | apply FMap.tidy_mod | apply FMap.tidy_nil | apply FMap.tidy_foldl)

theorem State.setThermal_kept {r : State} {l} {s : State} (hs : Kept r s) :
    Kept r (State.setThermal l s) := by
  unfold State.setThermal
  repeat' (with_reducible first
    | assumption | (intro _; try beta_reduce) | apply State.setFld_kept | apply State.healthUpdate_kept
    | apply State.each_kept | apply State.dispatch_kept | apply State.showLevel_kept)

theorem execSliceFault_goes {r : State} {n} {s : State} (hs : Kept r s) :
    Goes r (execSliceFault n s) := by
  unfold execSliceFault
  repeat' (with_reducible first
    | assumption | (intro _; try beta_reduce) | apply Goes.next | apply State.dispatch_kept
    | apply State.sliceFault_kept | apply Kept.ite)

theorem execThermalLevelUp_goes {r : State} {tj} {s : State} (hs : Kept r s) :
    Goes r (execThermalLevelUp tj s) := by
  unfold execThermalLevelUp
  repeat' (with_reducible first
    | assumption
    | (intro x; (refine Kept.cut (s := x) ?_ (fun _ => ?_)); (on_goal 1 => subst x); (on_goal 2 => clear_value x))
    | (intro x; (refine Kept.cutPair (p := x) ?_ (fun _ => ?_)); (on_goal 1 => subst x); (on_goal 2 => clear_value x))
    | (intro x; clear_value x) | (intro _; try beta_reduce) | apply State.setTj_kept | apply State.setThermal_kept
    | apply State.inc_kept | apply State.evt_kept | apply Kept.ite | apply Goes.ite | apply Goes.next
    | apply Goes.after | apply Kept.foldl | apply Kept.foldlPair | (refine Kept.fst ‹_ = (_, _)› ?_) | split
    | lift_lets | (dsimp -zeta only) | (fail_if_no_progress apply Kept.fields) | apply Kept.tabs | apply FMap.tidy_put
    | apply FMap.tidy_mod | apply FMap.tidy_nil | apply FMap.tidy_foldl)

theorem execPairSelfTestDone_goes {r : State} {p} {pass} {s : State} (hs : Kept r s) :
    Goes r (execPairSelfTestDone p pass s) := by
  unfold execPairSelfTestDone
  repeat' (with_reducible first | assumption | apply Goes.next | apply State.selfTest_kept)

theorem State.strandSlice_kept {r : State} {n} {s : State} (hs : Kept r s) :
    Kept r (State.strandSlice n s) := by
  unfold State.strandSlice
  repeat' (with_reducible first
    | assumption
    | (intro x; (refine Kept.cut (s := x) ?_ (fun _ => ?_)); (on_goal 1 => subst x); (on_goal 2 => clear_value x))
    | (intro x; (refine Kept.cutPair (p := x) ?_ (fun _ => ?_)); (on_goal 1 => subst x); (on_goal 2 => clear_value x))
    | (intro x; clear_value x) | (intro _; try beta_reduce) | apply State.lifeEvt_kept | apply State.xferEnd_kept
    | apply State.lifeBusy_kept | apply State.modSl_kept | apply State.setLife_kept | apply State.sliceFault_kept
    | apply State.stopSlice_kept | apply Kept.ite | apply Goes.ite | apply Goes.next | apply Goes.after
    | apply Kept.foldl | apply Kept.foldlPair | (refine Kept.fst ‹_ = (_, _)› ?_) | split | lift_lets
    | (dsimp -zeta only) | (fail_if_no_progress apply Kept.fields) | apply Kept.tabs | apply FMap.tidy_put
    | apply FMap.tidy_mod | apply FMap.tidy_nil | apply FMap.tidy_foldl)

theorem execThermalLevelDown_goes {r : State} {tj} {s : State} (hs : Kept r s) :
    Goes r (execThermalLevelDown tj s) := by
  unfold execThermalLevelDown
  repeat' (with_reducible first
    | assumption
    | (intro x; (refine Kept.cut (s := x) ?_ (fun _ => ?_)); (on_goal 1 => subst x); (on_goal 2 => clear_value x))
    | (intro x; (refine Kept.cutPair (p := x) ?_ (fun _ => ?_)); (on_goal 1 => subst x); (on_goal 2 => clear_value x))
    | (intro x; clear_value x) | (intro _; try beta_reduce) | apply State.setTj_kept | apply State.setThermal_kept
    | apply State.evt_kept | apply Kept.ite | apply Goes.ite | apply Goes.next | apply Goes.after | apply Kept.foldl
    | apply Kept.foldlPair | (refine Kept.fst ‹_ = (_, _)› ?_) | split | lift_lets | (dsimp -zeta only)
    | (fail_if_no_progress apply Kept.fields) | apply Kept.tabs | apply FMap.tidy_put | apply FMap.tidy_mod
    | apply FMap.tidy_nil | apply FMap.tidy_foldl)

theorem State.strandPair_kept {r : State} {p} {s : State} (hs : Kept r s) :
    Kept r (State.strandPair p s) := by
  unfold State.strandPair
  repeat' (with_reducible first
    | assumption
    | (intro x; (refine Kept.cut (s := x) ?_ (fun _ => ?_)); (on_goal 1 => subst x); (on_goal 2 => clear_value x))
    | (intro x; (refine Kept.cutPair (p := x) ?_ (fun _ => ?_)); (on_goal 1 => subst x); (on_goal 2 => clear_value x))
    | (intro x; clear_value x) | (intro _; try beta_reduce) | apply State.setPair_kept | apply State.each_kept
    | apply State.strandSlice_kept | apply Kept.ite | apply Goes.ite | apply Goes.next | apply Goes.after
    | apply Kept.foldl | apply Kept.foldlPair | (refine Kept.fst ‹_ = (_, _)› ?_) | split | lift_lets
    | (dsimp -zeta only) | (fail_if_no_progress apply Kept.fields) | apply Kept.tabs | apply FMap.tidy_put
    | apply FMap.tidy_mod | apply FMap.tidy_nil | apply FMap.tidy_foldl)

theorem State.strand_kept {r : State} {s : State} (hs : Kept r s) :
    Kept r (State.strand s) := by
  unfold State.strand
  repeat' (with_reducible first
    | assumption
    | (intro x; (refine Kept.cut (s := x) ?_ (fun _ => ?_)); (on_goal 1 => subst x); (on_goal 2 => clear_value x))
    | (intro x; (refine Kept.cutPair (p := x) ?_ (fun _ => ?_)); (on_goal 1 => subst x); (on_goal 2 => clear_value x))
    | (intro x; clear_value x) | (intro _; try beta_reduce) | apply State.each_kept | apply State.evt_kept
    | apply State.strandPair_kept | apply Kept.ite | apply Goes.ite | apply Goes.next | apply Goes.after
    | apply Kept.foldl | apply Kept.foldlPair | (refine Kept.fst ‹_ = (_, _)› ?_) | split | lift_lets
    | (dsimp -zeta only) | (fail_if_no_progress apply Kept.fields) | apply Kept.tabs | apply FMap.tidy_put
    | apply FMap.tidy_mod | apply FMap.tidy_nil | apply FMap.tidy_foldl)

theorem State.pairCmd_kept {r : State} {w} {p} {ok} {st} {s : State} (hs : Kept r s) :
    Kept r (State.pairCmd w p ok st s) := by
  unfold State.pairCmd
  repeat' (with_reducible first
    | assumption
    | (intro x; (refine Kept.cut (s := x) ?_ (fun _ => ?_)); (on_goal 1 => subst x); (on_goal 2 => clear_value x))
    | (intro x; (refine Kept.cutPair (p := x) ?_ (fun _ => ?_)); (on_goal 1 => subst x); (on_goal 2 => clear_value x))
    | (intro x; clear_value x) | (intro _; try beta_reduce) | apply State.gateSup_kept | apply State.dispatch_kept
    | apply State.healthUpdate_kept | apply State.strand_kept | apply State.setPair_kept | apply State.evt_kept
    | apply Kept.ite | apply Goes.ite | apply Goes.next | apply Goes.after | apply Kept.foldl | apply Kept.foldlPair
    | (refine Kept.fst ‹_ = (_, _)› ?_) | split | lift_lets | (dsimp -zeta only)
    | (fail_if_no_progress apply Kept.fields) | apply Kept.tabs | apply FMap.tidy_put | apply FMap.tidy_mod
    | apply FMap.tidy_nil | apply FMap.tidy_foldl)

theorem State.takeover_kept {r : State} {p} {s : State} (hs : Kept r s) :
    Kept r (State.takeover p s) := by
  unfold State.takeover
  repeat' (with_reducible first
    | assumption
    | (intro x; (refine Kept.cut (s := x) ?_ (fun _ => ?_)); (on_goal 1 => subst x); (on_goal 2 => clear_value x))
    | (intro x; (refine Kept.cutPair (p := x) ?_ (fun _ => ?_)); (on_goal 1 => subst x); (on_goal 2 => clear_value x))
    | (intro x; clear_value x) | (intro _; try beta_reduce) | apply State.each_kept | apply State.takeSlice_kept
    | apply State.evt_kept | apply State.setPair_kept | apply State.dispatch_kept | apply State.healthUpdate_kept
    | apply State.strand_kept | apply Kept.ite | apply Goes.ite | apply Goes.next | apply Goes.after
    | apply Kept.foldl | apply Kept.foldlPair | (refine Kept.fst ‹_ = (_, _)› ?_) | split | lift_lets
    | (dsimp -zeta only) | (fail_if_no_progress apply Kept.fields) | apply Kept.tabs | apply FMap.tidy_put
    | apply FMap.tidy_mod | apply FMap.tidy_nil | apply FMap.tidy_foldl)

theorem execActivate_goes {r : State} {w} {p} {s : State} (hs : Kept r s) :
    Goes r (execActivate w p s) := by
  unfold execActivate
  repeat' (with_reducible first | assumption | apply Goes.next | apply State.pairCmd_kept)

theorem execReadmit_goes {r : State} {w} {p} {s : State} (hs : Kept r s) :
    Goes r (execReadmit w p s) := by
  unfold execReadmit
  repeat' (with_reducible first | assumption | apply Goes.next | apply State.pairCmd_kept)

theorem State.isolate_kept {r : State} {p} {stall} {s : State} (hs : Kept r s) :
    Kept r (State.isolate p stall s) := by
  unfold State.isolate
  repeat' (with_reducible first
    | assumption
    | (intro x; (refine Kept.cut (s := x) ?_ (fun _ => ?_)); (on_goal 1 => subst x); (on_goal 2 => clear_value x))
    | (intro x; (refine Kept.cutPair (p := x) ?_ (fun _ => ?_)); (on_goal 1 => subst x); (on_goal 2 => clear_value x))
    | (intro x; clear_value x) | (intro _; try beta_reduce) | apply State.suspend_kept | apply State.inc_kept
    | apply State.evt_kept | apply State.setPair_kept | apply State.modPr_kept | apply State.ledger_kept
    | apply State.each_kept | apply State.modSl_kept | apply State.healthUpdate_kept | apply State.strand_kept
    | apply Kept.ite | apply Goes.ite | apply Goes.next | apply Goes.after | apply Kept.foldl | apply Kept.foldlPair
    | (refine Kept.fst ‹_ = (_, _)› ?_) | split | lift_lets | (dsimp -zeta only)
    | (fail_if_no_progress apply Kept.fields) | apply Kept.tabs | apply FMap.tidy_put | apply FMap.tidy_mod
    | apply FMap.tidy_nil | apply FMap.tidy_foldl)

theorem execRetest_goes {r : State} {w} {p} {s : State} (hs : Kept r s) :
    Goes r (execRetest w p s) := by
  unfold execRetest
  repeat' (with_reducible first | assumption | apply Goes.next | apply State.pairCmd_kept)

theorem execRelease_goes {r : State} {w} {p} {s : State} (hs : Kept r s) :
    Goes r (execRelease w p s) := by
  unfold execRelease
  repeat' (with_reducible first | assumption | apply Goes.next | apply State.pairCmd_kept)

theorem execSpareTakeover_goes {r : State} {p} {s : State} (hs : Kept r s) :
    Goes r (execSpareTakeover p s) := by
  unfold execSpareTakeover
  repeat' (with_reducible first | assumption | apply Goes.next | apply State.takeover_kept)

theorem State.mismatch_kept {r : State} {p} {s : State} (hs : Kept r s) :
    Kept r (State.mismatch p s) := by
  unfold State.mismatch
  repeat' (with_reducible first
    | assumption | (intro _; try beta_reduce) | apply State.isolate_kept | apply Kept.ite)

theorem State.pairStall_kept {r : State} {p} {s : State} (hs : Kept r s) :
    Kept r (State.pairStall p s) := by
  unfold State.pairStall
  repeat' (with_reducible first
    | assumption | (intro _; try beta_reduce) | apply State.isolate_kept | apply Kept.ite)

end Sys2Proof.Machine
end

