-- ==== Sys2Proof/Laws/KeptTenants.lean ====
section
/-!
SUPPORT. What the operations of Machine/Tenants.lean keep.
-/

set_option linter.all false

namespace Sys2Proof.Machine

theorem State.sliceReset_kept {r : State} {n} {s : State} (hs : Kept r s) :
    Kept r (State.sliceReset n s) := by
  unfold State.sliceReset
  repeat' (with_reducible first | assumption | apply State.setBit_kept | apply State.modSl_kept)

theorem State.xferStart_kept {r : State} {x} {s : State} (hs : Kept r s) :
    Kept r (State.xferStart x s) := by
  unfold State.xferStart
  repeat' (with_reducible first
    | assumption | (intro _; try beta_reduce) | apply State.lifeBusy_kept | apply State.setReg_kept | apply Kept.ite
    | (refine Kept.fst ‹_ = (_, _)› ?_) | split | (dsimp only) | (fail_if_no_progress apply Kept.fields))

theorem State.restoreCmd_kept {r : State} {n} {s : State} (hs : Kept r s) :
    Kept r (State.restoreCmd n s) := by
  unfold State.restoreCmd
  repeat' (with_reducible first
    | assumption | apply State.xferStart_kept | apply State.setLife_kept | apply State.modSl_kept)

theorem State.saveCmd_kept {r : State} {n} {live} {delta} {s : State} (hs : Kept r s) :
    Kept r (State.saveCmd n live delta s) := by
  unfold State.saveCmd
  repeat' (with_reducible first
    | assumption
    | (intro x; (refine Kept.cut (s := x) ?_ (fun _ => ?_)); (on_goal 1 => subst x); (on_goal 2 => clear_value x))
    | (intro x; (refine Kept.cutPair (p := x) ?_ (fun _ => ?_)); (on_goal 1 => subst x); (on_goal 2 => clear_value x))
    | (intro x; clear_value x) | (intro _; try beta_reduce) | apply State.xferStart_kept | apply State.setBit_kept
    | apply State.setLife_kept | apply State.modSl_kept | apply Kept.ite | apply Goes.ite | apply Goes.next
    | apply Goes.after | apply Kept.foldl | apply Kept.foldlPair | (refine Kept.fst ‹_ = (_, _)› ?_) | split
    | lift_lets | (dsimp -zeta only) | (fail_if_no_progress apply Kept.fields) | apply Kept.tabs | apply FMap.tidy_put
    | apply FMap.tidy_mod | apply FMap.tidy_nil | apply FMap.tidy_foldl)

theorem State.moveCmd_kept {r : State} {n} {pair} {page} {s : State} (hs : Kept r s) :
    Kept r (State.moveCmd n pair page s) := by
  unfold State.moveCmd
  repeat' (with_reducible first
    | assumption | (intro _; try beta_reduce) | apply State.xferStart_kept | apply State.modSl_kept
    | apply State.setLife_kept | apply Kept.ite)

theorem State.sliceBind_kept {r : State} {n} {v} {s : State} (hs : Kept r s) :
    Kept r (State.sliceBind n v s) := by
  unfold State.sliceBind
  repeat' (with_reducible first
    | assumption | (intro _; try beta_reduce) | apply State.lifeEvt_kept | apply State.setReg_kept | apply Kept.ite)

theorem State.withdraw_kept {r : State} {n} {s : State} (hs : Kept r s) :
    Kept r (State.withdraw n s) := by
  unfold State.withdraw
  repeat' (with_reducible first
    | assumption | (intro _; try beta_reduce) | apply State.each_kept | apply State.keyAbort_kept | apply Kept.ite
    | (refine Kept.fst ‹_ = (_, _)› ?_) | split | (dsimp only) | (fail_if_no_progress apply Kept.fields))

theorem State.resume_kept {r : State} {n} {s : State} (hs : Kept r s) :
    Kept r (State.resume n s) := by
  unfold State.resume
  repeat' (with_reducible first
    | assumption
    | (intro x; (refine Kept.cut (s := x) ?_ (fun _ => ?_)); (on_goal 1 => subst x); (on_goal 2 => clear_value x))
    | (intro x; (refine Kept.cutPair (p := x) ?_ (fun _ => ?_)); (on_goal 1 => subst x); (on_goal 2 => clear_value x))
    | (intro x; clear_value x) | (intro _; try beta_reduce) | apply State.setFld_kept | apply State.modSl_kept
    | apply State.dispatch_kept | apply State.lifeEvt_kept | apply State.lifeBusy_kept | apply State.setRun_kept
    | apply State.setLife_kept | apply Kept.ite | apply Goes.ite | apply Goes.next | apply Goes.after
    | apply Kept.foldl | apply Kept.foldlPair | (refine Kept.fst ‹_ = (_, _)› ?_) | split | lift_lets
    | (dsimp -zeta only) | (fail_if_no_progress apply Kept.fields) | apply Kept.tabs | apply FMap.tidy_put
    | apply FMap.tidy_mod | apply FMap.tidy_nil | apply FMap.tidy_foldl)

theorem State.resumeCmd_kept {r : State} {n} {at_} {s : State} (hs : Kept r s) :
    Kept r (State.resumeCmd n at_ s) := by
  unfold State.resumeCmd
  repeat' (with_reducible first
    | assumption | (intro _; try beta_reduce) | apply State.lifeEvt_kept | apply State.resume_kept
    | apply State.modSl_kept | apply State.lifeBusy_kept | apply State.setLife_kept | apply State.setFld_kept
    | apply Kept.ite)

theorem State.quiesced_kept {r : State} {n} {s : State} (hs : Kept r s) :
    Kept r (State.quiesced n s) := by
  unfold State.quiesced
  repeat' (with_reducible first
    | assumption | apply State.modSl_kept | apply State.showClassA_kept | apply State.lifeEvt_kept
    | apply State.lifeBusy_kept | apply State.setRun_kept | apply State.setLife_kept)

theorem State.moveOn_kept {r : State} {n} {pair} {go} {s : State} (hs : Kept r s) :
    Kept r (State.moveOn n pair go s) := by
  unfold State.moveOn
  repeat' (with_reducible first
    | assumption
    | (intro x; (refine Kept.cut (s := x) ?_ (fun _ => ?_)); (on_goal 1 => subst x); (on_goal 2 => clear_value x))
    | (intro x; (refine Kept.cutPair (p := x) ?_ (fun _ => ?_)); (on_goal 1 => subst x); (on_goal 2 => clear_value x))
    | (intro x; clear_value x) | (intro _; try beta_reduce) | apply State.dispatch_kept | apply State.passOver_kept
    | apply Kept.ite | apply Goes.ite | apply Goes.next | apply Goes.after | apply Kept.foldl | apply Kept.foldlPair
    | (refine Kept.fst ‹_ = (_, _)› ?_) | split | lift_lets | (dsimp -zeta only)
    | (fail_if_no_progress apply Kept.fields) | apply Kept.tabs | apply FMap.tidy_put | apply FMap.tidy_mod
    | apply FMap.tidy_nil | apply FMap.tidy_foldl)

theorem State.quiesceDone_kept {r : State} {n} {s : State} (hs : Kept r s) :
    Kept r (State.quiesceDone n s) := by
  unfold State.quiesceDone
  repeat' (with_reducible first
    | assumption | (intro _; try beta_reduce) | apply State.quiesced_kept | apply Kept.ite)

theorem State.xferAbort_kept {r : State} {n} {s : State} (hs : Kept r s) :
    Kept r (State.xferAbort n s) := by
  unfold State.xferAbort
  repeat' (with_reducible first
    | assumption
    | (intro x; (refine Kept.cut (s := x) ?_ (fun _ => ?_)); (on_goal 1 => subst x); (on_goal 2 => clear_value x))
    | (intro x; (refine Kept.cutPair (p := x) ?_ (fun _ => ?_)); (on_goal 1 => subst x); (on_goal 2 => clear_value x))
    | (intro x; clear_value x) | (intro _; try beta_reduce) | apply State.modSl_kept | apply State.lifeBusy_kept
    | apply State.xferEnd_kept | apply State.lifeEvt_kept | apply State.setLife_kept | apply State.lifeResult_kept
    | apply State.moveOn_kept | apply Kept.ite | apply Goes.ite | apply Goes.next | apply Goes.after
    | apply Kept.foldl | apply Kept.foldlPair | (refine Kept.fst ‹_ = (_, _)› ?_) | split | lift_lets
    | (dsimp -zeta only) | (fail_if_no_progress apply Kept.fields) | apply Kept.tabs | apply FMap.tidy_put
    | apply FMap.tidy_mod | apply FMap.tidy_nil | apply FMap.tidy_foldl)

theorem State.quiesce_kept {r : State} {n} {s : State} (hs : Kept r s) :
    Kept r (State.quiesce n s) := by
  unfold State.quiesce
  repeat' (with_reducible first
    | assumption | apply State.discardCommit_kept | apply State.modSl_kept | apply State.lifeBusy_kept
    | apply State.setLife_kept)

theorem State.moveImage_kept {r : State} {n} {page} {s : State} (hs : Kept r s) :
    Kept r (State.moveImage n page s) := by
  unfold State.moveImage
  repeat' (with_reducible first
    | assumption
    | (intro x; (refine Kept.cut (s := x) ?_ (fun _ => ?_)); (on_goal 1 => subst x); (on_goal 2 => clear_value x))
    | (intro x; (refine Kept.cutPair (p := x) ?_ (fun _ => ?_)); (on_goal 1 => subst x); (on_goal 2 => clear_value x))
    | (intro x; clear_value x) | (intro _; try beta_reduce) | apply State.dmaCopy_kept | apply Kept.ite
    | apply Goes.ite | apply Goes.next | apply Goes.after | apply Kept.foldl | apply Kept.foldlPair
    | (refine Kept.fst ‹_ = (_, _)› ?_) | split | lift_lets | (dsimp -zeta only)
    | (fail_if_no_progress apply Kept.fields) | apply Kept.tabs | apply FMap.tidy_put | apply FMap.tidy_mod
    | apply FMap.tidy_nil | apply FMap.tidy_foldl)

theorem execQuiesceComplete_goes {r : State} {n} {s : State} (hs : Kept r s) :
    Goes r (execQuiesceComplete n s) := by
  unfold execQuiesceComplete
  repeat' (with_reducible first | assumption | apply Goes.next | apply State.quiesceDone_kept)

theorem State.armedResume_kept {r : State} {n} {s : State} (hs : Kept r s) :
    Kept r (State.armedResume n s) := by
  unfold State.armedResume
  repeat' (with_reducible first
    | assumption | (intro _; try beta_reduce) | apply State.when_kept | apply State.lifeEvt_kept
    | apply State.resume_kept | apply State.resumed_kept | apply State.takeIn_kept | apply Kept.ite | split)

theorem State.saveDone_kept {r : State} {n} {s : State} (hs : Kept r s) :
    Kept r (State.saveDone n s) := by
  unfold State.saveDone
  repeat' (with_reducible first
    | assumption
    | (intro x; (refine Kept.cut (s := x) ?_ (fun _ => ?_)); (on_goal 1 => subst x); (on_goal 2 => clear_value x))
    | (intro x; (refine Kept.cutPair (p := x) ?_ (fun _ => ?_)); (on_goal 1 => subst x); (on_goal 2 => clear_value x))
    | (intro x; clear_value x) | (intro _; try beta_reduce) | apply State.dmaWords_kept | apply State.dmaCopy_kept
    | apply State.each_kept | apply State.dma_kept | apply State.modSl_kept | apply State.setBit_kept
    | apply State.setLife_kept | apply State.lifeEvt_kept | apply State.inc_kept | apply State.xferEnd_kept
    | apply Kept.ite | apply Goes.ite | apply Goes.next | apply Goes.after | apply Kept.foldl | apply Kept.foldlPair
    | (refine Kept.fst ‹_ = (_, _)› ?_) | split | lift_lets | (dsimp -zeta only)
    | (fail_if_no_progress apply Kept.fields) | apply Kept.tabs | apply FMap.tidy_put | apply FMap.tidy_mod
    | apply FMap.tidy_nil | apply FMap.tidy_foldl)

theorem execSaveComplete_goes {r : State} {n} {s : State} (hs : Kept r s) :
    Goes r (execSaveComplete n s) := by
  unfold execSaveComplete
  repeat' (with_reducible first | assumption | apply Goes.next | apply State.saveDone_kept)

theorem State.moveTargetLost_kept {r : State} {p} {s : State} (hs : Kept r s) :
    Kept r (State.moveTargetLost p s) := by
  unfold State.moveTargetLost
  repeat' (with_reducible first
    | assumption | (intro _; try beta_reduce) | apply State.xferAbort_kept | apply State.lifeEvt_kept
    | apply State.xferEnd_kept | apply State.modSl_kept | apply Kept.ite | split)

theorem State.moveDone_kept {r : State} {n} {s : State} (hs : Kept r s) :
    Kept r (State.moveDone n s) := by
  unfold State.moveDone
  repeat' (with_reducible first
    | assumption
    | (intro x; (refine Kept.cut (s := x) ?_ (fun _ => ?_)); (on_goal 1 => subst x); (on_goal 2 => clear_value x))
    | (intro x; (refine Kept.cutPair (p := x) ?_ (fun _ => ?_)); (on_goal 1 => subst x); (on_goal 2 => clear_value x))
    | (intro x; clear_value x) | (intro _; try beta_reduce) | apply State.hostOn_kept | apply State.moveWindow_kept
    | apply State.moveImage_kept | apply State.setLife_kept | apply State.modSl_kept | apply State.lifeEvt_kept
    | apply State.inc_kept | apply State.xferEnd_kept | apply State.moveOn_kept | apply Kept.ite | apply Goes.ite
    | apply Goes.next | apply Goes.after | apply Kept.foldl | apply Kept.foldlPair | (refine Kept.fst ‹_ = (_, _)› ?_)
    | split | lift_lets | (dsimp -zeta only) | (fail_if_no_progress apply Kept.fields) | apply Kept.tabs
    | apply FMap.tidy_put | apply FMap.tidy_mod | apply FMap.tidy_nil | apply FMap.tidy_foldl)

theorem State.restoreDone_kept {r : State} {n} {s : State} (hs : Kept r s) :
    Kept r (State.restoreDone n s) := by
  unfold State.restoreDone
  repeat' (with_reducible first
    | assumption
    | (intro x; (refine Kept.cut (s := x) ?_ (fun _ => ?_)); (on_goal 1 => subst x); (on_goal 2 => clear_value x))
    | (intro x; (refine Kept.cutPair (p := x) ?_ (fun _ => ?_)); (on_goal 1 => subst x); (on_goal 2 => clear_value x))
    | (intro x; clear_value x) | (intro _; try beta_reduce) | apply State.dmaCopy_kept | apply State.each_kept
    | apply State.modSl_kept | apply State.setBit_kept | apply State.loadImage_kept | apply State.lifeEvt_kept
    | apply State.inc_kept | apply State.xferEnd_kept | apply State.setLife_kept | apply Kept.ite | apply Goes.ite
    | apply Goes.next | apply Goes.after | apply Kept.foldl | apply Kept.foldlPair | (refine Kept.fst ‹_ = (_, _)› ?_)
    | split | lift_lets | (dsimp -zeta only) | (fail_if_no_progress apply Kept.fields) | apply Kept.tabs
    | apply FMap.tidy_put | apply FMap.tidy_mod | apply FMap.tidy_nil | apply FMap.tidy_foldl)

theorem execArmedResume_goes {r : State} {n} {s : State} (hs : Kept r s) :
    Goes r (execArmedResume n s) := by
  unfold execArmedResume
  repeat' (with_reducible first | assumption | apply Goes.next | apply State.armedResume_kept)

theorem execMoveComplete_goes {r : State} {n} {s : State} (hs : Kept r s) :
    Goes r (execMoveComplete n s) := by
  unfold execMoveComplete
  repeat' (with_reducible first | assumption | apply Goes.next | apply State.moveDone_kept)

theorem execRestoreComplete_goes {r : State} {n} {s : State} (hs : Kept r s) :
    Goes r (execRestoreComplete n s) := by
  unfold execRestoreComplete
  repeat' (with_reducible first | assumption | apply Goes.next | apply State.restoreDone_kept)

theorem State.quiesceForce_kept {r : State} {n} {s : State} (hs : Kept r s) :
    Kept r (State.quiesceForce n s) := by
  unfold State.quiesceForce
  repeat' (with_reducible first
    | assumption | (intro _; try beta_reduce) | apply State.abortPass_kept | apply State.drew_kept
    | apply State.dispatch_kept | apply State.loadImage_kept | apply State.offPair_kept | apply State.when_kept
    | apply State.sliceFault_kept | apply State.modSl_kept | apply State.withdraw_kept | apply State.lifeEvt_kept
    | apply State.quiesced_kept | apply Kept.ite | split)

theorem State.lifeCmd_kept {r : State} {w} {n} {cmd} {refusal} {f} {s : State}
    (hf : ∀ y6, Kept r y6 → Kept r (f y6)) (hs : Kept r s) :
    Kept r (State.lifeCmd w n cmd refusal f s) := by
  unfold State.lifeCmd
  repeat' (with_reducible first
    | assumption | (intro _; try beta_reduce) | apply State.gateSup_kept | apply State.setFld_kept
    | apply State.lifeResult_kept | apply hf | apply Kept.ite)

theorem execQuiesce_goes {r : State} {w} {n} {s : State} (hs : Kept r s) :
    Goes r (execQuiesce w n s) := by
  unfold execQuiesce
  repeat' (with_reducible first | assumption | apply Goes.next | apply State.lifeCmd_kept | apply State.quiesce_kept)

theorem execResume_goes {r : State} {w} {n} {at_} {s : State} (hs : Kept r s) :
    Goes r (execResume w n at_ s) := by
  unfold execResume
  repeat' (with_reducible first | assumption | apply Goes.next | apply State.lifeCmd_kept | apply State.resumeCmd_kept)

theorem execMove_goes {r : State} {w} {n} {pair} {page} {s : State} (hs : Kept r s) :
    Goes r (execMove w n pair page s) := by
  unfold execMove
  repeat' (with_reducible first | assumption | apply Goes.next | apply State.lifeCmd_kept | apply State.moveCmd_kept)

theorem execSliceBindWrite_goes {r : State} {w} {n} {value} {s : State} (hs : Kept r s) :
    Goes r (execSliceBindWrite w n value s) := by
  unfold execSliceBindWrite
  repeat' (with_reducible first | assumption | apply Goes.next | apply State.gateSup_kept | apply State.sliceBind_kept)

theorem execSave_goes {r : State} {w} {n} {live} {delta} {s : State} (hs : Kept r s) :
    Goes r (execSave w n live delta s) := by
  unfold execSave
  repeat' (with_reducible first | assumption | apply Goes.next | apply State.lifeCmd_kept | apply State.saveCmd_kept)

theorem execQuiesceTimeout_goes {r : State} {n} {s : State} (hs : Kept r s) :
    Goes r (execQuiesceTimeout n s) := by
  unfold execQuiesceTimeout
  repeat' (with_reducible first | assumption | apply Goes.next | apply State.quiesceForce_kept)

theorem execSliceReset_goes {r : State} {w} {n} {s : State} (hs : Kept r s) :
    Goes r (execSliceReset w n s) := by
  unfold execSliceReset
  repeat' (with_reducible first | assumption | apply Goes.next | apply State.lifeCmd_kept | apply State.sliceReset_kept)

theorem execSliceAbort_goes {r : State} {w} {n} {s : State} (hs : Kept r s) :
    Goes r (execSliceAbort w n s) := by
  unfold execSliceAbort
  repeat' (with_reducible first | assumption | apply Goes.next | apply State.lifeCmd_kept | apply State.xferAbort_kept)

theorem execRestore_goes {r : State} {w} {n} {s : State} (hs : Kept r s) :
    Goes r (execRestore w n s) := by
  unfold execRestore
  repeat' (with_reducible first | assumption | apply Goes.next | apply State.lifeCmd_kept | apply State.restoreCmd_kept)

end Sys2Proof.Machine
end

