-- ==== Sys2Proof/Laws/KeptTwin.lean ====
section
/-!
SUPPORT. What the operations of Machine/Twin.lean keep.
-/

set_option linter.all false

namespace Sys2Proof.Machine

theorem State.setPhase_kept {r : State} {p} {s : State} (hs : Kept r s) :
    Kept r (State.setPhase p s) := by
  unfold State.setPhase
  repeat' (with_reducible first | assumption | apply State.setFld_kept)

theorem State.showArb_kept {r : State} {s : State} (hs : Kept r s) :
    Kept r (State.showArb s) := by
  unfold State.showArb
  repeat' (with_reducible first | assumption | apply State.setFld_kept)

theorem State.modRed_kept {r : State} {f} {s : State} (hs : Kept r s) :
    Kept r (State.modRed f s) := by
  unfold State.modRed
  repeat' (with_reducible first
    | assumption | (intro _; try beta_reduce) | apply Kept.ite | (refine Kept.fst ‹_ = (_, _)› ?_) | split
    | (dsimp only) | (fail_if_no_progress apply Kept.fields))

theorem State.epochCopy_kept {r : State} {s : State} (hs : Kept r s) :
    Kept r (State.epochCopy s) := by
  unfold State.epochCopy
  repeat' (with_reducible first
    | assumption | (intro _; try beta_reduce) | apply State.modRed_kept | apply Kept.ite)

theorem State.setMember_kept {r : State} {st} {s : State} (hs : Kept r s) :
    Kept r (State.setMember st s) := by
  unfold State.setMember
  repeat' (with_reducible first | assumption | apply State.setFld_kept)

theorem State.verdictTimeout_kept {r : State} {s : State} (hs : Kept r s) :
    Kept r (State.verdictTimeout s) := by
  unfold State.verdictTimeout
  repeat' (with_reducible first
    | assumption
    | (intro x; (refine Kept.cut (s := x) ?_ (fun _ => ?_)); (on_goal 1 => subst x); (on_goal 2 => clear_value x))
    | (intro x; (refine Kept.cutPair (p := x) ?_ (fun _ => ?_)); (on_goal 1 => subst x); (on_goal 2 => clear_value x))
    | (intro x; clear_value x) | (intro _; try beta_reduce) | apply State.modRed_kept | apply Kept.ite
    | apply Goes.ite | apply Goes.next | apply Goes.after | apply Kept.foldl | apply Kept.foldlPair
    | (refine Kept.fst ‹_ = (_, _)› ?_) | split | lift_lets | (dsimp -zeta only)
    | (fail_if_no_progress apply Kept.fields) | apply Kept.tabs | apply FMap.tidy_put | apply FMap.tidy_mod
    | apply FMap.tidy_nil | apply FMap.tidy_foldl)

theorem execVerdictTargetTimeout_goes {r : State} {s : State} (hs : Kept r s) :
    Goes r (execVerdictTargetTimeout s) := by
  unfold execVerdictTargetTimeout
  repeat' (with_reducible first
    | assumption
    | (intro x; (refine Kept.cut (s := x) ?_ (fun _ => ?_)); (on_goal 1 => subst x); (on_goal 2 => clear_value x))
    | (intro x; (refine Kept.cutPair (p := x) ?_ (fun _ => ?_)); (on_goal 1 => subst x); (on_goal 2 => clear_value x))
    | (intro x; clear_value x) | (intro _; try beta_reduce) | apply State.verdictTimeout_kept | apply Kept.ite
    | apply Goes.ite | apply Goes.next | apply Goes.after | apply Kept.foldl | apply Kept.foldlPair
    | (refine Kept.fst ‹_ = (_, _)› ?_) | split | lift_lets | (dsimp -zeta only)
    | (fail_if_no_progress apply Kept.fields) | apply Kept.tabs | apply FMap.tidy_put | apply FMap.tidy_mod
    | apply FMap.tidy_nil | apply FMap.tidy_foldl)

theorem State.raiseStNums_kept {r : State} {s : State} (hs : Kept r s) :
    Kept r (State.raiseStNums s) := by
  unfold State.raiseStNums
  repeat' (with_reducible first
    | assumption | (intro _; try beta_reduce) | apply State.each_kept | apply State.setReg_kept)

theorem State.verdictAckIn_kept {r : State} {x} {s : State} (hs : Kept r s) :
    Kept r (State.verdictAckIn x s) := by
  unfold State.verdictAckIn
  repeat' (with_reducible first | assumption | apply State.modRed_kept)

theorem State.sent_kept {r : State} {ty} {s : State} (hs : Kept r s) :
    Kept r (State.sent ty s) := by
  unfold State.sent
  repeat' (with_reducible first | assumption | apply State.modRed_kept)

theorem State.raiseEpoch_kept {r : State} {e} {s : State} (hs : Kept r s) :
    Kept r (State.raiseEpoch e s) := by
  unfold State.raiseEpoch
  repeat' (with_reducible first
    | assumption | (intro _; try beta_reduce) | apply State.epochCopy_kept | apply State.setReg_kept | apply Kept.ite)

theorem State.ckptAckIn_kept {r : State} {x} {s : State} (hs : Kept r s) :
    Kept r (State.ckptAckIn x s) := by
  unfold State.ckptAckIn
  repeat' (with_reducible first
    | assumption | (intro _; try beta_reduce) | apply State.setBit_kept | apply State.evt_kept | apply Kept.ite)

theorem State.arbHbIn_kept {r : State} {x} {s : State} (hs : Kept r s) :
    Kept r (State.arbHbIn x s) := by
  unfold State.arbHbIn
  repeat' (with_reducible first
    | assumption | (intro _; try beta_reduce) | apply State.modRed_kept | apply State.setBit_kept
    | apply State.when_kept | apply State.evt_kept | apply State.showArb_kept | apply Kept.ite)

theorem State.hoOffset_kept {r : State} {g} {t} {s : State} (hs : Kept r s) :
    Kept r (State.hoOffset g t s) := by
  unfold State.hoOffset
  repeat' (with_reducible first
    | assumption | (intro _; try beta_reduce) | apply State.setBit_kept | apply State.setReg_kept | apply Kept.ite
    | split)

theorem State.ckptDataIn_kept {r : State} {x} {s : State} (hs : Kept r s) :
    Kept r (State.ckptDataIn x s) := by
  unfold State.ckptDataIn
  repeat' (with_reducible first
    | assumption
    | (intro x; (refine Kept.cut (s := x) ?_ (fun _ => ?_)); (on_goal 1 => subst x); (on_goal 2 => clear_value x))
    | (intro x; (refine Kept.cutPair (p := x) ?_ (fun _ => ?_)); (on_goal 1 => subst x); (on_goal 2 => clear_value x))
    | (intro x; clear_value x) | (intro _; try beta_reduce) | apply State.dma_kept | apply State.modRed_kept
    | apply Kept.ite | apply Goes.ite | apply Goes.next | apply Goes.after | apply Kept.foldl | apply Kept.foldlPair
    | (refine Kept.fst ‹_ = (_, _)› ?_) | split | lift_lets | (dsimp -zeta only)
    | (fail_if_no_progress apply Kept.fields) | apply Kept.tabs | apply FMap.tidy_put | apply FMap.tidy_mod
    | apply FMap.tidy_nil | apply FMap.tidy_foldl)

theorem State.enterStandby_kept {r : State} {s : State} (hs : Kept r s) :
    Kept r (State.enterStandby s) := by
  unfold State.enterStandby
  repeat' (with_reducible first
    | assumption | (intro _; try beta_reduce) | apply State.modRed_kept | apply State.setMember_kept
    | apply State.setBit_kept | apply State.cxOffSoon_kept | apply Kept.ite)

theorem State.lzIn_kept {r : State} {port} {ty} {m} {f} {s : State} (hf : ∀ y5 y6, Kept r y6 → Kept r (f y5 y6))
    (hs : Kept r s) :
    Kept r (State.lzIn port ty m f s) := by
  unfold State.lzIn
  repeat' (with_reducible first
    | assumption | (intro _; try beta_reduce) | apply State.evt_kept | apply State.inc_kept
    | apply State.raiseEpoch_kept | apply hf | apply Kept.ite | split)

theorem execMateLost_goes {r : State} {s : State} (hs : Kept r s) :
    Goes r (execMateLost s) := by
  unfold execMateLost
  repeat' (with_reducible first
    | assumption | (intro _; try beta_reduce) | apply Goes.next | apply State.setBit_kept | apply State.evt_kept
    | apply State.inc_kept | apply Kept.ite | split)

theorem execCkptAck_goes {r : State} {m} {s : State} (hs : Kept r s) :
    Goes r (execCkptAck m s) := by
  unfold execCkptAck
  repeat' (with_reducible first | assumption | apply Goes.next | apply State.lzIn_kept | apply State.ckptAckIn_kept)

theorem execCkptData_goes {r : State} {m} {s : State} (hs : Kept r s) :
    Goes r (execCkptData m s) := by
  unfold execCkptData
  repeat' (with_reducible first | assumption | apply Goes.next | apply State.lzIn_kept | apply State.ckptDataIn_kept)

theorem State.learnHolder_kept {r : State} {s : State} (hs : Kept r s) :
    Kept r (State.learnHolder s) := by
  unfold State.learnHolder
  repeat' (with_reducible first
    | assumption | (intro _; try beta_reduce) | apply State.enterStandby_kept | apply Kept.ite)

theorem State.planAbandon_kept {r : State} {s : State} (hs : Kept r s) :
    Kept r (State.planAbandon s) := by
  unfold State.planAbandon
  repeat' (with_reducible first
    | assumption | (intro _; try beta_reduce) | apply State.each_kept | apply State.resume_kept
    | apply State.setMember_kept | apply State.modRed_kept | apply State.evt_kept | apply State.setPhase_kept
    | apply Kept.ite | split)

theorem execVerdictAck_goes {r : State} {second} {m} {s : State} (hs : Kept r s) :
    Goes r (execVerdictAck second m s) := by
  unfold execVerdictAck
  repeat' (with_reducible first
    | assumption | (intro _; try beta_reduce) | apply Goes.next | apply State.lzIn_kept
    | apply State.verdictAckIn_kept | apply Kept.ite)

theorem State.yieldReqIn_kept {r : State} {x} {s : State} (hs : Kept r s) :
    Kept r (State.yieldReqIn x s) := by
  unfold State.yieldReqIn
  repeat' (with_reducible first
    | assumption | (intro _; try beta_reduce) | apply State.ledger_kept | apply State.modRed_kept | apply Kept.ite)

theorem execArbHb_goes {r : State} {second} {m} {s : State} (hs : Kept r s) :
    Goes r (execArbHb second m s) := by
  unfold execArbHb
  repeat' (with_reducible first
    | assumption | (intro _; try beta_reduce) | apply Goes.next | apply State.lzIn_kept | apply State.arbHbIn_kept
    | apply Kept.ite)

theorem State.arbLost_kept {r : State} {r0} {s : State} (hs : Kept r s) :
    Kept r (State.arbLost r0 s) := by
  unfold State.arbLost
  repeat' (with_reducible first
    | assumption | (intro _; try beta_reduce) | apply State.ledger_kept | apply State.evt_kept | apply State.inc_kept
    | apply State.setBit_kept | apply Kept.ite | split)

theorem State.arbStatusIn_kept {r : State} {x} {s : State} (hs : Kept r s) :
    Kept r (State.arbStatusIn x s) := by
  unfold State.arbStatusIn
  repeat' (with_reducible first
    | assumption | (intro _; try beta_reduce) | apply State.modRed_kept | apply State.raiseEpoch_kept
    | apply State.setBit_kept | apply State.setMember_kept | apply State.when_kept | apply State.learnHolder_kept
    | apply Kept.ite)

theorem execArbLost_goes {r : State} {r0} {s : State} (hs : Kept r s) :
    Goes r (execArbLost r0 s) := by
  unfold execArbLost
  repeat' (with_reducible first | assumption | apply Goes.next | apply State.arbLost_kept)

theorem execArbStatus_goes {r : State} {m} {s : State} (hs : Kept r s) :
    Goes r (execArbStatus m s) := by
  unfold execArbStatus
  repeat' (with_reducible first | assumption | apply Goes.next | apply State.lzIn_kept | apply State.arbStatusIn_kept)

theorem execYieldReq_goes {r : State} {second} {m} {s : State} (hs : Kept r s) :
    Goes r (execYieldReq second m s) := by
  unfold execYieldReq
  repeat' (with_reducible first
    | assumption | (intro _; try beta_reduce) | apply Goes.next | apply State.lzIn_kept | apply State.yieldReqIn_kept
    | apply Kept.ite)

theorem State.gainMandate_kept {r : State} {st} {e} {s : State} (hs : Kept r s) :
    Kept r (State.gainMandate st e s) := by
  unfold State.gainMandate
  repeat' (with_reducible first
    | assumption | (intro _; try beta_reduce) | apply State.setReg_kept | apply State.modRed_kept
    | apply State.setBit_kept | apply State.setMember_kept | apply State.epochCopy_kept | apply State.ledger_kept
    | apply State.inc_kept | apply State.evt_kept | apply State.guardArm_kept | apply State.armDelay_kept
    | apply State.pubGained_kept | apply State.drive_kept | apply Kept.ite)

theorem State.releaseMandate_kept {r : State} {st} {s : State} (hs : Kept r s) :
    Kept r (State.releaseMandate st s) := by
  unfold State.releaseMandate
  repeat' (with_reducible first
    | assumption | apply State.setBit_kept | apply State.setMember_kept | apply State.epochCopy_kept
    | apply State.modRed_kept | apply State.ledger_kept | apply State.inc_kept | apply State.evt_kept
    | apply State.canMandateLost_kept | apply State.guardArm_kept | apply State.drive_kept)

theorem State.checkpoint_kept {r : State} {s : State} (hs : Kept r s) :
    Kept r (State.checkpoint s) := by
  unfold State.checkpoint
  repeat' (with_reducible first
    | assumption | (intro _; try beta_reduce) | apply State.evt_kept | apply State.inc_kept | apply State.modRed_kept
    | apply State.each_kept | apply State.lzSend_kept | apply State.setBit_kept | apply State.setReg_kept
    | apply Kept.ite)

theorem State.takeMandate_kept {r : State} {s : State} (hs : Kept r s) :
    Kept r (State.takeMandate s) := by
  unfold State.takeMandate
  repeat' (with_reducible first
    | assumption | (intro _; try beta_reduce) | apply State.gainMandate_kept | apply State.raiseStNums_kept
    | apply Kept.ite | split)

theorem State.sendMaint_kept {r : State} {req} {s : State} (hs : Kept r s) :
    Kept r (State.sendMaint req s) := by
  unfold State.sendMaint
  repeat' (with_reducible first
    | assumption | (intro _; try beta_reduce) | apply State.lzSend_kept | apply State.modRed_kept
    | apply State.sent_kept | apply Kept.ite)

theorem State.sendDealer_kept {r : State} {s : State} (hs : Kept r s) :
    Kept r (State.sendDealer s) := by
  unfold State.sendDealer
  repeat' (with_reducible first
    | assumption | (intro _; try beta_reduce) | apply State.casSend_kept | apply Kept.ite
    | (refine Kept.fst ‹_ = (_, _)› ?_) | split | (dsimp only) | (fail_if_no_progress apply Kept.fields))

theorem State.sendReady_kept {r : State} {s : State} (hs : Kept r s) :
    Kept r (State.sendReady s) := by
  unfold State.sendReady
  repeat' (with_reducible first
    | assumption | (intro _; try beta_reduce) | apply State.lzSend_kept | apply State.modRed_kept | apply Kept.ite
    | split)

theorem State.yieldIn_kept {r : State} {x} {s : State} (hs : Kept r s) :
    Kept r (State.yieldIn x s) := by
  unfold State.yieldIn
  repeat' (with_reducible first
    | assumption | (intro _; try beta_reduce) | apply State.each_kept | apply State.setReg_kept
    | apply State.gainMandate_kept | apply Kept.ite | (refine Kept.fst ‹_ = (_, _)› ?_) | split | (dsimp only)
    | (fail_if_no_progress apply Kept.fields))

theorem State.ckAck_kept {r : State} {set} {result} {s : State} (hs : Kept r s) :
    Kept r (State.ckAck set result s) := by
  unfold State.ckAck
  repeat' (with_reducible first | assumption | apply State.lzSend_kept)

theorem State.mandateLoss_kept {r : State} {s : State} (hs : Kept r s) :
    Kept r (State.mandateLoss s) := by
  unfold State.mandateLoss
  repeat' (with_reducible first
    | assumption | (intro _; try beta_reduce) | apply State.releaseMandate_kept | apply Kept.ite)

theorem State.askYield_kept {r : State} {id} {s : State} (hs : Kept r s) :
    Kept r (State.askYield id s) := by
  unfold State.askYield
  repeat' (with_reducible first
    | assumption
    | (intro x; (refine Kept.cut (s := x) ?_ (fun _ => ?_)); (on_goal 1 => subst x); (on_goal 2 => clear_value x))
    | (intro x; (refine Kept.cutPair (p := x) ?_ (fun _ => ?_)); (on_goal 1 => subst x); (on_goal 2 => clear_value x))
    | (intro x; clear_value x) | (intro _; try beta_reduce) | apply State.lzSend_kept | apply State.sent_kept
    | apply Kept.ite | apply Goes.ite | apply Goes.next | apply Goes.after | apply Kept.foldl | apply Kept.foldlPair
    | (refine Kept.fst ‹_ = (_, _)› ?_) | split | lift_lets | (dsimp -zeta only)
    | (fail_if_no_progress apply Kept.fields) | apply Kept.tabs | apply FMap.tidy_put | apply FMap.tidy_mod
    | apply FMap.tidy_nil | apply FMap.tidy_foldl)

theorem State.handbackPoint_kept {r : State} {s : State} (hs : Kept r s) :
    Kept r (State.handbackPoint s) := by
  unfold State.handbackPoint
  repeat' (with_reducible first
    | assumption | (intro _; try beta_reduce) | apply State.planAbandon_kept | apply State.enterStandby_kept
    | apply State.releaseMandate_kept | apply State.setPhase_kept | apply State.modRed_kept | apply State.lzSend_kept
    | apply Kept.ite | split)

theorem State.sendVerdict_kept {r : State} {s : State} (hs : Kept r s) :
    Kept r (State.sendVerdict s) := by
  unfold State.sendVerdict
  repeat' (with_reducible first
    | assumption | (intro _; try beta_reduce) | apply State.modRed_kept | apply State.lzSend_kept | apply Kept.ite
    | split)

theorem State.sendYield_kept {r : State} {s : State} (hs : Kept r s) :
    Kept r (State.sendYield s) := by
  unfold State.sendYield
  repeat' (with_reducible first
    | assumption | (intro _; try beta_reduce) | apply State.lzSend_kept | apply State.modRed_kept | apply Kept.ite
    | split)

theorem execMandateLoss_goes {r : State} {s : State} (hs : Kept r s) :
    Goes r (execMandateLoss s) := by
  unfold execMandateLoss
  repeat' (with_reducible first | assumption | apply Goes.next | apply State.mandateLoss_kept)

theorem execCheckpointStart_goes {r : State} {s : State} (hs : Kept r s) :
    Goes r (execCheckpointStart s) := by
  unfold execCheckpointStart
  repeat' (with_reducible first | assumption | apply Goes.next | apply State.checkpoint_kept)

theorem execHandbackGridPoint_goes {r : State} {s : State} (hs : Kept r s) :
    Goes r (execHandbackGridPoint s) := by
  unfold execHandbackGridPoint
  repeat' (with_reducible first | assumption | apply Goes.next | apply State.handbackPoint_kept)

theorem execTakeoverMandate_goes {r : State} {s : State} (hs : Kept r s) :
    Goes r (execTakeoverMandate s) := by
  unfold execTakeoverMandate
  repeat' (with_reducible first | assumption | apply Goes.next | apply State.takeMandate_kept)

theorem State.ckRefuse_kept {r : State} {set} {result} {s : State} (hs : Kept r s) :
    Kept r (State.ckRefuse set result s) := by
  unfold State.ckRefuse
  repeat' (with_reducible first
    | assumption | apply State.ckAck_kept | apply State.evt_kept | apply State.inc_kept | apply State.modRed_kept)

theorem State.heartbeat_kept {r : State} {ty} {arg} {s : State} (hs : Kept r s) :
    Kept r (State.heartbeat ty arg s) := by
  unfold State.heartbeat
  repeat' (with_reducible first
    | assumption
    | (intro x; (refine Kept.cut (s := x) ?_ (fun _ => ?_)); (on_goal 1 => subst x); (on_goal 2 => clear_value x))
    | (intro x; (refine Kept.cutPair (p := x) ?_ (fun _ => ?_)); (on_goal 1 => subst x); (on_goal 2 => clear_value x))
    | (intro x; clear_value x) | (intro _; try beta_reduce) | apply State.sendDealer_kept | apply State.lzSend_kept
    | apply State.sent_kept | apply State.sendVerdict_kept | apply State.modRed_kept | apply State.sendReady_kept
    | apply State.sendYield_kept | apply State.askYield_kept | apply State.sendMaint_kept | apply Kept.ite
    | apply Goes.ite | apply Goes.next | apply Goes.after | apply Kept.foldl | apply Kept.foldlPair
    | (refine Kept.fst ‹_ = (_, _)› ?_) | split | lift_lets | (dsimp -zeta only)
    | (fail_if_no_progress apply Kept.fields) | apply Kept.tabs | apply FMap.tidy_put | apply FMap.tidy_mod
    | apply FMap.tidy_nil | apply FMap.tidy_foldl)

theorem execAbandon_goes {r : State} {w} {s : State} (hs : Kept r s) :
    Goes r (execAbandon w s) := by
  unfold execAbandon
  repeat' (with_reducible first
    | assumption | apply Goes.next | apply State.gateSup_kept | apply State.planAbandon_kept)

theorem State.verdictIssue_kept {r : State} {kind} {target} {planLate} {s : State} (hs : Kept r s) :
    Kept r (State.verdictIssue kind target planLate s) := by
  unfold State.verdictIssue
  repeat' (with_reducible first
    | assumption
    | (intro x; (refine Kept.cut (s := x) ?_ (fun _ => ?_)); (on_goal 1 => subst x); (on_goal 2 => clear_value x))
    | (intro x; (refine Kept.cutPair (p := x) ?_ (fun _ => ?_)); (on_goal 1 => subst x); (on_goal 2 => clear_value x))
    | (intro x; clear_value x) | (intro _; try beta_reduce) | apply State.epochCopy_kept | apply State.setReg_kept
    | apply State.modRed_kept | apply State.ledger_kept | apply State.evt_kept | apply State.inc_kept
    | apply State.sendVerdict_kept | apply State.sent_kept | apply State.showArb_kept | apply Kept.ite
    | apply Goes.ite | apply Goes.next | apply Goes.after | apply Kept.foldl | apply Kept.foldlPair
    | (refine Kept.fst ‹_ = (_, _)› ?_) | split | lift_lets | (dsimp -zeta only)
    | (fail_if_no_progress apply Kept.fields) | apply Kept.tabs | apply FMap.tidy_put | apply FMap.tidy_mod
    | apply FMap.tidy_nil | apply FMap.tidy_foldl)

theorem State.planStart_kept {r : State} {s : State} (hs : Kept r s) :
    Kept r (State.planStart s) := by
  unfold State.planStart
  repeat' (with_reducible first
    | assumption
    | (intro x; (refine Kept.cut (s := x) ?_ (fun _ => ?_)); (on_goal 1 => subst x); (on_goal 2 => clear_value x))
    | (intro x; (refine Kept.cutPair (p := x) ?_ (fun _ => ?_)); (on_goal 1 => subst x); (on_goal 2 => clear_value x))
    | (intro x; clear_value x) | (intro _; try beta_reduce) | apply State.modRed_kept | apply State.sendMaint_kept
    | apply State.setFld_kept | apply State.setPhase_kept | apply Kept.ite | apply Goes.ite | apply Goes.next
    | apply Goes.after | apply Kept.foldl | apply Kept.foldlPair | (refine Kept.fst ‹_ = (_, _)› ?_) | split
    | lift_lets | (dsimp -zeta only) | (fail_if_no_progress apply Kept.fields) | apply Kept.tabs | apply FMap.tidy_put
    | apply FMap.tidy_mod | apply FMap.tidy_nil | apply FMap.tidy_foldl)

theorem execHandover_goes {r : State} {w} {s : State} (hs : Kept r s) :
    Goes r (execHandover w s) := by
  unfold execHandover
  repeat' (with_reducible first | assumption | apply Goes.next | apply State.gateSup_kept | apply State.planStart_kept)

theorem execHandbackReq_goes {r : State} {m} {s : State} (hs : Kept r s) :
    Goes r (execHandbackReq m s) := by
  unfold execHandbackReq
  repeat' (with_reducible first
    | assumption | (intro _; try beta_reduce) | apply Goes.next | apply State.lzIn_kept | apply State.planStart_kept)

theorem State.planChoose_kept {r : State} {s : State} (hs : Kept r s) :
    Kept r (State.planChoose s) := by
  unfold State.planChoose
  repeat' (with_reducible first
    | assumption
    | (intro x; (refine Kept.cut (s := x) ?_ (fun _ => ?_)); (on_goal 1 => subst x); (on_goal 2 => clear_value x))
    | (intro x; (refine Kept.cutPair (p := x) ?_ (fun _ => ?_)); (on_goal 1 => subst x); (on_goal 2 => clear_value x))
    | (intro x; clear_value x) | (intro _; try beta_reduce) | apply State.modRed_kept | apply State.askYield_kept
    | apply State.lzSend_kept | apply Kept.ite | apply Goes.ite | apply Goes.next | apply Goes.after
    | apply Kept.foldl | apply Kept.foldlPair | (refine Kept.fst ‹_ = (_, _)› ?_) | split | lift_lets
    | (dsimp -zeta only) | (fail_if_no_progress apply Kept.fields) | apply Kept.tabs | apply FMap.tidy_put
    | apply FMap.tidy_mod | apply FMap.tidy_nil | apply FMap.tidy_foldl)

theorem State.ckCommit_kept {r : State} {s : State} (hs : Kept r s) :
    Kept r (State.ckCommit s) := by
  unfold State.ckCommit
  repeat' (with_reducible first
    | assumption
    | (intro x; (refine Kept.cut (s := x) ?_ (fun _ => ?_)); (on_goal 1 => subst x); (on_goal 2 => clear_value x))
    | (intro x; (refine Kept.cutPair (p := x) ?_ (fun _ => ?_)); (on_goal 1 => subst x); (on_goal 2 => clear_value x))
    | (intro x; clear_value x) | (intro _; try beta_reduce) | apply State.each_kept | apply State.modRed_kept
    | apply State.dmaCopy_kept | apply State.ckAck_kept | apply State.setBit_kept | apply State.inc_kept
    | apply State.setReg_kept | apply Kept.ite | apply Goes.ite | apply Goes.next | apply Goes.after
    | apply Kept.foldl | apply Kept.foldlPair | (refine Kept.fst ‹_ = (_, _)› ?_) | split | lift_lets
    | (dsimp -zeta only) | (fail_if_no_progress apply Kept.fields) | apply Kept.tabs | apply FMap.tidy_put
    | apply FMap.tidy_mod | apply FMap.tidy_nil | apply FMap.tidy_foldl)

theorem State.ckptEndIn_kept {r : State} {x} {s : State} (hs : Kept r s) :
    Kept r (State.ckptEndIn x s) := by
  unfold State.ckptEndIn
  repeat' (with_reducible first
    | assumption | (intro _; try beta_reduce) | apply State.ckRefuse_kept | apply State.setBit_kept
    | apply State.modRed_kept | apply Kept.ite)

theorem State.handbackPlanIn_kept {r : State} {x} {s : State} (hs : Kept r s) :
    Kept r (State.handbackPlanIn x s) := by
  unfold State.handbackPlanIn
  repeat' (with_reducible first
    | assumption | (intro _; try beta_reduce) | apply State.modRed_kept | apply State.cxRaise_kept
    | apply State.each_kept | apply State.resumeCmd_kept | apply State.setReg_kept | apply Kept.ite)

theorem State.readyIn_kept {r : State} {x} {s : State} (hs : Kept r s) :
    Kept r (State.readyIn x s) := by
  unfold State.readyIn
  repeat' (with_reducible first
    | assumption | (intro _; try beta_reduce) | apply State.planAbandon_kept | apply State.planChoose_kept
    | apply State.setPhase_kept | apply Kept.ite | split)

theorem State.verdictIn_kept {r : State} {x} {s : State} (hs : Kept r s) :
    Kept r (State.verdictIn x s) := by
  unfold State.verdictIn
  repeat' (with_reducible first
    | assumption
    | (intro x; (refine Kept.cut (s := x) ?_ (fun _ => ?_)); (on_goal 1 => subst x); (on_goal 2 => clear_value x))
    | (intro x; (refine Kept.cutPair (p := x) ?_ (fun _ => ?_)); (on_goal 1 => subst x); (on_goal 2 => clear_value x))
    | (intro x; clear_value x) | (intro _; try beta_reduce) | apply State.epochCopy_kept | apply State.setReg_kept
    | apply State.evt_kept | apply State.inc_kept | apply State.cxRaise_kept | apply State.modRed_kept
    | apply State.setMember_kept | apply State.lzSend_kept | apply Kept.ite | apply Goes.ite | apply Goes.next
    | apply Goes.after | apply Kept.foldl | apply Kept.foldlPair | (refine Kept.fst ‹_ = (_, _)› ?_) | split
    | lift_lets | (dsimp -zeta only) | (fail_if_no_progress apply Kept.fields) | apply Kept.tabs | apply FMap.tidy_put
    | apply FMap.tidy_mod | apply FMap.tidy_nil | apply FMap.tidy_foldl)

theorem execMandateYield_goes {r : State} {m} {s : State} (hs : Kept r s) :
    Goes r (execMandateYield m s) := by
  unfold execMandateYield
  repeat' (with_reducible first | assumption | apply Goes.next | apply State.lzIn_kept | apply State.yieldIn_kept)

theorem execHeartbeatSend_goes {r : State} {ty} {arg} {s : State} (hs : Kept r s) :
    Goes r (execHeartbeatSend ty arg s) := by
  unfold execHeartbeatSend
  repeat' (with_reducible first | assumption | apply Goes.next | apply State.heartbeat_kept)

theorem State.cxHold_kept {r : State} {v} {s : State} (hs : Kept r s) :
    Kept r (State.cxHold v s) := by
  unfold State.cxHold
  repeat' (with_reducible first
    | assumption | (intro _; try beta_reduce) | apply State.setBit_kept | apply State.cxRaise_kept
    | apply State.cxOffSoon_kept | apply Kept.ite)

theorem State.revertDone_kept {r : State} {s : State} (hs : Kept r s) :
    Kept r (State.revertDone s) := by
  unfold State.revertDone
  repeat' (with_reducible first
    | assumption
    | (intro x; (refine Kept.cut (s := x) ?_ (fun _ => ?_)); (on_goal 1 => subst x); (on_goal 2 => clear_value x))
    | (intro x; (refine Kept.cutPair (p := x) ?_ (fun _ => ?_)); (on_goal 1 => subst x); (on_goal 2 => clear_value x))
    | (intro x; clear_value x) | (intro _; try beta_reduce) | apply State.sent_kept | apply State.cxRaise_kept
    | apply State.setBit_kept | apply State.lzSend_kept | apply Kept.ite | apply Goes.ite | apply Goes.next
    | apply Goes.after | apply Kept.foldl | apply Kept.foldlPair | (refine Kept.fst ‹_ = (_, _)› ?_) | split
    | lift_lets | (dsimp -zeta only) | (fail_if_no_progress apply Kept.fields) | apply Kept.tabs | apply FMap.tidy_put
    | apply FMap.tidy_mod | apply FMap.tidy_nil | apply FMap.tidy_foldl)

theorem execCkptCommitDone_goes {r : State} {s : State} (hs : Kept r s) :
    Goes r (execCkptCommitDone s) := by
  unfold execCkptCommitDone
  repeat' (with_reducible first | assumption | apply Goes.next | apply State.ckCommit_kept)

theorem execVerdictIssue_goes {r : State} {kind} {target} {planLate} {s : State} (hs : Kept r s) :
    Goes r (execVerdictIssue kind target planLate s) := by
  unfold execVerdictIssue
  repeat' (with_reducible first | assumption | apply Goes.next | apply State.verdictIssue_kept)

theorem State.maintIn_kept {r : State} {x} {s : State} (hs : Kept r s) :
    Kept r (State.maintIn x s) := by
  unfold State.maintIn
  repeat' (with_reducible first
    | assumption | (intro _; try beta_reduce) | apply State.cxHold_kept | apply Kept.ite)

theorem execCkptEnd_goes {r : State} {m} {s : State} (hs : Kept r s) :
    Goes r (execCkptEnd m s) := by
  unfold execCkptEnd
  repeat' (with_reducible first | assumption | apply Goes.next | apply State.lzIn_kept | apply State.ckptEndIn_kept)

theorem State.mateHbIn_kept {r : State} {x} {s : State} (hs : Kept r s) :
    Kept r (State.mateHbIn x s) := by
  unfold State.mateHbIn
  repeat' (with_reducible first
    | assumption
    | (intro x; (refine Kept.cut (s := x) ?_ (fun _ => ?_)); (on_goal 1 => subst x); (on_goal 2 => clear_value x))
    | (intro x; (refine Kept.cutPair (p := x) ?_ (fun _ => ?_)); (on_goal 1 => subst x); (on_goal 2 => clear_value x))
    | (intro x; clear_value x) | (intro _; try beta_reduce) | apply State.modRed_kept | apply State.setBit_kept
    | apply State.hoOffset_kept | apply State.when_kept | apply State.evt_kept | apply State.planChoose_kept
    | apply State.learnHolder_kept | apply Kept.ite | apply Goes.ite | apply Goes.next | apply Goes.after
    | apply Kept.foldl | apply Kept.foldlPair | (refine Kept.fst ‹_ = (_, _)› ?_) | split | lift_lets
    | (dsimp -zeta only) | (fail_if_no_progress apply Kept.fields) | apply Kept.tabs | apply FMap.tidy_put
    | apply FMap.tidy_mod | apply FMap.tidy_nil | apply FMap.tidy_foldl)

theorem execHandbackReady_goes {r : State} {m} {s : State} (hs : Kept r s) :
    Goes r (execHandbackReady m s) := by
  unfold execHandbackReady
  repeat' (with_reducible first | assumption | apply Goes.next | apply State.lzIn_kept | apply State.readyIn_kept)

theorem execMaint_goes {r : State} {m} {s : State} (hs : Kept r s) :
    Goes r (execMaint m s) := by
  unfold execMaint
  repeat' (with_reducible first | assumption | apply Goes.next | apply State.lzIn_kept | apply State.maintIn_kept)

theorem execCxHoldWrite_goes {r : State} {w} {v} {s : State} (hs : Kept r s) :
    Goes r (execCxHoldWrite w v s) := by
  unfold execCxHoldWrite
  repeat' (with_reducible first
    | assumption | (intro _; try beta_reduce) | apply Goes.next | apply State.gateSup_kept | apply State.cxHold_kept
    | apply Kept.ite)

theorem execMateHb_goes {r : State} {m} {s : State} (hs : Kept r s) :
    Goes r (execMateHb m s) := by
  unfold execMateHb
  repeat' (with_reducible first | assumption | apply Goes.next | apply State.lzIn_kept | apply State.mateHbIn_kept)

theorem execLockstepMismatch_goes {r : State} {p} {s : State} (hs : Kept r s) :
    Goes r (execLockstepMismatch p s) := by
  unfold execLockstepMismatch
  repeat' (with_reducible first
    | assumption | (intro _; try beta_reduce) | apply Goes.next | apply State.mismatch_kept
    | apply State.moveTargetLost_kept | apply Kept.ite)

theorem execPairStall_goes {r : State} {p} {s : State} (hs : Kept r s) :
    Goes r (execPairStall p s) := by
  unfold execPairStall
  repeat' (with_reducible first
    | assumption | (intro _; try beta_reduce) | apply Goes.next | apply State.pairStall_kept
    | apply State.moveTargetLost_kept | apply Kept.ite)

end Sys2Proof.Machine
end

