-- ==== Sys2Proof/Laws/KeptStack.lean ====
section
/-!
SUPPORT. What the operations of Machine/Stack.lean keep.
-/

set_option linter.all false

namespace Sys2Proof.Machine

theorem State.modCas_kept {r : State} {f} {s : State} (hs : Kept r s) :
    Kept r (State.modCas f s) := by
  unfold State.modCas
  repeat' (with_reducible first
    | assumption | (intro _; try beta_reduce) | apply Kept.ite | (refine Kept.fst ‹_ = (_, _)› ?_) | split
    | (dsimp only) | (fail_if_no_progress apply Kept.fields))

theorem State.censusCalled_kept {r : State} {number} {s : State} (hs : Kept r s) :
    Kept r (State.censusCalled number s) := by
  unfold State.censusCalled
  repeat' (with_reducible first
    | assumption | (intro _; try beta_reduce) | apply State.modCas_kept | apply State.setReg_kept | apply Kept.ite)

theorem State.followLost_kept {r : State} {r0} {s : State} (hs : Kept r s) :
    Kept r (State.followLost r0 s) := by
  unfold State.followLost
  repeat' (with_reducible first
    | assumption | apply State.when_kept | apply State.evt_kept | apply State.modCas_kept | apply State.setFld_kept
    | apply State.setBit_kept)

theorem State.dealerLoss_kept {r : State} {s : State} (hs : Kept r s) :
    Kept r (State.dealerLoss s) := by
  unfold State.dealerLoss
  repeat' (with_reducible first
    | assumption | (intro _; try beta_reduce) | apply State.each_kept | apply State.followLost_kept
    | apply State.inc_kept | apply State.evt_kept | apply State.setBit_kept | apply Kept.ite)

theorem State.dealerHbIn_kept {r : State} {x} {s : State} (hs : Kept r s) :
    Kept r (State.dealerHbIn x s) := by
  unfold State.dealerHbIn
  repeat' (with_reducible first
    | assumption | (intro _; try beta_reduce) | apply State.when_kept | apply State.evt_kept | apply State.modCas_kept
    | apply State.setBit_kept | apply State.each_kept | apply State.followLost_kept | apply Kept.ite)

theorem State.followAngle_kept {r : State} {gd} {t} {r0} {s : State} (hs : Kept r s) :
    Kept r (State.followAngle gd t r0 s) := by
  unfold State.followAngle
  repeat' (with_reducible first
    | assumption | (intro _; try beta_reduce) | apply State.modCas_kept | apply State.setFld_kept
    | apply State.setReg_kept | apply State.evt_kept | apply State.setBit_kept | apply State.followLost_kept
    | apply Kept.ite | split)

theorem State.partialIn_kept {r : State} {x} {s : State} (hs : Kept r s) :
    Kept r (State.partialIn x s) := by
  unfold State.partialIn
  repeat' (with_reducible first
    | assumption | (intro _; try beta_reduce) | apply State.zContribution_kept | apply Kept.ite)

theorem State.cenGot_kept {r : State} {p} {s : State} (hs : Kept r s) :
    Kept r (State.cenGot p s) := by
  unfold State.cenGot
  repeat' (with_reducible first | assumption | apply State.setBit_kept | apply State.when_kept | apply State.evt_kept)

theorem execDealerLoss_goes {r : State} {s : State} (hs : Kept r s) :
    Goes r (execDealerLoss s) := by
  unfold execDealerLoss
  repeat' (with_reducible first | assumption | apply Goes.next | apply State.dealerLoss_kept)

theorem State.angleIn_kept {r : State} {x} {s : State} (hs : Kept r s) :
    Kept r (State.angleIn x s) := by
  unfold State.angleIn
  repeat' (with_reducible first
    | assumption | (intro _; try beta_reduce) | apply State.each_kept | apply State.followAngle_kept | apply Kept.ite)

theorem State.censusAccept_kept {r : State} {number} {grid} {d} {gp} {sec} {ns} {s : State} (hs : Kept r s) :
    Kept r (State.censusAccept number grid d gp sec ns s) := by
  unfold State.censusAccept
  repeat' (with_reducible first
    | assumption | (intro _; try beta_reduce) | apply State.censusAbort_kept | apply State.evt_kept
    | apply State.cenSet_kept | apply State.cenLatch_kept | apply Kept.ite | split)

theorem State.censusDataIn_kept {r : State} {x} {s : State} (hs : Kept r s) :
    Kept r (State.censusDataIn x s) := by
  unfold State.censusDataIn
  repeat' (with_reducible first
    | assumption
    | (intro x; (refine Kept.cut (s := x) ?_ (fun _ => ?_)); (on_goal 1 => subst x); (on_goal 2 => clear_value x))
    | (intro x; (refine Kept.cutPair (p := x) ?_ (fun _ => ?_)); (on_goal 1 => subst x); (on_goal 2 => clear_value x))
    | (intro x; clear_value x) | (intro _; try beta_reduce) | apply State.dma_kept | apply State.modCas_kept
    | apply State.cenGot_kept | apply Kept.ite | apply Goes.ite | apply Goes.next | apply Goes.after
    | apply Kept.foldl | apply Kept.foldlPair | (refine Kept.fst ‹_ = (_, _)› ?_) | split | lift_lets
    | (dsimp -zeta only) | (fail_if_no_progress apply Kept.fields) | apply Kept.tabs | apply FMap.tidy_put
    | apply FMap.tidy_mod | apply FMap.tidy_nil | apply FMap.tidy_foldl)

theorem State.censusCallIn_kept {r : State} {x} {s : State} (hs : Kept r s) :
    Kept r (State.censusCallIn x s) := by
  unfold State.censusCallIn
  repeat' (with_reducible first | assumption | apply State.censusAccept_kept | apply State.censusCalled_kept)

theorem State.casForward_kept {r : State} {port} {m} {x} {s : State} (hs : Kept r s) :
    Kept r (State.casForward port m x s) := by
  unfold State.casForward
  repeat' (with_reducible first | assumption | apply State.inc_kept | apply State.lzEmit_kept)

theorem State.casFresh_kept {r : State} {src} {m} {x} {consume} {s : State}
    (hconsume : ∀ y5 y6, Kept r y6 → Kept r (consume y5 y6)) (hs : Kept r s) :
    Kept r (State.casFresh src m x consume s) := by
  unfold State.casFresh
  repeat' (with_reducible first
    | assumption | (intro _; try beta_reduce) | apply State.when_kept | apply State.casForward_kept
    | apply State.inc_kept | apply State.lzEmit_kept | apply hconsume | apply Kept.ite | split)

theorem State.censusShip_kept {r : State} {a} {len} {number} {s : State} (hs : Kept r s) :
    Kept r (State.censusShip a len number s) := by
  unfold State.censusShip
  repeat' (with_reducible first
    | assumption
    | (intro x; (refine Kept.cut (s := x) ?_ (fun _ => ?_)); (on_goal 1 => subst x); (on_goal 2 => clear_value x))
    | (intro x; (refine Kept.cutPair (p := x) ?_ (fun _ => ?_)); (on_goal 1 => subst x); (on_goal 2 => clear_value x))
    | (intro x; clear_value x) | (intro _; try beta_reduce) | apply State.cenGot_kept | apply State.dma_kept
    | apply State.each_kept | apply State.casSend_kept | apply Kept.ite | apply Goes.ite | apply Goes.next
    | apply Goes.after | apply Kept.foldl | apply Kept.foldlPair | (refine Kept.fst ‹_ = (_, _)› ?_) | split
    | lift_lets | (dsimp -zeta only) | (fail_if_no_progress apply Kept.fields) | apply Kept.tabs | apply FMap.tidy_put
    | apply FMap.tidy_mod | apply FMap.tidy_nil | apply FMap.tidy_foldl)

theorem State.censusImageComplete_kept {r : State} {s : State} (hs : Kept r s) :
    Kept r (State.censusImageComplete s) := by
  unfold State.censusImageComplete
  repeat' (with_reducible first
    | assumption | (intro _; try beta_reduce) | apply State.censusComplete_kept | apply State.censusShip_kept
    | apply Kept.ite | split)

theorem execCensusImageComplete_goes {r : State} {s : State} (hs : Kept r s) :
    Goes r (execCensusImageComplete s) := by
  unfold execCensusImageComplete
  repeat' (with_reducible first | assumption | apply Goes.next | apply State.censusImageComplete_kept)

theorem State.casIn_kept {r : State} {src} {ty} {m} {consume} {s : State}
    (hconsume : ∀ y5 y6, Kept r y6 → Kept r (consume y5 y6)) (hs : Kept r s) :
    Kept r (State.casIn src ty m consume s) := by
  unfold State.casIn
  repeat' (with_reducible first
    | assumption | (intro _; try beta_reduce) | apply State.evt_kept | apply State.inc_kept
    | apply State.raiseEpoch_kept | apply State.modCas_kept | apply State.casFresh_kept | apply hconsume
    | apply Kept.ite | split)

theorem State.censusCallOwn_kept {r : State} {m} {s : State} (hs : Kept r s) :
    Kept r (State.censusCallOwn m s) := by
  unfold State.censusCallOwn
  repeat' (with_reducible first
    | assumption | (intro _; try beta_reduce) | apply State.casSend_kept | apply State.censusCalled_kept
    | apply State.modCas_kept | apply State.censusAccept_kept | apply Kept.ite)

theorem execAngle_goes {r : State} {src} {m} {s : State} (hs : Kept r s) :
    Goes r (execAngle src m s) := by
  unfold execAngle
  repeat' (with_reducible first | assumption | apply Goes.next | apply State.casIn_kept | apply State.angleIn_kept)

theorem State.angleSend_kept {r : State} {r0} {gp} {tg} {s : State} (hs : Kept r s) :
    Kept r (State.angleSend r0 gp tg s) := by
  unfold State.angleSend
  repeat' (with_reducible first
    | assumption | (intro _; try beta_reduce) | apply State.casSend_kept | apply Kept.ite)

theorem execCensusData_goes {r : State} {src} {m} {s : State} (hs : Kept r s) :
    Goes r (execCensusData src m s) := by
  unfold execCensusData
  repeat' (with_reducible first | assumption | apply Goes.next | apply State.casIn_kept | apply State.censusDataIn_kept)

theorem execCensusCall_goes {r : State} {src} {m} {s : State} (hs : Kept r s) :
    Goes r (execCensusCall src m s) := by
  unfold execCensusCall
  repeat' (with_reducible first
    | assumption | (intro _; try beta_reduce) | apply Goes.next | apply State.censusCallOwn_kept
    | apply State.casIn_kept | apply State.censusCallIn_kept | apply Kept.ite)

theorem execPartialSum_goes {r : State} {src} {m} {s : State} (hs : Kept r s) :
    Goes r (execPartialSum src m s) := by
  unfold execPartialSum
  repeat' (with_reducible first | assumption | apply Goes.next | apply State.casIn_kept | apply State.partialIn_kept)

theorem execDealerHb_goes {r : State} {src} {m} {s : State} (hs : Kept r s) :
    Goes r (execDealerHb src m s) := by
  unfold execDealerHb
  repeat' (with_reducible first | assumption | apply Goes.next | apply State.casIn_kept | apply State.dealerHbIn_kept)

theorem State.gridPointIssue_kept {r : State} {r0} {p} {b} {dual} {s : State} (hs : Kept r s) :
    Kept r (State.gridPointIssue r0 p b dual s) := by
  unfold State.gridPointIssue
  repeat' (with_reducible first
    | assumption
    | (intro x; (refine Kept.cut (s := x) ?_ (fun _ => ?_)); (on_goal 1 => subst x); (on_goal 2 => clear_value x))
    | (intro x; (refine Kept.cutPair (p := x) ?_ (fun _ => ?_)); (on_goal 1 => subst x); (on_goal 2 => clear_value x))
    | (intro x; clear_value x) | (intro _; try beta_reduce) | apply State.gridIssue_kept | apply State.angleSend_kept
    | apply State.stagingIssue_kept | apply Kept.ite | apply Goes.ite | apply Goes.next | apply Goes.after
    | apply Kept.foldl | apply Kept.foldlPair | (refine Kept.fst ‹_ = (_, _)› ?_) | split | lift_lets
    | (dsimp -zeta only) | (fail_if_no_progress apply Kept.fields) | apply Kept.tabs | apply FMap.tidy_put
    | apply FMap.tidy_mod | apply FMap.tidy_nil | apply FMap.tidy_foldl)

theorem execGridPointIssue_goes {r : State} {r0} {p} {b} {dual} {s : State} (hs : Kept r s) :
    Goes r (execGridPointIssue r0 p b dual s) := by
  unfold execGridPointIssue
  repeat' (with_reducible first
    | assumption
    | (intro x; (refine Kept.cut (s := x) ?_ (fun _ => ?_)); (on_goal 1 => subst x); (on_goal 2 => clear_value x))
    | (intro x; (refine Kept.cutPair (p := x) ?_ (fun _ => ?_)); (on_goal 1 => subst x); (on_goal 2 => clear_value x))
    | (intro x; clear_value x) | (intro _; try beta_reduce) | apply State.gridPointIssue_kept | apply Kept.ite
    | apply Goes.ite | apply Goes.next | apply Goes.after | apply Kept.foldl | apply Kept.foldlPair
    | (refine Kept.fst ‹_ = (_, _)› ?_) | split | lift_lets | (dsimp -zeta only)
    | (fail_if_no_progress apply Kept.fields) | apply Kept.tabs | apply FMap.tidy_put | apply FMap.tidy_mod
    | apply FMap.tidy_nil | apply FMap.tidy_foldl)

end Sys2Proof.Machine
end

