-- ==== Sys2Proof/Laws/KeptTae.lean ====
section
/-!
SUPPORT. What the operations of Machine/Tae.lean keep.
-/

set_option linter.all false

namespace Sys2Proof.Machine

theorem State.modRec_kept {r : State} {r0} {f} {s : State} (hs : Kept r s) :
    Kept r (State.modRec r0 f s) := by
  unfold State.modRec
  repeat' (with_reducible first
    | assumption | (intro _; try beta_reduce) | apply Kept.ite | (refine Kept.fst ‹_ = (_, _)› ?_) | split
    | (dsimp only) | (fail_if_no_progress apply Kept.fields) | apply Kept.tabs
    | apply FMap.tidy_put | apply FMap.tidy_mod)

theorem State.trgEval_kept {r : State} {r0} {k} {vals} {bad} {fired} {s : State} (hs : Kept r s) :
    Kept r (State.trgEval r0 k vals bad fired s).1 := by
  unfold State.trgEval
  repeat' (with_reducible first | assumption | apply State.modRec_kept)

theorem State.showHeld_kept {r : State} {r0} {s : State} (hs : Kept r s) :
    Kept r (State.showHeld r0 s) := by
  unfold State.showHeld
  repeat' (with_reducible first | assumption | apply State.setFld_kept)

theorem State.makeCurrent_kept {r : State} {r0} {k} {rows} {s : State} (hs : Kept r s) :
    Kept r (State.makeCurrent r0 k rows s) := by
  unfold State.makeCurrent
  repeat' (with_reducible first | assumption | apply State.modRec_kept | apply State.setFld_kept)

theorem State.slotsEmpty_kept {r : State} {r0} {s : State} (hs : Kept r s) :
    Kept r (State.slotsEmpty r0 s) := by
  unfold State.slotsEmpty
  repeat' (with_reducible first
    | assumption | apply State.showHeld_kept | apply State.makeCurrent_kept | apply State.modRec_kept)

theorem State.setRec_kept {r : State} {r0} {st} {s : State} (hs : Kept r s) :
    Kept r (State.setRec r0 st s) := by
  unfold State.setRec
  repeat' (with_reducible first
    | assumption | (intro _; try beta_reduce) | apply State.evt_kept | apply State.setFld_kept | apply Kept.ite)

theorem State.recHoldExpire_kept {r : State} {r0} {s : State} (hs : Kept r s) :
    Kept r (State.recHoldExpire r0 s) := by
  unfold State.recHoldExpire
  repeat' (with_reducible first
    | assumption | (intro _; try beta_reduce) | apply State.setRec_kept | apply Kept.ite)

theorem execHoldoffExpiry_goes {r : State} {r0} {s : State} (hs : Kept r s) :
    Goes r (execHoldoffExpiry r0 s) := by
  unfold execHoldoffExpiry
  repeat' (with_reducible first | assumption | apply Goes.next | apply State.recHoldExpire_kept)

theorem State.recFree_kept {r : State} {r0} {k} {s : State} (hs : Kept r s) :
    Kept r (State.recFree r0 k s) := by
  unfold State.recFree
  repeat' (with_reducible first
    | assumption | (intro _; try beta_reduce) | apply State.evt_kept | apply State.showHeld_kept
    | apply State.modRec_kept | apply State.setRec_kept | apply State.makeCurrent_kept | apply Kept.ite)

theorem State.recStart_kept {r : State} {r0} {s : State} (hs : Kept r s) :
    Kept r (State.recStart r0 s) := by
  unfold State.recStart
  repeat' (with_reducible first
    | assumption | (intro _; try beta_reduce) | apply State.modRec_kept | apply State.setRec_kept
    | apply State.showHeld_kept | apply State.makeCurrent_kept | apply Kept.ite | split)

theorem State.endRecord_kept {r : State} {r0} {s : State} (hs : Kept r s) :
    Kept r (State.endRecord r0 s) := by
  unfold State.endRecord
  repeat' (with_reducible first
    | assumption | (intro _; try beta_reduce) | apply State.modRec_kept | apply State.setRec_kept
    | apply State.makeCurrent_kept | apply Kept.ite | (refine Kept.fst ‹_ = (_, _)› ?_) | split | (dsimp only))

theorem State.markFire_kept {r : State} {a} {s : State} (hs : Kept r s) :
    Kept r (State.markFire a s) := by
  unfold State.markFire
  repeat' (with_reducible first
    | assumption
    | (intro x; (refine Kept.cut (s := x) ?_ (fun _ => ?_)); (on_goal 1 => subst x); (on_goal 2 => clear_value x))
    | (intro x; (refine Kept.cutPair (p := x) ?_ (fun _ => ?_)); (on_goal 1 => subst x); (on_goal 2 => clear_value x))
    | (intro x; clear_value x) | (intro _; try beta_reduce) | apply State.dmaWords_kept | apply Kept.ite
    | apply Goes.ite | apply Goes.next | apply Goes.after | apply Kept.foldl | apply Kept.foldlPair
    | (refine Kept.fst ‹_ = (_, _)› ?_) | split | lift_lets | (dsimp -zeta only)
    | (fail_if_no_progress apply Kept.fields) | apply Kept.tabs | apply FMap.tidy_put | apply FMap.tidy_mod
    | apply FMap.tidy_nil | apply FMap.tidy_foldl)

theorem State.recArm_kept {r : State} {r0} {id} {s : State} (hs : Kept r s) :
    Kept r (State.recArm r0 id s) := by
  unfold State.recArm
  repeat' (with_reducible first
    | assumption | (intro _; try beta_reduce) | apply State.modRec_kept | apply State.setRec_kept | apply Kept.ite)

theorem State.rowIntoCur_kept {r : State} {r0} {row} {s : State} (hs : Kept r s) :
    Kept r (State.rowIntoCur r0 row s) := by
  unfold State.rowIntoCur
  repeat' (with_reducible first
    | assumption
    | (intro x; (refine Kept.cut (s := x) ?_ (fun _ => ?_)); (on_goal 1 => subst x); (on_goal 2 => clear_value x))
    | (intro x; (refine Kept.cutPair (p := x) ?_ (fun _ => ?_)); (on_goal 1 => subst x); (on_goal 2 => clear_value x))
    | (intro x; clear_value x) | (intro _; try beta_reduce) | apply State.modRec_kept | apply State.dma_kept
    | apply Kept.ite | apply Goes.ite | apply Goes.next | apply Goes.after | apply Kept.foldl | apply Kept.foldlPair
    | (refine Kept.fst ‹_ = (_, _)› ?_) | split | lift_lets | (dsimp -zeta only)
    | (fail_if_no_progress apply Kept.fields) | apply Kept.tabs | apply FMap.tidy_put | apply FMap.tidy_mod
    | apply FMap.tidy_nil | apply FMap.tidy_foldl)

theorem State.rowIntoNext_kept {r : State} {r0} {row} {s : State} (hs : Kept r s) :
    Kept r (State.rowIntoNext r0 row s) := by
  unfold State.rowIntoNext
  repeat' (with_reducible first
    | assumption
    | (intro x; (refine Kept.cut (s := x) ?_ (fun _ => ?_)); (on_goal 1 => subst x); (on_goal 2 => clear_value x))
    | (intro x; (refine Kept.cutPair (p := x) ?_ (fun _ => ?_)); (on_goal 1 => subst x); (on_goal 2 => clear_value x))
    | (intro x; clear_value x) | (intro _; try beta_reduce) | apply State.modRec_kept | apply State.dma_kept
    | apply Kept.ite | apply Goes.ite | apply Goes.next | apply Goes.after | apply Kept.foldl | apply Kept.foldlPair
    | (refine Kept.fst ‹_ = (_, _)› ?_) | split | lift_lets | (dsimp -zeta only)
    | (fail_if_no_progress apply Kept.fields) | apply Kept.tabs | apply FMap.tidy_put | apply FMap.tidy_mod
    | apply FMap.tidy_nil | apply FMap.tidy_foldl)

theorem State.recDisarm_kept {r : State} {r0} {s : State} (hs : Kept r s) :
    Kept r (State.recDisarm r0 s) := by
  unfold State.recDisarm
  repeat' (with_reducible first
    | assumption | (intro _; try beta_reduce) | apply State.modRec_kept | apply State.setRec_kept | apply Kept.ite)

theorem State.recArmIn_kept {r : State} {x} {s : State} (hs : Kept r s) :
    Kept r (State.recArmIn x s) := by
  unfold State.recArmIn
  repeat' (with_reducible first
    | assumption | (intro _; try beta_reduce) | apply State.modRec_kept | apply State.recArm_kept
    | apply State.recDisarm_kept | apply Kept.ite)

theorem State.holdTrigger_kept {r : State} {r0} {n} {s : State} (hs : Kept r s) :
    Kept r (State.holdTrigger r0 n s) := by
  unfold State.holdTrigger
  repeat' (with_reducible first
    | assumption | (intro _; try beta_reduce) | apply State.modRec_kept | apply State.incBy_kept
    | apply State.setRec_kept | apply Kept.ite)

theorem State.writeRecord_kept {r : State} {n} {o} {s : State} (hs : Kept r s) : Kept r (State.writeRecord n o s) := by
  unfold State.writeRecord
  extract_lets list meas s1 s2 s3 s4 s5 s6 s7 s8
  have k1 : Kept r s1 := Kept.drawn hs
  have k5 : Kept r s5 := State.dmaWords_kept (State.dmaWords_kept (State.dmaWords_kept (State.dmaWords_kept k1)))
  have k7 : Kept r s7 := State.inc_kept (State.setReg_kept (State.setFld_kept (State.modRec_kept k5)))
  have k8 : Kept r s8 := State.when_kept (fun _ h => State.evt_kept h) (State.when_kept (fun _ h => State.evt_kept h) k7)
  exact State.showHeld_kept (State.evt_kept k8)

theorem State.startRecord_kept {r : State} {r0} {ago} {src} {unit} {origin} {remote} {unaligned} {s : State}
    (hs : Kept r s) :
    Kept r (State.startRecord r0 ago src unit origin remote unaligned s) := by
  unfold State.startRecord
  repeat' (with_reducible first
    | assumption | (intro _; try beta_reduce) | apply State.inc_kept | apply State.markFire_kept
    | apply State.when_kept | apply State.evt_kept | apply State.modRec_kept | apply State.setRec_kept
    | apply State.showHeld_kept | apply State.each_kept | apply State.rowIntoNext_kept | apply State.endRecord_kept
    | apply Kept.ite | (refine Kept.fst ‹_ = (_, _)› ?_) | split | (dsimp only)
    | (fail_if_no_progress apply Kept.fields) | apply Kept.tabs
    | apply FMap.tidy_put)

theorem State.actTriggers_kept {r : State} {r0} {k} {units} {rem} {s : State} (hs : Kept r s) :
    Kept r (State.actTriggers r0 k units rem s) := by
  unfold State.actTriggers
  repeat' (with_reducible first
    | assumption | (intro _; try beta_reduce) | apply State.when_kept | apply State.evt_kept
    | apply State.startRecord_kept | apply State.modRec_kept | apply State.holdTrigger_kept | apply State.inc_kept
    | apply Kept.ite | split)

theorem State.recordComplete_kept {r : State} {r0} {s : State} (hs : Kept r s) :
    Kept r (State.recordComplete r0 s) := by
  unfold State.recordComplete
  repeat' (with_reducible first
    | assumption | (intro _; try beta_reduce) | apply State.writeRecord_kept | apply State.modRec_kept
    | apply Kept.ite | split)

theorem State.placeRow_kept {r : State} {r0} {parts} {crc} {s : State} (hs : Kept r s) :
    Kept r (State.placeRow r0 parts crc s) := by
  unfold State.placeRow
  repeat' (with_reducible first
    | assumption | (intro _; try beta_reduce) | apply State.rowIntoCur_kept | apply State.modRec_kept
    | apply State.rowIntoNext_kept | apply Kept.ite | split)

theorem State.recOff_kept {r : State} {r0} {s : State} (hs : Kept r s) :
    Kept r (State.recOff r0 s) := by
  unfold State.recOff
  repeat' (with_reducible first
    | assumption
    | (intro x; (refine Kept.cut (s := x) ?_ (fun _ => ?_)); (on_goal 1 => subst x); (on_goal 2 => clear_value x))
    | (intro x; (refine Kept.cutPair (p := x) ?_ (fun _ => ?_)); (on_goal 1 => subst x); (on_goal 2 => clear_value x))
    | (intro x; clear_value x) | (intro _; try beta_reduce) | apply State.writeRecord_kept | apply State.modRec_kept
    | apply State.setRec_kept | apply State.setPriors_kept | apply Kept.ite | apply Goes.ite | apply Goes.next
    | apply Goes.after | apply Kept.foldl | apply Kept.foldlPair | (refine Kept.fst ‹_ = (_, _)› ?_) | split
    | lift_lets | (dsimp -zeta only) | (fail_if_no_progress apply Kept.fields) | apply Kept.tabs | apply FMap.tidy_put
    | apply FMap.tidy_mod | apply FMap.tidy_nil | apply FMap.tidy_foldl)

theorem State.fireNear_kept {r : State} {r0} {src} {origin} {ns} {sec} {s : State} (hs : Kept r s) :
    Kept r (State.fireNear r0 src origin ns sec s) := by
  unfold State.fireNear
  repeat' (with_reducible first
    | assumption | (intro _; try beta_reduce) | apply State.modRec_kept | apply State.startRecord_kept
    | apply State.evt_kept | apply Kept.ite | split)

theorem State.truncate_kept {r : State} {r0} {s : State} (hs : Kept r s) :
    Kept r (State.truncate r0 s) := by
  unfold State.truncate
  repeat' (with_reducible first
    | assumption | (intro _; try beta_reduce) | apply State.modRec_kept | apply State.writeRecord_kept
    | apply State.recordComplete_kept | apply Kept.ite | split)

theorem execRecordComplete_goes {r : State} {r0} {s : State} (hs : Kept r s) :
    Goes r (execRecordComplete r0 s) := by
  unfold execRecordComplete
  repeat' (with_reducible first | assumption | apply Goes.next | apply State.recordComplete_kept)

theorem State.taeRefOff_kept {r : State} {ref} {s : State} (hs : Kept r s) :
    Kept r (State.taeRefOff ref s) := by
  unfold State.taeRefOff
  repeat' (with_reducible first
    | assumption | (intro _; try beta_reduce) | apply State.each_kept | apply State.truncate_kept
    | apply State.setRec_kept | apply State.makeCurrent_kept | apply Kept.ite | (refine Kept.fst ‹_ = (_, _)› ?_)
    | split | (dsimp only))

theorem State.recFireIn_kept {r : State} {x} {s : State} (hs : Kept r s) :
    Kept r (State.recFireIn x s) := by
  unfold State.recFireIn
  repeat' (with_reducible first
    | assumption | (intro _; try beta_reduce) | apply State.modRec_kept | apply State.startRecord_kept
    | apply State.fireNear_kept | apply Kept.ite | (refine Kept.fst ‹_ = (_, _)› ?_) | split | (dsimp only))

theorem State.armCmd_kept {r : State} {r0} {arm} {s : State} (hs : Kept r s) :
    Kept r (State.armCmd r0 arm s) := by
  unfold State.armCmd
  repeat' (with_reducible first
    | assumption | (intro _; try beta_reduce) | apply State.evt_kept | apply State.casSend_kept
    | apply State.drew_kept | apply State.modRec_kept | apply State.recArm_kept | apply State.recDisarm_kept
    | apply Kept.ite)

theorem State.recTurn_kept {r : State} {r0} {restart} {s : State} (hs : Kept r s) :
    Kept r (State.recTurn r0 restart s) := by
  unfold State.recTurn
  repeat' (with_reducible first
    | assumption
    | (intro x; (refine Kept.cut (s := x) ?_ (fun _ => ?_)); (on_goal 1 => subst x); (on_goal 2 => clear_value x))
    | (intro x; (refine Kept.cutPair (p := x) ?_ (fun _ => ?_)); (on_goal 1 => subst x); (on_goal 2 => clear_value x))
    | (intro x; clear_value x) | (intro _; try beta_reduce) | apply State.slotsEmpty_kept | apply State.truncate_kept
    | apply State.recStart_kept | apply State.setRec_kept | apply State.makeCurrent_kept | apply Kept.ite
    | apply Goes.ite | apply Goes.next | apply Goes.after | apply Kept.foldl | apply Kept.foldlPair
    | (refine Kept.fst ‹_ = (_, _)› ?_) | split | lift_lets | (dsimp -zeta only)
    | (fail_if_no_progress apply Kept.fields) | apply Kept.tabs | apply FMap.tidy_put | apply FMap.tidy_mod
    | apply FMap.tidy_nil | apply FMap.tidy_foldl)

theorem State.taeReset_kept {r : State} {r0} {s : State} (hs : Kept r s) :
    Kept r (State.taeReset r0 s) := by
  unfold State.taeReset
  repeat' (with_reducible first
    | assumption
    | (intro x; (refine Kept.cut (s := x) ?_ (fun _ => ?_)); (on_goal 1 => subst x); (on_goal 2 => clear_value x))
    | (intro x; (refine Kept.cutPair (p := x) ?_ (fun _ => ?_)); (on_goal 1 => subst x); (on_goal 2 => clear_value x))
    | (intro x; clear_value x) | (intro _; try beta_reduce) | apply State.slotsEmpty_kept | apply State.truncate_kept
    | apply State.setPriors_kept | apply State.modRec_kept | apply State.setRec_kept | apply Kept.ite | apply Goes.ite
    | apply Goes.next | apply Goes.after | apply Kept.foldl | apply Kept.foldlPair | (refine Kept.fst ‹_ = (_, _)› ?_)
    | split | lift_lets | (dsimp -zeta only) | (fail_if_no_progress apply Kept.fields) | apply Kept.tabs
    | apply FMap.tidy_put | apply FMap.tidy_mod | apply FMap.tidy_nil | apply FMap.tidy_foldl)

theorem State.taeActivated_kept {r : State} {x} {r0} {s : State} (hs : Kept r s) :
    Kept r (State.taeActivated x r0 s) := by
  unfold State.taeActivated
  repeat' (with_reducible first
    | assumption
    | (intro x; (refine Kept.cut (s := x) ?_ (fun _ => ?_)); (on_goal 1 => subst x); (on_goal 2 => clear_value x))
    | (intro x; (refine Kept.cutPair (p := x) ?_ (fun _ => ?_)); (on_goal 1 => subst x); (on_goal 2 => clear_value x))
    | (intro x; clear_value x) | (intro _; try beta_reduce) | apply State.evt_kept | apply State.setWords_kept
    | apply State.recOff_kept | apply State.turn_kept | apply State.recTurn_kept | apply Kept.ite | apply Goes.ite
    | apply Goes.next | apply Goes.after | apply Kept.foldl | apply Kept.foldlPair | (refine Kept.fst ‹_ = (_, _)› ?_)
    | split | lift_lets | (dsimp -zeta only) | (fail_if_no_progress apply Kept.fields) | apply Kept.tabs
    | apply FMap.tidy_put | apply FMap.tidy_mod | apply FMap.tidy_nil | apply FMap.tidy_foldl)

theorem State.taeCtl_kept {r : State} {v} {s : State} (hs : Kept r s) :
    Kept r (State.taeCtl v s) := by
  unfold State.taeCtl
  repeat' (with_reducible first
    | assumption | (intro _; try beta_reduce) | apply State.setReg_kept | apply State.each_kept
    | apply State.setRec_kept | apply State.truncate_kept | apply State.makeCurrent_kept | apply Kept.ite | split)

theorem execTaeTrigger_goes {r : State} {w} {r0} {s : State} (hs : Kept r s) :
    Goes r (execTaeTrigger w r0 s) := by
  unfold execTaeTrigger
  repeat' (with_reducible first | assumption | apply Goes.next | apply State.gate_kept | apply State.modRec_kept)

theorem State.taeWatchdog_kept {r : State} {s : State} (hs : Kept r s) :
    Kept r (State.taeWatchdog s) := by
  unfold State.taeWatchdog
  repeat' (with_reducible first
    | assumption
    | (intro x; (refine Kept.cut (s := x) ?_ (fun _ => ?_)); (on_goal 1 => subst x); (on_goal 2 => clear_value x))
    | (intro x; (refine Kept.cutPair (p := x) ?_ (fun _ => ?_)); (on_goal 1 => subst x); (on_goal 2 => clear_value x))
    | (intro x; clear_value x) | (intro _; try beta_reduce) | apply State.each_kept | apply State.setRec_kept
    | apply State.modRec_kept | apply State.blockFault_kept | apply State.ledger_kept | apply State.evt_kept
    | apply Kept.ite | apply Goes.ite | apply Goes.next | apply Goes.after | apply Kept.foldl | apply Kept.foldlPair
    | (refine Kept.fst ‹_ = (_, _)› ?_) | split | lift_lets | (dsimp -zeta only)
    | (fail_if_no_progress apply Kept.fields) | apply Kept.tabs | apply FMap.tidy_put | apply FMap.tidy_mod
    | apply FMap.tidy_nil | apply FMap.tidy_foldl)

theorem execRecArm_goes {r : State} {src} {m} {s : State} (hs : Kept r s) :
    Goes r (execRecArm src m s) := by
  unfold execRecArm
  repeat' (with_reducible first | assumption | apply Goes.next | apply State.casIn_kept | apply State.recArmIn_kept)

theorem State.recCmd_kept {r : State} {w} {r0} {f} {s : State} (hf : ∀ y4, Kept r y4 → Kept r (f y4)) (hs : Kept r s) :
    Kept r (State.recCmd w r0 f s) := by
  unfold State.recCmd
  repeat' (with_reducible first | assumption | apply State.gate_kept)

theorem State.sendFire_kept {r : State} {r0} {k} {units} {s : State} (hs : Kept r s) :
    Kept r (State.sendFire r0 k units s) := by
  unfold State.sendFire
  repeat' (with_reducible first
    | assumption | (intro _; try beta_reduce) | apply State.casSend_kept | apply Kept.ite | split)

theorem execTaeArm_goes {r : State} {w} {r0} {s : State} (hs : Kept r s) :
    Goes r (execTaeArm w r0 s) := by
  unfold execTaeArm
  repeat' (with_reducible first | assumption | apply Goes.next | apply State.recCmd_kept | apply State.armCmd_kept)

theorem execTaeWatchdog_goes {r : State} {s : State} (hs : Kept r s) :
    Goes r (execTaeWatchdog s) := by
  unfold execTaeWatchdog
  repeat' (with_reducible first | assumption | apply Goes.next | apply State.taeWatchdog_kept)

theorem execRecFire_goes {r : State} {src} {m} {s : State} (hs : Kept r s) :
    Goes r (execRecFire src m s) := by
  unfold execRecFire
  repeat' (with_reducible first | assumption | apply Goes.next | apply State.casIn_kept | apply State.recFireIn_kept)

theorem execTaeDisarm_goes {r : State} {w} {r0} {s : State} (hs : Kept r s) :
    Goes r (execTaeDisarm w r0 s) := by
  unfold execTaeDisarm
  repeat' (with_reducible first | assumption | apply Goes.next | apply State.recCmd_kept | apply State.armCmd_kept)

theorem execTaeFree_goes {r : State} {w} {r0} {slot} {s : State} (hs : Kept r s) :
    Goes r (execTaeFree w r0 slot s) := by
  unfold execTaeFree
  repeat' (with_reducible first | assumption | apply Goes.next | apply State.recCmd_kept | apply State.recFree_kept)

theorem State.toPort11_kept {r : State} {r0} {frame} {s : State} (hs : Kept r s) :
    Kept r (State.toPort11 r0 frame s) := by
  unfold State.toPort11
  repeat' (with_reducible first
    | assumption
    | (intro x; (refine Kept.cut (s := x) ?_ (fun _ => ?_)); (on_goal 1 => subst x); (on_goal 2 => clear_value x))
    | (intro x; (refine Kept.cutPair (p := x) ?_ (fun _ => ?_)); (on_goal 1 => subst x); (on_goal 2 => clear_value x))
    | (intro x; clear_value x) | (intro _; try beta_reduce) | apply State.enter_kept | apply Kept.ite | apply Goes.ite
    | apply Goes.next | apply Goes.after | apply Kept.foldl | apply Kept.foldlPair | (refine Kept.fst ‹_ = (_, _)› ?_)
    | split | lift_lets | (dsimp -zeta only) | (fail_if_no_progress apply Kept.fields) | apply Kept.tabs
    | apply FMap.tidy_put | apply FMap.tidy_mod | apply FMap.tidy_nil | apply FMap.tidy_foldl)

theorem State.stream_kept {r : State} {r0} {mark} {row} {s : State} (hs : Kept r s) :
    Kept r (State.stream r0 mark row s) := by
  unfold State.stream
  repeat' (with_reducible first
    | assumption
    | (intro x; (refine Kept.cut (s := x) ?_ (fun _ => ?_)); (on_goal 1 => subst x); (on_goal 2 => clear_value x))
    | (intro x; (refine Kept.cutPair (p := x) ?_ (fun _ => ?_)); (on_goal 1 => subst x); (on_goal 2 => clear_value x))
    | (intro x; clear_value x) | (intro _; try beta_reduce) | apply State.modRec_kept | apply State.toPort11_kept
    | apply State.incBy_kept | apply Kept.ite | apply Goes.ite | apply Goes.next | apply Goes.after | apply Kept.foldl
    | apply Kept.foldlPair | (refine Kept.fst ‹_ = (_, _)› ?_) | split | lift_lets | (dsimp -zeta only)
    | (fail_if_no_progress apply Kept.fields) | apply Kept.tabs | apply FMap.tidy_put | apply FMap.tidy_mod
    | apply FMap.tidy_nil | apply FMap.tidy_foldl)

theorem State.writeRow_kept {r : State} {r0} {k} {late} {bad} {s : State} (hs : Kept r s) :
    Kept r (State.writeRow r0 k late bad s) := by
  unfold State.writeRow
  repeat' (with_reducible first
    | assumption
    | (intro x; (refine Kept.cut (s := x) ?_ (fun _ => ?_)); (on_goal 1 => subst x); (on_goal 2 => clear_value x))
    | (intro x; (refine Kept.cutPair (p := x) ?_ (fun _ => ?_)); (on_goal 1 => subst x); (on_goal 2 => clear_value x))
    | (intro x; clear_value x) | (intro _; try beta_reduce) | apply State.when_kept | apply State.blockFault_kept
    | apply State.evt_kept | apply State.incBy_kept | apply State.inc_kept | apply State.trgEval_kept
    | apply State.modRec_kept | apply State.placeRow_kept | apply State.stream_kept | apply State.sendFire_kept
    | apply State.actTriggers_kept | apply State.endRecord_kept | apply Kept.ite | apply Goes.ite | apply Goes.next
    | apply Goes.after | apply Kept.foldl | apply Kept.foldlPair | (refine Kept.fst ‹_ = (_, _)› ?_) | split
    | lift_lets | (dsimp -zeta only) | (fail_if_no_progress apply Kept.fields) | apply Kept.tabs | apply FMap.tidy_put
    | apply FMap.tidy_mod | apply FMap.tidy_nil | apply FMap.tidy_foldl)

theorem State.taeRow_kept {r : State} {r0} {bad} {s : State} (hs : Kept r s) :
    Kept r (State.taeRow r0 bad s) := by
  unfold State.taeRow
  repeat' (with_reducible first
    | assumption
    | (intro x; (refine Kept.cut (s := x) ?_ (fun _ => ?_)); (on_goal 1 => subst x); (on_goal 2 => clear_value x))
    | (intro x; (refine Kept.cutPair (p := x) ?_ (fun _ => ?_)); (on_goal 1 => subst x); (on_goal 2 => clear_value x))
    | (intro x; clear_value x) | (intro _; try beta_reduce) | refine State.viewAt_kept ?_ he
    | apply State.onPoint_kept | apply State.writeRow_kept | apply Kept.ite | apply Goes.ite | apply Goes.next
    | apply Goes.after | apply Kept.foldl | apply Kept.foldlPair | (refine Kept.fst ‹_ = (_, _)› ?_) | split
    | lift_lets | (dsimp -zeta only) | (fail_if_no_progress apply Kept.fields) | apply Kept.tabs | apply FMap.tidy_put
    | apply FMap.tidy_mod | apply FMap.tidy_nil | apply FMap.tidy_foldl)

theorem execTaeRowWrite_goes {r : State} {r0} {bad} {s : State} (hs : Kept r s) :
    Goes r (execTaeRowWrite r0 bad s) := by
  unfold execTaeRowWrite
  repeat' (with_reducible first | assumption | apply Goes.next | apply State.taeRow_kept)

end Sys2Proof.Machine
end

