-- ==== Sys2Proof/Laws/KeptStaging.lean ====
section
/-!
SUPPORT. What the operations of Machine/Staging.lean keep.
-/

set_option linter.all false

namespace Sys2Proof.Machine

theorem State.emptied_kept {r : State} {b} {i} {s : State} (hs : Kept r s) :
    Kept r (State.emptied b i s) := by
  unfold State.emptied
  repeat' (with_reducible first | assumption | apply State.setStaged_kept)

theorem State.groupTook_kept {r : State} {b} {g} {s : State} (hs : Kept r s) :
    Kept r (State.groupTook b g s) := by
  unfold State.groupTook
  apply Kept.tabs hs <;> first
    | exact id
    | refine FMap.tidy_map (fun e => ?_) (fun e h => ?_)
  · dsimp only; split <;> rfl
  · dsimp only
    split
    · intro h2
      apply h
      obtain ⟨k, ws, co, sl⟩ := e
      cases ws with
      | nil => exact h2
      | cons x l => cases h2
    · exact h

theorem State.sliceEmpty_kept {r : State} {n} {s : State} (hs : Kept r s) :
    Kept r (State.sliceEmpty n s) := by
  unfold State.sliceEmpty
  repeat' (with_reducible first
    | assumption
    | (intro x; (refine Kept.cut (s := x) ?_ (fun _ => ?_)); (on_goal 1 => subst x); (on_goal 2 => clear_value x))
    | (intro x; (refine Kept.cutPair (p := x) ?_ (fun _ => ?_)); (on_goal 1 => subst x); (on_goal 2 => clear_value x))
    | (intro x; clear_value x) | (intro _; try beta_reduce) | apply State.setFld_kept | apply Kept.ite
    | apply Goes.ite | apply Goes.next | apply Goes.after | apply Kept.foldl | apply Kept.foldlPair
    | (refine Kept.fst ‹_ = (_, _)› ?_) | split | lift_lets | (dsimp -zeta only)
    | (fail_if_no_progress apply Kept.fields) | apply Kept.tabs | apply FMap.tidy_put | apply FMap.tidy_mod
    | apply FMap.tidy_nil | apply FMap.tidy_foldl)

theorem State.toShadow_kept {r : State} {b} {off} {mask} {v} {s : State} (hs : Kept r s) :
    Kept r (State.toShadow b off mask v s) := by
  unfold State.toShadow
  repeat' (with_reducible first
    | assumption | (intro _; try beta_reduce) | apply State.evt_kept | apply State.setPending_kept
    | apply State.setReg_kept | apply Kept.ite)

theorem State.followActivated_kept {r : State} {r0} {s : State} (hs : Kept r s) :
    Kept r (State.followActivated r0 s) := by
  unfold State.followActivated
  repeat' (with_reducible first
    | assumption | (intro _; try beta_reduce) | apply State.followLost_kept | apply State.setReg_kept | apply Kept.ite)

theorem State.commitDone_kept {r : State} {b} {ref} {gp} {empty} {atOnce} {s : State} (hs : Kept r s) :
    Kept r (State.commitDone b ref gp empty atOnce s) := by
  unfold State.commitDone
  repeat' (with_reducible first | assumption | apply State.showBusy_kept | apply State.setReg_kept)

theorem State.sliceActivated_kept {r : State} {old : State} {x} {n} {s : State} (hs : Kept r s) :
    Kept r (State.sliceActivated old x n s) := by
  unfold State.sliceActivated
  repeat' (with_reducible first
    | assumption
    | (intro x; (refine Kept.cut (s := x) ?_ (fun _ => ?_)); (on_goal 1 => subst x); (on_goal 2 => clear_value x))
    | (intro x; (refine Kept.cutPair (p := x) ?_ (fun _ => ?_)); (on_goal 1 => subst x); (on_goal 2 => clear_value x))
    | (intro x; clear_value x) | (intro _; try beta_reduce) | apply State.setFld_kept | apply State.turn_kept
    | apply State.setReg_kept | apply State.sliceEmpty_kept | apply State.setRun_kept | apply State.setLife_kept
    | apply State.dispatch_kept | apply Kept.ite | apply Goes.ite | apply Goes.next | apply Goes.after
    | apply Kept.foldl | apply Kept.foldlPair | (refine Kept.fst ‹_ = (_, _)› ?_) | split | lift_lets
    | (dsimp -zeta only) | (fail_if_no_progress apply Kept.fields) | apply Kept.tabs | apply FMap.tidy_put
    | apply FMap.tidy_mod | apply FMap.tidy_nil | apply FMap.tidy_foldl)

theorem State.sieBefore_kept {r : State} {n} {s : State} (hs : Kept r s) :
    Kept r (State.sieBefore n s) := by
  unfold State.sieBefore
  repeat' (with_reducible first | assumption | apply State.when_kept | apply State.dropWaiting_kept)

theorem State.sieStart_kept {r : State} {n} {s : State} (hs : Kept r s) :
    Kept r (State.sieStart n s) := by
  unfold State.sieStart
  repeat' (with_reducible first
    | assumption | (intro _; try beta_reduce) | apply State.setReg_kept | apply State.when_kept | apply State.evt_kept
    | apply Kept.ite | (refine Kept.fst ‹_ = (_, _)› ?_) | split | (dsimp only)
    | (fail_if_no_progress apply Kept.fields) | apply Kept.tabs
    | apply FMap.tidy_put)

theorem State.dropShadows_kept {r : State} {b} {i} {s : State} (hs : Kept r s) :
    Kept r (State.dropShadows b i s) := by
  unfold State.dropShadows
  repeat' (with_reducible first
    | assumption | (intro _; try beta_reduce) | apply State.setPending_kept | apply State.each_kept
    | apply State.setReg_kept)

theorem State.takeShadows_kept {r : State} {b} {i} {s : State} (hs : Kept r s) :
    Kept r (State.takeShadows b i s) := by
  unfold State.takeShadows
  repeat' (with_reducible first
    | assumption | (intro _; try beta_reduce) | apply State.setPending_kept | apply State.each_kept
    | apply State.setReg_kept)

theorem State.xcommitArm_kept {r : State} {w} {s : State} (hs : Kept r s) :
    Kept r (State.xcommitArm w s) := by
  unfold State.xcommitArm
  repeat' (with_reducible first
    | assumption | (intro _; try beta_reduce) | apply State.setBit_kept | apply State.setReg_kept
    | apply State.each_kept | apply State.showBusy_kept | apply State.setStaged_kept | apply Kept.ite
    | (refine Kept.fst ‹_ = (_, _)› ?_) | split | (dsimp only) | (fail_if_no_progress apply Kept.fields))

theorem State.sieReset_kept {r : State} {n} {s : State} (hs : Kept r s) :
    Kept r (State.sieReset n s) := by
  unfold State.sieReset
  repeat' (with_reducible first
    | assumption | apply State.when_kept | apply State.evt_kept | apply State.sieStart_kept
    | apply State.dropWaiting_kept)

theorem execXcommitTimeout_goes {r : State} {s : State} (hs : Kept r s) :
    Goes r (execXcommitTimeout s) := by
  unfold execXcommitTimeout
  repeat' (with_reducible first
    | assumption | (intro _; try beta_reduce) | apply Goes.next | apply State.setBit_kept
    | apply State.xcommitRelease_kept | apply Kept.ite)

theorem State.xcommitGo_kept {r : State} {w} {abort} {s : State} (hs : Kept r s) :
    Kept r (State.xcommitGo w abort s) := by
  unfold State.xcommitGo
  repeat' (with_reducible first
    | assumption | (intro _; try beta_reduce) | apply State.xcommitAbort_kept | apply State.when_kept
    | apply State.setBit_kept | apply State.xcommitArm_kept | apply Kept.ite)

theorem State.refuseCommit_kept {r : State} {b} {i} {s : State} (hs : Kept r s) :
    Kept r (State.refuseCommit b i s) := by
  unfold State.refuseCommit
  repeat' (with_reducible first
    | assumption
    | (intro x; (refine Kept.cut (s := x) ?_ (fun _ => ?_)); (on_goal 1 => subst x); (on_goal 2 => clear_value x))
    | (intro x; (refine Kept.cutPair (p := x) ?_ (fun _ => ?_)); (on_goal 1 => subst x); (on_goal 2 => clear_value x))
    | (intro x; clear_value x) | (intro _; try beta_reduce) | apply State.dropShadows_kept | apply State.evt_kept
    | apply State.setBit_kept | apply Kept.ite | apply Goes.ite | apply Goes.next | apply Goes.after
    | apply Kept.foldl | apply Kept.foldlPair | (refine Kept.fst ‹_ = (_, _)› ?_) | split | lift_lets
    | (dsimp -zeta only) | (fail_if_no_progress apply Kept.fields) | apply Kept.tabs | apply FMap.tidy_put
    | apply FMap.tidy_mod | apply FMap.tidy_nil | apply FMap.tidy_foldl)

theorem restartOf_kept {r : State} {b} {i} {z2 : State} {z3 : State} (hz3 : Kept r z3) :
    Kept r (restartOf b i z2 z3) := by
  unfold restartOf
  repeat' (with_reducible first
    | assumption
    | (intro x; (refine Kept.cut (s := x) ?_ (fun _ => ?_)); (on_goal 1 => subst x); (on_goal 2 => clear_value x))
    | (intro x; (refine Kept.cutPair (p := x) ?_ (fun _ => ?_)); (on_goal 1 => subst x); (on_goal 2 => clear_value x))
    | (intro x; clear_value x) | (intro _; try beta_reduce) | apply State.fdcTurn_kept | apply State.psuTurn_kept
    | apply State.zTurnDet_kept | apply State.zTurnWin_kept | apply State.rgeTurn_kept | apply Kept.ite
    | apply Goes.ite | apply Goes.next | apply Goes.after | apply Kept.foldl | apply Kept.foldlPair
    | (refine Kept.fst ‹_ = (_, _)› ?_) | split | lift_lets | (dsimp -zeta only)
    | (fail_if_no_progress apply Kept.fields) | apply Kept.tabs | apply FMap.tidy_put | apply FMap.tidy_mod
    | apply FMap.tidy_nil | apply FMap.tidy_foldl)

theorem State.refRestarted_kept {r : State} {r0} {s : State} (hs : Kept r s) :
    Kept r (State.refRestarted r0 s) := by
  unfold State.refRestarted
  repeat' (with_reducible first
    | assumption
    | (intro x; (refine Kept.cut (s := x) ?_ (fun _ => ?_)); (on_goal 1 => subst x); (on_goal 2 => clear_value x))
    | (intro x; (refine Kept.cutPair (p := x) ?_ (fun _ => ?_)); (on_goal 1 => subst x); (on_goal 2 => clear_value x))
    | (intro x; clear_value x) | (intro _; try beta_reduce) | apply State.each_kept | apply State.settleInst_kept
    | apply restartOf_kept | apply Kept.ite | apply Goes.ite | apply Goes.next | apply Goes.after | apply Kept.foldl
    | apply Kept.foldlPair | (refine Kept.fst ‹_ = (_, _)› ?_) | split | lift_lets | (dsimp -zeta only)
    | (fail_if_no_progress apply Kept.fields) | apply Kept.tabs | apply FMap.tidy_put | apply FMap.tidy_mod
    | apply FMap.tidy_nil | apply FMap.tidy_foldl)

theorem State.sieActivated_kept {r : State} {old : State} {x} {restart} {n} {s : State} (hs : Kept r s) :
    Kept r (State.sieActivated old x restart n s) := by
  unfold State.sieActivated
  repeat' (with_reducible first
    | assumption
    | (intro x; (refine Kept.cut (s := x) ?_ (fun _ => ?_)); (on_goal 1 => subst x); (on_goal 2 => clear_value x))
    | (intro x; (refine Kept.cutPair (p := x) ?_ (fun _ => ?_)); (on_goal 1 => subst x); (on_goal 2 => clear_value x))
    | (intro x; clear_value x) | (intro _; try beta_reduce) | apply State.when_kept | apply State.evt_kept
    | apply State.sieStart_kept | apply State.setPriors_kept | apply State.setReg_kept | apply State.turn_kept
    | apply State.zChannel_kept | apply State.psuChannel_kept | apply State.fdcChannel_kept | apply Kept.ite
    | apply Goes.ite | apply Goes.next | apply Goes.after | apply Kept.foldl | apply Kept.foldlPair
    | (refine Kept.fst ‹_ = (_, _)› ?_) | split | lift_lets | (dsimp -zeta only)
    | (fail_if_no_progress apply Kept.fields) | apply Kept.tabs | apply FMap.tidy_put | apply FMap.tidy_mod
    | apply FMap.tidy_nil | apply FMap.tidy_foldl)

theorem State.refWentOff_kept {r : State} {r0} {s : State} (hs : Kept r s) :
    Kept r (State.refWentOff r0 s) := by
  unfold State.refWentOff
  repeat' (with_reducible first
    | assumption | (intro _; try beta_reduce) | apply State.xcommitAbort_kept | apply State.rgeRefOff_kept
    | apply State.taeRefOff_kept | apply State.each_kept | apply State.modSl_kept | apply Kept.ite)

theorem State.instReset_kept {r : State} {b} {i} {s : State} (hs : Kept r s) :
    Kept r (State.instReset b i s) := by
  unfold State.instReset
  repeat' (with_reducible first
    | assumption
    | (intro x; (refine Kept.cut (s := x) ?_ (fun _ => ?_)); (on_goal 1 => subst x); (on_goal 2 => clear_value x))
    | (intro x; (refine Kept.cutPair (p := x) ?_ (fun _ => ?_)); (on_goal 1 => subst x); (on_goal 2 => clear_value x))
    | (intro x; clear_value x) | (intro _; try beta_reduce) | apply State.discardCommit_kept
    | apply State.refRestarted_kept | apply State.refStart_kept | apply State.sieReset_kept
    | apply State.fdcReset_kept | apply State.psuReset_kept | apply State.zReset_kept | apply State.setBit_kept
    | apply State.modPub_kept | apply State.followLost_kept | apply State.taeReset_kept | apply State.rgeReset_kept
    | apply Kept.ite | apply Goes.ite | apply Goes.next | apply Goes.after | apply Kept.foldl | apply Kept.foldlPair
    | (refine Kept.fst ‹_ = (_, _)› ?_) | split | lift_lets | (dsimp -zeta only)
    | (fail_if_no_progress apply Kept.fields) | apply Kept.tabs | apply FMap.tidy_put | apply FMap.tidy_mod
    | apply FMap.tidy_nil | apply FMap.tidy_foldl)

theorem State.refActivated_kept {r : State} {old : State} {r0} {s : State} (hs : Kept r s) :
    Kept r (State.refActivated old r0 s) := by
  unfold State.refActivated
  repeat' (with_reducible first
    | assumption
    | (intro x; (refine Kept.cut (s := x) ?_ (fun _ => ?_)); (on_goal 1 => subst x); (on_goal 2 => clear_value x))
    | (intro x; (refine Kept.cutPair (p := x) ?_ (fun _ => ?_)); (on_goal 1 => subst x); (on_goal 2 => clear_value x))
    | (intro x; clear_value x) | (intro _; try beta_reduce) | apply State.weftActivated_kept
    | apply State.refRestarted_kept | apply State.refWentOff_kept | apply Kept.ite | apply Goes.ite | apply Goes.next
    | apply Goes.after | apply Kept.foldl | apply Kept.foldlPair | (refine Kept.fst ‹_ = (_, _)› ?_) | split
    | lift_lets | (dsimp -zeta only) | (fail_if_no_progress apply Kept.fields) | apply Kept.tabs | apply FMap.tidy_put
    | apply FMap.tidy_mod | apply FMap.tidy_nil | apply FMap.tidy_foldl)

theorem execXcommitArm_goes {r : State} {w} {abort} {s : State} (hs : Kept r s) :
    Goes r (execXcommitArm w abort s) := by
  unfold execXcommitArm
  repeat' (with_reducible first | assumption | apply Goes.next | apply State.gateSup_kept | apply State.xcommitGo_kept)

theorem State.blkResetInstance_kept {r : State} {w} {b} {i} {s : State} (hs : Kept r s) :
    Kept r (State.blkResetInstance w b i s) := by
  unfold State.blkResetInstance
  repeat' (with_reducible first
    | assumption | (intro _; try beta_reduce) | apply State.gate_kept | apply State.evt_kept
    | apply State.instReset_kept | apply Kept.ite)

theorem State.afterCommit_kept {r : State} {old : State} {x} {restart} {b} {i} {slice} {s : State} (hs : Kept r s) :
    Kept r (State.afterCommit old x restart b i slice s) := by
  unfold State.afterCommit
  repeat' (with_reducible first
    | assumption
    | (intro x; (refine Kept.cut (s := x) ?_ (fun _ => ?_)); (on_goal 1 => subst x); (on_goal 2 => clear_value x))
    | (intro x; (refine Kept.cutPair (p := x) ?_ (fun _ => ?_)); (on_goal 1 => subst x); (on_goal 2 => clear_value x))
    | (intro x; clear_value x) | (intro _; try beta_reduce) | apply State.refActivated_kept
    | apply State.sieActivated_kept | apply State.fdcActivated_kept | apply State.psuActivated_kept
    | apply State.zActivated_kept | apply State.sliceActivated_kept | apply State.pubActivated_kept
    | apply State.followActivated_kept | apply State.taeActivated_kept | apply State.rgeActivated_kept
    | apply Kept.ite | apply Goes.ite | apply Goes.next | apply Goes.after | apply Kept.foldl | apply Kept.foldlPair
    | (refine Kept.fst ‹_ = (_, _)› ?_) | split | lift_lets | (dsimp -zeta only)
    | (fail_if_no_progress apply Kept.fields) | apply Kept.tabs | apply FMap.tidy_put | apply FMap.tidy_mod
    | apply FMap.tidy_nil | apply FMap.tidy_foldl)

theorem execXcommitAbort_goes {r : State} {w} {s : State} (hs : Kept r s) :
    Goes r (execXcommitAbort w s) := by
  unfold execXcommitAbort
  repeat' (with_reducible first
    | assumption | apply Goes.next | apply State.gateSup_kept | apply State.xcommitAbort_kept)

theorem execBlkResetInstance_goes {r : State} {w} {b} {i} {s : State} (hs : Kept r s) :
    Goes r (execBlkResetInstance w b i s) := by
  unfold execBlkResetInstance
  repeat' (with_reducible first | assumption | apply Goes.next | apply State.blkResetInstance_kept)

theorem State.blkResetAll_kept {r : State} {w} {b} {s : State} (hs : Kept r s) :
    Kept r (State.blkResetAll w b s) := by
  unfold State.blkResetAll
  repeat' (with_reducible first
    | assumption | (intro _; try beta_reduce) | apply State.gateSup_kept | apply State.when_kept
    | apply State.each_kept | apply State.instReset_kept)

theorem State.activate_kept {r : State} {b} {i} {slice} {t} {s : State} (hs : Kept r s) :
    Kept r (State.activate b i slice t s) := by
  unfold State.activate
  repeat' (with_reducible first
    | assumption
    | (intro x; (refine Kept.cut (s := x) ?_ (fun _ => ?_)); (on_goal 1 => subst x); (on_goal 2 => clear_value x))
    | (intro x; (refine Kept.cutPair (p := x) ?_ (fun _ => ?_)); (on_goal 1 => subst x); (on_goal 2 => clear_value x))
    | (intro x; clear_value x) | (intro _; try beta_reduce) | apply State.refuseCommit_kept
    | apply State.sieBefore_kept | apply State.takeShadows_kept | apply State.afterCommit_kept
    | apply State.setBit_kept | apply Kept.ite | apply Goes.ite | apply Goes.next | apply Goes.after
    | apply Kept.foldl | apply Kept.foldlPair | (refine Kept.fst ‹_ = (_, _)› ?_) | split | lift_lets
    | (dsimp -zeta only) | (fail_if_no_progress apply Kept.fields) | apply Kept.tabs | apply FMap.tidy_put
    | apply FMap.tidy_mod | apply FMap.tidy_nil | apply FMap.tidy_foldl)

theorem execBlkResetAll_goes {r : State} {w} {b} {s : State} (hs : Kept r s) :
    Goes r (execBlkResetAll w b s) := by
  unfold execBlkResetAll
  repeat' (with_reducible first | assumption | apply Goes.next | apply State.blkResetAll_kept)

theorem State.completeWait_kept {r : State} {b} {i} {slice} {w} {s : State} (hs : Kept r s) :
    Kept r (State.completeWait b i slice w s) := by
  unfold State.completeWait
  repeat' (with_reducible first
    | assumption
    | (intro x; (refine Kept.cut (s := x) ?_ (fun _ => ?_)); (on_goal 1 => subst x); (on_goal 2 => clear_value x))
    | (intro x; (refine Kept.cutPair (p := x) ?_ (fun _ => ?_)); (on_goal 1 => subst x); (on_goal 2 => clear_value x))
    | (intro x; clear_value x) | (intro _; try beta_reduce) | apply State.when_kept | apply State.evt_kept
    | apply State.activate_kept | apply State.emptied_kept | apply State.commitDone_kept | apply State.groupTook_kept
    | apply Kept.ite | apply Goes.ite | apply Goes.next | apply Goes.after | apply Kept.foldl | apply Kept.foldlPair
    | (refine Kept.fst ‹_ = (_, _)› ?_) | split | lift_lets | (dsimp -zeta only)
    | (fail_if_no_progress apply Kept.fields) | apply Kept.tabs | apply FMap.tidy_put | apply FMap.tidy_mod
    | apply FMap.tidy_nil | apply FMap.tidy_foldl)

theorem State.xcommitBlock_kept {r : State} {b} {s : State} (hs : Kept r s) :
    Kept r (State.xcommitBlock b s) := by
  unfold State.xcommitBlock
  repeat' (with_reducible first
    | assumption
    | (intro x; (refine Kept.cut (s := x) ?_ (fun _ => ?_)); (on_goal 1 => subst x); (on_goal 2 => clear_value x))
    | (intro x; (refine Kept.cutPair (p := x) ?_ (fun _ => ?_)); (on_goal 1 => subst x); (on_goal 2 => clear_value x))
    | (intro x; clear_value x) | (intro _; try beta_reduce) | apply State.each_kept | apply State.tidyStaged_kept
    | apply State.activate_kept | apply State.emptied_kept | apply State.commitDone_kept | apply Kept.ite
    | apply Goes.ite | apply Goes.next | apply Goes.after | apply Kept.foldl | apply Kept.foldlPair
    | (refine Kept.fst ‹_ = (_, _)› ?_) | split | lift_lets | (dsimp -zeta only)
    | (fail_if_no_progress apply Kept.fields) | apply Kept.tabs | apply FMap.tidy_put | apply FMap.tidy_mod
    | apply FMap.tidy_nil | apply FMap.tidy_foldl)

theorem State.completeReady_kept {r : State} {b} {i} {ready} {s : State} (hs : Kept r s) :
    Kept r (State.completeReady b i ready s) := by
  unfold State.completeReady
  repeat' (with_reducible first
    | assumption | apply State.setStaged_kept | apply State.each_kept | apply State.completeWait_kept
    | apply State.showBusy_kept | apply State.tidyStaged_kept)

theorem State.commitActivation_kept {r : State} {b} {i} {s : State} (hs : Kept r s) :
    Kept r (State.commitActivation b i s) := by
  unfold State.commitActivation
  repeat' (with_reducible first
    | assumption | (intro _; try beta_reduce) | apply State.completeReady_kept | apply Kept.ite)

theorem State.xcommitActivation_kept {r : State} {s : State} (hs : Kept r s) :
    Kept r (State.xcommitActivation s) := by
  unfold State.xcommitActivation
  repeat' (with_reducible first
    | assumption | (intro _; try beta_reduce) | apply State.setBit_kept | apply State.setFld_kept
    | apply State.each_kept | apply State.xcommitBlock_kept | apply Kept.ite)

theorem State.commitAll_kept {r : State} {w} {b} {s : State} (hs : Kept r s) :
    Kept r (State.commitAll w b s) := by
  unfold State.commitAll
  repeat' (with_reducible first
    | assumption | (intro _; try beta_reduce) | apply State.commitDone_kept | apply State.each_kept
    | apply State.setStaged_kept | apply State.showBusy_kept | apply State.completeReady_kept | apply Kept.ite)

theorem State.commitOne_kept {r : State} {w} {b} {i} {s : State} (hs : Kept r s) :
    Kept r (State.commitOne w b i s) := by
  unfold State.commitOne
  repeat' (with_reducible first
    | assumption | (intro _; try beta_reduce) | apply State.evt_kept | apply State.setStaged_kept
    | apply State.showBusy_kept | apply State.completeReady_kept | apply Kept.ite)

theorem execCommitAll_goes {r : State} {w} {b} {s : State} (hs : Kept r s) :
    Goes r (execCommitAll w b s) := by
  unfold execCommitAll
  repeat' (with_reducible first
    | assumption | (intro _; try beta_reduce) | apply Goes.next | apply State.gateSup_kept | apply State.when_kept
    | apply State.commitAll_kept)

theorem execCommitActivation_goes {r : State} {b} {i} {s : State} (hs : Kept r s) :
    Goes r (execCommitActivation b i s) := by
  unfold execCommitActivation
  repeat' (with_reducible first | assumption | apply Goes.next | apply State.commitActivation_kept)

theorem execXcommitActivation_goes {r : State} {s : State} (hs : Kept r s) :
    Goes r (execXcommitActivation s) := by
  unfold execXcommitActivation
  repeat' (with_reducible first | assumption | apply Goes.next | apply State.xcommitActivation_kept)

theorem State.commitInstance_kept {r : State} {w} {b} {i} {s : State} (hs : Kept r s) :
    Kept r (State.commitInstance w b i s) := by
  unfold State.commitInstance
  repeat' (with_reducible first
    | assumption | (intro _; try beta_reduce) | apply State.gate_kept | apply State.violate_kept
    | apply State.commitOne_kept | apply Kept.ite | split)

theorem execCommitInstance_goes {r : State} {w} {b} {i} {s : State} (hs : Kept r s) :
    Goes r (execCommitInstance w b i s) := by
  unfold execCommitInstance
  repeat' (with_reducible first | assumption | apply Goes.next | apply State.commitInstance_kept)

end Sys2Proof.Machine
end

