-- ==== Sys2Proof/Laws/KeptLedgerUnit.lean ====
section
/-!
SUPPORT. What the operations of Machine/LedgerUnit.lean keep.
-/

set_option linter.all false

namespace Sys2Proof.Machine

theorem State.takeBaize_kept {r : State} {s : State} (hs : Kept r s) :
    Kept r (State.takeBaize s) := by
  unfold State.takeBaize
  repeat' (with_reducible first
    | assumption | (intro _; try beta_reduce) | apply Kept.ite | (refine Kept.fst ‹_ = (_, _)› ?_) | split
    | (dsimp only) | (fail_if_no_progress apply Kept.fields))

theorem State.ledPut_kept {r : State} {k} {r0} {s : State} (hs : Kept r s) :
    Kept r (State.ledPut k r0 s) := by
  unfold State.ledPut
  repeat' (with_reducible first
    | assumption | (intro _; try beta_reduce) | apply State.setReg_kept | apply State.wrBytes_kept
    | apply State.inc_kept | apply Kept.ite | (refine Kept.fst ‹_ = (_, _)› ?_) | split | (dsimp only)
    | (fail_if_no_progress apply Kept.fields))

theorem State.ledWrite_kept {r : State} {r0} {s : State} (hs : Kept r s) :
    Kept r (State.ledWrite r0 s) := by
  unfold State.ledWrite
  repeat' (with_reducible first
    | assumption | (intro _; try beta_reduce) | apply State.ledPut_kept | apply State.evt_kept
    | apply State.setBit_kept | apply State.inc_kept | apply Kept.ite | (refine Kept.fst ‹_ = (_, _)› ?_) | split
    | (dsimp only))

theorem State.ledFlush_kept {r : State} {s : State} (hs : Kept r s) :
    Kept r (State.ledFlush s) := by
  unfold State.ledFlush
  repeat' (with_reducible first
    | assumption | (intro _; try beta_reduce) | apply State.evt_kept | apply State.each_kept
    | apply State.ledWrite_kept | apply Kept.ite | (refine Kept.fst ‹_ = (_, _)› ?_) | split | (dsimp only)
    | (fail_if_no_progress apply Kept.fields))

theorem execLedgerFlush_goes {r : State} {s : State} (hs : Kept r s) :
    Goes r (execLedgerFlush s) := by
  unfold execLedgerFlush
  repeat' (with_reducible first
    | assumption | (intro _; try beta_reduce) | apply Goes.next | apply State.ledFlush_kept | apply Kept.ite)

theorem State.lossRecord_kept {r : State} {s : State} (hs : Kept r s) :
    Kept r (State.lossRecord s) := by
  unfold State.lossRecord
  repeat' (with_reducible first
    | assumption | (intro _; try beta_reduce) | apply State.ledgerBare_kept | apply Kept.ite
    | (refine Kept.fst ‹_ = (_, _)› ?_) | split | (dsimp only) | (fail_if_no_progress apply Kept.fields))

theorem State.softRecord_kept {r : State} {w} {v} {s : State} (hs : Kept r s) :
    Kept r (State.softRecord w v s) := by
  unfold State.softRecord
  repeat' (with_reducible first
    | assumption | (intro _; try beta_reduce) | apply State.setBit_kept | apply State.setReg_kept
    | apply State.stageRec_kept | apply Kept.ite)

theorem State.ledScan_kept {r : State} {s : State} (hs : Kept r s) :
    Kept r (State.ledScan s) := by
  unfold State.ledScan
  repeat' (with_reducible first
    | assumption | (intro _; try beta_reduce) | apply State.each_kept | apply State.setReg_kept
    | apply State.setBit_kept | apply State.lossRecord_kept | apply State.takeBaize_kept | apply Kept.ite)

theorem execLedgerScan_goes {r : State} {s : State} (hs : Kept r s) :
    Goes r (execLedgerScan s) := by
  unfold execLedgerScan
  repeat' (with_reducible first | assumption | apply Goes.next | apply State.ledScan_kept)

theorem execSoftwareRecord_goes {r : State} {w} {value} {s : State} (hs : Kept r s) :
    Goes r (execSoftwareRecord w value s) := by
  unfold execSoftwareRecord
  repeat' (with_reducible first | assumption | apply Goes.next | apply State.gateSup_kept | apply State.softRecord_kept)

end Sys2Proof.Machine
end

