-- ==== Sys2Proof/Laws/KeptPower.lean ====
section
/-!
SUPPORT. What the operations of Machine/Power.lean keep.
-/

set_option linter.all false

namespace Sys2Proof.Machine

theorem State.coldFields_kept {r s : State} (hs : Kept r s) : Kept r (State.coldFields s) 
    := by
  apply Kept.tabs (Kept.setTime (t := {}) hs (fun _ => by unfold TimeOk; decide)) <;> first | exact id | exact FMap.tidy_put | exact FMap.tidy_mod | exact fun _ => FMap.tidy_nil

theorem State.startDue_kept {r : State} {due} {s : State} (hs : Kept r s) :
    Kept r (State.startDue due s) := by
  unfold State.startDue
  repeat' (with_reducible first
    | assumption | (intro _; try beta_reduce) | apply Kept.ite | (refine Kept.fst ‹_ = (_, _)› ?_) | split
    | (dsimp only) | (fail_if_no_progress apply Kept.fields))

theorem State.dramLost_kept {r s : State} (hs : Kept r s) : Kept r (State.dramLost s) 
    := by
  apply Kept.tabs (Kept.filterMem hs) <;> first | exact id | exact FMap.tidy_put | exact FMap.tidy_mod | exact fun _ => FMap.tidy_nil

theorem State.nxFields_kept {r : State} {s : State} (hs : Kept r s) : Kept r (State.nxFields s) := by
  have h : Kept r { s with reply := [] } := hs.trans ⟨rfl, rfl, id, id, fun _ => rfl, id, id, le_refl _, List.prefix_refl _⟩
  unfold State.nxFields
  apply Kept.tabs h <;> first | exact id | exact fun _ => FMap.tidy_nil

theorem State.resetRegs_kept {r : State} {cold} {s : State} (hs : Kept r s) : Kept r (State.resetRegs cold s) :=
  hs.trans ⟨rfl, rfl, FMap.wf_filter, FMap.wf_filter, fun _ => rfl, id,
    (State.nxFields_kept (State.cxLost_kept (Kept.refl s))).tables, le_refl _, List.prefix_refl _⟩

theorem State.straps_kept {r : State} {role} {pos} {boot} {s : State} (hs : Kept r s) :
    Kept r (State.straps role pos boot s) := by
  unfold State.straps
  repeat' (with_reducible first | assumption | apply State.setReg_kept)

theorem State.released_kept {r : State} {s : State} (hs : Kept r s) :
    Kept r (State.released s) := by
  unfold State.released
  repeat' (with_reducible first | assumption | apply State.guardArm_kept | apply State.drive_kept)

theorem State.coldReset_kept {r : State} {s : State} (hs : Kept r s) :
    Kept r (State.coldReset s) := by
  unfold State.coldReset
  repeat' (with_reducible first
    | assumption | (intro _; try beta_reduce) | apply State.coldFields_kept | apply State.resetRegs_kept
    | apply State.drive_kept | apply State.startDue_kept | apply State.setBit_kept | apply State.released_kept
    | apply Kept.ite | (refine Kept.fst ‹_ = (_, _)› ?_) | split | (dsimp only)
    | (fail_if_no_progress apply Kept.fields))

theorem State.nxFall_kept {r : State} {s : State} (hs : Kept r s) :
    Kept r (State.nxFall s) := by
  unfold State.nxFall
  repeat' (with_reducible first
    | assumption | (intro _; try beta_reduce) | apply State.drive_kept | apply State.dramLost_kept
    | apply State.coldFields_kept | apply State.resetRegs_kept | apply State.released_kept | apply Kept.ite
    | (refine Kept.fst ‹_ = (_, _)› ?_) | split | (dsimp only) | (fail_if_no_progress apply Kept.fields))

theorem State.nxRise_kept {r : State} {cause} {s : State} (hs : Kept r s) :
    Kept r (State.nxRise cause s) := by
  unfold State.nxRise
  repeat' (with_reducible first
    | assumption | (intro _; try beta_reduce) | apply State.drive_kept | apply State.setFld_kept
    | apply State.coldReset_kept | apply Kept.ite | (refine Kept.fst ‹_ = (_, _)› ?_) | split | (dsimp only)
    | (fail_if_no_progress apply Kept.fields))

end Sys2Proof.Machine
end

