-- ==== Sys2Proof/Laws/KeptKeys.lean ====
section
/-!
SUPPORT. What the operations of Machine/Keys.lean keep.
-/

set_option linter.all false

namespace Sys2Proof.Machine

theorem State.zeroRecords_kept {r : State} {k} {s : State} (hs : Kept r s) :
    Kept r (State.zeroRecords k s) := by
  unfold State.zeroRecords
  repeat' (with_reducible first
    | assumption | (intro _; try beta_reduce) | apply State.setFld_kept | apply Kept.ite
    | (refine Kept.fst ‹_ = (_, _)› ?_) | split | (dsimp only) | (fail_if_no_progress apply Kept.fields) | apply Kept.tabs
    | apply FMap.tidy_put)

theorem State.slotEmpty_kept {r : State} {k} {s : State} (hs : Kept r s) :
    Kept r (State.slotEmpty k s) := by
  unfold State.slotEmpty
  repeat' (with_reducible first
    | assumption | (intro _; try beta_reduce) | apply State.setReg_kept | apply Kept.ite
    | (refine Kept.fst ‹_ = (_, _)› ?_) | split | (dsimp only) | (fail_if_no_progress apply Kept.fields) | apply Kept.tabs
    | apply FMap.tidy_put)

theorem State.persistSlot_kept {r : State} {k} {gen} {mat} {s : State} (hs : Kept r s) :
    Kept r (State.persistSlot k gen mat s) := by
  unfold State.persistSlot
  repeat' (with_reducible first
    | assumption | (intro _; try beta_reduce) | apply State.drew_kept | apply State.inc_kept | apply State.setFld_kept
    | apply Kept.ite | (refine Kept.fst ‹_ = (_, _)› ?_) | split | (dsimp only)
    | (fail_if_no_progress apply Kept.fields) | apply Kept.tabs
    | apply FMap.tidy_put)

theorem State.keyRefuse_kept {r : State} {m} {result} {s : State} (hs : Kept r s) :
    Kept r (State.keyRefuse m result s) := by
  unfold State.keyRefuse
  repeat' (with_reducible first | assumption | apply State.inc_kept | apply State.setFld_kept)

theorem State.setSlotState_kept {r : State} {k} {v} {s : State} (hs : Kept r s) :
    Kept r (State.setSlotState k v s) := by
  unfold State.setSlotState
  repeat' (with_reducible first | assumption | apply State.setFld_kept)

theorem State.slotLoad_kept {r : State} {k} {gen} {mat} {s : State} (hs : Kept r s) :
    Kept r (State.slotLoad k gen mat s) := by
  unfold State.slotLoad
  repeat' (with_reducible first
    | assumption | (intro _; try beta_reduce) | apply State.setFld_kept | apply State.setReg_kept | apply Kept.ite
    | (refine Kept.fst ‹_ = (_, _)› ?_) | split | (dsimp only) | (fail_if_no_progress apply Kept.fields) | apply Kept.tabs
    | apply FMap.tidy_put)

theorem State.opDone_kept {r : State} {m} {k} {result} {uses} {s : State} (hs : Kept r s) :
    Kept r (State.opDone m k result uses s) := by
  unfold State.opDone
  repeat' (with_reducible first
    | assumption | (intro _; try beta_reduce) | apply State.inc_kept | apply State.keyEnd_kept | apply Kept.ite)

theorem State.slotAttrWrite_kept {r : State} {k} {isId} {v} {s : State} (hs : Kept r s) :
    Kept r (State.slotAttrWrite k isId v s) := by
  unfold State.slotAttrWrite
  repeat' (with_reducible first
    | assumption | (intro _; try beta_reduce) | apply State.setReg_kept | apply State.when_kept | apply State.evt_kept
    | apply Kept.ite)

theorem State.testRootOn_kept {r : State} {s : State} (hs : Kept r s) :
    Kept r (State.testRootOn s) := by
  unfold State.testRootOn
  repeat' (with_reducible first
    | assumption | (intro _; try beta_reduce) | apply State.setBit_kept | apply State.each_kept
    | apply State.slotEmpty_kept | apply State.setSlotState_kept | apply Kept.ite)

theorem State.keyStore_kept {r : State} {a} {l} {s : State} (hs : Kept r s) :
    Kept r (State.keyStore a l s) := by
  unfold State.keyStore
  repeat' (with_reducible first
    | assumption
    | (intro x; (refine Kept.cut (s := x) ?_ (fun _ => ?_)); (on_goal 1 => subst x); (on_goal 2 => clear_value x))
    | (intro x; (refine Kept.cutPair (p := x) ?_ (fun _ => ?_)); (on_goal 1 => subst x); (on_goal 2 => clear_value x))
    | (intro x; clear_value x) | (intro _; try beta_reduce) | apply State.dma_kept | apply Kept.ite | apply Goes.ite
    | apply Goes.next | apply Goes.after | apply Kept.foldl | apply Kept.foldlPair | (refine Kept.fst ‹_ = (_, _)› ?_)
    | split | lift_lets | (dsimp -zeta only) | (fail_if_no_progress apply Kept.fields) | apply Kept.tabs
    | apply FMap.tidy_put | apply FMap.tidy_mod | apply FMap.tidy_nil | apply FMap.tidy_foldl)

theorem State.opLoad_kept {r : State} {m} {k} {mat} {s : State} (hs : Kept r s) :
    Kept r (State.opLoad m k mat s) := by
  unfold State.opLoad
  repeat' (with_reducible first
    | assumption | (intro _; try beta_reduce) | apply State.opDone_kept | apply State.persistSlot_kept
    | apply State.slotLoad_kept | apply Kept.ite)

theorem State.loadRecord_kept {r : State} {k} {s : State} (hs : Kept r s) :
    Kept r (State.loadRecord k s) := by
  unfold State.loadRecord
  repeat' (with_reducible first
    | assumption | (intro _; try beta_reduce) | apply State.setReg_kept | apply State.setFld_kept
    | apply State.setSlotState_kept | apply State.slotLoad_kept | apply State.ledger_kept | apply State.evt_kept
    | apply Kept.ite | split)

theorem State.keyComplete_kept {r : State} {m} {s : State} (hs : Kept r s) :
    Kept r (State.keyComplete m s) := by
  unfold State.keyComplete
  repeat' (with_reducible first
    | assumption | (intro _; try beta_reduce) | apply State.opDone_kept | apply State.opLoad_kept
    | apply State.inc_kept | apply State.zeroRecords_kept | apply State.slotEmpty_kept | apply State.keyStore_kept
    | apply Kept.ite | (refine Kept.fst ‹_ = (_, _)› ?_) | split | (dsimp only))

theorem execKeyOpComplete_goes {r : State} {m} {s : State} (hs : Kept r s) :
    Goes r (execKeyOpComplete m s) := by
  unfold execKeyOpComplete
  repeat' (with_reducible first | assumption | apply Goes.next | apply State.keyComplete_kept)

theorem State.keyStart_kept {r : State} {rootOk} {dbgEn} {copy} {s : State} (hs : Kept r s) :
    Kept r (State.keyStart rootOk dbgEn copy s) := by
  unfold State.keyStart
  repeat' (with_reducible first
    | assumption | (intro _; try beta_reduce) | apply State.setReg_kept | apply State.setBit_kept
    | apply State.ledger_kept | apply State.evt_kept | apply State.each_kept | apply State.loadRecord_kept
    | apply Kept.ite)

theorem State.debugUnlock_kept {r : State} {s : State} (hs : Kept r s) :
    Kept r (State.debugUnlock s) := by
  unfold State.debugUnlock
  repeat' (with_reducible first
    | assumption | (intro _; try beta_reduce) | apply State.ledger_kept | apply State.evt_kept
    | apply State.testRootOn_kept | apply Kept.ite)

theorem State.keyCommand_kept {r : State} {w} {v} {s : State} (hs : Kept r s) :
    Kept r (State.keyCommand w v s) := by
  unfold State.keyCommand
  repeat' (with_reducible first
    | assumption | (intro _; try beta_reduce) | apply State.errResp_kept | apply State.ok_kept
    | apply State.violate_kept | apply State.keyRefuse_kept | apply State.setReg_kept | apply Kept.ite
    | (refine Kept.fst ‹_ = (_, _)› ?_) | split | (dsimp only) | (fail_if_no_progress apply Kept.fields) | apply Kept.tabs
    | apply FMap.tidy_put)

theorem execSha256_goes {r : State} {w} {s : State} (hs : Kept r s) :
    Goes r (execSha256 w s) := by
  unfold execSha256
  repeat' (with_reducible first | assumption | apply Goes.next | apply State.keyCommand_kept)

theorem execMacVer_goes {r : State} {w} {k} {tag256} {s : State} (hs : Kept r s) :
    Goes r (execMacVer w k tag256 s) := by
  unfold execMacVer
  repeat' (with_reducible first | assumption | apply Goes.next | apply State.keyCommand_kept)

theorem execMldsaVer_goes {r : State} {w} {k} {s : State} (hs : Kept r s) :
    Goes r (execMldsaVer w k s) := by
  unfold execMldsaVer
  repeat' (with_reducible first | assumption | apply Goes.next | apply State.keyCommand_kept)

theorem execLoadPublic_goes {r : State} {w} {k} {s : State} (hs : Kept r s) :
    Goes r (execLoadPublic w k s) := by
  unfold execLoadPublic
  repeat' (with_reducible first | assumption | apply Goes.next | apply State.keyCommand_kept)

theorem execZeroise_goes {r : State} {w} {k} {s : State} (hs : Kept r s) :
    Goes r (execZeroise w k s) := by
  unfold execZeroise
  repeat' (with_reducible first | assumption | apply Goes.next | apply State.keyCommand_kept)

theorem execEcdsaVer_goes {r : State} {w} {k} {s : State} (hs : Kept r s) :
    Goes r (execEcdsaVer w k s) := by
  unfold execEcdsaVer
  repeat' (with_reducible first | assumption | apply Goes.next | apply State.keyCommand_kept)

theorem execLoadWrapped_goes {r : State} {w} {k} {aux} {s : State} (hs : Kept r s) :
    Goes r (execLoadWrapped w k aux s) := by
  unfold execLoadWrapped
  repeat' (with_reducible first | assumption | apply Goes.next | apply State.keyCommand_kept)

theorem execMac_goes {r : State} {w} {k} {tag256} {s : State} (hs : Kept r s) :
    Goes r (execMac w k tag256 s) := by
  unfold execMac
  repeat' (with_reducible first | assumption | apply Goes.next | apply State.keyCommand_kept)

theorem execDerive_goes {r : State} {w} {k} {s : State} (hs : Kept r s) :
    Goes r (execDerive w k s) := by
  unfold execDerive
  repeat' (with_reducible first | assumption | apply Goes.next | apply State.keyCommand_kept)

theorem execGcmDec_goes {r : State} {w} {k} {s : State} (hs : Kept r s) :
    Goes r (execGcmDec w k s) := by
  unfold execGcmDec
  repeat' (with_reducible first | assumption | apply Goes.next | apply State.keyCommand_kept)

theorem execLoadClear_goes {r : State} {w} {k} {s : State} (hs : Kept r s) :
    Goes r (execLoadClear w k s) := by
  unfold execLoadClear
  repeat' (with_reducible first | assumption | apply Goes.next | apply State.keyCommand_kept)

theorem execGcmEnc_goes {r : State} {w} {k} {s : State} (hs : Kept r s) :
    Goes r (execGcmEnc w k s) := by
  unfold execGcmEnc
  repeat' (with_reducible first | assumption | apply Goes.next | apply State.keyCommand_kept)

theorem execSha384_goes {r : State} {w} {s : State} (hs : Kept r s) :
    Goes r (execSha384 w s) := by
  unfold execSha384
  repeat' (with_reducible first | assumption | apply Goes.next | apply State.keyCommand_kept)

theorem execSlotAttrWrite_goes {r : State} {w} {k} {isId} {value} {s : State} (hs : Kept r s) :
    Goes r (execSlotAttrWrite w k isId value s) := by
  unfold execSlotAttrWrite
  repeat' (with_reducible first
    | assumption | apply Goes.next | apply State.gateGrant_kept | apply State.slotAttrWrite_kept)

theorem execDebugUnlock_goes {r : State} {w} {s : State} (hs : Kept r s) :
    Goes r (execDebugUnlock w s) := by
  unfold execDebugUnlock
  repeat' (with_reducible first
    | assumption | (intro _; try beta_reduce) | apply Goes.next | apply State.gateSup_kept | apply State.when_kept
    | apply State.debugUnlock_kept)

end Sys2Proof.Machine
end

