-- ==== Sys2Proof/Laws/KeptTamper.lean ====
section
/-!
SUPPORT. What the operations of Machine/Tamper.lean keep.
-/

set_option linter.all false

namespace Sys2Proof.Machine

theorem State.tamperAtStart_kept {r : State} {s : State} (hs : Kept r s) :
    Kept r (State.tamperAtStart s) := by
  unfold State.tamperAtStart
  repeat' (with_reducible first
    | assumption | (intro _; try beta_reduce) | apply State.setBit_kept | apply State.each_kept
    | apply State.zeroRecords_kept | apply Kept.ite | split)

theorem State.zeroSlot_kept {r : State} {k} {s : State} (hs : Kept r s) :
    Kept r (State.zeroSlot k s) := by
  unfold State.zeroSlot
  repeat' (with_reducible first
    | assumption | (intro _; try beta_reduce) | apply State.zeroRecords_kept | apply State.setBit_kept
    | apply State.slotEmpty_kept | apply Kept.ite)

theorem State.tamperZero_kept {r : State} {s : State} (hs : Kept r s) :
    Kept r (State.tamperZero s) := by
  unfold State.tamperZero
  repeat' (with_reducible first
    | assumption | apply State.setBit_kept | apply State.each_kept | apply State.zeroSlot_kept)

theorem State.tamperAbort_kept {r : State} {s : State} (hs : Kept r s) :
    Kept r (State.tamperAbort s) := by
  unfold State.tamperAbort
  repeat' (with_reducible first
    | assumption | (intro _; try beta_reduce) | apply State.each_kept | apply State.keyAbort_kept
    | apply State.evt_kept | apply State.setSlotState_kept | apply Kept.ite | split)

theorem State.tamperSeal_kept {r : State} {s : State} (hs : Kept r s) :
    Kept r (State.tamperSeal s) := by
  unfold State.tamperSeal
  repeat' (with_reducible first | assumption | apply State.setBit_kept | apply State.tamperAbort_kept)

theorem State.tamperInput_kept {r : State} {src} {s : State} (hs : Kept r s) :
    Kept r (State.tamperInput src s) := by
  unfold State.tamperInput
  repeat' (with_reducible first
    | assumption | (intro _; try beta_reduce) | apply State.drew_kept | apply State.baizeEvent_kept | apply Kept.ite)

theorem State.tamperAct_kept {r : State} {lvl} {s : State} (hs : Kept r s) :
    Kept r (State.tamperAct lvl s) := by
  unfold State.tamperAct
  repeat' (with_reducible first
    | assumption | (intro _; try beta_reduce) | apply State.tamperSeal_kept | apply State.tamperZero_kept
    | apply Kept.ite)

theorem State.tamperDetect_kept {r : State} {src} {s : State} (hs : Kept r s) :
    Kept r (State.tamperDetect src s) := by
  unfold State.tamperDetect
  repeat' (with_reducible first
    | assumption | (intro _; try beta_reduce) | apply State.setBit_kept | apply State.evt_kept
    | apply State.tamperInput_kept | apply State.inc_kept | apply State.ledger_kept | apply State.tamperAct_kept
    | apply Kept.ite)

theorem State.latchClear_kept {r : State} {s : State} (hs : Kept r s) :
    Kept r (State.latchClear s) := by
  unfold State.latchClear
  repeat' (with_reducible first
    | assumption | (intro _; try beta_reduce) | apply State.ledger_kept | apply State.evt_kept
    | apply State.setReg_kept | apply Kept.ite)

theorem State.latchLost_kept {r : State} {s : State} (hs : Kept r s) :
    Kept r (State.latchLost s) := by
  unfold State.latchLost
  repeat' (with_reducible first
    | assumption | (intro _; try beta_reduce) | apply State.setReg_kept | apply State.inc_kept | apply State.drew_kept
    | apply State.ledgerBare_kept | apply State.tamperAct_kept | apply Kept.ite)

theorem execTamperSourceInactive_goes {r : State} {src} {s : State} (hs : Kept r s) :
    Goes r (execTamperSourceInactive src s) := by
  unfold execTamperSourceInactive
  repeat' (with_reducible first
    | assumption | (intro _; try beta_reduce) | apply Goes.next | apply State.tamperInput_kept
    | apply State.setBit_kept | apply Kept.ite)

theorem execTamperDetect_goes {r : State} {src} {s : State} (hs : Kept r s) :
    Goes r (execTamperDetect src s) := by
  unfold execTamperDetect
  repeat' (with_reducible first | assumption | apply Goes.next | apply State.tamperDetect_kept)

theorem execLatchClear_goes {r : State} {w} {s : State} (hs : Kept r s) :
    Goes r (execLatchClear w s) := by
  unfold execLatchClear
  repeat' (with_reducible first | assumption | apply Goes.next | apply State.gateSup_kept | apply State.latchClear_kept)

end Sys2Proof.Machine
end

