-- ==== Sys2Proof/Laws/KeptBackup.lean ====
section
/-!
SUPPORT. What the operations of Machine/Backup.lean keep.
-/

set_option linter.all false

namespace Sys2Proof.Machine

theorem State.rtcTick_kept {r : State} {s : State} (hs : Kept r s) :
    Kept r (State.rtcTick s) := by
  unfold State.rtcTick
  repeat' (with_reducible first
    | assumption | (intro _; try beta_reduce) | apply Kept.ite | (refine Kept.fst ‹_ = (_, _)› ?_) | split
    | (dsimp only) | (fail_if_no_progress apply Kept.fields))

theorem State.modBkd_kept {r : State} {f} {s : State} (hs : Kept r s) :
    Kept r (State.modBkd f s) := by
  unfold State.modBkd
  repeat' (with_reducible first
    | assumption | (intro _; try beta_reduce) | apply Kept.ite | (refine Kept.fst ‹_ = (_, _)› ?_) | split
    | (dsimp only) | (fail_if_no_progress apply Kept.fields))

theorem State.meterCopy_kept {r : State} {s : State} (hs : Kept r s) :
    Kept r (State.meterCopy s) := by
  unfold State.meterCopy
  repeat' (with_reducible first
    | assumption | (intro _; try beta_reduce) | apply State.modBkd_kept | apply Kept.ite)

theorem execHourMeterCopy_goes {r : State} {s : State} (hs : Kept r s) :
    Goes r (execHourMeterCopy s) := by
  unfold execHourMeterCopy
  repeat' (with_reducible first
    | assumption | (intro _; try beta_reduce) | apply Goes.next | apply State.meterCopy_kept | apply Kept.ite)

theorem State.bkdTick_kept {r : State} {s : State} (hs : Kept r s) :
    Kept r (State.bkdTick s) := by
  unfold State.bkdTick
  repeat' (with_reducible first
    | assumption | (intro _; try beta_reduce) | apply State.modBkd_kept | apply State.rtcTick_kept
    | apply State.inc_kept | apply Kept.ite)

theorem State.pwrOn_kept {r : State} {s : State} (hs : Kept r s) :
    Kept r (State.pwrOn s) := by
  unfold State.pwrOn
  repeat' (with_reducible first
    | assumption | (intro _; try beta_reduce) | apply State.modBkd_kept | apply State.drive_kept
    | apply State.setBit_kept | apply Kept.ite)

theorem State.meterRestore_kept {r : State} {s : State} (hs : Kept r s) :
    Kept r (State.meterRestore s) := by
  unfold State.meterRestore
  repeat' (with_reducible first
    | assumption | (intro _; try beta_reduce) | apply State.evt_kept | apply State.setBit_kept
    | apply State.setReg_kept | apply Kept.ite | split)

theorem execVbatMeasure_goes {r : State} {mv} {s : State} (hs : Kept r s) :
    Goes r (execVbatMeasure mv s) := by
  unfold execVbatMeasure
  repeat' (with_reducible first
    | assumption | (intro _; try beta_reduce) | apply Goes.next | apply State.when_kept | apply State.evt_kept
    | apply State.setBit_kept | apply Kept.ite)

theorem State.almCheck_kept {r : State} {a} {s : State} (hs : Kept r s) :
    Kept r (State.almCheck a s) := by
  unfold State.almCheck
  repeat' (with_reducible first
    | assumption | (intro _; try beta_reduce) | apply State.when_kept | apply State.evt_kept | apply State.setBit_kept
    | apply Kept.ite)

theorem execRtcWrap_goes {r : State} {s : State} (hs : Kept r s) :
    Goes r (execRtcWrap s) := by
  unfold execRtcWrap
  repeat' (with_reducible first
    | assumption | (intro _; try beta_reduce) | apply Goes.next | apply State.evt_kept | apply State.setBit_kept
    | apply State.modBkd_kept | apply Kept.ite)

theorem State.pwrOff_kept {r : State} {s : State} (hs : Kept r s) :
    Kept r (State.pwrOff s) := by
  unfold State.pwrOff
  repeat' (with_reducible first
    | assumption | (intro _; try beta_reduce) | apply State.modBkd_kept | apply State.drive_kept
    | apply State.setBit_kept | apply Kept.ite)

theorem execPwrPulseExpiry_goes {r : State} {s : State} (hs : Kept r s) :
    Goes r (execPwrPulseExpiry s) := by
  unfold execPwrPulseExpiry
  repeat' (with_reducible first
    | assumption | (intro _; try beta_reduce) | apply Goes.next | apply State.pwrOff_kept | apply Kept.ite | split)

theorem State.alarmCtl_kept {r : State} {a} {v} {s : State} (hs : Kept r s) :
    Kept r (State.alarmCtl a v s) := by
  unfold State.alarmCtl
  repeat' (with_reducible first
    | assumption | (intro _; try beta_reduce) | apply State.setFld_kept | apply State.modBkd_kept
    | apply State.setBit_kept | apply State.almCheck_kept | apply State.evt_kept | apply Kept.ite)

theorem State.almCheckAll_kept {r : State} {s : State} (hs : Kept r s) :
    Kept r (State.almCheckAll s) := by
  unfold State.almCheckAll
  repeat' (with_reducible first | assumption | apply State.modBkd_kept | apply State.almCheck_kept)

theorem execYearChange_goes {r : State} {s : State} (hs : Kept r s) :
    Goes r (execYearChange s) := by
  unfold execYearChange
  repeat' (with_reducible first
    | assumption | (intro _; try beta_reduce) | apply Goes.next | apply State.almCheckAll_kept | apply Kept.ite)

theorem State.backupLoss_kept {r s : State} (hs : Kept r s) : Kept r (State.backupLoss s) := by
  unfold State.backupLoss
  exact State.lossRecord_kept (State.latchLost_kept
    (by
      apply Kept.tabs (Kept.filterRegs (State.pwrOff_kept hs)) <;> first | exact id | exact FMap.tidy_put | exact FMap.tidy_mod | exact fun _ => FMap.tidy_nil))

theorem execBackupLoss_goes {r : State} {s : State} (hs : Kept r s) :
    Goes r (execBackupLoss s) := by
  unfold execBackupLoss
  repeat' (with_reducible first | assumption | apply Goes.next | apply State.backupLoss_kept)

theorem execRtcLoRead_goes {r : State} {w} {s : State} (hs : Kept r s) :
    Goes r (execRtcLoRead w s) := by
  unfold execRtcLoRead
  repeat' (with_reducible first
    | assumption | (intro _; try beta_reduce) | apply Goes.next | apply State.gate_kept | apply State.okData_kept
    | apply Kept.ite | (refine Kept.fst ‹_ = (_, _)› ?_) | split | (dsimp only)
    | (fail_if_no_progress apply Kept.fields) | apply Kept.tabs
    | apply FMap.tidy_put)

theorem execAlarmCtlWrite_goes {r : State} {w} {a} {value} {s : State} (hs : Kept r s) :
    Goes r (execAlarmCtlWrite w a value s) := by
  unfold execAlarmCtlWrite
  repeat' (with_reducible first | assumption | apply Goes.next | apply State.gateSup_kept | apply State.alarmCtl_kept)

theorem execCal0Read_goes {r : State} {w} {s : State} (hs : Kept r s) :
    Goes r (execCal0Read w s) := by
  unfold execCal0Read
  repeat' (with_reducible first
    | assumption | (intro _; try beta_reduce) | apply Goes.next | apply State.gate_kept | apply State.okData_kept
    | apply Kept.ite | (refine Kept.fst ‹_ = (_, _)› ?_) | split | (dsimp only)
    | (fail_if_no_progress apply Kept.fields) | apply Kept.tabs
    | apply FMap.tidy_put)

theorem State.alarmMatch_kept {r : State} {a} {s : State} (hs : Kept r s) :
    Kept r (State.alarmMatch a s) := by
  unfold State.alarmMatch
  repeat' (with_reducible first
    | assumption | (intro _; try beta_reduce) | apply State.evt_kept | apply State.modBkd_kept
    | apply State.pwrOn_kept | apply State.nxRise_kept | apply Kept.ite)

theorem execPwrClear_goes {r : State} {w} {s : State} (hs : Kept r s) :
    Goes r (execPwrClear w s) := by
  unfold execPwrClear
  repeat' (with_reducible first | assumption | apply Goes.next | apply State.gateSup_kept | apply State.pwrOff_kept)

theorem execAlarmMatch_goes {r : State} {a} {s : State} (hs : Kept r s) :
    Goes r (execAlarmMatch a s) := by
  unfold execAlarmMatch
  repeat' (with_reducible first | assumption | apply Goes.next | apply State.alarmMatch_kept)

theorem State.rtcSet_kept {r : State} {s : State} (hs : Kept r s) :
    Kept r (State.rtcSet s) := by
  unfold State.rtcSet
  repeat' (with_reducible first
    | assumption | apply State.modBkd_kept | apply State.alarmMatch_kept | apply State.almCheckAll_kept
    | apply State.setBit_kept)

theorem execRtcSet_goes {r : State} {w} {s : State} (hs : Kept r s) :
    Goes r (execRtcSet w s) := by
  unfold execRtcSet
  repeat' (with_reducible first | assumption | apply Goes.next | apply State.gateSup_kept | apply State.rtcSet_kept)

end Sys2Proof.Machine
end

