-- ==== Sys2Proof/Laws/KeptSupply.lean ====
section
/-!
SUPPORT. What the operations of Machine/Supply.lean keep.
-/

set_option linter.all false

namespace Sys2Proof.Machine

theorem State.modPower_kept {r : State} {f} {s : State} (hs : Kept r s) :
    Kept r (State.modPower f s) := by
  unfold State.modPower
  repeat' (with_reducible first
    | assumption | (intro _; try beta_reduce) | apply Kept.ite | (refine Kept.fst ‹_ = (_, _)› ?_) | split
    | (dsimp only) | (fail_if_no_progress apply Kept.fields))

theorem State.modBoot_kept {r : State} {f} {s : State} (hs : Kept r s) :
    Kept r (State.modBoot f s) := by
  unfold State.modBoot
  repeat' (with_reducible first
    | assumption | (intro _; try beta_reduce) | apply Kept.ite | (refine Kept.fst ‹_ = (_, _)› ?_) | split
    | (dsimp only) | (fail_if_no_progress apply Kept.fields))

theorem State.tripsOpen_kept {r : State} {s : State} (hs : Kept r s) :
    Kept r (State.tripsOpen s) := by
  unfold State.tripsOpen
  repeat' (with_reducible first
    | assumption | (intro _; try beta_reduce) | apply State.each_kept | apply State.drive_kept)

theorem State.putToken_kept {r : State} {l} {s : State} (hs : Kept r s) :
    Kept r (State.putToken l s) := by
  unfold State.putToken
  repeat' (with_reducible first
    | assumption | (intro _; try beta_reduce) | apply State.each_kept | apply State.setReg_kept)

theorem State.xspiStart_kept {r : State} {k} {cmd} {s : State} (hs : Kept r s) :
    Kept r (State.xspiStart k cmd s) := by
  unfold State.xspiStart
  repeat' (with_reducible first
    | assumption | (intro _; try beta_reduce) | apply State.setBit_kept | apply State.modBoot_kept
    | apply State.setReg_kept | apply Kept.ite)

theorem State.pairsComplete_kept {r : State} {s : State} (hs : Kept r s) :
    Kept r (State.pairsComplete s) := by
  unfold State.pairsComplete
  repeat' (with_reducible first
    | assumption | (intro _; try beta_reduce) | apply State.showSpare_kept | apply State.each_kept
    | apply State.setFld_kept | apply Kept.ite)

theorem State.pfailEnd_kept {r : State} {s : State} (hs : Kept r s) :
    Kept r (State.pfailEnd s) := by
  unfold State.pfailEnd
  repeat' (with_reducible first
    | assumption | (intro _; try beta_reduce) | apply State.modBoot_kept | apply State.when_kept
    | apply State.evt_kept | apply State.setBit_kept | apply Kept.ite)

theorem State.xspiEffect_kept {r : State} {k} {o} {data} {s : State} (hs : Kept r s) :
    Kept r (State.xspiEffect k o data s) := by
  unfold State.xspiEffect
  repeat' (with_reducible first
    | assumption | (intro _; try beta_reduce) | apply State.keyStore_kept | apply State.emit_kept | apply Kept.ite)

theorem State.xspiDone_kept {r : State} {k} {data} {err} {s : State} (hs : Kept r s) :
    Kept r (State.xspiDone k data err s) := by
  unfold State.xspiDone
  repeat' (with_reducible first
    | assumption | (intro _; try beta_reduce) | apply State.modBoot_kept | apply State.setReg_kept
    | apply State.xspiEffect_kept | apply Kept.ite | split)

theorem execPfailDeassert_goes {r : State} {s : State} (hs : Kept r s) :
    Goes r (execPfailDeassert s) := by
  unfold execPfailDeassert
  repeat' (with_reducible first | assumption | apply Goes.next | apply State.pfailEnd_kept)

theorem execXspiDone_goes {r : State} {k} {data} {err} {s : State} (hs : Kept r s) :
    Goes r (execXspiDone k data err s) := by
  unfold execXspiDone
  repeat' (with_reducible first | assumption | apply Goes.next | apply State.xspiDone_kept)

theorem State.patrol_kept {r : State} {a} {found} {s : State} (hs : Kept r s) :
    Kept r (State.patrol a found s) := by
  unfold State.patrol
  repeat' (with_reducible first
    | assumption | (intro _; try beta_reduce) | apply State.inc_kept | apply State.ledger_kept | apply State.evt_kept
    | apply Kept.ite | (refine Kept.fst ‹_ = (_, _)› ?_) | split | (dsimp only)
    | (fail_if_no_progress apply Kept.fields))

theorem State.powerFail_kept {r : State} {s : State} (hs : Kept r s) :
    Kept r (State.powerFail s) := by
  unfold State.powerFail
  repeat' (with_reducible first
    | assumption | apply State.evt_kept | apply State.setBit_kept | apply State.meterCopy_kept
    | apply State.ledFlush_kept | apply State.ledgerBare_kept)

theorem State.pfailAssert_kept {r : State} {s : State} (hs : Kept r s) :
    Kept r (State.pfailAssert s) := by
  unfold State.pfailAssert
  repeat' (with_reducible first
    | assumption | (intro _; try beta_reduce) | apply State.powerFail_kept | apply State.modBoot_kept | apply Kept.ite)

theorem execPatrolScrub_goes {r : State} {addr} {found} {s : State} (hs : Kept r s) :
    Goes r (execPatrolScrub addr found s) := by
  unfold execPatrolScrub
  repeat' (with_reducible first | assumption | apply Goes.next | apply State.patrol_kept)

theorem State.warmReset_kept {r : State} {s : State} (hs : Kept r s) :
    Kept r (State.warmReset s) := by
  unfold State.warmReset
  repeat' (with_reducible first
    | assumption | (intro _; try beta_reduce) | apply State.ledFlush_kept | apply State.putToken_kept
    | apply State.modPower_kept | apply State.resetRegs_kept | apply State.modBoot_kept | apply State.drive_kept
    | apply State.startDue_kept | apply State.setReg_kept | apply State.setBit_kept | apply State.released_kept
    | apply Kept.ite)

theorem execPfailAssert_goes {r : State} {s : State} (hs : Kept r s) :
    Goes r (execPfailAssert s) := by
  unfold execPfailAssert
  repeat' (with_reducible first | assumption | apply Goes.next | apply State.pfailAssert_kept)

theorem State.startWatchdog_kept {r : State} {s : State} (hs : Kept r s) :
    Kept r (State.startWatchdog s) := by
  unfold State.startWatchdog
  repeat' (with_reducible first
    | assumption | (intro _; try beta_reduce) | apply State.coldReset_kept | apply Kept.ite)

theorem State.redComplete_kept {r : State} {s : State} (hs : Kept r s) :
    Kept r (State.redComplete s) := by
  unfold State.redComplete
  repeat' (with_reducible first
    | assumption | (intro _; try beta_reduce) | apply State.setMember_kept | apply State.gainMandate_kept
    | apply State.evt_kept | apply Kept.ite)

theorem State.resetLong_kept {r : State} {s : State} (hs : Kept r s) :
    Kept r (State.resetLong s) := by
  unfold State.resetLong
  repeat' (with_reducible first
    | assumption | (intro _; try beta_reduce) | apply State.setFld_kept | apply State.coldReset_kept | apply Kept.ite)

theorem State.done_kept {r : State} {s : State} (hs : Kept r s) :
    Kept r (State.done s) := by
  unfold State.done
  repeat' (with_reducible first
    | assumption | (intro _; try beta_reduce) | apply State.evt_kept | apply State.healthUpdate_kept
    | apply State.setBit_kept | apply State.setFld_kept | apply State.setReg_kept | apply State.taeCtl_kept
    | apply State.drive_kept | apply State.redComplete_kept | apply State.pairsComplete_kept | apply State.ledger_kept
    | apply Kept.ite | (refine Kept.fst ‹_ = (_, _)› ?_) | split | (dsimp only)
    | (fail_if_no_progress apply Kept.fields))

theorem State.nxTimeout_kept {r : State} {s : State} (hs : Kept r s) :
    Kept r (State.nxTimeout s) := by
  unfold State.nxTimeout
  repeat' (with_reducible first
    | assumption | (intro _; try beta_reduce) | apply State.modPower_kept | apply State.nxFall_kept | apply Kept.ite)

theorem State.retain_kept {r : State} {s : State} (hs : Kept r s) :
    Kept r (State.retain s) := by
  unfold State.retain
  repeat' (with_reducible first
    | assumption | (intro _; try beta_reduce) | apply State.modBoot_kept | apply State.warmReset_kept | apply Kept.ite
    | split)

theorem State.guardLost_kept {r : State} {s : State} (hs : Kept r s) :
    Kept r (State.guardLost s) := by
  unfold State.guardLost
  repeat' (with_reducible first
    | assumption | (intro _; try beta_reduce) | apply State.tripsOpen_kept | apply State.nxFall_kept
    | apply State.modPower_kept | apply State.setBit_kept | apply State.resetBlocks_kept | apply Kept.ite
    | (refine Kept.fst ‹_ = (_, _)› ?_) | split | (dsimp only) | (fail_if_no_progress apply Kept.fields))

theorem execResetNLongHold_goes {r : State} {s : State} (hs : Kept r s) :
    Goes r (execResetNLongHold s) := by
  unfold execResetNLongHold
  repeat' (with_reducible first | assumption | apply Goes.next | apply State.resetLong_kept)

theorem State.moduleFaulted_kept {r : State} {code} {extra} {s : State} (hs : Kept r s) :
    Kept r (State.moduleFaulted code extra s) := by
  unfold State.moduleFaulted
  repeat' (with_reducible first
    | assumption | (intro _; try beta_reduce) | apply State.mandateLoss_kept | apply State.healthUpdate_kept
    | apply State.ledgerBare_kept | apply Kept.ite | (refine Kept.fst ‹_ = (_, _)› ?_) | split | (dsimp only)
    | (fail_if_no_progress apply Kept.fields))

theorem execReferenceClockLoss_goes {r : State} {pll} {s : State} (hs : Kept r s) :
    Goes r (execReferenceClockLoss pll s) := by
  unfold execReferenceClockLoss
  repeat' (with_reducible first
    | assumption
    | (intro x; (refine Kept.cut (s := x) ?_ (fun _ => ?_)); (on_goal 1 => subst x); (on_goal 2 => clear_value x))
    | (intro x; (refine Kept.cutPair (p := x) ?_ (fun _ => ?_)); (on_goal 1 => subst x); (on_goal 2 => clear_value x))
    | (intro x; clear_value x) | (intro _; try beta_reduce) | apply State.moduleFaulted_kept
    | apply State.modPower_kept | apply Kept.ite | apply Goes.ite | apply Goes.next | apply Goes.after
    | apply Kept.foldl | apply Kept.foldlPair | (refine Kept.fst ‹_ = (_, _)› ?_) | split | lift_lets
    | (dsimp -zeta only) | (fail_if_no_progress apply Kept.fields) | apply Kept.tabs | apply FMap.tidy_put
    | apply FMap.tidy_mod | apply FMap.tidy_nil | apply FMap.tidy_foldl)

theorem execStartWatchdog_goes {r : State} {s : State} (hs : Kept r s) :
    Goes r (execStartWatchdog s) := by
  unfold execStartWatchdog
  repeat' (with_reducible first | assumption | apply Goes.next | apply State.startWatchdog_kept)

theorem execXspiRead_goes {r : State} {w} {k} {s : State} (hs : Kept r s) :
    Goes r (execXspiRead w k s) := by
  unfold execXspiRead
  repeat' (with_reducible first | assumption | apply Goes.next | apply State.gateSup_kept | apply State.xspiStart_kept)

theorem execColdReset_goes {r : State} {w} {s : State} (hs : Kept r s) :
    Goes r (execColdReset w s) := by
  unfold execColdReset
  repeat' (with_reducible first | assumption | apply Goes.next | apply State.gateSup_kept | apply State.coldReset_kept)

theorem execDone_goes {r : State} {w} {s : State} (hs : Kept r s) :
    Goes r (execDone w s) := by
  unfold execDone
  repeat' (with_reducible first | assumption | apply Goes.next | apply State.gateSup_kept | apply State.done_kept)

theorem execCxPowerDown_goes {r : State} {s : State} (hs : Kept r s) :
    Goes r (execCxPowerDown s) := by
  unfold execCxPowerDown
  repeat' (with_reducible first
    | assumption | (intro _; try beta_reduce) | apply Goes.next | apply State.cxFall_kept | apply Kept.ite | split)

theorem execSupplyFault_goes {r : State} {rail} {s : State} (hs : Kept r s) :
    Goes r (execSupplyFault rail s) := by
  unfold execSupplyFault
  repeat' (with_reducible first
    | assumption | (intro _; try beta_reduce) | apply Goes.next | apply State.powerFail_kept
    | apply State.moduleFaulted_kept | apply Kept.ite)

theorem execXspiProgram_goes {r : State} {w} {k} {s : State} (hs : Kept r s) :
    Goes r (execXspiProgram w k s) := by
  unfold execXspiProgram
  repeat' (with_reducible first | assumption | apply Goes.next | apply State.gateSup_kept | apply State.xspiStart_kept)

theorem State.resetPulse_kept {r : State} {role} {pos} {boot} {s : State} (hs : Kept r s) :
    Kept r (State.resetPulse role pos boot s) := by
  unfold State.resetPulse
  repeat' (with_reducible first
    | assumption | (intro _; try beta_reduce) | apply State.modPower_kept | apply State.setFld_kept
    | apply State.coldReset_kept | apply State.nxRise_kept | apply State.modBoot_kept | apply State.straps_kept
    | apply Kept.ite)

theorem execWarmReset_goes {r : State} {w} {s : State} (hs : Kept r s) :
    Goes r (execWarmReset w s) := by
  unfold execWarmReset
  repeat' (with_reducible first
    | assumption | (intro _; try beta_reduce) | apply Goes.next | apply State.gateSup_kept
    | apply State.warmReset_kept | apply State.evt_kept | apply Kept.ite)

theorem State.sleep_kept {r : State} {s : State} (hs : Kept r s) :
    Kept r (State.sleep s) := by
  unfold State.sleep
  repeat' (with_reducible first
    | assumption | (intro _; try beta_reduce) | apply State.setBit_kept | apply State.nxFall_kept
    | apply State.meterCopy_kept | apply State.ledFlush_kept | apply Kept.ite)

theorem execPfRetain_goes {r : State} {s : State} (hs : Kept r s) :
    Goes r (execPfRetain s) := by
  unfold execPfRetain
  repeat' (with_reducible first | assumption | apply Goes.next | apply State.retain_kept)

theorem execNxRailTimeout_goes {r : State} {s : State} (hs : Kept r s) :
    Goes r (execNxRailTimeout s) := by
  unfold execNxRailTimeout
  repeat' (with_reducible first | assumption | apply Goes.next | apply State.nxTimeout_kept)

theorem State.nxRetry_kept {r : State} {s : State} (hs : Kept r s) :
    Kept r (State.nxRetry s) := by
  unfold State.nxRetry
  repeat' (with_reducible first
    | assumption | (intro _; try beta_reduce) | apply State.nxRise_kept | apply Kept.ite | split)

theorem State.powerUp_kept {r : State} {role} {pos} {boot} {s : State} (hs : Kept r s) :
    Kept r (State.powerUp role pos boot s) := by
  unfold State.powerUp
  repeat' (with_reducible first
    | assumption | (intro _; try beta_reduce) | apply State.resetBlocks_kept | apply State.modPower_kept
    | apply State.modBkd_kept | apply State.inc_kept | apply State.setBit_kept | apply State.straps_kept
    | apply State.nxRise_kept | apply Kept.ite | (refine Kept.fst ‹_ = (_, _)› ?_) | split | (dsimp only)
    | (fail_if_no_progress apply Kept.fields))

theorem State.cxTimeout_kept {r : State} {s : State} (hs : Kept r s) :
    Kept r (State.cxTimeout s) := by
  unfold State.cxTimeout
  repeat' (with_reducible first
    | assumption | (intro _; try beta_reduce) | apply State.cxFall_kept | apply State.moduleFaulted_kept
    | apply Kept.ite)

theorem execVddGuardLoss_goes {r : State} {s : State} (hs : Kept r s) :
    Goes r (execVddGuardLoss s) := by
  unfold execVddGuardLoss
  repeat' (with_reducible first | assumption | apply Goes.next | apply State.guardLost_kept)

theorem execPowerUp_goes {r : State} {role} {pos} {boot} {s : State} (hs : Kept r s) :
    Goes r (execPowerUp role pos boot s) := by
  unfold execPowerUp
  repeat' (with_reducible first | assumption | apply Goes.next | apply State.powerUp_kept)

theorem execXspiErase_goes {r : State} {w} {k} {s : State} (hs : Kept r s) :
    Goes r (execXspiErase w k s) := by
  unfold execXspiErase
  repeat' (with_reducible first | assumption | apply Goes.next | apply State.gateSup_kept | apply State.xspiStart_kept)

theorem execCxRailTimeout_goes {r : State} {s : State} (hs : Kept r s) :
    Goes r (execCxRailTimeout s) := by
  unfold execCxRailTimeout
  repeat' (with_reducible first | assumption | apply Goes.next | apply State.cxTimeout_kept)

theorem execSleep_goes {r : State} {w} {s : State} (hs : Kept r s) :
    Goes r (execSleep w s) := by
  unfold execSleep
  repeat' (with_reducible first | assumption | apply Goes.next | apply State.gateSup_kept | apply State.sleep_kept)

theorem execNxEnRetry_goes {r : State} {s : State} (hs : Kept r s) :
    Goes r (execNxEnRetry s) := by
  unfold execNxEnRetry
  repeat' (with_reducible first | assumption | apply Goes.next | apply State.nxRetry_kept)

theorem execResetNPulse_goes {r : State} {role} {pos} {boot} {s : State} (hs : Kept r s) :
    Goes r (execResetNPulse role pos boot s) := by
  unfold execResetNPulse
  repeat' (with_reducible first | assumption | apply Goes.next | apply State.resetPulse_kept)

end Sys2Proof.Machine
end

