-- ==== Sys2Proof/Laws/KeptAccess.lean ====
section
/-!
SUPPORT. What the operations of Machine/Access.lean keep.
-/

set_option linter.all false

namespace Sys2Proof.Machine

theorem State.readWord_kept {r : State} {w} {a} {s : State} (hs : Kept r s) :
    Kept r (State.readWord w a s) := by
  unfold State.readWord
  repeat' (with_reducible first
    | assumption | (intro _; try beta_reduce) | apply State.okData_kept | apply Kept.ite
    | (refine Kept.fst ‹_ = (_, _)› ?_) | split | (dsimp only) | (fail_if_no_progress apply Kept.fields) | apply Kept.tabs
    | apply FMap.tidy_put)

theorem State.read64_kept {r : State} {w} {a} {s : State} (hs : Kept r s) :
    Kept r (State.read64 w a s) := by
  unfold State.read64
  repeat' (with_reducible first
    | assumption | (intro _; try beta_reduce) | apply State.gate_kept | apply State.okData_kept)

theorem Goes.after {r s : State} {o : Host.Outcome State Fault Refusal} (h : Goes r o) : Kept r (after s o) := by
  obtain ⟨t, rfl, ht⟩ := h
  exact ht

theorem State.read32_kept {r : State} {w} {a} {s : State} (hs : Kept r s) : Kept r (State.read32 w a s) := by
  unfold State.read32
  refine Kept.ite (Goes.after (execNowNsRead_goes hs)) (Kept.ite (Goes.after (execRtcLoRead_goes hs))
    (Kept.ite (Goes.after (execCal0Read_goes hs)) ?_))
  exact State.gate_kept (fun _ h => State.readWord_kept h) hs

theorem State.busRead_kept {r : State} {w} {a} {size} {s : State} (hs : Kept r s) :
    Kept r (State.busRead w a size s) := by
  unfold State.busRead
  repeat' (with_reducible first
    | assumption | (intro _; try beta_reduce) | apply State.accessErr_kept | apply State.read64_kept
    | apply State.read32_kept | apply Kept.ite)

theorem execLowWordRead_goes {r : State} {w} {addr} {s : State} (hs : Kept r s) :
    Goes r (execLowWordRead w addr s) := by
  unfold execLowWordRead
  repeat' (with_reducible first | assumption | apply Goes.next | apply State.busRead_kept)

theorem execHighWordRead_goes {r : State} {w} {addr} {s : State} (hs : Kept r s) :
    Goes r (execHighWordRead w addr s) := by
  unfold execHighWordRead
  repeat' (with_reducible first | assumption | apply Goes.next | apply State.busRead_kept)

end Sys2Proof.Machine
end

