-- ==== Sys2Proof/Laws/KeptGrants.lean ====
section
/-!
SUPPORT. What the operations of Machine/Grants.lean keep.
-/

set_option linter.all false

namespace Sys2Proof.Machine

theorem State.grantStat_kept {r : State} {i} {result} {busy} {s : State} (hs : Kept r s) :
    Kept r (State.grantStat i result busy s) := by
  unfold State.grantStat
  repeat' (with_reducible first | assumption | apply State.setReg_kept)

theorem State.revokeDone_kept {r : State} {i} {s : State} (hs : Kept r s) :
    Kept r (State.revokeDone i s) := by
  unfold State.revokeDone
  repeat' (with_reducible first
    | assumption | (intro _; try beta_reduce) | apply State.grantStat_kept | apply Kept.ite
    | (refine Kept.fst ‹_ = (_, _)› ?_) | split | (dsimp only) | (fail_if_no_progress apply Kept.fields) | apply Kept.tabs
    | apply FMap.tidy_put)

theorem State.grantCreate_kept {r : State} {i} {s : State} (hs : Kept r s) :
    Kept r (State.grantCreate i s) := by
  unfold State.grantCreate
  repeat' (with_reducible first
    | assumption | (intro _; try beta_reduce) | apply State.grantStat_kept | apply Kept.ite
    | (refine Kept.fst ‹_ = (_, _)› ?_) | split | (dsimp only) | (fail_if_no_progress apply Kept.fields) | apply Kept.tabs
    | apply FMap.tidy_put)

theorem execGrantRevokeComplete_goes {r : State} {g} {s : State} (hs : Kept r s) :
    Goes r (execGrantRevokeComplete g s) := by
  unfold execGrantRevokeComplete
  repeat' (with_reducible first | assumption | apply Goes.next | apply State.revokeDone_kept)

theorem State.grantRevoke_kept {r : State} {i} {s : State} (hs : Kept r s) :
    Kept r (State.grantRevoke i s) := by
  unfold State.grantRevoke
  repeat' (with_reducible first
    | assumption | (intro _; try beta_reduce) | apply State.grantStat_kept | apply State.each_kept
    | apply State.shadowReset_kept | apply Kept.ite | (refine Kept.fst ‹_ = (_, _)› ?_) | split | (dsimp only)
    | (fail_if_no_progress apply Kept.fields) | apply Kept.tabs
    | apply FMap.tidy_put)

theorem State.grantCmd_kept {r : State} {w} {f} {s : State} (hf : ∀ y3, Kept r y3 → Kept r (f y3)) (hs : Kept r s) :
    Kept r (State.grantCmd w f s) := by
  unfold State.grantCmd
  repeat' (with_reducible first
    | assumption | (intro _; try beta_reduce) | apply State.gateSup_kept | apply State.evt_kept | apply hf
    | apply Kept.ite)

theorem execGrantCreate_goes {r : State} {w} {g} {s : State} (hs : Kept r s) :
    Goes r (execGrantCreate w g s) := by
  unfold execGrantCreate
  repeat' (with_reducible first
    | assumption | apply Goes.next | apply State.grantCmd_kept | apply State.grantCreate_kept)

theorem execGrantRevoke_goes {r : State} {w} {g} {s : State} (hs : Kept r s) :
    Goes r (execGrantRevoke w g s) := by
  unfold execGrantRevoke
  repeat' (with_reducible first
    | assumption | apply Goes.next | apply State.grantCmd_kept | apply State.grantRevoke_kept)

end Sys2Proof.Machine
end

