-- ==== Sys2Proof/Laws/KeptBus.lean ====
section
/-!
SUPPORT. What the operations of Machine/Bus.lean keep.
-/

set_option linter.all false

namespace Sys2Proof.Machine

theorem State.issue_kept {r : State} {p} {pc} {f} {s : State} (hf : ∀ y4 y5, Kept r y5 → Kept r (f y4 y5)) (hs : Kept r s) :
    Kept r (State.issue p pc f s) := by
  unfold State.issue
  repeat' (with_reducible first
    | assumption
    | (intro x; (refine Kept.cut (s := x) ?_ (fun _ => ?_)); (on_goal 1 => subst x); (on_goal 2 => clear_value x))
    | (intro x; (refine Kept.cutPair (p := x) ?_ (fun _ => ?_)); (on_goal 1 => subst x); (on_goal 2 => clear_value x))
    | (intro x; clear_value x) | (intro _; try beta_reduce) | apply hf | apply Kept.ite | apply Goes.ite
    | apply Goes.next | apply Goes.after | apply Kept.foldl | apply Kept.foldlPair | (refine Kept.fst ‹_ = (_, _)› ?_)
    | split | lift_lets | (dsimp -zeta only) | (fail_if_no_progress apply Kept.fields) | apply Kept.tabs
    | apply FMap.tidy_put | apply FMap.tidy_mod | apply FMap.tidy_nil | apply FMap.tidy_foldl)

theorem ran_kept {r t : State} {s : State} {o} (ho : Goes r o) (he : ran s o = some t) : Kept r t := by
  cases he
  exact Goes.after ho

theorem State.fence_kept {r : State} {p} {kind} {s : State} (hs : Kept r s) :
    Kept r (State.fence p kind s) := by
  unfold State.fence
  repeat' (with_reducible first
    | assumption
    | (intro x; (refine Kept.cut (s := x) ?_ (fun _ => ?_)); (on_goal 1 => subst x); (on_goal 2 => clear_value x))
    | (intro x; (refine Kept.cutPair (p := x) ?_ (fun _ => ?_)); (on_goal 1 => subst x); (on_goal 2 => clear_value x))
    | (intro x; clear_value x) | (intro _; try beta_reduce) | apply State.issue_kept | apply Kept.ite | apply Goes.ite
    | apply Goes.next | apply Goes.after | apply Kept.foldl | apply Kept.foldlPair | (refine Kept.fst ‹_ = (_, _)› ?_)
    | split | lift_lets | (dsimp -zeta only) | (fail_if_no_progress apply Kept.fields) | apply Kept.tabs
    | apply FMap.tidy_put | apply FMap.tidy_mod | apply FMap.tidy_nil | apply FMap.tidy_foldl)

theorem execFencePoint_goes {r : State} {p} {s : State} (hs : Kept r s) :
    Goes r (execFencePoint p s) := by
  unfold execFencePoint
  repeat' (with_reducible first | assumption | apply Goes.next | apply State.fence_kept)

theorem execFenceEngine_goes {r : State} {p} {s : State} (hs : Kept r s) :
    Goes r (execFenceEngine p s) := by
  unfold execFenceEngine
  repeat' (with_reducible first | assumption | apply Goes.next | apply State.fence_kept)

theorem execFenceNet_goes {r : State} {p} {s : State} (hs : Kept r s) :
    Goes r (execFenceNet p s) := by
  unfold execFenceNet
  repeat' (with_reducible first | assumption | apply Goes.next | apply State.fence_kept)

theorem State.markWake_kept {r : State} {p} {n} {s : State} (hs : Kept r s) :
    Kept r (State.markWake p n s) := by
  unfold State.markWake
  repeat' (with_reducible first
    | assumption | (intro _; try beta_reduce) | apply State.answer_kept | apply State.modSl_kept | apply Kept.ite
    | split)

theorem execFenceAll_goes {r : State} {p} {s : State} (hs : Kept r s) :
    Goes r (execFenceAll p s) := by
  unfold execFenceAll
  repeat' (with_reducible first | assumption | apply Goes.next | apply State.fence_kept)

theorem execMarkWaitWake_goes {r : State} {p} {s : State} (hs : Kept r s) :
    Goes r (execMarkWaitWake p s) := by
  unfold execMarkWaitWake
  repeat' (with_reducible first
    | assumption | (intro _; try beta_reduce) | apply Goes.next | apply State.markWake_kept | apply Kept.ite | split)

theorem State.fenceComplete_kept {r : State} {m} {doorbell} {s : State} (hs : Kept r s) :
    Kept r (State.fenceComplete m doorbell s) := by
  unfold State.fenceComplete
  repeat' (with_reducible first
    | assumption | (intro _; try beta_reduce) | apply State.setBit_kept | apply Kept.ite
    | (refine Kept.fst ‹_ = (_, _)› ?_) | split | (dsimp only) | (fail_if_no_progress apply Kept.fields) | apply Kept.tabs
    | apply FMap.tidy_put | apply FMap.tidy_mod | apply FMap.tidy_foldl | apply FMap.tidy_nil)

theorem State.putEngine_kept {r : State} {b} {off} {a} {v} {s : State} (hs : Kept r s) :
    Kept r (State.putEngine b off a v s) := by
  unfold State.putEngine
  repeat' (with_reducible first
    | assumption | (intro _; try beta_reduce) | apply State.when_kept | apply State.ppsLow_kept
    | apply State.setReg_kept | apply State.setBit_kept | apply State.each_kept | apply State.dispatch_kept
    | apply State.watchCfg_kept | apply State.evt_kept | apply Kept.ite | split)

theorem execFenceComplete_goes {r : State} {m} {doorbell} {s : State} (hs : Kept r s) :
    Goes r (execFenceComplete m doorbell s) := by
  unfold execFenceComplete
  repeat' (with_reducible first | assumption | apply Goes.next | apply State.fenceComplete_kept)

theorem State.poisonRead_kept {r : State} {w} {s : State} (hs : Kept r s) :
    Kept r (State.poisonRead w s) := by
  unfold State.poisonRead
  repeat' (with_reducible first
    | assumption | (intro _; try beta_reduce) | apply State.drew_kept | apply State.okData_kept
    | apply State.abortPass_kept | apply Kept.ite | split)

theorem State.memViolate_kept {r : State} {w} {x} {r0} {s : State} (hs : Kept r s) :
    Kept r (State.memViolate w x r0 s) := by
  unfold State.memViolate
  repeat' (with_reducible first | assumption | apply State.violate_kept)

theorem State.doorbell_kept {r : State} {w} {n} {kind} {s : State} (hs : Kept r s) :
    Kept r (State.doorbell w n kind s) := by
  unfold State.doorbell
  repeat' (with_reducible first
    | assumption | (intro _; try beta_reduce) | apply State.gateSup_kept | apply State.captureErr_kept
    | apply State.setBit_kept | apply State.setReg_kept | apply Kept.ite | (refine Kept.fst ‹_ = (_, _)› ?_) | split
    | (dsimp only) | (fail_if_no_progress apply Kept.fields) | apply Kept.tabs
    | apply FMap.tidy_put | apply FMap.tidy_mod | apply FMap.tidy_foldl | apply FMap.tidy_nil)

theorem execDoorbellFenceNet_goes {r : State} {w} {n} {s : State} (hs : Kept r s) :
    Goes r (execDoorbellFenceNet w n s) := by
  unfold execDoorbellFenceNet
  repeat' (with_reducible first | assumption | apply Goes.next | apply State.doorbell_kept)

theorem State.memAccess_kept {r : State} {w} {a} {n} {r0} {v} {s : State} (hs : Kept r s) :
    Kept r (State.memAccess w a n r0 v s) := by
  unfold State.memAccess
  repeat' (with_reducible first
    | assumption | (intro _; try beta_reduce) | apply State.accessErr_kept | apply State.memViolate_kept
    | apply State.ok_kept | apply State.keyStore_kept | apply State.poisonRead_kept | apply State.okData_kept
    | apply Kept.ite | split)

theorem State.clearOnes_kept {r : State} {a} {mask} {v} {s : State} (hs : Kept r s) :
    Kept r (State.clearOnes a mask v s) := by
  unfold State.clearOnes
  repeat' (with_reducible first
    | assumption | (intro _; try beta_reduce) | apply State.setReg_kept | apply State.when_kept
    | apply State.setBit_kept | apply State.guardFaultShown_kept | apply Kept.ite | split)

theorem execDoorbellFencePoint_goes {r : State} {w} {n} {s : State} (hs : Kept r s) :
    Goes r (execDoorbellFencePoint w n s) := by
  unfold execDoorbellFencePoint
  repeat' (with_reducible first | assumption | apply Goes.next | apply State.doorbell_kept)

theorem execDoorbellFenceEngine_goes {r : State} {w} {n} {s : State} (hs : Kept r s) :
    Goes r (execDoorbellFenceEngine w n s) := by
  unfold execDoorbellFenceEngine
  repeat' (with_reducible first | assumption | apply Goes.next | apply State.doorbell_kept)

theorem State.ignored_kept {r : State} {w} {a} {s : State} (hs : Kept r s) : Kept r (State.ignored w a s) :=
  State.gateSup_kept (fun _ h => h) hs

theorem State.cmdCan_kept {r t : State} {w off v} {s : State} (hs : Kept r s) (he : State.cmdCan w off v s = some t) :
    Kept r t := by
  unfold State.cmdCan at he
  split at he
  · cases he
  · dsimp only at he
    split at he
    · split at he
      · exact ran_kept (execEnqueue_goes hs) he
      · exact ran_kept (execWithdraw_goes hs) he
      · cases he
        exact State.gateGrant_kept (fun _ h => h) hs
    · exact ran_kept (execFifoPop_goes hs) he
    · exact ran_kept (execTrumpPop_goes hs) he
    · cases he

theorem execDoorbellFenceAll_goes {r : State} {w} {n} {s : State} (hs : Kept r s) :
    Goes r (execDoorbellFenceAll w n s) := by
  unfold execDoorbellFenceAll
  repeat' (with_reducible first | assumption | apply Goes.next | apply State.doorbell_kept)

theorem State.putOther_kept {r : State} {b} {off} {a} {v} {s : State} (hs : Kept r s) :
    Kept r (State.putOther b off a v s) := by
  unfold State.putOther
  repeat' (with_reducible first
    | assumption | (intro _; try beta_reduce) | apply State.setReg_kept | apply State.cxHold_kept
    | apply State.healthUpdate_kept | apply State.taeCtl_kept | apply State.imgWrite_kept | apply State.canCtl_kept
    | apply State.canRecover_kept | apply State.canTiming_kept | apply Kept.ite | split)

theorem State.cmdRec_kept {r t : State} {w b off v} {s : State} (hs : Kept r s)
    (he : State.cmdRec w b off v s = some t) :
    Kept r t := by
  unfold State.cmdRec at he
  split at he
  · obtain ⟨x, -, rfl⟩ := Option.map_eq_some_iff.1 he
    dsimp only
    split
    · exact Goes.after (execTaeArm_goes hs)
    · exact Goes.after (execTaeDisarm_goes hs)
    · exact Goes.after (execTaeTrigger_goes hs)
    · exact Goes.after (execTaeFree_goes hs)
    · exact State.gate_kept (fun _ h => h) hs
  · obtain ⟨x, -, rfl⟩ := Option.map_eq_some_iff.1 he
    dsimp only
    split
    · exact Goes.after (execLoopOpen_goes hs)
    · exact Goes.after (execLoopClose_goes hs)
    · exact Goes.after (execStopRamp_goes hs)
    · exact State.gateGrant_kept (fun _ h => h) hs

theorem State.cmdTime_kept {r t : State} {w} {b} {off} {v} {s : State} (hs : Kept r s)
    (he : State.cmdTime w b off v s = some t) :
    Kept r t := by
  unfold State.cmdTime at he
  repeat' (with_reducible first
    | assumption | (cases he) | (split at he) | (obtain ⟨x, -, rfl⟩ := Option.map_eq_some_iff.1 he)
    | (intro _; try beta_reduce) | refine ran_kept ?_ he | apply execSet_goes | apply execStep_goes
    | apply execSeed_goes | apply execLock_goes | apply execUnlock_goes | apply State.ignored_kept
    | apply State.gateSup_kept | apply State.trigCfg_kept | apply State.censusAbort_kept | apply State.censusArm_kept
    | apply State.censusFireNow_kept | apply Kept.ite | split)

theorem State.cmdLge_kept {r t : State} {w off v} {s : State} (hs : Kept r s) (he : State.cmdLge w off v s = some t) :
    Kept r t := by
  unfold State.cmdLge at he
  split at he
  · dsimp only at he
    split at he
    · exact ran_kept (execProgramLoad_goes hs) he
    · exact ran_kept (execStartCold_goes hs) he
    · exact ran_kept (execStartWarm_goes hs) he
    · exact ran_kept (execProgramStop_goes hs) he
    · exact ran_kept (execProgramHold_goes hs) he
    · exact ran_kept (execProgramResume_goes hs) he
    · exact ran_kept (execApply_goes hs) he
    · exact ran_kept (execProgramUnload_goes hs) he
    · cases he
      exact State.gateGrant_kept (fun _ h => h) hs
  · split at he
    · dsimp only at he
      split at he
      · exact ran_kept (execForceWrite_goes hs) he
      · cases he
    · cases he

theorem State.putSwitch_kept {r : State} {b} {off} {a} {v} {s : State} (hs : Kept r s) :
    Kept r (State.putSwitch b off a v s) := by
  unfold State.putSwitch
  repeat' (with_reducible first
    | assumption
    | (intro x; (refine Kept.cut (s := x) ?_ (fun _ => ?_)); (on_goal 1 => subst x); (on_goal 2 => clear_value x))
    | (intro x; (refine Kept.cutPair (p := x) ?_ (fun _ => ?_)); (on_goal 1 => subst x); (on_goal 2 => clear_value x))
    | (intro x; clear_value x) | (intro _; try beta_reduce) | apply State.macCfg_kept | apply State.macEee_kept
    | apply State.setReg_kept | apply State.mirrorCfg_kept | apply State.ringWrite_kept | apply State.hcRingWrite_kept
    | apply Kept.ite | apply Goes.ite | apply Goes.next | apply Goes.after | apply Kept.foldl | apply Kept.foldlPair
    | (refine Kept.fst ‹_ = (_, _)› ?_) | split | lift_lets | (dsimp -zeta only)
    | (fail_if_no_progress apply Kept.fields) | apply Kept.tabs | apply FMap.tidy_put | apply FMap.tidy_mod
    | apply FMap.tidy_nil | apply FMap.tidy_foldl)

theorem State.cmdSys_kept {r t : State} {w} {off} {v} {s : State} (hs : Kept r s)
    (he : State.cmdSys w off v s = some t) :
    Kept r t := by
  unfold State.cmdSys at he
  repeat' (with_reducible first
    | assumption | (cases he) | (split at he) | (obtain ⟨x, -, rfl⟩ := Option.map_eq_some_iff.1 he)
    | (intro x; (refine Kept.cut (s := x) ?_ (fun _ => ?_)); (on_goal 1 => subst x); (on_goal 2 => clear_value x))
    | (intro x; (refine Kept.cutPair (p := x) ?_ (fun _ => ?_)); (on_goal 1 => subst x); (on_goal 2 => clear_value x))
    | (intro x; clear_value x) | (intro _; try beta_reduce) | refine ran_kept ?_ he | apply execXcommitArm_goes
    | apply execXcommitAbort_goes | apply State.ignored_kept | apply execDone_goes | apply execWarmReset_goes
    | apply execColdReset_goes | apply execSleep_goes | apply State.doorbell_kept | apply State.gateSup_kept
    | apply State.captureErr_kept | apply State.xspiStart_kept | apply Kept.ite | apply Goes.ite | apply Goes.next
    | apply Goes.after | apply Kept.foldl | apply Kept.foldlPair | (refine Kept.fst ‹_ = (_, _)› ?_) | split
    | lift_lets | (dsimp -zeta only) | (dsimp only at he) | (fail_if_no_progress apply Kept.fields) | apply Kept.tabs
    | apply FMap.tidy_put | apply FMap.tidy_mod | apply FMap.tidy_foldl | apply FMap.tidy_nil)

theorem State.cmdSafe_kept {r t : State} {w} {b} {off} {v} {s : State} (hs : Kept r s)
    (he : State.cmdSafe w b off v s = some t) :
    Kept r t := by
  unfold State.cmdSafe at he
  repeat' (with_reducible first
    | assumption | (cases he) | (split at he) | (obtain ⟨x, -, rfl⟩ := Option.map_eq_some_iff.1 he)
    | (intro _; try beta_reduce) | apply State.keyCommand_kept | refine ran_kept ?_ he | apply execDebugUnlock_goes
    | apply State.ignored_kept | apply execSlotAttrWrite_goes | apply execLatchClear_goes
    | apply execSoftwareRecord_goes | apply State.gateSup_kept | apply State.rtcSet_kept | apply State.pwrOff_kept
    | apply execAlarmCtlWrite_goes | apply execGuardApply_goes | apply Kept.ite | split)

theorem State.putValue_kept {r : State} {b} {off} {a} {v} {s : State} (hs : Kept r s) :
    Kept r (State.putValue b off a v s) := by
  unfold State.putValue
  repeat' (with_reducible first
    | assumption | (intro _; try beta_reduce) | apply State.putEngine_kept | apply State.putSwitch_kept
    | apply State.putOther_kept | apply Kept.ite | split)

theorem State.cmdPoint_kept {r t : State} {w b off v} {s : State} (hs : Kept r s)
    (he : State.cmdPoint w b off v s = some t) : Kept r t := by
  unfold State.cmdPoint at he
  split at he
  · split at he
    · exact ran_kept (execPortWrite_goes hs) he
    · obtain ⟨x, -, rfl⟩ := Option.map_eq_some_iff.1 he
      exact State.gateSup_kept (fun _ h => State.subCfg_kept h) hs
  · split at he
    · split at he
      · exact ran_kept (execPubReqRefresh_goes hs) he
      · exact ran_kept (execPubReqNewState_goes hs) he
    · cases he

theorem State.writeFields_kept {r : State} {w} {b} {off} {a} {r0} {v} {s : State} (hs : Kept r s) :
    Kept r (State.writeFields w b off a r0 v s) := by
  unfold State.writeFields
  repeat' (with_reducible first
    | assumption | (intro _; try beta_reduce) | apply State.captureErr_kept | apply State.putValue_kept
    | apply Kept.ite | split)

theorem State.cmdXec_kept {r t : State} {w} {off} {v} {s : State} (hs : Kept r s)
    (he : State.cmdXec w off v s = some t) :
    Kept r t := by
  unfold State.cmdXec at he
  repeat' (with_reducible first
    | assumption | (cases he) | (split at he) | (obtain ⟨x, -, rfl⟩ := Option.map_eq_some_iff.1 he)
    | apply State.grantCmd_kept | apply State.grantCreate_kept | apply State.grantRevoke_kept
    | apply State.ignored_kept | refine ran_kept ?_ he | apply execReadmit_goes | apply execActivate_goes
    | apply execRelease_goes | apply execRetest_goes | apply State.gateSup_kept | apply State.sliceBind_kept
    | apply execQuiesce_goes | apply execResume_goes | apply execMove_goes | apply execSave_goes
    | apply execRestore_goes | apply execSliceReset_goes | apply execSliceAbort_goes)

theorem State.putWord_kept {r : State} {w a v} {s : State} (hs : Kept r s) : Kept r (State.putWord w a v s) := by
  unfold State.putWord
  extract_lets +onlyGivenNames b off
  generalize rxWord b off = o
  cases o with
  | some p => exact State.when_kept (fun _ h => State.canClearNew_kept h) hs
  | none =>
    dsimp only
    generalize rowAt b off = q
    cases q with
    | some x =>
      dsimp only
      refine Kept.ite (Kept.ite (State.setReg_kept hs) hs) ?_
      generalize x.acc = c
      cases c
      all_goals first
        | exact State.writeFields_kept hs
        | exact State.toShadow_kept hs
        | exact State.clearOnes_kept hs
        | exact hs
    | none =>
      dsimp only
      refine Kept.ite ?_ hs
      generalize rowAt b (off % 0x80000) = q
      cases q with
      | some x => exact Kept.ite (State.toShadow_kept hs) hs
      | none => exact hs

theorem State.cmdStage_kept {r t : State} {w} {b} {off} {v} {s : State} (hs : Kept r s)
    (he : State.cmdStage w b off v s = some t) :
    Kept r t := by
  unfold State.cmdStage at he
  repeat' (with_reducible first
    | assumption | (cases he) | (split at he) | (obtain ⟨x, -, rfl⟩ := Option.map_eq_some_iff.1 he)
    | (intro _; try beta_reduce) | apply State.gateSup_kept | apply State.commitAll_kept
    | apply State.commitInstance_kept | apply State.blkResetAll_kept | apply State.blkResetInstance_kept
    | apply Kept.ite | split)

theorem State.putPair_kept {r : State} {w} {a} {lo} {hi} {s : State} (hs : Kept r s) :
    Kept r (State.putPair w a lo hi s) := by
  unfold State.putPair
  repeat' (with_reducible first
    | assumption | (intro _; try beta_reduce) | apply State.writeIncr_kept | apply State.putWord_kept | apply Kept.ite
    | split)

theorem State.write64_kept {r : State} {w} {a} {v} {s : State} (hs : Kept r s) :
    Kept r (State.write64 w a v s) := by
  unfold State.write64
  repeat' (with_reducible first
    | assumption | (intro _; try beta_reduce) | apply State.gate_kept | apply State.putPair_kept | apply Kept.ite
    | (refine Kept.fst ‹_ = (_, _)› ?_) | split | (dsimp only) | (fail_if_no_progress apply Kept.fields) | apply Kept.tabs
    | apply FMap.tidy_put | apply FMap.tidy_mod | apply FMap.tidy_foldl | apply FMap.tidy_nil)

theorem State.cmdNet_kept {r t : State} {w} {b} {off} {v} {s : State} (hs : Kept r s)
    (he : State.cmdNet w b off v s = some t) :
    Kept r t := by
  unfold State.cmdNet at he
  repeat' (with_reducible first
    | assumption | (cases he) | (split at he) | (obtain ⟨x, -, rfl⟩ := Option.map_eq_some_iff.1 he)
    | refine ran_kept ?_ he | apply execHandover_goes | apply execAbandon_goes | apply State.ignored_kept
    | apply execTblWrite_goes | apply execTblInvalidate_goes | apply execTblRead_goes | apply execTblFence_goes
    | apply execTxRingKick_goes)

theorem or_kept {r t : State} {o p : Option State} (ho : ∀ u, o = some u → Kept r u) (hp : ∀ u, p = some u → Kept r u)
    (he : o.or p = some t) : Kept r t := by
  cases o with
  | none => exact hp t he
  | some u => exact ho t he

theorem State.cmdWrite_kept {r t : State} {w a v} {s : State} (hs : Kept r s) (he : State.cmdWrite w a v s = some t) :
    Kept r t := by
  unfold State.cmdWrite at he
  refine or_kept (fun u hu => State.cmdStage_kept hs hu) (fun u hu => ?_) he
  split at hu
  · exact State.cmdSys_kept hs hu
  split at hu
  · exact State.cmdTime_kept hs hu
  split at hu
  · exact State.cmdXec_kept hs hu
  split at hu
  · exact State.cmdPoint_kept hs hu
  split at hu
  · exact State.cmdNet_kept hs hu
  split at hu
  · exact State.cmdRec_kept hs hu
  split at hu
  · exact State.cmdLge_kept hs hu
  split at hu
  · exact State.cmdCan_kept hs hu
  · exact State.cmdSafe_kept hs hu

theorem State.write32_kept {r : State} {w a v} {s : State} (hs : Kept r s) : Kept r (State.write32 w a v s) := by
  have h := @State.cmdWrite_kept r
  unfold State.write32
  cases hc : s.cmdWrite w a v with
  | some t => exact h hs hc
  | none =>
    refine State.gate_kept (fun y hy => ?_) hs
    refine Kept.ite (by
      apply Kept.tabs hy <;> first | exact id | exact FMap.tidy_put | exact FMap.tidy_mod | exact fun _ => FMap.tidy_nil) (Kept.ite ?_ (State.putWord_kept hy))
    exact State.putPair_kept (by
      apply Kept.tabs hy <;> first | exact id | exact FMap.tidy_put | exact FMap.tidy_mod | exact fun _ => FMap.tidy_nil)

theorem State.busWrite_kept {r : State} {w} {a} {size} {v} {s : State} (hs : Kept r s) :
    Kept r (State.busWrite w a size v s) := by
  unfold State.busWrite
  repeat' (with_reducible first
    | assumption | (intro _; try beta_reduce) | apply State.accessErr_kept | apply State.write64_kept
    | apply State.write32_kept | apply Kept.ite | split)

theorem State.access_kept {r : State} {w} {a} {n} {r0} {v} {s : State} (hs : Kept r s) :
    Kept r (State.access w a n r0 v s) := by
  unfold State.access
  repeat' (with_reducible first
    | assumption | (intro _; try beta_reduce) | apply State.busRead_kept | apply State.busWrite_kept
    | apply State.violate_kept | apply State.memAccess_kept | apply Kept.ite | split)

theorem execHighWordWrite_goes {r : State} {w} {addr} {value} {s : State} (hs : Kept r s) :
    Goes r (execHighWordWrite w addr value s) := by
  unfold execHighWordWrite
  repeat' (with_reducible first | assumption | apply Goes.next | apply State.busWrite_kept)

theorem execRegisterWrite_goes {r : State} {w} {addr} {size} {value} {s : State} (hs : Kept r s) :
    Goes r (execRegisterWrite w addr size value s) := by
  unfold execRegisterWrite
  repeat' (with_reducible first | assumption | apply Goes.next | apply State.access_kept)

theorem State.markWait_kept {r : State} {p} {pc} {a} {v} {s : State} (hs : Kept r s) :
    Kept r (State.markWait p pc a v s) := by
  unfold State.markWait
  repeat' (with_reducible first
    | assumption
    | (intro x; (refine Kept.cut (s := x) ?_ (fun _ => ?_)); (on_goal 1 => subst x); (on_goal 2 => clear_value x))
    | (intro x; (refine Kept.cutPair (p := x) ?_ (fun _ => ?_)); (on_goal 1 => subst x); (on_goal 2 => clear_value x))
    | (intro x; clear_value x) | (intro _; try beta_reduce) | apply State.issue_kept | apply State.access_kept
    | apply State.markWake_kept | apply State.modSl_kept | apply Kept.ite | apply Goes.ite | apply Goes.next
    | apply Goes.after | apply Kept.foldl | apply Kept.foldlPair | (refine Kept.fst ‹_ = (_, _)› ?_) | split
    | lift_lets | (dsimp -zeta only) | (fail_if_no_progress apply Kept.fields) | apply Kept.tabs | apply FMap.tidy_put
    | apply FMap.tidy_mod | apply FMap.tidy_nil | apply FMap.tidy_foldl)

theorem execMarkWait_goes {r : State} {p} {pc} {addr} {value} {s : State} (hs : Kept r s) :
    Goes r (execMarkWait p pc addr value s) := by
  unfold execMarkWait
  repeat' (with_reducible first
    | assumption
    | (intro x; (refine Kept.cut (s := x) ?_ (fun _ => ?_)); (on_goal 1 => subst x); (on_goal 2 => clear_value x))
    | (intro x; (refine Kept.cutPair (p := x) ?_ (fun _ => ?_)); (on_goal 1 => subst x); (on_goal 2 => clear_value x))
    | (intro x; clear_value x) | (intro _; try beta_reduce) | apply State.markWait_kept | apply Kept.ite
    | apply Goes.ite | apply Goes.next | apply Goes.after | apply Kept.foldl | apply Kept.foldlPair
    | (refine Kept.fst ‹_ = (_, _)› ?_) | split | lift_lets | (dsimp -zeta only)
    | (fail_if_no_progress apply Kept.fields) | apply Kept.tabs | apply FMap.tidy_put | apply FMap.tidy_mod
    | apply FMap.tidy_nil | apply FMap.tidy_foldl)

theorem execLowWordWrite_goes {r : State} {w} {addr} {value} {s : State} (hs : Kept r s) :
    Goes r (execLowWordWrite w addr value s) := by
  unfold execLowWordWrite
  repeat' (with_reducible first | assumption | apply Goes.next | apply State.busWrite_kept)

theorem State.pairAccess_kept {r : State} {virt} {addr} {size} {r0} {value} {w} {s : State} (hs : Kept r s) :
    Kept r (State.pairAccess virt addr size r0 value w s) := by
  unfold State.pairAccess
  repeat' (with_reducible first
    | assumption
    | (intro x; (refine Kept.cut (s := x) ?_ (fun _ => ?_)); (on_goal 1 => subst x); (on_goal 2 => clear_value x))
    | (intro x; (refine Kept.cutPair (p := x) ?_ (fun _ => ?_)); (on_goal 1 => subst x); (on_goal 2 => clear_value x))
    | (intro x; clear_value x) | (intro _; try beta_reduce) | apply State.access_kept | apply State.abortPass_kept
    | apply State.drew_kept | apply Kept.ite | apply Goes.ite | apply Goes.next | apply Goes.after | apply Kept.foldl
    | apply Kept.foldlPair | (refine Kept.fst ‹_ = (_, _)› ?_) | split | lift_lets | (dsimp -zeta only)
    | (fail_if_no_progress apply Kept.fields) | apply Kept.tabs | apply FMap.tidy_put | apply FMap.tidy_mod
    | apply FMap.tidy_nil | apply FMap.tidy_foldl)

theorem execShadowWrite_goes {r : State} {w} {addr} {value} {s : State} (hs : Kept r s) :
    Goes r (execShadowWrite w addr value s) := by
  unfold execShadowWrite
  repeat' (with_reducible first | assumption | apply Goes.next | apply State.busWrite_kept)

theorem execStRelW_goes {r : State} {p} {pc} {addr} {value} {s : State} (hs : Kept r s) :
    Goes r (execStRelW p pc addr value s) := by
  unfold execStRelW
  repeat' (with_reducible first
    | assumption
    | (intro x; (refine Kept.cut (s := x) ?_ (fun _ => ?_)); (on_goal 1 => subst x); (on_goal 2 => clear_value x))
    | (intro x; (refine Kept.cutPair (p := x) ?_ (fun _ => ?_)); (on_goal 1 => subst x); (on_goal 2 => clear_value x))
    | (intro x; clear_value x) | (intro _; try beta_reduce) | apply State.issue_kept | apply State.access_kept
    | apply Kept.ite | apply Goes.ite | apply Goes.next | apply Goes.after | apply Kept.foldl | apply Kept.foldlPair
    | (refine Kept.fst ‹_ = (_, _)› ?_) | split | lift_lets | (dsimp -zeta only)
    | (fail_if_no_progress apply Kept.fields) | apply Kept.tabs | apply FMap.tidy_put | apply FMap.tidy_mod
    | apply FMap.tidy_nil | apply FMap.tidy_foldl)

theorem execStRelD_goes {r : State} {p} {pc} {addr} {value} {s : State} (hs : Kept r s) :
    Goes r (execStRelD p pc addr value s) := by
  unfold execStRelD
  repeat' (with_reducible first
    | assumption
    | (intro x; (refine Kept.cut (s := x) ?_ (fun _ => ?_)); (on_goal 1 => subst x); (on_goal 2 => clear_value x))
    | (intro x; (refine Kept.cutPair (p := x) ?_ (fun _ => ?_)); (on_goal 1 => subst x); (on_goal 2 => clear_value x))
    | (intro x; clear_value x) | (intro _; try beta_reduce) | apply State.issue_kept | apply State.access_kept
    | apply Kept.ite | apply Goes.ite | apply Goes.next | apply Goes.after | apply Kept.foldl | apply Kept.foldlPair
    | (refine Kept.fst ‹_ = (_, _)› ?_) | split | lift_lets | (dsimp -zeta only)
    | (fail_if_no_progress apply Kept.fields) | apply Kept.tabs | apply FMap.tidy_put | apply FMap.tidy_mod
    | apply FMap.tidy_nil | apply FMap.tidy_foldl)

theorem execLdAcqD_goes {r : State} {p} {pc} {addr} {s : State} (hs : Kept r s) :
    Goes r (execLdAcqD p pc addr s) := by
  unfold execLdAcqD
  repeat' (with_reducible first
    | assumption
    | (intro x; (refine Kept.cut (s := x) ?_ (fun _ => ?_)); (on_goal 1 => subst x); (on_goal 2 => clear_value x))
    | (intro x; (refine Kept.cutPair (p := x) ?_ (fun _ => ?_)); (on_goal 1 => subst x); (on_goal 2 => clear_value x))
    | (intro x; clear_value x) | (intro _; try beta_reduce) | apply State.issue_kept | apply State.access_kept
    | apply Kept.ite | apply Goes.ite | apply Goes.next | apply Goes.after | apply Kept.foldl | apply Kept.foldlPair
    | (refine Kept.fst ‹_ = (_, _)› ?_) | split | lift_lets | (dsimp -zeta only)
    | (fail_if_no_progress apply Kept.fields) | apply Kept.tabs | apply FMap.tidy_put | apply FMap.tidy_mod
    | apply FMap.tidy_nil | apply FMap.tidy_foldl)

theorem execLdAcqW_goes {r : State} {p} {pc} {addr} {s : State} (hs : Kept r s) :
    Goes r (execLdAcqW p pc addr s) := by
  unfold execLdAcqW
  repeat' (with_reducible first
    | assumption
    | (intro x; (refine Kept.cut (s := x) ?_ (fun _ => ?_)); (on_goal 1 => subst x); (on_goal 2 => clear_value x))
    | (intro x; (refine Kept.cutPair (p := x) ?_ (fun _ => ?_)); (on_goal 1 => subst x); (on_goal 2 => clear_value x))
    | (intro x; clear_value x) | (intro _; try beta_reduce) | apply State.issue_kept | apply State.access_kept
    | apply Kept.ite | apply Goes.ite | apply Goes.next | apply Goes.after | apply Kept.foldl | apply Kept.foldlPair
    | (refine Kept.fst ‹_ = (_, _)› ?_) | split | lift_lets | (dsimp -zeta only)
    | (fail_if_no_progress apply Kept.fields) | apply Kept.tabs | apply FMap.tidy_put | apply FMap.tidy_mod
    | apply FMap.tidy_nil | apply FMap.tidy_foldl)

theorem execPairAccess_goes {r : State} {p} {pc} {virt} {addr} {size} {r0} {value} {s : State} (hs : Kept r s) :
    Goes r (execPairAccess p pc virt addr size r0 value s) := by
  unfold execPairAccess
  repeat' (with_reducible first
    | assumption
    | (intro x; (refine Kept.cut (s := x) ?_ (fun _ => ?_)); (on_goal 1 => subst x); (on_goal 2 => clear_value x))
    | (intro x; (refine Kept.cutPair (p := x) ?_ (fun _ => ?_)); (on_goal 1 => subst x); (on_goal 2 => clear_value x))
    | (intro x; clear_value x) | (intro _; try beta_reduce) | apply State.issue_kept | apply State.pairAccess_kept
    | apply Kept.ite | apply Goes.ite | apply Goes.next | apply Goes.after | apply Kept.foldl | apply Kept.foldlPair
    | (refine Kept.fst ‹_ = (_, _)› ?_) | split | lift_lets | (dsimp -zeta only)
    | (fail_if_no_progress apply Kept.fields) | apply Kept.tabs | apply FMap.tidy_put | apply FMap.tidy_mod
    | apply FMap.tidy_nil | apply FMap.tidy_foldl)

end Sys2Proof.Machine
end

