-- ==== Sys2Proof/Laws/KeptBoot.lean ====
section
/-!
SUPPORT. What the operations of Machine/Boot.lean keep.
-/

set_option linter.all false

namespace Sys2Proof.Machine

theorem State.takeImage_kept {r : State} {img} {s : State} (hs : Kept r s) :
    Kept r (State.takeImage img s) := by
  unfold State.takeImage
  repeat' (with_reducible first | assumption | apply State.wrBytes_kept | apply State.clearMem_kept)

theorem State.takeHeader_kept {r : State} {k} {img} {s : State} (hs : Kept r s) :
    Kept r (State.takeHeader k img s) := by
  unfold State.takeHeader
  repeat' (with_reducible first
    | assumption | apply State.setReg_kept | apply State.setFld_kept | apply State.modBoot_kept
    | apply State.slotLoad_kept)

theorem State.copyFailed_kept {r : State} {cause} {sec} {s : State} (hs : Kept r s) :
    Kept r (State.copyFailed cause sec s) := by
  unfold State.copyFailed
  repeat' (with_reducible first | assumption | apply State.setBit_kept | apply State.setFld_kept)

theorem State.keysCommand_kept {r : State} {k} {op} {aux} {attr} {id} {a} {n} {s : State} (hs : Kept r s) :
    Kept r (State.keysCommand k op aux attr id a n s).1 := by
  unfold State.keysCommand
  repeat' (with_reducible first
    | assumption | (intro _; try beta_reduce) | apply State.slotAttrWrite_kept | apply State.keyComplete_kept
    | apply State.setReg_kept | apply Kept.ite | (refine Kept.fst ‹_ = (_, _)› ?_) | split | (dsimp only)
    | (fail_if_no_progress apply Kept.fields) | apply Kept.tabs
    | apply FMap.tidy_put)

theorem State.startFirst_kept {r : State} {i warm deny} {s : State} (hs : Kept r s) :
    Kept r (State.startFirst i warm deny s) := by
  unfold State.startFirst
  extract_lets +onlyGivenNames s0 s1 s2 s3 s4 s5 s6 s7
  have k0 : Kept r s0 := State.each_kept (fun _ _ h => State.drive_kept (State.drive_kept h)) hs
  have k1 : Kept r s1 := Kept.ite k0 (Kept.filterRegs k0)
  have k2 : Kept r s2 := State.incFld_kept (State.setFld_kept k1)
  have k3 : Kept r s3 := State.setBit_kept (State.setFld_kept k2)
  have k4 : Kept r s4 := Kept.ite (State.setBit_kept (State.incFld_kept (State.setFld_kept k3))) (State.incFld_kept k3)
  have k5 : Kept r s5 := Kept.ite (State.timeSeed_kept k4) k4
  have k6 : Kept r s6 := State.modBoot_kept k5
  exact State.keyStart_kept (State.tamperAtStart_kept (State.setReg_kept k6))

theorem State.startLast_kept {r : State} {s : State} (hs : Kept r s) :
    Kept r (State.startLast s) := by
  unfold State.startLast
  repeat' (with_reducible first
    | assumption
    | (intro x; (refine Kept.cut (s := x) ?_ (fun _ => ?_)); (on_goal 1 => subst x); (on_goal 2 => clear_value x))
    | (intro x; (refine Kept.cutPair (p := x) ?_ (fun _ => ?_)); (on_goal 1 => subst x); (on_goal 2 => clear_value x))
    | (intro x; clear_value x) | (intro _; try beta_reduce) | apply State.taeCtl_kept | apply State.healthUpdate_kept
    | apply State.modBoot_kept | apply State.slice0Start_kept | apply Kept.ite | apply Goes.ite | apply Goes.next
    | apply Goes.after | apply Kept.foldl | apply Kept.foldlPair | (refine Kept.fst ‹_ = (_, _)› ?_) | split
    | lift_lets | (dsimp -zeta only) | (fail_if_no_progress apply Kept.fields) | apply Kept.tabs | apply FMap.tidy_put
    | apply FMap.tidy_mod | apply FMap.tidy_nil | apply FMap.tidy_foldl)

theorem State.sectionWrite_kept {r : State} {a v} {s : State} (hs : Kept r s) : Kept r (State.sectionWrite a v s) := by
  have k : Kept r (s.busWrite sectionWho a 4 v) := State.busWrite_kept hs
  exact ⟨k.clk, k.pending, k.mem, k.regs, hs.reply, k.time, k.tables, k.free, k.out⟩

theorem applyReg_kept {r : State} {g x e} (h : Kept r x.s) : Kept r (applyReg g x e).s := by
  unfold applyReg
  dsimp only
  split
  · exact h
  split
  · exact h
  split
  · exact State.sectionWrite_kept h
  · exact State.sectionWrite_kept h
  · split
    · exact h
    · split <;> exact h
  · exact h

theorem applyLoad_kept {r : State} {keep d x} (h : Kept r x.s) : Kept r (applyLoad keep d x).s := by
  unfold applyLoad
  dsimp only
  split
  · exact h
  split
  · exact h
  · exact State.dma_kept h

theorem applyTable_kept {r : State} {x e} (h : Kept r x.s) : Kept r (applyTable x e).s := by
  unfold applyTable
  split
  · exact h
  · exact State.tblWrite_kept (State.each_kept (fun _ _ h => State.setReg_kept h) h)

theorem applyKeys_kept {r : State} {n off d x} (h : Kept r x.s) : Kept r (applyKeys n off d x).s := by
  induction n generalizing off d x with
  | zero => exact h
  | succ n ih =>
    unfold applyKeys
    split
    · exact h
    · apply ih
      split
      · exact h
      · exact State.keysCommand_kept h

theorem Kept.foldlApply {α : Type} {r : State} {x : Apply} {f : Apply → α → Apply} {l : List α}
    (hf : ∀ x y, Kept r x.s → Kept r (f x y).s) (h : Kept r x.s) : Kept r (l.foldl f x).s := by
  induction l generalizing x with
  | nil => exact h
  | cons y l ih => exact ih (hf _ _ h)

theorem applySection_kept {r : State} {keep img sec x} (h : Kept r x.s) : Kept r (applySection keep img sec x).s := by
  unfold applySection
  dsimp only
  split
  · exact h
  split
  · exact Kept.foldlApply (fun _ _ h => applyReg_kept h) h
  · exact applyLoad_kept h
  · exact Kept.foldlApply (fun _ _ h => applyTable_kept h) h
  · exact applyKeys_kept h
  · split
    · exact Kept.foldlApply (fun _ _ h => applyReg_kept h) h
    · exact State.guardApply_kept (Kept.foldlApply (fun _ _ h => applyReg_kept h) h)
  · exact h
  · exact h

theorem applyAll_kept {r : State} {keep img l x} (h : Kept r x.s) : Kept r (applyAll keep img l x).1.s := by
  induction l generalizing x with
  | nil => exact h
  | cons sec l ih =>
    unfold applyAll
    dsimp only
    split
    · exact applySection_kept h
    · exact ih (applySection_kept h)

theorem tryCopies_kept {r : State} {i l x} (h : Kept r x.s) : Kept r (tryCopies i l x).1.s := by
  induction l generalizing x with
  | nil => exact h
  | cons k l ih =>
    unfold tryCopies
    dsimp only
    split
    · exact ih (State.copyFailed_kept h)
    · have hx : Kept r (x.on (fun s => (s.takeHeader k ((i.image k).getD [])).takeImage ((i.image k).getD []))).s :=
        State.takeImage_kept (State.takeHeader_kept h)
      have ha := applyAll_kept (keep := []) (img := (i.image k).getD [])
        (l := applyOrder (imgSections ((i.image k).getD []))) hx
      split
      · next y e => rw [e] at ha; exact ha
      · next y sec e => rw [e] at ha; exact ih (State.copyFailed_kept ha)

theorem recoveryStart_kept {r : State} {i x} (h : Kept r x.s) : Kept r (State.recoveryStart i x) := by
  unfold State.recoveryStart
  extract_lets +onlyGivenNames s1 s2
  have k1 : Kept r s1 := State.each_kept (fun _ _ h => Kept.ite h (State.copyFailed_kept h)) h
  have k2 : Kept r s2 := State.modBoot_kept (State.setBit_kept (State.setFld_kept k1))
  have k3 : ∀ o : Option (Nat × List Byte), Kept r (match o with
      | none => s2.clearMem 0 boltBase
      | some (k, img) =>
        (applyAll [] img ((applyOrder (imgSections img)).filter (fun (x : BoltSec) => x.recov || x.type == 5))
          { s := (s2.takeHeader k img).takeImage img, met := x.met }).1.s) := by
    intro o
    cases o with
    | none => exact State.clearMem_kept k2
    | some p => exact applyAll_kept (State.takeImage_kept (State.takeHeader_kept k2))
  exact State.startLast_kept (State.setMember_kept (State.each_kept (fun _ _ h => State.setBit_kept h)
    (State.each_kept (fun _ _ h => State.macCfg_kept h) (k3 _))))

theorem State.startCopies_kept {r : State} {i l met} {s : State} (hs : Kept r s) :
    Kept r (State.startCopies i l met s) := by
  unfold State.startCopies
  have h := tryCopies_kept (i := i) (l := l) (x := { s := s, met := met }) hs
  split
  · next x e => rw [e] at h; exact State.startLast_kept h
  · next x e => rw [e] at h; exact recoveryStart_kept h

theorem State.warmSections_kept {r : State} {i c} {s : State} (hs : Kept r s) : Kept r (State.warmSections i c s) := by
  unfold State.warmSections
  extract_lets +onlyGivenNames order k img
  have h := applyAll_kept (keep := retained img) (img := img) (l := applyOrder (imgSections img))
    (x := { s := s.takeHeader k img, met := i.met }) (State.takeHeader_kept hs)
  split
  · next x e => rw [e] at h; exact State.startLast_kept h
  · next x sec e => rw [e] at h; exact State.startCopies_kept (State.setFld_kept (State.copyFailed_kept h))

theorem State.startHold_kept {r : State} {s : State} (hs : Kept r s) :
    Kept r (State.startHold s) := by
  unfold State.startHold
  repeat' (with_reducible first
    | assumption | apply State.setBit_kept | apply State.modBoot_kept | apply State.cxFall_kept)

theorem State.start_kept {r : State} {i} {due} {s : State} (hs : Kept r s) :
    Kept r (State.start i due s) := by
  unfold State.start
  repeat' (with_reducible first
    | assumption | (intro _; try beta_reduce) | apply State.putToken_kept | apply State.startHold_kept
    | apply State.startFirst_kept | apply State.warmSections_kept | apply State.startCopies_kept | apply Kept.ite)

theorem execWarmStart_goes {r : State} {imgA} {imgB} {rootOk} {dbgEn} {second} {met} {s : State} (hs : Kept r s) :
    Goes r (execWarmStart imgA imgB rootOk dbgEn second met s) := by
  unfold execWarmStart
  repeat' (with_reducible first | assumption | apply Goes.next | apply State.start_kept)

theorem execColdStart_goes {r : State} {imgA} {imgB} {rootOk} {dbgEn} {second} {met} {s : State} (hs : Kept r s) :
    Goes r (execColdStart imgA imgB rootOk dbgEn second met s) := by
  unfold execColdStart
  repeat' (with_reducible first | assumption | apply Goes.next | apply State.start_kept)

end Sys2Proof.Machine
end

