-- ==== Sys2Proof/Laws/KeptTakeover.lean ====
section
/-!
SUPPORT. What the operations of Machine/Takeover.lean keep.
-/

set_option linter.all false

namespace Sys2Proof.Machine

theorem cxSection_kept {r : State} {img sec x} (h : Kept r x.s) : Kept r (cxSection img sec x).s := by
  unfold cxSection
  dsimp only
  split
  · exact Kept.foldlApply (fun _ _ h => applyReg_kept h) h
  · split
    · exact applyLoad_kept h
    · exact h
  · exact h

theorem cxApply_kept {r : State} {img x} (h : Kept r x.s) : Kept r (cxApply img x).s :=
  Kept.foldlApply (fun x y h => cxSection_kept (x := { x with bad := false }) h) h

theorem State.cxConfigure_kept {r : State} {s : State} (hs : Kept r s) : Kept r (State.cxConfigure s) := by
  unfold State.cxConfigure
  refine Kept.ite hs ?_
  extract_lets t
  have k : Kept r t := cxApply_kept (x := { s := { s with complete := false }, met := [] }) hs.fields
  exact k.fields

theorem State.configured_kept {r : State} {s : State} {t : State} (ht : Kept r t) :
    Kept r (State.configured s t) := by
  unfold State.configured
  repeat' (with_reducible first
    | assumption
    | (intro x; (refine Kept.cut (s := x) ?_ (fun _ => ?_)); (on_goal 1 => subst x); (on_goal 2 => clear_value x))
    | (intro x; (refine Kept.cutPair (p := x) ?_ (fun _ => ?_)); (on_goal 1 => subst x); (on_goal 2 => clear_value x))
    | (intro x; clear_value x) | (intro _; try beta_reduce) | apply State.cxConfigure_kept | apply Kept.ite
    | apply Goes.ite | apply Goes.next | apply Goes.after | apply Kept.foldl | apply Kept.foldlPair
    | (refine Kept.fst ‹_ = (_, _)› ?_) | split | lift_lets | (dsimp -zeta only)
    | (fail_if_no_progress apply Kept.fields) | apply Kept.tabs | apply FMap.tidy_put | apply FMap.tidy_mod
    | apply FMap.tidy_nil | apply FMap.tidy_foldl)

theorem execVerdict_goes {r : State} {m} {s : State} (hs : Kept r s) :
    Goes r (execVerdict m s) := by
  unfold execVerdict
  repeat' (with_reducible first
    | assumption
    | (intro x; (refine Kept.cut (s := x) ?_ (fun _ => ?_)); (on_goal 1 => subst x); (on_goal 2 => clear_value x))
    | (intro x; (refine Kept.cutPair (p := x) ?_ (fun _ => ?_)); (on_goal 1 => subst x); (on_goal 2 => clear_value x))
    | (intro x; clear_value x) | (intro _; try beta_reduce) | apply State.configured_kept | apply State.lzIn_kept
    | apply State.verdictIn_kept | apply Kept.ite | apply Goes.ite | apply Goes.next | apply Goes.after
    | apply Kept.foldl | apply Kept.foldlPair | (refine Kept.fst ‹_ = (_, _)› ?_) | split | lift_lets
    | (dsimp -zeta only) | (fail_if_no_progress apply Kept.fields) | apply Kept.tabs | apply FMap.tidy_put
    | apply FMap.tidy_mod | apply FMap.tidy_nil | apply FMap.tidy_foldl)

theorem execHandbackPlan_goes {r : State} {m} {s : State} (hs : Kept r s) :
    Goes r (execHandbackPlan m s) := by
  unfold execHandbackPlan
  repeat' (with_reducible first
    | assumption
    | (intro x; (refine Kept.cut (s := x) ?_ (fun _ => ?_)); (on_goal 1 => subst x); (on_goal 2 => clear_value x))
    | (intro x; (refine Kept.cutPair (p := x) ?_ (fun _ => ?_)); (on_goal 1 => subst x); (on_goal 2 => clear_value x))
    | (intro x; clear_value x) | (intro _; try beta_reduce) | apply State.configured_kept | apply State.lzIn_kept
    | apply State.handbackPlanIn_kept | apply Kept.ite | apply Goes.ite | apply Goes.next | apply Goes.after
    | apply Kept.foldl | apply Kept.foldlPair | (refine Kept.fst ‹_ = (_, _)› ?_) | split | lift_lets
    | (dsimp -zeta only) | (fail_if_no_progress apply Kept.fields) | apply Kept.tabs | apply FMap.tidy_put
    | apply FMap.tidy_mod | apply FMap.tidy_nil | apply FMap.tidy_foldl)

theorem execRevertHoldComplete_goes {r : State} {s : State} (hs : Kept r s) :
    Goes r (execRevertHoldComplete s) := by
  unfold execRevertHoldComplete
  repeat' (with_reducible first
    | assumption
    | (intro x; (refine Kept.cut (s := x) ?_ (fun _ => ?_)); (on_goal 1 => subst x); (on_goal 2 => clear_value x))
    | (intro x; (refine Kept.cutPair (p := x) ?_ (fun _ => ?_)); (on_goal 1 => subst x); (on_goal 2 => clear_value x))
    | (intro x; clear_value x) | (intro _; try beta_reduce) | apply State.configured_kept
    | apply State.revertDone_kept | apply Kept.ite | apply Goes.ite | apply Goes.next | apply Goes.after
    | apply Kept.foldl | apply Kept.foldlPair | (refine Kept.fst ‹_ = (_, _)› ?_) | split | lift_lets
    | (dsimp -zeta only) | (fail_if_no_progress apply Kept.fields) | apply Kept.tabs | apply FMap.tidy_put
    | apply FMap.tidy_mod | apply FMap.tidy_nil | apply FMap.tidy_foldl)

end Sys2Proof.Machine
end

