-- ==== Sys2Proof/Laws/Regs.lean ====
section
/-!
SUPPORT. Registers and their fields: what a read gives after a write, and what a write leaves alone.
-/

namespace Sys2Proof.Machine

/-! ### Bit fields -/

theorem bits_lt (v hi lo : Nat) : bits v hi lo < 2 ^ (hi + 1 - lo) := Nat.mod_lt _ (Nat.two_pow_pos _)

theorem testBit_bits (v hi lo i : Nat) : (bits v hi lo).testBit i = (decide (i < hi + 1 - lo) && v.testBit (lo + i)) := by
  simp [bits, Nat.testBit_mod_two_pow, Nat.testBit_div_two_pow, Nat.add_comm]

theorem bitAt_eq_testBit (v i : Nat) : bitAt v i = v.testBit i := by
  simp [bitAt, Nat.testBit, Nat.shiftRight_eq_div_pow, Nat.and_comm 1, Nat.and_one_is_mod]

/-- A number cut at a field: above it, the field, below it. -/
theorem bits_cut (v hi lo : Nat) (h : lo ≤ hi + 1) :
    v = 2 ^ lo * (2 ^ (hi + 1 - lo) * (v / 2 ^ (hi + 1)) + bits v hi lo) + v % 2 ^ lo := by
  have h1 : v / 2 ^ lo / 2 ^ (hi + 1 - lo) = v / 2 ^ (hi + 1) := by
    rw [Nat.div_div_eq_div_mul, ← Nat.pow_add]; congr 2; omega
  have h2 := Nat.div_add_mod (v / 2 ^ lo) (2 ^ (hi + 1 - lo))
  have h3 := Nat.div_add_mod v (2 ^ lo)
  rw [h1] at h2
  rw [bits, h2, h3]

theorem setBits_eq (v hi lo x : Nat) (h : lo ≤ hi + 1) :
    setBits v hi lo x = 2 ^ lo * (2 ^ (hi + 1 - lo) * (v / 2 ^ (hi + 1)) + x % 2 ^ (hi + 1 - lo)) + v % 2 ^ lo := by
  have hc := bits_cut v hi lo h
  have hb : v - bits v hi lo * 2 ^ lo = 2 ^ lo * (2 ^ (hi + 1 - lo) * (v / 2 ^ (hi + 1))) + v % 2 ^ lo := by
    have : bits v hi lo * 2 ^ lo = 2 ^ lo * bits v hi lo := Nat.mul_comm _ _
    rw [this]
    have hd : 2 ^ lo * (2 ^ (hi + 1 - lo) * (v / 2 ^ (hi + 1)) + bits v hi lo)
        = 2 ^ lo * (2 ^ (hi + 1 - lo) * (v / 2 ^ (hi + 1))) + 2 ^ lo * bits v hi lo := Nat.mul_add _ _ _
    omega
  rw [setBits, hb, Nat.mul_comm (x % _) (2 ^ lo), Nat.mul_add]
  omega

theorem testBit_setBits (v hi lo x i : Nat) (h : lo ≤ hi + 1) :
    (setBits v hi lo x).testBit i = if lo ≤ i ∧ i ≤ hi then x.testBit (i - lo) else v.testBit i := by
  rw [setBits_eq v hi lo x h, Nat.testBit_two_pow_mul_add _ (Nat.mod_lt _ (Nat.two_pow_pos _))]
  by_cases h1 : i < lo
  · rw [if_pos h1, if_neg (by omega), Nat.testBit_mod_two_pow]; simp [h1]
  · rw [if_neg h1, Nat.testBit_two_pow_mul_add _ (Nat.mod_lt _ (Nat.two_pow_pos _))]
    by_cases h2 : i ≤ hi
    · rw [if_pos (by omega), if_pos ⟨by omega, h2⟩, Nat.testBit_mod_two_pow]; simp; omega
    · rw [if_neg (by omega), if_neg (by omega), Nat.testBit_div_two_pow]; congr 1; omega

theorem setBits_lt {v hi lo x n : Nat} (hv : v < 2 ^ n) (hh : hi < n) (h : lo ≤ hi + 1) : setBits v hi lo x < 2 ^ n := by
  apply Nat.lt_pow_two_of_testBit
  intro i hi'
  rw [testBit_setBits _ _ _ _ _ h, if_neg (by omega)]
  exact Nat.testBit_lt_two_pow (Nat.lt_of_lt_of_le hv (Nat.pow_le_pow_right (by decide) hi'))

/-- A field reads what was put into it. -/
theorem bits_setBits_same {v hi lo x : Nat} (h : lo ≤ hi + 1) : bits (setBits v hi lo x) hi lo = x % 2 ^ (hi + 1 - lo) := by
  apply Nat.eq_of_testBit_eq
  intro i
  rw [testBit_bits, testBit_setBits _ _ _ _ _ h, Nat.testBit_mod_two_pow]
  by_cases hb : i < hi + 1 - lo
  · rw [if_pos ⟨by omega, by omega⟩]; simp
  · simp [hb]

/-- A field put leaves a field apart from it alone. -/
theorem bits_setBits_other {v hi lo x hi' lo' : Nat} (h : lo ≤ hi + 1) (hd : hi < lo' ∨ hi' < lo) :
    bits (setBits v hi lo x) hi' lo' = bits v hi' lo' := by
  apply Nat.eq_of_testBit_eq
  intro i
  rw [testBit_bits, testBit_bits, testBit_setBits _ _ _ _ _ h]
  by_cases hb : i < hi' + 1 - lo'
  · rw [if_neg (by omega)]
  · simp [hb]

theorem bitAt_setBits_other {v hi lo x i : Nat} (h : lo ≤ hi + 1) (hd : hi < i ∨ i < lo) :
    bitAt (setBits v hi lo x) i = bitAt v i := by
  rw [bitAt_eq_testBit, bitAt_eq_testBit, testBit_setBits _ _ _ _ _ h, if_neg (by omega)]

theorem bitAt_setBits_same {v i : Nat} {b : Bool} : bitAt (setBits v i i (b2n b)) i = b := by
  rw [bitAt_eq_testBit, testBit_setBits _ _ _ _ _ (by omega), if_pos ⟨le_refl _, le_refl _⟩]
  cases b <;> simp [b2n]

/-! ### Register words -/

theorem State.rd_lt (s : State) (a : Nat) : s.rd a < 2 ^ 32 := (s.reg a).isLt

/-- The register file is in canonical form. -/
def State.RegsOk (s : State) : Prop := FMap.wf resetWord s.regs = true

theorem State.rd_setReg_ne {s : State} {a b v : Nat} (h : b ≠ a) : (s.setReg a v).rd b = s.rd b := by
  simp only [State.rd, State.reg, State.setReg, FMap.get_set_other h]

theorem State.rd_setReg_same {s : State} {a v : Nat} (h : s.RegsOk) : (s.setReg a v).rd a = v % 2 ^ 32 := by
  simp only [State.rd, State.reg, State.setReg, FMap.get_set_same h, BitVec.toNat_ofNat]

theorem State.regsOk_setReg {s : State} {a v : Nat} (h : s.RegsOk) : (s.setReg a v).RegsOk := FMap.wf_set h

theorem State.regsOk_setFld {s : State} {a hi lo v : Nat} (h : s.RegsOk) : (s.setFld a hi lo v).RegsOk := FMap.wf_set h
theorem State.regsOk_setBit {s : State} {a i : Nat} {v : Bool} (h : s.RegsOk) : (s.setBit a i v).RegsOk := FMap.wf_set h
theorem State.regsOk_evt {s : State} {a i : Nat} (h : s.RegsOk) : (s.evt a i).RegsOk := FMap.wf_set h
theorem State.regsOk_inc {s : State} {a : Nat} (h : s.RegsOk) : (s.inc a).RegsOk := FMap.wf_set h

theorem State.rd_setFld_ne {s : State} {a b hi lo v : Nat} (h : b ≠ a) : (s.setFld a hi lo v).rd b = s.rd b :=
  State.rd_setReg_ne h
theorem State.rd_setBit_ne {s : State} {a b i : Nat} {v : Bool} (h : b ≠ a) : (s.setBit a i v).rd b = s.rd b :=
  State.rd_setReg_ne h
theorem State.rd_evt_ne {s : State} {a b i : Nat} (h : b ≠ a) : (s.evt a i).rd b = s.rd b := State.rd_setReg_ne h
theorem State.rd_inc_ne {s : State} {a b : Nat} (h : b ≠ a) : (s.inc a).rd b = s.rd b := State.rd_setReg_ne h

theorem incSat_lt {w v : Nat} : incSat w v < 2 ^ w := by
  have := Nat.two_pow_pos w
  unfold incSat; split <;> omega

theorem State.rd_inc_same {s : State} {a : Nat} (h : s.RegsOk) : (s.inc a).rd a = incSat 32 (s.rd a) := by
  rw [State.inc, State.rd_setReg_same h, Nat.mod_eq_of_lt incSat_lt]

theorem State.rd_setFld_same {s : State} {a hi lo v : Nat} (h : s.RegsOk) (hh : hi < 32) (hl : lo ≤ hi + 1) :
    (s.setFld a hi lo v).rd a = setBits (s.rd a) hi lo v := by
  rw [State.setFld, State.rd_setReg_same h, Nat.mod_eq_of_lt (setBits_lt (s.rd_lt a) hh hl)]

/-! ### Fields of registers -/

theorem State.fld_setFld_same {s : State} {a hi lo v : Nat} (h : s.RegsOk) (hh : hi < 32) (hl : lo ≤ hi + 1) :
    (s.setFld a hi lo v).fld a hi lo = v % 2 ^ (hi + 1 - lo) := by
  rw [State.fld, State.rd_setFld_same h hh hl, bits_setBits_same hl]

theorem State.fld_setFld_other {s : State} {a b hi lo v hi' lo' : Nat} (h : s.RegsOk) (hh : hi < 32) (hl : lo ≤ hi + 1)
    (hd : b ≠ a ∨ hi < lo' ∨ hi' < lo) : (s.setFld a hi lo v).fld b hi' lo' = s.fld b hi' lo' := by
  by_cases hb : b = a
  · subst hb
    rw [State.fld, State.rd_setFld_same h hh hl, bits_setBits_other hl (by tauto), State.fld]
  · rw [State.fld, State.rd_setFld_ne hb, State.fld]

theorem State.bit_setFld_other {s : State} {a b hi lo v i : Nat} (h : s.RegsOk) (hh : hi < 32) (hl : lo ≤ hi + 1)
    (hd : b ≠ a ∨ hi < i ∨ i < lo) : (s.setFld a hi lo v).bit b i = s.bit b i := by
  by_cases hb : b = a
  · subst hb
    rw [State.bit, State.rd_setFld_same h hh hl, bitAt_setBits_other hl (by tauto), State.bit]
  · rw [State.bit, State.rd_setFld_ne hb, State.bit]

theorem State.bit_setBit_same {s : State} {a i : Nat} {v : Bool} (h : s.RegsOk) (hh : i < 32) :
    (s.setBit a i v).bit a i = v := by
  rw [State.bit, State.setBit, State.rd_setFld_same h hh (by omega), bitAt_setBits_same]

theorem State.bit_setBit_other {s : State} {a b i j : Nat} {v : Bool} (h : s.RegsOk) (hh : i < 32)
    (hd : b ≠ a ∨ i ≠ j) : (s.setBit a i v).bit b j = s.bit b j :=
  State.bit_setFld_other h hh (by omega) (by omega)

theorem State.fld_setBit_other {s : State} {a b i hi lo : Nat} {v : Bool} (h : s.RegsOk) (hh : i < 32)
    (hd : b ≠ a ∨ i < lo ∨ hi < i) : (s.setBit a i v).fld b hi lo = s.fld b hi lo :=
  State.fld_setFld_other h hh (by omega) hd

theorem State.bit_evt_same {s : State} {a i : Nat} (h : s.RegsOk) (hh : i < 32) : (s.evt a i).bit a i = true :=
  State.bit_setBit_same h hh

theorem State.bit_evt_other {s : State} {a b i j : Nat} (h : s.RegsOk) (hh : i < 32) (hd : b ≠ a ∨ i ≠ j) :
    (s.evt a i).bit b j = s.bit b j := State.bit_setBit_other h hh hd

theorem State.fld_evt_other {s : State} {a b i hi lo : Nat} (h : s.RegsOk) (hh : i < 32)
    (hd : b ≠ a ∨ i < lo ∨ hi < i) : (s.evt a i).fld b hi lo = s.fld b hi lo := State.fld_setBit_other h hh hd

theorem State.fld_setReg_ne {s : State} {a b v hi lo : Nat} (h : b ≠ a) : (s.setReg a v).fld b hi lo = s.fld b hi lo := by
  rw [State.fld, State.rd_setReg_ne h, State.fld]

theorem State.bit_setReg_ne {s : State} {a b v i : Nat} (h : b ≠ a) : (s.setReg a v).bit b i = s.bit b i := by
  rw [State.bit, State.rd_setReg_ne h, State.bit]

/-! ### The way of a register access -/

/-- A field never exceeds its width. -/
theorem State.fld_lt (s : State) (a hi lo : Nat) : s.fld a hi lo < 2 ^ (hi + 1 - lo) := bits_lt _ _ _

end Sys2Proof.Machine
end

