-- ==== Sys2Proof/Laws/State.lean ====
section
/-!
SUPPORT. One lemma per field of State for each primitive update, true by rfl, so that no proof unfolds a record update;
and the way of a register access that nothing stops.
-/

namespace Sys2Proof.Machine

/-! ### setReg -/

@[simp] theorem State.setReg_pending {s : State} {a v : Nat} : (s.setReg a v).pending = s.pending := rfl
@[simp] theorem State.setReg_clk {s : State} {a v : Nat} : (s.setReg a v).clk = s.clk := rfl
@[simp] theorem State.setReg_free {s : State} {a v : Nat} : (s.setReg a v).free = s.free := rfl
@[simp] theorem State.setReg_mem {s : State} {a v : Nat} : (s.setReg a v).mem = s.mem := rfl
@[simp] theorem State.setReg_poison {s : State} {a v : Nat} : (s.setReg a v).poison = s.poison := rfl
@[simp] theorem State.setReg_readLatch {s : State} {a v : Nat} : (s.setReg a v).readLatch = s.readLatch := rfl
@[simp] theorem State.setReg_writeLatch {s : State} {a v : Nat} : (s.setReg a v).writeLatch = s.writeLatch := rfl
@[simp] theorem State.setReg_latched {s : State} {a v : Nat} : (s.setReg a v).latched = s.latched := rfl
@[simp] theorem State.setReg_reply {s : State} {a v : Nat} : (s.setReg a v).reply = s.reply := rfl
@[simp] theorem State.setReg_out {s : State} {a v : Nat} : (s.setReg a v).out = s.out := rfl
@[simp] theorem State.setReg_power {s : State} {a v : Nat} : (s.setReg a v).power = s.power := rfl
@[simp] theorem State.setReg_complete {s : State} {a v : Nat} : (s.setReg a v).complete = s.complete := rfl
@[simp] theorem State.setReg_stall {s : State} {a v : Nat} : (s.setReg a v).stall = s.stall := rfl
@[simp] theorem State.setReg_door {s : State} {a v : Nat} : (s.setReg a v).door = s.door := rfl
@[simp] theorem State.setReg_staged {s : State} {a v : Nat} : (s.setReg a v).staged = s.staged := rfl
@[simp] theorem State.setReg_xcommit {s : State} {a v : Nat} : (s.setReg a v).xcommit = s.xcommit := rfl
@[simp] theorem State.setReg_prior {s : State} {a v : Nat} : (s.setReg a v).prior = s.prior := rfl
@[simp] theorem State.setReg_time {s : State} {a v : Nat} : (s.setReg a v).time = s.time := rfl
@[simp] theorem State.setReg_trig {s : State} {a v : Nat} : (s.setReg a v).trig = s.trig := rfl
@[simp] theorem State.setReg_bm {s : State} {a v : Nat} : (s.setReg a v).bm = s.bm := rfl
@[simp] theorem State.setReg_weft {s : State} {a v : Nat} : (s.setReg a v).weft = s.weft := rfl
@[simp] theorem State.setReg_cen {s : State} {a v : Nat} : (s.setReg a v).cen = s.cen := rfl
@[simp] theorem State.setReg_pairs {s : State} {a v : Nat} : (s.setReg a v).pairs = s.pairs := rfl
@[simp] theorem State.setReg_slices {s : State} {a v : Nat} : (s.setReg a v).slices = s.slices := rfl
@[simp] theorem State.setReg_closedGp {s : State} {a v : Nat} : (s.setReg a v).closedGp = s.closedGp := rfl
@[simp] theorem State.setReg_closedSeq {s : State} {a v : Nat} : (s.setReg a v).closedSeq = s.closedSeq := rfl
@[simp] theorem State.setReg_grants {s : State} {a v : Nat} : (s.setReg a v).grants = s.grants := rfl
@[simp] theorem State.setReg_grantSeq {s : State} {a v : Nat} : (s.setReg a v).grantSeq = s.grantSeq := rfl
@[simp] theorem State.setReg_xfer {s : State} {a v : Nat} : (s.setReg a v).xfer = s.xfer := rfl
@[simp] theorem State.setReg_led {s : State} {a v : Nat} : (s.setReg a v).led = s.led := rfl
@[simp] theorem State.setReg_sie {s : State} {a v : Nat} : (s.setReg a v).sie = s.sie := rfl
@[simp] theorem State.setReg_openPts {s : State} {a v : Nat} : (s.setReg a v).openPts = s.openPts := rfl
@[simp] theorem State.setReg_sieIn {s : State} {a v : Nat} : (s.setReg a v).sieIn = s.sieIn := rfl
@[simp] theorem State.setReg_fdcQ {s : State} {a v : Nat} : (s.setReg a v).fdcQ = s.fdcQ := rfl
@[simp] theorem State.setReg_psuQ {s : State} {a v : Nat} : (s.setReg a v).psuQ = s.psuQ := rfl
@[simp] theorem State.setReg_dzeQ {s : State} {a v : Nat} : (s.setReg a v).dzeQ = s.dzeQ := rfl
@[simp] theorem State.setReg_fdc {s : State} {a v : Nat} : (s.setReg a v).fdc = s.fdc := rfl
@[simp] theorem State.setReg_psu {s : State} {a v : Nat} : (s.setReg a v).psu = s.psu := rfl
@[simp] theorem State.setReg_dze {s : State} {a v : Nat} : (s.setReg a v).dze = s.dze := rfl
@[simp] theorem State.setReg_pubQ {s : State} {a v : Nat} : (s.setReg a v).pubQ = s.pubQ := rfl
@[simp] theorem State.setReg_pub {s : State} {a v : Nat} : (s.setReg a v).pub = s.pub := rfl
@[simp] theorem State.setReg_watch {s : State} {a v : Nat} : (s.setReg a v).watch = s.watch := rfl
@[simp] theorem State.setReg_subs {s : State} {a v : Nat} : (s.setReg a v).subs = s.subs := rfl
@[simp] theorem State.setReg_swc {s : State} {a v : Nat} : (s.setReg a v).swc = s.swc := rfl
@[simp] theorem State.setReg_red {s : State} {a v : Nat} : (s.setReg a v).red = s.red := rfl
@[simp] theorem State.setReg_cas {s : State} {a v : Nat} : (s.setReg a v).cas = s.cas := rfl
@[simp] theorem State.setReg_boot {s : State} {a v : Nat} : (s.setReg a v).boot = s.boot := rfl
@[simp] theorem State.setReg_tae {s : State} {a v : Nat} : (s.setReg a v).tae = s.tae := rfl
@[simp] theorem State.setReg_taeQ {s : State} {a v : Nat} : (s.setReg a v).taeQ = s.taeQ := rfl
@[simp] theorem State.setReg_recNo {s : State} {a v : Nat} : (s.setReg a v).recNo = s.recNo := rfl
@[simp] theorem State.setReg_rgeQ {s : State} {a v : Nat} : (s.setReg a v).rgeQ = s.rgeQ := rfl
@[simp] theorem State.setReg_loops {s : State} {a v : Nat} : (s.setReg a v).loops = s.loops := rfl
@[simp] theorem State.setReg_lge {s : State} {a v : Nat} : (s.setReg a v).lge = s.lge := rfl
@[simp] theorem State.setReg_can {s : State} {a v : Nat} : (s.setReg a v).can = s.can := rfl
@[simp] theorem State.setReg_lzSeq {s : State} {a v : Nat} : (s.setReg a v).lzSeq = s.lzSeq := rfl
@[simp] theorem State.setReg_keys {s : State} {a v : Nat} : (s.setReg a v).keys = s.keys := rfl
@[simp] theorem State.setReg_secure {s : State} {a v : Nat} : (s.setReg a v).secure = s.secure := rfl
@[simp] theorem State.setReg_helper {s : State} {a v : Nat} : (s.setReg a v).helper = s.helper := rfl
@[simp] theorem State.setReg_keyOps {s : State} {a v : Nat} : (s.setReg a v).keyOps = s.keyOps := rfl
@[simp] theorem State.setReg_guard {s : State} {a v : Nat} : (s.setReg a v).guard = s.guard := rfl
@[simp] theorem State.setReg_bkd {s : State} {a v : Nat} : (s.setReg a v).bkd = s.bkd := rfl
@[simp] theorem State.setReg_blockFail {s : State} {a v : Nat} : (s.setReg a v).blockFail = s.blockFail := rfl
@[simp] theorem State.setReg_faults {s : State} {a v : Nat} : (s.setReg a v).faults = s.faults := rfl
@[simp] theorem State.setReg_hotFrom {s : State} {a v : Nat} : (s.setReg a v).hotFrom = s.hotFrom := rfl
@[simp] theorem State.setReg_coolFrom {s : State} {a v : Nat} : (s.setReg a v).coolFrom = s.coolFrom := rfl
@[simp] theorem State.setReg_moduleFault {s : State} {a v : Nat} : (s.setReg a v).moduleFault = s.moduleFault := rfl

/-! ### setFld -/

@[simp] theorem State.setFld_pending {s : State} {a hi lo v : Nat} : (s.setFld a hi lo v).pending = s.pending := rfl
@[simp] theorem State.setFld_clk {s : State} {a hi lo v : Nat} : (s.setFld a hi lo v).clk = s.clk := rfl
@[simp] theorem State.setFld_free {s : State} {a hi lo v : Nat} : (s.setFld a hi lo v).free = s.free := rfl
@[simp] theorem State.setFld_mem {s : State} {a hi lo v : Nat} : (s.setFld a hi lo v).mem = s.mem := rfl
@[simp] theorem State.setFld_poison {s : State} {a hi lo v : Nat} : (s.setFld a hi lo v).poison = s.poison := rfl
@[simp] theorem State.setFld_readLatch {s : State} {a hi lo v : Nat} : (s.setFld a hi lo v).readLatch = s.readLatch := rfl
@[simp] theorem State.setFld_writeLatch {s : State} {a hi lo v : Nat} : (s.setFld a hi lo v).writeLatch = s.writeLatch := rfl
@[simp] theorem State.setFld_latched {s : State} {a hi lo v : Nat} : (s.setFld a hi lo v).latched = s.latched := rfl
@[simp] theorem State.setFld_reply {s : State} {a hi lo v : Nat} : (s.setFld a hi lo v).reply = s.reply := rfl
@[simp] theorem State.setFld_out {s : State} {a hi lo v : Nat} : (s.setFld a hi lo v).out = s.out := rfl
@[simp] theorem State.setFld_power {s : State} {a hi lo v : Nat} : (s.setFld a hi lo v).power = s.power := rfl
@[simp] theorem State.setFld_complete {s : State} {a hi lo v : Nat} : (s.setFld a hi lo v).complete = s.complete := rfl
@[simp] theorem State.setFld_stall {s : State} {a hi lo v : Nat} : (s.setFld a hi lo v).stall = s.stall := rfl
@[simp] theorem State.setFld_door {s : State} {a hi lo v : Nat} : (s.setFld a hi lo v).door = s.door := rfl
@[simp] theorem State.setFld_staged {s : State} {a hi lo v : Nat} : (s.setFld a hi lo v).staged = s.staged := rfl
@[simp] theorem State.setFld_xcommit {s : State} {a hi lo v : Nat} : (s.setFld a hi lo v).xcommit = s.xcommit := rfl
@[simp] theorem State.setFld_prior {s : State} {a hi lo v : Nat} : (s.setFld a hi lo v).prior = s.prior := rfl
@[simp] theorem State.setFld_time {s : State} {a hi lo v : Nat} : (s.setFld a hi lo v).time = s.time := rfl
@[simp] theorem State.setFld_trig {s : State} {a hi lo v : Nat} : (s.setFld a hi lo v).trig = s.trig := rfl
@[simp] theorem State.setFld_bm {s : State} {a hi lo v : Nat} : (s.setFld a hi lo v).bm = s.bm := rfl
@[simp] theorem State.setFld_weft {s : State} {a hi lo v : Nat} : (s.setFld a hi lo v).weft = s.weft := rfl
@[simp] theorem State.setFld_cen {s : State} {a hi lo v : Nat} : (s.setFld a hi lo v).cen = s.cen := rfl
@[simp] theorem State.setFld_pairs {s : State} {a hi lo v : Nat} : (s.setFld a hi lo v).pairs = s.pairs := rfl
@[simp] theorem State.setFld_slices {s : State} {a hi lo v : Nat} : (s.setFld a hi lo v).slices = s.slices := rfl
@[simp] theorem State.setFld_closedGp {s : State} {a hi lo v : Nat} : (s.setFld a hi lo v).closedGp = s.closedGp := rfl
@[simp] theorem State.setFld_closedSeq {s : State} {a hi lo v : Nat} : (s.setFld a hi lo v).closedSeq = s.closedSeq := rfl
@[simp] theorem State.setFld_grants {s : State} {a hi lo v : Nat} : (s.setFld a hi lo v).grants = s.grants := rfl
@[simp] theorem State.setFld_grantSeq {s : State} {a hi lo v : Nat} : (s.setFld a hi lo v).grantSeq = s.grantSeq := rfl
@[simp] theorem State.setFld_xfer {s : State} {a hi lo v : Nat} : (s.setFld a hi lo v).xfer = s.xfer := rfl
@[simp] theorem State.setFld_led {s : State} {a hi lo v : Nat} : (s.setFld a hi lo v).led = s.led := rfl
@[simp] theorem State.setFld_sie {s : State} {a hi lo v : Nat} : (s.setFld a hi lo v).sie = s.sie := rfl
@[simp] theorem State.setFld_openPts {s : State} {a hi lo v : Nat} : (s.setFld a hi lo v).openPts = s.openPts := rfl
@[simp] theorem State.setFld_sieIn {s : State} {a hi lo v : Nat} : (s.setFld a hi lo v).sieIn = s.sieIn := rfl
@[simp] theorem State.setFld_fdcQ {s : State} {a hi lo v : Nat} : (s.setFld a hi lo v).fdcQ = s.fdcQ := rfl
@[simp] theorem State.setFld_psuQ {s : State} {a hi lo v : Nat} : (s.setFld a hi lo v).psuQ = s.psuQ := rfl
@[simp] theorem State.setFld_dzeQ {s : State} {a hi lo v : Nat} : (s.setFld a hi lo v).dzeQ = s.dzeQ := rfl
@[simp] theorem State.setFld_fdc {s : State} {a hi lo v : Nat} : (s.setFld a hi lo v).fdc = s.fdc := rfl
@[simp] theorem State.setFld_psu {s : State} {a hi lo v : Nat} : (s.setFld a hi lo v).psu = s.psu := rfl
@[simp] theorem State.setFld_dze {s : State} {a hi lo v : Nat} : (s.setFld a hi lo v).dze = s.dze := rfl
@[simp] theorem State.setFld_pubQ {s : State} {a hi lo v : Nat} : (s.setFld a hi lo v).pubQ = s.pubQ := rfl
@[simp] theorem State.setFld_pub {s : State} {a hi lo v : Nat} : (s.setFld a hi lo v).pub = s.pub := rfl
@[simp] theorem State.setFld_watch {s : State} {a hi lo v : Nat} : (s.setFld a hi lo v).watch = s.watch := rfl
@[simp] theorem State.setFld_subs {s : State} {a hi lo v : Nat} : (s.setFld a hi lo v).subs = s.subs := rfl
@[simp] theorem State.setFld_swc {s : State} {a hi lo v : Nat} : (s.setFld a hi lo v).swc = s.swc := rfl
@[simp] theorem State.setFld_red {s : State} {a hi lo v : Nat} : (s.setFld a hi lo v).red = s.red := rfl
@[simp] theorem State.setFld_cas {s : State} {a hi lo v : Nat} : (s.setFld a hi lo v).cas = s.cas := rfl
@[simp] theorem State.setFld_boot {s : State} {a hi lo v : Nat} : (s.setFld a hi lo v).boot = s.boot := rfl
@[simp] theorem State.setFld_tae {s : State} {a hi lo v : Nat} : (s.setFld a hi lo v).tae = s.tae := rfl
@[simp] theorem State.setFld_taeQ {s : State} {a hi lo v : Nat} : (s.setFld a hi lo v).taeQ = s.taeQ := rfl
@[simp] theorem State.setFld_recNo {s : State} {a hi lo v : Nat} : (s.setFld a hi lo v).recNo = s.recNo := rfl
@[simp] theorem State.setFld_rgeQ {s : State} {a hi lo v : Nat} : (s.setFld a hi lo v).rgeQ = s.rgeQ := rfl
@[simp] theorem State.setFld_loops {s : State} {a hi lo v : Nat} : (s.setFld a hi lo v).loops = s.loops := rfl
@[simp] theorem State.setFld_lge {s : State} {a hi lo v : Nat} : (s.setFld a hi lo v).lge = s.lge := rfl
@[simp] theorem State.setFld_can {s : State} {a hi lo v : Nat} : (s.setFld a hi lo v).can = s.can := rfl
@[simp] theorem State.setFld_lzSeq {s : State} {a hi lo v : Nat} : (s.setFld a hi lo v).lzSeq = s.lzSeq := rfl
@[simp] theorem State.setFld_keys {s : State} {a hi lo v : Nat} : (s.setFld a hi lo v).keys = s.keys := rfl
@[simp] theorem State.setFld_secure {s : State} {a hi lo v : Nat} : (s.setFld a hi lo v).secure = s.secure := rfl
@[simp] theorem State.setFld_helper {s : State} {a hi lo v : Nat} : (s.setFld a hi lo v).helper = s.helper := rfl
@[simp] theorem State.setFld_keyOps {s : State} {a hi lo v : Nat} : (s.setFld a hi lo v).keyOps = s.keyOps := rfl
@[simp] theorem State.setFld_guard {s : State} {a hi lo v : Nat} : (s.setFld a hi lo v).guard = s.guard := rfl
@[simp] theorem State.setFld_bkd {s : State} {a hi lo v : Nat} : (s.setFld a hi lo v).bkd = s.bkd := rfl
@[simp] theorem State.setFld_blockFail {s : State} {a hi lo v : Nat} : (s.setFld a hi lo v).blockFail = s.blockFail := rfl
@[simp] theorem State.setFld_faults {s : State} {a hi lo v : Nat} : (s.setFld a hi lo v).faults = s.faults := rfl
@[simp] theorem State.setFld_hotFrom {s : State} {a hi lo v : Nat} : (s.setFld a hi lo v).hotFrom = s.hotFrom := rfl
@[simp] theorem State.setFld_coolFrom {s : State} {a hi lo v : Nat} : (s.setFld a hi lo v).coolFrom = s.coolFrom := rfl
@[simp] theorem State.setFld_moduleFault {s : State} {a hi lo v : Nat} : (s.setFld a hi lo v).moduleFault = s.moduleFault := rfl

/-! ### setBit -/

@[simp] theorem State.setBit_pending {s : State} {a i : Nat} {v : Bool} : (s.setBit a i v).pending = s.pending := rfl
@[simp] theorem State.setBit_clk {s : State} {a i : Nat} {v : Bool} : (s.setBit a i v).clk = s.clk := rfl
@[simp] theorem State.setBit_free {s : State} {a i : Nat} {v : Bool} : (s.setBit a i v).free = s.free := rfl
@[simp] theorem State.setBit_mem {s : State} {a i : Nat} {v : Bool} : (s.setBit a i v).mem = s.mem := rfl
@[simp] theorem State.setBit_poison {s : State} {a i : Nat} {v : Bool} : (s.setBit a i v).poison = s.poison := rfl
@[simp] theorem State.setBit_readLatch {s : State} {a i : Nat} {v : Bool} : (s.setBit a i v).readLatch = s.readLatch := rfl
@[simp] theorem State.setBit_writeLatch {s : State} {a i : Nat} {v : Bool} : (s.setBit a i v).writeLatch = s.writeLatch := rfl
@[simp] theorem State.setBit_latched {s : State} {a i : Nat} {v : Bool} : (s.setBit a i v).latched = s.latched := rfl
@[simp] theorem State.setBit_reply {s : State} {a i : Nat} {v : Bool} : (s.setBit a i v).reply = s.reply := rfl
@[simp] theorem State.setBit_out {s : State} {a i : Nat} {v : Bool} : (s.setBit a i v).out = s.out := rfl
@[simp] theorem State.setBit_power {s : State} {a i : Nat} {v : Bool} : (s.setBit a i v).power = s.power := rfl
@[simp] theorem State.setBit_complete {s : State} {a i : Nat} {v : Bool} : (s.setBit a i v).complete = s.complete := rfl
@[simp] theorem State.setBit_stall {s : State} {a i : Nat} {v : Bool} : (s.setBit a i v).stall = s.stall := rfl
@[simp] theorem State.setBit_door {s : State} {a i : Nat} {v : Bool} : (s.setBit a i v).door = s.door := rfl
@[simp] theorem State.setBit_staged {s : State} {a i : Nat} {v : Bool} : (s.setBit a i v).staged = s.staged := rfl
@[simp] theorem State.setBit_xcommit {s : State} {a i : Nat} {v : Bool} : (s.setBit a i v).xcommit = s.xcommit := rfl
@[simp] theorem State.setBit_prior {s : State} {a i : Nat} {v : Bool} : (s.setBit a i v).prior = s.prior := rfl
@[simp] theorem State.setBit_time {s : State} {a i : Nat} {v : Bool} : (s.setBit a i v).time = s.time := rfl
@[simp] theorem State.setBit_trig {s : State} {a i : Nat} {v : Bool} : (s.setBit a i v).trig = s.trig := rfl
@[simp] theorem State.setBit_bm {s : State} {a i : Nat} {v : Bool} : (s.setBit a i v).bm = s.bm := rfl
@[simp] theorem State.setBit_weft {s : State} {a i : Nat} {v : Bool} : (s.setBit a i v).weft = s.weft := rfl
@[simp] theorem State.setBit_cen {s : State} {a i : Nat} {v : Bool} : (s.setBit a i v).cen = s.cen := rfl
@[simp] theorem State.setBit_pairs {s : State} {a i : Nat} {v : Bool} : (s.setBit a i v).pairs = s.pairs := rfl
@[simp] theorem State.setBit_slices {s : State} {a i : Nat} {v : Bool} : (s.setBit a i v).slices = s.slices := rfl
@[simp] theorem State.setBit_closedGp {s : State} {a i : Nat} {v : Bool} : (s.setBit a i v).closedGp = s.closedGp := rfl
@[simp] theorem State.setBit_closedSeq {s : State} {a i : Nat} {v : Bool} : (s.setBit a i v).closedSeq = s.closedSeq := rfl
@[simp] theorem State.setBit_grants {s : State} {a i : Nat} {v : Bool} : (s.setBit a i v).grants = s.grants := rfl
@[simp] theorem State.setBit_grantSeq {s : State} {a i : Nat} {v : Bool} : (s.setBit a i v).grantSeq = s.grantSeq := rfl
@[simp] theorem State.setBit_xfer {s : State} {a i : Nat} {v : Bool} : (s.setBit a i v).xfer = s.xfer := rfl
@[simp] theorem State.setBit_led {s : State} {a i : Nat} {v : Bool} : (s.setBit a i v).led = s.led := rfl
@[simp] theorem State.setBit_sie {s : State} {a i : Nat} {v : Bool} : (s.setBit a i v).sie = s.sie := rfl
@[simp] theorem State.setBit_openPts {s : State} {a i : Nat} {v : Bool} : (s.setBit a i v).openPts = s.openPts := rfl
@[simp] theorem State.setBit_sieIn {s : State} {a i : Nat} {v : Bool} : (s.setBit a i v).sieIn = s.sieIn := rfl
@[simp] theorem State.setBit_fdcQ {s : State} {a i : Nat} {v : Bool} : (s.setBit a i v).fdcQ = s.fdcQ := rfl
@[simp] theorem State.setBit_psuQ {s : State} {a i : Nat} {v : Bool} : (s.setBit a i v).psuQ = s.psuQ := rfl
@[simp] theorem State.setBit_dzeQ {s : State} {a i : Nat} {v : Bool} : (s.setBit a i v).dzeQ = s.dzeQ := rfl
@[simp] theorem State.setBit_fdc {s : State} {a i : Nat} {v : Bool} : (s.setBit a i v).fdc = s.fdc := rfl
@[simp] theorem State.setBit_psu {s : State} {a i : Nat} {v : Bool} : (s.setBit a i v).psu = s.psu := rfl
@[simp] theorem State.setBit_dze {s : State} {a i : Nat} {v : Bool} : (s.setBit a i v).dze = s.dze := rfl
@[simp] theorem State.setBit_pubQ {s : State} {a i : Nat} {v : Bool} : (s.setBit a i v).pubQ = s.pubQ := rfl
@[simp] theorem State.setBit_pub {s : State} {a i : Nat} {v : Bool} : (s.setBit a i v).pub = s.pub := rfl
@[simp] theorem State.setBit_watch {s : State} {a i : Nat} {v : Bool} : (s.setBit a i v).watch = s.watch := rfl
@[simp] theorem State.setBit_subs {s : State} {a i : Nat} {v : Bool} : (s.setBit a i v).subs = s.subs := rfl
@[simp] theorem State.setBit_swc {s : State} {a i : Nat} {v : Bool} : (s.setBit a i v).swc = s.swc := rfl
@[simp] theorem State.setBit_red {s : State} {a i : Nat} {v : Bool} : (s.setBit a i v).red = s.red := rfl
@[simp] theorem State.setBit_cas {s : State} {a i : Nat} {v : Bool} : (s.setBit a i v).cas = s.cas := rfl
@[simp] theorem State.setBit_boot {s : State} {a i : Nat} {v : Bool} : (s.setBit a i v).boot = s.boot := rfl
@[simp] theorem State.setBit_tae {s : State} {a i : Nat} {v : Bool} : (s.setBit a i v).tae = s.tae := rfl
@[simp] theorem State.setBit_taeQ {s : State} {a i : Nat} {v : Bool} : (s.setBit a i v).taeQ = s.taeQ := rfl
@[simp] theorem State.setBit_recNo {s : State} {a i : Nat} {v : Bool} : (s.setBit a i v).recNo = s.recNo := rfl
@[simp] theorem State.setBit_rgeQ {s : State} {a i : Nat} {v : Bool} : (s.setBit a i v).rgeQ = s.rgeQ := rfl
@[simp] theorem State.setBit_loops {s : State} {a i : Nat} {v : Bool} : (s.setBit a i v).loops = s.loops := rfl
@[simp] theorem State.setBit_lge {s : State} {a i : Nat} {v : Bool} : (s.setBit a i v).lge = s.lge := rfl
@[simp] theorem State.setBit_can {s : State} {a i : Nat} {v : Bool} : (s.setBit a i v).can = s.can := rfl
@[simp] theorem State.setBit_lzSeq {s : State} {a i : Nat} {v : Bool} : (s.setBit a i v).lzSeq = s.lzSeq := rfl
@[simp] theorem State.setBit_keys {s : State} {a i : Nat} {v : Bool} : (s.setBit a i v).keys = s.keys := rfl
@[simp] theorem State.setBit_secure {s : State} {a i : Nat} {v : Bool} : (s.setBit a i v).secure = s.secure := rfl
@[simp] theorem State.setBit_helper {s : State} {a i : Nat} {v : Bool} : (s.setBit a i v).helper = s.helper := rfl
@[simp] theorem State.setBit_keyOps {s : State} {a i : Nat} {v : Bool} : (s.setBit a i v).keyOps = s.keyOps := rfl
@[simp] theorem State.setBit_guard {s : State} {a i : Nat} {v : Bool} : (s.setBit a i v).guard = s.guard := rfl
@[simp] theorem State.setBit_bkd {s : State} {a i : Nat} {v : Bool} : (s.setBit a i v).bkd = s.bkd := rfl
@[simp] theorem State.setBit_blockFail {s : State} {a i : Nat} {v : Bool} : (s.setBit a i v).blockFail = s.blockFail := rfl
@[simp] theorem State.setBit_faults {s : State} {a i : Nat} {v : Bool} : (s.setBit a i v).faults = s.faults := rfl
@[simp] theorem State.setBit_hotFrom {s : State} {a i : Nat} {v : Bool} : (s.setBit a i v).hotFrom = s.hotFrom := rfl
@[simp] theorem State.setBit_coolFrom {s : State} {a i : Nat} {v : Bool} : (s.setBit a i v).coolFrom = s.coolFrom := rfl
@[simp] theorem State.setBit_moduleFault {s : State} {a i : Nat} {v : Bool} : (s.setBit a i v).moduleFault = s.moduleFault := rfl

/-! ### evt -/

@[simp] theorem State.evt_pending {s : State} {a i : Nat} : (s.evt a i).pending = s.pending := rfl
@[simp] theorem State.evt_clk {s : State} {a i : Nat} : (s.evt a i).clk = s.clk := rfl
@[simp] theorem State.evt_free {s : State} {a i : Nat} : (s.evt a i).free = s.free := rfl
@[simp] theorem State.evt_mem {s : State} {a i : Nat} : (s.evt a i).mem = s.mem := rfl
@[simp] theorem State.evt_poison {s : State} {a i : Nat} : (s.evt a i).poison = s.poison := rfl
@[simp] theorem State.evt_readLatch {s : State} {a i : Nat} : (s.evt a i).readLatch = s.readLatch := rfl
@[simp] theorem State.evt_writeLatch {s : State} {a i : Nat} : (s.evt a i).writeLatch = s.writeLatch := rfl
@[simp] theorem State.evt_latched {s : State} {a i : Nat} : (s.evt a i).latched = s.latched := rfl
@[simp] theorem State.evt_reply {s : State} {a i : Nat} : (s.evt a i).reply = s.reply := rfl
@[simp] theorem State.evt_out {s : State} {a i : Nat} : (s.evt a i).out = s.out := rfl
@[simp] theorem State.evt_power {s : State} {a i : Nat} : (s.evt a i).power = s.power := rfl
@[simp] theorem State.evt_complete {s : State} {a i : Nat} : (s.evt a i).complete = s.complete := rfl
@[simp] theorem State.evt_stall {s : State} {a i : Nat} : (s.evt a i).stall = s.stall := rfl
@[simp] theorem State.evt_door {s : State} {a i : Nat} : (s.evt a i).door = s.door := rfl
@[simp] theorem State.evt_staged {s : State} {a i : Nat} : (s.evt a i).staged = s.staged := rfl
@[simp] theorem State.evt_xcommit {s : State} {a i : Nat} : (s.evt a i).xcommit = s.xcommit := rfl
@[simp] theorem State.evt_prior {s : State} {a i : Nat} : (s.evt a i).prior = s.prior := rfl
@[simp] theorem State.evt_time {s : State} {a i : Nat} : (s.evt a i).time = s.time := rfl
@[simp] theorem State.evt_trig {s : State} {a i : Nat} : (s.evt a i).trig = s.trig := rfl
@[simp] theorem State.evt_bm {s : State} {a i : Nat} : (s.evt a i).bm = s.bm := rfl
@[simp] theorem State.evt_weft {s : State} {a i : Nat} : (s.evt a i).weft = s.weft := rfl
@[simp] theorem State.evt_cen {s : State} {a i : Nat} : (s.evt a i).cen = s.cen := rfl
@[simp] theorem State.evt_pairs {s : State} {a i : Nat} : (s.evt a i).pairs = s.pairs := rfl
@[simp] theorem State.evt_slices {s : State} {a i : Nat} : (s.evt a i).slices = s.slices := rfl
@[simp] theorem State.evt_closedGp {s : State} {a i : Nat} : (s.evt a i).closedGp = s.closedGp := rfl
@[simp] theorem State.evt_closedSeq {s : State} {a i : Nat} : (s.evt a i).closedSeq = s.closedSeq := rfl
@[simp] theorem State.evt_grants {s : State} {a i : Nat} : (s.evt a i).grants = s.grants := rfl
@[simp] theorem State.evt_grantSeq {s : State} {a i : Nat} : (s.evt a i).grantSeq = s.grantSeq := rfl
@[simp] theorem State.evt_xfer {s : State} {a i : Nat} : (s.evt a i).xfer = s.xfer := rfl
@[simp] theorem State.evt_led {s : State} {a i : Nat} : (s.evt a i).led = s.led := rfl
@[simp] theorem State.evt_sie {s : State} {a i : Nat} : (s.evt a i).sie = s.sie := rfl
@[simp] theorem State.evt_openPts {s : State} {a i : Nat} : (s.evt a i).openPts = s.openPts := rfl
@[simp] theorem State.evt_sieIn {s : State} {a i : Nat} : (s.evt a i).sieIn = s.sieIn := rfl
@[simp] theorem State.evt_fdcQ {s : State} {a i : Nat} : (s.evt a i).fdcQ = s.fdcQ := rfl
@[simp] theorem State.evt_psuQ {s : State} {a i : Nat} : (s.evt a i).psuQ = s.psuQ := rfl
@[simp] theorem State.evt_dzeQ {s : State} {a i : Nat} : (s.evt a i).dzeQ = s.dzeQ := rfl
@[simp] theorem State.evt_fdc {s : State} {a i : Nat} : (s.evt a i).fdc = s.fdc := rfl
@[simp] theorem State.evt_psu {s : State} {a i : Nat} : (s.evt a i).psu = s.psu := rfl
@[simp] theorem State.evt_dze {s : State} {a i : Nat} : (s.evt a i).dze = s.dze := rfl
@[simp] theorem State.evt_pubQ {s : State} {a i : Nat} : (s.evt a i).pubQ = s.pubQ := rfl
@[simp] theorem State.evt_pub {s : State} {a i : Nat} : (s.evt a i).pub = s.pub := rfl
@[simp] theorem State.evt_watch {s : State} {a i : Nat} : (s.evt a i).watch = s.watch := rfl
@[simp] theorem State.evt_subs {s : State} {a i : Nat} : (s.evt a i).subs = s.subs := rfl
@[simp] theorem State.evt_swc {s : State} {a i : Nat} : (s.evt a i).swc = s.swc := rfl
@[simp] theorem State.evt_red {s : State} {a i : Nat} : (s.evt a i).red = s.red := rfl
@[simp] theorem State.evt_cas {s : State} {a i : Nat} : (s.evt a i).cas = s.cas := rfl
@[simp] theorem State.evt_boot {s : State} {a i : Nat} : (s.evt a i).boot = s.boot := rfl
@[simp] theorem State.evt_tae {s : State} {a i : Nat} : (s.evt a i).tae = s.tae := rfl
@[simp] theorem State.evt_taeQ {s : State} {a i : Nat} : (s.evt a i).taeQ = s.taeQ := rfl
@[simp] theorem State.evt_recNo {s : State} {a i : Nat} : (s.evt a i).recNo = s.recNo := rfl
@[simp] theorem State.evt_rgeQ {s : State} {a i : Nat} : (s.evt a i).rgeQ = s.rgeQ := rfl
@[simp] theorem State.evt_loops {s : State} {a i : Nat} : (s.evt a i).loops = s.loops := rfl
@[simp] theorem State.evt_lge {s : State} {a i : Nat} : (s.evt a i).lge = s.lge := rfl
@[simp] theorem State.evt_can {s : State} {a i : Nat} : (s.evt a i).can = s.can := rfl
@[simp] theorem State.evt_lzSeq {s : State} {a i : Nat} : (s.evt a i).lzSeq = s.lzSeq := rfl
@[simp] theorem State.evt_keys {s : State} {a i : Nat} : (s.evt a i).keys = s.keys := rfl
@[simp] theorem State.evt_secure {s : State} {a i : Nat} : (s.evt a i).secure = s.secure := rfl
@[simp] theorem State.evt_helper {s : State} {a i : Nat} : (s.evt a i).helper = s.helper := rfl
@[simp] theorem State.evt_keyOps {s : State} {a i : Nat} : (s.evt a i).keyOps = s.keyOps := rfl
@[simp] theorem State.evt_guard {s : State} {a i : Nat} : (s.evt a i).guard = s.guard := rfl
@[simp] theorem State.evt_bkd {s : State} {a i : Nat} : (s.evt a i).bkd = s.bkd := rfl
@[simp] theorem State.evt_blockFail {s : State} {a i : Nat} : (s.evt a i).blockFail = s.blockFail := rfl
@[simp] theorem State.evt_faults {s : State} {a i : Nat} : (s.evt a i).faults = s.faults := rfl
@[simp] theorem State.evt_hotFrom {s : State} {a i : Nat} : (s.evt a i).hotFrom = s.hotFrom := rfl
@[simp] theorem State.evt_coolFrom {s : State} {a i : Nat} : (s.evt a i).coolFrom = s.coolFrom := rfl
@[simp] theorem State.evt_moduleFault {s : State} {a i : Nat} : (s.evt a i).moduleFault = s.moduleFault := rfl

/-! ### inc -/

@[simp] theorem State.inc_pending {s : State} {a : Nat} : (s.inc a).pending = s.pending := rfl
@[simp] theorem State.inc_clk {s : State} {a : Nat} : (s.inc a).clk = s.clk := rfl
@[simp] theorem State.inc_free {s : State} {a : Nat} : (s.inc a).free = s.free := rfl
@[simp] theorem State.inc_mem {s : State} {a : Nat} : (s.inc a).mem = s.mem := rfl
@[simp] theorem State.inc_poison {s : State} {a : Nat} : (s.inc a).poison = s.poison := rfl
@[simp] theorem State.inc_readLatch {s : State} {a : Nat} : (s.inc a).readLatch = s.readLatch := rfl
@[simp] theorem State.inc_writeLatch {s : State} {a : Nat} : (s.inc a).writeLatch = s.writeLatch := rfl
@[simp] theorem State.inc_latched {s : State} {a : Nat} : (s.inc a).latched = s.latched := rfl
@[simp] theorem State.inc_reply {s : State} {a : Nat} : (s.inc a).reply = s.reply := rfl
@[simp] theorem State.inc_out {s : State} {a : Nat} : (s.inc a).out = s.out := rfl
@[simp] theorem State.inc_power {s : State} {a : Nat} : (s.inc a).power = s.power := rfl
@[simp] theorem State.inc_complete {s : State} {a : Nat} : (s.inc a).complete = s.complete := rfl
@[simp] theorem State.inc_stall {s : State} {a : Nat} : (s.inc a).stall = s.stall := rfl
@[simp] theorem State.inc_door {s : State} {a : Nat} : (s.inc a).door = s.door := rfl
@[simp] theorem State.inc_staged {s : State} {a : Nat} : (s.inc a).staged = s.staged := rfl
@[simp] theorem State.inc_xcommit {s : State} {a : Nat} : (s.inc a).xcommit = s.xcommit := rfl
@[simp] theorem State.inc_prior {s : State} {a : Nat} : (s.inc a).prior = s.prior := rfl
@[simp] theorem State.inc_time {s : State} {a : Nat} : (s.inc a).time = s.time := rfl
@[simp] theorem State.inc_trig {s : State} {a : Nat} : (s.inc a).trig = s.trig := rfl
@[simp] theorem State.inc_bm {s : State} {a : Nat} : (s.inc a).bm = s.bm := rfl
@[simp] theorem State.inc_weft {s : State} {a : Nat} : (s.inc a).weft = s.weft := rfl
@[simp] theorem State.inc_cen {s : State} {a : Nat} : (s.inc a).cen = s.cen := rfl
@[simp] theorem State.inc_pairs {s : State} {a : Nat} : (s.inc a).pairs = s.pairs := rfl
@[simp] theorem State.inc_slices {s : State} {a : Nat} : (s.inc a).slices = s.slices := rfl
@[simp] theorem State.inc_closedGp {s : State} {a : Nat} : (s.inc a).closedGp = s.closedGp := rfl
@[simp] theorem State.inc_closedSeq {s : State} {a : Nat} : (s.inc a).closedSeq = s.closedSeq := rfl
@[simp] theorem State.inc_grants {s : State} {a : Nat} : (s.inc a).grants = s.grants := rfl
@[simp] theorem State.inc_grantSeq {s : State} {a : Nat} : (s.inc a).grantSeq = s.grantSeq := rfl
@[simp] theorem State.inc_xfer {s : State} {a : Nat} : (s.inc a).xfer = s.xfer := rfl
@[simp] theorem State.inc_led {s : State} {a : Nat} : (s.inc a).led = s.led := rfl
@[simp] theorem State.inc_sie {s : State} {a : Nat} : (s.inc a).sie = s.sie := rfl
@[simp] theorem State.inc_openPts {s : State} {a : Nat} : (s.inc a).openPts = s.openPts := rfl
@[simp] theorem State.inc_sieIn {s : State} {a : Nat} : (s.inc a).sieIn = s.sieIn := rfl
@[simp] theorem State.inc_fdcQ {s : State} {a : Nat} : (s.inc a).fdcQ = s.fdcQ := rfl
@[simp] theorem State.inc_psuQ {s : State} {a : Nat} : (s.inc a).psuQ = s.psuQ := rfl
@[simp] theorem State.inc_dzeQ {s : State} {a : Nat} : (s.inc a).dzeQ = s.dzeQ := rfl
@[simp] theorem State.inc_fdc {s : State} {a : Nat} : (s.inc a).fdc = s.fdc := rfl
@[simp] theorem State.inc_psu {s : State} {a : Nat} : (s.inc a).psu = s.psu := rfl
@[simp] theorem State.inc_dze {s : State} {a : Nat} : (s.inc a).dze = s.dze := rfl
@[simp] theorem State.inc_pubQ {s : State} {a : Nat} : (s.inc a).pubQ = s.pubQ := rfl
@[simp] theorem State.inc_pub {s : State} {a : Nat} : (s.inc a).pub = s.pub := rfl
@[simp] theorem State.inc_watch {s : State} {a : Nat} : (s.inc a).watch = s.watch := rfl
@[simp] theorem State.inc_subs {s : State} {a : Nat} : (s.inc a).subs = s.subs := rfl
@[simp] theorem State.inc_swc {s : State} {a : Nat} : (s.inc a).swc = s.swc := rfl
@[simp] theorem State.inc_red {s : State} {a : Nat} : (s.inc a).red = s.red := rfl
@[simp] theorem State.inc_cas {s : State} {a : Nat} : (s.inc a).cas = s.cas := rfl
@[simp] theorem State.inc_boot {s : State} {a : Nat} : (s.inc a).boot = s.boot := rfl
@[simp] theorem State.inc_tae {s : State} {a : Nat} : (s.inc a).tae = s.tae := rfl
@[simp] theorem State.inc_taeQ {s : State} {a : Nat} : (s.inc a).taeQ = s.taeQ := rfl
@[simp] theorem State.inc_recNo {s : State} {a : Nat} : (s.inc a).recNo = s.recNo := rfl
@[simp] theorem State.inc_rgeQ {s : State} {a : Nat} : (s.inc a).rgeQ = s.rgeQ := rfl
@[simp] theorem State.inc_loops {s : State} {a : Nat} : (s.inc a).loops = s.loops := rfl
@[simp] theorem State.inc_lge {s : State} {a : Nat} : (s.inc a).lge = s.lge := rfl
@[simp] theorem State.inc_can {s : State} {a : Nat} : (s.inc a).can = s.can := rfl
@[simp] theorem State.inc_lzSeq {s : State} {a : Nat} : (s.inc a).lzSeq = s.lzSeq := rfl
@[simp] theorem State.inc_keys {s : State} {a : Nat} : (s.inc a).keys = s.keys := rfl
@[simp] theorem State.inc_secure {s : State} {a : Nat} : (s.inc a).secure = s.secure := rfl
@[simp] theorem State.inc_helper {s : State} {a : Nat} : (s.inc a).helper = s.helper := rfl
@[simp] theorem State.inc_keyOps {s : State} {a : Nat} : (s.inc a).keyOps = s.keyOps := rfl
@[simp] theorem State.inc_guard {s : State} {a : Nat} : (s.inc a).guard = s.guard := rfl
@[simp] theorem State.inc_bkd {s : State} {a : Nat} : (s.inc a).bkd = s.bkd := rfl
@[simp] theorem State.inc_blockFail {s : State} {a : Nat} : (s.inc a).blockFail = s.blockFail := rfl
@[simp] theorem State.inc_faults {s : State} {a : Nat} : (s.inc a).faults = s.faults := rfl
@[simp] theorem State.inc_hotFrom {s : State} {a : Nat} : (s.inc a).hotFrom = s.hotFrom := rfl
@[simp] theorem State.inc_coolFrom {s : State} {a : Nat} : (s.inc a).coolFrom = s.coolFrom := rfl
@[simp] theorem State.inc_moduleFault {s : State} {a : Nat} : (s.inc a).moduleFault = s.moduleFault := rfl

/-! ### answer -/

@[simp] theorem State.answer_pending {s : State} {m : Nat} {r : Reply} : (s.answer m r).pending = s.pending := rfl
@[simp] theorem State.answer_clk {s : State} {m : Nat} {r : Reply} : (s.answer m r).clk = s.clk := rfl
@[simp] theorem State.answer_free {s : State} {m : Nat} {r : Reply} : (s.answer m r).free = s.free := rfl
@[simp] theorem State.answer_regs {s : State} {m : Nat} {r : Reply} : (s.answer m r).regs = s.regs := rfl
@[simp] theorem State.answer_mem {s : State} {m : Nat} {r : Reply} : (s.answer m r).mem = s.mem := rfl
@[simp] theorem State.answer_poison {s : State} {m : Nat} {r : Reply} : (s.answer m r).poison = s.poison := rfl
@[simp] theorem State.answer_readLatch {s : State} {m : Nat} {r : Reply} : (s.answer m r).readLatch = s.readLatch := rfl
@[simp] theorem State.answer_writeLatch {s : State} {m : Nat} {r : Reply} : (s.answer m r).writeLatch = s.writeLatch := rfl
@[simp] theorem State.answer_latched {s : State} {m : Nat} {r : Reply} : (s.answer m r).latched = s.latched := rfl
@[simp] theorem State.answer_out {s : State} {m : Nat} {r : Reply} : (s.answer m r).out = s.out := rfl
@[simp] theorem State.answer_power {s : State} {m : Nat} {r : Reply} : (s.answer m r).power = s.power := rfl
@[simp] theorem State.answer_complete {s : State} {m : Nat} {r : Reply} : (s.answer m r).complete = s.complete := rfl
@[simp] theorem State.answer_stall {s : State} {m : Nat} {r : Reply} : (s.answer m r).stall = s.stall := rfl
@[simp] theorem State.answer_door {s : State} {m : Nat} {r : Reply} : (s.answer m r).door = s.door := rfl
@[simp] theorem State.answer_staged {s : State} {m : Nat} {r : Reply} : (s.answer m r).staged = s.staged := rfl
@[simp] theorem State.answer_xcommit {s : State} {m : Nat} {r : Reply} : (s.answer m r).xcommit = s.xcommit := rfl
@[simp] theorem State.answer_prior {s : State} {m : Nat} {r : Reply} : (s.answer m r).prior = s.prior := rfl
@[simp] theorem State.answer_time {s : State} {m : Nat} {r : Reply} : (s.answer m r).time = s.time := rfl
@[simp] theorem State.answer_trig {s : State} {m : Nat} {r : Reply} : (s.answer m r).trig = s.trig := rfl
@[simp] theorem State.answer_bm {s : State} {m : Nat} {r : Reply} : (s.answer m r).bm = s.bm := rfl
@[simp] theorem State.answer_weft {s : State} {m : Nat} {r : Reply} : (s.answer m r).weft = s.weft := rfl
@[simp] theorem State.answer_cen {s : State} {m : Nat} {r : Reply} : (s.answer m r).cen = s.cen := rfl
@[simp] theorem State.answer_pairs {s : State} {m : Nat} {r : Reply} : (s.answer m r).pairs = s.pairs := rfl
@[simp] theorem State.answer_slices {s : State} {m : Nat} {r : Reply} : (s.answer m r).slices = s.slices := rfl
@[simp] theorem State.answer_closedGp {s : State} {m : Nat} {r : Reply} : (s.answer m r).closedGp = s.closedGp := rfl
@[simp] theorem State.answer_closedSeq {s : State} {m : Nat} {r : Reply} : (s.answer m r).closedSeq = s.closedSeq := rfl
@[simp] theorem State.answer_grants {s : State} {m : Nat} {r : Reply} : (s.answer m r).grants = s.grants := rfl
@[simp] theorem State.answer_grantSeq {s : State} {m : Nat} {r : Reply} : (s.answer m r).grantSeq = s.grantSeq := rfl
@[simp] theorem State.answer_xfer {s : State} {m : Nat} {r : Reply} : (s.answer m r).xfer = s.xfer := rfl
@[simp] theorem State.answer_led {s : State} {m : Nat} {r : Reply} : (s.answer m r).led = s.led := rfl
@[simp] theorem State.answer_sie {s : State} {m : Nat} {r : Reply} : (s.answer m r).sie = s.sie := rfl
@[simp] theorem State.answer_openPts {s : State} {m : Nat} {r : Reply} : (s.answer m r).openPts = s.openPts := rfl
@[simp] theorem State.answer_sieIn {s : State} {m : Nat} {r : Reply} : (s.answer m r).sieIn = s.sieIn := rfl
@[simp] theorem State.answer_fdcQ {s : State} {m : Nat} {r : Reply} : (s.answer m r).fdcQ = s.fdcQ := rfl
@[simp] theorem State.answer_psuQ {s : State} {m : Nat} {r : Reply} : (s.answer m r).psuQ = s.psuQ := rfl
@[simp] theorem State.answer_dzeQ {s : State} {m : Nat} {r : Reply} : (s.answer m r).dzeQ = s.dzeQ := rfl
@[simp] theorem State.answer_fdc {s : State} {m : Nat} {r : Reply} : (s.answer m r).fdc = s.fdc := rfl
@[simp] theorem State.answer_psu {s : State} {m : Nat} {r : Reply} : (s.answer m r).psu = s.psu := rfl
@[simp] theorem State.answer_dze {s : State} {m : Nat} {r : Reply} : (s.answer m r).dze = s.dze := rfl
@[simp] theorem State.answer_pubQ {s : State} {m : Nat} {r : Reply} : (s.answer m r).pubQ = s.pubQ := rfl
@[simp] theorem State.answer_pub {s : State} {m : Nat} {r : Reply} : (s.answer m r).pub = s.pub := rfl
@[simp] theorem State.answer_watch {s : State} {m : Nat} {r : Reply} : (s.answer m r).watch = s.watch := rfl
@[simp] theorem State.answer_subs {s : State} {m : Nat} {r : Reply} : (s.answer m r).subs = s.subs := rfl
@[simp] theorem State.answer_swc {s : State} {m : Nat} {r : Reply} : (s.answer m r).swc = s.swc := rfl
@[simp] theorem State.answer_red {s : State} {m : Nat} {r : Reply} : (s.answer m r).red = s.red := rfl
@[simp] theorem State.answer_cas {s : State} {m : Nat} {r : Reply} : (s.answer m r).cas = s.cas := rfl
@[simp] theorem State.answer_boot {s : State} {m : Nat} {r : Reply} : (s.answer m r).boot = s.boot := rfl
@[simp] theorem State.answer_tae {s : State} {m : Nat} {r : Reply} : (s.answer m r).tae = s.tae := rfl
@[simp] theorem State.answer_taeQ {s : State} {m : Nat} {r : Reply} : (s.answer m r).taeQ = s.taeQ := rfl
@[simp] theorem State.answer_recNo {s : State} {m : Nat} {r : Reply} : (s.answer m r).recNo = s.recNo := rfl
@[simp] theorem State.answer_rgeQ {s : State} {m : Nat} {r : Reply} : (s.answer m r).rgeQ = s.rgeQ := rfl
@[simp] theorem State.answer_loops {s : State} {m : Nat} {r : Reply} : (s.answer m r).loops = s.loops := rfl
@[simp] theorem State.answer_lge {s : State} {m : Nat} {r : Reply} : (s.answer m r).lge = s.lge := rfl
@[simp] theorem State.answer_can {s : State} {m : Nat} {r : Reply} : (s.answer m r).can = s.can := rfl
@[simp] theorem State.answer_lzSeq {s : State} {m : Nat} {r : Reply} : (s.answer m r).lzSeq = s.lzSeq := rfl
@[simp] theorem State.answer_keys {s : State} {m : Nat} {r : Reply} : (s.answer m r).keys = s.keys := rfl
@[simp] theorem State.answer_secure {s : State} {m : Nat} {r : Reply} : (s.answer m r).secure = s.secure := rfl
@[simp] theorem State.answer_helper {s : State} {m : Nat} {r : Reply} : (s.answer m r).helper = s.helper := rfl
@[simp] theorem State.answer_keyOps {s : State} {m : Nat} {r : Reply} : (s.answer m r).keyOps = s.keyOps := rfl
@[simp] theorem State.answer_guard {s : State} {m : Nat} {r : Reply} : (s.answer m r).guard = s.guard := rfl
@[simp] theorem State.answer_bkd {s : State} {m : Nat} {r : Reply} : (s.answer m r).bkd = s.bkd := rfl
@[simp] theorem State.answer_blockFail {s : State} {m : Nat} {r : Reply} : (s.answer m r).blockFail = s.blockFail := rfl
@[simp] theorem State.answer_faults {s : State} {m : Nat} {r : Reply} : (s.answer m r).faults = s.faults := rfl
@[simp] theorem State.answer_hotFrom {s : State} {m : Nat} {r : Reply} : (s.answer m r).hotFrom = s.hotFrom := rfl
@[simp] theorem State.answer_coolFrom {s : State} {m : Nat} {r : Reply} : (s.answer m r).coolFrom = s.coolFrom := rfl
@[simp] theorem State.answer_moduleFault {s : State} {m : Nat} {r : Reply} : (s.answer m r).moduleFault = s.moduleFault := rfl

/-! ### ok -/

@[simp] theorem State.ok_pending {s : State} {w : Who} : (s.ok w).pending = s.pending := rfl
@[simp] theorem State.ok_clk {s : State} {w : Who} : (s.ok w).clk = s.clk := rfl
@[simp] theorem State.ok_free {s : State} {w : Who} : (s.ok w).free = s.free := rfl
@[simp] theorem State.ok_regs {s : State} {w : Who} : (s.ok w).regs = s.regs := rfl
@[simp] theorem State.ok_mem {s : State} {w : Who} : (s.ok w).mem = s.mem := rfl
@[simp] theorem State.ok_poison {s : State} {w : Who} : (s.ok w).poison = s.poison := rfl
@[simp] theorem State.ok_readLatch {s : State} {w : Who} : (s.ok w).readLatch = s.readLatch := rfl
@[simp] theorem State.ok_writeLatch {s : State} {w : Who} : (s.ok w).writeLatch = s.writeLatch := rfl
@[simp] theorem State.ok_latched {s : State} {w : Who} : (s.ok w).latched = s.latched := rfl
@[simp] theorem State.ok_out {s : State} {w : Who} : (s.ok w).out = s.out := rfl
@[simp] theorem State.ok_power {s : State} {w : Who} : (s.ok w).power = s.power := rfl
@[simp] theorem State.ok_complete {s : State} {w : Who} : (s.ok w).complete = s.complete := rfl
@[simp] theorem State.ok_stall {s : State} {w : Who} : (s.ok w).stall = s.stall := rfl
@[simp] theorem State.ok_door {s : State} {w : Who} : (s.ok w).door = s.door := rfl
@[simp] theorem State.ok_staged {s : State} {w : Who} : (s.ok w).staged = s.staged := rfl
@[simp] theorem State.ok_xcommit {s : State} {w : Who} : (s.ok w).xcommit = s.xcommit := rfl
@[simp] theorem State.ok_prior {s : State} {w : Who} : (s.ok w).prior = s.prior := rfl
@[simp] theorem State.ok_time {s : State} {w : Who} : (s.ok w).time = s.time := rfl
@[simp] theorem State.ok_trig {s : State} {w : Who} : (s.ok w).trig = s.trig := rfl
@[simp] theorem State.ok_bm {s : State} {w : Who} : (s.ok w).bm = s.bm := rfl
@[simp] theorem State.ok_weft {s : State} {w : Who} : (s.ok w).weft = s.weft := rfl
@[simp] theorem State.ok_cen {s : State} {w : Who} : (s.ok w).cen = s.cen := rfl
@[simp] theorem State.ok_pairs {s : State} {w : Who} : (s.ok w).pairs = s.pairs := rfl
@[simp] theorem State.ok_slices {s : State} {w : Who} : (s.ok w).slices = s.slices := rfl
@[simp] theorem State.ok_closedGp {s : State} {w : Who} : (s.ok w).closedGp = s.closedGp := rfl
@[simp] theorem State.ok_closedSeq {s : State} {w : Who} : (s.ok w).closedSeq = s.closedSeq := rfl
@[simp] theorem State.ok_grants {s : State} {w : Who} : (s.ok w).grants = s.grants := rfl
@[simp] theorem State.ok_grantSeq {s : State} {w : Who} : (s.ok w).grantSeq = s.grantSeq := rfl
@[simp] theorem State.ok_xfer {s : State} {w : Who} : (s.ok w).xfer = s.xfer := rfl
@[simp] theorem State.ok_led {s : State} {w : Who} : (s.ok w).led = s.led := rfl
@[simp] theorem State.ok_sie {s : State} {w : Who} : (s.ok w).sie = s.sie := rfl
@[simp] theorem State.ok_openPts {s : State} {w : Who} : (s.ok w).openPts = s.openPts := rfl
@[simp] theorem State.ok_sieIn {s : State} {w : Who} : (s.ok w).sieIn = s.sieIn := rfl
@[simp] theorem State.ok_fdcQ {s : State} {w : Who} : (s.ok w).fdcQ = s.fdcQ := rfl
@[simp] theorem State.ok_psuQ {s : State} {w : Who} : (s.ok w).psuQ = s.psuQ := rfl
@[simp] theorem State.ok_dzeQ {s : State} {w : Who} : (s.ok w).dzeQ = s.dzeQ := rfl
@[simp] theorem State.ok_fdc {s : State} {w : Who} : (s.ok w).fdc = s.fdc := rfl
@[simp] theorem State.ok_psu {s : State} {w : Who} : (s.ok w).psu = s.psu := rfl
@[simp] theorem State.ok_dze {s : State} {w : Who} : (s.ok w).dze = s.dze := rfl
@[simp] theorem State.ok_pubQ {s : State} {w : Who} : (s.ok w).pubQ = s.pubQ := rfl
@[simp] theorem State.ok_pub {s : State} {w : Who} : (s.ok w).pub = s.pub := rfl
@[simp] theorem State.ok_watch {s : State} {w : Who} : (s.ok w).watch = s.watch := rfl
@[simp] theorem State.ok_subs {s : State} {w : Who} : (s.ok w).subs = s.subs := rfl
@[simp] theorem State.ok_swc {s : State} {w : Who} : (s.ok w).swc = s.swc := rfl
@[simp] theorem State.ok_red {s : State} {w : Who} : (s.ok w).red = s.red := rfl
@[simp] theorem State.ok_cas {s : State} {w : Who} : (s.ok w).cas = s.cas := rfl
@[simp] theorem State.ok_boot {s : State} {w : Who} : (s.ok w).boot = s.boot := rfl
@[simp] theorem State.ok_tae {s : State} {w : Who} : (s.ok w).tae = s.tae := rfl
@[simp] theorem State.ok_taeQ {s : State} {w : Who} : (s.ok w).taeQ = s.taeQ := rfl
@[simp] theorem State.ok_recNo {s : State} {w : Who} : (s.ok w).recNo = s.recNo := rfl
@[simp] theorem State.ok_rgeQ {s : State} {w : Who} : (s.ok w).rgeQ = s.rgeQ := rfl
@[simp] theorem State.ok_loops {s : State} {w : Who} : (s.ok w).loops = s.loops := rfl
@[simp] theorem State.ok_lge {s : State} {w : Who} : (s.ok w).lge = s.lge := rfl
@[simp] theorem State.ok_can {s : State} {w : Who} : (s.ok w).can = s.can := rfl
@[simp] theorem State.ok_lzSeq {s : State} {w : Who} : (s.ok w).lzSeq = s.lzSeq := rfl
@[simp] theorem State.ok_keys {s : State} {w : Who} : (s.ok w).keys = s.keys := rfl
@[simp] theorem State.ok_secure {s : State} {w : Who} : (s.ok w).secure = s.secure := rfl
@[simp] theorem State.ok_helper {s : State} {w : Who} : (s.ok w).helper = s.helper := rfl
@[simp] theorem State.ok_keyOps {s : State} {w : Who} : (s.ok w).keyOps = s.keyOps := rfl
@[simp] theorem State.ok_guard {s : State} {w : Who} : (s.ok w).guard = s.guard := rfl
@[simp] theorem State.ok_bkd {s : State} {w : Who} : (s.ok w).bkd = s.bkd := rfl
@[simp] theorem State.ok_blockFail {s : State} {w : Who} : (s.ok w).blockFail = s.blockFail := rfl
@[simp] theorem State.ok_faults {s : State} {w : Who} : (s.ok w).faults = s.faults := rfl
@[simp] theorem State.ok_hotFrom {s : State} {w : Who} : (s.ok w).hotFrom = s.hotFrom := rfl
@[simp] theorem State.ok_coolFrom {s : State} {w : Who} : (s.ok w).coolFrom = s.coolFrom := rfl
@[simp] theorem State.ok_moduleFault {s : State} {w : Who} : (s.ok w).moduleFault = s.moduleFault := rfl

/-! ### okData -/

@[simp] theorem State.okData_pending {s : State} {w : Who} {v : Nat} : (s.okData w v).pending = s.pending := rfl
@[simp] theorem State.okData_clk {s : State} {w : Who} {v : Nat} : (s.okData w v).clk = s.clk := rfl
@[simp] theorem State.okData_free {s : State} {w : Who} {v : Nat} : (s.okData w v).free = s.free := rfl
@[simp] theorem State.okData_regs {s : State} {w : Who} {v : Nat} : (s.okData w v).regs = s.regs := rfl
@[simp] theorem State.okData_mem {s : State} {w : Who} {v : Nat} : (s.okData w v).mem = s.mem := rfl
@[simp] theorem State.okData_poison {s : State} {w : Who} {v : Nat} : (s.okData w v).poison = s.poison := rfl
@[simp] theorem State.okData_readLatch {s : State} {w : Who} {v : Nat} : (s.okData w v).readLatch = s.readLatch := rfl
@[simp] theorem State.okData_writeLatch {s : State} {w : Who} {v : Nat} : (s.okData w v).writeLatch = s.writeLatch := rfl
@[simp] theorem State.okData_latched {s : State} {w : Who} {v : Nat} : (s.okData w v).latched = s.latched := rfl
@[simp] theorem State.okData_out {s : State} {w : Who} {v : Nat} : (s.okData w v).out = s.out := rfl
@[simp] theorem State.okData_power {s : State} {w : Who} {v : Nat} : (s.okData w v).power = s.power := rfl
@[simp] theorem State.okData_complete {s : State} {w : Who} {v : Nat} : (s.okData w v).complete = s.complete := rfl
@[simp] theorem State.okData_stall {s : State} {w : Who} {v : Nat} : (s.okData w v).stall = s.stall := rfl
@[simp] theorem State.okData_door {s : State} {w : Who} {v : Nat} : (s.okData w v).door = s.door := rfl
@[simp] theorem State.okData_staged {s : State} {w : Who} {v : Nat} : (s.okData w v).staged = s.staged := rfl
@[simp] theorem State.okData_xcommit {s : State} {w : Who} {v : Nat} : (s.okData w v).xcommit = s.xcommit := rfl
@[simp] theorem State.okData_prior {s : State} {w : Who} {v : Nat} : (s.okData w v).prior = s.prior := rfl
@[simp] theorem State.okData_time {s : State} {w : Who} {v : Nat} : (s.okData w v).time = s.time := rfl
@[simp] theorem State.okData_trig {s : State} {w : Who} {v : Nat} : (s.okData w v).trig = s.trig := rfl
@[simp] theorem State.okData_bm {s : State} {w : Who} {v : Nat} : (s.okData w v).bm = s.bm := rfl
@[simp] theorem State.okData_weft {s : State} {w : Who} {v : Nat} : (s.okData w v).weft = s.weft := rfl
@[simp] theorem State.okData_cen {s : State} {w : Who} {v : Nat} : (s.okData w v).cen = s.cen := rfl
@[simp] theorem State.okData_pairs {s : State} {w : Who} {v : Nat} : (s.okData w v).pairs = s.pairs := rfl
@[simp] theorem State.okData_slices {s : State} {w : Who} {v : Nat} : (s.okData w v).slices = s.slices := rfl
@[simp] theorem State.okData_closedGp {s : State} {w : Who} {v : Nat} : (s.okData w v).closedGp = s.closedGp := rfl
@[simp] theorem State.okData_closedSeq {s : State} {w : Who} {v : Nat} : (s.okData w v).closedSeq = s.closedSeq := rfl
@[simp] theorem State.okData_grants {s : State} {w : Who} {v : Nat} : (s.okData w v).grants = s.grants := rfl
@[simp] theorem State.okData_grantSeq {s : State} {w : Who} {v : Nat} : (s.okData w v).grantSeq = s.grantSeq := rfl
@[simp] theorem State.okData_xfer {s : State} {w : Who} {v : Nat} : (s.okData w v).xfer = s.xfer := rfl
@[simp] theorem State.okData_led {s : State} {w : Who} {v : Nat} : (s.okData w v).led = s.led := rfl
@[simp] theorem State.okData_sie {s : State} {w : Who} {v : Nat} : (s.okData w v).sie = s.sie := rfl
@[simp] theorem State.okData_openPts {s : State} {w : Who} {v : Nat} : (s.okData w v).openPts = s.openPts := rfl
@[simp] theorem State.okData_sieIn {s : State} {w : Who} {v : Nat} : (s.okData w v).sieIn = s.sieIn := rfl
@[simp] theorem State.okData_fdcQ {s : State} {w : Who} {v : Nat} : (s.okData w v).fdcQ = s.fdcQ := rfl
@[simp] theorem State.okData_psuQ {s : State} {w : Who} {v : Nat} : (s.okData w v).psuQ = s.psuQ := rfl
@[simp] theorem State.okData_dzeQ {s : State} {w : Who} {v : Nat} : (s.okData w v).dzeQ = s.dzeQ := rfl
@[simp] theorem State.okData_fdc {s : State} {w : Who} {v : Nat} : (s.okData w v).fdc = s.fdc := rfl
@[simp] theorem State.okData_psu {s : State} {w : Who} {v : Nat} : (s.okData w v).psu = s.psu := rfl
@[simp] theorem State.okData_dze {s : State} {w : Who} {v : Nat} : (s.okData w v).dze = s.dze := rfl
@[simp] theorem State.okData_pubQ {s : State} {w : Who} {v : Nat} : (s.okData w v).pubQ = s.pubQ := rfl
@[simp] theorem State.okData_pub {s : State} {w : Who} {v : Nat} : (s.okData w v).pub = s.pub := rfl
@[simp] theorem State.okData_watch {s : State} {w : Who} {v : Nat} : (s.okData w v).watch = s.watch := rfl
@[simp] theorem State.okData_subs {s : State} {w : Who} {v : Nat} : (s.okData w v).subs = s.subs := rfl
@[simp] theorem State.okData_swc {s : State} {w : Who} {v : Nat} : (s.okData w v).swc = s.swc := rfl
@[simp] theorem State.okData_red {s : State} {w : Who} {v : Nat} : (s.okData w v).red = s.red := rfl
@[simp] theorem State.okData_cas {s : State} {w : Who} {v : Nat} : (s.okData w v).cas = s.cas := rfl
@[simp] theorem State.okData_boot {s : State} {w : Who} {v : Nat} : (s.okData w v).boot = s.boot := rfl
@[simp] theorem State.okData_tae {s : State} {w : Who} {v : Nat} : (s.okData w v).tae = s.tae := rfl
@[simp] theorem State.okData_taeQ {s : State} {w : Who} {v : Nat} : (s.okData w v).taeQ = s.taeQ := rfl
@[simp] theorem State.okData_recNo {s : State} {w : Who} {v : Nat} : (s.okData w v).recNo = s.recNo := rfl
@[simp] theorem State.okData_rgeQ {s : State} {w : Who} {v : Nat} : (s.okData w v).rgeQ = s.rgeQ := rfl
@[simp] theorem State.okData_loops {s : State} {w : Who} {v : Nat} : (s.okData w v).loops = s.loops := rfl
@[simp] theorem State.okData_lge {s : State} {w : Who} {v : Nat} : (s.okData w v).lge = s.lge := rfl
@[simp] theorem State.okData_can {s : State} {w : Who} {v : Nat} : (s.okData w v).can = s.can := rfl
@[simp] theorem State.okData_lzSeq {s : State} {w : Who} {v : Nat} : (s.okData w v).lzSeq = s.lzSeq := rfl
@[simp] theorem State.okData_keys {s : State} {w : Who} {v : Nat} : (s.okData w v).keys = s.keys := rfl
@[simp] theorem State.okData_secure {s : State} {w : Who} {v : Nat} : (s.okData w v).secure = s.secure := rfl
@[simp] theorem State.okData_helper {s : State} {w : Who} {v : Nat} : (s.okData w v).helper = s.helper := rfl
@[simp] theorem State.okData_keyOps {s : State} {w : Who} {v : Nat} : (s.okData w v).keyOps = s.keyOps := rfl
@[simp] theorem State.okData_guard {s : State} {w : Who} {v : Nat} : (s.okData w v).guard = s.guard := rfl
@[simp] theorem State.okData_bkd {s : State} {w : Who} {v : Nat} : (s.okData w v).bkd = s.bkd := rfl
@[simp] theorem State.okData_blockFail {s : State} {w : Who} {v : Nat} : (s.okData w v).blockFail = s.blockFail := rfl
@[simp] theorem State.okData_faults {s : State} {w : Who} {v : Nat} : (s.okData w v).faults = s.faults := rfl
@[simp] theorem State.okData_hotFrom {s : State} {w : Who} {v : Nat} : (s.okData w v).hotFrom = s.hotFrom := rfl
@[simp] theorem State.okData_coolFrom {s : State} {w : Who} {v : Nat} : (s.okData w v).coolFrom = s.coolFrom := rfl
@[simp] theorem State.okData_moduleFault {s : State} {w : Who} {v : Nat} : (s.okData w v).moduleFault = s.moduleFault := rfl

/-! ### emit -/

@[simp] theorem State.emit_pending {s : State} {o : Output} : (s.emit o).pending = s.pending := rfl
@[simp] theorem State.emit_clk {s : State} {o : Output} : (s.emit o).clk = s.clk := rfl
@[simp] theorem State.emit_free {s : State} {o : Output} : (s.emit o).free = s.free := rfl
@[simp] theorem State.emit_regs {s : State} {o : Output} : (s.emit o).regs = s.regs := rfl
@[simp] theorem State.emit_mem {s : State} {o : Output} : (s.emit o).mem = s.mem := rfl
@[simp] theorem State.emit_poison {s : State} {o : Output} : (s.emit o).poison = s.poison := rfl
@[simp] theorem State.emit_readLatch {s : State} {o : Output} : (s.emit o).readLatch = s.readLatch := rfl
@[simp] theorem State.emit_writeLatch {s : State} {o : Output} : (s.emit o).writeLatch = s.writeLatch := rfl
@[simp] theorem State.emit_latched {s : State} {o : Output} : (s.emit o).latched = s.latched := rfl
@[simp] theorem State.emit_reply {s : State} {o : Output} : (s.emit o).reply = s.reply := rfl
@[simp] theorem State.emit_power {s : State} {o : Output} : (s.emit o).power = s.power := rfl
@[simp] theorem State.emit_complete {s : State} {o : Output} : (s.emit o).complete = s.complete := rfl
@[simp] theorem State.emit_stall {s : State} {o : Output} : (s.emit o).stall = s.stall := rfl
@[simp] theorem State.emit_door {s : State} {o : Output} : (s.emit o).door = s.door := rfl
@[simp] theorem State.emit_staged {s : State} {o : Output} : (s.emit o).staged = s.staged := rfl
@[simp] theorem State.emit_xcommit {s : State} {o : Output} : (s.emit o).xcommit = s.xcommit := rfl
@[simp] theorem State.emit_prior {s : State} {o : Output} : (s.emit o).prior = s.prior := rfl
@[simp] theorem State.emit_time {s : State} {o : Output} : (s.emit o).time = s.time := rfl
@[simp] theorem State.emit_trig {s : State} {o : Output} : (s.emit o).trig = s.trig := rfl
@[simp] theorem State.emit_bm {s : State} {o : Output} : (s.emit o).bm = s.bm := rfl
@[simp] theorem State.emit_weft {s : State} {o : Output} : (s.emit o).weft = s.weft := rfl
@[simp] theorem State.emit_cen {s : State} {o : Output} : (s.emit o).cen = s.cen := rfl
@[simp] theorem State.emit_pairs {s : State} {o : Output} : (s.emit o).pairs = s.pairs := rfl
@[simp] theorem State.emit_slices {s : State} {o : Output} : (s.emit o).slices = s.slices := rfl
@[simp] theorem State.emit_closedGp {s : State} {o : Output} : (s.emit o).closedGp = s.closedGp := rfl
@[simp] theorem State.emit_closedSeq {s : State} {o : Output} : (s.emit o).closedSeq = s.closedSeq := rfl
@[simp] theorem State.emit_grants {s : State} {o : Output} : (s.emit o).grants = s.grants := rfl
@[simp] theorem State.emit_grantSeq {s : State} {o : Output} : (s.emit o).grantSeq = s.grantSeq := rfl
@[simp] theorem State.emit_xfer {s : State} {o : Output} : (s.emit o).xfer = s.xfer := rfl
@[simp] theorem State.emit_led {s : State} {o : Output} : (s.emit o).led = s.led := rfl
@[simp] theorem State.emit_sie {s : State} {o : Output} : (s.emit o).sie = s.sie := rfl
@[simp] theorem State.emit_openPts {s : State} {o : Output} : (s.emit o).openPts = s.openPts := rfl
@[simp] theorem State.emit_sieIn {s : State} {o : Output} : (s.emit o).sieIn = s.sieIn := rfl
@[simp] theorem State.emit_fdcQ {s : State} {o : Output} : (s.emit o).fdcQ = s.fdcQ := rfl
@[simp] theorem State.emit_psuQ {s : State} {o : Output} : (s.emit o).psuQ = s.psuQ := rfl
@[simp] theorem State.emit_dzeQ {s : State} {o : Output} : (s.emit o).dzeQ = s.dzeQ := rfl
@[simp] theorem State.emit_fdc {s : State} {o : Output} : (s.emit o).fdc = s.fdc := rfl
@[simp] theorem State.emit_psu {s : State} {o : Output} : (s.emit o).psu = s.psu := rfl
@[simp] theorem State.emit_dze {s : State} {o : Output} : (s.emit o).dze = s.dze := rfl
@[simp] theorem State.emit_pubQ {s : State} {o : Output} : (s.emit o).pubQ = s.pubQ := rfl
@[simp] theorem State.emit_pub {s : State} {o : Output} : (s.emit o).pub = s.pub := rfl
@[simp] theorem State.emit_watch {s : State} {o : Output} : (s.emit o).watch = s.watch := rfl
@[simp] theorem State.emit_subs {s : State} {o : Output} : (s.emit o).subs = s.subs := rfl
@[simp] theorem State.emit_swc {s : State} {o : Output} : (s.emit o).swc = s.swc := rfl
@[simp] theorem State.emit_red {s : State} {o : Output} : (s.emit o).red = s.red := rfl
@[simp] theorem State.emit_cas {s : State} {o : Output} : (s.emit o).cas = s.cas := rfl
@[simp] theorem State.emit_boot {s : State} {o : Output} : (s.emit o).boot = s.boot := rfl
@[simp] theorem State.emit_tae {s : State} {o : Output} : (s.emit o).tae = s.tae := rfl
@[simp] theorem State.emit_taeQ {s : State} {o : Output} : (s.emit o).taeQ = s.taeQ := rfl
@[simp] theorem State.emit_recNo {s : State} {o : Output} : (s.emit o).recNo = s.recNo := rfl
@[simp] theorem State.emit_rgeQ {s : State} {o : Output} : (s.emit o).rgeQ = s.rgeQ := rfl
@[simp] theorem State.emit_loops {s : State} {o : Output} : (s.emit o).loops = s.loops := rfl
@[simp] theorem State.emit_lge {s : State} {o : Output} : (s.emit o).lge = s.lge := rfl
@[simp] theorem State.emit_can {s : State} {o : Output} : (s.emit o).can = s.can := rfl
@[simp] theorem State.emit_lzSeq {s : State} {o : Output} : (s.emit o).lzSeq = s.lzSeq := rfl
@[simp] theorem State.emit_keys {s : State} {o : Output} : (s.emit o).keys = s.keys := rfl
@[simp] theorem State.emit_secure {s : State} {o : Output} : (s.emit o).secure = s.secure := rfl
@[simp] theorem State.emit_helper {s : State} {o : Output} : (s.emit o).helper = s.helper := rfl
@[simp] theorem State.emit_keyOps {s : State} {o : Output} : (s.emit o).keyOps = s.keyOps := rfl
@[simp] theorem State.emit_guard {s : State} {o : Output} : (s.emit o).guard = s.guard := rfl
@[simp] theorem State.emit_bkd {s : State} {o : Output} : (s.emit o).bkd = s.bkd := rfl
@[simp] theorem State.emit_blockFail {s : State} {o : Output} : (s.emit o).blockFail = s.blockFail := rfl
@[simp] theorem State.emit_faults {s : State} {o : Output} : (s.emit o).faults = s.faults := rfl
@[simp] theorem State.emit_hotFrom {s : State} {o : Output} : (s.emit o).hotFrom = s.hotFrom := rfl
@[simp] theorem State.emit_coolFrom {s : State} {o : Output} : (s.emit o).coolFrom = s.coolFrom := rfl
@[simp] theorem State.emit_moduleFault {s : State} {o : Output} : (s.emit o).moduleFault = s.moduleFault := rfl

/-! ### drew -/

@[simp] theorem State.drew_pending {s : State} : (s.drew).pending = s.pending := rfl
@[simp] theorem State.drew_clk {s : State} : (s.drew).clk = s.clk := rfl
@[simp] theorem State.drew_regs {s : State} : (s.drew).regs = s.regs := rfl
@[simp] theorem State.drew_mem {s : State} : (s.drew).mem = s.mem := rfl
@[simp] theorem State.drew_poison {s : State} : (s.drew).poison = s.poison := rfl
@[simp] theorem State.drew_readLatch {s : State} : (s.drew).readLatch = s.readLatch := rfl
@[simp] theorem State.drew_writeLatch {s : State} : (s.drew).writeLatch = s.writeLatch := rfl
@[simp] theorem State.drew_latched {s : State} : (s.drew).latched = s.latched := rfl
@[simp] theorem State.drew_reply {s : State} : (s.drew).reply = s.reply := rfl
@[simp] theorem State.drew_out {s : State} : (s.drew).out = s.out := rfl
@[simp] theorem State.drew_power {s : State} : (s.drew).power = s.power := rfl
@[simp] theorem State.drew_complete {s : State} : (s.drew).complete = s.complete := rfl
@[simp] theorem State.drew_stall {s : State} : (s.drew).stall = s.stall := rfl
@[simp] theorem State.drew_door {s : State} : (s.drew).door = s.door := rfl
@[simp] theorem State.drew_staged {s : State} : (s.drew).staged = s.staged := rfl
@[simp] theorem State.drew_xcommit {s : State} : (s.drew).xcommit = s.xcommit := rfl
@[simp] theorem State.drew_prior {s : State} : (s.drew).prior = s.prior := rfl
@[simp] theorem State.drew_time {s : State} : (s.drew).time = s.time := rfl
@[simp] theorem State.drew_trig {s : State} : (s.drew).trig = s.trig := rfl
@[simp] theorem State.drew_bm {s : State} : (s.drew).bm = s.bm := rfl
@[simp] theorem State.drew_weft {s : State} : (s.drew).weft = s.weft := rfl
@[simp] theorem State.drew_cen {s : State} : (s.drew).cen = s.cen := rfl
@[simp] theorem State.drew_pairs {s : State} : (s.drew).pairs = s.pairs := rfl
@[simp] theorem State.drew_slices {s : State} : (s.drew).slices = s.slices := rfl
@[simp] theorem State.drew_closedGp {s : State} : (s.drew).closedGp = s.closedGp := rfl
@[simp] theorem State.drew_closedSeq {s : State} : (s.drew).closedSeq = s.closedSeq := rfl
@[simp] theorem State.drew_grants {s : State} : (s.drew).grants = s.grants := rfl
@[simp] theorem State.drew_grantSeq {s : State} : (s.drew).grantSeq = s.grantSeq := rfl
@[simp] theorem State.drew_xfer {s : State} : (s.drew).xfer = s.xfer := rfl
@[simp] theorem State.drew_led {s : State} : (s.drew).led = s.led := rfl
@[simp] theorem State.drew_sie {s : State} : (s.drew).sie = s.sie := rfl
@[simp] theorem State.drew_openPts {s : State} : (s.drew).openPts = s.openPts := rfl
@[simp] theorem State.drew_sieIn {s : State} : (s.drew).sieIn = s.sieIn := rfl
@[simp] theorem State.drew_fdcQ {s : State} : (s.drew).fdcQ = s.fdcQ := rfl
@[simp] theorem State.drew_psuQ {s : State} : (s.drew).psuQ = s.psuQ := rfl
@[simp] theorem State.drew_dzeQ {s : State} : (s.drew).dzeQ = s.dzeQ := rfl
@[simp] theorem State.drew_fdc {s : State} : (s.drew).fdc = s.fdc := rfl
@[simp] theorem State.drew_psu {s : State} : (s.drew).psu = s.psu := rfl
@[simp] theorem State.drew_dze {s : State} : (s.drew).dze = s.dze := rfl
@[simp] theorem State.drew_pubQ {s : State} : (s.drew).pubQ = s.pubQ := rfl
@[simp] theorem State.drew_pub {s : State} : (s.drew).pub = s.pub := rfl
@[simp] theorem State.drew_watch {s : State} : (s.drew).watch = s.watch := rfl
@[simp] theorem State.drew_subs {s : State} : (s.drew).subs = s.subs := rfl
@[simp] theorem State.drew_swc {s : State} : (s.drew).swc = s.swc := rfl
@[simp] theorem State.drew_red {s : State} : (s.drew).red = s.red := rfl
@[simp] theorem State.drew_cas {s : State} : (s.drew).cas = s.cas := rfl
@[simp] theorem State.drew_boot {s : State} : (s.drew).boot = s.boot := rfl
@[simp] theorem State.drew_tae {s : State} : (s.drew).tae = s.tae := rfl
@[simp] theorem State.drew_taeQ {s : State} : (s.drew).taeQ = s.taeQ := rfl
@[simp] theorem State.drew_recNo {s : State} : (s.drew).recNo = s.recNo := rfl
@[simp] theorem State.drew_rgeQ {s : State} : (s.drew).rgeQ = s.rgeQ := rfl
@[simp] theorem State.drew_loops {s : State} : (s.drew).loops = s.loops := rfl
@[simp] theorem State.drew_lge {s : State} : (s.drew).lge = s.lge := rfl
@[simp] theorem State.drew_can {s : State} : (s.drew).can = s.can := rfl
@[simp] theorem State.drew_lzSeq {s : State} : (s.drew).lzSeq = s.lzSeq := rfl
@[simp] theorem State.drew_keys {s : State} : (s.drew).keys = s.keys := rfl
@[simp] theorem State.drew_secure {s : State} : (s.drew).secure = s.secure := rfl
@[simp] theorem State.drew_helper {s : State} : (s.drew).helper = s.helper := rfl
@[simp] theorem State.drew_keyOps {s : State} : (s.drew).keyOps = s.keyOps := rfl
@[simp] theorem State.drew_guard {s : State} : (s.drew).guard = s.guard := rfl
@[simp] theorem State.drew_bkd {s : State} : (s.drew).bkd = s.bkd := rfl
@[simp] theorem State.drew_blockFail {s : State} : (s.drew).blockFail = s.blockFail := rfl
@[simp] theorem State.drew_faults {s : State} : (s.drew).faults = s.faults := rfl
@[simp] theorem State.drew_hotFrom {s : State} : (s.drew).hotFrom = s.hotFrom := rfl
@[simp] theorem State.drew_coolFrom {s : State} : (s.drew).coolFrom = s.coolFrom := rfl
@[simp] theorem State.drew_moduleFault {s : State} : (s.drew).moduleFault = s.moduleFault := rfl

/-! ### Reads through updates that touch no register and no memory -/

@[simp] theorem State.setReg_rdByte {s : State} {a v : Nat} {x : Nat} : (s.setReg a v).rdByte x = s.rdByte x := rfl
@[simp] theorem State.setFld_rdByte {s : State} {a hi lo v : Nat} {x : Nat} : (s.setFld a hi lo v).rdByte x = s.rdByte x := rfl
@[simp] theorem State.setBit_rdByte {s : State} {a i : Nat} {v : Bool} {x : Nat} : (s.setBit a i v).rdByte x = s.rdByte x := rfl
@[simp] theorem State.evt_rdByte {s : State} {a i : Nat} {x : Nat} : (s.evt a i).rdByte x = s.rdByte x := rfl
@[simp] theorem State.inc_rdByte {s : State} {a : Nat} {x : Nat} : (s.inc a).rdByte x = s.rdByte x := rfl
@[simp] theorem State.answer_rd {s : State} {m : Nat} {r : Reply} {x : Nat} : (s.answer m r).rd x = s.rd x := rfl
@[simp] theorem State.answer_fld {s : State} {m : Nat} {r : Reply} {x h l : Nat} : (s.answer m r).fld x h l = s.fld x h l := rfl
@[simp] theorem State.answer_bit {s : State} {m : Nat} {r : Reply} {x j : Nat} : (s.answer m r).bit x j = s.bit x j := rfl
@[simp] theorem State.answer_rdByte {s : State} {m : Nat} {r : Reply} {x : Nat} : (s.answer m r).rdByte x = s.rdByte x := rfl
@[simp] theorem State.ok_rd {s : State} {w : Who} {x : Nat} : (s.ok w).rd x = s.rd x := rfl
@[simp] theorem State.ok_fld {s : State} {w : Who} {x h l : Nat} : (s.ok w).fld x h l = s.fld x h l := rfl
@[simp] theorem State.ok_bit {s : State} {w : Who} {x j : Nat} : (s.ok w).bit x j = s.bit x j := rfl
@[simp] theorem State.ok_rdByte {s : State} {w : Who} {x : Nat} : (s.ok w).rdByte x = s.rdByte x := rfl
@[simp] theorem State.okData_rd {s : State} {w : Who} {v : Nat} {x : Nat} : (s.okData w v).rd x = s.rd x := rfl
@[simp] theorem State.okData_fld {s : State} {w : Who} {v : Nat} {x h l : Nat} : (s.okData w v).fld x h l = s.fld x h l := rfl
@[simp] theorem State.okData_bit {s : State} {w : Who} {v : Nat} {x j : Nat} : (s.okData w v).bit x j = s.bit x j := rfl
@[simp] theorem State.okData_rdByte {s : State} {w : Who} {v : Nat} {x : Nat} : (s.okData w v).rdByte x = s.rdByte x := rfl
@[simp] theorem State.emit_rd {s : State} {o : Output} {x : Nat} : (s.emit o).rd x = s.rd x := rfl
@[simp] theorem State.emit_fld {s : State} {o : Output} {x h l : Nat} : (s.emit o).fld x h l = s.fld x h l := rfl
@[simp] theorem State.emit_bit {s : State} {o : Output} {x j : Nat} : (s.emit o).bit x j = s.bit x j := rfl
@[simp] theorem State.emit_rdByte {s : State} {o : Output} {x : Nat} : (s.emit o).rdByte x = s.rdByte x := rfl
@[simp] theorem State.drew_rd {s : State} {x : Nat} : (s.drew).rd x = s.rd x := rfl
@[simp] theorem State.drew_fld {s : State} {x h l : Nat} : (s.drew).fld x h l = s.fld x h l := rfl
@[simp] theorem State.drew_bit {s : State} {x j : Nat} : (s.drew).bit x j = s.bit x j := rfl
@[simp] theorem State.drew_rdByte {s : State} {x : Nat} : (s.drew).rdByte x = s.rdByte x := rfl

/-! ### The way of a register access -/

/-- An access that nothing stops has its effect. -/
theorem State.gate_open {s : State} {w : Who} {a : Nat} {wr allowed : Bool} {k i : Nat} {r : Right} {f : State → State}
    (h1 : s.stalled w = false) (h2 : s.blkOn (blkOf a) = true) (h3 : allowed = true) :
    s.gate w a wr allowed k i r f = f (s.ok w) := by
  simp [State.gate, h1, h2, h3]

theorem State.gateSup_open {s : State} {w : Who} {a : Nat} {f : State → State}
    (h1 : s.stalled w = false) (h2 : s.blkOn (blkOf a) = true) (h3 : privileged w = true) : s.gateSup w a f = f (s.ok w) :=
  State.gate_open h1 h2 h3

theorem State.gateGrant_open {s : State} {w : Who} {a k i : Nat} {r : Right} {f : State → State}
    (h1 : s.stalled w = false) (h2 : s.blkOn (blkOf a) = true) (h3 : s.may w k i r = true) :
    s.gateGrant w a k i r f = f (s.ok w) :=
  State.gate_open h1 h2 h3

end Sys2Proof.Machine
end

