-- ==== Sys2Proof/Tests/Slice0.lean ====
section
/-!
SUPPORT. The model's own tests: ill-formed commands that the checks of `WellFormed` refuse, worked examples of the spec, and
for every statement with hypotheses a state and operands that meet them.
-/

namespace Sys2Proof.Tests

open Sys2Proof Sys2Proof.Machine Sys2Proof.Claims

-- One theorem after another: each kernel evaluation takes a thread's stack.
set_option Elab.async false

/-! ### States and masters for the tests -/

/-- A state whose registers of the list hold these values. -/
def withRegs (l : List (Nat × Nat)) (s : State) : State :=
  { s with regs := l.foldl (fun m e => FMap.set resetWord e.1 (BitVec.ofNat 32 e.2) m) s.regs }

/-- The state after reset with these registers. -/
def st (l : List (Nat × Nat)) : State := withRegs l State.reset

/-- A state whose memory holds octets from an address on. -/
def withMem (a : Nat) (l : List Byte) (s : State) : State := { s with mem := (s.wrBytes a l).mem }

/-- The debug port, slice 0 on pair 0, and slice 3 on pair 1. -/
def dap : Who := { master := 12, slice := 0, pc := 0 }
def sup : Who := { master := 0, slice := 0, pc := 0 }
def three : Who := { master := 1, slice := 3, pc := 64 }

/-- Octets 0, 1, 2, … -/
def octets (n : Nat) : List Byte := (List.range n).map (BitVec.ofNat 8)

/-! ### Ill-formed commands -/

theorem test_registerWrite_value_too_wide : (Instr.registerWrite sup 0x1000 2 65536).wf = false := by decide
theorem test_registerWrite_no_octets : (Instr.registerWrite sup 0x1000 0 0).wf = false := by decide
theorem test_registerWrite_beyond_the_map : (Instr.registerWrite sup (2 ^ 40 - 3) 4 0).wf = false := by decide
theorem test_pairAccess_value_too_wide : (Instr.pairAccess 1 0 false 0x1000 4 .wr (2 ^ 32)).wf = false := by decide
theorem test_lowWordRead_unaligned : (Instr.lowWordRead sup 0x6000000002).wf = false := by decide
theorem test_highWordRead_unaligned : (Instr.highWordRead sup 0x6000000002).wf = false := by decide
theorem test_lowWordWrite_unaligned : (Instr.lowWordWrite sup 0x6000000001 0).wf = false := by decide
theorem test_highWordWrite_unaligned : (Instr.highWordWrite sup 0x6000000003 0).wf = false := by decide
theorem test_shadowWrite_beyond_the_map : (Instr.shadowWrite sup (2 ^ 40) 0).wf = false := by decide
theorem test_ldAcqW_unaligned : (Instr.ldAcqW 1 0 2).wf = false := by decide
theorem test_ldAcqD_unaligned : (Instr.ldAcqD 1 0 4).wf = false := by decide
theorem test_stRelW_value_too_wide : (Instr.stRelW 1 0 4 (2 ^ 32)).wf = false := by decide
theorem test_stRelD_unaligned : (Instr.stRelD 1 0 4 0).wf = false := by decide
theorem test_markWait_unaligned : (Instr.markWait 1 0 6 0).wf = false := by decide
theorem test_patrolScrub_unaligned : (Instr.patrolScrub 4 0).wf = false := by decide
theorem test_passException_no_cause : (Instr.passException 3 0 0 0).wf = false := by decide

/-- A frame of `n` octets at an internal port. -/
def rxFrame (n : Nat) : RxFrame := ⟨List.replicate n 0, 0, 4, 0, false, 0, none⟩

theorem test_svFrameIngest_short : (Instr.svFrameIngest 5 (rxFrame 13) false []).wf = false := by decide +kernel
theorem test_gooseFrameReceive_long : (Instr.gooseFrameReceive 5 (rxFrame 9601)).wf = false := by decide +kernel
theorem test_canFrameReceive_octets : (Instr.canFrameReceive 0 ⟨5, false, false, false, false, false, 8, octets 7⟩ 0 0 false false).wf = false := by decide
theorem test_canFrameReceive_identifier : (Instr.canFrameReceive 0 ⟨0x800, false, false, false, false, false, 0, []⟩ 0 0 false false).wf = false := by decide

/-! ### Worked examples -/

/-- Publication of a trip: TAL 1, 1 and 2 ms for transmissions 0, 1 and 2 of an entry with `rt_first` 250 and `tal_x` 2, and the
interval doubles each time. -/
theorem test_trip_schedule :
    [0, 1, 2].map ((st [(PUB_ENT_CURVE 17, 0x03E800FA)]).pubTal 17) = [1, 1, 2] ∧
      [0, 1, 2].map ((st [(PUB_ENT_CURVE 17, 0x03E800FA)]).pubInterval 17) = [250, 500, 1000] := by decide +kernel

/-- A bad bolt on the standby: with copy B for the next start, B is tried first at the counts 0 to 2, A from 3 on. -/
theorem test_bad_bolt : [0, 1, 2, 3].map (fun c => ((st [(SYS_BOOT, 3)]).copyOrder c).headD 9) = [1, 1, 1, 0] := by decide +kernel

/-- The CRC-32 of R524 over the octets "123456789" (the check value of IEEE 802.3's CRC-32). -/
theorem test_crc32 : crc32 ((octets 58).drop 49) = 0xCBF43926 := by decide +kernel

/-- SHA-256 of "abc" (FIPS 180-4's example). -/
theorem test_sha256 : sha256 ((octets 100).drop 97) = bytesBE 32 0xBA7816BF8F01CFEA414140DE5DAE2223B00361A396177A9CB410FF61F20015AD := by
  decide +kernel

/-- SHA-384 of "abc" (FIPS 180-4's example). -/
theorem test_sha384 : Machine.sha384 ((octets 100).drop 97) = bytesBE 48
    0xCB00753F45A35E8BB5A03D699AC65007272C32AB0EDED1631A8B605A43FF5BED8086072BA1E7CC2358BAECA134C825A7 := by decide +kernel

/-! ### Time, bus, staging (chapters 01 and 02) -/

/-- The time unit in state `n`, its master heard 10 ticks ago. -/
def timed (n : Nat) : State :=
  { st [(TIME_STAT, n + 32), (TIME_MASTER_TMO, 5 + 1000 * 65536)] with clk := 1000000, time := { lastSync := some 999990 } }

theorem witness_TimeStates : (timed 1).Canonical ∧ Sup dap 1 (timed 1) ∧ (timed 1).bit TIME_STAT 8 = false ∧
    (timed 1).timeState = 1 ∧ (timed 1).masterSeen = true ∧ (timed 3).timeState = 3 ∧ (timed 3).masterSeen = true ∧
    State.reset.timeState = 0 ∧ (st [(TIME_STAT, 1)]).masterSeen = false ∧ (timed 2).timeState = 2 ∧
    (st [(TIME_STAT, 2)]).timeState = 2 ∧ (st [(TIME_STAT, 2)]).masterSeen = false ∧ (st [(TIME_STAT, 0x101)]).bit TIME_STAT 8 = true ∧
    { timed 3 with time := { holdAcc := 1001 * 10 ^ 9 * 2 ^ 32 } }.holdAge = 1001 := by
  dsimp only [State.Canonical, State.Tables, Sup, Reaches]; decide +kernel

/-- Settings of the time: nanoseconds at their limits, a step of a nanosecond back, a valid clock. -/
def setting : State :=
  { st [(TIME_SET_NS, 999999999), (TIME_STEP_NS, 2 ^ 32 - 1), (BKD_STAT, 1), (TIME_RTC_OFS, 3)] with
    time := { sec := 5 }, bkd := { rtc := 32768 } }

theorem witness_TimeCommands : setting.Canonical ∧ TimeOk setting.time ∧ Sup sup 1 setting ∧ setting.rd TIME_SET_NS < 10 ^ 9 ∧
    signed 32 (setting.rd TIME_STEP_NS) = -1 ∧ signed 32 (setting.rd TIME_STEP_SEC) = 0 ∧ setting.wallNs = 5 * 10 ^ 9 ∧
    setting.rtcValid = true ∧ State.reset.rtcValid = false ∧ 10 ^ 9 ≤ (st [(TIME_SET_NS, 10 ^ 9)]).rd TIME_SET_NS ∧
    999999999 < signed 32 ((st [(TIME_STEP_NS, 10 ^ 9)]).rd TIME_STEP_NS) := by
  dsimp only [State.Canonical, State.Tables, Sup, Reaches, TimeOk]; decide +kernel

/-- A master to be heard on port 6, and the pulse output at a new second. -/
def listening : State :=
  { st [(TIME_MASTER_CFG, 2 ^ 31 + 2 ^ 26 + 5 * 2 ^ 16 + 9), (TIME_MASTER_ID_LO, 7), (TIME_PPS_CFG, 0x10)] with clk := 1000 }

theorem witness_TimeInputs : listening.Canonical ∧ Sup dap 1 listening ∧ watchBit 6 = some 26 ∧ listening.bmOn 6 = false ∧
    listening.bit TIME_MASTER_CFG 26 = true ∧ listening.fld TIME_MASTER_CFG 23 16 = 5 ∧ listening.rd64 TIME_MASTER_ID_LO = 7 ∧
    listening.bit TIME_PPS_CFG 4 = true ∧ ¬ (listening.timeState = 3 ∧ listening.bit TIME_CTL 1 = true) ∧
    7996 * 2 ^ 32 ≤ (7 * 2 ^ 32 + 4277790900) * 1000 ∧ (8 * 2 ^ 32 + 17179869) * 1000 ≤ 8004 * 2 ^ 32 ∧
    8004 * 2 ^ 32 < (8 * 2 ^ 32 + 17179870) * 1000 ∧ (st [(TIME_STAT, 3), (TIME_CTL, 2)]).bit TIME_CTL 1 = true ∧
    { st [(TIME_PPS_CFG, 2 ^ 31 + 1), (TIME_STAT, 0x22)] with clk := 9, time := { secTick := some 9 } }.ppsDriven = true := by
  dsimp only [State.Canonical, State.Tables, Sup, Reaches]; decide +kernel

/-- A boundary port that may send. -/
def boundary : State :=
  { st [(TIME_BM_CFG 0, 2 ^ 31 + 5 * 2 ^ 16), (MAC_STAT 6, 1), (MAC_CFG 6, 1), (TIME_STAT, 0x22)] with clk := 100000000 }

theorem witness_BoundaryMaster : boundary.Canonical ∧ Free 6 boundary ∧ boundary.bmMaySend 0 = true ∧
    boundary.swc.direct.tidy = true ∧ (boundary.bm.at' 0).syncDue ≤ boundary.clk ∧ (boundary.bm.at' 0).annDue ≤ boundary.clk ∧
    boundary.bit (TIME_BM_CFG 0) 31 = true ∧ boundary.fld (TIME_BM_CFG 0) 23 16 = 5 := by
  dsimp only [State.Canonical, State.Tables, Free]; decide +kernel

theorem witness_TriggerChannels : State.reset.Canonical ∧ Sup sup 1 State.reset ∧ State.reset.bit (TIME_TRIG_CFG 3) 0 = false ∧
    trigPeriodOk 3 ((st [(TIME_TRIG_PERIOD 3, 1000000)]).rd (TIME_TRIG_PERIOD 3)) = true ∧ trigPeriodOk 3 0 = false ∧
    (st [(TIME_TRIG_STAT 3, 1)]).bit (TIME_TRIG_STAT 3) 0 = true ∧ ((st [(TIME_TRIG_STAT 3, 1)]).trig.at' 3).next ≤ 0 := by
  dsimp only [State.Canonical, State.Tables, Sup, Reaches]; decide +kernel

/-- Slice 3 runs on pair 1 with a grant on DRAM. -/
def slice3 : State :=
  { st [(XEC_PAIR_STAT 1, 1), (XEC_SL_CFG 3, 2 ^ 31)] with
    pairs := [(1, { running := 4 })], slices := [(3, { pass := some { running := true, deadline := 1000000000 } })],
    grants := [(1, { valid := true, kind := 1, first := 0x1000, count := 0x200, wr := true, rd := true, use := true, holder := 3 })] }

theorem witness_LoadsAndStores : slice3.Canonical ∧ slice3.runningOn 1 = some 3 ∧ slice3.stalled (pairWho 1 3 0) = false ∧
    Open (pairWho 1 3 0) 0x11FFFFF8 8 .rd slice3 ∧ Clean 0x11FFFFF8 8 slice3 ∧ Open (pairWho 1 3 0) 0x11000000 4 .wr slice3 ∧ Writable 0x11000000 ∧
    State.reset.runningOn 1 = none ∧ Open dap 0x4800000000 4 .rd State.reset ∧ Open dap 16 4 .wr State.reset := by
  dsimp only [State.Canonical, State.Tables, Open, Clean, Writable]; decide +kernel

theorem witness_RegisterWords : Sup dap 1 State.reset ∧ isLow 1 (offOf TIME_MASTER_ID_LO) = true ∧
    isHigh 1 (offOf (TIME_MASTER_ID_LO + 4)) = true ∧ blkOf TIME_MASTER_ID_LO = 1 ∧
    { State.reset with writeLatch := [(bank 12 TIME_MASTER_ID_LO, some 9)] }.writeLatch.at' (bank 12 TIME_MASTER_ID_LO) = some 9 ∧
    (rowAt 3 (offOf (SIE_CH_CFG 3))).isSome = true ∧ banked 3 (offOf (SIE_CH_CFG 3)) = false ∧
    State.reset.locked 3 (instOf 3 (offOf (SIE_CH_CFG 3))) = false := by
  dsimp only [Sup, Reaches]; decide +kernel

theorem witness_Fences : slice3.Canonical ∧ Sup sup 0 slice3 ∧ slice3.bit (SYS_FENCE_STAT 0) 0 = false ∧
    slice3.runningOn 1 = some 3 ∧ { slice3 with door := [(0, 3)] }.door.at' 0 ≠ 0 ∧ Open (pairWho 1 3) 0x11000000 4 .rd slice3 ∧
    Clean 0x11000000 4 slice3 ∧ slice3.ld 0x11000000 4 / 8 = 0 := by
  dsimp only [State.Canonical, State.Tables, Sup, Reaches, Open, Clean]; decide +kernel

/-- Channels 2 and 3 of SIE follow reference 1 in TRACK, their shadows pending, a commit of channel 2 waiting. -/
def staged : State :=
  { st [(SIE_CH_CFG 2, 2 ^ 31 + 2 ^ 27), (SIE_CH_CFG 3, 2 ^ 31 + 2 ^ 27), (WEFT_REF_STAT 1, 2), (pendingReg 3 2, 4),
        (shadow (SIE_CH_CFG 2), 2 ^ 31 + 2 ^ 27 + 2 ^ 16)] with
    weft := [(1, { seq := 5, lastIssue := 1000 })], clk := 2000,
    staged := [(stagedKey 3 2, { waits := [{ at_ := 800, found := true }] })] }

theorem witness_Commits : staged.Canonical ∧ hasRwc 3 = true ∧ Reaches dap 3 staged ∧ staged.mayInst dap 3 2 = true ∧ 2 < instCount 3 ∧
    staged.atOnce 3 2 = false ∧ staged.commitPoint (staged.refBind 3 2) 800 = true ∧ staged.isPending 3 2 = true ∧
    staged.commitRefused 3 2 = false ∧ staged.instOn 3 2 = true ∧ staged.instOn 3 9 = false ∧ staged.pendingOf 3 ≠ [] ∧
    State.reset.pendingOf 3 = [] ∧ State.reset.atOnce 3 2 = true ∧ hasReset 3 = true ∧
    staged.commitPoint (staged.refBind 3 2) 1000 = false := by
  dsimp only [State.Canonical, State.Tables, Reaches]; decide +kernel

/-- A coordinated commit armed on reference 1 for SIE, its grid point come. -/
def coordinated : State :=
  { withRegs [(SYS_XCOMMIT_STAT, 1), (SYS_XCOMMIT_CTL, 1)] staged with
    xcommit := { ref := 1, mode := 0, gp := 7, blocks := 8, armedAt := 800 }, staged := [(stagedKey 3 2, { coord := true })] }

theorem witness_CoordinatedCommit : coordinated.Canonical ∧ Sup dap 0 coordinated ∧ staged.bit SYS_XCOMMIT_STAT 0 = false ∧
    coordinated.refState 1 ≠ 0 ∧ State.reset.refState 0 = 0 ∧
    coordinated.commitPoint 1 800 = true ∧ coordinated.locked 3 2 = true ∧ coordinated.isPending 3 2 = true ∧
    { coordinated with xcommit := { coordinated.xcommit with mode := 1, issued := 256 } }.lastIdx 1 ≠ 7 := by
  dsimp only [State.Canonical, State.Tables, Sup, Reaches]; decide +kernel

/-- A grant staged for slice 3, and a valid one in entry 3. -/
def granting : State :=
  { st [(XEC_GNT_ST 0, 1 + 2 ^ 26 + 3 * 2 ^ 16), (XEC_GNT_ST 1, 5), (XEC_GNT_ST 2, 2)] with
    grants := [(3, { valid := true, kind := 1, count := 1, wr := true })] }

theorem witness_Grants : granting.Canonical ∧ Sup dap 7 granting ∧ granting.bit XEC_GNT_STAT 0 = false ∧
    granting.createResult 4095 granting.stagedGrant = 0 ∧ granting.createResult 3 granting.stagedGrant ≠ 0 ∧
    (granting.grants.at' 3).valid = true ∧ granting.inflight (granting.grants.at' 3) = false ∧
    { granting with grants := [(3, { revoking := true })] }.grants.at' 3 = { revoking := true } := by
  dsimp only [State.Canonical, State.Tables, Sup, Reaches]; decide +kernel

/-! ### Angle references and the census (chapter 02) -/

/-- Reference 2 in a state, with its estimator's record and a backup source. -/
def tracked (n : Nat) (w : Weft) : State :=
  { st [(WEFT_REF_STAT 2, n), (WEFT_REF_CFG 2, 5), (WEFT_REF_TIMES 2, 3 + 2 ^ 16 * 4), (WEFT_REF_RESTORE 2, 6),
        (WEFT_REF_SRC 2, 2 ^ 31 + 2 ^ 16)] with weft := [(2, w)], clk := 5000 }

theorem witness_WeftTransitions : (tracked 0x101 { inBand := 128 }).Canonical ∧ (tracked 0x101 {}).refState 2 = 1 ∧
    (tracked 0x201 {}).bEn 2 = true ∧ (tracked 2 { lossRun := 3 }).lossTime 2 ≤ 3 ∧ (tracked 3 {}).holdTime 2 ≤ 4 ∧
    ((tracked 3 {}).bEn 2 && bitAt 3 9) = false ∧ (tracked 5 { bValidRun := 6, pValidRun := 5 }).restoreTime 2 = 6 ∧
    (tracked 6 {}).refState 2 = 6 ∧ ((tracked 6 { inBand := 128 }).weftOf 2).inBand = 128 := by
  dsimp only [State.Canonical, State.Tables]; decide +kernel

theorem witness_GridPoint : (tracked 2 { seq := 9 }).Canonical ∧ (tracked 2 { seq := 9 }).power.cx = true ∧ (tracked 2 { seq := 9 }).refState 2 ≠ 0 ∧
    (tracked 2 { seq := 9 }).gridDue 2 = true ∧ (tracked 2 { next := 10 ^ 15 }).gridDue 2 = false := by
  dsimp only [State.Canonical, State.Tables]; decide +kernel

/-- The census unit with these registers. -/
def census (l : List (Nat × Nat)) (c : Machine.Census) : State := { withRegs l (tracked 2 { seq := 5 }) with cen := c, time := { sec := 9, ns := 5 } }

theorem witness_Census : (census [(CEN_CTL, 1)] {}).Canonical ∧ Sup dap 23 (census [(CEN_CTL, 1), (CEN_SCHED, 0x21)] {}) ∧
    (census [(CEN_CTL, 1), (CEN_SCHED, 0x21)] {}).refState ((census [(CEN_SCHED, 0x21)] {}).fld CEN_SCHED 7 4) ≠ 0 ∧
    (census [(CEN_AT_SEC, 9), (CEN_AT_NS, 5)] {}).wallNs ≤ (census [] {}).cenInstant 9 5 ∧
    (census [(CEN_STAT, 1)] {}).bit CEN_STAT 0 = true ∧ (census [(CEN_CTL, 1)] { now := some 7 }).bit CEN_STAT 1 = false ∧
    ((census [(CEN_STAT, 1)] { sec := 9, ns := 5 }).cenDue).isSome = true ∧ (census [] {}).power.mem = true := by
  dsimp only [State.Canonical, State.Tables, Sup, Reaches]; decide +kernel

/-! ### Streams and signal engines (chapters 03 and 04) -/

/-- A BER element. -/
def tlv (t : Nat) (b : List Byte) : List Byte :=
  bytesBE 1 t ++ (if b.length < 128 then [] else bytesBE 1 0x81) ++ bytesBE 1 b.length ++ b

/-- A sampled-value frame of one ASDU with svID "AB" and four quantities. -/
def svFrame (cnt : Nat) : RxFrame :=
  let seq := (List.range 4).flatMap (fun i => bytesBE 4 (1000 + i) ++ bytesBE 4 0)
  let one := tlv 0x30 (tlv 0x80 (bytesBE 2 0x4142) ++ tlv 0x82 (bytesBE 2 cnt) ++ tlv 0x83 (bytesBE 4 7) ++ tlv 0x85 (bytesBE 1 2) ++
    tlv 0x87 seq)
  let apdu := tlv 0x60 (tlv 0x80 (bytesBE 1 1) ++ tlv 0xA2 one)
  { octets := bytesBE 6 0x010CCD040001 ++ bytesBE 6 0x112233445566 ++ bytesBE 2 0x88BA ++ bytesBE 2 0x4000 ++
      bytesBE 2 (apdu.length + 8) ++ bytesBE 4 0 ++ apdu
    ts32 := 5000000, port := 0, path := 0, bad := false, stepCnt := 0, auth := none }

/-- Channel 3 in a state, on reference 2, its record, and further registers. -/
def stream (n : Nat) (x : Sie) (l : List (Nat × Nat)) : State :=
  { st ([(SIE_CTL, 1), (SIE_CH_CFG 3, 2 ^ 31 + 2 * 2 ^ 27 + 3 * 2 ^ 16 + 2 ^ 10), (SIE_CH_STAT 3, n + 8),
        (SIE_CH_SVID 3, crc32 (bytesBE 2 0x4142)), (SIE_CH_CONFREV 3, 7), (SIE_CH_TIMING 3, 3 + 2 * 2 ^ 8 + 5 * 2 ^ 16 + 4 * 2 ^ 20),
        (SIE_CH_AGE_WIN 3, 0x7FFF8000), (WEFT_REF_STAT 2, 2)] ++ l) with
    clk := 2000000, time := { sec := 100, ns := 6000000 }, sie := [(3, x)] }

/-- A channel that awaits sample 9. -/
def awaiting : Sie :=
  { first := false, expected := 9, nextIdx := 20, sec := 100,
    insts := [(100 * 10 ^ 9 + 4000000) * 65536 + 1, (100 * 10 ^ 9 + 3750000) * 65536], missAt := 1999999 }

/-- What the check of a frame's APDU says at a channel. -/
def verdict (s : State) (f : RxFrame) : Option SvCheck :=
  (readApdu (parseFrame f.octets).body).map (fun m => svCheck (s.chAsdus 3) (s.chRate 3)
    (if s.bit (WEFT_REF_CFG (s.chRef 3)) 1 then 60 else 50) (s.chQty 3) (s.rd (SIE_CH_SVID 3)) (s.rd (SIE_CH_CONFREV 3)) m.sim m.apdu)

theorem witness_SampledValues : (stream 2 awaiting []).Canonical ∧ (stream 2 awaiting []).power.cx = true ∧
    (stream 2 awaiting []).bit SIE_CTL 0 = true ∧ (stream 2 awaiting []).chActive 3 = true ∧ ((stream 2 awaiting []).ch 3).cfgErr = false ∧
    (parseFrame (svFrame 9).octets).etype = 0x88BA ∧
    (match verdict (stream 2 awaiting []) (svFrame 9) with | some (.good [a]) => a.cnt == 9 | _ => false) = true ∧
    (match verdict (stream 2 awaiting [(SIE_CH_CONFREV 3, 8)]) (svFrame 9) with | some (.bad _) => true | _ => false) = true ∧
    (stream 2 awaiting []).fld (SIE_CH_CFG 3) 12 11 = 0 ∧
    (dupStep 0 (parseFrame (svFrame 9).octets) awaiting.win 0).1 = .fresh ∧
    (stream 2 awaiting [(SIE_CH_CFG 3, 2 ^ 31 + 2 ^ 9)]).bit (SIE_CH_CFG 3) 9 = true ∧
    (stream 1 {} []).chState 3 = 1 ∧ State.reset.bit SIE_CTL 0 = false := by
  dsimp only [State.Canonical, State.Tables]; decide +kernel

theorem witness_StreamStates : (stream 1 { acq := 2 } []).Canonical ∧ (stream 1 { acq := 2 } []).chActive 3 = true ∧
    max ((stream 1 { acq := 2 } []).fld (SIE_CH_TIMING 3) 15 8) 1 ≤ ((stream 1 { acq := 2 } []).ch 3).acq ∧
    (stream 4 awaiting []).chState 3 = 4 ∧ awaiting.lastAcc + max ((stream 4 awaiting []).fld (SIE_CH_TIMING 3) 31 20) 1 * tMs ≤ (stream 4 awaiting []).clk ∧
    max ((stream 0 { failRun := 5 } []).fld (SIE_CH_TIMING 3) 19 16) 1 ≤ ((stream 0 { failRun := 5 } []).ch 3).failRun ∧
    (stream 5 { outRun := 16 } []).chState 3 = 5 ∧ 16 ≤ ((stream 5 { outRun := 16 } []).ch 3).outRun ∧
    (stream 2 awaiting []).chRun 3 < (stream 2 awaiting []).holdMax 3 ∧
    ((stream 3 awaiting []).ch 3).missAt ≤ (stream 3 awaiting []).clk ∧
    (stream 3 awaiting [(SIE_CH_STAT 3, 3 + 8 + 2 ^ 8 * 3)]).holdMax 3 ≤ (stream 3 awaiting [(SIE_CH_STAT 3, 3 + 8 + 2 ^ 8 * 3)]).chRun 3 := by
  dsimp only [State.Canonical, State.Tables]; decide +kernel

/-- An open grid point of reference 2 that waits for these channels. -/
def openPt (w : List Nat) : OpenPt :=
  { seq := 5, gp := 77, tg := 100 * 10 ^ 9 + 3900000, due := 1999000, waiting := w, invalid := 2, realign := false, fault := true }

theorem witness_GridCloses : { stream 2 awaiting [] with openPts := [(2, [openPt []])] }.Canonical ∧
    { stream 2 awaiting [] with openPts := [(2, [openPt []])] }.pts 2 = [openPt []] ∧ (openPt []).waiting = [] ∧
    (openPt [3, 95]).waiting ≠ [] ∧ (openPt [3, 95]).due ≤ (stream 2 awaiting []).clk ∧ (∀ n ∈ (openPt [3, 95]).waiting, n < 96) ∧
    ¬State.reset.clk ≥ (openPt [3]).due := by
  dsimp only [State.Canonical, State.Tables]; decide +kernel

/-- Grid point 5 of reference 2 has closed for the signal engines: a chain, an instance and a zone are bound there. -/
def worked : State :=
  let s := stream 2 awaiting [(FDC_CTL, 1), (PSU_CTL, 1), (DZE_CTL, 1), (FDC_CH_CFG 5, 2 ^ 31 + 2 * 2 ^ 27 + 3 * 2 ^ 17 + 2 ^ 12),
    (FDC_ST_LEN 5 0, 2), (PSU_IN_CFG 6, 2 ^ 31 + 2 * 2 ^ 27 + 2 ^ 25 + 3 * 2 ^ 18), (DZE_Z_CFG 1, 2 ^ 31 + 2 * 2 ^ 27),
    (DZE_IN_SRC 1 4, 2 ^ 31 + 3 * 2 ^ 24), (DZE_IN_RATIO 1 4, 0x10000), (DZE_Z_SCALE 1, 5)]
  { s with fdcQ := [⟨2, 5, 77, 4⟩], psuQ := [⟨2, 5, 77, 4⟩], dzeQ := [⟨2, 5, 77, 4⟩, ⟨1, 1, 1, 1⟩] }

theorem witness_SignalWork : worked.Canonical ∧ worked.power.cx = true ∧ worked.fdcQ = [⟨2, 5, 77, 4⟩] ∧ worked.psuQ = [⟨2, 5, 77, 4⟩] ∧
    worked.dzeQ = ⟨2, 5, 77, 4⟩ :: [⟨1, 1, 1, 1⟩] ∧ worked.bit FDC_CTL 0 = true ∧ worked.bit PSU_CTL 0 = true ∧ worked.bit DZE_CTL 0 = true ∧
    worked.refState 2 ≠ 0 ∧ State.reset.refState 2 = 0 ∧ worked.prior = [] ∧ (∀ k, k < 512 → k ≠ 5 → worked.fdcBound 2 k = false) ∧
    worked.fdcBound 2 5 = true ∧ worked.fdcStages 5 = 1 ∧ 77 % worked.fdcQuot 5 0 = worked.rd (FDC_CH_PHASE 5) % worked.fdcQuot 5 0 ∧
    (∀ k, k < 128 → k ≠ 6 → worked.psuBound 2 k = false) ∧ worked.psuBound 2 6 = true ∧ worked.recRealign 2 5 = false ∧
    (∀ k, k < 16 → k ≠ 1 → worked.zBound 2 k = false) ∧ worked.zBound 2 1 = true ∧ worked.zSpan 1 = false ∧
    worked.bit (DZE_Z_STAT 1) 1 = false ∧ worked.bit (FDC_CH_STAT 5) 1 = false := by
  dsimp only [State.Canonical, State.Tables]; and_intros <;> decide +kernel

/-- Zone 1 spans modules; its record, and further registers. -/
def spanning (d : Dze) (l : List (Nat × Nat)) : State :=
  { st ([(DZE_CTL, 1), (DZE_Z_CFG 1, 2 ^ 31 + 2 * 2 ^ 27 + 2 ^ 23), (DZE_Z_SPAN 1, 3 + 2 * 2 ^ 8 + 5 * 2 ^ 16), (WEFT_REF_STAT 2, 2)] ++ l) with
    dze := [(1, d)], clk := 2000000 }

/-- A grid point's own sums that wait at the home module. -/
def waitingSums : DzeLocal :=
  { ref := 2, seq := 5, gp := 77, at_ := 1000, realign := false, d := [1, 2, 3], r := [1, 1, 1], q := 0, bad := 0, nbad := 0, sat := 0,
    fault := false, open_ := true }

theorem witness_Zones : (spanning { waits := [waitingSums] } []).Canonical ∧
    ((spanning { waits := [waitingSums] } []).dzeOf 1).waits = [waitingSums] ∧ (spanning { waits := [waitingSums] } []).priorsOf zRecKey 1 = [] ∧
    waitingSums.at_ + (spanning {} []).zWait 1 waitingSums ≤ (spanning {} []).clk ∧ (spanning { waits := [waitingSums] } []).zComplete 1 77 = false ∧
    (spanning {} []).bit (DZE_Z_CFG 1) 31 = true ∧ (spanning {} []).zSpan 1 = true ∧ (spanning {} []).zLocal 1 = false ∧
    (spanning {} []).spanOk ((spanning {} []).zRef 1) = false ∧ (spanning { clean := 128 } [(DZE_Z_STAT 1, 4)]).zLocal 1 = true ∧
    (spanning { clean := 128 } [(DZE_Z_STAT 1, 4), (RED_STAT, 8)]).spanOk ((spanning {} []).zRef 1) = true ∧
    128 ≤ ((spanning { clean := 128 } []).dzeOf 1).clean ∧ State.reset.bit (DZE_Z_CFG 1) 31 = false := by
  dsimp only [State.Canonical, State.Tables]; decide +kernel


/-! ### Pairs, passes, slices (chapters 05 and 06) -/

/-- Slices 3 and 9 on pair 1, pair 5 the spare; further registers, and slice 3's record. -/
def pairs (l : List (Nat × Nat)) (x : Slice) : State :=
  { st ([(XEC_CTL, 0x3F), (XEC_PAIR_STAT 0, 0), (XEC_PAIR_STAT 1, 1), (XEC_PAIR_STAT 5, 2), (XEC_PAIR_STAT 11, 1), (XEC_STAT, 4 + 8 * 5), (XEC_SL_CFG 3, 2 ^ 31 + 2 ^ 19),
        (XEC_SL_CFG 9, 2 ^ 31 + 2 ^ 19 + 2 ^ 25 * 3), (XEC_SL_XSTAT 3, 1), (XEC_SL_XSTAT 9, 1), (XEC_SL_STAT 3, 2)] ++ l) with
    clk := 10000000, pairs := [(1, { running := 4 })], slices := FMap.put [] 3 x }

/-- A pass of slice 3 that runs, past its budget and its deadline. -/
def running : Pass := { running := true, started := true, deadline := 500000, seq := 7, gp := 5, budget := 10, since := 9999000 }

theorem witness_PairCommands : (pairs [] {}).Canonical ∧ Sup sup 7 (pairs [] {}) ∧ (pairs [(XEC_PAIR_STAT 5, 0), (XEC_STAT, 0)] {}).spareValid = false ∧
    (pairs [] {}).pairState 0 = 0 ∧ (pairs [] {}).pairState 5 = 2 ∧ (∀ q, q < 12 → (pairs [] {}).pairState q ≠ 3) ∧
    (pairs [(XEC_PAIR_STAT 1, 3), (XEC_PAIR_STAT 5, 0)] {}).pairState 1 = 3 ∧ ¬(∃ q, q < 12 ∧ q ≠ 0 ∧ (pairs [(XEC_PAIR_STAT 5, 0)] {}).pairState q = 2) ∧
    (pairs [(XEC_PAIR_STAT 1, 4)] {}).pairState 1 = 4 ∧ ((pairs [] {}).pr 1).isolated ≤ 1 ∧ State.reset.pairState 1 ≠ 4 := by
  dsimp only [State.Canonical, State.Tables, Sup, Reaches]; and_intros <;> decide +kernel

theorem witness_PairFailures : (pairs [] { pass := some running }).Canonical ∧ (pairs [] {}).power.cx = true ∧ (pairs [] {}).bit XEC_CTL 4 = true ∧
    (pairs [] {}).pairState 1 = 1 ∧ ((pairs [] {}).pr 1).running = 3 + 1 ∧ ((pairs [] { pass := some running }).sl 3).waitAt = none ∧
    (pairs [(XEC_PAIR_STAT 1, 3)] {}).pairState 1 = 3 ∧ (pairs [] {}).spareValid = true ∧ (pairs [] {}).fld XEC_STAT 6 3 = 5 ∧
    (pairs [] {}).hosted 1 = [3, 9] ∧ (pairs [(XEC_SL_XSTAT 9, 2)] {}).life 9 = 2 ∧ (pairs [(XEC_CTL, 0x2F)] {}).bit XEC_CTL 4 = false := by
  dsimp only [State.Canonical, State.Tables]; and_intros <;> decide +kernel

/-- A background slice, 9, runs on pair 1. -/
def background : State := { pairs [] {} with slices := [], pairs := [(1, { running := 10, bgFrom := 5, bgLast := 9 })] }

theorem witness_Passes : (pairs [] { pass := some running }).Canonical ∧ (pairs [] { pass := some running }).bit XEC_CTL 0 = true ∧
    (3, running) ∈ (pairs [] { pass := some running }).contenders 1 ∧
    (∀ e ∈ (pairs [] { pass := some running }).contenders 1, e ≠ (3, running) → before (3, running) e = true) ∧
    (pairs [] { pass := some running }).passDue running = true ∧ running.missed = false ∧ running.budget < running.exec 10000000 ∧
    running.budget ≠ 0 ∧ (pairs [] {}).refState ((pairs [] {}).slRef 3) = 0 ∧ (pairs [] {}).slEn 3 = true ∧ (pairs [] {}).slClass 3 < 3 ∧
    (((pairs [] {}).sl 3).freeAt.getD (pairs [] {}).mono8) ≤ (pairs [] {}).mono8 ∧ (pairs [] {}).run 3 ≠ 6 ∧ (pairs [] {}).life 3 = 1 ∧
    (pairs [] {}).sheds 3 1 = false ∧ (pairs [(XEC_PAIR_STAT 5, 1), (XEC_STAT, 0)] { cmiss := 16 }).faultDue 3 = true ∧ background.Canonical ∧
    (background.pr 1).running = 9 + 1 ∧ background.slClass 9 = 3 ∧ (background.pr 1).bgFrom + 100 * tUs ≤ background.clk ∧
    background.level 1 = 0 ∧ (background.suspend 1).contenders 1 = [] ∧ (background.suspend 1).nextBackground 1 9 = some 9 := by
  dsimp only [State.Canonical, State.Tables]; and_intros <;> decide +kernel

theorem witness_PassInstructions : (pairs [] { pass := some running, capture := some { valid := true, gen := 3 }, capCells := [(0, 5), (0x1fff, 9)] }).Canonical ∧
    (pairs [] { pass := some running }).runningOn 1 = some 3 ∧ ((pairs [] { pass := some running }).sl 3).pass = some running ∧
    ((pairs [] { capture := some { valid := true } }).sl 3).capture = some { valid := true } ∧ (pairs [] {}).power.mem = true ∧
    (pairs [] { pass := some running }).standbyStop 3 = false ∧ (pairs [] {}).life 3 = 1 ∧ State.reset.runningOn 1 = none ∧
    (State.reset.sl 3).capture = none ∧ 2 < (3 : Fin 4) := by
  dsimp only [State.Canonical, State.Tables]; and_intros <;> decide +kernel

/-- Thermal level 1, hot and cool for longer than ten seconds. -/
def thermal : State := { pairs [(XEC_STAT, 1), (XEC_THERM_CFG, 0x5A5F)] {} with hotFrom := some 5, clk := 2000000000, coolFrom := some 6, slices := [] }

theorem witness_Ladder : thermal.Canonical ∧ thermal.power.cx = true ∧ thermal.bit XEC_CTL 2 = true ∧ thermal.fld XEC_STAT 1 0 = 1 ∧
    thermal.lasted (some 5) 1 = true ∧ thermal.lasted (some 6) 10 = true ∧ (thermal.tUp : Int) * 16 < 3000 ∧ (-1000 : Int) < (thermal.tDown : Int) * 16 ∧
    thermal.lasted none 1 = false ∧ thermal.bit XEC_CTL 1 = true ∧
    (pairs [(XEC_PAIR_STAT 1, 1 + 2 * 2 ^ 6), (XEC_OVL_CFG, 80 + 100 * 2 ^ 8)] {}).fld (XEC_PAIR_STAT 1) 7 6 ≠ 0 ∧
    ((pairs [] {}).pr 1).calmFrom + max ((pairs [(XEC_OVL_CFG, 80 + 100 * 2 ^ 8)] {}).fld XEC_OVL_CFG 23 16) 1 * tMs ≤ (pairs [] {}).clk ∧
    { pairs [(XEC_OVL_CFG, 80 + 100 * 2 ^ 8)] {} with pairs := [] }.util 1 < min ((pairs [(XEC_OVL_CFG, 80 + 100 * 2 ^ 8)] {}).fld XEC_OVL_CFG 15 8) 100 ∧
    (pairs [] {}).atRisk 1 = false ∧ thermal.blkOn 7 = true ∧ (thermal.faults.at' 33).length < 2 ∧ (5 ∉ thermal.blockFail) ∧
    2 ≤ ({ thermal with faults := [(33, [1999999999, 1999999998])] }.faults.at' 33).length := by
  dsimp only [State.Canonical, State.Tables]; and_intros <;> decide +kernel

/-- Slice 3 of tenant 2 in a life, its record, and further registers. -/
def life (n : Nat) (x : Slice) (l : List (Nat × Nat)) : State :=
  { st ([(XEC_CTL, 0x3F), (XEC_PAIR_STAT 1, 1), (XEC_PAIR_STAT 4, 1), (XEC_TEN_CFG 2, 0xFFF0), (XEC_SL_BIND 3, 5 * 2 ^ 16 + 2),
        (XEC_SL_CFG 3, 2 ^ 31 + 2 ^ 19), (XEC_SL_XSTAT 3, n), (XEC_SL_STAT 3, 1)] ++ l) with
    clk := 10000000, slices := FMap.put [] 3 x, grants := [(2, { valid := true, kind := 3, holder := 3, first := 256 + 7, count := 1 })] }

/-- A transfer of slice 3. -/
def transfer (c : Nat) : Xfer := { slice := 3, cmd := c, live := false, delta := false, pair := 4, page := 9 }

theorem witness_SliceLife : (life 2 { quiesceAt := some 4 } []).Canonical ∧ Sup dap 7 (life 2 {} []) ∧ (life 1 {} []).slEn 3 = true ∧
    (life 1 {} [(XEC_SL_CFG 3, 0)]).slEn 3 = false ∧ (life 1 {} []).life 3 = 1 ∧ (life 1 {} []).xfer = none ∧ (life 1 {} []).locked 7 3 = false ∧
    (State.reset.sl 3).quiesceAt = none ∧ 4 + (life 2 {} []).qTmo 3 ≤ (life 2 {} []).clk ∧ (life 2 {} []).outstanding 3 = false ∧
    ((life 2 {} []).pr 1).running ≠ 3 + 1 ∧ (life 3 {} []).life 3 = 3 ∧ (life 3 {} []).closedGp.at' ((life 3 {} []).slRef 3) = 0 ∧
    ((life 7 { armRel := some { gp := 7 } } []).sl 3).armRel = some { gp := 7 } ∧ (life 7 {} []).life 3 = 7 ∧
    { life 5 { prevLife := 3 } [] with xfer := some (transfer 4) }.xfer ≠ none ∧ (life 6 {} []).life 3 = 6 ∧ (life 4 {} []).life 3 = 4 ∧
    (life 2 { pass := some {} } []).life 3 = 2 := by
  dsimp only [State.Canonical, State.Tables, Sup, Reaches]; and_intros <;> decide +kernel

theorem witness_SliceTransfers : (life 4 { moveTo := some (4, 9), held := some { seq := 8 } } []).Canonical ∧ Sup sup 7 (life 3 {} []) ∧
    (life 3 {} []).moveRefusal 3 4 9 = 0 ∧ (life 3 {} []).moveRefusal 3 15 9 ≠ 0 ∧ (life 3 {} [(XEC_XFER_BUF_LO, 2 ^ 22)]).saveRefusal 3 false = 0 ∧
    (life 2 {} []).restoreRefusal 3 ≠ 0 ∧ ((life 4 { moveTo := some (4, 9) } []).sl 3).moveTo = some (4, 9) ∧ (life 4 {} []).life 3 = 4 ∧
    { life 5 {} [] with xfer := some (transfer 4) }.xferIs 3 4 = some (transfer 4) ∧
    { life 6 {} [] with xfer := some (transfer 5) }.xferIs 3 5 = some (transfer 5) ∧ State.reset.xferIs 3 5 = none ∧
    (life 5 {} []).power.mem = true ∧ (life 4 {} []).windowGrant 3 ≠ none ∧ (life 4 {} []).run 3 ≠ 6 := by
  dsimp only [State.Canonical, State.Tables, Sup, Reaches]; and_intros <;> decide +kernel


/-! ### Points, subscriptions, publisher (chapter 07) -/

/-- A GOOSE frame with the set of a boolean, a bit string and an integer. -/
def gooseMembers : List Byte := tlv 0x83 (bytesBE 1 1) ++ tlv 0x84 (bytesBE 3 0x030000) ++ tlv 0x85 (bytesBE 2 77)
def gooseFrame (stNum sqNum : Nat) : RxFrame :=
  let a := tlv 0x61 (tlv 0x80 (bytesBE 2 0x4142) ++ tlv 0x81 (bytesBE 2 50) ++ tlv 0x82 (bytesBE 2 0x4344) ++ tlv 0x83 (bytesBE 1 5) ++
    tlv 0x84 (bytesBE 8 77) ++ tlv 0x85 (bytesBE 4 stNum) ++ tlv 0x86 (bytesBE 2 sqNum) ++ tlv 0x87 (bytesBE 1 0) ++ tlv 0x88 (bytesBE 1 7) ++
    tlv 0x89 (bytesBE 1 0) ++ tlv 0x8A (bytesBE 1 3) ++ tlv 0xAB gooseMembers)
  { octets := bytesBE 6 0x010CCD010001 ++ bytesBE 6 0x112233445566 ++ bytesBE 2 0x88B8 ++ bytesBE 2 0x3003 ++ bytesBE 2 (a.length + 8) ++
      bytesBE 4 0 ++ a
    ts32 := 5000000, port := 0, path := 0, bad := false, stepCnt := 0, auth := none }

/-- The point store with subscription 7, and further registers. -/
def store (l : List (Nat × Nat)) : State :=
  { st ([(PTS_CTL, 3), (PTS_BASE_LO, 0x10000000), (PTS_SUB_BASE_LO, 0x8000000), (PTS_SUB_CFG 7, 2 ^ 31 + 2), (PTS_SUB_ID 7, 0x3003 + 2 ^ 16 * 20),
        (PTS_SUB_GOCB 7, crc32 (bytesBE 2 0x4142)), (PTS_SUB_DATSET 7, crc32 (bytesBE 2 0x4344)), (PTS_SUB_CONFREV 7, 7), (PTS_SUB_STAT 7, 1),
        (PTS_SUB_TYPES 7, (match ber gooseMembers with | some d => crc32 (memberTypes d) | none => 0))] ++ l) with
    clk := 2000000, time := { sec := 100, ns := 6000000 } }

/-- Watch 9 on point 5. -/
def watched : State := store [(PTS_WATCH_CFG 9, 2 ^ 31 + 2 ^ 29), (PTS_WATCH_PT 9, 5)]

theorem watched_watches : watched.watchesOf 5 = [9] ∧ watched.watchesOf 6 = [] := by decide +kernel

theorem witness_PortWrites : (store []).Canonical ∧ Reaches sup 8 (store []) ∧ (store []).may sup 4 5 .wr = true ∧ (store []).bit PTS_CTL 0 = true ∧
    (store []).memOn ((store []).pointAt 5) = true ∧
    (watched.watchesOf 5 = [9] ∧ watched.watchesOf 6 = []) ∧
    bits ((store [(PTS_WATCH_CFG 9, 2 ^ 31 + 2 ^ 29)]).rd (PTS_WATCH_CFG 9)) 30 29 ≠ 0 ∧ (State.reset.watch.at' 9).armed = false ∧
    State.reset.bit PTS_CTL 0 = false ∧ (store [(PTS_WATCH_CFG 9, 2 ^ 31)]).fld (PTS_WATCH_CFG 9) 30 29 = 0 := by
  dsimp only [State.Canonical, State.Tables, Reaches]; refine ⟨?_, ?_, ?_, ?_, ?_, watched_watches, ?_⟩ <;> decide +kernel

/-- What the check of a frame's APDU says at subscription 7. -/
def gooseSays (s : State) (f : RxFrame) : Option GooseCheck :=
  (readApdu (parseFrame f.octets).body).map (fun a => s.gooseCheck 7 a.sim a.apdu)

theorem witness_GooseFrames : (store []).Canonical ∧ (store []).power.cx = true ∧ (store []).bit PTS_CTL 1 = true ∧ (gooseFrame 3 0).bad = false ∧
    (store []).bit (PTS_SUB_CFG 7) 31 = true ∧ (store []).bit (PTS_SUB_CFG 7) 25 = false ∧ (parseFrame (gooseFrame 3 0).octets).etype = 0x88B8 ∧
    ((readApdu (parseFrame (gooseFrame 3 0).octets).body).map (·.appid)) = some ((store []).fld (PTS_SUB_ID 7) 15 0) ∧
    (store []).fld (PTS_SUB_CFG 7) 30 29 = 0 ∧ (dupStep 0 (parseFrame (gooseFrame 3 0).octets) ((store []).subOf 7).win 0).1 = .fresh ∧
    (match gooseSays (store []) (gooseFrame 3 0) with | some (.good m) => m.st == 3 && m.sq == 0 | _ => false) = true ∧
    (match gooseSays (store [(PTS_SUB_CONFREV 7, 99)]) (gooseFrame 3 0) with | some (.bad _) => true | _ => false) = true ∧
    (store []).subState 7 = 1 ∧ (store [(PTS_SUB_STAT 7, 2)]).subState 7 = 2 ∧ (store [(PTS_SUB_CFG 7, 2)]).bit (PTS_SUB_CFG 7) 31 = false ∧
    State.reset.bit PTS_CTL 1 = false := by
  dsimp only [State.Canonical, State.Tables]; and_intros <;> decide +kernel

/-- A set received. -/
def gooseSet : GooseMsg :=
  { st := 3, sq := 4, tSec := 5, tFrac := 6, tal := 50, test := false, lost := true, rxNs := 0, rxTick := 0, vals := [(1, 2, 3, 4)] }

/-- Subscription 7 in a state, with its record. -/
def subscribed (n : Nat) (x : Machine.Sub) : State := { store [(PTS_SUB_STAT 7, n)] with subs := [(7, x)] }

theorem witness_SubscriptionStates : (subscribed 2 { set := some gooseSet, expiry := 5 }).Canonical ∧ (subscribed 2 { expiry := 5 }).subState 7 = 2 ∧
    ((subscribed 2 { expiry := 5 }).subOf 7).expiry ≤ (subscribed 2 { expiry := 5 }).clk ∧ gooseSet.vals.length ≤ 60 ∧
    4 ≤ ((subscribed 3 { failRun := 4 }).subOf 7).failRun ∧ (subscribed 4 { outRun := 2, exit := some gooseSet }).subState 7 = 4 ∧
    ((subscribed 4 { outRun := 2, exit := some gooseSet }).subOf 7).exit = some gooseSet ∧ Sup sup 8 (store []) ∧
    bits (BitVec.ofNat 32 (2 ^ 31 + 59)).toNat 5 0 < 60 ∧ (store [(PTS_SUB_CFG 7, 0)]).bit (PTS_SUB_CFG 7) 31 = false ∧
    (store []).bit (PTS_SUB_CFG 7) 31 = true ∧ State.reset.subState 7 ∉ [1, 2, 3] := by
  dsimp only [State.Canonical, State.Tables, Sup, Reaches]; and_intros <;> decide +kernel

/-- A template of entry `e` in a state. -/
def template (e a : Nat) (members : List Nat) (s : State) : State :=
  ((s.stWords (a + 0x20) [members.length]).stWords (a + 0x400) members).setReg (PUB_ENT_TPL_LO e) a

/-- Entries 7 and 1 (which needs the mandate) of GOOSE, entry 257 of sampled values; and further registers. -/
def publishing (l : List (Nat × Nat)) : State :=
  { withRegs ([(PUB_CTL, 1), (PTS_BASE_LO, 0x10000000), (PUB_ENT_CFG 7, 2 ^ 31 + 3 * 2 ^ 23), (PUB_ENT_CFG 1, 2 ^ 31 + 2 ^ 26 + 5 * 2 ^ 23),
        (PUB_ENT_CFG 257, 2 ^ 31), (PUB_ENT_SV 257, 8)] ++ l)
      (template 7 0x40000 [5, 5 + 2 ^ 23] (template 1 0x41000 [6 + 2 * 2 ^ 23, 5 + 3 * 2 ^ 23] (template 257 0x42000 [9] ((State.reset.stWords 0x100000A0 [3, 0, 0x100]).stWords 0x10000120 [77, 0, 0x300])))) with
    clk := 2000000, time := { sec := 100, ns := 6000000 } }

/-- A request for entry `e`. -/
def request (e : Nat) (refresh : Bool) : PubReq := ⟨e, refresh, 1, 2, 3, some (0, 9)⟩

theorem witness_PublisherRequests : (publishing []).Canonical ∧ Reaches sup 9 (publishing []) ∧ (publishing []).may sup 12 7 .use = true ∧
    (publishing []).bit PUB_CTL 0 = true ∧ (publishing []).bit (PUB_ENT_CFG 7) 31 = true ∧ (publishing []).pubBad 7 = false ∧
    ((publishing []).passNo 0).2 = false ∧ (publishing []).pubMay 7 = true ∧ (publishing []).pubQ.length < 64 ∧
    (publishing []).pubProt 1 = true ∧ State.reset.mandate = false ∧ (template 7 0x40000 [] (publishing [])).pubBad 7 = true ∧
    ({ publishing [] with slices := [(0, { pass := some { seq := 4, restarted := true } })] }.passNo 0).2 = true ∧
    { publishing [] with pub := [(7, { last := some (0, 4) })] }.lastOwner 7 = some (0, 4) ∧ State.reset.bit PUB_CTL 0 = false := by
  dsimp only [State.Canonical, State.Tables, Reaches]; and_intros <;> decide +kernel

theorem witness_PublisherFrames : { publishing [] with pubQ := [request 7 false] }.Canonical ∧ (publishing []).power.nx = true ∧
    (publishing []).bit PUB_CTL 0 = true ∧ (publishing []).bit (PUB_ENT_CFG 7) 31 = true ∧ (publishing []).pubBad 7 = false ∧
    (publishing []).fld (PUB_ENT_CFG 7) 22 21 = 0 ∧ (publishing []).pubMay 7 = true ∧ (publishing []).pubMay 1 = false ∧
    (allSome ((List.range ((publishing []).tplCount 7)).map (fun m => (publishing []).memberElem ((publishing []).tplMember 7 m)))).isSome = true ∧
    (publishing [(PUB_ENT_STNUM 7, 3)]).rd (PUB_ENT_STNUM 7) ≠ 0 ∧ ((publishing []).pubOf 7).renew = false ∧ (request 7 true).refresh = true ∧
    ({ publishing [] with pub := [(7, { due := some 2000000, k := 40 })] }.pubOf 7).due = some 2000000 ∧ 2000000 ≤ (publishing []).clk ∧
    (100 * (publishing []).svRate 257 + 24) * 10 ^ 9 ≤ (publishing []).wallNs * (publishing []).svRate 257 ∧
    (publishing []).wallNs * (publishing []).svRate 257 ≤ (100 * (publishing []).svRate 257 + 24 + 1) * 10 ^ 9 ∧
    (publishing []).fld (PUB_ENT_SV 257) 5 3 = 1 ∧ (publishing []).pubMay 257 = true ∧ (publishing []).pubBad 257 = false ∧ State.reset.pubQ = [] := by
  dsimp only [State.Canonical, State.Tables]; and_intros <;> decide +kernel


/-! ### The switch (chapter 08) -/

/-- A frame to an address, with its FCS. -/
def frame (etype n : Nat) : List Byte := withFcs (bytesBE 6 0x010CCD010001 ++ bytesBE 6 0x112233445566 ++ bytesBE 2 etype ++ octets n)

/-- Every link up, the switch on; and further registers. -/
def linked (l : List (Nat × Nat)) : State :=
  { st ([(SWC_CTL, 1), (SWC_KITTY, 1000), (MAC_CFG 5, 1), (MAC_CFG 1, 5), (MAC_CFG 0, 5)] ++
        (List.range 9).flatMap (fun p => [(MAC_STAT p, 3), (SWC_PORT_STAT p, 1)]) ++ l) with
    clk := 200000000, time := { sec := 100, ns := 6000000 } }

/-- A frame in a queue. -/
def inQueue (n : Nat) : SwFrame := { copyOf (linked []) 5 (frame 0x800 n) (n + 18) none with left := 0, kit := 3 }

/-- Frames in queue `q` of port `p`. -/
def queued (p q : Nat) (l : List SwFrame) (s : State) : State :=
  { s with swc := { s.swc with queues := s.swc.queues.put (8 * p + q) l } }

/-- Staged words of an entry and the bucket they belong to. -/
def stagedEntry : State :=
  linked [(SWC_TBL_ST 0, 0xCD010001), (SWC_TBL_ST 1, 0x010C + 77 * 2 ^ 16 + 2 ^ 29), (SWC_TBL_ST 2, 0x1234), (SWC_TBL_ST 3, 2 ^ 9 + 2 ^ 8),
    (SWC_TBL_ST 4, 5 + 2 ^ 18 + 2 ^ 8 * 9)]
def stagedWords : List Nat := (List.range 8).map (fun k => stagedEntry.rd (SWC_TBL_ST k))
def stagedBucket : Nat := bucket (entryKey stagedWords)

theorem witness_StreamTable : stagedEntry.Canonical ∧ Sup dap 10 stagedEntry ∧ stagedEntry.bit SWC_TBL_STAT 0 = false ∧
    4 * stagedBucket < 16384 ∧ 4 * stagedBucket / 4 = bucket (entryKey stagedWords) ∧ stagedEntry.swc.table = [] ∧ stagedBad stagedWords = false ∧
    (16383 : Nat) / 4 ≠ stagedBucket ∧ stagedEntry.bit SWC_STAT 1 = false ∧ (linked [(SWC_STAT, 2)]).bit SWC_STAT 1 = true ∧
    (linked [(SWC_TBL_STAT, 1)]).bit SWC_TBL_STAT 0 = true ∧ (linked []).swFrames = [] ∧ (queued 5 0 [inQueue 60] (linked [])).swFrames ≠ [] := by
  dsimp only [State.Canonical, State.Tables, Sup, Reaches]; and_intros <;> decide +kernel

/-- An entry for the frame's address on VLAN 0 that names port 6 and lets port 5 in. -/
def entered : State :=
  { linked [] with swc := { table := [(4 * bucket (0x010CCD010001, 0, 0, 0),
      [0xCD010001, 0x010C + 2 ^ 31, 0, 2 ^ 6 + 2 ^ 18, 0, 0, 1, 0])] } }

theorem witness_FramesReceived : (linked [(SWC_PORT_MISS 5, 2 ^ 6)]).Canonical ∧ Plain 5 (frame 0x800 80) (linked []) ∧ Room 6 0 (linked []) ∧
    (linked []).power.nx = true ∧ (linked []).portUp 5 = true ∧ State.reset.portUp 5 = false ∧
    (parseFrame (noFcs ((frame 0x8808 46).take 2048))).etype = 0x8808 ∧ (parseFrame (noFcs ((frame 0x88B5 60).take 2048))).etype = 0x88B5 ∧
    (linked []).bit (SWC_RED_STAT 0) 1 = false ∧ (linked []).lookup 0x010CCD010001 0 0 0 = none ∧
    entered.lookup 0x010CCD010001 0 0 0 = some (4 * bucket (0x010CCD010001, 0, 0, 0)) ∧
    (linked [(SWC_PORT_MISS 5, 2 ^ 6)]).rd (SWC_PORT_MISS 5) = 2 ^ 6 ∧ (linked []).fld (SWC_PORT_CFG 5) 30 28 = 0 := by
  dsimp only [State.Canonical, State.Tables, Plain, Room]; and_intros <;> decide +kernel

/-- Ring 1's last descriptor names 80 octets for port 5, queue 3, `direct`; memory at its buffer. -/
def ring (w1 : Nat) : State :=
  (linked [(SWC_TXR_CFG 1, 2 ^ 31 + 6), (SWC_TXR_HEAD 1, 63), (SWC_TXR_BASE_LO 1, 0x10000)]).stWords 0x103F0 [0x30000, w1, 2 ^ 5, 0]
def oneFrame : Nat := 2 ^ 31 + 80 * 2 ^ 8 + 3 * 2 ^ 20 + 2 ^ 24

theorem witness_TransmitRings : (ring oneFrame).Canonical ∧ Room 5 3 (ring oneFrame) ∧ TxReady 1 (ring oneFrame) ∧ TxDirect 1 5 3 (ring oneFrame) ∧
    (ring oneFrame).portBusy 10 = false ∧ Sup sup 10 (ring oneFrame) ∧ (∀ k, k < 16 → k ≠ 1 → ringOn ((ring oneFrame).rd (SWC_TXR_CFG k)) = false) ∧
    bits ((ring (2 ^ 31 + 59 * 2 ^ 8)).ld 0x103F4 4) 19 8 < 60 ∧ (ring oneFrame).txrBase 1 + 63 * 16 + 16 ≤ smBase ∧
    bitAt ((ring 5).ld 0x103F4 4) 31 = false ∧ (queued 9 5 [{ inQueue 60 with port := 10, left := 1 }] (ring oneFrame)).portBusy 10 = true := by
  dsimp only [State.Canonical, State.Tables, Room, TxReady, TxDirect, Sup, Reaches]; and_intros <;> decide +kernel

theorem witness_FramesSent : (queued 5 2 [inQueue 60] (linked [])).Canonical ∧ (linked []).power.nx = true ∧ (linked []).swUp 5 = true ∧
    (linked []).swc.wakeAt.at' 5 ≤ (linked []).clk ∧ (linked []).atBoundary 5 = true ∧
    (∀ k, k < 8 → ∀ g ∈ (queued 5 2 [inQueue 60] (linked [])).swq 5 k, (linked []).clk ≤ g.tick + (linked []).maxAge 5 k) ∧
    (queued 5 2 [inQueue 60] (linked [])).swq 5 2 = [inQueue 60] ∧ (∀ k, k < 8 → 2 < k → (queued 5 2 [inQueue 60] (linked [])).swq 5 k = []) ∧
    (inQueue 60).left = 0 ∧ (inQueue 60).desc = none ∧ (inQueue 60).tc = false ∧ (inQueue 60).bad = false ∧
    { linked [] with swc := { inTx := [(5, some (inQueue 60, 3, 200000000))] } }.txNow 5 = some (inQueue 60, 3, 200000000) ∧
    (linked []).swUp 9 = true ∧ (linked []).sieIn.sum + (inQueue 60).octets.length ≤ 16384 ∧ 16384 < [16000, 330].sum + (inQueue 60).octets.length ∧
    ({ inQueue 61 with tick := 5 }).tick + (linked []).maxAge 5 2 < (linked []).clk ∧ (linked []).rd SWC_KITTY + (inQueue 60).kit < 2 ^ 32 := by
  dsimp only [State.Canonical, State.Tables]; and_intros <;> decide +kernel

/-- Pair 0 of PRP with supervision, its members last heard at these times. -/
def redundant (a b : Nat) : State :=
  { linked [(SWC_RED_CFG 0, 1 + 8 + 0x2300 + 2 ^ 16 * 20), (SWC_RED_TIMES 0, 5 + 2 ^ 16)] with swc := { good := [(0, a), (1, b)] } }

theorem witness_Links : (redundant 5 199999999).Canonical ∧ (redundant 5 6).power.nx = true ∧ (redundant 5 6).redMode 0 ≠ 0 ∧
    (redundant 5 6).bit (SWC_RED_CFG 0) 3 = true ∧ (redundant 5 6).swc.supAt.at' 0 = none ∧ (redundant 5 6).portUp 1 = true ∧
    (redundant 5 6).atBoundary 1 = true ∧ (redundant 5 6).swc.direct.at' 1 = [] ∧ (redundant 5 6).bit (MAC_STAT 1) 2 = false ∧
    (redundant 5 6).bit (SWC_RED_STAT 0) 0 = false ∧ 5 + max ((redundant 5 6).fld (SWC_RED_TIMES 0) 15 0) 1 * tMs ≤ (redundant 5 6).clk ∧
    (redundant 5 6).led.staged.length < 1024 ∧ (linked [(MAC_STAT 5, 0)]).portUp 5 = false ∧
    macCfgOk 5 ((linked []).rd (MAC_CFG 5)) = true ∧ (linked [(MAC_CFG 5, 1 + 2 ^ 8)]).clk < (linked []).clk + (linked [(MAC_CFG 5, 1 + 2 ^ 8)]).fld (MAC_CFG 5) 15 8 * tMs ∧
    (linked [(SWC_PORT_STAT 5, 2), (MAC_STAT 5, 0)]).bit (SWC_PORT_STAT 5) 1 = true ∧ (linked [(SWC_PORT_CFG 5, 3)]).fld (SWC_PORT_CFG 5) 15 0 * tMs ≤ (linked []).clk ∧
    (linked []).swIdle 5 = true ∧ eeePort 5 = true ∧ eeePort 8 = true ∧ (linked [(MAC_EEE 5, 1)]).bit (MAC_EEE 5) 0 = true := by
  dsimp only [State.Canonical, State.Tables]; and_intros <;> decide +kernel


/-! ### The twin and the arbiter (chapter 09) -/

/-- A message as sent and as read. -/
def message (ty role st epoch : Nat) (payload : List Byte) : List Byte :=
  lzSeal (lzHeader ty role 0 st 0 epoch 7 payload.length ++ payload)
def asRead (ty role st epoch : Nat) (payload : List Byte) : LzMsg :=
  { ty := ty, role := role, pos := 0, st := st, epoch := epoch, seq := 7, payload := payload }
def words (l : List Nat) : List Byte := l.flatMap (bytesBE 4)
def bytes (l : List Nat) : List Byte := l.flatMap (bytesBE 1)

/-- A member of a twin, 160 s after its start: STANDBY unless the registers say else, epoch 9, its links up. -/
def twin (l : List (Nat × Nat)) (r : Red) : State :=
  { st ([(RED_CTL, 1), (RED_HEALTH, 0x33), (RED_STAT, 1 + 0x30), (RED_EPOCH, 9), (RED_CK_STAGE_LO, 0x20000000), (RED_ST_SKIP, 5),
        (MAC_STAT 4, 3), (MAC_STAT 5, 3), (MAC_STAT 8, 3)] ++ l) with clk := 20000000000, complete := true, red := r }

/-- An ACTIVE holder of epoch 7, and the arbiter. -/
def holder (l : List (Nat × Nat)) (r : Red) : State := twin ((RED_STAT, 3 + 8 + 0x30 + 2 ^ 6 + 2 ^ 7) :: l) { r with held := 7 }
def arbiter (l : List (Nat × Nat)) (r : Red) : State := twin ([(RED_STRAP, 2), (RED_STAT, 0x30)] ++ l) r

/-- A heartbeat, a status, a heartbeat to the arbiter. -/
def heartbeat (flags : Nat) : List Byte := bytes [2, flags, 0, 0] ++ words [0, 3, 1234, 5000, 7, 0, 0]
def status (h flags epoch plan : Nat) : List Byte := bytes [h, flags, 0, 0] ++ words [epoch, plan, 0]

theorem witness_TwinHeartbeats : (twin [] {}).Canonical ∧ (twin [] {}).lzRead [] = none ∧
    Heard portML 1 (message 1 1 1 9 (heartbeat 2)) (asRead 1 1 1 9 (heartbeat 2)) (holder [] {}) ∧ (holder [] {}).holdsTwin = true ∧ (holder [] {}).hoPhase ≠ 2 ∧
    (∀ e ∈ (holder [] {}).gridLog (holder [] {}).hoRef, 50000 < Machine.dist e.2 5000) ∧
    Heard portML 1 (message 1 1 3 9 (heartbeat 3)) (asRead 1 1 3 9 (heartbeat 3)) (twin [(RED_STAT, 0x30)] {}) ∧ (twin [(RED_STAT, 0x30)] {}).member = 0 ∧
    Heard portAL 3 (message 3 2 7 9 (status 0 1 7 0)) (asRead 3 2 7 9 (status 0 1 7 0)) (holder [] {}) ∧ (holder [] {}).red.plan = none ∧
    Heard portMP 2 (message 2 1 1 5 (bytes [3, 2, 0, 0] ++ words [5, 77, 0])) (asRead 2 1 1 5 (bytes [3, 2, 0, 0] ++ words [5, 77, 0])) (arbiter [] {}) ∧
    (arbiter [] {}).role = 2 ∧ 7 + 5 * tMs ≤ (holder [] { mateAt := some 7 }).clk ∧ (holder [] {}).bit RED_STAT 6 = true ∧
    (arbiter [(RED_ARB_VIEW, 12)] {}).bit RED_ARB_VIEW (2 + 1) = true ∧ (holder [] {}).health ≠ 0 ∧ (holder [] {}).role < 2 ∧
    ((holder [] {}).red.sentAt.at' 1) = none ∧ State.reset.complete = false := by
  dsimp only [State.Canonical, State.Tables, Heard, Arrives]; and_intros <;> decide +kernel

/-- A verdict's payload; a verdict that stands for member 0. -/
def verdictOf (kind target epoch plan : Nat) : List Byte := bytes [kind, target, 0, 0] ++ words [epoch, plan, 0]
def verdict1 : Verdict := { kind := 1, target := 0, epoch := 10, plan := 0, at_ := 5 }

/-- A member that takes the mandate: its class A slice 0 has run. -/
def taking : State := { twin [(RED_STAT, 2 + 0x30), (XEC_SL_XSTAT 0, 1)] { verdict := some verdict1, ckSt := some [7, 8] } with slices := [(0, { everRun := true })] }

theorem witness_Mandate : taking.Canonical ∧ taking.red.verdict = some verdict1 ∧ taking.power.cx = true ∧
    Arrives portML 8 (message 8 0 1 12 (words [0, 0])) (asRead 8 0 1 12 (words [0, 0])) (twin [] {}) ∧ (twin [] {}).mandate = false ∧
    Heard portAL 4 (message 4 2 7 9 (verdictOf 1 0 10 0)) (asRead 4 2 7 9 (verdictOf 1 0 10 0)) (twin [] {}) ∧ (twin [] {}).member = 1 ∧
    { twin [] {} with power := { cxEn := true, cxConf := true } }.power.cxConf = true ∧
    imgForm ({ twin [] {} with power := { cx := false, cxEn := false } }.dramImage (min ({ twin [] {} with power := { cx := false, cxEn := false } }.ld (boltBase + 8) 4) (2 ^ 26))) = false ∧
    (twin [(RED_STAT, 2 + 0x30)] {}).member = 2 ∧ verdict1.at_ + 8 * tMs ≤ (twin [] {}).clk ∧
    (∀ n, n < 256 → taking.slEn n = true → taking.slCrit n = 0 → taking.life n = 1 ∧ ((taking.sl n).pass.isSome = true ∨ (taking.sl n).everRun = true)) ∧
    (holder [] {}).mandate = true ∧ (holder [] {}).holdsTwin = true ∧ ((holder [] { arbOk := some 5 }).red.arbOk.all fun a => decide (a + 6 * tMs < 20000000000)) = true ∧
    (arbiter [] {}).role = 2 ∧ Fit 1 (arbiter [] { peers := [(1, { at_ := some 19999999993, health := 3, flags := 4 })] }) ∧
    (arbiter [] { holder := 0 }).red.holder = 0 ∧ (arbiter [] {}).red.noHold + 12 * tMs ≤ (arbiter [] {}).clk ∧
    Heard portAL 5 (message 5 0 1 9 (words [10, 0])) (asRead 5 0 1 9 (words [10, 0])) (arbiter [] {}) ∧
    Heard portAL 0x0D (message 0x0D 0 3 9 (words [77] ++ bytes [1, 0, 0, 0])) (asRead 0x0D 0 3 9 (words [77] ++ bytes [1, 0, 0, 0])) (arbiter [] { holder := 0 }) ∧
    verdict1.at_ + 500 * tMs ≤ (arbiter [] { issued := some verdict1 }).clk := by
  dsimp only [State.Canonical, State.Tables, Heard, Arrives, Fit]; and_intros <;> decide +kernel

/-- A set being staged, and a message of it. -/
def staging : CkStage := { set := 7, began := 5, msgs := [{ obj := 0, addr := 0x10000, off := 0, len := 64 }], next := 1, off := 64 }
def ckData (i n : Nat) : List Byte := words [7] ++ bytes [0] ++ bytesBE 5 0x10000 ++ bytesBE 2 n ++ words [i] ++ octets 64

theorem witness_Checkpoints : (twin [] { stage := some staging }).Canonical ∧ (holder [(RED_CK_CFG, 2 ^ 16 + 50)] {}).mandate = true ∧
    (holder [(RED_CK_CFG, 2 ^ 16 + 50)] {}).bit RED_CK_CFG 16 = true ∧ (holder [] {}).red.ckDue ≤ (holder [] {}).clk ∧ (holder [] {}).red.dirty.length ≤ 1 ∧
    (holder [] {}).ckList = [] ∧ (holder [] {}).bit RED_STAT 11 = false ∧ (twin [] {}).member = 1 ∧ (twin [] {}).power.mem = true ∧
    Heard portML 6 (message 6 0 3 9 (ckData 1 64)) (asRead 6 0 3 9 (ckData 1 64)) (twin [] { stage := some staging }) ∧
    (asRead 6 0 3 9 (ckData 1 64)).at' 12 4 = staging.next ∧ ((asRead 6 0 3 9 (ckData 1 64)).payload.drop 16).length = 64 ∧
    (twin [] {}).base RED_CK_STAGE_LO 29 + 64 + 64 ≤ smBase ∧
    Heard portML 7 (message 7 0 3 9 (words [7, 1, crc32 (List.replicate 64 0), 0])) (asRead 7 0 3 9 (words [7, 1, crc32 (List.replicate 64 0), 0])) (twin [] { stage := some staging }) ∧
    crc32 ((twin [] {}).rdBytes ((twin [] {}).base RED_CK_STAGE_LO 29) 64) = crc32 (List.replicate 64 0) ∧
    Heard portML 8 (message 8 1 1 9 (words [7, 0])) (asRead 8 1 1 9 (words [7, 0])) (holder [] {}) := by
  dsimp only [State.Canonical, State.Tables, Heard, Arrives]; and_intros <;> decide +kernel

/-- A plan, its grid point chosen or not. -/
def planned (chosen : Bool) : Plan := { id := 5, chosen := chosen, own := 0x100 }

theorem witness_Handback : (holder [(RED_HO_STAT, 1)] { plan := some (planned false) }).Canonical ∧ Sup dap 12 (holder [] {}) ∧
    (holder [] {}).member = 3 ∧ (holder [] {}).health = 3 ∧ bitAt (holder [] { mate := { flags := 8 } }).red.mate.flags 3 = true ∧
    Heard portML 9 (message 9 1 1 9 (words [5, 0])) (asRead 9 1 1 9 (words [5, 0])) (holder [] {}) ∧ (holder [] {}).red.maint = none ∧
    (∀ n, n < 256 → (holder [] {}).slEn n = true → (holder [] {}).life n ≠ 3) ∧ (holder [(RED_HO_STAT, 1)] {}).hoPhase = 1 ∧
    Heard portML 0x0B (message 0x0B 1 1 9 (words [5] ++ bytes [1, 0, 0, 0])) (asRead 0x0B 1 1 9 (words [5] ++ bytes [1, 0, 0, 0])) (holder [] {}) ∧
    Heard portML 0x0A (message 0x0A 0 3 9 (words [5, 0x200, 0, 0x100])) (asRead 0x0A 0 3 9 (words [5, 0x200, 0, 0x100])) (twin [] {}) ∧
    Heard portML 0x0C (message 0x0C 0 3 9 (words [5, 7, 0, 0, 1, 2, 3])) (asRead 0x0C 0 3 9 (words [5, 7, 0, 0, 1, 2, 3])) (twin [] {}) ∧
    Heard portML 0x0E (message 0x0E 0 3 9 (bytes [1, 0, 0, 0, 0, 0, 0, 0])) (asRead 0x0E 0 3 9 (bytes [1, 0, 0, 0, 0, 0, 0, 0])) (twin [] {}) ∧
    (holder [(RED_HO_STAT, 3)] {}).hoPhase = 3 ∧
    ({ holder [] {} with closedGp := [(0, 0x101)] }.closedGp.at' (holder [] {}).hoRef - 1 + 2 ^ 40 - 0x100) % 2 ^ 32 < 2 ^ 31 ∧
    (twin [] {}).power.cxEn = true ∧ (twin [(RED_REVERT, 2 ^ 12 + 60)] {}).bit RED_REVERT 12 = true ∧
    min (max ((twin [(RED_REVERT, 2 ^ 12 + 60)] {}).fld RED_REVERT 11 0) 60) 3600 * tSec ≤ 7500000000 ∧ (twin [] {}).role = 0 := by
  dsimp only [State.Canonical, State.Tables, Sup, Reaches, Heard, Arrives]; and_intros <;> decide +kernel


/-! ### The stack and the recorder (chapters 09 and 10) -/

/-- A stack message as sent and as read, from position `pos` of the other ring. -/
def stackMessage (ty pos : Nat) (payload : List Byte) : List Byte := lzSeal (lzHeader ty 1 pos 3 0 5 7 payload.length ++ payload)
def stackRead (ty pos : Nat) (payload : List Byte) : LzMsg :=
  { ty := ty, role := 1, pos := pos, st := 3, epoch := 5, seq := 7, payload := payload }

/-- Position 2 of its ring, the mandate held; further registers. -/
def stacked (l : List (Nat × Nat)) (c : Cas) : State :=
  { st ([(CAS_CTL, 3), (RED_CTL, 1), (RED_HEALTH, 0x33), (RED_STRAP, 8), (RED_STAT, 3 + 8 + 0x30), (RED_EPOCH, 9), (CAS_AGREE, 182),
        (CAS_CEN_BUF_LO, 0x10000000), (MAC_STAT 4, 3), (MAC_STAT 6, 3), (MAC_STAT 7, 3)] ++ l) with
    clk := 20000000000, complete := true, cas := c, time := { sec := 100 } }

/-- The dealer's heartbeat, an angle, a partial sum, a call, data of the census. -/
def dealerHb : List Byte := bytes [0xFF, 15, 0, 0] ++ bytesBE 2 8 ++ bytes [3, 0] ++ words [0x8001]
def angleOf (d g : Nat) : List Byte := bytes [0xFF, 15, 0, 0, d, 2, 0, 0] ++ words [g, 5000, 7, 0]
def partialOf (z gp : Nat) : List Byte :=
  bytes [2, 0, 0, 0, z, 1, 0, 0] ++ words [gp] ++ (List.range 6).flatMap (fun i => bytesBE 8 (2 ^ 64 - 5 * i)) ++ words [0]
def callOf (n grid sec : Nat) : List Byte := bytes [0xFF, 15, 0, 0] ++ bytesBE 2 n ++ bytes [grid, 3, 44, 0, 0, 0] ++ words [8, sec]
def censusOf (off : Nat) : List Byte := bytes [0, 0, 0, 0] ++ bytesBE 2 0x8001 ++ bytesBE 2 0 ++ words [off, 0x80] ++ octets 0x80

/-- Reference 1 follows distributed reference 3; its newest grid point stood at ns 4900. -/
def following (l : List (Nat × Nat)) : State :=
  let s := stacked ([(CAS_STAT, 16), (CAS_FOLLOW 1, 2 ^ 31 + 3)] ++ l) { role := 1, at_ := 20000000000, bitmap := 8 }
  { s.stWords (s.recAt 1 5) [512 * 7, 0, 4900, 7, 0, 0, 0, 1] with weft := [(1, { seq := 5 })] }

theorem witness_Stack : (following []).Canonical ∧ CasOpen .up (stacked [] {}) ∧ (stacked [] {}).lzRead [] = none ∧
    CasNew .up 0x22 (stackMessage 0x22 3 (partialOf 5 77)) (stackRead 0x22 3 (partialOf 5 77)) (stacked [] {}) ∧
    CasQuiet .up 0x20 (stackMessage 0x20 0 dealerHb) (stackRead 0x20 0 dealerHb) (stacked [] {}) ∧ (stacked [] {}).isDealer = false ∧
    (stacked [] {}).bit CAS_STAT 4 = false ∧ (stacked [] {}).follows = [] ∧ (following []).bit CAS_STAT 4 = true ∧
    5 + 5 * tMs ≤ (stacked [(CAS_STAT, 16)] { at_ := 5 }).clk ∧
    CasQuiet .up 0x21 (stackMessage 0x21 0 (angleOf 3 135)) (stackRead 0x21 0 (angleOf 3 135)) (following []) ∧
    (following []).follows = [1] ∧ (following []).followOf 1 = 3 ∧ (∀ y ∈ (following []).gridLog 1, Machine.dist y.2 (7 * 10 ^ 9 + 5000) = 100) ∧
    (following []).gridLog 1 ≠ [] ∧
    (stacked [(DZE_Z_CFG 5, 2 ^ 31 + 2 ^ 23), (DZE_Z_SPAN 5, 2 + 8 * 2 ^ 8)] {}).bit (DZE_Z_CFG 5) 31 = true ∧
    CasQuiet .down 0x23 (stackMessage 0x23 0 (callOf 0x8001 0 101)) (stackRead 0x23 0 (callOf 0x8001 0 101)) (stacked [(CAS_CEN_GOT, 0x8001 * 2 ^ 16)] {}) ∧
    (stacked [] {}).wallNs ≤ (stacked [] {}).cenInstant 101 8 ∧ (stacked [(RED_STRAP, 0)] {}).isDealer = true ∧
    CasQuiet .up 0x24 (stackMessage 0x24 3 (censusOf 0)) (stackRead 0x24 3 (censusOf 0)) (stacked [(RED_STRAP, 0)] {}) ∧
    (stackRead 0x24 3 (censusOf 0)).at' 4 2 = (stacked [(CAS_CEN_GOT, 0x8001 * 2 ^ 16)] {}).fld CAS_CEN_GOT 31 16 := by
  dsimp only [State.Canonical, State.Tables, CasOpen, CasNew, CasQuiet]; and_intros <;> decide +kernel

/-- Recorder 1 on reference 2 in a state, a closing waiting. -/
def recording (n : Nat) (l : List (Nat × Nat)) (q : Recorder) : State :=
  { stacked ([(TAE_CTL, 1), (TAE_REC_CFG 1, 2 ^ 31 + 2 ^ 27 * 2), (TAE_REC_DEPTH 1, 3 + 4 * 2 ^ 16), (TAE_REC_AREA_LO 1, 0x20000000),
        (TAE_REC_SLOTS 1, 4), (TAE_REC_STAT 1, n), (WEFT_REF_STAT 2, 2)] ++ l) {} with
    tae := FMap.put [] 1 q, taeQ := [(1, [⟨2, 9, 8, 20000000000⟩])] }

/-- A record under way; registers of a stack recorder with a remote trigger. -/
def openRecord : RecOpen := { slot := 2, addr := 0x20040000, size := 7, num := 12, first := 3, pre := 2, post := 3, remote := true }
def stackRecorder : List (Nat × Nat) :=
  [(TAE_REC_CFG 1, 2 ^ 31 + 2 ^ 27 * 2 + 2 ^ 26), (TAE_TRG_CFG 1 4, 2 ^ 31 + 6 * 2 ^ 27), (CAS_STAT, 16), (CAS_FOLLOW 2, 2 ^ 31), (CAS_REF_STAT 2, 1)]
def armOf (f : Nat) : List Byte := bytes [0xFF, 15, 0, 0, 1, f, 0, 0] ++ words [77, 0]
def fireOf (g : Nat) : List Byte := bytes [0xFF, 15, 0, 0, 1, 3, 0, 0] ++ words [g, 5, 6]

theorem witness_Recorder : (recording 1 [] {}).Canonical ∧ (recording 1 [] {}).power.mem = true ∧ (recording 1 [] {}).bit TAE_CTL 0 = true ∧
    (recording 1 [] {}).recState 1 = 1 ∧ (recording 1 [] {}).refState 2 ≠ 0 ∧ (recording 1 [] {}).priorsOf 14 1 = [] ∧
    (∀ u, u < 16 → (recording 1 [] {}).trgEn 1 u = false) ∧ 0 < (recording 1 [] {}).recSize 1 ∧
    recRowAt ((recording 1 [] {}).slotAt 1 ((recording 1 [] {}).recCur 1)) ((recording 1 [] {}).recSize 1) ≤ smBase ∧
    (recording 2 [(TAE_TRG_CFG 1 3, 2 ^ 31 + 7 * 2 ^ 27)] { manual := true }).trgKind 1 3 = 7 ∧ 2 ≤ (recording 2 [] {}).recPost 1 ∧
    (∀ k, k < 16 → k = 3 ∨ (recording 2 [(TAE_TRG_CFG 1 3, 2 ^ 31 + 7 * 2 ^ 27)] {}).trgEn 1 k = false) ∧ (recording 2 [] {}).recStack 1 = false ∧
    openRecord.addr + 0x3000 ≤ smBase ∧ (recording 4 [] { finish := [openRecord] }).recState 1 = 4 ∧ Sup sup 14 (recording 2 [] {}) ∧
    ((recording 4 [] { done := [(2, 7)] }).recOf 1).done.any (fun e => e.1 == 2) = true ∧ 2 ≠ (recording 4 [] {}).recCur 1 ∧
    (recording 1 stackRecorder {}).recStack 1 = true ∧ CasQuiet .up 0x25 (stackMessage 0x25 0 (armOf 1)) (stackRead 0x25 0 (armOf 1)) (recording 1 stackRecorder {}) ∧
    CasQuiet .up 0x26 (stackMessage 0x26 3 (fireOf 10)) (stackRead 0x26 3 (fireOf 10)) (recording 2 stackRecorder {}) ∧
    (recording 2 stackRecorder {}).spanOk ((recording 2 stackRecorder {}).recRef 1) = true ∧ (recording 2 stackRecorder {}).trgEn 1 4 = true ∧
    (recording 2 stackRecorder {}).trgKind 1 4 = 6 ∧ (recording 2 stackRecorder {}).casOffset 2 = 0 ∧
    (recording 2 stackRecorder {}).rowsSince 1 10 = none ∧ State.reset.faults.at' (8 * 14 + 5) = [] := by
  dsimp only [State.Canonical, State.Tables, Sup, Reaches, CasOpen, CasNew, CasQuiet]; and_intros <;> decide +kernel


/-! ### Regulation, logic, CAN, Baize, backup domain, ledger (chapters 11 to 16) -/

/-- Loop 3 on reference 2 in a state, a closing waiting; its feedback, point 5, holds 8 of quality `q`. -/
def loop (n q : Nat) (l : List (Nat × Nat)) (x : Loop) : State :=
  let s := st ([(PTS_CTL, 1), (PTS_BASE_LO, 0x11000000), (RGE_CTL, 1), (RGE_LP_CFG 3, 2 ^ 31 + 2 * 2 ^ 27 + 7 * 2 ^ 21 + 2 * 2 ^ 13 + 8),
    (RGE_LP_FB_SRC 3, 5), (RGE_LP_OUT 3, 7), (RGE_LP_STAT 3, n), (WEFT_REF_STAT 2, 2)] ++ l)
  { s.stWords (s.pointAt 5) [fOfInt 8, 0, q + 6 * 256, 0, 0, 0, 0, 2 ^ 31 + 4] with
    clk := 20000000000, rgeQ := [(3, [⟨2, 9, 8, 20000000000⟩])], loops := FMap.put [] 3 x }

theorem witness_Regulation : (loop 2 0 [] { spTaken := true }).Canonical ∧ Reaches sup 15 (loop 2 0 [] {}) ∧ (loop 2 0 [] {}).may sup 10 3 .use = true ∧
    (loop 2 0 [] {}).power.cx = true ∧ (loop 2 0 [] {}).bit RGE_CTL 0 = true ∧ (loop 2 0 [] {}).bit (RGE_LP_CFG 3) 31 = true ∧
    (loop 2 0 [] {}).loopRef 3 = 2 ∧ (loop 2 0 [] {}).refState 2 ≠ 0 ∧ (loop 2 0 [] {}).priorsOf 15 3 = [] ∧ (loop 2 0 [] {}).fld (RGE_LP_CFG 3) 14 13 = 2 ∧
    (loop 2 0 [] {}).fld (RGE_LP_CFG 3) 12 11 = 0 ∧ (loop 2 0 [] {}).bit (RGE_LP_CFG 3) 6 = false ∧ (loop 2 0 [] {}).fld (RGE_LP_TIMES 3) 31 24 = 0 ∧
    (loop 2 0 [] {}).memOn ((loop 2 0 [] {}).pointAt 7) = true ∧ (loop 2 0 [] {}).pointType 5 = 6 ∧ (loop 2 0 [] {}).pointWord 5 0 = fOfInt 8 ∧
    fFinite (fOfInt 8) = true ∧ (loop 2 0 [] {}).fld (RGE_LP_PL_N 3) 7 0 = 0 ∧ bits ((loop 1 1 [] {}).pointWord 5 2) 7 0 = 1 ∧
    ((loop 2 0 [] { renew := true, toY := true }).loopOf 3).renew = true ∧ (loop 1 0 [] {}).bit (RGE_LP_CFG 3) 3 = true ∧
    (loop 3 0 [(RGE_LP_CFG 3, 2 ^ 31 + 2 ^ 8 + 2 ^ 9)] {}).bit (RGE_LP_CFG 3) 8 = true ∧
    max ((loop 3 0 [(RGE_LP_TIMES 3, 4)] {}).fld (RGE_LP_TIMES 3) 15 0) 1 ≤ ((loop 3 0 [] { heldFor := 4 }).loopOf 3).heldFor ∧
    ((loop 4 0 [] { lastOk := true }).loopOf 3).lastOk = true ∧ (loop 2 0 [] {}).led.staged.length < 1024 := by
  dsimp only [State.Canonical, State.Tables, Reaches]; and_intros <;> decide +kernel

/-- A variable of a class; a program of one instance that reads variable 0 and writes variable 2. -/
def variable_ (cls ty : Nat) : LgeVar := { init := 0, ty := ty, cls := cls, ret := false, chg := true, map := 0 }
def program (ty ca co : Nat) : LgeProg :=
  { insts := [{ ty := ty, a := 0, b := 1, c := 0xFFFF, o1 := 2, o2 := 0xFFFF }], vars := [variable_ ca 0, variable_ 0 1, variable_ co 0],
    ins := [5 + 34 * 2 ^ 24], outs := [(9, 0)], first := 6, ran := true, lastUs := some 159980000 }

/-- Program 3 in a state; an input point of type 8. -/
def logic (n : Nat) (l : List (Nat × Nat)) (g : Option LgeProg) : State :=
  let s := st ([(PTS_CTL, 1), (PTS_BASE_LO, 0x11000000), (LGE_CTL, 1), (LGE_PG_STAT 3, n), (LGE_VAR_BASE_LO, 0x20000000), (LGE_INST_BASE_LO, 0x30000000),
    (LGE_PG_CFG 3, 2 ^ 31), (LGE_PG_OVR 3, 150), (TIME_TRIG_PERIOD 3, 10000000), (TIME_TRIG_STAT 3, 1), (LGE_PG_IMG_LO 3, 0x40000000),
    (LGE_PG_OLC_TGT 3 0, 1), (LGE_PG_OLC_VAL 3 0, 77)] ++ l)
  { s.stWords (s.pointAt 5) [1, 4, 8 * 256, 0, 0, 0, 0, 2 ^ 31 + 4] with clk := 20000000000, lge := FMap.put [] 3 g }

/-- An image of one instance and no variable but its own, in memory for program 3. -/
def imaged : State :=
  let s := (logic 0 [] none).stWords 0x40000000 ([0x4C474350, 1, 1, 4, 3, 0, 0x40, 0x50, 0x68, 0x68, 0x68, 0, 0, 0, 0, 0] ++
    [1, 0 + 2 ^ 16, 0xFFFF + 2 * 2 ^ 16, 0xFFFF, 0, 0, 0, 0, 0, 0])
  s.stWords 0x4000002C [crc32 (s.rdBytes 0x40000040 0x28)]

theorem witness_Programs : (logic 2 [] (some (program 1 2 3))).Canonical ∧ Reaches sup 16 (logic 2 [] none) ∧ (logic 2 [] none).may sup 11 3 .use = true ∧
    imaged.pgState 3 = 0 ∧ imaged.prog 3 = none ∧ imaged.imageCause 3 (imaged.base (LGE_PG_IMG_LO 3) 16) = 0 ∧
    (logic 0 [] none).imageCause 3 0x40000000 ≠ 0 ∧ (logic 2 [] (some (program 1 2 3))).prog 3 = some (program 1 2 3) ∧
    (logic 2 [] (some (program 1 2 3))).scanning 3 = false ∧ (logic 18 [] (some { program 1 2 3 with endAt := 20000000009 })).scanning 3 = true ∧
    (∀ v ∈ (program 1 0 0).vars, v.cls ≠ 3) ∧ (program 1 0 0).vars[1]? = some (variable_ 0 1) ∧ (variable_ 0 1).chg = true ∧
    (logic 1 [] none).varAt 3 1 + 8 ≤ smBase ∧ (logic 2 [] none).bit (TIME_TRIG_STAT 3) 0 = true ∧ 100 ≤ (logic 2 [] none).ovrLimit 3 ∧
    (program 1 2 3).restart = 0 ∧ (program 1 2 3).forces = [] ∧ (logic 2 [] none).forceEntries 3 = [] ∧
    (∀ e ∈ (program 1 2 3).vars.zipIdx, e.1.cls < 2 ∨ e.1.cls = 2 ∧ e.2 = 0 ∨ e.1.cls = 3 ∧ e.2 = 2) ∧
    Apart ((logic 2 [] none).varAt 3 0) 8 ((logic 2 [] none).varAt 3 2) 8 ∧ Apart ((logic 2 [] none).varAt 3 0) 8 ((logic 2 [] none).instAt 6) 16 ∧
    Apart ((logic 2 [] none).pointAt 9) 32 ((logic 2 [] none).instAt 6) 16 ∧ [1, 2, 8].contains ((logic 2 [] none).pointType 5) = true ∧
    (logic 2 [] none).maySlice ((logic 2 [] none).pgOwner 3) 4 9 .wr = true ∧ ((logic 2 [] none).varVal 3 1).2 = 0 ∧
    5 + 60 * tSec ≤ (logic 3 [] (some { program 1 2 3 with holdAt := 5 })).clk := by
  dsimp only [State.Canonical, State.Tables, Reaches, Apart]; and_intros <;> decide +kernel

/-- Controller 1 in a state with its queue; further registers. -/
def canBus (n : Nat) (l : List (Nat × Nat)) (c : Can) : State :=
  { st ([(CAN_STAT 1, n), (CAN_CTL 1, 0x63), (CAN_ECNT 1, 5 + 7 * 256)] ++ l) with
    clk := 20000000000, can := FMap.put [] 1 c, time := { sec := 100, ns := 7 } }
def queueEntry (ctrl gone : Nat) : CanTx := { id := 5, ctrl := ctrl, data := octets 8, slice := 3, gone := gone }
/-- Filters 3 to buffer 5, 100 to the FIFO, 9 to trump. -/
def filters : List (Nat × Nat) :=
  [(CAN_FLT_ID 1 3, 2 ^ 31 + 0x100), (CAN_FLT_MASK 1 3, 0x7F0), (CAN_FLT_ACT 1 3, 5), (CAN_FLT_ID 1 100, 2 ^ 31 + 0x200), (CAN_FLT_MASK 1 100, 0xFFF),
    (CAN_FLT_ACT 1 100, 64), (CAN_FLT_ID 1 9, 2 ^ 31 + 0x300), (CAN_FLT_MASK 1 9, 0xFFF), (CAN_FLT_ACT 1 9, 133)]
/-- Filter `f` of controller 1 takes a data frame of this identifier. -/
def takes (f id : Nat) : Bool :=
  let s := canBus 2 filters {}
  s.bit (CAN_FLT_ID 1 f) 31 && ((id ^^^ s.fld (CAN_FLT_ID 1 f) 28 0) &&& s.fld (CAN_FLT_MASK 1 f) 28 0 == 0)

theorem witness_CanFrames : (canBus 2 filters { queue := [queueEntry 8 0] }).Canonical ∧ CanQuiet 1 (canBus 2 filters {}) ∧
    takes 3 0x105 = true ∧ (∀ j, j < 3 → takes j 0x105 = false) ∧ takes 100 0x200 = true ∧ (∀ j, j < 100 → takes j 0x200 = false) ∧
    takes 9 0x300 = true ∧ (∀ f, f < 128 → takes f 0x777 = false) ∧ bits ((canBus 2 filters {}).rd (CAN_FLT_ACT 1 100)) 6 0 = 64 ∧
    bitAt ((canBus 2 filters {}).rd (CAN_FLT_ACT 1 9)) 7 = true ∧ (canBus 2 [] {}).bit (CAN_RXB 1 5 0) 31 = false ∧
    (canBus 2 [] {}).fld (CAN_FIFO_STAT 1) 5 0 < 32 ∧ (canBus 2 [] {}).fld (CAN_TRUMP_STAT 1) 2 0 < 4 ∧ (canBus 0 [] {}).canOn 1 = false ∧
    (canBus 2 [(CAN_CTL 1, 0x61)] {}).bit (CAN_CTL 1) 1 = false ∧ Reaches sup 17 (canBus 2 [] {}) ∧
    (canBus 2 [] {}).may sup 14 (canUnit 1 64) .rd = true ∧ (canBus 2 [] {}).may sup 14 (canUnit 1 66) .use = true ∧
    (canBus 2 [] { queue := [queueEntry 8 0] }).canOn 1 = true ∧ (queueEntry 72 0).gone = 0 ∧ bitAt (queueEntry 72 0).ctrl 6 = true := by
  dsimp only [State.Canonical, State.Tables, Reaches, CanQuiet]; and_intros <;> decide +kernel

theorem witness_CanStates : (canBus 3 [] { refLast := some (4, 5) }).Canonical ∧ (canBus 3 [] {}).canOn 1 = true ∧ (canBus 3 [] {}).bit (CAN_CTL 1) 8 = false ∧
    (canBus 2 [(CAN_CTL 1, 0x163)] {}).bit (CAN_CTL 1) 8 = true ∧ (canBus 4 [] {}).canState 1 = 4 ∧ (canBus 4 [] {}).bit (CAN_CTL 1) 5 = true ∧
    Sup sup 17 (canBus 4 [] {}) ∧ (canBus 1 [] {}).canState 1 = 1 ∧ bitAt ((canBus 2 [(CAN_REF_CFG 1, 2 ^ 31)] {}).rd (CAN_REF_CFG 1)) 31 = true ∧
    (canBus 2 [] {}).canListens 1 = false ∧ ((canBus 2 [] { refMs := 7 }).canOf 1).refMs ≠ (canBus 2 [] {}).wallNs / 10 ^ 6 / 1 * 1 + 1 ∧
    CanQuiet 1 (canBus 2 [] { refDue := true }) ∧ ((canBus 2 [] { refDue := true }).canOf 1).refDue = true ∧
    (canBus 2 [(CAN_REF_CFG 1, 2 ^ 31 + 2 ^ 30)] {}).mandate = false := by
  dsimp only [State.Canonical, State.Tables, Sup, Reaches, CanQuiet]; and_intros <;> decide +kernel

/-- Baize with these active settings. -/
def guarded (l act : List (Nat × Nat)) (g : Guard) : State :=
  let active := act.foldl (fun m e => FMap.set resetWord e.1 (BitVec.ofNat 32 e.2) m) g.active
  { st ([(GRD_STAT, 2), (LED_CTL, 1), (RED_STAT, 8 + 0x30), (RED_HEALTH, 0x33)] ++ l) with
    clk := 20000000000, complete := true, guard := { g with active := active } }

theorem witness_Baize : (guarded [] [(GRD_CTL, 1), (GRD_OUT_CFG 0, 0x101)] {}).Canonical ∧ (guarded [] [] {}).led.staged.length + 16 ≤ 1024 ∧
    (guarded [] [] {}).ledRunning = true ∧ (guarded [] [] {}).power.ao = true ∧ (guarded [] [] {}).bit GRD_STAT 1 = true ∧
    ((guarded [] [] {}).guard.sets + 1) % 64 ≠ 0 ∧ (∀ e, e < 8 → bitAt ((guarded [] [] {}).act (GRD_EL_CFG e)) 31 = false) ∧
    (∀ e, e < 8 → bitAt ((guarded [] [(GRD_EL_CFG 7, 2 ^ 31 + 2 ^ 28 + 0x100)] {}).act (GRD_EL_CFG e)) 31 = true →
      bits ((guarded [] [(GRD_EL_CFG 7, 2 ^ 31 + 2 ^ 28 + 0x100)] {}).act (GRD_EL_CFG e)) 15 8 ≠ 0) ∧
    (guarded [(GRD_STAT, 2 + 2 ^ 8)] [(GRD_OUT_CFG 0, 5 * 2 ^ 16 + 1)] {}).bit GRD_STAT 8 = true ∧ (guarded [] [] {}).operating = 0 ∧
    0 + bits ((guarded [] [(GRD_OUT_CFG 0, 5 * 2 ^ 16 + 1)] {}).act (GRD_OUT_CFG 0)) 31 16 * tMs ≤ 20000000000 ∧ (guarded [] [] {}).power.refOk = true ∧
    ((signed 16 27306) * 120 - 3276800).natAbs ≤ 16384 ∧ ¬((signed 16 27100) * 120 - 3276800).natAbs ≤ 16384 ∧ (guarded [] [] {}).guard.sets = (guarded [] [] {}).guard.lastSet ∧
    Sup dap 22 (guarded [] [] {}) ∧ (guarded [] [] {}).mandate = true ∧ ¬(guarded [] [] {}).health ≤ 1 ∧
    (guarded [(GRD_STAT, 2 + 0xF00)] [] {}).bit GRD_STAT 11 = true ∧ (guarded [] [] {}).rd GRD_BIN_CFG = (guarded [] [] {}).act GRD_BIN_CFG ∧
    (∀ b, b < 8 → (guarded [] [] {}).bit GRD_STAT (12 + b) = (bitAt (guarded [] [] {}).guard.binRaw b != bitAt ((guarded [] [] {}).act GRD_BIN_CFG) b)) ∧
    (∀ e, e < 8 → (guarded [] [] {}).bit (GRD_EL_STAT e) 1 = false) := by
  dsimp only [State.Canonical, State.Tables, Sup, Reaches]; and_intros <;> decide +kernel

/-- The backup domain; further registers. -/
def backup (l : List (Nat × Nat)) (b : Machine.Backup) : State := { st l with clk := 20000000000, bkd := b, complete := true }

theorem witness_Backup : (backup [] { rtc := 5, lossRec := false }).Canonical ∧ (backup [] {}).power.ao = true ∧ bitAt ((backup [] {}).rd BKD_STAT) 4 = false ∧
    (backup [(TMP_LVL, 0)] {}).tamperLevel 5 = 0 ∧ (backup [] {}).ledReady = true ∧ Sup sup 21 (backup [] {}) ∧
    (backup [] {}).bit (BKD_ALM_CTL 0) 0 = false ∧ (backup [] {}).bit (BKD_ALM_CTL 1) 0 = false ∧ 2 ^ 50 ≤ (backup [] { rtc := 2 ^ 50 }).bkd.rtc ∧
    bits ((backup [(BKD_ALM_CAL0 1, 59 + 59 * 2 ^ 8 + 23 * 2 ^ 16 + 7 * 2 ^ 24)] {}).rd (BKD_ALM_CAL0 1)) 5 0 < 60 ∧
    bits ((backup [(BKD_ALM_CAL1 1, 31 + 4 * 2 ^ 8)] {}).rd (BKD_ALM_CAL1 1)) 4 0 = 31 ∧ (backup [(BKD_STAT, 1), (BKD_ALM_CTL 1, 3)] {}).power.bk = true ∧
    bitAt (backup [] { almFresh := 3 }).bkd.almFresh 1 = true ∧ bitAt ((backup [(BKD_STAT, 16)] {}).rd BKD_STAT) 4 = true ∧
    (backup [] { pulseEnd := some 20000000000 }).bkd.pulseEnd = some 20000000000 ∧ bitAt ((backup [(BKD_STAT, 8)] {}).rd BKD_STAT) 3 = true ∧
    (backup [] { copies := [⟨4, 5, 6⟩], copyDue := true }).bkd.copies = [⟨4, 5, 6⟩] ∧ (calOf (backup [] {}).rtcSecs).year ≠ (backup [] { year := 5 }).bkd.year := by
  dsimp only [State.Canonical, State.Tables, Sup, Reaches]; and_intros <;> decide +kernel

/-- A record staged; the array's slots in use. -/
def record (sev : Nat) : LedRec := ⟨sev, 2, true, 7, 0x1234, 5, 6, 7, 8, 9, 3, [1, 2 ^ 33 + 2, 3], 20000000000⟩
def slots : FMap (Nat × Nat) := [(0, (7, 3)), (1, (8, 3)), (3, (6, 1))]
def ledger (l : List (Nat × Nat)) (x : Ledger) : State := { st l with clk := 20000000000, led := x }

theorem witness_LedgerArray : (ledger [(LED_STAT, 0)] { staged := [record 5], slots := slots }).Canonical ∧
    Sup sup 20 (ledger [] {}) ∧ (ledger [] {}).bit LED_SW_STAT 0 = false ∧ (ledger [(LED_SW_STAT, 1)] {}).bit LED_SW_STAT 0 = true ∧ 5 ≤ (record 5).sev ∧
    (ledger [(LED_STAT, 0)] {}).bit LED_STAT 0 = false ∧ (ledger [] {}).power.nx = true ∧ (ledger [] {}).power.mem = true ∧ 2 < ledSlots ∧
    slots.at' 2 = (0, 0) ∧ (∀ j, j < 2 → slots.at' j ≠ (0, 0)) ∧
    (ledger [(LED_STAT, 1)] {}).bit LED_STAT 0 = true ∧ { State.reset with bkd := { lossRec := false } }.bkd.lossRec = false ∧
    (∀ e ∈ slots, e.2.1 < 2 ^ 32 ∧ (e.2.1 + 2 ^ 32 - 6 % 2 ^ 32) % 2 ^ 32 < 2 ^ 31) := by
  dsimp only [State.Canonical, State.Tables, Sup, Reaches]; and_intros <;> decide +kernel


/-! ### Keys and tamper (chapter 17) -/

/-- The key store with slots 3 and 5; further registers. -/
def keyed (l : List (Nat × Nat)) : State :=
  { st ([(LED_CTL, 1), (LED_STAT, 0), (KEY_STAT, 1), (KEY_SLOT_ATTR 5, 0x0103), (KEY_SLOT_ATTR 3, 0x2003), (KEY_SLOT_STAT 3, 1)] ++ l) with
    clk := 20000000000, complete := true }

/-- The staged operands of master 12. -/
def staging12 : List (Nat × Nat) :=
  [(bank 12 KEY_OP_LEN, 16), (bank 12 (KEY_OP_ADDR_LO 0), 0x1000), (bank 12 (KEY_OP_ADDR_LO 1), 0x2000), (bank 12 (KEY_OP_ADDR_LO 2), 0x3000)]

/-- What refuses a command of the debug port. -/
def refusal (s : State) (op k aux : Nat) : Option Nat := ((refusals s dap op k aux).find? (·.1)).map (·.2)

theorem witness_KeyCommands : (keyed staging12).Canonical ∧ Reaches dap 18 (keyed staging12) ∧
    KeyCommand dap 5 3 false (Instr.loadWrapped dap 5 3, 2, 5, 3, false) ∧ (keyed []).bit KEY_CTL 0 = true ∧ (keyed [(KEY_CTL, 0)]).bit KEY_CTL 0 = false ∧
    privileged dap = true ∧ (keyed []).may dap 15 5 .wr = true ∧ (keyed []).may dap 15 3 .use = true ∧ (keyed []).mayDram dap 0x1000 16 .rd = true ∧
    refusal (keyed []) 2 5 3 = none ∧ refusal (keyed []) 6 5 0 = some 1 ∧ refusal (keyed [(KEY_STAT, 9)]) 5 5 0 = some 3 ∧
    refusal (keyed [(KEY_SLOT_ATTR 5, 0x0F02), (KEY_SLOT_STAT 5, 1)]) 7 5 0 = none ∧ privileged three = false := by
  dsimp only [State.Canonical, State.Tables, Reaches, KeyCommand]; and_intros <;> decide +kernel

theorem witness_SlotCommands : (keyed []).Canonical ∧ Reaches dap 18 (keyed []) ∧ (keyed []).fld (KEY_SLOT_STAT 5) 1 0 = 0 ∧
    (keyed []).fld (KEY_SLOT_STAT 3) 1 0 = 1 ∧ (keyed [(KEY_SLOT_STAT 3, 3)]).fld (KEY_SLOT_STAT 3) 1 0 = 3 ∧ Sup dap 18 (keyed []) ∧
    Sup sup 18 (keyed []) ∧ sup.master.val ≠ 12 ∧ (keyed []).led.staged.length < 1024 ∧ (keyed []).mandate = false ∧ (keyed []).bit KEY_STAT 3 = false ∧
    (keyed [(RED_STAT, 8)]).mandate = true ∧ Sup dap 19 (keyed []) ∧ (keyed []).fld TMP_STAT 4 0 = 0 ∧ (keyed [(TMP_STAT, 1)]).fld TMP_STAT 4 0 ≠ 0 := by
  dsimp only [State.Canonical, State.Tables, Sup, Reaches]; and_intros <;> decide +kernel

/-- An operation of master 1 on slot 5, its source octets 0, 1, 2, … -/
def operation (cmd len : Nat) : State :=
  { withMem 0x1000 (octets len) (keyed []) with
    keyOps := [(1, some ⟨3, cmd, len, 0x1000, 0x2000, 0x3000⟩)], keys := [(3, octets 32), (5, octets 32)] }

/-- A GMAC_VER of slot 5 whose tag is the one of the octets. -/
def tagged : State := withMem 0x3018 (gmac (octets 32) (List.replicate 12 0) (octets 4)) (operation 0x509 4)

theorem witness_KeyOperations : (operation 0x501 32).Canonical ∧ (operation 0x501 32).keyOps.at' 1 = some ⟨3, 0x501, 32, 0x1000, 0x2000, 0x3000⟩ ∧
    State.reset.keyOps.at' 1 = none ∧ ((operation 0x501 32).rdBytes 0x1000 32).length = [0, 32, 16, 32, 65, 97, 48].getD (bits ((operation 0x501 32).rd (KEY_SLOT_ATTR 5)) 7 0) 0 ∧
    ((operation 0x501 31).rdBytes 0x1000 31).length ≠ 32 ∧ bits 0x30502 21 16 = 3 ∧ 0x2000 + 4 ≤ 0x3000 + 24 ∧
    gmac (octets 32) ((tagged).rdBytes 0x3000 12) (tagged.rdBytes 0x1000 4) = tagged.rdBytes 0x3018 16 := by
  dsimp only [State.Canonical, State.Tables]; and_intros <;> decide +kernel

theorem witness_Tamper : (keyed [(TMP_LVL, 3)]).Canonical ∧ (keyed []).power.ao = true ∧ (keyed []).led.staged.length < 1023 ∧ (keyed []).ledReady = true ∧
    (keyed [(TMP_LVL, 3)]).fld TMP_LVL 1 0 = 3 ∧ (keyed []).bit TMP_STAT 0 = false ∧ (keyed [(TMP_STAT, 0x1F)]).bit TMP_STAT 4 = true ∧
    (keyed [(TMP_STAT, 0x1F)]).bit TMP_STAT 1 = true := by
  dsimp only [State.Canonical, State.Tables]; and_intros <;> decide +kernel


/-- The module 20 s after reset, with these further registers. -/
def powered (l : List (Nat × Nat)) : State :=
  { st ([(LED_CTL, 1), (XEC_STAT, 4), (RED_STAT, 8), (SYS_SECVER, 4)] ++ l) with
    clk := 20000000000, boot := { due := 0 } }

theorem witness_Resets : (powered []).Canonical ∧ ({ powered [] with power := { ao := false } } : State).power.ao = false ∧
    (powered []).power.ao = true ∧ (powered []).power.nx = true ∧ (powered []).boot.recovery = false ∧
    ({ powered [] with boot := { recovery := true } } : State).boot.recovery = true ∧ (powered []).boot.resetAt + 30 * tSec ≤ 20000000000 ∧
    Sup dap 0 (powered []) ∧ Sup sup 0 (powered []) ∧ (∀ k, k < 256 → (powered []).fld (XEC_SL_XSTAT k) 2 0 ≠ 1) ∧
    (powered [(XEC_SL_XSTAT 3, 1)]).fld (XEC_SL_XSTAT 3) 2 0 = 1 ∧ (powered []).led.staged = [] ∧ (powered []).boot.due = 0 ∧
    (powered []).complete = false ∧ (powered []).bit SYS_START_STAT 6 = false ∧ (powered [(SYS_START_STAT, 64)]).bit SYS_START_STAT 6 = true ∧
    (powered []).bit TAE_CTL 1 = false ∧ (powered []).bit RED_CTL 1 = false ∧ (powered [(RED_CTL, 2), (RED_STRAP, 1)]).bit RED_CTL 1 = true ∧
    (powered [(RED_CTL, 2), (RED_STRAP, 1)]).fld RED_STRAP 1 0 ≠ 0 ∧
    ({ powered [] with power := { nx := false, retry := some 5 } } : State).power.retry = some 5 ∧ (powered []).power.retry = none := by
  dsimp only [State.Canonical, State.Tables, Sup, Reaches]; and_intros <;> decide +kernel

/-- A boot image of security version 5 with one RETAIN section of 16 octets and keys of zeros. -/
def image : List Byte :=
  let data := bytesLE 16 0x10001000
  let body := padTo 64 (bytesLE 4 (6 + 3 * 2 ^ 8) ++ bytesLE 4 0x110 ++ bytesLE 4 16 ++ bytesLE 4 (crc32 data) ++ data)
  let len := (0x140 + 0x868 + 3309 + 63) / 64 * 64
  padTo len ([0x544C4F42, 1, len, 5, 1, 1, 0x140, 0xABCD].flatMap (bytesLE 4) ++ Machine.sha384 body ++ List.replicate 176 0 ++ body)

/-- A start that is due; further registers. -/
def starting (due : Nat) (l : List (Nat × Nat)) : State := { powered l with boot := { due := due, seedDue := false } }

/-- A warm start that is due over the image in DRAM, with its token. -/
def warmStart : State :=
  let l := [0x574D5354, 0xABCD, 7]
  let t := [(BKD_WTOKEN 0, 0x574D5354), (BKD_WTOKEN 1, wordLE image 0x20), (BKD_WTOKEN 2, 7)]
  let s := starting 2 (t ++ [(BKD_WTOKEN 3, crc32 ((0x574D5354 :: wordLE image 0x20 :: l.drop 2).flatMap (bytesLE 4)))])
  { s with mem := (image.take 320).mapIdx (fun i b => (0x1FC000000 + i, b)) |>.filter (fun e => e.2 ≠ 0), boot := { due := 2, seedDue := false, kept := true } }

theorem witness_Starts : (starting 1 []).Canonical ∧ (starting 1 []).boot.due = 1 ∧ (starting 1 []).power.nx = true ∧ (starting 0 []).boot.due ≠ 1 ∧
    (starting 2 []).boot.due = 2 ∧ (starting 1 []).tamperHolds = false ∧ (starting 1 [(TMP_STAT, 2)]).tamperHolds = true ∧
    triedCopies (starting 1 []) = [0] ++ 1 :: [] ∧ triedCopies (starting 2 []) = [] ++ 0 :: [1] ∧ causeOf (starting 1 []) none = (6, 0) ∧
    (causeOf (starting 1 []) (some [])).1 ≠ 0 ∧ denied (starting 2 []) none none = 1 ∧ warmStart.rdBytes 0x1FC000000 320 = image.take 320 ∧
    (∀ x ∈ imgSections image, x.type = 6 ∧ x.phase ≠ 0) ∧ imgSections image ≠ [] := by
  dsimp only [State.Canonical, State.Tables]; and_intros <;> decide +kernel

theorem image_form : imgForm image = true := by decide +kernel

/-- The image verifies where the fused anchors are those of its keys and its signatures hold (both are opaque to Lean). -/
theorem witness_Starts_verifies (anchors : anchorsOk image = true) (signed : signedOk image = true) :
    causeOf (starting 1 []) (some image) = (0, 0) := by
  simp only [causeOf, image_form, anchors, signed]; decide +kernel

/-- Where the image verifies, the warm start over it is not denied. -/
theorem witness_Starts_warm (anchors : anchorsOk image = true) (signed : signedOk image = true) :
    denied warmStart (some image) none = 0 := by
  have first : (triedCopies warmStart).headD 0 = 0 := by decide +kernel
  simp only [denied, first, if_true, Option.getD_some, image_form, anchors, signed]; decide +kernel

/-- A power failure under way; further registers. -/
def failing (l : List (Nat × Nat)) : State := { powered l with boot := { due := 0, pfailAt := some 5 } }

/-- The module with this power state; further registers. -/
def domains (l : List (Nat × Nat)) (p : Power) : State := { powered l with power := p }

theorem witness_PowerFailures : (powered []).Canonical ∧ (failing []).boot.pfailAt = some 5 ∧ (powered []).boot.pfailAt = none ∧
    (powered [(BKD_STAT, 0)]).bit BKD_STAT 3 = false ∧ (powered [(LED_STAT, 1)]).ledReady = false ∧ (powered []).led.staged.length < 1024 ∧
    (powered [(LED_STAT, 0)]).ledReady = true ∧ (failing [(SYS_PF_CFG, 0x701)]).bit SYS_PF_CFG 0 = true ∧ (failing []).boot.retained = false ∧
    5 + max ((failing [(SYS_PF_CFG, 0x701)]).fld SYS_PF_CFG 15 8) 1 * tMs ≤ 20000000000 ∧ (failing []).led.staged = [] ∧
    Sup dap 0 (powered []) ∧ Sup sup 0 (powered []) ∧ (powered [(RED_STAT, 3)]).member = 3 ∧ (powered []).member ∉ [3, 4, 6] ∧
    (powered []).power.nxEn = true ∧ (powered []).power.nxUpAt + 20 * tMs ≤ 20000000000 ∧
    (domains [] { cxOffAt := some 20000000000 }).power.cxOffAt = some 20000000000 ∧
    (powered []).power.cxEn = true ∧ (powered []).power.cxEnAt + 10 * tMs ≤ 20000000000 ∧ (domains [] { nx := false }).power.nx = false ∧
    (domains [] { ao := false }).power.ao = false ∧ (powered [(GRD_STAT, 2 + 2 ^ 11)]).bit GRD_STAT (8 + 3) = true := by
  dsimp only [State.Canonical, State.Tables, Sup, Reaches]; and_intros <;> decide +kernel

/-- A flash command under way on interface 1. -/
def flashing (o : XspiOp) : State := { powered [] with boot := { due := 0, xspi := [(1, some o)] } }

theorem witness_ScrubAndFlash : (powered [(XEC_CTL, 32)]).Canonical ∧ (powered [(XEC_CTL, 32)]).bit XEC_CTL 5 = true ∧ (powered []).power.mem = true ∧
    (powered []).led.staged.length < 1024 ∧ Sup dap 0 (powered []) ∧ Sup sup 0 (powered []) ∧ bitAt ((powered []).rd (SYS_XSPI_STAT 1)) 0 = false ∧
    bitAt ((powered []).rd (SYS_XSPI_STAT 1)) 2 = false ∧ (powered []).fld SYS_START_STAT 3 3 ≠ 1 ∧ (powered []).fld SYS_START_STAT 3 3 = 0 ∧
    (powered [(SYS_XSPI_LEN 1, 2 ^ 26)]).rd (SYS_XSPI_LEN 1) = 2 ^ 26 ∧ bitAt ((powered [(SYS_XSPI_STAT 1, 4)]).rd (SYS_XSPI_STAT 1)) 2 = true ∧
    2 ^ 26 < (powered [(SYS_XSPI_LEN 0, 2 ^ 26 + 1)]).rd (SYS_XSPI_LEN 0) ∧ (powered []).boot.xspi.at' 1 = none ∧
    (∀ c, 1 ≤ c → c < 4 → (flashing ⟨c, 0x10000, 5, 64⟩).boot.xspi.at' 1 = some ⟨c, 0x10000, 5, 64⟩) ∧
    ¬((2 = 3 ∨ 0x1FFFFFFFC + 5 ≤ 0x200000000) : Prop) := by
  dsimp only [State.Canonical, State.Tables, Sup, Reaches]; and_intros <;> decide +kernel

theorem witness_TimeCounts : State.reset.power.nx = true ∧ State.reset.time.sec < 2 ^ 48 ∧
    State.reset.time.ns * 2 ^ 32 + State.reset.time.frac + State.reset.time.incr < 1000000000 * 2 ^ 32 ∧
    1000000000 * 2 ^ 32 ≤ 999999999 * 2 ^ 32 + State.reset.time.incr ∧ TimeOk State.reset.time ∧ TimeOk { ns := 999999999 } := by
  dsimp only [TimeOk]; and_intros <;> decide +kernel

theorem witness_ClockTrim : (-256 : Int) ≤ 7 ∧ (7 : Int) ≤ 256 ∧ 2 < (7 : Int).natAbs ∧
    ({ State.reset with bkd := { trimN := 7, trimPos := 2 * (2 ^ 20 / 7) } } : State).bkd.trimPos = 2 * (2 ^ 20 / 7) := by
  and_intros <;> decide +kernel

theorem witness_StepKeeps : State.reset.Canonical ∧ TimeOk State.reset.time ∧
    step { State.reset with pending := [] } = .next (State.tick { State.reset with pending := [] }) := by
  dsimp only [State.Canonical, State.Tables, TimeOk]; refine ⟨?_, ?_, rfl⟩ <;> decide +kernel

end Sys2Proof.Tests
end

section
/-!
PROOF. A write of sample memory is a violation, and the violation need not leave memory alone: it aborts the pass, and the
abort restores the slice's window from its image (R190, R214).
-/

namespace Sys2Proof.Machine

open Sys2Proof.Claims

/-- R28: an open write of sample memory by any master ends as a violation of its first octet. -/
theorem State.access_write_sampleMemory {s : State} {w : Who} {a n v : Nat} (hst : s.stalled w = false)
    (ho : Open w a n .wr s) (hr : region a = 2) : s.access w a n .wr v = s.memViolate w a .wr := by
  obtain ⟨hreg, hplace, hon, hcov⟩ := ho
  simp [State.access, State.memAccess, hst, hreg, hplace, hon, hcov, hr]

/-- Slice 0 runs a pass on pair 1 and holds window page 0. Its last complete image, in bank 0 at address 0, has 5 in the
first octet of the window region (R180, R227); the window itself reads 0. -/
def imageAhead : State :=
  { (State.reset.setReg (XEC_PAIR_STAT 1) 1).setReg (XEC_SL_CFG 0) (2 ^ 31 + 2 ^ 19) with
    pairs := [(1, { running := 1 })]
    slices := [(0, { pass := some { running := true, deadline := 1000000000 }, img0 := { valid := true, gen := 1 } })]
    grants := [(1, { valid := true, kind := 3, count := 1, wr := true, rd := true })]
    mem := [(0x1000, 5)] }

theorem imageAhead_canonical : imageAhead.Canonical := by
  dsimp only [State.Canonical, State.Tables]; decide +kernel

theorem imageAhead_not_stalled : imageAhead.stalled (pairWho 1 0) = false := by decide +kernel

theorem imageAhead_open : Open (pairWho 1 0) 0x4000000000 4 .wr imageAhead := by
  dsimp only [Open]; decide +kernel

/-- The abort copies the image's octet into the window. -/
theorem imageAhead_violation_restores_window :
    (imageAhead.memViolate (pairWho 1 0) 0x4000000000 .wr).rdByte (windowAddr 0) = 5 := by decide +kernel

/-- Refutes O6 in its last clause, `t.mem = s.mem`: slice 0's write of sample memory aborts its pass (R214), and the restore
of R190 puts the image's 5 over the 0 in its window. -/
theorem not_loadsAndStores : ¬ Obligations.LoadsAndStores := by
  unfold Obligations.LoadsAndStores
  intro h
  obtain ⟨-, -, -, sampleWrite⟩ := h imageAhead imageAhead_canonical
  obtain ⟨t, ht, hmem, -⟩ :=
    sampleWrite (pairWho 1 0) 0x4000000000 4 0 imageAhead_not_stalled imageAhead_open (by decide)
  have hstep : imageAhead.memViolate (pairWho 1 0) 0x4000000000 .wr = t := by
    rw [← State.access_write_sampleMemory (v := 0) imageAhead_not_stalled imageAhead_open (by decide)]
    exact Host.Outcome.next.inj ht
  have hwindow : t.rdByte (windowAddr 0) = 5 := hstep ▸ imageAhead_violation_restores_window
  have hbefore : t.rdByte (windowAddr 0) = 0 := by
    rw [State.rdByte, hmem]; decide +kernel
  exact absurd (hwindow.symm.trans hbefore) (by decide)

end Sys2Proof.Machine
end

section
/-!
PROOF. Tables in canonical form and the answers of masters: what a read gives after a write.
-/

namespace Sys2Proof.Machine

open Sys2Proof.Claims

theorem FMap.at'_put_same {α : Type} [Inhabited α] [DecidableEq α] {m : FMap α} {k : Nat} {v : α} (hm : FMap.tidy m = true) :
    (m.put k v).at' k = v := FMap.get_set_same hm

theorem FMap.at'_put_other {α : Type} [Inhabited α] [DecidableEq α] {m : FMap α} {k j : Nat} {v : α} (h : j ≠ k) :
    (m.put k v).at' j = m.at' j := FMap.get_set_other h v m

theorem FMap.at'_mod_same {α : Type} [Inhabited α] [DecidableEq α] {m : FMap α} {k : Nat} {f : α → α}
    (hm : FMap.tidy m = true) : (m.mod k f).at' k = f (m.at' k) := FMap.at'_put_same hm

namespace State

theorem Canonical.regsOk {s : State} (h : s.Canonical) : s.RegsOk := h.2.1

theorem Canonical.replyTidy {s : State} (h : s.Canonical) : FMap.tidy s.reply = true := h.2.2.1

theorem Canonical.tables {s : State} (h : s.Canonical) : s.Tables := h.2.2.2

theorem Canonical.slicesTidy {s : State} (h : s.Canonical) : FMap.tidy s.slices = true := by
  obtain ⟨-, -, -, -, -, -, -, -, -, -, slices, -⟩ := h.tables
  exact slices

/-- The master reads the answer it was given last. -/
theorem reply_answer {s : State} {m : Nat} {r : Reply} (h : FMap.tidy s.reply = true) : (s.answer m r).reply.at' m = r :=
  FMap.at'_put_same h

/-- An answer leaves the table of answers in canonical form. -/
theorem replyTidy_ok {s : State} {w : Who} (h : FMap.tidy s.reply = true) : FMap.tidy (s.ok w).reply = true :=
  FMap.tidy_put h

end State

theorem regsBut_setReg {s : State} {a v : Nat} : RegsBut [a] s (s.setReg a v) :=
  fun _ hb => State.rd_setReg_ne (by simpa using hb)

theorem RegsBut.trans {rs : List Nat} {s t u : State} (h : RegsBut rs s t) (k : RegsBut rs t u) : RegsBut rs s u :=
  fun a ha => (k a ha).trans (h a ha)

end Sys2Proof.Machine
end

section
/-!
PROOF. Fences, doorbells and MARK.WAIT (R41, R42, R203).
-/

namespace Sys2Proof.Machine

open Sys2Proof.Claims

/-! ### Doorbells -/

theorem blkOf_fenceDoorbell {n : Nat} (hn : n < 13) : blkOf (SYS_FENCE_DB n) = 0 := by
  simp only [blkOf, SYS_FENCE_DB]; omega

/-- R42: a doorbell of its own master, none under way, starts a fence of its kind. -/
theorem State.doorbell_own {s : State} {w : Who} {k : Nat} (h : Sup w 0 s) (hidle : s.bit (SYS_FENCE_STAT w.master) 0 = false) :
    s.doorbell w w.master k = { s.ok w with door := s.door.put w.master k }.setReg (SYS_FENCE_STAT w.master) 1 := by
  obtain ⟨⟨hstall, hon⟩, hpriv⟩ := h
  rw [State.doorbell, State.gateSup_open hstall (by rwa [blkOf_fenceDoorbell w.master.isLt]) hpriv]
  simp [hidle]

theorem doorbell_effect {s : State} (hs : s.Canonical) {w : Who} {k : Nat} (h : Sup w 0 s)
    (hidle : s.bit (SYS_FENCE_STAT w.master) 0 = false) :
    let t := s.doorbell w w.master k
    t.rd (SYS_FENCE_STAT w.master) = 1 ∧ t.door = s.door.put w.master k ∧ RegsBut [SYS_FENCE_STAT w.master] s t ∧
      t = { s with regs := t.regs, reply := t.reply, door := t.door } := by
  rw [State.doorbell_own h hidle]
  exact ⟨State.rd_setReg_same hs.regsOk, rfl, regsBut_setReg, rfl⟩

/-! ### Fence instructions and the completion of a fence -/

/-- R41: the pair issues nothing until the fence is complete. -/
theorem State.fence_running {s : State} {p : Fin 12} {n k : Nat} (hrun : s.runningOn p = some n)
    (hst : s.stalled (pairWho p n) = false) : s.fence p k = { s with stall := s.stall.put p k } := by
  rw [State.fence, State.issue, hrun]
  exact if_neg (by rw [hst]; exact Bool.false_ne_true)

theorem doorbellComplete_effect {s : State} (hs : s.Canonical) {m : Nat} (hdoor : s.door.at' m ≠ 0) :
    let t := s.fenceComplete m true
    t.bit (SYS_FENCE_STAT m) 0 = false ∧ t.bit (SYS_FENCE_STAT m) 1 = true ∧ RegsBut [SYS_FENCE_STAT m] s t ∧
      t = { s with regs := t.regs, door := s.door.put m 0 } := by
  have hregs : ({ s with door := s.door.put m 0 } : State).RegsOk := hs.regsOk
  have ht : s.fenceComplete m true =
      ({ s with door := s.door.put m 0 }.setBit (SYS_FENCE_STAT m) 0 false).setBit (SYS_FENCE_STAT m) 1 true := by
    simp [State.fenceComplete, hdoor]
  rw [ht]
  refine ⟨?_, State.bit_setBit_same (State.regsOk_setBit hregs) (by decide), ?_, rfl⟩
  · rw [State.bit_setBit_other (State.regsOk_setBit hregs) (by decide) (.inr (by decide))]
    exact State.bit_setBit_same hregs (by decide)
  · exact RegsBut.trans (t := { s with door := s.door.put m 0 }.setBit (SYS_FENCE_STAT m) 0 false) regsBut_setReg regsBut_setReg

/-! ### MARK.WAIT -/

/-- R12, R28: a load that nothing stops answers the octets at its address. -/
theorem State.access_load {s : State} {w : Who} {a n v : Nat} (hst : s.stalled w = false) (ho : Open w a n .rd s)
    (hc : Clean a n s) : s.access w a n .rd v = s.okData w (s.ld a n) := by
  obtain ⟨hreg, hplace, hon, hcov⟩ := ho
  have hclean : s.poisoned a n = false := hc
  simp [State.access, State.memAccess, hst, hreg, hplace, hon, hcov, hclean]

theorem State.runningOn_lt {s : State} {p n : Nat} (h : s.runningOn p = some n) : n < 256 := by
  simp only [State.runningOn] at h
  split at h
  · simp only [Option.some.injEq] at h; omega
  · simp at h

theorem pairWho_slice {p : Fin 12} {n : Nat} {pc : BitVec 64} (hn : n < 256) : (pairWho p n pc).slice.val = n :=
  Nat.mod_eq_of_lt hn

/-- R203: while the word is unchanged and the pass is not due, a waiting pass waits on. -/
theorem State.markWake_unchanged {s : State} {p n a v : Nat} (hw : (s.sl n).waitAt = some (a, v))
    (heq : s.markWord p a / 8 = v / 8) (hdue : ∀ ps, (s.sl n).pass = some ps → s.passDue ps = false) : s.markWake p n = s := by
  simp only [State.markWake, hw, heq]
  cases hp : (s.sl n).pass with
  | none => simp
  | some ps => simp [hdue ps hp]

/-- R203: a changed word wakes the pass, which reads it. -/
theorem State.markWake_changed {s : State} {p n a v : Nat} (hw : (s.sl n).waitAt = some (a, v))
    (hne : s.markWord p a / 8 ≠ v / 8) :
    s.markWake p n = (s.modSl n (fun sl => { sl with waitAt := none, timeout := false })).answer p { data := s.markWord p a } := by
  simp only [State.markWake, hw]
  rw [if_pos hne]

theorem State.sl_modSl_same {s : State} {n : Nat} {f : Slice → Slice} (h : FMap.tidy s.slices = true) :
    (s.modSl n f).sl n = f (s.sl n) := FMap.at'_mod_same h

/-- The slice in MARK.WAIT on a word it has read as `v` (R203). -/
def Slice.waiting (a v : Nat) (sl : Slice) : Slice := { sl with waitAt := some (a, v), timeout := false }

/-- R203: a MARK.WAIT whose word has not changed makes its pass wait. -/
theorem State.markWait_waits {s : State} (hs : s.Canonical) {p : Fin 12} {pc : BitVec 64} {n a v : Nat}
    (hrun : s.runningOn p = some n) (hst : s.stalled (pairWho p n) = false) (ho : Open (pairWho p n) a 4 .rd s)
    (hc : Clean a 4 s) (heq : s.ld a 4 / 8 = v / 8) (hdue : ∀ ps, (s.sl n).pass = some ps → s.passDue ps = false) :
    s.markWait p pc a v = (s.okData (pairWho p n pc) (s.ld a 4)).modSl n (Slice.waiting a v) := by
  have hstpc : s.stalled (pairWho p n pc) = false := hst
  have hload : s.access (pairWho p n pc) a 4 .rd 0 = s.okData (pairWho p n pc) (s.ld a 4) := State.access_load hst ho hc
  have hans : (s.okData (pairWho p n pc) (s.ld a 4)).reply.at' p = { data := s.ld a 4 } := State.reply_answer hs.replyTidy
  have hrunOn : (s.okData (pairWho p n pc) (s.ld a 4)).runningOn p = some n := hrun
  have hsl : ((s.okData (pairWho p n pc) (s.ld a 4)).modSl n (Slice.waiting a v)).sl n = (s.sl n).waiting a v :=
    State.sl_modSl_same hs.slicesTidy
  have hwake : ((s.okData (pairWho p n pc) (s.ld a 4)).modSl n (Slice.waiting a v)).markWake p n =
      (s.okData (pairWho p n pc) (s.ld a 4)).modSl n (Slice.waiting a v) := by
    refine State.markWake_unchanged (by rw [hsl]; rfl) ?_ fun ps hps => hdue ps (by rw [hsl] at hps; exact hps)
    obtain ⟨hreg, -⟩ := ho
    rwa [State.markWord, if_neg (by rw [hreg]; exact Bool.false_ne_true)]
  simp only [State.markWait, State.issue, hrun, hstpc, pairWho_slice (State.runningOn_lt hrun), hload, hans, hrunOn]
  exact (if_neg (by simp)).trans ((if_neg (by simp)).trans hwake)

/-- Settles O8: each command that nothing stops is one of the four rules above. -/
theorem fences : Obligations.Fences := by
  unfold Obligations.Fences
  intro s hs
  refine ⟨?doorbells, ?instructions, fun m => ⟨⟨_, rfl, rfl⟩, fun hdoor => ⟨_, rfl, doorbellComplete_effect hs hdoor⟩⟩, ?waits, ?wakes⟩
  case doorbells =>
    rintro w n rfl hsup hidle ck hck
    simp only [List.mem_cons, List.not_mem_nil, or_false] at hck
    rcases hck with rfl | rfl | rfl | rfl <;> exact ⟨_, rfl, doorbell_effect hs hsup hidle⟩
  case instructions =>
    intro p n hrun hst ck hck
    simp only [List.mem_cons, List.not_mem_nil, or_false] at hck
    rcases hck with rfl | rfl | rfl | rfl <;> exact ⟨_, rfl, State.fence_running hrun hst⟩
  case waits =>
    intro p pc n a v hrun hst ho hc heq hdue
    refine ⟨_, rfl, ?_⟩
    rw [State.markWait_waits hs hrun hst ho hc heq hdue]
    exact ⟨rfl, rfl⟩
  case wakes =>
    intro p n a v hrun hw hne
    refine ⟨s.markWake p n, by show execMarkWaitWake p s = _; simp [execMarkWaitWake, hrun], ?_⟩
    rw [State.markWake_changed hw hne]
    exact ⟨rfl, State.reply_answer hs.replyTidy, rfl⟩

end Sys2Proof.Machine
end

section
/-!
PROOF. Memory: what a read gives after a store, and that a store changes memory alone.
-/

namespace Sys2Proof.Machine

open Sys2Proof.Claims

/-! ### Octets of numbers (R12) -/

theorem length_bytesLE (n v : Nat) : (bytesLE n v).length = n := by
  induction n generalizing v with
  | zero => rfl
  | succ n ih => simp [bytesLE, ih]

theorem leNat_bytesLE (n v : Nat) : leNat (bytesLE n v) = v % 256 ^ n := by
  induction n generalizing v with
  | zero => simp [bytesLE, leNat, Nat.mod_one]
  | succ n ih =>
    rw [bytesLE, leNat, ih, BitVec.toNat_ofNat, Nat.pow_succ' (n := n), Nat.mod_mul (x := v) (a := 256)]

namespace State

/-- Memory is in canonical form. -/
def MemOk (s : State) : Prop := Memory.wf s.mem = true

theorem Canonical.memOk {s : State} (h : s.Canonical) : s.MemOk := h.1

/-! ### Stores -/

theorem rdByte_wrByte_same {s : State} {a : Nat} {v : Byte} (h : s.MemOk) : (s.wrByte a v).rdByte a = v :=
  FMap.get_set_same h

theorem rdByte_wrByte_ne {s : State} {a x : Nat} {v : Byte} (h : x ≠ a) : (s.wrByte a v).rdByte x = s.rdByte x :=
  FMap.get_set_other h _ _

theorem memOk_wrByte {s : State} {a : Nat} {v : Byte} (h : s.MemOk) : (s.wrByte a v).MemOk := FMap.wf_set h

theorem memOk_wrBytes {s : State} {a : Nat} {l : List Byte} (h : s.MemOk) : (s.wrBytes a l).MemOk :=
  (wrBytes_kept (Kept.refl s)).mem h

theorem memOk_st {s : State} {a n v : Nat} (h : s.MemOk) : (s.st a n v).MemOk := memOk_wrBytes h

theorem memOk_stWords {s : State} {a : Nat} {l : List Nat} (h : s.MemOk) : (s.stWords a l).MemOk :=
  (stWords_kept (Kept.refl s)).mem h

theorem rdByte_wrBytes_outside {s : State} {a x : Nat} {l : List Byte} (h : x < a ∨ a + l.length ≤ x) :
    (s.wrBytes a l).rdByte x = s.rdByte x := by
  induction l generalizing s a with
  | nil => rfl
  | cons b l ih =>
    rw [List.length_cons] at h
    rw [wrBytes, ih (by omega), rdByte_wrByte_ne (by omega)]

theorem rdBytes_succ (s : State) (a n : Nat) : s.rdBytes a (n + 1) = s.rdByte a :: s.rdBytes (a + 1) n := by
  simp only [rdBytes, List.range_succ_eq_map, List.map_cons, List.map_map, Nat.add_zero]
  congr 2
  funext i
  simp only [Function.comp_apply]
  congr 1
  omega

theorem rdBytes_wrBytes {s : State} {a : Nat} {l : List Byte} (h : s.MemOk) : (s.wrBytes a l).rdBytes a l.length = l := by
  induction l generalizing s a with
  | nil => rfl
  | cons b l ih =>
    rw [List.length_cons, rdBytes_succ, wrBytes, ih (memOk_wrByte h), rdByte_wrBytes_outside (.inl (by omega)),
      rdByte_wrByte_same h]

theorem rdByte_st_outside {s : State} {a n v x : Nat} (h : x < a ∨ a + n ≤ x) : (s.st a n v).rdByte x = s.rdByte x :=
  rdByte_wrBytes_outside (by rwa [length_bytesLE])

theorem ld_st_same {s : State} {a n v : Nat} (h : s.MemOk) : (s.st a n v).ld a n = v % 256 ^ n := by
  have hb : (s.st a n v).rdBytes a n = bytesLE n v := by
    simpa only [length_bytesLE, st] using rdBytes_wrBytes (a := a) (l := bytesLE n v) h
  rw [ld, hb, leNat_bytesLE]

theorem ld_congr {s t : State} {a n : Nat} (h : ∀ x, a ≤ x → x < a + n → t.rdByte x = s.rdByte x) : t.ld a n = s.ld a n := by
  simp only [ld, rdBytes]
  congr 1
  refine List.map_congr_left fun i hi => h _ (by omega) ?_
  have := List.mem_range.mp hi
  omega

theorem ld_st_outside {s : State} {a n v b k : Nat} (h : b + k ≤ a ∨ a + n ≤ b) : (s.st a n v).ld b k = s.ld b k :=
  ld_congr fun _ _ _ => rdByte_st_outside (by omega)

/-- The first octet of a word stored is its lowest. -/
theorem ld_st_byte {s : State} {a v : Nat} (h : s.MemOk) : (s.st a 4 v).ld a 1 = v % 256 := by
  have hb : (s.st a 4 v).rdByte a = BitVec.ofNat 8 v := by
    rw [st, bytesLE, wrBytes, rdByte_wrBytes_outside (.inl (by omega)), rdByte_wrByte_same h]
  simp [ld, rdBytes, leNat, hb]

end State

/-! ### A change of memory alone -/

/-- Nothing but memory, and the words marked uncorrectable in it, changed. -/
def OnlyMem (s t : State) : Prop := t = { s with mem := t.mem, poison := t.poison }

namespace OnlyMem

theorem refl (s : State) : OnlyMem s s := rfl

theorem trans {s t u : State} (h : OnlyMem s t) (k : OnlyMem t u) : OnlyMem s u := by
  unfold OnlyMem at h k ⊢
  rw [k, h]

theorem wrBytes {s : State} {a : Nat} {l : List Byte} : OnlyMem s (s.wrBytes a l) := by
  induction l generalizing s a with
  | nil => exact refl s
  | cons b l ih => exact trans (t := s.wrByte a b) rfl ih

theorem st {s : State} {a n v : Nat} : OnlyMem s (s.st a n v) := wrBytes

theorem stWords {s : State} {a : Nat} {l : List Nat} : OnlyMem s (s.stWords a l) := by
  induction l generalizing s a with
  | nil => exact refl s
  | cons w l ih => exact trans st ih

end OnlyMem

end Sys2Proof.Machine
end

section
/-!
PROOF. A grid point closes (R43, R135, R136, R142, R182).
-/

namespace Sys2Proof.Machine

open Sys2Proof.Claims

/-! ### Folds -/

/-- Each entry of a table is changed once where its key is listed. -/
theorem FMap.at'_foldl_mod {α : Type} [Inhabited α] [DecidableEq α] {f : α → α} {l : List Nat} {m : FMap α} {k : Nat}
    (hl : l.Nodup) (hm : FMap.tidy m = true) :
    (l.foldl (fun m r => m.mod r f) m).at' k = if k ∈ l then f (m.at' k) else m.at' k := by
  induction l generalizing m with
  | nil => simp
  | cons r l ih =>
    obtain ⟨hr, hl⟩ := List.nodup_cons.mp hl
    rw [List.foldl_cons, ih hl (FMap.tidy_mod hm)]
    by_cases hk : k = r
    · subst hk; simp [hr, FMap.at'_mod_same hm]
    · simp [hk, FMap.mod, FMap.at'_put_other hk]

/-! ### What is written of a closing point (R136) -/

/-- The reading of zero, validity invalid, stands at entry `a`. -/
def State.VoidAt (a : Nat) (s : State) : Prop := s.ld a 4 = 0 ∧ s.ld (a + 4) 1 = 1

theorem State.gridVal_of_voidAt {s : State} {n q k : Nat} (h : s.VoidAt (s.gridAt n q k)) : s.gridVal n q k = (0, 1) := by
  obtain ⟨hv, hq⟩ := h
  rw [State.gridVal, hv, hq]
  rfl

/-- `t` is `s` after entries of grid sequence `k` were written invalid, those of `A` among them. -/
structure Voided (k : Nat) (A : Nat → Nat → Prop) (s t : State) : Prop where
  only : OnlyMem s t
  memOk : t.MemOk
  low : LowMem s t
  void : ∀ n q, A n q ∨ s.VoidAt (s.gridAt n q k) → t.VoidAt (t.gridAt n q k)

theorem OnlyMem.gridAt {s t : State} (h : OnlyMem s t) (n q k : Nat) : t.gridAt n q k = s.gridAt n q k := by rw [h]; rfl

theorem OnlyMem.chQty {s t : State} (h : OnlyMem s t) (n : Nat) : t.chQty n = s.chQty n := by rw [h]; rfl

namespace Voided

theorem none {k : Nat} {s : State} (h : s.MemOk) : Voided k (fun _ _ => False) s s :=
  ⟨OnlyMem.refl s, h, fun _ _ => rfl, fun _ _ hv => hv.resolve_left id⟩

/-- What one writing leaves invalid and what the next does. -/
theorem trans {k : Nat} {A B C : Nat → Nat → Prop} {s t u : State} (h : Voided k A s t) (j : Voided k B t u)
    (hC : ∀ n q, C n q → A n q ∨ B n q) : Voided k C s u := by
  refine ⟨h.only.trans j.only, j.memOk, fun x hx => (j.low x hx).trans (h.low x hx), fun n q hv => j.void n q ?_⟩
  rcases hv with hc | hv
  · exact (hC n q hc).elim (fun ha => .inr (h.void n q (.inl ha))) .inl
  · exact .inr (h.void n q (.inr hv))

/-- Two entries of one grid sequence are one, or apart. -/
theorem putGrid {k n q : Nat} {s : State} (h : s.MemOk) :
    Voided k (fun m p => m = n ∧ p = q) s (s.putGrid n q k 0 1) := by
  have hat : ∀ m p, (s.putGrid n q k 0 1).gridAt m p k = s.gridAt m p k := fun m p =>
    OnlyMem.gridAt OnlyMem.stWords m p k
  have hput : s.putGrid n q k 0 1 = (s.st (s.gridAt n q k) 4 0).st (s.gridAt n q k + 4) 4 (1 + k % 2 ^ 24 * 2 ^ 8) := rfl
  have hhere : (s.putGrid n q k 0 1).VoidAt (s.gridAt n q k) := by
    rw [hput]
    refine ⟨?_, ?_⟩
    · rw [State.ld_st_outside (.inl le_rfl), State.ld_st_same h, Nat.zero_mod]
    · rw [State.ld_st_byte (State.memOk_st h)]; omega
  refine ⟨OnlyMem.stWords, State.memOk_stWords h, fun x hx => ?_, fun m p hv => ?_⟩
  · have hlow : smBase ≤ s.gridAt n q k := by simp only [State.gridAt, State.area]; omega
    rw [hput, State.rdByte_st_outside (by omega), State.rdByte_st_outside (by omega)]
  · rw [hat]
    by_cases hsame : s.gridAt m p k = s.gridAt n q k
    · rwa [hsame]
    · have hapart : s.gridAt m p k + 8 ≤ s.gridAt n q k ∨ s.gridAt n q k + 8 ≤ s.gridAt m p k := by
        simp only [State.gridAt] at hsame ⊢; omega
      obtain ⟨hval, hqual⟩ := hv.resolve_left fun he => hsame (by rw [he.1, he.2])
      rw [hput]
      refine ⟨?_, ?_⟩
      · rwa [State.ld_st_outside (by omega), State.ld_st_outside (by omega)]
      · rwa [State.ld_st_outside (by omega), State.ld_st_outside (by omega)]

theorem quantities {k n : Nat} {l : List Nat} {s : State} (h : s.MemOk) :
    Voided k (fun m q => m = n ∧ q ∈ l) s (s.each l (fun q s => s.putGrid n q k 0 1)) := by
  induction l generalizing s with
  | nil => exact (none h).trans (none h) (by simp)
  | cons q l ih =>
    have hq := putGrid (k := k) (n := n) (q := q) h
    have hl : Voided k (fun m p => m = n ∧ p ∈ l) (s.putGrid n q k 0 1) (s.each (q :: l) fun q s => s.putGrid n q k 0 1) := by
      rw [State.each, List.foldl_cons]
      exact ih hq.memOk
    refine hq.trans hl fun m p hm => ?_
    obtain ⟨rfl, hp⟩ := hm
    exact (List.mem_cons.mp hp).imp (fun e => ⟨rfl, e⟩) fun e => ⟨rfl, e⟩

/-- R135: every quantity of the channels listed. -/
theorem channels {k : Nat} {l : List Nat} {s : State} (h : s.MemOk) :
    Voided k (fun n q => n ∈ l ∧ q < s.chQty n) s (l.foldl (fun s n => s.putInvalid n k) s) := by
  induction l generalizing s with
  | nil => exact (none h).trans (none h) (by simp)
  | cons n l ih =>
    have hn : Voided k (fun m q => m = n ∧ q ∈ List.range (s.chQty n)) s (s.putInvalid n k) := quantities h
    refine hn.trans (ih hn.memOk) fun m q hm => ?_
    obtain ⟨hm, hq⟩ := hm
    rw [hn.only.chQty]
    rcases List.mem_cons.mp hm with rfl | hm
    · exact .inl ⟨rfl, List.mem_range.mpr hq⟩
    · exact .inr ⟨hm, hq⟩

end Voided

/-! ### Who takes the closing: it turns on registers and the values kept from before an activation -/

theorem State.rd_congr {s t : State} (h : t.regs = s.regs) (a : Nat) : t.rd a = s.rd a := by
  rw [State.rd, State.reg, h]; rfl

theorem State.fld_congr {s t : State} (h : t.regs = s.regs) (a hi lo : Nat) : t.fld a hi lo = s.fld a hi lo := by
  rw [State.fld, State.rd_congr h]; rfl

theorem State.bit_congr {s t : State} (h : t.regs = s.regs) (a i : Nat) : t.bit a i = s.bit a i := by
  rw [State.bit, State.rd_congr h]; rfl

theorem State.setReg_regs_congr {s t : State} (h : t.regs = s.regs) (a v : Nat) : (t.setReg a v).regs = (s.setReg a v).regs := by
  simp only [State.setReg, h]

theorem State.setWords_regs_congr {l : List (Nat × Nat)} {s t : State} (h : t.regs = s.regs) :
    (t.setWords l).regs = (s.setWords l).regs := by
  induction l generalizing s t with
  | nil => exact h
  | cons w l ih => exact ih (State.setReg_regs_congr h _ _)

theorem State.priorAt_congr {s t : State} (h : t.prior = s.prior) (b i r k : Nat) : t.priorAt b i r k = s.priorAt b i r k := by
  have hl : t.priorsOf b i = s.priorsOf b i := by rw [State.priorsOf, h]; rfl
  rw [State.priorAt, hl]; rfl

/-- The values that govern a grid point are the same, where registers and kept values are. -/
theorem State.viewAt_congr {s t : State} (hregs : t.regs = s.regs) (hprior : t.prior = s.prior) (b i r k : Nat) :
    (t.viewAt b i r k = none ∧ s.viewAt b i r k = none) ∨
      ∃ u v, t.viewAt b i r k = some u ∧ s.viewAt b i r k = some v ∧ u.regs = v.regs := by
  have hearly : t.early b i r k = s.early b i r k := by rw [State.early, State.priorsOf, hprior]; rfl
  simp only [State.viewAt, State.priorAt_congr hprior, hearly]
  cases s.priorAt b i r k with
  | some p => exact .inr ⟨_, _, rfl, rfl, State.setWords_regs_congr hregs⟩
  | none =>
    cases s.early b i r k with
    | true => exact .inl ⟨rfl, rfl⟩
    | false => exact .inr ⟨_, _, rfl, rfl, hregs⟩

theorem State.recordersOf_congr {s t : State} (hregs : t.regs = s.regs) (hprior : t.prior = s.prior) (c : Close) :
    t.recordersOf c = s.recordersOf c := by
  simp only [State.recordersOf, State.bit_congr hregs, State.fld_congr hregs]
  congr 2
  funext r
  rcases State.viewAt_congr hregs hprior 14 r c.ref c.seq with ⟨ht, hs⟩ | ⟨u, v, ht, hs, huv⟩
  · simp only [ht, hs]
  · simp only [ht, hs, State.fld_congr huv]

theorem State.loopsOf_congr {s t : State} (hregs : t.regs = s.regs) (hprior : t.prior = s.prior) (c : Close) :
    t.loopsOf c = s.loopsOf c := by
  simp only [State.loopsOf, State.bit_congr hregs, State.fld_congr hregs, State.priorAt_congr hprior]
  congr 2
  funext l
  rcases State.viewAt_congr hregs hprior 15 l c.ref c.seq with ⟨ht, hs⟩ | ⟨u, v, ht, hs, huv⟩
  · simp only [ht, hs]
  · simp only [ht, hs, State.rd_congr huv]

theorem State.nodup_recordersOf (s : State) (c : Close) : (s.recordersOf c).Nodup := by
  unfold State.recordersOf
  split
  · exact List.nodup_nil
  · exact List.nodup_range.filter _

theorem State.nodup_loopsOf (s : State) (c : Close) : (s.loopsOf c).Nodup := by
  unfold State.loopsOf
  split
  · exact List.nodup_nil
  · exact List.nodup_range.filter _

theorem State.pushClose_taeQ {s t : State} (hregs : t.regs = s.regs) (hprior : t.prior = s.prior) (hq : t.taeQ = s.taeQ)
    (h : FMap.tidy s.taeQ = true) (c : Close) (k : Nat) :
    (t.pushClose c).taeQ.at' k = if k ∈ s.recordersOf c then s.taeQ.at' k ++ [c] else s.taeQ.at' k := by
  rw [State.pushClose, State.recordersOf_congr hregs hprior, hq]
  exact FMap.at'_foldl_mod (State.nodup_recordersOf s c) h

theorem State.pushClose_rgeQ {s t : State} (hregs : t.regs = s.regs) (hprior : t.prior = s.prior) (hq : t.rgeQ = s.rgeQ)
    (h : FMap.tidy s.rgeQ = true) (c : Close) (k : Nat) :
    (t.pushClose c).rgeQ.at' k = if k ∈ s.loopsOf c then s.rgeQ.at' k ++ [c] else s.rgeQ.at' k := by
  rw [State.pushClose, State.loopsOf_congr hregs hprior, hq]
  exact FMap.at'_foldl_mod (State.nodup_loopsOf s c) h

/-! ### The close -/

/-- The state with the mark of point `p` written (R136). -/
def State.marked (r : Nat) (p : OpenPt) (s : State) : State :=
  (s.stWords (s.sieMark r + 4) [p.seq % 2 ^ 32, p.invalid]).publishBank (s.sieMark r)
    (decide ((s.weftOf r).seq ≠ p.seq)) p.fault (p.seq % 2)

/-- The state with point `p` closed, before its passes are released. -/
def State.closed (r : Nat) (p : OpenPt) (rest : List OpenPt) (s : State) : State :=
  let u := (s.marked r p).setPts r rest
  { u with closedGp := u.closedGp.put r (p.gp + 1), closedSeq := u.closedSeq.put r p.seq }.pushClose
    { ref := r, seq := p.seq, gp := p.gp, at_ := u.clk }

theorem State.closeGrid_eq (r : Nat) (p : OpenPt) (rest : List OpenPt) (s : State) :
    s.closeGrid r p rest = (s.closed r p rest).releaseAll r p := rfl

theorem State.marked_only (r : Nat) (p : OpenPt) (s : State) : OnlyMem s (s.marked r p) :=
  OnlyMem.stWords.trans OnlyMem.st

theorem State.marked_words {s : State} (h : s.MemOk) (r : Nat) (p : OpenPt) :
    (s.marked r p).ld (s.sieMark r) 4 =
      nextMark (s.ld (s.sieMark r) 4) (decide ((s.weftOf r).seq ≠ p.seq)) p.fault (p.seq % 2) % 2 ^ 32 ∧
    (s.marked r p).ld (s.sieMark r + 4) 4 = p.seq % 2 ^ 32 ∧ (s.marked r p).ld (s.sieMark r + 8) 4 = p.invalid % 2 ^ 32 := by
  generalize ha : s.sieMark r = a
  generalize hv : nextMark (s.ld a 4) (decide ((s.weftOf r).seq ≠ p.seq)) p.fault (p.seq % 2) = v
  have hold : ((s.st (a + 4) 4 (p.seq % 2 ^ 32)).st (a + 8) 4 p.invalid).ld a 4 = s.ld a 4 := by
    rw [State.ld_st_outside (.inl (by omega)), State.ld_st_outside (.inl le_rfl)]
  have hm : s.marked r p = ((s.st (a + 4) 4 (p.seq % 2 ^ 32)).st (a + 8) 4 p.invalid).st a 4 v := by
    rw [← hv, ← hold, ← ha]; rfl
  have hok : (s.st (a + 4) 4 (p.seq % 2 ^ 32)).MemOk := State.memOk_st h
  rw [hm]
  refine ⟨State.ld_st_same (State.memOk_st hok), ?_, ?_⟩
  · rw [State.ld_st_outside (.inr (by omega)), State.ld_st_outside (.inl (by omega)), State.ld_st_same h]
    omega
  · rw [State.ld_st_outside (.inr (by omega)), State.ld_st_same hok]
    rfl

theorem State.marked_outside {r : Nat} {p : OpenPt} {s : State} {x : Nat} (h : x < s.sieMark r ∨ s.sieMark r + 12 ≤ x) :
    (s.marked r p).rdByte x = s.rdByte x := by
  simp only [State.marked, State.publishBank, State.stWords]
  rw [State.rdByte_st_outside (by omega), State.rdByte_st_outside (by omega), State.rdByte_st_outside (by omega)]

theorem State.closed_rdByte (r : Nat) (p : OpenPt) (rest : List OpenPt) (s : State) (x : Nat) :
    (s.closed r p rest).rdByte x = (s.marked r p).rdByte x := rfl

/-- What closing point `p` does before its passes are released: the mark, and the closing in the queues. -/
theorem State.closed_effect {s : State} (hs : s.Canonical) (r : Nat) (p : OpenPt) (rest : List OpenPt) :
    let c : Close := { ref := r, seq := p.seq, gp := p.gp, at_ := s.clk }
    let u := s.closed r p rest
    u.fdcQ = (if s.bit FDC_CTL 0 then s.fdcQ ++ [c] else s.fdcQ) ∧
    u.psuQ = (if s.bit PSU_CTL 0 then s.psuQ ++ [c] else s.psuQ) ∧
    u.dzeQ = (if s.bit DZE_CTL 0 then s.dzeQ ++ [c] else s.dzeQ) ∧
    (∀ k, u.taeQ.at' k = (if k ∈ s.recordersOf c then s.taeQ.at' k ++ [c] else s.taeQ.at' k)) ∧
    (∀ k, u.rgeQ.at' k = (if k ∈ s.loopsOf c then s.rgeQ.at' k ++ [c] else s.rgeQ.at' k)) ∧
    u = { s with mem := u.mem, poison := u.poison, openPts := s.openPts.put r rest
                 closedGp := s.closedGp.put r (p.gp + 1), closedSeq := s.closedSeq.put r p.seq
                 fdcQ := u.fdcQ, psuQ := u.psuQ, dzeQ := u.dzeQ, taeQ := u.taeQ, rgeQ := u.rgeQ } := by
  intro c u
  obtain ⟨-, -, -, -, -, -, -, -, -, -, -, -, -, -, -, -, -, -, -, -, -, -, -, taeQ, -, rgeQ, -⟩ := hs.tables
  obtain ⟨m, q, hm⟩ : ∃ m q, s.marked r p = { s with mem := m, poison := q } := ⟨_, _, State.marked_only r p s⟩
  have hu : u = { s with mem := m, poison := q, openPts := s.openPts.put r rest
                         closedGp := s.closedGp.put r (p.gp + 1), closedSeq := s.closedSeq.put r p.seq }.pushClose c := by
    simp only [u, State.closed, hm]; rfl
  rw [hu]
  refine ⟨rfl, rfl, rfl, State.pushClose_taeQ ?_ ?_ ?_ taeQ c, State.pushClose_rgeQ ?_ ?_ ?_ rgeQ c, rfl⟩ <;> rfl

/-- Settles O17: a close is the mark, the queues and the releases; a deadline first writes the outstanding entries. -/
theorem gridCloses : Obligations.GridCloses := by
  unfold Obligations.GridCloses
  intro r p rest s hs hpts
  refine ⟨fun hw => ⟨_, rfl, ?waits⟩, fun hd => ⟨_, rfl, ?early⟩, fun hw => ⟨s.closeGrid r p rest, ?closes, ?close⟩,
    fun hw hdue hch => ⟨_, rfl, ?deadline⟩⟩
  case waits => rw [State.gridClose, hpts]; simp [hw]
  case early =>
    rw [State.closeDeadline, hpts]
    refine if_neg fun h => ?_
    rcases hd with hd | hd
    · simp [hd] at h
    · omega
  case closes =>
    show Host.Outcome.next (s.gridClose r) = _
    rw [State.gridClose, hpts]; simp [hw]
  case close =>
    obtain ⟨hmark, hseq, hinv⟩ := State.marked_words hs.memOk r p
    have hld : ∀ a n, (s.closed r p rest).ld a n = (s.marked r p).ld a n := fun a n =>
      State.ld_congr fun x _ _ => State.closed_rdByte r p rest s x
    exact ⟨s.closed r p rest, State.closeGrid_eq r p rest s, (hld _ _).trans hmark, (hld _ _).trans hseq,
      (hld _ _).trans hinv, fun x hx => (State.closed_rdByte r p rest s x).trans (State.marked_outside hx),
      State.closed_effect hs r p rest⟩
  case deadline =>
    have hv : Voided p.seq _ s (p.waiting.foldl (fun s n => s.putInvalid n p.seq) s) := Voided.channels hs.memOk
    refine ⟨_, ?_, fun n hn q hq => State.gridVal_of_voidAt (hv.void n q (.inl ⟨hn, hq⟩)), hv.low, hv.only⟩
    rw [State.closeDeadline, hpts]
    exact if_pos ⟨hdue, by simpa using hw⟩

end Sys2Proof.Machine
end

section
/-!
PROOF. Register words, pairs and shadows (R31, R33, R40, R48).
-/

namespace Sys2Proof.Machine

open Sys2Proof.Claims

/-! ### An access that reaches a register word -/

theorem State.busWrite_word {s : State} {w : Who} {a : Nat} (v : Word) (hst : s.stalled w = false) (ha : isReg a = true)
    (hal : a % 4 = 0) : s.busWrite w a 4 v.toNat = s.write32 w a v.toNat := by
  have hsize : sizeOk a 4 = true := by simp [sizeOk, hal]
  simp [State.busWrite, hst, ha, hsize, Nat.mod_eq_of_lt v.isLt]

theorem State.busRead_word {s : State} {w : Who} {a : Nat} (hst : s.stalled w = false) (ha : isReg a = true)
    (hal : a % 4 = 0) : s.busRead w a 4 = s.read32 w a := by
  have hsize : sizeOk a 4 = true := by simp [sizeOk, hal]
  simp [State.busRead, hst, ha, hsize]

/-- A write that spells no command and that passes takes the register's own effect (R40). -/
theorem State.write32_open {s : State} {w : Who} {a v : Nat} (hr : Reaches w (blkOf a) s) (hc : s.cmdWrite w a v = none)
    (hm : (s.mayWrite w (blkOf a) (offOf a)).1 = true) :
    s.write32 w a v =
      if isLow (blkOf a) (offOf a) then { s.ok w with writeLatch := s.writeLatch.put (bank w.master a) (some v) }
      else if isHigh (blkOf a) (offOf a) then
        { s.ok w with writeLatch := s.writeLatch.put (bank w.master (a - 4)) none }.putPair w (a - 4)
          ((s.writeLatch.at' (bank w.master (a - 4))).getD 0) v
      else (s.ok w).putWord w a v := by
  obtain ⟨hst, hon⟩ := hr
  rw [State.write32, hc]
  exact State.gate_open hst hon hm

theorem State.read32_open {s : State} {w : Who} {a : Nat} (hr : Reaches w (blkOf a) s) (h1 : a ≠ TIME_NOW_NS)
    (h2 : a ≠ BKD_RTC_LO) (h3 : a ≠ BKD_CAL0) (hm : (s.mayRead w (blkOf a) (offOf a)).1 = true) :
    s.read32 w a = (s.ok w).readWord w a := by
  obtain ⟨hst, hon⟩ := hr
  rw [State.read32, if_neg h1, if_neg h2, if_neg h3]
  exact State.gate_open hst hon hm

theorem State.mayWrite_privileged {s : State} {w : Who} (h : privileged w = true) (b off : Nat) :
    (s.mayWrite w b off).1 = true := by
  simp [State.mayWrite, h]

/-! ### Reads of a pair (R40) -/

/-- The answer a master has been given is no part of what it reads. -/
theorem State.regVal_ok (s : State) (w : Who) (m a : Nat) : (s.ok w).regVal m a = s.regVal m a := rfl

/-- R40: a read of the low word latches the high one. -/
theorem lowWordRead_effect {s : State} {w : Who} {a : Nat} (hs : s.Canonical) (ha : isReg a = true) (hal : a % 4 = 0)
    (hr : Reaches w (blkOf a) s) (hrtc : a ≠ BKD_RTC_LO) (hm : (s.mayRead w (blkOf a) (offOf a)).1 = true)
    (hlow : isLow (blkOf a) (offOf a) = true) :
    (s.busRead w a 4).reply.at' w.master = { data := s.regVal w.master a } ∧
      (s.busRead w a 4).readLatch = s.readLatch.put (bank w.master a) (some (s.regVal w.master (a + 4))) ∧
      s.busRead w a 4 = { s with reply := (s.busRead w a 4).reply, readLatch := (s.busRead w a 4).readLatch } := by
  have hns : a ≠ TIME_NOW_NS := by rintro rfl; exact absurd hlow (by decide)
  have hcal : a ≠ BKD_CAL0 := by rintro rfl; exact absurd hlow (by decide)
  rw [State.busRead_word hr.1 ha hal, State.read32_open hr hns hrtc hcal hm]
  simp only [State.readWord, hlow, if_true, State.regVal_ok]
  exact ⟨State.reply_answer (State.replyTidy_ok hs.replyTidy), rfl, rfl⟩

/-- R40: the master's read of the high word after that spends the latch. -/
theorem highWordRead_effect {s : State} {w : Who} {a x : Nat} (hs : s.Canonical) (ha : isReg a = true) (hal : a % 4 = 0)
    (hr : Reaches w (blkOf a) s) (hrtc : a ≠ BKD_RTC_LO) (hm : (s.mayRead w (blkOf a) (offOf a)).1 = true)
    (hlow : isLow (blkOf a) (offOf a) = false) (hhigh : isHigh (blkOf a) (offOf a) = true) (hns : a ≠ TIME_NOW_NS)
    (hcal : a ≠ BKD_CAL0) (hx : s.readLatch.at' (bank w.master (a - 4)) = some x) :
    (s.busRead w a 4).reply.at' w.master = { data := x } ∧
      (s.busRead w a 4).readLatch = s.readLatch.put (bank w.master (a - 4)) none ∧
      s.busRead w a 4 = { s with reply := (s.busRead w a 4).reply, readLatch := (s.busRead w a 4).readLatch } := by
  have hlatch : (s.ok w).readLatch.at' (bank w.master (a - 4)) = some x := hx
  rw [State.busRead_word hr.1 ha hal, State.read32_open hr hns hrtc hcal hm]
  simp only [State.readWord, hlow, hhigh, hlatch, if_true, Bool.false_eq_true, if_false]
  exact ⟨State.reply_answer (State.replyTidy_ok hs.replyTidy), rfl, rfl⟩

/-! ### Plain words of TIME -/

/-- A word of TIME whose every bit software writes, at all times, and that does nothing besides. -/
def PlainWord (a : Nat) : Prop :=
  isReg a = true ∧ a % 4 = 0 ∧ blkOf a = 1 ∧
    (rowAt 1 (offOf a)).map (fun r => (r.acc, r.mask, r.rwl)) = some (.RW, 0xFFFFFFFF, 0) ∧
    (offOf a ≠ 0x1C ∧ strideIn 0x400 0x20 17 (offOf a) = none) ∧ offOf a ≠ 0xA0 ∧
    (strideIn 0x404 0x20 17 (offOf a)).or ((strideIn 0x408 0x20 17 (offOf a)).or (strideIn 0x40C 0x20 17 (offOf a))) = none

theorem plainWord_single : ∀ a ∈ [TIME_SET_NS, TIME_STEP_NS, TIME_STEP_SEC, TIME_RTC_OFS, TIME_BM_QUAL, TIME_BM_PRIO],
    PlainWord a ∧ isLow 1 (offOf a) = false ∧ isHigh 1 (offOf a) = false := by
  unfold PlainWord; decide

theorem plainWord_pair : ∀ a ∈ [TIME_MASTER_ID_LO, TIME_BM_ID_LO, TIME_BM_GM_LO],
    (PlainWord a ∧ isLow 1 (offOf a) = true) ∧
      (PlainWord (a + 4) ∧ isLow 1 (offOf (a + 4)) = false ∧ isHigh 1 (offOf (a + 4)) = true) ∧ a ≠ TIME_INCR_LO := by
  unfold PlainWord; decide

theorem State.cmdWrite_plain {s : State} {w : Who} {a v : Nat} (h : PlainWord a) : s.cmdWrite w a v = none := by
  obtain ⟨-, -, hblk, -, ⟨hoff, hstride⟩, -⟩ := h
  simp [State.cmdWrite, State.cmdStage, State.cmdTime, hblk, hoff, hstride, show hasRwc 1 = false from rfl]

theorem State.putValue_plain {s : State} {a v : Nat} (h : PlainWord a) : s.putValue 1 (offOf a) a v = s.setReg a v := by
  obtain ⟨-, -, -, -, -, hoff, hstride⟩ := h
  simp [State.putValue, State.putEngine, hoff, hstride]

/-- R31: the word written is the word held. -/
theorem State.putWord_plain {s : State} {w : Who} {a : Nat} {v : Word} (h : PlainWord a) :
    s.putWord w a v.toNat = s.setReg a v.toNat := by
  obtain ⟨-, -, hblk, hrow, -⟩ := id h
  obtain ⟨r, hrow, hr⟩ := Option.map_eq_some_iff.mp hrow
  obtain ⟨hacc, hmask, hrwl⟩ : r.acc = .RW ∧ r.mask = 0xFFFFFFFF ∧ r.rwl = 0 := by simpa using hr
  have hrx : rxWord 1 (offOf a) = none := rfl
  have hbank : banked 1 (offOf a) = false := rfl
  have hfull : v.toNat &&& 0xFFFFFFFF = v.toNat := Nat.and_two_pow_sub_one_of_lt_two_pow v.isLt
  have hall : BitVec.ofNat 32 0xFFFFFFFF = BitVec.allOnes 32 := rfl
  simp [State.putWord, State.writeFields, hblk, hrx, hrow, hbank, hacc, hmask, hrwl, hall, hfull, State.putValue_plain h]

/-! ### A write of a plain word, and of a pair of them (R33, R40) -/

section
variable {s : State} {w : Who} {a : Nat}

/-- What a write to a plain word meets: it reaches it, it spells no command, and slice 0 may write. -/
theorem State.busWrite_plain {v : Word} (h : PlainWord a) (hsup : Sup w 1 s) :
    s.busWrite w a 4 v.toNat =
      if isLow 1 (offOf a) then { s.ok w with writeLatch := s.writeLatch.put (bank w.master a) (some v.toNat) }
      else if isHigh 1 (offOf a) then
        { s.ok w with writeLatch := s.writeLatch.put (bank w.master (a - 4)) none }.putPair w (a - 4)
          ((s.writeLatch.at' (bank w.master (a - 4))).getD 0) v.toNat
      else (s.ok w).putWord w a v.toNat := by
  obtain ⟨hreach, hpriv⟩ := hsup
  obtain ⟨hreg, hal, hblk, -⟩ := id h
  rw [← hblk] at hreach ⊢
  rw [State.busWrite_word v hreach.1 hreg hal,
    State.write32_open hreach (State.cmdWrite_plain h) (State.mayWrite_privileged hpriv _ _)]

theorem plainWrite_effect {v : Word} (h : PlainWord a) (hlow : isLow 1 (offOf a) = false)
    (hhigh : isHigh 1 (offOf a) = false) (hsup : Sup w 1 s) :
    s.access w a 4 .wr v.toNat = (s.ok w).setReg a v.toNat := by
  have hbus : s.access w a 4 .wr v.toNat = s.busWrite w a 4 v.toNat := by
    obtain ⟨hreg, -⟩ := h
    simp [State.access, hsup.1.1, hreg]
  rw [hbus, State.busWrite_plain h hsup, State.putWord_plain h]
  simp [hlow, hhigh]

theorem lowWordWrite_effect {v : Word} (h : PlainWord a) (hlow : isLow 1 (offOf a) = true) (hsup : Sup w 1 s) :
    s.busWrite w a 4 v.toNat = { s.ok w with writeLatch := s.writeLatch.put (bank w.master a) (some v.toNat) } := by
  rw [State.busWrite_plain h hsup, if_pos hlow]

/-- R40: the high word makes both take effect. -/
theorem highWordWrite_effect {v lo : Word} (h : PlainWord a) (hp : PlainWord (a + 4)) (hlow : isLow 1 (offOf (a + 4)) = false)
    (hhigh : isHigh 1 (offOf (a + 4)) = true) (hincr : a ≠ TIME_INCR_LO) (hsup : Sup w 1 s)
    (hlo : s.writeLatch.at' (bank w.master a) = some lo.toNat) :
    s.busWrite w (a + 4) 4 v.toNat =
      ({ s.ok w with writeLatch := s.writeLatch.put (bank w.master a) none }.setReg a lo.toNat).setReg (a + 4) v.toNat := by
  rw [State.busWrite_plain hp hsup, Nat.add_sub_cancel, hlo]
  simp only [hlow, hhigh, Bool.false_eq_true, if_false, if_true, Option.getD_some, State.putPair, if_neg hincr,
    State.putWord_plain h, State.putWord_plain hp]

end

/-! ### Shadows (R31, R48) -/

theorem blkOf_lt {a : Nat} (h : isReg a = true) : blkOf a < 24 := by
  have hr : 0x6000000000 ≤ a ∧ a < 0x6001800000 := by simpa [isReg] using h
  unfold blkOf; omega

theorem rowsOf_first_lt : ∀ b < 24, ∀ r ∈ rowsOf b, r.first < 0x7E00 := by decide +kernel

/-- No offset belongs to a unit numbered so high that its pending flag would stand among the shadows. -/
theorem instOf_lt {b : Nat} (hb : b < 24) (off : Nat) : instOf b off < 0x7E00 + off := by
  unfold instOf
  split
  · next r hr =>
    have hfirst := rowsOf_first_lt b hb r (List.mem_filter.mp (List.mem_of_find?_eq_some hr)).1
    split
    · omega
    · next st _ _ _ =>
      have hdiv := Nat.div_le_self (off - r.off) st
      omega
  · omega

theorem shadow_ne_pendingReg {b : Nat} (hb : b < 24) (off : Nat) :
    shadow (blockBase b + off) ≠ pendingReg b (instOf b off) := by
  have hi := instOf_lt hb off
  unfold shadow pendingReg
  omega

/-- A word for a register that no commit covers goes to the shadow, and its unit is pending (R48). -/
theorem State.toShadow_unlocked {s : State} {b off mask v : Nat} (h : s.locked b (instOf b off) = false) :
    s.toShadow b off mask v =
      (s.setReg (shadow (blockBase b + off)) (v &&& mask)).setPending b (instOf b off) true := by
  simp [State.toShadow, h]

theorem shadowWrite_eq {s : State} {w : Who} {a : Nat} {v : Word} {r : RegRow} (hreg : isReg a = true) (hal : a % 4 = 0)
    (hr : Reaches w (blkOf a) s) (hrow : rowAt (blkOf a) (offOf a) = some r) (hacc : r.acc = .RWC)
    (hbank : banked (blkOf a) (offOf a) = false) (hrx : rxWord (blkOf a) (offOf a) = none)
    (hlow : isLow (blkOf a) (offOf a) = false) (hhigh : isHigh (blkOf a) (offOf a) = false)
    (hcmd : s.cmdWrite w a v.toNat = none) (hm : (s.mayWrite w (blkOf a) (offOf a)).1 = true)
    (hlock : (s.ok w).locked (blkOf a) (instOf (blkOf a) (offOf a)) = false) :
    s.busWrite w a 4 v.toNat =
      ((s.ok w).setReg (shadow (blockBase (blkOf a) + offOf a)) (v.toNat &&& r.mask)).setPending (blkOf a)
        (instOf (blkOf a) (offOf a)) true := by
  rw [State.busWrite_word v hr.1 hreg hal, State.write32_open hr hcmd hm, ← State.toShadow_unlocked hlock]
  simp [hlow, hhigh, State.putWord, hrx, hrow, hbank, hacc]

/-- Settles O7: each access reaches its word, and what it does there is one of the rules above. -/
theorem registerWords : Obligations.RegisterWords := by
  unfold Obligations.RegisterWords
  intro w a v s hs
  refine ⟨fun ha hsup => ⟨_, rfl, ?plain⟩, fun hreg hal hr hrtc hm => ⟨fun hlow => ⟨_, rfl, ?lowRead⟩,
    fun hlow hhigh hns hcal x hx => ⟨_, rfl, ?highRead⟩⟩, fun ha hsup => ⟨⟨_, rfl, ?lowWrite⟩, fun lo hlo => ⟨_, rfl, ?highWrite⟩⟩,
    fun r hreg hal hr hrow hacc hbank hrx hlow hhigh hcmd hm hlock => ⟨_, rfl, ?shadow⟩⟩
  case plain =>
    obtain ⟨hp, hlow, hhigh⟩ := plainWord_single a ha
    rw [plainWrite_effect hp hlow hhigh hsup]
    exact ⟨(State.rd_setReg_same hs.regsOk).trans (Nat.mod_eq_of_lt v.isLt), regsBut_setReg, rfl⟩
  case lowRead => exact lowWordRead_effect hs hreg hal hr hrtc hm hlow
  case highRead => exact highWordRead_effect hs hreg hal hr hrtc hm hlow hhigh hns hcal hx
  case lowWrite =>
    obtain ⟨⟨hp, hlow⟩, -⟩ := plainWord_pair a ha
    rw [lowWordWrite_effect hp hlow hsup]
    exact ⟨rfl, rfl⟩
  case highWrite =>
    obtain ⟨⟨hp, -⟩, ⟨hq, hlow, hhigh⟩, hincr⟩ := plainWord_pair a ha
    rw [highWordWrite_effect hp hq hlow hhigh hincr hsup hlo]
    refine ⟨?_, ?_, ?_, rfl, rfl⟩
    · rw [State.rd_setReg_ne (by omega)]
      exact (State.rd_setReg_same hs.regsOk).trans (Nat.mod_eq_of_lt lo.isLt)
    · exact (State.rd_setReg_same (State.regsOk_setReg hs.regsOk)).trans (Nat.mod_eq_of_lt v.isLt)
    · intro b hb
      obtain ⟨hba, hbq⟩ : b ≠ a ∧ b ≠ a + 4 := by simpa using hb
      rw [State.rd_setReg_ne hbq, State.rd_setReg_ne hba]
      rfl
  case shadow =>
    rw [shadowWrite_eq hreg hal hr hrow hacc hbank hrx hlow hhigh hcmd hm hlock]
    have hne := shadow_ne_pendingReg (blkOf_lt hreg) (offOf a)
    refine ⟨?_, State.bit_setBit_same (State.regsOk_setReg hs.regsOk) (Nat.mod_lt _ (by decide)), ?_, rfl⟩
    · rw [State.setPending, State.rd_setBit_ne hne]
      exact State.rd_setReg_same hs.regsOk
    · intro b hb
      obtain ⟨hsh, hpend⟩ : b ≠ shadow (blockBase (blkOf a) + offOf a) ∧ b ≠ pendingReg (blkOf a) (instOf (blkOf a) (offOf a)) := by
        simpa using hb
      rw [State.setPending, State.rd_setBit_ne hpend, State.rd_setReg_ne hsh]
      rfl

end Sys2Proof.Machine
end

section
/-!
PROOF. Four statements of the family that the model does not meet, each with a state that shows it.
-/

namespace Sys2Proof.Machine

open Sys2Proof.Claims

/-! ### Commits: the reset of a filter chain fills its history -/

/-- The debug access port. -/
def debugPort : Who := { master := 12, slice := 0, pc := 0 }

/-- Chain 0 of the FDC is enabled with one stage of two taps, whose history is one entry of the pool (R150). -/
def chainOfTwoTaps : State := (State.reset.setReg (FDC_CH_CFG 0) (2 ^ 31)).setReg (FDC_ST_LEN 0 0) 1

theorem chainOfTwoTaps_canonical : chainOfTwoTaps.Canonical := by
  dsimp only [State.Canonical, State.Tables]; decide +kernel

theorem chainOfTwoTaps_reachable : Reaches debugPort 4 chainOfTwoTaps := by
  dsimp only [Reaches]; decide +kernel

/-- The entry is written with value 0 and "never produced" (R152). -/
theorem chainOfTwoTaps_reset_writes_history :
    (chainOfTwoTaps.blkResetInstance debugPort 4 0).rdByte (chainOfTwoTaps.fdcPool 0 + 4) = 2 := by decide +kernel

/-- Refutes O9 in the clause on BLK_RESET_INSTANCE, `b.val ≠ 3 → b.val ≠ 14 → t.mem = s.mem`: a reset of an FDC chain (block 4)
starts the chain, and that writes its history in sample memory (R35, R152). -/
theorem not_commits : ¬ Obligations.Commits := by
  unfold Obligations.Commits
  intro h
  obtain ⟨-, -, -, -, -, reset, -⟩ := h debugPort 4 0 chainOfTwoTaps chainOfTwoTaps_canonical (by decide)
  obtain ⟨resetEnabled, -⟩ := reset chainOfTwoTaps_reachable (by decide +kernel) (by decide) (by decide)
  obtain ⟨t, ht, -, keepsMem⟩ := resetEnabled (by decide +kernel)
  have hstep : chainOfTwoTaps.blkResetInstance debugPort 4 0 = t := Host.Outcome.next.inj ht
  have hafter : t.rdByte (chainOfTwoTaps.fdcPool 0 + 4) = 2 := hstep ▸ chainOfTwoTaps_reset_writes_history
  have hbefore : t.rdByte (chainOfTwoTaps.fdcPool 0 + 4) = 0 := by
    rw [State.rdByte, keepsMem (by decide) (by decide)]; decide +kernel
  exact absurd (hafter.symm.trans hbefore) (by decide)

/-! ### CoordinatedCommit: a reference number wider than its field -/

/-- A coordinated commit of the FDC is armed on reference 256, which has issued a grid point 1 µs after the arm. -/
def armedBeyondField : State :=
  { State.reset.setReg SYS_XCOMMIT_STAT 1 with
    xcommit := { ref := 256, blocks := 2 ^ 4 }
    weft := [(256, { seq := 1, lastIssue := tUs })] }

theorem armedBeyondField_canonical : armedBeyondField.Canonical := by
  dsimp only [State.Canonical, State.Tables]; decide +kernel

/-- The first completion of the block shows as the second: bit 8 of the reference carries into the count. -/
theorem armedBeyondField_count :
    armedBeyondField.xcommitActivation.fld (commitStat 4) 31 24 = 2 := by decide +kernel

/-- Refutes O10 in the clause on the activation: nothing in it bounds the reference of the armed commit, and one of 256 or more
does not fit `last_ref` of the block's commit status, so that the count of completions beside it does not advance by one (R525). -/
theorem not_coordinatedCommit : ¬ Obligations.CoordinatedCommit := by
  unfold Obligations.CoordinatedCommit
  intro h
  obtain ⟨-, -, -, -, -, -, activation⟩ := h debugPort armedBeyondField armedBeyondField_canonical
  obtain ⟨t, ht, -, -, -, -, blocks⟩ := activation (by decide +kernel) (by decide +kernel) (.inl rfl)
  obtain ⟨⟨count, -⟩, -⟩ := blocks 4 (by decide +kernel) (by decide) (by decide)
  have hstep : armedBeyondField.xcommitActivation = t := Host.Outcome.next.inj ht
  rw [← hstep, armedBeyondField_count] at count
  exact absurd count (by decide +kernel)

/-! ### Baize: an operating bit that nothing changed -/

/-- Baize is armed and LED runs; `GRD_STAT` shows element 0 operating where the element itself does not. -/
def operatingShownAlone : State := (State.reset.setReg GRD_STAT (2 + 2 ^ 20)).setReg LED_STAT 0

theorem operatingShownAlone_canonical : operatingShownAlone.Canonical := by
  dsimp only [State.Canonical, State.Tables]; decide +kernel

/-- A set of samples, all of value 0. -/
def zeroSet : Vector (BitVec 16) 8 := Vector.replicate 8 0

/-- The element is not evaluated and does not change, so the set leaves the bit as it stands. -/
theorem operatingShownAlone_after_set :
    (operatingShownAlone.sampleSet (zeroSet.toList.map BitVec.toNat)).bit GRD_STAT 20 = true ∧
    (operatingShownAlone.sampleSet (zeroSet.toList.map BitVec.toNat)).bit (GRD_EL_STAT 0) 1 = false := by decide +kernel

/-- Refutes O46 in the clause on a sample set, `t.bit GRD_STAT (20 + e) = t.bit (GRD_EL_STAT e) 1`: a set moves the bit of `GRD_STAT`
when the element begins or ceases to operate (R437), and the statement lets the two differ before the set. -/
theorem not_baize : ¬ Obligations.Baize := by
  unfold Obligations.Baize
  intro h
  obtain ⟨-, running⟩ := h debugPort operatingShownAlone operatingShownAlone_canonical (by decide +kernel)
  obtain ⟨sampleSet, -⟩ := running (by decide +kernel)
  obtain ⟨t, ht, -, -, -, elements, -⟩ :=
    sampleSet zeroSet (by decide +kernel) (by decide +kernel) (by decide +kernel) (by decide +kernel)
  obtain ⟨shownAlike, -⟩ := elements 0
  have hstep : operatingShownAlone.sampleSet (zeroSet.toList.map BitVec.toNat) = t := Host.Outcome.next.inj ht
  obtain ⟨hstat, hel⟩ := operatingShownAlone_after_set
  rw [hstep] at hstat hel
  exact absurd (hstat.symm.trans (shownAlike.trans hel)) (by decide)

/-! ### PowerAndFlash: a descriptor is written back when the compute die goes off -/

/-- R510: at its instant the compute die goes off. -/
theorem exec_cxPowerDown_due {s : State} {x : Nat} (hat : s.power.cxOffAt = some x) (hdue : x ≤ s.clk) :
    exec .cxPowerDown s = .next s.cxFall := by
  show execCxPowerDown s = _
  simp [execCxPowerDown, hat, hdue]

/-- CX is to go off now, with a frame of transmit descriptor 0 of ring 0 in the queue of internal port 9, its only copy. -/
def frameForInnerPort : State :=
  { State.reset with
    power := { cxOffAt := some 0 }
    swc := {
      queues := [(8 * 9, [{ (default : SwFrame) with desc := some 0 }])]
      descs := [(0, { (default : TxDesc) with left := 1, total := 1 })] } }

theorem frameForInnerPort_canonical : frameForInnerPort.Canonical := by
  dsimp only [State.Canonical, State.Tables]; decide +kernel

/-- The flushed frame's descriptor, at DRAM address 0, gets status 1 (port down) in its third word (R309). -/
theorem frameForInnerPort_written_back : frameForInnerPort.cxFall.rdByte 10 = 1 := by decide +kernel

/-- Refutes O54 in the clause on CX_POWER_DOWN, `t.rdByte y = if onDie y then 0 else s.rdByte y`: ports 9 to 11 are flushed with
the compute die (R305), and the write-back of a flushed frame's descriptor changes DRAM. -/
theorem not_powerAndFlash : ¬ Obligations.PowerAndFlash := by
  unfold Obligations.PowerAndFlash PowerFailures
  rintro ⟨h, -⟩
  obtain ⟨-, -, -, -, -, -, -, -, powerDown, -⟩ := h debugPort frameForInnerPort frameForInnerPort_canonical
  obtain ⟨t, ht, -, -, -, -, -, -, -, keepsDram⟩ := powerDown 0 rfl (by decide)
  have hstep : frameForInnerPort.cxFall = t :=
    Host.Outcome.next.inj ((exec_cxPowerDown_due rfl (Nat.zero_le _)).symm.trans ht)
  have hafter : t.rdByte 10 = 1 := hstep ▸ frameForInnerPort_written_back
  have hbefore : t.rdByte 10 = frameForInnerPort.rdByte 10 := (keepsDram 10).trans (if_neg (by simp [onDie]))
  rw [hafter] at hbefore
  exact absurd hbefore (by decide +kernel)

end Sys2Proof.Machine
end

section
/-!
PROOF. Every command goes on, every step keeps the canonical form and the time unit's range, and the module at reset (R13,
R53–R55, R492, R510).
-/

namespace Sys2Proof.Machine

open Sys2Proof.Claims

/-! ### Commands -/

/-- Every command answers a next state, and its operations keep what `Kept` says: its meaning is that of its arm. -/
theorem exec_goes : ∀ (i : Instr) (s : State), Goes s (exec i s)
  | .registerWrite .., s => execRegisterWrite_goes (.refl s)
  | .pairAccess .., s => execPairAccess_goes (.refl s)
  | .lowWordRead .., s => execLowWordRead_goes (.refl s)
  | .highWordRead .., s => execHighWordRead_goes (.refl s)
  | .lowWordWrite .., s => execLowWordWrite_goes (.refl s)
  | .highWordWrite .., s => execHighWordWrite_goes (.refl s)
  | .shadowWrite .., s => execShadowWrite_goes (.refl s)
  | .commitInstance .., s => execCommitInstance_goes (.refl s)
  | .commitAll .., s => execCommitAll_goes (.refl s)
  | .commitActivation .., s => execCommitActivation_goes (.refl s)
  | .blkResetInstance .., s => execBlkResetInstance_goes (.refl s)
  | .blkResetAll .., s => execBlkResetAll_goes (.refl s)
  | .doorbellFenceEngine .., s => execDoorbellFenceEngine_goes (.refl s)
  | .doorbellFencePoint .., s => execDoorbellFencePoint_goes (.refl s)
  | .doorbellFenceNet .., s => execDoorbellFenceNet_goes (.refl s)
  | .doorbellFenceAll .., s => execDoorbellFenceAll_goes (.refl s)
  | .fenceComplete .., s => execFenceComplete_goes (.refl s)
  | .xcommitArm .., s => execXcommitArm_goes (.refl s)
  | .xcommitAbort .., s => execXcommitAbort_goes (.refl s)
  | .xcommitActivation .., s => execXcommitActivation_goes (.refl s)
  | .xcommitTimeout .., s => execXcommitTimeout_goes (.refl s)
  | .incrementWrite .., s => execIncrementWrite_goes (.refl s)
  | .set .., s => execSet_goes (.refl s)
  | .step .., s => execStep_goes (.refl s)
  | .seed .., s => execSeed_goes (.refl s)
  | .lock .., s => execLock_goes (.refl s)
  | .unlock .., s => execUnlock_goes (.refl s)
  | .ptpSyncReceive .., s => execPtpSyncReceive_goes (.refl s)
  | .masterLost .., s => execMasterLost_goes (.refl s)
  | .holdLimitExpiry .., s => execHoldLimitExpiry_goes (.refl s)
  | .nowNsRead .., s => execNowNsRead_goes (.refl s)
  | .ppsPulse .., s => execPpsPulse_goes (.refl s)
  | .ppsPulseEnd .., s => execPpsPulseEnd_goes (.refl s)
  | .ppsInEdge .., s => execPpsInEdge_goes (.refl s)
  | .bmSyncSend .., s => execBmSyncSend_goes (.refl s)
  | .bmAnnounceSend .., s => execBmAnnounceSend_goes (.refl s)
  | .bmPdelayReqReceive .., s => execBmPdelayReqReceive_goes (.refl s)
  | .trigCfgWrite .., s => execTrigCfgWrite_goes (.refl s)
  | .trigFire .., s => execTrigFire_goes (.refl s)
  | .gridPointIssue .., s => execGridPointIssue_goes (.refl s)
  | .refAcquired .., s => execRefAcquired_goes (.refl s)
  | .primaryLost .., s => execPrimaryLost_goes (.refl s)
  | .holdTimeExpiry .., s => execHoldTimeExpiry_goes (.refl s)
  | .backupLost .., s => execBackupLost_goes (.refl s)
  | .primaryRestored .., s => execPrimaryRestored_goes (.refl s)
  | .backupRestored .., s => execBackupRestored_goes (.refl s)
  | .returnComplete .., s => execReturnComplete_goes (.refl s)
  | .censusArm .., s => execCensusArm_goes (.refl s)
  | .censusFireNow .., s => execCensusFireNow_goes (.refl s)
  | .censusAbort .., s => execCensusAbort_goes (.refl s)
  | .censusLatch .., s => execCensusLatch_goes (.refl s)
  | .censusImageComplete .., s => execCensusImageComplete_goes (.refl s)
  | .svFrameIngest .., s => execSvFrameIngest_goes (.refl s)
  | .sampleMissing .., s => execSampleMissing_goes (.refl s)
  | .streamValid .., s => execStreamValid_goes (.refl s)
  | .streamAbsent .., s => execStreamAbsent_goes (.refl s)
  | .streamFailed .., s => execStreamFailed_goes (.refl s)
  | .streamFailedExit .., s => execStreamFailedExit_goes (.refl s)
  | .gridPointClose .., s => execGridPointClose_goes (.refl s)
  | .closeDeadline .., s => execCloseDeadline_goes (.refl s)
  | .fdcGridWork .., s => execFdcGridWork_goes (.refl s)
  | .psuGridWork .., s => execPsuGridWork_goes (.refl s)
  | .dzeGridWork .., s => execDzeGridWork_goes (.refl s)
  | .contributionMissing .., s => execContributionMissing_goes (.refl s)
  | .zoneToLocal .., s => execZoneToLocal_goes (.refl s)
  | .zoneToSpan .., s => execZoneToSpan_goes (.refl s)
  | .lockstepMismatch .., s => execLockstepMismatch_goes (.refl s)
  | .pairStall .., s => execPairStall_goes (.refl s)
  | .spareTakeover .., s => execSpareTakeover_goes (.refl s)
  | .pairSelfTestDone .., s => execPairSelfTestDone_goes (.refl s)
  | .readmit .., s => execReadmit_goes (.refl s)
  | .activate .., s => execActivate_goes (.refl s)
  | .release .., s => execRelease_goes (.refl s)
  | .retest .., s => execRetest_goes (.refl s)
  | .freePassRelease .., s => execFreePassRelease_goes (.refl s)
  | .passDeadlineMiss .., s => execPassDeadlineMiss_goes (.refl s)
  | .sliceFault .., s => execSliceFault_goes (.refl s)
  | .passException .., s => execPassException_goes (.refl s)
  | .budgetOverrun .., s => execBudgetOverrun_goes (.refl s)
  | .backgroundQuantum .., s => execBackgroundQuantum_goes (.refl s)
  | .overloadCalm .., s => execOverloadCalm_goes (.refl s)
  | .thermalLevelUp .., s => execThermalLevelUp_goes (.refl s)
  | .thermalLevelDown .., s => execThermalLevelDown_goes (.refl s)
  | .overtemp .., s => execOvertemp_goes (.refl s)
  | .schedulerFault .., s => execSchedulerFault_goes (.refl s)
  | .blockFailure .., s => execBlockFailure_goes (.refl s)
  | .ldAcqW .., s => execLdAcqW_goes (.refl s)
  | .ldAcqD .., s => execLdAcqD_goes (.refl s)
  | .stRelW .., s => execStRelW_goes (.refl s)
  | .stRelD .., s => execStRelD_goes (.refl s)
  | .fenceEngine .., s => execFenceEngine_goes (.refl s)
  | .fencePoint .., s => execFencePoint_goes (.refl s)
  | .fenceNet .., s => execFenceNet_goes (.refl s)
  | .fenceAll .., s => execFenceAll_goes (.refl s)
  | .markWait .., s => execMarkWait_goes (.refl s)
  | .markWaitWake .., s => execMarkWaitWake_goes (.refl s)
  | .passEnd .., s => execPassEnd_goes (.refl s)
  | .imageCaptureComplete .., s => execImageCaptureComplete_goes (.refl s)
  | .passInfo .., s => execPassInfo_goes (.refl s)
  | .grantCreate .., s => execGrantCreate_goes (.refl s)
  | .grantRevoke .., s => execGrantRevoke_goes (.refl s)
  | .grantRevokeComplete .., s => execGrantRevokeComplete_goes (.refl s)
  | .sliceBindWrite .., s => execSliceBindWrite_goes (.refl s)
  | .quiesce .., s => execQuiesce_goes (.refl s)
  | .quiesceComplete .., s => execQuiesceComplete_goes (.refl s)
  | .quiesceTimeout .., s => execQuiesceTimeout_goes (.refl s)
  | .resume .., s => execResume_goes (.refl s)
  | .armedResume .., s => execArmedResume_goes (.refl s)
  | .move .., s => execMove_goes (.refl s)
  | .moveComplete .., s => execMoveComplete_goes (.refl s)
  | .save .., s => execSave_goes (.refl s)
  | .saveComplete .., s => execSaveComplete_goes (.refl s)
  | .restore .., s => execRestore_goes (.refl s)
  | .restoreComplete .., s => execRestoreComplete_goes (.refl s)
  | .sliceReset .., s => execSliceReset_goes (.refl s)
  | .sliceAbort .., s => execSliceAbort_goes (.refl s)
  | .portWrite .., s => execPortWrite_goes (.refl s)
  | .gooseFrameReceive .., s => execGooseFrameReceive_goes (.refl s)
  | .gooseExpiry .., s => execGooseExpiry_goes (.refl s)
  | .subFailed .., s => execSubFailed_goes (.refl s)
  | .subFailedExit .., s => execSubFailedExit_goes (.refl s)
  | .subCfgWrite .., s => execSubCfgWrite_goes (.refl s)
  | .pubReqNewState .., s => execPubReqNewState_goes (.refl s)
  | .pubReqRefresh .., s => execPubReqRefresh_goes (.refl s)
  | .pubTransmit .., s => execPubTransmit_goes (.refl s)
  | .retransmission .., s => execRetransmission_goes (.refl s)
  | .svPublish .., s => execSvPublish_goes (.refl s)
  | .frameReceive .., s => execFrameReceive_goes (.refl s)
  | .egressTransmit .., s => execEgressTransmit_goes (.refl s)
  | .ageSweep .., s => execAgeSweep_goes (.refl s)
  | .tblWrite .., s => execTblWrite_goes (.refl s)
  | .tblInvalidate .., s => execTblInvalidate_goes (.refl s)
  | .tblRead .., s => execTblRead_goes (.refl s)
  | .tblFence .., s => execTblFence_goes (.refl s)
  | .tblFenceDone .., s => execTblFenceDone_goes (.refl s)
  | .supervisionSend .., s => execSupervisionSend_goes (.refl s)
  | .lanSilent .., s => execLanSilent_goes (.refl s)
  | .nodeAgeOut .., s => execNodeAgeOut_goes (.refl s)
  | .linkDown .., s => execLinkDown_goes (.refl s)
  | .linkUp .., s => execLinkUp_goes (.refl s)
  | .holdExpiry .., s => execHoldExpiry_goes (.refl s)
  | .lpiEntry .., s => execLpiEntry_goes (.refl s)
  | .txRingPoll .., s => execTxRingPoll_goes (.refl s)
  | .txRingKick .., s => execTxRingKick_goes (.refl s)
  | .tcFollowUpTimeout .., s => execTcFollowUpTimeout_goes (.refl s)
  | .mateHb .., s => execMateHb_goes (.refl s)
  | .arbHb .., s => execArbHb_goes (.refl s)
  | .arbStatus .., s => execArbStatus_goes (.refl s)
  | .verdict .., s => execVerdict_goes (.refl s)
  | .verdictAck .., s => execVerdictAck_goes (.refl s)
  | .ckptData .., s => execCkptData_goes (.refl s)
  | .ckptEnd .., s => execCkptEnd_goes (.refl s)
  | .ckptCommitDone .., s => execCkptCommitDone_goes (.refl s)
  | .ckptAck .., s => execCkptAck_goes (.refl s)
  | .checkpointStart .., s => execCheckpointStart_goes (.refl s)
  | .handbackReq .., s => execHandbackReq_goes (.refl s)
  | .handover .., s => execHandover_goes (.refl s)
  | .abandon .., s => execAbandon_goes (.refl s)
  | .handbackPlan .., s => execHandbackPlan_goes (.refl s)
  | .handbackReady .., s => execHandbackReady_goes (.refl s)
  | .handbackGridPoint .., s => execHandbackGridPoint_goes (.refl s)
  | .mandateYield .., s => execMandateYield_goes (.refl s)
  | .yieldReq .., s => execYieldReq_goes (.refl s)
  | .maint .., s => execMaint_goes (.refl s)
  | .cxHoldWrite .., s => execCxHoldWrite_goes (.refl s)
  | .heartbeatSend .., s => execHeartbeatSend_goes (.refl s)
  | .mandateLoss .., s => execMandateLoss_goes (.refl s)
  | .mateLost .., s => execMateLost_goes (.refl s)
  | .arbLost .., s => execArbLost_goes (.refl s)
  | .verdictIssue .., s => execVerdictIssue_goes (.refl s)
  | .verdictTargetTimeout .., s => execVerdictTargetTimeout_goes (.refl s)
  | .takeoverMandate .., s => execTakeoverMandate_goes (.refl s)
  | .revertHoldComplete .., s => execRevertHoldComplete_goes (.refl s)
  | .dealerHb .., s => execDealerHb_goes (.refl s)
  | .dealerLoss .., s => execDealerLoss_goes (.refl s)
  | .angle .., s => execAngle_goes (.refl s)
  | .partialSum .., s => execPartialSum_goes (.refl s)
  | .censusCall .., s => execCensusCall_goes (.refl s)
  | .censusData .., s => execCensusData_goes (.refl s)
  | .taeRowWrite .., s => execTaeRowWrite_goes (.refl s)
  | .recordComplete .., s => execRecordComplete_goes (.refl s)
  | .holdoffExpiry .., s => execHoldoffExpiry_goes (.refl s)
  | .taeArm .., s => execTaeArm_goes (.refl s)
  | .taeDisarm .., s => execTaeDisarm_goes (.refl s)
  | .taeTrigger .., s => execTaeTrigger_goes (.refl s)
  | .taeFree .., s => execTaeFree_goes (.refl s)
  | .recArm .., s => execRecArm_goes (.refl s)
  | .recFire .., s => execRecFire_goes (.refl s)
  | .taeWatchdog .., s => execTaeWatchdog_goes (.refl s)
  | .loopCycle .., s => execLoopCycle_goes (.refl s)
  | .fallbackDelayExpiry .., s => execFallbackDelayExpiry_goes (.refl s)
  | .autoResume .., s => execAutoResume_goes (.refl s)
  | .loopOpen .., s => execLoopOpen_goes (.refl s)
  | .loopClose .., s => execLoopClose_goes (.refl s)
  | .stopRamp .., s => execStopRamp_goes (.refl s)
  | .rgeWatchdog .., s => execRgeWatchdog_goes (.refl s)
  | .programLoad .., s => execProgramLoad_goes (.refl s)
  | .startCold .., s => execStartCold_goes (.refl s)
  | .startWarm .., s => execStartWarm_goes (.refl s)
  | .programStop .., s => execProgramStop_goes (.refl s)
  | .programHold .., s => execProgramHold_goes (.refl s)
  | .programResume .., s => execProgramResume_goes (.refl s)
  | .apply .., s => execApply_goes (.refl s)
  | .programUnload .., s => execProgramUnload_goes (.refl s)
  | .scan .., s => execScan_goes (.refl s)
  | .scanOverrun .., s => execScanOverrun_goes (.refl s)
  | .holdTimeout .., s => execHoldTimeout_goes (.refl s)
  | .forceWrite .., s => execForceWrite_goes (.refl s)
  | .lgeWatchdog .., s => execLgeWatchdog_goes (.refl s)
  | .canFrameReceive .., s => execCanFrameReceive_goes (.refl s)
  | .fifoPop .., s => execFifoPop_goes (.refl s)
  | .trumpPop .., s => execTrumpPop_goes (.refl s)
  | .enqueue .., s => execEnqueue_goes (.refl s)
  | .withdraw .., s => execWithdraw_goes (.refl s)
  | .canTxComplete .., s => execCanTxComplete_goes (.refl s)
  | .canRefInstant .., s => execCanRefInstant_goes (.refl s)
  | .busOff .., s => execBusOff_goes (.refl s)
  | .busOffRecovery .., s => execBusOffRecovery_goes (.refl s)
  | .recover .., s => execRecover_goes (.refl s)
  | .guardSampleSet .., s => execGuardSampleSet_goes (.refl s)
  | .outputOpen .., s => execOutputOpen_goes (.refl s)
  | .outputMismatch .., s => execOutputMismatch_goes (.refl s)
  | .binaryInputChange .., s => execBinaryInputChange_goes (.refl s)
  | .guardDisarm .., s => execGuardDisarm_goes (.refl s)
  | .guardApply .., s => execGuardApply_goes (.refl s)
  | .guardCheck .., s => execGuardCheck_goes (.refl s)
  | .guardOscDeviation .., s => execGuardOscDeviation_goes (.refl s)
  | .vbatMeasure .., s => execVbatMeasure_goes (.refl s)
  | .backupLoss .., s => execBackupLoss_goes (.refl s)
  | .rtcSet .., s => execRtcSet_goes (.refl s)
  | .rtcLoRead .., s => execRtcLoRead_goes (.refl s)
  | .cal0Read .., s => execCal0Read_goes (.refl s)
  | .rtcWrap .., s => execRtcWrap_goes (.refl s)
  | .alarmCtlWrite .., s => execAlarmCtlWrite_goes (.refl s)
  | .alarmMatch .., s => execAlarmMatch_goes (.refl s)
  | .pwrClear .., s => execPwrClear_goes (.refl s)
  | .pwrPulseExpiry .., s => execPwrPulseExpiry_goes (.refl s)
  | .hourMeterCopy .., s => execHourMeterCopy_goes (.refl s)
  | .softwareRecord .., s => execSoftwareRecord_goes (.refl s)
  | .ledgerFlush .., s => execLedgerFlush_goes (.refl s)
  | .ledgerScan .., s => execLedgerScan_goes (.refl s)
  | .loadClear .., s => execLoadClear_goes (.refl s)
  | .loadWrapped .., s => execLoadWrapped_goes (.refl s)
  | .loadPublic .., s => execLoadPublic_goes (.refl s)
  | .derive .., s => execDerive_goes (.refl s)
  | .zeroise .., s => execZeroise_goes (.refl s)
  | .gcmEnc .., s => execGcmEnc_goes (.refl s)
  | .gcmDec .., s => execGcmDec_goes (.refl s)
  | .mac .., s => execMac_goes (.refl s)
  | .macVer .., s => execMacVer_goes (.refl s)
  | .sha256 .., s => execSha256_goes (.refl s)
  | .sha384 .., s => execSha384_goes (.refl s)
  | .ecdsaVer .., s => execEcdsaVer_goes (.refl s)
  | .mldsaVer .., s => execMldsaVer_goes (.refl s)
  | .keyOpComplete .., s => execKeyOpComplete_goes (.refl s)
  | .slotAttrWrite .., s => execSlotAttrWrite_goes (.refl s)
  | .debugUnlock .., s => execDebugUnlock_goes (.refl s)
  | .tamperDetect .., s => execTamperDetect_goes (.refl s)
  | .latchClear .., s => execLatchClear_goes (.refl s)
  | .powerUp .., s => execPowerUp_goes (.refl s)
  | .resetNPulse .., s => execResetNPulse_goes (.refl s)
  | .resetNLongHold .., s => execResetNLongHold_goes (.refl s)
  | .coldStart .., s => execColdStart_goes (.refl s)
  | .warmStart .., s => execWarmStart_goes (.refl s)
  | .startWatchdog .., s => execStartWatchdog_goes (.refl s)
  | .done .., s => execDone_goes (.refl s)
  | .warmReset .., s => execWarmReset_goes (.refl s)
  | .coldReset .., s => execColdReset_goes (.refl s)
  | .pfailAssert .., s => execPfailAssert_goes (.refl s)
  | .pfRetain .., s => execPfRetain_goes (.refl s)
  | .pfailDeassert .., s => execPfailDeassert_goes (.refl s)
  | .patrolScrub .., s => execPatrolScrub_goes (.refl s)
  | .xspiRead .., s => execXspiRead_goes (.refl s)
  | .xspiProgram .., s => execXspiProgram_goes (.refl s)
  | .xspiErase .., s => execXspiErase_goes (.refl s)
  | .xspiDone .., s => execXspiDone_goes (.refl s)
  | .sleep .., s => execSleep_goes (.refl s)
  | .cxPowerDown .., s => execCxPowerDown_goes (.refl s)
  | .nxRailTimeout .., s => execNxRailTimeout_goes (.refl s)
  | .cxRailTimeout .., s => execCxRailTimeout_goes (.refl s)
  | .supplyFault .., s => execSupplyFault_goes (.refl s)
  | .vddGuardLoss .., s => execVddGuardLoss_goes (.refl s)
  | .referenceClockLoss .., s => execReferenceClockLoss_goes (.refl s)
  | .tamperSourceInactive .., s => execTamperSourceInactive_goes (.refl s)
  | .busIntegration .., s => execBusIntegration_goes (.refl s)
  | .lpiReceive .., s => execLpiReceive_goes (.refl s)
  | .yearChange .., s => execYearChange_goes (.refl s)
  | .nxEnRetry .., s => execNxEnRetry_goes (.refl s)

/-- Settles O59: the answer of a command, and what every operation keeps of the state. -/
theorem everyCommandGoesOn : Obligations.EveryCommandGoesOn := by
  unfold Obligations.EveryCommandGoesOn
  intro i s
  obtain ⟨t, ht, hk⟩ := exec_goes i s
  exact ⟨t, ht, hk.clk, hk.pending, hk.out, hk.free⟩

/-! ### Steps -/

theorem Kept.canonical {s t : State} (h : Kept s t) (hs : s.Canonical) : t.Canonical := by
  obtain ⟨hmem, hregs, hreply, htables⟩ := hs
  exact ⟨h.mem hmem, h.regs hregs, h.reply hreply, h.tables htables⟩

/-- R53: with an increment near 8 ns at most one second is carried in a tick. -/
theorem wallTick_timeOk {s : State} (h : TimeOk s.time) : TimeOk s.wallTick.time := by
  unfold State.wallTick
  split
  · exact h
  · obtain ⟨hns, hfrac, hmin, hmax⟩ := h
    refine ⟨?_, Nat.mod_lt _ (by decide), hmin, hmax⟩
    by_cases hcarry : 1000000000 ≤ s.time.ns + (s.time.frac + s.time.incr) / 2 ^ 32
    all_goals simp only [hcarry, decide_true, decide_false, if_true, if_false, Bool.false_eq_true]; omega

theorem State.wallTick_kept {s : State} : Kept s s.wallTick := by
  have h : s.wallTick = { s with time := s.wallTick.time } := by
    unfold State.wallTick; split <;> rfl
  rw [h]
  exact (Kept.refl s).setTime wallTick_timeOk

/-- What 8 ns keep, but for the count of ticks. -/
theorem State.tick_kept (s : State) : Kept { s with clk := s.clk + 1 } s.tick :=
  State.censusTick_kept (State.settleAll_kept (State.meterRestore_kept (State.bkdTick_kept State.wallTick_kept)))

/-- Settles O60: a command keeps it (`exec_goes`), and so do 8 ns (`State.tick_kept`). -/
theorem stepKeeps : Obligations.StepKeeps := by
  unfold Obligations.StepKeeps
  intro s t hs htime hstep
  unfold step at hstep
  split at hstep
  case h_1 =>
    cases hstep
    have hk := s.tick_kept
    exact ⟨hk.canonical hs, hk.time htime⟩
  case h_2 i rest _ =>
    obtain ⟨u, hu, hk⟩ := exec_goes i { s with pending := rest }
    obtain rfl : u = t := Host.Outcome.next.inj (hu.symm.trans hstep)
    exact ⟨hk.canonical hs, hk.time htime⟩

/-- Settles O55: `step` reads the queue alone. -/
theorem stepRuns : Obligations.StepRuns := by
  unfold Obligations.StepRuns
  exact fun _ _ _ => ⟨rfl, rfl⟩

/-! ### Reset -/

/-- Settles O58: at reset every table is empty. -/
theorem resetState : Obligations.ResetState := by
  unfold Obligations.ResetState
  refine ⟨?canonical, ?timeOk, rfl, rfl, rfl, rfl, rfl, rfl, rfl, rfl, rfl, rfl, rfl, rfl, fun _ => rfl, fun _ => rfl⟩
  case canonical => dsimp only [State.Canonical, State.Tables]; decide +kernel
  case timeOk => dsimp only [TimeOk]; decide +kernel

end Sys2Proof.Machine
end

section
/-!
PROOF. Registers after changes of their bits and fields, and what a chain of such changes leaves alone.
-/

namespace Sys2Proof.Claims

open Sys2Proof.Machine

/-- A command's meaning answers `u`, which in the case at hand is `t`. -/
theorem Answers.of_exec {i : Instr} {s u t : State} {P : State → Prop} (h : exec i s = .next u) (ht : u = t) (hP : P t) :
    Answers i s P := ⟨u, h, ht ▸ hP⟩

/-! ### Frames -/

namespace RegsBut

variable {rs : List Nat} {s t : State}

theorem of_regs (h : t.regs = s.regs) : RegsBut rs s t := fun a _ => State.rd_congr h a

/-- One more register written is a listed one: so for a field, a bit and a counter, each of which is a register written. -/
theorem setReg {a v : Nat} (h : RegsBut rs s t) (ha : a ∈ rs) : RegsBut rs s (t.setReg a v) := by
  intro b hb
  rw [State.rd_setReg_ne (ne_of_mem_of_not_mem ha hb).symm, h b hb]

theorem mono {rs' : List Nat} (h : RegsBut rs s t) (hsub : rs ⊆ rs') : RegsBut rs' s t := fun a ha => h a fun hm => ha (hsub hm)

end RegsBut

end Sys2Proof.Claims

namespace Sys2Proof.Machine

open Sys2Proof.Claims

/-- Nothing but registers changed. -/
def RegsOnly (s t : State) : Prop := t = { s with regs := t.regs }

namespace RegsOnly

variable {s t : State}

theorem refl : RegsOnly s s := rfl

theorem setReg {a v : Nat} (h : RegsOnly s t) : RegsOnly s (t.setReg a v) := by
  obtain ⟨r, rfl⟩ : ∃ r, t = { s with regs := r } := ⟨_, h⟩
  rfl

theorem onlyRegs (h : RegsOnly s t) : OnlyRegs s t := by
  obtain ⟨r, rfl⟩ : ∃ r, t = { s with regs := r } := ⟨_, h⟩
  rfl

end RegsOnly

end Sys2Proof.Machine

namespace Sys2Proof.Machine.State

open Sys2Proof.Claims

variable {s : State} {a i : Nat}

/-! ### Reads -/

theorem rd_setBit_true (h : s.RegsOk) (hi : i < 32) : (s.setBit a i true).rd a = raised (s.rd a) i :=
  rd_setFld_same h hi (by omega)

/-- What slice 0 or the debug port writes takes effect (R213). -/
theorem gateSup_of_sup {w : Who} {b : Nat} {f : State → State} (h : Sup w b s) (ha : blkOf a = b) :
    s.gateSup w a f = f (s.ok w) := by
  obtain ⟨⟨hstall, hon⟩, hpriv⟩ := h
  exact gateSup_open hstall (by rwa [ha]) hpriv

theorem rd_evt_same (h : s.RegsOk) (hi : i < 32) : (s.evt a i).rd a = raised (s.rd a) i := rd_setBit_true h hi

end Sys2Proof.Machine.State
end

section
/-!
PROOF. The states of the time unit (R56–R59).
-/

namespace Sys2Proof.Machine

open Sys2Proof.Claims

namespace State

variable {s : State}

theorem timeCmd_busy {f : State → State} (h : s.bit TIME_STAT 8 = true) : s.timeCmd f = s.evt TIME_EVT 6 := if_pos h

theorem timeCmd_free {f : State → State} (h : s.bit TIME_STAT 8 = false) : s.timeCmd f = (f s).setBit TIME_STAT 8 true :=
  if_neg (by simp [h])

theorem timeLock_seen (h : s.timeState = 1 ∨ s.timeState = 3) (hm : s.masterSeen = true) : s.timeLock = s.setTimeState 2 2 := by
  rw [timeLock, if_neg (by omega), if_pos ⟨h, hm⟩]

theorem timeLock_refused (h : s.timeState = 0 ∨ (s.timeState = 1 ∨ s.timeState = 3) ∧ s.masterSeen = false) :
    s.timeLock = s.evt TIME_EVT 1 := by
  rw [timeLock, if_neg (by omega), if_neg]
  rintro ⟨hst, hm⟩
  rcases h with h | ⟨-, h⟩
  · omega
  · simp [hm] at h

theorem rd_setTimeState (h : s.RegsOk) (st cls : Nat) :
    (s.setTimeState st cls).rd TIME_STAT = setBits (setBits (s.rd TIME_STAT) 2 0 st) 5 4 cls := by
  rw [setTimeState, rd_setFld_same (regsOk_setFld h) (by decide) (by decide), rd_setFld_same h (by decide) (by decide)]

theorem regsOk_setTimeState (h : s.RegsOk) (st cls : Nat) : (s.setTimeState st cls).RegsOk := regsOk_setFld (regsOk_setFld h)

theorem rd_setTimeState_ne {b st cls : Nat} (h : b ≠ TIME_STAT) : (s.setTimeState st cls).rd b = s.rd b := by
  rw [setTimeState, rd_setFld_ne h, rd_setFld_ne h]

end State

theorem regsBut_setTimeState {rs : List Nat} {s t : State} {st cls : Nat} (h : RegsBut rs s t) (ha : TIME_STAT ∈ rs) :
    RegsBut rs s (t.setTimeState st cls) := (h.setReg ha).setReg ha

/-- A command written to `TIME_CMD` while none is in progress, of which `t` is what it does. -/
theorem answers_timeCommand {i : Instr} {w : Who} {s t : State} {f : State → State} {P : State → Prop} (h : Sup w 1 s)
    (hfree : s.bit TIME_STAT 8 = false) (hi : exec i s = .next (s.gateSup w TIME_CMD (State.timeCmd f)))
    (ht : f (s.ok w) = t) (hP : P (t.setBit TIME_STAT 8 true)) : Answers i s P := by
  have hcmd : (s.ok w).timeCmd f = (f (s.ok w)).setBit TIME_STAT 8 true := State.timeCmd_free hfree
  exact .of_exec hi (by rw [State.gateSup_of_sup h rfl, hcmd, ht]) hP

/-- R57, R59: what entering HOLDOVER changes. -/
theorem State.enterHoldover_effect {s : State} (h : s.RegsOk) :
    s.enterHoldover.rd TIME_STAT = setBits (setBits (s.rd TIME_STAT) 2 0 3) 5 4 2 ∧
    s.enterHoldover.rd TIME_HOLD_CNT = incSat 32 (s.rd TIME_HOLD_CNT) ∧ s.enterHoldover.RegsOk ∧
    RegsBut [TIME_STAT, TIME_HOLD_CNT] s s.enterHoldover := by
  have h0 : ({ s with time := { s.time with holdAcc := 0 } } : State).RegsOk := h
  have h1 := regsOk_setTimeState h0 3 2
  refine ⟨?_, ?_, regsOk_inc h1, ?_⟩
  · rw [enterHoldover, rd_inc_ne (by decide)]; exact rd_setTimeState h0 3 2
  · rw [enterHoldover, rd_inc_same h1, rd_setTimeState_ne (by decide)]; rfl
  · exact (regsBut_setTimeState (.of_regs rfl) (by decide)).setReg (by decide)

/-- Settles O1: each command or event, in the state of the time unit that admits it, is one of the rules above. -/
theorem timeStates : Obligations.TimeStates := by
  unfold Obligations.TimeStates
  intro w s hs
  have hok : (s.ok w).RegsOk := hs.regsOk
  refine ⟨fun hsup hbusy i hi => ?busy,
    fun hsup hfree hst hm => answers_timeCommand hsup hfree rfl (State.timeLock_seen hst hm) ?lock,
    fun hsup hfree hst => answers_timeCommand hsup hfree rfl (State.timeLock_refused hst) ?lockRefused,
    fun hsup hfree hst => answers_timeCommand hsup hfree rfl (if_pos hst) ?unlock,
    fun hst hm => .of_exec rfl (if_pos ⟨hst, hm⟩) ?masterLost,
    fun hst hage => .of_exec rfl (if_pos ⟨hst, hage⟩) ?holdLimit⟩
  case busy =>
    have hevt (f : State → State) : s.gateSup w TIME_CMD (State.timeCmd f) = (s.ok w).evt TIME_EVT 6 :=
      (State.gateSup_of_sup hsup rfl).trans (State.timeCmd_busy hbusy)
    simp only [List.mem_cons, List.not_mem_nil, or_false] at hi
    rcases hi with rfl | rfl | rfl | rfl | rfl
    all_goals
      refine .of_exec rfl (hevt _) ⟨State.rd_evt_same hok (by decide), ?_, rfl⟩
      exact RegsBut.setReg (.of_regs rfl) (by decide)
  case lock =>
    refine ⟨?_, ?_, rfl⟩
    · rw [State.rd_setBit_true (State.regsOk_setTimeState hok 2 2) (by decide), State.rd_setTimeState hok]; rfl
    · exact (regsBut_setTimeState (.of_regs rfl) (by decide)).setReg (by decide)
  case lockRefused =>
    refine ⟨?_, ?_, ?_, rfl⟩
    · rw [State.rd_setBit_ne (by decide), State.rd_evt_same hok (by decide)]; rfl
    · rw [State.rd_setBit_true (State.regsOk_evt hok) (by decide), State.rd_evt_ne (by decide)]; rfl
    · exact (RegsBut.setReg (.of_regs rfl) (by decide)).setReg (by decide)
  case unlock =>
    obtain ⟨hstat, hcnt, hregs, hbut⟩ := State.enterHoldover_effect hok
    refine ⟨?_, ?_, hbut.setReg (by decide), rfl⟩
    · rw [State.rd_setBit_true hregs (by decide), hstat]; rfl
    · rw [State.rd_setBit_ne (by decide), hcnt]; rfl
  case masterLost =>
    obtain ⟨hstat, hcnt, hregs, hbut⟩ := State.enterHoldover_effect hs.regsOk
    refine ⟨?_, ?_, State.bit_evt_same hregs (by decide), ?_, rfl⟩
    · rw [State.rd_evt_ne (by decide), hstat]
    · rw [State.rd_evt_ne (by decide), hcnt]
    · exact (hbut.mono (List.subset_append_left _ [TIME_EVT])).setReg (by decide)
  case holdLimit =>
    exact ⟨State.rd_setTimeState hs.regsOk 3 1, regsBut_setTimeState (.of_regs rfl) (by decide), rfl⟩

end Sys2Proof.Machine
end

section
/-!
PROOF. Set, step and seed (R57, R60, R61): the time unit's reading changes, and every consumer of wall time sees it.
-/

namespace Sys2Proof.Machine

open Sys2Proof.Claims

theorem State.each_invariant {α : Type} {P : State → Prop} {l : List α} {f : α → State → State} {s : State} (h : P s)
    (hf : ∀ x ∈ l, ∀ t, P t → P (f x t)) : P (s.each l f) := by
  induction l generalizing s with
  | nil => exact h
  | cons x l ih =>
    exact ih (hf x List.mem_cons_self s h) fun y hy => hf y (List.mem_cons_of_mem _ hy)

/-! ### The consumers of wall time -/

/-- From `s` to `t` consumers of wall time have seen a step: the reading and memory are as before, and of the registers only
the status of angle references changed. -/
structure StepSeen (s t : State) : Prop where
  time   : t.time = s.time
  mem    : t.mem = s.mem
  regsOk : s.RegsOk → t.RegsOk
  rd     : ∀ a, (∀ r, r < 16 → a ≠ WEFT_REF_STAT r) → t.rd a = s.rd a

namespace StepSeen

variable {s t u : State}

theorem of_regs (htime : t.time = s.time) (hmem : t.mem = s.mem) (hregs : t.regs = s.regs) : StepSeen s t :=
  ⟨htime, hmem, fun h => by rwa [State.RegsOk, hregs], fun a _ => State.rd_congr hregs a⟩

theorem trans (h : StepSeen s t) (k : StepSeen t u) : StepSeen s u :=
  ⟨k.time.trans h.time, k.mem.trans h.mem, k.regsOk ∘ h.regsOk, fun a ha => (k.rd a ha).trans (h.rd a ha)⟩

/-- Working state besides the reading, the registers and memory. -/
theorem working (h : StepSeen s t) (htime : u.time = t.time := by rfl) (hmem : u.mem = t.mem := by rfl)
    (hregs : u.regs = t.regs := by rfl) : StepSeen s u := h.trans (of_regs htime hmem hregs)

theorem each {α : Type} {l : List α} {f : α → State → State} (h : StepSeen s t)
    (hf : ∀ x ∈ l, ∀ u, StepSeen s u → StepSeen s (f x u)) : StepSeen s (t.each l f) :=
  State.each_invariant h hf

/-- R84: the offset of an angle reference shows in its status. -/
theorem refStat {r i : Nat} {b : Bool} (h : StepSeen s t) (hr : r < 16) : StepSeen s (t.setBit (WEFT_REF_STAT r) i b) :=
  h.trans ⟨rfl, rfl, State.regsOk_setBit, fun _ ha => State.rd_setBit_ne (ha r hr)⟩

end StepSeen

/-- The reading put and the step counted, before any consumer sees it. -/
def State.timePut (ns frac : Nat) (s : State) : State :=
  { s with time := { s.time with
      sec := ns / 1000000000 % 2 ^ 48, ns := ns % 1000000000, frac := frac
      secTick := if ns / 1000000000 % 2 ^ 48 != s.time.sec then some s.clk else s.time.secTick } }.inc TIME_STEP_CNT

theorem State.stepTime_seen (ns frac : Nat) (s : State) : StepSeen (s.timePut ns frac) (s.stepTime ns frac) := by
  unfold State.stepTime
  extract_lets old d sec changed _ put counted triggers references streams census
  have hcounted : StepSeen counted counted := .of_regs rfl rfl rfl
  have htriggers : StepSeen counted triggers := hcounted.each fun n _ t h => by
    split
    · exact h.working
    · exact h
  have hreferences : StepSeen counted references := htriggers.each fun r hr t h => by
    dsimp only
    split
    · exact h
    · exact h.working.refStat (List.mem_range.mp hr)
  have hstreams : StepSeen counted streams := hreferences.each fun _ _ _ h => h.working
  have hcensus : StepSeen counted census := hstreams.working
  exact hcensus.each fun _ _ _ h => h.working

theorem WEFT_REF_STAT_ne_time {a : Nat} (h : a < 0x6000200000) (r : Nat) : a ≠ WEFT_REF_STAT r := by
  unfold WEFT_REF_STAT; omega

theorem State.stepTime_effect {s : State} {ns : Nat} (h : s.RegsOk) (hns : ns < 2 ^ 48 * 1000000000) (frac : Nat) :
    (s.stepTime ns frac).wallNs = ns ∧ (s.stepTime ns frac).time.frac = frac ∧
    (s.stepTime ns frac).rd TIME_STEP_CNT = incSat 32 (s.rd TIME_STEP_CNT) ∧ (s.stepTime ns frac).RegsOk ∧
    (s.stepTime ns frac).timeState = s.timeState := by
  have hseen := s.stepTime_seen ns frac
  refine ⟨?_, by rw [hseen.time]; rfl, ?_, hseen.regsOk (regsOk_inc h), ?_⟩
  · rw [wallNs, hseen.time]
    show ns / 1000000000 % 2 ^ 48 * 1000000000 + ns % 1000000000 = ns
    omega
  · rw [hseen.rd _ fun r _ => WEFT_REF_STAT_ne_time (by decide) r]
    exact rd_inc_same (s := { s with time := _ }) h
  · rw [timeState, fld, hseen.rd _ fun r _ => WEFT_REF_STAT_ne_time (by decide) r, timePut, rd_inc_ne (by decide)]
    rfl

/-- A command changed, besides what a step of the reading does, the status and events of the time unit only. -/
theorem stepFrame_of_regsBut {s t : State} {ns frac : Nat} (h : RegsBut [TIME_STAT, TIME_EVT] (s.stepTime ns frac) t)
    (hmem : t.mem = (s.stepTime ns frac).mem) : StepFrame s t := by
  have hseen := s.stepTime_seen ns frac
  have hput : RegsBut [TIME_STEP_CNT] s (s.timePut ns frac) := RegsBut.setReg (.of_regs rfl) (by decide)
  refine ⟨fun a ha hr => ?_, by rw [hmem, hseen.mem]; rfl⟩
  simp only [List.mem_cons, List.not_mem_nil, or_false, not_or] at ha
  obtain ⟨hstat, hevt, hcnt⟩ := ha
  rw [h a (by simp [hstat, hevt]), hseen.rd a hr, hput a (by simpa using hcnt)]

/-! ### The commands -/

/-- The end of set and seed (R57): UNSET is left, `rtc_time` says whether the time is that of the RTC, and event `i` is marked. -/
def State.putDone (rtc : Bool) (i : Nat) (s : State) : State :=
  ((if s.timeState = 0 then s.setTimeState 1 1 else s).setBit TIME_STAT 9 rtc).evt TIME_EVT i

theorem State.putDone_effect {u : State} (h : u.RegsOk) (rtc : Bool) {i : Nat} (hi : i < 32) :
    let t := (u.putDone rtc i).setBit TIME_STAT 8 true
    t.timeState = (if u.timeState = 0 then 1 else u.timeState) ∧ t.bit TIME_STAT 9 = rtc ∧ t.bit TIME_EVT i = true ∧
    RegsBut [TIME_STAT, TIME_EVT] u t ∧ t.time = u.time ∧ t.mem = u.mem := by
  generalize hv : (if u.timeState = 0 then u.setTimeState 1 1 else u) = v
  have hv' : v.RegsOk ∧ v.timeState = (if u.timeState = 0 then 1 else u.timeState) ∧
      RegsBut [TIME_STAT, TIME_EVT] u v ∧ v.time = u.time ∧ v.mem = u.mem := by
    subst hv
    split
    · refine ⟨regsOk_setTimeState h 1 1, ?_, regsBut_setTimeState (.of_regs rfl) (by decide), rfl, rfl⟩
      rw [timeState, setTimeState, fld_setFld_other (regsOk_setFld h) (by decide) (by decide) (by decide),
        fld_setFld_same h (by decide) (by decide)]
      rfl
    · exact ⟨h, rfl, .of_regs rfl, rfl, rfl⟩
  obtain ⟨hok, hstate, hbut, htime, hmem⟩ := hv'
  have h9 : (v.setBit TIME_STAT 9 rtc).RegsOk := regsOk_setBit hok
  have he : ((v.setBit TIME_STAT 9 rtc).evt TIME_EVT i).RegsOk := regsOk_evt h9
  intro t
  have ht : t = ((v.setBit TIME_STAT 9 rtc).evt TIME_EVT i).setBit TIME_STAT 8 true := by rw [← hv]; rfl
  rw [ht]
  refine ⟨?_, ?_, ?_, ((hbut.setReg (by decide)).setReg (by decide)).setReg (by decide), htime, hmem⟩
  · rw [timeState, fld_setBit_other he (by decide) (by decide), fld_evt_other h9 hi (.inl (by decide)),
      fld_setBit_other hok (by decide) (by decide)]
    exact hstate
  · rw [bit_setBit_other he (by decide) (by decide), bit_evt_other h9 hi (.inl (by decide)), bit_setBit_same hok (by decide)]
  · rw [bit_setBit_other he (by decide) (.inl (by decide)), bit_evt_same h9 hi]

namespace State

variable {s : State}

theorem timeSet_inRange (h : s.rd TIME_SET_NS < 1000000000) :
    s.timeSet = (s.stepTime ((s.rd TIME_SET_SEC_LO + 2 ^ 32 * s.fld TIME_SET_SEC_HI 15 0) * 1000000000 + s.rd TIME_SET_NS) 0).putDone
      false 4 := if_neg (Nat.not_le.mpr h)

theorem timeSeed_valid (h : s.rtcValid = true) :
    s.timeSeed = (s.stepTime (s.bkd.rtc * 1000000000 / 32768 + s.rd TIME_RTC_OFS * 1000000000) 0).putDone true 5 :=
  if_neg (by simp [h])

theorem timeAdd_inRange {n : Nat} (hmin : -999999999 ≤ signed 32 (s.rd TIME_STEP_NS))
    (hmax : signed 32 (s.rd TIME_STEP_NS) ≤ 999999999)
    (hn : (n : Int) = s.wallNs + signed 32 (s.rd TIME_STEP_SEC) * 1000000000 + signed 32 (s.rd TIME_STEP_NS)) :
    s.timeAdd = (s.stepTime n s.time.frac).evt TIME_EVT 3 := by
  rw [timeAdd, ← hn]
  exact if_neg (by omega)

end State

/-- Set and seed: the time put, UNSET left, event `i` marked. -/
theorem State.stepTime_putDone_effect {s : State} (h : s.RegsOk) {n i : Nat} {rtc : Bool} (hn : n < 2 ^ 48 * 1000000000)
    (hi : i < 32) :
    let t := ((s.stepTime n 0).putDone rtc i).setBit TIME_STAT 8 true
    t.wallNs = n ∧ t.time.frac = 0 ∧ t.timeState = (if s.timeState = 0 then 1 else s.timeState) ∧ t.bit TIME_STAT 9 = rtc ∧
    t.bit TIME_EVT i = true ∧ t.rd TIME_STEP_CNT = incSat 32 (s.rd TIME_STEP_CNT) ∧ StepFrame s t := by
  obtain ⟨hwall, hfrac, hcnt, hregs, hstate⟩ := State.stepTime_effect h hn 0
  obtain ⟨hdone, hrtc, hevt, hbut, htime, hmem⟩ := State.putDone_effect hregs rtc hi
  intro t
  rw [hstate] at hdone
  refine ⟨?_, (congrArg WallTime.frac htime).trans hfrac, hdone, hrtc, hevt, (hbut TIME_STEP_CNT (by decide)).trans hcnt,
    stepFrame_of_regsBut hbut hmem⟩
  rwa [wallNs, htime]

/-- Step: the time put, the state of the time unit as before, event `i` marked. -/
theorem State.stepTime_evt_effect {s : State} (h : s.RegsOk) {n i : Nat} (hn : n < 2 ^ 48 * 1000000000) (frac : Nat)
    (hi : i < 32) :
    let t := ((s.stepTime n frac).evt TIME_EVT i).setBit TIME_STAT 8 true
    t.wallNs = n ∧ t.time.frac = frac ∧ t.timeState = s.timeState ∧ t.bit TIME_EVT i = true ∧
    t.rd TIME_STEP_CNT = incSat 32 (s.rd TIME_STEP_CNT) ∧ StepFrame s t := by
  obtain ⟨hwall, hfrac, hcnt, hregs, hstate⟩ := State.stepTime_effect h hn frac
  have hevt : ((s.stepTime n frac).evt TIME_EVT i).RegsOk := regsOk_evt hregs
  have hbut : RegsBut [TIME_STAT, TIME_EVT] (s.stepTime n frac) (((s.stepTime n frac).evt TIME_EVT i).setBit TIME_STAT 8 true) :=
    (RegsBut.setReg (.of_regs rfl) (by decide)).setReg (by decide)
  refine ⟨hwall, hfrac, ?_, ?_, (hbut TIME_STEP_CNT (by decide)).trans hcnt, stepFrame_of_regsBut hbut rfl⟩
  · rw [timeState, fld_setBit_other hevt (by decide) (by decide), fld_evt_other hregs hi (.inl (by decide))]
    exact hstate
  · rw [bit_setBit_other hevt (by decide) (.inl (by decide)), bit_evt_same hregs hi]

/-- Settles O2: in range, the command is a step of the reading and its mark; out of range, its refusal. -/
theorem timeCommands : Obligations.TimeCommands := by
  unfold Obligations.TimeCommands
  intro w s hs _ hsup hfree
  have hok : (s.ok w).RegsOk := hs.regsOk
  have hrefused {t : State} (ht : t = (s.ok w).evt TIME_EVT 6) : (t.setBit TIME_STAT 8 true).rd TIME_EVT = raised (s.rd TIME_EVT) 6 ∧
      (t.setBit TIME_STAT 8 true).rd TIME_STAT = raised (s.rd TIME_STAT) 8 ∧ Wrote [TIME_EVT, TIME_STAT] s (t.setBit TIME_STAT 8 true) := by
    subst ht
    refine ⟨?_, ?_, ?_, rfl⟩
    · rw [State.rd_setBit_ne (by decide), State.rd_evt_same hok (by decide)]; rfl
    · rw [State.rd_setBit_true (State.regsOk_evt hok) (by decide), State.rd_evt_ne (by decide)]; rfl
    · exact (RegsBut.setReg (.of_regs rfl) (by decide)).setReg (by decide)
  refine ⟨fun hns => answers_timeCommand hsup hfree rfl (State.timeSet_inRange hns) ?set,
    fun hmin hmax n hn hrange => answers_timeCommand hsup hfree rfl (State.timeAdd_inRange hmin hmax hn) ?step,
    fun hvalid => ?seed, fun hns => answers_timeCommand hsup hfree rfl (if_pos hns) (hrefused rfl),
    fun hns => answers_timeCommand hsup hfree rfl (if_pos (hns.imp_right .inl)) (hrefused rfl),
    fun hvalid => answers_timeCommand hsup hfree rfl (if_pos hvalid) (hrefused rfl)⟩
  case set =>
    have hrange : (s.rd TIME_SET_SEC_LO + 2 ^ 32 * s.fld TIME_SET_SEC_HI 15 0) * 1000000000 + s.rd TIME_SET_NS <
        2 ^ 48 * 1000000000 := by
      have hlo := s.rd_lt TIME_SET_SEC_LO
      have hhi := s.fld_lt TIME_SET_SEC_HI 15 0
      omega
    exact State.stepTime_putDone_effect hok hrange (by decide)
  case step => exact State.stepTime_evt_effect hok hrange s.time.frac (by decide)
  case seed =>
    intro n hrange
    exact answers_timeCommand hsup hfree rfl (State.timeSeed_valid hvalid) (State.stepTime_putDone_effect hok hrange (by decide))

end Sys2Proof.Machine
end

section
/-!
PROOF. The increment, Sync, the latched reading, the pulse output and the pulse input (R54, R58, R59, R66–R68).
-/

namespace Sys2Proof.Machine

open Sys2Proof.Claims

/-! ### The increment -/

theorem timeIncrement : TimeIncrement := by
  intro w hi lo s hs hsup v
  have hok : (s.ok w).RegsOk := hs.regsOk
  have hgate : s.gateSup w TIME_INCR_HI (State.writeIncr hi.toNat lo.toNat) = (s.ok w).writeIncr hi.toNat lo.toNat :=
    State.gateSup_of_sup hsup rfl
  refine ⟨fun ⟨hfree, hmin, hmax⟩ => .of_exec rfl (hgate.trans (if_neg ?_)) ⟨rfl, ?lo, ?hi, ?frame, rfl⟩,
    fun hbad => .of_exec rfl (hgate.trans (if_pos hbad))
      ⟨State.bit_evt_same hok (by decide), RegsBut.setReg (.of_regs rfl) (by decide), rfl⟩⟩
  · rintro (hlocked | hrange)
    · exact hfree hlocked
    · omega
  case lo =>
    show (((s.ok w).setReg TIME_INCR_LO lo.toNat).setReg TIME_INCR_HI (bits hi.toNat 3 0)).rd TIME_INCR_LO = lo.toNat
    rw [State.rd_setReg_ne (by decide), State.rd_setReg_same hok, Nat.mod_eq_of_lt lo.isLt]
  case hi =>
    show (((s.ok w).setReg TIME_INCR_LO lo.toNat).setReg TIME_INCR_HI (bits hi.toNat 3 0)).rd TIME_INCR_HI = bits hi.toNat 3 0
    have hlt := bits_lt hi.toNat 3 0
    rw [State.rd_setReg_same (State.regsOk_setReg hok), Nat.mod_eq_of_lt (by omega)]
  case frame =>
    exact RegsBut.setReg (t := (s.ok w).setReg TIME_INCR_LO lo.toNat) (RegsBut.setReg (.of_regs rfl) (by decide)) (by decide)

/-! ### Sync -/

/-- A Sync qualifies (R58, R71): from a watched port, not one this module is master on, in the domain, from the port identity of the master. -/
theorem State.ptpSync_qualifying {s : State} {port b domain clockId portNumber seqId : Nat} (hport : watchBit port = some b)
    (hbm : s.bmOn port = false) (hq : s.bit TIME_MASTER_CFG 31 ∧ s.bit TIME_MASTER_CFG b ∧ s.fld TIME_MASTER_CFG 23 16 = domain
      ∧ s.fld TIME_MASTER_CFG 15 0 = portNumber ∧ s.rd64 TIME_MASTER_ID_LO = clockId) :
    let recent := s.time.syncs.filter (fun e => decide (s.clk - e.2 ≤ tSec))
    s.ptpSync port domain clockId portNumber seqId =
      { s with time := { s.time with lastSync := some s.clk, syncs := (seqId, s.clk) :: recent } }.when
        (!recent.any (fun e => e.1 == seqId)) (State.inc TIME_SYNC_CNT) := by
  rw [State.ptpSync, hport]
  dsimp only
  rw [if_neg (by simp [hbm]), if_pos hq]

theorem any_recent_iff (l : List (Nat × Nat)) (now seqId : Nat) :
    (l.filter (fun e => decide (now - e.2 ≤ tSec))).any (fun e => e.1 == seqId) = true ↔
      ∃ e ∈ l, e.1 = seqId ∧ now - e.2 ≤ tSec := by
  simp only [List.any_filter, List.any_eq_true, Bool.and_eq_true, decide_eq_true_eq, beq_iff_eq, and_comm]

theorem State.masterSeen_of_sync {s : State} (h : s.time.lastSync = some s.clk) : s.masterSeen = true := by
  have hpos : 0 < s.masterTmo := Nat.mul_pos (by omega) (by decide)
  simpa [masterSeen, h] using hpos

/-- A change of registers and the time unit's Syncs that a Sync makes. -/
theorem syncReceived_effect {s : State} (hs : s.Canonical) {seqId : Nat} {l : List (Nat × Nat)} {dup : Bool}
    (hdup : dup = true ↔ ∃ e ∈ s.time.syncs, e.1 = seqId ∧ s.clk - e.2 ≤ tSec) :
    let t := { s with time := { s.time with lastSync := some s.clk, syncs := l } }.when (!dup) (State.inc TIME_SYNC_CNT)
    t.masterSeen = true ∧ t.rd TIME_SYNC_CNT =
      (if ∃ e ∈ s.time.syncs, e.1 = seqId ∧ s.clk - e.2 ≤ tSec then s.rd TIME_SYNC_CNT
       else incSat 32 (s.rd TIME_SYNC_CNT)) ∧
    RegsBut [TIME_SYNC_CNT] s t ∧ t = { s with regs := t.regs, time := t.time } := by
  have hok : ({ s with time := { s.time with lastSync := some s.clk, syncs := l } } : State).RegsOk := hs.regsOk
  cases dup with
  | true => exact ⟨State.masterSeen_of_sync rfl, by rw [if_pos (hdup.mp rfl)]; rfl, .of_regs rfl, rfl⟩
  | false =>
    refine ⟨State.masterSeen_of_sync rfl, ?_, RegsBut.setReg (.of_regs rfl) (by decide), rfl⟩
    rw [if_neg fun h => Bool.false_ne_true (hdup.mpr h)]
    exact State.rd_inc_same hok

/-! ### The pulse input -/

/-- R68: an edge is captured with the reading `x` at it. -/
def State.ppsCaptured (x : Nat) (s : State) : State :=
  ((s.setReg TIME_PPSIN_NS (x % 1000000000)).setReg TIME_PPSIN_SEC (x / 1000000000 % 2 ^ 32)).evt TIME_EVT 7

theorem State.ppsIn_enabled {s : State} {sub : Nat} (h : s.bit TIME_PPS_CFG 4 = true) :
    s.ppsIn sub = s.ppsCaptured (s.wallNs + sub) := if_pos h

theorem ppsCaptured_effect {s : State} (hs : s.Canonical) (x : Nat) :
    (s.ppsCaptured x).rd TIME_PPSIN_NS = x % 10 ^ 9 ∧ (s.ppsCaptured x).rd TIME_PPSIN_SEC = x / 10 ^ 9 % 2 ^ 32 ∧
      (s.ppsCaptured x).rd TIME_EVT = raised (s.rd TIME_EVT) 7 ∧
      Wrote [TIME_PPSIN_NS, TIME_PPSIN_SEC, TIME_EVT] s (s.ppsCaptured x) := by
  have hns : (s.setReg TIME_PPSIN_NS (x % 1000000000)).RegsOk := State.regsOk_setReg hs.regsOk
  have hsec := State.regsOk_setReg (a := TIME_PPSIN_SEC) (v := x / 1000000000 % 2 ^ 32) hns
  unfold State.ppsCaptured
  refine ⟨?_, ?_, ?_, ((RegsBut.setReg (.of_regs rfl) (by decide)).setReg (by decide)).setReg (by decide), rfl⟩
  · rw [State.rd_evt_ne (by decide), State.rd_setReg_ne (by decide), State.rd_setReg_same hs.regsOk]; omega
  · rw [State.rd_evt_ne (by decide), State.rd_setReg_same hns]; omega
  · rw [State.rd_evt_same hsec (by decide), State.rd_setReg_ne (by decide), State.rd_setReg_ne (by decide)]

theorem timeInputEvents : Claims.TimeInputs := by
  intro s hs
  refine ⟨fun port domain clockId portNumber seqId b hport hbm hen hwatch hdom hpn hid =>
      .of_exec rfl (State.ptpSync_qualifying hport hbm ⟨hen, hwatch, hdom, hpn, hid⟩)
        (syncReceived_effect hs (any_recent_iff _ _ _)),
    fun w hr => ?nowRead, fun htick hdriven hlow => .of_exec rfl ?pulse rfl, fun u hu hdue => .of_exec rfl ?pulseEnd rfl,
    fun sub hen => .of_exec rfl (State.ppsIn_enabled hen) (ppsCaptured_effect hs _), fun sub hoff => .of_exec rfl (if_neg (by simp [hoff])) rfl⟩
  case nowRead =>
    have hgate : s.gate w TIME_NOW_NS false true 0 TIME_NOW_NS .rd (State.readNow w) = (s.ok w).readNow w :=
      State.gate_open hr.1 hr.2 rfl
    exact .of_exec rfl hgate ⟨State.reply_answer (State.replyTidy_ok hs.replyTidy), rfl, rfl⟩
  case pulse =>
    simp only [htick, hdriven, hlow, if_true]
    rfl
  case pulseEnd =>
    simp only [hu, hdue, true_or, if_true, State.ppsLow, Option.isSome_some]
    rfl

/-- Settles O3: the increment, and the events. -/
theorem timeInputs : Obligations.TimeInputs := ⟨timeIncrement, timeInputEvents⟩

end Sys2Proof.Machine
end

section
/-!
PROOF. What a boundary port sends (R69, R70, R270).
-/

namespace Sys2Proof.Machine

open Sys2Proof.Claims

/-- An entry put over another. -/
theorem FMap.put_put {α : Type} [Inhabited α] [DecidableEq α] {m : FMap α} {k : Nat} {v w : α} (hm : FMap.tidy m = true) :
    (m.put k v).put k w = m.put k w := by
  refine FMap.ext_wf (FMap.tidy_put (FMap.tidy_put hm)) (FMap.tidy_put hm) fun j => ?_
  by_cases h : j = k
  · subst h
    exact (FMap.at'_put_same (FMap.tidy_put hm)).trans (FMap.at'_put_same hm).symm
  · exact ((FMap.at'_put_other h).trans (FMap.at'_put_other h)).trans (FMap.at'_put_other h).symm

/-- What waits behind a direct frame of port `p`: the message with its transmit timestamp, when it has one (R69). -/
def State.stampedNext (s : State) (p : Nat) (d : Direct) : List Direct :=
  match d.follow with
  | some (a, b) =>
    [{ out := .frame p (a ++ ptpTime (s.txStampNs p) ++ b), len := (a ++ ptpTime (s.txStampNs p) ++ b).length + 4, ptp := d.ptp }]
  | none => []

/-- The direct frames of port `p` that wait. -/
def State.withDirect (p : Nat) (l : List Direct) (s : State) : State :=
  { s with swc := { s.swc with direct := s.swc.direct.put p l } }

/-- R69, R270: the frame of a boundary port begins and is counted; the one with its timestamp waits. -/
def State.bmBegin (p k : Nat) (d : Direct) (s : State) : State :=
  { (s.emit d.out).inc (TIME_BM_TX k) with swc := { s.swc with
      direct := s.swc.direct.put p (s.stampedNext p d)
      dirTx := s.swc.dirTx.put p (some (d.len, s.clk + s.txTicks p d.len)) } }

/-- The count of a boundary port's messages has no part in its rate. -/
theorem State.txTicks_inc {s : State} {k p : Nat} (len : Nat) : (s.inc (TIME_BM_TX k)).txTicks p len = s.txTicks p len := by
  have hne : MAC_CFG p ≠ TIME_BM_TX k := by unfold MAC_CFG TIME_BM_TX; omega
  simp only [txTicks, octetsPerTick, rateCode, fld, rd_inc_ne hne]

theorem State.directStart_waiting {s : State} {k : Nat} {d : Direct} (ht : s.swc.direct.tidy = true)
    (hp : d.ptp = true) : (s.withDirect (6 + k) [d]).directStart (6 + k) d [] = s.bmBegin (6 + k) k d := by
  obtain ⟨out, len, ptp, follow⟩ := d
  obtain rfl : ptp = true := hp
  cases follow
  all_goals
    simp only [directStart, withDirect, bmBegin, stampedNext, emit_swc, inc_swc, State.when, if_true, Nat.add_sub_cancel_left,
      List.append_nil, FMap.put_put ht, txTicks_inc]
    rfl

/-- A frame given to the MAC of a free boundary port begins at once. -/
theorem State.sendDirect_free {s : State} {k : Nat} {d : Direct} (h : Free (6 + k) s) (ht : s.swc.direct.tidy = true)
    (hp : d.ptp = true) : s.sendDirect (6 + k) d = s.bmBegin (6 + k) k d := by
  obtain ⟨hup, hnone, hbound, hwake, hlpi⟩ := h
  have hidle : (s.withDirect (6 + k) [d]).wakePort (6 + k) = s.withDirect (6 + k) [d] :=
    if_neg fun hc => Bool.false_ne_true (hlpi.symm.trans hc.2)
  have hbegins : (s.withDirect (6 + k) [d]).portUp (6 + k) && (s.withDirect (6 + k) [d]).atBoundary (6 + k) &&
      decide ((s.withDirect (6 + k) [d]).swc.wakeAt.at' (6 + k) ≤ (s.withDirect (6 + k) [d]).clk) := by
    simp only [Bool.and_eq_true, decide_eq_true_eq]
    exact ⟨⟨hup, hbound⟩, hwake⟩
  have hfirst : (s.withDirect (6 + k) [d]).swc.direct.at' (6 + k) = [d] := FMap.at'_put_same ht
  rw [sendDirect, if_pos hup, hnone]
  show ((s.withDirect (6 + k) [d]).wakePort (6 + k)).directNext (6 + k) = _
  rw [hidle, directNext, if_pos hbegins, hfirst]
  exact directStart_waiting ht hp

/-- The frame a boundary port gives to its MAC. -/
def State.bmDirect (s : State) (k dst : Nat) (msg : List Byte) (follow : Option (List Byte × List Byte)) : Direct :=
  { out := .frame (6 + k) (s.bmFrame k dst msg), len := (s.bmFrame k dst msg).length + 4, ptp := true
    follow := follow.map (fun x => (s.bmFrame k dst x.1, x.2)) }

/-- R69: from `s` to `u` boundary port `k` has begun frame `f`, behind which `next` waits, and counted it. -/
structure Sent (k : Nat) (f : List Byte) (next : List Direct) (s u : State) : Prop where
  begins : Begins (6 + k) f next s u
  count  : u.rd (TIME_BM_TX k) = incSat 32 (s.rd (TIME_BM_TX k))
  regsOk : u.RegsOk
  regs   : RegsBut [TIME_BM_TX k] s u
  only   : u = { s with regs := u.regs, out := u.out, swc := u.swc }

theorem State.bmSend_sent {s : State} (hs : s.Canonical) {k : Nat} (h : Free (6 + k) s) (ht : s.swc.direct.tidy = true)
    (dst : Nat) (msg : List Byte) (follow : Option (List Byte × List Byte)) :
    Sent k (s.bmFrame k dst msg) (s.stampedNext (6 + k) (s.bmDirect k dst msg follow)) s (s.bmSend k dst msg follow) := by
  have hu : s.bmSend k dst msg follow = s.bmBegin (6 + k) k (s.bmDirect k dst msg follow) := sendDirect_free h ht rfl
  have hok : (s.emit (s.bmDirect k dst msg follow).out).RegsOk := hs.regsOk
  rw [hu]
  exact ⟨⟨rfl, rfl⟩, rd_inc_same hok, regsOk_inc hok,
    RegsBut.setReg (t := s.emit (s.bmDirect k dst msg follow).out) (.of_regs rfl) List.mem_cons_self, rfl⟩

namespace Sent

variable {k : Nat} {f : List Byte} {next : List Direct} {s u : State}

theorem syncInterval (h : Sent k f next s u) : u.syncInterval k = s.syncInterval k := by
  have hcfg : u.rd (TIME_BM_CFG k) = s.rd (TIME_BM_CFG k) := h.regs _ (by simp [TIME_BM_CFG, TIME_BM_TX])
  have hlog : u.logSync k = s.logSync k := by rw [State.logSync, State.fld, hcfg]; rfl
  rw [State.syncInterval, hlog]; rfl

theorem clk (h : Sent k f next s u) : u.clk = s.clk := by rw [h.only]

theorem bm (h : Sent k f next s u) : u.bm = s.bm := by rw [h.only]

/-- The port's working state follows. -/
theorem withBm (h : Sent k f next s u) {g : List Byte} {m n : FMap BmPort} (hf : f = g) (hm : m = n) :
    let t := { u with bm := m }
    Begins (6 + k) g next s t ∧ t.bm = n ∧ t.rd (TIME_BM_TX k) = incSat 32 (s.rd (TIME_BM_TX k)) ∧
      RegsBut [TIME_BM_TX k] s t ∧ t = { s with regs := t.regs, out := t.out, bm := t.bm, swc := t.swc } :=
  ⟨hf ▸ h.begins, hm, h.count, h.regs, congrArg (fun x : State => { x with bm := m }) h.only⟩

/-- A request answered is counted. -/
theorem request (h : Sent k f next s u) :
    let t := u.inc (TIME_BM_PDREQ k)
    Begins (6 + k) f next s t ∧ t.rd (TIME_BM_TX k) = incSat 32 (s.rd (TIME_BM_TX k)) ∧
      t.rd (TIME_BM_PDREQ k) = incSat 32 (s.rd (TIME_BM_PDREQ k)) ∧ RegsBut [TIME_BM_TX k, TIME_BM_PDREQ k] s t ∧
      t = { s with regs := t.regs, out := t.out, swc := t.swc } := by
  have hne : TIME_BM_TX k ≠ TIME_BM_PDREQ k := by simp [TIME_BM_TX, TIME_BM_PDREQ]
  refine ⟨h.begins, (State.rd_inc_ne hne).trans h.count, ?_, ?_, congrArg (State.inc (TIME_BM_PDREQ k)) h.only⟩
  · rw [State.rd_inc_same h.regsOk, h.regs _ (by simp [hne.symm])]
  · exact (h.regs.mono (List.subset_append_left _ [TIME_BM_PDREQ k])).setReg (by simp)

end Sent

theorem State.stampedNext_bmDirect (s : State) (k dst : Nat) (msg a b : List Byte) :
    s.stampedNext (6 + k) (s.bmDirect k dst msg (some (a, b))) =
      let f := s.bmFrame k dst a ++ ptpTime (s.txStampNs (6 + k)) ++ b
      [{ out := .frame (6 + k) f, len := f.length + 4, ptp := true }] := rfl

/-- Settles O4: a message due, or an answer, is sent from the free port; the working state and the count of requests follow. -/
theorem boundaryMaster : Obligations.BoundaryMaster := by
  unfold Obligations.BoundaryMaster
  intro k s hs hfree ht dom id mac stamp after
  refine ⟨fun hsend hdue => .of_exec rfl (if_pos ⟨hsend, hdue⟩) ?sync,
    fun hsend hdue => .of_exec rfl (if_pos ⟨hsend, hdue⟩) ?announce,
    fun domain reqPort seqId hon hdom => .of_exec rfl (if_pos ⟨hon, hfree.1, hdom⟩) ?pdelay⟩
  case sync =>
    intro b li
    have hsent := State.bmSend_sent hs hfree ht 0x011B19000000
      (ptpHeader 0 44 dom 0x0200 id (k + 1) b.syncSeq li ++ ptpTime 0) (some (ptpHeader 8 44 dom 0 id (k + 1) b.syncSeq li, []))
    rw [State.stampedNext_bmDirect, List.append_nil, State.bmFrame, ← List.append_assoc] at hsent
    exact hsent.withBm rfl (by rw [hsent.bm, hsent.clk, hsent.syncInterval])
  case announce =>
    intro b la
    have hsent (msg : List Byte) := State.bmSend_sent hs hfree ht 0x011B19000000 msg none
    exact (hsent _).withBm (by simp only [State.bmFrame, List.append_assoc]; rfl) (by rw [(hsent _).bm, (hsent _).clk])
  case pdelay =>
    have hsent := State.bmSend_sent hs hfree ht 0x0180C200000E
      (ptpHeader 3 54 dom 0x0200 id (k + 1) seqId.toNat 0x7F ++ ptpTime (s.rxStampNs (6 + k)) ++ bytesBE 10 reqPort.toNat)
      (some (ptpHeader 0xA 54 dom 0 id (k + 1) seqId.toNat 0x7F, bytesBE 10 reqPort.toNat))
    rw [State.stampedNext_bmDirect, State.bmFrame, ← List.append_assoc, ← List.append_assoc] at hsent
    rw [← hdom]
    exact hsent.request

end Sys2Proof.Machine
end

section
/-!
PROOF. Trigger channels (R73–R76).
-/

namespace Sys2Proof.Machine

open Sys2Proof.Claims

/-- The registers of the channels stand apart from each other and from the time unit's other registers. -/
theorem trigRegs_apart {n : Nat} (hn : n < 17) :
    blkOf (TIME_TRIG_CFG n) = 1 ∧ TIME_TRIG_CFG n ≠ TIME_TRIG_STAT n ∧ TIME_TRIG_STAT n ≠ TIME_TRIG_MISS n ∧
      TIME_TRIG_STAT n ≠ TIME_EVT ∧ TIME_TRIG_MISS n ≠ TIME_EVT := by
  simp only [blkOf, TIME_TRIG_CFG, TIME_TRIG_STAT, TIME_TRIG_MISS, TIME_EVT]
  omega

/-- The channel started at its first instant (R75). -/
def State.trigStarted (n : Nat) (s : State) : State :=
  { s with trig := s.trig.put n { next := firstInstant (s.trigStart n) (s.rd (TIME_TRIG_PERIOD n)) s.wallNs } }

theorem trigStarted_effect {s : State} {w : Who} {n : Nat} (hs : s.Canonical) (hne : TIME_TRIG_CFG n ≠ TIME_TRIG_STAT n) :
    let t := ((((s.ok w).trigStarted n).setReg (TIME_TRIG_CFG n) 1).setBit (TIME_TRIG_STAT n) 2 false).setBit (TIME_TRIG_STAT n) 0 true
    t.rd (TIME_TRIG_CFG n) = 1 ∧ t.bit (TIME_TRIG_STAT n) 0 = true ∧ t.bit (TIME_TRIG_STAT n) 2 = false ∧
      RegsBut [TIME_TRIG_CFG n, TIME_TRIG_STAT n] s t := by
  have hok : ((s.ok w).trigStarted n).RegsOk := hs.regsOk
  have hcfg := State.regsOk_setReg (a := TIME_TRIG_CFG n) (v := 1) hok
  have herr := State.regsOk_setBit (a := TIME_TRIG_STAT n) (i := 2) (v := false) hcfg
  refine ⟨?_, State.bit_setBit_same herr (by decide), ?_, ?_⟩
  · rw [State.rd_setBit_ne hne, State.rd_setBit_ne hne, State.rd_setReg_same hok]; rfl
  · rw [State.bit_setBit_other herr (by decide) (.inr (by decide)), State.bit_setBit_same hcfg (by decide)]
  · exact ((RegsBut.setReg (.of_regs rfl) (by simp)).setReg (by simp)).setReg (by simp)

/-- The end of a firing: the event of a step passed over (R76), the last trigger seen by Baize, the pulse. -/
def State.trigPulse (n : Nat) (stepped : Bool) (s : State) : State :=
  let s := s.when stepped (State.evt TIME_EVT 8)
  (if n = 16 then { s with guard := { s.guard with lastTrig := some s.clk } } else s).emit (.trigger n)

theorem trigPulse_effect (n : Nat) (stepped : Bool) (s : State) :
    let t := s.trigPulse n stepped
    RegsBut [TIME_EVT] s t ∧ t = { s with regs := t.regs, out := s.out ++ [.trigger n], guard := t.guard } := by
  have hevt : RegsBut [TIME_EVT] s (s.when stepped (State.evt TIME_EVT 8)) ∧
      s.when stepped (State.evt TIME_EVT 8) = { s with regs := (s.when stepped (State.evt TIME_EVT 8)).regs } := by
    cases stepped with
    | true => exact ⟨RegsBut.setReg (.of_regs rfl) (by simp), rfl⟩
    | false => exact ⟨.of_regs rfl, rfl⟩
  obtain ⟨hbut, honly⟩ := hevt
  obtain ⟨r, hr⟩ : ∃ r, s.when stepped (State.evt TIME_EVT 8) = { s with regs := r } := ⟨_, honly⟩
  rw [hr] at hbut
  simp only [State.trigPulse, hr]
  split <;> exact ⟨hbut, rfl⟩

/-- A firing before its pulse: the channel's instants, whether it was stepped over, and the instants missed (R76). -/
def State.trigTaken (n missed : Nat) (x : Trig) (stepped : Bool) (s : State) : State :=
  ({ s with trig := s.trig.put n x }.setBit (TIME_TRIG_STAT n) 1 stepped).incBy (TIME_TRIG_MISS n) missed

theorem trigTaken_effect {s : State} (hs : s.Canonical) {n missed : Nat} {x : Trig} {stepped : Bool}
    (hne : TIME_TRIG_STAT n ≠ TIME_TRIG_MISS n) :
    let u := s.trigTaken n missed x stepped
    u.bit (TIME_TRIG_STAT n) 1 = stepped ∧ u.rd (TIME_TRIG_MISS n) = min (s.rd (TIME_TRIG_MISS n) + missed) (2 ^ 32 - 1) ∧
      RegsBut [TIME_TRIG_STAT n, TIME_TRIG_MISS n] s u := by
  have hok : ({ s with trig := s.trig.put n x } : State).RegsOk := hs.regsOk
  have hstat := State.regsOk_setBit (a := TIME_TRIG_STAT n) (i := 1) (v := stepped) hok
  refine ⟨?_, ?_, (RegsBut.setReg (.of_regs rfl) (by simp)).setReg (by simp)⟩
  · rw [State.trigTaken, State.incBy, State.bit_setReg_ne hne, State.bit_setBit_same hok (by decide)]
  · rw [State.trigTaken, State.incBy, State.rd_setReg_same hstat, State.rd_setBit_ne hne.symm]
    exact Nat.mod_eq_of_lt (by omega)

theorem trigFired_effect {s : State} (hs : s.Canonical) {n missed : Nat} (hn : n < 17) {x : Trig} {stepped : Bool} :
    let t := (s.trigTaken n missed x stepped).trigPulse n stepped
    t.trig = s.trig.put n x ∧ t.bit (TIME_TRIG_STAT n) 1 = stepped ∧
      t.rd (TIME_TRIG_MISS n) = min (s.rd (TIME_TRIG_MISS n) + missed) (2 ^ 32 - 1) ∧ t.out = s.out ++ [.trigger n] ∧
      RegsBut [TIME_TRIG_STAT n, TIME_TRIG_MISS n, TIME_EVT] s t ∧
      t = { s with regs := t.regs, out := t.out, trig := t.trig, guard := t.guard } := by
  obtain ⟨-, -, hstatMiss, hstatEvt, hmissEvt⟩ := trigRegs_apart hn
  obtain ⟨hstat, hmiss, hbut⟩ := trigTaken_effect (n := n) (missed := missed) (x := x) (stepped := stepped) hs hstatMiss
  obtain ⟨hpulse, honly⟩ := trigPulse_effect n stepped (s.trigTaken n missed x stepped)
  refine ⟨by rw [honly]; rfl, ?_, (hpulse _ (by simpa using hmissEvt)).trans hmiss, by rw [honly]; rfl, ?_, by rw [honly]; rfl⟩
  · rw [State.bit, hpulse _ (by simpa using hstatEvt)]
    exact hstat
  · exact RegsBut.trans (hbut.mono (List.subset_append_left _ [TIME_EVT])) (hpulse.mono (List.subset_append_right [_, _] _))

/-- Settles O5: a channel enabled is started or refused; one that is due fires, once for every instant passed. -/
theorem triggerChannels : Obligations.TriggerChannels := by
  unfold Obligations.TriggerChannels
  intro n s hs
  obtain ⟨hblk, hcfgStat, -⟩ := trigRegs_apart n.isLt
  have hgate (w : Who) (v : Word) (hsup : Sup w 1 s) (hv : bitAt v.toNat 0 = true) (hoff : s.bit (TIME_TRIG_CFG n) 0 = false) :
      s.gateSup w (TIME_TRIG_CFG n) (State.trigCfg n v.toNat) =
        if trigPeriodOk n (s.rd (TIME_TRIG_PERIOD n)) then
          ((((s.ok w).trigStarted n).setReg (TIME_TRIG_CFG n) 1).setBit (TIME_TRIG_STAT n) 2 false).setBit (TIME_TRIG_STAT n) 0 true
        else (s.ok w).setBit (TIME_TRIG_STAT n) 2 true := by
    rw [State.gateSup_of_sup hsup hblk, State.trigCfg, if_pos hv]
    exact if_neg (by rw [State.ok_bit, hoff]; exact Bool.false_ne_true)
  refine ⟨fun w v hsup hv hoff hper => .of_exec rfl ((hgate w v hsup hv hoff).trans (if_pos hper)) ?starts,
    fun w v hsup hv hoff hper => .of_exec rfl ((hgate w v hsup hv hoff).trans (if_neg (by simp [hper]))) ?refused,
    fun hon hnx hdue => .of_exec rfl (if_pos ⟨hon, hnx, hdue⟩) ?fires⟩
  case starts =>
    obtain ⟨hcfg, hstat, herr, hbut⟩ := trigStarted_effect (w := w) hs hcfgStat
    exact ⟨hcfg, hstat, herr, rfl, hbut, rfl⟩
  case refused =>
    exact ⟨State.bit_setBit_same (s := s.ok w) hs.regsOk (by decide), RegsBut.setReg (.of_regs rfl) (by simp), rfl⟩
  case fires =>
    exact trigFired_effect hs n.isLt

end Sys2Proof.Machine
end

section
/-!
PROOF. The states of an angle reference (R83, R86–R89).
-/

namespace Sys2Proof.Machine

open Sys2Proof.Claims

theorem State.Canonical.weftTidy {s : State} (h : s.Canonical) : FMap.tidy s.weft = true := by
  obtain ⟨-, -, -, -, -, -, -, -, weft, -⟩ := h.tables
  exact weft

/-- A reference's status, events and counts are three registers. -/
theorem refRegs_apart (r : Nat) :
    WEFT_REF_STAT r ≠ WEFT_REF_EVT r ∧ WEFT_REF_STAT r ≠ WEFT_REF_CNT r ∧ WEFT_REF_EVT r ≠ WEFT_REF_CNT r := by
  simp [WEFT_REF_STAT, WEFT_REF_EVT, WEFT_REF_CNT]

namespace State

variable {s : State} {r : Nat}

theorem regsOk_setRef (h : s.RegsOk) (st src : Nat) : (s.setRef r st src).RegsOk := regsOk_setFld (regsOk_setFld h)

theorem rd_setRef (h : s.RegsOk) (st src : Nat) :
    (s.setRef r st src).rd (WEFT_REF_STAT r) = setBits (setBits (s.rd (WEFT_REF_STAT r)) 2 0 st) 4 3 src := by
  rw [setRef, rd_setFld_same (regsOk_setFld h) (by decide) (by decide), rd_setFld_same h (by decide) (by decide)]

theorem rd_setRef_ne {b st src : Nat} (h : b ≠ WEFT_REF_STAT r) : (s.setRef r st src).rd b = s.rd b := by
  rw [setRef, rd_setFld_ne h, rd_setFld_ne h]

theorem fld_incFld_same {a hi lo : Nat} (h : s.RegsOk) (hh : hi < 32) (hl : lo ≤ hi + 1) :
    (s.incFld a hi lo).fld a hi lo = incSat (hi + 1 - lo) (s.fld a hi lo) := by
  rw [incFld, fld_setFld_same h hh hl, Nat.mod_eq_of_lt incSat_lt]

theorem fld_congr_rd {t : State} {a b hi lo : Nat} (h : t.rd a = s.rd b) : t.fld a hi lo = s.fld b hi lo := by
  rw [fld, h, fld]

end State

theorem regsBut_setRef {rs : List Nat} {s t : State} {r st src : Nat} (h : RegsBut rs s t) (ha : WEFT_REF_STAT r ∈ rs) :
    RegsBut rs s (t.setRef r st src) := (h.setReg ha).setReg ha

theorem regsOnly_setRef {s t : State} {r st src : Nat} (h : RegsOnly s t) : RegsOnly s (t.setRef r st src) := h.setReg.setReg

/-! ### A change of state -/

/-- The change to state `st` with source `src` (R86): pull-in begun or ended, an event marked. -/
def State.refMove (r st src : Nat) (pull : Bool) (ev : Nat) (s : State) : State :=
  ((s.setRef r st src).setBit (WEFT_REF_STAT r) 5 pull).evt (WEFT_REF_EVT r) ev

/-- The same, counted in a field of `WEFT_REF_CNT`. -/
def State.refMoveCount (r st src : Nat) (pull : Bool) (ev hi lo : Nat) (s : State) : State :=
  (s.refMove r st src pull ev).incFld (WEFT_REF_CNT r) hi lo

theorem refMove_effect {s : State} (h : s.RegsOk) (r st src : Nat) (pull : Bool) {ev : Nat} (hev : ev < 32) :
    let t := s.refMove r st src pull ev
    t.rd (WEFT_REF_STAT r) = setBits (setBits (setBits (s.rd (WEFT_REF_STAT r)) 2 0 st) 4 3 src) 5 5 (b2n pull) ∧
    t.rd (WEFT_REF_EVT r) = raised (s.rd (WEFT_REF_EVT r)) ev ∧ t.RegsOk ∧
    RegsBut [WEFT_REF_STAT r, WEFT_REF_EVT r] s t ∧ RegsOnly s t := by
  obtain ⟨hstatEvt, -⟩ := refRegs_apart r
  have href := State.regsOk_setRef (r := r) h st src
  have hpull := State.regsOk_setBit (a := WEFT_REF_STAT r) (i := 5) (v := pull) href
  refine ⟨?_, ?_, State.regsOk_evt hpull,
    ((regsBut_setRef (.of_regs rfl) (by simp)).setReg (by simp)).setReg (by simp), (regsOnly_setRef .refl).setReg.setReg⟩
  · rw [State.refMove, State.rd_evt_ne hstatEvt, State.setBit, State.rd_setFld_same href (by decide) (by decide), State.rd_setRef h]
  · rw [State.refMove, State.rd_evt_same hpull hev, State.rd_setBit_ne hstatEvt.symm, State.rd_setRef_ne hstatEvt.symm]

theorem refMoveCount_effect {s : State} (h : s.RegsOk) (r st src : Nat) (pull : Bool) {ev hi lo : Nat} (hev : ev < 32)
    (hh : hi < 32) (hl : lo ≤ hi + 1) :
    let t := s.refMoveCount r st src pull ev hi lo
    t.rd (WEFT_REF_STAT r) = setBits (setBits (setBits (s.rd (WEFT_REF_STAT r)) 2 0 st) 4 3 src) 5 5 (b2n pull) ∧
    t.rd (WEFT_REF_EVT r) = raised (s.rd (WEFT_REF_EVT r)) ev ∧
    t.fld (WEFT_REF_CNT r) hi lo = incSat (hi + 1 - lo) (s.fld (WEFT_REF_CNT r) hi lo) ∧
    (∀ hi' lo', hi < lo' ∨ hi' < lo → t.fld (WEFT_REF_CNT r) hi' lo' = s.fld (WEFT_REF_CNT r) hi' lo') ∧
    RegsBut [WEFT_REF_STAT r, WEFT_REF_EVT r, WEFT_REF_CNT r] s t ∧ RegsOnly s t := by
  obtain ⟨-, hstatCnt, hevtCnt⟩ := refRegs_apart r
  obtain ⟨hstat, hevt, hok, hbut, honly⟩ := refMove_effect h r st src pull hev
  have hcnt (hi' lo' : Nat) : (s.refMove r st src pull ev).fld (WEFT_REF_CNT r) hi' lo' = s.fld (WEFT_REF_CNT r) hi' lo' :=
    State.fld_congr_rd (hbut _ (by simp [hstatCnt.symm, hevtCnt.symm]))
  refine ⟨?_, ?_, ?_, fun hi' lo' hd => ?_, ?_, honly.setReg⟩
  · rw [← hstat]; exact State.rd_setFld_ne hstatCnt
  · rw [← hevt]; exact State.rd_setFld_ne hevtCnt
  · rw [← hcnt]; exact State.fld_incFld_same hok hh hl
  · rw [← hcnt]; exact State.fld_setFld_other hok hh hl (.inr hd)
  · exact (hbut.mono (List.subset_append_left _ [WEFT_REF_CNT r])).setReg (by simp)

/-! ### The realign (R83, R88) -/

/-- R88: the next grid point after a realign is the next multiple of 512 ac in the source's phase. -/
theorem realign_angle (angle phase : Nat) (hp : phase < 2 ^ 16) :
    (unsigned 48 ((angle : Int) + signed 16 (phase + 2 ^ 16 - angle % 2 ^ 16)) / 512 + 1) * 512 % 2 ^ 48 % 2 ^ 16 =
      (phase / 512 + 1) * 512 % 2 ^ 16 := by
  unfold signed unsigned
  split <;> omega

/-- A reference that leaves ACQUIRE (R88): lock and realign are marked, the state put. -/
def State.refLocked (r st src : Nat) (s : State) : State := ((s.evt (WEFT_REF_EVT r) 0).evt (WEFT_REF_EVT r) 7).setRef r st src

theorem refLocked_effect {s : State} (h : s.RegsOk) (r st src : Nat) :
    let t := s.refLocked r st src
    t.rd (WEFT_REF_STAT r) = setBits (setBits (s.rd (WEFT_REF_STAT r)) 2 0 st) 4 3 src ∧
    t.rd (WEFT_REF_EVT r) = raised (raised (s.rd (WEFT_REF_EVT r)) 0) 7 ∧ t.RegsOk ∧
    RegsBut [WEFT_REF_STAT r, WEFT_REF_EVT r] s t ∧ RegsOnly s t := by
  obtain ⟨hstatEvt, -⟩ := refRegs_apart r
  have hlock := State.regsOk_evt (a := WEFT_REF_EVT r) (i := 0) h
  have hrealign := State.regsOk_evt (a := WEFT_REF_EVT r) (i := 7) hlock
  refine ⟨?_, ?_, State.regsOk_setRef hrealign st src,
    regsBut_setRef ((RegsBut.setReg (.of_regs rfl) (by simp)).setReg (by simp)) (by simp), regsOnly_setRef RegsOnly.refl.setReg.setReg⟩
  · rw [State.refLocked, State.rd_setRef hrealign, State.rd_evt_ne hstatEvt, State.rd_evt_ne hstatEvt]
  · rw [State.refLocked, State.rd_setRef_ne hstatEvt.symm, State.rd_evt_same hlock (by decide), State.rd_evt_same h (by decide)]

theorem censusSkip_only (r a k : Nat) (c : Census) : censusSkip r a k c = { c with skipped := (censusSkip r a k c).skipped } := by
  unfold censusSkip
  split <;> rfl

/-- The realign: the census passes the grid points skipped, the working state changes by `f`, and the state is put. -/
def State.refRealign (r a k : Nat) (f : Weft → Weft) (st src : Nat) (s : State) : State :=
  (State.modWf r f { s with cen := censusSkip r a k s.cen }).refLocked r st src

theorem refRealign_effect {s : State} (hs : s.Canonical) (r a k : Nat) (f : Weft → Weft) (st src : Nat) :
    let t := s.refRealign r a k f st src
    t.rd (WEFT_REF_STAT r) = setBits (setBits (s.rd (WEFT_REF_STAT r)) 2 0 st) 4 3 src ∧
    t.rd (WEFT_REF_EVT r) = raised (raised (s.rd (WEFT_REF_EVT r)) 0) 7 ∧ t.weftOf r = f (s.weftOf r) ∧
    (∀ k, k ≠ r → t.weftOf k = s.weftOf k) ∧ t.RegsOk ∧ RegsBut [WEFT_REF_STAT r, WEFT_REF_EVT r] s t ∧
    t = { s with regs := t.regs, weft := t.weft, cen := { s.cen with skipped := t.cen.skipped } } := by
  have hok : (State.modWf r f { s with cen := censusSkip r a k s.cen }).RegsOk := hs.regsOk
  obtain ⟨hstat, hevt, hregs, hbut, honly⟩ := refLocked_effect hok r st src
  obtain ⟨m, hm⟩ : ∃ m, s.refRealign r a k f st src =
      { s with regs := m, weft := s.weft.mod r f, cen := censusSkip r a k s.cen } := ⟨_, honly⟩
  refine ⟨hstat, hevt, ?_, fun j hj => ?_, hregs, hbut, ?_⟩
  · rw [hm]; exact FMap.at'_mod_same hs.weftTidy
  · rw [hm]; exact FMap.at'_put_other hj
  · rw [hm]; exact congrArg (fun c => { s with regs := m, weft := s.weft.mod r f, cen := c }) (censusSkip_only r a k s.cen)

theorem refRealignCount_effect {s : State} (hs : s.Canonical) (r a k : Nat) (f : Weft → Weft) (st src : Nat) :
    let t := (s.refRealign r a k f st src).incFld (WEFT_REF_CNT r) 31 16
    t.rd (WEFT_REF_STAT r) = setBits (setBits (s.rd (WEFT_REF_STAT r)) 2 0 st) 4 3 src ∧
    t.rd (WEFT_REF_EVT r) = raised (raised (s.rd (WEFT_REF_EVT r)) 0) 7 ∧
    t.fld (WEFT_REF_CNT r) 31 16 = incSat 16 (s.fld (WEFT_REF_CNT r) 31 16) ∧
    t.fld (WEFT_REF_CNT r) 15 0 = s.fld (WEFT_REF_CNT r) 15 0 ∧ t.weftOf r = f (s.weftOf r) ∧
    RegsBut [WEFT_REF_STAT r, WEFT_REF_EVT r, WEFT_REF_CNT r] s t ∧
    t = { s with regs := t.regs, weft := t.weft, cen := { s.cen with skipped := t.cen.skipped } } := by
  obtain ⟨-, hstatCnt, hevtCnt⟩ := refRegs_apart r
  obtain ⟨hstat, hevt, hwf, -, hok, hbut, honly⟩ := refRealign_effect hs r a k f st src
  have hcnt (hi lo : Nat) : (s.refRealign r a k f st src).fld (WEFT_REF_CNT r) hi lo = s.fld (WEFT_REF_CNT r) hi lo :=
    State.fld_congr_rd (hbut _ (by simp [hstatCnt.symm, hevtCnt.symm]))
  refine ⟨(State.rd_setFld_ne hstatCnt).trans hstat, (State.rd_setFld_ne hevtCnt).trans hevt, ?_, ?_, hwf,
    (hbut.mono (List.subset_append_left _ [WEFT_REF_CNT r])).setReg (by simp),
    congrArg (State.incFld (WEFT_REF_CNT r) 31 16) honly⟩
  · rw [State.fld_incFld_same hok (by decide) (by decide), hcnt]
  · rw [← hcnt]; exact State.fld_setFld_other hok (by decide) (by decide) (.inr (by decide))

/-- R88: what a reference needs to leave ACQUIRE on its primary, or on its backup. -/
def State.acquireOk (s : State) (r : Nat) (backup : Bool) : Bool :=
  if backup then s.bEn r && s.bit (WEFT_REF_STAT r) 9 && decide (384 ≤ (s.weftOf r).noPrimary ∧ 128 ≤ (s.weftOf r).bInBand)
  else s.bit (WEFT_REF_STAT r) 8 && decide (128 ≤ (s.weftOf r).inBand)

theorem refAcquires_primary {s : State} {r : Nat} (hst : s.refState r = 1) (hvalid : s.bit (WEFT_REF_STAT r) 8 = true)
    (hband : 128 ≤ (s.weftOf r).inBand) : ¬(s.refState r ≠ 1 ∨ s.acquireOk r false = false) := by
  simp [hst, State.acquireOk, hvalid, hband]

theorem refAcquires_backup {s : State} {r : Nat} (hst : s.refState r = 1) (hen : s.bEn r = true)
    (hvalid : s.bit (WEFT_REF_STAT r) 9 = true) (hband : 384 ≤ (s.weftOf r).noPrimary ∧ 128 ≤ (s.weftOf r).bInBand) :
    ¬(s.refState r ≠ 1 ∨ s.acquireOk r true = false) := by
  simp [hst, State.acquireOk, hen, hvalid, hband]

theorem refStays {s : State} {r : Nat} {backup : Bool} (h : (decide (s.refState r = 1) && s.acquireOk r backup) = false) :
    s.refState r ≠ 1 ∨ s.acquireOk r backup = false :=
  (Bool.and_eq_false_iff.mp h).imp_left of_decide_eq_false

theorem State.holdExpiry_nominal {s : State} {r : Nat} (hst : s.refState r = 3) (htime : s.holdTime r ≤ (s.weftOf r).holdRun)
    (hno : (s.bEn r && s.bit (WEFT_REF_STAT r) 9) = false) : s.holdExpiry r = s.toNominal r := by
  rw [holdExpiry, if_pos ⟨hst, htime⟩]
  exact if_neg fun ⟨hen, hvalid⟩ => by simp [hen, hvalid] at hno

/-- Settles O12: each change of state is a change of the working state, the codes, the event and the count. -/
theorem weftTransitions : Obligations.WeftTransitions := by
  unfold Obligations.WeftTransitions
  intro r s hs w st ev
  refine ⟨fun phase hst hvalid hband => .of_exec rfl (if_neg (refAcquires_primary hst hvalid hband)) ?acquired,
    fun phase hst hen hvalid hno hband => .of_exec rfl (if_neg (refAcquires_backup hst hen hvalid ⟨hno, hband⟩)) ?acquiredBackup,
    fun hst hloss => .of_exec rfl (if_pos ⟨hst, hloss⟩) ?primaryLost,
    fun hst htime hno => .of_exec rfl (State.holdExpiry_nominal hst htime hno) ?holdNominal, ?toBackup,
    fun hst hloss => .of_exec rfl (if_pos ⟨hst, hloss⟩) ?backupLost,
    fun hst hval => .of_exec rfl (if_pos ⟨hst, hval⟩) ?restored,
    fun hst hband => .of_exec rfl (if_pos ⟨hst, hband⟩) ?returned, fun phase x hx hno => ?noCause⟩
  case acquired =>
    obtain ⟨hstat, hevt, hwf, hother, -, hbut, honly⟩ := refRealign_effect hs r _ _ _ 2 1
    refine ⟨hstat, hevt, congrArg Weft.realign hwf, ?_, hother, hbut, honly⟩
    exact (congrArg (Weft.angle · % 2 ^ 16) hwf).trans (realign_angle w.angle phase.toNat phase.isLt)
  case acquiredBackup =>
    obtain ⟨hstat, hevt, hcnt, hother, hwf, hbut, honly⟩ := refRealignCount_effect hs r _ _ _ 4 2
    exact ⟨hstat, hevt, hcnt, hother, congrArg Weft.realign hwf, hbut, honly⟩
  case primaryLost =>
    obtain ⟨hstat, hevt, hcnt, hother, hbut, honly⟩ := refMoveCount_effect (s := s.modWf r _) hs.regsOk r 3 0 false (ev := 1) (hi := 15) (lo := 0) (by decide) (by decide) (by decide)
    exact ⟨hstat, hevt, hcnt, hother 31 16 (by decide), hbut, honly⟩
  case holdNominal =>
    obtain ⟨hstat, hevt, hcnt, -, hbut, honly⟩ := refMoveCount_effect hs.regsOk r 5 3 false (ev := 3) (hi := 31) (lo := 16) (by decide) (by decide) (by decide)
    exact ⟨hstat, hevt, hcnt, hbut, honly.onlyRegs⟩
  case toBackup =>
    intro x hx hcause hen
    have hto : exec x.1 s = .next (s.toBackup r) := by
      simp only [List.mem_cons, List.not_mem_nil, or_false] at hx
      rcases hx with rfl | rfl
      · obtain ⟨hhold, hvalid⟩ := Bool.and_eq_true_iff.mp hcause
        obtain ⟨hst, htime⟩ := of_decide_eq_true hhold
        exact congrArg _ ((if_pos ⟨hst, htime⟩).trans (if_pos ⟨hen, hvalid⟩))
      · obtain ⟨hst, hb, hp⟩ := of_decide_eq_true hcause
        exact congrArg Host.Outcome.next (if_pos ⟨hst, hen, hb, hp⟩)
    obtain ⟨hstat, hevt, hcnt, -, hbut, honly⟩ := refMoveCount_effect (s := s.modWf r _) hs.regsOk r 4 2 true (ev := 2) (hi := 31) (lo := 16) (by decide) (by decide) (by decide)
    exact ⟨_, hto, hstat, hevt, hcnt, hbut, honly⟩
  case backupLost =>
    obtain ⟨hstat, hevt, hcnt, -, hbut, honly⟩ := refMoveCount_effect (s := s.modWf r _) hs.regsOk r 5 3 false (ev := 3) (hi := 31) (lo := 16) (by decide) (by decide) (by decide)
    exact ⟨hstat, hevt, hcnt, hbut, honly⟩
  case restored =>
    have hok : (s.modWf r fun w => { w with pullDone := false, inBand := 0, lossRun := 0, phRun := 0 }).RegsOk := hs.regsOk
    refine ⟨?_, (regsBut_setRef (.of_regs rfl) (by simp)).setReg (by simp), (regsOnly_setRef .refl).setReg⟩
    rw [State.rd_setBit_true (State.regsOk_setRef hok 6 1) (by decide), State.rd_setRef hok]
    rfl
  case returned =>
    obtain ⟨hstat, hevt, -, hbut, honly⟩ := refMove_effect hs.regsOk r 2 1 false (ev := 4) (by decide)
    exact ⟨hstat, hevt, hbut, honly.onlyRegs⟩
  case noCause =>
    simp only [List.mem_cons, List.not_mem_nil, or_false] at hx
    rcases hx with rfl | rfl | rfl | rfl | rfl | rfl | rfl | rfl
    · exact .of_exec rfl (if_pos (refStays (backup := false) (by rwa [Bool.and_assoc] at hno))) rfl
    · exact .of_exec rfl (if_pos (refStays (backup := true) (by rwa [Bool.and_assoc, Bool.and_assoc, ← Bool.and_assoc (s.bEn r)] at hno))) rfl
    · exact .of_exec rfl (if_neg (of_decide_eq_false hno)) rfl
    · exact .of_exec rfl (if_neg (of_decide_eq_false hno)) rfl
    · exact .of_exec rfl (if_neg (of_decide_eq_false hno)) rfl
    · exact .of_exec rfl (if_neg (of_decide_eq_false hno)) rfl
    · exact .of_exec rfl (if_neg fun ⟨hst, hen, hb, hp⟩ =>
        Bool.eq_false_iff.mp hno (Bool.and_eq_true_iff.mpr ⟨decide_eq_true ⟨hst, hb, hp⟩, hen⟩)) rfl
    · exact .of_exec rfl (if_neg (of_decide_eq_false hno)) rfl

end Sys2Proof.Machine
end

section
/-!
PROOF. A grid point is issued (R78, R81, R82, R84, R89, R91, R92).
-/

namespace Sys2Proof.Machine

open Sys2Proof.Claims

/-! ### Words stored one after another -/

theorem State.rdByte_stWords_outside {s : State} {a x : Nat} {l : List Nat} (h : x < a ∨ a + 4 * l.length ≤ x) :
    (s.stWords a l).rdByte x = s.rdByte x := by
  induction l generalizing s a with
  | nil => rfl
  | cons w l ih =>
    rw [List.length_cons] at h
    rw [stWords, ih (by omega), rdByte_st_outside (by omega)]

theorem State.ld_stWords {s : State} (h : s.MemOk) {a i : Nat} {l : List Nat} (hi : i < l.length) :
    (s.stWords a l).ld (a + 4 * i) 4 = l[i] % 2 ^ 32 := by
  induction l generalizing s a i with
  | nil => exact absurd hi (Nat.not_lt_zero i)
  | cons w l ih =>
    cases i with
    | zero =>
      rw [stWords, ld_congr fun x _ _ => rdByte_stWords_outside (.inl (by omega)), Nat.mul_zero, Nat.add_zero, ld_st_same h]
      rfl
    | succ i =>
      rw [List.length_cons] at hi
      rw [stWords, show a + 4 * (i + 1) = a + 4 + 4 * i by omega, ih (memOk_st h) (by omega), List.getElem_cons_succ]

/-! ### The registers of a reference -/

theorem gridRegs_apart (r : Nat) :
    (gridRegs r).Nodup ∧ WEFT_LOG_BASE ∉ gridRegs r ∧ WEFT_SLEW ∉ gridRegs r := by
  simp only [gridRegs, WEFT_REF_STAT, WEFT_REF_EVT, WEFT_REF_OFS, WEFT_REF_FREQ, WEFT_REF_ROCOF, WEFT_REF_ANGLE_LO,
    WEFT_REF_ANGLE_HI, WEFT_REF_NEXT_NS, WEFT_REF_NEXT_SEC, WEFT_LOG_BASE, WEFT_SLEW]
  refine ⟨?_, ?_, ?_⟩ <;> simp <;> omega

/-! ### The counts kept at a grid point -/

/-- Status bits, events and the offset of the backup are shown anew; the status bits of the sources' validity stay. -/
structure CountsShown (r : Nat) (s t : State) : Prop where
  regsOk : t.RegsOk
  valid  : ∀ i, i = 8 ∨ i = 9 → t.bit (WEFT_REF_STAT r) i = s.bit (WEFT_REF_STAT r) i
  regs   : RegsBut [WEFT_REF_STAT r, WEFT_REF_EVT r, WEFT_REF_OFS r] s t
  only   : RegsOnly s t

namespace CountsShown

variable {r : Nat} {s t : State}

theorem refl (h : s.RegsOk) : CountsShown r s s := ⟨h, fun _ _ => rfl, .of_regs rfl, .refl⟩

theorem stat {i : Nat} {v : Bool} (h : CountsShown r s t) (hi : i < 32) (h8 : i ≠ 8) (h9 : i ≠ 9) :
    CountsShown r s (t.setBit (WEFT_REF_STAT r) i v) :=
  ⟨State.regsOk_setBit h.regsOk, fun j hj => (State.bit_setBit_other h.regsOk hi (.inr (by omega))).trans (h.valid j hj),
    h.regs.setReg (by simp), h.only.setReg⟩

/-- A register of the reference besides its status. -/
theorem other {a v : Nat} (h : CountsShown r s t) (ha : a = WEFT_REF_EVT r ∨ a = WEFT_REF_OFS r) :
    CountsShown r s (t.setReg a v) := by
  have hne : WEFT_REF_STAT r ≠ a := by rcases ha with rfl | rfl <;> simp [WEFT_REF_STAT, WEFT_REF_EVT, WEFT_REF_OFS]
  exact ⟨State.regsOk_setReg h.regsOk, fun j hj => (State.bit_setReg_ne hne).trans (h.valid j hj),
    h.regs.setReg (by rcases ha with rfl | rfl <;> simp), h.only.setReg⟩

end CountsShown

theorem State.weftOf_modWf_same {s : State} {r : Nat} {f : Weft → Weft} (h : FMap.tidy s.weft = true) :
    (s.modWf r f).weftOf r = f (s.weftOf r) := FMap.at'_mod_same h

/-- What keeping the counts leaves of a reference's working state, and the frequencies it adds. -/
structure Counted (p : SourceMeas) (w w' : Weft) : Prop where
  angle    : w'.angle = w.angle
  seq      : w'.seq = w.seq
  next     : w'.next = w.next
  interval : w'.interval = w.interval
  offset   : w'.offset = w.offset
  held     : w'.held = w.held
  realign  : w'.realign = w.realign
  slewRun  : w'.slewRun = w.slewRun
  pFreqs   : w'.pFreqs = ontoFreqs p w.pFreqs

theorem weftCounts_effect {s : State} (hs : s.Canonical) (r : Nat) (p b : SourceMeas) :
    let c := s.weftCounts r p b
    Counted p (s.weftOf r) (c.weftOf r) ∧ (∀ j, j ≠ r → c.weftOf j = s.weftOf j) ∧ c.RegsOk ∧
    c.bit (WEFT_REF_STAT r) 8 = s.srcValid r false p ∧ c.bit (WEFT_REF_STAT r) 9 = s.srcValid r true b ∧
    RegsBut [WEFT_REF_STAT r, WEFT_REF_EVT r, WEFT_REF_OFS r] s c ∧ c = { s with regs := c.regs, weft := c.weft } := by
  unfold State.weftCounts
  extract_lets st pv bv w e inBand far pullDone lossRun phRun validity pulled meas sum run full offset shown c
  have h8 : (s.setBit (WEFT_REF_STAT r) 8 pv).RegsOk := State.regsOk_setBit hs.regsOk
  have h9 : ((s.setBit (WEFT_REF_STAT r) 8 pv).setBit (WEFT_REF_STAT r) 9 bv).RegsOk := State.regsOk_setBit h8
  have hvalidity : CountsShown r ((s.setBit (WEFT_REF_STAT r) 8 pv).setBit (WEFT_REF_STAT r) 9 bv) validity := by
    unfold validity State.when
    split
    · exact (CountsShown.refl h9).other (.inl rfl)
    · exact .refl h9
  have hpulled := hvalidity.stat (i := 5) (v := (st == 2 || st == 4 || st == 6) && !pullDone) (by decide) (by decide) (by decide)
  have hoffset : CountsShown r ((s.setBit (WEFT_REF_STAT r) 8 pv).setBit (WEFT_REF_STAT r) 9 bv) offset := by
    unfold offset
    split
    · exact hpulled.other (.inr rfl)
    · split
      · exact hpulled.other (.inr rfl)
      · exact hpulled
  have hshown := hoffset.stat (i := 10) (v := offset.bit (WEFT_REF_OFS r) 16) (by decide) (by decide) (by decide)
  obtain ⟨hok, hvalid, hbut, honly⟩ := hshown
  have hwf : shown.weft = s.weft := by rw [show shown = _ from honly]; rfl
  refine ⟨?_, fun j hj => ?_, hok, (hvalid 8 (.inl rfl)).trans ?_, (hvalid 9 (.inr rfl)).trans ?_, ?_, ?_⟩
  · have hsame : shown.weftOf r = s.weftOf r := congrArg (FMap.at' · r) hwf
    have hc : c.weftOf r = _ := State.weftOf_modWf_same (hwf ▸ hs.weftTidy)
    rw [hc, hsame]
    exact ⟨rfl, rfl, rfl, rfl, rfl, rfl, rfl, rfl, rfl⟩
  · exact (FMap.at'_put_other hj).trans (congrArg (FMap.at' · j) hwf)
  · rw [State.bit_setBit_other h8 (by decide) (.inr (by decide)), State.bit_setBit_same hs.regsOk (by decide)]
  · exact State.bit_setBit_same h8 (by decide)
  · exact RegsBut.trans ((RegsBut.setReg (.of_regs rfl) (by simp)).setReg (by simp)) hbut
  · exact congrArg (fun x : State => { x with weft := c.weft }) honly

end Sys2Proof.Machine
end

section
/-!
PROOF. What a grid point writes (R78, R81, R82, R84, R89, R91, R92): the frequency followed, the record, the next instant.
-/

namespace Sys2Proof.Machine

open Sys2Proof.Claims

/-! ### The frequency shown -/

/-- Frequency and rate of change that a grid point shows, whether the rate is limited (R91), and for how long it has been
too high. -/
structure GridRate where
  freq    : Nat
  roc     : Int
  limited : Bool
  slewRun : Nat

/-- The rate of a frequency `f0` that changes by `roc0`, the run of the condition before it `slewRun` and the frequency shown before it `shown`. -/
def gridRate (st slewRun interval shown f0 : Nat) (roc0 : Int) : GridRate :=
  let fast := decide (20 * 2 ^ 16 < roc0 ∨ roc0 < -(20 * 2 ^ 16 : Int))
  let run := if st = 2 ∨ st = 4 then runOf fast slewRun else 0
  let lim := decide (128 ≤ run)
  let roc := if lim then clampI (20 * 2 ^ 16) roc0 else roc0
  { freq := if lim then ((shown : Int) + roc * interval / 10 ^ 9).toNat else f0, roc := roc, limited := lim, slewRun := run }

/-- The rate at reference `r` in state `st`, its counts kept. -/
def State.refRate (c : State) (r st : Nat) : GridRate :=
  let w := c.weftOf r
  let x := followed st (c.nominal r) w.held w.pFreqs w.bFreqs
  gridRate st w.slewRun w.interval (c.rd (WEFT_REF_FREQ r)) x.1 x.2

/-! ### The writes -/

/-- The limit shows in the status, and its beginning is marked (R91). -/
def State.gridMark (r old : Nat) (lim : Bool) (s : State) : State :=
  let s := s.setBit (WEFT_REF_STAT r) 7 lim
  if lim ∧ old < 128 then s.evt (WEFT_REF_EVT r) 6 else s

/-- The frequency that the interval follows: in TRACK, BACKUP and RETURN it takes up at most 4 ac of the phase error (R82, R89). -/
def gridFreq (st freq : Nat) (e : Int) : Nat :=
  if st = 2 ∨ st = 4 ∨ st = 6 then ((freq : Int) + freq * clampI 4 e / 512).toNat else freq

/-- Frequency and rate of change shown (R91). -/
def State.gridShow (r : Nat) (g : GridRate) (s : State) : State :=
  (s.setReg (WEFT_REF_FREQ r) (g.freq % 2 ^ 32)).setReg (WEFT_REF_ROCOF r) (unsigned 32 g.roc)

/-- The record (R92). -/
def State.gridStore (r tg : Nat) (w : Weft) (s : State) : State := s.stWords (s.recAt r w.seq) (s.gridRecord r w tg)

/-- The angle of the point and the instant of the next one shown (R81). -/
def State.gridAhead (r : Nat) (w : Weft) (s : State) : State :=
  let s := (s.setReg (WEFT_REF_ANGLE_LO r) (w.angle % 2 ^ 32)).setReg (WEFT_REF_ANGLE_HI r) (w.angle / 2 ^ 32 % 2 ^ 16)
  let nx := (w.next + w.interval + 2 ^ 7) / 2 ^ 8
  (s.setReg (WEFT_REF_NEXT_NS r) (nx % 10 ^ 9)).setReg (WEFT_REF_NEXT_SEC r) (nx / 10 ^ 9 % 2 ^ 32)

/-- The offset left after the point (R84). -/
def State.offsetLeft (s : State) (w : Weft) : Int := slewOf (min (max (s.fld WEFT_SLEW 15 0) 100) 20000 : Nat) w.offset

/-- The working state after the point. -/
def Weft.issued (off : Int) (w : Weft) : Weft :=
  { w with angle := (w.angle + 512) % 2 ^ 48, next := w.next + w.interval, offset := off, timeStep := false, realign := false }

/-- The working state kept, and the point counted for a commit that waits for it (R50). -/
def State.gridKeep (r : Nat) (v : Weft) (s : State) : State :=
  let s := s.modWf r (fun _ => v)
  if s.bit SYS_XCOMMIT_STAT 0 ∧ s.xcommit.ref = r then
    { s with xcommit := { s.xcommit with issued := s.xcommit.issued + 1 } } else s

/-- The working state of the point being issued: its number, the interval after it. -/
def State.gridWeft (c : State) (r st : Nat) (p b : SourceMeas) : Weft :=
  let w := c.weftOf r
  let g := c.refRate r st
  { w with seq := (w.seq + 1) % 2 ^ 32
           interval := gridInterval (gridFreq st g.freq ((c.gridMark r w.slewRun g.limited).phaseErr r st p b)) g.roc w.interval
           slewRun := g.slewRun, lastIssue := ((c.gridMark r w.slewRun g.limited).gridShow r g).clk }

/-- The state with the record and the registers of the point written. -/
def State.gridRecorded (c : State) (r st : Nat) (p b : SourceMeas) : State :=
  let w := c.weftOf r
  let g := c.refRate r st
  (((c.gridMark r w.slewRun g.limited).gridShow r g).gridStore r ((w.next + 2 ^ 7) / 2 ^ 8) (c.gridWeft r st p b)).gridAhead r
    (c.gridWeft r st p b)

/-- The state before the point is opened. -/
def State.gridWritten (c : State) (r st : Nat) (p b : SourceMeas) : State :=
  let u := c.gridRecorded r st p b
  let w := c.gridWeft r st p b
  (u.setBit (WEFT_REF_STAT r) 6 (decide (u.offsetLeft w ≠ 0))).gridKeep r (w.issued (u.offsetLeft w))

theorem State.gridKeep_eq {r : Nat} {v : Weft} {s k : State} (h : s.modWf r (fun _ => v) = k) :
    s.gridKeep r v = if k.bit SYS_XCOMMIT_STAT 0 ∧ k.xcommit.ref = r then
      { k with xcommit := { k.xcommit with issued := k.xcommit.issued + 1 } } else k := by
  subst h
  rfl

theorem State.gridIssue_due {s : State} {r : Nat} {p b : SourceMeas} {dual : Bool}
    (h : ¬(s.power.cx = false ∨ s.refState r = 0 ∨ s.gridDue r = false)) :
    s.gridIssue r p b dual =
      let c := s.weftCounts r p b
      let w := c.weftOf r
      (c.gridWritten r (s.refState r) p b).openPoint r ((w.seq + 1) % 2 ^ 32) (w.angle / 512) ((w.next + 2 ^ 7) / 2 ^ 8) w.realign
        dual := by
  unfold gridIssue
  extract_lets st c w tg
  rw [if_neg h]
  generalize hx : followed st (c.nominal r) w.held w.pFreqs w.bFreqs = x
  obtain ⟨f0, roc0⟩ := x
  dsimp -zeta only
  extract_lets fast slewRun lim roc f1 limited marked f shown iv w2 stored angled next nx ahead slew off settled kept _ counted
  have hrate : c.refRate r st = { freq := f1, roc := roc, limited := lim, slewRun := slewRun } := by rw [refRate, hx]; rfl
  have hweft : c.gridWeft r st p b = w2 := by rw [gridWeft, hrate]; rfl
  have hrecorded : c.gridRecorded r st p b = ahead := by rw [gridRecorded, hrate, hweft]; rfl
  have hwritten : c.gridWritten r (s.refState r) p b = counted := by
    rw [gridWritten, hrecorded, hweft]
    exact gridKeep_eq (k := kept) rfl
  exact congrArg (openPoint r w2.seq (w2.angle / 512) tg w2.realign dual) hwritten.symm

end Sys2Proof.Machine
end

section
/-!
PROOF. The parts of a grid point: what each writes and leaves alone.
-/

namespace Sys2Proof.Machine

open Sys2Proof.Claims

/-! ### Registers -/

/-- The frequency, its rate of change and the limit show, and the limit's beginning is marked (R91). -/
structure RateShown (r old : Nat) (g : GridRate) (s t : State) : Prop where
  regsOk  : t.RegsOk
  freq    : t.rd (WEFT_REF_FREQ r) = g.freq % 2 ^ 32
  roc     : t.rd (WEFT_REF_ROCOF r) = unsigned 32 g.roc
  limited : t.bit (WEFT_REF_STAT r) 7 = g.limited
  valid   : ∀ i, i ≠ 7 → t.bit (WEFT_REF_STAT r) i = s.bit (WEFT_REF_STAT r) i
  begun   : g.limited = true → old < 128 → t.bit (WEFT_REF_EVT r) 6 = true
  regs    : RegsBut [WEFT_REF_STAT r, WEFT_REF_EVT r, WEFT_REF_FREQ r, WEFT_REF_ROCOF r] s t
  only    : RegsOnly s t

theorem unsigned_lt (w : Nat) (x : Int) : unsigned w x < 2 ^ w := by
  have hpos : (0 : Int) < 2 ^ w := by positivity
  have hlt := Int.emod_lt_of_pos x hpos
  rw [unsigned, Int.toNat_lt' (Nat.two_pow_pos w)]
  exact_mod_cast hlt

theorem gridMark_effect {s : State} (h : s.RegsOk) (r old : Nat) (lim : Bool) :
    let t := s.gridMark r old lim
    t.RegsOk ∧ t.bit (WEFT_REF_STAT r) 7 = lim ∧ (∀ i, i ≠ 7 → t.bit (WEFT_REF_STAT r) i = s.bit (WEFT_REF_STAT r) i) ∧
    (lim = true → old < 128 → t.bit (WEFT_REF_EVT r) 6 = true) ∧ RegsBut [WEFT_REF_STAT r, WEFT_REF_EVT r] s t ∧
    RegsOnly s t := by
  have hset : (s.setBit (WEFT_REF_STAT r) 7 lim).RegsOk := State.regsOk_setBit h
  have hbit : ∀ i, i ≠ 7 → (s.setBit (WEFT_REF_STAT r) 7 lim).bit (WEFT_REF_STAT r) i = s.bit (WEFT_REF_STAT r) i :=
    fun i hi => State.bit_setBit_other h (by decide) (.inr hi.symm)
  have hne : WEFT_REF_STAT r ≠ WEFT_REF_EVT r := (refRegs_apart r).1
  by_cases hlim : lim = true ∧ old < 128
  · rw [show s.gridMark r old lim = (s.setBit (WEFT_REF_STAT r) 7 lim).evt (WEFT_REF_EVT r) 6 from if_pos hlim]
    exact ⟨State.regsOk_evt hset, (State.bit_setReg_ne hne).trans (State.bit_setBit_same h (by decide)),
      fun i hi => (State.bit_setReg_ne hne).trans (hbit i hi), fun _ _ => State.bit_evt_same hset (by decide),
      (RegsBut.setReg (.of_regs rfl) (by simp)).setReg (by simp), RegsOnly.refl.setReg.setReg⟩
  · rw [show s.gridMark r old lim = s.setBit (WEFT_REF_STAT r) 7 lim from if_neg hlim]
    exact ⟨hset, State.bit_setBit_same h (by decide), hbit, fun hl ho => absurd ⟨hl, ho⟩ hlim,
      RegsBut.setReg (.of_regs rfl) (by simp), RegsOnly.refl.setReg⟩

theorem rateShown {s : State} (h : s.RegsOk) (r old : Nat) (g : GridRate) :
    RateShown r old g s ((s.gridMark r old g.limited).gridShow r g) := by
  obtain ⟨hok, hlim, hvalid, hevt, hbut, honly⟩ := gridMark_effect h r old g.limited
  have hstat : ∀ i, ((s.gridMark r old g.limited).gridShow r g).bit (WEFT_REF_STAT r) i =
      (s.gridMark r old g.limited).bit (WEFT_REF_STAT r) i := fun i =>
    (State.bit_setReg_ne (by simp [WEFT_REF_STAT, WEFT_REF_ROCOF])).trans
      (State.bit_setReg_ne (by simp [WEFT_REF_STAT, WEFT_REF_FREQ]))
  refine ⟨State.regsOk_setReg (State.regsOk_setReg hok), ?_, ?_, (hstat 7).trans hlim, fun i hi => (hstat i).trans (hvalid i hi),
    fun hl ho => ?_, ((hbut.mono (by simp)).setReg (by simp)).setReg (by simp), honly.setReg.setReg⟩
  · rw [State.gridShow, State.rd_setReg_ne (by simp [WEFT_REF_FREQ, WEFT_REF_ROCOF]), State.rd_setReg_same hok, Nat.mod_mod]
  · rw [State.gridShow, State.rd_setReg_same (State.regsOk_setReg hok), Nat.mod_eq_of_lt (unsigned_lt 32 g.roc)]
  · rw [State.gridShow, State.bit_setReg_ne (by simp [WEFT_REF_EVT, WEFT_REF_ROCOF]),
      State.bit_setReg_ne (by simp [WEFT_REF_EVT, WEFT_REF_FREQ])]
    exact hevt hl ho

theorem gridAhead_effect {s : State} (h : s.RegsOk) (r : Nat) (w : Weft) (left : Bool) :
    let t := (s.gridAhead r w).setBit (WEFT_REF_STAT r) 6 left
    t.rd (WEFT_REF_ANGLE_LO r) = w.angle % 2 ^ 32 ∧ t.rd (WEFT_REF_ANGLE_HI r) = w.angle / 2 ^ 32 % 2 ^ 16 ∧
    (∀ i, i ≠ 6 → t.bit (WEFT_REF_STAT r) i = s.bit (WEFT_REF_STAT r) i) ∧
    RegsBut [WEFT_REF_STAT r, WEFT_REF_ANGLE_LO r, WEFT_REF_ANGLE_HI r, WEFT_REF_NEXT_NS r, WEFT_REF_NEXT_SEC r] s t ∧
    RegsOnly s t := by
  have hlo : (s.setReg (WEFT_REF_ANGLE_LO r) (w.angle % 2 ^ 32)).RegsOk := State.regsOk_setReg h
  have hok : (s.gridAhead r w).RegsOk := State.regsOk_setReg (State.regsOk_setReg (State.regsOk_setReg hlo))
  refine ⟨?_, ?_, fun i hi => ?_, ?_, ?_⟩
  · rw [State.rd_setBit_ne (by simp [WEFT_REF_ANGLE_LO, WEFT_REF_STAT]), State.gridAhead,
      State.rd_setReg_ne (by simp [WEFT_REF_ANGLE_LO, WEFT_REF_NEXT_SEC]),
      State.rd_setReg_ne (by simp [WEFT_REF_ANGLE_LO, WEFT_REF_NEXT_NS]),
      State.rd_setReg_ne (by simp [WEFT_REF_ANGLE_LO, WEFT_REF_ANGLE_HI]), State.rd_setReg_same h, Nat.mod_mod]
  · rw [State.rd_setBit_ne (by simp [WEFT_REF_ANGLE_HI, WEFT_REF_STAT]), State.gridAhead,
      State.rd_setReg_ne (by simp [WEFT_REF_ANGLE_HI, WEFT_REF_NEXT_SEC]),
      State.rd_setReg_ne (by simp [WEFT_REF_ANGLE_HI, WEFT_REF_NEXT_NS]), State.rd_setReg_same hlo]
    omega
  · rw [State.bit_setBit_other hok (by decide) (.inr hi.symm), State.gridAhead,
      State.bit_setReg_ne (by simp [WEFT_REF_STAT, WEFT_REF_NEXT_SEC]),
      State.bit_setReg_ne (by simp [WEFT_REF_STAT, WEFT_REF_NEXT_NS]),
      State.bit_setReg_ne (by simp [WEFT_REF_STAT, WEFT_REF_ANGLE_HI]),
      State.bit_setReg_ne (by simp [WEFT_REF_STAT, WEFT_REF_ANGLE_LO])]
  · unfold State.gridAhead
    exact ((((RegsBut.setReg (.of_regs rfl) (by simp)).setReg (by simp)).setReg (by simp)).setReg (by simp)).setReg (by simp)
  · unfold State.gridAhead
    exact RegsOnly.refl.setReg.setReg.setReg.setReg.setReg

/-! ### Memory -/

theorem gridStore_effect {s : State} (h : s.MemOk) (r tg : Nat) (w : Weft) :
    let t := s.gridStore r tg w
    let a := s.recAt r w.seq
    t.ld a 4 = w.angle % 2 ^ 32 ∧ t.ld (a + 8) 4 = tg % 10 ^ 9 ∧ t.ld (a + 12) 4 = tg / 10 ^ 9 % 2 ^ 32 ∧
    t.ld (a + 16) 4 = s.rd (WEFT_REF_FREQ r) ∧ t.ld (a + 20) 4 = s.rd (WEFT_REF_ROCOF r) ∧ t.ld (a + 28) 4 = w.seq % 2 ^ 32 ∧
    (∀ x, x < a ∨ a + 32 ≤ x → t.rdByte x = s.rdByte x) ∧ OnlyMem s t := by
  intro t a
  have hlen : (s.gridRecord r w tg).length = 8 := rfl
  have hword : ∀ i (hi : i < 8), t.ld (a + 4 * i) 4 = (s.gridRecord r w tg)[i] % 2 ^ 32 := fun i hi => State.ld_stWords h hi
  refine ⟨(hword 0 (by decide)).trans (Nat.mod_mod _ _), (hword 2 (by decide)).trans (Nat.mod_eq_of_lt ?_),
    (hword 3 (by decide)).trans (Nat.mod_mod _ _), (hword 4 (by decide)).trans (Nat.mod_eq_of_lt (s.rd_lt _)),
    (hword 5 (by decide)).trans (Nat.mod_eq_of_lt (s.rd_lt _)), (hword 7 (by decide)).trans (Nat.mod_mod _ _),
    fun x hx => State.rdByte_stWords_outside (by rw [hlen]; omega), OnlyMem.stWords⟩
  show tg % 10 ^ 9 < 2 ^ 32
  omega

/-! ### The working state -/

theorem gridKeep_effect (s : State) (r : Nat) (v : Weft) :
    let t := s.gridKeep r v
    t.regs = s.regs ∧ t.mem = s.mem ∧ t.poison = s.poison ∧ (∃ m, t.weft = FMap.put m r v) ∧ (∀ j, j ≠ r → t.weftOf j = s.weftOf j) ∧
    t = { s with weft := t.weft, xcommit := { s.xcommit with issued := t.xcommit.issued } } := by
  have hother : ∀ j, j ≠ r → (s.modWf r fun _ => v).weftOf j = s.weftOf j := fun j hj => FMap.at'_put_other hj
  rw [State.gridKeep_eq rfl]
  split
  · exact ⟨rfl, rfl, rfl, ⟨_, rfl⟩, hother, rfl⟩
  · exact ⟨rfl, rfl, rfl, ⟨_, rfl⟩, hother, rfl⟩

end Sys2Proof.Machine
end

section
/-!
PROOF. A grid point is issued.
-/

namespace Sys2Proof.Machine

open Sys2Proof.Claims

/-! ### The rate -/

theorem gridRate_steady {st slewRun interval shown f : Nat} {roc : Int} (hlo : -(20 * 2 ^ 16) ≤ roc) (hhi : roc ≤ 20 * 2 ^ 16) :
    gridRate st slewRun interval shown f roc = { freq := f, roc := roc, limited := false, slewRun := 0 } := by
  have hfast : decide (20 * 2 ^ 16 < roc ∨ roc < -(20 * 2 ^ 16 : Int)) = false := decide_eq_false (by omega)
  have hrun : (if st = 2 ∨ st = 4 then runOf false slewRun else 0) = 0 := by simp [runOf]
  simp only [gridRate, hfast, hrun]
  rfl

theorem gridRate_limited {slewRun interval shown f : Nat} {roc : Int} (hroc : 20 * 2 ^ 16 < roc) (hrun : 127 ≤ slewRun) :
    gridRate 2 slewRun interval shown f roc =
      { freq := shown + 20 * 2 ^ 16 * interval / 10 ^ 9, roc := 20 * 2 ^ 16, limited := true, slewRun := slewRun + 1 } := by
  have hfast : decide (20 * 2 ^ 16 < roc ∨ roc < -(20 * 2 ^ 16 : Int)) = true := decide_eq_true (.inl hroc)
  have hclamp : clampI (20 * 2 ^ 16) roc = 20 * 2 ^ 16 := by unfold clampI; omega
  have hlim : 128 ≤ slewRun + 1 := by omega
  simp only [gridRate, hfast, runOf, true_or, if_true, hlim, decide_true, hclamp, GridRate.mk.injEq, and_true]
  omega

/-- The rate where the frequency followed changes by no more than 20 Hz/s. -/
theorem refRate_steady {c : State} {r st f : Nat} {roc : Int}
    (h : followed st (c.nominal r) (c.weftOf r).held (c.weftOf r).pFreqs (c.weftOf r).bFreqs = (f, roc))
    (hlo : -(20 * 2 ^ 16) ≤ roc) (hhi : roc ≤ 20 * 2 ^ 16) :
    c.refRate r st = { freq := f, roc := roc, limited := false, slewRun := 0 } := by
  rw [State.refRate, h, gridRate_steady hlo hhi]

/-- The rate where it has risen by more than 20 Hz/s for a cycle. -/
theorem refRate_limited {c : State} {r f : Nat} {roc : Int}
    (h : followed 2 (c.nominal r) (c.weftOf r).held (c.weftOf r).pFreqs (c.weftOf r).bFreqs = (f, roc))
    (hroc : 20 * 2 ^ 16 < roc) (hrun : 127 ≤ (c.weftOf r).slewRun) :
    c.refRate r 2 = { freq := c.rd (WEFT_REF_FREQ r) + 20 * 2 ^ 16 * (c.weftOf r).interval / 10 ^ 9, roc := 20 * 2 ^ 16
                      limited := true, slewRun := (c.weftOf r).slewRun + 1 } := by
  rw [State.refRate, h, gridRate_limited hroc hrun]

theorem followed_measured {nom held : Nat} {p : SourceMeas} {l bs : List Nat} (hp : p.measured = true) :
    followed 2 nom held (ontoFreqs p l) bs = (p.freq, rocofOf (ontoFreqs p l)) := by
  rw [ontoFreqs, if_pos hp]
  rfl

/-! ### All that is written -/

/-- Working state `v` and the point's angle, record and registers stand in `u`, all else as in `c`; `w`: the working state
with the point's number. -/
structure PointWritten (r old tg : Nat) (g : GridRate) (w v : Weft) (c u : State) : Prop where
  weft    : ∃ m, u.weft = FMap.put m r v
  others  : ∀ j, j ≠ r → u.weftOf j = c.weftOf j
  angleLo : u.rd (WEFT_REF_ANGLE_LO r) = w.angle % 2 ^ 32
  angleHi : u.rd (WEFT_REF_ANGLE_HI r) = w.angle / 2 ^ 32 % 2 ^ 16
  freq    : u.rd (WEFT_REF_FREQ r) = g.freq % 2 ^ 32
  roc     : u.rd (WEFT_REF_ROCOF r) = unsigned 32 g.roc
  limited : u.bit (WEFT_REF_STAT r) 7 = g.limited
  valid   : ∀ i, i ≠ 6 → i ≠ 7 → u.bit (WEFT_REF_STAT r) i = c.bit (WEFT_REF_STAT r) i
  begun   : g.limited = true → old < 128 → u.bit (WEFT_REF_EVT r) 6 = true
  record  : u.ld (c.recAt r w.seq) 4 = w.angle % 2 ^ 32 ∧ u.ld (c.recAt r w.seq + 8) 4 = tg % 10 ^ 9 ∧
    u.ld (c.recAt r w.seq + 12) 4 = tg / 10 ^ 9 % 2 ^ 32 ∧ u.ld (c.recAt r w.seq + 16) 4 = u.rd (WEFT_REF_FREQ r) ∧
    u.ld (c.recAt r w.seq + 20) 4 = u.rd (WEFT_REF_ROCOF r) ∧ u.ld (c.recAt r w.seq + 28) 4 = w.seq % 2 ^ 32 ∧
    ∀ x, x < c.recAt r w.seq ∨ c.recAt r w.seq + 32 ≤ x → u.rdByte x = c.rdByte x
  regs    : RegsBut (gridRegs r) c u
  only    : u = { c with regs := u.regs, mem := u.mem, poison := u.poison, weft := u.weft
                         xcommit := { c.xcommit with issued := u.xcommit.issued } }

theorem State.ld_congr_mem {s t : State} (h : t.mem = s.mem) (a n : Nat) : t.ld a n = s.ld a n :=
  State.ld_congr fun x _ _ => by rw [State.rdByte, h, State.rdByte]

theorem shownRegs_subset (r : Nat) :
    [WEFT_REF_STAT r, WEFT_REF_EVT r, WEFT_REF_FREQ r, WEFT_REF_ROCOF r] ⊆ gridRegs r := by simp [gridRegs]

theorem aheadRegs_subset (r : Nat) :
    [WEFT_REF_STAT r, WEFT_REF_ANGLE_LO r, WEFT_REF_ANGLE_HI r, WEFT_REF_NEXT_NS r, WEFT_REF_NEXT_SEC r] ⊆ gridRegs r := by
  simp [gridRegs]

theorem pointOnly {c sh st se u : State} (hsh : RegsOnly c sh) (hst : OnlyMem sh st) (hse : RegsOnly st se)
    (hsame : u.regs = se.regs ∧ u.mem = se.mem ∧ u.poison = se.poison)
    (hu : u = { se with weft := u.weft, xcommit := { se.xcommit with issued := u.xcommit.issued } }) :
    u = { c with regs := u.regs, mem := u.mem, poison := u.poison, weft := u.weft
                 xcommit := { c.xcommit with issued := u.xcommit.issued } } := by
  obtain ⟨hregs, hmem, hpoison⟩ := hsame
  obtain ⟨R, rfl⟩ : ∃ R, sh = { c with regs := R } := ⟨_, hsh⟩
  obtain ⟨M, P, rfl⟩ : ∃ M P, st = { c with regs := R, mem := M, poison := P } := ⟨_, _, hst⟩
  obtain ⟨R', rfl⟩ : ∃ R', se = { c with regs := R', mem := M, poison := P } := ⟨_, hse⟩
  rw [hregs, hmem, hpoison]
  exact hu

theorem pointWritten {c sh : State} {r old tg : Nat} {g : GridRate} {w v : Weft} {left : Bool} (hmem : c.MemOk)
    (hshown : RateShown r old g c sh) :
    PointWritten r old tg g w v c ((((sh.gridStore r tg w).gridAhead r w).setBit (WEFT_REF_STAT r) 6 left).gridKeep r v) := by
  obtain ⟨hok, hfreq, hroc, hlim, hvalid, hbegun, hbut, honly⟩ := hshown
  obtain ⟨-, hbase, -⟩ := gridRegs_apart r
  have hshmem : sh.mem = c.mem := by rw [show sh = _ from honly]
  have hat : sh.recAt r w.seq = c.recAt r w.seq := by
    rw [State.recAt, State.area, hbut _ fun h => hbase (shownRegs_subset r h)]; rfl
  obtain ⟨h0, h2, h3, h4, h5, h7, hout, hstored⟩ := gridStore_effect (show sh.MemOk by rw [State.MemOk, hshmem]; exact hmem) r tg w
  have hstregs : (sh.gridStore r tg w).regs = sh.regs := by rw [show sh.gridStore r tg w = _ from hstored]
  generalize sh.gridStore r tg w = st at *
  obtain ⟨hlo, hhi, hbits, habut, haonly⟩ := gridAhead_effect (show st.RegsOk by rw [State.RegsOk, hstregs]; exact hok) r w left
  generalize (st.gridAhead r w).setBit (WEFT_REF_STAT r) 6 left = se at *
  have hsemem : se.mem = st.mem := by rw [show se = _ from haonly]
  obtain ⟨hkregs, hkmem, hkpoison, hkweft, hkothers, hkonly⟩ := gridKeep_effect se r v
  generalize se.gridKeep r v = u at *
  have hreg : ∀ a, a ∉ [WEFT_REF_STAT r, WEFT_REF_ANGLE_LO r, WEFT_REF_ANGLE_HI r, WEFT_REF_NEXT_NS r, WEFT_REF_NEXT_SEC r] →
      u.rd a = sh.rd a := fun a ha => ((State.rd_congr hkregs a).trans (habut a ha)).trans (State.rd_congr hstregs a)
  have hstat : ∀ i, i ≠ 6 → u.bit (WEFT_REF_STAT r) i = sh.bit (WEFT_REF_STAT r) i := fun i hi =>
    ((State.bit_congr hkregs _ i).trans (hbits i hi)).trans (State.bit_congr hstregs _ i)
  have hrfreq := hreg (WEFT_REF_FREQ r) (by
    simp [WEFT_REF_FREQ, WEFT_REF_STAT, WEFT_REF_ANGLE_LO, WEFT_REF_ANGLE_HI, WEFT_REF_NEXT_NS, WEFT_REF_NEXT_SEC])
  have hrroc := hreg (WEFT_REF_ROCOF r) (by
    simp [WEFT_REF_ROCOF, WEFT_REF_STAT, WEFT_REF_ANGLE_LO, WEFT_REF_ANGLE_HI, WEFT_REF_NEXT_NS, WEFT_REF_NEXT_SEC])
  have hrevt := hreg (WEFT_REF_EVT r) (by
    simp [WEFT_REF_EVT, WEFT_REF_STAT, WEFT_REF_ANGLE_LO, WEFT_REF_ANGLE_HI, WEFT_REF_NEXT_NS, WEFT_REF_NEXT_SEC])
  have hld : ∀ a, u.ld a 4 = st.ld a 4 := fun a => State.ld_congr_mem (hkmem.trans hsemem) a 4
  rw [hat] at h0 h2 h3 h4 h5 h7 hout
  constructor
  case weft => exact hkweft
  case others =>
    refine fun j hj => (hkothers j hj).trans ?_
    rw [State.weftOf, show se = _ from haonly, show st = _ from hstored, show sh = _ from honly]; rfl
  case angleLo => exact (State.rd_congr hkregs _).trans hlo
  case angleHi => exact (State.rd_congr hkregs _).trans hhi
  case freq => exact hrfreq.trans hfreq
  case roc => exact hrroc.trans hroc
  case limited => exact (hstat 7 (by decide)).trans hlim
  case valid => exact fun i h6 h7 => (hstat i h6).trans (hvalid i h7)
  case begun => exact fun hl ho => by rw [State.bit, hrevt]; exact hbegun hl ho
  case record =>
    simp only [hld, hrfreq, hrroc]
    refine ⟨h0, h2, h3, h4, h5, h7, fun x hx => ?_⟩
    rw [State.rdByte, hkmem, hsemem, ← State.rdByte, hout x hx, State.rdByte, hshmem, State.rdByte]
  case regs =>
    exact fun a ha => (hreg a fun h => ha (aheadRegs_subset r h)).trans (hbut a fun h => ha (shownRegs_subset r h))
  case only => exact pointOnly honly hstored haonly ⟨hkregs, hkmem, hkpoison⟩ hkonly

theorem gridWritten_point {c : State} (hok : c.RegsOk) (hmem : c.MemOk) (r st : Nat) (p b : SourceMeas) :
    let w := c.weftOf r
    PointWritten r w.slewRun ((w.next + 2 ^ 7) / 2 ^ 8) (c.refRate r st) (c.gridWeft r st p b)
      ((c.gridWeft r st p b).issued (slewOf (min (max (c.fld WEFT_SLEW 15 0) 100) 20000 : Nat) w.offset)) c
      (c.gridWritten r st p b) := by
  intro w
  have hshown := rateShown hok r w.slewRun (c.refRate r st)
  have hwritten : ∀ v, PointWritten r w.slewRun ((w.next + 2 ^ 7) / 2 ^ 8) (c.refRate r st) (c.gridWeft r st p b) v c
      ((((c.gridRecorded r st p b).setBit (WEFT_REF_STAT r) 6
        (decide ((c.gridRecorded r st p b).offsetLeft (c.gridWeft r st p b) ≠ 0))).gridKeep r v)) :=
    fun v => pointWritten hmem hshown
  have hslew : (c.gridRecorded r st p b).fld WEFT_SLEW 15 0 = c.fld WEFT_SLEW 15 0 := by
    have hne : WEFT_SLEW ≠ WEFT_REF_STAT r := fun h => (gridRegs_apart r).2.2 (h ▸ List.mem_cons_self)
    have hkept := State.rd_congr (gridKeep_effect ((c.gridRecorded r st p b).setBit (WEFT_REF_STAT r) 6
        (decide ((c.gridRecorded r st p b).offsetLeft (c.gridWeft r st p b) ≠ 0))) r w).1 WEFT_SLEW
    rw [State.rd_setBit_ne hne] at hkept
    exact State.fld_congr_rd (hkept.symm.trans ((hwritten w).regs _ (gridRegs_apart r).2.2))
  have hoff : (c.gridRecorded r st p b).offsetLeft (c.gridWeft r st p b) =
      slewOf (min (max (c.fld WEFT_SLEW 15 0) 100) 20000 : Nat) w.offset := by
    rw [State.offsetLeft, hslew]; rfl
  have hpoint := hwritten ((c.gridWeft r st p b).issued ((c.gridRecorded r st p b).offsetLeft (c.gridWeft r st p b)))
  rw [hoff] at hpoint
  rw [State.gridWritten, hoff]
  exact hpoint

theorem gridWeft_lastIssue {c : State} (hok : c.RegsOk) (r st : Nat) (p b : SourceMeas) :
    (c.gridWeft r st p b).lastIssue = c.clk := by
  obtain ⟨R, hshown⟩ : ∃ R, (c.gridMark r (c.weftOf r).slewRun (c.refRate r st).limited).gridShow r (c.refRate r st) =
      { c with regs := R } := ⟨_, (rateShown hok r (c.weftOf r).slewRun (c.refRate r st)).only⟩
  rw [State.gridWeft, hshown]

/-- The interval of a state that takes up no phase error. -/
theorem gridWeft_interval {c : State} {r st : Nat} {p b : SourceMeas} {g : GridRate} (hg : c.refRate r st = g)
    (h : st = 1 ∨ st = 3 ∨ st = 5) :
    (c.gridWeft r st p b).interval = gridInterval g.freq g.roc (c.weftOf r).interval := by
  subst hg
  rw [State.gridWeft, gridFreq, if_neg (by omega)]

/-- The interval in TRACK takes up the phase error of the primary. -/
theorem gridWeft_interval_track {c : State} {r : Nat} {p b : SourceMeas} {g : GridRate} (hg : c.refRate r 2 = g) :
    (c.gridWeft r 2 p b).interval =
      gridInterval ((g.freq : Int) + g.freq * clampI 4 p.phase / 512).toNat g.roc (c.weftOf r).interval := by
  subst hg
  rfl

end Sys2Proof.Machine
end

section
/-!
PROOF. A grid point is issued: the statement.
-/

namespace Sys2Proof.Machine

open Sys2Proof.Claims

theorem gridPointIssue_idle {s : State} {r : Nat} {p b : SourceMeas} {dual : Bool}
    (h : s.power.cx = false ∨ s.refState r = 0 ∨ s.gridDue r = false) : s.gridPointIssue r p b dual = s := by
  have hidle : s.gridIssue r p b dual = s := if_pos h
  rw [State.gridPointIssue, hidle, if_pos rfl]

/-- The counts kept and the point written, together. -/
theorem issued_only {s c u : State} (hc : c = { s with regs := c.regs, weft := c.weft })
    (hu : u = { c with regs := u.regs, mem := u.mem, poison := u.poison, weft := u.weft
                       xcommit := { c.xcommit with issued := u.xcommit.issued } }) :
    u = { s with regs := u.regs, mem := u.mem, poison := u.poison, weft := u.weft
                 xcommit := { s.xcommit with issued := u.xcommit.issued } } := by
  obtain ⟨R, W, rfl⟩ : ∃ R W, c = { s with regs := R, weft := W } := ⟨_, _, hc⟩
  exact hu

theorem countsRegs_subset (r : Nat) : [WEFT_REF_STAT r, WEFT_REF_EVT r, WEFT_REF_OFS r] ⊆ gridRegs r := by simp [gridRegs]

theorem nominal_lt (s : State) (r : Nat) : s.nominal r < 2 ^ 32 := by
  unfold State.nominal
  split <;> decide

theorem cfg_not_gridReg (r : Nat) : WEFT_REF_CFG r ∉ gridRegs r := by
  simp [gridRegs, WEFT_REF_CFG, WEFT_REF_STAT, WEFT_REF_EVT, WEFT_REF_OFS, WEFT_REF_FREQ, WEFT_REF_ROCOF, WEFT_REF_ANGLE_LO,
    WEFT_REF_ANGLE_HI, WEFT_REF_NEXT_NS, WEFT_REF_NEXT_SEC]

/-- What a point that is due answers, and what its counts kept leave. -/
theorem gridPointIssue_due {s : State} {r : Nat} {p b : SourceMeas} {dual : Bool} {w : Weft} (hw : s.weftOf r = w)
    (h : ¬(s.power.cx = false ∨ s.refState r = 0 ∨ s.gridDue r = false)) (hcount : Counted p w ((s.weftCounts r p b).weftOf r)) :
    s.gridPointIssue r p b dual =
      let x := ((s.weftCounts r p b).gridWritten r (s.refState r) p b).openPoint r ((w.seq + 1) % 2 ^ 32) (w.angle / 512)
        ((w.next + 2 ^ 7) / 2 ^ 8) w.realign dual
      if (x.weftOf r).seq = w.seq then x else (x.stagingIssue r).angleSend r (w.angle / 512) ((w.next + 2 ^ 7) / 2 ^ 8) := by
  subst hw
  have hissue := State.gridIssue_due (p := p) (b := b) (dual := dual) h
  simp only [hcount.angle, hcount.seq, hcount.next, hcount.realign] at hissue
  rw [State.gridPointIssue, hissue]

/-- Settles O13: the counts kept at the point (`weftCounts_effect`), then all that the point writes (`gridWritten_point`). -/
theorem gridPoint : Obligations.GridPoint := by
  intro r p b dual s hs
  refine ⟨fun h => .of_exec rfl (gridPointIssue_idle h) rfl, fun hpower hstate hdue => ?_⟩
  intro w k tg
  obtain ⟨hcount, hothers, hok, h8, h9, hbut, honly⟩ := weftCounts_effect hs r p b
  have hissue := gridPointIssue_due (dual := dual) rfl (by simp [hpower, hstate, hdue]) hcount
  have hmem : (s.weftCounts r p b).MemOk := by rw [State.MemOk, honly]; exact hs.memOk
  generalize s.weftCounts r p b = c at *
  have hpoint := gridWritten_point hok hmem r (s.refState r) p b
  have hsame : ∀ a ∉ gridRegs r, c.rd a = s.rd a := fun a ha => hbut a fun h => ha (countsRegs_subset r h)
  obtain ⟨-, hbase, hslew⟩ := gridRegs_apart r
  have hrecAt : c.recAt r k = s.recAt r k := by rw [State.recAt, State.area, hsame _ hbase]; rfl
  have hlast := gridWeft_lastIssue hok r (s.refState r) p b
  have hclk : c.clk = s.clk := by rw [honly]
  have hkseq : k % 2 ^ 32 = k := Nat.mod_mod _ _
  obtain ⟨hweft, hrest, hlo, hhi, hfreq, hroc, hlim, hvalid, hbegun, hrecord, hregs, hwonly⟩ := hpoint
  have hnom : c.nominal r = s.nominal r := by
    rw [State.nominal, State.bit, hsame _ (cfg_not_gridReg r)]; rfl
  have hshownFreq : c.rd (WEFT_REF_FREQ r) = s.rd (WEFT_REF_FREQ r) :=
    hbut _ (by simp [WEFT_REF_FREQ, WEFT_REF_STAT, WEFT_REF_EVT, WEFT_REF_OFS])
  refine .of_exec rfl hissue ⟨_, _, rfl, hweft, congrArg (fun q => (q + 1) % 2 ^ 32) hcount.seq,
    congrArg (fun q => (q + 512) % 2 ^ 48) hcount.angle, hlast.trans hclk,
    congrArg (· + (c.gridWeft r (s.refState r) p b).interval) hcount.next, rfl, ?offset, fun j hj => (hrest j hj).trans (hothers j hj),
    ?lo, ?hi, (hvalid 8 (by decide) (by decide)).trans h8, (hvalid 9 (by decide) (by decide)).trans h9, ?track, ?hold, ?nominal,
    ?record, fun a ha => (hregs a ha).trans (hsame a ha), issued_only honly hwonly⟩
  case offset =>
    show slewOf _ _ = _
    rw [slewOf, State.fld, hsame _ hslew, hcount.offset]; rfl
  case lo => rw [hlo]; exact congrArg (· % 2 ^ 32) hcount.angle
  case hi => rw [hhi]; exact congrArg (· / 2 ^ 32 % 2 ^ 16) hcount.angle
  case track =>
    intro hst hp roc
    have hfollowed : followed 2 (c.nominal r) (c.weftOf r).held (c.weftOf r).pFreqs (c.weftOf r).bFreqs = (p.freq, roc) := by
      rw [hcount.pFreqs, followed_measured hp]
    rw [hst] at hfreq hroc hlim hbegun ⊢
    refine ⟨fun hmin hmax => ?_, fun hfast hrun => ?_⟩
    · have hg := refRate_steady hfollowed hmin hmax
      rw [hg] at hfreq hroc hlim
      refine ⟨hfreq, hroc, hlim, ?_⟩
      show (c.gridWeft r 2 p b).interval = _
      rw [gridWeft_interval_track hg, hcount.interval]
    · have hg := refRate_limited hfollowed hfast (by rw [hcount.slewRun]; exact hrun)
      rw [hg] at hfreq hroc hlim hbegun
      refine ⟨hlim, hroc, ?_, fun hfirst => hbegun rfl (lt_of_eq_of_lt (hcount.slewRun.trans hfirst) (by decide))⟩
      rw [hfreq, hshownFreq, hcount.interval]
  case hold =>
    intro hst
    have hfollowed : followed 3 (c.nominal r) (c.weftOf r).held (c.weftOf r).pFreqs (c.weftOf r).bFreqs = (w.held, 0) := by
      rw [hcount.held]; rfl
    rw [hst] at hfreq hroc ⊢
    have hg := refRate_steady hfollowed (by decide) (by decide)
    rw [hg] at hfreq hroc
    refine ⟨hfreq, hroc, ?_⟩
    show (c.gridWeft r 3 p b).interval = _
    rw [gridWeft_interval hg (by decide), hcount.interval]
  case nominal =>
    intro hst
    have hfollowed : followed (s.refState r) (c.nominal r) (c.weftOf r).held (c.weftOf r).pFreqs (c.weftOf r).bFreqs =
        (s.nominal r, 0) := by
      rw [hnom, followed, if_neg (by omega), if_neg (by omega), if_neg (by omega)]
    have hg := refRate_steady hfollowed (by decide) (by decide)
    rw [hg] at hfreq hroc
    refine ⟨hfreq.trans (Nat.mod_eq_of_lt (nominal_lt s r)), hroc, ?_⟩
    show (c.gridWeft r (s.refState r) p b).interval = _
    rw [gridWeft_interval hg (by omega), hcount.interval]
  case record =>
    have hseq : (c.gridWeft r (s.refState r) p b).seq = k := congrArg (fun q => (q + 1) % 2 ^ 32) hcount.seq
    have hangle : (c.gridWeft r (s.refState r) p b).angle = w.angle := hcount.angle
    rw [hseq, hrecAt, hangle, hkseq, hcount.next] at hrecord
    obtain ⟨h0, h2, h3, h4, h5, h7, hout⟩ := hrecord
    exact ⟨h0, h2, h3, h4, h5, h7, fun x hx => (hout x hx).trans (by rw [State.rdByte, honly, State.rdByte])⟩

end Sys2Proof.Machine
end

section
/-!
PROOF. What goes on in a tick besides the time unit's own count leaves the time unit alone: one lemma per operation on its way.
-/

namespace Sys2Proof.Machine.State

variable {s : State}

/-! ### Composition -/

theorem each_time {α : Type} {l : List α} {f : α → State → State} (hf : ∀ x t, (f x t).time = t.time) :
    (s.each l f).time = s.time :=
  each_invariant (P := fun t => t.time = s.time) rfl fun x _ t ht => (hf x t).trans ht

theorem when_time {c : Bool} {f : State → State} (hf : ∀ t, (f t).time = t.time) : (s.when c f).time = s.time := by
  unfold State.when
  split
  · exact hf s
  · rfl

/-- The state of a pair that an operation answers. -/
theorem time_of_pair {β : Type} {x : State × β} {t : State} {y : β} (h : x = (t, y)) : t.time = x.1.time := by rw [h]

theorem foldlPair_time {α β : Type} {l : List α} {f : State × β → α → State × β} {a : State × β}
    (hf : ∀ x y, (f x y).1.time = x.1.time) : (l.foldl f a).1.time = a.1.time := by
  induction l generalizing a with
  | nil => rfl
  | cons y l ih => exact ih.trans (hf a y)

/-! ### Memory and registers -/

@[simp] theorem modSl_time {n : Nat} {f : Slice → Slice} : (s.modSl n f).time = s.time := rfl
@[simp] theorem modPr_time {p : Nat} {f : Pair → Pair} : (s.modPr p f).time = s.time := rfl
@[simp] theorem modSwc_time {f : Switch → Switch} : (s.modSwc f).time = s.time := rfl
@[simp] theorem modBkd_time {f : Backup → Backup} : (s.modBkd f).time = s.time := rfl
@[simp] theorem modProg_time {p : Nat} {f : LgeProg → LgeProg} : (s.modProg p f).time = s.time := rfl

@[simp] theorem wrBytes_time {a : Nat} {l : List Byte} : (s.wrBytes a l).time = s.time := by
  rw [show s.wrBytes a l = _ from OnlyMem.wrBytes]

@[simp] theorem stWords_time {a : Nat} {l : List Nat} : (s.stWords a l).time = s.time := by
  rw [show s.stWords a l = _ from OnlyMem.stWords]

@[simp] theorem trackWrite_time {a k : Nat} : (s.trackWrite a k).time = s.time :=
  each_time fun n t => by
    split
    · rfl
    · exact modSl_time

@[simp] theorem markBlocks_time {a k : Nat} : (s.markBlocks a k).time = s.time := by
  unfold markBlocks
  extract_lets b lo hi
  split
  · exact each_time fun _ _ => rfl
  · rfl

@[simp] theorem wrote_time {a k : Nat} : (s.wrote a k).time = s.time := by
  rw [wrote, markBlocks_time, trackWrite_time]

@[simp] theorem dma_time {a : Nat} {l : List Byte} : (s.dma a l).time = s.time := by
  rw [dma, wrBytes_time, wrote_time]

@[simp] theorem dmaWords_time {a : Nat} {l : List Nat} : (s.dmaWords a l).time = s.time := by
  rw [dmaWords, stWords_time, wrote_time]

/-! ### Ports -/

@[simp] theorem macSent_time {p len : Nat} : (s.macSent p len).time = s.time := rfl

@[simp] theorem wakePort_time {p : Nat} : (s.wakePort p).time = s.time := by
  unfold wakePort
  split <;> rfl

@[simp] theorem directEnd_time {p : Nat} : (s.directEnd p).time = s.time := by
  unfold directEnd
  split
  · split <;> rfl
  · rfl

@[simp] theorem directStart_time {p : Nat} {d : Direct} {rest : List Direct} : (s.directStart p d rest).time = s.time :=
  when_time (s := s.emit d.out) fun _ => inc_time

@[simp] theorem directNext_time {p : Nat} : (s.directNext p).time = s.time := by
  unfold directNext
  split
  · split
    · exact directStart_time
    · rfl
  · rfl

/-! ### Queues of the switch -/

@[simp] theorem showQ_time {p q : Nat} : (s.showQ p q).time = s.time := rfl
@[simp] theorem setQ_time {p q : Nat} {l : List SwFrame} : (s.setQ p q l).time = s.time := rfl
@[simp] theorem freeCells_time {f : SwFrame} : (s.freeCells f).time = s.time := rfl

@[simp] theorem writeBack_time {id status port ts : Nat} : (s.writeBack id status port ts).time = s.time := by
  unfold writeBack
  extract_lets a w2 t
  rw [dmaWords_time]
  exact dmaWords_time

@[simp] theorem descDone_time {id : Nat} : (s.descDone id).time = s.time := by
  unfold descDone
  extract_lets d a st t
  split
  · rfl
  · generalize lowestPort d.sent = x
    obtain ⟨p, sent⟩ := x
    dsimp -zeta only
    extract_lets ts
    rw [writeBack_time, modSwc_time]
    unfold t
    split <;> rfl

@[simp] theorem descNote_time {f : SwFrame} {note : TxDesc → TxDesc} : (s.descNote f note).time = s.time := by
  unfold descNote
  split
  · rfl
  · rw [descDone_time, modSwc_time]

@[simp] theorem swAdmit_time {p q : Nat} {f : SwFrame} : (s.swAdmit p q f).1.time = s.time := by
  unfold swAdmit
  split
  · rw [descNote_time, inc_time]
  · split
    · rw [descNote_time, inc_time]
    · rw [wakePort_time, setQ_time, setReg_time]

@[simp] theorem rxRing_time {r selv : Nat} {octets : List Byte} : (s.rxRing r octets selv).time = s.time := by
  unfold rxRing
  extract_lets cfg h a w1 buf t u
  split
  · rfl
  · rw [inc_time, setReg_time]
    unfold u t
    simp only [dmaWords_time, dma_time]

@[simp] theorem tcCorrect_time {p : Nat} {f : SwFrame} : (s.tcCorrect p f).1.time = s.time := by
  unfold tcCorrect
  extract_lets
  split
  · rfl
  · split
    · rfl
    · split
      · split <;> rfl
      · split
        · split <;> rfl
        · rfl

@[simp] theorem txEnd_time {p : Nat} : (s.txEnd p).time = s.time := by
  unfold txEnd
  split
  · split
    · rw [descNote_time, when_time fun _ => inc_time, inc_time, macSent_time, showQ_time, freeCells_time, modSwc_time]
    · rfl
  · rfl

@[simp] theorem txFree_time {p : Nat} : (s.txFree p).time = s.time := by
  unfold txFree
  split
  · extract_lets
    split <;> rfl
  · rfl

end Sys2Proof.Machine.State
end

section
/-!
PROOF. The switch leaves the time unit alone.
-/

namespace Sys2Proof.Machine.State

variable {s : State}

/-! ### Heads of queues -/

@[simp] theorem txStart_time {p q : Nat} {f : SwFrame} : (s.txStart p q f).time = s.time := by
  unfold txStart
  extract_lets ts
  split
  next t l hcorr =>
    extract_lets o u v rest
    rw [showQ_time, modSwc_time]
    have hv : v.time = u.time := by
      unfold v
      split
      · rw [modSwc_time]
      · rfl
    rw [hv, emit_time, time_of_pair hcorr, tcCorrect_time]

@[simp] theorem deliver_time {p q : Nat} {f : SwFrame} : (s.deliver p q f).time = s.time := by
  unfold deliver
  extract_lets t sv u v
  have hu : u.time = s.time := by
    unfold u
    split <;> rfl
  rw [descNote_time]
  unfold v
  split
  · rw [rxRing_time, hu]
  · rw [emit_time, hu]

@[simp] theorem sendHead_time {p : Nat} : (s.sendHead p).time = s.time := by
  unfold sendHead
  split
  · rfl
  · split
    · rfl
    · extract_lets t
      split
      · rw [txStart_time, setQ_time]
      · rw [deliver_time, setQ_time]

/-! ### Captured heads -/

@[simp] theorem hcWrite_time {c selv idx gap lost seq : Nat} {head : List Byte} :
    (s.hcWrite c head selv idx gap lost seq).time = s.time := by
  unfold hcWrite
  extract_lets wr a t u
  rw [when_time fun _ => inc_time, setReg_time, dmaWords_time, dma_time]

@[simp] theorem hcLose_time {c n : Nat} : (s.hcLose c n).time = s.time := by
  unfold hcLose
  extract_lets h g
  rw [inc_time, modSwc_time]

@[simp] theorem hcDrop_time {c : Nat} : (s.hcDrop c).time = s.time := by
  unfold hcDrop
  extract_lets a n m t
  rw [setReg_time]
  unfold t
  split
  · rw [modSwc_time]
  · rw [hcLose_time]

@[simp] theorem hcCapture_time {c selv idx : Nat} {head : List Byte} : (s.hcCapture c head selv idx).time = s.time := by
  unfold hcCapture
  extract_lets cfg h n t u v
  have hv : v.time = s.time := by
    unfold v
    split
    · rw [modSwc_time, hcWrite_time, modSwc_time]
    · rw [modSwc_time]
  split
  · rfl
  · split
    · rw [hcWrite_time, hv]
    · split
      · rw [hcWrite_time, hcDrop_time, hv]
      · rw [hcLose_time, hv]

/-! ### Copies -/

@[simp] theorem place_time {p q : Nat} {cut : Bool} {f : SwFrame} : (s.place p q cut f).1.time = s.time := by
  unfold place
  split
  next t ok hroom =>
    have ht : t.time = s.time := (time_of_pair hroom).trans swAdmit_time
    split
    · rw [sendHead_time, ht]
    · exact ht

@[simp] theorem portSettle_time {p : Nat} : (s.portSettle p).time = s.time := by
  rw [portSettle, directEnd_time, txEnd_time]

@[simp] theorem toExternal_time {q : Nat} {noCut cross : Bool} {x : Nat × SwFrame} :
    (s.toExternal q noCut cross x).1.time = s.time := by
  obtain ⟨p, f⟩ := x
  unfold toExternal
  dsimp -zeta only
  extract_lets t cut
  split
  · rw [descNote_time, portSettle_time]
  · split
    · rw [descNote_time, inc_time, portSettle_time]
    · exact place_time.trans portSettle_time

@[simp] theorem toInternal_time {q : Nat} {noCut : Bool} {x : Nat × SwFrame} : (s.toInternal q noCut x).1.time = s.time := by
  obtain ⟨p, f⟩ := x
  unfold toInternal
  dsimp -zeta only
  extract_lets cut
  split
  · rw [descNote_time]
  · exact place_time

theorem placeAll_time {g : Nat × SwFrame → State → State × Bool × Bool} {l : List (Nat × SwFrame)}
    (hg : ∀ x t, (g x t).1.time = t.time) : (s.placeAll g l).1.time = s.time :=
  foldlPair_time fun a x => hg x a.1

@[simp] theorem externals_time {ports : List Nat} {own : Bool} {inPair : Option Nat} {f : SwFrame} :
    (s.externals ports own inPair f).1.time = s.time :=
  each_time fun _ _ => modSwc_time

@[simp] theorem forward_time {d : Decision} {q : Nat} {p : Parsed} {f : SwFrame} {dupLoc dupFwd : Bool} {ring : Option Nat} :
    (s.forward d q p f dupLoc dupFwd ring).1.time = s.time := by
  unfold forward
  extract_lets inPair own reserved hsr ports f'
  clear_value inPair
  split
  next t ext hext =>
    have ht : t.time = s.time := (time_of_pair hext).trans externals_time
    extract_lets ext' ddDrop u ints n e v w
    have hu : u.time = t.time := each_time fun _ _ => by split <;> rfl
    have hv : v.time = u.time := by
      unfold v
      split
      · rw [modSwc_time]
      · rfl
    have hw : w.time = v.time := by
      unfold w
      split
      · split
        · rw [descDone_time]
        · rfl
      · rfl
    split
    next x c1 b1 hx =>
      have hxt : x.time = w.time := (time_of_pair hx).trans (placeAll_time fun _ _ => toExternal_time)
      split
      next y c2 b2 hy =>
        have hyt : y.time = x.time := (time_of_pair hy).trans (placeAll_time fun _ _ => toInternal_time)
        extract_lets z
        rw [when_time fun _ => inc_time, when_time fun _ => inc_time, hyt, hxt, hw, hv, hu, ht]

@[simp] theorem mirrorCopy_time {f : SwFrame} : (s.mirrorCopy f).time = s.time := by
  unfold mirrorCopy
  extract_lets p cfg n t c
  split
  · rfl
  · split
    · rw [modSwc_time]
    · split
      · rw [inc_time, modSwc_time]
      · split
        · rw [inc_time, modSwc_time]
        · rw [swAdmit_time, modSwc_time]

@[simp] theorem decide'_time {p : Nat} {f : Parsed} : (s.decide' p f).1.time = s.time := by
  unfold decide'
  extract_lets t vid k
  split
  · extract_lets d
    split <;> rfl
  · rfl

@[simp] theorem switchIn_time {p err path : Nat} {octets : List Byte} {bad dupLoc dupFwd : Bool} {given desc ring : Option Nat} :
    (s.switchIn p octets err path bad given desc dupLoc dupFwd ring).time = s.time := by
  unfold switchIn
  extract_lets pf f
  split
  next t d hdecide =>
    have ht : t.time = s.time := (time_of_pair hdecide).trans decide'_time
    extract_lets q
    split
    next u cut hforward =>
      have hu : u.time = t.time := (time_of_pair hforward).trans forward_time
      extract_lets v
      have hv : v.time = u.time := mirrorCopy_time
      split
      · rw [hcCapture_time, hv, hu, ht]
      · rw [hv, hu, ht]

/-! ### The input queues -/

@[simp] theorem feed_time {p : Nat} {x : Ingress} : (s.feed p x).time = s.time := by
  unfold feed
  split
  · rw [switchIn_time]
  · extract_lets f e t
    have ht : t.time = s.time := by
      unfold t
      split
      · extract_lets u
        split
        · rw [descDone_time, modSwc_time]
        · rw [modSwc_time]
      · rfl
    split
    next y c b hy => rw [when_time fun _ => inc_time, time_of_pair hy, placeAll_time fun _ _ => toExternal_time, ht]

@[simp] theorem admitNext_time {p : Nat} : (s.admitNext p).time = s.time := by
  unfold admitNext
  split
  · rfl
  · split
    · rfl
    · rw [feed_time, modSwc_time]

@[simp] theorem writeCell_time {p i : Nat} : (s.writeCell p i).time = s.time := by
  unfold writeCell
  split
  · rfl
  · split
    · split
      · rw [modSwc_time]
      · rw [setQ_time]
    · rw [setQ_time]

@[simp] theorem slotRank_time {p r : Nat} {ready : List (Nat × Nat)} {a : State × Nat} :
    (slotRank p r ready a).1.time = a.1.time := by
  obtain ⟨s, room⟩ := a
  unfold slotRank
  dsimp -zeta only
  extract_lets k won t u
  have ht : t.time = s.time := each_time fun _ _ => writeCell_time
  show u.time = s.time
  unfold u
  split
  · rw [modSwc_time, ht]
  · exact ht

@[simp] theorem cellSlot_time {p : Nat} : (s.cellSlot p).time = s.time := by
  unfold cellSlot
  extract_lets ready
  split
  · rfl
  · rw [foldlPair_time fun _ _ => slotRank_time]

@[simp] theorem slot_time : s.slot.time = s.time := by
  unfold slot
  split
  · rfl
  · rw [each_time fun _ _ => admitNext_time, each_time fun _ _ => cellSlot_time]

end Sys2Proof.Machine.State
end

section
/-!
PROOF. A tick moves the time unit by its own count alone (R53).
-/

namespace Sys2Proof.Machine.State

variable {s : State}

/-! ### Publisher and points -/

@[simp] theorem pubCheck_time {e : Nat} : (s.pubCheck e).time = s.time := by
  unfold pubCheck
  extract_lets bad
  rw [when_time fun _ => evt_time, setBit_time]

@[simp] theorem pubPush_time {r : PubReq} : (s.pubPush r).time = s.time := rfl

@[simp] theorem pubRequest_time {e : Nat} {refresh restarted : Bool} {owner : Option (Nat × Nat)} :
    (s.pubRequest e refresh restarted owner).1.time = s.time := by
  unfold pubRequest
  extract_lets t
  have ht : t.time = s.time := by
    unfold t
    split
    · rw [pubCheck_time]
    · rfl
  split
  · exact ht
  · split
    · rw [evt_time, inc_time, ht]
    · split
      · rw [inc_time, ht]
      · split
        · dsimp only
          split <;> exact ht
        · split
          · rw [inc_time, ht]
          · rw [pubPush_time, ht]

@[simp] theorem watchEval_time {ty v q k : Nat} : (s.watchEval ty v q k).time = s.time := by
  unfold watchEval
  extract_lets cfg w hit t u
  split
  · rw [pubRequest_time, inc_time, inc_time]
  · rfl

@[simp] theorem putPoint_time {p v q ty slice sec ns passNo : Nat} :
    (s.putPoint p v q ty slice sec ns passNo).time = s.time := dmaWords_time

@[simp] theorem enginePoint_time {p v q ty slice sec ns passNo : Nat} :
    (s.enginePoint p v q ty slice sec ns passNo).time = s.time := by
  unfold enginePoint
  split
  · rfl
  · extract_lets t
    rw [each_time fun _ _ => watchEval_time, inc_time, putPoint_time]

/-! ### Programs -/

@[simp] theorem setPg_time {p st : Nat} : (s.setPg p st).time = s.time := by
  unfold setPg
  split <;> rfl

@[simp] theorem outWrite_time {p pt ty sec ns : Nat} {x : LgeVal} : (s.outWrite p pt ty x sec ns).1.time = s.time := by
  unfold outWrite
  split
  · exact enginePoint_time
  · rfl

@[simp] theorem safeOutputs_time {p : Nat} {all : Bool} : (s.safeOutputs p all).time = s.time := by
  unfold safeOutputs
  split
  · rfl
  · refine each_time fun v t => ?_
    extract_lets e
    split
    · rfl
    · exact outWrite_time

@[simp] theorem pgStop_time {p : Nat} : (s.pgStop p).time = s.time := by
  rw [pgStop, setPg_time, safeOutputs_time]

@[simp] theorem pgHold_time {p : Nat} : (s.pgHold p).time = s.time := by
  rw [pgHold, setPg_time, modProg_time]

@[simp] theorem settle_time {p : Nat} : (s.settle p).time = s.time := by
  unfold settle
  split
  · rfl
  · extract_lets ns t u v
    have hv : v.time = s.time := by rw [modProg_time, inc_time, inc_time, setReg_time, setReg_time, setBit_time]
    split
    · rfl
    · split
      · exact hv
      · split
        · rw [pgStop_time, hv]
        · split
          · rw [pgHold_time, hv]
          · exact hv

/-! ### The other units of a tick -/

@[simp] theorem cenLatch_time {number lateness : Nat} {stack grid late : Bool} :
    (s.cenLatch number stack grid late lateness).time = s.time := by
  unfold cenLatch
  extract_lets img t u v
  split
  · rw [inc_time, evt_time]
  · rw [setBit_time, setBit_time, setBit_time, setBit_time, setReg_time, setReg_time, setReg_time]

@[simp] theorem censusTick_time : s.censusTick.time = s.time := by
  unfold censusTick
  split
  · rw [cenLatch_time]
  · rfl

@[simp] theorem calmWatch_time {p : Nat} : (s.calmWatch p).time = s.time := by
  unfold calmWatch
  split
  · rw [modPr_time]
  · rfl

@[simp] theorem meterRestore_time : s.meterRestore.time = s.time := by
  unfold meterRestore
  split
  · split
    · rw [evt_time, setBit_time, setReg_time, setReg_time]
    · rfl
  · rfl

@[simp] theorem rtcTick_time : s.rtcTick.time = s.time := rfl

@[simp] theorem bkdTick_time : s.bkdTick.time = s.time := by
  unfold bkdTick
  extract_lets acc t u
  have ht : t.time = s.time := by
    by_cases hacc : acc < 1000000000
    · rw [show t = _ from if_pos hacc, modBkd_time]
    · rw [show t = _ from if_neg hacc, rtcTick_time, modBkd_time]
  have hu : u.time = t.time := by rw [inc_time, modBkd_time]
  split
  · rfl
  · split
    · exact ht
    · split
      · rw [modBkd_time, ht]
      · split
        · rw [modBkd_time, hu, ht]
        · rw [hu, ht]

@[simp] theorem settleAll_time : s.settleAll.time = s.time := by
  have hport : ∀ (p : Nat) (t : State), (((t.txFree p).portSettle p).directNext p).time = t.time := fun p t => by
    rw [directNext_time, portSettle_time, txFree_time]
  unfold settleAll
  extract_lets t u v w
  rw [each_time fun _ _ => calmWatch_time, each_time fun _ _ => settle_time, slot_time, each_time hport, setBit_time,
    setBit_time, setBit_time]

/-- Past its own count, a tick leaves the time unit alone. -/
theorem tick_time : s.tick.time = ({ s with clk := s.clk + 1 } : State).wallTick.time := by
  rw [tick, censusTick_time, settleAll_time, meterRestore_time, bkdTick_time]

end Sys2Proof.Machine.State

namespace Sys2Proof.Machine

/-- What the count of R53 gives, in full: fraction, nanoseconds and seconds with their carries, the increment kept. -/
theorem wallTick_counts {s : State} (h : s.power.nx = true) :
    let ns := s.time.ns + (s.time.frac + s.time.incr) / 2 ^ 32
    s.wallTick.time.incr = s.time.incr ∧ s.wallTick.time.frac = (s.time.frac + s.time.incr) % 2 ^ 32 ∧
    s.wallTick.time.ns = (if 1000000000 ≤ ns then ns - 1000000000 else ns) ∧
    s.wallTick.time.sec = if 1000000000 ≤ ns then (s.time.sec + 1) % 2 ^ 48 else s.time.sec := by
  unfold State.wallTick
  rw [if_neg (by simp [h])]
  simp only [decide_eq_true_eq, and_self]

/-- Settles O56: a tick's count alone reaches the time unit (`State.tick_time`). -/
theorem timeCounts : Obligations.TimeCounts := by
  unfold Obligations.TimeCounts
  intro s hpower htime hsec t sum full
  obtain ⟨hincr, hfrac, hns, hsecs⟩ := wallTick_counts (s := { s with clk := s.clk + 1 }) hpower
  obtain ⟨hnsOk, hfracOk, -, hmax⟩ := htime
  rw [← State.tick_time] at hincr hfrac hns hsecs
  dsimp only at hincr hfrac hns hsecs
  refine ⟨hincr, ?_, ?_, ?_, fun hlow => ?_, fun hfull => ?_⟩
  · show s.tick.time.ns < _
    rw [hns]; split <;> omega
  · show s.tick.time.frac < _
    rw [hfrac]; omega
  · show s.tick.time.sec < _
    rw [hsecs]; split <;> omega
  · show s.tick.time.ns * _ + s.tick.time.frac = _ ∧ s.tick.time.sec = _
    rw [hns, hfrac, hsecs, if_neg (by omega), if_neg (by omega)]
    omega
  · show s.tick.time.ns * _ + s.tick.time.frac + _ = _ ∧ s.tick.time.sec = _
    rw [hns, hfrac, hsecs, if_pos (by omega), if_pos (by omega)]
    omega

end Sys2Proof.Machine
end

section
/-!
PROOF. Two statements of the ingest that the model does not meet: the grid point that brings a channel's restart ends the
channel's values from before an activation (R50), and the frames of the two statements leave that out.
-/

namespace Sys2Proof.Machine

open Sys2Proof.Claims

/-! ### A channel between its activation and its first grid point on the new values -/

/-- Grid point 1 of reference 0 is open and waits for channel 0. -/
def pointAwaited : OpenPt :=
  { seq := 1, gp := 1, tg := 0, due := 1000, waiting := [0], invalid := 0, realign := false, fault := false }

/-- Channel 0 is VALID, its sample 0 is due, and one substitute is allowed it. It took reference 0 anew while a point before
point 1 was open, so that its values work from point 1 on (R50); nothing has yet ended the record of that. -/
def restartAwaited : State :=
  { ((State.reset.setReg SIE_CTL 1).setReg (SIE_CH_STAT 0) (2 + 2 ^ 3)).setReg (SIE_CH_TIMING 0) 1 with
    sie := [(0, { first := false })]
    openPts := [(0, [pointAwaited])]
    prior := [(stagedKey 3 0, [{ first := 1, nfirst := 1 }])] }

theorem restartAwaited_canonical : restartAwaited.Canonical := by
  dsimp only [State.Canonical, State.Tables]; decide +kernel

theorem restartAwaited_prior_ne_nil : restartAwaited.prior ≠ [] := by decide

/-! ### The substitute of a missing sample -/

/-- The substitute closes point 1, and the record is gone. -/
theorem restartAwaited_substitute_ends_prior : (restartAwaited.sampleMissing 0 []).prior = [] := by decide +kernel

/-- Refutes O16 in the clause on a sample substituted within `hold_max`, which lets registers, memory, the channel and the open
points change and nothing else: the point that the substitute writes is the first on the channel's new values, and the values
kept from before the activation are dropped with it (R50). -/
theorem not_streamStates : ¬ Obligations.StreamStates := by
  unfold Obligations.StreamStates
  intro h
  obtain ⟨-, -, -, -, -, substituted, -⟩ := h 0 restartAwaited restartAwaited_canonical (by decide +kernel)
  obtain ⟨t, ht, -, -, -, -, -, -, -, -, -, -, only⟩ :=
    substituted (by decide +kernel) (by decide +kernel) (by decide +kernel)
  have hstep : restartAwaited.sampleMissing 0 [] = t := Host.Outcome.next.inj ht
  have hkept : t.prior = restartAwaited.prior := (congrArg State.prior only).trans rfl
  exact restartAwaited_prior_ne_nil (hkept.symm.trans (hstep ▸ restartAwaited_substitute_ends_prior))

/-! ### The sample of an accepted frame -/

/-- A sampled-value message of one ASDU: empty svID, sample 0, one quantity of value 0 and good quality. -/
def zeroApdu : List Byte :=
  [0x60, 0x1C, 0x80, 1, 1, 0xA2, 0x17, 0x30, 0x15, 0x80, 0, 0x82, 1, 0, 0x83, 1, 0, 0x85, 1, 0, 0x87, 8, 0, 0, 0, 0, 0, 0, 0, 0]

/-- The frame that carries it, received without error. -/
def zeroFrame : RxFrame :=
  { octets := List.replicate 12 0 ++ [0x88, 0xBA, 0, 0, 0, 38, 0, 0, 0, 0] ++ zeroApdu
    ts32 := 0, port := 0, path := 0, bad := false, stepCnt := 0, auth := none }

/-- The sample it carries. -/
def zeroSample : Asdu := { cnt := 0, synch := 0, test := false, refrTm := none, vals := [(0, 0)] }

theorem zeroFrame_message : (parseFrame zeroFrame.octets).etype = 0x88BA ∧
    readApdu (parseFrame zeroFrame.octets).body = some { appid := 0, sim := false, apdu := zeroApdu } := by decide +kernel

/-- The sample closes point 1, and the record is gone. -/
theorem restartAwaited_accept_ends_prior : (restartAwaited.svIngest 0 zeroFrame false []).prior = [] := by decide +kernel

/-- Refutes O15 in the clause on the awaited sample of a frame that passes every check, which lets the values kept from
before an activation stand: the point that the sample writes is the first on the channel's new values and ends them (R50). -/
theorem not_sampledValues : ¬ Obligations.SampledValues := by
  unfold Obligations.SampledValues
  intro h
  obtain ⟨-, -, -, active⟩ := h 0 zeroFrame false [] restartAwaited restartAwaited_canonical
  obtain ⟨-, -, message⟩ := active (by decide +kernel) rfl (by decide +kernel) (by decide +kernel)
  obtain ⟨etype, apdu⟩ := zeroFrame_message
  obtain ⟨-, -, checked⟩ := message _ (by decide +kernel) etype apdu
  obtain ⟨-, -, -, good⟩ := checked (by decide) (.inl (by decide +kernel))
  obtain ⟨accepted, -⟩ := good zeroSample (by decide +kernel) (by decide +kernel)
  obtain ⟨t, ht, -, -, -, -, -, -, -, -, -, -, -, -, -, -, -, only⟩ := accepted (by decide +kernel)
  have hstep : restartAwaited.svIngest 0 zeroFrame false [] = t := Host.Outcome.next.inj ht
  have hkept : t.prior = restartAwaited.prior := (congrArg State.prior only).trans rfl
  exact restartAwaited_prior_ne_nil (hkept.symm.trans (hstep ▸ restartAwaited_accept_ends_prior))

end Sys2Proof.Machine
end

section
/-!
PROOF. A statement of the switch that the model does not meet where its table of transmissions is in no canonical form.
-/

namespace Sys2Proof.Machine

open Sys2Proof.Claims

/-- A frame of 64 octets that holds one cell of its queue's reserve. -/
def frameOnWire : SwFrame := { (default : SwFrame) with octets := List.replicate 64 0, res := 1 }

/-- Port 0 is up, and its last bit leaves now; the table of transmissions lists the port twice. -/
def listedTwice : State :=
  { State.reset.setReg (MAC_STAT 0) 1 with
    swc := { inTx := [(0, some (frameOnWire, 0, 0)), (0, some (frameOnWire, 0, 0))] } }

theorem listedTwice_canonical : listedTwice.Canonical := by
  dsimp only [State.Canonical, State.Tables]; decide +kernel

/-- One entry goes, the other shows: its cell stays counted for queue 0. -/
theorem listedTwice_cell_counted : (listedTwice.egress 0).rd (SWC_Q_STAT 0 0) = 1 := by decide +kernel

/-- Refutes O34 in the clause on the end of a transmission, `t.rd (SWC_Q_STAT p q) = 0`. `Canonical` does not speak of the
switch's tables, and the statement does not ask that they are tidy: where `inTx` lists a port twice, the end of the first
transmission uncovers the second. -/
theorem not_framesSent : ¬ Obligations.FramesSent := by
  unfold Obligations.FramesSent FramesSent
  rintro ⟨h, -⟩
  obtain ⟨-, -, ends, -⟩ := h listedTwice listedTwice_canonical
  obtain ⟨t, ht, -, shown, -⟩ := ends 0 frameOnWire 0 0 (by decide +kernel) (by decide) rfl (by decide) (by decide +kernel) rfl rfl
    (by decide) (by decide +kernel)
  have hstep : listedTwice.egress 0 = t := Host.Outcome.next.inj ht
  rw [← hstep] at shown
  exact absurd (listedTwice_cell_counted.symm.trans shown) (by decide)

end Sys2Proof.Machine
end

section
/-!
PROOF. A statement of the differential zones that the model does not meet: a zone that changes its mode settles the grid
points that wait at the home, and the first of them on the zone's new values ends its values from before an activation (R50).
-/

namespace Sys2Proof.Machine

open Sys2Proof.Claims

/-- Grid point 1 of reference 0, whose own sums wait at the home for the contributions of the other positions. -/
def sumsAwaited : DzeLocal :=
  { ref := 0, seq := 1, gp := 1, at_ := 0, realign := false, d := [0, 0, 0], r := [0, 0, 0], q := 0, bad := 0, nbad := 0
    sat := 0, fault := false, open_ := true }

/-- What a commit on a zone of reference 0 keeps that was activated between the issues of points 0 and 1 and changed no word. -/
def activatedBeforePoint1 : Prior := { ref := 0, first := 1, nref := 0, nfirst := 1, was := true }

/-- Zone 0 spans positions 0 and 1 with its home here, at position 0, and is in SPAN. Point 0 waited when a commit on the zone was
activated, and still when point 1, the first on the new values, joined it; point 0 has been settled since, point 1 waits. CAS
reports neither a dealer nor a follow. -/
def pointAwaitedAtHome : State :=
  { ((State.reset.setReg DZE_CTL 1).setReg (DZE_Z_CFG 0) (2 ^ 31 + 2 ^ 23)).setReg (DZE_Z_SPAN 0) 3 with
    dze := [(0, { waits := [sumsAwaited], done := some 0 })]
    prior := [(stagedKey zRecKey 0, [activatedBeforePoint1])] }

theorem pointAwaitedAtHome_canonical : pointAwaitedAtHome.Canonical := by
  dsimp only [State.Canonical, State.Tables]; decide +kernel

theorem pointAwaitedAtHome_prior_ne_nil : pointAwaitedAtHome.prior ≠ [] := by decide

/-- R170: without the dealer the zone is to go to LOCAL. -/
theorem pointAwaitedAtHome_falls_back :
    pointAwaitedAtHome.bit (DZE_Z_CFG 0) 31 = true ∧ pointAwaitedAtHome.zSpan 0 = true ∧
    pointAwaitedAtHome.bit (DZE_Z_STAT 0) 1 = false ∧ pointAwaitedAtHome.zLocal 0 = false ∧
    pointAwaitedAtHome.spanOk (pointAwaitedAtHome.zRef 0) = false := by decide +kernel

/-- The fall-back writes the record of point 1, and what stood from before the activation is gone. -/
theorem pointAwaitedAtHome_toLocal_ends_prior : (pointAwaitedAtHome.zToLocal 0).prior = [] := by decide +kernel

/-- Refutes O19 in the clause on ZONE_TO_LOCAL, which lets registers, memory and the zones change and nothing else. The clause on
CONTRIBUTION_MISSING asks that no values from before an activation stand (`s.priorsOf zRecKey z = []`); this one does not, and
the change of mode settles what waits: a point that is the first on the zone's new values drops the values kept (R50). -/
theorem not_zones : ¬ Obligations.Zones := by
  unfold Obligations.Zones
  intro h
  obtain ⟨-, -, -, toLocal, -⟩ := h 0 pointAwaitedAtHome pointAwaitedAtHome_canonical
  obtain ⟨enabled, spans, configured, notLocal, lost⟩ := pointAwaitedAtHome_falls_back
  obtain ⟨t, ht, -, -, -, -, -, -, -, only⟩ := toLocal enabled spans configured notLocal (.inl lost)
  have hstep : pointAwaitedAtHome.zToLocal 0 = t := Host.Outcome.next.inj ht
  have hkept : t.prior = pointAwaitedAtHome.prior := (congrArg State.prior only).trans rfl
  exact pointAwaitedAtHome_prior_ne_nil (hkept.symm.trans (hstep ▸ pointAwaitedAtHome_toLocal_ends_prior))

end Sys2Proof.Machine
end

section
/-!
PROOF. Baize's arming and closing, and the change of module health (R323, R433, R434, R437): what they write, what they
announce, and the health they show.
-/

namespace Sys2Proof.Machine

open Sys2Proof.Claims

/-! ### Records staged (R452) -/

/-- The registers that a staged record may write, where the staging area is full. -/
def stageRegs : List Nat := [LED_STAGE_DROP, LED_EVT]

/-- Between `s` and `t` at most `n` records were staged, and nothing else of the ledger changed while there was room. -/
def State.Staged (n : Nat) (s t : State) : Prop :=
  s.led.staged.length + n ≤ 1024 → ∃ l : List LedRec, l.length ≤ n ∧ t.led = { s.led with staged := s.led.staged ++ l }

namespace State.Staged

variable {n m : Nat} {s t u : State}

theorem of_led (h : t.led = s.led) : Staged 0 s t := fun _ => ⟨[], le_refl _, by rw [h, List.append_nil]⟩

theorem mono (h : Staged n s t) (hn : n ≤ m) : Staged m s t := fun hroom => by
  obtain ⟨l, hl, ht⟩ := h (by omega)
  exact ⟨l, hl.trans hn, ht⟩

theorem trans (h : Staged n s t) (k : Staged m t u) : Staged (n + m) s u := fun hroom => by
  obtain ⟨l, hl, ht⟩ := h (by omega)
  obtain ⟨l', hl', hu⟩ := k (by rw [ht]; simp only [List.length_append]; omega)
  exact ⟨l ++ l', by rw [List.length_append]; omega, by rw [hu, ht, List.append_assoc]⟩

end State.Staged

theorem State.stageRec_room {s : State} {r : LedRec} (h : s.led.staged.length < 1024) :
    s.stageRec r = { s with led := { s.led with staged := s.led.staged ++ [r] } } := if_pos h

theorem State.stageRec_staged (s : State) (r : LedRec) : Staged 1 s (s.stageRec r) := fun h =>
  ⟨[r], le_refl _, by rw [stageRec_room (by omega)]⟩

theorem State.stageRec_regs (s : State) (r : LedRec) : RegsBut stageRegs s (s.stageRec r) := by
  unfold stageRec
  split
  · exact .of_regs rfl
  · have h : RegsBut stageRegs s ((s.inc LED_STAGE_DROP).evt LED_EVT 1) :=
      (RegsBut.setReg (.of_regs rfl) (by simp [stageRegs])).setReg (by simp [stageRegs])
    dsimp only
    split
    · exact h
    · exact h

theorem State.stageRec_only (s : State) (r : LedRec) :
    s.stageRec r = { s with regs := (s.stageRec r).regs, led := (s.stageRec r).led } := by
  unfold stageRec
  split
  · rfl
  · dsimp only
    split <;> rfl

theorem State.stageRec_rd {s : State} {r : LedRec} {a : Nat} (h : a ∉ stageRegs) : (s.stageRec r).rd a = s.rd a :=
  s.stageRec_regs r a h

theorem State.regsOk_stageRec {s : State} {r : LedRec} (h : s.RegsOk) : (s.stageRec r).RegsOk :=
  (State.stageRec_kept (.refl s)).regs h

/-! ### Baize (R433, R434, R437) -/

/-- The registers that arming and closing write. -/
def guardRegs : List Nat := [GRD_STAT, GRD_EVT, GRD_TRIPS, GRD_EV_LOST] ++ (List.range 4).map GRD_OUT_CNT

/-- What Baize's arming and closing leave of `s`, of which at most `n` events are announced: to the ledger where LED is `running`,
else into Baize's own buffer. -/
structure BaizeStep (running : Bool) (n : Nat) (s t : State) : Prop where
  only   : t = { s with regs := t.regs, led := t.led, out := t.out, guard := t.guard, tae := t.tae }
  run    : s.ledRunning = running
  regsOk : s.RegsOk → t.RegsOk
  regs   : RegsBut (guardRegs ++ if running then stageRegs else []) s t
  staged : State.Staged (if running then n else 0) s t
  idle   : (∀ r < 8, s.fld (TAE_REC_STAT r) 2 0 = 0) → t.tae = s.tae
  low    : s.RegsOk → ∀ i, i < 8 → i ≠ 1 → t.bit GRD_STAT i = s.bit GRD_STAT i
  armed  : s.RegsOk → s.bit GRD_STAT 1 = true → t.bit GRD_STAT 1 = true

namespace BaizeStep

variable {b : Bool} {n m : Nat} {s t u : State}

theorem refl (h : s.ledRunning = b) : BaizeStep b 0 s s where
  only := rfl
  run := h
  regsOk := id
  regs := .of_regs rfl
  staged := by cases b <;> exact .of_led rfl
  idle _ := rfl
  low _ _ _ _ := rfl
  armed _ := id

theorem rd {a : Nat} (h : BaizeStep b n s t) (ha : a ∉ guardRegs ++ stageRegs) : t.rd a = s.rd a := by
  refine h.regs a fun hm => ha ?_
  cases b <;> simp_all [List.mem_append]

theorem running (h : BaizeStep b n s t) : t.ledRunning = b := by
  have hp : t.power = s.power := by rw [h.only]
  have hr : t.rd LED_STAT = s.rd LED_STAT := h.rd (by decide)
  rw [← h.run, State.ledRunning, State.ledRunning, hp, State.bit, State.bit, hr]

theorem recStat (h : BaizeStep b n s t) {r : Nat} (hr : r < 8) : t.fld (TAE_REC_STAT r) 2 0 = s.fld (TAE_REC_STAT r) 2 0 := by
  rw [State.fld, State.fld, h.rd]
  interval_cases r <;> decide

theorem trans (h : BaizeStep b n s t) (k : BaizeStep b m t u) : BaizeStep b (n + m) s u where
  only := by rw [k.only, h.only]
  run := h.run
  regsOk := k.regsOk ∘ h.regsOk
  regs := RegsBut.trans h.regs k.regs
  staged := by cases b <;> exact h.staged.trans k.staged
  idle hr := (k.idle fun r hlt => (h.recStat hlt).trans (hr r hlt)).trans (h.idle hr)
  low hok i hi h1 := (k.low (h.regsOk hok) i hi h1).trans (h.low hok i hi h1)
  armed hok := k.armed (h.regsOk hok) ∘ h.armed hok

theorem mono (h : BaizeStep b n s t) (hn : n ≤ m) : BaizeStep b m s t :=
  { h with staged := by cases b; exacts [h.staged, h.staged.mono hn] }

/-- A change of outputs and of Baize's own state. -/
theorem quiet (h : BaizeStep b n s t) (hu : u = { t with out := u.out, guard := u.guard } := by rfl) : BaizeStep b n s u := by
  generalize u.out = o at hu
  generalize u.guard = g at hu
  subst hu
  exact ⟨by rw [h.only], h.run, h.regsOk, h.regs, h.staged, h.idle, h.low, h.armed⟩

theorem setReg {a v : Nat} (h : BaizeStep b n s t) (ha : a ∈ guardRegs) (hs : a ≠ GRD_STAT) : BaizeStep b n s (t.setReg a v) where
  only := by rw [h.only]; rfl
  run := h.run
  regsOk := State.regsOk_setReg ∘ h.regsOk
  regs := h.regs.setReg (List.mem_append_left _ ha)
  staged := h.staged
  idle := h.idle
  low hok i hi h1 := by rw [State.bit_setReg_ne hs.symm, h.low hok i hi h1]
  armed hok h1 := by rw [State.bit_setReg_ne hs.symm, h.armed hok h1]

theorem inc {a : Nat} (h : BaizeStep b n s t) (ha : a ∈ guardRegs) (hs : a ≠ GRD_STAT) : BaizeStep b n s (t.inc a) := h.setReg ha hs

theorem evt {i : Nat} (h : BaizeStep b n s t) : BaizeStep b n s (t.evt GRD_EVT i) := h.setReg (by decide) (by decide)

/-- A bit of the status shown: armed, or one of the outputs' bits. -/
theorem stat {i : Nat} (h : BaizeStep b n s t) (hi : i = 1 ∨ 8 ≤ i) (h32 : i < 32) : BaizeStep b n s (t.setBit GRD_STAT i true) where
  only := by rw [h.only]; rfl
  run := h.run
  regsOk := State.regsOk_setBit ∘ h.regsOk
  regs := h.regs.setReg (List.mem_append_left _ (by decide))
  staged := h.staged
  idle := h.idle
  low hok j hj h1 := by rw [State.bit_setBit_other (h.regsOk hok) h32 (.inr (by omega)), h.low hok j hj h1]
  armed hok h1 := by
    rcases hi with rfl | hi
    · exact State.bit_setBit_same (h.regsOk hok) h32
    · rw [State.bit_setBit_other (h.regsOk hok) h32 (.inr (by omega)), h.armed hok h1]

end BaizeStep

/-- The record of a Baize event goes to the ledger, or into Baize's buffer. -/
theorem State.baizeEvent_step {s : State} {running : Bool} (h : s.ledRunning = running) (sev code reg b : Nat) (extra : List Nat) :
    BaizeStep running 1 s (s.baizeEvent sev code reg b extra) := by
  unfold baizeEvent
  dsimp only
  cases running with
  | true =>
    rw [if_pos h]
    refine ⟨?_, h, regsOk_stageRec, ?_, stageRec_staged _ _, fun _ => ?_, fun _ i _ _ => ?_, fun _ h1 => ?_⟩
    · rw [stageRec_only]
    · exact (stageRec_regs _ _).mono (by simp)
    · rw [stageRec_only]
    · rw [bit, bit, stageRec_rd (by decide)]
    · rwa [bit, stageRec_rd (by decide)]
  | false =>
    rw [if_neg (by simp [h])]
    split
    · exact (BaizeStep.refl h).quiet.mono (by omega)
    · exact ((BaizeStep.refl h).quiet.inc (by decide) (by decide)).evt.mono (by omega)

theorem State.taeGuard_step {s : State} {running : Bool} (h : s.ledRunning = running) (o : Nat) :
    BaizeStep running 0 s (s.taeGuard o) := by
  unfold taeGuard
  split
  · exact .refl h
  · generalize hl : (List.range 8).filter (fun r => decide (s.fld (TAE_REC_STAT r) 2 0 ≠ 0)) = l
    have honly : s.each l (fun r s => { s with tae := s.tae.mod r (fun t => { t with grd := t.grd ||| 2 ^ o }) }) =
        { s with tae := (s.each l (fun r s => { s with tae := s.tae.mod r (fun t => { t with grd := t.grd ||| 2 ^ o }) })).tae } :=
      each_invariant (P := fun t => t = { s with tae := t.tae }) rfl fun r _ t ht => by rw [ht]
    rw [honly]
    refine ⟨rfl, h, id, .of_regs rfl, (Staged.of_led rfl).mono (by simp), fun hr => ?_, fun _ _ _ _ => rfl, fun _ => id⟩
    have hnil : l = [] := by
      rw [← hl, List.filter_eq_nil_iff]
      intro r hr8
      simp [hr r (List.mem_range.mp hr8)]
    rw [hnil]; rfl

/-- What `closeOutputs` does of one output. -/
def State.closeOutput (o : Nat) (s : State) : State :=
  if bitAt (s.act (GRD_OUT_CFG o)) 8 && !s.bit GRD_STAT (8 + o) && decide (bits (s.act (GRD_OUT_CFG o)) 7 0 &&& s.operating ≠ 0) &&
      bitAt (s.act GRD_CTL) 0 then
    let s := (s.setBit GRD_STAT (8 + o) true).drive (.gtrip o) true
    let s := { s with guard := { s.guard with outAt := s.guard.outAt.put o s.clk } }
    let s := s.taeGuard o
    let s := ((s.inc (GRD_OUT_CNT o)).inc GRD_TRIPS).evt GRD_EVT 2
    s.baizeEvent 6 o GRD_EVT 2 []
  else s

theorem State.closeOutputs_eq (s : State) :
    s.closeOutputs = if s.bit GRD_STAT 1 = false then s else s.each (List.range 4) State.closeOutput := rfl

theorem State.closeOutput_step {s : State} {running : Bool} (h : s.ledRunning = running) {o : Nat} (ho : o < 4) :
    BaizeStep running 1 s (s.closeOutput o) := by
  unfold closeOutput
  split
  · have hshown : BaizeStep running 0 s (s.setBit GRD_STAT (8 + o) true) := (BaizeStep.refl h).stat (by omega) (by omega)
    have hdriven := hshown.quiet (u := { (s.setBit GRD_STAT (8 + o) true).drive (.gtrip o) true with
      guard := { s.guard with outAt := s.guard.outAt.put o s.clk } })
    have htae := hdriven.trans (taeGuard_step hdriven.running o)
    have hcnt := htae.inc (a := GRD_OUT_CNT o) (by interval_cases o <;> decide) (by interval_cases o <;> decide)
    have hevt := (hcnt.inc (a := GRD_TRIPS) (by decide) (by decide)).evt (i := 2)
    exact hevt.trans (baizeEvent_step hevt.running 6 o GRD_EVT 2 [])
  · exact (BaizeStep.refl h).mono (by omega)

theorem BaizeStep.each {α : Type} {b : Bool} {l : List α} {f : α → State → State} {s : State} (h : s.ledRunning = b)
    (hf : ∀ x ∈ l, ∀ t : State, t.ledRunning = b → BaizeStep b 1 t (f x t)) : BaizeStep b l.length s (s.each l f) := by
  induction l generalizing s with
  | nil => exact .refl h
  | cons x l ih =>
    have hx := hf x List.mem_cons_self s h
    have hl := ih hx.running fun y hy => hf y (List.mem_cons_of_mem _ hy)
    exact (hx.trans hl).mono (by rw [List.length_cons]; omega)

theorem State.closeOutputs_step {s : State} {running : Bool} (h : s.ledRunning = running) :
    BaizeStep running 4 s s.closeOutputs := by
  rw [closeOutputs_eq]
  split
  · exact (BaizeStep.refl h).mono (by omega)
  · exact BaizeStep.each h fun o ho t ht => closeOutput_step ht (List.mem_range.mp ho)

theorem State.guardArm_step {s : State} {running : Bool} (h : s.ledRunning = running) : BaizeStep running 5 s s.guardArm := by
  have hnone : BaizeStep running 5 s s := (BaizeStep.refl h).mono (by omega)
  unfold guardArm
  split
  · exact hnone
  split
  case isFalse => exact hnone
  split
  · exact hnone
  · have harm := ((BaizeStep.refl h).stat (.inl rfl) (by decide)).evt (i := 0)
    have hevt := harm.trans (baizeEvent_step harm.running 3 0 GRD_EVT 0 [])
    exact hevt.trans (closeOutputs_step hevt.running)

/-- R433: Baize is armed where it is to be. -/
theorem State.guardArm_armed {s : State} (hok : s.RegsOk) (hao : s.power.ao = true) (hw : s.armWanted = true) :
    s.guardArm.bit GRD_STAT 1 = true := by
  unfold guardArm
  rw [if_neg (by simp [hao]), if_pos hw]
  split
  · assumption
  · have harm : BaizeStep _ 0 (s.setBit GRD_STAT 1 true) ((s.setBit GRD_STAT 1 true).evt GRD_EVT 0) :=
      (BaizeStep.refl rfl).evt
    have hevt := harm.trans (baizeEvent_step harm.running 3 0 GRD_EVT 0 [])
    exact (hevt.trans (closeOutputs_step hevt.running)).armed (regsOk_setBit hok) (bit_setBit_same hok (by decide))

/-- An armed Baize stays as it is. -/
theorem State.guardArm_idle {s : State} (h : s.power.ao = false ∨ s.bit GRD_STAT 1 = true) : s.guardArm = s := by
  unfold guardArm
  split
  · rfl
  · rename_i hao
    split
    · exact if_pos (h.resolve_left hao)
    · rfl

end Sys2Proof.Machine
end

section
/-!
PROOF. The change of module health (R323, R324, R433): what it writes, and the health it shows.
-/

namespace Sys2Proof.Machine

open Sys2Proof.Claims

/-- What a change of health leaves of `s`, of which at most `n` records were staged (R323, R324, R433, R434, R437). -/
structure HealthStep (n : Nat) (s t : State) : Prop where
  only   : t = { s with regs := t.regs, led := t.led, out := t.out, red := t.red, guard := t.guard, tae := t.tae }
  regsOk : s.RegsOk → t.RegsOk
  regs   : RegsBut healthRegs s t
  staged : State.Staged n s t
  guard  : s.RegsOk → t.bit GRD_STAT 4 = s.bit GRD_STAT 4
  limit  : s.RegsOk → t.fld RED_HEALTH 1 0 = s.fld RED_HEALTH 1 0

namespace HealthStep

variable {n m : Nat} {s t u : State}

theorem refl (s : State) : HealthStep 0 s s :=
  ⟨rfl, id, .of_regs rfl, .of_led rfl, fun _ => rfl, fun _ => rfl⟩

theorem trans (h : HealthStep n s t) (k : HealthStep m t u) : HealthStep (n + m) s u where
  only := by rw [k.only, h.only]
  regsOk := k.regsOk ∘ h.regsOk
  regs := RegsBut.trans h.regs k.regs
  staged := h.staged.trans k.staged
  guard hok := (k.guard (h.regsOk hok)).trans (h.guard hok)
  limit hok := (k.limit (h.regsOk hok)).trans (h.limit hok)

theorem mono (h : HealthStep n s t) (hn : n ≤ m) : HealthStep m s t := { h with staged := h.staged.mono hn }

theorem setReg {a v : Nat} (h : HealthStep n s t) (ha : a ∈ healthRegs) (hg : a ≠ GRD_STAT) (hl : a ≠ RED_HEALTH) :
    HealthStep n s (t.setReg a v) where
  only := by rw [h.only]; rfl
  regsOk := State.regsOk_setReg ∘ h.regsOk
  regs := h.regs.setReg ha
  staged := h.staged
  guard hok := by rw [State.bit_setReg_ne hg.symm, h.guard hok]
  limit hok := by rw [State.fld_setReg_ne hl.symm, h.limit hok]

/-- The level and its causes shown in `RED_HEALTH`; software's limit stays. -/
theorem shown {hi lo v : Nat} (h : HealthStep n s t) (hhi : hi < 32) (hlo : 2 ≤ lo) (hle : lo ≤ hi + 1) :
    HealthStep n s (t.setFld RED_HEALTH hi lo v) where
  only := by rw [h.only]; rfl
  regsOk := State.regsOk_setFld ∘ h.regsOk
  regs := h.regs.setReg (by decide)
  staged := h.staged
  guard hok := by rw [State.bit_setFld_other (h.regsOk hok) hhi hle (.inl (by decide)), h.guard hok]
  limit hok := by rw [State.fld_setFld_other (h.regsOk hok) hhi hle (.inr (.inr (by omega))), h.limit hok]

/-- A change of outputs, of the redundancy unit's and of Baize's working state. -/
theorem quiet (h : HealthStep n s t) (hu : u = { t with out := u.out, red := u.red, guard := u.guard } := by rfl) :
    HealthStep n s u := by
  generalize u.out = o at hu
  generalize u.red = r at hu
  generalize u.guard = g at hu
  subst hu
  exact ⟨by rw [h.only], h.regsOk, h.regs, h.staged, h.guard, h.limit⟩

end HealthStep

theorem guardRegs_subset : guardRegs ++ stageRegs ⊆ healthRegs := by decide

/-- What is staged is a change that health may make. -/
theorem State.stageRec_health (s : State) (r : LedRec) : HealthStep 1 s (s.stageRec r) where
  only := by rw [stageRec_only]
  regsOk := regsOk_stageRec
  regs := (s.stageRec_regs r).mono (by decide)
  staged := s.stageRec_staged r
  guard _ := by rw [bit, bit, stageRec_rd (by decide)]
  limit _ := by rw [fld, fld, stageRec_rd (by decide)]

theorem BaizeStep.health {b : Bool} {n : Nat} {s t : State} (h : BaizeStep b n s t) : HealthStep n s t where
  only := by rw [h.only]
  regsOk := h.regsOk
  regs := h.regs.mono (by cases b; exacts [by decide, guardRegs_subset])
  staged := by cases b; exacts [h.staged.mono (Nat.zero_le n), h.staged]
  guard hok := h.low hok 4 (by decide) (by decide)
  limit _ := by rw [State.fld, State.fld, h.rd (by decide)]

/-! ### The change of health -/

/-- The health that `healthUpdate` shows: that of R323, within the limit of software. -/
def State.healthNext (s : State) : Nat := min s.healthComputed (s.fld RED_HEALTH 1 0)

/-- The level and its causes shown. -/
def State.healthPut (s : State) : State :=
  ((s.setFld RED_HEALTH 15 8 (maskOf (s.healthCauses ++ [decide (s.fld RED_HEALTH 1 0 < s.healthComputed)]))).setFld
    RED_HEALTH 5 4 s.healthNext).setFld RED_STAT 5 4 s.healthNext

/-- What a change of health from `old` to `h` brings with it. -/
def State.healthTold (h old : Nat) (s : State) : State :=
  if h = old then s else
    let s := (s.evt RED_EVT 9).ledger 4 12 0 RED_EVT 9 []
    let s := { s with red := { s.red with revFrom := if h = 3 then some s.clk else none, revAcc := 0, revAt := none } }.setBit RED_STAT 10 false
    let s := if s.complete && (decide (2 ≤ h) != decide (2 ≤ old)) then s.drive .healthyN (decide (h < 2)) else s
    (if 2 ≤ h ∧ old < h then s.armDelay else s).guardArm

theorem State.healthUpdate_eq (s : State) : s.healthUpdate = s.healthPut.healthTold s.healthNext s.health := rfl

theorem State.healthPut_step (s : State) : HealthStep 0 s s.healthPut :=
  (((HealthStep.refl s).shown (by decide) (by decide) (by decide)).shown (by decide) (by decide) (by decide)).setReg
    (by decide) (by decide) (by decide)

theorem State.healthComputed_le (s : State) : s.healthComputed ≤ 3 := by
  unfold healthComputed
  split_ifs <;> omega

theorem State.healthNext_le (s : State) : s.healthNext ≤ 3 := (min_le_left _ _).trans s.healthComputed_le

theorem State.health_healthPut {s : State} (h : s.RegsOk) : s.healthPut.health = s.healthNext := by
  rw [healthPut, health, fld_setFld_same (regsOk_setFld (regsOk_setFld h)) (by decide) (by decide)]
  exact Nat.mod_eq_of_lt (Nat.lt_succ_of_le s.healthNext_le)

/-- What follows a change of health, and that the level shown stays. -/
theorem State.healthTold_step (s : State) (h old : Nat) :
    HealthStep 6 s (s.healthTold h old) ∧ (s.RegsOk → (s.healthTold h old).health = s.health) := by
  unfold healthTold
  split
  · exact ⟨(HealthStep.refl s).mono (by omega), fun _ => rfl⟩
  · dsimp only
    have hevt : HealthStep 0 s (s.evt RED_EVT 9) := (HealthStep.refl s).setReg (by decide) (by decide) (by decide)
    generalize hr : (s.evt RED_EVT 9).ledger 4 12 0 RED_EVT 9 [] = t
    have hled : HealthStep 1 s t := by subst hr; exact hevt.trans (stageRec_health _ _)
    have hstat : t.rd RED_STAT = s.rd RED_STAT := by
      subst hr
      exact (stageRec_rd (by decide)).trans (rd_evt_ne (by decide))
    generalize hv : State.setBit RED_STAT 10 false _ = v
    have hput : HealthStep 1 s v := by subst hv; exact (hled.quiet).setReg (by decide) (by decide) (by decide)
    have hlevel (hok : s.RegsOk) : v.health = s.health := by
      subst hv
      exact (fld_setBit_other (show RegsOk _ from hled.regsOk hok) (by decide) (by decide)).trans (congrArg (bits · 5 4) hstat)
    have hquiet : ∀ u : State, u = { v with out := u.out, red := u.red, guard := u.guard } →
        HealthStep 6 s u.guardArm ∧ (s.RegsOk → u.guardArm.health = s.health) := by
      intro u hu
      have harm := u.guardArm_step rfl
      refine ⟨(hput.quiet hu).trans harm.health, fun hok => ?_⟩
      rw [← hlevel hok, health, health, fld, fld, harm.rd (by decide), hu]; rfl
    refine hquiet _ ?_
    split_ifs <;> rfl

/-- R323: the change of health, and the health shown after it. -/
theorem State.healthUpdate_step (s : State) : HealthStep 6 s s.healthUpdate := by
  rw [healthUpdate_eq]
  exact (s.healthPut_step.trans (s.healthPut.healthTold_step _ _).1).mono (by omega)

theorem State.health_healthUpdate {s : State} (h : s.RegsOk) : s.healthUpdate.health = s.healthNext := by
  rw [healthUpdate_eq, (s.healthPut.healthTold_step _ _).2 (s.healthPut_step.regsOk h), health_healthPut h]

/-- The registers that R323 reads beside Baize's status. -/
def healthInputs : List Nat :=
  [XEC_STAT] ++ (List.range 4).map MAC_STAT ++ (List.range 2).map SWC_RED_CFG ++ (List.range 2).map SWC_RED_STAT

/-- Where what R323 reads is the same, so is the health it gives. -/
theorem State.healthComputed_congr {s t : State} (hregs : ∀ a ∈ healthInputs, t.rd a = s.rd a)
    (hguard : t.bit GRD_STAT 4 = s.bit GRD_STAT 4) (hfault : t.moduleFault = s.moduleFault)
    (hfail : t.blockFail = s.blockFail) (hpower : t.power.cx = s.power.cx) : t.healthComputed = s.healthComputed := by
  have hx : t.rd XEC_STAT = s.rd XEC_STAT := hregs _ (by decide)
  have hp0 : t.rd (MAC_STAT 0) = s.rd (MAC_STAT 0) := hregs _ (by decide)
  have hp1 : t.rd (MAC_STAT 1) = s.rd (MAC_STAT 1) := hregs _ (by decide)
  have hpair : ∀ k < 2, t.pairImpaired k = s.pairImpaired k := by
    intro k hk
    have hcfg : t.rd (SWC_RED_CFG k) = s.rd (SWC_RED_CFG k) := hregs _ (by interval_cases k <;> decide)
    have hstat : t.rd (SWC_RED_STAT k) = s.rd (SWC_RED_STAT k) := hregs _ (by interval_cases k <;> decide)
    have hlow : t.rd (MAC_STAT (2 * k)) = s.rd (MAC_STAT (2 * k)) := hregs _ (by interval_cases k <;> decide)
    have hhigh : t.rd (MAC_STAT (2 * k + 1)) = s.rd (MAC_STAT (2 * k + 1)) := hregs _ (by interval_cases k <;> decide)
    simp only [pairImpaired, portUp, fld, bit, hcfg, hstat, hlow, hhigh]
    rfl
  have hpair0 := hpair 0 (by omega)
  have hpair1 := hpair 1 (by omega)
  simp only [healthComputed, blockFailed, portUp, hfault, hfail, hpower, hguard, hpair0, hpair1]
  simp only [fld, bit, hx, hp0, hp1]
  rfl

theorem HealthStep.healthComputed {n : Nat} {s t : State} (h : HealthStep n s t) (hok : s.RegsOk) :
    t.healthComputed = s.healthComputed :=
  State.healthComputed_congr (fun a ha => h.regs a ((by decide : ∀ a ∈ healthInputs, a ∉ healthRegs) a ha)) (h.guard hok) (by rw [h.only])
    (by rw [h.only]) (by rw [h.only])

/-- R323: after a change of health the health shown is what its conditions give within the limit that `s` holds. -/
theorem healthShown_healthUpdate {s v : State} (hok : v.RegsOk) (hlimit : v.fld RED_HEALTH 1 0 = s.fld RED_HEALTH 1 0) :
    HealthShown s v.healthUpdate := by
  rw [HealthShown, State.health_healthUpdate hok, v.healthUpdate_step.healthComputed hok, ← hlimit]; rfl

end Sys2Proof.Machine
end

section
/-!
PROOF. Dispatch (R182, R186): which pass comes first, and what giving a pair to a slice leaves alone.
-/

namespace Sys2Proof.Machine

open Sys2Proof.Claims

theorem RegsBut.congr {rs : List Nat} {s t u : State} (h : RegsBut rs s t) (hu : u.regs = t.regs) : RegsBut rs s u :=
  fun a ha => (State.rd_congr hu a).trans (h a ha)

/-! ### The tables of slices and pairs -/

namespace State

variable {s : State}

theorem Canonical.pairsTidy (h : s.Canonical) : FMap.tidy s.pairs = true := by
  obtain ⟨-, -, -, -, -, -, -, -, -, pairs, -⟩ := h.tables
  exact pairs

theorem sl_modSl_other {n m : Nat} {f : Slice → Slice} (h : m ≠ n) : (s.modSl n f).sl m = s.sl m := FMap.at'_put_other h

theorem pr_modPr_same {p : Nat} {f : Pair → Pair} (h : s.Canonical) : (s.modPr p f).pr p = f (s.pr p) :=
  FMap.at'_mod_same (Canonical.pairsTidy h)

theorem pr_modPr_other {p q : Nat} {f : Pair → Pair} (h : q ≠ p) : (s.modPr p f).pr q = s.pr q := FMap.at'_put_other h

theorem setRun_sl {n m v : Nat} : (s.setRun n v).sl m = s.sl m := rfl

theorem setRun_pr {n p v : Nat} : (s.setRun n v).pr p = s.pr p := rfl

theorem canonical_setReg {a v : Nat} (h : s.Canonical) : (s.setReg a v).Canonical := (setReg_kept (.refl s)).canonical h

theorem canonical_modSl {n : Nat} {f : Slice → Slice} (h : s.Canonical) : (s.modSl n f).Canonical :=
  (modSl_kept (.refl s)).canonical h

theorem canonical_modPr {p : Nat} {f : Pair → Pair} (h : s.Canonical) : (s.modPr p f).Canonical :=
  (modPr_kept (.refl s)).canonical h

/-- What a change of a slice gives, read at any slice: a property that the change gives and that all other slices have. -/
theorem sl_modSl_of {n m : Nat} {f : Slice → Slice} {P : Slice → Prop} (h : s.Canonical) (hsame : m = n → P (f (s.sl m)))
    (hother : m ≠ n → P (s.sl m)) : P ((s.modSl n f).sl m) := by
  by_cases hm : m = n
  · subst hm
    rw [sl_modSl_same (Canonical.slicesTidy h)]
    exact hsame rfl
  · rw [sl_modSl_other hm]
    exact hother hm

theorem pr_modPr_of {p q : Nat} {f : Pair → Pair} {P : Pair → Prop} (h : s.Canonical) (hsame : q = p → P (f (s.pr q)))
    (hother : q ≠ p → P (s.pr q)) : P ((s.modPr p f).pr q) := by
  by_cases hq : q = p
  · subst hq
    rw [pr_modPr_same h]
    exact hsame rfl
  · rw [pr_modPr_other hq]
    exact hother hq

end State

/-! ### The order of R186 -/

theorem before_asymm {a b : Nat × Pass} (h : before a b = true) : before b a = false := by
  unfold before at *
  split_ifs at * <;> simp_all <;> omega

theorem firstOf_mem {l : List (Nat × Pass)} {x : Nat × Pass} (h : firstOf l = some x) : x ∈ l := by
  induction l generalizing x with
  | nil => cases h
  | cons y l ih =>
    rw [firstOf] at h
    cases hl : firstOf l with
    | none => simp_all
    | some z =>
      rw [hl] at h
      simp only at h
      split_ifs at h
      · simp_all
      · simp_all

theorem firstOf_isSome {l : List (Nat × Pass)} {x : Nat × Pass} (h : x ∈ l) : ∃ y, firstOf l = some y := by
  cases l with
  | nil => cases h
  | cons y l =>
    rw [firstOf]
    cases firstOf l with
    | none => exact ⟨y, rfl⟩
    | some z => exact ⟨_, (apply_ite some _ _ _).symm⟩

/-- The entry that comes before every other is the first. -/
theorem firstOf_eq {l : List (Nat × Pass)} {x : Nat × Pass} (hx : x ∈ l) (hmin : ∀ e ∈ l, e ≠ x → before x e = true) :
    firstOf l = some x := by
  induction l with
  | nil => cases hx
  | cons y l ih =>
    have hmin' : ∀ e ∈ l, e ≠ x → before x e = true := fun e he => hmin e (List.mem_cons_of_mem _ he)
    rw [firstOf]
    by_cases hyx : y = x
    · subst hyx
      cases hl : firstOf l with
      | none => rfl
      | some z =>
        by_cases hz : z = y
        · simp [hz]
        · simp [hmin' z (firstOf_mem hl) hz]
    · have hxl : x ∈ l := (List.mem_cons.mp hx).resolve_left (Ne.symm hyx)
      rw [ih hxl hmin']
      simp [before_asymm (hmin y List.mem_cons_self hyx)]

theorem State.contenders_mem {s : State} {p : Nat} {x : Nat × Pass} (h : x ∈ s.contenders p) :
    x.1 < 256 ∧ s.slPair x.1 = p ∧ s.run x.1 ≠ 6 ∧ ∃ sl, (x.1, sl) ∈ s.slices ∧ sl.pass = some x.2 := by
  obtain ⟨⟨k, sl⟩, hmem, hx⟩ := List.mem_filterMap.mp h
  dsimp only at hx
  split at hx
  next ps hps =>
    split at hx
    next hc =>
      obtain rfl : (k, ps) = x := Option.some.inj hx
      exact ⟨hc.1, hc.2.1, hc.2.2, sl, hmem, hps⟩
    next => cases hx
  next => cases hx

/-- What a canonical table lists at a key is what it reads as. -/
theorem FMap.get_of_mem {α : Type} [DecidableEq α] {d : Nat → α} {m : FMap α} (hm : FMap.wf d m = true) {k : Nat} {v : α}
    (h : (k, v) ∈ m) : FMap.get d k m = v := by
  induction m with
  | nil => cases h
  | cons e m ih =>
    obtain ⟨j, w⟩ := e
    have hwf := hm
    simp only [FMap.wf, Bool.and_eq_true, decide_eq_true_eq] at hm
    rcases List.mem_cons.mp h with heq | hmem
    · obtain ⟨rfl, rfl⟩ := Prod.mk.inj heq
      simp [FMap.get]
    · have hv := ih hm.2 hmem
      rw [FMap.get]
      split
      next hjk =>
        subst hjk
        rw [FMap.get_head hwf] at hv
        have hne : ∀ (l : FMap α), FMap.wf d l = true → (j, v) ∈ l → v ≠ d j := by
          intro l hl
          induction l with
          | nil => intro hc; cases hc
          | cons e l ihl =>
            intro hc
            simp only [FMap.wf, Bool.and_eq_true, decide_eq_true_eq] at hl
            rcases List.mem_cons.mp hc with rfl | hc
            · exact hl.1.1
            · exact ihl hl.2 hc
        exact absurd hv.symm (hne m hm.2 hmem)
      next => exact hv

theorem State.contenders_pass {s : State} (hs : s.Canonical) {p : Nat} {x : Nat × Pass} (h : x ∈ s.contenders p) :
    (s.sl x.1).pass = some x.2 := by
  obtain ⟨-, -, -, sl, hmem, hps⟩ := contenders_mem h
  rw [← hps]
  exact congrArg Slice.pass (FMap.get_of_mem (Canonical.slicesTidy hs) hmem)

/-! ### What dispatch leaves alone -/

/-- A pass but for what running it changes. -/
def Pass.still (ps : Pass) : Pass := { ps with started := false, running := false, since := 0, execNs := 0, budget := 0 }

/-- A slice but for what running its pass changes. -/
def Slice.still (sl : Slice) : Slice := { sl with pass := sl.pass.map Pass.still, everRun := false }

/-- A pair but for what runs on it. -/
def Pair.still (q : Pair) : Pair := { q with running := 0, bgFrom := 0, busy := [], pid := 0, bgLast := 0 }

/-- Between `s` and `t` slices were taken off pairs and put on them, and nothing else changed. -/
structure Ran (s t : State) : Prop where
  only  : t = { s with regs := t.regs, slices := t.slices, pairs := t.pairs }
  canon : s.Canonical → t.Canonical
  regs  : RegsBut slStats s t
  high  : s.Canonical → ∀ a i, 3 ≤ i → t.bit a i = s.bit a i
  sl    : s.Canonical → ∀ n, (t.sl n).still = (s.sl n).still
  pr    : s.Canonical → ∀ p, (t.pr p).still = (s.pr p).still

namespace Ran

variable {s t u : State}

theorem refl (s : State) : Ran s s := ⟨rfl, id, .of_regs rfl, fun _ _ _ _ => rfl, fun _ _ => rfl, fun _ _ => rfl⟩

theorem trans (h : Ran s t) (k : Ran t u) : Ran s u where
  only := by rw [k.only, h.only]
  canon := k.canon ∘ h.canon
  regs := RegsBut.trans h.regs k.regs
  high hs a i hi := (k.high (h.canon hs) a i hi).trans (h.high hs a i hi)
  sl hs n := (k.sl (h.canon hs) n).trans (h.sl hs n)
  pr hs p := (k.pr (h.canon hs) p).trans (h.pr hs p)

theorem setRun {n v : Nat} (h : Ran s t) (hn : n < 256) : Ran s (t.setRun n v) where
  only := by rw [h.only]; rfl
  canon hs := State.canonical_setReg (h.canon hs)
  regs := h.regs.setReg (List.mem_map.mpr ⟨n, List.mem_range.mpr hn, rfl⟩)
  high hs a i hi := by
    rw [State.setRun, State.bit_setFld_other (State.Canonical.regsOk (h.canon hs)) (by decide) (by decide) (.inr (.inl (by omega))),
      h.high hs a i hi]
  sl hs := h.sl hs
  pr hs := h.pr hs

theorem modSl {n : Nat} {f : Slice → Slice} (h : Ran s t) (hf : (f (t.sl n)).still = (t.sl n).still) : Ran s (t.modSl n f) where
  only := by rw [h.only]; rfl
  canon hs := State.canonical_modSl (h.canon hs)
  regs := h.regs
  high := h.high
  sl hs m := State.sl_modSl_of (P := fun x => x.still = (s.sl m).still) (h.canon hs)
    (fun hm => by rw [hm, hf, h.sl hs]) (fun _ => h.sl hs m)
  pr hs := h.pr hs

theorem modPr {p : Nat} {f : Pair → Pair} (h : Ran s t) (hf : ∀ q, (f q).still = q.still) : Ran s (t.modPr p f) where
  only := by rw [h.only]; rfl
  canon hs := State.canonical_modPr (h.canon hs)
  regs := h.regs
  high := h.high
  sl hs := h.sl hs
  pr hs q := State.pr_modPr_of (P := fun x => x.still = (s.pr q).still) (h.canon hs) (fun _ => by rw [hf, h.pr hs])
    (fun _ => h.pr hs q)

/-- The pass of a slice is the same but for what running it changes. -/
theorem pass (h : Ran s t) (hs : s.Canonical) (n : Nat) : (t.sl n).pass.map Pass.still = (s.sl n).pass.map Pass.still :=
  congrArg Slice.pass (h.sl hs n)

theorem pass_isSome (h : Ran s t) (hs : s.Canonical) (n : Nat) : (t.sl n).pass.isSome = (s.sl n).pass.isSome := by
  have := congrArg Option.isSome (h.pass hs n)
  simpa using this

end Ran

theorem Slice.still_pass {sl : Slice} {ps ps' : Pass} (h : sl.pass = some ps) (hps : ps'.still = ps.still) (e : Bool) :
    ({ sl with pass := some ps', everRun := e } : Slice).still = sl.still := by
  simp [Slice.still, h, hps]

theorem State.suspend_ran (s : State) (p : Nat) : Ran s (s.suspend p) := by
  unfold suspend
  dsimp only
  split
  · exact .refl s
  · have hn : ((s.pr p).running - 1) % 256 < 256 := Nat.mod_lt _ (by decide)
    split
    next ps hps =>
      refine Ran.setRun (Ran.modSl (Ran.modPr (.refl s) fun _ => rfl) ?_) hn
      exact Slice.still_pass hps rfl (s.sl (((s.pr p).running - 1) % 256)).everRun
    next => exact Ran.setRun (Ran.modPr (.refl s) fun _ => rfl) hn

theorem State.startPass_ran (s : State) {p n : Nat} (hn : n < 256) : Ran s (s.startPass p n) := by
  unfold startPass
  split
  next ps hps =>
    refine Ran.setRun (Ran.modPr (Ran.modSl (.refl s) ?_) fun _ => rfl) hn
    exact Slice.still_pass hps rfl true
  next => exact .refl s

theorem State.nextBackground_lt {s : State} {p last n : Nat} (h : s.nextBackground p last = some n) : n < 256 := by
  unfold nextBackground at h
  dsimp only at h
  split at h
  next m hm =>
    obtain rfl := Option.some.inj h
    exact List.mem_range.mp (List.mem_of_mem_filter (List.mem_of_find?_eq_some hm))
  next => exact List.mem_range.mp (List.mem_of_find?_eq_some h)

/-- R182, R186: a dispatch takes a slice off the pair and puts another on it, or does nothing. -/
theorem State.dispatch_ran (s : State) (p : Nat) : Ran s (s.dispatch p) := by
  unfold dispatch
  split
  · exact .refl s
  · dsimp only
    split
    next n ps hfirst =>
      split
      · exact .refl s
      · exact (suspend_ran s p).trans (startPass_ran _ (contenders_mem (firstOf_mem hfirst)).1)
    next =>
      split
      · split
        · exact .refl s
        · split
          next n hnext =>
            refine Ran.modSl (Ran.setRun (Ran.modPr (.refl s) fun _ => rfl) (nextBackground_lt hnext)) ?_
            rfl
          next => exact .refl s
      · exact suspend_ran s p

end Sys2Proof.Machine
end

section
/-!
PROOF. Memory under an image (R180, R227): what filling a region with cells leaves alone and what it gives.
-/

namespace Sys2Proof.Machine

open Sys2Proof.Claims

/-- A filter that looks at the key keeps the entries it lets through; the others read as unlisted. -/
theorem FMap.get_filter_key {α : Type} {d : Nat → α} {p : Nat → Bool} {m : FMap α} {k : Nat} :
    FMap.get d k (m.filter fun e => p e.1) = if p k then FMap.get d k m else d k := by
  induction m with
  | nil => exact (ite_self _).symm
  | cons e m ih =>
    obtain ⟨j, v⟩ := e
    rw [List.filter_cons]
    by_cases hj : j = k
    · subst hj
      cases hp : p j with
      | true => simp [FMap.get]
      | false => rw [if_neg (by simp), ih, hp]; rfl
    · cases hp : p j with
      | true => simp [FMap.get, hj, ih]
      | false => rw [if_neg (by simp), ih]; simp [FMap.get, hj]

theorem State.rdByte_clearMem {s : State} {a n x : Nat} :
    (s.clearMem a n).rdByte x = if a ≤ x ∧ x < a + n then 0 else s.rdByte x := by
  refine (FMap.get_filter_key (p := fun k => !decide (a ≤ k ∧ k < a + n))).trans ?_
  by_cases h : a ≤ x ∧ x < a + n
  · simp [h, memDefault]
  · simp [h, State.rdByte]

theorem State.putCells_cons {s : State} {a : Nat} {c : Host.Cell} {l : List Host.Cell} :
    s.putCells a (c :: l) = (s.wrByte (a + c.1) c.2).putCells a l := rfl

theorem State.rdByte_putCells_outside {s : State} {a x : Nat} {l : List Host.Cell} (h : ∀ c ∈ l, x ≠ a + c.1) :
    (s.putCells a l).rdByte x = s.rdByte x := by
  induction l generalizing s with
  | nil => rfl
  | cons c l ih =>
    rw [putCells_cons, ih fun d hd => h d (List.mem_cons_of_mem _ hd), rdByte_wrByte_ne (h c List.mem_cons_self)]

theorem State.rdByte_fill_below {s : State} {a n x : Nat} {l : List Host.Cell} (h : x < a) :
    (s.fill a n l).rdByte x = s.rdByte x := by
  rw [fill, rdByte_putCells_outside (fun c _ => by omega), rdByte_clearMem, if_neg (by omega)]

theorem State.rdByte_fill_outside {s : State} {a n x : Nat} {l : List Host.Cell} (hl : ∀ c ∈ l, c.1 < n)
    (h : x < a ∨ a + n ≤ x) : (s.fill a n l).rdByte x = s.rdByte x := by
  rw [fill, rdByte_putCells_outside (fun c hc => by have := hl c hc; omega), rdByte_clearMem, if_neg (by omega)]

theorem State.fill_only {s : State} {a n : Nat} {l : List Host.Cell} : OnlyMem s (s.fill a n l) :=
  each_invariant (P := OnlyMem s) rfl fun _ _ _ ht => ht.trans rfl

/-- What loading a slice's image leaves of `s` (R181, R190): its pair window and its architectural state apart, all. -/
structure Loaded (n : Nat) (s t : State) : Prop where
  only  : t = { s with mem := t.mem, poison := t.poison, slices := t.slices }
  low   : LowMem s t
  other : ∀ m, m ≠ n → t.sl m = s.sl m
  slice : s.Canonical → t.sl n = { s.sl n with arch := (t.sl n).arch, everRun := (t.sl n).everRun }

theorem State.windowCopy_low (s : State) (src page n : Nat) : LowMem s (s.copyMem src (windowAddr page) n) := by
  intro x hx
  refine rdByte_fill_below ?_
  unfold windowAddr
  have : smBase ≤ 0x4002400000 := by decide
  omega

theorem State.loadImage_loaded (s : State) (n : Nat) : Loaded n s (s.loadImage n) := by
  unfold loadImage
  dsimp only
  split
  · have hwin : ∀ t : State, OnlyMem s t → LowMem s t → ∀ l : List Byte, Loaded n s (t.modSl n fun sl => { sl with arch := l }) := by
      intro t ht hlow l
      refine ⟨?_, hlow, fun m hm => ?_, fun hs => ?_⟩
      · unfold OnlyMem at ht; rw [ht]; rfl
      · rw [sl_modSl_other hm, State.sl, ht]; rfl
      · have hslices : t.slices = s.slices := by rw [ht]
        rw [sl_modSl_same (by rw [hslices]; exact Canonical.slicesTidy hs), State.sl, State.sl, hslices]
    split
    next g _ => exact hwin _ fill_only (windowCopy_low _ _ _ _) _
    next => exact hwin s rfl (fun _ _ => rfl) _
  · refine ⟨rfl, fun _ _ => rfl, fun m hm => sl_modSl_other hm, fun hs => ?_⟩
    rw [sl_modSl_same (Canonical.slicesTidy hs)]

end Sys2Proof.Machine
end

section
/-!
PROOF. Passes (R182–R191): releases, misses, aborts, overruns, faults of slices, and the background.
-/

namespace Sys2Proof.Machine

open Sys2Proof.Claims

/-- Two changes of one entry. -/
theorem FMap.mod_mod {α : Type} [Inhabited α] [DecidableEq α] {m : FMap α} {k : Nat} {f g : α → α} (hm : FMap.tidy m = true) :
    (m.mod k f).mod k g = m.put k (g (f (m.at' k))) := by
  rw [FMap.mod, FMap.at'_mod_same hm, FMap.mod, FMap.put_put hm]

/-! ### Dispatch -/

theorem State.startPass_running {s : State} (hs : s.Canonical) {p n : Nat} {ps : Pass} (h : (s.sl n).pass = some ps) :
    ((s.startPass p n).pr p).running = n + 1 := by
  unfold startPass
  split
  next => rw [setRun_pr, pr_modPr_same (canonical_modSl hs)]
  next hnone => rw [h] at hnone; cases hnone

/-- R186: the pass that comes before every other runs on its pair. -/
theorem dispatch_running {s : State} (hs : s.Canonical) {p n : Nat} {ps : Pass} (hst : s.pairState p = 1)
    (hctl : s.bit XEC_CTL 0 = true) (hmem : (n, ps) ∈ s.contenders p)
    (hfirst : ∀ e ∈ s.contenders p, e ≠ (n, ps) → before (n, ps) e = true) : ((s.dispatch p).pr p).running = n + 1 := by
  have hd : ¬(s.pairState p ≠ 1 ∨ s.bit XEC_CTL 0 = false) := by simp [hst, hctl]
  rw [State.dispatch, if_neg hd]
  dsimp only
  rw [firstOf_eq hmem hfirst]
  dsimp only
  split
  · assumption
  · have hoff := s.suspend_ran p
    obtain ⟨ps', hps'⟩ : ∃ ps', ((s.suspend p).sl n).pass = some ps' := by
      rw [← Option.isSome_iff_exists, hoff.pass_isSome hs, State.contenders_pass hs hmem]; rfl
    exact State.startPass_running (hoff.canon hs) hps'

/-! ### A pass leaves its pair -/

theorem State.offPair_only (s : State) (n : Nat) : s.offPair n = { s with pairs := (s.offPair n).pairs } := by
  unfold offPair
  dsimp only
  split <;> rfl

/-- The registers that a miss of slice `n` on pair `q` writes (R188). -/
def missRegs (n q : Nat) : List Nat := [XEC_SL_MISSES n, XEC_PAIR_MISS q, XEC_SL_EVT n, XEC_SL_STAT n]

/-- The registers of a slice and the counter of its pair stand at places of their own. -/
theorem missRegs_apart {n q : Nat} (hn : n < 256) (hq : q < 16) :
    XEC_SL_MISSES n ≠ XEC_PAIR_MISS q ∧ XEC_SL_MISSES n ≠ XEC_SL_EVT n ∧ XEC_SL_MISSES n ≠ XEC_SL_STAT n ∧
      XEC_PAIR_MISS q ≠ XEC_SL_EVT n ∧ XEC_PAIR_MISS q ≠ XEC_SL_STAT n ∧ XEC_SL_EVT n ≠ XEC_SL_STAT n := by
  unfold XEC_SL_MISSES XEC_PAIR_MISS XEC_SL_EVT XEC_SL_STAT
  omega

theorem State.slPair_lt (s : State) (n : Nat) : s.slPair n < 16 := s.fld_lt _ _ _

/-- R188: a miss counted at slice and pair, shown in the slice's status and events. -/
theorem State.miss_effect {s : State} (h : s.RegsOk) {n : Nat} (hn : n < 256) :
    (s.miss n).rd (XEC_SL_MISSES n) = incSat 32 (s.rd (XEC_SL_MISSES n)) ∧
    (s.miss n).rd (XEC_PAIR_MISS (s.slPair n)) = incSat 32 (s.rd (XEC_PAIR_MISS (s.slPair n))) ∧
    (s.miss n).bit (XEC_SL_EVT n) 0 = true ∧ (s.miss n).fld (XEC_SL_STAT n) 7 4 = min ((s.sl n).cmiss + 1) 15 ∧
    RegsBut (missRegs n (s.slPair n)) s (s.miss n) ∧
    s.miss n = { s with regs := (s.miss n).regs
                        slices := s.slices.mod n fun sl => { sl with cmiss := (s.sl n).cmiss + 1 } } := by
  obtain ⟨hmp, hme, hms, hpe, hps, hes⟩ := missRegs_apart hn (s.slPair_lt n)
  have h0 : (s.modSl n fun sl => { sl with cmiss := (s.sl n).cmiss + 1 }).RegsOk := h
  have h1 := regsOk_setFld (a := XEC_SL_STAT n) (hi := 7) (lo := 4) (v := min ((s.sl n).cmiss + 1) 15) h0
  have h2 := regsOk_inc (a := XEC_SL_MISSES n) h1
  have h3 := regsOk_inc (a := XEC_PAIR_MISS (s.slPair n)) h2
  refine ⟨?_, ?_, bit_evt_same h3 (by decide), ?_, ?_, rfl⟩
  · rw [miss, rd_evt_ne hme, rd_inc_ne hmp, rd_inc_same h1, rd_setFld_ne hms]; rfl
  · rw [miss, rd_evt_ne hpe, rd_inc_same h2, rd_inc_ne hmp.symm, rd_setFld_ne hps]; rfl
  · rw [miss, fld_evt_other h3 (by decide) (.inl hes.symm), inc, fld_setReg_ne hps.symm, inc, fld_setReg_ne hms.symm,
      fld_setFld_same h0 (by decide) (by decide)]
    omega
  · exact (((RegsBut.setReg (.of_regs rfl) (by simp [missRegs])).setReg (by simp [missRegs])).setReg (by simp [missRegs])).setReg
      (by simp [missRegs])

theorem State.miss_sl {s : State} (hs : s.Canonical) {n : Nat} : (s.miss n).sl n = { s.sl n with cmiss := (s.sl n).cmiss + 1 } := by
  change (s.modSl n fun sl => { sl with cmiss := (s.sl n).cmiss + 1 }).sl n = _
  rw [sl_modSl_same (Canonical.slicesTidy hs)]

/-! ### Exceptions (R190) -/

/-- What an exception of slice `n` leaves: the slice is off its pair and has its last image again, the event is set and the
ledger has its record; pass and held release stay. -/
structure Excepted (n cause : Nat) (s t : State) : Prop where
  only   : t = { s with regs := t.regs, mem := t.mem, poison := t.poison, slices := t.slices, pairs := t.pairs, led := t.led }
  canon  : t.Canonical
  low    : LowMem s t
  regs   : RegsBut (XEC_SL_EVT n :: stageRegs) s t
  event  : t.bit (XEC_SL_EVT n) 6 = true
  pass   : (t.sl n).pass = (s.sl n).pass
  held   : (t.sl n).held = (s.sl n).held
  waitAt : (t.sl n).waitAt = none
  record : s.led.staged.length < 1024 → ∃ r : LedRec, t.led.staged = s.led.staged ++ [r] ∧ r.sev = 3 ∧ r.blk = 7 ∧ r.code = n ∧
    r.pay.getD 1 0 = cause

theorem slEvt_not_stageReg {n : Nat} (hn : n < 256) : XEC_SL_EVT n ∉ stageRegs := by
  simp only [stageRegs, XEC_SL_EVT, LED_STAGE_DROP, LED_EVT, List.mem_cons, List.not_mem_nil, or_false]
  omega

theorem State.takeException_effect {s : State} (hs : s.Canonical) {n : Nat} (hn : n < 256) (cause code pc seq : Nat) :
    Excepted n cause s (s.takeException n cause code pc seq) := by
  have hcanon : (s.takeException n cause code pc seq).Canonical := (takeException_kept (.refl s)).canonical hs
  revert hcanon
  unfold takeException
  dsimp only
  have hoff := s.offPair_only n
  have hoffc : (s.offPair n).Canonical := (offPair_kept (.refl s)).canonical hs
  generalize s.offPair n = o at hoff hoffc
  have hwait : (o.modSl n fun sl => { sl with waitAt := none }).sl n = { s.sl n with waitAt := none } := by
    rw [sl_modSl_same (Canonical.slicesTidy hoffc), hoff]; rfl
  have hw : (o.modSl n fun sl => { sl with waitAt := none }) =
      { s with slices := (o.modSl n fun sl => { sl with waitAt := none }).slices, pairs := o.pairs } := by rw [hoff]; rfl
  have hwc := canonical_modSl (n := n) (f := fun sl => { sl with waitAt := none }) hoffc
  generalize (o.modSl n fun sl => { sl with waitAt := none }) = w at hwait hw hwc
  have hl := w.loadImage_loaded n
  have hlc : (w.loadImage n).Canonical := (loadImage_kept (.refl w)).canonical hwc
  generalize w.loadImage n = l at hl hlc
  have hsl := hl.slice hwc
  have hregs : l.regs = s.regs := by rw [hl.only, hw]
  intro hcanon
  refine ⟨?_, hcanon, fun x hx => ?_, ?_, ?_, ?_, ?_, ?_, fun hroom => ?_⟩
  · rw [ledger, stageRec_only, hl.only, hw]; rfl
  · rw [ledger, stageRec_only]
    exact (hl.low x hx).trans (by rw [hw]; rfl)
  · refine RegsBut.trans (RegsBut.setReg (.of_regs hregs) List.mem_cons_self) ((stageRec_regs _ _).mono ?_)
    exact List.subset_cons_self _ _
  · rw [ledger, bit, stageRec_rd (slEvt_not_stageReg hn)]
    exact bit_evt_same (Canonical.regsOk hlc) (by decide)
  · rw [ledger, stageRec_only]
    exact (congrArg Slice.pass hsl).trans (by rw [hwait])
  · rw [ledger, stageRec_only]
    exact (congrArg Slice.held hsl).trans (by rw [hwait])
  · rw [ledger, stageRec_only]
    exact (congrArg Slice.waitAt hsl).trans (by rw [hwait])
  · have hled : l.led = s.led := by rw [hl.only, hw]
    have hled' : (l.evt (XEC_SL_EVT n) 6).led = s.led := hled
    rw [ledger, stageRec_room (by rw [hled']; exact hroom), hled']
    exact ⟨_, rfl, rfl, rfl, rfl, rfl⟩

end Sys2Proof.Machine
end

section
/-!
PROOF. The end of a pass and its abort (R187, R190): what they leave of the slice and what they may write.
-/

namespace Sys2Proof.Machine

open Sys2Proof.Claims

theorem State.showRelease_sl {s : State} {n m : Nat} {ps : Pass} : (s.showRelease n ps).sl m = s.sl m := rfl

/-- R187: a held release takes the place of the pass that is over. -/
theorem State.passOver_sl {s : State} (hs : s.Canonical) (n : Nat) :
    (s.passOver n).sl n = { s.sl n with pass := (s.sl n).held, held := none } := by
  have htidy := Canonical.slicesTidy hs
  unfold passOver
  dsimp only
  split
  next h hheld => rw [showRelease_sl, setRun_sl, sl_modSl_same htidy, hheld]
  next hheld => rw [setRun_sl, sl_modSl_same htidy, hheld]

theorem State.passOver_only (s : State) (n : Nat) :
    s.passOver n = { s with regs := (s.passOver n).regs, slices := (s.passOver n).slices } := by
  unfold passOver
  dsimp only
  split <;> rfl

theorem State.passOver_regs (s : State) (n : Nat) : RegsBut [XEC_SL_STAT n] s (s.passOver n) := by
  have hrun : ∀ f : Slice → Slice, RegsBut [XEC_SL_STAT n] s ((s.modSl n f).setRun n 1) := fun _ =>
    RegsBut.setReg (.of_regs rfl) List.mem_cons_self
  unfold passOver
  dsimp only
  split
  · exact ((hrun _).setReg List.mem_cons_self).setReg List.mem_cons_self
  · exact hrun _

theorem slStat_mem {n : Nat} (hn : n < 256) : XEC_SL_STAT n ∈ slStats := List.mem_map.mpr ⟨n, List.mem_range.mpr hn, rfl⟩

/-- A register that is no slice's run state. -/
theorem not_slStat {a : Nat} (h : ∀ m, m < 256 → a ≠ XEC_SL_STAT m) : a ∉ slStats := by
  intro ha
  obtain ⟨m, hm, rfl⟩ := List.mem_map.mp ha
  exact h m (List.mem_range.mp hm) rfl

theorem slEvt_not_slStat (n : Nat) : XEC_SL_EVT n ∉ slStats := not_slStat fun m _ => by
  unfold XEC_SL_EVT XEC_SL_STAT; omega

theorem excRegs_superset {n q : Nat} (hn : n < 256) : missRegs n q ++ (XEC_SL_EVT n :: stageRegs) ⊆ excRegs n q := by
  intro a ha
  have hstat := slStat_mem hn
  simp only [missRegs, stageRegs, excRegs, List.mem_append, List.mem_cons, List.not_mem_nil, or_false] at ha ⊢
  rcases ha with (h | h | h | rfl) | h | h | h
  all_goals simp_all

theorem slStats_subset_excRegs (n q : Nat) : slStats ⊆ excRegs n q := List.subset_append_right _ _

/-- What the abort of slice `n` leaves (R190), whose code met an exception with this cause: pass and held release are those of
`u`. -/
structure Aborted (n cause : Nat) (s : State) (pass held : Option Pass) (t : State) : Prop where
  only   : t = { s with regs := t.regs, mem := t.mem, poison := t.poison, slices := t.slices, pairs := t.pairs, led := t.led }
  low    : LowMem s t
  regs   : RegsBut (excRegs n (s.slPair n)) s t
  event  : t.bit (XEC_SL_EVT n) 6 = true
  pass   : (t.sl n).pass.isSome = pass.isSome
  held   : (t.sl n).held = held
  waitAt : (t.sl n).waitAt = none
  record : s.led.staged.length < 1024 → ∃ r : LedRec, t.led.staged = s.led.staged ++ [r] ∧ r.sev = 3 ∧ r.blk = 7 ∧ r.code = n ∧
    r.pay.getD 1 0 = cause

/-- After the exception the slice has a run state shown and its pair is given away. -/
theorem Excepted.dispatched {n cause p : Nat} {s t u : State} {pass held : Option Pass} (hn : n < 256) (h : Excepted n cause s t)
    (hu : u = { t with regs := u.regs, slices := u.slices }) (hregs : RegsBut [XEC_SL_STAT n] t u) (hc : u.Canonical)
    (hsl : u.sl n = { t.sl n with pass := pass, held := held }) : Aborted n cause s pass held (u.dispatch p) := by
  have hran := u.dispatch_ran p
  have hsame := hran.sl hc n
  have hsub : [XEC_SL_STAT n] ⊆ slStats := by simpa using slStat_mem hn
  refine ⟨?_, fun x hx => ?_, ?_, ?_, ?_, ?_, ?_, fun hroom => ?_⟩
  · rw [hran.only, hu, h.only]
  · rw [hran.only, hu]
    exact h.low x hx
  · refine RegsBut.trans (RegsBut.trans (h.regs.mono ?_) (hregs.mono ?_)) (hran.regs.mono (slStats_subset_excRegs n _))
    · exact List.Subset.trans (List.subset_append_right _ _) (excRegs_superset hn)
    · exact List.Subset.trans hsub (slStats_subset_excRegs n _)
  · have hne : XEC_SL_EVT n ∉ [XEC_SL_STAT n] := fun hm => slEvt_not_slStat n (hsub hm)
    rw [State.bit, hran.regs _ (slEvt_not_slStat n), hregs _ hne]
    exact h.event
  · rw [hran.pass_isSome hc, hsl]
  · exact (congrArg Slice.held hsame).trans (by rw [hsl]; rfl)
  · exact (congrArg Slice.waitAt hsame).trans (by rw [hsl]; exact h.waitAt)
  · rw [hran.only, hu]
    exact h.record hroom

/-- R190: the abort of a background slice's run, which has no pass. -/
theorem State.abortPass_background {s : State} (hs : s.Canonical) {n : Nat} (hn : n < 256) (cause code pc : Nat)
    (hpass : (s.sl n).pass = none) (hrun : (s.pr (s.slPair n)).running = n + 1) :
    Aborted n cause s none (s.sl n).held (s.abortPass n cause code pc) := by
  unfold abortPass
  rw [hpass]
  dsimp only
  rw [if_pos hrun]
  have he := takeException_effect hs hn cause code pc (s.rd (XEC_SL_SEQ n))
  refine he.dispatched hn rfl (RegsBut.setReg (.of_regs rfl) List.mem_cons_self) (canonical_setReg he.canon) ?_
  rw [setRun_sl, ← he.held, ← hpass, ← he.pass]

/-- R188: a release counts as a miss at most once. -/
theorem State.missUnless_effect {s : State} (hs : s.Canonical) {n : Nat} (hn : n < 256) (missed : Bool) :
    let v := if missed = true then s else s.miss n
    v.Canonical ∧ v = { s with regs := v.regs, slices := v.slices } ∧ RegsBut (missRegs n (s.slPair n)) s v ∧
    (v.sl n).held = (s.sl n).held ∧
    v.rd (XEC_SL_MISSES n) = (if missed then s.rd (XEC_SL_MISSES n) else incSat 32 (s.rd (XEC_SL_MISSES n))) := by
  cases missed with
  | true => exact ⟨hs, rfl, .of_regs rfl, rfl, rfl⟩
  | false =>
    obtain ⟨hmisses, -, -, -, hregs, honly⟩ := miss_effect (Canonical.regsOk hs) hn
    exact ⟨(miss_kept (.refl s)).canonical hs, by rw [if_neg (by decide), honly], hregs, by rw [if_neg (by decide), miss_sl hs], hmisses⟩

/-- R188, R190: the abort of a pass, whose release counts as a miss. -/
theorem State.abortPass_pass {s : State} (hs : s.Canonical) {n : Nat} (hn : n < 256) (cause code pc : Nat) {ps : Pass}
    (hpass : (s.sl n).pass = some ps) :
    Aborted n cause s (s.sl n).held none (s.abortPass n cause code pc) ∧
    (s.abortPass n cause code pc).rd (XEC_SL_MISSES n) =
      (if ps.missed then s.rd (XEC_SL_MISSES n) else incSat 32 (s.rd (XEC_SL_MISSES n))) := by
  unfold abortPass
  rw [hpass]
  dsimp only
  obtain ⟨hvc, hvonly, hvregs, hvheld, hvmiss⟩ := missUnless_effect hs hn ps.missed
  generalize (if ps.missed = true then s else s.miss n) = v at hvc hvonly hvregs hvheld hvmiss ⊢
  have he := takeException_effect hvc hn cause code pc ps.seq
  have hover := passOver_sl he.canon n
  rw [he.held, hvheld] at hover
  have hpc : ((v.takeException n cause code pc ps.seq).passOver n).Canonical := (passOver_kept (.refl _)).canonical he.canon
  have hab := he.dispatched (p := (v.takeException n cause code pc ps.seq).slPair n) hn (passOver_only _ n) (passOver_regs _ n) hpc hover
  have hpair : v.slPair n = s.slPair n := by
    rw [slPair, fld, hvregs]
    · rfl
    · simp only [missRegs, XEC_SL_CFG, XEC_SL_MISSES, XEC_PAIR_MISS, XEC_SL_EVT, XEC_SL_STAT, List.mem_cons, List.not_mem_nil, or_false]
      have := s.slPair_lt n
      omega
  refine ⟨⟨?_, fun x hx => ?_, ?_, hab.event, hab.pass, hab.held, hab.waitAt, fun hroom => ?_⟩, ?_⟩
  · rw [hab.only, hvonly]
  · rw [hab.low x hx, hvonly]; rfl
  · have hr := hab.regs
    rw [hpair] at hr
    exact RegsBut.trans (hvregs.mono (List.Subset.trans (List.subset_append_left _ _) (excRegs_superset hn))) hr
  · have hled : v.led = s.led := by rw [hvonly]
    have := hab.record (by rw [hled]; exact hroom)
    rwa [hled] at this
  · have hne1 : XEC_SL_MISSES n ∉ slStats := not_slStat fun m _ => by unfold XEC_SL_MISSES XEC_SL_STAT; omega
    have hne2 : XEC_SL_MISSES n ∉ [XEC_SL_STAT n] := by simp [XEC_SL_MISSES, XEC_SL_STAT]
    have hne3 : XEC_SL_MISSES n ∉ XEC_SL_EVT n :: stageRegs := by
      simp only [stageRegs, XEC_SL_MISSES, XEC_SL_EVT, LED_STAGE_DROP, LED_EVT, List.mem_cons, List.not_mem_nil, or_false]
      omega
    rw [(dispatch_ran _ _).regs _ hne1, passOver_regs _ n _ hne2, he.regs _ hne3, hvmiss]

end Sys2Proof.Machine
end

section
/-!
PROOF. Releases (R183, R187): the number counted, the pass released, and the ladder that a release may raise (R193).
-/

namespace Sys2Proof.Machine

open Sys2Proof.Claims

/-! ### Free releases (R183, R187) -/

/-- R193: a rise of the ladder at a release, and the risk shown, touch the pair alone. -/
theorem State.overloadRise_effect (s : State) (p : Nat) :
    s.overloadRise p = { s with regs := (s.overloadRise p).regs, pairs := (s.overloadRise p).pairs } ∧
    RegsBut [XEC_PAIR_STAT p, XEC_PAIR_EVT p, XEC_LADDER_CNT] s (s.overloadRise p) := by
  unfold overloadRise
  dsimp only
  generalize hv : (if (s.atRisk p || decide (min (s.fld XEC_OVL_CFG 15 8) 100 ≤ s.util p)) = true then _ else _) = v
  have hvonly : v = { s with regs := v.regs, pairs := v.pairs } := by subst hv; split <;> rfl
  have hvregs : RegsBut [XEC_PAIR_STAT p, XEC_PAIR_EVT p, XEC_LADDER_CNT] s v := by
    have hrisk : RegsBut [XEC_PAIR_STAT p, XEC_PAIR_EVT p, XEC_LADDER_CNT] s (s.setBit (XEC_PAIR_STAT p) 17 (s.atRisk p)) :=
      RegsBut.setReg (.of_regs rfl) (by simp)
    subst hv
    split
    · exact hrisk
    · exact hrisk
  split
  · refine ⟨?_, ?_⟩
    · rw [hvonly]; rfl
    · have hput : RegsBut [XEC_PAIR_STAT p, XEC_PAIR_EVT p, XEC_LADDER_CNT] s
          (v.setFld (XEC_PAIR_STAT p) 7 6 (v.fld (XEC_PAIR_STAT p) 7 6 + 1)) := hvregs.setReg (by simp)
      exact ((RegsBut.setReg (t := State.modPr p _ _) hput (by simp)).setReg (by simp)).setReg (by simp)
  · exact ⟨hvonly, hvregs⟩

/-- The pass of a release with its sequence number. -/
def State.numbered (s : State) (n : Nat) (ps : Pass) : Pass :=
  { ps with seq := (s.incMod (XEC_SL_SEQ n)).rd (XEC_SL_SEQ n) }

/-- A release that is taken: the number counted, the grid number kept, and the pass released. -/
def State.withRelease (n : Nat) (ps : Pass) (s : State) : State :=
  ((((s.incMod (XEC_SL_SEQ n)).modSl n (fun sl => { sl with lastGp := ps.gp })).modSl n
    (fun sl => { sl with pass := some (s.numbered n ps) })).setRun n 1).showRelease n (s.numbered n ps)

theorem State.sheds_congr {s t : State} {n k : Nat} (h : t.rd (XEC_SL_CFG n) = s.rd (XEC_SL_CFG n))
    (hp : t.rd (XEC_PAIR_STAT (s.slPair n)) = s.rd (XEC_PAIR_STAT (s.slPair n))) (hx : t.rd XEC_STAT = s.rd XEC_STAT)
    (ho : t.rd XEC_OVL_CFG = s.rd XEC_OVL_CFG) : t.sheds n k = s.sheds n k := by
  have hpair : t.slPair n = s.slPair n := by rw [slPair, slPair, fld, fld, h]
  have hcrit : t.slCrit n = s.slCrit n := by rw [slCrit, slCrit, fld, fld, h]
  simp only [sheds, hcrit, hpair, level, fld, hp, hx, ho]
  rfl

/-- R187: a release of a slice that runs, waits and is not shed becomes its pass. -/
theorem State.releasePoint_taken {s : State} (hs : s.Canonical) {n : Nat} {ps : Pass} (hn : n < 256) (hen : s.slEn n = true)
    (hrun : s.run n ≠ 6) (hlife : s.life n = 1) (hctl : s.bit XEC_CTL 0 = true) (hfresh : (s.sl n).fresh = false)
    (hpass : (s.sl n).pass = none) (hsheds : s.sheds n (s.numbered n ps).seq = false) :
    s.releasePoint n ps = ((s.withRelease n ps).dispatch (s.slPair n)).overloadRise (s.slPair n) := by
  have hq := s.slPair_lt n
  have hrd : ∀ a, a ≠ XEC_SL_SEQ n → (s.incMod (XEC_SL_SEQ n)).rd a = s.rd a := fun a ha => rd_setReg_ne ha
  unfold releasePoint
  rw [if_neg (by simp [hen, hrun, hlife, hctl])]
  dsimp only
  generalize hu : (s.incMod (XEC_SL_SEQ n)).modSl n (fun sl => { sl with lastGp := ps.gp }) = u
  have hurd : ∀ a, a ≠ XEC_SL_SEQ n → u.rd a = s.rd a := by subst hu; exact hrd
  have husl : u.sl n = { s.sl n with lastGp := ps.gp } := by
    have htidy : FMap.tidy (s.incMod (XEC_SL_SEQ n)).slices = true := show FMap.tidy s.slices = true from Canonical.slicesTidy hs
    subst hu; rw [sl_modSl_same htidy]; rfl
  have hulife : u.life n = 1 := by
    rw [life, fld, hurd _ (by unfold XEC_SL_XSTAT XEC_SL_SEQ; omega)]; exact hlife
  have hupair : u.slPair n = s.slPair n := by
    rw [slPair, fld, hurd _ (by unfold XEC_SL_CFG XEC_SL_SEQ; omega)]; rfl
  have hushed : u.sheds n (s.numbered n ps).seq = false := by
    rw [← hsheds]
    refine sheds_congr (hurd _ ?_) (hurd _ ?_) (hurd _ ?_) (hurd _ ?_)
    · unfold XEC_SL_CFG XEC_SL_SEQ; omega
    · unfold XEC_PAIR_STAT XEC_SL_SEQ; omega
    · unfold XEC_STAT XEC_SL_SEQ; omega
    · unfold XEC_OVL_CFG XEC_SL_SEQ; omega
  have hnum : { ps with seq := u.rd (XEC_SL_SEQ n) } = s.numbered n ps := by subst hu; rfl
  have hres : u.resumed n ps.gp = u := by
    unfold resumed
    rw [if_neg (by rw [husl]; simp [hfresh])]
  have htake : u.takeIn n (s.numbered n ps) = (s.withRelease n ps).dispatch (s.slPair n) := by
    unfold takeIn
    dsimp only
    rw [if_neg (by rw [husl, hulife]; simp [hpass])]
    have hpair : ((u.modSl n fun sl => { sl with pass := some (s.numbered n ps) }).setRun n 1).slPair n = s.slPair n := by
      rw [← hupair, slPair, setRun, fld, rd_setFld_ne (by unfold XEC_SL_CFG XEC_SL_STAT; omega)]; rfl
    rw [hpair]
    subst hu
    rfl
  have hseq : u.rd (XEC_SL_SEQ n) = (s.numbered n ps).seq := congrArg Pass.seq hnum
  rw [if_pos hulife, hres, if_neg (by omega), if_neg (by omega), if_neg (by simp [hseq, hushed]), hnum, htake, hupair]

/-- R205: what a release is shows in the status. -/
theorem State.showRelease_bits {s : State} (h : s.RegsOk) (n : Nat) (ps : Pass) :
    (s.showRelease n ps).bit (XEC_SL_STAT n) 8 = ps.restarted ∧ (s.showRelease n ps).bit (XEC_SL_STAT n) 9 = ps.free := by
  refine ⟨?_, bit_setBit_same (regsOk_setBit h) (by decide)⟩
  rw [showRelease, bit_setBit_other (regsOk_setBit h) (by decide) (.inr (by decide)), bit_setBit_same h (by decide)]

/-- What a free release that is taken leaves of `s` (R183, R187). -/
theorem State.withRelease_effect {s : State} (hs : s.Canonical) {n : Nat} {ps : Pass} :
    (s.withRelease n ps).Canonical ∧
    s.withRelease n ps = { s with regs := (s.withRelease n ps).regs, slices := (s.withRelease n ps).slices } ∧
    RegsBut [XEC_SL_SEQ n, XEC_SL_STAT n] s (s.withRelease n ps) ∧
    (s.withRelease n ps).rd (XEC_SL_SEQ n) = (s.rd (XEC_SL_SEQ n) + 1) % 2 ^ 32 ∧
    (s.withRelease n ps).bit (XEC_SL_STAT n) 8 = ps.restarted ∧ (s.withRelease n ps).bit (XEC_SL_STAT n) 9 = ps.free ∧
    (s.withRelease n ps).sl n = { s.sl n with
      lastGp := ps.gp, pass := some { ps with seq := (s.rd (XEC_SL_SEQ n) + 1) % 2 ^ 32 } } := by
  have hne : XEC_SL_SEQ n ≠ XEC_SL_STAT n := by unfold XEC_SL_SEQ XEC_SL_STAT; omega
  have hseq : (s.incMod (XEC_SL_SEQ n)).rd (XEC_SL_SEQ n) = (s.rd (XEC_SL_SEQ n) + 1) % 2 ^ 32 := by
    rw [incMod, rd_setReg_same (Canonical.regsOk hs), Nat.mod_mod]
  have hc1 : (s.incMod (XEC_SL_SEQ n)).Canonical := canonical_setReg hs
  have hc2 := canonical_modSl (n := n) (f := fun sl => { sl with lastGp := ps.gp }) hc1
  have hc3 := canonical_modSl (n := n) (f := fun sl => { sl with pass := some (s.numbered n ps) }) hc2
  have hok := regsOk_setFld (a := XEC_SL_STAT n) (hi := 2) (lo := 0) (v := 1) (Canonical.regsOk hc3)
  have hcanon : (s.withRelease n ps).Canonical := canonical_setReg (canonical_setReg (canonical_setReg hc3))
  refine ⟨hcanon, rfl, ?_, ?_, ?_, ?_, ?_⟩
  · have hstat : XEC_SL_STAT n ∈ [XEC_SL_SEQ n, XEC_SL_STAT n] := by simp
    have hcount : RegsBut [XEC_SL_SEQ n, XEC_SL_STAT n] s (s.incMod (XEC_SL_SEQ n)) := regsBut_setReg.mono (by simp)
    exact RegsBut.setReg (RegsBut.setReg (RegsBut.setReg (RegsBut.congr hcount rfl) hstat) hstat) hstat
  · rw [withRelease, showRelease, rd_setBit_ne hne, rd_setBit_ne hne, setRun, rd_setFld_ne hne]
    exact hseq
  · exact (showRelease_bits hok n (s.numbered n ps)).1
  · exact (showRelease_bits hok n (s.numbered n ps)).2
  · rw [withRelease, showRelease_sl, setRun_sl, sl_modSl_same (Canonical.slicesTidy hc2), sl_modSl_same (Canonical.slicesTidy hc1),
      numbered, hseq]
    rfl

end Sys2Proof.Machine
end

section
/-!
PROOF. Slices that stop (R179, R189): what stopping a slice and a slice fault leave of the state.
-/

namespace Sys2Proof.Machine

open Sys2Proof.Claims

/-! ### Faults of slices (R189) -/

/-- No register of the execution complex is one that a change of health writes. -/
theorem xec_not_healthReg {a : Nat} (hlo : 0x6000700000 ≤ a) (hhi : a < 0x6000800000) : a ∉ healthRegs := fun ha => by
  have hall : ∀ b ∈ healthRegs, b < 0x6000700000 ∨ 0x6000800000 ≤ b := by decide
  have := hall a ha
  omega

theorem HealthStep.rd_xec {n a : Nat} {s t : State} (h : HealthStep n s t) (hlo : 0x6000700000 ≤ a) (hhi : a < 0x6000800000) :
    t.rd a = s.rd a := h.regs a (xec_not_healthReg hlo hhi)

theorem HealthStep.sl {k : Nat} {s t : State} (h : HealthStep k s t) (n : Nat) : t.sl n = s.sl n := by
  rw [State.sl, h.only]; rfl

theorem HealthStep.pr {k : Nat} {s t : State} (h : HealthStep k s t) (p : Nat) : t.pr p = s.pr p := by
  rw [State.pr, h.only]; rfl

theorem HealthStep.mem {k : Nat} {s t : State} (h : HealthStep k s t) : t.mem = s.mem := by rw [h.only]

/-- The registers of slice `n` stand in the execution complex. -/
theorem slRegs_xec {n : Nat} (hn : n < 256) : ∀ a ∈ [XEC_SL_STAT n, XEC_SL_EVT n, XEC_SL_XEVT n, XEC_SL_XSTAT n, XEC_SL_CFG n],
    0x6000710000 ≤ a ∧ a < 0x6000800000 := by
  intro a ha
  simp only [XEC_SL_STAT, XEC_SL_EVT, XEC_SL_XEVT, XEC_SL_XSTAT, XEC_SL_CFG, List.mem_cons, List.not_mem_nil, or_false] at ha
  omega

/-- What stopping slice `n` leaves of `s` (R179, R189). -/
structure SliceStopped (n : Nat) (s t : State) : Prop where
  only    : t = { s with regs := t.regs, slices := t.slices, pairs := t.pairs }
  canon   : t.Canonical
  regs    : RegsBut [XEC_SL_STAT n, XEC_STAT] s t
  stopped : Stopped n t
  other   : ∀ m, m ≠ n → t.sl m = s.sl m
  pr      : ∀ p, (t.pr p).isolated = (s.pr p).isolated ∧ ((s.pr p).running = 0 → (t.pr p).running = 0)
  classA  : s.slEn n = true → s.slCrit n = 0 → t.bit XEC_STAT 8 = true

theorem State.offPair_pr {s : State} (hs : s.Canonical) (n p : Nat) :
    ((s.offPair n).pr p).isolated = (s.pr p).isolated ∧ ((s.pr p).running = 0 → ((s.offPair n).pr p).running = 0) := by
  unfold offPair
  dsimp only
  split
  · refine pr_modPr_of (P := fun x => x.isolated = (s.pr p).isolated ∧ ((s.pr p).running = 0 → x.running = 0)) hs ?_ ?_
    · exact fun _ => ⟨rfl, fun _ => rfl⟩
    · exact fun _ => ⟨rfl, id⟩
  · exact ⟨rfl, id⟩

theorem State.stopSlice_stopped {s : State} (hs : s.Canonical) {n : Nat} (hn : n < 256) : SliceStopped n s (s.stopSlice n) := by
  have hcanon : (s.stopSlice n).Canonical := (stopSlice_kept (.refl s)).canonical hs
  have hoff := s.offPair_only n
  have hoffc : (s.offPair n).Canonical := (offPair_kept (.refl s)).canonical hs
  have hpr := offPair_pr hs n
  revert hcanon
  unfold stopSlice showClassA
  dsimp only
  generalize s.offPair n = o at hoff hoffc hpr
  have hclear : (o.modSl n fun sl => { sl with pass := none, held := none, waitAt := none }).Canonical := canonical_modSl hoffc
  have hok := Canonical.regsOk hclear
  have hne : XEC_SL_STAT n ≠ XEC_STAT := by unfold XEC_SL_STAT XEC_STAT; omega
  have hregs : o.regs = s.regs := by rw [hoff]
  have hsl : ∀ m, o.sl m = s.sl m := fun m => by rw [hoff]; rfl
  have hcsl := sl_modSl_same (s := o) (n := n) (f := fun sl => { sl with pass := none, held := none, waitAt := none })
    (Canonical.slicesTidy hoffc)
  have hcother : ∀ m, m ≠ n → (o.modSl n fun sl => { sl with pass := none, held := none, waitAt := none }).sl m = s.sl m :=
    fun m hm => (sl_modSl_other hm).trans (hsl m)
  have hcpr : ∀ p, (o.modSl n fun sl => { sl with pass := none, held := none, waitAt := none }).pr p = o.pr p := fun _ => rfl
  generalize hc : (o.modSl n fun sl => { sl with pass := none, held := none, waitAt := none }) = c at hclear hok hcsl hcother hcpr
  have hconly : c = { s with slices := c.slices, pairs := c.pairs } := by subst hc; rw [hoff]; rfl
  have hrun : (c.setRun n 6).run n = 6 := fld_setFld_same hok (by decide) (by decide)
  generalize hr : c.setRun n 6 = r at hrun
  have hrrd : ∀ a, a ≠ XEC_SL_STAT n → r.rd a = s.rd a := by
    intro a ha
    subst hr
    rw [setRun, rd_setFld_ne ha, hconly]
    rfl
  intro hcanon
  refine ⟨?_, hcanon, ?_, ⟨?_, ?_, ?_⟩, fun m hm => ?_, fun p => ?_, fun hen hcrit => ?_⟩
  · subst hr; rw [hconly]; rfl
  · have hstat : RegsBut [XEC_SL_STAT n, XEC_STAT] s r := fun a ha => hrrd a fun h => ha (by simp [h])
    exact hstat.setReg (by simp)
  · rw [run, fld, rd_setBit_ne hne]
    exact hrun
  · subst hr
    change (c.sl n).pass = none
    rw [hcsl]
  · subst hr
    change (c.sl n).held = none
    rw [hcsl]
  · subst hr
    exact hcother m hm
  · subst hr
    change ((c.pr p).isolated = _) ∧ (_ → (c.pr p).running = 0)
    rw [hcpr]
    exact hpr p
  · rw [bit_setBit_same (by subst hr; exact regsOk_setFld hok) (by decide), List.any_eq_true]
    refine ⟨n, List.mem_range.mpr hn, ?_⟩
    have hcfg : r.rd (XEC_SL_CFG n) = s.rd (XEC_SL_CFG n) := hrrd _ (by unfold XEC_SL_CFG XEC_SL_STAT; omega)
    have hen' : r.slEn n = true := by rw [slEn, bit, hcfg]; exact hen
    have hcrit' : r.slCrit n = 0 := by rw [slCrit, fld, hcfg]; exact hcrit
    simp [hen', hcrit', hrun]

/-- What a slice fault leaves of `s` (R189). -/
structure Faulted (n : Nat) (s t : State) : Prop where
  canon   : t.Canonical
  regs    : RegsBut ([XEC_SL_STAT n, XEC_SL_EVT n, XEC_EVT, XEC_SF_CNT, XEC_STAT] ++ healthRegs) s t
  mem     : t.mem = s.mem
  stopped : Stopped n t
  other   : ∀ m, m ≠ n → t.sl m = s.sl m
  pr      : ∀ p, (t.pr p).isolated = (s.pr p).isolated ∧ ((s.pr p).running = 0 → (t.pr p).running = 0)
  limit   : t.fld RED_HEALTH 1 0 = s.fld RED_HEALTH 1 0
  shown   : HealthShown s t
  event   : t.bit (XEC_SL_EVT n) 2 = true
  raised  : t.rd XEC_EVT = raised (s.rd XEC_EVT) 3
  count   : t.rd XEC_SF_CNT = incSat 32 (s.rd XEC_SF_CNT)
  classA  : s.slEn n = true → s.slCrit n = 0 → t.bit XEC_STAT 8 = true

theorem State.sliceFault_faulted {s : State} (hs : s.Canonical) {n : Nat} (hn : n < 256) : Faulted n s (s.sliceFault n) := by
  have hcanon : (s.sliceFault n).Canonical := (sliceFault_kept (.refl s)).canonical hs
  have hst := stopSlice_stopped hs hn
  revert hcanon
  unfold sliceFault
  dsimp only
  generalize s.stopSlice n = a at hst
  have hslstat : XEC_SL_STAT n = 0x6000710010 + 0x40 * n := rfl
  have hslevt : XEC_SL_EVT n = 0x6000710014 + 0x40 * n := rfl
  have hevt : XEC_EVT = 0x6000700018 := rfl
  have hstat : XEC_STAT = 0x6000700014 := rfl
  have hcnt : XEC_SF_CNT = 0x6000700080 := rfl
  have hok1 := regsOk_evt (a := XEC_SL_EVT n) (i := 2) (Canonical.regsOk hst.canon)
  have hok2 := regsOk_evt (a := XEC_EVT) (i := 3) hok1
  have hok3 := regsOk_inc (a := XEC_SF_CNT) hok2
  generalize hb : ((a.evt (XEC_SL_EVT n) 2).evt XEC_EVT 3).inc XEC_SF_CNT = b at hok3
  have hbonly : b = { a with regs := b.regs } := by subst hb; rfl
  have hbrd : ∀ x, x ≠ XEC_SL_EVT n → x ≠ XEC_EVT → x ≠ XEC_SF_CNT → b.rd x = a.rd x := by
    intro x h1 h2 h3
    subst hb
    rw [rd_inc_ne h3, rd_evt_ne h2, rd_evt_ne h1]
  have hbut : RegsBut [XEC_SL_STAT n, XEC_SL_EVT n, XEC_EVT, XEC_SF_CNT, XEC_STAT] s b := by
    subst hb
    exact (((hst.regs.mono (by simp)).setReg (by simp)).setReg (by simp)).setReg (by simp)
  generalize hl : b.ledger _ 7 n (XEC_SL_EVT n) 2 [] = l
  have hled : HealthStep 1 b l := by subst hl; exact stageRec_health _ _
  have hstep := hled.trans l.healthUpdate_step
  have hlimit : l.fld RED_HEALTH 1 0 = s.fld RED_HEALTH 1 0 := by
    rw [hled.limit hok3, fld, fld, hbut _ ?_]
    simp only [hslstat, hslevt, hevt, hstat, hcnt, RED_HEALTH, List.mem_cons, List.not_mem_nil, or_false]
    omega
  intro hcanon
  refine ⟨hcanon, ?_, ?_, ⟨?_, ?_, ?_⟩, fun m hm => ?_, fun p => ?_, ?_, healthShown_healthUpdate (hled.regsOk hok3) hlimit,
    ?_, ?_, ?_, fun hen hcrit => ?_⟩
  · exact RegsBut.trans (hbut.mono (List.subset_append_left _ _)) (hstep.regs.mono (List.subset_append_right _ _))
  · rw [hstep.mem, hbonly, hst.only]
  · rw [run, fld, hstep.rd_xec (by omega) (by omega), hbrd _ (by omega) (by omega) (by omega)]
    exact hst.stopped.1
  · rw [hstep.sl, hbonly]; exact hst.stopped.2.1
  · rw [hstep.sl, hbonly]; exact hst.stopped.2.2
  · rw [hstep.sl, hbonly]; exact hst.other m hm
  · rw [hstep.pr, hbonly]; exact hst.pr p
  · rw [l.healthUpdate_step.limit (hled.regsOk hok3), hlimit]
  · rw [bit, hstep.rd_xec (by omega) (by omega)]
    subst hb
    rw [rd_inc_ne (by omega), rd_evt_ne (by omega)]
    exact bit_evt_same (Canonical.regsOk hst.canon) (by decide)
  · rw [hstep.rd_xec (by decide) (by decide)]
    subst hb
    rw [rd_inc_ne (by decide), rd_evt_same hok1 (by decide), rd_evt_ne (by omega), hst.regs _ (by simp; omega)]
  · rw [hstep.rd_xec (by decide) (by decide)]
    subst hb
    rw [rd_inc_same hok2, rd_evt_ne (by decide), rd_evt_ne (by omega), hst.regs _ (by simp; omega)]
  · rw [bit, hstep.rd_xec (by decide) (by decide), hbrd _ (by omega) (by decide) (by decide)]
    exact hst.classA hen hcrit

end Sys2Proof.Machine
end

section
/-!
PROOF. The background, overruns and misses (R182, R183, R188, R191): the effect of each where it has its cause.
-/

namespace Sys2Proof.Machine

open Sys2Proof.Claims

/-! ### The background (R182) -/

/-- The slice on a pair is taken off it: the pair is free, and a slice without a pass waits. -/
theorem State.suspend_background {s : State} (hs : s.Canonical) {p n : Nat} (hn : n < 256) (hrun : (s.pr p).running = n + 1)
    (hpass : (s.sl n).pass = none) :
    ((s.suspend p).pr p).running = 0 ∧ ((s.suspend p).pr p).bgLast = (s.pr p).bgLast ∧ (s.suspend p).run n = 1 := by
  have hidx : ((s.pr p).running - 1) % 256 = n := by rw [hrun, Nat.add_sub_cancel, Nat.mod_eq_of_lt hn]
  unfold suspend
  dsimp only
  rw [hidx, if_neg (by omega)]
  split
  next ps hps => rw [show (s.sl n).pass = some ps from hps] at hpass; cases hpass
  next =>
    refine ⟨?_, ?_, fld_setFld_same (Canonical.regsOk (canonical_modPr hs)) (by decide) (by decide)⟩
    · rw [setRun_pr, pr_modPr_same hs]
    · rw [setRun_pr, pr_modPr_same hs]

/-- R182: the next background slice on a free pair. -/
theorem State.dispatch_background {s : State} (hs : s.Canonical) {p m : Nat} (hst : s.pairState p = 1)
    (hctl : s.bit XEC_CTL 0 = true) (hlevel : s.level p = 0) (hnone : s.contenders p = []) (hfree : (s.pr p).running = 0)
    (hnext : s.nextBackground p (s.pr p).bgLast = some m) :
    ((s.dispatch p).pr p).running = m + 1 ∧ ((s.dispatch p).pr p).bgFrom = s.clk ∧ ((s.dispatch p).pr p).bgLast = m ∧
    (s.dispatch p).run m = 2 ∧ ∀ k, k ≠ m → (s.dispatch p).run k = s.run k := by
  have hd : s.dispatch p = ((s.modPr p fun q => { q with
      running := m + 1, bgFrom := s.clk, bgLast := m, pid := s.fld (XEC_SL_BIND m) 31 16 }).setRun m 2).modSl m
        fun sl => { sl with everRun := true } := by
    rw [dispatch, if_neg (by simp [hst, hctl])]
    dsimp only
    rw [hnone, firstOf]
    dsimp only
    rw [if_pos hlevel, if_neg (by simp [hfree]), hnext]
  have hpr := pr_modPr_same (s := s) (p := p) (f := fun q => { q with
      running := m + 1, bgFrom := s.clk, bgLast := m, pid := s.fld (XEC_SL_BIND m) 31 16 }) hs
  rw [hd]
  refine ⟨congrArg Pair.running hpr, congrArg Pair.bgFrom hpr, congrArg Pair.bgLast hpr,
    fld_setFld_same (Canonical.regsOk (canonical_modPr hs)) (by decide) (by decide), fun k hk => ?_⟩
  exact congrArg (bits · 2 0) (rd_setFld_ne (by unfold XEC_SL_STAT; omega))

theorem Ran.run_eq {s t : State} (h : Ran s t) {a hi lo : Nat} (ha : a ∉ slStats) : t.fld a hi lo = s.fld a hi lo := by
  rw [State.fld, h.regs a ha]; rfl

theorem pairStat_not_slStat {p : Nat} (_hp : p < 16) : XEC_PAIR_STAT p ∉ slStats := not_slStat fun m _ => by
  unfold XEC_PAIR_STAT XEC_SL_STAT
  omega

theorem backgroundQuantum_effect {s : State} (hs : s.Canonical) {p n m : Nat} (hp : p < 12) (hn : n < 256)
    (hrun : (s.pr p).running = n + 1) (hclass : s.slClass n = 3) (hpass : (s.sl n).pass = none)
    (hdue : (s.pr p).bgFrom + 100 * tUs ≤ s.clk) (hst : s.pairState p = 1) (hctl : s.bit XEC_CTL 0 = true) (hlevel : s.level p = 0)
    (hnone : (s.suspend p).contenders p = []) (hnext : (s.suspend p).nextBackground p (s.pr p).bgLast = some m) :
    let t := s.quantum p
    (t.pr p).running = m + 1 ∧ (t.pr p).bgFrom = s.clk ∧ (t.pr p).bgLast = m ∧ t.run m = 2 ∧
    (m ≠ n → t.run n = 1) ∧ RegsBut slStats s t ∧ t = { s with regs := t.regs, slices := t.slices, pairs := t.pairs } := by
  have hq : s.quantum p = (s.suspend p).dispatch p := by
    exact if_pos ⟨by simp [State.onBackground, hrun, hclass, hpass], hdue⟩
  obtain ⟨hfree, hlast, hwait⟩ := State.suspend_background hs hn hrun hpass
  have hoff := s.suspend_ran p
  have hpair := pairStat_not_slStat (p := p) (by omega)
  have hx : XEC_STAT ∉ slStats := not_slStat fun k _ => by unfold XEC_STAT XEC_SL_STAT; omega
  have hc : XEC_CTL ∉ slStats := not_slStat fun k _ => by unfold XEC_CTL XEC_SL_STAT; omega
  have hst' : (s.suspend p).pairState p = 1 := (hoff.run_eq hpair).trans hst
  have hctl' : (s.suspend p).bit XEC_CTL 0 = true := by rw [State.bit, hoff.regs _ hc]; exact hctl
  have hlevel' : (s.suspend p).level p = 0 := by
    rw [State.level, hoff.run_eq hpair, hoff.run_eq hx]; exact hlevel
  obtain ⟨h1, h2, h3, h4, h5⟩ := State.dispatch_background (hoff.canon hs) hst' hctl' hlevel' hnone hfree (by rw [hlast]; exact hnext)
  have hran := hoff.trans ((s.suspend p).dispatch_ran p)
  rw [hq]
  exact ⟨h1, h2.trans (by rw [hoff.only]), h3, h4, fun hm => (h5 n hm.symm).trans hwait, hran.regs, hran.only⟩

/-! ### Overruns (R191, R192) -/

theorem budgetOverrun_effect {s : State} (hs : s.Canonical) {n : Nat} (_hn : n < 256) {ps : Pass} (hpass : (s.sl n).pass = some ps)
    (hrun : ps.running = true) (hover : ps.overrun = false) (hb : ps.budget ≠ 0) (hlt : ps.budget < ps.exec s.clk) :
    let q := s.slPair n
    let t := s.overrun n
    t.bit (XEC_SL_EVT n) 1 = true ∧ t.bit (XEC_SL_STAT n) 11 = true ∧ (ps.crit ≤ 1 → t.bit (XEC_PAIR_STAT q) 17 = true) ∧
    RegsBut [XEC_SL_EVT n, XEC_SL_STAT n, XEC_PAIR_STAT q] s t ∧
    t = { s with regs := t.regs, slices := s.slices.put n { s.sl n with pass := some { ps with overrun := true } }
                 pairs := if ps.crit ≤ 1 then s.pairs.mod q (fun x => { x with calmFrom := s.clk }) else s.pairs } := by
  have hq := s.slPair_lt n
  have hes : XEC_SL_EVT n ≠ XEC_SL_STAT n := by unfold XEC_SL_EVT XEC_SL_STAT; omega
  have hep : XEC_SL_EVT n ≠ XEC_PAIR_STAT (s.slPair n) := by unfold XEC_SL_EVT XEC_PAIR_STAT; omega
  have hsp : XEC_SL_STAT n ≠ XEC_PAIR_STAT (s.slPair n) := by unfold XEC_SL_STAT XEC_PAIR_STAT; omega
  dsimp only
  unfold State.overrun
  rw [hpass]
  dsimp only
  rw [if_pos (by simp [hrun, hover, hb, hlt])]
  have hc : (s.modSl n fun sl => { sl with pass := some { ps with overrun := true } }).Canonical := State.canonical_modSl hs
  have hok1 := State.regsOk_evt (a := XEC_SL_EVT n) (i := 1) (State.Canonical.regsOk hc)
  have hevt : ((s.modSl n fun sl => { sl with pass := some { ps with overrun := true } }).evt (XEC_SL_EVT n) 1).bit (XEC_SL_EVT n) 1 =
    true := State.bit_evt_same (State.Canonical.regsOk hc) (by decide)
  generalize hv : (((s.modSl n fun sl => { sl with pass := some { ps with overrun := true } }).evt (XEC_SL_EVT n) 1).setBit
    (XEC_SL_STAT n) 11 true) = v
  have hvonly : v = { s with regs := v.regs
                             slices := s.slices.put n { s.sl n with pass := some { ps with overrun := true } } } := by
    subst hv; rfl
  have hvok : v.RegsOk := by subst hv; exact State.regsOk_setBit hok1
  have hvevt : v.bit (XEC_SL_EVT n) 1 = true := by
    subst hv; exact (State.bit_setBit_other hok1 (by decide) (.inl hes)).trans hevt
  have hvstat : v.bit (XEC_SL_STAT n) 11 = true := by subst hv; exact State.bit_setBit_same hok1 (by decide)
  have hvpair : v.slPair n = s.slPair n := by
    subst hv
    rw [State.slPair, State.fld, State.rd_setBit_ne (by unfold XEC_SL_CFG XEC_SL_STAT; omega),
      State.rd_evt_ne (by unfold XEC_SL_CFG XEC_SL_EVT; omega)]
    rfl
  have hvregs : RegsBut [XEC_SL_EVT n, XEC_SL_STAT n, XEC_PAIR_STAT (s.slPair n)] s v := by
    subst hv; exact RegsBut.setReg (RegsBut.setReg (.of_regs rfl) (by simp)) (by simp)
  rw [hvpair]
  by_cases hcrit : ps.crit ≤ 1
  · simp only [if_pos hcrit]
    have hrisk : (v.setBit (XEC_PAIR_STAT (s.slPair n)) 17 true).bit (XEC_PAIR_STAT (s.slPair n)) 17 = true :=
      State.bit_setBit_same hvok (by decide)
    refine ⟨?_, ?_, fun _ => hrisk, hvregs.setReg (by simp), ?_⟩
    · exact (State.bit_setBit_other hvok (by decide) (.inl hep)).trans hvevt
    · exact (State.bit_setBit_other hvok (by decide) (.inl hsp)).trans hvstat
    · have hpairs : v.pairs = s.pairs := by rw [hvonly]
      have hshown : (v.setBit (XEC_PAIR_STAT (s.slPair n)) 17 true).modPr (s.slPair n) (fun x => { x with calmFrom := v.clk }) =
          { v with regs := (v.setBit (XEC_PAIR_STAT (s.slPair n)) 17 true).regs
                   pairs := v.pairs.mod (s.slPair n) fun x => { x with calmFrom := v.clk } } := rfl
      generalize (v.setBit (XEC_PAIR_STAT (s.slPair n)) 17 true).regs = r at hshown
      rw [hshown, hpairs, hvonly]
  · simp only [if_neg hcrit]
    exact ⟨hvevt, hvstat, fun h => absurd h hcrit, hvregs, hvonly⟩

/-! ### Misses (R188) -/

theorem deadlineMiss_effect {s : State} (hs : s.Canonical) {n : Nat} (hn : n < 256) {ps : Pass} (hpass : (s.sl n).pass = some ps)
    (hmissed : ps.missed = false) (hdue : s.passDue ps = true) :
    s.deadlineMiss n = (s.miss n).modSl n (fun sl => { sl with pass := some { ps with missed := true } }) ∧
    s.deadlineMiss n = { s with regs := (s.deadlineMiss n).regs, slices := s.slices.put n { s.sl n with
        cmiss := (s.sl n).cmiss + 1, pass := some { ps with missed := true } } } := by
  have heq : s.deadlineMiss n = (s.miss n).modSl n (fun sl => { sl with pass := some { ps with missed := true } }) := by
    unfold State.deadlineMiss
    rw [hpass]
    dsimp only
    rw [if_pos (by simp [hmissed, hdue])]
  refine ⟨heq, ?_⟩
  obtain ⟨-, -, -, -, -, honly⟩ := State.miss_effect (State.Canonical.regsOk hs) hn
  rw [heq, State.modSl, honly]
  dsimp only
  rw [FMap.mod_mod (State.Canonical.slicesTidy hs)]
  rfl

/-! ### Free releases (R183) -/

/-- The pass of a free release of slice `n` whose next instant is `next` (R183). -/
def State.freePass (s : State) (n next : Nat) : Pass :=
  { gp := ((s.sl n).lastGp + period (s.slClass n)) % 2 ^ 39, gridSeq := s.closedSeq.at' (s.slRef n)
    deadline := next / 2 ^ 11, ref := s.slRef n, pclass := s.slClass n, crit := s.slCrit n, free := true }

theorem State.freeRelease_due {s : State} {n : Nat} (hcx : s.power.cx = true) (hen : s.slEn n = true) (hclass : s.slClass n < 3)
    (href : s.refState (s.slRef n) = 0) (hdue : (s.sl n).freeAt.getD s.mono8 ≤ s.mono8) {next : Nat}
    (hnext : (s.sl n).freeAt.getD s.mono8 + s.freeSpacing n = next) :
    s.freeRelease n = (s.modSl n fun sl => { sl with freeAt := some next }).releasePoint n (s.freePass n next) := by
  subst hnext
  exact if_neg (by simp [hcx, hen, href]; omega)

theorem freeRelease_effect {s : State} (hs : s.Canonical) {n : Nat} (hn : n < 256) (hcx : s.power.cx = true) (hen : s.slEn n = true)
    (hclass : s.slClass n < 3) (href : s.refState (s.slRef n) = 0) (hdue : (s.sl n).freeAt.getD s.mono8 ≤ s.mono8)
    (hrun : s.run n ≠ 6) (hlife : s.life n = 1) (hctl : s.bit XEC_CTL 0 = true) (hfresh : (s.sl n).fresh = false)
    (hpass : (s.sl n).pass = none) (hsheds : s.sheds n ((s.rd (XEC_SL_SEQ n) + 1) % 2 ^ 32) = false) :
    let q := s.slPair n
    let seq := (s.rd (XEC_SL_SEQ n) + 1) % 2 ^ 32
    let due := (s.sl n).freeAt.getD s.mono8
    let t := s.freeRelease n
    t.rd (XEC_SL_SEQ n) = seq ∧ (t.sl n).freeAt = some (due + s.freeSpacing n) ∧ t.bit (XEC_SL_STAT n) 9 = true ∧
    t.bit (XEC_SL_STAT n) 8 = false ∧ (∃ ps, (t.sl n).pass = some ps ∧ ps.seq = seq ∧ ps.free = true ∧
      ps.gp = ((s.sl n).lastGp + period (s.slClass n)) % 2 ^ 39 ∧ ps.deadline = (due + s.freeSpacing n) / 2 ^ 11) ∧
    RegsBut ([XEC_SL_SEQ n, XEC_PAIR_STAT q, XEC_PAIR_EVT q, XEC_LADDER_CNT] ++ slStats) s t ∧
    t = { s with regs := t.regs, slices := t.slices, pairs := t.pairs } := by
  dsimp only
  have hq := s.slPair_lt n
  generalize hnext : (s.sl n).freeAt.getD s.mono8 + s.freeSpacing n = next
  rw [State.freeRelease_due hcx hen hclass href hdue hnext]
  have hvc : (s.modSl n fun sl => { sl with freeAt := some next }).Canonical := State.canonical_modSl hs
  have hvsl : (s.modSl n fun sl => { sl with freeAt := some next }).sl n = { s.sl n with freeAt := some next } :=
    State.sl_modSl_same (State.Canonical.slicesTidy hs)
  have hvonly : (s.modSl n fun sl => { sl with freeAt := some next }) =
    { s with slices := (s.modSl n fun sl => { sl with freeAt := some next }).slices } := rfl
  generalize (s.modSl n fun sl => { sl with freeAt := some next }) = v at hvc hvsl hvonly
  have hvrd : ∀ a, v.rd a = s.rd a := fun a => State.rd_congr (by rw [hvonly]) a
  have hvfld : ∀ a hi lo, v.fld a hi lo = s.fld a hi lo := fun a hi lo => State.fld_congr (by rw [hvonly]) a hi lo
  generalize hps : s.freePass n next = ps
  have hseq : (v.numbered n ps).seq = (s.rd (XEC_SL_SEQ n) + 1) % 2 ^ 32 := by
    rw [← hvrd, State.numbered, State.incMod, State.rd_setReg_same (State.Canonical.regsOk hvc), Nat.mod_mod]
  have htaken := State.releasePoint_taken (ps := ps) hvc hn (by rw [State.slEn, State.bit, hvrd]; exact hen) (by rw [State.run, hvfld]; exact hrun)
    (by rw [State.life, hvfld]; exact hlife) (by rw [State.bit, hvrd]; exact hctl) (by rw [hvsl]; exact hfresh)
    (by rw [hvsl]; exact hpass) (by rw [hseq, ← hsheds]; exact State.sheds_congr (hvrd _) (hvrd _) (hvrd _) (hvrd _))
  have hpair : v.slPair n = s.slPair n := hvfld _ _ _
  rw [hpair] at htaken
  obtain ⟨hrc, hronly, hrregs, hrseq, hr8, hr9, hrsl⟩ := State.withRelease_effect (n := n) (ps := ps) hvc
  have hran := (v.withRelease n ps).dispatch_ran (s.slPair n)
  obtain ⟨honly, hregs⟩ := ((v.withRelease n ps).dispatch (s.slPair n)).overloadRise_effect (s.slPair n)
  rw [htaken]
  generalize ((v.withRelease n ps).dispatch (s.slPair n)).overloadRise (s.slPair n) = t at honly hregs
  have hpairRegs : ∀ a, 0x6000710000 ≤ a → a ∉ [XEC_PAIR_STAT (s.slPair n), XEC_PAIR_EVT (s.slPair n), XEC_LADDER_CNT] := by
    intro a ha
    simp only [XEC_PAIR_STAT, XEC_PAIR_EVT, XEC_LADDER_CNT, List.mem_cons, List.not_mem_nil, or_false]
    omega
  have hstat : t.rd (XEC_SL_STAT n) = ((v.withRelease n ps).dispatch (s.slPair n)).rd (XEC_SL_STAT n) :=
    hregs _ (hpairRegs _ (by unfold XEC_SL_STAT; omega))
  have hsl : t.sl n = ((v.withRelease n ps).dispatch (s.slPair n)).sl n := by rw [State.sl, honly]; rfl
  have hstill := hran.sl hrc n
  refine ⟨?_, ?_, ?_, ?_, ?_, ?_, ?_⟩
  · rw [hregs _ (hpairRegs _ (by unfold XEC_SL_SEQ; omega)),
      hran.regs _ (not_slStat fun m _ => by unfold XEC_SL_SEQ XEC_SL_STAT; omega), hrseq, hvrd]
  · rw [hsl]
    exact (congrArg Slice.freeAt hstill).trans (by rw [hrsl, hvsl]; rfl)
  · rw [State.bit, hstat]
    exact (hran.high hrc _ 9 (by decide)).trans (hr9.trans (by rw [← hps]; rfl))
  · rw [State.bit, hstat]
    exact (hran.high hrc _ 8 (by decide)).trans (hr8.trans (by rw [← hps]; rfl))
  · have hp := hran.pass hrc n
    rw [← hsl, hrsl, hvsl] at hp
    obtain ⟨x, hx, hxs⟩ := Option.map_eq_some_iff.mp hp
    refine ⟨x, hx, ?_, ?_, ?_, ?_⟩
    · exact (congrArg Pass.seq hxs).trans (by rw [hvrd]; rfl)
    · exact (congrArg Pass.free hxs).trans (by rw [← hps]; rfl)
    · exact (congrArg Pass.gp hxs).trans (by rw [← hps]; rfl)
    · exact (congrArg Pass.deadline hxs).trans (by rw [← hps]; rfl)
  · have hv0 : RegsBut ([XEC_SL_SEQ n, XEC_PAIR_STAT (s.slPair n), XEC_PAIR_EVT (s.slPair n), XEC_LADDER_CNT] ++ slStats) s v :=
      fun a _ => hvrd a
    have hsub : [XEC_SL_SEQ n, XEC_SL_STAT n] ⊆
        [XEC_SL_SEQ n, XEC_PAIR_STAT (s.slPair n), XEC_PAIR_EVT (s.slPair n), XEC_LADDER_CNT] ++ slStats := by
      intro a ha
      have := slStat_mem hn
      simp only [List.mem_cons, List.not_mem_nil, or_false] at ha
      rcases ha with rfl | rfl
      · simp
      · exact List.mem_append_right _ this
    exact RegsBut.trans (RegsBut.trans (RegsBut.trans hv0 (hrregs.mono hsub)) (hran.regs.mono (List.subset_append_right _ _)))
      (hregs.mono (by simp))
  · rw [honly, hran.only, hronly, hvonly]

end Sys2Proof.Machine
end

section
/-!
PROOF. Passes (R182–R191): the statement about them.
-/

namespace Sys2Proof.Machine

open Sys2Proof.Claims

/-! ### Passes without a cause -/

/-- An exception aborts the pass only with one of the causes of R190. -/
theorem passException_next {n : Fin 256} {cause code pc : Nat} {s : State} (h : cause ∈ [1, 2, 4, 5]) :
    exec (.passException n cause code pc) s = .next (s.abortPass n cause code pc) :=
  congrArg Host.Outcome.next (if_pos (List.contains_iff_mem.mpr h))

theorem passException_idle {n : Fin 256} {cause code pc : Nat} {s : State} (hpass : (s.sl n).pass = none)
    (h : (s.pr (s.slPair n)).running ≠ n + 1 ∨ cause ∉ [1, 2, 4, 5]) : exec (.passException n cause code pc) s = .next s := by
  refine congrArg Host.Outcome.next ?_
  by_cases hc : cause ∈ [1, 2, 4, 5]
  · rw [if_pos (List.contains_iff_mem.mpr hc), State.abortPass, hpass]
    exact if_neg (h.resolve_right (not_not_intro hc))
  · exact if_neg fun hm => hc (List.contains_iff_mem.mp hm)

/-- Nothing of the redundancy unit was changed. -/
theorem Aborted.red {n cause : Nat} {s t : State} {pass held : Option Pass} (h : Aborted n cause s pass held t) : t.red = s.red := by
  rw [h.only]

theorem bit_of_raised {s t : State} {a i : Nat} (h : t.rd a = raised (s.rd a) i) : t.bit a i = true := by
  rw [State.bit, h]
  exact bitAt_setBits_same (b := true)

theorem deadlineMiss_answers {s : State} (hs : s.Canonical) {n : Nat} (hn : n < 256) {ps : Pass} (hpass : (s.sl n).pass = some ps)
    (hmissed : ps.missed = false) (hdue : s.passDue ps = true) :
    let q := s.slPair n
    let t := s.deadlineMiss n
    t.rd (XEC_SL_MISSES n) = incSat 32 (s.rd (XEC_SL_MISSES n)) ∧ t.rd (XEC_PAIR_MISS q) = incSat 32 (s.rd (XEC_PAIR_MISS q)) ∧
    t.bit (XEC_SL_EVT n) 0 = true ∧ t.fld (XEC_SL_STAT n) 7 4 = min ((s.sl n).cmiss + 1) 15 ∧
    RegsBut [XEC_SL_MISSES n, XEC_PAIR_MISS q, XEC_SL_EVT n, XEC_SL_STAT n] s t ∧
    t = { s with regs := t.regs, slices := s.slices.put n { s.sl n with
      cmiss := (s.sl n).cmiss + 1, pass := some { ps with missed := true } } } := by
  obtain ⟨heq, honly⟩ := deadlineMiss_effect hs hn hpass hmissed hdue
  obtain ⟨hmisses, hpair, hevt, hcount, hregs, -⟩ := State.miss_effect (State.Canonical.regsOk hs) hn
  have hsame : (s.deadlineMiss n).regs = (s.miss n).regs := by rw [heq]; rfl
  generalize s.deadlineMiss n = t at hsame honly ⊢
  exact ⟨(State.rd_congr hsame _).trans hmisses, (State.rd_congr hsame _).trans hpair, (State.bit_congr hsame _ _).trans hevt,
    (State.fld_congr hsame _ _ _).trans hcount, RegsBut.congr hregs hsame, honly⟩

/-- Settles O22: each of the scheduler's steps has its lemma above; the clauses without a cause are the guards that fail. -/
theorem passes : Obligations.Passes := by
  intro n s hs
  have hn := n.isLt
  refine ⟨fun p ps hst hctl hmem hfirst => dispatch_running hs hst hctl hmem hfirst, ?_, ?_, ?_, ?_, ?_, ?_, ?_, ?_, ?_, ?_, ?_⟩
  · intro hcx hen hclass href hdue hrun hlife hctl hfresh hpass hsheds
    exact .of_exec rfl rfl (freeRelease_effect hs hn hcx hen hclass href hdue hrun hlife hctl hfresh hpass hsheds)
  · intro ps hpass hmissed hdue
    exact .of_exec rfl rfl (deadlineMiss_answers hs hn hpass hmissed hdue)
  · exact fun cause code pc hpass h => .of_exec (passException_idle hpass h) rfl rfl
  · intro cause code pc hpass hrun hcause
    have h := State.abortPass_background hs hn cause code pc hpass hrun
    exact .of_exec (passException_next hcause) rfl ⟨h.event, h.waitAt, h.record, h.low, h.regs⟩
  · intro ps cause code pc hpass hcause
    obtain ⟨h, hmisses⟩ := State.abortPass_pass hs hn cause code pc hpass
    exact .of_exec (passException_next hcause) rfl ⟨h.event, hmisses, h.pass, h.held, h.waitAt, h.record, h.low, h.regs,
      by rw [h.red], by rw [h.only]⟩
  · exact fun ps hpass hrun hover hb hlt => .of_exec rfl rfl (budgetOverrun_effect hs hn hpass hrun hover hb hlt)
  · intro hdue hlife
    have h := State.sliceFault_faulted hs hn
    obtain ⟨hen, -⟩ := Bool.and_eq_true_iff.mp (Bool.and_eq_true_iff.mp hdue).1
    refine .of_exec rfl (if_pos ⟨hdue, hlife⟩) ⟨s.sliceFault n, rfl, h.stopped.1, h.event, bit_of_raised h.raised, h.count,
      h.stopped.2.1, h.stopped.2.2, h.classA hen, h.shown, h.regs, h.mem⟩
  · exact fun p m hrun hclass hpass hdue hst hctl hlevel hnone hnext =>
      .of_exec rfl rfl (backgroundQuantum_effect hs p.isLt hn hrun hclass hpass hdue hst hctl hlevel hnone hnext)
  · refine fun h => .of_exec rfl (if_neg fun hc => ?_) rfl
    obtain ⟨hdue, hlife⟩ := hc
    rcases h with h | h
    · rw [hdue] at h; cases h
    · exact h (by simpa using hlife)
  · intro hpass
    refine ⟨.of_exec rfl ?_ rfl, .of_exec rfl ?_ rfl⟩
    · rw [State.deadlineMiss, hpass]
    · rw [State.overrun, hpass]
  · intro h
    refine .of_exec rfl (if_pos ?_) rfl
    have := s.fld_lt (XEC_SL_CFG n) 18 17
    rcases h with h | h | h | h | h
    · exact .inl h
    · exact .inr (.inl h)
    · exact .inr (.inr (.inl (by omega)))
    · exact .inr (.inr (.inr (.inl h)))
    · exact .inr (.inr (.inr (.inr h)))

end Sys2Proof.Machine
end

section
/-!
PROOF. PASS.END and the image it captures (R180, R185, R204, R227): what each stage leaves of the slice.
-/

namespace Sys2Proof.Machine

open Sys2Proof.Claims

/-! ### PASS.END -/

/-- The registers of a slice that PASS.END writes stand at places of their own. -/
theorem passRegs_apart {n : Nat} (hn : n < 256) :
    XEC_SL_EXEC_LAST n ≠ XEC_SL_EXEC_MAX n ∧ XEC_SL_EXEC_LAST n ≠ XEC_SL_PASSES n ∧ XEC_SL_EXEC_LAST n ≠ XEC_SL_STAT n ∧
    XEC_SL_EXEC_MAX n ≠ XEC_SL_PASSES n ∧ XEC_SL_EXEC_MAX n ≠ XEC_SL_STAT n ∧ XEC_SL_PASSES n ≠ XEC_SL_STAT n ∧
    XEC_SL_EXEC_LAST n ≠ XEC_SL_XSTAT n ∧ XEC_SL_EXEC_MAX n ≠ XEC_SL_XSTAT n ∧ XEC_SL_PASSES n ≠ XEC_SL_XSTAT n ∧
    XEC_SL_STAT n ≠ XEC_SL_XSTAT n := by
  unfold XEC_SL_EXEC_LAST XEC_SL_EXEC_MAX XEC_SL_PASSES XEC_SL_STAT XEC_SL_XSTAT
  omega

/-- The execution time of a pass as PASS.END shows it. -/
def Pass.shown (ps : Pass) (now : Nat) : Nat := min (ps.exec now) (2 ^ 32 - 1)

/-- The pass counted with its execution time (R185). -/
def State.passTimed (n : Nat) (ps : Pass) (s : State) : State :=
  (((s.setReg (XEC_SL_EXEC_LAST n) (ps.shown s.clk)).setReg (XEC_SL_EXEC_MAX n)
    (max (s.rd (XEC_SL_EXEC_MAX n)) (ps.shown s.clk))).inc (XEC_SL_PASSES n)).setBit (XEC_SL_STAT n) 11 ps.overrun

/-- A pass in time ends the row of misses (R188). -/
def State.passCounted (n : Nat) (ps : Pass) (s : State) : State :=
  if ps.missed then s else (s.modSl n fun sl => { sl with cmiss := 0 }).setFld (XEC_SL_STAT n) 7 4 0

/-- The pair left and the capture started; a move that waits begins (R180, R231). -/
def State.passCaptured (n : Nat) (ps : Pass) (arch : List Byte) (s : State) : State :=
  ((s.offPair n).startCapture n ps.seq ps.gp arch).startMove n

/-- What follows the pass in its slice (R187, R231, R340). -/
def State.passLeft (n : Nat) (s : State) : State :=
  if s.life n = 4 then (s.modSl n (fun sl => { sl with pass := none })).setRun n 1
  else if s.standbyStop n then (s.modSl n (fun sl => { sl with pass := none, held := none })).setRun n 0
  else s.passOver n

theorem State.passEnd_eq {s : State} {p n : Nat} {arch : List Byte} {ps : Pass} (h : (s.sl n).pass = some ps) :
    s.passEnd p n arch = ((((s.passTimed n ps).passCounted n ps).passCaptured n ps arch).passLeft n).dispatch p := by
  unfold passEnd
  rw [h]
  rfl

theorem State.passTimed_effect {s : State} (hs : s.Canonical) {n : Nat} (hn : n < 256) (ps : Pass) :
    (s.passTimed n ps).Canonical ∧ s.passTimed n ps = { s with regs := (s.passTimed n ps).regs } ∧
    RegsBut [XEC_SL_EXEC_LAST n, XEC_SL_EXEC_MAX n, XEC_SL_PASSES n, XEC_SL_STAT n] s (s.passTimed n ps) ∧
    (s.passTimed n ps).rd (XEC_SL_EXEC_LAST n) = ps.shown s.clk ∧
    (s.passTimed n ps).rd (XEC_SL_EXEC_MAX n) = max (s.rd (XEC_SL_EXEC_MAX n)) (ps.shown s.clk) ∧
    (s.passTimed n ps).rd (XEC_SL_PASSES n) = incSat 32 (s.rd (XEC_SL_PASSES n)) ∧
    (s.passTimed n ps).bit (XEC_SL_STAT n) 11 = ps.overrun := by
  obtain ⟨hlm, hlp, hls, hmp, hms, hps, -⟩ := passRegs_apart hn
  have hlt : ps.shown s.clk < 2 ^ 32 := by unfold Pass.shown; omega
  have hmax : max (s.rd (XEC_SL_EXEC_MAX n)) (ps.shown s.clk) < 2 ^ 32 := by have := s.rd_lt (XEC_SL_EXEC_MAX n); omega
  have hok := Canonical.regsOk hs
  have hok1 := regsOk_setReg (a := XEC_SL_EXEC_LAST n) (v := ps.shown s.clk) hok
  have hok2 := regsOk_setReg (a := XEC_SL_EXEC_MAX n) (v := max (s.rd (XEC_SL_EXEC_MAX n)) (ps.shown s.clk)) hok1
  have hok3 := regsOk_inc (a := XEC_SL_PASSES n) hok2
  have hcanon : (s.passTimed n ps).Canonical := canonical_setReg (canonical_setReg (canonical_setReg (canonical_setReg hs)))
  refine ⟨hcanon, rfl, ?_, ?_, ?_, ?_, bit_setBit_same hok3 (by decide)⟩
  · exact (((RegsBut.setReg (.of_regs rfl) (by simp)).setReg (by simp)).setReg (by simp)).setReg (by simp)
  · rw [passTimed, rd_setBit_ne hls, rd_inc_ne hlp, rd_setReg_ne hlm, rd_setReg_same hok, Nat.mod_eq_of_lt hlt]
  · rw [passTimed, rd_setBit_ne hms, rd_inc_ne hmp, rd_setReg_same hok1, Nat.mod_eq_of_lt hmax]
  · rw [passTimed, rd_setBit_ne hps, rd_inc_same hok2, rd_setReg_ne hmp.symm, rd_setReg_ne hlp.symm]

theorem State.passCounted_effect {s : State} (hs : s.Canonical) (n : Nat) (ps : Pass) :
    (s.passCounted n ps).Canonical ∧
    s.passCounted n ps = { s with regs := (s.passCounted n ps).regs, slices := (s.passCounted n ps).slices } ∧
    RegsBut [XEC_SL_STAT n] s (s.passCounted n ps) ∧ (s.passCounted n ps).bit (XEC_SL_STAT n) 11 = s.bit (XEC_SL_STAT n) 11 ∧
    (s.passCounted n ps).sl n = { s.sl n with cmiss := if ps.missed then (s.sl n).cmiss else 0 } := by
  unfold passCounted
  split
  · exact ⟨hs, rfl, .of_regs rfl, rfl, rfl⟩
  · have hc := canonical_modSl (n := n) (f := fun sl => { sl with cmiss := 0 }) hs
    refine ⟨canonical_setReg hc, rfl, RegsBut.setReg (.of_regs rfl) (by simp), ?_, ?_⟩
    · exact bit_setFld_other (Canonical.regsOk hc) (by decide) (by decide) (.inr (.inl (by decide)))
    · change (s.modSl n fun sl => { sl with cmiss := 0 }).sl n = _
      rw [sl_modSl_same (Canonical.slicesTidy hs)]

/-- The image that PASS.END captures of slice `sl`. -/
def Pass.image (ps : Pass) (sl : Slice) : ImgBank :=
  { valid := true, gen := (sl.curImg.gen + 1) % 2 ^ 31, seq := ps.seq, gp := ps.gp % 2 ^ 32 }

theorem State.passCaptured_effect {s : State} (hs : s.Canonical) (n : Nat) (ps : Pass) (arch : List Byte) :
    (s.passCaptured n ps arch).Canonical ∧
    s.passCaptured n ps arch = { s with regs := (s.passCaptured n ps arch).regs, slices := (s.passCaptured n ps arch).slices
                                        pairs := (s.passCaptured n ps arch).pairs } ∧
    RegsBut [XEC_SL_XSTAT n] s (s.passCaptured n ps arch) ∧
    ((s.sl n).moveTo = none → (s.passCaptured n ps arch).regs = s.regs) ∧
    (∃ l k, (s.passCaptured n ps arch).sl n = { s.sl n with
      capture := some (ps.image (s.sl n)), capArch := padTo 0xF00 arch, capCells := l, arch := padTo 0xF00 arch, prevLife := k }) := by
  have hoff := s.offPair_only n
  have hoffc : (s.offPair n).Canonical := (offPair_kept (.refl s)).canonical hs
  have hoffsl : (s.offPair n).sl n = s.sl n := by rw [hoff]; rfl
  unfold passCaptured
  generalize s.offPair n = o at hoff hoffc hoffsl
  have hcap : ∃ l, (o.startCapture n ps.seq ps.gp arch).sl n = { s.sl n with
      capture := some (ps.image (s.sl n)), capArch := padTo 0xF00 arch, capCells := l, arch := padTo 0xF00 arch } := by
    refine ⟨((o.startCapture n ps.seq ps.gp arch).sl n).capCells, ?_⟩
    unfold startCapture
    dsimp only
    rw [sl_modSl_same (Canonical.slicesTidy hoffc), hoffsl]
    rfl
  have hcapc : (o.startCapture n ps.seq ps.gp arch).Canonical := (startCapture_kept (.refl o)).canonical hoffc
  have hcaponly : o.startCapture n ps.seq ps.gp arch =
    { s with slices := (o.startCapture n ps.seq ps.gp arch).slices, pairs := o.pairs } := by
    rw [hoff]; rfl
  generalize o.startCapture n ps.seq ps.gp arch = c at hcap hcapc hcaponly
  obtain ⟨l, hcap⟩ := hcap
  have hregs : c.regs = s.regs := by rw [hcaponly]
  unfold startMove
  split
  next hmove =>
    refine ⟨canonical_setReg (canonical_modSl hcapc), ?_, RegsBut.setReg (.of_regs hregs) (by simp), fun hnone => ?_, l, 1, ?_⟩
    · rw [hcaponly]; rfl
    · rw [hcap] at hmove
      rw [hnone] at hmove
      cases hmove.1
    · change (c.modSl n fun sl => { sl with prevLife := 1 }).sl n = _
      rw [sl_modSl_same (Canonical.slicesTidy hcapc), hcap]
  next => exact ⟨hcapc, by rw [hcaponly], .of_regs hregs, fun _ => hregs, l, (s.sl n).prevLife, hcap⟩

/-- What follows a pass leaves its overrun shown. -/
theorem State.passOver_overrun {s : State} (hs : s.Canonical) (n : Nat) :
    (s.passOver n).bit (XEC_SL_STAT n) 11 = s.bit (XEC_SL_STAT n) 11 := by
  have hrun : ∀ f : Slice → Slice, ((s.modSl n f).setRun n 1).bit (XEC_SL_STAT n) 11 = s.bit (XEC_SL_STAT n) 11 := fun f =>
    bit_setFld_other (Canonical.regsOk (canonical_modSl hs)) (by decide) (by decide) (.inr (.inl (by decide)))
  have hok : ∀ f : Slice → Slice, ((s.modSl n f).setRun n 1).RegsOk := fun f => regsOk_setFld (Canonical.regsOk (canonical_modSl hs))
  unfold passOver
  dsimp only
  split
  · rw [showRelease, bit_setBit_other (regsOk_setBit (hok _)) (by decide) (.inr (by decide)),
      bit_setBit_other (hok _) (by decide) (.inr (by decide)), hrun]
  · exact hrun _

theorem State.passLeft_effect {s : State} (hs : s.Canonical) (n : Nat) :
    (s.passLeft n).Canonical ∧ s.passLeft n = { s with regs := (s.passLeft n).regs, slices := (s.passLeft n).slices } ∧
    RegsBut [XEC_SL_STAT n] s (s.passLeft n) ∧ (s.passLeft n).bit (XEC_SL_STAT n) 11 = s.bit (XEC_SL_STAT n) 11 ∧
    (∃ a b, (s.passLeft n).sl n = { s.sl n with pass := a, held := b }) ∧
    (s.life n = 1 → s.standbyStop n = false → (s.passLeft n).sl n = { s.sl n with pass := (s.sl n).held, held := none }) := by
  have hput : ∀ (f : Slice → Slice) (v : Nat), ((s.modSl n f).setRun n v).Canonical ∧
      RegsBut [XEC_SL_STAT n] s ((s.modSl n f).setRun n v) ∧
      ((s.modSl n f).setRun n v).bit (XEC_SL_STAT n) 11 = s.bit (XEC_SL_STAT n) 11 ∧ ((s.modSl n f).setRun n v).sl n = f (s.sl n) :=
    fun f v => ⟨canonical_setReg (canonical_modSl hs), RegsBut.setReg (.of_regs rfl) (by simp),
      bit_setFld_other (Canonical.regsOk (canonical_modSl hs)) (by decide) (by decide) (.inr (.inl (by decide))),
      sl_modSl_same (Canonical.slicesTidy hs)⟩
  unfold passLeft
  split
  next hlife =>
    obtain ⟨hc, hr, hb, hsl⟩ := hput (fun sl => { sl with pass := none }) 1
    exact ⟨hc, rfl, hr, hb, ⟨none, (s.sl n).held, hsl⟩, fun h1 => by omega⟩
  next =>
    split
    next hstop =>
      obtain ⟨hc, hr, hb, hsl⟩ := hput (fun sl => { sl with pass := none, held := none }) 0
      exact ⟨hc, rfl, hr, hb, ⟨none, none, hsl⟩, fun _ h => by rw [h] at hstop; cases hstop⟩
    next =>
      have hsl := passOver_sl hs n
      exact ⟨(passOver_kept (.refl s)).canonical hs, s.passOver_only n, s.passOver_regs n, passOver_overrun hs n,
        ⟨_, _, hsl⟩, fun _ _ => hsl⟩

end Sys2Proof.Machine
end

section
/-!
PROOF. PASS.END, the completed capture and PASS.INFO (R180, R185, R203, R204, R227): the statement about them.
-/

namespace Sys2Proof.Machine

open Sys2Proof.Claims

/-- R180, R185, R204: what PASS.END leaves. -/
theorem passEnd_effect {s : State} (hs : s.Canonical) {n : Nat} (hn : n < 256) (p : Nat) (arch : List Byte) {ps : Pass}
    (hpass : (s.sl n).pass = some ps) :
    let t := s.passEnd p n arch
    let e := min (ps.exec s.clk) (2 ^ 32 - 1)
    t.rd (XEC_SL_EXEC_LAST n) = e ∧ t.rd (XEC_SL_EXEC_MAX n) = max (s.rd (XEC_SL_EXEC_MAX n)) e ∧
    t.rd (XEC_SL_PASSES n) = incSat 32 (s.rd (XEC_SL_PASSES n)) ∧ t.bit (XEC_SL_STAT n) 11 = ps.overrun ∧
    (t.sl n).cmiss = (if ps.missed then (s.sl n).cmiss else 0) ∧
    (t.sl n).capture = some (ps.image (s.sl n)) ∧ (t.sl n).capArch = padTo 0xF00 arch ∧
    (s.life n = 1 → (s.sl n).moveTo = none → s.standbyStop n = false →
      (t.sl n).pass.isSome = (s.sl n).held.isSome ∧ (t.sl n).held = none) ∧
    RegsBut ([XEC_SL_EXEC_LAST n, XEC_SL_EXEC_MAX n, XEC_SL_PASSES n, XEC_SL_XSTAT n] ++ slStats) s t ∧
    t = { s with regs := t.regs, slices := t.slices, pairs := t.pairs } := by
  dsimp only
  rw [State.passEnd_eq hpass]
  obtain ⟨hlm, hlp, hls, hmp, hms, hps, hlx, hmx, hpx, hsx⟩ := passRegs_apart hn
  obtain ⟨htc, htonly, htregs, hlast, hmax, hpasses, hover⟩ := State.passTimed_effect hs hn ps
  have htsl : (s.passTimed n ps).sl n = s.sl n := by rw [htonly]; rfl
  generalize s.passTimed n ps = a at htc htonly htregs hlast hmax hpasses hover htsl
  obtain ⟨hcc, hconly, hcregs, hcover, hcsl⟩ := State.passCounted_effect htc n ps
  rw [htsl] at hcsl
  generalize a.passCounted n ps = b at hcc hconly hcregs hcover hcsl
  obtain ⟨hkc, hkonly, hkregs, hkquiet, l, j, hksl⟩ := State.passCaptured_effect hcc n ps arch
  rw [hcsl] at hksl hkquiet
  generalize b.passCaptured n ps arch = c at hkc hkonly hkregs hkquiet hksl
  obtain ⟨hec, heonly, heregs, heover, ⟨x, y, hesl⟩, hend⟩ := State.passLeft_effect hkc n
  rw [hksl] at hesl hend
  generalize c.passLeft n = d at hec heonly heregs heover hesl hend
  have hran := d.dispatch_ran p
  have hstill := hran.sl hec n
  generalize d.dispatch p = t at hran hstill
  have hslow : ∀ r, r < XEC_SL_XSTAT 0 → r ∉ slStats → r ≠ XEC_SL_STAT n → t.rd r = a.rd r := by
    intro r hr hnot hne
    rw [hran.regs _ hnot, heregs _ (by simpa using hne), hkregs _ ?_, hcregs _ (by simpa using hne)]
    unfold XEC_SL_XSTAT at hr ⊢
    simp only [List.mem_cons, List.not_mem_nil, or_false]
    omega
  have hbelow : ∀ r, r = XEC_SL_EXEC_LAST n ∨ r = XEC_SL_EXEC_MAX n ∨ r = XEC_SL_PASSES n → t.rd r = a.rd r := by
    intro r hr
    have hx : XEC_SL_XSTAT 0 = 0x6000730010 := rfl
    refine hslow r ?_ (not_slStat fun m _ => ?_) ?_
    · unfold XEC_SL_EXEC_LAST XEC_SL_EXEC_MAX XEC_SL_PASSES at hr; omega
    · unfold XEC_SL_EXEC_LAST XEC_SL_EXEC_MAX XEC_SL_PASSES at hr; unfold XEC_SL_STAT; omega
    · unfold XEC_SL_EXEC_LAST XEC_SL_EXEC_MAX XEC_SL_PASSES at hr; unfold XEC_SL_STAT; omega
  have hstat : XEC_SL_STAT n ∉ [XEC_SL_XSTAT n] := by simpa using hsx
  refine ⟨(hbelow _ (.inl rfl)).trans hlast, (hbelow _ (.inr (.inl rfl))).trans hmax, (hbelow _ (.inr (.inr rfl))).trans hpasses,
    ?_, ?_, ?_, ?_, fun hlife hmove hstop => ?_, ?_, ?_⟩
  · rw [hran.high hec _ _ (by decide), heover, State.bit, hkregs _ hstat]
    exact hcover.trans hover
  · exact (congrArg Slice.cmiss hstill).trans (by rw [hesl]; rfl)
  · exact (congrArg Slice.capture hstill).trans (by rw [hesl]; rfl)
  · exact (congrArg Slice.capArch hstill).trans (by rw [hesl]; rfl)
  · have hregs := hkquiet hmove
    have hbsl : XEC_SL_XSTAT n ∉ [XEC_SL_STAT n] := by simpa using hsx.symm
    have hlife' : c.life n = 1 := by
      rw [State.life, State.fld, State.rd_congr hregs, hcregs _ hbsl, htregs _ (by simp [hlx.symm, hmx.symm, hpx.symm, hsx.symm])]
      exact hlife
    have hred : ∀ r, r < 0x6000700000 ∨ 0x6000800000 ≤ r → c.rd r = s.rd r := by
      intro r hr
      rw [State.rd_congr hregs, hcregs _ ?_, htregs _ ?_]
      · unfold XEC_SL_EXEC_LAST XEC_SL_EXEC_MAX XEC_SL_PASSES XEC_SL_STAT
        simp only [List.mem_cons, List.not_mem_nil, or_false]
        omega
      · unfold XEC_SL_STAT
        simp only [List.mem_cons, List.not_mem_nil, or_false]
        omega
    have hstop' : c.standbyStop n = false := by
      rw [← hstop, State.standbyStop, State.standbyStop, State.fld, State.bit, hred _ (by decide), hred _ (by decide), hkonly, hconly,
        htonly]
      rfl
    have hd := hend hlife' hstop'
    refine ⟨?_, (congrArg Slice.held hstill).trans (by rw [hd]; rfl)⟩
    rw [hran.pass_isSome hec, hd]
  · have hsn : [XEC_SL_STAT n] ⊆ slStats := by simpa using slStat_mem hn
    have h1 : [XEC_SL_EXEC_LAST n, XEC_SL_EXEC_MAX n, XEC_SL_PASSES n, XEC_SL_STAT n] ⊆
        [XEC_SL_EXEC_LAST n, XEC_SL_EXEC_MAX n, XEC_SL_PASSES n, XEC_SL_XSTAT n] ++ slStats := by
      have := slStat_mem hn
      intro r hr
      simp only [List.mem_cons, List.not_mem_nil, or_false, List.mem_append] at hr ⊢
      rcases hr with rfl | rfl | rfl | rfl <;> simp [this]
    have h2 := List.Subset.trans hsn (List.subset_append_right
      [XEC_SL_EXEC_LAST n, XEC_SL_EXEC_MAX n, XEC_SL_PASSES n, XEC_SL_XSTAT n] slStats)
    have hb := RegsBut.trans (htregs.mono h1) (hcregs.mono h2)
    have hc := RegsBut.trans hb (hkregs.mono (by simp))
    exact RegsBut.trans (RegsBut.trans hc (heregs.mono h2)) (hran.regs.mono (List.subset_append_right _ _))
  · rw [hran.only, heonly, hkonly, hconly, htonly]

/-! ### The capture's end (R180, R227) -/

/-- Who keeps account of a write (R232, R332): nothing else changes. -/
theorem State.wrote_noted (s : State) (a k : Nat) :
    s.wrote a k = { s with slices := (s.wrote a k).slices, red := (s.wrote a k).red } ∧ (s.Canonical → Noted s (s.wrote a k)) := by
  have htrack : s.trackWrite a k = { s with slices := (s.trackWrite a k).slices } ∧
      (s.Canonical → (s.trackWrite a k).Canonical ∧ ∀ j, (s.trackWrite a k).sl j = { s.sl j with dirty := ((s.trackWrite a k).sl j).dirty }) := by
    refine each_invariant (P := fun t => t = { s with slices := t.slices } ∧
      (s.Canonical → t.Canonical ∧ ∀ j, t.sl j = { s.sl j with dirty := (t.sl j).dirty })) ⟨rfl, fun hs => ⟨hs, fun _ => rfl⟩⟩ ?_
    rintro n - t ⟨ht, hc⟩
    dsimp only
    split
    · exact ⟨ht, hc⟩
    · refine ⟨by rw [ht]; rfl, fun hs => ⟨canonical_modSl (hc hs).1, fun j => ?_⟩⟩
      refine sl_modSl_of (P := fun x => x = { s.sl j with dirty := x.dirty }) (hc hs).1 (fun hj => ?_) (fun _ => (hc hs).2 j)
      rw [(hc hs).2 j]
  have hmark : ∀ t : State, t.markBlocks a k = { t with red := (t.markBlocks a k).red } ∧
      (t.markBlocks a k).red = { t.red with dirty := (t.markBlocks a k).red.dirty } := by
    intro t
    unfold markBlocks
    dsimp only
    split
    · refine each_invariant (P := fun u => u = { t with red := u.red } ∧ u.red = { t.red with dirty := u.red.dirty }) ⟨rfl, rfl⟩ ?_
      rintro n - u ⟨hu, hr⟩
      exact ⟨by rw [hu], by dsimp only; rw [hr]⟩
    · exact ⟨rfl, rfl⟩
  obtain ⟨hmonly, hmred⟩ := hmark (s.trackWrite a k)
  unfold wrote
  generalize (s.trackWrite a k).markBlocks a k = v at hmonly hmred
  refine ⟨?_, fun hs => ⟨fun j => ?_, ?_⟩⟩
  · rw [hmonly, htrack.1]
  · have h : v.sl j = (s.trackWrite a k).sl j := by rw [hmonly]; rfl
    rw [h]
    exact (htrack.2 hs).2 j
  · rw [hmred, htrack.1]

theorem length_padTo (n : Nat) (l : List Byte) : (padTo n l).length = n := by
  rw [padTo, List.length_append, List.length_take, List.length_replicate]
  omega

theorem length_imageHead (i : ImgBank) (arch : List Byte) (pages : Nat) : (imageHead i arch pages).length = 0x1000 := by
  simp only [imageHead, List.length_append, List.length_replicate, length_bytesLE, length_padTo]

theorem State.rdByte_wrBytes_inside {s : State} (h : s.MemOk) {a j : Nat} {l : List Byte} (hj : j < l.length) :
    (s.wrBytes a l).rdByte (a + j) = l.getD j 0 := by
  have hl := congrArg (fun x => x.getD j 0) (rdBytes_wrBytes (a := a) (l := l) h)
  simpa [rdBytes, hj] using hl

/-- The state once the image of slice `n` stands in bank `b`. -/
def State.imageWritten (n b : Nat) (i : ImgBank) (s : State) : State :=
  let a := s.imageAddr n b
  (((s.dma a (imageHead i (s.sl n).capArch (s.pagesOf n))).wrote (a + 0x1000) (s.pagesOf n * 0x1000)).fill (a + 0x1000)
    (s.pagesOf n * 0x1000) (s.sl n).capCells)

/-- A slice whose capture is complete: the image `i` in bank `b`, which is current. -/
def Slice.flipped (i : ImgBank) (b : Nat) (sl : Slice) : Slice :=
  { sl with bank := b, capture := none, capArch := [], capCells := [],
            img0 := if b = 0 then i else sl.img0, img1 := if b = 1 then i else sl.img1 }

theorem State.captureDone_eq {s : State} {n : Nat} {i : ImgBank} (h : (s.sl n).capture = some i) (hcx : s.power.cx = true)
    (hmem : s.power.mem = true) :
    s.captureDone n = (((s.imageWritten n (1 - (s.sl n).bank) i).modSl n (Slice.flipped i (1 - (s.sl n).bank))).setBit
      (XEC_SL_XSTAT n) 14 true) := by
  unfold captureDone
  dsimp only
  rw [h]
  dsimp only
  rw [if_neg (by simp [hcx, hmem])]
  rfl

theorem State.imageWritten_effect {s : State} (hs : s.Canonical) (n b : Nat) (i : ImgBank)
    (hcells : ∀ c ∈ (s.sl n).capCells, c.1 < s.pagesOf n * 0x1000) :
    let a := s.imageAddr n b
    let t := s.imageWritten n b i
    (∀ j, j < 0x1000 → t.rdByte (a + j) = (imageHead i (s.sl n).capArch (s.pagesOf n)).getD j 0) ∧
    (∀ x, x < a ∨ a + 0x1000 + s.pagesOf n * 0x1000 ≤ x → t.rdByte x = s.rdByte x) ∧
    t = { s with mem := t.mem, poison := t.poison, slices := t.slices, red := t.red } ∧ Noted s t ∧ t.Canonical := by
  dsimp only
  unfold imageWritten
  dsimp only
  generalize s.imageAddr n b = a
  generalize hhead : imageHead i (s.sl n).capArch (s.pagesOf n) = head
  have hlen : head.length = 0x1000 := by rw [← hhead, length_imageHead]
  generalize s.pagesOf n * 0x1000 = k at hcells ⊢
  obtain ⟨h1, hn1⟩ := s.wrote_noted a head.length
  have hc1 : (s.wrote a head.length).Canonical := (wrote_kept (.refl s)).canonical hs
  have hnoted1 := hn1 hs
  unfold dma
  generalize s.wrote a head.length = u at h1 hc1 hnoted1
  have h2 := OnlyMem.wrBytes (s := u) (a := a) (l := head)
  have hc2 : (u.wrBytes a head).Canonical := (wrBytes_kept (.refl u)).canonical hc1
  have hin : ∀ j, j < 0x1000 → (u.wrBytes a head).rdByte (a + j) = head.getD j 0 := fun j hj =>
    rdByte_wrBytes_inside (Canonical.memOk hc1) (by omega)
  have hout : ∀ x, x < a ∨ a + 0x1000 ≤ x → (u.wrBytes a head).rdByte x = s.rdByte x := fun x hx => by
    rw [rdByte_wrBytes_outside (by omega), h1]
    rfl
  generalize u.wrBytes a head = v at h2 hc2 hin hout
  obtain ⟨h3, hn3⟩ := v.wrote_noted (a + 0x1000) k
  have hnoted3 := hn3 hc2
  have hc3 : (v.wrote (a + 0x1000) k).Canonical := (wrote_kept (.refl v)).canonical hc2
  generalize v.wrote (a + 0x1000) k = w at h3 hnoted3 hc3
  have hwrd : ∀ x, w.rdByte x = v.rdByte x := fun x => by rw [h3]; rfl
  have h4 := fill_only (s := w) (a := a + 0x1000) (n := k) (l := (s.sl n).capCells)
  refine ⟨fun j hj => ?_, fun x hx => ?_, ?_, ⟨fun m => ?_, ?_⟩, (fill_kept (.refl w)).canonical hc3⟩
  · rw [rdByte_fill_below (by omega), hwrd, hin j hj]
  · rw [rdByte_fill_outside hcells (by omega), hwrd, hout x (by omega)]
  · unfold OnlyMem at h2 h4
    rw [h4, h3, h2, h1]
  · have hm : (w.fill (a + 0x1000) k (s.sl n).capCells).sl m = w.sl m := by rw [sl, h4]; rfl
    have hv : v.sl m = u.sl m := by rw [sl, h2]; rfl
    rw [hm, hnoted3.1 m, hv, hnoted1.1 m]
  · have hr : (w.fill (a + 0x1000) k (s.sl n).capCells).red = w.red := by rw [h4]
    have hv : v.red = u.red := by rw [h2]
    rw [hr, hnoted3.2, hv, hnoted1.2]

/-- R180, R227: what the completed capture leaves. -/
theorem captureDone_effect {s : State} (hs : s.Canonical) {n : Nat} {i : ImgBank} (h : (s.sl n).capture = some i)
    (hcx : s.power.cx = true) (hmem : s.power.mem = true) (hcells : ∀ c ∈ (s.sl n).capCells, c.1 < s.pagesOf n * 0x1000) :
    let t := s.captureDone n
    let b := 1 - (s.sl n).bank
    let a := s.imageAddr n b
    (∀ j, j < 0x1000 → t.rdByte (a + j) = (imageHead i (s.sl n).capArch (s.pagesOf n)).getD j 0) ∧
    (∀ x, x < a ∨ a + 0x1000 + s.pagesOf n * 0x1000 ≤ x → t.rdByte x = s.rdByte x) ∧
    (t.sl n).bank = b ∧ (t.sl n).capture = none ∧ (t.sl n).curImg = i ∧
    t.rd (XEC_SL_XSTAT n) = raised (s.rd (XEC_SL_XSTAT n)) 14 ∧ RegsBut [XEC_SL_XSTAT n] s t ∧
    t.red = { s.red with dirty := t.red.dirty } ∧
    t = { s with regs := t.regs, mem := t.mem, poison := t.poison, slices := t.slices, red := t.red } := by
  dsimp only
  rw [State.captureDone_eq h hcx hmem]
  obtain ⟨hin, hout, honly, hnoted, hc⟩ := State.imageWritten_effect hs n (1 - (s.sl n).bank) i hcells
  have hb : 1 - (s.sl n).bank ≤ 1 := by omega
  generalize 1 - (s.sl n).bank = b at hin hout honly hnoted hc hb ⊢
  generalize s.imageWritten n b i = v at hin hout honly hnoted hc
  have hregs : v.regs = s.regs := by rw [honly]
  have hsl : ((v.modSl n (Slice.flipped i b)).setBit (XEC_SL_XSTAT n) 14 true).sl n = Slice.flipped i b (v.sl n) :=
    State.sl_modSl_same (State.Canonical.slicesTidy hc)
  refine ⟨hin, hout, ?_, ?_, ?_, ?_, RegsBut.setReg (.of_regs hregs) (by simp), hnoted.2, ?_⟩
  · rw [hsl]; rfl
  · rw [hsl]; rfl
  · rw [hsl]
    obtain rfl | rfl : b = 0 ∨ b = 1 := by omega
    · rfl
    · rfl
  · exact (State.rd_setBit_true (show State.RegsOk _ from State.Canonical.regsOk hc) (by decide)).trans (by rw [← State.rd_congr hregs])
  · rw [honly]; rfl

/-- Settles O23: PASS.END and the completed capture by their effects; PASS.INFO answers, or aborts the pass as R190 says. -/
theorem passInstructions : Obligations.PassInstructions := by
  intro p n ps s hs
  refine ⟨fun arch hrun hpass => ?_, fun k i hcap hcx hmem hcells => .of_exec rfl rfl (captureDone_effect hs hcap hcx hmem hcells), ?_,
    ?_, ?_⟩
  · obtain ⟨hlast, hmax, hpasses, hover, hmiss, hcap, harch, hend, hregs, honly⟩ :=
      passEnd_effect hs (State.runningOn_lt hrun) p arch hpass
    exact .of_exec (congrArg Host.Outcome.next (by rw [hrun])) rfl
      ⟨hlast, hmax, hpasses, hover, hmiss, ⟨_, hcap, rfl, rfl, rfl, rfl⟩, harch, hend, hregs, honly⟩
  · exact fun hrun => ⟨fun arch => .of_exec (congrArg Host.Outcome.next (by rw [hrun])) rfl rfl,
      fun imm pc => .of_exec (congrArg Host.Outcome.next (by rw [hrun])) rfl rfl⟩
  · exact fun k hcap => .of_exec rfl (by rw [State.captureDone, hcap]) rfl
  · intro pc hrun hpass
    have hexec : ∀ imm, exec (.passInfo p imm pc) s = .next (s.passInfo p n imm pc) := fun imm =>
      congrArg Host.Outcome.next (by rw [hrun])
    have hanswer : ∀ v : Nat, (s.answer p { data := v }).reply.at' p = { data := v } := fun v =>
      State.reply_answer (State.Canonical.replyTidy hs)
    refine ⟨.of_exec (hexec 0) rfl ⟨rfl, ?_⟩, .of_exec (hexec 1) rfl ⟨rfl, ?_⟩, .of_exec (hexec 2) rfl ⟨rfl, ?_⟩, fun imm himm => ?_⟩
    · rw [State.passInfo, hpass]
      exact congrArg Reply.data (hanswer _)
    · rw [State.passInfo, hpass]
      exact congrArg Reply.data (hanswer _)
    · rw [State.passInfo, hpass]
      exact congrArg Reply.data (hanswer _)
    · have heq : s.passInfo p n imm pc = s.abortPass n 1 0 pc := by
        rw [State.passInfo, if_neg (by omega), if_neg (by omega), if_neg (by omega)]
      obtain ⟨h, -⟩ := State.abortPass_pass hs (State.runningOn_lt hrun) 1 0 pc hpass
      exact .of_exec (hexec imm) heq ⟨h.event, h.pass⟩

end Sys2Proof.Machine
end

section
/-!
PROOF. The overload ladder, the thermal level and block failures (R193, R194, R201, R202, R323).
-/

namespace Sys2Proof.Machine

open Sys2Proof.Claims

/-! ### Levels (R193) -/

namespace State

variable {s : State} {p : Nat}

theorem level_lt (s : State) (p : Nat) : s.level p < 4 := by
  have h1 := s.fld_lt (XEC_PAIR_STAT p) 7 6
  have h2 := s.fld_lt XEC_STAT 1 0
  unfold level
  omega

theorem rd_showLevel_ne {a : Nat} (ha : a ≠ XEC_PAIR_STAT p) : (s.showLevel p).rd a = s.rd a := rd_setFld_ne ha

theorem regsOk_showLevel (h : s.RegsOk) : (s.showLevel p).RegsOk := regsOk_setFld h

/-- The level in effect is shown. -/
theorem fld_showLevel (h : s.RegsOk) : (s.showLevel p).fld (XEC_PAIR_STAT p) 5 4 = s.level p :=
  (fld_setFld_same h (by decide) (by decide)).trans (Nat.mod_eq_of_lt (s.level_lt p))

/-- The pair's own level stays. -/
theorem fld_showLevel_own (h : s.RegsOk) (q : Nat) : (s.showLevel p).fld (XEC_PAIR_STAT q) 7 6 = s.fld (XEC_PAIR_STAT q) 7 6 :=
  fld_setFld_other h (by decide) (by decide) (.inr (.inl (by decide)))

theorem level_showLevel (h : s.RegsOk) (q : Nat) : (s.showLevel p).level q = s.level q := by
  have hstat : (s.showLevel p).fld XEC_STAT 1 0 = s.fld XEC_STAT 1 0 :=
    fld_setFld_other h (by decide) (by decide) (.inr (.inr (by decide)))
  rw [level, level, fld_showLevel_own h, hstat]

/-- A pair's level lowered by one in calm. -/
def calmed (p : Nat) (s : State) : State :=
  ((s.setFld (XEC_PAIR_STAT p) 7 6 (s.fld (XEC_PAIR_STAT p) 7 6 - 1)).modPr p fun q => { q with calmFrom := s.clk }).evt (XEC_PAIR_EVT p) 6

theorem calmed_effect (hs : s.Canonical) :
    (s.calmed p).RegsOk ∧ (s.calmed p).fld (XEC_PAIR_STAT p) 7 6 = s.fld (XEC_PAIR_STAT p) 7 6 - 1 ∧
    (s.calmed p).rd (XEC_PAIR_EVT p) = raised (s.rd (XEC_PAIR_EVT p)) 6 ∧ ((s.calmed p).pr p).calmFrom = s.clk ∧
    RegsBut [XEC_PAIR_STAT p, XEC_PAIR_EVT p] s (s.calmed p) ∧
    s.calmed p = { s with regs := (s.calmed p).regs, pairs := (s.calmed p).pairs } := by
  have hne : XEC_PAIR_EVT p ≠ XEC_PAIR_STAT p := by unfold XEC_PAIR_EVT XEC_PAIR_STAT; omega
  have hput : ((s.setFld (XEC_PAIR_STAT p) 7 6 (s.fld (XEC_PAIR_STAT p) 7 6 - 1)).modPr p fun q => { q with calmFrom := s.clk }).Canonical :=
    canonical_modPr (canonical_setReg hs)
  have hok := Canonical.regsOk hput
  refine ⟨regsOk_evt hok, ?_, ?_, ?_, ?_, rfl⟩
  · rw [calmed, fld_evt_other hok (by decide) (.inl hne.symm)]
    refine (fld_setFld_same (Canonical.regsOk hs) (by decide) (by decide)).trans (Nat.mod_eq_of_lt ?_)
    have := s.fld_lt (XEC_PAIR_STAT p) 7 6
    omega
  · rw [calmed, rd_evt_same hok (by decide)]
    exact congrArg (raised · 6) (rd_setFld_ne hne)
  · exact congrArg Pair.calmFrom (pr_modPr_same (s := s.setFld (XEC_PAIR_STAT p) 7 6 (s.fld (XEC_PAIR_STAT p) 7 6 - 1))
      (f := fun q => { q with calmFrom := s.clk }) (canonical_setReg hs))
  · exact RegsBut.setReg (RegsBut.setReg (.of_regs rfl) (by simp)) (by simp)

/-- The levels of the pairs `L` shown, and each of them dispatched. -/
structure Leveled (L : List Nat) (s t : State) : Prop where
  only  : t = { s with regs := t.regs, slices := t.slices, pairs := t.pairs }
  canon : t.Canonical
  regs  : RegsBut ((List.range 12).map XEC_PAIR_STAT ++ slStats) s t
  own   : ∀ q, q < 12 → t.fld (XEC_PAIR_STAT q) 7 6 = s.fld (XEC_PAIR_STAT q) 7 6
  shown : ∀ q, q < 12 → t.fld (XEC_PAIR_STAT q) 5 4 = if q ∈ L then s.level q else s.fld (XEC_PAIR_STAT q) 5 4

theorem pairStat_inj {p q : Nat} (h : p ≠ q) : XEC_PAIR_STAT p ≠ XEC_PAIR_STAT q := by unfold XEC_PAIR_STAT; omega

theorem Leveled.level {L : List Nat} {t : State} (h : Leveled L s t) {q : Nat} (hq : q < 12) : t.level q = s.level q := by
  have hstat : t.rd XEC_STAT = s.rd XEC_STAT := h.regs _ (by
    intro hm
    rcases List.mem_append.mp hm with hm | hm
    · exact absurd hm (by decide)
    · exact not_slStat (fun m _ => by unfold XEC_STAT XEC_SL_STAT; omega) hm)
  rw [State.level, State.level, h.own q hq, fld, fld, fld, hstat]

theorem showLevel_leveled {L : List Nat} {t : State} (h : Leveled L s t) (hp : p < 12) :
    Leveled (p :: L) s ((t.showLevel p).dispatch p) := by
  have hok := Canonical.regsOk h.canon
  have hc : (t.showLevel p).Canonical := canonical_setReg h.canon
  have hran := (t.showLevel p).dispatch_ran p
  have hrd : ∀ q hi lo, q < 12 → ((t.showLevel p).dispatch p).fld (XEC_PAIR_STAT q) hi lo = (t.showLevel p).fld (XEC_PAIR_STAT q) hi lo :=
    fun q hi lo hq => hran.run_eq (pairStat_not_slStat (by omega))
  refine ⟨?_, hran.canon hc, ?_, fun q hq => ?_, fun q hq => ?_⟩
  · rw [hran.only, showLevel]
    change { t with regs := _, slices := _, pairs := _ } = _
    rw [h.only]
  · have hmem : XEC_PAIR_STAT p ∈ (List.range 12).map XEC_PAIR_STAT ++ slStats :=
      List.mem_append_left _ (List.mem_map.mpr ⟨p, List.mem_range.mpr hp, rfl⟩)
    exact RegsBut.trans (h.regs.setReg hmem) (hran.regs.mono (List.subset_append_right _ _))
  · rw [hrd q _ _ hq, fld_showLevel_own hok, h.own q hq]
  · rw [hrd q _ _ hq]
    by_cases hqp : q = p
    · subst hqp
      rw [fld_showLevel hok, h.level hq, if_pos List.mem_cons_self]
    · have hsame : (t.showLevel p).fld (XEC_PAIR_STAT q) 5 4 = t.fld (XEC_PAIR_STAT q) 5 4 := by
        rw [fld, rd_showLevel_ne (pairStat_inj hqp)]
        rfl
      rw [hsame, h.shown q hq]
      simp [hqp]

theorem each_leveled {l L : List Nat} {t : State} (h : Leveled L s t) (hl : ∀ p ∈ l, p < 12) :
    ∃ L', (∀ q, q ∈ L' ↔ q ∈ l ∨ q ∈ L) ∧ Leveled L' s (t.each l fun p u => (u.showLevel p).dispatch p) := by
  induction l generalizing t L with
  | nil => exact ⟨L, by simp, h⟩
  | cons p l ih =>
    obtain ⟨L', hL, ht⟩ := ih (showLevel_leveled h (hl p List.mem_cons_self)) fun q hq => hl q (List.mem_cons_of_mem _ hq)
    exact ⟨L', fun q => by rw [hL, List.mem_cons, List.mem_cons]; tauto, ht⟩

end State

/-- R193: calm lowers the pair's level by one and shows the level in effect. -/
theorem calm_effect {s : State} (hs : s.Canonical) {p : Nat} (hctl : s.bit XEC_CTL 1 = true)
    (hl : s.fld (XEC_PAIR_STAT p) 7 6 ≠ 0) (hcalm : (s.pr p).calmFrom + max (s.fld XEC_OVL_CFG 23 16) 1 * tMs ≤ s.clk)
    (hutil : s.util p < min (s.fld XEC_OVL_CFG 15 8) 100) (hrisk : s.atRisk p = false) :
    ∃ u : State, s.calm p = u.dispatch p ∧ u.fld (XEC_PAIR_STAT p) 7 6 = s.fld (XEC_PAIR_STAT p) 7 6 - 1 ∧
      u.fld (XEC_PAIR_STAT p) 5 4 = u.level p ∧ u.rd (XEC_PAIR_EVT p) = raised (s.rd (XEC_PAIR_EVT p)) 6 ∧
      (u.pr p).calmFrom = s.clk ∧ RegsBut [XEC_PAIR_STAT p, XEC_PAIR_EVT p] s u ∧ u = { s with regs := u.regs, pairs := u.pairs } := by
  have hne : XEC_PAIR_EVT p ≠ XEC_PAIR_STAT p := by unfold XEC_PAIR_EVT XEC_PAIR_STAT; omega
  obtain ⟨hok, hlevel, hevt, hfrom, hregs, honly⟩ := State.calmed_effect (p := p) hs
  refine ⟨(s.calmed p).showLevel p, if_pos ⟨hctl, hl, hcalm, hutil, hrisk⟩, (State.fld_showLevel_own hok p).trans hlevel,
    (State.fld_showLevel hok).trans (State.level_showLevel hok p).symm, (State.rd_showLevel_ne hne).trans hevt, hfrom,
    hregs.setReg (by simp), ?_⟩
  have hshown : (s.calmed p).showLevel p = { s.calmed p with regs := ((s.calmed p).showLevel p).regs } := rfl
  rw [hshown, honly]

/-! ### The thermal level (R193, R194) -/

/-- The registers that a change of the thermal level writes. -/
def thermalRegs : List Nat := [XEC_TJ, XEC_STAT, XEC_EVT, XEC_THERM_CNT] ++ (List.range 12).map XEC_PAIR_STAT ++ healthRegs ++ slStats

/-- What putting the thermal level leaves of `s`. -/
structure Thermal (l : Nat) (s t : State) : Prop where
  keeps  : t.mem = s.mem ∧ t.hotFrom = s.hotFrom ∧ t.coolFrom = s.coolFrom
  level  : t.fld XEC_STAT 1 0 = l
  shown  : ∀ p, p < 12 → t.fld (XEC_PAIR_STAT p) 5 4 = max (s.fld (XEC_PAIR_STAT p) 7 6) l
  health : HealthShown s t
  other  : ∀ a ∈ [XEC_TJ, XEC_EVT, XEC_THERM_CNT], t.rd a = s.rd a
  regs   : RegsBut thermalRegs s t

theorem State.setThermal_effect {s : State} (hs : s.Canonical) {l : Nat} (hl : l < 4) : Thermal l s (s.setThermal l) := by
  unfold setThermal
  dsimp only
  have hok := Canonical.regsOk hs
  have hput : (s.setFld XEC_STAT 1 0 l).fld XEC_STAT 1 0 = l :=
    (fld_setFld_same hok (by decide) (by decide)).trans (Nat.mod_eq_of_lt hl)
  have hown : ∀ p, p < 12 → (s.setFld XEC_STAT 1 0 l).fld (XEC_PAIR_STAT p) 7 6 = s.fld (XEC_PAIR_STAT p) 7 6 := fun p hp =>
    fld_setFld_other hok (by decide) (by decide) (.inl (by unfold XEC_PAIR_STAT XEC_STAT; omega))
  have hrd : ∀ a, a ≠ XEC_STAT → (s.setFld XEC_STAT 1 0 l).rd a = s.rd a := fun a ha => rd_setFld_ne ha
  have hc : (s.setFld XEC_STAT 1 0 l).Canonical := canonical_setReg hs
  have honly : s.setFld XEC_STAT 1 0 l = { s with regs := (s.setFld XEC_STAT 1 0 l).regs } := rfl
  generalize s.setFld XEC_STAT 1 0 l = v at hput hown hrd hc honly ⊢
  obtain ⟨L, hL, hlev⟩ := each_leveled (s := v) (t := v) (L := []) (l := List.range 12)
    ⟨rfl, hc, .of_regs rfl, fun _ _ => rfl, fun _ _ => rfl⟩ fun p hp => List.mem_range.mp hp
  generalize v.each (List.range 12) (fun p u => (u.showLevel p).dispatch p) = w at hlev ⊢
  have hstep := w.healthUpdate_step
  have hwok := Canonical.regsOk hlev.canon
  have hstat : ∀ a, a < XEC_PAIR_STAT 0 ∨ 0x6000800000 ≤ a → w.rd a = v.rd a := fun a ha => hlev.regs _ (by
    intro hm
    unfold XEC_PAIR_STAT at ha
    rcases List.mem_append.mp hm with hm | hm
    · obtain ⟨q, hq, rfl⟩ := List.mem_map.mp hm
      have := List.mem_range.mp hq
      unfold XEC_PAIR_STAT at ha
      omega
    · exact not_slStat (fun m _ => by unfold XEC_SL_STAT; omega) hm)
  refine ⟨?_, ?_, fun p hp => ?_, healthShown_healthUpdate hwok ?_, fun a ha => ?_, ?_⟩
  · rw [hstep.only, hlev.only, honly]
    exact ⟨rfl, rfl, rfl⟩
  · rw [fld, hstep.rd_xec (by decide) (by decide), hstat _ (by decide)]
    exact hput
  · rw [fld, hstep.rd_xec (by unfold XEC_PAIR_STAT; omega) (by unfold XEC_PAIR_STAT; omega)]
    have hshown := hlev.shown p hp
    rw [if_pos ((hL p).mpr (.inl (List.mem_range.mpr hp))), level, hput, hown p hp] at hshown
    exact hshown
  · rw [fld, fld, hstat _ (by decide), hrd _ (by decide)]
  · have hbound : a < XEC_PAIR_STAT 0 ∧ a ≠ XEC_STAT ∧ 0x6000700000 ≤ a ∧ a < 0x6000800000 :=
      (by decide : ∀ a ∈ [XEC_TJ, XEC_EVT, XEC_THERM_CNT],
        a < XEC_PAIR_STAT 0 ∧ a ≠ XEC_STAT ∧ 0x6000700000 ≤ a ∧ a < 0x6000800000) a ha
    rw [hstep.rd_xec hbound.2.2.1 hbound.2.2.2, hstat _ (.inl hbound.1), hrd _ hbound.2.1]
  · intro a ha
    simp only [thermalRegs, List.mem_append, not_or] at ha
    obtain ⟨⟨⟨hfirst, hpair⟩, hhealth⟩, hslice⟩ := ha
    rw [hstep.regs a hhealth, hlev.regs a (by simp only [List.mem_append, not_or]; exact ⟨hpair, hslice⟩), hrd]
    rintro rfl
    exact hfirst (by decide)

end Sys2Proof.Machine
end

section
/-!
PROOF. Readings of the temperature and block failures (R193, R194, R201, R202), and the statement about the ladder.
-/

namespace Sys2Proof.Machine

open Sys2Proof.Claims

/-! ### Readings (R193) -/

/-- Since when the temperature reads above `t_up`, once `tj` is read. -/
def State.hotSince (s : State) (tj : Int) : Option Nat := if (s.tUp : Int) * 16 < tj then some (s.hotFrom.getD s.clk) else none

/-- Since when the temperature reads below `t_down`, once `tj` is read. -/
def State.coolSince (s : State) (tj : Int) : Option Nat := if tj < (s.tDown : Int) * 16 then some (s.coolFrom.getD s.clk) else none

/-- R193: a reading is kept with its spans. -/
theorem State.setTj_effect {s : State} (hok : s.RegsOk) (tj : Int) :
    (s.setTj tj).rd XEC_TJ = unsigned 16 tj ∧ RegsBut [XEC_TJ] s (s.setTj tj) ∧
    s.setTj tj = { s with regs := (s.setTj tj).regs, hotFrom := s.hotSince tj, coolFrom := s.coolSince tj } := by
  refine ⟨?_, RegsBut.setReg (.of_regs rfl) (by simp), rfl⟩
  have h := unsigned_lt 16 tj
  refine (rd_setReg_same (show RegsOk _ from hok)).trans (Nat.mod_eq_of_lt (by omega))

theorem State.setTj_rd {s : State} {tj : Int} {a : Nat} (ha : a ≠ XEC_TJ) : (s.setTj tj).rd a = s.rd a := rd_setReg_ne ha

theorem thermalRegs_mono {l : List Nat} {s t : State} (h : RegsBut l s t)
    (hl : ∀ a ∈ l, a ∈ [XEC_TJ, XEC_STAT, XEC_EVT, XEC_THERM_CNT]) : RegsBut thermalRegs s t :=
  h.mono fun a ha => List.mem_append_left _ (List.mem_append_left _ (List.mem_append_left _ (hl a ha)))

theorem HealthShown.congr {s u t : State} (h : HealthShown u t) (hl : u.rd RED_HEALTH = s.rd RED_HEALTH) : HealthShown s t := by
  rw [HealthShown, h, State.fld, hl]
  rfl

/-- What a thermal level put after a reading leaves of `s`; `v` differs from `s` by the reading, its event and its count. -/
structure ThermalMoved (l : Nat) (s v t : State) : Prop where
  level  : t.fld XEC_STAT 1 0 = l
  shown  : ∀ p, p < 12 → t.fld (XEC_PAIR_STAT p) 5 4 = max (s.fld (XEC_PAIR_STAT p) 7 6) l
  health : HealthShown s t
  other  : ∀ a ∈ [XEC_TJ, XEC_EVT, XEC_THERM_CNT], t.rd a = v.rd a
  regs   : RegsBut thermalRegs s t
  mem    : t.mem = s.mem
  spans  : t.hotFrom = v.hotFrom ∧ t.coolFrom = v.coolFrom

theorem setThermal_moved {s v : State} (hv : v.Canonical) {l : Nat} (hl : l < 4) (hregs : RegsBut [XEC_TJ, XEC_EVT, XEC_THERM_CNT] s v)
    (hmem : v.mem = s.mem) : ThermalMoved l s v (v.setThermal l) := by
  have h := State.setThermal_effect hv hl
  obtain ⟨hkeep, hhot, hcool⟩ := h.keeps
  refine ⟨h.level, fun p hp => ?_, ?_, h.other, RegsBut.trans (thermalRegs_mono hregs (by decide)) h.regs, hkeep.trans hmem, hhot, hcool⟩
  · have hp' : v.rd (XEC_PAIR_STAT p) = s.rd (XEC_PAIR_STAT p) := hregs _ (by
      simp only [XEC_PAIR_STAT, XEC_TJ, XEC_EVT, XEC_THERM_CNT, List.mem_cons, List.not_mem_nil, or_false]
      omega)
    rw [h.shown p hp, State.fld, hp']
    rfl
  · have hlimit : v.rd RED_HEALTH = s.rd RED_HEALTH := hregs _ (by decide)
    exact HealthShown.congr h.health hlimit

/-- The state once a full second above `t_up` has been read. -/
def State.hotRead (tj : Int) (s : State) : State :=
  ({ s.setTj tj with hotFrom := some s.clk }.evt XEC_EVT 4).inc XEC_THERM_CNT

/-- The state once ten seconds below `t_down` have been read. -/
def State.coolRead (tj : Int) (s : State) : State := { s.setTj tj with coolFrom := some s.clk }.evt XEC_EVT 5

theorem setTj_level {s : State} {tj : Int} : (s.setTj tj).fld XEC_STAT 1 0 = s.fld XEC_STAT 1 0 := by
  rw [State.fld, State.setTj_rd (by decide)]
  rfl

theorem setTj_ctl {s : State} {tj : Int} : (s.setTj tj).bit XEC_CTL 2 = s.bit XEC_CTL 2 := by
  rw [State.bit, State.setTj_rd (by decide)]
  rfl

theorem thermalLevelUp_next {s : State} {tj : Int} (hcx : s.power.cx = true) :
    exec (.thermalLevelUp tj) s = .next (if s.bit XEC_CTL 2 = true ∧ s.fld XEC_STAT 1 0 < 3 ∧ s.lasted (s.hotSince tj) 1 = true then
      (s.hotRead tj).setThermal (s.fld XEC_STAT 1 0 + 1) else s.setTj tj) := by
  refine congrArg Host.Outcome.next ((if_neg (by simp [hcx])).trans ?_)
  dsimp only
  rw [setTj_level, setTj_ctl]
  rfl

theorem thermalLevelDown_next {s : State} {tj : Int} (hcx : s.power.cx = true) :
    exec (.thermalLevelDown tj) s = .next (if s.bit XEC_CTL 2 = true ∧ s.fld XEC_STAT 1 0 ≠ 0 ∧ s.lasted (s.coolSince tj) 10 = true then
      (s.coolRead tj).setThermal (s.fld XEC_STAT 1 0 - 1) else s.setTj tj) := by
  refine congrArg Host.Outcome.next ((if_neg (by simp [hcx])).trans ?_)
  dsimp only
  rw [setTj_level, setTj_ctl]
  rfl

theorem hotRead_effect {s : State} (hs : s.Canonical) (tj : Int) :
    (s.hotRead tj).Canonical ∧ (s.hotRead tj).rd XEC_TJ = unsigned 16 tj ∧ (s.hotRead tj).rd XEC_EVT = raised (s.rd XEC_EVT) 4 ∧
    (s.hotRead tj).rd XEC_THERM_CNT = incSat 32 (s.rd XEC_THERM_CNT) ∧ RegsBut [XEC_TJ, XEC_EVT, XEC_THERM_CNT] s (s.hotRead tj) ∧
    (s.hotRead tj).mem = s.mem ∧ (s.hotRead tj).hotFrom = some s.clk := by
  obtain ⟨htj, hregs, -⟩ := State.setTj_effect (State.Canonical.regsOk hs) tj
  have hc : (s.setTj tj).Canonical := (State.setTj_kept (.refl s)).canonical hs
  have hok : State.RegsOk { s.setTj tj with hotFrom := some s.clk } := State.Canonical.regsOk hc
  have hok1 := State.regsOk_evt (a := XEC_EVT) (i := 4) hok
  have hrd : ∀ a, a ≠ XEC_TJ → State.rd { s.setTj tj with hotFrom := some s.clk } a = s.rd a := fun a ha => State.setTj_rd ha
  refine ⟨State.canonical_setReg (State.canonical_setReg hc), ?_, ?_, ?_, ?_, rfl, rfl⟩
  · exact (State.rd_inc_ne (by decide)).trans ((State.rd_evt_ne (by decide)).trans htj)
  · rw [State.hotRead, State.rd_inc_ne (by decide), State.rd_evt_same hok (by decide), hrd _ (by decide)]
  · rw [State.hotRead, State.rd_inc_same hok1, State.rd_evt_ne (by decide), hrd _ (by decide)]
  · exact RegsBut.setReg (RegsBut.setReg (RegsBut.congr (hregs.mono (by simp)) rfl) (by simp)) (by simp)

theorem coolRead_effect {s : State} (hs : s.Canonical) (tj : Int) :
    (s.coolRead tj).Canonical ∧ (s.coolRead tj).rd XEC_TJ = unsigned 16 tj ∧ (s.coolRead tj).rd XEC_EVT = raised (s.rd XEC_EVT) 5 ∧
    RegsBut [XEC_TJ, XEC_EVT, XEC_THERM_CNT] s (s.coolRead tj) ∧ (s.coolRead tj).mem = s.mem ∧
    (s.coolRead tj).coolFrom = some s.clk := by
  obtain ⟨htj, hregs, -⟩ := State.setTj_effect (State.Canonical.regsOk hs) tj
  have hc : (s.setTj tj).Canonical := (State.setTj_kept (.refl s)).canonical hs
  have hok : State.RegsOk { s.setTj tj with coolFrom := some s.clk } := State.Canonical.regsOk hc
  refine ⟨State.canonical_setReg hc, (State.rd_evt_ne (by decide)).trans htj, ?_, ?_, rfl, rfl⟩
  · rw [State.coolRead, State.rd_evt_same hok (by decide)]
    exact congrArg (raised · 5) (State.setTj_rd (by decide))
  · exact RegsBut.setReg (RegsBut.congr (hregs.mono (by simp)) rfl) (by simp)

/-! ### Overtemperature (R194) -/

theorem overtemp_next {s : State} {tj : Int} (hcx : s.power.cx = true) :
    exec (.overtemp tj) s = .next (if 110 * 16 < tj then ((s.setTj tj).evt XEC_EVT 7).ledger 5 7 0 XEC_EVT 7 [] else s.setTj tj) :=
  congrArg Host.Outcome.next (if_neg (by simp [hcx]))

/-- R194: above 110 °C the event is set and recorded. -/
theorem overtemp_effect {s : State} (hs : s.Canonical) (tj : Int) :
    let t := ((s.setTj tj).evt XEC_EVT 7).ledger 5 7 0 XEC_EVT 7 []
    t.rd XEC_TJ = unsigned 16 tj ∧ t.rd XEC_EVT = raised (s.rd XEC_EVT) 7 ∧
    (s.led.staged.length < 1024 → ∃ r : LedRec, t.led.staged = s.led.staged ++ [r] ∧ r.sev = 5 ∧ r.blk = 7) ∧
    RegsBut [XEC_TJ, XEC_EVT, LED_STAGE_DROP, LED_EVT] s t ∧
    t = { s with regs := t.regs, led := t.led, hotFrom := s.hotSince tj, coolFrom := s.coolSince tj } := by
  obtain ⟨htj, hregs, -⟩ := State.setTj_effect (State.Canonical.regsOk hs) tj
  have hc : (s.setTj tj).Canonical := (State.setTj_kept (.refl s)).canonical hs
  have hevt : ((s.setTj tj).evt XEC_EVT 7).rd XEC_EVT = raised (s.rd XEC_EVT) 7 :=
    (State.rd_evt_same (State.Canonical.regsOk hc) (by decide)).trans (congrArg (raised · 7) (State.setTj_rd (by decide)))
  have hread : ((s.setTj tj).evt XEC_EVT 7).rd XEC_TJ = unsigned 16 tj := (State.rd_evt_ne (by decide)).trans htj
  have hbut : RegsBut [XEC_TJ, XEC_EVT, LED_STAGE_DROP, LED_EVT] s ((s.setTj tj).evt XEC_EVT 7) :=
    RegsBut.setReg (hregs.mono (by simp)) (by simp)
  have honly' : (s.setTj tj).evt XEC_EVT 7 =
    { s with regs := ((s.setTj tj).evt XEC_EVT 7).regs, hotFrom := s.hotSince tj, coolFrom := s.coolSince tj } := rfl
  dsimp only
  generalize (s.setTj tj).evt XEC_EVT 7 = v at hevt hread hbut honly' ⊢
  have hled : v.led = s.led := by rw [honly']
  refine ⟨(State.stageRec_rd (by decide)).trans hread, (State.stageRec_rd (by decide)).trans hevt, fun hroom => ?_, ?_, ?_⟩
  · rw [State.ledger, State.stageRec_room (by rw [hled]; exact hroom), hled]
    exact ⟨_, rfl, rfl, rfl⟩
  · exact RegsBut.trans hbut ((State.stageRec_regs _ _).mono (by simp [stageRegs]))
  · rw [State.ledger, State.stageRec_only, honly']

/-! ### Block failures (R201, R202) -/

/-- What a block failure leaves of `s`. -/
structure BlockFailed (b : Nat) (s t : State) : Prop where
  failed : b ∈ t.blockFail
  stat   : b = 7 ∨ b = 2 → t.bit XEC_STAT 7 = true
  health : HealthShown s t
  regs   : RegsBut ([XEC_STAT] ++ healthRegs) s t
  keeps  : t.mem = s.mem ∧ t.power = s.power

theorem State.blockFailure_effect {s : State} (hok : s.RegsOk) (b inst mech cnt : Nat) :
    BlockFailed b s (s.blockFailure b inst mech cnt) := by
  unfold blockFailure
  dsimp only
  have hmem : b ∈ (if s.blockFail.contains b then s.blockFail else s.blockFail ++ [b]) := by
    split
    · exact List.contains_iff_mem.mp ‹_›
    · simp
  generalize (if s.blockFail.contains b then s.blockFail else s.blockFail ++ [b]) = l at hmem
  have hmark : ∃ u : State, (if b = 7 ∨ b = 2 then State.setBit XEC_STAT 7 true { s with blockFail := l } else { s with blockFail := l }) = u ∧
      u = { s with regs := u.regs, blockFail := l } ∧ RegsBut [XEC_STAT] s u ∧ u.RegsOk ∧ (b = 7 ∨ b = 2 → u.bit XEC_STAT 7 = true) := by
    split
    · exact ⟨_, rfl, rfl, RegsBut.setReg (t := { s with blockFail := l }) (.of_regs rfl) (by simp),
        regsOk_setBit (s := { s with blockFail := l }) hok, fun _ => bit_setBit_same (s := { s with blockFail := l }) hok (by decide)⟩
    · exact ⟨_, rfl, rfl, .of_regs rfl, hok, fun h => absurd h ‹_›⟩
  obtain ⟨u, hu, honly, hregs, huok, hstat⟩ := hmark
  rw [hu]
  have hled : HealthStep 1 u (u.ledgerBare 5 b inst 3 [mech, cnt]) := stageRec_health _ _
  generalize u.ledgerBare 5 b inst 3 [mech, cnt] = v at hled
  have hstep := hled.trans v.healthUpdate_step
  refine ⟨?_, fun h => ?_, healthShown_healthUpdate (hled.regsOk huok) ?_, ?_, ?_⟩
  · rw [hstep.only, honly]
    exact hmem
  · rw [bit, hstep.rd_xec (by decide) (by decide)]
    exact hstat h
  · rw [hled.limit huok, fld, fld, hregs _ (by decide)]
  · exact RegsBut.trans (hregs.mono (by simp)) (hstep.regs.mono (by simp))
  · rw [hstep.only, honly]
    exact ⟨rfl, rfl⟩

/-- A failure of a block that counts lowers the health (R323). -/
theorem healthComputed_of_failed {t : State} {b : Nat} (h : b ∈ t.blockFail) (hb : b ∈ criticalBlocks) (hcx : t.power.cx = true) :
    t.healthComputed ≤ 1 := by
  have hfail : t.blockFailed = true := List.any_eq_true.mpr ⟨b, h, by simp [hb, hcx]⟩
  unfold State.healthComputed
  rw [hfail]
  split
  · omega
  · simp

/-- The faults of counter `i` within the last second (R201). -/
def State.faultsSeen (s : State) (i : Nat) : List Nat := (s.faults.at' i).filter fun t => decide (s.clk < t + tSec)

/-- A fault kept with those before it. -/
def State.faultKept (i : Nat) (s : State) : State := { s with faults := s.faults.put i ((s.clk :: s.faultsSeen i).take 3) }

theorem State.blockFault_eq (s : State) (b mech inst : Nat) :
    s.blockFault b mech inst = if ((s.clk :: s.faultsSeen (8 * b + mech)).take 3).length = 3 ∧ s.blockFail.contains b = false then
      (s.faultKept (8 * b + mech)).blockFailure b inst mech 3 else s.faultKept (8 * b + mech) := rfl

/-- R201: a fault detected for the first or second time within 1 s, or by a failed block, is only kept. -/
theorem State.blockFault_few {s : State} {b mech inst : Nat} (h : (s.faultsSeen (8 * b + mech)).length < 2 ∨ b ∈ s.blockFail) :
    s.blockFault b mech inst = s.faultKept (8 * b + mech) := by
  rw [blockFault_eq, if_neg]
  rintro ⟨hlen, hfail⟩
  rcases h with h | h
  · rw [List.length_take, List.length_cons] at hlen
    omega
  · simp [h] at hfail

theorem State.blockFault_third {s : State} {b mech inst : Nat} (h : 2 ≤ (s.faultsSeen (8 * b + mech)).length) (hfail : b ∉ s.blockFail) :
    s.blockFault b mech inst = (s.faultKept (8 * b + mech)).blockFailure b inst mech 3 := by
  rw [blockFault_eq, if_pos]
  refine ⟨?_, by simpa using hfail⟩
  rw [List.length_take, List.length_cons]
  omega

/-- Settles O24: calm and the thermal level act on the levels of the pairs; a reading without its span is only kept; a block
failure shows itself in the health. -/
theorem ladder : Obligations.Ladder := by
  intro s hs
  have hok := State.Canonical.regsOk hs
  refine ⟨fun p hctl hl hcalm hutil hrisk => .of_exec rfl rfl (calm_effect hs hctl hl hcalm hutil hrisk), fun hcx => ?_, fun hcx => ?_,
    fun b inst mech => ?_⟩
  · have hl := s.fld_lt XEC_STAT 1 0
    refine ⟨fun tj hctl hlow hlast => ?_, fun tj hctl hpos hlast => ?_, fun tj => ⟨fun h => ?_, fun h => ?_, fun h => ?_⟩, fun tj h => ?_, ?_⟩
    · obtain ⟨hc, htj, hevt, hcnt, hregs, hmem, hhot⟩ := hotRead_effect hs tj
      have h := setThermal_moved (l := s.fld XEC_STAT 1 0 + 1) hc (by omega) hregs hmem
      exact .of_exec (thermalLevelUp_next hcx) (if_pos ⟨hctl, hlow, hlast⟩) ⟨(h.other _ (by decide)).trans htj, h.level,
        (h.other _ (by decide)).trans hevt, (h.other _ (by decide)).trans hcnt, h.spans.1.trans hhot, h.shown, h.health, h.regs, h.mem⟩
    · obtain ⟨hc, htj, hevt, hregs, hmem, hcool⟩ := coolRead_effect hs tj
      have h := setThermal_moved (l := s.fld XEC_STAT 1 0 - 1) hc (by omega) hregs hmem
      exact .of_exec (thermalLevelDown_next hcx) (if_pos ⟨hctl, hpos, hlast⟩) ⟨(h.other _ (by decide)).trans htj, h.level,
        (h.other _ (by decide)).trans hevt, h.spans.2.trans hcool, h.shown, h.health, h.regs, h.mem⟩
    · refine .of_exec (thermalLevelUp_next hcx) (if_neg ?_) (State.setTj_effect hok tj)
      rintro ⟨h1, h2, h3⟩
      rcases h with h | h | h
      · simp [h1] at h
      · omega
      · exact absurd (h3.symm.trans h) (by simp)
    · refine .of_exec (thermalLevelDown_next hcx) (if_neg ?_) (State.setTj_effect hok tj)
      rintro ⟨h1, h2, h3⟩
      rcases h with h | h | h
      · simp [h1] at h
      · omega
      · exact absurd (h3.symm.trans h) (by simp)
    · exact .of_exec (overtemp_next hcx) (if_neg (by omega)) (State.setTj_effect hok tj)
    · exact .of_exec (overtemp_next hcx) (if_pos h) (overtemp_effect hs tj)
    · have h := State.blockFailure_effect (s := s.evt XEC_EVT 6) (State.regsOk_evt hok) 7 0 1 1
      have hevt : (s.evt XEC_EVT 6).rd XEC_EVT = raised (s.rd XEC_EVT) 6 := State.rd_evt_same hok (by decide)
      have hlimit : (s.evt XEC_EVT 6).rd RED_HEALTH = s.rd RED_HEALTH := State.rd_evt_ne (by decide)
      have hregs : RegsBut ([XEC_EVT, XEC_STAT] ++ healthRegs) s (s.evt XEC_EVT 6) := regsBut_setReg.mono (by simp)
      have hkeep : (s.evt XEC_EVT 6).mem = s.mem ∧ (s.evt XEC_EVT 6).power = s.power := ⟨rfl, rfl⟩
      refine .of_exec rfl (if_pos hcx) ?_
      generalize s.evt XEC_EVT 6 = u at h hevt hlimit hregs hkeep ⊢
      have hshown : HealthShown s _ := HealthShown.congr h.health hlimit
      refine ⟨(h.regs _ (by decide)).trans hevt, h.stat (.inl rfl), h.failed, ?_, hshown,
        RegsBut.trans hregs (h.regs.mono (by simp)), h.keeps.1.trans hkeep.1⟩
      have hle := healthComputed_of_failed h.failed (by decide) (by rw [h.keeps.2, hkeep.2]; exact hcx)
      unfold HealthShown at hshown
      omega
  · exact ⟨.of_exec rfl (if_neg (by simp [hcx])) rfl, fun tj => ⟨.of_exec rfl (if_pos hcx) rfl, .of_exec rfl (if_pos hcx) rfl,
      .of_exec rfl (if_pos hcx) rfl⟩⟩
  · refine ⟨fun hoff => .of_exec rfl (if_neg (by simp [hoff])) rfl, fun hon hnot h => ?_, fun hon h => ?_⟩
    · have hnot' : ¬(b.val = 2 ∧ mech.val = 7) := fun h => hnot ⟨Fin.ext h.1, Fin.ext h.2⟩
      exact .of_exec rfl ((if_pos hon).trans ((if_neg hnot').trans (State.blockFault_few h))) rfl
    · have hstat : b = 2 ∨ b = 7 → b.val = 7 ∨ b.val = 2 := fun hb => hb.symm.imp (congrArg Fin.val) (congrArg Fin.val)
      by_cases hone : b.val = 2 ∧ mech.val = 7
      · have h := State.blockFailure_effect hok b inst mech 1
        exact .of_exec rfl ((if_pos hon).trans (if_pos hone)) ⟨h.failed, fun hb => h.stat (hstat hb), h.health, h.regs, h.keeps.1⟩
      · obtain ⟨hlen, hfail⟩ := h.resolve_left (fun hb => hone ⟨congrArg Fin.val hb.1, congrArg Fin.val hb.2⟩)
        have h := State.blockFailure_effect (s := s.faultKept (8 * b + mech)) hok b inst mech 3
        exact .of_exec rfl ((if_pos hon).trans ((if_neg hone).trans (State.blockFault_third hlen hfail)))
          ⟨h.failed, fun hb => h.stat (hstat hb), h.health, h.regs, h.keeps.1⟩

end Sys2Proof.Machine
end

section
/-!
PROOF. Pairs whose slices no spare takes (R177–R179): the pair's state and the spare shown, and what stranding leaves alone.
-/

namespace Sys2Proof.Machine

open Sys2Proof.Claims

namespace State

variable {s : State} {p q st : Nat}

/-! ### The pair's state and the spare (R177, R178) -/

theorem pairState_congr {t : State} (h : t.rd (XEC_PAIR_STAT q) = s.rd (XEC_PAIR_STAT q)) : t.pairState q = s.pairState q := by
  rw [pairState, fld, h]
  rfl

/-- The spare is shown in `XEC_STAT` alone. -/
theorem showSpare_only (s : State) : s.showSpare = { s with regs := s.showSpare.regs } := by
  unfold showSpare
  split <;> rfl

theorem showSpare_regs (s : State) : RegsBut [XEC_STAT] s s.showSpare := by
  unfold showSpare
  split
  · exact RegsBut.setReg (RegsBut.setReg (.of_regs rfl) (by simp)) (by simp)
  · exact RegsBut.setReg (RegsBut.setReg (.of_regs rfl) (by simp)) (by simp)

theorem pairState_showSpare : s.showSpare.pairState q = s.pairState q :=
  pairState_congr (s.showSpare_regs _ (by simp only [XEC_PAIR_STAT, XEC_STAT, List.mem_cons, List.not_mem_nil, or_false]; omega))

/-- The spare shown is valid where some pair is the spare. -/
theorem spareValid_showSpare (h : s.RegsOk) : s.showSpare.spareValid = true ↔ ∃ q, q < 12 ∧ s.pairState q = 2 := by
  have hbit : ∀ (b : Bool) (v : Nat), ((s.setBit XEC_STAT 2 b).setFld XEC_STAT 6 3 v).bit XEC_STAT 2 = b := fun b v => by
    rw [bit_setFld_other (regsOk_setBit h) (by decide) (by decide) (.inr (.inr (by decide))), bit_setBit_same h (by decide)]
  unfold showSpare spareValid
  split
  next q hq =>
    rw [hbit]
    exact ⟨fun _ => ⟨q, List.mem_range.mp (List.mem_of_find?_eq_some hq), by simpa using List.find?_some hq⟩, fun _ => rfl⟩
  next hnone =>
    rw [hbit]
    refine ⟨fun hf => (Bool.false_ne_true hf).elim, ?_⟩
    rintro ⟨q, hq, hst⟩
    have := List.find?_eq_none.mp hnone q (List.mem_range.mpr hq)
    simp [hst] at this

/-- What putting a pair's state leaves of `s`. -/
structure PairPut (p st : Nat) (s t : State) : Prop where
  only  : t = { s with regs := t.regs }
  canon : t.Canonical
  regs  : RegsBut [XEC_PAIR_STAT p, XEC_STAT] s t
  state : t.pairState p = st
  other : ∀ q, q ≠ p → t.pairState q = s.pairState q
  high  : t.bit (XEC_PAIR_STAT p) 16 = s.bit (XEC_PAIR_STAT p) 16
  spare : t.spareValid = true ↔ ∃ q, q < 12 ∧ t.pairState q = 2

theorem setPair_put (hs : s.Canonical) (hst : st < 8) : PairPut p st s (s.setPair p st) := by
  have hok := Canonical.regsOk hs
  have hok1 := regsOk_setFld (a := XEC_PAIR_STAT p) (hi := 2) (lo := 0) (v := st) hok
  have hput : (s.setFld (XEC_PAIR_STAT p) 2 0 st).pairState p = st :=
    (fld_setFld_same hok (by decide) (by decide)).trans (Nat.mod_eq_of_lt hst)
  have hother : ∀ q, q ≠ p → (s.setFld (XEC_PAIR_STAT p) 2 0 st).pairState q = s.pairState q := fun q hq =>
    pairState_congr (rd_setFld_ne (pairStat_inj hq))
  have hhigh : (s.setFld (XEC_PAIR_STAT p) 2 0 st).bit (XEC_PAIR_STAT p) 16 = s.bit (XEC_PAIR_STAT p) 16 :=
    bit_setFld_other hok (by decide) (by decide) (.inr (.inl (by decide)))
  have hregs : RegsBut [XEC_PAIR_STAT p, XEC_STAT] s (s.setFld (XEC_PAIR_STAT p) 2 0 st) := RegsBut.setReg (.of_regs rfl) (by simp)
  have hne : XEC_PAIR_STAT p ∉ [XEC_STAT] := by
    simp only [XEC_PAIR_STAT, XEC_STAT, List.mem_cons, List.not_mem_nil, or_false]
    omega
  refine ⟨?_, (setPair_kept (.refl s)).canonical hs, RegsBut.trans hregs ((showSpare_regs _).mono (by simp)),
    pairState_showSpare.trans hput, fun q hq => pairState_showSpare.trans (hother q hq), ?_, ?_⟩
  · rw [setPair, showSpare_only]
    rfl
  · rw [setPair, bit, showSpare_regs _ _ hne]
    exact hhigh
  · rw [setPair, spareValid_showSpare hok1]
    simp only [pairState_showSpare]

/-! ### Slices stranded (R179, R235) -/

/-- The registers of slice `n` that stranding it writes. -/
def strandSlRegs (n : Nat) : List Nat := [XEC_SL_STAT n, XEC_SL_EVT n, XEC_SL_XEVT n, XEC_SL_XSTAT n]

/-- The registers that stranding the slices `L` of the pairs `P` writes. -/
def strandRegs (L P : List Nat) : List Nat :=
  [XEC_STAT, XEC_EVT, XEC_SF_CNT, XEC_XFER_STAT] ++ healthRegs ++ P.map XEC_PAIR_STAT ++ L.flatMap strandSlRegs

theorem mem_strandRegs {L P : List Nat} {a : Nat} : a ∈ strandRegs L P ↔
    a ∈ [XEC_STAT, XEC_EVT, XEC_SF_CNT, XEC_XFER_STAT] ∨ a ∈ healthRegs ∨ (∃ p ∈ P, XEC_PAIR_STAT p = a) ∨ ∃ n ∈ L, a ∈ strandSlRegs n := by
  simp only [strandRegs, List.mem_append, List.mem_map, List.mem_flatMap, or_assoc]

theorem strandRegs_mono {L L' P P' : List Nat} (hL : L ⊆ L') (hP : P ⊆ P') : strandRegs L P ⊆ strandRegs L' P' := by
  intro a ha
  rw [mem_strandRegs] at ha ⊢
  rcases ha with h | h | ⟨p, hp, h⟩ | ⟨n, hn, h⟩
  · exact .inl h
  · exact .inr (.inl h)
  · exact .inr (.inr (.inl ⟨p, hP hp, h⟩))
  · exact .inr (.inr (.inr ⟨n, hL hn, h⟩))

/-- What stranding the slices `L` of the pairs `P` leaves of `s`. -/
structure Stranding (L P : List Nat) (s t : State) : Prop where
  canon : t.Canonical
  mem   : t.mem = s.mem
  regs  : RegsBut (strandRegs L P) s t
  evts  : ∀ i, s.bit XEC_EVT i = true → t.bit XEC_EVT i = true
  limit : t.fld RED_HEALTH 1 0 = s.fld RED_HEALTH 1 0
  other : ∀ m, m ∉ L → t.sl m = s.sl m
  pr    : ∀ q, (t.pr q).isolated = (s.pr q).isolated ∧ ((s.pr q).running = 0 → (t.pr q).running = 0)

namespace Stranding

variable {L L' P P' : List Nat} {t u : State}

theorem refl (hs : s.Canonical) : Stranding L P s s :=
  ⟨hs, rfl, .of_regs rfl, fun _ => id, rfl, fun _ _ => rfl, fun _ => ⟨rfl, id⟩⟩

theorem trans (h : Stranding L P s t) (k : Stranding L P t u) : Stranding L P s u where
  canon := k.canon
  mem := k.mem.trans h.mem
  regs := RegsBut.trans h.regs k.regs
  evts i := k.evts i ∘ h.evts i
  limit := k.limit.trans h.limit
  other m hm := (k.other m hm).trans (h.other m hm)
  pr q := ⟨(k.pr q).1.trans (h.pr q).1, fun h0 => (k.pr q).2 ((h.pr q).2 h0)⟩

theorem mono (h : Stranding L P s t) (hL : L ⊆ L') (hP : P ⊆ P') : Stranding L' P' s t :=
  { h with regs := h.regs.mono (strandRegs_mono hL hP), other := fun m hm => h.other m fun hin => hm (hL hin) }

/-- A change of registers, of which `XEC_EVT` and `RED_HEALTH` are none, and of the transfer unit. -/
theorem quiet (h : Stranding L P s t) (hu : u = { t with regs := u.regs, xfer := u.xfer }) (hc : u.Canonical)
    (hregs : RegsBut (strandRegs L P) t u) (hevt : u.rd XEC_EVT = t.rd XEC_EVT) (hlimit : u.rd RED_HEALTH = t.rd RED_HEALTH) :
    Stranding L P s u where
  canon := hc
  mem := by rw [hu]; exact h.mem
  regs := RegsBut.trans h.regs hregs
  evts i hi := by rw [bit, hevt]; exact h.evts i hi
  limit := by rw [fld, hlimit]; exact h.limit
  other m hm := by rw [hu]; exact h.other m hm
  pr q := by rw [hu]; exact h.pr q

/-- Where a register is none of those written. -/
theorem rd {a : Nat} (h : Stranding L P s t) (hx : a ∉ [XEC_STAT, XEC_EVT, XEC_SF_CNT, XEC_XFER_STAT]) (hh : a ∉ healthRegs)
    (hp : ∀ p ∈ P, XEC_PAIR_STAT p ≠ a) (hl : ∀ n ∈ L, a ∉ strandSlRegs n) : t.rd a = s.rd a := by
  refine h.regs a fun ha => ?_
  rcases mem_strandRegs.mp ha with ha | ha | ⟨p, hm, ha⟩ | ⟨n, hm, ha⟩
  · exact hx ha
  · exact hh ha
  · exact hp p hm ha
  · exact hl n hm ha

/-- A register of a slice that is none of those stranded. -/
theorem slReg (h : Stranding L P s t) (hP : ∀ p ∈ P, p < 12) (hL : ∀ n ∈ L, n < 256) {m a : Nat} (hm : m < 256) (hmL : m ∉ L)
    (ha : a ∈ XEC_SL_CFG m :: strandSlRegs m) : t.rd a = s.rd a := by
  have hcases : a = 0x6000710000 + 0x40 * m ∨ a = 0x6000710010 + 0x40 * m ∨ a = 0x6000710014 + 0x40 * m ∨
      a = 0x6000730018 + 0x20 * m ∨ a = 0x6000730010 + 0x20 * m := by
    simpa only [strandSlRegs, List.mem_cons, List.not_mem_nil, or_false, XEC_SL_CFG, XEC_SL_STAT, XEC_SL_EVT, XEC_SL_XEVT, XEC_SL_XSTAT]
      using ha
  refine h.rd ?_ (xec_not_healthReg (by omega) (by omega)) (fun p hp => ?_) fun n hn => ?_
  · simp only [XEC_STAT, XEC_EVT, XEC_SF_CNT, XEC_XFER_STAT, List.mem_cons, List.not_mem_nil, or_false]
    omega
  · have := hP p hp
    unfold XEC_PAIR_STAT
    omega
  · have hn256 := hL n hn
    have hne : n ≠ m := fun e => hmL (e ▸ hn)
    simp only [strandSlRegs, XEC_SL_STAT, XEC_SL_EVT, XEC_SL_XEVT, XEC_SL_XSTAT, List.mem_cons, List.not_mem_nil, or_false]
    omega

theorem cfg (h : Stranding L P s t) (hP : ∀ p ∈ P, p < 12) (hL : ∀ n ∈ L, n < 256) {m : Nat} (hm : m < 256) :
    t.rd (XEC_SL_CFG m) = s.rd (XEC_SL_CFG m) := by
  refine h.rd ?_ (xec_not_healthReg (by unfold XEC_SL_CFG; omega) (by unfold XEC_SL_CFG; omega)) (fun p hp => ?_) fun n hn => ?_
  · simp only [XEC_SL_CFG, XEC_STAT, XEC_EVT, XEC_SF_CNT, XEC_XFER_STAT, List.mem_cons, List.not_mem_nil, or_false]
    omega
  · have := hP p hp
    unfold XEC_PAIR_STAT XEC_SL_CFG
    omega
  · have := hL n hn
    simp only [strandSlRegs, XEC_SL_CFG, XEC_SL_STAT, XEC_SL_EVT, XEC_SL_XEVT, XEC_SL_XSTAT, List.mem_cons, List.not_mem_nil, or_false]
    omega

theorem hosted (h : Stranding L P s t) (hP : ∀ p ∈ P, p < 12) (hL : ∀ n ∈ L, n < 256) (q : Nat) : t.hosted q = s.hosted q := by
  refine List.filter_congr fun m hm => ?_
  have hcfg := h.cfg hP hL (List.mem_range.mp hm)
  rw [slEn, slPair, bit, fld, hcfg]
  rfl

theorem pairState (h : Stranding L P s t) (hL : ∀ n ∈ L, n < 256) {q : Nat} (hq : q < 12) (hqP : q ∉ P) :
    t.pairState q = s.pairState q := by
  refine pairState_congr (h.rd ?_ (xec_not_healthReg ?_ ?_) (fun p hp => pairStat_inj fun e => hqP (e ▸ hp)) fun n hn => ?_)
  · simp only [XEC_PAIR_STAT, XEC_STAT, XEC_EVT, XEC_SF_CNT, XEC_XFER_STAT, List.mem_cons, List.not_mem_nil, or_false]
    omega
  · unfold XEC_PAIR_STAT; omega
  · unfold XEC_PAIR_STAT; omega
  · have := hL n hn
    simp only [strandSlRegs, XEC_PAIR_STAT, XEC_SL_STAT, XEC_SL_EVT, XEC_SL_XEVT, XEC_SL_XSTAT, List.mem_cons, List.not_mem_nil, or_false]
    omega

/-- A slice stopped before, and not stranded again, is stopped. -/
theorem stays (h : Stranding L P s t) (hP : ∀ p ∈ P, p < 12) (hL : ∀ n ∈ L, n < 256) {m : Nat} (hm : m < 256) (hmL : m ∉ L)
    (hst : Stopped m s) : Stopped m t := by
  obtain ⟨hrun, hpass, hheld⟩ := hst
  have hstat : t.rd (XEC_SL_STAT m) = s.rd (XEC_SL_STAT m) := h.slReg hP hL hm hmL (by simp [strandSlRegs])
  have hsl := h.other m hmL
  refine ⟨?_, by rw [hsl, hpass], by rw [hsl, hheld]⟩
  rw [run, fld, hstat]
  exact hrun

end Stranding

end State

end Sys2Proof.Machine
end

section
/-!
PROOF. Slices and pairs stranded (R179, R235): that each slice stops and each pair begins its self-test.
-/

namespace Sys2Proof.Machine

open Sys2Proof.Claims

/-- A word with a further bit set keeps its other bits. -/
theorem bitAt_raised {v i j : Nat} (h : bitAt v j = true) : bitAt (raised v i) j = true := by
  by_cases hj : j = i
  · subst hj
    exact bitAt_setBits_same (b := true)
  · rw [raised, bitAt_setBits_other (by omega) (by omega), h]

namespace State

variable {s : State}

theorem mem_hosted {p n : Nat} (h : n ∈ s.hosted p) : n < 256 ∧ s.slPair n = p := by
  obtain ⟨hn, hh⟩ := List.mem_filter.mp h
  exact ⟨List.mem_range.mp hn, by simpa using (Bool.and_eq_true_iff.mp hh).2⟩

/-- A stranded slice's transfer or arming is abandoned, and its life is RUNNABLE unless it quiesces (R235). -/
def strandLife (n : Nat) (s : State) : State :=
  let u := if (4 ≤ s.life n ∧ s.life n ≤ 6) ∨ (s.sl n).moveTo.isSome then (s.xferEnd n).lifeEvt n 6
    else if s.life n = 7 then s.lifeBusy n false else s
  let v := u.modSl n (fun sl => { sl with moveTo := none, armRel := none })
  if s.life n = 2 then v else v.setLife n 1

theorem strandSlice_eq (n : Nat) : s.strandSlice n =
    if (s.strandLife n).slCrit n = 0 then (s.strandLife n).sliceFault n else (s.strandLife n).stopSlice n := rfl

/-- The registers that the life of slice `n` writes are among those that stranding it writes. -/
theorem lifeRegs_subset (n : Nat) : [XEC_XFER_STAT, XEC_SL_XSTAT n, XEC_SL_XEVT n] ⊆ strandRegs [n] [] := by
  intro a ha
  rw [mem_strandRegs]
  simp only [List.mem_cons, List.not_mem_nil, or_false] at ha
  rcases ha with rfl | rfl | rfl
  · exact .inl (by simp)
  · exact .inr (.inr (.inr ⟨n, by simp, by simp [strandSlRegs]⟩))
  · exact .inr (.inr (.inr ⟨n, by simp, by simp [strandSlRegs]⟩))

theorem strandLife_stranding (hs : s.Canonical) {n : Nat} (hn : n < 256) : Stranding [n] [] s (s.strandLife n) := by
  have hplace : ∀ a ∈ [XEC_XFER_STAT, XEC_SL_XSTAT n, XEC_SL_XEVT n], a ≠ XEC_EVT ∧ a ≠ RED_HEALTH := by
    intro a ha
    simp only [XEC_XFER_STAT, XEC_SL_XSTAT, XEC_SL_XEVT, List.mem_cons, List.not_mem_nil, or_false] at ha
    unfold XEC_EVT RED_HEALTH
    omega
  have hset : ∀ {t : State} {a v : Nat}, Stranding [n] [] s t → a ∈ [XEC_XFER_STAT, XEC_SL_XSTAT n, XEC_SL_XEVT n] →
      Stranding [n] [] s (t.setReg a v) := fun h ha =>
    h.quiet rfl (canonical_setReg h.canon) (regsBut_setReg.mono (by simpa using lifeRegs_subset n ha))
      (rd_setReg_ne (hplace _ ha).1.symm) (rd_setReg_ne (hplace _ ha).2.symm)
  unfold strandLife
  dsimp only
  have hbusy : ∃ u, (if (4 ≤ s.life n ∧ s.life n ≤ 6) ∨ (s.sl n).moveTo.isSome then (s.xferEnd n).lifeEvt n 6
      else if s.life n = 7 then s.lifeBusy n false else s) = u ∧ Stranding [n] [] s u := by
    refine ⟨_, rfl, ?_⟩
    split
    · have hx : Stranding [n] [] s { s with xfer := none } := (Stranding.refl hs).quiet rfl hs (.of_regs rfl) rfl rfl
      exact hset (hset (hset hx (by simp)) (by simp)) (by simp)
    · split
      · exact hset (.refl hs) (by simp)
      · exact .refl hs
  obtain ⟨u, hu, hstr⟩ := hbusy
  rw [hu]
  have hmod : Stranding [n] [] s (u.modSl n fun sl => { sl with moveTo := none, armRel := none }) :=
    { canon := canonical_modSl hstr.canon, mem := hstr.mem, regs := RegsBut.congr hstr.regs rfl, evts := hstr.evts, limit := hstr.limit
      other := fun m hm => (sl_modSl_other (by simpa using hm)).trans (hstr.other m hm), pr := hstr.pr }
  split
  · exact hmod
  · exact hset hmod (by simp)

/-- R179, R189: a stranded slice stops. -/
theorem strandSlice_effect (hs : s.Canonical) {n : Nat} (hn : n < 256) :
    Stranding [n] [] s (s.strandSlice n) ∧ Stopped n (s.strandSlice n) := by
  have hlife := strandLife_stranding hs hn
  rw [strandSlice_eq]
  generalize s.strandLife n = u at hlife ⊢
  have hslstat : XEC_SL_STAT n ∈ strandSlRegs n ∧ XEC_SL_EVT n ∈ strandSlRegs n := by simp [strandSlRegs]
  split
  · have h := sliceFault_faulted hlife.canon hn
    refine ⟨hlife.trans ⟨h.canon, h.mem, h.regs.mono ?_, fun i hi => ?_, h.limit, fun m hm => h.other m (by simpa using hm), h.pr⟩,
      h.stopped⟩
    · intro a ha
      rw [mem_strandRegs]
      simp only [List.mem_append, List.mem_cons, List.not_mem_nil, or_false] at ha
      rcases ha with (rfl | rfl | rfl | rfl | rfl) | ha
      · exact .inr (.inr (.inr ⟨n, by simp, hslstat.1⟩))
      · exact .inr (.inr (.inr ⟨n, by simp, hslstat.2⟩))
      · exact .inl (by simp)
      · exact .inl (by simp)
      · exact .inl (by simp)
      · exact .inr (.inl ha)
    · rw [bit, h.raised]
      exact bitAt_raised hi
  · have h := stopSlice_stopped hlife.canon hn
    have hevt : XEC_EVT ∉ [XEC_SL_STAT n, XEC_STAT] := by
      simp only [XEC_EVT, XEC_SL_STAT, XEC_STAT, List.mem_cons, List.not_mem_nil, or_false]
      omega
    have hred : RED_HEALTH ∉ [XEC_SL_STAT n, XEC_STAT] := by
      simp only [RED_HEALTH, XEC_SL_STAT, XEC_STAT, List.mem_cons, List.not_mem_nil, or_false]
      omega
    refine ⟨hlife.trans ⟨h.canon, by rw [h.only], h.regs.mono ?_, fun i hi => ?_, ?_, fun m hm => h.other m (by simpa using hm), h.pr⟩,
      h.stopped⟩
    · intro a ha
      rw [mem_strandRegs]
      simp only [List.mem_cons, List.not_mem_nil, or_false] at ha
      rcases ha with rfl | rfl
      · exact .inr (.inr (.inr ⟨n, by simp, hslstat.1⟩))
      · exact .inl (by simp)
    · rw [bit, h.regs _ hevt]
      exact hi
    · rw [fld, fld, h.regs _ hred]

theorem each_strandSlice {l : List Nat} (hs : s.Canonical) (hl : ∀ n ∈ l, n < 256) :
    Stranding l [] s (s.each l State.strandSlice) ∧
    ∀ m, m < 256 → m ∈ l ∨ Stopped m s → Stopped m (s.each l State.strandSlice) := by
  induction l generalizing s with
  | nil => exact ⟨.refl hs, fun m _ h => h.resolve_left List.not_mem_nil⟩
  | cons n l ih =>
    have hn := hl n List.mem_cons_self
    obtain ⟨hone, hstop⟩ := strandSlice_effect hs hn
    obtain ⟨hrest, hstops⟩ := ih hone.canon fun m hm => hl m (List.mem_cons_of_mem _ hm)
    refine ⟨(hone.mono (by simp) (List.Subset.refl _)).trans (hrest.mono (List.subset_cons_self _ _) (List.Subset.refl _)), ?_⟩
    intro m hm h
    refine hstops m hm ?_
    by_cases hmn : m = n
    · exact .inr (hmn ▸ hstop)
    · rcases h with h | h
      · exact .inl ((List.mem_cons.mp h).resolve_left hmn)
      · exact .inr (hone.stays (by simp) (by simpa using hn) hm (by simpa using hmn) h)

/-- Putting a pair's state is a part of stranding it. -/
theorem PairPut.stranding {p st : Nat} {t : State} (h : PairPut p st s t) (hs : s.Canonical) : Stranding [] [p] s t := by
  have hplace : ∀ a ∈ [XEC_EVT, RED_HEALTH], a ∉ [XEC_PAIR_STAT p, XEC_STAT] := by
    intro a ha
    simp only [XEC_EVT, RED_HEALTH, List.mem_cons, List.not_mem_nil, or_false] at ha
    simp only [XEC_PAIR_STAT, XEC_STAT, List.mem_cons, List.not_mem_nil, or_false]
    omega
  refine (Stranding.refl hs).quiet (by rw [h.only]) h.canon (h.regs.mono fun a ha => ?_) (h.regs _ (hplace _ (by simp)))
    (h.regs _ (hplace _ (by simp)))
  rw [mem_strandRegs]
  simp only [List.mem_cons, List.not_mem_nil, or_false] at ha
  rcases ha with rfl | rfl
  · exact .inr (.inr (.inl ⟨p, by simp, rfl⟩))
  · exact .inl (by simp)

/-- R179: the slices of a stranded pair stop and the pair begins its self-test. -/
theorem strandPair_effect (hs : s.Canonical) {p : Nat} (hp : p < 12) :
    Stranding (s.hosted p) [p] s (s.strandPair p) ∧ (s.strandPair p).pairState p = 4 ∧
    ∀ m, m < 256 → m ∈ s.hosted p ∨ Stopped m s → Stopped m (s.strandPair p) := by
  obtain ⟨hstr, hstop⟩ := each_strandSlice hs fun n hn => (mem_hosted hn).1
  unfold strandPair
  generalize s.each (s.hosted p) State.strandSlice = u at hstr hstop ⊢
  have hput := setPair_put (p := p) (st := 4) hstr.canon (by decide)
  have hone := hput.stranding hstr.canon
  exact ⟨(hstr.mono (List.Subset.refl _) (List.nil_subset _)).trans (hone.mono (List.nil_subset _) (List.Subset.refl _)), hput.state,
    fun m hm h => hone.stays (by simpa using hp) (by simp) hm (by simp) (hstop m hm h)⟩

/-- The event of a pair stranded. -/
theorem strandEvt (hs : s.Canonical) : Stranding [] [] s (s.evt XEC_EVT 2) ∧ (s.evt XEC_EVT 2).bit XEC_EVT 2 = true := by
  have hok := Canonical.regsOk hs
  have hset : (s.evt XEC_EVT 2).bit XEC_EVT 2 = true := bit_evt_same hok (by decide)
  refine ⟨⟨canonical_setReg hs, rfl, regsBut_setReg.mono (by decide), fun i hi => ?_, ?_, fun _ _ => rfl, fun _ => ⟨rfl, id⟩⟩, hset⟩
  · by_cases h2 : i = 2
    · rw [h2]; exact hset
    · rw [bit_evt_other hok (by decide) (.inr (Ne.symm h2))]
      exact hi
  · rw [fld, rd_evt_ne (by decide)]
    rfl

theorem each_strandPair {P : List Nat} (hs : s.Canonical) (hP : ∀ p ∈ P, p < 12) :
    let t := s.each P fun p s => (s.strandPair p).evt XEC_EVT 2
    Stranding (P.flatMap s.hosted) P s t ∧ (∀ q, q < 12 → q ∈ P ∨ s.pairState q = 4 → t.pairState q = 4) ∧
    (P ≠ [] ∨ s.bit XEC_EVT 2 = true → t.bit XEC_EVT 2 = true) ∧
    ∀ m, m < 256 → (∃ p ∈ P, m ∈ s.hosted p) ∨ Stopped m s → Stopped m t := by
  induction P generalizing s with
  | nil =>
    refine ⟨.refl hs, fun q _ h => h.resolve_left List.not_mem_nil, fun h => h.resolve_left (by simp), fun m _ h => ?_⟩
    refine h.resolve_left ?_
    rintro ⟨p, hp, -⟩
    cases hp
  | cons p P ih =>
    have hp := hP p List.mem_cons_self
    have hhost : ∀ n ∈ s.hosted p, n < 256 := fun n hn => (mem_hosted hn).1
    obtain ⟨hpair, hstate, hstop⟩ := strandPair_effect hs hp
    obtain ⟨hevt, hset⟩ := strandEvt hpair.canon
    have hone := hpair.trans (hevt.mono (List.nil_subset _) (List.nil_subset _))
    have hstate' : ((s.strandPair p).evt XEC_EVT 2).pairState p = 4 := (hevt.pairState (by simp) hp (by simp)).trans hstate
    have hstop' : ∀ m, m < 256 → m ∈ s.hosted p ∨ Stopped m s → Stopped m ((s.strandPair p).evt XEC_EVT 2) := fun m hm h =>
      hevt.stays (by simp) (by simp) hm (by simp) (hstop m hm h)
    have hhosted := fun q => hone.hosted (by simpa using hp) hhost q
    obtain ⟨hrest, hstates, hevts, hstops⟩ := ih (s := (s.strandPair p).evt XEC_EVT 2) hone.canon fun q hq => hP q (List.mem_cons_of_mem _ hq)
    have hlist : P.flatMap ((s.strandPair p).evt XEC_EVT 2).hosted = P.flatMap s.hosted := by
      rw [funext hhosted]
    rw [hlist] at hrest
    refine ⟨(hone.mono ?_ ?_).trans (hrest.mono ?_ (List.subset_cons_self _ _)), fun q hq h => hstates q hq ?_, fun _ => hevts (.inr hset),
      fun m hm h => hstops m hm ?_⟩
    · simp [List.flatMap_cons]
    · simp
    · simp [List.flatMap_cons]
    · by_cases hqp : q = p
      · exact .inr (hqp ▸ hstate')
      · rcases h with h | h
        · exact .inl ((List.mem_cons.mp h).resolve_left hqp)
        · exact .inr ((hone.pairState hhost hq (by simpa using hqp)).trans h)
    · rcases h with ⟨q, hq, hm'⟩ | h
      · rcases List.mem_cons.mp hq with rfl | hq
        · exact .inr (hstop' m hm (.inl hm'))
        · exact .inl ⟨q, hq, by rw [hhosted]; exact hm'⟩
      · exact .inr (hstop' m hm (.inr h))

/-- The pairs that wait for a spare (R179). -/
def waitingPairs (s : State) : List Nat := (List.range 12).filter fun p => s.pairState p == 3

theorem mem_waitingPairs {p : Nat} : p ∈ s.waitingPairs ↔ p < 12 ∧ s.pairState p = 3 := by
  simp [waitingPairs]

theorem strand_eq : s.strand = if s.spareValid then s else s.each s.waitingPairs fun p s => (s.strandPair p).evt XEC_EVT 2 := rfl

/-- With a spare, or with no pair that waits for one, nothing is stranded. -/
theorem strand_idle (h : s.spareValid = true ∨ ∀ q, q < 12 → s.pairState q ≠ 3) : s.strand = s := by
  rw [strand_eq]
  split
  · rfl
  · have hnone := h.resolve_left ‹_›
    have hnil : s.waitingPairs = [] := List.filter_eq_nil_iff.mpr fun p hp => by simp [hnone p (List.mem_range.mp hp)]
    rw [hnil]
    rfl

/-- What stranding leaves of `s`, where no spare is valid: each waiting pair with its slices. -/
theorem strand_effect (hs : s.Canonical) (hnone : s.spareValid = false) :
    Stranding (s.waitingPairs.flatMap s.hosted) s.waitingPairs s s.strand ∧
    (∀ q, q < 12 → s.pairState q = 3 ∨ s.pairState q = 4 → s.strand.pairState q = 4) ∧
    ((∃ q, q < 12 ∧ s.pairState q = 3) ∨ s.bit XEC_EVT 2 = true → s.strand.bit XEC_EVT 2 = true) ∧
    ∀ q, q < 12 → s.pairState q = 3 → ∀ m ∈ s.hosted q, Stopped m s.strand := by
  obtain ⟨hstr, hstate, hevt, hstop⟩ := each_strandPair hs fun p hp => (mem_waitingPairs (s := s).mp hp).1
  rw [strand_eq, if_neg (by simp [hnone])]
  refine ⟨hstr, fun q hq h => hstate q hq (h.imp_left fun h => mem_waitingPairs.mpr ⟨hq, h⟩), fun h => hevt ?_, fun q hq hst m hm =>
    hstop m (mem_hosted hm).1 (.inl ⟨q, mem_waitingPairs.mpr ⟨hq, hst⟩, hm⟩)⟩
  refine h.imp_left ?_
  rintro ⟨q, hq, hst⟩
  exact List.ne_nil_of_mem (mem_waitingPairs.mpr ⟨hq, hst⟩)

theorem hosted_waiting_lt : ∀ n ∈ s.waitingPairs.flatMap s.hosted, n < 256 := fun n hn => by
  obtain ⟨p, -, hn⟩ := List.mem_flatMap.mp hn
  exact (mem_hosted hn).1

theorem waitingPairs_lt : ∀ p ∈ s.waitingPairs, p < 12 := fun _ hp => (mem_waitingPairs.mp hp).1

end State

end Sys2Proof.Machine
end

section
/-!
PROOF. Commands to a pair and its self-test (R177–R179, R323).
-/

namespace Sys2Proof.Machine

open Sys2Proof.Claims

/-! ### What a change of health leaves of pairs and slices -/

namespace HealthStep

variable {k : Nat} {s t : State}

theorem pairState (h : HealthStep k s t) {q : Nat} (hq : q < 12) : t.pairState q = s.pairState q :=
  State.pairState_congr (h.rd_xec (by unfold XEC_PAIR_STAT; omega) (by unfold XEC_PAIR_STAT; omega))

theorem spareValid (h : HealthStep k s t) : t.spareValid = s.spareValid :=
  congrArg (bitAt · 2) (h.rd_xec (by decide) (by decide))

theorem stopped (h : HealthStep k s t) {n : Nat} (hn : n < 256) (hst : Stopped n s) : Stopped n t := by
  obtain ⟨hrun, hpass, hheld⟩ := hst
  have hstat : t.rd (XEC_SL_STAT n) = s.rd (XEC_SL_STAT n) := h.rd_xec (by unfold XEC_SL_STAT; omega) (by unfold XEC_SL_STAT; omega)
  refine ⟨?_, by rw [h.sl, hpass], by rw [h.sl, hheld]⟩
  rw [State.run, State.fld, hstat]
  exact hrun

theorem xecBit (h : HealthStep k s t) {a i : Nat} (hlo : 0x6000700000 ≤ a) (hhi : a < 0x6000800000) : t.bit a i = s.bit a i :=
  congrArg (bitAt · i) (h.rd_xec hlo hhi)

end HealthStep

namespace State

variable {s : State}

/-! ### Commands (R177, R178) -/

theorem pairPut_limit {p st : Nat} {t : State} (h : PairPut p st s t) : t.fld RED_HEALTH 1 0 = s.fld RED_HEALTH 1 0 := by
  rw [fld, fld, h.regs]
  simp only [RED_HEALTH, XEC_PAIR_STAT, XEC_STAT, List.mem_cons, List.not_mem_nil, or_false]
  omega

/-- R177, R178: a pair put into a state that strands no other. -/
theorem pairTaken_effect (hs : s.Canonical) {p st : Nat} (hp : p < 12) (hst : st < 8) (h3 : st ≠ 3)
    (hspare : st = 2 ∨ (∃ q, q < 12 ∧ q ≠ p ∧ s.pairState q = 2) ∨ ∀ q, q < 12 → s.pairState q ≠ 3) :
    let u := ((s.setPair p st).strand).healthUpdate
    u.pairState p = st ∧ (∀ q, q < 12 → q ≠ p → u.pairState q = s.pairState q) ∧
    (u.spareValid = true ↔ ∃ q, q < 12 ∧ u.pairState q = 2) ∧ HealthShown s u ∧
    RegsBut ([XEC_PAIR_STAT p, XEC_STAT] ++ healthRegs) s u ∧ u.mem = s.mem ∧ u.slices = s.slices ∧ u.pairs = s.pairs := by
  dsimp only
  have hput := setPair_put (p := p) (st := st) hs hst
  generalize s.setPair p st = v at hput
  have hidle : v.strand = v := strand_idle (by
    rcases hspare with rfl | ⟨q, hq, hqp, hq2⟩ | hno
    · exact .inl (hput.spare.mpr ⟨p, hp, hput.state⟩)
    · exact .inl (hput.spare.mpr ⟨q, hq, (hput.other q hqp).trans hq2⟩)
    · refine .inr fun q hq => ?_
      by_cases hqp : q = p
      · rw [hqp, hput.state]; exact h3
      · rw [hput.other q hqp]; exact hno q hq)
  rw [hidle]
  have hstep := v.healthUpdate_step
  refine ⟨(hstep.pairState hp).trans hput.state, fun q hq hqp => (hstep.pairState hq).trans (hput.other q hqp), ?_,
    healthShown_healthUpdate (Canonical.regsOk hput.canon) (pairPut_limit hput), ?_, ?_, ?_, ?_⟩
  · rw [hstep.spareValid, hput.spare]
    exact exists_congr fun q => and_congr_right fun hq => by rw [hstep.pairState hq]
  · exact RegsBut.trans (hput.regs.mono (List.subset_append_left _ _)) (hstep.regs.mono (List.subset_append_right _ _))
  all_goals rw [hstep.only, hput.only]

/-- R179: a pair put into a state that leaves no spare strands those that wait for one. -/
theorem pairTaken_strands (hs : s.Canonical) {p st : Nat} (hp : p < 12) (hst : st < 8) (h3 : st ≠ 3) (h2 : st ≠ 2)
    (hnone : ¬∃ q, q < 12 ∧ q ≠ p ∧ s.pairState q = 2) :
    let u := ((s.setPair p st).strand).healthUpdate
    u.pairState p = st ∧ HealthShown s u ∧ u.mem = s.mem ∧ ∀ q, q < 12 → q ≠ p → s.pairState q = 3 →
      u.pairState q = 4 ∧ u.bit XEC_EVT 2 = true ∧ ∀ n ∈ s.hosted q, Stopped n u := by
  dsimp only
  have hput := setPair_put (p := p) (st := st) hs hst
  generalize s.setPair p st = v at hput
  have hvalid : v.spareValid = false := by
    rw [Bool.eq_false_iff]
    intro hv
    obtain ⟨q, hq, hq2⟩ := hput.spare.mp hv
    by_cases hqp : q = p
    · rw [hqp, hput.state] at hq2
      exact h2 hq2
    · exact hnone ⟨q, hq, hqp, (hput.other q hqp).symm.trans hq2⟩
  obtain ⟨hstr, hstate, hevt, hstop⟩ := strand_effect hput.canon hvalid
  have hhost : ∀ q, v.hosted q = s.hosted q := (hput.stranding hs).hosted (L := []) (P := [p]) (by simpa using hp) (by simp)
  have hstay : v.strand.pairState p = v.pairState p := hstr.pairState hosted_waiting_lt hp fun hm =>
    h3 (hput.state.symm.trans (mem_waitingPairs.mp hm).2)
  generalize v.strand = w at hstr hstate hevt hstop hstay
  have hstep := w.healthUpdate_step
  refine ⟨((hstep.pairState hp).trans hstay).trans hput.state,
    healthShown_healthUpdate (Canonical.regsOk hstr.canon) (hstr.limit.trans (pairPut_limit hput)), ?_, fun q hq hqp hq3 => ?_⟩
  · rw [hstep.mem, hstr.mem, hput.only]
  · have hv3 : v.pairState q = 3 := (hput.other q hqp).trans hq3
    refine ⟨(hstep.pairState hq).trans (hstate q hq (.inl hv3)), (hstep.xecBit (by decide) (by decide)).trans (hevt (.inl ⟨q, hq, hv3⟩)),
      fun n hn => hstep.stopped (mem_hosted hn).1 (hstop q hq hv3 n (by rw [hhost]; exact hn))⟩

/-- A pair command that slice 0 or the debug port writes. -/
theorem pairCmd_open {w : Who} (h : Sup w 7 s) {p : Nat} (hp : p < 12) (ok : State → Bool) (st : Nat) :
    s.pairCmd w p ok st = if ok (s.ok w) then ((((s.ok w).setPair p st).strand).healthUpdate).dispatch p
      else (s.ok w).evt (XEC_PAIR_EVT p) 4 := by
  refine gateSup_of_sup h ?_
  interval_cases p <;> decide

/-! ### The self-test (R178) -/

/-- The pair's state and the outcome of its self-test shown, with the health. -/
theorem selfTest_put (hs : s.Canonical) {p st i : Nat} {pass : Bool} (hp : p < 12) (hst : st < 8) (hi : i < 32) :
    let t := (((s.setPair p st).setBit (XEC_PAIR_STAT p) 16 pass).evt (XEC_PAIR_EVT p) i).healthUpdate
    t.pairState p = st ∧ t.bit (XEC_PAIR_STAT p) 16 = pass ∧ t.rd (XEC_PAIR_EVT p) = raised (s.rd (XEC_PAIR_EVT p)) i ∧
    HealthShown s t ∧ RegsBut ([XEC_PAIR_STAT p, XEC_PAIR_EVT p, XEC_STAT] ++ healthRegs) s t ∧ t.mem = s.mem ∧ t.slices = s.slices := by
  dsimp only
  have hput := setPair_put (p := p) (st := st) hs hst
  generalize s.setPair p st = v at hput
  have hstat : XEC_PAIR_STAT p = 0x6000701000 + 0x40 * p := rfl
  have hevt : XEC_PAIR_EVT p = 0x6000701008 + 0x40 * p := rfl
  have hxstat : XEC_STAT = 0x6000700014 := rfl
  have hred : RED_HEALTH = 0x6000C0002C := rfl
  have hok := Canonical.regsOk hput.canon
  have hok1 := regsOk_setBit (a := XEC_PAIR_STAT p) (i := 16) (v := pass) hok
  have hevtrd : v.rd (XEC_PAIR_EVT p) = s.rd (XEC_PAIR_EVT p) := hput.regs _ (by
    simp only [List.mem_cons, List.not_mem_nil, or_false]
    omega)
  have hstate : ((v.setBit (XEC_PAIR_STAT p) 16 pass).evt (XEC_PAIR_EVT p) i).pairState p = st := by
    rw [pairState, fld_evt_other hok1 hi (.inl (by omega)), fld_setBit_other hok (by decide) (.inr (.inr (by decide)))]
    exact hput.state
  have hbit : ((v.setBit (XEC_PAIR_STAT p) 16 pass).evt (XEC_PAIR_EVT p) i).bit (XEC_PAIR_STAT p) 16 = pass := by
    rw [bit_evt_other hok1 hi (.inl (by omega)), bit_setBit_same hok (by decide)]
  have hraised : ((v.setBit (XEC_PAIR_STAT p) 16 pass).evt (XEC_PAIR_EVT p) i).rd (XEC_PAIR_EVT p) = raised (s.rd (XEC_PAIR_EVT p)) i := by
    rw [rd_evt_same hok1 hi, rd_setBit_ne (by omega), hevtrd]
  have hregs : RegsBut [XEC_PAIR_STAT p, XEC_PAIR_EVT p, XEC_STAT] s ((v.setBit (XEC_PAIR_STAT p) 16 pass).evt (XEC_PAIR_EVT p) i) :=
    RegsBut.setReg (RegsBut.setReg (hput.regs.mono (by simp)) (by simp)) (by simp)
  have honly : ((v.setBit (XEC_PAIR_STAT p) 16 pass).evt (XEC_PAIR_EVT p) i) =
    { v with regs := ((v.setBit (XEC_PAIR_STAT p) 16 pass).evt (XEC_PAIR_EVT p) i).regs } := rfl
  have hwok := regsOk_evt (a := XEC_PAIR_EVT p) (i := i) hok1
  generalize (v.setBit (XEC_PAIR_STAT p) 16 pass).evt (XEC_PAIR_EVT p) i = w at hstate hbit hraised hregs honly hwok
  have hstep := w.healthUpdate_step
  refine ⟨(hstep.pairState hp).trans hstate, (hstep.xecBit (by omega) (by omega)).trans hbit,
    (hstep.rd_xec (by omega) (by omega)).trans hraised, healthShown_healthUpdate hwok ?_, ?_, ?_, ?_⟩
  · rw [fld, fld, hregs _ (by simp only [List.mem_cons, List.not_mem_nil, or_false]; omega)]
  · exact RegsBut.trans (hregs.mono (List.subset_append_left _ _)) (hstep.regs.mono (List.subset_append_right _ _))
  · rw [hstep.only, honly, hput.only]
  · rw [hstep.only, honly, hput.only]

end State

/-- What a pair command answers that puts state `st` where `admits` holds (R177–R179). -/
theorem pairCmd_answers {i : Instr} {w : Who} {p : Fin 12} {s : State} (hs : s.Canonical) (h : Sup w 7 s) {ok : State → Bool} {st : Nat}
    (hst : st < 8) (h3 : st ≠ 3) (hexec : exec i s = .next (s.pairCmd w p ok st)) {admits : Bool} (hadmits : ok (s.ok w) = admits) :
    (admits = true → st = 2 ∨ (∃ q, q < 12 ∧ q ≠ p.val ∧ s.pairState q = 2) ∨ (∀ q, q < 12 → s.pairState q ≠ 3) →
      Answers i s fun t => ∃ u : State, t = u.dispatch p ∧ u.pairState p = st ∧
      (∀ q, q < 12 → q ≠ p.val → u.pairState q = s.pairState q) ∧
      (u.spareValid = true ↔ ∃ q, q < 12 ∧ u.pairState q = 2) ∧ HealthShown s u ∧
      RegsBut ([XEC_PAIR_STAT p, XEC_STAT] ++ healthRegs) s u ∧ u.mem = s.mem ∧ u.slices = s.slices ∧ u.pairs = s.pairs) ∧
    (admits = true → st ≠ 2 → (¬∃ q, q < 12 ∧ q ≠ p.val ∧ s.pairState q = 2) →
      Answers i s fun t => ∃ u : State, t = u.dispatch p ∧ u.pairState p = st ∧ HealthShown s u ∧ u.mem = s.mem ∧
      ∀ q, q < 12 → q ≠ p.val → s.pairState q = 3 →
        u.pairState q = 4 ∧ u.bit XEC_EVT 2 = true ∧ ∀ n ∈ s.hosted q, Stopped n u) ∧
    (admits = false → Answers i s fun t =>
      t.rd (XEC_PAIR_EVT p) = raised (s.rd (XEC_PAIR_EVT p)) 4 ∧ Wrote [XEC_PAIR_EVT p] s t) := by
  rw [State.pairCmd_open h p.isLt, hadmits] at hexec
  have hc : (s.ok w).Canonical := (State.ok_kept (.refl s)).canonical hs
  refine ⟨fun hyes hspare => ?_, fun hyes h2 hnone => ?_, fun hno => ?_⟩
  · exact .of_exec hexec (if_pos hyes) ⟨_, rfl, State.pairTaken_effect hc p.isLt hst h3 hspare⟩
  · exact .of_exec hexec (if_pos hyes) ⟨_, rfl, State.pairTaken_strands hc p.isLt hst h3 h2 hnone⟩
  · exact .of_exec hexec (if_neg (by simp [hno])) ⟨State.rd_evt_same (State.Canonical.regsOk hc) (by decide),
      RegsBut.setReg (.of_regs rfl) (by simp), rfl⟩

/-- Settles O20: the four commands are one, with their own condition and state; the self-test shows its outcome. -/
theorem pairCommands : Obligations.PairCommands := by
  intro w p s hs
  refine ⟨fun x hx hsup => ?_, fun hst hiso => ?_, fun pass hst hfail => ?_, fun pass hst => .of_exec rfl (if_pos hst) rfl⟩
  · simp only [List.mem_cons, List.not_mem_nil, or_false] at hx
    rcases hx with rfl | rfl | rfl | rfl
    · exact pairCmd_answers (st := 2) hs hsup (by decide) (by decide) rfl rfl
    · exact pairCmd_answers (st := 1) hs hsup (by decide) (by decide) rfl rfl
    · exact pairCmd_answers (st := 0) hs hsup (by decide) (by decide) rfl rfl
    · exact pairCmd_answers (st := 4) hs hsup (by decide) (by decide) rfl rfl
  · refine .of_exec rfl ((if_neg (by simp [hst])).trans (if_pos ⟨rfl, hiso⟩)) (State.selfTest_put hs p.isLt ?_ (by decide))
    split <;> decide
  · refine .of_exec rfl ((if_neg (by simp [hst])).trans (if_neg ?_)) (State.selfTest_put hs p.isLt (by decide) (by decide))
    rintro ⟨hp, hle⟩
    rcases hfail with h | h
    · rw [h] at hp; cases hp
    · omega

end Sys2Proof.Machine
end

section
/-!
PROOF. A pair isolated by a mismatch or a stall (R176–R179).
-/

namespace Sys2Proof.Machine

open Sys2Proof.Claims

namespace State

variable {s : State}

theorem modSl_pr {n p : Nat} {f : Slice → Slice} : (s.modSl n f).pr p = s.pr p := rfl

theorem suspend_running (hs : s.Canonical) (p : Nat) : ((s.suspend p).pr p).running = 0 := by
  unfold suspend
  dsimp only
  split
  · assumption
  · split
    · rw [setRun_pr, modSl_pr, pr_modPr_same hs]
    · rw [setRun_pr, pr_modPr_same hs]

/-- The event number of an isolation: 1 for a stall, 0 for a mismatch. -/
def isoEvent (stall : Bool) : Nat := if stall then 1 else 0

/-- A pair taken off its slice, isolated and counted (R176). -/
def isolateMarked (p : Nat) (stall : Bool) (s : State) : State :=
  let s := s.suspend p
  let s := ((s.setPair p 3).evt (XEC_PAIR_EVT p) (if stall then 1 else 0)).inc (XEC_PAIR_MISMATCH p)
  let s := s.modPr p (fun q => { q with isolated := q.isolated + 1, isoAt := s.clk })
  let s := if stall then s else s.evt XEC_EVT 0
  s.ledger (if stall then 3 else 6) 7 p (XEC_PAIR_EVT p) (if stall then 1 else 0) []

/-- The captures of its slices given up; a pair without slices begins its self-test (R178, R180). -/
def isolateReady (p : Nat) (s : State) : State :=
  let l := s.hosted p
  let s := s.each l (fun n s => s.modSl n (fun sl => { sl with capture := none }))
  if l.isEmpty then s.setPair p 4 else s

theorem isolate_eq (p : Nat) (stall : Bool) : s.isolate p stall = (((s.isolateMarked p stall).isolateReady p).strand).healthUpdate := rfl

/-- The registers that an isolation of pair `p` writes beside those of stranding. -/
def isolateRegs (p : Nat) : List Nat :=
  [XEC_PAIR_STAT p, XEC_PAIR_EVT p, XEC_PAIR_MISMATCH p, XEC_STAT, XEC_EVT] ++ stageRegs ++ slStats

/-- What isolating pair `p` leaves of `s`, before any slice is stranded; `st` is the pair's state. -/
structure Isolating (p ev st : Nat) (s t : State) : Prop where
  canon    : t.Canonical
  mem      : t.mem = s.mem
  regs     : RegsBut (isolateRegs p) s t
  state    : t.pairState p = st
  other    : ∀ q, q ≠ p → q < 12 → t.pairState q = s.pairState q
  spare    : t.spareValid = true ↔ ∃ q, q < 12 ∧ t.pairState q = 2
  event    : t.bit (XEC_PAIR_EVT p) ev = true
  count    : t.rd (XEC_PAIR_MISMATCH p) = incSat 32 (s.rd (XEC_PAIR_MISMATCH p))
  isolated : (t.pr p).isolated = (s.pr p).isolated + 1
  running  : (t.pr p).running = 0

/-- The registers of pair `p` stand at places of their own. -/
theorem pairRegs_apart {p : Nat} (hp : p < 12) :
    XEC_PAIR_EVT p ≠ XEC_PAIR_STAT p ∧ XEC_PAIR_EVT p ≠ XEC_PAIR_MISMATCH p ∧ XEC_PAIR_MISMATCH p ≠ XEC_PAIR_STAT p ∧
    XEC_PAIR_EVT p ≠ XEC_STAT ∧ XEC_PAIR_MISMATCH p ≠ XEC_STAT ∧ XEC_PAIR_EVT p ≠ XEC_EVT ∧ XEC_PAIR_MISMATCH p ≠ XEC_EVT ∧
    XEC_PAIR_EVT p ∉ slStats ∧ XEC_PAIR_MISMATCH p ∉ slStats ∧ XEC_PAIR_EVT p ∉ stageRegs ∧ XEC_PAIR_MISMATCH p ∉ stageRegs := by
  have hslots : ∀ a, a < 0x6000710000 → a ∉ slStats := fun a ha => not_slStat fun m _ => by unfold XEC_SL_STAT; omega
  have hstage : ∀ a, 0x6000700000 ≤ a → a < 0x6000710000 → a ∉ stageRegs := fun a hlo hhi => by
    simp only [stageRegs, LED_STAGE_DROP, LED_EVT, List.mem_cons, List.not_mem_nil, or_false]
    omega
  have hevt : XEC_PAIR_EVT p = 0x6000701008 + 0x40 * p := rfl
  have hstat : XEC_PAIR_STAT p = 0x6000701000 + 0x40 * p := rfl
  have hmis : XEC_PAIR_MISMATCH p = 0x6000701010 + 0x40 * p := rfl
  have hxs : XEC_STAT = 0x6000700014 := rfl
  have hxe : XEC_EVT = 0x6000700018 := rfl
  refine ⟨by omega, by omega, by omega, by omega, by omega, by omega, by omega, hslots _ (by omega), hslots _ (by omega),
    hstage _ (by omega) (by omega), hstage _ (by omega) (by omega)⟩

theorem not_quietRegs {a : Nat} (hne : a ≠ XEC_EVT) (hlo : 0x6000700000 ≤ a) (hhi : a < 0x6000800000) : a ∉ XEC_EVT :: stageRegs := by
  simp only [stageRegs, LED_STAGE_DROP, LED_EVT, List.mem_cons, List.not_mem_nil, or_false]
  omega

/-- A record of the isolation, its event, and a change of slices. -/
theorem Isolating.quiet {p ev st : Nat} {t u : State} (h : Isolating p ev st s t) (hp : p < 12)
    (hu : u = { t with regs := u.regs, led := u.led, slices := u.slices }) (hc : u.Canonical) (hregs : RegsBut (XEC_EVT :: stageRegs) t u) :
    Isolating p ev st s u := by
  obtain ⟨-, -, -, -, -, hev, hmv, -⟩ := pairRegs_apart hp
  have hstate : ∀ q, q < 12 → u.pairState q = t.pairState q := fun q hq =>
    pairState_congr (hregs _ (not_quietRegs (by unfold XEC_PAIR_STAT XEC_EVT; omega) (by unfold XEC_PAIR_STAT; omega)
      (by unfold XEC_PAIR_STAT; omega)))
  have hpr : u.pr p = t.pr p := by rw [hu]; rfl
  refine ⟨hc, by rw [hu]; exact h.mem, RegsBut.trans h.regs (hregs.mono ?_), (hstate p hp).trans h.state,
    fun q hqp hq => (hstate q hq).trans (h.other q hqp hq), ?_, ?_, ?_, by rw [hpr]; exact h.isolated, by rw [hpr]; exact h.running⟩
  · intro a ha
    simp only [isolateRegs, List.mem_append, List.mem_cons, List.not_mem_nil, or_false] at ha ⊢
    tauto
  · rw [spareValid, bit, hregs _ (by decide)]
    exact h.spare.trans (exists_congr fun q => and_congr_right fun hq => by rw [hstate q hq])
  · rw [bit, hregs _ (not_quietRegs hev (by unfold XEC_PAIR_EVT; omega) (by unfold XEC_PAIR_EVT; omega))]
    exact h.event
  · rw [hregs _ (not_quietRegs hmv (by unfold XEC_PAIR_MISMATCH; omega) (by unfold XEC_PAIR_MISMATCH; omega))]
    exact h.count

/-- The pair taken off its slice, its state, its event and its counts (R176). -/
theorem isolateCounted_effect (hs : s.Canonical) {p : Nat} (hp : p < 12) {ev : Nat} (hev32 : ev < 32) (now : Nat) :
    Isolating p ev 3 s (((((s.suspend p).setPair p 3).evt (XEC_PAIR_EVT p) ev).inc (XEC_PAIR_MISMATCH p)).modPr p
      fun q => { q with isolated := q.isolated + 1, isoAt := now }) := by
  obtain ⟨hes, hem, hms, hex, hmx, hev, hmv, hesl, hmsl, hest, hmst⟩ := pairRegs_apart hp
  have hran := s.suspend_ran p
  have hrun0 := suspend_running hs p
  have hiso : ((s.suspend p).pr p).isolated = (s.pr p).isolated :=
    (congrArg Pair.isolated (hran.pr hs p) : ((s.suspend p).pr p).still.isolated = (s.pr p).still.isolated)
  have hac := hran.canon hs
  generalize s.suspend p = a at hran hrun0 hiso hac ⊢
  have hput := setPair_put (p := p) (st := 3) hac (by decide)
  generalize a.setPair p 3 = b at hput ⊢
  have hbok := Canonical.regsOk hput.canon
  have hck : ((b.evt (XEC_PAIR_EVT p) ev).inc (XEC_PAIR_MISMATCH p)).Canonical := canonical_setReg (canonical_setReg hput.canon)
  have hcevt : ((b.evt (XEC_PAIR_EVT p) ev).inc (XEC_PAIR_MISMATCH p)).bit (XEC_PAIR_EVT p) ev = true := by
    rw [bit, rd_inc_ne hem]
    exact bit_evt_same hbok hev32
  have hccnt : ((b.evt (XEC_PAIR_EVT p) ev).inc (XEC_PAIR_MISMATCH p)).rd (XEC_PAIR_MISMATCH p) = incSat 32 (s.rd (XEC_PAIR_MISMATCH p)) := by
    rw [rd_inc_same (regsOk_evt hbok), rd_evt_ne hem.symm, hput.regs _ (by simp [hms, hmx]), hran.regs _ hmsl]
  have hcrd : ∀ r, r ≠ XEC_PAIR_EVT p → r ≠ XEC_PAIR_MISMATCH p → ((b.evt (XEC_PAIR_EVT p) ev).inc (XEC_PAIR_MISMATCH p)).rd r = b.rd r :=
    fun r h1 h2 => (rd_inc_ne h2).trans (rd_evt_ne h1)
  have hconly : (b.evt (XEC_PAIR_EVT p) ev).inc (XEC_PAIR_MISMATCH p) =
    { b with regs := ((b.evt (XEC_PAIR_EVT p) ev).inc (XEC_PAIR_MISMATCH p)).regs } := rfl
  generalize (b.evt (XEC_PAIR_EVT p) ev).inc (XEC_PAIR_MISMATCH p) = c at hck hcevt hccnt hcrd hconly ⊢
  have hcpr : c.pr p = a.pr p := by rw [hconly, hput.only]; rfl
  have hstate : ∀ q, q < 12 → c.pairState q = b.pairState q := fun q hq =>
    pairState_congr (hcrd _ (by unfold XEC_PAIR_STAT XEC_PAIR_EVT; omega) (by unfold XEC_PAIR_STAT XEC_PAIR_MISMATCH; omega))
  have hpr := pr_modPr_same (p := p) (f := fun q => { q with isolated := q.isolated + 1, isoAt := now }) hck
  refine ⟨canonical_modPr hck, ?_, ?_, (hstate p hp).trans hput.state, fun q hqp hq => ?_, ?_, hcevt, hccnt, ?_, ?_⟩
  · change c.mem = s.mem
    rw [hconly, hput.only, hran.only]
  · refine RegsBut.congr (t := c) (fun r hr => ?_) rfl
    simp only [isolateRegs, List.mem_append, List.mem_cons, List.not_mem_nil, or_false, not_or] at hr
    rw [hcrd r hr.1.1.2.1 hr.1.1.2.2.1, hput.regs r (by simp [hr.1.1.1, hr.1.1.2.2.2.1]), hran.regs r hr.2]
  · exact ((hstate q hq).trans (hput.other q hqp)).trans (pairState_congr (hran.regs _ (pairStat_not_slStat (by omega))))
  · have hx : c.spareValid = b.spareValid := congrArg (bitAt · 2) (hcrd _ hex.symm hmx.symm)
    change c.spareValid = true ↔ ∃ q, q < 12 ∧ c.pairState q = 2
    rw [hx, hput.spare]
    exact exists_congr fun q => and_congr_right fun hq => by rw [hstate q hq]
  · rw [hpr, hcpr, hiso]
  · rw [hpr, hcpr]
    exact hrun0

theorem isolateMarked_effect (hs : s.Canonical) {p : Nat} (hp : p < 12) (stall : Bool) :
    Isolating p (isoEvent stall) 3 s (s.isolateMarked p stall) ∧ (stall = false → (s.isolateMarked p stall).bit XEC_EVT 0 = true) := by
  have h := isolateCounted_effect hs hp (ev := isoEvent stall) (by cases stall <;> decide)
  have hled : ∀ (t : State) (r : LedRec), t.Canonical → Isolating p (isoEvent stall) 3 s t → Isolating p (isoEvent stall) 3 s (t.stageRec r) :=
    fun t r hc ht => ht.quiet hp (by rw [stageRec_only]) ((stageRec_kept (.refl t)).canonical hc)
      ((stageRec_regs t r).mono (List.subset_cons_self _ _))
  cases stall with
  | true => exact ⟨hled _ _ (h _).canon (h _), fun hf => absurd hf (by decide)⟩
  | false =>
    have hevt := fun now => (h now).quiet hp (u := State.evt XEC_EVT 0 _) rfl (canonical_setReg (h now).canon)
      (regsBut_setReg.mono (by simp))
    refine ⟨hled _ _ (hevt _).canon (hevt _), fun _ => ?_⟩
    refine (congrArg (bitAt · 0) (stageRec_rd (by decide))).trans ?_
    exact bit_evt_same (Canonical.regsOk (h _).canon) (by decide)

theorem Isolating.hosted {p ev st : Nat} {t : State} (h : Isolating p ev st s t) (hp : p < 12) (q : Nat) : t.hosted q = s.hosted q := by
  refine List.filter_congr fun m hm => ?_
  have hm := List.mem_range.mp hm
  have hcfg : t.rd (XEC_SL_CFG m) = s.rd (XEC_SL_CFG m) := h.regs _ (by
    simp only [isolateRegs, stageRegs, List.mem_append, List.mem_cons, List.not_mem_nil, or_false, not_or]
    refine ⟨⟨⟨?_, ?_, ?_, ?_, ?_⟩, ?_, ?_⟩, not_slStat fun k _ => by unfold XEC_SL_CFG XEC_SL_STAT; omega⟩
    · unfold XEC_SL_CFG XEC_PAIR_STAT; omega
    · unfold XEC_SL_CFG XEC_PAIR_EVT; omega
    · unfold XEC_SL_CFG XEC_PAIR_MISMATCH; omega
    · unfold XEC_SL_CFG XEC_STAT; omega
    · unfold XEC_SL_CFG XEC_EVT; omega
    · unfold XEC_SL_CFG LED_STAGE_DROP; omega
    · unfold XEC_SL_CFG LED_EVT; omega)
  rw [slEn, slPair, bit, fld, hcfg]
  rfl

/-- R178: a pair with slices waits, another begins its self-test. -/
theorem isolateReady_effect {p ev : Nat} {t : State} (h : Isolating p ev 3 s t) (hp : p < 12) :
    Isolating p ev (if (s.hosted p).isEmpty then 4 else 3) s (t.isolateReady p) ∧
    (t.bit XEC_EVT 0 = true → (t.isolateReady p).bit XEC_EVT 0 = true) := by
  obtain ⟨hes, hem, hms, hex, hmx, -⟩ := pairRegs_apart hp
  have heach : ∀ l : List Nat, (t.each l fun n s => s.modSl n fun sl => { sl with capture := none }) =
      { t with slices := (t.each l fun n s => s.modSl n fun sl => { sl with capture := none }).slices } ∧
      (t.each l fun n s => s.modSl n fun sl => { sl with capture := none }).Canonical := fun l =>
    each_invariant (P := fun u => u = { t with slices := u.slices } ∧ u.Canonical) ⟨rfl, h.canon⟩
      fun n _ u hu => ⟨by rw [hu.1]; rfl, canonical_modSl hu.2⟩
  unfold isolateReady
  dsimp only
  rw [h.hosted hp]
  obtain ⟨honly, hc⟩ := heach (s.hosted p)
  generalize (t.each (s.hosted p) fun n s => s.modSl n fun sl => { sl with capture := none }) = u at honly hc ⊢
  have hu : Isolating p ev 3 s u := h.quiet hp (by rw [honly]) hc (.of_regs (by rw [honly]))
  have hbit : u.bit XEC_EVT 0 = t.bit XEC_EVT 0 := by rw [bit, State.rd_congr (by rw [honly])]; rfl
  split
  · have hput := setPair_put (p := p) (st := 4) hc (by decide)
    refine ⟨⟨hput.canon, by rw [hput.only]; exact hu.mem, RegsBut.trans hu.regs (hput.regs.mono ?_), hput.state,
      fun q hqp hq => (hput.other q hqp).trans (hu.other q hqp hq), hput.spare, ?_, ?_, by rw [hput.only]; exact hu.isolated,
      by rw [hput.only]; exact hu.running⟩, fun h0 => ?_⟩
    · intro a ha
      simp only [isolateRegs, List.mem_append, List.mem_cons, List.not_mem_nil, or_false] at ha ⊢
      tauto
    · rw [bit, hput.regs _ (by simp [hes, hex])]
      exact hu.event
    · rw [hput.regs _ (by simp [hms, hmx])]
      exact hu.count
    · rw [bit, hput.regs _ (by simp only [XEC_EVT, XEC_PAIR_STAT, XEC_STAT, List.mem_cons, List.not_mem_nil, or_false]; omega)]
      exact hbit.trans h0
  · exact ⟨hu, fun h0 => hbit.trans h0⟩

/-- The registers of a pair's own events and counts are none that stranding writes. -/
theorem Stranding.pairReg {L P : List Nat} {t : State} (h : Stranding L P s t) (hL : ∀ n ∈ L, n < 256) {p : Nat} (hp : p < 12) {a : Nat}
    (ha : a = XEC_PAIR_EVT p ∨ a = XEC_PAIR_MISMATCH p) : t.rd a = s.rd a := by
  have hcases : a = 0x6000701008 + 0x40 * p ∨ a = 0x6000701010 + 0x40 * p := ha
  refine h.rd ?_ (xec_not_healthReg (by omega) (by omega)) (fun q _ => ?_) fun n hn => ?_
  · simp only [XEC_STAT, XEC_EVT, XEC_SF_CNT, XEC_XFER_STAT, List.mem_cons, List.not_mem_nil, or_false]
    omega
  · unfold XEC_PAIR_STAT
    omega
  · have := hL n hn
    simp only [strandSlRegs, XEC_SL_STAT, XEC_SL_EVT, XEC_SL_XEVT, XEC_SL_XSTAT, List.mem_cons, List.not_mem_nil, or_false]
    omega

/-- The registers that an isolation may write (R176–R179). -/
def isolatedRegs (p : Nat) : List Nat :=
  [XEC_PAIR_STAT p, XEC_PAIR_EVT p, XEC_PAIR_MISMATCH p, XEC_STAT, XEC_EVT, XEC_SF_CNT, XEC_XFER_STAT] ++ healthRegs ++ slStats ++
    (List.range 256).map XEC_SL_EVT ++ (List.range 256).map XEC_SL_XEVT ++ (List.range 256).map XEC_SL_XSTAT

theorem mem_isolatedRegs {p a : Nat} : a ∈ isolatedRegs p ↔
    a ∈ [XEC_PAIR_STAT p, XEC_PAIR_EVT p, XEC_PAIR_MISMATCH p, XEC_STAT, XEC_EVT, XEC_SF_CNT, XEC_XFER_STAT] ∨ a ∈ healthRegs ∨
      ∃ n, n < 256 ∧ a ∈ strandSlRegs n := by
  simp only [isolatedRegs, slStats, strandSlRegs, List.mem_append, List.mem_map, List.mem_range, List.mem_cons, List.not_mem_nil, or_false]
  constructor
  · rintro (((((h | h) | ⟨n, hn, rfl⟩) | ⟨n, hn, rfl⟩) | ⟨n, hn, rfl⟩) | ⟨n, hn, rfl⟩)
    · exact .inl h
    · exact .inr (.inl h)
    · exact .inr (.inr ⟨n, hn, by simp⟩)
    · exact .inr (.inr ⟨n, hn, by simp⟩)
    · exact .inr (.inr ⟨n, hn, by simp⟩)
    · exact .inr (.inr ⟨n, hn, by simp⟩)
  · rintro (h | h | ⟨n, hn, rfl | rfl | rfl | rfl⟩)
    · exact .inl (.inl (.inl (.inl (.inl h))))
    · exact .inl (.inl (.inl (.inl (.inr h))))
    · exact .inl (.inl (.inl (.inr ⟨n, hn, rfl⟩)))
    · exact .inl (.inl (.inr ⟨n, hn, rfl⟩))
    · exact .inl (.inr ⟨n, hn, rfl⟩)
    · exact .inr ⟨n, hn, rfl⟩

theorem isolateRegs_subset (p : Nat) : isolateRegs p ⊆ isolatedRegs p := by
  intro a ha
  rw [mem_isolatedRegs]
  simp only [isolateRegs, slStats, List.mem_append, List.mem_map, List.mem_range] at ha
  rcases ha with (h | h) | ⟨n, hn, rfl⟩
  · refine .inl ?_
    simp only [List.mem_cons, List.not_mem_nil, or_false] at h ⊢
    tauto
  · exact .inr (.inl ((by decide : ∀ a ∈ stageRegs, a ∈ healthRegs) a h))
  · exact .inr (.inr ⟨n, hn, by simp [strandSlRegs]⟩)

theorem strandRegs_subset {L P : List Nat} {p : Nat} (hL : ∀ n ∈ L, n < 256) (hP : ∀ q ∈ P, q = p) : strandRegs L P ⊆ isolatedRegs p := by
  intro a ha
  rw [mem_isolatedRegs]
  rcases mem_strandRegs.mp ha with h | h | ⟨q, hq, rfl⟩ | ⟨n, hn, h⟩
  · refine .inl ?_
    simp only [List.mem_cons, List.not_mem_nil, or_false] at h ⊢
    tauto
  · exact .inr (.inl h)
  · exact .inl (by simp [hP q hq])
  · exact .inr (.inr ⟨n, hL n hn, h⟩)

/-- Stranding, or nothing where a spare is valid. -/
theorem strand_stranding (hs : s.Canonical) : Stranding (s.waitingPairs.flatMap s.hosted) s.waitingPairs s s.strand := by
  cases hv : s.spareValid with
  | true => rw [strand_idle (.inl hv)]; exact .refl hs
  | false => exact (strand_effect hs hv).1

/-- R176–R179: what an isolation leaves, once its slices wait or are stranded. -/
theorem isolate_strand {p ev : Nat} {v : State} (hp : p < 12) (h : Isolating p ev (if (s.hosted p).isEmpty then 4 else 3) s v) :
    Isolated p ev s (v.strand).healthUpdate := by
  have hstr := strand_stranding h.canon
  have hhosted := h.hosted hp p
  have hL : ∀ n ∈ v.waitingPairs.flatMap v.hosted, n < 256 := hosted_waiting_lt
  have hlimit : v.strand.fld RED_HEALTH 1 0 = s.fld RED_HEALTH 1 0 := by
    have hne : RED_HEALTH ∉ isolateRegs p := by
      simp only [isolateRegs, stageRegs, List.mem_append, List.mem_cons, List.not_mem_nil, or_false, not_or]
      refine ⟨⟨⟨?_, ?_, ?_, by decide, by decide⟩, by decide, by decide⟩, not_slStat fun k _ => by unfold RED_HEALTH XEC_SL_STAT; omega⟩
      · unfold RED_HEALTH XEC_PAIR_STAT; omega
      · unfold RED_HEALTH XEC_PAIR_EVT; omega
      · unfold RED_HEALTH XEC_PAIR_MISMATCH; omega
    rw [hstr.limit, fld, h.regs _ hne]
    rfl
  have hstep := v.strand.healthUpdate_step
  have hpr : ((v.strand).healthUpdate.pr p) = v.strand.pr p := hstep.pr p
  have hspare : v.spareValid = true ↔ ∃ q, q < 12 ∧ q ≠ p ∧ s.pairState q = 2 := by
    rw [h.spare]
    constructor
    · rintro ⟨q, hq, hq2⟩
      by_cases hqp : q = p
      · rw [hqp, h.state] at hq2
        split at hq2 <;> omega
      · exact ⟨q, hq, hqp, (h.other q hqp hq).symm.trans hq2⟩
    · rintro ⟨q, hq, hqp, hq2⟩
      exact ⟨q, hq, (h.other q hqp hq).trans hq2⟩
  have hany : (List.range 12).any (fun q => q != p && s.pairState q == 2) = v.spareValid := by
    rw [Bool.eq_iff_iff, hspare, List.any_eq_true]
    simp [List.mem_range]
  have hevt : ∀ i, (v.strand).healthUpdate.bit XEC_EVT i = v.strand.bit XEC_EVT i := fun i => hstep.xecBit (by decide) (by decide)
  have hwait3 : ∀ n ∈ s.hosted p, v.spareValid = false → v.pairState p = 3 := by
    intro n hn hv
    rw [h.state, if_neg]
    simp only [List.isEmpty_iff]
    exact List.ne_nil_of_mem hn
  refine ⟨?_, ?_, fun hwait n hn => ?_, fun hne hwait => ?_, ?_, ?_, ?_, healthShown_healthUpdate (Canonical.regsOk hstr.canon) hlimit, ?_,
    fun hnone => ?_⟩
  · rw [hstep.pairState hp, hany]
    by_cases hempty : (s.hosted p).isEmpty = true
    · have h4 : v.pairState p = 4 := by rw [h.state, if_pos hempty]
      simp only [hempty, Bool.not_true, Bool.false_and, Bool.false_eq_true, if_false]
      cases hv : v.spareValid with
      | true => rw [strand_idle (.inl hv), h4]
      | false => exact (strand_effect h.canon hv).2.1 p hp (.inr h4)
    · have h3 : v.pairState p = 3 := by rw [h.state, if_neg hempty]
      simp only [Bool.not_eq_true] at hempty
      simp only [hempty, Bool.not_false, Bool.true_and]
      cases hv : v.spareValid with
      | true => rw [strand_idle (.inl hv), h3, if_pos rfl]
      | false => rw [(strand_effect h.canon hv).2.1 p hp (.inl h3)]; rfl
  · rw [bit, hstep.rd_xec (by unfold XEC_PAIR_EVT; omega) (by unfold XEC_PAIR_EVT; omega), hstr.pairReg hL hp (.inl rfl)]
    exact h.event
  · have hv : v.spareValid = false := by
      rw [hany] at hwait
      have hne : (s.hosted p).isEmpty = false := by simpa [List.isEmpty_iff] using List.ne_nil_of_mem hn
      simpa [hne] using hwait
    exact hstep.stopped (mem_hosted hn).1
      ((strand_effect h.canon hv).2.2.2 p hp (hwait3 n hn hv) n (by rw [hhosted]; exact hn))
  · have hv : v.spareValid = false := by
      rw [hany] at hwait
      have hne' : (s.hosted p).isEmpty = false := by simpa [List.isEmpty_iff] using hne
      simpa [hne'] using hwait
    obtain ⟨n, hn⟩ := List.exists_mem_of_ne_nil _ hne
    rw [hevt]
    exact (strand_effect h.canon hv).2.2.1 (.inl ⟨p, hp, hwait3 n hn hv⟩)
  · rw [hstep.rd_xec (by unfold XEC_PAIR_MISMATCH; omega) (by unfold XEC_PAIR_MISMATCH; omega), hstr.pairReg hL hp (.inr rfl), h.count]
  · rw [hpr, (hstr.pr p).1, h.isolated]
  · rw [hpr]
    exact (hstr.pr p).2 h.running
  · rw [hstep.mem, hstr.mem, h.mem]
  · have hP : ∀ q ∈ v.waitingPairs, q = p := by
      intro q hq
      obtain ⟨hq12, hq3⟩ := mem_waitingPairs.mp hq
      by_contra hqp
      exact hnone q hq12 ((h.other q hqp hq12).symm.trans hq3)
    have hsub : healthRegs ⊆ isolatedRegs p := fun a ha => mem_isolatedRegs.mpr (.inr (.inl ha))
    exact RegsBut.trans (RegsBut.trans (h.regs.mono (isolateRegs_subset p)) (hstr.regs.mono (strandRegs_subset hL hP)))
      (hstep.regs.mono hsub)

/-- R176: an isolation, and the event of a mismatch. -/
theorem isolate_isolated (hs : s.Canonical) {p : Nat} (hp : p < 12) (stall : Bool) :
    Isolated p (isoEvent stall) s (s.isolate p stall) ∧ (stall = false → (s.isolate p stall).bit XEC_EVT 0 = true) := by
  obtain ⟨hmark, hevt⟩ := isolateMarked_effect hs hp stall
  rw [isolate_eq]
  generalize s.isolateMarked p stall = u at hmark hevt ⊢
  obtain ⟨hready, hkeep⟩ := isolateReady_effect hmark hp
  refine ⟨isolate_strand hp hready, fun hf => ?_⟩
  generalize u.isolateReady p = v at hready hkeep ⊢
  rw [v.strand.healthUpdate_step.xecBit (by decide) (by decide)]
  exact (strand_stranding hready.canon).evts 0 (hkeep (hevt hf))

end State

end Sys2Proof.Machine
end

section
/-!
PROOF. The spare takes the slices of an isolated pair (R181, R235).
-/

namespace Sys2Proof.Machine

open Sys2Proof.Claims

namespace State

variable {s : State}

/-- The registers of slice `n` that taking it over writes. -/
def takeSlRegs (n : Nat) : List Nat :=
  [XEC_SL_CFG n, shadow (XEC_SL_CFG n), XEC_SL_STAT n, XEC_SL_EVT n, XEC_SL_XEVT n, XEC_SL_XSTAT n]

/-- What taking over the slices `L` leaves of `s`. -/
structure Taking (L : List Nat) (s t : State) : Prop where
  canon : t.Canonical
  low   : LowMem s t
  regs  : RegsBut (XEC_XFER_STAT :: L.flatMap takeSlRegs) s t
  other : ∀ m, m ∉ L → t.sl m = s.sl m

namespace Taking

variable {L L' : List Nat} {t u : State}

theorem refl (hs : s.Canonical) : Taking L s s := ⟨hs, fun _ _ => rfl, .of_regs rfl, fun _ _ => rfl⟩

theorem trans (h : Taking L s t) (k : Taking L t u) : Taking L s u :=
  ⟨k.canon, fun x hx => (k.low x hx).trans (h.low x hx), RegsBut.trans h.regs k.regs, fun m hm => (k.other m hm).trans (h.other m hm)⟩

theorem mono (h : Taking L s t) (hL : L ⊆ L') : Taking L' s t where
  canon := h.canon
  low := h.low
  regs := h.regs.mono (List.cons_subset_cons _ fun a ha => by
    obtain ⟨n, hn, ha⟩ := List.mem_flatMap.mp ha
    exact List.mem_flatMap.mpr ⟨n, hL hn, ha⟩)
  other m hm := h.other m fun hin => hm (hL hin)

/-- Where a register is none of those written. -/
theorem rd {a : Nat} (h : Taking L s t) (hx : a ≠ XEC_XFER_STAT) (hl : ∀ n ∈ L, a ∉ takeSlRegs n) : t.rd a = s.rd a := by
  refine h.regs a fun ha => ?_
  rcases List.mem_cons.mp ha with ha | ha
  · exact hx ha
  · obtain ⟨n, hn, ha⟩ := List.mem_flatMap.mp ha
    exact hl n hn ha

/-- A register that is none of a slice's. -/
theorem rd_low {a : Nat} (h : Taking L s t) (hL : ∀ n ∈ L, n < 256) (hx : a ≠ XEC_XFER_STAT)
    (ha : a < 0x6000710000 ∨ 0x60007A0000 ≤ a) : t.rd a = s.rd a := by
  refine h.rd hx fun n hn => ?_
  have := hL n hn
  simp only [takeSlRegs, shadow, XEC_SL_CFG, XEC_SL_STAT, XEC_SL_EVT, XEC_SL_XEVT, XEC_SL_XSTAT, List.mem_cons, List.not_mem_nil, or_false]
  omega

/-- A register of a slice that is none of those taken. -/
theorem slReg {m a : Nat} (h : Taking L s t) (hL : ∀ n ∈ L, n < 256) (hm : m < 256) (hmL : m ∉ L) (ha : a ∈ takeSlRegs m) :
    t.rd a = s.rd a := by
  have hcases : a = 0x6000710000 + 0x40 * m ∨ a = 0x6000710000 + 0x40 * m + 0x80000 ∨ a = 0x6000710010 + 0x40 * m ∨
      a = 0x6000710014 + 0x40 * m ∨ a = 0x6000730018 + 0x20 * m ∨ a = 0x6000730010 + 0x20 * m := by
    simpa only [takeSlRegs, shadow, List.mem_cons, List.not_mem_nil, or_false, XEC_SL_CFG, XEC_SL_STAT, XEC_SL_EVT, XEC_SL_XEVT,
      XEC_SL_XSTAT] using ha
  refine h.rd (by unfold XEC_XFER_STAT; omega) fun n hn => ?_
  have hn256 := hL n hn
  have hne : n ≠ m := fun e => hmL (e ▸ hn)
  simp only [takeSlRegs, shadow, XEC_SL_CFG, XEC_SL_STAT, XEC_SL_EVT, XEC_SL_XEVT, XEC_SL_XSTAT, List.mem_cons, List.not_mem_nil, or_false]
  omega

/-- A register of the slice taken is put. -/
theorem setReg {n a v : Nat} (h : Taking [n] s t) (ha : a ∈ XEC_XFER_STAT :: takeSlRegs n) : Taking [n] s (t.setReg a v) :=
  ⟨canonical_setReg h.canon, h.low, h.regs.setReg (by simpa using ha), h.other⟩

/-- The slice taken is changed. -/
theorem modSl {n : Nat} {f : Slice → Slice} (h : Taking [n] s t) : Taking [n] s (t.modSl n f) :=
  ⟨canonical_modSl h.canon, h.low, RegsBut.congr h.regs rfl, fun m hm => (sl_modSl_other (by simpa using hm)).trans (h.other m hm)⟩

/-- A change of the transfer unit and of grants. -/
theorem quiet {n : Nat} (h : Taking [n] s t) (hu : u = { t with xfer := u.xfer, grants := u.grants }) (hc : u.Canonical) : Taking [n] s u :=
  ⟨hc, fun x hx => by rw [hu]; exact h.low x hx, RegsBut.congr h.regs (by rw [hu]), fun m hm => by rw [hu]; exact h.other m hm⟩

theorem loadImage {n : Nat} (h : Taking [n] s t) : Taking [n] s (t.loadImage n) := by
  have hl := t.loadImage_loaded n
  refine ⟨(loadImage_kept (.refl t)).canonical h.canon, fun x hx => (hl.low x hx).trans (h.low x hx), RegsBut.congr h.regs (by rw [hl.only]),
    fun m hm => (hl.other m (by simpa using hm)).trans (h.other m hm)⟩

end Taking

/-- A move of slice `n` given up as the spare takes it (R235). -/
def moveDropped (n : Nat) (s : State) : State :=
  if (s.sl n).moveTo.isSome then
    (((if s.life n = 4 then s.setLife n (s.sl n).prevLife else s).xferEnd n).lifeEvt n 6).modSl n (fun sl => { sl with moveTo := none })
  else s

/-- The window of slice `n` moved to pair `sp`. -/
def windowMoved (sp n : Nat) (s : State) : State :=
  match s.windowGrant n with
  | some (_, g) => s.moveWindow n (256 * sp + g.first % 256)
  | none => s

/-- The slice on the spare: hosted there, its window moved, its image loaded, and the event set. -/
def takeHosted (sp n : Nat) (s : State) : State :=
  let s := (s.hostOn n sp).windowMoved sp n
  ((s.loadImage n).modSl n (fun sl => { sl with waitAt := none })).evt (XEC_SL_EVT n) 3

/-- A quiesce in progress is complete. -/
def takeQuiesced (n : Nat) (s : State) : State :=
  let s := s.modSl n (fun sl => { sl with pass := none, held := none, quiesceAt := none, capture := none })
  ((s.setLife n 3).setRun n 7).evt (XEC_SL_XEVT n) 0 |>.setBit (XEC_SL_XSTAT n) 12 false

/-- An interrupted pass released again. -/
def Pass.again (ps : Pass) : Pass :=
  { ps with restarted := true, started := false, running := false, execNs := 0, overrun := false }

/-- The slice's pass released again. -/
def takePass (n : Nat) (s : State) : State :=
  match (s.sl n).pass with
  | some ps => ((s.modSl n (fun sl => { sl with pass := some (Pass.again ps) })).setRun n 1).setBit (XEC_SL_STAT n) 8 true
  | none => s

/-- A slice before it comes to the spare: its move given up, and its pass over where it moved (R235). -/
def takeFreed (n : Nat) (s : State) : State :=
  if s.life n = 4 then (s.moveDropped n).passOver n else s.moveDropped n

theorem takeSlice_eq (sp n : Nat) : s.takeSlice sp n =
    if s.life n = 2 then ((s.takeFreed n).takeHosted sp n).takeQuiesced n else ((s.takeFreed n).takeHosted sp n).takePass n := rfl

/-- The registers of a slice stand at places of their own. -/
theorem takeSlRegs_apart {n : Nat} (hn : n < 256) :
    XEC_SL_CFG n ≠ shadow (XEC_SL_CFG n) ∧ XEC_SL_CFG n ≠ XEC_SL_STAT n ∧ XEC_SL_CFG n ≠ XEC_SL_EVT n ∧ XEC_SL_CFG n ≠ XEC_SL_XEVT n ∧
    XEC_SL_CFG n ≠ XEC_SL_XSTAT n ∧ XEC_SL_EVT n ≠ XEC_SL_STAT n ∧ XEC_SL_EVT n ≠ XEC_SL_XEVT n ∧ XEC_SL_EVT n ≠ XEC_SL_XSTAT n ∧
    XEC_SL_STAT n ≠ XEC_SL_XEVT n ∧ XEC_SL_STAT n ≠ XEC_SL_XSTAT n ∧ XEC_SL_XSTAT n ≠ XEC_SL_XEVT n := by
  unfold shadow XEC_SL_CFG XEC_SL_STAT XEC_SL_EVT XEC_SL_XEVT XEC_SL_XSTAT
  omega

theorem Taking.slices_sl {t u : State} (h : u.slices = t.slices) (m : Nat) : u.sl m = t.sl m := by
  rw [sl, h]
  rfl

theorem moveDropped_effect (hs : s.Canonical) (n : Nat) :
    Taking [n] s (s.moveDropped n) ∧ ((s.moveDropped n).sl n).pass = (s.sl n).pass := by
  unfold moveDropped
  split
  · have hlife : ∃ u, (if s.life n = 4 then s.setLife n (s.sl n).prevLife else s) = u ∧ Taking [n] s u ∧ u.slices = s.slices := by
      refine ⟨_, rfl, ?_⟩
      split
      · exact ⟨(Taking.refl hs).setReg (by simp [takeSlRegs]), rfl⟩
      · exact ⟨.refl hs, rfl⟩
    obtain ⟨u, hu, htake, hsl⟩ := hlife
    rw [hu]
    have hx : Taking [n] s { u with xfer := none } := htake.quiet rfl htake.canon
    have hend : Taking [n] s ((u.xferEnd n).lifeEvt n 6) :=
      ((hx.setReg (by simp)).setReg (by simp [takeSlRegs])).setReg (by simp [takeSlRegs])
    have hslices : ((u.xferEnd n).lifeEvt n 6).slices = s.slices := hsl
    generalize (u.xferEnd n).lifeEvt n 6 = v at hend hslices ⊢
    refine ⟨hend.modSl, ?_⟩
    rw [sl_modSl_same (Canonical.slicesTidy hend.canon), Taking.slices_sl hslices]
  · exact ⟨.refl hs, rfl⟩

theorem takeFreed_effect (hs : s.Canonical) (n : Nat) :
    Taking [n] s (s.takeFreed n) ∧ (s.life n ≠ 4 → ((s.takeFreed n).sl n).pass = (s.sl n).pass) := by
  obtain ⟨h, hpass⟩ := moveDropped_effect hs n
  unfold takeFreed
  split
  next h4 =>
    refine ⟨h.trans ⟨(passOver_kept (.refl _)).canonical h.canon, fun x _ => ?_, (passOver_regs _ n).mono ?_, fun m hm => ?_⟩,
      fun hne => absurd h4 hne⟩
    · rw [passOver_only]
      rfl
    · simp [takeSlRegs]
    · unfold passOver
      dsimp only
      split
      · rw [showRelease_sl, setRun_sl, sl_modSl_other (by simpa using hm)]
      · rw [setRun_sl, sl_modSl_other (by simpa using hm)]
  next => exact ⟨h, fun _ => hpass⟩

theorem hostOn_effect (hs : s.Canonical) {sp n : Nat} (hn : n < 256) (hsp : sp < 16) :
    Taking [n] s (s.hostOn n sp) ∧ (s.hostOn n sp).slPair n = sp ∧ (s.hostOn n sp).sl n = s.sl n := by
  obtain ⟨hcs, -⟩ := takeSlRegs_apart hn
  refine ⟨((Taking.refl hs).setReg (by simp [takeSlRegs])).setReg (by simp [takeSlRegs]), ?_, rfl⟩
  rw [slPair, hostOn, fld, rd_setFld_ne hcs]
  exact (fld_setFld_same (Canonical.regsOk hs) (by decide) (by decide)).trans (Nat.mod_eq_of_lt hsp)

theorem windowMoved_effect (hs : s.Canonical) (sp n : Nat) :
    s.windowMoved sp n = { s with grants := (s.windowMoved sp n).grants } ∧ (s.windowMoved sp n).Canonical := by
  unfold windowMoved
  split
  · refine ⟨?_, (moveWindow_kept (.refl s)).canonical hs⟩
    unfold moveWindow
    split <;> rfl
  · exact ⟨rfl, hs⟩

theorem takeHosted_eq (sp n : Nat) : s.takeHosted sp n =
    ((((s.hostOn n sp).windowMoved sp n).loadImage n).modSl n fun sl => { sl with waitAt := none }).evt (XEC_SL_EVT n) 3 := rfl

/-- R181: the slice is hosted on the spare, with its event; its pass stays. -/
theorem takeHosted_effect (hs : s.Canonical) {sp n : Nat} (hn : n < 256) (hsp : sp < 16) :
    Taking [n] s (s.takeHosted sp n) ∧ (s.takeHosted sp n).slPair n = sp ∧ (s.takeHosted sp n).bit (XEC_SL_EVT n) 3 = true ∧
    ((s.takeHosted sp n).sl n).pass = (s.sl n).pass := by
  obtain ⟨-, -, hce, -⟩ := takeSlRegs_apart hn
  rw [takeHosted_eq]
  obtain ⟨hhost, hpair, hsl⟩ := hostOn_effect hs hn hsp
  generalize s.hostOn n sp = a at hhost hpair hsl ⊢
  obtain ⟨hbonly, hbc⟩ := windowMoved_effect hhost.canon sp n
  generalize a.windowMoved sp n = b at hbonly hbc ⊢
  have hbtake : Taking [n] s b := hhost.quiet (by rw [hbonly]) hbc
  have hload := hbtake.loadImage
  have hl := b.loadImage_loaded n
  have hlsl := hl.slice hbc
  have hlregs : (b.loadImage n).regs = a.regs := by rw [hl.only, hbonly]
  have hbsl : b.sl n = s.sl n := by rw [← hsl, sl, hbonly]; rfl
  rw [hbsl] at hlsl
  generalize b.loadImage n = c at hload hl hlsl hlregs ⊢
  have hmod : Taking [n] s (c.modSl n fun sl => { sl with waitAt := none }) := hload.modSl
  have hmodsl := sl_modSl_same (n := n) (f := fun sl => { sl with waitAt := none }) (Canonical.slicesTidy hload.canon)
  have hmodregs : (c.modSl n fun sl => { sl with waitAt := none }).regs = a.regs := hlregs
  have hpass : ((c.modSl n fun sl => { sl with waitAt := none }).sl n).pass = (s.sl n).pass := by
    have hpass : (c.sl n).pass = (s.sl n).pass := by rw [hlsl]
    rw [hmodsl]
    exact hpass
  generalize (c.modSl n fun sl => { sl with waitAt := none }) = d at hmod hpass hmodregs ⊢
  refine ⟨hmod.setReg (by simp [takeSlRegs]), ?_, bit_evt_same (Canonical.regsOk hmod.canon) (by decide), hpass⟩
  rw [slPair, fld, rd_evt_ne hce, rd_congr hmodregs]
  exact hpair

/-- What taking over slice `n` gives on pair `sp` (R181, R235). -/
structure TakenOver (sp n : Nat) (s t : State) : Prop where
  host   : t.slPair n = sp
  event  : t.bit (XEC_SL_EVT n) 3 = true
  again  : s.life n ≠ 2 → s.life n ≠ 4 → ∀ ps, (s.sl n).pass = some ps →
    (t.sl n).pass = some (Pass.again ps) ∧ t.run n = 1 ∧ t.bit (XEC_SL_STAT n) 8 = true
  stays  : s.life n = 2 → t.life n = 3 ∧ t.run n = 7 ∧ (t.sl n).pass = none

theorem takeSlice_effect (hs : s.Canonical) {sp n : Nat} (hn : n < 256) (hsp : sp < 16) :
    Taking [n] s (s.takeSlice sp n) ∧ TakenOver sp n s (s.takeSlice sp n) := by
  obtain ⟨-, hct, -, hcv, hcx, het, hev, hex, htv, htx, hxv⟩ := takeSlRegs_apart hn
  obtain ⟨hfreed, hpass⟩ := takeFreed_effect hs n
  rw [takeSlice_eq]
  generalize s.takeFreed n = a at hfreed hpass ⊢
  obtain ⟨hhost, hpair, hevt, hsame⟩ := takeHosted_effect hfreed.canon hn hsp
  generalize a.takeHosted sp n = b at hhost hpair hevt hsame ⊢
  have hb := hfreed.trans hhost
  have hpass' : s.life n ≠ 4 → (b.sl n).pass = (s.sl n).pass := fun h4 => hsame.trans (hpass h4)
  have hpairOf : ∀ t : State, t.rd (XEC_SL_CFG n) = b.rd (XEC_SL_CFG n) → t.slPair n = sp := fun t h => by
    rw [slPair, fld, h]
    exact hpair
  have hevtOf : ∀ t : State, t.rd (XEC_SL_EVT n) = b.rd (XEC_SL_EVT n) → t.bit (XEC_SL_EVT n) 3 = true := fun t h => by
    rw [bit, h]
    exact hevt
  split
  next h2 =>
    unfold takeQuiesced
    dsimp only
    have hmod : Taking [n] s (b.modSl n fun sl => { sl with pass := none, held := none, quiesceAt := none, capture := none }) := hb.modSl
    have hmodsl := sl_modSl_same (n := n) (f := fun sl => { sl with pass := none, held := none, quiesceAt := none, capture := none })
      (Canonical.slicesTidy hb.canon)
    have hmodrd : ∀ r, (b.modSl n fun sl => { sl with pass := none, held := none, quiesceAt := none, capture := none }).rd r = b.rd r :=
      fun _ => rfl
    generalize (b.modSl n fun sl => { sl with pass := none, held := none, quiesceAt := none, capture := none }) = c at hmod hmodsl hmodrd ⊢
    have hok := Canonical.regsOk hmod.canon
    have hok1 := regsOk_setFld (a := XEC_SL_XSTAT n) (hi := 2) (lo := 0) (v := 3) hok
    have hok2 := regsOk_setFld (a := XEC_SL_STAT n) (hi := 2) (lo := 0) (v := 7) hok1
    have hok3 := regsOk_evt (a := XEC_SL_XEVT n) (i := 0) hok2
    have hrd : ∀ r, r ≠ XEC_SL_XSTAT n → r ≠ XEC_SL_STAT n → r ≠ XEC_SL_XEVT n →
        ((((c.setLife n 3).setRun n 7).evt (XEC_SL_XEVT n) 0).setBit (XEC_SL_XSTAT n) 12 false).rd r = b.rd r := fun r h1 h2 h3 => by
      rw [rd_setBit_ne h1, rd_evt_ne h3, setRun, rd_setFld_ne h2, setLife, rd_setFld_ne h1, hmodrd]
    refine ⟨?_, hpairOf _ (hrd _ hcx hct hcv), hevtOf _ (hrd _ hex het hev), fun hne => absurd h2 hne, fun _ => ⟨?_, ?_, ?_⟩⟩
    · exact (((hmod.setReg (by simp [takeSlRegs])).setReg (by simp [takeSlRegs])).setReg (by simp [takeSlRegs])).setReg
        (by simp [takeSlRegs])
    · rw [life, fld_setBit_other (show RegsOk (evt (XEC_SL_XEVT n) 0 (setRun n 7 (setLife n 3 c))) from hok3) (by decide) (.inr (.inr (by decide))), fld, rd_evt_ne hxv, setRun, rd_setFld_ne htx.symm]
      exact (fld_setFld_same hok (by decide) (by decide)).trans rfl
    · rw [run, fld, rd_setBit_ne htx, rd_evt_ne htv]
      exact (fld_setFld_same hok1 (by decide) (by decide)).trans rfl
    · exact congrArg Slice.pass hmodsl
  next h2 =>
    unfold takePass
    split
    next ps hps =>
      have hmod : Taking [n] s (b.modSl n fun sl => { sl with pass := some (Pass.again ps) }) := hb.modSl
      have hmodsl := sl_modSl_same (n := n) (f := fun sl => { sl with pass := some (Pass.again ps) }) (Canonical.slicesTidy hb.canon)
      have hmodrd : ∀ r, (b.modSl n fun sl => { sl with pass := some (Pass.again ps) }).rd r = b.rd r := fun _ => rfl
      generalize (b.modSl n fun sl => { sl with pass := some (Pass.again ps) }) = c at hmod hmodsl hmodrd ⊢
      have hok := Canonical.regsOk hmod.canon
      have hok1 := regsOk_setFld (a := XEC_SL_STAT n) (hi := 2) (lo := 0) (v := 1) hok
      have hrd : ∀ r, r ≠ XEC_SL_STAT n → ((c.setRun n 1).setBit (XEC_SL_STAT n) 8 true).rd r = b.rd r := fun r h => by
        rw [rd_setBit_ne h, setRun, rd_setFld_ne h, hmodrd]
      refine ⟨(hmod.setReg (by simp [takeSlRegs])).setReg (by simp [takeSlRegs]), hpairOf _ (hrd _ hct), hevtOf _ (hrd _ het),
        fun _ h4 ps' hps' => ⟨?_, ?_, bit_setBit_same hok1 (by decide)⟩, fun h => absurd h h2⟩
      · rw [hpass' h4, hps'] at hps
        obtain rfl := Option.some.inj hps
        exact congrArg Slice.pass hmodsl
      · rw [run, fld_setBit_other (show RegsOk (setRun n 1 c) from hok1) (by decide) (.inr (.inr (by decide)))]
        exact (fld_setFld_same hok (by decide) (by decide)).trans rfl
    next hnone =>
      refine ⟨hb, hpair, hevt, fun _ h4 ps' hps' => ?_, fun h => absurd h h2⟩
      rw [hpass' h4, hps'] at hnone
      cases hnone

/-- A slice taken over stays so while others are. -/
theorem TakenOver.stay {sp n : Nat} {t u : State} (h : TakenOver sp n s t) (hsl : u.sl n = t.sl n)
    (hrd : ∀ a ∈ XEC_SL_CFG n :: strandSlRegs n, u.rd a = t.rd a) : TakenOver sp n s u := by
  have hcfg := hrd (XEC_SL_CFG n) (by simp)
  have hstat := hrd (XEC_SL_STAT n) (by simp [strandSlRegs])
  have hevt := hrd (XEC_SL_EVT n) (by simp [strandSlRegs])
  have hx := hrd (XEC_SL_XSTAT n) (by simp [strandSlRegs])
  refine ⟨?_, ?_, fun h2 h4 ps hps => ?_, fun h2 => ?_⟩
  · rw [slPair, fld, hcfg]; exact h.host
  · rw [bit, hevt]; exact h.event
  · rw [hsl, run, fld, bit, hstat]; exact h.again h2 h4 ps hps
  · rw [hsl, life, fld, hx, run, fld, hstat]; exact h.stays h2

/-- What was so before another slice was taken over. -/
theorem TakenOver.since {sp n : Nat} {t u : State} (h : TakenOver sp n t u) (hsl : t.sl n = s.sl n)
    (hlife : t.life n = s.life n) : TakenOver sp n s u := by
  refine ⟨h.host, h.event, ?_, ?_⟩
  · rw [← hsl, ← hlife]; exact h.again
  · rw [← hlife]; exact h.stays

theorem strandSlRegs_subset (n : Nat) : XEC_SL_CFG n :: strandSlRegs n ⊆ takeSlRegs n := by
  simp [strandSlRegs, takeSlRegs]

theorem each_takeSlice {sp : Nat} (hsp : sp < 16) {l : List Nat} (hs : s.Canonical) (hl : ∀ n ∈ l, n < 256) (hnodup : l.Nodup) :
    Taking l s (s.each l (State.takeSlice sp)) ∧ ∀ n ∈ l, TakenOver sp n s (s.each l (State.takeSlice sp)) := by
  induction l generalizing s with
  | nil => exact ⟨.refl hs, fun n hn => absurd hn List.not_mem_nil⟩
  | cons n l ih =>
    have hn := hl n List.mem_cons_self
    have hl' : ∀ m ∈ l, m < 256 := fun m hm => hl m (List.mem_cons_of_mem _ hm)
    obtain ⟨hnot, hnodup'⟩ := List.nodup_cons.mp hnodup
    obtain ⟨hone, htaken⟩ := takeSlice_effect hs hn hsp
    obtain ⟨hrest, hall⟩ := ih hone.canon hl' hnodup'
    refine ⟨(hone.mono (by simp)).trans (hrest.mono (List.subset_cons_self _ _)), fun m hm => ?_⟩
    rcases List.mem_cons.mp hm with rfl | hml
    · exact htaken.stay (hrest.other m hnot) fun a ha => hrest.slReg hl' hn hnot (strandSlRegs_subset _ ha)
    · have hmn : m ∉ [n] := by
        rw [List.mem_singleton]
        rintro rfl
        exact hnot hml
      exact (hall m hml).since (hone.other m hmn) (congrArg (bits · 2 0) (hone.slReg (by simpa using hn) (hl' m hml) hmn (by simp [takeSlRegs])))

end State

end Sys2Proof.Machine
end

section
/-!
PROOF. The takeover by the spare, and the statement about failures of pairs (R176, R178, R179, R181).
-/

namespace Sys2Proof.Machine

open Sys2Proof.Claims

namespace State

variable {s : State}

/-- The slices taken, the spare active, and the isolated pair in its self-test. -/
def takeoverMarked (sp p : Nat) (s : State) : State :=
  (((s.each (s.hosted p) (State.takeSlice sp)).setPair sp 1).setPair p 4).evt XEC_EVT 1

theorem takeover_eq {p : Nat} (hcx : s.power.cx = true) (hst : s.pairState p = 3) (hv : s.spareValid = true) {sp : Nat}
    (hsp : s.fld XEC_STAT 6 3 = sp) : s.takeover p = (((s.takeoverMarked sp p).strand).healthUpdate).dispatch sp := by
  subst hsp
  exact if_neg (by simp [hcx, hst, hv])

/-- What the takeover leaves of `s` before other pairs are stranded. -/
structure Taken (sp p : Nat) (s t : State) : Prop where
  canon : t.Canonical
  low   : LowMem s t
  limit : t.fld RED_HEALTH 1 0 = s.fld RED_HEALTH 1 0
  spare : t.pairState sp = 1
  iso   : t.pairState p = 4
  event : t.bit XEC_EVT 1 = true
  taken : ∀ n ∈ s.hosted p, TakenOver sp n s t

theorem takeoverMarked_effect (hs : s.Canonical) {sp p : Nat} (hsp : sp < 12) (hp : p < 12) (hne : sp ≠ p) :
    Taken sp p s (s.takeoverMarked sp p) := by
  have hhost : ∀ n ∈ s.hosted p, n < 256 := fun n hn => (mem_hosted hn).1
  obtain ⟨htake, htaken⟩ := each_takeSlice (sp := sp) (by omega) hs hhost (List.nodup_range.filter _)
  unfold takeoverMarked
  generalize s.each (s.hosted p) (State.takeSlice sp) = v at htake htaken ⊢
  have hput1 := setPair_put (p := sp) (st := 1) htake.canon (by decide)
  generalize v.setPair sp 1 = a at hput1 ⊢
  have hput2 := setPair_put (p := p) (st := 4) hput1.canon (by decide)
  generalize a.setPair p 4 = b at hput2 ⊢
  have hrd : ∀ r, r ≠ XEC_PAIR_STAT sp → r ≠ XEC_PAIR_STAT p → r ≠ XEC_STAT → r ≠ XEC_EVT → (b.evt XEC_EVT 1).rd r = v.rd r :=
    fun r h1 h2 h3 h4 => by rw [rd_evt_ne h4, hput2.regs r (by simp [h2, h3]), hput1.regs r (by simp [h1, h3])]
  have honly : (b.evt XEC_EVT 1) = { v with regs := (b.evt XEC_EVT 1).regs } := by
    have hset : b.evt XEC_EVT 1 = { b with regs := (b.evt XEC_EVT 1).regs } := rfl
    generalize b.evt XEC_EVT 1 = c at hset ⊢
    rw [hset, hput2.only, hput1.only]
  have hstate : ∀ q, q < 12 → (b.evt XEC_EVT 1).pairState q = b.pairState q := fun q hq =>
    pairState_congr (rd_evt_ne (by unfold XEC_PAIR_STAT XEC_EVT; omega))
  refine ⟨canonical_setReg hput2.canon, fun x hx => ?_, ?_, ?_, ?_, bit_evt_same (Canonical.regsOk hput2.canon) (by decide),
    fun n hn => ?_⟩
  · rw [honly]
    exact htake.low x hx
  · rw [fld, hrd _ (by unfold RED_HEALTH XEC_PAIR_STAT; omega) (by unfold RED_HEALTH XEC_PAIR_STAT; omega) (by decide) (by decide),
      htake.rd_low hhost (by decide) (.inr (by decide))]
    rfl
  · rw [hstate sp hsp, hput2.other sp hne, hput1.state]
  · rw [hstate p hp, hput2.state]
  · have hn256 := hhost n hn
    refine (htaken n hn).stay (by rw [honly]; rfl) fun r hr => ?_
    have hplace : 0x6000710000 ≤ r := by
      simp only [strandSlRegs, XEC_SL_CFG, XEC_SL_STAT, XEC_SL_EVT, XEC_SL_XEVT, XEC_SL_XSTAT, List.mem_cons, List.not_mem_nil,
        or_false] at hr
      omega
    exact hrd r (by unfold XEC_PAIR_STAT; omega) (by unfold XEC_PAIR_STAT; omega) (by unfold XEC_STAT; omega) (by unfold XEC_EVT; omega)

/-- R181: the takeover, once the pairs that wait for another spare are stranded and the health is shown. -/
theorem takeover_effect {v : State} {sp p : Nat} (h : Taken sp p s v) (hsp : sp < 12) (hp : p < 12) :
    (v.strand).healthUpdate.pairState sp = 1 ∧ (v.strand).healthUpdate.pairState p = 4 ∧ (v.strand).healthUpdate.bit XEC_EVT 1 = true ∧
    (∀ n ∈ s.hosted p, TakenOver sp n s (v.strand).healthUpdate) ∧ HealthShown s (v.strand).healthUpdate ∧
    LowMem s (v.strand).healthUpdate := by
  have hstr := strand_stranding h.canon
  have hL : ∀ n ∈ v.waitingPairs.flatMap v.hosted, n < 256 := hosted_waiting_lt
  have hnot : ∀ q st, st ≠ 3 → v.pairState q = st → q ∉ v.waitingPairs := fun q st hst hq hm => hst (hq.symm.trans (mem_waitingPairs.mp hm).2)
  have hspw := hnot sp 1 (by decide) h.spare
  have hspare := hstr.pairState hL hsp hspw
  have hiso := hstr.pairState hL hp (hnot p 4 (by decide) h.iso)
  have htaken : ∀ n ∈ s.hosted p, TakenOver sp n s v.strand := fun n hn => by
    have hout : n ∉ v.waitingPairs.flatMap v.hosted := fun hm => by
      obtain ⟨q, hq, hn'⟩ := List.mem_flatMap.mp hm
      have hqsp : q = sp := (mem_hosted hn').2.symm.trans (h.taken n hn).host
      exact hspw (hqsp ▸ hq)
    exact (h.taken n hn).stay (hstr.other n hout) fun a ha => hstr.slReg waitingPairs_lt hL (mem_hosted hn).1 hout ha
  generalize v.strand = w at hstr hspare hiso htaken ⊢
  have hstep := w.healthUpdate_step
  refine ⟨((hstep.pairState hsp).trans hspare).trans h.spare, ((hstep.pairState hp).trans hiso).trans h.iso,
    (hstep.xecBit (by decide) (by decide)).trans (hstr.evts 1 h.event), fun n hn => ?_,
    healthShown_healthUpdate (Canonical.regsOk hstr.canon) (hstr.limit.trans h.limit), fun x hx => ?_⟩
  · have hn256 := (mem_hosted hn).1
    refine (htaken n hn).stay (hstep.sl n) fun a ha => ?_
    have hplace : 0x6000700000 ≤ a ∧ a < 0x6000800000 := by
      simp only [strandSlRegs, XEC_SL_CFG, XEC_SL_STAT, XEC_SL_EVT, XEC_SL_XEVT, XEC_SL_XSTAT, List.mem_cons, List.not_mem_nil,
        or_false] at ha
      omega
    exact hstep.rd_xec hplace.1 hplace.2
  · have hmem : w.healthUpdate.mem = v.mem := hstep.mem.trans hstr.mem
    rw [rdByte, hmem]
    exact h.low x hx

end State

theorem Isolated.left {p ev : Nat} {s u : State} (h : Isolated p ev s u) (hst : s.pairState p = 1 ∨ s.pairState p = 2) :
    u.pairState p ≠ s.pairState p := by
  obtain ⟨hstate, -⟩ := h
  rw [hstate]
  split <;> omega

/-- Settles O21: an isolation and a takeover by their effects; without their condition nothing happens. -/
theorem pairFailures : Obligations.PairFailures := by
  intro p s hs hcx
  refine ⟨fun hctl hst => ?_, fun h => ?_, fun n hst hrun hwait => ?_, fun h => ?_, fun q hst hv hsp hq hq2 => ?_, fun h => ?_⟩
  · obtain ⟨hiso, hevt⟩ := State.isolate_isolated hs p.isLt false
    have hm : s.mismatch p = s.isolate p false := if_pos ⟨hcx, hctl, hst⟩
    refine .of_exec (u := if (s.mismatch p).pairState p = s.pairState p then s.mismatch p else (s.mismatch p).moveTargetLost p) rfl ?_
      ⟨_, rfl, hiso, hevt rfl⟩
    rw [hm, if_neg (Isolated.left hiso hst)]
  · have hm : s.mismatch p = s := if_neg (by
      rintro ⟨-, hctl, hst⟩
      rcases h with h | h
      · simp [h] at hctl
      · exact hst.elim h.1 h.2)
    refine .of_exec (u := if (s.mismatch p).pairState p = s.pairState p then s.mismatch p else (s.mismatch p).moveTargetLost p) rfl ?_ rfl
    rw [hm, if_pos rfl]
  · obtain ⟨hiso, -⟩ := State.isolate_isolated hs p.isLt true
    have hm : s.pairStall p = s.isolate p true := if_pos ⟨hcx, hst, by omega, by rw [hrun]; exact hwait⟩
    refine .of_exec (u := if (s.pairStall p).pairState p = s.pairState p then s.pairStall p else (s.pairStall p).moveTargetLost p) rfl ?_
      ⟨_, rfl, hiso⟩
    rw [hm, if_neg (Isolated.left hiso (.inl hst))]
  · have hm : s.pairStall p = s := if_neg (by
      rintro ⟨-, hst, hrun, -⟩
      exact h.elim (fun h => h hst) hrun)
    refine .of_exec (u := if (s.pairStall p).pairState p = s.pairState p then s.pairStall p else (s.pairStall p).moveTargetLost p) rfl ?_ rfl
    rw [hm, if_pos rfl]
  · have hne : q ≠ p := fun e => by
      rw [e, hst] at hq2
      cases hq2
    obtain ⟨hspare, hiso, hevt, htaken, hshown, hlow⟩ :=
      State.takeover_effect (State.takeoverMarked_effect hs hq p.isLt hne) hq p.isLt
    refine .of_exec rfl (State.takeover_eq hcx hst hv hsp) ⟨_, rfl, hspare, hiso, hevt, fun n hn => ⟨(htaken n hn).host, (htaken n hn).event⟩,
      fun n hn => (htaken n hn).again, fun n hn => (htaken n hn).stays, hshown, hlow⟩
  · exact .of_exec rfl (if_pos (.inr h)) rfl

end Sys2Proof.Machine
end

section
/-!
PROOF. What a reset gives (R491, R493, R510): the fields and the registers it leaves, and Baize after it.
-/

namespace Sys2Proof.Machine

open Sys2Proof.Claims

namespace State

variable {s : State}

/-- What a reset takes of every block but BKD, GRD and TMP, of TIME and of the counters only a cold one. -/
def wiped (cold : Bool) (s : State) : State := if cold then (s.resetRegs true).coldFields else s.resetRegs false

/-- A state whose fields a reset has reached, those that outlast it being `s`'s. -/
def Reset (cold : Bool) (s t : State) : Prop :=
  t = { State.reset with
    clk := s.clk, pending := s.pending, free := s.free, regs := t.regs, mem := t.mem, poison := t.poison, out := t.out,
    power := t.power, boot := t.boot, led := { slots := s.led.slots }, guard := t.guard, bkd := t.bkd,
    red := { copies := s.red.copies }, secure := s.secure, helper := s.helper, grantSeq := s.grantSeq,
    time := (if cold then {} else s.time), trig := (if cold then [] else s.trig), bm := (if cold then [] else s.bm),
    recNo := (if cold then [] else s.recNo) }

theorem wiped_reset (cold : Bool) : Reset cold s (s.wiped cold) ∧ (s.wiped cold).out = s.out ∧ (s.wiped cold).guard = s.guard ∧
    (s.wiped cold).bkd = s.bkd ∧ (s.wiped cold).boot = s.boot ∧ (s.wiped cold).power = { s.power with cxConf := false } := by
  cases cold <;> exact ⟨rfl, rfl, rfl, rfl, rfl, rfl⟩

/-- The registers that a reset leaves. -/
theorem rd_wiped (cold : Bool) (a : Nat) : (s.wiped cold).rd a = if survives cold a then s.rd a else (resetWord a).toNat := by
  have hget : (s.wiped cold).reg a = if survives cold a then s.reg a else resetWord a := by
    cases cold with
    | true => exact FMap.get_filter_key (p := survives true)
    | false => exact FMap.get_filter_key (p := survives false)
  rw [rd, hget]
  split <;> rfl

theorem regsOk_wiped (h : s.RegsOk) (cold : Bool) : (s.wiped cold).RegsOk := by
  cases cold with
  | true => exact FMap.wf_filter h
  | false => exact FMap.wf_filter h

/-- The memory of the compute die is lost. -/
theorem rdByte_wiped (cold : Bool) (x : Nat) : (s.wiped cold).rdByte x = if onDie x then 0 else s.rdByte x := by
  have hget : (s.wiped cold).rdByte x = if !onDie x then s.rdByte x else memDefault x := by
    cases cold with
    | true => exact FMap.get_filter_key (p := fun k => !onDie k)
    | false => exact FMap.get_filter_key (p := fun k => !onDie k)
  rw [hget]
  cases onDie x <;> rfl

/-! ### The outputs released (R433, R498) -/

/-- What the release of the outputs leaves: Baize is armed, and where it was armed it stays as it was. -/
structure Released (s t : State) : Prop where
  only  : t = { s with regs := t.regs, out := t.out, guard := t.guard }
  regs  : RegsBut guardRegs s t
  armed : s.power.ao = true → t.bit GRD_STAT 1 = true
  stays : s.bit GRD_STAT 1 = true → t.guard = s.guard ∧ t.regs = s.regs
  pins  : ∃ l, t.out = s.out ++ l ∧ [Output.pin .healthyN true, .pin .mandateN true] ⊆ l

theorem released_effect (hok : s.RegsOk) (hstaged : s.led.staged = []) (hrun : s.ledRunning = false) (hrec : ∀ r < 8, s.fld (TAE_REC_STAT r) 2 0 = 0)
    (hmandate : s.mandate = false) : Released s s.released := by
  have hpins : ∃ v, (s.drive .healthyN true).drive .mandateN true = v ∧
      v = { s with out := (s.out ++ [Output.pin .healthyN true]) ++ [.pin .mandateN true] } := ⟨_, rfl, rfl⟩
  obtain ⟨v, hv, hvonly⟩ := hpins
  have hregs : v.regs = s.regs := by rw [hvonly]
  have hvok : v.RegsOk := by rw [RegsOk, hregs]; exact hok
  have hvrun : v.ledRunning = false := by rw [hvonly]; exact hrun
  have hstep := v.guardArm_step hvrun
  have hbut : RegsBut guardRegs v v.guardArm := by simpa using hstep.regs
  have hled : v.guardArm.led = v.led := by
    have hempty : v.led.staged = [] := by rw [hvonly]; exact hstaged
    obtain ⟨l, hl, hled⟩ := hstep.staged (by rw [hempty]; decide)
    rw [hled, List.length_eq_zero_iff.mp (Nat.le_zero.mp hl), List.append_nil]
  have htae : v.guardArm.tae = v.tae := hstep.idle fun r hr => by rw [fld_congr hregs]; exact hrec r hr
  rw [released, hv]
  refine ⟨?_, RegsBut.trans (.of_regs hregs) hbut, fun hao => ?_, fun harm => ?_, ?_⟩
  · rw [hstep.only, hled, htae, hvonly]
  · refine guardArm_armed hvok (by rw [hvonly]; exact hao) ?_
    have hm : v.mandate = false := by rw [mandate, bit_congr hregs]; exact hmandate
    simp [armWanted, hm]
  · rw [guardArm_idle (.inr (by rw [bit_congr hregs]; exact harm)), hvonly]
    exact ⟨rfl, rfl⟩
  · obtain ⟨l, hl⟩ := (guardArm_kept (.refl v)).out
    refine ⟨[Output.pin .healthyN true] ++ [.pin .mandateN true] ++ l, ?_, by simp⟩
    rw [← hl, hvonly]
    simp

/-! ### Registers of a module at reset -/

/-- The registers that tell whether Baize is to be armed and whether recorders run hold their reset values, in every reset. -/
theorem not_survives : ∀ cold, (∀ r < 8, survives cold (TAE_REC_STAT r) = false) ∧ survives cold RED_STAT = false ∧
    survives cold LED_STAT = false ∧ survives cold SYS_PWR_STAT = false ∧ survives cold SYS_PF_STAT = false := by
  decide

theorem guardRegs_baize : ∀ a ∈ guardRegs, regOf [22] a = true := by decide

theorem regOf_iff {bs : List Nat} {a : Nat} : regOf bs a = true ↔ isReg (a % 2 ^ 44) = true ∧ blkOf (a % 2 ^ 44) ∈ bs := by
  rw [← List.contains_iff_mem, ← Bool.and_eq_true_iff]
  rfl

/-- What a reset leaves: registers of their own kind, the time unit and counters without `cold`, and the blocks AO and BK. -/
theorem survives_iff {cold : Bool} {a : Nat} : survives cold a = true ↔
    a ∈ keptRegs ∨ (cold = false ∧ (isCounter a = true ∨ regOf [1] a = true)) ∨ regOf [19] a = true ∨ regOf [21] a = true ∨
      regOf [22] a = true := by
  have hthree : regOf [19, 21, 22] a = true ↔ regOf [19] a = true ∨ regOf [21] a = true ∨ regOf [22] a = true := by
    simp only [regOf_iff, List.mem_cons, List.not_mem_nil, or_false, ← and_or_left]
  rw [← hthree]
  simp only [survives, Bool.or_eq_true, Bool.and_eq_true, Bool.not_eq_true', List.contains_iff_mem, or_assoc]

theorem survives_baize {cold : Bool} {a : Nat} (h : regOf [22] a = true) : survives cold a = true :=
  survives_iff.mpr (.inr (.inr (.inr (.inr h))))

/-! ### The reset itself -/

/-- What a reset from `s` leaves, its own changes of power and boot state and of the registers `own` apart. -/
structure Wiped (cold : Bool) (own : List Nat) (s t : State) : Prop where
  fields : Reset cold s t
  regsOk : t.RegsOk
  regs   : ∀ a, a ∉ own → regOf [22] a = false → t.rd a = if survives cold a then s.rd a else (resetWord a).toNat
  pwr    : t.bit SYS_PWR_STAT 1 = true
  bytes  : ∀ x, t.rdByte x = if onDie x then 0 else s.rdByte x
  armed  : t.power.ao = true → t.bit GRD_STAT 1 = true
  stays  : s.bit GRD_STAT 1 = true → t.guard = s.guard ∧ ∀ a, regOf [22] a = true → t.rd a = s.rd a
  pins   : ∃ l, t.out = s.out ++ l ∧ [Output.pin .healthyN true, .pin .mandateN true] ⊆ l
  bkd    : t.bkd = s.bkd

/-- The outputs are released once the blocks are reset and the reset's own registers put. -/
theorem wiped_released {cold : Bool} {own : List Nat} {w : State} (hok : w.RegsOk)
    (hfields : Reset cold s w) (hregs : ∀ a, a ∉ own → w.rd a = if survives cold a then s.rd a else (resetWord a).toNat)
    (hown : ∀ a ∈ own, a = SYS_PWR_STAT ∨ a = LED_STAT ∨ a = SYS_PF_STAT) (hpwr : w.bit SYS_PWR_STAT 1 = true) (hrun : w.ledRunning = false)
    (hbytes : ∀ x, w.rdByte x = if onDie x then 0 else s.rdByte x) (hguard : w.guard = s.guard) (hbkd : w.bkd = s.bkd)
    (hout : ∃ l, w.out = s.out ++ l) :
    Wiped cold own s w.released ∧ w.released.power = w.power ∧ w.released.boot = w.boot ∧
    (∀ a, regOf [22] a = false → w.released.rd a = w.rd a) := by
  have hnot : ∀ a, a ≠ SYS_PWR_STAT → a ≠ LED_STAT → a ≠ SYS_PF_STAT → a ∉ own := fun a h1 h2 h3 h => by
    rcases hown a h with h | h | h
    · exact h1 h
    · exact h2 h
    · exact h3 h
  obtain ⟨hrecs, hred, -⟩ := not_survives cold
  have hrec : ∀ r < 8, w.fld (TAE_REC_STAT r) 2 0 = 0 := fun r hr => by
    rw [fld, hregs _ (hnot _ (by interval_cases r <;> decide) (by interval_cases r <;> decide) (by interval_cases r <;> decide)),
      hrecs r hr, if_neg Bool.false_ne_true]
    interval_cases r <;> decide
  have hmandate : w.mandate = false := by
    rw [mandate, bit, hregs _ (hnot _ (by decide) (by decide) (by decide)), hred, if_neg Bool.false_ne_true]
    decide
  have hstaged : w.led.staged = [] := by rw [hfields]
  have h := released_effect hok hstaged hrun hrec hmandate
  have hlow : ∀ a, regOf [22] a = false → w.released.rd a = w.rd a := fun a ha => h.regs a fun hm => by
    rw [guardRegs_baize a hm] at ha
    cases ha
  have hbaize : ∀ a, regOf [22] a = true → w.rd a = s.rd a := fun a ha => by
    rw [hregs a (hnot a ?_ ?_ ?_), if_pos (survives_baize ha)]
    all_goals rintro rfl; exact absurd ha (by decide)
  refine ⟨⟨?_, ?_, fun a ha h22 => (hlow a h22).trans (hregs a ha), ?_, fun x => ?_, fun hao => ?_, fun harm => ?_, ?_, ?_⟩, ?_, ?_, hlow⟩
  · have honly := h.only
    generalize w.released = t at honly
    rw [Reset, honly, hfields]
  · exact (released_kept (.refl w)).regs hok
  · rw [bit, hlow _ (by decide)]
    exact hpwr
  · rw [h.only]
    exact hbytes x
  · refine h.armed ?_
    rw [h.only] at hao
    exact hao
  · obtain ⟨hg, hr⟩ := h.stays (by rw [bit, hbaize _ (by decide)]; exact harm)
    exact ⟨hg.trans hguard, fun a ha => (rd_congr hr a).trans (hbaize a ha)⟩
  · obtain ⟨l, hl⟩ := hout
    obtain ⟨l', hl', hpins⟩ := h.pins
    exact ⟨l ++ l', by rw [hl', hl, List.append_assoc], fun x hx => List.mem_append_right _ (hpins hx)⟩
  · rw [h.only]
    exact hbkd
  · rw [h.only]
  · rw [h.only]

end State

end Sys2Proof.Machine
end

section
/-!
PROOF. Cold starts (R490, R491, R496, R510–R512): power-up, RESET_N, the watchdog, a commanded cold reset, and a retry of the rails.
-/

namespace Sys2Proof.Machine

open Sys2Proof.Claims

namespace State

variable {s : State}

/-- The power of the module after a reset. -/
def powered (p : Power) (now : Nat) : Power :=
  { p with cx := true, cxEn := true, cxConf := false, cxEnAt := now, cxOffAt := none, refOk := true }

/-- The boot state after a reset that gives a start of kind `due`. -/
def booted (b : Boot) (due now : Nat) : Boot := { b with due := due, resetAt := now, recovery := false, digest := [], xspi := [] }

/-- The module wiped, with the compute die's supply on. -/
def rising (cold : Bool) (s : State) : State :=
  let w := s.wiped cold
  let w := { w with power := { w.power with cx := true, cxEn := true, cxEnAt := s.clk, cxOffAt := none } }
  if s.power.cxEn then w else w.drive .cxEn true

theorem rising_fields (cold : Bool) : ∃ l, s.rising cold = { s.wiped cold with
    out := s.out ++ l, power := { s.power with cx := true, cxEn := true, cxConf := false, cxEnAt := s.clk, cxOffAt := none } } := by
  unfold rising
  dsimp only
  obtain ⟨-, hout, -, -, -, hpower⟩ := s.wiped_reset cold
  split
  · exact ⟨[], by rw [hpower, List.append_nil, ← hout]⟩
  · exact ⟨[.pin .cxEn true], by rw [hpower, ← hout]; rfl⟩

/-- A cold reset before its outputs are released. -/
def coldWoken (s : State) : State :=
  let w := ((s.rising true).setBit SYS_PWR_STAT 1 true).startDue 1
  if w.power.mem then w.setBit LED_STAT 0 true else w

theorem coldReset_eq : s.coldReset = s.coldWoken.released := rfl

/-- A cold reset before its outputs are released: its own registers, its power and its boot state. -/
structure ColdWoken (s w : State) : Prop where
  only   : ∃ l, w = { s.wiped true with regs := w.regs, out := s.out ++ l, power := powered s.power s.clk, boot := booted s.boot 1 s.clk }
  regsOk : w.RegsOk
  regs   : ∀ a, a ∉ [SYS_PWR_STAT, LED_STAT] → w.rd a = (s.wiped true).rd a
  pwr    : w.bit SYS_PWR_STAT 1 = true
  led    : w.bit LED_STAT 0 = s.power.mem

theorem coldWoken_effect (hok : s.RegsOk) : ColdWoken s s.coldWoken := by
  obtain ⟨hreset, -, -, -, hboot, -⟩ := s.wiped_reset true
  obtain ⟨l, hrise⟩ := s.rising_fields true
  have hclk : (s.wiped true).clk = s.clk := by rw [hreset]
  obtain ⟨-, -, hled, -⟩ := not_survives true
  have hok0 : (s.rising true).RegsOk := by rw [hrise]; exact regsOk_wiped hok true
  have hrd0 : ∀ a, (s.rising true).rd a = (s.wiped true).rd a := fun a => rd_congr (by rw [hrise]) a
  have hbit0 : ((s.rising true).setBit SYS_PWR_STAT 1 true).bit SYS_PWR_STAT 1 = true := bit_setBit_same hok0 (by decide)
  have hmem0 : (((s.rising true).setBit SYS_PWR_STAT 1 true).startDue 1).power.mem = s.power.mem := by
    change (s.rising true).power.mem = s.power.mem
    rw [hrise]
  have hu : ((s.rising true).setBit SYS_PWR_STAT 1 true).startDue 1 = { s.wiped true with
      regs := ((s.rising true).setBit SYS_PWR_STAT 1 true).regs, out := s.out ++ l, power := powered s.power s.clk
      boot := booted s.boot 1 s.clk } := by
    have hstep : ∀ r, ({ s.rising true with regs := r }).startDue 1 = { s.wiped true with
        regs := r, out := s.out ++ l, power := powered s.power s.clk, boot := booted s.boot 1 s.clk } := fun r => by
      rw [hrise, startDue, hboot, hclk]
      rfl
    exact hstep _
  have hok1 := regsOk_setBit (a := SYS_PWR_STAT) (i := 1) (v := true) hok0
  have hrd1 : ∀ a, a ≠ SYS_PWR_STAT → ((s.rising true).setBit SYS_PWR_STAT 1 true).rd a = (s.wiped true).rd a := fun a ha =>
    (rd_setBit_ne ha).trans (hrd0 a)
  unfold coldWoken
  dsimp only
  rw [hmem0, hu]
  generalize (s.rising true).setBit SYS_PWR_STAT 1 true = v at hbit0 hok1 hrd1
  split
  next hmem =>
    refine ⟨⟨l, rfl⟩, regsOk_setBit (s := { s.wiped true with regs := v.regs, out := _, power := _, boot := _ }) hok1, fun a ha => ?_, ?_, ?_⟩
    · simp only [List.mem_cons, List.not_mem_nil, or_false, not_or] at ha
      exact (rd_setBit_ne ha.2).trans (hrd1 a ha.1)
    · exact (bit_setBit_other (s := { s.wiped true with regs := v.regs, out := _, power := _, boot := _ }) hok1 (by decide)
        (.inl (by decide))).trans hbit0
    · rw [hmem]
      exact bit_setBit_same (s := { s.wiped true with regs := v.regs, out := _, power := _, boot := _ }) hok1 (by decide)
  next hmem =>
    refine ⟨⟨l, rfl⟩, hok1, fun a ha => hrd1 a fun h => ha (by simp [h]), hbit0, ?_⟩
    have hzero : v.rd LED_STAT = (resetWord LED_STAT).toNat := by
      rw [hrd1 _ (by decide), rd_wiped, hled, if_neg Bool.false_ne_true]
    change v.bit LED_STAT 0 = s.power.mem
    rw [bit, hzero, Bool.eq_false_iff.mpr hmem]
    decide

/-- R491: what a cold reset leaves. -/
theorem coldReset_wiped (hok : s.RegsOk) : Wiped true [SYS_PWR_STAT, LED_STAT] s s.coldReset ∧
    s.coldReset.bit LED_STAT 0 = s.power.mem ∧ s.coldReset.power = powered s.power s.clk ∧ s.coldReset.boot = booted s.boot 1 s.clk := by
  obtain ⟨hreset, -, hguard, hbkd, -⟩ := s.wiped_reset true
  obtain ⟨⟨l, honly⟩, hwok, hrd, hbit, hmem⟩ := coldWoken_effect hok
  rw [coldReset_eq]
  generalize s.coldWoken = w at honly hwok hrd hbit hmem
  have hrun : w.ledRunning = false := by
    have hp : w.power.mem = s.power.mem := by rw [honly]; rfl
    rw [ledRunning, hp, hmem]
    cases s.power.mem <;> simp
  obtain ⟨hwiped, hpow, hboots, hlow⟩ := wiped_released (s := s) (cold := true) (own := [SYS_PWR_STAT, LED_STAT]) hwok (by rw [Reset, honly, hreset])
    (fun a ha => (hrd a ha).trans (rd_wiped true a)) (by simp) hbit hrun (fun x => by rw [honly]; exact rdByte_wiped true x)
    (by rw [honly]; exact hguard) (by rw [honly]; exact hbkd) ⟨l, by rw [honly]⟩
  refine ⟨hwiped, ?_, ?_, ?_⟩
  · rw [bit, hlow _ (by decide)]
    exact hmem
  · rw [hpow, honly]
  · rw [hboots, honly]

end State

end Sys2Proof.Machine
end

section
/-!
PROOF. Cold starts (R490, R491, R496, R510–R512): power-up, RESET_N, the watchdog, a commanded cold reset, and a retry of the rails.
-/

namespace Sys2Proof.Machine

open Sys2Proof.Claims

namespace State

variable {s : State}

/-- A state that differs from `s` by registers, power and boot state, outputs, Baize's and the backup domain's state, and answers. -/
def NearReset (s u : State) : Prop :=
  u = { s with regs := u.regs, power := u.power, boot := u.boot, out := u.out, guard := u.guard, bkd := u.bkd, reply := u.reply }

/-- What a cold reset from `u` leaves, as a cold start of `s`: `u` has begun it, and `t` has put its registers `more`, the wake
cause, and its power and boot state. -/
structure Started (p : Power) (b : Boot) (ao : Bool) (more : List Nat) (s u t : State) : Prop where
  near   : NearReset s u
  out    : ∃ l, u.out = s.out ++ l
  before : ∀ a, a ∉ more → regOf [22] a = false → survives true a = true →
    u.rd a = if a ∈ keptRegs ∨ regOf [21] a = true ∨ (ao = true ∧ regOf [19] a = true) then s.rd a else (resetWord a).toNat
  baize  : ao = true → s.power.ao = true → s.bit GRD_STAT 1 = true → u.guard = s.guard ∧ ∀ a, regOf [22] a = true → u.rd a = s.rd a
  only   : t = { u.coldReset with regs := t.regs, power := t.power, boot := t.boot }
  regs   : RegsBut (SYS_PWR_STAT :: more) u.coldReset t
  more   : ∀ a ∈ more, regOf [22] a = false ∧ a ≠ LED_STAT
  pwr    : t.bit SYS_PWR_STAT 1 = u.coldReset.bit SYS_PWR_STAT 1
  power  : t.power = powered p s.clk
  boot   : t.boot = booted b 1 s.clk
  mem    : p.mem = u.power.mem
  on     : p.ao = u.power.ao

theorem Started.cold {p : Power} {b : Boot} {ao : Bool} {more : List Nat} {u t : State} (hok : u.RegsOk)
    (h : Started p b ao more s u t) : ColdState p b ao more s t := by
  obtain ⟨hw, hled, hpow, -⟩ := coldReset_wiped hok
  have hnear := h.near
  have htfields := h.only
  have hbyte : ∀ x, u.rdByte x = s.rdByte x := fun x => by rw [hnear]; rfl
  have hrd : ∀ a, a ≠ SYS_PWR_STAT → a ∉ more → t.rd a = u.coldReset.rd a := fun a h1 h2 => h.regs a (by simp [h1, h2])
  have hrd22 : ∀ a, regOf [22] a = true → t.rd a = u.coldReset.rd a := fun a ha =>
    hrd a (fun e => by rw [e] at ha; exact absurd ha (by decide)) fun hm => by
      rw [(h.more a hm).1] at ha
      cases ha
  refine ⟨⟨?_, fun a ha h22 => ?_, fun hao => ?_, fun hao hpao harm => ?_, ?_⟩, h.pwr.trans hw.pwr, ?_, h.power, h.boot, fun x => ?_, ?_⟩
  · have hreset := hw.fields
    generalize u.coldReset = c at hreset htfields
    rw [Reset, hnear] at hreset
    rw [htfields, hreset]
  · simp only [List.cons_append, List.nil_append, List.mem_cons, not_or] at ha
    obtain ⟨hpwr, hledne, hmore⟩ := ha
    rw [hrd a hpwr hmore, hw.regs a (by simp [hpwr, hledne]) h22]
    have hfalse : ¬(true = false ∧ (isCounter a = true ∨ regOf [1] a = true)) := fun hf => Bool.noConfusion hf.1
    by_cases hsur : survives true a = true
    · rw [if_pos hsur, h.before a hmore h22 hsur]
      exact if_congr (by simp only [hfalse, false_or, keptRegs]) rfl rfl
    · rw [if_neg hsur, if_neg]
      rintro (hk | hf | h21 | ⟨-, h19⟩)
      · exact hsur (survives_iff.mpr (.inl hk))
      · exact hfalse hf
      · exact hsur (survives_iff.mpr (.inr (.inr (.inr (.inl h21)))))
      · exact hsur (survives_iff.mpr (.inr (.inr (.inl h19))))
  · rw [bit, hrd22 _ (by decide)]
    refine hw.armed ?_
    rw [hpow]
    rw [h.power] at hao
    exact h.on.symm.trans hao
  · obtain ⟨hguard, hregs⟩ := h.baize hao hpao harm
    obtain ⟨hg, hr⟩ := hw.stays (by rw [bit, hregs _ (by decide)]; exact harm)
    refine ⟨?_, fun a ha => (hrd22 a ha).trans ((hr a ha).trans (hregs a ha))⟩
    rw [h.only]
    exact hg.trans hguard
  · obtain ⟨l, hl⟩ := h.out
    obtain ⟨l', hl', -⟩ := hw.pins
    exact ⟨l ++ l', by rw [h.only, ← List.append_assoc, ← hl]; exact hl'.symm⟩
  · rw [bit, hrd _ (by decide) (fun hm => (h.more _ hm).2 rfl), h.mem]
    exact hled
  · rw [h.only]
    exact (hw.bytes x).trans (by rw [hbyte])
  · obtain ⟨l, hl⟩ := h.out
    obtain ⟨l', hl', hpins⟩ := hw.pins
    have hout : t.out = s.out ++ (l ++ l') := by rw [h.only, ← List.append_assoc, ← hl]; exact hl'
    rw [hout, List.drop_left]
    exact fun x hx => List.mem_append_right _ (hpins hx)

/-- Where the always-on domain stays, what a reset leaves is as it was. -/
theorem before_same {more : List Nat} {u : State} (h : ∀ a, a ∉ more → u.rd a = s.rd a) (a : Nat) (ha : a ∉ more)
    (h22 : regOf [22] a = false) (hsur : survives true a = true) :
    u.rd a = if a ∈ keptRegs ∨ regOf [21] a = true ∨ (true = true ∧ regOf [19] a = true) then s.rd a else (resetWord a).toNat := by
  rw [h a ha, if_pos]
  rcases survives_iff.mp hsur with hk | hf | h19 | h21 | hb
  · exact .inl hk
  · exact Bool.noConfusion hf.1
  · exact .inr (.inr ⟨rfl, h19⟩)
  · exact .inr (.inl h21)
  · rw [h22] at hb
    cases hb

theorem coldReset_power (hok : s.RegsOk) : s.coldReset.power = powered s.power s.clk := (coldReset_wiped hok).2.2.1

theorem coldReset_boot (hok : s.RegsOk) : s.coldReset.boot = booted s.boot 1 s.clk := (coldReset_wiped hok).2.2.2

theorem coldReset_bkd (hok : s.RegsOk) : s.coldReset.bkd = s.bkd := (coldReset_wiped hok).1.bkd

/-- A cold reset and nothing else. -/
theorem coldReset_started {u : State} (hok : u.RegsOk) (hs : u = { s with reply := u.reply }) :
    Started s.power s.boot true [] s u u.coldReset where
  near := by unfold NearReset; rw [hs]
  out := ⟨[], by rw [hs, List.append_nil]⟩
  before := before_same fun a _ => rd_congr (by rw [hs]) a
  baize _ _ _ := ⟨by rw [hs], fun a _ => rd_congr (by rw [hs]) a⟩
  only := rfl
  regs := .of_regs rfl
  more := by simp
  pwr := rfl
  power := by rw [coldReset_power hok, hs]
  boot := by rw [coldReset_boot hok, hs]
  mem := by rw [hs]
  on := by rw [hs]

/-! ### The wake cause and the straps (R507, R512) -/

/-- A cold reset with its wake cause. -/
def causedReset (c : Nat) (s : State) : State := s.coldReset.setFld SYS_PWR_STAT 7 4 c

theorem causedReset_effect (hok : s.RegsOk) {c : Nat} (hc : c < 16) :
    (s.causedReset c).RegsOk ∧ RegsBut [SYS_PWR_STAT] s.coldReset (s.causedReset c) ∧
    (s.causedReset c).bit SYS_PWR_STAT 1 = s.coldReset.bit SYS_PWR_STAT 1 ∧ (s.causedReset c).fld SYS_PWR_STAT 7 4 = c ∧
    s.causedReset c = { s.coldReset with regs := (s.causedReset c).regs } := by
  have hwok := (coldReset_wiped hok).1.regsOk
  exact ⟨regsOk_setFld hwok, regsBut_setReg, bit_setFld_other hwok (by decide) (by decide) (.inr (.inr (by decide))),
    (fld_setFld_same hwok (by decide) (by decide)).trans (Nat.mod_eq_of_lt hc), rfl⟩

theorem straps_effect (hok : s.RegsOk) {role pos boot : Nat} (hr : role < 4) (hp : pos < 8) (hb : boot < 4) :
    RegsBut [SYS_STRAP, RED_STRAP] s (s.straps role pos boot) ∧ s.straps role pos boot = { s with regs := (s.straps role pos boot).regs } ∧
    (s.straps role pos boot).rd SYS_STRAP = role + 4 * pos + 32 * boot ∧ (s.straps role pos boot).rd RED_STRAP = role + 4 * pos := by
  refine ⟨RegsBut.setReg (RegsBut.setReg (.of_regs rfl) (by simp)) (by simp), rfl, ?_, ?_⟩
  · rw [straps, rd_setReg_ne (by decide), rd_setReg_same hok]
    omega
  · rw [straps, rd_setReg_same (regsOk_setReg hok)]
    omega

/-! ### RESET_N held long (R496) -/

/-- R496: recovery is left by a cold start. -/
theorem resetLong_cold (hs : s.Canonical) (hao : s.power.ao = true) (hnx : s.power.nx = true) (hrec : s.boot.recovery = true) :
    s.resetLong.rd BKD_START = setBits (s.rd BKD_START) 3 0 0 ∧ s.resetLong.fld SYS_PWR_STAT 7 4 = 1 ∧ s.resetLong.bkd = s.bkd ∧
    ColdState s.power s.boot true [BKD_START] s s.resetLong := by
  have hok := Canonical.regsOk hs
  have heq : s.resetLong = (s.setFld BKD_START 3 0 0).causedReset 1 := by
    refine (if_neg (by simp [hao])).trans (if_pos ?_)
    exact ⟨hnx, hrec⟩
  have huok := regsOk_setFld (a := BKD_START) (hi := 3) (lo := 0) (v := 0) hok
  have hurd : ∀ a, a ∉ [BKD_START] → (s.setFld BKD_START 3 0 0).rd a = s.rd a := regsBut_setReg
  have husame : (s.setFld BKD_START 3 0 0).rd BKD_START = setBits (s.rd BKD_START) 3 0 0 := rd_setFld_same hok (by decide) (by decide)
  have huonly : s.setFld BKD_START 3 0 0 = { s with regs := (s.setFld BKD_START 3 0 0).regs } := rfl
  rw [heq]
  generalize s.setFld BKD_START 3 0 0 = u at huok hurd husame huonly
  obtain ⟨-, hregs, hpwr, hcause, honly⟩ := causedReset_effect huok (c := 1) (by decide)
  generalize u.causedReset 1 = t at hregs hpwr hcause honly
  have hstart : Started s.power s.boot true [BKD_START] s u t :=
    { near := by unfold NearReset; rw [huonly]
      out := ⟨[], by rw [huonly, List.append_nil]⟩
      before := before_same hurd
      baize := fun _ _ _ => ⟨by rw [huonly], fun a ha => hurd a (by
        rw [List.mem_singleton]
        rintro rfl
        exact absurd ha (by decide))⟩
      only := by rw [honly]
      regs := hregs.mono (by simp)
      more := by simp; decide
      pwr := hpwr
      power := by rw [honly]; exact (coldReset_power huok).trans (by rw [huonly])
      boot := by rw [honly]; exact (coldReset_boot huok).trans (by rw [huonly])
      mem := by rw [huonly]
      on := by rw [huonly] }
  refine ⟨?_, hcause, ?_, hstart.cold huok⟩
  · rw [hregs _ (by decide), (coldReset_wiped huok).1.regs _ (by decide) (by decide), if_pos (by decide), husame]
  · rw [honly]
    exact (coldReset_bkd huok).trans (by rw [huonly])

end State

end Sys2Proof.Machine
end

section
/-!
PROOF. RESET_N pulsed, the rails raised again and power-up (R490, R491, R507, R510–R512).
-/

namespace Sys2Proof.Machine

open Sys2Proof.Claims

namespace State

variable {s : State}

/-- The straps, as they are sampled after a reset. -/
def strapRegs : List Nat := [SYS_STRAP, RED_STRAP]

/-- A reset with its wake cause and the straps sampled: `t` differs from it by power and boot state. -/
theorem strapped_effect {u t : State} (hok : u.RegsOk) {c role pos boot : Nat} (hc : c < 16) (hr : role < 4) (hp : pos < 8)
    (hb : boot < 4) (ht : t = { (u.causedReset c).straps role pos boot with power := t.power, boot := t.boot }) :
    t = { u.coldReset with regs := t.regs, power := t.power, boot := t.boot } ∧ RegsBut (SYS_PWR_STAT :: strapRegs) u.coldReset t ∧
    t.bit SYS_PWR_STAT 1 = u.coldReset.bit SYS_PWR_STAT 1 ∧ t.fld SYS_PWR_STAT 7 4 = c ∧
    t.rd SYS_STRAP = role + 4 * pos + 32 * boot ∧ t.rd RED_STRAP = role + 4 * pos ∧ t.bkd = u.bkd := by
  obtain ⟨hcok, hcregs, hcpwr, hcause, hconly⟩ := causedReset_effect hok hc
  obtain ⟨hsregs, hsonly, hstrap, hred⟩ := straps_effect hcok hr hp hb
  have hbkd := coldReset_bkd hok
  generalize (u.causedReset c).straps role pos boot = v at ht hsregs hsonly hstrap hred
  have hregs : t.regs = v.regs := by rw [ht]
  have hbut : RegsBut (SYS_PWR_STAT :: strapRegs) u.coldReset t :=
    RegsBut.congr (RegsBut.trans (hcregs.mono (by simp)) (hsregs.mono (by simp [strapRegs]))) hregs
  have hrd : t.rd SYS_PWR_STAT = (u.causedReset c).rd SYS_PWR_STAT := (rd_congr hregs _).trans (hsregs _ (by decide))
  refine ⟨?_, hbut, ?_, ?_, (rd_congr hregs _).trans hstrap, (rd_congr hregs _).trans hred, ?_⟩
  · rw [ht, hsonly, hconly]
  · rw [bit, hrd]; exact hcpwr
  · rw [fld, hrd]; exact hcause
  · rw [ht, hsonly, hconly]; exact hbkd

/-! ### RESET_N pulsed (R491, R511) -/

/-- R491: a pulse while the network die is on. -/
theorem resetPulse_on (hs : s.Canonical) {role pos boot : Nat} (hr : role < 4) (hp : pos < 8) (hb : boot < 4)
    (hao : s.power.ao = true) (hnx : s.power.nx = true) :
    ColdState { s.power with tries := 0, retry := none } { s.boot with pfailAt := none, retained := false } true strapRegs s
      (s.resetPulse role pos boot) ∧ (s.resetPulse role pos boot).rd SYS_STRAP = role + 4 * pos + 32 * boot ∧
    (s.resetPulse role pos boot).rd RED_STRAP = role + 4 * pos ∧ (s.resetPulse role pos boot).fld SYS_PWR_STAT 7 4 = 1 ∧
    (s.resetPulse role pos boot).bkd = s.bkd := by
  have hok := Canonical.regsOk hs
  have heq : s.resetPulse role pos boot = (((s.causedReset 1).modPower fun p => { p with tries := 0, retry := none }).straps role pos
      boot).modBoot fun b => { b with pfailAt := none, retained := false } := by
    unfold resetPulse
    rw [if_neg (by simp [hao]), if_pos hnx]
    rfl
  have hpower : (s.resetPulse role pos boot).power = powered { s.power with tries := 0, retry := none } s.clk := by
    have h : (s.resetPulse role pos boot).power = { s.coldReset.power with tries := 0, retry := none } := by rw [heq]; rfl
    rw [h, coldReset_power hok]
    rfl
  have hboot : (s.resetPulse role pos boot).boot = booted { s.boot with pfailAt := none, retained := false } 1 s.clk := by
    have h : (s.resetPulse role pos boot).boot = { s.coldReset.boot with pfailAt := none, retained := false } := by rw [heq]; rfl
    rw [h, coldReset_boot hok]
    rfl
  have ht : s.resetPulse role pos boot = { (s.causedReset 1).straps role pos boot with
      power := (s.resetPulse role pos boot).power, boot := (s.resetPulse role pos boot).boot } := by
    rw [heq]
    generalize s.causedReset 1 = v
    rfl
  generalize s.resetPulse role pos boot = t at ht hpower hboot ⊢
  obtain ⟨honly, hregs, hpwr, hcause, hstrap, hred, hbkd⟩ := strapped_effect hok (by decide) hr hp hb ht
  have hstart : Started { s.power with tries := 0, retry := none } { s.boot with pfailAt := none, retained := false } true strapRegs s s t :=
    ⟨rfl, ⟨[], by rw [List.append_nil]⟩, before_same fun _ _ => rfl, fun _ _ _ => ⟨rfl, fun _ _ => rfl⟩, honly, hregs, by decide, hpwr, hpower,
      hboot, rfl, rfl⟩
  exact ⟨hstart.cold hok, hstrap, hred, hcause, hbkd⟩

/-! ### The rails raised (R510, R511) -/

/-- The network die's supply on. -/
def nxUp (c : Nat) (s : State) : State :=
  { s.drive .nxEn true with power := { s.power with
      nx := true, nxEn := true, mem := true, nxUpAt := s.clk, tries := if c = 3 then s.power.tries else 0, retry := none } }

theorem nxRise_eq (c : Nat) : s.nxRise c = ((s.nxUp c).causedReset c).modBoot fun b => { b with seedDue := true } := rfl

theorem nxUp_near (c : Nat) : NearReset s (s.nxUp c) ∧ (s.nxUp c).out = s.out ++ [.pin .nxEn true] ∧ (s.nxUp c).regs = s.regs ∧
    (s.nxUp c).guard = s.guard ∧ (s.nxUp c).bkd = s.bkd ∧ (s.nxUp c).boot = s.boot := ⟨rfl, rfl, rfl, rfl, rfl, rfl⟩

/-- R491: a pulse while the network die is off raises the rails. -/
theorem resetPulse_off (hs : s.Canonical) {role pos boot : Nat} (hr : role < 4) (hp : pos < 8) (hb : boot < 4)
    (hao : s.power.ao = true) (hnx : s.power.nx = false) :
    ColdState { s.power with nx := true, mem := true, nxEn := true, nxUpAt := s.clk, tries := 0, retry := none }
      { s.boot with pfailAt := none, retained := false, seedDue := true } true strapRegs s
      (s.resetPulse role pos boot) ∧ (s.resetPulse role pos boot).rd SYS_STRAP = role + 4 * pos + 32 * boot ∧
    (s.resetPulse role pos boot).rd RED_STRAP = role + 4 * pos ∧ (s.resetPulse role pos boot).fld SYS_PWR_STAT 7 4 = 1 ∧
    (s.resetPulse role pos boot).bkd = s.bkd := by
  have hok : (s.nxUp 1).RegsOk := Canonical.regsOk hs
  have heq : s.resetPulse role pos boot = ((((s.nxUp 1).causedReset 1).modBoot fun b => { b with seedDue := true }).straps role pos
      boot).modBoot fun b => { b with pfailAt := none, retained := false } := by
    unfold resetPulse
    rw [if_neg (by simp [hao]), if_neg (by simp [hnx])]
    rfl
  have hpower : (s.resetPulse role pos boot).power =
      powered { s.power with nx := true, mem := true, nxEn := true, nxUpAt := s.clk, tries := 0, retry := none } s.clk := by
    have h : (s.resetPulse role pos boot).power = (s.nxUp 1).coldReset.power := by rw [heq]; rfl
    rw [h, coldReset_power hok]
    rfl
  have hboot : (s.resetPulse role pos boot).boot = booted { s.boot with pfailAt := none, retained := false, seedDue := true } 1 s.clk := by
    have h : (s.resetPulse role pos boot).boot = { (s.nxUp 1).coldReset.boot with seedDue := true, pfailAt := none, retained := false } := by
      rw [heq]; rfl
    rw [h, coldReset_boot hok]
    rfl
  have ht : s.resetPulse role pos boot = { ((s.nxUp 1).causedReset 1).straps role pos boot with
      power := (s.resetPulse role pos boot).power, boot := (s.resetPulse role pos boot).boot } := by
    rw [heq]
    generalize (s.nxUp 1).causedReset 1 = v
    rfl
  generalize s.resetPulse role pos boot = t at ht hpower hboot ⊢
  obtain ⟨honly, hregs, hpwr, hcause, hstrap, hred, hbkd⟩ := strapped_effect hok (by decide) hr hp hb ht
  have hstart : Started { s.power with nx := true, mem := true, nxEn := true, nxUpAt := s.clk, tries := 0, retry := none }
      { s.boot with pfailAt := none, retained := false, seedDue := true } true strapRegs s (s.nxUp 1) t :=
    ⟨rfl, ⟨_, rfl⟩, before_same fun _ _ => rfl, fun _ _ _ => ⟨rfl, fun _ _ => rfl⟩, honly, hregs, by decide, hpwr, hpower, hboot, rfl, rfl⟩
  exact ⟨hstart.cold hok, hstrap, hred, hcause, hbkd⟩

/-- R511: a retry of the rails. -/
theorem nxRise_retry (hs : s.Canonical) :
    ColdState { s.power with nx := true, mem := true, nxEn := true, nxUpAt := s.clk, retry := none } { s.boot with seedDue := true } true []
      s (s.nxRise 3) ∧ (s.nxRise 3).fld SYS_PWR_STAT 7 4 = 3 ∧ (s.nxRise 3).bkd = s.bkd := by
  have hok : (s.nxUp 3).RegsOk := Canonical.regsOk hs
  obtain ⟨-, hregs, hpwr, hcause, honly⟩ := causedReset_effect hok (c := 3) (by decide)
  have hpower : ((s.nxUp 3).causedReset 3).power =
      powered { s.power with nx := true, mem := true, nxEn := true, nxUpAt := s.clk, retry := none } s.clk := by
    rw [honly]; exact (coldReset_power hok).trans rfl
  have hboot : ((s.nxUp 3).causedReset 3).boot = booted s.boot 1 s.clk := by
    rw [honly]; exact (coldReset_boot hok).trans rfl
  have hbkd : ((s.nxUp 3).causedReset 3).bkd = s.bkd := by
    rw [honly]; exact (coldReset_bkd hok).trans rfl
  rw [nxRise_eq]
  generalize (s.nxUp 3).causedReset 3 = v at hregs hpwr hcause honly hpower hboot hbkd
  have hstart : Started { s.power with nx := true, mem := true, nxEn := true, nxUpAt := s.clk, retry := none } { s.boot with seedDue := true }
      true [] s (s.nxUp 3) (v.modBoot fun b => { b with seedDue := true }) :=
    ⟨rfl, ⟨_, rfl⟩, before_same fun _ _ => rfl, fun _ _ _ => ⟨rfl, fun _ _ => rfl⟩, by rw [modBoot, honly], RegsBut.congr hregs rfl, by simp, hpwr,
      hpower, by rw [modBoot, hboot]; rfl, rfl, rfl⟩
  exact ⟨hstart.cold hok, hcause, hbkd⟩

/-! ### Power-up (R490, R510) -/

/-- The always-on domain out of its power-on reset, and the power cycle counted. -/
def aoUp (s : State) : State :=
  ((({ s.resetBlocks [19, 22] with guard := {} }.modPower fun p => { p with ao := true, bk := true }).setBit BKD_STAT 1 false).inc
    BKD_PCYCLE).modBkd fun b => { b with copyDue := true }

theorem powerUp_eq (hao : s.power.ao = false) (role pos boot : Nat) :
    s.powerUp role pos boot = ((((s.aoUp.nxUp 0).causedReset 0).modBoot fun b => { b with seedDue := true }).straps role pos boot) :=
  if_neg (by simp [hao])

theorem aoUp_effect (hok : s.RegsOk) :
    s.aoUp = { s with regs := s.aoUp.regs, guard := {}, power := { s.power with ao := true, bk := true }
                      bkd := { s.bkd with copyDue := true } } ∧ s.aoUp.RegsOk ∧
    (∀ a, a ∉ [BKD_STAT, BKD_PCYCLE] → s.aoUp.rd a = if regOf [19, 22] a then (resetWord a).toNat else s.rd a) ∧
    s.aoUp.rd BKD_STAT = lowered (s.rd BKD_STAT) 1 ∧ s.aoUp.rd BKD_PCYCLE = incSat 32 (s.rd BKD_PCYCLE) := by
  have hok0 : (s.resetBlocks [19, 22]).RegsOk := FMap.wf_filter hok
  have hrd0 : ∀ a, (s.resetBlocks [19, 22]).rd a = if regOf [19, 22] a then (resetWord a).toNat else s.rd a := fun a => by
    have hget : (s.resetBlocks [19, 22]).reg a = if !regOf [19, 22] a then s.reg a else resetWord a :=
      FMap.get_filter_key (p := fun k => !regOf [19, 22] k)
    rw [rd, hget]
    cases regOf [19, 22] a <;> rfl
  have hok1 : (({ s.resetBlocks [19, 22] with guard := {} }.modPower fun p => { p with ao := true, bk := true }).setBit BKD_STAT 1
      false).RegsOk := regsOk_setBit (s := { s.resetBlocks [19, 22] with guard := {}, power := _ }) hok0
  refine ⟨rfl, regsOk_inc hok1, fun a ha => ?_, ?_, ?_⟩
  · simp only [List.mem_cons, List.not_mem_nil, or_false, not_or] at ha
    exact (rd_inc_ne ha.2).trans ((rd_setBit_ne ha.1).trans (hrd0 a))
  · refine (rd_inc_ne (by decide)).trans ((rd_setFld_same (show RegsOk _ from hok0) (by decide) (by decide)).trans ?_)
    exact congrArg (lowered · 1) (hrd0 BKD_STAT)
  · exact (rd_inc_same hok1).trans (congrArg (incSat 32) ((rd_setBit_ne (by decide)).trans (hrd0 BKD_PCYCLE)))

theorem aoUp_before (hok : s.RegsOk) (a : Nat) (ha : a ∉ strapRegs ++ [BKD_STAT, BKD_PCYCLE]) (h22 : regOf [22] a = false)
    (hsur : survives true a = true) :
    s.aoUp.rd a = if a ∈ keptRegs ∨ regOf [21] a = true ∨ (false = true ∧ regOf [19] a = true) then s.rd a else (resetWord a).toNat := by
  obtain ⟨-, -, hrd, -⟩ := aoUp_effect hok
  have htwo : regOf [19, 22] a = true ↔ regOf [19] a = true ∨ regOf [22] a = true := by
    simp only [regOf_iff, List.mem_cons, List.not_mem_nil, or_false, ← and_or_left]
  rw [hrd a fun h => ha (List.mem_append_right _ h)]
  by_cases h : regOf [19, 22] a = true
  · have h19 : regOf [19] a = true := (htwo.mp h).resolve_right (by simp [h22])
    rw [if_pos h, if_neg]
    rintro (hk | h21 | ⟨hf, -⟩)
    · rw [(by decide : ∀ b ∈ keptRegs, regOf [19, 22] b = false) a hk] at h
      cases h
    · have hb19 := (regOf_iff.mp h19).2
      have hb21 := (regOf_iff.mp h21).2
      simp only [List.mem_cons, List.not_mem_nil, or_false] at hb19 hb21
      omega
    · cases hf
  · rw [if_neg h, if_pos]
    rcases survives_iff.mp hsur with hk | hf | h19 | h21 | hb
    · exact .inl hk
    · exact Bool.noConfusion hf.1
    · exact absurd (htwo.mpr (.inl h19)) h
    · exact .inr (.inl h21)
    · exact absurd (htwo.mpr (.inr hb)) h

/-- R490: power-up. -/
theorem powerUp_cold (hs : s.Canonical) {role pos boot : Nat} (hr : role < 4) (hp : pos < 8) (hb : boot < 4) (hao : s.power.ao = false) :
    ColdState { s.power with nx := true, mem := true, ao := true, bk := true, nxEn := true, nxUpAt := s.clk, tries := 0, retry := none }
      { s.boot with seedDue := true } false (strapRegs ++ [BKD_STAT, BKD_PCYCLE]) s (s.powerUp role pos boot) ∧
    (s.powerUp role pos boot).rd SYS_STRAP = role + 4 * pos + 32 * boot ∧ (s.powerUp role pos boot).rd RED_STRAP = role + 4 * pos ∧
    (s.powerUp role pos boot).fld SYS_PWR_STAT 7 4 = 0 ∧ (s.powerUp role pos boot).rd BKD_PCYCLE = incSat 32 (s.rd BKD_PCYCLE) ∧
    (s.powerUp role pos boot).rd BKD_STAT = lowered (s.rd BKD_STAT) 1 ∧
    (s.powerUp role pos boot).bkd = { s.bkd with copyDue := true } := by
  have hsok := Canonical.regsOk hs
  have hbefore := aoUp_before hsok
  obtain ⟨huponly, hupok, -, hstat, hcycle⟩ := aoUp_effect hsok
  have heq := powerUp_eq hao role pos boot
  generalize s.aoUp = v at hbefore huponly hupok hstat hcycle heq
  have hok : (v.nxUp 0).RegsOk := hupok
  have hpower : (s.powerUp role pos boot).power = powered
      { s.power with nx := true, mem := true, ao := true, bk := true, nxEn := true, nxUpAt := s.clk, tries := 0, retry := none } s.clk := by
    have h : (s.powerUp role pos boot).power = (v.nxUp 0).coldReset.power := by rw [heq]; rfl
    rw [h, coldReset_power hok, nxUp, huponly]
    rfl
  have hboot : (s.powerUp role pos boot).boot = booted { s.boot with seedDue := true } 1 s.clk := by
    have h : (s.powerUp role pos boot).boot = { (v.nxUp 0).coldReset.boot with seedDue := true } := by rw [heq]; rfl
    rw [h, coldReset_boot hok, nxUp, huponly]
    rfl
  have ht : s.powerUp role pos boot = { ((v.nxUp 0).causedReset 0).straps role pos boot with
      power := (s.powerUp role pos boot).power, boot := (s.powerUp role pos boot).boot } := by
    rw [heq]
    generalize (v.nxUp 0).causedReset 0 = c
    rfl
  generalize s.powerUp role pos boot = t at ht hpower hboot ⊢
  obtain ⟨honly, hregs, hpwr, hcause, hstrap, hred, hbkd⟩ := strapped_effect hok (by decide) hr hp hb ht
  have hstart : Started
      { s.power with nx := true, mem := true, ao := true, bk := true, nxEn := true, nxUpAt := s.clk, tries := 0, retry := none }
      { s.boot with seedDue := true } false (strapRegs ++ [BKD_STAT, BKD_PCYCLE]) s (v.nxUp 0) t :=
    { near := by rw [NearReset, nxUp, huponly]; rfl
      out := ⟨[.pin .nxEn true], by rw [nxUp, huponly]; rfl⟩
      before := hbefore
      baize := fun h => absurd h Bool.false_ne_true
      only := honly
      regs := hregs.mono (by simp [strapRegs])
      more := by decide
      pwr := hpwr
      power := hpower
      boot := hboot
      mem := rfl
      on := by rw [nxUp, huponly] }
  have hkeep : ∀ a ∈ [BKD_STAT, BKD_PCYCLE], t.rd a = v.rd a := fun a ha => by
    have hplace : a ∉ SYS_PWR_STAT :: strapRegs ∧ a ∉ [SYS_PWR_STAT, LED_STAT] ∧ regOf [22] a = false ∧ survives true a = true :=
      (by decide : ∀ a ∈ [BKD_STAT, BKD_PCYCLE],
        a ∉ SYS_PWR_STAT :: strapRegs ∧ a ∉ [SYS_PWR_STAT, LED_STAT] ∧ regOf [22] a = false ∧ survives true a = true) a ha
    obtain ⟨h1, h2, h3, h4⟩ := hplace
    rw [hregs a h1, (coldReset_wiped hok).1.regs a h2 h3, if_pos h4]
    rfl
  refine ⟨hstart.cold hok, hstrap, hred, hcause, (hkeep _ (by simp)).trans hcycle, (hkeep _ (by simp)).trans hstat, hbkd.trans ?_⟩
  rw [nxUp, huponly]
  rfl

end State

end Sys2Proof.Machine
end

section
/-!
PROOF. The warm reset (R493): its token, and what it leaves.
-/

namespace Sys2Proof.Machine

open Sys2Proof.Claims

namespace State

variable {s : State}

/-! ### The token -/

theorem crcBit_lt {c : Nat} (h : c < 2 ^ 32) : crcBit c < 2 ^ 32 := by
  unfold crcBit
  split
  · exact Nat.xor_lt_two_pow (by omega) (by decide)
  · omega

theorem crcByte_lt {c : Nat} (h : c < 2 ^ 32) (b : Byte) : crcByte c b < 2 ^ 32 := by
  have hb : b.toNat < 2 ^ 32 := b.isLt.trans (by decide)
  unfold crcByte
  iterate 8 apply crcBit_lt
  exact Nat.xor_lt_two_pow h hb

theorem crc32_lt (l : List Byte) : crc32 l < 2 ^ 32 := by
  have hfold : ∀ (l : List Byte) (c : Nat), c < 2 ^ 32 → l.foldl crcByte c < 2 ^ 32 := by
    intro l
    induction l with
    | nil => exact fun _ h => h
    | cons b l ih => exact fun c h => ih _ (crcByte_lt h b)
  exact Nat.xor_lt_two_pow (hfold l _ (by decide)) (by decide)

theorem leNat_lt (l : List Byte) : leNat l < 256 ^ l.length := by
  induction l with
  | nil => decide
  | cons b l ih =>
    have hb : b.toNat < 256 := b.isLt
    rw [leNat, List.length_cons, pow_succ]
    omega

theorem ld_lt (s : State) (a n : Nat) : s.ld a n < 256 ^ n := by
  have h := leNat_lt (s.rdBytes a n)
  rwa [rdBytes, List.length_map, List.length_range] at h

theorem tokenWords_lt (s : State) (gen k : Nat) : (s.tokenWords gen).getD k 0 < 2 ^ 32 := by
  have h1 := s.ld_lt (boltBase + 0x20) 4
  have h2 : gen % 65536 < 2 ^ 32 := by omega
  have h3 := crc32_lt ([0x574D5354, s.ld (boltBase + 0x20) 4, gen % 65536].flatMap (bytesLE 4))
  match k with
  | 0 => exact (by decide : 0x574D5354 < 2 ^ 32)
  | 1 => exact h1
  | 2 => exact h2
  | 3 => exact h3
  | k + 4 => exact (by decide : 0 < 2 ^ 32)

/-- With nothing staged a flush sets its event, or does nothing where LED cannot write. -/
theorem ledFlush_empty (h : s.led.staged = []) : s.ledFlush = s ∨ s.ledFlush = s.evt LED_EVT 3 := by
  have hled : ({ s with led := { s.led with staged := [] } } : State) = s := by
    have : ({ s.led with staged := [] } : Ledger) = s.led := by rw [← h]
    rw [this]
  unfold ledFlush
  split
  · exact .inl rfl
  · refine .inr ?_
    dsimp only
    rw [h, hled]
    rfl

theorem putToken_effect (hok : s.RegsOk) {l : List Nat} (hl : ∀ k < 4, l.getD k 0 < 2 ^ 32) :
    s.putToken l = { s with regs := (s.putToken l).regs } ∧ (s.putToken l).RegsOk ∧
    RegsBut ((List.range 4).map BKD_WTOKEN) s (s.putToken l) ∧ ∀ k < 4, (s.putToken l).rd (BKD_WTOKEN k) = l.getD k 0 := by
  have heq : s.putToken l = (((s.setReg (BKD_WTOKEN 0) (l.getD 0 0)).setReg (BKD_WTOKEN 1) (l.getD 1 0)).setReg (BKD_WTOKEN 2)
    (l.getD 2 0)).setReg (BKD_WTOKEN 3) (l.getD 3 0) := rfl
  have hok1 := regsOk_setReg (a := BKD_WTOKEN 0) (v := l.getD 0 0) hok
  have hok2 := regsOk_setReg (a := BKD_WTOKEN 1) (v := l.getD 1 0) hok1
  have hok3 := regsOk_setReg (a := BKD_WTOKEN 2) (v := l.getD 2 0) hok2
  rw [heq]
  refine ⟨rfl, regsOk_setReg hok3, ?_, fun k hk => ?_⟩
  · exact (((RegsBut.setReg (.of_regs rfl) (by decide)).setReg (by decide)).setReg (by decide)).setReg (by decide)
  · have hlt := hl k hk
    obtain rfl | rfl | rfl | rfl : k = 0 ∨ k = 1 ∨ k = 2 ∨ k = 3 := by omega
    · rw [rd_setReg_ne (by decide), rd_setReg_ne (by decide), rd_setReg_ne (by decide), rd_setReg_same hok, Nat.mod_eq_of_lt hlt]
    · rw [rd_setReg_ne (by decide), rd_setReg_ne (by decide), rd_setReg_same hok1, Nat.mod_eq_of_lt hlt]
    · rw [rd_setReg_ne (by decide), rd_setReg_same hok2, Nat.mod_eq_of_lt hlt]
    · rw [rd_setReg_same hok3, Nat.mod_eq_of_lt hlt]

/-! ### The reset (R493) -/

/-- The boot state after a warm reset. -/
def warmBoot (b : Boot) (now : Nat) : Boot := booted { b with token := b.token + 1, kept := true } 2 now

/-- A warm reset before its outputs are released. -/
def warmWoken (s : State) : State :=
  let pf := s.rd SYS_PF_STAT % 2
  let cxOn := s.power.cxEn
  let s := (s.resetRegs false).modPower (fun p => { p with cx := true, cxEn := true, cxEnAt := s.clk, cxOffAt := none })
  let s := s.modBoot (fun b => { b with token := b.token + 1, kept := true })
  let s := if cxOn then s else s.drive .cxEn true
  let s := ((s.setBit SYS_PWR_STAT 1 true).setReg SYS_PF_STAT pf).startDue 2
  s.setBit LED_STAT 0 true

theorem warmReset_eq : s.warmReset = ((s.ledFlush.putToken (s.ledFlush.tokenWords (s.ledFlush.boot.token + 1))).warmWoken).released := rfl

/-- What a warm reset from `s` has put before its outputs are released. -/
structure WarmWoken (s w : State) : Prop where
  only   : ∃ l, w = { s.wiped false with regs := w.regs, out := s.out ++ l, power := powered s.power s.clk, boot := warmBoot s.boot s.clk }
  regsOk : w.RegsOk
  regs   : ∀ a, a ∉ [SYS_PWR_STAT, SYS_PF_STAT, LED_STAT] → w.rd a = (s.wiped false).rd a
  pwr    : w.bit SYS_PWR_STAT 1 = true
  led    : w.bit LED_STAT 0 = true
  pf     : w.rd SYS_PF_STAT = s.fld SYS_PF_STAT 0 0

/-- The token's generation counted on. -/
def tokenKept (b : Boot) : Boot := { b with token := b.token + 1, kept := true }

theorem warmWoken_eq : s.warmWoken = State.setBit LED_STAT 0 true (((((s.rising false).modBoot tokenKept).setBit SYS_PWR_STAT 1 true).setReg
    SYS_PF_STAT (s.rd SYS_PF_STAT % 2)).startDue 2) := by
  unfold warmWoken rising
  dsimp only
  split
  · rfl
  · rfl

theorem warmWoken_effect (hok : s.RegsOk) : WarmWoken s s.warmWoken := by
  obtain ⟨hreset, -, -, -, hboot, -⟩ := s.wiped_reset false
  obtain ⟨l, hrise⟩ := s.rising_fields false
  have hclk : (s.wiped false).clk = s.clk := by rw [hreset]
  have hok0 : ((s.rising false).modBoot tokenKept).RegsOk := show (s.rising false).RegsOk by rw [hrise]; exact regsOk_wiped hok false
  have hrd0 : ∀ a, ((s.rising false).modBoot tokenKept).rd a = (s.wiped false).rd a := fun a => rd_congr (show (s.rising false).regs = _ by rw [hrise]) a
  have honly0 : (s.rising false).modBoot tokenKept = { s.wiped false with
      out := s.out ++ l, power := { s.power with cx := true, cxEn := true, cxConf := false, cxEnAt := s.clk, cxOffAt := none }
      boot := tokenKept s.boot } := by rw [modBoot, hrise, hboot]
  rw [warmWoken_eq]
  generalize (s.rising false).modBoot tokenKept = u at hok0 hrd0 honly0
  have hok1 := regsOk_setBit (a := SYS_PWR_STAT) (i := 1) (v := true) hok0
  have hok2 := regsOk_setReg (a := SYS_PF_STAT) (v := s.rd SYS_PF_STAT % 2) hok1
  have hpwr : ((u.setBit SYS_PWR_STAT 1 true).setReg SYS_PF_STAT (s.rd SYS_PF_STAT % 2)).bit SYS_PWR_STAT 1 = true :=
    (bit_setReg_ne (by decide)).trans (bit_setBit_same hok0 (by decide))
  have hpf : ((u.setBit SYS_PWR_STAT 1 true).setReg SYS_PF_STAT (s.rd SYS_PF_STAT % 2)).rd SYS_PF_STAT = s.rd SYS_PF_STAT % 2 :=
    (rd_setReg_same hok1).trans (Nat.mod_eq_of_lt (by omega))
  have hbut : RegsBut [SYS_PWR_STAT, SYS_PF_STAT] u ((u.setBit SYS_PWR_STAT 1 true).setReg SYS_PF_STAT (s.rd SYS_PF_STAT % 2)) :=
    RegsBut.setReg (RegsBut.mono regsBut_setReg (by simp)) (by simp)
  have hxonly : (u.setBit SYS_PWR_STAT 1 true).setReg SYS_PF_STAT (s.rd SYS_PF_STAT % 2) =
    { u with regs := ((u.setBit SYS_PWR_STAT 1 true).setReg SYS_PF_STAT (s.rd SYS_PF_STAT % 2)).regs } := rfl
  generalize (u.setBit SYS_PWR_STAT 1 true).setReg SYS_PF_STAT (s.rd SYS_PF_STAT % 2) = x at hok2 hpwr hpf hbut hxonly
  have hyok : (x.startDue 2).RegsOk := hok2
  have hyrd : ∀ a, (x.startDue 2).rd a = x.rd a := fun _ => rfl
  have hyonly : x.startDue 2 = { s.wiped false with
      regs := (x.startDue 2).regs, out := s.out ++ l, power := powered s.power s.clk, boot := warmBoot s.boot s.clk } := by
    rw [startDue, hxonly, honly0, hclk]
    rfl
  generalize x.startDue 2 = y at hyok hyrd hyonly
  refine ⟨⟨l, ?_⟩, regsOk_setBit hyok, fun a ha => ?_, ?_, bit_setBit_same hyok (by decide), ?_⟩
  · have hput : y.setBit LED_STAT 0 true = { y with regs := (y.setBit LED_STAT 0 true).regs } := rfl
    rw [hput, hyonly]
  · simp only [List.mem_cons, List.not_mem_nil, or_false, not_or] at ha
    obtain ⟨h1, h2, h3⟩ := ha
    rw [rd_setBit_ne h3, hyrd, hbut a (by simp [h1, h2]), hrd0]
  · rw [bit_setBit_other hyok (by decide) (.inl (by decide)), bit, hyrd]
    exact hpwr
  · rw [rd_setBit_ne (by decide), hyrd, hpf, fld, bits]
    omega

/-- The state a warm reset wipes: the ledger flushed, the token put. -/
def tokened (s : State) : State := s.ledFlush.putToken (s.ledFlush.tokenWords (s.ledFlush.boot.token + 1))

/-- The words of the token over the bolt copy's hash (R493). -/
def tokenOf (s : State) : List Nat := s.tokenWords (s.boot.token + 1)

theorem tokened_effect (hok : s.RegsOk) (hstaged : s.led.staged = []) :
    s.tokened = { s with regs := s.tokened.regs } ∧ s.tokened.RegsOk ∧
    RegsBut (LED_EVT :: (List.range 4).map BKD_WTOKEN) s s.tokened ∧ ∀ k < 4, s.tokened.rd (BKD_WTOKEN k) = s.tokenOf.getD k 0 := by
  have hflush : s.ledFlush = { s with regs := s.ledFlush.regs } ∧ s.ledFlush.RegsOk ∧ RegsBut [LED_EVT] s s.ledFlush := by
    obtain h | h := ledFlush_empty hstaged
    · rw [h]
      exact ⟨rfl, hok, .of_regs rfl⟩
    · rw [h]
      exact ⟨rfl, regsOk_setBit hok, regsBut_setReg⟩
  unfold tokened
  generalize s.ledFlush = v at hflush
  obtain ⟨hvonly, hvok, hvbut⟩ := hflush
  obtain ⟨honly, htok, hbut, hrd⟩ := putToken_effect hvok (l := v.tokenWords (v.boot.token + 1)) fun k _ => v.tokenWords_lt _ k
  refine ⟨?_, htok, RegsBut.trans (hvbut.mono (by simp)) (hbut.mono (by simp)), fun k hk => ?_⟩
  · generalize v.putToken _ = w at honly
    rw [honly, hvonly]
  · rw [hrd k hk, hvonly]
    rfl

theorem warmReset_state (hok : s.RegsOk) (hstaged : s.led.staged = []) :
    WarmState s s.warmReset ∧ s.warmReset.boot = warmBoot s.boot s.clk := by
  obtain ⟨hvonly, hvok, hvbut, htoken⟩ := tokened_effect hok hstaged
  have heq : s.warmReset = s.tokened.warmWoken.released := warmReset_eq
  rw [heq]
  generalize s.tokened = v at hvonly hvok hvbut htoken
  obtain ⟨hreset, -, hguard, hbkd, -, -⟩ := v.wiped_reset false
  obtain ⟨⟨l, honly⟩, hwok, hrd, hpwr, hled, hpf⟩ := warmWoken_effect hvok
  generalize v.warmWoken = w at honly hwok hrd hpwr hled hpf
  obtain ⟨hwiped, hpow, hboot, hlow⟩ := wiped_released (s := v) (cold := false) (own := [SYS_PWR_STAT, SYS_PF_STAT, LED_STAT]) hwok
    (by rw [Reset, honly, hreset]) (fun a ha => (hrd a ha).trans (rd_wiped false a)) (by simp) hpwr (by rw [ledRunning, hled]; simp)
    (fun x => by rw [honly]; exact rdByte_wiped false x) (by rw [honly]; exact hguard) (by rw [honly]; exact hbkd) ⟨l, by rw [honly]⟩
  have hclk : v.clk = s.clk := by rw [hvonly]
  have hpower : v.power = s.power := by rw [hvonly]
  have hboots : v.boot = s.boot := by rw [hvonly]
  have hout : v.out = s.out := by rw [hvonly]
  have hvguard : v.guard = s.guard := by rw [hvonly]
  have hbaize : ∀ a, regOf [22] a = true → v.rd a = s.rd a := fun a ha => hvbut a fun hm => by
    rw [(by decide : ∀ b ∈ LED_EVT :: (List.range 4).map BKD_WTOKEN, regOf [22] b = false) a hm] at ha
    cases ha
  have hlost : survives false LED_EVT = false := by decide
  generalize w.released = t at hwiped hpow hboot hlow
  refine ⟨⟨⟨?_, fun a ha h22 => ?_, hwiped.armed, fun _ _ harm => ?_, ?_⟩, hwiped.pwr, ?_, ?_, ?_, ?_, fun k hk => ?_, fun x => ?_⟩, ?_⟩
  · have hf := hwiped.fields
    rw [Reset, hvonly] at hf
    exact hf
  · rw [List.mem_append, not_or] at ha
    rw [hwiped.regs a ha.1 h22]
    by_cases hsur : survives false a = true
    · rw [if_pos hsur, if_pos]
      · refine hvbut a ?_
        rw [List.mem_cons, not_or]
        refine ⟨?_, ha.2⟩
        rintro rfl
        rw [hlost] at hsur
        cases hsur
      · rcases survives_iff.mp hsur with hk | hf | h19 | h21 | hb
        · exact .inl hk
        · exact .inr (.inl hf)
        · exact .inr (.inr (.inr ⟨rfl, h19⟩))
        · exact .inr (.inr (.inl h21))
        · rw [h22] at hb
          cases hb
    · rw [if_neg hsur, if_neg]
      rintro (hk | hf | h21 | ⟨-, h19⟩)
      · exact hsur (survives_iff.mpr (.inl hk))
      · exact hsur (survives_iff.mpr (.inr (.inl hf)))
      · exact hsur (survives_iff.mpr (.inr (.inr (.inr (.inl h21)))))
      · exact hsur (survives_iff.mpr (.inr (.inr (.inl h19))))
  · obtain ⟨hg, hr⟩ := hwiped.stays (by rw [bit, hbaize _ (by decide)]; exact harm)
    exact ⟨hg.trans hvguard, fun a ha => (hr a ha).trans (hbaize a ha)⟩
  · obtain ⟨l', hl', -⟩ := hwiped.pins
    exact ⟨l', by rw [hl', hout]⟩
  · rw [bit, hlow _ (by decide)]
    exact hled
  · rw [hlow _ (by decide), hpf, fld, hvbut _ (by decide)]
    rfl
  · rw [hwiped.bkd, hvonly]
  · rw [hpow, honly, hpower, hclk]
    rfl
  · have hin : regOf [22] (BKD_WTOKEN k) = false ∧ BKD_WTOKEN k ∉ [SYS_PWR_STAT, SYS_PF_STAT, LED_STAT] ∧
        survives false (BKD_WTOKEN k) = true := (by decide : ∀ k < 4, regOf [22] (BKD_WTOKEN k) = false ∧
          BKD_WTOKEN k ∉ [SYS_PWR_STAT, SYS_PF_STAT, LED_STAT] ∧ survives false (BKD_WTOKEN k) = true) k hk
    obtain ⟨h22, hown, hsur⟩ := hin
    rw [hwiped.regs _ hown h22, if_pos hsur]
    exact htoken k hk
  · rw [hwiped.bytes x, hvonly]
    rfl
  · rw [hboot, honly, hboots, hclk]

/-- A warm reset is admitted when no slice but slice 0 is runnable. -/
theorem warmOk_iff : s.warmOk = true ↔ ∀ k, 1 ≤ k → k < 256 → s.fld (XEC_SL_XSTAT k) 2 0 ≠ 1 := by
  rw [warmOk, List.all_eq_true]
  constructor
  · intro h k hk1 hk2
    have hk := h (k - 1) (List.mem_range.mpr (by omega))
    rw [Nat.sub_add_cancel hk1] at hk
    exact bne_iff_ne.mp hk
  · exact fun h k hk => bne_iff_ne.mpr (h (k + 1) (by omega) (by have := List.mem_range.mp hk; omega))

end State

end Sys2Proof.Machine
end

section
/-!
PROOF. Start-complete (R178, R496): what `done` puts, and the module after it.
-/

namespace Sys2Proof.Machine

open Sys2Proof.Claims

namespace State

variable {s t : State} {l : List (Nat × Nat)}

/-! ### Registers put one after another -/

/-- `t` is `s` with the registers of `l` put, each to its value, and no other. -/
structure Put (l : List (Nat × Nat)) (s t : State) : Prop where
  only   : t = { s with regs := t.regs }
  regsOk : t.RegsOk
  regs   : RegsBut (l.map (·.1)) s t
  value  : ∀ x ∈ l, t.rd x.1 = x.2

namespace Put

theorem refl (hok : s.RegsOk) : Put [] s s := ⟨rfl, hok, .of_regs rfl, by simp⟩

theorem setReg (h : Put l s t) {a : Nat} (ha : a ∉ l.map (·.1)) (v : Nat) : Put ((a, v % 2 ^ 32) :: l) s (t.setReg a v) where
  only := by rw [h.only]; rfl
  regsOk := regsOk_setReg h.regsOk
  regs := (h.regs.mono (List.subset_cons_self _ _)).setReg List.mem_cons_self
  value x hx := by
    rcases List.mem_cons.mp hx with rfl | hx
    · exact rd_setReg_same h.regsOk
    · rw [rd_setReg_ne (ne_of_mem_of_not_mem (List.mem_map_of_mem hx) ha), h.value x hx]

theorem setFld (h : Put l s t) {a hi lo : Nat} (ha : a ∉ l.map (·.1)) (hhi : hi < 32) (hlo : lo ≤ hi + 1) (v : Nat) :
    Put ((a, setBits (s.rd a) hi lo v) :: l) s (t.setFld a hi lo v) := by
  have hput := h.setReg ha (setBits (t.rd a) hi lo v)
  rw [Nat.mod_eq_of_lt (setBits_lt (t.rd_lt a) hhi hlo), h.regs a ha] at hput
  rwa [State.setFld, h.regs a ha]

/-- A field put in a register of each member of a list. -/
theorem each (h : Put l s t) {reg f : Nat → Nat} {hi lo : Nat} (hhi : hi < 32) (hlo : lo ≤ hi + 1) {ps : List Nat}
    (hd : (ps.map reg).Nodup) (hnew : ∀ p ∈ ps, reg p ∉ l.map (·.1)) :
    Put (ps.reverse.map (fun p => (reg p, setBits (s.rd (reg p)) hi lo (f p))) ++ l) s
      (t.each ps fun p u => u.setFld (reg p) hi lo (f p)) := by
  induction ps generalizing t l with
  | nil => exact h
  | cons p ps ih =>
    obtain ⟨hp, hd⟩ := List.nodup_cons.mp hd
    have hput := ih (h.setFld (hnew p List.mem_cons_self) hhi hlo (f p)) hd fun q hq => by
      rw [List.map_cons, List.mem_cons, not_or]
      refine ⟨fun e => hp ?_, hnew q (List.mem_cons_of_mem _ hq)⟩
      rw [← show reg q = reg p from e]
      exact List.mem_map_of_mem hq
    rw [List.reverse_cons, List.map_append, List.append_assoc]
    exact hput

end Put

/-! ### What `done` puts (R496) -/

/-- The registers of the start that `done` puts. -/
def doneRegs : List Nat := [SYS_START_MS, SYS_SECVER, SYS_BOOT, BKD_START, SYS_START_EVT, SYS_START_STAT]

/-- The start shown complete, its attempts and the choice for the next start cleared. -/
def startShown (s : State) : State :=
  (((s.setBit SYS_START_STAT 5 true).evt SYS_START_EVT 0).setFld BKD_START 3 0 0).setBit SYS_BOOT 0 false

/-- The registers of the start put. -/
def doneMarks (s : State) : State :=
  let s := s.startShown
  let s := s.setReg SYS_SECVER (max (s.rd SYS_SECVER) s.boot.secver)
  s.setReg SYS_START_MS ((s.clk - s.boot.resetAt) / tMs)

/-- What the registers of the start hold then. -/
def doneValues (s : State) : List (Nat × Nat) :=
  [(SYS_START_MS, (s.clk - s.boot.resetAt) / tMs % 2 ^ 32), (SYS_SECVER, max (s.rd SYS_SECVER) s.boot.secver % 2 ^ 32),
   (SYS_BOOT, lowered (s.rd SYS_BOOT) 0), (BKD_START, setBits (s.rd BKD_START) 3 0 0),
   (SYS_START_EVT, raised (s.rd SYS_START_EVT) 0), (SYS_START_STAT, raised (s.rd SYS_START_STAT) 5)]

theorem doneMarks_put (hok : s.RegsOk) : Put s.doneValues s s.doneMarks := by
  have hshown : Put (s.doneValues.drop 2) s s.startShown := ((((Put.refl hok).setFld (by simp) (by decide) (by decide) 1).setFld
    (show _ ∉ [SYS_START_STAT] by decide) (by decide) (by decide) 1).setFld
    (show _ ∉ [SYS_START_EVT, SYS_START_STAT] by decide) (by decide) (by decide) 0).setFld
    (show _ ∉ [BKD_START, SYS_START_EVT, SYS_START_STAT] by decide) (by decide) (by decide) 0
  have heq : s.doneMarks = (s.startShown.setReg SYS_SECVER (max (s.startShown.rd SYS_SECVER) s.boot.secver)).setReg SYS_START_MS
    ((s.clk - s.boot.resetAt) / tMs) := rfl
  have hver : s.startShown.rd SYS_SECVER = s.rd SYS_SECVER :=
    hshown.regs _ (show _ ∉ [SYS_BOOT, BKD_START, SYS_START_EVT, SYS_START_STAT] by decide)
  rw [heq, hver]
  exact (hshown.setReg (show _ ∉ [SYS_BOOT, BKD_START, SYS_START_EVT, SYS_START_STAT] by decide) _).setReg
    (show _ ∉ [SYS_SECVER, SYS_BOOT, BKD_START, SYS_START_EVT, SYS_START_STAT] by decide) _

/-! ### The recorders freed -/

/-- The registers of the transient recorders that enabling TAE's units may write. -/
def taeRegs : List Nat := TAE_CTL :: ((List.range 8).map TAE_REC_STAT ++ (List.range 8).map TAE_REC_EVT)

/-- A change of the recorders: their working state, and the registers of `L`. -/
structure RecorderStep (L : List Nat) (s t : State) : Prop where
  only   : t = { s with regs := t.regs, tae := t.tae }
  regsOk : t.RegsOk
  regs   : RegsBut L s t

theorem RecorderStep.setReg {L : List Nat} (h : RecorderStep L s t) {a v : Nat} (ha : a ∈ L) : RecorderStep L s (t.setReg a v) :=
  ⟨by rw [h.only]; rfl, regsOk_setReg h.regsOk, h.regs.setReg ha⟩

theorem RecorderStep.setRec {L : List Nat} (h : RecorderStep L s t) {r st : Nat} (h1 : TAE_REC_STAT r ∈ L) (h2 : TAE_REC_EVT r ∈ L) :
    RecorderStep L s (t.setRec r st) := by
  unfold State.setRec
  split
  · exact h
  · exact (h.setReg h1).setReg h2

theorem RecorderStep.makeCurrent {L : List Nat} (h : RecorderStep L s t) {r k rows : Nat} (h1 : TAE_REC_STAT r ∈ L) :
    RecorderStep L s (t.makeCurrent r k rows) := by
  have hput : RecorderStep L s (t.setFld (TAE_REC_STAT r) 23 16 k) := h.setReg h1
  unfold State.makeCurrent
  dsimp only
  generalize t.setFld (TAE_REC_STAT r) 23 16 k = u at hput
  exact ⟨by rw [modRec, hput.only], hput.regsOk, hput.regs⟩

theorem RecorderStep.each {L : List Nat} {f : Nat → State → State} (hf : ∀ r < 8, ∀ u, RecorderStep L s u → RecorderStep L s (f r u))
    {rs : List Nat} (hrs : ∀ r ∈ rs, r < 8) (h : RecorderStep L s t) : RecorderStep L s (t.each rs f) := by
  induction rs generalizing t with
  | nil => exact h
  | cons r rs ih =>
    exact ih (fun q hq => hrs q (List.mem_cons_of_mem _ hq)) (hf r (hrs r List.mem_cons_self) t h)

/-- Enabled units released leave the recorders at rest. -/
theorem taeCtl_step (hok : s.RegsOk) {v : Nat} (hv : bitAt v 1 = false) : RecorderStep taeRegs s (s.taeCtl v) := by
  have hput : RecorderStep taeRegs s (s.setReg TAE_CTL v) := ⟨rfl, regsOk_setReg hok, regsBut_setReg.mono (by decide)⟩
  unfold taeCtl
  dsimp only
  rw [hv]
  split
  · exact hput
  · refine RecorderStep.each (fun r hr u hu => ?_) (fun r hr => List.mem_range.mp (List.mem_of_mem_filter hr)) hput
    have hstat : TAE_REC_STAT r ∈ taeRegs :=
      List.mem_cons_of_mem _ (List.mem_append_left _ (List.mem_map_of_mem (List.mem_range.mpr hr)))
    have hevt : TAE_REC_EVT r ∈ taeRegs :=
      List.mem_cons_of_mem _ (List.mem_append_right _ (List.mem_map_of_mem (List.mem_range.mpr hr)))
    rw [if_neg Bool.false_ne_true]
    split
    · exact hu
    · split
      · exact (hu.makeCurrent hstat).setRec hstat hevt
      · exact hu.setRec hstat hevt

/-- Where the units were not enabled, or no recorder is at work, nothing but the bit changes. -/
theorem taeCtl_idle {v : Nat} (hv : bitAt v 1 = false) (hidle : s.bit TAE_CTL 1 = false ∨ ∀ r, r < 8 → s.recState r = 0) :
    s.taeCtl v = s.setReg TAE_CTL v := by
  unfold taeCtl
  dsimp only
  rw [hv]
  rcases hidle with h | h
  · exact if_pos h
  · refine (ite_eq_left_iff).mpr fun _ => ?_
    rw [List.filter_eq_nil_iff.mpr]
    · rfl
    · intro r hr
      have hstat : (s.setReg TAE_CTL v).recState r = 0 := by
        have hne : TAE_REC_STAT r ≠ TAE_CTL :=
          (by decide : ∀ r < 8, TAE_REC_STAT r ≠ TAE_CTL) r (List.mem_range.mp hr)
        exact (fld_setReg_ne hne).trans (h r (List.mem_range.mp hr))
      rw [hstat]
      decide

/-! ### The pairs (R178) -/

/-- What the pairs' states come to. -/
def pairValues (s : State) : List (Nat × Nat) :=
  (List.range 12).reverse.map fun p => (XEC_PAIR_STAT p, setBits (s.rd (XEC_PAIR_STAT p)) 2 0 (if p = s.fld XEC_SPARE 3 0 then 2 else 1))

theorem pairsComplete_effect (hok : s.RegsOk) : s.pairsComplete = { s with regs := s.pairsComplete.regs } ∧ s.pairsComplete.RegsOk ∧
    RegsBut (XEC_STAT :: (List.range 12).map XEC_PAIR_STAT) s s.pairsComplete ∧
    (s.power.cx = true → ∀ p, p < 12 → s.pairsComplete.rd (XEC_PAIR_STAT p) =
      setBits (s.rd (XEC_PAIR_STAT p)) 2 0 (if p = s.fld XEC_SPARE 3 0 then 2 else 1)) := by
  unfold pairsComplete
  split
  next hcx => exact ⟨rfl, hok, .of_regs rfl, fun h => by rw [hcx] at h; cases h⟩
  next =>
    have hput := (Put.refl hok).each (reg := XEC_PAIR_STAT) (f := fun p => if p = s.fld XEC_SPARE 3 0 then 2 else 1) (hi := 2) (lo := 0)
      (by decide) (by decide) (ps := List.range 12) (by decide) (by simp)
    dsimp only
    generalize s.each _ _ = u at hput
    have hshow := u.showSpare_regs
    have honly := u.showSpare_only
    have hsok : u.showSpare.RegsOk := (showSpare_kept (.refl u)).regs hput.regsOk
    generalize u.showSpare = t at hshow honly hsok
    refine ⟨?_, hsok, RegsBut.trans (hput.regs.mono ?_) (hshow.mono (by simp)), fun _ p hp => ?_⟩
    · rw [honly, hput.only]
    · exact fun a ha => List.mem_cons_of_mem _ (by simpa using ha)
    · rw [hshow _ ((by decide : ∀ p < 12, XEC_PAIR_STAT p ∉ [XEC_STAT]) p hp)]
      refine hput.value (XEC_PAIR_STAT p, _) (List.mem_append_left _ (List.mem_map.mpr ⟨p, ?_, rfl⟩))
      simpa using hp

end State

end Sys2Proof.Machine
end

section
/-!
PROOF. Start-complete up to the module's health and its membership (R178, R496).
-/

namespace Sys2Proof.Machine

open Sys2Proof.Claims

namespace State

variable {s : State}

/-- The first change of health, and the registers of the start put. -/
def doneMarked (s : State) : State := ({ s.healthUpdate with complete := true } : State).doneMarks

/-- The module with its start marked complete. -/
structure DoneMarked (s v : State) : Prop where
  only   : v = { s with
    regs := v.regs, complete := true, led := v.led, out := v.out, red := v.red, guard := v.guard, tae := v.tae }
  regsOk : v.RegsOk
  regs   : RegsBut (doneRegs ++ healthRegs) s v
  staged : Staged 6 s v
  value  : ∀ x ∈ s.doneValues, v.rd x.1 = x.2
  limit  : v.fld RED_HEALTH 1 0 = s.fld RED_HEALTH 1 0

theorem doneMarked_effect (hok : s.RegsOk) : DoneMarked s s.doneMarked := by
  have hstep := s.healthUpdate_step
  unfold doneMarked
  generalize s.healthUpdate = u at hstep
  obtain ⟨honly, huok, hregs, hstaged, -, hlimit⟩ := hstep
  have hrd : ∀ a ∈ doneRegs, u.rd a = s.rd a := fun a ha => hregs a ((by decide : ∀ a ∈ doneRegs, a ∉ healthRegs) a ha)
  have hvalues : ({ u with complete := true } : State).doneValues = s.doneValues := by
    have h1 := hrd SYS_SECVER (by decide)
    have h2 := hrd SYS_BOOT (by decide)
    have h3 := hrd BKD_START (by decide)
    have h4 := hrd SYS_START_EVT (by decide)
    have h5 := hrd SYS_START_STAT (by decide)
    have hclk : u.clk = s.clk := by rw [honly]
    have hboot : u.boot = s.boot := by rw [honly]
    rw [doneValues, doneValues, ← h1, ← h2, ← h3, ← h4, ← h5, ← hclk, ← hboot]
    rfl
  have hput := doneMarks_put (s := { u with complete := true }) (huok hok)
  rw [hvalues] at hput
  generalize State.doneMarks _ = v at hput
  have hbut : RegsBut doneRegs u v := hput.regs
  refine ⟨?_, hput.regsOk, RegsBut.trans (hregs.mono (List.subset_append_right _ _)) (hbut.mono (List.subset_append_left _ _)), ?_, hput.value, ?_⟩
  · rw [hput.only, honly]
  · have hled : v.led = u.led := by rw [hput.only]
    intro hroom
    rw [hled]
    exact hstaged hroom
  · rw [fld, hbut _ (by decide)]
    exact hlimit hok

/-- The recorders freed, where the compute die is on. -/
def taeFreed (s : State) : State := if s.power.cx then s.taeCtl (setBits (s.rd TAE_CTL) 1 1 0) else s

theorem taeFreed_step (hok : s.RegsOk) : RecorderStep taeRegs s s.taeFreed := by
  unfold taeFreed
  split
  · exact taeCtl_step hok (bitAt_setBits_same (b := false))
  · exact ⟨rfl, hok, .of_regs rfl⟩

theorem taeFreed_idle (hok : s.RegsOk) (hidle : s.bit TAE_CTL 1 = false ∨ ∀ r, r < 8 → s.recState r = 0) :
    RecorderStep [TAE_CTL] s s.taeFreed ∧ (s.power.cx = true → s.taeFreed.bit TAE_CTL 1 = false) := by
  have hbit : bitAt (setBits (s.rd TAE_CTL) 1 1 0) 1 = false := bitAt_setBits_same (b := false)
  unfold taeFreed
  split
  · rw [taeCtl_idle hbit hidle]
    exact ⟨⟨rfl, regsOk_setReg hok, regsBut_setReg⟩, fun _ => bit_setBit_same (v := false) hok (by decide)⟩
  next h => exact ⟨⟨rfl, hok, .of_regs rfl⟩, fun hcx => absurd hcx h⟩

/-- The module before start-complete changes its health again. -/
def doneReady (s : State) : State :=
  let s := s.doneMarked.taeFreed
  (if 2 ≤ s.health then s.drive .healthyN false else s).pairsComplete

theorem done_eq (h : s.doneOk = true) : s.done = s.doneReady.healthUpdate.redComplete.ledger 3 0 0 SYS_START_EVT 0
    [s.doneReady.healthUpdate.redComplete.rd SYS_START_STAT, s.doneReady.healthUpdate.redComplete.rd SYS_START_MS] :=
  if_neg (by simp [h])

/-- The registers written up to there, `L` being those of the recorders. -/
def readyRegs (L : List Nat) : List Nat := doneRegs ++ L ++ (XEC_STAT :: (List.range 12).map XEC_PAIR_STAT) ++ healthRegs

/-- What start-complete has done before it changes the health again. -/
structure DoneReady (L : List Nat) (s v : State) : Prop where
  only   : v = { s with
    regs := v.regs, complete := true, led := v.led, out := v.out, red := v.red, guard := v.guard, tae := v.tae }
  regsOk : v.RegsOk
  regs   : RegsBut (readyRegs L) s v
  staged : Staged 6 s v
  value  : ∀ x ∈ s.doneValues, v.rd x.1 = x.2
  pairs  : s.power.cx = true → ∀ p, p < 12 → v.rd (XEC_PAIR_STAT p) =
    setBits (s.rd (XEC_PAIR_STAT p)) 2 0 (if p = s.fld XEC_SPARE 3 0 then 2 else 1)
  limit  : v.fld RED_HEALTH 1 0 = s.fld RED_HEALTH 1 0
  tae    : v.rd TAE_CTL = s.doneMarked.taeFreed.rd TAE_CTL

theorem doneReady_effect (hok : s.RegsOk) {L : List Nat} (hL : L ⊆ taeRegs) (hfree : RecorderStep L s.doneMarked s.doneMarked.taeFreed) :
    DoneReady L s s.doneReady := by
  obtain ⟨honly, -, hregs, hstaged, hvalue, hlimit⟩ := doneMarked_effect hok
  have heq : ∃ l, s.doneReady = ({ s.doneMarked.taeFreed with out := s.doneMarked.taeFreed.out ++ l } : State).pairsComplete := by
    unfold doneReady
    dsimp only
    split
    · exact ⟨[.pin .healthyN false], rfl⟩
    · exact ⟨[], by rw [List.append_nil]⟩
  obtain ⟨l, heq⟩ := heq
  generalize hm : s.doneMarked = m at honly hregs hstaged hvalue hlimit hfree heq
  generalize hn : m.taeFreed = n at hfree heq
  obtain ⟨hnonly, hnok, hnregs⟩ := hfree
  obtain ⟨hconly, hcok, hcregs, hcpairs⟩ := pairsComplete_effect (s := { n with out := n.out ++ l }) hnok
  rw [← heq] at hconly hcok hcregs hcpairs
  generalize s.doneReady = v at hconly hcok hcregs hcpairs ⊢
  have hvn : ∀ a, a ∉ XEC_STAT :: (List.range 12).map XEC_PAIR_STAT → v.rd a = n.rd a := hcregs
  have hnm : ∀ a, a ∉ taeRegs → n.rd a = m.rd a := hnregs.mono hL
  have hled : v.led = m.led := by rw [hconly, hnonly]
  have hcx : n.power.cx = s.power.cx := by rw [hnonly, honly]
  refine ⟨?_, hcok, ?_, ?_, fun x hx => ?_, fun h p hp => ?_, ?_, (hvn TAE_CTL (by decide)).trans (by rw [hm, hn])⟩
  · rw [hconly, hnonly, honly]
  · intro a ha
    simp only [readyRegs, List.mem_append, not_or] at ha
    obtain ⟨⟨⟨hd, hl⟩, hx⟩, hh⟩ := ha
    rw [hvn a hx, hnregs a hl, hregs a (by simp only [List.mem_append, not_or]; exact ⟨hd, hh⟩)]
  · intro hroom
    rw [hled]
    exact hstaged hroom
  · have hx1 : x.1 ∈ doneRegs := List.mem_map_of_mem (f := Prod.fst) hx
    have hplace := (by decide : ∀ a ∈ doneRegs, a ∉ XEC_STAT :: (List.range 12).map XEC_PAIR_STAT ∧ a ∉ taeRegs) _ hx1
    rw [hvn _ hplace.1, hnm _ hplace.2, hvalue x hx]
  · have hplace := (by decide : ∀ a ∈ XEC_SPARE :: (List.range 12).map XEC_PAIR_STAT, a ∉ taeRegs ∧ a ∉ doneRegs ++ healthRegs)
    have hsame : ∀ a ∈ XEC_SPARE :: (List.range 12).map XEC_PAIR_STAT, n.rd a = s.rd a := fun a ha => by
      rw [hnm a (hplace a ha).1, hregs a (hplace a ha).2]
    rw [hcpairs (hcx.trans h) p hp]
    have hpair : n.rd (XEC_PAIR_STAT p) = s.rd (XEC_PAIR_STAT p) :=
      hsame _ (List.mem_cons_of_mem _ (List.mem_map_of_mem (List.mem_range.mpr hp)))
    have hspare : n.fld XEC_SPARE 3 0 = s.fld XEC_SPARE 3 0 := congrArg (bits · 3 0) (hsame _ List.mem_cons_self)
    rw [← hpair, ← hspare]
    rfl
  · rw [fld, hvn _ (by decide), hnm _ (by decide)]
    exact hlimit

/-! ### RED leaves the start, and the record of it -/

theorem redComplete_quiet (h : s.bit RED_CTL 1 = false) : s.redComplete = s.setMember 0 := by
  have hm : (s.setMember 0).bit RED_CTL 1 = s.bit RED_CTL 1 := bit_setReg_ne (by decide)
  exact if_neg (by rw [hm, h]; exact Bool.false_ne_true)

theorem redComplete_refused (h : s.bit RED_CTL 1 = true) (hstrap : s.fld RED_STRAP 1 0 ≠ 0) :
    s.redComplete = (s.setMember 0).evt RED_EVT 11 := by
  have hm : (s.setMember 0).bit RED_CTL 1 = s.bit RED_CTL 1 := bit_setReg_ne (by decide)
  have hf : (s.setMember 0).fld RED_STRAP 1 0 = s.fld RED_STRAP 1 0 := fld_setReg_ne (by decide)
  refine (if_pos ?_).trans (if_neg ?_)
  · rw [hm]; exact h
  · rw [hf]; exact hstrap

/-- The registers that a start that completes may write (R178, R323, R496). -/
def completeRegs : List Nat :=
  [SYS_START_STAT, SYS_START_EVT, BKD_START, SYS_BOOT, SYS_SECVER, SYS_START_MS, TAE_CTL, XEC_STAT, RED_STAT] ++
    (List.range 12).map XEC_PAIR_STAT ++ healthRegs

/-- What start-complete leaves of `s`. -/
structure Completed (s t : State) : Prop where
  value  : ∀ x ∈ s.doneValues, t.rd x.1 = x.2
  cx     : s.power.cx = true → t.bit TAE_CTL 1 = false ∧ ∀ p, p < 12 → t.rd (XEC_PAIR_STAT p) =
    setBits (s.rd (XEC_PAIR_STAT p)) 2 0 (if p = s.fld XEC_SPARE 3 0 then 2 else 1)
  member : t.fld RED_STAT 2 0 = 0
  health : HealthShown s t
  regs   : RegsBut completeRegs s t
  record : ∃ l r, t.led = { s.led with staged := s.led.staged ++ l ++ [r] } ∧ r.sev = 3 ∧ r.blk = 0 ∧ r.code = 0 ∧
    r.pay = [SYS_START_EVT % 0x100000, raised (s.rd SYS_START_STAT) 5, (s.clk - s.boot.resetAt) / tMs % 2 ^ 32]
  only   : t = { s with
    regs := t.regs, complete := true, led := t.led, out := t.out, red := t.red, guard := t.guard, tae := t.tae }

theorem done_completed (hok : s.RegsOk) (hdone : s.doneOk = true) (hroom : s.led.staged.length < 1000)
    (hidle : s.bit TAE_CTL 1 = false ∨ ∀ r, r < 8 → s.recState r = 0) (hred : s.bit RED_CTL 1 = false) : Completed s s.done := by
  have hmarked := doneMarked_effect hok
  have hplace : ∀ a ∈ TAE_CTL :: (List.range 8).map TAE_REC_STAT, a ∉ doneRegs ++ healthRegs := by decide
  have hmidle : s.doneMarked.bit TAE_CTL 1 = false ∨ ∀ r, r < 8 → s.doneMarked.recState r = 0 := by
    refine hidle.imp (fun h => ?_) fun h r hr => ?_
    · rw [bit, hmarked.regs _ (hplace _ List.mem_cons_self)]; exact h
    · rw [recState, fld, hmarked.regs _ (hplace _ (List.mem_cons_of_mem _ (List.mem_map_of_mem (List.mem_range.mpr hr))))]
      exact h r hr
  obtain ⟨hfree, hfreed⟩ := taeFreed_idle hmarked.regsOk hmidle
  have hmcx : s.doneMarked.power.cx = s.power.cx := by rw [hmarked.only]
  have hready := doneReady_effect hok (L := [TAE_CTL]) (by simp [taeRegs]) hfree
  have heq := done_eq hdone
  have htae : s.power.cx = true → s.doneReady.bit TAE_CTL 1 = false := fun h => by
    rw [bit, hready.tae]; exact hfreed (hmcx.trans h)
  generalize s.doneReady = v at hready heq htae
  clear hfree hfreed hmidle hmarked hmcx
  have hstep := v.healthUpdate_step
  have hshown := healthShown_healthUpdate (s := s) hready.regsOk hready.limit
  generalize v.healthUpdate = u at hstep hshown heq
  have huok := hstep.regsOk hready.regsOk
  have hured : u.bit RED_CTL 1 = false := by
    rw [bit, hstep.regs _ (by decide), hready.regs _ (by decide)]; exact hred
  have hvalue : ∀ x ∈ s.doneValues, u.rd x.1 = x.2 := fun x hx => by
    rw [hstep.regs _ ((by decide : ∀ a ∈ doneRegs, a ∉ healthRegs) _ (List.mem_map_of_mem (f := Prod.fst) hx)), hready.value x hx]
  rw [redComplete_quiet hured] at heq
  have hmok : (u.setMember 0).RegsOk := regsOk_setFld huok
  have hmrd : ∀ a, a ∉ [RED_STAT] → (u.setMember 0).rd a = u.rd a := regsBut_setReg
  have hmember : (u.setMember 0).fld RED_STAT 2 0 = 0 := fld_setFld_same huok (by decide) (by decide)
  have hmhealth : (u.setMember 0).health = u.health := fld_setFld_other huok (by decide) (by decide) (.inr (.inl (by decide)))
  have hmonly : u.setMember 0 = { u with regs := (u.setMember 0).regs } := rfl
  generalize u.setMember 0 = m at heq hmok hmrd hmember hmhealth hmonly
  have hmled : m.led = u.led := by rw [hmonly]
  obtain ⟨l, hl, hled⟩ := hready.staged.trans hstep.staged (by omega)
  have hfull : m.led.staged.length < 1024 := by
    rw [hmled, hled, List.length_append]
    omega
  rw [ledger, stageRec_room hfull] at heq
  have htregs : s.done.regs = m.regs := by rw [heq]
  have htled : s.done.led = { m.led with staged := m.led.staged ++ [m.mkRec 3 0 0 [SYS_START_EVT % 0x100000 + 0 * 2 ^ 24,
    m.rd SYS_START_STAT, m.rd SYS_START_MS] 0] } := by rw [heq]
  have htonly : s.done = { m with led := s.done.led } := by rw [heq]
  generalize s.done = t at htregs htled htonly
  clear heq
  have htrd : ∀ a, t.rd a = m.rd a := rd_congr htregs
  have hmvalue : ∀ x ∈ s.doneValues, m.rd x.1 = x.2 := fun x hx => by
    rw [hmrd _ ((by decide : ∀ a ∈ doneRegs, a ∉ [RED_STAT]) _ (List.mem_map_of_mem (f := Prod.fst) hx)), hvalue x hx]
  have hkept : ∀ a, a ∉ RED_STAT :: healthRegs → t.rd a = v.rd a := fun a ha => by
    rw [List.mem_cons, not_or] at ha
    rw [htrd, hmrd a (by simpa using ha.1), hstep.regs a ha.2]
  refine ⟨fun x hx => ?_, fun hcx => ⟨?_, fun p hp => ?_⟩, ?_, ?_, ?_, ⟨l, _, by rw [htled, hmled, hled], rfl, rfl, rfl, ?_⟩, ?_⟩
  · rw [htrd, hmvalue x hx]
  · rw [bit, hkept _ (by decide)]
    exact htae hcx
  · rw [hkept _ ((by decide : ∀ p < 12, XEC_PAIR_STAT p ∉ RED_STAT :: healthRegs) p hp), hready.pairs hcx p hp]
  · rw [fld, htrd]
    exact hmember
  · have hhealth : t.health = u.health := by rw [health, fld, htrd]; exact hmhealth
    have hcomputed : t.healthComputed = u.healthComputed := by
      refine healthComputed_congr (fun a ha => ?_) ?_ ?_ ?_ ?_
      · rw [htrd, hmrd a ((by decide : ∀ a ∈ healthInputs, a ∉ [RED_STAT]) a ha)]
      · rw [bit, htrd, hmrd _ (by decide)]
        rfl
      · rw [htonly, hmonly]
      · rw [htonly, hmonly]
      · rw [htonly, hmonly]
    rw [HealthShown, hhealth, hcomputed]
    exact hshown
  · intro a ha
    have hin : ∀ b ∈ RED_STAT :: healthRegs ++ readyRegs [TAE_CTL], b ∈ completeRegs := by decide
    rw [hkept a fun h => ha (hin a (List.mem_append_left _ h)), hready.regs a fun h => ha (hin a (List.mem_append_right _ h))]
  · have hstat : m.rd SYS_START_STAT = raised (s.rd SYS_START_STAT) 5 := 
      hmvalue (SYS_START_STAT, _) (List.mem_of_getElem? (i := 5) rfl)
    have hms : m.rd SYS_START_MS = (s.clk - s.boot.resetAt) / tMs % 2 ^ 32 := hmvalue (SYS_START_MS, _) List.mem_cons_self
    rw [hstat, hms]
    rfl
  · rw [htonly, hmonly, hstep.only, hready.only]

/-- R330: a module that is to start alone and has a position is left UNASSIGNED, with its event. -/
theorem done_strapped (hok : s.RegsOk) (hdone : s.doneOk = true) (hred : s.bit RED_CTL 1 = true) (hstrap : s.fld RED_STRAP 1 0 ≠ 0) :
    s.done.fld RED_STAT 2 0 = 0 ∧ s.done.bit RED_EVT 11 = true := by
  have hready := doneReady_effect hok (List.Subset.refl taeRegs) (taeFreed_step (doneMarked_effect hok).regsOk)
  have heq := done_eq hdone
  generalize s.doneReady = v at hready heq
  have hstep := v.healthUpdate_step
  generalize v.healthUpdate = u at hstep heq
  have huok := hstep.regsOk hready.regsOk
  have hplace : ∀ a ∈ [RED_CTL, RED_STRAP], a ∉ healthRegs ∧ a ∉ readyRegs taeRegs := by decide
  have hsame : ∀ a ∈ [RED_CTL, RED_STRAP], u.rd a = s.rd a := fun a ha => by
    rw [hstep.regs a (hplace a ha).1, hready.regs a (hplace a ha).2]
  have hured : u.bit RED_CTL 1 = true := by rw [bit, hsame _ (by simp)]; exact hred
  have hustrap : u.fld RED_STRAP 1 0 ≠ 0 := by rw [fld, hsame _ (by simp)]; exact hstrap
  rw [redComplete_refused hured hustrap] at heq
  have hmok : (u.setMember 0).RegsOk := regsOk_setFld huok
  have hmember : ((u.setMember 0).evt RED_EVT 11).fld RED_STAT 2 0 = 0 :=
    (fld_evt_other hmok (by decide) (.inl (by decide))).trans (fld_setFld_same huok (by decide) (by decide))
  have hevt : ((u.setMember 0).evt RED_EVT 11).bit RED_EVT 11 = true := bit_evt_same hmok (by decide)
  generalize (u.setMember 0).evt RED_EVT 11 = m at heq hmember hevt
  rw [heq, ledger]
  constructor
  · rw [fld, stageRec_rd (by decide)]
    exact hmember
  · rw [bit, stageRec_rd (by decide)]
    exact hevt

/-- When `done` completes the start (R495, R496). -/
theorem doneOk_iff : s.doneOk = true ↔
    s.boot.due = 0 ∧ s.complete = false ∧ s.boot.recovery = false ∧ s.bit SYS_START_STAT 6 = false := by
  simp [doneOk, tamperHold, and_assoc]

end State

end Sys2Proof.Machine
end

section
/-!
PROOF. Power-up, resets and start-complete (O52).
-/

namespace Sys2Proof.Machine

open Sys2Proof.Claims

section

variable {w : Who} {s : State}

/-- R491, R511: a pulse of RESET_N, with the network die on or off. -/
theorem resetPulse_cold (hs : s.Canonical) (role : Fin 4) (pos : Fin 8) (boot : Fin 4) (hao : s.power.ao = true) :
    ColdState (if s.power.nx then { s.power with tries := 0, retry := none } else { s.power with
        nx := true, mem := true, nxEn := true, nxUpAt := s.clk, tries := 0, retry := none })
      { s.boot with pfailAt := none, retained := false, seedDue := !s.power.nx || s.boot.seedDue } true State.strapRegs s
      (s.resetPulse role pos boot) ∧ (s.resetPulse role pos boot).rd SYS_STRAP = role + 4 * pos + 32 * boot ∧
    (s.resetPulse role pos boot).rd RED_STRAP = role + 4 * pos ∧ (s.resetPulse role pos boot).fld SYS_PWR_STAT 7 4 = 1 ∧
    (s.resetPulse role pos boot).bkd = s.bkd := by
  by_cases hnx : s.power.nx = true
  · have hseed : (!s.power.nx || s.boot.seedDue) = s.boot.seedDue := by rw [hnx]; rfl
    rw [if_pos hnx, hseed]
    exact State.resetPulse_on hs role.isLt pos.isLt boot.isLt hao hnx
  · have hseed : (!s.power.nx || s.boot.seedDue) = true := by simp [hnx]
    rw [if_neg hnx, hseed]
    exact State.resetPulse_off hs role.isLt pos.isLt boot.isLt hao (Bool.eq_false_iff.mpr hnx)

theorem regsOk_ok (hs : s.Canonical) : (s.ok w).RegsOk := show s.RegsOk from State.Canonical.regsOk hs

/-- What the refusal of a start command leaves. -/
theorem startRefused (hs : s.Canonical) : ((s.ok w).evt SYS_START_EVT 1).rd SYS_START_EVT = raised (s.rd SYS_START_EVT) 1 ∧
    Wrote [SYS_START_EVT] s ((s.ok w).evt SYS_START_EVT 1) :=
  ⟨State.rd_evt_same (s := s.ok w) (regsOk_ok hs) (by decide), RegsBut.setReg (.of_regs rfl) (by simp), rfl⟩

/-- A cold reset from a state that differs from `s` by an answer. -/
theorem coldReset_cold (hs : s.Canonical) {u : State} (hu : u = { s with reply := u.reply }) :
    ColdState s.power s.boot true [] s u.coldReset ∧ u.coldReset.bkd = s.bkd := by
  have hok : u.RegsOk := by rw [hu]; exact show s.RegsOk from State.Canonical.regsOk hs
  exact ⟨(State.coldReset_started hok hu).cold hok, (State.coldReset_bkd hok).trans (by rw [hu])⟩

/-- R493: what a warm reset that follows an accepted command leaves. -/
theorem warmReset_warm (hs : s.Canonical) (hstaged : s.led.staged = []) :
    WarmState s (s.ok w).warmReset ∧ (s.ok w).warmReset.boot = State.warmBoot s.boot s.clk :=
  State.warmReset_state (s := s.ok w) (regsOk_ok hs) hstaged

/-- R511: a retry of the rails, where one is set. -/
theorem nxRetry_of_some {x : Nat} (hx : s.power.retry = some x) :
    s.nxRetry = if s.power.ao = true ∧ s.power.nx = false ∧ x ≤ s.clk then s.nxRise 3 else s := by
  rw [State.nxRetry, hx]

theorem nxRetry_of_none (hx : s.power.retry = none) : s.nxRetry = s := by
  rw [State.nxRetry, hx]

end

/-- R496: what `done` leaves of `s`, the answer apart. -/
theorem done_answer {w : Who} {s : State} (hs : s.Canonical) (hdone : s.doneOk = true) (hroom : s.led.staged.length < 1000)
    (hidle : s.bit TAE_CTL 1 = false ∨ ∀ r, r < 8 → s.recState r = 0) (hred : s.bit RED_CTL 1 = false) :
    State.Completed (s.ok w) (s.ok w).done :=
  State.done_completed (s := s.ok w) (regsOk_ok hs) hdone hroom hidle hred

/-- Settles O52: each command is taken at the condition its clause gives; a cold start comes from `ColdState`'s lemma `Started.cold`,
a warm one from `warmReset_state`, and the completed start from `done_completed`. -/
theorem resets : Obligations.Resets := by
  intro w s hs
  refine ⟨fun role pos boot => ⟨fun hao => ?_, fun hao => .of_exec rfl (if_pos hao) rfl, fun hao => .of_exec rfl (if_pos hao) rfl,
      fun hao => ?_⟩, fun hao => .of_exec rfl (if_pos hao) rfl, fun hao hstays => ?_, fun hao hnx hrec => .of_exec rfl rfl
      (State.resetLong_cold hs hao hnx hrec), ⟨fun hdue => ?_, fun hdue => .of_exec rfl (if_neg hdue) rfl⟩, fun hsup => ?_,
    ⟨fun hsup hfree hstaged => ?_, fun hsup hbusy => ?_⟩, ⟨fun hsup hmay => ?_, fun hsup hmay hroom hidle hred => ?_,
      fun hsup hmay hred hstrap => ?_⟩, fun x hx => ⟨fun hdue => ?_, fun hdue => ?_⟩, fun hnone => ?_⟩
  · obtain ⟨hcold, hstrap, hred, hrest⟩ := State.powerUp_cold hs role.isLt pos.isLt boot.isLt hao
    exact .of_exec rfl rfl ⟨hcold, ⟨hstrap, hred⟩, hrest⟩
  · obtain ⟨hcold, hstrap, hred, hrest⟩ := resetPulse_cold hs role pos boot hao
    exact .of_exec rfl rfl ⟨hcold, ⟨hstrap, hred⟩, hrest⟩
  · refine .of_exec rfl ((if_neg (by simp [hao])).trans (if_neg ?_)) ⟨State.rd_setFld_same (State.Canonical.regsOk hs) (by decide) (by decide),
      RegsBut.setReg (.of_regs rfl) (by simp), rfl⟩
    rintro ⟨hnx, hrec⟩
    rcases hstays with h | h
    · exact Bool.false_ne_true (h.symm.trans hnx)
    · exact Bool.false_ne_true (h.symm.trans hrec)
  · exact .of_exec rfl (if_pos hdue) (coldReset_cold hs rfl)
  · exact .of_exec rfl (State.gateSup_of_sup hsup (by decide)) (coldReset_cold hs rfl)
  · exact .of_exec rfl ((State.gateSup_of_sup hsup (by decide)).trans (if_pos (State.warmOk_iff.mpr hfree))) (warmReset_warm hs hstaged)
  · exact .of_exec rfl ((State.gateSup_of_sup hsup (by decide)).trans (if_neg fun h => hbusy (State.warmOk_iff.mp h))) (startRefused hs)
  · have hno : s.doneOk = false := Bool.eq_false_iff.mpr fun h => hmay (State.doneOk_iff.mp h)
    exact .of_exec rfl ((State.gateSup_of_sup hsup (by decide)).trans (if_pos hno)) (startRefused hs)
  · have h := done_answer (w := w) hs (State.doneOk_iff.mpr hmay) hroom hidle hred
    refine .of_exec rfl (State.gateSup_of_sup hsup (by decide)) ?_
    generalize (s.ok w).done = t at h ⊢
    obtain ⟨hvalue, hcx, hmember, hhealth, hregs, hrecord, honly⟩ := h
    have hcomplete : t.complete = true := by rw [honly]
    have hreply : t.reply = (s.ok w).reply := by rw [honly]
    refine ⟨hcomplete, hvalue _ (List.mem_of_getElem? (i := 5) rfl), hvalue _ (List.mem_of_getElem? (i := 4) rfl),
      hvalue _ (List.mem_of_getElem? (i := 3) rfl), hvalue _ (List.mem_of_getElem? (i := 2) rfl),
      hvalue _ (List.mem_of_getElem? (i := 1) rfl), hvalue _ List.mem_cons_self, hcx, hmember, hhealth, hregs, hrecord, ?_⟩
    rw [hreply]
    exact honly
  · exact .of_exec rfl (State.gateSup_of_sup hsup (by decide))
      (State.done_strapped (s := s.ok w) (regsOk_ok hs) (State.doneOk_iff.mpr hmay) hred hstrap)
  · exact .of_exec rfl ((nxRetry_of_some hx).trans (if_pos hdue)) (State.nxRise_retry hs)
  · exact .of_exec rfl ((nxRetry_of_some hx).trans (if_neg hdue)) rfl
  · exact .of_exec rfl (nxRetry_of_none hnone) rfl

end Sys2Proof.Machine
end

section
/-!
PROOF. Grants (R209, R212, R215, R216, R218): what the status shows, and what a revoke leaves of the state while it returns the
shadows of the instances it covers.
-/

namespace Sys2Proof.Machine

open Sys2Proof.Claims

namespace State

variable {s : State}

/-! ### The status of a grant command (R218) -/

theorem rd_grantStat (h : s.RegsOk) {i result : Nat} (hi : i < 4096) (hr : result < 8) (busy : Bool) :
    (s.grantStat i result busy).rd XEC_GNT_STAT = i * 16 + result * 2 + b2n busy := by
  have hb : b2n busy ≤ 1 := by cases busy <;> decide
  rw [grantStat, rd_setReg_same h, Nat.mod_eq_of_lt (by omega)]

theorem createResult_lt (i : Nat) (g : Grant) : s.createResult i g < 8 := by
  unfold createResult
  dsimp only
  split_ifs <;> decide

/-- A grant command that slice 0 or the debug port writes while none is in progress. -/
theorem grantCmd_open {w : Who} (h : Sup w 7 s) (hidle : s.bit XEC_GNT_STAT 0 = false) (f : State → State) :
    s.grantCmd w f = f (s.ok w) :=
  (gateSup_of_sup h (by decide)).trans (if_neg (by simp [hidle]))

/-! ### Shadows returned (R35, R216) -/

/-- The registers with shadows stand in the lower half of their block's window, so the shadows stand in it too. -/
theorem rwcRows_low : ∀ b < 24, ∀ r ∈ (rowsOf b).filter (fun r => r.acc == .RWC), r.off < 0x80000 ∧
    ∀ d ∈ r.dims.head?, ∀ o ∈ dimOffs r.dims.tail, r.off + d.2 * d.1 + o < 0x80000 := by
  decide +kernel

theorem rwcOffs_lt {b i o : Nat} (hb : b < 24) (ho : o ∈ rwcOffs b i) : o < 0x80000 := by
  obtain ⟨r, hr, ho⟩ := List.mem_flatMap.mp ho
  obtain ⟨hoff, hdims⟩ := rwcRows_low b hb r hr
  split at ho
  next =>
    split at ho
    · obtain rfl := List.mem_singleton.mp ho
      exact hoff
    · cases ho
  next st cnt rest hd =>
    rw [hd] at hdims
    split at ho
    next hi =>
      obtain ⟨d, hdmem, rfl⟩ := List.mem_map.mp ho
      have hstep : (i - r.first) * st ≤ cnt * st := Nat.mul_le_mul_right _ (by omega)
      have hspan : r.off + cnt * st + d < 0x80000 := hdims (st, cnt) rfl d hdmem
      omega
    · cases ho

/-- Between `s` and `t` registers other than `a` and what is staged changed, and nothing else. -/
structure Unstaged (a : Nat) (s t : State) : Prop where
  only : t = { s with regs := t.regs, staged := t.staged }
  rd   : t.rd a = s.rd a

theorem Unstaged.setReg {a c v : Nat} {t : State} (h : Unstaged a s t) (hc : a ≠ c) : Unstaged a s (t.setReg c v) :=
  ⟨by rw [h.only]; rfl, (rd_setReg_ne hc).trans h.rd⟩

/-- The shadows of an instance return: a register of another block reads as before. -/
theorem shadowReset_unstaged {a b i : Nat} {t : State} (h : Unstaged a s t) (hb : b < 24) (hi : i < 0x1000)
    (hblk : blkOf a ≠ b) : Unstaged a s (t.shadowReset b i) := by
  have hne : ∀ o, o < 0x100000 → a ≠ blockBase b + o := by
    intro o ho hab
    unfold blkOf at hblk
    unfold blockBase at hab
    omega
  have hshadows : Unstaged a s (t.each (rwcAddrs b i) fun c u => u.setReg (shadow c) (u.rd c)) := by
    refine each_invariant h fun c hc u hu => hu.setReg ?_
    obtain ⟨o, ho, rfl⟩ := List.mem_map.mp hc
    have := rwcOffs_lt hb ho
    rw [shadow, Nat.add_assoc]
    exact hne _ (by omega)
  have hstaged : ∀ u : State, Unstaged a s u → Unstaged a s (u.setStaged b i {}) := fun u hu => ⟨by rw [hu.only]; rfl, hu.rd⟩
  refine (hstaged _ (hshadows.setReg ?_)).setReg ?_
  · rw [pendingReg, Nat.add_assoc]
    exact hne _ (by omega)
  · exact hne _ (by decide)

theorem kindBlock_some {k b : Nat} (h : kindBlock k = some b) : b < 24 ∧ b ≠ 7 ∧ instCount b ≤ 0x1000 := by
  unfold kindBlock at h
  split at h <;> cases h <;> decide

/-- The instances whose shadows a revoke returns are of other blocks than the execution complex. -/
theorem Grant.instances_mem {g : Grant} {x : Nat × Nat} (h : x ∈ g.instances) : x.1 < 24 ∧ x.1 ≠ 7 ∧ x.2 < 0x1000 := by
  unfold Grant.instances at h
  split at h
  next b hb =>
    split at h
    · obtain ⟨i, hi, rfl⟩ := List.mem_map.mp h
      have hlt := List.mem_range.mp (List.mem_of_mem_filter hi)
      obtain ⟨h24, h7, hcount⟩ := kindBlock_some hb
      exact ⟨h24, h7, by omega⟩
    · cases h
  next => cases h

/-- R216: a revoke marks the entry and is busy; of what else there is only registers and what is staged change. -/
theorem grantRevoke_effect (h : s.RegsOk) {i : Nat} (hi : i < 4096) (hvalid : (s.grants.at' i).valid = true)
    (hfree : s.inflight (s.grants.at' i) = false) :
    (s.grantRevoke i).grants = s.grants.put i { s.grants.at' i with revoking := true } ∧
    (s.grantRevoke i).rd XEC_GNT_STAT = i * 16 + 1 ∧
    s.grantRevoke i = { s with regs := (s.grantRevoke i).regs, grants := (s.grantRevoke i).grants, staged := (s.grantRevoke i).staged } := by
  unfold grantRevoke
  dsimp only
  rw [if_neg (by simp [hvalid]), if_neg (by simp [hfree])]
  have hstat := rd_grantStat (s := { s with grants := s.grants.put i { s.grants.at' i with revoking := true } }) h hi (by decide : 0 < 8) true
  generalize hu : grantStat i 0 true _ = u at hstat
  have hreset : Unstaged XEC_GNT_STAT u (u.each (s.grants.at' i).instances fun x => State.shadowReset x.1 x.2) :=
    each_invariant (P := Unstaged XEC_GNT_STAT u) ⟨rfl, rfl⟩ fun x hx t ht => by
      obtain ⟨h24, h7, hlt⟩ := Grant.instances_mem hx
      exact shadowReset_unstaged ht h24 hlt (Ne.symm h7)
  obtain ⟨honly, hrd⟩ := hreset
  generalize u.each _ _ = t at honly hrd
  subst hu
  exact ⟨by rw [honly]; rfl, hrd.trans hstat, by rw [honly]; rfl⟩

end State

/-- Settles O11: the status word of each command, and the frame of a revoke from `grantRevoke_effect`. -/
theorem grants : Obligations.Grants := by
  intro w g s hs
  have hok : (s.ok w).RegsOk := regsOk_ok hs
  have hok' : State.RegsOk { s with grants := s.grants.put g {} } := State.Canonical.regsOk (s := s) hs
  have hg := g.isLt
  refine ⟨fun hsup hidle hr => ?_, fun hsup hidle hr => ?_, fun hsup hidle hvalid hfree => ?_, fun hrev => ?_⟩
  · refine .of_exec rfl ((State.grantCmd_open hsup hidle _).trans (if_neg (not_not_intro hr))) ⟨rfl, rfl, ?_, regsBut_setReg, rfl⟩
    exact State.rd_grantStat hok hg (by decide) false
  · refine .of_exec rfl ((State.grantCmd_open hsup hidle _).trans (if_pos hr)) ⟨?_, regsBut_setReg, rfl⟩
    exact State.rd_grantStat hok hg (s.createResult_lt g s.stagedGrant) false
  · obtain ⟨hgrants, hstat, honly⟩ := State.grantRevoke_effect (s := s.ok w) hok hg hvalid hfree
    refine .of_exec rfl (State.grantCmd_open hsup hidle _) ⟨hgrants, hstat, ?_⟩
    generalize (s.ok w).grantRevoke g = t at honly
    rw [honly]
    rfl
  · exact .of_exec rfl (if_pos hrev) ⟨State.rd_grantStat hok' hg (by decide) false, regsBut_setReg, rfl⟩

end Sys2Proof.Machine
end

section
/-!
PROOF. Life commands of slices (R210, R219–R225, R230): how a command is shown with its result, and what each command that is
accepted leaves of the state.
-/

namespace Sys2Proof.Machine

open Sys2Proof.Claims

namespace State

variable {s : State} {n : Nat}

/-- The registers of a slice that its life writes, and that of the transfer unit, stand at places of their own. -/
theorem lifeRegs_apart (hn : n < 256) :
    XEC_SL_XSTAT n ≠ XEC_SL_STAT n ∧ XEC_SL_XSTAT n ≠ XEC_SL_XEVT n ∧ XEC_SL_STAT n ≠ XEC_SL_XEVT n ∧ XEC_SL_XSTAT n ≠ XEC_STAT ∧
    XEC_SL_XEVT n ≠ XEC_STAT ∧ XEC_SL_STAT n ≠ XEC_STAT ∧ XEC_SL_XSTAT n ≠ XEC_XFER_STAT ∧ XEC_SL_XEVT n ≠ XEC_XFER_STAT := by
  unfold XEC_SL_XSTAT XEC_SL_STAT XEC_SL_XEVT XEC_STAT XEC_XFER_STAT
  omega

theorem blkOf_slice (hn : n < 256) : blkOf (XEC_SL_BIND n) = 7 ∧ blkOf (XEC_SL_CMD n) = 7 := by
  unfold blkOf XEC_SL_BIND XEC_SL_CMD
  omega

/-! ### Writes of a slice's life (R219, R230) -/

@[simp] theorem regsOk_modSl {f : Slice → Slice} (h : s.RegsOk) : (s.modSl n f).RegsOk := h
@[simp] theorem regsOk_setLife {v : Nat} (h : s.RegsOk) : (s.setLife n v).RegsOk := regsOk_setFld h
@[simp] theorem regsOk_setRun {v : Nat} (h : s.RegsOk) : (s.setRun n v).RegsOk := regsOk_setFld h
@[simp] theorem regsOk_lifeBusy {b : Bool} (h : s.RegsOk) : (s.lifeBusy n b).RegsOk := regsOk_setBit h
@[simp] theorem regsOk_lifeEvt {b : Nat} (h : s.RegsOk) : (s.lifeEvt n b).RegsOk := regsOk_evt h

@[simp] theorem rd_modSl {f : Slice → Slice} {a : Nat} : (s.modSl n f).rd a = s.rd a := rfl

@[simp] theorem rd_setLife_same {v : Nat} (h : s.RegsOk) :
    (s.setLife n v).rd (XEC_SL_XSTAT n) = setBits (s.rd (XEC_SL_XSTAT n)) 2 0 v := rd_setFld_same h (by decide) (by decide)

@[simp] theorem rd_setLife_ne {a v : Nat} (h : a ≠ XEC_SL_XSTAT n) : (s.setLife n v).rd a = s.rd a := rd_setFld_ne h

@[simp] theorem rd_setRun_same {v : Nat} (h : s.RegsOk) :
    (s.setRun n v).rd (XEC_SL_STAT n) = setBits (s.rd (XEC_SL_STAT n)) 2 0 v := rd_setFld_same h (by decide) (by decide)

@[simp] theorem rd_setRun_ne {a v : Nat} (h : a ≠ XEC_SL_STAT n) : (s.setRun n v).rd a = s.rd a := rd_setFld_ne h

@[simp] theorem rd_lifeResult_same {r : Nat} (h : s.RegsOk) :
    (s.lifeResult n r).rd (XEC_SL_XSTAT n) = setBits (s.rd (XEC_SL_XSTAT n)) 11 8 r := rd_setFld_same h (by decide) (by decide)

@[simp] theorem rd_lifeResult_ne {a r : Nat} (h : a ≠ XEC_SL_XSTAT n) : (s.lifeResult n r).rd a = s.rd a := rd_setFld_ne h

@[simp] theorem rd_lifeBusy_true (h : s.RegsOk) : (s.lifeBusy n true).rd (XEC_SL_XSTAT n) = raised (s.rd (XEC_SL_XSTAT n)) 12 :=
  rd_setBit_true h (by decide)

@[simp] theorem rd_lifeBusy_false (h : s.RegsOk) : (s.lifeBusy n false).rd (XEC_SL_XSTAT n) = lowered (s.rd (XEC_SL_XSTAT n)) 12 :=
  rd_setFld_same h (by decide) (by decide)

@[simp] theorem rd_lifeBusy_ne {a : Nat} {b : Bool} (h : a ≠ XEC_SL_XSTAT n) : (s.lifeBusy n b).rd a = s.rd a := rd_setBit_ne h

@[simp] theorem rd_lifeEvt_same {b : Nat} (h : s.RegsOk) (hb : b < 32) :
    (s.lifeEvt n b).rd (XEC_SL_XEVT n) = raised (s.rd (XEC_SL_XEVT n)) b := rd_evt_same h hb

@[simp] theorem rd_lifeEvt_ne {a b : Nat} (h : a ≠ XEC_SL_XEVT n) : (s.lifeEvt n b).rd a = s.rd a := rd_evt_ne h

/-! ### A command and its result (R230) -/

/-- The code of a life command shown. -/
def lifeCoded (w : Who) (n cmd : Nat) (s : State) : State := (s.ok w).setFld (XEC_SL_XSTAT n) 7 4 cmd

theorem lifeCmd_open {w : Who} (h : Sup w 7 s) (hn : n < 256) (cmd : Nat) (refusal : State → Nat) (f : State → State) :
    s.lifeCmd w n cmd refusal f = if refusal (s.lifeCoded w n cmd) ≠ 0
      then (s.lifeCoded w n cmd).lifeResult n (refusal (s.lifeCoded w n cmd)) else f ((s.lifeCoded w n cmd).lifeResult n 0) :=
  gateSup_of_sup h (blkOf_slice hn).2

theorem lifeCmd_refused {w : Who} (h : Sup w 7 s) (hn : n < 256) {cmd r : Nat} {refusal : State → Nat} {f : State → State}
    (hr : refusal (s.lifeCoded w n cmd) = r) (h0 : r ≠ 0) : s.lifeCmd w n cmd refusal f = (s.lifeCoded w n cmd).lifeResult n r := by
  rw [lifeCmd_open h hn, hr, if_pos h0]

theorem lifeCmd_accepted {w : Who} (h : Sup w 7 s) (hn : n < 256) {cmd : Nat} {refusal : State → Nat} {f : State → State}
    (hr : refusal (s.lifeCoded w n cmd) = 0) : s.lifeCmd w n cmd refusal f = f ((s.lifeCoded w n cmd).lifeResult n 0) := by
  rw [lifeCmd_open h hn, hr, if_neg (not_not_intro rfl)]

/-- Command `cmd` of slice `n` is shown with result `r`, and nothing else happened but the master's answer. -/
structure LifeShown (n cmd r : Nat) (s t : State) : Prop where
  only  : t = { s with regs := t.regs, reply := t.reply }
  canon : t.Canonical
  regs  : RegsBut [XEC_SL_XSTAT n] s t
  xstat : t.rd (XEC_SL_XSTAT n) = setBits (setBits (s.rd (XEC_SL_XSTAT n)) 7 4 cmd) 11 8 r

theorem lifeShown (hs : s.Canonical) (w : Who) (n cmd r : Nat) : LifeShown n cmd r s ((s.lifeCoded w n cmd).lifeResult n r) := by
  have hc : (s.lifeCoded w n cmd).Canonical := canonical_setReg ((ok_kept (.refl s)).canonical hs)
  refine ⟨rfl, canonical_setReg hc, RegsBut.setReg (RegsBut.setReg (.of_regs rfl) (by simp)) (by simp), ?_⟩
  rw [rd_lifeResult_same (Canonical.regsOk hc), lifeCoded, rd_setFld_same (regsOk_ok hs) (by decide) (by decide), ok_rd]

theorem life_lifeCoded (hs : s.Canonical) (w : Who) (n cmd : Nat) : (s.lifeCoded w n cmd).life n = s.life n :=
  fld_setFld_other (s := s.ok w) (regsOk_ok hs) (by decide) (by decide) (.inr (.inr (by decide)))

namespace LifeShown

variable {cmd r : Nat} {t : State}

theorem life (h : LifeShown n cmd r s t) : t.life n = s.life n := by
  rw [State.life, fld, h.xstat, bits_setBits_other (by decide) (.inr (by decide)), bits_setBits_other (by decide) (.inr (by decide))]
  rfl

theorem sl (h : LifeShown n cmd r s t) (m : Nat) : t.sl m = s.sl m := by
  rw [h.only]
  rfl

theorem stagedOf (h : LifeShown n cmd r s t) (b i : Nat) : t.stagedOf b i = s.stagedOf b i := by
  rw [h.only]
  rfl

theorem locked (h : LifeShown n cmd r s t) (b i : Nat) : t.locked b i = s.locked b i := congrArg Staged.locked (h.stagedOf b i)

/-- Another register than the one that shows the command. -/
theorem rd (h : LifeShown n cmd r s t) {a : Nat} (ha : a ≠ XEC_SL_XSTAT n) : t.rd a = s.rd a := h.regs a (by simpa using ha)

theorem cfg (h : LifeShown n cmd r s t) : t.rd (XEC_SL_CFG n) = s.rd (XEC_SL_CFG n) :=
  h.rd (by unfold XEC_SL_CFG XEC_SL_XSTAT; omega)

end LifeShown

/-- What a life command refused with result `r` answers. -/
theorem lifeCmd_refused_shown {w : Who} (hs : s.Canonical) (h : Sup w 7 s) (hn : n < 256) {cmd r : Nat} {refusal : State → Nat}
    {f : State → State} (hr : refusal (s.lifeCoded w n cmd) = r) (h0 : r ≠ 0) :
    (s.lifeCmd w n cmd refusal f).rd (XEC_SL_XSTAT n) = setBits (setBits (s.rd (XEC_SL_XSTAT n)) 7 4 cmd) 11 8 r ∧
    Wrote [XEC_SL_XSTAT n] s (s.lifeCmd w n cmd refusal f) := by
  rw [lifeCmd_refused h hn hr h0]
  have hshown := lifeShown hs w n cmd r
  exact ⟨hshown.xstat, hshown.regs, hshown.only⟩

/-- QUIESCE, RESUME and RESET, accepted in one state of the slice while no transfer is on. -/
theorem lifeRefusal_coded (w : Who) (n cmd : Nat) (ok : Bool) :
    (s.lifeCoded w n cmd).lifeRefusal ok = if ok = false then 1 else if s.xfer = none then 0 else 2 := by
  have hxfer : (s.lifeCoded w n cmd).xfer = s.xfer := rfl
  cases ok <;> cases hx : s.xfer <;> simp [lifeRefusal, hxfer, hx]

/-! ### Quiesce (R220) -/

/-- A slice that starts to quiesce: held and undispatched releases are dropped. -/
def Slice.draining (now : Nat) (sl : Slice) : Slice := { sl with
  held := none
  pass := match sl.pass with
    | some ps => if ps.started then some ps else none
    | none => none
  quiesceAt := some now }

theorem quiesce_unstaged (hlock : s.locked 7 n = false) (hwait : (s.stagedOf 7 n).waits = []) :
    s.quiesce n = ((s.modSl n (Slice.draining s.clk)).setLife n 2).lifeBusy n true := by
  have hnone : s.discardCommit 7 n = s := if_neg (by simp [hlock, hwait])
  rw [quiesce, hnone]
  rfl

theorem quiesce_effect (hs : s.Canonical) (hlock : s.locked 7 n = false) (hwait : (s.stagedOf 7 n).waits = []) :
    (s.quiesce n).rd (XEC_SL_XSTAT n) = raised (setBits (s.rd (XEC_SL_XSTAT n)) 2 0 2) 12 ∧
    (s.quiesce n).sl n = Slice.draining s.clk (s.sl n) ∧ RegsBut [XEC_SL_XSTAT n] s (s.quiesce n) ∧
    s.quiesce n = { s with regs := (s.quiesce n).regs, slices := (s.quiesce n).slices } := by
  rw [quiesce_unstaged hlock hwait]
  have hok : (s.modSl n (Slice.draining s.clk)).RegsOk := regsOk_modSl (Canonical.regsOk hs)
  have hsl := sl_modSl_same (n := n) (f := Slice.draining s.clk) (Canonical.slicesTidy hs)
  exact ⟨by simp [hok], hsl, RegsBut.setReg (RegsBut.setReg (.of_regs rfl) (by simp)) (by simp), rfl⟩

/-- A slice that has come to rest. -/
def Slice.atRest (sl : Slice) : Slice := { sl with quiesceAt := none, pass := none, held := none, waitAt := none }

theorem quiesced_eq (n : Nat) : s.quiesced n =
    (((((s.modSl n Slice.atRest).setLife n 3).setRun n 7).lifeBusy n false).lifeEvt n 0).showClassA := rfl

theorem rd_showClassA {a : Nat} (h : a ≠ XEC_STAT) : s.showClassA.rd a = s.rd a := rd_setBit_ne h

/-- R220: the slice is QUIESCED. -/
theorem quiesced_effect (hs : s.Canonical) (hn : n < 256) :
    (s.quiesced n).rd (XEC_SL_XSTAT n) = lowered (setBits (s.rd (XEC_SL_XSTAT n)) 2 0 3) 12 ∧ (s.quiesced n).run n = 7 ∧
    (s.quiesced n).rd (XEC_SL_XEVT n) = raised (s.rd (XEC_SL_XEVT n)) 0 ∧
    (s.quiesced n).sl n = Slice.atRest (s.sl n) ∧ (s.quiesced n).Canonical ∧
    RegsBut [XEC_SL_XSTAT n, XEC_SL_STAT n, XEC_SL_XEVT n, XEC_STAT] s (s.quiesced n) ∧
    s.quiesced n = { s with regs := (s.quiesced n).regs, slices := (s.quiesced n).slices } := by
  obtain ⟨hxs, hxv, hsv, hxt, hvt, hst, -⟩ := lifeRegs_apart hn
  have hcanon : (s.quiesced n).Canonical := (quiesced_kept (.refl s)).canonical hs
  have hok := Canonical.regsOk hs
  have hsl := sl_modSl_same (n := n) (f := Slice.atRest) (Canonical.slicesTidy hs)
  revert hcanon
  rw [quiesced_eq]
  intro hcanon
  have hok1 := regsOk_setLife (n := n) (v := 3) (regsOk_modSl (n := n) (f := Slice.atRest) hok)
  have hok2 := regsOk_setRun (n := n) (v := 7) hok1
  have hok3 := regsOk_lifeBusy (n := n) (b := false) hok2
  refine ⟨?_, ?_, ?_, hsl, hcanon, ?_, rfl⟩
  · rw [rd_showClassA hxt]
    simp [hok, hok2, hxs, hxv]
  · rw [run, fld, rd_showClassA hst]
    simp [hok1, hsv, hxs.symm, bits_setBits_same]
  · rw [rd_showClassA hvt]
    simp [hok3, hsv.symm, hxv.symm]
  · have hregs : RegsBut [XEC_SL_XSTAT n, XEC_SL_STAT n, XEC_SL_XEVT n, XEC_STAT] s (s.modSl n Slice.atRest) := .of_regs rfl
    exact ((((hregs.setReg (by simp)).setReg (by simp)).setReg (by simp)).setReg (by simp)).setReg (by simp)

/-! ### Resume (R224) -/

/-- A slice that runs again. -/
def Slice.again (sl : Slice) : Slice := { sl with cmiss := 0, fresh := true, armRel := none }

/-- The state before the dispatch of a slice that runs again. -/
def runsAgain (n : Nat) (s : State) : State :=
  (((((s.modSl n Slice.again).setFld (XEC_SL_STAT n) 7 4 0).setLife n 1).setRun n 1).lifeBusy n false).lifeEvt n 1

theorem resume_eq (n : Nat) : s.resume n = (s.runsAgain n).dispatch (s.slPair n) := by
  have hpair : ((s.modSl n Slice.again).setFld (XEC_SL_STAT n) 7 4 0).slPair n = s.slPair n := by
    rw [slPair, fld, rd_setFld_ne (by unfold XEC_SL_CFG XEC_SL_STAT; omega)]
    rfl
  rw [← hpair]
  rfl

theorem runsAgain_effect (hs : s.Canonical) (hn : n < 256) :
    (s.runsAgain n).rd (XEC_SL_XSTAT n) = lowered (setBits (s.rd (XEC_SL_XSTAT n)) 2 0 1) 12 ∧
    (s.runsAgain n).rd (XEC_SL_STAT n) = setBits (setBits (s.rd (XEC_SL_STAT n)) 7 4 0) 2 0 1 ∧
    (s.runsAgain n).rd (XEC_SL_XEVT n) = raised (s.rd (XEC_SL_XEVT n)) 1 ∧
    RegsBut [XEC_SL_XSTAT n, XEC_SL_STAT n, XEC_SL_XEVT n] s (s.runsAgain n) ∧
    (s.runsAgain n).Canonical ∧
    s.runsAgain n = { s with regs := (s.runsAgain n).regs, slices := s.slices.put n (Slice.again (s.sl n)) } := by
  obtain ⟨hxs, hxv, hsv, -⟩ := lifeRegs_apart hn
  have hok : ((s.modSl n Slice.again).setFld (XEC_SL_STAT n) 7 4 0).RegsOk :=
    regsOk_setFld (regsOk_modSl (Canonical.regsOk hs))
  have hok2 := regsOk_setRun (n := n) (v := 1) (regsOk_setLife (n := n) (v := 1) hok)
  have hok3 := regsOk_lifeBusy (n := n) (b := false) hok2
  have hcanon : (s.runsAgain n).Canonical :=
    canonical_setReg (canonical_setReg (canonical_setReg (canonical_setReg (canonical_setReg (canonical_modSl hs)))))
  have hregs : RegsBut [XEC_SL_XSTAT n, XEC_SL_STAT n, XEC_SL_XEVT n] s (s.modSl n Slice.again) := .of_regs rfl
  refine ⟨?_, ?_, ?_, ((((hregs.setReg (by simp)).setReg (by simp)).setReg (by simp)).setReg (by simp)).setReg (by simp), hcanon, rfl⟩
  · simp [runsAgain, hok, hok2, hxs, hxv, rd_setFld_ne hxs]
  · have hstat := rd_setFld_same (a := XEC_SL_STAT n) (hi := 7) (lo := 4) (v := 0) (regsOk_modSl (n := n) (f := Slice.again)
      (Canonical.regsOk hs)) (by decide) (by decide)
    simp [runsAgain, hok, hsv, hxs.symm, hstat]
  · simp [runsAgain, hok3, hxv.symm, hsv.symm, rd_setFld_ne hsv.symm]

/-- A slice that is armed (R224). -/
def Slice.armed (sl : Slice) : Slice := { sl with prevLife := 3, armRel := none, cmiss := 0, fresh := true }

/-- R224: with `at`, a slice whose reference has closed no grid point yet is armed. -/
theorem resumeCmd_armed (hclosed : s.closedGp.at' (s.slRef n) = 0) :
    s.resumeCmd n true = (((s.modSl n Slice.armed).setFld (XEC_SL_STAT n) 7 4 0).setLife n 7).lifeBusy n true := by
  rw [resumeCmd, if_pos rfl]
  dsimp only
  rw [if_neg (by simp [hclosed])]
  rfl

theorem resumeCmd_armed_effect (hs : s.Canonical) (hn : n < 256) (hclosed : s.closedGp.at' (s.slRef n) = 0) :
    (s.resumeCmd n true).rd (XEC_SL_XSTAT n) = raised (setBits (s.rd (XEC_SL_XSTAT n)) 2 0 7) 12 ∧
    RegsBut [XEC_SL_XSTAT n, XEC_SL_STAT n] s (s.resumeCmd n true) ∧
    s.resumeCmd n true = { s with regs := (s.resumeCmd n true).regs, slices := s.slices.put n (Slice.armed (s.sl n)) } := by
  obtain ⟨hxs, -⟩ := lifeRegs_apart hn
  rw [resumeCmd_armed hclosed]
  have hok : ((s.modSl n Slice.armed).setFld (XEC_SL_STAT n) 7 4 0).RegsOk :=
    regsOk_setFld (regsOk_modSl (Canonical.regsOk hs))
  have hregs : RegsBut [XEC_SL_XSTAT n, XEC_SL_STAT n] s (s.modSl n Slice.armed) := .of_regs rfl
  refine ⟨?_, ((hregs.setReg (by simp)).setReg (by simp)).setReg (by simp), rfl⟩
  simp [hok, rd_setFld_ne hxs]

/-! ### Reset (R225) -/

theorem sliceReset_effect (hs : s.Canonical) :
    (s.sliceReset n).rd (XEC_SL_XSTAT n) = lowered (s.rd (XEC_SL_XSTAT n)) 14 ∧ ((s.sliceReset n).sl n).curImg.valid = false ∧
    ((s.sliceReset n).sl n).everRun = false ∧ RegsBut [XEC_SL_XSTAT n] s (s.sliceReset n) ∧
    s.sliceReset n = { s with regs := (s.sliceReset n).regs, slices := (s.sliceReset n).slices } := by
  have hsl := sl_modSl_same (n := n) (f := fun sl => { sl with
    img0 := { sl.img0 with valid := false }, img1 := { sl.img1 with valid := false }, everRun := false }) (Canonical.slicesTidy hs)
  refine ⟨rd_setFld_same (s := s.modSl n _) (Canonical.regsOk (canonical_modSl hs)) (by decide) (by decide), ?_, congrArg Slice.everRun hsl,
    RegsBut.setReg (.of_regs rfl) (by simp), rfl⟩
  refine (congrArg (fun sl => (Slice.curImg sl).valid) hsl).trans ?_
  unfold Slice.curImg
  split <;> rfl

/-! ### Abort (R230, R235) -/

/-- A slice whose move or arming is given up. -/
def Slice.unbound (sl : Slice) : Slice := { sl with moveTo := none, armRel := none }

/-- The slice back in its previous state, before a move that is given up lets it go on. -/
def abortEnded (n : Nat) (s : State) : State :=
  let u := s.modSl n Slice.unbound
  (((if s.life n = 7 then u.lifeBusy n false else u.xferEnd n).setLife n (s.sl n).prevLife).lifeEvt n 6).lifeResult n 8

theorem xferAbort_eq (n : Nat) : s.xferAbort n = (s.abortEnded n).moveOn n ((s.abortEnded n).slPair n)
    (s.life n == 4 && ((s.sl n).prevLife == 1 || ((s.abortEnded n).sl n).held.isSome)) := rfl

/-- Slice `n` is back in its previous state, and the abort is shown (R230, R235). -/
structure Aborting (n : Nat) (s t : State) : Prop where
  canon : t.Canonical
  life  : t.life n = (s.sl n).prevLife % 8
  code  : t.fld (XEC_SL_XSTAT n) 7 4 = s.fld (XEC_SL_XSTAT n) 7 4
  res   : t.fld (XEC_SL_XSTAT n) 11 8 = 8
  busy  : t.bit (XEC_SL_XSTAT n) 12 = false
  event : t.rd (XEC_SL_XEVT n) = raised (s.rd (XEC_SL_XEVT n)) 6
  sl    : t.sl n = Slice.unbound (s.sl n)
  armed : s.life n = 7 → RegsBut [XEC_SL_XSTAT n, XEC_SL_XEVT n] s t ∧ t = { s with regs := t.regs, slices := t.slices }
  xfer  : s.life n ≠ 7 → t.bit XEC_XFER_STAT 0 = false ∧ RegsBut [XEC_SL_XSTAT n, XEC_SL_XEVT n, XEC_XFER_STAT] s t ∧
    t = { s with regs := t.regs, xfer := none, slices := t.slices }

/-- The last three writes of an abort, of which `u` is the state before them. -/
theorem aborting_of {u : State} (hn : n < 256) (hc : u.Canonical) (hx : u.rd (XEC_SL_XSTAT n) = lowered (s.rd (XEC_SL_XSTAT n)) 12)
    (hv : u.rd (XEC_SL_XEVT n) = s.rd (XEC_SL_XEVT n)) (p : Nat) :
    let t := ((u.setLife n p).lifeEvt n 6).lifeResult n 8
    t.Canonical ∧ t.life n = p % 8 ∧ t.fld (XEC_SL_XSTAT n) 7 4 = s.fld (XEC_SL_XSTAT n) 7 4 ∧ t.fld (XEC_SL_XSTAT n) 11 8 = 8 ∧
    t.bit (XEC_SL_XSTAT n) 12 = false ∧ t.rd (XEC_SL_XEVT n) = raised (s.rd (XEC_SL_XEVT n)) 6 ∧
    RegsBut [XEC_SL_XSTAT n, XEC_SL_XEVT n] u t ∧ t = { u with regs := t.regs } := by
  obtain ⟨-, hxv, -⟩ := lifeRegs_apart hn
  have hok := Canonical.regsOk hc
  have hok1 := regsOk_setLife (n := n) (v := p) hok
  have hok2 := regsOk_lifeEvt (n := n) (b := 6) hok1
  have hxstat : (((u.setLife n p).lifeEvt n 6).lifeResult n 8).rd (XEC_SL_XSTAT n) =
      setBits (setBits (lowered (s.rd (XEC_SL_XSTAT n)) 12) 2 0 p) 11 8 8 := by
    simp [hok, hok2, hxv, hx]
  refine ⟨canonical_setReg (canonical_setReg (canonical_setReg hc)), ?_, ?_, ?_, ?_, ?_,
    RegsBut.setReg (RegsBut.setReg (RegsBut.setReg (.of_regs rfl) (by simp)) (by simp)) (by simp), rfl⟩
  · rw [State.life, fld, hxstat, bits_setBits_other (by decide) (.inr (by decide)), bits_setBits_same (by decide)]
    rfl
  · rw [fld, hxstat, bits_setBits_other (by decide) (.inr (by decide)), bits_setBits_other (by decide) (.inl (by decide)), lowered,
      bits_setBits_other (by decide) (.inr (by decide))]
    rfl
  · rw [fld, hxstat]
    exact bits_setBits_same (by decide)
  · rw [bit, hxstat, bitAt_setBits_other (by decide) (.inl (by decide)), bitAt_setBits_other (by decide) (.inl (by decide))]
    exact bitAt_setBits_same (b := false)
  · simp [hok1, hxv.symm, hv]

theorem abortEnded_aborting (hs : s.Canonical) (hn : n < 256) : Aborting n s (s.abortEnded n) := by
  obtain ⟨-, hxv, -, -, -, -, hxf, hvf⟩ := lifeRegs_apart hn
  have hsl := sl_modSl_same (n := n) (f := Slice.unbound) (Canonical.slicesTidy hs)
  have hc : (s.modSl n Slice.unbound).Canonical := canonical_modSl hs
  unfold abortEnded
  dsimp only
  split
  next h7 =>
    have hx := rd_lifeBusy_false (n := n) (Canonical.regsOk hc)
    obtain ⟨hcanon, hlife, hcode, hres, hbusy, hevt, hregs, honly⟩ := aborting_of (s := s)
      (u := (s.modSl n Slice.unbound).lifeBusy n false) hn (canonical_setReg hc) hx (rd_lifeBusy_ne hxv.symm) (s.sl n).prevLife
    have hbut : RegsBut [XEC_SL_XSTAT n, XEC_SL_XEVT n] s ((s.modSl n Slice.unbound).lifeBusy n false) :=
      RegsBut.setReg (t := s.modSl n Slice.unbound) (.of_regs rfl) (by simp)
    exact ⟨hcanon, hlife, hcode, hres, hbusy, hevt, hsl, fun _ => ⟨RegsBut.trans hbut hregs, by rw [honly]; rfl⟩, fun h => absurd h7 h⟩
  next h7 =>
    have hok : State.RegsOk { s.modSl n Slice.unbound with xfer := none } := Canonical.regsOk hc
    have hok1 := regsOk_setBit (a := XEC_XFER_STAT) (i := 0) (v := false) hok
    have hx : ((s.modSl n Slice.unbound).xferEnd n).rd (XEC_SL_XSTAT n) = lowered (s.rd (XEC_SL_XSTAT n)) 12 := by
      rw [xferEnd, rd_lifeBusy_false hok1, rd_setBit_ne hxf]
      rfl
    have hv : ((s.modSl n Slice.unbound).xferEnd n).rd (XEC_SL_XEVT n) = s.rd (XEC_SL_XEVT n) := by
      rw [xferEnd, rd_lifeBusy_ne hxv.symm, rd_setBit_ne hvf]
      rfl
    have hce : ((s.modSl n Slice.unbound).xferEnd n).Canonical := (xferEnd_kept (.refl _)).canonical hc
    obtain ⟨hcanon, hlife, hcode, hres, hbusy, hevt, hregs, honly⟩ := aborting_of hn hce hx hv (s.sl n).prevLife
    have hbut : RegsBut [XEC_SL_XSTAT n, XEC_SL_XEVT n, XEC_XFER_STAT] s ((s.modSl n Slice.unbound).xferEnd n) :=
      RegsBut.setReg (RegsBut.setReg (t := { s.modSl n Slice.unbound with xfer := none }) (.of_regs rfl) (by simp)) (by simp)
    refine ⟨hcanon, hlife, hcode, hres, hbusy, hevt, hsl, fun h => absurd h h7, fun _ => ⟨?_,
      RegsBut.trans hbut (hregs.mono (by simp)), by rw [honly]; rfl⟩⟩
    rw [bit, hregs _ (by simp [hxf.symm, hvf.symm]), xferEnd, rd_lifeBusy_ne hxf.symm]
    exact bit_setBit_same hok (by decide)

/-- What the end of a move lets go on (R231, R235) changes run states, passes and pairs alone. -/
theorem moveOn_effect (hs : s.Canonical) (hn : n < 256) (p : Nat) (go : Bool) :
    let t := s.moveOn n p go
    RegsBut slStats s t ∧ (t.sl n).moveTo = (s.sl n).moveTo ∧ t = { s with regs := t.regs, slices := t.slices, pairs := t.pairs } := by
  unfold moveOn
  dsimp only
  split
  · have hc : (s.passOver n).Canonical := (passOver_kept (.refl s)).canonical hs
    have hran := (s.passOver n).dispatch_ran p
    have hsub : [XEC_SL_STAT n] ⊆ slStats := by simpa using slStat_mem hn
    refine ⟨RegsBut.trans ((passOver_regs s n).mono hsub) hran.regs, ?_, by rw [hran.only, passOver_only]⟩
    exact (congrArg Slice.moveTo (hran.sl hc n)).trans (by rw [Slice.still, passOver_sl hs n])
  · exact ⟨.of_regs rfl, rfl, rfl⟩

end State
end Sys2Proof.Machine
end

section
/-!
PROOF. An armed resume and the forcing of a quiesce (R221, R224, R234, R235).
-/

namespace Sys2Proof.Machine

open Sys2Proof.Claims

namespace State

variable {s : State} {n : Nat}

/-! ### The release of an armed slice (R224, R234) -/

/-- Slice `n` runs again and waits for its first release. -/
structure Rearmed (n : Nat) (s t : State) : Prop where
  only  : t = { s with regs := t.regs, slices := t.slices, pairs := t.pairs }
  canon : t.Canonical
  regs  : RegsBut ([XEC_SL_XSTAT n, XEC_SL_XEVT n] ++ slStats) s t
  life  : t.life n = 1
  event : t.bit (XEC_SL_XEVT n) 1 = true
  sl    : (t.sl n).still = (Slice.again (s.sl n)).still

/-- The registers of a slice's life are no slice's run state. -/
theorem lifeRegs_not_slStat (n : Nat) :
    XEC_SL_XSTAT n ∉ slStats ∧ XEC_SL_XEVT n ∉ slStats ∧ XEC_SL_SEQ n ∉ slStats ∧ XEC_SL_CFG n ∉ slStats ∧
    XEC_XFER_STAT ∉ slStats := by
  refine ⟨not_slStat fun m _ => ?_, not_slStat fun m _ => ?_, not_slStat fun m _ => ?_, not_slStat fun m _ => ?_, not_slStat fun m _ => ?_⟩
  · unfold XEC_SL_XSTAT XEC_SL_STAT; omega
  · unfold XEC_SL_XEVT XEC_SL_STAT; omega
  · unfold XEC_SL_SEQ XEC_SL_STAT; omega
  · unfold XEC_SL_CFG XEC_SL_STAT; omega
  · unfold XEC_XFER_STAT XEC_SL_STAT; omega

theorem resume_rearmed (hs : s.Canonical) (hn : n < 256) : Rearmed n s (s.resume n) := by
  obtain ⟨hxs, hxe, -⟩ := lifeRegs_not_slStat n
  obtain ⟨hx, -, hv, hregs, hcanon, honly⟩ := runsAgain_effect hs hn
  have hsl : (s.runsAgain n).sl n = Slice.again (s.sl n) := by
    rw [sl, honly]
    exact FMap.at'_put_same (Canonical.slicesTidy hs)
  have hran := (s.runsAgain n).dispatch_ran (s.slPair n)
  rw [resume_eq]
  generalize s.runsAgain n = u at *
  generalize u.dispatch (s.slPair n) = t at hran
  refine ⟨by rw [hran.only, honly], hran.canon hcanon, ?_, ?_, ?_, by rw [hran.sl hcanon, hsl]⟩
  · refine RegsBut.trans (hregs.mono ?_) (hran.regs.mono (List.subset_append_right _ _))
    intro a ha
    simp only [List.mem_cons, List.not_mem_nil, or_false] at ha
    rcases ha with rfl | rfl | rfl
    · simp
    · exact List.mem_append_right _ (slStat_mem hn)
    · simp
  · rw [life, fld, hran.regs _ hxs, hx, lowered, bits_setBits_other (by decide) (.inr (by decide))]
    exact bits_setBits_same (by decide)
  · rw [bit, hran.regs _ hxe, hv]
    exact bitAt_setBits_same (b := true)

/-- The event of a resume that comes late, or not. -/
theorem Rearmed.when_late {t : State} (h : Rearmed n s t) (hn : n < 256) (c : Bool) : Rearmed n s (t.when c (lifeEvt n 7)) := by
  obtain ⟨-, hxv, -⟩ := lifeRegs_apart hn
  unfold when
  split
  · refine ⟨by rw [h.only]; rfl, canonical_setReg h.canon, h.regs.setReg (by simp), ?_, ?_, h.sl⟩
    · rw [State.life, fld, rd_lifeEvt_ne hxv]
      exact h.life
    · rw [bit, rd_lifeEvt_same (Canonical.regsOk h.canon) (by decide)]
      exact bitAt_raised h.event
  · exact h

/-- A register of the slice but those of its life and its run state reads as before. -/
theorem Rearmed.rd {t : State} (h : Rearmed n s t) {a : Nat} (hlow : a < 0x6000730000) (ha : a ∉ slStats) : t.rd a = s.rd a :=
  h.regs a fun hm => by
    simp only [List.mem_append, List.mem_cons, List.not_mem_nil, or_false] at hm
    rcases hm with (rfl | rfl) | hm
    · unfold XEC_SL_XSTAT at hlow; omega
    · unfold XEC_SL_XEVT at hlow; omega
    · exact ha hm

/-- R234: the number of the first pass turns on nothing that a resume changes. -/
theorem Rearmed.resumeSeq {t : State} (h : Rearmed n s t) (hn : n < 256) (gp : Nat) : t.resumeSeq n gp = s.resumeSeq n gp := by
  obtain ⟨-, -, hseq, hcfg, -⟩ := lifeRegs_not_slStat n
  have himg : (t.sl n).still.curImg = (s.sl n).curImg := (congrArg Slice.curImg h.sl).trans rfl
  have himg' : (t.sl n).curImg = (s.sl n).curImg := himg
  have hclass : t.slClass n = s.slClass n := by
    rw [slClass, slClass, fld, fld, h.rd (by unfold XEC_SL_CFG; omega) hcfg]
  rw [State.resumeSeq, State.resumeSeq, himg', hclass, h.rd (by unfold XEC_SL_SEQ; omega) hseq]

/-- The number of the slice's first pass put, as R234 gives it. -/
def numberPut (n gp : Nat) (s : State) : State :=
  (s.setReg (XEC_SL_SEQ n) (s.resumeSeq n gp)).modSl n (fun sl => { sl with fresh := false })

/-- A slice with this pass, which waits for its pair. -/
def passReady (n : Nat) (ps : Pass) (s : State) : State :=
  ((s.modSl n (fun sl => { sl with pass := some ps })).setRun n 1).showRelease n ps

theorem takeIn_idle {ps : Pass} (hpass : (s.sl n).pass = none) (hlife : s.life n ≠ 4) :
    ∃ p, s.takeIn n ps = (s.passReady n ps).dispatch p :=
  ⟨_, if_neg (by simp [hpass, hlife])⟩

theorem resumeSeq_lt (n gp : Nat) : s.resumeSeq n gp < 2 ^ 32 := by
  unfold resumeSeq
  dsimp only
  split
  · exact Nat.mod_lt _ (by decide)
  · exact s.rd_lt _

/-- What an armed slice's release leaves of `s` (R224, R234). -/
structure FirstRelease (n : Nat) (ps : Pass) (s t : State) : Prop where
  only  : t = { s with regs := t.regs, slices := t.slices, pairs := t.pairs }
  regs  : RegsBut ([XEC_SL_XSTAT n, XEC_SL_XEVT n, XEC_SL_SEQ n] ++ slStats) s t
  life  : t.life n = 1
  event : t.bit (XEC_SL_XEVT n) 1 = true
  seq   : t.rd (XEC_SL_SEQ n) = s.resumeSeq n ps.gp
  armed : (t.sl n).armRel = none
  pass  : ∃ ps', (t.sl n).pass = some ps' ∧ ps'.gp = ps.gp ∧ ps'.seq = s.resumeSeq n ps.gp

/-- The release of a slice that runs again. -/
theorem Rearmed.released {t : State} (h : Rearmed n s t) (hn : n < 256) (hpass : (s.sl n).pass = none) (ps : Pass) :
    FirstRelease n ps s ((t.resumed n ps.gp).takeIn n { ps with seq := (t.resumed n ps.gp).rd (XEC_SL_SEQ n) }) := by
  obtain ⟨hxs, hxe, hse, -⟩ := lifeRegs_not_slStat n
  have hxq : XEC_SL_XSTAT n ≠ XEC_SL_SEQ n ∧ XEC_SL_XEVT n ≠ XEC_SL_SEQ n := by
    unfold XEC_SL_XSTAT XEC_SL_XEVT XEC_SL_SEQ; omega
  have hfresh : (t.sl n).fresh = true := congrArg Slice.fresh h.sl
  have hresumed : t.resumed n ps.gp = t.numberPut n ps.gp := if_pos hfresh
  have hseq : (t.numberPut n ps.gp).rd (XEC_SL_SEQ n) = s.resumeSeq n ps.gp := by
    rw [numberPut, rd_modSl, rd_setReg_same (Canonical.regsOk h.canon), h.resumeSeq hn, Nat.mod_eq_of_lt (resumeSeq_lt n ps.gp)]
  have hnone : (t.sl n).pass = none := by
    have hmap : (t.sl n).pass.map Pass.still = (s.sl n).pass.map Pass.still := congrArg Slice.pass h.sl
    rw [hpass] at hmap
    simpa using hmap
  rw [hresumed, hseq]
  have hsl : (t.numberPut n ps.gp).sl n = { t.sl n with fresh := false } :=
    sl_modSl_same (Canonical.slicesTidy (canonical_setReg h.canon))
  have hc : (t.numberPut n ps.gp).Canonical := canonical_modSl (canonical_setReg h.canon)
  have honly : t.numberPut n ps.gp = { t with regs := (t.numberPut n ps.gp).regs, slices := (t.numberPut n ps.gp).slices } := rfl
  have hrd : ∀ a, a ≠ XEC_SL_SEQ n → (t.numberPut n ps.gp).rd a = t.rd a := fun a ha => rd_setReg_ne ha
  generalize t.numberPut n ps.gp = u at hseq hsl hc honly hrd
  have hlife : u.life n = 1 := by
    rw [State.life, fld, hrd _ hxq.1]
    exact h.life
  obtain ⟨p, htake⟩ := takeIn_idle (s := u) (ps := { ps with seq := s.resumeSeq n ps.gp }) (by rw [hsl]; exact hnone) (by omega)
  rw [htake]
  have hvsl := sl_modSl_same (n := n) (f := fun sl => { sl with pass := some { ps with seq := s.resumeSeq n ps.gp } }) (Canonical.slicesTidy hc)
  have hvregs : RegsBut slStats u (u.passReady n { ps with seq := s.resumeSeq n ps.gp }) := by
    have hstat := slStat_mem hn
    have h0 : RegsBut slStats u (u.modSl n fun sl => { sl with pass := some { ps with seq := s.resumeSeq n ps.gp } }) := .of_regs rfl
    exact ((h0.setReg hstat).setReg hstat).setReg hstat
  have hvc : (u.passReady n { ps with seq := s.resumeSeq n ps.gp }).Canonical :=
    canonical_setReg (canonical_setReg (canonical_setReg (canonical_modSl hc)))
  have hvonly : u.passReady n { ps with seq := s.resumeSeq n ps.gp } = { u with
    regs := (u.passReady n { ps with seq := s.resumeSeq n ps.gp }).regs
    slices := (u.passReady n { ps with seq := s.resumeSeq n ps.gp }).slices } := rfl
  have hvsl' : (u.passReady n { ps with seq := s.resumeSeq n ps.gp }).sl n =
    { u.sl n with pass := some { ps with seq := s.resumeSeq n ps.gp } } := hvsl
  generalize u.passReady n { ps with seq := s.resumeSeq n ps.gp } = v at hvregs hvc hvonly hvsl'
  have hran := v.dispatch_ran p
  have hstill := hran.sl hvc n
  generalize v.dispatch p = w at hran hstill
  have hwrd : ∀ a, a ∉ slStats → w.rd a = u.rd a := fun a ha => (hran.regs a ha).trans (hvregs a ha)
  refine ⟨by rw [hran.only, hvonly, honly, h.only], fun a ha => ?_, ?_, ?_, (hwrd _ hse).trans hseq, ?_, ?_⟩
  · simp only [List.mem_append, List.mem_cons, List.not_mem_nil, or_false, not_or] at ha
    rw [hwrd a ha.2, hrd a ha.1.2.2, h.regs a (by simp [ha])]
  · rw [State.life, fld, hwrd _ hxs]
    exact hlife
  · rw [bit, hwrd _ hxe, hrd _ hxq.2]
    exact h.event
  · have harm : (t.sl n).armRel = none := congrArg Slice.armRel h.sl
    exact (congrArg Slice.armRel hstill).trans (by rw [hvsl', hsl]; exact harm)
  · have hmap : (w.sl n).pass.map Pass.still = some (Pass.still { ps with seq := s.resumeSeq n ps.gp }) :=
      (congrArg Slice.pass hstill).trans (by rw [hvsl']; rfl)
    obtain ⟨ps', hps', heq⟩ := Option.map_eq_some_iff.mp hmap
    have hgp := congrArg Pass.gp heq
    have hnumber := congrArg Pass.seq heq
    exact ⟨ps', hps', hgp, hnumber⟩

theorem armedResume_released (hs : s.Canonical) (hn : n < 256) {ps : Pass} (harm : (s.sl n).armRel = some ps) (hlife : s.life n = 7)
    (hpass : (s.sl n).pass = none) : FirstRelease n ps s (s.armedResume n) := by
  rw [armedResume, harm]
  dsimp only
  rw [if_neg (not_not_intro hlife)]
  exact ((resume_rearmed hs hn).when_late hn _).released hn hpass ps

theorem armedResume_idle (h : s.life n ≠ 7 ∨ (s.sl n).armRel = none) : s.armedResume n = s := by
  unfold armedResume
  split
  next => rfl
  next ps harm =>
    rw [if_pos]
    rcases h with h | h
    · exact h
    · rw [h] at harm
      cases harm

/-! ### A quiesce that is forced (R221) -/

theorem dma_quiet (a : Nat) (l : List Byte) : (s.dma a l).pubQ = s.pubQ ∧ (s.dma a l).free = s.free := by
  rw [dma, show (s.wrote a l.length).wrBytes a l = _ from OnlyMem.wrBytes, (wrote_noted s a l.length).1]
  exact ⟨rfl, rfl⟩

theorem keyAbort_quiet (m : Nat) : (s.keyAbort m).pubQ = s.pubQ ∧ (s.keyAbort m).free = s.free := by
  unfold keyAbort
  split
  next o _ => exact dma_quiet _ _
  next => exact ⟨rfl, rfl⟩

/-- A request that slice `n` has not made. -/
def notOf (n : Nat) (r : PubReq) : Bool :=
  match r.owner with
  | some (k, _) => k != n
  | none => true

theorem withdraw_quiet (n : Nat) : (s.withdraw n).pubQ = s.pubQ.filter (notOf n) ∧ (s.withdraw n).free = s.free := by
  refine each_invariant (P := fun t => t.pubQ = s.pubQ.filter (notOf n) ∧ t.free = s.free) ⟨rfl, rfl⟩ ?_
  rintro m - t ⟨hq, hf⟩
  split
  next =>
    split
    · obtain ⟨hq', hf'⟩ := keyAbort_quiet (s := t) m
      exact ⟨hq'.trans hq, hf'.trans hf⟩
    · exact ⟨hq, hf⟩
  next => exact ⟨hq, hf⟩

theorem sliceFault_free (n : Nat) : (s.sliceFault n).free = s.free := by
  unfold sliceFault
  dsimp only
  rw [(healthUpdate_step _).only, ledger, stageRec_only]
  change (s.stopSlice n).free = s.free
  rw [stopSlice, offPair_only]
  rfl

/-- The slice off its pair: its pass aborted, or its background run ended. -/
def forcedOff (n : Nat) (s : State) : State :=
  match (s.sl n).pass with
  | some _ => (s.drew.drew).abortPass n 5 (Config.freeValue s.free % 2 ^ 32) (Config.freeValue (s.free + 1) % 2 ^ 64)
  | none => if (s.pr (s.slPair n)).running = n + 1 then (s.offPair n).loadImage n |>.dispatch (s.slPair n) else s

/-- The slice forced out of all it was doing. -/
def forcedOut (n : Nat) (s : State) : State :=
  (((s.forcedOff n).when ((s.forcedOff n).faultDue n) (sliceFault n)).withdraw n).modSl n (fun sl => { sl with capture := none })

theorem quiesceForce_due {x : Nat} (hat : (s.sl n).quiesceAt = some x) (hlife : s.life n = 2) (hdue : x + s.qTmo n ≤ s.clk) :
    s.quiesceForce n = ((s.forcedOut n).quiesced n).lifeEvt n 2 := by
  rw [quiesceForce, hat]
  dsimp only
  rw [if_pos ⟨hlife, hdue⟩]
  rfl

theorem quiesceForce_idle (h : s.life n ≠ 2) : s.quiesceForce n = s := by
  unfold quiesceForce
  split
  next => rfl
  next => exact if_neg fun hc => h hc.1

theorem forcedOff_free (h : (s.sl n).pass = none) : (s.forcedOff n).free = s.free := by
  unfold forcedOff
  rw [h]
  dsimp only
  split
  · rw [(dispatch_ran _ _).only, (loadImage_loaded _ n).only, offPair_only]
  · rfl

theorem forcedOff_kept (n : Nat) : Kept s (s.forcedOff n) := by
  unfold forcedOff
  split
  next => exact abortPass_kept (drew_kept (drew_kept (.refl s)))
  next =>
    split
    · exact dispatch_kept (loadImage_kept (offPair_kept (.refl s)))
    · exact .refl s

theorem forcedOut_effect (hs : s.Canonical) (n : Nat) :
    (s.forcedOut n).Canonical ∧ ((s.forcedOut n).sl n).capture = none ∧ (∀ r ∈ (s.forcedOut n).pubQ, notOf n r = true) ∧
    ((s.sl n).pass = none → (s.forcedOut n).free = s.free) := by
  have hc : (s.forcedOff n).Canonical := (forcedOff_kept n).canonical hs
  have hfree : (s.sl n).pass = none → (s.forcedOff n).free = s.free := forcedOff_free
  unfold forcedOut
  generalize s.forcedOff n = u at hc hfree
  have hv : (u.when (u.faultDue n) (sliceFault n)).Canonical ∧ (u.when (u.faultDue n) (sliceFault n)).free = u.free := by
    unfold when
    split
    · exact ⟨(sliceFault_kept (.refl u)).canonical hc, sliceFault_free n⟩
    · exact ⟨hc, rfl⟩
  generalize u.when (u.faultDue n) (sliceFault n) = v at hv
  have hw := (withdraw_kept (n := n) (.refl v)).canonical hv.1
  obtain ⟨hq, hf⟩ := withdraw_quiet (s := v) n
  generalize v.withdraw n = w at hw hq hf
  have hsl := sl_modSl_same (n := n) (f := fun sl => { sl with capture := none }) (Canonical.slicesTidy hw)
  refine ⟨canonical_modSl hw, congrArg Slice.capture hsl, fun r hr => ?_, fun h => hf.trans (hv.2.trans (hfree h))⟩
  have hr' : r ∈ w.pubQ := hr
  rw [hq] at hr'
  exact (List.mem_filter.mp hr').2

/-- What a forced quiesce leaves (R221). -/
theorem quiesceForce_effect (hs : s.Canonical) (hn : n < 256) {x : Nat} (hat : (s.sl n).quiesceAt = some x) (hlife : s.life n = 2)
    (hdue : x + s.qTmo n ≤ s.clk) :
    let t := s.quiesceForce n
    t.life n = 3 ∧ t.run n = 7 ∧ t.bit (XEC_SL_XSTAT n) 12 = false ∧ t.bit (XEC_SL_XEVT n) 0 = true ∧ t.bit (XEC_SL_XEVT n) 2 = true ∧
    (t.sl n).pass = none ∧ (t.sl n).capture = none ∧ (∀ r ∈ t.pubQ, notOf n r = true) ∧ ((s.sl n).pass = none → t.free = s.free) := by
  obtain ⟨-, hxv, hsv, -⟩ := lifeRegs_apart hn
  obtain ⟨hc, hcapture, hpub, hfree⟩ := forcedOut_effect hs n
  dsimp only
  rw [quiesceForce_due hat hlife hdue]
  generalize s.forcedOut n = u at hc hcapture hpub hfree
  obtain ⟨hx, hrun, hv, hsl, hqc, -, honly⟩ := quiesced_effect hc hn
  generalize u.quiesced n = q at hx hrun hv hsl hqc honly
  have hok := Canonical.regsOk hqc
  have hevt : (q.lifeEvt n 2).rd (XEC_SL_XEVT n) = raised (raised (u.rd (XEC_SL_XEVT n)) 0) 2 := by
    rw [rd_lifeEvt_same hok (by decide), hv]
  refine ⟨?_, ?_, ?_, ?_, ?_, ?_, ?_, ?_, fun h => ?_⟩
  · rw [life, fld, rd_lifeEvt_ne hxv, hx, lowered, bits_setBits_other (by decide) (.inr (by decide))]
    exact bits_setBits_same (by decide)
  · rw [run, fld, rd_lifeEvt_ne hsv]
    exact hrun
  · rw [bit, rd_lifeEvt_ne hxv, hx]
    exact bitAt_setBits_same (b := false)
  · rw [bit, hevt]
    exact bitAt_raised (bitAt_setBits_same (b := true))
  · rw [bit, hevt]
    exact bitAt_setBits_same (b := true)
  · exact congrArg Slice.pass hsl
  · exact (congrArg Slice.capture hsl).trans hcapture
  · have hq : (q.lifeEvt n 2).pubQ = u.pubQ := by rw [honly]; rfl
    rw [hq]
    exact hpub
  · have hq : (q.lifeEvt n 2).free = u.free := by rw [honly]; rfl
    exact hq.trans (hfree h)

end State
end Sys2Proof.Machine
end

section
/-!
PROOF. The statement about the life commands of a slice (R210, R219–R225, R230).
-/

namespace Sys2Proof.Machine

open Sys2Proof.Claims

section

variable {w : Who} {n : Fin 256} {s : State}

/-- R210: what a write of the binding leaves, of which `v` without its fixed bits is put. -/
theorem sliceBind_effect (hs : s.Canonical) (v : Word) (hen : s.slEn n = false) (hpid : n.val ≠ 0 → bits v.toNat 31 16 ≠ 0) :
    ((s.ok w).sliceBind n v.toNat).rd (XEC_SL_BIND n) = v.toNat - bits v.toNat 15 4 * 2 ^ 4 ∧
    Wrote [XEC_SL_BIND n] s ((s.ok w).sliceBind n v.toNat) := by
  have hkept : bits (v.toNat - bits v.toNat 15 4 * 2 ^ 4) 31 16 = bits v.toNat 31 16 := by
    have := v.isLt
    unfold bits
    omega
  have hput : (s.ok w).sliceBind n v.toNat = (s.ok w).setReg (XEC_SL_BIND n) (v.toNat - bits v.toNat 15 4 * 2 ^ 4) := by
    refine if_neg ?_
    rw [hkept]
    rintro (h | ⟨hn, h⟩)
    · exact Bool.false_ne_true (hen.symm.trans h)
    · exact hpid hn h
  rw [hput]
  refine ⟨?_, RegsBut.setReg (.of_regs rfl) (by simp), rfl⟩
  rw [State.rd_setReg_same (regsOk_ok hs), Nat.mod_eq_of_lt (lt_of_le_of_lt (Nat.sub_le _ _) v.isLt)]

/-- R230: QUIESCE, RESUME and RESET are refused with result 1 where the slice's state does not admit them, and with result 2
while the transfer unit is busy. -/
theorem lifeCommand_refused (hs : s.Canonical) (hsup : Sup w 7 s) {i : Instr} {cmd : Nat} {ok : State → Bool} {f : State → State}
    (hexec : exec i s = .next (s.lifeCmd w n cmd (fun u => u.lifeRefusal (ok u)) f)) {admits : Bool}
    (hok : ok (s.lifeCoded w n cmd) = admits) :
    (admits = false → Answers i s fun t =>
      t.rd (XEC_SL_XSTAT n) = setBits (setBits (s.rd (XEC_SL_XSTAT n)) 7 4 cmd) 11 8 1 ∧ Wrote [XEC_SL_XSTAT n] s t) ∧
    (admits = true → true = true → s.xfer ≠ none → Answers i s fun t =>
      t.rd (XEC_SL_XSTAT n) = setBits (setBits (s.rd (XEC_SL_XSTAT n)) 7 4 cmd) 11 8 2 ∧ Wrote [XEC_SL_XSTAT n] s t) := by
  subst hok
  refine ⟨fun h => .of_exec hexec rfl (State.lifeCmd_refused_shown hs hsup n.isLt ?_ (by decide)),
    fun h _ hx => .of_exec hexec rfl (State.lifeCmd_refused_shown hs hsup n.isLt ?_ (by decide))⟩
  · exact (State.lifeRefusal_coded w n cmd _).trans (if_pos h)
  · refine (State.lifeRefusal_coded w n cmd _).trans ?_
    rw [if_neg (by simp [h]), if_neg hx]

/-- What a life command that is accepted answers: its effect on the state in which it is shown with result 0. -/
theorem lifeCommand_accepted (hs : s.Canonical) (hsup : Sup w 7 s) {i : Instr} {cmd : Nat} {refusal : State → Nat} {f : State → State}
    {P : State → Prop} (hexec : exec i s = .next (s.lifeCmd w n cmd refusal f)) (hr : refusal (s.lifeCoded w n cmd) = 0)
    (hP : ∀ v, State.LifeShown n cmd 0 s v → P (f v)) : Answers i s P :=
  .of_exec hexec (State.lifeCmd_accepted hsup n.isLt hr) (hP _ (State.lifeShown hs w n cmd 0))

/-- RESUME and RESET are accepted in a slice that is QUIESCED while no transfer is on. -/
theorem lifeRefusal_quiesced (hs : s.Canonical) (hlife : s.life n = 3) (hxfer : s.xfer = none) (cmd : Nat) :
    (s.lifeCoded w n cmd).lifeRefusal ((s.lifeCoded w n cmd).life n == 3) = 0 := by
  simp [State.lifeRefusal_coded, State.life_lifeCoded hs, hlife, hxfer]

/-- ABORT is shown and slice `n` back in its previous state (R230, R235). -/
structure AbortShown (n : Nat) (s t : State) : Prop where
  canon : t.Canonical
  life  : t.life n = (s.sl n).prevLife % 8
  code  : t.fld (XEC_SL_XSTAT n) 7 4 = 7
  res   : t.fld (XEC_SL_XSTAT n) 11 8 = 8
  busy  : t.bit (XEC_SL_XSTAT n) 12 = false
  event : t.rd (XEC_SL_XEVT n) = raised (s.rd (XEC_SL_XEVT n)) 6
  sl    : t.sl n = State.Slice.unbound (s.sl n)
  armed : s.life n = 7 → RegsBut [XEC_SL_XSTAT n, XEC_SL_XEVT n] s t ∧
    t = { s with regs := t.regs, reply := t.reply, slices := t.slices }
  xfer  : s.life n ≠ 7 → t.bit XEC_XFER_STAT 0 = false ∧ RegsBut [XEC_SL_XSTAT n, XEC_SL_XEVT n, XEC_XFER_STAT] s t ∧
    t = { s with regs := t.regs, reply := t.reply, xfer := none, slices := t.slices }

/-- The end of an abort in the state in which it is shown. -/
theorem abortShown {v : State} (hv : State.LifeShown n 7 0 s v) : AbortShown n s (v.abortEnded n) := by
  have h := State.abortEnded_aborting hv.canon n.isLt
  obtain ⟨-, hxv, -⟩ := State.lifeRegs_apart n.isLt
  have hregs : RegsBut [XEC_SL_XSTAT n, XEC_SL_XEVT n] s v := hv.regs.mono (by simp)
  refine ⟨h.canon, by rw [h.life, hv.sl], ?_, h.res, h.busy, by rw [h.event, hv.rd hxv.symm], by rw [h.sl, hv.sl], fun h7 => ?_,
    fun h7 => ?_⟩
  · rw [h.code, State.fld, hv.xstat, bits_setBits_other (by decide) (.inr (by decide))]
    exact bits_setBits_same (by decide)
  · obtain ⟨hbut, honly⟩ := h.armed (hv.life.trans h7)
    exact ⟨RegsBut.trans hregs hbut, by rw [honly, hv.only]⟩
  · obtain ⟨hfree, hbut, honly⟩ := h.xfer (by rwa [hv.life])
    exact ⟨hfree, RegsBut.trans (hregs.mono (by simp)) hbut, by rw [honly, hv.only]⟩

/-- R230: ABORT in one of the states that admit it. What it lets go on of a move turns on the last flag. -/
theorem sliceAbort_accepted (hs : s.Canonical) (hsup : Sup w 7 s) (hlife : 4 ≤ s.life n) {P : State → Prop}
    (hP : ∀ t, AbortShown n s t → P (t.moveOn n (t.slPair n) (s.life n == 4 && ((s.sl n).prevLife == 1 || (t.sl n).held.isSome)))) :
    Answers (.sliceAbort w n) s P := by
  have hr : (if 4 ≤ (s.lifeCoded w n 7).life n then 0 else 1) = 0 := if_pos (by rwa [State.life_lifeCoded hs])
  refine lifeCommand_accepted hs hsup rfl hr fun v hv => ?_
  rw [State.xferAbort_eq, hv.life, hv.sl]
  exact hP _ (abortShown hv)

/-- No move goes on where none was being made. -/
theorem sliceAbort_still (hs : s.Canonical) (hsup : Sup w 7 s) (hlife : 4 < s.life n) {P : State → Prop}
    (hP : ∀ t, AbortShown n s t → P t) : Answers (.sliceAbort w n) s P := by
  refine sliceAbort_accepted hs hsup hlife.le fun t ht => ?_
  have h4 : (s.life n == 4) = false := beq_false_of_ne hlife.ne'
  rw [h4]
  exact hP t ht

end

/-- Settles O25: each command by what it does in the state in which it is shown (`LifeShown`), the forced quiesce by
`quiesceForce_effect`, the armed slice by `armedResume_released`. -/
theorem sliceLife : Obligations.SliceLife := by
  intro w n s hs
  dsimp only
  have hn := n.isLt
  have hcoded : ∀ cmd, (s.lifeCoded w n cmd).life n = s.life n := State.life_lifeCoded hs w n
  refine ⟨fun v hsup hen hpid => ?_, fun v hsup hen => ?_, fun hsup h0 hlife hxfer hlock hwait => ?_, fun a y hy hsup => ?_,
    fun hlife hpass hcap hrun hout => ?_, fun x hat hlife hdue => ?_, fun hsup hlife hxfer => ?_, fun hsup hlife hxfer hclosed => ?_,
    fun ps harm hlife hpass => ?_, fun hsup hlife hxfer => ?_, fun hsup hlife => ?_, fun hsup hlife => ?_, fun hsup hlife => ?_,
    fun hlife => ⟨?_, ?_⟩, fun h => ?_, fun h => ?_⟩
  -- The binding.
  · exact .of_exec rfl (State.gateSup_of_sup hsup (State.blkOf_slice hn).1) (sliceBind_effect hs v hen hpid)
  · refine .of_exec rfl ((State.gateSup_of_sup hsup (State.blkOf_slice hn).1).trans (if_pos (.inl hen))) ⟨?_, ?_, rfl⟩
    · exact State.rd_lifeEvt_same (s := s.ok w) (regsOk_ok hs) (by decide)
    · exact RegsBut.setReg (.of_regs rfl) (by simp)
  -- QUIESCE.
  · have hr : (s.lifeCoded w n 1).lifeRefusal (n.val != 0 && (s.lifeCoded w n 1).life n == 1) = 0 := by
      simp [State.lifeRefusal_coded, hcoded, hlife, hxfer, h0]
    refine lifeCommand_accepted hs hsup rfl hr fun v hv => ?_
    obtain ⟨hx, hsl, hregs, honly⟩ := State.quiesce_effect (n := n) hv.canon
      (by rw [hv.locked]; exact hlock) (by rw [hv.stagedOf]; exact hwait)
    generalize v.quiesce n = t at hx hsl hregs honly
    rw [hv.sl] at hsl
    refine ⟨by rw [hx, hv.xstat], by rw [hsl]; rfl, by rw [hsl, hv.only]; rfl, fun ps hps => ?_,
      RegsBut.trans hv.regs hregs, by rw [honly, hv.only]⟩
    rw [hsl, State.Slice.draining, hps]
  -- The commands that are refused.
  · simp only [List.mem_cons, List.not_mem_nil, or_false] at hy
    rcases hy with rfl | rfl | rfl | rfl
    · exact lifeCommand_refused hs hsup rfl (congrArg (fun l => n.val != 0 && l == 1) (hcoded 1))
    · exact lifeCommand_refused hs hsup rfl (congrArg (· == 3) (hcoded 2))
    · exact lifeCommand_refused hs hsup rfl (congrArg (· == 3) (hcoded 6))
    · refine ⟨fun h => ?_, fun _ h => absurd h Bool.false_ne_true⟩
      have hr : (if 4 ≤ (s.lifeCoded w n 7).life n then 0 else 1) = 1 := by
        rw [hcoded]
        exact if_neg (of_decide_eq_false h)
      exact .of_exec rfl rfl (State.lifeCmd_refused_shown hs hsup hn hr (by decide))
  -- The quiesce is complete.
  · refine .of_exec rfl (if_pos ⟨hlife, hpass, hcap, hrun, hout⟩) ?_
    obtain ⟨hx, hstat, hevt, hsl, -, hregs, honly⟩ := State.quiesced_effect hs hn
    exact ⟨hx, hstat, hevt, by rw [hsl]; rfl, hregs, honly⟩
  -- The quiesce is forced.
  · obtain ⟨h3, h7, hbusy, hdone, hforced, hpass, hcap, hpub, hfree⟩ := State.quiesceForce_effect hs hn hat hlife hdue
    refine .of_exec rfl rfl ⟨h3, h7, hbusy, hdone, hforced, hpass, hcap, fun r hr o ho => ?_, hfree⟩
    have hnot := hpub r hr
    rw [State.notOf, ho] at hnot
    simpa using hnot
  -- RESUME.
  · refine lifeCommand_accepted hs hsup rfl (lifeRefusal_quiesced hs hlife hxfer 2) fun v hv => ?_
    obtain ⟨hx, hstat, hevt, hregs, -, honly⟩ := State.runsAgain_effect hv.canon hn
    obtain ⟨hsx, hvx, -⟩ := State.lifeRegs_apart hn
    have hq : v.slPair n = s.slPair n := congrArg (bits · 22 19) hv.cfg
    refine ⟨v.runsAgain n, ?_, ?_, ?_, ?_, ?_, ?_⟩
    · exact (State.resume_eq n).trans (by rw [hq])
    · rw [hx, hv.xstat]
    · rw [hstat, hv.rd hsx.symm]
    · rw [hevt, hv.rd hvx.symm]
    · exact RegsBut.trans (hv.regs.mono (by simp)) hregs
    · rw [honly, hv.sl, hv.only]
      rfl
  -- RESUME with `at`.
  · refine lifeCommand_accepted hs hsup rfl (lifeRefusal_quiesced hs hlife hxfer 2) fun v hv => ?_
    have hopen : v.closedGp.at' (v.slRef n) = 0 := by
      have href : v.slRef n = s.slRef n := congrArg (bits · 30 27) hv.cfg
      rw [href, hv.only]
      exact hclosed
    obtain ⟨hx, hregs, honly⟩ := State.resumeCmd_armed_effect hv.canon hn hopen
    refine ⟨by rw [hx, hv.xstat], RegsBut.trans (hv.regs.mono (by simp)) hregs, ?_⟩
    rw [honly, hv.sl, hv.only]
    rfl
  -- The armed slice's release.
  · obtain ⟨honly, hregs, hrun, hevt, hseq, hnone, hfirst⟩ := State.armedResume_released hs hn harm hlife hpass
    exact .of_exec rfl rfl ⟨hrun, hevt, hseq, hnone, hfirst, hregs, honly⟩
  -- RESET.
  · refine lifeCommand_accepted hs hsup rfl (lifeRefusal_quiesced hs hlife hxfer 6) fun v hv => ?_
    obtain ⟨hx, hvalid, hever, hregs, honly⟩ := State.sliceReset_effect (n := n) hv.canon
    exact ⟨by rw [hx, hv.xstat], hvalid, hever, RegsBut.trans hv.regs hregs, by rw [honly, hv.only]⟩
  -- ABORT of a save or a restore, of an armed resume, and of a move.
  · refine sliceAbort_still hs hsup (by omega) fun t ht => ?_
    obtain ⟨hfree, hregs, honly⟩ := ht.xfer (by omega)
    exact ⟨ht.life, ht.code, ht.res, ht.busy, ht.event, hfree, hregs, honly⟩
  · refine sliceAbort_still hs hsup (by omega) fun t ht => ?_
    obtain ⟨hregs, honly⟩ := ht.armed hlife
    exact ⟨ht.life, ht.res, ht.busy, ht.event, by rw [ht.sl]; rfl, hregs, honly⟩
  · refine sliceAbort_accepted hs hsup (by omega) fun t ht => ?_
    obtain ⟨hfree, hregs, honly⟩ := ht.xfer (by omega)
    obtain ⟨hbut, hmove, hon⟩ := State.moveOn_effect ht.canon hn (t.slPair n)
      (s.life n == 4 && ((s.sl n).prevLife == 1 || (t.sl n).held.isSome))
    obtain ⟨hxs, hvs, -, -, hfs⟩ := State.lifeRegs_not_slStat n
    generalize t.moveOn n _ _ = r at hbut hmove hon
    have hx : r.rd (XEC_SL_XSTAT n) = t.rd (XEC_SL_XSTAT n) := hbut _ hxs
    refine ⟨(congrArg (bits · 2 0) hx).trans ht.life, (congrArg (bits · 11 8) hx).trans ht.res, ?_, (hbut _ hvs).trans ht.event, ?_, ?_,
      RegsBut.trans (hregs.mono (List.subset_append_left _ _)) (hbut.mono (List.subset_append_right _ _)), by rw [hon, honly]⟩
    · exact (congrArg (bitAt · 12) hx).trans ht.busy
    · rw [hmove, ht.sl]
      rfl
    · exact (congrArg (bitAt · 0) (hbut _ hfs)).trans hfree
  -- Without the cause.
  · exact .of_exec rfl (if_neg fun hc => hlife hc.1) rfl
  · exact .of_exec rfl (State.quiesceForce_idle hlife) rfl
  · refine .of_exec rfl (if_neg ?_) rfl
    rintro ⟨-, hpass, hcap, hrun, hout⟩
    rcases h with h | h | h | h
    · exact h hpass
    · exact h hcap
    · exact hrun h
    · exact Bool.false_ne_true (hout.symm.trans h)
  · exact .of_exec rfl (State.armedResume_idle h) rfl

end Sys2Proof.Machine
end

section
/-!
PROOF. A statement of the GOOSE subscriptions that the model does not meet where an octet of the ready mark is uncorrectable:
the mark of the set published then says so (R43, R202, R248).
-/

namespace Sys2Proof.Machine

open Sys2Proof.Claims

/-- The elements of a goosePdu with stNum 1, sqNum 0 and one boolean member; the references are empty. -/
def firstStatePdu : List Byte :=
  [0x80, 0, 0x81, 1, 50, 0x82, 0, 0x84, 0, 0x85, 1, 1, 0x86, 1, 0, 0x88, 1, 0, 0x8A, 1, 1, 0xAB, 3, 0x83, 1, 0]

/-- The message of that goosePdu after its EtherType: APPID 0, the length, no simulation. -/
def firstStateMessage : List Byte := [0, 0, 0, 36, 0, 0, 0, 0, 0x61, 26] ++ firstStatePdu

def firstStateFrame : RxFrame :=
  { octets := List.replicate 12 0 ++ [0x88, 0xB8] ++ firstStateMessage
    ts32 := 0, port := 0, path := 0, bad := false, stepCnt := 0, auth := none }

/-- What the checks of the message make of it (R244). -/
def firstState : GooseMsg :=
  { st := 1, sq := 0, tSec := 0, tFrac := 0, tal := 50, test := false, lost := true, rxNs := 0, rxTick := 0
    vals := [(0x83, 1, 0, 0)] }

/-- Subscription 0 waits for that message; the double word of its ready mark is marked uncorrectable (R202). -/
def markPoisoned : State :=
  { (((State.reset.setReg PTS_CTL 2).setReg (PTS_SUB_CFG 0) (2 ^ 31)).setReg (PTS_SUB_STAT 0) 1).setReg (PTS_SUB_TYPES 0)
      (crc32 [0x83, 1]) with
    poison := [0x10200000 / 8] }

theorem markPoisoned_canonical : markPoisoned.Canonical := by
  dsimp only [State.Canonical, State.Tables]; decide +kernel

theorem markPoisoned_checks :
    readApdu (parseFrame firstStateFrame.octets).body = some { appid := 0, sim := false, apdu := firstStateMessage.drop 8 } ∧
    markPoisoned.gooseCheck 0 false (firstStateMessage.drop 8) = .good firstState := by decide +kernel

/-- Where the ready mark of subscription 0 stands (R248). -/
def firstMark : Nat := markPoisoned.base PTS_SUB_BASE_LO 22 + 0x200000 + 16 * (0 : Fin 1024).val

/-- The mark published has sequence 1, the fault bit and bank 1; without the fault bit it would be 9. -/
theorem markPoisoned_publishes_fault :
    (markPoisoned.gooseReceive 0 firstStateFrame).ld firstMark 4 = 8 + 2 + 1 ∧
    nextMark (markPoisoned.ld firstMark 4) false false (1 - markPoisoned.ld firstMark 4 % 2) % 2 ^ 32 = 8 + 1 := by decide +kernel

/-- Refutes O28 in the clause on a first frame: the ready mark is said to be `nextMark` without its fault bit whatever is marked
uncorrectable, and a mark whose old octets are uncorrectable is published with it (R43, R202). -/
theorem not_gooseFrames : ¬ Obligations.GooseFrames := by
  unfold Obligations.GooseFrames
  intro h
  obtain ⟨-, received⟩ := h 0 firstStateFrame markPoisoned markPoisoned_canonical
  obtain ⟨-, -, -, passed⟩ := received (by decide +kernel) (by decide +kernel)
  obtain ⟨hapdu, hcheck⟩ := markPoisoned_checks
  obtain ⟨first, -⟩ := passed _ [] firstState rfl (by decide +kernel) (by decide +kernel) (by decide +kernel) hapdu
    (by decide +kernel) (by decide) (by decide +kernel) (by decide +kernel) hcheck
  obtain ⟨t, ht, -, -, -, -, -, -, -, mark, -⟩ := first (.inl (by decide +kernel))
  have hstep : markPoisoned.gooseReceive 0 firstStateFrame = t := Host.Outcome.next.inj ht
  rw [← hstep] at mark
  obtain ⟨published, expected⟩ := markPoisoned_publishes_fault
  exact absurd (published.symm.trans (mark.trans expected)) (by decide)

end Sys2Proof.Machine
end

section
/-!
PROOF. Words that a master stores (R12, R232, R332), and the working state of subscriptions and publisher entries.
-/

namespace Sys2Proof.Machine

open Sys2Proof.Claims

/-- `t` is `s` after a master stored the words `l` from address `a` on: they stand there, nothing else of memory changed, and the
write is noted. -/
structure WordsStored (a : Nat) (l : List Nat) (s t : State) : Prop where
  canon   : t.Canonical
  only    : t = { s with mem := t.mem, poison := t.poison, slices := t.slices, red := t.red }
  noted   : Noted s t
  word    : ∀ i (hi : i < l.length), t.ld (a + 4 * i) 4 = l[i] % 2 ^ 32
  outside : ∀ x, x < a ∨ a + 4 * l.length ≤ x → t.rdByte x = s.rdByte x

theorem WordsStored.regs {a : Nat} {l : List Nat} {s t : State} (h : WordsStored a l s t) : t.regs = s.regs := by rw [h.only]

theorem noted_congr {s t u : State} (h : Noted s t) (hsl : u.slices = t.slices) (hred : u.red = t.red) : Noted s u := by
  obtain ⟨hdirty, hunit⟩ := h
  refine ⟨fun k => ?_, by rw [hred]; exact hunit⟩
  rw [State.sl, hsl]
  exact hdirty k

theorem noted_since {s t u : State} (h : Noted t u) (hsl : t.slices = s.slices) (hred : t.red = s.red) : Noted s u := by
  obtain ⟨hdirty, hunit⟩ := h
  refine ⟨fun k => ?_, by rw [← hred]; exact hunit⟩
  rw [show s.sl k = t.sl k from congrArg (FMap.at' · k) hsl.symm]
  exact hdirty k

namespace State

variable {s : State}

theorem dmaWords_stored (hs : s.Canonical) (a : Nat) (l : List Nat) : WordsStored a l s (s.dmaWords a l) := by
  obtain ⟨hwrote, hnoted⟩ := s.wrote_noted a (4 * l.length)
  have hc : (s.wrote a (4 * l.length)).Canonical := (wrote_kept (.refl s)).canonical hs
  have hbyte : ∀ x, (s.wrote a (4 * l.length)).rdByte x = s.rdByte x := fun x => by rw [hwrote]; rfl
  unfold dmaWords
  generalize s.wrote a (4 * l.length) = u at hwrote hnoted hc hbyte
  have honly := OnlyMem.stWords (s := u) (a := a) (l := l)
  exact {
    canon := (stWords_kept (.refl u)).canonical hc
    only := by rw [show u.stWords a l = _ from honly, hwrote]
    noted := noted_congr (hnoted hs) (by rw [show u.stWords a l = _ from honly]) (by rw [show u.stWords a l = _ from honly])
    word := fun i hi => ld_stWords (Canonical.memOk hc) hi
    outside := fun x hx => (rdByte_stWords_outside hx).trans (hbyte x) }

theorem Canonical.pubTidy (h : s.Canonical) : FMap.tidy s.pub = true := by
  obtain ⟨-, -, -, -, -, -, -, -, -, -, -, -, -, -, -, -, -, -, -, pub, -⟩ := h.tables
  exact pub

theorem Canonical.subsTidy (h : s.Canonical) : FMap.tidy s.subs = true := by
  obtain ⟨-, -, -, -, -, -, -, -, -, -, -, -, -, -, -, -, -, -, -, -, -, subs, -⟩ := h.tables
  exact subs

theorem base_congr {t : State} (h : t.regs = s.regs) (a z : Nat) : t.base a z = s.base a z := by
  rw [base, base, rd_congr h, fld_congr h]

end State

end Sys2Proof.Machine
end

section
/-!
PROOF. The states of a subscription (R246–R248, R265, R529).
-/

namespace Sys2Proof.Machine

open Sys2Proof.Claims

namespace State

variable {s : State} {n : Nat}

/-! ### Registers -/

theorem subRegs_apart (n : Nat) : PTS_SUB_STAT n ≠ PTS_SUB_EVT n ∧ PTS_SUB_STAT n ≠ PTS_SUB_SQNUM n ∧
    PTS_SUB_STAT n ≠ PTS_SUB_ACC n ∧ PTS_SUB_STAT n ≠ PTS_SUB_EXP n ∧ PTS_SUB_EVT n ≠ PTS_SUB_SQNUM n ∧
    PTS_SUB_EVT n ≠ PTS_SUB_ACC n ∧ PTS_SUB_EVT n ≠ PTS_SUB_EXP n ∧ PTS_SUB_SQNUM n ≠ PTS_SUB_ACC n ∧
    PTS_SUB_CFG n ≠ PTS_SUB_STAT n ∧ PTS_SUB_CFG n ≠ PTS_SUB_EVT n := by
  unfold PTS_SUB_STAT PTS_SUB_EVT PTS_SUB_SQNUM PTS_SUB_ACC PTS_SUB_EXP PTS_SUB_CFG
  omega

theorem base_not_subReg (n : Nat) : ∀ a ∈ [PTS_SUB_BASE_LO, PTS_SUB_BASE_LO + 4],
    a ∉ [PTS_SUB_STAT n, PTS_SUB_EVT n, PTS_SUB_EXP n, PTS_SUB_SQNUM n, PTS_SUB_ACC n] := by
  unfold PTS_SUB_BASE_LO PTS_SUB_STAT PTS_SUB_EVT PTS_SUB_EXP PTS_SUB_SQNUM PTS_SUB_ACC
  simp only [List.mem_cons, List.not_mem_nil, or_false]
  omega

theorem subBase_congr {t : State} {rs : List Nat} (h : RegsBut rs s t)
    (hrs : rs ⊆ [PTS_SUB_STAT n, PTS_SUB_EVT n, PTS_SUB_EXP n, PTS_SUB_SQNUM n, PTS_SUB_ACC n]) :
    t.base PTS_SUB_BASE_LO 22 = s.base PTS_SUB_BASE_LO 22 := by
  have hb := base_not_subReg n
  rw [base, base, fld, fld, h _ fun hm => hb _ (by simp) (hrs hm), h _ fun hm => hb _ (by simp) (hrs hm)]

/-! ### A change of state (R246) -/

theorem setSub_changed {st : Nat} (h : s.subState n ≠ st) :
    s.setSub n st = (s.setFld (PTS_SUB_STAT n) 2 0 st).evt (PTS_SUB_EVT n) 0 := if_neg h

/-- A subscription that changes its state shows the new one and `state_chg`. -/
theorem setSub_effect (hs : s.Canonical) {st : Nat} (h : s.subState n ≠ st) :
    (s.setSub n st).rd (PTS_SUB_STAT n) = setBits (s.rd (PTS_SUB_STAT n)) 2 0 st ∧
    (s.setSub n st).rd (PTS_SUB_EVT n) = raised (s.rd (PTS_SUB_EVT n)) 0 ∧
    RegsBut [PTS_SUB_STAT n, PTS_SUB_EVT n] s (s.setSub n st) ∧ RegsOnly s (s.setSub n st) ∧ (s.setSub n st).Canonical := by
  obtain ⟨hse, -⟩ := subRegs_apart n
  have hok := Canonical.regsOk hs
  rw [setSub_changed h]
  refine ⟨?_, ?_, ((RegsBut.of_regs rfl).setReg (by simp)).setReg (by simp), rfl, canonical_setReg (canonical_setReg hs)⟩
  · rw [rd_evt_ne hse, rd_setFld_same hok (by decide) (by decide)]
  · rw [rd_evt_same (regsOk_setFld hok) (by decide), rd_setFld_ne hse.symm]

/-- The state shown after it, whatever the state before. -/
theorem subState_setSub (hs : s.Canonical) {st : Nat} (hst : st < 8) : (s.setSub n st).subState n = st := by
  by_cases h : s.subState n = st
  · rw [setSub, if_pos h, h]
  · rw [subState, fld, (setSub_effect hs h).1, bits_setBits_same (by decide)]
    exact Nat.mod_eq_of_lt hst

theorem setSub_regs (s : State) (n st : Nat) :
    RegsBut [PTS_SUB_STAT n, PTS_SUB_EVT n] s (s.setSub n st) ∧ RegsOnly s (s.setSub n st) := by
  unfold setSub
  split
  · exact ⟨.of_regs rfl, rfl⟩
  · exact ⟨((RegsBut.of_regs rfl).setReg (by simp)).setReg (by simp), rfl⟩

/-! ### A set published (R248) -/

/-- A set of at most 60 members and its mark stand in the subscriptions' area, and nothing else of memory changes. -/
structure SetPublished (s t : State) : Prop where
  only  : t = { s with mem := t.mem, poison := t.poison, slices := t.slices, red := t.red }
  noted : Noted s t
  mem   : SubMem s t
  canon : t.Canonical

theorem publishSet_published (hs : s.Canonical) (hn : n < 1024) {m : GooseMsg} (hm : m.vals.length ≤ 60) (expired : Bool) :
    SetPublished s (s.publishSet n m expired) := by
  unfold publishSet
  extract_lets root mark b fault a head body
  have hlen : (head ++ body).length ≤ 256 := by
    have hbody : body.length = 4 * m.vals.length := by
      simp [body, List.length_flatMap, Nat.mul_comm]
    have hhead : head.length = 16 := by simp [head]
    rw [List.length_append]
    omega
  have hstored := dmaWords_stored hs a (head ++ body)
  generalize head ++ body = l at hlen hstored
  generalize s.dmaWords a l = u at hstored
  have hst : OnlyMem u (u.publish mark false fault) := OnlyMem.st
  have hb : b ≤ 1 := by omega
  refine ⟨by rw [show u.publish mark false fault = _ from hst, hstored.only],
    noted_congr hstored.noted (by rw [show u.publish mark false fault = _ from hst])
      (by rw [show u.publish mark false fault = _ from hst]), fun x hx => ?_, (publish_kept (.refl u)).canonical hstored.canon⟩
  have hx : x < root ∨ root + 0x204000 ≤ x := hx
  have hmark : (u.publish mark false fault).rdByte x = u.rdByte x := rdByte_st_outside (by omega)
  rw [hmark, hstored.outside x (by omega)]

/-- Registers put before a set is published. -/
theorem SetPublished.after {t u : State} {rs : List Nat} (h : SetPublished t u) (hregs : RegsBut rs s t)
    (hrs : rs ⊆ [PTS_SUB_STAT n, PTS_SUB_EVT n, PTS_SUB_EXP n, PTS_SUB_SQNUM n, PTS_SUB_ACC n])
    (hmem : t.mem = s.mem) : SubMem s u := by
  intro x hx
  have hbase := subBase_congr hregs hrs
  rw [h.mem x (by rwa [hbase]), rdByte, hmem, rdByte]

theorem SetPublished.rd {t u : State} (h : SetPublished t u) (a : Nat) : u.rd a = t.rd a := rd_congr (by rw [h.only]) a

/-! ### Expiry (R247) -/

/-- The registers of a subscription that expires. -/
def subExpired (n : Nat) (s : State) : State := ((s.setSub n 3).evt (PTS_SUB_EVT n) 2).inc (PTS_SUB_EXP n)

theorem gooseExpiry_due (hcx : s.power.cx = true) (hst : s.subState n = 2) (hdue : (s.subOf n).expiry ≤ s.clk) :
    s.gooseExpiry n = match (s.subOf n).set with
      | some m => (s.subExpired n).publishSet n m true
      | none => s.subExpired n := if_pos ⟨hcx, hst, hdue⟩

theorem gooseExpiry_idle (h : s.power.cx = false ∨ s.subState n ≠ 2 ∨ s.clk < (s.subOf n).expiry) : s.gooseExpiry n = s := by
  refine if_neg ?_
  rintro ⟨hcx, hst, hdue⟩
  rcases h with h | h | h
  · exact Bool.false_ne_true (h.symm.trans hcx)
  · exact h hst
  · omega

theorem subExpired_effect (hs : s.Canonical) (hst : s.subState n = 2) :
    (s.subExpired n).rd (PTS_SUB_STAT n) = setBits (s.rd (PTS_SUB_STAT n)) 2 0 3 ∧
    (s.subExpired n).rd (PTS_SUB_EVT n) = raised (raised (s.rd (PTS_SUB_EVT n)) 0) 2 ∧
    (s.subExpired n).rd (PTS_SUB_EXP n) = incSat 32 (s.rd (PTS_SUB_EXP n)) ∧
    RegsBut [PTS_SUB_STAT n, PTS_SUB_EVT n, PTS_SUB_EXP n] s (s.subExpired n) ∧ RegsOnly s (s.subExpired n) ∧
    (s.subExpired n).Canonical := by
  obtain ⟨hse, -, -, hsx, -, -, hex, -⟩ := subRegs_apart n
  obtain ⟨hstat, hevt, hregs, honly, hc⟩ := setSub_effect hs (n := n) (st := 3) (by omega)
  unfold subExpired
  generalize s.setSub n 3 = t at hstat hevt hregs honly hc
  have hok := Canonical.regsOk hc
  refine ⟨?_, ?_, ?_, (RegsBut.setReg (RegsBut.setReg (hregs.mono ?_) (by simp)) (by simp)), (honly.setReg).setReg,
    canonical_setReg (canonical_setReg hc)⟩
  · rw [rd_inc_ne hsx, rd_evt_ne hse, hstat]
  · rw [rd_inc_ne hex, rd_evt_same hok (by decide), hevt]
  · rw [rd_inc_same (regsOk_evt hok), rd_evt_ne hex.symm, hregs _ (by simp [hsx.symm, hex.symm])]
  · intro a ha
    simp only [List.mem_cons, List.not_mem_nil, or_false] at ha ⊢
    tauto

theorem gooseExpiry_effect (hs : s.Canonical) (hn : n < 1024) (hcx : s.power.cx = true) (hst : s.subState n = 2)
    (hdue : (s.subOf n).expiry ≤ s.clk) (hset : ∀ m, (s.subOf n).set = some m → m.vals.length ≤ 60) :
    let t := s.gooseExpiry n
    t.rd (PTS_SUB_STAT n) = setBits (s.rd (PTS_SUB_STAT n)) 2 0 3 ∧
    t.rd (PTS_SUB_EVT n) = raised (raised (s.rd (PTS_SUB_EVT n)) 0) 2 ∧
    t.rd (PTS_SUB_EXP n) = incSat 32 (s.rd (PTS_SUB_EXP n)) ∧ SubMem s t ∧ ((s.subOf n).set = none → t.mem = s.mem) ∧
    RegsBut [PTS_SUB_STAT n, PTS_SUB_EVT n, PTS_SUB_EXP n] s t ∧ Noted s t ∧
    t = { s with regs := t.regs, mem := t.mem, poison := t.poison, slices := t.slices, red := t.red } := by
  dsimp only
  rw [gooseExpiry_due hcx hst hdue]
  obtain ⟨hstat, hevt, hexp, hregs, honly, hc⟩ := subExpired_effect hs hst
  generalize s.subExpired n = v at hstat hevt hexp hregs honly hc
  have hmem : v.mem = s.mem := by rw [honly]
  cases hm : (s.subOf n).set with
  | none =>
    refine ⟨hstat, hevt, hexp, fun x _ => by rw [rdByte, hmem, rdByte], fun _ => hmem, hregs, ⟨fun k => ?_, ?_⟩, ?_⟩
    · rw [honly]; rfl
    · rw [honly]
    · rw [honly]
  | some m =>
    have hp := publishSet_published hc hn (hset m hm) true
    dsimp only
    generalize v.publishSet n m true = u at hp
    refine ⟨(hp.rd _).trans hstat, (hp.rd _).trans hevt, (hp.rd _).trans hexp, hp.after hregs (n := n) ?_ hmem, nofun,
      fun a ha => (hp.rd a).trans (hregs a ha), noted_since hp.noted (by rw [honly]) (by rw [honly]), by rw [hp.only, honly]⟩
    simp

/-! ### Failure and the way out of it (R246, R529) -/

theorem subFailed_effect (hs : s.Canonical) (hst : s.subState n ≠ 4) (f : Sub → Sub) :
    let t := ((s.setSub n 4).evt (PTS_SUB_EVT n) 1).modSub n f
    t.rd (PTS_SUB_STAT n) = setBits (s.rd (PTS_SUB_STAT n)) 2 0 4 ∧
    t.rd (PTS_SUB_EVT n) = raised (raised (s.rd (PTS_SUB_EVT n)) 0) 1 ∧ RegsBut [PTS_SUB_STAT n, PTS_SUB_EVT n] s t ∧
    t = { s with regs := t.regs, subs := s.subs.mod n f } := by
  obtain ⟨hse, -⟩ := subRegs_apart n
  obtain ⟨hstat, hevt, hregs, honly, hc⟩ := setSub_effect hs hst
  generalize s.setSub n 4 = v at hstat hevt hregs honly hc
  refine ⟨?_, ?_, hregs.setReg (by simp), by rw [honly]; rfl⟩
  · exact (rd_evt_ne hse).trans hstat
  · exact (rd_evt_same (Canonical.regsOk hc) (by decide)).trans (congrArg (raised · 1) hevt)

/-- The registers and the record of a subscription that takes a set as a new state, before it is published (R245). -/
def subTaken (n : Nat) (m : GooseMsg) (s : State) : State :=
  (((s.subRenew n m).setSub n 2).setFld (PTS_SUB_STAT n) 31 16 m.st).modSub n
    (fun c => { c with st := m.st, set := some m, outRun := 0, exit := none })

theorem subNew_eq (m : GooseMsg) : s.subNew n m = (s.subTaken n m).publishSet n m false := rfl

theorem subOf_modSub_same {f : Sub → Sub} (h : FMap.tidy s.subs = true) : (s.modSub n f).subOf n = f (s.subOf n) :=
  FMap.at'_mod_same h

theorem subRenew_effect (hs : s.Canonical) (m : GooseMsg) :
    (s.subRenew n m).rd (PTS_SUB_SQNUM n) = m.sq % 2 ^ 32 ∧
    (s.subRenew n m).rd (PTS_SUB_ACC n) = incSat 32 (s.rd (PTS_SUB_ACC n)) ∧
    RegsBut [PTS_SUB_SQNUM n, PTS_SUB_ACC n] s (s.subRenew n m) ∧ ((s.subRenew n m).subOf n).failRun = 0 ∧
    s.subRenew n m = { s with regs := (s.subRenew n m).regs, subs := (s.subRenew n m).subs } ∧ (s.subRenew n m).Canonical := by
  obtain ⟨-, -, -, -, -, -, -, hqa, -⟩ := subRegs_apart n
  have hok := Canonical.regsOk hs
  refine ⟨?_, ?_, ((RegsBut.of_regs rfl).setReg (by simp)).setReg (by simp), ?_, rfl, (subRenew_kept (.refl s)).canonical hs⟩
  · exact (rd_inc_ne hqa).trans (rd_setReg_same hok)
  · exact (rd_inc_same (regsOk_setReg hok)).trans (congrArg (incSat 32) (rd_setReg_ne hqa.symm))
  · unfold subRenew
    extract_lets exp t
    rw [subOf_modSub_same (show FMap.tidy t.subs = true from Canonical.subsTidy (s := s) hs)]

theorem subTaken_effect (hs : s.Canonical) (m : GooseMsg) (hst : s.subState n ≠ 2) :
    let t := s.subTaken n m
    t.rd (PTS_SUB_STAT n) = setBits (setBits (s.rd (PTS_SUB_STAT n)) 2 0 2) 31 16 m.st ∧
    t.rd (PTS_SUB_EVT n) = raised (s.rd (PTS_SUB_EVT n)) 0 ∧ t.rd (PTS_SUB_SQNUM n) = m.sq % 2 ^ 32 ∧
    t.rd (PTS_SUB_ACC n) = incSat 32 (s.rd (PTS_SUB_ACC n)) ∧
    (t.subOf n).set = some m ∧ (t.subOf n).failRun = 0 ∧ (t.subOf n).exit = none ∧
    RegsBut [PTS_SUB_STAT n, PTS_SUB_EVT n, PTS_SUB_SQNUM n, PTS_SUB_ACC n] s t ∧
    t = { s with regs := t.regs, subs := t.subs } ∧ t.Canonical := by
  dsimp only
  obtain ⟨hse, hsq, hsa, -, heq, hea, -⟩ := subRegs_apart n
  obtain ⟨hsqn, hacc, hregs, hrun, honly, hc⟩ := subRenew_effect hs (n := n) m
  have hs2 : (s.subRenew n m).subState n ≠ 2 := by
    rwa [subState, fld, hregs _ (by simp [hsq, hsa])]
  have hstat0 := hregs (PTS_SUB_STAT n) (by simp [hsq, hsa])
  have hevt0 := hregs (PTS_SUB_EVT n) (by simp [heq, hea])
  unfold subTaken
  generalize s.subRenew n m = u at hsqn hacc hregs hrun honly hc hs2 hstat0 hevt0
  obtain ⟨hstat, hevt, hmoved, hmonly, hmc⟩ := setSub_effect hc hs2
  have hsubs : (u.setSub n 2).subs = u.subs := by rw [hmonly]
  generalize u.setSub n 2 = v at hstat hevt hmoved hmonly hmc hsubs
  have hrec : ∀ f : Sub → Sub, ((v.setFld (PTS_SUB_STAT n) 31 16 m.st).modSub n f).subOf n = f (u.subOf n) := fun f =>
    (FMap.at'_mod_same (m := v.subs) (Canonical.subsTidy hmc)).trans (by rw [hsubs]; rfl)
  refine ⟨?_, ?_, ?_, ?_, by rw [hrec], by rw [hrec]; exact hrun, by rw [hrec], ?_, by rw [hmonly, honly]; rfl,
    (modSub_kept (setFld_kept (.refl v))).canonical hmc⟩
  · exact (rd_setFld_same (Canonical.regsOk hmc) (by decide) (by decide)).trans (by rw [hstat, hstat0])
  · exact (rd_setFld_ne hse.symm).trans (by rw [hevt, hevt0])
  · exact (rd_setFld_ne hsq.symm).trans ((hmoved _ (by simp [hsq.symm, heq.symm])).trans hsqn)
  · exact (rd_setFld_ne hsa.symm).trans ((hmoved _ (by simp [hsa.symm, hea.symm])).trans hacc)
  · refine RegsBut.setReg (RegsBut.trans (hregs.mono ?_) (hmoved.mono ?_)) (by simp)
    · simp
    · simp

theorem subNew_effect (hs : s.Canonical) (hn : n < 1024) {m : GooseMsg} (hst : s.subState n ≠ 2) (hm : m.vals.length ≤ 60) :
    let t := s.subNew n m
    t.rd (PTS_SUB_STAT n) = setBits (setBits (s.rd (PTS_SUB_STAT n)) 2 0 2) 31 16 m.st ∧
    t.rd (PTS_SUB_EVT n) = raised (s.rd (PTS_SUB_EVT n)) 0 ∧ t.rd (PTS_SUB_SQNUM n) = m.sq % 2 ^ 32 ∧
    t.rd (PTS_SUB_ACC n) = incSat 32 (s.rd (PTS_SUB_ACC n)) ∧
    (t.subOf n).set = some m ∧ (t.subOf n).failRun = 0 ∧ (t.subOf n).exit = none ∧ SubMem s t ∧
    RegsBut [PTS_SUB_STAT n, PTS_SUB_EVT n, PTS_SUB_SQNUM n, PTS_SUB_ACC n] s t ∧ Noted s t ∧
    t = { s with regs := t.regs, mem := t.mem, poison := t.poison, subs := t.subs, slices := t.slices, red := t.red } := by
  dsimp only
  obtain ⟨hstat, hevt, hsq, hacc, hset, hrun, hexit, hregs, honly, hc⟩ := subTaken_effect hs m hst
  rw [subNew_eq]
  generalize s.subTaken n m = v at hstat hevt hsq hacc hset hrun hexit hregs honly hc
  have hp := publishSet_published hc hn hm false
  generalize v.publishSet n m false = u at hp
  have hsub : u.subOf n = v.subOf n := by rw [hp.only]; rfl
  refine ⟨(hp.rd _).trans hstat, (hp.rd _).trans hevt, (hp.rd _).trans hsq, (hp.rd _).trans hacc, by rw [hsub, hset],
    by rw [hsub, hrun], by rw [hsub, hexit], hp.after hregs (n := n) ?_ (by rw [honly]),
    fun a ha => (hp.rd a).trans (hregs a ha), noted_since hp.noted (by rw [honly]) (by rw [honly]), by rw [hp.only, honly]⟩
  simp

/-! ### Configuration (R246, R265) -/

theorem blkOf_subCfg (hn : n < 1024) : blkOf (PTS_SUB_CFG n) = 8 := by
  simp only [blkOf, PTS_SUB_CFG]; omega

/-- The configuration word that a write leaves: bits 24 to 6 read 0. -/
def subCfgWord (v : Nat) : Nat := v - v % 2 ^ 25 / 2 ^ 6 * 2 ^ 6

theorem subCfg_eq {v : Nat} (hv : bits v 5 0 < 60) : s.subCfg n v =
    if bitAt v 31 = s.bit (PTS_SUB_CFG n) 31 then s.setReg (PTS_SUB_CFG n) (subCfgWord v)
    else if s.bit (PTS_SUB_CFG n) 31 then (s.setReg (PTS_SUB_CFG n) (subCfgWord v)).setSub n 0
    else ((s.setReg (PTS_SUB_CFG n) (subCfgWord v)).modSub n fun _ => {}).setSub n 1 := by
  unfold subCfg
  extract_lets was t u
  have hu : u = s.setReg (PTS_SUB_CFG n) (subCfgWord v) := if_neg (by simp; omega)
  rw [hu]
  rfl

/-- A change of state after the configuration is written. -/
theorem setSub_after_cfg {u : State} (hs : s.Canonical) (hu : u.Canonical) {c st : Nat} (hc : c < 2 ^ 32) (hst : st < 8)
    (hregs : u.regs = (s.setReg (PTS_SUB_CFG n) c).regs) :
    (u.setSub n st).rd (PTS_SUB_CFG n) = c ∧ (u.setSub n st).subState n = st ∧
    RegsBut [PTS_SUB_CFG n, PTS_SUB_STAT n, PTS_SUB_EVT n] s (u.setSub n st) ∧ RegsOnly u (u.setSub n st) := by
  obtain ⟨-, -, -, -, -, -, -, -, hcs, hce⟩ := subRegs_apart n
  obtain ⟨hbut, honly⟩ := setSub_regs u n st
  refine ⟨?_, subState_setSub hu hst, RegsBut.trans (RegsBut.congr (regsBut_setReg.mono (by simp)) hregs) (hbut.mono (by simp)), honly⟩
  rw [hbut _ (by simp [hcs, hce]), rd_congr hregs, rd_setReg_same (Canonical.regsOk hs), Nat.mod_eq_of_lt hc]

end State

/-- Settles O29: expiry, failure and its end by what the registers and the set then are; each configuration write by what it
changes of the `en` bit. -/
theorem subscriptionStates : Obligations.SubscriptionStates := by
  unfold Obligations.SubscriptionStates
  intro n s hs
  refine ⟨fun hcx hst hdue hset => .of_exec rfl rfl (State.gooseExpiry_effect hs n.isLt hcx hst hdue hset), fun hst hfail => ?_,
    fun m hst hrun hexit hm => ?_, fun h => .of_exec rfl (State.gooseExpiry_idle h) rfl, fun h => .of_exec rfl (if_neg ?_) rfl,
    fun h => .of_exec rfl (if_neg ?_) rfl, fun w v hsup hv => ?_⟩
  · refine .of_exec rfl (if_pos ⟨by simpa using hst, hfail⟩) (State.subFailed_effect hs (by omega) _)
  · refine .of_exec rfl ((if_pos ⟨hst, hrun⟩).trans (by rw [hexit])) (State.subNew_effect hs n.isLt (by omega) hm)
  · rintro ⟨hst, hfail⟩
    rcases h with h | h
    · exact h (by simpa using hst)
    · omega
  · rintro ⟨hst, hrun⟩
    omega
  · dsimp only
    have hok : (s.ok w).Canonical := (State.ok_kept (.refl s)).canonical hs
    have hword : State.subCfgWord v.toNat < 2 ^ 32 := Nat.lt_of_le_of_lt (Nat.sub_le _ _) v.isLt
    have hgate : exec (.subCfgWrite w n v) s = .next ((s.ok w).subCfg n v.toNat) :=
      congrArg Host.Outcome.next (State.gateSup_of_sup hsup (State.blkOf_subCfg n.isLt))
    have hcfg := State.subCfg_eq (s := s.ok w) (n := n) hv
    refine ⟨fun hsame => ?_, fun hon hoff => ?_, fun hoff hon => ?_⟩
    · refine .of_exec hgate (hcfg.trans (if_pos hsame)) ⟨?_, regsBut_setReg, rfl⟩
      exact (State.rd_setReg_same (State.Canonical.regsOk hok)).trans (Nat.mod_eq_of_lt hword)
    · have hnew : bitAt v.toNat 31 ≠ (s.ok w).bit (PTS_SUB_CFG n) 31 := by rw [State.ok_bit, hon, hoff]; decide
      refine .of_exec hgate (hcfg.trans ((if_neg hnew).trans (if_neg ?_))) ?_
      · rw [State.ok_bit, hoff]; decide
      · obtain ⟨hrd, hstate, hregs, honly⟩ := State.setSub_after_cfg (n := n) (st := 1) hok
          ((State.modSub_kept (State.setReg_kept (.refl _))).canonical hok) hword (by decide) rfl
        generalize State.setSub _ _ _ = t at hrd hstate hregs honly
        exact ⟨hrd, hstate, hregs, by rw [honly]; rfl⟩
    · have hnew : bitAt v.toNat 31 ≠ (s.ok w).bit (PTS_SUB_CFG n) 31 := by rw [State.ok_bit, hon, hoff]; decide
      refine .of_exec hgate (hcfg.trans ((if_neg hnew).trans (if_pos ?_))) ?_
      · rw [State.ok_bit, hon]
      · obtain ⟨hrd, hstate, hregs, honly⟩ := State.setSub_after_cfg (n := n) (st := 0) hok (State.canonical_setReg hok) hword
          (by decide) rfl
        generalize State.setSub _ _ _ = t at hrd hstate hregs honly
        exact ⟨hrd, hstate, hregs, by rw [OnlyRegs, honly]; rfl⟩

end Sys2Proof.Machine
end

section
/-!
PROOF. What an entry of the publisher is configured as (R249, R251, R255, R263): read from memory and from registers that the
publisher does not write, so it stays as it is while the publisher works.
-/

namespace Sys2Proof.Machine

open Sys2Proof.Claims

/-- The registers an entry's configuration and its points are read from, and those of the mandate and the time's class. -/
def entryReads (e : Nat) : List Nat :=
  [PUB_ENT_CFG e, PUB_ENT_TPL_LO e, PUB_ENT_TPL_LO e + 4, PUB_ENT_CURVE e, PUB_ENT_SV e, PUB_CTL, PTS_BASE_LO, PTS_BASE_LO + 4,
    RED_STAT, TIME_STAT]

/-- The registers the publisher writes for entry `e`, and its counts. -/
def entryWork (e : Nat) : List Nat :=
  [PUB_ENT_STAT e, PUB_ENT_EVT e, PUB_ENT_STNUM e, PUB_ENT_SQNUM e, PUB_ENT_T_NS e, PUB_ENT_T_SEC e, PUB_ENT_TX e, PUB_TX,
    PUB_NOMANDATE, PUB_REPEAT, PUB_REQ_FULL]

theorem entryReads_not_work {e k a : Nat} (he : e < 512) (ha : a ∈ entryReads k) : a ∉ entryWork e := by
  simp only [entryReads, entryWork, List.mem_cons, List.not_mem_nil, or_false, PUB_ENT_CFG, PUB_ENT_TPL_LO, PUB_ENT_CURVE,
    PUB_ENT_SV, PUB_CTL, PTS_BASE_LO, RED_STAT, TIME_STAT, PUB_ENT_STAT, PUB_ENT_EVT, PUB_ENT_STNUM, PUB_ENT_SQNUM, PUB_ENT_T_NS,
    PUB_ENT_T_SEC, PUB_ENT_TX, PUB_TX, PUB_NOMANDATE, PUB_REPEAT, PUB_REQ_FULL] at ha ⊢
  omega

/-- Entry `e` is configured in `t` as in `s`, and its points have the same records. -/
structure EntrySame (e : Nat) (s t : State) : Prop where
  mem  : t.mem = s.mem
  red  : t.red = s.red
  regs : ∀ a ∈ entryReads e, t.rd a = s.rd a

theorem State.rdBytes_congr_mem {s t : State} (h : t.mem = s.mem) (a n : Nat) : t.rdBytes a n = s.rdBytes a n := by
  simp only [State.rdBytes, State.rdByte, h]

namespace EntrySame

variable {e : Nat} {s t u : State}

/-- The publisher works on an entry. -/
theorem of_work {k : Nat} {rs : List Nat} (hk : k < 512) (hmem : t.mem = s.mem) (hred : t.red = s.red) (h : RegsBut rs s t)
    (hrs : rs ⊆ entryWork k) : EntrySame e s t :=
  ⟨hmem, hred, fun a ha => h a fun hm => entryReads_not_work hk ha (hrs hm)⟩

theorem cfgBit (h : EntrySame e s t) (i : Nat) : t.bit (PUB_ENT_CFG e) i = s.bit (PUB_ENT_CFG e) i := by
  rw [State.bit, h.regs _ (by simp [entryReads]), State.bit]

theorem cfgFld (h : EntrySame e s t) (hi lo : Nat) : t.fld (PUB_ENT_CFG e) hi lo = s.fld (PUB_ENT_CFG e) hi lo := by
  rw [State.fld, h.regs _ (by simp [entryReads]), State.fld]

theorem svFld (h : EntrySame e s t) (hi lo : Nat) : t.fld (PUB_ENT_SV e) hi lo = s.fld (PUB_ENT_SV e) hi lo := by
  rw [State.fld, h.regs _ (by simp [entryReads]), State.fld]

theorem ctlBit (h : EntrySame e s t) (i : Nat) : t.bit PUB_CTL i = s.bit PUB_CTL i := by
  rw [State.bit, h.regs _ (by simp [entryReads]), State.bit]

theorem syncClass (h : EntrySame e s t) : t.syncClass = s.syncClass := by
  rw [State.syncClass, State.fld, h.regs _ (by simp [entryReads]), State.syncClass, State.fld]

theorem ld (h : EntrySame e s t) (a n : Nat) : t.ld a n = s.ld a n := State.ld_congr_mem h.mem a n

theorem rdBytes (h : EntrySame e s t) (a n : Nat) : t.rdBytes a n = s.rdBytes a n := State.rdBytes_congr_mem h.mem a n

theorem tplAt (h : EntrySame e s t) : t.tplAt e = s.tplAt e := by
  simp only [State.tplAt, State.base, State.fld, h.regs _ (show PUB_ENT_TPL_LO e ∈ entryReads e by simp [entryReads]),
    h.regs _ (show PUB_ENT_TPL_LO e + 4 ∈ entryReads e by simp [entryReads])]

theorem tplCount (h : EntrySame e s t) : t.tplCount e = s.tplCount e := by
  rw [State.tplCount, h.tplAt, h.ld, State.tplCount]

theorem tplMember (h : EntrySame e s t) (m : Nat) : t.tplMember e m = s.tplMember e m := by
  rw [State.tplMember, h.tplAt, h.ld, State.tplMember]

theorem tplStr (h : EntrySame e s t) (len off : Nat) : t.tplStr e len off = s.tplStr e len off := by
  rw [State.tplStr, h.tplAt, h.ld, h.rdBytes, State.tplStr]

theorem pointWord (h : EntrySame e s t) (p i : Nat) : t.pointWord p i = s.pointWord p i := by
  simp only [State.pointWord, State.pointAt, State.base, State.fld, h.ld,
    h.regs _ (show PTS_BASE_LO ∈ entryReads e by simp [entryReads]),
    h.regs _ (show PTS_BASE_LO + 4 ∈ entryReads e by simp [entryReads])]

theorem prot (h : EntrySame e s t) : t.pubProt e = s.pubProt e := h.cfgBit 26

theorem may (h : EntrySame e s t) : t.pubMay e = s.pubMay e := by
  simp only [State.pubMay, State.mandate, State.bit, h.prot, h.regs _ (show RED_STAT ∈ entryReads e by simp [entryReads])]

theorem bad (h : EntrySame e s t) : t.pubBad e = s.pubBad e := by
  have hmember : t.tplMember e = s.tplMember e := funext h.tplMember
  have hword : t.pointType = s.pointType := funext fun p => congrArg (bits · 11 8) (h.pointWord p 2)
  unfold State.pubBad
  rw [h.tplCount, hmember, h.prot, h.svFld, hword]

theorem memberElem (h : EntrySame e s t) (d : Nat) : t.memberElem d = s.memberElem d := by
  simp only [State.memberElem, State.pointType, State.pointVal, h.pointWord, h.red]

theorem interval (h : EntrySame e s t) (k : Nat) : t.pubInterval e k = s.pubInterval e k := by
  unfold State.pubInterval State.fld
  rw [h.regs _ (show PUB_ENT_CURVE e ∈ entryReads e by simp [entryReads])]

theorem svRate (h : EntrySame e s t) : t.svRate e = s.svRate e := by rw [State.svRate, h.svFld, State.svRate]

theorem svMember (h : EntrySame e s t) (d : Nat) : t.svMember d = s.svMember d := by
  simp only [State.svMember, h.pointWord, h.red]

theorem svAsdu (h : EntrySame e s t) (cnt : Nat) : t.svAsdu e cnt = s.svAsdu e cnt := by
  simp only [State.svAsdu, h.tplAt, h.tplStr, h.tplCount, h.tplMember, h.svMember, h.ld, h.syncClass, h.svRate]

end EntrySame

/-! ### The check of an entry (R251) -/

namespace State

variable {s : State} {e : Nat}

theorem pubCheck_good (h : s.pubBad e = false) : s.pubCheck e = s.setBit (PUB_ENT_STAT e) 1 false := by
  unfold pubCheck
  rw [h]
  rfl

theorem bit_pubCheck (hok : s.RegsOk) : (s.pubCheck e).bit (PUB_ENT_STAT e) 1 = s.pubBad e := by
  have hne : PUB_ENT_STAT e ≠ PUB_ENT_EVT e := by unfold PUB_ENT_STAT PUB_ENT_EVT; omega
  unfold pubCheck when
  extract_lets bad
  split
  · rw [bit_evt_other (regsOk_setBit hok) (by decide) (.inl hne), bit_setBit_same hok (by decide)]
  · exact bit_setBit_same hok (by decide)

theorem pubCheck_regs (s : State) (e : Nat) :
    RegsBut [PUB_ENT_STAT e, PUB_ENT_EVT e] s (s.pubCheck e) ∧ RegsOnly s (s.pubCheck e) := by
  have hstat : RegsBut [PUB_ENT_STAT e, PUB_ENT_EVT e] s (s.setBit (PUB_ENT_STAT e) 1 (s.pubBad e)) :=
    RegsBut.setReg (.of_regs rfl) (by simp)
  unfold pubCheck when
  extract_lets bad
  split
  · exact ⟨hstat.setReg (by simp), rfl⟩
  · exact ⟨hstat, rfl⟩

end State

end Sys2Proof.Machine
end

section
/-!
PROOF. Requests to the publisher (R251–R253, R257, R260).
-/

namespace Sys2Proof.Machine

open Sys2Proof.Claims

namespace State

variable {s : State} {e : Nat}

/-! ### What a request does, ground by ground (R251) -/

/-- The state a request is judged in: the entry's configuration has been checked. -/
def pubChecked (e : Nat) (s : State) : State := if s.bit (PUB_ENT_CFG e) 31 ∧ e < 256 then s.pubCheck e else s

theorem pubChecked_regs (s : State) (e : Nat) :
    RegsBut [PUB_ENT_STAT e, PUB_ENT_EVT e] s (s.pubChecked e) ∧ RegsOnly s (s.pubChecked e) := by
  unfold pubChecked
  split
  · exact pubCheck_regs s e
  · exact ⟨.of_regs rfl, rfl⟩

theorem pubChecked_idle (h : ¬(s.bit (PUB_ENT_CFG e) 31 = true ∧ e < 256)) : s.pubChecked e = s := if_neg h

/-- The registers that the check of an entry writes are none of those it reads. -/
theorem cfg_ctl_not_checked (e : Nat) : PUB_ENT_CFG e ∉ [PUB_ENT_STAT e, PUB_ENT_EVT e] ∧ PUB_CTL ∉ [PUB_ENT_STAT e, PUB_ENT_EVT e] := by
  simp only [List.mem_cons, List.not_mem_nil, or_false, PUB_ENT_CFG, PUB_ENT_STAT, PUB_ENT_EVT, PUB_CTL]
  omega

/-- A request that its entry or the unit does not let pass: result 1. -/
theorem pubRequest_dead (hok : s.RegsOk) {refresh restarted : Bool} {owner : Option (Nat × Nat)}
    (h : 256 ≤ e ∨ s.bit PUB_CTL 0 = false ∨ s.bit (PUB_ENT_CFG e) 31 = false ∨ s.pubBad e = true) :
    s.pubRequest e refresh restarted owner = (s.pubChecked e, 1) := by
  have hbut := (pubChecked_regs s e).1
  obtain ⟨hcfg, hctl⟩ := cfg_ctl_not_checked e
  refine if_pos ?_
  show 256 ≤ e ∨ (s.pubChecked e).bit PUB_CTL 0 = false ∨ (s.pubChecked e).bit (PUB_ENT_CFG e) 31 = false ∨
    (s.pubChecked e).bit (PUB_ENT_STAT e) 1 = true
  rw [bit, bit, hbut _ hctl, hbut _ hcfg]
  rcases h with h | h | h | h
  · exact .inl h
  · exact .inr (.inl h)
  · exact .inr (.inr (.inl h))
  · by_cases hcheck : s.bit (PUB_ENT_CFG e) 31 = true ∧ e < 256
    · rw [pubChecked, if_pos hcheck, bit_pubCheck hok]
      exact .inr (.inr (.inr h))
    · by_cases he : 256 ≤ e
      · exact .inl he
      · refine .inr (.inr (.inl (Bool.eq_false_iff.mpr fun hon => hcheck ⟨hon, by omega⟩)))

/-- What a request needs of its entry and of the unit (R251). -/
def PubLive (e : Nat) (s : State) : Prop :=
  e < 256 ∧ s.bit PUB_CTL 0 = true ∧ s.bit (PUB_ENT_CFG e) 31 = true ∧ s.pubBad e = false

/-- A request of an entry that is configured, its check done: the grounds in the order the module looks for them (R252, R253,
R257, R260). -/
theorem pubRequest_live (hok : s.RegsOk) (h : PubLive e s) {refresh restarted : Bool} {owner : Option (Nat × Nat)} :
    let u := s.setBit (PUB_ENT_STAT e) 1 false
    s.pubRequest e refresh restarted owner =
      if !refresh && restarted && owner.isSome && s.lastOwner e == owner then ((u.inc PUB_REPEAT).evt (PUB_ENT_EVT e) 2, 3)
      else if !s.pubMay e then (u.inc PUB_NOMANDATE, 4)
      else if !refresh && s.pubQ.any (fun r => r.entry == e && !r.refresh) then
        (if owner.isSome then
          { u with pubQ := s.pubQ.map (fun r => if r.entry = e ∧ r.refresh = false then { r with owner := owner } else r) }
        else u, 0)
      else if 64 ≤ s.pubQ.length then (u.inc PUB_REQ_FULL, 2)
      else (u.pubPush { entry := e, refresh := refresh, sec := s.time.sec, ns := s.time.ns,
                        tq := timeQuality s.syncClass, owner := owner }, 0) := by
  obtain ⟨he, hctl, hcfg, hbad⟩ := h
  have hsame : EntrySame e s (s.setBit (PUB_ENT_STAT e) 1 false) :=
    .of_work (k := e) (rs := [PUB_ENT_STAT e]) (by omega) rfl rfl regsBut_setReg (by simp [entryWork])
  have hcheck : s.pubCheck e = s.setBit (PUB_ENT_STAT e) 1 false := pubCheck_good hbad
  unfold pubRequest
  extract_lets u v
  have hv : v = u := (if_pos ⟨hcfg, he⟩).trans hcheck
  rw [hv, if_neg]
  · have hgate : (u.pubProt e && !u.mandate) = !s.pubMay e := by
      rw [← hsame.may]
      simp [pubMay, u]
    rw [hgate, hsame.syncClass]
    rfl
  · rw [hsame.ctlBit, hsame.cfgBit, bit_setBit_same hok (by decide), hctl, hcfg]
    simp; omega

/-! ### A write of `PUB_REQ` (R251) -/

/-- What the state and the code of a request are for the slice of `w`. -/
def pubAsked (w : Who) (e : Nat) (refresh : Bool) (s : State) : State × Nat :=
  (s.ok w).pubRequest e refresh (s.passNo w.slice).2 (some (w.slice.val, (s.passNo w.slice).1))

theorem pubReqWrite_open {w : Who} (hr : Reaches w 9 s) (hm : s.may w 12 e .use = true) (refresh : Bool) :
    s.pubReqWrite w e refresh = (s.pubAsked w e refresh).1.setReg (bank w.master PUB_REQ_STAT) (s.pubAsked w e refresh).2 :=
  (gateGrant_open hr.1 (show s.blkOn (blkOf PUB_REQ) = true from hr.2) hm).trans rfl

theorem bank_ne {m a b : Nat} (h : a < 2 ^ 44) : a ≠ bank m b := by unfold bank; omega

theorem pubRegs_apart (e : Nat) : PUB_ENT_STAT e ≠ PUB_ENT_EVT e ∧ PUB_ENT_STAT e ≠ PUB_REPEAT ∧ PUB_ENT_STAT e ≠ PUB_NOMANDATE ∧
    PUB_ENT_STAT e ≠ PUB_REQ_FULL ∧ PUB_ENT_EVT e ≠ PUB_REPEAT := by
  unfold PUB_ENT_STAT PUB_ENT_EVT PUB_REPEAT PUB_NOMANDATE PUB_REQ_FULL
  omega

/-- A request of result `r` that leaves `v`, its result not yet shown: the registers `rs` are written, nothing else. -/
structure Asked (rs : List Nat) (w : Who) (s v : State) : Prop where
  regsOk : v.RegsOk
  regs   : RegsBut rs s v
  only   : v = { s with regs := v.regs, reply := v.reply, pubQ := v.pubQ }

end State

open State

/-- The result is shown in the master's bank. -/
theorem answers_request {i : Instr} {w : Who} {e r : Nat} {refresh : Bool} {rs : List Nat} {s v : State} {P : State → Prop}
    (hr : Reaches w 9 s) (hm : s.may w 12 e .use = true) (hexec : exec i s = .next (s.pubReqWrite w e refresh))
    (hasked : s.pubAsked w e refresh = (v, r)) (hr32 : r < 2 ^ 32) (hv : Asked rs w s v)
    (hP : ∀ t : State, t.rd (bank w.master PUB_REQ_STAT) = r → (∀ a, a ≠ bank w.master PUB_REQ_STAT → t.rd a = v.rd a) →
      RegsBut (bank w.master PUB_REQ_STAT :: rs) s t → t = { s with regs := t.regs, reply := t.reply, pubQ := v.pubQ } → P t) :
    Answers i s P := by
  refine .of_exec hexec (pubReqWrite_open hr hm refresh) ?_
  rw [hasked]
  refine hP _ ?_ (fun a ha => rd_setReg_ne ha) ((hv.regs.mono (List.subset_cons_self _ _)).setReg List.mem_cons_self) ?_
  · rw [rd_setReg_same hv.regsOk, Nat.mod_eq_of_lt hr32]
  · dsimp only
    rw [hv.only]
    rfl

theorem each_request {w : Who} {e : Fin 512} {s : State} {P : Instr → Prop}
    (h : ∀ i refresh, exec i s = .next (s.pubReqWrite w e refresh) → P i) :
    ∀ i ∈ [Instr.pubReqNewState w e, .pubReqRefresh w e], P i := by
  intro i hi
  rcases List.mem_cons.mp hi with rfl | hi
  · exact h _ false rfl
  · obtain rfl := List.mem_singleton.mp hi
    exact h _ true rfl

/-- A request that is not admitted: result 1. -/
theorem request_dead {i : Instr} {w : Who} {e : Fin 512} {s : State} {refresh : Bool} {P : State → Prop} (hs : s.Canonical)
    (hr : Reaches w 9 s) (hm : s.may w 12 e .use = true) (hexec : exec i s = .next (s.pubReqWrite w e refresh))
    (h : 256 ≤ e.val ∨ s.bit PUB_CTL 0 = false ∨ s.bit (PUB_ENT_CFG e) 31 = false ∨ s.pubBad e = true)
    (hP : ∀ t : State, t.rd (bank w.master PUB_REQ_STAT) = 1 →
      (∀ a, a ≠ bank w.master PUB_REQ_STAT → t.rd a = ((s.ok w).pubChecked e).rd a) →
      Wrote [bank w.master PUB_REQ_STAT, PUB_ENT_STAT e, PUB_ENT_EVT e] s t → P t) : Answers i s P := by
  obtain ⟨hregs, honly⟩ := pubChecked_regs (s.ok w) e
  have hok : ((s.ok w).pubChecked e).RegsOk := by
    unfold pubChecked
    split
    · exact (pubCheck_kept (.refl _)).regs (regsOk_ok hs)
    · exact regsOk_ok hs
  have hasked : s.pubAsked w e refresh = ((s.ok w).pubChecked e, 1) := pubRequest_dead (regsOk_ok hs) h
  refine answers_request hr hm hexec hasked (by decide) ⟨hok, hregs, by rw [honly]; rfl⟩ fun t hres hrd hbut ht =>
    hP t hres hrd ⟨hbut, ?_⟩
  rw [OnlyRegs, ht, honly]
  rfl

/-- Where a request enters the queue: behind those of its own or a higher switch queue (R251). -/
theorem pubPush_splits (r : PubReq) (u : State) :
    ∃ a b, u.pubQ = a ++ b ∧ (∀ y ∈ a, u.fld (PUB_ENT_CFG r.entry) 25 23 ≤ u.fld (PUB_ENT_CFG y.entry) 25 23) ∧
      (∀ y, b.head? = some y → u.fld (PUB_ENT_CFG y.entry) 25 23 < u.fld (PUB_ENT_CFG r.entry) 25 23) ∧
      (u.pubPush r).pubQ = a ++ [r] ++ b := by
  refine ⟨_, _, List.takeWhile_append_dropWhile.symm, fun y hy => ?_, fun y hy => ?_, rfl⟩
  · simpa using List.mem_takeWhile_imp hy
  · have := List.head?_dropWhile_not
      (p := fun x : PubReq => decide (u.fld (PUB_ENT_CFG r.entry) 25 23 ≤ u.fld (PUB_ENT_CFG x.entry) 25 23)) u.pubQ
    rw [hy] at this
    simpa using this

/-- A new state of entry `e` in a queue where none waited before it is the one found first (R260). -/
theorem lastOwner_of_queued {t : State} {e : Nat} {a b : List PubReq} {r : PubReq}
    (ha : a.any (fun r => r.entry == e && !r.refresh) = false) (he : r.entry = e) (hnew : r.refresh = false)
    (ht : t.pubQ = a ++ [r] ++ b) : t.lastOwner e = r.owner := by
  have hfind : t.pubQ.find? (fun r => r.entry == e && !r.refresh) = some r := by
    rw [ht, List.append_assoc, List.find?_append, List.find?_eq_none.mpr fun x hx => by simpa using List.any_eq_false.mp ha x hx]
    simp [he, hnew]
  rw [lastOwner, hfind]

/-- A request of an entry that is off or no GOOSE entry is refused unchecked. -/
theorem request_unchecked {i : Instr} {w : Who} {e : Fin 512} {s : State} {refresh : Bool} (hs : s.Canonical)
    (hr : Reaches w 9 s) (hm : s.may w 12 e .use = true) (hexec : exec i s = .next (s.pubReqWrite w e refresh))
    (h : 256 ≤ e.val ∨ s.bit (PUB_ENT_CFG e) 31 = false) :
    Answers i s fun t => t.rd (bank w.master PUB_REQ_STAT) = 1 ∧ Wrote [bank w.master PUB_REQ_STAT] s t := by
  have hidle : (s.ok w).pubChecked e = s.ok w := pubChecked_idle fun hc => by
    obtain ⟨hon, hlt⟩ := hc
    rcases h with h | h
    · omega
    · exact Bool.false_ne_true (h.symm.trans hon)
  refine request_dead hs hr hm hexec (h.imp_right fun h => .inr (.inl h)) fun t hres hrd ht => ⟨hres, fun a ha => ?_, ht.2⟩
  rw [hrd a (by simpa using ha), hidle, ok_rd]

/-- A refusal that is counted in `cnt` and may set an event of the entry. -/
theorem asked_counted {w : Who} {e cnt : Nat} {s : State} (hs : s.Canonical) (he : PUB_ENT_STAT e ≠ cnt) :
    Asked [cnt, PUB_ENT_STAT e] w s (((s.ok w).setBit (PUB_ENT_STAT e) 1 false).inc cnt) ∧
    (((s.ok w).setBit (PUB_ENT_STAT e) 1 false).inc cnt).rd cnt = incSat 32 (s.rd cnt) := by
  refine ⟨⟨regsOk_inc (regsOk_setBit (regsOk_ok hs)), RegsBut.setReg (RegsBut.setReg (.of_regs rfl) (by simp)) (by simp), rfl⟩, ?_⟩
  rw [rd_inc_same (regsOk_setBit (regsOk_ok hs)), rd_setBit_ne he.symm, ok_rd]

section

variable {w : Who} {e : Fin 512} {s : State}

/-- R260: a restarted pass asks again for the new state it asked for last. -/
theorem request_repeated (hs : s.Canonical) (hr : Reaches w 9 s) (hm : s.may w 12 e .use = true) (hl : PubLive e s)
    (hagain : (s.passNo w.slice).2 = true) (hlast : s.lastOwner e = some (w.slice.val, (s.passNo w.slice).1)) :
    Answers (.pubReqNewState w e) s fun t =>
      t.rd (bank w.master PUB_REQ_STAT) = 3 ∧ t.rd PUB_REPEAT = incSat 32 (s.rd PUB_REPEAT) ∧ t.bit (PUB_ENT_EVT e) 2 = true ∧
      Wrote [bank w.master PUB_REQ_STAT, PUB_REPEAT, PUB_ENT_EVT e, PUB_ENT_STAT e] s t := by
  obtain ⟨hse, hsr, -, -, her⟩ := pubRegs_apart e
  have hok := regsOk_ok (w := w) hs
  have hlast' : (s.ok w).lastOwner e = some (w.slice.val, (s.passNo w.slice).1) := hlast
  have hasked : s.pubAsked w e false =
      ((((s.ok w).setBit (PUB_ENT_STAT e) 1 false).inc PUB_REPEAT).evt (PUB_ENT_EVT e) 2, 3) :=
    (pubRequest_live hok hl).trans (if_pos (by simp [hagain, hlast']))
  obtain ⟨hc, hcnt⟩ := asked_counted (w := w) hs hsr
  have hv : Asked [PUB_REPEAT, PUB_ENT_EVT e, PUB_ENT_STAT e] w s
      ((((s.ok w).setBit (PUB_ENT_STAT e) 1 false).inc PUB_REPEAT).evt (PUB_ENT_EVT e) 2) :=
    ⟨regsOk_evt hc.regsOk, RegsBut.setReg (hc.regs.mono (by simp)) (by simp), rfl⟩
  refine answers_request hr hm rfl hasked (by decide) hv fun t hres hrd hbut ht => ⟨hres, ?_, ?_, hbut, ht⟩
  · rw [hrd _ (bank_ne (by decide)), rd_evt_ne her.symm, hcnt]
  · rw [bit, hrd _ (bank_ne (by have := e.isLt; unfold PUB_ENT_EVT; omega))]
    exact bit_evt_same hc.regsOk (by decide)

/-- R253: a gated entry without the mandate. -/
theorem refresh_withheld (hs : s.Canonical) (hr : Reaches w 9 s) (hm : s.may w 12 e .use = true) (hl : PubLive e s)
    (hprot : s.pubProt e = true) (hmand : s.mandate = false) : Answers (.pubReqRefresh w e) s fun t =>
      t.rd (bank w.master PUB_REQ_STAT) = 4 ∧ t.rd PUB_NOMANDATE = incSat 32 (s.rd PUB_NOMANDATE) ∧
      Wrote [bank w.master PUB_REQ_STAT, PUB_NOMANDATE, PUB_ENT_STAT e] s t := by
  obtain ⟨-, -, hsn, -⟩ := pubRegs_apart e
  have hmay : (s.ok w).pubMay e = false := by
    show (!s.pubProt e || s.mandate) = false
    rw [hprot, hmand]; rfl
  have hasked : s.pubAsked w e true = (((s.ok w).setBit (PUB_ENT_STAT e) 1 false).inc PUB_NOMANDATE, 4) :=
    (pubRequest_live (regsOk_ok hs) hl).trans ((if_neg (by simp)).trans (if_pos (by rw [hmay]; rfl)))
  obtain ⟨hc, hcnt⟩ := asked_counted (w := w) hs hsn
  exact answers_request hr hm rfl hasked (by decide) hc fun t hres hrd hbut ht =>
    ⟨hres, (hrd _ (bank_ne (by decide))).trans hcnt, hbut, ht⟩

/-- R252: the queue is full. -/
theorem refresh_full (hs : s.Canonical) (hr : Reaches w 9 s) (hm : s.may w 12 e .use = true) (hl : PubLive e s)
    (hmay : s.pubMay e = true) (hfull : 64 ≤ s.pubQ.length) : Answers (.pubReqRefresh w e) s fun t =>
      t.rd (bank w.master PUB_REQ_STAT) = 2 ∧ t.rd PUB_REQ_FULL = incSat 32 (s.rd PUB_REQ_FULL) ∧
      Wrote [bank w.master PUB_REQ_STAT, PUB_REQ_FULL, PUB_ENT_STAT e] s t := by
  obtain ⟨-, -, -, hsf, -⟩ := pubRegs_apart e
  have hmay' : (s.ok w).pubMay e = true := hmay
  have hasked : s.pubAsked w e true = (((s.ok w).setBit (PUB_ENT_STAT e) 1 false).inc PUB_REQ_FULL, 2) :=
    (pubRequest_live (regsOk_ok hs) hl).trans ((if_neg (by simp)).trans ((if_neg (by simp [hmay'])).trans
      ((if_neg (by simp)).trans (if_pos hfull))))
  obtain ⟨hc, hcnt⟩ := asked_counted (w := w) hs hsf
  exact answers_request hr hm rfl hasked (by decide) hc fun t hres hrd hbut ht =>
    ⟨hres, (hrd _ (bank_ne (by decide))).trans hcnt, hbut, ht⟩

/-- R257: a new state that waits already takes its place, with the new owner. -/
theorem request_joined (hs : s.Canonical) (hr : Reaches w 9 s) (hm : s.may w 12 e .use = true) (hl : PubLive e s)
    (hmay : s.pubMay e = true) (hfirst : (s.passNo w.slice).2 = false)
    (hwaits : s.pubQ.any (fun r => r.entry == e.val && !r.refresh) = true) :
    Answers (.pubReqNewState w e) s fun t =>
      t.pubQ = s.pubQ.map (fun r => if r.entry = e.val ∧ r.refresh = false
        then { r with owner := some (w.slice.val, (s.passNo w.slice).1) } else r) ∧
      t.rd (bank w.master PUB_REQ_STAT) = 0 ∧ RegsBut [bank w.master PUB_REQ_STAT, PUB_ENT_STAT e] s t ∧
      t = { s with regs := t.regs, reply := t.reply, pubQ := t.pubQ } := by
  have hok := regsOk_ok (w := w) hs
  have hmay' : (s.ok w).pubMay e = true := hmay
  have hwaits' : (s.ok w).pubQ.any (fun r => r.entry == e.val && !r.refresh) = true := hwaits
  have hasked : s.pubAsked w e false =
      ({ (s.ok w).setBit (PUB_ENT_STAT e) 1 false with
          pubQ := (s.ok w).pubQ.map fun r => if r.entry = e.val ∧ r.refresh = false
            then { r with owner := some (w.slice.val, (s.passNo w.slice).1) } else r }, 0) :=
    (pubRequest_live hok hl).trans ((if_neg (by simp [hfirst])).trans ((if_neg (by simp [hmay'])).trans
      (if_pos (by simpa using hwaits'))))
  refine answers_request hr hm rfl hasked (by decide) (rs := [PUB_ENT_STAT e])
    ⟨regsOk_setBit (regsOk_ok (w := w) hs), RegsBut.setReg (RegsBut.of_regs rfl) (by simp), rfl⟩ fun t hres _ hbut ht =>
    ⟨by rw [ht]; rfl, hres, hbut, by rw [ht]⟩

/-- R251, R252: a request that nothing stops enters the queue. -/
theorem request_queued (hs : s.Canonical) (hr : Reaches w 9 s) (hm : s.may w 12 e .use = true) (hl : PubLive e s)
    (hmay : s.pubMay e = true) (hroom : s.pubQ.length < 64) {i : Instr} {new : Bool}
    (hexec : exec i s = .next (s.pubReqWrite w e !new))
    (hnew : new = true → (s.passNo w.slice).2 = false ∧ s.pubQ.any (fun r => r.entry == e.val && !r.refresh) = false) :
    Answers i s fun t =>
      (∃ a b, s.pubQ = a ++ b ∧ (∀ y ∈ a, s.fld (PUB_ENT_CFG e) 25 23 ≤ s.fld (PUB_ENT_CFG y.entry) 25 23) ∧
        (∀ y, b.head? = some y → s.fld (PUB_ENT_CFG y.entry) 25 23 < s.fld (PUB_ENT_CFG e) 25 23) ∧
        t.pubQ = a ++ [{ entry := e, refresh := !new, sec := s.time.sec, ns := s.time.ns, tq := timeQuality s.syncClass
                         owner := some (w.slice.val, (s.passNo w.slice).1) }] ++ b) ∧
      t.rd (bank w.master PUB_REQ_STAT) = 0 ∧ t.bit (PUB_ENT_STAT e) 2 = true ∧
      (new = true → t.lastOwner e = some (w.slice.val, (s.passNo w.slice).1)) ∧
      RegsBut [bank w.master PUB_REQ_STAT, PUB_ENT_STAT e] s t ∧
      t = { s with regs := t.regs, reply := t.reply, pubQ := t.pubQ } := by
  let u := (s.ok w).setBit (PUB_ENT_STAT e) 1 false
  let r : PubReq := { entry := e, refresh := !new, sec := s.time.sec, ns := s.time.ns, tq := timeQuality s.syncClass
                      owner := some (w.slice.val, (s.passNo w.slice).1) }
  have hu : u.RegsOk := regsOk_setBit (regsOk_ok hs)
  have hmay' : (s.ok w).pubMay e = true := hmay
  have hroom' : ¬64 ≤ (s.ok w).pubQ.length := Nat.not_le.mpr hroom
  have hfree : new = true → (s.ok w).pubQ.any (fun r => r.entry == e.val && !r.refresh) = false := fun h => (hnew h).2
  have hagain : ¬(!!new && (s.passNo w.slice).2 && true &&
      (s.ok w).lastOwner e == some (w.slice.val, (s.passNo w.slice).1)) = true := by
    cases new with
    | false => simp
    | true => simp [(hnew rfl).1]
  have hjoins : ¬(!!new && (s.ok w).pubQ.any fun r => r.entry == e.val && !r.refresh) = true := by
    cases new with
    | false => simp
    | true => rw [hfree rfl]; decide
  have hasked : s.pubAsked w e (!new) = (u.pubPush r, 0) :=
    (pubRequest_live (regsOk_ok hs) hl).trans ((if_neg hagain).trans ((if_neg (by simp [hmay'])).trans
      ((if_neg hjoins).trans (if_neg hroom'))))
  have hfld (k : Nat) : u.fld (PUB_ENT_CFG k) 25 23 = s.fld (PUB_ENT_CFG k) 25 23 := by
    rw [fld, rd_setBit_ne (by unfold PUB_ENT_CFG PUB_ENT_STAT; omega), ok_rd, fld]
  obtain ⟨a, b, hq, hbefore, hbehind, hpush⟩ := pubPush_splits r u
  simp only [hfld] at hbefore hbehind
  refine answers_request hr hm hexec hasked (by decide) (rs := [PUB_ENT_STAT e])
    ⟨regsOk_setBit hu, RegsBut.setReg (RegsBut.setReg (.of_regs rfl) (by simp)) (by simp [r]), rfl⟩
    fun t hres hrd hbut ht => ?_
  have htq : t.pubQ = a ++ [r] ++ b := by rw [ht]; exact hpush
  refine ⟨⟨a, b, hq, hbefore, hbehind, htq⟩, hres, ?_, fun h => ?_, hbut, by rw [ht]⟩
  · rw [bit, hrd _ (bank_ne (by have := e.isLt; unfold PUB_ENT_STAT; omega))]
    exact bit_setBit_same hu (by decide)
  · have hnone := hfree h
    rw [show (s.ok w).pubQ = a ++ b from hq, List.any_append, Bool.or_eq_false_iff] at hnone
    exact lastOwner_of_queued hnone.1 rfl (congrArg (!·) h) htq

end

/-- Settles O30: a request that is not admitted by the first ground, any other by its ground among those that come after. -/
theorem publisherRequests : Obligations.PublisherRequests := by
  unfold Obligations.PublisherRequests
  intro w e s hs hr hm
  dsimp only
  refine ⟨fun he => each_request fun i refresh hexec => request_unchecked hs hr hm hexec (.inl he),
    fun hcfg => each_request fun i refresh hexec => request_unchecked hs hr hm hexec (.inr hcfg),
    request_repeated hs hr hm, refresh_withheld hs hr hm, refresh_full hs hr hm,
    fun hctl => each_request fun i refresh hexec => request_dead hs hr hm hexec (.inr (.inl hctl)) fun t hres _ ht => ⟨hres, ht⟩,
    fun he hcfg hbad => each_request fun i refresh hexec => request_dead hs hr hm hexec (.inr (.inr (.inr hbad))) fun t hres hrd ht =>
      ⟨hres, ?_, ht⟩, request_joined hs hr hm, ?_⟩
  · rw [bit, hrd _ (bank_ne (by have := e.isLt; unfold PUB_ENT_STAT; omega)), pubChecked, if_pos ⟨hcfg, he⟩]
    exact (bit_pubCheck (regsOk_ok hs)).trans hbad
  · intro x hx hnew hlive hmay hroom
    rcases List.mem_cons.mp hx with rfl | hx
    · exact request_queued hs hr hm hlive hmay hroom rfl hnew
    · obtain rfl := List.mem_singleton.mp hx
      exact request_queued hs hr hm hlive hmay hroom rfl hnew

end Sys2Proof.Machine
end

section
/-!
PROOF. Port writes and the watches of a point (R237, R239, R240, R243, R332).
-/

namespace Sys2Proof.Machine

open Sys2Proof.Claims

namespace State

variable {w : Who} {s : State}

/-! ### The record of a port write (R237, R239) -/

/-- The value that the bank of `w` holds for the write port. -/
def portVal (w : Who) (s : State) : Nat := s.rd (bank w.master PTS_WP_VAL_LO) + 2 ^ 32 * s.rd (bank w.master PTS_WP_VAL_HI)

/-- Its quality. -/
def portQual (w : Who) (s : State) : Nat := s.fld (bank w.master PTS_WP_QUAL) 7 0

/-- The words of the record that the command `v` of the write port stores. -/
def portRecord (w : Who) (v : Nat) (s : State) : List Nat :=
  [s.portVal w % 2 ^ 32, s.portVal w / 2 ^ 32 % 2 ^ 32, s.portQual w % 2 ^ 8 + bits v 26 23 % 16 * 2 ^ 8 + w.slice.val * 2 ^ 16,
    (s.pointTime w (bitAt v 27)).2, (s.pointTime w (bitAt v 27)).1 % 2 ^ 32,
    (s.pointTime w (bitAt v 27)).1 / 2 ^ 32 % 2 ^ 16 + timeQuality s.syncClass * 2 ^ 16, (s.passNo w.slice).1,
    (s.pointWord (bits v 22 0) 7 + 1) % 2 ^ 31 + 2 ^ 31]

theorem portRecord_length (v : Nat) : (s.portRecord w v).length = 8 := rfl

/-- The state once the record is stored and the write counted, before the point's watches see it. -/
def portStored (w : Who) (v : Nat) (s : State) : State :=
  (((s.ok w).dmaWords (s.pointAt (bits v 22 0)) (s.portRecord w v)).setReg (bank w.master PTS_WP_STAT) 0).inc PTS_WRITES

theorem portWrite_off (v : Nat) (hr : Reaches w 8 s) (hm : s.may w 4 (bits v 22 0) .wr = true)
    (h : s.bit PTS_CTL 0 = false ∨ s.memOn (s.pointAt (bits v 22 0)) = false) :
    s.portWrite w v = (s.ok w).setReg (bank w.master PTS_WP_STAT) 2 :=
  (gateGrant_open hr.1 (show s.blkOn (blkOf PTS_WP_CMD) = true from hr.2) hm).trans (if_pos h)

theorem portWrite_on (v : Nat) (hr : Reaches w 8 s) (hm : s.may w 4 (bits v 22 0) .wr = true) (hon : s.bit PTS_CTL 0 = true)
    (hmem : s.memOn (s.pointAt (bits v 22 0)) = true) :
    s.portWrite w v = (s.portStored w v).each ((s.portStored w v).watchesOf (bits v 22 0))
      (watchEval (bits v 26 23) (s.portVal w) (s.portQual w)) :=
  (gateGrant_open hr.1 (show s.blkOn (blkOf PTS_WP_CMD) = true from hr.2) hm).trans
    ((if_neg (by rintro (h | h); exacts [Bool.false_ne_true (h.symm.trans hon), Bool.false_ne_true (h.symm.trans hmem)])).trans rfl)

/-- `t` is `s` after the port write `v` of `w` stored its record. -/
structure PortStored (w : Who) (v : Nat) (s t : State) : Prop where
  regsOk  : t.RegsOk
  word    : ∀ i (hi : i < 8), t.ld (s.pointAt (bits v 22 0) + 4 * i) 4 = (s.portRecord w v)[i] % 2 ^ 32
  outside : ∀ x, x < s.pointAt (bits v 22 0) ∨ s.pointAt (bits v 22 0) + 32 ≤ x → t.rdByte x = s.rdByte x
  stat    : t.rd (bank w.master PTS_WP_STAT) = 0
  writes  : t.rd PTS_WRITES = incSat 32 (s.rd PTS_WRITES)
  regs    : RegsBut [bank w.master PTS_WP_STAT, PTS_WRITES] s t
  noted   : Noted s t
  only    : t = { s with regs := t.regs, reply := t.reply, mem := t.mem, poison := t.poison, slices := t.slices, red := t.red }

theorem PortStored.of_words {v : Nat} {u : State} (hd : WordsStored (s.pointAt (bits v 22 0)) (s.portRecord w v) (s.ok w) u) :
    PortStored w v s ((u.setReg (bank w.master PTS_WP_STAT) 0).inc PTS_WRITES) := by
  have hpw : PTS_WRITES ≠ bank w.master PTS_WP_STAT := bank_ne (by decide)
  have hrd (a : Nat) : u.rd a = s.rd a := rd_congr hd.regs a
  have hu := hd.canon.regsOk
  exact {
    regsOk := regsOk_inc (regsOk_setReg hu)
    word := hd.word
    outside := fun x hx => hd.outside x (by rw [portRecord_length]; exact hx)
    stat := by rw [rd_inc_ne hpw.symm, rd_setReg_same hu]; rfl
    writes := by rw [rd_inc_same (regsOk_setReg hu), rd_setReg_ne hpw, hrd]
    regs := RegsBut.setReg (RegsBut.setReg (fun a _ => hrd a) (by simp)) (by simp)
    noted := noted_congr (noted_since (t := s.ok w) hd.noted rfl rfl) rfl rfl
    only := by
      rw [hd.only]
      rfl }

theorem portStored_stored (hs : s.Canonical) (v : Nat) : PortStored w v s (s.portStored w v) :=
  .of_words (dmaWords_stored ((ok_kept (.refl s)).canonical hs) _ _)

/-! ### A watch that sees the write (R243) -/

/-- The registers a request of entry `e` may write. -/
def requestWork (e : Nat) : List Nat := [PUB_ENT_STAT e, PUB_ENT_EVT e, PUB_REPEAT, PUB_NOMANDATE, PUB_REQ_FULL]

/-- A request writes the publisher's registers `rs` and its queue alone. -/
structure Requested (rs : List Nat) (s t : State) : Prop where
  regs : RegsBut rs s t
  only : t = { s with regs := t.regs, pubQ := t.pubQ }

theorem Requested.setReg {rs : List Nat} {t : State} {a v : Nat} (h : Requested rs s t) (ha : a ∈ rs) : Requested rs s (t.setReg a v) :=
  ⟨h.regs.setReg ha, by rw [h.only]; rfl⟩

theorem Requested.queue {rs : List Nat} {t : State} (h : Requested rs s t) (q : List PubReq) : Requested rs s { t with pubQ := q } :=
  ⟨h.regs, by rw [h.only]⟩

theorem pubRequest_requested (s : State) (e : Nat) (refresh restarted : Bool) (owner : Option (Nat × Nat)) :
    Requested (requestWork e) s (s.pubRequest e refresh restarted owner).1 := by
  have hc : Requested (requestWork e) s (s.pubChecked e) := by
    obtain ⟨hregs, honly⟩ := pubChecked_regs s e
    exact ⟨hregs.mono (by simp [requestWork]), by rw [honly]⟩
  unfold pubRequest
  extract_lets u
  change Requested _ _ u at hc
  split
  · exact hc
  · split
    · exact (hc.setReg (by simp [requestWork])).setReg (by simp [requestWork])
    · split
      · exact hc.setReg (by simp [requestWork])
      · split
        · dsimp only
          split
          · exact hc.queue _
          · exact hc
        · split
          · exact hc.setReg (by simp [requestWork])
          · exact Requested.setReg (hc.queue _) (by simp [requestWork])

/-- What a watch `k` of a point triggers on: a write of value `v`, type `ty` and quality `q`. -/
def WatchHit (ty v q k : Nat) (s : State) : Prop :=
  bits (s.rd (PTS_WATCH_CFG k)) 30 29 ≠ 0 ∧ ((s.watch.at' k).armed = false ∨
    watchValue (bits (s.rd (PTS_WATCH_CFG k)) 30 29) ty (s.rd (PTS_WATCH_DB k)) v (s.watch.at' k).val = true ∨
    bitAt (s.rd (PTS_WATCH_CFG k)) 28 = true ∧ q ≠ (s.watch.at' k).qual)

/-- The state in which a triggered watch has noted the write and counted the change. -/
def watchNoted (v q k : Nat) (s : State) : State :=
  ({ s with watch := s.watch.put k { armed := true, val := v, qual := q } }.inc (PTS_WATCH_CNT k)).inc PTS_CHANGES

theorem watchEval_hit {ty v q k : Nat} (h : WatchHit ty v q k s) :
    s.watchEval ty v q k = ((s.watchNoted v q k).pubRequest (bits (s.rd (PTS_WATCH_CFG k)) 7 0) false false none).1 := by
  refine if_pos ?_
  unfold WatchHit at h
  simpa [or_assoc] using h

theorem watchEval_idle {ty v q k : Nat} (h : ¬WatchHit ty v q k s) : s.watchEval ty v q k = s := by
  refine if_neg fun hhit => h ?_
  unfold WatchHit
  simpa [or_assoc] using hhit

/-- The registers of a watch and of the points' store are none of those a request writes. -/
theorem watch_not_requested {k : Nat} (hk : k < 4096) (x : Nat) :
    ∀ a ∈ [PTS_WRITES, PTS_CHANGES, PTS_WATCH_CNT k, PTS_BASE_LO, PTS_BASE_LO + 4], a ∉ requestWork (bits x 7 0) := by
  have he : bits x 7 0 < 256 := bits_lt _ _ _
  simp only [requestWork, List.mem_cons, List.not_mem_nil, or_false, PTS_WRITES, PTS_CHANGES, PTS_WATCH_CNT, PTS_BASE_LO,
    PUB_ENT_STAT, PUB_ENT_EVT, PUB_REPEAT, PUB_NOMANDATE, PUB_REQ_FULL]
  omega

/-- A triggered watch: the write noted, the change counted, memory and the rest of the points' store as before. -/
theorem watchEval_triggers {ty v q k : Nat} (hok : s.RegsOk) (hk : k < 4096) (h : WatchHit ty v q k s) :
    let t := s.watchEval ty v q k
    t.rd (PTS_WATCH_CNT k) = incSat 32 (s.rd (PTS_WATCH_CNT k)) ∧ t.rd PTS_CHANGES = incSat 32 (s.rd PTS_CHANGES) ∧
    t.watch = s.watch.put k { armed := true, val := v, qual := q } ∧ t.mem = s.mem ∧
    ∀ a ∈ [PTS_WRITES, PTS_BASE_LO, PTS_BASE_LO + 4], t.rd a = s.rd a := by
  obtain ⟨hregs, honly⟩ := pubRequest_requested (s.watchNoted v q k) (bits (s.rd (PTS_WATCH_CFG k)) 7 0) false false none
  have hapart := watch_not_requested hk (s.rd (PTS_WATCH_CFG k))
  have hcc : PTS_WATCH_CNT k ≠ PTS_CHANGES := by unfold PTS_WATCH_CNT PTS_CHANGES; omega
  have hok1 : (inc (PTS_WATCH_CNT k) { s with watch := s.watch.put k { armed := true, val := v, qual := q } }).RegsOk := regsOk_inc hok
  dsimp only
  rw [watchEval_hit h]
  refine ⟨?_, ?_, by rw [honly]; rfl, by rw [honly]; rfl, fun a ha => ?_⟩
  · rw [hregs _ (hapart _ (by simp)), watchNoted, rd_inc_ne hcc]
    exact rd_inc_same (s := { s with watch := _ }) hok
  · rw [hregs _ (hapart _ (by simp)), watchNoted, rd_inc_same hok1, rd_inc_ne hcc.symm]
    rfl
  · have hne : a ≠ PTS_WATCH_CNT k ∧ a ≠ PTS_CHANGES := by
      simp only [List.mem_cons, List.not_mem_nil, or_false, PTS_WRITES, PTS_BASE_LO] at ha
      unfold PTS_WATCH_CNT PTS_CHANGES
      omega
    rw [hregs _ (hapart _ (by simp only [List.mem_cons] at ha ⊢; tauto)), watchNoted, rd_inc_ne hne.2, rd_inc_ne hne.1]
    rfl

/-! ### The point after the write -/

namespace PortStored

variable {v : Nat} {t u : State}

/-- A register that is neither the bank's result nor the count of writes is as before. -/
theorem rd_of_low (h : PortStored w v s t) {a : Nat} (ha : a < 2 ^ 44) (hw : a ≠ PTS_WRITES) : t.rd a = s.rd a :=
  h.regs a (by simp [bank_ne ha, hw])

theorem pointWord (h : PortStored w v s t) (hmem : u.mem = t.mem) (hbase : ∀ a ∈ [PTS_BASE_LO, PTS_BASE_LO + 4], u.rd a = t.rd a)
    {i : Nat} (hi : i < 8) : u.pointWord (bits v 22 0) i = (s.portRecord w v)[i]'hi % 2 ^ 32 := by
  have hlo : u.rd PTS_BASE_LO = s.rd PTS_BASE_LO := (hbase _ (by simp)).trans (h.rd_of_low (by decide) (by decide))
  have hhi : u.rd (PTS_BASE_LO + 4) = s.rd (PTS_BASE_LO + 4) := (hbase _ (by simp)).trans (h.rd_of_low (by decide) (by decide))
  have hat : u.pointAt (bits v 22 0) = s.pointAt (bits v 22 0) := by
    unfold pointAt base fld
    rw [hlo, hhi]
  rw [State.pointWord, hat, ld_congr_mem hmem]
  exact h.word i hi

theorem pointVal (h : PortStored w v s t) (hmem : u.mem = t.mem) (hbase : ∀ a ∈ [PTS_BASE_LO, PTS_BASE_LO + 4], u.rd a = t.rd a) :
    u.pointVal (bits v 22 0) = s.portVal w := by
  rw [State.pointVal, h.pointWord hmem hbase (i := 0) (by decide), h.pointWord hmem hbase (i := 1) (by decide)]
  have hlo := s.rd_lt (bank w.master PTS_WP_VAL_LO)
  have hhi := s.rd_lt (bank w.master PTS_WP_VAL_HI)
  simp only [portRecord, portVal, List.getElem_cons_zero, List.getElem_cons_succ]
  omega

/-- The same watches see the write as were enabled before it. -/
theorem watchesOf (h : PortStored w v s t) (p : Nat) : t.watchesOf p = s.watchesOf p := by
  refine List.filter_congr fun k hk => ?_
  have hk := List.mem_range.mp hk
  rw [bit, fld, h.rd_of_low (by unfold PTS_WATCH_CFG; omega) (by unfold PTS_WATCH_CFG PTS_WRITES; omega),
    h.rd_of_low (by unfold PTS_WATCH_PT; omega) (by unfold PTS_WATCH_PT PTS_WRITES; omega), bit, fld]

theorem watch (h : PortStored w v s t) : t.watch = s.watch := by rw [h.only]

/-- A watch triggers on what stood before the write. -/
theorem watchHit_iff (h : PortStored w v s t) {ty x q k : Nat} (hk : k < 4096) : WatchHit ty x q k t ↔ WatchHit ty x q k s := by
  unfold WatchHit
  rw [h.watch, h.rd_of_low (by unfold PTS_WATCH_CFG; omega) (by unfold PTS_WATCH_CFG PTS_WRITES; omega),
    h.rd_of_low (by unfold PTS_WATCH_DB; omega) (by unfold PTS_WATCH_DB PTS_WRITES; omega)]

end PortStored

theorem lt_of_mem_watchesOf {p k : Nat} (h : k ∈ s.watchesOf p) : k < 4096 := List.mem_range.mp (List.mem_filter.mp h).1

end State

open State

section

variable {w : Who} {v : Word} {s : State}

/-- A write that the store takes: its record stored and counted, then seen by the watches of its point. -/
theorem portWrite_answers {P : State → Prop} (hs : s.Canonical) (hr : Reaches w 8 s) (hm : s.may w 4 (bits v.toNat 22 0) .wr = true)
    (hon : s.bit PTS_CTL 0 = true) (hmem : s.memOn (s.pointAt (bits v.toNat 22 0)) = true)
    (hP : ∀ t, PortStored w v.toNat s t →
      P (t.each (s.watchesOf (bits v.toNat 22 0)) (State.watchEval (bits v.toNat 26 23) (s.portVal w) (s.portQual w)))) :
    Answers (.portWrite w v) s P := by
  have hst := portStored_stored (w := w) hs v.toNat
  refine .of_exec rfl (portWrite_on v.toNat hr hm hon hmem) ?_
  rw [hst.watchesOf]
  exact hP _ hst

/-- R240: while the store is off, the result is 2. -/
theorem portWrite_refused (hs : s.Canonical) (hr : Reaches w 8 s) (hm : s.may w 4 (bits v.toNat 22 0) .wr = true)
    (h : s.bit PTS_CTL 0 = false ∨ s.memOn (s.pointAt (bits v.toNat 22 0)) = false) : Answers (.portWrite w v) s fun t =>
      t.rd (bank w.master PTS_WP_STAT) = 2 ∧ Wrote [bank w.master PTS_WP_STAT] s t :=
  .of_exec rfl (portWrite_off v.toNat hr hm h) ⟨rd_setReg_same (regsOk_ok hs), RegsBut.setReg (.of_regs rfl) (by simp), rfl⟩

end

/-- Settles O27: the record's words, then the watches of the point. -/
theorem portWrites : Obligations.PortWrites := by
  unfold Obligations.PortWrites
  intro w v s hs hr
  dsimp only
  intro hm
  refine ⟨portWrite_refused hs hr hm, fun hon hmem => ⟨fun hnone => ?_, fun k hone => ?_⟩⟩
  · refine portWrite_answers hs hr hm hon hmem fun t ht => ?_
    rw [hnone]
    have hword (i : Nat) (hi : i < 8) := ht.pointWord rfl (fun _ _ => rfl) hi
    have hq : s.portQual w < 2 ^ 8 := s.fld_lt _ 7 0
    have hty : bits v.toNat 26 23 < 2 ^ 4 := bits_lt _ 26 23
    have hsl := w.slice.isLt
    refine ⟨ht.pointVal rfl fun _ _ => rfl, (hword 2 (by decide)).trans ?_, hword 3 (by decide), (hword 4 (by decide)).trans ?_,
      (hword 7 (by decide)).trans (Nat.mod_eq_of_lt (show (_ : Nat) % 2 ^ 31 + 2 ^ 31 < 2 ^ 32 by omega)),
      ht.outside, ht.stat, ht.writes, ht.regs, ht.noted, ht.only⟩
    · change (s.portQual w % 2 ^ 8 + bits v.toNat 26 23 % 16 * 2 ^ 8 + w.slice.val * 2 ^ 16) % 2 ^ 32 =
        s.portQual w + bits v.toNat 26 23 * 2 ^ 8 + w.slice.val * 2 ^ 16
      omega
    · exact Nat.mod_mod _ _
  · have hk : k < 4096 := lt_of_mem_watchesOf (s := s) (hone ▸ List.mem_singleton_self k)
    refine ⟨fun hhit => portWrite_answers hs hr hm hon hmem fun t ht => ?_,
      fun hidle => portWrite_answers hs hr hm hon hmem fun t ht => ?_⟩
    · rw [hone]
      obtain ⟨hcnt, hchanges, hwatch, hmemEq, hrd⟩ := watchEval_triggers ht.regsOk hk ((ht.watchHit_iff hk).mpr hhit)
      refine ⟨(hrd _ (by simp)).trans ht.writes, hcnt.trans ?_, hchanges.trans ?_, by rw [← ht.watch]; exact hwatch,
        ht.pointVal hmemEq fun a ha => hrd a (List.mem_cons_of_mem _ ha)⟩
      · rw [ht.rd_of_low (by unfold PTS_WATCH_CNT; omega) (by unfold PTS_WATCH_CNT PTS_WRITES; omega)]
      · rw [ht.rd_of_low (by decide) (by decide)]
    · rw [hone]
      have hsame : t.each [k] (State.watchEval (bits v.toNat 26 23) (s.portVal w) (s.portQual w)) = t :=
        watchEval_idle ((ht.watchHit_iff hk).not.mpr hidle)
      rw [hsame]
      exact ⟨ht.writes, ht.watch, by rw [ht.only], ht.regs, ht.pointVal rfl fun _ _ => rfl⟩

end Sys2Proof.Machine
end

section
/-!
PROOF. The switch leaves what stands beside it alone: the publisher's entries and the registers of the other blocks below its own
(R258, R276). One lemma per operation on the way of a frame that enters it.
-/

namespace Sys2Proof.Machine.State

variable {s : State}

/-- What stands beside the switch: the publisher's entries and the registers below the switch's own. -/
def beside (s : State) : FMap PubEnt × (Nat → Nat) := (s.pub, fun a => if a < SWC_IDENT then s.rd a else 0)

theorem pub_of_beside {t : State} (h : t.beside = s.beside) : t.pub = s.pub := congrArg Prod.fst h

theorem rd_of_beside {t : State} (h : t.beside = s.beside) {a : Nat} (ha : a < SWC_IDENT) : t.rd a = s.rd a := by
  have hrd : (if a < SWC_IDENT then t.rd a else 0) = if a < SWC_IDENT then s.rd a else 0 := congrFun (congrArg Prod.snd h) a
  rwa [if_pos ha, if_pos ha] at hrd

/-! ### Composition -/

theorem each_beside {α : Type} {l : List α} {f : α → State → State} (hf : ∀ x t, (f x t).beside = t.beside) :
    (s.each l f).beside = s.beside :=
  each_invariant (P := fun t => t.beside = s.beside) rfl fun x _ t ht => (hf x t).trans ht

theorem when_beside {c : Bool} {f : State → State} (hf : ∀ t, (f t).beside = t.beside) : (s.when c f).beside = s.beside := by
  unfold State.when
  split
  · exact hf s
  · rfl

/-- The state of a pair that an operation answers. -/
theorem beside_of_pair {β : Type} {x : State × β} {t : State} {y : β} (h : x = (t, y)) : t.beside = x.1.beside := by rw [h]

theorem foldlPair_beside {α β : Type} {l : List α} {f : State × β → α → State × β} {a : State × β}
    (hf : ∀ x y, (f x y).1.beside = x.1.beside) : (l.foldl f a).1.beside = a.1.beside := by
  induction l generalizing a with
  | nil => rfl
  | cons y l ih => exact ih.trans (hf a y)

/-! ### Memory and registers -/

theorem setReg_beside {a v : Nat} (h : SWC_IDENT ≤ a) : (s.setReg a v).beside = s.beside := by
  refine Prod.ext rfl (funext fun b => ?_)
  show (if b < SWC_IDENT then (s.setReg a v).rd b else 0) = if b < SWC_IDENT then s.rd b else 0
  split
  · rw [rd_setReg_ne (by omega)]
  · rfl

theorem inc_beside {a : Nat} (h : SWC_IDENT ≤ a) : (s.inc a).beside = s.beside := setReg_beside h

@[simp] theorem modSl_beside {n : Nat} {f : Slice → Slice} : (s.modSl n f).beside = s.beside := rfl
@[simp] theorem modSwc_beside {f : Switch → Switch} : (s.modSwc f).beside = s.beside := rfl
@[simp] theorem emit_beside {o : Output} : (s.emit o).beside = s.beside := rfl

@[simp] theorem wrBytes_beside {a : Nat} {l : List Byte} : (s.wrBytes a l).beside = s.beside := by
  rw [show s.wrBytes a l = _ from OnlyMem.wrBytes]
  rfl

@[simp] theorem stWords_beside {a : Nat} {l : List Nat} : (s.stWords a l).beside = s.beside := by
  rw [show s.stWords a l = _ from OnlyMem.stWords]
  rfl

@[simp] theorem trackWrite_beside {a k : Nat} : (s.trackWrite a k).beside = s.beside :=
  each_beside fun n t => by
    split
    · rfl
    · exact modSl_beside

@[simp] theorem markBlocks_beside {a k : Nat} : (s.markBlocks a k).beside = s.beside := by
  unfold markBlocks
  extract_lets b lo hi
  split
  · exact each_beside fun _ _ => rfl
  · rfl

@[simp] theorem wrote_beside {a k : Nat} : (s.wrote a k).beside = s.beside := by
  rw [wrote, markBlocks_beside, trackWrite_beside]

@[simp] theorem dma_beside {a : Nat} {l : List Byte} : (s.dma a l).beside = s.beside := by
  rw [dma, wrBytes_beside, wrote_beside]

@[simp] theorem dmaWords_beside {a : Nat} {l : List Nat} : (s.dmaWords a l).beside = s.beside := by
  rw [dmaWords, stWords_beside, wrote_beside]

@[simp] theorem macSent_beside {p len : Nat} : (s.macSent p len).beside = s.beside := by
  unfold macSent setReg64
  extract_lets t
  have ht : t.beside = s.beside := by
    unfold t
    rw [setReg_beside (by unfold MAC_TX_OCT_LO SWC_IDENT; omega), setReg_beside (by unfold MAC_TX_OCT_LO SWC_IDENT; omega),
      inc_beside (by unfold MAC_TX_FRAMES SWC_IDENT; omega)]
  exact ht

@[simp] theorem wakePort_beside {p : Nat} : (s.wakePort p).beside = s.beside := by
  unfold wakePort
  split
  · exact setReg_beside (by unfold MAC_STAT SWC_IDENT; omega)
  · rfl

@[simp] theorem directEnd_beside {p : Nat} : (s.directEnd p).beside = s.beside := by
  unfold directEnd
  split
  · split
    · exact macSent_beside
    · rfl
  · rfl

@[simp] theorem showQ_beside {p q : Nat} : (s.showQ p q).beside = s.beside :=
  setReg_beside (by unfold SWC_Q_STAT SWC_IDENT; omega)

@[simp] theorem setQ_beside {p q : Nat} {l : List SwFrame} : (s.setQ p q l).beside = s.beside := showQ_beside

@[simp] theorem freeCells_beside {f : SwFrame} : (s.freeCells f).beside = s.beside := setReg_beside (by decide)

@[simp] theorem writeBack_beside {id status port ts : Nat} : (s.writeBack id status port ts).beside = s.beside := by
  unfold writeBack
  extract_lets a w2 t
  rw [dmaWords_beside]
  exact dmaWords_beside

@[simp] theorem descDone_beside {id : Nat} : (s.descDone id).beside = s.beside := by
  unfold descDone
  extract_lets d a st t
  split
  · rfl
  · generalize lowestPort d.sent = x
    obtain ⟨p, sent⟩ := x
    dsimp -zeta only
    extract_lets ts
    rw [writeBack_beside, modSwc_beside]
    unfold t
    split <;> rfl

@[simp] theorem descNote_beside {f : SwFrame} {note : TxDesc → TxDesc} : (s.descNote f note).beside = s.beside := by
  unfold descNote
  split
  · rfl
  · rw [descDone_beside, modSwc_beside]

@[simp] theorem swAdmit_beside {p q : Nat} {f : SwFrame} : (s.swAdmit p q f).1.beside = s.beside := by
  unfold swAdmit
  split
  · rw [descNote_beside, inc_beside (by unfold SWC_PORT_DOWN_CNT SWC_IDENT; omega)]
  · split
    · rw [descNote_beside, inc_beside (by unfold SWC_Q_ADMIT_DROP SWC_IDENT; omega)]
    · rw [wakePort_beside, setQ_beside, setReg_beside (by decide)]

@[simp] theorem rxRing_beside {r selv : Nat} {octets : List Byte} : (s.rxRing r octets selv).beside = s.beside := by
  unfold rxRing
  extract_lets cfg h a w1 buf t u
  split
  · exact inc_beside (by unfold SWC_RXR_NODESC SWC_IDENT; omega)
  · rw [inc_beside (by unfold SWC_RXR_FRAMES SWC_IDENT; omega), setReg_beside (by unfold SWC_RXR_HEAD SWC_IDENT; omega)]
    unfold u t
    simp only [dmaWords_beside, dma_beside]

@[simp] theorem tcCorrect_beside {p : Nat} {f : SwFrame} : (s.tcCorrect p f).1.beside = s.beside := by
  unfold tcCorrect
  extract_lets
  split
  · rfl
  · split
    · exact inc_beside (by decide)
    · split
      · split <;> rfl
      · split
        · split
          · exact (inc_beside (by decide)).trans modSwc_beside
          · exact inc_beside (by decide)
        · rfl

@[simp] theorem txEnd_beside {p : Nat} : (s.txEnd p).beside = s.beside := by
  unfold txEnd
  split
  · split
    · rw [descNote_beside, when_beside fun _ => inc_beside (by unfold MAC_TX_BADFCS SWC_IDENT; omega),
        inc_beside (by unfold SWC_Q_TX SWC_IDENT; omega), macSent_beside, showQ_beside, freeCells_beside, modSwc_beside]
    · rfl
  · rfl

@[simp] theorem txStart_beside {p q : Nat} {f : SwFrame} : (s.txStart p q f).beside = s.beside := by
  unfold txStart
  extract_lets ts
  split
  next t l hcorr =>
    extract_lets o u v rest
    rw [showQ_beside, modSwc_beside]
    have hv : v.beside = u.beside := by
      unfold v
      split
      · rw [modSwc_beside]
      · rfl
    rw [hv, emit_beside, beside_of_pair hcorr, tcCorrect_beside]

@[simp] theorem deliver_beside {p q : Nat} {f : SwFrame} : (s.deliver p q f).beside = s.beside := by
  unfold deliver
  extract_lets t sv u v
  have ht : t.beside = s.beside := by
    unfold t
    rw [inc_beside (by unfold SWC_Q_TX SWC_IDENT; omega), showQ_beside, freeCells_beside]
  have hu : u.beside = t.beside := by
    unfold u
    split <;> rfl
  rw [descNote_beside]
  unfold v
  split
  · rw [rxRing_beside, hu, ht]
  · rw [emit_beside, hu, ht]

@[simp] theorem sendHead_beside {p : Nat} : (s.sendHead p).beside = s.beside := by
  unfold sendHead
  split
  · rfl
  · split
    · rfl
    · extract_lets t
      split
      · rw [txStart_beside, setQ_beside]
      · rw [deliver_beside, setQ_beside]

@[simp] theorem hcWrite_beside {c selv idx gap lost seq : Nat} {head : List Byte} :
    (s.hcWrite c head selv idx gap lost seq).beside = s.beside := by
  unfold hcWrite
  extract_lets wr a t u
  rw [when_beside fun _ => inc_beside (by unfold SWC_HC_CAPT SWC_IDENT; omega), setReg_beside (by unfold SWC_HC_WR SWC_IDENT; omega),
    dmaWords_beside, dma_beside]

@[simp] theorem hcLose_beside {c n : Nat} : (s.hcLose c n).beside = s.beside := by
  unfold hcLose
  extract_lets h g
  rw [inc_beside (by unfold SWC_HC_LOST SWC_IDENT; omega), modSwc_beside]

@[simp] theorem hcDrop_beside {c : Nat} : (s.hcDrop c).beside = s.beside := by
  unfold hcDrop
  extract_lets a n m t
  rw [setReg_beside (by unfold SWC_HC_RD SWC_IDENT; omega)]
  unfold t
  split
  · rw [modSwc_beside]
  · rw [hcLose_beside]

@[simp] theorem hcCapture_beside {c selv idx : Nat} {head : List Byte} : (s.hcCapture c head selv idx).beside = s.beside := by
  unfold hcCapture
  extract_lets cfg h n t u v
  have hv : v.beside = s.beside := by
    unfold v
    split
    · rw [modSwc_beside, hcWrite_beside, modSwc_beside]
    · rw [modSwc_beside]
  split
  · rfl
  · split
    · rw [hcWrite_beside, hv]
    · split
      · rw [hcWrite_beside, hcDrop_beside, hv]
      · rw [hcLose_beside, hv]

@[simp] theorem place_beside {p q : Nat} {cut : Bool} {f : SwFrame} : (s.place p q cut f).1.beside = s.beside := by
  unfold place
  split
  next t ok hroom =>
    have ht : t.beside = s.beside := (beside_of_pair hroom).trans swAdmit_beside
    split
    · rw [sendHead_beside, ht]
    · exact ht

@[simp] theorem portSettle_beside {p : Nat} : (s.portSettle p).beside = s.beside := by
  rw [portSettle, directEnd_beside, txEnd_beside]

@[simp] theorem toExternal_beside {q : Nat} {noCut cross : Bool} {x : Nat × SwFrame} :
    (s.toExternal q noCut cross x).1.beside = s.beside := by
  obtain ⟨p, f⟩ := x
  unfold toExternal
  dsimp -zeta only
  extract_lets t cut
  split
  · rw [descNote_beside, portSettle_beside]
  · split
    · rw [descNote_beside, inc_beside (by unfold SWC_Q_ADMIT_DROP SWC_IDENT; omega), portSettle_beside]
    · exact place_beside.trans portSettle_beside

@[simp] theorem toInternal_beside {q : Nat} {noCut : Bool} {x : Nat × SwFrame} : (s.toInternal q noCut x).1.beside = s.beside := by
  obtain ⟨p, f⟩ := x
  unfold toInternal
  dsimp -zeta only
  extract_lets cut
  split
  · rw [descNote_beside]
  · exact place_beside

theorem placeAll_beside {g : Nat × SwFrame → State → State × Bool × Bool} {l : List (Nat × SwFrame)}
    (hg : ∀ x t, (g x t).1.beside = t.beside) : (s.placeAll g l).1.beside = s.beside :=
  foldlPair_beside fun a x => hg x a.1

@[simp] theorem externals_beside {ports : List Nat} {own : Bool} {inPair : Option Nat} {f : SwFrame} :
    (s.externals ports own inPair f).1.beside = s.beside :=
  each_beside fun _ _ => modSwc_beside

@[simp] theorem forward_beside {d : Decision} {q : Nat} {p : Parsed} {f : SwFrame} {dupLoc dupFwd : Bool} {ring : Option Nat} :
    (s.forward d q p f dupLoc dupFwd ring).1.beside = s.beside := by
  unfold forward
  extract_lets inPair own reserved hsr ports f'
  clear_value inPair
  split
  next t ext hext =>
    have ht : t.beside = s.beside := (beside_of_pair hext).trans externals_beside
    extract_lets ext' ddDrop u ints n e v w
    have hu : u.beside = t.beside := each_beside fun _ _ => by
      split
      · exact inc_beside (by unfold SWC_RED_DUPDROP SWC_IDENT; omega)
      · rfl
    have hv : v.beside = u.beside := by
      unfold v
      split
      · rw [modSwc_beside]
      · rfl
    have hw : w.beside = v.beside := by
      unfold w
      split
      · split
        · rw [descDone_beside]
        · rfl
      · rfl
    split
    next x c1 b1 hx =>
      have hxt : x.beside = w.beside := (beside_of_pair hx).trans (placeAll_beside fun _ _ => toExternal_beside)
      split
      next y c2 b2 hy =>
        have hyt : y.beside = x.beside := (beside_of_pair hy).trans (placeAll_beside fun _ _ => toInternal_beside)
        extract_lets z
        rw [when_beside fun _ => inc_beside (by unfold SWC_PORT_BAD_CNT SWC_IDENT; omega),
          when_beside fun _ => inc_beside (by decide), hyt, hxt, hw, hv, hu, ht]

@[simp] theorem mirrorCopy_beside {f : SwFrame} : (s.mirrorCopy f).beside = s.beside := by
  unfold mirrorCopy
  extract_lets p cfg n t c
  split
  · rfl
  · split
    · rw [modSwc_beside]
    · split
      · rw [inc_beside (by decide), modSwc_beside]
      · split
        · rw [inc_beside (by decide), modSwc_beside]
        · rw [swAdmit_beside, modSwc_beside]

@[simp] theorem decide'_beside {p : Nat} {f : Parsed} : (s.decide' p f).1.beside = s.beside := by
  unfold decide'
  extract_lets t vid k
  have ht : t.beside = s.beside := inc_beside (by decide)
  split
  · extract_lets d
    split
    · exact ht
    · exact (inc_beside (by unfold SWC_PORT_PERMIT_CNT SWC_IDENT; omega)).trans ht
  · exact (inc_beside (by unfold SWC_PORT_MISS_CNT SWC_IDENT; omega)).trans ht

@[simp] theorem switchIn_beside {p err path : Nat} {octets : List Byte} {bad dupLoc dupFwd : Bool} {given desc ring : Option Nat} :
    (s.switchIn p octets err path bad given desc dupLoc dupFwd ring).beside = s.beside := by
  unfold switchIn
  extract_lets pf f
  split
  next t d hdecide =>
    have ht : t.beside = s.beside := (beside_of_pair hdecide).trans decide'_beside
    extract_lets q
    split
    next u cut hforward =>
      have hu : u.beside = t.beside := (beside_of_pair hforward).trans forward_beside
      extract_lets v
      have hv : v.beside = u.beside := mirrorCopy_beside
      split
      · rw [hcCapture_beside, hv, hu, ht]
      · rw [hv, hu, ht]

@[simp] theorem feed_beside {p : Nat} {x : Ingress} : (s.feed p x).beside = s.beside := by
  unfold feed
  split
  · rw [switchIn_beside]
  · extract_lets f e t
    have ht : t.beside = s.beside := by
      unfold t
      split
      · extract_lets u
        split
        · rw [descDone_beside, modSwc_beside]
        · rw [modSwc_beside]
      · rfl
    split
    next y c b hy => rw [when_beside fun _ => inc_beside (by decide), beside_of_pair hy, placeAll_beside fun _ _ => toExternal_beside, ht]

/-- A frame that enters the switch changes nothing beside it. -/
theorem enter_beside {p : Nat} {x : Ingress} : (s.enter p x).beside = s.beside := by
  unfold enter
  split
  · rfl
  · split
    · rw [modSwc_beside]
    · rw [feed_beside]

end Sys2Proof.Machine.State
end

section
/-!
PROOF. Transmissions of the publisher (R253–R256, R258, R263, R276).
-/

namespace Sys2Proof.Machine

open Sys2Proof.Claims

namespace State

variable {s : State} {e : Nat}

/-! ### A frame handed to the switch (R258, R276) -/

/-- What a transmission of entry `e` leaves alone while the switch takes the frame. -/
structure HandedOver (e : Nat) (s t : State) : Prop where
  canon : t.Canonical
  clk   : t.clk = s.clk
  pub   : t.pub = s.pub
  regs  : ∀ a, a < SWC_IDENT → a ∉ [PUB_TX, PUB_ENT_TX e] → t.rd a = s.rd a

theorem HandedOver.curve {t : State} (h : HandedOver e s t) (he : e < 512) (k : Nat) : t.pubInterval e k = s.pubInterval e k := by
  have hrd : t.rd (PUB_ENT_CURVE e) = s.rd (PUB_ENT_CURVE e) :=
    h.regs _ (by unfold PUB_ENT_CURVE SWC_IDENT; omega) (by simp [PUB_ENT_CURVE, PUB_TX, PUB_ENT_TX]; omega)
  unfold pubInterval fld
  rw [hrd]

/-- A frame that needs no authentication is handed over and counted. -/
theorem pubSend_sent (hs : s.Canonical) (hauth : s.fld (PUB_ENT_CFG e) 22 21 = 0) (f : List Byte) :
    Claims.Sent e f s.drew (s.pubSend e (some f) false) ∧ HandedOver e s (s.pubSend e (some f) false) := by
  have htx : PUB_TX ≠ PUB_ENT_TX e := by unfold PUB_TX PUB_ENT_TX; omega
  have hsend : s.pubSend e (some f) false = ((s.drew.toPort12 e f).inc PUB_TX).inc (PUB_ENT_TX e) := by
    have hsign : s.drew.pubSign e f = some [] := if_pos hauth
    unfold pubSend
    dsimp only
    rw [if_neg Bool.false_ne_true, hsign]
    simp only [List.isEmpty_nil, Bool.not_true, List.append_nil]
    rfl
  have hkept : Kept s (s.drew.toPort12 e f) := toPort12_kept (drew_kept (.refl s))
  have hbeside : (s.drew.toPort12 e f).beside = s.drew.beside := enter_beside
  have hpub : (s.drew.toPort12 e f).pub = s.pub := pub_of_beside hbeside
  have hok : (s.drew.toPort12 e f).RegsOk := hkept.regs hs.regsOk
  rw [hsend]
  have hsent : Claims.Sent e f s.drew (((s.drew.toPort12 e f).inc PUB_TX).inc (PUB_ENT_TX e)) := by
    refine ⟨(rd_inc_ne htx).trans (rd_inc_same hok), (rd_inc_same (regsOk_inc hok)).trans (congrArg _ (rd_inc_ne htx.symm)),
      RegsBut.setReg (RegsBut.setReg (.of_regs rfl) (by simp)) (by simp), fun k _ => ?_, rfl⟩
    exact congrArg (FMap.at' · k) hpub
  refine ⟨hsent, (setReg_kept (setReg_kept hkept)).canonical hs, hkept.clk, hpub, fun a ha hne => ?_⟩
  simp only [List.mem_cons, List.not_mem_nil, or_false, not_or] at hne
  rw [rd_inc_ne hne.2, rd_inc_ne hne.1]
  exact rd_of_beside hbeside ha

end State

open State

section

variable {s u t : State} {e k : Nat}

theorem sent_modPub {f : List Byte} (h : Claims.Sent e f u t) (g : PubEnt → PubEnt) : Claims.Sent e f u (t.modPub e g) := by
  obtain ⟨htx, hent, hregs, hpub, honly⟩ := h
  refine ⟨htx, hent, hregs, fun j hj => ?_, ?_⟩
  · exact (FMap.at'_put_other hj).trans (hpub j hj)
  · rw [honly]
    rfl

theorem sent_setStat {f : List Byte} (h : Claims.Sent e f u t) (i : Nat) (v : Bool) : Claims.Sent e f u (t.setBit (PUB_ENT_STAT e) i v) := by
  obtain ⟨htx, hent, hregs, hpub, honly⟩ := h
  refine ⟨(rd_setBit_ne ?_).trans htx, (rd_setBit_ne ?_).trans hent, hregs.setReg (by simp), hpub, ?_⟩
  · unfold PUB_TX PUB_ENT_STAT; omega
  · unfold PUB_ENT_TX PUB_ENT_STAT; omega
  · rw [honly]
    rfl

theorem gooseOut_modPub (h : GooseOut e k u t) (g : PubEnt → PubEnt) : GooseOut e k u (t.modPub e g) := by
  obtain ⟨pdu, hpdu, hsent⟩ := h
  exact ⟨pdu, hpdu, sent_modPub hsent g⟩

theorem gooseOut_setStat (h : GooseOut e k u t) (i : Nat) (v : Bool) : GooseOut e k u (t.setBit (PUB_ENT_STAT e) i v) := by
  obtain ⟨pdu, hpdu, hsent⟩ := h
  exact ⟨pdu, hpdu, sent_setStat hsent i v⟩

end

namespace State

variable {s : State} {e : Nat}

/-! ### GOOSE frames (R254–R256) -/

/-- The members of entry `e` can be encoded. -/
def Fits (e : Nat) (s : State) : Prop :=
  (allSome ((List.range (s.tplCount e)).map (fun m => s.memberElem (s.tplMember e m)))).isSome = true

theorem fits_of_same {t : State} (h : EntrySame e s t) (hfits : Fits e s) : Fits e t := by
  unfold Fits at hfits ⊢
  simpa only [h.tplCount, h.tplMember, h.memberElem] using hfits

/-- The frame of transmission `k`. -/
theorem pubFrame_out (hs : s.Canonical) (hauth : s.fld (PUB_ENT_CFG e) 22 21 = 0) (hfits : Fits e s) (k : Nat) :
    GooseOut e k s.drew (s.pubFrame e k false) ∧ HandedOver e s (s.pubFrame e k false) := by
  obtain ⟨data, hdata⟩ := Option.isSome_iff_exists.mp hfits
  have hpdu : ∃ pdu, s.goosePdu e (s.rd (PUB_ENT_STNUM e)) (s.rd (PUB_ENT_SQNUM e)) (s.rd (PUB_ENT_T_SEC e)) (s.rd (PUB_ENT_T_NS e))
      (s.pubTal e k) = some pdu := by
    unfold goosePdu
    dsimp only
    rw [hdata]
    exact ⟨_, rfl⟩
  obtain ⟨pdu, hpdu⟩ := hpdu
  have hframe : s.pubFrame e k false = s.pubSend e (some (s.pubHeader e 0x88B8 pdu.length (s.bit PUB_CTL 1) ++ pdu)) false := by
    unfold pubFrame
    rw [hpdu]
    rfl
  obtain ⟨hsent, hover⟩ := pubSend_sent hs hauth (s.pubHeader e 0x88B8 pdu.length (s.bit PUB_CTL 1) ++ pdu)
  rw [hframe]
  exact ⟨⟨pdu, hpdu, hsent⟩, hover⟩

/-- A new state of entry `e` with its number, its instant and its owner, before the frame is made (R254, R256, R260). -/
def pubNumbered (e sec ns tq : Nat) (owner : Option (Nat × Nat)) (s : State) : State :=
  (((((s.setReg (PUB_ENT_STNUM e) (nextNum (s.rd (PUB_ENT_STNUM e)))).setReg (PUB_ENT_SQNUM e) 0).setReg (PUB_ENT_T_NS e) ns).setReg
    (PUB_ENT_T_SEC e) (sec % 2 ^ 32)).evt (PUB_ENT_EVT e) 1).modPub e (fun p => { p with tq := tq, last := owner })

theorem pubNumbered_canonical (hs : s.Canonical) (sec ns tq : Nat) (owner : Option (Nat × Nat)) :
    (s.pubNumbered e sec ns tq owner).Canonical :=
  (modPub_kept (evt_kept (setReg_kept (setReg_kept (setReg_kept (setReg_kept (.refl s))))))).canonical hs

theorem pubNumbered_regs (s : State) (e sec ns tq : Nat) (owner : Option (Nat × Nat)) :
    RegsBut [PUB_ENT_STNUM e, PUB_ENT_SQNUM e, PUB_ENT_T_NS e, PUB_ENT_T_SEC e, PUB_ENT_EVT e] s (s.pubNumbered e sec ns tq owner) :=
  RegsBut.setReg (RegsBut.setReg (RegsBut.setReg (RegsBut.setReg (RegsBut.setReg (.of_regs rfl) (by simp)) (by simp)) (by simp))
    (by simp)) (by simp)

theorem pubNumbered_same (s : State) (he : e < 512) (sec ns tq : Nat) (owner : Option (Nat × Nat)) :
    EntrySame e s (s.pubNumbered e sec ns tq owner) :=
  .of_work he rfl rfl (pubNumbered_regs s e sec ns tq owner) (by simp [entryWork])

/-- The numbers and the instant that the registers show. -/
theorem pubNumbered_shows (hok : s.RegsOk) (sec ns tq : Nat) (owner : Option (Nat × Nat)) :
    let n := s.pubNumbered e sec ns tq owner
    n.rd (PUB_ENT_STNUM e) = nextNum (s.rd (PUB_ENT_STNUM e)) % 2 ^ 32 ∧ n.rd (PUB_ENT_SQNUM e) = 0 ∧
    n.rd (PUB_ENT_T_NS e) = ns % 2 ^ 32 ∧ n.rd (PUB_ENT_T_SEC e) = sec % 2 ^ 32 ∧ n.bit (PUB_ENT_EVT e) 1 = true := by
  let a := s.setReg (PUB_ENT_STNUM e) (nextNum (s.rd (PUB_ENT_STNUM e)))
  let b := a.setReg (PUB_ENT_SQNUM e) 0
  let c := b.setReg (PUB_ENT_T_NS e) ns
  let d := c.setReg (PUB_ENT_T_SEC e) (sec % 2 ^ 32)
  have ha : a.RegsOk := regsOk_setReg hok
  have hb : b.RegsOk := regsOk_setReg ha
  have hc : c.RegsOk := regsOk_setReg hb
  have hd : d.RegsOk := regsOk_setReg hc
  have hrd {x : Nat} (hx : x ≠ PUB_ENT_EVT e) : (s.pubNumbered e sec ns tq owner).rd x = d.rd x := rd_evt_ne hx
  unfold PUB_ENT_EVT at hrd
  refine ⟨?_, ?_, ?_, ?_, bit_evt_same hd (by decide)⟩
  · rw [hrd (by unfold PUB_ENT_STNUM; omega), rd_setReg_ne (by unfold PUB_ENT_STNUM PUB_ENT_T_SEC; omega),
      rd_setReg_ne (by unfold PUB_ENT_STNUM PUB_ENT_T_NS; omega), rd_setReg_ne (by unfold PUB_ENT_STNUM PUB_ENT_SQNUM; omega),
      rd_setReg_same hok]
  · rw [hrd (by unfold PUB_ENT_SQNUM; omega), rd_setReg_ne (by unfold PUB_ENT_SQNUM PUB_ENT_T_SEC; omega),
      rd_setReg_ne (by unfold PUB_ENT_SQNUM PUB_ENT_T_NS; omega), rd_setReg_same ha]
    rfl
  · rw [hrd (by unfold PUB_ENT_T_NS; omega), rd_setReg_ne (by unfold PUB_ENT_T_NS PUB_ENT_T_SEC; omega), rd_setReg_same hb]
  · rw [hrd (by unfold PUB_ENT_T_SEC; omega), rd_setReg_same hc, Nat.mod_mod]

theorem pubOf_modPub {t : State} (htidy : FMap.tidy t.pub = true) (g : PubEnt → PubEnt) : (t.modPub e g).pubOf e = g (t.pubOf e) :=
  FMap.at'_mod_same htidy

theorem pubOf_modPub_ne {t : State} {j : Nat} (hj : j ≠ e) (g : PubEnt → PubEnt) : (t.modPub e g).pubOf j = t.pubOf j :=
  FMap.at'_put_other hj

/-- The numbers are put in registers, the quality of the time and the owner in the entry. -/
theorem pubNumbered_pub (s : State) (e sec ns tq : Nat) (owner : Option (Nat × Nat)) :
    (s.pubNumbered e sec ns tq owner).pub = (s.modPub e fun p => { p with tq := tq, last := owner }).pub := rfl

theorem pubNew_eq (s : State) (e sec ns tq : Nat) (owner : Option (Nat × Nat)) (dual : Bool) :
    s.pubNew e sec ns tq owner dual = (((s.pubNumbered e sec ns tq owner).pubFrame e 0 dual).modPub e fun p =>
      { p with k := 1, renew := false, due := some (((s.pubNumbered e sec ns tq owner).pubFrame e 0 dual).clk +
        ((s.pubNumbered e sec ns tq owner).pubFrame e 0 dual).pubInterval e 0 * tUs) }).setBit (PUB_ENT_STAT e) 3 true := rfl

/-- `t` is `s` after transmission 0 of a new state of entry `e`, handed over in state `u`. -/
structure NewSent (e sec ns tq : Nat) (owner : Option (Nat × Nat)) (s u t : State) : Prop where
  out    : GooseOut e 0 u t
  stNum  : u.rd (PUB_ENT_STNUM e) = nextNum (s.rd (PUB_ENT_STNUM e)) % 2 ^ 32
  sqNum  : u.rd (PUB_ENT_SQNUM e) = 0
  tNs    : u.rd (PUB_ENT_T_NS e) = ns % 2 ^ 32
  tSec   : u.rd (PUB_ENT_T_SEC e) = sec % 2 ^ 32
  event  : u.bit (PUB_ENT_EVT e) 1 = true
  active : t.bit (PUB_ENT_STAT e) 3 = true
  tq     : (u.pubOf e).tq = tq
  due    : (t.pubOf e).due = some (s.clk + s.pubInterval e 0 * tUs)
  k      : (t.pubOf e).k = 1
  last   : (t.pubOf e).last = owner
  regs   : RegsBut [PUB_ENT_STNUM e, PUB_ENT_SQNUM e, PUB_ENT_T_NS e, PUB_ENT_T_SEC e, PUB_ENT_EVT e] s u
  others : ∀ j, j ≠ e → u.pubOf j = s.pubOf j
  only   : u = { s with regs := u.regs, free := s.free + 1, pub := u.pub }

theorem pubNew_sent (hs : s.Canonical) (he : e < 512) (hauth : s.fld (PUB_ENT_CFG e) 22 21 = 0) (hfits : Fits e s)
    (sec ns tq : Nat) (owner : Option (Nat × Nat)) :
    NewSent e sec ns tq owner s (s.pubNumbered e sec ns tq owner).drew (s.pubNew e sec ns tq owner false) := by
  have hn : (s.pubNumbered e sec ns tq owner).Canonical := pubNumbered_canonical hs sec ns tq owner
  have hsame : EntrySame e s (s.pubNumbered e sec ns tq owner) := pubNumbered_same s he sec ns tq owner
  have hregs := pubNumbered_regs s e sec ns tq owner
  have hpub := pubNumbered_pub s e sec ns tq owner
  have honly : s.pubNumbered e sec ns tq owner = { s with
    regs := (s.pubNumbered e sec ns tq owner).regs, pub := (s.pubNumbered e sec ns tq owner).pub } := rfl
  obtain ⟨hst, hsq, htns, htsec, hevt⟩ := pubNumbered_shows (e := e) hs.regsOk sec ns tq owner
  rw [pubNew_eq]
  generalize s.pubNumbered e sec ns tq owner = n at hn hsame hregs hpub honly hst hsq htns htsec hevt ⊢
  obtain ⟨hout, hover⟩ := pubFrame_out hn ((hsame.cfgFld 22 21).trans hauth) (fits_of_same hsame hfits) 0
  generalize n.pubFrame e 0 false = v at hout hover ⊢
  have hmod := pubOf_modPub (e := e) hover.canon.pubTidy fun p =>
    { p with k := 1, renew := false, due := some (v.clk + v.pubInterval e 0 * tUs) }
  have hnpub : n.pubOf e = { s.pubOf e with tq := tq, last := owner } :=
    (congrArg (FMap.at' · e) hpub).trans (pubOf_modPub hs.pubTidy _)
  have hvpub : v.pubOf e = n.pubOf e := congrArg (FMap.at' · e) hover.pub
  exact {
    out := gooseOut_setStat (gooseOut_modPub hout _) 3 true
    stNum := hst
    sqNum := hsq
    tNs := htns
    tSec := htsec
    event := hevt
    active := bit_setBit_same (s := v.modPub e _) hover.canon.regsOk (by decide)
    tq := congrArg PubEnt.tq hnpub
    due := (congrArg PubEnt.due hmod).trans (by rw [hover.clk, hover.curve he, hsame.interval, honly])
    k := congrArg PubEnt.k hmod
    last := (congrArg PubEnt.last hmod).trans (by rw [hvpub, hnpub])
    regs := hregs
    others := fun j hj => (congrArg (FMap.at' · j) hpub).trans (pubOf_modPub_ne hj _)
    only := by rw [honly]; rfl }

/-- `t` is `s` after the next transmission of entry `e`, scheduled at `at_` and handed over in state `u` (R255). -/
structure AgainSent (e at_ : Nat) (s u t : State) : Prop where
  out   : GooseOut e (s.pubOf e).k u t
  sqNum : u.rd (PUB_ENT_SQNUM e) = nextNum (s.rd (PUB_ENT_SQNUM e)) % 2 ^ 32
  k     : (t.pubOf e).k = (s.pubOf e).k + 1
  due   : (t.pubOf e).due = some (at_ + s.pubInterval e (s.pubOf e).k * tUs)
  regs  : RegsBut [PUB_ENT_SQNUM e] s u
  only  : u = { s with regs := u.regs, free := s.free + 1 }

theorem pubAgain_eq (s : State) (e at_ : Nat) (dual : Bool) :
    let v := (s.setReg (PUB_ENT_SQNUM e) (nextNum (s.rd (PUB_ENT_SQNUM e)))).pubFrame e (s.pubOf e).k dual
    s.pubAgain e at_ dual = v.modPub e fun p =>
      { p with k := (s.pubOf e).k + 1, due := some (at_ + v.pubInterval e (s.pubOf e).k * tUs) } := rfl

theorem pubAgain_sent (hs : s.Canonical) (he : e < 512) (hauth : s.fld (PUB_ENT_CFG e) 22 21 = 0) (hfits : Fits e s) (at_ : Nat) :
    AgainSent e at_ s (s.setReg (PUB_ENT_SQNUM e) (nextNum (s.rd (PUB_ENT_SQNUM e)))).drew (s.pubAgain e at_ false) := by
  have hsame : EntrySame e s (s.setReg (PUB_ENT_SQNUM e) (nextNum (s.rd (PUB_ENT_SQNUM e)))) :=
    .of_work he rfl rfl regsBut_setReg (by simp [entryWork])
  obtain ⟨hout, hover⟩ :=
    pubFrame_out (canonical_setReg hs) ((hsame.cfgFld 22 21).trans hauth) (fits_of_same hsame hfits) (s.pubOf e).k
  rw [pubAgain_eq]
  generalize (s.setReg (PUB_ENT_SQNUM e) (nextNum (s.rd (PUB_ENT_SQNUM e)))).pubFrame e (s.pubOf e).k false = v at hout hover ⊢
  have hmod := pubOf_modPub (e := e) hover.canon.pubTidy fun p =>
    { p with k := (s.pubOf e).k + 1, due := some (at_ + v.pubInterval e (s.pubOf e).k * tUs) }
  exact {
    out := gooseOut_modPub hout _
    sqNum := rd_setReg_same hs.regsOk
    k := congrArg PubEnt.k hmod
    due := (congrArg PubEnt.due hmod).trans (by rw [hover.curve he, hsame.interval])
    regs := regsBut_setReg
    only := rfl }

end State

end Sys2Proof.Machine
end

section
/-!
PROOF. What calls for a transmission: the request at the head, a retransmission that is due, a sampled-value instant.
-/

namespace Sys2Proof.Machine

open Sys2Proof.Claims

namespace State

variable {s : State} {e : Nat}

/-- The publisher works (R251). -/
def Publishing (s : State) : Prop := s.power.nx = true ∧ s.bit PUB_CTL 0 = true

/-- An entry that is on, is not refused and needs no authentication. -/
def GoodEntry (e : Nat) (s : State) : Prop :=
  s.bit (PUB_ENT_CFG e) 31 = true ∧ s.pubBad e = false ∧ s.fld (PUB_ENT_CFG e) 22 21 = 0

theorem GoodEntry.plain (h : GoodEntry e s) : s.fld (PUB_ENT_CFG e) 22 21 = 0 := h.2.2

theorem Publishing.not_idle (h : Publishing s) : ¬(s.power.nx = false ∨ s.bit PUB_CTL 0 = false) := by
  obtain ⟨hnx, hctl⟩ := h
  simp [hnx, hctl]

/-- The check of a good entry clears its bit and leaves what it is configured as. -/
theorem checked_same (s : State) (he : e < 512) : EntrySame e s (s.setBit (PUB_ENT_STAT e) 1 false) :=
  .of_work he rfl rfl regsBut_setReg (by simp [entryWork])

/-! ### The request at the head (R251–R253) -/

/-- The state in which the request `r` has left the queue. -/
def pubTaken (r : PubReq) (rest : List PubReq) (s : State) : State :=
  { s with pubQ := rest }.setBit (PUB_ENT_STAT r.entry) 2 (rest.any fun x => x.entry == r.entry)

variable {r : PubReq} {rest : List PubReq}

theorem pubTaken_regs : RegsBut [PUB_ENT_STAT r.entry] s (s.pubTaken r rest) := RegsBut.setReg (.of_regs rfl) (by simp)

theorem pubTaken_canonical (hs : s.Canonical) : (s.pubTaken r rest).Canonical :=
  (setBit_kept (Kept.fields (.refl s))).canonical hs

theorem pubTaken_same (he : r.entry < 512) : EntrySame r.entry s (s.pubTaken r rest) :=
  .of_work he rfl rfl pubTaken_regs (by simp [entryWork])

/-- The mandate is none of the entries' bits that show a request. -/
theorem pubTaken_may (hs : s.Canonical) : (s.pubTaken r rest).pubMay r.entry = s.pubMay r.entry := by
  have hcfg : (s.pubTaken r rest).rd (PUB_ENT_CFG r.entry) = s.rd (PUB_ENT_CFG r.entry) :=
    pubTaken_regs _ (by simp [PUB_ENT_CFG, PUB_ENT_STAT])
  have hmandate : (s.pubTaken r rest).mandate = s.mandate :=
    bit_setBit_other (s := { s with pubQ := rest }) hs.regsOk (by decide) (.inr (by decide))
  rw [pubMay, pubProt, bit, hcfg, hmandate, pubMay, pubProt, bit]

/-- A request that waits, of an entry that is on. -/
theorem pubTransmit_head (hon : Publishing s) (hq : s.pubQ = r :: rest) (hcfg : s.bit (PUB_ENT_CFG r.entry) 31 = true) (dual : Bool) :
    s.pubTransmit dual =
      let c := (s.pubTaken r rest).pubCheck r.entry
      if !(s.pubTaken r rest).pubMay r.entry then (s.pubTaken r rest).inc PUB_NOMANDATE
      else if c.bit (PUB_ENT_STAT r.entry) 1 then c
      else if r.refresh = false then c.pubNew r.entry r.sec r.ns r.tq r.owner dual
      else if (c.pubOf r.entry).renew then c.pubNew r.entry c.time.sec c.time.ns (timeQuality c.syncClass) none dual
      else if c.rd (PUB_ENT_STNUM r.entry) = 0 then c
      else c.pubAgain r.entry c.clk dual := by
  have hcfg' : ¬(s.pubTaken r rest).bit (PUB_ENT_CFG r.entry) 31 = false := by
    rw [bit, pubTaken_regs _ (by simp [PUB_ENT_CFG, PUB_ENT_STAT])]
    rw [show bitAt (s.rd (PUB_ENT_CFG r.entry)) 31 = true from hcfg]
    decide
  unfold pubTransmit
  rw [hq]
  dsimp only
  rw [if_neg hon.not_idle]
  exact if_neg hcfg'

/-- The state a good entry's frame is made in. -/
def pubReady (r : PubReq) (rest : List PubReq) (s : State) : State := (s.pubTaken r rest).setBit (PUB_ENT_STAT r.entry) 1 false

theorem pubReady_regs : RegsBut [PUB_ENT_STAT r.entry] s (s.pubReady r rest) := pubTaken_regs.setReg (by simp)

theorem pubReady_canonical (hs : s.Canonical) : (s.pubReady r rest).Canonical := canonical_setReg (pubTaken_canonical hs)

theorem pubReady_same (he : r.entry < 512) : EntrySame r.entry s (s.pubReady r rest) :=
  .of_work he rfl rfl pubReady_regs (by simp [entryWork])

theorem pubTransmit_good (hs : s.Canonical) (hon : Publishing s) (hq : s.pubQ = r :: rest) (he : r.entry < 512)
    (hgood : GoodEntry r.entry s) (hmay : s.pubMay r.entry = true) (dual : Bool) :
    s.pubTransmit dual =
      let c := s.pubReady r rest
      if r.refresh = false then c.pubNew r.entry r.sec r.ns r.tq r.owner dual
      else if (s.pubOf r.entry).renew then c.pubNew r.entry c.time.sec c.time.ns (timeQuality c.syncClass) none dual
      else if s.rd (PUB_ENT_STNUM r.entry) = 0 then c
      else c.pubAgain r.entry s.clk dual := by
  obtain ⟨hcfg, hbad, -⟩ := hgood
  have hcheck : (s.pubTaken r rest).pubCheck r.entry = s.pubReady r rest := pubCheck_good ((pubTaken_same he).bad.trans hbad)
  have hst : (s.pubReady r rest).rd (PUB_ENT_STNUM r.entry) = s.rd (PUB_ENT_STNUM r.entry) :=
    pubReady_regs _ (by simp [PUB_ENT_STNUM, PUB_ENT_STAT])
  have hok : (s.pubReady r rest).bit (PUB_ENT_STAT r.entry) 1 = false := bit_setBit_same (pubTaken_canonical hs).regsOk (by decide)
  rw [pubTransmit_head hon hq hcfg]
  dsimp only
  rw [hcheck, pubTaken_may hs, hmay, hok, hst]
  rfl

/-! ### Retransmissions (R253, R255) -/

variable {d : Nat}

/-- A retransmission that is due, of an entry that is on and may transmit. -/
theorem retransmit_good (hs : s.Canonical) (hon : Publishing s) (hd : (s.pubOf e).due = some d) (hdue : d ≤ s.clk) 
    (hgood : GoodEntry e s) (hmay : s.pubMay e = true) (hrenew : (s.pubOf e).renew = false) (dual : Bool) :
    s.retransmit e dual = (s.setBit (PUB_ENT_STAT e) 1 false).pubAgain e d dual := by
  obtain ⟨hcfg, hbad, -⟩ := hgood
  obtain ⟨hnx, hctl⟩ := hon
  have hok : (s.setBit (PUB_ENT_STAT e) 1 false).bit (PUB_ENT_STAT e) 1 = false := bit_setBit_same hs.regsOk (by decide)
  unfold retransmit
  rw [hd]
  dsimp only
  rw [if_neg (by simp [hnx, hctl, hdue]), if_neg (by simp [hcfg, hmay]), pubCheck_good hbad, hok]
  exact (if_neg Bool.false_ne_true).trans (if_neg (show ¬(s.pubOf e).renew = true by rw [hrenew]; decide))

/-- A retransmission that is due without the mandate. -/
theorem retransmit_ends (hon : Publishing s) (hd : (s.pubOf e).due = some d) (hdue : d ≤ s.clk) (hmay : s.pubMay e = false) (dual : Bool) :
    s.retransmit e dual =
      ((s.modPub e fun p => { p with due := none }).setBit (PUB_ENT_STAT e) 3 false).evt (PUB_ENT_EVT e) 3 := by
  obtain ⟨hnx, hctl⟩ := hon
  unfold retransmit
  rw [hd]
  dsimp only
  rw [if_neg (by simp [hnx, hctl, hdue]), if_pos (.inr hmay)]

/-! ### Sampled values (R263) -/

/-- The next sample instant of a stream, once the one numbered `cnt` of the `r` in a second has come. -/
def svNext (r cnt : Nat) (p : PubEnt) : PubEnt :=
  { p with
    svSec := if cnt + 1 < r then p.svSec else p.svSec + 1
    svCnt := if cnt + 1 < r then cnt + 1 else 0 }

/-- The state in which the sample is taken, the instant after it set. -/
def svReady (e : Nat) (s : State) : State :=
  (s.setBit (PUB_ENT_STAT e) 1 false).modPub e (svNext (s.svRate e) (s.pubOf e).svCnt)

theorem svReady_regs : RegsBut [PUB_ENT_STAT e] s (s.svReady e) := regsBut_setReg

theorem svReady_canonical (hs : s.Canonical) : (s.svReady e).Canonical := (modPub_kept (setBit_kept (.refl s))).canonical hs

theorem svReady_same (he : e < 512) : EntrySame e s (s.svReady e) := .of_work he rfl rfl svReady_regs (by simp [entryWork])

theorem svReady_pub (hs : s.Canonical) : (s.svReady e).pubOf e = svNext (s.svRate e) (s.pubOf e).svCnt (s.pubOf e) :=
  pubOf_modPub (t := s.setBit (PUB_ENT_STAT e) 1 false) hs.pubTidy _

/-- What a stream has collected with the sample of this instant. -/
def svCollected (e : Nat) (s : State) : List (List Byte) := (s.pubOf e).svBuf ++ [s.svAsdu e (s.pubOf e).svCnt]

/-- The state in which a frame of samples leaves. -/
def svEmptied (e : Nat) (s : State) : State := (s.svReady e).modPub e fun p => { p with svBuf := [] }

/-- A sample instant that has come and is not late. -/
theorem svPublish_good (hs : s.Canonical) (hon : Publishing s) (he : e < 512) (hgood : GoodEntry e s) (hrun : (s.pubOf e).svRun = true)
    (hcome : ((s.pubOf e).svSec * s.svRate e + (s.pubOf e).svCnt) * 10 ^ 9 ≤ s.wallNs * s.svRate e)
    (hlate : s.wallNs * s.svRate e ≤ ((s.pubOf e).svSec * s.svRate e + (s.pubOf e).svCnt + 1) * 10 ^ 9)
    (hmay : s.pubMay e = true) (dual : Bool) :
    s.svPublish e dual =
      if (s.svCollected e).length < s.fld (PUB_ENT_SV e) 5 3 + 1 then
        (s.svReady e).modPub e fun p => { p with svBuf := s.svCollected e }
      else (s.svEmptied e).pubSend e (some ((s.svEmptied e).svFrame e (s.svCollected e))) dual := by
  obtain ⟨hcfg, hbad, -⟩ := hgood
  obtain ⟨hnx, hctl⟩ := hon
  have hok : (s.svReady e).bit (PUB_ENT_STAT e) 1 = false :=
    bit_setBit_same (s := s) hs.regsOk (by decide)
  have hsame : EntrySame e s (s.svReady e) := svReady_same he
  have hbuf : ((s.svReady e).pubOf e).svBuf = (s.pubOf e).svBuf := (congrArg PubEnt.svBuf (svReady_pub hs)).trans rfl
  have hmay' : (s.svEmptied e).pubMay e = true := hsame.may.trans hmay
  have hnow : ¬(s.power.nx = false ∨ s.bit PUB_CTL 0 = false ∨ s.bit (PUB_ENT_CFG e) 31 = false ∨ (s.pubOf e).svRun = false ∨
      s.wallNs * s.svRate e < ((s.pubOf e).svSec * s.svRate e + (s.pubOf e).svCnt) * 10 ^ 9) := by
    simp only [hnx, hctl, hcfg, hrun, Bool.true_eq_false, false_or, not_lt]
    exact hcome
  unfold svPublish
  extract_lets p r c cnt late w l v
  have hc : c = s.setBit (PUB_ENT_STAT e) 1 false := pubCheck_good hbad
  have hwall : c.wallNs = s.wallNs := by rw [hc]; rfl
  have hintime : late = false := by
    unfold late
    rw [hwall]
    exact decide_eq_false (Nat.not_lt.mpr hlate)
  have hw : w = s.svReady e := by
    unfold w
    rw [hintime, if_neg Bool.false_ne_true, hc]
    rfl
  have hl : l = s.svCollected e := by
    unfold l
    rw [hw, hbuf, hsame.svAsdu]
    rfl
  have hv : v = s.svEmptied e := by
    unfold v
    rw [hw]
    rfl
  rw [if_neg hnow, hw, hok, if_neg Bool.false_ne_true, hl, hv, hsame.svFld, hmay']
  rfl

end State

open State

section

variable {s : State} {r : PubReq} {rest : List PubReq}

/-- R254, R256: the request of a new state. -/
theorem transmits_new (hs : s.Canonical) (hon : Publishing s) (hq : s.pubQ = r :: rest) (he : r.entry < 256) (hnew : r.refresh = false)
    (hgood : GoodEntry r.entry s) (hmay : s.pubMay r.entry = true) (hfits : Fits r.entry s) :
    Answers (.pubTransmit false) s fun t => ∃ u : State,
      GooseOut r.entry 0 u t ∧ u.rd (PUB_ENT_STNUM r.entry) = nextNum (s.rd (PUB_ENT_STNUM r.entry)) % 2 ^ 32 ∧
      u.rd (PUB_ENT_SQNUM r.entry) = 0 ∧ u.rd (PUB_ENT_T_NS r.entry) = r.ns % 2 ^ 32 ∧
      u.rd (PUB_ENT_T_SEC r.entry) = r.sec % 2 ^ 32 ∧
      u.bit (PUB_ENT_EVT r.entry) 1 = true ∧ t.bit (PUB_ENT_STAT r.entry) 3 = true ∧ (u.pubOf r.entry).tq = r.tq ∧
      (t.pubOf r.entry).due = some (s.clk + s.pubInterval r.entry 0 * tUs) ∧ (t.pubOf r.entry).k = 1 ∧
      (t.pubOf r.entry).last = r.owner ∧
      RegsBut [PUB_ENT_STAT r.entry, PUB_ENT_STNUM r.entry, PUB_ENT_SQNUM r.entry, PUB_ENT_T_NS r.entry, PUB_ENT_T_SEC r.entry,
        PUB_ENT_EVT r.entry] s u ∧
      (∀ k, k ≠ r.entry → u.pubOf k = s.pubOf k) ∧
      u = { s with regs := u.regs, free := s.free + 1, pubQ := rest, pub := u.pub } := by
  have he' : r.entry < 512 := by omega
  have hsame : EntrySame r.entry s (s.pubReady r rest) := pubReady_same he'
  have hst : (s.pubReady r rest).rd (PUB_ENT_STNUM r.entry) = s.rd (PUB_ENT_STNUM r.entry) :=
    pubReady_regs _ (by simp [PUB_ENT_STNUM, PUB_ENT_STAT])
  have h := pubNew_sent (pubReady_canonical (rest := rest) hs) he' ((hsame.cfgFld 22 21).trans hgood.plain) (fits_of_same hsame hfits)
    r.sec r.ns r.tq r.owner
  refine .of_exec rfl ((pubTransmit_good hs hon hq he' hgood hmay false).trans (if_pos hnew))
    ⟨_, h.out, ?_, h.sqNum, h.tNs, h.tSec, h.event, h.active, h.tq, ?_, h.k, h.last,
      RegsBut.trans (pubReady_regs.mono (by simp)) (h.regs.mono (by simp)), h.others, h.only⟩
  · rw [h.stNum, hst]
  · rw [h.due, hsame.interval]
    rfl

/-- R255: the request of a refresh. -/
theorem transmits_again (hs : s.Canonical) (hon : Publishing s) (hq : s.pubQ = r :: rest) (he : r.entry < 256)
    (hnew : r.refresh = true)
    (hgood : GoodEntry r.entry s) (hmay : s.pubMay r.entry = true) (hfits : Fits r.entry s)
    (hrenew : (s.pubOf r.entry).renew = false) (hst : s.rd (PUB_ENT_STNUM r.entry) ≠ 0) :
    Answers (.pubTransmit false) s fun t => ∃ u : State,
      GooseOut r.entry (s.pubOf r.entry).k u t ∧
      u.rd (PUB_ENT_SQNUM r.entry) = nextNum (s.rd (PUB_ENT_SQNUM r.entry)) % 2 ^ 32 ∧
      (t.pubOf r.entry).k = (s.pubOf r.entry).k + 1 ∧
      (t.pubOf r.entry).due = some (s.clk + s.pubInterval r.entry (s.pubOf r.entry).k * tUs) ∧
      RegsBut [PUB_ENT_STAT r.entry, PUB_ENT_SQNUM r.entry] s u ∧
      u = { s with regs := u.regs, free := s.free + 1, pubQ := rest } := by
  have he' : r.entry < 512 := by omega
  have hsame : EntrySame r.entry s (s.pubReady r rest) := pubReady_same he'
  have hsq : (s.pubReady r rest).rd (PUB_ENT_SQNUM r.entry) = s.rd (PUB_ENT_SQNUM r.entry) :=
    pubReady_regs _ (by simp [PUB_ENT_SQNUM, PUB_ENT_STAT])
  have h := pubAgain_sent (pubReady_canonical (rest := rest) hs) he' ((hsame.cfgFld 22 21).trans hgood.plain) (fits_of_same hsame hfits)
    s.clk
  refine .of_exec rfl ((pubTransmit_good hs hon hq he' hgood hmay false).trans
    ((if_neg (by simp [hnew])).trans ((if_neg (by simp [hrenew])).trans (if_neg hst)))) ⟨_, h.out, ?_, h.k, ?_,
    RegsBut.trans (pubReady_regs.mono (by simp)) (h.regs.mono (by simp)), h.only⟩
  · rw [h.sqNum, hsq]
  · rw [h.due, hsame.interval]
    rfl

/-- R253: without the mandate a gated entry's request is discarded. -/
theorem discards_request (hs : s.Canonical) (hon : Publishing s) (hq : s.pubQ = r :: rest)
    (hcfg : s.bit (PUB_ENT_CFG r.entry) 31 = true) (hmay : s.pubMay r.entry = false) (dual : Bool) :
    Answers (.pubTransmit dual) s fun t =>
      t.rd PUB_NOMANDATE = incSat 32 (s.rd PUB_NOMANDATE) ∧ RegsBut [PUB_NOMANDATE, PUB_ENT_STAT r.entry] s t ∧
      t = { s with regs := t.regs, pubQ := rest } := by
  have hdrop : (!(s.pubTaken r rest).pubMay r.entry) = true := by rw [pubTaken_may hs, hmay]; rfl
  refine .of_exec rfl ((pubTransmit_head hon hq hcfg dual).trans (if_pos hdrop)) ⟨?_,
    (pubTaken_regs.mono (by simp)).setReg (by simp), rfl⟩
  rw [rd_inc_same (pubTaken_canonical hs).regsOk, pubTaken_regs _ (by simp [PUB_NOMANDATE, PUB_ENT_STAT]; omega)]

/-- R255: a retransmission that is due. -/
theorem retransmits {e : Fin 256} {d : Nat} (hs : s.Canonical) (hon : Publishing s) (hd : (s.pubOf e).due = some d) (hdue : d ≤ s.clk)
    (hgood : GoodEntry e s) (hmay : s.pubMay e = true) (hrenew : (s.pubOf e).renew = false) (hfits : Fits e s) :
    Answers (.retransmission e false) s fun t => ∃ u : State,
      GooseOut e (s.pubOf e).k u t ∧ u.rd (PUB_ENT_SQNUM e) = nextNum (s.rd (PUB_ENT_SQNUM e)) % 2 ^ 32 ∧
      (t.pubOf e).k = (s.pubOf e).k + 1 ∧ (t.pubOf e).due = some (d + s.pubInterval e (s.pubOf e).k * tUs) ∧
      RegsBut [PUB_ENT_STAT e, PUB_ENT_SQNUM e] s u ∧ u = { s with regs := u.regs, free := s.free + 1 } := by
  have he : e.val < 512 := by omega
  have hsame := checked_same s he
  have hsq : (s.setBit (PUB_ENT_STAT e) 1 false).rd (PUB_ENT_SQNUM e) = s.rd (PUB_ENT_SQNUM e) :=
    rd_setBit_ne (by unfold PUB_ENT_SQNUM PUB_ENT_STAT; omega)
  have h := pubAgain_sent (s := s.setBit (PUB_ENT_STAT e) 1 false) (canonical_setReg hs) he
    ((hsame.cfgFld 22 21).trans hgood.plain) (fits_of_same hsame hfits) d
  refine .of_exec rfl (retransmit_good hs hon hd hdue hgood hmay hrenew false) ⟨_, h.out, ?_, h.k, ?_,
    RegsBut.trans (regsBut_setReg.mono (by simp)) (h.regs.mono (by simp)), h.only⟩
  · rw [h.sqNum]
    exact congrArg (fun x => nextNum x % 2 ^ 32) hsq
  · rw [h.due]
    exact congrArg (fun x => some (d + x * tUs)) (hsame.interval _)

/-- R253: without the mandate a gated entry's curve ends. -/
theorem curve_ends {e : Fin 256} {d : Nat} (hs : s.Canonical) (hon : Publishing s) (hd : (s.pubOf e).due = some d) (hdue : d ≤ s.clk)
    (hmay : s.pubMay e = false) (dual : Bool) : Answers (.retransmission e dual) s fun t =>
      (t.pubOf e).due = none ∧ t.rd (PUB_ENT_STAT e) = lowered (s.rd (PUB_ENT_STAT e)) 3 ∧
      t.rd (PUB_ENT_EVT e) = raised (s.rd (PUB_ENT_EVT e)) 3 ∧ RegsBut [PUB_ENT_STAT e, PUB_ENT_EVT e] s t ∧
      t = { s with regs := t.regs, pub := t.pub } := by
  have hne : PUB_ENT_STAT e ≠ PUB_ENT_EVT e := by unfold PUB_ENT_STAT PUB_ENT_EVT; omega
  let m := s.modPub e fun p => { p with due := none }
  have hm : m.RegsOk := hs.regsOk
  have hpub : m.pubOf e = { s.pubOf e with due := none } := pubOf_modPub hs.pubTidy _
  refine .of_exec rfl (retransmit_ends hon hd hdue hmay dual) ⟨congrArg PubEnt.due hpub, ?_, ?_,
    RegsBut.setReg (RegsBut.setReg (.of_regs rfl) (by simp)) (by simp), rfl⟩
  · rw [rd_evt_ne hne]
    exact rd_setFld_same hm (by decide) (by decide)
  · rw [rd_evt_same (regsOk_setBit hm) (by decide), rd_setBit_ne hne.symm]
    rfl

/-- R263: a sample instant that has come. -/
theorem publishes_sample {k : Fin 8} {e : Nat} (hk : e = 256 + k.val) (hs : s.Canonical) (hon : Publishing s)
    (hgood : GoodEntry e s) (hrun : (s.pubOf e).svRun = true)
    (hcome : ((s.pubOf e).svSec * s.svRate e + (s.pubOf e).svCnt) * 10 ^ 9 ≤ s.wallNs * s.svRate e)
    (hlate : s.wallNs * s.svRate e ≤ ((s.pubOf e).svSec * s.svRate e + (s.pubOf e).svCnt + 1) * 10 ^ 9)
    (hmay : s.pubMay e = true) : Answers (.svPublish k false) s fun t =>
      (t.pubOf e).svCnt = (svNext (s.svRate e) (s.pubOf e).svCnt (s.pubOf e)).svCnt ∧
      (t.pubOf e).svSec = (svNext (s.svRate e) (s.pubOf e).svCnt (s.pubOf e)).svSec ∧
      (s.fld (PUB_ENT_SV e) 5 3 ≤ (s.pubOf e).svBuf.length →
        (t.pubOf e).svBuf = [] ∧ ∃ u : State, Claims.Sent e (u.svFrame e (s.svCollected e)) u t ∧
          RegsBut [PUB_ENT_STAT e] s u ∧ (∀ j, j ≠ e → u.pubOf j = s.pubOf j) ∧
          u = { s with regs := u.regs, free := s.free + 1, pub := u.pub }) ∧
      ((s.pubOf e).svBuf.length < s.fld (PUB_ENT_SV e) 5 3 →
        (t.pubOf e).svBuf = s.svCollected e ∧ RegsBut [PUB_ENT_STAT e] s t ∧
        t = { s with regs := t.regs, pub := t.pub }) := by
  have he : e < 512 := by omega
  refine .of_exec (u := s.svPublish e false) (by rw [hk]; rfl) (svPublish_good hs hon he hgood hrun hcome hlate hmay false) ?_
  have hready := svReady_pub (e := e) hs
  have htidy := (svReady_canonical (e := e) hs).pubTidy
  have hlen : (s.svCollected e).length = (s.pubOf e).svBuf.length + 1 := by simp [svCollected]
  by_cases hmore : (s.svCollected e).length < s.fld (PUB_ENT_SV e) 5 3 + 1
  · rw [if_pos hmore]
    have hpub := (pubOf_modPub (e := e) htidy fun p => { p with svBuf := s.svCollected e }).trans (by rw [hready])
    refine ⟨(congrArg PubEnt.svCnt hpub).trans rfl, (congrArg PubEnt.svSec hpub).trans rfl, fun hfull => ?_,
      fun _ => ⟨(congrArg PubEnt.svBuf hpub).trans rfl, svReady_regs, rfl⟩⟩
    omega
  · rw [if_neg hmore]
    have hauth : (s.svEmptied e).fld (PUB_ENT_CFG e) 22 21 = 0 := ((svReady_same he).cfgFld 22 21).trans hgood.plain
    obtain ⟨hsent, hover⟩ := pubSend_sent (s := s.svEmptied e) ((modPub_kept (.refl _)).canonical (svReady_canonical hs)) hauth
      ((s.svEmptied e).svFrame e (s.svCollected e))
    have hpub := ((congrArg (FMap.at' · e) hover.pub).trans (pubOf_modPub (e := e) htidy fun p => { p with svBuf := [] })).trans
      (by rw [hready])
    refine ⟨(congrArg PubEnt.svCnt hpub).trans rfl, (congrArg PubEnt.svSec hpub).trans rfl,
      fun _ => ⟨(congrArg PubEnt.svBuf hpub).trans rfl, _, hsent, svReady_regs,
      fun j hj => ?_, rfl⟩, fun hroom => ?_⟩
    · exact (pubOf_modPub_ne (t := s.svReady e) hj fun p => { p with svBuf := [] }).trans
        (pubOf_modPub_ne (t := s.setBit (PUB_ENT_STAT e) 1 false) hj _)
    · omega

/-! ### Nothing to send -/

variable {e : Nat}

theorem pubTransmit_idle (h : s.pubQ = [] ∨ s.power.nx = false ∨ s.bit PUB_CTL 0 = false) (dual : Bool) : s.pubTransmit dual = s := by
  unfold pubTransmit
  split
  · rfl
  next hq =>
    rcases h with h | h
    · exact absurd (hq.symm.trans h) (List.cons_ne_nil _ _)
    · exact if_pos h

theorem retransmit_idle (h : (∀ d, (s.pubOf e).due = some d → s.clk < d) ∨ s.power.nx = false ∨ s.bit PUB_CTL 0 = false) (dual : Bool) :
    s.retransmit e dual = s := by
  unfold retransmit
  split
  · rfl
  next d hd =>
    refine if_pos ?_
    rcases h with h | h | h
    · exact .inr (.inl (h d hd))
    · exact .inl h
    · exact .inr (.inr h)

theorem svPublish_idle (h : s.power.nx = false ∨ s.bit PUB_CTL 0 = false ∨ s.bit (PUB_ENT_CFG e) 31 = false ∨ (s.pubOf e).svRun = false)
    (dual : Bool) : s.svPublish e dual = s := by
  unfold svPublish
  refine if_pos ?_
  rcases h with h | h | h | h
  · exact .inl h
  · exact .inr (.inl h)
  · exact .inr (.inr (.inl h))
  · exact .inr (.inr (.inr (.inl h)))

end

/-- Settles O31: what calls for each transmission, and the frame it hands to the switch. -/
theorem publisherFrames : Obligations.PublisherFrames := by
  unfold Obligations.PublisherFrames
  intro s hs
  refine ⟨fun h dual => .of_exec rfl (pubTransmit_idle h dual) rfl, fun e dual h => .of_exec rfl (retransmit_idle h dual) rfl,
    fun k dual h => .of_exec rfl (svPublish_idle h dual) rfl, fun hnx hctl => ?_⟩
  have hon : Publishing s := ⟨hnx, hctl⟩
  exact ⟨fun r rest hq he hnew hgood hmay hfits => transmits_new hs hon hq he hnew hgood hmay hfits,
    fun r rest hq he hnew hgood hmay hfits hrenew hst => transmits_again hs hon hq he hnew hgood hmay hfits hrenew hst,
    fun r rest dual hq hcfg hmay => discards_request hs hon hq hcfg hmay dual,
    fun e d hd hdue hgood hmay hrenew hfits => retransmits hs hon hd hdue hgood hmay hrenew hfits,
    fun e dual d hd hdue hmay => curve_ends hs hon hd hdue hmay dual,
    fun k hgood hrun hcome hlate hmay => publishes_sample rfl hs hon hgood hrun hcome hlate hmay⟩

end Sys2Proof.Machine
end
